-- ==== Sys2Proof/Word.lean ====
section
/-! DEFINITION. The word types of the Ndenik and their plainest arithmetic (R10). -/

namespace Sys2Proof

/-- One byte of any memory. -/
abbrev Byte := BitVec 8

/-- A scalar register S0 to S31 (R77). -/
abbrev Scalar := BitVec 64

/-- A tile descriptor TD0 to TD63 (R94, Table ENC-4). -/
abbrev TileDesc := BitVec 256

/-- A Tynil instruction word (R86). -/
abbrev InsWord := BitVec 128

/-- A control-space word (R413). -/
abbrev Word32 := BitVec 32

/-- Bits `[hi:lo]` of a number, as the manual writes bit ranges (R10). -/
def bitRange (v hi lo : Nat) : Nat := (v / 2 ^ lo) % 2 ^ (hi + 1 - lo)

/-- One bit of a number. -/
def bitAt (v i : Nat) : Bool := v.testBit i

/-- Division rounding up, the manual's `⌈a / b⌉`. -/
def ceilDiv (a b : Nat) : Nat := (a + b - 1) / b

/-- The least multiple of `b` at or above `a`. -/
def roundUp (a b : Nat) : Nat := ceilDiv a b * b

end Sys2Proof
end

