-- ==== Sys2Proof/Config.lean ====
section
/-! DEFINITION. What an implementation fixes and the manual leaves open, and the free values. None has a
body that a proof could see. -/

namespace Sys2Proof

/-- Fresh free values, drawn in order: ephemeral keys, signature nonces and the bytes
that a racing write leaves in a read (R441, R443, R489). (log 10 DESIGN CHOICE) -/
opaque Config.freeValue : Nat → Nat

/-- The rate adjustments of the counter, in order (R34). They have a sequence of their own, because their times must
not show in any result of a job (R364). (log 47 DEDUCED) -/
opaque Config.rate : Nat → Nat

/-- Corrected errors of a frame or period: what is counted (0 HBM, 1 SRAM, 2 + 2p and 3 + 2p the codewords that port p
corrected and could not correct) and the stamp and count of its end (R342, R425).
(log 93 DESIGN CHOICE) -/
opaque Config.corrected : Nat → Nat → Nat → Nat

/-- The bytes of a sample record whose sum is not finite, which the manual does not state (R356): by descriptor,
invocation and element. (log 48 DEDUCED) -/
opaque Config.sampleOpen : Nat → Nat → Nat → Nat

/-- A field of an output record that its kind gives no content (Table HERD-7): by frame, record of the open and field.
Equal runs hold equal records (R364). (log 40 DEDUCED) -/
opaque Config.recordField : Nat → Nat → Nat → Nat

/-- Control cycles for which the writes that wait for a copy are held, in order (R396, R399). (log 50 DEDUCED) -/
opaque Config.holdCc : Nat → Nat

/-- The namespace of the NVMe controller is one that the device can use (R398). (log 67 PRESUMED) -/
opaque Config.nvmeFits : Bool

/-- The 1,024-bit response of the SRAM PUF at power-on (R433). (log 62 DESIGN CHOICE) -/
opaque Config.pufResponse : List Byte

/-- The fuzzy extractor: the 512-bit secret that a response and the helper data of the flash give (R433).
(log 62 DESIGN CHOICE) -/
opaque Config.pufSecret : List Byte → List Byte → List Byte

/-- The labels under which the keys are derived from the secret (R433). (log 62 DESIGN CHOICE) -/
opaque Config.keyLabel : Nat → List Byte

/-- The boot ROM's bytes' SHA-512 digest, first extension of measurement slot 0 (Table BOOT-6).
(log 62 DESIGN CHOICE) -/
opaque Config.bootRomDigest : List Byte

/-- The boot ROM's SHA-512 digests of the four Stalvolen public keys (R435). (log 62 DESIGN CHOICE) -/
opaque Config.stalvolenDigest : Nat → List Byte

/-- What a byte of the SPI NOR flash reads as that the device has not written: the board delivers the flash with
its images. (log 5 DESIGN CHOICE) -/
opaque Config.flashByte : Nat → BitVec 8

/-- What the endpoint's configuration space answers at a dword offset for which the manual gives no content, by the
offset and the value last written there. (log 67 PRESUMED) -/
opaque Config.configRead : Nat → Nat → Nat

/-- The dword offset of the PCI Express capability in the configuration space. (log 67 PRESUMED) -/
opaque Config.capExpress : Nat
/-- The dword offset of the MSI-X capability. (log 67 PRESUMED) -/
opaque Config.capMsix : Nat
/-- The dword offset of the Resizable BAR capability. (log 67 PRESUMED) -/
opaque Config.capRebar : Nat
/-- The dword offset of the Device Serial Number capability. (log 67 PRESUMED) -/
opaque Config.capSerial : Nat
/-- The dword offset of the Advanced Error Reporting capability. (log 67 PRESUMED) -/
opaque Config.capAer : Nat
/-- Dword offset of the Device 3 extended capability. (log 67 PRESUMED) -/
opaque Config.capDevice3 : Nat

/-- The value of the two address strap lands (R459). (log 62 DESIGN CHOICE) -/
opaque Config.straps : Nat

/-- The rate and width to which the link of the NVMe root port trains (R458). (log 67 PRESUMED) -/
opaque Config.nvmeRate : Nat
/-- The width to which the link of the NVMe root port trains. (log 67 PRESUMED) -/
opaque Config.nvmeWidth : Nat

/-- The silicon revision (R451). (log 62 DESIGN CHOICE) -/
opaque Config.revision : Nat

/-- Firmware placement (R60): portable form, placement version, ordering code and member count to the bytes
of a placed form, or none where placement fails (R59). (log 52 DESIGN CHOICE) -/
opaque Config.place : List Byte → Nat → Nat → Nat → Option (List Byte)

/-- A quotient with a zero divisor, as an F32 code by the F32 code of its dividend: the manual states no
result there. (log 26 DESIGN CHOICE) -/
opaque Config.divZero : Nat → Nat

/-- The reciprocal square root of a zero, as an F32 code: the manual states no result there. (log 26 DESIGN CHOICE) -/
opaque Config.rsqrtZero : Nat

/-- The integer part of log2(fmax / h) in VAMAX where software has set a history entry to an infinity: the manual states no
logarithm of zero (R120). (log 26 DESIGN CHOICE) -/
opaque Config.log2Open : Int

/-- SiLU (0) and GELU (1) of −∞, as F32 codes: their form is −∞ times zero there, and the manual states no result.
(log 26 DESIGN CHOICE) -/
opaque Config.gateNegInf : Nat → Nat

end Sys2Proof
end

