-- ==== Sys2Proof/Machine/Bits.lean ====
section
/-! DEFINITION. Byte order, two's complement and list helpers (R10: little-endian). -/

namespace Sys2Proof.Machine

open Sys2Proof

/-- The number a little-endian byte list holds (R10). -/
def leNat : List Byte → Nat
  | [] => 0
  | b :: t => b.toNat + 256 * leNat t

/-- `n` little-endian bytes of a number (R10). -/
def leBytes : Nat → Nat → List Byte
  | 0, _ => []
  | n + 1, v => BitVec.ofNat 8 v :: leBytes n (v / 256)

/-- The number a big-endian byte list holds (signatures and keys, R487). -/
def beNat (bs : List Byte) : Nat := leNat bs.reverse

/-- `n` big-endian bytes of a number (R487). -/
def beBytes (n v : Nat) : List Byte := (leBytes n v).reverse

/-- An `n`-bit pattern read as a two's complement integer. -/
def twos (n v : Nat) : Int :=
  let w := v % 2 ^ n
  if w < 2 ^ (n - 1) then (w : Int) else (w : Int) - (2 ^ n : Nat)

/-- The `n`-bit two's complement pattern of an integer. -/
def untwos (n : Nat) (i : Int) : Nat := (i % ((2 ^ n : Nat) : Int)).toNat

/-- A list cut or padded with `d` to exactly `n` elements. -/
def padTo {α : Type} (d : α) (n : Nat) (l : List α) : List α :=
  l.take n ++ List.replicate (n - l.length) d

/-- `n` bytes of a list from offset `o`, zero where the list ends. -/
def slice (l : List Byte) (o n : Nat) : List Byte := padTo 0 n (l.drop o)

/-- The little-endian field of `n` bytes at offset `o` of a byte list. -/
def field (l : List Byte) (o n : Nat) : Nat := leNat (slice l o n)

/-- The ASCII bytes of a string (magics of Tables TYN-2, REC-5, BOOT-4, BOOT-5, BOOT-7). -/
def ascii (t : String) : List Byte := t.toList.map fun c => BitVec.ofNat 8 c.toNat

/-- All bytes of a list are zero. -/
def allZero (l : List Byte) : Bool := l.all (· == 0)

/-- Replace element `i` of a list by `f` of it. -/
def modifyAt {α : Type} (l : List α) (i : Nat) (f : α → α) : List α := l.modify i f

/-- Sum of a function over a list. -/
def sumBy {α : Type} (l : List α) (f : α → Nat) : Nat := l.foldl (fun a x => a + f x) 0

/-- Largest value of a function over a list, 0 for none. -/
def maxBy {α : Type} (l : List α) (f : α → Nat) : Nat := l.foldl (fun a x => max a (f x)) 0

/-- Is the list strictly ascending. -/
def strictlyAscending : List Nat → Bool
  | [] => true
  | [_] => true
  | a :: b :: t => a < b && strictlyAscending (b :: t)

/-- No element occurs twice. -/
def noDup : List Nat → Bool
  | [] => true
  | a :: t => !t.contains a && noDup t

/-- Two half-open ranges given by start and length share an element. -/
def rangesMeet (a la b lb : Nat) : Bool := la != 0 && lb != 0 && a < b + lb && b < a + la

/-- Some two ranges of the list overlap. -/
def anyOverlap : List (Nat × Nat) → Bool
  | [] => false
  | (a, n) :: t => t.any (fun q => rangesMeet a n q.1 q.2) || anyOverlap t

/-- Cut a list into pieces of `n`. -/
def chunksOf {α : Type} (n : Nat) : Nat → List α → List (List α)
  | 0, _ => []
  | k + 1, l => if l.isEmpty then [] else l.take n :: chunksOf n k (l.drop n)

end Sys2Proof.Machine
end

