-- ==== Sys2Proof/Machine/Real.lean ====
section
/-! DEFINITION. Exact numbers m × 2^e, IEEE binary32 arithmetic on them and the functions whose
result is the F32 value nearest to the exact one (R126, R176, R177, R222, R358). -/

namespace Sys2Proof.Machine

open Sys2Proof

/-- A value: exact `m × 2^e`, the zero of a floating code with a minus sign, an infinity (`true` for −∞) or a NaN. An
exact zero carries no sign and is written as +0. (log 76 DEDUCED) -/
inductive Val where
  | fin (m : Int) (e : Int)
  | nzero
  | inf (neg : Bool)
  | nan
  deriving DecidableEq, Repr

namespace Val

/-- Exact zero. -/
def zero : Val := .fin 0 0

/-- The value of an integer. -/
def ofInt (i : Int) : Val := .fin i 0

/-- Neither infinite nor NaN. -/
def isFinite : Val → Bool
  | .fin _ _ => true
  | .nzero => true
  | _ => false

/-- Exactly zero. -/
def isZero : Val → Bool
  | .fin m _ => m == 0
  | .nzero => true
  | _ => false

/-- The significand of a finite value brought to exponent `e`, exact when `e` is at most its own. -/
def atExp (m e lo : Int) : Int := m * (2 : Int) ^ (e - lo).toNat

/-- Exact sum of two dyadics. -/
def addFin (m1 e1 m2 e2 : Int) : Val :=
  let lo := min e1 e2
  .fin (atExp m1 e1 lo + atExp m2 e2 lo) lo

/-- Below zero, or a zero with a minus sign. -/
def minus : Val → Bool
  | .fin m _ => decide (m < 0)
  | .nzero => true
  | .inf s => s
  | .nan => false

/-- A zero of a sign. -/
def zeroOf (neg : Bool) : Val := if neg then .nzero else zero

/-- The value without the sign of a zero: a zero of either sign is zero (R117). -/
def plain : Val → Val
  | .nzero => zero
  | v => v

/-- Negation. -/
def neg : Val → Val
  | .fin m e => if m = 0 then .nzero else .fin (-m) e
  | .nzero => zero
  | .inf s => .inf (!s)
  | .nan => .nan

/-- Exact sum; the sum of opposite infinities is NaN, and of two zeros with a minus sign such a zero. -/
def add : Val → Val → Val
  | .fin a e, .fin b f => addFin a e b f
  | .nan, _ => .nan
  | _, .nan => .nan
  | .nzero, b => b
  | a, .nzero => a
  | .inf s, .inf t => if s = t then .inf s else .nan
  | .inf s, .fin _ _ => .inf s
  | .fin _ _, .inf t => .inf t

/-- Exact difference. -/
def sub (a b : Val) : Val := add a (neg b)

/-- Exact product; zero times infinity is NaN, and a zero product has the sign of its factors. -/
def mul (x y : Val) : Val :=
  match x, y with
  | .nan, _ => .nan
  | _, .nan => .nan
  | .inf s, y => if y.isZero then .nan else .inf (s != y.minus)
  | x, .inf t => if x.isZero then .nan else .inf (t != x.minus)
  | .fin a e, .fin b f => if a = 0 || b = 0 then zeroOf (x.minus != y.minus) else .fin (a * b) (e + f)
  | x, y => zeroOf (x.minus != y.minus)

/-- Order of two values; a NaN is below nothing, and the zeros are equal. -/
def lt (x y : Val) : Bool :=
  match x.plain, y.plain with
  | .fin a e, .fin b f => let lo := min e f; decide (atExp a e lo < atExp b f lo)
  | .inf s, .inf t => s && !t
  | .inf s, .fin _ _ => s
  | .fin _ _, .inf t => !t
  | _, _ => false

/-- `a ≤ b` for values that are no NaN. -/
def le (a b : Val) : Bool := !lt b a && a != .nan && b != .nan

/-- Equal as numbers. -/
def eqv (a b : Val) : Bool := !lt a b && !lt b a && a != .nan && b != .nan

/-- Absolute value. -/
def abs : Val → Val
  | .fin m e => .fin (m.natAbs : Int) e
  | .nzero => zero
  | .inf _ => .inf false
  | .nan => .nan

/-- The larger of two values; a NaN operand gives the other. -/
def max (a b : Val) : Val := if lt a b then b else if a = .nan then b else a

end Val

/-- ⌊log2⌋ of the magnitude of a non-zero dyadic. -/
def dyLog2 (m e : Int) : Int := e + (Nat.log2 m.natAbs : Nat)

/-- ⌊a × 2^s⌋ for a natural number and any shift. -/
def shiftNat (a : Nat) (s : Int) : Nat := if s ≥ 0 then a * 2 ^ s.toNat else a / 2 ^ (-s).toNat

/-- The part of `a × 2^s` below one, as bits after the binary point: its first `k` bits. -/
def fracBits (a : Nat) (s : Int) (k : Nat) : Nat :=
  if s ≥ 0 then 0
  else
    let d := (-s).toNat
    (a % 2 ^ d) * 2 ^ k / 2 ^ d

/-- A rounding rule (R127): nearest even, or stochastic with the 32-bit word to add (R128). -/
inductive Rounding where
  | nearest
  | stochastic (word : Nat)
  deriving DecidableEq, Repr

/-- Round `a × 2^s` (a ≥ 0) to an integer under R127 and R128. -/
def roundNat (r : Rounding) (a : Nat) (s : Int) : Nat :=
  let q := shiftNat a s
  match r with
  | .nearest =>
    if s ≥ 0 then q
    else
      let d := (-s).toNat
      let rem := a % 2 ^ d
      let half := 2 ^ d
      if 2 * rem > half then q + 1
      else if 2 * rem = half then q + q % 2
      else q
  | .stochastic w => if fracBits a s 32 + w ≥ 2 ^ 32 then q + 1 else q

/-- Round `m × 2^s` to an integer as a two's complement value: the kept part is the floor (R127). -/
def roundInt (r : Rounding) (m : Int) (s : Int) : Int :=
  if s ≥ 0 then m * 2 ^ s.toNat
  else
    let d := (-s).toNat
    let q : Int := m / (2 ^ d : Nat)
    let rem : Nat := (m % (2 ^ d : Nat)).toNat
    match r with
    | .nearest =>
      if 2 * rem > 2 ^ d then q + 1
      else if 2 * rem = 2 ^ d then q + q % 2
      else q
    | .stochastic w => if rem * 2 ^ 32 / 2 ^ d + w ≥ 2 ^ 32 then q + 1 else q

/-- A floating format (Table FMT-2): exponent bits, fraction bits, bias, and whether exponent field
all ones holds infinities and NaNs. -/
structure FloatFmt where
  eb : Nat
  fb : Nat
  bias : Int
  special : Bool
  deriving DecidableEq, Repr

/-- F8e4 of Table FMT-2. -/
def fmtF8e4 : FloatFmt := ⟨4, 3, 7, false⟩
/-- F8e5 of Table FMT-2. -/
def fmtF8e5 : FloatFmt := ⟨5, 2, 15, true⟩
/-- F16b of Table FMT-2. -/
def fmtF16b : FloatFmt := ⟨8, 7, 127, true⟩
/-- F32 of Table FMT-2. -/
def fmtF32 : FloatFmt := ⟨8, 23, 127, true⟩

namespace FloatFmt

/-- The value of a code (R116). -/
def decode (f : FloatFmt) (code : Nat) : Val :=
  let s : Int := if bitAt code (f.eb + f.fb) then -1 else 1
  let ex := bitRange code (f.eb + f.fb - 1) f.fb
  let fr := code % 2 ^ f.fb
  if ex = 0 && fr = 0 && s < 0 then .nzero
  else if f.special && ex == 2 ^ f.eb - 1 then
    if fr = 0 then .inf (s < 0) else .nan
  else if ex = 0 then .fin (s * fr) (1 - f.bias - f.fb)
  else .fin (s * ((2 ^ f.fb + fr : Nat) : Int)) ((ex : Int) - f.bias - f.fb)

/-- The sign bit. -/
def signBit (f : FloatFmt) (neg : Bool) : Nat := if neg then 2 ^ (f.eb + f.fb) else 0

/-- The code of the largest finite magnitude. -/
def maxCode (f : FloatFmt) : Nat :=
  if f.special then (2 ^ f.eb - 1) * 2 ^ f.fb - 1 else 2 ^ (f.eb + f.fb) - 1

/-- The code of +∞, for a format that has one. -/
def infCode (f : FloatFmt) : Nat := (2 ^ f.eb - 1) * 2 ^ f.fb

/-- The canonical NaN: 0x7F, 0x7FC0, 0x7FC0_0000 (R117); F8e5 sets every fraction bit. -/
def nanCode (f : FloatFmt) : Nat :=
  if f.fb = 2 then f.infCode + 3 else f.infCode + 2 ^ (f.fb - 1)

/-- The magnitude code of `a × 2^e` after one rounding, unbounded above (a later test finds overflow). -/
def roundMag (f : FloatFmt) (r : Rounding) (a : Nat) (e : Int) : Nat :=
  let emin : Int := 1 - f.bias
  let top : Int := dyLog2 a e
  let lo : Int := if top < emin then emin else top
  let k := roundNat r a (e - (lo - f.fb))
  -- k lies in 0 .. 2^(fb+1); the code counts upward through the exponent boundary
  if top < emin then k else ((lo + f.bias - 1).toNat) * 2 ^ f.fb + k

/-- Encode under R117, R127, R130 and Table FMT-7, the sign kept: the code, whether it counts as saturated, and whether a
NaN was written as zero. -/
def encode (f : FloatFmt) (r : Rounding) (v : Val) : Nat × Bool × Bool :=
  match v with
  | .nan => if f.special then (f.nanCode, false, false) else (0, false, true)
  | .inf s =>
    if f.special then (f.signBit s + f.infCode, false, false) else (f.signBit s + f.maxCode, true, false)
  | .nzero => (f.signBit true, false, false)
  | .fin m e =>
    if m = 0 then (0, false, false)
    else
      let c := f.roundMag r m.natAbs e
      let s := f.signBit (m < 0)
      if c ≤ f.maxCode then (s + c, false, false)
      else if f.special then (s + f.infCode, true, false)
      else (s + f.maxCode, true, false)

/-- Round a value into the format, to nearest even, as a value. -/
def nearest (f : FloatFmt) (v : Val) : Val := f.decode (f.encode .nearest v).1

end FloatFmt

/-- The F32 value nearest to an exact one. -/
def rndF32 (v : Val) : Val := fmtF32.nearest v

/-- F32 from its bits. -/
def f32 (bits : Nat) : Val := fmtF32.decode (bits % 2 ^ 32)

/-- The bits of an F32 value. -/
def f32Bits (v : Val) : Nat := (fmtF32.encode .nearest v).1

/-- F32 addition, rounded once to nearest even. -/
def addF32 (a b : Val) : Val := rndF32 (a.add b)
/-- F32 subtraction. -/
def subF32 (a b : Val) : Val := rndF32 (a.sub b)
/-- F32 multiplication. -/
def mulF32 (a b : Val) : Val := rndF32 (a.mul b)

/-- A positive ratio as a dyadic of at least `k` quotient bits whose last bit is sticky, so that one
rounding of it equals one rounding of the exact ratio. -/
def ratioSticky (n d : Nat) (k : Nat) : Nat × Int :=
  let sh := k + Nat.log2 d + 1
  let q := n * 2 ^ sh / d
  let s := if n * 2 ^ sh % d = 0 then 0 else 1
  (2 * q + s, -(sh : Int) - 1)

/-- F32 division, the exact quotient rounded once. Infinite operands and zero dividends follow IEEE 754
(DEDUCED from R116); a zero divisor gives a free value. (log 26 DESIGN CHOICE, 27 DEDUCED) -/
def divF32 (a b : Val) : Val :=
  let neg := a.minus != b.minus
  match a, b with
  | .nan, _ => .nan
  | _, .nan => .nan
  | .inf _, .inf _ => .nan
  | .inf _, b => if b.isZero then f32 (Config.divZero (f32Bits a)) else .inf neg
  | _, .inf _ => Val.zeroOf neg
  | .fin m e, .fin n f =>
    if n = 0 then f32 (Config.divZero (f32Bits a))
    else if m = 0 then Val.zeroOf neg
    else
      let (q, x) := ratioSticky m.natAbs n.natAbs 300
      rndF32 (.fin (if neg then -(q : Int) else q) (x + e - f))
  | .nzero, b => if b.isZero then f32 (Config.divZero (f32Bits a)) else Val.zeroOf neg
  | _, .nzero => f32 (Config.divZero (f32Bits a))

/-- The square root of `a × 2^e` as a dyadic with a sticky last bit. -/
def sqrtSticky (a : Nat) (e : Int) : Nat × Int :=
  let odd : Nat := if e % 2 = 0 then 0 else 1
  let a := a * 2 ^ odd * 2 ^ 400
  let e := e - odd - 400
  let q := Nat.sqrt a
  (2 * q + (if q * q = a then 0 else 1), e / 2 - 1)

/-- The F32 value nearest to a square root; of a negative number NaN. (log 27 DEDUCED) -/
def sqrtF32 (v : Val) : Val :=
  match v with
  | .fin m e =>
    if m = 0 then .zero else if m < 0 then .nan
    else let (q, x) := sqrtSticky m.natAbs e; rndF32 (.fin q x)
  | .nzero => .nzero
  | .inf s => if s then .nan else .inf false
  | .nan => .nan

/-- The F32 value nearest to 1 / √v, rounded once (R222); `atZero` is the result at zero.
(log 26 DESIGN CHOICE, 27 DEDUCED) -/
def rsqrtF32 (atZero : Val) (v : Val) : Val :=
  match v with
  | .fin m e =>
    if m = 0 then atZero else if m < 0 then .nan
    else
      let odd : Nat := if e % 2 = 0 then 0 else 1
      let a := m.natAbs * 2 ^ odd
      let h := (e - odd) / 2
      let kk := 300 + Nat.log2 a
      let q := Nat.sqrt (2 ^ (2 * kk) / a)
      let s := if q * q * a = 2 ^ (2 * kk) then 0 else 1
      rndF32 (.fin ((2 * q + s : Nat) : Int) (-(kk : Int) - 1 - h))
  | .nzero => atZero
  | .inf s => if s then .nan else .zero
  | .nan => .nan

/-! ### Exponentials by fixed point with 400 fractional bits

The exact result of an exponential at a non-zero F32 argument is never a rounding tie, so 400 bits
with a sticky last bit round as the exact value does. -/

/-- Fractional bits of the fixed point used for exponentials. -/
def fixBits : Nat := 400

/-- ln 2 in fixed point: Σ 1 / (i × 2^i). -/
def ln2Fix : Nat := sumBy (List.range 420) fun i => 2 ^ fixBits / ((i + 1) * 2 ^ (i + 1))

/-- Σ r^i / i! in fixed point for 0 ≤ r < 1, by Horner's rule over 90 terms. -/
def expSeries (r : Nat) : Nat :=
  ((List.range 90).reverse).foldl (fun acc i => 2 ^ fixBits + acc * r / ((i + 1) * 2 ^ fixBits)) (2 ^ fixBits)

/-- e^x for a fixed-point argument, as a dyadic. -/
def expFix (x : Int) : Nat × Int :=
  let k := x / (ln2Fix : Int)
  let r := x - k * (ln2Fix : Int)
  (2 * expSeries r.toNat + 1, k - (fixBits : Int) - 1)

/-- `m × 2^e` in fixed point, rounded down. -/
def toFix (m e : Int) : Int :=
  let s := e + (fixBits : Int)
  if s ≥ 0 then m * 2 ^ s.toNat else m / ((2 ^ (-s).toNat : Nat) : Int)

/-- The F32 value nearest to e^v (R176, R222). (log 27 DEDUCED) -/
def expF32 (v : Val) : Val :=
  match v with
  | .nan => .nan
  | .inf s => if s then .zero else .inf false
  | .nzero => .ofInt 1
  | .fin m e =>
    if m = 0 then .ofInt 1
    else if Val.lt (.ofInt 200) v then .inf false
    else if Val.lt v (.ofInt (-200)) then .zero
    else let (q, x) := expFix (toFix m e); rndF32 (.fin q x)

/-- 1 / (1 + e^(−z)) for a fixed-point z within ±400, as a dyadic with a sticky last bit. -/
def sigmoidFix (z : Int) : Nat × Int :=
  let (q, x) := expFix (-z)
  -- 1 + q 2^x = (2^k + q 2^(x+k)) / 2^k with k making both integers
  let k : Nat := if x < 0 then (-x).toNat else 0
  let d := 2 ^ k + (if x < 0 then q else q * 2 ^ x.toNat)
  ratioSticky (2 ^ k) d 300

/-- σ(v), rounded once as a whole (R177). (log 27 DEDUCED) -/
def sigmoidF32 (v : Val) : Val :=
  match v with
  | .nan => .nan
  | .inf s => if s then .zero else .ofInt 1
  | .nzero => .fin 1 (-1)
  | .fin m e =>
    if m = 0 then .fin 1 (-1)
    else if Val.lt (.ofInt 300) v then .ofInt 1
    else if Val.lt v (.ofInt (-300)) then .zero
    else let (q, x) := sigmoidFix (toFix m e); rndF32 (.fin q x)

/-- v × σ(z): the common form of SiLU (z = v) and the tanh form of GELU, rounded once. -/
def gated (m e : Int) (z : Int) : Val :=
  let big : Int := (400 : Int) * 2 ^ fixBits
  let (q, x) :=
    if z > big then (2 ^ 400 - 1, (-400 : Int))
    else if z < -big then (1, (-600 : Int))
    else sigmoidFix z
  rndF32 (.fin (m * (q : Int)) (e + x))

/-- SiLU, x × σ(x) (Table ENC-11, FN 0); of −∞ a free value. (log 26 DESIGN CHOICE, 27 DEDUCED) -/
def siluF32 (v : Val) : Val :=
  match v with
  | .nan => .nan
  | .inf s => if s then f32 (Config.gateNegInf 0) else .inf false
  | .nzero => .nzero
  | .fin m e =>
    if m = 0 then .zero
    else if Val.lt (.ofInt 1000) v then gated m e ((1000 : Int) * 2 ^ fixBits)
    else if Val.lt v (.ofInt (-1000)) then gated m e (-(1000 : Int) * 2 ^ fixBits)
    else gated m e (toFix m e)

/-- arctan(1/n) in fixed point. -/
def atanInv (n : Nat) : Int :=
  (List.range 300).foldl
    (fun acc i => acc + (if i % 2 = 0 then 1 else -1) * ((2 ^ fixBits / ((2 * i + 1) * n ^ (2 * i + 1)) : Nat) : Int)) 0

/-- π in fixed point, by Machin's formula. -/
def piFix : Nat := (4 * (4 * atanInv 5 - atanInv 239)).toNat

/-- 2 × √(2/π) in fixed point. -/
def geluScale : Nat := 2 * Nat.sqrt (2 ^ (3 * fixBits + 1) / piFix)

/-- The tanh form of GELU: x/2 × (1 + tanh(√(2/π)(x + 0.044715 x³))) = x × σ(2√(2/π)(x + 0.044715 x³)); of −∞ a
free value. (log 26 DESIGN CHOICE, 27 DEDUCED) -/
def geluF32 (v : Val) : Val :=
  match v with
  | .nan => .nan
  | .inf s => if s then f32 (Config.gateNegInf 1) else .inf false
  | .nzero => .nzero
  | .fin m e =>
    if m = 0 then .zero
    else if Val.lt (.ofInt 50) v then gated m e ((1000 : Int) * 2 ^ fixBits)
    else if Val.lt v (.ofInt (-50)) then gated m e (-(1000 : Int) * 2 ^ fixBits)
    else
      let t := toFix m e + toFix (m * m * m * 44715) (3 * e) / 1000000
      gated m e (t * (geluScale : Int) / (2 ^ fixBits : Nat))

end Sys2Proof.Machine
end

