-- ==== Sys2Proof/Machine/Formats.lean ====
section
/-! DEFINITION. The 22 element formats, block scales, narrowing and the array's element pairs
(R115 to R132, Table ENC-5). -/

namespace Sys2Proof.Machine

open Sys2Proof

/-- An element format (Table ENC-5). -/
inductive Fmt where
  /-- I1 to I8 and I16: n-bit two's complement (R115). -/
  | int (n : Nat)
  /-- T2: −1, 0, +1 (Table FMT-1). -/
  | t2
  /-- B1 to B8: n-bit integers under a block scale (R118). -/
  | blk (n : Nat)
  | f8e4
  | f8e5
  | f16b
  | f32
  deriving DecidableEq, Repr

namespace Fmt

/-- The format of a code, none for 22 to 31 (Table ENC-5). -/
def ofCode (c : Nat) : Option Fmt :=
  if c ≤ 7 then some (.int (c + 1))
  else if c = 8 then some (.int 16)
  else if c = 9 then some .t2
  else if c ≤ 17 then some (.blk (c - 9))
  else if c = 18 then some .f8e4
  else if c = 19 then some .f8e5
  else if c = 20 then some .f16b
  else if c = 21 then some .f32
  else none

/-- The code of a format. -/
def code : Fmt → Nat
  | .int n => if n = 16 then 8 else n - 1
  | .t2 => 9
  | .blk n => n + 9
  | .f8e4 => 18
  | .f8e5 => 19
  | .f16b => 20
  | .f32 => 21

/-- Element width n in bits (R80). -/
def width : Fmt → Nat
  | .int n => n
  | .t2 => 2
  | .blk n => n
  | .f8e4 => 8
  | .f8e5 => 8
  | .f16b => 16
  | .f32 => 32

/-- The format keeps one scale byte per 32 elements. -/
def blocked : Fmt → Bool
  | .blk _ => true
  | _ => false

/-- The floating format, if it is one. -/
def float? : Fmt → Option FloatFmt
  | .f8e4 => some fmtF8e4
  | .f8e5 => some fmtF8e5
  | .f16b => some fmtF16b
  | .f32 => some fmtF32
  | _ => none

end Fmt

/-- The scale a byte stands for (R118): none for a zero block, and whether it was clamped. -/
def scaleOf (b : Nat) : Option Int × Bool :=
  let s := twos 8 b
  if b % 256 = 0x80 then (none, false)
  else if s < -15 then (some (-15), true)
  else if s > 15 then (some 15, true)
  else (some s, false)

/-- The value of an element code; `scale` is that of its block for B formats (R115, R116, R118). (log 25 DEDUCED) -/
def Fmt.decode (f : Fmt) (scale : Option Int) (c : Nat) : Val :=
  match f with
  | .int n => .fin (twos n c) 0
  | .t2 => if c % 4 = 1 then .fin 1 0 else if c % 4 = 3 then .fin (-1) 0 else .zero
  | .blk n => match scale with | none => .zero | some s => .fin (twos n c) s
  | .f8e4 => fmtF8e4.decode c
  | .f8e5 => fmtF8e5.decode c
  | .f16b => fmtF16b.decode c
  | .f32 => fmtF32.decode c

/-- What a narrowing counts: saturated elements and NaNs written as zero (R130). -/
structure Narrowed where
  code : Nat
  sat : Bool
  nanZero : Bool
  deriving DecidableEq, Repr

/-- Clamp an integer to [lo, hi], telling whether it moved. -/
def clampInt (lo hi i : Int) : Int × Bool :=
  if i < lo then (lo, true) else if i > hi then (hi, true) else (i, false)

/-- Narrow one value into a format under Table FMT-7; `scale` is the chosen block scale of a B
format, none for a zero block (R130, R131). -/
def Fmt.narrow (f : Fmt) (r : Rounding) (scale : Option Int) (v : Val) : Narrowed :=
  match f.float? with
  | some ff => let (c, s, z) := ff.encode r v; ⟨c, s, z⟩
  | none =>
    let lo : Int := match f with | .t2 => -1 | _ => -(2 ^ (f.width - 1) : Nat)
    let hi : Int := match f with | .t2 => 1 | _ => ((2 ^ (f.width - 1) : Nat) : Int) - 1
    match v with
    | .nan => ⟨0, false, true⟩
    | .inf s => ⟨untwos f.width (if s then lo else hi), true, false⟩
    | .nzero => ⟨0, false, false⟩
    | .fin m e =>
      match f with
      | .blk n =>
        match scale with
        | none => ⟨0, false, false⟩
        | some s =>
          let q : Int := roundNat r m.natAbs (e - s)
          let (c, t) := clampInt lo hi (if m < 0 then -q else q)
          ⟨untwos n c, t, false⟩
      | _ =>
        let (c, t) := clampInt lo hi (roundInt r m e)
        ⟨untwos f.width c, t, false⟩

/-- The scale byte chosen for a block from its finite elements (R131). -/
def chooseScale (n : Nat) (vs : List Val) : Nat :=
  let a := vs.foldl (fun x v => if v.isFinite then Val.max x v.abs else x) .zero
  match a with
  | .fin m e =>
    if m = 0 then 0x80
    else untwos 8 (clampInt (-15) 15 (dyLog2 m e - ((n : Int) - 2))).1
  | _ => 0x80

/-! ### How elements enter the array -/

/-- A signed significand and a shift: the value q × 2^e (R122). -/
structure QE where
  q : Int
  e : Int
  deriving DecidableEq, Repr

/-- The exponent offset of Table FMT-4 and the place of the significand (R123 step 3). -/
def alignOf : Fmt → Int × Nat
  | .f8e4 => (13, 3)
  | .f8e5 => (21, 4)
  | .f16b => (141, 7)
  | _ => (157, 7)

/-- The effective exponent and significand of a floating code, none for infinities and NaN (R123). -/
def effective (ff : FloatFmt) (c : Nat) : Option (Nat × Nat) :=
  let ex := bitRange c (ff.eb + ff.fb - 1) ff.fb
  let fr := c % 2 ^ ff.fb
  if ff.special && ex == 2 ^ ff.eb - 1 then none
  else if ex = 0 then some (1, fr) else some (ex, 2 ^ ff.fb + fr)

/-- Align one block of 16 floating codes (R123). (log 25 DEDUCED) -/
def alignBlock (f : Fmt) (ff : FloatFmt) (cs : List Nat) : List QE :=
  let (off, sh) := alignOf f
  let big := maxBy cs fun c => match effective ff c with | none => 0 | some (x, _) => x
  let top := if big = 0 then 1 else big
  cs.map fun c =>
    match effective ff c with
    | none => ⟨0, (top : Int) - off⟩
    | some (x, m) =>
      let q : Int := roundNat .nearest (m * 2 ^ sh) (-((top - x : Nat) : Int))
      ⟨if bitAt c (ff.eb + ff.fb) then -q else q, (top : Int) - off⟩

/-- Infinities and NaNs of a code list, each entering as q = 0 (R123). -/
def countNonfinite (ff : FloatFmt) (cs : List Nat) : Nat :=
  (cs.filter fun c => (effective ff c).isNone).length

/-- The lowest e of a format (Table FMT-4), whose sum over a pair is the weight W (R124). -/
def Fmt.eMin : Fmt → Int
  | .int _ => 0
  | .t2 => 0
  | .blk _ => -15
  | .f8e4 => -12
  | .f8e5 => -20
  | .f16b => -140
  | .f32 => -156

/-- The q width of Table FMT-4; for a stationary operand the serial bits b (R105, R122). -/
def Fmt.qWidth (f : Fmt) : Nat := f.width

/-- Streaming slices s = ⌈q width / 8⌉ (R139). -/
def Fmt.slices (f : Fmt) : Nat := ceilDiv f.qWidth 8

/-- Formats of 8 bits or fewer and I16, whose pairs accumulate exactly (R125, R126). -/
def Fmt.exact : Fmt → Bool
  | .f16b => false
  | .f32 => false
  | _ => true

end Sys2Proof.Machine
end

