-- ==== Sys2Proof/Machine/Encoding.lean ====
section
/-! DEFINITION. The Tynil instruction word: its fields, one encoder per opcode, and what admission and
issue read from a word (R86 to R88, Tables ENC-1, ENC-2, ENC-7 to ENC-13). -/

namespace Sys2Proof.Machine

open Sys2Proof

/-- The engines with a queue per core (R88, Table ENC-2): each fabric die has a collective engine of its own (R350), and
the exchange engines share one queue per core. (log 86 DESIGN CHOICE) -/
inductive Eng where
  | loader | array | pairing | row | vec | sep | churn | xch | coll (die : Fin 10) | gmem | pail | tier
  deriving DecidableEq, Repr

/-- Bits `[hi:lo]` of an instruction word. -/
def wbits (w : InsWord) (hi lo : Nat) : Nat := bitRange w.toNat hi lo

/-- OPCODE (Table ENC-1). -/
def wOp (w : InsWord) : Nat := wbits w 127 120
/-- CLASS (Table ENC-1). -/
def wCls (w : InsWord) : Nat := wbits w 119 116
/-- PSEL (Table ENC-1). -/
def wPsel (w : InsWord) : Nat := wbits w 115 112

/-- A word from its class, opcode, predicate select and operand fields, each at its lowest bit. -/
def mkWord (cls opc : Nat) (psel : BitVec 4) (fs : List (Nat × Nat)) : InsWord :=
  BitVec.ofNat 128 (opc * 2 ^ 120 + cls * 2 ^ 116 + psel.toNat * 2 ^ 112 +
    sumBy fs fun f => f.2 * 2 ^ f.1)

/-! ### Encoders -/

/-- SADD to SSRA, opcodes 0x01 to 0x09 (Table ENC-7). -/
def encArith (opc : Nat) (psel : BitVec 4) (sd sa sb : BitVec 5) (imm : Bool) (imm32 : BitVec 32) : InsWord :=
  mkWord 0xB opc psel [(107, sd.toNat), (102, sa.toNat), (97, sb.toNat), (96, imm.toNat), (64, imm32.toNat)]

/-- SMOVI. -/
def encSmovi (psel : BitVec 4) (sd : BitVec 5) (imm64 : BitVec 64) : InsWord :=
  mkWord 0xB 0x0A psel [(107, sd.toNat), (32, imm64.toNat)]

/-- SCMP. -/
def encScmp (psel : BitVec 4) (pd : BitVec 3) (cond : BitVec 2) (sa sb : BitVec 5) (imm : Bool)
    (imm32 : BitVec 32) : InsWord :=
  mkWord 0xB 0x0B psel
    [(109, pd.toNat), (107, cond.toNat), (102, sa.toNat), (97, sb.toNat), (96, imm.toNat), (64, imm32.toNat)]

/-- PSET. -/
def encPset (psel : BitVec 4) (pd pa pb : BitVec 3) (pop : BitVec 2) : InsWord :=
  mkWord 0xB 0x0C psel [(109, pd.toNat), (106, pa.toNat), (103, pb.toNat), (101, pop.toNat)]

/-- TDSET. -/
def encTdset (psel : BitVec 4) (td : BitVec 6) (fld : BitVec 4) (sa : BitVec 5) (add : Bool) : InsWord :=
  mkWord 0xB 0x10 psel [(106, td.toNat), (102, fld.toNat), (97, sa.toNat), (96, add.toNat)]

/-- TDCOPY. -/
def encTdcopy (psel : BitVec 4) (tdd tda : BitVec 6) : InsWord :=
  mkWord 0xB 0x11 psel [(106, tdd.toNat), (100, tda.toNat)]

/-- LOOP; `count` and `body` are the encoded fields, each one less than its count. -/
def encLoop (psel : BitVec 4) (count : BitVec 16) (body : BitVec 18) (iter : Bool) (si : BitVec 5) : InsWord :=
  mkWord 0xB 0x20 psel [(96, count.toNat), (78, body.toNat), (77, iter.toNat), (72, si.toNat)]

/-- SYNC.BAR. -/
def encSyncBar (psel : BitVec 4) (mask : BitVec 48) (id : BitVec 8) : InsWord :=
  mkWord 0xB 0x30 psel [(64, mask.toNat), (56, id.toNat)]

/-- FENCE.ENG. -/
def encFenceEng (psel : BitVec 4) (cmask : BitVec 13) : InsWord := mkWord 0xB 0x31 psel [(99, cmask.toNat)]

/-- FENCE.GMEM. -/
def encFenceGmem (psel : BitVec 4) (scope : Bool) (sa : BitVec 5) : InsWord :=
  mkWord 0xB 0x32 psel [(111, scope.toNat), (106, sa.toNat)]

/-- NOP. -/
def encNop (psel : BitVec 4) : InsWord := mkWord 0xB 0x3F psel []

/-- TICK.END. -/
def encTickEnd (psel : BitVec 4) : InsWord := mkWord 0xC 0x01 psel []

/-- TICK.WAIT. -/
def encTickWait (psel : BitVec 4) (src : Bool) (sa : BitVec 5) (offs : BitVec 27) : InsWord :=
  mkWord 0xC 0x02 psel [(111, src.toNat), (106, sa.toNat), (69, offs.toNat)]

/-- TICK.FRAME. -/
def encTickFrame (psel : BitVec 4) (sd se : BitVec 5) : InsWord :=
  mkWord 0xC 0x03 psel [(107, sd.toNat), (102, se.toNat)]

/-- TICK.NOW. -/
def encTickNow (psel : BitVec 4) (sd : BitVec 5) : InsWord := mkWord 0xC 0x04 psel [(107, sd.toNat)]

/-- The tile offsets of form D: SR, SC and OFF (Table ENC-9). -/
structure Offs where
  sr : BitVec 5
  sc : BitVec 5
  off : Bool
  deriving DecidableEq, Repr

/-- The sizes of form D: NR − 1 and NC − 1 (Table ENC-9). -/
structure Size where
  nr : BitVec 12
  nc : BitVec 12
  deriving DecidableEq, Repr

/-- The fields of `Offs` in form D. -/
def Offs.fields (o : Offs) : List (Nat × Nat) := [(83, o.sr.toNat), (78, o.sc.toNat), (77, o.off.toNat)]
/-- The fields of `Size` in form D. -/
def Size.fields (z : Size) : List (Nat × Nat) := [(65, z.nr.toNat), (53, z.nc.toNat)]

/-- MOVE.TILE. -/
def encMoveTile (psel : BitVec 4) (tdd tda : BitVec 6) (o : Offs) (z : Size) (rnd : BitVec 2) : InsWord :=
  mkWord 0x0 0x01 psel ([(106, tdd.toNat), (100, tda.toNat), (51, rnd.toNat)] ++ o.fields ++ z.fields)

/-- MOVE.FILL. -/
def encMoveFill (psel : BitVec 4) (tdd : BitVec 6) (o : Offs) (z : Size) (ss : BitVec 5) : InsWord :=
  mkWord 0x0 0x02 psel ([(106, tdd.toNat), (46, ss.toNat)] ++ o.fields ++ z.fields)

/-- MM.LOAD. -/
def encMmLoad (psel : BitVec 4) (tda : BitVec 6) (o : Offs) (z : Size) : InsWord :=
  mkWord 0x1 0x01 psel ([(100, tda.toNat)] ++ o.fields ++ z.fields)

/-- MM.RUN. -/
def encMmRun (psel : BitVec 4) (tda : BitVec 6) (o : Offs) (z : Size) (accset : BitVec 2) (acc : Bool)
    (skim : BitVec 2) (skimAt : BitVec 4) (st : BitVec 5) : InsWord :=
  mkWord 0x1 0x02 psel ([(100, tda.toNat), (49, accset.toNat), (48, acc.toNat), (46, skim.toNat),
    (42, skimAt.toNat), (37, st.toNat)] ++ o.fields ++ z.fields)

/-- MM.STORE. -/
def encMmStore (psel : BitVec 4) (tdd : BitVec 6) (o : Offs) (z : Size) (rnd accset : BitVec 2) : InsWord :=
  mkWord 0x1 0x03 psel ([(106, tdd.toNat), (51, rnd.toNat), (49, accset.toNat)] ++ o.fields ++ z.fields)

/-- MM.PAIR. -/
def encMmPair (psel : BitVec 4) (tda tdb : BitVec 6) (z : Size) (accset : BitVec 2) (acc : Bool) : InsWord :=
  mkWord 0x1 0x04 psel ([(100, tda.toNat), (94, tdb.toNat), (49, accset.toNat), (48, acc.toNat)] ++ z.fields)

/-- ROW.SMAX. -/
def encRowSmax (psel : BitVec 4) (tdd tda : BitVec 6) (z : Size) (rnd : BitVec 2) (stat : BitVec 13)
    (ss : BitVec 5) : InsWord :=
  mkWord 0x2 0x01 psel ([(106, tdd.toNat), (100, tda.toNat), (51, rnd.toNat), (38, stat.toNat),
    (32, ss.toNat)] ++ z.fields)

/-- ROW.NORM. -/
def encRowNorm (psel : BitVec 4) (tdd tda tdc : BitVec 6) (z : Size) (rnd : BitVec 2) (stat : BitVec 13)
    (ss : BitVec 5) (nkind : BitVec 2) : InsWord :=
  mkWord 0x2 0x02 psel ([(106, tdd.toNat), (100, tda.toNat), (88, tdc.toNat), (51, rnd.toNat),
    (38, stat.toNat), (32, ss.toNat), (30, nkind.toNat)] ++ z.fields)

/-- ROW.SMAX.B. -/
def encRowSmaxB (psel : BitVec 4) (tdd tda tdb : BitVec 6) (z : Size) (rnd : BitVec 2) (stat : BitVec 13)
    (recomp : Bool) (ss : BitVec 5) : InsWord :=
  mkWord 0x2 0x03 psel ([(106, tdd.toNat), (100, tda.toNat), (94, tdb.toNat), (51, rnd.toNat),
    (38, stat.toNat), (37, recomp.toNat), (32, ss.toNat)] ++ z.fields)

/-- ROW.NORM.B. -/
def encRowNormB (psel : BitVec 4) (tdd tda tdb tdc : BitVec 6) (z : Size) (rnd : BitVec 2) (stat : BitVec 13)
    (recomp : Bool) (ss : BitVec 5) (nkind : BitVec 2) : InsWord :=
  mkWord 0x2 0x04 psel ([(106, tdd.toNat), (100, tda.toNat), (94, tdb.toNat), (88, tdc.toNat),
    (51, rnd.toNat), (38, stat.toNat), (37, recomp.toNat), (32, ss.toNat), (30, nkind.toNat)] ++ z.fields)

/-- VADD (0x01) and VMUL (0x02). -/
def encVec2 (opc : Nat) (psel : BitVec 4) (tdd tda tdb : BitVec 6) (z : Size) (rnd : BitVec 2) : InsWord :=
  mkWord 0x3 opc psel ([(106, tdd.toNat), (100, tda.toNat), (94, tdb.toNat), (51, rnd.toNat)] ++ z.fields)

/-- VFMA. -/
def encVfma (psel : BitVec 4) (tdd tda tdb tdc : BitVec 6) (z : Size) (rnd : BitVec 2) : InsWord :=
  mkWord 0x3 0x03 psel ([(106, tdd.toNat), (100, tda.toNat), (94, tdb.toNat), (88, tdc.toNat),
    (51, rnd.toNat)] ++ z.fields)

/-- VSCALE. -/
def encVscale (psel : BitVec 4) (tdd tda : BitVec 6) (z : Size) (rnd : BitVec 2) (ss : BitVec 5) : InsWord :=
  mkWord 0x3 0x04 psel ([(106, tdd.toNat), (100, tda.toNat), (51, rnd.toNat), (46, ss.toNat)] ++ z.fields)

/-- VACT. -/
def encVact (psel : BitVec 4) (tdd tda : BitVec 6) (z : Size) (rnd : BitVec 2) (fn : BitVec 4) : InsWord :=
  mkWord 0x3 0x05 psel ([(106, tdd.toNat), (100, tda.toNat), (51, rnd.toNat), (42, fn.toNat)] ++ z.fields)

/-- VAMAX. -/
def encVamax (psel : BitVec 4) (tda : BitVec 6) (z : Size) (ss : BitVec 5) : InsWord :=
  mkWord 0x3 0x06 psel ([(100, tda.toNat), (46, ss.toNat)] ++ z.fields)

/-- VGATE. -/
def encVgate (psel : BitVec 4) (tdd tda tdb : BitVec 6) (z : Size) (rnd : BitVec 2) : InsWord :=
  mkWord 0x3 0x07 psel ([(106, tdd.toNat), (100, tda.toNat), (94, tdb.toNat), (51, rnd.toNat)] ++ z.fields)

/-- VOPT. -/
def encVopt (psel : BitVec 4) (tdd tda tdb tdc : BitVec 6) (z : Size) (rnd : BitVec 2) (ss : BitVec 5)
    (fn : BitVec 4) : InsWord :=
  mkWord 0x3 0x08 psel ([(106, tdd.toNat), (100, tda.toNat), (94, tdb.toNat), (88, tdc.toNat),
    (51, rnd.toNat), (46, ss.toNat), (42, fn.toNat)] ++ z.fields)

/-- SEP.SELECT. -/
def encSepSelect (psel : BitVec 4) (tdd tda : BitVec 6) (layer : BitVec 10) (e : BitVec 14) (k : BitVec 4)
    (shared : BitVec 3) (gate : Bool) (sn : BitVec 5) : InsWord :=
  mkWord 0x4 0x01 psel [(106, tdd.toNat), (100, tda.toNat), (90, layer.toNat), (76, e.toNat), (72, k.toNat),
    (69, shared.toNat), (68, gate.toNat), (63, sn.toNat)]

/-- SEP.HASH. -/
def encSepHash (psel : BitVec 4) (tdd tda : BitVec 6) (layer : BitVec 10) (e : BitVec 14) (k : BitVec 4)
    (salt : BitVec 5) : InsWord :=
  mkWord 0x4 0x02 psel [(106, tdd.toNat), (100, tda.toNat), (90, layer.toNat), (76, e.toNat), (72, k.toNat),
    (67, salt.toNat)]

/-- CHURN.SORT. -/
def encChurnSort (psel : BitVec 4) (tdd tda : BitVec 6) (buckets : BitVec 14) (key : Bool) (layer : BitVec 10) :
    InsWord :=
  mkWord 0x5 0x01 psel [(106, tdd.toNat), (100, tda.toNat), (86, buckets.toNat), (85, key.toNat),
    (75, layer.toNat)]

/-- CHURN.RESTORE. -/
def encChurnRestore (psel : BitVec 4) (tdd tda tdb : BitVec 6) (layer : BitVec 10) : InsWord :=
  mkWord 0x5 0x02 psel [(106, tdd.toNat), (100, tda.toNat), (94, tdb.toNat), (75, layer.toNat)]

/-- XCH.DISPATCH. -/
def encXchDispatch (psel : BitVec 4) (tda : BitVec 6) (slot : BitVec 16) (sg : BitVec 5) : InsWord :=
  mkWord 0x6 0x01 psel [(100, tda.toNat), (84, slot.toNat), (79, sg.toNat)]

/-- XCH.RECV. -/
def encXchRecv (psel : BitVec 4) (tdd : BitVec 6) (slot : BitVec 16) : InsWord :=
  mkWord 0x6 0x02 psel [(106, tdd.toNat), (84, slot.toNat)]

/-- XCH.RETURN. -/
def encXchReturn (psel : BitVec 4) (tda : BitVec 6) (slot : BitVec 16) : InsWord :=
  mkWord 0x6 0x03 psel [(100, tda.toNat), (84, slot.toNat)]

/-- XCH.COMBINE. -/
def encXchCombine (psel : BitVec 4) (tdd : BitVec 6) (slot : BitVec 16) (sg : BitVec 5) : InsWord :=
  mkWord 0x6 0x04 psel [(106, tdd.toNat), (84, slot.toNat), (79, sg.toNat)]

/-- COLL.BCAST. -/
def encCollBcast (psel : BitVec 4) (tda : BitVec 6) (desc : BitVec 12) : InsWord :=
  mkWord 0x7 0x01 psel [(100, tda.toNat), (88, desc.toNat)]

/-- COLL.REDUCE. -/
def encCollReduce (psel : BitVec 4) (tdd tda : BitVec 6) (desc : BitVec 12) : InsWord :=
  mkWord 0x7 0x02 psel [(106, tdd.toNat), (100, tda.toNat), (88, desc.toNat)]

/-- COLL.WAIT. -/
def encCollWait (psel : BitVec 4) (desc : BitVec 12) : InsWord := mkWord 0x7 0x03 psel [(88, desc.toNat)]

/-- GLD (0x01) and GST (0x02). -/
def encGmem (opc : Nat) (psel : BitVec 4) (td : BitVec 6) (sl : BitVec 5) (win : BitVec 10) (so : BitVec 5)
    (len : BitVec 10) : InsWord :=
  mkWord 0x8 opc psel [(106, td.toNat), (101, sl.toNat), (90, win.toNat), (85, so.toNat), (75, len.toNat)]

/-- GATOM. -/
def encGatom (psel : BitVec 4) (sd sa sb : BitVec 5) (win : BitVec 10) (so : BitVec 5) (aop : BitVec 3) : InsWord :=
  mkWord 0x8 0x03 psel [(107, sd.toNat), (102, sa.toNat), (97, sb.toNat), (87, win.toNat), (82, so.toNat),
    (79, aop.toNat)]

/-- PALLOC. -/
def encPalloc (psel : BitVec 4) (sd sa : BitVec 5) : InsWord :=
  mkWord 0x9 0x01 psel [(107, sd.toNat), (102, sa.toNat)]

/-- PFREE. -/
def encPfree (psel : BitVec 4) (sa : BitVec 5) : InsWord := mkWord 0x9 0x02 psel [(102, sa.toNat)]

/-- PSHARE. -/
def encPshare (psel : BitVec 4) (sa sb : BitVec 5) : InsWord :=
  mkWord 0x9 0x03 psel [(102, sa.toNat), (97, sb.toNat)]

/-- TDPAIL. -/
def encTdpail (psel : BitVec 4) (td : BitVec 6) (sa : BitVec 5) : InsWord :=
  mkWord 0x9 0x04 psel [(106, td.toNat), (101, sa.toNat)]

/-- TPROMOTE (0x01) and TEVICT (0x02). -/
def encTierMove (opc : Nat) (psel : BitVec 4) (sa : BitVec 5) (tier : BitVec 2) : InsWord :=
  mkWord 0xA opc psel [(102, sa.toNat), (100, tier.toNat)]

/-- TTOUCH (0x03) and TWAIT (0x04). -/
def encTierObj (opc : Nat) (psel : BitVec 4) (sa : BitVec 5) : InsWord := mkWord 0xA opc psel [(102, sa.toNat)]

/-! ### What a word uses -/

/-- The used bit ranges below bit 112 of a listed opcode, none for an opcode not listed (R87, R112). -/
def usedRanges (cls opc : Nat) : Option (List (Nat × Nat)) :=
  let dSz := [(76, 65), (64, 53)]
  let dOff := [(87, 83), (82, 78), (77, 77)]
  let tdd := (111, 106)
  let tda := (105, 100)
  let tdb := (99, 94)
  let tdc := (93, 88)
  let rnd := (52, 51)
  match cls, opc with
  | 0x0, 1 => some ([tdd, tda, rnd] ++ dOff ++ dSz)
  | 0x0, 2 => some ([tdd, (50, 46)] ++ dOff ++ dSz)
  | 0x1, 1 => some ([tda] ++ dOff ++ dSz)
  | 0x1, 2 => some ([tda, (50, 37)] ++ dOff ++ dSz)
  | 0x1, 3 => some ([tdd, rnd, (50, 49)] ++ dOff ++ dSz)
  | 0x1, 4 => some ([tda, tdb, (50, 48)] ++ dSz)
  | 0x2, 1 => some ([tdd, tda, rnd, (50, 38), (36, 32)] ++ dSz)
  | 0x2, 2 => some ([tdd, tda, tdc, rnd, (50, 38), (36, 30)] ++ dSz)
  | 0x2, 3 => some ([tdd, tda, tdb, rnd, (50, 32)] ++ dSz)
  | 0x2, 4 => some ([tdd, tda, tdb, tdc, rnd, (50, 30)] ++ dSz)
  | 0x3, 1 => some ([tdd, tda, tdb, rnd] ++ dSz)
  | 0x3, 2 => some ([tdd, tda, tdb, rnd] ++ dSz)
  | 0x3, 3 => some ([tdd, tda, tdb, tdc, rnd] ++ dSz)
  | 0x3, 4 => some ([tdd, tda, rnd, (50, 46)] ++ dSz)
  | 0x3, 5 => some ([tdd, tda, rnd, (45, 42)] ++ dSz)
  | 0x3, 6 => some ([tda, (50, 46)] ++ dSz)
  | 0x3, 7 => some ([tdd, tda, tdb, rnd] ++ dSz)
  | 0x3, 8 => some ([tdd, tda, tdb, tdc, rnd, (50, 42)] ++ dSz)
  | 0x4, 1 => some [(111, 63)]
  | 0x4, 2 => some [(111, 72), (71, 67)]
  | 0x5, 1 => some [(111, 75)]
  | 0x5, 2 => some [(111, 94), (84, 75)]
  | 0x6, 1 => some [(105, 100), (99, 79)]
  | 0x6, 2 => some [(111, 106), (99, 84)]
  | 0x6, 3 => some [(105, 84)]
  | 0x6, 4 => some [(111, 106), (99, 79)]
  | 0x7, 1 => some [(105, 88)]
  | 0x7, 2 => some [(111, 100), (99, 88)]
  | 0x7, 3 => some [(99, 88)]
  | 0x8, 1 => some [(111, 101), (99, 75)]
  | 0x8, 2 => some [(111, 101), (99, 75)]
  | 0x8, 3 => some [(111, 79)]
  | 0x9, 1 => some [(111, 102)]
  | 0x9, 2 => some [(106, 102)]
  | 0x9, 3 => some [(106, 97)]
  | 0x9, 4 => some [(111, 101)]
  | 0xA, 1 => some [(106, 100)]
  | 0xA, 2 => some [(106, 100)]
  | 0xA, 3 => some [(106, 102)]
  | 0xA, 4 => some [(106, 102)]
  | 0xB, 0x0A => some [(111, 107), (95, 32)]
  | 0xB, 0x0B => some [(111, 64)]
  | 0xB, 0x0C => some [(111, 101)]
  | 0xB, 0x10 => some [(111, 96)]
  | 0xB, 0x11 => some [(111, 100)]
  | 0xB, 0x20 => some [(111, 72)]
  | 0xB, 0x30 => some [(111, 56)]
  | 0xB, 0x31 => some [(111, 99)]
  | 0xB, 0x32 => some [(111, 106)]
  | 0xB, 0x3F => some []
  | 0xB, n => if 1 ≤ n ∧ n ≤ 9 then some [(111, 64)] else none
  | 0xC, 1 => some []
  | 0xC, 2 => some [(111, 106), (95, 69)]
  | 0xC, 3 => some [(111, 102)]
  | 0xC, 4 => some [(111, 107)]
  | _, _ => none

/-- The bits of a range list. -/
def rangeMask (rs : List (Nat × Nat)) : Nat := sumBy rs fun r => (2 ^ (r.1 + 1 - r.2) - 1) * 2 ^ r.2

/-- Every operand field holds one of its listed values (R87, Tables ENC-7 to ENC-13). -/
def definedValues (w : InsWord) : Bool :=
  let rnd := wbits w 52 51 < 2
  match wCls w, wOp w with
  | 0x0, 1 => rnd
  | 0x1, 2 => wbits w 47 46 < 3
  | 0x1, 3 => rnd
  | 0x2, 1 => rnd
  | 0x2, 2 => rnd && wbits w 31 30 < 2
  | 0x2, 3 => rnd
  | 0x2, 4 => rnd && wbits w 31 30 < 2
  | 0x3, 5 => rnd && wbits w 45 42 < 6
  | 0x3, 6 => true
  | 0x3, 8 => rnd && wbits w 45 42 < 2
  | 0x3, _ => rnd
  | 0x4, 1 => wbits w 71 69 ≤ 4 && wbits w 75 72 ≤ wbits w 89 76
  | 0x4, 2 => wbits w 75 72 ≤ wbits w 89 76
  | 0x8, 3 => wbits w 81 79 < 6
  | 0xA, 1 => wbits w 101 100 < 2
  | 0xA, 2 => wbits w 101 100 == 1 || wbits w 101 100 == 2
  | 0xB, 0x10 => wbits w 105 102 < 12
  | _, _ => true

/-- A word that Table ENC-15's first row does not refuse: a listed opcode, zero reserved bits and
defined field values (R87, R112). -/
def wordDefined (w : InsWord) : Bool :=
  match usedRanges (wCls w) (wOp w) with
  | none => false
  | some rs => (w.toNat % 2 ^ 112) &&& (2 ^ 112 - 1 - rangeMask rs) == 0 && definedValues w

/-- Engines whose instructions may stay outstanding across a frame's close (R41). -/
def Eng.outlives : Eng → Bool
  | .gmem => true
  | .coll _ => true
  | _ => false

/-- The collective engine that serves a COLL instruction on a device with `fds` fabric dies: that of FD(DESC mod
HUB_FD_COUNT) (R350). -/
def collEng (fds : Nat) (w : InsWord) : Eng := .coll (Fin.ofNat 10 (wbits w 99 88 % fds))

/-- The queue an instruction enters on a device with `fds` fabric dies; none for the two classes that execute at issue
(R88). A core has one queue for the exchange engines of all fabric dies. (log 86 DESIGN CHOICE) -/
def wordEng (fds : Nat) (w : InsWord) : Option Eng :=
  match wCls w with
  | 0x0 => some .loader
  | 0x1 => if wOp w = 4 then some .pairing else some .array
  | 0x2 => some .row
  | 0x3 => some .vec
  | 0x4 => some .sep
  | 0x5 => some .churn
  | 0x6 => some .xch
  | 0x7 => some (collEng fds w)
  | 0x8 => some .gmem
  | 0x9 => some .pail
  | 0xA => some .tier
  | _ => none

/-- The scalar registers an instruction reads (R89, R90). -/
def scalReads (w : InsWord) : List Nat :=
  let off := if wbits w 77 77 = 1 then [wbits w 87 83, wbits w 82 78] else []
  match wCls w, wOp w with
  | 0x0, 1 => off
  | 0x0, 2 => off ++ [wbits w 50 46]
  | 0x1, 1 => off
  | 0x1, 2 => off ++ (if wbits w 47 46 = 0 then [] else [wbits w 41 37])
  | 0x1, 3 => off
  | 0x2, _ => [wbits w 36 32]
  | 0x3, 4 => [wbits w 50 46]
  | 0x3, 6 => [wbits w 50 46]
  | 0x3, 8 => [wbits w 50 46]
  | 0x4, 1 => [wbits w 67 63]
  | 0x4, 2 => [wbits w 71 67]
  | 0x6, 1 => [wbits w 83 79]
  | 0x6, 4 => [wbits w 83 79]
  | 0x8, 3 => [wbits w 106 102, wbits w 101 97, wbits w 86 82]
  | 0x8, _ => [wbits w 105 101, wbits w 89 85]
  | 0x9, 3 => [wbits w 106 102, wbits w 101 97]
  | 0x9, 4 => [wbits w 105 101]
  | 0x9, _ => [wbits w 106 102]
  | 0xA, _ => [wbits w 106 102]
  | 0xB, 0x0A => []
  | 0xB, 0x0B => wbits w 106 102 :: (if wbits w 96 96 = 1 then [] else [wbits w 101 97])
  | 0xB, 0x10 => [wbits w 101 97]
  | 0xB, 0x32 => if wbits w 111 111 = 1 then [wbits w 110 106] else []
  | 0xB, n => if 1 ≤ n ∧ n ≤ 9 then wbits w 106 102 :: (if wbits w 96 96 = 1 then [] else [wbits w 101 97]) else []
  | 0xC, 2 => if wbits w 111 111 = 1 then [wbits w 110 106] else []
  | _, _ => []

/-- The scalar registers an instruction writes (R90). -/
def scalWrites (w : InsWord) : List Nat :=
  match wCls w, wOp w with
  | 0x8, 3 => [wbits w 111 107]
  | 0x9, 1 => [wbits w 111 107]
  | 0xB, 0x0A => [wbits w 111 107]
  | 0xB, 0x20 => if wbits w 77 77 = 1 then [wbits w 76 72] else []
  | 0xB, n => if 1 ≤ n ∧ n ≤ 9 then [wbits w 111 107] else []
  | 0xC, 3 => [wbits w 111 107, wbits w 106 102]
  | 0xC, 4 => [wbits w 111 107]
  | _, _ => []

/-- The descriptors an engine instruction reads through (R91). -/
def tdReads (w : InsWord) : List Nat :=
  let a := wbits w 105 100
  let b := wbits w 99 94
  let c := wbits w 93 88
  match wCls w, wOp w with
  | 0x0, 1 => [a]
  | 0x1, 1 => [a]
  | 0x1, 2 => [a]
  | 0x1, 4 => [a, b]
  | 0x2, 1 => [a]
  | 0x2, 2 => [a, c]
  | 0x2, 3 => [a, b]
  | 0x2, 4 => [a, b, c]
  | 0x3, 3 => [a, b, c]
  | 0x3, 4 => [a]
  | 0x3, 5 => [a]
  | 0x3, 6 => [a]
  | 0x3, 7 => [wbits w 111 106, a, b]
  | 0x3, 8 => [wbits w 111 106, a, b, c]
  | 0x3, _ => [a, b]
  | 0x4, _ => [a]
  | 0x5, 1 => [a]
  | 0x5, 2 => [a, b]
  | 0x6, 1 => [a]
  | 0x6, 3 => [a]
  | 0x7, 1 => [a]
  | 0x7, 2 => [a]
  | 0x8, 2 => [wbits w 111 106]
  | _, _ => []

/-- The descriptors an engine instruction writes through (R91). TDPAIL, which sets its descriptor when it retires,
counts as writing through it. (log 85 DESIGN CHOICE) -/
def tdWrites (w : InsWord) : List Nat :=
  let d := wbits w 111 106
  match wCls w, wOp w with
  | 0x0, _ => [d]
  | 0x1, 3 => [d]
  | 0x2, _ => [d]
  | 0x3, 6 => []
  | 0x3, 8 => [d, wbits w 99 94, wbits w 93 88]
  | 0x3, _ => [d]
  | 0x4, _ => [d]
  | 0x5, _ => [d]
  | 0x6, 2 => [d]
  | 0x6, 4 => [d]
  | 0x7, 2 => [d]
  | 0x8, 1 => [d]
  | 0x9, 4 => [d]
  | _, _ => []

/-- The capability level of an opcode's class (Tables ENC-2, TYN-1). -/
def wordLevel (w : InsWord) : Nat :=
  match wCls w with
  | 0x1 => if wOp w = 4 then 2 else 1
  | 0x4 => 2
  | 0x5 => 2
  | 0x6 => 3
  | 0x7 => 3
  | 0x8 => 3
  | 0x9 => 2
  | 0xA => 4
  | _ => 1

/-! ### Tile descriptors (Table ENC-4) -/

/-- Bits `[hi:lo]` of a tile descriptor. -/
def tf (t : TileDesc) (hi lo : Nat) : Nat := bitRange t.toNat hi lo

namespace Td
/-- TD_SPACE. -/
def space (t : TileDesc) : Nat := tf t 3 0
/-- TD_TRANSPOSE. -/
def transpose (t : TileDesc) : Bool := tf t 4 4 == 1
/-- TD_LAYOUT. -/
def layout (t : TileDesc) : Nat := tf t 6 5
/-- TD_FORMAT. -/
def format (t : TileDesc) : Nat := tf t 12 8
/-- Tile rows. -/
def rows (t : TileDesc) : Nat := tf t 27 16 + 1
/-- Tile columns. -/
def cols (t : TileDesc) : Nat := tf t 39 28 + 1
/-- Valid rows in the last tile row. -/
def vrows (t : TileDesc) : Nat := tf t 45 40 + 1
/-- Valid columns in the last tile column. -/
def vcols (t : TileDesc) : Nat := tf t 51 46 + 1
/-- TD_BASE. -/
def base (t : TileDesc) : Nat := tf t 107 64
/-- TD_RSTRIDE. -/
def rstride (t : TileDesc) : Nat := tf t 159 128
/-- TD_CSTRIDE. -/
def cstride (t : TileDesc) : Nat := tf t 191 160
/-- TD_SIDE. -/
def side (t : TileDesc) : Nat := tf t 235 192
end Td

/-- Replace bits `[hi:lo]` of a tile descriptor. -/
def tdPut (t : TileDesc) (hi lo v : Nat) : TileDesc :=
  BitVec.ofNat 256 (t.toNat - bitRange t.toNat hi lo * 2 ^ lo + v * 2 ^ lo)

/-- A descriptor that keeps every multiple-of-64 rule and uses listed codes only (R94 to R96). -/
def tdAligned (t : TileDesc) : Bool :=
  (Td.space t == 3 || Td.base t % 64 == 0) && Td.rstride t % 64 == 0 && Td.cstride t % 64 == 0 &&
  (Td.space t == 3 || Td.side t % 64 == 0)

/-- Reserved bits of a descriptor are zero (Table ENC-4). -/
def tdReservedZero (t : TileDesc) : Bool :=
  tf t 7 7 == 0 && tf t 15 13 == 0 && tf t 63 52 == 0 && tf t 127 108 == 0 && tf t 255 236 == 0

end Sys2Proof.Machine
end

