-- ==== Sys2Proof/Messages.lean ====
section
/-! DEFINITION. Packets and other things that arrive from outside as operands of commands. -/

namespace Sys2Proof

namespace Machine

/-- The three masters, coded as BLK_LW_MASTER (R412, Table REG-3). -/
inductive Master where
  | hub | host | mgmt
  deriving DecidableEq, Repr

/-- The code of a master. -/
def Master.code : Master → Nat
  | .hub => 0 | .host => 1 | .mgmt => 2

/-- What resets the x16 endpoint (R454). -/
inductive EndReset where
  | functionLevel | hot | linkDown | perst
  deriving DecidableEq, Repr

/-- A dword of BAR4 (Table HOST-2): of a vector's entry in the MSI-X table, or of the pending bit array. -/
inductive MsixAt where
  | table (vector : BitVec 11) (word : BitVec 2)
  | pending (word : BitVec 6)
  deriving DecidableEq, Repr

/-- An access of the host to a dword of BAR4: a write of a value, or a read (none). -/
structure MsixAccess where
  dword : MsixAt
  value : Option (BitVec 32)
  deriving DecidableEq, Repr

/-- A transaction of the board bus: its command code, and whether its packet error code was right (R460). -/
structure SmbTransaction where
  code : BitVec 8
  pecOk : Bool
  deriving DecidableEq, Repr

/-- How a device read of host memory ends that does not bring its data: no completion in time, a completion with error
status, or one with poisoned data (R454, Table HOST-6). -/
inductive ReadEnd where
  | timeout | failed | poisoned
  deriving DecidableEq, Repr

end Machine

/-- What a timestamp block of the twin link says of the twin beside its stamps and node number (R374): the mode and
the job state. (log 79 DESIGN CHOICE) -/
structure TwinStatus where
  mode : BitVec 2
  job : BitVec 3
  deriving DecidableEq, Repr

/-- A fabric packet: the header fields of Table FAB-3 and the payload. `rsvd` holds the reserved bits
[91], [175] and [183:180] together. -/
structure Packet where
  dst : BitVec 16
  src : BitVec 16
  mid : BitVec 16
  tag : BitVec 24
  epoch : BitVec 16
  /-- VC bit [2]: false in phase 1, true in phase 2. -/
  phase2 : Bool
  /-- VC bits [1:0]: 0 request, 1 response, 2 collective, 3 management. -/
  chan : BitVec 2
  flowlet : BitVec 12
  order : BitVec 24
  seq : BitVec 32
  op : BitVec 8
  /-- Payload in 64-byte units − 1. -/
  len : BitVec 7
  hops : BitVec 4
  opword : BitVec 40
  rsvd : BitVec 6
  crc : BitVec 32
  payload : List Byte
  deriving DecidableEq, Repr

/-- The bits of the header (Table FAB-3) with [90], [179:176] and [255:224] taken as zero, as the CRC
and the MAC take them. -/
def Packet.maskedHeader (p : Packet) : Nat :=
  p.dst.toNat + p.src.toNat * 2 ^ 16 + p.mid.toNat * 2 ^ 32 + p.tag.toNat * 2 ^ 48 +
  p.epoch.toNat * 2 ^ 72 + p.chan.toNat * 2 ^ 88 + (p.rsvd.toNat % 2) * 2 ^ 91 +
  p.flowlet.toNat * 2 ^ 92 + p.order.toNat * 2 ^ 104 + p.seq.toNat * 2 ^ 128 + p.op.toNat * 2 ^ 160 +
  p.len.toNat * 2 ^ 168 + (p.rsvd.toNat / 2 % 2) * 2 ^ 175 + (p.rsvd.toNat / 4) * 2 ^ 180 +
  p.opword.toNat * 2 ^ 184

/-- The bytes a packet takes on a port direction (R321). -/
def Packet.bytes (p : Packet) : Nat := 32 + p.payload.length

end Sys2Proof
end

