-- ==== Sys2Proof/Syntax.lean ====
section
/-! DEFINITION. The commands of the device: one constructor per row of the opcode table, in its order, with
the row's operands (R10, Tables ENC-7 to ENC-13 for the Tynil instructions). -/

namespace Sys2Proof

/-- The commands. A Tynil instruction names the core whose sequencer issues it and carries its fields; an
event carries what arrives from outside; a write carries its master, address and value. -/
inductive Instr where
  /-- SADD: Scalar add: SD receives SA plus SB or the sign-extended immediate, modulo 2^64 (R97) -/
  | sadd (core : Fin 48) (psel : BitVec 4) (sd sa sb : BitVec 5) (imm : Bool) (imm32 : BitVec 32)
  /-- SSUB: Scalar subtract: SD receives SA minus B (R97) -/
  | ssub (core : Fin 48) (psel : BitVec 4) (sd sa sb : BitVec 5) (imm : Bool) (imm32 : BitVec 32)
  /-- SMUL: Scalar multiply: SD receives the low 64 bits of SA times B (R97) -/
  | smul (core : Fin 48) (psel : BitVec 4) (sd sa sb : BitVec 5) (imm : Bool) (imm32 : BitVec 32)
  /-- SAND: Scalar bitwise AND of SA and B into SD (R97) -/
  | sand (core : Fin 48) (psel : BitVec 4) (sd sa sb : BitVec 5) (imm : Bool) (imm32 : BitVec 32)
  /-- SOR: Scalar bitwise OR of SA and B into SD (R97) -/
  | sor (core : Fin 48) (psel : BitVec 4) (sd sa sb : BitVec 5) (imm : Bool) (imm32 : BitVec 32)
  /-- SXOR: Scalar bitwise XOR of SA and B into SD (R97) -/
  | sxor (core : Fin 48) (psel : BitVec 4) (sd sa sb : BitVec 5) (imm : Bool) (imm32 : BitVec 32)
  /-- SSHL: Scalar left shift of SA by B mod 64 into SD (R97) -/
  | sshl (core : Fin 48) (psel : BitVec 4) (sd sa sb : BitVec 5) (imm : Bool) (imm32 : BitVec 32)
  /-- SSHR: Scalar logical right shift of SA by B mod 64 into SD (R97) -/
  | sshr (core : Fin 48) (psel : BitVec 4) (sd sa sb : BitVec 5) (imm : Bool) (imm32 : BitVec 32)
  /-- SSRA: Scalar arithmetic right shift of SA by B mod 64 into SD (R97) -/
  | ssra (core : Fin 48) (psel : BitVec 4) (sd sa sb : BitVec 5) (imm : Bool) (imm32 : BitVec 32)
  /-- SMOVI: SD receives the 64-bit immediate (R97) -/
  | smovi (core : Fin 48) (psel : BitVec 4) (sd : BitVec 5) (imm64 : BitVec 64)
  /-- SCMP: Predicate PD receives the comparison of SA with B under COND (R97) -/
  | scmp (core : Fin 48) (psel : BitVec 4) (pd : BitVec 3) (cond : BitVec 2) (sa sb : BitVec 5) (imm : Bool) (imm32 : BitVec 32)
  /-- PSET: Predicate PD receives a logical combination of PA and PB (R97) -/
  | pset (core : Fin 48) (psel : BitVec 4) (pd pa pb : BitVec 3) (pop : BitVec 2)
  /-- TDSET: Sets or adds to one field of a tile descriptor, faulting on an out-of-range value (R98) -/
  | tdset (core : Fin 48) (psel : BitVec 4) (td : BitVec 6) (fld : BitVec 4) (sa : BitVec 5) (add : Bool)
  /-- TDCOPY: Copies all 256 bits of one tile descriptor into another (R97) -/
  | tdcopy (core : Fin 48) (psel : BitVec 4) (tdd tda : BitVec 6)
  /-- LOOP: Starts a counted loop over the following body instructions (R99) -/
  | loop (core : Fin 48) (psel : BitVec 4) (count : BitVec 16) (body : BitVec 18) (iter : Bool) (si : BitVec 5)
  /-- SYNC_BAR: Issues a barrier arrival and holds the core until all named cores arrive (R100) -/
  | syncBar (core : Fin 48) (psel : BitVec 4) (mask : BitVec 48) (id : BitVec 8)
  /-- SYNC_BAR_RELEASE: The last named core reaches its matching barrier instance and the held cores are released (R100) -/
  | syncBarRelease (core : Fin 48)
  /-- FENCE_ENG: Holds issue until earlier instructions of the named classes retire (R101) -/
  | fenceEng (core : Fin 48) (psel : BitVec 4) (cmask : BitVec 13)
  /-- FENCE_GMEM: Holds issue until earlier stores and atomics to the covered destinations are acknowledged (R101) -/
  | fenceGmem (core : Fin 48) (psel : BitVec 4) (scope : Bool) (sa : BitVec 5)
  /-- FENCE_RELEASE: The condition of a held fence comes to hold and issue resumes (R101) -/
  | fenceRelease (core : Fin 48)
  /-- NOP: Instruction with no effect (R97) -/
  | nop (core : Fin 48) (psel : BitVec 4)
  /-- TICK_END: Marks the end of the current slot for the issuing sequencer (R53) -/
  | tickEnd (core : Fin 48) (psel : BitVec 4)
  /-- TICK_WAIT: Holds the sequencer until the counter reaches the frame boundary plus the target offset (R54) -/
  | tickWait (core : Fin 48) (psel : BitVec 4) (src : Bool) (sa : BitVec 5) (offs : BitVec 27)
  /-- TICK_WAIT_RELEASE: The domain counter reaches a held TICK.WAIT target and issue resumes (R54) -/
  | tickWaitRelease (core : Fin 48)
  /-- TICK_FRAME: Writes the frame number and the frame-slot counter into scalars (R55) -/
  | tickFrame (core : Fin 48) (psel : BitVec 4) (sd se : BitVec 5)
  /-- TICK_NOW: Writes the current domain counter into a scalar (R56) -/
  | tickNow (core : Fin 48) (psel : BitVec 4) (sd : BitVec 5)
  /-- MOVE_TILE: Tile loader copy with format conversion and optional transpose or compression (R149) -/
  | moveTile (core : Fin 48) (psel : BitVec 4) (tdd tda : BitVec 6) (o : Machine.Offs) (z : Machine.Size) (rnd : BitVec 2)
  /-- MOVE_FILL: Fills every element of the destination tiles with the low bits of SS (R104) -/
  | moveFill (core : Fin 48) (psel : BitVec 4) (tdd : BitVec 6) (o : Machine.Offs) (z : Machine.Size) (ss : BitVec 5)
  /-- MM_LOAD: Fills the shadow block of the array from the tile store (R141) -/
  | mmLoad (core : Fin 48) (psel : BitVec 4) (tda : BitVec 6) (o : Machine.Offs) (z : Machine.Size)
  /-- ARRAY_FILL_DONE: An MM.LOAD fill completes and a run waiting for it may stream (R142) -/
  | arrayFillDone (core : Fin 48)
  /-- MM_RUN: Streams token rows against the loaded block into an accumulator set, with optional Skim (R137) -/
  | mmRun (core : Fin 48) (psel : BitVec 4) (tda : BitVec 6) (o : Machine.Offs) (z : Machine.Size) (accset : BitVec 2) (acc : Bool) (skim : BitVec 2) (skimAt : BitVec 4) (st : BitVec 5)
  /-- MM_STORE: Writes an accumulator set rounded to the destination format (R146) -/
  | mmStore (core : Fin 48) (psel : BitVec 4) (tdd : BitVec 6) (o : Machine.Offs) (z : Machine.Size) (rnd accset : BitVec 2)
  /-- MM_PAIR: Sparse by sparse product on the pairing unit into an accumulator set (R166) -/
  | mmPair (core : Fin 48) (psel : BitVec 4) (tda tdb : BitVec 6) (z : Machine.Size) (accset : BitVec 2) (acc : Bool)
  /-- ROW_SMAX: Row softmax with statistics kept (R222) -/
  | rowSmax (core : Fin 48) (psel : BitVec 4) (tdd tda : BitVec 6) (z : Machine.Size) (rnd : BitVec 2) (stat : BitVec 13) (ss : BitVec 5)
  /-- ROW_NORM: Row RMS or layer normalisation with statistics kept (R222) -/
  | rowNorm (core : Fin 48) (psel : BitVec 4) (tdd tda tdc : BitVec 6) (z : Machine.Size) (rnd : BitVec 2) (stat : BitVec 13) (ss : BitVec 5) (nkind : BitVec 2)
  /-- ROW_SMAX_B: Backward softmax from kept or recomputed statistics (R222) -/
  | rowSmaxB (core : Fin 48) (psel : BitVec 4) (tdd tda tdb : BitVec 6) (z : Machine.Size) (rnd : BitVec 2) (stat : BitVec 13) (recomp : Bool) (ss : BitVec 5)
  /-- ROW_NORM_B: Backward normalisation from kept or recomputed statistics (R222) -/
  | rowNormB (core : Fin 48) (psel : BitVec 4) (tdd tda tdb tdc : BitVec 6) (z : Machine.Size) (rnd : BitVec 2) (stat : BitVec 13) (recomp : Bool) (ss : BitVec 5) (nkind : BitVec 2)
  /-- VADD: Vector element-wise add (R104) -/
  | vadd (core : Fin 48) (psel : BitVec 4) (tdd tda tdb : BitVec 6) (z : Machine.Size) (rnd : BitVec 2)
  /-- VMUL: Vector element-wise multiply (R104) -/
  | vmul (core : Fin 48) (psel : BitVec 4) (tdd tda tdb : BitVec 6) (z : Machine.Size) (rnd : BitVec 2)
  /-- VFMA: Vector element-wise fused multiply-add (R104) -/
  | vfma (core : Fin 48) (psel : BitVec 4) (tdd tda tdb tdc : BitVec 6) (z : Machine.Size) (rnd : BitVec 2)
  /-- VSCALE: Multiplies tiles by an F32 scalar (R104) -/
  | vscale (core : Fin 48) (psel : BitVec 4) (tdd tda : BitVec 6) (z : Machine.Size) (rnd : BitVec 2) (ss : BitVec 5)
  /-- VACT: Applies the activation function selected by FN (R104) -/
  | vact (core : Fin 48) (psel : BitVec 4) (tdd tda : BitVec 6) (z : Machine.Size) (rnd : BitVec 2) (fn : BitVec 4)
  /-- VAMAX: Pushes the amax of tiles into a delayed-scaling record and updates its scale (R120) -/
  | vamax (core : Fin 48) (psel : BitVec 4) (tda : BitVec 6) (z : Machine.Size) (ss : BitVec 5)
  /-- VGATE: Adds results weighted row by row by gate weights (R181) -/
  | vgate (core : Fin 48) (psel : BitVec 4) (tdd tda tdb : BitVec 6) (z : Machine.Size) (rnd : BitVec 2)
  /-- VOPT: Optimizer step on parameters and moments (R358) -/
  | vopt (core : Fin 48) (psel : BitVec 4) (tdd tda tdb tdc : BitVec 6) (z : Machine.Size) (rnd : BitVec 2) (ss : BitVec 5) (fn : BitVec 4)
  /-- SEP_SELECT: Die-collective top-k expert selection with gate weights and capacity slots (R174) -/
  | sepSelect (core : Fin 48) (psel : BitVec 4) (tdd tda : BitVec 6) (layer : BitVec 10) (e : BitVec 14) (k : BitVec 4) (shared : BitVec 3) (gate : Bool) (sn : BitVec 5)
  /-- SEP_HASH: Die-collective hash routing of tokens to experts (R187) -/
  | sepHash (core : Fin 48) (psel : BitVec 4) (tdd tda : BitVec 6) (layer : BitVec 10) (e : BitVec 14) (k : BitVec 4) (salt : BitVec 5)
  /-- DIE_COLLECTIVE_START: All four copies of a die-collective instruction are at their queue heads and the die engine starts (R93) -/
  | dieCollectiveStart (die : Fin 12) (eng : Machine.Eng)
  /-- CAPACITY_VECTOR_ARRIVE: A capacity vector arrives from the previous chain position and the die's capacity stage may run (R182) -/
  | capacityVectorArrive (die : Fin 12)
  /-- CAPACITY_WRITE_BACK_END: Position 11's write-back of the capacity vector to the statistics buffer ends (R183) -/
  | capacityWriteBackEnd (die : Fin 12)
  /-- CHURN_SORT: Die-collective sort of selection records by destination into Pails (R200) -/
  | churnSort (core : Fin 48) (psel : BitVec 4) (tdd tda : BitVec 6) (buckets : BitVec 14) (key : Bool) (layer : BitVec 10)
  /-- CHURN_RESTORE: Die-collective restore of local expert results into token order (R202) -/
  | churnRestore (core : Fin 48) (psel : BitVec 4) (tdd tda tdb : BitVec 6) (layer : BitVec 10)
  /-- XCH_DISPATCH: Sends the records and token rows of a Pail list for one exchange slot (R203) -/
  | xchDispatch (core : Fin 48) (psel : BitVec 4) (tda : BitVec 6) (slot : BitVec 16) (sg : BitVec 5)
  /-- XCH_RECV: Receives deliveries into host rows and zero-fills unfilled rows (R209) -/
  | xchRecv (core : Fin 48) (psel : BitVec 4) (tdd : BitVec 6) (slot : BitVec 16)
  /-- XCH_RETURN: Sends filled host-row results back to their senders (R211) -/
  | xchReturn (core : Fin 48) (psel : BitVec 4) (tda : BitVec 6) (slot : BitVec 16)
  /-- XCH_COMBINE: Writes returned results into combine rows and zero-fills missing ones (R212) -/
  | xchCombine (core : Fin 48) (psel : BitVec 4) (tdd : BitVec 6) (slot : BitVec 16) (sg : BitVec 5)
  /-- COLL_BCAST: Issues a core's part in a broadcast invocation (R352) -/
  | collBcast (core : Fin 48) (psel : BitVec 4) (tda : BitVec 6) (desc : BitVec 12)
  /-- COLL_REDUCE: Issues a core's part in a reduce-to-one invocation (R350) -/
  | collReduce (core : Fin 48) (psel : BitVec 4) (tdd tda : BitVec 6) (desc : BitVec 12)
  /-- COLL_WAIT: Holds its queue until the latest invocation of the descriptor commits (R106) -/
  | collWait (core : Fin 48) (psel : BitVec 4) (desc : BitVec 12)
  /-- GLD: Global load into local bytes through a window (R293) -/
  | gld (core : Fin 48) (psel : BitVec 4) (tdd : BitVec 6) (sl : BitVec 5) (win : BitVec 10) (so : BitVec 5) (len : BitVec 10)
  /-- GST: Global store from local bytes through a window (R293) -/
  | gst (core : Fin 48) (psel : BitVec 4) (tda : BitVec 6) (sl : BitVec 5) (win : BitVec 10) (so : BitVec 5) (len : BitVec 10)
  /-- GATOM: Global atomic operation through a window, returning the old value (R293) -/
  | gatom (core : Fin 48) (psel : BitVec 4) (sd sa sb : BitVec 5) (win : BitVec 10) (so : BitVec 5) (aop : BitVec 3)
  /-- PALLOC: Requests a Pail of the fitting class from the core's share (R257) -/
  | palloc (core : Fin 48) (psel : BitVec 4) (sd sa : BitVec 5)
  /-- PFREE: Frees a Pail held by or shared with the issuer (R257) -/
  | pfree (core : Fin 48) (psel : BitVec 4) (sa : BitVec 5)
  /-- PSHARE: Makes a Pail SHARED with a named final owner (R257) -/
  | pshare (core : Fin 48) (psel : BitVec 4) (sa sb : BitVec 5)
  /-- TDPAIL: Points a descriptor at a Pail handle with offset 0 (R107) -/
  | tdpail (core : Fin 48) (psel : BitVec 4) (td : BitVec 6) (sa : BitVec 5)
  /-- TPROMOTE: Requests promotion of a movable object to a better tier and a use pin (R281) -/
  | tpromote (core : Fin 48) (psel : BitVec 4) (sa : BitVec 5) (tier : BitVec 2)
  /-- TEVICT: Drops the core's use pin and marks an object for eviction (R281) -/
  | tevict (core : Fin 48) (psel : BitVec 4) (sa : BitVec 5) (tier : BitVec 2)
  /-- TTOUCH: Takes a use pin and stamps a resident object, or promotes it from tier 2 (R281) -/
  | ttouch (core : Fin 48) (psel : BitVec 4) (sa : BitVec 5)
  /-- TWAIT: Holds the core's TIER queue until the object's move ends (R281) -/
  | twait (core : Fin 48) (psel : BitVec 4) (sa : BitVec 5)
  /-- QUEUE_HEAD_RELEASE: An engine instruction's descriptor dependencies retire and it leaves its queue head (R91) -/
  | queueHeadRelease (core : Fin 48) (eng : Machine.Eng)
  /-- INSTRUCTION_RETIRE: An engine instruction completes its work and retires (R88) -/
  | instructionRetire (core : Fin 48) (eng : Machine.Eng)
  /-- PAIL_REQUEST_APPLY: The Pail manager applies a request in issue order and returns the handle (R258) -/
  | pailRequestApply (core : Fin 48)
  /-- LOAD: JOB_CMD LOAD starts LOADING and admission of a program object (R71) -/
  | load (master : Machine.Master) (same : Bool)
  /-- ADMISSION_END: Admission checks finish and the job becomes ADMITTED or returns to IDLE (R71) -/
  | admissionEnd (at_ : Nat)
  /-- RESTORE_END: The restore after admission ends and the job becomes ADMITTED or returns to IDLE (R403) -/
  | restoreEnd (at_ : Nat)
  /-- ABORT: JOB_CMD ABORT stops the job and starts teardown (R69) -/
  | abort (master : Machine.Master) (same : Bool)
  /-- STOP: JOB_CMD STOP sets the stop frame to frame 0 or the last frame opened (R73) -/
  | stop (master : Machine.Master) (same : Bool)
  /-- RELEASE: JOB_CMD RELEASE zeroes the job's HBM and returns the device toward IDLE (R388) -/
  | release (master : Machine.Master) (same : Bool)
  /-- RELEASE_ZEROING_END: Zeroing after RELEASE ends and the job state becomes IDLE (R388) -/
  | releaseZeroingEnd (at_ : Nat)
  /-- JOB_STOP_FRAME_WRITE: A write of the HI half sets the stop frame and may move the job to DRAINING at once (R72) -/
  | jobStopFrameWrite (master : Machine.Master) (same : Bool) (value : BitVec 32)
  /-- ARM: TICK_ARM_CMD arm moves an ADMITTED job to ARMED or refuses it (R48) -/
  | arm (master : Machine.Master) (same : Bool)
  /-- DISARM: TICK_ARM_CMD disarm returns an ARMED job to ADMITTED and clears the launch count (R50) -/
  | disarm (master : Machine.Master) (same : Bool)
  /-- LAUNCH_COUNT_REACHED: The counter reaches the launch count and an ARMED job opens frame 0 (R48) -/
  | launchCountReached
  /-- FRAME_OPEN: At a boundary count a frame opens and sequencers load their slot templates (R40) -/
  | frameOpen
  /-- GUARD_START: The guard start count is reached and no job instruction issues further (R40) -/
  | guardStart
  /-- FRAME_CLOSE: The close event latches the frame's counters and statistics (R41) -/
  | frameClose
  /-- DRAIN_END: The last outstanding item retires in DRAINING and teardown begins (R74) -/
  | drainEnd
  /-- TEARDOWN_COMPLETE: Teardown finishes and the job enters TORN (R387) -/
  | teardownComplete (at_ : Nat)
  /-- THROTTLE_STEP: The power limiter gates issue on every sequencer for 100 counts (R51) -/
  | throttleStep
  /-- HERD_READY_OFFSET: At the ready offset an incomplete work list raises FRAME_OVERRUN (R247) -/
  | herdReadyOffset
  /-- HERD_ADD: An ADD intake record takes the lowest FREE herd slot (R236) -/
  | herdAdd
  /-- HERD_CANCEL: A CANCEL intake record frees or closes a sequence's slot (R236) -/
  | herdCancel
  /-- HERD_CHANGE_STOPS: A CHANGE record with flag [0] replaces the stop conditions (R236) -/
  | herdChangeStops
  /-- HERD_HOLD: A CHANGE record with flag [1] moves the slot to HELD (R236) -/
  | herdHold
  /-- HERD_RELEASE: A CHANGE record with flag [2] moves a HELD slot to PREFILL or DECODE (R236) -/
  | herdRelease
  /-- HERD_FLUSH: A FLUSH record cancels every non-FREE slot (R236) -/
  | herdFlush
  /-- TIER_MOVE_COMMIT: A move's writes are acknowledged and its home switches in one control cycle (R274) -/
  | tierMoveCommit (obj : BitVec 20)
  /-- SNAP_CUT_COMPLETE: The Cellar copy ends and its header is written (R397) -/
  | snapCutComplete
  /-- NVME_COMPLETION: An NVMe command completes, failing the snapshot on error status (R398) -/
  | nvmeCompletion (status : BitVec 16)
  /-- MIRROR_DATA: A Whey mirror data packet arrives and is written to the bank (R400) -/
  | mirrorData (p : Packet)
  /-- MIRROR_COMMIT: A mirror commit marks the bank as holding frame F, copying to bank 2 on a cut (R400) -/
  | mirrorCommit (p : Packet)
  /-- GMEM_REQUEST_ARRIVE: A global memory request reaches its target and is applied, held, repeated or dropped (R297) -/
  | gmemRequestArrive (p : Packet)
  /-- GMEM_RESPONSE_ARRIVE: A response reaches the sender and acknowledges its request (R298) -/
  | gmemResponseArrive (p : Packet)
  /-- GMEM_RETRY: The retry interval expires and an unanswered request is repeated on the next flowlet (R304) -/
  | gmemRetry (node : BitVec 16) (seq : BitVec 32)
  /-- GMEM_TIMEOUT: The timeout expires for an unanswered job request (R305) -/
  | gmemTimeout (node : BitVec 16) (seq : BitVec 32)
  /-- GMEM_MGMT_CANCEL: Cancels a pending management load by tag, or all of them (R307) -/
  | gmemMgmtCancel (master : Machine.Master) (same : Bool) (value : BitVec 32)
  /-- WINDOW_COMMAND: GMEM_WIN_CMD stages a window entry change to take effect now or at a frame (R291) -/
  | windowCommand (master : Machine.Master) (same : Bool)
  /-- GMEM_CFG_WRITE: A write of the retry and timeout configuration is applied or rejected (R311) -/
  | gmemCfgWrite (master : Machine.Master) (same : Bool) (value : BitVec 32)
  /-- LEND_BEGIN: TIER_LEND_CMD begin puts an IDLE device into LENDING (R272) -/
  | lendBegin (master : Machine.Master) (same : Bool)
  /-- LEND_END: TIER_LEND_CMD end starts zeroing the lent range (R273) -/
  | lendEnd (master : Machine.Master) (same : Bool)
  /-- LEND_ZEROING_END: Zeroing of the lent range ends and the device leaves LENDING (R273) -/
  | lendZeroingEnd (at_ : Nat)
  /-- TIME_MESSAGE: A TIME message sets the counter coarsely in UNSET (R34) -/
  | timeMessage (p : Packet)
  /-- TIMESTAMP_BLOCK: A timestamp block arrives and the parent offset steers the counter state (R33) -/
  | timestampBlock (port : Fin 81) (t1 t2 t3 t4 : BitVec 64) (status : TwinStatus) (node : BitVec 16)
  /-- TIMESTAMP_SEND: Every 65,536 counts each up port sends a timestamp block (R33) -/
  | timestampSend (port : Fin 81)
  /-- SYNC_PARENT_TIMEOUT: 20,000,000 counts without a parent move the counter to LOST (R35) -/
  | syncParentTimeout
  /-- TICK_SYNC_CFG_WRITE: A guarded write of the sync configuration, leaving LOST for TRACKING or COARSE (R35) -/
  | tickSyncCfgWrite (master : Machine.Master) (same : Bool) (value : BitVec 32)
  /-- LINK_BLOCK_RECEIVE: A link block arrives and is checked, acknowledged, credited or NAKed (R315) -/
  | linkBlockReceive (port : Fin 81) (body : List Byte) (trailer : BitVec 128)
  /-- ACK_TIMEOUT: No acknowledgement advances for 10,000 counts and the port goes DOWN (R317) -/
  | ackTimeout (port : Fin 81)
  /-- PMD_LOCK_LOSS: The PMD loses lock and the port goes DOWN (R317) -/
  | pmdLockLoss (port : Fin 81)
  /-- PORT_TRAINING_START: A DOWN port starts training at once and every 1,000,000 counts (R317) -/
  | portTrainingStart (port : Fin 81)
  /-- PORT_TRAINING_END: Training ends and the port enters QUARANTINE or DOWN (R317) -/
  | portTrainingEnd (port : Fin 81) (ok : Bool) (reversed : Bool) (polarity : BitVec 8)
  /-- PORT_ENABLE: FAB_PORT_CMD enable moves a DISABLED port to DOWN (R317) -/
  | portEnable (master : Machine.Master) (same : Bool) (fd : Fin 10) (port : Fin 8)
  /-- PORT_DISABLE: FAB_PORT_CMD disable moves a port to DISABLED (R317) -/
  | portDisable (master : Machine.Master) (same : Bool) (fd : Fin 10) (port : Fin 8)
  /-- PROBE_SEND: FAB_PORT_CMD probe sends a one-hop probe packet (R318) -/
  | probeSend (master : Machine.Master) (same : Bool) (fd : Fin 10) (port : Fin 8)
  /-- PROBE: A probe arrives from the link partner and is answered (R318) -/
  | probe (port : Fin 81) (p : Packet)
  /-- PROBE_ANSWER: A probe answer arrives and the partner is recorded (R318) -/
  | probeAnswer (port : Fin 81) (p : Packet)
  /-- PACKET_ARRIVE: A packet arrives on a port and is routed onward, delivered or dropped (R328) -/
  | packetArrive (port : Fin 81) (p : Packet)
  /-- PACKET_DELIVER: A packet at its destination is checked for CRC and key and enters the reorder buffer (R331) -/
  | packetDeliver (p : Packet)
  /-- REORDER_TIMEOUT: A held packet waits past the reorder timeout and its sequence is released past the gap (R335) -/
  | reorderTimeout (tag : BitVec 24) (epoch src : BitVec 16) (chan : BitVec 2)
  /-- ROUTE_COMMAND: FAB_RT_CMD schedules a commit of every shadow table (R330) -/
  | routeCommand (master : Machine.Master) (same : Bool)
  /-- ROUTE_COMMIT: At the commit count the shadow tables become live and admitted ports become UP (R330) -/
  | routeCommit
  /-- CONGESTION_WINDOW_END: A 1 µs stall-count window ends and stalled windows are counted (R341) -/
  | congestionWindowEnd
  /-- SUMMARY_PERIOD_LATCH: Every 1,000,000 counts without a running job the counters and maps are latched (R341) -/
  | summaryPeriodLatch
  /-- BRIDGE_FLIT_REPLAY: A bridge flit fails its CRC and is replayed (R25) -/
  | bridgeFlitReplay (dir : Fin 38) (overshare again : Bool)
  /-- DELIVERY_STREAM: A delivery stream packet arrives and its rows are written or landed (R208) -/
  | deliveryStream (p : Packet)
  /-- DELIVERY_END_MARKER: A delivery end marker arrives and may let XCH.RECV retire (R209) -/
  | deliveryEndMarker (p : Packet)
  /-- RETURN_STREAM: A return stream packet arrives and its rows are combined or landed (R212) -/
  | returnStream (p : Packet)
  /-- RETURN_END_MARKER: A return end marker arrives and may let XCH.COMBINE retire (R212) -/
  | returnEndMarker (p : Packet)
  /-- COLL_INVOCATION_START: All mask cores' collective instructions are at the head and the invocation starts (R348) -/
  | collInvocationStart (desc : BitVec 12)
  /-- REDUCTION_STREAM: A child's reduction stream packet arrives and is combined (R350) -/
  | reductionStream (p : Packet)
  /-- REDUCTION_END_MARKER: A child's reduction end marker arrives (R350) -/
  | reductionEndMarker (p : Packet)
  /-- BROADCAST_STREAM: A broadcast stream packet arrives and is kept and forwarded (R352) -/
  | broadcastStream (p : Packet)
  /-- BROADCAST_END_MARKER: A broadcast end marker arrives and the member sends its received report (R352) -/
  | broadcastEndMarker (p : Packet)
  /-- COLL_REPORT: A member report reaches the root and is judged (R353) -/
  | collReport (p : Packet) (more : Bool := false)
  /-- SAMPLE_RECORDS: Sample records reach the checker adder and are compared (R356) -/
  | sampleRecords (p : Packet) (more : Bool := false)
  /-- COLL_DEADLINE: The root's counter reaches the deadline of an uncommitted invocation (R353) -/
  | collDeadline (desc : BitVec 12) (inv : Nat)
  /-- TOKEN: A decision token arrives and is applied once and acknowledged (R355) -/
  | token (p : Packet)
  /-- TOKEN_ACKNOWLEDGEMENT: A token acknowledgement arrives at the root and repetition stops (R354) -/
  | tokenAcknowledgement (p : Packet)
  /-- TOKEN_REPEAT: The retry interval expires and the root repeats an unacknowledged token (R354) -/
  | tokenRepeat (desc : BitVec 12) (inv : Nat)
  /-- LOCKSTEP_CHUNK_HASH: A twin's chunk hash arrives and is compared with the local one (R380) -/
  | lockstepChunkHash (p : Packet)
  /-- LOCKSTEP_ARM_RECORD: The twin's arm record arrives for the arm check (R377) -/
  | lockstepArmRecord (p : Packet)
  /-- LOCKSTEP_FRAME_DIGESTS: The twin's frame digests arrive and are compared (R381) -/
  | lockstepFrameDigests (p : Packet)
  /-- LOCKSTEP_GRANULE_RECORDS: The twin's granule records arrive and the first differing store is found (R380) -/
  | lockstepGranuleRecords (p : Packet)
  /-- LOCKSTEP_HALT: A halt from the twin arrives and halts this job (R382) -/
  | lockstepHalt (p : Packet)
  /-- TWIN_CFG_MODE_WRITE: A guarded write of the twin link mode is applied or rejected (R374) -/
  | twinCfgModeWrite (master : Machine.Master) (same : Bool) (value : BitVec 32)
  /-- REGISTER_WRITE: A master writes a register that has no row of its own, under its access code (R413) -/
  | registerWrite (master : Machine.Master) (same : Bool) (offset : BitVec 28) (value : BitVec 32) (enables : BitVec 4)
  /-- ALIAS_SET: A write to a set alias sets RW bits of the base register in one cc (R416) -/
  | aliasSet (master : Machine.Master) (same : Bool) (page : BitVec 12) (base : BitVec 14) (value : BitVec 32)
  /-- ALIAS_CLEAR: A write to a clear alias clears RW bits of the base register in one cc (R416) -/
  | aliasClear (master : Machine.Master) (same : Bool) (page : BitVec 12) (base : BitVec 14) (value : BitVec 32)
  /-- ALIAS_TOGGLE: A write to a toggle alias inverts RW bits of the base register in one cc (R416) -/
  | aliasToggle (master : Machine.Master) (same : Bool) (page : BitVec 12) (base : BitVec 14) (value : BitVec 32)
  /-- GUARD_VALUE_WRITE: A value write to a guarded register opens or restarts a guard sequence (R420) -/
  | guardValueWrite (master : Machine.Master) (same : Bool) (page : BitVec 12) (reg : BitVec 13) (value : BitVec 32)
  /-- GUARD_COMPLEMENT_WRITE: A complement write completes or aborts the master's guard sequence (R420) -/
  | guardComplementWrite (master : Machine.Master) (same : Bool) (page : BitVec 12) (reg : BitVec 13) (value : BitVec 32)
  /-- GUARD_WINDOW_EXPIRE: 256 cc pass without a complement and the sequence aborts with cause 2 (R421) -/
  | guardWindowExpire (page : BitVec 12) (master : Machine.Master)
  /-- MBX_SEL_WRITE: A selector write latches a value for the master's mailbox (R424) -/
  | mbxSelWrite (master : Machine.Master) (same : Bool) (page : BitVec 12) (sel : BitVec 8)
  /-- MAILBOX_READY: The latched value is copied to the data registers and MBX_VALID is set (R424) -/
  | mailboxReady (page : BitVec 12) (master : Machine.Master) (cc : Nat)
  /-- V3_FIELD_READ: A read of a voted field returns the majority and rewrites a differing copy (R422) -/
  | v3FieldRead (page : BitVec 12) (reg : BitVec 13)
  /-- VOTE_SCRUB: Every 65,536 cc the scrubber votes every V3 field (R422) -/
  | voteScrub
  /-- RESET_RELEASE: Reset is released and the start runs from SUPPLY (R430) -/
  | resetRelease (held : BitVec 48)
  /-- START_STEP_END: A start step ends and the start state advances or ends in FAILED (R430) -/
  | startStepEnd (step : Fin 10) (ok : Bool) (ms : Nat)
  /-- PWRGOOD_FALL: Power good falls and the device returns to OFF (R431) -/
  | pwrgoodFall
  /-- RAIL_SAMPLE: Each microsecond every rail is sampled against its range (R473) -/
  | railSample (inRange low : BitVec 5)
  /-- TEMP_SAMPLE: Every 10 µs all temperature sensors are sampled (R476) -/
  | tempSample (temps : List (BitVec 12)) (power : BitVec 12)
  /-- REDUCTION_EXIT: After 1 ms at or below 100 °C a die leaves reduction (R478) -/
  | reductionExit (die : Fin 12)
  /-- PWR_CAP_WRITE: A guarded pair sets the limiter's power target or is rejected (R485) -/
  | pwrCapWrite (master : Machine.Master) (same : Bool) (value : BitVec 32)
  /-- PWR_TJ_WRITE: A guarded pair sets the limiter's junction target or is rejected (R485) -/
  | pwrTjWrite (master : Machine.Master) (same : Bool) (value : BitVec 32)
  /-- JOIN_HELLO: The device sends JOIN_HELLO and repeats it every 10 ms until accepted (R443) -/
  | joinHello
  /-- JOIN_ACCEPT: A JOIN_ACCEPT is verified, fixes the node number and derives the session key (R443) -/
  | joinAccept (p : Packet)
  /-- REKEY: A REKEY message replaces the session key (R445) -/
  | rekey (p : Packet)
  /-- OLD_KEY_EXPIRE: 1,000,000 counts after a rekey answer the old key is no longer accepted (R445) -/
  | oldKeyExpire
  /-- QUOTE_REQUEST: A QUOTE_REQUEST message queues a quote (R442) -/
  | quoteRequest (p : Packet)
  /-- SEC_QUOTE_CMD: A guarded command requests a quote over the nonce registers (R442) -/
  | secQuoteCmd (master : Machine.Master) (same : Bool)
  /-- QUOTE_DONE: A quote is signed and returned in a QUOTE message or the mailbox (R441) -/
  | quoteDone
  /-- REPORT_ACK: A REPORT_ACK stops repetition of its report (R447) -/
  | reportAck (p : Packet)
  /-- REPORT_REPEAT: The retry interval expires and an unacknowledged REPORT is repeated (R447) -/
  | reportRepeat (order : BitVec 24)
  /-- SECURITY_CHECK: Every 1,000,000 counts secure SRAM and the identity key are checked (R448) -/
  | securityCheck (sramOk keyOk : Bool)
  /-- SMB_START_WORD: SMBus command 0x01 writes the start word while reset is held (R460) -/
  | smbStartWord (word : BitVec 32) (pecOk : Bool)
  /-- SMB_STATUS: SMBus command 0x02 returns start, job and fault state (R460) -/
  | smbStatus (req : Machine.SmbTransaction)
  /-- SMB_TEMPERATURE: SMBus command 0x03 returns the hottest junction (R460) -/
  | smbTemperature (pecOk : Bool)
  /-- SMB_POWER: SMBus command 0x04 returns package power (R460) -/
  | smbPower (pecOk : Bool)
  /-- SMB_EVENTS: SMBus command 0x05 returns and clears the event bits (R460) -/
  | smbEvents (pecOk : Bool)
  /-- SMB_INVENTORY: SMBus command 0x06 returns inventory, serial and firmware version (R460) -/
  | smbInventory (pecOk : Bool)
  /-- SMB_ALERT_RESPONSE: The device answers the SMBus Alert Response Address (R461) -/
  | smbAlertResponse (pecOk : Bool)
  /-- BYPASS: TAP instruction selecting the bypass register, by its own code 0xFF where no other is given (R465) -/
  | bypass (code : BitVec 8 := 0xFF)
  /-- IDCODE: TAP instruction selecting the identification code (R465) -/
  | idcode
  /-- SAMPLE_PRELOAD: TAP instruction sampling or preloading the boundary register (R465) -/
  | samplePreload (preload : BitVec 15)
  /-- EXTEST: TAP instruction driving the boundary register while reset is held; zeros are shifted in where nothing else is
  given (R465) -/
  | extest (shift : BitVec 15 := 0)
  /-- CLAMP: TAP clamp instruction while reset is held (R465) -/
  | clamp
  /-- HIGHZ: TAP high-impedance instruction while reset is held (R465) -/
  | highz
  /-- ENDPOINT_RESET: FLR, Hot Reset, link down or PERST# resets only the x16 endpoint (R454) -/
  | endpointReset (kind : Machine.EndReset)
  /-- CONFIG_REQUEST: A configuration request is answered with retry status or completed (R455) -/
  | configRequest (write : Bool) (reg : BitVec 12) (value : BitVec 32)
  /-- HBM_WINDOW_ACCESS: A BAR2 access reaches device HBM through the window (R453) -/
  | hbmWindowAccess (write : Bool) (offset : BitVec 44) (len : BitVec 13) (bytes : List Byte)
  /-- MSIX_UNMASK: Unmasking a vector sends its pending message (R457) -/
  | msixUnmask (access : Machine.MsixAccess)
  /-- COMPLETION_TIMEOUT: A device read of host memory times out or fails and the dependent move or restore fails (R454) -/
  | completionTimeout (how : Machine.ReadEnd) (addr : BitVec 64) (obj : Option (BitVec 20))
  /-- NVME_ENABLE: Writing SNAP_NVME_ENABLE 1 enumerates and initialises the NVMe controller (R458) -/
  | nvmeEnable (master : Machine.Master) (same : Bool) (value : BitVec 32)
  /-- NVME_LINK_DOWN: The root port link goes down and the snapshot in progress fails (R458) -/
  | nvmeLinkDown
  /-- FLASH_ERASE: HOSTIF_FLASH_CMD erase starts erasing one 64 KiB block (R464) -/
  | flashErase (master : Machine.Master) (same : Bool)
  /-- FLASH_PROGRAM: HOSTIF_FLASH_CMD program starts programming and verifying 256 staged bytes (R464) -/
  | flashProgram (master : Machine.Master) (same : Bool)
  /-- FLASH_READ: HOSTIF_FLASH_CMD read starts reading 256 bytes into the staging registers (R464) -/
  | flashRead (master : Machine.Master) (same : Bool)
  /-- FLASH_COMMAND_DONE: A flash command ends and its result is recorded (R464) -/
  | flashCommandDone (at_ : Nat) (ok : Bool)
  /-- RUN_START: At boundary + 400 the open latency ends, the frame enters RUN and every sequencer begins issue at index 0 of its slot template (R40) -/
  | runStart
  /-- THROTTLE_STEP_END: A power limiter step ends after 100 counts and issue is no longer gated (R51) -/
  | throttleStepEnd
  /-- CAPACITY_STATE_READ_END: Position 0's read of the layer's capacity state from HBM ends, and its capacity stage may assign tokens (R183) -/
  | capacityStateReadEnd (die : Fin 12)
  /-- STAGED_RESULT_COMPLETE: The root's staged reduction result becomes complete as an item made inside the root, and may lead to commit (R353) -/
  | stagedResultComplete (desc : BitVec 12) (inv : Nat) (more : Bool := false)
  /-- MIRROR_SEND_END: The sender finishes sending a Whey image, sends the commit and marks its own local bank as holding frame F (R400) -/
  | mirrorSendEnd
  /-- RESET_ASSERT: RESET_N goes low, the device leaves its start state and is held in reset, which lets the SMBus start word be accepted (R430) -/
  | resetAssert
  /-- PERST_DEASSERT: PERST# is deasserted, the endpoint leaves reset, and the 100 ms count before configuration requests complete may start (R455) -/
  | perstDeassert
  /-- REFCLK_START: The reference clock starts running, after which the SMBus target answers once VIO and VIN_CORE are in range (R459) -/
  | refclkStart
  /-- TEST_LOGIC_RESET: The TAP enters test-logic reset through TRST# or TMS and IDCODE becomes the selected instruction (R465) -/
  | testLogicReset
  /-- MANAGEMENT_REQUEST: The management agent issues a load or store on the management channel, taking the next tag for a load and making it pending (R307) -/
  | managementRequest (p : Packet)
  deriving DecidableEq, Repr

end Sys2Proof
end

