-- ==== Sys2Proof/Decode.lean ====
section
/-! DEFINITION. Commands spelled by table words. The opcode table gives no row any bits: the commands are issues, events
and writes, not encoded words. -/

namespace Sys2Proof

/-- The command that a word of the table's bits spells: none, since no row of the table has bits.
(log 1 DESIGN CHOICE) -/
def decodeTableWord (_nbits _w : Nat) : Option Instr := none

end Sys2Proof
end

