-- ==== Sys2Proof/Machine/Crypto.lean ====
section
/-! DEFINITION. The published functions the spec names: SHA-512, HMAC-SHA-512 (R444), SipHash-2-4
(R187, R326, R356, R379), Philox4x32-10 (R128), CRC-32C (R314, R319), ECDSA and ECDH on P-521
(R487, R434, R441, R443). The spec gives their names; their definitions are taken as published. -/

namespace Sys2Proof.Machine

open Sys2Proof

/-! ### SHA-512 -/

/-- The eight 64-bit words of a 512-bit number, the highest first. -/
def octet (v : Nat) : List (BitVec 64) :=
  (List.range 8).map fun i => BitVec.ofNat 64 (v / 2 ^ (64 * (7 - i)))

/-- The round constants of SHA-512, eight to a number. -/
def shaConstants : List Nat :=
  [0x428a2f98d728ae227137449123ef65cdb5c0fbcfec4d3b2fe9b5dba58189dbbc3956c25bf348b53859f111f1b605d019923f82a4af194f9bab1c5ed5da6d8118,
   0xd807aa98a303024212835b0145706fbe243185be4ee4b28c550c7dc3d5ffb4e272be5d74f27b896f80deb1fe3b1696b19bdc06a725c71235c19bf174cf692694,
   0xe49b69c19ef14ad2efbe4786384f25e30fc19dc68b8cd5b5240ca1cc77ac9c652de92c6f592b02754a7484aa6ea6e4835cb0a9dcbd41fbd476f988da831153b5,
   0x983e5152ee66dfaba831c66d2db43210b00327c898fb213fbf597fc7beef0ee4c6e00bf33da88fc2d5a79147930aa72506ca6351e003826f142929670a0e6e70,
   0x27b70a8546d22ffc2e1b21385c26c9264d2c6dfc5ac42aed53380d139d95b3df650a73548baf63de766a0abb3c77b2a881c2c92e47edaee692722c851482353b,
   0xa2bfe8a14cf10364a81a664bbc423001c24b8b70d0f89791c76c51a30654be30d192e819d6ef5218d69906245565a910f40e35855771202a106aa07032bbd1b8,
   0x19a4c116b8d2d0c81e376c085141ab532748774cdf8eeb9934b0bcb5e19b48a8391c0cb3c5c95a634ed8aa4ae3418acb5b9cca4f7763e373682e6ff3d6b2b8a3,
   0x748f82ee5defb2fc78a5636f43172f6084c87814a1f0ab728cc702081a6439ec90befffa23631e28a4506cebde82bde9bef9a3f7b2c67915c67178f2e372532b,
   0xca273eceea26619cd186b8c721c0c207eada7dd6cde0eb1ef57d4f7fee6ed17806f067aa72176fba0a637dc5a2c898a6113f9804bef90dae1b710b35131c471b,
   0x28db77f523047d8432caab7b40c724933c9ebe0a15c9bebc431d67c49c100d4c4cc5d4becb3e42b6597f299cfc657e2a5fcb6fab3ad6faec6c44198c4a475817]

/-- The eighty round constants of SHA-512. -/
def shaK : List (BitVec 64) := shaConstants.flatMap octet

/-- The initial hash value of SHA-512. -/
def shaInit : List (BitVec 64) :=
  octet 0x6a09e667f3bcc908bb67ae8584caa73b3c6ef372fe94f82ba54ff53a5f1d36f1510e527fade682d19b05688c2b3e6c1f1f83d9abfb41bd6b5be0cd19137e2179

/-- The exclusive or of a word's rotations to the right. -/
def rotXor (x : BitVec 64) (by_ : List Nat) : BitVec 64 :=
  by_.foldl (fun r n => r ^^^ x.rotateRight n) 0

/-- Message padding to a multiple of 128 bytes. -/
def shaPad (m : List Byte) : List Byte :=
  let z := (240 - (m.length + 17) % 128 + 16) % 128
  m ++ [0x80] ++ List.replicate z 0 ++ beBytes 16 (8 * m.length)

/-- The word of the message schedule that comes after the words `w`, newest first. -/
def shaNext (w : List (BitVec 64)) : BitVec 64 :=
  let back := fun i => w.getD (i - 1) 0
  [back 16, rotXor (back 15) [1, 8] ^^^ back 15 >>> 7, back 7,
    rotXor (back 2) [19, 61] ^^^ back 2 >>> 6].foldl (· + ·) 0

/-- The message schedule, newest word first, from the sixteen block words reversed. -/
def shaSchedule (n : Nat) (w : List (BitVec 64)) : List (BitVec 64) :=
  (List.range n).foldl (fun w _ => shaNext w :: w) w

/-- The rounds seen as two sequences: each keeps its last four words, newest first. -/
structure ShaSeq where
  upper : List (BitVec 64)
  lower : List (BitVec 64)

/-- One round: the sum of the lower sequence goes into both, the majority of the upper one into the upper alone. -/
def ShaSeq.next (s : ShaSeq) (add : BitVec 64) : ShaSeq :=
  let up := fun i => s.upper.getD i 0
  let lo := fun i => s.lower.getD i 0
  let choose := lo 2 ^^^ (lo 0 &&& (lo 1 ^^^ lo 2))
  let most := (up 0 &&& (up 1 ||| up 2)) ||| (up 1 &&& up 2)
  let sum := lo 3 + rotXor (lo 0) [14, 18, 41] + choose + add
  ⟨(sum + rotXor (up 0) [28, 34, 39] + most) :: s.upper.take 3, (up 3 + sum) :: s.lower.take 3⟩

/-- One 128-byte block. -/
def shaBlock (h : List (BitVec 64)) (blk : List Byte) : List (BitVec 64) :=
  let w := ((chunksOf 8 16 blk).map fun b => BitVec.ofNat 64 (beNat b)).reverse
  let adds := List.zipWith (· + ·) shaK (shaSchedule 64 w).reverse
  let s := adds.foldl ShaSeq.next ⟨h.take 4, h.drop 4⟩
  List.zipWith (· + ·) h (s.upper ++ s.lower)

/-- SHA-512 of a byte list, 64 bytes. (log 63 PRESUMED) -/
def sha512 (m : List Byte) : List Byte :=
  let p := shaPad m
  let h := (chunksOf 128 (p.length / 128) p).foldl shaBlock shaInit
  h.flatMap fun w => beBytes 8 w.toNat

/-- HMAC-SHA-512 (R438, R444). (log 63 PRESUMED) -/
def hmacSha512 (key m : List Byte) : List Byte :=
  let k := padTo 0 128 (if key.length > 128 then sha512 key else key)
  let i := k.map (· ^^^ 0x36)
  let o := k.map (· ^^^ 0x5C)
  sha512 (o ++ sha512 (i ++ m))

/-! ### SipHash-2-4 -/

/-- The four words of SipHash. -/
structure Sip where
  v0 : BitVec 64
  v1 : BitVec 64
  v2 : BitVec 64
  v3 : BitVec 64

/-- One SipRound. -/
def Sip.round (s : Sip) : Sip :=
  let a0 := s.v0 + s.v1
  let a1 := s.v1.rotateLeft 13 ^^^ a0
  let a0 := a0.rotateLeft 32
  let a2 := s.v2 + s.v3
  let a3 := s.v3.rotateLeft 16 ^^^ a2
  let b0 := a0 + a3
  let b3 := a3.rotateLeft 21 ^^^ b0
  let b2 := a2 + a1
  let b1 := a1.rotateLeft 17 ^^^ b2
  ⟨b0, b1, b2.rotateLeft 32, b3⟩

/-- Absorb one message word with two rounds. -/
def Sip.absorb (s : Sip) (m : BitVec 64) : Sip :=
  let t := (Sip.round (Sip.round ⟨s.v0, s.v1, s.v2, s.v3 ^^^ m⟩))
  ⟨t.v0 ^^^ m, t.v1, t.v2, t.v3⟩

/-- SipHash-2-4 of a byte list under the key (k0, k1). -/
def sipHash (k0 k1 : BitVec 64) (m : List Byte) : BitVec 64 :=
  let s : Sip := ⟨k0 ^^^ 0x736f6d6570736575, k1 ^^^ 0x646f72616e646f6d,
    k0 ^^^ 0x6c7967656e657261, k1 ^^^ 0x7465646279746573⟩
  let full := m.length / 8
  let last := m.drop (8 * full)
  let words := (chunksOf 8 full (m.take (8 * full))).map fun b => BitVec.ofNat 64 (leNat b)
  let tail := BitVec.ofNat 64 (leNat last + (m.length % 256) * 2 ^ 56)
  let t := (words ++ [tail]).foldl Sip.absorb s
  let t : Sip := ⟨t.v0, t.v1, t.v2 ^^^ 0xff, t.v3⟩
  let t := Sip.round (Sip.round (Sip.round (Sip.round t)))
  t.v0 ^^^ t.v1 ^^^ t.v2 ^^^ t.v3

/-! ### Philox4x32-10 -/

/-- One Philox4x32 round on the counter words (c0, c1, c2, c3) with key (k0, k1). -/
def philoxRound (c : Nat × Nat × Nat × Nat) (k0 k1 : Nat) : Nat × Nat × Nat × Nat :=
  let p0 := 0xD2511F53 * c.1
  let p1 := 0xCD9E8D57 * c.2.2.1
  (Nat.xor (Nat.xor (p1 / 2 ^ 32) c.2.1) k0, p1 % 2 ^ 32,
   Nat.xor (Nat.xor (p0 / 2 ^ 32) c.2.2.2) k1, p0 % 2 ^ 32)

/-- `n` rounds, the key bumped before every round but the first. -/
def philoxRounds : Nat → (Nat × Nat × Nat × Nat) → Nat → Nat → Nat × Nat × Nat × Nat
  | 0, c, _, _ => c
  | n + 1, c, k0, k1 =>
    philoxRounds n (philoxRound c k0 k1) ((k0 + 0x9E3779B9) % 2 ^ 32) ((k1 + 0xBB67AE85) % 2 ^ 32)

/-- The four output words of Philox4x32-10 for a 128-bit counter and a 64-bit key (R128). -/
def philox (ctr key : Nat) : List Nat :=
  let w := fun i => (ctr / 2 ^ (32 * i)) % 2 ^ 32
  let r := philoxRounds 10 (w 0, w 1, w 2, w 3) (key % 2 ^ 32) (key / 2 ^ 32 % 2 ^ 32)
  [r.1, r.2.1, r.2.2.1, r.2.2.2]

/-! ### CRC-32C -/

/-- One bit of the reflected CRC-32C (polynomial 0x82F63B78). -/
def crcBit (c : BitVec 32) : BitVec 32 :=
  if c.getLsbD 0 then (c >>> 1) ^^^ 0x82F63B78 else c >>> 1

/-- One byte of CRC-32C. -/
def crcByte (c : BitVec 32) (b : Byte) : BitVec 32 :=
  (List.range 8).foldl (fun x _ => crcBit x) (c ^^^ b.setWidth 32)

/-- CRC-32C of a byte list. (log 63 PRESUMED) -/
def crc32c (m : List Byte) : BitVec 32 := ~~~(m.foldl crcByte 0xFFFFFFFF)

/-! ### P-521 -/

/-- The field prime of P-521. -/
def p521 : Nat := 2 ^ 521 - 1

/-- The order of the base point. -/
def p521n : Nat :=
  0x1fffffffffffffffffffffffffffffffffffffffffffffffffffffffffffffffffa51868783bf2f966b7fcc0148f709a5d03bb5c9b8899c47aebb6fb71e91386409

/-- The curve coefficient b. -/
def p521b : Nat :=
  0x0051953EB9618E1C9A1F929A21A0B68540EEA2DA725B99B315F3B8B489918EF109E156193951EC7E937B1652C0BD3BB1BF073573DF883D2C34F1EF451FD46B503F00

/-- A point of the curve; `none` is the point at infinity. -/
abbrev ECPoint := Option (Nat × Nat)

/-- The base point. -/
def p521G : ECPoint :=
  some (0x00C6858E06B70404E9CD9E3ECB662395B4429C648139053FB521F828AF606B4D3DBAA14B5E77EFE75928FE1DC127A2FFA8DE3348B3C1856A429BF97E7E31C2E5BD66,
    0x011839296A789A3BC0045C8A5FB42C7D1BD998F54449579B446817AFBD17273E662C97EE72995EF42640C550B9013FAD0761353C7086A272C24088BE94769FD16650)

/-- Modular power by squaring over `k` exponent bits. -/
def powMod (b m : Nat) : Nat → Nat → Nat
  | 0, _ => 1 % m
  | k + 1, e =>
    let h := powMod b m k (e / 2)
    if e % 2 = 1 then h * h % m * b % m else h * h % m

/-- Modular inverse for a prime modulus below 2^521. -/
def invMod (a m : Nat) : Nat := powMod (a % m) m 521 (m - 2)

/-- The point lies on the curve. -/
def ecOnCurve (x y : Nat) : Bool :=
  x < p521 && y < p521 && (y * y) % p521 == (x * x * x + (p521 - 3) * x + p521b) % p521

/-- Addition of points. -/
def ecAdd (a b : ECPoint) : ECPoint :=
  match a, b with
  | none, q => q
  | q, none => q
  | some (x1, y1), some (x2, y2) =>
    if x1 = x2 && (y1 + y2) % p521 = 0 then none
    else
      let l := if x1 = x2 then (3 * x1 * x1 + (p521 - 3)) * invMod (2 * y1) p521 % p521
        else (y2 + p521 - y1) * invMod (x2 + p521 - x1) p521 % p521
      let x3 := (l * l + 2 * p521 - x1 - x2) % p521
      some (x3, (l * (x1 + p521 - x3) + p521 - y1) % p521)

/-! Scalar multiples are computed in Jacobian coordinates: (X, Y, Z) stands for the point (X / Z², Y / Z³), and for
the point at infinity where Z is 0. -/

/-- Difference in the field, of reduced numbers. -/
def fieldSub (a b : Nat) : Nat := (a + p521 - b) % p521

/-- Twice a point. -/
def jacDouble (q : Nat × Nat × Nat) : Nat × Nat × Nat :=
  let (x, y, z) := q
  let d := z * z % p521
  let g := y * y % p521
  let b := x * g % p521
  let a := 3 * (fieldSub x d * ((x + d) % p521)) % p521
  let x3 := fieldSub (a * a % p521) (8 * b % p521)
  (x3, fieldSub (a * fieldSub (4 * b % p521) x3 % p521) (8 * g * g % p521), 2 * y * z % p521)

/-- A point in Jacobian coordinates and one in affine coordinates, added. -/
def jacAdd (q : Nat × Nat × Nat) (p : Nat × Nat) : Nat × Nat × Nat :=
  let (x, y, z) := q
  if z = 0 then (p.1, p.2, 1)
  else
    let zz := z * z % p521
    let h := fieldSub (p.1 * zz % p521) x
    let r := fieldSub (p.2 * (zz * z % p521) % p521) y
    if h = 0 then (if r = 0 then jacDouble q else (1, 1, 0))
    else
      let hh := h * h % p521
      let v := x * hh % p521
      let x3 := fieldSub (r * r % p521) ((h * hh + 2 * v) % p521)
      (x3, fieldSub (r * fieldSub v x3 % p521) (y * (h * hh % p521) % p521), z * h % p521)

/-- A multiple of a point over the low `k` bits of the scalar `e`. -/
def jacMul (k e : Nat) (p : Nat × Nat) : Nat × Nat × Nat :=
  match k with
  | 0 => (1, 1, 0)
  | k + 1 =>
    let d := jacDouble (jacMul k (e / 2) p)
    if e % 2 = 1 then jacAdd d p else d

/-- Scalar multiple over the low `k` bits of the scalar. -/
def ecMul (k e : Nat) (q : ECPoint) : ECPoint :=
  match q with
  | none => none
  | some p =>
    let (x, y, z) := jacMul k e p
    if z = 0 then none
    else
      let i := invMod z p521
      some (x * (i * i % p521) % p521, y * (i * i % p521 * i % p521) % p521)

/-- An uncompressed point, 133 bytes: 0x04, x, y (R487). -/
def ecEncode (q : ECPoint) : List Byte :=
  match q with
  | none => List.replicate 133 0
  | some (x, y) => [0x04] ++ beBytes 66 x ++ beBytes 66 y

/-- Read an uncompressed point; a byte list that is no point of the curve gives none. -/
def ecDecode (b : List Byte) : ECPoint :=
  let x := beNat (slice b 1 66)
  let y := beNat (slice b 67 66)
  if b.length = 133 && b.head? == some 0x04 && ecOnCurve x y then some (x, y) else none

/-- ECDSA verification of a 132-byte signature r then s over SHA-512 of `m` (R487). (log 63 PRESUMED) -/
def ecdsaVerify (pub m sig : List Byte) : Bool :=
  let r := beNat (slice sig 0 66)
  let s := beNat (slice sig 66 66)
  match ecDecode pub with
  | none => false
  | some q =>
    if r = 0 || p521n ≤ r || s = 0 || p521n ≤ s then false
    else
      let e := beNat (sha512 m)
      let w := invMod s p521n
      match ecAdd (ecMul 521 (e * w % p521n) p521G) (ecMul 521 (r * w % p521n) (some q)) with
      | none => false
      | some (x, _) => x % p521n == r

/-- ECDSA signature with secret scalar `d` and nonce `k`, 132 bytes r then s. (log 63 PRESUMED) -/
def ecdsaSign (d k : Nat) (m : List Byte) : List Byte :=
  match ecMul 521 k p521G with
  | none => List.replicate 132 0
  | some (x, _) =>
    let r := x % p521n
    let e := beNat (sha512 m)
    beBytes 66 r ++ beBytes 66 (invMod k p521n * (e + r * d) % p521n)

/-- The public key of a secret scalar, 133 bytes. -/
def ecPublic (d : Nat) : List Byte := ecEncode (ecMul 521 d p521G)

/-- The x-coordinate of the ECDH point, 66 bytes (R443 step 5). (log 63 PRESUMED) -/
def ecdhX (d : Nat) (pub : List Byte) : List Byte :=
  match ecMul 521 d (ecDecode pub) with
  | none => List.replicate 66 0
  | some (x, _) => beBytes 66 x

end Sys2Proof.Machine
end

