-- ==== Sys2Proof/Machine/Clock.lean ====
section
/-! DEFINITION. Device time. One unit is 1/7 ns: a count is 7 units, an arithmetic cycle (ac, 1.4 GHz) 5 units,
a control cycle (cc, 0.7 GHz) 10 units (R10, R31). -/

namespace Sys2Proof.Machine

/-- Parts of a count: the counter is followed to 10⁻⁸ of a unit, which is the step of its rate adjustment
(TICK_OFFSET_RATE, in units of 0.01 ppm). -/
def countParts : Nat := 700000000

/-- Elapsed units since the release of reset on the device's own clocks, and the 64-bit domain counter (R31): its count,
how far it has come towards the next one, and the rate adjustment in force, in units of 0.01 ppm (R34). -/
structure Clock where
  units : Nat
  count : Nat
  phase : Nat
  rate : Int
  deriving DecidableEq, Repr

namespace Clock

/-- The running control cycle, counted from the release of reset (R422). -/
def cc (k : Clock) : Nat := k.units / 10

/-- The running arithmetic cycle. -/
def ac (k : Clock) : Nat := k.units / 5

/-- Parts of a count by which the counter advances in one unit, at the rate in force (R34). -/
def step (k : Clock) : Nat := (100000000 + k.rate).toNat

/-- `n` units pass; the counter advances at its rate. -/
def passUnits (k : Clock) (n : Nat) : Clock :=
  let t := k.phase + n * k.step
  { k with units := k.units + n, count := k.count + t / countParts, phase := t % countParts }

/-- Time passes to a unit, if it lies ahead. (log 6 DEDUCED) -/
def toUnit (k : Clock) (u : Nat) : Clock := k.passUnits (u - k.units)

/-- Units until the counter holds `t`. -/
def unitsTo (k : Clock) (t : Nat) : Nat := ceilDiv ((t - k.count) * countParts - k.phase) k.step

/-- Time passes until the counter holds `t`, if `t` lies ahead. (log 6 DEDUCED) -/
def toCount (k : Clock) (t : Nat) : Clock :=
  if k.count < t then { k.passUnits (k.unitsTo t) with count := t } else k

/-- The counter is set to `t` in one step (R34). -/
def setCount (k : Clock) (t : Nat) : Clock := { k with count := t }

/-- The counter's rate is adjusted (R34). -/
def setRate (k : Clock) (r : Int) : Clock := { k with rate := r }

/-- Time passes to the start of control cycle `c`, if it lies ahead. (log 6 DEDUCED) -/
def toCc (k : Clock) (c : Nat) : Clock := k.toUnit (c * 10)

/-- Time passes to the start of arithmetic cycle `a`, if it lies ahead. -/
def toAc (k : Clock) (a : Nat) : Clock := k.toUnit (a * 5)

/-- Time passes to the next control cycle. -/
def nextCc (k : Clock) : Clock := k.toCc (k.cc + 1)

end Clock
end Sys2Proof.Machine
end

