-- ==== Sys2Proof/Machine/Sparse.lean ====
section
/-! DEFINITION. Sparse data in one canonical form: keys strictly rising, no entry equal to what an
unlisted key reads as. Memories, route tables and register files are kept this way. -/

namespace Sys2Proof.Machine

open Sys2Proof

/-- A sparse map from numbers; every reader passes what an unlisted key reads as. -/
abbrev Sparse (α : Type) := List (Nat × α)

/-- What key `k` holds; an unlisted key reads as `d`. -/
def Sparse.get {α : Type} (m : Sparse α) (d : α) (k : Nat) : α :=
  match m with
  | [] => d
  | (a, v) :: t => if a = k then v else Sparse.get t d k

/-- Insert before the first larger key, replacing an equal one. -/
def Sparse.insert {α : Type} (m : Sparse α) (k : Nat) (v : α) : Sparse α :=
  match m with
  | [] => [(k, v)]
  | (a, w) :: t =>
    if k < a then (k, v) :: (a, w) :: t
    else if a = k then (k, v) :: t
    else (a, w) :: Sparse.insert t k v

/-- Remove every entry of key `k`. -/
def Sparse.erase {α : Type} (m : Sparse α) (k : Nat) : Sparse α :=
  match m with
  | [] => []
  | (a, w) :: t => if a = k then Sparse.erase t k else (a, w) :: Sparse.erase t k

/-- Write key `k`; writing what an unlisted key reads as removes the entry. -/
def Sparse.set {α : Type} [DecidableEq α] (m : Sparse α) (d : α) (k : Nat) (v : α) : Sparse α :=
  if v = d then Sparse.erase m k else Sparse.insert m k v

/-- Keys rise strictly from above `lo` (`none`: no bound). -/
def Sparse.rising {α : Type} (lo : Option Nat) : Sparse α → Bool
  | [] => true
  | (a, _) :: t => (match lo with | none => true | some b => decide (b < a)) && Sparse.rising (some a) t

/-- The canonical form holds for default `d`. -/
def Sparse.wf {α : Type} [DecidableEq α] (d : α) (m : Sparse α) : Bool :=
  Sparse.rising none m && m.all (fun e => decide (e.2 ≠ d))

/-- A byte memory: cells at strictly rising addresses. -/
abbrev Memory := List Host.Cell

/-- What a byte of RAM that nothing has written reads as: zero (R430 step 6, R429, R76). (log 5 DESIGN CHOICE) -/
def ramDefault : Byte := 0

/-- The canonical form of a RAM. -/
def Memory.wf (m : Memory) : Bool := Sparse.wf ramDefault m

/-- One byte of a RAM. (log 5 DESIGN CHOICE) -/
def Memory.read (m : Memory) (a : Nat) : Byte := Sparse.get m ramDefault a

/-- Write one byte of a RAM. -/
def Memory.write (m : Memory) (a : Nat) (v : Byte) : Memory := Sparse.set m ramDefault a v

/-- `n` bytes of a RAM from address `a`. -/
def Memory.readN (m : Memory) (a n : Nat) : List Byte := (List.range n).map fun i => m.read (a + i)

/-- Write bytes from address `a` upward. -/
def Memory.writeN (m : Memory) (a : Nat) (bs : List Byte) : Memory :=
  match bs with
  | [] => m
  | b :: t => Memory.writeN (m.write a b) (a + 1) t

/-- A little-endian number of `n` bytes at address `a` (R10). -/
def Memory.readLe (m : Memory) (a n : Nat) : Nat := leNat (m.readN a n)

/-- Drop every cell of the range of `n` bytes at `a`: they read as zero again. -/
def Memory.clear (m : Memory) (a n : Nat) : Memory := m.filter fun c => !(a ≤ c.1 && c.1 < a + n)

end Sys2Proof.Machine
end

