-- ==== Sys2Proof/Machine/CoreState.lean ====
section
/-! DEFINITION. The state of one core: sequencer, engine queues, matrix array, accumulator sets and the
sequence numbers of its random streams (R77, R88 to R91, R128, R141 to R145). -/

namespace Sys2Proof.Machine

open Sys2Proof

/-- Why a sequencer holds after an instruction has issued (Table ENC-3). -/
inductive Hold where
  | none
  /-- TICK.WAIT until the counter reaches a count (R54). -/
  | tickWait (count : Nat)
  /-- SYNC.BAR, its ID and MASK and the unit at which this core arrived (R100). -/
  | barrier (id : Nat) (mask : Nat) (units : Nat)
  /-- FENCE.ENG over the classes of a mask, for entries issued before `seq` (R101). -/
  | fenceEng (cmask : Nat) (seq : Nat)
  /-- FENCE.GMEM over one node, or all destinations, for entries issued before `seq` (R101). -/
  | fenceGmem (node : Option Nat) (seq : Nat)
  deriving DecidableEq, Repr

/-- One open LOOP: body bounds, passes left after this one, iteration number and the scalar that
receives it (R99). -/
structure LoopFrame where
  first : Nat
  last : Nat
  left : Nat
  iter : Nat
  si : Option (BitVec 5)
  deriving DecidableEq, Repr

/-- Where an issued engine instruction stands (R88, R91). -/
inductive Stage where
  | queued
  | running
  deriving DecidableEq, Repr

/-- One issued, unretired engine instruction with the values it captured (R89). -/
structure Entry where
  /-- Issue number within the core. -/
  seq : Nat
  /-- Template index. -/
  index : Nat
  eng : Eng
  word : InsWord
  /-- Its predicate was on at issue (R78, R91). -/
  on : Bool
  stage : Stage
  /-- Captured descriptors by number (R89). -/
  tds : List (Nat × TileDesc)
  /-- Captured scalars by number (R89). -/
  scs : List (Nat × Scalar)
  /-- Units before which its work cannot end, where the manual gives the time. -/
  due : Nat
  /-- The frame of its issue. -/
  frame : Nat
  /-- Its engine has done its part and it may retire: set by the commands that end a wait. -/
  done : Bool
  deriving DecidableEq, Repr

/-- A captured descriptor of an entry. -/
def Entry.td (e : Entry) (n : Nat) : TileDesc := ((e.tds.find? fun p => p.1 == n).map (·.2)).getD 0
/-- A captured scalar of an entry. -/
def Entry.sc (e : Entry) (n : Nat) : Scalar := ((e.scs.find? fun p => p.1 == n).map (·.2)).getD 0

/-- The stationary block in the shadow or the cells: format, tile extents and the pairs (q, e), row by row
(R135, R141). -/
structure Block where
  seq : Nat
  fmt : Nat
  trows : Nat
  tcols : Nat
  rows : List (List QE)
  deriving DecidableEq, Repr

/-- What issue knows of the latest MM.LOAD (R105, R142, R143). (log 23 DEDUCED) -/
structure LoadView where
  seq : Nat
  fmt : Nat
  trows : Nat
  tcols : Nat
  deriving DecidableEq, Repr

/-- What issue knows of an accumulator set (R105, R126, R144, R153). (log 23 DEDUCED) -/
structure SetView where
  /-- Tile columns of the clearing block, none before any clear. -/
  tcols : Option Nat
  /-- Formats (stationary, streaming) of the clearing run. -/
  pair : Option (Nat × Nat)
  f32 : Bool
  closed : Bool
  /-- An MM.PAIR cleared it, which fixed its tile-column count (R164). -/
  paired : Bool
  deriving DecidableEq, Repr

/-- What a list of changes in issue order, each with the ac from which it holds, shows at an ac. -/
def shownAt {α : Type} (now : Nat) (l : List (Nat × α)) : Option α := (l.filter fun x => x.1 ≤ now).getLast?.map (·.2)

/-- The changes that still show at an ac or will: one that a later change has replaced by then is left out. -/
def showing {α : Type} (now : Nat) : List (Nat × α) → List (Nat × α)
  | [] => []
  | x :: t => if t.any fun y => y.1 ≤ now then showing now t else x :: t

/-- An accumulator set: 512 rows of up to 768 elements, keyed row × 768 + column (R124, R144). Its contents and modes are
those after the last MM instruction that has left its queue (log 24). -/
structure AccSet where
  tcols : Nat
  pair : Option (Nat × Nat)
  /-- The weight W of an exact set (R124). -/
  weight : Int
  /-- F32 mode: elements are F32 codes (R126). -/
  f32 : Bool
  /-- Closed by a skimming run (R153). -/
  closed : Bool
  elems : Sparse Int
  /-- The byte offset in the accumulator store of a poisoned byte of the set (R386, Table REG-7). -/
  poison : Option Nat
  /-- From which ac on it is in F32 mode, and closed (R126, R153, R154). -/
  shows : List (Nat × Bool × Bool)
  deriving DecidableEq, Repr

/-- A set that nothing has cleared yet. -/
def AccSet.empty : AccSet := ⟨0, none, 0, false, false, [], none, []⟩
/-- Issue's view of a set that nothing has cleared yet. -/
def SetView.empty : SetView := ⟨none, none, false, false, false⟩

/-- One released triple of the AND stage: row, and its non-empty words (column, matches). -/
structure Triple where
  row : Nat
  words : List (Nat × Nat)
  deriving DecidableEq, Repr

/-- The pairing unit during a walk: triples to come, words that wait for a walker, walkers (last ac and bank
of their word), bank queues with entries reserved and arrived, and counts. -/
structure Walk where
  triples : List Triple
  waiting : List (Nat × Nat)
  walkers : List (Option (Nat × Nat))
  reserved : List Nat
  arrived : List Nat
  stalls : Nat
  qmax : Nat
  qbank : Nat
  lastAdd : Nat
  deriving DecidableEq, Repr

/-- The pairing unit between its instructions: the ac from which the AND stage is free, the words and sums on their way
then, and the ac after the last one in which an MM.PAIR is in progress (R166 to R168). -/
structure PairRun where
  free : Nat
  walk : Walk
  fin : Nat
  deriving DecidableEq, Repr

/-- Nothing in the pairing unit. -/
def PairRun.empty : PairRun :=
  ⟨0, ⟨[], [], List.replicate 32 none, List.replicate 32 0, List.replicate 32 0, 0, 0, 0, 0⟩, 0⟩

/-- The state of one core. -/
structure Core where
  scal : Vector Scalar 32
  pred : BitVec 8
  td : Vector TileDesc 64
  /-- Template index of the next issue (CORE_SEQ_PC). -/
  pc : Nat
  /-- TICK.END executed in this frame. -/
  ended : Bool
  hold : Hold
  loops : List LoopFrame
  /-- The first arithmetic cycle in which it may issue again (R88). -/
  nextAc : Nat
  /-- Issue number of the next engine instruction. -/
  nextSeq : Nat
  /-- Issued, unretired engine instructions in issue order. -/
  entries : List Entry
  /-- The latest MM.LOAD issued. -/
  load : Option LoadView
  views : Vector SetView 4
  pairing : PairRun
  /-- The shadow block, and whether its fill has ended (R141, R142). -/
  shadow : Option (Block × Bool)
  /-- The blocks in the cells, each with the ac from which its first run streams: the last is that of the latest run to
  leave its queue (R142). -/
  cells : List (Nat × Block)
  sets : Vector AccSet 4
  /-- The ac at which the last run began to stream, and at which its last plane has entered (R138, R142). -/
  streamFrom : Nat
  streamEnd : Nat
  /-- The ac up to which array work has been counted (R147). -/
  arrayBusyTo : Nat
  /-- Sequence numbers of the loader, store path, row engine and vector unit (R128, R129). -/
  rng : Vector Nat 4
  /-- Work counted in this frame in the unit of each declared class (R47), keyed by class. -/
  work : Sparse Nat
  /-- What the latest Separator instruction issued by this core recorded: LAYER, token count (0 where
  predicated off) and K (R199). -/
  sepLast : Option (Nat × Nat × Nat)
  deriving DecidableEq, Repr

/-- A core with nothing in it. (log 9 DESIGN CHOICE) -/
def Core.empty : Core where
  scal := Vector.replicate 32 0
  pred := 1
  td := Vector.replicate 64 0
  pc := 0
  ended := false
  hold := .none
  loops := []
  nextAc := 0
  nextSeq := 0
  entries := []
  load := none
  views := Vector.replicate 4 SetView.empty
  pairing := PairRun.empty
  shadow := none
  cells := []
  sets := Vector.replicate 4 AccSet.empty
  streamFrom := 0
  streamEnd := 0
  arrayBusyTo := 0
  rng := Vector.replicate 4 0
  work := []
  sepLast := none

/-- A scalar register (R77). -/
def Core.s (c : Core) (r : BitVec 5) : Scalar := c.scal[r.toNat]'(r.isLt)
/-- Write a scalar register. -/
def Core.setS (c : Core) (r : BitVec 5) (v : Scalar) : Core := { c with scal := c.scal.set r.toNat v r.isLt }
/-- A tile descriptor (R77). -/
def Core.t (c : Core) (r : BitVec 6) : TileDesc := c.td[r.toNat]'(r.isLt)
/-- Write a tile descriptor. -/
def Core.setT (c : Core) (r : BitVec 6) (v : TileDesc) : Core := { c with td := c.td.set r.toNat v r.isLt }
/-- A predicate bit; P0 reads as 1 always (R77). -/
def Core.p (c : Core) (r : BitVec 3) : Bool := r == 0 || c.pred.getLsbD r.toNat
/-- Write a predicate bit; a write to P0 is ignored (R77). -/
def Core.setP (c : Core) (r : BitVec 3) (b : Bool) : Core :=
  if r = 0 then c
  else { c with pred := (c.pred &&& ~~~(1#8 <<< r.toNat)) ||| (BitVec.ofNat 8 b.toNat <<< r.toNat) }

/-- A scalar register by a number read from a word. -/
def Core.sN (c : Core) (n : Nat) : Scalar := c.s (BitVec.ofNat 5 n)
/-- A descriptor by a number read from a word. -/
def Core.tN (c : Core) (n : Nat) : TileDesc := c.t (BitVec.ofNat 6 n)

end Sys2Proof.Machine
end

