-- ==== Sys2Proof/Machine/Image.lean ====
section
/-! DEFINITION. What admission keeps of a program object: manifest, placed form and reservations
(R64, R65, R108 to R111, and the tables of the reservation parts). -/

namespace Sys2Proof.Machine

open Sys2Proof

/-- One OBJECTS entry (Tables TYN-3A, BWD-5, TIER-2, REC-3). -/
structure ObjEntry where
  format : Nat
  layout : Nat
  rank : Nat
  shape : List Nat
  role : Nat
  target : Nat
  trow : Nat
  tcol : Nat
  movable : Bool
  tier : Nat
  /-- Tier-0 die, 0xFF for none. -/
  die : Nat
  home0 : Nat
  size : Nat
  hbm : Nat
  survival : Nat
  interval : Nat
  deriving DecidableEq, Repr

/-- A collective descriptor (Table COLL-2) with its member list. -/
structure CollDesc where
  desc : Nat
  type : Nat
  oper : Nat
  check : Bool
  boardFmt : Nat
  domainFmt : Nat
  slot : Nat
  maxTiles : Nat
  delta : Nat
  deadline : Nat
  mask : Nat
  members : List Nat
  deriving DecidableEq, Repr

/-- The COLLECTIVES section (Table COLL-1). -/
structure CollSection where
  slots : Nat
  base : Nat
  slotSize : Nat
  descs : List CollDesc
  deriving DecidableEq, Repr

/-- The initial state of one core (R110). -/
structure CoreInit where
  scal : List Scalar
  td : List TileDesc
  pred : Nat
  deriving DecidableEq, Repr

/-- A worst-case declaration (R44, R110). -/
structure Decl where
  slot : Nat
  engine : Nat
  work : Nat
  deriving DecidableEq, Repr

/-- A layer of the Separator part (Table SEP-4). -/
structure SepLayer where
  layer : Nat
  n : Nat
  resident : Bool
  quotas : List Nat
  deriving DecidableEq, Repr

/-- The Separator part (Table SEP-4). -/
structure SepPart where
  stats : Nat
  layers : List SepLayer
  deriving DecidableEq, Repr

/-- A layer of the exchange part (Table CHN-1). -/
structure XchLayer where
  layer : Nat
  g : Nat
  width : Nat
  tmax : Nat
  dfmt : Nat
  rfmt : Nat
  srcTd : Nat
  hosts : List Nat
  deriving DecidableEq, Repr

/-- A slot of the exchange part (Table CHN-1); the arrival map pairs a core with a row base. -/
structure XchSlot where
  slot : Nat
  layer : Nat
  frameSlot : Nat
  carried : Bool
  final : Bool
  first : Nat
  count : Nat
  mask : Nat
  arrivals : List (Nat × Nat)
  records : Nat
  deriving DecidableEq, Repr

/-- The exchange part (Table CHN-1). -/
structure XchPart where
  layers : List XchLayer
  slots : List XchSlot
  deriving DecidableEq, Repr

/-- The herd part (Table HERD-1). -/
structure HerdPart where
  b : Nat
  d : Nat
  chunk : Nat
  imax : Nat
  ready : Nat
  vector : Nat
  table : Nat
  intake : Nat
  intakeEntries : Nat
  outEntries : Nat
  outRing : Nat
  workList : Nat
  result : Nat
  kvFirst : Nat
  kvCount : Nat
  deriving DecidableEq, Repr

/-- The Pail part (Table PAIL-2); `counts` is indexed 8 × core + class. -/
structure PailPart where
  place : Nat
  land : Nat
  sram : Nat
  hbm : Nat
  counts : List Nat
  deriving DecidableEq, Repr

/-- The tier part (Table TIER-3). -/
structure TierPart where
  pool : Nat
  q : Nat
  rfree : Nat
  hmax : Nat
  promotes : List Nat
  deriving DecidableEq, Repr

/-- The SNAP part (Table REC-4). -/
structure SnapPart where
  mask : Nat
  bank : Nat
  bankLen : Nat
  deriving DecidableEq, Repr

/-- A region of the statistics store map (Table BWD-2). -/
structure StatRegion where
  core : Nat
  wslot : Nat
  lastRead : Nat
  first : Nat
  units : Nat
  layer : Nat
  deriving DecidableEq, Repr

/-- A PLACED section (Table ENC-14). -/
structure Placed where
  part : Nat
  order : Nat
  members : Nat
  period : Nat
  guardReq : Nat
  slots : Nat
  /-- Templates by frame slot, then core. -/
  templates : List (List (List InsWord))
  init : List CoreInit
  decls : List Decl
  sep : Option SepPart
  xch : Option XchPart
  herd : Option HerdPart
  pail : Option PailPart
  tier : Option TierPart
  /-- Twin mode and mirror send bound (R376). -/
  twin : Option (Nat × Nat)
  snap : Option SnapPart
  mode : Nat
  stats : List StatRegion
  deriving DecidableEq, Repr

/-- Everything the job draws from the one read of its object (R489). -/
structure Image where
  level : Nat
  fwPlaced : Bool
  objDigest : List Byte
  formDigest : List Byte
  objects : List ObjEntry
  /-- Window table entries for W0 upward, 128 bits each (Table GMEM-2). -/
  windows : List Nat
  colls : CollSection
  form : Placed
  /-- Pails of each core share, indexed 8 × core + class (R253). -/
  pailShares : List Nat
  /-- Landing Pails of each exchange slot, in ascending SLOT (R253). -/
  landShares : List (Nat × Nat)
  deriving DecidableEq, Repr

/-- The template of a core in a frame slot. -/
def Placed.template (p : Placed) (slot core : Nat) : List InsWord := (p.templates.getD slot []).getD core []

/-- The guard band G of R38. -/
def Placed.guardBand (p : Placed) : Nat := max p.guardReq (max 2000 (ceilDiv p.period 50))

/-- Bytes of a core's instruction region (R109): its template bytes rounded up to 64 KiB. -/
def Placed.insBytes (p : Placed) (core : Nat) : Nat :=
  roundUp (16 * sumBy p.templates fun t => (t.getD core []).length) 65536

/-- The usable bytes of a core's tile store (R109). -/
def Placed.tileBytes (p : Placed) (core : Nat) : Nat := 48 * 2 ^ 20 - p.insBytes core

/-! ### Pail shares (R250, R251, R253) -/

/-- The size of a Pail class (Table PAIL-1). -/
def pailSize (cls : Nat) : Nat := 256 * 4 ^ cls

/-- The class that serves a request of `s` bytes (R250). -/
def pailClass (s : Nat) : Nat := ((List.range 8).find? fun c => s ≤ pailSize c).getD 7

end Sys2Proof.Machine
end

