-- ==== Sys2Proof/Machine/PailMap.lean ====
section
/-! DEFINITION. Where Pails lie: classes, homes, shares and handles (R250, R251, R255). -/

namespace Sys2Proof.Machine

open Sys2Proof

/-- A byte memory that descriptors and engines address. -/
inductive Loc where
  | tile (core : Fin 48)
  | die (d : Fin 12)
  | hbm
  deriving DecidableEq, Repr

/-- Class `c` lies in HBM (Table PAIL-2). -/
def pailInHbm (p : PailPart) (c : Nat) : Bool := bitAt p.place c

/-- The share of a core in a class. -/
def Image.share (m : Image) (core cls : Nat) : Nat := m.pailShares.getD (8 * core + cls) 0

/-- Pails that class `cls` numbers in home `home` (die 0 to 11, or 15 for HBM) (R251). -/
def Image.homeCount (m : Image) (cls home : Nat) : Nat :=
  match m.form.pail with
  | none => 0
  | some p =>
    if pailInHbm p cls then
      if home = 15 then
        sumBy (List.range 48) (fun c => m.share c cls) +
          (if cls = p.land then sumBy m.landShares (·.2) else 0)
      else 0
    else if home < 12 then sumBy (List.range 4) fun i => m.share (4 * home + i) cls
    else 0

/-- The home of a core's share in a class. -/
def Image.pailHome (m : Image) (core cls : Nat) : Nat :=
  match m.form.pail with
  | none => 15
  | some p => if pailInHbm p cls then 15 else core / 4

/-- The first index of a core's share within its home (R251). -/
def Image.shareFirst (m : Image) (core cls : Nat) : Nat :=
  let lo := if m.pailHome core cls = 15 then 0 else core / 4 * 4
  sumBy (List.range (core - lo)) fun i => m.share (lo + i) cls

/-- The first index of a slot's landing share within the HBM home (R251). -/
def Image.landFirst (m : Image) (cls slot : Nat) : Nat :=
  sumBy (List.range 48) (fun c => m.share c cls) +
    sumBy (m.landShares.takeWhile fun e => e.1 != slot) (·.2)

/-- A handle (Table PAIL-3). -/
def mkHandle (cls home idx : Nat) : Nat := 2 ^ 31 + cls * 2 ^ 24 + home * 2 ^ 20 + idx
/-- Class of a handle. -/
def hClass (h : Nat) : Nat := bitRange h 26 24
/-- Home of a handle. -/
def hHome (h : Nat) : Nat := bitRange h 23 20
/-- Index of a handle. -/
def hIndex (h : Nat) : Nat := bitRange h 19 0

/-- The handle names a Pail of the admitted pools (R255). -/
def Image.handleOk (m : Image) (h : Nat) : Bool :=
  bitRange h 31 27 == 16 && h < 2 ^ 32 && hIndex h < m.homeCount (hClass h) (hHome h)

/-- Where a Pail lies: its memory and the address of its first byte (R251). -/
def Image.pailAddr (m : Image) (hbmStacks h : Nat) : Loc × Nat :=
  match m.form.pail with
  | none => (.hbm, 0)
  | some p =>
    let c := hClass h
    let i := hIndex h
    if hHome h = 15 then
      let base := sumBy ((List.range c).filter fun x => pailInHbm p x) fun x =>
        ceilDiv (m.homeCount x 15) hbmStacks * pailSize x
      (.hbm, i % hbmStacks * 2 ^ 37 + p.hbm + base + i / hbmStacks * pailSize c)
    else
      let d := hHome h
      let base := sumBy ((List.range c).filter fun x => !pailInHbm p x) fun x =>
        m.homeCount x d * pailSize x
      (.die (Fin.ofNat 12 d), p.sram + base + i * pailSize c)

end Sys2Proof.Machine
end

