-- ==== Sys2Proof/Machine/RegMap.lean ====
section
/-! DEFINITION. The register map: one name per register field of the manual's tables, with its place,
access code and reset value (R30, R57, R83, R114, R133, R154, R170, R192, R216, R231, R249, R263,
R284, R311, R342, R362, R384, R410, R414, R425, R449, R467, R485). -/

namespace Sys2Proof.Machine

open Sys2Proof

/-- The blocks of Table REG-1, and `common` for the registers of Table REG-3 that every page holds. -/
inductive Blk where
  | hub | tick | job | core | sep | pail | tier | gmem | fab | coll | twin | snap | sec | hostif | pwr
  | common
  deriving DecidableEq, Repr

/-- Access codes of Table SCOPE-5 (R422 for V3). -/
inductive Access where
  | ro | rw | w1c | wg | v3
  deriving DecidableEq, Repr

/-- How the device keeps a field: stored as it stands, latched at frame close, latched at frame close or
summary period, latched at frame open, or derived from the rest of the state when read. -/
inductive FldKind where
  | plain | frame | summary | opened | live
  deriving DecidableEq, Repr

/-- The register fields, in the order of Table REG-1 and of their offsets. -/
inductive Fld where
  -- Table PKG-7 (R29)
  | hubOrderCode
  | hubMsCount
  | hubFdCount
  -- Table PKG-8 (R29)
  | hubPosFabric
  -- Table REG-6 (R425)
  | hubStrayCount
  -- Table PKG-9 (R30)
  | hubBridgeReplays
  | hubBridgeOvershare
  | hubBridgeOvershareSeen
  | hubBridgeDown
  -- Table REG-6 (R425)
  | hubDevFaultCode
  | hubDevFaultSrc
  | hubDevFaultDie
  | hubDevFaultStack
  | hubEccHbmCorr
  | hubEccSramCorr
  | hubVoteScrubbed
  | hubVoteUnresolved
  | hubVoteBlock
  | hubVoteOffset
  -- Table TICK-5 (R57)
  | tickSyncPrimary
  | tickSyncBackup
  | tickSyncRoot
  -- Table TICK-6 (R57)
  | tickSyncState
  | tickSyncOnBackup
  -- Table TICK-7 (R57)
  | tickOffsetLast
  | tickOffsetRate
  -- Table TICK-8 (R57)
  | tickPeriodCounts
  -- Table TICK-9 (R57)
  | tickGuardCounts
  -- Table TICK-10 (R57)
  | tickSlotsCount
  | tickSlotsCurrent
  -- Table TICK-11 (R57)
  | tickLaunchLo
  | tickLaunchHi
  -- Table TICK-12 (R57)
  | tickArmCmd
  -- Table TICK-13 (R57)
  | tickFrameClose
  | tickFrameGuardEncroach
  -- Table TICK-14 (R57)
  | tickEvLaunchMissed
  | tickEvOverrun
  | tickEvEncroach
  | tickEvDecl
  | tickEvSyncLost
  | tickEvBudget
  -- Table TICK-15 (R57)
  | tickThrottleCounts
  -- Table TICK-16 (R57)
  | tickFaultCode
  | tickFaultCause
  | tickFaultEngine
  | tickAdmitSlot
  | tickAdmitEngine
  | tickAdmitValid
  | tickDeclSlot
  | tickDeclEngine
  | tickDeclValid
  -- Table TYN-6 (R83)
  | jobCapPart
  | jobCapLevelMax
  | jobCapLevelMin
  | jobCapPlacever
  -- Table TYN-7 (R83)
  | jobCapClasses
  | jobCapFormats
  | jobCapCores
  | jobCapDies
  | jobCapArray
  | jobCapExperts
  | jobCapTopk
  | jobCapShared
  -- Table TYN-8 (R83)
  | jobStateCode
  | jobStateLending
  | jobStateFault
  | jobStateMore
  | jobStateEnd
  | jobCmdOp
  | jobCmdLast
  | jobCmdCause
  | jobCmdReject
  | jobLoadAddrLo
  | jobLoadAddrHi
  | jobLoadLen
  | jobAdmitCode
  | jobAdmitDetail
  | jobAdmitLevel
  | jobAdmitFwplaced
  | jobAdmitValid
  | jobStopFrameLo
  | jobStopFrameHi
  | jobKeyTag
  | jobKeyEpoch
  | jobMemberCount
  | jobMemberIndex
  | jobSeedLo
  | jobSeedHi
  | jobBaseNode
  -- Table HERD-9 (R249)
  | jobHerdUsed
  | jobHerdPresent
  | jobHerdInOver
  | jobHerdInCons
  | jobHerdOutProd
  | jobHerdListed
  | jobHerdWaiting
  | jobHerdAdds
  | jobHerdRejects
  | jobHerdCancels
  | jobHerdFinished
  | jobHerdOutLost
  | jobHerdEarlyRetire
  | jobHerdBuild
  -- Table ENC-17 (R114)
  | coreSeqFaultCode
  | coreSeqFaultCause
  | coreSeqFaultClass
  | coreSeqFaultOpcode
  | coreSeqFaultIndex
  | coreSeqFaultSlot
  | coreSeqPc
  | coreSeqEnded
  | coreSeqHeld
  | coreSeqDepth
  | coreSeqIssued
  -- Table FMT-8 (R133)
  | coreFmtNonfiniteIn
  | coreFmtScaleClamp
  | coreFmtSat
  | coreFmtNanZero
  | coreFmtAccSat
  | coreFmtSetF32
  -- Table ARR-5 (R154)
  | coreArrBusy
  | coreArrStream
  | coreArrLoads
  | coreArrLoadWaits
  | coreArrSkimSafe
  | coreArrSkimPtot
  | coreArrSkimPred
  | coreArrSetClosed
  | coreArrBlockBits
  | coreArrBlockTrows
  | coreArrBlockTcols
  | coreLdrTransposed
  | coreLdrConverted
  -- Table SPR-5 (R170)
  | coreSprPairBusy
  | coreSprPairs
  | coreSprStalls
  | coreSprIdxDrop
  | coreSprGrpDrop
  | coreSprTagDrop
  | coreSprFallback
  | coreSprQmax
  | coreSprQmaxBank
  -- Table BWD-8 (R231)
  | coreRowBusy
  | coreRowInstr
  | coreRowRecomp
  | coreRowStatWr
  | coreRowStatRd
  | coreRowNonfinite
  | coreRowDegenerate
  | coreRowMode
  | coreRowPart
  | coreRowLiveUnits
  -- Table SEP-8 (R192)
  | sepStateBusy
  | sepStateChainWait
  | sepStateLayer
  | sepStatePos
  | sepBusy
  | sepTokens
  | sepSkips
  | sepSkipTokens
  | sepDegenerate
  | sepNonfinite
  | sepChainWaits
  | sepInvokeSelect
  | sepInvokeHash
  | sepStatsLo
  | sepStatsHi
  | sepStatsBuf
  -- Table CHN-7 (R216)
  | sepChnBusy
  | sepChnRecords
  | sepChnPails
  | sepChnAllocWait
  | sepChnStateBusy
  | sepChnStateLayer
  -- Table PAIL-5 (R263)
  | pailPlace
  | pailLandClass
  | pailFaultCode
  | pailFaultCore
  | pailFaultClass
  | pailFaultState
  | pailFaultHandle
  | pailFree
  | pailLow
  | pailAllocs
  | pailFrees
  | pailShares
  | pailReturned
  | pailBusy
  | pailWait
  -- Table TIER-6 (R284)
  | tierSrcKind
  | tierSrcNode
  | tierSrcBaseLo
  | tierSrcBaseHi
  | tierSrcPages
  | tierLendCmd
  | tierLendBase
  | tierLendPages
  | tierLendKey
  | tierLendEpoch
  | tierLendState
  | tierLendReject
  | tierLendOutside
  | tierPoolFree
  | tierPoolPinned
  | tierMovesUp
  | tierMovesDown
  | tierJoins
  | tierEvictSkip
  | tierPagesMoved
  | tierBusy
  | tierWait
  | tierGrpDrop
  | tierIdxDrop
  | tierHerdQueued
  | tierBounce
  | tierObjSel
  | tierObjTier
  | tierObjMoving
  | tierObjTarget
  | tierObjMarked
  | tierObjListed
  | tierObjFixed
  | tierObjStamp
  -- Table GMEM-9 (R311)
  | gmemCfgTimeout
  | gmemCfgRetry
  | gmemStatusKeyed
  | gmemCfgReject
  | gmemWinReject
  | gmemWinSel
  | gmemWinData
  | gmemWinCmd
  | gmemWinAtLo
  | gmemWinAtHi
  | gmemNodeSel
  | gmemFaultCode
  | gmemFaultCause
  | gmemFaultCore
  | gmemFaultWin
  | gmemFaultNode
  | gmemReqOut
  | gmemReqIn
  | gmemRetries
  | gmemDupIn
  | gmemReplayHits
  | gmemAtomBusy
  | gmemTgtOutside
  | gmemHoldDrop
  | gmemLateResp
  | gmemMgmtLate
  | gmemBusy
  | gmemRoomWait
  | gmemOutstanding
  | gmemCacheLive
  | gmemRetryBytes
  | gmemMgmtPending
  | gmemMgmtCancel
  -- Table FAB-6 (R342)
  | fabPortState
  | fabPortReversed
  | fabPortPolarity
  | fabPortCmd
  | fabPortFecCorr
  | fabPortFecUncorr
  | fabPortReplays
  | fabPortNaks
  | fabPortRtt
  | fabPortReroute
  | fabPortPartnerNode
  | fabPortPartnerPort
  | fabPortPartnerValid
  | fabRtStranger
  | fabRtCrcDrop
  | fabRtNoroute
  | fabRtHopDrop
  | fabRtDupDrop
  | fabRtReorderGap
  | fabRtStreamCut
  | fabRtTransit
  | fabRtReorderPeak
  | fabCfgReorder
  | fabCfgMseedLo
  | fabCfgMseedHi
  | fabCfgMgmtEpoch
  | fabRtwSel
  | fabRtwData
  | fabMidSel
  | fabMidData
  | fabMidCount
  | fabRtAdmit
  | fabRtCmd
  | fabRtAtLo
  | fabRtAtHi
  | fabRtPending
  | fabRtCommits
  -- Table CHN-8 (R216)
  | fabXchBusy
  | fabXchRowsOut
  | fabXchRowsIn
  | fabXchLanded
  | fabXchZeroed
  | fabXchStale
  | fabXchBadRecord
  | fabXchDupRow
  | fabXchMissing
  | fabXchMisrow
  -- Table FAB-6 (R342)
  | fabMapWindows
  | fabMapPeak
  | fabMapStall
  | fabMapPkts
  | fabMapUnits
  | fabMapStamp
  -- Table COLL-10 (R362)
  | collFaultCode
  | collFaultCause
  | collFaultDesc
  | collFaultByToken
  | collFaultInv
  | collFaultMember
  | collFaultMemberValid
  | collStarts
  | collCommits
  | collRootAborts
  | collLate
  | collSamples
  | collTokenRetries
  | collTokenDup
  | collSlotWait
  | collPending
  | collDescSel
  | collBusy
  -- Table TWIN-6 (R384)
  | twinCfgMode
  | twinCfgReject
  | twinRxBase
  | twinRxPages
  | twinStatLink
  | twinStatPeerMode
  | twinStatAgree
  | twinStatPeerNode
  | twinLsArmRefuse
  | twinLsArmField
  | twinLsFaultCode
  | twinLsFaultCause
  | twinLsFaultStream
  | twinLsChunks
  | twinLsHold
  | twinLsFrames
  | twinDetKvLate
  -- Table REC-9 (R410)
  | snapNvmeEnable
  | snapNvmeUp
  | snapNvmeNsid
  | snapAreaLbaLo
  | snapAreaLbaHi
  | snapAreaBlocks
  | snapAreaCount
  | snapCutLo
  | snapCutHi
  | snapStateCode
  | snapStateArea
  | snapStateClean
  | snapEvCut
  | snapEvNotPermitted
  | snapEvNotQuiet
  | snapEvDone
  | snapEvFail
  | snapFail
  | snapHold
  | snapCopied
  | snapMirLapse
  | snapMirSent
  | snapRstSrcCellar
  | snapRstSrcWhey
  | snapRstArea
  | snapRstAddrCLo
  | snapRstAddrCHi
  | snapRstAddrWLo
  | snapRstAddrWHi
  | snapResumeLo
  | snapResumeHi
  | snapRstCause
  | snapRstDone
  -- Table BOOT-9 (R449)
  | secStartState
  | secStartKind
  | secStartKeptMem
  | secStartKeptLinks
  | secStartDowngrade
  | secStartKeepDenied
  | secStartFailCause
  | secStartFwSlot
  | secStartMs
  | secFwSvn
  | secOwnerFlags
  | secOwnerBound
  | secPolicyVer
  | secNode
  | secJoinFm
  | secSessionState
  | secSessionFixed
  | secQuoteCmd
  | secQuoteBusy
  | secQuoteValid
  | secQuoteReject
  | secQuoteQueued
  | secNonce
  | secFaultCode
  | secFaultCause
  | secMacDrop
  | secLockDrop
  | secAgentDrop
  -- Table HOST-6 (R467)
  | hostifLinkSpeed
  | hostifLinkWidth
  | hostifLinkFlit
  | hostifLinkUp
  | hostifLinkBme
  | hostifHbmwinBase
  | hostifEvtVector
  | hostifEvtEnable
  | hostifEvtJob
  | hostifEvtAdmit
  | hostifEvtFault
  | hostifEvtStart
  | hostifEvtCut
  | hostifEvtRestore
  | hostifWinOutside
  | hostifBmDrop
  | hostifCplTimeout
  | hostifCplError
  | hostifNvmeSpeed
  | hostifNvmeWidth
  | hostifNvmeUp
  | hostifFlashAddr
  | hostifFlashCmd
  | hostifFlashBusy
  | hostifFlashResult
  | hostifFlashData
  -- Table ELEC-12 (R485)
  | pwrCapW
  | pwrTjTarget
  | pwrNowW
  | pwrNowTj
  | pwrProtDies
  | pwrProtAlert
  | pwrEvReduce
  | pwrEvRail
  | pwrEvCapReject
  | pwrReduceCounts
  | pwrRailSeen
  -- Table REG-3 (R416)
  | blkIdType
  | blkIdInst
  | blkLwOffset
  | blkLwMaster
  | blkLwResult
  | blkLwWinner
  | blkLwSuperseded
  | blkGuardSeqErr
  | blkGuardCause
  | blkGuardMaster
  | blkGuardBy
  | blkGuardOffset
  | blkGuardCount
  | blkGuardOpenValid
  | blkGuardOpenMaster
  | blkGuardOpenOffset
  | blkGuardOpenAge
  | mbxSel
  | mbxValid
  | mbxErr
  | mbxSelEcho
  | mbxData
  deriving DecidableEq, Repr

/-- One register field: its block, the page offset of its register, how many such registers stand
`stride` bytes apart, its bit range, access code, reset value and kind. -/
structure Row where
  blk : Blk
  off : Nat
  count : Nat
  stride : Nat
  hi : Nat
  lo : Nat
  access : Access
  reset : Nat
  kind : FldKind
  deriving DecidableEq, Repr

/-- The row of a field in the manual's tables. -/
def Fld.row : Fld → Row
  | .hubOrderCode => ⟨.hub, 0x0000, 1, 0, 1, 0, .ro, 0, .live⟩
  | .hubMsCount => ⟨.hub, 0x0000, 1, 0, 12, 8, .ro, 0, .live⟩
  | .hubFdCount => ⟨.hub, 0x0000, 1, 0, 19, 16, .ro, 0, .live⟩
  | .hubPosFabric => ⟨.hub, 0x0004, 1, 0, 25, 0, .ro, 0, .live⟩
  | .hubStrayCount => ⟨.hub, 0x0008, 1, 0, 15, 0, .ro, 0, .plain⟩
  | .hubBridgeReplays => ⟨.hub, 0x0100, 38, 4, 15, 0, .ro, 0, .frame⟩
  | .hubBridgeOvershare => ⟨.hub, 0x0100, 38, 4, 23, 16, .ro, 0, .frame⟩
  | .hubBridgeOvershareSeen => ⟨.hub, 0x0100, 38, 4, 30, 30, .w1c, 0, .plain⟩
  | .hubBridgeDown => ⟨.hub, 0x0100, 38, 4, 31, 31, .ro, 0, .plain⟩
  | .hubDevFaultCode => ⟨.hub, 0x0200, 1, 0, 7, 0, .ro, 0, .plain⟩
  | .hubDevFaultSrc => ⟨.hub, 0x0200, 1, 0, 11, 8, .ro, 0, .plain⟩
  | .hubDevFaultDie => ⟨.hub, 0x0200, 1, 0, 15, 12, .ro, 0, .plain⟩
  | .hubDevFaultStack => ⟨.hub, 0x0200, 1, 0, 20, 16, .ro, 0, .plain⟩
  | .hubEccHbmCorr => ⟨.hub, 0x0204, 1, 0, 31, 0, .ro, 0, .summary⟩
  | .hubEccSramCorr => ⟨.hub, 0x0208, 1, 0, 31, 0, .ro, 0, .summary⟩
  | .hubVoteScrubbed => ⟨.hub, 0x0210, 1, 0, 15, 0, .ro, 0, .plain⟩
  | .hubVoteUnresolved => ⟨.hub, 0x0210, 1, 0, 16, 16, .w1c, 0, .plain⟩
  | .hubVoteBlock => ⟨.hub, 0x0210, 1, 0, 21, 17, .ro, 0, .plain⟩
  | .hubVoteOffset => ⟨.hub, 0x0214, 1, 0, 15, 0, .ro, 0, .plain⟩
  | .tickSyncPrimary => ⟨.tick, 0x0000, 1, 0, 7, 0, .wg, 0, .plain⟩
  | .tickSyncBackup => ⟨.tick, 0x0000, 1, 0, 15, 8, .wg, 0, .plain⟩
  | .tickSyncRoot => ⟨.tick, 0x0000, 1, 0, 16, 16, .wg, 0, .plain⟩
  | .tickSyncState => ⟨.tick, 0x0004, 1, 0, 2, 0, .ro, 0, .plain⟩
  | .tickSyncOnBackup => ⟨.tick, 0x0004, 1, 0, 4, 4, .ro, 0, .plain⟩
  | .tickOffsetLast => ⟨.tick, 0x0008, 1, 0, 15, 0, .ro, 0, .plain⟩
  | .tickOffsetRate => ⟨.tick, 0x0008, 1, 0, 31, 16, .ro, 0, .plain⟩
  | .tickPeriodCounts => ⟨.tick, 0x000C, 1, 0, 26, 0, .v3, 0, .plain⟩
  | .tickGuardCounts => ⟨.tick, 0x0010, 1, 0, 26, 0, .v3, 0, .plain⟩
  | .tickSlotsCount => ⟨.tick, 0x0014, 1, 0, 8, 0, .ro, 0, .plain⟩
  | .tickSlotsCurrent => ⟨.tick, 0x0014, 1, 0, 23, 16, .ro, 0, .plain⟩
  | .tickLaunchLo => ⟨.tick, 0x0018, 1, 0, 31, 0, .rw, 0, .plain⟩
  | .tickLaunchHi => ⟨.tick, 0x001C, 1, 0, 31, 0, .rw, 0, .plain⟩
  | .tickArmCmd => ⟨.tick, 0x0020, 1, 0, 1, 0, .wg, 0, .plain⟩
  | .tickFrameClose => ⟨.tick, 0x0024, 1, 0, 26, 0, .ro, 0, .plain⟩
  | .tickFrameGuardEncroach => ⟨.tick, 0x0024, 1, 0, 27, 27, .ro, 0, .plain⟩
  | .tickEvLaunchMissed => ⟨.tick, 0x0028, 1, 0, 0, 0, .w1c, 0, .plain⟩
  | .tickEvOverrun => ⟨.tick, 0x0028, 1, 0, 1, 1, .w1c, 0, .plain⟩
  | .tickEvEncroach => ⟨.tick, 0x0028, 1, 0, 2, 2, .w1c, 0, .plain⟩
  | .tickEvDecl => ⟨.tick, 0x0028, 1, 0, 3, 3, .w1c, 0, .plain⟩
  | .tickEvSyncLost => ⟨.tick, 0x0028, 1, 0, 4, 4, .w1c, 0, .plain⟩
  | .tickEvBudget => ⟨.tick, 0x0028, 1, 0, 5, 5, .w1c, 0, .plain⟩
  | .tickThrottleCounts => ⟨.tick, 0x002C, 1, 0, 26, 0, .ro, 0, .frame⟩
  | .tickFaultCode => ⟨.tick, 0x0030, 1, 0, 7, 0, .ro, 0, .plain⟩
  | .tickFaultCause => ⟨.tick, 0x0030, 1, 0, 11, 8, .ro, 0, .plain⟩
  | .tickFaultEngine => ⟨.tick, 0x0030, 1, 0, 23, 12, .ro, 0, .plain⟩
  | .tickAdmitSlot => ⟨.tick, 0x0034, 1, 0, 7, 0, .ro, 0, .plain⟩
  | .tickAdmitEngine => ⟨.tick, 0x0034, 1, 0, 19, 8, .ro, 0, .plain⟩
  | .tickAdmitValid => ⟨.tick, 0x0034, 1, 0, 31, 31, .ro, 0, .plain⟩
  | .tickDeclSlot => ⟨.tick, 0x0038, 1, 0, 7, 0, .ro, 0, .plain⟩
  | .tickDeclEngine => ⟨.tick, 0x0038, 1, 0, 19, 8, .ro, 0, .plain⟩
  | .tickDeclValid => ⟨.tick, 0x0038, 1, 0, 31, 31, .ro, 0, .plain⟩
  | .jobCapPart => ⟨.job, 0x0000, 1, 0, 7, 0, .ro, 42, .plain⟩
  | .jobCapLevelMax => ⟨.job, 0x0000, 1, 0, 11, 8, .ro, 4, .plain⟩
  | .jobCapLevelMin => ⟨.job, 0x0000, 1, 0, 15, 12, .ro, 1, .plain⟩
  | .jobCapPlacever => ⟨.job, 0x0000, 1, 0, 23, 16, .ro, 0, .live⟩
  | .jobCapClasses => ⟨.job, 0x0004, 1, 0, 12, 0, .ro, 8191, .plain⟩
  | .jobCapFormats => ⟨.job, 0x0008, 1, 0, 21, 0, .ro, 0x3fffff, .plain⟩
  | .jobCapCores => ⟨.job, 0x000C, 1, 0, 7, 0, .ro, 48, .plain⟩
  | .jobCapDies => ⟨.job, 0x000C, 1, 0, 15, 8, .ro, 12, .plain⟩
  | .jobCapArray => ⟨.job, 0x000C, 1, 0, 31, 16, .ro, 768, .plain⟩
  | .jobCapExperts => ⟨.job, 0x0010, 1, 0, 15, 0, .ro, 0x4000, .plain⟩
  | .jobCapTopk => ⟨.job, 0x0010, 1, 0, 20, 16, .ro, 16, .plain⟩
  | .jobCapShared => ⟨.job, 0x0010, 1, 0, 23, 21, .ro, 4, .plain⟩
  | .jobStateCode => ⟨.job, 0x0100, 1, 0, 2, 0, .v3, 0, .plain⟩
  | .jobStateLending => ⟨.job, 0x0100, 1, 0, 3, 3, .ro, 0, .plain⟩
  | .jobStateFault => ⟨.job, 0x0100, 1, 0, 11, 4, .ro, 0, .plain⟩
  | .jobStateMore => ⟨.job, 0x0100, 1, 0, 12, 12, .ro, 0, .plain⟩
  | .jobStateEnd => ⟨.job, 0x0100, 1, 0, 15, 13, .ro, 0, .plain⟩
  | .jobCmdOp => ⟨.job, 0x0104, 1, 0, 3, 0, .wg, 0, .plain⟩
  | .jobCmdLast => ⟨.job, 0x0108, 1, 0, 3, 0, .ro, 0, .plain⟩
  | .jobCmdCause => ⟨.job, 0x0108, 1, 0, 6, 4, .ro, 0, .plain⟩
  | .jobCmdReject => ⟨.job, 0x0108, 1, 0, 7, 7, .w1c, 0, .plain⟩
  | .jobLoadAddrLo => ⟨.job, 0x010C, 1, 0, 31, 0, .rw, 0, .plain⟩
  | .jobLoadAddrHi => ⟨.job, 0x0110, 1, 0, 11, 0, .rw, 0, .plain⟩
  | .jobLoadLen => ⟨.job, 0x0114, 1, 0, 23, 0, .rw, 0, .plain⟩
  | .jobAdmitCode => ⟨.job, 0x0118, 1, 0, 7, 0, .ro, 0, .plain⟩
  | .jobAdmitDetail => ⟨.job, 0x0118, 1, 0, 15, 8, .ro, 0, .plain⟩
  | .jobAdmitLevel => ⟨.job, 0x0118, 1, 0, 18, 16, .ro, 0, .plain⟩
  | .jobAdmitFwplaced => ⟨.job, 0x0118, 1, 0, 19, 19, .ro, 0, .plain⟩
  | .jobAdmitValid => ⟨.job, 0x0118, 1, 0, 31, 31, .ro, 0, .plain⟩
  | .jobStopFrameLo => ⟨.job, 0x011C, 1, 0, 31, 0, .rw, 0xffffffff, .plain⟩
  | .jobStopFrameHi => ⟨.job, 0x0120, 1, 0, 31, 0, .rw, 0xffffffff, .plain⟩
  | .jobKeyTag => ⟨.job, 0x0124, 1, 0, 23, 0, .wg, 0, .plain⟩
  | .jobKeyEpoch => ⟨.job, 0x0128, 1, 0, 15, 0, .wg, 0, .plain⟩
  | .jobMemberCount => ⟨.job, 0x012C, 1, 0, 14, 0, .wg, 0, .plain⟩
  | .jobMemberIndex => ⟨.job, 0x012C, 1, 0, 29, 16, .wg, 0, .plain⟩
  | .jobSeedLo => ⟨.job, 0x0130, 1, 0, 31, 0, .wg, 0, .plain⟩
  | .jobSeedHi => ⟨.job, 0x0134, 1, 0, 31, 0, .wg, 0, .plain⟩
  | .jobBaseNode => ⟨.job, 0x0138, 1, 0, 13, 0, .wg, 0, .plain⟩
  | .jobHerdUsed => ⟨.job, 0x0200, 1, 0, 14, 0, .ro, 0, .live⟩
  | .jobHerdPresent => ⟨.job, 0x0200, 1, 0, 15, 15, .ro, 0, .live⟩
  | .jobHerdInOver => ⟨.job, 0x0200, 1, 0, 16, 16, .ro, 0, .opened⟩
  | .jobHerdInCons => ⟨.job, 0x0204, 1, 0, 31, 0, .ro, 0, .live⟩
  | .jobHerdOutProd => ⟨.job, 0x0208, 1, 0, 31, 0, .ro, 0, .live⟩
  | .jobHerdListed => ⟨.job, 0x020C, 1, 0, 15, 0, .ro, 0, .opened⟩
  | .jobHerdWaiting => ⟨.job, 0x020C, 1, 0, 31, 16, .ro, 0, .opened⟩
  | .jobHerdAdds => ⟨.job, 0x0210, 1, 0, 15, 0, .ro, 0, .opened⟩
  | .jobHerdRejects => ⟨.job, 0x0210, 1, 0, 31, 16, .ro, 0, .opened⟩
  | .jobHerdCancels => ⟨.job, 0x0214, 1, 0, 15, 0, .ro, 0, .opened⟩
  | .jobHerdFinished => ⟨.job, 0x0214, 1, 0, 31, 16, .ro, 0, .opened⟩
  | .jobHerdOutLost => ⟨.job, 0x0218, 1, 0, 15, 0, .ro, 0, .opened⟩
  | .jobHerdEarlyRetire => ⟨.job, 0x0218, 1, 0, 31, 16, .ro, 0, .opened⟩
  | .jobHerdBuild => ⟨.job, 0x021C, 1, 0, 26, 0, .ro, 0, .opened⟩
  | .coreSeqFaultCode => ⟨.core, 0x0100, 1, 0, 7, 0, .ro, 0, .plain⟩
  | .coreSeqFaultCause => ⟨.core, 0x0100, 1, 0, 11, 8, .ro, 0, .plain⟩
  | .coreSeqFaultClass => ⟨.core, 0x0100, 1, 0, 15, 12, .ro, 0, .plain⟩
  | .coreSeqFaultOpcode => ⟨.core, 0x0100, 1, 0, 23, 16, .ro, 0, .plain⟩
  | .coreSeqFaultIndex => ⟨.core, 0x0104, 1, 0, 17, 0, .ro, 0, .plain⟩
  | .coreSeqFaultSlot => ⟨.core, 0x0104, 1, 0, 25, 18, .ro, 0, .plain⟩
  | .coreSeqPc => ⟨.core, 0x0108, 1, 0, 17, 0, .ro, 0, .plain⟩
  | .coreSeqEnded => ⟨.core, 0x0108, 1, 0, 18, 18, .ro, 0, .plain⟩
  | .coreSeqHeld => ⟨.core, 0x0108, 1, 0, 19, 19, .ro, 0, .plain⟩
  | .coreSeqDepth => ⟨.core, 0x0108, 1, 0, 22, 20, .ro, 0, .plain⟩
  | .coreSeqIssued => ⟨.core, 0x010C, 1, 0, 31, 0, .ro, 0, .frame⟩
  | .coreFmtNonfiniteIn => ⟨.core, 0x0140, 1, 0, 15, 0, .ro, 0, .frame⟩
  | .coreFmtScaleClamp => ⟨.core, 0x0140, 1, 0, 31, 16, .ro, 0, .frame⟩
  | .coreFmtSat => ⟨.core, 0x0144, 1, 0, 15, 0, .ro, 0, .frame⟩
  | .coreFmtNanZero => ⟨.core, 0x0144, 1, 0, 31, 16, .ro, 0, .frame⟩
  | .coreFmtAccSat => ⟨.core, 0x0148, 1, 0, 7, 0, .ro, 0, .frame⟩
  | .coreFmtSetF32 => ⟨.core, 0x0148, 1, 0, 11, 8, .ro, 0, .live⟩
  | .coreArrBusy => ⟨.core, 0x0180, 1, 0, 31, 0, .ro, 0, .frame⟩
  | .coreArrStream => ⟨.core, 0x0184, 1, 0, 31, 0, .ro, 0, .frame⟩
  | .coreArrLoads => ⟨.core, 0x0188, 1, 0, 15, 0, .ro, 0, .frame⟩
  | .coreArrLoadWaits => ⟨.core, 0x0188, 1, 0, 31, 16, .ro, 0, .frame⟩
  | .coreArrSkimSafe => ⟨.core, 0x018C, 1, 0, 31, 0, .ro, 0, .frame⟩
  | .coreArrSkimPtot => ⟨.core, 0x0190, 1, 0, 31, 0, .ro, 0, .frame⟩
  | .coreArrSkimPred => ⟨.core, 0x0194, 1, 0, 31, 0, .ro, 0, .frame⟩
  | .coreArrSetClosed => ⟨.core, 0x0198, 1, 0, 3, 0, .ro, 0, .live⟩
  | .coreArrBlockBits => ⟨.core, 0x0198, 1, 0, 8, 4, .ro, 0, .live⟩
  | .coreArrBlockTrows => ⟨.core, 0x0198, 1, 0, 12, 9, .ro, 0, .live⟩
  | .coreArrBlockTcols => ⟨.core, 0x0198, 1, 0, 16, 13, .ro, 0, .live⟩
  | .coreLdrTransposed => ⟨.core, 0x019C, 1, 0, 15, 0, .ro, 0, .frame⟩
  | .coreLdrConverted => ⟨.core, 0x019C, 1, 0, 31, 16, .ro, 0, .frame⟩
  | .coreSprPairBusy => ⟨.core, 0x01C0, 1, 0, 31, 0, .ro, 0, .frame⟩
  | .coreSprPairs => ⟨.core, 0x01C4, 1, 0, 31, 0, .ro, 0, .frame⟩
  | .coreSprStalls => ⟨.core, 0x01C8, 1, 0, 31, 0, .ro, 0, .frame⟩
  | .coreSprIdxDrop => ⟨.core, 0x01CC, 1, 0, 31, 0, .ro, 0, .frame⟩
  | .coreSprGrpDrop => ⟨.core, 0x01D0, 1, 0, 31, 0, .ro, 0, .frame⟩
  | .coreSprTagDrop => ⟨.core, 0x01D4, 1, 0, 15, 0, .ro, 0, .frame⟩
  | .coreSprFallback => ⟨.core, 0x01D4, 1, 0, 31, 16, .ro, 0, .frame⟩
  | .coreSprQmax => ⟨.core, 0x01D8, 1, 0, 3, 0, .ro, 0, .frame⟩
  | .coreSprQmaxBank => ⟨.core, 0x01D8, 1, 0, 8, 4, .ro, 0, .frame⟩
  | .coreRowBusy => ⟨.core, 0x0200, 1, 0, 31, 0, .ro, 0, .frame⟩
  | .coreRowInstr => ⟨.core, 0x0204, 1, 0, 15, 0, .ro, 0, .frame⟩
  | .coreRowRecomp => ⟨.core, 0x0204, 1, 0, 31, 16, .ro, 0, .frame⟩
  | .coreRowStatWr => ⟨.core, 0x0208, 1, 0, 15, 0, .ro, 0, .frame⟩
  | .coreRowStatRd => ⟨.core, 0x0208, 1, 0, 31, 16, .ro, 0, .frame⟩
  | .coreRowNonfinite => ⟨.core, 0x020C, 1, 0, 15, 0, .ro, 0, .frame⟩
  | .coreRowDegenerate => ⟨.core, 0x020C, 1, 0, 31, 16, .ro, 0, .frame⟩
  | .coreRowMode => ⟨.core, 0x0210, 1, 0, 1, 0, .ro, 0, .live⟩
  | .coreRowPart => ⟨.core, 0x0210, 1, 0, 2, 2, .ro, 0, .live⟩
  | .coreRowLiveUnits => ⟨.core, 0x0210, 1, 0, 29, 16, .ro, 0, .live⟩
  | .sepStateBusy => ⟨.sep, 0x0000, 1, 0, 0, 0, .ro, 0, .live⟩
  | .sepStateChainWait => ⟨.sep, 0x0000, 1, 0, 1, 1, .ro, 0, .live⟩
  | .sepStateLayer => ⟨.sep, 0x0000, 1, 0, 11, 2, .ro, 0, .live⟩
  | .sepStatePos => ⟨.sep, 0x0000, 1, 0, 19, 16, .ro, 0, .live⟩
  | .sepBusy => ⟨.sep, 0x0004, 1, 0, 31, 0, .ro, 0, .frame⟩
  | .sepTokens => ⟨.sep, 0x0008, 1, 0, 31, 0, .ro, 0, .frame⟩
  | .sepSkips => ⟨.sep, 0x000C, 1, 0, 31, 0, .ro, 0, .frame⟩
  | .sepSkipTokens => ⟨.sep, 0x0010, 1, 0, 15, 0, .ro, 0, .frame⟩
  | .sepDegenerate => ⟨.sep, 0x0010, 1, 0, 31, 16, .ro, 0, .frame⟩
  | .sepNonfinite => ⟨.sep, 0x0014, 1, 0, 31, 0, .ro, 0, .frame⟩
  | .sepChainWaits => ⟨.sep, 0x0018, 1, 0, 31, 0, .ro, 0, .frame⟩
  | .sepInvokeSelect => ⟨.sep, 0x001C, 1, 0, 15, 0, .ro, 0, .frame⟩
  | .sepInvokeHash => ⟨.sep, 0x001C, 1, 0, 31, 16, .ro, 0, .frame⟩
  | .sepStatsLo => ⟨.sep, 0x0020, 1, 0, 31, 0, .ro, 0, .plain⟩
  | .sepStatsHi => ⟨.sep, 0x0024, 1, 0, 11, 0, .ro, 0, .plain⟩
  | .sepStatsBuf => ⟨.sep, 0x0028, 1, 0, 0, 0, .ro, 0, .plain⟩
  | .sepChnBusy => ⟨.sep, 0x0100, 1, 0, 31, 0, .ro, 0, .frame⟩
  | .sepChnRecords => ⟨.sep, 0x0104, 1, 0, 31, 0, .ro, 0, .frame⟩
  | .sepChnPails => ⟨.sep, 0x0108, 1, 0, 31, 0, .ro, 0, .frame⟩
  | .sepChnAllocWait => ⟨.sep, 0x010C, 1, 0, 31, 0, .ro, 0, .frame⟩
  | .sepChnStateBusy => ⟨.sep, 0x0110, 1, 0, 0, 0, .ro, 0, .live⟩
  | .sepChnStateLayer => ⟨.sep, 0x0110, 1, 0, 10, 1, .ro, 0, .live⟩
  | .pailPlace => ⟨.pail, 0x0000, 1, 0, 7, 0, .ro, 0, .live⟩
  | .pailLandClass => ⟨.pail, 0x0000, 1, 0, 10, 8, .ro, 0, .live⟩
  | .pailFaultCode => ⟨.pail, 0x0004, 1, 0, 7, 0, .ro, 0, .plain⟩
  | .pailFaultCore => ⟨.pail, 0x0004, 1, 0, 13, 8, .ro, 0, .plain⟩
  | .pailFaultClass => ⟨.pail, 0x0004, 1, 0, 16, 14, .ro, 0, .plain⟩
  | .pailFaultState => ⟨.pail, 0x0004, 1, 0, 18, 17, .ro, 0, .plain⟩
  | .pailFaultHandle => ⟨.pail, 0x0008, 1, 0, 31, 0, .ro, 0, .plain⟩
  | .pailFree => ⟨.pail, 0x0040, 8, 4, 19, 0, .ro, 0, .live⟩
  | .pailLow => ⟨.pail, 0x0060, 8, 4, 19, 0, .ro, 0, .plain⟩
  | .pailAllocs => ⟨.pail, 0x0080, 1, 0, 31, 0, .ro, 0, .frame⟩
  | .pailFrees => ⟨.pail, 0x0084, 1, 0, 31, 0, .ro, 0, .frame⟩
  | .pailShares => ⟨.pail, 0x0088, 1, 0, 15, 0, .ro, 0, .frame⟩
  | .pailReturned => ⟨.pail, 0x0088, 1, 0, 31, 16, .ro, 0, .frame⟩
  | .pailBusy => ⟨.pail, 0x008C, 1, 0, 31, 0, .ro, 0, .frame⟩
  | .pailWait => ⟨.pail, 0x0090, 1, 0, 31, 0, .ro, 0, .frame⟩
  | .tierSrcKind => ⟨.tier, 0x0000, 8, 16, 1, 0, .rw, 0, .plain⟩
  | .tierSrcNode => ⟨.tier, 0x0000, 8, 16, 31, 16, .rw, 0, .plain⟩
  | .tierSrcBaseLo => ⟨.tier, 0x0004, 8, 16, 31, 0, .rw, 0, .plain⟩
  | .tierSrcBaseHi => ⟨.tier, 0x0008, 8, 16, 10, 0, .rw, 0, .plain⟩
  | .tierSrcPages => ⟨.tier, 0x000C, 8, 16, 22, 0, .rw, 0, .plain⟩
  | .tierLendCmd => ⟨.tier, 0x0100, 1, 0, 1, 0, .wg, 0, .plain⟩
  | .tierLendBase => ⟨.tier, 0x0104, 1, 0, 22, 0, .rw, 0, .plain⟩
  | .tierLendPages => ⟨.tier, 0x0108, 1, 0, 22, 0, .rw, 0, .plain⟩
  | .tierLendKey => ⟨.tier, 0x010C, 1, 0, 23, 0, .rw, 0, .plain⟩
  | .tierLendEpoch => ⟨.tier, 0x0110, 1, 0, 15, 0, .rw, 0, .plain⟩
  | .tierLendState => ⟨.tier, 0x0114, 1, 0, 1, 0, .ro, 0, .live⟩
  | .tierLendReject => ⟨.tier, 0x0114, 1, 0, 2, 2, .w1c, 0, .plain⟩
  | .tierLendOutside => ⟨.tier, 0x0118, 1, 0, 31, 0, .ro, 0, .plain⟩
  | .tierPoolFree => ⟨.tier, 0x0200, 1, 0, 19, 0, .ro, 0, .live⟩
  | .tierPoolPinned => ⟨.tier, 0x0204, 1, 0, 19, 0, .ro, 0, .live⟩
  | .tierMovesUp => ⟨.tier, 0x0208, 1, 0, 15, 0, .ro, 0, .frame⟩
  | .tierMovesDown => ⟨.tier, 0x0208, 1, 0, 31, 16, .ro, 0, .frame⟩
  | .tierJoins => ⟨.tier, 0x020C, 1, 0, 15, 0, .ro, 0, .frame⟩
  | .tierEvictSkip => ⟨.tier, 0x020C, 1, 0, 31, 16, .ro, 0, .frame⟩
  | .tierPagesMoved => ⟨.tier, 0x0210, 1, 0, 31, 0, .ro, 0, .frame⟩
  | .tierBusy => ⟨.tier, 0x0214, 1, 0, 31, 0, .ro, 0, .frame⟩
  | .tierWait => ⟨.tier, 0x0218, 1, 0, 31, 0, .ro, 0, .frame⟩
  | .tierGrpDrop => ⟨.tier, 0x021C, 1, 0, 15, 0, .ro, 0, .frame⟩
  | .tierIdxDrop => ⟨.tier, 0x021C, 1, 0, 31, 16, .ro, 0, .frame⟩
  | .tierHerdQueued => ⟨.tier, 0x0220, 1, 0, 15, 0, .ro, 0, .live⟩
  | .tierBounce => ⟨.tier, 0x0220, 1, 0, 31, 16, .ro, 0, .frame⟩
  | .tierObjSel => ⟨.tier, 0x0240, 1, 0, 19, 0, .rw, 0, .plain⟩
  | .tierObjTier => ⟨.tier, 0x0244, 1, 0, 1, 0, .ro, 0, .live⟩
  | .tierObjMoving => ⟨.tier, 0x0244, 1, 0, 2, 2, .ro, 0, .live⟩
  | .tierObjTarget => ⟨.tier, 0x0244, 1, 0, 4, 3, .ro, 0, .live⟩
  | .tierObjMarked => ⟨.tier, 0x0244, 1, 0, 5, 5, .ro, 0, .live⟩
  | .tierObjListed => ⟨.tier, 0x0244, 1, 0, 6, 6, .ro, 0, .live⟩
  | .tierObjFixed => ⟨.tier, 0x0244, 1, 0, 7, 7, .ro, 0, .live⟩
  | .tierObjStamp => ⟨.tier, 0x0244, 1, 0, 31, 8, .ro, 0, .live⟩
  | .gmemCfgTimeout => ⟨.gmem, 0x0000, 1, 0, 15, 0, .rw, 50, .plain⟩
  | .gmemCfgRetry => ⟨.gmem, 0x0000, 1, 0, 23, 16, .rw, 5, .plain⟩
  | .gmemStatusKeyed => ⟨.gmem, 0x0004, 1, 0, 0, 0, .ro, 0, .live⟩
  | .gmemCfgReject => ⟨.gmem, 0x0004, 1, 0, 1, 1, .w1c, 0, .plain⟩
  | .gmemWinReject => ⟨.gmem, 0x0004, 1, 0, 2, 2, .w1c, 0, .plain⟩
  | .gmemWinSel => ⟨.gmem, 0x0008, 1, 0, 9, 0, .rw, 0, .plain⟩
  | .gmemWinData => ⟨.gmem, 0x000C, 4, 4, 31, 0, .rw, 0, .plain⟩
  | .gmemWinCmd => ⟨.gmem, 0x001C, 1, 0, 0, 0, .wg, 0, .plain⟩
  | .gmemWinAtLo => ⟨.gmem, 0x0020, 1, 0, 31, 0, .rw, 0xffffffff, .plain⟩
  | .gmemWinAtHi => ⟨.gmem, 0x0024, 1, 0, 31, 0, .rw, 0xffffffff, .plain⟩
  | .gmemNodeSel => ⟨.gmem, 0x0028, 1, 0, 15, 0, .rw, 0, .plain⟩
  | .gmemFaultCode => ⟨.gmem, 0x0030, 1, 0, 7, 0, .ro, 0, .plain⟩
  | .gmemFaultCause => ⟨.gmem, 0x0030, 1, 0, 11, 8, .ro, 0, .plain⟩
  | .gmemFaultCore => ⟨.gmem, 0x0030, 1, 0, 17, 12, .ro, 0, .plain⟩
  | .gmemFaultWin => ⟨.gmem, 0x0030, 1, 0, 27, 18, .ro, 0, .plain⟩
  | .gmemFaultNode => ⟨.gmem, 0x0034, 1, 0, 15, 0, .ro, 0, .plain⟩
  | .gmemReqOut => ⟨.gmem, 0x0040, 1, 0, 31, 0, .ro, 0, .frame⟩
  | .gmemReqIn => ⟨.gmem, 0x0044, 1, 0, 31, 0, .ro, 0, .frame⟩
  | .gmemRetries => ⟨.gmem, 0x0048, 1, 0, 15, 0, .ro, 0, .frame⟩
  | .gmemDupIn => ⟨.gmem, 0x0048, 1, 0, 31, 16, .ro, 0, .frame⟩
  | .gmemReplayHits => ⟨.gmem, 0x004C, 1, 0, 15, 0, .ro, 0, .frame⟩
  | .gmemAtomBusy => ⟨.gmem, 0x004C, 1, 0, 31, 16, .ro, 0, .frame⟩
  | .gmemTgtOutside => ⟨.gmem, 0x0050, 1, 0, 15, 0, .ro, 0, .frame⟩
  | .gmemHoldDrop => ⟨.gmem, 0x0050, 1, 0, 31, 16, .ro, 0, .frame⟩
  | .gmemLateResp => ⟨.gmem, 0x0054, 1, 0, 15, 0, .ro, 0, .frame⟩
  | .gmemMgmtLate => ⟨.gmem, 0x0054, 1, 0, 31, 16, .ro, 0, .frame⟩
  | .gmemBusy => ⟨.gmem, 0x0058, 1, 0, 31, 0, .ro, 0, .frame⟩
  | .gmemRoomWait => ⟨.gmem, 0x005C, 1, 0, 31, 0, .ro, 0, .frame⟩
  | .gmemOutstanding => ⟨.gmem, 0x0060, 1, 0, 13, 0, .ro, 0, .live⟩
  | .gmemCacheLive => ⟨.gmem, 0x0060, 1, 0, 28, 16, .ro, 0, .live⟩
  | .gmemRetryBytes => ⟨.gmem, 0x0064, 1, 0, 23, 0, .ro, 0, .live⟩
  | .gmemMgmtPending => ⟨.gmem, 0x0070, 1, 0, 7, 0, .ro, 0, .live⟩
  | .gmemMgmtCancel => ⟨.gmem, 0x0074, 1, 0, 15, 0, .wg, 0, .plain⟩
  | .fabPortState => ⟨.fab, 0x0000, 8, 32, 2, 0, .ro, 1, .live⟩
  | .fabPortReversed => ⟨.fab, 0x0000, 8, 32, 3, 3, .ro, 0, .live⟩
  | .fabPortPolarity => ⟨.fab, 0x0000, 8, 32, 11, 4, .ro, 0, .live⟩
  | .fabPortCmd => ⟨.fab, 0x0004, 8, 32, 1, 0, .wg, 0, .plain⟩
  | .fabPortFecCorr => ⟨.fab, 0x0008, 8, 32, 31, 0, .ro, 0, .summary⟩
  | .fabPortFecUncorr => ⟨.fab, 0x000C, 8, 32, 31, 0, .ro, 0, .summary⟩
  | .fabPortReplays => ⟨.fab, 0x0010, 8, 32, 15, 0, .ro, 0, .summary⟩
  | .fabPortNaks => ⟨.fab, 0x0010, 8, 32, 31, 16, .ro, 0, .summary⟩
  | .fabPortRtt => ⟨.fab, 0x0014, 8, 32, 15, 0, .ro, 0, .live⟩
  | .fabPortReroute => ⟨.fab, 0x0014, 8, 32, 31, 16, .ro, 0, .summary⟩
  | .fabPortPartnerNode => ⟨.fab, 0x0018, 8, 32, 15, 0, .ro, 0, .live⟩
  | .fabPortPartnerPort => ⟨.fab, 0x0018, 8, 32, 22, 16, .ro, 0, .live⟩
  | .fabPortPartnerValid => ⟨.fab, 0x0018, 8, 32, 23, 23, .ro, 0, .live⟩
  | .fabRtStranger => ⟨.fab, 0x0100, 1, 0, 31, 0, .ro, 0, .summary⟩
  | .fabRtCrcDrop => ⟨.fab, 0x0104, 1, 0, 15, 0, .ro, 0, .summary⟩
  | .fabRtNoroute => ⟨.fab, 0x0104, 1, 0, 31, 16, .ro, 0, .summary⟩
  | .fabRtHopDrop => ⟨.fab, 0x0108, 1, 0, 15, 0, .ro, 0, .summary⟩
  | .fabRtDupDrop => ⟨.fab, 0x0108, 1, 0, 31, 16, .ro, 0, .summary⟩
  | .fabRtReorderGap => ⟨.fab, 0x010C, 1, 0, 15, 0, .ro, 0, .summary⟩
  | .fabRtStreamCut => ⟨.fab, 0x010C, 1, 0, 31, 16, .ro, 0, .summary⟩
  | .fabRtTransit => ⟨.fab, 0x0110, 1, 0, 31, 0, .ro, 0, .summary⟩
  | .fabRtReorderPeak => ⟨.fab, 0x0114, 1, 0, 16, 0, .ro, 0, .summary⟩
  | .fabCfgReorder => ⟨.fab, 0x0200, 1, 0, 15, 0, .rw, 20, .plain⟩
  | .fabCfgMseedLo => ⟨.fab, 0x0204, 1, 0, 31, 0, .wg, 0, .plain⟩
  | .fabCfgMseedHi => ⟨.fab, 0x0208, 1, 0, 31, 0, .wg, 0, .plain⟩
  | .fabCfgMgmtEpoch => ⟨.fab, 0x020C, 1, 0, 15, 0, .wg, 0, .plain⟩
  | .fabRtwSel => ⟨.fab, 0x0300, 1, 0, 15, 0, .rw, 0, .plain⟩
  | .fabRtwData => ⟨.fab, 0x0304, 1, 0, 31, 0, .rw, 0, .plain⟩
  | .fabMidSel => ⟨.fab, 0x0308, 1, 0, 13, 0, .rw, 0, .plain⟩
  | .fabMidData => ⟨.fab, 0x030C, 1, 0, 15, 0, .rw, 0, .plain⟩
  | .fabMidCount => ⟨.fab, 0x0310, 1, 0, 14, 0, .rw, 0, .plain⟩
  | .fabRtAdmit => ⟨.fab, 0x0314, 1, 0, 7, 0, .rw, 0, .plain⟩
  | .fabRtCmd => ⟨.fab, 0x0318, 1, 0, 0, 0, .wg, 0, .plain⟩
  | .fabRtAtLo => ⟨.fab, 0x031C, 1, 0, 31, 0, .rw, 0, .plain⟩
  | .fabRtAtHi => ⟨.fab, 0x0320, 1, 0, 31, 0, .rw, 0, .plain⟩
  | .fabRtPending => ⟨.fab, 0x0324, 1, 0, 0, 0, .ro, 0, .live⟩
  | .fabRtCommits => ⟨.fab, 0x0324, 1, 0, 31, 16, .ro, 0, .live⟩
  | .fabXchBusy => ⟨.fab, 0x0800, 1, 0, 31, 0, .ro, 0, .frame⟩
  | .fabXchRowsOut => ⟨.fab, 0x0804, 1, 0, 31, 0, .ro, 0, .frame⟩
  | .fabXchRowsIn => ⟨.fab, 0x0808, 1, 0, 31, 0, .ro, 0, .frame⟩
  | .fabXchLanded => ⟨.fab, 0x080C, 1, 0, 31, 0, .ro, 0, .frame⟩
  | .fabXchZeroed => ⟨.fab, 0x0810, 1, 0, 31, 0, .ro, 0, .frame⟩
  | .fabXchStale => ⟨.fab, 0x0814, 1, 0, 15, 0, .ro, 0, .frame⟩
  | .fabXchBadRecord => ⟨.fab, 0x0814, 1, 0, 31, 16, .ro, 0, .frame⟩
  | .fabXchDupRow => ⟨.fab, 0x0818, 1, 0, 15, 0, .ro, 0, .frame⟩
  | .fabXchMissing => ⟨.fab, 0x0818, 1, 0, 31, 16, .ro, 0, .frame⟩
  | .fabXchMisrow => ⟨.fab, 0x081C, 1, 0, 15, 0, .ro, 0, .frame⟩
  | .fabMapWindows => ⟨.fab, 0x1000, 64, 16, 15, 0, .ro, 0, .summary⟩
  | .fabMapPeak => ⟨.fab, 0x1000, 64, 16, 26, 16, .ro, 0, .summary⟩
  | .fabMapStall => ⟨.fab, 0x1004, 64, 16, 31, 0, .ro, 0, .summary⟩
  | .fabMapPkts => ⟨.fab, 0x1008, 64, 16, 31, 0, .ro, 0, .summary⟩
  | .fabMapUnits => ⟨.fab, 0x100C, 64, 16, 31, 0, .ro, 0, .summary⟩
  | .fabMapStamp => ⟨.fab, 0x1400, 1, 0, 31, 0, .ro, 0, .plain⟩
  | .collFaultCode => ⟨.coll, 0x0000, 1, 0, 7, 0, .ro, 0, .plain⟩
  | .collFaultCause => ⟨.coll, 0x0000, 1, 0, 11, 8, .ro, 0, .plain⟩
  | .collFaultDesc => ⟨.coll, 0x0000, 1, 0, 23, 12, .ro, 0, .plain⟩
  | .collFaultByToken => ⟨.coll, 0x0000, 1, 0, 24, 24, .ro, 0, .plain⟩
  | .collFaultInv => ⟨.coll, 0x0004, 1, 0, 31, 0, .ro, 0, .plain⟩
  | .collFaultMember => ⟨.coll, 0x0008, 1, 0, 13, 0, .ro, 0, .plain⟩
  | .collFaultMemberValid => ⟨.coll, 0x0008, 1, 0, 14, 14, .ro, 0, .plain⟩
  | .collStarts => ⟨.coll, 0x0040, 1, 0, 15, 0, .ro, 0, .frame⟩
  | .collCommits => ⟨.coll, 0x0040, 1, 0, 31, 16, .ro, 0, .frame⟩
  | .collRootAborts => ⟨.coll, 0x0044, 1, 0, 15, 0, .ro, 0, .frame⟩
  | .collLate => ⟨.coll, 0x0044, 1, 0, 31, 16, .ro, 0, .frame⟩
  | .collSamples => ⟨.coll, 0x0048, 1, 0, 31, 0, .ro, 0, .frame⟩
  | .collTokenRetries => ⟨.coll, 0x004C, 1, 0, 15, 0, .ro, 0, .frame⟩
  | .collTokenDup => ⟨.coll, 0x004C, 1, 0, 31, 16, .ro, 0, .frame⟩
  | .collSlotWait => ⟨.coll, 0x0050, 1, 0, 31, 0, .ro, 0, .frame⟩
  | .collPending => ⟨.coll, 0x0060, 1, 0, 12, 0, .ro, 0, .live⟩
  | .collDescSel => ⟨.coll, 0x0064, 1, 0, 11, 0, .rw, 0, .plain⟩
  | .collBusy => ⟨.coll, 0x0080, 10, 4, 31, 0, .ro, 0, .frame⟩
  | .twinCfgMode => ⟨.twin, 0x0000, 1, 0, 1, 0, .wg, 0, .plain⟩
  | .twinCfgReject => ⟨.twin, 0x0000, 1, 0, 2, 2, .w1c, 0, .plain⟩
  | .twinRxBase => ⟨.twin, 0x0004, 1, 0, 31, 0, .wg, 0, .plain⟩
  | .twinRxPages => ⟨.twin, 0x0008, 1, 0, 31, 0, .wg, 0, .plain⟩
  | .twinStatLink => ⟨.twin, 0x0010, 1, 0, 2, 0, .ro, 1, .live⟩
  | .twinStatPeerMode => ⟨.twin, 0x0010, 1, 0, 4, 3, .ro, 0, .live⟩
  | .twinStatAgree => ⟨.twin, 0x0010, 1, 0, 5, 5, .ro, 0, .live⟩
  | .twinStatPeerNode => ⟨.twin, 0x0010, 1, 0, 23, 8, .ro, 0, .live⟩
  | .twinLsArmRefuse => ⟨.twin, 0x0014, 1, 0, 0, 0, .w1c, 0, .plain⟩
  | .twinLsArmField => ⟨.twin, 0x0014, 1, 0, 4, 1, .ro, 0, .plain⟩
  | .twinLsFaultCode => ⟨.twin, 0x0018, 1, 0, 7, 0, .ro, 0, .plain⟩
  | .twinLsFaultCause => ⟨.twin, 0x0018, 1, 0, 11, 8, .ro, 0, .plain⟩
  | .twinLsFaultStream => ⟨.twin, 0x0018, 1, 0, 23, 12, .ro, 0, .plain⟩
  | .twinLsChunks => ⟨.twin, 0x001C, 1, 0, 31, 0, .ro, 0, .frame⟩
  | .twinLsHold => ⟨.twin, 0x0020, 1, 0, 31, 0, .ro, 0, .frame⟩
  | .twinLsFrames => ⟨.twin, 0x0024, 1, 0, 15, 0, .ro, 0, .frame⟩
  | .twinDetKvLate => ⟨.twin, 0x0024, 1, 0, 31, 16, .ro, 0, .frame⟩
  | .snapNvmeEnable => ⟨.snap, 0x0000, 1, 0, 0, 0, .rw, 0, .plain⟩
  | .snapNvmeUp => ⟨.snap, 0x0000, 1, 0, 1, 1, .ro, 0, .live⟩
  | .snapNvmeNsid => ⟨.snap, 0x0004, 1, 0, 31, 0, .rw, 1, .plain⟩
  | .snapAreaLbaLo => ⟨.snap, 0x0008, 1, 0, 31, 0, .rw, 0, .plain⟩
  | .snapAreaLbaHi => ⟨.snap, 0x000C, 1, 0, 31, 0, .rw, 0, .plain⟩
  | .snapAreaBlocks => ⟨.snap, 0x0010, 1, 0, 31, 0, .rw, 0, .plain⟩
  | .snapAreaCount => ⟨.snap, 0x0014, 1, 0, 7, 0, .rw, 0, .plain⟩
  | .snapCutLo => ⟨.snap, 0x0018, 1, 0, 31, 0, .rw, 0xffffffff, .plain⟩
  | .snapCutHi => ⟨.snap, 0x001C, 1, 0, 31, 0, .rw, 0xffffffff, .plain⟩
  | .snapStateCode => ⟨.snap, 0x0020, 1, 0, 2, 0, .ro, 0, .live⟩
  | .snapStateArea => ⟨.snap, 0x0020, 1, 0, 10, 3, .ro, 0, .live⟩
  | .snapStateClean => ⟨.snap, 0x0020, 1, 0, 11, 11, .ro, 0, .live⟩
  | .snapEvCut => ⟨.snap, 0x0024, 1, 0, 0, 0, .w1c, 0, .plain⟩
  | .snapEvNotPermitted => ⟨.snap, 0x0024, 1, 0, 1, 1, .w1c, 0, .plain⟩
  | .snapEvNotQuiet => ⟨.snap, 0x0024, 1, 0, 2, 2, .w1c, 0, .plain⟩
  | .snapEvDone => ⟨.snap, 0x0024, 1, 0, 3, 3, .w1c, 0, .plain⟩
  | .snapEvFail => ⟨.snap, 0x0024, 1, 0, 4, 4, .w1c, 0, .plain⟩
  | .snapFail => ⟨.snap, 0x0028, 1, 0, 15, 0, .ro, 0, .plain⟩
  | .snapHold => ⟨.snap, 0x002C, 1, 0, 31, 0, .ro, 0, .frame⟩
  | .snapCopied => ⟨.snap, 0x0030, 1, 0, 31, 0, .ro, 0, .live⟩
  | .snapMirLapse => ⟨.snap, 0x0034, 1, 0, 15, 0, .ro, 0, .frame⟩
  | .snapMirSent => ⟨.snap, 0x0034, 1, 0, 31, 16, .ro, 0, .frame⟩
  | .snapRstSrcCellar => ⟨.snap, 0x0040, 1, 0, 1, 0, .rw, 0, .plain⟩
  | .snapRstSrcWhey => ⟨.snap, 0x0040, 1, 0, 3, 2, .rw, 0, .plain⟩
  | .snapRstArea => ⟨.snap, 0x0040, 1, 0, 11, 4, .rw, 0, .plain⟩
  | .snapRstAddrCLo => ⟨.snap, 0x0044, 1, 0, 31, 0, .rw, 0, .plain⟩
  | .snapRstAddrCHi => ⟨.snap, 0x0048, 1, 0, 31, 0, .rw, 0, .plain⟩
  | .snapRstAddrWLo => ⟨.snap, 0x004C, 1, 0, 31, 0, .rw, 0, .plain⟩
  | .snapRstAddrWHi => ⟨.snap, 0x0050, 1, 0, 31, 0, .rw, 0, .plain⟩
  | .snapResumeLo => ⟨.snap, 0x0054, 1, 0, 31, 0, .rw, 0xffffffff, .plain⟩
  | .snapResumeHi => ⟨.snap, 0x0058, 1, 0, 31, 0, .rw, 0xffffffff, .plain⟩
  | .snapRstCause => ⟨.snap, 0x005C, 1, 0, 3, 0, .ro, 0, .plain⟩
  | .snapRstDone => ⟨.snap, 0x005C, 1, 0, 4, 4, .ro, 0, .plain⟩
  | .secStartState => ⟨.sec, 0x0000, 1, 0, 3, 0, .ro, 0, .live⟩
  | .secStartKind => ⟨.sec, 0x0000, 1, 0, 5, 4, .ro, 0, .live⟩
  | .secStartKeptMem => ⟨.sec, 0x0000, 1, 0, 6, 6, .ro, 0, .live⟩
  | .secStartKeptLinks => ⟨.sec, 0x0000, 1, 0, 7, 7, .ro, 0, .live⟩
  | .secStartDowngrade => ⟨.sec, 0x0000, 1, 0, 8, 8, .ro, 0, .live⟩
  | .secStartKeepDenied => ⟨.sec, 0x0000, 1, 0, 9, 9, .ro, 0, .live⟩
  | .secStartFailCause => ⟨.sec, 0x0000, 1, 0, 13, 10, .ro, 0, .live⟩
  | .secStartFwSlot => ⟨.sec, 0x0000, 1, 0, 14, 14, .ro, 0, .live⟩
  | .secStartMs => ⟨.sec, 0x0004, 1, 0, 19, 0, .ro, 0, .live⟩
  | .secFwSvn => ⟨.sec, 0x0008, 1, 0, 31, 0, .ro, 0, .live⟩
  | .secOwnerFlags => ⟨.sec, 0x000C, 1, 0, 3, 0, .ro, 0, .live⟩
  | .secOwnerBound => ⟨.sec, 0x000C, 1, 0, 4, 4, .ro, 0, .live⟩
  | .secPolicyVer => ⟨.sec, 0x0010, 1, 0, 31, 0, .ro, 0, .live⟩
  | .secNode => ⟨.sec, 0x0014, 1, 0, 15, 0, .wg, 0xffff, .plain⟩
  | .secJoinFm => ⟨.sec, 0x0018, 1, 0, 15, 0, .wg, 0, .plain⟩
  | .secSessionState => ⟨.sec, 0x001C, 1, 0, 1, 0, .ro, 0, .live⟩
  | .secSessionFixed => ⟨.sec, 0x001C, 1, 0, 2, 2, .ro, 0, .live⟩
  | .secQuoteCmd => ⟨.sec, 0x0020, 1, 0, 0, 0, .wg, 0, .plain⟩
  | .secQuoteBusy => ⟨.sec, 0x0024, 1, 0, 0, 0, .ro, 0, .live⟩
  | .secQuoteValid => ⟨.sec, 0x0024, 1, 0, 1, 1, .ro, 0, .live⟩
  | .secQuoteReject => ⟨.sec, 0x0024, 1, 0, 2, 2, .w1c, 0, .plain⟩
  | .secQuoteQueued => ⟨.sec, 0x0024, 1, 0, 7, 3, .ro, 0, .live⟩
  | .secNonce => ⟨.sec, 0x0040, 16, 4, 31, 0, .rw, 0, .plain⟩
  | .secFaultCode => ⟨.sec, 0x0080, 1, 0, 7, 0, .ro, 0, .plain⟩
  | .secFaultCause => ⟨.sec, 0x0080, 1, 0, 11, 8, .ro, 0, .plain⟩
  | .secMacDrop => ⟨.sec, 0x0084, 1, 0, 15, 0, .ro, 0, .summary⟩
  | .secLockDrop => ⟨.sec, 0x0084, 1, 0, 31, 16, .ro, 0, .summary⟩
  | .secAgentDrop => ⟨.sec, 0x0088, 1, 0, 15, 0, .ro, 0, .summary⟩
  | .hostifLinkSpeed => ⟨.hostif, 0x0000, 1, 0, 3, 0, .ro, 0, .live⟩
  | .hostifLinkWidth => ⟨.hostif, 0x0000, 1, 0, 8, 4, .ro, 0, .live⟩
  | .hostifLinkFlit => ⟨.hostif, 0x0000, 1, 0, 9, 9, .ro, 0, .live⟩
  | .hostifLinkUp => ⟨.hostif, 0x0000, 1, 0, 10, 10, .ro, 0, .live⟩
  | .hostifLinkBme => ⟨.hostif, 0x0000, 1, 0, 11, 11, .ro, 0, .live⟩
  | .hostifHbmwinBase => ⟨.hostif, 0x0004, 1, 0, 7, 0, .rw, 0, .plain⟩
  | .hostifEvtVector => ⟨.hostif, 0x0008, 1, 0, 10, 0, .rw, 0, .plain⟩
  | .hostifEvtEnable => ⟨.hostif, 0x0008, 1, 0, 21, 16, .rw, 0, .plain⟩
  | .hostifEvtJob => ⟨.hostif, 0x000C, 1, 0, 0, 0, .w1c, 0, .plain⟩
  | .hostifEvtAdmit => ⟨.hostif, 0x000C, 1, 0, 1, 1, .w1c, 0, .plain⟩
  | .hostifEvtFault => ⟨.hostif, 0x000C, 1, 0, 2, 2, .w1c, 0, .plain⟩
  | .hostifEvtStart => ⟨.hostif, 0x000C, 1, 0, 3, 3, .w1c, 0, .plain⟩
  | .hostifEvtCut => ⟨.hostif, 0x000C, 1, 0, 4, 4, .w1c, 0, .plain⟩
  | .hostifEvtRestore => ⟨.hostif, 0x000C, 1, 0, 5, 5, .w1c, 0, .plain⟩
  | .hostifWinOutside => ⟨.hostif, 0x0010, 1, 0, 15, 0, .ro, 0, .summary⟩
  | .hostifBmDrop => ⟨.hostif, 0x0010, 1, 0, 31, 16, .ro, 0, .summary⟩
  | .hostifCplTimeout => ⟨.hostif, 0x0014, 1, 0, 15, 0, .ro, 0, .summary⟩
  | .hostifCplError => ⟨.hostif, 0x0014, 1, 0, 31, 16, .ro, 0, .summary⟩
  | .hostifNvmeSpeed => ⟨.hostif, 0x0018, 1, 0, 3, 0, .ro, 0, .live⟩
  | .hostifNvmeWidth => ⟨.hostif, 0x0018, 1, 0, 6, 4, .ro, 0, .live⟩
  | .hostifNvmeUp => ⟨.hostif, 0x0018, 1, 0, 7, 7, .ro, 0, .live⟩
  | .hostifFlashAddr => ⟨.hostif, 0x0100, 1, 0, 25, 0, .rw, 0, .plain⟩
  | .hostifFlashCmd => ⟨.hostif, 0x0104, 1, 0, 1, 0, .wg, 0, .plain⟩
  | .hostifFlashBusy => ⟨.hostif, 0x0108, 1, 0, 0, 0, .ro, 0, .live⟩
  | .hostifFlashResult => ⟨.hostif, 0x0108, 1, 0, 3, 1, .ro, 0, .live⟩
  | .hostifFlashData => ⟨.hostif, 0x0200, 64, 4, 31, 0, .rw, 0, .plain⟩
  | .pwrCapW => ⟨.pwr, 0x0000, 1, 0, 11, 0, .wg, 2800, .plain⟩
  | .pwrTjTarget => ⟨.pwr, 0x0004, 1, 0, 7, 0, .wg, 95, .plain⟩
  | .pwrNowW => ⟨.pwr, 0x0008, 1, 0, 11, 0, .ro, 0, .live⟩
  | .pwrNowTj => ⟨.pwr, 0x0008, 1, 0, 27, 16, .ro, 0, .live⟩
  | .pwrProtDies => ⟨.pwr, 0x000C, 1, 0, 11, 0, .ro, 0, .live⟩
  | .pwrProtAlert => ⟨.pwr, 0x000C, 1, 0, 12, 12, .ro, 0, .live⟩
  | .pwrEvReduce => ⟨.pwr, 0x0010, 1, 0, 0, 0, .w1c, 0, .plain⟩
  | .pwrEvRail => ⟨.pwr, 0x0010, 1, 0, 1, 1, .w1c, 0, .plain⟩
  | .pwrEvCapReject => ⟨.pwr, 0x0010, 1, 0, 2, 2, .w1c, 0, .plain⟩
  | .pwrReduceCounts => ⟨.pwr, 0x0014, 1, 0, 31, 0, .ro, 0, .summary⟩
  | .pwrRailSeen => ⟨.pwr, 0x0018, 1, 0, 4, 0, .w1c, 0, .plain⟩
  | .blkIdType => ⟨.common, 0x1F00, 1, 0, 4, 0, .ro, 0, .live⟩
  | .blkIdInst => ⟨.common, 0x1F00, 1, 0, 15, 8, .ro, 0, .live⟩
  | .blkLwOffset => ⟨.common, 0x1F04, 1, 0, 15, 0, .ro, 0, .plain⟩
  | .blkLwMaster => ⟨.common, 0x1F04, 1, 0, 17, 16, .ro, 0, .plain⟩
  | .blkLwResult => ⟨.common, 0x1F04, 1, 0, 19, 18, .ro, 0, .plain⟩
  | .blkLwWinner => ⟨.common, 0x1F04, 1, 0, 21, 20, .ro, 0, .plain⟩
  | .blkLwSuperseded => ⟨.common, 0x1F04, 1, 0, 31, 31, .w1c, 0, .plain⟩
  | .blkGuardSeqErr => ⟨.common, 0x1F08, 1, 0, 0, 0, .w1c, 0, .plain⟩
  | .blkGuardCause => ⟨.common, 0x1F08, 1, 0, 3, 1, .ro, 0, .plain⟩
  | .blkGuardMaster => ⟨.common, 0x1F08, 1, 0, 5, 4, .ro, 0, .plain⟩
  | .blkGuardBy => ⟨.common, 0x1F08, 1, 0, 7, 6, .ro, 0, .plain⟩
  | .blkGuardOffset => ⟨.common, 0x1F08, 1, 0, 20, 8, .ro, 0, .plain⟩
  | .blkGuardCount => ⟨.common, 0x1F08, 1, 0, 31, 24, .ro, 0, .plain⟩
  | .blkGuardOpenValid => ⟨.common, 0x1F0C, 1, 0, 0, 0, .ro, 0, .live⟩
  | .blkGuardOpenMaster => ⟨.common, 0x1F0C, 1, 0, 2, 1, .ro, 0, .live⟩
  | .blkGuardOpenOffset => ⟨.common, 0x1F0C, 1, 0, 15, 3, .ro, 0, .live⟩
  | .blkGuardOpenAge => ⟨.common, 0x1F0C, 1, 0, 24, 16, .ro, 0, .live⟩
  | .mbxSel => ⟨.common, 0x1F20, 1, 0, 7, 0, .rw, 0, .live⟩
  | .mbxValid => ⟨.common, 0x1F24, 1, 0, 0, 0, .ro, 0, .live⟩
  | .mbxErr => ⟨.common, 0x1F24, 1, 0, 1, 1, .ro, 0, .live⟩
  | .mbxSelEcho => ⟨.common, 0x1F24, 1, 0, 15, 8, .ro, 0, .live⟩
  | .mbxData => ⟨.common, 0x1F40, 8, 4, 31, 0, .ro, 0, .live⟩

/-- The fields of a HUB page. -/
def fldsHub : List Fld :=
  [.hubOrderCode, .hubMsCount, .hubFdCount, .hubPosFabric, .hubStrayCount, .hubBridgeReplays,
   .hubBridgeOvershare, .hubBridgeOvershareSeen, .hubBridgeDown, .hubDevFaultCode,
   .hubDevFaultSrc, .hubDevFaultDie, .hubDevFaultStack, .hubEccHbmCorr, .hubEccSramCorr,
   .hubVoteScrubbed, .hubVoteUnresolved, .hubVoteBlock, .hubVoteOffset]

/-- The fields of a TICK page. -/
def fldsTick : List Fld :=
  [.tickSyncPrimary, .tickSyncBackup, .tickSyncRoot, .tickSyncState, .tickSyncOnBackup,
   .tickOffsetLast, .tickOffsetRate, .tickPeriodCounts, .tickGuardCounts, .tickSlotsCount,
   .tickSlotsCurrent, .tickLaunchLo, .tickLaunchHi, .tickArmCmd, .tickFrameClose,
   .tickFrameGuardEncroach, .tickEvLaunchMissed, .tickEvOverrun, .tickEvEncroach, .tickEvDecl,
   .tickEvSyncLost, .tickEvBudget, .tickThrottleCounts, .tickFaultCode, .tickFaultCause,
   .tickFaultEngine, .tickAdmitSlot, .tickAdmitEngine, .tickAdmitValid, .tickDeclSlot,
   .tickDeclEngine, .tickDeclValid]

/-- The fields of a JOB page. -/
def fldsJob : List Fld :=
  [.jobCapPart, .jobCapLevelMax, .jobCapLevelMin, .jobCapPlacever, .jobCapClasses,
   .jobCapFormats, .jobCapCores, .jobCapDies, .jobCapArray, .jobCapExperts, .jobCapTopk,
   .jobCapShared, .jobStateCode, .jobStateLending, .jobStateFault, .jobStateMore,
   .jobStateEnd, .jobCmdOp, .jobCmdLast, .jobCmdCause, .jobCmdReject, .jobLoadAddrLo,
   .jobLoadAddrHi, .jobLoadLen, .jobAdmitCode, .jobAdmitDetail, .jobAdmitLevel,
   .jobAdmitFwplaced, .jobAdmitValid, .jobStopFrameLo, .jobStopFrameHi, .jobKeyTag,
   .jobKeyEpoch, .jobMemberCount, .jobMemberIndex, .jobSeedLo, .jobSeedHi, .jobBaseNode,
   .jobHerdUsed, .jobHerdPresent, .jobHerdInOver, .jobHerdInCons, .jobHerdOutProd,
   .jobHerdListed, .jobHerdWaiting, .jobHerdAdds, .jobHerdRejects, .jobHerdCancels,
   .jobHerdFinished, .jobHerdOutLost, .jobHerdEarlyRetire, .jobHerdBuild]

/-- The fields of a CORE page. -/
def fldsCore : List Fld :=
  [.coreSeqFaultCode, .coreSeqFaultCause, .coreSeqFaultClass, .coreSeqFaultOpcode,
   .coreSeqFaultIndex, .coreSeqFaultSlot, .coreSeqPc, .coreSeqEnded, .coreSeqHeld,
   .coreSeqDepth, .coreSeqIssued, .coreFmtNonfiniteIn, .coreFmtScaleClamp, .coreFmtSat,
   .coreFmtNanZero, .coreFmtAccSat, .coreFmtSetF32, .coreArrBusy, .coreArrStream,
   .coreArrLoads, .coreArrLoadWaits, .coreArrSkimSafe, .coreArrSkimPtot, .coreArrSkimPred,
   .coreArrSetClosed, .coreArrBlockBits, .coreArrBlockTrows, .coreArrBlockTcols,
   .coreLdrTransposed, .coreLdrConverted, .coreSprPairBusy, .coreSprPairs, .coreSprStalls,
   .coreSprIdxDrop, .coreSprGrpDrop, .coreSprTagDrop, .coreSprFallback, .coreSprQmax,
   .coreSprQmaxBank, .coreRowBusy, .coreRowInstr, .coreRowRecomp, .coreRowStatWr,
   .coreRowStatRd, .coreRowNonfinite, .coreRowDegenerate, .coreRowMode, .coreRowPart,
   .coreRowLiveUnits]

/-- The fields of a SEP page. -/
def fldsSep : List Fld :=
  [.sepStateBusy, .sepStateChainWait, .sepStateLayer, .sepStatePos, .sepBusy, .sepTokens,
   .sepSkips, .sepSkipTokens, .sepDegenerate, .sepNonfinite, .sepChainWaits, .sepInvokeSelect,
   .sepInvokeHash, .sepStatsLo, .sepStatsHi, .sepStatsBuf, .sepChnBusy, .sepChnRecords,
   .sepChnPails, .sepChnAllocWait, .sepChnStateBusy, .sepChnStateLayer]

/-- The fields of a PAIL page. -/
def fldsPail : List Fld :=
  [.pailPlace, .pailLandClass, .pailFaultCode, .pailFaultCore, .pailFaultClass,
   .pailFaultState, .pailFaultHandle, .pailFree, .pailLow, .pailAllocs, .pailFrees,
   .pailShares, .pailReturned, .pailBusy, .pailWait]

/-- The fields of a TIER page. -/
def fldsTier : List Fld :=
  [.tierSrcKind, .tierSrcNode, .tierSrcBaseLo, .tierSrcBaseHi, .tierSrcPages, .tierLendCmd,
   .tierLendBase, .tierLendPages, .tierLendKey, .tierLendEpoch, .tierLendState,
   .tierLendReject, .tierLendOutside, .tierPoolFree, .tierPoolPinned, .tierMovesUp,
   .tierMovesDown, .tierJoins, .tierEvictSkip, .tierPagesMoved, .tierBusy, .tierWait,
   .tierGrpDrop, .tierIdxDrop, .tierHerdQueued, .tierBounce, .tierObjSel, .tierObjTier,
   .tierObjMoving, .tierObjTarget, .tierObjMarked, .tierObjListed, .tierObjFixed,
   .tierObjStamp]

/-- The fields of a GMEM page. -/
def fldsGmem : List Fld :=
  [.gmemCfgTimeout, .gmemCfgRetry, .gmemStatusKeyed, .gmemCfgReject, .gmemWinReject,
   .gmemWinSel, .gmemWinData, .gmemWinCmd, .gmemWinAtLo, .gmemWinAtHi, .gmemNodeSel,
   .gmemFaultCode, .gmemFaultCause, .gmemFaultCore, .gmemFaultWin, .gmemFaultNode,
   .gmemReqOut, .gmemReqIn, .gmemRetries, .gmemDupIn, .gmemReplayHits, .gmemAtomBusy,
   .gmemTgtOutside, .gmemHoldDrop, .gmemLateResp, .gmemMgmtLate, .gmemBusy, .gmemRoomWait,
   .gmemOutstanding, .gmemCacheLive, .gmemRetryBytes, .gmemMgmtPending, .gmemMgmtCancel]

/-- The fields of a FAB page. -/
def fldsFab : List Fld :=
  [.fabPortState, .fabPortReversed, .fabPortPolarity, .fabPortCmd, .fabPortFecCorr,
   .fabPortFecUncorr, .fabPortReplays, .fabPortNaks, .fabPortRtt, .fabPortReroute,
   .fabPortPartnerNode, .fabPortPartnerPort, .fabPortPartnerValid, .fabRtStranger,
   .fabRtCrcDrop, .fabRtNoroute, .fabRtHopDrop, .fabRtDupDrop, .fabRtReorderGap,
   .fabRtStreamCut, .fabRtTransit, .fabRtReorderPeak, .fabCfgReorder, .fabCfgMseedLo,
   .fabCfgMseedHi, .fabCfgMgmtEpoch, .fabRtwSel, .fabRtwData, .fabMidSel, .fabMidData,
   .fabMidCount, .fabRtAdmit, .fabRtCmd, .fabRtAtLo, .fabRtAtHi, .fabRtPending, .fabRtCommits,
   .fabXchBusy, .fabXchRowsOut, .fabXchRowsIn, .fabXchLanded, .fabXchZeroed, .fabXchStale,
   .fabXchBadRecord, .fabXchDupRow, .fabXchMissing, .fabXchMisrow, .fabMapWindows,
   .fabMapPeak, .fabMapStall, .fabMapPkts, .fabMapUnits, .fabMapStamp]

/-- The fields of a COLL page. -/
def fldsColl : List Fld :=
  [.collFaultCode, .collFaultCause, .collFaultDesc, .collFaultByToken, .collFaultInv,
   .collFaultMember, .collFaultMemberValid, .collStarts, .collCommits, .collRootAborts,
   .collLate, .collSamples, .collTokenRetries, .collTokenDup, .collSlotWait, .collPending,
   .collDescSel, .collBusy]

/-- The fields of a TWIN page. -/
def fldsTwin : List Fld :=
  [.twinCfgMode, .twinCfgReject, .twinRxBase, .twinRxPages, .twinStatLink, .twinStatPeerMode,
   .twinStatAgree, .twinStatPeerNode, .twinLsArmRefuse, .twinLsArmField, .twinLsFaultCode,
   .twinLsFaultCause, .twinLsFaultStream, .twinLsChunks, .twinLsHold, .twinLsFrames,
   .twinDetKvLate]

/-- The fields of a SNAP page. -/
def fldsSnap : List Fld :=
  [.snapNvmeEnable, .snapNvmeUp, .snapNvmeNsid, .snapAreaLbaLo, .snapAreaLbaHi,
   .snapAreaBlocks, .snapAreaCount, .snapCutLo, .snapCutHi, .snapStateCode, .snapStateArea,
   .snapStateClean, .snapEvCut, .snapEvNotPermitted, .snapEvNotQuiet, .snapEvDone,
   .snapEvFail, .snapFail, .snapHold, .snapCopied, .snapMirLapse, .snapMirSent,
   .snapRstSrcCellar, .snapRstSrcWhey, .snapRstArea, .snapRstAddrCLo, .snapRstAddrCHi,
   .snapRstAddrWLo, .snapRstAddrWHi, .snapResumeLo, .snapResumeHi, .snapRstCause, .snapRstDone]

/-- The fields of a SEC page. -/
def fldsSec : List Fld :=
  [.secStartState, .secStartKind, .secStartKeptMem, .secStartKeptLinks, .secStartDowngrade,
   .secStartKeepDenied, .secStartFailCause, .secStartFwSlot, .secStartMs, .secFwSvn,
   .secOwnerFlags, .secOwnerBound, .secPolicyVer, .secNode, .secJoinFm, .secSessionState,
   .secSessionFixed, .secQuoteCmd, .secQuoteBusy, .secQuoteValid, .secQuoteReject,
   .secQuoteQueued, .secNonce, .secFaultCode, .secFaultCause, .secMacDrop, .secLockDrop,
   .secAgentDrop]

/-- The fields of a HOSTIF page. -/
def fldsHostif : List Fld :=
  [.hostifLinkSpeed, .hostifLinkWidth, .hostifLinkFlit, .hostifLinkUp, .hostifLinkBme,
   .hostifHbmwinBase, .hostifEvtVector, .hostifEvtEnable, .hostifEvtJob, .hostifEvtAdmit,
   .hostifEvtFault, .hostifEvtStart, .hostifEvtCut, .hostifEvtRestore, .hostifWinOutside,
   .hostifBmDrop, .hostifCplTimeout, .hostifCplError, .hostifNvmeSpeed, .hostifNvmeWidth,
   .hostifNvmeUp, .hostifFlashAddr, .hostifFlashCmd, .hostifFlashBusy, .hostifFlashResult,
   .hostifFlashData]

/-- The fields of a PWR page. -/
def fldsPwr : List Fld :=
  [.pwrCapW, .pwrTjTarget, .pwrNowW, .pwrNowTj, .pwrProtDies, .pwrProtAlert, .pwrEvReduce,
   .pwrEvRail, .pwrEvCapReject, .pwrReduceCounts, .pwrRailSeen]

/-- The fields of a any block page. -/
def fldsCommon : List Fld :=
  [.blkIdType, .blkIdInst, .blkLwOffset, .blkLwMaster, .blkLwResult, .blkLwWinner,
   .blkLwSuperseded, .blkGuardSeqErr, .blkGuardCause, .blkGuardMaster, .blkGuardBy,
   .blkGuardOffset, .blkGuardCount, .blkGuardOpenValid, .blkGuardOpenMaster,
   .blkGuardOpenOffset, .blkGuardOpenAge, .mbxSel, .mbxValid, .mbxErr, .mbxSelEcho, .mbxData]

/-- The fields of a page of a block, without the common ones. -/
def Blk.flds : Blk → List Fld
  | .hub => fldsHub
  | .tick => fldsTick
  | .job => fldsJob
  | .core => fldsCore
  | .sep => fldsSep
  | .pail => fldsPail
  | .tier => fldsTier
  | .gmem => fldsGmem
  | .fab => fldsFab
  | .coll => fldsColl
  | .twin => fldsTwin
  | .snap => fldsSnap
  | .sec => fldsSec
  | .hostif => fldsHostif
  | .pwr => fldsPwr
  | .common => fldsCommon

/-- A number for every field, for the keys of the register file. -/
def Fld.num (f : Fld) : Nat := f.ctorIdx

end Sys2Proof.Machine
end

