-- ==== Sys2Proof/Machine/UnitState.lean ====
section
/-! DEFINITION. The state of the device's units outside the cores. -/

namespace Sys2Proof.Machine

open Sys2Proof

/-! ### Package (R3, R4, R29) -/

/-- The ordering codes (Table SCOPE-1, HUB_ORDER_CODE). (log 8 DESIGN CHOICE) -/
inductive Order where
  | m20f6 | m18f8 | m16f10
  deriving DecidableEq, Repr

/-- HUB_ORDER_CODE. -/
def Order.code : Order → Nat
  | .m20f6 => 0 | .m18f8 => 1 | .m16f10 => 2
/-- HUB_MS_COUNT: memory stacks. -/
def Order.hbmStacks : Order → Nat
  | .m20f6 => 20 | .m18f8 => 18 | .m16f10 => 16
/-- HUB_FD_COUNT: fabric dies. -/
def Order.fabricDies : Order → Nat
  | .m20f6 => 6 | .m18f8 => 8 | .m16f10 => 10
/-- HUB_POS_FABRIC: positions that hold a fabric die. -/
def Order.posFabric : Order → Nat
  | .m20f6 => 0x3820082 | .m18f8 => 0x3822882 | .m16f10 => 0x38A28A2

/-! ### Memories -/

/-- The byte memories of the device and of its board. -/
structure Mem where
  /-- Device HBM by device HBM offset. -/
  hbm : Memory
  /-- The 48 tile stores of 48 MiB (Table SCOPE-2). -/
  tile : Vector Memory 48
  /-- The 12 die buffers of 32 MiB. -/
  die : Vector Memory 12
  /-- The 48 statistics stores of 2 MiB. -/
  stat : Vector Memory 48
  /-- Host memory by bus address. -/
  host : Memory
  /-- What has been written to the SPI NOR flash; an unlisted byte reads as the board delivered it. -/
  flash : Memory
  /-- The namespace of the NVMe controller (R398), by byte address. -/
  nvme : Memory
  /-- Poisoned bytes of HBM, tile stores (core × 2^26 + offset), die buffers and statistics stores (R386, Table REG-7).
  Those of an accumulator store stand with its sets. -/
  poisonHbm : List Nat
  poisonTile : List Nat
  poisonDie : List Nat
  poisonStat : List Nat
  deriving DecidableEq, Repr

/-- Memories with nothing listed. -/
def Mem.empty : Mem :=
  ⟨[], Vector.replicate 48 [], Vector.replicate 12 [], Vector.replicate 48 [], [], [], [], [], [], [], []⟩

/-! ### Control space (R412 to R424) -/

/-- An open guard sequence of one master in one page (R420). -/
structure Guard where
  page : Nat
  master : Master
  off : Nat
  value : Nat
  /-- The cc of the value write. -/
  cc : Nat
  deriving DecidableEq, Repr

/-- One master's mailbox of one page (R424); the value is latched when the selector is written. -/
structure Mailbox where
  page : Nat
  master : Master
  sel : Nat
  valid : Bool
  err : Bool
  echo : Nat
  data : Nat
  /-- The latched request that waits to be copied: selector, value and whether the block provides it. -/
  latched : Option (Nat × Option Nat)
  /-- The cc of the selector write. -/
  cc : Nat
  deriving DecidableEq, Repr

/-- A write of the present cc, for the serialisation of R418: page, base offset, master. -/
structure CcWrite where
  page : Nat
  base : Nat
  master : Master
  deriving DecidableEq, Repr

/-- The three copies of a V3 field (R422). -/
structure V3 where
  a : Nat
  b : Nat
  c : Nat
  deriving DecidableEq, Repr

/-- All three copies at one value. -/
def V3.all (n : Nat) : V3 := ⟨n, n, n⟩

/-- Control-space state beside the register file. -/
structure Ctl where
  period : V3
  guardBand : V3
  jobState : V3
  guards : List Guard
  mailboxes : List Mailbox
  /-- The cc of the writes in `ccWrites`. -/
  ccNow : Nat
  ccWrites : List CcWrite
  /-- The window of 1,000 counts in which a bridge direction last used job share, by direction (R30). -/
  overWindow : Sparse Nat
  /-- Consecutive replays of one flit, by bridge direction (R26). -/
  replayRun : Sparse Nat
  /-- Selector 0x01 of the HUB block (Table REG-7). -/
  faultAddr : Nat
  /-- Selector 0x02 of the HUB block. -/
  strayLast : Nat
  /-- The count since which the value in TICK_LAUNCH_LO and TICK_LAUNCH_HI has stood with the job ADMITTED: the later of
  its last write and the admission. The counter can reach only a value that is not below it (R49). (log 75 DEDUCED) -/
  launchFrom : Nat
  deriving DecidableEq, Repr

/-- Control space after a start (R429). -/
def Ctl.empty : Ctl :=
  ⟨V3.all 0, V3.all 0, V3.all 0, [], [], 0, [], [], [], 0, 0, 0⟩

/-! ### Counter synchronisation (R31 to R36) -/

/-- Synchronisation states (Table TICK-1). -/
inductive SyncState where
  | unset | coarse | tracking | locked | holdover | lost
  deriving DecidableEq, Repr

/-- The code of a synchronisation state. -/
def SyncState.code : SyncState → Nat
  | .unset => 0 | .coarse => 1 | .tracking => 2 | .locked => 3 | .holdover => 4 | .lost => 5

/-- The counter's synchronisation (R34, R35). -/
structure Sync where
  state : SyncState
  onBackup : Bool
  /-- Consecutive parent offsets within ±2 counts. -/
  good : Nat
  /-- The count at which the device was last left without a parent. -/
  orphan : Option Nat
  /-- LOST was entered while a job was RUNNING: no further frame opens (R36). -/
  lostRun : Bool
  /-- LOST was entered while a job was ARMED: it does not open frame 0 (R36, R49). -/
  lostArmed : Bool
  deriving DecidableEq, Repr

/-- The synchronisation after a cold start: UNSET (Table TICK-1). -/
def Sync.unset : Sync := ⟨.unset, false, 0, none, false, false⟩

/-! ### The job (R68 to R76) -/

/-- Job states (Table TYN-4). -/
inductive JobPhase where
  | idle | loading | admitted | armed | running | draining | faulted | torn
  deriving DecidableEq, Repr

/-- The code of a job state. -/
def JobPhase.code : JobPhase → Nat
  | .idle => 0 | .loading => 1 | .admitted => 2 | .armed => 3
  | .running => 4 | .draining => 5 | .faulted => 6 | .torn => 7

/-- The hub firmware's own record of the job's life cycle (R68, R423). -/
structure Job where
  phase : JobPhase
  /-- An accepted ABORT is pending (R69). -/
  abort : Bool
  /-- The count of the event that started the teardown (R387). -/
  tearFrom : Option Nat
  /-- The cc of the recorded fault, for R75. -/
  faultCc : Option Nat
  /-- Stop frame in force (R72). -/
  stop : Nat
  /-- The lent or job memory is being zeroed after RELEASE (R388). -/
  zeroing : Bool
  /-- The launch count of the current job (Table TICK-17). -/
  launch : Nat
  /-- Frame number at which the job entered DRAINING or FAULTED (Table TYN-9). -/
  endFrame : Nat
  /-- The count at which the drain must have finished (R74). -/
  drainBy : Option Nat
  /-- The job key is registered: from the launch count to teardown (R288, R331). -/
  keyed : Bool
  /-- The count of an accepted RELEASE (R388). -/
  releasedAt : Option Nat
  /-- Bytes of HBM written from outside during LOADING, each with the values it has held (R489). -/
  loadLog : List (Nat × Byte)
  deriving DecidableEq, Repr

/-- No job (R429). -/
def Job.idle : Job where
  phase := .idle
  abort := false
  tearFrom := none
  faultCc := none
  stop := 2 ^ 64 - 1
  zeroing := false
  launch := 0
  endFrame := 0
  drainBy := none
  keyed := false
  releasedAt := none
  loadLog := []

/-- Frame phases (Table TICK-2); `idle` lies between the close and the guard start. -/
inductive FramePhase where
  | none | opening | run | idle | guardBand
  deriving DecidableEq, Repr

/-- The frame sequencing of the TICK unit (R37 to R43, R51, R52). -/
structure Frame where
  phase : FramePhase
  /-- A frame has opened since launch; `number`, `boundary` and `slot` describe the last one. -/
  opened : Bool
  number : Nat
  boundary : Nat
  slot : Nat
  closed : Bool
  /-- Units at which the last condition of the close came to hold. -/
  lastWork : Nat
  /-- Counts gated in this frame (R51). -/
  gatedCounts : Nat
  /-- The count at which the running limiter step ends. -/
  gate : Option Nat
  budgetSpent : Bool
  /-- Guard start has been reached. -/
  guardSeen : Bool
  deriving DecidableEq, Repr

/-- Between jobs no frame is open. -/
def Frame.none_ : Frame := ⟨.none, false, 0, 0, 0, true, 0, 0, none, false, false⟩

/-! ### The Pail pool (R250 to R262) -/

/-- States of a Pail (R256). -/
inductive PailState where
  | free
  | held (core : Nat)
  | shared (owner : Nat)
  /-- Freed by its final owner in control cycle `cc`; FREE at the next frame open. -/
  | returning (owner cc : Nat)
  /-- Taken by an exchange engine from a landing share (R261). -/
  | landed
  deriving DecidableEq, Repr

/-- One request to the Pail manager, in issue order of its core (R258). -/
inductive PailReq where
  /-- PALLOC: entry number, destination scalar, size in bytes. -/
  | alloc (seq sd size : Nat)
  | release (seq handle : Nat)
  | share (seq handle owner : Nat)
  /-- A Churn allocation of a core's copy: entry number and class (R201). -/
  | churn (seq cls : Nat)
  /-- Frees of a Pail list at the retirement of a final-slot XCH.DISPATCH (R207). -/
  | dispatch (seq : Nat) (handles : List Nat)
  deriving DecidableEq, Repr

/-- The Pail manager. -/
structure Pail where
  /-- States of the Pails by handle; an unlisted Pail is FREE. -/
  states : Sparse PailState
  /-- Requests waiting, by core, oldest first. -/
  reqs : List (Nat × PailReq)
  /-- Lowest FREE count of each class in this frame (PAIL_LOW). -/
  low : List Nat
  /-- The cc from which some request has waited under R258 (PAIL_WAIT). -/
  waitFrom : Option Nat
  /-- The cc in which the manager last took requests, and the cc from which it takes others (R262). -/
  servedCc : Nat
  freeCc : Nat
  deriving DecidableEq, Repr

/-- Nothing taken, nothing waiting. -/
def Pail.empty : Pail := ⟨[], [], List.replicate 8 0, none, 0, 0⟩

/-! ### The fabric (R313 to R342) -/

/-- Port states (Table FAB-2). -/
inductive PortState where
  | disabled | down | training | quarantine | up
  deriving DecidableEq, Repr

/-- The code of a port state. -/
def PortState.code : PortState → Nat
  | .disabled => 0 | .down => 1 | .training => 2 | .quarantine => 3 | .up => 4

/-- A packet at an output port: as it was before it is sent, the fabric die whose table routed it, the port and the VC
whose buffer it holds, none where it holds none, and whether it neither starts nor ends here (R323, R325, R328, R337). -/
structure QPacket where
  packet : Packet
  fd : Nat
  source : Option (Fin 81 × Nat)
  transit : Bool
  deriving DecidableEq, Repr

/-- A packet sent on a port and not fully acknowledged (R329): as it was before that send, and the number of the last
block that holds its bytes, counted from the end of training. -/
structure TxPacket where
  item : QPacket
  lastBlock : Nat
  deriving DecidableEq, Repr

/-- A link block that the device sends (R314, Table FAB-1): its number, the acknowledged number, its kind (0 data,
1 timestamp, 2 idle), the NAK bit, up to two returns of credits (VC and count), and its body; a body that is shorter
than 4,096 bytes is all zero from there on. -/
structure LinkBlock where
  number : Nat
  acked : Nat
  kind : Nat
  nak : Bool
  credits : List (Nat × Nat)
  body : List Byte
  deriving DecidableEq, Repr

/-- A numbered block that has not been acknowledged, and the count of its sending (R315, R316). -/
structure SentBlock where
  block : LinkBlock
  sentAt : Nat
  deriving DecidableEq, Repr

/-- One port direction pair and its link layer (R313 to R318, R323, R324, R341). -/
structure Port where
  state : PortState
  reversed : Bool
  polarity : Nat
  /-- The count at which the next training may start. -/
  trainAt : Nat
  /-- Partner node and port from the last probe answer (R318). -/
  partner : Option (Nat × Nat)
  /-- The answer has come since the port was last lost (FAB_PORT_PARTNER_VALID, R342). -/
  partnerValid : Bool
  rtt : Nat
  /-- Credits held for each VC, in 32-byte units (R323). -/
  credits : List Nat
  /-- Packets waiting for credits or blocks, by VC, oldest first. -/
  queues : List (List QPacket)
  lastVc : Nat
  /-- Bytes of packets that have started and that no block holds yet (R314). -/
  txBuf : List Byte
  /-- Numbered blocks sent since the end of training. -/
  blocks : Nat
  /-- Numbered blocks acknowledged since the end of training. -/
  acked : Nat
  unacked : List TxPacket
  /-- The numbered blocks that are not acknowledged, oldest first; at most 64 (R315). -/
  window : List SentBlock
  /-- The count of the last acknowledgement that advanced. -/
  ackAt : Nat
  /-- Successive replays of the oldest unacknowledged block. -/
  replays : Nat
  /-- Next expected block number. -/
  rxNext : Nat
  nakOut : Bool
  /-- The acknowledged number has advanced since the last trailer sent. -/
  ackDue : Bool
  /-- Bytes of a packet not yet complete. -/
  rxBytes : List Byte
  /-- Credits of each VC that have come free for the partner since the end of training, in 32-byte units. -/
  owed : List Nat
  /-- Stall fc of the running window and the unit at which a running stall began, by VC (R341). -/
  stallFc : List Nat
  stallFrom : List (Option Nat)
  /-- Timestamps of the exchange in progress: t1 sent, and the partner's t1 and our t2 (R33). -/
  sentAt : Option Nat
  gotAt : Option (Nat × Nat)
  deriving DecidableEq, Repr

/-- A port after a cold start: DOWN, with full credits. -/
def Port.cold : Port where
  state := .down
  reversed := false
  polarity := 0
  trainAt := 0
  partner := none
  partnerValid := false
  rtt := 0
  credits := List.replicate 8 1024
  queues := List.replicate 8 []
  lastVc := 7
  txBuf := []
  blocks := 0
  acked := 0
  unacked := []
  window := []
  ackAt := 0
  replays := 0
  rxNext := 0
  nakOut := false
  ackDue := false
  rxBytes := []
  owed := List.replicate 8 0
  stallFc := List.replicate 8 0
  stallFrom := List.replicate 8 none
  sentAt := none
  gotAt := none

/-- A key and epoch under which packets travel (R331). -/
structure Key where
  tag : Nat
  epoch : Nat
  deriving DecidableEq, Repr

/-- The sender's next ORDER toward a destination on a channel under a key (R333). -/
structure TxOrder where
  key : Key
  node : Nat
  chan : Nat
  next : Nat
  deriving DecidableEq, Repr

/-- A destination's reorder state for a key, source and channel (R333 to R335). -/
structure RxOrder where
  key : Key
  node : Nat
  chan : Nat
  next : Nat
  /-- Held packets with their arrival counts. -/
  held : List (Packet × Nat)
  /-- A gap was released: stream packets are discarded up to the end marker (R335). -/
  cutting : Bool
  /-- The slot of the stream whose end marker has yet to come. -/
  stream : Option Nat
  deriving DecidableEq, Repr

/-- The fabric dies and their router. Ports 0 to 79 are 8 × FD + port, port 80 is the twin link. -/
structure Fab where
  ports : Vector Port 81
  live : Vector (Sparse Nat) 10
  shadow : Vector (Sparse Nat) 10
  midLive : Sparse Nat
  midShadow : Sparse Nat
  midCount : Nat
  /-- The count of a waiting commit (R330). -/
  commitAt : Option Nat
  commits : Nat
  /-- Payload bytes sent to each destination, and repetitions (R327). -/
  flowBytes : Sparse Nat
  flowReps : Sparse Nat
  txOrders : List TxOrder
  rxOrders : List RxOrder
  /-- Packets assembled from received blocks that have not been taken up, with their ports (R314). -/
  inbox : List (Fin 81 × Packet)
  /-- Packets at their destination that await their checks, each with the fabric die it came in on (R331, R332). -/
  toDeliver : List (Nat × Packet)
  /-- Bytes not yet counted in whole units, by counter (R337, R341). -/
  residue : Sparse Nat
  deriving DecidableEq, Repr

/-- The fabric after a cold start. (log 9 DESIGN CHOICE) -/
def Fab.cold : Fab where
  ports := Vector.replicate 81 Port.cold
  live := Vector.replicate 10 []
  shadow := Vector.replicate 10 []
  midLive := []
  midShadow := []
  midCount := 0
  commitAt := none
  commits := 0
  flowBytes := []
  flowReps := []
  txOrders := []
  rxOrders := []
  inbox := []
  toDeliver := []
  residue := []

/-- Commands to the NVMe controller (Table REC-8): no rule says when the others of the table are sent. -/
inductive NvmeCmd where
  | identifyController
  | identifyNamespace (nsid : Nat)
  | setQueues (pairs : Nat)
  | createCompletion (queue entries : Nat)
  | createSubmission (queue entries : Nat)
  | deleteSubmission (queue : Nat)
  | deleteCompletion (queue : Nat)
  /-- SMART / Health Information. -/
  | getLogPage
  /-- Abort of the command in flight on a queue pair. -/
  | abort (queue : Nat)
  | read (queue lba blocks : Nat)
  | write (queue lba blocks : Nat) (fua : Bool)
  | flush (queue : Nat)
  deriving DecidableEq, Repr

/-- A posted write to host memory: its address, its bytes, and its attributes (R456). -/
structure HostWrite where
  addr : Nat
  bytes : List Byte
  relaxed : Bool
  idOrdered : Bool
  noSnoop : Bool
  deriving DecidableEq, Repr

/-- What the device has sent and the outside may observe; the model only appends. (log 74 DESIGN CHOICE) -/
structure OutBox where
  /-- Packets sent on ports: port number and packet. -/
  sent : List (Nat × Packet)
  /-- Link blocks sent on ports: port number and block (R314). -/
  blocks : List (Nat × LinkBlock)
  /-- Packets released to their consumers on this device, in order (R333). -/
  released : List Packet
  /-- MSI-X messages sent, by vector (R457). -/
  msi : List Nat
  /-- SMBus answers: bytes returned to the board management controller, none for a NACK (R460). -/
  smb : List (List Byte)
  /-- Values returned by voted reads and window reads. -/
  reads : List Nat
  /-- Read requests to host memory: address and bytes (R274, R456). -/
  hostReads : List (Nat × Nat)
  /-- Posted writes to host memory, in the order of their issue (R456). -/
  hostWrites : List HostWrite
  /-- Commands given to the NVMe controller (R398). -/
  nvme : List NvmeCmd
  /-- Answers to configuration requests; none is Request Retry Status (R455). -/
  config : List (Option Nat)
  /-- Bits shifted out of the TAP: the captured register, first bit first (R465). -/
  tdo : List (List Bool)
  deriving DecidableEq, Repr

/-- Nothing sent. -/
def OutBox.empty : OutBox := ⟨[], [], [], [], [], [], [], [], [], [], []⟩

/-! ### Start, firmware and security (R428 to R449) -/

/-- Start states (Table BOOT-3). -/
inductive StartState where
  | off | supply | identity | baseAuth | policy | bringup | joining | ready | unowned | failed
  deriving DecidableEq, Repr

/-- The code of a start state. -/
def StartState.code : StartState → Nat
  | .off => 0 | .supply => 1 | .identity => 2 | .baseAuth => 3 | .policy => 4
  | .bringup => 5 | .joining => 6 | .ready => 7 | .unowned => 8 | .failed => 9

/-- The start in progress or ended (Tables BOOT-1 to BOOT-3, BOOT-9). -/
structure Start where
  state : StartState
  /-- SEC_START_KIND: 0 before any start, 1 cold, 2 warm. -/
  kind : Nat
  keptMem : Bool
  keptLinks : Bool
  downgrade : Bool
  keepDenied : Bool
  failCause : Nat
  fwSlot : Nat
  /-- Ms from reset release to READY or UNOWNED. -/
  ms : Nat
  /-- The start word written over SMBus while reset is held (R460). -/
  word : Option (BitVec 32)
  /-- RESET_N is low. -/
  resetHeld : Bool
  powerGood : Bool
  refclk : Bool
  /-- Rails in range, bit per rail of the electrical chapter's order. -/
  rails : BitVec 5
  /-- The supplies have stayed within range since the previous start (R428). -/
  supplyHeld : Bool
  /-- HB0 secure SRAM holds a valid retained record (R428, R429). -/
  retained : Bool
  /-- A SECURITY_VIOLATION since the last cold start (R448). -/
  violated : Bool
  /-- Keep memory and keep links asked for by the start word. -/
  askMem : Bool
  askLinks : Bool
  /-- Steps of Table BOOT-2 that have ended in this start. -/
  done : List Nat
  deriving DecidableEq, Repr

/-- Held in reset, with the supplies up and no start yet (Table ELEC-3, orders 1 to 5). (log 9 DESIGN CHOICE) -/
def Start.held : Start where
  state := .off
  kind := 0
  keptMem := false
  keptLinks := false
  downgrade := false
  keepDenied := false
  failCause := 0
  fwSlot := 0
  ms := 0
  word := none
  resetHeld := true
  powerGood := false
  refclk := false
  rails := BitVec.allOnes 5
  supplyHeld := false
  retained := false
  violated := false
  askMem := false
  askLinks := false
  done := []

/-- The owner policy in force (Table BOOT-5). -/
structure Policy where
  flags : Nat
  version : Nat
  minSvn : Nat
  wheySize : Nat
  wheyInterval : Nat
  /-- SHA-512 of each program signer's key, and of each fabric manager key. -/
  signers : List (List Byte)
  managers : List (List Byte)
  ownerKey : List Byte
  /-- SHA-512 of the package bytes, for measurement slot 2. -/
  digest : List Byte
  deriving DecidableEq, Repr

/-- A quote being made (R441, R442): whether the command asked for it, and its bytes up to the signature. -/
structure Quote where
  commanded : Bool
  body : List Byte
  deriving DecidableEq, Repr

/-- A REPORT that waits for its acknowledgement (R447): its kind and content, the ORDER numbers of the packets
that have carried it, and the count of the last sending. -/
structure Report where
  kind : Nat
  content : List Byte
  orders : List Nat
  sentAt : Nat
  deriving DecidableEq, Repr

/-- Session states (SEC_SESSION_STATE). -/
inductive Session where
  | none | joining | joined | rekeying
  deriving DecidableEq, Repr

/-- The code of a session state. -/
def Session.code : Session → Nat
  | .none => 0 | .joining => 1 | .joined => 2 | .rekeying => 3

/-- The security state on HB0 (R433 to R448). -/
structure Sec where
  /-- The identity key has been derived and checked (step 2 passed). -/
  keyed : Bool
  /-- The identity key and the sealing key of the retained record (R429, R433); neither can be read. -/
  identity : Nat
  sealing : List Byte
  policy : Option Policy
  /-- A binding record is valid. -/
  bound : Bool
  fwSvn : Nat
  placeVer : Nat
  /-- Measurement slots 0 to 3. -/
  slots : Vector (List Byte) 4
  session : Session
  fixed : Bool
  key : List Byte
  /-- The old session key and the count at which it expires (R445). -/
  oldKey : Option (List Byte × Nat)
  /-- Our ephemeral scalar and quote nonce of the join in progress. -/
  ephemeral : Nat
  nonce : List Byte
  /-- The content of the JOIN_HELLO of this start, and the unit of its last sending. -/
  hello : List Byte
  helloAt : Option Nat
  quote : Option Quote
  /-- The bodies of the requested quotes that wait, oldest first. -/
  queued : List (List Byte)
  /-- The last commanded quote. -/
  last : Option (List Byte)
  reports : List Report
  deriving DecidableEq, Repr

/-- No key, no session (R429). -/
def Sec.empty : Sec where
  keyed := false
  identity := 0
  sealing := []
  policy := none
  bound := false
  fwSvn := 0
  placeVer := 0
  slots := Vector.replicate 4 (List.replicate 64 0)
  session := .none
  fixed := false
  key := []
  oldKey := none
  ephemeral := 0
  nonce := []
  hello := []
  helloAt := none
  quote := none
  queued := []
  last := none
  reports := []

/-! ### Host and board interfaces (R450 to R467) -/

/-- TAP instructions (R465). -/
inductive Tap where
  | idcode | bypass | samplePreload | extest | clamp | highz
  deriving DecidableEq, Repr

/-- Codes of the TAP instructions (Table HOST-5). -/
def Tap.code : Tap → BitVec 8
  | .bypass => 0xFF | .idcode => 0x01 | .samplePreload => 0x02 | .extest => 0x00 | .clamp => 0x03 | .highz => 0x04

/-- The instruction of a code: every other code acts as BYPASS (R465). -/
def Tap.ofCode (c : BitVec 8) : Tap :=
  if c = 0x00 then .extest else if c = 0x01 then .idcode else if c = 0x02 then .samplePreload
  else if c = 0x03 then .clamp else if c = 0x04 then .highz else .bypass

/-- A flash command in progress (R464). -/
structure FlashCmd where
  op : Nat
  addr : Nat
  /-- The staged bytes of a program. -/
  data : List Byte
  deriving DecidableEq, Repr

/-- The x16 endpoint, SMBus target, flash controller and TAP. -/
structure HostIf where
  /-- The endpoint's link is up. -/
  linkUp : Bool
  speed : Nat
  width : Nat
  flit : Bool
  /-- Bus Master Enable. -/
  bme : Bool
  /-- The base-two logarithm of a 128th of the Max Read Request Size (Table HOST-1). -/
  readLog : Nat
  /-- The base-two logarithm of a 128th of the Max Payload Size (Table HOST-1). -/
  payLog : Nat
  /-- Reads of host memory that may be outstanding: who made them (0 a TIER move, 1 a Cellar copy, 2 a Whey image), the
  object, address and count (R454, R467). -/
  reads : List (Nat × Nat × Nat × Nat)
  /-- PERST# is asserted. -/
  perst : Bool
  /-- Unit from which configuration requests complete (R455). -/
  cfgFrom : Option Nat
  /-- Written configuration registers by dword offset. -/
  cfg : Sparse Nat
  /-- The base-two logarithm of the size of BAR2 (Table HOST-2). -/
  barBits : Nat
  /-- Host bus address of the last device read that timed out or failed (Table HOST-7). -/
  failedRead : Nat
  /-- The MSI-X table by dword, four for each vector; an unlisted vector control dword masks its vector (Table HOST-2). -/
  msix : Sparse Nat
  /-- MSI-X Enable and Function Mask (R457). -/
  msixEnable : Bool
  msixMask : Bool
  /-- The pending bit array: vectors with a message that waits (R457). -/
  pendingVec : List Nat
  /-- Header log and first error pointer of the endpoint and of the root port (Table HOST-7). -/
  aerEnd : Nat
  /-- The uncorrectable error status of the endpoint. -/
  aerStatus : Nat
  aerRoot : Nat
  /-- SMBus event bits of command 0x05. -/
  events : BitVec 8
  flash : Option FlashCmd
  flashResult : Nat
  /-- The instruction register, and the instruction that acts. -/
  ir : BitVec 8
  tap : Tap
  /-- The boundary register, a cell for each of the low-speed lands (R465). -/
  boundary : BitVec 15
  /-- Pins are held in high impedance or driven from the boundary register. -/
  pinsHigh : Bool
  pinsDriven : Bool
  deriving DecidableEq, Repr

/-- The interfaces before power-up: PERST# asserted, every vector masked, IDCODE selected. (log 9 DESIGN CHOICE) -/
def HostIf.empty : HostIf where
  linkUp := false
  speed := 0
  width := 0
  flit := false
  bme := false
  readLog := 2
  payLog := 0
  reads := []
  perst := true
  cfgFrom := none
  cfg := []
  barBits := 36
  failedRead := 0
  msix := []
  msixEnable := false
  msixMask := false
  pendingVec := []
  aerEnd := 0
  aerStatus := 0
  aerRoot := 0
  events := 0
  flash := none
  flashResult := 0
  ir := 0x01
  tap := .idcode
  boundary := 0
  pinsHigh := false
  pinsDriven := false

/-- The instruction register acts anew as reset comes to be held or not: EXTEST, CLAMP and HIGHZ act only while it is held,
and otherwise as BYPASS (Table HOST-5). -/
def HostIf.settleTap (h : HostIf) (held : Bool) : HostIf :=
  let acts : Tap := match Tap.ofCode h.ir with
    | .extest => if held then .extest else .bypass
    | .clamp => if held then .clamp else .bypass
    | .highz => if held then .highz else .bypass
    | t => t
  { h with tap := acts, pinsDriven := acts = .extest || acts = .clamp, pinsHigh := acts = .highz }

/-! ### Memory tiers (R264 to R284) -/

/-- A move of an object in progress (R274): its target tier and the space it has reserved there. -/
structure TierMove where
  target : Nat
  pool : List Nat
  far : List (Nat × Nat)
  /-- Cores that take a use pin at its commit. -/
  takers : List Nat
  /-- Unit before which its copy does not end (R283). -/
  due : Nat
  /-- Loan traffic that has yet to be requested: first byte and length of each request. -/
  todo : List (Nat × Nat)
  /-- Requests made and not answered. -/
  open_ : Nat
  /-- What is being loaded are the headers of tiles, which tell what else is read (R155, R156). -/
  heads : Bool
  /-- Bytes of the object that have been loaded from a loan. -/
  got : Memory
  /-- The frame in which it started (R378). -/
  frame : Nat
  deriving DecidableEq, Repr

/-- One object of the manifest as the TIER engine holds it. -/
structure TierObj where
  movable : Bool
  size : Nat
  /-- First aperture page and page count (R265). -/
  first : Nat
  pages : Nat
  /-- Die and offset of its tier-0 home. -/
  die : Nat
  home0 : Nat
  tier : Nat
  /-- Pool pages of a tier-1 home, in page order. -/
  pool : List Nat
  /-- Tier-2 pages, each a source and a page of it. -/
  far : List (Nat × Nat)
  move : Option TierMove
  /-- Marked for eviction by TEVICT, and the target. -/
  marked : Option Nat
  /-- Cores that hold a use pin (R277). -/
  pins : List Nat
  /-- Held by a listing pin of the herd table. -/
  listed : Bool
  stamp : Nat
  deriving DecidableEq, Repr

/-- A request that waits in the TIER engine for pages or for the end of a move (R279, R282): a promote of a
core, of the herd builder (none), or a marked eviction. -/
structure TierReq where
  obj : Nat
  target : Nat
  core : Option Nat
  evict : Bool
  deriving DecidableEq, Repr

/-- Lending states (TIER_LEND_STATE). -/
inductive LendState where
  | off | lending | zeroing
  deriving DecidableEq, Repr

/-- The TIER engine. -/
structure Tier where
  objs : List TierObj
  /-- Requests taken, oldest first. -/
  queue : List TierReq
  /-- Herd promotes not yet taken, by object (R280). -/
  herd : List Nat
  /-- Objects of the herd promotes taken at the last open that have not committed (R372). -/
  watch : List Nat
  /-- The cc from which some promote has waited for pages. -/
  waitFrom : Option Nat
  lend : LendState
  /-- The key that loads and stores to the lent range carry (R272). -/
  lendKey : Option Key
  /-- The cc in which the latest request was taken, and its core (R282). -/
  latest : Nat × Nat
  deriving DecidableEq, Repr

/-- No objects, not lending. -/
def Tier.empty : Tier := ⟨[], [], [], [], none, .off, none, (0, 0)⟩

/-! ### Power and temperature (R473, R476 to R479, R485, R486) -/

/-- The power and thermal sensors and what they have brought about. -/
structure Pwr where
  /-- The last readings: 8 sensors of each compute die, 2 of each hub, 2 of each of ten fabric dies, 1 of each of
  20 stacks, in 0.25 °C units, two's complement. -/
  temps : List (BitVec 12)
  /-- Package power at the last sample, in W. -/
  watts : Nat
  /-- Energy since cold start, in units of 10 µJ. -/
  energy : Nat
  /-- Compute dies in reduction, with the unit since which all their sensors have read at or below 100 °C. -/
  reduced : List (Nat × Option Nat)
  /-- The unit up to which PWR_REDUCE_COUNTS has been counted. -/
  reducedTo : Nat
  /-- The arithmetic time of each compute die: the unit at which its clock last changed its rate, and the units that
  clock had counted then (R478). -/
  bases : Vector (Nat × Nat) 12
  /-- Consecutive samples of each rail below 90 % of nominal. -/
  lows : List Nat
  tripped : Bool
  /-- A throttle budget was spent in the current frame or period, and in the last closed one. -/
  spent : Bool
  spentLast : Bool
  deriving DecidableEq, Repr

/-- Nothing sampled. (log 9 DESIGN CHOICE) -/
def Pwr.empty : Pwr := ⟨[], 0, 0, [], 0, Vector.replicate 12 (0, 0), List.replicate 5 0, false, false, false⟩

end Sys2Proof.Machine
end

