-- ==== Sys2Proof/Machine/Packets.lean ====
section
/-! DEFINITION. What a packet says of itself: virtual channel, CRC, key, operation (R319, R320, R323, R328). -/

namespace Sys2Proof

open Machine

/-- The port that a 7-bit port code names: 8 × fabric die + port, or the twin link's 0x78 (R313). -/
def Machine.portOfCode (code : Nat) : Option (Fin 81) :=
  if h : code < 80 then some ⟨code, by omega⟩ else if code = 0x78 then some 80 else none

/-- The VC number of a packet (R323). -/
def Packet.vc (p : Packet) : Nat := (if p.phase2 then 4 else 0) + p.chan.toNat

/-- The bits of the header as they are sent (Table FAB-3). -/
def Packet.header (p : Packet) : Nat :=
  p.maskedHeader + (if p.phase2 then 2 ^ 90 else 0) + p.hops.toNat * 2 ^ 176 + p.crc.toNat * 2 ^ 224

/-- The bytes of a packet on a port direction: 32-byte header, then the payload (R319, R321). -/
def Packet.wire (p : Packet) : List Byte := leBytes 32 p.header ++ p.payload

/-- The trailer's bits under the CRC (Table FAB-1). -/
def Machine.LinkBlock.fields (b : LinkBlock) : Nat :=
  let c := fun (i : Nat) => b.credits.getD i (0, 0)
  b.number % 4096 + b.acked % 4096 * 2 ^ 12 + b.kind % 4 * 2 ^ 24 + b.nak.toNat * 2 ^ 26 +
  (c 0).1 % 8 * 2 ^ 32 + (c 0).2 % 8192 * 2 ^ 35 + (c 1).1 % 8 * 2 ^ 48 + (c 1).2 % 8192 * 2 ^ 51

/-- The 4,096 bytes of a block's body: units that hold no packet bytes are zero (R314). -/
def Machine.LinkBlock.bytes (b : LinkBlock) : List Byte := padTo 0 4096 b.body

/-- The trailer of a block: its fields, and the CRC over the body and the fields (Table FAB-1). -/
def Machine.LinkBlock.trailer (b : LinkBlock) : BitVec 128 :=
  BitVec.ofNat 128 (b.fields + (crc32c (b.bytes ++ leBytes 12 b.fields)).toNat * 2 ^ 96)

/-- The CRC of a packet (Table FAB-3). -/
def Packet.crcOf (p : Packet) : BitVec 32 := crc32c (leBytes 32 p.maskedHeader ++ p.payload)

/-- A packet at its intermediate enters phase 2 (R328). -/
def Packet.atNode (p : Packet) (self : Nat) : Packet :=
  if !p.phase2 && p.mid.toNat = self then { p with phase2 := true } else p

/-- The channel of an operation, none for an undefined one (Table FAB-4). -/
def opChannel (op chan : Nat) : Option Nat :=
  if op = 0x01 || op = 0x81 then some 3
  else if 0x10 ≤ op && op ≤ 0x12 then some (if chan = 3 then 3 else 0)
  else if 0x90 ≤ op && op ≤ 0x92 then some (if chan = 3 then 3 else 1)
  else if op = 0x20 || op = 0x21 then some 0
  else if op = 0xA0 || op = 0xA1 then some 1
  else if 0x40 ≤ op && op ≤ 0x47 then some 2
  else if 0x70 ≤ op && op ≤ 0x77 then some 3
  else if 0x7C ≤ op && op ≤ 0x7F then some 3
  else none

/-- The payload with the MAC bytes taken as zero (R444). -/
def macPayload (pl : List Byte) : List Byte := pl.take 32 ++ List.replicate 32 0 ++ pl.drop 64

/-- The MAC of a packet under a session key (R444). -/
def Packet.macOf (p : Packet) (key : List Byte) : List Byte :=
  (hmacSha512 key (leBytes 32 p.maskedHeader ++ macPayload p.payload)).take 32

/-- Operations whose packets carry a MAC on the management channel after the join: global memory requests and
answers, TIME, and the agent's messages but for JOIN_HELLO and JOIN_ACCEPT (R444, Table BOOT-8). -/
def opSealed (op : Nat) : Bool :=
  (0x10 ≤ op && op ≤ 0x12) || (0x90 ≤ op && op ≤ 0x92) || op = 0x70 || (0x73 ≤ op && op ≤ 0x77)

/-- Put the MAC into payload bytes 32 to 63. -/
def Packet.sealed (p : Packet) (key : List Byte) : Packet :=
  { p with payload := p.payload.take 32 ++ p.macOf key ++ p.payload.drop 64 }

/-- The packet's MAC verifies under a key. -/
def Packet.macGood (p : Packet) (key : List Byte) : Bool := slice p.payload 32 32 == p.macOf key

/-- The packet is defined and whole: operation, channel, reserved bits and CRC, and a payload of the length that LEN
says (R319, R320, R359). -/
def Packet.good (p : Packet) : Bool :=
  opChannel p.op.toNat p.chan.toNat = some p.chan.toNat && p.rsvd = 0 && p.crc = p.crcOf &&
    p.payload.length = 64 * (p.len.toNat + 1)

/-- The key of a packet. -/
def Packet.key (p : Packet) : Key := ⟨p.tag.toNat, p.epoch.toNat⟩

/-- A probe or its answer: the only packets that a port in QUARANTINE carries (Table FAB-2). -/
def Packet.isProbe (p : Packet) : Bool := p.op = 0x01 || p.op = 0x81

/-- A global memory request or answer. -/
def Packet.isGmem (p : Packet) : Bool := (0x10 ≤ p.op && p.op ≤ 0x12) || (0x90 ≤ p.op && p.op ≤ 0x92)

/-- The management agent has no use for the packet: a message that only a device sends, or a one-hop packet that came
by a route (Tables FAB-4, BOOT-8). -/
def Packet.useless (p : Packet) : Bool :=
  p.chan = 3 && ([0x01, 0x81, 0x71, 0x73, 0x76, 0x7C, 0x7D, 0x7E, 0x7F].contains p.op.toNat)

/-- The traffic class of a packet on its way to its home die (R22): management packets are control, global memory
requests and answers global memory, all others tile and Pail traffic. (log 80 DEDUCED) -/
def Packet.traffic (p : Packet) : Nat := if p.chan = 3 then 4 else if p.isGmem then 2 else 1

/-- A stream packet of the exchange. -/
def Packet.isStream (p : Packet) : Bool := p.op = 0x20 || p.op = 0xA0
/-- An end marker of the exchange. -/
def Packet.isMarker (p : Packet) : Bool := p.op = 0x21 || p.op = 0xA1

/-- The packet's slot (Table FAB-4). -/
def Packet.slotOf (p : Packet) : Nat := p.opword.toNat % 65536
/-- The packet's generation. -/
def Packet.genOf (p : Packet) : Nat := p.opword.toNat / 65536 % 65536

/-! ### A request's fields (Table GMEM-7) -/

/-- Global address of a request or answer block. -/
def Packet.gAddr (p : Packet) : Nat := field p.payload 0 8
/-- Its region. -/
def Packet.gRegion (p : Packet) : Nat := p.gAddr / 2 ^ 44 % 16
/-- Its offset. -/
def Packet.gOff (p : Packet) : Nat := p.gAddr % 2 ^ 44
/-- Its byte count: L, or the width of an atomic. -/
def Packet.gLen (p : Packet) : Nat :=
  if p.op = 0x12 then (if field p.payload 12 1 = 0 then 4 else 8) else field p.payload 8 4
/-- The bytes of a store. -/
def Packet.gData (p : Packet) : List Byte := slice p.payload 64 p.gLen

end Sys2Proof
end

