-- ==== Sys2Proof/Machine/EngineState.lean ====
section
/-! DEFINITION. The state of the die engines and of the exchange: Separators, Churn, capacity chain, exchange
slots in progress (R93, R171 to R192, R199 to R214). -/

namespace Sys2Proof.Machine

open Sys2Proof

/-! ### Separator (R174 to R184) -/

/-- One token after its selection: its copy, its row, the selected experts with their gate weights as F32
codes in rank order, whether it is degenerate, and the ac at which its selection ends. -/
structure SepTok where
  copy : Fin 4
  row : Nat
  picks : List (Nat × Nat)
  degenerate : Bool
  ready : Nat
  deriving DecidableEq, Repr

/-- One die-collective Separator instruction on a die, from its start to the end of its capacity stage. -/
structure SepRun where
  /-- Number of the instruction, counted on each die (R182). -/
  n : Nat
  hash : Bool
  layer : Nat
  experts : Nat
  shared : Nat
  /-- Issue numbers of the copies, none for a copy predicated off. -/
  seqs : List (Option Nat)
  /-- Token counts of the copies. -/
  counts : List Nat
  toks : List SepTok
  /-- Ac of its release. -/
  released : Nat
  /-- Invocation of its layer in the frame, counted from 0, at position 0; 0 elsewhere. -/
  inv : Nat
  deriving DecidableEq, Repr

/-- A capacity vector on its way to a die, with the ac of the sending die in which it left, or at a die, with that die's
ac of its arrival: instruction number, words, ac. -/
structure CapVector where
  n : Nat
  words : List Nat
  at_ : Nat
  deriving DecidableEq, Repr

/-- A capacity write-back in progress (R183). -/
structure WriteBack where
  layer : Nat
  frame : Nat
  /-- Invocations of the layer in the frame, this one included. -/
  invs : Nat
  /-- Ac of die 11 in the chain in which it begins, and its length on the path. -/
  at_ : Nat
  hop : Nat
  deriving DecidableEq, Repr

/-- The Separator of a die. -/
structure SepDie where
  /-- Instructions started on this die. -/
  started : Nat
  /-- Started instructions whose capacity stage has not ended, oldest first. -/
  runs : List SepRun
  /-- Ac of the end of the last selection stage and of the last own capacity stage. -/
  selEnd : Nat
  capEnd : Nat
  /-- A vector sent and not yet arrived; a vector that has arrived and waits. -/
  coming : List CapVector
  arrived : List CapVector
  writeBacks : List WriteBack
  /-- Capacity stages whose times are known: LAYER, and the ac in which it starts and in which it ends. -/
  stages : List (Nat × Nat × Nat)
  deriving DecidableEq, Repr

/-- An idle Separator. -/
def SepDie.empty : SepDie := ⟨0, [], 0, 0, [], [], [], []⟩

/-- Invocations of a layer in this frame: started at position 0, written back, and the unit of the last
write-back's end (R183). -/
structure LayerInv where
  layer : Nat
  started : Nat
  ended : Nat
  endAt : Nat
  deriving DecidableEq, Repr

/-! ### Churn (R199 to R202) -/

/-- One copy of a CHURN.SORT that waits for its Pails: the records of each destination rank in ascending
rank, with the bucket of the first, and the handles received so far. -/
structure ChurnCopy where
  copy : Fin 4
  seq : Nat
  lists : List (Nat × Nat × List Nat)
  handles : List Nat
  deriving DecidableEq, Repr

/-- A CHURN.SORT in progress on a die. -/
structure ChurnRun where
  layer : Nat
  copies : List ChurnCopy
  /-- Ac of its start and its work. -/
  start : Nat
  work : Nat
  deriving DecidableEq, Repr

/-! ### Exchange (R203 to R214) -/

/-- A row that has been received: its record, its sender's rank, its generation. -/
structure XchRow where
  record : Nat
  rank : Nat
  gen : Nat
  deriving DecidableEq, Repr

/-- A row held in a landing Pail: the Pail and the offset of its unit (R208). -/
structure Landed where
  row : XchRow
  pail : Nat
  off : Nat
  deriving DecidableEq, Repr

/-- A filled host row: local index and expert row (R195), and what arrived for it. -/
structure HostRow where
  li : Nat
  k : Nat
  row : XchRow
  deriving DecidableEq, Repr

/-- A unit that waits to be sent: rank, generation, record and row bytes (R322). -/
structure XchUnit where
  rank : Nat
  gen : Nat
  bytes : List Byte
  deriving DecidableEq, Repr

/-- The host's side of one slot invocation. The invocations of a slot are numbered in the order of their dispatch
frames. -/
structure XchHost where
  slot : Nat
  n : Nat
  /-- Ranks whose delivery end marker has arrived. -/
  markers : List Nat
  /-- Units taken from each rank's stream. -/
  seen : Sparse Nat
  filled : List HostRow
  landed : List Landed
  /-- Cores whose XCH.RECV has been released, whose XCH.RECV has retired, and whose XCH.RETURN has. -/
  opened : List Nat
  recvd : List Nat
  returned : List Nat
  /-- Return units that wait for the slot's last XCH.RETURN, and whether the return streams have gone out. -/
  units : List XchUnit
  answered : Bool
  deriving DecidableEq, Repr

/-- An accepted entry of a selection list: expert, slot, token row, entry rank. -/
structure Accepted where
  x : Nat
  k : Nat
  m : Nat
  j : Nat
  deriving DecidableEq, Repr

/-- What a copy's CHURN.SORT found in its selection list: token count, K, and the accepted entries. -/
structure CopyRoute where
  core : Nat
  layer : Nat
  tokens : Nat
  topk : Nat
  accepted : List Accepted
  deriving DecidableEq, Repr

/-- One core's part in a slot invocation on the sender's side. -/
structure SendPart where
  core : Nat
  /-- Generation of its XCH.DISPATCH, none where that was predicated off. -/
  gen : Option Nat
  route : CopyRoute
  /-- The records that it sent: their rows come back to it (R212). -/
  sent : List Nat
  deriving DecidableEq, Repr

/-- The sender's side of one slot invocation, numbered as on the host's side. -/
structure XchSend where
  slot : Nat
  n : Nat
  parts : List SendPart
  /-- Cores whose XCH.DISPATCH has retired. -/
  dispatched : List Nat
  units : List XchUnit
  /-- Ranks whose return end marker has arrived, and units taken from each rank's return stream. -/
  markers : List Nat
  seen : Sparse Nat
  /-- Combine rows returned, as (core, row). -/
  done : List (Nat × Nat)
  landed : List Landed
  /-- Cores whose XCH.COMBINE has been released, and has retired. -/
  opened : List Nat
  combined : List Nat
  deriving DecidableEq, Repr

/-- A landing Pail in use: its slot, direction and handle, the rows placed in it and the rows it holds. -/
structure LandPail where
  slot : Nat
  ret : Bool
  handle : Nat
  placed : Nat
  held : Nat
  deriving DecidableEq, Repr

/-- Bytes of a stream that do not yet make a unit, with the generation of the packet each unit would begin
in, by sending node and direction, with the slot of the stream (R322). -/
structure Partial where
  node : Nat
  ret : Bool
  slot : Nat
  gen : Nat
  bytes : List Byte
  deriving DecidableEq, Repr

/-- End markers taken so far from a rank for a slot, in one direction: the next stream of that rank belongs to the
invocation of that number (R205, R206). -/
structure XchMarks where
  slot : Nat
  ret : Bool
  rank : Nat
  count : Nat
  deriving DecidableEq, Repr

/-- The exchange engines. -/
structure Xch where
  hosts : List XchHost
  sends : List XchSend
  routes : List CopyRoute
  pails : List LandPail
  partials : List Partial
  marks : List XchMarks
  /-- Live generations, none where the job has no herd table: then every one is live (R213). -/
  live : Option (List Nat)
  deriving DecidableEq, Repr

/-- Nothing in progress. -/
def Xch.empty : Xch := ⟨[], [], [], [], [], [], none⟩

/-! ### Global memory (R285 to R312) -/

/-- Who made a request. -/
inductive GOwner where
  /-- A core's instruction: its entry number, its window, and the first of its bytes that the request carries. -/
  | core (c seq win off : Nat)
  /-- The TIER engine: object and byte offset within it. -/
  | tier (obj off : Nat)
  /-- The management agent; a load's tag. -/
  | agent (tag : Option Nat)
  /-- An image in the making: kind 1 Cellar or 2 Whey, frame, object and byte offset within it (R396, R399). -/
  | image (kind frame obj off : Nat)
  /-- A restore whose bytes go to a loan (R403). -/
  | restored
  deriving DecidableEq, Repr

/-- A request of this device that has not been answered (R295, R296, R304). `op` is 0 load, 1 store, 2 atomic. -/
structure GReq where
  mgmt : Bool
  node : Nat
  seq : Nat
  owner : GOwner
  op : Nat
  addr : Nat
  len : Nat
  data : List Byte
  aop : Nat
  sa : Nat
  sb : Nat
  retry : Nat
  /-- Counts of its first and of its latest sending. -/
  first : Nat
  sentAt : Nat
  /-- The frame in which its cause issued (R378). -/
  frame : Nat
  deriving DecidableEq, Repr

/-- The next number toward a destination (R296). -/
structure GNext where
  mgmt : Bool
  node : Nat
  next : Nat
  deriving DecidableEq, Repr

/-- What a target keeps of a source under a key: the number it expects, and held requests (R296, R297). -/
structure GSource where
  key : Key
  node : Nat
  expect : Nat
  held : List Packet
  deriving DecidableEq, Repr

/-- A replay cache entry (R302). -/
structure Replay where
  node : Nat
  seq : Nat
  old : Nat
  frame : Nat
  deriving DecidableEq, Repr

/-- A window change that waits for its frame (R291). -/
structure WinChange where
  win : Nat
  entry : Nat
  frame : Nat
  deriving DecidableEq, Repr

/-- The GMEM unit. -/
structure Gmem where
  reqs : List GReq
  nexts : List GNext
  /-- The number of a core's latest store or atomic to a node, as (core, node, number) (R301). -/
  lasts : List (Nat × Nat × Nat)
  sources : List GSource
  cache : List Replay
  /-- The window table in effect, by window: 128-bit entries (Table GMEM-2). -/
  windows : Sparse Nat
  changes : List WinChange
  /-- The cc from which an instruction has waited for room (R295). -/
  waitFrom : Option Nat
  /-- The tag of the next management load (R307), and cancelled loads whose answers may come, as (node, number). -/
  tag : Nat
  cancelled : List (Nat × Nat)
  faultAddr : Nat
  /-- The cc in which the latest request was taken, and its source (R299). -/
  latest : Nat × Nat
  deriving DecidableEq, Repr

/-- Nothing outstanding. -/
def Gmem.empty : Gmem := ⟨[], [], [], [], [], [], [], none, 0, [], 0, (0, 0)⟩

/-! ### The herd builder (R232 to R249) -/

/-- A listed row: core, row of the core, herd slot, position, whether it emits. -/
structure HerdRow where
  core : Nat
  row : Nat
  slot : Nat
  pos : Nat
  emits : Bool
  deriving DecidableEq, Repr

/-- A batch that has been listed and not collected. -/
structure HerdBatch where
  frame : Nat
  rows : List HerdRow
  deriving DecidableEq, Repr

/-- The open procedure of a frame while intake records remain to be taken (R237). -/
structure HerdOpen where
  /-- Intake records still to be taken, oldest first, and whether the front CHANGE has been done in part. -/
  todo : List (List Byte)
  taken : Nat
  collected : Nat
  /-- Output records so far. -/
  recs : List (List Byte)
  /-- Output consumer index read at the boundary. -/
  outCons : Nat
  deriving DecidableEq, Repr

/-- The herd builder. -/
structure Herd where
  age : Nat
  inCons : Nat
  outProd : Nat
  batches : List HerdBatch
  opening : Option HerdOpen
  /-- The open of the running frame waits for its stream (R380). -/
  waits : Bool
  /-- The collection on entry to DRAINING waits for the open in progress, or for its stream (R248, R380). -/
  drains : Bool
  /-- The frame whose work list is complete. -/
  built : Option Nat
  deriving DecidableEq, Repr

/-- No herd table. -/
def Herd.empty : Herd := ⟨0, 0, 0, [], none, false, false, none⟩

/-! ### Collectives (R344 to R363) -/

/-- A report at the root: list position of its member and what Table COLL-6 carries. -/
structure CollReport where
  pos : Nat
  hash : Nat
  frame : Nat
  mismatch : Bool
  received : Bool
  deriving DecidableEq, Repr

/-- A stream into an invocation: list position of its sender, bytes that have arrived, and whether its end
marker has. -/
structure CollKid where
  pos : Nat
  got : Nat
  ended : Bool
  deriving DecidableEq, Repr

/-- An invocation on this member (R348). -/
structure CollInv where
  desc : Nat
  n : Nat
  /-- 1 started, 2 committed, 3 aborted. -/
  state : Nat
  frame : Nat
  hash : Nat
  mismatch : Bool
  /-- Mask cores with the entry numbers of their instructions. -/
  seqs : List (Nat × Nat)
  tiles : Nat
  /-- The next tile to be combined, or forwarded. -/
  next : Nat
  kids : List CollKid
  /-- Stream bytes that do not yet fill a packet. -/
  out : List Byte
  /-- Bytes the engine has read, and has written or sent (R360). -/
  bytesIn : Nat
  bytesOut : Nat
  /-- The root's items (R353): its deadline, the reports, the staged result, sample records as (position,
  (element, exact value)), and the check with its outcome. -/
  deadline : Nat
  reports : List CollReport
  staged : Bool
  samples : List (Nat × List (Nat × Nat))
  check : Option Bool
  /-- The staged result, and the check, were complete at or after the deadline and have been counted late. -/
  lateStage : Bool
  lateCheck : Bool
  /-- The decision, the members that have not acknowledged it, and the count of its last sending. -/
  code : Nat
  cause : Nat
  unacked : List Nat
  tokenAt : Nat
  deriving DecidableEq, Repr

/-- The collective engines. -/
structure Coll where
  /-- The invocations, oldest first: of each descriptor the latest, and at its root those whose decision some member has
  not acknowledged (R354). -/
  invs : List CollInv
  /-- Packets of invocations that have not started here, with the counts of their arrival (R353). -/
  waiting : List (Packet × Nat)
  /-- Tokens applied before their invocation started, as (descriptor, invocation). -/
  early : List (Nat × Nat)
  /-- The cc from which an invocation has waited (R348). -/
  waitFrom : Option Nat
  deriving DecidableEq, Repr

/-- Nothing in progress. -/
def Coll.empty : Coll := ⟨[], [], [], none⟩

/-! ### Twin (R373 to R384) -/

/-- A hashed write (R378): stream, frame, space code, die, core, offset, bytes, and which of them are written. -/
structure LsWrite where
  stream : Nat
  frame : Nat
  space : Nat
  die : Nat
  core : Nat
  off : Nat
  bytes : List Byte
  /-- Empty where every byte is written. -/
  mask : List Bool
  deriving DecidableEq, Repr

/-- A granule record (R380): offset, space, die and core packed, and the granule's hash. -/
structure Granule where
  place : Nat
  hash : Nat
  deriving DecidableEq, Repr

/-- A stream in one frame (R379): granules of the open chunk, hashes of the closed chunks, and the sum of an
unordered stream. -/
structure LsStream where
  id : Nat
  frame : Nat
  open_ : List Granule
  hashes : List Nat
  sum : Nat
  deriving DecidableEq, Repr

/-- A closed chunk of an ordered stream. -/
structure LsChunk where
  stream : Nat
  frame : Nat
  index : Nat
  hash : Nat
  grains : List Granule
  deriving DecidableEq, Repr

/-- The twin link's pair state and lock-step comparison (R373 to R385). -/
structure Twin where
  /-- The twin's mode, node number and job state from its last timestamp block (R374). -/
  peer : Option (Nat × Nat × Nat)
  /-- The stream and frame to which the writes being made belong. -/
  who : Option (Nat × Nat)
  /-- Hashed writes not yet cut into granules. -/
  log : List LsWrite
  streams : List LsStream
  /-- Chunks that the twin has not confirmed, and chunk hashes of the twin that came first; the granule lists of
  the latter are empty. -/
  chunks : List LsChunk
  early : List LsChunk
  /-- Own frame digests, and the twin's that came first, as (frame, stream, digest). -/
  mine : List (Nat × Nat × Nat)
  theirs : List (Nat × Nat × Nat)
  /-- Frames below this one have had their digests sent. -/
  digested : Nat
  /-- The bytes of the twin's arm record (R377), none before one. -/
  peerArm : List Byte
  /-- Streams that hold their engine, with the unit at which the hold began (R380). -/
  holds : List (Nat × Nat)
  /-- The twin link has left UP since the last frame close of the job (R382). -/
  linkLost : Bool
  /-- The divergence record and the twin's (Table TWIN-5, R385). -/
  record : Nat
  peerRecord : Nat
  deriving DecidableEq, Repr

/-- No twin heard of. -/
def Twin.empty : Twin := ⟨none, none, [], [], [], [], [], [], 0, [], [], false, 0, 0⟩

/-! ### Snapshots and the mirror (R393 to R411) -/

/-- A piece of an object in a loan that an image in the making still lacks: object, byte offset, bytes, and the lender's
node and global address (R396). -/
structure LoanPiece where
  obj : Nat
  off : Nat
  len : Nat
  node : Nat
  addr : Nat
  deriving DecidableEq, Repr

/-- What an image of a frame holds (R393): frame, the quiet and Cellar clean flags, the last completed cut frame, the
job state block, and the objects with their bytes. -/
structure ImageParts where
  frame : Nat
  quiet : Bool
  clean : Bool
  lastCut : Option Nat
  job : List Byte
  objs : List (Nat × List Byte)
  /-- Pieces of objects in loans that have yet to be requested, and those requested and not answered. -/
  loans : List LoanPiece
  open_ : Nat
  deriving DecidableEq, Repr

/-- A Whey image that has not been committed (R399 to R401): its parts, whether its quiet flag is known, and whether
it belongs to a cut. -/
structure MirrorRun where
  parts : ImageParts
  tested : Bool
  cut : Bool
  deriving DecidableEq, Repr

/-- Restored bytes of a page in a loan that have yet to be stored there: the lender's node, its global address and the
bytes (R403). -/
structure LoanStore where
  node : Nat
  addr : Nat
  bytes : List Byte
  deriving DecidableEq, Repr

/-- The SNAP and mirror engines. -/
structure Snap where
  nvmeUp : Bool
  /-- The area of the current or last cut. -/
  area : Nat
  clean : Bool
  /-- The job has written a Cellar object since the last cut was taken. -/
  dirty : Bool
  lastCut : Option Nat
  /-- Bytes copied by the current or last cut. -/
  copied : Nat
  /-- Transfers of 128 KiB that the copy has still to make, by their number behind the header's block, the one in flight
  first (R396). -/
  left : List Nat
  /-- The cut frame that was judged last (R395). -/
  judged : Option Nat
  /-- The Cellar copy in progress. -/
  run : Option ImageParts
  /-- Its data are flushed, and its header is being written (R396). -/
  flushed : Bool
  /-- Admin commands of the controller's initialisation that have not completed (R398). -/
  init : List NvmeCmd
  /-- Pages and granules that held writes have had copied ahead of their turn, as (0 or frame + 1, object, number), and
  how many writes have been held (R396, R399). -/
  early : List (Nat × Nat × Nat)
  holds : Nat
  mirrors : List MirrorRun
  /-- Frames that the local banks hold, and the banks held for the twin. -/
  banks : List (Option Nat)
  rxBanks : List (Option Nat)
  restoring : Bool
  /-- A read of host memory by the restore has failed (R454). -/
  readFailed : Bool
  /-- The resume frame and the job state block of a restored job. -/
  resume : Option Nat
  job : List Byte
  /-- Slot and sequence id of each herd slot whose KV object was not restored (R404). -/
  lost : List (Nat × Nat)
  /-- Restored bytes that wait for the launch count, from which the lenders' answers are the job's (R331, R403). -/
  stores : List LoanStore
  deriving DecidableEq, Repr

/-- Nothing kept, nothing in progress. -/
def Snap.empty : Snap :=
  ⟨false, 0, false, false, none, 0, [], none, none, false, [], [], 0, [], [none, none, none], [none, none, none], false, false, none, [], [], []⟩

end Sys2Proof.Machine
end

