-- ==== Sys2Proof/Machine/State.lean ====
section
/-! DEFINITION. The state of the device and the machine right after reset. -/

namespace Sys2Proof.Machine

open Sys2Proof

/-- A register file, keyed by field, instance and index; an unlisted key reads as the field's reset value. -/
abbrev RegFile := Sparse Nat

/-- The device: everything but time and the queue of waiting commands. -/
structure Dev where
  order : Order
  /-- Stored register fields. -/
  regs : RegFile
  /-- Running counts, latched into `regs` at a close or summary period. -/
  acc : RegFile
  ctl : Ctl
  start : Start
  sync : Sync
  job : Job
  /-- The admitted object, from ADMITTED until TORN. -/
  image : Option Image
  frame : Frame
  cores : Vector Core 48
  mem : Mem
  sep : Vector SepDie 12
  layerInv : List LayerInv
  churn : Vector (Option ChurnRun) 12
  pail : Pail
  xch : Xch
  tier : Tier
  gmem : Gmem
  herd : Herd
  coll : Coll
  fab : Fab
  twin : Twin
  snap : Snap
  sec : Sec
  host : HostIf
  pwr : Pwr
  out : OutBox
  /-- Work of this frame counted outside the cores, by engine identifier (R47). -/
  work : Sparse Nat
  /-- Free values drawn so far. -/
  free : Nat
  /-- Rate adjustments drawn so far (R34). -/
  rates : Nat
  /-- The fields of masters that the device itself has set or loaded in the control cycle of the last master's write, by
their keys (R417). -/
  updated : List Nat
  deriving DecidableEq, Repr

/-- A device on which nothing has happened, held in reset: memories with nothing listed, every register at its reset
value. (log 9 DESIGN CHOICE) -/
def Dev.blank (o : Order) : Dev where
  order := o
  regs := []
  acc := []
  ctl := Ctl.empty
  start := Start.held
  sync := Sync.unset
  job := Job.idle
  image := none
  frame := Frame.none_
  cores := Vector.replicate 48 Core.empty
  mem := Mem.empty
  sep := Vector.replicate 12 SepDie.empty
  layerInv := []
  churn := Vector.replicate 12 none
  pail := Pail.empty
  xch := Xch.empty
  tier := Tier.empty
  gmem := Gmem.empty
  herd := Herd.empty
  coll := Coll.empty
  fab := Fab.cold
  twin := Twin.empty
  snap := Snap.empty
  sec := Sec.empty
  host := HostIf.empty
  pwr := Pwr.empty
  out := OutBox.empty
  work := []
  free := 0
  rates := 0
  updated := []

/-- The machine: the queue of waiting commands, first in first out, device time, and the device. -/
structure State where
  pending : List Instr
  clk : Clock
  dev : Dev
  deriving DecidableEq, Repr

/-- The machine right after reset: a device of the code NDK-M20F6 on which nothing has happened, time at zero, no
command waiting. (log 1 DESIGN CHOICE, 8 DESIGN CHOICE) -/
def State.reset : State := ⟨[], ⟨0, 0, 0, 0⟩, Dev.blank .m20f6⟩

/-- Faults. The device has none: an exceptional event is an effect on `Dev` (a run fault moves the job to
FAULTED), so no meaning raises one. `unmapped` is kept for an access outside every memory, which no command
of this model makes; raising it would be safe. (log 73 DESIGN CHOICE) -/
inductive Fault where
  | unmapped
  deriving DecidableEq, Repr

/-- Refusals. `notModelled` names a command that has no meaning yet; safe. (log 73 DESIGN CHOICE) -/
inductive Refusal where
  | notModelled (mnemonic : String)
  deriving DecidableEq, Repr

/-- The result of a command. -/
abbrev Result := Host.Outcome State Fault Refusal

end Sys2Proof.Machine
end

