-- ==== Sys2Proof/Machine/Ops.lean ====
section
/-! DEFINITION. The named operations over registers, memories, the job's life cycle and the outside, which
every meaning uses. -/

namespace Sys2Proof.Machine

open Sys2Proof

/-! ### Registers -/

/-- The key of a field in the register file. -/
def regKey (f : Fld) (inst idx : Nat) : Nat := (f.num * 128 + inst) * 64 + idx

/-- Width in bits of a field. -/
def Fld.width (f : Fld) : Nat := f.row.hi + 1 - f.row.lo

/-- A stored register field. (log 11 DEDUCED) -/
def Dev.rd (d : Dev) (f : Fld) (inst : Nat := 0) (idx : Nat := 0) : Nat :=
  Sparse.get d.regs f.row.reset (regKey f inst idx)

/-- Write a stored register field, cut to its width. (log 11 DEDUCED) -/
def Dev.wr (d : Dev) (f : Fld) (v : Nat) (inst : Nat := 0) (idx : Nat := 0) : Dev :=
  { d with regs := Sparse.set d.regs f.row.reset (regKey f inst idx) (v % 2 ^ f.width) }

/-- The device updates a field that masters write too: no write of this control cycle undoes it (R417). -/
def Dev.noteUpdate (d : Dev) (f : Fld) (inst : Nat := 0) (idx : Nat := 0) : Dev :=
  { d with updated := if d.updated.contains (regKey f inst idx) then d.updated else d.updated ++ [regKey f inst idx] }

/-- The device sets a one-bit field. -/
def Dev.flag (d : Dev) (f : Fld) (inst : Nat := 0) (idx : Nat := 0) : Dev := (d.wr f 1 inst idx).noteUpdate f inst idx

/-- Add to a stored counter that saturates at its largest value. -/
def Dev.bump (d : Dev) (f : Fld) (n : Nat := 1) (inst : Nat := 0) (idx : Nat := 0) : Dev :=
  d.wr f (min (d.rd f inst idx + n) (2 ^ f.width - 1)) inst idx

/-- The running count of a latched counter. (log 11 DEDUCED) -/
def Dev.running (d : Dev) (f : Fld) (inst : Nat := 0) (idx : Nat := 0) : Nat :=
  Sparse.get d.acc 0 (regKey f inst idx)

/-- Set the running count of a latched field. -/
def Dev.setRunning (d : Dev) (f : Fld) (v : Nat) (inst : Nat := 0) (idx : Nat := 0) : Dev :=
  { d with acc := Sparse.set d.acc 0 (regKey f inst idx) v }

/-- Count `n` in a latched counter; it saturates at its largest value (R133 and the like). -/
def Dev.count (d : Dev) (f : Fld) (n : Nat := 1) (inst : Nat := 0) (idx : Nat := 0) : Dev :=
  d.setRunning f (min (d.running f inst idx + n) (2 ^ f.width - 1)) inst idx

/-- Keep the largest value seen in a latched field. -/
def Dev.peak (d : Dev) (f : Fld) (v : Nat) (inst : Nat := 0) (idx : Nat := 0) : Dev :=
  d.setRunning f (max (d.running f inst idx) (min v (2 ^ f.width - 1))) inst idx

/-- Fields by their numbers, for the latch. -/
def allFlds : List Fld :=
  fldsHub ++ fldsTick ++ fldsJob ++ fldsCore ++ fldsSep ++ fldsPail ++ fldsTier ++ fldsGmem ++ fldsFab ++
  fldsColl ++ fldsTwin ++ fldsSnap ++ fldsSec ++ fldsHostif ++ fldsPwr ++ fldsCommon

/-- The numbers of the fields of the given kinds. -/
def kindNums (ks : List FldKind) : List Nat := (allFlds.filter fun f => ks.contains f.row.kind).map Fld.num

/-- Reload every latched field of the given kinds from its running count, and clear the counts
(R41, R341, R425). Latched fields reset to 0. -/
def Dev.latch (d : Dev) (ks : List FldKind) : Dev :=
  let ns := kindNums ks
  let mine := fun (e : Nat × Nat) => ns.contains (e.1 / 8192)
  { d with
    regs := (d.acc.filter mine).foldl (fun r e => Sparse.set r 0 e.1 e.2) (d.regs.filter fun e => !mine e)
    acc := d.acc.filter fun e => !mine e }

/-- Forget the running counts of the given kinds: those of a frame that never closed are in no later one (R133, R154,
R170). -/
def Dev.dropCounts (d : Dev) (ks : List FldKind) : Dev :=
  let ns := kindNums ks
  { d with acc := d.acc.filter fun e => !ns.contains (e.1 / 8192) }

/-- The number a pair of LO and HI fields holds (R419). -/
def Dev.rd64 (d : Dev) (lo hi : Fld) : Nat := d.rd lo + d.rd hi * 2 ^ 32

/-- Write a pair of LO and HI fields. -/
def Dev.wr64 (d : Dev) (lo hi : Fld) (v : Nat) : Dev := (d.wr lo (v % 2 ^ 32)).wr hi (v / 2 ^ 32)

/-! ### Memories -/

/-- Bytes of a location: 48 MiB, 32 MiB, and the stacks of device HBM (R2). -/
def Dev.locRead (d : Dev) (l : Loc) (a n : Nat) : List Byte :=
  match l with
  | .tile c => d.mem.tile[c].readN a n
  | .die x => d.mem.die[x].readN a n
  | .hbm => d.mem.hbm.readN a n

/-- Note a write of the stream now writing (R378). -/
def Dev.noteWrite (d : Dev) (space die core a : Nat) (bs : List Byte) (mask : List Bool := []) : Dev :=
  match d.twin.who with
  | none => d
  | some (s, f) => { d with twin := { d.twin with log := d.twin.log ++ [⟨s, f, space, die, core, a, bs, mask⟩] } }

/-- The job runs under lock-step comparison (R376, R377). -/
def Dev.lockstep (d : Dev) : Bool :=
  (d.image.bind fun m => m.form.twin).any (·.1 = 2) && (d.job.phase = .running || d.job.phase = .draining)

/-- Writes that belong to a stream, in the frame of their cause (R378). -/
def Dev.hashed (d : Dev) (stream frame : Nat) (f : Dev → Dev) : Dev :=
  if d.lockstep then
    let e := f { d with twin := { d.twin with who := some (stream, frame) } }
    { e with twin := { e.twin with who := none } }
  else f d

/-- Write bytes to a location; a written byte is no longer poisoned. -/
def Dev.locWrite (d : Dev) (l : Loc) (a : Nat) (bs : List Byte) (mask : List Bool := []) : Dev :=
  let inside := fun (x : Nat) => !(a ≤ x && x < a + bs.length)
  let d := match l with
    | .tile c => d.noteWrite 0 (c.val / 4) c a bs mask
    | .die x => d.noteWrite 1 x 0 a bs mask
    | .hbm => d.noteWrite 2 0 0 a bs mask
  match l with
  | .tile c => { d with mem := { d.mem with
      tile := d.mem.tile.set c (d.mem.tile[c].writeN a bs)
      poisonTile := d.mem.poisonTile.filter fun x => !(x / 2 ^ 26 == c.val && !inside (x % 2 ^ 26)) } }
  | .die y => { d with mem := { d.mem with
      die := d.mem.die.set y (d.mem.die[y].writeN a bs)
      poisonDie := d.mem.poisonDie.filter fun x => !(x / 2 ^ 26 == y.val && !inside (x % 2 ^ 26)) } }
  | .hbm => { d with mem := { d.mem with
      hbm := d.mem.hbm.writeN a bs
      poisonHbm := d.mem.poisonHbm.filter inside } }

/-- The first poisoned byte of a range of a location, if any (R386). (log 71 DESIGN CHOICE) -/
def Dev.poisoned (d : Dev) (l : Loc) (a n : Nat) : Option Nat :=
  match l with
  | .tile c => (d.mem.poisonTile.find? fun x => x / 2 ^ 26 == c.val && a ≤ x % 2 ^ 26 && x % 2 ^ 26 < a + n).map
      (· % 2 ^ 26)
  | .die y => (d.mem.poisonDie.find? fun x => x / 2 ^ 26 == y.val && a ≤ x % 2 ^ 26 && x % 2 ^ 26 < a + n).map
      (· % 2 ^ 26)
  | .hbm => d.mem.poisonHbm.find? fun x => a ≤ x && x < a + n

/-- A device HBM offset lies on a present stack: 80,000,000,000 bytes at each multiple of 2^37 (R2, R266). -/
def Dev.hbmOk (d : Dev) (a : Nat) : Bool := a / 2 ^ 37 < d.order.hbmStacks && a % 2 ^ 37 < 80000000000

/-- A range of device HBM lies on one present stack. -/
def Dev.hbmRange (d : Dev) (a n : Nat) : Bool :=
  d.hbmOk a && a % 2 ^ 37 + n ≤ 80000000000

/-- The first device HBM offset of a pool page (R267). -/
def Dev.poolPage (d : Dev) (p : Nat) : Nat :=
  match d.image.bind fun m => m.form.tier with
  | none => 0
  | some t => p % d.order.hbmStacks * 2 ^ 37 + t.pool + p / d.order.hbmStacks * 2 ^ 21

/-- The device HBM offset behind a byte offset, aperture offsets going through the page map; none where
nothing is mapped (R264, R266). -/
def Dev.phys (d : Dev) (a : Nat) : Option Nat :=
  if a < 2 ^ 43 then (if d.hbmOk a then some a else none)
  else if a < 2 ^ 44 then
    let pg := (a - 2 ^ 43) / 2 ^ 21
    match d.tier.objs.find? fun o => o.movable && o.first ≤ pg && pg < o.first + o.pages with
    | none => none
    | some o =>
      if o.tier = 1 then (o.pool[pg - o.first]?).map fun p => d.poolPage p + a % 2 ^ 21 else none
  else none

/-- The device HBM offsets of a byte range, page by page, each with its length; none where some byte is
not mapped. -/
def Dev.physRuns (d : Dev) : Nat → Nat → Nat → Option (List (Nat × Nat))
  | 0, _, n => if n = 0 then some [] else none
  | fuel + 1, a, n =>
    if n = 0 then some []
    else
      let step := min n (2 ^ 21 - a % 2 ^ 21)
      match d.phys a, d.phys (a + step - 1), d.physRuns fuel (a + step) (n - step) with
      | some p, some _, some t => some ((p, step) :: t)
      | _, _, _ => none

/-- The runs of a range of at most 2^43 bytes. -/
def Dev.hbmRuns (d : Dev) (a n : Nat) : Option (List (Nat × Nat)) := d.physRuns (n / 2 ^ 21 + 2) a n

/-- Read a range of device HBM offsets, aperture included. -/
def Dev.hbmRead (d : Dev) (a n : Nat) : List Byte :=
  match d.hbmRuns a n with
  | none => List.replicate n 0
  | some rs => rs.flatMap fun r => d.mem.hbm.readN r.1 r.2

/-- Write bytes run by run. -/
def Dev.hbmWriteRuns (d : Dev) (rs : List (Nat × Nat)) (bs : List Byte) (mask : List Bool) : Dev :=
  match rs with
  | [] => d
  | r :: t => Dev.hbmWriteRuns (d.locWrite .hbm r.1 (bs.take r.2) (mask.take r.2)) t (bs.drop r.2) (mask.drop r.2)

/-- A stretch of memory under which bytes of an object are reached: location, first byte, offset within the object and
length. -/
structure Stretch where
  loc : Loc
  first : Nat
  off : Nat
  len : Nat
  deriving DecidableEq, Repr

/-- The part of a range that lies in a stretch, as the offset within the object and the length; none where they do not
meet. -/
def Stretch.part (x : Stretch) (l : Loc) (a n : Nat) : Option (Nat × Nat) :=
  let lo := max a x.first
  let hi := min (a + n) (x.first + x.len)
  if x.loc = l && lo < hi then some (lo - x.first + x.off, hi - lo) else none

/-- The home of a fixed object: a die buffer in tier 0, device HBM in tier 1 (R265). -/
def ObjEntry.fixedAt (e : ObjEntry) : Loc × Nat := if e.tier = 0 then (.die (Fin.ofNat 12 e.die), e.home0) else (.hbm, e.hbm)

/-- The memory under which an object is reached: a fixed one at its home, a movable one through its aperture and at its
home in tier 0 or 1 (R264, R266). -/
def Dev.objectAt (d : Dev) (i : Nat) (e : ObjEntry) : List Stretch :=
  if !e.movable then [⟨e.fixedAt.1, e.fixedAt.2, 0, e.size⟩]
  else
    match d.tier.objs[i]? with
    | none => []
    | some o => ⟨.hbm, 2 ^ 43 + o.first * 2 ^ 21, 0, e.size⟩ ::
      match o.tier with
      | 0 => [⟨.die (Fin.ofNat 12 o.die), o.home0, 0, e.size⟩]
      | 1 => o.pool.zipIdx.map fun (p, j) => ⟨.hbm, d.poolPage p, j * 2 ^ 21, min (2 ^ 21) (e.size - j * 2 ^ 21)⟩
      | _ => []

/-- The parts of an object that a range of memory meets, each with its offset and length. -/
def Dev.metParts (d : Dev) (i : Nat) (e : ObjEntry) (l : Loc) (a n : Nat) : List (Nat × Nat) :=
  (d.objectAt i e).filterMap fun x => x.part l a n

/-- Bytes of the job state block (Table REC-7). -/
def jobBlockBytes : Nat := 2269184

/-- Offsets in bytes of the objects of an image, and its length (R393). -/
def imageLayout (objs : List (Nat × List Byte)) : Nat × List Nat × Nat :=
  let at_ := roundUp (256 + 64 * objs.length) 4096
  let (offs, len) := objs.foldl (fun (l, o) x => (l ++ [o], roundUp (o + x.2.length) 4096)) ([], at_ + jobBlockBytes)
  (at_, offs, len)

/-- The units of `g` bytes that a range meets. -/
def unitsMet (g a n : Nat) : List Nat := if n = 0 then [] else List.range' (a / g) ((a + n - 1) / g - a / g + 1)

/-- A job engine's write is held by a copy that has not read what it changes: a page of 2 MiB for a Cellar copy, a
granule for a Whey image, each read next. (log 50 DEDUCED) -/
def Dev.holdAt (d : Dev) (keys : List (Nat × Nat × Nat)) : Dev :=
  keys.foldl (fun d key =>
    if d.snap.early.contains key then d
    else
      let d := d.count .snapHold (Config.holdCc d.snap.holds)
      { d with snap := { d.snap with early := d.snap.early ++ [key], holds := d.snap.holds + 1 } }) d

/-- Bytes of one transfer of a copy (R398). -/
def transferBytes : Nat := 131072

/-- The transfers that bring page `j` of object `i` of an image, which has `size` bytes. -/
def ImageParts.transfers (p : ImageParts) (i size j : Nat) : List Nat :=
  match ((p.objs.zip (imageLayout p.objs).2.1).find? fun x => x.1.1 = i).map (·.2) with
  | none => []
  | some o => unitsMet transferBytes (o + j * 2 ^ 21 - 4096) (min (2 ^ 21) (size - j * 2 ^ 21))

/-- The copy makes some transfers next, behind the one in flight (R396). -/
def Snap.copyNext (s : Snap) (cs : List Nat) : Snap :=
  match s.left with
  | [] => s
  | c :: rest => { s with left := c :: ((rest.filter cs.contains) ++ rest.filter fun x => !cs.contains x) }

/-- The pages and granules of a part of an object that no copy has read (R396, R399). -/
def Dev.unread (d : Dev) (i : Nat) (e : ObjEntry) (off n : Nat) : List (Nat × Nat × Nat) :=
  if e.survival = 1 then
    match d.snap.run with
    | none => []
    | some p =>
      ((unitsMet (2 ^ 21) off n).filter fun j => (p.transfers i e.size j).any d.snap.left.contains).map fun j => (0, i, j)
  else if e.survival = 2 then
    d.snap.mirrors.flatMap fun m => (unitsMet 64 off n).map fun j => (m.parts.frame + 1, i, j)
  else []

/-- The pages for which a write is held are copied next (R396). -/
def Dev.copyHeld (d : Dev) (m : Image) (keys : List (Nat × Nat × Nat)) : Dev :=
  match d.snap.run with
  | none => d
  | some p => keys.foldl (fun d (x, i, j) => match x, m.objects[i]? with
      | 0, some e => { d with snap := d.snap.copyNext (p.transfers i e.size j) }
      | _, _ => d) d

/-- A job engine's write waits for the copies of what it changes (R396, R399). -/
def Dev.holdWrite (d : Dev) (l : Loc) (a n : Nat) : Dev :=
  if d.snap.run.isNone && d.snap.mirrors.isEmpty then d
  else
    match d.image with
    | none => d
    | some m =>
      let keys := m.objects.zipIdx.flatMap fun (e, i) => (d.metParts i e l a n).flatMap fun p => d.unread i e p.1 p.2
      (d.holdAt keys).copyHeld m keys

/-- A write of the job to a Cellar object ends the clean state (R397). (log 50 DEDUCED) -/
def Dev.noteCellar (d : Dev) (l : Loc) (a n : Nat) : Dev :=
  if d.snap.dirty then d
  else
    match d.image with
    | none => d
    | some m =>
      if m.objects.zipIdx.any fun (e, i) => e.survival = 1 && !(d.metParts i e l a n).isEmpty then
        { d with snap := { d.snap with dirty := true, clean := false } }
      else d

/-- What snapshots and the mirror make of a job engine's write to a die buffer or to device HBM (R396, R397, R399). -/
def Dev.snapWrite (d : Dev) (l : Loc) (a n : Nat) : Dev :=
  match l with
  | .tile _ => d
  | _ => (d.holdWrite l a n).noteCellar l a n

/-- Write to a range of device HBM offsets, aperture included; nothing where some byte is not mapped. -/
def Dev.hbmWrite (d : Dev) (a : Nat) (bs : List Byte) (mask : List Bool := []) : Dev :=
  match d.hbmRuns a bs.length with
  | none => d
  | some rs => (d.snapWrite .hbm a bs.length).hbmWriteRuns rs bs mask

/-! ### Host side -/

/-- A dword of the MSI-X table (Table HOST-2): address, upper address, data and vector control of each vector, masked
until it is written. (log 67 PRESUMED) -/
def HostIf.msixWord (h : HostIf) (i : Nat) : Nat := Sparse.get h.msix (if i % 4 = 3 then 1 else 0) i

/-- A vector may send its message: MSI-X is enabled, and neither the function nor the vector is masked (R457).
(log 67 PRESUMED) -/
def HostIf.vectorOpen (h : HostIf) (v : Nat) : Bool := h.msixEnable && !h.msixMask && h.msixWord (4 * v + 3) % 2 = 0

/-- Send the message of a vector, or drop it without Bus Master Enable (R454). -/
def Dev.sendVector (d : Dev) (v : Nat) : Dev :=
  if d.host.bme then { d with out := { d.out with msi := d.out.msi ++ [v] } } else d.count .hostifBmDrop

/-- Raise a vector: a masked one sets its pending bit, into which further raises merge (R457). -/
def Dev.raiseVector (d : Dev) (v : Nat) : Dev :=
  if d.host.vectorOpen v then d.sendVector v
  else if d.host.pendingVec.contains v then d
  else { d with host := { d.host with pendingVec := d.host.pendingVec ++ [v] } }

/-- The messages that wait of vectors that are no longer masked are sent (R457). -/
def Dev.sendPending (d : Dev) : Dev :=
  let (go, stay) := d.host.pendingVec.partition d.host.vectorOpen
  go.foldl Dev.sendVector { d with host := { d.host with pendingVec := stay } }

/-- A range cut at the multiples of `n`, a power of two from 128 to 4,096: no request is longer, and none reaches over a
multiple of 4,096. (log 67 PRESUMED) -/
def cutAt (n a len : Nat) : List (Nat × Nat) :=
  (List.range (ceilDiv (a % n + len) n)).map fun i =>
    let lo := max a (a / n * n + i * n)
    (lo, min (a + len) (a / n * n + (i + 1) * n) - lo)

/-- A posted write to host memory, in requests of up to the Max Payload Size, with Relaxed Ordering and ID-Based Ordering
clear and No Snoop set (R450, R456). -/
def Dev.hostPut (d : Dev) (a : Nat) (bs : List Byte) : Dev :=
  { d with
    mem := { d.mem with host := d.mem.host.writeN a bs }
    out := { d.out with hostWrites := d.out.hostWrites ++
      (cutAt (128 * 2 ^ min 2 d.host.payLog) a bs.length).map fun x => ⟨x.1, slice bs (x.1 - a) x.2, false, false, true⟩ } }

/-- Set HOSTIF_EVT bit `n`; a 0-to-1 transition of an enabled bit raises the event vector (R457). -/
def Dev.hostEvent (d : Dev) (n : Nat) : Dev :=
  let f := match n with
    | 0 => Fld.hostifEvtJob
    | 1 => Fld.hostifEvtAdmit
    | 2 => Fld.hostifEvtFault
    | 3 => Fld.hostifEvtStart
    | 4 => Fld.hostifEvtCut
    | _ => Fld.hostifEvtRestore
  let was := d.rd f
  let d := d.flag f
  if was = 0 && bitAt (d.rd .hostifEvtEnable) n then d.raiseVector (d.rd .hostifEvtVector) else d

/-- Set an SMBus event bit (Table HOST-3, command 0x05). -/
def Dev.smbEvent (d : Dev) (n : Nat) : Dev :=
  { d with host := { d.host with events := d.host.events ||| BitVec.ofNat 8 (2 ^ n) } }

/-! ### Job life cycle -/

/-- Enter a job state: the hub firmware's record and the three copies change together, and the host event
is raised (R68, R422). -/
def Dev.setPhase (d : Dev) (p : JobPhase) : Dev :=
  if d.job.phase = p then d
  else
    let d := { d with job := { d.job with phase := p }, ctl := { d.ctl with jobState := V3.all p.code } }
    d.hostEvent 0

/-- Raise a REPORT for the fabric manager (R386, R447); it is sent as the command ends. A device under
SECURITY_VIOLATION sends kind 1 only (R448). -/
def Dev.report (d : Dev) (kind : Nat) (content : List Byte) : Dev :=
  if d.start.violated && kind != 1 then d
  else
    { d with sec := { d.sec with reports := d.sec.reports ++ [⟨kind, content, [], 0⟩] } }

/-- The fault report of Table REC-1. -/
def Dev.faultReport (d : Dev) (k : Clock) (code cause engine addr : Nat) : List Byte :=
  leBytes 8 (d.rd .secNode + d.rd .jobKeyTag * 2 ^ 16 + d.rd .jobKeyEpoch * 2 ^ 40) ++
  [BitVec.ofNat 8 code, BitVec.ofNat 8 cause] ++ leBytes 2 engine ++
  leBytes 8 d.frame.number ++ leBytes 8 k.count ++ leBytes 8 addr ++ leBytes 4 (d.snap.lastCut.getD 0xFFFFFFFF)

/-- The job runs instructions, or may yet: a run fault ends it (Table TYN-5). -/
def JobPhase.faultable : JobPhase → Bool
  | .armed => true
  | .running => true
  | .draining => true
  | _ => false

/-- The report of a recorded fault gives way to that of a fault of the same control cycle with a lower code, which is sent
as the command ends also where the first one has been sent: byte 8 is the recorded code (R75, R386, R426).
(log 55 DEDUCED) -/
def Dev.rereport (d : Dev) (old : Nat) (content : List Byte) : Dev :=
  let keep := d.sec.reports.filter fun r => r.kind ≠ 1 || r.content[8]? ≠ some (BitVec.ofNat 8 old) ||
    r.content.take 8 ≠ content.take 8 || (r.content.drop 12).take 16 ≠ (content.drop 12).take 16
  { d with sec := { d.sec with reports := keep } }.report 1 content

/-- Raise a run fault (R75, R386). The first fault moves the job to FAULTED and starts teardown; a fault of
the same control cycle with a lower code replaces the record, and its report that of the fault it replaces (R426); any
later fault only sets JOB_STATE_MORE. A fault after an accepted ABORT counts only in the ABORT's own control cycle, which `faultCc` then holds.
(log 55 DEDUCED, 73 DESIGN CHOICE) -/
def Dev.runFault (d : Dev) (k : Clock) (code cause engine addr : Nat) : Dev :=
  if d.job.phase = .faulted then
    let d' := d.flag .jobStateMore
    let old := d.rd .jobStateFault
    if d.job.faultCc = some k.cc && code < old then
      (d'.wr .jobStateFault code).rereport old (d.faultReport k code cause engine addr)
    else d'
  else if d.job.abort && d.job.faultCc ≠ some k.cc then d
  else if d.job.phase.faultable || (d.job.phase = .admitted && code = 0x61) then
    let d := d.wr .jobStateFault code
    let d := { d with job := { d.job with
      faultCc := some k.cc, tearFrom := some (d.job.tearFrom.getD k.count), endFrame := d.frame.number
      abort := false } }
    let d := (d.setPhase .faulted).hostEvent 2
    let d := d.smbEvent 6
    d.report 1 (d.faultReport k code cause engine addr)
  else d

/-- Extend a measurement slot with a digest (R440). -/
def Dev.extend (d : Dev) (slot : Fin 4) (digest : List Byte) : Dev :=
  { d with sec := { d.sec with slots := d.sec.slots.set slot (sha512 (d.sec.slots[slot] ++ digest)) } }

/-- The job is ADMITTED: slot 3 takes the object digest, the placed form digest and the digests of the image headers
of a restore (Table BOOT-6). (log 75 DEDUCED) -/
def Dev.becomeAdmitted (d : Dev) (k : Clock) (heads : List (List Byte)) : Dev :=
  match d.image with
  | none => d
  | some m =>
    let d := ([m.objDigest, m.formDigest] ++ heads).foldl (fun d x => d.extend 3 x) d
    { d with ctl := { d.ctl with launchFrom := k.count } }.setPhase .admitted

/-- Draw a fresh free value. (log 72 DESIGN CHOICE) -/
def Dev.draw (d : Dev) : Nat × Dev := (Config.freeValue d.free, { d with free := d.free + 1 })

/-- Change the host and board interfaces. -/
def Dev.modIf (d : Dev) (f : HostIf → HostIf) : Dev := { d with host := f d.host }

/-- A port controller logs an error of the endpoint, or of the root port: the bit of the uncorrectable error status. The
first error pointer names that bit and the header log takes a free value, unless they hold an earlier error whose status
has not been cleared. (log 67 PRESUMED) -/
def Dev.aerError (d : Dev) (root : Bool) (bit : Nat) : Dev :=
  let v := d.draw.1 % 2 ^ 128 + bit * 2 ^ 128
  if root then (if d.host.aerRoot ≠ 0 then d else d.draw.2.modIf fun h => { h with aerRoot := v })
  else
    let status := d.host.aerStatus ||| 2 ^ bit
    if bitAt d.host.aerStatus (d.host.aerEnd / 2 ^ 128) then d.modIf fun h => { h with aerStatus := status }
    else d.draw.2.modIf fun h => { h with aerStatus := status, aerEnd := v }

/-! ### The arithmetic time of a die (R478) -/

/-- A compute die is in reduction: its arithmetic clock runs at 0.7 GHz (R478). -/
def Pwr.slow (p : Pwr) (x : Fin 12) : Bool := p.reduced.any fun r => r.1 = x.val

/-- Units of the clock to one unit of arithmetic time of a die. -/
def Pwr.ratio (p : Pwr) (x : Fin 12) : Nat := if p.slow x then 2 else 1

/-- Units that the arithmetic clock of a die has counted at unit `u`: five to each of its ac. (log 58 DEDUCED) -/
def Pwr.counted (p : Pwr) (x : Fin 12) (u : Nat) : Nat := p.bases[x].2 + (u - p.bases[x].1) / p.ratio x

/-- The unit at which the arithmetic clock of a die has counted `l` units, at its rate in force. (log 58 DEDUCED) -/
def Pwr.unitAt (p : Pwr) (x : Fin 12) (l : Nat) : Nat := p.bases[x].1 + (l - p.bases[x].2) * p.ratio x

/-- The dies in reduction change at unit `u`: a die that enters or leaves it counts on from there at its new rate. -/
def Pwr.reduce (p : Pwr) (u : Nat) (reduced : List (Nat × Option Nat)) : Pwr :=
  { p with
    reduced := reduced
    bases := Vector.ofFn fun x =>
      if p.slow x = reduced.any (fun r => r.1 = x.val) then p.bases[x] else (u, p.counted x u) }

/-- The running arithmetic cycle of a compute die. -/
def Dev.dieAc (d : Dev) (k : Clock) (x : Fin 12) : Nat := d.pwr.counted x k.units / 5

/-- The first arithmetic cycle of a compute die that starts at unit `u` or later. -/
def Dev.acFrom (d : Dev) (x : Fin 12) (u : Nat) : Nat := ceilDiv (d.pwr.counted x u) 5

/-- The unit at which arithmetic cycle `a` of a compute die starts. -/
def Dev.dieUnit (d : Dev) (x : Fin 12) (a : Nat) : Nat := d.pwr.unitAt x (a * 5)

/-- Work of the frame ends at unit `u`: its close comes no earlier (R41). -/
def Dev.workedTo (d : Dev) (u : Nat) : Dev :=
  { d with frame := { d.frame with lastWork := max d.frame.lastWork u } }

/-- The end of `n` arithmetic cycles of a die from its present one, in units of its arithmetic clock. -/
def Dev.afterAc (d : Dev) (k : Clock) (x : Fin 12) (n : Nat) : Nat := (d.dieAc k x + n) * 5

/-- Time passes to arithmetic cycle `a` of a compute die, if it lies ahead. -/
def Dev.toDieAc (d : Dev) (x : Fin 12) (a : Nat) (k : Clock) : Clock := k.toUnit (d.dieUnit x a)

/-- The job is RUNNING and no accepted ABORT is pending (R69). -/
def Dev.runs (d : Dev) : Bool := d.job.phase == .running && !d.job.abort

/-- The job has become FAULTED in this control cycle: what happens in the rest of it is still seen, so that the lowest
code of the cycle is recorded (R75, R260). (log 31 DEDUCED) -/
def Dev.faultCycle (d : Dev) (k : Clock) : Bool := d.job.phase == .faulted && d.job.faultCc == some k.cc

/-- A block whose fault registers hold the code `held` (0: none) records a fault of this code although the job has become
FAULTED: in the control cycle in which it did so, where the block holds no fault or one of a higher code (R75, R260). -/
def Dev.supersedes (d : Dev) (k : Clock) (held code : Nat) : Bool :=
  d.faultCycle k && (held == 0 || decide (code < held))

/-- A core that has not faulted itself may still fault in that cycle (R113). (log 31 DEDUCED) -/
def Dev.faultedNow (d : Dev) (k : Clock) (c : Fin 48) : Bool := d.faultCycle k && d.rd .coreSeqFaultCode c == 0

/-- The period P of the admitted job, 0 for none. -/
def Dev.period (d : Dev) : Nat := match d.image with | none => 0 | some m => m.form.period

/-- The guard band G of the admitted job. -/
def Dev.guardBand (d : Dev) : Nat := match d.image with | none => 0 | some m => m.form.guardBand

/-- The guard start count of the last opened frame (R38). -/
def Dev.guardStart (d : Dev) : Nat := d.frame.boundary + d.period - d.guardBand

/-- The boundary count that follows the last opened frame (R37). -/
def Dev.nextBoundary (d : Dev) : Nat := d.frame.boundary + d.period

end Sys2Proof.Machine
end

