-- ==== Sys2Proof/Machine/Traffic.lean ====
section
/-! DEFINITION. Work counted outside the cores: paths of the package network, position ports and die buffer
ports (R15, R16, R20 to R24, R47, Table TICK-3). -/

namespace Sys2Proof.Machine

open Sys2Proof

/-- An end of a path of the package network. -/
inductive Place where
  | die (d : Nat)
  | hub (h : Nat)
  | stack (m : Nat)
  | fabric (f : Nat)
  deriving DecidableEq, Repr

/-- Count work of an engine of Table TICK-3: class and instance. (log 56 DEDUCED) -/
def Dev.addWork (d : Dev) (cls inst n : Nat) : Dev :=
  if n = 0 then d
  else
    let id := cls * 256 + inst
    { d with work := Sparse.set d.work 0 id (Sparse.get d.work 0 id + n) }

/-- Home die of a stack (Table PKG-2). -/
def stackDie (m : Nat) : Nat := [0, 1, 2, 3, 4, 5, 6, 7, 8, 9, 10, 11, 1, 4, 7, 10, 2, 9, 5, 6].getD m 0

/-- Position of a stack (Table PKG-2). -/
def stackPos (m : Nat) : Nat := if m < 12 then 2 * m else 2 * stackDie m + 1

/-- Die that a fabric die from FD2 on is attached to (Table PKG-2). -/
def fabricDie (f : Nat) : Nat := [4, 7, 0, 3, 8, 11, 5, 6, 2, 9].getD f 0

/-- Position of a fabric die (Table PKG-2). -/
def fabricPos (f : Nat) : Nat := if f = 0 then 24 else if f = 1 then 25 else 2 * fabricDie f + 1

/-- The hub a place lies on, if any. -/
def Place.hub? : Place → Option Nat
  | .hub h => some h
  | .fabric f => if f < 2 then some f else none
  | _ => none

/-- The compute die through which a place meets the grid. -/
def Place.entry : Place → Nat
  | .die d => d
  | .hub h => if h = 0 then 4 else 7
  | .stack m => stackDie m
  | .fabric f => fabricDie f

/-- The position port that a place's bytes cross, if any. -/
def Place.position : Place → Option Nat
  | .stack m => some (stackPos m)
  | .fabric f => some (fabricPos f)
  | _ => none

/-- Bridge directions, as 2b + d, along a row from column a to column b (Table PKG-5). -/
def rowBridges (row a b : Nat) : List Nat :=
  if a ≤ b then (List.range (b - a)).map fun i => 2 * (3 * row + a + i)
  else (List.range (a - b)).map fun i => 2 * (3 * row + a - 1 - i) + 1

/-- Bridge directions along a column from row a to row b. -/
def colBridges (col a b : Nat) : List Nat :=
  if a ≤ b then (List.range (b - a)).map fun i => 2 * (9 + 4 * (a + i) + col)
  else (List.range (a - b)).map fun i => 2 * (9 + 4 * (a - 1 - i) + col) + 1

/-- The one path between two places (R21). -/
def bridgePath (s t : Place) : List Nat :=
  let a := s.entry
  let b := t.entry
  if s.hub?.isSome && s.hub? = t.hub? then []
  else
    (match s.hub? with | some h => [2 * (17 + h)] | none => []) ++
    rowBridges (a / 4) (a % 4) (b % 4) ++ colBridges (b % 4) (a / 4) (b / 4) ++
    (match t.hub? with | some h => [2 * (17 + h) + 1] | none => [])

/-- `n` bytes of job traffic move from one place to another: bridge directions and position ports count
them (R24, Table TICK-3). What stays in its place crosses none. -/
def Dev.carry (d : Dev) (s t : Place) (n : Nat) : Dev :=
  if s = t then d else
  let d := (bridgePath s t).foldl (fun d b => d.addWork 0xA b n) d
  let d := match s.position with | some p => d.addWork 0x9 p n | none => d
  match t.position with | some p => d.addWork 0x9 p n | none => d

/-- The place of a memory location, as a byte address selects it. -/
def locPlace (l : Loc) (a : Nat) : Place :=
  match l with
  | .tile c => .die (c.val / 4)
  | .die x => .die x
  | .hbm => .stack (a / 2 ^ 37)

/-- A die buffer's port counts what passes it (Table TICK-3). -/
def Dev.dieBuffer (d : Dev) (l : Loc) (n : Nat) : Dev :=
  match l with
  | .die x => d.addWork 0x8 x n
  | _ => d

/-- The places of a byte range with their byte counts; aperture offsets lie where the page map has them (R266). -/
def Dev.placesOf (d : Dev) (l : Loc) (a n : Nat) : List (Place × Nat) :=
  match l with
  | .hbm => ((d.physRuns (n / 2 ^ 21 + 2) a n).getD []).map fun r => (locPlace .hbm r.1, r.2)
  | _ => [(locPlace l a, n)]

/-- An engine at a place reads `n` bytes of a location: they move from the location to the engine (R16, R21). -/
def Dev.touch (d : Dev) (s : Place) (l : Loc) (a n : Nat) : Dev :=
  (d.placesOf l a n).foldl (fun d p => d.carry p.1 s p.2) (d.dieBuffer l n)

/-- An engine at a place writes `n` bytes of a location: they move from the engine to the location (R16, R21). -/
def Dev.touchW (d : Dev) (s : Place) (l : Loc) (a n : Nat) : Dev :=
  (d.placesOf l a n).foldl (fun d p => d.carry s p.1 p.2) (d.dieBuffer l n)

/-- A core's share of its die buffer's port (R27). -/
def Dev.coreShare (d : Dev) (c : Fin 48) (l : Loc) (n : Nat) : Dev :=
  match l with
  | .die _ => d.addWork 0x5 c n
  | _ => d

/-- As `touch`, by a core. -/
def Dev.coreTouch (d : Dev) (c : Fin 48) (l : Loc) (a n : Nat) : Dev :=
  (d.coreShare c l n).touch (.die (c.val / 4)) l a n

/-- As `touchW`, by a core. -/
def Dev.coreTouchW (d : Dev) (c : Fin 48) (l : Loc) (a n : Nat) : Dev :=
  (d.coreShare c l n).touchW (.die (c.val / 4)) l a n

end Sys2Proof.Machine
end

