-- ==== Sys2Proof/Machine/Send.lean ====
section
/-! DEFINITION. Sending packets: ports, routing, and the packets this device originates (R323 to R328, R331 to R333,
R444). -/

namespace Sys2Proof.Machine

open Sys2Proof

/-! ### Ports and counters -/

/-- Change one port. -/
def Dev.modPort (d : Dev) (p : Fin 81) (f : Port → Port) : Dev :=
  { d with fab := { d.fab with ports := d.fab.ports.set p (f d.fab.ports[p]) } }

/-- The fabric die that holds a port; the twin link's packets pass through FD1 (R205). -/
def portDie (p : Fin 81) : Nat := if p.val = 80 then 1 else p.val / 8

/-- The port exists on this ordering code. -/
def Dev.portPresent (d : Dev) (p : Fin 81) : Bool := p.val = 80 || p.val / 8 < d.order.fabricDies

/-- Count in a register of a port; the twin link has none of these registers. -/
def Dev.countPort (d : Dev) (f : Fld) (n : Nat) (p : Fin 81) : Dev :=
  if p.val = 80 then d else d.count f n (p.val / 8) (p.val % 8)

/-- Count bytes in a register of `unit`-byte units, keeping the rest. -/
def Dev.countBytes (d : Dev) (f : Fld) (unit n inst idx : Nat) : Dev :=
  let key := regKey f inst idx
  let b := Sparse.get d.fab.residue 0 key + n
  ({ d with fab := { d.fab with residue := Sparse.set d.fab.residue 0 key (b % unit) } }).count f (b / unit) inst idx

/-- The home fabric die of a source (R332). -/
def Dev.homeDie (d : Dev) (src : Nat) : Nat := src % d.order.fabricDies

/-- The job key of the running job (R331). -/
def Dev.jobKey (d : Dev) : Key := ⟨d.rd .jobKeyTag, d.rd .jobKeyEpoch⟩

/-- The management key (R331). -/
def Dev.mgmtKey (d : Dev) : Key := ⟨0, d.rd .fabCfgMgmtEpoch⟩

/-- This device's node number. -/
def Dev.node (d : Dev) : Nat := d.rd .secNode

/-! ### Sending (R323, R324, R341) -/

/-- Forward clock cycles of 1.6 GHz, for stall counts. (log 46 DEDUCED) -/
def Clock.fc (k : Clock) : Nat := k.units * 8 / 35

/-- The head of a VC's queue. -/
def Port.headOf (q : Port) (v : Nat) : Option QPacket := (q.queues.getD v []).head?

/-- A packet holds credits for its whole size (R323). -/
def Port.credited (q : Port) (v : Nat) (i : QPacket) : Bool := i.packet.bytes / 32 ≤ q.credits.getD v 0

/-- The state of the port lets the packet through (Table FAB-2). -/
def Port.carries (q : Port) (p : Packet) : Bool := q.state = .up || (q.state = .quarantine && p.isProbe)

/-- The VC served next: round-robin after the one served last, the first with a packet at its head and credits for it
(R324). -/
def Port.nextVc (q : Port) : Option Nat :=
  ((List.range 8).map fun i => (q.lastVc + 1 + i) % 8).find? fun v =>
    match q.headOf v with
    | none => false
    | some i => q.carries i.packet && q.credited v i

/-- Another numbered block may be sent: at most 64 are unacknowledged (R315). -/
def Port.blockRoom (q : Port) : Bool := q.blocks < q.acked + 64

/-! ### Link blocks (R314, R315) -/

/-- The credits that the next trailer returns: those of the two lowest VCs that have some (Table FAB-1).
(log 78 DESIGN CHOICE) -/
def Port.returning (q : Port) : List (Nat × Nat) :=
  (((List.range 8).map fun v => (v, min 8191 (q.owed.getD v 0))).filter fun c => c.2 ≠ 0).take 2

/-- The port has something that only a trailer can say: an advanced acknowledgement, a NAK, or credits (R314). -/
def Port.mustTell (q : Port) : Bool := q.ackDue || q.nakOut || q.owed.any (· ≠ 0)

/-- The next block of a port: the acknowledged number is that of the last block received in order, and NAK is set in
the first trailer after a bad CRC (R315, Table FAB-1). -/
def Port.block (q : Port) (kind : Nat) (body : List Byte) : LinkBlock :=
  { number := if kind = 2 then 0 else q.blocks % 4096, acked := (q.rxNext + 4095) % 4096, kind := kind
    nak := q.nakOut, credits := q.returning, body := body }

/-- The port after that block has been sent: what its trailer told is told, and a numbered block waits for its
acknowledgement (R315, R317). -/
def Port.afterBlock (q : Port) (k : Clock) (kind : Nat) (body : List Byte) : Port :=
  let told := { q with
    owed := q.returning.foldl (fun o c => modifyAt o c.1 (· - c.2)) q.owed, nakOut := false, ackDue := false }
  if kind = 2 then told
  else { told with
    blocks := q.blocks + 1
    ackAt := if q.window.isEmpty then k.count else q.ackAt
    window := q.window ++ [⟨q.block kind body, k.count⟩] }

/-- Put a block on the lanes of a port. -/
def Dev.emitBlock (d : Dev) (p : Fin 81) (b : LinkBlock) : Dev :=
  { d with out := { d.out with blocks := d.out.blocks ++ [(p.val, b)] } }

/-- Send a block on a port. -/
def Dev.sendBlock (d : Dev) (k : Clock) (p : Fin 81) (kind : Nat) (body : List Byte) : Dev :=
  (d.emitBlock p (d.fab.ports[p].block kind body)).modPort p fun q => q.afterBlock k kind body

/-- Send idle blocks while a trailer has something to say: a port direction that has nothing else to send tells it so
(R314). (log 78 DESIGN CHOICE) -/
def Dev.idleBlocks (k : Clock) (p : Fin 81) : Nat → Dev → Dev
  | 0, d => d
  | n + 1, d => if d.fab.ports[p].mustTell then Dev.idleBlocks k p n (d.sendBlock k p 2 []) else d

/-- The port sends what only a trailer can say. -/
def Dev.tell (d : Dev) (k : Clock) (p : Fin 81) : Dev :=
  let q := d.fab.ports[p]
  if q.state = .up || q.state = .quarantine then Dev.idleBlocks k p 8 d else d

/-- The credits of the port and VC in whose buffer a packet lay come free when it has left it (R323). -/
def Dev.freeBuffer (d : Dev) (k : Clock) (i : QPacket) : Dev :=
  match i.source with
  | none => d
  | some (p, v) =>
    (d.modPort p fun q => { q with owed := modifyAt q.owed v (· + i.packet.bytes / 32) }).tell k p

/-- A packet as it leaves on a port: one more hop. One-hop packets count none (R318). -/
def QPacket.sent (i : QPacket) : Packet :=
  if i.packet.dst = 0xFFFF then i.packet else { i.packet with hops := i.packet.hops + 1 }

/-- Start the head of one VC: its credits are spent, and its bytes go into the port's blocks (R314, R323). -/
def Dev.sendHead (d : Dev) (k : Clock) (p : Fin 81) (v : Nat) : Dev :=
  let q := d.fab.ports[p]
  match q.headOf v with
  | none => d
  | some i =>
    let n := i.packet.bytes
    let q := { q with
      credits := modifyAt q.credits v (· - n / 32)
      queues := modifyAt q.queues v List.tail
      lastVc := v, txBuf := q.txBuf ++ i.sent.wire
      unacked := q.unacked ++ [⟨i, q.blocks + (q.txBuf.length + n - 1) / 4096⟩] }
    let d := (d.modPort p fun _ => q).freeBuffer k i
    let d := { d with out := { d.out with sent := d.out.sent ++ [(p.val, i.sent)] } }
    if p.val = 80 then d.addWork 0xD 0 n
    else
      let idx := 8 * (p.val % 8) + v
      let d := if i.transit then d else d.addWork 0xB (16 * (p.val / 8) + 2 * (p.val % 8)) n
      (d.count .fabMapPkts 1 (p.val / 8) idx).countBytes .fabMapUnits 64 n (p.val / 8) idx

/-- Send the next 4,096 bytes of the packets that have started, or what is left of them. -/
def Dev.sendData (d : Dev) (k : Clock) (p : Fin 81) : Dev :=
  let buf := d.fab.ports[p].txBuf
  (d.sendBlock k p 0 (buf.take 4096)).modPort p fun q => { q with txBuf := buf.drop 4096 }

/-- Send while the port may send: a full block, or the next packet into the block, or the part-filled block where no
packet may start (R314, R315, R324). (log 78 DESIGN CHOICE) -/
def Dev.pumpLoop (k : Clock) (p : Fin 81) : Nat → Dev → Dev
  | 0, d => d
  | n + 1, d =>
    let q := d.fab.ports[p]
    if !q.blockRoom then d
    else if 4096 ≤ q.txBuf.length then Dev.pumpLoop k p n (d.sendData k p)
    else
      match q.nextVc with
      | some v => Dev.pumpLoop k p n (d.sendHead k p v)
      | none => if q.txBuf.isEmpty then d else Dev.pumpLoop k p n (d.sendData k p)

/-- Stall fc of a VC in the running window up to now (R341). (log 46 DEDUCED) -/
def Port.stallNow (q : Port) (k : Clock) (v : Nat) : Nat :=
  match q.stallFrom.getD v none with
  | some f => q.stallFc.getD v 0 + (k.fc - f * 8 / 35)
  | none => q.stallFc.getD v 0

/-- Which VCs now have a packet at the head without its credits, and since when (R341). (log 46 DEDUCED) -/
def Port.markStalls (q : Port) (k : Clock) : Port :=
  let now := fun (v : Nat) => match q.headOf v with
    | none => false
    | some i => !q.credited v i
  { q with
    stallFc := (List.range 8).map fun v => if now v then q.stallFc.getD v 0 else q.stallNow k v
    stallFrom := (List.range 8).map fun v =>
      if now v then (match q.stallFrom.getD v none with | some f => some f | none => some k.units) else none }

/-- An output port sends what it may (R323, R324). -/
def Dev.pump (d : Dev) (k : Clock) (p : Fin 81) : Dev :=
  let q := d.fab.ports[p]
  if q.state = .up || q.state = .quarantine then
    let fuel := 8 * sumBy q.queues List.length + q.txBuf.length / 4096 + 2
    ((Dev.pumpLoop k p fuel d).modPort p fun q => q.markStalls k).tell k p
  else d

/-- Put a packet into an output port's queue and send. -/
def Dev.enqueue (d : Dev) (k : Clock) (p : Fin 81) (i : QPacket) : Dev :=
  (d.modPort p fun q => { q with queues := modifyAt q.queues i.packet.vc (· ++ [i]) }).pump k p

/-! ### Routing (R325 to R328) -/

/-- The candidate port codes of a route table entry (Table FAB-5). -/
def routeCandidates (e : Nat) : List Nat :=
  (List.range (min 4 (bitRange e 30 28))).map fun i => bitRange e (7 * i + 6) (7 * i)

/-- A port is usable only in state UP (R328). -/
def Dev.usable (d : Dev) (code : Nat) : Option (Fin 81) :=
  match portOfCode code with
  | none => none
  | some p => if d.fab.ports[p].state = .up && d.portPresent p then some p else none

/-- A live route table entry of a fabric die. -/
def Dev.route (d : Dev) (fd node : Nat) : Nat :=
  Sparse.get (d.fab.live[fd % 10]'(Nat.mod_lt _ (by omega))) 0 node

/-- The port a packet takes under R328, none where no candidate is usable. (log 45 DEDUCED) -/
def Dev.choosePort (d : Dev) (fd : Nat) (p : Packet) : Option (Fin 81) :=
  let cs := routeCandidates (d.route fd (if p.phase2 then p.dst.toNat else p.mid.toNat))
  let n := cs.length
  let i := (p.flowlet.toNat + p.hops.toNat) % n
  if n = 0 then none else ((List.range n).map fun j => cs.getD ((i + j) % n) 0).findSome? d.usable

/-- The packet travels under the running job's key: its bytes are job traffic (R23, R331). -/
def Dev.ownsPacket (d : Dev) (p : Packet) : Bool := d.job.keyed && p.key == d.jobKey

/-- Bytes from several places move to a fabric die as job traffic (R21, R24). -/
def Dev.gather (d : Dev) (from_ : List (Place × Nat)) (fd : Nat) : Dev :=
  from_.foldl (fun d c => d.carry c.1 (.fabric fd) c.2) d

/-- A packet that is sent on: what starts here moves as job traffic from the places of its bytes to the port's fabric
die; transit goes in its own share (R21, R23, R325, R337). -/
def Dev.toPort (d : Dev) (k : Clock) (i : QPacket) (from_ : List (Place × Nat)) (o : Fin 81) : Dev :=
  let d := if !i.transit && d.ownsPacket i.packet then d.gather from_ (portDie o) else d
  d.enqueue k o i

/-- Route a packet at this device (R328): deliver it, drop it, or send it on. `from_` says where the bytes of a packet
lie that starts here. -/
def Dev.routePacket (d : Dev) (k : Clock) (i : QPacket) (from_ : List (Place × Nat)) : Dev :=
  let i := { i with packet := i.packet.atNode d.node }
  let p := i.packet
  if p.phase2 && p.dst.toNat = d.node then
    ({ d with fab := { d.fab with toDeliver := d.fab.toDeliver ++ [(i.fd, p)] } } : Dev).freeBuffer k i
  else if p.hops = 15 then (d.count .fabRtHopDrop 1 i.fd).freeBuffer k i
  else match d.choosePort i.fd p with
    | none => (d.count .fabRtNoroute 1 i.fd).freeBuffer k i
    | some o => d.toPort k i from_ o

/-- A packet that arrives on a port is routed with the table of its fabric die; what does not end here is transit
and counted once, however often it is routed (R325, R328, R337). -/
def Dev.arrive (d : Dev) (k : Clock) (port : Fin 81) (p : Packet) : Dev :=
  let q := p.atNode d.node
  let ends := q.phase2 && p.dst.toNat = d.node
  let goes := !ends && p.hops != 15 && (d.choosePort (portDie port) q).isSome
  let d := if goes then d.countBytes .fabRtTransit 4096 p.bytes (portDie port) 0 else d
  d.routePacket k ⟨p, portDie port, some (port, p.vc), !ends⟩ []

/-! ### Originating packets (R326, R327, R333) -/

/-- A key is registered or removed: its packets are numbered from 0 on and its X are discarded (R333). -/
def Dev.forgetKey (d : Dev) (key : Key) : Dev :=
  { d with fab := { d.fab with
    txOrders := d.fab.txOrders.filter fun t => t.key ≠ key
    rxOrders := d.fab.rxOrders.filter fun t => t.key ≠ key } }

/-- The sender's next ORDER toward a destination, and the table after it (R333). -/
def Fab.takeOrder (f : Fab) (key : Key) (node chan : Nat) : Nat × Fab :=
  let same := fun (t : TxOrder) => t.key = key && t.node = node && t.chan = chan
  match f.txOrders.find? same with
  | none => (0, { f with txOrders := f.txOrders ++ [⟨key, node, chan, 1⟩] })
  | some t =>
    (t.next, { f with txOrders := f.txOrders.map fun u => if same u then { u with next := (u.next + 1) % 2 ^ 24 } else u })

/-- The flowlet counter of a destination (R327). -/
def Fab.flowlet (f : Fab) (node : Nat) : Nat :=
  (Sparse.get f.flowBytes 0 node / 65536 + Sparse.get f.flowReps 0 node) % 4096

/-- Payload sent to a destination (R327). -/
def Fab.addFlow (f : Fab) (node n : Nat) : Fab :=
  { f with flowBytes := Sparse.set f.flowBytes 0 node (Sparse.get f.flowBytes 0 node + n) }

/-- The intermediate of a packet this device originates, 0xFFFF for none (R326). (log 45 DEDUCED) -/
def Dev.chooseMid (d : Dev) (key : Key) (dst flowlet : Nat) : Nat :=
  let src := d.node
  if bitAt (d.route 0 dst) 31 || d.fab.midCount = 0 then 0xFFFF
  else
    let seed := if d.job.keyed && key = d.jobKey then d.rd64 .jobSeedLo .jobSeedHi else d.rd64 .fabCfgMseedLo .fabCfgMseedHi
    let h := (sipHash (BitVec.ofNat 64 seed) 0 (leBytes 8 (src + dst * 2 ^ 16 + flowlet * 2 ^ 32))).toNat
    let m := Sparse.get d.fab.midLive 0 (h / 2 ^ 32 * d.fab.midCount / 2 ^ 32)
    if m = src || m = dst then 0xFFFF else m

/-- What a sender gives for a packet: key, destination, channel, operation, SEQ, OPWORD, payload, and for a
response the FLOWLET of its request. -/
structure Sending where
  key : Key
  dst : Nat
  chan : Nat
  op : Nat
  seq : Nat
  opword : Nat
  payload : List Byte
  flowlet : Option Nat
  /-- Where the bytes lie that the packet carries, with their numbers (R21, R325). -/
  from_ : List (Place × Nat)
  deriving DecidableEq, Repr

/-- After the join, packets of the management channel carry a MAC (R444). -/
def Dev.addMac (d : Dev) (p : Packet) : Packet :=
  if d.sec.fixed && p.chan = 3 && opSealed p.op.toNat then p.sealed d.sec.key else p

/-- Fill in a packet's header, MAC and CRC. -/
def Dev.makePacket (d : Dev) (s : Sending) (mid order flowlet : Nat) : Packet :=
  let pl := padTo 0 (64 * max 1 (ceilDiv s.payload.length 64)) s.payload
  let p : Packet := {
    dst := BitVec.ofNat 16 s.dst, src := BitVec.ofNat 16 d.node, mid := BitVec.ofNat 16 mid
    tag := BitVec.ofNat 24 s.key.tag, epoch := BitVec.ofNat 16 s.key.epoch
    phase2 := mid = 0xFFFF, chan := BitVec.ofNat 2 s.chan, flowlet := BitVec.ofNat 12 flowlet
    order := BitVec.ofNat 24 order, seq := BitVec.ofNat 32 s.seq, op := BitVec.ofNat 8 s.op
    len := BitVec.ofNat 7 (pl.length / 64 - 1), hops := 0, opword := BitVec.ofNat 40 s.opword
    rsvd := 0, crc := 0, payload := pl }
  let p := d.addMac p
  { p with crc := p.crcOf }

/-- Originate a packet: number it, choose its intermediate and route it with the table of FD0, or pass it through FD1
to the twin link, or to this device itself through FD0. The table of FD0 names a packet to the twin again where its link
is lost; where the link is not UP there is no candidate (R205, R325 to R329, R333). -/
def Dev.originate (d : Dev) (k : Clock) (s : Sending) (twin : Bool := false) : Dev :=
  let (order, f) := d.fab.takeOrder s.key s.dst s.chan
  let fl := s.flowlet.getD (f.flowlet s.dst)
  let mid := if s.dst = d.node || twin then 0xFFFF else d.chooseMid s.key s.dst fl
  let p := d.makePacket s mid order fl
  let d := { d with fab := f.addFlow s.dst p.payload.length }
  if s.dst = d.node then
    let d := if d.ownsPacket p then d.gather s.from_ 0 else d
    { d with fab := { d.fab with toDeliver := d.fab.toDeliver ++ [(0, p)] } }
  else if twin then
    match d.usable 0x78 with
    | none => d.count .fabRtNoroute 1 0
    | some o => d.toPort k ⟨p, 0, none, false⟩ s.from_ o
  else d.routePacket k ⟨p, 0, none, false⟩ s.from_

/-- A one-hop packet to the link partner on the management channel (R318, R375); a port that does not carry it now does
not get it (Table FAB-2). -/
def Dev.sendOneHop (d : Dev) (k : Clock) (port : Fin 81) (op : Nat) (payload : List Byte) : Dev :=
  let p := d.makePacket ⟨d.mgmtKey, 0xFFFF, 3, op, 0, 0, payload, some 0, []⟩ 0xFFFF 0 0
  if d.fab.ports[port].carries p then d.enqueue k port ⟨p, portDie port, none, false⟩ else d

/-! ### Agent messages (R444, R446, R447) -/

/-- A packet of the management channel is accepted: its MAC verifies under the session key, or under the old key
while that is accepted; before the join there is none to check (R444, R445). -/
def Dev.macOk (d : Dev) (k : Clock) (p : Packet) : Bool :=
  !d.sec.fixed || p.macGood d.sec.key ||
    (match d.sec.oldKey with | some (o, t) => k.count ≤ t && p.macGood o | none => false)

/-- The payload of an agent message: a 64-byte block that opens with the length of the content, then the content. -/
def agentPayload (content : List Byte) : List Byte :=
  leBytes 2 content.length ++ List.replicate 62 0 ++ content

/-- The content of an agent message (R446). -/
def agentContent (p : Packet) : List Byte := slice p.payload 64 (field p.payload 0 2)

/-- Send an agent message to the fabric manager. -/
def Dev.agentSend (d : Dev) (k : Clock) (op : Nat) (content : List Byte) : Dev :=
  d.originate k ⟨d.mgmtKey, d.rd .secJoinFm, 3, op, 0, 0, agentPayload content, none, []⟩

/-- The content of a REPORT: its kind, and the report from byte 72 of the payload. -/
def Report.message (r : Report) : List Byte := leBytes 8 r.kind ++ r.content

/-- Send a REPORT and note its ORDER. -/
def Dev.sendReport (d : Dev) (k : Clock) (r : Report) : Dev × Report :=
  let o := (d.fab.takeOrder d.mgmtKey (d.rd .secJoinFm) 3).1
  (d.agentSend k 0x73 r.message, { r with orders := r.orders ++ [o], sentAt := k.count })

/-- Send the reports that have not been sent. (log 66 DEDUCED) -/
def Dev.sendReports (d : Dev) (k : Clock) : Dev :=
  if !d.sec.fixed then d
  else
    let (d, rs) := d.sec.reports.foldl (fun (a : Dev × List Report) r =>
      if r.orders.isEmpty then
        let (e, r) := a.1.sendReport k r
        (e, a.2 ++ [r])
      else (a.1, a.2 ++ [r])) (d, [])
    { d with sec := { d.sec with reports := rs } }

end Sys2Proof.Machine
end

