-- ==== Sys2Proof/Machine/Act.lean ====
section
/-! DEFINITION. How a command acts on the device and on time. -/

namespace Sys2Proof.Machine

open Sys2Proof

/-! ### How a command acts -/

/-- The device's clocks run: reset has been released, and no thermal trip has stopped them (R431, R478). -/
def Dev.clocked (d : Dev) : Bool := d.start.state != .off && !d.pwr.tripped

/-- Reports that a command has raised are sent as it ends (R386, R447). (log 66 DEDUCED) -/
def Dev.sendRaised (d : Dev) (old : List Report) (k : Clock) : Dev :=
  if d.sec.reports = old then d else d.sendReports k

/-- A command acts on the device at the time `w` makes of the present one. `f` answers none where the state
gives the command no occasion: then nothing changes, time included. (log 4 DESIGN CHOICE) -/
def State.board (s : State) (w : Clock → Clock) (f : Clock → Dev → Option Dev) : Result :=
  match f (w s.clk) s.dev with
  | some d => .next { s with clk := w s.clk, dev := d.sendRaised s.dev.sec.reports (w s.clk) }
  | none => .next s

/-- As `board`, for a command that needs the device's clocks; without them nothing changes. (log 4 DESIGN CHOICE) -/
def State.act (s : State) (w : Clock → Clock) (f : Clock → Dev → Option Dev) : Result :=
  s.board w fun k d => if d.clocked then f k d else none

/-- A command that acts at the present time. (log 4 DESIGN CHOICE) -/
def State.now (s : State) (f : Clock → Dev → Option Dev) : Result := s.act id f

/-- No command waits: one count passes where the device's clocks run (R31). DESIGN CHOICE: the passing of time is what
the block does on its own. (log 3 DESIGN CHOICE) -/
def State.idle (s : State) : Result :=
  .next (if s.dev.clocked then { s with clk := s.clk.passUnits 7 } else s)

end Sys2Proof.Machine
end

