-- ==== Sys2Proof/Machine/Time.lean ====
section
/-! DEFINITION. Counter synchronisation: parents, TIME messages and timestamp blocks (R31 to R36, Table TICK-1). -/

namespace Sys2Proof.Machine

open Sys2Proof

/-- The job is ARMED or RUNNING: the counter never steps (R31, R34). -/
def Dev.keepsTime (d : Dev) : Bool := d.job.phase = .armed || d.job.phase = .running

/-- The port that a parent field names: [7] valid, [6:0] port code (R57). -/
def parentPort (field : Nat) : Option (Fin 81) := if bitAt field 7 then portOfCode (field % 128) else none

/-- The port carries timestamp blocks: QUARANTINE or UP (Table FAB-2). -/
def Port.timed (p : Port) : Bool := p.state = .quarantine || p.state = .up

/-- The primary parent's port. -/
def Dev.primary (d : Dev) : Option (Fin 81) := parentPort (d.rd .tickSyncPrimary)
/-- The backup parent's port. -/
def Dev.backup (d : Dev) : Option (Fin 81) := parentPort (d.rd .tickSyncBackup)
/-- The port of the parent that steers the counter. -/
def Dev.parent (d : Dev) : Option (Fin 81) := if d.sync.onBackup then d.backup else d.primary
/-- The other parent's port. -/
def Dev.otherParent (d : Dev) : Option (Fin 81) := if d.sync.onBackup then d.primary else d.backup

/-- A port, if named, carries timestamps. -/
def Dev.portTimed (d : Dev) (p : Option (Fin 81)) : Bool :=
  match p with
  | none => false
  | some i => d.fab.ports[i].timed

/-- This device is the time root: LOCKED by definition (Table TICK-5). -/
def Dev.isRoot (d : Dev) : Bool := d.rd .tickSyncRoot = 1

/-- The synchronisation state that TICK_SYNC_STATE reports. -/
def Dev.syncState (d : Dev) : SyncState := if d.isRoot then .locked else d.sync.state

/-- The counter counts as LOCKED for arming: LOCKED or HOLDOVER (R35). -/
def Dev.lockedForArm (d : Dev) : Bool := d.syncState = .locked || d.syncState = .holdover

/-- Set the synchronisation. -/
def Dev.setSync (d : Dev) (y : Sync) : Dev := { d with sync := y }

/-- After a change of port states: with neither parent up the device has been without a parent since now;
otherwise it has one. A parent that went down leaves LOCKED for HOLDOVER, and the other parent steers if it
is up; in COARSE the backup parent steers only while the primary's port is down (Table TICK-1). Where the same parent's
port comes up again in HOLDOVER, the 20,000,000 counts end, and the next offset leads to TRACKING. A backup that steers
goes on steering when the primary's port comes up, and gives way to the primary when its own goes down.
(log 47 DEDUCED, 77 DESIGN CHOICE) -/
def Dev.parentsChanged (d : Dev) (k : Clock) : Dev :=
  if d.isRoot then d
  else
    let y := d.sync
    let mine := d.portTimed d.parent
    let other := d.portTimed d.otherParent
    if mine && !(y.state = .coarse && y.onBackup && other) then d.setSync { y with orphan := none }
    else if other then
      match y.state with
      | .locked => d.setSync { y with state := .tracking, onBackup := !y.onBackup, good := 0, orphan := none }
      | .holdover => d.setSync { y with state := .tracking, onBackup := !y.onBackup, good := 0, orphan := none }
      | .tracking => d.setSync { y with onBackup := !y.onBackup, good := 0, orphan := none }
      | .coarse => d.setSync { y with onBackup := !y.onBackup, orphan := none }
      | _ => d
    else
      let o := match y.orphan with | some c => some c | none => some k.count
      match y.state with
      | .locked => d.setSync { y with state := .holdover, orphan := o }
      | .unset => d
      | .lost => d
      | _ => d.setSync { y with orphan := o }

/-- The packet is a TIME message that R444 lets through: its MAC verifies, or before the join the counter is
UNSET. -/
def Dev.timeLetIn (d : Dev) (k : Clock) (p : Packet) : Bool :=
  if d.sec.fixed then d.macOk k p else d.sync.state = .unset

/-- TIME_MESSAGE: in UNSET and COARSE the counter is set from the root's count; other states ignore it
(R34, Table TICK-1). In COARSE it starts the 20,000,000 counts without a parent anew. (log 77 DESIGN CHOICE) A message
that R444 does not let through is dropped and counted. -/
def execTimeMessage (p : Packet) (s : State) : Result :=
  let letIn := s.dev.timeLetIn s.clk p
  let takes := p.op = 0x70 && letIn && !s.dev.isRoot && !s.dev.keepsTime &&
    (s.dev.sync.state = .unset || s.dev.sync.state = .coarse)
  s.act (fun k => if takes then k.setCount (field p.payload 0 8) else k) fun k d =>
    if p.op ≠ 0x70 then none
    else if !letIn then some (d.count .secMacDrop)
    else if takes then some ((d.setSync { d.sync with state := .coarse, good := 0, orphan := none }).parentsChanged k)
    else none

/-- Twice the offset of the partner from this device, ((t2 − t1) − (t4 − t3)) (R33). (log 47 DEDUCED) -/
def twiceOffset (t1 t2 t3 t4 : BitVec 64) : Int :=
  ((t2.toNat : Int) - t1.toNat) - ((t4.toNat : Int) - t3.toNat)

/-- An offset of the parent adjusts the counter's rate: every state but UNSET, COARSE and LOST (R34, Table TICK-1). -/
def Dev.steersRate (d : Dev) : Bool := !(d.sync.state = .unset || d.sync.state = .lost || d.sync.state = .coarse)

/-- The next rate adjustment: R34 gives its bound, ±50 ppm, and not its size. In units of 0.01 ppm (Table TICK-7).
(log 47 DEDUCED) -/
def Dev.nextRate (d : Dev) : Int := ((Config.rate d.rates % 10001 : Nat) : Int) - 5000

/-- The rate adjustment is in force, and TICK_OFFSET_RATE shows it (R34, Table TICK-7). (log 47 DEDUCED) -/
def Dev.freeRate (d : Dev) : Dev :=
  { d.wr .tickOffsetRate (untwos 16 d.nextRate) with rates := d.rates + 1 }

/-- The state after an offset on the current parent. `h` is twice the offset in counts. (log 47 DEDUCED) -/
def Sync.measured (y : Sync) (h : Int) : Sync :=
  match y.state with
  | .coarse => { y with state := .tracking, good := 0, orphan := none }
  | .locked =>
    if h.natAbs > 8 then { y with state := .tracking, good := 0 } else y
  | .tracking =>
    let g := if h.natAbs ≤ 4 then y.good + 1 else 0
    if g ≥ 16 then { y with state := .locked, good := g } else { y with good := g }
  | .holdover => { y with state := .tracking, good := 0, orphan := none }
  | _ => y

/-- SYNC_PARENT_TIMEOUT: 20,000,000 counts without a parent move the counter to LOST (Table TICK-1). While a
job is RUNNING its frame ends at the boundary and no further frame opens (R36). -/
def execSyncParentTimeout (s : State) : Result :=
  s.act (fun k => match s.dev.sync.orphan with | some c => k.toCount (c + 20000000) | none => k) fun _ d =>
    let y := d.sync
    let may := match y.state with | .coarse => true | .tracking => true | .holdover => true | _ => false
    if may && y.orphan.isSome && !d.isRoot then
      some ((d.setSync { y with
        state := .lost, orphan := none, lostRun := y.lostRun || d.job.phase = .running
        lostArmed := y.lostArmed || d.job.phase = .armed }).flag .tickEvSyncLost)
    else none

/-- The effect of a completed write of TICK_SYNC_CFG (R35): the parents and the root bit change. LOST is left
for TRACKING, or for COARSE if no job is ARMED or RUNNING; another parent means TRACKING. -/
def Dev.setSyncCfg (d : Dev) (k : Clock) (v : Nat) : Dev :=
  let was := d.parent
  let rootWas := d.isRoot
  let d := ((d.wr .tickSyncPrimary (bitRange v 7 0)).wr .tickSyncBackup (bitRange v 15 8)).wr .tickSyncRoot
    (bitRange v 16 16)
  let y := d.sync
  let y := match y.state with
    | .lost => { y with state := if d.keepsTime then .tracking else .coarse, good := 0, onBackup := false, orphan := none }
    | .locked => if rootWas ≠ d.isRoot || d.parent ≠ was then { y with state := .tracking, good := 0 } else y
    | .holdover => if d.parent ≠ was then { y with state := .tracking, good := 0 } else y
    | .tracking => if d.parent ≠ was then { y with good := 0 } else y
    | _ => y
  (d.setSync (if d.isRoot then { y with state := .locked, orphan := none } else y)).parentsChanged k

end Sys2Proof.Machine
end

