-- ==== Sys2Proof/Machine/Fabric.lean ====
section
/-! DEFINITION. The fabric: ports, link blocks, packets, routing, delivery and reordering (R313 to R343). -/

namespace Sys2Proof.Machine

open Sys2Proof

/-! ### Ports going down (R317, R329) -/

/-- A packet whose buffer lay at a port that is lost holds no buffer any more. -/
def QPacket.leaves (i : QPacket) (p : Fin 81) : QPacket :=
  if i.source.any (·.1 = p) then { i with source := none } else i

/-- The buffers of a lost port's partner are fresh when it comes back: no packet returns credits to it (R323). -/
def Dev.dropBuffers (d : Dev) (p : Fin 81) : Dev :=
  { d with fab := { d.fab with ports := d.fab.ports.map fun q => { q with
      queues := q.queues.map fun l => l.map fun i => i.leaves p
      unacked := q.unacked.map fun u => { u with item := u.item.leaves p } } } }

/-- A packet that was at a lost port is routed again from that port's fabric die (R329). -/
def Dev.reroute (d : Dev) (k : Clock) (p : Fin 81) (i : QPacket) : Dev :=
  d.routePacket k i [(.fabric (portDie p), i.packet.bytes)]

/-- A port leaves the states that carry traffic: its link layer is cleared, its unacknowledged packets and
then those still waiting for it are routed again (R323, R329). The partner of the last probe answer is kept, no longer
valid (R342). (log 44 DEDUCED) -/
def Dev.portLost (d : Dev) (k : Clock) (p : Fin 81) (st : PortState) : Dev :=
  let d := d.dropBuffers p
  let q := d.fab.ports[p]
  let again := q.unacked.map fun t => ({ t.item with source := none } : QPacket)
  let waiting := q.queues.flatMap fun l => l
  let fresh : Port := { Port.cold with
    state := st, trainAt := k.count, stallFc := (List.range 8).map (q.stallNow k), reversed := q.reversed
    polarity := q.polarity, partner := q.partner }
  let d := d.modPort p fun _ => fresh
  let d := if p = 80 && d.lockstep then { d with twin := { d.twin with linkLost := true } } else d
  let keep := fun (i : QPacket) => i.packet.dst ≠ 0xFFFF
  let d := d.countPort .fabPortReroute (again.filter keep).length p
  let d := (again.filter keep ++ waiting.filter keep).foldl (fun d i => d.reroute k p i) d
  d.parentsChanged k

/-- A port fails: to DOWN (R317). -/
def Dev.portDown (d : Dev) (k : Clock) (p : Fin 81) : Dev := d.portLost k p .down

/-- A port comes into service: link layer and credits fresh (R323). -/
def Port.enterUp (q : Port) : Port := { q with state := .up, credits := List.replicate 8 1024 }

/-- The twin link passes to UP where both twins report one mode (R373). -/
def Dev.twinUp (d : Dev) (k : Clock) : Dev :=
  let q := d.fab.ports[(80 : Fin 81)]
  if q.state = .quarantine && d.twin.peer.map (·.1) = some (d.rd .twinCfgMode) then
    ((d.modPort 80 fun q => q.enterUp).pump k 80).parentsChanged k
  else d

/-- TIMESTAMP_BLOCK: a timestamp exchange ends on a port. The offset on the current parent is recorded and
steers: in COARSE the counter is set once from it, otherwise only the rate changes (R33 to R35). t1 and t4 are the
stamps of this device, t2 and t3 those of the partner. (log 77 DESIGN CHOICE) On the twin link the block also carries
the twin's mode, node number and job state (R374). (log 79 DESIGN CHOICE) -/
def execTimestampBlock (port : Fin 81) (t1 t2 t3 t4 : BitVec 64) (status : TwinStatus) (node : BitVec 16)
    (s : State) : Result :=
  let h := twiceOffset t1 t2 t3 t4
  let steers := !s.dev.isRoot && s.dev.parent = some port && s.dev.fab.ports[port].timed
  let steps := steers && s.dev.sync.state = .coarse && !s.dev.keepsTime
  let rates := steers && s.dev.steersRate
  s.act (fun k => if steps then k.setCount ((k.count : Int) + h / 2).toNat
      else if rates then k.setRate s.dev.nextRate else k) fun k d =>
    if !d.fab.ports[port].timed then none
    else
      let q := d.fab.ports[port]
      let d := { d with fab := { d.fab with ports := d.fab.ports.set port { q with gotAt := some (t3.toNat, t4.toNat) } } }
      let d := if port = 80 then
          ({ d with twin := { d.twin with peer := some (status.mode.toNat, node.toNat, status.job.toNat) } } : Dev).twinUp k
        else d
      if !steers then some d
      else
        let d := d.wr .tickOffsetLast (untwos 16 (h * 8))
        let d := if d.steersRate then d.freeRate else d
        some (d.setSync (d.sync.measured h))

/-- ACK_TIMEOUT: no acknowledgement advances for 10,000 counts while blocks are unacknowledged (R317). -/
def execAckTimeout (port : Fin 81) (s : State) : Result :=
  let q := s.dev.fab.ports[port]
  let on := !q.window.isEmpty && (q.state = .up || q.state = .quarantine)
  s.act (fun k => if on then k.toCount (q.ackAt + 10000) else k) fun k d =>
    if on then some (d.portDown k port) else none

/-- PMD_LOCK_LOSS: the PMD loses lock (R317). -/
def execPmdLockLoss (port : Fin 81) (s : State) : Result :=
  s.now fun k d =>
    match d.fab.ports[port].state with
    | .up => some (d.portDown k port)
    | .quarantine => some (d.portDown k port)
    | _ => none

/-- PORT_TRAINING_START: a DOWN port trains at once, and then every 1,000,000 counts (Table FAB-2). -/
def execPortTrainingStart (port : Fin 81) (s : State) : Result :=
  let q := s.dev.fab.ports[port]
  let on := q.state = .down && s.dev.portPresent port
  s.act (fun k => if on then k.toCount q.trainAt else k) fun k d =>
    if on then some (d.modPort port fun q => { q with state := .training, trainAt := k.count + 1000000 }) else none

/-- PORT_TRAINING_END: success leads to QUARANTINE, with lane order and polarity recorded, failure to DOWN;
the twin link passes to UP where both modes are equal (Table FAB-2, R313, R373). (log 44 DEDUCED) -/
def execPortTrainingEnd (port : Fin 81) (ok reversed : Bool) (polarity : BitVec 8) (s : State) : Result :=
  s.now fun k d =>
    let q := d.fab.ports[port]
    if q.state ≠ .training then none
    else if ok then
      let q : Port := { Port.cold with
        state := .quarantine, trainAt := q.trainAt, reversed := reversed, polarity := polarity.toNat, stallFc := q.stallFc
        partner := q.partner }
      let d := (d.modPort port fun _ => q).parentsChanged k
      some (if port = 80 then d.twinUp k else d)
    else some (d.modPort port fun q => { q with state := .down })

/-- FAB_PORT_CMD: 1 enable, 2 disable, 3 probe (R317, R318). The second part tells whether it was not ignored.
(log 18 DEDUCED) -/
def Dev.portCommand (d : Dev) (k : Clock) (fd port cmd : Nat) : Dev × Bool :=
  if h : 8 * fd + port < 80 then
    let p : Fin 81 := ⟨8 * fd + port, by omega⟩
    let st := d.fab.ports[p].state
    if !d.portPresent p then (d, false)
    else match cmd with
      | 1 => if st = .disabled then (d.modPort p fun q => { q with state := .down, trainAt := k.count }, true) else (d, false)
      | 2 => if st = .disabled then (d, false) else (d.portLost k p .disabled, true)
      | 3 => if st = .quarantine || st = .up then (d.sendOneHop k p 0x01 [], true) else (d, false)
      | _ => (d, false)
  else (d, false)

/-! ### Link blocks (R314, R315) -/

/-- A packet from its bytes. -/
def parsePacket (bs : List Byte) : Packet :=
  let h := leNat (bs.take 32)
  let b := fun (hi lo : Nat) => bitRange h hi lo
  { dst := BitVec.ofNat 16 (b 15 0), src := BitVec.ofNat 16 (b 31 16), mid := BitVec.ofNat 16 (b 47 32)
    tag := BitVec.ofNat 24 (b 71 48), epoch := BitVec.ofNat 16 (b 87 72), phase2 := b 90 90 = 1
    chan := BitVec.ofNat 2 (b 89 88), flowlet := BitVec.ofNat 12 (b 103 92), order := BitVec.ofNat 24 (b 127 104)
    seq := BitVec.ofNat 32 (b 159 128), op := BitVec.ofNat 8 (b 167 160), len := BitVec.ofNat 7 (b 174 168)
    hops := BitVec.ofNat 4 (b 179 176), opword := BitVec.ofNat 40 (b 223 184)
    rsvd := BitVec.ofNat 6 (b 91 91 + 2 * b 175 175 + 4 * b 183 180), crc := BitVec.ofNat 32 (b 255 224)
    payload := bs.drop 32 }

/-- Cut received bytes into packets: units of zeros between packets are skipped (R314). Answers the
packets and the bytes of a packet not yet complete. (log 44 DEDUCED) -/
def cutPackets : Nat → List Byte → List Packet × List Byte
  | 0, bs => ([], bs)
  | n + 1, bs =>
    if bs.length < 32 then ([], bs)
    else if allZero (bs.take 32) then cutPackets n (bs.drop 32)
    else
      let len := 32 + 64 * (bitRange (leNat (bs.take 32)) 174 168 + 1)
      if bs.length < len then ([], bs)
      else
        let (ps, rest) := cutPackets n (bs.drop len)
        (parsePacket (bs.take len) :: ps, rest)

/-- The acknowledgement of a trailer (R315, R316). -/
def Dev.takeAck (d : Dev) (k : Clock) (p : Fin 81) (tr : Nat) : Dev :=
  let q := d.fab.ports[p]
  let step := (bitRange tr 23 12 + 1 + 4096 - q.acked % 4096) % 4096
  if step = 0 || q.acked + step > q.blocks then d
  else
    let a := q.acked + step
    let rtt := match q.window[step - 1]? with | none => q.rtt | some t => min (k.count - t.sentAt) 65535
    d.modPort p fun q => { q with
      acked := a, unacked := q.unacked.filter fun t => a ≤ t.lastBlock
      window := q.window.drop step
      ackAt := k.count, replays := 0, rtt := rtt }

/-- The credits of a trailer (Table FAB-1). -/
def Port.addCredits (q : Port) (tr : Nat) : Port :=
  let add := fun (cs : List Nat) (v n : Nat) => modifyAt cs v fun c => min 1024 (c + n)
  { q with credits := add (add q.credits (bitRange tr 34 32) (bitRange tr 47 35)) (bitRange tr 50 48) (bitRange tr 63 51) }

/-- A block as it is sent again: its body, number and credits, and what the port acknowledges now (R315). -/
def LinkBlock.again (b : LinkBlock) (q : Port) : LinkBlock := { b with acked := (q.rxNext + 4095) % 4096, nak := false }

/-- Send every unacknowledged block again, oldest first (R315). -/
def Dev.replay (d : Dev) (p : Fin 81) : Dev :=
  let q := d.fab.ports[p]
  q.window.foldl (fun d x => d.emitBlock p (x.block.again q)) d

/-- A NAK: go back to the acknowledged block + 1. Sixteen replays of one block take the port down
(R315, R317). (log 44 DEDUCED) -/
def Dev.takeNak (d : Dev) (k : Clock) (p : Fin 81) : Dev :=
  let q := d.fab.ports[p]
  let n := q.window.length
  let d := d.countPort .fabPortNaks 1 p
  if n = 0 then d
  else
    let d := (d.countPort .fabPortReplays n p).modPort p fun q => { q with replays := q.replays + 1 }
    if q.replays + 1 ≥ 16 then d.portDown k p else d.replay p

/-- The packet ends here: it is for this device or of one hop (R319). -/
def Dev.endsHere (d : Dev) (p : Packet) : Bool := p.dst.toNat = d.node || p.dst = 0xFFFF

/-- Accept the body of a numbered block in sequence. A port direction's declared work counts no packet that only passes
through, received or sent (R47). (log 44 DEDUCED) -/
def Dev.takeBody (d : Dev) (p : Fin 81) (kind : Nat) (body : List Byte) : Dev :=
  let d := d.modPort p fun q => { q with rxNext := (q.rxNext + 1) % 4096, ackDue := true }
  if kind ≠ 0 then d
  else
    let all := d.fab.ports[p].rxBytes ++ body
    let (ps, rest) := cutPackets (all.length / 32 + 1) all
    let d := d.modPort p fun q => { q with rxBytes := rest }
    let d := { d with fab := { d.fab with inbox := d.fab.inbox ++ ps.map fun x => (p, x) } }
    let n := sumBy (ps.filter d.endsHere) Packet.bytes
    if p.val = 80 then d.addWork 0xD 1 n else d.addWork 0xB (16 * (p.val / 8) + 2 * (p.val % 8) + 1) n

/-- A block whose CRC is good: a numbered one is taken if it is the next one and is discarded otherwise; what its trailer
says of acknowledgements and credits is taken with it (R315). -/
def Dev.takeBlock (d : Dev) (k : Clock) (p : Fin 81) (tr : Nat) (body : List Byte) : Dev :=
  let kind := bitRange tr 25 24
  if kind ≤ 1 && bitRange tr 11 0 ≠ d.fab.ports[p].rxNext then d
  else
    let d := if kind ≤ 1 then d.takeBody p kind body else d
    let d := (d.takeAck k p tr).modPort p fun q => q.addCredits tr
    if bitAt tr 26 then d.takeNak k p else d

/-- LINK_BLOCK_RECEIVE: a block is checked, acknowledged, credited or NAKed (R314, R315). The CRC of an idle block is
checked too, but nothing follows from a bad one. -/
def execLinkBlockReceive (port : Fin 81) (body : List Byte) (trailer : BitVec 128) (s : State) : Result :=
  s.now fun k d =>
    if !d.fab.ports[port].timed || body.length ≠ 4096 then none
    else
      let tr := trailer.toNat
      let good := (crc32c (body ++ leBytes 12 (tr % 2 ^ 96))).toNat = bitRange tr 127 96
      let d := if good then d.takeBlock k port tr body
        else if bitRange tr 25 24 = 2 then d
        else d.modPort port fun q => { q with nakOut := true }
      some (d.pump k port)

/-! ### Probes (R318) -/

/-- Take a packet out of the list of assembled packets. -/
def Dev.takeIn (d : Dev) (port : Fin 81) (p : Packet) : Dev :=
  { d with fab := { d.fab with inbox := d.fab.inbox.erase (port, p) } }

/-- A 7-bit port code. -/
def portCode (p : Fin 81) : Nat := if p.val = 80 then 0x78 else p.val

/-- A one-hop packet ends at the fabric die of its port: it leaves its buffer there (R323), and one that is not whole or
not defined is dropped and counted (R319, R320). A port that does not carry it now does not bring it (Table FAB-2). -/
def Dev.oneHop (d : Dev) (k : Clock) (port : Fin 81) (p : Packet) (f : Dev → Dev) : Option Dev :=
  if p.dst = 0xFFFF && d.fab.ports[port].carries p then
    let d := (d.takeIn port p).freeBuffer k ⟨p, portDie port, some (port, p.vc), false⟩
    some (if p.good then f d else d.count .fabRtCrcDrop 1 (portDie port))
  else none

/-- PROBE: answered with this device's node number, the port code and the counter at receipt (R318); the
places of these fields in the answer's payload are the model's choice. (log 44 DEDUCED) -/
def execProbe (port : Fin 81) (p : Packet) (s : State) : Result :=
  s.now fun k d =>
    if p.op ≠ 0x01 then none
    else d.oneHop k port p fun d => d.sendOneHop k port 0x81
      (leBytes 2 d.node ++ leBytes 6 (portCode port) ++ leBytes 8 k.count)

/-- PROBE_ANSWER: the partner is recorded (R318). -/
def execProbeAnswer (port : Fin 81) (p : Packet) (s : State) : Result :=
  s.now fun k d =>
    if p.op ≠ 0x81 then none
    else d.oneHop k port p fun d => d.modPort port fun q => { q with
      partner := some (field p.payload 0 2, field p.payload 2 1 % 128), partnerValid := true }

/-! ### Arrival and delivery (R328, R331 to R335) -/

/-- PACKET_ARRIVE: a packet that has arrived on a port is routed onward, delivered or dropped; a one-hop packet ends here
(R318, R328). (log 74 DESIGN CHOICE) -/
def execPacketArrive (port : Fin 81) (p : Packet) (s : State) : Result :=
  s.now fun k d =>
    if p.dst = 0xFFFF then
      d.oneHop k port p fun d => { d with out := { d.out with released := d.out.released ++ [p] } }
    else if d.fab.ports[port].state = .up then some ((d.takeIn port p).arrive k port p)
    else none

/-- The device accepts packets under this key (R331). -/
def Dev.accepts (d : Dev) (key : Key) : Bool :=
  (d.job.keyed && key = d.jobKey) || d.tier.lendKey = some key || key = d.mgmtKey

/-- Bytes held in the reorder buffer of a home die. -/
def Dev.held (d : Dev) (fd : Nat) : Nat :=
  sumBy (d.fab.rxOrders.filter fun r => d.homeDie r.node = fd) fun r => sumBy r.held fun h => h.1.bytes

/-- A packet goes to its consumer, which refuses none; the agent drops and counts what it cannot use (R336). -/
def Dev.consume (d : Dev) (k : Clock) (p : Packet) : Dev :=
  if !p.useless then { d with out := { d.out with released := d.out.released ++ [p] } }
  else if d.sec.fixed && opSealed p.op.toNat && !d.macOk k p then d.count .secMacDrop
  else d.count .secAgentDrop

/-- The bytes of a job's packet that its consumer takes move to it from the home fabric die: the global memory unit lies
on HB0 (R21, R24, R332). The exchange and collective engines lie on the fabric dies. -/
def Dev.toConsumer (d : Dev) (p : Packet) : Dev :=
  if (p.isGmem && p.chan ≠ 3) && d.ownsPacket p then
    d.carry (.fabric (d.homeDie p.src.toNat)) (.hub 0) p.bytes
  else d

/-- Release one packet of a sequence (R333). After a gap the packets of the stream in which it lies are discarded up to
the end marker; a packet that belongs to no stream shows that none was in progress (R335). (log 45 DEDUCED) -/
def Dev.releaseOne (d : Dev) (k : Clock) (p : Packet) (r : RxOrder) : Dev × RxOrder :=
  let r := { r with stream := if p.isStream then some p.slotOf else none }
  if r.cutting && p.isStream then
    (d.count .fabRtStreamCut 1 (d.homeDie p.src.toNat), r)
  else ((d.toConsumer p).consume k p, { r with cutting := false })

/-- The state of a sequence. -/
def RxOrder.same (r : RxOrder) (key : Key) (node chan : Nat) : Bool := r.key = key && r.node = node && r.chan = chan

/-- Replace a sequence's state. -/
def Dev.setRx (d : Dev) (r : RxOrder) : Dev :=
  let us := d.fab.rxOrders
  let known := us.any fun u => u.same r.key r.node r.chan
  let us := if known then us.map fun u => if u.same r.key r.node r.chan then r else u else us ++ [r]
  { d with fab := { d.fab with rxOrders := us } }

/-- Release every held packet that follows in sequence (R333). -/
def Dev.drain (k : Clock) : Nat → Dev → RxOrder → Dev
  | 0, d, r => d.setRx r
  | n + 1, d, r =>
    match r.held.find? fun h => h.1.order.toNat = r.next with
    | none => d.setRx r
    | some h =>
      let (d, r) := d.releaseOne k h.1 r
      Dev.drain k n d { r with next := (r.next + 1) % 2 ^ 24, held := r.held.erase h }

/-- How far a number lies after X, modulo 2^24. -/
def orderAfter (x o : Nat) : Nat := (o + 2 ^ 24 - x) % 2 ^ 24

/-- The one packet lost was the end marker of the stream in progress: what follows belongs to another slot, or to no
stream. -/
def RxOrder.markerLost (r : RxOrder) (lost : Nat) : Bool :=
  lost = 1 && match r.stream, r.held.find? fun h => orderAfter r.next h.1.order.toNat = lost with
    | some a, some (p, _) => !(p.isStream || p.isMarker) || p.slotOf ≠ a
    | _, _ => false

/-- Release a sequence past its gap: X jumps to the lowest held number (R335). Where a packet of a stream lies behind the
gap, its stream may have lost packets, which its header does not tell: it counts as cut, but where the one packet lost
is the end marker of another stream. (log 45 DEDUCED) -/
def Dev.passGap (d : Dev) (k : Clock) (r : RxOrder) : Dev :=
  match (r.held.map fun h => orderAfter r.next h.1.order.toNat).min? with
  | none => d
  | some j =>
    let d := d.count .fabRtReorderGap 1 (d.homeDie r.node)
    Dev.drain k (r.held.length + 1) d { r with
      next := (r.next + j) % 2 ^ 24, cutting := !r.markerLost j }

/-- Make room in a full reorder buffer: the sequence whose held packet is oldest goes first (R335).
(log 45 DEDUCED) -/
def Dev.makeRoom (k : Clock) (fd n : Nat) : Nat → Dev → Dev
  | 0, d => d
  | fuel + 1, d =>
    if d.held fd + n ≤ 4194304 then d
    else
      let rs := d.fab.rxOrders.filter fun r => d.homeDie r.node = fd && !r.held.isEmpty
      let age := fun (r : RxOrder) => (r.held.map (·.2)).min?
      match (rs.filterMap age).min? with
      | none => d
      | some t =>
        match rs.find? fun r => age r = some t with
        | none => d
        | some r => Dev.makeRoom k fd n fuel (d.passGap k r)

/-- The state of a packet's sequence; X is 0 for a new key (R333). -/
def Dev.rxOf (d : Dev) (p : Packet) : RxOrder :=
  (d.fab.rxOrders.find? fun r => r.same p.key p.src.toNat p.chan.toNat).getD
    ⟨p.key, p.src.toNat, p.chan.toNat, 0, [], false, none⟩

/-- The next packet of a sequence is released, and the held ones that follow it (R333). -/
def Dev.inSequence (d : Dev) (k : Clock) (p : Packet) (r : RxOrder) : Dev :=
  let (d, r) := d.releaseOne k p r
  Dev.drain k (r.held.length + 1) d { r with next := (r.next + 1) % 2 ^ 24 }

/-- An accepted packet enters the reorder buffer (R333 to R335). (log 45 DEDUCED) -/
def Dev.reorder (d : Dev) (k : Clock) (p : Packet) : Dev :=
  let fd := d.homeDie p.src.toNat
  let r := d.rxOf p
  let a := orderAfter r.next p.order.toNat
  if a = 0 then d.inSequence k p r
  else if a ≥ 2 ^ 23 || (r.held.any fun h => h.1.order = p.order) then d.count .fabRtDupDrop 1 fd
  else
    let d := Dev.makeRoom k fd p.bytes (sumBy d.fab.rxOrders (fun r => r.held.length) + 1) d
    let r := d.rxOf p
    let a := orderAfter r.next p.order.toNat
    if a = 0 then d.inSequence k p r
    else if a ≥ 2 ^ 23 then d.count .fabRtDupDrop 1 fd
    else
      let d := d.setRx { r with held := r.held ++ [(p, k.count)] }
      d.peak .fabRtReorderPeak (ceilDiv (d.held fd) 64) fd

/-- The fabric die on which a packet that waits for its checks came in; none for one behind another of its class that came
in on that die for the same home die, which arrives first (R22). A packet that waits nowhere came in on its home die.
(log 74 DESIGN CHOICE, 80 DEDUCED) -/
def Dev.inDie (d : Dev) (p : Packet) : Option Nat :=
  let home := d.homeDie p.src.toNat
  match d.fab.toDeliver.find? fun e => e.2 = p with
  | none => some home
  | some (fd, _) =>
    let first := d.fab.toDeliver.find? fun e =>
      e.1 = fd && d.homeDie e.2.src.toNat = home && e.2.traffic = p.traffic
    if first.map (·.2) = some p then some fd else none

/-- PACKET_DELIVER: a packet at its destination is checked for CRC and key, and one that is accepted crosses as job traffic
to its home die and enters the reorder buffer (R319, R320, R331 to R334). -/
def execPacketDeliver (p : Packet) (s : State) : Result :=
  s.now fun k d =>
    if p.dst.toNat ≠ d.node then none
    else
      (d.inDie p).map fun fd =>
        let d := { d with fab := { d.fab with toDeliver := d.fab.toDeliver.erase (fd, p) } }
        let home := d.homeDie p.src.toNat
        if !p.good then d.count .fabRtCrcDrop 1 home
        else if !d.accepts p.key then d.count .fabRtStranger 1 home
        else (d.carry (.fabric fd) (.fabric home) p.bytes).reorder k p

/-- FAB_CFG_REORDER of a home die, in counts (R335). -/
def Dev.reorderWait (d : Dev) (fd : Nat) : Nat := 1000 * d.rd .fabCfgReorder fd

/-- REORDER_TIMEOUT: the oldest held packet of a sequence has waited its time, and the sequence is released
past its gap (R335). -/
def execReorderTimeout (tag : BitVec 24) (epoch src : BitVec 16) (chan : BitVec 2) (s : State) : Result :=
  let r? := s.dev.fab.rxOrders.find? fun r => r.same ⟨tag.toNat, epoch.toNat⟩ src.toNat chan.toNat
  let due := r?.bind fun r => (r.held.map (·.2)).min?.map fun t => t + s.dev.reorderWait (s.dev.homeDie r.node)
  s.act (fun k => match due with | some t => k.toCount t | none => k) fun k d =>
    match r?, due with
    | some r, some _ => some (d.passGap k r)
    | _, _ => none

/-! ### Route commits (R330) -/

/-- The count at which a waiting commit takes effect: the commit count, or while a job is RUNNING the first
frame boundary at or after it that has not passed. -/
def Dev.commitCount (d : Dev) (k : Clock) (t : Nat) : Nat :=
  if d.job.phase = .running && d.period ≠ 0 then
    let b := d.frame.boundary
    let m := max t k.count
    if m ≤ b then b else b + ceilDiv (m - b) d.period * d.period
  else t

/-- FAB_RT_CMD: a commit is scheduled; a second command replaces a waiting one (R330). -/
def Dev.routeCommand (d : Dev) : Dev :=
  { d with fab := { d.fab with commitAt := some (d.rd64 .fabRtAtLo .fabRtAtHi) } }

/-- The QUARANTINE ports that their dies' admit masks name become UP (R330). -/
def Dev.admitPorts (d : Dev) (k : Clock) : Dev :=
  (List.finRange 81).foldl (fun d p =>
    if p.val < 80 && d.fab.ports[p].state = .quarantine && bitAt (d.rd .fabRtAdmit (p.val / 8)) (p.val % 8) then
      (d.modPort p Port.enterUp).pump k p
    else d) d

/-- ROUTE_COMMIT: the shadow tables, list and admit masks become live at once (R330). -/
def execRouteCommit (s : State) : Result :=
  s.act (fun k => match s.dev.fab.commitAt with | some t => k.toCount (s.dev.commitCount k t) | none => k) fun k d =>
    match d.fab.commitAt with
    | none => none
    | some _ =>
      let d := { d with fab := { d.fab with
        live := d.fab.shadow, midLive := d.fab.midShadow, midCount := d.rd .fabMidCount
        commitAt := none, commits := (d.fab.commits + 1) % 65536 } }
      some ((d.admitPorts k).parentsChanged k)

/-! ### Congestion maps (R341) -/

/-- Close the stall window of one port. (log 46 DEDUCED) -/
def Dev.closeWindow (d : Dev) (k : Clock) (p : Fin 81) : Dev :=
  let q := d.fab.ports[p]
  let st := (List.range 8).map fun v => min 1600 (q.stallNow k v)
  let d := d.modPort p fun q => { q with
    stallFc := List.replicate 8 0, stallFrom := q.stallFrom.map fun o => o.map fun _ => k.units }
  if p.val = 80 then d
  else st.zipIdx.foldl (fun d (n, v) =>
    if n = 0 then d
    else
      let idx := 8 * (p.val % 8) + v
      let d := (d.count .fabMapStall n (p.val / 8) idx).peak .fabMapPeak n (p.val / 8) idx
      if n ≥ 160 then d.count .fabMapWindows 1 (p.val / 8) idx else d) d

/-- CONGESTION_WINDOW_END: a window of 1 µs ends at a multiple of 1,000 counts (R341). -/
def execCongestionWindowEnd (s : State) : Result :=
  s.act (fun k => k.toCount ((k.count / 1000 + 1) * 1000)) fun k d =>
    some ((List.finRange 81).foldl (fun d p => d.closeWindow k p) d)

end Sys2Proof.Machine
end

