-- ==== Sys2Proof/Machine/Power.lean ====
section
/-! DEFINITION. Power and temperature: samples, reduction, trip, the thermal alert and the limiter's targets
(R476 to R479, R485). -/

namespace Sys2Proof.Machine

open Sys2Proof

/-- Change the power and thermal state. -/
def Dev.modPwr (d : Dev) (f : Pwr → Pwr) : Dev := { d with pwr := f d.pwr }

/-! ### Sensors (R476) -/

/-- Sensors of unit `u`: compute dies 0 to 11, hubs 12 and 13, fabric dies 14 to 23, stacks 24 to 43, as first
sensor and count. (log 58 DEDUCED) -/
def sensorsOf (u : Nat) : Nat × Nat :=
  if u < 12 then (8 * u, 8)
  else if u < 24 then (96 + 2 * (u - 12), 2)
  else (120 + (u - 24), 1)

/-- A unit of the package is fitted. -/
def Dev.unitPresent (d : Dev) (u : Nat) : Bool :=
  u < 14 || (u < 24 && u - 14 < d.order.fabricDies) || (24 ≤ u && u - 24 < d.order.hbmStacks)

/-- A sensor's reading, in 0.25 °C units; a sensor without a reading reads 0. -/
def Pwr.read (p : Pwr) (i : Nat) : Int := ((p.temps[i]?).map BitVec.toInt).getD 0

/-- The hottest of a list of readings, 0 for none. -/
def hottest (l : List Int) : Int := match l with | [] => 0 | a :: t => t.foldl max a

/-- Readings of a unit. -/
def Pwr.unit (p : Pwr) (u : Nat) : List Int := (List.range (sensorsOf u).2).map fun j => p.read ((sensorsOf u).1 + j)

/-- The hottest reading of a unit, 0 for one that is absent (Table ELEC-13). -/
def Dev.unitTemp (d : Dev) (u : Nat) : Int := if d.unitPresent u then hottest (d.pwr.unit u) else 0

/-- The units that are fitted. -/
def Dev.units (d : Dev) : List Nat := (List.range 44).filter d.unitPresent

/-- The hottest junction (R476). (log 58 DEDUCED) -/
def Dev.junction (d : Dev) : Int := hottest (d.units.flatMap d.pwr.unit)

/-! ### The thermal alert (R479) -/

/-- THERM_ALERT_N is asserted. -/
def Dev.thermAlert (d : Dev) : Bool :=
  d.pwr.spent || d.pwr.spentLast || !d.pwr.reduced.isEmpty || d.pwr.tripped ||
    d.junction ≥ ((d.rd .pwrTjTarget + 5) * 4 : Nat)

/-- A change that may assert the alert: its assertion sets the event bit of the SMBus target (Table HOST-3). -/
def Dev.alerting (d : Dev) (f : Dev → Dev) : Dev :=
  let e := f d
  if !d.thermAlert && e.thermAlert then e.smbEvent 2 else e

/-- The limiter has spent the budget of the frame (R52, R479). (log 57 DEDUCED) -/
def Dev.budgetSpent (d : Dev) : Dev :=
  ((d.flag .tickEvBudget).smbEvent 3).alerting fun d => d.modPwr fun p => { p with spent := true }

/-- A frame, or a period without a RUNNING job, ends for the alert (R479). -/
def Dev.alertPeriod (d : Dev) : Dev :=
  d.alerting fun d => d.modPwr fun p => { p with spentLast := p.spent, spent := false }

/-! ### Reduction and trip (R478) -/

/-- Count the time in reduction up to now (PWR_REDUCE_COUNTS): the counts that have passed, whatever the counter has been
set to meanwhile. (log 58 DEDUCED) -/
def Dev.countReduced (d : Dev) (k : Clock) : Dev :=
  let d := if d.pwr.reduced.isEmpty then d else d.count .pwrReduceCounts (k.units / 7 - d.pwr.reducedTo / 7)
  d.modPwr fun p => { p with reducedTo := k.units }

/-- What a sample means for the reduction of one compute die: 105 °C starts it and halves the die's arithmetic clock, and the time at or below 100 °C
is kept. -/
def Dev.sampleDie (d : Dev) (k : Clock) (x : Nat) : Dev :=
  let ts := d.pwr.unit x
  let cool := ts.all fun t => t ≤ 400
  if d.pwr.reduced.any fun r => r.1 = x then
    d.modPwr fun p => { p with reduced := p.reduced.map fun r =>
      if r.1 = x then (x, if cool then some (r.2.getD k.units) else none) else r }
  else if ts.any fun t => 420 ≤ t then
    (d.modPwr fun p => p.reduce k.units (p.reduced ++ [(x, none)])).flag .pwrEvReduce
  else d

/-- TEMP_SAMPLE: every 10 µs all sensors are sampled (R476). Two readings of one sensor at 115 °C trip the device:
its clocks stop and its ports drop (R478). (log 58 DEDUCED) -/
def execTempSample (temps : List (BitVec 12)) (power : BitVec 12) (s : State) : Result :=
  s.act (fun k => k.toUnit ((k.units / 70000 + 1) * 70000)) fun k d =>
    let last := d.pwr.temps
    let hot := fun (u : Nat) => (List.range (sensorsOf u).2).any fun j =>
      let i := (sensorsOf u).1 + j
      460 ≤ d.pwr.read i && i < last.length && 460 ≤ ((temps[i]?).map BitVec.toInt).getD 0
    let trip := d.units.any hot
    some (d.alerting fun d =>
      let d := (d.countReduced k).modPwr fun p => { p with
        temps := temps, watts := power.toNat, energy := p.energy + power.toNat }
      let d := (List.range 12).foldl (fun d x => d.sampleDie k x) d
      if trip then
        ((List.finRange 81).foldl (fun d p => d.portDown k p) d).modPwr fun p => { p with tripped := true }
      else d)

/-- REDUCTION_EXIT: all eight sensors of a die have read at or below 100 °C for 1 ms, and its clock runs at its
full rate again (R478). -/
def execReductionExit (die : Fin 12) (s : State) : Result :=
  let from_ := (s.dev.pwr.reduced.find? fun r => r.1 = die.val).bind (·.2)
  s.act (fun k => match from_ with | some u => k.toUnit (u + 7000000) | none => k) fun k d =>
    match from_ with
    | none => none
    | some _ => some (d.alerting fun d => (d.countReduced k).modPwr fun p =>
        p.reduce k.units (p.reduced.filter fun r => r.1 ≠ die.val))

/-! ### The limiter's targets (R485) -/

/-- The effect of a completed pair of PWR_CAP: a value outside 1,000 to 2,800 is ignored. -/
def Dev.setPwrCap (d : Dev) (v : Nat) : Dev × Bool :=
  let v := bitRange v 11 0
  if 1000 ≤ v ∧ v ≤ 2800 then (d.wr .pwrCapW v, true) else (d.flag .pwrEvCapReject, false)

/-- The effect of a completed pair of PWR_TJ: a value outside 70 to 100 is ignored. -/
def Dev.setPwrTj (d : Dev) (v : Nat) : Dev × Bool :=
  let v := bitRange v 7 0
  if 70 ≤ v ∧ v ≤ 100 then (d.alerting fun d => d.wr .pwrTjTarget v, true) else (d.flag .pwrEvCapReject, false)

/-! ### Summary counters (R341, R342, R449, R467, R479, R485) -/

/-- Latch the summary counters of every block, the corrected memory errors and the codewords of forward error correction among
them (log 93 DESIGN CHOICE), with the maps' stamp; a frame or period ends for the alert. -/
def Dev.latchSummary (d : Dev) (k : Clock) (stamp : Nat) : Dev :=
  let d := (d.countReduced k).latch [.summary]
  let d := (d.wr .hubEccHbmCorr (min (Config.corrected 0 stamp k.count) (2 ^ 32 - 1))).wr .hubEccSramCorr
    (min (Config.corrected 1 stamp k.count) (2 ^ 32 - 1))
  let fec := fun (d : Dev) (f : Fld) (x p : Nat) =>
    d.wr f (min (Config.corrected (2 + 2 * p + x) stamp k.count) (2 ^ 32 - 1)) (p / 8) (p % 8)
  let d := (List.range (8 * d.order.fabricDies)).foldl (fun d p => fec (fec d .fabPortFecCorr 0 p) .fabPortFecUncorr 1 p) d
  ((List.range d.order.fabricDies).foldl (fun d f => d.wr .fabMapStamp stamp f) d).alertPeriod

/-- SUMMARY_PERIOD_LATCH: at multiples of 1,000,000 counts while no job is RUNNING (R341). -/
def execSummaryPeriodLatch (s : State) : Result :=
  let on := s.dev.job.phase ≠ .running
  s.act (fun k => if on then k.toCount ((k.count / 1000000 + 1) * 1000000) else k) fun k d =>
    if on then some (d.latchSummary k k.count) else none

end Sys2Proof.Machine
end

