-- ==== Sys2Proof/Machine/Operands.lean ====
section
/-! DEFINITION. Operands: descriptor roles, where a tile lies, and reading and writing tiles (R80 to R82, R95,
R96, R118, R131, R155 to R162). -/

namespace Sys2Proof.Machine

open Sys2Proof

/-! ### Roles (Table ENC-6) -/

/-- The role of a descriptor operand; the routing classes name the formats their chapters give, none for any. -/
inductive Role where
  | moveSrc | moveDst | mmLoad | mmRun | mmPair | dense0
  | routing (fmts : List Nat)
  /-- Token identifiers of SEP.HASH: their descriptor states 1 to 4,096 tokens (Table SEP-1). -/
  | identifiers
  | gmem
  deriving DecidableEq, Repr

/-- What a role check finds: nothing, a format violation or another one (R96). -/
inductive RoleCheck where
  | ok | format | other
  deriving DecidableEq, Repr

/-- Element width of a format code, 0 for an undefined one. -/
def fmtWidth (c : Nat) : Nat := match Fmt.ofCode c with | none => 0 | some f => f.width

/-- Check a descriptor against a role (R96, Table ENC-6). -/
def checkRole (r : Role) (t : TileDesc) : RoleCheck :=
  let f := Td.format t
  let w := fmtWidth f
  let sp := Td.space t
  let ly := Td.layout t
  let spaceOk := match r with
    | .moveSrc => sp < 4
    | .moveDst => sp < 4
    | .routing _ => sp == 0 || sp == 1 || sp == 3
    | .identifiers => sp == 0 || sp == 1 || sp == 3
    | .gmem => sp < 3
    | _ => sp == 0
  let layoutOk := match r with
    | .moveSrc => true
    | .moveDst => true
    | .mmLoad => ly != 1
    | .mmPair => ly == 1
    | _ => ly == 0
  let transOk := match r with
    | .moveSrc => !Td.transpose t || (w ≤ 16 && ly == 0)
    | _ => true
  let fmtOk := match r with
    | .mmLoad => f != 21
    | .mmPair => w ≤ 8
    | .routing fs => fs.isEmpty || fs.contains f
    | .identifiers => f == 21
    | _ => true
  let defOk := r = .gmem || f < 22
  let countOk := r ≠ .identifiers || 64 * (Td.rows t - 1) + Td.vrows t ≤ 4096
  if !(spaceOk && layoutOk && transOk && tdAligned t && defOk && countOk) then .other
  else if !fmtOk || (r ≠ .gmem && w > 8 && ly != 0) then .format
  else .ok

/-- F32, the format of scores and similar operands. -/
def fF32 : Nat := 21

/-- The descriptor operands of an instruction with their roles: number and role (Table ENC-6; the routing
formats are those of the chapters of the classes). The TDD of COLL.REDUCE has a role at the root only (R351). -/
def operandRoles (w : InsWord) : List (Nat × Role) :=
  let d := wbits w 111 106
  let a := wbits w 105 100
  let b := wbits w 99 94
  let c := wbits w 93 88
  match wCls w, wOp w with
  | 0x0, 1 => [(d, .moveDst), (a, .moveSrc)]
  | 0x0, 2 => [(d, .moveDst)]
  | 0x1, 1 => [(a, .mmLoad)]
  | 0x1, 2 => [(a, .mmRun)]
  | 0x1, 3 => [(d, .dense0)]
  | 0x1, 4 => [(a, .mmPair), (b, .mmPair)]
  | 0x2, 1 => [(d, .dense0), (a, .dense0)]
  | 0x2, 2 => [(d, .dense0), (a, .dense0), (c, .dense0)]
  | 0x2, 3 => [(d, .dense0), (a, .dense0), (b, .dense0)]
  | 0x2, 4 => [(d, .dense0), (a, .dense0), (b, .dense0), (c, .dense0)]
  | 0x3, 3 => [(d, .dense0), (a, .dense0), (b, .dense0), (c, .dense0)]
  | 0x3, 4 => [(d, .dense0), (a, .dense0)]
  | 0x3, 5 => [(d, .dense0), (a, .dense0)]
  | 0x3, 6 => [(a, .dense0)]
  | 0x3, 8 => [(d, .dense0), (a, .dense0), (b, .dense0), (c, .dense0)]
  | 0x3, _ => [(d, .dense0), (a, .dense0), (b, .dense0)]
  | 0x4, 1 => [(d, .routing [fF32]), (a, .routing [fF32, 20])]
  | 0x4, _ => [(d, .routing [fF32]), (a, .identifiers)]
  | 0x5, 1 => [(d, .routing [fF32]), (a, .routing [fF32])]
  | 0x5, 2 => [(d, .routing []), (a, .routing []), (b, .routing [fF32])]
  | 0x6, 1 => [(a, .routing [fF32])]
  | 0x6, 2 => [(d, .routing [])]
  | 0x6, 3 => [(a, .routing [])]
  | 0x6, 4 => [(d, .routing [])]
  | 0x7, 1 => [(a, .routing [])]
  | 0x7, 2 => [(a, .routing [18, 19, 20, 21])]
  | 0x8, 1 => [(d, .gmem)]
  | 0x8, 2 => [(d, .gmem)]
  | _, _ => []

/-- The level that a descriptor's format and layout need (R63, Table TYN-1). -/
def tdLevel (t : TileDesc) : Nat :=
  max (if Td.format t = 18 || Td.format t = 19 then 3 else 1) (if Td.layout t = 0 then 1 else 2)

/-! ### Where a tile lies -/

/-- Scale bytes of a tile: 128 for B formats (R95). -/
def scaleBytes (fmt : Nat) : Nat := if 10 ≤ fmt && fmt ≤ 17 then 128 else 0

/-- Metadata bytes of a tile by layout (Table SPR-1). -/
def metaBytes (layout : Nat) : Nat := match layout with | 1 => 576 | 2 => 576 | 3 => 320 | _ => 0

/-- Side bytes of a tile (R95). -/
def sideBytes (t : TileDesc) : Nat := scaleBytes (Td.format t) + metaBytes (Td.layout t)

/-- Bytes of the dense element image, and so of the tile's slot (R80, R95). -/
def denseBytes (t : TileDesc) : Nat := 512 * fmtWidth (Td.format t)

/-- A Pail that descriptors may name: neither FREE nor RETURNING (R259). -/
def PailState.inUse : PailState → Bool
  | .free => false
  | .returning _ _ => false
  | _ => true

/-- A byte range at an offset field of a descriptor: memory and address, or none where it leaves the space,
the Pail or the usable tile store, or names a FREE or RETURNING Pail (R82, R109, R259). `root` is TD_BASE
or TD_SIDE and `o` the bytes beyond it. -/
def Dev.spaceAt (d : Dev) (core : Fin 48) (t : TileDesc) (root o n : Nat) : Option (Loc × Nat) :=
  match Td.space t with
  | 0 =>
    let lim := match d.image with | none => 48 * 2 ^ 20 | some m => m.form.tileBytes core
    if root + o + n ≤ lim then some (.tile core, root + o) else none
  | 1 =>
    if root + o + n ≤ 32 * 2 ^ 20 then some (.die ⟨core.val / 4, by omega⟩, root + o) else none
  | 2 => if (d.hbmRuns (root + o) n).isSome then some (.hbm, root + o) else none
  | 3 =>
    match d.image with
    | none => none
    | some m =>
      let h := root % 2 ^ 32
      let off := root / 2 ^ 32 * 1024 + o
      let st := Sparse.get d.pail.states .free h
      if m.handleOk h && off + n ≤ pailSize (hClass h) && st.inUse then
        let (l, a) := m.pailAddr d.order.hbmStacks h
        some (l, a + off)
      else none
  | _ => none

/-- Read bytes at a location, device HBM offsets translated (R266). -/
def Dev.at_ (d : Dev) (l : Loc) (a n : Nat) : List Byte :=
  match l with
  | .hbm => d.hbmRead a n
  | _ => d.locRead l a n

/-- Write bytes at a location, device HBM offsets translated (R266). -/
def Dev.put (d : Dev) (l : Loc) (a : Nat) (bs : List Byte) (mask : List Bool := []) : Dev :=
  match l with
  | .hbm => d.hbmWrite a bs mask
  | _ => (d.snapWrite l a bs.length).locWrite l a bs mask

/-- The element image of tile (r, c): offset beyond TD_BASE (R95). -/
def tileOff (t : TileDesc) (r c : Nat) : Nat := r * Td.rstride t + c * Td.cstride t

/-- The side image of tile (r, c): offset beyond TD_SIDE (R95). -/
def sideOff (t : TileDesc) (r c : Nat) : Nat := (r * Td.cols t + c) * sideBytes t

/-- A tile access that the descriptor does not allow: cause 0x8 beyond the extents, 0x9 outside the space
(R82, Table ENC-16). -/
def Dev.tileFault (d : Dev) (core : Fin 48) (t : TileDesc) (r c : Nat) : Option Nat :=
  if r ≥ Td.rows t || c ≥ Td.cols t then some 8
  else if (d.spaceAt core t (Td.base t) (tileOff t r c) (denseBytes t)).isNone then some 9
  else if sideBytes t != 0 && (d.spaceAt core t (Td.side t) (sideOff t r c) (sideBytes t)).isNone then some 9
  else none

/-- The first fault of a rectangle of tiles, rows first. -/
def Dev.tilesFault (d : Dev) (core : Fin 48) (t : TileDesc) (r0 c0 nr nc : Nat) : Option Nat :=
  ((List.range nr).flatMap fun r => (List.range nc).map fun c => (r0 + r, c0 + c)).findSome?
    fun p => d.tileFault core t p.1 p.2

/-- Rows of tile row `r` inside the valid extent (R81). -/
def validRows (t : TileDesc) (r : Nat) : Nat := if r + 1 = Td.rows t then Td.vrows t else 64
/-- Columns of tile column `c` inside the valid extent. -/
def validCols (t : TileDesc) (c : Nat) : Nat := if c + 1 = Td.cols t then Td.vcols t else 64

/-- Linear index `i` of tile (r, c) lies inside the valid extent. -/
def inValid (t : TileDesc) (r c i : Nat) : Bool := i / 64 < validRows t r && i % 64 < validCols t c

/-- Block `b` of tile (r, c) has an element inside the valid extent, so that its reader reads it (R118). -/
def blockLive (t : TileDesc) (r c b : Nat) : Bool := (List.range 32).any fun j => inValid t r c (32 * b + j)

/-! ### Reading a tile -/

/-- A tile as its reader sees it: 4,096 codes with those outside the valid extent zero, the scale bytes of
its 128 blocks, those wholly outside being zero blocks, and what the reading counted (R118, R162). -/
structure TileData where
  codes : List Nat
  scales : List Nat
  /-- Some block of a B format lay inside the valid extent with a clamped scale byte. -/
  clamped : Nat
  idxDrop : Nat
  tagDrop : Nat
  deriving DecidableEq, Repr

/-- Element `i` of an element image of `n`-bit elements (R80). -/
def elemAt (img : Nat) (n i : Nat) : Nat := img / 2 ^ (n * i) % 2 ^ n

/-- Codes by position from a list of (position, packed index) of stored elements. -/
def placeStored (img n : Nat) (l : List (Nat × Nat)) : List Nat :=
  let m := l.foldl (fun (s : Sparse Nat) p => Sparse.insert s p.1 (elemAt img n p.2)) []
  (List.range 4096).map fun i => Sparse.get m 0 i

/-- Stored (position, packed index) pairs of a BITMAP tile, and the dropped indices beyond z (R157, R162). -/
def bitmapStored (mta : List Byte) : List (Nat × Nat) × Nat :=
  let z := min (field mta 2 2) 4096
  let bits := leNat (mta.drop 64)
  let ps := (List.range 4096).filter fun i => bits.testBit i
  ((ps.take z).zipIdx, ps.length - z)

/-- Stored pairs of a 2-OF-4 tile, and second positions equal to the first (R158, R162). -/
def twoOfFour (mta : List Byte) : List (Nat × Nat) × Nat :=
  let bits := leNat (mta.drop 64)
  let gs := (List.range 1024).map fun g => (g, bits / 2 ^ (4 * g) % 4, bits / 2 ^ (4 * g + 2) % 4)
  (gs.flatMap fun (g, p, q) => if p = q then [(4 * g + p, 2 * g)] else [(4 * g + p, 2 * g), (4 * g + q, 2 * g + 1)],
   (gs.filter fun (_, p, q) => p = q).length)

/-- Stored pairs of a 1-OF-4 tile (R158). -/
def oneOfFour (mta : List Byte) : List (Nat × Nat) :=
  let bits := leNat (mta.drop 64)
  (List.range 1024).map fun g => (4 * g + bits / 2 ^ (2 * g) % 4, g)

/-- Read tile (r, c) of a descriptor (R80, R118, R155 to R158, R162). -/
def Dev.readTile (d : Dev) (core : Fin 48) (t : TileDesc) (r c : Nat) : TileData :=
  let n := fmtWidth (Td.format t)
  let img := match d.spaceAt core t (Td.base t) (tileOff t r c) (denseBytes t) with
    | none => 0
    | some (l, a) => leNat (d.at_ l a (denseBytes t))
  let side := if sideBytes t = 0 then [] else
    match d.spaceAt core t (Td.side t) (sideOff t r c) (sideBytes t) with
    | none => []
    | some (l, a) => d.at_ l a (sideBytes t)
  let sc := scaleBytes (Td.format t)
  let scales := (side.take sc).zipIdx.map fun (s, b) => if blockLive t r c b then s.toNat else 0x80
  let mta := side.drop sc
  let tag := field mta 0 1
  let lay := Td.layout t
  let dense := (List.range 4096).map fun i => elemAt img n i
  let (codes, idx, tagd) :=
    if lay = 0 || tag = 0 then (dense, 0, 0)
    else if tag ≠ lay then (List.replicate 4096 0, 0, 1)
    else
      let (st, drop) := match lay with
        | 1 => bitmapStored mta
        | 2 => twoOfFour mta
        | _ => (oneOfFour mta, 0)
      let out := st.filter fun p => !inValid t r c p.1
      (placeStored img n (st.filter fun p => inValid t r c p.1), drop + out.length, 0)
  let codes := codes.zipIdx.map fun (v, i) => if inValid t r c i then v else 0
  let blocks := (List.range 128).filter (blockLive t r c)
  { codes := codes, scales := scales
    clamped := if sc = 0 then 0 else (blocks.filter fun b => (scaleOf (scales.getD b 0)).2).length
    idxDrop := idx, tagDrop := tagd }

/-- A scale byte as an engine that moves a block writes it: inside −15 to +15, or 0x80 (R118). -/
def legalScale (b : Nat) : Nat := match (scaleOf b).1 with
  | none => 0x80
  | some s => (s % 256).toNat

/-- The scale bytes that blocks moved bit for bit carry along, as R118 reads them; a block that is not read
is a zero block. -/
def TileData.movedScales (x : TileData) (live : Nat → Bool) : List Nat :=
  x.scales.zipIdx.map fun (s, b) => if live b then legalScale s else 0x80

/-- The value of element `i` of a tile read through a descriptor. -/
def TileData.val (x : TileData) (f : Fmt) (i : Nat) : Val :=
  f.decode (if f.blocked then (scaleOf (x.scales.getD (i / 32) 0)).1 else some 0) (x.codes.getD i 0)

/-- Count what a core's reader found in a tile (R118, R162). -/
def Dev.countTile (d : Dev) (core : Fin 48) (x : TileData) : Dev :=
  let d := if x.clamped = 0 then d else d.count .coreFmtScaleClamp x.clamped core
  let d := if x.idxDrop = 0 then d else d.count .coreSprIdxDrop x.idxDrop core
  if x.tagDrop = 0 then d else d.count .coreSprTagDrop x.tagDrop core

/-! ### Writing a tile -/

/-- Random words of an instruction's narrowing: the 32-bit word for each element position it covers, in
groups of four per generator call (R128). (log 63 PRESUMED) -/
def rngWord (seed core engine seq pos : Nat) : Nat :=
  (philox ((core * 4 + engine) * 2 ^ 118 + (seq + pos / 4) % 2 ^ 118) seed).getD (pos % 4) 0

/-- How an instruction rounds: RND, and for keyed stochastic rounding the job seed, core, engine and the
sequence number at its first element position. -/
structure RndCtx where
  stochastic : Bool
  seed : Nat
  core : Nat
  engine : Nat
  seq : Nat
  deriving DecidableEq, Repr

/-- The rounding at an element position of the instruction. -/
def RndCtx.at_ (x : RndCtx) (pos : Nat) : Rounding :=
  if x.stochastic then .stochastic (rngWord x.seed x.core x.engine x.seq pos) else .nearest

/-- A narrowed tile: codes and scale bytes of the blocks to write, with what it counted (R130, R131). -/
structure NarrowTile where
  codes : List Nat
  scales : List Nat
  sat : Nat
  nanZero : Nat
  deriving DecidableEq, Repr

/-- Narrow the values of a tile; `valid` tells which positions are written, `pos0` is the instruction's
element position of index 0 (R128, R130, R131). -/
def narrowTile (f : Fmt) (x : RndCtx) (pos0 : Nat) (valid : Nat → Bool) (vs : List Val) : NarrowTile :=
  let vz := vs.zipIdx
  let scales := if f.blocked then
      (List.range 128).map fun b =>
        chooseScale f.width ((List.range 32).map fun j =>
          if valid (32 * b + j) then vs.getD (32 * b + j) .zero else .zero)
    else []
  let ns := vz.map fun (v, i) =>
    if valid i then f.narrow (x.at_ (pos0 + i)) (scaleOf (scales.getD (i / 32) 0)).1 v else ⟨0, false, false⟩
  { codes := ns.map (·.code), scales := scales
    sat := (ns.filter (·.sat)).length, nanZero := (ns.filter (·.nanZero)).length }

/-- The element image of a list of codes (R80). -/
def packCodes (n : Nat) (cs : List Nat) : Nat := cs.foldr (fun c a => c % 2 ^ n + a * 2 ^ n) 0

/-- A code as it is written: T2's 0b10 reads as 0 and is never written (R115). -/
def Fmt.written (f : Fmt) (code : Nat) : Nat := if f = .t2 && code % 4 = 2 then 0 else code

/-- A code as an engine that carries elements writes it: T2's 0b10 as 0, a NaN as the canonical one of its format (R115,
R117). -/
def Fmt.carried (f : Fmt) (code : Nat) : Nat :=
  match f.float? with
  | some ff => if ff.decode code = .nan then ff.nanCode else code
  | none => f.written code

/-- Is a written code zero: both signs of a floating zero, and every element of a zero block (R159). -/
def zeroCode (f : Fmt) (scale code : Nat) : Bool :=
  match f.float? with
  | some ff => (ff.decode code).isZero
  | none => if f.blocked && scale = 0x80 then true else f.written code % 2 ^ f.width = 0

/-- Compress a converted tile: element bytes, metadata bytes, dropped elements and whether it fell back to
DENSE (R155 to R160). The reserved bytes of the header, and z where the tag is not BITMAP, are 0.
(log 91 DESIGN CHOICE) -/
def compressTile (f : Fmt) (layout : Nat) (cs scales : List Nat) : List Byte × List Byte × Nat × Bool :=
  let n := f.width
  let nz := fun (i : Nat) => !zeroCode f (scales.getD (i / 32) 0) (cs.getD i 0)
  let hdr := fun (tag z : Nat) => [BitVec.ofNat 8 tag, (0 : Byte)] ++ leBytes 2 z ++ List.replicate 60 (0 : Byte)
  let fallback := (leBytes (512 * n) (packCodes n cs), hdr 0 0, 0, true)
  match layout with
  | 1 =>
    let ps := (List.range 4096).filter nz
    let z := ps.length
    let eb := 64 * ceilDiv (z * n) 512
    if eb + 576 > 512 * n + 64 then fallback
    else
      (leBytes eb (packCodes n (ps.map fun i => cs.getD i 0)),
       hdr 1 z ++ leBytes 512 (sumBy ps fun i => 2 ^ i), 0, false)
  | _ =>
    let k := if layout = 2 then 2 else 1
    let eb := (if layout = 2 then 256 else 128) * n
    let mb := metaBytes layout
    if eb + mb > 512 * n + 64 then fallback
    else
      let gs := (List.range 1024).map fun g =>
        let full := (List.range 4).filter fun j => nz (4 * g + j)
        let rest := (List.range 4).filter fun j => !nz (4 * g + j)
        let kept := full.take k
        let ps := (kept ++ rest.take (k - kept.length)).mergeSort
        (ps.map fun j => (j, if nz (4 * g + j) then cs.getD (4 * g + j) 0 else 0), full.length - kept.length)
      let bitsPer := if layout = 2 then 4 else 2
      (leBytes eb (packCodes n (gs.flatMap fun g => g.1.map (·.2))),
       hdr layout 0 ++ leBytes (mb - 64) (gs.foldr (fun g a =>
          (g.1.zipIdx.foldl (fun b (p, i) => b + p.1 * 4 ^ i) 0) + a * 2 ^ bitsPer) 0),
       sumBy gs (·.2), false)

/-- Write a converted tile at (r, c): dense element images keep the old bits outside the valid extent and
the scale bytes of blocks wholly outside it (R82, R131); other layouts are compressed (R159), and hold zeros outside the
valid extent, with tag DENSE too (log 91 DESIGN CHOICE). Answers the
device with its counts of R159 and R160. Positions outside `within` are not written either (R220). -/
def Dev.writeTileIn (d : Dev) (core : Fin 48) (t : TileDesc) (f : Fmt) (r c : Nat) (within : Nat → Bool)
    (x : NarrowTile) : Dev :=
  let n := f.width
  let db := denseBytes t
  let valid := fun (i : Nat) => within i && inValid t r c i
  match d.spaceAt core t (Td.base t) (tileOff t r c) db with
  | none => d
  | some (l, a) =>
    let sc := scaleBytes (Td.format t)
    let putScales := fun (d : Dev) =>
      if sc = 0 then d else
        match d.spaceAt core t (Td.side t) (sideOff t r c) (sideBytes t) with
        | none => d
        | some (sl, sa) =>
          let old := d.at_ sl sa 128
          let hit := (List.range 128).map fun b => (List.range 32).any fun j => valid (32 * b + j)
          d.put sl sa ((List.range 128).map fun b =>
            if hit.getD b false then BitVec.ofNat 8 (x.scales.getD b 0) else old.getD b 0) hit
    if Td.layout t = 0 then
      let old := leNat (d.at_ l a db)
      let cs := (List.range 4096).map fun i => if valid i then x.codes.getD i 0 else elemAt old n i
      let hit := (List.range db).map fun b =>
        (List.range ((8 * b + 7) / n - 8 * b / n + 1)).any fun j => valid (8 * b / n + j)
      putScales (d.put l a (leBytes db (packCodes n cs)) hit)
    else
      let cs := (List.range 4096).map fun i => if valid i then x.codes.getD i 0 else 0
      let (eb, mb, drop, fell) := compressTile f (Td.layout t) cs x.scales
      let d := putScales (d.put l a eb)
      let d := match d.spaceAt core t (Td.side t) (sideOff t r c) (sideBytes t) with
        | none => d
        | some (sl, sa) => d.put sl (sa + sc) mb
      let d := if drop = 0 then d else d.count .coreSprGrpDrop drop core
      if fell then d.count .coreSprFallback 1 core else d

/-- Write a converted tile at every position of the valid extent. -/
def Dev.writeTile (d : Dev) (core : Fin 48) (t : TileDesc) (f : Fmt) (r c : Nat) (x : NarrowTile) : Dev :=
  d.writeTileIn core t f r c (fun _ => true) x

/-- Count saturations and NaNs written as zero (R130). -/
def Dev.countNarrow (d : Dev) (core : Fin 48) (x : NarrowTile) : Dev :=
  let d := if x.sat = 0 then d else d.count .coreFmtSat x.sat core
  if x.nanZero = 0 then d else d.count .coreFmtNanZero x.nanZero core

/-- The header of a stored tile's metadata region (R156). -/
def Dev.tileHeader (d : Dev) (core : Fin 48) (t : TileDesc) (r c : Nat) : List Byte :=
  match d.spaceAt core t (Td.side t) (sideOff t r c) (sideBytes t) with
  | none => []
  | some (l, a) => d.at_ l (a + scaleBytes (Td.format t)) 64

/-- Element bytes and metadata bytes that a tile of a layout occupies with a tag and a count z, the tile of another tag
being counted like one of its layout (R155, R156, R161). -/
def occupied (n layout tag z : Nat) : Nat × Nat :=
  if layout = 0 then (512 * n, 0)
  else if tag = 0 then (512 * n, 64)
  else match layout with
    | 1 => (64 * ceilDiv (min z 4096 * n) 512, 576)
    | 2 => (256 * n, 576)
    | _ => (128 * n, 320)

/-- The element bytes and side bytes of a tile's image, with tag and z as stored (R161). -/
def Dev.tileParts (d : Dev) (core : Fin 48) (t : TileDesc) (r c : Nat) : Nat × Nat :=
  let h := if Td.layout t = 0 then [] else d.tileHeader core t r c
  let (eb, mb) := occupied (fmtWidth (Td.format t)) (Td.layout t) (field h 0 1) (field h 2 2)
  (eb, scaleBytes (Td.format t) + mb)

/-- The bytes that R149 and R161 count for a tile of a descriptor, with tag and z as stored. -/
def Dev.tileImageBytes (d : Dev) (core : Fin 48) (t : TileDesc) (r c : Nat) : Nat :=
  (d.tileParts core t r c).1 + (d.tileParts core t r c).2

end Sys2Proof.Machine
end

