-- ==== Sys2Proof/Machine/Flags.lean ====
section
/-! DEFINITION. Predicates: how SCMP and PSET compute a predicate bit, and how a predicate select reads one
(R78, Table ENC-7). -/

namespace Sys2Proof.Machine

open Sys2Proof

/-- SCMP's comparison under COND: equal, not equal, less signed, less unsigned. -/
def scmpCond (cond : BitVec 2) (a b : Scalar) : Bool :=
  match cond with
  | 0 => a == b
  | 1 => a != b
  | 2 => BitVec.slt a b
  | _ => BitVec.ult a b

/-- PSET's combination under POP: and, or, xor, and-not. -/
def psetOp (pop : BitVec 2) (a b : Bool) : Bool :=
  match pop with
  | 0 => a && b
  | 1 => a || b
  | 2 => a != b
  | _ => a && !b

/-- Is an instruction of predicate select `psel` on: the selected bit, inverted under bit [3] (R78). -/
def Core.selected (c : Core) (psel : Nat) : Bool := c.p (BitVec.ofNat 3 psel) != bitAt psel 3

end Sys2Proof.Machine
end

