-- ==== Sys2Proof/Machine/Routing.lean ====
section
/-! DEFINITION. Layers, hosts, ranks, quotas and expert rows of the routed layers (R190, R193 to R195, R197). -/

namespace Sys2Proof.Machine

open Sys2Proof

/-- The Separator entry of a layer, with its place among the entries. -/
def Image.sepLayer (m : Image) (layer : Nat) : Option (SepLayer × Nat) :=
  match m.form.sep with
  | none => none
  | some p => p.layers.zipIdx.find? fun e => e.1.layer = layer

/-- The exchange entry of a layer. -/
def Image.xchLayer (m : Image) (layer : Nat) : Option XchLayer :=
  match m.form.xch with
  | none => none
  | some p => p.layers.find? fun e => e.layer = layer

/-- The exchange entry of a slot. -/
def Image.xchSlot (m : Image) (slot : Nat) : Option XchSlot :=
  match m.form.xch with
  | none => none
  | some p => p.slots.find? fun e => e.slot = slot

/-- The slots of a layer. -/
def Image.layerSlots (m : Image) (layer : Nat) : List XchSlot :=
  match m.form.xch with
  | none => []
  | some p => p.slots.filter fun e => e.layer = layer

/-- The rank that hosts expert x (R193). -/
def XchLayer.host (l : XchLayer) (x : Nat) : Option Nat := l.hosts[x]?

/-- The local index of expert x on its host (R193). -/
def XchLayer.localIndex (l : XchLayer) (x : Nat) : Nat :=
  ((l.hosts.take x).filter fun h => l.hosts[x]? = some h).length

/-- The expert of a local index on a rank. -/
def XchLayer.expertAt (l : XchLayer) (rank li : Nat) : Option Nat :=
  ((List.range l.hosts.length).filter fun x => l.hosts[x]? = some rank)[li]?

/-- The host capacity C_x of an expert (R194). -/
def Image.capacity (m : Image) (layer x : Nat) : Nat :=
  match m.sepLayer layer with
  | none => 0
  | some (s, _) => s.quotas.getD x 0

/-- The quota q(r, x) of a rank for an expert (R194). -/
def rankQuota (c g r : Nat) : Nat := c / g + (if r < c % g then 1 else 0)

/-- The quota of a member of rank r for expert x: divided among the group where the layer has an exchange
entry, whole otherwise (R189, R194). -/
def Image.quota (m : Image) (layer r x : Nat) : Nat :=
  match m.xchLayer layer with
  | none => m.capacity layer x
  | some l => rankQuota (m.capacity layer x) l.g r

/-- The first expert row of a sender of rank r (R195). -/
def Image.rowBase (m : Image) (layer r x : Nat) : Nat := sumBy (List.range r) fun q => m.quota layer q x

/-- This member's rank in a group of g (R193). -/
def Dev.rank (d : Dev) (g : Nat) : Nat := d.rd .jobMemberIndex % g

/-- The member of a rank in this member's group. -/
def Dev.memberOf (d : Dev) (g rank : Nat) : Nat := d.rd .jobMemberIndex / g * g + rank

/-- The node of a member (R67). -/
def Dev.memberNode (d : Dev) (member : Nat) : Nat := d.rd .jobBaseNode + member

/-- The node is this device's twin (R67). -/
def Dev.isTwin (d : Dev) (node : Nat) : Bool := d.twin.peer.map (·.2.1) = some node

/-- Offsets of the statistics region (R190): the quota array of layer entry i, and its record in a buffer. -/
def SepPart.quotaAt (p : SepPart) (i : Nat) : Nat := p.stats + sumBy (p.layers.take i) fun l => 4 * l.n

/-- Bytes of one buffer (R190). -/
def SepPart.bufferBytes (p : SepPart) : Nat := sumBy p.layers fun l => 16 + 4 * l.n

/-- The record of layer entry i in buffer b (R190). -/
def SepPart.recordAt (p : SepPart) (b i : Nat) : Nat :=
  p.stats + (sumBy p.layers fun l => 4 * l.n) + b * p.bufferBytes + sumBy (p.layers.take i) fun l => 16 + 4 * l.n

/-- Bytes of the statistics region (R190). -/
def SepPart.regionBytes (p : SepPart) : Nat := (sumBy p.layers fun l => 4 * l.n) + 2 * p.bufferBytes

/-- Bytes of a row of W elements of a format: element bytes, with scale bytes for B formats (R322). -/
def rowBytes (fmt width : Nat) : Nat :=
  let b := match Fmt.ofCode fmt with | none => 0 | some f => f.width
  width * b / 8 + (if 10 ≤ fmt && fmt ≤ 17 then width / 32 else 0)

/-- Bytes of a unit of a stream (R322). -/
def unitBytes (fmt width : Nat) : Nat := 8 + rowBytes fmt width

end Sys2Proof.Machine
end

