-- ==== Sys2Proof/Machine/Issue.lean ====
section
/-! DEFINITION. Issue: when a sequencer may issue, the checks made at issue, and what every issue does to
the core (R53, R78, R79, R88 to R90, R96, R99, R105, R113). -/

namespace Sys2Proof.Machine

open Sys2Proof

/-- Replace a core. -/
def Dev.setCore (d : Dev) (c : Fin 48) (x : Core) : Dev := { d with cores := d.cores.set c x }

/-- The die of a core: cores 4d to 4d + 3 lie on die d. -/
def dieOf (c : Fin 48) : Fin 12 := ⟨c.val / 4, by omega⟩

/-- Core `i` of a die. -/
def coreOf (x : Fin 12) (i : Fin 4) : Fin 48 := ⟨4 * x.val + i.val, by omega⟩

/-- The template that a core runs in the frame's slot (R39, R88). -/
def Dev.template (d : Dev) (c : Fin 48) : List InsWord :=
  match d.image with
  | none => []
  | some m => m.form.template d.frame.slot c

/-- The engine identifier of an engine as used by a core (Table TICK-3); 0xFFF where no engine or not a single one is
meant. -/
def engineId (e : Option Eng) (c : Fin 48) : Nat :=
  match e with
  | some .array => c
  | some .loader => 0x100 + c
  | some .row => 0x200 + c
  | some .vec => 0x300 + c
  | some .pairing => 0x400 + c
  | some .sep => 0x600 + c / 4
  | some .churn => 0x700 + c / 4
  | some .gmem => 0xE02
  | some .pail => 0xE03
  | some .tier => 0xE01
  | some (.coll x) => 0xC01 + 2 * x
  | _ => 0xFFF

/-- Record a fault of a core's sequencer: only the first enters its registers (R113). -/
def Dev.recordSeqFault (d : Dev) (c : Fin 48) (code cause cls opc index : Nat) : Dev :=
  if d.rd .coreSeqFaultCode c = 0 then
    (((((d.wr .coreSeqFaultCode code c).wr .coreSeqFaultCause cause c).wr .coreSeqFaultClass cls c).wr
      .coreSeqFaultOpcode opc c).wr .coreSeqFaultIndex index c).wr .coreSeqFaultSlot d.frame.slot c
  else d

/-- The code of a cause of Table ENC-16: TILE_BOUNDS for 0x8 and 0x9, otherwise ILLEGAL_OP. -/
def causeCode (cause : Nat) : Nat := if cause = 8 || cause = 9 then 0x12 else 0x11

/-- An instruction of a core raises a fault of Table ENC-16 (R113). -/
def Dev.insFault (d : Dev) (k : Clock) (c : Fin 48) (cause : Nat) (w : InsWord) (index : Nat) : Dev :=
  (d.recordSeqFault c (causeCode cause) cause (wCls w) (wOp w) index).runFault k (causeCode cause) cause
    (engineId (wordEng d.order.fabricDies w) c) 0

/-- A core reaches the end of its template without TICK.END (R53): the record has class and opcode 0 and the index behind
the last instruction. (log 21 DEDUCED, 87 DESIGN CHOICE) -/
def Dev.templateEnd (d : Dev) (k : Clock) (c : Fin 48) : Dev :=
  let x := d.cores[c]
  if !x.ended && x.hold = .none && x.pc ≥ (d.template c).length then
    (d.recordSeqFault c 0x11 5 0 0 x.pc).runFault k 0x11 5 0xFFF 0
  else d

/-! ### Loops (R99) -/

/-- Write the iteration number of a loop frame. -/
def Core.putIter (x : Core) (f : LoopFrame) (n : Nat) : Core :=
  match f.si with
  | none => x
  | some r => x.setS r (BitVec.ofNat 64 n)

/-- After an instruction at the end of open bodies: the innermost starts its next pass or closes, and a
closing body may end the one around it. Its write of the index scalar waits for nothing (R90, R99).
(log 85 DESIGN CHOICE) -/
def Core.backEdge (x : Core) : List LoopFrame → Core
  | [] => { x with loops := [] }
  | f :: fs =>
    if x.pc = f.last + 1 then
      if f.left = 0 then x.backEdge fs
      else
        { (x.putIter f (f.iter + 1)) with
          pc := f.first, loops := { f with left := f.left - 1, iter := f.iter + 1 } :: fs }
    else { x with loops := f :: fs }

/-- Move to the next instruction. -/
def Core.advance (x : Core) : Core := { x with pc := x.pc + 1 }.backEdge x.loops

/-! ### Issue -/

/-- An issued, unretired instruction will write a scalar that `w` reads or writes (R90). -/
def Core.scalarHeld (x : Core) (w : InsWord) : Bool :=
  x.entries.any fun e => e.on && (scalWrites e.word).any fun r => (scalReads w ++ scalWrites w).contains r

/-- Entries of an engine that are still queued. -/
def Core.queued (x : Core) (e : Eng) : List Entry := x.entries.filter fun i => i.eng = e && i.stage = .queued

/-- The queue that `w` enters on a device with `fds` fabric dies has room, 16 entries for each core (R88). -/
def Core.queueRoom (x : Core) (fds : Nat) (w : InsWord) : Bool :=
  match wordEng fds w with
  | none => true
  | some e => (x.queued e).length < 16

/-- Issue is open: RUN before the guard start, no limiter step (R40, R51). -/
def Dev.issueOpen (d : Dev) (k : Clock) : Bool :=
  d.frame.phase = .run && k.count < d.guardStart && d.frame.gate.isNone

/-- The job is running its frame and sequencers issue. -/
def Dev.issuing (d : Dev) (k : Clock) : Bool := d.runs && d.issueOpen k

/-- A core issues `w` next: it is the word of its template at its pc, and nothing holds it. (log 21 DEDUCED) The hold
of R90 does not ask for the predicate: an instruction whose predicate is off is held too. (log 85 DESIGN CHOICE) -/
def Dev.mayIssue (d : Dev) (k : Clock) (c : Fin 48) (w : InsWord) : Bool :=
  let x := d.cores[c]
  (d.runs || d.faultedNow k c) && d.issueOpen k && !x.ended && x.hold = .none && (d.template c)[x.pc]? = some w &&
    !x.scalarHeld w && x.queueRoom d.order.fabricDies w

/-- What issue leaves in the core beside the instruction's effect: the next issue is an ac of its die later (R88, R478). -/
def Dev.issuedAt (d : Dev) (k : Clock) (c : Fin 48) : Core := { d.cores[c] with nextAc := d.dieAc k (dieOf c) + 1 }

/-- Count an issue and check that the template goes on (R53, Table ENC-17). -/
def Dev.afterIssue (d : Dev) (k : Clock) (c : Fin 48) (x : Core) : Dev :=
  ((d.setCore c x).count .coreSeqIssued 1 c).templateEnd k c

/-- The token count of a Separator copy: SN, or the valid rows of TDA (R171). -/
def Core.sepCount (x : Core) (w : InsWord) : Nat :=
  if wOp w = 1 then (x.sN (wbits w 67 63)).toNat
  else
    let t := x.tN (wbits w 105 100)
    64 * (Td.rows t - 1) + Td.vrows t

/-- Remember a Separator instruction for the CHURN that follows it (R199). -/
def Core.sepView (x : Core) (w : InsWord) (on : Bool) : Core :=
  if wCls w = 0x4 then
    { x with sepLast := some (wbits w 99 90, if on then x.sepCount w else 0, wbits w 75 72 + 1) }
  else x

/-- Scalar numbers beyond the registers, under which a CHURN entry keeps its copy's token count and K. -/
def churnCount : Nat := 32
/-- See `churnCount`. -/
def churnK : Nat := 33

/-- What a CHURN entry captures beside its operands (R199). -/
def Core.churnScs (x : Core) (w : InsWord) : List (Nat × Scalar) :=
  match x.sepLast with
  | some (_, n, k) => if wCls w = 0x5 then [(churnCount, BitVec.ofNat 64 n), (churnK, BitVec.ofNat 64 k)] else []
  | none => []

/-- A descriptor captured beside those of the word: the source descriptor of an XCH.DISPATCH (R203). -/
def Dev.extraTds (d : Dev) (w : InsWord) : List Nat :=
  if wCls w = 0x6 && wOp w = 1 then
    match d.image.bind fun m => (m.xchSlot (wbits w 99 84)).bind fun s => m.xchLayer s.layer with
    | none => []
    | some l => [l.srcTd]
  else []

/-- A new entry of the queue of `e`, with the captured descriptors and scalars (R89); `extra` names further
descriptors to capture. -/
def Core.push (x : Core) (w : InsWord) (e : Eng) (on : Bool) (frame : Nat) (extra : List Nat)
    (more : List (Nat × Scalar) := []) : Core :=
  { x with
    nextSeq := x.nextSeq + 1
    entries := x.entries ++ [{
      seq := x.nextSeq, index := x.pc, eng := e, word := w, on := on, stage := .queued
      tds := (tdReads w ++ tdWrites w ++ extra).map fun n => (n, x.tN n)
      scs := ((scalReads w).map fun n => (n, x.sN n)) ++ x.churnScs w ++ more
      due := 0, frame := frame, done := false }] }

/-- The time at which a core's next instruction issues: the current ac, or the first ac in which the core
may issue again (R88). (log 21 DEDUCED) -/
def State.issueTime (s : State) (c : Fin 48) : Clock → Clock := s.dev.toDieAc (dieOf c) s.dev.cores[c].nextAc

/-- Issue an instruction that executes at issue. `eff` gives the core after it, or a cause of
Table ENC-16. -/
def State.issueSeq (s : State) (c : Fin 48) (w : InsWord)
    (eff : Clock → Dev → Core → Except Nat Core) : Result :=
  s.act (s.issueTime c) fun k d =>
    if d.mayIssue k c w then
      let x := d.issuedAt k c
      some (if x.selected (wPsel w) then
        match eff k d x with
        | .ok y => d.afterIssue k c y.advance
        | .error cause => d.insFault k c cause w x.pc
      else d.afterIssue k c x.advance)
    else none

/-! ### Checks at issue of engine instructions -/

/-- The handle in an offset field of a space-3 descriptor names no Pail of the pools (R255). -/
def Dev.badHandle (d : Dev) (h : Nat) : Bool :=
  match d.image with
  | none => true
  | some m => !m.handleOk h

/-- A descriptor in space 3 holds a handle that names no Pail, in TD_BASE or in a side field that is used. -/
def Dev.badTdHandle (d : Dev) (t : TileDesc) : Bool :=
  Td.space t == 3 && (d.badHandle (Td.base t % 2 ^ 32) || (sideBytes t != 0 && d.badHandle (Td.side t % 2 ^ 32)))

/-! ### Collective descriptors (R344, R345, R348) -/

/-- Member index of a list entry (Table COLL-3). -/
def memIndex (e : Nat) : Nat := e % 2 ^ 14
/-- Parent position of a list entry, 0xFFFF for the root. -/
def memParent (e : Nat) : Nat := e / 2 ^ 16

/-- The descriptor of a DESC. -/
def Dev.collDesc (d : Dev) (desc : Nat) : Option CollDesc :=
  d.image.bind fun m => m.colls.descs.find? fun c => c.desc = desc

/-- List position of a member index. -/
def CollDesc.posOf (c : CollDesc) (member : Nat) : Option Nat := c.members.findIdx? fun e => memIndex e = member

/-- This member's list position. -/
def Dev.collPos (d : Dev) (c : CollDesc) : Option Nat := c.posOf (d.rd .jobMemberIndex)

/-- Opcode, core, member, and operands agree with the descriptor: cause 0x3 (R348, R351). -/
def Dev.collOk (d : Dev) (core : Nat) (x : Core) (w : InsWord) : Bool :=
  if wCls w ≠ 7 || wOp w = 3 then true
  else
    match d.collDesc (wbits w 99 88) with
    | none => false
    | some c =>
      let a := x.tN (wbits w 105 100)
      let t := x.tN (wbits w 111 106)
      c.type = wOp w && bitAt c.mask core && Td.rows a * Td.cols a ≤ c.maxTiles &&
        match d.collPos c with
        | none => false
        | some 0 => wOp w = 1 || (checkRole (.routing [18, 19, 20, 21]) t = .ok && Td.rows t = Td.rows a &&
            Td.cols t = Td.cols a && Td.vrows t = Td.vrows a && Td.vcols t = Td.vcols a)
        | some _ => true

/-- Scalar number under which an entry of a COLL.BCAST or COLL.REDUCE keeps that its member is not the root: the broadcast
then writes through its TDA and the reduction ignores its TDD (R351, R352). -/
def collNotRoot : Nat := 35

/-- What a COLL.BCAST or COLL.REDUCE entry captures on a member that is not the root. -/
def Dev.collScs (d : Dev) (w : InsWord) : List (Nat × Scalar) :=
  if wCls w = 7 && (wOp w = 1 || wOp w = 2) && ((d.collDesc (wbits w 99 88)).bind fun c => d.collPos c) ≠ some 0 then
    [(collNotRoot, 1)]
  else []

/-- The formats and widths that the routing classes require of their descriptors: cause 0x3 (R202, R203, R211,
R212). XCH.RECV is checked at its release (R209). -/
def Dev.routeOk (d : Dev) (x : Core) (w : InsWord) : Bool :=
  let td := fun hi lo => x.tN (wbits w hi lo)
  let has := fun (t : TileDesc) (f width : Nat) => Td.format t = f && width ≤ 64 * Td.cols t
  let slotLayer := d.image.bind fun m => (m.xchSlot (wbits w 99 84)).bind fun s => m.xchLayer s.layer
  match wCls w, wOp w with
  | 0x5, 2 =>
    match d.image.bind fun m => m.xchLayer (wbits w 84 75) with
    | none => true
    | some l => [td 111 106, td 105 100].all fun t => Td.format t = l.rfmt && 64 * Td.cols t = l.width
  | 0x6, 1 =>
    match slotLayer with
    | none => true
    | some l => has (x.tN l.srcTd) l.dfmt l.width && checkRole (.routing []) (x.tN l.srcTd) = .ok
  | 0x6, 3 => match slotLayer with | none => true | some l => has (td 105 100) l.rfmt l.width
  | 0x6, 4 => match slotLayer with | none => true | some l => has (td 111 106) l.rfmt l.width
  | _, _ => true

/-- A CHURN.SORT follows a Separator instruction of its layer whose count is within T_max: cause 0x1 (R199). -/
def Dev.churnOk (d : Dev) (x : Core) (w : InsWord) : Bool :=
  if wCls w = 0x5 && wOp w = 1 then
    match x.sepLast, d.image.bind fun m => m.xchLayer (wbits w 84 75) with
    | some (layer, n, _), some l => layer = wbits w 84 75 && n ≤ l.tmax
    | _, _ => false
  else true

/-- Role and level of every descriptor operand (R63, R96): cause 0x3. -/
def Dev.rolesOk (d : Dev) (x : Core) (w : InsWord) : Bool :=
  let lvl := match d.image with | none => 0 | some m => m.level
  (operandRoles w).all fun (n, r) =>
    let t := x.tN n
    checkRole r t = .ok && (r = .gmem || tdLevel t ≤ lvl)

/-- Scalars in range, alignment of offsets, and handles: cause 0x1 (R79, R119, R172, R255, R257, R281,
R293, R357). -/
def Dev.scalarsOk (d : Dev) (x : Core) (w : InsWord) : Bool :=
  let s := fun hi lo => (x.sN (wbits w hi lo)).toNat
  let td := fun hi lo => x.tN (wbits w hi lo)
  let sub := (wCls w = 0 || (wCls w = 1 && wOp w ≠ 4)) && wbits w 77 77 = 1
  let offs := !sub || (s 87 83 < 4096 && s 82 78 < 4096)
  let root := match d.collDesc (wbits w 99 88) with | some c => d.collPos c = some 0 | none => false
  let dest := if wCls w = 0x7 && wOp w = 2 && root then [wbits w 111 106] else []
  let handles := ((operandRoles w).map (fun p => p.1) ++ d.extraTds w ++ dest).all fun n => !d.badTdHandle (x.tN n)
  let tierObj := fun (n : Nat) => match d.tier.objs[n]? with | none => false | some o => o.movable
  let own := match wCls w, wOp w with
    | 0x3, 6 => s 50 46 % 128 = 0
    | 0x3, 8 => s 50 46 % 64 = 0
    | 0x4, 1 => s 67 63 ≤ 4096 && s 67 63 ≤ 64 * Td.rows (td 105 100) && s 67 63 ≤ 64 * Td.rows (td 111 106)
    | 0x8, 1 => s 105 101 % 8 = 0 && s 89 85 % 8 = 0
    | 0x8, 2 => s 105 101 % 8 = 0 && s 89 85 % 8 = 0
    | 0x8, 3 => s 86 82 % (if wbits w 81 79 = 0 then 4 else 8) = 0
    | 0x9, 1 => 1 ≤ s 106 102 && s 106 102 ≤ 4194304
    | 0x9, 2 => !d.badHandle (s 106 102 % 2 ^ 32)
    | 0x9, 3 => !d.badHandle (s 106 102 % 2 ^ 32) && s 101 97 % 64 < 48
    | 0x9, 4 => !d.badHandle (s 105 101 % 2 ^ 32)
    | 0xA, 1 => tierObj (s 106 102 % 2 ^ 20) &&
        (wbits w 101 100 ≠ 0 || match d.image with
          | none => false
          | some m => match m.objects[s 106 102 % 2 ^ 20]? with | none => false | some o => o.die < 12)
    | 0xA, _ => tierObj (s 106 102 % 2 ^ 20)
    | _, _ => true
  offs && handles && own

/-- The instruction adds to what an earlier one has left in the set: ACC = 1, and one has cleared it (R105). A set that
nothing has cleared has no shape to differ from. (log 23 DEDUCED) -/
def SetView.adds (v : SetView) (w : InsWord) : Bool := wbits w 48 48 = 1 && v.pair.isSome

/-- Shape and Skim checks of the MM class: cause 0x7 (R105, R143, R144, R153, R164). MM.STORE is held to the tile-column
count of the loaded block, and that of a set which an MM.PAIR cleared to the count that the MM.PAIR fixed.
(log 23 DEDUCED) -/
def Core.mmOk (x : Core) (w : InsWord) : Bool :=
  let nr := wbits w 76 65 + 1
  let nc := wbits w 64 53 + 1
  let v := x.views[(⟨wbits w 50 49 % 4, Nat.mod_lt _ (by omega)⟩ : Fin 4)]
  let acc := v.adds w
  let b := fun (f : Nat) => fmtWidth f
  let wide := fun (f : Nat) => f = 20 || f = 21
  match wCls w, wOp w with
  | 0x1, 1 => nr ≤ 12 && nc ≤ 12
  | 0x1, 2 =>
    match x.load with
    | none => false
    | some l =>
      let sf := Td.format (x.tN (wbits w 105 100))
      let toF32 := if acc then v.f32 || v.pair ≠ some (l.fmt, sf) else wide l.fmt || wide sf
      let t := (x.sN (wbits w 41 37)).toNat % 2 ^ 32
      let skim := wbits w 47 46 ≠ 0
      nc = l.trows && nr ≤ 8 && (!acc || (v.tcols = some l.tcols && !v.closed)) &&
      (!skim || (1 ≤ wbits w 45 42 && wbits w 45 42 + 1 ≤ b l.fmt && !toF32 && ceilDiv (b sf) 8 = 1 && f32 t ≠ .nan))
  | 0x1, 3 => nr ≤ 8 && some nc = if v.paired then v.tcols else x.load.map (·.tcols)
  | 0x1, 4 =>
    let ta := x.tN (wbits w 105 100)
    let tb := x.tN (wbits w 99 94)
    nr ≤ 8 && Td.rows tb ≤ 12 && nc ≤ Td.cols ta && nc ≤ Td.cols tb &&
    (!acc || (v.tcols = some (Td.rows tb) && !v.closed && !v.f32 && v.pair = some (Td.format tb, Td.format ta)))
  | _, _ => true

/-- The first failing check of an engine instruction at issue (Table ENC-16), lowest cause first.
(log 22 DEDUCED, 23 DEDUCED) -/
def Dev.issueCause (d : Dev) (core : Nat) (x : Core) (w : InsWord) : Option Nat :=
  if !d.scalarsOk x w || !d.churnOk x w then some 1
  else if !d.rolesOk x w || !d.routeOk x w || !d.collOk core x w then some 3
  else if !x.mmOk w then some 7
  else none

/-- What issue remembers of an MM instruction for later checks (R105, R126, R142, R144, R153, R164). -/
def Core.mmViews (x : Core) (w : InsWord) : Core :=
  let i : Fin 4 := ⟨wbits w 50 49 % 4, Nat.mod_lt _ (by omega)⟩
  let v := x.views[i]
  let acc := v.adds w
  let wide := fun (f : Nat) => f = 20 || f = 21
  match wCls w, wOp w with
  | 0x1, 1 =>
    { x with load := some ⟨x.nextSeq, Td.format (x.tN (wbits w 105 100)), wbits w 76 65 + 1, wbits w 64 53 + 1⟩ }
  | 0x1, 2 =>
    match x.load with
    | none => x
    | some l =>
      let sf := Td.format (x.tN (wbits w 105 100))
      let skim := wbits w 47 46 ≠ 0
      let v' : SetView :=
        if acc then { v with f32 := v.f32 || decide (v.pair ≠ some (l.fmt, sf)), closed := v.closed || skim }
        else ⟨some l.tcols, some (l.fmt, sf), wide l.fmt || wide sf, skim, false⟩
      { x with views := x.views.set i v' }
  | 0x1, 4 =>
    let tb := x.tN (wbits w 99 94)
    if acc then x
    else
      let v' : SetView := ⟨some (Td.rows tb), some (Td.format tb, Td.format (x.tN (wbits w 105 100))), false, false, true⟩
      { x with views := x.views.set i v' }
  | _, _ => x

/-- Issue an engine instruction into its queue (R88 to R91, R113). Under a predicate that is off no check
applies and the entry will take no effect. -/
def State.issueEng (s : State) (c : Fin 48) (w : InsWord) (e : Eng) : Result :=
  s.act (s.issueTime c) fun k d =>
    if d.mayIssue k c w then
      let x := d.issuedAt k c
      some (if x.selected (wPsel w) then
        match d.issueCause c x w with
        | some cause => d.insFault k c cause w x.pc
        | none => d.afterIssue k c (((x.mmViews w).sepView w true).push w e true d.frame.number (d.extraTds w)
          (d.collScs w)).advance
      else d.afterIssue k c ((x.sepView w false).push w e false d.frame.number []).advance)
    else none

end Sys2Proof.Machine
end

