-- ==== Sys2Proof/Machine/Sequencer.lean ====
section
/-! DEFINITION. The sequencer's own instructions: classes SYNC/FENCE and TICK, which execute at issue
(R53 to R56, R97 to R102). -/

namespace Sys2Proof.Machine

open Sys2Proof

/-- What an instruction that executes at issue does to its core, or the cause of its fault. -/
abbrev SeqEff := Clock → Dev → Core → Except Nat Core

/-! ### Scalar and predicate instructions (R97) -/

/-- Operand B: SB, or IMM32 sign-extended to 64 bits. -/
def operandB (x : Core) (sb : BitVec 5) (imm : Bool) (imm32 : BitVec 32) : Scalar :=
  if imm then imm32.signExtend 64 else x.s sb

/-- SD receives SA op B. -/
def aluEff (op : Scalar → Scalar → Scalar) (sd sa sb : BitVec 5) (imm : Bool) (imm32 : BitVec 32) : SeqEff :=
  fun _ _ x => .ok (x.setS sd (op (x.s sa) (operandB x sb imm imm32)))

/-- SADD: the sum modulo 2^64 (R97). -/
def execSadd (c : Fin 48) (psel : BitVec 4) (sd sa sb : BitVec 5) (imm : Bool) (imm32 : BitVec 32) (s : State) :
    Result :=
  s.issueSeq c (encArith 0x01 psel sd sa sb imm imm32) (aluEff (fun a b => a + b) sd sa sb imm imm32)

/-- SSUB: the difference modulo 2^64 (R97). -/
def execSsub (c : Fin 48) (psel : BitVec 4) (sd sa sb : BitVec 5) (imm : Bool) (imm32 : BitVec 32) (s : State) :
    Result :=
  s.issueSeq c (encArith 0x02 psel sd sa sb imm imm32) (aluEff (fun a b => a - b) sd sa sb imm imm32)

/-- SMUL: the low 64 bits of the product (R97). -/
def execSmul (c : Fin 48) (psel : BitVec 4) (sd sa sb : BitVec 5) (imm : Bool) (imm32 : BitVec 32) (s : State) :
    Result :=
  s.issueSeq c (encArith 0x03 psel sd sa sb imm imm32) (aluEff (fun a b => a * b) sd sa sb imm imm32)

/-- SAND (R97). -/
def execSand (c : Fin 48) (psel : BitVec 4) (sd sa sb : BitVec 5) (imm : Bool) (imm32 : BitVec 32) (s : State) :
    Result :=
  s.issueSeq c (encArith 0x04 psel sd sa sb imm imm32) (aluEff (fun a b => a &&& b) sd sa sb imm imm32)

/-- SOR (R97). -/
def execSor (c : Fin 48) (psel : BitVec 4) (sd sa sb : BitVec 5) (imm : Bool) (imm32 : BitVec 32) (s : State) :
    Result :=
  s.issueSeq c (encArith 0x05 psel sd sa sb imm imm32) (aluEff (fun a b => a ||| b) sd sa sb imm imm32)

/-- SXOR (R97). -/
def execSxor (c : Fin 48) (psel : BitVec 4) (sd sa sb : BitVec 5) (imm : Bool) (imm32 : BitVec 32) (s : State) :
    Result :=
  s.issueSeq c (encArith 0x06 psel sd sa sb imm imm32) (aluEff (fun a b => a ^^^ b) sd sa sb imm imm32)

/-- SSHL: left shift by B mod 64 (R97). -/
def execSshl (c : Fin 48) (psel : BitVec 4) (sd sa sb : BitVec 5) (imm : Bool) (imm32 : BitVec 32) (s : State) :
    Result :=
  s.issueSeq c (encArith 0x07 psel sd sa sb imm imm32) (aluEff (fun a b => a <<< (b.toNat % 64)) sd sa sb imm imm32)

/-- SSHR: logical right shift by B mod 64 (R97). -/
def execSshr (c : Fin 48) (psel : BitVec 4) (sd sa sb : BitVec 5) (imm : Bool) (imm32 : BitVec 32) (s : State) :
    Result :=
  s.issueSeq c (encArith 0x08 psel sd sa sb imm imm32) (aluEff (fun a b => a >>> (b.toNat % 64)) sd sa sb imm imm32)

/-- SSRA: arithmetic right shift by B mod 64 (R97). -/
def execSsra (c : Fin 48) (psel : BitVec 4) (sd sa sb : BitVec 5) (imm : Bool) (imm32 : BitVec 32) (s : State) :
    Result :=
  s.issueSeq c (encArith 0x09 psel sd sa sb imm imm32) (aluEff (fun a b => a.sshiftRight (b.toNat % 64)) sd sa sb imm imm32)

/-- SMOVI: SD receives the immediate (R97). -/
def execSmovi (c : Fin 48) (psel : BitVec 4) (sd : BitVec 5) (imm64 : BitVec 64) (s : State) : Result :=
  s.issueSeq c (encSmovi psel sd imm64) fun _ _ x => .ok (x.setS sd imm64)

/-- SCMP: PD receives the comparison of SA with B (R97). -/
def execScmp (c : Fin 48) (psel : BitVec 4) (pd : BitVec 3) (cond : BitVec 2) (sa sb : BitVec 5) (imm : Bool)
    (imm32 : BitVec 32) (s : State) : Result :=
  s.issueSeq c (encScmp psel pd cond sa sb imm imm32) fun _ _ x =>
    .ok (x.setP pd (scmpCond cond (x.s sa) (operandB x sb imm imm32)))

/-- PSET: PD receives a combination of PA and PB (R97). -/
def execPset (c : Fin 48) (psel : BitVec 4) (pd pa pb : BitVec 3) (pop : BitVec 2) (s : State) : Result :=
  s.issueSeq c (encPset psel pd pa pb pop) fun _ _ x => .ok (x.setP pd (psetOp pop (x.p pa) (x.p pb)))

/-- NOP (R97). -/
def execNop (c : Fin 48) (psel : BitVec 4) (s : State) : Result :=
  s.issueSeq c (encNop psel) fun _ _ x => .ok x

/-! ### Descriptors (R97, R98) -/

/-- A TDSET field: its bits, what is subtracted before it is stored, and the least and largest value. -/
structure TdField where
  hi : Nat
  lo : Nat
  bias : Nat
  least : Nat
  most : Nat
  deriving DecidableEq, Repr

/-- The fields of R98 by code, none for codes 12 to 15. -/
def tdField (f : BitVec 4) : Option TdField :=
  match f.toNat with
  | 0 => some ⟨107, 64, 0, 0, 2 ^ 44 - 1⟩
  | 1 => some ⟨27, 16, 1, 1, 4096⟩
  | 2 => some ⟨39, 28, 1, 1, 4096⟩
  | 3 => some ⟨45, 40, 1, 1, 64⟩
  | 4 => some ⟨51, 46, 1, 1, 64⟩
  | 5 => some ⟨159, 128, 0, 0, 2 ^ 32 - 1⟩
  | 6 => some ⟨191, 160, 0, 0, 2 ^ 32 - 1⟩
  | 7 => some ⟨235, 192, 0, 0, 2 ^ 44 - 1⟩
  | 8 => some ⟨12, 8, 0, 0, 21⟩
  | 9 => some ⟨6, 5, 0, 0, 3⟩
  | 10 => some ⟨3, 0, 0, 0, 3⟩
  | 11 => some ⟨4, 4, 0, 0, 1⟩
  | _ => none

/-- The descriptor after TDSET, none where the value or sum is out of range (R98). (log 22 DEDUCED) -/
def tdsetValue (t : TileDesc) (f : BitVec 4) (add : Bool) (v : Scalar) : Option TileDesc :=
  match tdField f with
  | none => none
  | some r =>
    let n : Int := if add then (tf t r.hi r.lo : Int) + v.toInt else v.toNat
    if (r.least : Int) ≤ n ∧ n ≤ r.most then some (tdPut t r.hi r.lo (n.toNat - r.bias)) else none

/-- TDSET: sets or adds to one descriptor field; cause 0x2 where the value is out of range (R98). -/
def execTdset (c : Fin 48) (psel : BitVec 4) (td : BitVec 6) (fld : BitVec 4) (sa : BitVec 5) (add : Bool)
    (s : State) : Result :=
  s.issueSeq c (encTdset psel td fld sa add) fun _ _ x =>
    match tdsetValue (x.t td) fld add (x.s sa) with
    | none => .error 2
    | some t => .ok (x.setT td t)

/-- TDCOPY: all 256 bits (R97). -/
def execTdcopy (c : Fin 48) (psel : BitVec 4) (tdd tda : BitVec 6) (s : State) : Result :=
  s.issueSeq c (encTdcopy psel tdd tda) fun _ _ x => .ok (x.setT tdd (x.t tda))

/-! ### Loops (R99) -/

/-- LOOP: opens a body of BODY + 1 instructions run COUNT + 1 times; SI receives 0 before the first pass. -/
def execLoop (c : Fin 48) (psel : BitVec 4) (count : BitVec 16) (body : BitVec 18) (iter : Bool)
    (si : BitVec 5) (s : State) : Result :=
  s.issueSeq c (encLoop psel count body iter si) fun _ _ x =>
    let f : LoopFrame := ⟨x.pc + 1, x.pc + 1 + body.toNat, count.toNat, 0, if iter then some si else none⟩
    .ok { x.putIter f 0 with loops := f :: x.loops }

/-! ### Barriers and fences (R100, R101) -/

/-- SYNC.BAR: the core holds at its barrier instance (R100). -/
def execSyncBar (c : Fin 48) (psel : BitVec 4) (mask : BitVec 48) (id : BitVec 8) (s : State) : Result :=
  s.issueSeq c (encSyncBar psel mask id) fun k _ x =>
    .ok { x with hold := .barrier id.toNat mask.toNat k.units }

/-- The cores that a mask names. -/
def maskCores (mask : Nat) : List (Fin 48) := (List.finRange 48).filter fun c => bitAt mask c

/-- The unit at which a core arrived at barrier (id, mask), if it holds there. -/
def Core.arrivedAt (x : Core) (id mask : Nat) : Option Nat :=
  match x.hold with
  | .barrier i m u => if i = id ∧ m = mask then some u else none
  | _ => none

/-- Lift the hold of a core; its next issue is at `ac` of its die or later. The template may end there (R53). -/
def Dev.resume (d : Dev) (k : Clock) (c : Fin 48) (ac : Nat) : Dev :=
  let x := d.cores[c]
  (d.setCore c { x with hold := .none, nextAc := max x.nextAc ac }).templateEnd k c

/-- SYNC_BAR_RELEASE: when every named core holds at the instance, all of them resume 40 ac after the last
arrival if they share one die, 120 ac after it otherwise (R100, Table ENC-3). -/
def execSyncBarRelease (c : Fin 48) (s : State) : Result :=
  s.now fun k d =>
    match d.cores[c].hold with
    | .barrier id mask _ =>
      let cs := maskCores mask
      let arrivals := cs.filterMap fun i => d.cores[i].arrivedAt id mask
      if d.runs && arrivals.length = cs.length then
        let wait := if cs.all fun i => dieOf i = dieOf c then 40 else 120
        let last := maxBy arrivals fun u => u
        some (cs.foldl (fun d i => d.resume k i (d.pwr.counted (dieOf i) last / 5 + wait)) d)
      else none
    | _ => none

/-- Earlier instructions of the classes of a mask are unretired (R101). -/
def Core.fenceBlocked (x : Core) (cmask seq : Nat) : Bool :=
  x.entries.any fun e => e.seq < seq && bitAt cmask (wCls e.word)

/-- FENCE.ENG: holds until every earlier instruction of the named classes has retired; it does not hold
where all have (R101). -/
def execFenceEng (c : Fin 48) (psel : BitVec 4) (cmask : BitVec 13) (s : State) : Result :=
  s.issueSeq c (encFenceEng psel cmask) fun _ _ x =>
    .ok (if x.fenceBlocked cmask.toNat x.nextSeq then { x with hold := .fenceEng cmask.toNat x.nextSeq } else x)

/-! ### The TICK class (R53 to R56) -/

/-- TICK.END: the sequencer issues nothing further until the next OPEN (R53). -/
def execTickEnd (c : Fin 48) (psel : BitVec 4) (s : State) : Result :=
  s.issueSeq c (encTickEnd psel) fun _ _ x => .ok { x with ended := true }

/-- TICK.WAIT: holds until the counter reaches the boundary plus the target. A target from SA at or after
the guard start raises cause 0x4; a target already reached does not hold (R54). -/
def execTickWait (c : Fin 48) (psel : BitVec 4) (src : Bool) (sa : BitVec 5) (offs : BitVec 27) (s : State) :
    Result :=
  s.issueSeq c (encTickWait psel src sa offs) fun k d x =>
    let target := if src then (x.s sa).toNat else offs.toNat
    if src && target ≥ d.period - d.guardBand then .error 4
    else if d.frame.boundary + target ≤ k.count then .ok x
    else .ok { x with hold := .tickWait (d.frame.boundary + target) }

/-- TICK_WAIT_RELEASE: the counter reaches the target and issue resumes (R54). -/
def execTickWaitRelease (c : Fin 48) (s : State) : Result :=
  s.act
    (fun k => match s.dev.cores[c].hold with | .tickWait t => k.toCount t | _ => k)
    fun k d =>
      match d.cores[c].hold with
      | .tickWait t => if d.runs && t ≤ k.count then some (d.resume k c (d.dieAc k (dieOf c) + 1)) else none
      | _ => none

/-- TICK.FRAME: the frame number into SD and the frame-slot counter into SE (R55), which is written last.
(log 87 DESIGN CHOICE) -/
def execTickFrame (c : Fin 48) (psel : BitVec 4) (sd se : BitVec 5) (s : State) : Result :=
  s.issueSeq c (encTickFrame psel sd se) fun _ d x =>
    .ok ((x.setS sd (BitVec.ofNat 64 d.frame.number)).setS se (BitVec.ofNat 64 d.frame.slot))

/-- TICK.NOW: the domain counter into SD (R56). -/
def execTickNow (c : Fin 48) (psel : BitVec 4) (sd : BitVec 5) (s : State) : Result :=
  s.issueSeq c (encTickNow psel sd) fun k _ x => .ok (x.setS sd (BitVec.ofNat 64 k.count))

end Sys2Proof.Machine
end

