-- ==== Sys2Proof/Machine/Engine.lean ====
section
/-! DEFINITION. What the engines of a core share: descriptor dependencies, entries, timing, work counts,
poisoned reads and the rounding context (R47, R78, R91, R128, R129, R386). -/

namespace Sys2Proof.Machine

open Sys2Proof

/-- What an engine finds when an instruction may leave its queue head. -/
inductive Started where
  /-- It waits at the queue head. -/
  | wait
  /-- A fault of Table ENC-16 marked Q. -/
  | fault (cause : Nat)
  /-- It reads a poisoned byte (R386). -/
  | poison (l : Loc) (a : Nat)
  /-- A fault that the engine's own registers record: the device with it raised. -/
  | raised (d : Dev)
  /-- It starts: the device, the unit before which its work does not end, and whether it may retire then
  without a further event. -/
  | go (d : Dev) (due : Nat) (done : Bool)
  /-- It is released and stays at the head, until its engine takes the copies of all four cores (R93). -/
  | released (d : Dev)
  deriving DecidableEq, Repr

/-- Number of the descriptors an entry reads through: those of its word, and any captured beside them (R203). -/
def Entry.reads (e : Entry) : List Nat :=
  tdReads e.word ++ (e.tds.map (·.1)).filter fun n => !(tdWrites e.word).contains n

/-- Numbers of the descriptors an entry writes through; on a member that is not the root a COLL.BCAST writes through its
TDA and a COLL.REDUCE through none (R351, R352). -/
def Entry.writes (e : Entry) : List Nat :=
  if e.sc collNotRoot = 1 then (if wOp e.word = 1 then [wbits e.word 105 100] else []) else tdWrites e.word

/-- Earlier instruction `i` keeps `e` at its queue head (R91). -/
def Entry.blocks (i e : Entry) : Bool :=
  i.on && i.seq < e.seq &&
    (i.writes.any (fun n => (e.reads ++ e.writes).contains n) || i.reads.any fun n => e.writes.contains n)

/-- The descriptor dependencies of an entry have retired (R91). -/
def Core.depsMet (x : Core) (e : Entry) : Bool := !(x.entries.any fun i => i.blocks e)

/-- Change one entry. -/
def Core.updEntry (x : Core) (seq : Nat) (f : Entry → Entry) : Core :=
  { x with entries := x.entries.map fun e => if e.seq = seq then f e else e }

/-- Remove a retired entry. -/
def Core.dropEntry (x : Core) (seq : Nat) : Core := { x with entries := x.entries.filter fun e => e.seq ≠ seq }

/-- Change a core. -/
def Dev.modCore (d : Dev) (c : Fin 48) (f : Core → Core) : Dev := d.setCore c (f d.cores[c])

/-- The head of an engine's queue in a core. -/
def Core.head (x : Core) (g : Eng) : Option Entry := (x.queued g).head?

/-- Entries of an engine that have left the queue. -/
def Core.runningEntries (x : Core) (g : Eng) : List Entry :=
  x.entries.filter fun e => e.eng = g && e.stage = .running

/-- An engine that takes one instruction at a time is free. -/
def Core.idle (x : Core) (g : Eng) : Bool := (x.runningEntries g).isEmpty

/-- The class of Table TICK-3 in which an engine's work is counted. -/
def Eng.workClass : Eng → Nat
  | .array => 0 | .loader => 1 | .row => 2 | .vec => 3 | .pairing => 4 | _ => 15

/-- Count work of a core's engine in its declared unit (R47). -/
def Core.addWork (x : Core) (cls n : Nat) : Core :=
  { x with work := Sparse.set x.work 0 cls (Sparse.get x.work 0 cls + n) }

/-- The engines that run on the arithmetic clock of their die: their work ends at a time of that clock (R478). -/
def Eng.onAc : Eng → Bool
  | .array | .loader | .row | .vec | .pairing | .sep | .churn => true
  | _ => false

/-- The unit at which the work of an entry ends. -/
def Dev.dueUnit (d : Dev) (c : Fin 48) (e : Entry) : Nat :=
  if e.eng.onAc then d.pwr.unitAt (dieOf c) e.due else e.due

/-! ### Form D operands of an entry -/

namespace Entry
/-- NR + 1. -/
def nr (e : Entry) : Nat := wbits e.word 76 65 + 1
/-- NC + 1. -/
def nc (e : Entry) : Nat := wbits e.word 64 53 + 1
/-- The tile row offset SR, 0 where OFF is 0 (R103). -/
def sr (e : Entry) : Nat := if wbits e.word 77 77 = 1 then (e.sc (wbits e.word 87 83)).toNat else 0
/-- The tile column offset SC, 0 where OFF is 0 (R103). -/
def scol (e : Entry) : Nat := if wbits e.word 77 77 = 1 then (e.sc (wbits e.word 82 78)).toNat else 0
/-- The captured TDD. -/
def tdd (e : Entry) : TileDesc := e.td (wbits e.word 111 106)
/-- The captured TDA. -/
def tda (e : Entry) : TileDesc := e.td (wbits e.word 105 100)
/-- The captured TDB. -/
def tdb (e : Entry) : TileDesc := e.td (wbits e.word 99 94)
/-- The captured TDC. -/
def tdc (e : Entry) : TileDesc := e.td (wbits e.word 93 88)
/-- RND names keyed stochastic rounding (R127). -/
def stochastic (e : Entry) : Bool := wbits e.word 52 51 = 1
end Entry

/-- The format of a descriptor; roles admit defined codes only. -/
def Td.fmt (t : TileDesc) : Fmt := (Fmt.ofCode (Td.format t)).getD (.int 1)

/-- The 64-bit job seed. -/
def Dev.seed (d : Dev) : Nat := d.rd64 .jobSeedLo .jobSeedHi

/-- The rounding of an instruction of engine number `g` (R128: 0 loader, 1 store path, 2 row engine,
3 vector unit). -/
def Dev.rndCtx (d : Dev) (c : Fin 48) (g : Fin 4) (e : Entry) : RndCtx :=
  ⟨e.stochastic, d.seed, c, g, d.cores[c].rng[g]⟩

/-- An instruction that covers `n` element positions has consumed its generator calls (R128). -/
def Core.consume (x : Core) (g : Fin 4) (e : Entry) (n : Nat) : Core :=
  if e.stochastic then { x with rng := x.rng.set g (x.rng[g] + ceilDiv n 4) } else x

/-- The tiles of a rectangle, rows first. -/
def rect (r0 c0 nr nc : Nat) : List (Nat × Nat) :=
  (List.range nr).flatMap fun r => (List.range nc).map fun c => (r0 + r, c0 + c)

/-! ### Poisoned bytes (R386) -/

/-- HUB_DEV_FAULT takes a memory error: its code, source and address and the place. A job that is FAULTED already has
recorded its fault, but for a lower code of the same control cycle (R75, Tables REG-6 and REG-7). -/
def Dev.devFault (d : Dev) (k : Clock) (code src at_ : Nat) (place : Dev → Dev) : Dev :=
  if d.job.phase ≠ .faulted || d.supersedes k (d.rd .hubDevFaultCode) code then
    let d := place ((((d.wr .hubDevFaultCode code).wr .hubDevFaultSrc src).wr .hubDevFaultDie 0).wr .hubDevFaultStack 0)
    { d with ctl := { d.ctl with faultAddr := at_ } }
  else d

/-- An engine reads a poisoned byte of an SRAM: SRAM_UNCORRECTABLE, recorded in HUB_DEV_FAULT with its unit (R386,
Tables REG-6 and REG-7). -/
def Dev.sramFault (d : Dev) (k : Clock) (unit die core a engine : Nat) : Dev :=
  let at_ := 2 ^ 63 + die * 2 ^ 54 + core * 2 ^ 48 + unit * 2 ^ 44 + a
  let d := d.devFault k 0x51 2 at_ fun d => d.wr .hubDevFaultDie die
  d.runFault k 0x51 2 engine at_

/-- An engine reads a poisoned byte: HBM_UNCORRECTABLE or SRAM_UNCORRECTABLE, recorded in HUB_DEV_FAULT
(R386, Tables REG-6 and REG-7). -/
def Dev.poisonFault (d : Dev) (k : Clock) (l : Loc) (a engine : Nat) : Dev :=
  match l with
  | .hbm =>
    let d := d.devFault k 0x50 1 (a % 2 ^ 44) fun d => d.wr .hubDevFaultStack (a / 2 ^ 37)
    d.runFault k 0x50 1 engine a
  | .tile c => d.sramFault k 0 (c.val / 4) c a engine
  | .die x => d.sramFault k 1 x 0 a engine

/-- The first poisoned byte of a range. -/
def Dev.poisonAt (d : Dev) (l : Loc) (a n : Nat) : Option (Loc × Nat) :=
  match l with
  | .hbm => ((d.hbmRuns a n).getD []).findSome? fun r => (d.poisoned .hbm r.1 r.2).map fun p => (.hbm, p)
  | _ => (d.poisoned l a n).map fun p => (l, p)

/-- Runs of the bytes of an element image that hold an element inside the valid extent, as offset and length: what the
reader of a dense tile reads (R82). Row i of a tile is 8 × n bytes. -/
def denseReads (t : TileDesc) (r q n : Nat) : List (Nat × Nat) :=
  (List.range (validRows t r)).map fun i => (8 * n * i, ceilDiv (validCols t q * n) 8)

/-- What a reader reads of a tile's images: runs of its element image and of its side image. Scale bytes of blocks
outside the valid extent, what a tile does not occupy, and the metadata of a tile stored dense are not read (R118, R155,
R156). -/
def Dev.tileReads (d : Dev) (c : Fin 48) (t : TileDesc) (r q : Nat) : List (Nat × Nat) × List (Nat × Nat) :=
  let n := fmtWidth (Td.format t)
  let sc := scaleBytes (Td.format t)
  let scs := if sc = 0 then [] else ((List.range 128).filter (blockLive t r q)).map fun b => (b, 1)
  if Td.layout t = 0 then (denseReads t r q n, scs)
  else
    let h := d.tileHeader c t r q
    let tag := field h 0 1
    if tag = 0 then (denseReads t r q n, scs ++ [(sc, 64)])
    else if tag ≠ Td.layout t then ([], [(sc, 64)])
    else
      let (eb, mb) := occupied n (Td.layout t) tag (field h 2 2)
      ([(0, eb)], scs ++ [(sc, mb)])

/-- The first poisoned byte that the reader of a rectangle of tiles reads. -/
def Dev.tilesPoison (d : Dev) (c : Fin 48) (t : TileDesc) (ps : List (Nat × Nat)) : Option (Loc × Nat) :=
  if d.mem.poisonHbm.isEmpty && d.mem.poisonTile.isEmpty && d.mem.poisonDie.isEmpty then none
  else ps.findSome? fun (r, q) =>
    let one := fun (root o : Nat) (x : Nat × Nat) =>
      match d.spaceAt c t root (o + x.1) x.2 with
      | none => none
      | some (l, a) => d.poisonAt l a x.2
    let (es, ss) := d.tileReads c t r q
    match es.findSome? (one (Td.base t) (tileOff t r q)) with
    | some p => some p
    | none => ss.findSome? (one (Td.side t) (sideOff t r q))

/-- Q checks of an instruction's tiles, and then poisoned reads: each operand is a descriptor and the tiles
it names; `rs` are read, `ws` are written. -/
def Dev.checkTiles (d : Dev) (c : Fin 48) (rs ws : List (TileDesc × List (Nat × Nat))) :
    Option Started :=
  let bad := (rs ++ ws).filterMap fun (t, ps) => ps.findSome? fun p => d.tileFault c t p.1 p.2
  match bad.min? with
  | some cause => some (.fault cause)
  | none => (rs.findSome? fun (t, ps) => d.tilesPoison c t ps).map fun (l, a) => .poison l a

/-- What an instruction does to its operands after it has left its queue head, while they still lie in their spaces. Where
a Pail of them has been freed, or a page is not mapped any more, it raises TILE_BOUNDS; a poisoned byte that it reads is a
fault too (R259, R266, R386). -/
def Dev.whileOpen (d : Dev) (k : Clock) (c : Fin 48) (e : Entry) (rs ws : List (TileDesc × List (Nat × Nat)))
    (f : Dev → Dev) : Dev :=
  match d.checkTiles c rs ws with
  | some (.fault cause) => d.insFault k c cause e.word e.index
  | some (.poison l a) => d.poisonFault k l a (engineId (wordEng d.order.fabricDies e.word) c)
  | _ => f d

end Sys2Proof.Machine
end

