-- ==== Sys2Proof/Machine/Gmem.lean ====
section
/-! DEFINITION. Global memory on the sender's side: windows, requests and their numbers, fences
(R101, R285 to R296, R298 to R301, R304, R310, R311). -/

namespace Sys2Proof.Machine

open Sys2Proof

/-! ### Issue -/

/-- GLD (R293). -/
def execGld (c : Fin 48) (psel : BitVec 4) (tdd : BitVec 6) (sl : BitVec 5) (win : BitVec 10) (so : BitVec 5)
    (len : BitVec 10) (s : State) : Result :=
  s.issueEng c (encGmem 0x01 psel tdd sl win so len) .gmem

/-- GST (R293). -/
def execGst (c : Fin 48) (psel : BitVec 4) (tda : BitVec 6) (sl : BitVec 5) (win : BitVec 10) (so : BitVec 5)
    (len : BitVec 10) (s : State) : Result :=
  s.issueEng c (encGmem 0x02 psel tda sl win so len) .gmem

/-- GATOM (R293). -/
def execGatom (c : Fin 48) (psel : BitVec 4) (sd sa sb : BitVec 5) (win : BitVec 10) (so : BitVec 5)
    (aop : BitVec 3) (s : State) : Result :=
  s.issueEng c (encGatom psel sd sa sb win so aop) .gmem

/-! ### Windows (R289 to R292) -/

/-- Fields of a window entry (Table GMEM-2). -/
def winNode (e : Nat) : Nat := bitRange e 15 0
/-- Region. -/
def winRegion (e : Nat) : Nat := bitRange e 19 16
/-- Base offset. -/
def winBase (e : Nat) : Nat := bitRange e 75 32
/-- Length in bytes. -/
def winLength (e : Nat) : Nat := bitRange e 119 76
/-- The entry may be used. -/
def winValid (e : Nat) : Bool := bitAt e 23

/-- An entry is legal (R289). -/
def winLegal (e : Nat) : Bool :=
  !winValid e ||
    (winNode e < 0xFFF0 && (winNode e ≥ 0x4000 || winRegion e ≤ 1) && 8 ≤ winLength e &&
      winBase e + winLength e ≤ 2 ^ 44 && bitRange e 31 24 = 0 && bitRange e 127 120 = 0)

/-- Change the GMEM unit. -/
def Dev.modGmem (d : Dev) (f : Gmem → Gmem) : Dev := { d with gmem := f d.gmem }

/-- The entry in effect for a window. -/
def Dev.window (d : Dev) (w : Nat) : Nat := Sparse.get d.gmem.windows 0 w

/-- Put an entry into effect. -/
def Dev.setWindow (d : Dev) (w e : Nat) : Dev := d.modGmem fun g => { g with windows := Sparse.set g.windows 0 w e }

/-- GMEM_WIN_CMD: the staged entry takes effect now, or at the frame that GMEM_WIN_AT names, or at the next
open (R291). -/
def Dev.windowCommand (d : Dev) : Dev × Bool :=
  let e := d.rd .gmemWinData 0 0 + d.rd .gmemWinData 0 1 * 2 ^ 32 + d.rd .gmemWinData 0 2 * 2 ^ 64 +
    d.rd .gmemWinData 0 3 * 2 ^ 96
  let w := d.rd .gmemWinSel
  let at_ := d.rd64 .gmemWinAtLo .gmemWinAtHi
  let early := d.job.phase = .admitted || d.job.phase = .armed
  if !winLegal e || !(early || d.job.phase = .running) then (d.flag .gmemWinReject, false)
  else if early then (d.setWindow w e, true)
  else
    let next := if d.frame.opened then d.frame.number + 1 else 0
    let f := if at_ = 2 ^ 64 - 1 then next else max at_ next
    (d.modGmem fun g => { g with changes := (g.changes.filter fun x => x.win ≠ w) ++ [⟨w, e, f⟩] }, true)

/-- At the open of a frame the changes that name it take effect (R291). -/
def Dev.windowsAtOpen (d : Dev) : Dev :=
  let now := d.gmem.changes.filter fun x => x.frame ≤ d.frame.number
  let d := now.foldl (fun d x => d.setWindow x.win x.entry) d
  d.modGmem fun g => { g with changes := g.changes.filter fun x => d.frame.number < x.frame }

/-- Record a GMEM fault and raise it; of several in one control cycle the lowest code is recorded (R75, R292, R305, Table
GMEM-9). -/
def Dev.gmemFault (d : Dev) (k : Clock) (code cause core win node addr : Nat) : Dev :=
  let d' := ((((d.wr .gmemFaultCode code).wr .gmemFaultCause cause).wr .gmemFaultCore core).wr
    .gmemFaultWin win).wr .gmemFaultNode node
  let d' := d'.modGmem fun g => { g with faultAddr := addr }
  (if d.job.phase.faultable || d.supersedes k (d.rd .gmemFaultCode) code then d' else d).runFault k code cause (if core = 0x3F then 0xE01 else 0xE02) addr

/-! ### Requests (R295, R296, R309, R310) -/

/-- `a` is an earlier number than `b`, modulo 2^32. -/
def seqBefore (a b : Nat) : Bool := a ≠ b && (b + 2 ^ 32 - a) % 2 ^ 32 < 2 ^ 31

/-- The next number toward a node. -/
def Gmem.nextOf (g : Gmem) (mgmt : Bool) (node : Nat) : Nat :=
  ((g.nexts.find? fun x => x.mgmt = mgmt && x.node = node).map (·.next)).getD 0

/-- The acknowledged-through number of a node, as the first number not covered (R296). (log 41 DEDUCED) -/
def Gmem.ackedTo (g : Gmem) (mgmt : Bool) (node : Nat) : Nat :=
  (g.reqs.filter fun r => r.mgmt = mgmt && r.node = node).foldl
    (fun m r => if seqBefore r.seq m then r.seq else m) (g.nextOf mgmt node)

/-- Bytes held in the retry buffer. -/
def Gmem.retryBytes (g : Gmem) : Nat := sumBy g.reqs fun r => r.data.length

/-- There is room for `m` requests that hold `n` bytes of data together (R295). -/
def Gmem.room (g : Gmem) (m n : Nat) : Bool := g.reqs.length + m ≤ 8192 && g.retryBytes + n ≤ 2 ^ 23

/-- The payload of a request (Table GMEM-7). -/
def GReq.payload (r : GReq) : List Byte :=
  leBytes 8 r.addr ++ leBytes 4 r.len ++ [BitVec.ofNat 8 r.aop, BitVec.ofNat 8 r.retry, 0, 0] ++
    leBytes 8 r.sa ++ leBytes 8 r.sb ++ List.replicate 32 0 ++ r.data

/-- Count work of the GMEM unit (R310). -/
def Dev.gmemWork (d : Dev) (n : Nat) : Dev := (d.count .gmemBusy n).addWork 0xE 2 n

/-- Bytes of a padded payload. -/
def padded (n : Nat) : Nat := 64 * max 1 (ceilDiv n 64)

/-- Put a request on the fabric (R304, R309). -/
def Dev.sendReq (d : Dev) (k : Clock) (r : GReq) : Dev :=
  d.originate k ⟨if r.mgmt then d.mgmtKey else d.jobKey, r.node, if r.mgmt then 3 else 0, 0x10 + r.op, r.seq, 0,
    r.payload, none, [(.hub 0, r.payload.length)]⟩

/-- Count sending a request (R310). -/
def Dev.countSent (d : Dev) (r : GReq) : Dev := d.gmemWork (8 + ceilDiv (padded r.payload.length) 256)

/-- Accept a request: number it, keep it and send it (R296). `r`'s number and counts are filled in here. -/
def Dev.accept (d : Dev) (k : Clock) (r : GReq) : Dev :=
  let g := d.gmem
  let n := g.nextOf r.mgmt r.node
  let r := { r with seq := n, retry := 0, first := k.count, sentAt := k.count }
  let lasts := match r.owner with
    | .core c _ _ _ =>
      if r.op = 0 then g.lasts else (g.lasts.filter fun x => !(x.1 = c && x.2.1 = r.node)) ++ [(c, r.node, n)]
    | _ => g.lasts
  let d := d.modGmem fun g => { g with
    reqs := g.reqs ++ [r]
    nexts := (g.nexts.filter fun x => !(x.mgmt = r.mgmt && x.node = r.node)) ++ [⟨r.mgmt, r.node, (n + 1) % 2 ^ 32⟩]
    lasts := lasts }
  ((d.count .gmemReqOut).countSent r).sendReq k r

/-! ### A core's instructions (R292, R293, R295) -/

/-- The window index of an entry. -/
def Entry.win (e : Entry) : Nat := if wOp e.word = 3 then wbits e.word 96 87 else wbits e.word 99 90
/-- Its window offset. -/
def Entry.winOffset (e : Entry) : Nat :=
  (if wOp e.word = 3 then e.sc (wbits e.word 86 82) else e.sc (wbits e.word 89 85)).toNat
/-- Its byte count. -/
def Entry.gmemLen (e : Entry) : Nat :=
  if wOp e.word = 3 then (if wbits e.word 81 79 = 0 then 4 else 8) else 8 * (wbits e.word 84 75 + 1)
/-- Data bytes that a request or an answer can carry: a packet has 8,192 B of payload, of which the block takes 64
(R309, R319). -/
def gmemCarries : Nat := 8128
/-- The parts in which its bytes travel, each with its first byte and its length: one request, or two where one packet
could not carry the data. (log 81 DESIGN CHOICE) -/
def Entry.gmemParts (e : Entry) : List (Nat × Nat) :=
  if e.gmemLen ≤ gmemCarries then [(0, e.gmemLen)] else [(0, gmemCarries), (gmemCarries, e.gmemLen - gmemCarries)]
/-- Bytes that a GMEM instruction needs in the retry buffer (R295). -/
def Entry.gmemHeld (e : Entry) : Nat := if wOp e.word = 2 then e.gmemLen else 0
/-- Its local bytes; GATOM has none. -/
def Dev.gmemLocal (d : Dev) (c : Fin 48) (e : Entry) : Option (Loc × Nat) :=
  let t := e.td (wbits e.word 111 106)
  d.spaceAt c t (Td.base t) (e.sc (wbits e.word 105 101)).toNat e.gmemLen

/-- The first failing window check of an entry (R292, Table GMEM-9). (log 41 DEDUCED) -/
def Dev.windowCause (d : Dev) (e : Entry) : Option Nat :=
  let w := d.window e.win
  if !winValid w then some 1
  else if !bitAt w (19 + wOp e.word) then some 2
  else if e.winOffset + e.gmemLen > winLength w then some 3
  else none

/-- A GMEM instruction at its queue head: bounds, window, room, and then its request is accepted. (log 41 DEDUCED) -/
def Dev.startGmem (d : Dev) (k : Clock) (c : Fin 48) (e : Entry) : Started :=
  let op := wOp e.word - 1
  let w := d.window e.win
  let here := if op = 2 then none else d.gmemLocal c e
  if op ≠ 2 && here.isNone then .fault 9
  else
    match d.windowCause e with
    | some cause => .raised (d.gmemFault k 0x31 cause c e.win (winNode w)
        (winNode w * 2 ^ 48 + winRegion w * 2 ^ 44 + (winBase w + e.winOffset) % 2 ^ 44))
    | none =>
      match if op = 1 then here.bind fun (l, a) => d.poisonAt l a e.gmemLen else none with
      | some (l, a) => .poison l a
      | none =>
        if !d.gmem.room e.gmemParts.length e.gmemHeld then .wait
        else
          let data := match op, here with
            | 1, some (l, a) => d.at_ l a e.gmemLen
            | _, _ => []
          let d := match op, here with
            | 1, some (l, a) => d.touch (.hub 0) l a e.gmemLen
            | _, _ => d
          let s := fun (hi lo : Nat) => (e.sc (wbits e.word hi lo)).toNat
          let r := fun (p : Nat × Nat) => ({
            mgmt := false, node := winNode w, seq := 0, owner := .core c e.seq e.win p.1, op := op
            addr := winNode w * 2 ^ 48 + winRegion w * 2 ^ 44 + winBase w + e.winOffset + p.1
            len := p.2, data := slice data p.1 p.2
            aop := if op = 2 then wbits e.word 81 79 else 0
            sa := if op = 2 then s 106 102 else 0
            sb := if op = 2 then s 101 97 else 0
            retry := 0, first := 0, sentAt := 0, frame := e.frame } : GReq)
          .go (e.gmemParts.foldl (fun d p => d.accept k (r p)) d) ((k.cc + 8 * e.gmemParts.length) * 10) (op = 1)

/-- The work of the GMEM unit on an instruction that is predicated off: for each part the request it would send and the
answer it would receive, and on a window of this node the serving too (R78, R310). (log 30 DEDUCED) -/
def Dev.gmemOffWork (d : Dev) (e : Entry) : Nat :=
  let op := wOp e.word
  sumBy e.gmemParts fun p =>
    let request := ceilDiv (padded (64 + if op = 2 then p.2 else 0)) 256
    let answer := ceilDiv (padded (64 + if op = 1 then p.2 else 0)) 256
    (8 + request + answer) * if winNode (d.window e.win) = d.node then 2 else 1

/-- Keep GMEM_ROOM_WAIT: the cc in which an instruction waited for room. (log 32 DEDUCED) -/
def Dev.noteRoomWait (d : Dev) (k : Clock) : Dev :=
  let heads := (List.finRange 48).any fun c =>
    match d.cores[c].head .gmem with
    | none => false
    | some e => e.on && d.cores[c].depsMet e && !d.gmem.room e.gmemParts.length e.gmemHeld
  match d.gmem.waitFrom, heads with
  | none, true => d.modGmem fun g => { g with waitFrom := some k.cc }
  | some f, false => (d.modGmem fun g => { g with waitFrom := none }).count .gmemRoomWait (k.cc - f)
  | _, _ => d

/-! ### Fences (R101, R301) -/

/-- Every store and atomic that a core issued before `seq` to the covered nodes has been acknowledged. -/
def Dev.fenceMet (d : Dev) (c : Fin 48) (node : Option Nat) (seq : Nat) : Bool :=
  let covers := fun (n : Nat) => match node with | none => true | some m => n = m
  !(d.cores[c].entries.any fun e => e.on && e.seq < seq && e.eng = .gmem && e.stage = .queued &&
      wOp e.word ≠ 1 && covers (winNode (d.window e.win))) &&
  !(d.gmem.lasts.any fun x => x.1 = c.val && covers x.2.1 &&
      d.gmem.reqs.any fun r => !r.mgmt && r.node = x.2.1 && !seqBefore x.2.2 r.seq)

/-- FENCE.GMEM: holds until the core's earlier stores and atomics to the covered destinations are
acknowledged (R101, R301). -/
def execFenceGmem (c : Fin 48) (psel : BitVec 4) (scope : Bool) (sa : BitVec 5) (s : State) : Result :=
  s.issueSeq c (encFenceGmem psel scope sa) fun _ d x =>
    let node := if scope then some ((x.s sa).toNat % 65536) else none
    .ok (if d.fenceMet c node x.nextSeq then x else { x with hold := .fenceGmem node x.nextSeq })

/-- FENCE_RELEASE: the condition of a held fence holds and issue resumes (R101). -/
def execFenceRelease (c : Fin 48) (s : State) : Result :=
  s.now fun k d =>
    let x := d.cores[c]
    let met := match x.hold with
      | .fenceEng cmask seq => !x.fenceBlocked cmask seq
      | .fenceGmem node seq => d.fenceMet c node seq
      | _ => false
    if d.runs && met then some (d.resume k c (d.dieAc k (dieOf c) + 1)) else none

/-! ### Management requests (R307) -/

/-- MANAGEMENT_REQUEST: the management agent issues a load or store on the management channel; a load takes
the next tag (R307). The packet gives destination, operation and request block. -/
def execManagementRequest (p : Packet) (s : State) : Result :=
  s.now fun k d =>
    let op := p.op.toNat - 0x10
    let len := field p.payload 8 4
    let n := if op = 1 then len else 0
    let region := field p.payload 0 8 / 2 ^ 44 % 16
    let dst := p.dst.toNat
    if (p.op = 0x10 || p.op = 0x11) && dst < 0xFFF0 && (dst ≥ 0x4000 || region = 15) && len ≤ gmemCarries &&
        d.gmem.room 1 n then
      let r : GReq := {
        mgmt := true, node := dst, seq := 0, owner := .agent (if op = 0 then some d.gmem.tag else none), op := op
        addr := field p.payload 0 8, len := len, data := (p.payload.drop 64).take n, aop := 0, sa := 0, sb := 0
        retry := 0, first := 0, sentAt := 0, frame := d.frame.number }
      let d := d.accept k r
      some (if op = 0 then d.modGmem fun g => { g with tag := if g.tag + 1 ≥ 0xFFFF then 0 else g.tag + 1 } else d)
    else none

/-- GMEM_MGMT_CANCEL: the pending management load of a tag is given up, or with 0xFFFF every pending management request,
whose room comes free (R295, R307). (log 43 DEDUCED) -/
def Dev.mgmtCancel (d : Dev) (k : Clock) (tag : Nat) : Dev :=
  let hit := fun (r : GReq) => match r.owner with
    | .agent (some t) => tag = 0xFFFF || t = tag
    | .agent none => tag = 0xFFFF
    | _ => false
  (d.modGmem fun g => { g with
    reqs := g.reqs.filter fun r => !hit r
    cancelled := g.cancelled ++ (g.reqs.filter fun r => hit r && r.op = 0).map fun r => (r.node, r.seq) }).noteRoomWait k

/-- A write of GMEM_CFG takes effect in IDLE. One in another state, with a zero field, or with twice the retry interval
above the timeout, is ignored and sets GMEM_CFG_REJECT (R311). -/
def Dev.setGmemCfg (d : Dev) (v : Nat) : Dev × Bool :=
  let t := bitRange v 15 0
  let r := bitRange v 23 16
  if t = 0 || r = 0 || 2 * r > t || d.job.phase ≠ .idle then (d.flag .gmemCfgReject, false)
  else ((d.wr .gmemCfgTimeout t).wr .gmemCfgRetry r, true)

/-! ### Repetition (R304) -/

/-- The request a node and number name; of a job's and the agent's, the one sent first. -/
def Gmem.find (g : Gmem) (node seq : Nat) : Option GReq :=
  match g.reqs.filter fun r => r.node = node && r.seq = seq with
  | [] => none
  | r :: rs => some (rs.foldl (fun a b => if b.sentAt < a.sentAt then b else a) r)

/-- Change a request. -/
def Gmem.upd (g : Gmem) (r : GReq) (f : GReq → GReq) : Gmem :=
  { g with reqs := g.reqs.map fun x => if x.mgmt = r.mgmt && x.node = r.node && x.seq = r.seq then f x else x }

/-- Remove an answered request. -/
def Gmem.drop (g : Gmem) (r : GReq) : Gmem :=
  { g with reqs := g.reqs.filter fun x => !(x.mgmt = r.mgmt && x.node = r.node && x.seq = r.seq) }

/-- GMEM_RETRY: an unanswered request is repeated with the same number and bytes on the destination's next
flowlet (R304, R327). -/
def execGmemRetry (node : BitVec 16) (seq : BitVec 32) (s : State) : Result :=
  let r? := s.dev.gmem.find node.toNat seq.toNat
  let due := r?.map fun r => r.sentAt + 1000 * s.dev.rd .gmemCfgRetry
  s.act (fun k => match due with | some t => k.toCount t | none => k) fun k d =>
    r?.map fun r =>
      let r := { r with retry := (r.retry + 1) % 256, sentAt := k.count }
      let d := d.modGmem fun g => g.upd r fun _ => r
      let f := d.fab
      let d := { d with fab := { f with flowReps := Sparse.set f.flowReps 0 r.node (Sparse.get f.flowReps 0 r.node + 1) } }
      ((d.count .gmemRetries).countSent r).sendReq k r

/-- GMEM_TIMEOUT: a job's request has gone unanswered for the timeout: GMEM_TARGET_LOST (R305, R276). -/
def execGmemTimeout (node : BitVec 16) (seq : BitVec 32) (s : State) : Result :=
  let r? := (s.dev.gmem.reqs.filter fun r => !r.mgmt && r.node = node.toNat && r.seq = seq.toNat).head?
  let due := r?.map fun r => r.first + 1000 * s.dev.rd .gmemCfgTimeout
  s.act (fun k => match due with | some t => k.toCount t | none => k) fun k d =>
    r?.map fun r =>
      let (core, win) := match r.owner with | .core c _ w _ => (c, w) | _ => (0x3F, 0)
      ((d.modGmem fun g => g.drop r).gmemFault k 0x30 4 core win r.node r.addr).noteRoomWait k

end Sys2Proof.Machine
end

