-- ==== Sys2Proof/Machine/Twin.lean ====
section
/-! DEFINITION. The twin link and lock-step comparison (R373 to R385). -/

namespace Sys2Proof.Machine

open Sys2Proof

/-! ### Granules and chunks (R378, R379) -/

/-- An unordered stream (Table TWIN-4). -/
def unordered (stream : Nat) : Bool := (0xC00 ≤ stream && stream < 0xD00 && stream % 2 = 0) || stream = 0xE02

/-- The aperture offset under which a device HBM offset of a pool page is hashed (R265, R378). -/
def Dev.apertureOf (d : Dev) (a : Nat) : Nat :=
  let pages := fun (o : TierObj) =>
    (if o.tier = 1 then o.pool.zipIdx else []) ++ (match o.move with | some m => m.pool.zipIdx | none => [])
  match d.tier.objs.findSome? fun o =>
      if !o.movable then none
      else ((pages o).find? fun (p, _) => d.poolPage p ≤ a && a < d.poolPage p + 2 ^ 21).map fun (p, j) =>
        2 ^ 43 + (o.first + j) * 2 ^ 21 + (a - d.poolPage p) with
  | some x => x
  | none => a

/-- The hash of a byte list under JOB_SEED and the stream (R379). -/
def Dev.lsHash (d : Dev) (stream : Nat) (bs : List Byte) : Nat :=
  (sipHash (BitVec.ofNat 64 d.seed) (BitVec.ofNat 64 stream) bs).toNat

/-- The granules of a write, ascending; one without a written byte is none (R378, R379). -/
def Dev.grains (d : Dev) (w : LsWrite) : List Granule :=
  let n := w.bytes.length
  let first := w.off / 64
  (List.range (if n = 0 then 0 else (w.off + n - 1) / 64 - first + 1)).filterMap fun i =>
    let g := (first + i) * 64
    let cell := (List.range 64).map fun j =>
      let o := g + j - w.off
      if w.off ≤ g + j && o < n && (w.mask.isEmpty || w.mask.getD o false) then some (w.bytes.getD o 0) else none
    let mask := sumBy cell.zipIdx fun (c, j) => if c.isSome then 2 ^ j else 0
    if mask = 0 then none
    else
      let off := if w.space = 2 then d.apertureOf g else g
      some ⟨off + w.space * 2 ^ 64 + w.die * 2 ^ 72 + w.core * 2 ^ 80,
        d.lsHash w.stream (leBytes 1 w.space ++ leBytes 1 w.die ++ leBytes 1 w.core ++ List.replicate 5 0 ++
          leBytes 8 off ++ leBytes 8 mask ++ cell.map fun c => c.getD 0)⟩

/-- Change the pair state. -/
def Dev.modTwin (d : Dev) (f : Twin → Twin) : Dev := { d with twin := f d.twin }

/-- A stream in a frame. -/
def Dev.lsStream (d : Dev) (id frame : Nat) : LsStream :=
  (d.twin.streams.find? fun x => x.id = id && x.frame = frame).getD ⟨id, frame, [], [], 0⟩

/-- Replace a stream in a frame. -/
def Dev.setStream (d : Dev) (x : LsStream) : Dev :=
  let rest := d.twin.streams.filter fun y => !(y.id = x.id && y.frame = x.frame)
  d.modTwin fun t => { t with streams := rest ++ [x] }

/-- Close the open chunk of an ordered stream: the stream after it, and the chunk. -/
def Dev.closeChunk (d : Dev) (x : LsStream) : LsStream × LsChunk :=
  let h := d.lsHash x.id (x.open_.flatMap fun g => leBytes 8 g.hash)
  ({ x with open_ := [], hashes := x.hashes ++ [h] }, ⟨x.id, x.frame, x.hashes.length, h, x.open_⟩)

/-- Add one granule to a stream: the stream after it, and a chunk that it closes. -/
def Dev.addGrain (d : Dev) (x : LsStream) (g : Granule) : LsStream × Option LsChunk :=
  if unordered x.id then ({ x with sum := (x.sum + g.hash) % 2 ^ 64 }, none)
  else
    let x := { x with open_ := x.open_ ++ [g] }
    if x.open_.length = 64 then let (y, c) := d.closeChunk x; (y, some c) else (x, none)

/-- Cut a write into its stream; answers the chunks that close. -/
def Dev.addWrite (d : Dev) (w : LsWrite) : Dev × List LsChunk :=
  let (x, cs) := (d.grains w).foldl (fun (x, cs) g => let (y, c) := d.addGrain x g; (y, cs ++ c.toList))
    (d.lsStream w.stream w.frame, [])
  (d.setStream x, cs)

/-! ### Messages (R375, Table TWIN-3) -/

/-- Send a control message: its kind and content. -/
def Dev.lsControl (d : Dev) (k : Clock) (kind : Nat) (content : List Byte) : Dev :=
  d.sendOneHop k 80 0x7F (padTo 0 64 (leBytes 1 kind ++ content))

/-- Send chunk hashes of one frame, up to three in a packet. -/
def Dev.sendHashes (d : Dev) (k : Clock) (cs : List LsChunk) : Dev :=
  (chunksOf 3 cs.length cs).foldl (fun d p =>
    let entries := p.zipIdx.flatMap fun (c, i) =>
      leBytes 2 c.stream ++ leBytes 1 (if i = 0 then p.length else 0) ++ leBytes 1 0 ++ leBytes 4 c.index ++
        leBytes 8 c.hash
    d.sendOneHop k 80 0x7E (padTo 0 64 (leBytes 8 ((p.map (·.frame)).headD 0) ++ entries))) d

/-- Send a chunk's granule records, two in a packet: stream, first granule, chunk index, frame, and the records;
an absent granule is all zero. The places are the model's choice. (log 49 DEDUCED) -/
def Dev.sendGrains (d : Dev) (k : Clock) (c : LsChunk) : Dev :=
  (List.range 32).foldl (fun d i =>
    let rec_ := fun (j : Nat) => match c.grains[j]? with
      | some g => leBytes 16 g.place ++ leBytes 8 g.hash
      | none => List.replicate 24 0
    d.lsControl k 3 (leBytes 2 c.stream ++ leBytes 1 (2 * i) ++ leBytes 4 c.index ++ leBytes 8 c.frame ++
      rec_ (2 * i) ++ rec_ (2 * i + 1))) d

/-! ### Divergence (R382) -/

/-- The divergence record (Table TWIN-5). -/
def divergence (frame stream cause : Nat) (at_ : Option (Nat × Nat × Nat)) : Nat :=
  frame % 2 ^ 64 + stream * 2 ^ 64 + cause * 2 ^ 76 + match at_ with
    | none => 0
    | some (place, chunk, granule) =>
      2 ^ 80 + bitRange place 67 64 * 2 ^ 84 + bitRange place 75 72 * 2 ^ 88 + bitRange place 85 80 * 2 ^ 92 +
        place % 2 ^ 44 * 2 ^ 100 + chunk % 2 ^ 32 * 2 ^ 144 + granule * 2 ^ 176

/-- The job was admitted for lock-step comparison. -/
def Dev.lsJob (d : Dev) : Bool := (d.image.bind fun m => m.form.twin).any (·.1 = 2)

/-- Halt the job with a divergence record: the first one is kept, also one of the control cycle in which another fault made
the job FAULTED (R75, R382). -/
def Dev.lsHalt (d : Dev) (k : Clock) (r : Nat) : Dev :=
  if d.twin.record ≠ 0 || !(d.lsJob && (d.job.phase.faultable || d.faultCycle k)) then d
  else
    let stream := bitRange r 75 64
    let cause := bitRange r 79 76
    let d := d.modTwin fun t => { t with record := r }
    let d := ((d.wr .twinLsFaultCode 0x90).wr .twinLsFaultCause cause).wr .twinLsFaultStream stream
    (d.runFault k 0x90 cause stream (bitRange r 143 100)).lsControl k 4 (leBytes 32 r)

/-- A mismatch that this device detects. -/
def Dev.diverge (d : Dev) (k : Clock) (frame stream cause : Nat) (at_ : Option (Nat × Nat × Nat) := none) : Dev :=
  d.lsHalt k (divergence frame stream cause at_)

/-! ### Chunk hashes (R380) -/

/-- Same stream, frame and chunk. -/
def LsChunk.same (a b : LsChunk) : Bool := a.stream = b.stream && a.frame = b.frame && a.index = b.index

/-- Unconfirmed chunks of a stream. -/
def Dev.unconfirmed (d : Dev) (stream : Nat) : Nat := (d.twin.chunks.filter fun c => c.stream = stream).length

/-- A stream that holds 64 unconfirmed chunks holds its engine (R380). -/
def Dev.lsHolds (d : Dev) (stream : Nat) : Bool := d.lockstep && d.unconfirmed stream ≥ 64

/-- Note from when a stream has held its engine. -/
def Dev.lsHoldFrom (d : Dev) (k : Clock) (stream : Nat) : Dev :=
  if d.twin.holds.any fun h => h.1 = stream then d
  else d.modTwin fun t => { t with holds := t.holds ++ [(stream, k.units)] }

/-- Count the holds that have ended (R380). -/
def Dev.endHolds (d : Dev) (k : Clock) : Dev :=
  let settled := d.twin.holds.filter fun h => d.unconfirmed h.1 < 64
  let d := d.modTwin fun t => { t with holds := t.holds.filter fun h => !settled.contains h }
  d.count .twinLsHold (sumBy settled fun h => k.ac - h.2 / 5)

/-- Compare an own closed chunk with the twin's hash of it: confirmed, or its granule records are sent. -/
def Dev.compareChunk (d : Dev) (k : Clock) (c : LsChunk) (hash : Nat) : Dev :=
  if c.hash = hash then
    ((d.modTwin fun t => { t with chunks := t.chunks.filter fun x => !x.same c }).count .twinLsChunks).endHolds k
  else d.sendGrains k c

/-- A chunk closes: kept until confirmed, and compared where the twin's hash came first. -/
def Dev.offerChunk (d : Dev) (k : Clock) (c : LsChunk) : Dev :=
  let d := d.modTwin fun t => { t with chunks := t.chunks ++ [c] }
  match d.twin.early.find? fun x => x.same c with
  | none => d
  | some e => (d.modTwin fun t => { t with early := t.early.erase e }).compareChunk k c e.hash

/-- Closed chunks are sent and compared. -/
def Dev.offerChunks (d : Dev) (k : Clock) (cs : List LsChunk) : Dev :=
  cs.foldl (fun d c => d.offerChunk k c) (d.sendHashes k cs)

/-- Cut the noted writes into their streams (R378 to R380). -/
def Dev.lsFlush (d : Dev) (k : Clock) : Dev :=
  let ws := d.twin.log
  if ws.isEmpty then d
  else
    ws.foldl (fun d w => let (d, cs) := d.addWrite w; d.offerChunks k cs) (d.modTwin fun t => { t with log := [] })

/-! ### Frame digests (R379, R381) -/

/-- The streams of Table TWIN-4, ascending. -/
def Dev.allStreams (d : Dev) : List Nat :=
  ([0x000, 0x100, 0x200, 0x300].flatMap fun b => (List.range 48).map (b + ·)) ++
  ([0x600, 0x700].flatMap fun b => (List.range 12).map (b + ·)) ++
  (List.range (2 * d.order.fabricDies)).map (0xC00 + ·) ++ [0xE00, 0xE01, 0xE02]

/-- The frame digest of a stream. -/
def Dev.lsDigest (d : Dev) (x : LsStream) : Nat :=
  if unordered x.id then x.sum else d.lsHash x.id (x.hashes.flatMap (leBytes 8))

/-- Compare one frame digest with the twin's (R381). -/
def Dev.compareDigest (d : Dev) (k : Clock) (frame stream mine theirs : Nat) : Dev :=
  let d := d.count .twinLsFrames
  if mine = theirs then d else d.diverge k frame stream 2

/-- Send a frame's digests, three in a packet: stream, frame and digest of each. (log 49 DEDUCED) -/
def Dev.sendDigests (d : Dev) (k : Clock) (ds : List (Nat × Nat × Nat)) : Dev :=
  (chunksOf 3 ds.length ds).foldl (fun d p =>
    d.lsControl k 2 (p.flatMap fun (f, s, h) => leBytes 2 s ++ leBytes 6 f ++ leBytes 8 h)) d

/-- The frame's last chunks close short, its digests are sent and compared with those that came first. -/
def Dev.digestFrame (d : Dev) (k : Clock) (f : Nat) : Dev :=
  let d := (d.allStreams).foldl (fun d s =>
    let x := d.lsStream s f
    if x.open_.isEmpty then d
    else let (y, c) := d.closeChunk x; (d.setStream y).offerChunks k [c]) d
  let ds := d.allStreams.map fun s => (f, s, d.lsDigest (d.lsStream s f))
  let theirs := d.twin.theirs.filter fun e => e.1 = f % 2 ^ 48
  let d := d.modTwin fun t => { t with
    streams := t.streams.filter fun x => x.frame ≠ f
    mine := t.mine ++ ds.filter fun e => !(theirs.any fun u => u.2.1 = e.2.1)
    theirs := t.theirs.filter fun e => e.1 ≠ f % 2 ^ 48
    digested := f + 1 }
  let d := d.sendDigests k ds
  ds.foldl (fun d e => match theirs.find? fun u => u.2.1 = e.2.1 with
    | none => d
    | some u => d.compareDigest k f e.2.1 e.2.2 u.2.2) d

/-- Every instruction issued in a frame has retired, and every write attributed to it has been made (R381). The writes of the
collection after the stop frame stand in the frame behind it, which never opens (R248). (log 49 DESIGN CHOICE) -/
def Dev.frameWritten (d : Dev) (f : Nat) : Bool :=
  let built := d.herd.opening.isNone && !d.herd.waits
  d.frame.opened &&
  (f < d.frame.number || (f = d.frame.number && built && d.cores.toList.all fun x => x.ended) ||
    (f = d.frame.number + 1 && built && !d.herd.drains && d.job.phase == .draining &&
      d.twin.streams.any fun x => x.frame = f)) &&
  d.cores.toList.all (fun x => x.entries.all fun e => f < e.frame) &&
  d.gmem.reqs.all (fun r => r.mgmt || r.op = 0 || r.node ≠ d.node || f < r.frame) &&
  d.tier.objs.all fun o => match o.move with | some m => f < m.frame | none => true

/-- The digests of the frames that are finished, at most `n`, the oldest first (R381). -/
def Dev.digestFrames : Nat → Dev → Clock → Dev
  | 0, d, _ => d
  | n + 1, d, k =>
    if d.lockstep && d.frameWritten d.twin.digested then digestFrames n (d.digestFrame k d.twin.digested) k else d

/-- What lock-step does after any write or retirement: the writes are hashed, and the digests of the frames that are
finished are sent (R380, R381). -/
def Dev.lsStep (d : Dev) (k : Clock) : Dev :=
  if d.lockstep then (d.lsFlush k).digestFrames (d.frame.number + 2 - d.twin.digested) k else d

/-! ### The arm check (R377) -/

/-- The bytes of this device's arm record: job state, object digest, placed form digest, JOB_SEED, member count and
index, launch count, stop frame. Their places are the model's choice. (log 49 DEDUCED) -/
def Dev.armRecord (d : Dev) : List Byte :=
  let (o, f) := match d.image with
    | some m => (padTo 0 64 m.objDigest, padTo 0 64 m.formDigest)
    | none => (List.replicate 64 0, List.replicate 64 0)
  leBytes 1 d.job.phase.code ++ o ++ f ++ leBytes 8 d.seed ++ leBytes 2 (d.rd .jobMemberCount) ++
    leBytes 2 (d.rd .jobMemberIndex) ++ leBytes 8 (d.rd64 .tickLaunchLo .tickLaunchHi) ++ leBytes 8 d.job.stop

/-- Send the arm record, in three parts of 62 bytes. -/
def Dev.sendArm (d : Dev) (k : Clock) : Dev :=
  if d.rd .twinCfgMode = 2 then
    (List.range 3).foldl (fun d i => d.lsControl k 1 (leBytes 1 i ++ slice d.armRecord (62 * i) 62)) d
  else d

/-- The job state of the twin, by its last arm record; IDLE before one. -/
def Dev.peerState (d : Dev) : Nat := field d.twin.peerArm 0 1

/-- The first field in which the twin's arm record differs, 0 for none (TWIN_LS_ARM_FIELD). -/
def Dev.armField (d : Dev) : Nat :=
  let a := d.armRecord
  let b := d.twin.peerArm
  let differs := fun (o n : Nat) => slice a o n ≠ slice b o n
  if differs 1 64 then 1
  else if differs 65 64 then 2
  else if differs 129 8 then 3
  else if differs 137 2 then 4
  else if differs 139 2 then 5
  else if differs 141 8 then 6
  else if differs 149 8 then 7
  else if d.peerState ≠ 2 && d.peerState ≠ 3 then 8
  else 0

/-- At a frame open the twins' stop frames are compared (R381, R382). -/
def Dev.lsOpen (d : Dev) (k : Clock) : Dev :=
  if d.lockstep && leNat (slice d.twin.peerArm 149 8) ≠ d.job.stop then d.diverge k d.frame.number 0 4 else d

/-- At a frame close: the link is DOWN or has been since the last one, or the twin's job has ended (R382). -/
def Dev.lsClose (d : Dev) (k : Clock) : Dev :=
  let s := d.peerState
  let gone := d.fab.ports[(80 : Fin 81)].state ≠ .up || d.twin.linkLost || s ≤ 1 || s ≥ 6
  if !d.lockstep then d
  else
    let e := d.modTwin fun t => { t with linkLost := false }
    if gone then e.diverge k d.frame.number 0 3 else e

/-- Lock-step state of a job that is over, or has yet to start, is dropped; what the twin has said stays. -/
def Twin.fresh (t : Twin) : Twin :=
  { Twin.empty with peer := t.peer, peerArm := t.peerArm, record := t.record, peerRecord := t.peerRecord }

/-! ### Commands -/

/-- A one-hop message of the twin that has come over its link and has not been taken up yet leaves its buffer as it is
taken (R323). -/
def Dev.takeTwin (d : Dev) (k : Clock) (p : Packet) : Dev :=
  if d.fab.inbox.contains (80, p) then (d.takeIn 80 p).freeBuffer k ⟨p, portDie 80, some (80, p.vc), false⟩ else d

/-- A one-hop packet on the twin link that is not whole or not defined is dropped and counted (R319, R320). Its count
stands in the page of FD1. (log 44 DEDUCED) -/
def Dev.twinDrop (d : Dev) (k : Clock) (p : Packet) : Option Dev :=
  if p.dst = 0xFFFF && d.fab.ports[(80 : Fin 81)].state = .up && !p.good then
    some ((d.takeTwin k p).count .fabRtCrcDrop 1 (portDie 80))
  else none

/-- A lock-step message that arrives whole on the twin link (R374, R375). -/
def Dev.lsMessage (d : Dev) (p : Packet) (op kind : Nat) : Bool :=
  d.fab.ports[(80 : Fin 81)].state = .up && d.rd .twinCfgMode = 2 && p.op.toNat = op && p.dst = 0xFFFF && p.good &&
    (op = 0x7E || field p.payload 0 1 = kind)

/-- One chunk hash of the twin. -/
def Dev.takeHash (d : Dev) (k : Clock) (frame stream index hash : Nat) : Dev :=
  let c : LsChunk := ⟨stream, frame, index, hash, []⟩
  match d.twin.chunks.find? fun x => x.same c with
  | some x => d.compareChunk k x hash
  | none => d.modTwin fun t => { t with early := t.early ++ [c] }

/-- LOCKSTEP_ARM_RECORD: one part of the twin's arm record (R377). -/
def execLockstepArmRecord (p : Packet) (s : State) : Result :=
  s.now fun k d =>
    if d.lsMessage p 0x7F 1 && field p.payload 1 1 < 3 then
      let o := 62 * field p.payload 1 1
      some ((d.takeTwin k p).modTwin fun t => { t with
        peerArm := slice t.peerArm 0 o ++ slice p.payload 2 62 ++ slice t.peerArm (o + 62) (124 - o) })
    else d.twinDrop k p

/-- One frame digest of the twin. -/
def Dev.takeDigest (d : Dev) (k : Clock) (stream frame digest : Nat) : Dev :=
  match d.twin.mine.find? fun e => e.1 % 2 ^ 48 = frame && e.2.1 = stream with
  | some e => (d.modTwin fun t => { t with mine := t.mine.erase e }).compareDigest k e.1 stream e.2.2 digest
  | none => d.modTwin fun t => { t with theirs := t.theirs ++ [(frame, stream, digest)] }

/-- LOCKSTEP_FRAME_DIGESTS: the twin's frame digests are compared with the local ones (R381). -/
def execLockstepFrameDigests (p : Packet) (s : State) : Result :=
  s.now fun k d =>
    if d.lsMessage p 0x7F 2 && d.lockstep then
      let d := d.takeTwin k p
      some ((List.range 3).foldl (fun d i =>
        let o := 1 + 16 * i
        if allZero (slice p.payload o 16) then d
        else d.takeDigest k (field p.payload o 2) (field p.payload (o + 2) 6) (field p.payload (o + 8) 8)) d)
    else d.twinDrop k p

/-- LOCKSTEP_GRANULE_RECORDS: the first granule of a chunk in which the twins differ is the first differing
store (R380, R382). -/
def execLockstepGranuleRecords (p : Packet) (s : State) : Result :=
  s.now fun k d =>
    if d.lsMessage p 0x7F 3 && d.lockstep then
      let b := p.payload
      let c : LsChunk := ⟨field b 1 2, field b 8 8, field b 4 4, 0, []⟩
      let d := d.takeTwin k p
      match d.twin.chunks.find? fun x => x.same c with
      | none => some d
      | some x =>
        some ((List.range 2).foldl (fun d i =>
          let n := field b 3 1 + i
          let own := (x.grains[n]?).getD ⟨0, 0⟩
          let his : Granule := ⟨field b (16 + 24 * i) 16, field b (32 + 24 * i) 8⟩
          if own = his then d
          else d.diverge k x.frame x.stream 1 (some (if own.place = 0 && own.hash = 0 then his.place else own.place,
            x.index, n))) d)
    else d.twinDrop k p

/-- LOCKSTEP_HALT: the twin has halted. A device that has no record of its own halts with the twin's (R382). -/
def execLockstepHalt (p : Packet) (s : State) : Result :=
  s.now fun k d =>
    if d.lsMessage p 0x7F 4 && d.lsJob then
      let r := field p.payload 1 32
      let d := (d.takeTwin k p).modTwin fun t => { t with peerRecord := r }
      some (d.lsHalt k (if bitAt r 81 then r else r + 2 ^ 81))
    else d.twinDrop k p

/-- The job state of the twin by its last timestamp block, IDLE before one (R374). (log 79 DESIGN CHOICE) -/
def Dev.twinJob (d : Dev) : Nat := match d.twin.peer with | some x => x.2.2 | none => 0

/-- The effect of a completed write of TWIN_CFG (R374): the mode changes only while both jobs are IDLE or TORN; any other
write sets TWIN_CFG_REJECT, and mode 3 is ignored. (log 49 DEDUCED) -/
def Dev.setTwinMode (d : Dev) (k : Clock) (v : Nat) : Dev × Bool :=
  let mode := v % 4
  let idle := d.job.phase = .idle || d.job.phase = .torn
  let peerIdle := d.twinJob = 0 || d.twinJob = 7
  if !(idle && peerIdle) then (d.flag .twinCfgReject, false)
  else if mode = 3 then (d, false)
  else ((d.wr .twinCfgMode mode).twinUp k, true)

/-- The body of a timestamp block: the count of its sending, the partner's last stamp and the count of its receipt, and
for the twin this device's mode, node number and job state (R33, R374). Their places, and that the job state is among
them, are the model's choice. (log 79 DESIGN CHOICE) -/
def Dev.stampBody (d : Dev) (k : Clock) (port : Fin 81) : List Byte :=
  let (t3, t4) := d.fab.ports[port].gotAt.getD (0, 0)
  leBytes 8 k.count ++ leBytes 8 t3 ++ leBytes 8 t4 ++
    leBytes 1 (d.rd .twinCfgMode) ++ leBytes 2 d.node ++ leBytes 1 d.job.phase.code

/-- TIMESTAMP_SEND: a port sends a timestamp block, which takes a block number and waits where 64 blocks are not
acknowledged (R33, R314, R315). It does so at each multiple of 65,536 counts. (log 77 DESIGN CHOICE) In mode 2 the arm
record follows it on the twin link (R377). -/
def execTimestampSend (port : Fin 81) (s : State) : Result :=
  let due := fun (k : Clock) =>
    if k.count % 65536 = 0 && s.dev.fab.ports[port].sentAt ≠ some k.count then k.count
    else (k.count / 65536 + 1) * 65536
  s.act (fun k => k.toCount (due k)) fun k d =>
    let q := d.fab.ports[port]
    if q.timed && q.blockRoom then
      let d := (d.sendBlock k port 1 (d.stampBody k port)).modPort port fun q => { q with sentAt := some k.count }
      some (if port = 80 then d.sendArm k else d)
    else none

end Sys2Proof.Machine
end

