-- ==== Sys2Proof/Machine/Coll.lean ====
section
/-! DEFINITION. Collectives: invocations, reductions, broadcasts, the root's judgement, tokens and the checker
(R344 to R363). -/

namespace Sys2Proof.Machine

open Sys2Proof

/-! ### Issue -/

/-- COLL.BCAST (R352). -/
def execCollBcast (c : Fin 48) (psel : BitVec 4) (tda : BitVec 6) (desc : BitVec 12) (s : State) : Result :=
  s.issueEng c (encCollBcast psel tda desc) (collEng s.dev.order.fabricDies (encCollBcast psel tda desc))

/-- COLL.REDUCE (R350). -/
def execCollReduce (c : Fin 48) (psel : BitVec 4) (tdd tda : BitVec 6) (desc : BitVec 12) (s : State) : Result :=
  s.issueEng c (encCollReduce psel tdd tda desc) (collEng s.dev.order.fabricDies (encCollReduce psel tdd tda desc))

/-- COLL.WAIT (R106). -/
def execCollWait (c : Fin 48) (psel : BitVec 4) (desc : BitVec 12) (s : State) : Result :=
  s.issueEng c (encCollWait psel desc) (collEng s.dev.order.fabricDies (encCollWait psel desc))

/-! ### Descriptors and their members (R345 to R347) -/

/-- List positions of the children of a position. -/
def CollDesc.children (c : CollDesc) (pos : Nat) : List Nat :=
  (List.range c.members.length).filter fun q => memParent (c.members.getD q 0) = pos && q ≠ 0

/-- The format of the hop from a position to its parent. -/
def CollDesc.hopOf (c : CollDesc) (pos : Nat) : Nat :=
  if bitAt (c.members.getD pos 0) 14 then c.domainFmt else c.boardFmt

/-- Bytes per tile of a hop format (Table COLL-4). -/
def hopBytes (f : Nat) : Nat := match f with | 0 => 16384 | 1 => 8192 | _ => 4224

/-- The first byte of a descriptor's buffer slot (R347). -/
def Dev.collSlot (d : Dev) (c : CollDesc) : Nat :=
  match d.image with | none => 0 | some m => m.colls.base + c.slot * m.colls.slotSize

/-- Where the tiles of a child lie in the slot: the children in list order, each at its maximum tile count. -/
def CollDesc.kidOffset (c : CollDesc) (pos kid : Nat) : Nat :=
  sumBy ((c.children pos).filter fun q => q < kid) fun q => c.maxTiles * hopBytes (c.hopOf q)

/-- Where the root's staged result lies in the slot, beyond the tiles of its children. -/
def CollDesc.stageOffset (c : CollDesc) : Nat := c.kidOffset 0 c.members.length

/-- The node of a list position (R67). -/
def Dev.collNode (d : Dev) (c : CollDesc) (pos : Nat) : Nat := d.memberNode (memIndex (c.members.getD pos 0))

/-- The list position that a node takes. -/
def Dev.collPosOfNode (d : Dev) (c : CollDesc) (node : Nat) : Option Nat :=
  if node < d.rd .jobBaseNode then none else c.posOf (node - d.rd .jobBaseNode)

/-- The fabric die whose collective engine, or checker adder, serves a descriptor (R350, R356). -/
def Dev.collDie (d : Dev) (desc : Nat) : Nat := desc % d.order.fabricDies

/-- The fabric die of a descriptor's checker. -/
def Dev.checkDie (d : Dev) (desc : Nat) : Nat := (desc + 1) % d.order.fabricDies

/-- The bytes of an arriving report, sample record, token or acknowledgement go from its source's home die to the fabric
die whose unit takes them (R21). -/
def Dev.collCarry (d : Dev) (die : Nat) (p : Packet) : Dev :=
  d.carry (.fabric (d.homeDie p.src.toNat)) (.fabric die) p.payload.length

/-! ### Hop formats (R346) -/

/-- Write 4,096 values in a hop format. -/
def hopEncode (f : Nat) (vs : List Val) : List Byte :=
  match f with
  | 0 => vs.flatMap fun v => leBytes 4 (fmtF32.encode .nearest v).1
  | 1 => vs.flatMap fun v => leBytes 2 (fmtF16b.encode .nearest v).1
  | _ =>
    let blocks := chunksOf 32 128 vs
    let scale := fun (b : List Val) =>
      match (b.filterMap fun v => match v with | .fin m e => if m = 0 then none else some (dyLog2 m e) | _ => none).max? with
      | none => (none : Option Int)
      | some l => some (max (-127) (min 127 (l - 14)))
    let put := fun (b : List Val) =>
      let s := (scale b).getD 0
      b.map fun v => BitVec.ofNat 8 (fmtF8e5.encode .nearest (match v with | .fin m e => .fin m (e - s) | x => x)).1
    (blocks.flatMap put) ++ blocks.map fun b =>
      match scale b with | none => (0x80 : Byte) | some s => BitVec.ofNat 8 (untwos 8 s)

/-- Read the 4,096 values of a tile in a hop format. -/
def hopDecode (f : Nat) (bs : List Byte) : List Val :=
  match f with
  | 0 => (chunksOf 4 4096 bs).map fun b => fmtF32.decode (leNat b)
  | 1 => (chunksOf 2 4096 bs).map fun b => fmtF16b.decode (leNat b)
  | _ =>
    let scales := bs.drop 4096
    (bs.take 4096).zipIdx.map fun (b, i) =>
      let s := (scales.getD (i / 32) 0).toNat
      if s = 0x80 then .zero
      else match fmtF8e5.decode b.toNat with
        | .fin m e => .fin m (e + twos 8 s)
        | x => x

/-! ### Exact combination (R350) -/

/-- Combine finite values: 0 sum, 1 max, 2 min. -/
def combineFin (oper : Nat) (a b : Val) : Val :=
  match oper with
  | 0 => a.add b
  | 1 => if a.lt b then b else a
  | _ => if b.lt a then b else a

/-- The exact combination of values in any order. (log 76 DEDUCED) -/
def combine (oper : Nat) (vs : List Val) : Val :=
  if vs.any fun v => v = .nan then .nan
  else
    let p := vs.contains (.inf false)
    let n := vs.contains (.inf true)
    if p && n then .nan
    else if p then .inf false
    else if n then .inf true
    else match vs.map Val.plain with
      | [] => .zero
      | v :: t => t.foldl (combineFin oper) v

/-- Element by element over lists of 4,096 values. (log 48 DEDUCED) -/
def combineAll (oper : Nat) (ls : List (List Val)) : List Val :=
  (ls.foldr (fun l (acc : List (List Val)) => List.zipWith (· :: ·) l acc) (List.replicate 4096 [])).map (combine oper)

/-! ### Invocations (R348, R349) -/

/-- Change the collective engines. -/
def Dev.modColl (d : Dev) (f : Coll → Coll) : Dev := { d with coll := f d.coll }

/-- The latest invocation of a descriptor. -/
def Dev.inv (d : Dev) (desc : Nat) : Option CollInv := (d.coll.invs.filter fun i => i.desc = desc).getLast?

/-- An invocation by its number. -/
def Dev.invAt (d : Dev) (desc n : Nat) : Option CollInv := d.coll.invs.find? fun i => i.desc = desc && i.n = n

/-- Put an invocation in its place. -/
def Dev.setCollInv (d : Dev) (i : CollInv) : Dev :=
  d.modColl fun c => { c with
    invs := if c.invs.any fun x => x.desc = i.desc && x.n = i.n then
        c.invs.map fun x => if x.desc = i.desc && x.n = i.n then i else x
      else c.invs ++ [i] }

/-- Before the next invocation of a descriptor starts: those whose decision every member has acknowledged are forgotten
(R354). -/
def Dev.dropInvs (d : Dev) (desc : Nat) : Dev :=
  d.modColl fun c => { c with invs := c.invs.filter fun x => x.desc ≠ desc || !x.unacked.isEmpty }

/-- The number of the next invocation of a descriptor. -/
def Dev.nextInv (d : Dev) (desc : Nat) : Nat := match d.inv desc with | none => 0 | some i => i.n + 1

/-- Count the engine's work that more bytes read and written make (R360). -/
def Dev.collWork (d : Dev) (die n : Nat) : Dev := (d.count .collBusy n 0 die).addWork 0xC (2 * die + 1) n

/-- An invocation reads and writes more bytes. -/
def Dev.collBytes (d : Dev) (i : CollInv) (r w : Nat) : Dev × CollInv :=
  let before := ceilDiv i.bytesIn 1024 + ceilDiv i.bytesOut 1024
  let i := { i with bytesIn := i.bytesIn + r, bytesOut := i.bytesOut + w }
  (d.collWork (d.collDie i.desc) (ceilDiv i.bytesIn 1024 + ceilDiv i.bytesOut 1024 - before), i)

/-- The entry of a mask core's instruction. -/
def Dev.collEntry (d : Dev) (core seq : Nat) : Option Entry :=
  (d.cores[Fin.ofNat 48 core]).entries.find? fun e => e.seq = seq

/-- The tiles of a descriptor. -/
def allTiles (t : TileDesc) : List (Nat × Nat) := rect 0 0 (Td.rows t) (Td.cols t)

/-- A collective instruction at its queue head: checks of its tiles, then it waits for its invocation.
COLL.WAIT waits for the commit of the latest invocation (R106, R348). -/
def Dev.releaseColl (d : Dev) (c : Fin 48) (e : Entry) : Started :=
  let desc := wbits e.word 99 88
  if wOp e.word = 3 then
    match d.inv desc with
    | none => .go d 0 true
    | some i => if i.state = 2 then .go d 0 true else .wait
  else if e.done then .wait
  else
    let root := ((d.collDesc desc).bind fun x => d.collPos x) = some 0
    let a := (e.tda, allTiles e.tda)
    let (rs, ws) := if wOp e.word = 1 then (if root then ([a], []) else ([], [a]))
      else ([a], if root then [(e.tdd, allTiles e.tdd)] else [])
    match d.checkTiles c rs ws with
    | some r => r
    | none => .released d

/-- The heads of the mask cores, where each is a released instruction of the descriptor. -/
def Dev.collHeads (d : Dev) (c : CollDesc) : Option (List (Fin 48 × Entry)) :=
  let cs := (List.finRange 48).filter fun (i : Fin 48) => bitAt c.mask i.val
  let hs := cs.filterMap fun i =>
    match d.cores[i].head (.coll (Fin.ofNat 10 (d.collDie c.desc))) with
    | none => none
    | some e => if e.on && e.done && wOp e.word ≠ 3 && wbits e.word 99 88 = c.desc then some (i, e) else none
  if hs.length = cs.length then some hs else none

/-- An invocation is uncommitted that keeps the next one of this descriptor from starting (R348). -/
def Dev.collBlocked (d : Dev) (c : CollDesc) : Bool :=
  d.coll.invs.any fun i => i.state ≠ 2 && (i.desc = c.desc ||
    match d.collDesc i.desc with | some x => x.slot = c.slot | none => false)

/-- Keep COLL_SLOT_WAIT: the cc in which an invocation waited (R348). (log 32 DEDUCED) -/
def Dev.noteCollWait (d : Dev) (k : Clock) : Dev :=
  let waits := match d.image with
    | none => false
    | some m => m.colls.descs.any fun c => (d.collHeads c).isSome && d.collBlocked c
  match d.coll.waitFrom, waits with
  | none, true => d.modColl fun c => { c with waitFrom := some k.cc }
  | some f, false => (d.modColl fun c => { c with waitFrom := none }).count .collSlotWait (k.cc - f)
  | _, _ => d

/-- The 16-byte record of R349 for a core's TDA. -/
def CollDesc.record (c : CollDesc) (t : TileDesc) : List Byte :=
  leBytes 1 c.type ++ leBytes 1 c.oper ++ leBytes 2 (memIndex (c.members.getD 0 0)) ++ leBytes 2 c.members.length ++
    leBytes 1 (Td.format t) ++ leBytes 1 0 ++ leBytes 2 (Td.rows t) ++ leBytes 2 (Td.cols t) ++
    leBytes 2 (Td.vrows t) ++ leBytes 2 (Td.vcols t)

/-- The descriptor hash (R349). -/
def CollDesc.hash (c : CollDesc) (t : TileDesc) : Nat :=
  leNat ((sha512 (c.record t ++ c.members.flatMap (leBytes 4))).take 8)

/-! ### Sending (R354, R359) -/

/-- Send a collective packet to a list position. -/
def Dev.collSend (d : Dev) (k : Clock) (c : CollDesc) (n pos op : Nat) (opw : Nat) (payload : List Byte)
    (flow : Option Nat := none) : Dev :=
  d.originate k ⟨d.jobKey, d.collNode c pos, 2, op, n, c.desc + opw, payload, flow,
    [(.fabric (d.collDie c.desc), payload.length)]⟩

/-- Send the full packets of a stream's bytes to positions, and the rest with `flush`; answers what is left. -/
def Dev.collStream (d : Dev) (k : Clock) (c : CollDesc) (n op : Nat) (dests : List Nat) (flush : Bool) :
    Nat → List Byte → Dev × List Byte
  | 0, bs => (d, bs)
  | fuel + 1, bs =>
    if bs.length ≥ 8192 then
      (dests.foldl (fun d p => d.collSend k c n p op 0 (bs.take 8192)) d).collStream k c n op dests flush fuel (bs.drop 8192)
    else if flush && !bs.isEmpty then (dests.foldl (fun d p => d.collSend k c n p op 0 bs) d, [])
    else (d, bs)

/-- A report's payload (Table COLL-6). -/
def reportBytes (hash frame member : Nat) (mismatch received : Bool) : List Byte :=
  leBytes 8 hash ++ leBytes 8 frame ++ leBytes 2 member ++ leBytes 1 (mismatch.toNat + 2 * received.toNat)

/-- The format of the root's result. -/
def Dev.collFmt (d : Dev) (i : CollInv) : Nat :=
  match i.seqs.head?.bind fun s => d.collEntry s.1 s.2 with
  | some e => Td.format e.tdd
  | none => 21

/-- Bytes of a tile as stored. -/
def storedBytes (t : TileDesc) : Nat := denseBytes t + sideBytes t

/-- The tile size of an invocation's broadcast. -/
def Dev.bcastBytes (d : Dev) (i : CollInv) : Nat :=
  match i.seqs.head?.bind fun s => d.collEntry s.1 s.2 with
  | some e => storedBytes e.tda
  | none => 0

/-! ### The root's decision (R353 to R355) -/

/-- Let the mask cores' instructions of an invocation retire. -/
def Dev.collRetire (d : Dev) (i : CollInv) : Dev :=
  i.seqs.foldl (fun d (core, seq) => d.modCore (Fin.ofNat 48 core) fun x =>
    x.updEntry seq fun e => { e with done := true }) d

/-- Write the results of a committed invocation (R351, R352), each core's in the frame in which its instruction issued
(R378). The tiles of a broadcast come bit for bit, and are written as any engine writes elements: NaNs canonical, T2's 0b10 as
0, scale bytes within their range (R115, R117, R118). (log 89 DEDUCED) -/
def Dev.collWrite (d : Dev) (k : Clock) (c : CollDesc) (i : CollInv) : Dev :=
  let root := d.collPos c = some 0
  let slot := d.collSlot c
  i.seqs.foldl (fun d (core, seq) =>
    let cf : Fin 48 := Fin.ofNat 48 core
    match d.collEntry core seq with
    | none => d
    | some e =>
      let t := if c.type = 2 then e.tdd else e.tda
      let ps := if root = (c.type = 2) then (List.range i.tiles).map fun n => (n / Td.cols t, n % Td.cols t) else []
      d.whileOpen k cf e [] [(t, ps)] fun d => d.hashed (0xC01 + 2 * d.collDie c.desc) e.frame fun d =>
      if c.type = 2 then
        if root then
          let t := e.tdd
          let w := fmtWidth (Td.format t) / 8
          (List.range i.tiles).foldl (fun d n =>
            let bs := d.mem.hbm.readN (slot + c.stageOffset + n * 4096 * w) (4096 * w)
            let x : NarrowTile := ⟨(chunksOf w 4096 bs).map leNat, [], 0, 0⟩
            let p := (n / Td.cols t, n % Td.cols t)
            let d := match d.spaceAt cf t (Td.base t) (tileOff t p.1 p.2) (denseBytes t) with
              | some (l, a) => d.touchW (.fabric (d.collDie c.desc)) l a (4096 * w)
              | none => d
            d.writeTile cf t (Td.fmt t) p.1 p.2 x) d
        else d
      else if root then d
      else
        let t := e.tda
        let db := denseBytes t
        let sb := sideBytes t
        let f := Td.fmt t
        (List.range i.tiles).foldl (fun d n =>
          let bs := d.mem.hbm.readN (slot + n * (db + sb)) (db + sb)
          let img := leNat (bs.take db)
          let es := leBytes db (packCodes f.width ((List.range 4096).map fun j => f.carried (elemAt img f.width j)))
          let p := (n / Td.cols t, n % Td.cols t)
          let d := match d.spaceAt cf t (Td.base t) (tileOff t p.1 p.2) db with
            | some (l, a) => (d.put l a es).touchW (.fabric (d.collDie c.desc)) l a db
            | none => d
          if sb = 0 then d
          else match d.spaceAt cf t (Td.side t) (sideOff t p.1 p.2) sb with
            | some (l, a) => (d.put l a ((bs.drop db).map fun b => BitVec.ofNat 8 (legalScale b.toNat))).touchW (.fabric (d.collDie c.desc)) l a sb
            | none => d) d) d

/-- Apply a commit on this member (R355): what the slot holds of the result is read and written to every mask core
(R360). -/
def Dev.collCommit (d : Dev) (k : Clock) (c : CollDesc) (i : CollInv) : Dev :=
  let root := d.collPos c = some 0
  let tile := if c.type = 2 then 512 * fmtWidth (d.collFmt i) else d.bcastBytes i
  let n := if root = (c.type = 2) then i.tiles * tile else 0
  let (d, i) := d.collBytes i n (n * i.seqs.length)
  let off := if c.type = 2 then c.stageOffset else 0
  let d := if n = 0 then d else d.touch (.fabric (d.collDie c.desc)) .hbm (d.collSlot c + off) n
  let d := (d.collWrite k c i).collRetire i
  ((d.setCollInv { i with state := 2 }).count .collCommits).noteCollWait k

/-- Apply an abort on this member: the job faults; of several in one control cycle the lowest code is recorded (R75,
R355). -/
def Dev.collAbort (d : Dev) (k : Clock) (desc n code cause : Nat) (byToken : Bool) (member : Option Nat) : Dev :=
  let d := match d.invAt desc n with
    | some i => d.setCollInv { i with state := 3 }
    | none => d
  let d' := ((((d.wr .collFaultCode code).wr .collFaultCause cause).wr .collFaultDesc desc).wr
    .collFaultByToken byToken.toNat).wr .collFaultInv n
  let d' := match member with
    | some m => (d'.wr .collFaultMember m).wr .collFaultMemberValid 1
    | none => d'.wr .collFaultMemberValid 0
  (if d.job.phase.faultable || d.supersedes k (d.rd .collFaultCode) code then d' else d).runFault k code cause (0xC00 + 2 * d.collDie desc + 1) 0

/-- Send the decision to the members that have not acknowledged it. -/
def Dev.sendTokens (d : Dev) (k : Clock) (c : CollDesc) (i : CollInv) : Dev :=
  i.unacked.foldl (fun d p => d.collSend k c i.n p 0x46 (i.code * 2 ^ 12 + i.cause * 2 ^ 20) (List.replicate 64 0)) d

/-- The root decides: it applies its decision to itself, then sends tokens in list order (R354). -/
def Dev.rootDecides (d : Dev) (k : Clock) (c : CollDesc) (i : CollInv) (code cause : Nat) (member : Option Nat) : Dev :=
  let i := { i with
    code := code, cause := cause, tokenAt := k.count
    unacked := (List.range c.members.length).filter fun p => p ≠ 0 }
  let d := d.setCollInv i
  let d := if code = 0 then d.collCommit k c i
    else (d.count .collRootAborts).collAbort k i.desc i.n code cause false member
  d.sendTokens k c i

/-- Member index of a list position. -/
def CollDesc.memberAt (c : CollDesc) (pos : Nat) : Nat := memIndex (c.members.getD pos 0)

/-- A report decides (Table COLL-5, rows 1 to 3). -/
def CollInv.reportCause (i : CollInv) (r : CollReport) : Option Nat :=
  if r.mismatch then some 3
  else if r.hash ≠ i.hash then some 2
  else if r.frame ≠ i.frame then some 4
  else none

/-- The first list position with a missing item, none when every item has arrived (R353). -/
def CollDesc.missing (c : CollDesc) (i : CollInv) : Option Nat :=
  (List.range c.members.length).find? fun p =>
    !(i.reports.any fun r => r.pos = p && !r.received) ||
      (c.type = 1 && p ≠ 0 && !(i.reports.any fun r => r.pos = p && r.received)) ||
      (p = 0 && ((c.type = 2 && !i.staged) || (c.check && i.check.isNone)))

/-- The lowest row of Table COLL-5 that a root's timely items give, rows 1 to 5: its code, cause and member.
(log 48 DEDUCED) -/
def CollDesc.outcome (c : CollDesc) (i : CollInv) : Option (Nat × Nat × Option Nat) :=
  let bad := i.reports.filterMap fun r => (i.reportCause r).map fun cause => (cause, r.pos)
  let pick := fun (cause : Nat) => bad.find? fun b => b.1 = cause
  match (pick 3).orElse fun _ => (pick 2).orElse fun _ => pick 4 with
  | some (cause, p) => some (0x21, cause, some (c.memberAt p))
  | none =>
    if i.check = some false then some (0x22, 5, none)
    else if (c.missing i).isNone then some (0, 0, none)
    else none

/-- The root takes the outcome that its items give, where there is one; `more` is the sender's word that another of its
items arrives in this control cycle, with which the outcome is taken, so that the lowest row applies to all of them
(R353). (log 82 DESIGN CHOICE) -/
def Dev.judge (d : Dev) (k : Clock) (c : CollDesc) (i : CollInv) (more : Bool := false) : Dev :=
  if i.state ≠ 1 || more then d
  else
    match c.outcome i with
    | some (code, cause, member) => d.rootDecides k c i code cause member
    | none => d

/-! ### The check (R356) -/

/-- An element of an invocation is sampled. -/
def Dev.sampled (d : Dev) (desc n e : Nat) : Bool :=
  (sipHash (BitVec.ofNat 64 d.seed) (BitVec.ofNat 64 (desc + n * 2 ^ 32)) (leBytes 8 e)).toNat % 4096 = 0

/-- The 296-bit exact value of a finite sum, of weight 2^−149. -/
def exactBits (m e : Int) : Nat := untwos 296 (Val.atExp m e (min e (-149)) / 2 ^ (-149 - min e (-149)).toNat)

/-- The value that a record's 37 bytes spell. -/
def exactVal (n : Nat) : Val := .fin (twos 296 n) (-149)

/-- The sample records of a tile's own values; a sum that is not finite has no exact value, and its bytes are a
free value. (log 48 DEDUCED) -/
def Dev.tileSamples (d : Dev) (c : CollDesc) (n t : Nat) (own : List Val) : List (Nat × Nat) :=
  own.zipIdx.filterMap fun (v, j) =>
    let e := 4096 * t + j
    if d.sampled c.desc n e then
      some (e, match v with
        | .fin m ex => exactBits m ex
        | .nzero => 0
        | _ => Config.sampleOpen c.desc n e % 2 ^ 296)
    else none

/-- The bytes of sample records. -/
def sampleBytes (l : List (Nat × Nat)) : List Byte := l.flatMap fun (e, v) => leBytes 8 e ++ leBytes 37 v ++ leBytes 3 0

/-- The values that rounding an element into a hop format may give. The scale of an F8e5 block depends on the largest
of its elements, which no record carries: it is that of the element itself or a larger one, and a block whose finite
elements are all zero reads as zeros (R346). (log 48 DEDUCED) -/
def hopValues (f : Nat) (v : Val) : List Val :=
  match f with
  | 0 => [fmtF32.nearest v]
  | 1 => [fmtF16b.nearest v]
  | _ =>
    match v with
    | .fin m e =>
      if m = 0 then [.zero]
      else
        let lo := max (-127) (min 127 (dyLog2 m e - 14))
        ((List.range (128 - lo).toNat).map fun (j : Nat) =>
          let s := lo + j
          match fmtF8e5.nearest (.fin m (e - s)) with | .fin m e => .fin m (e + s) | x => x).eraseDups
    | x => [x, .zero]

/-- One value of each list, in every way. -/
def choices : List (List Val) → List (List Val)
  | [] => [[]]
  | vs :: rest => vs.flatMap fun v => (choices rest).map (v :: ·)

/-- Rebuild one sampled element up the member list: the exact values that it may have at the root (R356). -/
def rebuild (c : CollDesc) (i : CollInv) (e : Nat) : List Val :=
  let own := fun (p : Nat) => match (i.samples.find? fun s => s.1 = p).bind fun s => s.2.find? fun r => r.1 = e with
    | some r => exactVal r.2
    | none => .zero
  let all := (List.range c.members.length).reverse.foldl (fun (vs : List (Nat × List Val)) p =>
    let sums := ((choices ((c.children p).filterMap fun q => (vs.find? fun y => y.1 = q).map (·.2))).map fun l =>
      combine c.oper (own p :: l)).eraseDups
    (p, if p = 0 then sums else (sums.flatMap (hopValues (c.hopOf p))).eraseDups) :: vs) []
  ((all.find? fun y => y.1 = 0).map (·.2)).getD []

/-- Elements that an invocation samples. (log 48 DEDUCED) -/
def Dev.sampleSet (d : Dev) (i : CollInv) : List Nat :=
  (List.range (4096 * i.tiles)).filter fun e => d.sampled i.desc i.n e

/-- Every member's records and the staged result are there. -/
def Dev.checkable (d : Dev) (c : CollDesc) (i : CollInv) : Bool :=
  let es := d.sampleSet i
  c.check && i.tiles ≤ i.next && (List.range c.members.length).all fun p =>
    match i.samples.find? fun s => s.1 = p with
    | none => es.isEmpty
    | some s => es.all fun e => s.2.any fun r => r.1 = e

/-- The checker compares, once it can (R356). A rebuilt element agrees with the staged bits where some block scales give
them. (log 48 DEDUCED) -/
def Dev.tryCheck (d : Dev) (c : CollDesc) (i : CollInv) : Dev × CollInv :=
  if i.check.isSome || !d.checkable c i then (d, i)
  else
    let es := d.sampleSet i
    let w := fmtWidth (d.collFmt i) / 8
    let ok := es.all fun e =>
      let kept := leNat (d.mem.hbm.readN (d.collSlot c + c.stageOffset + e * w) w)
      (rebuild c i e).any fun v =>
        (match Fmt.ofCode (d.collFmt i) with | some f => (f.narrow .nearest none v).code | none => 0) = kept
    (d.count .collSamples es.length, { i with check := some ok })

/-- A check that completes at or after the deadline is a late item (R353). -/
def Dev.lateCheck (d : Dev) (c : CollDesc) (i : CollInv) : Dev × CollInv :=
  if i.state = 2 || i.check.isSome || i.lateCheck || !d.checkable c i then (d, i)
  else (d.count .collLate, { i with lateCheck := true })

/-! ### Reductions (R350, R351) -/

/-- The values of tile `t` of a mask core's TDA; the tile's bytes are read. A tile whose Pail has been freed since raises
TILE_BOUNDS (R259). -/
def Dev.coreTile (d : Dev) (k : Clock) (c : CollDesc) (core seq t : Nat) : Dev × List Val :=
  match d.collEntry core seq with
  | none => (d, List.replicate 4096 .zero)
  | some e =>
    let td := e.tda
    let p := (t / Td.cols td, t % Td.cols td)
    let cf : Fin 48 := Fin.ofNat 48 core
    if p.1 ≥ Td.rows td then (d, List.replicate 4096 .zero)
    else
      let d := d.whileOpen k cf e [(td, [p])] [] fun d =>
        match d.spaceAt cf td (Td.base td) (tileOff td p.1 p.2) (denseBytes td) with
        | some (l, a) => d.touch (.fabric (d.collDie c.desc)) l a (denseBytes td)
        | none => d
      let x := d.readTile cf td p.1 p.2
      (d, (List.range 4096).map fun j => x.val (Td.fmt td) j)

/-- Combine the next tile: staged at the root, sent on elsewhere. The staged bytes belong to no stream before the commit.
(log 48 DEDUCED, 49 DESIGN CHOICE) -/
def Dev.reduceTile (d : Dev) (k : Clock) (c : CollDesc) (pos : Nat) (i : CollInv) : Dev × CollInv :=
  let t := i.next
  let (d, own) := i.seqs.foldl (fun (x : Dev × List (List Val)) s =>
    let (d, l) := x.1.coreTile k c s.1 s.2 t
    (d, x.2 ++ [l])) (d, [])
  let kids := i.kids.map fun q =>
    let hb := hopBytes (c.hopOf q.pos)
    hopDecode (c.hopOf q.pos) (d.mem.hbm.readN (d.collSlot c + c.kidOffset pos q.pos + t * hb) hb)
  let read := sumBy i.seqs (fun s => match d.collEntry s.1 s.2 with | some e => denseBytes e.tda | none => 0) +
    sumBy i.kids fun q => hopBytes (c.hopOf q.pos)
  let mine := if c.check then d.tileSamples c i.n t (combineAll c.oper own) else []
  let d := i.kids.foldl (fun d q =>
    let hb := hopBytes (c.hopOf q.pos)
    d.touch (.fabric (d.collDie c.desc)) .hbm (d.collSlot c + c.kidOffset pos q.pos + t * hb) hb) d
  let i := { i with
    next := t + 1
    samples := if c.check then
        match i.samples.find? fun s => s.1 = pos with
        | none => i.samples ++ [(pos, mine)]
        | some _ => i.samples.map fun s => if s.1 = pos then (pos, s.2 ++ mine) else s
      else i.samples }
  let vs := combineAll c.oper (own ++ kids)
  if pos = 0 then
    let w := fmtWidth (d.collFmt i) / 8
    let bs := match Fmt.ofCode (d.collFmt i) with
      | some f => vs.flatMap fun v => leBytes w (f.narrow .nearest none v).code
      | none => []
    let at_ := d.collSlot c + c.stageOffset + t * 4096 * w
    let d := (d.locWrite .hbm at_ bs).touchW (.fabric (d.collDie c.desc)) .hbm at_ (4096 * w)
    d.collBytes i read (4096 * w)
  else
    let bs := hopEncode (c.hopOf pos) vs
    let (d, rest) := d.collStream k c i.n 0x40 [memParent (c.members.getD pos 0)] false 1024 (i.out ++ bs)
    d.collBytes { i with out := rest } read bs.length

/-- Combine every tile that has arrived from all children. -/
def Dev.reduceLoop (k : Clock) (c : CollDesc) (pos : Nat) : Nat → Dev → CollInv → Dev × CollInv
  | 0, d, i => (d, i)
  | n + 1, d, i =>
    if i.next < i.tiles && i.kids.all fun q => (i.next + 1) * hopBytes (c.hopOf q.pos) ≤ q.got then
      let (d, i) := d.reduceTile k c pos i
      Dev.reduceLoop k c pos n d i
    else (d, i)

/-- The checker's adder takes a member's records (R360). -/
def Dev.checkWork (d : Dev) (c : CollDesc) (old new : Nat) : Dev :=
  d.collWork (d.checkDie c.desc) (ceilDiv (new * 48) 1024 - ceilDiv (old * 48) 1024)

/-- After a change: combine what can be, and finish the stream, the samples and the instructions of a member
whose last tile has been read (R350, R351, R356). -/
def Dev.reduce (d : Dev) (k : Clock) (c : CollDesc) (pos : Nat) (i : CollInv) : Dev × CollInv :=
  let was := i.next
  let (d, i) := Dev.reduceLoop k c pos (i.tiles + 1) d i
  let mine := ((i.samples.find? fun s => s.1 = pos).map (·.2)).getD []
  if i.next < i.tiles || was = i.tiles then (d, i)
  else if pos = 0 then (if c.check then d.checkWork c 0 mine.length else d, i)
  else
    let up := memParent (c.members.getD pos 0)
    let (d, rest) := d.collStream k c i.n 0x40 [up] true 1024 i.out
    let d := d.collSend k c i.n up 0x41 0 (leBytes 4 i.tiles)
    let d := if c.check then
        (chunksOf 170 (mine.length / 170 + 1) mine).foldl (fun d l =>
          if l.isEmpty then d
          else d.collSend k c i.n 0 0x45 0 (sampleBytes l) (some (d.fab.flowlet (d.collNode c 0) ^^^ 1))) d
      else d
    (d.collRetire i, { i with out := rest })

/-! ### Broadcasts (R352) -/

/-- The root sends its tiles to its children (R352). -/
def Dev.bcastRoot (d : Dev) (k : Clock) (c : CollDesc) (i : CollInv) : Dev × CollInv :=
  match i.seqs.head?.bind fun s => (d.collEntry s.1 s.2).map fun e => (s.1, e) with
  | none => (d, i)
  | some (core, e) =>
    let t := e.tda
    let cf : Fin 48 := Fin.ofNat 48 core
    let bs := (allTiles t).flatMap fun p =>
      (match d.spaceAt cf t (Td.base t) (tileOff t p.1 p.2) (denseBytes t) with
        | some (l, a) => d.at_ l a (denseBytes t) | none => []) ++
      (if sideBytes t = 0 then [] else
        match d.spaceAt cf t (Td.side t) (sideOff t p.1 p.2) (sideBytes t) with
        | some (l, a) => d.at_ l a (sideBytes t) | none => [])
    let d := d.whileOpen k cf e [(t, allTiles t)] [] fun d => (allTiles t).foldl (fun d p =>
      match d.spaceAt cf t (Td.base t) (tileOff t p.1 p.2) (denseBytes t) with
      | some (l, a) => d.touch (.fabric (d.collDie c.desc)) l a (storedBytes t)
      | none => d) d
    let kids := c.children 0
    let (d, _) := d.collStream k c i.n 0x42 kids true (bs.length / 8192 + 2) bs
    let d := kids.foldl (fun d q => d.collSend k c i.n q 0x43 0 (leBytes 4 i.tiles)) d
    d.collBytes { i with next := i.tiles } bs.length (bs.length * kids.length)

/-! ### Arrivals -/

/-- Stream bytes arrive for an invocation: they come from the source's home die to the engine and are kept in the buffer
slot, then combined, or forwarded as they come. A member that holds every tile of a broadcast reports that
(R352, R360). The bytes kept in the slot belong to no stream. (log 48 DEDUCED, 49 DESIGN CHOICE) -/
def Dev.collData (d : Dev) (k : Clock) (c : CollDesc) (pos : Nat) (i : CollInv) (from_ : Nat) (bs : List Byte) :
    Dev × CollInv :=
  match i.kids.find? fun q => q.pos = from_ with
  | none => (d, i)
  | some q =>
    let off := if c.type = 2 then c.kidOffset pos from_ else 0
    let size := i.tiles * if c.type = 2 then hopBytes (c.hopOf from_) else d.bcastBytes i
    let bs := bs.take (size - q.got)
    let here : Place := .fabric (d.collDie c.desc)
    let at_ := d.collSlot c + off + q.got
    let d := d.carry (.fabric (d.homeDie (d.collNode c from_))) here bs.length
    let d := (d.locWrite .hbm at_ bs).touchW here .hbm at_ bs.length
    let i := { i with kids := i.kids.map fun x => if x.pos = from_ then { x with got := x.got + bs.length } else x }
    if c.type = 2 then d.reduce k c pos i
    else
      let whole := (q.got + bs.length) / max 1 (d.bcastBytes i)
      let kids := c.children pos
      let full := whole = i.tiles
      let (d, rest) := if kids.isEmpty then (d, []) else d.collStream k c i.n 0x42 kids full 1024 (i.out ++ bs)
      let d := if full && i.next < i.tiles then
          d.collSend k c i.n 0 0x44 0 (reportBytes i.hash i.frame (c.memberAt pos) i.mismatch true)
        else d
      d.collBytes { i with out := rest, next := whole } 0 (bs.length * kids.length)

/-- An end marker arrives: a broadcast's is passed on, after what is left to forward (R352). -/
def Dev.collEnd (d : Dev) (k : Clock) (c : CollDesc) (pos : Nat) (i : CollInv) (from_ : Nat) : Dev × CollInv :=
  let i := { i with kids := i.kids.map fun x => if x.pos = from_ then { x with ended := true } else x }
  if c.type = 2 then (d, i)
  else
    let kids := c.children pos
    let (d, _) := if kids.isEmpty then (d, []) else d.collStream k c i.n 0x42 kids true 2 i.out
    let d := kids.foldl (fun d q => d.collSend k c i.n q 0x43 0 (leBytes 4 i.tiles)) d
    (d, { i with out := [] })

/-- A report's fields (Table COLL-6). -/
def CollDesc.readReport (c : CollDesc) (b : List Byte) : Option CollReport :=
  (c.posOf (field b 16 2)).map fun q =>
    ⟨q, field b 0 8, field b 8 8, bitAt (field b 18 1) 0, bitAt (field b 18 1) 1⟩

/-- A report reaches the root: at count `at_`, before the deadline or late (R353). -/
def Dev.takeReport (d : Dev) (i : CollInv) (at_ : Nat) (r : CollReport) : Dev × CollInv :=
  if i.state = 1 && at_ < i.deadline then (d, { i with reports := i.reports ++ [r] })
  else if i.state ≠ 2 && i.deadline ≤ at_ then (d.count .collLate, i)
  else (d, i)

/-- A member's report reaches the root (R353). -/
def Dev.collReport (d : Dev) (c : CollDesc) (i : CollInv) (at_ : Nat) (p : Packet) : Dev × CollInv :=
  match c.readReport p.payload with
  | none => (d, i)
  | some r => d.takeReport i at_ r

/-- Sample records reach the root's checker (R356). -/
def Dev.collSample (d : Dev) (k : Clock) (c : CollDesc) (i : CollInv) (from_ : Nat) (p : Packet) : Dev × CollInv :=
  let es := d.sampleSet i
  let rs := (chunksOf 48 (p.payload.length / 48) p.payload).map fun b => (field b 0 8, leNat ((b.drop 8).take 37))
  let old := ((i.samples.find? fun s => s.1 = from_).map (·.2)).getD []
  let new := rs.foldl (fun (l : List (Nat × Nat)) r =>
    if es.contains r.1 && !(l.any fun x => x.1 = r.1) then l ++ [r] else l) old
  let d := d.checkWork c old.length new.length
  let i := { i with samples := (i.samples.filter fun s => s.1 ≠ from_) ++ [(from_, new)] }
  if i.deadline ≤ k.count then d.lateCheck c i
  else if i.state = 1 then d.tryCheck c i
  else (d, i)

/-- What a packet that arrived at count `at_` brings to its invocation on this member. -/
def Dev.collTake (d : Dev) (k : Clock) (c : CollDesc) (pos from_ : Nat) (i : CollInv) (at_ : Nat) (p : Packet) :
    Dev × CollInv :=
  let data := i.state = 1
  match p.op.toNat with
  | 0x40 => if data then d.collData k c pos i from_ p.payload else (d, i)
  | 0x42 => if data then d.collData k c pos i from_ p.payload else (d, i)
  | 0x41 => if data then d.collEnd k c pos i from_ else (d, i)
  | 0x43 => if data then d.collEnd k c pos i from_ else (d, i)
  | 0x44 => if pos = 0 then (d.collCarry (d.collDie c.desc) p).collReport c i at_ p else (d, i)
  | _ => if pos = 0 then (d.collCarry (d.checkDie c.desc) p).collSample k c i from_ p else (d, i)

/-- A packet of an invocation that runs on this member; the root judges where it brings an item, unless `more` come. -/
def Dev.collPacket (d : Dev) (k : Clock) (c : CollDesc) (pos from_ : Nat) (i : CollInv) (p : Packet) (more : Bool) : Dev :=
  let (d, i) := d.collTake k c pos from_ i k.count p
  let d := d.setCollInv i
  if pos = 0 then d.judge k c i (more || !(p.op = 0x44 || p.op = 0x45)) else d

/-- DESC of a collective packet. -/
def packetDesc (p : Packet) : Nat := p.opword.toNat % 4096

/-- A collective packet: for an invocation that has not started here it waits for the start. -/
def Dev.collArrive (d : Dev) (k : Clock) (p : Packet) (more : Bool := false) : Option Dev :=
  if p.chan ≠ 2 || p.dst.toNat ≠ d.node || !p.good || p.key ≠ d.jobKey || !d.job.keyed then none
  else
    match d.collDesc (packetDesc p) with
    | none => none
    | some c =>
      match d.collPos c, d.collPosOfNode c p.src.toNat with
      | some pos, some from_ =>
        let n := p.seq.toNat
        match d.inv c.desc with
        | some i =>
          if i.n = n then some (d.collPacket k c pos from_ i p more)
          else if n < i.n then some d
          else some (d.modColl fun x => { x with waiting := x.waiting ++ [(p, k.count)] })
        | none => some (d.modColl fun x => { x with waiting := x.waiting ++ [(p, k.count)] })
      | _, _ => none

/-- The work of a predicated-off collective instruction, counted with its lowest-numbered mask core's: what an
invocation of its extents reads, writes and sends (R78, R360). (log 30 DEDUCED) -/
def Dev.collOffWork (d : Dev) (core : Fin 48) (e : Entry) : Dev :=
  let desc := wbits e.word 99 88
  match d.collDesc desc with
  | none => d
  | some c =>
    let cs := (List.range 48).filter fun i => bitAt c.mask i
    match d.collPos c with
    | none => d
    | some pos =>
      if wOp e.word = 3 || cs.head? ≠ some core.val then d
      else
        let n := Td.rows e.tda * Td.cols e.tda
        let kids := c.children pos
        let fromKids := sumBy kids fun q => n * hopBytes (c.hopOf q)
        let own := n * denseBytes e.tda
        let result := n * 512 * fmtWidth (Td.format e.tdd)
        let tiles := n * storedBytes e.tda
        let (r, w) :=
          if c.type = 2 then
            if pos = 0 then (own * cs.length + fromKids + result, result * (1 + cs.length))
            else (own * cs.length + fromKids, n * hopBytes (c.hopOf pos))
          else if pos = 0 then (tiles, tiles * kids.length)
          else (tiles, tiles * (kids.length + cs.length))
        d.collWork (d.collDie desc) (64 + ceilDiv r 1024 + ceilDiv w 1024)

/-- COLL_INVOCATION_START: every mask core's instruction is released at its head and nothing uncommitted stands in
the way: the invocation starts, reports, and sends what it can; packets that came before it are taken
(R348 to R350, R352, R353, R356). A stream with too many unconfirmed chunks holds its engine (R380). -/
def execCollInvocationStart (desc : BitVec 12) (s : State) : Result :=
  s.now fun k d =>
    match d.collDesc desc.toNat with
    | none => none
    | some c =>
      match d.collHeads c, d.collPos c with
      | some hs, some pos =>
        let stream := 0xC01 + 2 * d.collDie c.desc
        if d.collBlocked c || !(d.job.phase = .running || d.job.phase = .draining) then none
        else if d.lsHolds stream then some (d.lsHoldFrom k stream)
        else
          match hs with
          | [] => none
          | (_, e) :: _ =>
            let n := d.nextInv c.desc
            let tiles := Td.rows e.tda * Td.cols e.tda
            let mismatch := hs.any fun h => c.record h.2.tda ≠ c.record e.tda
            let d := hs.foldl (fun d h => d.modCore h.1 fun x => x.updEntry h.2.seq fun e =>
              { e with stage := .running, done := false, due := 0 }) d
            let early := d.coll.early.contains (c.desc, n)
            let i : CollInv := {
              desc := c.desc, n := n, state := if early then 3 else 1, frame := d.frame.number, hash := c.hash e.tda
              mismatch := mismatch, seqs := hs.map fun h => (h.1.val, h.2.seq), tiles := tiles, next := 0
              kids := if c.type = 2 then (c.children pos).map fun q => ⟨q, 0, false⟩
                else if pos = 0 then [] else [⟨memParent (c.members.getD pos 0), 0, false⟩]
              out := [], bytesIn := 0, bytesOut := 0
              deadline := if pos = 0 then d.frame.boundary + c.delta * d.period + c.deadline else 0
              reports := []
              staged := false, samples := [], check := none, lateStage := false, lateCheck := false
              code := 0, cause := 0, unacked := [], tokenAt := 0 }
            let d := (((d.dropInvs c.desc).count .collStarts).collWork (d.collDie c.desc) 64).setCollInv i
            -- the root's own report is an item too, late where the start is at or after the deadline
            let (d, i) := if pos = 0 then d.takeReport i k.count ⟨0, i.hash, i.frame, mismatch, false⟩ else (d, i)
            let d := if pos = 0 then d
              else d.collSend k c n 0 0x44 0 (reportBytes i.hash i.frame (c.memberAt pos) mismatch false)
            let (d, i) := if c.type = 2 then d.reduce k c pos i
              else if pos = 0 then d.bcastRoot k c i else (d, i)
            let d := d.setCollInv i
            let of := fun (w : Packet × Nat) => packetDesc w.1 = c.desc && w.1.seq.toNat = n
            let mine := d.coll.waiting.filter of
            let d := d.modColl fun x => { x with waiting := x.waiting.filter fun w => !of w }
            -- the root judges once over all that it has held
            let (d, i) := mine.foldl (fun (x : Dev × CollInv) w =>
              match x.1.collPosOfNode c w.1.src.toNat with
              | some f => x.1.collTake k c pos f x.2 w.2 w.1
              | none => x) (d, i)
            let d := d.setCollInv i
            let d := if pos = 0 then d.judge k c i else d
            some (d.noteCollWait k)
      | _, _ => none

/-- REDUCTION_STREAM: tiles of a child arrive and are combined (R350). -/
def execReductionStream (p : Packet) (s : State) : Result :=
  s.now fun k d => if p.op = 0x40 then d.collArrive k p else none

/-- REDUCTION_END_MARKER: a child's stream ends (R350). -/
def execReductionEndMarker (p : Packet) (s : State) : Result :=
  s.now fun k d => if p.op = 0x41 then d.collArrive k p else none

/-- BROADCAST_STREAM: tiles arrive, are kept and are forwarded (R352). -/
def execBroadcastStream (p : Packet) (s : State) : Result :=
  s.now fun k d => if p.op = 0x42 then d.collArrive k p else none

/-- BROADCAST_END_MARKER: the broadcast's stream ends and the member reports it received (R352). -/
def execBroadcastEndMarker (p : Packet) (s : State) : Result :=
  s.now fun k d => if p.op = 0x43 then d.collArrive k p else none

/-- COLL_REPORT: a member's report reaches the root (R353); with `more` another item does in this control cycle. -/
def execCollReport (p : Packet) (s : State) (more : Bool := false) : Result :=
  s.now fun k d => if p.op = 0x44 then d.collArrive k p more else none

/-- SAMPLE_RECORDS: a member's sample records reach the checker (R356); with `more` another item reaches the root in this
control cycle (R353). -/
def execSampleRecords (p : Packet) (s : State) (more : Bool := false) : Result :=
  s.now fun k d => if p.op = 0x45 then d.collArrive k p more else none

/-- An invocation of a descriptor at its root. -/
def Dev.rootInv (d : Dev) (desc n : Nat) : Option (CollDesc × CollInv) :=
  match d.collDesc desc, d.invAt desc n with
  | some c, some i => if d.collPos c = some 0 then some (c, i) else none
  | _, _ => none

/-- STAGED_RESULT_COMPLETE: the root's staged result is complete, an item made inside the root. At or after the deadline
it is late and ignored; with `more` another item reaches the root in this control cycle (R353). -/
def execStagedResultComplete (desc : BitVec 12) (inv : Nat) (s : State) (more : Bool := false) : Result :=
  s.now fun k d =>
    match d.rootInv desc.toNat inv with
    | none => none
    | some (c, i) =>
      if c.type ≠ 2 || i.state = 2 || i.staged || i.lateStage || i.next < i.tiles then none
      else if i.deadline ≤ k.count then
        let (d, i) := d.lateCheck c { i with lateStage := true }
        some ((d.setCollInv i).count .collLate)
      else if i.state = 1 then
        let (d, i) := d.tryCheck c { i with staged := true }
        some ((d.setCollInv i).judge k c i more)
      else none

/-- COLL_DEADLINE: an invocation uncommitted at its deadline is aborted with COLL_TIMEOUT, which the outcome of items
that came before it precedes (R353). -/
def execCollDeadline (desc : BitVec 12) (inv : Nat) (s : State) : Result :=
  let due := (s.dev.rootInv desc.toNat inv).bind fun x => if x.2.state = 1 then some x.2.deadline else none
  s.act (fun k => match due with | some t => k.toCount t | none => k) fun k d =>
    match due, d.rootInv desc.toNat inv with
    | some _, some (c, i) =>
      let (code, cause, member) := (c.outcome i).getD (0x20, 1, (c.missing i).map fun p => c.memberAt p)
      some (d.rootDecides k c i code cause member)
    | _, _ => none

/-- TOKEN: the root's decision arrives, is applied once and acknowledged (R354, R355). -/
def execToken (p : Packet) (s : State) : Result :=
  s.now fun k d =>
    if p.op ≠ 0x46 || p.chan ≠ 2 || p.dst.toNat ≠ d.node || !p.good || p.key ≠ d.jobKey || !d.job.keyed then none
    else
      match d.collDesc (packetDesc p) with
      | none => none
      | some c =>
        let n := p.seq.toNat
        let code := bitRange p.opword.toNat 19 12
        let cause := bitRange p.opword.toNat 23 20
        let d := d.collCarry (d.collDie c.desc) p
        let d := match d.inv c.desc with
          | some i =>
            if i.n = n && i.state = 1 then
              if code = 0 then d.collCommit k c i else d.collAbort k c.desc n code cause true none
            else if n ≤ i.n || d.coll.early.contains (c.desc, n) then d.count .collTokenDup
            else if code = 0 then d
            else (d.modColl fun x => { x with early := x.early ++ [(c.desc, n)] }).collAbort k c.desc n code cause true none
          | none =>
            if d.coll.early.contains (c.desc, n) then d.count .collTokenDup
            else if code = 0 then d
            else (d.modColl fun x => { x with early := x.early ++ [(c.desc, n)] }).collAbort k c.desc n code cause true none
        some (d.originate k ⟨d.jobKey, p.src.toNat, 2, 0x47, n, c.desc, List.replicate 64 0, none,
          [(.fabric (d.collDie c.desc), 64)]⟩)

/-- TOKEN_ACKNOWLEDGEMENT: a member has the decision, and its repetition stops (R354). -/
def execTokenAcknowledgement (p : Packet) (s : State) : Result :=
  s.now fun _ d =>
    if p.op ≠ 0x47 || p.dst.toNat ≠ d.node || !p.good || p.key ≠ d.jobKey then none
    else
      match d.rootInv (packetDesc p) p.seq.toNat with
      | none => none
      | some (c, i) =>
        (d.collPosOfNode c p.src.toNat).map fun q => (d.collCarry (d.collDie c.desc) p).setCollInv { i with unacked := i.unacked.filter fun x => x ≠ q }

/-- TOKEN_REPEAT: the retry interval has passed and the token is repeated to every member that has not
acknowledged it, on its next flowlet (R354). -/
def execTokenRepeat (desc : BitVec 12) (inv : Nat) (s : State) : Result :=
  let due := (s.dev.rootInv desc.toNat inv).bind fun x =>
    if 2 ≤ x.2.state && !x.2.unacked.isEmpty then some (x.2.tokenAt + 1000 * s.dev.rd .gmemCfgRetry) else none
  s.act (fun k => match due with | some t => k.toCount t | none => k) fun k d =>
    match due, d.rootInv desc.toNat inv with
    | some _, some (c, i) =>
      let i := { i with tokenAt := k.count }
      let f := i.unacked.foldl (fun (f : Fab) p =>
        let node := d.collNode c p
        { f with flowReps := Sparse.set f.flowReps 0 node (Sparse.get f.flowReps 0 node + 1) }) d.fab
      let d := ({ d with fab := f }.setCollInv i).count .collTokenRetries i.unacked.length
      some (d.sendTokens k c i)
    | _, _ => none

end Sys2Proof.Machine
end

