-- ==== Sys2Proof/Machine/HerdTable.lean ====
section
/-! DEFINITION. The herd table as it lies in device HBM: slots, states and fields (R233, Tables HERD-2 and
HERD-3). -/

namespace Sys2Proof.Machine

open Sys2Proof

/-- The herd part of the job. -/
def Dev.herdPart (d : Dev) : Option HerdPart := d.image.bind fun m => m.form.herd

/-- A herd slot (Table HERD-2). -/
structure HerdSlot where
  id : Nat
  state : Nat
  outstanding : Bool
  gen : Nat
  pos : Nat
  prompt : Nat
  kv : Nat
  age : Nat
  promptAt : Nat
  maxNew : Nat
  emitted : Nat
  maxPos : Nat
  last : Nat
  stops : List Nat
  deriving DecidableEq, Repr

/-- A FREE slot. -/
def HerdSlot.empty : HerdSlot := ⟨0, 0, false, 0, 0, 0, 0, 0, 0, 0, 0, 0, 0, [0, 0, 0, 0]⟩

/-- The slot that 128 bytes hold. -/
def HerdSlot.ofBytes (b : List Byte) : HerdSlot where
  id := field b 0 8
  state := field b 8 1
  outstanding := bitAt (field b 9 1) 0
  gen := field b 10 2
  pos := field b 12 4
  prompt := field b 16 4
  kv := field b 20 4
  age := field b 24 8 % 2 ^ 48
  promptAt := field b 32 8
  maxNew := field b 40 4
  emitted := field b 44 4
  maxPos := field b 48 4
  last := field b 52 4
  stops := [field b 56 4, field b 60 4, field b 64 4, field b 68 4]

/-- The 128 bytes of a slot. -/
def HerdSlot.bytes (x : HerdSlot) : List Byte :=
  leBytes 8 x.id ++ leBytes 1 x.state ++ leBytes 1 x.outstanding.toNat ++ leBytes 2 x.gen ++ leBytes 4 x.pos ++
  leBytes 4 x.prompt ++ leBytes 4 x.kv ++ leBytes 8 x.age ++ leBytes 8 x.promptAt ++ leBytes 4 x.maxNew ++
  leBytes 4 x.emitted ++ leBytes 4 x.maxPos ++ leBytes 4 x.last ++ x.stops.flatMap (leBytes 4) ++
  List.replicate 56 0

/-- Slot `i`. -/
def Dev.slot (d : Dev) (p : HerdPart) (i : Nat) : HerdSlot := HerdSlot.ofBytes (d.hbmRead (p.table + 128 * i) 128)

/-- The herd builder, on HB0, writes device HBM: in its stream, over the path to the stack (R21, R378). -/
def Dev.herdWrite (d : Dev) (a : Nat) (bs : List Byte) : Dev :=
  (d.hashed 0xE00 d.frame.number fun d => d.hbmWrite a bs).touchW (.hub 0) .hbm a bs.length

/-- Its reads of device HBM cross the paths from the stacks (R21). -/
def Dev.herdTouch (d : Dev) (rs : List (Nat × Nat)) : Dev := rs.foldl (fun d r => d.touch (.hub 0) .hbm r.1 r.2) d

/-- Write slot `i`. -/
def Dev.setSlot (d : Dev) (p : HerdPart) (i : Nat) (x : HerdSlot) : Dev := d.herdWrite (p.table + 128 * i) x.bytes

/-- The slots that hold anything but zeros, ascending, with their contents. -/
def Dev.tableSlots (d : Dev) (p : HerdPart) : List (Nat × HerdSlot) :=
  let ids := (d.mem.hbm.filter fun e => p.table ≤ e.1 && e.1 < p.table + 2 ^ 21).map fun e => (e.1 - p.table) / 128
  ids.eraseDups.mergeSort.map fun i => (i, d.slot p i)

/-- The slots that are not FREE, ascending, with their contents. -/
def Dev.usedSlots (d : Dev) (p : HerdPart) : List (Nat × HerdSlot) := (d.tableSlots p).filter fun x => x.2.state ≠ 0

/-- A KV object of a slot that is PREFILL or DECODE (R280). -/
def Dev.kvActive (d : Dev) (obj : Nat) : Bool :=
  match d.herdPart with
  | none => false
  | some p => (d.usedSlots p).any fun x => x.2.kv = obj && (x.2.state = 1 || x.2.state = 2)

end Sys2Proof.Machine
end

