-- ==== Sys2Proof/Machine/Tier.lean ====
section
/-! DEFINITION. The TIER engine: homes, moves, pins, evictions, its instructions and lending (R264 to R284). -/

namespace Sys2Proof.Machine

open Sys2Proof

/-! ### Issue -/

/-- TPROMOTE (R281). -/
def execTpromote (c : Fin 48) (psel : BitVec 4) (sa : BitVec 5) (tier : BitVec 2) (s : State) : Result :=
  s.issueEng c (encTierMove 0x01 psel sa tier) .tier

/-- TEVICT (R281). -/
def execTevict (c : Fin 48) (psel : BitVec 4) (sa : BitVec 5) (tier : BitVec 2) (s : State) : Result :=
  s.issueEng c (encTierMove 0x02 psel sa tier) .tier

/-- TTOUCH (R281). -/
def execTtouch (c : Fin 48) (psel : BitVec 4) (sa : BitVec 5) (s : State) : Result :=
  s.issueEng c (encTierObj 0x03 psel sa) .tier

/-- TWAIT (R281). -/
def execTwait (c : Fin 48) (psel : BitVec 4) (sa : BitVec 5) (s : State) : Result :=
  s.issueEng c (encTierObj 0x04 psel sa) .tier

/-! ### Space (R267, R271) -/

/-- Change the TIER engine. -/
def Dev.modTier (d : Dev) (f : Tier → Tier) : Dev := { d with tier := f d.tier }

/-- Change one object. -/
def Dev.modObj (d : Dev) (i : Nat) (f : TierObj → TierObj) : Dev :=
  d.modTier fun t => { t with objs := modifyAt t.objs i f }

/-- The tier part of the job. -/
def Dev.tierPart (d : Dev) : Option TierPart := d.image.bind fun m => m.form.tier

/-- Pool pages of the device: Q on each stack. -/
def Dev.poolSize (d : Dev) : Nat := match d.tierPart with | none => 0 | some t => t.q * d.order.hbmStacks

/-- Pool pages taken, by homes and by moves. -/
def Tier.usedPool (t : Tier) : List Nat :=
  t.objs.flatMap fun o => o.pool ++ match o.move with | some m => m.pool | none => []

/-- Tier-2 pages taken of a source. -/
def Tier.usedFar (t : Tier) (src : Nat) : List Nat :=
  (t.objs.flatMap fun o => o.far ++ match o.move with | some m => m.far | none => []).filterMap fun p =>
    if p.1 = src then some p.2 else none

/-- The `n` lowest numbers from `cur` below `limit` that a rising list does not hold. -/
def lowestOutside (limit : Nat) : List Nat → Nat → Nat → List Nat
  | [], cur, n => List.range' cur (min n (limit - cur))
  | u :: us, cur, n =>
    let k := min n (u - cur)
    List.range' cur k ++ lowestOutside limit us (max cur (u + 1)) (n - k)

/-- Free pool pages. -/
def Dev.poolFree (d : Dev) : Nat := d.poolSize - d.tier.usedPool.length

/-- The kind of a tier-2 source: 0 none, 1 loan, 2 host; 3 is ignored. -/
def Dev.srcKind (d : Dev) (i : Nat) : Nat := let k := d.rd .tierSrcKind 0 i; if k = 3 then 0 else k

/-- Some tier-2 source is configured. -/
def Dev.hasFar (d : Dev) : Bool := (List.range 8).any fun i => d.srcKind i ≠ 0

/-- `n` tier-2 pages from the lowest-numbered sources that have any (R271); none where they do not suffice. -/
def Dev.takeFar (d : Dev) (n : Nat) : Option (List (Nat × Nat)) :=
  let ps := (List.range 8).foldl (fun (ps : List (Nat × Nat)) i =>
    if d.srcKind i = 0 then ps
    else ps ++ (lowestOutside (d.rd .tierSrcPages 0 i) (d.tier.usedFar i).mergeSort 0 (n - ps.length)).map fun p => (i, p)) []
  if ps.length = n then some ps else none

/-- `n` free pool pages, lowest first; none where they do not suffice. -/
def Dev.takePool (d : Dev) (n : Nat) : Option (List Nat) :=
  let ps := lowestOutside d.poolSize d.tier.usedPool.mergeSort 0 n
  if ps.length = n then some ps else none

/-- The first page that a source's fields name (Table TIER-6). -/
def Dev.srcBase (d : Dev) (i : Nat) : Nat := d.rd .tierSrcBaseLo 0 i + d.rd .tierSrcBaseHi 0 i * 2 ^ 32

/-! ### Contents -/

/-- Bytes of page `j` of an object. -/
def TierObj.pageBytes (o : TierObj) (j : Nat) : Nat := min (2 ^ 21) (o.size - j * 2 ^ 21)

/-- A space an object may occupy: tier, pool pages and tier-2 pages. -/
abbrev Home := Nat × List Nat × List (Nat × Nat)

/-- The home of an object. -/
def TierObj.home (o : TierObj) : Home := (o.tier, o.pool, o.far)
/-- The home a move goes to. -/
def TierMove.home (m : TierMove) : Home := (m.target, m.pool, m.far)

/-- The page of a home lies in a loan. -/
def Dev.loanPage (d : Dev) (h : Home) (j : Nat) : Bool :=
  h.1 = 2 && match h.2.2[j]? with | some p => d.srcKind p.1 = 1 | none => false

/-- Some page of a home lies in host memory. -/
def Dev.usesHost (d : Dev) (h : Home) : Bool := h.1 = 2 && h.2.2.any fun p => d.srcKind p.1 = 2

/-- Local memory behind byte `off` of a home; none for tier 2. -/
def Dev.homeLoc (d : Dev) (o : TierObj) (h : Home) (off : Nat) : Option (Loc × Nat) :=
  match h.1 with
  | 0 => some (.die (Fin.ofNat 12 o.die), o.home0 + off)
  | 1 => (h.2.1[off / 2 ^ 21]?).map fun p => (.hbm, d.poolPage p + off % 2 ^ 21)
  | _ => none

/-- The host bus address behind byte `off` of a tier-2 home in host memory. -/
def Dev.hostAddr (d : Dev) (h : Home) (off : Nat) : Nat :=
  match h.2.2[off / 2 ^ 21]? with
  | some p => (d.srcBase p.1 + p.2) * 2 ^ 21 + off % 2 ^ 21
  | none => 0

/-- Read bytes of a home within one page; nothing of a loan. -/
def Dev.homeRead (d : Dev) (o : TierObj) (h : Home) (off n : Nat) : List Byte :=
  match d.homeLoc o h off with
  | some (l, a) => d.locRead l a n
  | none => if d.loanPage h (off / 2 ^ 21) then [] else d.mem.host.readN (d.hostAddr h off) n

/-- Write bytes of a home within one page, in local or host memory. -/
def Dev.homeWrite (d : Dev) (o : TierObj) (h : Home) (off : Nat) (bs : List Byte) : Dev :=
  match d.homeLoc o h off with
  | some (l, a) => d.locWrite l a bs
  | none =>
    if d.loanPage h (off / 2 ^ 21) then d
    else d.hostPut (d.hostAddr h off) bs

/-- The place of byte `off` of a home, for traffic: tier-2 pages lie behind HB0. -/
def Dev.homePlace (d : Dev) (o : TierObj) (h : Home) (off : Nat) : Place :=
  match d.homeLoc o h off with
  | some (l, a) => locPlace l a
  | none => .hub 0

/-- Read a range of a home, page by page. -/
def Dev.homeBytes (d : Dev) (o : TierObj) (h : Home) : List Byte :=
  (List.range o.pages).flatMap fun j => d.homeRead o h (j * 2 ^ 21) (o.pageBytes j)

/-- Elements of an object as a matrix: the product of its outer extents, and its last extent. -/
def ObjEntry.dims (e : ObjEntry) : Nat × Nat :=
  let dims := e.shape.take e.rank
  (dims.dropLast.foldl (· * ·) 1, dims.getLastD 1)

/-- Expand and compress again one tile of a non-DENSE object (R159, R160, R162, R274): its element slot, its
scale bytes and its metadata, and what was dropped from groups and beyond the operand. `inside` tells the
positions of the operand. -/
def retile (f : Fmt) (lay : Nat) (inside : Nat → Bool) (slot scales mta : List Byte) :
    List Byte × List Byte × Nat × Nat :=
  let n := f.width
  let img := leNat slot
  let tag := field mta 0 1
  let dense := (List.range 4096).map fun i => elemAt img n i
  let (codes, idx) :=
    if tag = 0 then (dense, 0)
    else if tag ≠ lay then (List.replicate 4096 0, 0)
    else
      let (st, drop) := match lay with
        | 1 => bitmapStored mta
        | 2 => twoOfFour mta
        | _ => (oneOfFour mta, 0)
      (placeStored img n (st.filter fun p => inside p.1), drop + (st.filter fun p => !inside p.1).length)
  let codes := codes.zipIdx.map fun (v, i) => if inside i then v else 0
  let (eb, mb, grp, _) := compressTile f lay codes (scales.map BitVec.toNat)
  (eb, mb, grp, idx)

/-- Where the tiles of an object of a non-DENSE layout lie: element slots of all tiles first, then their side images,
rows first. (log 37 DEDUCED) -/
structure TileMap where
  fmt : Fmt
  rows : Nat
  cols : Nat
  /-- Bytes of a tile's element slot. -/
  slot : Nat
  /-- Scale bytes of a tile. -/
  sc : Nat
  /-- Bytes of a tile's side image. -/
  side : Nat
  deriving DecidableEq, Repr

/-- Tiles in a row. -/
def TileMap.across (m : TileMap) : Nat := ceilDiv m.cols 64
/-- Number of tiles. -/
def TileMap.tiles (m : TileMap) : Nat := ceilDiv m.rows 64 * m.across
/-- Bytes of all slots and side images. -/
def TileMap.size (m : TileMap) : Nat := m.tiles * (m.slot + m.side)
/-- First byte of a tile's side image. -/
def TileMap.sideAt (m : TileMap) (t : Nat) : Nat := m.tiles * m.slot + t * m.side

/-- The tiles of an object of `n` bytes; none for one whose tiles are dense or that its tiles would not fit. -/
def ObjEntry.tileMap (e : ObjEntry) (n : Nat) : Option TileMap :=
  match Fmt.ofCode e.format with
  | none => none
  | some f =>
    let m : TileMap := ⟨f, e.dims.1, e.dims.2, 512 * f.width, scaleBytes e.format, scaleBytes e.format + metaBytes e.layout⟩
    if e.layout = 0 || n < m.size then none else some m

/-- What a move brings of an object: its bytes, the runs of them that are written, first byte and length, and the elements
dropped from groups and beyond the operand (R155, R274). -/
structure Moved where
  bytes : List Byte
  runs : List (Nat × Nat)
  grpDrop : Nat
  idxDrop : Nat
  deriving DecidableEq, Repr

/-- The bytes of an object after its tiles have been expanded and compressed again: of a slot and a side image only what
the tile occupies is written (R155, R156). -/
def recompress (lay : Nat) (m : TileMap) (bs : List Byte) : Moved :=
  let out := (List.range m.tiles).map fun t =>
    let inside := fun (i : Nat) => 64 * (t / m.across) + i / 64 < m.rows && 64 * (t % m.across) + i % 64 < m.cols
    let s := slice bs (m.sideAt t) m.side
    let (eb, mb, g, x) := retile m.fmt lay inside (slice bs (t * m.slot) m.slot) (s.take m.sc) (s.drop m.sc)
    (eb, s.take m.sc ++ mb, g, x)
  { bytes := (out.flatMap fun o => padTo 0 m.slot o.1) ++ (out.flatMap fun o => padTo 0 m.side o.2.1) ++ bs.drop m.size
    runs := (out.zipIdx.flatMap fun (o, t) => [(t * m.slot, o.1.length), (m.sideAt t, o.2.1.length)]) ++
      [(m.size, bs.length - m.size)]
    grpDrop := sumBy out fun o => o.2.2.1
    idxDrop := sumBy out fun o => o.2.2.2 }

/-- The runs of an object's bytes that a reader of its tiles reads: by their headers, what the tiles occupy (R155, R156). -/
def tileRuns (lay : Nat) (m : TileMap) (bs : List Byte) : List (Nat × Nat) :=
  ((List.range m.tiles).flatMap fun t =>
    let h := slice bs (m.sideAt t + m.sc) 64
    let tag := field h 0 1
    let (eb, mb) := if tag ≠ 0 && tag ≠ lay then (0, 64) else occupied m.fmt.width lay tag (field h 2 2)
    [(t * m.slot, eb), (m.sideAt t, m.sc + mb)]) ++ [(m.size, bs.length - m.size)]

/-- The parts of runs within `[lo, hi)`. -/
def clipRuns (runs : List (Nat × Nat)) (lo hi : Nat) : List (Nat × Nat) :=
  runs.filterMap fun (a, n) =>
    let b := max a lo
    let c := min (a + n) hi
    if b < c then some (b, c - b) else none

/-- The tiles of object `i`, where they are not dense, with their layout. -/
def Dev.tileMapOf (d : Dev) (i n : Nat) : Option (Nat × TileMap) :=
  (d.image.bind fun m => m.objects[i]?).bind fun e => (e.tileMap n).map fun m => (e.layout, m)

/-- The bytes of an object as a move carries them: tiles of a non-DENSE layout expanded and compressed again (R274). -/
def Dev.movedBytes (d : Dev) (i : Nat) (bs : List Byte) : Moved :=
  match d.tileMapOf i bs.length with
  | none => ⟨bs, [(0, bs.length)], 0, 0⟩
  | some (lay, m) => recompress lay m bs

/-- Write all bytes of an object to a home in local or host memory. -/
def Dev.homePut (d : Dev) (o : TierObj) (h : Home) (bs : List Byte) : Dev :=
  (List.range o.pages).foldl (fun d j => d.homeWrite o h (j * 2 ^ 21) (slice bs (j * 2 ^ 21) (o.pageBytes j))) d

/-- The runs that a move writes of page `j`. -/
def Moved.ofPage (x : Moved) (o : TierObj) (j : Nat) : List (Nat × Nat) :=
  clipRuns x.runs (j * 2 ^ 21) (j * 2 ^ 21 + o.pageBytes j)

/-- Write what a move brings of page `j` to a home in local or host memory. -/
def Dev.putPage (d : Dev) (o : TierObj) (h : Home) (x : Moved) (j : Nat) : Dev :=
  (x.ofPage o j).foldl (fun d (a, n) => d.homeWrite o h a (slice x.bytes a n)) d

/-- Count the drops of a move (R274). -/
def Dev.countDrops (d : Dev) (x : Moved) : Dev := (d.count .tierGrpDrop x.grpDrop).count .tierIdxDrop x.idxDrop

/-- Some page of a home lies in a loan. -/
def Dev.usesLoan (d : Dev) (o : TierObj) (h : Home) : Bool := (List.range o.pages).any fun j => d.loanPage h j

/-- The bytes of an object as a move out of a loan has them: what has been loaded, and its pages in host memory. -/
def Dev.loadedBytes (d : Dev) (o : TierObj) (m : TierMove) : List Byte :=
  (List.range o.pages).flatMap fun j =>
    if d.loanPage o.home j then Memory.readN m.got (j * 2 ^ 21) (o.pageBytes j) else d.homeRead o o.home (j * 2 ^ 21) (o.pageBytes j)

/-- A move out of a loan ends: what it has read is expanded and compressed again and comes into the new home, before that
is used (R155, R274). -/
def Dev.settleLoads (d : Dev) (i : Nat) (o : TierObj) (m : TierMove) : Dev :=
  let x := d.movedBytes i (d.loadedBytes o m)
  ((List.range o.pages).foldl (fun d j =>
    let d := if d.loanPage o.home j then d
      else d.carry (.hub 0) (d.homePlace o m.home (j * 2 ^ 21)) (sumBy (x.ofPage o j) (·.2))
    d.putPage o m.home x j) d).countDrops x

/-- What of an object is read once its headers are known (R155, R156). -/
def Dev.readRuns (d : Dev) (i : Nat) (bs : List Byte) : List (Nat × Nat) :=
  match d.tileMapOf i bs.length with
  | some (lay, m) => tileRuns lay m bs
  | none => [(0, bs.length)]

/-- The first poisoned byte of an object's local home that a move reads (R155, R156, R276). -/
def Dev.homePoison (d : Dev) (i : Nat) (o : TierObj) : Option (Loc × Nat) :=
  if d.mem.poisonHbm.isEmpty && d.mem.poisonDie.isEmpty then none
  else
    let runs := d.readRuns i (d.homeBytes o o.home)
    (List.range o.pages).findSome? fun j => (clipRuns runs (j * 2 ^ 21) (j * 2 ^ 21 + o.pageBytes j)).findSome? fun (a, n) =>
      match d.homeLoc o o.home a with
      | some (l, b) => (d.poisoned l b n).map fun p => (l, p)
      | none => none

/-! ### Moves (R274) -/

/-- Bytes of one piece of a move's loan traffic. (log 37 DEDUCED) -/
def pieceBytes : Nat := 4096

/-- The loan's global address of byte `off` of a home. -/
def Dev.loanAddr (d : Dev) (h : Home) (off : Nat) : Nat × Nat :=
  match h.2.2[off / 2 ^ 21]? with
  | some p =>
    let node := d.rd .tierSrcNode 0 p.1
    (node, node * 2 ^ 48 + 2 * 2 ^ 44 + (d.srcBase p.1 + p.2) * 2 ^ 21 + off % 2 ^ 21)
  | none => (0, 0)

/-- Runs of bytes, cut at the ends of pieces. (log 37 DEDUCED) -/
def cutRuns (runs : List (Nat × Nat)) : List (Nat × Nat) :=
  runs.flatMap fun (a, n) => (unitsMet pieceBytes a n).map fun j =>
    let lo := max a (j * pieceBytes)
    (lo, min (a + n) ((j + 1) * pieceBytes) - lo)

/-- The pieces of runs that lie in the loan pages of a home. -/
def Dev.loanRuns (d : Dev) (h : Home) (runs : List (Nat × Nat)) : List (Nat × Nat) :=
  (cutRuns runs).filter fun x => d.loanPage h (x.1 / 2 ^ 21)

/-- The headers of an object's tiles. -/
def TileMap.heads (m : TileMap) : List (Nat × Nat) := (List.range m.tiles).map fun t => (m.sideAt t + m.sc, 64)

/-- What a move out of a loan loads first, and whether that is the headers of tiles only: they tell what else of the
object is read (R155, R156). -/
def Dev.firstRuns (d : Dev) (i : Nat) (o : TierObj) : List (Nat × Nat) × Bool :=
  match d.tileMapOf i o.size with
  | some (_, m) => (m.heads, true)
  | none => ([(0, o.size)], false)

/-- Request a piece of a move's loan traffic: a store of bytes of the old home, or a load (R21, R274). -/
def Dev.nextPiece (d : Dev) (k : Clock) (i : Nat) (o : TierObj) (m : TierMove) (off : Nat) (out : Bool) (len : Nat)
    (data : List Byte) : Dev :=
  let d := d.modObj i fun o => { o with move := some { m with open_ := m.open_ + 1, todo := m.todo.tail } }
  let near := d.homePlace o (if out then o.home else m.home) off
  let d := if out then d.carry near (.hub 0) len else d.carry (.hub 0) near len
  let (node, addr) := d.loanAddr (if out then m.home else o.home) off
  d.accept k {
    mgmt := false, node := node, seq := 0, owner := .tier i off, op := if out then 1 else 0, addr := addr
    len := len, data := data, aop := 0, sa := 0, sb := 0, retry := 0, first := 0, sentAt := 0, frame := d.frame.number }

/-- Store restored bytes in their loans while the GMEM unit has room (R403). (log 50 DEDUCED) -/
def Dev.pumpStores (k : Clock) : List LoanStore → Dev → Dev
  | [], d => { d with snap := { d.snap with stores := [] } }
  | x :: xs, d =>
    if d.gmem.room 1 x.bytes.length then
      Dev.pumpStores k xs ((d.carry (.hub 1) (.hub 0) x.bytes.length).accept k {
        mgmt := false, node := x.node, seq := 0, owner := .restored, op := 1, addr := x.addr, len := x.bytes.length
        data := x.bytes, aop := 0, sa := 0, sb := 0, retry := 0, first := 0, sentAt := 0, frame := d.frame.number })
    else { d with snap := { d.snap with stores := x :: xs } }

/-- Request pieces of the moves in progress, lowest object first, while the GMEM unit has room and behind what a restore
stores. -/
def Dev.pumpTier (k : Clock) : Nat → Dev → Dev
  | 0, d => d
  | n + 1, d =>
    if !d.snap.stores.isEmpty then d
    else match d.tier.objs.zipIdx.find? fun (o, _) => match o.move with | some m => !m.todo.isEmpty | none => false with
    | none => d
    | some (o, i) =>
      match o.move with
      | none => d
      | some m =>
        let (off, size) := m.todo.headD (0, 0)
        let len := roundUp size 8
        let out := d.loanPage m.home (off / 2 ^ 21)
        let data := if out then slice (d.movedBytes i (d.homeBytes o o.home)).bytes off len else []
        if d.gmem.room 1 data.length then (d.nextPiece k i o m off out len data).pumpTier k n else d

/-- A TIER move that needs host memory has lost it (R276, R454). -/
def Dev.hostHomeLost (d : Dev) (k : Clock) : Dev := d.gmemFault k 0x30 4 0x3F 0 0xFFFF 0

/-- Host memory is lost: the moves that need it are abandoned, and the job faults (R276, R454). -/
def Dev.hostLost (d : Dev) (k : Clock) : Dev :=
  let hit := fun (o : TierObj) => match o.move with | some m => d.usesHost o.home || d.usesHost m.home | none => false
  if d.tier.objs.any hit then
    (d.modTier fun t => { t with objs := t.objs.map fun o => if hit o then { o with move := none } else o }).hostHomeLost k
  else d

/-- The pages of a home in host memory. -/
def Dev.hostPages (d : Dev) (o : TierObj) (h : Home) : List Nat :=
  (List.range o.pages).filter fun j => h.1 = 2 && !d.loanPage h j

/-- The bytes of a home in host memory, page by page: address and count. -/
def Dev.homeHost (d : Dev) (o : TierObj) (h : Home) : List (Nat × Nat) :=
  (d.hostPages o h).map fun j => (d.hostAddr h (j * 2 ^ 21), o.pageBytes j)

/-- The Max Read Request Size that the host has set: 128 to 4,096 B, 512 B until it sets one (R456, Table HOST-1).
(log 67 PRESUMED) -/
def Dev.readSize (d : Dev) : Nat := 128 * 2 ^ min 5 d.host.readLog

/-- Read ranges of host memory, in requests of up to the Max Read Request Size (R456). -/
def Dev.hostRead (d : Dev) (rs : List (Nat × Nat)) : Dev :=
  { d with out := { d.out with hostReads := d.out.hostReads ++ rs.flatMap fun r => cutAt d.readSize r.1 r.2 } }

/-- Reads of host memory for an object, which stay outstanding until what made them has all their bytes (R454, R467): 0 a
TIER move, 1 a Cellar copy, 2 a Whey image. -/
def Dev.hostReadFor (d : Dev) (kind i : Nat) (rs : List (Nat × Nat)) : Dev :=
  (d.hostRead rs).modIf fun h => { h with reads := h.reads ++ (rs.flatMap fun r => cutAt d.readSize r.1 r.2).map fun x => (kind, i, x) }

/-- All reads of host memory of a kind, and of an object where one is given, have been answered. -/
def Dev.readsDone (d : Dev) (kind : Nat) (i : Option Nat) : Dev :=
  d.modIf fun h => { h with reads := h.reads.filter fun x => !(x.1 = kind && i.all fun j => x.2.1 = j) }

/-- The parts of runs of an object that lie in the host memory of a home: address and count. -/
def Dev.hostRuns (d : Dev) (o : TierObj) (h : Home) (runs : List (Nat × Nat)) : List (Nat × Nat) :=
  (d.hostPages o h).flatMap fun j => (clipRuns runs (j * 2 ^ 21) (j * 2 ^ 21 + o.pageBytes j)).map fun (a, n) => (d.hostAddr h a, n)

/-- The read that acknowledges a move's writes to host memory: of the last 64 bytes written (R274). -/
def Dev.ackRead (d : Dev) (o : TierObj) (m : TierMove) : List (Nat × Nat) :=
  match (d.hostPages o m.home).getLast? with
  | some j =>
    let last := j * 2 ^ 21 + o.pageBytes j
    let n := min 64 (o.pageBytes j)
    [(d.hostAddr m.home (last - n), n)]
  | none => []

/-- Start a move out of a loan: nothing comes into the new home before all has been loaded (R155, R274).
(log 37 DEDUCED) -/
def Dev.beginLoad (d : Dev) (i : Nat) (o : TierObj) (m : TierMove) : Dev :=
  let (runs, heads) := d.firstRuns i o
  (d.hostReadFor 0 i (d.hostRuns o o.home runs)).modObj i fun o =>
    { o with move := some { m with todo := d.loanRuns o.home runs, heads := heads } }

/-- The headers of the tiles have come: the rest of what the move reads is known (R155, R156). -/
def Dev.loadRest (d : Dev) (i : Nat) (o : TierObj) (m : TierMove) : Dev :=
  let runs := d.readRuns i (d.loadedBytes o m)
  (d.hostReadFor 0 i (d.hostRuns o o.home runs)).modObj i fun o =>
    { o with move := some { m with todo := d.loanRuns o.home runs, heads := false } }

/-- Start a move between local memory, host memory and, at its new home, a loan: its bytes are copied at once, but for
those that loans take (R274). (log 37 DEDUCED) -/
def Dev.beginCopy (d : Dev) (i : Nat) (o : TierObj) (m : TierMove) : Dev :=
  let bs := d.homeBytes o o.home
  let x := d.movedBytes i bs
  let heads := match d.tileMapOf i o.size with | some (_, t) => t.heads | none => []
  let d := (d.countDrops x).hostReadFor 0 i
    (d.hostRuns o o.home heads ++ d.hostRuns o o.home (d.readRuns i bs) ++ d.ackRead o m)
  let d := d.modObj i fun o => { o with move := some { m with todo := d.loanRuns m.home x.runs } }
  ((List.range o.pages).filter fun j => !d.loanPage m.home j).foldl (fun d j =>
    let off := j * 2 ^ 21
    (d.carry (d.homePlace o o.home off) (d.homePlace o m.home off) (sumBy (x.ofPage o j) (·.2))).hashed 0xE01 m.frame fun d =>
      d.putPage o m.home x j) d

/-- Start a move whose space has been found: the object is pinned and its bytes are copied, those of a loan
by global loads and stores (R274, R276, R454). (log 37 DEDUCED) -/
def Dev.beginMove (d : Dev) (k : Clock) (i : Nat) (o : TierObj) (m : TierMove) : Dev :=
  if !d.host.bme && (d.usesHost o.home || d.usesHost m.home) then d.hostHomeLost k
  else
    match d.homePoison i o with
    | some (l, a) => d.poisonFault k l a 0xE01
    | none =>
      let w := 24 + 8 * o.pages
      let m := { m with due := (k.cc + w) * 10 }
      let d := if d.usesLoan o o.home then d.beginLoad i o m else d.beginCopy i o m
      ((d.count .tierBusy w).addWork 0xE 1 w).pumpTier k 8192

/-- The space of a move to a tier; none where pages do not suffice (R271, R274). (log 37 DEDUCED) -/
def Dev.reserve (d : Dev) (o : TierObj) (target : Nat) (takers : List Nat) : Option TierMove :=
  let mk := fun (pool : List Nat) (far : List (Nat × Nat)) => (⟨target, pool, far, takers, 0, [], 0, false, [], d.frame.number⟩ : TierMove)
  match target with
  | 0 => some (mk [] [])
  | 1 => (d.takePool o.pages).map fun p => mk p []
  | _ => (d.takeFar o.pages).map fun p => mk [] p

/-- A core takes its use pin and the object its stamp (R277, R278). -/
def TierObj.take (o : TierObj) (core : Option Nat) (frame : Nat) : TierObj :=
  { o with
    stamp := frame
    pins := match core with
      | some c => if o.pins.contains c then o.pins else o.pins ++ [c]
      | none => o.pins }

/-- A promote of the herd queue. -/
def TierReq.herd (r : TierReq) : Bool := !r.evict && r.core.isNone

/-- The pages of a herd promote have become free: it leaves R_free pages, or no eviction is still to free any (R279).
(log 37 DEDUCED) -/
def Dev.herdMay (d : Dev) (o : TierObj) : Bool :=
  let kept := match d.tierPart with | some p => p.rfree | none => 0
  kept + o.pages ≤ d.poolFree ||
    !d.tier.objs.any fun x => x.tier = 1 && match x.move with | some m => m.target = 2 | none => false

/-- The watched promote of an object has committed (R372). -/
def Dev.unwatch (d : Dev) (i : Nat) : Dev := d.modTier fun t => { t with watch := t.watch.filter fun j => j ≠ i }

/-- Go through the requests taken, oldest first: each starts its move, is met by the object's home, or stays.
Once one lacks pool pages, no later one takes any, and once a herd promote waits, no later one starts (R279). No move
starts while its stream holds the engine (R380). The last part tells whether a promote waits for pages.
(log 37 DEDUCED) -/
def Dev.runQueue (k : Clock) : List TierReq → Bool → Bool → Dev → Dev × List TierReq × Bool
  | [], _, _, d => (d, [], false)
  | r :: rs, dry, held, d =>
    let keep := fun (dry held lacks : Bool) =>
      let (d, q, l) := Dev.runQueue k rs dry held d
      (d, r :: q, l || lacks)
    match d.tier.objs[r.obj]? with
    | none => Dev.runQueue k rs dry held d
    | some o =>
      if o.move.isSome then keep dry held false
      else if (if r.evict then r.target ≤ o.tier else o.tier ≤ r.target) then
        Dev.runQueue k rs dry held
          (if r.evict then d else (d.modObj r.obj fun o => o.take r.core d.frame.number).unwatch r.obj)
      else if dry && r.target = 1 then keep dry held !r.evict
      else if r.herd && (held || !d.herdMay o) then keep dry true true
      else
        match d.reserve o r.target r.core.toList with
        | none => keep (dry || r.target = 1) held !r.evict
        | some m => if d.lsHolds 0xE01 then keep dry held false else Dev.runQueue k rs dry held (d.beginMove k r.obj o m)

/-- Run the queue, and keep TIER_WAIT: the cc in which a promote waited for pages (R279). -/
def Dev.runTier (d : Dev) (k : Clock) : Dev :=
  let (d, q, lacks) := Dev.runQueue k d.tier.queue false false d
  let d := d.modTier fun t => { t with queue := q }
  let waits := q.any fun r => match d.tier.objs[r.obj]? with | some o => o.move.isNone | none => false
  let d := if d.lsHolds 0xE01 && waits then d.lsHoldFrom k 0xE01 else d
  match d.tier.waitFrom, lacks with
  | none, true => d.modTier fun t => { t with waitFrom := some k.cc }
  | some f, false => (d.modTier fun t => { t with waitFrom := none }).count .tierWait (k.cc - f)
  | _, _ => d

/-- Queue a request. -/
def Dev.queueTier (d : Dev) (k : Clock) (r : TierReq) : Dev :=
  (d.modTier fun t => { t with queue := t.queue ++ [r] }).runTier k

/-- A promote meets the object (Tables TIER-4 and TIER-5). -/
def Dev.promote (d : Dev) (k : Clock) (i target : Nat) (core : Option Nat) : Dev :=
  match d.tier.objs[i]? with
  | none => d
  | some o =>
    let r : TierReq := ⟨i, target, core, false⟩
    match o.move with
    | none =>
      if o.tier ≤ target then (d.modObj i fun o => o.take core d.frame.number).unwatch i
      else d.queueTier k r
    | some m =>
      if m.target > o.tier then (d.count .tierBounce).queueTier k r
      else if m.target ≤ target then
        (d.count .tierJoins).modObj i fun o => { o with move := some { m with takers := m.takers ++ core.toList } }
      else d.queueTier k r

/-- TEVICT (Table TIER-4): the use pin is dropped, and an object whose home is better is marked, for the worse of
two tiers. An object whose move is in progress is marked in any case (Table TIER-5). -/
def Dev.evictMark (d : Dev) (i target core : Nat) : Dev :=
  d.modObj i fun o =>
    let o := { o with pins := o.pins.filter fun c => c ≠ core }
    if o.tier < target || o.move.isSome then { o with marked := some (max target (o.marked.getD 0)) } else o

/-- When a core's request is taken: of two in one control cycle the lower core goes first, so one that follows a higher
core's in the same cycle is taken in the next (R282). (log 82 DESIGN CHOICE) -/
def Tier.turn (t : Tier) (k : Clock) (c : Nat) : Clock := if t.latest.1 = k.cc && c < t.latest.2 then k.nextCc else k

/-- The work that a predicated-off TIER instruction would have made: that of the move which a promote would have started.
TEVICT marks, TWAIT waits, and neither starts a move (R78, R281, R283). (log 30 DEDUCED) -/
def Dev.tierOffWork (d : Dev) (e : Entry) : Dev :=
  let t := match wOp e.word with | 1 => wbits e.word 101 100 | _ => 1
  match d.tier.objs[(e.sc (wbits e.word 106 102)).toNat % 2 ^ 20]? with
  | none => d
  | some o =>
    let met := match o.move with | some m => m.target ≤ o.tier && m.target ≤ t | none => o.tier ≤ t
    if !o.movable || met || wOp e.word = 2 || wOp e.word = 4 then d
    else
      let w := 24 + 8 * o.pages
      (d.count .tierBusy w).addWork 0xE 1 w

/-- A TIER instruction at its queue head: its request is applied (R281). TWAIT waits there. -/
def Dev.startTier (d : Dev) (k : Clock) (c : Fin 48) (e : Entry) : Started :=
  let i := (e.sc (wbits e.word 106 102)).toNat % 2 ^ 20
  let t := wbits e.word 101 100
  let d := if wOp e.word = 4 then d else d.modTier fun t => { t with latest := (k.cc, c.val) }
  match wOp e.word with
  | 1 => .go (d.promote k i t (some c.val)) 0 true
  | 2 => .go (d.evictMark i t c.val) 0 true
  | 3 => .go (d.promote k i 1 (some c.val)) 0 true
  | _ =>
    let moving := match d.tier.objs[i]? with | some o => o.move.isSome | none => false
    if moving || d.tier.queue.any fun r => r.obj = i && r.core = some c.val then .wait else .go d 0 true

/-- Put bytes into an object of an image. -/
def ImageParts.fill (p : ImageParts) (i off : Nat) (bs : List Byte) : ImageParts :=
  { p with objs := p.objs.map fun x => if x.1 = i then (i, x.2.take off ++ bs ++ x.2.drop (off + bs.length)) else x }

/-- The pieces of object `i` that images of a kind and frame have requested and not received. -/
def Gmem.pieces (g : Gmem) (kind frame i : Nat) : List (Nat × Nat) :=
  g.reqs.filterMap fun r => match r.owner with
    | .image x f j off => if x = kind && f = frame && j = i then some (off, r.len) else none
    | _ => none

/-- An object has left a loan, whose pages may be taken anew: what images still lack of it is read from its new home
(R396, R399). (log 50 DEDUCED) -/
def Dev.fillPieces (d : Dev) (i : Nat) (o : TierObj) : Dev :=
  let fill := fun (kind : Nat) (p : ImageParts) =>
    ((p.loans.filter fun q => q.obj = i).map (fun q => (q.off, q.len)) ++ d.gmem.pieces kind p.frame i).foldl
      (fun p x => p.fill i x.1 (d.homeRead o o.home x.1 (min x.2 (o.size - x.1))))
      { p with loans := p.loans.filter fun q => q.obj ≠ i }
  { d with snap := { d.snap with
    run := d.snap.run.map (fill 1), mirrors := d.snap.mirrors.map fun m => { m with parts := fill 2 m.parts } } }

/-- TIER_MOVE_COMMIT: the object's home switches to its new place, the old space is freed and the move pin is
dropped (R266, R274, R277, R278); the frame of the move may be finished with it (R381). -/
def execTierMoveCommit (obj : BitVec 20) (s : State) : Result :=
  let i := obj.toNat
  let m? := s.dev.tier.objs[i]?.bind fun o => o.move
  s.act (fun k => match m? with | some m => if m.todo.isEmpty && m.open_ = 0 then k.toUnit m.due else k | none => k)
    fun k d =>
      match d.tier.objs[i]? with
      | none => none
      | some o =>
        match o.move with
        | none => none
        | some m =>
          if m.todo.isEmpty && m.open_ = 0 then
            let up := m.target < o.tier
            let d := if d.usesLoan o o.home then d.hashed 0xE01 m.frame fun d => d.settleLoads i o m else d
            let o' := { o with tier := m.target, pool := m.pool, far := m.far, move := none }
            let o' := if up then m.takers.foldl (fun o c => o.take (some c) d.frame.number) (o'.take none d.frame.number)
              else o'
            let d := d.modObj i fun _ => o'
            let d := if d.usesLoan o o.home then d.fillPieces i o' else d
            let d := (if up then d.unwatch i else d).readsDone 0 (some i)
            let d := (d.count (if up then .tierMovesUp else .tierMovesDown)).count .tierPagesMoved o.pages
            some ((d.runTier k).lsStep k)
          else none

/-! ### The frame open (R279, R280) -/

/-- The object is pinned (R277). -/
def TierObj.pinned (o : TierObj) : Bool := o.move.isSome || o.listed || !o.pins.isEmpty

/-- Start an eviction; a KV object of an active slot is then promoted again (R280). -/
def Dev.evict (d : Dev) (k : Clock) (i target : Nat) : Dev :=
  let d := d.queueTier k ⟨i, target, none, true⟩
  if d.kvActive i then d.modTier fun t => { t with herd := t.herd ++ [i] } else d

/-- Marked objects that are not pinned start their evictions, lowest index first. -/
def Dev.evictMarked (d : Dev) (k : Clock) : Dev :=
  (List.range d.tier.objs.length).foldl (fun d i =>
    match d.tier.objs[i]? with
    | none => d
    | some o =>
      match o.marked with
      | none => d
      | some t =>
        if o.pinned then d
        else
          let d := d.modObj i fun o => { o with marked := none }
          if o.tier < t && (t ≠ 2 || d.hasFar) then d.evict k i t else d) d

/-- Evict the oldest unpinned tier-1 objects while pages are needed (R278, R279). -/
def Dev.evictOld (k : Clock) : List (Nat × Nat) → Int → Dev → Dev
  | [], _, d => d
  | (_, i) :: rest, need, d =>
    if need ≤ 0 then d
    else
      match d.tier.objs[i]? with
      | none => Dev.evictOld k rest need d
      | some o =>
        if o.pinned then Dev.evictOld k rest need (d.count .tierEvictSkip)
        else Dev.evictOld k rest (need - o.pages) (d.evict k i 2)

/-- Tier-1 movable objects by age: stamp, then index (R278). -/
def Tier.byAge (t : Tier) : List (Nat × Nat) :=
  ((t.objs.zipIdx.filter fun (o, _) => o.movable && o.tier = 1).map fun (o, i) => (o.stamp, i)).mergeSort
    fun a b => a.1 < b.1 || (a.1 = b.1 && a.2 ≤ b.2)

/-- Herd promotes of the last open that have not committed at this one are counted (R372). -/
def Dev.latePromotes (d : Dev) : Dev :=
  (if d.tier.watch.isEmpty then d else d.count .twinDetKvLate d.tier.watch.length).modTier fun t => { t with watch := [] }

/-- The TIER engine's part of a frame open (R277, R279). A move from tier 1 to tier 2 frees its pages. A form without a
tier part keeps no page free and takes no herd promote. -/
def Dev.tierOpen (d : Dev) (k : Clock) : Dev :=
  let (rfree, hmax) := match d.tierPart with | none => (0, 0) | some p => (p.rfree, p.hmax)
  let d := d.modTier fun t => { t with objs := t.objs.map fun o => { o with pins := [] } }
  let d := d.evictMarked k
  let taken := d.tier.herd.take hmax
  let d := d.modTier fun t => { t with herd := t.herd.drop hmax, watch := taken }
  let pages := sumBy taken fun i => match d.tier.objs[i]? with
    | some o =>
      let target := match o.move with | some m => m.target | none => o.tier
      if target ≤ 1 then 0 else o.pages
    | none => 0
  let freed := sumBy d.tier.objs fun o => match o.move with
    | some m => if o.tier = 1 && m.target = 2 then o.pages else 0
    | none => 0
  let need : Int := (rfree + pages : Nat) - ((d.poolFree + freed : Nat) : Int)
  let d := if d.hasFar then Dev.evictOld k d.tier.byAge need d else d
  taken.foldl (fun d i => d.promote k i 1 none) d

/-! ### Admission (R265, R269) -/

/-- The objects of an admitted job in their initial tiers, in ascending index (R265, R269). (log 37 DEDUCED) -/
def Dev.placeObjs (d : Dev) (es : List ObjEntry) : Dev :=
  let d := d.modTier fun t => { t with objs := [], queue := [], herd := [], watch := [], waitFrom := none }
  (es.foldl (fun (x : Dev × Nat) e =>
    let (d, next) := x
    let pages := ceilDiv e.size (2 ^ 21)
    let o : TierObj := ⟨e.movable, e.size, next, pages, e.die, e.home0, e.tier, [], [], none, none, [], false, 0⟩
    let o := if !e.movable then { o with first := 0, pages := 0 }
      else match e.tier with
        | 1 => { o with pool := (d.takePool pages).getD [] }
        | 2 => { o with far := (d.takeFar pages).getD [] }
        | _ => o
    (d.modTier fun t => { t with objs := t.objs ++ [o] }, if e.movable then next + pages else next)) (d, 0)).1

/-! ### Lending (R272, R273) -/

/-- TIER_LEND_CMD begin: an IDLE device that is not LENDING lends its range under its key (R70, R272, R432).
(log 38 DEDUCED) -/
def Dev.lendBegin (d : Dev) : Dev × Bool :=
  if d.job.phase = .idle && d.tier.lend = .off && d.start.state = .ready then
    let d := d.modTier fun t => { t with lend := .lending, lendKey := some ⟨d.rd .tierLendKey, d.rd .tierLendEpoch⟩ }
    let d := d.forgetKey ⟨d.rd .tierLendKey, d.rd .tierLendEpoch⟩
    (d.wr .tierLendOutside 0, true)
  else (d.flag .tierLendReject, false)

/-- TIER_LEND_CMD end: the device starts zeroing its lent range, and its lending key stays in force until that has ended
(R273, R331). (log 38 DEDUCED) -/
def Dev.lendEnd (d : Dev) : Dev × Bool :=
  if d.tier.lend = .lending then (d.modTier fun t => { t with lend := .zeroing }, true)
  else (d.flag .tierLendReject, false)

/-- LEND_ZEROING_END: the lent range is zero, the device leaves LENDING and its lending key is removed
(R273, R331, R333). -/
def execLendZeroingEnd (at_ : Nat) (s : State) : Result :=
  s.act (fun k => if s.dev.tier.lend = .zeroing then k.toCount at_ else k) fun _ d =>
    if d.tier.lend = .zeroing then
      let b := d.rd .tierLendBase * 2 ^ 21
      let n := d.rd .tierLendPages * 2 ^ 21
      let inside := fun (a : Nat) => b ≤ a && a < b + n
      let key := d.tier.lendKey
      let d := match key with | some q => d.forgetKey q | none => d
      some { d with
        mem := { d.mem with
          hbm := d.mem.hbm.filter fun e => !inside e.1
          poisonHbm := d.mem.poisonHbm.filter fun a => !inside a }
        tier := { d.tier with lend := .off, lendKey := none }
        gmem := { d.gmem with sources := d.gmem.sources.filter fun x => some x.key ≠ key } }
    else none

end Sys2Proof.Machine
end

