-- ==== Sys2Proof/Machine/Loader.lean ====
section
/-! DEFINITION. The tile loader: MOVE.TILE and MOVE.FILL (R104, R147, R149, R150, R159 to R161). -/

namespace Sys2Proof.Machine

open Sys2Proof

/-- MOVE.TILE: issue of a copy with conversion (R104). -/
def execMoveTile (c : Fin 48) (psel : BitVec 4) (tdd tda : BitVec 6) (o : Offs) (z : Size) (rnd : BitVec 2)
    (s : State) : Result :=
  s.issueEng c (encMoveTile psel tdd tda o z rnd) .loader

/-- MOVE.FILL: issue of a fill (R104). -/
def execMoveFill (c : Fin 48) (psel : BitVec 4) (tdd : BitVec 6) (o : Offs) (z : Size) (ss : BitVec 5)
    (s : State) : Result :=
  s.issueEng c (encMoveFill psel tdd o z ss) .loader

/-- Element (i, j) of a transposed tile comes from (j, i). -/
def swapIndex (i : Nat) : Nat := 64 * (i % 64) + i / 64

/-- The converted tile of a source tile (R149, R150). Equal formats move bit for bit, except for T2 code 0b10, which is
never written (R115), and that a transposed B tile is re-blocked; `live` tells which source blocks are read. -/
def moveConvert (x : TileData) (fs fd : Fmt) (trans : Bool) (rc : RndCtx) (pos0 : Nat)
    (live valid : Nat → Bool) : NarrowTile :=
  let at_ := fun (i : Nat) => if trans then swapIndex i else i
  if fs = fd && !(trans && fs.blocked) then
    { codes := (List.range 4096).map fun i => fd.written (x.codes.getD (at_ i) 0), scales := x.movedScales live
      sat := 0, nanZero := 0 }
  else narrowTile fd rc pos0 valid ((List.range 4096).map fun i => x.val fs (at_ i))

/-- Ac that the path between a core and a place outside its tile store needs for a number of bytes: its die buffer share
of 6,000 B a count, a bridge's 1,480 B a count where another die's buffer lies behind one, or a stack's port of
1,228.8 B a count, which is slower than any bridge on the way (R149, Table TICK-3). -/
def placeAc (c : Fin 48) (l : Loc) (bytes : Nat) : Nat :=
  match l with
  | .tile _ => 0
  | .die x => if x.val = c.val / 4 then ceilDiv (bytes * 7) 30000 else ceilDiv (bytes * 7) 7400
  | .hbm => ceilDiv (bytes * 7) 6144

/-- Ac that the slowest path of a descriptor's images needs (R149). -/
def Dev.pathAc (d : Dev) (c : Fin 48) (t : TileDesc) (bytes : Nat) : Nat :=
  let one := fun (root : Nat) => match d.spaceAt c t root 0 0 with
    | some (l, _) => placeAc c l bytes
    | none => 0
  max (one (Td.base t)) (if sideBytes t = 0 then 0 else one (Td.side t))

/-- Bytes of one image of a tile cross the path between the core and the image: `write` tells their direction. -/
def Dev.imageTraffic (d : Dev) (c : Fin 48) (t : TileDesc) (write : Bool) (root o n : Nat) : Dev :=
  if n = 0 then d
  else match d.spaceAt c t root o n with
    | none => d
    | some (l, a) =>
      if write then d.coreTouchW c l a n else d.coreTouch c l a n

/-- The bytes of tile images cross the paths to the core, or from it where it writes them (R21, R24, R161, Table
TICK-3). -/
def Dev.tileTraffic (d : Dev) (c : Fin 48) (t : TileDesc) (write : Bool) (ps : List (Nat × Nat)) : Dev :=
  if Td.space t = 0 then d
  else ps.foldl (fun d p =>
    let (eb, sb) := d.tileParts c t p.1 p.2
    (d.imageTraffic c t write (Td.base t) (tileOff t p.1 p.2) eb).imageTraffic c t write (Td.side t)
      (sideOff t p.1 p.2) sb) d

/-- The destination tile of source offset (r, c). -/
def Entry.moveTo (e : Entry) (r q : Nat) : Nat × Nat := if Td.transpose e.tda then (q, r) else (r, q)

/-- Copy one tile. `pos0` counts element positions in the order of the destination tiles (R128). -/
def Dev.moveOne (d : Dev) (c : Fin 48) (e : Entry) (rc : RndCtx) (r q : Nat) : Dev :=
  let fs := Td.fmt e.tda
  let fd := Td.fmt e.tdd
  let trans := Td.transpose e.tda
  let (dr, dc) := e.moveTo r q
  let x := d.readTile c e.tda (e.sr + r) (e.scol + q)
  let pos0 := (dr * (if trans then e.nr else e.nc) + dc) * 4096
  let nt := moveConvert x fs fd trans rc pos0 (blockLive e.tda (e.sr + r) (e.scol + q)) (inValid e.tdd dr dc)
  let d := ((d.countTile c x).writeTile c e.tdd fd dr dc nt).countNarrow c nt
  let d := if trans then d.count .coreLdrTransposed 1 c else d
  if fs = fd then d else d.count .coreLdrConverted 1 c

/-- Ac of a MOVE (R149): the images' bytes, the larger of source and destination, at the slowest rate. -/
def Dev.moveAc (d : Dev) (c : Fin 48) (e : Entry) (src dst : Nat) : Nat :=
  let n := max src dst
  let rate := if Td.transpose e.tda && wOp e.word = 1 && fmtWidth (Td.format e.tda) = 16 then 13568 else 27136
  max (max (ceilDiv n rate) (if wOp e.word = 1 then d.pathAc c e.tda n else 0)) (d.pathAc c e.tdd n)

/-- Count work of the loader. -/
def Dev.loaderWork (d : Dev) (c : Fin 48) (n : Nat) : Dev := d.modCore c fun x => x.addWork 1 n

/-- Start a MOVE.TILE: tile after tile, also where source and destination overlap (R150). (log 7 DESIGN CHOICE) -/
def Dev.startMove (d : Dev) (k : Clock) (c : Fin 48) (e : Entry) : Started :=
  let src := rect e.sr e.scol e.nr e.nc
  let dst := (rect 0 0 e.nr e.nc).map fun (r, q) => e.moveTo r q
  match d.checkTiles c [(e.tda, src)] [(e.tdd, dst)] with
  | some r => r
  | none =>
    let rc := d.rndCtx c 0 e
    let sb := sumBy src fun (r, q) => d.tileImageBytes c e.tda r q
    let d := (rect 0 0 e.nr e.nc).foldl (fun d (r, q) => d.moveOne c e rc r q) d
    let db := sumBy dst fun (r, q) => d.tileImageBytes c e.tdd r q
    let n := d.moveAc c e sb db
    let d := (d.tileTraffic c e.tda false src).tileTraffic c e.tdd true dst
    .go ((d.modCore c fun x => x.consume 0 e (4096 * e.nr * e.nc)).loaderWork c n) (d.afterAc k (dieOf c) n) true

/-- Fill one tile: every element takes the low bits of SS, and scale bytes keep their values. -/
def Dev.fillOne (d : Dev) (c : Fin 48) (e : Entry) (r q : Nat) : Dev :=
  let f := Td.fmt e.tdd
  let v := f.written ((e.sc (wbits e.word 50 46)).toNat % 2 ^ f.width)
  let x := d.readTile c e.tdd r q
  d.writeTile c e.tdd f r q ⟨List.replicate 4096 v, x.scales, 0, 0⟩

/-- Start a MOVE.FILL. -/
def Dev.startFill (d : Dev) (k : Clock) (c : Fin 48) (e : Entry) : Started :=
  let dst := rect e.sr e.scol e.nr e.nc
  match d.checkTiles c [] [(e.tdd, dst)] with
  | some r => r
  | none =>
    let d := dst.foldl (fun d (r, q) => d.fillOne c e r q) d
    let db := sumBy dst fun (r, q) => d.tileImageBytes c e.tdd r q
    let n := d.moveAc c e 0 db
    let d := d.tileTraffic c e.tdd true dst
    .go (d.loaderWork c n) (d.afterAc k (dieOf c) n) true

/-- Start an instruction of the tile loader; it takes one at a time. -/
def Dev.startLoader (d : Dev) (k : Clock) (c : Fin 48) (e : Entry) : Started :=
  if !d.cores[c].idle .loader then .wait
  else if wOp e.word = 1 then d.startMove k c e else d.startFill k c e

/-- The work that a predicated-off instruction of the loader counts: that of its images as they would be, with the
occupied bytes that the source and the converted destination have (R78, R161). Tiles that it could not access count
nothing. (log 30 DEDUCED) -/
def Dev.loaderOffWork (d : Dev) (c : Fin 48) (e : Entry) : Nat :=
  let move := wOp e.word = 1
  let src := if move then rect e.sr e.scol e.nr e.nc else []
  let dst := if move then (rect 0 0 e.nr e.nc).map fun (r, q) => e.moveTo r q else rect e.sr e.scol e.nr e.nc
  if (d.checkTiles c [(e.tda, src)] [(e.tdd, dst)]).isSome then 0
  else
    let rc := d.rndCtx c 0 e
    let after := if move then (rect 0 0 e.nr e.nc).foldl (fun d (r, q) => d.moveOne c e rc r q) d
      else dst.foldl (fun d (r, q) => d.fillOne c e r q) d
    d.moveAc c e (sumBy src fun (r, q) => d.tileImageBytes c e.tda r q)
      (sumBy dst fun (r, q) => after.tileImageBytes c e.tdd r q)

end Sys2Proof.Machine
end

