-- ==== Sys2Proof/Machine/Vector.lean ====
section
/-! DEFINITION. The vector unit: VADD, VMUL, VFMA, VSCALE, VACT, VAMAX, VGATE and VOPT
(R104, R119, R120, R130, R181, R357, R358). -/

namespace Sys2Proof.Machine

open Sys2Proof

/-! ### Issue -/

/-- VADD: issue (R104). -/
def execVadd (c : Fin 48) (psel : BitVec 4) (tdd tda tdb : BitVec 6) (z : Size) (rnd : BitVec 2) (s : State) :
    Result := s.issueEng c (encVec2 0x01 psel tdd tda tdb z rnd) .vec

/-- VMUL: issue (R104). -/
def execVmul (c : Fin 48) (psel : BitVec 4) (tdd tda tdb : BitVec 6) (z : Size) (rnd : BitVec 2) (s : State) :
    Result := s.issueEng c (encVec2 0x02 psel tdd tda tdb z rnd) .vec

/-- VFMA: issue (R104). -/
def execVfma (c : Fin 48) (psel : BitVec 4) (tdd tda tdb tdc : BitVec 6) (z : Size) (rnd : BitVec 2)
    (s : State) : Result := s.issueEng c (encVfma psel tdd tda tdb tdc z rnd) .vec

/-- VSCALE: issue (R104). -/
def execVscale (c : Fin 48) (psel : BitVec 4) (tdd tda : BitVec 6) (z : Size) (rnd : BitVec 2)
    (ss : BitVec 5) (s : State) : Result := s.issueEng c (encVscale psel tdd tda z rnd ss) .vec

/-- VACT: issue (R104). -/
def execVact (c : Fin 48) (psel : BitVec 4) (tdd tda : BitVec 6) (z : Size) (rnd : BitVec 2)
    (fn : BitVec 4) (s : State) : Result := s.issueEng c (encVact psel tdd tda z rnd fn) .vec

/-- VAMAX: issue (R120). -/
def execVamax (c : Fin 48) (psel : BitVec 4) (tda : BitVec 6) (z : Size) (ss : BitVec 5) (s : State) :
    Result := s.issueEng c (encVamax psel tda z ss) .vec

/-- VGATE: issue (R181). -/
def execVgate (c : Fin 48) (psel : BitVec 4) (tdd tda tdb : BitVec 6) (z : Size) (rnd : BitVec 2) (s : State) :
    Result := s.issueEng c (encVgate psel tdd tda tdb z rnd) .vec

/-- VOPT: issue (R358). -/
def execVopt (c : Fin 48) (psel : BitVec 4) (tdd tda tdb tdc : BitVec 6) (z : Size) (rnd : BitVec 2)
    (ss : BitVec 5) (fn : BitVec 4) (s : State) : Result :=
  s.issueEng c (encVopt psel tdd tda tdb tdc z rnd ss fn) .vec

/-! ### Element functions -/

/-- VACT's functions: each the F32 value nearest to the exact result (Table ENC-11). (log 27 DEDUCED) -/
def actFn (fn : Nat) (v : Val) : Val :=
  match fn with
  | 0 => siluF32 v
  | 1 => geluF32 v
  | 2 => sigmoidF32 v
  | 3 => expF32 v
  | 4 => divF32 (.ofInt 1) v
  | _ => rsqrtF32 (f32 (Config.rsqrtZero)) v

/-- Element `i` of a tile read through a descriptor. -/
def elemOf (t : TileDesc) (x : TileData) (i : Nat) : Val := x.val (Td.fmt t) i

/-- Write a tile of values through TDD with the instruction's rounding, and count (R130). -/
def Dev.writeVals (d : Dev) (c : Fin 48) (t : TileDesc) (rc : RndCtx) (pos0 r q : Nat) (vs : List Val) : Dev :=
  let nt := narrowTile (Td.fmt t) rc pos0 (inValid t r q) vs
  (d.writeTile c t (Td.fmt t) r q nt).countNarrow c nt

/-- One tile of VADD, VMUL, VFMA, VSCALE or VACT: one exact or F32 value for each element (R130). -/
def Dev.vecValue (d : Dev) (c : Fin 48) (e : Entry) (r q : Nat) : Dev × List Val :=
  let a := d.readTile c e.tda r q
  let d := d.countTile c a
  let va := fun (i : Nat) => elemOf e.tda a i
  match wOp e.word with
  | 4 => (d, (List.range 4096).map fun i => (va i).mul (f32 (e.sc (wbits e.word 50 46)).toNat))
  | 5 => (d, (List.range 4096).map fun i => actFn (wbits e.word 45 42) (va i))
  | 3 =>
    let b := d.readTile c e.tdb r q
    let x := d.readTile c e.tdc r q
    ((d.countTile c b).countTile c x,
     (List.range 4096).map fun i => ((va i).mul (elemOf e.tdb b i)).add (elemOf e.tdc x i))
  | o =>
    let b := d.readTile c e.tdb r q
    (d.countTile c b, (List.range 4096).map fun i =>
      if o = 1 then (va i).add (elemOf e.tdb b i) else (va i).mul (elemOf e.tdb b i))

/-- Run VADD, VMUL, VFMA, VSCALE or VACT over its tiles. -/
def Dev.runVec (d : Dev) (c : Fin 48) (e : Entry) (rc : RndCtx) : Dev :=
  (rect 0 0 e.nr e.nc).foldl (fun d (r, q) =>
    let (d, vs) := d.vecValue c e r q
    d.writeVals c e.tdd rc ((r * e.nc + q) * 4096) r q vs) d

/-! ### VAMAX (R119, R120) -/

/-- The largest finite value that a delayed scale aims at, by target format code. -/
def scaleTop (target : Nat) : Option Val :=
  match target with
  | 18 => some (.ofInt 480)
  | 19 => some (.ofInt 57344)
  | 20 => some (.ofInt (339 * 10 ^ 36))
  | _ => none

/-- floor(log2(a / h)) of two positive values; of an infinite `h` a free value. (log 26 DESIGN CHOICE) -/
def log2Ratio (a h : Val) : Int :=
  match a, h with
  | .fin m e, .fin n f =>
    let g := dyLog2 m e - dyLog2 n f
    if Val.le (.fin n (f + g)) (.fin m e) then g else g - 1
  | _, _ => Config.log2Open

/-- The F32 code of 2^k for −127 ≤ k ≤ 127. -/
def pow2F32 (k : Int) : Nat := f32Bits (.fin 1 k)

/-- The record after VAMAX pushes `a` (R120). -/
def pushAmax (rec : List Byte) (a : Val) (nonfinite : Bool) : List Byte :=
  let head := field rec 0x40 1 % 16
  let count := min (field rec 0x41 1 + 1) 16
  let hist := (List.range 16).map fun i => if i = head then f32Bits a else field rec (4 * i) 4
  let h := (hist.take count).foldl (fun x b => Val.max x (f32 b)) Val.zero
  let flags := field rec 0x44 4 ||| nonfinite.toNat
  let scales := match scaleTop (field rec 0x42 1) with
    | some top =>
      if h.isZero then slice rec 0x48 8
      else
        let k := (clampInt (-126) 127 (log2Ratio top h - twos 8 (field rec 0x43 1))).1
        leBytes 4 (pow2F32 k) ++ leBytes 4 (pow2F32 (-k))
    | none => slice rec 0x48 8
  hist.flatMap (leBytes 4) ++ [BitVec.ofNat 8 ((head + 1) % 16), BitVec.ofNat 8 count] ++ slice rec 0x42 2 ++
    leBytes 4 flags ++ scales ++ slice rec 0x50 48

/-- Run VAMAX: the amax of the valid elements, pushed into the record at SS. (log 29 DEDUCED) -/
def Dev.runAmax (d : Dev) (c : Fin 48) (e : Entry) : Dev :=
  let (d, a, nf) := (rect 0 0 e.nr e.nc).foldl (fun (acc : Dev × Val × Bool) (r, q) =>
    let (d, a, nf) := acc
    let x := d.readTile c e.tda r q
    let vs := ((List.range 4096).filter fun i => inValid e.tda r q i).map fun i => elemOf e.tda x i
    (d.countTile c x,
     vs.foldl (fun m v => if v.isFinite then Val.max m v.abs else m) a,
     nf || vs.any fun v => !v.isFinite)) (d, Val.zero, false)
  let at_ := (e.sc (wbits e.word 50 46)).toNat
  d.locWrite (.tile c) at_ (pushAmax (d.locRead (.tile c) at_ 128) a nf)

/-! ### VGATE (R180, R181) -/

/-- Rows that a descriptor holds, up to its last valid row. -/
def Td.tokenRows (t : TileDesc) : Nat := 64 * (Td.rows t - 1) + Td.vrows t

/-- Result rows for each token: the rows of the results over those of the selection list. (log 29 DEDUCED) -/
def Entry.gateRows (e : Entry) : Nat := Td.tokenRows e.tda / Td.tokenRows e.tdb

/-- Tiles of results that a tile column of VGATE reads. -/
def Entry.gateTiles (e : Entry) : List (Nat × Nat) :=
  ((List.range e.nr).flatMap fun r => (List.range (64 * e.gateRows)).map fun i => (64 * e.gateRows * r + i) / 64).eraseDups.flatMap
    fun tr => (List.range e.nc).map fun q => (tr, q)

/-- One tile of VGATE: TDD plus the sum of its entries' results, each weighted by its gate weight; entries
of kind 0b00 and 0b10 count, others contribute nothing. (log 29 DEDUCED) -/
def Dev.gateVals (d : Dev) (c : Fin 48) (e : Entry) (r q : Nat) : Dev × List Val :=
  let old := d.readTile c e.tdd r q
  let sel := d.readTile c e.tdb r 0
  let n := e.gateRows
  let res := (List.range n).map fun i => d.readTile c e.tda (n * r + i) q
  let d := (old :: sel :: res).foldl (fun d x => d.countTile c x) d
  (d, (List.range 4096).map fun i =>
    let m := i / 64
    (List.range (min n 32)).foldl (fun v j =>
      let rec' := sel.codes.getD (64 * m + 2 * j) 0
      let kind := bitRange rec' 15 14
      if kind = 0 || kind = 2 then
        let row := n * m + j
        let y := elemOf e.tda (res.getD (row / 64) ⟨[], [], 0, 0, 0⟩) (64 * (row % 64) + i % 64)
        v.add ((elemOf e.tdb sel (64 * m + 2 * j + 1)).mul y)
      else v) (elemOf e.tdd old i))

/-- Run VGATE. (log 29 DEDUCED) -/
def Dev.runGate (d : Dev) (c : Fin 48) (e : Entry) (rc : RndCtx) : Dev :=
  (rect 0 0 e.nr e.nc).foldl (fun d (r, q) =>
    let (d, vs) := d.gateVals c e r q
    d.writeVals c e.tdd rc ((r * e.nc + q) * 4096) r q vs) d

/-! ### VOPT (R357, R358) -/

/-- The fields of an optimizer record (Table COLL-7). -/
structure OptRec where
  eta : Val
  beta1 : Val
  beta2 : Val
  eps : Val
  lambda : Val
  gamma : Val
  t : Nat
  deriving DecidableEq, Repr

/-- Read an optimizer record; a step count of 0 is read as 1. -/
def readOpt (b : List Byte) : OptRec :=
  let f := fun (o : Nat) => f32 (field b o 4)
  let t := field b 0x18 4
  ⟨f 0, f 4, f 8, f 0xC, f 0x10, f 0x14, if t = 0 then 1 else t⟩

/-- The F32 value nearest to 1 / (1 − β^t), computed exactly from β (R358). -/
def biasFix (beta : Val) (t : Nat) : Val :=
  match beta with
  | .fin m e =>
    let p : Val := .fin (m ^ t) (e * t)
    divF32 (.ofInt 1) ((Val.ofInt 1).sub p)
  | v => divF32 (.ofInt 1) (subF32 (.ofInt 1) v)

/-- One element of VOPT: new parameter and moments. -/
def optElem (o : OptRec) (c1 c2 : Val) (fn : Nat) (p grad m v : Val) : Val × Val × Val :=
  let g := mulF32 grad o.gamma
  let one := Val.ofInt 1
  if fn = 0 then
    let m := addF32 (mulF32 o.beta1 m) g
    (subF32 p (mulF32 o.eta (addF32 m (mulF32 o.lambda p))), m, v)
  else
    let m := addF32 (mulF32 o.beta1 m) (mulF32 (subF32 one o.beta1) g)
    let v := addF32 (mulF32 o.beta2 v) (mulF32 (mulF32 (subF32 one o.beta2) g) g)
    let u := divF32 (mulF32 m c1) (addF32 (sqrtF32 (mulF32 v c2)) o.eps)
    (subF32 p (mulF32 o.eta (addF32 u (mulF32 o.lambda p))), m, v)

/-- Run VOPT: the parameters with RND, the moments to nearest even; FN 0 leaves TDC alone. (log 29 DEDUCED) -/
def Dev.runOpt (d : Dev) (c : Fin 48) (e : Entry) (rc : RndCtx) : Dev :=
  let o := readOpt (d.locRead (.tile c) (e.sc (wbits e.word 50 46)).toNat 64)
  let fn := wbits e.word 45 42
  let c1 := biasFix o.beta1 o.t
  let c2 := biasFix o.beta2 o.t
  let near : RndCtx := { rc with stochastic := false }
  (rect 0 0 e.nr e.nc).foldl (fun d (r, q) =>
    let xp := d.readTile c e.tdd r q
    let xg := d.readTile c e.tda r q
    let xm := d.readTile c e.tdb r q
    let xv := d.readTile c e.tdc r q
    let d := (if fn = 0 then [xp, xg, xm] else [xp, xg, xm, xv]).foldl (fun d x => d.countTile c x) d
    let out := (List.range 4096).map fun i =>
      optElem o c1 c2 fn (elemOf e.tdd xp i) (elemOf e.tda xg i) (elemOf e.tdb xm i) (elemOf e.tdc xv i)
    let d := d.writeVals c e.tdd rc ((r * e.nc + q) * 4096) r q (out.map (·.1))
    let d := d.writeVals c e.tdb near 0 r q (out.map (·.2.1))
    if fn = 0 then d else d.writeVals c e.tdc near 0 r q (out.map (·.2.2))) d

/-! ### Starting -/

/-- The record that VAMAX or VOPT names lies beyond the usable tile store (R119, R357). -/
def Dev.recordFault (d : Dev) (c : Fin 48) (e : Entry) : Bool :=
  let at_ := (e.sc (wbits e.word 50 46)).toNat
  let lim := match d.image with | none => 48 * 2 ^ 20 | some m => m.form.tileBytes c
  match wOp e.word with
  | 6 => at_ + 128 > lim
  | 8 => at_ + 64 > lim
  | _ => false

/-- Tiles that a vector instruction reads and writes. -/
def Entry.vecTiles (e : Entry) : List (TileDesc × List (Nat × Nat)) × List (TileDesc × List (Nat × Nat)) :=
  let ps := rect 0 0 e.nr e.nc
  match wOp e.word with
  | 3 => ([(e.tda, ps), (e.tdb, ps), (e.tdc, ps)], [(e.tdd, ps)])
  | 4 => ([(e.tda, ps)], [(e.tdd, ps)])
  | 5 => ([(e.tda, ps)], [(e.tdd, ps)])
  | 6 => ([(e.tda, ps)], [])
  | 7 => ([(e.tdd, ps), (e.tda, e.gateTiles), (e.tdb, rect 0 0 e.nr 1)], [])
  | 8 => ([(e.tdd, ps), (e.tda, ps), (e.tdb, ps), (e.tdc, ps)], [])
  | _ => ([(e.tda, ps), (e.tdb, ps)], [(e.tdd, ps)])

/-- Ac of a vector instruction: 4 for each tile on 1,024 lanes. DESIGN CHOICE: the manual gives no time.
(log 28 DESIGN CHOICE) -/
def Entry.vecAc (e : Entry) : Nat := 4 * e.nr * e.nc

/-- Run a vector instruction on its tiles. -/
def Dev.runVector (d : Dev) (c : Fin 48) (e : Entry) : Dev :=
  let rc := d.rndCtx c 3 e
  match wOp e.word with
  | 6 => d.runAmax c e
  | 7 => (d.runGate c e rc).modCore c fun x => x.consume 3 e (4096 * e.nr * e.nc)
  | 8 => (d.runOpt c e rc).modCore c fun x => x.consume 3 e (4096 * e.nr * e.nc)
  | _ => (d.runVec c e rc).modCore c fun x => x.consume 3 e (4096 * e.nr * e.nc)

/-- Start an instruction of the vector unit; it takes one at a time. (log 28 DESIGN CHOICE) -/
def Dev.startVec (d : Dev) (k : Clock) (c : Fin 48) (e : Entry) : Started :=
  if !d.cores[c].idle .vec then .wait
  else if d.recordFault c e then .fault 9
  else match d.checkTiles c e.vecTiles.1 e.vecTiles.2 with
    | some r => r
    | none => .go ((d.runVector c e).modCore c fun x => x.addWork 3 e.vecAc) (d.afterAc k (dieOf c) e.vecAc) true

end Sys2Proof.Machine
end

