-- ==== Sys2Proof/Machine/Row.lean ====
section
/-! DEFINITION. The row engine: ROW.SMAX, ROW.NORM and their backward forms (R220 to R226). -/

namespace Sys2Proof.Machine

open Sys2Proof

/-- ROW.SMAX: issue (R222). -/
def execRowSmax (c : Fin 48) (psel : BitVec 4) (tdd tda : BitVec 6) (z : Size) (rnd : BitVec 2)
    (stat : BitVec 13) (ss : BitVec 5) (s : State) : Result :=
  s.issueEng c (encRowSmax psel tdd tda z rnd stat ss) .row

/-- ROW.NORM: issue (R222). -/
def execRowNorm (c : Fin 48) (psel : BitVec 4) (tdd tda tdc : BitVec 6) (z : Size) (rnd : BitVec 2)
    (stat : BitVec 13) (ss : BitVec 5) (nkind : BitVec 2) (s : State) : Result :=
  s.issueEng c (encRowNorm psel tdd tda tdc z rnd stat ss nkind) .row

/-- ROW.SMAX.B: issue (R222). -/
def execRowSmaxB (c : Fin 48) (psel : BitVec 4) (tdd tda tdb : BitVec 6) (z : Size) (rnd : BitVec 2)
    (stat : BitVec 13) (recomp : Bool) (ss : BitVec 5) (s : State) : Result :=
  s.issueEng c (encRowSmaxB psel tdd tda tdb z rnd stat recomp ss) .row

/-- ROW.NORM.B: issue (R222). -/
def execRowNormB (c : Fin 48) (psel : BitVec 4) (tdd tda tdb tdc : BitVec 6) (z : Size) (rnd : BitVec 2)
    (stat : BitVec 13) (recomp : Bool) (ss : BitVec 5) (nkind : BitVec 2) (s : State) : Result :=
  s.issueEng c (encRowNormB psel tdd tda tdb tdc z rnd stat recomp ss nkind) .row

/-! ### Row arithmetic (R222) -/

/-- The sum of a row in ascending column order, each addition rounded. (log 29 DEDUCED) -/
def sumF32 (vs : List Val) : Val := vs.foldl addF32 Val.zero

/-- The largest value of a row; NaN if any is NaN. -/
def maxF32 (vs : List Val) : Val := vs.foldl (fun a v => if a = .nan || v = .nan then .nan else Val.max a v) (.inf true)

/-- Statistics of a softmax row: the maximum of ss × x and the sum of exponentials. -/
def smaxStats (ss : Val) (xs : List Val) : Val × Val :=
  let a := xs.map (mulF32 ss)
  let mx := maxF32 a
  (mx, sumF32 (a.map fun v => expF32 (subF32 v mx)))

/-- A degenerate softmax row (R226). -/
def smaxDegenerate (st : Val × Val) : Bool := st.1 = .inf true || st.1 = .nan || st.2.isZero

/-- Outputs of a softmax row from its statistics. -/
def smaxOut (ss : Val) (xs : List Val) (st : Val × Val) : List Val :=
  xs.map fun x => divF32 (expF32 (subF32 (mulF32 ss x) st.1)) st.2

/-- Statistics of a normalisation row: the mean (+0 for RMS) and the reciprocal standard deviation. -/
def normStats (layer : Bool) (eps : Val) (xs : List Val) : Val × Val :=
  let n := Val.ofInt xs.length
  let mean := if layer then divF32 (sumF32 xs) n else Val.zero
  let v := divF32 (sumF32 (xs.map fun x => let t := subF32 x mean; mulF32 t t)) n
  (mean, rsqrtF32 (f32 (Config.rsqrtZero)) (addF32 v eps))

/-- Outputs of a normalisation row. -/
def normOut (xs cs : List Val) (st : Val × Val) : List Val :=
  (xs.zip cs).map fun (x, c) => mulF32 (mulF32 (subF32 x st.1) st.2) c

/-- Input gradients of a softmax row. -/
def smaxBack (ss : Val) (dys xs : List Val) (st : Val × Val) : List Val :=
  let ys := smaxOut ss xs st
  let dot := sumF32 ((dys.zip ys).map fun (a, b) => mulF32 a b)
  (dys.zip ys).map fun (dy, y) => mulF32 (mulF32 ss y) (subF32 dy dot)

/-- Input gradients of a normalisation row. -/
def normBack (layer : Bool) (dys xs cs : List Val) (st : Val × Val) : List Val :=
  let n := Val.ofInt xs.length
  let h := xs.map fun x => mulF32 (subF32 x st.1) st.2
  let g := (dys.zip cs).map fun (a, b) => mulF32 a b
  let a := if layer then divF32 (sumF32 g) n else Val.zero
  let b := divF32 (sumF32 ((g.zip h).map fun (p, q) => mulF32 p q)) n
  (g.zip h).map fun (gi, hi) => mulF32 st.2 (subF32 (subF32 gi a) (mulF32 hi b))

/-! ### Running -/

/-- Row i of a descriptor's tiles in one tile row, over the columns that lie inside the valid extent of
`ext`, the instruction's TDA (R220). -/
def rowVals (ext t : TileDesc) (tiles : List TileData) (i : Nat) : List Val :=
  (tiles.zipIdx).flatMap fun (x, q) => (List.range (validCols ext q)).map fun j => elemOf t x (64 * i + j)

/-- The outcome of one row: outputs, statistics, and whether it was degenerate. -/
structure RowOut where
  ys : List Val
  st : Val × Val
  degenerate : Bool
  deriving DecidableEq, Repr

/-- Compute one row; `kept` holds the statistics read from the store. -/
def rowCompute (e : Entry) (xa xb xc : List Val) (kept : Val × Val) : RowOut :=
  let ss := f32 (e.sc (wbits e.word 36 32)).toNat
  let layer := wbits e.word 31 30 = 1
  let recomp := wbits e.word 37 37 = 1
  match wOp e.word with
  | 1 =>
    let st := smaxStats ss xa
    if smaxDegenerate st then ⟨xa.map fun _ => Val.zero, (Val.zero, Val.zero), true⟩
    else ⟨smaxOut ss xa st, st, false⟩
  | 2 => let st := normStats layer ss xa; ⟨normOut xa xc st, st, false⟩
  | 3 =>
    let st := if recomp then smaxStats ss xb else kept
    if smaxDegenerate st then ⟨xa.map fun _ => Val.zero, st, true⟩ else ⟨smaxBack ss xa xb st, st, false⟩
  | _ =>
    let st := if recomp then normStats layer ss xb else kept
    ⟨normBack layer xa xb xc st, st, false⟩

/-- The byte of the statistics of row i of tile row r (R221). -/
def Entry.statAt (e : Entry) (r i : Nat) : Nat := wbits e.word 50 38 * 256 + 512 * r + 8 * i

/-- The instruction writes statistics, or reads them. -/
def Entry.statWrites (e : Entry) : Bool := wOp e.word ≤ 2 && wbits e.word 50 38 ≠ 0x1FFF
/-- A backward instruction that reads kept statistics. -/
def Entry.statReads (e : Entry) : Bool := wOp e.word > 2 && wbits e.word 37 37 = 0

/-- Read the two F32 values of a row's statistics. -/
def Dev.readStat (d : Dev) (c : Fin 48) (a : Nat) : Val × Val :=
  (f32 (d.mem.stat[c].readLe a 4), f32 (d.mem.stat[c].readLe (a + 4) 4))

/-- Write the two F32 values of a row's statistics. -/
def Dev.writeStat (d : Dev) (c : Fin 48) (a : Nat) (st : Val × Val) : Dev :=
  let bs := leBytes 4 (f32Bits st.1) ++ leBytes 4 (f32Bits st.2)
  let m := d.mem.stat[c].writeN a bs
  let d := d.noteWrite 4 (c.val / 4) c a bs
  let dead := fun (x : Nat) => x / 2 ^ 26 = c.val && a ≤ x % 2 ^ 26 && x % 2 ^ 26 < a + 8
  { d with mem := { d.mem with
      stat := d.mem.stat.set c m, poisonStat := d.mem.poisonStat.filter fun x => !dead x } }

/-- Spread rows of valid columns over the tile columns of one tile row. -/
def rowTile (t : TileDesc) (rows : List (List Val)) (q : Nat) : List Val :=
  let before := sumBy (List.range q) fun p => validCols t p
  (List.range 4096).map fun i =>
    if i % 64 < validCols t q then ((rows.getD (i / 64) []).getD (before + i % 64) Val.zero) else Val.zero

/-- Process one tile row: the rows and columns in TDA's valid extent, written within TDD's too (R220). (log 94 DESIGN CHOICE) -/
def Dev.rowOne (d : Dev) (c : Fin 48) (e : Entry) (rc : RndCtx) (r : Nat) : Dev :=
  let read := fun (t : TileDesc) (tr : Nat) => (List.range e.nc).map fun q => d.readTile c t tr q
  let ta := read e.tda r
  let tb := if wOp e.word > 2 then read e.tdb r else []
  let tc := if wOp e.word = 2 || wOp e.word = 4 then read e.tdc 0 else []
  let n := validRows e.tda r
  let outs := (List.range n).map fun i =>
    rowCompute e (rowVals e.tda e.tda ta i) (rowVals e.tda e.tdb tb i) (rowVals e.tda e.tdc tc 0)
      (if e.statReads then d.readStat c (e.statAt r i) else (Val.zero, Val.zero))
  let d := (ta ++ tb ++ tc).foldl (fun d x => d.countTile c x) d
  let d := if e.statWrites then
      outs.zipIdx.foldl (fun d (o, i) => d.writeStat c (e.statAt r i) o.st) d
    else d
  let bad := sumBy outs fun o => if o.degenerate then 0 else (o.ys.filter fun v => !v.isFinite).length
  let deg := (outs.filter (·.degenerate)).length
  let d := (d.count .coreRowNonfinite bad c).count .coreRowDegenerate deg c
  let d := if e.statWrites then d.count .coreRowStatWr 1 c else d
  let d := if e.statReads then d.count .coreRowStatRd 1 c else d
  (List.range e.nc).foldl (fun d q =>
    let nt := narrowTile (Td.fmt e.tdd) rc ((r * e.nc + q) * 4096)
      (fun i => i / 64 < n && i % 64 < validCols e.tda q && inValid e.tdd r q i) (rowTile e.tda (outs.map (·.ys)) q)
    (d.writeTileIn c e.tdd (Td.fmt e.tdd) r q (fun i => i / 64 < n && i % 64 < validCols e.tda q) nt).countNarrow c nt) d

/-- Passes of a row instruction (Table BWD-4). -/
def Entry.rowPasses (e : Entry) : Nat :=
  let layer := wbits e.word 31 30 = 1
  let recomp := wbits e.word 37 37 = 1
  match wOp e.word with
  | 1 => 3
  | 2 => if layer then 3 else 2
  | 3 => if recomp then 4 else 2
  | _ => if recomp then (if layer then 4 else 3) else 2

/-- Ac of a row instruction (R224). -/
def Entry.rowAc (e : Entry) : Nat := 32 + e.rowPasses * 4 * e.nr * e.nc

/-- Tiles that a row instruction reads and writes. -/
def Entry.rowTiles (e : Entry) : List (TileDesc × List (Nat × Nat)) × List (TileDesc × List (Nat × Nat)) :=
  let ps := rect 0 0 e.nr e.nc
  ([(e.tda, ps)] ++ (if wOp e.word > 2 then [(e.tdb, ps)] else []) ++
    (if wOp e.word = 2 || wOp e.word = 4 then [(e.tdc, rect 0 0 1 e.nc)] else []), [(e.tdd, ps)])

/-- The fault of a poisoned byte among the kept statistics that a row instruction reads (R386). -/
def Dev.statPoison (d : Dev) (k : Clock) (c : Fin 48) (e : Entry) : Option Started :=
  let hit := fun (x : Nat) => x / 2 ^ 26 = c.val && (List.range e.nr).any fun r =>
    e.statAt r 0 ≤ x % 2 ^ 26 && x % 2 ^ 26 < e.statAt r (validRows e.tda r)
  if e.statReads then (d.mem.poisonStat.find? hit).map fun x =>
    .raised (d.sramFault k 2 (c.val / 4) c (x % 2 ^ 26) (engineId (some .row) c))
  else none

/-- A row instruction's statistics lie in the store, or it uses none (R221). -/
def Entry.statsOk (e : Entry) : Bool := !(e.statWrites || e.statReads) || e.statAt e.nr 0 ≤ 2097152

/-- The Q checks of a row instruction, cause 0x8 before 0x9, and then the poisoned bytes that it reads (R113, R221,
R386). -/
def Dev.rowCheck (d : Dev) (k : Clock) (c : Fin 48) (e : Entry) : Option Started :=
  match d.checkTiles c e.rowTiles.1 e.rowTiles.2 with
  | some (.fault cause) => some (.fault cause)
  | r => if e.statsOk then r.or (d.statPoison k c e) else some (.fault 9)

/-- Start a row instruction; the engine takes one at a time (R223). -/
def Dev.startRow (d : Dev) (k : Clock) (c : Fin 48) (e : Entry) : Started :=
  if !d.cores[c].idle .row then .wait
  else match d.rowCheck k c e with
    | some r => r
    | none =>
      let rc := d.rndCtx c 2 e
      let d := (List.range e.nr).foldl (fun d r => d.rowOne c e rc r) d
      let d := d.modCore c fun x => (x.consume 2 e (4096 * e.nr * e.nc)).addWork 2 e.rowAc
      let d := (d.count .coreRowBusy e.rowAc c).count .coreRowInstr 1 c
      let d := if wOp e.word > 2 && wbits e.word 37 37 = 1 then d.count .coreRowRecomp 1 c else d
      .go d (d.afterAc k (dieOf c) e.rowAc) true

end Sys2Proof.Machine
end

