-- ==== Sys2Proof/Machine/Sep.lean ====
section
/-! DEFINITION. The Separator: selection, gate weights, the capacity chain and the selection lists
(R93, R171 to R192). -/

namespace Sys2Proof.Machine

open Sys2Proof

/-- SEP.SELECT: issue (R171, R172). -/
def execSepSelect (c : Fin 48) (psel : BitVec 4) (tdd tda : BitVec 6) (layer : BitVec 10) (e : BitVec 14)
    (k : BitVec 4) (shared : BitVec 3) (gate : Bool) (sn : BitVec 5) (s : State) : Result :=
  s.issueEng c (encSepSelect psel tdd tda layer e k shared gate sn) .sep

/-- SEP.HASH: issue (R171, R187). -/
def execSepHash (c : Fin 48) (psel : BitVec 4) (tdd tda : BitVec 6) (layer : BitVec 10) (e : BitVec 14)
    (k : BitVec 4) (salt : BitVec 5) (s : State) : Result :=
  s.issueEng c (encSepHash psel tdd tda layer e k salt) .sep

/-! ### Fields of an entry -/

namespace Entry
/-- The instruction is SEP.HASH. -/
def sepHash (e : Entry) : Bool := wOp e.word = 2
/-- LAYER. -/
def sepLayer (e : Entry) : Nat := wbits e.word 99 90
/-- N. -/
def sepN (e : Entry) : Nat := wbits e.word 89 76 + 1
/-- K. -/
def sepK (e : Entry) : Nat := wbits e.word 75 72 + 1
/-- SHARED, 0 for SEP.HASH. -/
def sepShared (e : Entry) : Nat := if e.sepHash then 0 else wbits e.word 71 69
/-- The token count of the copy (R171). -/
def sepCount (e : Entry) : Nat :=
  if e.sepHash then 64 * (Td.rows e.tda - 1) + Td.vrows e.tda else (e.sc (wbits e.word 67 63)).toNat
/-- Selection-stage ac for one token (R175). -/
def sepAc (e : Entry) : Nat := if e.sepHash then 8 else ceilDiv e.sepN 256 + 4
end Entry

/-- Ac of one hop, of the position-0 read and of the write-back (R182, R183). (log 33 DEDUCED) -/
def hopAc (n : Nat) : Nat := 96 + ceilDiv n 256

/-! ### Selection (R173, R174, R187) -/

/-- The largest finite F32 value. -/
def maxF : Val := f32 0x7F7FFFFF

/-- A score as the Separator reads it, and whether it counts as non-finite (R173). -/
def readScore (v : Val) : Val × Bool :=
  match v with
  | .nan => (.inf true, true)
  | .inf false => (maxF, true)
  | .inf true => (.inf true, true)
  | w => (w, false)

/-- Insert a score into the list of the best, kept in order of score and then expert index (R174). -/
def insertBest (best : List (Val × Nat)) (s : Val × Nat) : List (Val × Nat) :=
  match best with
  | [] => [s]
  | b :: t => if b.1.lt s.1 then s :: b :: t else b :: insertBest t s

/-- The K best of the read scores, in rank order. -/
def bestOf (k : Nat) (ss : List Val) : List (Val × Nat) :=
  ss.zipIdx.foldl (fun best s => (insertBest best s).take k) []

/-- Gate weights of the selected scores in rank order, none for a degenerate token (R176 to R178). -/
def gateWeights (sigmoid : Bool) (ss : List Val) : Option (List Val) :=
  let m := ss.headD (.inf true)
  if m = .inf true then none
  else
    let us := ss.map fun s => if sigmoid then sigmoidF32 s else expF32 (subF32 s m)
    let z := us.foldl addF32 Val.zero
    if z.isZero then none else some (us.map fun u => divF32 u z)

/-- One token of SEP.SELECT: its entries, whether it is degenerate, and its non-finite scores. -/
def selectToken (k : Nat) (sigmoid : Bool) (raw : List Val) : List (Nat × Nat) × Bool × Nat :=
  let rs := raw.map readScore
  let best := bestOf k (rs.map (·.1))
  let bad := (rs.filter (·.2)).length
  match gateWeights sigmoid (best.map (·.1)) with
  | none => (best.map fun b => (b.2, 0), true, bad)
  | some ws => ((best.zip ws).map fun (b, w) => (b.2, f32Bits w), false, bad)

/-- The candidate moved on until it is distinct (R187). -/
def distinctFrom (n : Nat) (chosen : List Nat) : Nat → Nat → Nat
  | 0, c => c
  | f + 1, c => if chosen.contains c then distinctFrom n chosen f ((c + 1) % n) else c

/-- The experts of one token of SEP.HASH, in ascending j (R187). -/
def hashToken (salt : Scalar) (layer n k ident : Nat) : List Nat :=
  (List.range k).foldl (fun chosen j =>
    let h := (sipHash salt (BitVec.ofNat 64 layer) (leBytes 8 (ident % 2 ^ 32 + j * 2 ^ 32))).toNat
    chosen ++ [distinctFrom n chosen n (h / 2 ^ 32 * n / 2 ^ 32)]) []

/-- The tiles of a copy's scores or identifiers (Table SEP-1). -/
def Entry.sepIn (e : Entry) : List (Nat × Nat) :=
  rect 0 0 (ceilDiv e.sepCount 64) (if e.sepHash then 1 else ceilDiv e.sepN 64)

/-- The tiles of a copy's selection list. -/
def Entry.sepOut (e : Entry) : List (Nat × Nat) := rect 0 0 (ceilDiv e.sepCount 64) 1

/-- The tokens of one copy: entries, degenerate, non-finite scores, row by row. -/
def Dev.sepTokens (d : Dev) (c : Fin 48) (e : Entry) : List (List (Nat × Nat) × Bool × Nat) :=
  let tr := ceilDiv e.sepCount 64
  let tc := if e.sepHash then 1 else ceilDiv e.sepN 64
  (List.range tr).flatMap fun r =>
    let tiles := (List.range tc).map fun q => d.readTile c e.tda r q
    (List.range (min 64 (e.sepCount - 64 * r))).map fun i =>
      if e.sepHash then
        let ident := match tiles.head? with | none => 0 | some t => t.codes.getD (64 * i) 0
        let w := f32Bits (divF32 (Val.ofInt 1) (Val.ofInt e.sepK))
        ((hashToken (e.sc (wbits e.word 71 67)) e.sepLayer e.sepN e.sepK ident).map fun x => (x, w), false, 0)
      else
        let raw := (tiles.flatMap fun t => (List.range 64).map fun j => elemOf e.tda t (64 * i + j)).take e.sepN
        selectToken e.sepK (wbits e.word 68 68 = 1) raw

/-! ### The selection list (R180, R184, R185) -/

/-- A record word of the selection list (Table SEP-2). -/
def recordWord (idx kind slot : Nat) : Nat := idx + kind * 2 ^ 14 + slot * 2 ^ 16

/-- What the capacity stage makes of one token: entry words with weights, the words after it, and its routed entries
written as skipped, those of a degenerate token among them (R178, R184, R185). (log 33 DEDUCED) -/
def assignToken (quota : Nat → Nat) (shared : Nat) (t : SepTok) (words : List Nat) :
    List (Nat × Nat) × List Nat × Nat :=
  let step := fun (acc : List (Nat × Nat) × List Nat × Nat) (p : Nat × Nat) =>
    let (out, ws, skips) := acc
    let w := ws.getD p.1 0
    let left := w % 2 ^ 17
    let sk := w / 2 ^ 17
    if t.degenerate then (out ++ [(recordWord p.1 1 0xFFFF, 0)], ws, skips + 1)
    else if left > 0 then (out ++ [(recordWord p.1 0 (quota p.1 - left), p.2)], ws.set p.1 (w - 1), skips)
    else (out ++ [(recordWord p.1 1 0xFFFF, p.2)], ws.set p.1 (left + min (sk + 1) 32767 * 2 ^ 17), skips + 1)
  let (out, ws, skips) := t.picks.foldl step ([], words, 0)
  (out ++ (List.range shared).map (fun i => (recordWord i 2 0, 0x3F800000)), ws, skips)

/-- Row of a selection list: entries and then +0 (R180). -/
def listRow (es : List (Nat × Nat)) : List Nat := padTo 0 64 (es.flatMap fun e => [e.1, e.2])

/-- Write the selection list of one copy. `free` gives the written words where TDD overlaps TDA: they are
not defined (R172). -/
def Dev.writeList (d : Dev) (c : Fin 48) (e : Entry) (rows : List (List Nat)) : Dev :=
  (List.range (ceilDiv rows.length 64)).foldl (fun d r =>
    let part := (rows.drop (64 * r)).take 64
    let nt : NarrowTile := ⟨padTo 0 4096 (part.flatMap fun x => x), [], 0, 0⟩
    (d.hashed (0x600 + c.val / 4) e.frame fun d => d.writeTileIn c e.tdd .f32 r 0 (fun i => i / 64 < part.length) nt).imageTraffic
      c e.tdd true (Td.base e.tdd) (tileOff e.tdd r 0) (256 * part.length)) d

/-- The byte ranges of a rectangle of tiles. -/
def Dev.tileRanges (d : Dev) (c : Fin 48) (t : TileDesc) (ps : List (Nat × Nat)) : List (Loc × Nat × Nat) :=
  ps.filterMap fun p =>
    (d.spaceAt c t (Td.base t) (tileOff t p.1 p.2) (denseBytes t)).map fun (l, a) => (l, a, denseBytes t)

/-- A copy's TDD overlaps its TDA (R172). (log 7 DESIGN CHOICE) -/
def Dev.sepOverlap (d : Dev) (c : Fin 48) (e : Entry) : Bool :=
  (d.tileRanges c e.tda e.sepIn).any fun x => (d.tileRanges c e.tdd e.sepOut).any fun y =>
    x.1 = y.1 && rangesMeet x.2.1 x.2.2 y.2.1 y.2.2

/-- Entries of rows; where the operands overlap, each word is a free value. -/
def Dev.listRows (d : Dev) (c : Fin 48) (e : Entry) (rows : List (List Nat)) : List (List Nat) × Dev :=
  if d.sepOverlap c e then
    (rows.zipIdx.map fun (r, i) => r.zipIdx.map fun (_, j) => Config.freeValue (d.free + 64 * i + j) % 2 ^ 32,
      { d with free := d.free + 64 * rows.length })
  else (rows, d)

/-! ### The chain (R182, R183) -/

/-- Chain position of a die (Table SEP-3). -/
def chainPos (x : Fin 12) : Nat := [0, 1, 2, 3, 7, 6, 5, 4, 8, 9, 10, 11].getD x 0

/-- Die at a chain position (Table SEP-3). -/
def chainDie (p : Nat) : Fin 12 := Fin.ofNat 12 ([0, 1, 2, 3, 7, 6, 5, 4, 8, 9, 10, 11].getD p 0)

/-- Change one die's Separator. -/
def Dev.modSep (d : Dev) (x : Fin 12) (f : SepDie → SepDie) : Dev := { d with sep := d.sep.set x (f d.sep[x]) }

/-- The quotas of this member for a layer (R189, R194). -/
def Dev.quotaOf (d : Dev) (layer x : Nat) : Nat :=
  match d.image with
  | none => 0
  | some m => m.quota layer (match m.xchLayer layer with | none => 0 | some l => d.rank l.g) x

/-- The invocations of a layer in this frame. -/
def Dev.invOf (d : Dev) (layer : Nat) : LayerInv :=
  (d.layerInv.find? fun i => i.layer = layer).getD ⟨layer, 0, 0, 0⟩

/-- Replace the invocations of a layer. -/
def Dev.setInv (d : Dev) (i : LayerInv) : Dev :=
  { d with layerInv := (d.layerInv.filter fun j => j.layer ≠ i.layer) ++ [i] }

/-- Times of the capacity stage: it ends one ac after the last token, each token waiting for its selection
(R184). (log 33 DEDUCED) -/
def capTime (start : Nat) (toks : List SepTok) : Nat := toks.foldl (fun t x => max t x.ready + 1) start

/-- Write the record of a layer's invocation into the frame's statistics buffer; its reserved header bytes are written as
zeros (R190). (log 33 DESIGN CHOICE) -/
def Dev.writeStats (d : Dev) (x : Fin 12) (layer frame invs : Nat) (words : List Nat) : Dev :=
  match d.image.bind fun m => (m.sepLayer layer).bind fun e => m.form.sep.map fun p => (p, e.2) with
  | none => d
  | some (p, i) => d.hashed (0x600 + x.val) frame fun d => d.hbmWrite (p.recordAt (frame % 2) i)
      (leBytes 4 frame ++ leBytes 4 invs ++ List.replicate 8 0 ++ words.flatMap (leBytes 4))

/-- The capacity stage of a run whose vector has arrived (R182 to R185): it writes the lists, sends the
vector on or starts the write-back, and lets the copies retire 8 ac after its end (Table SEP-5). The bytes of a write-back
stand in the buffer when it begins, since the frame may close before it ends and the buffer stays unchanged from then on
(R41, R190). A close waits for the stage too, where all copies of its die are off and have retired before. Every die counts
⌈N / 256⌉ for a vector received and again for one sent, those of the read and of the write-back among them (R191).
(log 33 DEDUCED) -/
def Dev.capStage (d : Dev) (k : Clock) (x : Fin 12) (r : SepRun) (v : CapVector) : Dev :=
  let sd := d.sep[x]
  let waitFrom := max r.released sd.capEnd
  let start := max waitFrom v.at_
  let fin := capTime start r.toks
  let q := d.quotaOf r.layer
  let (outs, words, skips) := r.toks.foldl (fun (acc : List (SepTok × List (Nat × Nat) × Nat) × List Nat × Nat) t =>
    let (es, ws, n) := assignToken q r.shared t acc.2.1
    (acc.1 ++ [(t, es, n)], ws, acc.2.2 + n)) ([], v.words, 0)
  let skipToks := (outs.filter fun o => !o.1.degenerate && !o.1.picks.isEmpty && o.2.2 = o.1.picks.length).length
  let d := (List.finRange 4).foldl (fun (d : Dev) (i : Fin 4) =>
    match r.seqs.getD i.val none with
    | none => d
    | some sq =>
      match d.cores[coreOf x i].entries.find? fun e => e.seq = sq with
      | none => d
      | some e =>
        let rows := (outs.filter fun o => o.1.copy = i).map fun o => listRow o.2.1
        let (rows, d) := d.listRows (coreOf x i) e rows
        d.whileOpen k (coreOf x i) e [] [(e.tdd, e.sepOut)] fun d =>
          (d.writeList (coreOf x i) e rows).modCore (coreOf x i) fun y =>
            y.updEntry sq fun e => { e with done := true, due := (fin + 8) * 5 }) d
  let work := r.toks.length + 2 * ceilDiv r.experts 256
  let d := ((d.count .sepSkips skips x).count .sepSkipTokens skipToks x).count .sepChainWaits (v.at_ - waitFrom) x
  let d := (d.count .sepBusy work x).addWork 0x6 x work
  let d := d.count (if r.hash then .sepInvokeHash else .sepInvokeSelect) 1 x
  let d := d.modSep x fun sd => { sd with
    runs := sd.runs.filter fun y => y.n ≠ r.n, capEnd := fin, arrived := sd.arrived.filter fun y => y.n ≠ r.n
    stages := (sd.stages.filter fun s => v.at_ < s.2.2) ++ [(r.layer, start, fin)] }
  let d := d.workedTo (d.dieUnit x fin)
  let p := chainPos x
  if p = 11 then
    let d := match d.image.bind fun m => m.form.sep with
      | none => d
      | some s => d.touchW (.die x) .hbm s.stats (4 * r.experts)
    let w : WriteBack := ⟨r.layer, d.frame.number, (d.invOf r.layer).ended + 1, fin, hopAc r.experts⟩
    (d.writeStats x w.layer w.frame w.invs words).modSep x fun sd => { sd with writeBacks := sd.writeBacks ++ [w] }
  else
    (d.carry (.die x) (.die (chainDie (p + 1))) (4 * r.experts)).modSep (chainDie (p + 1)) fun sd =>
      { sd with coming := sd.coming ++ [⟨r.n, words, fin⟩] }

/-- Run every capacity stage whose turn has come on a die: the oldest run whose vector has arrived (R182). -/
def Dev.tryCap (k : Clock) (x : Fin 12) : Nat → Dev → Dev
  | 0, d => d
  | n + 1, d =>
    match d.sep[x].runs.head? with
    | none => d
    | some r =>
      match d.sep[x].arrived.find? fun v => v.n = r.n with
      | none => d
      | some v => Dev.tryCap k x n (d.capStage k x r v)

/-- As `tryCap`, for all runs of the die. -/
def Dev.runCaps (d : Dev) (k : Clock) (x : Fin 12) : Dev := Dev.tryCap k x (d.sep[x].runs.length + 1) d

/-! ### Release and start (R93) -/

/-- A Separator instruction at its queue head: checks of its tiles, then it is released and waits for the
other copies of its die (R91, R93). -/
def Dev.releaseSep (d : Dev) (c : Fin 48) (e : Entry) : Started :=
  if e.done then .wait
  else match d.checkTiles c [(e.tda, e.sepIn)] [(e.tdd, e.sepOut)] with
    | some r => r
    | none => .released d

/-- The copies of a die-collective instruction at the heads of the four cores' queues, where each is
released or predicated off (R93). (log 30 DEDUCED) -/
def Dev.copies (d : Dev) (x : Fin 12) (g : Eng) : Option (List (Fin 4 × Entry)) :=
  let hs := (List.finRange 4).filterMap fun i =>
    match d.cores[coreOf x i].head g with
    | none => none
    | some e => if !e.on || e.done then some (i, e) else none
  if hs.length = 4 then some hs else none

/-- The bits of a copy that the engine compares: [127:116] and [111:0] (R93). -/
def compared (w : InsWord) : Nat := wbits w 127 116 * 2 ^ 112 + wbits w 111 0

/-- The first copy that differs from core 0's. (log 33 DEDUCED) -/
def copyDiffers (cs : List (Fin 4 × Entry)) : Option (Fin 4 × Entry) :=
  match cs with
  | [] => none
  | a :: t => t.find? fun b => compared b.2.word ≠ compared a.2.word

/-- The copies leave their queues: those that are on run, those that are off retire, which a frame's close waits for
(R41, R91, R93). (log 33 DEDUCED) -/
def Dev.takeCopies (d : Dev) (k : Clock) (x : Fin 12) (cs : List (Fin 4 × Entry)) : Dev :=
  let d := if cs.all fun c => c.2.on then d else d.workedTo k.units
  cs.foldl (fun d c => d.modCore (coreOf x c.1) fun y =>
    if c.2.on then y.updEntry c.2.seq fun e => { e with stage := .running, done := false, due := 0 }
    else y.dropEntry c.2.seq) d

/-- Start a Separator instruction on a die (R93, R175). (log 30 DEDUCED) -/
def Dev.startSep (d : Dev) (k : Clock) (x : Fin 12) (cs : List (Fin 4 × Entry)) : Dev :=
  match cs with
  | [] => d
  | (_, e) :: _ =>
    let sd := d.sep[x]
    let from_ := max (d.dieAc k x) sd.selEnd
    let on := cs.filter fun c => c.2.on
    let raw := on.flatMap fun c => ((d.sepTokens (coreOf x c.1) c.2).zipIdx.map fun t => (c.1, t.2, t.1))
    let toks : List SepTok := raw.zipIdx.map fun ((i, row, picks, dg, _), j) =>
      ⟨i, row, picks, dg, from_ + (j + 1) * e.sepAc⟩
    let bad := sumBy raw fun t => t.2.2.2.2
    let deg := (toks.filter fun t => t.degenerate).length
    let offToks := sumBy (cs.filter fun c => !c.2.on) fun c => c.2.sepCount
    let selWork := toks.length * e.sepAc
    let inv := d.invOf e.sepLayer
    let idx := if chainPos x = 0 then inv.started else 0
    let d := if chainPos x = 0 then d.setInv { inv with started := inv.started + 1 } else d
    let run : SepRun := {
      n := sd.started, hash := e.sepHash, layer := e.sepLayer, experts := e.sepN, shared := e.sepShared
      seqs := cs.map fun c => if c.2.on then some c.2.seq else none
      counts := cs.map fun c => if c.2.on then c.2.sepCount else 0
      toks := toks, released := d.dieAc k x, inv := idx }
    let d := d.modSep x fun sd => { sd with
      started := sd.started + 1, runs := sd.runs ++ [run], selEnd := from_ + toks.length * e.sepAc }
    let d := (((d.count .sepTokens toks.length x).count .sepNonfinite bad x).count .sepDegenerate deg x)
    let d := (d.count .sepBusy selWork x).addWork 0x6 x (selWork + offToks * (e.sepAc + 1))
    let d := on.foldl (fun d c => d.tileTraffic (coreOf x c.1) c.2.tda false c.2.sepIn) d
    (d.takeCopies k x cs).runCaps k x

/-! ### Commands of the chain -/

/-- The unit at which what leaves die `x` in its ac `a` has crossed a path of `hop` ac: bridges and paths keep their
clocks (R182, R478). (log 58 DEDUCED) -/
def Dev.crossed (d : Dev) (x : Fin 12) (a hop : Nat) : Nat := d.dieUnit x a + hop * 5

/-- The unit at which a vector comes to die `x` from the die before it in the chain. -/
def Dev.vectorAt (d : Dev) (x : Fin 12) (v : CapVector) : Nat :=
  d.crossed (chainDie (chainPos x - 1)) v.at_ (hopAc v.words.length)

/-- CAPACITY_VECTOR_ARRIVE: the vector of the die's next instruction arrives over its bridge (R182). -/
def execCapacityVectorArrive (x : Fin 12) (s : State) : Result :=
  s.act (fun k => match s.dev.sep[x].coming.head? with | some v => k.toUnit (s.dev.vectorAt x v) | none => k) fun k d =>
    match d.sep[x].coming with
    | [] => none
    | v :: rest => some ((d.modSep x fun sd => { sd with coming := rest, arrived := sd.arrived ++ [{ v with at_ := d.acFrom x (d.vectorAt x v) }] }).runCaps k x)

/-- The unit at which position 0's read ends, where it may run: the layer's previous write-back in the frame has
ended (R183). -/
def Dev.readEnd (d : Dev) (x : Fin 12) : Option (SepRun × Nat) :=
  if chainPos x ≠ 0 then none
  else match d.sep[x].runs.head? with
    | none => none
    | some r =>
      let i := d.invOf r.layer
      if i.ended = r.inv then some (r, max (d.dieUnit x r.released) (if r.inv = 0 then 0 else i.endAt) + hopAc r.experts * 5) else none

/-- Where position 0 reads the capacity state: in the quota copy, or in the record of the current buffer (R183). -/
def Dev.capAddr (d : Dev) (r : SepRun) : Option Nat :=
  (d.image.bind fun m => (m.sepLayer r.layer).bind fun e => m.form.sep.map fun p => (p, e.2)).map fun (p, i) =>
    if r.inv = 0 then p.quotaAt i else p.recordAt (d.frame.number % 2) i + 16

/-- The capacity state that position 0 reads. -/
def Dev.capState (d : Dev) (r : SepRun) : List Nat :=
  match d.capAddr r with
  | none => List.replicate r.experts 0
  | some a => (List.range r.experts).map fun j => leNat (d.hbmRead (a + 4 * j) 4)

/-- CAPACITY_STATE_READ_END: position 0's read of the capacity state ends (R183). A poisoned byte in it is a run fault
(R386). -/
def execCapacityStateReadEnd (x : Fin 12) (s : State) : Result :=
  s.act (fun k => match s.dev.readEnd x with | some (_, t) => k.toUnit t | none => k) fun k d =>
    match d.readEnd x with
    | none => none
    | some (r, t) =>
      match (d.capAddr r).bind fun a => d.poisonAt .hbm a (4 * r.experts) with
      | some (l, a) => some (d.poisonFault k l a (0x600 + x.val))
      | none =>
      let d := match d.image.bind fun m => m.form.sep with
        | none => d
        | some p => d.touch (.die x) .hbm p.stats (4 * r.experts)
      some ((d.modSep x fun sd => { sd with arrived := sd.arrived ++ [⟨r.n, d.capState r, d.acFrom x t⟩] }).runCaps k x)

/-- CAPACITY_WRITE_BACK_END: position 11's write-back of the vector to the current statistics buffer ends, and the layer's
next read may begin (R183). -/
def execCapacityWriteBackEnd (x : Fin 12) (s : State) : Result :=
  s.act (fun k => match s.dev.sep[x].writeBacks.head? with | some w => k.toUnit (s.dev.crossed x w.at_ w.hop) | none => k) fun _ d =>
    match d.sep[x].writeBacks with
    | [] => none
    | w :: rest =>
      let d := d.modSep x fun sd => { sd with writeBacks := rest }
      let i := d.invOf w.layer
      some (if w.frame = d.frame.number then d.setInv { i with ended := w.invs, endAt := d.crossed x w.at_ w.hop } else d)

end Sys2Proof.Machine
end

