-- ==== Sys2Proof/Machine/Pail.lean ====
section
/-! DEFINITION. The Pail pool: PALLOC, PFREE, PSHARE, TDPAIL, the Pail manager and the landing Pails
(R250 to R263). -/

namespace Sys2Proof.Machine

open Sys2Proof

/-- PALLOC: issue (R257). -/
def execPalloc (c : Fin 48) (psel : BitVec 4) (sd sa : BitVec 5) (s : State) : Result :=
  s.issueEng c (encPalloc psel sd sa) .pail

/-- PFREE: issue (R257). -/
def execPfree (c : Fin 48) (psel : BitVec 4) (sa : BitVec 5) (s : State) : Result :=
  s.issueEng c (encPfree psel sa) .pail

/-- PSHARE: issue (R257). -/
def execPshare (c : Fin 48) (psel : BitVec 4) (sa sb : BitVec 5) (s : State) : Result :=
  s.issueEng c (encPshare psel sa sb) .pail

/-- TDPAIL: issue (Table ENC-13). (log 22 DEDUCED) -/
def execTdpail (c : Fin 48) (psel : BitVec 4) (td : BitVec 6) (sa : BitVec 5) (s : State) : Result :=
  s.issueEng c (encTdpail psel td sa) .pail

/-- The scalar number under which an entry keeps a result until it retires. -/
def resultSlot : Nat := 34

/-- The result an entry holds. -/
def Entry.result (e : Entry) : Scalar := e.sc resultSlot

/-- The entry has its result and may retire. -/
def Entry.finish (e : Entry) (v : Scalar) : Entry := { e with done := true, scs := (resultSlot, v) :: e.scs }

/-! ### Pail states (R256, R257) -/

/-- The state of a Pail. -/
def Dev.pailState (d : Dev) (h : Nat) : PailState := Sparse.get d.pail.states .free h

/-- Set the state of a Pail. -/
def Dev.setPail (d : Dev) (h : Nat) (st : PailState) : Dev :=
  { d with pail := { d.pail with states := Sparse.set d.pail.states .free h st } }

/-- Pails of a class over all homes. -/
def Image.classTotal (m : Image) (cls : Nat) : Nat :=
  sumBy (List.range 12) (fun x => m.homeCount cls x) + m.homeCount cls 15

/-- FREE Pails of a class over all homes (PAIL_FREE). -/
def Dev.freePails (d : Dev) (cls : Nat) : Nat :=
  match d.image with
  | none => 0
  | some m => m.classTotal cls - (d.pail.states.filter fun e => hClass e.1 = cls).length

/-- Keep the lowest FREE count of the frame. -/
def Dev.noteLow (d : Dev) (cls : Nat) : Dev :=
  { d with pail := { d.pail with low := modifyAt d.pail.low cls fun n => min n (d.freePails cls) } }

/-- Code of a state in PAIL_FAULT_STATE. -/
def PailState.code : PailState → Nat
  | .free => 0 | .held _ => 1 | .landed => 1 | .shared _ => 2 | .returning _ _ => 3

/-- Raise a Pail fault and record it; of several in one control cycle the lowest code is recorded (R75, R257, R260, Table
PAIL-5). -/
def Dev.pailFault (d : Dev) (k : Clock) (code core cls state handle : Nat) : Dev :=
  let d := d.runFault k code 0 0xE03 0
  let held := d.rd .pailFaultCode
  if !d.faultCycle k || (held ≠ 0 && held ≤ code) then d
  else ((((d.wr .pailFaultCode code).wr .pailFaultCore core).wr .pailFaultClass cls).wr .pailFaultState state).wr
    .pailFaultHandle handle

/-- The lowest-indexed FREE Pail of a share: `n` Pails of a class in a home from index `first`. -/
def Dev.lowestFree (d : Dev) (cls home first n : Nat) : Option Nat :=
  ((List.range n).map fun i => mkHandle cls home (first + i)).find? fun h => d.pailState h = .free

/-- Take a Pail of a core's share in a class for that core; none where the share is empty (R257). -/
def Dev.takePail (d : Dev) (core cls : Nat) : Option (Nat × Dev) :=
  match d.image with
  | none => none
  | some m =>
    match d.lowestFree cls (m.pailHome core cls) (m.shareFirst core cls) (m.share core cls) with
    | none => none
    | some h => some (h, ((d.setPail h (.held core)).noteLow cls).count .pailAllocs)

/-- A free by a core (Table PAIL-4). A free by another core in the control cycle of the final owner's free
finds the Pail SHARED (R260). (log 36 DEDUCED) -/
def Dev.freePail (d : Dev) (k : Clock) (core h : Nat) : Dev :=
  let st := d.pailState h
  match st with
  | .held c =>
    if c = core then (d.setPail h .free).count .pailFrees
    else d.pailFault k 0x81 core (hClass h) st.code h
  | .shared c =>
    if c = core then (d.setPail h (.returning core k.cc)).count .pailFrees
    else d.pailFault k 0x81 core (hClass h) st.code h
  | .landed => d.pailFault k 0x81 core (hClass h) st.code h
  | .returning c cc =>
    if cc = k.cc && core ≠ c then d.pailFault k 0x81 core (hClass h) 2 h else d.pailFault k 0x80 core (hClass h) st.code h
  | _ => d.pailFault k 0x80 core (hClass h) st.code h

/-- PSHARE by a core (Table PAIL-4). -/
def Dev.sharePail (d : Dev) (k : Clock) (core h owner : Nat) : Dev :=
  let st := d.pailState h
  if st = .held core || st = .shared core then (d.setPail h (.shared owner)).count .pailShares
  else d.pailFault k 0x81 core (hClass h) st.code h

/-- A Pail is RETURNING. -/
def PailState.isReturning : PailState → Bool
  | .returning _ _ => true
  | _ => false

/-- RETURNING Pails become FREE at a frame open (R258). (log 36 DEDUCED) -/
def Dev.freeReturning (d : Dev) : Dev :=
  let n := (d.pail.states.filter fun e => e.2.isReturning).length
  let d := { d with pail := { d.pail with states := d.pail.states.filter fun e => !e.2.isReturning } }
  let d := d.count .pailReturned n
  { d with pail := { d.pail with low := (List.range 8).map fun c => d.freePails c } }

/-! ### The manager (R258, R262) -/

/-- The issue number of the instruction a request belongs to. -/
def PailReq.seq : PailReq → Nat
  | .alloc s _ _ => s
  | .release s _ => s
  | .share s _ _ => s
  | .churn s _ => s
  | .dispatch s _ => s

/-- The slot entry of an XCH instruction is its layer's final slot. -/
def Dev.isFinal (d : Dev) (w : InsWord) : Bool :=
  match d.image.bind fun m => m.xchSlot (wbits w 99 84) with
  | none => false
  | some s => s.final

/-- An unretired instruction that has yet to hand its requests to the manager (R258). -/
def Dev.owesRequest (d : Dev) (e : Entry) : Bool :=
  e.on && match wCls e.word, wOp e.word with
    | 0x9, 4 => false
    | 0x9, _ => e.stage = .queued
    | 0x5, 1 => e.stage = .queued
    | 0x6, 1 => d.isFinal e.word
    | _, _ => false

/-- The requests of a core. -/
def Dev.reqsOf (d : Dev) (core : Nat) : List PailReq := (d.pail.reqs.filter fun r => r.1 = core).map (·.2)

/-- The request of a core that the manager may apply next: the earliest in issue order, once every earlier
instruction's requests have been applied (R258). (log 36 DEDUCED) -/
def Dev.nextRequest (d : Dev) (c : Fin 48) : Option PailReq :=
  let rs := d.reqsOf c
  match (rs.map PailReq.seq).min? with
  | none => none
  | some m =>
    if d.cores[c].entries.any fun e => e.seq < m && d.owesRequest e then none
    else rs.find? fun r => r.seq = m

/-- Some request waits for an earlier one (R258). -/
def Dev.pailWaiting (d : Dev) : Bool :=
  (List.finRange 48).any fun c =>
    let rs := d.reqsOf c
    match d.nextRequest c with
    | none => !rs.isEmpty
    | some r => rs.any fun q => q.seq ≠ r.seq

/-- Keep PAIL_WAIT: the cc in which some request waited (Table PAIL-5). (log 32 DEDUCED) -/
def Dev.notePailWait (d : Dev) (k : Clock) : Dev :=
  match d.pail.waitFrom, d.pailWaiting with
  | none, true => { d with pail := { d.pail with waitFrom := some k.cc } }
  | some f, false => { d with pail := { d.pail with waitFrom := none } }.count .pailWait (k.cc - f)
  | _, _ => d

/-- Put a request to the manager. -/
def Dev.request (d : Dev) (core : Nat) (r : PailReq) : Dev :=
  { d with pail := { d.pail with reqs := d.pail.reqs ++ [(core, r)] } }

/-- Count the manager's work (R262). -/
def Dev.pailWork (d : Dev) (n : Nat) : Dev := (d.count .pailBusy (4 * n)).addWork 0xE 3 (4 * n)

/-- Start a Pail instruction: TDPAIL takes effect when it retires, the others hand a request to the manager. -/
def Dev.startPail (d : Dev) (k : Clock) (c : Fin 48) (e : Entry) : Started :=
  let h := fun (hi lo : Nat) => (e.sc (wbits e.word hi lo)).toNat % 2 ^ 32
  match wOp e.word with
  | 1 => .go (d.request c (.alloc e.seq (wbits e.word 111 107) (e.sc (wbits e.word 106 102)).toNat)) k.units false
  | 2 => .go (d.request c (.release e.seq (h 106 102))) k.units false
  | 3 => .go (d.request c (.share e.seq (h 106 102) ((e.sc (wbits e.word 101 97)).toNat % 64))) k.units false
  | _ => .go d k.units true

/-- An entry of a core finishes with a value. -/
def Dev.finish (d : Dev) (c : Fin 48) (seq : Nat) (v : Scalar) : Dev :=
  d.modCore c fun x => x.updEntry seq fun e => e.finish v

/-! ### Churn copies that wait for Pails (R200, R201) -/

/-- Bytes of a Pail move between an engine at a place and the Pail: `write` tells the direction (R21). -/
def Dev.pailTraffic (d : Dev) (s : Place) (write : Bool) (h off n : Nat) : Dev :=
  match d.image with
  | none => d
  | some m =>
    let (l, a) := m.pailAddr d.order.hbmStacks h
    if write then d.touchW s l (a + off) n else d.touch s l (a + off) n

/-- Write the bytes of a Pail. -/
def Dev.putPail (d : Dev) (h off : Nat) (bs : List Byte) : Dev :=
  match d.image with
  | none => d
  | some m => let (l, a) := m.pailAddr d.order.hbmStacks h; d.locWrite l (a + off) bs

/-- Read the bytes of a Pail. -/
def Dev.getPail (d : Dev) (h off n : Nat) : List Byte :=
  match d.image with
  | none => []
  | some m => let (l, a) := m.pailAddr d.order.hbmStacks h; d.locRead l (a + off) n

/-- Word `i` of a list of 32-bit words in linear element order: tile row, tile column, index in the tile
(R80, R201). -/
def wordPlace (t : TileDesc) (i : Nat) : Nat × Nat × Nat := (i / 4096 / Td.cols t, i / 4096 % Td.cols t, i % 4096)

/-- Write 32-bit words at the head of a list descriptor. -/
def Dev.writeWords (d : Dev) (c : Fin 48) (t : TileDesc) (ws : List Nat) : Dev :=
  (List.range (ceilDiv ws.length 4096)).foldl (fun d n =>
    let part := (ws.drop (4096 * n)).take 4096
    let (r, q, _) := wordPlace t (4096 * n)
    d.writeTileIn c t .f32 r q (fun i => i < part.length) ⟨padTo 0 4096 part, [], 0, 0⟩) d

/-- The tiles of the first `n` words of a list descriptor lie in its space now (R259, R266). -/
def Dev.wordsOpen (d : Dev) (c : Fin 48) (t : TileDesc) (n : Nat) : Bool :=
  (List.range (ceilDiv n 4096)).all fun b =>
    let (r, q, _) := wordPlace t (4096 * b)
    (d.tileFault c t r q).isNone

/-- Word `i` of a list descriptor. -/
def Dev.readWord (d : Dev) (c : Fin 48) (t : TileDesc) (i : Nat) : Nat :=
  let (r, q, j) := wordPlace t i
  (d.readTile c t r q).codes.getD j 0

/-- The first `n` words of a list descriptor. -/
def Dev.readWords (d : Dev) (c : Fin 48) (t : TileDesc) (n : Nat) : List Nat :=
  ((List.range (ceilDiv n 4096)).flatMap fun b =>
    let (r, q, _) := wordPlace t (4096 * b)
    (d.readTile c t r q).codes).take n

/-- Write the Pails and the list of one copy (Tables CHN-2 and CHN-3). -/
def Dev.fillCopy (d : Dev) (c : Fin 48) (layer : Nat) (tdd : TileDesc) (cp : ChurnCopy) : Dev :=
  let g := match d.image.bind fun m => m.xchLayer layer with | none => 1 | some l => l.g
  let ps := cp.lists.zip cp.handles
  let d := ps.foldl (fun d ((rank, _, recs), h) =>
    (d.pailTraffic (.die (c.val / 4)) true h 0 (64 + 8 * recs.length)).putPail h 0 (leBytes 2 layer ++ leBytes 2 (d.memberOf g rank) ++ leBytes 4 recs.length ++
      leBytes 1 c.val ++ List.replicate 55 0 ++ recs.flatMap (leBytes 8))) d
  d.writeWords c tdd ([ps.length, sumBy ps (fun p => p.1.2.2.length), 0, 0] ++
    ps.flatMap fun ((rank, bucket, recs), h) => [h, d.memberOf g rank, recs.length, bucket])

/-- The die of a core's Churn. -/
def churnDie (c : Fin 48) : Fin 12 := dieOf c

/-- A CHURN.SORT whose copies have all their Pails writes them and lets its copies retire at the end of its
work, or now where it waited longer (R201). -/
def Dev.churnReady (d : Dev) (k : Clock) (x : Fin 12) : Dev :=
  match d.churn[x] with
  | none => d
  | some r =>
    if r.copies.all fun cp => cp.handles.length = cp.lists.length then
      let fin := max (d.dieAc k x) (r.start + r.work)
      let d := r.copies.foldl (fun d cp =>
        let c := coreOf x cp.copy
        match d.cores[c].entries.find? fun e => e.seq = cp.seq with
        | none => d
        | some e =>
          if d.wordsOpen c e.tdd (4 + 4 * cp.lists.length) then
            (d.hashed (0x700 + x.val) e.frame fun d => d.fillCopy c r.layer e.tdd cp).modCore c fun y =>
              y.updEntry cp.seq fun e => { e with done := true, due := fin * 5 }
          else d.insFault k c 9 e.word e.index) d
      let recs := sumBy r.copies fun cp => sumBy cp.lists fun l => l.2.2.length
      let d := (d.count .sepChnRecords recs x).count .sepChnAllocWait (d.dieAc k x - (r.start + r.work)) x
      { d with churn := d.churn.set x none }
    else d

/-- A copy of a CHURN.SORT receives a Pail. -/
def Dev.grantChurn (d : Dev) (x : Fin 12) (seq : Nat) (copy : Fin 4) (h : Nat) : Dev :=
  let f := fun (cp : ChurnCopy) => if cp.copy = copy && cp.seq = seq then { cp with handles := cp.handles ++ [h] } else cp
  { d with churn := d.churn.set x (d.churn[x].map fun r => { r with copies := r.copies.map f }) }

/-- Apply one request of a core (R257). -/
def Dev.applyRequest (d : Dev) (k : Clock) (c : Fin 48) (r : PailReq) : Dev :=
  match r with
  | .alloc seq sd size =>
    let cls := pailClass size
    match (d.pailWork 1).takePail c cls with
    | some (h, d) => d.finish c seq (BitVec.ofNat 64 h)
    | none => ((d.pailWork 1).modCore c fun x => x.setS (BitVec.ofNat 5 sd) 0).pailFault k 0x82 c cls 0 0
  | .release seq h => ((d.pailWork 1).freePail k c h).finish c seq 0
  | .share seq h owner => ((d.pailWork 1).sharePail k c h owner).finish c seq 0
  | .churn seq cls =>
    match (d.pailWork 1).takePail c cls with
    | some (h, d) =>
      let x := churnDie c
      ((d.count .sepChnPails 1 x).grantChurn x seq (Fin.ofNat 4 c.val) h).churnReady k x
    | none => (d.pailWork 1).pailFault k 0x82 c cls 0 0
  | .dispatch _ hs => hs.foldl (fun d h => (d.pailWork 1).freePail k c h) d

/-- Pails that a request asks for or frees. -/
def PailReq.size : PailReq → Nat
  | .dispatch _ hs => hs.length
  | _ => 1

/-- When the manager takes a request: in the control cycle in which it has just taken others, or once it has spent
4 cc on each of those (R260, R262). (log 36 DEDUCED) -/
def Dev.pailTime (d : Dev) (k : Clock) : Clock := if k.cc = d.pail.servedCc then k else k.toCc d.pail.freeCc

/-- The manager takes a request, on which it spends 4 cc for each Pail. (log 36 DEDUCED) -/
def Dev.pailServe (d : Dev) (k : Clock) (r : PailReq) : Dev :=
  { d with pail := { d.pail with
      servedCc := k.cc, freeCc := (if k.cc = d.pail.servedCc then max k.cc d.pail.freeCc else k.cc) + 4 * r.size } }

/-- PAIL_REQUEST_APPLY: the manager applies the next request of a core, of a DRAINING job too (R74, R258). (log 31 DEDUCED, 36 DEDUCED) -/
def execPailRequestApply (c : Fin 48) (s : State) : Result :=
  let due := (s.dev.job.phase = .running || s.dev.job.phase = .draining) && (s.dev.nextRequest c).isSome
  s.act (fun k => if due then s.dev.pailTime k else k) fun k d =>
    match d.nextRequest c with
    | none => none
    | some r =>
      if d.job.phase = .running || d.job.phase = .draining || d.faultCycle k then
        let d := { d with pail := { d.pail with reqs := d.pail.reqs.erase (c.val, r) } }
        some (((d.pailServe k r).applyRequest k c r).notePailWait k)
      else none

/-! ### Landing Pails (R208, R261) -/

/-- Take a landing Pail of a slot's share; none where it is empty. (log 35 DEDUCED) -/
def Dev.takeLanding (d : Dev) (slot : Nat) : Option (Nat × Dev) :=
  match d.image, d.image.bind fun m => m.form.pail with
  | some m, some p =>
    let n := ((m.landShares.find? fun e => e.1 = slot).map (·.2)).getD 0
    match d.lowestFree p.land 15 (m.landFirst p.land slot) n with
    | none => none
    | some h => some (h, (d.setPail h .landed).noteLow p.land)
  | _, _ => none

/-- Free a landing Pail. (log 35 DEDUCED) -/
def Dev.freeLanding (d : Dev) (h : Nat) : Dev := d.setPail h .free

end Sys2Proof.Machine
end

