-- ==== Sys2Proof/Machine/Churn.lean ====
section
/-! DEFINITION. Churn: CHURN.SORT and CHURN.RESTORE, and the rows they and the exchange move (R199 to R202). -/

namespace Sys2Proof.Machine

open Sys2Proof

/-- CHURN.SORT: issue (R199). -/
def execChurnSort (c : Fin 48) (psel : BitVec 4) (tdd tda : BitVec 6) (buckets : BitVec 14) (key : Bool)
    (layer : BitVec 10) (s : State) : Result :=
  s.issueEng c (encChurnSort psel tdd tda buckets key layer) .churn

/-- CHURN.RESTORE: issue (R202). -/
def execChurnRestore (c : Fin 48) (psel : BitVec 4) (tdd tda tdb : BitVec 6) (layer : BitVec 10) (s : State) :
    Result :=
  s.issueEng c (encChurnRestore psel tdd tda tdb layer) .churn

namespace Entry
/-- LAYER of a CHURN instruction. -/
def churnLayer (e : Entry) : Nat := wbits e.word 84 75
/-- KEY of a CHURN.SORT. -/
def churnKey (e : Entry) : Bool := wbits e.word 85 85 = 1
/-- BUCKETS + 1. -/
def churnBuckets (e : Entry) : Nat := wbits e.word 99 86 + 1
/-- The copy's token count (R199). -/
def tokens (e : Entry) : Nat := (e.sc churnCount).toNat
/-- K of the Separator instruction that wrote the list. -/
def topk (e : Entry) : Nat := (e.sc churnK).toNat
end Entry

/-! ### Rows of W elements -/

/-- A row of a tile array as codes and scale bytes, two scale bytes for each tile column of a B format. -/
structure RowData where
  codes : List Nat
  scales : List Nat
  deriving DecidableEq, Repr

/-- Row `r` of a descriptor's tiles over `w` elements. -/
def Dev.readRow (d : Dev) (c : Fin 48) (t : TileDesc) (r w : Nat) : RowData :=
  let tiles := (List.range (ceilDiv w 64)).map fun q => d.readTile c t (r / 64) q
  let i := r % 64
  let live := fun (q : Nat) => blockLive t (r / 64) q
  { codes := (tiles.flatMap fun x => (x.codes.drop (64 * i)).take 64).take w
    scales := if scaleBytes (Td.format t) = 0 then [] else
      tiles.zipIdx.flatMap fun (x, q) => ((x.movedScales (live q)).drop (2 * i)).take 2 }

/-- The blocks of that row whose scale bytes are read clamped are counted for the core (R118). -/
def Dev.countRow (d : Dev) (c : Fin 48) (t : TileDesc) (r w : Nat) : Dev :=
  if scaleBytes (Td.format t) = 0 then d
  else
    let n := sumBy (List.range (ceilDiv w 64)) fun q =>
      let x := d.readTile c t (r / 64) q
      ((List.range 2).filter fun j => (scaleOf (x.scales.getD (2 * (r % 64) + j) 0x80)).2).length
    if n = 0 then d else d.count .coreFmtScaleClamp n c

/-- Every tile of a row lies in its space now: no Pail of it has been freed, and no page unmapped (R259, R266). -/
def Dev.rowOpen (d : Dev) (c : Fin 48) (t : TileDesc) (r w : Nat) : Bool :=
  (List.range (ceilDiv w 64)).all fun q => (d.tileFault c t (r / 64) q).isNone

/-- The bytes of a row move between an engine at a place and the row's home: `write` tells the direction (R21, R202,
R215). -/
def Dev.rowTraffic (d : Dev) (s : Place) (c : Fin 48) (t : TileDesc) (write : Bool) (r w : Nat) : Dev :=
  let n := 8 * fmtWidth (Td.format t)
  let move := fun (d : Dev) (root o n : Nat) => match d.spaceAt c t root o n with
    | none => d
    | some (l, a) => if write then d.touchW s l a n else d.touch s l a n
  (List.range (ceilDiv w 64)).foldl (fun d q =>
    let d := move d (Td.base t) (tileOff t (r / 64) q + r % 64 * n) n
    if scaleBytes (Td.format t) = 0 then d else move d (Td.side t) (sideOff t (r / 64) q + r % 64 * 2) 2) d

/-- Write a row of `w` elements at row `r` of a descriptor's tiles, in the stream of an exchange engine (R378). Its
NaNs are written canonical, T2's 0b10 as 0, and scale bytes within their range (R115, R117, R118). -/
def Dev.writeRow (d : Dev) (stream frame : Nat) (c : Fin 48) (t : TileDesc) (r w : Nat) (x : RowData) : Dev :=
  let i := r % 64
  d.hashed stream frame fun d => (List.range (ceilDiv w 64)).foldl (fun d q =>
    let cs := padTo 0 64 (((x.codes.drop (64 * q)).take 64).map (Td.fmt t).carried)
    let sc := padTo 0 2 (((x.scales.drop (2 * q)).take 2).map legalScale)
    let nt : NarrowTile :=
      ⟨List.replicate (64 * i) 0 ++ cs ++ List.replicate (4096 - 64 * i - 64) 0,
       List.replicate (2 * i) 0 ++ sc ++ List.replicate (128 - 2 * i - 2) 0, 0, 0⟩
    d.writeTileIn c t (Td.fmt t) (r / 64) q (fun p => p / 64 = i) nt) d

/-- A row of +0. -/
def zeroRow (fmt w : Nat) : RowData :=
  let sc := match Fmt.ofCode fmt with
    | some f => if f.blocked then List.replicate (w / 32) (chooseScale f.width (List.replicate 32 Val.zero)) else []
    | none => []
  ⟨List.replicate w 0, sc⟩

/-- The bytes of a row on the wire: element bits packed, then scale bytes. -/
def RowData.toBytes (x : RowData) (fmt : Nat) : List Byte :=
  let n := fmtWidth fmt
  leBytes (x.codes.length * n / 8) (packCodes n x.codes) ++ x.scales.map (BitVec.ofNat 8)

/-- A row of `w` elements from its bytes. -/
def rowOfBytes (fmt w : Nat) (bs : List Byte) : RowData :=
  let n := fmtWidth fmt
  let eb := w * n / 8
  let v := leNat (bs.take eb)
  ⟨(List.range w).map fun i => elemAt v n i, (bs.drop eb).map BitVec.toNat⟩

/-! ### The selection list as input -/

/-- Entry (m, j) of a selection list: its record word. -/
def Dev.listWord (d : Dev) (c : Fin 48) (t : TileDesc) (m j : Nat) : Nat :=
  (d.readTile c t (m / 64) 0).codes.getD (64 * (m % 64) + 2 * j) 0

/-- The record words of a copy's list: token row, entry rank and word, in order. -/
def Dev.listWords (d : Dev) (c : Fin 48) (t : TileDesc) (tokens k : Nat) : List (Nat × Nat × Nat) :=
  (List.range (ceilDiv tokens 64)).flatMap fun r =>
    let x := d.readTile c t r 0
    (List.range (min 64 (tokens - 64 * r))).flatMap fun i =>
      (List.range k).map fun j => (64 * r + i, j, x.codes.getD (64 * i + 2 * j) 0)

/-- The accepted entries: kind 0b00 (R199). -/
def acceptedOf (ws : List (Nat × Nat × Nat)) : List Accepted :=
  (ws.filter fun w => bitRange w.2.2 15 14 = 0).map fun (m, j, w) => ⟨bitRange w 13 0, bitRange w 31 16, m, j⟩

/-- The record of an accepted entry (Table CHN-3). -/
def Accepted.record (a : Accepted) : Nat := a.x + a.k * 2 ^ 16 + a.m * 2 ^ 32 + a.j * 2 ^ 44

/-- The bucket of an expert (R200). -/
def XchLayer.bucket (l : XchLayer) (key : Bool) (x : Nat) : Nat :=
  if key then x
  else
    let h := l.hosts.getD x 0
    (l.hosts.filter fun g => g < h).length + l.localIndex x

/-- The records of each rank in ascending rank, stably sorted by bucket, with the bucket of the first. -/
def sortCopy (l : XchLayer) (key : Bool) (as : List Accepted) : List (Nat × Nat × List Nat) :=
  (List.range l.g).filterMap fun r =>
    let mine := (as.filter fun a => l.host a.x = some r).mergeSort fun a b => a.x ≤ b.x
    match mine with
    | [] => none
    | a :: _ => some (r, l.bucket key a.x, mine.map Accepted.record)

/-! ### Release and start -/

/-- The exchange entry of a CHURN instruction's layer; a plain one where it has none. -/
def Dev.churnXch (d : Dev) (e : Entry) : XchLayer :=
  (d.image.bind fun m => m.xchLayer e.churnLayer).getD ⟨e.churnLayer, 1, 64, 4096, 0, 0, 0, []⟩

/-- The rows of TDA that a CHURN.RESTORE reads, by result row: none for a skipped entry (R202). -/
def Dev.restoreRows (d : Dev) (c : Fin 48) (e : Entry) : List (Option Nat) :=
  let l := d.churnXch e
  (d.listWords c e.tdb e.tokens e.topk).map fun (_, _, w) =>
    if bitRange w 15 14 ≠ 0 then none
    else
      let x := bitRange w 13 0
      let li := l.localIndex x
      (d.image.bind fun m => (m.layerSlots l.layer).find? fun s => s.first ≤ li && li < s.first + s.count).map fun s =>
        (s.arrivals.getD (li - s.first) (0, 0)).2 + bitRange w 31 16

/-- The tiles of whole rows of a descriptor. -/
def rowTiles (rows : List Nat) (w : Nat) : List (Nat × Nat) :=
  ((rows.map (· / 64)).eraseDups).flatMap fun r => rect r 0 1 (ceilDiv w 64)

/-- A CHURN instruction at its queue head: checks, then it waits for the other copies (R91, R93, R201). -/
def Dev.releaseChurn (d : Dev) (c : Fin 48) (e : Entry) : Started :=
  let l := d.churnXch e
  let list := rect 0 0 (ceilDiv e.tokens 64) 1
  if e.done then .wait
  else if wOp e.word = 1 then
    let words := 4 + 4 * l.g
    if 4096 * Td.rows e.tdd * Td.cols e.tdd < words then .fault 8
    else
      let out := (List.range (ceilDiv words 4096)).map fun b =>
        let (r, q, _) := wordPlace e.tdd (4096 * b)
        (r, q)
      match d.checkTiles c [(e.tda, list)] [(e.tdd, out)] with
      | some r => r
      | none => .released d
  else
    match d.checkTiles c [(e.tdb, list)] [] with
    | some r => r
    | none =>
      let rows := (d.restoreRows c e).filterMap fun r => r
      match d.checkTiles c [(e.tda, rowTiles rows l.width)]
          [(e.tdd, rowTiles (List.range (e.tokens * e.topk)) l.width)] with
      | some r => r
      | none => .released d

/-- The tiles that a copy of a die-collective instruction reads and writes as its engine starts. -/
def Dev.copyTiles (d : Dev) (c : Fin 48) (e : Entry) : List (TileDesc × List (Nat × Nat)) × List (TileDesc × List (Nat × Nat)) :=
  let list := rect 0 0 (ceilDiv e.tokens 64) 1
  match wCls e.word, wOp e.word with
  | 0x4, _ => ([(e.tda, e.sepIn)], [])
  | _, 1 => ([(e.tda, list)], [])
  | _, _ =>
    let w := (d.churnXch e).width
    ([(e.tdb, list), (e.tda, rowTiles ((d.restoreRows c e).filterMap fun r => r) w)],
      [(e.tdd, rowTiles (List.range (e.tokens * e.topk)) w)])

/-- Work of a copy of a CHURN instruction in ac (R201, R202). -/
def Entry.churnAc (e : Entry) : Nat :=
  if wOp e.word = 1 then 2 * e.tokens + ceilDiv e.churnBuckets 64 + 16 else e.tokens * e.topk

/-- Remember a copy's routes for the exchange. -/
def Dev.setRoute (d : Dev) (r : CopyRoute) : Dev :=
  { d with xch := { d.xch with
      routes := (d.xch.routes.filter fun q => !(q.core = r.core && q.layer = r.layer)) ++ [r] } }

/-- The rows of a selection list cross the path to the die that reads them (R202). -/
def Dev.listTraffic (d : Dev) (c : Fin 48) (t : TileDesc) (tokens : Nat) : Dev :=
  (List.range tokens).foldl (fun d m => d.rowTraffic (.die (c.val / 4)) c t false m 64) d

/-- Start a CHURN.SORT on a die: sort each copy, and ask for its Pails (R200). -/
def Dev.startSort (d : Dev) (k : Clock) (x : Fin 12) (on : List (Fin 4 × Entry)) (layer work : Nat) : Dev :=
  let copies : List (ChurnCopy × CopyRoute) := on.map fun (i, e) =>
    let c := coreOf x i
    let as := acceptedOf (d.listWords c e.tda e.tokens e.topk)
    let l := d.churnXch e
    let as := as.filter fun (a : Accepted) => (l.host a.x).isSome
    (⟨i, e.seq, sortCopy l e.churnKey as, []⟩, ⟨c.val, layer, e.tokens, e.topk, as⟩)
  let d := copies.foldl (fun d cp => d.setRoute cp.2) d
  let d := on.foldl (fun d (i, e) => d.listTraffic (coreOf x i) e.tda e.tokens) d
  let d := { d with churn := d.churn.set x (some ⟨layer, copies.map Prod.fst, d.dieAc k x, work⟩) }
  let d := copies.foldl (fun d cp =>
    cp.1.lists.foldl (fun d l =>
      d.request (coreOf x cp.1.copy) (.churn cp.1.seq (pailClass (64 + 8 * l.2.2.length)))) d) d
  d.churnReady k x

/-- One copy of a CHURN.RESTORE: every routed row, from TDA or +0, in stream 0xC00; its bytes count on the paths it uses
(R202). (log 94 DESIGN CHOICE) -/
def Dev.restoreCopy (d : Dev) (c : Fin 48) (e : Entry) : Dev :=
  let l := d.churnXch e
  let at_ : Place := .die (c.val / 4)
  let d := d.listTraffic c e.tdb e.tokens
  (d.restoreRows c e).zipIdx.foldl (fun d (r, i) =>
    let d := match r with
      | none => d.writeRow 0xC00 e.frame c e.tdd i l.width (zeroRow l.rfmt l.width)
      | some q => ((d.countRow c e.tda q l.width).rowTraffic at_ c e.tda false q l.width).writeRow 0xC00 e.frame c e.tdd i
          l.width (d.readRow c e.tda q l.width)
    d.rowTraffic at_ c e.tdd true i l.width) d

/-- Churn of a die is free: no CHURN instruction of the die is running. -/
def Dev.churnIdle (d : Dev) (x : Fin 12) : Bool :=
  (List.finRange 4).all fun i => d.cores[coreOf x i].idle .churn

/-- Start a CHURN instruction on a die (R93, R201). (log 30 DEDUCED) -/
def Dev.startChurn (d : Dev) (k : Clock) (x : Fin 12) (cs : List (Fin 4 × Entry)) : Dev :=
  match cs with
  | [] => d
  | (_, e) :: _ =>
    let on := cs.filter fun c => c.2.on
    let work := sumBy on fun c => c.2.churnAc
    let all := sumBy cs fun c => c.2.churnAc
    let d := (d.count .sepChnBusy work x).addWork 0x7 x all
    let d := d.takeCopies k x cs
    if wOp e.word = 1 then (if on.isEmpty then d else d.startSort k x on e.churnLayer work)
    else
      on.foldl (fun d c => (d.restoreCopy (coreOf x c.1) c.2).modCore (coreOf x c.1) fun y =>
        y.updEntry c.2.seq fun e => { e with done := true, due := d.afterAc k x work }) d

/-- DIE_COLLECTIVE_START: the copies of all four cores are at their queue heads and released, and the die's
engine compares them and starts (R93). Operands that have left their space since the copies were released raise
TILE_BOUNDS (R259). A stream with too many unconfirmed chunks holds it (R380). (log 31 DEDUCED) -/
def execDieCollectiveStart (x : Fin 12) (g : Eng) (s : State) : Result :=
  s.now fun k d =>
    if !(d.runs || d.faultCycle k) || !(g = .sep || g = .churn) then none
    else match d.copies x g with
      | none => none
      | some cs =>
        match copyDiffers cs with
        | some (i, e) =>
          if d.runs || d.faultedNow k (coreOf x i) then some (d.insFault k (coreOf x i) 6 e.word e.index) else none
        | none =>
          let stream := (if g = .sep then 0x600 else 0x700) + x.val
          let shut := cs.find? fun a => a.2.on && (d.checkTiles (coreOf x a.1) (d.copyTiles (coreOf x a.1) a.2).1
            (d.copyTiles (coreOf x a.1) a.2).2).isSome
          if d.lsHolds stream then some (d.lsHoldFrom k stream)
          else if let some (i, e) := shut then
            let (rs, ws) := d.copyTiles (coreOf x i) e
            some (d.whileOpen k (coreOf x i) e rs ws id)
          else if g = .sep then some ((d.startSep k x cs).notePailWait k)
          else if d.churnIdle x then some ((d.startChurn k x cs).notePailWait k)
          else none

end Sys2Proof.Machine
end

