-- ==== Sys2Proof/Machine/Xch.lean ====
section
/-! DEFINITION. The token exchange: dispatch, arrival at the host, return and combine (R203 to R216, R322). -/

namespace Sys2Proof.Machine

open Sys2Proof

/-- XCH.DISPATCH: issue (R203). -/
def execXchDispatch (c : Fin 48) (psel : BitVec 4) (tda : BitVec 6) (slot : BitVec 16) (sg : BitVec 5) (s : State) :
    Result :=
  s.issueEng c (encXchDispatch psel tda slot sg) .xch

/-- XCH.RECV: issue (R209). -/
def execXchRecv (c : Fin 48) (psel : BitVec 4) (tdd : BitVec 6) (slot : BitVec 16) (s : State) : Result :=
  s.issueEng c (encXchRecv psel tdd slot) .xch

/-- XCH.RETURN: issue (R211). -/
def execXchReturn (c : Fin 48) (psel : BitVec 4) (tda : BitVec 6) (slot : BitVec 16) (s : State) : Result :=
  s.issueEng c (encXchReturn psel tda slot) .xch

/-- XCH.COMBINE: issue (R212). -/
def execXchCombine (c : Fin 48) (psel : BitVec 4) (tdd : BitVec 6) (slot : BitVec 16) (sg : BitVec 5) (s : State) :
    Result :=
  s.issueEng c (encXchCombine psel tdd slot sg) .xch

/-! ### Slots and layers -/

/-- SLOT of an XCH instruction. -/
def Entry.slot (e : Entry) : Nat := wbits e.word 99 84

/-- The generation that SG gives. -/
def Entry.gen (e : Entry) : Nat := (e.sc (wbits e.word 83 79)).toNat % 65536

/-- A slot entry with its layer. -/
def Dev.slotLayer (d : Dev) (slot : Nat) : Option (XchSlot × XchLayer) :=
  d.image.bind fun m => (m.xchSlot slot).bind fun s => (m.xchLayer s.layer).map fun l => (s, l)

/-- The local index lies in the slot's range. -/
def XchSlot.covers (s : XchSlot) (li : Nat) : Bool := s.first ≤ li && li < s.first + s.count

/-- The core and row base that the arrival map gives a local index (Table CHN-1). -/
def XchSlot.arrival (s : XchSlot) (li : Nat) : Nat × Nat := s.arrivals.getD (li - s.first) (0, 0)

/-- The cores of a slot's arrival map. -/
def XchSlot.cores (s : XchSlot) : List Nat := (s.arrivals.map (·.1)).eraseDups

/-- The cores of a slot's dispatch mask. -/
def XchSlot.senders (s : XchSlot) : List Nat := (maskCores s.mask).map Fin.val

/-- Change the exchange state. -/
def Dev.modXch (d : Dev) (f : Xch → Xch) : Dev := { d with xch := f d.xch }

/-! ### Invocations (R195, R197, R206, R214) -/

/-- Frame slots of the placed form. -/
def Dev.formSlots (d : Dev) : Nat := match d.image with | none => 1 | some m => max 1 m.form.slots

/-- The job's first frame (R404). -/
def Dev.firstFrame (d : Dev) : Nat := d.snap.resume.getD 0

/-- The number of the invocation of a slot that an XCH instruction issued in a frame belongs to: the slot's dispatch
frames are numbered from 0, and what follows the dispatch of a carried slot stands in the frame after it. None where that
dispatch frame lies before the job's first. (log 34 DEDUCED) -/
def Dev.invocation (d : Dev) (s : XchSlot) (op frame : Nat) : Option Nat :=
  let n := d.formSlots
  let first := d.firstFrame + (s.frameSlot + n - d.firstFrame % n) % n
  let f := if op = 1 || !s.carried then frame + 1 else frame
  if f ≤ first then none else some ((f - 1 - first) / n)

/-- The invocation of an entry. -/
def Dev.invocationOf (d : Dev) (s : XchSlot) (e : Entry) : Option Nat := d.invocation s (wOp e.word) e.frame

/-- The frame in which the XCH.RECV and the XCH.COMBINE of an invocation stand. -/
def Dev.arrivalFrame (d : Dev) (s : XchSlot) (n : Nat) : Nat :=
  let m := d.formSlots
  d.firstFrame + (s.frameSlot + m - d.firstFrame % m) % m + n * m + s.carried.toNat

/-- A host record with nothing in it. -/
def XchHost.empty (slot n : Nat) : XchHost := ⟨slot, n, [], [], [], [], [], [], [], [], false⟩

/-- A sender record with nothing in it. -/
def XchSend.empty (slot n : Nat) : XchSend := ⟨slot, n, [], [], [], [], [], [], [], [], []⟩

/-- The host record of an invocation, where there is one. -/
def Dev.host? (d : Dev) (slot n : Nat) : Option XchHost := d.xch.hosts.find? fun h => h.slot = slot && h.n = n

/-- The sender record of an invocation, where there is one. -/
def Dev.send? (d : Dev) (slot n : Nat) : Option XchSend := d.xch.sends.find? fun h => h.slot = slot && h.n = n

/-- The host's side of an invocation. -/
def Dev.hostOf (d : Dev) (slot n : Nat) : XchHost := (d.host? slot n).getD (XchHost.empty slot n)

/-- The sender's side of an invocation. -/
def Dev.sendOf (d : Dev) (slot n : Nat) : XchSend := (d.send? slot n).getD (XchSend.empty slot n)

/-- Change the host's side of an invocation. -/
def Dev.modHost (d : Dev) (slot n : Nat) (f : XchHost → XchHost) : Dev :=
  let h := f (d.hostOf slot n)
  d.modXch fun x => { x with hosts := (x.hosts.filter fun g => !(g.slot = slot && g.n = n)) ++ [h] }

/-- Change the sender's side of an invocation. -/
def Dev.modSend (d : Dev) (slot n : Nat) (f : XchSend → XchSend) : Dev :=
  let h := f (d.sendOf slot n)
  d.modXch fun x => { x with sends := (x.sends.filter fun g => !(g.slot = slot && g.n = n)) ++ [h] }

/-- The invocation to which the stream of a rank for a slot now belongs: one for each end marker taken. -/
def Dev.streamOf (d : Dev) (slot rank : Nat) (ret : Bool) : Nat :=
  ((d.xch.marks.find? fun m => m.slot = slot && m.rank = rank && m.ret = ret).map (·.count)).getD 0

/-- An end marker of a rank ends its stream for the invocation. -/
def Dev.endMark (d : Dev) (slot rank : Nat) (ret : Bool) : Dev :=
  let n := d.streamOf slot rank ret
  d.modXch fun x => { x with
    marks := (x.marks.filter fun m => !(m.slot = slot && m.rank = rank && m.ret = ret)) ++ [⟨slot, ret, rank, n + 1⟩] }

/-- A generation is live (R213). (log 34 DEDUCED) -/
def Dev.genLive (d : Dev) (g : Nat) : Bool := match d.xch.live with | none => true | some l => l.contains g

/-! ### Work and paths (R205, R215, R216) -/

/-- The fabric die whose exchange engine sends to a node: FD0 for this device, FD1 for the twin, otherwise that
of the port its first packet would take. -/
def Dev.xchOutDie (d : Dev) (node : Nat) : Nat :=
  if node = d.node then 0
  else if d.isTwin node then 1
  else
    let fl := d.fab.flowlet node
    let mid := d.chooseMid d.jobKey node fl
    let p := d.makePacket ⟨d.jobKey, node, 0, 0x20, 0, 0, [], none, []⟩ mid 0 fl
    match d.choosePort 0 p with
    | none => 0
    | some o => portDie o

/-- The fabric die whose exchange engine receives from a node. -/
def Dev.xchInDie (d : Dev) (node : Nat) : Nat :=
  if node = d.node then 0 else if d.isTwin node then 1 else d.homeDie node

/-- The fabric die whose exchange engine sends to a rank of the group. -/
def Dev.xchOut (d : Dev) (l : XchLayer) (rank : Nat) : Nat := d.xchOutDie (d.memberNode (d.memberOf l.g rank))

/-- The fabric die whose exchange engine receives from a rank of the group. -/
def Dev.xchIn (d : Dev) (l : XchLayer) (rank : Nat) : Nat := d.xchInDie (d.memberNode (d.memberOf l.g rank))

/-- Count work of a fabric die's exchange engine in fc (R215). -/
def Dev.xchWork (d : Dev) (fd n : Nat) : Dev := (d.count .fabXchBusy n fd).addWork 0xC (2 * fd) n

/-- Fc for one row (R215). -/
def rowFc (fmt w : Nat) : Nat := ceilDiv (unitBytes fmt w) 2048

/-! ### Streams (R206, R322) -/

/-- The generation of the unit that holds byte `o` of a stream. -/
def genAt (us : List XchUnit) (o : Nat) : Nat :=
  match us with
  | [] => 0
  | u :: t => if t.isEmpty || o < u.bytes.length then u.gen else genAt t (o - u.bytes.length)

/-- Send the units for one rank as a stream, and its end marker (R206, R211, R322). -/
def Dev.sendStream (d : Dev) (k : Clock) (g slot rank : Nat) (ret : Bool) (us : List XchUnit) (fmt w : Nat) : Dev :=
  let node := d.memberNode (d.memberOf g rank)
  let twin := node ≠ d.node && d.isTwin node
  let fd := d.xchOutDie node
  let chan := if ret then 1 else 0
  let mk := fun (op gen : Nat) (pl : List Byte) =>
    (⟨d.jobKey, node, chan, op, 0, slot + gen * 65536, pl, none, [(.fabric fd, pl.length)]⟩ : Sending)
  let bytes := us.flatMap (·.bytes)
  let n := ceilDiv bytes.length 8192
  let d := (List.range n).foldl (fun d i =>
    d.originate k (mk (if ret then 0xA0 else 0x20) (genAt us (8192 * i)) ((bytes.drop (8192 * i)).take 8192)) twin) d
  let gen := match us.getLast? with | none => 0 | some u => u.gen
  let d := d.originate k (mk (if ret then 0xA1 else 0x21) gen (leBytes 4 us.length)) twin
  (d.count .fabXchRowsOut us.length fd).xchWork fd (us.length * rowFc fmt w + 8)

/-- Send the streams and markers of a slot to every rank of the group. -/
def Dev.sendStreams (d : Dev) (k : Clock) (g slot : Nat) (ret : Bool) (us : List XchUnit) (fmt w : Nat) : Dev :=
  (List.range g).foldl (fun d r => d.sendStream k g slot r ret (us.filter fun u => u.rank = r) fmt w) d

/-! ### Landing Pails (R208, R212, R261) -/

/-- Rows that a landing Pail holds (R208). -/
def Dev.landRows (d : Dev) (unit : Nat) : Nat :=
  match d.image.bind fun m => m.form.pail with
  | none => 0
  | some p => pailSize p.land / unit

/-- The engine of fabric die `fd` puts a unit into a landing Pail of the slot, over its path to the Pail's home (R21);
none where the share is empty. (log 35 DEDUCED) -/
def Dev.land (d : Dev) (fd slot : Nat) (ret : Bool) (unit : Nat) (bs : List Byte) : Option (Nat × Nat × Dev) :=
  let per := d.landRows unit
  let at_ := fun (d : Dev) (h i : Nat) =>
    (h, i * unit, (d.putPail h (i * unit) bs).pailTraffic (.fabric fd) true h (i * unit) unit)
  match d.xch.pails.find? fun p => p.slot = slot && p.ret = ret && p.placed < per with
  | some p =>
    let d := d.modXch fun x => { x with pails := x.pails.map fun q =>
      if q.handle = p.handle then { q with placed := q.placed + 1, held := q.held + 1 } else q }
    some (at_ d p.handle p.placed)
  | none =>
    if per = 0 then none
    else match d.takeLanding slot with
      | none => none
      | some (h, d) => some (at_ (d.modXch fun x => { x with pails := x.pails ++ [⟨slot, ret, h, 1, 1⟩] }) h 0)

/-- A row leaves its landing Pail, which is freed when it holds none. (log 35 DEDUCED) -/
def Dev.unland (d : Dev) (l : Landed) : Dev :=
  match d.xch.pails.find? fun p => p.handle = l.pail with
  | none => d
  | some p =>
    if p.held ≤ 1 then
      (d.modXch fun x => { x with pails := x.pails.filter fun q => q.handle ≠ l.pail }).freeLanding l.pail
    else d.modXch fun x => { x with pails := x.pails.map fun q =>
      if q.handle = l.pail then { q with held := q.held - 1 } else q }

/-- The row that a landing Pail holds. -/
def Dev.landedRow (d : Dev) (l : Landed) (fmt w : Nat) : RowData :=
  rowOfBytes fmt w (d.getPail l.pail (l.off + 8) (rowBytes fmt w))

/-- The first poisoned byte of landed units (R386). -/
def Dev.landPoison (d : Dev) (xs : List Landed) (unit : Nat) : Option (Loc × Nat) :=
  d.image.bind fun m => xs.findSome? fun x =>
    let (l, a) := m.pailAddr d.order.hbmStacks x.pail
    d.poisonAt l (a + x.off) unit

/-! ### The host's side (R208 to R210) -/

/-- Expert, slot, token row and entry rank of a record (Table CHN-3). -/
def recX (r : Nat) : Nat := bitRange r 13 0
/-- Slot of a record. -/
def recSlot (r : Nat) : Nat := bitRange r 31 16
/-- Token row of a record. -/
def recRow (r : Nat) : Nat := bitRange r 43 32
/-- Entry rank of a record. -/
def recRank (r : Nat) : Nat := bitRange r 47 44

/-- The place of a host row in its slot's record table: rows of lower local indices first (R208).
(log 94 DESIGN CHOICE) -/
def Dev.recordIndex (d : Dev) (s : XchSlot) (l : XchLayer) (li k : Nat) : Nat :=
  match d.image with
  | none => 0
  | some m => k + sumBy (List.range (li - s.first)) fun i =>
      match l.expertAt (d.rank l.g) (s.first + i) with
      | none => 0
      | some x => m.capacity l.layer x

/-- Write the record table entry of a host row, in the stream of the engine that receives from its rank (R208, R215,
R378). -/
def Dev.writeRecord (d : Dev) (s : XchSlot) (l : XchLayer) (n fd li k : Nat) (bs : List Byte) : Dev :=
  let a := s.records + 16 * d.recordIndex s l li k
  (d.hashed (0xC00 + 2 * fd) (d.arrivalFrame s n) fun d => d.hbmWrite a bs).touchW (.fabric fd) .hbm a 16

/-- The record table entry of a filled row: record, sender member index, filled flag, generation (R208).
(log 94 DESIGN CHOICE) -/
def Dev.recordBytes (d : Dev) (l : XchLayer) (r : XchRow) : List Byte :=
  leBytes 8 r.record ++ leBytes 2 (d.memberOf l.g r.rank) ++ [1, 0] ++ leBytes 2 r.gen ++ [0, 0]

/-- The running XCH.RECV or XCH.COMBINE of a core for an invocation. -/
def Dev.xchEntry (d : Dev) (c : Fin 48) (s : XchSlot) (n op : Nat) : Option Entry :=
  d.cores[c].entries.find? fun e =>
    e.eng = .xch && e.on && e.stage = .running && !e.done && wOp e.word = op && e.slot = s.slot &&
      d.invocationOf s e = some n

/-- An exchange engine writes a row of an instruction's TDD: in its stream, over its path (R21, R215, R378). A row whose
Pail has been freed or whose page is not mapped any more raises TILE_BOUNDS for the instruction (R259, R266). -/
def Dev.putRow (d : Dev) (k : Clock) (fd : Nat) (c : Fin 48) (e : Entry) (r w : Nat) (x : RowData) : Dev :=
  if d.rowOpen c e.tdd r w then
    (d.writeRow (0xC00 + 2 * fd) e.frame c e.tdd r w x).rowTraffic (.fabric fd) c e.tdd true r w
  else d.insFault k c 9 e.word e.index

/-- A landed row moves to its row of an instruction's TDD and leaves its landing Pail (R208, R212). -/
def Dev.moveLanded (d : Dev) (k : Clock) (fd : Nat) (c : Fin 48) (e : Entry) (r fmt w : Nat) (x : Landed) : Dev :=
  ((d.pailTraffic (.fabric fd) false x.pail x.off (unitBytes fmt w)).putRow k fd c e r w (d.landedRow x fmt w)).unland x

/-- Write a row that has arrived to the TDD of a core's XCH.RECV. -/
def Dev.placeHostRow (d : Dev) (k : Clock) (s : XchSlot) (l : XchLayer) (n : Nat) (h : HostRow) (x : RowData) : Dev :=
  let (core, base) := s.arrival h.li
  let c : Fin 48 := Fin.ofNat 48 core
  match d.xchEntry c s n 2 with
  | none => d
  | some e => d.putRow k (d.xchIn l h.row.rank) c e (base + h.k) l.width x

/-- One delivered unit (R208, R210). -/
def Dev.deliverUnit (d : Dev) (k : Clock) (s : XchSlot) (l : XchLayer) (rank gen : Nat) (bs : List Byte) : Dev :=
  let fd := d.xchIn l rank
  let n := d.streamOf s.slot rank false
  let record := field bs 0 8
  let x := recX record
  let d := (d.count .fabXchRowsIn 1 fd).xchWork fd (rowFc l.dfmt l.width)
  let d := d.modHost s.slot n fun h => { h with seen := Sparse.set h.seen 0 rank (Sparse.get h.seen 0 rank + 1) }
  let row := match d.image with | none => 0 | some m => m.rowBase l.layer rank x + recSlot record
  let cap := match d.image with | none => 0 | some m => m.capacity l.layer x
  let li := l.localIndex x
  if l.host x ≠ some (d.rank l.g) || !s.covers li || row ≥ cap then d.count .fabXchMisrow 1 fd
  else
    let h := d.hostOf s.slot n
    if h.filled.any fun r => r.li = li && r.k = row then d.count .fabXchDupRow 1 fd
    else
      let hr : HostRow := ⟨li, row, ⟨record, rank, gen⟩⟩
      let d := (d.modHost s.slot n fun h => { h with filled := h.filled ++ [hr] }).writeRecord s l n fd li row
        (d.recordBytes l hr.row)
      if h.opened.contains (s.arrival li).1 then d.placeHostRow k s l n hr (rowOfBytes l.dfmt l.width (bs.drop 8))
      else match d.land fd s.slot false (unitBytes l.dfmt l.width) bs with
        | none => d.pailFault k 0x82 0x3F (match d.image.bind fun m => m.form.pail with | none => 0 | some p => p.land) 0 0
        | some (hd, off, d) =>
          (d.modHost s.slot n fun h => { h with landed := h.landed ++ [⟨hr.row, hd, off⟩] }).count .fabXchLanded 1 fd

/-- The host rows of a core in a slot: local index, capacity and row base. -/
def Dev.coreRows (d : Dev) (s : XchSlot) (l : XchLayer) (core : Nat) : List (Nat × Nat × Nat) :=
  (List.range s.count).filterMap fun i =>
    let li := s.first + i
    let (c, base) := s.arrival li
    if c ≠ core then none
    else match l.expertAt (d.rank l.g) li, d.image with
      | some x, some m => some (li, m.capacity l.layer x, base)
      | _, _ => none

/-- The rank whose quota holds an expert row (R195). -/
def Dev.rowRank (d : Dev) (l : XchLayer) (x k : Nat) : Nat :=
  match d.image with
  | none => 0
  | some m => ((List.range l.g).find? fun r => k < m.rowBase l.layer (r + 1) x).getD 0

/-- An unfilled host row is written as +0 and its record table entry as unfilled, over the path of the rank whose row it
is: the bytes of every host path are the same whichever rows are filled (R196, R209, R215). (log 34 DEDUCED) -/
def Dev.zeroHostRow (d : Dev) (k : Clock) (s : XchSlot) (l : XchLayer) (n : Nat) (c : Fin 48) (e : Entry)
    (li base row : Nat) : Dev :=
  let fd := d.xchIn l (d.rowRank l ((l.expertAt (d.rank l.g) li).getD 0) row)
  ((d.putRow k fd c e (base + row) l.width (zeroRow l.dfmt l.width)).writeRecord s l n fd li row
    (List.replicate 16 0)).count .fabXchZeroed 1 fd

/-- XCH.RECV of a core retires when every rank's end marker has arrived: every row announced has then been
written or dropped, and every unfilled row is written as +0 (R209). -/
def Dev.recvReady (d : Dev) (k : Clock) (s : XchSlot) (l : XchLayer) (n : Nat) (c : Fin 48) : Dev :=
  match d.xchEntry c s n 2 with
  | none => d
  | some e =>
    let h := d.hostOf s.slot n
    if h.markers.length < l.g then d
    else
      let gaps := (d.coreRows s l c).flatMap fun (li, cap, base) =>
        ((List.range cap).filter fun i => !(h.filled.any fun r => r.li = li && r.k = i)).map fun i => (li, base, i)
      let d := gaps.foldl (fun d (li, base, i) => d.zeroHostRow k s l n c e li base i) d
      d.modCore c fun x => x.updEntry e.seq fun e => { e with done := true, due := k.units }

/-- Every waiting XCH.RECV of an invocation is looked at. -/
def Dev.recvAll (d : Dev) (k : Clock) (s : XchSlot) (l : XchLayer) (n : Nat) : Dev :=
  s.cores.foldl (fun d c => d.recvReady k s l n (Fin.ofNat 48 c)) d

/-- The return streams and markers of an invocation go out once every core of the arrival map has retired its XCH.RETURN;
where the map names none, once every end marker has arrived (R211). (log 34 DEDUCED) -/
def Dev.hostAnswer (d : Dev) (k : Clock) (s : XchSlot) (l : XchLayer) (n : Nat) : Dev :=
  let h := d.hostOf s.slot n
  let due := if s.cores.isEmpty then h.markers.length ≥ l.g else s.cores.all (h.returned.contains ·)
  if h.answered || !due then d
  else (d.modHost s.slot n fun h => { h with units := [], answered := true }).sendStreams k l.g s.slot true h.units l.rfmt
    l.width

/-- An invocation is over on the host once it has answered, every rank's stream has ended and every XCH.RECV has retired;
rows that no XCH.RECV has collected leave their landing Pails. -/
def Dev.hostOver (d : Dev) (s : XchSlot) (l : XchLayer) (n : Nat) : Dev :=
  match d.host? s.slot n with
  | none => d
  | some h =>
    if h.answered && h.markers.length ≥ l.g && s.cores.all (h.recvd.contains ·) then
      (h.landed.foldl (fun d x => d.unland x) d).modXch fun x => { x with hosts := x.hosts.erase h }
    else d

/-- What an invocation on the host does after one of its events. -/
def Dev.hostDone (d : Dev) (k : Clock) (s : XchSlot) (l : XchLayer) (n : Nat) : Dev := (d.hostAnswer k s l n).hostOver s l n

/-! ### The sender's side (R203, R204, R206, R212, R213) -/

/-- A return of a generation is stale: the generation is not live, or no XCH.DISPATCH of the slot whose combine has not
yet retired carries it (R213). -/
def Dev.staleReturn (d : Dev) (slot gen : Nat) : Bool :=
  !d.genLive gen || !(d.xch.sends.any fun h => h.slot = slot && h.parts.any fun p =>
    p.gen = some gen && !h.combined.contains p.core)

/-- A return held in a landing Pail is dropped and counted (R213). -/
def Dev.dropLanded (d : Dev) (l : XchLayer) (x : Landed) : Dev :=
  (d.unland x).count .fabXchStale 1 (d.xchIn l x.row.rank)

/-- A copy's route for a layer, as its last CHURN.SORT of the layer left it, also in an earlier frame; K is 0 and nothing
accepted where there was none. (log 94 DESIGN CHOICE) -/
def Dev.routeFor (d : Dev) (core layer : Nat) : CopyRoute :=
  (d.xch.routes.find? fun r => r.core = core && r.layer = layer).getD ⟨core, layer, 0, 0, []⟩

/-- The records of a Pail list that a dispatch sends, rank by rank, with those it drops, one of no expert among them; and
the Pails' handles (R203, R204). (log 94 DESIGN CHOICE) -/
def Dev.dispatchRecords (d : Dev) (c : Fin 48) (e : Entry) (s : XchSlot) (l : XchLayer) :
    List (Nat × Nat) × Nat × List Nat :=
  let n := min (d.readWord c e.tda 0) l.g
  let ws := d.readWords c e.tda (4 + 4 * n)
  let k := (d.routeFor c l.layer).topk
  let my := d.rank l.g
  let each := (List.range n).map fun p =>
    let h := ws.getD (4 + 4 * p) 0
    let rank := ws.getD (5 + 4 * p) 0 % 2 ^ 14 % l.g
    let recs := (List.range (min (field (d.getPail h 4 4) 0 4) ((pailSize (hClass h) - 64) / 8))).map fun i =>
      leNat (d.getPail h (64 + 8 * i) 8)
    let bad := fun (r : Nat) => recX r ≥ l.hosts.length ||
      (s.covers (l.localIndex (recX r)) && (l.host (recX r) ≠ some rank ||
        recSlot r ≥ (match d.image with | none => 0 | some m => m.quota l.layer my (recX r)) ||
        recRow r ≥ l.tmax || recRank r ≥ k))
    let good := fun (r : Nat) => !bad r && s.covers (l.localIndex (recX r))
    (h, (recs.filter good).map fun r => (rank, r), (recs.filter bad).length)
  (each.flatMap (·.2.1), sumBy each (·.2.2), each.map (·.1))

/-- The fault that the handles of a list raise, if any: one that names no Pail of the pools is ILLEGAL_OP with cause 0x1
wherever it is used, a FREE or RETURNING Pail TILE_BOUNDS with cause 0x9 (R255, R259). -/
def Dev.listFault (d : Dev) (c : Fin 48) (e : Entry) (l : XchLayer) : Option Nat :=
  let n := min (d.readWord c e.tda 0) l.g
  let ws := d.readWords c e.tda (4 + 4 * n)
  let hs := (List.range n).map fun p => ws.getD (4 + 4 * p) 0
  if hs.any d.badHandle then some 1 else if hs.all fun h => (d.pailState h).inUse then none else some 9

/-- The work of a dispatch or a return on each engine that sends its rows (R215). -/
def Dev.rowsWork (d : Dev) (l : XchLayer) (fmt : Nat) (ranks : List Nat) : Dev :=
  ranks.foldl (fun d r => d.addWork 0xC (2 * d.xchOut l r) (rowFc fmt l.width)) d

/-- The tiles of the first `n` words of a list. -/
def listTiles (t : TileDesc) (n : Nat) : List (Nat × Nat) :=
  (List.range (ceilDiv n 4096)).map fun b =>
    let (r, q, _) := wordPlace t (4096 * b)
    (r, q)

/-- The first fault or poisoned byte that an XCH.DISPATCH meets at its queue head (R201, R203, R255, R259, R386). -/
def Dev.dispatchBad (d : Dev) (c : Fin 48) (e : Entry) (s : XchSlot) (l : XchLayer) : Option Started :=
  match d.checkTiles c [(e.tda, listTiles e.tda (4 + 4 * l.g))] [] with
  | some r => some r
  | none =>
    match d.listFault c e l with
    | some cause => some (.fault cause)
    | none => d.checkTiles c [(e.td l.srcTd, rowTiles ((d.dispatchRecords c e s l).1.map fun r => recRow r.2) l.width)] []

/-- The bytes that an XCH.DISPATCH reads cross their paths: the list and its Pails to the exchange engine of FD0, each row
to the engine that sends it (R21, R203, R215). (log 34 DEDUCED) -/
def Dev.dispatchTraffic (d : Dev) (c : Fin 48) (e : Entry) (l : XchLayer) (recs : List (Nat × Nat)) (hs : List Nat) : Dev :=
  let src := e.td l.srcTd
  let d := (listTiles e.tda (4 + 4 * hs.length)).zipIdx.foldl (fun d (p, i) =>
    match d.spaceAt c e.tda (Td.base e.tda) (tileOff e.tda p.1 p.2) (4 * min 4096 (4 + 4 * hs.length - 4096 * i)) with
    | none => d
    | some (loc, a) => d.touch (.fabric 0) loc a (4 * min 4096 (4 + 4 * hs.length - 4096 * i))) d
  let d := hs.foldl (fun d h => d.pailTraffic (.fabric 0) false h 0 (64 + 8 * field (d.getPail h 4 4) 0 4)) d
  recs.foldl (fun d r => (d.countRow c src (recRow r.2) l.width).rowTraffic (.fabric (d.xchOut l r.1)) c src false
    (recRow r.2) l.width) d

/-- Start an XCH.DISPATCH: its records are checked, by the engine of FD0, and its rows are taken for the slot's streams
(R203, R204, R215). (log 94 DESIGN CHOICE) -/
def Dev.startDispatch (d : Dev) (k : Clock) (c : Fin 48) (e : Entry) : Started :=
  match d.slotLayer e.slot with
  | none => .fault 9
  | some (s, l) =>
    match d.dispatchBad c e s l, d.invocationOf s e with
    | some r, _ => r
    | none, none => .wait
    | none, some n =>
      let (recs, bad, hs) := d.dispatchRecords c e s l
      let src := e.td l.srcTd
      let us := recs.map fun (rank, r) =>
        (⟨rank, e.gen, leBytes 8 r ++ (d.readRow c src (recRow r) l.width).toBytes l.dfmt⟩ : XchUnit)
      let d := d.modSend e.slot n fun h => { h with
        parts := h.parts ++ [⟨c.val, some e.gen, d.routeFor c l.layer, recs.map (·.2)⟩], units := h.units ++ us }
      let d := ((d.count .fabXchBadRecord bad 0).xchWork 0 (8 * hs.length)).dispatchTraffic c e l recs hs
      .go d (k.units + (us.length * rowFc l.dfmt l.width + 8 * hs.length) * 35 / 8) true

/-- The work of a predicated-off XCH instruction, as if it had executed: the rows and Pails of a dispatch, the rows of a
return (R78, R215). (log 30 DEDUCED) -/
def Dev.xchOffWork (d : Dev) (c : Fin 48) (e : Entry) : Dev :=
  match d.slotLayer e.slot with
  | none => d
  | some (s, l) =>
    match wOp e.word, d.invocationOf s e with
    | 1, _ =>
      if (d.dispatchBad c e s l).isSome then d
      else
        let (recs, _, hs) := d.dispatchRecords c e s l
        (d.addWork 0xC 0 (8 * hs.length)).rowsWork l l.dfmt (recs.map (·.1))
    | 3, some n =>
      d.rowsWork l l.rfmt (((d.hostOf s.slot n).filled.filter fun r => (s.arrival r.li).1 = c.val).map (·.row.rank))
    | _, _ => d

/-- Rows that an XCH.RECV's TDD must hold (R209). -/
def Dev.recvRows (d : Dev) (s : XchSlot) (l : XchLayer) (c : Nat) : Nat :=
  maxBy (d.coreRows s l c) fun r => r.2.2 + r.2.1

/-- Start an XCH.RECV: it is checked, and rows that landed before are moved (R208, R209). -/
def Dev.startRecv (d : Dev) (k : Clock) (c : Fin 48) (e : Entry) : Started :=
  match d.slotLayer e.slot with
  | none => .fault 9
  | some (s, l) =>
    let rows := d.recvRows s l c
    if Td.format e.tdd ≠ l.dfmt || 64 * Td.cols e.tdd < l.width then .fault 3
    else if 64 * Td.rows e.tdd < rows then .fault 8
    else match d.checkTiles c [] [(e.tdd, rowTiles (List.range rows) l.width)] with
      | some r => r
      | none =>
        match d.invocationOf s e with
        | none => .wait
        | some n =>
          let mine := fun (x : Landed) => (s.arrival (l.localIndex (recX x.row.record))).1 = c.val
          let moved := (d.hostOf e.slot n).landed.filter mine
          match d.landPoison moved (unitBytes l.dfmt l.width) with
          | some (p, a) => .poison p a
          | none =>
          let d := d.modHost e.slot n fun h => { h with
            opened := h.opened ++ [c.val], landed := h.landed.filter fun x => !mine x }
          let d := moved.foldl (fun d x =>
            let ex := recX x.row.record
            let row := (match d.image with | none => 0 | some m => m.rowBase l.layer x.row.rank ex) + recSlot x.row.record
            d.moveLanded k (d.xchIn l x.row.rank) c e ((s.arrival (l.localIndex ex)).2 + row) l.dfmt l.width x) d
          .go d k.units false

/-- Start an XCH.RETURN: every filled row of the core's experts goes to its sender (R211). -/
def Dev.startReturn (d : Dev) (k : Clock) (c : Fin 48) (e : Entry) : Started :=
  match d.slotLayer e.slot with
  | none => .fault 9
  | some (s, l) =>
    match d.invocationOf s e with
    | none => .wait
    | some n =>
      let rows := (d.hostOf e.slot n).filled.filter fun r => (s.arrival r.li).1 = c.val
      let at_ := fun (r : HostRow) => (s.arrival r.li).2 + r.k
      match d.checkTiles c [(e.tda, rowTiles (rows.map at_) l.width)] [] with
      | some r => r
      | none =>
        let us := rows.map fun r =>
          (⟨r.row.rank, r.row.gen, leBytes 8 r.row.record ++ (d.readRow c e.tda (at_ r) l.width).toBytes l.rfmt⟩ : XchUnit)
        let d := d.modHost e.slot n fun h => { h with units := h.units ++ us }
        let d := rows.foldl (fun d r => (d.countRow c e.tda (at_ r) l.width).rowTraffic (.fabric (d.xchOut l r.row.rank)) c
          e.tda false (at_ r) l.width) d
        .go d (k.units + us.length * rowFc l.rfmt l.width * 35 / 8) true

/-- Combine rows of a core's part in a slot: accepted entries in the slot's range, and for the final slot the
skipped ones (R212). -/
def SendPart.rows (p : SendPart) (s : XchSlot) (l : XchLayer) : List Nat × List Nat :=
  let r := p.route
  let acc := (r.accepted.filter fun a => s.covers (l.localIndex a.x)).map fun a => a.m * r.topk + a.j
  let all := r.accepted.map fun a => a.m * r.topk + a.j
  (acc, if s.final then (List.range (r.tokens * r.topk)).filter fun i => !all.contains i else [])

/-- The part of a core in a sender record. -/
def XchSend.part (h : XchSend) (core : Nat) : SendPart :=
  (h.parts.find? fun p => p.core = core).getD ⟨core, none, ⟨core, 0, 0, 0, []⟩, []⟩

/-- The rank that hosts the entry of a combine row, this member's own where no accepted entry owns it. -/
def SendPart.rankOf (p : SendPart) (l : XchLayer) (my row : Nat) : Nat :=
  ((p.route.accepted.find? fun a => a.m * p.route.topk + a.j = row).bind fun a => l.host a.x).getD my

/-- Write +0 into combine rows, each by the engine that receives from the row's host (R212, R213). -/
def Dev.zeroRows (d : Dev) (k : Clock) (l : XchLayer) (c : Fin 48) (e : Entry) (p : SendPart) (rows : List Nat) : Dev :=
  rows.foldl (fun d r => d.putRow k (d.xchIn l (p.rankOf l (d.rank l.g) r)) c e r l.width (zeroRow l.rfmt l.width)) d

/-- XCH.COMBINE finishes when every rank's end marker has arrived: rows not returned are written as +0
(R212). -/
def Dev.combineReady (d : Dev) (k : Clock) (s : XchSlot) (l : XchLayer) (n : Nat) (c : Fin 48) : Dev :=
  match d.xchEntry c s n 4 with
  | none => d
  | some e =>
    let h := d.sendOf s.slot n
    if h.markers.length < l.g then d
    else
      let p := h.part c
      let (acc, skipped) := p.rows s l
      let missing := acc.filter fun r => !h.done.contains (c.val, r)
      let d := d.zeroRows k l c e p (missing ++ skipped)
      let d := missing.foldl (fun d r => d.count .fabXchMissing 1 (d.xchIn l (p.rankOf l (d.rank l.g) r))) d
      d.modCore c fun x => x.updEntry e.seq fun e => { e with done := true, due := k.units }

/-- The combine row of a returned record in a part. -/
def SendPart.rowOf (p : SendPart) (record : Nat) : Nat := recRow record * p.route.topk + recRank record

/-- Start an XCH.COMBINE: checks, rows that landed before are moved; with a dead generation it writes +0 into
all its rows and retires at once (R212, R213). -/
def Dev.startCombine (d : Dev) (k : Clock) (c : Fin 48) (e : Entry) : Started :=
  match d.slotLayer e.slot with
  | none => .fault 9
  | some (s, l) =>
    let n? := d.invocationOf s e
    let p := match n? with | some n => (d.sendOf e.slot n).part c | none => ⟨c.val, none, ⟨c.val, l.layer, 0, 0, []⟩, []⟩
    let rows := l.tmax * max (d.routeFor c l.layer).topk p.route.topk
    if 64 * Td.rows e.tdd < rows then .fault 8
    else match d.checkTiles c [] [(e.tdd, rowTiles (List.range rows) l.width)] with
      | some r => r
      | none =>
        match n? with
        | none => if d.genLive e.gen then .wait else .go d k.units true
        | some n =>
          let mineRow := fun (x : Landed) => p.sent.contains x.row.record
          let moved := (d.sendOf e.slot n).landed.filter mineRow
          match if d.genLive e.gen then d.landPoison moved (unitBytes l.rfmt l.width) else none with
          | some (q, a) => .poison q a
          | none =>
          let d := d.modSend e.slot n fun h => { h with
            opened := h.opened ++ [c.val], landed := h.landed.filter fun x => !mineRow x }
          if !d.genLive e.gen then
            let (acc, skipped) := p.rows s l
            .go ((moved.foldl (fun d x => d.dropLanded l x) d).zeroRows k l c e p (acc ++ skipped)) k.units true
          else
            let d := moved.foldl (fun d x =>
              let row := p.rowOf x.row.record
              (d.moveLanded k (d.xchIn l x.row.rank) c e row l.rfmt l.width x).modSend e.slot n fun h => {
                h with done := h.done ++ [(c.val, row)] }) d
            .go d k.units false

/-- Start an XCH instruction (R91). The wait of a RECV or COMBINE may already be over: `afterXchStart`. -/
def Dev.startXch (d : Dev) (k : Clock) (c : Fin 48) (e : Entry) : Started :=
  match wOp e.word with
  | 1 => d.startDispatch k c e
  | 2 => d.startRecv k c e
  | 3 => d.startReturn k c e
  | _ => d.startCombine k c e

/-- After an XCH instruction has started: a RECV or COMBINE whose markers have all arrived is finished. -/
def Dev.afterXchStart (d : Dev) (k : Clock) (c : Fin 48) (e : Entry) : Dev :=
  match d.slotLayer e.slot with
  | none => d
  | some (s, l) =>
    match d.invocationOf s e with
    | none => d
    | some n => (d.recvReady k s l n c).combineReady k s l n c

/-- Returns held in landing Pails that have become stale are dropped, each counted once (R213). -/
def Dev.dropHeld (d : Dev) (l : XchLayer) (slot n : Nat) : Dev :=
  let h := d.sendOf slot n
  let dead := fun (x : Landed) => d.staleReturn slot x.row.gen
  let d := (h.landed.filter dead).foldl (fun d x => d.dropLanded l x) d
  d.modSend slot n fun h => { h with landed := h.landed.filter fun x => !dead x }

/-- An invocation is over on the sender's side: every core has combined and every end marker has arrived. A return that
none has taken is dropped. -/
def Dev.sendDone (d : Dev) (s : XchSlot) (l : XchLayer) (n : Nat) : Dev :=
  match d.send? s.slot n with
  | none => d
  | some h =>
    if s.senders.all (h.combined.contains ·) && h.markers.length ≥ l.g then
      (h.landed.foldl (fun d x => d.dropLanded l x) d).modXch fun x => { x with sends := x.sends.erase h }
    else d

/-- An XCH.DISPATCH of an invocation retires; with the last of the dispatch mask the streams and end markers go out
(R206). -/
def Dev.retireDispatch (d : Dev) (k : Clock) (s : XchSlot) (l : XchLayer) (c : Fin 48) (e : Entry) (n : Nat) : Dev :=
  let d := if e.on then d
    else d.modSend e.slot n fun h => { h with parts := h.parts ++ [⟨c.val, none, d.routeFor c l.layer, []⟩] }
  let d := d.modSend e.slot n fun h => { h with dispatched := h.dispatched ++ [c.val] }
  let h := d.sendOf e.slot n
  if s.senders.all (h.dispatched.contains ·) then
    (d.modSend e.slot n fun g => { g with units := [] }).sendStreams k l.g e.slot false h.units l.dfmt l.width
  else d

/-- A slot whose dispatch mask names no core waits for none: its end markers go out as its dispatch frame opens (R206).
(log 34 DEDUCED) -/
def Dev.markEmptySlots (d : Dev) (k : Clock) : Dev :=
  match d.image.bind fun m => m.form.xch with
  | none => d
  | some p => (p.slots.filter fun s => s.senders.isEmpty && s.frameSlot = d.frame.slot).foldl (fun d s =>
      match d.slotLayer s.slot with
      | none => d
      | some (_, l) => d.sendStreams k l.g s.slot false [] l.dfmt l.width) d

/-- The Pails of the list of a layer's final slot are freed as its XCH.DISPATCH retires (R207). -/
def Dev.freeList (d : Dev) (c : Fin 48) (e : Entry) (s : XchSlot) (l : XchLayer) : Dev :=
  if e.on && s.final then
    let hs := (d.dispatchRecords c e s l).2.2
    if hs.isEmpty then d else d.request c (.dispatch e.seq hs)
  else d

/-- The effect of an XCH instruction's retirement, predicated off or not (R206, R207, R211). -/
def Dev.retireXch (d : Dev) (k : Clock) (c : Fin 48) (e : Entry) : Dev :=
  match d.slotLayer e.slot with
  | none => d
  | some (s, l) =>
    match wOp e.word, d.invocationOf s e with
    | 1, some n => (((d.retireDispatch k s l c e n).freeList c e s l).notePailWait k)
    | 2, some n => (d.modHost e.slot n fun h => { h with recvd := h.recvd ++ [c.val] }).hostOver s l n
    | 3, some n => (d.modHost e.slot n fun h => { h with returned := h.returned ++ [c.val] }).hostDone k s l n
    | 4, some n => ((d.modSend e.slot n fun h => { h with combined := h.combined ++ [c.val] }).dropHeld l e.slot n).sendDone
        s l n
    | _, _ => d

/-! ### Arriving streams (R208, R212, R322) -/

/-- The rank of a member node in this member's group, none for a node outside it. -/
def Dev.rankOfNode (d : Dev) (g node : Nat) : Option Nat :=
  let i := node - d.rd .jobBaseNode
  if node < d.rd .jobBaseNode || i ≥ d.rd .jobMemberCount || i / g ≠ d.rd .jobMemberIndex / g then none
  else some (i % g)

/-- The bytes kept of a sender's stream for a slot: none of an earlier stream whose end marker was lost. -/
def Dev.partialOf (d : Dev) (node : Nat) (ret : Bool) (slot : Nat) : Partial :=
  (d.xch.partials.find? fun q => q.node = node && q.ret = ret && q.slot = slot).getD ⟨node, ret, slot, 0, []⟩

/-- Replace the bytes kept of a sender's stream. -/
def Dev.setPartial (d : Dev) (q : Partial) : Dev :=
  let rest := d.xch.partials.filter fun p => !(p.node = q.node && p.ret = q.ret)
  d.modXch fun x => { x with partials := if q.bytes.isEmpty then rest else rest ++ [q] }

/-- Cut whole units off a byte list while more than `keep` bytes stay: the padding of a last packet is less
than 64 bytes. Answers the units and the rest. (log 34 DEDUCED) -/
def cutUnits (unit keep : Nat) : Nat → List Byte → List (List Byte) × List Byte
  | 0, bs => ([], bs)
  | n + 1, bs =>
    if unit = 0 || bs.length < unit + keep then ([], bs)
    else
      let (us, rest) := cutUnits unit keep n (bs.drop unit)
      (bs.take unit :: us, rest)

/-- One returned unit: stale ones are dropped; the others go to the row that their record names, of the core that sent the
record, or to a landing Pail before its XCH.COMBINE is released (R212, R213). -/
def Dev.returnUnit (d : Dev) (k : Clock) (s : XchSlot) (l : XchLayer) (rank gen : Nat) (bs : List Byte) : Dev :=
  let fd := d.xchIn l rank
  let n := d.streamOf s.slot rank true
  let record := field bs 0 8
  let d := (d.count .fabXchRowsIn 1 fd).xchWork fd (rowFc l.rfmt l.width)
  let d := d.modSend s.slot n fun h => { h with seen := Sparse.set h.seen 0 rank (Sparse.get h.seen 0 rank + 1) }
  let h := d.sendOf s.slot n
  let owner := h.parts.find? fun p => !h.combined.contains p.core && p.sent.contains record
  match if d.staleReturn s.slot gen then none else owner with
  | none => d.count .fabXchStale 1 fd
  | some p =>
    let c : Fin 48 := Fin.ofNat 48 p.core
    if h.opened.contains p.core then
      match d.xchEntry c s n 4 with
      | none => d
      | some e => (d.putRow k fd c e (p.rowOf record) l.width (rowOfBytes l.rfmt l.width (bs.drop 8))).modSend s.slot n
          fun h => { h with done := h.done ++ [(p.core, p.rowOf record)] }
    else match d.land fd s.slot true (unitBytes l.rfmt l.width) bs with
      | none => d.pailFault k 0x82 0x3F (match d.image.bind fun m => m.form.pail with | none => 0 | some p => p.land) 0 0
      | some (hd, off, d) =>
        (d.modSend s.slot n fun h => { h with landed := h.landed ++ [⟨⟨record, rank, gen⟩, hd, off⟩] }).count
          .fabXchLanded 1 fd

/-- The exchange takes packets of the running job from members of its group. -/
def Dev.xchTakes (d : Dev) (p : Packet) : Option (XchSlot × XchLayer × Nat) :=
  if d.job.phase = .running && p.key = d.jobKey then
    (d.slotLayer p.slotOf).bind fun (s, l) => (d.rankOfNode l.g p.src.toNat).map fun r => (s, l, r)
  else none

/-- Take a stream packet: whole units are handed on as far as they cannot be padding. (log 34 DEDUCED) -/
def Dev.takeStream (d : Dev) (k : Clock) (s : XchSlot) (l : XchLayer) (rank : Nat) (ret : Bool) (p : Packet) : Dev :=
  let unit := if ret then unitBytes l.rfmt l.width else unitBytes l.dfmt l.width
  let q := d.partialOf p.src.toNat ret s.slot
  let bs := q.bytes ++ p.payload
  let (us, rest) := cutUnits unit 63 (bs.length + 1) bs
  let first := if q.bytes.isEmpty then p.genOf else q.gen
  let d := us.zipIdx.foldl (fun d (u, i) =>
    let g := if i = 0 then first else p.genOf
    if ret then d.returnUnit k s l rank g u else d.deliverUnit k s l rank g u) d
  d.setPartial ⟨p.src.toNat, ret, s.slot, if us.isEmpty then first else p.genOf, rest⟩

/-- The rest of a stream at its end marker, up to the rows it announces. (log 34 DEDUCED) -/
def Dev.endStream (d : Dev) (k : Clock) (s : XchSlot) (l : XchLayer) (rank : Nat) (ret : Bool) (p : Packet) : Dev :=
  let unit := if ret then unitBytes l.rfmt l.width else unitBytes l.dfmt l.width
  let n := field p.payload 0 4
  let i := d.streamOf s.slot rank ret
  let seen := Sparse.get (if ret then (d.sendOf s.slot i).seen else (d.hostOf s.slot i).seen) 0 rank
  let q := d.partialOf p.src.toNat ret s.slot
  let (us, _) := cutUnits unit 0 (n - seen) q.bytes
  let d := us.foldl (fun d u => if ret then d.returnUnit k s l rank q.gen u else d.deliverUnit k s l rank q.gen u) d
  d.setPartial ⟨p.src.toNat, ret, s.slot, 0, []⟩

/-- DELIVERY_STREAM: the rows of a delivery stream packet are written or landed (R208, R210, R322). -/
def execDeliveryStream (p : Packet) (s : State) : Result :=
  s.now fun k d =>
    match d.xchTakes p with
    | some (sl, l, r) => if p.op = 0x20 then some (d.takeStream k sl l r false p) else none
    | none => none

/-- DELIVERY_END_MARKER: a rank's stream for a slot invocation is complete (R209). -/
def execDeliveryEndMarker (p : Packet) (s : State) : Result :=
  s.now fun k d =>
    match d.xchTakes p with
    | some (sl, l, r) =>
      if p.op = 0x21 then
        let d := d.endStream k sl l r false p
        let d := d.xchWork (d.xchInDie p.src.toNat) 8
        let n := d.streamOf sl.slot r false
        let d := (d.modHost sl.slot n fun h => { h with markers := h.markers ++ [r] }).endMark sl.slot r false
        some ((d.recvAll k sl l n).hostDone k sl l n)
      else none
    | none => none

/-- RETURN_STREAM: the rows of a return stream packet are combined, landed or dropped (R212, R213). -/
def execReturnStream (p : Packet) (s : State) : Result :=
  s.now fun k d =>
    match d.xchTakes p with
    | some (sl, l, r) => if p.op = 0xA0 then some (d.takeStream k sl l r true p) else none
    | none => none

/-- RETURN_END_MARKER: a host's return stream for a slot invocation is complete (R212). -/
def execReturnEndMarker (p : Packet) (s : State) : Result :=
  s.now fun k d =>
    match d.xchTakes p with
    | some (sl, l, r) =>
      if p.op = 0xA1 then
        let d := d.endStream k sl l r true p
        let d := d.xchWork (d.xchInDie p.src.toNat) 8
        let n := d.streamOf sl.slot r true
        let d := (d.modSend sl.slot n fun h => { h with markers := h.markers ++ [r] }).endMark sl.slot r true
        let d := sl.senders.foldl (fun d c => d.combineReady k sl l n (Fin.ofNat 48 c)) d
        some (d.sendDone sl l n)
      else none
    | none => none

/-- At a frame open, returns held in landing Pails under a generation that is no longer live are dropped
(R213). -/
def Dev.dropStale (d : Dev) : Dev :=
  let dead := fun (x : Landed) => !d.genLive x.row.gen
  let gone := d.xch.sends.flatMap fun h => (h.landed.filter dead).map fun x => (h.slot, x)
  let d := gone.foldl (fun d (slot, x) =>
    let l := (d.slotLayer slot).map (·.2)
    (d.unland x).count .fabXchStale 1 (match l with | none => 0 | some l => d.xchIn l x.row.rank)) d
  d.modXch fun x => { x with sends := x.sends.map fun h => { h with landed := h.landed.filter fun y => !dead y } }

/-- Every core of a sent slot has combined (R214). -/
def Dev.sendReturned (d : Dev) (h : XchSend) : Bool :=
  match d.slotLayer h.slot with
  | none => true
  | some (s, _) => s.senders.all (h.combined.contains ·)

/-- An invocation is reserved for the running frame or an earlier one, and not returned (R214). -/
def Dev.sendOpen (d : Dev) (h : XchSend) : Bool :=
  match d.slotLayer h.slot with
  | none => false
  | some (s, _) => d.arrivalFrame s h.n ≤ d.frame.number && !d.sendReturned h

/-- Every slot reserved for the frame has been returned (R41, R214). A slot that is not carried belongs to its
dispatch frame, a carried one to the frame after. (log 34 DEDUCED) -/
def Dev.slotsReturned (d : Dev) : Bool := !(d.xch.sends.any d.sendOpen)

/-! ### Engines that are busy (R43, R205) -/

/-- Ranks of a group whose end marker has not come. -/
def awaited (g : Nat) (markers : List Nat) : List Nat := (List.range g).filter fun r => !markers.contains r

/-- The exchange engines that an XCH instruction keeps busy: those that send for it, or those that have yet to receive for
it (R43, R205). -/
def Dev.xchEngines (d : Dev) (e : Entry) : List Nat :=
  match d.slotLayer e.slot with
  | none => []
  | some (s, l) =>
    let n := (d.invocationOf s e).getD 0
    (match wOp e.word with
    | 2 => (awaited l.g (d.hostOf e.slot n).markers).map (d.xchIn l)
    | 4 => (awaited l.g (d.sendOf e.slot n).markers).map (d.xchIn l)
    | _ => (List.range l.g).map (d.xchOut l)).map fun fd => 0xC00 + 2 * fd

/-- The exchange engines that have yet to receive for an invocation that has not been returned. -/
def Dev.openEngines (d : Dev) : List Nat :=
  (d.xch.sends.filter d.sendOpen).flatMap fun h =>
    match d.slotLayer h.slot with
    | none => []
    | some (_, l) => (awaited l.g h.markers).map fun r => 0xC00 + 2 * d.xchIn l r

end Sys2Proof.Machine
end

