-- ==== Sys2Proof/Machine/Herd.lean ====
section
/-! DEFINITION. The herd builder: intake records, collection, work list, generations and output ring
(R232 to R248). -/

namespace Sys2Proof.Machine

open Sys2Proof

/-! ### Faults of the TICK unit -/

/-- Record a fault of the TICK block and raise it (Table TICK-16). (log 55 DEDUCED) -/
def Dev.tickFault (d : Dev) (k : Clock) (code cause engine : Nat) : Dev :=
  let d' := ((d.wr .tickFaultCode code).wr .tickFaultCause cause).wr .tickFaultEngine engine
  let held := if d.rd .jobStateFault / 16 = 6 then d.rd .jobStateFault else 0
  (if d.job.phase ≠ .faulted || d.supersedes k held code then d' else d).runFault k code cause engine 0

/-- FRAME_OVERRUN (R36, R43, R74, R247). -/
def Dev.overrun (d : Dev) (k : Clock) (cause engine : Nat) : Dev :=
  (d.flag .tickEvOverrun).tickFault k 0x60 cause engine

/-! ### Records -/

/-- Change the herd builder. -/
def Dev.modHerd (d : Dev) (f : Herd → Herd) : Dev := { d with herd := f d.herd }

/-- An output record (Table HERD-7). (log 40 DEDUCED) -/
def outRecord (id kind reason slot token pos frame : Nat) : List Byte :=
  leBytes 8 id ++ leBytes 1 kind ++ leBytes 1 reason ++ leBytes 2 slot ++ leBytes 4 token ++ leBytes 4 pos ++
    leBytes 4 0 ++ leBytes 8 frame

/-- Add an output record to those of this open; `none` is a field that its kind gives no content. (log 40 DEDUCED) -/
def Dev.emit (d : Dev) (id kind reason : Nat) (slot token pos : Option Nat) : Dev :=
  let n := d.frame.number
  let d := d.modHerd fun h => { h with opening := h.opening.map fun o =>
    let open_ := fun (i : Nat) (v : Option Nat) => v.getD (Config.recordField n o.recs.length i)
    { o with recs := o.recs ++ [outRecord id kind reason (open_ 0 slot) (open_ 1 token) (open_ 2 pos) n] } }
  match kind with
  | 2 => d.bump .jobHerdFinished
  | 4 => d.bump .jobHerdRejects
  | _ => d

/-- The object of a slot is no longer held by a listing (R244). -/
def Dev.unlist (d : Dev) (kv : Nat) : Dev := d.modObj kv fun o => { o with listed := false }

/-- Ask for the promotion of a KV object to tier 1 (R244, R280). (log 37 DEDUCED) -/
def Dev.herdPromote (d : Dev) (kv : Nat) : Dev := d.modTier fun t => { t with herd := t.herd ++ [kv] }

/-! ### Rows -/

/-- Tiles of one core's rows. -/
def HerdPart.tiles (p : HerdPart) : Nat := ceilDiv p.b 64

/-- Core and row of the work list's `i`-th row in chain order (R238). -/
def HerdPart.place (p : HerdPart) (i : Nat) : Fin 48 × Nat :=
  (coreOf (chainDie (i / (4 * p.b))) (Fin.ofNat 4 (i / p.b % 4)), i % p.b)

/-- The offset of a row within its core's tiles. -/
def rowOffset (m : Nat) : Nat := m / 64 * 16384 + m % 64 * 256

/-- Word `w` of a row of the result area for batch `k` (R242). -/
def Dev.resultWord (d : Dev) (p : HerdPart) (k : Nat) (r : HerdRow) (w : Nat) : Nat :=
  leNat (d.hbmRead (p.result + (4 * r.core + k % 4) * p.tiles * 16384 + rowOffset r.row + 4 * w) 4)

/-! ### Collection (R239) -/

/-- Collect one slot's rows, at its last row. -/
def Dev.collectSlot (d : Dev) (p : HerdPart) (k : Nat) (last : HerdRow) (rows : Nat) : Dev :=
  let x := d.slot p last.slot
  let d := d.unlist x.kv
  if x.state = 4 then d.setSlot p last.slot { x with state := 0, outstanding := false }
  else
    let x := { x with pos := x.pos + rows, outstanding := false }
    let valid := bitAt (d.resultWord p k last 1) 0
    let token := d.resultWord p k last 0
    let free := fun (d : Dev) (x : HerdSlot) (reason : Nat) =>
      (d.setSlot p last.slot { x with state := 0 }).emit x.id 2 reason (some last.slot) none none
    if last.emits && !valid then free d x 4
    else
      let x := if last.emits then { x with emitted := x.emitted + 1, last := token } else x
      let d := if last.emits then d.emit x.id 1 0 (some last.slot) (some token) (some x.pos) else d
      if last.emits && x.stops.any fun t => t ≠ 0xFFFFFFFF && t = token then free d x 1
      else if x.emitted ≥ x.maxNew then free d x 2
      else if x.pos ≥ x.maxPos then free d x 3
      else d.setSlot p last.slot (if x.state = 1 && x.pos ≥ x.prompt then { x with state := 2 } else x)

/-- Collect a batch, slot by slot in row order (R239). -/
def Dev.collectBatch (d : Dev) (p : HerdPart) (b : HerdBatch) : Dev :=
  let slots := (b.rows.map fun r => r.slot).eraseDups
  slots.foldl (fun d i =>
    let mine := b.rows.filter fun r => r.slot = i
    match mine.getLast? with
    | none => d
    | some r => d.collectSlot p b.frame r mine.length) d

/-- Collect the batch of a frame, if it was listed. -/
def Dev.collectFrame (d : Dev) (p : HerdPart) (k : Nat) : Dev :=
  match d.herd.batches.find? fun b => b.frame = k with
  | none => d
  | some b =>
    let d := d.collectBatch p b
    d.modHerd fun h => { h with
      batches := h.batches.filter fun b => b.frame ≠ k
      opening := h.opening.map fun o => { o with collected := o.collected + b.rows.length } }

/-! ### Generations (R243) -/

/-- Batch `k`'s generation is retired. -/
def Dev.retireGen (d : Dev) (k : Nat) : Dev :=
  { d with xch := { d.xch with live := d.xch.live.map fun l => l.filter fun g => g ≠ k % 65536 } }

/-- The generations that end at the open of frame `k` end, and that of frame `k` begins. -/
def Dev.generations (d : Dev) (p : HerdPart) (k : Nat) : Dev :=
  let d := if p.d ≤ k then d.retireGen (k - p.d) else d
  let early := p.d = 2 && 1 ≤ k && match d.herd.batches.find? fun b => b.frame + 1 = k with
    | none => false
    | some b => b.rows.all fun r => let s := (d.slot p r.slot).state; s = 0 || s = 4
  let d := if early then (d.bump .jobHerdEarlyRetire).retireGen (k - 1) else d
  let d := { d with xch := { d.xch with live := d.xch.live.map fun l => l ++ [k % 65536] } }
  d.dropStale

/-! ### The work list (R238, R240) -/

/-- The slot may be listed (R238, R244). -/
def Dev.eligible (d : Dev) (x : HerdSlot) : Bool :=
  (x.state = 1 || x.state = 2) && !x.outstanding &&
    match d.tier.objs[x.kv]? with
    | none => false
    | some o => o.tier = 1 && o.move.isNone

/-- The words of a row (Table HERD-6). -/
def Dev.workRow (d : Dev) (x : HerdSlot) (slot idx : Nat) (emits : Bool) : List Nat :=
  let pos := x.pos + idx
  let token := if x.state = 2 then x.last else leNat (d.hbmRead (x.promptAt + 4 * pos) 4)
  let off := match d.tier.objs[x.kv]? with | none => 0 | some o => 2 ^ 43 + o.first * 2 ^ 21
  [(x.id % 2 ^ 32) ^^^ pos, token, pos, slot,
    emits.toNat + (if x.state = 1 then 2 else 0) + (if idx = 0 then 4 else 0), off % 2 ^ 32, off / 2 ^ 32, idx]

/-- The rows of one slot from row `at_` on, at most `room`: one past its prompt, else those of its next chunk. -/
def HerdPart.slotRows (p : HerdPart) (slot : Nat) (x : HerdSlot) (at_ room : Nat) : List HerdRow :=
  let decode := x.prompt ≤ x.pos
  let n := if decode then min 1 room else min (x.prompt - x.pos) (min p.chunk room)
  (List.range n).map fun i =>
    let (c, m) := p.place (at_ + i)
    ⟨c.val, m, slot, x.pos + i, decode || x.pos + i + 1 = x.prompt⟩

/-- Fill the rows with slots in order; the slots that find none are counted. -/
def HerdPart.fillRows (p : HerdPart) : List (Nat × HerdSlot) → Nat → List HerdRow × Nat
  | [], _ => ([], 0)
  | (i, x) :: rest, at_ =>
    let rows := p.slotRows i x at_ (48 * p.b - at_)
    let (more, w) := p.fillRows rest (at_ + rows.length)
    (rows ++ more, if rows.isEmpty then w + 1 else w)

/-- Slots in the order in which they are listed: ascending age stamp. -/
def byAge (l : List (Nat × HerdSlot)) : List (Nat × HerdSlot) := l.mergeSort fun a b => a.2.age ≤ b.2.age

/-- The work list row that a listed row holds. -/
def Dev.rowWords (d : Dev) (p : HerdPart) (r : HerdRow) : List Nat :=
  let x := d.slot p r.slot
  d.workRow x r.slot (r.pos - x.pos) r.emits

/-- Write one die's work list region; the bytes between the headers and the tiles are zero (R240). (log 39 DEDUCED) -/
def Dev.writeRegion (d : Dev) (p : HerdPart) (k : Nat) (rows : List (HerdRow × List Nat)) (x : Fin 12) : Dev :=
  let len := 16384 + 4 * p.tiles * 16384
  let heads := (List.finRange 4).flatMap fun i =>
    let n := (rows.filter fun r => r.1.core = (coreOf x i).val).length
    leBytes 4 n ++ leBytes 4 (k % 65536) ++ leBytes 8 k ++ List.replicate 48 0
  let m := ((d.mem.die[x]).clear p.workList len).writeN p.workList heads
  let m := (rows.filter fun r => r.1.core / 4 = x.val).foldl (fun m r =>
    m.writeN (p.workList + 16384 + r.1.core % 4 * p.tiles * 16384 + rowOffset r.1.row) (r.2.flatMap (leBytes 4))) m
  let dead := fun (a : Nat) => a / 2 ^ 26 = x.val && p.workList ≤ a % 2 ^ 26 && a % 2 ^ 26 < p.workList + len
  let d := if d.twin.who.isNone then d else d.noteWrite 1 x 0 p.workList (m.readN p.workList len)
  let d := { d with mem := { d.mem with
    die := d.mem.die.set x m, poisonDie := d.mem.poisonDie.filter fun a => !dead a } }
  d.touchW (.hub 0) (.die x) p.workList len

/-- Build the work list of batch `k` (R238, R240, R244): answers the rows listed. -/
def Dev.buildList (d : Dev) (p : HerdPart) (k : Nat) : Dev × Nat :=
  let (rows, waiting) := p.fillRows (byAge ((d.usedSlots p).filter fun x => d.eligible x.2)) 0
  let words := rows.map fun r => (r, d.rowWords p r)
  let d := ((rows.map fun r => r.slot).eraseDups).foldl (fun d i =>
    let x := d.slot p i
    (d.setSlot p i { x with outstanding := true, gen := k % 65536 }).modObj x.kv fun o =>
      { o with listed := true, stamp := k }) d
  let d := (List.finRange 12).foldl (fun d x => d.hashed 0xE00 d.frame.number fun d => d.writeRegion p k words x) d
  let d := (d.wr .jobHerdListed (min rows.length 65535)).wr .jobHerdWaiting waiting
  (d.modHerd fun h => { h with batches := h.batches ++ [⟨k, rows⟩] }, rows.length)

/-! ### Output (R245, R246) -/

/-- Write to host memory, or count what Bus Master Enable drops (R454). -/
def Dev.hostWrite (d : Dev) (a : Nat) (bs : List Byte) : Dev :=
  if d.host.bme then d.hostPut a bs else d.count .hostifBmDrop

/-- Write the output records that find room, then the producer index, then, if a record was written, the MSI-X
vector (R245). -/
def Dev.writeOutput (d : Dev) (p : HerdPart) (recs : List (List Byte)) (outCons : Nat) : Dev :=
  let prod := d.herd.outProd
  let room := p.outEntries - (prod + 2 ^ 32 - outCons) % 2 ^ 32
  let now := recs.take room
  let d := d.wr .jobHerdOutLost (min (recs.length - now.length) 65535)
  let d := (now.zipIdx).foldl (fun d (r, i) =>
    d.hostWrite (p.outRing + 64 + 32 * ((prod + i) % p.outEntries)) r) d
  let prod := (prod + now.length) % 2 ^ 32
  let d := (d.hostWrite p.outRing (leBytes 4 prod)).modHerd fun h => { h with outProd := prod }
  if now.isEmpty then d else d.raiseVector p.vector

/-! ### Intake (R236) -/

/-- The slot that a sequence id is in use by. -/
def Dev.slotOfId (d : Dev) (p : HerdPart) (id : Nat) : Option (Nat × HerdSlot) := (d.usedSlots p).find? fun x => x.2.id = id

/-- The lowest FREE slot. -/
def Dev.freeSlot (d : Dev) (p : HerdPart) : Option Nat :=
  (lowestOutside 16384 ((d.usedSlots p).map fun x => x.1) 0 1).head?

/-- Take the front record off the list. -/
def Dev.popRecord (d : Dev) : Dev :=
  d.modHerd fun h => { h with opening := h.opening.map fun o => { o with todo := o.todo.tail } }

/-- Replace the front record, part of which has been done. -/
def Dev.putRecord (d : Dev) (r : List Byte) : Dev :=
  d.modHerd fun h => { h with opening := h.opening.map fun o => { o with todo := r :: o.todo.tail } }

/-- Reject the front record. -/
def Dev.rejectRecord (d : Dev) (r : List Byte) (reason : Nat) : Dev :=
  (d.emit (field r 8 8) 4 reason (some 0xFFFF) (some (field r 0 1)) none).popRecord

/-- Cancel a slot: FREE, or CLOSING where its result is outstanding. -/
def Dev.cancelSlot (d : Dev) (p : HerdPart) (i : Nat) (x : HerdSlot) : Dev :=
  (d.setSlot p i { x with state := if x.outstanding then 4 else 0 }).bump .jobHerdCancels

/-- Why an ADD is rejected, if it is (Tables HERD-5 and HERD-8). -/
def Dev.addReason (d : Dev) (p : HerdPart) (r : List Byte) : Option Nat :=
  let kv := field r 24 4
  if (d.freeSlot p).isNone then some 1
  else if (d.slotOfId p (field r 8 8)).isSome then some 2
  else if kv < p.kvFirst || kv ≥ p.kvFirst + p.kvCount then some 4
  else if (d.usedSlots p).any fun x => x.2.kv = kv then some 5
  else if field r 4 4 < 1 || field r 4 4 > 1048576 || field r 16 8 % 64 ≠ 0 || field r 28 4 < 1 then some 6
  else none

/-- ADD (Table HERD-5). -/
def Dev.addRecord (d : Dev) (p : HerdPart) (r : List Byte) : Dev :=
  match d.addReason p r, d.freeSlot p with
  | some n, _ => d.rejectRecord r n
  | none, some i =>
    let x : HerdSlot := {
      id := field r 8 8, state := 1, outstanding := false, gen := 0, pos := 0, prompt := field r 4 4
      kv := field r 24 4, age := d.herd.age, promptAt := field r 16 8, maxNew := field r 28 4, emitted := 0
      maxPos := field r 32 4, last := 0
      stops := [field r 36 4, field r 40 4, field r 44 4, field r 48 4] }
    let d := (d.setSlot p i x).modHerd fun h => { h with age := (h.age + 1) % 2 ^ 48 }
    ((d.bump .jobHerdAdds).herdPromote x.kv).popRecord
  | none, none => d.rejectRecord r 1

/-- Why a CHANGE is rejected, if it is. -/
def Dev.changeReason (d : Dev) (p : HerdPart) (r : List Byte) : Option Nat :=
  let f := field r 1 1
  match d.slotOfId p (field r 8 8) with
  | none => some 3
  | some (_, x) => if (bitAt f 1 && bitAt f 2) || (bitAt f 2 && x.state ≠ 3) then some 6 else none

/-- Do the part of a CHANGE that flag `n` asks for; the record is done when no flag is left. (log 39 DEDUCED) -/
def Dev.changePart (d : Dev) (p : HerdPart) (r : List Byte) (n : Nat) : Dev :=
  match d.changeReason p r, d.slotOfId p (field r 8 8) with
  | some reason, _ => d.rejectRecord r reason
  | none, none => d.rejectRecord r 3
  | none, some (i, x) =>
    let d := match n with
      | 0 => d.setSlot p i { x with
          maxNew := field r 28 4, maxPos := field r 32 4
          stops := [field r 36 4, field r 40 4, field r 44 4, field r 48 4] }
      | 1 => d.setSlot p i { x with state := if x.state = 4 then 4 else 3 }
      | _ => (d.setSlot p i { x with state := if x.pos < x.prompt then 1 else 2 }).herdPromote x.kv
    let f := field r 1 1 - 2 ^ n
    if f % 8 = 0 then (d.emit x.id 5 0 (some i) none none).popRecord
    else d.putRecord (r.take 1 ++ leBytes 1 f ++ r.drop 2)

/-! ### The open procedure (R237) -/

/-- The results that collecting a batch reads (R239). -/
def HerdPart.resultReads (p : HerdPart) (b : HerdBatch) : List (Nat × Nat) :=
  (b.rows.filter fun r => r.emits).map fun r =>
    (p.result + (4 * r.core + b.frame % 4) * p.tiles * 16384 + rowOffset r.row, 8)

/-- Device HBM that the herd builder reads before it lists: the ring's header and records, the slots in use, and the
results of the batch that it collects (R235, R236, R239). -/
def Dev.herdReads (d : Dev) (p : HerdPart) (records : List Nat) : List (Nat × Nat) :=
  [(p.intake, 64)] ++ records.map (fun a => (a, 64)) ++ (d.usedSlots p).map (fun x => (p.table + 128 * x.1, 128)) ++
    (d.herd.batches.filter fun b => b.frame + p.d = d.frame.number).flatMap p.resultReads

/-- What the drain reads: the ring's header, the slots in use and the results of the batches that are complete (R248). -/
def Dev.drainReads (d : Dev) (p : HerdPart) (ready : List HerdBatch) : List (Nat × Nat) :=
  [(p.intake, 64)] ++ (d.usedSlots p).map (fun x => (p.table + 128 * x.1, 128)) ++ ready.flatMap p.resultReads

/-- The prompt tokens that the work list of this open takes from device HBM (Table HERD-6). -/
def Dev.promptReads (d : Dev) (p : HerdPart) : List (Nat × Nat) :=
  ((p.fillRows (byAge ((d.usedSlots p).filter fun x => d.eligible x.2)) 0).1).filterMap fun r =>
    let x := d.slot p r.slot
    if x.state = 1 then some (x.promptAt + 4 * r.pos, 4) else none

/-- The first poisoned byte of some ranges of device HBM. -/
def Dev.poisonIn (d : Dev) (rs : List (Nat × Nat)) : Option (Loc × Nat) :=
  rs.findSome? fun r => d.poisonAt .hbm r.1 r.2

/-- On entry to DRAINING every batch whose results are complete is collected, without intake, and the records
are written (R248). It is no open: the counts of the last one stay (R249). The open of the stop frame ends first, and while its stream holds the
builder the collection waits (R248, R380). Its writes stand in the frame that would have collected, the one behind the stop
frame. A poisoned byte is a run fault (R386). (log 49 DESIGN CHOICE) -/
def Dev.herdDrain (d : Dev) (k : Clock) : Dev :=
  match d.herdPart with
  | none => d
  | some p =>
    if d.herd.opening.isSome || d.herd.waits then d.modHerd fun h => { h with drains := true }
    else if d.lsHolds 0xE00 then (d.modHerd fun h => { h with drains := true }).lsHoldFrom k 0xE00
    else
    let d := d.modHerd fun h => { h with drains := false }
    let ready := d.herd.batches.filter fun b => b.frame + p.d ≤ d.frame.number + 1
    match d.poisonIn (d.drainReads p ready) with
    | some (l, a) => d.poisonFault k l a 0xE00
    | none =>
    let cons := leNat (d.hbmRead (p.intake + 8) 4)
    let noted := d.twin.log.length
    let lost := d.rd .jobHerdOutLost
    let done := d.rd .jobHerdFinished
    let d := (d.herdTouch (d.drainReads p ready)).modHerd fun h => { h with opening := some ⟨[], 0, 0, [], cons⟩ }
    let d := ready.foldl (fun d b => d.collectFrame p b.frame) d
    let recs := match d.herd.opening with | some o => o.recs | none => []
    let e := (d.writeOutput p recs cons).modHerd fun h => { h with opening := none }
    let late := (e.twin.log.drop noted).map fun w => { w with frame := d.frame.number + 1 }
    let e := e.modTwin fun t => { t with log := t.log.take noted ++ late }
    ((e.wr .jobHerdOutLost lost).wr .jobHerdFinished done).lsStep k

/-- Once the last record has been taken: generations, work list, output, and the TIER engine's open; then the collection
of a drain that has waited for it (R237, R247, R248, R279). (log 39 DEDUCED) -/
def Dev.herdFinish (d : Dev) (k : Clock) (p : HerdPart) (o : HerdOpen) : Dev :=
  let n := d.frame.number
  let d := d.generations p n
  match d.poisonIn (d.promptReads p) with
  | some (l, a) => (d.modHerd fun h => { h with opening := none }).poisonFault k l a 0xE00
  | none =>
  let (d, listed) := (d.herdTouch (d.promptReads p)).buildList p n
  let d := d.writeOutput p o.recs o.outCons
  let cc := 1024 + 6 * o.taken + 4 * o.collected + 3 * listed
  let d := d.addWork 0xE 0 cc
  let took := max (ceilDiv (cc * 10) 7) (k.count - d.frame.boundary)
  let d := (d.wr .jobHerdBuild took).modHerd fun h => { h with opening := none, built := some n }
  let d := d.tierOpen k
  (if d.herd.drains then d.herdDrain k else d).lsStep k

/-- Records that no command of the table takes are taken at once: unknown kinds, and a CHANGE without flags. After the
last one the work list is built, unless its stream holds the builder (R380).
(log 39 DEDUCED) -/
def Dev.herdAdvance (k : Clock) (p : HerdPart) : Nat → Dev → Dev
  | 0, d => d
  | n + 1, d =>
    match d.herd.opening with
    | none => d
    | some o =>
      match o.todo with
      | [] => if d.lsHolds 0xE00 then d.lsHoldFrom k 0xE00 else d.herdFinish k p o
      | r :: _ =>
        let kind := field r 0 1
        if kind = 0 || 4 < kind then (d.rejectRecord r 6).herdAdvance k p n
        else if kind = 3 && field r 1 1 % 8 = 0 then
          (match d.slotOfId p (field r 8 8) with
            | none => d.rejectRecord r 3
            | some (i, x) => (d.emit x.id 5 0 (some i) none none).popRecord).herdAdvance k p n
        else d

/-- The herd builder's part of a frame open, up to the first record that a command takes (R235, R237). While its stream
holds the builder it waits before its first write (R380). (log 39 DEDUCED) -/
def Dev.herdBegin (d : Dev) (k : Clock) (p : HerdPart) : Dev :=
  if d.lsHolds 0xE00 then (d.modHerd fun h => { h with waits := true }).lsHoldFrom k 0xE00 else
  let d := d.modHerd fun h => { h with waits := false }
  let n := d.frame.number
  let head := d.hbmRead p.intake 64
  let prod := field head 0 4
  let cons := d.herd.inCons
  let ahead := (prod + 2 ^ 32 - cons) % 2 ^ 32
  let spill := ahead > p.intakeEntries
  let count := min (if spill then p.intakeEntries else ahead) p.imax
  let d := [Fld.jobHerdAdds, .jobHerdRejects, .jobHerdCancels, .jobHerdFinished, .jobHerdEarlyRetire].foldl
    (fun d f => d.wr f 0) d
  let d := d.wr .jobHerdInOver (if spill then 1 else 0)
  let at_ := (List.range count).map fun i => p.intake + 64 + 64 * ((cons + i) % p.intakeEntries)
  match d.poisonIn (d.herdReads p at_) with
  | some (l, a) => d.poisonFault k l a 0xE00
  | none =>
  let recs := at_.map fun a => d.hbmRead a 64
  let d := (d.herdTouch (d.herdReads p at_)).modHerd fun h => { h with
    opening := some ⟨recs, count, 0, [], field head 8 4⟩, inCons := (cons + count) % 2 ^ 32 }
  let d := d.herdWrite (p.intake + 4) (leBytes 4 ((cons + count) % 2 ^ 32))
  let d := d.snap.lost.foldl (fun d x => d.emit x.2 3 0 (some x.1) none none) d
  let d := { d with snap := { d.snap with lost := [] } }
  let d := if p.d ≤ n then d.collectFrame p (n - p.d) else d
  d.herdAdvance k p (count + 1)

/-- The front intake record of the open in progress, if it is of a kind. -/
def Dev.frontRecord (d : Dev) (kind : Nat) : Option (HerdPart × List Byte × Nat) :=
  match d.herdPart, d.herd.opening with
  | some p, some o =>
    match o.todo with
    | r :: _ => if field r 0 1 = kind then some (p, r, o.todo.length) else none
    | [] => none
  | _, _ => none

/-- Take the front record, if it is of a kind and `f` answers for it, and those after it that no command takes. While its
stream holds the builder the record waits (R236, R380). -/
def Dev.takeRecord (d : Dev) (k : Clock) (kind : Nat) (f : HerdPart → List Byte → Option Dev) : Option Dev :=
  (d.frontRecord kind).bind fun (p, r, n) =>
    (f p r).map fun e => if d.lsHolds 0xE00 then d.lsHoldFrom k 0xE00 else e.herdAdvance k p (n + 1)

/-- HERD_ADD: the front intake record, an ADD, takes effect (R236). -/
def execHerdAdd (s : State) : Result := s.now fun k d => d.takeRecord k 1 fun p r => some (d.addRecord p r)

/-- HERD_CANCEL: the front intake record, a CANCEL, takes effect (R236). -/
def execHerdCancel (s : State) : Result :=
  s.now fun k d => d.takeRecord k 2 fun p r =>
    some (match d.slotOfId p (field r 8 8) with
      | none => d.rejectRecord r 3
      | some (i, x) => ((d.cancelSlot p i x).emit x.id 3 0 (some i) none none).popRecord)

/-- The part of the front CHANGE record that flag `b` asks for. -/
def Dev.changeStep (d : Dev) (k : Clock) (b : Nat) : Option Dev :=
  d.takeRecord k 3 fun p r =>
    let f := field r 1 1
    if bitAt f b && (b = 0 || !bitAt f 0) then some (d.changePart p r b) else none

/-- HERD_CHANGE_STOPS: the front CHANGE record's flag [0] replaces the stop conditions (R236). -/
def execHerdChangeStops (s : State) : Result := s.now fun k d => d.changeStep k 0

/-- HERD_HOLD: the front CHANGE record's flag [1] moves the slot to HELD (R236). -/
def execHerdHold (s : State) : Result := s.now fun k d => d.changeStep k 1

/-- HERD_RELEASE: the front CHANGE record's flag [2] releases a HELD slot (R236). -/
def execHerdRelease (s : State) : Result := s.now fun k d => d.changeStep k 2

/-- HERD_FLUSH: the front intake record, a FLUSH, cancels every slot that is not FREE (R236). -/
def execHerdFlush (s : State) : Result :=
  s.now fun k d => d.takeRecord k 4 fun p _ =>
    let us := d.usedSlots p
    let d := us.foldl (fun d (i, x) => d.cancelSlot p i x) d
    some (d.emit (2 ^ 64 - 1) 3 0 none none (some us.length)).popRecord

/-- The builder works for a frame: the job runs, or drains after its stop frame (R247, R248). -/
def Dev.building (d : Dev) : Bool := d.runs || (d.job.phase = .draining && !d.job.abort)

/-- HERD_READY_OFFSET: a work list that is not complete at the ready offset raises FRAME_OVERRUN, also in a stop frame that
has closed before (R247, R248). (log 39 DEDUCED) -/
def execHerdReadyOffset (s : State) : Result :=
  let due := s.dev.herdPart.map fun p => s.dev.frame.boundary + p.ready
  s.act (fun k => match due with | some t => if s.dev.building then k.toCount t else k | none => k) fun k d =>
    match d.herdPart with
    | none => none
    | some p =>
      if d.building && d.frame.opened && !(d.herd.built = some d.frame.number && d.rd .jobHerdBuild ≤ p.ready) then
        some (d.overrun k 3 0xE00)
      else none

/-! ### Launch (R233) -/

/-- A batch that a restored herd table still has outstanding: its slots with their rows as they were listed; those of a
slot that was restored as FREE are ignored (R239, R403 to R405). (log 40 DEDUCED) -/
def Dev.restoredBatch (d : Dev) (p : HerdPart) (g : Nat) : HerdBatch :=
  let rows := (p.fillRows (byAge ((d.tableSlots p).filter fun x => x.2.outstanding && x.2.gen = g % 65536)) 0).1
  ⟨g, rows.filter fun r => (d.slot p r.slot).state ≠ 0⟩

/-- The batches that are outstanding at resume frame K: their generations are live, and the objects of their slots are
held (R243, R244). -/
def Dev.restoreBatches (d : Dev) (p : HerdPart) (kf : Nat) : Dev :=
  let bs := ((List.range' (kf - p.d) (min p.d kf)).map fun g => d.restoredBatch p g).filter fun b => !b.rows.isEmpty
  let d := bs.foldl (fun d b => b.rows.foldl (fun d r =>
    d.modObj (d.slot p r.slot).kv fun o => { o with listed := true }) d) d
  { d.modHerd fun h => { h with batches := bs } with
    xch := { d.xch with live := some (bs.map fun b => b.frame % 65536) } }

/-- When the job becomes ARMED every slot is FREE, the age counter is zero, and the ring indices are read as they
stand (R233); in a restored job they are those of the job state block (R403). -/
def Dev.herdArm (d : Dev) : Dev :=
  match d.herdPart with
  | none => { d with xch := { d.xch with live := none } }
  | some p =>
    let d := { d with xch := { d.xch with live := some [] } }
    match d.snap.resume with
    | some kf =>
      let b := d.snap.job
      (d.modHerd fun _ => { Herd.empty with
        inCons := field b 0x29000 8 % 2 ^ 32, outProd := field b 0x29008 8 % 2 ^ 32, age := field b 0x29010 8 }).restoreBatches
          p kf
    | none =>
    let d := { d with mem := { d.mem with hbm := d.mem.hbm.clear p.table (2 ^ 21) } }
    d.modHerd fun _ => { Herd.empty with
      inCons := leNat (d.hbmRead (p.intake + 4) 4), outProd := leNat (d.mem.host.readN p.outRing 4) }

end Sys2Proof.Machine
end

