-- ==== Sys2Proof/Machine/Snap.lean ====
section
/-! DEFINITION. Images, Cellar snapshots, the Whey mirror and restores (R390, R393 to R404). -/

namespace Sys2Proof.Machine

open Sys2Proof

/-- Change the SNAP engine. -/
def Dev.modSnap (d : Dev) (f : Snap → Snap) : Dev := { d with snap := f d.snap }

/-! ### The job state block (Table REC-7) -/

/-- A sequencer record in the layout of R110. -/
def Core.record (x : Core) : List Byte :=
  x.scal.toList.flatMap (fun v => leBytes 8 v.toNat) ++ x.td.toList.flatMap (fun v => leBytes 32 v.toNat) ++
    leBytes 1 x.pred.toNat ++ List.replicate 63 0

/-- The initial state that a sequencer record gives. -/
def readInit (b : List Byte) : CoreInit where
  scal := (List.range 32).map fun i => BitVec.ofNat 64 (field b (8 * i) 8)
  td := (List.range 64).map fun i => BitVec.ofNat 256 (field b (256 + 32 * i) 32)
  pred := field b 0x900 1

/-- The job state block of the close of frame F. -/
def Dev.jobBlock (d : Dev) (f : Nat) : List Byte :=
  let cs := d.cores.toList
  let change := fun (w : Nat) => match d.gmem.changes.find? fun x => x.win = w with
    | some x => leBytes 16 x.entry ++ leBytes 16 x.frame
    | none => List.replicate 32 0
  leBytes 8 (d.rd .jobMemberCount) ++ leBytes 8 d.seed ++ leBytes 8 f ++ List.replicate 40 0 ++
  cs.flatMap (fun x => x.rng.toList.flatMap fun n => leBytes 16 (n % 2 ^ 118)) ++
  List.replicate 960 0 ++
  cs.flatMap Core.record ++
  List.replicate 1024 0 ++
  (List.range 1024).flatMap (fun w => leBytes 16 (d.window w)) ++
  (List.range 1024).flatMap change ++
  (leBytes 8 d.herd.inCons ++ leBytes 8 d.herd.outProd ++ leBytes 8 d.herd.age ++ List.replicate 40 0) ++
  List.replicate 4032 0 ++
  match d.herdPart with
  | some p => d.mem.hbm.readN p.table (2 ^ 21)
  | none => List.replicate (2 ^ 21) 0

/-! ### Images (R393, Tables REC-5 and REC-6) -/

/-- The 112 bytes of a header before its digest. -/
def Dev.imageHead (d : Dev) (kind : Nat) (p : ImageParts) (at_ len : Nat) : List Byte :=
  let form := match d.image with | some m => padTo 0 64 m.formDigest | none => List.replicate 64 0
  ascii "NDKIMAGE" ++ leBytes 1 kind ++ leBytes 1 (p.quiet.toNat + 2 * p.clean.toNat) ++ leBytes 2 p.objs.length ++
    leBytes 4 (d.rd .jobMemberIndex) ++ leBytes 8 p.frame ++ leBytes 8 (p.lastCut.getD (2 ^ 64 - 1)) ++ form ++
    leBytes 8 (at_ / 4096) ++ leBytes 8 len

/-- An image: kind 1 Cellar, 2 Whey. -/
def Dev.imageOf (d : Dev) (kind : Nat) (p : ImageParts) : List Byte :=
  let (at_, offs, len) := imageLayout p.objs
  let dir := (p.objs.zip offs).flatMap fun (x, o) =>
    leBytes 4 x.1 ++ leBytes 4 0 ++ leBytes 8 x.2.length ++ leBytes 8 (o / 4096) ++ (sha512 x.2).take 40
  let body := padTo 0 (at_ - 256) dir ++ padTo 0 jobBlockBytes p.job ++
    p.objs.flatMap fun x => padTo 0 (roundUp x.2.length 4096) x.2
  let head := d.imageHead kind p at_ len
  head ++ sha512 (head ++ body) ++ List.replicate 80 0 ++ body

/-- The pages of an object with their homes: byte offset and length. -/
def TierObj.parts (o : TierObj) : List (Nat × Nat × Nat) := (List.range o.pages).map fun j => (j, j * 2 ^ 21, o.pageBytes j)

/-- The bytes of an object in its current home; those of pages in a loan come later (R396). -/
def Dev.objectBytes (d : Dev) (i : Nat) (e : ObjEntry) : List Byte :=
  if !e.movable then d.locRead e.fixedAt.1 e.fixedAt.2 e.size
  else
    match d.tier.objs[i]? with
    | none => []
    | some o => o.parts.flatMap fun (j, at_, n) =>
      if d.loanPage o.home j then List.replicate n 0 else d.homeRead o o.home at_ n

/-- The pieces of an object that lie in a loan: they are read over the path of a TIER move (R396). (log 50 DEDUCED) -/
def Dev.objectLoans (d : Dev) (i : Nat) (e : ObjEntry) : List LoanPiece :=
  if !e.movable then []
  else
    match d.tier.objs[i]? with
    | none => []
    | some o => (o.parts.filter fun x => d.loanPage o.home x.1).flatMap fun (_, at_, n) =>
      (List.range (ceilDiv n pieceBytes)).map fun q =>
        let off := at_ + q * pieceBytes
        let (node, addr) := d.loanAddr o.home off
        ⟨i, off, min pieceBytes (at_ + n - off), node, addr⟩

/-- The objects of a resolved method, ascending. -/
def Dev.ofMethod (d : Dev) (method : Nat) : List (ObjEntry × Nat) :=
  match d.image with
  | none => []
  | some m => m.objects.zipIdx.filter fun (e, _) => e.survival = method

/-- The parts of an image of frame F. (log 50 DEDUCED) -/
def Dev.captureImage (d : Dev) (method f : Nat) (quiet : Bool) : ImageParts :=
  let es := d.ofMethod method
  ⟨f, quiet, d.snap.clean, d.snap.lastCut, d.jobBlock f, es.map fun (e, i) => (i, d.objectBytes i e),
    es.flatMap fun (e, i) => d.objectLoans i e, 0⟩

/-- The first poisoned byte that the capture of an image reads, in the herd table or in an object (R386). -/
def Dev.capturePoison (d : Dev) (method : Nat) : Option (Loc × Nat) :=
  ((d.herdPart.bind fun p => d.poisoned .hbm p.table (2 ^ 21)).map fun a => (.hbm, a)).or
    ((d.ofMethod method).findSome? fun (e, i) =>
      if !e.movable then (d.poisoned e.fixedAt.1 e.fixedAt.2 e.size).map fun a => (e.fixedAt.1, a)
      else (d.tier.objs[i]?).bind fun o => o.parts.findSome? fun (_, at_, n) =>
        (d.homeLoc o o.home at_).bind fun (l, a) => (d.poisoned l a n).map fun x => (l, x))

/-- The reads of host memory that an image of a method makes, by object: its tier-2 pages there (R396). -/
def Dev.imageHost (d : Dev) (method : Nat) : List (Nat × List (Nat × Nat)) :=
  ((d.ofMethod method).map fun (e, i) =>
    (i, if !e.movable then []
      else match d.tier.objs[i]? with
        | none => []
        | some o => d.homeHost o o.home)).filter fun x => !x.2.isEmpty

/-- Some page that an image of a method reads lies in host memory, which is out of reach (R454). -/
def Dev.imageLost (d : Dev) (method : Nat) : Bool := !d.host.bme && !(d.imageHost method).isEmpty

/-- The image of a method reads its pages in host memory, over the path of a TIER move (R396). -/
def Dev.readImageHost (d : Dev) (method : Nat) : Dev :=
  (d.imageHost method).foldl (fun d x => d.hostReadFor method x.1 x.2) d

/-- The engine that makes an image finds a poisoned byte: a run fault. Table TICK-3 names no engine for a Cellar copy;
a Whey image is sent by the twin link's (R386). (log 50 DEDUCED) -/
def Dev.captureFault (d : Dev) (k : Clock) (method : Nat) : Dev :=
  match d.capturePoison method with
  | some (l, a) => d.poisonFault k l a (if method = 1 then 0xFFF else 0xD00)
  | none => d

/-- Every piece of an image has come. -/
def ImageParts.whole (p : ImageParts) : Bool := p.loans.isEmpty && p.open_ = 0

/-- Change the image of a kind and a frame that is in the making. -/
def Dev.modParts (d : Dev) (kind frame : Nat) (f : ImageParts → ImageParts) : Dev :=
  if kind = 1 then d.modSnap fun s => { s with run := s.run.map fun p => if p.frame = frame then f p else p }
  else d.modSnap fun s => { s with
    mirrors := s.mirrors.map fun m => if m.parts.frame = frame then { m with parts := f m.parts } else m }

/-- The images in the making, each with its kind. -/
def Snap.making (s : Snap) : List (Nat × ImageParts) := (s.run.toList.map fun p => (1, p)) ++ s.mirrors.map fun m => (2, m.parts)

/-- Request pieces of images from their lenders while the GMEM unit has room (R396). -/
def Dev.pumpImages (k : Clock) : Nat → Dev → Dev
  | 0, d => d
  | n + 1, d =>
    if !d.gmem.room 1 0 || !d.snap.stores.isEmpty then d
    else
      match d.snap.making.find? fun x => !x.2.loans.isEmpty with
      | none => d
      | some (kind, p) =>
        match p.loans with
        | [] => d
        | q :: _ =>
          let d := d.modParts kind p.frame fun p => { p with loans := p.loans.tail, open_ := p.open_ + 1 }
          (d.accept k {
            mgmt := false, node := q.node, seq := 0, owner := .image kind p.frame q.obj q.off, op := 0, addr := q.addr
            len := roundUp q.len 8, data := [], aop := 0, sa := 0, sb := 0, retry := 0, first := 0, sentAt := 0
            frame := d.frame.number }).pumpImages
            k n

/-- A piece of an image has come from its lender at address `addr`. Where the object has left the loan meanwhile, the piece
has been read from its new home. (log 50 DEDUCED) -/
def Dev.imagePiece (d : Dev) (k : Clock) (kind frame i off addr : Nat) (bs : List Byte) : Dev :=
  let stays := match d.tier.objs[i]? with
    | some o => d.loanPage o.home (off / 2 ^ 21) && (d.loanAddr o.home off).2 = addr
    | none => false
  let size := ((d.snap.making.find? fun x => x.1 = kind && x.2.frame = frame).bind fun x =>
    x.2.objs.find? fun o => o.1 = i).map fun o => o.2.length
  (d.modParts kind frame fun p =>
    { (if stays then p.fill i off (bs.take (size.getD 0 - off)) else p) with open_ := p.open_ - 1 }).pumpImages k 8192

/-- The GMEM unit has room again, or the launch count has been reached: restored bytes go to their loans first, then
pieces of moves, then those of images. -/
def Dev.pumpAll (d : Dev) (k : Clock) : Dev := ((Dev.pumpStores k d.snap.stores d).pumpTier k 8192).pumpImages k 8192

/-! ### Quiet images and cuts (R394 to R396) -/

/-- The slot of frame `n` permits a cut (R392, R394). -/
def Dev.cutPermitted (d : Dev) (n : Nat) : Bool :=
  match d.image with
  | none => false
  | some m => match m.form.snap with
    | none => false
    | some p => bitAt p.mask (n % m.form.slots)

/-- No collective is uncommitted, no request of the job is outstanding and every Pail is FREE (R394). -/
def Dev.jobQuiet (d : Dev) : Bool :=
  d.coll.invs.all (fun i => i.state = 2) && d.gmem.reqs.all (fun r => r.mgmt) &&
    d.pail.states.all fun e => e.2 = .free

/-- The frame that SNAP_CUT names. -/
def Dev.cutFrame (d : Dev) : Nat := d.rd64 .snapCutLo .snapCutHi

/-- Where an area begins in the namespace. -/
def Dev.areaAt (d : Dev) (area : Nat) : Nat :=
  (d.rd64 .snapAreaLbaLo .snapAreaLbaHi + area * d.rd .snapAreaBlocks) * 4096

/-- A copy fails: its status is recorded and its area stays without a header (R398). -/
def Dev.snapFailed (d : Dev) (status : Nat) : Dev :=
  ((d.wr .snapFail status).flag .snapEvFail).modSnap fun s => { s with run := none, flushed := false }

/-- The first block of an area. -/
def Dev.areaBlock (d : Dev) (area : Nat) : Nat := d.rd64 .snapAreaLbaLo .snapAreaLbaHi + area * d.rd .snapAreaBlocks

/-- The I/O queue pair of a transfer: the four take turns (R398). (log 67 PRESUMED) -/
def queuePair (n : Nat) : Nat := n % 4 + 1

/-- Transfer `c` of an image of `len` bytes into the area at block `at_`: 32 blocks behind the header's (R398). -/
def transferOf (len at_ c : Nat) : NvmeCmd :=
  .write (queuePair c) (at_ + 1 + 32 * c) (min 32 ((len - 4096) / 4096 - 32 * c)) false

/-- The NVMe command in flight (R396, R398): the first of the initialisation, or that of the copy: transfers of 128 KiB
behind the header's block, then a Flush, then the header with Force Unit Access. None where nothing is in flight, and
while a piece of the image has yet to come. (log 50 DEDUCED) -/
def Dev.nvmeNext (d : Dev) : Option NvmeCmd :=
  match d.snap.init, d.snap.run with
  | c :: _, _ => some c
  | [], none => none
  | [], some p =>
    let len := (imageLayout p.objs).2.2
    let at_ := d.areaBlock d.snap.area
    if !p.whole then none
    else match d.snap.left with
      | c :: _ => some (transferOf len at_ c)
      | [] => if d.snap.flushed then some (.write (queuePair 0) at_ 1 true) else some (.flush (queuePair 0))

/-- Give the controller commands. -/
def Dev.nvmeGive (d : Dev) (cs : List NvmeCmd) : Dev := { d with out := { d.out with nvme := d.out.nvme ++ cs } }

/-- Give the controller the command that is next. -/
def Dev.nvmeIssue (d : Dev) : Dev := d.nvmeGive d.nvmeNext.toList

/-- The header of the copy is being written. -/
def Dev.writesHeader (d : Dev) : Bool := match d.nvmeNext with | some (.write _ _ _ fua) => fua | _ => false

/-- Start the Cellar copy of a cut into the next area (R396): the area loses its header. Without areas there is no
copy. One that cannot run fails with the status of a link that is down, and one that needs host memory out of reach raises
GMEM_TARGET_LOST as a move does (R276, R454). (log 50 DEDUCED) -/
def Dev.startCopy (d : Dev) (k : Clock) (p : ImageParts) : Dev :=
  let n := d.rd .snapAreaCount
  if n = 0 then d
  else if !d.snap.nvmeUp || d.snap.run.isSome then (d.wr .snapFail 0xFFFF).flag .snapEvFail
  else if d.imageLost 1 then (d.snapFailed 0xFFFF).hostHomeLost k
  else
    let area := (d.snap.area + 1) % n
    let d := { d with mem := { d.mem with nvme := d.mem.nvme.clear (d.areaAt area) 4096 } }
    let d := d.modSnap fun s => { s with
      area := area, dirty := false, copied := 0, run := some p
      left := List.range (ceilDiv ((imageLayout p.objs).2.2 - 4096) transferBytes), flushed := false
      early := s.early.filter fun x => x.1 ≠ 0 }
    ((d.readImageHost 1).pumpImages k 8192).nvmeIssue

/-- Take the cut K, where SNAP_CUT names it: the job state block is captured and the copy starts (R395, R396). The
mirror image of frame K − 1 carries the cut flag (R400). -/
def Dev.takeCut (d : Dev) (k : Clock) (kf : Nat) : Dev :=
  if d.cutFrame ≠ kf || kf = 0 then d
  else
    let d := d.modSnap fun s => { s with judged := some kf }
    if !d.cutPermitted kf then d.flag .snapEvNotPermitted
    else if !d.jobQuiet then d.flag .snapEvNotQuiet
    else
      let p := d.captureImage 1 (kf - 1) true
      let d := d.modSnap fun s => { s with
        mirrors := s.mirrors.map fun m => if m.parts.frame = kf - 1 then { m with cut := true } else m }
      ((d.startCopy k p).flag .snapEvCut).captureFault k 1

/-- Set the quiet flag of the mirror image of frame K − 1, and drop the ones that were not committed in time
(R394, R401). -/
def Dev.mirrorsAtOpen (d : Dev) (kf : Nat) : Dev :=
  let q := d.cutPermitted kf && d.jobQuiet
  let late := d.snap.mirrors.filter fun m => m.parts.frame + 2 ≤ kf
  let d := d.count .snapMirLapse late.length
  d.modSnap fun s => { s with
    mirrors := (s.mirrors.filter fun m => kf < m.parts.frame + 2).map fun m =>
      if m.parts.frame + 1 = kf && !m.tested then { m with parts := { m.parts with quiet := q }, tested := true } else m }

/-- SNAP's part of the open of frame K. -/
def Dev.snapOpen (d : Dev) (k : Clock) (kf : Nat) : Dev := (d.mirrorsAtOpen kf).takeCut k kf

/-- A source that the restore names. -/
def Dev.restoresFrom (d : Dev) (src : Nat) : Bool := d.rd .snapRstSrcCellar = src || d.rd .snapRstSrcWhey = src

/-- A command of the controller's initialisation completes; after the last the controller is up, where its namespace is
one that the device can use (R398). One with an error status ends the initialisation. (log 67 PRESUMED) -/
def Dev.initStep (d : Dev) (status : Nat) : Dev :=
  if status ≠ 0 then d.modSnap fun s => { s with init := [] }
  else
    let d := d.modSnap fun s => { s with init := s.init.tail }
    if d.snap.init.isEmpty then d.modSnap fun s => { s with nvmeUp := Config.nvmeFits } else d.nvmeIssue

/-- The command of the copy that is in flight completes (R396, R398). -/
def Dev.copyStep (d : Dev) (p : ImageParts) : Dev :=
  let len := (imageLayout p.objs).2.2
  (match d.snap.left with
    | c :: rest => d.modSnap fun s => { s with
        left := rest, copied := s.copied + min transferBytes (len - 4096 - c * transferBytes) }
    | [] => d.modSnap fun s => { s with flushed := true }).nvmeIssue

/-- NVME_COMPLETION: the command in flight completes (R398). An error status fails the snapshot, or the restore that
reads it, and the health log is read after one; the end of the header's Write is SNAP_CUT_COMPLETE. (log 67 PRESUMED) -/
def execNvmeCompletion (status : BitVec 16) (s : State) : Result :=
  s.now fun _ d =>
    let reads := d.snap.restoring && d.restoresFrom 1
    match d.snap.init, d.snap.run with
    | _ :: _, _ => some (d.initStep status.toNat)
    | [], some p =>
      if status ≠ 0 then some ((d.snapFailed status.toNat).nvmeGive [.getLogPage])
      else if d.nvmeNext.isNone || d.writesHeader then none
      else some (d.copyStep p)
    | [], none => if status ≠ 0 && reads then some ((d.modSnap fun s => { s with readFailed := true }).nvmeGive [.getLogPage])
      else none

/-- The commands that a copy has still to give after the one in flight. -/
def Dev.restOfCopy (d : Dev) (p : ImageParts) : List NvmeCmd :=
  let len := (imageLayout p.objs).2.2
  let at_ := d.areaBlock d.snap.area
  d.snap.left.tail.map (transferOf len at_) ++ (if d.snap.left.isEmpty then [] else [.flush (queuePair 0)]) ++
    if d.snap.flushed then [] else [.write (queuePair 0) at_ 1 true]

/-- SNAP_CUT_COMPLETE: what is left of the copy ends, its header last (R396, R397). The job state is clean where no Cellar
object has been written since the cut. (log 50 DEDUCED) -/
def execSnapCutComplete (s : State) : Result :=
  s.now fun _ d =>
    match d.snap.run with
    | none => none
    | some p =>
      if !p.whole then none
      else
        let img := d.imageOf 1 p
        let d := { d with
          out := { d.out with nvme := d.out.nvme ++ d.restOfCopy p }
          mem := { d.mem with nvme := d.mem.nvme.writeN (d.areaAt d.snap.area) img } }
        let d := d.modSnap fun s => { s with
          run := none, flushed := false, left := [], copied := img.length, lastCut := some (p.frame + 1), clean := !s.dirty }
        some (((d.flag .snapEvDone).hostEvent 4).readsDone 1 none)

/-- The data link of the root port is active: the controller is up or being initialised (R458). (log 67 PRESUMED) -/
def Dev.nvmeLinked (d : Dev) : Bool := d.snap.nvmeUp || !d.snap.init.isEmpty

/-- NVME_LINK_DOWN: the root port link goes down while the controller is in use (R458). -/
def execNvmeLinkDown (s : State) : Result :=
  s.now fun _ d =>
    if d.nvmeLinked then
      let d := if d.snap.run.isSome then d.snapFailed 0xFFFF else d
      some ((d.modSnap fun s => { s with nvmeUp := false, init := [] }).aerError true 5)
    else none

/-- The commands that initialise the controller: four I/O queue pairs of 256 entries (R398). (log 67 PRESUMED) -/
def nvmeInit (nsid : Nat) : List NvmeCmd :=
  [.identifyController, .identifyNamespace nsid, .setQueues 4] ++
    (List.range 4).flatMap fun i => [.createCompletion (i + 1) 256, .createSubmission (i + 1) 256]

/-- The commands that take the queue pairs away. -/
def nvmeExit : List NvmeCmd := (List.range 4).flatMap fun i => [.deleteSubmission (i + 1), .deleteCompletion (i + 1)]

/-- The queue pair of the I/O command in flight. -/
def Dev.inFlight (d : Dev) : List Nat :=
  match d.nvmeNext with
  | some (.write q _ _ _) => [q]
  | some (.flush q) => [q]
  | _ => []

/-- The effect of a write of SNAP_NVME_ENABLE: 1 after 0 enumerates the controller and starts its initialisation, 0 ends
its use, an I/O command in flight being aborted (R398, R458). (log 67 PRESUMED) -/
def Dev.setNvme (d : Dev) (v : Nat) : Dev :=
  let was := d.rd .snapNvmeEnable
  let d := d.wr .snapNvmeEnable (v % 2)
  if v % 2 = 0 then
    let d := if d.snap.nvmeUp then d.nvmeGive (d.inFlight.map .abort ++ nvmeExit) else d
    let d := if d.snap.run.isSome then d.snapFailed 0xFFFF else d
    d.modSnap fun s => { s with nvmeUp := false, init := [] }
  else if was = 0 then (d.modSnap fun s => { s with init := nvmeInit (d.rd .snapNvmeNsid) }).nvmeIssue
  else d

/-! ### The Whey mirror (R399 to R401) -/

/-- The job runs in mode 1, with its send bound rounded up (R376, R399). -/
def Dev.mirrorBound (d : Dev) : Option Nat :=
  match d.image.bind fun m => m.form.twin with
  | some (1, b) => some (roundUp b 4096)
  | _ => none

/-- At the close of frame F the Whey image is made (R399). -/
def Dev.mirrorClose (d : Dev) (k : Clock) (f : Nat) : Dev :=
  match d.mirrorBound with
  | none => d
  | some _ =>
    if d.imageLost 2 then d.hostHomeLost k
    else
    let d := d.readImageHost 2
    let p := d.captureImage 2 f false
    let d := d.modSnap fun s => { s with
      mirrors := s.mirrors ++ [⟨p, false, false⟩], early := s.early.filter fun x => x.1 = 0 || f ≤ x.1 + 1 }
    (d.pumpImages k 8192).captureFault k 2

/-- The bytes of the job state block move to the mirror engine on HB1: a core's record and generators from its die, the
windows and the herd's counts from HB0, the herd table from its stack (R14, R21, R399). (log 56 DEDUCED) -/
def Dev.blockTraffic (d : Dev) : Dev :=
  let d := (List.range 48).foldl (fun d c => d.carry (.die (c / 4)) (.hub 1) (64 + 2368)) d
  let d := d.carry (.hub 0) (.hub 1) (24 + 1024 * 48 + 24)
  match d.herdPart with
  | some p => d.touch (.hub 1) .hbm p.table (2 ^ 21)
  | none => d

/-- The bytes of a Whey image move from the job's state and the homes of its objects to the twin's hub, and from there to
the local bank (R21, R399, R400). (log 56 DEDUCED) -/
def Dev.mirrorTraffic (d : Dev) (p : ImageParts) (bank : Option Nat) (len : Nat) : Dev :=
  let d := p.objs.foldl (fun d (i, bs) =>
    match (d.image.bind fun m => m.objects[i]?) with
    | none => d
    | some e =>
      if !e.movable then d.touch (.hub 1) e.fixedAt.1 e.fixedAt.2 bs.length
      else match d.tier.objs[i]? with
        | none => d
        | some o => o.parts.foldl (fun d (_, at_, n) => d.carry (d.homePlace o o.home at_) (.hub 1) n) d) d.blockTraffic
  match bank with
  | some a => d.touchW (.hub 1) .hbm a len
  | none => d

/-- Send an image and its commit on the twin link (R400). -/
def Dev.sendImage (d : Dev) (k : Clock) (img : List Byte) (f flags : Nat) : Dev :=
  let d := (List.range (ceilDiv img.length 8128)).foldl (fun d i =>
    d.sendOneHop k 80 0x7C (leBytes 8 f ++ leBytes 8 (8128 * i) ++ List.replicate 48 0 ++
      (img.drop (8128 * i)).take 8128)) d
  d.sendOneHop k 80 0x7D (padTo 0 64 (leBytes 8 f ++ leBytes 8 img.length ++ leBytes 1 flags))

/-- Copy a bank of a region to bank 2, through HB1 (R21, R400). (log 56 DEDUCED) -/
def Dev.keepCutBank (d : Dev) (base bound from_ len : Nat) : Dev :=
  let n := min len bound
  let d := (d.touch (.hub 1) .hbm (base + from_ * bound) n).touchW (.hub 1) .hbm (base + 2 * bound) n
  { d with mem := { d.mem with
    hbm := d.mem.hbm.writeN (base + 2 * bound) (d.mem.hbm.readN (base + from_ * bound) n) } }

/-- Nothing of the job is outstanding but mirror images (R74): requests to other nodes and to the Pail manager, collectives,
moves, and what the herd builder does for the stop frame and the drain (R248). -/
def Dev.drainedButMirror (d : Dev) : Bool :=
  d.gmem.reqs.all (fun r => r.mgmt) && d.pail.reqs.isEmpty && d.coll.invs.all (fun i => i.state = 2 && i.unacked.isEmpty) &&
    (d.tier.objs.all fun o => o.move.isNone) && d.herd.opening.isNone && !d.herd.waits && !d.herd.drains

/-- MIRROR_SEND_END: the sender has sent an image and its commit, and marks its own bank (R399, R400). In DRAINING
the image of the last frame waits for all other work, and is tested then (R394). (log 50 DEDUCED) -/
def execMirrorSendEnd (s : State) : Result :=
  s.now fun k d =>
    match d.snap.mirrors, d.mirrorBound, d.image.bind fun m => m.form.snap with
    | m :: rest, some bound, part =>
      let f := m.parts.frame
      let last := d.job.phase = .draining && f = d.frame.number && d.drainedButMirror
      if !(m.tested || last) || !m.parts.whole || !(d.job.phase = .running || d.job.phase = .draining) then none
      else
        let q := d.cutPermitted (f + 1) && d.jobQuiet
        let m := if m.tested then m else
          { m with parts := { m.parts with quiet := q }, tested := true, cut := q && d.cutFrame = f + 1 }
        let img := d.imageOf 2 m.parts
        let d := d.mirrorTraffic m.parts (part.map fun p => p.bank + f % 2 * bound) img.length
        let d := d.sendImage k img f (m.parts.quiet.toNat + 2 * m.cut.toNat)
        let d := match part with
          | none => d
          | some p =>
            let d := { d with mem := { d.mem with hbm := d.mem.hbm.writeN (p.bank + f % 2 * bound) img } }
            if m.cut then d.keepCutBank p.bank bound (f % 2) img.length else d
        let d := d.modSnap fun s => { s with
          mirrors := rest
          banks := (s.banks.set (f % 2) (some f)).set 2 (if m.cut then some f else (s.banks.getD 2 none)) }
        some ((if rest.isEmpty then d.readsDone 2 none else d).count .snapMirSent)
    | _, _, _ => none

/-- The mirror receive region: base, bytes, and the distance of its banks: this device's own send bound, or a third
of the region where it has none. (log 49 DEDUCED) -/
def Dev.rxRegion (d : Dev) : Nat × Nat × Nat :=
  let n := d.rd .twinRxPages
  (d.rd .twinRxBase * 4096, n * 4096, (d.mirrorBound).getD (n / 3 * 4096))

/-- A mirror packet that arrives whole on the twin link in mode 1. -/
def Dev.mirrorMessage (d : Dev) (p : Packet) (op : Nat) : Bool :=
  d.fab.ports[(80 : Fin 81)].state = .up && d.rd .twinCfgMode = 1 && p.op.toNat = op && p.dst = 0xFFFF && p.good

/-- MIRROR_DATA: image bytes are written to the bank of their frame (R400). -/
def execMirrorData (p : Packet) (s : State) : Result :=
  s.now fun k d =>
    if d.mirrorMessage p 0x7C then
      let d := d.takeTwin k p
      let (base, len, bound) := d.rxRegion
      let at_ := field p.payload 0 8 % 2 * bound + field p.payload 8 8
      let bs := p.payload.drop 64
      if at_ + bs.length ≤ len then
        let d := d.touchW (.hub 1) .hbm (base + at_) bs.length
        some { d with mem := { d.mem with hbm := d.mem.hbm.writeN (base + at_) bs } }
      else some d
    else d.twinDrop k p

/-- MIRROR_COMMIT: the bank holds its frame, and with the cut flag bank 2 holds it too (R400). -/
def execMirrorCommit (p : Packet) (s : State) : Result :=
  s.now fun k d =>
    if d.mirrorMessage p 0x7D then
      let d := d.takeTwin k p
      let f := field p.payload 0 8
      let (base, _, bound) := d.rxRegion
      let d := d.modSnap fun s => { s with rxBanks := s.rxBanks.set (f % 2) (some f) }
      some (if bitAt (field p.payload 16 1) 1 then
        (d.keepCutBank base bound (f % 2) (field p.payload 8 8)).modSnap fun s => { s with rxBanks := s.rxBanks.set 2 (some f) }
      else d)
    else d.twinDrop k p

/-! ### Restore (R403, R404) -/

/-- Where an image is read from: 1 the NVMe area, 2 local HBM, 3 host memory. -/
def Dev.imageRead (d : Dev) (src addr o n : Nat) : List Byte :=
  match src with
  | 1 => d.mem.nvme.readN (d.areaAt (d.rd .snapRstArea) + o) n
  | 2 => d.mem.hbm.readN (addr * 4096 + o) n
  | _ => d.mem.host.readN (addr * 4096 + o) n

/-- A header that has been read. -/
structure ImageHead where
  src : Nat
  addr : Nat
  bytes : List Byte
  deriving DecidableEq, Repr

namespace ImageHead
/-- The image is quiet. -/
def quiet (h : ImageHead) : Bool := bitAt (field h.bytes 9 1) 0
/-- The Cellar objects were clean. -/
def clean (h : ImageHead) : Bool := bitAt (field h.bytes 9 1) 1
/-- Directory entries. -/
def count (h : ImageHead) : Nat := field h.bytes 10 2
/-- The image frame. -/
def frame (h : ImageHead) : Nat := field h.bytes 16 8
/-- The last completed cut frame. -/
def lastCut (h : ImageHead) : Nat := field h.bytes 24 8
/-- The byte offset of the job state block. -/
def jobAt (h : ImageHead) : Nat := field h.bytes 96 8 * 4096
/-- The image's length. -/
def len (h : ImageHead) : Nat := field h.bytes 104 8
end ImageHead

/-- Read an image's header; none where it is not valid, not of this kind, or not quiet (R393, R394). -/
def Dev.readHead (d : Dev) (kind src addr : Nat) : Option ImageHead :=
  let h : ImageHead := ⟨src, addr, d.imageRead src addr 0 256⟩
  let ok := h.bytes.take 8 = ascii "NDKIMAGE" && field h.bytes 8 1 = kind && 256 ≤ h.len &&
    (h.bytes.drop 112).take 64 = sha512 (h.bytes.take 112 ++ d.imageRead src addr 256 (h.len - 256)) && h.quiet
  if ok then some h else none

/-- The bytes of an object in an image: none where it has no entry of that size, or its digest differs. -/
def Dev.imageObject (d : Dev) (h : ImageHead) (i size : Nat) : Option (List Byte) :=
  let dir := d.imageRead h.src h.addr 256 (64 * h.count)
  ((List.range h.count).map fun j => slice dir (64 * j) 64).findSome? fun b =>
    if field b 0 4 % 2 ^ 20 = i && field b 8 8 = size then
      let bs := d.imageRead h.src h.addr (field b 16 8 * 4096) size
      if (sha512 bs).take 40 = slice b 24 40 then some bs else none
    else none

/-- The images that SNAP_RST_SRC names, Cellar first, or the cause of the first failed check (R403). -/
def Dev.restoreHeads (d : Dev) : Except Nat (Option ImageHead × Option ImageHead) :=
  match d.image with
  | none => .error 1
  | some m =>
    let f := d.rd64 .snapResumeLo .snapResumeHi - 1
    let one := fun (kind src addr : Nat) => if src = 0 then some none else (d.readHead kind src addr).map some
    match one 1 (d.rd .snapRstSrcCellar) (d.rd64 .snapRstAddrCLo .snapRstAddrCHi),
        one 2 (d.rd .snapRstSrcWhey) (d.rd64 .snapRstAddrWLo .snapRstAddrWHi) with
    | some c, some w =>
      let hs := c.toList ++ w.toList
      let needs := fun (k : Nat) => m.objects.any fun e => e.survival = k
      let mirror := match c, w with
        | some c, some w => w.frame = f && w.clean && w.lastCut = c.frame + 1 && c.frame + 1 ≤ f
        | _, _ => false
      if d.rd64 .snapResumeLo .snapResumeHi = 0 then .error 4
      else if hs.isEmpty || (needs 1 && c.isNone) || (needs 2 && w.isNone) then .error 1
      else if hs.any fun h => slice h.bytes 32 64 ≠ padTo 0 64 m.formDigest then .error 2
      else if hs.any fun h => field h.bytes 12 4 % 2 ^ 14 ≠ d.rd .jobMemberIndex then .error 3
      else if !mirror && hs.any fun h => h.frame ≠ f then .error 4
      else .ok (c, w)
    | _, _ => .error 1

/-- The stores that bring an object's restored bytes to its pages in loans. -/
def Dev.loanStores (d : Dev) (o : TierObj) (bs : List Byte) : List LoanStore :=
  (o.parts.filter fun x => d.loanPage o.home x.1).flatMap fun (_, at_, n) =>
    (List.range (ceilDiv n pieceBytes)).map fun q =>
      let off := at_ + q * pieceBytes
      let (node, addr) := d.loanAddr o.home off
      ⟨node, addr, slice bs off (roundUp (min pieceBytes (at_ + n - off)) 8)⟩

/-- Write an object's restored bytes to its home. Those of pages in a loan are kept until the launch count, since an
answer of the lender would be a stranger before it (R331), and are the first that the job's GMEM traffic stores then.
(log 50 DEDUCED) -/
def Dev.restoreObject (d : Dev) (i : Nat) (e : ObjEntry) (bs : List Byte) : Dev :=
  if !e.movable then d.locWrite e.fixedAt.1 e.fixedAt.2 bs
  else
    match d.tier.objs[i]? with
    | none => d
    | some o => (d.homePut o o.home bs).modSnap fun s => { s with stores := s.stores ++ d.loanStores o bs }

/-- The objects with their restored bytes, or cause 5 (R390, R403). -/
def Dev.restoreBytes (d : Dev) (c w : Option ImageHead) : List (ObjEntry × Nat) → Option (List (ObjEntry × Nat × List Byte))
  | [] => some []
  | (e, i) :: t =>
    let bs := match e.survival with
      | 0 => some (List.replicate e.size 0)
      | 1 => c.bind fun h => d.imageObject h i e.size
      | _ => w.bind fun h => d.imageObject h i e.size
    match bs, d.restoreBytes c w t with
    | some b, some l => some ((e, i, b) :: l)
    | _, _ => none

/-- The herd slots whose KV object has method 0 become FREE (R404): the table after it, and the slots. -/
def Dev.restoreHerd (d : Dev) (m : Image) (b : List Byte) : Dev × List (Nat × Nat) :=
  match m.form.herd with
  | none => (d, [])
  | some p =>
    let table := slice b 0x2A000 (2 ^ 21)
    let d := { d with mem := { d.mem with hbm := (d.mem.hbm.clear p.table (2 ^ 21)).writeN p.table table } }
    let gone := (d.usedSlots p).filter fun x => (m.objects[x.2.kv]?).any fun e => e.survival = 0
    (gone.foldl (fun d x => d.setSlot p x.1 { x.2 with state := 0 }) d, gone.map fun x => (x.1, x.2.id))

/-- Put a job state block in place of the initial state, the windows and the herd state (R403). -/
def Dev.restoreState (d : Dev) (m : Image) (b : List Byte) (kf : Nat) : Dev :=
  let init := (List.range 48).map fun i => readInit (slice b (0x1000 + 2368 * i) 2368)
  let d := { d with image := some { m with form := { m.form with init := init } } }
  let d := (List.range 1024).foldl (fun d w => d.setWindow w (field b (0x1D000 + 16 * w) 16)) d
  let changes := (List.range 1024).filterMap fun w =>
    let e := field b (0x21000 + 32 * w) 32
    if e = 0 then none else some (⟨w, e % 2 ^ 128, e / 2 ^ 128 % 2 ^ 64⟩ : WinChange)
  let d := d.modGmem fun g => { g with changes := changes }
  let (d, lost) := d.restoreHerd m b
  d.modSnap fun s => { s with resume := some kf, job := b, lost := lost }

/-- Drop what admission or a restore held for the object: the job is IDLE again (R71, R403). -/
def Dev.dropObject (d : Dev) : Dev :=
  let d := { d with
    image := none, tier := { d.tier with objs := [], queue := [], herd := [], watch := [] }
    gmem := { d.gmem with windows := [], changes := [] }
    ctl := { d.ctl with period := V3.all 0, guardBand := V3.all 0 } }
  (d.modSnap fun s => { s with
    restoring := false, readFailed := false, resume := none, job := [], lost := [], stores := [], banks := [none, none, none] }).setPhase
    .idle

/-- A source in local HBM has a poisoned byte (R386, R403). -/
def Dev.sourcePoisoned (d : Dev) : Bool :=
  [(d.rd .snapRstSrcCellar, d.rd64 .snapRstAddrCLo .snapRstAddrCHi),
    (d.rd .snapRstSrcWhey, d.rd64 .snapRstAddrWLo .snapRstAddrWHi)].any fun (src, addr) =>
      src = 2 && (d.poisoned .hbm (addr * 4096) (max 256 (field (d.imageRead 2 addr 0 256) 104 8))).isSome

/-- The restore cannot read a source or reach a home: a read timed out or completed with an error or found poison, or
host memory or the NVMe controller is out of reach (R403, R454, R458). (log 50 DEDUCED) -/
def Dev.sourceFailed (d : Dev) : Bool :=
  d.snap.readFailed || d.sourcePoisoned || (!d.snap.nvmeUp && d.restoresFrom 1) ||
    (!d.host.bme && (d.restoresFrom 3 || d.tier.objs.any fun o => d.usesHost o.home))

/-- The Reads of an image in an NVMe area, in transfers of 128 KiB (R398). -/
def Dev.imageReads (d : Dev) (h : ImageHead) : List NvmeCmd :=
  if h.src ≠ 1 then []
  else
    let n := ceilDiv h.len 4096
    (List.range (ceilDiv n 32)).map fun i => .read (queuePair i) (d.areaBlock (d.rd .snapRstArea) + 32 * i) (min 32 (n - 32 * i))

/-- RESTORE_END: the restore after admission ends. A failed check returns the job to IDLE with SIGNATURE_INVALID and
the cause in SNAP_RST_CAUSE (R403). -/
def execRestoreEnd (at_ : Nat) (s : State) : Result :=
  let on := s.dev.snap.restoring && s.dev.job.phase = .loading
  s.act (fun k => if on then k.toCount at_ else k) fun k d =>
    if !on then none
    else
      let fail := fun (cause : Nat) =>
        ((((d.wr .snapRstCause cause).wr .snapRstDone 0).wr .jobAdmitCode 0x07).dropObject).hostEvent 5
      let kf := d.rd64 .snapResumeLo .snapResumeHi
      some (match d.image, d.restoreHeads with
        | some m, .ok (c, w) =>
          if d.sourceFailed then fail 6
          else
            match d.restoreBytes c w m.objects.zipIdx with
            | none => fail 5
            | some l =>
              let hs := c.toList ++ w.toList
              let d := d.nvmeGive (hs.flatMap fun h => d.imageReads h)
              let d := d.hostRead ((hs.filter fun h => h.src = 3).map fun h => (h.addr * 4096, h.len))
              let d := l.foldl (fun d x => d.restoreObject x.2.1 x.1 x.2.2) d
              let h := w.or c
              let b := match h with
                | some h => d.imageRead h.src h.addr h.jobAt jobBlockBytes
                | none => []
              let d := d.restoreState m b kf
              let d := d.modSnap fun s => { s with
                restoring := false, readFailed := false
                clean := c.isSome, dirty := c.isNone, lastCut := c.map fun h => h.frame + 1 }
              let d := ((d.wr .snapRstCause 0).wr .snapRstDone 1).hostEvent 5
              (d.becomeAdmitted k ((c.toList ++ w.toList).map fun h => slice h.bytes 112 64)).sendArm k
        | _, .error cause => fail (if d.sourceFailed then 6 else cause)
        | none, _ => fail 1)

end Sys2Proof.Machine
end

