-- ==== Sys2Proof/Machine/Frames.lean ====
section
/-! DEFINITION. Launch, frames, the limiter, the drain and teardown (R36 to R55, R72 to R76, R387). -/

namespace Sys2Proof.Machine

open Sys2Proof

/-- Change the frame sequencing. -/
def Dev.modFrame (d : Dev) (f : Frame → Frame) : Dev := { d with frame := f d.frame }

/-- Change the firmware's record of the job. -/
def Dev.modJob (d : Dev) (f : Job → Job) : Dev := { d with job := f d.job }

/-- The launch count that software has written. -/
def Dev.launchCount (d : Dev) : Nat := d.rd64 .tickLaunchLo .tickLaunchHi

/-! ### Arming (R48 to R50, R77, R109, R110, R129, R189, R227, R233, R256) -/

/-- A core as it stands when the job becomes ARMED: the initial state of the placed form, and the sequence numbers
of a restored job (R110, R129, R403). -/
def Dev.armedCore (d : Dev) (c : Fin 48) : Core :=
  let none_ : CoreInit := ⟨[], [], 0⟩
  let i := match d.image with
    | none => none_
    | some m => m.form.init.getD c none_
  let seq := fun (e : Fin 4) => if d.snap.resume.isSome then field d.snap.job (0x40 + 64 * c.val + 16 * e.val) 16 % 2 ^ 118 else 0
  { Core.empty with
    scal := Vector.ofFn fun j : Fin 32 => i.scal.getD j 0
    td := Vector.ofFn fun j : Fin 64 => i.td.getD j 0
    pred := BitVec.ofNat 8 i.pred
    rng := Vector.ofFn seq }

/-- The templates of a core, slot after slot, in its instruction region (R109). -/
def Dev.loadTemplates (d : Dev) (m : Image) (c : Fin 48) : Dev :=
  let bs := m.form.templates.flatMap fun t => (t.getD c []).flatMap fun w => leBytes 16 w.toNat
  { d with mem := { d.mem with tile := d.mem.tile.set c (d.mem.tile[c].writeN (m.form.tileBytes c) bs) } }

/-- The quota arrays at the head of the statistics region, and the SEP registers that name it (R189, R194). -/
def Dev.copyQuotas (d : Dev) (m : Image) : Dev :=
  match m.form.sep with
  | none => d
  | some p =>
    let d := p.layers.zipIdx.foldl (fun d (l, i) =>
      let r := match m.xchLayer l.layer with | none => 0 | some x => d.rank x.g
      d.hbmWrite (p.quotaAt i) ((List.range l.n).flatMap fun x => leBytes 4 (m.quota l.layer r x))) d
    (List.range 12).foldl (fun d x =>
      (d.wr .sepStatsLo (p.stats % 2 ^ 32) x).wr .sepStatsHi (p.stats / 2 ^ 32) x) d

/-- The job becomes ARMED. -/
def Dev.becomeArmed (d : Dev) (k : Clock) : Dev :=
  match d.image with
  | none => d
  | some m =>
    let d := { d with
      cores := Vector.ofFn d.armedCore
      mem := { d.mem with stat := Vector.replicate 48 [], poisonStat := [] }
      pail := Pail.empty, xch := Xch.empty, coll := Coll.empty
      sep := Vector.replicate 12 SepDie.empty, churn := Vector.replicate 12 none
      layerInv := [], work := [], frame := Frame.none_, twin := d.twin.fresh, sync := { d.sync with lostArmed := false } }
    let d := (List.finRange 48).foldl (fun d c => d.loadTemplates m c) d
    let d := ((d.copyQuotas m).herdArm.setPhase .armed)
    (d.report 2 (leBytes 8 d.launchCount)).sendArm k

/-- LAUNCH_MISSED (R49): the job moves to FAULTED. -/
def Dev.launchMissed (d : Dev) (k : Clock) (cause : Nat) : Dev :=
  (d.flag .tickEvLaunchMissed).tickFault k 0x61 cause 0

/-- The arm command of TICK_ARM_CMD; the second part tells whether it was not ignored (R48, R49, R69). -/
def Dev.armCommand (d : Dev) (k : Clock) : Dev × Bool :=
  if d.job.phase ≠ .admitted || d.job.abort then (d, false)
  else if !d.lockedForArm then (d.launchMissed k 6, true)
  else if d.launchCount < k.count + 100000 then (d.launchMissed k 5, true)
  else if d.lsJob && d.armField ≠ 0 then (((d.flag .twinLsArmRefuse).wr .twinLsArmField d.armField).launchMissed k 7, true)
  else (d.becomeArmed k, true)

/-- The disarm command of TICK_ARM_CMD (R50, R69). -/
def Dev.disarmCommand (d : Dev) (k : Clock) : Dev × Bool :=
  if d.job.phase ≠ .armed || d.job.abort || d.launchCount ≤ k.count then (d, false)
  else (((d.wr64 .tickLaunchLo .tickLaunchHi 0).setPhase .admitted).sendArm k, true)

/-! ### The open of a frame (R37, R39, R40, R42) -/

/-- A sequencer starts its slot's template (R53). -/
def Core.openFrame (x : Core) : Core := { x with pc := 0, ended := false, hold := .none, loops := [], work := [] }

/-- Frame `n` opens at count `b`: the parts of every unit, in order. Captures for an image come before anything of
frame `n` changes what they hold (R237, R243, R258, R279, R291, R381, R395, R401). -/
def Dev.openFrame (d : Dev) (k : Clock) (n b : Nat) : Dev :=
  let slots := match d.image with | none => 1 | some m => m.form.slots
  let d := { d with
    frame := ⟨.opening, true, n, b, n % slots, false, k.units, 0, none, false, false⟩
    cores := d.cores.map Core.openFrame, work := [], layerInv := [] }
  let d := (d.freeReturning.snapOpen k n).windowsAtOpen.latePromotes
  let d := match d.herdPart with
    | some p => d.herdBegin k p
    | none => d.dropStale.tierOpen k
  ((d.markEmptySlots k).lsOpen k).lsStep k

/-- What is counted and numbered from the launch count (R288, R296, R302, R327, R333). -/
def Dev.registerKey (d : Dev) : Dev :=
  let d := d.forgetKey d.jobKey
  let d := { d with
    fab := { d.fab with flowBytes := [], flowReps := [] }
    gmem := { d.gmem with
      nexts := d.gmem.nexts.filter fun x => x.mgmt
      lasts := [], cache := [], sources := d.gmem.sources.filter fun x => x.key ≠ d.jobKey } }
  d.modJob fun j => { j with keyed := true }

/-- LAUNCH_COUNT_REACHED: an ARMED job opens its first frame; otherwise a launch is missed, also where the counter was
LOST while the job was ARMED and has left it since (R36, R48, R49). A restored job begins with its resume frame (R404).
A count that had passed when it was written, or when the job was admitted, is not reached any more. (log 75 DEDUCED) -/
def execLaunchCountReached (s : State) : Result :=
  let t := s.dev.launchCount
  let due := t ≠ 0 && !s.dev.job.abort &&
    ((s.dev.job.phase = .admitted && s.dev.ctl.launchFrom ≤ t) || s.dev.job.phase = .armed)
  s.act (fun k => if due then k.toCount t else k) fun k d =>
    if !due then none
    else if d.job.phase = .admitted then some (d.launchMissed k 4)
    else if d.syncState = .lost || d.sync.lostArmed then some (d.launchMissed k 2)
    else
      let n := d.snap.resume.getD 0
      let d := ((d.registerKey.dropCounts [.frame]).modJob fun j => { j with launch := t }).wr .tickDeclValid 0
      let d := { d with sync := { d.sync with lostRun := false }, twin := { d.twin with digested := n } }
      some (((d.setPhase .running).openFrame k n t).pumpAll k)

/-! ### Engines that have not finished (R43) -/

/-- Engines of the cores with work that the close waits for. -/
def Dev.busyEngines (d : Dev) : List Nat :=
  (List.finRange 48).flatMap (fun c => d.cores[c].entries.filterMap fun e =>
    match e.eng with
    | .gmem => none
    | .coll _ => none
    | .xch => (d.xchEngines e).min?
    | g => some (engineId (some g) c)) ++ d.openEngines

/-- Engines with work that the drain waits for (R74). -/
def Dev.drainEngines (d : Dev) : List Nat :=
  (d.coll.invs.filter fun i => i.state ≠ 2 || !i.unacked.isEmpty).map (fun i => 0xC00 + 2 * d.collDie i.desc + 1) ++
  (if d.snap.mirrors.isEmpty then [] else [0xD00]) ++
  (if d.tier.objs.any fun o => o.move.isSome then [0xE01] else []) ++
  if d.gmem.reqs.any fun r => !r.mgmt then [0xE02] else []

/-- The lowest of a list of engines, the span where there is none. (log 55 DEDUCED) -/
def lowestEngine (l : List Nat) : Nat := l.foldl min 0xF00

/-- FRAME_OPEN: at the boundary the next frame opens. Where the last one has not closed, or the counter was lost, or
a drain has not ended, the frame overruns instead (R36, R37, R42, R43, R74). -/
def execFrameOpen (s : State) : Result :=
  let d := s.dev
  let due := d.frame.opened && !d.job.abort &&
    (d.job.phase = .running || (d.job.phase = .draining && d.job.tearFrom.isNone))
  s.act (fun k => if due then k.toCount d.nextBoundary else k) fun k d =>
    if !due then none
    else if d.job.phase = .draining then some (d.overrun k 1 (lowestEngine d.drainEngines))
    else if d.sync.lostRun then some (d.overrun k 2 (lowestEngine (if d.frame.closed then [] else d.busyEngines)))
    else if !d.frame.closed then some (d.overrun k 1 (lowestEngine d.busyEngines))
    else some (d.openFrame k (d.frame.number + 1) d.nextBoundary)

/-- Sequencers issue from the next arithmetic cycle of their die on. -/
def Dev.issueFrom (d : Dev) (k : Clock) : Dev :=
  { d with cores := Vector.ofFn fun c => { d.cores[c] with nextAc := max d.cores[c].nextAc (d.acFrom (dieOf c) k.units) } }

/-- RUN_START: the open latency of 400 counts has passed and sequencers issue (R40, R88). -/
def execRunStart (s : State) : Result :=
  let due := s.dev.runs && s.dev.frame.phase = .opening
  s.act (fun k => if due then k.toCount (s.dev.frame.boundary + 400) else k) fun k d =>
    if due then
      some ((d.modFrame fun f => { f with phase := .run }).issueFrom k)
    else none

/-- GUARD_START: the guard band begins (R38, R40). -/
def execGuardStart (s : State) : Result :=
  let due := s.dev.runs && s.dev.frame.opened && !s.dev.frame.guardSeen && s.dev.frame.phase ≠ .opening
  s.act (fun k => if due then k.toCount s.dev.guardStart else k) fun _ d =>
    if due then some (d.modFrame fun f => { f with phase := .guardBand, guardSeen := true }) else none

/-! ### The limiter (R51, R52) -/

/-- The limiter has cause to gate: the last sample shows more power than PWR_CAP_W, or a junction hotter than
PWR_TJ_TARGET (R477). (log 57 DEDUCED) -/
def Dev.overTarget (d : Dev) : Bool := d.rd .pwrCapW < d.pwr.watts || (4 * d.rd .pwrTjTarget : Nat) < d.junction

/-- THROTTLE_STEP: over a target, the limiter starts a step of 100 counts, or finds its budget spent (R51, R477).
(log 57 DEDUCED) -/
def execThrottleStep (s : State) : Result :=
  s.now fun k d =>
    let f := d.frame
    if !(d.issuing k) || f.budgetSpent || !d.overTarget then none
    else if f.gatedCounts + 100 ≤ d.guardBand - 1000 then
      some ((d.count .tickThrottleCounts 100).modFrame fun f => { f with
        gatedCounts := f.gatedCounts + 100, gate := some (k.count + 100) })
    else some (d.budgetSpent.modFrame fun f => { f with budgetSpent := true })

/-- THROTTLE_STEP_END: a step of the limiter ends and issue resumes. (log 57 DEDUCED) -/
def execThrottleStepEnd (s : State) : Result :=
  s.act (fun k => match s.dev.frame.gate with | some t => k.toCount t | none => k) fun k d =>
    match d.frame.gate with
    | none => none
    | some _ => some ((d.modFrame fun f => { f with gate := none }).issueFrom k)

/-! ### The drain (R72 to R74, R248) -/

/-- The job enters DRAINING: no further frame opens. -/
def Dev.startDrain (d : Dev) (k : Clock) : Dev :=
  (((d.modJob fun j => { j with endFrame := d.frame.number, drainBy := some d.nextBoundary }).setPhase .draining).herdDrain k).sendArm k

/-- Where the stop frame in force has closed, a RUNNING job drains at once (R72, R73). -/
def Dev.drainIfStopped (d : Dev) (k : Clock) : Dev :=
  if d.runs && d.frame.opened && d.frame.closed && d.job.stop ≤ d.frame.number then d.startDrain k else d

/-! ### The close of a frame (R41, R42, R47) -/

/-- Every operation issued in the frame has retired, but those of global memory and collectives; every sequencer has
executed TICK.END; every reserved exchange slot has been returned; and no Separator instruction has its capacity stage
before it, which would write the frame's statistics buffer (R41, R190). (log 33 DEDUCED) -/
def Dev.frameDone (d : Dev) : Bool :=
  d.cores.toList.all (fun x => x.ended && x.entries.all fun e => e.eng.outlives) && d.slotsReturned &&
    d.sep.toList.all fun x => x.runs.isEmpty

/-- The unit at which the last of these came to hold: the last retirement, or the last TICK.END. -/
def Dev.doneAt (d : Dev) : Nat := 
  (List.finRange 48).foldl (fun u c => max u (d.dieUnit (dieOf c) (d.cores[c].nextAc - 1))) d.frame.lastWork

/-- The first whole count at or after a unit, at the rate in force (R31, R34). -/
def Clock.countAt (k : Clock) (u : Nat) : Nat :=
  ceilDiv (k.count * countParts + k.phase + u * k.step - k.units * k.step) countParts

/-- The close event: the first whole count at or after that unit (R41). -/
def Dev.closeCount (d : Dev) (k : Clock) : Nat := k.countAt d.doneAt

/-- Work of an engine in this frame, in its declared unit; the span counts from the first issue to the close.
(log 56 DEDUCED) -/
def Dev.engineWork (d : Dev) (close e : Nat) : Nat :=
  let cls := e / 256
  if cls = 0xF then close - (d.frame.boundary + 400)
  else if h : cls ≤ 4 ∧ e % 256 < 48 then Sparse.get d.cores[e % 256].work 0 cls
  else Sparse.get d.work 0 e

/-- Record the first declaration that a frame has exceeded since launch (R47). (log 56 DEDUCED) -/
def Dev.checkDecls (d : Dev) (close : Nat) : Dev :=
  match d.image with
  | none => d
  | some m =>
    match m.form.decls.find? fun x => x.slot = d.frame.slot && x.work < d.engineWork close x.engine with
    | none => d
    | some x =>
      let d := d.flag .tickEvDecl
      if d.rd .tickDeclValid = 1 then d
      else ((d.wr .tickDeclSlot x.slot).wr .tickDeclEngine x.engine).flag .tickDeclValid

/-- Waits in progress are counted up to the close (R311, R362, R384). -/
def Dev.settleWaits (d : Dev) (k : Clock) : Dev :=
  let d := match d.gmem.waitFrom with
    | some f => (d.count .gmemRoomWait (k.cc - f)).modGmem fun g => { g with waitFrom := some k.cc }
    | none => d
  let d := match d.coll.waitFrom with
    | some f => (d.count .collSlotWait (k.cc - f)).modColl fun g => { g with waitFrom := some k.cc }
    | none => d
  let d := match d.pail.waitFrom with
    | some f => { d.count .pailWait (k.cc - f) with pail := { d.pail with waitFrom := some k.cc } }
    | none => d
  let d := match d.tier.waitFrom with
    | some f => (d.count .tierWait (k.cc - f)).modTier fun g => { g with waitFrom := some k.cc }
    | none => d
  (d.count .twinLsHold (sumBy d.twin.holds fun h => k.ac - h.2 / 5)).modTwin fun t => { t with
    holds := t.holds.map fun h => (h.1, k.units) }

/-- The counters and statistics of the frame are latched (R41). -/
def Dev.latchFrame (d : Dev) (k : Clock) (close : Nat) : Dev :=
  let late := d.guardStart < close
  let d := (d.wr .tickFrameClose (close - d.frame.boundary)).wr .tickFrameGuardEncroach (if late then 1 else 0)
  let d := if late then d.flag .tickEvEncroach else d
  let d := d.checkDecls close
  let d := (d.settleWaits k).latch [.frame]
  let d := d.latchSummary k d.frame.number
  let d := (List.range 38).foldl (fun d b =>
    if d.rd .hubBridgeOvershare 0 b = 0 then d else d.flag .hubBridgeOvershareSeen 0 b) d
  let d := (List.range 12).foldl (fun d x => d.wr .sepStatsBuf (d.frame.number % 2) x) d
  (List.range 8).foldl (fun d c => d.wr .pailLow (min (d.pail.low.getD c 0) (2 ^ 20 - 1)) 0 c) d

/-- FRAME_CLOSE: the close event. The frame's counters are latched, and the close of the stop frame moves the job to
DRAINING (R41, R42, R72, R399). -/
def execFrameClose (s : State) : Result :=
  let c := s.dev.closeCount s.clk
  let due := s.dev.runs && s.dev.frame.opened && !s.dev.frame.closed && s.dev.frame.phase ≠ .opening &&
    s.dev.frameDone && c < s.dev.nextBoundary
  s.act (fun k => if due then k.toCount c else k) fun k d =>
    if due then
      let n := d.frame.number
      let d := (d.latchFrame k c).modFrame fun f => { f with
        closed := true, phase := if f.guardSeen then .guardBand else .idle }
      some ((((d.lsStep k).lsClose k).mirrorClose k n).drainIfStopped k)
    else none

/-! ### The end of a job (R74, R387) -/

/-- An image of a Cellar copy still waits for pages in a loan. -/
def Dev.copyReads (d : Dev) : Bool := match d.snap.run with | some p => !p.whole | none => false

/-- DRAIN_END: the last outstanding item has retired. The cut of the frame after the stop frame is taken, and
teardown begins (R74, R387, R395). The loads of a copy are items of the job: a drain whose cut makes some goes on, and
another DRAIN_END ends it once they have been answered. (log 50 DEDUCED) -/
def execDrainEnd (s : State) : Result :=
  s.now fun k d =>
    if d.job.phase = .draining && d.job.tearFrom.isNone && !d.job.abort && d.drainedButMirror &&
        d.snap.mirrors.isEmpty && k.count < d.nextBoundary then
      let kf := d.frame.number + 1
      let d := if d.snap.judged = some kf then d else d.takeCut k kf
      some (if d.copyReads then d else d.modJob fun j => { j with tearFrom := some k.count })
    else none

/-- Steps 2 to 4 of Table REC-2. The sequence numbers of the random streams stay until RELEASE (R129). A Cellar copy goes on after the completed end of a job (R387, R388). -/
def Dev.teardown (d : Dev) (completed : Bool) : Dev :=
  let d := d.forgetKey d.jobKey
  let d := { d with
    gmem := { d.gmem with
      reqs := d.gmem.reqs.filter fun r => r.mgmt, nexts := d.gmem.nexts.filter fun x => x.mgmt
      lasts := [], cache := [], windows := [], changes := [], waitFrom := none
      sources := d.gmem.sources.filter fun x => x.key ≠ d.jobKey }
    coll := Coll.empty, xch := Xch.empty, twin := d.twin.fresh
    tier := { d.tier with
      objs := d.tier.objs.map fun (o : TierObj) => { o with move := none, marked := none, pins := [], listed := false }
      queue := [], herd := [], watch := [], waitFrom := none }
    snap := { d.snap with mirrors := [], run := if completed then d.snap.run else none, early := [], stores := [] }
    cores := d.cores.map fun (x : Core) => { Core.empty with rng := x.rng }
    mem := { d.mem with
      tile := Vector.replicate 48 [], die := Vector.replicate 12 [], stat := Vector.replicate 48 []
      poisonTile := [], poisonDie := [], poisonStat := [] }
    sep := Vector.replicate 12 SepDie.empty, churn := Vector.replicate 12 none, layerInv := []
    pail := Pail.empty, work := [] }
  let d := match d.herdPart with
    | some p => { d with mem := { d.mem with hbm := d.mem.hbm.clear p.table (2 ^ 21) } }
    | none => d
  { d with herd := Herd.empty }

/-- TEARDOWN_COMPLETE: teardown ends, at most 2,000,000 counts after the event that began it, and the job is TORN
(R76, R387). (log 6 DEDUCED) -/
def execTeardownComplete (at_ : Nat) (s : State) : Result :=
  s.act (fun k => match s.dev.job.tearFrom with | some t => k.toCount (min at_ (t + 2000000)) | none => k) fun _ d =>
    match d.job.tearFrom with
    | none => none
    | some _ =>
      let cause := if d.job.phase = .faulted then 3 else if d.job.abort then 2 else 1
      let d := (d.teardown (cause = 1)).wr .jobStateEnd cause
      let d := { d with
        frame := { Frame.none_ with number := d.frame.number, boundary := d.frame.boundary }
        ctl := { d.ctl with period := V3.all 0, guardBand := V3.all 0 } }
      some ((d.modJob fun j => { j with
        tearFrom := none, faultCc := none, abort := false, keyed := false, drainBy := none }).setPhase .torn)

end Sys2Proof.Machine
end

