-- ==== Sys2Proof/Machine/Object.lean ====
section
/-! DEFINITION. Reading a program object: header, section table, signature and section contents, the three stages of
check 1 (R64, R65, R108 to R111, R217, R229, R290, R344, R345, R487, R488). -/

namespace Sys2Proof.Machine

open Sys2Proof

/-- A refusal at admission: code, detail, and for check 9 the slot and engine of TICK_ADMIT_FAIL (R46, R71). -/
structure AdmitFail where
  code : Nat
  detail : Nat
  tick : Option (Nat × Nat)
  deriving DecidableEq, Repr

namespace AdmitFail
/-- CAPABILITY_LEVEL with a detail. -/
def level (detail : Nat) : AdmitFail := ⟨9, detail, none⟩
/-- A code without detail (Table REG-8). -/
def plain (code : Nat) : AdmitFail := ⟨code, 0, none⟩
end AdmitFail

/-- Go on where a condition holds. -/
def admitIf (ok : Bool) (f : AdmitFail) : Except AdmitFail Unit := if ok then .ok () else .error f

/-- A range of bytes is zero. -/
def zeroAt (b : List Byte) (o n : Nat) : Bool := allZero (slice b o n)

/-! ### Header and section table (R64, Tables TYN-2, TYN-3) -/

/-- One section table entry. -/
structure Section where
  kind : Nat
  off : Nat
  len : Nat
  deriving DecidableEq, Repr

/-- How many sections of a type an object may hold (Table TYN-3). -/
def sectionNumber (kind : Nat) : Option (Nat × Nat) :=
  match kind with
  | 0x01 => some (0, 1)
  | 0x02 => some (0, 16)
  | 0x03 => some (1, 1)
  | 0x04 => some (0, 1)
  | 0x05 => some (0, 1)
  | 0x0F => some (1, 1)
  | _ => none

/-- The section table. -/
def readSections (b : List Byte) : List Section :=
  (List.range (field b 0x0C 4)).map fun i =>
    ⟨field b (0x40 + 32 * i) 4, field b (0x48 + 32 * i) 8, field b (0x50 + 32 * i) 8⟩

/-- Stage 1 of check 1: the loaded range `b` begins with a valid header and section table (R8, R64, R487). -/
def headerOk (b : List Byte) : Bool :=
  let n := field b 0x0C 4
  let len := field b 0x10 8
  let ss := readSections b
  let has := fun (k : Nat) => ss.any fun s => s.kind = k
  b.take 8 = ascii "TYNILOBJ" && field b 8 2 = 1 && 1 ≤ field b 0x0A 1 && field b 0x0A 1 ≤ 4 &&
  field b 0x0B 1 < 4 && zeroAt b 0x18 40 && 2 ≤ n && n ≤ 64 &&
  0x40 + 32 * n ≤ len && len ≤ b.length &&
  (List.range n).all (fun i => field b (0x44 + 32 * i) 4 = 0 && field b (0x58 + 32 * i) 8 = 0) &&
  ss.all (fun s => (sectionNumber s.kind).isSome && 0x40 + 32 * n ≤ s.off && s.off + s.len ≤ len) &&
  !anyOverlap (ss.map fun s => (s.off, s.len)) &&
  [0x01, 0x02, 0x03, 0x04, 0x05, 0x0F].all (fun k =>
    let c := (ss.filter fun s => s.kind = k).length
    (sectionNumber k).any fun r => r.1 ≤ c && c ≤ r.2) &&
  (match ss.getLast? with
    | none => false
    | some s => s.kind = 0x0F && s.len = 265 && s.off + s.len = len &&
        ss.all fun x => x.kind = 0x0F || x.off + x.len ≤ s.off) &&
  bitAt (field b 0x0B 1) 0 = has 0x01 && bitAt (field b 0x0B 1) 1 = has 0x02

/-- The bytes of the sections of a type, in table order. -/
def sectionsOf (b : List Byte) (kind : Nat) : List (List Byte) :=
  ((readSections b).filter fun s => s.kind = kind).map fun s => slice b s.off s.len

/-! ### Signature (R437, R487) -/

/-- Stage 2 of check 1: the signature of the object `b`, cut to its length, verifies under a key whose SHA-512 the
owner policy names. -/
def signatureOk (signers : List (List Byte)) (b : List Byte) : Bool :=
  let sig := (sectionsOf b 0x0F).headD []
  let key := slice sig 132 133
  signers.contains (sha512 key) && ecdsaVerify key (b.take (b.length - 265)) (sig.take 132)

/-! ### OBJECTS (R65, R229, Tables TYN-3A, BWD-5, TIER-2, REC-3) -/

/-- A continuation byte of UTF-8. -/
def utf8Cont (b : Nat) : Bool := 0x80 ≤ b && b < 0xC0

/-- Well-formed UTF-8. -/
def utf8Ok : Nat → List Nat → Bool
  | 0, l => l.isEmpty
  | _, [] => true
  | n + 1, a :: t =>
    if a < 0x80 then utf8Ok n t
    else
      match t with
      | b :: t =>
        if 0xC2 ≤ a && a < 0xE0 then utf8Cont b && utf8Ok n t
        else
          match t with
          | c :: t =>
            if 0xE0 ≤ a && a < 0xF0 then
              utf8Cont b && utf8Cont c && (a ≠ 0xE0 || 0xA0 ≤ b) && (a ≠ 0xED || b < 0xA0) && utf8Ok n t
            else
              match t with
              | e :: t =>
                0xF0 ≤ a && a < 0xF5 && utf8Cont b && utf8Cont c && utf8Cont e && (a ≠ 0xF0 || 0x90 ≤ b) &&
                  (a ≠ 0xF4 || b < 0x90) && utf8Ok n t
              | [] => false
          | [] => false
      | [] => false

/-- A name: UTF-8, padded with zero bytes. (log 51 DEDUCED) -/
def nameOk (b : List Byte) : Bool :=
  let s := b.takeWhile (· ≠ 0)
  allZero (b.drop s.length) && utf8Ok 64 (s.map BitVec.toNat)

/-- The fields of an OBJECTS entry. -/
def entryOf (b : List Byte) : ObjEntry where
  format := field b 0x40 1
  layout := field b 0x41 1
  rank := field b 0x42 1
  shape := (List.range (min 4 (field b 0x42 1))).map fun i => field b (0x48 + 8 * i) 8
  role := field b 0x80 1
  target := field b 0x84 4 % 2 ^ 20
  trow := field b 0x88 2
  tcol := field b 0x8A 2
  movable := field b 0x90 1 = 1
  tier := field b 0x91 1
  die := field b 0x92 1
  home0 := field b 0x94 4
  size := field b 0x98 8
  hbm := field b 0xA0 8
  survival := field b 0xB0 1
  interval := field b 0xB4 4

/-- The fields of an entry lie in their stated ranges, and its reserved bytes and bits are zero; `n` is the entry count. -/
def entryOk (n : Nat) (b : List Byte) : Bool :=
  let e := entryOf b
  nameOk (b.take 64) && e.format < 22 && e.layout < 4 && 1 ≤ e.rank && e.rank ≤ 4 && e.shape.all (1 ≤ ·) &&
  ((List.range 4).drop e.rank).all (fun i => field b (0x48 + 8 * i) 8 = 1) &&
  e.role ≤ 4 && (!(e.role = 2 || e.role = 3) || field b 0x84 4 < n && field b 0x84 4 < 2 ^ 20) &&
  field b 0x90 1 ≤ 1 && e.tier ≤ 2 && (e.die ≤ 11 || e.die = 0xFF) && 1 ≤ e.size && e.size ≤ 2 ^ 43 && e.survival ≤ 3 &&
  [(0x43, 5), (0x68, 24), (0x81, 3), (0x8C, 4), (0x93, 1), (0xA8, 8), (0xB1, 3), (0xB8, 8), (0xC0, 64)].all
    fun r => zeroAt b r.1 r.2

/-- The OBJECTS section (R65). Bytes behind the last entry are not read. (log 84 DESIGN CHOICE) -/
def readObjects (b : List Byte) : Option (List ObjEntry) :=
  let n := field b 0 4
  let es := (List.range n).map fun i => slice b (16 + 256 * i) 256
  if 1 ≤ n && n ≤ 1048576 && zeroAt b 4 12 && 16 + 256 * n ≤ b.length && es.all (entryOk n) then
    some (es.map entryOf)
  else none

/-! ### WINDOWS (R290) -/

/-- The WINDOWS section: its entries for W0 upward. -/
def readWindows (b : List Byte) : Option (List Nat) :=
  let n := field b 0 4
  let es := (List.range n).map fun i => field b (16 + 16 * i) 16
  if n ≤ 1024 && zeroAt b 4 12 && 16 + 16 * n ≤ b.length && es.all winLegal then some es else none

/-! ### COLLECTIVES (R344, R345, Tables COLL-1 to COLL-3) -/

/-- A member list is legal (R345). -/
def membersOk (ms : List Nat) : Bool :=
  ms.zipIdx.all (fun (m, i) =>
    bitRange m 15 15 = 0 && if i = 0 then memParent m = 0xFFFF else memParent m < i) &&
  noDup (ms.map memIndex)

/-- A descriptor entry at an offset of the section. -/
def descOf (b : List Byte) (o : Nat) : CollDesc where
  desc := field b o 2
  type := field b (o + 2) 1
  oper := field b (o + 3) 1
  check := bitAt (field b (o + 4) 1) 0
  boardFmt := field b (o + 5) 1
  domainFmt := field b (o + 6) 1
  slot := field b (o + 7) 1
  maxTiles := field b (o + 8) 4
  delta := field b (o + 0xC) 1
  deadline := field b (o + 0x10) 4
  mask := field b (o + 0x20) 8
  members := (List.range (field b (o + 0x14) 2)).map fun i => field b (field b (o + 0x18) 8 + 4 * i) 4

/-- The fields of a descriptor entry lie in their ranges, but for the deadline's bound by the period. -/
def descOk (b : List Byte) (slots o : Nat) : Bool :=
  let c := descOf b o
  let lists := field b (o + 0x18) 8
  let count := field b (o + 0x14) 2
  c.desc < 4096 && (c.type = 1 && c.oper = 0 || c.type = 2 && c.oper ≤ 2) && field b (o + 4) 1 ≤ 1 &&
  (!c.check || c.type = 2 && c.oper = 0) && c.boardFmt ≤ 2 && c.domainFmt ≤ 2 && c.slot < slots &&
  1 ≤ c.maxTiles && c.maxTiles ≤ 2 ^ 24 && c.delta ≤ 15 && zeroAt b (o + 0xD) 3 && 1 ≤ count && count ≤ 16384 &&
  zeroAt b (o + 0x16) 2 && lists % 4 = 0 && lists + 4 * count ≤ b.length && c.mask ≠ 0 && c.mask < 2 ^ 48 &&
  zeroAt b (o + 0x28) 24 && membersOk c.members

/-- The COLLECTIVES section. -/
def readColls (b : List Byte) : Option CollSection :=
  let n := field b 0 2
  let slots := field b 2 2
  let at_ := (List.range n).map fun i => 0x20 + 64 * i
  if 0x20 ≤ b.length && n ≤ 4096 && slots ≤ 256 && zeroAt b 4 4 && field b 8 8 % 4096 = 0 && field b 0x10 8 % 4096 = 0 &&
      zeroAt b 0x18 8 && 0x20 + 64 * n ≤ b.length && at_.all (descOk b slots) &&
      strictlyAscending (at_.map fun o => field b o 2) then
    some ⟨slots, field b 8 8, field b 0x10 8, at_.map (descOf b)⟩
  else none

/-! ### PLACED (R108 to R111, R217, Table ENC-14) -/

/-- A PLACED section as check 1 leaves it: its own bytes, and parts and statistics map not yet judged. -/
structure RawForm where
  bytes : List Byte
  part : Nat
  order : Nat
  members : Nat
  period : Nat
  guardReq : Nat
  slots : Nat
  templates : List (List (List InsWord))
  init : List CoreInit
  decls : List Decl
  /-- Reservation parts by type (R111). -/
  parts : List (Nat × List Byte)
  stats : List Byte
  deriving DecidableEq, Repr

/-- The five sub-sections, each an offset and a length. -/
def subSections (b : List Byte) : List (Nat × Nat) :=
  (List.range 5).map fun i => (field b (0x10 + 16 * i) 8, field b (0x18 + 16 * i) 8)

/-- The bytes of a sub-section. -/
def subSection (b : List Byte) (i : Nat) : List Byte :=
  let r := (subSections b).getD i (0, 0)
  slice b r.1 r.2

/-- The least length of each part type: that of its fixed fields (R111). -/
def partFixed (kind : Nat) : Option Nat :=
  match kind with
  | 1 => some 0x10
  | 2 => some 0x10
  | 3 => some 0x60
  | 4 => some 0x620
  | 5 => some 0x18
  | 6 => some 0x10
  | 7 => some 0x40
  | _ => none

/-- The parts of a reservations sub-section; none where its directory breaks R111. -/
def readParts (b : List Byte) : Option (List (Nat × List Byte)) :=
  if b.isEmpty then some []
  else
    let n := field b 0 4
    let es := (List.range n).map fun i =>
      (field b (16 + 16 * i) 2, field b (18 + 16 * i) 2, field b (20 + 16 * i) 4, field b (24 + 16 * i) 8)
    if 16 ≤ b.length && n ≤ 7 && zeroAt b 4 12 && 16 + 16 * n ≤ b.length && noDup (es.map (·.1)) &&
        es.all (fun (k, z, len, off) => z = 0 && off % 8 = 0 && 16 + 16 * n ≤ off && off + len ≤ b.length &&
          (partFixed k).any (· ≤ len)) &&
        !anyOverlap (es.map fun (_, _, len, off) => (off, len)) then
      some (es.map fun (k, _, len, off) => (k, slice b off len))
    else none

/-- The declarations (R110). -/
def readDecls (b : List Byte) : List Decl :=
  (List.range (b.length / 16)).map fun i => ⟨field b (16 * i) 2, field b (16 * i + 2) 2, field b (16 * i + 8) 8⟩

/-- The declaration records keep R110. -/
def declsOk (b : List Byte) (slots : Nat) : Bool :=
  let ds := readDecls b
  b.length % 16 = 0 && ds.all (fun x => x.slot < slots && x.engine < 4096) &&
  (List.range ds.length).all (fun i => zeroAt b (16 * i + 4) 4) &&
  strictlyAscending (ds.map fun x => x.slot * 4096 + x.engine)

/-- A template: its instructions in order, 16 bytes each (R109). -/
def readTemplate (b : List Byte) (off n : Nat) : List InsWord :=
  (List.range n).map fun i => BitVec.ofNat 128 (field b (off + 16 * i) 16)

/-- A PLACED section; none where it breaks the rules of check 1. -/
def readForm (b : List Byte) : Option RawForm :=
  let slots := field b 0xC 2
  let subs := subSections b
  let dir := subSection b 0
  let ents := (List.range (slots * 48)).map fun i =>
    (field dir (16 * i) 8, field dir (16 * i + 8) 4, field dir (16 * i + 12) 4)
  let init := subSection b 1
  let recs := (List.range 48).map fun i => slice init (2368 * i) 2368
  let decls := subSection b 2
  let stats := subSection b 4
  let ok := 0x60 ≤ b.length && 1 ≤ slots && slots ≤ 256 && zeroAt b 0xE 2 &&
    subs.all (fun r => 0x60 ≤ r.1 && r.1 + r.2 ≤ b.length) && !anyOverlap subs &&
    dir.length = slots * 48 * 16 && init.length = 48 * 2368 &&
    ents.all (fun (o, n, z) => 1 ≤ n && n ≤ 262144 && z = 0 && o + 16 * n ≤ b.length) &&
    recs.all (fun r => zeroAt r 0x901 63) && declsOk decls slots && field stats 0 1 ≤ 2
  match ok, readParts (subSection b 3) with
  | true, some parts => some {
      bytes := b, part := field b 0 1, order := field b 1 1, members := field b 2 2, period := field b 4 4
      guardReq := field b 8 4, slots := slots
      templates := (List.range slots).map fun s => (List.range 48).map fun c =>
        let e := ents.getD (48 * s + c) (0, 0, 0)
        readTemplate b e.1 e.2.1
      init := recs.map readInit, decls := readDecls decls, parts := parts, stats := stats }
  | _, _ => none

/-- The target tuple of a form (R59). -/
def RawForm.target (f : RawForm) : Nat × Nat × Nat := (f.part, f.order, f.members)

/-- A part of a form. -/
def RawForm.partOf (f : RawForm) (kind : Nat) : Option (List Byte) := (f.parts.find? fun p => p.1 = kind).map (·.2)

/-! ### The object -/

/-- A program object that check 1 accepts. -/
structure ProgObject where
  level : Nat
  digest : List Byte
  portable : Option (List Byte)
  forms : List RawForm
  objects : List ObjEntry
  windows : List Nat
  colls : CollSection
  deriving DecidableEq, Repr

/-- Map a reading over a list; none where one of them fails. (log 51 DEDUCED) -/
def readAll {α β : Type} (f : α → Option β) : List α → Option (List β)
  | [] => some []
  | a :: t => match f a, readAll f t with
    | some b, some l => some (b :: l)
    | _, _ => none

/-- Stage 3 of check 1: the contents of the sections, `b` being the object's own bytes. Two forms of one target make
the object invalid. -/
def readContents (b : List Byte) : Option ProgObject :=
  let one := fun {α : Type} (k : Nat) (f : List Byte → Option α) (none_ : α) =>
    match sectionsOf b k with
    | [] => some none_
    | s :: _ => f s
  match readAll readForm (sectionsOf b 2), one 3 readObjects [], one 4 readWindows [], one 5 readColls ⟨0, 0, 0, []⟩ with
  | some forms, some objects, some windows, some colls =>
    if noDup (forms.map fun f => f.part + 256 * f.order + 65536 * f.members) then
      some ⟨field b 0x0A 1, sha512 b, (sectionsOf b 1).head?, forms, objects, windows, colls⟩
    else none
  | _, _, _, _ => none

/-- Check 1 on the loaded range (R488). (log 51 DEDUCED) -/
def checkOne (signers : List (List Byte)) (range : List Byte) : Except AdmitFail ProgObject :=
  if !headerOk range then .error (.level 1)
  else
    let b := range.take (field range 0x10 8)
    if !signatureOk signers b then .error (.plain 7)
    else match readContents b with
      | none => .error (.level 1)
      | some o => .ok o

end Sys2Proof.Machine
end

