-- ==== Sys2Proof/Machine/Scan.lean ====
section
/-! DEFINITION. The template scans of admission: loops, barriers, levels, roles and the counts that other checks take
through loops (R63, R96, R99, R100, R112, R189, R198). -/

namespace Sys2Proof.Machine

open Sys2Proof

/-! ### Loops (R99) -/

/-- The word is an opcode of a class. -/
def wordIs (w : InsWord) (cls opc : Nat) : Bool := wCls w = cls && wOp w = opc
/-- LOOP. -/
def isLoop (w : InsWord) : Bool := wordIs w 0xB 0x20
/-- TICK.END. -/
def isTickEnd (w : InsWord) : Bool := wordIs w 0xC 1
/-- Instructions of a LOOP's body. -/
def loopBody (w : InsWord) : Nat := wbits w 95 78 + 1
/-- Passes of a LOOP. -/
def loopPasses (w : InsWord) : Nat := wbits w 111 96 + 1

/-- The loop structure of a template, or of a body at a depth, keeps R99. `fuel` is at least its length. -/
def loopsOk : Nat → Nat → List InsWord → Bool
  | 0, _, l => l.isEmpty
  | _, _, [] => true
  | n + 1, depth, w :: t =>
    if isLoop w then
      let body := t.take (loopBody w)
      body.length = loopBody w && depth < 4 && !body.any isTickEnd && loopsOk n (depth + 1) body &&
        loopsOk n depth (t.drop (loopBody w))
    else loopsOk n depth t

/-- The issued instructions of a template with how often each is issued, up to TICK.END; `k` is the number of passes of
the loops around it. -/
def countedIn : Nat → Nat → List InsWord → List (InsWord × Nat)
  | 0, _, _ => []
  | _, _, [] => []
  | n + 1, k, w :: t =>
    if isTickEnd w then [(w, k)]
    else if isLoop w then
      (w, k) :: (countedIn n (k * loopPasses w) (t.take (loopBody w)) ++ countedIn n k (t.drop (loopBody w)))
    else (w, k) :: countedIn n k t

/-- What `f` makes of the instructions of a template in issue order, through loops, up to TICK.END. -/
def issuedIn {α : Type} (f : InsWord → Option α) : Nat → List InsWord → List α
  | 0, _ => []
  | _, [] => []
  | n + 1, w :: t =>
    if isTickEnd w then (f w).toList
    else if isLoop w then
      (f w).toList ++ (List.replicate (loopPasses w) (issuedIn f n (t.take (loopBody w)))).flatten ++
        issuedIn f n (t.drop (loopBody w))
    else (f w).toList ++ issuedIn f n t

/-- Issued instructions of a template with their counts. -/
def counted (t : List InsWord) : List (InsWord × Nat) := countedIn (t.length + 1) 1 t
/-- What `f` makes of a template's instructions in issue order. -/
def issued {α : Type} (f : InsWord → Option α) (t : List InsWord) : List α := issuedIn f (t.length + 1) t

/-- How often instructions of a kind are issued. -/
def countOf (p : InsWord → Bool) (t : List InsWord) : Nat := sumBy ((counted t).filter fun e => p e.1) (·.2)

/-! ### Levels (R62, R63, Table TYN-1) -/

/-- The level that an instruction needs: its class and the features in its fields. -/
def featureLevel (w : InsWord) : Nat :=
  let sr := wbits w 52 51 = 1 &&
    (wordIs w 0x0 1 || wordIs w 0x1 3 || wCls w = 0x2 || (wCls w = 0x3 && wOp w ≠ 6))
  let predictive := wordIs w 0x1 2 && wbits w 47 46 = 2
  let recompute := wCls w = 0x2 && 3 ≤ wOp w && wbits w 37 37 = 1
  max (wordLevel w) (if predictive || recompute then 4 else if sr then 3 else 1)

/-! ### Barriers (R100) -/

/-- The SYNC.BAR of one slot with core, ID, MASK and count. -/
def slotBarriers (row : List (List InsWord)) : List (Nat × Nat × Nat × Nat) :=
  row.zipIdx.flatMap fun (t, c) =>
    ((counted t).filter fun e => wordIs e.1 0xB 0x30).map fun e => (c, wbits e.1 63 56, wbits e.1 111 64, e.2)

/-- The barriers of one slot keep R100. -/
def barriersOk (row : List (List InsWord)) : Bool :=
  let bs := slotBarriers row
  let total := fun (c id mask : Nat) => sumBy (bs.filter fun b => b.1 = c && b.2.1 = id && b.2.2.1 = mask) (·.2.2.2)
  bs.all fun (c, id, mask, _) =>
    bitAt mask c && bs.all (fun b => b.2.1 ≠ id || b.2.2.1 = mask) &&
    (maskCores mask).all fun x => total x id mask = total c id mask

/-! ### The Separator and exchange parts; none where the entry tables of one do not lie in its bytes -/

/-- The entries of the Separator part, as offsets. -/
def sepEntries (b : List Byte) : List Nat := (List.range (field b 0 2)).map fun i => 0x10 + 16 * i

/-- The quotas of an entry of the Separator part. -/
def sepQuotas (b : List Byte) (o : Nat) : List Nat :=
  (List.range (field b (o + 2) 2 + 1)).map fun x => field b (field b (o + 8) 8 + 4 * x) 4

/-- The byte ranges of the quotas. -/
def sepRanges (b : List Byte) : List (Nat × Nat) := (sepEntries b).map fun o => (field b (o + 8) 8, 4 * (field b (o + 2) 2 + 1))

/-- The Separator part (R189, Table SEP-4). Its statistics region is there for check 7 also where a quota array lies
outside the part, which check 8 refuses (R268). -/
def readSep (b : List Byte) : Option SepPart :=
  if 0x10 + 16 * field b 0 2 ≤ b.length then
    some ⟨field b 8 8, (sepEntries b).map fun o => ⟨field b o 2, field b (o + 2) 2 + 1, field b (o + 4) 1 = 1, sepQuotas b o⟩⟩
  else none

/-- The layer entries of an exchange part, as offsets. -/
def xchLayerOffs (b : List Byte) : List Nat := (List.range (field b 0 4)).map fun i => 0x10 + 32 * i

/-- The slot entries of an exchange part, as offsets. -/
def xchSlotOffs (b : List Byte) : List Nat := (List.range (field b 4 4)).map fun i => 0x10 + 32 * field b 0 4 + 64 * i

/-- The exchange part (R197, R198, Table CHN-1); the Separator part gives the length of each host array.
(log 51 DEDUCED) -/
def readXch (sep : Option SepPart) (b : List Byte) : Option XchPart :=
  let nl := field b 0 4
  let ns := field b 4 4
  let experts := fun (o : Nat) => ((sep.bind fun p => p.layers.find? fun l => l.layer = field b o 2).map (·.n)).getD 0
  let layerOf := fun (o : Nat) => ({
    layer := field b o 2, g := field b (o + 2) 2 + 1, width := field b (o + 4) 4, tmax := field b (o + 8) 2
    dfmt := field b (o + 0xA) 1, rfmt := field b (o + 0xB) 1, srcTd := field b (o + 0xC) 1
    hosts := (List.range (experts o)).map fun x => field b (field b (o + 0x10) 8 + 2 * x) 2 } : XchLayer)
  let slotOf := fun (o : Nat) => ({
    slot := field b o 2, layer := field b (o + 2) 2, frameSlot := field b (o + 4) 1
    carried := bitAt (field b (o + 5) 1) 0, final := bitAt (field b (o + 5) 1) 1
    first := field b (o + 6) 2, count := field b (o + 8) 2, mask := field b (o + 0x10) 8 % 2 ^ 48
    arrivals := (List.range (field b (o + 8) 2)).map fun i =>
      let a := field b (o + 0x18) 8 + 8 * i
      (field b a 1, field b (a + 4) 4)
    records := field b (o + 0x20) 8 } : XchSlot)
  if nl ≤ 1024 && ns ≤ 65536 && 0x10 + 32 * nl + 64 * ns ≤ b.length then
    some ⟨(xchLayerOffs b).map layerOf, (xchSlotOffs b).map slotOf⟩
  else none

/-! ### Descriptors (R96) -/

/-- A descriptor that an instruction of the core's templates may change. -/
def tdTarget (w : InsWord) : Option Nat :=
  if wordIs w 0xB 0x10 || wordIs w 0xB 0x11 || wordIs w 0x9 4 then some (wbits w 111 106) else none

/-- Descriptors of a core that some TDSET, TDCOPY or TDPAIL targets. -/
def RawForm.dynamic (f : RawForm) (core : Nat) : List Nat :=
  (f.templates.flatMap fun row => (row.getD core []).filterMap tdTarget).eraseDups

/-- The layer of the exchange part that a CHURN.RESTORE names, or the slot of an XCH instruction. -/
def XchPart.layerNamed (p : XchPart) (w : InsWord) : Option XchLayer :=
  let of := fun (n : Nat) => p.layers.find? fun l => l.layer = n
  if wCls w = 0x5 then of (wbits w 84 75)
  else (p.slots.find? fun s => s.slot = wbits w 99 84).bind fun s => of s.layer

/-- The formats that a layer's exchange entry gives the operands of CHURN.RESTORE and of the XCH instructions, and the
source descriptor of XCH.DISPATCH; an entry with an undefined format is left to check 8 (R96, R202, R203, R209, R211,
R212). -/
def XchPart.roles (p : XchPart) (w : InsWord) : List (Nat × Role) :=
  let d := wbits w 111 106
  let a := wbits w 105 100
  let is := fun (fmt : Nat) => Role.routing (if fmt < 22 then [fmt] else [])
  match p.layerNamed w with
  | none => []
  | some l =>
    match wCls w, wOp w with
    | 0x5, 2 => [(d, is l.rfmt), (a, is l.rfmt)]
    | 0x6, 1 => [(l.srcTd, is l.dfmt)]
    | 0x6, 2 => [(d, is l.dfmt)]
    | 0x6, 3 => [(a, is l.rfmt)]
    | 0x6, 4 => [(d, is l.rfmt)]
    | _, _ => []

/-- The exchange part of a form, where its tables lie in its bytes. -/
def RawForm.xch (f : RawForm) : Option XchPart := (f.partOf 2).bind (readXch ((f.partOf 1).bind readSep))

/-- The roles that admission checks for an instruction of a form with an exchange part; the root's COLL.REDUCE also has a
TDD (R351). -/
def admittedRoles (xch : Option XchPart) (colls : CollSection) (member : Nat) (w : InsWord) : List (Nat × Role) :=
  let root := wordIs w 0x7 2 && colls.descs.any fun c =>
    c.desc = wbits w 99 88 && memIndex (c.members.getD 0 0) = member
  operandRoles w ++ (if root then [(wbits w 111 106, .routing [18, 19, 20, 21])] else []) ++
    xch.elim [] fun p => p.roles w

/-- What the role checks of one instruction find: levels and non-format violations, and format violations. -/
def rolesFound (stated : Nat) (dyn : List Nat) (init : CoreInit) (rs : List (Nat × Role)) : Bool × Bool :=
  let ts := (rs.filter fun r => !dyn.contains r.1).map fun r => (init.td.getD r.1 0, r.2)
  (ts.any fun (t, r) => checkRole r t = .other || stated < tdLevel t, ts.any fun (t, r) => checkRole r t = .format)

/-! ### Check 2 and check 3 -/

/-- The encoding of an instruction is admitted (R63, R112). -/
def wordAdmitted (stated : Nat) (colls : CollSection) (w : InsWord) : Bool :=
  wordDefined w && featureLevel w ≤ stated &&
  (wPsel w = 0 || !(wordIs w 0xB 0x30 || isTickEnd w || isLoop w)) &&
  (!wordIs w 0xB 0x10 || wbits w 96 96 = 0 || wbits w 105 102 = 0 || wbits w 105 102 = 7) &&
  (wCls w ≠ 0x7 || colls.descs.any fun c => c.desc = wbits w 99 88)

/-- The SEP instructions that a core issues in a slot: opcode and LAYER (R189). -/
def sepSequence (t : List InsWord) : List (Nat × Nat) :=
  issued (fun w => if wCls w = 0x4 then some (wOp w, wbits w 99 90) else none) t

/-- A form passes check 2, apart from its choice (R63, R96, R99, R100, R112, R189). (log 51 DEDUCED) -/
def RawForm.checkTwo (f : RawForm) (o : ProgObject) (member : Nat) : Bool :=
  let mode := (f.partOf 6).elim 0 fun b => field b 0 1
  let xch := f.xch
  (o.level = 4 || (field f.stats 0 1 ≠ 2 && mode ≠ 1 && mode ≠ 2)) &&
  f.templates.all fun row =>
    row.zipIdx.all (fun (t, c) =>
      loopsOk (t.length + 1) 0 t &&
      t.all fun w => wordAdmitted o.level o.colls w &&
        !(rolesFound o.level (f.dynamic c) (f.init.getD c ⟨[], [], 0⟩) (admittedRoles xch o.colls member w)).1) &&
    barriersOk row &&
    row.all fun t => sepSequence t = sepSequence (row.headD [])

/-- A form passes check 3 (R96). (log 51 DEDUCED) -/
def RawForm.checkThree (f : RawForm) (o : ProgObject) (member : Nat) : Bool :=
  let xch := f.xch
  f.templates.all fun row => row.zipIdx.all fun (t, c) => t.all fun w =>
    !(rolesFound o.level (f.dynamic c) (f.init.getD c ⟨[], [], 0⟩) (admittedRoles xch o.colls member w)).2

end Sys2Proof.Machine
end

