-- ==== Sys2Proof/Machine/Reserve.lean ====
section
/-! DEFINITION. The reservation parts, the statistics store map and what they reserve (R190, R197, R215, R217, R228,
R232, R251 to R254, R267, R376, R392, and Tables SEP-4, CHN-1, HERD-1, PAIL-2, TIER-3, REC-4, BWD-2). -/

namespace Sys2Proof.Machine

open Sys2Proof

/-! ### The fields of the parts -/

/-- The fields of a Separator part are as R189 has them. -/
def sepOk (b : List Byte) : Bool :=
  let n := field b 0 2
  let es := sepEntries b
  (readSep b).isSome && (sepRanges b).all (fun r => r.1 + r.2 ≤ b.length) && 1 ≤ n && n ≤ 1024 && zeroAt b 2 6 &&
    field b 8 8 % 4096 = 0 &&
    es.all (fun o => field b (o + 2) 2 ≤ 16383 && field b (o + 4) 1 ≤ 1 && zeroAt b (o + 5) 3 &&
      (sepQuotas b o).all fun q => 1 ≤ q && q ≤ 65536) &&
    !anyOverlap ((0x10, 16 * n) :: sepRanges b) && strictlyAscending (es.map fun o => field b o 2)

/-- The fields of an exchange part are as R197 and R198 have them. (log 51 DEDUCED) -/
def xchOk (slots members : Nat) (p : XchPart) (b : List Byte) : Bool :=
  let ls := p.layers
  let ss := p.slots
  zeroAt b 8 8 && strictlyAscending (ls.map (·.layer)) && strictlyAscending (ss.map (·.slot)) &&
    ((xchLayerOffs b).zip ls).all (fun x => field b (x.1 + 0x10) 8 + 2 * x.2.hosts.length ≤ b.length) &&
    (xchSlotOffs b).all (fun o => field b (o + 0x18) 8 + 8 * field b (o + 8) 2 ≤ b.length) &&
    ls.all (fun l => l.g ≤ 16384 && l.hosts ≠ [] && members % l.g = 0 && l.hosts.all (· < l.g) &&
      1 ≤ l.width && l.width ≤ 65536 && l.width % 64 = 0 && 1 ≤ l.tmax && l.tmax ≤ 4096 &&
      l.dfmt < 22 && l.rfmt < 22 && l.srcTd < 64) &&
    ss.all (fun s => s.frameSlot < slots && ls.any (fun l => l.layer = s.layer) && s.arrivals.all (·.1 < 48) &&
      s.records % 4096 = 0) &&
    ls.all fun l =>
      let mine := ss.filter fun s => s.layer = l.layer
      let most := maxBy (List.range l.g) fun r => (l.hosts.filter fun h => h = r).length
      !anyOverlap (mine.map fun s => (s.first, s.count)) &&
      (List.range most).all (fun li => mine.any fun s => s.first ≤ li && li < s.first + s.count) &&
      (mine.filter (·.final)).length = 1

/-- A power of two between two bounds. -/
def powerIn (lo hi n : Nat) : Bool := lo ≤ n && n ≤ hi && 2 ^ Nat.log2 n = n

/-- The herd part (R232, Table HERD-1). -/
def readHerd (b : List Byte) : HerdPart where
  b := field b 0 2
  d := field b 2 1
  chunk := field b 4 2
  imax := field b 6 2
  ready := field b 8 4
  vector := field b 0xC 2
  table := field b 0x10 8
  intake := field b 0x18 8
  intakeEntries := field b 0x20 4
  outEntries := field b 0x24 4
  outRing := field b 0x28 8
  workList := field b 0x30 4
  result := field b 0x38 8
  kvFirst := field b 0x40 4
  kvCount := field b 0x44 4

/-- The fields of a herd part are as R232 has them; `limit` is P − G. -/
def herdOk (limit objects : Nat) (p : HerdPart) (b : List Byte) : Bool :=
  let upTo := fun (n : Nat) => 1 ≤ n && n ≤ 4096
  upTo p.b && (p.d = 1 || p.d = 2) && upTo p.chunk && upTo p.imax && p.ready < limit && p.vector < 2048 &&
    p.table % 4096 = 0 && p.intake % 4096 = 0 && p.outRing % 4096 = 0 && p.workList % 16384 = 0 && p.result % 4096 = 0 &&
    powerIn 64 65536 p.intakeEntries && powerIn 1024 1048576 p.outEntries && p.kvFirst < 2 ^ 20 && 1 ≤ p.kvCount &&
    p.kvCount ≤ 16384 && p.kvFirst + p.kvCount ≤ objects &&
    [(0x3, 1), (0xE, 2), (0x34, 4), (0x48, 24)].all fun r => zeroAt b r.1 r.2

/-- The Pail part (R252, Table PAIL-2). -/
def readPail (b : List Byte) : PailPart :=
  ⟨field b 0 1, field b 1 1, field b 8 4, field b 0x10 8, (List.range 384).map fun i => field b (0x20 + 4 * i) 4⟩

/-- The fields of a Pail part are as R252 and R254 have them. -/
def pailOk (p : PailPart) (b : List Byte) : Bool :=
  p.land ≤ 7 && p.sram % 4096 = 0 && p.hbm % 4096 = 0 && [(2, 6), (0xC, 4), (0x18, 8)].all fun r => zeroAt b r.1 r.2

/-- The tier part (R267, Table TIER-3). -/
def readTier (hbmStacks slots : Nat) (b : List Byte) : Option TierPart :=
  let p : TierPart := ⟨field b 0 8, field b 8 4, field b 0xC 4, field b 0x10 2,
    (List.range slots).map fun i => field b (0x18 + 4 * i) 4⟩
  if p.pool % 2 ^ 21 = 0 && p.q ≤ 38146 && p.rfree ≤ p.q * hbmStacks && p.hmax ≤ 4096 && zeroAt b 0x12 6 &&
      0x18 + 4 * slots ≤ b.length && p.promotes.all (· ≤ p.rfree) then some p
  else none

/-- The SNAP part (R392, Table REC-4). -/
def readSnap (b : List Byte) : SnapPart := ⟨field b 0 32, field b 0x20 8, field b 0x28 8⟩

/-- The local bank region of a SNAP part is aligned and its reserved bytes are zero (R392). -/
def snapOk (p : SnapPart) (b : List Byte) : Bool := p.bank % 4096 = 0 && p.bankLen % 4096 = 0 && zeroAt b 0x30 16

/-- A region of the statistics store map. -/
def readRegion (b : List Byte) (o : Nat) : StatRegion :=
  ⟨field b o 1, field b (o + 1) 1, field b (o + 2) 1, field b (o + 4) 2, field b (o + 6) 2, field b (o + 8) 2⟩

/-- The statistics store map (R217, R228, Table BWD-2); none where its form is broken. -/
def readStats (b : List Byte) : Option (List StatRegion) :=
  let n := field b 2 2
  let at_ := (List.range n).map fun i => 8 + 16 * i
  if b.isEmpty then some []
  else if 8 ≤ b.length && n ≤ 4096 && zeroAt b 1 1 && zeroAt b 4 4 && 8 + 16 * n ≤ b.length &&
      at_.all (fun o => zeroAt b (o + 3) 1 && zeroAt b (o + 10) 6) then some (at_.map (readRegion b))
  else none

/-! ### What is live, and demand (R215, R217, R253) -/

/-- A region is live in a frame slot (R217). -/
def StatRegion.live (r : StatRegion) (s : Nat) : Bool :=
  if r.wslot ≤ r.lastRead then r.wslot ≤ s && s ≤ r.lastRead else r.wslot ≤ s || s ≤ r.lastRead

/-- K of a layer: the largest K of its Separator instructions in the templates. -/
def Placed.layerK (p : Placed) (layer : Nat) : Nat :=
  maxBy (p.templates.flatten.flatten.filter fun w => wCls w = 0x4 && wbits w 99 90 = layer) fun w => wbits w 75 72 + 1

/-- The classes of the Pails that one CHURN.SORT of a layer may take, one for each rank that hosts an expert, on a
member of rank r (R200, R215). -/
def Image.churnClasses (m : Image) (l : XchLayer) (r : Nat) : List Nat :=
  (List.range l.g).filterMap fun h =>
    let xs := (List.range l.hosts.length).filter fun x => l.host x = some h
    if xs.isEmpty then none
    else some (pailClass (64 + 8 * min (l.tmax * m.form.layerK l.layer) (sumBy xs fun x => m.quota l.layer r x)))

/-- The events of a core that the walk of R253 counts: a CHURN.SORT (true), or the dispatch of a layer's final slot
(false), with the layer. -/
def Image.churnEvent (m : Image) (w : InsWord) : Option (Bool × Nat) :=
  if wordIs w 0x5 1 then some (true, wbits w 84 75)
  else if wordIs w 0x6 1 then
    match m.xchSlot (wbits w 99 84) with
    | some s => if s.final then some (false, s.layer) else none
    | none => none
  else none

/-- The peak Churn demand of a core in each class (R253). (log 36 DEDUCED) -/
def Image.churnPeak (m : Image) (member core : Nat) : List Nat :=
  let once := (List.range m.form.slots).flatMap fun s => issued m.churnEvent (m.form.template s core)
  let step := fun (st : List (Nat × Nat) × List Nat) (e : Bool × Nat) =>
    if e.1 then
      let add := match m.xchLayer e.2 with
        | some l => (m.churnClasses l (member % l.g)).map fun c => (e.2, c)
        | none => []
      let live := st.1 ++ add
      (live, (List.range 8).map fun c => max (st.2.getD c 0) (live.filter fun x => x.2 = c).length)
    else (st.1.filter fun x => x.1 ≠ e.2, st.2)
  ((once ++ once).foldl step ([], List.replicate 8 0)).2

/-- Rows of a landing Pail for rows of a format (R208). (log 35 DEDUCED) -/
def landPerPail (cls fmt width : Nat) : Nat := pailSize cls / unitBytes fmt width

/-- Host rows of a slot on a member of rank r (R195). -/
def Image.slotHostRows (m : Image) (s : XchSlot) (l : XchLayer) (r : Nat) : Nat :=
  sumBy (List.range s.count) fun i => match l.expertAt r (s.first + i) with
    | some x => m.capacity l.layer x
    | none => 0

/-- Return rows of a slot on a member of rank r (R215). -/
def Image.slotReturnRows (m : Image) (s : XchSlot) (l : XchLayer) (r : Nat) : Nat :=
  let xs := (List.range l.hosts.length).filter fun x => s.first ≤ l.localIndex x && l.localIndex x < s.first + s.count
  min (l.tmax * m.form.layerK l.layer * (maskCores s.mask).length) (sumBy xs fun x => m.quota l.layer r x)

/-- The landing share of a slot (R253). -/
def Image.landShare (m : Image) (p : PailPart) (member : Nat) (s : XchSlot) : Nat :=
  match m.xchLayer s.layer with
  | none => 0
  | some l => ceilDiv (m.slotHostRows s l (member % l.g)) (landPerPail p.land l.dfmt l.width) +
      ceilDiv (m.slotReturnRows s l (member % l.g)) (landPerPail p.land l.rfmt l.width)

/-- The shares of every core and slot (R253). -/
def Image.sizeShares (m : Image) (member : Nat) : Image :=
  match m.form.pail with
  | none => m
  | some p =>
    let slots := match m.form.xch with | some x => x.slots | none => []
    { m with
      pailShares := (List.range 48).flatMap fun c =>
        let peak := m.churnPeak member c
        (List.range 8).map fun k => p.counts.getD (8 * c + k) 0 + peak.getD k 0
      landShares := slots.map fun s => (s.slot, m.landShare p member s) }

/-- Bytes of the Pail SRAM region on a die (R251). -/
def Image.pailSram (m : Image) (p : PailPart) (die : Nat) : Nat :=
  sumBy ((List.range 8).filter fun c => !pailInHbm p c) fun c => m.homeCount c die * pailSize c

/-- Bytes of the Pail HBM region on each stack (R251). -/
def Image.pailHbm (m : Image) (p : PailPart) (hbmStacks : Nat) : Nat :=
  sumBy ((List.range 8).filter fun c => pailInHbm p c) fun c => ceilDiv (m.homeCount c 15) hbmStacks * pailSize c

/-- Bytes of the work list region (R240). -/
def HerdPart.workBytes (p : HerdPart) : Nat := 16384 * (1 + 4 * p.tiles)

/-! ### Ranges of device HBM -/

/-- The ranges that the parts and the collective section reserve, the tier pool apart (R190, R198, R232, R242, R251,
R347, R392). -/
def Image.partRanges (m : Image) (hbmStacks member : Nat) : List (Nat × Nat) :=
  let f := m.form
  let sep := match f.sep with | some p => [(p.stats, p.regionBytes)] | none => []
  let xch := match f.xch with
    | some p => p.slots.map fun s => (s.records, match m.xchLayer s.layer with
        | some l => 16 * m.slotHostRows s l (member % l.g)
        | none => 0)
    | none => []
  let herd := match f.herd with
    | some p => [(p.table, 2 ^ 21), (p.intake, 64 + 64 * p.intakeEntries), (p.result, 192 * p.tiles * 16384)]
    | none => []
  let pail := match f.pail with
    | some p => (List.range hbmStacks).map fun s => (s * 2 ^ 37 + p.hbm, m.pailHbm p hbmStacks)
    | none => []
  let snap := match f.snap with | some p => [(p.bank, p.bankLen)] | none => []
  (sep ++ xch ++ herd ++ pail ++ [(m.colls.base, m.colls.slots * m.colls.slotSize)] ++ snap).filter fun r => r.2 ≠ 0

/-- The ranges of the tier pool, one on each stack (R267). -/
def Image.poolRanges (m : Image) (hbmStacks : Nat) : List (Nat × Nat) :=
  match m.form.tier with
  | some p => if p.q = 0 then [] else (List.range hbmStacks).map fun s => (s * 2 ^ 37 + p.pool, p.q * 2 ^ 21)
  | none => []

/-- The ranges of the fixed objects in tier 1. -/
def Image.fixedRanges (m : Image) : List (Nat × Nat) :=
  (m.objects.filter fun e => !e.movable && e.tier = 1).map fun e => (e.hbm, e.size)

/-- Every range of device HBM that the job holds (R388). -/
def Image.heldRanges (m : Image) (hbmStacks member : Nat) : List (Nat × Nat) :=
  m.partRanges hbmStacks member ++ m.poolRanges hbmStacks ++ m.fixedRanges

/-- Some range of one list meets some range of the other. -/
def listsMeet (a b : List (Nat × Nat)) : Bool := a.any fun x => b.any fun y => rangesMeet x.1 x.2 y.1 y.2

end Sys2Proof.Machine
end

