-- ==== Sys2Proof/Machine/Admission.lean ====
section
/-! DEFINITION. Admission: checks 2 to 9 in their order, and the end of LOADING (R59 to R63, R70, R71, R109, R189,
R198, R228, R230, R232, R247, R254, R268, R289, R344, R347, R376, R390 to R392, R45, R46, R54, R489). -/

namespace Sys2Proof.Machine

open Sys2Proof

/-! ### The object's bytes (R489) -/

/-- The bytes of the loaded range as the one read of LOADING finds them: a byte that was written during LOADING reads as
one of the values it has held, and which one is free. (log 53 DEDUCED) -/
def Dev.loadedRange (d : Dev) : List Byte × Dev :=
  let a := d.rd64 .jobLoadAddrLo .jobLoadAddrHi
  let n := d.rd .jobLoadLen * 4096
  (d.job.loadLog.map (·.1)).eraseDups.foldl (fun (bs, d) x =>
    let (v, d) := d.draw
    let held := (d.job.loadLog.filter fun e => e.1 = x).map (·.2) ++ [d.mem.hbm.read x]
    (bs.set (x - a) (held.getD (v % held.length) 0), d)) (d.mem.hbm.readN a n, d)

/-! ### The choice of the form (R59, R60) -/

/-- The form that admission uses, and whether firmware placed it. (log 52 DESIGN CHOICE) -/
def Dev.chooseForm (d : Dev) (o : ProgObject) : Except AdmitFail (RawForm × Bool) :=
  let target := (0x2A, d.order.code, d.rd .jobMemberCount)
  match o.forms.find? fun f => f.target = target with
  | some f => .ok (f, false)
  | none =>
    match o.portable, d.sec.policy with
    | some p, some pol =>
      if !bitAt pol.flags 0 then .error (.level 3)
      else
        match (Config.place p d.sec.placeVer d.order.code (d.rd .jobMemberCount)).bind readForm with
        | some f => if f.target = target then .ok (f, true) else .error (.level 4)
        | none => .error (.level 4)
    | _, _ => .error (.level 3)

/-- Method 3 resolved by the policy's limits (R390, R437). -/
def Policy.resolve (p : Policy) (e : ObjEntry) : ObjEntry :=
  let size := if p.wheySize = 0 then 2 ^ 24 else p.wheySize
  let interval := if p.wheyInterval = 0 then 4 else p.wheyInterval
  if e.survival = 3 then
    { e with survival := if e.size ≤ size && 1 ≤ e.interval && e.interval ≤ interval then 2 else 1 }
  else e

/-- The image of the job under admission. A tier part that breaks its field rules, and a part that names what does not lie
in its bytes, are left out here; the check that owns a part judges its fields. -/
def Dev.imageFor (d : Dev) (o : ProgObject) (f : RawForm) (fw : Bool) : Image :=
  let hbmStacks := d.order.hbmStacks
  let objects := match d.sec.policy with | some p => o.objects.map p.resolve | none => o.objects
  let sep := (f.partOf 1).bind readSep
  let form : Placed := {
    part := f.part, order := f.order, members := f.members, period := f.period, guardReq := f.guardReq
    slots := f.slots, templates := f.templates, init := f.init, decls := f.decls, sep := sep
    xch := (f.partOf 2).bind (readXch sep), herd := (f.partOf 3).map readHerd
    pail := (f.partOf 4).map readPail, tier := (f.partOf 5).bind (readTier hbmStacks f.slots)
    twin := (f.partOf 6).map fun b => (field b 0 1, field b 8 8), snap := (f.partOf 7).map readSnap
    mode := field f.stats 0 1, stats := (readStats f.stats).getD [] }
  Image.sizeShares ⟨o.level, fw, o.digest, sha512 f.bytes, objects, o.windows, o.colls, form, [], []⟩
    (d.rd .jobMemberIndex)

/-! ### Check 4 (R376, R391) -/

/-- Bytes of the Whey image (R393). -/
def Image.wheyBytes (m : Image) : Nat :=
  let es := m.objects.filter fun e => e.survival = 2
  roundUp (256 + 64 * es.length) 4096 + jobBlockBytes + sumBy es fun e => roundUp e.size 4096

/-- Check 4; `rxPages` is the twin's TWIN_RX_PAGES. (log 48 DEDUCED, 51 DEDUCED) -/
def Dev.checkFour (d : Dev) (m : Image) (f : RawForm) (rxPages : Nat) : Bool :=
  let (mode, bound) := m.form.twin.getD (0, 0)
  let whey := m.objects.any fun e => e.survival = 2
  let banks := 3 * roundUp bound 4096
  (match f.partOf 6 with | some b => mode ≤ 2 && zeroAt b 1 7 | none => true) &&
  !(mode = 2 && whey) && !(whey && mode ≠ 1) &&
  (d.twin.peer.all fun p => p.1 = d.rd .twinCfgMode) &&
  (mode = 0 || (mode = d.rd .twinCfgMode && d.twin.peer.map (·.1) = some mode &&
    d.fab.ports[(80 : Fin 81)].state = .up)) &&
  (mode ≠ 1 || (banks ≤ rxPages * 4096 && m.wheyBytes ≤ bound &&
    m.form.snap.any fun p => banks ≤ p.bankLen))

/-! ### Check 5 (R229, R230) -/

/-- Tile rows and columns of an object (R229). -/
def ObjEntry.tiles (e : ObjEntry) : Nat × Nat :=
  (ceilDiv e.dims.1 64, ceilDiv e.dims.2 64)

/-- Two target rectangles share a tile. -/
def targetsMeet (a b : ObjEntry) : Bool :=
  rangesMeet a.trow a.tiles.1 b.trow b.tiles.1 && rangesMeet a.tcol a.tiles.2 b.tcol b.tiles.2

/-- Check 5. (log 51 DEDUCED) -/
def Image.checkFive (m : Image) : Bool :=
  let gs := (m.objects.zipIdx.filter fun e => e.1.role = 2)
  gs.all fun (e, i) =>
    (match m.objects[e.target]? with
      | some t => t.role = 1 && e.trow + e.tiles.1 ≤ t.tiles.1 && e.tcol + e.tiles.2 ≤ t.tiles.2
      | none => false) &&
    gs.all fun (g, j) => j ≤ i || g.target ≠ e.target || !targetsMeet e g

/-! ### Check 6 (R228) -/

/-- A row instruction keeps within the regions of its core in its slot. -/
def rowCovered (rs : List StatRegion) (s : Nat) (w : InsWord) : Bool :=
  let lo := wbits w 50 38
  let n := 2 * (wbits w 76 65 + 1)
  let within := fun (r : StatRegion) => r.first ≤ lo && lo + n ≤ r.first + r.units
  if wCls w ≠ 0x2 then true
  else if wOp w ≤ 2 then lo = 0x1FFF || rs.any fun r => r.wslot = s && within r
  else wbits w 37 37 = 1 || rs.any fun r => r.live s && within r

/-- Check 6. (log 51 DEDUCED) -/
def Image.checkSix (m : Image) (f : RawForm) : Bool :=
  match readStats f.stats with
  | none => false
  | some rs =>
    rs.all (fun r => r.core < 48 && r.wslot < f.slots && r.lastRead < f.slots && r.first + r.units ≤ 8192) &&
    (rs.zip (rs.drop 1)).all (fun (a, b) => a.core < b.core || a.core = b.core && a.first ≤ b.first) &&
    rs.zipIdx.all (fun (a, i) => (rs.drop (i + 1)).all fun b =>
      a.core ≠ b.core || !rangesMeet a.first a.units b.first b.units ||
        !(List.range f.slots).any fun s => a.live s && b.live s) &&
    m.form.templates.zipIdx.all fun (row, s) => row.zipIdx.all fun (t, c) =>
      t.all (rowCovered (rs.filter fun r => r.core = c) s)

/-! ### Check 7 (R268, R391) -/

/-- Pages of an object in the aperture (R265). -/
def ObjEntry.pages (e : ObjEntry) : Nat := ceilDiv e.size (2 ^ 21)

/-- Configured tier-2 pages. -/
def Dev.farPages (d : Dev) : Nat := sumBy ((List.range 8).filter fun i => d.srcKind i ≠ 0) fun i => d.rd .tierSrcPages 0 i

/-- The tier-0 homes lie in their die buffers and overlap nothing there. -/
def Image.homesOk (m : Image) : Bool :=
  let homes := m.objects.filter fun e => e.die < 12
  homes.all (fun e => e.home0 + e.size ≤ 2 ^ 25) &&
  (List.range 12).all fun x =>
    let here := (homes.filter fun e => e.die = x).map fun e => (e.home0, e.size)
    let pail := match m.form.pail with | some p => [(p.sram, m.pailSram p x)] | none => []
    let work := match m.form.herd with | some p => [(p.workList, p.workBytes)] | none => []
    !anyOverlap here && !listsMeet here (pail ++ work)

/-- Check 7. (log 51 DEDUCED) -/
def Dev.checkSeven (d : Dev) (m : Image) (f : RawForm) : Bool :=
  let hbmStacks := d.order.hbmStacks
  let fixed := m.fixedRanges
  let pool := m.poolRanges hbmStacks
  let parts := m.partRanges hbmStacks (d.rd .jobMemberIndex)
  let movable := m.objects.filter (·.movable)
  let all := sumBy movable ObjEntry.pages
  let (q, rfree, hmax) := match m.form.tier with | some t => (t.q * hbmStacks, t.rfree, t.hmax) | none => (0, 0, 0)
  let need := match m.form.herd with
    | none => 2 * rfree
    | some h =>
      let v := maxBy ((m.objects.drop h.kvFirst).take h.kvCount) ObjEntry.pages
      2 * rfree + 2 * hmax * v + h.d * 48 * h.b * v
  ((f.partOf 5).isNone || m.form.tier.isSome) &&
  m.objects.all (fun e => e.home0 % 4096 = 0 && e.hbm % 4096 = 0) &&
  (pool ++ fixed).all (fun r => d.hbmRange r.1 r.2) && !anyOverlap fixed && !listsMeet pool fixed &&
  !listsMeet (pool ++ fixed) parts && m.homesOk && all * 2 ^ 21 ≤ 2 ^ 43 &&
  m.objects.all (fun e => (e.movable || e.tier = 1 || e.tier = 0 && e.die < 12) && (e.tier ≠ 2 || d.hasFar) &&
    (e.tier ≠ 0 || e.die < 12)) &&
  (match m.form.herd with
    | some h => ((m.objects.drop h.kvFirst).take h.kvCount).all fun e => e.movable && 12 ≤ e.die
    | none => true) &&
  sumBy (movable.filter fun e => e.tier = 1) ObjEntry.pages ≤ q &&
  (if d.hasFar then all ≤ d.farPages else all ≤ q) && need ≤ q &&
  m.objects.all fun e => !(e.survival = 1 && (e.die < 12 || e.tier = 0))

/-! ### Check 8 (R109, R111, R189, R198, R232, R254, R345, R347, R376, R392) -/

/-- SEP, CHURN, XCH and PAIL instructions name entries that fit them: SEP one of the Separator part (R189, R198).
(log 94 DESIGN CHOICE) -/
def Image.namesOk (m : Image) (w : InsWord) : Bool :=
  match wCls w with
  | 0x4 =>
    match m.sepLayer (wbits w 99 90) with
    | some (l, _) => l.n = wbits w 89 76 + 1 && l.resident = (wOp w = 2)
    | none => false
  | 0x5 =>
    (wOp w ≠ 1 || m.form.pail.isSome) &&
    match m.xchLayer (wbits w 84 75) with
    | some l => if wOp w = 1 then l.hosts.length = wbits w 99 86 + 1 && (wbits w 85 85 = 0 || l.g = 1) else l.g = 1
    | none => false
  | 0x6 => (m.xchSlot (wbits w 99 84)).isSome
  | 0x9 => m.form.pail.isSome
  | _ => true

/-- Every core issues the XCH instructions of every slot exactly as its entry has it (R198). -/
def Image.xchCountsOk (m : Image) (p : XchPart) : Bool :=
  p.slots.all fun s =>
    let later := if s.carried then (s.frameSlot + 1) % m.form.slots else s.frameSlot
    m.form.templates.zipIdx.all fun (row, f) => row.zipIdx.all fun (t, c) =>
      [1, 2, 3, 4].all fun op =>
        let due := match op with
          | 1 => f = s.frameSlot && bitAt s.mask c
          | 4 => f = later && bitAt s.mask c
          | _ => f = later && s.arrivals.any (·.1 = c)
        countOf (fun w => wordIs w 0x6 op && wbits w 99 84 = s.slot) t = if due then 1 else 0

/-- The Pail regions fit (R254). -/
def Image.pailFits (m : Image) (hbmStacks : Nat) : Bool :=
  let slots := match m.form.xch with | some x => x.slots | none => []
  match m.form.pail with
  | none => slots.isEmpty
  | some p =>
    (List.range 8).all (fun c => m.homeCount c 15 ≤ 2 ^ 20 && (List.range 12).all fun x => m.homeCount c x ≤ 2 ^ 20) &&
    (slots.isEmpty || pailInHbm p p.land) &&
    slots.all (fun s => match m.xchLayer s.layer with
      | some l => 1 ≤ landPerPail p.land l.dfmt l.width && 1 ≤ landPerPail p.land l.rfmt l.width
      | none => false) &&
    (List.range 12).all (fun x => p.sram + m.pailSram p x ≤ 2 ^ 25 &&
      match m.form.herd with
        | some h => !rangesMeet p.sram (m.pailSram p x) h.workList h.workBytes
        | none => true) &&
    p.hbm + m.pailHbm p hbmStacks ≤ 80000000000

/-- A collective descriptor fits its buffer slot, and names members of the job (R345, R347). -/
def CollDesc.fits (c : CollDesc) (slotSize members member : Nat) : Bool :=
  let need := match (List.range c.members.length).find? fun p => memIndex (c.members.getD p 0) = member with
    | none => 0
    | some p => c.kidOffset p c.members.length + (if (p = 0) = (c.type = 2) then 16384 * c.maxTiles else 0)
  need ≤ slotSize && c.members.all fun x => memIndex x < members

/-- Cut-permitted slots follow no carried dispatch, and read no statistics of another slot (R392). -/
def Image.cutsOk (m : Image) (p : SnapPart) : Bool :=
  let slots := match m.form.xch with | some x => x.slots | none => []
  (List.range m.form.slots).all fun s =>
    !bitAt p.mask s ||
      (!(slots.any fun e => e.carried && (e.frameSlot + 1) % m.form.slots = s) &&
        m.form.stats.all fun r => !r.live s || r.wslot = s)

/-- Check 8. (log 51 DEDUCED, 72 DESIGN CHOICE) -/
def Dev.checkEight (d : Dev) (m : Image) (f : RawForm) : Bool :=
  let hbmStacks := d.order.hbmStacks
  let member := d.rd .jobMemberIndex
  let ranges := m.partRanges hbmStacks member
  let rx := (d.rd .twinRxBase * 4096, d.rd .twinRxPages * 4096)
  let fits := fun {α : Type} (k : Nat) (part : Option α) (ok : α → List Byte → Bool) =>
    (f.partOf k).all fun b => part.any fun p => ok p b
  (List.range 48).all (fun c => sumBy f.templates (fun row => (row.getD c []).length) ≤ 262144) &&
  fits 1 m.form.sep (fun _ b => sepOk b) && fits 2 m.form.xch (xchOk f.slots f.members) &&
  fits 3 m.form.herd (herdOk (f.period - m.form.guardBand) m.objects.length) && fits 4 m.form.pail pailOk &&
  fits 7 m.form.snap snapOk &&
  f.templates.all (fun row => row.all fun t => t.all m.namesOk) &&
  (match m.form.xch with | some p => m.xchCountsOk p | none => true) &&
  (match m.form.herd with
    | some h => h.workList + h.workBytes ≤ 2 ^ 25 &&
        (match m.form.xch with | some x => x.layers.all fun l => h.b ≤ l.tmax | none => true)
    | none => true) &&
  m.pailFits hbmStacks && m.colls.descs.all (fun c => c.fits m.colls.slotSize (d.rd .jobMemberCount) member) &&
  (match m.form.snap with | some p => m.cutsOk p | none => true) &&
  ranges.all (fun r => d.hbmRange r.1 r.2) && !anyOverlap ranges &&
  !listsMeet [rx] (m.heldRanges hbmStacks member)

/-! ### Check 9 (R37, R38, R44 to R46, R54, R247) -/

/-- An engine identifier's rate per count as a fraction, none for an instance that the ordering code lacks
(Table TICK-3). -/
def engineRate (o : Order) (e : Nat) : Option (Nat × Nat) :=
  let i := e % 256
  let upTo := fun (n : Nat) (r : Nat × Nat) => if i < n then some r else none
  match e / 256 with
  | 0x5 => upTo 48 (6000, 1)
  | 0x6 => upTo 12 (7, 5)
  | 0x7 => upTo 12 (7, 5)
  | 0x8 => upTo 12 (12000, 1)
  | 0x9 => upTo 26 (if bitAt o.posFabric i then (2000, 1) else (6144, 5))
  | 0xA => upTo 38 (1480, 1)
  | 0xB => upTo (16 * o.fabricDies) (200, 1)
  | 0xC => upTo (2 * o.fabricDies) (8, 5)
  | 0xD => upTo 2 (400, 1)
  | 0xE => upTo 4 (7, 10)
  | 0xF => upTo 1 (1, 1)
  | _ => if e < 0x500 then upTo 48 (7, 5) else none

/-- Converted time of a work at a rate (R45). -/
def convert (work : Nat) (r : Nat × Nat) : Nat := ceilDiv (work * r.2) r.1

/-- The declared time, with the margin (R45). -/
def declared (raw : Nat) : Nat := ceilDiv (raw * 10002) 10000

/-- The first failure of a slot's declarations and TICK.WAIT targets: its engine (R46, R54). -/
def Placed.slotFailure (p : Placed) (o : Order) (s : Nat) : Option Nat :=
  let limit := p.period - p.guardBand
  let ds := p.decls.filter fun x => x.slot = s
  match ds.find? fun x => x.engine = 0xF00 with
  | none => some 0xF00
  | some span =>
    let bad := ds.find? fun x =>
      match engineRate o x.engine with
      | none => true
      | some r =>
        let raw := convert x.work r
        (x.engine ≠ 0xF00 && span.work < raw) || limit < 400 + declared raw
    match bad with
    | some x => some x.engine
    | none =>
      let waits := (p.templates.getD s []).any fun t => t.any fun w =>
        wordIs w 0xC 2 && wbits w 111 111 = 0 && limit ≤ wbits w 95 69
      if waits then some 0xF00 else none

/-- Work of the herd builder at its worst case (R247). -/
def HerdPart.buildCc (p : HerdPart) : Nat := 1024 + 6 * p.imax + 4 * (48 * p.b) + 3 * (48 * p.b)

/-- Check 9: the slot and engine of the first failure. (log 51 DEDUCED) -/
def Placed.checkNine (p : Placed) (o : Order) : Option (Nat × Nat) :=
  if p.period < 10000 || 100000000 < p.period || p.period / 2 < p.guardReq then some (0xFF, 0xFFF)
  else
    match (List.range p.slots).findSome? fun s => (p.slotFailure o s).map fun e => (s, e) with
    | some x => some x
    | none =>
      match p.herd with
      | some h => if h.ready < 400 + declared (convert h.buildCc (7, 10)) then some (0, 0xE00) else none
      | none => none

/-! ### Admission -/

/-- Checks 2 to 9 on an object that passed check 1 (R71, Table TYN-5A). -/
def Dev.checkRest (d : Dev) (o : ProgObject) (rxPages : Nat) : Except AdmitFail Image := do
  let (f, fw) ← d.chooseForm o
  let member := d.rd .jobMemberIndex
  admitIf (o.colls.descs.all fun c => c.deadline < f.period) (.level 1)
  admitIf (f.checkTwo o member) (.level 2)
  admitIf (f.checkThree o member) (.plain 6)
  let m := d.imageFor o f fw
  admitIf (d.checkFour m f rxPages) (.plain 4)
  admitIf m.checkFive (.plain 3)
  admitIf (m.checkSix f) (.plain 8)
  admitIf (d.checkSeven m f) (.plain 5)
  admitIf (d.checkEight m f) (.plain 2)
  match m.form.checkNine d.order with
  | some t => .error ⟨1, 0, some t⟩
  | none => .ok m

/-- Record the result of admission (Table TYN-8). (log 52 DESIGN CHOICE) -/
def Dev.admitResult (d : Dev) (code detail level : Nat) (fw : Bool) : Dev :=
  (((((d.wr .jobAdmitCode code).wr .jobAdmitDetail detail).wr .jobAdmitLevel level).wr .jobAdmitFwplaced fw.toNat).wr
    .jobAdmitValid 1).hostEvent 1

/-- What ADMITTED holds of an image: the period and guard band, the window table and the objects in their initial
tiers (R269, R290). -/
def Dev.holdImage (d : Dev) (m : Image) : Dev :=
  let d := { d with
    image := some m
    ctl := { d.ctl with period := V3.all m.form.period, guardBand := V3.all m.form.guardBand } }
  let d := d.modGmem fun g => { g with windows := [], changes := [] }
  (m.windows.zipIdx.foldl (fun d (e, w) => d.setWindow w e) d).placeObjs m.objects

/-- ADMISSION_END: the hub has read the object and run the checks (R71, R489). A restore continues LOADING where
SNAP_RESUME names a frame (R403). (log 1 DESIGN CHOICE) -/
def execAdmissionEnd (at_ : Nat) (s : State) : Result :=
  let on := s.dev.job.phase = .loading && !s.dev.snap.restoring
  s.act (fun k => if on then k.toCount at_ else k) fun k d =>
    if !on then none
    else
      let (range, d) := d.loadedRange
      let (rxPages, d) := d.draw
      let d := d.modJob fun j => { j with loadLog := [] }
      let stated := field range 0x0A 1
      let stated := if 1 ≤ stated && stated ≤ 4 then stated else 0
      let signers := match d.sec.policy with | some p => p.signers | none => []
      some (match (checkOne signers range).bind fun o => d.checkRest o rxPages with
        | .error x =>
          let d := match x.tick with
            | some (slot, engine) => ((d.wr .tickAdmitSlot slot).wr .tickAdmitEngine engine).flag .tickAdmitValid
            | none => d
          (d.admitResult x.code x.detail stated false).dropObject
        | .ok m =>
          let d := (d.admitResult 0 0 stated m.fwPlaced).holdImage m
          if d.rd64 .snapResumeLo .snapResumeHi = 2 ^ 64 - 1 then (d.becomeAdmitted k []).sendArm k
          else d.modSnap fun s => { s with restoring := true })

end Sys2Proof.Machine
end

