-- ==== Sys2Proof/Machine/Jobs.lean ====
section
/-! DEFINITION. The guarded commands of JOB_CMD, the stop frame, and the zeroing after RELEASE (R66 to R73, R84, R387,
R388, R432). -/

namespace Sys2Proof.Machine

open Sys2Proof

/-! ### LOAD (R67, R69, R70, R84, R432, R448) -/

/-- The device accepts jobs: it is READY, without a SECURITY_VIOLATION, and no bridge is down (R26, R432, R448). -/
def Dev.takesJobs (d : Dev) : Bool :=
  d.start.state = .ready && !d.start.violated && (List.range 38).all fun b => d.rd .hubBridgeDown 0 b = 0

/-- The job key and member registers are set, and fit SEC_NODE (R67, R69). -/
def Dev.keysSet (d : Dev) : Bool :=
  let n := d.rd .jobMemberCount
  let i := d.rd .jobMemberIndex
  let base := d.rd .jobBaseNode
  d.rd .jobKeyTag ≠ 0 && 1 ≤ n && n ≤ 16384 && i < n && base + n ≤ 0x4000 && d.rd .secNode = base + i

/-- The cause that rejects a LOAD, 0 for none (R69); a SECURITY_VIOLATION gives cause 1, also to a lending device (R448). -/
def Dev.loadCause (d : Dev) : Nat :=
  let n := d.rd .jobLoadLen * 4096
  if d.tier.lend ≠ .off && d.job.phase = .idle && !d.start.violated then 2
  else if d.job.phase ≠ .idle || !d.takesJobs then 1
  else if !d.keysSet then 3
  else if n = 0 || !d.hbmRange (d.rd64 .jobLoadAddrLo .jobLoadAddrHi) n then 4
  else 0

/-- The fault fields that LOAD clears, but for those of the cores (Table TYN-8, R263, R311, R362, R384, R410, R425).
TICK_FAULT is not among them and keeps the last fault. (log 88 DESIGN CHOICE) -/
def loadClears : List Fld :=
  [.jobStateFault, .jobStateMore, .jobStateEnd, .jobAdmitValid, .tickAdmitValid, .pailFaultCode, .pailFaultCore,
   .pailFaultClass, .pailFaultState, .pailFaultHandle, .gmemFaultCode, .gmemFaultCause, .gmemFaultCore, .gmemFaultWin,
   .gmemFaultNode, .collFaultCode, .collFaultCause, .collFaultDesc, .collFaultByToken, .collFaultInv, .collFaultMember,
   .collFaultMemberValid, .twinLsFaultCode, .twinLsFaultCause, .twinLsFaultStream, .snapFail, .hubDevFaultCode,
   .hubDevFaultSrc, .hubDevFaultDie, .hubDevFaultStack]

/-- The fault fields of a core (R114). -/
def coreFaultFlds : List Fld :=
  [.coreSeqFaultCode, .coreSeqFaultCause, .coreSeqFaultClass, .coreSeqFaultOpcode, .coreSeqFaultIndex, .coreSeqFaultSlot]

/-- An accepted LOAD: LOADING begins, and nothing of an earlier job is left (R71, R72, R114). The last frame of the
earlier job is forgotten too, so TICK selectors 0x12 and 0x13 (R58) read 0 until the new job opens a frame, and
JOB_STOP_FRAME returns to all ones. (log 83 DESIGN CHOICE, 88 DESIGN CHOICE) -/
def Dev.startLoading (d : Dev) : Dev :=
  let d := loadClears.foldl (fun d f => d.wr f 0) d
  let d := (List.range 48).foldl (fun d c => coreFaultFlds.foldl (fun d f => d.wr f 0 c) d) d
  let d := { d with
    image := none, frame := Frame.none_, twin := { d.twin.fresh with record := 0 }
    gmem := { d.gmem with faultAddr := 0 }, ctl := { d.ctl with faultAddr := 0 }
    snap := { d.snap with
      lastCut := none, judged := none, clean := false, dirty := false, resume := none, job := [], lost := [], restoring := false
      readFailed := false, stores := [], banks := [none, none, none] } }
  let d := d.modJob fun j => { j with
    abort := false, tearFrom := none, faultCc := none, stop := 2 ^ 64 - 1, launch := 0, endFrame := 0, drainBy := none
    keyed := false, releasedAt := none, loadLog := [] }
  (d.wr64 .jobStopFrameLo .jobStopFrameHi (2 ^ 64 - 1)).setPhase .loading

/-! ### ABORT, STOP and RELEASE (R69, R72, R73, R75, R387, R388) -/

/-- A job that an ABORT ends. -/
def JobPhase.abortable : JobPhase → Bool
  | .admitted => true
  | .armed => true
  | .running => true
  | .draining => true
  | _ => false

/-- An accepted ABORT is pending until TORN; issue stops at once and teardown begins (R69, R387).
(log 54 DEDUCED, 55 DEDUCED) -/
def Dev.startAbort (d : Dev) (k : Clock) : Dev :=
  d.modJob fun j => { j with
    abort := true, faultCc := some k.cc, tearFrom := some (j.tearFrom.getD k.count) }

/-- The stop frame in force becomes `n`; the twin is told, and a frame that has closed drains the job (R72, R377).
(log 54 DEDUCED) -/
def Dev.setStop (d : Dev) (k : Clock) (n : Nat) : Dev :=
  ((d.modJob fun j => { j with stop := n }).sendArm k).drainIfStopped k

/-- The value of a STOP: frame 0 before launch, the last frame opened after it (R73). (log 54 DEDUCED) -/
def Dev.stopValue (d : Dev) : Nat := if d.job.phase = .running then d.frame.number else 0

/-- A write of JOB_STOP_FRAME_HI takes the stop frame from both halves; the second part tells whether it was not
ignored (R69, R72, R84). (log 18 DEDUCED) -/
def Dev.writeStopHi (d : Dev) (k : Clock) (v : Nat) : Dev × Bool :=
  let ok := (d.job.phase = .admitted || d.job.phase = .armed || d.job.phase = .running) && !d.job.abort
  if ok then
    let n := d.rd .jobStopFrameLo + v % 2 ^ 32 * 2 ^ 32
    ((d.wr .jobStopFrameHi v).setStop k (if d.job.phase = .running then max n d.frame.number else n), true)
  else (d, false)

/-- A write of JOB_STOP_FRAME_LO is held for the HI write (R84). -/
def Dev.writeStopLo (d : Dev) (v : Nat) : Dev × Bool :=
  let ok := (d.job.phase = .admitted || d.job.phase = .armed || d.job.phase = .running) && !d.job.abort
  if ok then (d.wr .jobStopFrameLo v, true) else (d, false)

/-- The cause that rejects a command of JOB_CMD, 0 for none (R69, R388, Table TYN-5). (log 54 DEDUCED) -/
def Dev.jobCause (d : Dev) (op : Nat) : Nat :=
  if d.job.abort then 1
  else match op with
    | 1 => d.loadCause
    | 2 => if d.job.phase.abortable then 0 else 1
    | 3 => if d.job.phase = .armed || d.job.phase = .running then 0 else 1
    | _ => if d.job.phase = .torn && !d.job.zeroing && d.snap.run.isNone then 0 else 1

/-- A command of JOB_CMD: it takes effect, or is rejected with its cause; other values are ignored (R69). The second part
tells whether it was not ignored. (log 54 DEDUCED) -/
def Dev.jobCommand (d : Dev) (k : Clock) (op : Nat) : Dev × Bool :=
  if op = 0 || 4 < op then (d, false)
  else
    let cause := d.jobCause op
    let d := (d.wr .jobCmdLast op).wr .jobCmdCause cause
    if cause ≠ 0 then (d.flag .jobCmdReject, true)
    else (match op with
      | 1 => d.startLoading
      | 2 => d.startAbort k
      | 3 => if d.stopValue < d.job.stop then
          (d.wr64 .jobStopFrameLo .jobStopFrameHi d.stopValue).setStop k d.stopValue else d
      | _ => { d.modJob fun j => { j with zeroing := true, releasedAt := some k.count } with
          sec := { d.sec with slots := d.sec.slots.set 3 (List.replicate 64 0) } }, true)

/-! ### Zeroing (R388) -/

/-- The bytes that a stack zeroes. -/
def stackBytes (rs : List (Nat × Nat)) (s : Nat) : Nat := sumBy (rs.filter fun r => r.1 / 2 ^ 37 = s) (·.2)

/-- The ranges of device HBM that the job held. (log 54 DEDUCED) -/
def Dev.jobRanges (d : Dev) : List (Nat × Nat) :=
  match d.image with | some m => m.heldRanges d.order.hbmStacks (d.rd .jobMemberIndex) | none => []

/-- The latest count at which the zeroing ends: 1,000,000 + ⌈Z / 1,228.8⌉ after RELEASE. -/
def Dev.zeroedBy (d : Dev) (released : Nat) : Nat :=
  let z := maxBy (List.range d.order.hbmStacks) (stackBytes d.jobRanges)
  released + 1000000 + ceilDiv (z * 5) 6144

/-- RELEASE_ZEROING_END: every byte that the job held in device HBM is zero, and the job is IDLE. -/
def execReleaseZeroingEnd (at_ : Nat) (s : State) : Result :=
  s.act (fun k => match s.dev.job.releasedAt with
      | some t => k.toCount (min at_ (s.dev.zeroedBy t))
      | none => k) fun _ d =>
    if d.job.zeroing then
      let rs := d.jobRanges
      let inside := fun (a : Nat) => rs.any fun r => r.1 ≤ a && a < r.1 + r.2
      let d := { d with
        mem := { d.mem with
          hbm := d.mem.hbm.filter fun e => !inside e.1
          poisonHbm := d.mem.poisonHbm.filter fun a => !inside a }
        cores := Vector.replicate 48 Core.empty }
      some ((d.modJob fun j => { j with zeroing := false, releasedAt := none }).dropObject)
    else none

end Sys2Proof.Machine
end

