-- ==== Sys2Proof/Machine/Start.lean ====
section
/-! DEFINITION. Supplies, reset and the steps of a start (R428 to R440, R469 to R473). -/

namespace Sys2Proof.Machine

open Sys2Proof

/-- Change the start record. -/
def Dev.modStart (d : Dev) (f : Start → Start) : Dev := { d with start := f d.start }
/-- Change the security state. -/
def Dev.modSec (d : Dev) (f : Sec → Sec) : Dev := { d with sec := f d.sec }

/-! ### The flash (R462, R463) -/

/-- One byte of the flash. (log 5 DESIGN CHOICE) -/
def Dev.flashAt (d : Dev) (a : Nat) : Byte := Sparse.get d.mem.flash (Config.flashByte a) a

/-- Bytes of the flash. -/
def Dev.flashRead (d : Dev) (a n : Nat) : List Byte := (List.range n).map fun i => d.flashAt (a + i)

/-- Write bytes of the flash. -/
def flashPut (m : Memory) (a : Nat) : List Byte → Memory
  | [] => m
  | b :: t => flashPut (Sparse.set m (Config.flashByte a) a b) (a + 1) t

/-- Write bytes of the flash. -/
def Dev.flashWrite (d : Dev) (a : Nat) (bs : List Byte) : Dev :=
  { d with mem := { d.mem with flash := flashPut d.mem.flash a bs } }

/-- The size of an erase block. -/
def flashBlock : Nat := 65536

/-- Erase one block. -/
def Dev.flashErase (d : Dev) (a : Nat) : Dev := d.flashWrite a (List.replicate flashBlock 0xFF)

/-- Free bytes: what an erase or a program that a start has broken off leaves. (log 61 PRESUMED) -/
def Dev.freeBytes (d : Dev) (n : Nat) : List Byte × Dev :=
  ((List.range n).map fun i => BitVec.ofNat 8 (Config.freeValue (d.free + i)), { d with free := d.free + n })

/-- A flash command that reset breaks off leaves its target undefined (R464). (log 61 PRESUMED) -/
def Dev.breakFlash (d : Dev) : Dev :=
  match d.host.flash with
  | none => d
  | some c =>
    let (bs, e) := d.freeBytes (if c.op = 1 then flashBlock else if c.op = 2 then 256 else 0)
    (e.flashWrite c.addr bs).modIf fun h => { h with flash := none }

/-! ### Supplies (R431, R469 to R473) -/

/-- The device is in OFF. Only its SMBus target goes on (R431, R459). (log 58 DEDUCED) -/
def Dev.turnOff (d : Dev) : Dev :=
  if d.start.state = .off then d else (d.modStart fun s => { s with state := .off }).smbEvent 5

/-- The effect of PWRGOOD falling (R431); the supplies have not been held for a warm start, and a start word does not
outlive them (Table HOST-3). -/
def Dev.powerLost (d : Dev) : Dev :=
  d.turnOff.modStart fun s => { s with powerGood := false, supplyHeld := false, word := none }

/-- PWRGOOD_FALL: in any state the device returns to OFF (R431). -/
def execPwrgoodFall (s : State) : Result := s.board id fun _ d => some d.powerLost

/-- RESET_ASSERT: RESET_N goes low, and the device is held in reset (R430, R472), where a loaded EXTEST, CLAMP or HIGHZ acts
(Table HOST-5). -/
def execResetAssert (s : State) : Result :=
  s.board id fun _ d => some ((d.turnOff.modStart fun s => { s with resetHeld := true }).modIf fun h => h.settleTap true)

/-- REFCLK_START: the reference clock runs (R459, R471). -/
def execRefclkStart (s : State) : Result :=
  s.board id fun _ d => some (d.modStart fun s => { s with refclk := true })

/-- RAIL_SAMPLE: every microsecond all rails are sampled. A sample out of range makes the next start cold; ten in
succession below 90 % of nominal have the effect of PWRGOOD falling (R473). -/
def execRailSample (inRange low : BitVec 5) (s : State) : Result :=
  s.board (fun k => if s.dev.clocked then k.toUnit ((k.units / 7000 + 1) * 7000) else k) fun _ d =>
    if d.pwr.tripped then none
    else
      let d := d.modStart fun s => { s with
        rails := inRange, supplyHeld := s.supplyHeld && inRange = BitVec.allOnes 5 }
      let d := if inRange = BitVec.allOnes 5 || !d.clocked then d
        else ((d.flag .pwrEvRail).wr .pwrRailSeen (d.rd .pwrRailSeen ||| (~~~inRange).toNat)).noteUpdate .pwrRailSeen
      let lows := (List.range 5).map fun i => if low.getLsbD i then d.pwr.lows.getD i 0 + 1 else 0
      let d := d.modPwr fun p => { p with lows := lows }
      some (if lows.any (10 ≤ ·) then d.powerLost else d)

/-! ### Release of reset (R428, R429) -/

/-- A warm start may take place (R428, R448, R478). -/
def Dev.mayWarm (d : Dev) : Bool :=
  d.start.supplyHeld && d.start.retained && !d.start.violated && !d.pwr.tripped

/-- Bit `n` of the start word. -/
def Dev.wordBit (d : Dev) (n : Nat) : Bool := match d.start.word with | some w => w.getLsbD n | none => false

/-- The start word asks for a warm start. -/
def Dev.asksWarm (d : Dev) : Bool := !d.wordBit 0 && d.wordBit 1

/-- Register fields that only a cold start clears. (log 59 DEDUCED) -/
def coldFlds : List Fld := [.hubBridgeDown, .hubStrayCount, .hubVoteScrubbed, .secFaultCode, .secFaultCause]

/-- The parents of the counter, kept where it goes on TRACKING. -/
def syncFlds : List Fld := [.tickSyncPrimary, .tickSyncBackup]

/-- The registers that outlive a start. (log 59 DEDUCED) -/
def keptRegs (r : RegFile) (fs : List Fld) : RegFile :=
  let ns := fs.map Fld.num
  r.filter fun e => ns.contains (e.1 / 8192)

/-- A port that keep links keeps: it was UP, on a fabric die. (log 59 DEDUCED) -/
def Dev.keepsPort (d : Dev) (p : Fin 81) : Bool := p.val < 80 && d.fab.ports[p].state = .up

/-- A kept port goes on as it was, with new stall windows; every other port is DOWN. -/
def Dev.portAfter (d : Dev) (count : Nat) (p : Fin 81) : Port :=
  let q := d.fab.ports[p]
  if d.keepsPort p then
    { q with
      stallFc := List.replicate 8 0, stallFrom := q.stallFrom.map fun o => o.map fun _ => 0
      queues := q.queues.map fun l => l.map fun i =>
        { i with source := match i.source with | some x => if d.keepsPort x.1 then some x else none | none => none } }
  else { Port.cold with trainAt := count }

/-- The fabric after a warm start that keeps links (R429). (log 59 DEDUCED) -/
def Dev.keptFab (d : Dev) (count : Nat) : Fab :=
  { Fab.cold with
    ports := Vector.ofFn fun p => d.portAfter count p
    live := d.fab.live, midLive := d.fab.midLive, midCount := d.fab.midCount, commits := d.fab.commits
    flowBytes := d.fab.flowBytes, flowReps := d.fab.flowReps
    inbox := d.fab.inbox.filter fun e => d.keepsPort e.1 }

/-- The lent range reads as zero (R429). -/
def Dev.zeroLent (d : Dev) : Dev :=
  if d.tier.lend = .off then d
  else
    let b := d.rd .tierLendBase * 2 ^ 21
    let n := d.rd .tierLendPages * 2 ^ 21
    { d with mem := { d.mem with
        hbm := d.mem.hbm.clear b n
        poisonHbm := d.mem.poisonHbm.filter fun a => !(b ≤ a && a < b + n) } }

/-- What a start of either kind resets, and what it keeps (R428, R429, R449). `warm`: it is performed warm;
`links`: warm, with keep links; `count`: the counter's value. -/
def Dev.restart (d : Dev) (warm links : Bool) (count : Nat) : Dev :=
  let track := links && match d.parent with | some p => d.keepsPort p | none => false
  { Dev.blank d.order with
    ctl := { Ctl.empty with strayLast := if warm then d.ctl.strayLast else 0 }
    regs := if warm then keptRegs d.regs (coldFlds ++ if track then syncFlds else []) else []
    mem := { d.mem with
      tile := Vector.replicate 48 [], die := Vector.replicate 12 [], stat := Vector.replicate 48 []
      poisonTile := [], poisonDie := [], poisonStat := [] }
    fab := if links then d.keptFab count
      else if warm then { Fab.cold with commits := d.fab.commits, flowBytes := d.fab.flowBytes, flowReps := d.fab.flowReps }
      else Fab.cold
    sync := if track then { Sync.unset with state := .tracking, onBackup := d.sync.onBackup } else Sync.unset
    sec := if warm then { Sec.empty with
        slots := Sec.empty.slots.set 0 d.sec.slots[0], identity := d.sec.identity, sealing := d.sec.sealing }
      else Sec.empty
    host := ({ HostIf.empty with
      perst := d.host.perst, events := d.host.events, ir := d.host.ir, boundary := d.host.boundary }).settleTap false
    pwr := { Pwr.empty with
      energy := if warm then d.pwr.energy else 0
      reduced := if warm then d.pwr.reduced.map fun r => (r.1, r.2.map fun _ => 0) else []
      reducedTo := 0, lows := d.pwr.lows }
    out := d.out, free := d.free, rates := d.rates, updated := []
    start := { Start.held with
      resetHeld := false, powerGood := true, refclk := d.start.refclk, rails := d.start.rails
      kind := if warm then 2 else 1, downgrade := !warm && d.asksWarm, keptLinks := links
      supplyHeld := true, retained := warm, violated := false
      askMem := warm && d.wordBit 2, askLinks := links } }

/-- Enter a start state: SEC_START_STATE changes, and the host and the board management controller see it (R431,
Table HOST-3, Table HOST-6). -/
def Dev.setStart (d : Dev) (st : StartState) : Dev :=
  let d := ((d.modStart fun s => { s with state := st }).hostEvent 3).smbEvent 5
  if st = .failed then d.smbEvent 0 else d

/-- The counter at the release of reset: it runs on only with kept links (R429). (log 59 DEDUCED) -/
def Dev.countAfter (d : Dev) (held count : Nat) : Nat :=
  if d.mayWarm && d.asksWarm && d.wordBit 3 then count + held else 0

/-- The clock at the release of reset: a counter that runs on keeps its rate (R31, R429). (log 59 DEDUCED) -/
def Dev.clockAfter (d : Dev) (held : Nat) (k : Clock) : Clock :=
  if d.mayWarm && d.asksWarm && d.wordBit 3 then ⟨0, d.countAfter held k.count, 0, k.rate⟩ else ⟨0, 0, 0, 0⟩

/-- RESET_RELEASE: RESET_N goes high with the supplies up and the reference clock running, and the start begins in
SUPPLY (R428 to R430, R472). `held` is how many counts reset was held. (log 1 DESIGN CHOICE) -/
def execResetRelease (held : BitVec 48) (s : State) : Result :=
  let on := s.dev.start.resetHeld && s.dev.start.refclk
  s.board (fun k => if on then s.dev.clockAfter held.toNat k else k) fun k d =>
    if on then
      let warm := d.mayWarm && d.asksWarm
      some (((d.breakFlash.zeroLent).restart warm (warm && d.wordBit 3) k.count).setStart .supply)
    else none

/-! ### Identity and base firmware (R433 to R436) -/

/-- Bytes of the device certificate, in the order of R434: key, part, ordering code, serial, key index, signature.
(log 60 DEDUCED) -/
def certLen : Nat := 133 + 1 + 1 + 16 + 1 + 132

/-- The device certificate in flash. (log 60 DEDUCED) -/
def Dev.certificate (d : Dev) : List Byte := d.flashRead 0x8000 certLen

/-- The serial of the certificate. -/
def Dev.serial (d : Dev) : List Byte := slice d.certificate 135 16

/-- The secret that the PUF's response and the helper data in flash give (R433, Table HOST-4). -/
def Dev.pufSecret (d : Dev) : List Byte := Config.pufSecret Config.pufResponse (d.flashRead 0 0x8000)

/-- The identity key: 576 derived bits modulo the curve order (R433). (log 62 DESIGN CHOICE) -/
def identityOf (secret : List Byte) : Nat :=
  beNat (sha512 (Config.keyLabel 0 ++ secret) ++ (sha512 (Config.keyLabel 1 ++ secret)).take 8) % p521n

/-- The 512-bit sealing key (R433). (log 62 DESIGN CHOICE) -/
def sealingOf (secret : List Byte) : List Byte := sha512 (Config.keyLabel 2 ++ secret)

/-- A cold start derives both keys from the PUF; a warm start has those of the retained record (R429, Table BOOT-2). -/
def Dev.deriveKeys (d : Dev) : Dev :=
  if d.start.kind = 2 then d
  else d.modSec fun s => { s with identity := identityOf d.pufSecret, sealing := sealingOf d.pufSecret }

/-- The device public key matches the certificate (R434). -/
def Dev.identityOk (d : Dev) : Bool := ecPublic d.sec.identity == slice d.certificate 0 133

/-- Measurement slot 0 (Table BOOT-6). -/
def Dev.measureIdentity (d : Dev) : Dev :=
  let d := d.modSec fun s => { s with slots := s.slots.set 0 (List.replicate 64 0), keyed := true }
  ((d.extend 0 Config.bootRomDigest).extend 0 (sha512 (ecPublic d.sec.identity))).modStart fun s =>
    { s with retained := true }

/-- First byte of a base firmware slot (Table HOST-4). -/
def fwSlotBase (slot : Nat) : Nat := if slot = 0 then 0x100000 else 0x1200000

/-- A base firmware slot meets the first four conditions of R435. (log 60 DEDUCED) -/
def Dev.fwSlotOk (d : Dev) (slot : Nat) : Bool :=
  let m := d.flashRead (fwSlotBase slot) 512
  let len := field m 0x018 8
  let key := slice m 0x060 133
  slice m 0 8 == ascii "NDKBASEF" && field m 0x008 2 = 1 && field m 0x00A 2 < 4 && len ≤ 2 ^ 24 &&
    sha512 key == Config.stalvolenDigest (field m 0x00A 2) &&
    ecdsaVerify key (slice m 0 256) (slice m 0x100 132) &&
    sha512 (d.flashRead (fwSlotBase slot + 4096) len) == slice m 0x020 64

/-- Run the image of a slot: measurement slot 1, security version and placement version (R436, Table BOOT-4). -/
def Dev.takeFirmware (d : Dev) (slot : Nat) : Dev :=
  let m := d.flashRead (fwSlotBase slot) 512
  let d := (d.modStart fun s => { s with fwSlot := slot }).extend 1 (sha512 (slice m 0 256))
  d.modSec fun s => { s with fwSvn := field m 0x00C 4, placeVer := field m 0x010 1 }

/-! ### Owner policy (R437, R438) -/

/-- Read an owner policy package (Table BOOT-5); none where it fails its checks. (log 60 DEDUCED) -/
def readPolicy (p : List Byte) : Option Policy :=
  let a := field p 0x01C 1
  let b := field p 0x01D 1
  let n := 0xC0 + 64 * a + 64 * b
  let key := slice p 0x020 133
  if slice p 0 8 == ascii "NDKPOLCY" && field p 0x008 2 = 1 && a ≤ 8 && 1 ≤ b && b ≤ 4 &&
      ecdsaVerify key (p.take n) (slice p n 132) then
    let whey := field p 0x014 4
    let every := field p 0x018 4
    some { flags := field p 0x00A 2, version := field p 0x00C 4, minSvn := field p 0x010 4
           wheySize := if whey = 0 then 2 ^ 24 else whey, wheyInterval := if every = 0 then 4 else every
           signers := (List.range a).map fun i => slice p (0xC0 + 64 * i) 64
           managers := (List.range b).map fun i => slice p (0xC0 + 64 * a + 64 * i) 64
           ownerKey := key, digest := sha512 (p.take (n + 132)) }
  else none

/-- The binding record of an owner key: its SHA-512 and the seal over that (R438). (log 60 DEDUCED) -/
def Dev.bindingRecord (d : Dev) (key : List Byte) : List Byte := sha512 key ++ hmacSha512 d.sec.sealing (sha512 key)

/-- The binding region holds a record whose seal is good (R438, SEC_OWNER_BOUND). (log 60 DEDUCED) -/
def Dev.bindingValid (d : Dev) : Bool :=
  let r := d.flashRead 0x10000 128
  !r.all (· == 0xFF) && hmacSha512 d.sec.sealing (r.take 64) == r.drop 64

/-- What step 4 finds. -/
inductive PolicyEnd where
  | failed (cause : Nat)
  | unowned
  | owned (p : Policy)
  deriving DecidableEq, Repr

/-- Step 4: the package and the binding record (R438), then the security version of the base firmware (R435).
(log 60 DEDUCED) -/
def Dev.policyStep (d : Dev) : Dev × PolicyEnd :=
  let region := d.flashRead 0x10000 flashBlock
  let erased := region.all (· == 0xFF)
  match readPolicy (d.flashRead 0x20000 flashBlock) with
  | none => (d, if erased then .unowned else .failed 4)
  | some p =>
    if !erased && region.take 128 != d.bindingRecord p.ownerKey then (d, .failed 5)
    else if bitAt p.flags 3 then (d.flashErase 0x10000, .unowned)
    else
      let d := if erased then d.flashWrite 0x10000 (d.bindingRecord p.ownerKey) else d
      (d, if d.sec.fwSvn < p.minSvn then .failed 6 else .owned p)

/-- Keep memory takes effect where it was asked for and the policy permits it (R428). -/
def Dev.decideKeep (d : Dev) (permitted : Bool) : Dev :=
  d.modStart fun s => { s with keptMem := s.askMem && permitted, keepDenied := s.askMem && !permitted }

/-! ### The steps (R430, R431, Table BOOT-2) -/

/-- A failed check ends the start in FAILED (R431). -/
def Dev.failStart (d : Dev) (cause : Nat) : Dev :=
  (d.modStart fun s => { s with failCause := cause }).setStart .failed

/-- SEC_START_MS at the entry to READY or UNOWNED. -/
def Dev.stampStart (d : Dev) (k : Clock) : Dev :=
  d.modStart fun s => { s with ms := min (k.units / 7000000) (2 ^ 20 - 1) }

/-- The value of SEC_START (Table BOOT-9). -/
def Dev.startWord (d : Dev) : Nat :=
  let s := d.start
  s.state.code + s.kind * 2 ^ 4 + s.keptMem.toNat * 2 ^ 6 + s.keptLinks.toNat * 2 ^ 7 + s.downgrade.toNat * 2 ^ 8 +
    s.keepDenied.toNat * 2 ^ 9 + s.failCause * 2 ^ 10 + s.fwSlot * 2 ^ 14

/-- The steps of the present state that may end now: those of BRINGUP also run in UNOWNED. (log 59 DEDUCED) -/
def Start.expects (s : Start) (step : Nat) : Bool :=
  !s.done.contains step &&
  match s.state with
  | .supply => step = 1
  | .identity => step = 2
  | .baseAuth => step = 3
  | .policy => step = 4
  | .bringup => step = 5 || (step = 6 && s.done.contains 5) || step = 7
  | .unowned => step = 5 || (step = 6 && s.done.contains 5) || step = 7
  | .joining => step = 8 || step = 9
  | _ => false

/-- Note that a step has ended. -/
def Dev.stepDone (d : Dev) (step : Nat) : Dev := d.modStart fun s => { s with done := s.done ++ [step] }

/-- The endpoint starts its training on entry to IDENTITY; configuration requests complete 100 ms after that or
after PERST#'s deassertion (R455). -/
def Dev.endpointWaits (d : Dev) (k : Clock) : Dev :=
  if d.host.perst then d else d.modIf fun h => { h with cfgFrom := some (k.units + 700000000) }

/-- Steps 5 to 7 have all ended: a device in BRINGUP goes on to JOINING. -/
def Dev.broughtUp (d : Dev) : Dev :=
  if d.start.state = .bringup && [5, 6, 7].all d.start.done.contains then d.setStart .joining else d

/-- A counter that is no longer LOCKED has step 8 before it again (Table BOOT-3). (log 59 DEDUCED) -/
def Dev.loseSync (d : Dev) : Dev :=
  if d.syncState = .locked then d else d.modStart fun s => { s with done := s.done.filter (· ≠ 8) }

/-- Steps 8 and 9 have both ended and the counter is LOCKED: READY, reported to the fabric manager (Table BOOT-8). -/
def Dev.joinedUp (d : Dev) (k : Clock) : Dev :=
  if [8, 9].all d.start.done.contains && d.syncState = .locked then
    let d := (d.stampStart k).setStart .ready
    d.report 3 (leBytes 4 d.startWord)
  else d

/-- The end of a step. -/
def Dev.endStep (d : Dev) (k : Clock) (step : Nat) (ok : Bool) : Option Dev :=
  match step with
  | 1 =>
    some (if ok && d.start.powerGood && d.start.rails = BitVec.allOnes 5 then
      ((d.stepDone 1).setStart .identity).endpointWaits k
    else d.failStart 1)
  | 2 =>
    some (if !ok then
      (if d.start.kind = 2 then (d.modStart fun s => { s with retained := false }).failStart 8 else d.failStart 2)
    else if !d.deriveKeys.identityOk then d.deriveKeys.failStart 2
    else (d.deriveKeys.measureIdentity.stepDone 2).setStart .baseAuth)
  | 3 =>
    some (if d.fwSlotOk 0 then ((d.takeFirmware 0).stepDone 3).setStart .policy
    else if d.fwSlotOk 1 then ((d.takeFirmware 1).stepDone 3).setStart .policy
    else d.failStart 3)
  | 4 =>
    let (d, e) := d.policyStep
    let d := d.modSec fun s => { s with bound := d.bindingValid }
    some (match e with
      | .failed c => d.failStart c
      | .unowned =>
        (((((d.extend 2 (List.replicate 64 0)).decideKeep false).stepDone 4).stampStart k).setStart .unowned)
      | .owned p =>
        let d := (d.modSec fun s => { s with policy := some p }).extend 2 p.digest
        ((d.decideKeep (bitAt p.flags 2)).stepDone 4).setStart .bringup)
  | 5 => some (if ok then (d.stepDone 5).broughtUp else d.failStart 7)
  | 6 =>
    let d := if d.start.keptMem then d else { d with mem := { d.mem with hbm := [], poisonHbm := [] } }
    some (d.stepDone 6).broughtUp
  | 7 => if ok then some (d.stepDone 7).broughtUp else none
  | 8 => if d.syncState = .locked then some ((d.stepDone 8).joinedUp k) else none
  | 9 => if d.sec.fixed then some (((d.stepDone 9).loseSync).joinedUp k) else none
  | _ => none

/-- START_STEP_END: a step of Table BOOT-2 ends `ms` milliseconds after the release of reset. `ok` answers the part
of the check that lies in the supplies, the PUF, the secure SRAM, the stacks and the links; the rest is computed.
(log 1 DESIGN CHOICE, 6 DEDUCED) -/
def execStartStepEnd (step : Fin 10) (ok : Bool) (ms : Nat) (s : State) : Result :=
  let on := s.dev.start.expects step
  s.act (fun k => if on then k.toUnit (ms * 7000000) else k) fun k d =>
    if on then d.endStep k step ok else none

end Sys2Proof.Machine
end

