-- ==== Sys2Proof/Machine/Agent.lean ====
section
/-! DEFINITION. Quotes, the session, and the management agent's messages (R441 to R448). -/

namespace Sys2Proof.Machine

open Sys2Proof

/-! ### Quotes (R441, R442) -/

/-- Quotes are made in READY, UNOWNED and JOINING, and in FAILED after step 2 has passed; not after a
SECURITY_VIOLATION (R441, R448). -/
def Dev.mayQuote (d : Dev) : Bool :=
  !d.start.violated &&
  match d.start.state with
  | .ready => true
  | .unowned => true
  | .joining => true
  | .failed => d.sec.keyed
  | _ => false

/-- The bytes of a quote up to its signature, as the slots and the counter stand (Table BOOT-7). -/
def Dev.quoteBody (d : Dev) (k : Clock) (nonce : List Byte) : List Byte :=
  ascii "NDKQUOTE" ++ leBytes 2 1 ++ leBytes 2 (if d.sec.fixed then d.rd .secNode else 0xFFFF) ++
  leBytes 4 d.startWord ++ leBytes 8 k.count ++ padTo 0 64 nonce ++ d.sec.slots.toList.flatten ++
  leBytes 4 d.sec.fwSvn ++ leBytes 4 (match d.sec.policy with | some p => p.version | none => 0) ++ List.replicate 16 0

/-- A free scalar of the curve's order: an ephemeral secret or a signature nonce. (log 10 DESIGN CHOICE) -/
def Dev.drawScalar (d : Dev) : Nat × Dev := (1 + d.draw.1 % (p521n - 1), d.draw.2)

/-- Sign a quote body with the identity key; the signature nonce is a free value. -/
def Dev.signQuote (d : Dev) (body : List Byte) : List Byte × Dev :=
  (body ++ ecdsaSign d.sec.identity d.drawScalar.1 body ++ List.replicate 12 0, d.drawScalar.2)

/-- The nonce registers (Table BOOT-9). -/
def Dev.nonceRegs (d : Dev) : List Byte := (List.range 16).flatMap fun i => leBytes 4 (d.rd .secNonce 0 i)

/-- The effect of a completed pair of SEC_QUOTE_CMD: a command that cannot be taken is ignored and sets
SEC_QUOTE_REJECT (R442). The second part tells whether it was not ignored. (log 65 DEDUCED) -/
def Dev.quoteCommand (d : Dev) (k : Clock) (v : Nat) : Dev × Bool :=
  if v % 2 = 0 then (d, false)
  else if d.sec.quote.isSome || !d.mayQuote then (d.flag .secQuoteReject, false)
  else (d.modSec fun s => { s with quote := some ⟨true, d.quoteBody k d.nonceRegs⟩ }, true)

/-- An agent message is dropped (SEC_AGENT_DROP). -/
def Dev.agentDrop (d : Dev) : Dev := d.count .secAgentDrop

/-- A packet whose MAC does not verify, or a JOIN_ACCEPT that is not accepted, is dropped (SEC_MAC_DROP). -/
def Dev.macDrop (d : Dev) : Dev := d.count .secMacDrop

/-- QUOTE_REQUEST: the quote is made at once, or waits in arrival order with up to 16 others (R442). Before the join it
needs no MAC (R444). (log 65 DEDUCED) -/
def execQuoteRequest (p : Packet) (s : State) : Result :=
  s.now fun k d =>
    if p.op ≠ 0x75 then none
    else if d.sec.fixed && !d.macOk k p then some d.macDrop
    else if !d.mayQuote then some d.agentDrop
    else
      let body := d.quoteBody k (slice (agentContent p) 0 64)
      some (if d.sec.quote.isNone then d.modSec fun s => { s with quote := some ⟨false, body⟩ }
        else if d.sec.queued.length < 16 then d.modSec fun s => { s with queued := s.queued ++ [body] }
        else d.agentDrop)

/-- QUOTE_DONE: the quote is signed. A commanded one can be read through the mailbox, a requested one is sent; the
next waiting one is made (R441, R442). -/
def execQuoteDone (s : State) : Result :=
  s.now fun k d =>
    match d.sec.quote with
    | none => none
    | some q =>
      let (bytes, d) := d.signQuote q.body
      let d := if q.commanded then d.modSec fun s => { s with last := some bytes } else d.agentSend k 0x76 bytes
      some (d.modSec fun s => { s with
        quote := s.queued.head?.map fun b => ⟨false, b⟩, queued := s.queued.tail })

/-! ### The join (R443) -/

/-- The session key of R443 step 5. (log 64 DEDUCED) -/
def sessionKey (scalar : Nat) (peer nonce managerNonce : List Byte) : List Byte :=
  sha512 (ascii "NDK-SESSION" ++ ecdhX scalar peer ++ nonce ++ managerNonce)

/-- The device is in JOINING and has accepted no JOIN_ACCEPT. -/
def Dev.joins (d : Dev) : Bool := d.start.state = .joining && !d.sec.fixed && !d.start.violated

/-- The content of the JOIN_HELLO of this start: quote, ephemeral key, device certificate. -/
def Dev.makeHello (d : Dev) (k : Clock) : Dev :=
  let (e, d) := d.drawScalar
  let pub := ecPublic e
  let (quote, d) := d.signQuote (d.quoteBody k (sha512 pub))
  d.modSec fun s => { s with
    ephemeral := e, nonce := sha512 pub, session := .joining
    hello := quote ++ pub ++ List.replicate 3 0 ++ d.certificate }

/-- JOIN_HELLO: sent in JOINING, and repeated every 10 ms until a JOIN_ACCEPT is accepted (R443). -/
def execJoinHello (s : State) : Result :=
  s.act (fun k => match s.dev.sec.helloAt with
      | some u => if s.dev.joins then k.toUnit (u + 70000000) else k
      | none => k) fun k d =>
    if d.joins then
      let d := if d.sec.helloAt.isNone then d.makeHello k else d
      some ((d.agentSend k 0x71 d.sec.hello).modSec fun s => { s with helloAt := some k.units })
    else none

/-- A JOIN_ACCEPT meets the conditions of R443 step 3. -/
def Dev.acceptsJoin (d : Dev) (p : Packet) : Bool :=
  let c := agentContent p
  let key := slice c 209 133
  d.joins && d.sec.helloAt.isSome &&
    (match d.sec.policy with | some o => o.managers.contains (sha512 key) | none => false) &&
    ecdsaVerify key (c.take 342) (slice c 342 132) && (ecDecode (slice c 76 133)).isSome

/-- The session of an accepted JOIN_ACCEPT (R443 steps 4 and 5). (log 64 DEDUCED) -/
def Dev.startSession (d : Dev) (p : Packet) : Dev :=
  let c := agentContent p
  d.modSec fun s => { s with
    session := .joined, fixed := true, key := sessionKey s.ephemeral (slice c 76 133) s.nonce (slice c 12 64) }

/-! ### Rekeying (R445) -/

/-- REKEY: the answer goes out under the old key, and the new one holds from then on (R445). (log 64 DEDUCED) -/
def execRekey (p : Packet) (s : State) : Result :=
  s.now fun k d =>
    let c := agentContent p
    let peer := slice c 0 133
    if p.op ≠ 0x77 then none
    else if !d.sec.fixed || !d.macOk k p then some d.macDrop
    else if d.start.violated || (ecDecode peer).isNone then some d.agentDrop
    else
      let (e, d) := d.drawScalar
      let (n, d) := d.draw
      let nonce := leBytes 64 n
      let d := d.agentSend k 0x77 (ecPublic e ++ nonce)
      some (d.modSec fun s => { s with
        session := .rekeying, oldKey := some (s.key, k.count + 1000000)
        key := sessionKey e peer nonce (slice c 133 64) })

/-- OLD_KEY_EXPIRE: 1,000,000 counts after the answer the old key is no longer accepted (R445). (log 64 DEDUCED) -/
def execOldKeyExpire (s : State) : Result :=
  s.act (fun k => match s.dev.sec.oldKey with | some (_, t) => k.toCount t | none => k) fun _ d =>
    match d.sec.oldKey with
    | none => none
    | some _ => some (d.modSec fun s => { s with session := .joined, oldKey := none })

/-! ### Reports (R447) -/

/-- REPORT_ACK: its report is repeated no more. One that matches no report is of no use, and is dropped and counted
(R336). (log 66 DEDUCED) -/
def execReportAck (p : Packet) (s : State) : Result :=
  s.now fun k d =>
    let c := agentContent p
    if p.op ≠ 0x74 then none
    else if !d.sec.fixed || !d.macOk k p then some d.macDrop
    else
      let acks := fun (r : Report) => r.kind = field c 0 1 && r.orders.contains (field c 1 3)
      some (if d.sec.reports.any acks then d.modSec fun s => { s with reports := s.reports.filter fun r => !acks r }
        else d.agentDrop)

/-- The report that a packet number names. -/
def Dev.reportOf (d : Dev) (order : Nat) : Option Report := d.sec.reports.find? fun r => r.orders.contains order

/-- REPORT_REPEAT: a REPORT that GMEM_CFG_RETRY µs have passed over is repeated on the next flowlet (R447). A device
under SECURITY_VIOLATION repeats only kind 1 (R448). (log 66 DEDUCED) -/
def execReportRepeat (order : BitVec 24) (s : State) : Result :=
  let r? := (s.dev.reportOf order.toNat).filter fun r => !s.dev.start.violated || r.kind = 1
  s.act (fun k => match r? with
      | some r => k.toCount (r.sentAt + 1000 * s.dev.rd .gmemCfgRetry)
      | none => k) fun k d =>
    r?.map fun r =>
      let fm := d.rd .secJoinFm
      let f := d.fab
      let d := { d with fab := { f with flowReps := Sparse.set f.flowReps 0 fm (Sparse.get f.flowReps 0 fm + 1) } }
      let (d, r') := d.sendReport k r
      d.modSec fun s => { s with reports := s.reports.map fun x => if x = r then r' else x }

/-! ### SECURITY_VIOLATION (R448) -/

/-- The hub firmware runs: step 3 has passed, also where a later step has failed (R436, Table BOOT-11). (log 65 DEDUCED) -/
def Start.firmware (x : Start) : Bool :=
  match x.state with
  | .policy => true
  | .bringup => true
  | .joining => true
  | .ready => true
  | .unowned => true
  | .failed => 4 ≤ x.failCause
  | _ => false

/-- Raise SECURITY_VIOLATION: a job that runs is FAULTED, and no quote is made any more. (log 65 DEDUCED) -/
def Dev.violate (d : Dev) (k : Clock) (cause : Nat) : Dev :=
  let d := ((d.wr .secFaultCode 0x70).wr .secFaultCause cause).smbEvent 4
  let d := (d.modStart fun s => { s with violated := true }).modSec fun s => { s with quote := none, queued := [] }
  d.runFault k 0x70 cause 0xFFF 0

/-- SECURITY_CHECK: every 1,000,000 counts the integrity tags of secure SRAM and the identity key are checked. -/
def execSecurityCheck (sramOk keyOk : Bool) (s : State) : Result :=
  let on := s.dev.start.firmware
  s.act (fun k => if on then k.toCount ((k.count / 1000000 + 1) * 1000000) else k) fun k d =>
    if !on then none
    else if d.start.violated then some d
    else if !sramOk then some (d.violate k 1)
    else if !keyOk then some (d.violate k 2)
    else some d

end Sys2Proof.Machine
end

