-- ==== Sys2Proof/Machine/Array.lean ====
section
/-! DEFINITION. The matrix array and the pairing unit: MM.LOAD, MM.RUN, MM.STORE, MM.PAIR and the end of a
fill (R122 to R126, R132, R135 to R147, R151 to R153, R163 to R169). -/

namespace Sys2Proof.Machine

open Sys2Proof

/-! ### Issue -/

/-- MM.LOAD: issue of a block load (R141). -/
def execMmLoad (c : Fin 48) (psel : BitVec 4) (tda : BitVec 6) (o : Offs) (z : Size) (s : State) : Result :=
  s.issueEng c (encMmLoad psel tda o z) .array

/-- MM.RUN: issue of a run (R137). -/
def execMmRun (c : Fin 48) (psel : BitVec 4) (tda : BitVec 6) (o : Offs) (z : Size) (accset : BitVec 2)
    (acc : Bool) (skim : BitVec 2) (skimAt : BitVec 4) (st : BitVec 5) (s : State) : Result :=
  s.issueEng c (encMmRun psel tda o z accset acc skim skimAt st) .array

/-- MM.STORE: issue of a store of an accumulator set (R146). -/
def execMmStore (c : Fin 48) (psel : BitVec 4) (tdd : BitVec 6) (o : Offs) (z : Size) (rnd accset : BitVec 2)
    (s : State) : Result :=
  s.issueEng c (encMmStore psel tdd o z rnd accset) .array

/-- MM.PAIR: issue of a sparse product (R164). -/
def execMmPair (c : Fin 48) (psel : BitVec 4) (tda tdb : BitVec 6) (z : Size) (accset : BitVec 2) (acc : Bool)
    (s : State) : Result :=
  s.issueEng c (encMmPair psel tda tdb z accset acc) .pairing

/-! ### Element pairs (R122, R123) -/

/-- The pairs (q, e) of a tile's 4,096 elements. -/
def TileData.pairs (x : TileData) (f : Fmt) : List QE :=
  match f.float? with
  | some ff => (chunksOf 16 256 x.codes).flatMap (alignBlock f ff)
  | none => x.codes.zipIdx.map fun (v, i) =>
    match f with
    | .blk n =>
      match (scaleOf (x.scales.getD (i / 32) 0)).1 with
      | none => ⟨0, -15⟩
      | some s => ⟨twos n v, s⟩
    | .t2 => ⟨if v % 4 = 1 then 1 else if v % 4 = 3 then -1 else 0, 0⟩
    | _ => ⟨twos f.width v, 0⟩

/-- Infinities and NaNs of a tile, each counted once in CORE_FMT_NONFINITE_IN. -/
def TileData.nonfinite (x : TileData) (f : Fmt) : Nat :=
  match f.float? with
  | some ff => countNonfinite ff x.codes
  | none => 0

/-- A pair that enters as zero. -/
def QE.none : QE := ⟨0, 0⟩

/-- Element (i, j) of a list of tiles' pairs laid out as `tc` tile columns. -/
def pairAt (tiles : List (List QE)) (tc i j : Nat) : QE :=
  (tiles.getD (i / 64 * tc + j / 64) []).getD (64 * (i % 64) + j % 64) QE.none

/-- Count what the readers found in a list of tiles that enter the array. -/
def Dev.countInputs (d : Dev) (c : Fin 48) (f : Fmt) (xs : List TileData) : Dev :=
  xs.foldl (fun d x =>
    let n := x.nonfinite f
    let d := d.countTile c x
    if n = 0 then d else d.count .coreFmtNonfiniteIn n c) d

/-! ### Busy cycles (R147) -/

/-- Count the array's work from `a` to `b`, ac already counted left out. -/
def Dev.arrayBusy (d : Dev) (c : Fin 48) (a b : Nat) : Dev :=
  let x := d.cores[c]
  let n := b - max a x.arrayBusyTo
  (d.setCore c { (x.addWork 0 n) with arrayBusyTo := max x.arrayBusyTo b }).count .coreArrBusy n c

/-! ### MM.LOAD (R141, R142) -/

/-- The block that an MM.LOAD brings (R105, R141). -/
def Dev.readBlock (d : Dev) (c : Fin 48) (e : Entry) : Block × List TileData :=
  let t := e.tda
  let f := Td.fmt t
  let xs := (rect e.sr e.scol e.nr e.nc).map fun (r, q) => d.readTile c t r q
  let tiles := xs.map fun x => x.pairs f
  ({ seq := e.seq, fmt := Td.format t, trows := e.nr, tcols := e.nc
     rows := (List.range (64 * e.nr)).map fun i => (List.range (64 * e.nc)).map fun j => pairAt tiles e.nc i j },
   xs)

/-- Start an MM.LOAD. It begins to fill once the run before it in the queue streams, over a block in the shadow that no
run has taken (R142), and the fill takes 12 × b ac. (log 24 DEDUCED) -/
def Dev.startLoad (d : Dev) (k : Clock) (c : Fin 48) (e : Entry) : Started :=
  let x := d.cores[c]
  let t := e.tda
  match d.checkTiles c [(t, rect e.sr e.scol e.nr e.nc)] [] with
  | some r => r
  | none =>
    let (b, xs) := d.readBlock c e
    let from_ := max (d.dieAc k (dieOf c)) x.streamFrom
    let fin := from_ + 12 * (Td.fmt t).qWidth
    let d := (d.countInputs c (Td.fmt t) xs).arrayBusy c from_ fin
    .go (d.modCore c fun x => { x with shadow := some (b, false) }) (fin * 5) false

/-- The set that an MM instruction names. -/
def Entry.setNo (e : Entry) : Fin 4 := ⟨wbits e.word 50 49 % 4, Nat.mod_lt _ (by omega)⟩

/-- An MM instruction that names a set: MM.RUN, MM.STORE, MM.PAIR. -/
def Entry.namesSet (e : Entry) (i : Fin 4) : Bool := e.on && wCls e.word = 1 && wOp e.word ≠ 1 && e.setNo = i

/-- Earlier unretired instructions keep a set from an instruction (R145). (log 24 DEDUCED) -/
def Core.setBusy (x : Core) (e : Entry) (ops : List Nat) : Bool :=
  x.entries.any fun i => i.seq < e.seq && i.namesSet e.setNo && ops.contains (wOp i.word)

/-- An earlier MM.STORE waits on the store path, and names the set of `e` where `same` asks for it. -/
def Core.storeAhead (x : Core) (e : Entry) (same : Bool) : Bool :=
  x.entries.any fun i => i.seq < e.seq && i.on && i.eng = .array && i.stage = .queued && wOp i.word = 3 &&
    (!same || i.setNo = e.setNo)

/-- An MM.STORE that R91 has released and that waits on the store path, behind another one or for an MM.PAIR of its set:
it keeps no instruction of another set back (R145, R146). (log 24 DEDUCED) -/
def Core.pathWaits (x : Core) (e : Entry) : Bool :=
  e.on && wOp e.word = 3 && x.depsMet e && (x.setBusy e [4] || x.storeAhead e false)

/-- The instruction of an engine's queue that may leave it next: its head, for the array past the stores that wait on the
store path. (log 24 DEDUCED) -/
def Core.next (x : Core) (g : Eng) : Option Entry :=
  if g = .array then (x.queued g).find? fun e => !x.pathWaits e else x.head g

/-- An entry waits for a fill: an MM.RUN at its queue head that nothing else holds (R142). -/
def Core.waitsForFill (x : Core) : Bool :=
  match x.next .array with
  | some e => e.on && wOp e.word = 2 && x.depsMet e
  | none => false

/-- The fill in progress that ends first. -/
def Core.filling (x : Core) : Option Entry :=
  let es := (x.runningEntries .array).filter fun e => wOp e.word = 1 && !e.done
  match (es.map (·.due)).min? with
  | none => none
  | some u => es.find? fun e => e.due = u

/-- ARRAY_FILL_DONE: the fill of an MM.LOAD ends and a run may take the block (R142). A fill that a newer MM.LOAD has
overtaken ends without a block, and counts among the fills. (log 24 DEDUCED) -/
def execArrayFillDone (c : Fin 48) (s : State) : Result :=
  s.act
    (fun k => match s.dev.cores[c].filling with | some e => k.toUnit (s.dev.dueUnit c e) | none => k)
    fun _ d =>
      let x := d.cores[c]
      match x.filling with
      | none => none
      | some e =>
        let y := x.updEntry e.seq fun i => { i with done := true }
        let d' := d.count .coreArrLoads 1 c
        match x.shadow with
        | some (b, false) =>
          if b.seq = e.seq then
            let d' := d'.setCore c { y with shadow := some (b, true) }
            some (if x.waitsForFill then d'.count .coreArrLoadWaits 1 c else d')
          else some (d'.setCore c y)
        | _ => some (d'.setCore c y)

/-! ### Accumulator sets (R124 to R126, R144) -/

/-- ACC = 1. -/
def Entry.acc (e : Entry) : Bool := wbits e.word 48 48 = 1

/-- The weight W that a clearing pair of formats fixes (R124). -/
def pairWeight (stat stream : Fmt) : Int := stat.eMin + stream.eMin

/-- The set as an instruction of formats (stat, stream) begins to add: cleared under ACC = 0, turned to F32
mode by another format pair (R126). A set that nothing has cleared holds zeros and takes the shape of the first that adds.
(log 23 DEDUCED) -/
def AccSet.begin (a : AccSet) (acc : Bool) (tcols : Nat) (stat stream : Fmt) (pair : Nat × Nat) : AccSet :=
  if !acc || a.pair.isNone then
    { tcols := tcols, pair := some pair, weight := pairWeight stat stream
      f32 := !(stat.exact && stream.exact), closed := false, elems := [], poison := none, shows := a.shows }
  else if !a.f32 && a.pair ≠ some pair then
    { a with f32 := true, elems := a.elems.filterMap fun (i, v) =>
        let n := f32Bits (.fin v a.weight)
        if n = 0 then none else some (i, (n : Int)) }
  else a

/-- From ac `at_` on the set shows its F32 mode, and is closed or not (R154); `now` is the present ac. -/
def AccSet.showFrom (a : AccSet) (now at_ : Nat) (closed : Bool) : AccSet :=
  { a with shows := showing now a.shows ++ [(at_, a.f32, closed)] }

/-- The fault of a poisoned byte of the accumulator set that an instruction reads: an MM.STORE, or one that adds to what
the set holds (R386). -/
def Dev.setPoison (d : Dev) (k : Clock) (c : Fin 48) (e : Entry) (reads : Bool) : Option Started :=
  if reads then (d.cores[c].sets[e.setNo].poison).map fun a =>
    .raised (d.sramFault k 3 (c.val / 4) c a (engineId (wordEng d.order.fabricDies e.word) c))
  else none

/-- The key of set element (row, column). -/
def setKey (row col : Nat) : Nat := row * 768 + col

/-- Element of a set. -/
def AccSet.elem (a : AccSet) (row col : Nat) : Int := Sparse.get a.elems 0 (setKey row col)

/-- Put an element of a set. -/
def AccSet.put (a : AccSet) (row col : Nat) (v : Int) : AccSet :=
  { a with elems := Sparse.set a.elems 0 (setKey row col) v }

/-- The value of a set element (R124, R126). -/
def AccSet.val (a : AccSet) (row col : Nat) : Val :=
  if a.f32 then Sys2Proof.Machine.f32 (a.elem row col).toNat else .fin (a.elem row col) a.weight

/-- Add to an exact element, held at the ends of the 96-bit range (R125); tells whether it was held. -/
def addExact (v n : Int) : Int × Bool := clampInt (-(2 ^ 95)) (2 ^ 95 - 1) (v + n)

/-- The exact product sum of one token row and one column, in units of 2^w (R124). -/
def dotExact (w : Int) (xs ys : List QE) : Int :=
  (xs.zip ys).foldl (fun a p => a + p.1.q * p.2.q * (2 : Int) ^ (p.1.e + p.2.e - w).toNat) 0

/-- Add the products of one token row and one column to an F32 element, in ascending reduction index, each
product and each addition rounded to nearest (R126). -/
def dotF32 (v : Val) (xs ys : List QE) : Val :=
  (xs.zip ys).foldl (fun a p => addF32 a (rndF32 (.fin (p.1.q * p.2.q) (p.1.e + p.2.e)))) v

/-! ### MM.RUN (R137, R138, R151 to R153) -/

/-- How a run skims: mode (0 off, 1 safe, 2 predictive), planes, threshold and ρ. (log 25 DEDUCED) -/
structure SkimCtx where
  mode : Nat
  planes : Nat
  t : Val
  rho : Nat
  deriving DecidableEq, Repr

/-- What a run counts. -/
structure RunCounts where
  accSat : Nat
  safe : Nat
  ptot : Nat
  pred : Nat
  deriving DecidableEq, Repr

/-- The outcome of one skimmed element (R151): its new contents and whether it stopped, and whether a
safe run would have finished it. -/
def skimElem (k : SkimCtx) (b : Nat) (w old : Int) (xs ys : List QE) : Int × Bool × Bool × Bool :=
  let low : Int := 2 ^ (b - k.planes)
  let trunc := ys.map fun y => ({ y with q := y.q / low * low } : QE)
  let p := old + dotExact w xs trunc
  let pos := dotExact w (xs.map fun x => { x with q := max x.q 0 }) (ys.map fun y => { y with q := 1 })
  let d := low - 1
  let safeStop := k.t.isFinite && Val.le (.fin (p + d * pos) w) k.t
  let stop := if k.mode = 1 then safeStop
    else k.t.isFinite && Val.le (.fin (256 * p + k.rho * d * pos) (w - 8)) k.t
  let (v, sat) := addExact old (dotExact w xs ys)
  if stop then (0, true, !safeStop, false)
  else (if Val.lt k.t (.fin v w) then v else 0, false, false, sat)

/-- Add one token row to a set row. -/
def AccSet.addRow (a : AccSet) (k : SkimCtx) (b : Nat) (row : Nat) (xs : List QE) (cols : List (List QE))
    (n : RunCounts) : AccSet × RunCounts :=
  cols.zipIdx.foldl (fun (a, n) (ys, j) =>
    if a.f32 then (a.put row j (f32Bits (dotF32 (a.val row j) xs ys)), n)
    else if k.mode = 0 then
      let (v, sat) := addExact (a.elem row j) (dotExact a.weight xs ys)
      (a.put row j v, { n with accSat := n.accSat + sat.toNat })
    else
      let (v, stop, late, sat) := skimElem k b a.weight (a.elem row j) xs ys
      (a.put row j v,
       { accSat := n.accSat + sat.toNat
         safe := n.safe + (stop && k.mode = 1).toNat
         ptot := n.ptot + (stop && k.mode = 2).toNat
         pred := n.pred + (stop && k.mode = 2 && late).toNat })) (a, n)

/-- The columns of a block. -/
def Block.columns (b : Block) : List (List QE) :=
  (List.range (64 * b.tcols)).map fun j => b.rows.map fun r => r.getD j QE.none

/-- Token rows that a run streams: set row and the pairs of the row, rows of the last tile row outside the
valid extent left out (R138). -/
def runRows (e : Entry) (tiles : List (List QE)) : List (Nat × List QE) :=
  (List.range e.nr).flatMap fun r => (List.range (validRows e.tda (e.sr + r))).map fun i =>
    (64 * r + i, (List.range (64 * e.nc)).map fun j => pairAt tiles e.nc (64 * r + i) j)

/-- The block that the next run uses, once it is filled. -/
def Core.runBlock (x : Core) : Option Block :=
  match x.shadow with
  | some (b, true) => some b
  | some (_, false) => none
  | none => x.cells.getLast?.map (·.2)

/-- The ac at which every started MM.STORE of the set has read it: a row per ac, 24 ac before its end (R145, R146).
(log 24 DEDUCED) -/
def Core.storesRead (x : Core) (e : Entry) : Nat :=
  ((x.runningEntries .array).filter fun i => wOp i.word = 3 && i.setNo = e.setNo).foldl (fun n i => max n (i.due / 5 - 24)) 0

/-- Start an MM.RUN (R137, R138, R142, R145). Its additions are made on the set here, in stream order; it
retires when its last row is readable. Its block is in the cells, and a set that it clears open, from the ac in which it
begins to stream; a skimming run closes its set when it ends (R142, R153, R154). (log 24 DEDUCED) -/
def Dev.startRun (d : Dev) (k : Clock) (c : Fin 48) (e : Entry) : Started :=
  let x := d.cores[c]
  match x.runBlock with
  | none => .wait
  | some b =>
    if x.setBusy e [4] || x.storeAhead e true then .wait
    else
      let t := e.tda
      let ps := rect e.sr e.scol e.nr e.nc
      match (d.checkTiles c [(t, ps)] []).or (d.setPoison k c e e.acc) with
      | some r => r
      | none =>
        let f := Td.fmt t
        let bf := (Fmt.ofCode b.fmt).getD (.int 1)
        let xs := ps.map fun (r, q) => d.readTile c t r q
        let rows := runRows e (xs.map fun i => i.pairs f)
        let st := (e.sc (wbits e.word 41 37)).toNat
        let sk : SkimCtx := ⟨wbits e.word 47 46, wbits e.word 45 42, f32 st, bitRange st 39 32⟩
        let a := x.sets[e.setNo].begin e.acc b.tcols bf f (b.fmt, Td.format t)
        let (a, n) := rows.foldl (fun (a, n) (i, r) => a.addRow sk bf.qWidth i r b.columns n) (a, ⟨0, 0, 0, 0⟩)
        let stream := rows.length * bf.qWidth * f.slices
        let now := d.dieAc k (dieOf c)
        let c0 := max (max now x.streamEnd) (if e.acc then 0 else x.storesRead e)
        let due := c0 + stream + 1536
        let a := a.showFrom now c0 a.closed
        let a := if sk.mode = 0 then a else { a with closed := true }.showFrom now due true
        let cells := if x.shadow.isNone then x.cells else showing now x.cells ++ [(c0, b)]
        let d := d.countInputs c f xs
        let d := d.modCore c fun x =>
          { x with sets := x.sets.set e.setNo a, cells := cells, shadow := none, streamFrom := c0, streamEnd := c0 + stream }
        let d := d.arrayBusy c c0 due
        let d := (((d.count .coreArrStream stream c).count .coreArrSkimSafe n.safe c).count .coreArrSkimPtot n.ptot c).count
          .coreArrSkimPred n.pred c
        .go (d.count .coreFmtAccSat n.accSat c) (due * 5) true

/-! ### MM.STORE (R132, R145, R146) -/

/-- Write an accumulator set through a descriptor. -/
def Dev.storeSet (d : Dev) (c : Fin 48) (e : Entry) : Dev :=
  let a := d.cores[c].sets[e.setNo]
  let f := Td.fmt e.tdd
  let rc := d.rndCtx c 1 e
  let d' := (rect 0 0 e.nr e.nc).foldl (fun d (r, q) =>
    let vs := (List.range 4096).map fun i => a.val (64 * r + i / 64) (64 * q + i % 64)
    let nt := narrowTile f rc ((r * e.nc + q) * 4096) (inValid e.tdd (e.sr + r) (e.scol + q)) vs
    (d.writeTile c e.tdd f (e.sr + r) (e.scol + q) nt).countNarrow c nt) d
  d'.modCore c fun x => x.consume 1 e (4096 * e.nr * e.nc)

/-- The ac from which the store path can serve an MM.STORE: the additions of every earlier run of its set are made, and
the path has served the stores before it (R145, R146). (log 24 DEDUCED) -/
def Core.storeFrom (x : Core) (e : Entry) : Nat :=
  ((x.runningEntries .array).filter fun i => wOp i.word = 3 || (wOp i.word = 2 && i.setNo = e.setNo)).foldl
    (fun n i => max n (i.due / 5)) 0

/-- Start an MM.STORE: it leaves its queue and waits on the store path for the additions to its set, which are all
made in the model already. (log 24 DEDUCED) -/
def Dev.startStore (d : Dev) (k : Clock) (c : Fin 48) (e : Entry) : Started :=
  let x := d.cores[c]
  if x.setBusy e [4] then .wait
  else match (d.checkTiles c [] [(e.tdd, rect e.sr e.scol e.nr e.nc)]).or (d.setPoison k c e true) with
    | some r => r
    | none =>
      let from_ := max (d.dieAc k (dieOf c)) (x.storeFrom e)
      let fin := from_ + 64 * e.nr + 24
      .go ((d.storeSet c e).arrayBusy c from_ fin) (fin * 5) true

/-! ### MM.PAIR (R164 to R168) -/

/-- The stored positions of a BITMAP or DENSE-tagged tile inside the valid extent, as a 4,096-bit mask. -/
def Dev.storedMask (d : Dev) (c : Fin 48) (t : TileDesc) (r q : Nat) : Nat :=
  let side := match d.spaceAt c t (Td.side t) (sideOff t r q) (sideBytes t) with
    | none => []
    | some (l, a) => d.at_ l a (sideBytes t)
  let mta := side.drop (scaleBytes (Td.format t))
  let tag := field mta 0 1
  let all := (List.range 4096).filter fun i => inValid t r q i
  let st := if tag = 0 then all
    else if tag = 1 then ((bitmapStored mta).1.map (·.1)).filter fun i => inValid t r q i
    else []
  sumBy st fun i => 2 ^ i

/-- Number of set bits of a 64-bit group. -/
def popcount (n : Nat) : Nat := ((List.range 64).filter fun i => n.testBit i).length

/-- The triples of MM.PAIR that are not skipped, in order (R166). -/
def pairTriples (e : Entry) (masksA masksB : List Nat) (u : Nat) : List Triple :=
  (List.range e.nr).flatMap fun r => (List.range (validRows e.tda r)).flatMap fun i =>
    (List.range e.nc).flatMap fun c =>
      let ga := masksA.getD (r * e.nc + c) 0 / 2 ^ (64 * i) % 2 ^ 64
      if ga = 0 then []
      else (List.range u).filterMap fun t =>
        let gb := fun (w : Nat) => masksB.getD (t * e.nc + c) 0 / 2 ^ (64 * w) % 2 ^ 64
        if (List.range 64).all fun w => gb w = 0 then none
        else some ⟨64 * r + i, (List.range 64).filterMap fun w =>
          let m := ga &&& gb w
          if m = 0 then none else some (64 * t + w, popcount m)⟩

/-- The bank of a set element (R167). -/
def bankOf (row col : Nat) : Nat := (col + 8 * row) % 32

/-- Words start on free walkers in order: each holds its walker for ⌈p / 4⌉ ac from ac `t`. -/
def startWords (t : Nat) : List (Option (Nat × Nat)) → List (Nat × Nat) → List (Option (Nat × Nat)) × List (Nat × Nat)
  | [], ws => ([], ws)
  | some o :: r, ws => let (r', ws') := startWords t r ws; (some o :: r', ws')
  | none :: r, [] => (none :: r, [])
  | none :: r, (b, p) :: ws => let (r', ws') := startWords t r ws; (some (t + ceilDiv p 4 - 1, b) :: r', ws')

/-- One ac of the walk (R166, R167): the banks add one arrived sum each, free walkers take words, walkers
whose last ac this is queue their sums, and the AND stage releases a triple if every bank has room. Room is what the
queues had before the sums of this ac left them, and the entries of words on their way count as taken, also for
CORE_SPR_QMAX. (log 90 DESIGN CHOICE) -/
def Walk.step (w : Walk) (t : Nat) : Walk :=
  let adds := w.arrived.map fun n => min n 1
  let (walkers, waiting) := startWords t w.walkers w.waiting
  let done := walkers.filterMap fun | some (l, b) => if l = t then some b else none | none => none
  let walkers := walkers.map fun | some (l, b) => if l = t then none else some (l, b) | none => none
  let arrived := (w.arrived.zip adds).zipIdx.map fun ((n, a), b) => n - a + (done.filter (· == b)).length
  let freed := (w.reserved.zip adds).map fun (n, a) => n - a
  let lastAdd := if adds.all (· == 0) then w.lastAdd else t
  match w.triples with
  | [] => { w with waiting := waiting, walkers := walkers, arrived := arrived, reserved := freed, lastAdd := lastAdd }
  | tr :: rest =>
    let need := fun (b : Nat) => (tr.words.filter fun x => bankOf tr.row x.1 = b).length
    let room := (w.reserved.zipIdx).all fun (n, b) => need b = 0 || n + need b ≤ 8
    if room then
      let reserved := freed.zipIdx.map fun (n, b) => n + need b
      let top := maxBy reserved fun n => n
      { triples := rest, waiting := waiting ++ tr.words.map fun x => (bankOf tr.row x.1, x.2)
        walkers := walkers, arrived := arrived, reserved := reserved, stalls := w.stalls
        qmax := max w.qmax top
        qbank :=
          let b := (reserved.findIdx? (· == top)).getD 0
          if w.qmax < top then b else if w.qmax = top then min b w.qbank else w.qbank
        lastAdd := lastAdd }
    else
      { w with waiting := waiting, walkers := walkers, arrived := arrived, reserved := freed
               stalls := w.stalls + 1, lastAdd := lastAdd }

/-- The walk is over. -/
def Walk.over (w : Walk) : Bool :=
  w.triples.isEmpty && w.waiting.isEmpty && w.walkers.all Option.isNone && w.reserved.all (· == 0)

/-- Run the walk from ac `t`; the fuel bounds its ac (R168). -/
def Walk.run : Nat → Nat → Walk → Walk
  | 0, _, w => w
  | n + 1, t, w => if w.over then w else Walk.run n (t + 1) (w.step t)

/-- Run the walk from ac `t` until the AND stage has released its last triple: the ac after that, and the walk then. -/
def Walk.feed : Nat → Nat → Walk → Nat × Walk
  | 0, t, w => (t, w)
  | n + 1, t, w => if w.triples.isEmpty then (t, w) else Walk.feed n (t + 1) (w.step t)

/-- The course of one MM.PAIR on the unit: the ac of its first AND, its walk at the end with its counts, and the unit as it
then goes on. -/
structure PairCourse where
  first : Nat
  walk : Walk
  after : PairRun
  deriving DecidableEq, Repr

/-- An MM.PAIR follows another on the unit: its triples go to the AND stage as soon as that is free, while the words and
sums before them are still on their way (R166 to R168). It is over when the AND stage is done with it and no sum waits.
(log 24 DEDUCED) -/
def PairRun.follow (u : PairRun) (ac : Nat) (ts : List Triple) : PairCourse :=
  let t0 := max ac u.free
  let w := Walk.run (t0 - u.free) u.free u.walk
  let fuel := 128 + 40 * ts.length
  let (t1, w) := Walk.feed fuel t0 { w with triples := ts, stalls := 0, qmax := 0, qbank := 0, lastAdd := 0 }
  let z := Walk.run fuel t1 w
  ⟨t0, z, ⟨t1, w, if ts.isEmpty then u.fin else max t1 (z.lastAdd + 1)⟩⟩

/-- Ac in which an MM.PAIR is in progress that none before it has counted (R168). -/
def PairCourse.busy (p : PairCourse) (before : Nat) : Nat := p.after.fin - max p.first before

/-- Start an MM.PAIR (R145, R164 to R169). Its additions are made here; it retires when the last bank
addition is readable. The next may follow it while its words are still on their way. -/
def Dev.startPair (d : Dev) (k : Clock) (c : Fin 48) (e : Entry) : Started :=
  let x := d.cores[c]
  if x.setBusy e [2] || (!e.acc && x.setBusy e [3]) || x.storeAhead e true then .wait
  else
    let ta := e.tda
    let tb := e.tdb
    let u := Td.rows tb
    let pa := rect 0 0 e.nr e.nc
    let pb := rect 0 0 u e.nc
    match (d.checkTiles c [(ta, pa), (tb, pb)] []).or (d.setPoison k c e e.acc) with
    | some r => r
    | none =>
      let fa := Td.fmt ta
      let fb := Td.fmt tb
      let xa := pa.map fun (r, q) => d.readTile c ta r q
      let xb := pb.map fun (r, q) => d.readTile c tb r q
      let qa := xa.map fun i => i.pairs fa
      let qb := xb.map fun i => i.pairs fb
      let ts := pairTriples e (pa.map fun (r, q) => d.storedMask c ta r q) (pb.map fun (r, q) => d.storedMask c tb r q) u
      let a := x.sets[e.setNo].begin e.acc u fb fa (Td.format tb, Td.format ta)
      let (a, sat) := (List.range e.nr).foldl (fun acc r =>
        (List.range (validRows ta r)).foldl (fun acc i =>
          (List.range (64 * u)).foldl (fun (a, n) j =>
            let row := 64 * r + i
            let xs := (List.range (64 * e.nc)).map fun k => pairAt qa e.nc row k
            let ys := (List.range (64 * e.nc)).map fun k => pairAt qb e.nc j k
            let (v, s) := addExact (a.elem row j) (dotExact a.weight xs ys)
            (a.put row j v, n + s.toNat)) acc) acc) (a, 0)
      let p := x.pairing.follow (d.dieAc k (dieOf c)) ts
      let a := a.showFrom (d.dieAc k (dieOf c)) p.first a.closed
      let w := p.walk
      let busy := p.busy x.pairing.fin
      let d := (d.countInputs c fa xa).countInputs c fb xb
      let d := d.modCore c fun x => (({ x with sets := x.sets.set e.setNo a, pairing := p.after } : Core).addWork 4 busy)
      let d := (((d.count .coreSprPairBusy busy c).count .coreSprPairs (sumBy ts fun t => sumBy t.words (·.2)) c).count
        .coreSprStalls w.stalls c).count .coreFmtAccSat sat c
      let q := d.running .coreSprQmax c
      let d := if q < w.qmax then
          (d.setRunning .coreSprQmax w.qmax c).setRunning .coreSprQmaxBank w.qbank c
        else if q = w.qmax then
          d.setRunning .coreSprQmaxBank (min w.qbank (d.running .coreSprQmaxBank c)) c
        else d
      .go d ((if ts.isEmpty then p.first else p.after.fin) * 5) true

/-- Start an instruction of the array's queue. -/
def Dev.startArray (d : Dev) (k : Clock) (c : Fin 48) (e : Entry) : Started :=
  match wOp e.word with
  | 1 => d.startLoad k c e
  | 2 => d.startRun k c e
  | _ => d.startStore k c e

/-- The block that the next run uses, filled or not. -/
def Core.nextBlock (x : Core) : Option Block := (x.shadow.map (·.1)).or (x.cells.getLast?.map (·.2))

/-- The work that a predicated-off instruction of the array counts: that of an executed one, for MM.RUN on the block that it
would use, also while that is still being filled (R78, R147). (log 30 DEDUCED) -/
def Core.arrayOffWork (x : Core) (e : Entry) : Nat :=
  match wOp e.word with
  | 1 => 12 * (Td.fmt e.tda).qWidth
  | 2 =>
    let b := match x.nextBlock with | none => 0 | some b => ((Fmt.ofCode b.fmt).getD (.int 1)).qWidth
    sumBy (List.range e.nr) (fun r => validRows e.tda (e.sr + r)) * b * (Td.fmt e.tda).slices + 1536
  | _ => 64 * e.nr + 24

end Sys2Proof.Machine
end

