-- ==== Sys2Proof/Machine/Host.lean ====
section
/-! DEFINITION. The x16 endpoint, the SMBus target, the flash controller and the test access port (R450 to R468). -/

namespace Sys2Proof.Machine

open Sys2Proof

/-! ### SMBus (R459 to R461) -/

/-- The SMBus target answers: VIO and VIN_CORE are in range and the reference clock runs (R459). -/
def Dev.smbOn (d : Dev) : Bool := d.start.refclk && d.start.rails.getLsbD 0 && d.start.rails.getLsbD 4

/-- Answer bytes to the board management controller. -/
def Dev.smbAnswer (d : Dev) (bs : List Byte) : Dev := { d with out := { d.out with smb := d.out.smb ++ [bs] } }

/-- An SMBus transaction: one whose PEC fails is not acted on (R459). -/
def State.smb (s : State) (pecOk : Bool) (f : Dev → Dev) : Result :=
  s.board id fun _ d => if d.smbOn && pecOk then some (f d) else none

/-- SMB_START_WORD: accepted only while reset is held (Table HOST-3). -/
def execSmbStartWord (word : BitVec 32) (pecOk : Bool) (s : State) : Result :=
  s.smb pecOk fun d =>
    if d.start.resetHeld then d.modStart fun x => { x with word := some word } else d.smbEvent 7

/-- A bridge is down (R26). -/
def Dev.bridgeDown (d : Dev) : Bool := (List.range 38).any fun b => d.rd .hubBridgeDown 0 b = 1

/-- The SMBus commands that Table HOST-3 lists. -/
def smbCodes : List (BitVec 8) := [0x01, 0x02, 0x03, 0x04, 0x05, 0x06]

/-- SMB_STATUS, code 0x02: start state, failure cause, job state, last run fault, bridge down. A transaction of a code that
Table HOST-3 does not list is answered with a NACK, and the table's other commands have rows of their own (R460).
(log 92 DESIGN CHOICE) -/
def execSmbStatus (req : SmbTransaction) (s : State) : Result :=
  s.smb req.pecOk fun d =>
    if req.code ≠ 0x02 then (if smbCodes.contains req.code then d else d.smbAnswer [])
    else d.smbAnswer (([d.start.state.code, d.start.failCause, d.job.phase.code, d.rd .jobStateFault, d.bridgeDown.toNat, 0, 0, 0]).map
      (BitVec.ofNat 8))

/-- SMB_TEMPERATURE: the hottest junction. -/
def execSmbTemperature (pecOk : Bool) (s : State) : Result :=
  s.smb pecOk fun d => d.smbAnswer (leBytes 2 (untwos 16 d.junction))

/-- SMB_POWER: package power. -/
def execSmbPower (pecOk : Bool) (s : State) : Result :=
  s.smb pecOk fun d => d.smbAnswer (leBytes 2 d.pwr.watts)

/-- SMB_EVENTS: the events, cleared by the read. -/
def execSmbEvents (pecOk : Bool) (s : State) : Result :=
  s.smb pecOk fun d => (d.smbAnswer (leBytes 4 d.host.events.toNat)).modIf fun h => { h with events := 0 }

/-- HUB_INVENTORY (Table PKG-7). -/
def Order.inventory (o : Order) : Nat := o.code + o.hbmStacks * 2 ^ 8 + o.fabricDies * 2 ^ 16

/-- SMB_INVENTORY: HUB_INVENTORY, the certificate serial, SEC_FW_SVN. -/
def execSmbInventory (pecOk : Bool) (s : State) : Result :=
  s.smb pecOk fun d => d.smbAnswer (leBytes 4 d.order.inventory ++ d.serial ++ leBytes 4 d.sec.fwSvn)

/-- SMBALERT# is asserted while any event bit is set (R461). -/
def Dev.smbAlert (d : Dev) : Bool := d.host.events ≠ 0

/-- The target's 7-bit address (R459). (log 68 DEDUCED) -/
def smbAddress : Nat := 0x58 + Config.straps % 4

/-- SMB_ALERT_RESPONSE: while it asserts SMBALERT#, the device answers with its address (R461). (log 68 DEDUCED) -/
def execSmbAlertResponse (pecOk : Bool) (s : State) : Result :=
  s.smb pecOk fun d => if d.smbAlert then d.smbAnswer (leBytes 1 (2 * smbAddress)) else d

/-! ### The test access port (R465) -/

/-- Shift out a captured register. -/
def Dev.tapOut (d : Dev) (bits : List Bool) : Dev := { d with out := { d.out with tdo := d.out.tdo ++ [bits] } }

/-- The identification code (Table HOST-5). -/
def idCode : BitVec 32 := 0x1002A9CB

/-- The low-speed lands, as the boundary register samples them: SMB_SCL, SMB_SDA, SMBALERT_N, SPI_CLK, SPI_CS_N, SPI_IO0
to SPI_IO3, STRAP0, STRAP1, RESET_N, PERST_N, PWRGOOD, THERM_ALERT_N; the levels of those that the board drives are free.
(log 69 DESIGN CHOICE) -/
def Dev.lands (d : Dev) : List Bool :=
  let free := fun (i : Nat) => Config.freeValue (d.free + i) % 2 = 1
  [free 0, free 1, !d.smbAlert, free 2, free 3, free 4, free 5, free 6, free 7, bitAt Config.straps 0,
    bitAt Config.straps 1, !d.start.resetHeld, !d.host.perst, d.start.powerGood, !d.thermAlert]

/-- The lands are captured and shifted out, while the boundary register takes what is shifted in. -/
def Dev.scanLands (d : Dev) (shift : BitVec 15) : Dev :=
  { (d.tapOut d.lands).modIf fun h => { h with boundary := shift } with free := d.free + 8 }

/-- Load an instruction code: what acts, and whether the pins are driven from the boundary register, float, or work as
lands. -/
def Dev.selectTap (d : Dev) (code : BitVec 8) (t : Tap) (driven high : Bool) : Dev :=
  d.modIf fun h => { h with ir := code, tap := t, pinsDriven := driven, pinsHigh := high }

/-- A code that acts as BYPASS: one bit between TDI and TDO. -/
def Dev.tapBypass (d : Dev) (code : BitVec 8) : Dev := (d.selectTap code .bypass false false).tapOut [false]

/-- BYPASS: its own code, and every code that Table HOST-5 gives to no other instruction (R465). -/
def execBypass (s : State) (code : BitVec 8 := 0xFF) : Result :=
  s.board id fun _ d => if Tap.ofCode code = .bypass then some (d.tapBypass code) else none

/-- IDCODE: the identification code is shifted out. -/
def execIdcode (s : State) : Result :=
  s.board id fun _ d => some ((d.selectTap 0x01 .idcode false false).tapOut ((List.range 32).map idCode.getLsbD))

/-- SAMPLE_PRELOAD: in every state the lands are sampled and the boundary register is loaded.
(log 69 DESIGN CHOICE) -/
def execSamplePreload (preload : BitVec 15) (s : State) : Result :=
  s.board id fun _ d => some ((d.selectTap 0x02 .samplePreload false false).scanLands preload)

/-- EXTEST: while reset is held the boundary register, which takes what is shifted in, drives the lands; otherwise BYPASS.
(log 69 DESIGN CHOICE) -/
def execExtest (s : State) (shift : BitVec 15 := 0) : Result :=
  s.board id fun _ d =>
    some (if d.start.resetHeld then (d.selectTap 0x00 .extest true false).scanLands shift else d.tapBypass 0x00)

/-- CLAMP: while reset is held the lands hold the boundary register's values; otherwise BYPASS.
(log 69 DESIGN CHOICE) -/
def execClamp (s : State) : Result :=
  s.board id fun _ d =>
    some (if d.start.resetHeld then (d.selectTap 0x03 .clamp true false).tapOut [false] else d.tapBypass 0x03)

/-- HIGHZ: while reset is held the lands float; otherwise BYPASS. (log 69 DESIGN CHOICE) -/
def execHighz (s : State) : Result :=
  s.board id fun _ d =>
    some (if d.start.resetHeld then (d.selectTap 0x04 .highz false true).tapOut [false] else d.tapBypass 0x04)

/-- TEST_LOGIC_RESET: IDCODE becomes the selected instruction, and the lands work as lands. -/
def execTestLogicReset (s : State) : Result := s.board id fun _ d => some (d.selectTap 0x01 .idcode false false)

/-! ### The flash controller (R464) -/

/-- The states in which flash commands are accepted. -/
def StartState.takesFlash (s : StartState) : Bool :=
  match s with | .ready => true | .unowned => true | .failed => true | _ => false

/-- Set HOSTIF_FLASH_RESULT. -/
def Dev.flashResult (d : Dev) (n : Nat) : Dev := d.modIf fun h => { h with flashResult := n }

/-- The staged bytes. -/
def Dev.staged (d : Dev) : List Byte := (List.range 64).flatMap fun i => leBytes 4 (d.rd .hostifFlashData 0 i)

/-- The effect of a completed pair of HOSTIF_FLASH_CMD. A command that arrives while another runs is ignored and gives
no result; a refused one gives its result at once (R464). The second part tells whether it was not ignored.
(log 61 PRESUMED) -/
def Dev.flashCommand (d : Dev) (v : Nat) : Dev × Bool :=
  let op := v % 4
  let a := d.rd .hostifFlashAddr
  let n := if op = 1 then flashBlock else 256
  if op = 0 || d.host.flash.isSome then (d, false)
  else if !d.start.state.takesFlash then (d.flashResult 2, true)
  else if op ≠ 3 && a < 0x20000 then (d.flashResult 1, true)
  else if op ≠ 3 && a % n ≠ 0 then (d.flashResult 3, true)
  else (d.modIf fun h => { h with flash := some ⟨op, a, if op = 2 then d.staged else []⟩ }, true)

/-- Programming a NOR flash clears bits. (log 61 PRESUMED) -/
def andBytes (a b : List Byte) : List Byte := List.zipWith (· &&& ·) a b

/-- FLASH_COMMAND_DONE: the command ends by the count `at_`. A program reads its bytes back; `ok` tells that the flash
itself did not fail it (R464). (log 61 PRESUMED) -/
def execFlashCommandDone (at_ : Nat) (ok : Bool) (s : State) : Result :=
  s.act (fun k => if s.dev.host.flash.isSome then k.toCount at_ else k) fun _ d =>
    match d.host.flash with
    | none => none
    | some c =>
      let d := d.modIf fun h => { h with flash := none }
      some (match c.op with
        | 1 => (d.flashErase c.addr).flashResult 0
        | 2 =>
          let was := d.flashRead c.addr 256
          let (bs, d) := if ok then (andBytes was c.data, d) else d.freeBytes 256
          (d.flashWrite c.addr bs).flashResult (if bs == c.data && ok then 0 else 4)
        | _ =>
          let bs := d.flashRead c.addr 256
          ((List.range 64).foldl (fun d i => (d.wr .hostifFlashData (field bs (4 * i) 4) 0 i).noteUpdate .hostifFlashData 0 i)
            d).flashResult 0)

/-! ### The endpoint (R450 to R456) -/

/-- The endpoint is out of reset and trains: PERST# is deasserted and IDENTITY has been entered, which a start that fails
in SUPPLY never does (R455). -/
def Dev.endpointOn (d : Dev) : Bool :=
  !d.host.perst && match d.start.state with | .off => false | .supply => false | _ => d.start.done.contains 1

/-- ENDPOINT_RESET: Function Level Reset, Hot Reset, link down or PERST# resets the endpoint and nothing else: its
configuration space, the error log and status in it included, and its outstanding host requests (R454).
(log 67 DEDUCED) -/
def execEndpointReset (kind : EndReset) (s : State) : Result :=
  s.board id fun k d =>
    let d := d.modIf fun h => { h with
      cfg := [], barBits := 36, bme := false, readLog := 2, payLog := 0, reads := [], aerEnd := 0, aerStatus := 0, msix := [], msixEnable := false, msixMask := false, pendingVec := [] }
    let down := fun (d : Dev) => d.modIf fun h => { h with linkUp := false, speed := 0, width := 0, flit := false }
    let d := d.hostLost k
    some (match kind with
      | .functionLevel => d
      | .hot => down d
      | .linkDown => down d
      | .perst => (down d).modIf fun h => { h with perst := true, cfgFrom := none })

/-- PERST_DEASSERT: the endpoint leaves reset (R455). -/
def execPerstDeassert (s : State) : Result :=
  s.board id fun k d =>
    let d := d.modIf fun h => { h with perst := false }
    some (if d.endpointOn then d.endpointWaits k else d)

/-- The link has trained once a request arrives over it; rate, width and mode are free values within Table HOST-1.
(log 67 PRESUMED) -/
def Dev.linkTrained (d : Dev) : Dev :=
  if d.host.linkUp then d
  else
    let (a, d) := d.draw
    let (b, d) := d.draw
    let (c, d) := d.draw
    d.modIf fun h => { h with linkUp := true, speed := 1 + a % 6, width := 2 ^ (b % 5), flit := a % 6 = 5 || c % 2 = 1 }

/-- A written configuration register. -/
def Dev.cfgWritten (d : Dev) (r : Nat) : Nat := Sparse.get d.host.cfg 0 r

/-- A capability's first dword: its identifier, and what follows it (extended capabilities have 16 bits of identifier).
(log 67 PRESUMED) -/
def capHead (r id bits : Nat) : Nat := id + Config.configRead r 0 % 2 ^ 32 / 2 ^ bits * 2 ^ bits

/-- The dwords of the capabilities of Table HOST-1 that the table gives content: PCI Express with its payload, read request,
rate and width limits, tags of 8, 10 and (Device 3) 14 bits, role-based error reporting and Function Level Reset, MSI-X,
Resizable BAR, Device Serial Number and Advanced Error Reporting.
(log 67 PRESUMED) -/
def Dev.capWords (d : Dev) : List (Nat × Nat) :=
  let h := d.host
  let e := Config.capExpress
  let m := Config.capMsix
  let b := Config.capRebar
  let n := Config.capSerial
  let a := Config.capAer
  let v := Config.capDevice3
  let w := d.cfgWritten (e + 2)
  let low := slice d.serial 0 8
  [(e, capHead e 0x10 8), (e + 1, 0x2 + 2 ^ 5 + 2 ^ 15 + 2 ^ 28),
    (e + 2, w % 2 ^ 5 + h.payLog % 8 * 2 ^ 5 + w / 2 ^ 8 % 2 ^ 4 * 2 ^ 8 + h.readLog % 8 * 2 ^ 12),
    (e + 3, 6 + 16 * 2 ^ 4 + 2 ^ 22),
    (e + 4, d.cfgWritten (e + 4) % 2 ^ 16 + h.speed % 16 * 2 ^ 16 + h.width % 64 * 2 ^ 20),
    (e + 9, Config.configRead (e + 9) 0 % 2 ^ 16 + 3 * 2 ^ 16 + Config.configRead (e + 9) 0 / 2 ^ 18 % 2 ^ 14 * 2 ^ 18),
    (e + 11, 0x7E + Config.configRead (e + 11) 0 / 2 ^ 8 % 2 ^ 24 * 2 ^ 8),
    (v, capHead v 0x2F 16), (v + 1, Config.configRead (v + 1) 0 % 2 + 3 * 2 + Config.configRead (v + 1) 0 / 2 ^ 3 % 2 ^ 29 * 2 ^ 3),
    (m, capHead m 0x11 8 % 2 ^ 16 + 2047 * 2 ^ 16 + h.msixMask.toNat * 2 ^ 30 + h.msixEnable.toNat * 2 ^ 31),
    (m + 1, 4), (m + 2, 0x8000 + 4),
    (b, capHead b 0x15 16), (b + 1, 0x1FF00000), (b + 2, 2 + 2 ^ 5 + (h.barBits - 20) * 2 ^ 8),
    (n, capHead n 0x3 16), (n + 1, field low 0 4), (n + 2, field low 4 4),
    (a, capHead a 0x1 16), (a + 1, h.aerStatus), (a + 6, h.aerEnd / 2 ^ 128 % 32)] ++
    (List.range 4).map fun i => (a + 7 + i, h.aerEnd / 2 ^ (32 * i) % 2 ^ 32)

/-- A configuration register by dword offset: the header of R451 and R452, with one function, no expansion ROM and no
interrupt pin (Table HOST-1), the capabilities of Table HOST-1, and the
endpoint's own content elsewhere. (log 67 PRESUMED) -/
def Dev.cfgRead (d : Dev) (r : Nat) : Nat :=
  let w := d.cfgWritten r
  if r = 0 then 0x4E2A1F4C
  else if r = 1 then w % 2 ^ 16 + 0x10 * 2 ^ 16 + Config.configRead 1 w / 2 ^ 24 % 2 ^ 8 * 2 ^ 24
  else if r = 2 then 0x12000000 + Config.revision % 256
  else if r = 3 || r = 15 then w % 2 ^ 8
  else if r = 10 || r = 12 || r = 14 then 0
  else if r = 13 then Config.configRead 13 0 % 2 ^ 8
  else if r = 4 then w / 2 ^ 28 * 2 ^ 28 + 0x4
  else if r = 5 then w
  else if r = 6 then 0xC
  else if r = 7 then w / 2 ^ (d.host.barBits - 32) * 2 ^ (d.host.barBits - 32)
  else if r = 8 then w / 2 ^ 16 * 2 ^ 16 + 0x4
  else if r = 9 then w
  else if r = 11 then 0x1F4C + d.order.code * 2 ^ 16
  else match d.capWords.find? fun x => x.1 = r with
    | some x => x.2
    | none => Config.configRead r w % 2 ^ 32

/-- Write a configuration register: Bus Master Enable is bit 2 of the command register, the device control register holds
the Max Payload Size and the Max Read Request Size, the AER capability the error status that a written 1 clears, the MSI-X message control its enable and mask bits, and the Resizable BAR control register
takes the size of BAR2 as a power of two from 1 MiB on. (log 67 PRESUMED) -/
def Dev.cfgWrite (d : Dev) (r v : Nat) : Dev :=
  let n := bitRange v 13 8 + 20
  let d := d.modIf fun h => { h with
    cfg := Sparse.set h.cfg 0 r v
    bme := if r = 1 then bitAt v 2 else h.bme
    readLog := if r = Config.capExpress + 2 then min 5 (bitRange v 14 12) else h.readLog
    payLog := if r = Config.capExpress + 2 then min 2 (bitRange v 7 5) else h.payLog
    aerStatus := if r = Config.capAer + 1 then h.aerStatus - (h.aerStatus &&& v) else h.aerStatus
    msixEnable := if r = Config.capMsix then bitAt v 31 else h.msixEnable
    msixMask := if r = Config.capMsix then bitAt v 30 else h.msixMask
    barBits := if r = Config.capRebar + 2 && 36 ≤ n && n ≤ 44 then n else h.barBits }
  d.sendPending

/-- Answer a configuration request. -/
def Dev.cfgAnswer (d : Dev) (v : Option Nat) : Dev := { d with out := { d.out with config := d.out.config ++ [v] } }

/-- CONFIG_REQUEST: Request Retry Status until 100 ms after PERST#'s deassertion and the entry to IDENTITY; from then
on requests complete (R455). -/
def execConfigRequest (write : Bool) (reg : BitVec 12) (value : BitVec 32) (s : State) : Result :=
  s.now fun k d =>
    if !d.endpointOn then none
    else
      let d := d.linkTrained
      let ready := match d.host.cfgFrom with | some u => u ≤ k.units | none => false
      let r := reg.toNat / 4
      some (if !ready then d.cfgAnswer none
        else if write then
          let d := d.cfgWrite r value.toNat
          (if d.host.bme then d else d.hostLost k).cfgAnswer (some 0)
        else d.cfgAnswer (some (d.cfgRead r)))

/-- The device HBM offset behind an offset of BAR2 (R453). -/
def Dev.windowOffset (d : Dev) (b : Nat) : Nat :=
  d.rd .hostifHbmwinBase * 2 ^ 36 / 2 ^ d.host.barBits * 2 ^ d.host.barBits + b

/-- Bytes of device HBM that a write from outside is about to change are noted while LOADING reads (R489).
(log 53 DEDUCED) -/
def Dev.noteLoading (d : Dev) (rs : List (Nat × Nat)) : Dev :=
  if d.job.phase = .loading then
    d.modJob fun j => { j with
      loadLog := j.loadLog ++ (rs.flatMap fun r => (List.range r.2).map fun i => (r.1 + i, d.mem.hbm.read (r.1 + i))) }
  else d

/-- HBM_WINDOW_ACCESS: a read or write through BAR2. Outside memory it reads zeros or is discarded, and is counted
(R453). (log 68 DEDUCED) -/
def execHbmWindowAccess (write : Bool) (offset : BitVec 44) (len : BitVec 13) (bytes : List Byte) (s : State) : Result :=
  s.now fun k d =>
    let ready := match d.host.cfgFrom with | some u => u ≤ k.units | none => false
    if !d.endpointOn || !ready || 2 ^ d.host.barBits ≤ offset.toNat then none
    else
      let d := d.linkTrained
      let n := if write then bytes.length else len.toNat
      let a := d.windowOffset offset.toNat
      some (match d.hbmRuns a n with
        | none =>
          let d := d.count .hostifWinOutside
          if write then d else { d with out := { d.out with reads := d.out.reads ++ [0] } }
        | some rs =>
          if write then (d.noteLoading rs).hbmWriteRuns rs bytes []
          else { d with out := { d.out with reads := d.out.reads ++ [leNat (d.hbmRead a n)] } })

/-- A dword of BAR4 (Table HOST-2): the MSI-X table, or the pending bit array. -/
def Dev.msixRead (d : Dev) (at_ : MsixAt) : Nat :=
  match at_ with
  | .table v w => d.host.msixWord (4 * v.toNat + w.toNat)
  | .pending i => sumBy (List.range 32) fun j => (d.host.pendingVec.contains (32 * i.toNat + j)).toNat * 2 ^ j

/-- Write a dword of the MSI-X table. The pending bit array cannot be written. -/
def Dev.msixWrite (d : Dev) (at_ : MsixAt) (v : Nat) : Dev :=
  match at_ with
  | .table i w =>
    let n := 4 * i.toNat + w.toNat
    d.modIf fun h => { h with msix := Sparse.set h.msix (if n % 4 = 3 then 1 else 0) n v }
  | .pending _ => d

/-- MSIX_UNMASK: the host reads or writes a dword of BAR4. A write that unmasks a vector sends its pending message (R457), or
drops it without Bus Master Enable (R454). (log 92 DESIGN CHOICE) -/
def execMsixUnmask (access : MsixAccess) (s : State) : Result :=
  s.now fun _ d => some (match access.value with
    | some v => (d.msixWrite access.dword v.toNat).sendPending
    | none => { d with out := { d.out with reads := d.out.reads ++ [d.msixRead access.dword] } })

/-- The kinds of the images in the making that read pages of an object in host memory: 1 Cellar, 2 Whey. -/
def Dev.imageReads? (d : Dev) (i : Nat) (o : TierObj) : List Nat :=
  if (d.hostPages o o.home).isEmpty then []
  else (d.snap.making.filter fun x => x.2.objs.any fun y => y.1 = i).map (·.1)

/-- Images that have lost a read of theirs are given up: the Cellar copy fails, and no Whey image is sent. -/
def Dev.dropImages (d : Dev) (i : Nat) (kinds : List Nat) : Dev :=
  let d := if kinds.contains 1 then d.snapFailed 0xFFFF else d
  d.modSnap fun s => { s with mirrors := s.mirrors.filter fun m => !m.parts.objs.any fun y => y.1 = i }

/-- A read of host memory covers an address. -/
def readCovers (a : Nat) (x : Nat × Nat × Nat × Nat) : Bool := x.2.2.1 ≤ a && a < x.2.2.1 + x.2.2.2

/-- A read of host memory that covers an address is no longer outstanding. -/
def Dev.readEnded (d : Dev) (a : Nat) : Dev :=
  match d.host.reads.find? (readCovers a) with
  | some x => d.modIf fun h => { h with reads := h.reads.erase x }
  | none => d

/-- COMPLETION_TIMEOUT: a device read of host memory times out, fails or brings poisoned data, also one that a move or an
image given up has left outstanding, which is counted only (R467). A move of the object it
belongs to, or an image that reads it, raises GMEM_TARGET_LOST where the read timed out or failed; a read of a restore
fails the restore (R276, R396, R454). (log 67 PRESUMED) -/
def execCompletionTimeout (how : ReadEnd) (addr : BitVec 64) (obj : Option (BitVec 20)) (s : State) : Result :=
  s.now fun k d =>
    let noted := fun (d : Dev) =>
      let d := d.readEnded addr.toNat
      match how with
      | .poisoned => (d.count .hostifCplError).aerError false 12
      | .timeout => ((d.count .hostifCplTimeout).modIf fun h => { h with failedRead := addr.toNat }).aerError false 14
      | .failed => (d.count .hostifCplError).modIf fun h => { h with failedRead := addr.toNat }
    match obj with
    | none => if d.snap.restoring then some ((noted d).modSnap fun s => { s with readFailed := true }) else none
    | some o =>
      let i := o.toNat
      let late := if d.host.reads.any fun x => x.2.1 = i && readCovers addr.toNat x then some (noted d) else none
      match d.tier.objs[i]? with
      | none => late
      | some t =>
        let images := d.imageReads? i t
        if t.move.isNone && images.isEmpty then late
        else if how = .poisoned then some (noted d)
        else some ((((noted d).modObj i fun t => { t with move := none }).dropImages i images).hostHomeLost k)

/-! ### Bridges (R25, R26, R30) -/

/-- A bridge is marked down, in both its directions: every job ends, none is accepted any more, and it is reported to the
board management controller and the fabric manager (R26, R386). (log 70 DEDUCED) -/
def Dev.bridgeFails (d : Dev) (k : Clock) (dir : Nat) : Dev :=
  if d.rd .hubBridgeDown 0 dir = 1 then d
  else
    let b := dir / 2
    let d := ((d.flag .hubBridgeDown 0 (2 * b)).flag .hubBridgeDown 0 (2 * b + 1)).smbEvent 1
    let d := if d.job.phase.abortable && !d.job.abort then d.startAbort k
      else if d.job.phase = .loading then d.dropObject else d
    d.report 1 (d.faultReport k 0 0xF 0xFFF 0)

/-- BRIDGE_FLIT_REPLAY: a flit fails its CRC and is replayed (R25). `again`: the flit that failed was itself a
replay; when the sixteenth replay in succession fails, the bridge is down. `overshare`: the replay takes job share,
which each window of 1,000 counts counts once, also one that reaches over a frame's close and the next open, in the frame
whose replay comes first. Replays outside a frame belong to no closed frame (R30, Table PKG-9). (log 70 DESIGN CHOICE) -/
def execBridgeFlitReplay (dir : Fin 38) (overshare again : Bool) (s : State) : Result :=
  s.now fun k d =>
    let run := if again then Sparse.get d.ctl.replayRun 0 dir else 0
    if 16 ≤ run then some (d.bridgeFails k dir)
    else
      let d := { d with ctl := { d.ctl with replayRun := Sparse.set d.ctl.replayRun 0 dir (run + 1) } }
      let inFrame := d.runs && d.frame.opened && !d.frame.closed
      let d := if inFrame then d.count .hubBridgeReplays 1 0 dir else d
      let w := k.count / 1000 + 1
      some (if inFrame && overshare && Sparse.get d.ctl.overWindow 0 dir ≠ w then
          { d.count .hubBridgeOvershare 1 0 dir with
            ctl := { d.ctl with overWindow := Sparse.set d.ctl.overWindow 0 dir w } }
        else d)

end Sys2Proof.Machine
end

