-- ==== Sys2Proof/Machine/Lockstep.lean ====
section
/-! DEFINITION. The engines that act on their own go on when the twin confirms what held them (R380). -/

namespace Sys2Proof.Machine

open Sys2Proof

/-- The TIER engine and the herd builder go on where a hold has ended; the other engines are asked again by their
commands (R380). -/
def Dev.lsResume (d : Dev) (k : Clock) : Dev :=
  let d := if d.tier.queue.isEmpty then d else d.runTier k
  match d.herdPart, d.herd.opening with
  | some p, some o => if o.todo.isEmpty then d.herdAdvance k p 1 else d
  | some p, none => if d.herd.waits then d.herdBegin k p else if d.herd.drains then d.herdDrain k else d
  | _, _ => d

/-- LOCKSTEP_CHUNK_HASH: the twin's chunk hashes are compared with the local ones, and an engine that was held goes on
(R380). -/
def execLockstepChunkHash (p : Packet) (s : State) : Result :=
  s.now fun k d =>
    if d.lsMessage p 0x7E 0 && d.lockstep then
      let b := p.payload
      let d := d.takeTwin k p
      some (((List.range (min 3 (field b 10 1))).foldl (fun d i =>
        d.takeHash k (field b 0 8) (field b (8 + 16 * i) 2) (field b (12 + 16 * i) 4) (field b (16 + 16 * i) 8)) d).lsResume k)
    else d.twinDrop k p

end Sys2Proof.Machine
end

