-- ==== Sys2Proof/Machine/RegRead.lean ====
section
/-! DEFINITION. Reading control space: pages, registers and the fields derived from the rest of the state
(R413 to R417, R422, and the register tables of the chapters). -/

namespace Sys2Proof.Machine

open Sys2Proof

/-! ### Pages (R414, Table REG-1) -/

/-- A block page: its block, the instance whose registers it holds, and its number among the pages. -/
structure Page where
  blk : Blk
  inst : Nat
  idx : Nat
  deriving DecidableEq, Repr

/-- The page at offset `page` × 64 KiB, none where it is reserved or its fabric die is absent. -/
def Dev.page (d : Dev) (page : Nat) : Option Page :=
  if page = 0 then some ⟨.hub, 0, 0⟩
  else if page = 0x10 then some ⟨.tick, 0, 1⟩
  else if page = 0x20 then some ⟨.job, 0, 2⟩
  else if 0x40 ≤ page && page < 0x70 then some ⟨.core, page - 0x40, 3 + (page - 0x40)⟩
  else if 0x80 ≤ page && page < 0x8C then some ⟨.sep, page - 0x80, 51 + (page - 0x80)⟩
  else if page = 0xA0 then some ⟨.pail, 0, 63⟩
  else if page = 0xB0 then some ⟨.tier, 0, 64⟩
  else if page = 0xC0 then some ⟨.gmem, 0, 65⟩
  else if 0x100 ≤ page && page % 16 = 0 && page / 16 - 16 < d.order.fabricDies then
    some ⟨.fab, page / 16 - 16, 66 + (page / 16 - 16)⟩
  else if page = 0x200 then some ⟨.coll, 0, 76⟩
  else if page = 0x210 then some ⟨.twin, 0, 77⟩
  else if page = 0x220 then some ⟨.snap, 0, 78⟩
  else if page = 0x230 then some ⟨.sec, 0, 79⟩
  else if page = 0x240 then some ⟨.hostif, 0, 80⟩
  else if page = 0x250 then some ⟨.pwr, 0, 81⟩
  else none

/-- Type code of a block (Table REG-1). -/
def Blk.code : Blk → Nat
  | .hub => 0x01 | .tick => 0x02 | .job => 0x03 | .core => 0x04 | .sep => 0x05 | .pail => 0x06 | .tier => 0x07
  | .gmem => 0x08 | .fab => 0x09 | .coll => 0x0A | .twin => 0x0B | .snap => 0x0C | .sec => 0x0D | .hostif => 0x0E
  | .pwr => 0x0F | .common => 0

/-- The pages that a start state lets a master reach: in IDENTITY the host alone, over the endpoint (Table BOOT-3). -/
def StartState.reaches (s : StartState) (b : Blk) (m : Master) : Bool :=
  match s with
  | .off => false
  | .supply => false
  | .identity => m = .host && (b = .hub || b = .sec)
  | .baseAuth => b = .hub || b = .sec
  | .failed => b = .hub || b = .sec || b = .hostif
  | _ => true

/-- A page that a master can reach in the present start state. -/
def Dev.openPage (d : Dev) (page : Nat) (m : Master := .host) : Option Page :=
  (d.page page).filter fun p => d.start.state.reaches p.blk m

/-! ### Fields of a register -/

/-- The fields of the register at an offset of a page, each with its index among the registers of its name. -/
def Page.fields (p : Page) (reg : Nat) : List (Fld × Nat) :=
  (if 0x1F00 ≤ reg then fldsCommon else p.blk.flds).filterMap fun f =>
    let r := f.row
    ((List.range r.count).find? fun i => r.off + r.stride * i = reg).map fun i => (f, i)

/-- The instance under which a field of a page is stored: common registers by page, FAB_CFG_MGMT_EPOCH once.
(log 17 DEDUCED) -/
def Page.instOf (p : Page) (f : Fld) : Nat :=
  if f.row.blk = .common then p.idx else if f = .fabCfgMgmtEpoch then 0 else p.inst

/-- Fields that only the page of FAB0 holds (R342). -/
def fab0Flds : List Fld :=
  [.fabRtCmd, .fabRtAtLo, .fabRtAtHi, .fabMidSel, .fabMidData, .fabMidCount, .fabCfgMseedLo, .fabCfgMseedHi]

/-- The page holds the field. (log 17 DEDUCED) -/
def Page.holds (p : Page) (f : Fld) : Bool := p.inst = 0 || !fab0Flds.contains f

/-! ### Votes (R422) -/

/-- The value that at least two copies hold. -/
def V3.vote (v : V3) : Option Nat := if v.a = v.b || v.a = v.c then some v.a else if v.b = v.c then some v.b else none

/-- What the three copies of a field without a majority are rewritten to (R423). -/
structure VoteField where
  fld : Fld
  copies : V3
  truth : Nat
  deriving DecidableEq, Repr

/-- A job is admitted: from ADMITTED until it is TORN. -/
def JobPhase.isAdmitted : JobPhase → Bool
  | .idle | .loading | .torn => false
  | _ => true

/-- The voted fields. (log 20 DEDUCED) -/
def Dev.voteFields (d : Dev) : List VoteField :=
  let form := match if d.job.phase.isAdmitted then d.image else none with
    | some m => (m.form.period, m.form.guardBand)
    | none => (0, 0)
  [⟨.tickPeriodCounts, d.ctl.period, form.1⟩, ⟨.tickGuardCounts, d.ctl.guardBand, form.2⟩,
   ⟨.jobStateCode, d.ctl.jobState, d.job.phase.code⟩]

/-- What a read of a voted field returns. -/
def VoteField.value (v : VoteField) : Nat := v.copies.vote.getD v.truth

/-- The voted field of a name. -/
def Dev.voteOf (d : Dev) (f : Fld) : Option VoteField := d.voteFields.find? fun v => v.fld = f

/-! ### Fields derived from the state -/

/-- Fields of TICK and JOB. -/
def Dev.liveJob (d : Dev) (f : Fld) : Option Nat :=
  match f with
  | .tickSyncState => some d.syncState.code
  | .tickSyncOnBackup => some d.sync.onBackup.toNat
  | .tickSlotsCount => some (match d.image with | some m => m.form.slots | none => 0)
  | .tickSlotsCurrent => some d.frame.slot
  | .jobCapPlacever => some d.sec.placeVer
  | .jobStopFrameLo => some (d.job.stop % 2 ^ 32)
  | .jobStopFrameHi => some (d.job.stop / 2 ^ 32)
  | .jobStateLending => some (d.tier.lend != .off).toNat
  | .jobHerdUsed => some (match d.herdPart with | some p => (d.usedSlots p).length | none => 0)
  | .jobHerdPresent => some d.herdPart.isSome.toNat
  | .jobHerdInCons => some d.herd.inCons
  | .jobHerdOutProd => some d.herd.outProd
  | _ => none

/-- A core's sequencer holds an instruction back: a hold, or, before its TICK.END, a scalar in use or a full queue at its
next instruction (R53, R90, R114). -/
def Dev.coreHeld (d : Dev) (c : Fin 48) : Bool :=
  let x := d.cores[c]
  x.hold != .none || (!x.ended && match (d.template c)[x.pc]? with
    | some w => x.scalarHeld w || !x.queueRoom d.order.fabricDies w
    | none => false)

/-- Units of a core's statistics regions that are live in the running frame slot (R217). -/
def Dev.liveUnits (d : Dev) (c : Nat) : Nat :=
  match d.image with
  | none => 0
  | some m => sumBy (m.form.stats.filter fun r => r.core = c && r.live d.frame.slot) (·.units)

/-- Fields of a CORE page. -/
def Dev.liveCore (d : Dev) (k : Clock) (c : Fin 48) (f : Fld) : Option Nat :=
  let x := d.cores[c]
  let mode := match d.image with | some m => m.form.mode | none => 0
  let now := d.dieAc k (dieOf c)
  let block := shownAt now x.cells
  let bits := fun (g : Bool × Bool → Bool) => sumBy (List.finRange 4) fun (i : Fin 4) =>
    ((shownAt now x.sets[i].shows).any g).toNat * 2 ^ i.val
  match f with
  | .coreSeqPc => some x.pc
  | .coreSeqEnded => some x.ended.toNat
  | .coreSeqHeld => some (d.coreHeld c).toNat
  | .coreSeqDepth => some x.loops.length
  | .coreFmtSetF32 => some (bits (·.1))
  | .coreArrSetClosed => some (bits (·.2))
  | .coreArrBlockBits => some (block.elim 0 fun b => fmtWidth b.fmt)
  | .coreArrBlockTrows => some (block.elim 0 (·.trows))
  | .coreArrBlockTcols => some (block.elim 0 (·.tcols))
  | .coreRowMode => some mode
  | .coreRowPart => some (mode = 2 && 16 ≤ c.val).toNat
  | .coreRowLiveUnits => some (d.liveUnits c)
  | _ => none

/-- The copies of the die-collective instructions that a die's engine has taken and that have not retired (R93). -/
def Dev.dieCopies (d : Dev) (x : Fin 12) (g : Eng) : List Entry :=
  (List.finRange 4).flatMap fun i => d.cores[coreOf x i].entries.filter fun e => e.eng = g && e.stage = .running

/-- At an ac of the die, the Separator's run whose vector its free capacity stage waits for: the vector of the die before it, or the state
that position 0 reads (R182, R183, R192). -/
def SepDie.waiting (p : SepDie) (ac : Nat) : Option SepRun :=
  if ac < p.capEnd then none
  else p.runs.head?.bind fun r => if p.arrived.any fun v => v.n = r.n then none else some r

/-- LAYER of the instruction in the capacity stage at an ac of the die, be it at work or waiting, else 0 (R192). (log 33 DEDUCED) -/
def SepDie.stageLayer (p : SepDie) (ac : Nat) : Nat :=
  match p.stages.find? fun s => ac < s.2.2 with
  | some s => s.1
  | none => ((p.waiting ac).map (·.layer)).getD 0

/-- Fields of a SEP page. -/
def Dev.liveSep (d : Dev) (k : Clock) (x : Fin 12) (f : Fld) : Option Nat :=
  let p := d.sep[x]
  match f with
  | .sepStateBusy => some (!p.runs.isEmpty || !(d.dieCopies x .sep).isEmpty).toNat
  | .sepStateChainWait => some (p.waiting (d.dieAc k x)).isSome.toNat
  | .sepStateLayer => some (p.stageLayer (d.dieAc k x))
  | .sepStatePos => some (chainPos x)
  | .sepChnStateBusy => some (!(d.dieCopies x .churn).isEmpty).toNat
  | .sepChnStateLayer => some (((d.dieCopies x .churn).head?.map fun e => wbits e.word 84 75).getD 0)
  | _ => none

/-- The object that TIER_OBJ_SEL names. -/
def Dev.objSel (d : Dev) : Option TierObj := d.tier.objs[d.rd .tierObjSel]?

/-- A number of the selected object, 0 where there is none. -/
def Dev.ofObj (d : Dev) (g : TierObj → Nat) : Option Nat := some (match d.objSel with | some o => g o | none => 0)

/-- Fields of PAIL and TIER. -/
def Dev.liveTier (d : Dev) (f : Fld) (i : Nat) : Option Nat :=
  match f with
  | .pailPlace => some (match d.image.bind fun m => m.form.pail with | some p => p.place | none => 0)
  | .pailLandClass => some (match d.image.bind fun m => m.form.pail with | some p => p.land | none => 0)
  | .pailFree => some (min (d.freePails i) (2 ^ 20 - 1))
  | .tierLendState => some (match d.tier.lend with | .off => 0 | .lending => 1 | .zeroing => 2)
  | .tierPoolFree => some d.poolFree
  | .tierPoolPinned => some (sumBy (d.tier.objs.filter fun o => o.pinned) fun o => o.pool.length)
  | .tierHerdQueued => some (min (d.tier.herd.length + (d.tier.queue.filter TierReq.herd).length) 65535)
  | .tierObjTier => d.ofObj fun o => o.tier
  | .tierObjMoving => d.ofObj fun o => o.move.isSome.toNat
  | .tierObjTarget => d.ofObj fun o => match o.move with | some m => m.target | none => 0
  | .tierObjMarked => d.ofObj fun o => o.marked.isSome.toNat
  | .tierObjListed => d.ofObj fun o => o.listed.toNat
  | .tierObjFixed => d.ofObj fun o => (!o.movable).toNat
  | .tierObjStamp => d.ofObj fun o => o.stamp % 2 ^ 24
  | _ => none

/-- The pending management loads, oldest first, as tag and node (R307). -/
def Dev.mgmtLoads (d : Dev) : List (Nat × Nat) :=
  d.gmem.reqs.filterMap fun r => match r.owner with | .agent (some t) => some (t, r.node) | _ => none

/-- Fields of GMEM and COLL. -/
def Dev.liveGmem (d : Dev) (f : Fld) : Option Nat :=
  match f with
  | .gmemStatusKeyed => some d.job.keyed.toNat
  | .gmemOutstanding => some d.gmem.reqs.length
  | .gmemCacheLive => some d.gmem.cache.length
  | .gmemRetryBytes => some d.gmem.retryBytes
  | .gmemMgmtPending => some (min d.mgmtLoads.length 255)
  | .collPending => some (d.coll.invs.filter fun i => i.state ≠ 2).length
  | _ => none

/-- The shadow route entry that FAB_RTW_SEL of a page names. -/
def Dev.shadowEntry (d : Dev) (fd : Nat) : Nat :=
  Sparse.get (d.fab.shadow[fd % 10]'(Nat.mod_lt _ (by omega))) 0 (d.rd .fabRtwSel fd)

/-- A port of a fabric die. -/
def Dev.portAt (d : Dev) (fd i : Nat) : Port := d.fab.ports[(8 * fd + i) % 81]'(Nat.mod_lt _ (by omega))

/-- Fields of a FAB page and of TWIN. -/
def Dev.liveFab (d : Dev) (fd : Nat) (f : Fld) (i : Nat) : Option Nat :=
  let p := d.portAt fd i
  let t := d.fab.ports[(80 : Fin 81)]
  match f with
  | .fabPortState => some p.state.code
  | .fabPortReversed => some p.reversed.toNat
  | .fabPortPolarity => some p.polarity
  | .fabPortRtt => some p.rtt
  | .fabPortPartnerNode => some (match p.partner with | some x => x.1 | none => 0)
  | .fabPortPartnerPort => some (match p.partner with | some x => x.2 | none => 0)
  | .fabPortPartnerValid => some p.partnerValid.toNat
  | .fabRtPending => some d.fab.commitAt.isSome.toNat
  | .fabRtCommits => some d.fab.commits
  | .fabRtwData => some (d.shadowEntry fd)
  | .fabMidData => some (Sparse.get d.fab.midShadow 0 (d.rd .fabMidSel))
  | .twinStatLink => some t.state.code
  | .twinStatPeerMode => some (match d.twin.peer with | some x => x.1 | none => 0)
  | .twinStatAgree => some (d.twin.peer.map (·.1) = some (d.rd .twinCfgMode) : Bool).toNat
  | .twinStatPeerNode => some (match d.twin.peer with | some x => x.2.1 | none => 0)
  | _ => none

/-- Fields of SNAP and SEC. -/
def Dev.liveSec (d : Dev) (f : Fld) : Option Nat :=
  let s := d.start
  match f with
  | .snapNvmeUp => some d.snap.nvmeUp.toNat
  | .snapStateCode => some (if d.snap.restoring then 3 else if d.writesHeader then 2 else if d.snap.run.isSome then 1 else 0)
  | .snapStateArea => some d.snap.area
  | .snapStateClean => some d.snap.clean.toNat
  | .snapCopied => some (d.snap.copied / 2 ^ 20)
  | .secStartState => some s.state.code
  | .secStartKind => some s.kind
  | .secStartKeptMem => some s.keptMem.toNat
  | .secStartKeptLinks => some s.keptLinks.toNat
  | .secStartDowngrade => some s.downgrade.toNat
  | .secStartKeepDenied => some s.keepDenied.toNat
  | .secStartFailCause => some s.failCause
  | .secStartFwSlot => some s.fwSlot
  | .secStartMs => some s.ms
  | .secFwSvn => some d.sec.fwSvn
  | .secOwnerFlags => some (match d.sec.policy with | some p => p.flags % 16 | none => 0)
  | .secOwnerBound => some d.sec.bound.toNat
  | .secPolicyVer => some (match d.sec.policy with | some p => p.version | none => 0)
  | .secSessionState => some d.sec.session.code
  | .secSessionFixed => some d.sec.fixed.toNat
  | .secQuoteBusy => some d.sec.quote.isSome.toNat
  | .secQuoteValid => some d.sec.last.isSome.toNat
  | .secQuoteQueued => some d.sec.queued.length
  | _ => none

/-- The negotiated speed and width of the root port, free values while its link is active (R458). -/
def nvmeLink (d : Dev) : Nat × Nat :=
  if d.nvmeLinked then (1 + Config.nvmeRate % 6, 2 ^ (Config.nvmeWidth % 3)) else (0, 0)

/-- Fields of HOSTIF, PWR and HUB. -/
def Dev.liveBoard (d : Dev) (f : Fld) : Option Nat :=
  match f with
  | .hostifLinkSpeed => some d.host.speed
  | .hostifLinkWidth => some d.host.width
  | .hostifLinkFlit => some d.host.flit.toNat
  | .hostifLinkUp => some d.host.linkUp.toNat
  | .hostifLinkBme => some d.host.bme.toNat
  | .hostifNvmeSpeed => some (nvmeLink d).1
  | .hostifNvmeWidth => some (nvmeLink d).2
  | .hostifNvmeUp => some d.nvmeLinked.toNat
  | .hostifFlashBusy => some d.host.flash.isSome.toNat
  | .hostifFlashResult => some d.host.flashResult
  | .pwrNowW => some d.pwr.watts
  | .pwrNowTj => some (untwos 12 d.junction)
  | .pwrProtDies => some (sumBy (List.range 12) fun x => (d.pwr.reduced.any fun r => r.1 = x).toNat * 2 ^ x)
  | .pwrProtAlert => some d.thermAlert.toNat
  | .hubOrderCode => some d.order.code
  | .hubMsCount => some d.order.hbmStacks
  | .hubFdCount => some d.order.fabricDies
  | .hubPosFabric => some d.order.posFabric
  | _ => none

/-- A master's mailbox of a page. -/
def Dev.mailbox (d : Dev) (page : Nat) (m : Master) : Option Mailbox :=
  d.ctl.mailboxes.find? fun b => b.page = page && b.master = m

/-- The open guard sequence of a page. -/
def Dev.openGuard (d : Dev) (page : Nat) : Option Guard := d.ctl.guards.find? fun g => g.page = page

/-- Common registers of a page, as master `m` reads them (Table REG-3, R424). -/
def Dev.liveCommon (d : Dev) (k : Clock) (m : Master) (page : Nat) (p : Page) (f : Fld) (i : Nat) : Option Nat :=
  let g := d.openGuard page
  let b := d.mailbox page m
  let ofG := fun (h : Guard → Nat) => some (match g with | some x => h x | none => 0)
  let ofB := fun (h : Mailbox → Nat) => some (match b with | some x => h x | none => 0)
  match f with
  | .blkIdType => some p.blk.code
  | .blkIdInst => some p.inst
  | .blkGuardOpenValid => some g.isSome.toNat
  | .blkGuardOpenMaster => ofG fun x => x.master.code
  | .blkGuardOpenOffset => ofG fun x => x.off
  | .blkGuardOpenAge => ofG fun x => min (k.cc - x.cc) 256
  | .mbxSel => ofB fun x => x.sel
  | .mbxValid => ofB fun x => x.valid.toNat
  | .mbxErr => ofB fun x => x.err.toNat
  | .mbxSelEcho => ofB fun x => x.echo
  | .mbxData => ofB fun x => if x.valid then x.data / 2 ^ (32 * i) % 2 ^ 32 else 0
  | _ => none

/-- A field of a page that is derived from the state; none for a stored one. (log 11 DEDUCED) -/
def Dev.liveField (d : Dev) (k : Clock) (m : Master) (page : Nat) (p : Page) (f : Fld) (i : Nat) : Option Nat :=
  match d.voteOf f with
  | some v => some v.value
  | none =>
    if f.row.blk = .common then d.liveCommon k m page p f i
    else match p.blk with
      | .tick => d.liveJob f
      | .job => d.liveJob f
      | .core => d.liveCore k ⟨p.inst % 48, Nat.mod_lt _ (by omega)⟩ f
      | .sep => d.liveSep k ⟨p.inst % 12, Nat.mod_lt _ (by omega)⟩ f
      | .pail => d.liveTier f i
      | .tier => d.liveTier f i
      | .gmem => d.liveGmem f
      | .coll => d.liveGmem f
      | .fab => d.liveFab p.inst f i
      | .twin => d.liveFab 0 f i
      | .snap => d.liveSec f
      | .sec => d.liveSec f
      | _ => d.liveBoard f

/-- The value of a field of a page. (log 11 DEDUCED, 12 DESIGN CHOICE) -/
def Dev.fieldOf (d : Dev) (k : Clock) (m : Master) (page : Nat) (p : Page) (f : Fld) (i : Nat) : Nat :=
  if !p.holds f then 0
  else ((d.liveField k m page p f i).getD (d.rd f (p.instOf f) i)) % 2 ^ f.width

/-- The base offset of an offset of a page: an alias's base (Table REG-2). -/
def baseOf (off : Nat) : Nat := off % 0x4000

/-- A read of an aligned word by a master (R413 to R417, Table REG-2). -/
def Dev.readReg (d : Dev) (k : Clock) (m : Master) (off : Nat) : Nat :=
  match d.openPage (off / 65536) m with
  | none => 0
  | some p =>
    let reg := baseOf (off % 65536) / 4 * 4
    if 0x2000 ≤ reg then 0
    else sumBy (p.fields reg) fun (f, i) => d.fieldOf k m (off / 65536) p f i * 2 ^ f.row.lo

end Sys2Proof.Machine
end

