-- ==== Sys2Proof/Machine/Mailbox.lean ====
section
/-! DEFINITION. The mailbox: the value of each selector, and the copy into the data registers (R58, R85, R134, R312,
R343, R363, R385, R411, R424, R449, R467, R486, Table REG-7). -/

namespace Sys2Proof.Machine

open Sys2Proof

/-! ### The value of a selector -/

/-- Bits [256i + 255 : 256i] of a digest (R85): its bytes 32i to 32i + 31 as a little-endian number.
(log 83 DESIGN CHOICE) -/
def digestHalf (b : List Byte) (i : Nat) : Nat := leNat (slice b (32 * i) 32)

/-- Selectors of HUB, TICK and JOB (Tables REG-7, TICK-17, TYN-9). (log 75 DEDUCED) With no admitted object JOB
selectors 0x20 to 0x23 read 0. (log 83 DESIGN CHOICE) -/
def Dev.selectJob (d : Dev) (k : Clock) (b : Blk) (sel : Nat) : Option Nat :=
  let ofImage := fun (f : Image → Nat) => some (match d.image with | some m => f m | none => 0)
  match b, sel with
  | .hub, 0x01 => some d.ctl.faultAddr
  | .hub, 0x02 => some d.ctl.strayLast
  | .tick, 0x10 => some k.count
  | .tick, 0x11 => some (if d.job.phase = .armed then d.rd64 .tickLaunchLo .tickLaunchHi else d.job.launch)
  | .tick, 0x12 => some d.frame.number
  | .tick, 0x13 => some d.frame.boundary
  | .job, 0x20 => ofImage fun m => digestHalf m.objDigest 0
  | .job, 0x21 => ofImage fun m => digestHalf m.objDigest 1
  | .job, 0x22 => ofImage fun m => digestHalf m.formDigest 0
  | .job, 0x23 => ofImage fun m => digestHalf m.formDigest 1
  | .job, 0x24 => some d.job.endFrame
  | _, _ => none

/-- The eight oldest pending management loads, 32 bits each; unused entries read as all ones (Table GMEM-10). -/
def Dev.loadsWord (d : Dev) : Nat :=
  sumBy (List.range 8) fun i =>
    (match d.mgmtLoads[i]? with | some (t, n) => t + n * 2 ^ 16 | none => 2 ^ 32 - 1) * 2 ^ (32 * i)

/-- Selectors of GMEM (Table GMEM-10). E of a node is that of the job, or of the loan of a LENDING device, which holds no
job (R274). -/
def Dev.selectGmem (d : Dev) (sel : Nat) : Option Nat :=
  let g := d.gmem
  let node := d.rd .gmemNodeSel
  match sel with
  | 0x30 => some (d.window (d.rd .gmemWinSel))
  | 0x31 => some (match g.changes.find? fun c => c.win = d.rd .gmemWinSel with
      | some c => c.entry + c.frame * 2 ^ 128 + 2 ^ 192
      | none => 0)
  | 0x32 =>
    let e := match g.sources.find? fun x => x.key = d.tier.lendKey.getD d.jobKey && x.node = node with | some x => x.expect | none => 0
    some (g.nextOf false node + g.ackedTo false node * 2 ^ 32 + e * 2 ^ 64)
  | 0x33 => some g.faultAddr
  | 0x34 => some d.loadsWord
  | _ => none

/-- Selectors of the fabric, COLL and TWIN (R343, R363, R385). -/
def Dev.selectFab (d : Dev) (p : Page) (sel : Nat) : Option Nat :=
  match p.blk, sel with
  | .fab, 0x50 => some (d.route p.inst (d.rd .fabRtwSel p.inst) + d.shadowEntry p.inst * 2 ^ 32)
  | .fab, 0x51 =>
    if p.inst = 0 then some (Sparse.get d.fab.midLive 0 (d.rd .fabMidSel) % 2 ^ 16 + d.fab.midCount * 2 ^ 16) else none
  | .coll, 0x60 => some (match d.inv (d.rd .collDescSel) with
      | some v => v.n % 2 ^ 32 + v.state * 2 ^ 32 + v.frame % 2 ^ 64 * 2 ^ 64 + v.deadline % 2 ^ 64 * 2 ^ 128 +
          v.hash % 2 ^ 64 * 2 ^ 192
      | none => 0)
  | .twin, 0x70 => some d.twin.record
  | .twin, 0x71 => some d.twin.peerRecord
  | _, _ => none

/-- Frames that banks hold, all ones for an empty one. -/
def bankWord (l : List (Option Nat)) : Nat :=
  sumBy (List.range 3) fun i => (((l[i]?).bind id).getD (2 ^ 64 - 1)) % 2 ^ 64 * 2 ^ (64 * i)

/-- The resolved methods of 128 objects, 2 bits each (Table REC-10). -/
def Dev.methodWord (d : Dev) : Nat :=
  match d.image with
  | none => 0
  | some m => sumBy (List.range 128) fun i =>
      (match m.objects[d.rd .snapRstArea * 128 + i]? with | some e => e.survival | none => 0) * 2 ^ (2 * i)

/-- Selectors of SNAP and SEC (Tables REC-10, BOOT-10). -/
def Dev.selectSnap (d : Dev) (b : Blk) (sel : Nat) : Option Nat :=
  match b, sel with
  | .snap, 0x80 => some (d.snap.lastCut.getD (2 ^ 64 - 1))
  | .snap, 0x81 => some (bankWord d.snap.banks)
  | .snap, 0x82 => some (bankWord d.snap.rxBanks)
  | .snap, 0x83 => some (leNat (d.mem.nvme.readN (d.areaAt (d.rd .snapRstArea)) 32))
  | .snap, 0x84 => some (d.snap.resume.getD (2 ^ 64 - 1))
  | .snap, 0x86 => some d.methodWord
  | .sec, _ =>
    if 0x90 ≤ sel && sel ≤ 0x9F then
      some (match d.sec.last with | some q => leNat (slice q (32 * (sel - 0x90)) 32) | none => 0)
    else none
  | _, _ => none

/-- 16-bit two's complement temperatures of units, from bit 0. -/
def Dev.tempWord (d : Dev) (us : List Nat) : Nat :=
  sumBy us.zipIdx fun (u, i) => untwos 16 (d.unitTemp u) * 2 ^ (16 * i)

/-- Selectors of HOSTIF and PWR (Tables HOST-7, ELEC-13). -/
def Dev.selectBoard (d : Dev) (b : Blk) (sel : Nat) : Option Nat :=
  match b, sel with
  | .hostif, 0xA0 => some d.host.aerEnd
  | .hostif, 0xA1 => some d.host.failedRead
  | .hostif, 0xA2 => some d.host.aerRoot
  | .pwr, 0xB0 => some (d.tempWord (List.range 14))
  | .pwr, 0xB1 => some (d.tempWord (List.range' 14 10))
  | .pwr, 0xB2 => some (d.tempWord (List.range' 24 16))
  | .pwr, 0xB3 => some (d.tempWord (List.range' 40 4))
  | .pwr, 0xB4 => some (d.pwr.energy / 100)
  | _, _ => none

/-- The value of a selector on a page, none where the block does not provide it (R424). (log 19 DESIGN CHOICE) -/
def Dev.selected (d : Dev) (k : Clock) (p : Page) (sel : Nat) : Option Nat :=
  match p.blk with
  | .core =>
    let x := d.cores[p.inst % 48]'(Nat.mod_lt _ (by omega))
    if 0x40 ≤ sel && sel ≤ 0x43 then some (x.rng[(sel - 0x40) % 4]'(Nat.mod_lt _ (by omega)) % 2 ^ 118) else none
  | .gmem => d.selectGmem sel
  | .fab => d.selectFab p sel
  | .coll => d.selectFab p sel
  | .twin => d.selectFab p sel
  | .snap => d.selectSnap p.blk sel
  | .sec => d.selectSnap p.blk sel
  | .hostif => d.selectBoard p.blk sel
  | .pwr => d.selectBoard p.blk sel
  | b => d.selectJob k b sel

/-! ### The request and its answer (R424) -/

/-- Replace a master's mailbox of a page. -/
def Dev.setMailbox (d : Dev) (b : Mailbox) : Dev :=
  { d with ctl := { d.ctl with
    mailboxes := (d.ctl.mailboxes.filter fun x => !(x.page = b.page && x.master = b.master)) ++ [b] } }

/-- A master writes a selector: the value is latched and MBX_VALID cleared.
(log 19 DESIGN CHOICE) -/
def Dev.writeSelector (d : Dev) (k : Clock) (m : Master) (page : Nat) (p : Page) (sel : Nat) : Dev :=
  let old := (d.mailbox page m).getD ⟨page, m, 0, false, false, 0, 0, none, 0⟩
  let b := { old with sel := sel, valid := false, latched := some (sel, d.selected k p sel), cc := k.cc }
  d.setMailbox b

/-- The latched request is copied into the data registers. -/
def Mailbox.answer (b : Mailbox) : Mailbox :=
  match b.latched with
  | none => b
  | some (sel, v) => { b with valid := true, err := v.isNone, echo := sel, data := (v.getD 0) % 2 ^ 256, latched := none }

/-- MAILBOX_READY: 1 to 32 cc after the selector write the value is copied; the latency within the bound is the
operand's. (log 6 DEDUCED, 19 DESIGN CHOICE) -/
def execMailboxReady (page : BitVec 12) (m : Master) (cc : Nat) (s : State) : Result :=
  let b? := (s.dev.mailbox page.toNat m).filter fun b => b.latched.isSome
  s.act (fun k => match b? with
      | some b => k.toCc (min 32 (max 1 (cc - b.cc)) + b.cc)
      | none => k) fun _ d => b?.map fun b => d.setMailbox b.answer

end Sys2Proof.Machine
end

