-- ==== Sys2Proof/Machine/RegWrite.lean ====
section
/-! DEFINITION. Writing control space: serialisation, guard sequences, access codes, and the effect of each register's
write (R412 to R424, R445). -/

namespace Sys2Proof.Machine

open Sys2Proof

/-! ### A write by a master (R412, R413) -/

/-- A write of a master: page number, page offset, value, and whether it is an aligned word with every byte enabled. -/
structure MasterWrite where
  master : Master
  page : Nat
  off : Nat
  value : Nat
  whole : Bool
  deriving DecidableEq, Repr

/-- The base that an offset counts as: aliases and complement addresses as their base (R416, R418).
(log 15 DEDUCED) -/
def countedBase (off : Nat) : Nat :=
  let b := off % 0x4000 / 4 * 4
  if 0x2000 ≤ b && b < 0x3F00 && off < 0x4000 then b - 0x2000 else b

/-- The alias that an offset lies in: 0 none, 1 set, 2 clear, 3 toggle (Table REG-2). (log 15 DEDUCED) -/
def aliasOf (off : Nat) : Nat := off / 0x4000

/-- What an alias makes of the present bits. -/
def aliasValue (alias_ old v : Nat) : Nat :=
  if alias_ = 1 then old ||| v else if alias_ = 2 then old - (old &&& v) else old ^^^ v

/-- The registers banked per master (R424). -/
def banked (base : Nat) : Bool := 0x1F20 ≤ base && base < 0x1F60

/-! ### The effect of a register's write -/

/-- A write of one field under its access code; `guarded` tells a completed pair (R415, Table SCOPE-5). A field that the
device has updated in the control cycle keeps the update (R417). -/
def Dev.writeField (d : Dev) (p : Page) (guarded : Bool) (v : Nat) (f : Fld) (i : Nat) : Dev :=
  let x := bitRange v f.row.hi f.row.lo
  let inst := p.instOf f
  let mine := !d.updated.contains (regKey f inst i)
  match f.row.access with
  | .rw => if mine then d.wr f x inst i else d
  | .wg => if guarded then d.wr f x inst i else d
  | .w1c => let old := d.rd f inst i; if mine then d.wr f (old - (old &&& x)) inst i else d
  | _ => d

/-- A write of every field of a register under its access code. (log 12 DESIGN CHOICE) -/
def Dev.writeFields (d : Dev) (p : Page) (guarded : Bool) (fs : List (Fld × Nat)) (v : Nat) : Dev :=
  fs.foldl (fun d x => d.writeField p guarded v x.1 x.2) d

/-- The register holds bits that a plain write may change, or a guarded pair. -/
def takesWrite (guarded : Bool) (fs : List (Fld × Nat)) : Bool :=
  fs.any fun x => x.1.row.access = .rw || x.1.row.access = .w1c || (guarded && x.1.row.access = .wg)

/-- The device is IDLE and does not lend (R284). -/
def Dev.idleUnlent (d : Dev) : Bool := d.job.phase = .idle && d.tier.lend = .off

/-- The state allows a write of the register at `reg` of a block, with the value `v` (R48, R84, R284, R342, R410, R443). -/
def Dev.allowsWrite (d : Dev) (b : Blk) (reg v : Nat) : Bool :=
  match b with
  | .job =>
    if reg = 0x10C || reg = 0x110 || reg = 0x114 || (0x124 ≤ reg && reg ≤ 0x138) then d.job.phase = .idle else true
  | .tick => if reg = 0x18 || reg = 0x1C then d.job.phase ≠ .armed && d.job.phase ≠ .running else true
  | .tier =>
    if reg < 0x80 || (0x104 ≤ reg && reg ≤ 0x110) then
      d.idleUnlent && !(reg < 0x80 && reg % 16 = 0 && v % 4 = 3)
    else true
  | .fab =>
    if reg = 0x200 then 1 ≤ v % 65536 && v % 65536 ≤ 1000
    else if reg = 0x204 || reg = 0x208 || reg = 0x20C then !d.sec.fixed
    else if reg = 0x310 then v % 2 ^ 15 ≤ 16384
    else true
  | .snap => if (4 ≤ reg && reg ≤ 0x14) || (0x40 ≤ reg && reg ≤ 0x58) then d.job.phase = .idle else true
  | .sec => if reg = 0x14 then !d.sec.fixed else true
  | _ => true

/-- Write the shadow entry that FAB_RTW_SEL names, and step the selection (R330, R342). -/
def Dev.writeShadow (d : Dev) (fd v : Nat) : Dev :=
  let sel := d.rd .fabRtwSel fd
  let old := d.fab.shadow[fd % 10]'(Nat.mod_lt _ (by omega))
  ({ d with fab := { d.fab with
    shadow := d.fab.shadow.set (fd % 10) (Sparse.set old 0 sel (v % 2 ^ 32)) (Nat.mod_lt _ (by omega)) } }).wr .fabRtwSel (sel + 1) fd

/-- Write the shadow list entry that FAB_MID_SEL names, and step the selection (R330, R342). -/
def Dev.writeMid (d : Dev) (v : Nat) : Dev :=
  let sel := d.rd .fabMidSel
  ({ d with fab := { d.fab with midShadow := Sparse.set d.fab.midShadow 0 sel (v % 2 ^ 16) } }).wr .fabMidSel (sel + 1)

/-- From a write of TICK_LAUNCH_LO or TICK_LAUNCH_HI on, the launch count stands (R48, R49). (log 75 DEDUCED) -/
def Dev.noteLaunch (d : Dev) (k : Clock) (b : Blk) (reg : Nat) : Dev :=
  if b = .tick && (reg = 0x18 || reg = 0x1C) then { d with ctl := { d.ctl with launchFrom := k.count } } else d

/-- A register whose plain write does more than store: the device after the write, and whether it was not ignored. None
for an ordinary register. -/
def Dev.plainEffect (d : Dev) (k : Clock) (p : Page) (reg v : Nat) : Option (Dev × Bool) :=
  match p.blk, reg with
  | .job, 0x11C => some (d.writeStopLo v)
  | .job, 0x120 => some (d.writeStopHi k v)
  | .gmem, 0x000 => some (d.setGmemCfg v)
  | .fab, 0x304 => some (d.writeShadow p.inst v, true)
  | .fab, 0x30C => some (if p.inst = 0 then (d.writeMid v, true) else (d, false))
  | .snap, 0x000 => some (d.setNvme v, true)
  | _, _ => none

/-- FAB_CFG_MGMT_EPOCH takes another value: the old management key is removed and the new one registered (R331, R333). -/
def Dev.setMgmtEpoch (d : Dev) (v : Nat) : Dev :=
  if d.mgmtKey.epoch = v then d else (d.forgetKey d.mgmtKey).forgetKey ⟨0, v⟩

/-- A guarded register whose completed pair is a command or is judged: the device after it, and whether it was not
ignored. None for one that only stores. -/
def Dev.pairEffect (d : Dev) (k : Clock) (p : Page) (reg v : Nat) : Option (Dev × Bool) :=
  match p.blk, reg with
  | .tick, 0x000 => some (d.setSyncCfg k v, true)
  | .tick, 0x020 => some (match v % 4 with
      | 1 => d.armCommand k
      | 2 => d.disarmCommand k
      | _ => (d, false))
  | .job, 0x104 => some (d.jobCommand k (v % 16))
  | .tier, 0x100 => some (match v % 4 with
      | 1 => d.lendBegin
      | 2 => d.lendEnd
      | _ => (d, false))
  | .gmem, 0x01C => some (if v % 2 = 1 then d.windowCommand else (d, false))
  | .gmem, 0x074 => some (d.mgmtCancel k (v % 65536), true)
  | .fab, 0x20C => some (d.setMgmtEpoch (v % 65536), true)
  | .fab, 0x318 => some (if p.inst = 0 && v % 2 = 1 then (d.routeCommand, true) else (d, false))
  | .fab, _ => if reg < 0x100 then some (d.portCommand k p.inst (reg / 32) (v % 4)) else none
  | .twin, 0x000 => some (d.setTwinMode k v)
  | .sec, 0x020 => some (d.quoteCommand k v)
  | .hostif, 0x104 => some (d.flashCommand v)
  | .pwr, 0x000 => some (d.setPwrCap v)
  | .pwr, 0x004 => some (d.setPwrTj v)
  | _, _ => none

/-- A write of a common register by a master (Table REG-3): its W1C bits, and the selector. -/
def Dev.writeCommon (d : Dev) (k : Clock) (m : Master) (page : Nat) (p : Page) (reg v : Nat) : Dev × Bool :=
  if reg = 0x1F20 then (d.writeSelector k m page p (v % 256), true)
  else
    let fs := p.fields reg
    let e := d.writeFields p false fs v
    let e := if reg = 0x1F08 && v % 2 = 1 && e.rd .blkGuardSeqErr p.idx = 0 then e.wr .blkGuardCount 0 p.idx else e
    (e, takesWrite false fs)

/-- A plain write to a base register: the device after it, and whether it was not ignored. -/
def Dev.writePlain (d : Dev) (k : Clock) (m : Master) (page : Nat) (p : Page) (reg v : Nat) : Dev × Bool :=
  if 0x1F00 ≤ reg then d.writeCommon k m page p reg v
  else
    let fs := (p.fields reg).filter fun x => p.holds x.1
    if !takesWrite false fs || !d.allowsWrite p.blk reg v then (d, false)
    else match d.plainEffect k p reg v with
      | some r => r
      | none => ((d.writeFields p false fs v).noteLaunch k p.blk reg, true)

/-- A completed pair of a guarded register: its other bits are written too (R415). The second part tells whether the
register took the value. -/
def Dev.writePair (d : Dev) (k : Clock) (p : Page) (reg v : Nat) : Dev × Bool :=
  let fs := (p.fields reg).filter fun x => p.holds x.1
  let w1c := fs.filter fun x => x.1.row.access = .w1c
  let d := d.writeFields p true w1c v
  if fs.isEmpty || !d.allowsWrite p.blk reg v then (d, false)
  else match d.pairEffect k p reg v with
    | some (e, true) => (match p.blk with
        | .pwr => (e, true)
        | _ => (e.writeFields p true (fs.filter fun x => x.1.row.access = .wg) v, true))
    | some (e, false) => (e, false)
    | none => (d.writeFields p true (fs.filter fun x => x.1.row.access = .wg) v, true)

/-- The RW bits of a register as a master reads them, and their mask (R416). -/
def Dev.rwBits (d : Dev) (k : Clock) (m : Master) (page : Nat) (p : Page) (reg : Nat) : Nat × Nat :=
  let fs := (p.fields reg).filter fun x => x.1.row.access = .rw && p.holds x.1
  (sumBy fs fun x => d.fieldOf k m page p x.1 x.2 * 2 ^ x.1.row.lo,
   sumBy fs fun x => (2 ^ x.1.width - 1) * 2 ^ x.1.row.lo)

/-- A write to an alias: the RW bits change, and the result is a write to the base register (R416).
(log 15 DEDUCED) -/
def Dev.writeAlias (d : Dev) (k : Clock) (m : Master) (page : Nat) (p : Page) (alias_ reg v : Nat) : Dev × Bool :=
  let (old, mask) := d.rwBits k m page p reg
  if 0x2000 ≤ reg || mask = 0 then (d, false)
  else d.writePlain k m page p reg (aliasValue alias_ old v &&& mask)

/-! ### Guard sequences (R420, R421) -/

/-- The register at an offset of a page is guarded. (log 17 DEDUCED) -/
def Page.guarded (p : Page) (reg : Nat) : Bool :=
  reg < 0x1F00 && (p.fields reg).any fun x => x.1.row.access = .wg && p.holds x.1

/-- A GUARD_SEQ_ERR: counted, and the first since the bit was cleared is recorded (R421). -/
def Dev.guardError (d : Dev) (p : Page) (cause : Nat) (m by_ : Master) (off : Nat) : Dev :=
  let i := p.idx
  let first := d.rd .blkGuardSeqErr i = 0
  let d := (d.flag .blkGuardSeqErr i).bump .blkGuardCount 1 i
  if first then
    (((d.wr .blkGuardCause cause i).wr .blkGuardMaster m.code i).wr .blkGuardBy (if cause = 3 then by_.code else 0) i).wr
      .blkGuardOffset off i
  else d

/-- Close the open sequence of a page. -/
def Dev.closeGuard (d : Dev) (page : Nat) : Dev :=
  { d with ctl := { d.ctl with guards := d.ctl.guards.filter fun g => g.page ≠ page } }

/-- Close the open sequence of a page, and open another. -/
def Dev.stageGuard (d : Dev) (g : Guard) : Dev :=
  let d := d.closeGuard g.page
  { d with ctl := { d.ctl with guards := d.ctl.guards ++ [g] } }

/-- A sequence whose window has ended is aborted with cause 2. (log 16 DEDUCED) -/
def Dev.expireGuard (d : Dev) (k : Clock) (page : Nat) (p : Page) : Dev :=
  match d.openGuard page with
  | none => d
  | some g => if g.cc + 256 < k.cc then (d.closeGuard page).guardError p 2 g.master g.master g.off else d

/-- A sequence of another master is aborted with cause 3. -/
def Dev.breakGuard (d : Dev) (page : Nat) (p : Page) (m : Master) : Dev :=
  match d.openGuard page with
  | none => d
  | some g => if g.master ≠ m then (d.closeGuard page).guardError p 3 g.master m g.off else d

/-- A value write of a guarded register (R420). -/
def Dev.stage (d : Dev) (k : Clock) (w : MasterWrite) (p : Page) : Dev :=
  let d := match d.openGuard w.page with
    | some g => if g.off ≠ w.off then d.guardError p 5 g.master g.master g.off else d
    | none => d
  d.stageGuard ⟨w.page, w.master, w.off, w.value, k.cc⟩

/-- A complement write to a guarded register (R420): the device after it, and the result it records. -/
def Dev.complement (d : Dev) (k : Clock) (w : MasterWrite) (p : Page) : Dev × Nat :=
  let reg := w.off - 0x2000
  match d.openGuard w.page with
  | none => (d.guardError p 4 w.master w.master reg, 1)
  | some g =>
    if g.off ≠ reg then (d.guardError p 4 w.master w.master reg, 1)
    else
      let d := d.closeGuard w.page
      if w.value + g.value = 2 ^ 32 - 1 then
        let r := d.writePair k p reg g.value
        (r.1, if r.2 then 0 else 1)
      else (d.guardError p 1 w.master w.master reg, 1)

/-! ### Serialisation and the last-write status (R414, R418) -/

/-- Note the last write of a page: its offset, master, result and winner (Table REG-3). -/
def Dev.noteLast (d : Dev) (p : Page) (w : MasterWrite) (result : Nat) (winner : Master) : Dev :=
  let i := p.idx
  let d := (((d.wr .blkLwOffset w.off i).wr .blkLwMaster w.master.code i).wr .blkLwResult result i).wr
    .blkLwWinner winner.code i
  if result = 2 then d.flag .blkLwSuperseded i else d

/-- The writes of the running control cycle. (log 13 DEDUCED) -/
def Dev.writesNow (d : Dev) (k : Clock) : List CcWrite := if d.ctl.ccNow = k.cc then d.ctl.ccWrites else []

/-- The device's updates of the running control cycle (R417). -/
def Dev.updatesNow (d : Dev) (k : Clock) : List Nat := if d.ctl.ccNow = k.cc then d.updated else []

/-- Note a write of the running control cycle. -/
def Dev.noteWriteNow (d : Dev) (k : Clock) (w : CcWrite) : Dev :=
  { d with ctl := { d.ctl with ccNow := k.cc, ccWrites := d.writesNow k ++ [w] }, updated := d.updatesNow k }

/-- The place of a master in the order of R418. -/
def Master.order : Master → Nat
  | .mgmt => 0 | .host => 1 | .hub => 2

/-- A write of master `m` to a page may join the running control cycle: it is that master's first word in it, and no
master later in the order of R418 has written the page. -/
def Dev.mayJoin (d : Dev) (k : Clock) (m : Master) (page : Nat) : Bool :=
  !(d.writesNow k).isEmpty &&
    (d.writesNow k).all fun x => x.master ≠ m && (x.page ≠ page || x.master.order < m.order)

/-- A write outside every page that can be reached is counted and noted (R414). (log 16 DEDUCED) -/
def Dev.strayWrite (d : Dev) (w : MasterWrite) : Dev :=
  let d := d.bump .hubStrayCount
  { d with ctl := { d.ctl with strayLast := w.page * 2 ^ 16 + w.off + w.master.code * 2 ^ 28 } }

/-- The policy's host lock covers the register at a base offset (R445). -/
def hostLocked (b : Blk) (base : Nat) : Bool :=
  match b with
  | .fab => true
  | .tick => base = 0
  | .twin => base = 0
  | .gmem => base = 0x1C
  | .sec => base = 0x14 || base = 0x18
  | _ => false

/-- The host lock stops the write. -/
def Dev.lockStops (d : Dev) (w : MasterWrite) (p : Page) : Bool :=
  w.master = .host && d.sec.fixed && (match d.sec.policy with | some o => bitAt o.flags 1 | none => false) &&
    hostLocked p.blk (countedBase w.off)

/-- A write that is whole and not superseded, in its turn: the device after it, and the result it records.
(log 14 DESIGN CHOICE) -/
def Dev.handle (d : Dev) (k : Clock) (w : MasterWrite) (p : Page) : Dev × Nat :=
  let reg := w.off % 0x4000
  let done := fun (r : Dev × Bool) => (r.1, if r.2 then 0 else 1)
  if 0x1F00 ≤ reg && reg < 0x2000 then
    done (if aliasOf w.off = 0 then d.writePlain k w.master w.page p reg w.value
      else d.writeAlias k w.master w.page p (aliasOf w.off) reg w.value)
  else
    let d := d.breakGuard w.page p w.master
    if aliasOf w.off ≠ 0 then done (d.writeAlias k w.master w.page p (aliasOf w.off) reg w.value)
    else if p.guarded reg then (d.stage k w p, 3)
    else if 0x2000 ≤ reg && p.guarded (reg - 0x2000) then d.complement k w p
    else if 0x2000 ≤ reg then (d, 1)
    else done (d.writePlain k w.master w.page p reg w.value)

/-- A write of a master takes effect in control cycle `k.cc`. A write to another register of a page already written in
the cycle is applied as if it had arrived a control cycle later for each write before it (R418).
(log 13 DEDUCED, 14 DESIGN CHOICE) -/
def Dev.masterWrite (d : Dev) (k : Clock) (w : MasterWrite) : Dev :=
  match d.openPage w.page w.master with
  | none => (d.strayWrite w).noteWriteNow k ⟨w.page, countedBase w.off, w.master⟩
  | some p =>
    let now := (d.writesNow k).filter fun x => x.page = w.page
    let base := countedBase w.off
    let k' := if now.isEmpty then k else k.toCc (k.cc + now.length)
    let s := d.openGuard w.page
    let d := d.expireGuard k' w.page p
    match (now.find? fun x => x.base = base && !banked base) with
    | some x => (d.noteLast p w 2 x.master).noteWriteNow k ⟨w.page, base, w.master⟩
    | none =>
      let ends := s.any fun g => g.cc + 257 = k'.cc
      let d := d.noteWriteNow k ⟨w.page, base, w.master⟩
      let d := if ends then d.noteUpdate .blkGuardSeqErr p.idx else d
      if !w.whole then d.noteLast p w 1 w.master
      else if d.lockStops w p then (d.count .secLockDrop).noteLast p w 1 w.master
      else
        let (d, r) := d.handle k' w p
        d.noteLast p w r w.master

/-! ### The commands -/

/-- A master's write command: it takes the next control cycle, or joins the running one where `same` asks for it and
R418 lets it. -/
def State.write (s : State) (same : Bool) (w : MasterWrite) : Result :=
  s.act (fun k => if same && s.dev.mayJoin k w.master w.page then k else k.nextCc) fun k d => some (d.masterWrite k w)

/-- A master's plain write of a word. -/
def State.writeWord (s : State) (m : Master) (same : Bool) (page off v : Nat) : Result := s.write same ⟨m, page, off, v, true⟩

/-- A master's complement write for the value `v` of a guarded register. -/
def State.writeComplement (s : State) (m : Master) (same : Bool) (page off v : Nat) : Result :=
  s.write same ⟨m, page, off + 0x2000, 2 ^ 32 - 1 - v % 2 ^ 32, true⟩

/-- REGISTER_WRITE: a master writes at a control-space offset with byte enables (R413). -/
def execRegisterWrite (m : Master) (same : Bool) (offset : BitVec 28) (value : BitVec 32) (enables : BitVec 4) (s : State) : Result :=
  let a := offset.toNat
  s.write same ⟨m, a / 65536, a % 65536, value.toNat, enables = 15 && a % 4 = 0⟩

/-- ALIAS_SET (R416). -/
def execAliasSet (m : Master) (same : Bool) (page : BitVec 12) (base : BitVec 14) (value : BitVec 32) (s : State) : Result :=
  s.write same ⟨m, page.toNat, 0x4000 + base.toNat, value.toNat, base.toNat % 4 = 0⟩

/-- ALIAS_CLEAR (R416). -/
def execAliasClear (m : Master) (same : Bool) (page : BitVec 12) (base : BitVec 14) (value : BitVec 32) (s : State) : Result :=
  s.write same ⟨m, page.toNat, 0x8000 + base.toNat, value.toNat, base.toNat % 4 = 0⟩

/-- ALIAS_TOGGLE (R416). -/
def execAliasToggle (m : Master) (same : Bool) (page : BitVec 12) (base : BitVec 14) (value : BitVec 32) (s : State) : Result :=
  s.write same ⟨m, page.toNat, 0xC000 + base.toNat, value.toNat, base.toNat % 4 = 0⟩

/-- GUARD_VALUE_WRITE: the value write of a guarded register (R420). -/
def execGuardValueWrite (m : Master) (same : Bool) (page : BitVec 12) (reg : BitVec 13) (value : BitVec 32) (s : State) : Result :=
  s.write same ⟨m, page.toNat, reg.toNat, value.toNat, reg.toNat % 4 = 0⟩

/-- GUARD_COMPLEMENT_WRITE: a write to a complement address (R420). -/
def execGuardComplementWrite (m : Master) (same : Bool) (page : BitVec 12) (reg : BitVec 13) (value : BitVec 32) (s : State) : Result :=
  s.write same ⟨m, page.toNat, reg.toNat + 0x2000, value.toNat, reg.toNat % 4 = 0⟩

/-- GUARD_WINDOW_EXPIRE: the cc after a window has ended with its sequence open (R420, R421). (log 16 DEDUCED) -/
def execGuardWindowExpire (page : BitVec 12) (m : Master) (s : State) : Result :=
  let g? := (s.dev.openGuard page.toNat).filter fun g => g.master = m
  s.act (fun k => match g? with | some g => k.toCc (g.cc + 257) | none => k) fun k d =>
    match g?, d.page page.toNat with
    | some _, some p => some (d.expireGuard k page.toNat p)
    | _, _ => none

/-- MBX_SEL_WRITE: a selector write (R424). -/
def execMbxSelWrite (m : Master) (same : Bool) (page : BitVec 12) (sel : BitVec 8) (s : State) : Result :=
  s.writeWord m same page.toNat 0x1F20 sel.toNat

/-- LOAD: the pair of JOB_CMD with 0x1 completes (R69, R71). (log 1 DESIGN CHOICE) -/
def execLoad (m : Master) (same : Bool) (s : State) : Result := s.writeComplement m same 0x20 0x104 1

/-- ABORT: the pair of JOB_CMD with 0x2 completes (R69). -/
def execAbort (m : Master) (same : Bool) (s : State) : Result := s.writeComplement m same 0x20 0x104 2

/-- STOP: the pair of JOB_CMD with 0x3 completes (R73). -/
def execStop (m : Master) (same : Bool) (s : State) : Result := s.writeComplement m same 0x20 0x104 3

/-- RELEASE: the pair of JOB_CMD with 0x4 completes (R388). -/
def execRelease (m : Master) (same : Bool) (s : State) : Result := s.writeComplement m same 0x20 0x104 4

/-- JOB_STOP_FRAME_WRITE: the write of JOB_STOP_FRAME_HI (R72, R84). -/
def execJobStopFrameWrite (m : Master) (same : Bool) (value : BitVec 32) (s : State) : Result :=
  s.writeWord m same 0x20 0x120 value.toNat

/-- ARM: the pair of TICK_ARM_CMD with 0b01 completes (R48). -/
def execArm (m : Master) (same : Bool) (s : State) : Result := s.writeComplement m same 0x10 0x20 1

/-- DISARM: the pair of TICK_ARM_CMD with 0b10 completes (R50). -/
def execDisarm (m : Master) (same : Bool) (s : State) : Result := s.writeComplement m same 0x10 0x20 2

/-- TICK_SYNC_CFG_WRITE: the pair of TICK_SYNC_CFG completes (R35). -/
def execTickSyncCfgWrite (m : Master) (same : Bool) (value : BitVec 32) (s : State) : Result :=
  s.writeComplement m same 0x10 0 value.toNat

/-- LEND_BEGIN: the pair of TIER_LEND_CMD with 0b01 completes (R272). -/
def execLendBegin (m : Master) (same : Bool) (s : State) : Result := s.writeComplement m same 0xB0 0x100 1

/-- LEND_END: the pair of TIER_LEND_CMD with 0b10 completes (R273). -/
def execLendEnd (m : Master) (same : Bool) (s : State) : Result := s.writeComplement m same 0xB0 0x100 2

/-- WINDOW_COMMAND: the pair of GMEM_WIN_CMD with 1 completes (R291). -/
def execWindowCommand (m : Master) (same : Bool) (s : State) : Result := s.writeComplement m same 0xC0 0x1C 1

/-- GMEM_MGMT_CANCEL: its pair completes (R307). -/
def execGmemMgmtCancel (m : Master) (same : Bool) (value : BitVec 32) (s : State) : Result :=
  s.writeComplement m same 0xC0 0x74 value.toNat

/-- GMEM_CFG_WRITE: a write of GMEM_CFG (R311). -/
def execGmemCfgWrite (m : Master) (same : Bool) (value : BitVec 32) (s : State) : Result :=
  s.writeWord m same 0xC0 0 value.toNat

/-- The page of a fabric die. -/
def fabPage (fd : Fin 10) : Nat := 0x100 + 0x10 * fd.val

/-- PORT_ENABLE: the pair of FAB_PORT_CMD with 0b01 completes (R317). -/
def execPortEnable (m : Master) (same : Bool) (fd : Fin 10) (port : Fin 8) (s : State) : Result :=
  s.writeComplement m same (fabPage fd) (4 + 0x20 * port.val) 1

/-- PORT_DISABLE: the pair of FAB_PORT_CMD with 0b10 completes (R317). -/
def execPortDisable (m : Master) (same : Bool) (fd : Fin 10) (port : Fin 8) (s : State) : Result :=
  s.writeComplement m same (fabPage fd) (4 + 0x20 * port.val) 2

/-- PROBE_SEND: the pair of FAB_PORT_CMD with 0b11 completes (R318). -/
def execProbeSend (m : Master) (same : Bool) (fd : Fin 10) (port : Fin 8) (s : State) : Result :=
  s.writeComplement m same (fabPage fd) (4 + 0x20 * port.val) 3

/-- ROUTE_COMMAND: the pair of FAB_RT_CMD with 1 completes (R330). -/
def execRouteCommand (m : Master) (same : Bool) (s : State) : Result := s.writeComplement m same 0x100 0x318 1

/-- TWIN_CFG_MODE_WRITE: the pair of TWIN_CFG completes (R374). -/
def execTwinCfgModeWrite (m : Master) (same : Bool) (value : BitVec 32) (s : State) : Result :=
  s.writeComplement m same 0x210 0 value.toNat

/-- PWR_CAP_WRITE: the pair of PWR_CAP completes (R485). -/
def execPwrCapWrite (m : Master) (same : Bool) (value : BitVec 32) (s : State) : Result :=
  s.writeComplement m same 0x250 0 value.toNat

/-- PWR_TJ_WRITE: the pair of PWR_TJ completes (R485). -/
def execPwrTjWrite (m : Master) (same : Bool) (value : BitVec 32) (s : State) : Result :=
  s.writeComplement m same 0x250 4 value.toNat

/-- SEC_QUOTE_CMD: its pair with 1 completes (R442). -/
def execSecQuoteCmd (m : Master) (same : Bool) (s : State) : Result := s.writeComplement m same 0x230 0x20 1

/-- NVME_ENABLE: a write of SNAP_NVME (R458). -/
def execNvmeEnable (m : Master) (same : Bool) (value : BitVec 32) (s : State) : Result :=
  s.writeWord m same 0x220 0 value.toNat

/-- FLASH_ERASE: the pair of HOSTIF_FLASH_CMD with 0b01 completes (R464). -/
def execFlashErase (m : Master) (same : Bool) (s : State) : Result := s.writeComplement m same 0x240 0x104 1

/-- FLASH_PROGRAM: the pair of HOSTIF_FLASH_CMD with 0b10 completes (R464). -/
def execFlashProgram (m : Master) (same : Bool) (s : State) : Result := s.writeComplement m same 0x240 0x104 2

/-- FLASH_READ: the pair of HOSTIF_FLASH_CMD with 0b11 completes (R464). -/
def execFlashRead (m : Master) (same : Bool) (s : State) : Result := s.writeComplement m same 0x240 0x104 3

end Sys2Proof.Machine
end

