-- ==== Sys2Proof/Machine/Votes.lean ====
section
/-! DEFINITION. Voted fields (R422, R423). -/

namespace Sys2Proof.Machine

open Sys2Proof

/-- Rewrite the three copies of a voted field. -/
def Dev.rewriteVote (d : Dev) (f : Fld) (n : Nat) : Dev :=
  { d with ctl := match f with
    | .tickPeriodCounts => { d.ctl with period := V3.all n }
    | .tickGuardCounts => { d.ctl with guardBand := V3.all n }
    | .jobStateCode => { d.ctl with jobState := V3.all n }
    | _ => d.ctl }

/-- Record an unresolvable vote in HUB_VOTE and HUB_DEV_FAULT (R423 step 1). -/
def Dev.noteUnresolved (d : Dev) (f : Fld) : Dev :=
  let d := ((d.flag .hubVoteUnresolved).wr .hubVoteBlock f.row.blk.code).wr .hubVoteOffset f.row.off
  let d := (((d.wr .hubDevFaultCode 0x91).wr .hubDevFaultSrc 3).wr .hubDevFaultDie 0).wr .hubDevFaultStack 0
  { d with ctl := { d.ctl with faultAddr := 0 } }

/-- What an unresolvable vote does to the job, and its fault report (R423 steps 3 to 5). -/
def Dev.voteFails (d : Dev) (k : Clock) : Dev :=
  let e := if d.job.phase.faultable then d.runFault k 0x91 3 0xFFF 0
    else if d.job.phase = .admitted && !d.job.abort then d.startAbort k else d
  if e.sec.reports = d.sec.reports then e.report 1 (d.faultReport k 0x91 3 0xFFF 0) else e

/-- Vote one field: a differing copy is rewritten and counted; without a majority R423 applies. -/
def Dev.voteField (d : Dev) (k : Clock) (v : VoteField) : Dev :=
  match v.copies.vote with
  | some n =>
    if v.copies = V3.all n then d else (d.rewriteVote v.fld n).bump .hubVoteScrubbed
  | none => ((d.noteUnresolved v.fld).rewriteVote v.fld v.truth).voteFails k

/-- Vote a field as it stands now. -/
def Dev.voteAgain (d : Dev) (k : Clock) (f : Fld) : Dev := match d.voteOf f with | some v => d.voteField k v | none => d

/-- A word with the bits of a field replaced by the value that the field is rewritten with. -/
def VoteField.into (w : Nat) (v : VoteField) : Nat :=
  w - bitRange w v.fld.row.hi v.fld.row.lo * 2 ^ v.fld.row.lo + v.value * 2 ^ v.fld.row.lo

/-- A read of a word by a master, voting the fields that its register holds. In the control cycle in which a vote fails
the read returns the rewritten value, not the state that the fault then leaves (R423). (log 20 DEDUCED) -/
def Dev.readVoted (d : Dev) (k : Clock) (m : Master) (off : Nat) : Dev × Nat :=
  match d.openPage (off / 65536) m with
  | none => (d, 0)
  | some p =>
    let reg := baseOf (off % 65536) / 4 * 4
    let vs := d.voteFields.filter fun v => (p.fields reg).any fun x => x.1 = v.fld
    let failing := vs.filter fun v => v.copies.vote.isNone
    let d := vs.foldl (fun d v => d.voteAgain k v.fld) d
    (d, failing.foldl VoteField.into (d.readReg k m off))

/-- V3_FIELD_READ: a master reads a register that holds a voted field, in the next control cycle (R422, R423).
(log 20 DEDUCED) -/
def execV3FieldRead (page : BitVec 12) (reg : BitVec 13) (s : State) : Result :=
  let holds := match s.dev.openPage page.toNat .mgmt with
    | some p => s.dev.voteFields.any fun v => (p.fields (reg.toNat / 4 * 4)).any fun x => x.1 = v.fld
    | none => false
  s.act (fun k => if holds then k.nextCc else k) fun k d =>
    if holds then
      let (d, v) := d.readVoted k .mgmt (page.toNat * 65536 + reg.toNat)
      some { d with out := { d.out with reads := d.out.reads ++ [v] } }
    else none

/-- VOTE_SCRUB: in each control cycle whose number is a multiple of 65,536 every voted field is voted (R422).
(log 20 DEDUCED) -/
def execVoteScrub (s : State) : Result :=
  s.act (fun k => k.toCc ((k.cc / 65536 + 1) * 65536)) fun k d =>
    some (d.voteFields.foldl (fun d v => d.voteAgain k v.fld) d)

end Sys2Proof.Machine
end

