-- ==== Sys2Proof/Machine/Target.lean ====
section
/-! DEFINITION. Global memory at its target and its answers, and the acceptance of a join (R286, R287, R293, R294,
R296 to R304, R307 to R310, R443). -/

namespace Sys2Proof.Machine

open Sys2Proof

/-! ### The memory of a region (Table GMEM-1, R272, R287) -/

/-- The place of offset `o` of a region, none outside its memory. (log 42 DEDUCED) -/
def Dev.regionAt (d : Dev) (region o : Nat) : Option (Loc × Nat) :=
  match region with
  | 0 => if o < 2 ^ 43 && d.hbmOk o then some (.hbm, o) else none
  | 1 => if h : o / 2 ^ 25 < 12 then some (.die ⟨o / 2 ^ 25, h⟩, o % 2 ^ 25) else none
  | 2 =>
    let a := d.rd .tierLendBase * 2 ^ 21 + o
    if o < d.rd .tierLendPages * 2 ^ 21 && d.hbmOk a then some (.hbm, a) else none
  | _ => none

/-- The bytes of a range that lie in the memory of its region, within 32 MiB from a multiple of 32 MiB: first byte of
the range, place and count. (log 38 DEDUCED) -/
def Dev.regionPart (d : Dev) (region o n : Nat) : Option (Nat × Loc × Nat × Nat) :=
  let inside := (List.range n).filter fun i => (d.regionAt region (o + i)).isSome
  match inside.head? with
  | none => none
  | some i => (d.regionAt region (o + i)).map fun (l, a) => (i, l, a, inside.length)

/-- The bytes of a range that lie in the memory of its region, cut at the ends of the die buffers. (log 42 DEDUCED) -/
def Dev.regionParts (d : Dev) (region o n : Nat) : List (Nat × Loc × Nat × Nat) :=
  (List.range (n / 2 ^ 25 + 2)).filterMap fun j =>
    let first := j * 2 ^ 25 - o % 2 ^ 25
    let end_ := min n ((j + 1) * 2 ^ 25 - o % 2 ^ 25)
    (d.regionPart region (o + first) (end_ - first)).map fun (i, l, a, m) => (first + i, l, a, m)

/-- Read a range of a region; bytes outside read as zero. -/
def Dev.regionRead (d : Dev) (region o n : Nat) : List Byte :=
  (d.regionParts region o n).foldl (fun bs (i, l, a, m) => bs.take i ++ d.locRead l a m ++ bs.drop (i + m))
    (List.replicate n 0)

/-- Write a range of a region; bytes outside are discarded. -/
def Dev.regionWrite (d : Dev) (region o : Nat) (bs : List Byte) : Dev :=
  (d.regionParts region o bs.length).foldl (fun d (i, l, a, m) =>
    (d.snapWrite l a m).locWrite l a (slice bs i m)) d

/-- The bytes of a range move from its memory, or to it (R21, R24). -/
def Dev.rangeTraffic (d : Dev) (region o n : Nat) (reads : Bool) : Dev :=
  (d.regionParts region o n).foldl
    (fun d (_, l, a, m) => if reads then d.touch (.hub 0) l a m else d.touchW (.hub 0) l a m) d

/-- Count a request with bytes outside its memory (R272, R287), its bytes on their way from the memory where it reads or
to it where it writes, and a read of a poisoned byte (R386). -/
def Dev.noteRange (d : Dev) (k : Clock) (region o n : Nat) (reads : Bool) : Dev :=
  let parts := d.regionParts region o n
  let d := if (sumBy parts fun (_, _, _, m) => m) = n then d else
    let d := d.count .gmemTgtOutside
    if region = 2 then d.bump .tierLendOutside else d
  let d := d.rangeTraffic region o n reads
  match if reads then parts.findSome? fun (_, l, a, m) => (d.poisoned l a m).map fun x => (l, x) else none with
  | some (l, x) => d.poisonFault k l x 0xE02
  | none => d

/-! ### Control space as region 0xF (R308, R413) -/

/-- Read the words that a range of control space meets, each in its own control cycle. (log 43 DEDUCED) -/
def Dev.controlRead (off : Nat) : Nat → Clock → Dev → Clock × Dev × List Byte
  | 0, k, d => (k, d, [])
  | n + 1, k, d =>
    let k := k.nextCc
    let (d, v) := if off < 2 ^ 28 then d.readVoted k .mgmt off else (d, 0)
    let (k, d, bs) := Dev.controlRead (off + 4) n k d
    (k, d, leBytes 4 v ++ bs)

/-- Write bytes to control space, split into words in ascending address, each in its own control cycle.
(log 43 DEDUCED) -/
def Dev.controlWrite (off : Nat) (bs : List Byte) : Nat → Clock → Dev → Clock × Dev
  | 0, k, d => (k, d)
  | n + 1, k, d =>
    let k := k.nextCc
    let w : MasterWrite := ⟨.mgmt, off / 65536, off % 65536, leNat (bs.take 4), off % 4 = 0 && 4 ≤ bs.length⟩
    let d := if off < 2 ^ 28 then d.masterWrite k w else d
    Dev.controlWrite (off + 4) (bs.drop 4) n k d

/-! ### Serving (R293, R294, R297, R302, R303) -/

/-- The new value of an atomic (Table GMEM-4). -/
def atomicNew (aop old sa sb : Nat) : Nat :=
  match aop with
  | 0 => (old + sa) % 2 ^ 32
  | 1 => (old + sa) % 2 ^ 64
  | 2 => sa
  | 3 => if old = sb then sa else old
  | 4 => if twos 64 sa < twos 64 old then sa else old
  | 5 => if twos 64 old < twos 64 sa then sa else old
  | _ => old

/-- The frame that counts as open at the target (R302). -/
def Dev.openFrameNumber (d : Dev) : Nat := d.frame.number

/-- The replay cache with room for one more entry, none where every entry is too young (R302). -/
def Gmem.cacheRoom (g : Gmem) (frame : Nat) : Option (List Replay) :=
  if g.cache.length < 4096 then some g.cache
  else
    match (g.cache.map (·.frame)).min? with
    | none => some g.cache
    | some f =>
      if f + 2 ≤ frame then
        match g.cache.findIdx? fun e => e.frame = f with
        | some i => some (g.cache.eraseIdx i)
        | none => none
      else none

/-- What a request answered: status, old value, bytes. -/
structure Answer where
  status : Nat
  old : Nat
  data : List Byte
  deriving DecidableEq, Repr

/-- The place of a request in its source's sequence (Table GMEM-5). -/
def Dev.sourceOf (d : Dev) (p : Packet) : GSource :=
  (d.gmem.sources.find? fun x => x.key = p.key && x.node = p.src.toNat).getD ⟨p.key, p.src.toNat, 0, []⟩

/-- Keep a source's sequence. -/
def Dev.setSource (d : Dev) (x : GSource) : Dev :=
  d.modGmem fun g => { g with sources := (g.sources.filter fun y => !(y.key = x.key && y.node = x.node)) ++ [x] }

/-- Read the data of a load. -/
def Dev.serveLoad (d : Dev) (k : Clock) (p : Packet) : Clock × Dev × Answer :=
  let o := p.gOff
  let n := p.gLen
  if p.gRegion = 15 then
    let (k, d, bs) := Dev.controlRead (o / 4 * 4) (ceilDiv (o % 4 + n) 4) k d
    (k, if o + n ≤ 2 ^ 28 then d else d.count .gmemTgtOutside, ⟨0, 0, slice bs (o % 4) n⟩)
  else (k, d.noteRange k p.gRegion o n true, ⟨0, 0, d.regionRead p.gRegion o n⟩)

/-- A write that the job asks of its own device belongs to the stream of GMEM, in the frame of the instruction that asked
for it; those of other nodes are not hashed (R310, R378). (log 49 DEDUCED) -/
def Dev.ownWrite (d : Dev) (p : Packet) (f : Dev → Dev) : Dev :=
  match d.gmem.reqs.find? fun r => !r.mgmt && r.node = d.node && r.seq = p.seq.toNat with
  | some r => if p.src.toNat = d.node && p.key = d.jobKey then d.hashed 0xE02 r.frame f else f d
  | none => f d

/-- Apply a store. -/
def Dev.serveStore (d : Dev) (k : Clock) (p : Packet) : Clock × Dev × Answer :=
  let o := p.gOff
  let n := p.gLen
  if p.gRegion = 15 then
    let (k, d) := Dev.controlWrite o p.gData (ceilDiv n 4) k d
    (k, if o + n ≤ 2 ^ 28 then d else d.count .gmemTgtOutside, ⟨0, 0, []⟩)
  else (k, (d.noteRange k p.gRegion o n false).ownWrite p fun d => d.regionWrite p.gRegion o p.gData, ⟨0, 0, []⟩)

/-- Apply an atomic, or answer it BUSY; one to control space is answered UNKNOWN (R302, R308). -/
def Dev.serveAtomic (d : Dev) (k : Clock) (p : Packet) : Dev × Answer :=
  if p.gRegion = 15 then (d, ⟨3, 0, []⟩)
  else
    match d.gmem.cacheRoom d.openFrameNumber with
    | none => (d.count .gmemAtomBusy, ⟨2, 0, []⟩)
    | some cache =>
      let o := p.gOff
      let n := p.gLen
      let d := d.noteRange k p.gRegion o n true
      let old := leNat (d.regionRead p.gRegion o n)
      let new := atomicNew (field p.payload 12 1) old (field p.payload 16 8) (field p.payload 24 8)
      let d := (d.rangeTraffic p.gRegion o n false).ownWrite p fun d => d.regionWrite p.gRegion o (leBytes n new)
      (d.modGmem fun g => { g with cache := cache ++ [⟨p.src.toNat, p.seq.toNat, old, d.openFrameNumber⟩] }, ⟨0, old, []⟩)

/-- The payload of an answer; it carries no more data than a packet holds (Tables GMEM-6 to GMEM-8, R319).
(log 81 DESIGN CHOICE) -/
def answerBytes (p : Packet) (a : Answer) : List Byte :=
  leBytes 8 p.gAddr ++ leBytes 4 p.seq.toNat ++ [BitVec.ofNat 8 a.status, BitVec.ofNat 8 (field p.payload 13 1), 0, 0] ++
    leBytes 8 a.old ++ List.replicate 40 0 ++ a.data.take gmemCarries

/-- Send an answer, counting its payload (R309, R310). -/
def Dev.answer (d : Dev) (k : Clock) (p : Packet) (a : Answer) : Dev :=
  let bs := answerBytes p a
  (d.gmemWork (ceilDiv (padded bs.length) 256)).originate k ⟨p.key, p.src.toNat, if p.chan = 3 then 3 else 1,
    p.op.toNat + 0x80, p.seq.toNat, 0, bs, some p.flowlet.toNat, [(.hub 0, bs.length)]⟩

/-- Count the payload of a packet that the GMEM unit receives (R310). (log 38 DEDUCED) -/
def Dev.countTaken (d : Dev) (p : Packet) : Dev := d.gmemWork (ceilDiv p.payload.length 256)

/-- Count a served request (R310). -/
def Dev.countServed (d : Dev) : Dev := (d.count .gmemReqIn).gmemWork 8

/-- Serve the request that its source's sequence expects, and answer it; E stays where the answer is BUSY.
(log 42 DEDUCED, 43 DEDUCED) -/
def Dev.serve (d : Dev) (k : Clock) (p : Packet) : Clock × Dev :=
  let (k, d, a) := match p.op.toNat with
    | 0x10 => d.serveLoad k p
    | 0x11 => d.serveStore k p
    | _ => let (d, a) := d.serveAtomic k p; (k, d, a)
  if a.status = 2 then (k, d.answer k p a)
  else
    let x := d.sourceOf p
    let d := d.setSource { x with expect := (x.expect + 1) % 2 ^ 32 }
    (k, d.countServed.answer k p a)

/-- Answer a duplicate; an atomic to control space is UNKNOWN every time (R297, R303, R308). -/
def Dev.serveAgain (d : Dev) (k : Clock) (p : Packet) : Clock × Dev :=
  let d := d.count .gmemDupIn
  match p.op.toNat with
  | 0x10 => let (k, d, a) := d.serveLoad k p; (k, d.answer k p { a with status := 1 })
  | 0x11 => (k, d.answer k p ⟨1, 0, []⟩)
  | _ =>
    match d.gmem.cache.find? fun e => p.gRegion ≠ 15 && e.node = p.src.toNat && e.seq = p.seq.toNat with
    | some e => (k, (d.count .gmemReplayHits).answer k p ⟨1, e.old, []⟩)
    | none => (k, d.answer k p ⟨3, 0, []⟩)

/-- Serve held requests that their source's sequence has reached (R297). -/
def Dev.serveHeld : Nat → Clock → Dev → Packet → Clock × Dev
  | 0, k, d, _ => (k, d)
  | n + 1, k, d, p =>
    let x := d.sourceOf p
    match x.held.find? fun q => q.seq.toNat = x.expect with
    | none => (k, d)
    | some q =>
      let (k, d) := (d.setSource { x with held := x.held.erase q }).serve k q
      Dev.serveHeld n k d p

/-- Requests held from every source. -/
def Dev.heldRequests (d : Dev) : Nat := sumBy d.gmem.sources fun x => x.held.length

/-- A request in its place of its source's sequence (Table GMEM-5). (log 42 DEDUCED) -/
def Dev.takeRequest (d : Dev) (k : Clock) (p : Packet) : Clock × Dev :=
  let d := d.countTaken p
  let x := d.sourceOf p
  if p.seq.toNat = x.expect then
    let (k, d) := d.serve k p
    Dev.serveHeld 256 k d p
  else if seqBefore p.seq.toNat x.expect then d.serveAgain k p
  else if x.held.any fun q => q.seq = p.seq then (k, d)
  else if d.heldRequests < 256 then (k, d.setSource { x with held := x.held ++ [p] })
  else (k, d.count .gmemHoldDrop)

/-- The key of a request lets it reach its region (Table GMEM-1, R287, R308). (log 42 DEDUCED) -/
def Dev.requestKey (d : Dev) (p : Packet) : Bool :=
  match p.gRegion with
  | 2 => p.chan ≠ 3 && d.tier.lendKey = some p.key
  | 15 => p.chan = 3 && p.key = d.mgmtKey
  | _ => p.chan ≠ 3 && d.job.keyed && p.key = d.jobKey

/-- A command that may take more than one control cycle: it answers the time at its end. -/
def State.run (s : State) (f : Clock → Dev → Option (Clock × Dev)) : Result :=
  if s.dev.clocked then
    match f s.clk s.dev with
    | some (k, d) => .next { s with clk := k, dev := d.sendRaised s.dev.sec.reports k }
    | none => .next s
  else .next s

/-- When a request is taken: of two in one control cycle the lower source node goes first, so one that follows a higher
source's in the same cycle is taken in the next (R299). (log 82 DESIGN CHOICE) -/
def Gmem.turn (g : Gmem) (k : Clock) (src : Nat) : Clock :=
  if g.latest.1 = k.cc && src < g.latest.2 then k.nextCc else k

/-- GMEM_REQUEST_ARRIVE: a request of another node, or of this one, reaches the GMEM unit (R287, R297, R308). One whose
key does not fit its region is a stranger, and one on the management channel without its MAC is dropped.
(log 74 DESIGN CHOICE) -/
def execGmemRequestArrive (p : Packet) (s : State) : Result :=
  s.run fun k d =>
    if !(0x10 ≤ p.op.toNat && p.op.toNat ≤ 0x12) then none
    else if !d.requestKey p then some (k, d.count .fabRtStranger 1 (d.homeDie p.src.toNat))
    else if p.chan = 3 && !d.macOk k p then some (k, d.macDrop)
    else
      let k := d.gmem.turn k p.src.toNat
      some ((d.modGmem fun g => { g with latest := (k.cc, p.src.toNat) }).takeRequest k p)

/-! ### Answers (R298, R303, R304, R307) -/

/-- A load's bytes reach the core that asked for them, from byte `off` on, and its GLD may retire once no part is
outstanding (Table GMEM-3, R378). Bytes whose Pail has been freed meanwhile raise TILE_BOUNDS (R259). -/
def Dev.loadDone (d : Dev) (k : Clock) (c : Fin 48) (seq off : Nat) (bs : List Byte) : Dev :=
  match d.cores[c].entries.find? fun e => e.seq = seq with
  | none => d
  | some e =>
    let d := match d.gmemLocal c e with
      | some (l, a) => (d.hashed 0xE02 e.frame fun d => d.put l (a + off) bs).touchW (.hub 0) l (a + off) bs.length
      | none => d.insFault k c 9 e.word e.index
    if d.gmem.reqs.any fun r => match r.owner with | .core x n _ _ => x = c.val && n = seq | _ => false then d
    else d.modCore c fun x => x.updEntry seq fun e => { e with done := true }

/-- A request of a move has been answered: a load's bytes are kept until the move ends, and behind the last header of its
tiles comes what they tell to read (R155, R274). -/
def Dev.pieceDone (d : Dev) (k : Clock) (r : GReq) (i off : Nat) (bs : List Byte) : Dev :=
  match d.tier.objs[i]? with
  | none => d
  | some o =>
    match o.move with
    | none => d
    | some m =>
      let got := if r.op = 0 then Memory.writeN m.got off (bs.take (o.size - off)) else m.got
      let m := { m with open_ := m.open_ - 1, got := got }
      (if m.heads && m.todo.isEmpty && m.open_ = 0 then d.loadRest i o m
        else d.modObj i fun o => { o with move := some m }).pumpTier k 8192

/-- What an acknowledged request's owner gets. -/
def Dev.acknowledge (d : Dev) (k : Clock) (r : GReq) (p : Packet) : Dev :=
  let bs := slice p.payload 64 r.len
  match r.owner with
  | .core c seq _ off =>
    let c := Fin.ofNat 48 c
    if r.op = 0 then d.loadDone k c seq off bs
    else if r.op = 2 then d.finish c seq (BitVec.ofNat 64 (field p.payload 16 8))
    else d
  | .tier i off => d.pieceDone k r i off bs
  | .image kind frame i off => d.imagePiece k kind frame i off r.addr bs
  | .restored => d
  | .agent _ => if r.op = 0 then { d with out := { d.out with reads := d.out.reads ++ [leNat bs] } } else d

/-- An answer to no request that waits (R304, R307). -/
def Dev.lateAnswer (d : Dev) (node seq : Nat) (mgmt : Bool) : Dev :=
  if mgmt && d.gmem.cancelled.contains (node, seq) then
    (d.modGmem fun g => { g with cancelled := g.cancelled.erase (node, seq) }).count .gmemMgmtLate
  else d.count .gmemLateResp

/-- The core and window of a request's fault (Table GMEM-9). (log 43 DEDUCED) -/
def GReq.blame (r : GReq) : Nat × Nat := match r.owner with | .core c _ w _ => (c, w) | _ => (0x3F, 0)

/-- GMEM_RESPONSE_ARRIVE: an answer acknowledges its request; BUSY leaves it to be repeated, and UNKNOWN faults a job
(R298, R303, R304). With the answer of a request to the own node a frame may be finished (R381). -/
def execGmemResponseArrive (p : Packet) (s : State) : Result :=
  s.now fun k d =>
    let mgmt := p.chan = 3
    let node := p.src.toNat
    let seq := field p.payload 8 4
    let status := field p.payload 12 1
    if !(0x90 ≤ p.op.toNat && p.op.toNat ≤ 0x92) then none
    else if !(if mgmt then p.key = d.mgmtKey else d.job.keyed && p.key = d.jobKey) then
      some (d.count .fabRtStranger 1 (d.homeDie node))
    else if mgmt && !d.macOk k p then some d.macDrop
    else
      let d := d.countTaken p
      match d.gmem.reqs.find? fun r => r.mgmt = mgmt && r.node = node && r.seq = seq with
      | none => some (d.lateAnswer node seq mgmt)
      | some r =>
        if status = 2 then some d
        else
          let d := d.modGmem fun g => g.drop r
          let d := if status = 3 then (if mgmt then d else d.gmemFault k 0x32 5 r.blame.1 r.blame.2 node r.addr)
            else d.acknowledge k r p
          some (((if d.job.phase = .faulted then d else d.pumpAll k).noteRoomWait k).lsStep k)

/-! ### JOIN_ACCEPT (R443) -/

/-- A register that the join writes as a completed pair of the hub firmware, which aborts a sequence that is open on the
page (R420). (log 64 DEDUCED) -/
def Dev.joinWrite (d : Dev) (k : Clock) (page off v : Nat) : Dev :=
  match d.page page with
  | none => d
  | some p =>
    let d := (d.expireGuard k page p).breakGuard page p .hub
    let d := (d.stage k ⟨.hub, page, off, v, true⟩ p).closeGuard page
    ((d.writePair k p off v).1).noteLast p ⟨.hub, page, off + 0x2000, v, true⟩ 0 .hub

/-- JOIN_ACCEPT: node number, management epoch and seed are written, and the session key holds from then on; one that
is not accepted is dropped (R443). -/
def execJoinAccept (p : Packet) (s : State) : Result :=
  s.now fun k d =>
    if p.op ≠ 0x72 then none
    else if !d.acceptsJoin p then some d.macDrop
    else
      let c := agentContent p
      let d := d.joinWrite k 0x230 0x14 (field c 0 2)
      let d := d.joinWrite k 0x100 0x20C (field c 2 2)
      let d := d.joinWrite k 0x100 0x204 (field c 4 4)
      let d := d.joinWrite k 0x100 0x208 (field c 8 4)
      some (d.startSession p)

end Sys2Proof.Machine
end

