-- ==== Sys2Proof/Machine/Queue.lean ====
section
/-! DEFINITION. The queues of the engines: leaving a queue head and retiring (R78, R88 to R91, R113, R380). -/

namespace Sys2Proof.Machine

open Sys2Proof

/-! ### Starting (R91, R113, R378) -/

/-- Start an instruction at the head of its engine's queue, where that engine finds it. -/
def Dev.startAt (d : Dev) (k : Clock) (c : Fin 48) (g : Eng) (e : Entry) : Started :=
  match g with
  | .array => d.startArray k c e
  | .pairing => d.startPair k c e
  | .loader => d.startLoader k c e
  | .row => d.startRow k c e
  | .vec => d.startVec k c e
  | .sep => d.releaseSep c e
  | .churn => d.releaseChurn c e
  | .xch => d.startXch k c e
  | .coll _ => d.releaseColl c e
  | .gmem => d.startGmem k c e
  | .pail => d.startPail k c e
  | .tier => d.startTier k c e

/-- Change the device that a start answers. -/
def Started.map (r : Started) (f : Dev → Dev) : Started :=
  match r with
  | .raised d => .raised (f d)
  | .released d => .released (f d)
  | .go d due done => .go (f d) due done
  | r => r

/-- The engines whose writes at a start belong to their own stream (Table TWIN-4). -/
def Eng.streams : Eng → Bool
  | .array => true | .loader => true | .row => true | .vec => true
  | _ => false

/-- Start an instruction, its writes attributed to its engine's stream and its frame (R378). -/
def Dev.startHashed (d : Dev) (k : Clock) (c : Fin 48) (g : Eng) (e : Entry) : Started :=
  if d.lockstep && g.streams then
    let d := d.modTwin fun t => { t with who := some (engineId (some g) c, e.frame) }
    (d.startAt k c g e).map fun d => d.modTwin fun t => { t with who := none }
  else d.startAt k c g e

/-- What the units that keep waits do after a queue has changed (R258, R295, R348). (log 32 DEDUCED) -/
def Dev.noteWaits (d : Dev) (k : Clock) (g : Eng) : Dev :=
  match g with
  | .gmem => d.noteRoomWait k
  | .coll _ => d.noteCollWait k
  | .pail => d.notePailWait k
  | _ => d

/-- An instruction has left its queue head. -/
def Dev.afterStart (d : Dev) (k : Clock) (c : Fin 48) (g : Eng) (e : Entry) : Dev :=
  let d := match g with
    | .xch => d.afterXchStart k c e
    | .tier => d.runTier k
    | _ => d
  (d.noteWaits k g).lsStep k

/-! ### Retiring (R78, R88, R90) -/

/-- The work of MM.PAIR on its operands, for one that is predicated off (R78, R168). (log 30 DEDUCED) -/
def Dev.pairOffWork (d : Dev) (c : Fin 48) (e : Entry) : Nat :=
  let ta := e.tda
  let tb := e.tdb
  let pa := rect 0 0 e.nr e.nc
  let pb := rect 0 0 (Td.rows tb) e.nc
  match d.checkTiles c [(ta, pa), (tb, pb)] [] with
  | some _ => 0
  | none =>
    let ts := pairTriples e (pa.map fun (r, q) => d.storedMask c ta r q) (pb.map fun (r, q) => d.storedMask c tb r q)
      (Td.rows tb)
    (PairRun.empty.follow 0 ts).busy 0

/-- A predicated-off instruction counts toward its engine's declared work as if it had executed (R78).
(log 30 DEDUCED) -/
def Dev.countOff (d : Dev) (c : Fin 48) (g : Eng) (e : Entry) : Dev :=
  let own := fun (n : Nat) => d.modCore c fun x => x.addWork g.workClass n
  match g with
  | .array => own (d.cores[c].arrayOffWork e)
  | .pairing => own (d.pairOffWork c e)
  | .loader => own (d.loaderOffWork c e)
  | .row => own e.rowAc
  | .vec => own e.vecAc
  | .gmem => d.addWork 0xE 2 (d.gmemOffWork e)
  | .pail => if wOp e.word = 4 then d else d.addWork 0xE 3 4
  | .xch => d.xchOffWork c e
  | .coll _ => d.collOffWork c e
  | .tier => d.tierOffWork e
  | .sep => d
  | .churn => d

/-- The scalars and the descriptor that an instruction writes as it retires: SD of PALLOC and GATOM, and the target of
TDPAIL (R90, Table ENC-13). -/
def Core.retireWrites (x : Core) (g : Eng) (e : Entry) : Core :=
  if !e.on then x
  else if g = .pail && wOp e.word = 4 then
    let td := BitVec.ofNat 6 (wbits e.word 111 106)
    let h := (e.sc (wbits e.word 105 101)).toNat % 2 ^ 32
    x.setT td (tdPut (tdPut (x.t td) 3 0 3) 107 64 h)
  else (scalWrites e.word).foldl (fun x r => x.setS (BitVec.ofNat 5 r) e.result) x

/-- An instruction retires: it leaves the core, and a later one may use what it wrote (R88, R90, R91). A frame's close
waits for it unless it may stay outstanding across the close (R41). -/
def Dev.retire (d : Dev) (k : Clock) (c : Fin 48) (g : Eng) (e : Entry) : Dev :=
  let d := if e.on then d else d.countOff c g e
  let d := d.modCore c fun x => (x.retireWrites g e).dropEntry e.seq
  let d := if g = .xch then d.retireXch k c e else d
  let d := if g.outlives then d else d.workedTo k.units
  (d.noteWaits k g).lsStep k

/-! ### The commands -/

/-- The head of an engine's queue does what its state lets it: one that is off retires; one whose dependencies have
retired starts, waits, or raises a fault; a stream with too many unconfirmed chunks holds its engine. None where nothing
changes. An instruction that raises a fault leaves the queue and takes no effect (R113). -/
def Dev.atHead (d : Dev) (k : Clock) (c : Fin 48) (g : Eng) (e : Entry) : Option Dev :=
  let stream := engineId (some g) c
  let gone := fun (d : Dev) => d.modCore c fun x => x.updEntry e.seq fun i => { i with stage := .running }
  if !e.on then (if g = .sep || g = .churn then none else some (d.retire k c g e))
  else if !d.cores[c].depsMet e then none
  else if g.streams && d.lsHolds stream then some (d.lsHoldFrom k stream)
  else match d.startHashed k c g e with
    | .wait => some (d.noteWaits k g)
    | .fault cause => some (gone (d.insFault k c cause e.word e.index))
    | .poison l a => some (gone (d.poisonFault k l a stream))
    | .raised e => some (gone e)
    | .released d => some ((d.modCore c fun x => x.updEntry e.seq fun i => { i with done := true }).noteWaits k g)
    | .go d due done => some ((d.modCore c fun x => x.updEntry e.seq fun i =>
        { i with stage := .running, due := due, done := i.done || done }).afterStart k c g e)

/-- The engines work: a job is RUNNING or DRAINING, and no ABORT is pending. (log 31 DEDUCED) -/
def Dev.working (d : Dev) : Bool := (d.job.phase = .running || d.job.phase = .draining) && !d.job.abort

/-- QUEUE_HEAD_RELEASE: the instruction at the head of an engine's queue leaves it if it may (R91). TIER requests of one
control cycle go in ascending core number (R282). (log 7 DESIGN CHOICE, 31 DEDUCED) -/
def execQueueHeadRelease (c : Fin 48) (g : Eng) (s : State) : Result :=
  s.act (fun k => if g = .tier then s.dev.tier.turn k c.val else k) fun k d =>
    if !d.working && !d.faultedNow k c then none
    else match d.cores[c].next g with
      | none => none
      | some e => d.atHead k c g e

/-- The instruction of an engine that retires next: of those whose work is known to end, the one that ends first. -/
def Core.retiring (x : Core) (g : Eng) : Option Entry :=
  let es := (x.runningEntries g).filter fun e => e.done
  match (es.map (·.due)).min? with
  | none => none
  | some u => es.find? fun e => e.due = u

/-- INSTRUCTION_RETIRE: an instruction of an engine completes its work and retires; time passes to the end of its work
(R88). (log 7 DESIGN CHOICE, 31 DEDUCED) -/
def execInstructionRetire (c : Fin 48) (g : Eng) (s : State) : Result :=
  let e? := if s.dev.working then s.dev.cores[c].retiring g else none
  s.act (fun k => match e? with | some e => k.toUnit (s.dev.dueUnit c e) | none => k) fun k d => e?.map fun e => d.retire k c g e

end Sys2Proof.Machine
end

