-- ==== Sys2Proof/Machine/Dispatch.lean ====
section
/-! DEFINITION. One arm for each command: the one place where a command meets its meaning. -/

namespace Sys2Proof.Machine

open Sys2Proof

/-- The effect of a command on everything but the queue of waiting commands. (log 73 DESIGN CHOICE) -/
def exec (i : Instr) (s : State) : Host.Outcome State Fault Refusal :=
  match i with
  | .sadd core psel sd sa sb imm imm32 => Sys2Proof.Machine.execSadd core psel sd sa sb imm imm32 s
  | .ssub core psel sd sa sb imm imm32 => Sys2Proof.Machine.execSsub core psel sd sa sb imm imm32 s
  | .smul core psel sd sa sb imm imm32 => Sys2Proof.Machine.execSmul core psel sd sa sb imm imm32 s
  | .sand core psel sd sa sb imm imm32 => Sys2Proof.Machine.execSand core psel sd sa sb imm imm32 s
  | .sor core psel sd sa sb imm imm32 => Sys2Proof.Machine.execSor core psel sd sa sb imm imm32 s
  | .sxor core psel sd sa sb imm imm32 => Sys2Proof.Machine.execSxor core psel sd sa sb imm imm32 s
  | .sshl core psel sd sa sb imm imm32 => Sys2Proof.Machine.execSshl core psel sd sa sb imm imm32 s
  | .sshr core psel sd sa sb imm imm32 => Sys2Proof.Machine.execSshr core psel sd sa sb imm imm32 s
  | .ssra core psel sd sa sb imm imm32 => Sys2Proof.Machine.execSsra core psel sd sa sb imm imm32 s
  | .smovi core psel sd imm64 => Sys2Proof.Machine.execSmovi core psel sd imm64 s
  | .scmp core psel pd cond sa sb imm imm32 => Sys2Proof.Machine.execScmp core psel pd cond sa sb imm imm32 s
  | .pset core psel pd pa pb pop => Sys2Proof.Machine.execPset core psel pd pa pb pop s
  | .tdset core psel td fld sa add => Sys2Proof.Machine.execTdset core psel td fld sa add s
  | .tdcopy core psel tdd tda => Sys2Proof.Machine.execTdcopy core psel tdd tda s
  | .loop core psel count body iter si => Sys2Proof.Machine.execLoop core psel count body iter si s
  | .syncBar core psel mask id => Sys2Proof.Machine.execSyncBar core psel mask id s
  | .syncBarRelease core => Sys2Proof.Machine.execSyncBarRelease core s
  | .fenceEng core psel cmask => Sys2Proof.Machine.execFenceEng core psel cmask s
  | .fenceGmem core psel scope sa => Sys2Proof.Machine.execFenceGmem core psel scope sa s
  | .fenceRelease core => Sys2Proof.Machine.execFenceRelease core s
  | .nop core psel => Sys2Proof.Machine.execNop core psel s
  | .tickEnd core psel => Sys2Proof.Machine.execTickEnd core psel s
  | .tickWait core psel src sa offs => Sys2Proof.Machine.execTickWait core psel src sa offs s
  | .tickWaitRelease core => Sys2Proof.Machine.execTickWaitRelease core s
  | .tickFrame core psel sd se => Sys2Proof.Machine.execTickFrame core psel sd se s
  | .tickNow core psel sd => Sys2Proof.Machine.execTickNow core psel sd s
  | .moveTile core psel tdd tda o z rnd => Sys2Proof.Machine.execMoveTile core psel tdd tda o z rnd s
  | .moveFill core psel tdd o z ss => Sys2Proof.Machine.execMoveFill core psel tdd o z ss s
  | .mmLoad core psel tda o z => Sys2Proof.Machine.execMmLoad core psel tda o z s
  | .arrayFillDone core => Sys2Proof.Machine.execArrayFillDone core s
  | .mmRun core psel tda o z accset acc skim skimAt st => Sys2Proof.Machine.execMmRun core psel tda o z accset acc skim skimAt st s
  | .mmStore core psel tdd o z rnd accset => Sys2Proof.Machine.execMmStore core psel tdd o z rnd accset s
  | .mmPair core psel tda tdb z accset acc => Sys2Proof.Machine.execMmPair core psel tda tdb z accset acc s
  | .rowSmax core psel tdd tda z rnd stat ss => Sys2Proof.Machine.execRowSmax core psel tdd tda z rnd stat ss s
  | .rowNorm core psel tdd tda tdc z rnd stat ss nkind => Sys2Proof.Machine.execRowNorm core psel tdd tda tdc z rnd stat ss nkind s
  | .rowSmaxB core psel tdd tda tdb z rnd stat recomp ss => Sys2Proof.Machine.execRowSmaxB core psel tdd tda tdb z rnd stat recomp ss s
  | .rowNormB core psel tdd tda tdb tdc z rnd stat recomp ss nkind => Sys2Proof.Machine.execRowNormB core psel tdd tda tdb tdc z rnd stat recomp ss nkind s
  | .vadd core psel tdd tda tdb z rnd => Sys2Proof.Machine.execVadd core psel tdd tda tdb z rnd s
  | .vmul core psel tdd tda tdb z rnd => Sys2Proof.Machine.execVmul core psel tdd tda tdb z rnd s
  | .vfma core psel tdd tda tdb tdc z rnd => Sys2Proof.Machine.execVfma core psel tdd tda tdb tdc z rnd s
  | .vscale core psel tdd tda z rnd ss => Sys2Proof.Machine.execVscale core psel tdd tda z rnd ss s
  | .vact core psel tdd tda z rnd fn => Sys2Proof.Machine.execVact core psel tdd tda z rnd fn s
  | .vamax core psel tda z ss => Sys2Proof.Machine.execVamax core psel tda z ss s
  | .vgate core psel tdd tda tdb z rnd => Sys2Proof.Machine.execVgate core psel tdd tda tdb z rnd s
  | .vopt core psel tdd tda tdb tdc z rnd ss fn => Sys2Proof.Machine.execVopt core psel tdd tda tdb tdc z rnd ss fn s
  | .sepSelect core psel tdd tda layer e k shared gate sn => Sys2Proof.Machine.execSepSelect core psel tdd tda layer e k shared gate sn s
  | .sepHash core psel tdd tda layer e k salt => Sys2Proof.Machine.execSepHash core psel tdd tda layer e k salt s
  | .dieCollectiveStart die eng => Sys2Proof.Machine.execDieCollectiveStart die eng s
  | .capacityVectorArrive die => Sys2Proof.Machine.execCapacityVectorArrive die s
  | .capacityWriteBackEnd die => Sys2Proof.Machine.execCapacityWriteBackEnd die s
  | .churnSort core psel tdd tda buckets key layer => Sys2Proof.Machine.execChurnSort core psel tdd tda buckets key layer s
  | .churnRestore core psel tdd tda tdb layer => Sys2Proof.Machine.execChurnRestore core psel tdd tda tdb layer s
  | .xchDispatch core psel tda slot sg => Sys2Proof.Machine.execXchDispatch core psel tda slot sg s
  | .xchRecv core psel tdd slot => Sys2Proof.Machine.execXchRecv core psel tdd slot s
  | .xchReturn core psel tda slot => Sys2Proof.Machine.execXchReturn core psel tda slot s
  | .xchCombine core psel tdd slot sg => Sys2Proof.Machine.execXchCombine core psel tdd slot sg s
  | .collBcast core psel tda desc => Sys2Proof.Machine.execCollBcast core psel tda desc s
  | .collReduce core psel tdd tda desc => Sys2Proof.Machine.execCollReduce core psel tdd tda desc s
  | .collWait core psel desc => Sys2Proof.Machine.execCollWait core psel desc s
  | .gld core psel tdd sl win so len => Sys2Proof.Machine.execGld core psel tdd sl win so len s
  | .gst core psel tda sl win so len => Sys2Proof.Machine.execGst core psel tda sl win so len s
  | .gatom core psel sd sa sb win so aop => Sys2Proof.Machine.execGatom core psel sd sa sb win so aop s
  | .palloc core psel sd sa => Sys2Proof.Machine.execPalloc core psel sd sa s
  | .pfree core psel sa => Sys2Proof.Machine.execPfree core psel sa s
  | .pshare core psel sa sb => Sys2Proof.Machine.execPshare core psel sa sb s
  | .tdpail core psel td sa => Sys2Proof.Machine.execTdpail core psel td sa s
  | .tpromote core psel sa tier => Sys2Proof.Machine.execTpromote core psel sa tier s
  | .tevict core psel sa tier => Sys2Proof.Machine.execTevict core psel sa tier s
  | .ttouch core psel sa => Sys2Proof.Machine.execTtouch core psel sa s
  | .twait core psel sa => Sys2Proof.Machine.execTwait core psel sa s
  | .queueHeadRelease core eng => Sys2Proof.Machine.execQueueHeadRelease core eng s
  | .instructionRetire core eng => Sys2Proof.Machine.execInstructionRetire core eng s
  | .pailRequestApply core => Sys2Proof.Machine.execPailRequestApply core s
  | .load master same => Sys2Proof.Machine.execLoad master same s
  | .admissionEnd at_ => Sys2Proof.Machine.execAdmissionEnd at_ s
  | .restoreEnd at_ => Sys2Proof.Machine.execRestoreEnd at_ s
  | .abort master same => Sys2Proof.Machine.execAbort master same s
  | .stop master same => Sys2Proof.Machine.execStop master same s
  | .release master same => Sys2Proof.Machine.execRelease master same s
  | .releaseZeroingEnd at_ => Sys2Proof.Machine.execReleaseZeroingEnd at_ s
  | .jobStopFrameWrite master same value => Sys2Proof.Machine.execJobStopFrameWrite master same value s
  | .arm master same => Sys2Proof.Machine.execArm master same s
  | .disarm master same => Sys2Proof.Machine.execDisarm master same s
  | .launchCountReached => Sys2Proof.Machine.execLaunchCountReached s
  | .frameOpen => Sys2Proof.Machine.execFrameOpen s
  | .guardStart => Sys2Proof.Machine.execGuardStart s
  | .frameClose => Sys2Proof.Machine.execFrameClose s
  | .drainEnd => Sys2Proof.Machine.execDrainEnd s
  | .teardownComplete at_ => Sys2Proof.Machine.execTeardownComplete at_ s
  | .throttleStep => Sys2Proof.Machine.execThrottleStep s
  | .herdReadyOffset => Sys2Proof.Machine.execHerdReadyOffset s
  | .herdAdd => Sys2Proof.Machine.execHerdAdd s
  | .herdCancel => Sys2Proof.Machine.execHerdCancel s
  | .herdChangeStops => Sys2Proof.Machine.execHerdChangeStops s
  | .herdHold => Sys2Proof.Machine.execHerdHold s
  | .herdRelease => Sys2Proof.Machine.execHerdRelease s
  | .herdFlush => Sys2Proof.Machine.execHerdFlush s
  | .tierMoveCommit obj => Sys2Proof.Machine.execTierMoveCommit obj s
  | .snapCutComplete => Sys2Proof.Machine.execSnapCutComplete s
  | .nvmeCompletion status => Sys2Proof.Machine.execNvmeCompletion status s
  | .mirrorData p => Sys2Proof.Machine.execMirrorData p s
  | .mirrorCommit p => Sys2Proof.Machine.execMirrorCommit p s
  | .gmemRequestArrive p => Sys2Proof.Machine.execGmemRequestArrive p s
  | .gmemResponseArrive p => Sys2Proof.Machine.execGmemResponseArrive p s
  | .gmemRetry node seq => Sys2Proof.Machine.execGmemRetry node seq s
  | .gmemTimeout node seq => Sys2Proof.Machine.execGmemTimeout node seq s
  | .gmemMgmtCancel master same value => Sys2Proof.Machine.execGmemMgmtCancel master same value s
  | .windowCommand master same => Sys2Proof.Machine.execWindowCommand master same s
  | .gmemCfgWrite master same value => Sys2Proof.Machine.execGmemCfgWrite master same value s
  | .lendBegin master same => Sys2Proof.Machine.execLendBegin master same s
  | .lendEnd master same => Sys2Proof.Machine.execLendEnd master same s
  | .lendZeroingEnd at_ => Sys2Proof.Machine.execLendZeroingEnd at_ s
  | .timeMessage p => Sys2Proof.Machine.execTimeMessage p s
  | .timestampBlock port t1 t2 t3 t4 status node => Sys2Proof.Machine.execTimestampBlock port t1 t2 t3 t4 status node s
  | .timestampSend port => Sys2Proof.Machine.execTimestampSend port s
  | .syncParentTimeout => Sys2Proof.Machine.execSyncParentTimeout s
  | .tickSyncCfgWrite master same value => Sys2Proof.Machine.execTickSyncCfgWrite master same value s
  | .linkBlockReceive port body trailer => Sys2Proof.Machine.execLinkBlockReceive port body trailer s
  | .ackTimeout port => Sys2Proof.Machine.execAckTimeout port s
  | .pmdLockLoss port => Sys2Proof.Machine.execPmdLockLoss port s
  | .portTrainingStart port => Sys2Proof.Machine.execPortTrainingStart port s
  | .portTrainingEnd port ok reversed polarity => Sys2Proof.Machine.execPortTrainingEnd port ok reversed polarity s
  | .portEnable master same fd port => Sys2Proof.Machine.execPortEnable master same fd port s
  | .portDisable master same fd port => Sys2Proof.Machine.execPortDisable master same fd port s
  | .probeSend master same fd port => Sys2Proof.Machine.execProbeSend master same fd port s
  | .probe port p => Sys2Proof.Machine.execProbe port p s
  | .probeAnswer port p => Sys2Proof.Machine.execProbeAnswer port p s
  | .packetArrive port p => Sys2Proof.Machine.execPacketArrive port p s
  | .packetDeliver p => Sys2Proof.Machine.execPacketDeliver p s
  | .reorderTimeout tag epoch src chan => Sys2Proof.Machine.execReorderTimeout tag epoch src chan s
  | .routeCommand master same => Sys2Proof.Machine.execRouteCommand master same s
  | .routeCommit => Sys2Proof.Machine.execRouteCommit s
  | .congestionWindowEnd => Sys2Proof.Machine.execCongestionWindowEnd s
  | .summaryPeriodLatch => Sys2Proof.Machine.execSummaryPeriodLatch s
  | .bridgeFlitReplay dir overshare again => Sys2Proof.Machine.execBridgeFlitReplay dir overshare again s
  | .deliveryStream p => Sys2Proof.Machine.execDeliveryStream p s
  | .deliveryEndMarker p => Sys2Proof.Machine.execDeliveryEndMarker p s
  | .returnStream p => Sys2Proof.Machine.execReturnStream p s
  | .returnEndMarker p => Sys2Proof.Machine.execReturnEndMarker p s
  | .collInvocationStart desc => Sys2Proof.Machine.execCollInvocationStart desc s
  | .reductionStream p => Sys2Proof.Machine.execReductionStream p s
  | .reductionEndMarker p => Sys2Proof.Machine.execReductionEndMarker p s
  | .broadcastStream p => Sys2Proof.Machine.execBroadcastStream p s
  | .broadcastEndMarker p => Sys2Proof.Machine.execBroadcastEndMarker p s
  | .collReport p more => Sys2Proof.Machine.execCollReport p s more
  | .sampleRecords p more => Sys2Proof.Machine.execSampleRecords p s more
  | .collDeadline desc inv => Sys2Proof.Machine.execCollDeadline desc inv s
  | .token p => Sys2Proof.Machine.execToken p s
  | .tokenAcknowledgement p => Sys2Proof.Machine.execTokenAcknowledgement p s
  | .tokenRepeat desc inv => Sys2Proof.Machine.execTokenRepeat desc inv s
  | .lockstepChunkHash p => Sys2Proof.Machine.execLockstepChunkHash p s
  | .lockstepArmRecord p => Sys2Proof.Machine.execLockstepArmRecord p s
  | .lockstepFrameDigests p => Sys2Proof.Machine.execLockstepFrameDigests p s
  | .lockstepGranuleRecords p => Sys2Proof.Machine.execLockstepGranuleRecords p s
  | .lockstepHalt p => Sys2Proof.Machine.execLockstepHalt p s
  | .twinCfgModeWrite master same value => Sys2Proof.Machine.execTwinCfgModeWrite master same value s
  | .registerWrite master same offset value enables => Sys2Proof.Machine.execRegisterWrite master same offset value enables s
  | .aliasSet master same page base value => Sys2Proof.Machine.execAliasSet master same page base value s
  | .aliasClear master same page base value => Sys2Proof.Machine.execAliasClear master same page base value s
  | .aliasToggle master same page base value => Sys2Proof.Machine.execAliasToggle master same page base value s
  | .guardValueWrite master same page reg value => Sys2Proof.Machine.execGuardValueWrite master same page reg value s
  | .guardComplementWrite master same page reg value => Sys2Proof.Machine.execGuardComplementWrite master same page reg value s
  | .guardWindowExpire page master => Sys2Proof.Machine.execGuardWindowExpire page master s
  | .mbxSelWrite master same page sel => Sys2Proof.Machine.execMbxSelWrite master same page sel s
  | .mailboxReady page master cc => Sys2Proof.Machine.execMailboxReady page master cc s
  | .v3FieldRead page reg => Sys2Proof.Machine.execV3FieldRead page reg s
  | .voteScrub => Sys2Proof.Machine.execVoteScrub s
  | .resetRelease held => Sys2Proof.Machine.execResetRelease held s
  | .startStepEnd step ok ms => Sys2Proof.Machine.execStartStepEnd step ok ms s
  | .pwrgoodFall => Sys2Proof.Machine.execPwrgoodFall s
  | .railSample inRange low => Sys2Proof.Machine.execRailSample inRange low s
  | .tempSample temps power => Sys2Proof.Machine.execTempSample temps power s
  | .reductionExit die => Sys2Proof.Machine.execReductionExit die s
  | .pwrCapWrite master same value => Sys2Proof.Machine.execPwrCapWrite master same value s
  | .pwrTjWrite master same value => Sys2Proof.Machine.execPwrTjWrite master same value s
  | .joinHello => Sys2Proof.Machine.execJoinHello s
  | .joinAccept p => Sys2Proof.Machine.execJoinAccept p s
  | .rekey p => Sys2Proof.Machine.execRekey p s
  | .oldKeyExpire => Sys2Proof.Machine.execOldKeyExpire s
  | .quoteRequest p => Sys2Proof.Machine.execQuoteRequest p s
  | .secQuoteCmd master same => Sys2Proof.Machine.execSecQuoteCmd master same s
  | .quoteDone => Sys2Proof.Machine.execQuoteDone s
  | .reportAck p => Sys2Proof.Machine.execReportAck p s
  | .reportRepeat order => Sys2Proof.Machine.execReportRepeat order s
  | .securityCheck sramOk keyOk => Sys2Proof.Machine.execSecurityCheck sramOk keyOk s
  | .smbStartWord word pecOk => Sys2Proof.Machine.execSmbStartWord word pecOk s
  | .smbStatus req => Sys2Proof.Machine.execSmbStatus req s
  | .smbTemperature pecOk => Sys2Proof.Machine.execSmbTemperature pecOk s
  | .smbPower pecOk => Sys2Proof.Machine.execSmbPower pecOk s
  | .smbEvents pecOk => Sys2Proof.Machine.execSmbEvents pecOk s
  | .smbInventory pecOk => Sys2Proof.Machine.execSmbInventory pecOk s
  | .smbAlertResponse pecOk => Sys2Proof.Machine.execSmbAlertResponse pecOk s
  | .bypass code => Sys2Proof.Machine.execBypass s code
  | .idcode => Sys2Proof.Machine.execIdcode s
  | .samplePreload preload => Sys2Proof.Machine.execSamplePreload preload s
  | .extest shift => Sys2Proof.Machine.execExtest s shift
  | .clamp => Sys2Proof.Machine.execClamp s
  | .highz => Sys2Proof.Machine.execHighz s
  | .endpointReset kind => Sys2Proof.Machine.execEndpointReset kind s
  | .configRequest write reg value => Sys2Proof.Machine.execConfigRequest write reg value s
  | .hbmWindowAccess write offset len bytes => Sys2Proof.Machine.execHbmWindowAccess write offset len bytes s
  | .msixUnmask access => Sys2Proof.Machine.execMsixUnmask access s
  | .completionTimeout how addr obj => Sys2Proof.Machine.execCompletionTimeout how addr obj s
  | .nvmeEnable master same value => Sys2Proof.Machine.execNvmeEnable master same value s
  | .nvmeLinkDown => Sys2Proof.Machine.execNvmeLinkDown s
  | .flashErase master same => Sys2Proof.Machine.execFlashErase master same s
  | .flashProgram master same => Sys2Proof.Machine.execFlashProgram master same s
  | .flashRead master same => Sys2Proof.Machine.execFlashRead master same s
  | .flashCommandDone at_ ok => Sys2Proof.Machine.execFlashCommandDone at_ ok s
  | .runStart => Sys2Proof.Machine.execRunStart s
  | .throttleStepEnd => Sys2Proof.Machine.execThrottleStepEnd s
  | .capacityStateReadEnd die => Sys2Proof.Machine.execCapacityStateReadEnd die s
  | .stagedResultComplete desc inv more => Sys2Proof.Machine.execStagedResultComplete desc inv s more
  | .mirrorSendEnd => Sys2Proof.Machine.execMirrorSendEnd s
  | .resetAssert => Sys2Proof.Machine.execResetAssert s
  | .perstDeassert => Sys2Proof.Machine.execPerstDeassert s
  | .refclkStart => Sys2Proof.Machine.execRefclkStart s
  | .testLogicReset => Sys2Proof.Machine.execTestLogicReset s
  | .managementRequest p => Sys2Proof.Machine.execManagementRequest p s

end Sys2Proof.Machine
end

