-- ==== Sys2Proof/Safety.lean ====
section
/-! DEFINITION. The terms in which claims are stated: canonical memories, a device whose clocks stand still, when a
sequencer issues, and when a guard sequence is ready to complete. -/

namespace Sys2Proof

/-- The commands of the board, of RESET_N, of the TAP, of SMBus and of PCIe resets, which act while the device's clocks
stand still (R430, R431, R459, R460, R465). -/
def Instr.board (i : Instr) : Bool :=
  match i with
  | .resetRelease _ => true
  | .resetAssert => true
  | .pwrgoodFall => true
  | .refclkStart => true
  | .railSample _ _ => true
  | .smbStartWord _ _ => true
  | .smbStatus _ => true
  | .smbTemperature _ => true
  | .smbPower _ => true
  | .smbEvents _ => true
  | .smbInventory _ => true
  | .smbAlertResponse _ => true
  | .bypass _ => true
  | .idcode => true
  | .samplePreload _ => true
  | .extest _ => true
  | .clamp => true
  | .highz => true
  | .testLogicReset => true
  | .endpointReset _ => true
  | .perstDeassert => true
  | _ => false

namespace Machine

/-! ### Memories -/

/-- Every memory of the device and of its surroundings is in canonical form. The flash keeps rising addresses only: what
an unlisted byte of it reads as is the board's. -/
def Mem.wf (m : Mem) : Bool :=
  m.hbm.wf && m.tile.all Memory.wf && m.die.all Memory.wf && m.stat.all Memory.wf && m.host.wf && m.nvme.wf &&
    Sparse.rising none m.flash

/-! ### Clocks -/

/-- The device's clocks stand still, and no command that could change that waits. -/
def State.Stopped (s : State) : Prop := s.dev.clocked = false ∧ ∀ c ∈ s.pending, c.board = false

/-! ### Issue (R53, R88, R90) -/

/-- The time at which a core's next instruction issues. -/
def State.issueClock (s : State) (c : Fin 48) : Clock := s.issueTime c s.clk

/-- Core `c` issues the word `w` next. -/
def State.MayIssue (s : State) (c : Fin 48) (w : InsWord) : Prop :=
  s.dev.clocked = true ∧ s.dev.mayIssue (s.issueClock c) c w = true

/-- The core as an issue finds it, its next issue an arithmetic cycle later. -/
def State.issuer (s : State) (c : Fin 48) : Core := s.dev.issuedAt (s.issueClock c) c

/-- With `y` as core `c`, the sequencer is not at the end of its template without TICK.END. -/
def State.GoesOn (s : State) (c : Fin 48) (y : Core) : Prop :=
  y.ended = true ∨ y.hold ≠ .none ∨ y.pc < (s.dev.template c).length

/-- The state after an issue that leaves `y` as core `c`: one instruction more is counted, and nothing else of the device
changes. -/
def State.issued (s : State) (c : Fin 48) (y : Core) : State :=
  { s with clk := s.issueClock c, dev := (s.dev.setCore c y).count .coreSeqIssued 1 c }

/-! ### Tiles (R80, R82) -/

/-- Tiles in the tile store or a die buffer whose elements lie one behind another, without scale bytes. -/
def PlainTiles (t : TileDesc) : Prop := Td.space t ≤ 1 ∧ Td.layout t = 0 ∧ scaleBytes (Td.format t) = 0

/-- Read through `t`, tile (r, q) of core `c` holds in `d'` the code of `v` at every position that lies inside the valid
extent and in `within`, and at every other position what it held in `d`. -/
def Dev.TileBecomes (d d' : Dev) (c : Fin 48) (t : TileDesc) (r q : Nat) (within : Nat → Prop) (v : Nat → Nat) : Prop :=
  ∀ i, i < 4096 →
    (within i → inValid t r q i = true → (d'.readTile c t r q).codes.getD i 0 = v i % 2 ^ fmtWidth (Td.format t)) ∧
    (¬ (within i ∧ inValid t r q i = true) →
      (d'.readTile c t r q).codes.getD i 0 = (d.readTile c t r q).codes.getD i 0)

/-! ### Packets (R323, R325, R328) -/

/-- A packet has left on a port, or waits in one of its queues to leave. -/
def Dev.Leaves (d : Dev) (i : Fin 81) (x : Packet) : Prop :=
  (i.val, x) ∈ d.out.sent ∨ ∃ u ∈ d.fab.ports[i].queues.flatten, u.sent = x

/-- A packet that the device `d` originates has gone its way in `t`: to this device's own delivery where it is for this
node, and otherwise, with one hop more, to the port that the route table of fabric die 0 gives it; where no port of the
table is usable it goes nowhere. -/
def Dev.Originates (d t : Dev) (x : Packet) : Prop :=
  if x.dst.toNat = d.node then (0, x) ∈ t.fab.toDeliver
  else
    let y := x.atNode d.node
    ∀ o, d.choosePort 0 y = some o → t.Leaves o (QPacket.sent ⟨y, 0, none, false⟩)

/-! ### Control space (R418, R420) -/

/-- The time at which a master's write takes effect: the next control cycle, or the running one where `same` asks for it
and R418 lets it. (log 13 DEDUCED) -/
def State.writeClock (s : State) (m : Master) (same : Bool) (page : Nat) : Clock :=
  if same && s.dev.mayJoin s.clk m page then s.clk else s.clk.nextCc

/-- A write of master `m` at page offset `off` reaches its page `p` in a control cycle in which nobody has written the
page, and nothing locks it out. -/
structure State.WriteReaches (s : State) (m : Master) (same : Bool) (page off : Nat) (p : Page) : Prop where
  clocked : s.dev.clocked = true
  opened : s.dev.openPage page m = some p
  fresh : (s.dev.writesNow (s.writeClock m same page)).filter (fun x => x.page = page) = []
  free : ∀ v, s.dev.lockStops ⟨m, page, off, v, true⟩ p = false

/-- Master `m` has an open guard sequence of the register at `off` with the value `v`, and its window has not ended when a
complement write now takes effect (R420). -/
structure State.PairReady (s : State) (m : Master) (same : Bool) (page off v : Nat) (p : Page) : Prop where
  reaches : s.WriteReaches m same page (off + 0x2000) p
  guarded : p.guarded off = true
  value : v < 2 ^ 32
  window : ∃ cc, s.dev.openGuard page = some ⟨page, m, off, v, cc⟩ ∧ (s.writeClock m same page).cc ≤ cc + 256

/-- The device as a completed pair finds it: the write noted, the sequence closed. -/
def State.paired (s : State) (m : Master) (same : Bool) (page off : Nat) : Dev :=
  (s.dev.noteWriteNow (s.writeClock m same page) ⟨page, countedBase (off + 0x2000), m⟩).closeGuard page

end Machine
end Sys2Proof
end

