-- ==== Sys2Proof/WellFormed.lean ====
section
/-! DEFINITION. Well-formed commands: operands that the outside can present. A meaning is given for every command; what
is checked here is only whether its operands fit together. -/

namespace Sys2Proof

/-- The core and the 128-bit word of a Tynil instruction (Tables ENC-1 to ENC-13); none for every other command. -/
def Instr.word (i : Instr) : Option (Fin 48 × InsWord) :=
  match i with
  | .sadd core psel sd sa sb imm imm32 => some (core, Machine.encArith 0x01 psel sd sa sb imm imm32)
  | .ssub core psel sd sa sb imm imm32 => some (core, Machine.encArith 0x02 psel sd sa sb imm imm32)
  | .smul core psel sd sa sb imm imm32 => some (core, Machine.encArith 0x03 psel sd sa sb imm imm32)
  | .sand core psel sd sa sb imm imm32 => some (core, Machine.encArith 0x04 psel sd sa sb imm imm32)
  | .sor core psel sd sa sb imm imm32 => some (core, Machine.encArith 0x05 psel sd sa sb imm imm32)
  | .sxor core psel sd sa sb imm imm32 => some (core, Machine.encArith 0x06 psel sd sa sb imm imm32)
  | .sshl core psel sd sa sb imm imm32 => some (core, Machine.encArith 0x07 psel sd sa sb imm imm32)
  | .sshr core psel sd sa sb imm imm32 => some (core, Machine.encArith 0x08 psel sd sa sb imm imm32)
  | .ssra core psel sd sa sb imm imm32 => some (core, Machine.encArith 0x09 psel sd sa sb imm imm32)
  | .smovi core psel sd imm64 => some (core, Machine.encSmovi psel sd imm64)
  | .scmp core psel pd cond sa sb imm imm32 => some (core, Machine.encScmp psel pd cond sa sb imm imm32)
  | .pset core psel pd pa pb pop => some (core, Machine.encPset psel pd pa pb pop)
  | .tdset core psel td fld sa add => some (core, Machine.encTdset psel td fld sa add)
  | .tdcopy core psel tdd tda => some (core, Machine.encTdcopy psel tdd tda)
  | .loop core psel count body iter si => some (core, Machine.encLoop psel count body iter si)
  | .syncBar core psel mask id => some (core, Machine.encSyncBar psel mask id)
  | .syncBarRelease _ => none
  | .fenceEng core psel cmask => some (core, Machine.encFenceEng psel cmask)
  | .fenceGmem core psel scope sa => some (core, Machine.encFenceGmem psel scope sa)
  | .fenceRelease _ => none
  | .nop core psel => some (core, Machine.encNop psel)
  | .tickEnd core psel => some (core, Machine.encTickEnd psel)
  | .tickWait core psel src sa offs => some (core, Machine.encTickWait psel src sa offs)
  | .tickWaitRelease _ => none
  | .tickFrame core psel sd se => some (core, Machine.encTickFrame psel sd se)
  | .tickNow core psel sd => some (core, Machine.encTickNow psel sd)
  | .moveTile core psel tdd tda o z rnd => some (core, Machine.encMoveTile psel tdd tda o z rnd)
  | .moveFill core psel tdd o z ss => some (core, Machine.encMoveFill psel tdd o z ss)
  | .mmLoad core psel tda o z => some (core, Machine.encMmLoad psel tda o z)
  | .arrayFillDone _ => none
  | .mmRun core psel tda o z accset acc skim skimAt st => some (core, Machine.encMmRun psel tda o z accset acc skim skimAt st)
  | .mmStore core psel tdd o z rnd accset => some (core, Machine.encMmStore psel tdd o z rnd accset)
  | .mmPair core psel tda tdb z accset acc => some (core, Machine.encMmPair psel tda tdb z accset acc)
  | .rowSmax core psel tdd tda z rnd stat ss => some (core, Machine.encRowSmax psel tdd tda z rnd stat ss)
  | .rowNorm core psel tdd tda tdc z rnd stat ss nkind => some (core, Machine.encRowNorm psel tdd tda tdc z rnd stat ss nkind)
  | .rowSmaxB core psel tdd tda tdb z rnd stat recomp ss => some (core, Machine.encRowSmaxB psel tdd tda tdb z rnd stat recomp ss)
  | .rowNormB core psel tdd tda tdb tdc z rnd stat recomp ss nkind => some (core, Machine.encRowNormB psel tdd tda tdb tdc z rnd stat recomp ss nkind)
  | .vadd core psel tdd tda tdb z rnd => some (core, Machine.encVec2 0x01 psel tdd tda tdb z rnd)
  | .vmul core psel tdd tda tdb z rnd => some (core, Machine.encVec2 0x02 psel tdd tda tdb z rnd)
  | .vfma core psel tdd tda tdb tdc z rnd => some (core, Machine.encVfma psel tdd tda tdb tdc z rnd)
  | .vscale core psel tdd tda z rnd ss => some (core, Machine.encVscale psel tdd tda z rnd ss)
  | .vact core psel tdd tda z rnd fn => some (core, Machine.encVact psel tdd tda z rnd fn)
  | .vamax core psel tda z ss => some (core, Machine.encVamax psel tda z ss)
  | .vgate core psel tdd tda tdb z rnd => some (core, Machine.encVgate psel tdd tda tdb z rnd)
  | .vopt core psel tdd tda tdb tdc z rnd ss fn => some (core, Machine.encVopt psel tdd tda tdb tdc z rnd ss fn)
  | .sepSelect core psel tdd tda layer e k shared gate sn => some (core, Machine.encSepSelect psel tdd tda layer e k shared gate sn)
  | .sepHash core psel tdd tda layer e k salt => some (core, Machine.encSepHash psel tdd tda layer e k salt)
  | .dieCollectiveStart _ _ => none
  | .capacityVectorArrive _ => none
  | .capacityWriteBackEnd _ => none
  | .churnSort core psel tdd tda buckets key layer => some (core, Machine.encChurnSort psel tdd tda buckets key layer)
  | .churnRestore core psel tdd tda tdb layer => some (core, Machine.encChurnRestore psel tdd tda tdb layer)
  | .xchDispatch core psel tda slot sg => some (core, Machine.encXchDispatch psel tda slot sg)
  | .xchRecv core psel tdd slot => some (core, Machine.encXchRecv psel tdd slot)
  | .xchReturn core psel tda slot => some (core, Machine.encXchReturn psel tda slot)
  | .xchCombine core psel tdd slot sg => some (core, Machine.encXchCombine psel tdd slot sg)
  | .collBcast core psel tda desc => some (core, Machine.encCollBcast psel tda desc)
  | .collReduce core psel tdd tda desc => some (core, Machine.encCollReduce psel tdd tda desc)
  | .collWait core psel desc => some (core, Machine.encCollWait psel desc)
  | .gld core psel tdd sl win so len => some (core, Machine.encGmem 0x01 psel tdd sl win so len)
  | .gst core psel tda sl win so len => some (core, Machine.encGmem 0x02 psel tda sl win so len)
  | .gatom core psel sd sa sb win so aop => some (core, Machine.encGatom psel sd sa sb win so aop)
  | .palloc core psel sd sa => some (core, Machine.encPalloc psel sd sa)
  | .pfree core psel sa => some (core, Machine.encPfree psel sa)
  | .pshare core psel sa sb => some (core, Machine.encPshare psel sa sb)
  | .tdpail core psel td sa => some (core, Machine.encTdpail psel td sa)
  | .tpromote core psel sa tier => some (core, Machine.encTierMove 0x01 psel sa tier)
  | .tevict core psel sa tier => some (core, Machine.encTierMove 0x02 psel sa tier)
  | .ttouch core psel sa => some (core, Machine.encTierObj 0x03 psel sa)
  | .twait core psel sa => some (core, Machine.encTierObj 0x04 psel sa)
  | .queueHeadRelease _ _ => none
  | .instructionRetire _ _ => none
  | .pailRequestApply _ => none
  | .load _ _ => none
  | .admissionEnd _ => none
  | .restoreEnd _ => none
  | .abort _ _ => none
  | .stop _ _ => none
  | .release _ _ => none
  | .releaseZeroingEnd _ => none
  | .jobStopFrameWrite _ _ _ => none
  | .arm _ _ => none
  | .disarm _ _ => none
  | .launchCountReached => none
  | .frameOpen => none
  | .guardStart => none
  | .frameClose => none
  | .drainEnd => none
  | .teardownComplete _ => none
  | .throttleStep => none
  | .herdReadyOffset => none
  | .herdAdd => none
  | .herdCancel => none
  | .herdChangeStops => none
  | .herdHold => none
  | .herdRelease => none
  | .herdFlush => none
  | .tierMoveCommit _ => none
  | .snapCutComplete => none
  | .nvmeCompletion _ => none
  | .mirrorData _ => none
  | .mirrorCommit _ => none
  | .gmemRequestArrive _ => none
  | .gmemResponseArrive _ => none
  | .gmemRetry _ _ => none
  | .gmemTimeout _ _ => none
  | .gmemMgmtCancel _ _ _ => none
  | .windowCommand _ _ => none
  | .gmemCfgWrite _ _ _ => none
  | .lendBegin _ _ => none
  | .lendEnd _ _ => none
  | .lendZeroingEnd _ => none
  | .timeMessage _ => none
  | .timestampBlock _ _ _ _ _ _ _ => none
  | .timestampSend _ => none
  | .syncParentTimeout => none
  | .tickSyncCfgWrite _ _ _ => none
  | .linkBlockReceive _ _ _ => none
  | .ackTimeout _ => none
  | .pmdLockLoss _ => none
  | .portTrainingStart _ => none
  | .portTrainingEnd _ _ _ _ => none
  | .portEnable _ _ _ _ => none
  | .portDisable _ _ _ _ => none
  | .probeSend _ _ _ _ => none
  | .probe _ _ => none
  | .probeAnswer _ _ => none
  | .packetArrive _ _ => none
  | .packetDeliver _ => none
  | .reorderTimeout _ _ _ _ => none
  | .routeCommand _ _ => none
  | .routeCommit => none
  | .congestionWindowEnd => none
  | .summaryPeriodLatch => none
  | .bridgeFlitReplay _ _ _ => none
  | .deliveryStream _ => none
  | .deliveryEndMarker _ => none
  | .returnStream _ => none
  | .returnEndMarker _ => none
  | .collInvocationStart _ => none
  | .reductionStream _ => none
  | .reductionEndMarker _ => none
  | .broadcastStream _ => none
  | .broadcastEndMarker _ => none
  | .collReport _ _ => none
  | .sampleRecords _ _ => none
  | .collDeadline _ _ => none
  | .token _ => none
  | .tokenAcknowledgement _ => none
  | .tokenRepeat _ _ => none
  | .lockstepChunkHash _ => none
  | .lockstepArmRecord _ => none
  | .lockstepFrameDigests _ => none
  | .lockstepGranuleRecords _ => none
  | .lockstepHalt _ => none
  | .twinCfgModeWrite _ _ _ => none
  | .registerWrite _ _ _ _ _ => none
  | .aliasSet _ _ _ _ _ => none
  | .aliasClear _ _ _ _ _ => none
  | .aliasToggle _ _ _ _ _ => none
  | .guardValueWrite _ _ _ _ _ => none
  | .guardComplementWrite _ _ _ _ _ => none
  | .guardWindowExpire _ _ => none
  | .mbxSelWrite _ _ _ _ => none
  | .mailboxReady _ _ _ => none
  | .v3FieldRead _ _ => none
  | .voteScrub => none
  | .resetRelease _ => none
  | .startStepEnd _ _ _ => none
  | .pwrgoodFall => none
  | .railSample _ _ => none
  | .tempSample _ _ => none
  | .reductionExit _ => none
  | .pwrCapWrite _ _ _ => none
  | .pwrTjWrite _ _ _ => none
  | .joinHello => none
  | .joinAccept _ => none
  | .rekey _ => none
  | .oldKeyExpire => none
  | .quoteRequest _ => none
  | .secQuoteCmd _ _ => none
  | .quoteDone => none
  | .reportAck _ => none
  | .reportRepeat _ => none
  | .securityCheck _ _ => none
  | .smbStartWord _ _ => none
  | .smbStatus _ => none
  | .smbTemperature _ => none
  | .smbPower _ => none
  | .smbEvents _ => none
  | .smbInventory _ => none
  | .smbAlertResponse _ => none
  | .bypass _ => none
  | .idcode => none
  | .samplePreload _ => none
  | .extest _ => none
  | .clamp => none
  | .highz => none
  | .endpointReset _ => none
  | .configRequest _ _ _ => none
  | .hbmWindowAccess _ _ _ _ => none
  | .msixUnmask _ => none
  | .completionTimeout _ _ _ => none
  | .nvmeEnable _ _ _ => none
  | .nvmeLinkDown => none
  | .flashErase _ _ => none
  | .flashProgram _ _ => none
  | .flashRead _ _ => none
  | .flashCommandDone _ _ => none
  | .runStart => none
  | .throttleStepEnd => none
  | .capacityStateReadEnd _ => none
  | .stagedResultComplete _ _ _ => none
  | .mirrorSendEnd => none
  | .resetAssert => none
  | .perstDeassert => none
  | .refclkStart => none
  | .testLogicReset => none
  | .managementRequest _ => none

/-- The class and opcode of a Tynil instruction (Tables ENC-2, ENC-7 to ENC-13). -/
def Instr.code (i : Instr) : Option (Nat × Nat) :=
  match i with
  | .sadd _ _ _ _ _ _ _ => some (0xB, 0x01)
  | .ssub _ _ _ _ _ _ _ => some (0xB, 0x02)
  | .smul _ _ _ _ _ _ _ => some (0xB, 0x03)
  | .sand _ _ _ _ _ _ _ => some (0xB, 0x04)
  | .sor _ _ _ _ _ _ _ => some (0xB, 0x05)
  | .sxor _ _ _ _ _ _ _ => some (0xB, 0x06)
  | .sshl _ _ _ _ _ _ _ => some (0xB, 0x07)
  | .sshr _ _ _ _ _ _ _ => some (0xB, 0x08)
  | .ssra _ _ _ _ _ _ _ => some (0xB, 0x09)
  | .smovi _ _ _ _ => some (0xB, 0x0A)
  | .scmp _ _ _ _ _ _ _ _ => some (0xB, 0x0B)
  | .pset _ _ _ _ _ _ => some (0xB, 0x0C)
  | .tdset _ _ _ _ _ _ => some (0xB, 0x10)
  | .tdcopy _ _ _ _ => some (0xB, 0x11)
  | .loop _ _ _ _ _ _ => some (0xB, 0x20)
  | .syncBar _ _ _ _ => some (0xB, 0x30)
  | .syncBarRelease _ => none
  | .fenceEng _ _ _ => some (0xB, 0x31)
  | .fenceGmem _ _ _ _ => some (0xB, 0x32)
  | .fenceRelease _ => none
  | .nop _ _ => some (0xB, 0x3F)
  | .tickEnd _ _ => some (0xC, 0x01)
  | .tickWait _ _ _ _ _ => some (0xC, 0x02)
  | .tickWaitRelease _ => none
  | .tickFrame _ _ _ _ => some (0xC, 0x03)
  | .tickNow _ _ _ => some (0xC, 0x04)
  | .moveTile _ _ _ _ _ _ _ => some (0x0, 0x01)
  | .moveFill _ _ _ _ _ _ => some (0x0, 0x02)
  | .mmLoad _ _ _ _ _ => some (0x1, 0x01)
  | .arrayFillDone _ => none
  | .mmRun _ _ _ _ _ _ _ _ _ _ => some (0x1, 0x02)
  | .mmStore _ _ _ _ _ _ _ => some (0x1, 0x03)
  | .mmPair _ _ _ _ _ _ _ => some (0x1, 0x04)
  | .rowSmax _ _ _ _ _ _ _ _ => some (0x2, 0x01)
  | .rowNorm _ _ _ _ _ _ _ _ _ _ => some (0x2, 0x02)
  | .rowSmaxB _ _ _ _ _ _ _ _ _ _ => some (0x2, 0x03)
  | .rowNormB _ _ _ _ _ _ _ _ _ _ _ _ => some (0x2, 0x04)
  | .vadd _ _ _ _ _ _ _ => some (0x3, 0x01)
  | .vmul _ _ _ _ _ _ _ => some (0x3, 0x02)
  | .vfma _ _ _ _ _ _ _ _ => some (0x3, 0x03)
  | .vscale _ _ _ _ _ _ _ => some (0x3, 0x04)
  | .vact _ _ _ _ _ _ _ => some (0x3, 0x05)
  | .vamax _ _ _ _ _ => some (0x3, 0x06)
  | .vgate _ _ _ _ _ _ _ => some (0x3, 0x07)
  | .vopt _ _ _ _ _ _ _ _ _ _ => some (0x3, 0x08)
  | .sepSelect _ _ _ _ _ _ _ _ _ _ => some (0x4, 0x01)
  | .sepHash _ _ _ _ _ _ _ _ => some (0x4, 0x02)
  | .dieCollectiveStart _ _ => none
  | .capacityVectorArrive _ => none
  | .capacityWriteBackEnd _ => none
  | .churnSort _ _ _ _ _ _ _ => some (0x5, 0x01)
  | .churnRestore _ _ _ _ _ _ => some (0x5, 0x02)
  | .xchDispatch _ _ _ _ _ => some (0x6, 0x01)
  | .xchRecv _ _ _ _ => some (0x6, 0x02)
  | .xchReturn _ _ _ _ => some (0x6, 0x03)
  | .xchCombine _ _ _ _ _ => some (0x6, 0x04)
  | .collBcast _ _ _ _ => some (0x7, 0x01)
  | .collReduce _ _ _ _ _ => some (0x7, 0x02)
  | .collWait _ _ _ => some (0x7, 0x03)
  | .gld _ _ _ _ _ _ _ => some (0x8, 0x01)
  | .gst _ _ _ _ _ _ _ => some (0x8, 0x02)
  | .gatom _ _ _ _ _ _ _ _ => some (0x8, 0x03)
  | .palloc _ _ _ _ => some (0x9, 0x01)
  | .pfree _ _ _ => some (0x9, 0x02)
  | .pshare _ _ _ _ => some (0x9, 0x03)
  | .tdpail _ _ _ _ => some (0x9, 0x04)
  | .tpromote _ _ _ _ => some (0xA, 0x01)
  | .tevict _ _ _ _ => some (0xA, 0x02)
  | .ttouch _ _ _ => some (0xA, 0x03)
  | .twait _ _ _ => some (0xA, 0x04)
  | .queueHeadRelease _ _ => none
  | .instructionRetire _ _ => none
  | .pailRequestApply _ => none
  | .load _ _ => none
  | .admissionEnd _ => none
  | .restoreEnd _ => none
  | .abort _ _ => none
  | .stop _ _ => none
  | .release _ _ => none
  | .releaseZeroingEnd _ => none
  | .jobStopFrameWrite _ _ _ => none
  | .arm _ _ => none
  | .disarm _ _ => none
  | .launchCountReached => none
  | .frameOpen => none
  | .guardStart => none
  | .frameClose => none
  | .drainEnd => none
  | .teardownComplete _ => none
  | .throttleStep => none
  | .herdReadyOffset => none
  | .herdAdd => none
  | .herdCancel => none
  | .herdChangeStops => none
  | .herdHold => none
  | .herdRelease => none
  | .herdFlush => none
  | .tierMoveCommit _ => none
  | .snapCutComplete => none
  | .nvmeCompletion _ => none
  | .mirrorData _ => none
  | .mirrorCommit _ => none
  | .gmemRequestArrive _ => none
  | .gmemResponseArrive _ => none
  | .gmemRetry _ _ => none
  | .gmemTimeout _ _ => none
  | .gmemMgmtCancel _ _ _ => none
  | .windowCommand _ _ => none
  | .gmemCfgWrite _ _ _ => none
  | .lendBegin _ _ => none
  | .lendEnd _ _ => none
  | .lendZeroingEnd _ => none
  | .timeMessage _ => none
  | .timestampBlock _ _ _ _ _ _ _ => none
  | .timestampSend _ => none
  | .syncParentTimeout => none
  | .tickSyncCfgWrite _ _ _ => none
  | .linkBlockReceive _ _ _ => none
  | .ackTimeout _ => none
  | .pmdLockLoss _ => none
  | .portTrainingStart _ => none
  | .portTrainingEnd _ _ _ _ => none
  | .portEnable _ _ _ _ => none
  | .portDisable _ _ _ _ => none
  | .probeSend _ _ _ _ => none
  | .probe _ _ => none
  | .probeAnswer _ _ => none
  | .packetArrive _ _ => none
  | .packetDeliver _ => none
  | .reorderTimeout _ _ _ _ => none
  | .routeCommand _ _ => none
  | .routeCommit => none
  | .congestionWindowEnd => none
  | .summaryPeriodLatch => none
  | .bridgeFlitReplay _ _ _ => none
  | .deliveryStream _ => none
  | .deliveryEndMarker _ => none
  | .returnStream _ => none
  | .returnEndMarker _ => none
  | .collInvocationStart _ => none
  | .reductionStream _ => none
  | .reductionEndMarker _ => none
  | .broadcastStream _ => none
  | .broadcastEndMarker _ => none
  | .collReport _ _ => none
  | .sampleRecords _ _ => none
  | .collDeadline _ _ => none
  | .token _ => none
  | .tokenAcknowledgement _ => none
  | .tokenRepeat _ _ => none
  | .lockstepChunkHash _ => none
  | .lockstepArmRecord _ => none
  | .lockstepFrameDigests _ => none
  | .lockstepGranuleRecords _ => none
  | .lockstepHalt _ => none
  | .twinCfgModeWrite _ _ _ => none
  | .registerWrite _ _ _ _ _ => none
  | .aliasSet _ _ _ _ _ => none
  | .aliasClear _ _ _ _ _ => none
  | .aliasToggle _ _ _ _ _ => none
  | .guardValueWrite _ _ _ _ _ => none
  | .guardComplementWrite _ _ _ _ _ => none
  | .guardWindowExpire _ _ => none
  | .mbxSelWrite _ _ _ _ => none
  | .mailboxReady _ _ _ => none
  | .v3FieldRead _ _ => none
  | .voteScrub => none
  | .resetRelease _ => none
  | .startStepEnd _ _ _ => none
  | .pwrgoodFall => none
  | .railSample _ _ => none
  | .tempSample _ _ => none
  | .reductionExit _ => none
  | .pwrCapWrite _ _ _ => none
  | .pwrTjWrite _ _ _ => none
  | .joinHello => none
  | .joinAccept _ => none
  | .rekey _ => none
  | .oldKeyExpire => none
  | .quoteRequest _ => none
  | .secQuoteCmd _ _ => none
  | .quoteDone => none
  | .reportAck _ => none
  | .reportRepeat _ => none
  | .securityCheck _ _ => none
  | .smbStartWord _ _ => none
  | .smbStatus _ => none
  | .smbTemperature _ => none
  | .smbPower _ => none
  | .smbEvents _ => none
  | .smbInventory _ => none
  | .smbAlertResponse _ => none
  | .bypass _ => none
  | .idcode => none
  | .samplePreload _ => none
  | .extest _ => none
  | .clamp => none
  | .highz => none
  | .endpointReset _ => none
  | .configRequest _ _ _ => none
  | .hbmWindowAccess _ _ _ _ => none
  | .msixUnmask _ => none
  | .completionTimeout _ _ _ => none
  | .nvmeEnable _ _ _ => none
  | .nvmeLinkDown => none
  | .flashErase _ _ => none
  | .flashProgram _ _ => none
  | .flashRead _ _ => none
  | .flashCommandDone _ _ => none
  | .runStart => none
  | .throttleStepEnd => none
  | .capacityStateReadEnd _ => none
  | .stagedResultComplete _ _ _ => none
  | .mirrorSendEnd => none
  | .resetAssert => none
  | .perstDeassert => none
  | .refclkStart => none
  | .testLogicReset => none
  | .managementRequest _ => none

/-- The packet that a command brings, if any. -/
def Instr.packet (i : Instr) : Option Packet :=
  match i with
  | .sadd _ _ _ _ _ _ _ => none
  | .ssub _ _ _ _ _ _ _ => none
  | .smul _ _ _ _ _ _ _ => none
  | .sand _ _ _ _ _ _ _ => none
  | .sor _ _ _ _ _ _ _ => none
  | .sxor _ _ _ _ _ _ _ => none
  | .sshl _ _ _ _ _ _ _ => none
  | .sshr _ _ _ _ _ _ _ => none
  | .ssra _ _ _ _ _ _ _ => none
  | .smovi _ _ _ _ => none
  | .scmp _ _ _ _ _ _ _ _ => none
  | .pset _ _ _ _ _ _ => none
  | .tdset _ _ _ _ _ _ => none
  | .tdcopy _ _ _ _ => none
  | .loop _ _ _ _ _ _ => none
  | .syncBar _ _ _ _ => none
  | .syncBarRelease _ => none
  | .fenceEng _ _ _ => none
  | .fenceGmem _ _ _ _ => none
  | .fenceRelease _ => none
  | .nop _ _ => none
  | .tickEnd _ _ => none
  | .tickWait _ _ _ _ _ => none
  | .tickWaitRelease _ => none
  | .tickFrame _ _ _ _ => none
  | .tickNow _ _ _ => none
  | .moveTile _ _ _ _ _ _ _ => none
  | .moveFill _ _ _ _ _ _ => none
  | .mmLoad _ _ _ _ _ => none
  | .arrayFillDone _ => none
  | .mmRun _ _ _ _ _ _ _ _ _ _ => none
  | .mmStore _ _ _ _ _ _ _ => none
  | .mmPair _ _ _ _ _ _ _ => none
  | .rowSmax _ _ _ _ _ _ _ _ => none
  | .rowNorm _ _ _ _ _ _ _ _ _ _ => none
  | .rowSmaxB _ _ _ _ _ _ _ _ _ _ => none
  | .rowNormB _ _ _ _ _ _ _ _ _ _ _ _ => none
  | .vadd _ _ _ _ _ _ _ => none
  | .vmul _ _ _ _ _ _ _ => none
  | .vfma _ _ _ _ _ _ _ _ => none
  | .vscale _ _ _ _ _ _ _ => none
  | .vact _ _ _ _ _ _ _ => none
  | .vamax _ _ _ _ _ => none
  | .vgate _ _ _ _ _ _ _ => none
  | .vopt _ _ _ _ _ _ _ _ _ _ => none
  | .sepSelect _ _ _ _ _ _ _ _ _ _ => none
  | .sepHash _ _ _ _ _ _ _ _ => none
  | .dieCollectiveStart _ _ => none
  | .capacityVectorArrive _ => none
  | .capacityWriteBackEnd _ => none
  | .churnSort _ _ _ _ _ _ _ => none
  | .churnRestore _ _ _ _ _ _ => none
  | .xchDispatch _ _ _ _ _ => none
  | .xchRecv _ _ _ _ => none
  | .xchReturn _ _ _ _ => none
  | .xchCombine _ _ _ _ _ => none
  | .collBcast _ _ _ _ => none
  | .collReduce _ _ _ _ _ => none
  | .collWait _ _ _ => none
  | .gld _ _ _ _ _ _ _ => none
  | .gst _ _ _ _ _ _ _ => none
  | .gatom _ _ _ _ _ _ _ _ => none
  | .palloc _ _ _ _ => none
  | .pfree _ _ _ => none
  | .pshare _ _ _ _ => none
  | .tdpail _ _ _ _ => none
  | .tpromote _ _ _ _ => none
  | .tevict _ _ _ _ => none
  | .ttouch _ _ _ => none
  | .twait _ _ _ => none
  | .queueHeadRelease _ _ => none
  | .instructionRetire _ _ => none
  | .pailRequestApply _ => none
  | .load _ _ => none
  | .admissionEnd _ => none
  | .restoreEnd _ => none
  | .abort _ _ => none
  | .stop _ _ => none
  | .release _ _ => none
  | .releaseZeroingEnd _ => none
  | .jobStopFrameWrite _ _ _ => none
  | .arm _ _ => none
  | .disarm _ _ => none
  | .launchCountReached => none
  | .frameOpen => none
  | .guardStart => none
  | .frameClose => none
  | .drainEnd => none
  | .teardownComplete _ => none
  | .throttleStep => none
  | .herdReadyOffset => none
  | .herdAdd => none
  | .herdCancel => none
  | .herdChangeStops => none
  | .herdHold => none
  | .herdRelease => none
  | .herdFlush => none
  | .tierMoveCommit _ => none
  | .snapCutComplete => none
  | .nvmeCompletion _ => none
  | .mirrorData p => some p
  | .mirrorCommit p => some p
  | .gmemRequestArrive p => some p
  | .gmemResponseArrive p => some p
  | .gmemRetry _ _ => none
  | .gmemTimeout _ _ => none
  | .gmemMgmtCancel _ _ _ => none
  | .windowCommand _ _ => none
  | .gmemCfgWrite _ _ _ => none
  | .lendBegin _ _ => none
  | .lendEnd _ _ => none
  | .lendZeroingEnd _ => none
  | .timeMessage p => some p
  | .timestampBlock _ _ _ _ _ _ _ => none
  | .timestampSend _ => none
  | .syncParentTimeout => none
  | .tickSyncCfgWrite _ _ _ => none
  | .linkBlockReceive _ _ _ => none
  | .ackTimeout _ => none
  | .pmdLockLoss _ => none
  | .portTrainingStart _ => none
  | .portTrainingEnd _ _ _ _ => none
  | .portEnable _ _ _ _ => none
  | .portDisable _ _ _ _ => none
  | .probeSend _ _ _ _ => none
  | .probe _ p => some p
  | .probeAnswer _ p => some p
  | .packetArrive _ p => some p
  | .packetDeliver p => some p
  | .reorderTimeout _ _ _ _ => none
  | .routeCommand _ _ => none
  | .routeCommit => none
  | .congestionWindowEnd => none
  | .summaryPeriodLatch => none
  | .bridgeFlitReplay _ _ _ => none
  | .deliveryStream p => some p
  | .deliveryEndMarker p => some p
  | .returnStream p => some p
  | .returnEndMarker p => some p
  | .collInvocationStart _ => none
  | .reductionStream p => some p
  | .reductionEndMarker p => some p
  | .broadcastStream p => some p
  | .broadcastEndMarker p => some p
  | .collReport p _ => some p
  | .sampleRecords p _ => some p
  | .collDeadline _ _ => none
  | .token p => some p
  | .tokenAcknowledgement p => some p
  | .tokenRepeat _ _ => none
  | .lockstepChunkHash p => some p
  | .lockstepArmRecord p => some p
  | .lockstepFrameDigests p => some p
  | .lockstepGranuleRecords p => some p
  | .lockstepHalt p => some p
  | .twinCfgModeWrite _ _ _ => none
  | .registerWrite _ _ _ _ _ => none
  | .aliasSet _ _ _ _ _ => none
  | .aliasClear _ _ _ _ _ => none
  | .aliasToggle _ _ _ _ _ => none
  | .guardValueWrite _ _ _ _ _ => none
  | .guardComplementWrite _ _ _ _ _ => none
  | .guardWindowExpire _ _ => none
  | .mbxSelWrite _ _ _ _ => none
  | .mailboxReady _ _ _ => none
  | .v3FieldRead _ _ => none
  | .voteScrub => none
  | .resetRelease _ => none
  | .startStepEnd _ _ _ => none
  | .pwrgoodFall => none
  | .railSample _ _ => none
  | .tempSample _ _ => none
  | .reductionExit _ => none
  | .pwrCapWrite _ _ _ => none
  | .pwrTjWrite _ _ _ => none
  | .joinHello => none
  | .joinAccept p => some p
  | .rekey p => some p
  | .oldKeyExpire => none
  | .quoteRequest p => some p
  | .secQuoteCmd _ _ => none
  | .quoteDone => none
  | .reportAck p => some p
  | .reportRepeat _ => none
  | .securityCheck _ _ => none
  | .smbStartWord _ _ => none
  | .smbStatus _ => none
  | .smbTemperature _ => none
  | .smbPower _ => none
  | .smbEvents _ => none
  | .smbInventory _ => none
  | .smbAlertResponse _ => none
  | .bypass _ => none
  | .idcode => none
  | .samplePreload _ => none
  | .extest _ => none
  | .clamp => none
  | .highz => none
  | .endpointReset _ => none
  | .configRequest _ _ _ => none
  | .hbmWindowAccess _ _ _ _ => none
  | .msixUnmask _ => none
  | .completionTimeout _ _ _ => none
  | .nvmeEnable _ _ _ => none
  | .nvmeLinkDown => none
  | .flashErase _ _ => none
  | .flashProgram _ _ => none
  | .flashRead _ _ => none
  | .flashCommandDone _ _ => none
  | .runStart => none
  | .throttleStepEnd => none
  | .capacityStateReadEnd _ => none
  | .stagedResultComplete _ _ _ => none
  | .mirrorSendEnd => none
  | .resetAssert => none
  | .perstDeassert => none
  | .refclkStart => none
  | .testLogicReset => none
  | .managementRequest p => some p

/-- The payload of a packet fills whole 64-byte units, as many as LEN says (Table FAB-3, R309). -/
def Packet.whole (p : Packet) : Bool :=
  p.payload.length % 8192 = 64 * (p.len.toNat + 1) % 8192 && p.payload.length ≤ 8256

/-- Operands of the remaining kinds: words at word-aligned offsets, link blocks of 4,096 bytes, one reading for
each of 140 sensors, and window accesses that carry their bytes (R314, R413, R453, R476). -/
def Instr.shaped (i : Instr) : Bool :=
  match i with
  | .sadd _ _ _ _ _ _ _ => true
  | .ssub _ _ _ _ _ _ _ => true
  | .smul _ _ _ _ _ _ _ => true
  | .sand _ _ _ _ _ _ _ => true
  | .sor _ _ _ _ _ _ _ => true
  | .sxor _ _ _ _ _ _ _ => true
  | .sshl _ _ _ _ _ _ _ => true
  | .sshr _ _ _ _ _ _ _ => true
  | .ssra _ _ _ _ _ _ _ => true
  | .smovi _ _ _ _ => true
  | .scmp _ _ _ _ _ _ _ _ => true
  | .pset _ _ _ _ _ _ => true
  | .tdset _ _ _ _ _ _ => true
  | .tdcopy _ _ _ _ => true
  | .loop _ _ _ _ _ _ => true
  | .syncBar _ _ _ _ => true
  | .syncBarRelease _ => true
  | .fenceEng _ _ _ => true
  | .fenceGmem _ _ _ _ => true
  | .fenceRelease _ => true
  | .nop _ _ => true
  | .tickEnd _ _ => true
  | .tickWait _ _ _ _ _ => true
  | .tickWaitRelease _ => true
  | .tickFrame _ _ _ _ => true
  | .tickNow _ _ _ => true
  | .moveTile _ _ _ _ _ _ _ => true
  | .moveFill _ _ _ _ _ _ => true
  | .mmLoad _ _ _ _ _ => true
  | .arrayFillDone _ => true
  | .mmRun _ _ _ _ _ _ _ _ _ _ => true
  | .mmStore _ _ _ _ _ _ _ => true
  | .mmPair _ _ _ _ _ _ _ => true
  | .rowSmax _ _ _ _ _ _ _ _ => true
  | .rowNorm _ _ _ _ _ _ _ _ _ _ => true
  | .rowSmaxB _ _ _ _ _ _ _ _ _ _ => true
  | .rowNormB _ _ _ _ _ _ _ _ _ _ _ _ => true
  | .vadd _ _ _ _ _ _ _ => true
  | .vmul _ _ _ _ _ _ _ => true
  | .vfma _ _ _ _ _ _ _ _ => true
  | .vscale _ _ _ _ _ _ _ => true
  | .vact _ _ _ _ _ _ _ => true
  | .vamax _ _ _ _ _ => true
  | .vgate _ _ _ _ _ _ _ => true
  | .vopt _ _ _ _ _ _ _ _ _ _ => true
  | .sepSelect _ _ _ _ _ _ _ _ _ _ => true
  | .sepHash _ _ _ _ _ _ _ _ => true
  | .dieCollectiveStart _ _ => true
  | .capacityVectorArrive _ => true
  | .capacityWriteBackEnd _ => true
  | .churnSort _ _ _ _ _ _ _ => true
  | .churnRestore _ _ _ _ _ _ => true
  | .xchDispatch _ _ _ _ _ => true
  | .xchRecv _ _ _ _ => true
  | .xchReturn _ _ _ _ => true
  | .xchCombine _ _ _ _ _ => true
  | .collBcast _ _ _ _ => true
  | .collReduce _ _ _ _ _ => true
  | .collWait _ _ _ => true
  | .gld _ _ _ _ _ _ _ => true
  | .gst _ _ _ _ _ _ _ => true
  | .gatom _ _ _ _ _ _ _ _ => true
  | .palloc _ _ _ _ => true
  | .pfree _ _ _ => true
  | .pshare _ _ _ _ => true
  | .tdpail _ _ _ _ => true
  | .tpromote _ _ _ _ => true
  | .tevict _ _ _ _ => true
  | .ttouch _ _ _ => true
  | .twait _ _ _ => true
  | .queueHeadRelease _ _ => true
  | .instructionRetire _ _ => true
  | .pailRequestApply _ => true
  | .load _ _ => true
  | .admissionEnd _ => true
  | .restoreEnd _ => true
  | .abort _ _ => true
  | .stop _ _ => true
  | .release _ _ => true
  | .releaseZeroingEnd _ => true
  | .jobStopFrameWrite _ _ _ => true
  | .arm _ _ => true
  | .disarm _ _ => true
  | .launchCountReached => true
  | .frameOpen => true
  | .guardStart => true
  | .frameClose => true
  | .drainEnd => true
  | .teardownComplete _ => true
  | .throttleStep => true
  | .herdReadyOffset => true
  | .herdAdd => true
  | .herdCancel => true
  | .herdChangeStops => true
  | .herdHold => true
  | .herdRelease => true
  | .herdFlush => true
  | .tierMoveCommit _ => true
  | .snapCutComplete => true
  | .nvmeCompletion _ => true
  | .mirrorData _ => true
  | .mirrorCommit _ => true
  | .gmemRequestArrive _ => true
  | .gmemResponseArrive _ => true
  | .gmemRetry _ _ => true
  | .gmemTimeout _ _ => true
  | .gmemMgmtCancel _ _ _ => true
  | .windowCommand _ _ => true
  | .gmemCfgWrite _ _ _ => true
  | .lendBegin _ _ => true
  | .lendEnd _ _ => true
  | .lendZeroingEnd _ => true
  | .timeMessage _ => true
  | .timestampBlock _ _ _ _ _ _ _ => true
  | .timestampSend _ => true
  | .syncParentTimeout => true
  | .tickSyncCfgWrite _ _ _ => true
  | .linkBlockReceive _ body _ => body.length = 4096
  | .ackTimeout _ => true
  | .pmdLockLoss _ => true
  | .portTrainingStart _ => true
  | .portTrainingEnd _ _ _ _ => true
  | .portEnable _ _ _ _ => true
  | .portDisable _ _ _ _ => true
  | .probeSend _ _ _ _ => true
  | .probe _ _ => true
  | .probeAnswer _ _ => true
  | .packetArrive _ _ => true
  | .packetDeliver _ => true
  | .reorderTimeout _ _ _ _ => true
  | .routeCommand _ _ => true
  | .routeCommit => true
  | .congestionWindowEnd => true
  | .summaryPeriodLatch => true
  | .bridgeFlitReplay _ _ _ => true
  | .deliveryStream _ => true
  | .deliveryEndMarker _ => true
  | .returnStream _ => true
  | .returnEndMarker _ => true
  | .collInvocationStart _ => true
  | .reductionStream _ => true
  | .reductionEndMarker _ => true
  | .broadcastStream _ => true
  | .broadcastEndMarker _ => true
  | .collReport _ _ => true
  | .sampleRecords _ _ => true
  | .collDeadline _ _ => true
  | .token _ => true
  | .tokenAcknowledgement _ => true
  | .tokenRepeat _ _ => true
  | .lockstepChunkHash _ => true
  | .lockstepArmRecord _ => true
  | .lockstepFrameDigests _ => true
  | .lockstepGranuleRecords _ => true
  | .lockstepHalt _ => true
  | .twinCfgModeWrite _ _ _ => true
  | .registerWrite _ _ _ _ _ => true
  | .aliasSet _ _ _ base _ => base.toNat % 4 = 0
  | .aliasClear _ _ _ base _ => base.toNat % 4 = 0
  | .aliasToggle _ _ _ base _ => base.toNat % 4 = 0
  | .guardValueWrite _ _ _ reg _ => reg.toNat % 4 = 0
  | .guardComplementWrite _ _ _ reg _ => reg.toNat % 4 = 0
  | .guardWindowExpire _ _ => true
  | .mbxSelWrite _ _ _ _ => true
  | .mailboxReady _ _ _ => true
  | .v3FieldRead _ reg => reg.toNat % 4 = 0
  | .voteScrub => true
  | .resetRelease _ => true
  | .startStepEnd _ _ _ => true
  | .pwrgoodFall => true
  | .railSample _ _ => true
  | .tempSample temps _ => temps.length = 140
  | .reductionExit _ => true
  | .pwrCapWrite _ _ _ => true
  | .pwrTjWrite _ _ _ => true
  | .joinHello => true
  | .joinAccept _ => true
  | .rekey _ => true
  | .oldKeyExpire => true
  | .quoteRequest _ => true
  | .secQuoteCmd _ _ => true
  | .quoteDone => true
  | .reportAck _ => true
  | .reportRepeat _ => true
  | .securityCheck _ _ => true
  | .smbStartWord _ _ => true
  | .smbStatus _ => true
  | .smbTemperature _ => true
  | .smbPower _ => true
  | .smbEvents _ => true
  | .smbInventory _ => true
  | .smbAlertResponse _ => true
  | .bypass _ => true
  | .idcode => true
  | .samplePreload _ => true
  | .extest _ => true
  | .clamp => true
  | .highz => true
  | .endpointReset _ => true
  | .configRequest _ _ _ => true
  | .hbmWindowAccess write _ len bytes => len.toNat ≤ 4096 && bytes.length = (if write then len.toNat else 0)
  | .msixUnmask _ => true
  | .completionTimeout _ _ _ => true
  | .nvmeEnable _ _ _ => true
  | .nvmeLinkDown => true
  | .flashErase _ _ => true
  | .flashProgram _ _ => true
  | .flashRead _ _ => true
  | .flashCommandDone _ _ => true
  | .runStart => true
  | .throttleStepEnd => true
  | .capacityStateReadEnd _ => true
  | .stagedResultComplete _ _ _ => true
  | .mirrorSendEnd => true
  | .resetAssert => true
  | .perstDeassert => true
  | .refclkStart => true
  | .testLogicReset => true
  | .managementRequest _ => true

/-- A well-formed command: a Tynil instruction's word is defined (Table ENC-15), a packet is whole, and the other
operands fit together. -/
def Instr.wf (i : Instr) : Bool :=
  i.shaped &&
  (match i.word with | some (_, w) => Machine.wordDefined w | none => true) &&
  (match i.packet with | some p => p.whole | none => true)

end Sys2Proof
end

