-- ==== Sys2Proof/Certificates/Slice0/Obligations.lean ====
section
/-! DEFINITION. What is to be proved of the machine: one proposition for each statement of OBLIGATIONS.json. -/

open Sys2Proof
open Sys2Proof.Machine

/-- For every command c and every state whose queue begins with c, the step is the effect of c on the state with the rest
of the queue. The queue is the model's own (log entry 2). (95 What each step holds, 00 Scope of This Manual) -/
def Obligations.StepTakesFrontCommand : Prop :=
  ∀ (s : State) (c : Instr) (rest : List Instr), s.pending = c :: rest →
    step s = exec c { s with pending := rest }

/-- In the state after reset no command waits, time is zero, the start state is OFF with reset held, no job is loaded
(IDLE), every stored register field of every page holds the reset value of its row, every one of the 48 cores is empty
with predicate P0 as its only true predicate, and HBM, tile stores, die buffers, statistics stores and host memory
list nothing and so read as zero; this state meets the invariant that clocks stand still and no command of the board
waits, and the invariant that every memory is in canonical form. That an unlisted byte reads as zero, and that every core is empty
with P0 alone true before a job is ARMED, are the model's choices (log entries 5 and 9). (20 Start Firmware and Security, 03
Tynil Programming Model, 19 Control Space and Register Map) -/
def Obligations.ResetHoldsDevice : Prop :=
  State.reset.pending = [] ∧ State.reset.clk = ⟨0, 0, 0, 0⟩ ∧ State.reset.dev.clocked = false ∧
  State.reset.dev.start.state = .off ∧ State.reset.dev.start.resetHeld = true ∧
  State.reset.dev.job.phase = .idle ∧ State.reset.dev.image = none ∧
  (∀ (f : Fld) (i j : Nat), State.reset.dev.rd f i j = f.row.reset) ∧
  (∀ c : Fin 48, State.reset.dev.cores[c] = Core.empty) ∧
  (∀ r : BitVec 3, Core.empty.p r = decide (r = 0)) ∧
  (∀ a : Nat, State.reset.dev.mem.hbm.read a = 0 ∧ State.reset.dev.mem.host.read a = 0) ∧
  (∀ (c : Fin 48) (a : Nat), State.reset.dev.mem.tile[c].read a = 0 ∧ State.reset.dev.mem.stat[c].read a = 0) ∧
  (∀ (x : Fin 12) (a : Nat), State.reset.dev.mem.die[x].read a = 0) ∧ State.reset.Stopped ∧
  State.reset.dev.mem.wf = true ∧ Sparse.rising none State.reset.dev.acc = true

/-- For every command and every state, the command's effect is a next state, never a fault or a refusal, and the commands
that wait are the same before and after, in the same order. So whatever command stands at the front, the queue after a
step is the queue before it without its first entry; an empty queue stays empty. A step on an empty queue advances
device time by one count (7 units of 1/7 ns) where the device's clocks run, and the domain counter by what it counts in
that time at its rate, which is exactly one count where no rate adjustment is in force; it changes nothing else, and
nothing at all where the clocks stand still. That every command has an effect and none stops, that the
queue is the model's and no effect touches it, and that an idle step is one count are the model's choices (log entries
73, 2 and 3). (95 What each step holds, 02 Ticks and Frames) -/
def Obligations.QueueIsFirstInFirstOut : Prop :=
  (∀ (i : Instr) (s : State), ∃ t, exec i s = .next t ∧ t.pending = s.pending) ∧
  (∀ s : State, ∃ t, step s = .next t ∧ t.pending = s.pending.tail) ∧
  (∀ s : State, s.pending = [] →
    let k := s.clk.passUnits 7
    step s = .next (if s.dev.clocked then { s with clk := k } else s) ∧ k.units = s.clk.units + 7 ∧
      k.rate = s.clk.rate ∧ k.count = s.clk.count + (s.clk.phase + 7 * s.clk.step) / countParts ∧
      (s.clk.rate = 0 → s.clk.phase < countParts → k.count = s.clk.count + 1 ∧ k.phase = s.clk.phase))

/-- Let the device's clocks stand still (it is in OFF, held in reset, or a thermal trip has stopped them) and let no
command of the board, of the TAP, of SMBus or of a PCIe reset wait. Then a step answers a state in which this still
holds, in which the device and device time are unchanged, whatever the other commands were: no register write, packet,
instruction or event of the device takes effect. (20 Start Firmware and Security, 22 Electrical and Package) -/
def Obligations.StoppedClocksKept : Prop :=
  ∀ s t : State, s.Stopped → step s = .next t → t.Stopped ∧ t.dev = s.dev ∧ t.clk = s.clk

/-- For each of SADD, SSUB, SMUL, SAND, SOR, SXOR, SSHL, SSHR and SSRA that core c issues next with its predicate on,
where the template goes on after it, the command answers the state at the core's issue time in which SD holds SA op B
modulo 2^64 (B is SB, or IMM32 sign-extended; shift amounts are B mod 64), the core has moved to its next instruction,
its next issue is an arithmetic cycle later, one issue more is counted, and nothing else of the device has changed.
(04 Tynil Encoding, 03 Tynil Programming Model) -/
def Obligations.ScalarArithmeticResults : Prop :=
  ∀ (s : State) (c : Fin 48) (psel : BitVec 4) (sd sa sb : BitVec 5) (imm : Bool) (imm32 : BitVec 32) (i : Instr)
    (op : Scalar → Scalar → Scalar) (w : InsWord),
    (i, op) ∈ ([(.sadd c psel sd sa sb imm imm32, fun a b => a + b),
      (.ssub c psel sd sa sb imm imm32, fun a b => a - b),
      (.smul c psel sd sa sb imm imm32, fun a b => a * b),
      (.sand c psel sd sa sb imm imm32, fun a b => a &&& b),
      (.sor c psel sd sa sb imm imm32, fun a b => a ||| b),
      (.sxor c psel sd sa sb imm imm32, fun a b => a ^^^ b),
      (.sshl c psel sd sa sb imm imm32, fun a b => a <<< (b.toNat % 64)),
      (.sshr c psel sd sa sb imm imm32, fun a b => a >>> (b.toNat % 64)),
      (.ssra c psel sd sa sb imm imm32, fun a b => a.sshiftRight (b.toNat % 64))] : List (Instr × (Scalar → Scalar → Scalar))) →
    i.word = some (c, w) → s.MayIssue c w → (s.issuer c).selected (wPsel w) = true →
    let x := s.issuer c
    let y := (x.setS sd (op (x.s sa) (if imm then imm32.signExtend 64 else x.s sb))).advance
    s.GoesOn c y → exec i s = .next (s.issued c y)

/-- Issued by core c with the predicate on where the template goes on: SMOVI puts the immediate into SD; SCMP sets PD to
the comparison of SA with B under COND (equal, not equal, less signed, less unsigned); PSET sets PD to the combination
of PA and PB under POP (and, or, exclusive or, and-not); NOP leaves every register. A write to P0 is ignored and P0
reads as 1; a write to another predicate makes it read the value written and leaves the other predicates, the scalars
and the descriptors. Each moves the core on, counts one issue and changes nothing else of the device. (04 Tynil
Encoding, 03 Tynil Programming Model) -/
def Obligations.ScalarAndPredicateMoves : Prop :=
  ∀ (s : State) (c : Fin 48) (psel : BitVec 4) (sd sa sb : BitVec 5) (imm64 : BitVec 64) (pd pa pb : BitVec 3)
    (cond pop : BitVec 2) (imm : Bool) (imm32 : BitVec 32) (i : Instr) (z : Core) (w : InsWord),
    let x := s.issuer c
    let b := if imm then imm32.signExtend 64 else x.s sb
    (i, z) ∈ ([(.smovi c psel sd imm64, x.setS sd imm64),
      (.scmp c psel pd cond sa sb imm imm32, x.setP pd
        (if cond = 0 then decide (x.s sa = b) else if cond = 1 then decide (x.s sa ≠ b)
         else if cond = 2 then decide ((x.s sa).toInt < b.toInt) else decide ((x.s sa).toNat < b.toNat))),
      (.pset c psel pd pa pb pop, x.setP pd
        (if pop = 0 then x.p pa && x.p pb else if pop = 1 then x.p pa || x.p pb
         else if pop = 2 then x.p pa ^^ x.p pb else x.p pa && !(x.p pb))),
      (.nop c psel, x)] : List (Instr × Core)) →
    i.word = some (c, w) → s.MayIssue c w → x.selected (wPsel w) = true → s.GoesOn c z.advance →
    exec i s = .next (s.issued c z.advance) ∧ x.p 0 = true ∧ (∀ v, x.setP 0 v = x) ∧
    (∀ (p r : BitVec 3) (v : Bool), p ≠ 0 → (x.setP p v).p p = v ∧ (r ≠ p → (x.setP p v).p r = x.p r) ∧
      (x.setP p v).scal = x.scal ∧ (x.setP p v).td = x.td)

/-- Issued by core c with the predicate on where the template goes on: TDCOPY makes TDD equal to TDA; TDSET with FIELD 0
to 11, whose value (SA, or the field's stored value plus SA as a signed number) lies within the field's range, writes
the value less the field's bias into the field's bits and leaves every other bit of the descriptor. Nothing else of
the device changes beside the issue itself. (04 Tynil Encoding) -/
def Obligations.DescriptorWrites : Prop :=
  ∀ (s : State) (c : Fin 48) (psel : BitVec 4) (w : InsWord),
    (s.MayIssue c w) → (s.issuer c).selected (wPsel w) = true →
    (∀ tdd tda : BitVec 6,
      let y := ((s.issuer c).setT tdd ((s.issuer c).t tda)).advance
      (Instr.tdcopy c psel tdd tda).word = some (c, w) → s.GoesOn c y →
      exec (.tdcopy c psel tdd tda) s = .next (s.issued c y)) ∧
    (∀ (td : BitVec 6) (fld : BitVec 4) (sa : BitVec 5) (add : Bool) (r : TdField) (n : Nat),
      let t := (s.issuer c).t td
      let v := (s.issuer c).s sa
      let y := ((s.issuer c).setT td (tdPut t r.hi r.lo (n - r.bias))).advance
      (Instr.tdset c psel td fld sa add).word = some (c, w) → tdField fld = some r →
      (n : Int) = (if add then (tf t r.hi r.lo : Int) + v.toInt else v.toNat) → r.least ≤ n → n ≤ r.most →
      s.GoesOn c y → exec (.tdset c psel td fld sa add) s = .next (s.issued c y)) ∧
    (∀ (t : TileDesc) (fld : BitVec 4) (r : TdField) (v j : Nat), tdField fld = some r → v < 2 ^ (r.hi + 1 - r.lo) →
      j < 256 → (tdPut t r.hi r.lo v).getLsbD j =
        if r.lo ≤ j ∧ j ≤ r.hi then v.testBit (j - r.lo) else t.getLsbD j)

/-- LOOP issued with the predicate on moves to the body's first instruction with COUNT passes left, iteration 0 in SI
where ITER is 1, the loops already open kept below it, and nothing else of the device changed beside the issue. Moving
on from the last instruction of the innermost body goes to its first instruction with one pass fewer left and the next
iteration number in SI while passes are left, and otherwise leaves the loop for what follows in the loops around it;
elsewhere moving on goes to the next instruction and keeps the loops. (04 Tynil Encoding) -/
def Obligations.LoopOpensAndRepeats : Prop :=
  (∀ (s : State) (c : Fin 48) (psel : BitVec 4) (count : BitVec 16) (body : BitVec 18) (iter : Bool) (si : BitVec 5)
      (w : InsWord), (Instr.loop c psel count body iter si).word = some (c, w) → s.MayIssue c w →
    (s.issuer c).selected (wPsel w) = true →
    let x := s.issuer c
    let y : Core := { (if iter then x.setS si 0 else x) with
      pc := x.pc + 1
      loops := ⟨x.pc + 1, x.pc + 1 + body.toNat, count.toNat, 0, if iter then some si else none⟩ :: x.loops }
    s.GoesOn c y → exec (.loop c psel count body iter si) s = .next (s.issued c y)) ∧
  (∀ (x : Core) (f : LoopFrame) (fs : List LoopFrame), x.loops = f :: fs →
    (x.pc ≠ f.last → x.advance = { x with pc := x.pc + 1 }) ∧
    (x.pc = f.last → f.left = 0 → x.advance = ({ x with loops := fs } : Core).advance) ∧
    (x.pc = f.last → f.left ≠ 0 → x.advance =
      { (match f.si with | some r => x.setS r (BitVec.ofNat 64 (f.iter + 1)) | none => x) with
        pc := f.first
        loops := { f with left := f.left - 1, iter := f.iter + 1 } :: fs })) ∧
  (∀ x : Core, x.loops = [] → x.advance = { x with pc := x.pc + 1 })

/-- Issued by core c with the predicate on (where the template goes on): TICK.END lets the core issue nothing further in
this frame, whatever follows it; TICK.FRAME puts the frame number into SD and then the frame-slot counter into SE;
TICK.NOW puts the domain counter at the issue into SD; TICK.WAIT, with its target from OFFS or from SA (before the
guard start), moves on where the counter has reached the boundary plus the target, and otherwise holds until it does.
Each is one issue that changes nothing else of the device. That TICK.FRAME whose SD and SE name one scalar leaves the
frame-slot counter in it is the model's choice (log entry 87). (02 Ticks and Frames, 04 Tynil Encoding) -/
def Obligations.TickInstructions : Prop :=
  ∀ (s : State) (c : Fin 48) (psel : BitVec 4) (sd se sa : BitVec 5) (src : Bool) (offs : BitVec 27) (i : Instr)
    (z : Core) (w : InsWord),
    let x := s.issuer c
    let target := if src then (x.s sa).toNat else offs.toNat
    (src = true → target < s.dev.period - s.dev.guardBand) →
    (i, z) ∈ ([(.tickEnd c psel, { x with ended := true }),
      (.tickFrame c psel sd se, (x.setS sd (BitVec.ofNat 64 s.dev.frame.number)).setS se (BitVec.ofNat 64 s.dev.frame.slot)),
      (.tickNow c psel sd, x.setS sd (BitVec.ofNat 64 (s.issueClock c).count)),
      (.tickWait c psel src sa offs,
        if s.dev.frame.boundary + target ≤ (s.issueClock c).count then x
        else { x with hold := .tickWait (s.dev.frame.boundary + target) })] : List (Instr × Core)) →
    i.word = some (c, w) → s.MayIssue c w → x.selected (wPsel w) = true → s.GoesOn c z.advance →
    exec i s = .next (s.issued c z.advance)

/-- Issued by core c with the predicate on where the template goes on: SYNC.BAR holds the core at its ID and MASK;
FENCE.ENG holds the core where an earlier, unretired instruction of a class in CMASK exists and else moves on;
FENCE.GMEM holds it where an earlier store or atomic to the covered destinations (all, or the node in SA[15:0] under
SCOPE) is unacknowledged and else moves on. Each is one issue that changes nothing else of the device. A core that is
held issues nothing: no issuing command of it changes anything. Nor does an instruction that reads or writes a scalar
issue while some issued, unretired instruction of the core (with its predicate on) will write that scalar (R90); that
this holds an instruction whose own predicate is off too is the model's choice (log entry 85). (04 Tynil Encoding, 14
Global Memory) -/
def Obligations.BarrierAndFencesHold : Prop :=
  ∀ (s : State) (c : Fin 48) (w : InsWord) (i : Instr), i.word = some (c, w) →
    (∀ (psel : BitVec 4) (mask : BitVec 48) (id : BitVec 8) (cmask : BitVec 13) (scope : Bool) (sa : BitVec 5) (z : Core),
      let x := s.issuer c
      let node := if scope then some ((x.s sa).toNat % 65536) else none
      (i, z) ∈ ([(.syncBar c psel mask id, { x with hold := .barrier id.toNat mask.toNat (s.issueClock c).units }),
        (.fenceEng c psel cmask,
          if x.entries.any (fun e => e.seq < x.nextSeq && bitAt cmask.toNat (wCls e.word))
          then { x with hold := .fenceEng cmask.toNat x.nextSeq } else x),
        (.fenceGmem c psel scope sa,
          if s.dev.fenceMet c node x.nextSeq then x else { x with hold := .fenceGmem node x.nextSeq })] :
          List (Instr × Core)) →
      s.MayIssue c w → x.selected (wPsel w) = true → s.GoesOn c z.advance →
      exec i s = .next (s.issued c z.advance)) ∧
    (s.dev.cores[c].hold ≠ .none → exec i s = .next s) ∧
    (∀ (e : Entry) (r : Nat), e ∈ s.dev.cores[c].entries → e.on = true → r ∈ scalWrites e.word →
      r ∈ scalReads w ∨ r ∈ scalWrites w → exec i s = .next s)

/-- While the job runs: SYNC_BAR_RELEASE, when every core of the mask holds at the instance, resumes every one of them and
no other core; TICK_WAIT_RELEASE resumes the core at the count it waits for; FENCE_RELEASE resumes it when the fence's
condition holds; where the resumed core's template goes on. A resumed core is held no longer, does not issue before
the release (for a barrier 40 arithmetic cycles of its die after the last arrival on one die, 120 otherwise), and is
otherwise as it was; memories and registers are unchanged. (04 Tynil Encoding, 02 Ticks and Frames; how the arithmetic
clock of a die is followed through reductions is the model's choice, log entry 58) -/
def Obligations.HeldCoresResume : Prop :=
  ∀ (s : State) (c : Fin 48), s.dev.clocked = true → s.dev.runs = true →
    let goes := fun (i : Fin 48) => s.GoesOn i { s.dev.cores[i] with hold := .none }
    (∀ (id mask u : Nat), s.dev.cores[c].hold = .barrier id mask u → (∀ i ∈ maskCores mask, goes i) →
      (∀ i ∈ maskCores mask, ∃ v, s.dev.cores[i].hold = .barrier id mask v ∧ v ≤ u) →
      let wait := if (maskCores mask).all (fun i => i.val / 4 = c.val / 4) then 40 else 120
      let ac := fun (i : Fin 48) => s.dev.pwr.counted (dieOf i) u / 5 + wait
      c ∈ maskCores mask →
      ∃ d, exec (.syncBarRelease c) s = .next { s with dev := d } ∧
        (∀ i : Fin 48, d.cores[i] = if i ∈ maskCores mask
          then { s.dev.cores[i] with hold := .none, nextAc := max s.dev.cores[i].nextAc (ac i) } else s.dev.cores[i]) ∧
        d.mem = s.dev.mem ∧ d.regs = s.dev.regs ∧ d.job = s.dev.job) ∧
    (∀ t : Nat, s.dev.cores[c].hold = .tickWait t → goes c →
      let k := s.clk.toCount t
      exec (.tickWaitRelease c) s = .next { s with
        clk := k
        dev := s.dev.setCore c { s.dev.cores[c] with hold := .none, nextAc := max s.dev.cores[c].nextAc (s.dev.dieAc k (dieOf c) + 1) } }) ∧
    (goes c → (∃ cmask seq, s.dev.cores[c].hold = .fenceEng cmask seq ∧ s.dev.cores[c].fenceBlocked cmask seq = false) ∨
      (∃ node seq, s.dev.cores[c].hold = .fenceGmem node seq ∧ s.dev.fenceMet c node seq = true) →
      exec (.fenceRelease c) s = .next { s with
        dev := s.dev.setCore c { s.dev.cores[c] with hold := .none, nextAc := max s.dev.cores[c].nextAc (s.dev.dieAc s.clk (dieOf c) + 1) } })

/-- SEP.HASH selects K distinct experts for each token. The candidate for rank j is bits 63 to 32 of SipHash-2-4, under the
salt scalar and the layer, of the identifier and j, times N, without the low 32 bits of the product; the expert is the
first of the candidate and those behind it, modulo N, that is not chosen yet. The token of row m of a copy has these
experts in ascending j, for the identifier in the first element of row m of TDA, each with the F32 value nearest to 1 / K
as weight, and it is not degenerate. The capacity stage gives each of its entries what R184 gives it: where capacity is
left the next slot of the quota, which takes one off the word, and otherwise a skip, which counts in the word; words of
other experts stay, and the entries that are skipped are counted. (R187) -/
def Obligations.HashSelectsExperts : Prop :=
  ∀ (salt : Scalar) (layer n k ident : Nat), k ≤ n → k ≤ 16 → n ≤ 16384 → ident < 2 ^ 32 →
    let xs := hashToken salt layer n k ident
    let candidate := fun (j : Nat) =>
      (sipHash salt (BitVec.ofNat 64 layer) (leBytes 4 ident ++ [BitVec.ofNat 8 j, 0, 0, 0])).toNat / 2 ^ 32 * n / 2 ^ 32
    xs.length = k ∧ xs.Nodup ∧ (∀ x ∈ xs, x < n) ∧
    (∀ j, j < k → ∃ i, xs[j]? = some ((candidate j + i) % n) ∧ ∀ l, l < i → (candidate j + l) % n ∈ xs.take j) ∧
    (∀ (d : Dev) (c : Fin 48) (e : Entry) (m : Nat), e.sepHash = true → m < e.sepCount → e.sepLayer = layer → e.sepN = n →
      e.sepK = k → e.sc (wbits e.word 71 67) = salt → (d.readTile c e.tda (m / 64) 0).codes.getD (64 * (m % 64)) 0 = ident →
      (d.sepTokens c e)[m]? = some (xs.map fun x => (x, f32Bits (divF32 (Val.ofInt 1) (Val.ofInt k))), false, 0)) ∧
    (∀ (quota : Nat → Nat) (words : List Nat) (w : Nat) (t : SepTok), t.picks = xs.map (fun x => (x, w)) →
      t.degenerate = false → n ≤ words.length →
      let left := fun (x : Nat) => words.getD x 0 % 2 ^ 17
      let r := assignToken quota 0 t words
      r.1 = xs.map (fun x => if 0 < left x then (recordWord x 0 (quota x - left x), w) else (recordWord x 1 0xFFFF, w)) ∧
      (∀ x, x < words.length → r.2.1.getD x 0 =
        if x ∉ xs then words.getD x 0
        else if 0 < left x then words.getD x 0 - 1
        else min (words.getD x 0 / 2 ^ 17 + 1) 32767 * 2 ^ 17) ∧
      r.2.2 = (xs.filter fun x => left x = 0).length)

/-- Where the predicate of the word is off and the template goes on: an instruction that executes at issue only moves the
core on; an engine instruction also enters its engine's queue as an entry that is off, without any check at issue. No
predicate, descriptor, memory or register changes, and no scalar but the iteration number of a loop that goes back.
(03 Tynil Programming Model, 04 Tynil Encoding) -/
def Obligations.PredicatedOffInstructions : Prop :=
  ∀ (s : State) (c : Fin 48) (w : InsWord) (i : Instr), i.word = some (c, w) → s.MayIssue c w →
    (s.issuer c).selected (wPsel w) = false → s.GoesOn c (s.issuer c).advance →
    (wordEng s.dev.order.fabricDies w = none → exec i s = .next (s.issued c (s.issuer c).advance)) ∧
    (∀ e, wordEng s.dev.order.fabricDies w = some e → ∃ (y : Core) (en : Entry), exec i s = .next (s.issued c y) ∧
      y.entries = (s.issuer c).entries ++ [en] ∧ en.word = w ∧ en.eng = e ∧ en.on = false ∧ en.stage = .queued ∧
      y.pred = (s.issuer c).pred ∧ y.td = (s.issuer c).td ∧ y.scal = (s.issuer c).advance.scal ∧
      y.pc = (s.issuer c).advance.pc)

/-- For every instruction of the classes MOVE, MM, ROW, VEC, SEP, CHURN, XCH, COLL, GMEM, PAIL and TIER that core c issues
next with its predicate on, that fails no check at issue and after which the template goes on: the command adds one
entry to the end of the core's entries, for the instruction's engine, holding the word, its template index and issue
number and the values that the named descriptors and scalars have at issue; the core moves on; predicates and
descriptors are unchanged, and scalars but for the iteration number of a loop that goes back; and nothing else of the
device changes but the count of issues. (04 Tynil Encoding) -/
def Obligations.EngineInstructionsEnterQueue : Prop :=
  ∀ (s : State) (c : Fin 48) (w : InsWord) (i : Instr) (e : Eng), i.word = some (c, w) → wordEng s.dev.order.fabricDies w = some e →
    s.MayIssue c w → (s.issuer c).selected (wPsel w) = true → s.dev.issueCause c (s.issuer c) w = none →
    s.GoesOn c (s.issuer c).advance →
    ∃ (y : Core) (en : Entry), exec i s = .next (s.issued c y) ∧ y.entries = (s.issuer c).entries ++ [en] ∧
      en.word = w ∧ en.eng = e ∧ en.on = true ∧ en.stage = .queued ∧ en.index = (s.issuer c).pc ∧
      en.seq = (s.issuer c).nextSeq ∧ y.nextSeq = (s.issuer c).nextSeq + 1 ∧
      (∀ n ∈ tdReads w ++ tdWrites w, en.td n = (s.issuer c).tN n) ∧ (∀ n ∈ scalReads w, en.sc n = (s.issuer c).sN n) ∧
      y.pred = (s.issuer c).pred ∧ y.td = (s.issuer c).td ∧ y.scal = (s.issuer c).advance.scal ∧
      y.pc = (s.issuer c).advance.pc ∧ y.sets = (s.issuer c).sets ∧ y.cells = (s.issuer c).cells

/-- Where core c of a job that runs issues an instruction with its predicate on and an engine instruction fails a check of Table ENC-16, or a
TDSET's value is out of range (cause 2), or the target of a TICK.WAIT from SA lies at or after the guard start (cause
4), or NOP, SMOVI or TDCOPY is the last instruction of a template (cause 5), the command answers a state in which the
job is FAULTED with ILLEGAL_OP, the core's fault fields, if empty before, hold code, cause
and frame slot, and (but for cause 5, which names no instruction) class, opcode and template index of the instruction;
memories and frame are unchanged, and so are all cores where the instruction itself is refused. That cause 5 is raised
with the last instruction, and the class 0, opcode 0 and index it is held with, are the model's choices (log entries 21
and 87). (04 Tynil Encoding, 02 Ticks and Frames) -/
def Obligations.IssueFaults : Prop :=
  ∀ (s : State) (c : Fin 48) (w : InsWord) (i : Instr) (cause : Nat), i.word = some (c, w) → s.MayIssue c w →
    (s.issuer c).selected (wPsel w) = true → s.dev.rd .coreSeqFaultCode c = 0 → s.dev.runs = true →
    (((∃ e, wordEng s.dev.order.fabricDies w = some e) ∧ s.dev.issueCause c (s.issuer c) w = some cause) ∨
     (∃ psel td fld sa add, i = .tdset c psel td fld sa add ∧ cause = 2 ∧
        tdsetValue ((s.issuer c).t td) fld add ((s.issuer c).s sa) = none) ∨
     (∃ psel sa offs, i = .tickWait c psel true sa offs ∧ cause = 4 ∧
        s.dev.period - s.dev.guardBand ≤ ((s.issuer c).s sa).toNat) ∨
     (cause = 5 ∧ ∃ z : Core, ((∃ psel, i = .nop c psel ∧ z = s.issuer c) ∨
        (∃ psel sd v, i = .smovi c psel sd v ∧ z = (s.issuer c).setS sd v) ∨
        (∃ psel tdd tda, i = .tdcopy c psel tdd tda ∧ z = (s.issuer c).setT tdd ((s.issuer c).t tda))) ∧
        ¬ s.GoesOn c z.advance)) →
    ∃ d, exec i s = .next { s with clk := s.issueClock c, dev := d } ∧
      d.job.phase = .faulted ∧ d.rd .jobStateFault = 0x11 ∧
      d.rd .coreSeqFaultCode c = 0x11 ∧ d.rd .coreSeqFaultCause c = cause ∧
      d.rd .coreSeqFaultSlot c = s.dev.frame.slot % 256 ∧
      (cause ≠ 5 → d.rd .coreSeqFaultClass c = wCls w ∧ d.rd .coreSeqFaultOpcode c = wOp w ∧
        d.rd .coreSeqFaultIndex c = (s.issuer c).pc % 2 ^ 18 ∧ d.cores = s.dev.cores) ∧
      d.mem = s.dev.mem ∧ d.frame = s.dev.frame

/-- QUEUE_HEAD_RELEASE changes nothing while the instruction at the head of the queue (with its predicate on) reads or
writes through a descriptor that an earlier unretired instruction of the core writes through, or writes through one
that such an instruction reads through; nor while no job is RUNNING or DRAINING or an ABORT is pending (but for the
control cycle in which a job becomes FAULTED); nor where the
queue is empty. In which states queue heads leave, and that they still do in the rest of the control cycle in which a job
becomes FAULTED, is the model's reading (log entry 31), and that TDPAIL counts as writing through its descriptor is its
choice (log entry 85). (04 Tynil Encoding, 03 Tynil Programming Model) -/
def Obligations.QueueHeadWaitsForDependencies : Prop :=
  ∀ (s : State) (c : Fin 48) (g : Eng),
    (∀ (e i : Entry) (n : Nat), s.dev.cores[c].head g = some e → e.on = true → i ∈ s.dev.cores[c].entries → i.on = true →
      i.seq < e.seq → ((n ∈ i.writes ∧ (n ∈ e.reads ∨ n ∈ e.writes)) ∨ (n ∈ i.reads ∧ n ∈ e.writes)) →
      exec (.queueHeadRelease c g) s = .next s) ∧
    ((s.dev.job.phase ≠ .running ∧ s.dev.job.phase ≠ .draining) ∨ s.dev.job.abort = true →
      (s.dev.job.phase = .faulted → s.dev.job.faultCc ≠ some s.clk.cc) → exec (.queueHeadRelease c g) s = .next s) ∧
    (s.dev.cores[c].queued g = [] → exec (.queueHeadRelease c g) s = .next s)

/-- Outside lock-step, while the engines work, QUEUE_HEAD_RELEASE takes the instruction that may leave its engine's queue
next. One whose predicate is off retires at once, but for those of the die collectives, and changes no scalar,
predicate, descriptor, accumulator set or memory of the core. One whose dependencies have retired and which its engine
starts, leaving the device d, is running afterwards: for the array, the pairing unit, the loader, the row engine and the
vector unit with the end of its work that the engine gives, and everything else as the engine left it; a GMEM
instruction's requests have become the newest ones; a Pail instruction's request stands with the Pail manager; a TIER
promote whose object is where it asks has its core's use pin, and a TEVICT to a worse tier marks its object; an
XCH.DISPATCH has given its rows to its slot's streams, an XCH.RECV and an XCH.COMBINE have taken up what landed before,
an XCH.RETURN has given the filled rows of its core back. A SEP, CHURN or COLL instruction that passes its checks stays
at the head as released. One that must wait changes no core and no memory. One that fails a check of Table ENC-16
marked Q, or finds its window invalid, or reads a poisoned byte, leaves its queue, has no effect, and makes the job
FAULTED with its code and cause. (04 Tynil Encoding, 03 Tynil Programming Model, 09 Churn and the Token Exchange, 12 Pail
Pool, 13 Memory Tiers, 14 Global Memory; when the engines work is read as log entry 31 says, TIER requests of one control
cycle are taken as log entry 82 says, and the array passes waiting stores as log entry 24 says; the invocation of an XCH
instruction is read as log entry 34 says, and that a GLD or GST of more than 8,128 bytes is two requests is the model's
choice, log entry 81) -/
def Obligations.QueueHeadStarts : Prop :=
  ∀ (s : State) (c : Fin 48) (g : Eng) (e : Entry), s.dev.clocked = true → s.dev.working = true →
    s.dev.lockstep = false → s.dev.cores[c].next g = some e →
    let k := if g = .tier then s.dev.tier.turn s.clk c.val else s.clk
    let after := fun (t : Dev) => exec (.queueHeadRelease c g) s = .next { s with clk := k, dev := t }
    let others := fun (t : Dev) => ∀ i, i ≠ c → t.cores[i] = s.dev.cores[i]
    let changed := fun (f : Entry → Entry) => s.dev.cores[c].entries.map fun i => if i.seq = e.seq then f i else i
    let regsKept := fun (t : Dev) => t.cores[c].scal = s.dev.cores[c].scal ∧ t.cores[c].pred = s.dev.cores[c].pred ∧
      t.cores[c].td = s.dev.cores[c].td ∧ t.cores[c].sets = s.dev.cores[c].sets
    let five := [Eng.array, .pairing, .loader, .row, .vec]
    (e.on = false → g ≠ .sep → g ≠ .churn → ∃ t, after t ∧
      t.cores[c].entries = s.dev.cores[c].entries.filter (fun i => i.seq ≠ e.seq) ∧ regsKept t ∧ others t ∧
      t.mem = s.dev.mem ∧ t.job = s.dev.job ∧ (g ∈ five → t.regs = s.dev.regs)) ∧
    (e.on = false → g = .sep ∨ g = .churn → exec (.queueHeadRelease c g) s = .next s) ∧
    (e.on = true → s.dev.cores[c].depsMet e = true →
      (∀ (d : Dev) (due : Nat) (done : Bool), s.dev.startAt k c g e = .go d due done →
        (g ∈ five → d.lockstep = false → ∃ t, after t ∧
          t.cores[c].entries = d.cores[c].entries.map (fun i =>
            if i.seq = e.seq then { i with stage := .running, due := due, done := i.done || done } else i) ∧
          t.cores[c].scal = d.cores[c].scal ∧ t.cores[c].sets = d.cores[c].sets ∧ t.cores[c].cells = d.cores[c].cells ∧
          (∀ i, i ≠ c → t.cores[i] = d.cores[i]) ∧ t.mem = d.mem ∧ t.job = d.job ∧ t.regs = d.regs) ∧
        (g = .gmem ∨ g = .pail ∨ g = .tier ∨ (∃ x, g = .coll x) → ∃ t, after t ∧ regsKept t ∧ others t ∧
          t.cores[c].entries = changed (fun i => { i with stage := .running, due := due, done := i.done || done }) ∧
          (g = .gmem → t.mem = s.dev.mem ∧ t.job = s.dev.job ∧
            let w := s.dev.window e.win
            let at_ := winNode w * 2 ^ 48 + winRegion w * 2 ^ 44 + winBase w + e.winOffset
            ∃ rs, t.gmem.reqs = s.dev.gmem.reqs ++ rs ∧
              rs.map (fun r => (r.mgmt, r.owner, r.op, r.node, r.addr, r.len)) = e.gmemParts.map (fun p =>
                (false, GOwner.core c e.seq e.win p.1, wOp e.word - 1, winNode w, at_ + p.1, p.2)) ∧
              (wOp e.word = 2 → ∀ l a, s.dev.gmemLocal c e = some (l, a) →
                rs.map (·.data) = e.gmemParts.map fun p => slice (s.dev.at_ l a e.gmemLen) p.1 p.2) ∧
              (wOp e.word = 3 → ∀ r ∈ rs, r.aop = wbits e.word 81 79 ∧ r.sa = (e.sc (wbits e.word 106 102)).toNat ∧
                r.sb = (e.sc (wbits e.word 101 97)).toNat)) ∧
          (g = .pail → t.mem = s.dev.mem ∧ t.job = s.dev.job ∧
            let h := (e.sc (wbits e.word 106 102)).toNat
            t.pail.reqs = s.dev.pail.reqs ++
              if wOp e.word = 1 then [(c.val, .alloc e.seq (wbits e.word 111 107) h)]
              else if wOp e.word = 2 then [(c.val, .release e.seq (h % 2 ^ 32))]
              else if wOp e.word = 3 then
                [(c.val, .share e.seq (h % 2 ^ 32) ((e.sc (wbits e.word 101 97)).toNat % 64))]
              else []) ∧
          (g = .tier → ∀ o : TierObj, s.dev.tier.objs[(e.sc (wbits e.word 106 102)).toNat % 2 ^ 20]? = some o →
            let target := if wOp e.word = 3 then 1 else wbits e.word 101 100
            ∃ o', t.tier.objs[(e.sc (wbits e.word 106 102)).toNat % 2 ^ 20]? = some o' ∧
              ((wOp e.word = 1 ∨ wOp e.word = 3) → o.move = none → o.tier ≤ target → c.val ∈ o'.pins) ∧
              (wOp e.word = 2 → o.tier < target → o'.marked = some (max target (o.marked.getD 0)))) ∧
          ((∃ x, g = .coll x) → t.mem = s.dev.mem ∧ t.job = s.dev.job)) ∧
        (g = .xch → ∀ (sl : XchSlot) (l : XchLayer) (n : Nat), s.dev.slotLayer e.slot = some (sl, l) →
          s.dev.invocationOf sl e = some n →
          let mine := fun (x : XchRow) => (sl.arrival (l.localIndex (recX x.record))).1 = c.val
          let host := s.dev.hostOf e.slot n
          let sent := s.dev.sendOf e.slot n
          ∃ t, after t ∧ others t ∧
            (∃ e' ∈ t.cores[c].entries, e'.seq = e.seq ∧ e'.stage = .running ∧ (done = true → e'.done = true)) ∧
            (wOp e.word = 1 → t.sendOf e.slot n = { sent with
              parts := sent.parts ++ [⟨c.val, some e.gen, s.dev.routeFor c l.layer,
                (s.dev.dispatchRecords c e sl l).1.map (·.2)⟩]
              units := sent.units ++ (s.dev.dispatchRecords c e sl l).1.map fun r =>
                ⟨r.1, e.gen, leBytes 8 r.2 ++ (s.dev.readRow c (e.td l.srcTd) (recRow r.2) l.width).toBytes l.dfmt⟩ }) ∧
            (wOp e.word = 2 → (t.hostOf e.slot n).opened = host.opened ++ [c.val] ∧
              (t.hostOf e.slot n).landed = host.landed.filter fun x => !decide (mine x.row)) ∧
            (wOp e.word = 3 → t.hostOf e.slot n = { host with
              units := host.units ++ (host.filled.filter fun r => decide ((sl.arrival r.li).1 = c.val)).map fun r =>
                ⟨r.row.rank, r.row.gen, leBytes 8 r.row.record ++
                  (s.dev.readRow c e.tda ((sl.arrival r.li).2 + r.k) l.width).toBytes l.rfmt⟩ }) ∧
            (wOp e.word = 4 → (t.sendOf e.slot n).opened = sent.opened ++ [c.val] ∧
              ∀ x ∈ sent.done, x ∈ (t.sendOf e.slot n).done))) ∧
      (∀ d : Dev, s.dev.startAt k c g e = .released d → g = .sep ∨ g = .churn ∨ (∃ x, g = .coll x) → ∃ t, after t ∧
        t.cores[c].entries = changed (fun i => { i with done := true }) ∧ regsKept t ∧ others t ∧ t.mem = s.dev.mem ∧
        t.job = s.dev.job ∧ (g = .sep ∨ g = .churn → t.regs = s.dev.regs ∧ t.sep = s.dev.sep ∧ t.churn = s.dev.churn)) ∧
      (s.dev.startAt k c g e = .wait → ∃ t, after t ∧ t.cores = s.dev.cores ∧ t.mem = s.dev.mem ∧ t.job = s.dev.job ∧
        t.gmem.reqs = s.dev.gmem.reqs ∧ t.tier = s.dev.tier ∧ t.xch = s.dev.xch) ∧
      let gone := fun (t : Dev) (code : Nat) => t.cores[c].entries = changed (fun i => { i with stage := .running }) ∧
        regsKept t ∧ others t ∧ t.mem = s.dev.mem ∧ t.frame = s.dev.frame ∧ t.job.phase = .faulted ∧
        t.rd .jobStateFault = code
      (∀ cause : Nat, s.dev.startAt k c g e = .fault cause →
        let code := if cause = 8 ∨ cause = 9 then 0x12 else 0x11
        ∃ t, after t ∧ gone t code ∧ (s.dev.rd .coreSeqFaultCode c = 0 → t.rd .coreSeqFaultCode c = code ∧
          t.rd .coreSeqFaultCause c = cause % 2 ^ (Fld.coreSeqFaultCause).width ∧ t.rd .coreSeqFaultClass c = wCls e.word ∧
          t.rd .coreSeqFaultOpcode c = wOp e.word)) ∧
      (∀ (l : Loc) (a : Nat), s.dev.startAt k c g e = .poison l a →
        ∃ t, after t ∧ gone t (if l = .hbm then 0x50 else 0x51)) ∧
      (g = .gmem → ∀ (d : Dev) (cause : Nat), s.dev.startAt k c g e = .raised d → s.dev.windowCause e = some cause →
        ∃ t, after t ∧ gone t 0x31 ∧ t.rd .gmemFaultCode = 0x31 ∧ t.rd .gmemFaultCause = cause ∧
          t.rd .gmemFaultCore = c.val ∧ t.rd .gmemFaultNode = winNode (s.dev.window e.win)))

/-- While the engines work, INSTRUCTION_RETIRE for an engine of a core, one of whose instructions may
retire (of those whose work is known to end, the one that ends first), passes time to the end of its work and removes
exactly that instruction from the core. SD of a PALLOC or a GATOM receives the instruction's result and the descriptor of
a TDPAIL space 3 and the handle in SH; all other scalars and descriptors, the predicates, the accumulator sets, the other
cores, memories and the job are unchanged; under lock-step the digests of a frame that the instruction was the last of
may fault the job with LOCKSTEP (0x90). An XCH.DISPATCH counts as dispatched on its slot's sending side, where the
last one of the dispatch mask hands the collected rows to the streams, and in the layer's final slot its Pails are handed
back; an XCH.RECV counts as received, an XCH.RETURN as returned, an XCH.COMBINE as combined, which drops the held
returns that its retirement has made stale; an invocation that is over on its side is forgotten. Where no instruction of the engine has its work known to end, nothing changes. (04 Tynil
Encoding, 09 Churn and the Token Exchange; when the engines work is read as log entry 31 says, and the exchange's
invocations as log entry 34 says) -/
def Obligations.InstructionsRetire : Prop :=
  ∀ (s : State) (c : Fin 48) (g : Eng), s.dev.clocked = true → s.dev.working = true →
    (∀ e : Entry, s.dev.cores[c].retiring g = some e → e.on = true → wordEng s.dev.order.fabricDies e.word = some g →
      let old := s.dev.cores[c]
      ∃ t, exec (.instructionRetire c g) s = .next { s with clk := s.clk.toUnit (s.dev.dueUnit c e), dev := t } ∧
        t.cores[c].entries = old.entries.filter (fun i => i.seq ≠ e.seq) ∧
        (∀ r : BitVec 5, t.cores[c].s r =
          if ((g = .pail ∧ wOp e.word = 1) ∨ (g = .gmem ∧ wOp e.word = 3)) ∧ r.toNat = wbits e.word 111 107
          then e.result else old.s r) ∧
        (∀ r : BitVec 6, t.cores[c].t r =
          if g = .pail ∧ wOp e.word = 4 ∧ r.toNat = wbits e.word 111 106
          then tdPut (tdPut (old.t r) 3 0 3) 107 64 ((e.sc (wbits e.word 105 101)).toNat % 2 ^ 32) else old.t r) ∧
        t.cores[c].pred = old.pred ∧ t.cores[c].sets = old.sets ∧
        (∀ i, i ≠ c → t.cores[i] = s.dev.cores[i]) ∧ t.mem = s.dev.mem ∧
        (t.job = s.dev.job ∨ (s.dev.lockstep = true ∧ t.job.phase = .faulted ∧ t.rd .jobStateFault = 0x90)) ∧
        (g = .xch → ∀ (sl : XchSlot) (l : XchLayer) (n : Nat), s.dev.slotLayer e.slot = some (sl, l) →
          s.dev.invocationOf sl e = some n →
          let host := s.dev.hostOf e.slot n
          let sent := s.dev.sendOf e.slot n
          let all := fun (cs done : List Nat) => ∀ x ∈ cs, x ∈ done ++ [c.val]
          (wOp e.word = 1 → t.sendOf e.slot n = { sent with
              dispatched := sent.dispatched ++ [c.val]
              units := if sl.senders.all ((sent.dispatched ++ [c.val]).contains ·) then [] else sent.units } ∧
            t.pail.reqs = s.dev.pail.reqs ++
              if sl.final = true ∧ (s.dev.dispatchRecords c e sl l).2.2 ≠ []
              then [(c.val, .dispatch e.seq (s.dev.dispatchRecords c e sl l).2.2)] else []) ∧
          (wOp e.word = 2 →
            if host.answered = true ∧ l.g ≤ host.markers.length ∧ all sl.cores host.recvd
            then ∀ h ∈ t.xch.hosts, ¬ (h.slot = e.slot ∧ h.n = n)
            else t.hostOf e.slot n = { host with recvd := host.recvd ++ [c.val] }) ∧
          (wOp e.word = 3 → host.answered = false → sl.cores ≠ [] → ¬ all sl.cores host.returned →
            t.hostOf e.slot n = { host with returned := host.returned ++ [c.val] }) ∧
          (wOp e.word = 4 →
            if l.g ≤ sent.markers.length ∧ all sl.senders sent.combined
            then ∀ h ∈ t.xch.sends, ¬ (h.slot = e.slot ∧ h.n = n)
            else t.sendOf e.slot n = { sent with
              combined := sent.combined ++ [c.val]
              landed := sent.landed.filter fun x => !t.staleReturn e.slot x.row.gen }))) ∧
    (s.dev.cores[c].retiring g = none → exec (.instructionRetire c g) s = .next s)

/-- An MM.LOAD that the array starts puts its block into the shadow as unfinished, ends its work 12 times the format's bit
width in arithmetic cycles after it begins, which it does at once or when the last run begins to stream if that is later, and
leaves the loaded cells, the accumulator sets and every memory alone. ARRAY_FILL_DONE passes time to the end of the
fill that ends first, marks that MM.LOAD as able to retire and the shadow's block as filled if it is the one it
brought, and changes no cell, set, scalar or memory. That a fill waits until the last run streams, and what becomes of a
fill whose block a newer one has overtaken, are the model's choices (log entry 24). (06 Matrix Array) -/
def Obligations.FillsOfTheArray : Prop :=
  (∀ (d e' : Dev) (k : Clock) (c : Fin 48) (e : Entry) (due : Nat) (done : Bool), d.startLoad k c e = .go e' due done →
    due = (max (d.dieAc k (dieOf c)) d.cores[c].streamFrom + 12 * (Td.fmt e.tda).qWidth) * 5 ∧ done = false ∧
    (∃ b, e'.cores[c].shadow = some (b, false) ∧ b.seq = e.seq) ∧
    e'.cores[c].cells = d.cores[c].cells ∧ e'.cores[c].sets = d.cores[c].sets ∧ e'.mem = d.mem) ∧
  (∀ (s : State) (c : Fin 48) (e : Entry) (b : Block), s.dev.clocked = true →
    s.dev.cores[c].filling = some e → s.dev.cores[c].shadow = some (b, false) →
    ∃ t, exec (.arrayFillDone c) s = .next { s with clk := s.clk.toUnit (s.dev.dueUnit c e), dev := t } ∧
      t.cores[c].shadow = some (b, decide (b.seq = e.seq)) ∧
      t.cores[c].entries = s.dev.cores[c].entries.map (fun i => if i.seq = e.seq then { i with done := true } else i) ∧
      t.cores[c].cells = s.dev.cores[c].cells ∧ t.cores[c].sets = s.dev.cores[c].sets ∧
      t.cores[c].scal = s.dev.cores[c].scal ∧ (∀ i, i ≠ c → t.cores[i] = s.dev.cores[i]) ∧ t.mem = s.dev.mem ∧
      t.regs = s.dev.regs)

/-- Where a run does not skim and the set is exact, one token row adds to each element of its set row the exact sum of the
products of the row with that column, in units of the set's weight; a result outside the signed 96-bit range is held
at the nearer end. Elements of other rows, and of columns beyond the block, are unchanged, and so are the set's weight
and mode. An MM.RUN that nothing before it holds, with a loaded block, whose tiles can be read and whose set, where it adds
to it, is not poisoned, starts: it clears its set unless ACC = 1 and adds each of its token rows (those of its tile rows
inside the valid extent) to the set row of that tile row and place, times each column of the block; in F32 mode it adds in
F32. A skimming run of an exact set stops an element where the earlier contents and the planes before SKIM_AT, with the
most that the other planes can still add (in predictive mode a share of ρ / 256 of it), do not exceed a finite threshold,
and leaves +0 there; it leaves another element's sum where that exceeds the threshold, +0 otherwise, and closes the set.
Every other element, set and core, and memory, is as before. An MM.PAIR that nothing before it holds, whose tiles can be read and whose set, where it adds to it, is not
poisoned, starts: to element (i, j) of its set, which it clears unless ACC = 1, it adds the exact sum over the columns
of both operands of row i of TDA times row j of TDB, held in the same range, for every valid row of its TDA tiles and
every row of TDB, and it changes no other element, no other core and no memory. An MM.STORE of one tile that nothing
before it holds, of a set that is not poisoned, through a descriptor of plain tiles it may write, starts and leaves at
every valid position the narrowed value of the set's element there, and every other position of the tile as it was.
(06 Matrix Array, 07 Sparsity, 05 Number Formats) -/
def Obligations.AccumulatorRowsAddProducts : Prop :=
  (∀ (a : AccSet) (k : SkimCtx) (b row : Nat) (xs : List QE) (cols : List (List QE)) (n : RunCounts),
    k.mode = 0 → a.f32 = false → cols.length ≤ 768 →
    let r := (a.addRow k b row xs cols n).1
    (∀ (j : Nat) (ys : List QE), cols[j]? = some ys → r.elem row j =
      max (-(2 ^ 95)) (min (2 ^ 95 - 1) (a.elem row j + dotExact a.weight xs ys))) ∧
    (∀ i j, j < 768 → (i ≠ row ∨ cols.length ≤ j) → r.elem i j = a.elem i j) ∧
    r.weight = a.weight ∧ r.f32 = false ∧ r.tcols = a.tcols) ∧
  (∀ (d : Dev) (k : Clock) (c : Fin 48) (e : Entry) (b : Block),
    let x := d.cores[c]
    let f := Td.fmt e.tda
    let bf := (Fmt.ofCode b.fmt).getD (.int 1)
    let a := x.sets[e.setNo].begin e.acc b.tcols bf f (b.fmt, Td.format e.tda)
    let row := fun i => (List.range (64 * e.nc)).map fun j =>
      ((d.readTile c e.tda (e.sr + i / 64) (e.scol + j / 64)).pairs f).getD (64 * (i % 64) + j % 64) ⟨0, 0⟩
    let col := fun j => b.rows.map fun r => r.getD j QE.none
    let st := (e.sc (wbits e.word 41 37)).toNat
    let mode := wbits e.word 47 46
    let step : Int := 2 ^ (bf.qWidth - wbits e.word 45 42)
    let first := fun i j => dotExact a.weight (row i) ((col j).map fun y => { y with q := y.q / step * step })
    let pos := fun i j => dotExact a.weight ((row i).map fun y => { y with q := max y.q 0 })
      ((col j).map fun y => { y with q := 1 })
    let stops := fun i j => (f32 st).isFinite = true ∧
      if mode = 1 then (Val.fin (a.elem i j + first i j + (step - 1) * pos i j) a.weight).le (f32 st) = true
      else (Val.fin (256 * (a.elem i j + first i j) + bitRange st 39 32 * (step - 1) * pos i j) (a.weight - 8)).le
        (f32 st) = true
    let sum := fun i j => max (-(2 ^ 95)) (min (2 ^ 95 - 1) (a.elem i j + dotExact a.weight (row i) (col j)))
    b.tcols ≤ 12 → x.runBlock = some b → (x.setBusy e [4] || x.storeAhead e true) = false →
    d.checkTiles c [(e.tda, rect e.sr e.scol e.nr e.nc)] [] = none → (e.acc = true → x.sets[e.setNo].poison = none) →
    ∃ t due, d.startRun k c e = .go t due true ∧ t.mem = d.mem ∧ (∀ i, i ≠ c → t.cores[i] = d.cores[i]) ∧
      (∀ i, i ≠ e.setNo → t.cores[c].sets[i] = x.sets[i]) ∧ (mode ≠ 0 → t.cores[c].sets[e.setNo].closed = true) ∧
      ∀ i j, j < 768 → t.cores[c].sets[e.setNo].elem i j =
        if i / 64 < e.nr ∧ i % 64 < validRows e.tda (e.sr + i / 64) ∧ j < 64 * b.tcols then
          if a.f32 = true then (f32Bits (dotF32 (a.val i j) (row i) (col j)) : Int)
          else if mode = 0 then sum i j
          else if stops i j then 0
          else if (f32 st).lt (Val.fin (sum i j) a.weight) = true then sum i j else 0
        else a.elem i j) ∧
  (∀ (d : Dev) (k : Clock) (c : Fin 48) (e : Entry),
    let x := d.cores[c]
    let u := Td.rows e.tdb
    let fa := Td.fmt e.tda
    let fb := Td.fmt e.tdb
    let a := x.sets[e.setNo].begin e.acc u fb fa (Td.format e.tdb, Td.format e.tda)
    let left := fun i => (List.range (64 * e.nc)).map fun j =>
      ((d.readTile c e.tda (i / 64) (j / 64)).pairs fa).getD (64 * (i % 64) + j % 64) ⟨0, 0⟩
    let right := fun i => (List.range (64 * e.nc)).map fun j =>
      ((d.readTile c e.tdb (i / 64) (j / 64)).pairs fb).getD (64 * (i % 64) + j % 64) ⟨0, 0⟩
    u ≤ 12 → (x.setBusy e [2] || (!e.acc && x.setBusy e [3]) || x.storeAhead e true) = false →
    d.checkTiles c [(e.tda, rect 0 0 e.nr e.nc), (e.tdb, rect 0 0 u e.nc)] [] = none →
    (e.acc = true → x.sets[e.setNo].poison = none) →
    ∃ t due, d.startPair k c e = .go t due true ∧ t.mem = d.mem ∧ (∀ i, i ≠ c → t.cores[i] = d.cores[i]) ∧
      (∀ i, i ≠ e.setNo → t.cores[c].sets[i] = x.sets[i]) ∧
      ∀ i j, j < 768 → t.cores[c].sets[e.setNo].elem i j =
        if i / 64 < e.nr ∧ i % 64 < validRows e.tda (i / 64) ∧ j < 64 * u then
          max (-(2 ^ 95)) (min (2 ^ 95 - 1) (a.elem i j + dotExact a.weight (left i) (right j)))
        else a.elem i j) ∧
  (∀ (d : Dev) (k : Clock) (c : Fin 48) (e : Entry),
    let a := d.cores[c].sets[e.setNo]
    e.nr = 1 → e.nc = 1 → PlainTiles e.tdd → d.cores[c].setBusy e [4] = false → a.poison = none →
    d.checkTiles c [] [(e.tdd, rect e.sr e.scol 1 1)] = none →
    ∃ t due, d.startStore k c e = .go t due true ∧ t.cores[c].sets = d.cores[c].sets ∧
      d.TileBecomes t c e.tdd e.sr e.scol (fun _ => True) fun i =>
        (narrowTile (Td.fmt e.tdd) (d.rndCtx c 1 e) 0 (inValid e.tdd e.sr e.scol)
          ((List.range 4096).map fun i => a.val (i / 64) (i % 64))).codes.getD i 0)

/-- For an integer format of n bits, 1 to 16, an integer value narrows under either rounding to the code of the nearest
value of the format's range; the saturation is counted exactly where the value lies outside the range; and the code
decodes to the saturated value. Of the 256 scale bytes, 0x80 stands for a zero block; every other byte stands for its
two's complement value held to the range −15 to 15, and counts as clamped exactly where it had to be held. (05 Number
Formats) -/
def Obligations.NarrowingAndScales : Prop :=
  (∀ (n : Nat) (r : Rounding) (sc : Option Int) (v : Int), 1 ≤ n → n ≤ 16 →
    let w := max (-(2 ^ (n - 1) : Int)) (min (2 ^ (n - 1) - 1) v)
    ((Fmt.int n).decode sc ((Fmt.int n).narrow r sc (.fin v 0)).code = .fin w 0) ∧
    ((Fmt.int n).narrow r sc (.fin v 0)).sat = decide (w ≠ v) ∧ ((Fmt.int n).narrow r sc (.fin v 0)).nanZero = false) ∧
  (∀ b : Nat, b < 256 →
    scaleOf b = if b = 0x80 then (none, false) else
      let v : Int := if b < 128 then b else (b : Int) - 256
      (some (max (-15) (min 15 v)), decide (v < -15 ∨ 15 < v)))

/-- A tile read through a descriptor gives code 0 at every position outside the valid extent; a tile whose row or column
lies beyond the descriptor's extents has cause 0x8, and a tile within them whose element bytes leave the space, the
Pail or the usable store has cause 0x9. Into one plain tile, at every position of the valid extent: MOVE.FILL writes the
low bits of its scalar, for T2 with 0b10 as 0; MOVE.TILE between equal formats writes the source's code there, or where
TDA transposes the code of the mirrored position, for T2 with 0b10 as 0, and between other formats that value narrowed; VADD, VMUL, VFMA,
VSCALE and VACT write the narrowed sum, product, product and sum, product with the scalar, and function value of their
operands' elements; VGATE writes the narrowed sum of TDD's element and of its entries' results, each times the entry's
weight, entries that are skipped left out; VOPT, with its record and tiles that lie apart, writes the parameter and the
moments of R358, each operation rounded to F32, the moments to nearest even, and with FN 0 leaves TDC. VAMAX puts the
largest finite magnitude of the valid elements into its record's history and moves head and count on, sets the flag
where an element is not finite, and sets scale and reciprocal from the largest entry where that is above zero and the
target is F8e4, F8e5 or F16b; the record's other bytes and the rest of the tile store stay. A row instruction writes the rows that it computes from the valid columns of its operands' rows,
narrowed, at the valid positions that its TDA has too. Every other position keeps its code. Each of them starts where
its engine is idle and its tiles, operand records and kept statistics can be accessed. That MOVE.TILE between equal
formats turns T2's 0b10 into 0 (log entry 89), and which operand's extent a row instruction takes (log entry 94), are
the model's choices; the rows of TDA that VGATE's entries weight are its reading (log entry 29). (03 Tynil Programming
Model, 04 Tynil Encoding, 05 Number Formats, 06 Matrix Array, 08 Separator, 10 Backward Pass and Training Modes, 16
Collectives) -/
def Obligations.ValidExtent : Prop :=
  (∀ (d : Dev) (c : Fin 48) (t : TileDesc) (r q : Nat),
    (∀ i, i < 4096 → inValid t r q i = false → (d.readTile c t r q).codes.getD i 0 = 0) ∧
    (Td.rows t ≤ r ∨ Td.cols t ≤ q → d.tileFault c t r q = some 8) ∧
    (r < Td.rows t → q < Td.cols t → d.spaceAt c t (Td.base t) (tileOff t r q) (denseBytes t) = none →
      d.tileFault c t r q = some 9)) ∧
  (∀ (d : Dev) (k : Clock) (c : Fin 48) (e : Entry), e.nr = 1 → e.nc = 1 → PlainTiles e.tdd →
    let f := Td.fmt e.tdd
    let fa := Td.fmt e.tda
    let all := fun (_ : Nat) => True
    let narrowed := fun (rc : RndCtx) (valid : Nat → Bool) (vs : Nat → Val) (i : Nat) =>
      (narrowTile f rc 0 valid ((List.range 4096).map vs)).codes.getD i 0
    (d.cores[c].idle .loader = true → wOp e.word = 2 → d.checkTiles c [] [(e.tdd, rect e.sr e.scol 1 1)] = none →
      ∃ t due, d.startLoader k c e = .go t due true ∧ d.TileBecomes t c e.tdd e.sr e.scol all fun _ =>
        let v := (e.sc (wbits e.word 50 46)).toNat % 2 ^ f.width
        if f = .t2 ∧ v % 4 = 2 then 0 else v) ∧
    (d.cores[c].idle .loader = true → wOp e.word = 1 →
      d.checkTiles c [(e.tda, rect e.sr e.scol 1 1)] [(e.tdd, rect 0 0 1 1)] = none →
      let x := d.readTile c e.tda e.sr e.scol
      let at_ := fun i => if Td.transpose e.tda then 64 * (i % 64) + i / 64 else i
      ∃ t due, d.startLoader k c e = .go t due true ∧ d.TileBecomes t c e.tdd 0 0 all fun i =>
        if fa = f then (if f = .t2 ∧ x.codes.getD (at_ i) 0 % 4 = 2 then 0 else x.codes.getD (at_ i) 0)
        else narrowed (d.rndCtx c 0 e) (inValid e.tdd 0 0) (fun i => x.val fa (at_ i)) i) ∧
    (d.cores[c].idle .vec = true → d.recordFault c e = false → 1 ≤ wOp e.word → wOp e.word ≤ 5 →
      d.checkTiles c e.vecTiles.1 e.vecTiles.2 = none →
      let a := (d.readTile c e.tda 0 0).val fa
      let b := (d.readTile c e.tdb 0 0).val (Td.fmt e.tdb)
      let x := (d.readTile c e.tdc 0 0).val (Td.fmt e.tdc)
      ∃ t due, d.startVec k c e = .go t due true ∧ d.TileBecomes t c e.tdd 0 0 all
        (narrowed (d.rndCtx c 3 e) (inValid e.tdd 0 0) fun i =>
          match wOp e.word with
          | 1 => (a i).add (b i)
          | 2 => (a i).mul (b i)
          | 3 => ((a i).mul (b i)).add (x i)
          | 4 => (a i).mul (f32 (e.sc (wbits e.word 50 46)).toNat)
          | _ => actFn (wbits e.word 45 42) (a i))) ∧
    (d.cores[c].idle .vec = true → d.recordFault c e = false → wOp e.word = 7 →
      d.checkTiles c e.vecTiles.1 e.vecTiles.2 = none →
      let n := Td.tokenRows e.tda / Td.tokenRows e.tdb
      let list := d.readTile c e.tdb 0 0
      let entry := fun (i j : Nat) =>
        let kind := bitRange (list.codes.getD (64 * (i / 64) + 2 * j) 0) 15 14
        let row := n * (i / 64) + j
        if kind = 0 ∨ kind = 2 then
          some ((list.val (Td.fmt e.tdb) (64 * (i / 64) + 2 * j + 1)).mul
            ((d.readTile c e.tda (row / 64) 0).val fa (64 * (row % 64) + i % 64)))
        else none
      ∃ t due, d.startVec k c e = .go t due true ∧ d.TileBecomes t c e.tdd 0 0 all
        (narrowed (d.rndCtx c 3 e) (inValid e.tdd 0 0) fun i =>
          ((List.range (min n 32)).filterMap (entry i)).foldl Val.add ((d.readTile c e.tdd 0 0).val f i))) ∧
    (d.cores[c].idle .vec = true → d.recordFault c e = false → wOp e.word = 8 →
      d.checkTiles c e.vecTiles.1 e.vecTiles.2 = none → PlainTiles e.tdb → PlainTiles e.tdc →
      let apart := fun (t u : TileDesc) => ∀ l a b,
        d.spaceAt c t (Td.base t) (tileOff t 0 0) (denseBytes t) = some (l, a) →
        d.spaceAt c u (Td.base u) (tileOff u 0 0) (denseBytes u) = some (l, b) →
        a + denseBytes t ≤ b ∨ b + denseBytes u ≤ a
      apart e.tdd e.tdb → apart e.tdd e.tdc → apart e.tdb e.tdc →
      let o := readOpt (d.locRead (.tile c) (e.sc (wbits e.word 50 46)).toNat 64)
      let one := Val.ofInt 1
      let old := fun (t : TileDesc) (i : Nat) => (d.readTile c t 0 0).val (Td.fmt t) i
      let g := fun i => mulF32 (old e.tda i) o.gamma
      let first := wbits e.word 45 42 = 0
      let m := fun i => addF32 (mulF32 o.beta1 (old e.tdb i)) (if first then g i else mulF32 (subF32 one o.beta1) (g i))
      let v := fun i => addF32 (mulF32 o.beta2 (old e.tdc i)) (mulF32 (mulF32 (subF32 one o.beta2) (g i)) (g i))
      let u := fun i => if first then m i else
        divF32 (mulF32 (m i) (biasFix o.beta1 o.t)) (addF32 (sqrtF32 (mulF32 (v i) (biasFix o.beta2 o.t))) o.eps)
      let p := fun i => subF32 (old e.tdd i) (mulF32 o.eta (addF32 (u i) (mulF32 o.lambda (old e.tdd i))))
      let moment := fun (t : TileDesc) (vs : Nat → Val) (i : Nat) =>
        (narrowTile (Td.fmt t) { d.rndCtx c 3 e with stochastic := false } 0 (inValid t 0 0)
          ((List.range 4096).map vs)).codes.getD i 0
      ∃ t due, d.startVec k c e = .go t due true ∧
        d.TileBecomes t c e.tdd 0 0 all (narrowed (d.rndCtx c 3 e) (inValid e.tdd 0 0) p) ∧
        d.TileBecomes t c e.tdb 0 0 all (moment e.tdb m) ∧
        d.TileBecomes t c e.tdc 0 0 (fun _ => ¬ first) (moment e.tdc v)) ∧
    (d.cores[c].idle .row = true → d.statPoison k c e = none → d.checkTiles c e.rowTiles.1 e.rowTiles.2 = none →
      let row := fun (on : Bool) (t : TileDesc) (i : Nat) => if on then
          (List.range (validCols e.tda 0)).map fun j => (d.readTile c t 0 0).val (Td.fmt t) (64 * i + j)
        else []
      let out := fun i => (rowCompute e (row true e.tda i) (row (decide (2 < wOp e.word)) e.tdb i)
        (row (wOp e.word = 2 || wOp e.word = 4) e.tdc 0)
        (if e.statReads then d.readStat c (e.statAt 0 i) else (Val.zero, Val.zero))).ys
      let has := fun i => i / 64 < validRows e.tda 0 ∧ i % 64 < validCols e.tda 0
      ∃ t due, d.startRow k c e = .go t due true ∧ d.TileBecomes t c e.tdd 0 0 has
        (narrowed (d.rndCtx c 2 e) (fun i => decide (has i) && inValid e.tdd 0 0 i) fun i =>
          if has i then (out (i / 64)).getD (i % 64) Val.zero else Val.zero))) ∧
  (∀ (d : Dev) (k : Clock) (c : Fin 48) (e : Entry), d.cores[c].idle .vec = true → d.recordFault c e = false →
    wOp e.word = 6 → d.checkTiles c e.vecTiles.1 e.vecTiles.2 = none →
    let at_ := (e.sc (wbits e.word 50 46)).toNat
    let old := d.locRead (.tile c) at_ 128
    let vs := (rect 0 0 e.nr e.nc).flatMap fun p => ((List.range 4096).filter (inValid e.tda p.1 p.2)).map
      fun i => (d.readTile c e.tda p.1 p.2).val (Td.fmt e.tda) i
    let head := field old 0x40 1 % 16
    let count := min (field old 0x41 1 + 1) 16
    ∃ t due, d.startVec k c e = .go t due true ∧
      (∀ q, q < at_ ∨ at_ + 128 ≤ q → t.locRead (.tile c) q 1 = d.locRead (.tile c) q 1) ∧
      let new := t.locRead (.tile c) at_ 128
      let hs := (List.range count).map fun i => f32 (field new (4 * i) 4)
      let scales := scaleTop (field old 0x42 1)
      (∃ a : Val, (a = Val.zero ∨ ∃ v ∈ vs, v.isFinite = true ∧ a = v.abs) ∧
        (∀ v ∈ vs, v.isFinite = true → v.abs.le a = true) ∧
        ∀ i, i < 16 → field new (4 * i) 4 = if i = head then f32Bits a else field old (4 * i) 4) ∧
      field new 0x40 1 = (head + 1) % 16 ∧ field new 0x41 1 = count ∧ slice new 0x42 2 = slice old 0x42 2 ∧
      slice new 0x50 48 = slice old 0x50 48 ∧
      field new 0x44 4 = field old 0x44 4 ||| (if ∃ v ∈ vs, v.isFinite = false then 1 else 0) ∧
      (∀ h top, h ∈ hs → (∀ x ∈ hs, x.le h = true) → Val.zero.lt h = true → scales = some top →
        let b := max (-126) (min 127 (log2Ratio top h - twos 8 (field old 0x43 1)))
        field new 0x48 4 = pow2F32 b ∧ field new 0x4C 4 = pow2F32 (-b)) ∧
      ((∀ x ∈ hs, x.le Val.zero = true) ∨ scales = none → slice new 0x48 8 = slice old 0x48 8))

/-- The Pail that a search of a share finds is FREE, lies in the share and has no FREE Pail of a lower index in the share;
where it finds none, none is FREE. PAIL_REQUEST_APPLY for a core's next request while the job is RUNNING or DRAINING
passes time to the control cycle in which the manager takes requests and takes the request away. An allocation takes the
lowest-indexed FREE Pail of the core's share in the class of the size, which is HELD by the core afterwards, and its
handle becomes the result of the PALLOC, which may retire; without one, SD of the PALLOC reads 0 at once and the job is
FAULTED with PAIL_EXHAUSTED (0x82). A free by the holding core makes the Pail FREE, one by the final owner of a SHARED
Pail makes it RETURNING in this control cycle; a free of a FREE Pail, or of a RETURNING one, is PAIL_DOUBLE_FREE (0x80);
one of a Pail that another core holds or owns, of a landing Pail, or by another core in the control cycle of the final
owner's free, is PAIL_NOT_OWNER (0x81). A share by the holder or the final owner makes the Pail SHARED with the named core
as final owner; any other share is PAIL_NOT_OWNER. The PFREE or PSHARE may retire in each of these cases. A CHURN.SORT's
request takes a Pail for its copy as an allocation does, and the list of a final XCH.DISPATCH is freed as by single
frees. A fault of a job without a pending ABORT makes it FAULTED and, where PAIL_FAULT was empty, records code, core,
class, state and handle. No other Pail's state changes; memories are unchanged, and so are all cores but for the request's
own entry, and the job where nothing faults. (12 Pail Pool; when the manager takes a request is the model's reading, log
entry 36) -/
def Obligations.PailRequests : Prop :=
  (∀ (d : Dev) (cls home first n : Nat),
    (∀ h, d.lowestFree cls home first n = some h → ∃ i, i < n ∧ h = mkHandle cls home (first + i) ∧
      d.pailState h = .free ∧ ∀ j, j < i → d.pailState (mkHandle cls home (first + j)) ≠ .free) ∧
    (d.lowestFree cls home first n = none → ∀ i, i < n → d.pailState (mkHandle cls home (first + i)) ≠ .free)) ∧
  (∀ (s : State) (c : Fin 48) (r : PailReq), s.dev.clocked = true →
    s.dev.job.phase = .running ∨ s.dev.job.phase = .draining → s.dev.nextRequest c = some r →
    let k := s.dev.pailTime s.clk
    let after := fun (t : Dev) => exec (.pailRequestApply c) s = .next { s with clk := k, dev := t } ∧
      t.pail.reqs = s.dev.pail.reqs.erase (c.val, r) ∧ t.mem = s.dev.mem
    let others := fun (t : Dev) => ∀ i, i ≠ c → t.cores[i] = s.dev.cores[i]
    let finished := fun (t : Dev) (seq : Nat) (v : Scalar) => others t ∧
      t.cores[c] = { s.dev.cores[c] with
        entries := s.dev.cores[c].entries.map fun e => if e.seq = seq then e.finish v else e }
    let becomes := fun (t : Dev) (h : Nat) (st : PailState) =>
      ∀ h', t.pailState h' = if h' = h then st else s.dev.pailState h'
    let same := fun (t : Dev) => ∀ h', t.pailState h' = s.dev.pailState h'
    let faults := fun (t : Dev) (code cls st h : Nat) => s.dev.job.abort = false →
      t.job.phase = .faulted ∧ t.rd .jobStateFault = code ∧
      (s.dev.rd .pailFaultCode = 0 → t.rd .pailFaultCode = code ∧ t.rd .pailFaultCore = c.val ∧
        t.rd .pailFaultClass = cls % 8 ∧ t.rd .pailFaultState = st ∧ t.rd .pailFaultHandle = h % 2 ^ 32)
    let found := fun (m : Image) (cls : Nat) =>
      s.dev.lowestFree cls (m.pailHome c cls) (m.shareFirst c cls) (m.share c cls)
    let foreign := fun (h : Nat) => (∃ o, s.dev.pailState h = .held o ∧ o ≠ c) ∨
      (∃ o, s.dev.pailState h = .shared o ∧ o ≠ c) ∨ s.dev.pailState h = .landed
    (∀ (seq sd size : Nat) (m : Image), r = .alloc seq sd size → s.dev.image = some m →
      (∀ h, found m (pailClass size) = some h → ∃ t, after t ∧ becomes t h (.held c) ∧
        finished t seq (BitVec.ofNat 64 h) ∧ t.job = s.dev.job) ∧
      (found m (pailClass size) = none → ∃ t, after t ∧ same t ∧ others t ∧
        t.cores[c] = s.dev.cores[c].setS (BitVec.ofNat 5 sd) 0 ∧ faults t 0x82 (pailClass size) 0 0)) ∧
    (∀ (seq h : Nat), r = .release seq h →
      (s.dev.pailState h = .held c → ∃ t, after t ∧ becomes t h .free ∧ finished t seq 0 ∧ t.job = s.dev.job) ∧
      (s.dev.pailState h = .shared c →
        ∃ t, after t ∧ becomes t h (.returning c k.cc) ∧ finished t seq 0 ∧ t.job = s.dev.job) ∧
      (s.dev.pailState h = .free → ∃ t, after t ∧ same t ∧ finished t seq 0 ∧ faults t 0x80 (hClass h) 0 h) ∧
      (foreign h → ∃ t, after t ∧ same t ∧ finished t seq 0 ∧
        faults t 0x81 (hClass h) (s.dev.pailState h).code h) ∧
      (∀ o cc, s.dev.pailState h = .returning o cc → ∃ t, after t ∧ same t ∧ finished t seq 0 ∧
        (if cc = k.cc ∧ c.val ≠ o then faults t 0x81 (hClass h) 2 h else faults t 0x80 (hClass h) 3 h))) ∧
    (∀ seq h owner : Nat, r = .share seq h owner →
      if s.dev.pailState h = .held c ∨ s.dev.pailState h = .shared c
      then ∃ t, after t ∧ becomes t h (.shared owner) ∧ finished t seq 0 ∧ t.job = s.dev.job
      else ∃ t, after t ∧ same t ∧ finished t seq 0 ∧ faults t 0x81 (hClass h) (s.dev.pailState h).code h) ∧
    (∀ (seq cls : Nat) (m : Image), r = .churn seq cls → s.dev.image = some m →
      (∀ h, found m cls = some h → ∃ t, exec (.pailRequestApply c) s = .next { s with clk := k, dev := t } ∧
        t.pail.reqs = s.dev.pail.reqs.erase (c.val, r) ∧ becomes t h (.held c) ∧
        (s.dev.churn[dieOf c] = none → t.cores = s.dev.cores ∧ t.mem = s.dev.mem)) ∧
      (found m cls = none → ∃ t, after t ∧ same t ∧ t.cores = s.dev.cores ∧ faults t 0x82 cls 0 0)) ∧
    (∀ (seq : Nat) (hs : List Nat), r = .dispatch seq hs → hs.Nodup →
      (∀ h ∈ hs, s.dev.pailState h = .held c ∨ s.dev.pailState h = .shared c) →
      ∃ t, after t ∧ t.cores = s.dev.cores ∧ t.job = s.dev.job ∧ ∀ h', t.pailState h' =
        if h' ∈ hs then (if s.dev.pailState h' = .held c then .free else .returning c k.cc) else s.dev.pailState h'))

/-- A NaN score is read as minus infinity and plus infinity as the largest finite F32 value, each counted as non-finite,
as is minus infinity, which is read as itself; the F32 codes of minus zero and plus zero rank as equal; a finite score
is read as itself. For scores without NaN, as the Separator then ranks them, the list of the K best holds K entries,
or all where there are fewer scores; each entry is a score with its own index; each entry stands before the next by a
higher score, or by an equal score and a lower index; and every index that is not selected stands behind every
selected one in the same sense. For a token that is not degenerate and whose picks name distinct experts with words in
the vector: a pick whose expert's word shows capacity left is accepted with the slot quota minus what is left, and the
word's capacity falls by one; another pick is skipped (slot 0xFFFF, kind 0b01) and its word's skip count rises by one,
held at 32,767; words of experts that the token does not pick are unchanged; the shared entries follow with weight
1.0. A degenerate token's picks are all skipped with weight +0 and change no word. The skips that are counted are those
picks of the token that are written as skipped; that those of a degenerate token count too is the model's reading, since
R185 and Table SEP-8 disagree (log entry 33). (08 Separator) -/
def Obligations.SeparatorRankingAndCapacity : Prop :=
  (∀ (k : Nat) (ss : List Val), (∀ v ∈ ss, v ≠ .nan) →
    let b := bestOf k ss
    let before := fun (p q : Val × Nat) => q.1.lt p.1 = true ∨ (p.1.lt q.1 = false ∧ p.2 < q.2)
    b.length = min k ss.length ∧ (∀ p ∈ b, ss[p.2]? = some p.1) ∧ b.Pairwise before ∧
    (∀ (x : Nat) (v : Val), ss[x]? = some v → (v, x) ∉ b → ∀ p ∈ b, before p (v, x)) ∧
    readScore .nan = (.inf true, true) ∧ readScore (.inf false) = (f32 0x7F7FFFFF, true) ∧
    readScore (.inf true) = (.inf true, true) ∧ (∀ m e, readScore (.fin m e) = (.fin m e, false)) ∧
    (f32 0x80000000).lt (f32 0) = false ∧ (f32 0).lt (f32 0x80000000) = false) ∧
  (∀ (quota : Nat → Nat) (shared : Nat) (t : SepTok) (words : List Nat),
    (t.picks.map (·.1)).Nodup → (∀ p ∈ t.picks, p.1 < words.length) →
    let r := assignToken quota shared t words
    r.1 = (t.picks.map fun p =>
        let left := words.getD p.1 0 % 2 ^ 17
        if t.degenerate then (recordWord p.1 1 0xFFFF, 0)
        else if 0 < left then (recordWord p.1 0 (quota p.1 - left), p.2) else (recordWord p.1 1 0xFFFF, p.2)) ++
      (List.range shared).map (fun i => (recordWord i 2 0, 0x3F800000)) ∧
    r.2.1.length = words.length ∧
    (∀ x, x < words.length → r.2.1.getD x 0 =
      if t.degenerate ∨ x ∉ t.picks.map (·.1) then words.getD x 0
      else if 0 < words.getD x 0 % 2 ^ 17 then words.getD x 0 - 1
      else words.getD x 0 % 2 ^ 17 + min (words.getD x 0 / 2 ^ 17 + 1) 32767 * 2 ^ 17) ∧
    r.2.2 = (t.picks.filter fun p => t.degenerate || words.getD p.1 0 % 2 ^ 17 = 0).length)

/-- While the job runs and the copies of all four cores of a die are at their queue heads, each released or predicated
off: if the copies' compared bits differ, DIE_COLLECTIVE_START makes the job FAULTED with ILLEGAL_OP, records cause 6
for the first differing copy's core where its fault fields are empty, and leaves all cores; if they agree and no stream
of lock-step holds them, a Separator instruction (or a CHURN instruction, where the die's Churn is free) whose operands
still lie in their spaces starts: every copy that is on has left its queue and runs, every copy that is off has left the
core, and for the Separator one instruction more has started on the die; where an operand's Pail has been freed since the
release, or a byte of it is poisoned, the job becomes FAULTED and no core changes. It changes nothing while some copy is
missing. A CHURN.SORT that starts keeps for each copy that is on its routes (token count, K and the accepted entries with a
host) and, where a copy has records, waits with each copy's records per rank, and has asked for a Pail of the smallest
fitting class for each rank. The bucket of an expert is its number with KEY = 1, and its place in ascending (host,
number) with KEY = 0; the lists of a copy stand in ascending rank, one for each rank that receives records, each holding
that rank's records sorted stably by bucket, with the bucket of the first. A CHURN.RESTORE takes for entry (m, j) of the
list no row where the entry is not accepted, and otherwise the row that the arrival map gives to its expert's local index
and its slot; into one plain tile of rows 64 elements wide, with its TDA's tiles plain and apart, it writes these rows
and zeros for the others, as carried codes, and no other row. (04 Tynil Encoding, 09 Churn and the Token Exchange, 12 Pail
Pool; that the first copy that differs from core 0's records the cause is the model's reading, log entry 33, and that
carried rows have canonical NaNs and no T2 code 0b10 is its reading too, log entry 89) -/
def Obligations.DieCollectives : Prop :=
  (∀ (s : State) (x : Fin 12) (g : Eng), s.dev.clocked = true → s.dev.runs = true → g = .sep ∨ g = .churn →
    (s.dev.copies x g = none → exec (.dieCollectiveStart x g) s = .next s) ∧
    (∀ (cs : List (Fin 4 × Entry)) (i : Fin 4) (e : Entry), s.dev.copies x g = some cs → copyDiffers cs = some (i, e) →
      s.dev.rd .coreSeqFaultCode (coreOf x i) = 0 →
      ∃ t, exec (.dieCollectiveStart x g) s = .next { s with dev := t } ∧ t.job.phase = .faulted ∧
        t.rd .jobStateFault = 0x11 ∧ t.rd .coreSeqFaultCode (coreOf x i) = 0x11 ∧
        t.rd .coreSeqFaultCause (coreOf x i) = 6 ∧ t.cores = s.dev.cores ∧ t.mem = s.dev.mem) ∧
    (∀ cs : List (Fin 4 × Entry), s.dev.copies x g = some cs → copyDiffers cs = none →
      s.dev.lsHolds ((if g = .sep then 0x600 else 0x700) + x.val) = false →
      let found := fun (p : Fin 4 × Entry) => s.dev.checkTiles (coreOf x p.1) (s.dev.copyTiles (coreOf x p.1) p.2).1
        (s.dev.copyTiles (coreOf x p.1) p.2).2
      ((∃ p ∈ cs, p.2.on = true ∧ found p ≠ none) →
        ∃ t, exec (.dieCollectiveStart x g) s = .next { s with dev := t } ∧ t.job.phase = .faulted ∧
          t.cores = s.dev.cores ∧ t.mem = s.dev.mem) ∧
      ((∀ p ∈ cs, p.2.on = true → found p = none) → (g = .churn → s.dev.churnIdle x = true) →
        ∃ t, exec (.dieCollectiveStart x g) s = .next { s with dev := t } ∧
          (g = .sep → t.sep[x].started = s.dev.sep[x].started + 1) ∧
          ∀ p ∈ cs, (p.2.on = true → ∃ e' ∈ t.cores[coreOf x p.1].entries, e'.seq = p.2.seq ∧ e'.stage = .running) ∧
            (p.2.on = false → ∀ e' ∈ t.cores[coreOf x p.1].entries, e'.seq ≠ p.2.seq)) ∧
      ((∀ p ∈ cs, p.2.on = true → found p = none) → g = .churn → s.dev.churnIdle x = true →
        (∀ p ∈ cs, wOp p.2.word = 1) →
        let hosted := fun (p : Fin 4 × Entry) =>
          (acceptedOf (s.dev.listWords (coreOf x p.1) p.2.tda p.2.tokens p.2.topk)).filter
            fun a => ((s.dev.churnXch p.2).host a.x).isSome
        let lists := fun (p : Fin 4 × Entry) => sortCopy (s.dev.churnXch p.2) p.2.churnKey (hosted p)
        ∃ t, exec (.dieCollectiveStart x .churn) s = .next { s with dev := t } ∧
          (∀ p ∈ cs, p.2.on = true →
            ⟨(coreOf x p.1).val, p.2.churnLayer, p.2.tokens, p.2.topk, hosted p⟩ ∈ t.xch.routes ∧
            ∀ q ∈ lists p,
              ((coreOf x p.1).val, PailReq.churn p.2.seq (pailClass (64 + 8 * q.2.2.length))) ∈ t.pail.reqs) ∧
          ((∃ p ∈ cs, p.2.on = true ∧ lists p ≠ []) → t.mem = s.dev.mem ∧ ∃ r, t.churn[x] = some r ∧
            r.copies = (cs.filter fun p => p.2.on).map fun p => ⟨p.1, p.2.seq, lists p, []⟩)))) ∧
  (∀ (l : XchLayer) (key : Bool) (as : List Accepted),
    let n := l.hosts.length
    let h := fun (x : Nat) => l.hosts.getD x 0
    let out := sortCopy l key as
    (∀ x, l.bucket true x = x) ∧
    (∀ x, x < n → l.bucket false x =
      ((List.range n).filter fun y => decide (h y < h x) || (decide (h y = h x) && decide (y < x))).length) ∧
    (out.map (·.1)).Pairwise (· < ·) ∧
    (∀ r, r < l.g → (∃ a ∈ as, l.host a.x = some r) → ∃ p ∈ out, p.1 = r) ∧
    (∀ p ∈ out, p.1 < l.g ∧ ∃ a es, p.2.1 = l.bucket key a.x ∧ p.2.2 = (a :: es).map Accepted.record ∧
      (a :: es).Pairwise (fun u v => l.bucket key u.x ≤ l.bucket key v.x) ∧
      ∀ b, (a :: es).filter (fun u => l.bucket key u.x = b) =
        as.filter fun u => decide (l.host u.x = some p.1) && decide (l.bucket key u.x = b))) ∧
  (∀ (d : Dev) (c : Fin 48) (e : Entry),
    let l := d.churnXch e
    let rows := d.restoreRows c e
    (∀ m j, m < e.tokens → j < e.topk →
      let w := d.listWord c e.tdb m j
      let li := l.localIndex (bitRange w 13 0)
      (bitRange w 15 14 ≠ 0 → rows[m * e.topk + j]? = some none) ∧
      (∀ (i : Image) (sl : XchSlot), bitRange w 15 14 = 0 → d.image = some i →
        (i.layerSlots l.layer).find? (fun s => decide (s.first ≤ li) && decide (li < s.first + s.count)) = some sl →
        rows[m * e.topk + j]? = some (some ((sl.arrival li).2 + bitRange w 31 16)))) ∧
    (let place := fun (t : TileDesc) (r : Nat) => d.spaceAt c t (Td.base t) (tileOff t r 0) (denseBytes t)
     let code := fun (i : Nat) => match rows.getD (i / 64) none with
       | none => 0
       | some q => (Td.fmt e.tdd).carried ((d.readTile c e.tda (q / 64) 0).codes.getD (64 * (q % 64) + i % 64) 0)
     l.width = 64 → e.tokens * e.topk ≤ 64 → PlainTiles e.tdd → PlainTiles e.tda → Td.format e.tda = Td.format e.tdd →
     d.checkTiles c [] [(e.tdd, rect 0 0 1 1)] = none →
     (∀ q loc a b, some q ∈ rows → place e.tda (q / 64) = some (loc, a) → place e.tdd 0 = some (loc, b) →
       a + denseBytes e.tda ≤ b ∨ b + denseBytes e.tdd ≤ a) →
     d.TileBecomes (d.restoreCopy c e) c e.tdd 0 0 (fun i => i / 64 < e.tokens * e.topk) code))

/-- CAPACITY_VECTOR_ARRIVE, at the time at which the first vector on its way to a die arrives, and
CAPACITY_STATE_READ_END, at the end of position 0's read of a capacity state without a poisoned byte, give the die's
oldest run its vector where it is that run's turn: the run leaves the die, the die's capacity stage ends where its tokens
end it, and the vector, with the words that the tokens leave, is from that cycle on its way to the next die of the chain,
or from position 11 to its write-back, one hop long; there, outside lock-step and where the job's statistics region
outside the aperture holds the layer, the record of frame, invocations and words stands in the buffer of the frame.
CAPACITY_WRITE_BACK_END, at its time, removes the oldest write-back and lets the layer's next read begin. The record
stands when the write-back begins, and the time of the chain, by the model's reading (log entry 33); cycles are those of
the die's own arithmetic clock, and bridges keep their clock, by the model's choice (log entry 58). (08 Separator) -/
def Obligations.CapacityChain : Prop :=
  ∀ (s : State) (x : Fin 12), s.dev.clocked = true →
    (∀ (u a : Nat) (ws : List Nat) (r : SepRun) (rs : List SepRun) (i : Instr),
      s.dev.sep[x].runs = r :: rs → s.dev.sep[x].arrived = [] → a = s.dev.acFrom x u →
      (i = .capacityVectorArrive x ∧ ∃ v rest, s.dev.sep[x].coming = v :: rest ∧ v.n = r.n ∧ ws = v.words ∧
        u = s.dev.dieUnit (chainDie (chainPos x - 1)) v.at_ + 5 * hopAc ws.length) ∨
      (i = .capacityStateReadEnd x ∧ s.dev.readEnd x = some (r, u) ∧ ws = s.dev.capState r ∧
        (s.dev.capAddr r).bind (fun p => s.dev.poisonAt .hbm p (4 * r.experts)) = none) →
      let fin := capTime (max (max r.released s.dev.sep[x].capEnd) a) r.toks
      let left := r.toks.foldl (fun ws t => (assignToken (s.dev.quotaOf r.layer) r.shared t ws).2.1) ws
      ∃ t, exec i s = .next { s with clk := s.clk.toUnit u, dev := t } ∧
        t.sep[x].runs = (r :: rs).filter (fun y => y.n ≠ r.n) ∧ t.sep[x].capEnd = fin ∧ t.sep[x].arrived = [] ∧
        (if chainPos x = 11 then ∃ w, t.sep[x].writeBacks = s.dev.sep[x].writeBacks ++ [w] ∧ w.layer = r.layer ∧
            w.frame = s.dev.frame.number ∧ w.invs = (s.dev.invOf r.layer).ended + 1 ∧ w.at_ = fin ∧
            w.hop = hopAc r.experts ∧
            (∀ (m : Image) (p : SepPart) (l : SepLayer) (j : Nat), s.dev.lockstep = false → s.dev.image = some m →
              m.sepLayer r.layer = some (l, j) → m.form.sep = some p →
              let record := leBytes 4 w.frame ++ leBytes 4 w.invs ++ List.replicate 8 0 ++ left.flatMap (leBytes 4)
              let at_ := p.recordAt (w.frame % 2) j
              s.dev.hbmRuns at_ record.length = some [(at_, record.length)] →
              t.mem.hbm.readN at_ record.length = record)
         else ∃ v, t.sep[chainDie (chainPos x + 1)].coming = s.dev.sep[chainDie (chainPos x + 1)].coming ++ [v] ∧
            v.n = r.n ∧ v.words = left ∧ v.at_ = fin)) ∧
    (∀ (w : WriteBack) (rest : List WriteBack), s.dev.sep[x].writeBacks = w :: rest →
      let u := s.dev.dieUnit x w.at_ + 5 * w.hop
      ∃ t, exec (.capacityWriteBackEnd x) s = .next { s with clk := s.clk.toUnit u, dev := t } ∧
        t.sep[x].writeBacks = rest ∧ t.mem = s.dev.mem ∧ t.cores = s.dev.cores ∧
        (w.frame = s.dev.frame.number → (t.invOf w.layer).ended = w.invs ∧ (t.invOf w.layer).endAt = u) ∧
        ∀ l, l ≠ w.layer ∨ w.frame ≠ s.dev.frame.number → t.invOf l = s.dev.invOf l)

/-- Where the completing write of a guarded pair of JOB_CMD reaches its page and the job's state accepts the command: LOAD
begins LOADING with no image, no recorded fault, no admission result and the stop frame at all ones; ABORT is pending
in the unchanged state, the job runs no more and its teardown has begun no later than now; STOP with a stop value
below the stop frame in force puts that value (0 before launch, the last opened frame after it) in force and into the
stop frame registers, and drains a job whose opened frame has closed; RELEASE starts the zeroing and clears
measurement slot 3. Each records the command with cause 0 and leaves all memories and all cores alone (a STOP that
drains a job with a herd part writes the herd's last output, and may fault in reading for it). That an accepted LOAD sets the stop
frame to all ones is the model's choice (log entry 88); that slot 3 is cleared when RELEASE is accepted, and that STOP
writes both halves of the stop frame, is its reading (log entry 54). (03 Tynil Programming Model, 18
Failure and Recovery, 19 Control Space and Register Map) -/
def Obligations.JobCommandsAccepted : Prop :=
  ∀ (s : State) (m : Master) (same : Bool) (p : Page) (op : Nat) (i : Instr), s.PairReady m same 0x20 0x104 op p →
    (i, op) ∈ ([(.load m same, 1), (.abort m same, 2), (.stop m same, 3), (.release m same, 4)] : List (Instr × Nat)) →
    s.dev.jobCause op = 0 → (op = 3 → s.dev.stopValue < s.dev.job.stop) →
    let k := s.writeClock m same 0x20
    ∃ t, exec i s = .next { s with clk := k, dev := t } ∧
      (op ≠ 3 ∨ s.dev.herdPart = none → t.mem = s.dev.mem ∧ t.cores = s.dev.cores) ∧
      t.rd .jobCmdLast = op ∧ t.rd .jobCmdCause = 0 ∧
      (op = 1 → t.job.phase = .loading ∧ t.image = none ∧ t.rd .jobStateFault = 0 ∧ t.rd .jobAdmitValid = 0 ∧
        t.job.stop = 2 ^ 64 - 1) ∧
      (op = 2 → t.job.phase = s.dev.job.phase ∧ t.job.abort = true ∧ t.runs = false ∧
        t.job.tearFrom = some (s.dev.job.tearFrom.getD k.count)) ∧
      (op = 3 → t.job.stop = s.dev.stopValue ∧ t.rd64 .jobStopFrameLo .jobStopFrameHi = s.dev.stopValue % 2 ^ 64 ∧
        (t.job.phase = (if s.dev.job.phase = .running ∧ s.dev.frame.opened = true ∧ s.dev.frame.closed = true
          then .draining else s.dev.job.phase) ∨ (s.dev.herdPart ≠ none ∧ t.job.phase = .faulted))) ∧
      (op = 4 → t.job.phase = .torn ∧ t.job.zeroing = true ∧ t.job.releasedAt = some k.count ∧
        t.sec.slots[3] = List.replicate 64 0)

/-- Where the completing write of a guarded pair of JOB_CMD reaches its page and the command has a rejection cause (1
wrong state, 2 lending, 3 keys not set, 4 bad range), the command and the cause are recorded and the reject flag is
set; the job, its image, frame, memories and cores are unchanged. In particular every command is rejected with cause 1
while an ABORT is pending, LOAD is rejected in IDLE while the device lends, with cause 2, or 1 after a SECURITY_VIOLATION, and RELEASE with cause 1
outside TORN. (03 Tynil Programming Model, 13 Memory Tiers) -/
def Obligations.JobCommandsRejected : Prop :=
  (∀ (s : State) (m : Master) (same : Bool) (p : Page) (op : Nat) (i : Instr), s.PairReady m same 0x20 0x104 op p →
    (i, op) ∈ ([(.load m same, 1), (.abort m same, 2), (.stop m same, 3), (.release m same, 4)] : List (Instr × Nat)) →
    s.dev.jobCause op ≠ 0 →
    ∃ t, exec i s = .next { s with clk := s.writeClock m same 0x20, dev := t } ∧
      t.rd .jobCmdLast = op ∧ t.rd .jobCmdCause = s.dev.jobCause op ∧ t.rd .jobCmdReject = 1 ∧
      t.job = s.dev.job ∧ t.image = s.dev.image ∧ t.frame = s.dev.frame ∧ t.mem = s.dev.mem ∧ t.cores = s.dev.cores) ∧
  (∀ (d : Dev) (op : Nat), d.job.abort = true → d.jobCause op = 1) ∧
  (∀ d : Dev, d.job.abort = false → d.tier.lend ≠ .off → d.job.phase = .idle →
    d.jobCause 1 = if d.start.violated then 1 else 2) ∧
  (∀ d : Dev, d.job.abort = false → d.job.phase ≠ .torn → d.jobCause 4 = 1)

/-- JOB_STOP_FRAME_WRITE where nothing locks it out and the page has not been written in the control cycle: in ADMITTED,
ARMED or RUNNING without a pending ABORT the stop frame in force becomes the number of both halves, but in RUNNING at
least the last opened frame, and a job whose frames up to it have closed drains (one with a herd
part may fault in reading for its last output instead); in any other state, or with an ABORT
pending, the job is unchanged. The image is unchanged, and so are memories and cores where the job has no herd part,
whose last output a drain would write. (03 Tynil Programming Model) -/
def Obligations.StopFrameWrites : Prop :=
  ∀ (s : State) (m : Master) (same : Bool) (v : BitVec 32) (p : Page), s.WriteReaches m same 0x20 0x120 p →
    s.dev.openGuard 0x20 = none →
    let j := s.dev.job
    let n := s.dev.rd .jobStopFrameLo + v.toNat * 2 ^ 32
    let stop := if j.phase = .running then max n s.dev.frame.number else n
    ∃ t, exec (.jobStopFrameWrite m same v) s = .next { s with clk := s.writeClock m same 0x20, dev := t } ∧
      (s.dev.herdPart = none → t.mem = s.dev.mem ∧ t.cores = s.dev.cores) ∧ t.image = s.dev.image ∧
      (if (j.phase = .admitted ∨ j.phase = .armed ∨ j.phase = .running) ∧ j.abort = false then
        t.job.stop = stop ∧ t.rd .jobStopFrameHi = v.toNat ∧
        (t.job.phase = (if j.phase = .running ∧ s.dev.frame.opened = true ∧ s.dev.frame.closed = true ∧
          stop ≤ s.dev.frame.number then .draining else j.phase) ∨ (s.dev.herdPart ≠ none ∧ t.job.phase = .faulted))
       else t.job = j)

/-- ADMISSION_END of a LOADING job, at its time, runs the checks on the bytes that the load found, in the order of Table
TYN-5A: the header, signatures and sections; the choice of the form; then the contents, and checks 2 to 9. The first that
fails gives the code, never 0, and the detail, and the job is IDLE without an image; where none fails the code is 0 and
the job holds the image that was checked, ADMITTED, or LOADING on where SNAP_RESUME asks for a restore. RESTORE_END of a
restoring job, at its time, leaves it ADMITTED with SNAP_RST_DONE set where the images' heads, their sources and all
objects' bytes can be had, and IDLE without an image, with admission code 0x07, SNAP_RST_DONE clear and the cause,
otherwise. DRAIN_END of a drained job before the next boundary begins teardown now, but where the copy of a cut still waits for
pages in a loan; where a cut falls on the frame that would come next, the job may fault as its image is captured, and
drains on otherwise. TEARDOWN_COMPLETE, at its time and at
most 2,000,000 counts after teardown began, leaves the job TORN with its end cause, every core empty but for the numbers
of its random streams, and every tile store, die buffer and statistics store reading zero. RELEASE_ZEROING_END, at its
time and no later than the zeroing may take, leaves the job IDLE without an image, every core empty, zero in every byte
of device HBM that the job held, and every other byte of HBM as it was. (03 Tynil Programming Model, 18 Failure and
Recovery; which of a byte's values the one read of the load finds is a free value, log entry 53; that the deadlines of collectives
are judged between the choice of the form and check 2, with detail 1, is the model's reading, log entry 48) -/
def Obligations.JobEnds : Prop :=
  ∀ (s : State) (at_ : Nat), s.dev.clocked = true →
    (s.dev.job.phase = .loading → s.dev.snap.restoring = false →
      let found := s.dev.loadedRange
      let rx := found.2.draw
      let d := rx.2.modJob fun j => { j with loadLog := [] }
      let signers := match d.sec.policy with | some p => p.signers | none => []
      let resumes := s.dev.rd64 .snapResumeLo .snapResumeHi ≠ 2 ^ 64 - 1
      let ended := fun (t : Dev) (e : AdmitFail) =>
        exec (.admissionEnd at_) s = .next { s with clk := s.clk.toCount at_, dev := t } ∧ t.rd .jobAdmitValid = 1 ∧
          t.rd .jobAdmitCode = e.code ∧ t.rd .jobAdmitDetail = e.detail
      let refused := fun (e : AdmitFail) => e.code ≠ 0 ∧ ∃ t, ended t e ∧ t.image = none ∧ t.job.phase = .idle
      match checkOne signers found.1 with
      | .error e => refused e
      | .ok o =>
        match d.chooseForm o with
        | .error e => refused e
        | .ok (f, fw) =>
          let m := d.imageFor o f fw
          let member := d.rd .jobMemberIndex
          let checks : List (Bool × AdmitFail) := [
            (o.colls.descs.all (fun c => decide (c.deadline < f.period)), .level 1), (f.checkTwo o member, .level 2),
            (f.checkThree o member, .plain 6), (d.checkFour m f rx.1, .plain 4), (m.checkFive, .plain 3),
            (m.checkSix f, .plain 8), (d.checkSeven m f, .plain 5), (d.checkEight m f, .plain 2),
            ((m.form.checkNine d.order).isNone, .plain 1)]
          match checks.find? fun x => !x.1 with
          | some x => refused x.2
          | none => ∃ t, ended t ⟨0, 0, none⟩ ∧ t.image = some m ∧
            (if resumes then t.job.phase = .loading ∧ t.snap.restoring = true else t.job.phase = .admitted)) ∧
    (s.dev.job.phase = .loading → s.dev.snap.restoring = true →
      let cause := match s.dev.restoreHeads, s.dev.image with
        | .error x, _ => if s.dev.sourceFailed then 6 else x
        | .ok _, none => 1
        | .ok (c, w), some m =>
          if s.dev.sourceFailed then 6 else if s.dev.restoreBytes c w m.objects.zipIdx = none then 5 else 0
      ∃ t, exec (.restoreEnd at_) s = .next { s with clk := s.clk.toCount at_, dev := t } ∧ t.snap.restoring = false ∧
        t.rd .snapRstCause = cause ∧
        (if cause = 0 then t.job.phase = .admitted ∧ t.image ≠ none ∧ t.rd .snapRstDone = 1
         else t.job.phase = .idle ∧ t.image = none ∧ t.rd .snapRstDone = 0 ∧ t.rd .jobAdmitCode = 0x07)) ∧
    (s.dev.job.phase = .draining → s.dev.job.tearFrom = none → s.dev.job.abort = false →
      s.dev.drainedButMirror = true → s.dev.snap.mirrors = [] → s.clk.count < s.dev.nextBoundary →
      ∃ t, exec .drainEnd s = .next { s with dev := t } ∧
        t.job.tearFrom = (if t.copyReads = true ∧ t.job.phase = .draining then none else some s.clk.count) ∧
        (t.job.phase = .draining ∨ (s.dev.cutFrame = s.dev.frame.number + 1 ∧ t.job.phase = .faulted))) ∧
    (∀ u, s.dev.job.tearFrom = some u →
      ∃ t, exec (.teardownComplete at_) s = .next { s with clk := s.clk.toCount (min at_ (u + 2000000)), dev := t } ∧
        t.job.phase = .torn ∧ t.job.abort = false ∧ t.job.keyed = false ∧
        t.rd .jobStateEnd = (if s.dev.job.phase = .faulted then 3 else if s.dev.job.abort then 2 else 1) ∧
        (∀ c : Fin 48, t.cores[c] = { Core.empty with rng := s.dev.cores[c].rng }) ∧
        (∀ (c : Fin 48) (a : Nat), t.mem.tile[c].read a = 0 ∧ t.mem.stat[c].read a = 0) ∧
        (∀ (x : Fin 12) (a : Nat), t.mem.die[x].read a = 0)) ∧
    (∀ u, s.dev.job.zeroing = true → s.dev.job.releasedAt = some u →
      ∃ t, exec (.releaseZeroingEnd at_) s = .next { s with
          clk := s.clk.toCount (min at_ (s.dev.zeroedBy u)), dev := t } ∧
        t.job.phase = .idle ∧ t.job.zeroing = false ∧ t.image = none ∧
        (∀ a, t.mem.hbm.read a =
          if s.dev.jobRanges.any (fun r => decide (r.1 ≤ a) && decide (a < r.1 + r.2)) then 0 else s.dev.mem.hbm.read a) ∧
        ∀ c : Fin 48, t.cores[c] = Core.empty)

/-- Where the completing write of a guarded pair of TICK_ARM_CMD reaches its page: the arm command of an ADMITTED job
without a pending ABORT, with the counter locked, a launch count at least 100,000 counts away and no lock-step job,
makes it ARMED; with a counter that is not LOCKED or in HOLDOVER it makes it FAULTED with LAUNCH_MISSED, cause 6; with a
launch count closer than that, cause 5; a lock-step job whose arm record differs from the twin's, cause 7; in any other
job state the arm command changes neither job nor image. LAUNCH_COUNT_REACHED passes time to the launch count, at which an ARMED
job whose counter has not been LOST since it was armed is RUNNING with its first frame opening at the launch count
(shown for a job without herd and TIER parts and without lock-step), an ARMED job whose counter is LOST, or has been, is
FAULTED, and an ADMITTED job is FAULTED where the launch count had not passed when it was written and the job
admitted; without such a job, or without such a launch count, nothing changes. (02 Ticks and Frames; which launch counts
are reached is the model's reading, log entry 75) -/
def Obligations.ArmAndLaunch : Prop :=
  (∀ (s : State) (m : Master) (same : Bool) (p : Page), s.PairReady m same 0x10 0x20 1 p →
    let k := s.writeClock m same 0x10
    let ok := s.dev.job.phase = .admitted ∧ s.dev.job.abort = false
    let missed := fun (t : Dev) (cause : Nat) => t.job.phase = .faulted ∧ t.rd .jobStateFault = 0x61 ∧
      t.rd .tickFaultCode = 0x61 ∧ t.rd .tickFaultCause = cause ∧ t.rd .tickEvLaunchMissed = 1 ∧ t.mem = s.dev.mem ∧
      t.cores = s.dev.cores
    ∃ t, exec (.arm m same) s = .next { s with clk := k, dev := t } ∧
      (ok → s.dev.lockedForArm = true → k.count + 100000 ≤ s.dev.launchCount → s.dev.lsJob = false →
        s.dev.image ≠ none → t.job.phase = .armed ∧ t.image = s.dev.image) ∧
      (ok → s.dev.lockedForArm = false → missed t 6) ∧
      (ok → s.dev.lockedForArm = true → s.dev.launchCount < k.count + 100000 → missed t 5) ∧
      (ok → s.dev.lockedForArm = true → k.count + 100000 ≤ s.dev.launchCount → s.dev.lsJob = true →
        (s.paired m same 0x10 0x20).armField ≠ 0 → missed t 7 ∧ t.rd .twinLsArmRefuse = 1) ∧
      (¬ ok → t.job = s.dev.job ∧ t.image = s.dev.image ∧ t.mem = s.dev.mem ∧ t.cores = s.dev.cores)) ∧
  (∀ s : State, s.dev.clocked = true → s.dev.launchCount ≠ 0 → s.dev.job.abort = false →
    let k := s.clk.toCount s.dev.launchCount
    (s.dev.job.phase = .armed → s.dev.syncState ≠ .lost → s.dev.sync.lostArmed = false → s.dev.herdPart = none →
      s.dev.tierPart = none → s.dev.lsJob = false → s.dev.snap.resume = none →
      ∃ t, exec .launchCountReached s = .next { s with clk := k, dev := t } ∧ t.job.phase = .running ∧
        t.job.launch = s.dev.launchCount ∧ t.job.keyed = true ∧ t.frame.opened = true ∧ t.frame.number = 0 ∧
        t.frame.boundary = s.dev.launchCount ∧ t.frame.phase = .opening ∧ t.image = s.dev.image) ∧
    ((s.dev.job.phase = .admitted ∧ s.dev.ctl.launchFrom ≤ s.dev.launchCount) ∨
        (s.dev.job.phase = .armed ∧ (s.dev.syncState = .lost ∨ s.dev.sync.lostArmed = true)) →
      ∃ t, exec .launchCountReached s = .next { s with clk := k, dev := t } ∧ t.job.phase = .faulted ∧
        t.rd .jobStateFault = 0x61 ∧ t.rd .tickEvLaunchMissed = 1 ∧ t.mem = s.dev.mem ∧ t.cores = s.dev.cores)) ∧
  (∀ s : State, s.dev.launchCount = 0 ∨ (s.dev.job.phase ≠ .admitted ∧ s.dev.job.phase ≠ .armed) ∨
      (s.dev.job.phase = .admitted ∧ s.dev.launchCount < s.dev.ctl.launchFrom) →
    exec .launchCountReached s = .next s)

/-- Where the completing write of 0b10 to TICK_ARM_CMD reaches its page without a pending ABORT: an ARMED job whose launch
count has not been reached returns to ADMITTED, TICK_LAUNCH_LO and TICK_LAUNCH_HI read zero, and no fault is raised;
afterwards a launch-count event changes nothing, so the former launch count has no effect. A disarm at or after the
launch count changes neither the job nor the launch count. (R50) -/
def Obligations.DisarmReturnsToAdmitted : Prop :=
  ∀ (s : State) (m : Master) (same : Bool) (p : Page), s.PairReady m same 0x10 0x20 2 p → s.dev.job.phase = .armed →
    s.dev.job.abort = false →
    let k := s.writeClock m same 0x10
    ∃ t, exec (.disarm m same) s = .next { s with clk := k, dev := t } ∧
      (k.count < s.dev.launchCount →
        t.job = { s.dev.job with phase := .admitted } ∧ t.rd .tickLaunchLo = 0 ∧ t.rd .tickLaunchHi = 0 ∧
        t.rd .jobStateFault = s.dev.rd .jobStateFault ∧ t.image = s.dev.image ∧ t.mem = s.dev.mem ∧
        t.cores = s.dev.cores ∧
        exec .launchCountReached { s with clk := k, dev := t } = .next { s with clk := k, dev := t }) ∧
      (s.dev.launchCount ≤ k.count → t.job = s.dev.job ∧ t.rd .tickLaunchLo = s.dev.rd .tickLaunchLo ∧
        t.rd .tickLaunchHi = s.dev.rd .tickLaunchHi ∧ t.mem = s.dev.mem ∧ t.cores = s.dev.cores)

/-- While the job runs: FRAME_OPEN at the next boundary opens the next frame where the last one has closed and the counter
was not lost (its number and boundary are the next ones, its slot the number modulo the job's slots), and makes the job
FAULTED with FRAME_OVERRUN where the last one has not closed (cause 1) or the counter was lost (cause 2): job state code
0x60, TICK_FAULT with code 0x60, the cause and the lowest engine that is not done, and TICK_EV_OVERRUN; a drain that has
not ended at the boundary overruns with cause 1 too. RUN_START passes time to 400 counts after the boundary, from which
cores issue; GUARD_START passes time to the guard start. Where a target of power or temperature is exceeded,
THROTTLE_STEP gates issue for 100 counts while the budget of the guard band less 1,000 counts allows it, and otherwise
says that the budget is spent; without such a target it does nothing. THROTTLE_STEP_END lifts the gate at its end, from
which cores issue. No memory changes in RUN_START, GUARD_START and the throttle steps. (02 Ticks and Frames, 22
Electrical and Package; the engine where none is found unfinished is the model's reading, log entry 55, and the limiter's
cause to gate, log entry 57; cores issue from the next cycle of their die's clock, log entry 58) -/
def Obligations.FramePhases : Prop :=
  ∀ s : State, s.dev.clocked = true →
    let overrun := fun (t : Dev) (cause : Nat) (engines : List Nat) =>
      exec .frameOpen s = .next { s with clk := s.clk.toCount s.dev.nextBoundary, dev := t } ∧
        t.job.phase = .faulted ∧ t.rd .jobStateFault = 0x60 ∧ t.rd .tickFaultCode = 0x60 ∧ t.rd .tickFaultCause = cause ∧
        t.rd .tickFaultEngine = lowestEngine engines ∧ t.rd .tickEvOverrun = 1 ∧
        t.mem = s.dev.mem ∧ t.cores = s.dev.cores ∧ t.frame = s.dev.frame
    let issuing := fun (t : Dev) (k : Clock) => ∀ c : Fin 48, t.cores[c] =
      { s.dev.cores[c] with nextAc := max s.dev.cores[c].nextAc (s.dev.acFrom (dieOf c) k.units) }
    (s.dev.frame.opened = true → s.dev.job.phase = .draining → s.dev.job.tearFrom = none → s.dev.job.abort = false →
      ∃ t, overrun t 1 s.dev.drainEngines) ∧
    (s.dev.runs = true →
      (s.dev.frame.opened = true → s.dev.sync.lostRun = false → s.dev.frame.closed = true →
        ∃ t, exec .frameOpen s = .next { s with clk := s.clk.toCount s.dev.nextBoundary, dev := t } ∧
          t.frame.number = s.dev.frame.number + 1 ∧ t.frame.boundary = s.dev.frame.boundary + s.dev.period ∧
          t.frame.phase = .opening ∧ t.frame.opened = true ∧ t.frame.closed = false ∧ t.frame.gatedCounts = 0 ∧
          t.frame.gate = none ∧ ∀ m, s.dev.image = some m → t.frame.slot = (s.dev.frame.number + 1) % m.form.slots) ∧
      (s.dev.frame.opened = true → s.dev.sync.lostRun = true →
        ∃ t, overrun t 2 (if s.dev.frame.closed then [] else s.dev.busyEngines)) ∧
      (s.dev.frame.opened = true → s.dev.sync.lostRun = false → s.dev.frame.closed = false →
        ∃ t, overrun t 1 s.dev.busyEngines) ∧
      (s.dev.frame.phase = .opening →
        let k := s.clk.toCount (s.dev.frame.boundary + 400)
        ∃ t, exec .runStart s = .next { s with clk := k, dev := t } ∧ t.frame = { s.dev.frame with phase := .run } ∧
          issuing t k ∧ t.mem = s.dev.mem) ∧
      (s.dev.frame.opened = true → s.dev.frame.guardSeen = false → s.dev.frame.phase ≠ .opening →
        exec .guardStart s = .next { s with
          clk := s.clk.toCount s.dev.guardStart
          dev := { s.dev with frame := { s.dev.frame with phase := .guardBand, guardSeen := true } } }) ∧
      (s.dev.issuing s.clk = true → s.dev.frame.budgetSpent = false → s.dev.overTarget = true →
        s.dev.frame.gatedCounts + 100 ≤ s.dev.guardBand - 1000 →
        ∃ t, exec .throttleStep s = .next { s with dev := t } ∧ t.issuing s.clk = false ∧
          t.frame = { s.dev.frame with
            gatedCounts := s.dev.frame.gatedCounts + 100, gate := some (s.clk.count + 100) } ∧
          t.cores = s.dev.cores ∧ t.mem = s.dev.mem ∧ t.regs = s.dev.regs) ∧
      (s.dev.issuing s.clk = true → s.dev.frame.budgetSpent = false → s.dev.overTarget = true →
        s.dev.guardBand - 1000 < s.dev.frame.gatedCounts + 100 →
        ∃ t, exec .throttleStep s = .next { s with dev := t } ∧ t.rd .tickEvBudget = 1 ∧
          t.frame = { s.dev.frame with budgetSpent := true } ∧ t.cores = s.dev.cores ∧ t.mem = s.dev.mem) ∧
      ((s.dev.pwr.watts ≤ s.dev.rd .pwrCapW ∧ s.dev.junction ≤ (4 * s.dev.rd .pwrTjTarget : Nat)) →
        exec .throttleStep s = .next s) ∧
      (∀ u, s.dev.frame.gate = some u →
        let k := s.clk.toCount u
        ∃ t, exec .throttleStepEnd s = .next { s with clk := k, dev := t } ∧
          t.frame = { s.dev.frame with gate := none } ∧ issuing t k ∧ t.mem = s.dev.mem ∧ t.regs = s.dev.regs))

/-- While the job runs and everything that the close waits for is done before the next boundary,
FRAME_CLOSE passes time to the close count: the frame is closed, in the guard band if the guard start has passed and
idle otherwise, TICK_FRAME_CLOSE holds the counts from the boundary to the close, TICK_FRAME_GUARD_ENCROACH tells whether
that lies after the guard start, which sets TICK_EV_ENCROACH too, every counter of the frame reads what it has counted up
to the close (the five of waits in progress are counted on to the close first), those of the cores count from 0 again,
and the job is DRAINING exactly if the stop frame is not later than the closed one; a job with a Whey mirror may instead
fault as its image is made, one with a herd part by a poisoned byte of its last collection, and one under lock-step with
LOCKSTEP (0x90). Otherwise nothing changes. (02 Ticks and Frames; that the running counts' store has no key
twice is kept by every step, statement MemoriesReadBack) -/
def Obligations.FrameCloses : Prop :=
  ∀ s : State, s.dev.clocked = true →
    let c := s.dev.closeCount s.clk
    let due := s.dev.runs = true ∧ s.dev.frame.opened = true ∧ s.dev.frame.closed = false ∧
      s.dev.frame.phase ≠ .opening ∧ s.dev.frameDone = true ∧ c < s.dev.nextBoundary
    (due → ∃ t, exec .frameClose s = .next { s with clk := s.clk.toCount c, dev := t } ∧ t.frame.closed = true ∧
      t.frame.number = s.dev.frame.number ∧ t.frame.boundary = s.dev.frame.boundary ∧
      t.frame.phase = (if s.dev.frame.guardSeen then .guardBand else .idle) ∧
      t.rd .tickFrameClose = (c - s.dev.frame.boundary) % 2 ^ (Fld.tickFrameClose).width ∧
      t.rd .tickFrameGuardEncroach = (if s.dev.guardStart < c then 1 else 0) ∧
      (s.dev.guardStart < c → t.rd .tickEvEncroach = 1) ∧
      (Sparse.rising none s.dev.acc = true → ∀ (f : Fld) (i j : Nat), f.row.kind = .frame → i < 128 → j < 64 →
        f ∉ [Fld.gmemRoomWait, .collSlotWait, .pailWait, .tierWait, .twinLsHold] →
        t.rd f i j = s.dev.running f i j ∧ (f.row.blk = .core → t.running f i j = 0)) ∧
      (t.job.phase = (if s.dev.job.stop ≤ s.dev.frame.number then .draining else .running) ∨
        ((s.dev.mirrorBound ≠ none ∨ s.dev.herdPart ≠ none) ∧ t.job.phase = .faulted) ∨
        (s.dev.lockstep = true ∧ t.job.phase = .faulted ∧ t.rd .jobStateFault = 0x90))) ∧
    (¬ due → exec .frameClose s = .next s)

/-- While a frame opens with an intake record in front, the herd table on one stack of device HBM, and either another
record that a command takes behind the front one, or no TIER part and no drain that waits for the open: ADD fills the lowest FREE slot with the record's
fields in state PREFILL, position 0 and the age counter, and changes no slot where it is rejected; CANCEL makes the
slot of its sequence id FREE, or CLOSING where its result is outstanding; CHANGE with flag [0] replaces the stop
conditions, with flag [1] and without [0] holds the slot (a CLOSING slot stays so), with flag [2] and without [0]
moves a HELD slot to PREFILL or DECODE by its position; FLUSH cancels every slot that is not FREE. Every other slot
keeps its fields, but for the two fields (outstanding, generation) that the work list built after the last record may
set. While the builder's lock-step stream holds it, the record waits: nothing of the herd or of memory changes. (11 Herd
Scheduling, 17 Determinism and the Twin Pair; that a CLOSING slot stays so under a hold is the model's reading, log entry
39) -/
def Obligations.HerdIntakeRecords : Prop :=
  ∀ (s : State) (p : HerdPart) (o : HerdOpen) (r : List Byte) (rest : List (List Byte)),
    s.dev.clocked = true → s.dev.herdPart = some p → s.dev.herd.opening = some o → o.todo = r :: rest →
    s.dev.hbmRange p.table (2 ^ 21) = true →
    (s.dev.tierPart = none ∧ s.dev.herd.drains = false ∨ ∃ r2 more, rest = r2 :: more ∧ field r2 0 1 ∈ [1, 2, 3, 4] ∧
      (field r2 0 1 = 3 → field r2 1 1 % 8 ≠ 0)) →
    let bare := fun (x : HerdSlot) => { x with outstanding := false, gen := 0 }
    let f := field r 1 1
    let becomes := fun (i : Instr) (new : Nat → HerdSlot) => ∃ t, exec i s = .next { s with dev := t } ∧
      ∀ j, j < 16384 → bare (t.slot p j) = bare (new j)
    let put := fun (i : Nat) (x : HerdSlot) (j : Nat) => if j = i then x else s.dev.slot p j
    let cancelled := fun (x : HerdSlot) => { x with state := if x.outstanding then 4 else 0 }
    (s.dev.lsHolds 0xE00 = true → ∀ (i : Instr) (kind : Nat), field r 0 1 = kind →
      (i, kind) ∈ [(Instr.herdAdd, 1), (.herdCancel, 2), (.herdFlush, 4)] ∨
        (kind = 3 ∧ bitAt f 0 = true ∧ i = .herdChangeStops) ∨
        (kind = 3 ∧ bitAt f 0 = false ∧ bitAt f 1 = true ∧ i = .herdHold) ∨
        (kind = 3 ∧ bitAt f 0 = false ∧ bitAt f 2 = true ∧ i = .herdRelease) →
      ∃ t, exec i s = .next { s with dev := t } ∧ t.herd = s.dev.herd ∧ t.mem = s.dev.mem ∧ t.job = s.dev.job) ∧
    (s.dev.lsHolds 0xE00 = false →
    (field r 0 1 = 1 → match s.dev.addReason p r, s.dev.freeSlot p with
      | none, some i => becomes .herdAdd (put i {
          id := field r 8 8, state := 1, outstanding := false, gen := 0, pos := 0, prompt := field r 4 4
          kv := field r 24 4, age := s.dev.herd.age % 2 ^ 48, promptAt := field r 16 8, maxNew := field r 28 4
          emitted := 0, maxPos := field r 32 4, last := 0
          stops := [field r 36 4, field r 40 4, field r 44 4, field r 48 4] })
      | _, _ => becomes .herdAdd (s.dev.slot p)) ∧
    (field r 0 1 = 2 → match s.dev.slotOfId p (field r 8 8) with
      | some (i, x) => becomes .herdCancel (put i (cancelled x))
      | none => becomes .herdCancel (s.dev.slot p)) ∧
    (field r 0 1 = 3 → match s.dev.changeReason p r, s.dev.slotOfId p (field r 8 8) with
      | none, some (i, x) =>
        (bitAt f 0 = true → becomes .herdChangeStops (put i { x with
          maxNew := field r 28 4, maxPos := field r 32 4
          stops := [field r 36 4, field r 40 4, field r 44 4, field r 48 4] })) ∧
        (bitAt f 0 = false → bitAt f 1 = true → becomes .herdHold (put i { x with state := if x.state = 4 then 4 else 3 })) ∧
        (bitAt f 0 = false → bitAt f 2 = true →
          becomes .herdRelease (put i { x with state := if x.pos < x.prompt then 1 else 2 }))
      | _, _ => ∀ i b, (i, b) ∈ [(Instr.herdChangeStops, 0), (.herdHold, 1), (.herdRelease, 2)] → bitAt f b = true →
          (b = 0 ∨ bitAt f 0 = false) → becomes i (s.dev.slot p)) ∧
    (field r 0 1 = 4 → becomes .herdFlush (fun j =>
      let x := s.dev.slot p j
      if x.state = 0 then x else cancelled x)))

/-- HERD_READY_OFFSET in an opened frame of a job that runs, closed or not, or that drains after its stop frame: where the work list of the frame is not
complete, or took longer than the ready offset, time passes to the ready offset, the job becomes FAULTED with FRAME_OVERRUN,
TICK_FAULT holds code 0x60, cause 3 and engine 0xE00 and the overrun event is set, and memories, cores and frame are
unchanged; where it is complete in time, nothing changes. (11 Herd Scheduling) -/
def Obligations.WorkListDueAtReadyOffset : Prop :=
  ∀ (s : State) (p : HerdPart), s.dev.clocked = true → s.dev.herdPart = some p → s.dev.building = true →
    s.dev.frame.opened = true →
    let inTime := s.dev.herd.built = some s.dev.frame.number ∧ s.dev.rd .jobHerdBuild ≤ p.ready
    (inTime → exec .herdReadyOffset s = .next s) ∧
    (¬ inTime → ∃ t, exec .herdReadyOffset s = .next { s with
        clk := s.clk.toCount (s.dev.frame.boundary + p.ready), dev := t } ∧
      t.job.phase = .faulted ∧ t.rd .jobStateFault = 0x60 ∧ t.rd .tickFaultCode = 0x60 ∧ t.rd .tickFaultCause = 3 ∧
      t.rd .tickFaultEngine = 0xE00 ∧ t.rd .tickEvOverrun = 1 ∧ t.mem = s.dev.mem ∧ t.cores = s.dev.cores ∧
      t.frame = s.dev.frame)

/-- TIER_MOVE_COMMIT of an object whose move has copied all its bytes: time passes to the move's end, the object's home is
the move's tier with its pool pages or tier-2 pages, and a move up stamps the object with the frame number and gives
every core that asked for it a use pin; every other object keeps its home. Where the object has no move, or bytes of
it are still to be copied, nothing changes. Where the completing write of a guarded pair of TIER_LEND_CMD reaches its
page: begin in an IDLE and READY device that does not lend makes it LENDING under the key and epoch of its registers
with the outside count at zero; end in a LENDING device starts the zeroing, and the key stays; in any other state
either command sets TIER_LEND_REJECT and leaves the TIER engine unchanged. Memories, cores and the job are unchanged
in all of these. LEND_ZEROING_END, at its time, ends lending and takes the key away, with every byte of the lent range reading zero and every
other byte of device HBM as it was; where no zeroing runs it changes nothing. That a further lending command is rejected
while the zeroing runs is the model's reading (log entry 38). (13 Memory Tiers) -/
def Obligations.TierMovesAndLending : Prop :=
  (∀ (s : State) (i : BitVec 20) (o : TierObj) (m : TierMove), s.dev.clocked = true →
    s.dev.tier.objs[i.toNat]? = some o → o.move = some m →
    (m.todo = [] → m.open_ = 0 →
      ∃ t, exec (.tierMoveCommit i) s = .next { s with clk := s.clk.toUnit m.due, dev := t } ∧
        t.tier.objs.length = s.dev.tier.objs.length ∧
        (∃ o', t.tier.objs[i.toNat]? = some o' ∧ o'.home = m.home ∧
          (m.target < o.tier → o'.stamp = s.dev.frame.number ∧ ∀ c ∈ m.takers, c ∈ o'.pins)) ∧
        (∀ (j : Nat) (x : TierObj), j ≠ i.toNat → s.dev.tier.objs[j]? = some x →
          ∃ x', t.tier.objs[j]? = some x' ∧ x'.home = x.home)) ∧
    (m.todo ≠ [] ∨ m.open_ ≠ 0 → exec (.tierMoveCommit i) s = .next s)) ∧
  (∀ (s : State) (i : BitVec 20), (s.dev.tier.objs[i.toNat]?.bind fun o => o.move) = none →
    exec (.tierMoveCommit i) s = .next s) ∧
  (∀ (s : State) (m : Master) (same : Bool) (p : Page) (op : Nat) (i : Instr), s.PairReady m same 0xB0 0x100 op p →
    (i, op) ∈ ([(.lendBegin m same, 1), (.lendEnd m same, 2)] : List (Instr × Nat)) →
    let begins := op = 1 ∧ s.dev.job.phase = .idle ∧ s.dev.tier.lend = .off ∧ s.dev.start.state = .ready
    let ends := op = 2 ∧ s.dev.tier.lend = .lending
    ∃ t, exec i s = .next { s with clk := s.writeClock m same 0xB0, dev := t } ∧
      t.mem = s.dev.mem ∧ t.cores = s.dev.cores ∧ t.job = s.dev.job ∧
      (begins → t.tier = { s.dev.tier with
          lend := .lending, lendKey := some ⟨s.dev.rd .tierLendKey, s.dev.rd .tierLendEpoch⟩ } ∧
        t.rd .tierLendOutside = 0) ∧
      (ends → t.tier = { s.dev.tier with lend := .zeroing }) ∧
      (¬ begins → ¬ ends → t.tier = s.dev.tier ∧ t.rd .tierLendReject = 1)) ∧
  (∀ (s : State) (at_ : Nat), s.dev.clocked = true → s.dev.tier.lend = .zeroing →
    let base := s.dev.rd .tierLendBase * 2 ^ 21
    let n := s.dev.rd .tierLendPages * 2 ^ 21
    ∃ t, exec (.lendZeroingEnd at_) s = .next { s with clk := s.clk.toCount at_, dev := t } ∧ t.tier.lend = .off ∧
      t.tier.lendKey = none ∧
      (∀ a, t.mem.hbm.read a = if base ≤ a ∧ a < base + n then 0 else s.dev.mem.hbm.read a) ∧
      t.cores = s.dev.cores ∧ t.job = s.dev.job) ∧
  (∀ (s : State) (at_ : Nat), s.dev.tier.lend ≠ .zeroing → exec (.lendZeroingEnd at_) s = .next s)

/-- Where its completing write reaches the page: a window command with a legal staged entry puts the entry into effect at
once in ADMITTED and ARMED, adds a change for the named frame, or for the next open where that is later, in RUNNING,
and sets GMEM_WIN_REJECT otherwise; a cancel gives up every management load of the tag, or every management load and
store for 0xFFFF. A write of GMEM_CFG with a legal pair of intervals takes effect in IDLE; in another state, with a zero
field or with twice the retry interval above the timeout it is ignored and sets GMEM_CFG_REJECT. A management load or
store to a node, and region 0xF of a device, whose bytes one packet carries and that finds room becomes the newest
request under the next number toward the node.
Memories, cores and the job are unchanged in all of these. (14 Global Memory; that 0xFFFF gives up stores too is the
model's reading, log entry 43, and how many bytes one packet carries its choice, log entry 81) -/
def Obligations.GlobalRequestControl : Prop :=
  (∀ (s : State) (m : Master) (same : Bool) (p : Page), s.PairReady m same 0xC0 0x1C 1 p →
    let e := s.dev.rd .gmemWinData 0 0 + s.dev.rd .gmemWinData 0 1 * 2 ^ 32 + s.dev.rd .gmemWinData 0 2 * 2 ^ 64 +
      s.dev.rd .gmemWinData 0 3 * 2 ^ 96
    let w := s.dev.rd .gmemWinSel
    let early := s.dev.job.phase = .admitted ∨ s.dev.job.phase = .armed
    let next := if s.dev.frame.opened then s.dev.frame.number + 1 else 0
    let at_ := s.dev.rd64 .gmemWinAtLo .gmemWinAtHi
    ∃ t, exec (.windowCommand m same) s = .next { s with clk := s.writeClock m same 0xC0, dev := t } ∧
      t.mem = s.dev.mem ∧ t.cores = s.dev.cores ∧ t.job = s.dev.job ∧
      (winLegal e = true → early → ∀ v, t.window v = if v = w then e else s.dev.window v) ∧
      (winLegal e = true → s.dev.job.phase = .running → t.gmem.windows = s.dev.gmem.windows ∧
        t.gmem.changes = (s.dev.gmem.changes.filter fun x => x.win ≠ w) ++
          [⟨w, e, if at_ = 2 ^ 64 - 1 then next else max at_ next⟩]) ∧
      ((winLegal e = false ∨ (¬ early ∧ s.dev.job.phase ≠ .running)) → t.gmem = s.dev.gmem ∧ t.rd .gmemWinReject = 1)) ∧
  (∀ (s : State) (m : Master) (same : Bool) (v : BitVec 32) (p : Page), s.PairReady m same 0xC0 0x74 v.toNat p →
    let tag := v.toNat % 65536
    let hit := fun (r : GReq) => (∃ n, r.owner = .agent (some n) ∧ (tag = 0xFFFF ∨ n = tag)) ∨
      (r.owner = .agent none ∧ tag = 0xFFFF)
    ∃ t, exec (.gmemMgmtCancel m same v) s = .next { s with clk := s.writeClock m same 0xC0, dev := t } ∧
      t.mem = s.dev.mem ∧ t.cores = s.dev.cores ∧ t.job = s.dev.job ∧
      (∀ r, r ∈ t.gmem.reqs ↔ r ∈ s.dev.gmem.reqs ∧ ¬ hit r) ∧
      (∀ r ∈ s.dev.gmem.reqs, hit r → r.op = 0 → (r.node, r.seq) ∈ t.gmem.cancelled)) ∧
  (∀ (s : State) (m : Master) (same : Bool) (v : BitVec 32) (p : Page), s.WriteReaches m same 0xC0 0 p →
    s.dev.openGuard 0xC0 = none →
    let timeout := bitRange v.toNat 15 0
    let retry := bitRange v.toNat 23 16
    let good := timeout ≠ 0 ∧ retry ≠ 0 ∧ 2 * retry ≤ timeout
    ∃ t, exec (.gmemCfgWrite m same v) s = .next { s with clk := s.writeClock m same 0xC0, dev := t } ∧
      t.mem = s.dev.mem ∧ t.cores = s.dev.cores ∧ t.job = s.dev.job ∧ t.gmem = s.dev.gmem ∧
      (¬ (good ∧ s.dev.job.phase = .idle) → t.rd .gmemCfgReject = 1) ∧
      (if good ∧ s.dev.job.phase = .idle then t.rd .gmemCfgTimeout = timeout ∧ t.rd .gmemCfgRetry = retry
       else t.rd .gmemCfgTimeout = s.dev.rd .gmemCfgTimeout ∧ t.rd .gmemCfgRetry = s.dev.rd .gmemCfgRetry)) ∧
  (∀ (s : State) (p : Packet), s.dev.clocked = true → p.op = 0x10 ∨ p.op = 0x11 →
    let len := field p.payload 8 4
    let addr := field p.payload 0 8
    let node := p.dst.toNat
    node < 0xFFF0 → 0x4000 ≤ node ∨ addr / 2 ^ 44 % 16 = 15 →
    len ≤ gmemCarries → s.dev.gmem.room 1 (if p.op = 0x11 then len else 0) = true →
    ∃ t, exec (.managementRequest p) s = .next { s with dev := t } ∧
      t.mem = s.dev.mem ∧ t.cores = s.dev.cores ∧ t.job = s.dev.job ∧
      (∃ r, t.gmem.reqs = s.dev.gmem.reqs ++ [r] ∧ r.mgmt = true ∧ r.node = node ∧ r.addr = addr ∧ r.len = len ∧
        r.seq = s.dev.gmem.nextOf true node ∧
        (if p.op = 0x10 then r.op = 0 ∧ r.owner = .agent (some s.dev.gmem.tag)
         else r.op = 1 ∧ r.owner = .agent none ∧ r.data = (p.payload.drop 64).take len)) ∧
      t.gmem.nextOf true node = (s.dev.gmem.nextOf true node + 1) % 2 ^ 32 ∧
      t.gmem.tag = if p.op = 0x10 then (if s.dev.gmem.tag + 1 < 0xFFFF then s.dev.gmem.tag + 1 else 0) else s.dev.gmem.tag)

/-- GMEM_RETRY, at the retry interval after the last sending, counts one repetition more of the request and sends it again
on the next flowlet: a packet of the request's key, number and operation, and of its bytes with the repetition's number,
comes to this device's own delivery or leaves on the port of the route table, on ports with their eight queues.
GMEM_TIMEOUT, at the timeout after the first sending of a job's request, drops the request and makes a job that can fault FAULTED with code 0x30, cause 4 and the node in GMEM_FAULT. GMEM_RESPONSE_ARRIVE under the
right key, and on the management channel with its MAC: a BUSY answer changes no request; an UNKNOWN answer drops the
request and, but on the management channel, makes a job that can fault FAULTED with code 0x32, cause 5; OK and DUPLICATE drop the request, write a
core's load to its local bytes and let its GLD retire once none of its requests is outstanding, give a core's atomic
the old value, and change no core for a store; a load whose local bytes have left their space meanwhile is a TILE_BOUNDS
fault; an answer to no request changes no request. The room that an answer frees may bring further requests of restores,
of TIER moves and of images in the making. Where a command names no request, nothing changes. That an UNKNOWN answer only drops a management
request is the model's reading (log entry 43). (14 Global Memory, 15 Fabric) -/
def Obligations.GlobalRequestsRepeatedAndAnswered : Prop :=
  (∀ (s : State) (node : BitVec 16) (seq : BitVec 32), s.dev.clocked = true →
    (∀ r, s.dev.gmem.find node.toNat seq.toNat = some r →
      let k := s.clk.toCount (r.sentAt + 1000 * s.dev.rd .gmemCfgRetry)
      ∃ t, exec (.gmemRetry node seq) s = .next { s with clk := k, dev := t } ∧
        t.gmem = s.dev.gmem.upd r (fun _ => { r with retry := (r.retry + 1) % 256, sentAt := k.count }) ∧
        Sparse.get t.fab.flowReps 0 r.node = Sparse.get s.dev.fab.flowReps 0 r.node + 1 ∧
        t.mem = s.dev.mem ∧ t.cores = s.dev.cores ∧ t.job = s.dev.job ∧
        ((∀ i : Fin 81, s.dev.fab.ports[i].queues.length = 8) → ∃ x : Packet, s.dev.Originates t x ∧ x.dst = node ∧
          x.seq = seq ∧ x.op = BitVec.ofNat 8 (0x10 + r.op) ∧ x.chan = (if r.mgmt then 3 else 0) ∧
          (let key := if r.mgmt then s.dev.mgmtKey else s.dev.jobKey
           x.tag = BitVec.ofNat 24 key.tag ∧ x.epoch = BitVec.ofNat 16 key.epoch) ∧
          x.flowlet = BitVec.ofNat 12 (s.dev.fab.flowlet r.node + 1) ∧
          let bytes := ({ r with retry := (r.retry + 1) % 256 } : GReq).payload
          (r.mgmt = false ∨ s.dev.sec.fixed = false → x.payload.take bytes.length = bytes) ∧
          (r.mgmt = true → s.dev.sec.fixed = true → x.payload.take 32 = bytes.take 32 ∧ x.macGood s.dev.sec.key = true))) ∧
    (s.dev.gmem.find node.toNat seq.toNat = none → exec (.gmemRetry node seq) s = .next s) ∧
    (let asked := s.dev.gmem.reqs.filter fun r => !r.mgmt && r.node = node.toNat && r.seq = seq.toNat
     (asked = [] → exec (.gmemTimeout node seq) s = .next s) ∧
     (∀ r, asked.head? = some r →
      ∃ t, exec (.gmemTimeout node seq) s = .next { s with
          clk := s.clk.toCount (r.first + 1000 * s.dev.rd .gmemCfgTimeout), dev := t } ∧
        t.gmem.reqs = (s.dev.gmem.drop r).reqs ∧ t.mem = s.dev.mem ∧ t.cores = s.dev.cores ∧
        (s.dev.job.phase.faultable = true → s.dev.job.abort = false →
          t.job.phase = .faulted ∧ t.rd .jobStateFault = 0x30 ∧ t.rd .gmemFaultCode = 0x30 ∧
          t.rd .gmemFaultCause = 4 ∧ t.rd .gmemFaultNode = node.toNat ∧ t.gmem.faultAddr = r.addr)))) ∧
  (∀ (s : State) (p : Packet), s.dev.clocked = true → 0x90 ≤ p.op.toNat → p.op.toNat ≤ 0x92 →
    let mgmt := decide (p.chan = 3)
    let status := field p.payload 12 1
    let left := fun (r : GReq) (t : Dev) => ∃ more, t.gmem.reqs = (s.dev.gmem.drop r).reqs ++ more ∧
      ∀ x ∈ more, x.owner = .restored ∨ (∃ i o, x.owner = .tier i o) ∨ ∃ q f i o, x.owner = .image q f i o
    (if mgmt then p.key = s.dev.mgmtKey ∧ s.dev.macOk s.clk p = true else s.dev.job.keyed = true ∧ p.key = s.dev.jobKey) →
    (match s.dev.gmem.reqs.find? fun r => r.mgmt = mgmt && r.node = p.src.toNat && r.seq = field p.payload 8 4 with
     | none => ∃ t, exec (.gmemResponseArrive p) s = .next { s with dev := t } ∧ t.gmem.reqs = s.dev.gmem.reqs ∧
        t.mem = s.dev.mem ∧ t.cores = s.dev.cores ∧ t.job = s.dev.job
     | some r =>
      (status = 2 → ∃ t, exec (.gmemResponseArrive p) s = .next { s with dev := t } ∧ t.gmem = s.dev.gmem ∧
        t.mem = s.dev.mem ∧ t.cores = s.dev.cores ∧ t.job = s.dev.job) ∧
      (status ≠ 2 → ∃ t, exec (.gmemResponseArrive p) s = .next { s with dev := t } ∧
        (status = 3 → left r t ∧ t.mem = s.dev.mem ∧ t.cores = s.dev.cores ∧
          (mgmt = false → s.dev.job.phase.faultable = true → s.dev.job.abort = false →
            t.job.phase = .faulted ∧ t.rd .jobStateFault = 0x32 ∧ t.rd .gmemFaultCode = 0x32 ∧
            t.rd .gmemFaultCause = 5 ∧ t.rd .gmemFaultNode = p.src.toNat)) ∧
        (status ≠ 3 → ∀ c q w o, r.owner = .core c q w o →
          let core := Fin.ofNat 48 c
          let bs := slice p.payload 64 r.len
          let asker := s.dev.cores[core].entries.find? fun x => x.seq = q
          left r t ∧ (s.dev.lockstep = false → r.op ≠ 0 ∨ (∀ e, asker = some e → s.dev.gmemLocal core e ≠ none) →
            t.job = s.dev.job) ∧
          (r.op = 0 → ∀ e, asker = some e → s.dev.gmemLocal core e = none → s.dev.job.phase.faultable = true →
            s.dev.job.abort = false → t.job.phase = .faulted ∧ t.rd .jobStateFault = 0x12) ∧
          (r.op = 0 → ((∀ x ∈ (s.dev.gmem.drop r).reqs, ∀ w' o', x.owner ≠ .core core.val q w' o') →
              ∀ e' ∈ t.cores[core].entries, e'.seq = q → e'.done = true) ∧
            ∀ e l a, asker = some e → s.dev.gmemLocal core e = some (l, a) →
              (l ≠ .hbm → t.locRead l (a + o) r.len = bs) ∧
              (∀ y, l = .hbm → s.dev.hbmRuns (a + o) r.len = some [(y, r.len)] → t.mem.hbm.readN y r.len = bs)) ∧
          (r.op = 1 → t.mem = s.dev.mem ∧ t.cores = s.dev.cores) ∧
          (r.op = 2 → t.mem = s.dev.mem ∧ ∀ e' ∈ t.cores[core].entries, e'.seq = q →
            e'.done = true ∧ e'.sc resultSlot = BitVec.ofNat 64 (field p.payload 16 8))) ∧
        (status ≠ 3 → ∀ tag, r.owner = .agent tag → left r t ∧ t.mem = s.dev.mem ∧
          t.cores = s.dev.cores ∧
          t.out.reads = if r.op = 0 then s.dev.out.reads ++ [leNat (slice p.payload 64 r.len)] else s.dev.out.reads))))

/-- GMEM_REQUEST_ARRIVE of a request whose key does not let it reach its region changes no memory and no sequence. A
request whose key does is taken now, or in the next control cycle where a higher source's has been taken in this one (the
model's choice, log entry 82): with the expected number and none held from its source, a load answers the bytes of its
region, zero outside the region's memory, a store writes them there and discards the others, an atomic applies its
operation, answers the old value and enters the replay cache, and the expected number advances; an atomic that finds
the replay cache full of young entries answers BUSY and changes nothing; an earlier number changes no memory and no
sequence; a later number is held where the hold buffer has room and not already held, and changes no memory. A
management request to control space takes one control cycle for each word (R413 of chapter 19); a store of one aligned
word, after which nothing is held from the source, acts as a write by the management master; an atomic to control space
is answered UNKNOWN, changes no memory and advances the expected number, which is the model's reading (log entry 43).
(14 Global Memory, 19 Control Space and Register Map) -/
def Obligations.GlobalRequestsServed : Prop :=
  ∀ (s : State) (p : Packet), s.dev.clocked = true → 0x10 ≤ p.op.toNat → p.op.toNat ≤ 0x12 →
    let x := s.dev.sourceOf p
    let o := p.gOff
    let n := p.gLen
    let reg := p.gRegion
    let inside := fun (i : Nat) => (s.dev.regionAt reg i).isSome
    let answered := fun (t : Dev) (k : Clock) (a : Answer) => ∃ e : Dev,
      t = (e.answer k p a).sendRaised s.dev.sec.reports k
    let advanced := fun (t : Dev) => (t.sourceOf p).expect = (x.expect + 1) % 2 ^ 32
    let now := s.dev.gmem.turn s.clk p.src.toNat
    let taken := { s.dev.gmem with latest := (now.cc, p.src.toNat) }
    (s.dev.requestKey p = false → ∃ t, exec (.gmemRequestArrive p) s = .next { s with dev := t } ∧
      t.mem = s.dev.mem ∧ t.gmem = s.dev.gmem ∧ t.cores = s.dev.cores ∧ t.job = s.dev.job) ∧
    (s.dev.requestKey p = true → reg ≠ 15 →
      ∃ t, exec (.gmemRequestArrive p) s = .next { s with clk := now, dev := t } ∧
      t.cores = s.dev.cores ∧
      (p.seq.toNat = x.expect → x.held = [] →
        (p.op = 0x10 → t.mem = s.dev.mem ∧ advanced t ∧ ∃ a, answered t now a ∧ a.status = 0 ∧ a.data.length = n ∧
          ∀ i, i < n → a.data[i]? = (s.dev.regionRead reg (o + i) 1).head? ∧
            (inside (o + i) = false → a.data[i]? = some 0)) ∧
        (p.op = 0x11 → advanced t ∧ (∃ a, answered t now a ∧ a.status = 0) ∧
          (∀ i, i < n → t.regionRead reg (o + i) 1 = [if inside (o + i) then p.gData.getD i 0 else 0]) ∧
          (∀ q, q < o ∨ o + n ≤ q → t.regionRead reg q 1 = s.dev.regionRead reg q 1)) ∧
        (p.op = 0x12 →
          let old := leNat (s.dev.regionRead reg o n)
          let new := leBytes n (atomicNew (field p.payload 12 1) old (field p.payload 16 8) (field p.payload 24 8))
          match s.dev.gmem.cacheRoom s.dev.frame.number with
          | none => t.mem = s.dev.mem ∧ t.gmem = taken ∧ ∃ a, answered t now a ∧ a.status = 2
          | some cache => advanced t ∧ (∃ a, answered t now a ∧ a.status = 0 ∧ a.old = old) ∧
            t.gmem.cache = cache ++ [⟨p.src.toNat, p.seq.toNat, old, s.dev.frame.number⟩] ∧
            (∀ i, i < n → t.regionRead reg (o + i) 1 = [if inside (o + i) then new.getD i 0 else 0]) ∧
            (∀ q, q < o ∨ o + n ≤ q → t.regionRead reg q 1 = s.dev.regionRead reg q 1))) ∧
      (p.seq.toNat ≠ x.expect → t.mem = s.dev.mem ∧
        (seqBefore p.seq.toNat x.expect = true → t.gmem = taken ∧ (p.op ≠ 0x12 → ∃ a, answered t now a ∧ a.status = 1)) ∧
        (seqBefore p.seq.toNat x.expect = false → (∀ q ∈ x.held, q.seq ≠ p.seq) →
          if s.dev.heldRequests < 256 then (t.sourceOf p).held = x.held ++ [p] ∧ (t.sourceOf p).expect = x.expect
          else t.gmem = taken))) ∧
    (s.dev.requestKey p = true → reg = 15 → s.dev.macOk s.clk p = true → p.seq.toNat = x.expect → x.held = [] →
      (p.op = 0x10 → ∃ k t, exec (.gmemRequestArrive p) s = .next { s with clk := k, dev := t } ∧
        k.cc = now.cc + ceilDiv (o % 4 + n) 4 ∧ t.mem = s.dev.mem ∧ t.cores = s.dev.cores ∧ advanced t) ∧
      (p.op = 0x11 → o % 4 = 0 → n = 4 → o < 2 ^ 28 →
        let k := now.nextCc
        let u := (({ s.dev with gmem := taken } : Dev).countTaken p).masterWrite k ⟨.mgmt, o / 65536, o % 65536, leNat p.gData, true⟩
        (u.sourceOf p).held = [] →
        ∃ t, exec (.gmemRequestArrive p) s = .next { s with clk := k, dev := t } ∧
          t.regs = u.regs ∧ t.mem = u.mem ∧ t.cores = u.cores ∧ t.job = u.job ∧ t.ctl = u.ctl) ∧
      (p.op = 0x12 → ∃ t, exec (.gmemRequestArrive p) s = .next { s with clk := now, dev := t } ∧ t.mem = s.dev.mem ∧
        t.cores = s.dev.cores ∧ advanced t ∧ ∃ a, answered t now a ∧ a.status = 3))

/-- A TIME message that is let in sets the counter in UNSET and COARSE, outside ARMED and RUNNING and not at the root, and
makes the state COARSE; one not let in is dropped; otherwise nothing changes. A timestamp block on a port that carries
timestamps is recorded there, and on the current parent of a device that is not the root its doubled offset h moves
the state: COARSE to TRACKING (the counter is set once, unless a job is ARMED or RUNNING), LOCKED to TRACKING beyond 4
counts, TRACKING to LOCKED after sixteen offsets in a row within 2 counts, HOLDOVER to TRACKING; it is recorded in
TICK_OFFSET_LAST, and in TRACKING, LOCKED and HOLDOVER a rate adjustment within 50 ppm, a free value, comes into force
and is shown in TICK_OFFSET_RATE. Which end made which stamp, how half a count is rounded, that a
HOLDOVER device tracks on an offset of the same parent, and that a TIME message is taken in COARSE as in UNSET are the
model's choices (log entry 77). A port that carries timestamps and has fewer than 64 unacknowledged blocks sends its timestamp block, a
numbered link block, at a multiple of 65,536 counts (the model's choice, log entry 77); another sends none. 20,000,000
counts without a parent make COARSE, TRACKING and HOLDOVER LOST with its event set, which a running or an ARMED job
keeps. A completed pair of TICK_SYNC_CFG stores its fields; the
root is then LOCKED, and elsewhere LOST is left for TRACKING (COARSE without an ARMED or RUNNING job), and LOCKED and
HOLDOVER with another parent for TRACKING. Memories, cores and the job are unchanged. (02 Ticks and Frames) -/
def Obligations.CounterSynchronisation : Prop :=
  ∀ s : State,
    let kept := fun (t : Dev) => t.mem = s.dev.mem ∧ t.cores = s.dev.cores ∧ t.job = s.dev.job
    let y := s.dev.sync
    (∀ p : Packet, s.dev.clocked = true → p.op = 0x70 →
      let letIn := s.dev.timeLetIn s.clk p
      let takes := letIn = true ∧ s.dev.isRoot = false ∧ s.dev.keepsTime = false ∧ (y.state = .unset ∨ y.state = .coarse)
      (takes → ∃ t, exec (.timeMessage p) s = .next { s with clk := s.clk.setCount (field p.payload 0 8), dev := t } ∧
        t.sync.state = .coarse ∧ t.sync.good = 0 ∧ kept t) ∧
      (letIn = false → ∃ t, exec (.timeMessage p) s = .next { s with dev := t } ∧ t.sync = y ∧ kept t) ∧
      (letIn = true → ¬ takes → exec (.timeMessage p) s = .next s)) ∧
    (∀ (port : Fin 81) (t1 t2 t3 t4 : BitVec 64) (status : TwinStatus) (node : BitVec 16), s.dev.clocked = true →
      let i := Instr.timestampBlock port t1 t2 t3 t4 status node
      let h : Int := ((t2.toNat : Int) - t1.toNat) - ((t4.toNat : Int) - t3.toNat)
      let steers := s.dev.isRoot = false ∧ s.dev.parent = some port
      let rates := y.state = .tracking ∨ y.state = .locked ∨ y.state = .holdover
      (s.dev.fab.ports[port].timed = false → exec i s = .next s) ∧
      (s.dev.fab.ports[port].timed = true → ∃ k t, exec i s = .next { s with clk := k, dev := t } ∧ kept t ∧
        (port ≠ 80 → t.fab.ports[port].gotAt = some (t3.toNat, t4.toNat)) ∧
        (port = 80 → t.twin.peer = some (status.mode.toNat, node.toNat, status.job.toNat)) ∧
        (steers → y.state = .coarse → s.dev.keepsTime = false →
          k = s.clk.setCount ((s.clk.count : Int) + h / 2).toNat) ∧
        (steers → rates → k = s.clk.setRate s.dev.nextRate ∧ s.dev.nextRate.natAbs ≤ 5000 ∧
          t.rd .tickOffsetRate = untwos 16 s.dev.nextRate) ∧
        (¬ steers ∨ (¬ rates ∧ (y.state ≠ .coarse ∨ s.dev.keepsTime = true)) → k = s.clk) ∧
        (¬ steers → port ≠ 80 → t.sync = y) ∧
        (steers → t.rd .tickOffsetLast = untwos 16 (h * 8) ∧
          t.sync.state = match y.state with
            | .coarse => .tracking
            | .locked => if 8 < h.natAbs then .tracking else .locked
            | .tracking => if h.natAbs ≤ 4 ∧ 16 ≤ y.good + 1 then .locked else .tracking
            | .holdover => .tracking
            | x => x))) ∧
    (∀ port : Fin 81, s.dev.clocked = true →
      let q := s.dev.fab.ports[port]
      (q.timed = false ∨ q.acked + 64 ≤ q.blocks → exec (.timestampSend port) s = .next s) ∧
      (q.timed = true → q.blocks < q.acked + 64 →
        ∃ k t, exec (.timestampSend port) s = .next { s with clk := k, dev := t } ∧
        kept t ∧ k.count % 65536 = 0 ∧ s.clk.count ≤ k.count ∧ k.count ≤ s.clk.count + 65536 ∧
        t.fab.ports[port].sentAt = some k.count ∧
        (port ≠ 80 → t.fab.ports[port].blocks = q.blocks + 1 ∧
          ∃ b, t.out.blocks = s.dev.out.blocks ++ [(port.val, b)] ∧ b.kind = 1 ∧ b.number = q.blocks % 4096 ∧
            b.acked = (q.rxNext + 4095) % 4096 ∧ b.nak = q.nakOut ∧ b.body.take 8 = leBytes 8 k.count))) ∧
    (s.dev.clocked = true →
      let may := (y.state = .coarse ∨ y.state = .tracking ∨ y.state = .holdover) ∧ s.dev.isRoot = false
      (∀ c, y.orphan = some c → may →
        ∃ t, exec .syncParentTimeout s = .next { s with clk := s.clk.toCount (c + 20000000), dev := t } ∧
          t.sync.state = .lost ∧ t.rd .tickEvSyncLost = 1 ∧
          t.sync.lostRun = (y.lostRun || decide (s.dev.job.phase = .running)) ∧
          t.sync.lostArmed = (y.lostArmed || decide (s.dev.job.phase = .armed)) ∧ kept t) ∧
      (y.orphan = none ∨ ¬ may → exec .syncParentTimeout s = .next s)) ∧
    (∀ (m : Master) (same : Bool) (v : BitVec 32) (p : Page), s.PairReady m same 0x10 0 v.toNat p →
      let root := bitAt v.toNat 16
      let parent := if y.onBackup then parentPort (bitRange v.toNat 15 8) else parentPort (bitRange v.toNat 7 0)
      ∃ t, exec (.tickSyncCfgWrite m same v) s = .next { s with clk := s.writeClock m same 0x10, dev := t } ∧ kept t ∧
        t.rd .tickSyncPrimary = bitRange v.toNat 7 0 ∧ t.rd .tickSyncBackup = bitRange v.toNat 15 8 ∧
        t.rd .tickSyncRoot = root.toNat ∧
        (root = true → t.syncState = .locked) ∧
        (root = false → y.state = .lost → t.syncState = if s.dev.keepsTime then .tracking else .coarse) ∧
        (root = false → y.state = .locked ∨ y.state = .holdover → parent ≠ s.dev.parent → t.syncState = .tracking))

/-- PORT_ENABLE makes a DISABLED port DOWN and trains it from now on, and is ignored elsewhere; PORT_DISABLE makes any
other port DISABLED. A DOWN port that is fitted begins TRAINING at its training count, the next one 1,000,000 counts
later; training that succeeds leads to QUARANTINE with lane order and polarity recorded and fresh credits (the twin
link on to UP where the twins' modes agree), training that fails to DOWN. Loss of lock in UP or QUARANTINE, and 10,000
counts without an acknowledgement while blocks wait for one, take the port DOWN. A block with a bad CRC changes nothing
that is received or acknowledged, and unless it is a control block the port's next trailer carries a NAK; a good
numbered block with another number than the expected one is discarded; one with the expected number advances the number
and its bytes are cut into packets. Acknowledgements of an accepted block advance within the blocks sent; with a NAK and
without such an advance, sixteen replays of one block take the port DOWN, and fewer are counted, every unacknowledged
block being sent again. Memories and cores are unchanged. That the credits come with the end of training, which lies
before UP, and that a discarded block acknowledges nothing are the model's choices (log entry 78). (15 Fabric) -/
def Obligations.PortsAndLinkBlocks : Prop :=
  ∀ s : State, s.dev.clocked = true →
    let kept := fun (t : Dev) => t.mem = s.dev.mem ∧ t.cores = s.dev.cores ∧ t.job = s.dev.job
    (∀ (m : Master) (same : Bool) (fd : Fin 10) (port : Fin 8) (p : Page) (i : Fin 81), i.val = 8 * fd.val + port.val →
      let q := s.dev.fab.ports[i]
      (s.PairReady m same (fabPage fd) (4 + 0x20 * port.val) 1 p →
        ∃ t, exec (.portEnable m same fd port) s = .next { s with clk := s.writeClock m same (fabPage fd), dev := t } ∧
          kept t ∧ t.fab.ports[i] = if q.state = .disabled
            then { q with state := .down, trainAt := (s.writeClock m same (fabPage fd)).count } else q) ∧
      (s.PairReady m same (fabPage fd) (4 + 0x20 * port.val) 2 p →
        ∃ t, exec (.portDisable m same fd port) s = .next { s with clk := s.writeClock m same (fabPage fd), dev := t } ∧
          kept t ∧ t.fab.ports[i].state = .disabled)) ∧
    (∀ i : Fin 81,
      let q := s.dev.fab.ports[i]
      let carries := q.state = .up ∨ q.state = .quarantine
      (q.state = .down → s.dev.portPresent i = true →
        ∃ t, exec (.portTrainingStart i) s = .next { s with clk := s.clk.toCount q.trainAt, dev := t } ∧ kept t ∧
          t.fab.ports[i] = { q with state := .training, trainAt := (s.clk.toCount q.trainAt).count + 1000000 }) ∧
      (q.state ≠ .down ∨ s.dev.portPresent i = false → exec (.portTrainingStart i) s = .next s) ∧
      (∀ (reversed : Bool) (polarity : BitVec 8), q.state = .training →
        (∃ t, exec (.portTrainingEnd i true reversed polarity) s = .next { s with dev := t } ∧ kept t ∧
          t.fab.ports[i].state = (if i = 80 ∧ s.dev.twin.peer.map (·.1) = some (s.dev.rd .twinCfgMode) then .up
            else .quarantine) ∧
          t.fab.ports[i].reversed = reversed ∧ t.fab.ports[i].polarity = polarity.toNat ∧
          t.fab.ports[i].credits = List.replicate 8 1024) ∧
        (∃ t, exec (.portTrainingEnd i false reversed polarity) s = .next { s with dev := t } ∧ kept t ∧
          t.fab.ports[i] = { q with state := .down })) ∧
      (carries → ∃ t, exec (.pmdLockLoss i) s = .next { s with dev := t } ∧ kept t ∧ t.fab.ports[i].state = .down) ∧
      (¬ carries → exec (.pmdLockLoss i) s = .next s) ∧
      (carries → q.window ≠ [] →
        ∃ t, exec (.ackTimeout i) s = .next { s with clk := s.clk.toCount (q.ackAt + 10000), dev := t } ∧ kept t ∧
          t.fab.ports[i].state = .down) ∧
      (¬ carries ∨ q.window = [] → exec (.ackTimeout i) s = .next s) ∧
      (∀ (body : List Byte) (tr : BitVec 128), carries → body.length = 4096 →
        let w := tr.toNat
        let kind := bitRange w 25 24
        let good := (crc32c (body ++ leBytes 12 (w % 2 ^ 96))).toNat = bitRange w 127 96
        let step := (bitRange w 23 12 + 1 + 4096 - q.acked % 4096) % 4096
        let advances := step ≠ 0 ∧ q.acked + step ≤ q.blocks
        let cut := cutPackets ((q.rxBytes ++ body).length / 32 + 1) (q.rxBytes ++ body)
        let next := bitRange w 11 0 = q.rxNext
        ∃ t, exec (.linkBlockReceive i body tr) s = .next { s with dev := t } ∧ kept t ∧
          let sent := t.out.blocks.drop s.dev.out.blocks.length
          let u := t.fab.ports[i]
          let untaken := u.state = q.state ∧ u.acked = q.acked ∧ u.rxNext = q.rxNext ∧ u.rxBytes = q.rxBytes ∧
            u.replays = q.replays ∧ t.fab.inbox = s.dev.fab.inbox
          (¬ good → untaken ∧ (kind ≠ 2 → ∃ b ∈ sent, b.1 = i.val ∧ b.2.nak = true)) ∧
          (good → kind ≤ 1 → ¬ next → untaken) ∧
          (good → kind ≤ 1 → next → u.rxNext = (q.rxNext + 1) % 4096 ∨ u.state = .down) ∧
          (good → 2 ≤ kind ∨ next → bitAt w 26 = false → u.state = q.state ∧
            u.acked = (if advances then q.acked + step else q.acked) ∧
            (2 ≤ kind → u.rxNext = q.rxNext) ∧
            (if kind = 0 then u.rxBytes = cut.2 ∧ t.fab.inbox = s.dev.fab.inbox ++ cut.1.map fun x => (i, x)
             else u.rxBytes = q.rxBytes ∧ t.fab.inbox = s.dev.fab.inbox)) ∧
          (good → 2 ≤ kind ∨ next → bitAt w 26 = true → ¬ advances → q.window ≠ [] →
            if 16 ≤ q.replays + 1 then u.state = .down
            else u.state = q.state ∧ u.replays = q.replays + 1 ∧ ∀ x ∈ q.window, ∃ b ∈ sent,
              b.1 = i.val ∧ b.2.number = x.block.number ∧ b.2.kind = x.block.kind ∧ b.2.body = x.block.body)))

/-- On a port with its eight queues: PROBE_SEND in QUARANTINE or UP puts a probe to the link partner on the port, queued
or sent, and is ignored elsewhere; a one-hop probe that arrives whole is answered on the port with this device's node
number, the port code and the counter, and a one-hop probe answer that arrives whole records the partner's node and
port as valid; one that is not whole is only taken out of its buffer. A packet that arrives on a port in UP (a probe also in
QUARANTINE) is released where it is one-hop and whole, awaits delivery at its destination in phase 2, is dropped after
fifteen hops or without a usable port, and else is queued at or sent on the port of the live route table with one hop
more; otherwise nothing changes. Memories, cores and the job are unchanged. The byte places of the
probe's answer are the model's choice (log entry 44). (15 Fabric) -/
def Obligations.ProbesAndRouting : Prop :=
  ∀ s : State, s.dev.clocked = true → (∀ i : Fin 81, s.dev.fab.ports[i].queues.length = 8) →
    let kept := fun (t : Dev) => t.mem = s.dev.mem ∧ t.cores = s.dev.cores ∧ t.job = s.dev.job
    let leaves := fun (t : Dev) => t.Leaves
    let timed := fun (i : Fin 81) => s.dev.fab.ports[i].state = .quarantine ∨ s.dev.fab.ports[i].state = .up
    (∀ (m : Master) (same : Bool) (fd : Fin 10) (port : Fin 8) (p : Page) (i : Fin 81), i.val = 8 * fd.val + port.val →
      s.PairReady m same (fabPage fd) (4 + 0x20 * port.val) 3 p →
      ∃ t, exec (.probeSend m same fd port) s = .next { s with clk := s.writeClock m same (fabPage fd), dev := t } ∧
        kept t ∧ (timed i → ∃ x, leaves t i x ∧ x.op = 0x01 ∧ x.dst = 0xFFFF ∧ x.chan = 3 ∧ x.crc = x.crcOf) ∧
        (¬ timed i → t.fab = s.dev.fab)) ∧
    (∀ (i : Fin 81) (p : Packet), p.dst = 0xFFFF →
      (timed i → p.good = true → p.op = 0x01 → ∃ t, exec (.probe i p) s = .next { s with dev := t } ∧ kept t ∧
        t.fab.inbox = s.dev.fab.inbox.erase (i, p) ∧
        ∃ x, leaves t i x ∧ x.op = 0x81 ∧ x.dst = 0xFFFF ∧ x.chan = 3 ∧ x.crc = x.crcOf ∧
          field x.payload 0 2 = s.dev.node % 2 ^ 16 ∧ field x.payload 2 6 = (if i = 80 then 0x78 else i.val) ∧
          field x.payload 8 8 = s.clk.count % 2 ^ 64) ∧
      (timed i → p.good = true → p.op = 0x81 → ∃ t, exec (.probeAnswer i p) s = .next { s with dev := t } ∧ kept t ∧
        t.fab.inbox = s.dev.fab.inbox.erase (i, p) ∧
        t.fab.ports[i].partner = some (field p.payload 0 2, field p.payload 2 1 % 128) ∧ t.fab.ports[i].partnerValid = true) ∧
      (timed i → p.good = false → ∀ c ∈ [(Instr.probe i p, (0x01 : BitVec 8)), (.probeAnswer i p, 0x81)], p.op = c.2 →
        ∃ t, exec c.1 s = .next { s with dev := t } ∧ kept t ∧ t.fab.inbox = s.dev.fab.inbox.erase (i, p) ∧
          t.out.sent = s.dev.out.sent ∧ t.fab.ports[i].partner = s.dev.fab.ports[i].partner) ∧
      (¬ timed i → exec (.probe i p) s = .next s ∧ exec (.probeAnswer i p) s = .next s)) ∧
    (∀ (i : Fin 81) (p : Packet), p.dst ≠ 0xFFFF → exec (.probe i p) s = .next s ∧ exec (.probeAnswer i p) s = .next s) ∧
    (∀ (i : Fin 81) (p : Packet),
      let up := s.dev.fab.ports[i].state = .up
      let comes := up ∨ (timed i ∧ p.isProbe = true)
      let x := p.atNode s.dev.node
      let fd := portDie i
      let unsent := fun (t : Dev) => t.out.released = s.dev.out.released ∧ t.out.sent = s.dev.out.sent
      (p.dst = 0xFFFF → comes → ∃ t, exec (.packetArrive i p) s = .next { s with dev := t } ∧ kept t ∧
        t.out.released = s.dev.out.released ++ (if p.good then [p] else []) ∧
        t.fab.inbox = s.dev.fab.inbox.erase (i, p)) ∧
      (p.dst ≠ 0xFFFF → up → ∃ t, exec (.packetArrive i p) s = .next { s with dev := t } ∧ kept t ∧
        t.fab.inbox = s.dev.fab.inbox.erase (i, p) ∧
        (if x.phase2 = true ∧ x.dst.toNat = s.dev.node then
          unsent t ∧ t.fab.toDeliver = s.dev.fab.toDeliver ++ [(fd, x)]
         else t.fab.toDeliver = s.dev.fab.toDeliver ∧
          if x.hops = 15 ∨ s.dev.choosePort fd x = none then unsent t
          else t.out.released = s.dev.out.released ∧
            ∃ o, s.dev.choosePort fd x = some o ∧ leaves t o { x with hops := x.hops + 1 })) ∧
      (p.dst = 0xFFFF → ¬ comes → exec (.packetArrive i p) s = .next s) ∧
      (p.dst ≠ 0xFFFF → ¬ up → exec (.packetArrive i p) s = .next s))

/-- PACKET_DELIVER takes a packet for this node that no earlier one of its traffic class and its two fabric dies is in front
of, and another not. It releases nothing where the packet is not whole or its key is not accepted; with the expected
number it is released, unless its stream is being cut or the agent has no use for it, before every held packet that
follows it, and the expected number advances past it; with an earlier number, or one that is held already, it is a
duplicate and releases nothing; with a later one and room it is held. REORDER_TIMEOUT of a sequence that holds packets,
at the waiting time after the oldest arrival, releases the packet of the lowest held number first, or discards it where
it is a stream packet. Memories, cores and the job are unchanged. (15 Fabric; the order of packets of one traffic class
is read as log entry 80 says, and which streams a gap cuts as log entry 45 says) -/
def Obligations.DeliveryInOrder : Prop :=
  ∀ s : State, s.dev.clocked = true →
    let kept := fun (t : Dev) => t.mem = s.dev.mem ∧ t.cores = s.dev.cores ∧ t.job = s.dev.job
    (∀ p : Packet, p.dst.toNat = s.dev.node →
      let r := s.dev.rxOf p
      let a := orderAfter r.next p.order.toNat
      (s.dev.inDie p = none → exec (.packetDeliver p) s = .next s) ∧
      ∀ fd, s.dev.inDie p = some fd →
      ∃ t, exec (.packetDeliver p) s = .next { s with dev := t } ∧ kept t ∧
        t.fab.toDeliver = s.dev.fab.toDeliver.erase (fd, p) ∧
        (p.good = false ∨ s.dev.accepts p.key = false → t.out = s.dev.out ∧ t.fab.rxOrders = s.dev.fab.rxOrders) ∧
        (p.good = true → s.dev.accepts p.key = true →
          (a = 0 → ∃ l, t.out.released = s.dev.out.released ++
              (if (r.cutting = true ∧ p.isStream = true) ∨ p.useless = true then [] else [p]) ++ l ∧
            (∀ x ∈ l, ∃ h ∈ r.held, h.1 = x) ∧
            (r.held = [] → l = [] ∧ (t.rxOf p).next = (r.next + 1) % 2 ^ 24)) ∧
          (2 ^ 23 ≤ a ∨ (a ≠ 0 ∧ ∃ h ∈ r.held, h.1.order = p.order) →
            t.out = s.dev.out ∧ t.fab.rxOrders = s.dev.fab.rxOrders) ∧
          (a ≠ 0 → a < 2 ^ 23 → (∀ h ∈ r.held, h.1.order ≠ p.order) →
            s.dev.held (s.dev.homeDie p.src.toNat) + p.bytes ≤ 4194304 →
            t.out = s.dev.out ∧ t.rxOf p = { r with held := r.held ++ [(p, s.clk.count)] }))) ∧
    (∀ p : Packet, p.dst.toNat ≠ s.dev.node → exec (.packetDeliver p) s = .next s) ∧
    (∀ (tag : BitVec 24) (epoch src : BitVec 16) (chan : BitVec 2),
      match s.dev.fab.rxOrders.find? fun r => r.same ⟨tag.toNat, epoch.toNat⟩ src.toNat chan.toNat with
      | none => exec (.reorderTimeout tag epoch src chan) s = .next s
      | some r =>
        (r.held = [] → exec (.reorderTimeout tag epoch src chan) s = .next s) ∧
        (∀ (u j : Nat) (p : Packet) (v : Nat), (r.held.map (·.2)).min? = some u →
          (r.held.map fun h => orderAfter r.next h.1.order.toNat).min? = some j → r.next < 2 ^ 24 →
          (r.held.find? fun h => orderAfter r.next h.1.order.toNat = j) = some (p, v) →
          ∃ t l, exec (.reorderTimeout tag epoch src chan) s = .next { s with
              clk := s.clk.toCount (u + s.dev.reorderWait (s.dev.homeDie r.node)), dev := t } ∧ kept t ∧
            t.out.released = s.dev.out.released ++
              (if p.isStream = true ∨ p.useless = true then [] else [p]) ++ l))

/-- A completed route command makes the named count the waiting commit. ROUTE_COMMIT, at the commit count (while a job
runs the first boundary from it on), makes the shadow tables and list live, counts the commit and takes QUARANTINE
ports of the admit masks to UP; without a waiting commit nothing changes. CONGESTION_WINDOW_END, at the next multiple
of 1,000 counts, clears every port's stall count and adds a running stall, at most 1,600, to the map.
SUMMARY_PERIOD_LATCH, at the next multiple of 1,000,000 counts while no job runs, stamps the maps of every fitted
fabric die, and does nothing while one runs. BRIDGE_FLIT_REPLAY counts a replay of the direction, in the running frame's
counts while a frame runs; when the sixteenth replay in succession fails, both directions of the bridge are marked
down. Memories and cores are unchanged. That successive replays are counted for each direction, that both directions
go down and that counts move beside a running frame are the model's choices (log entry 70), and so is the end of a
stall at its window's length (log entry 46). (15 Fabric, 01 Package and Dies) -/
def Obligations.RoutesAndPeriods : Prop :=
  ∀ s : State, s.dev.clocked = true →
    let kept := fun (t : Dev) => t.mem = s.dev.mem ∧ t.cores = s.dev.cores
    (∀ (m : Master) (same : Bool) (p : Page), s.PairReady m same 0x100 0x318 1 p →
      ∃ t, exec (.routeCommand m same) s = .next { s with clk := s.writeClock m same 0x100, dev := t } ∧ kept t ∧
        t.fab = { s.dev.fab with commitAt := some (s.dev.rd64 .fabRtAtLo .fabRtAtHi) }) ∧
    (∀ u, s.dev.fab.commitAt = some u →
      ∃ t, exec .routeCommit s = .next { s with clk := s.clk.toCount (s.dev.commitCount s.clk u), dev := t } ∧ kept t ∧
        t.fab.live = s.dev.fab.shadow ∧ t.fab.midLive = s.dev.fab.midShadow ∧ t.fab.midCount = s.dev.rd .fabMidCount ∧
        t.fab.commitAt = none ∧ t.fab.commits = (s.dev.fab.commits + 1) % 65536 ∧
        ∀ i : Fin 81, t.fab.ports[i].state =
          if i.val < 80 ∧ s.dev.fab.ports[i].state = .quarantine ∧
            bitAt (s.dev.rd .fabRtAdmit (i.val / 8)) (i.val % 8) = true then .up else s.dev.fab.ports[i].state) ∧
    (s.dev.fab.commitAt = none → exec .routeCommit s = .next s) ∧
    (let k := s.clk.toCount ((s.clk.count / 1000 + 1) * 1000)
     ∃ t, exec .congestionWindowEnd s = .next { s with clk := k, dev := t } ∧ kept t ∧
      ∀ i : Fin 81, t.fab.ports[i].stallFc = List.replicate 8 0 ∧ t.fab.ports[i].queues = s.dev.fab.ports[i].queues ∧
        ∀ v, v < 8 → i.val < 80 →
          let n := min 1600 (s.dev.fab.ports[i].stallFc.getD v 0 +
            match s.dev.fab.ports[i].stallFrom.getD v none with | some f => k.fc - f * 8 / 35 | none => 0)
          0 < n → t.running .fabMapStall (i.val / 8) (8 * (i.val % 8) + v) =
            min (s.dev.running .fabMapStall (i.val / 8) (8 * (i.val % 8) + v) + n) (2 ^ 32 - 1)) ∧
    (s.dev.job.phase ≠ .running →
      let k := s.clk.toCount ((s.clk.count / 1000000 + 1) * 1000000)
      ∃ t, exec .summaryPeriodLatch s = .next { s with clk := k, dev := t } ∧ kept t ∧
        ∀ fd, fd < s.dev.order.fabricDies → t.rd .fabMapStamp fd = k.count % 2 ^ (Fld.fabMapStamp).width) ∧
    (s.dev.job.phase = .running → exec .summaryPeriodLatch s = .next s) ∧
    (∀ (dir : Fin 38) (extra again : Bool),
      let run := if again then Sparse.get s.dev.ctl.replayRun 0 dir else 0
      ∃ t, exec (.bridgeFlitReplay dir extra again) s = .next { s with dev := t } ∧ kept t ∧
        (run < 16 → Sparse.get t.ctl.replayRun 0 dir = run + 1 ∧ t.rd .hubBridgeDown 0 dir = s.dev.rd .hubBridgeDown 0 dir ∧
          t.running .hubBridgeReplays 0 dir =
            if s.dev.runs && s.dev.frame.opened && !s.dev.frame.closed
            then min (s.dev.running .hubBridgeReplays 0 dir + 1) (2 ^ (Fld.hubBridgeReplays).width - 1)
            else s.dev.running .hubBridgeReplays 0 dir) ∧
        (16 ≤ run → t.rd .hubBridgeDown 0 dir = 1 ∧
          (s.dev.rd .hubBridgeDown 0 dir ≠ 1 → ∀ i, i / 2 = dir.val / 2 → t.rd .hubBridgeDown 0 i = 1)))

/-- For a write that reaches its page (no other write of the page in the control cycle, not locked out) with no sequence
open there. REGISTER_WRITE of an aligned whole word to an unguarded register that the state lets be written, and whose
write does no more than store, gives RW fields the written bits, clears the W1C fields where a 1 is written, and
changes no other field, and a field that the device has updated in the control cycle keeps the update; a partial or unaligned write, or one to a register without writable bits or in a state that
forbids it, changes no field and is recorded as ignored. An alias write acts as such a write of the RW bits set,
cleared or inverted. GUARD_VALUE_WRITE opens the sequence of the register and changes no field; a sequence of another
master is broken with cause 3, one of another register with cause 5. GUARD_COMPLEMENT_WRITE of the open sequence's
value gives the WG fields of a register that only stores their bits; another value ends the sequence with cause 1, and
without a sequence the write is an error of cause 4, both without effect. GUARD_WINDOW_EXPIRE ends the master's open
sequence 257 control cycles after its value write with cause 2. Memories, cores and the job are unchanged; the page
records offset, master and result of its last write. (19 Control Space and Register Map) -/
def Obligations.ControlSpaceWrites : Prop :=
  ∀ (s : State) (m : Master) (same : Bool) (page : BitVec 12) (p : Page),
    let k := s.writeClock m same page.toNat
    let kept := fun (t : Dev) => t.mem = s.dev.mem ∧ t.cores = s.dev.cores ∧ t.job = s.dev.job
    let noted := fun (t : Dev) (off result : Nat) => t.rd .blkLwOffset p.idx = off ∧ t.rd .blkLwMaster p.idx = m.code ∧
      t.rd .blkLwResult p.idx = result
    let stores := fun (t : Dev) (acc : Access) (off v : Nat) => ∀ x ∈ p.fields off, p.holds x.1 = true →
      let old := s.dev.rd x.1 (p.instOf x.1) x.2
      let new := bitRange v x.1.row.hi x.1.row.lo
      t.rd x.1 (p.instOf x.1) x.2 =
        if x.1.row.access ≠ .wg ∧ regKey x.1 (p.instOf x.1) x.2 ∈ s.dev.updatesNow k then old
        else if x.1.row.access = acc then new
        else if x.1.row.access = .w1c then (old - (old &&& new)) % 2 ^ x.1.width else old
    let ignored := fun (t : Dev) (off : Nat) => ∀ x ∈ p.fields off,
      t.rd x.1 (p.instOf x.1) x.2 = s.dev.rd x.1 (p.instOf x.1) x.2
    let err := fun (t : Dev) (cause : Nat) => t.rd .blkGuardSeqErr p.idx = 1 ∧
      (s.dev.rd .blkGuardSeqErr p.idx = 0 → t.rd .blkGuardCause p.idx = cause)
    let done := fun (i : Instr) (t : Dev) => exec i s = .next { s with clk := k, dev := t }
    (∀ (offset : BitVec 28) (v : BitVec 32) (enables : BitVec 4), offset.toNat / 65536 = page.toNat →
      let off := offset.toNat % 65536
      let i := Instr.registerWrite m same offset v enables
      let fs := (p.fields off).filter fun x => p.holds x.1
      off < 0x1F00 → p.guarded off = false → s.WriteReaches m same page.toNat off p → s.dev.openGuard page.toNat = none →
      (off % 4 = 0 → enables = 15 → takesWrite false fs = true → s.dev.allowsWrite p.blk off v.toNat = true →
        s.dev.plainEffect k p off v.toNat = none → ∃ t, done i t ∧ stores t .rw off v.toNat ∧ noted t off 0 ∧ kept t) ∧
      (off % 4 ≠ 0 ∨ enables ≠ 15 ∨ takesWrite false fs = false ∨ s.dev.allowsWrite p.blk off v.toNat = false →
        ∃ t, done i t ∧ ignored t (off / 4 * 4) ∧ noted t off 1 ∧ kept t)) ∧
    (∀ (base : BitVec 14) (v : BitVec 32) (a : Nat) (i : Instr), (i, a) ∈ ([(.aliasSet m same page base v, 1),
        (.aliasClear m same page base v, 2), (.aliasToggle m same page base v, 3)] : List (Instr × Nat)) →
      base.toNat % 4 = 0 → base.toNat < 0x1F00 → s.WriteReaches m same page.toNat (a * 0x4000 + base.toNat) p →
      s.dev.openGuard page.toNat = none →
      let r := s.dev.rwBits k m page.toNat p base.toNat
      let w := (if a = 1 then r.1 ||| v.toNat else if a = 2 then r.1 - (r.1 &&& v.toNat) else r.1 ^^^ v.toNat) &&& r.2
      (r.2 ≠ 0 → s.dev.allowsWrite p.blk base.toNat w = true → s.dev.plainEffect k p base.toNat w = none →
        ∃ t, done i t ∧ stores t .rw base.toNat w ∧ noted t (a * 0x4000 + base.toNat) 0 ∧ kept t) ∧
      (r.2 = 0 → ∃ t, done i t ∧ ignored t base.toNat ∧ noted t (a * 0x4000 + base.toNat) 1 ∧ kept t)) ∧
    (∀ (reg : BitVec 13) (v : BitVec 32), reg.toNat % 4 = 0 → p.guarded reg.toNat = true →
      (s.WriteReaches m same page.toNat reg.toNat p → ∃ t, done (.guardValueWrite m same page reg v) t ∧
        t.openGuard page.toNat = some ⟨page.toNat, m, reg.toNat, v.toNat, k.cc⟩ ∧ ignored t reg.toNat ∧
        noted t reg.toNat 3 ∧ kept t ∧
        match s.dev.openGuard page.toNat with
        | none => t.rd .blkGuardSeqErr p.idx = s.dev.rd .blkGuardSeqErr p.idx
        | some g => k.cc ≤ g.cc + 256 → (g.master ≠ m → err t 3) ∧ (g.master = m → g.off ≠ reg.toNat → err t 5)) ∧
      (∀ n, s.PairReady m same page.toNat reg.toNat n p →
        (v.toNat = 2 ^ 32 - 1 - n → s.dev.allowsWrite p.blk reg.toNat n = true → s.dev.pairEffect k p reg.toNat n = none →
          ∃ t, done (.guardComplementWrite m same page reg v) t ∧ t.openGuard page.toNat = none ∧ stores t .wg reg.toNat n ∧
            noted t (reg.toNat + 0x2000) 0 ∧ kept t) ∧
        (v.toNat ≠ 2 ^ 32 - 1 - n → ∃ t, done (.guardComplementWrite m same page reg v) t ∧
          t.openGuard page.toNat = none ∧ ignored t reg.toNat ∧ noted t (reg.toNat + 0x2000) 1 ∧ err t 1 ∧ kept t)) ∧
      (s.WriteReaches m same page.toNat (reg.toNat + 0x2000) p → s.dev.openGuard page.toNat = none →
        ∃ t, done (.guardComplementWrite m same page reg v) t ∧ t.openGuard page.toNat = none ∧ ignored t reg.toNat ∧
          noted t (reg.toNat + 0x2000) 1 ∧ err t 4 ∧ kept t)) ∧
    (s.dev.clocked = true → s.dev.page page.toNat = some p →
      match s.dev.openGuard page.toNat with
      | none => exec (.guardWindowExpire page m) s = .next s
      | some g =>
        (g.master ≠ m → exec (.guardWindowExpire page m) s = .next s) ∧
        (g.master = m → ∃ t, exec (.guardWindowExpire page m) s = .next { s with clk := s.clk.toCc (g.cc + 257), dev := t } ∧
          t.openGuard page.toNat = none ∧ err t 2 ∧ kept t))

/-- MBX_SEL_WRITE that reaches its page latches the selector's value for the master and clears its VALID, leaving what its
data registers hold; MAILBOX_READY, 1 to 32 control cycles after the selector write, copies the latched value, with
ERR where the block does not provide the selector, and does nothing without a latched request. VOTE_SCRUB, at the next
multiple of 65,536 control cycles, rewrites the three copies of every field that has a majority to it and counts each
field that differed; a period without a majority is rewritten from the admitted form, recorded as unresolved, and
makes a job that can fault FAULTED with code 0x91. V3_FIELD_READ of a register that holds such fields, each with a
majority, takes one control cycle, makes their copies equal and returns the register; of another register it does
nothing. Memories and cores are unchanged. That a selector write leaves the data registers and the latency is held to 1
to 32 control cycles are the model's choices (log entry 19), and so is how the votes are taken (log entry 20). (19
Control Space and Register Map) -/
def Obligations.MailboxesAndVotes : Prop :=
  ∀ s : State,
    let kept := fun (t : Dev) => t.mem = s.dev.mem ∧ t.cores = s.dev.cores
    (∀ (m : Master) (same : Bool) (page : BitVec 12) (sel : BitVec 8) (p : Page),
      s.WriteReaches m same page.toNat 0x1F20 p → s.dev.openGuard page.toNat = none →
      let k := s.writeClock m same page.toNat
      let old := (s.dev.mailbox page.toNat m).getD ⟨page.toNat, m, 0, false, false, 0, 0, none, 0⟩
      ∃ t, exec (.mbxSelWrite m same page sel) s = .next { s with clk := k, dev := t } ∧ kept t ∧ t.job = s.dev.job ∧
        t.mailbox page.toNat m = some { old with
          sel := sel.toNat, valid := false, latched := some (sel.toNat, s.dev.selected k p sel.toNat), cc := k.cc }) ∧
    (∀ (page : BitVec 12) (m : Master) (cc : Nat), s.dev.clocked = true →
      match s.dev.mailbox page.toNat m with
      | none => exec (.mailboxReady page m cc) s = .next s
      | some b => match b.latched with
        | none => exec (.mailboxReady page m cc) s = .next s
        | some (sel, v) =>
          ∃ t, exec (.mailboxReady page m cc) s = .next { s with
              clk := s.clk.toCc (min 32 (max 1 (cc - b.cc)) + b.cc), dev := t } ∧ kept t ∧ t.job = s.dev.job ∧
            t.mailbox page.toNat m = some { b with
              valid := true, err := v.isNone, echo := sel, data := v.getD 0 % 2 ^ 256, latched := none }) ∧
    (s.dev.clocked = true →
      let k := s.clk.toCc ((s.clk.cc / 65536 + 1) * 65536)
      (∀ a b c, s.dev.ctl.period.vote = some a → s.dev.ctl.guardBand.vote = some b → s.dev.ctl.jobState.vote = some c →
        let n := (decide (s.dev.ctl.period ≠ V3.all a)).toNat + (decide (s.dev.ctl.guardBand ≠ V3.all b)).toNat +
          (decide (s.dev.ctl.jobState ≠ V3.all c)).toNat
        ∃ t, exec .voteScrub s = .next { s with clk := k, dev := t } ∧ kept t ∧ t.job = s.dev.job ∧
          t.ctl.period = V3.all a ∧ t.ctl.guardBand = V3.all b ∧ t.ctl.jobState = V3.all c ∧
          (0 < n → t.rd .hubVoteScrubbed = min (s.dev.rd .hubVoteScrubbed + n) 65535)) ∧
      (∀ b c, s.dev.ctl.period.vote = none → s.dev.ctl.guardBand.vote = some b → s.dev.ctl.jobState.vote = some c →
        s.dev.job.phase.faultable = true → s.dev.job.abort = false →
        ∃ t, exec .voteScrub s = .next { s with clk := k, dev := t } ∧ kept t ∧ t.job.phase = .faulted ∧
          t.rd .jobStateFault = 0x91 ∧ t.rd .hubVoteUnresolved = 1 ∧ t.rd .hubDevFaultCode = 0x91 ∧
          t.ctl.period = V3.all s.dev.period ∧ t.ctl.guardBand = V3.all b ∧
          t.ctl.jobState = V3.all (JobPhase.faulted).code)) ∧
    (∀ (page : BitVec 12) (reg : BitVec 13), s.dev.clocked = true →
      let held := fun (p : Page) (v : VoteField) => (p.fields (reg.toNat / 4 * 4)).any fun x => x.1 = v.fld
      match s.dev.openPage page.toNat .mgmt with
      | none => exec (.v3FieldRead page reg) s = .next s
      | some p =>
        (s.dev.voteFields.any (held p) = false → exec (.v3FieldRead page reg) s = .next s) ∧
        (s.dev.voteFields.any (held p) = true → (∀ v ∈ s.dev.voteFields, v.copies.vote ≠ none) →
          ∃ t, exec (.v3FieldRead page reg) s = .next { s with clk := s.clk.nextCc, dev := t } ∧ kept t ∧
            t.job = s.dev.job ∧
            t.out.reads = s.dev.out.reads ++ [t.readReg s.clk.nextCc .mgmt (page.toNat * 65536 + reg.toNat)] ∧
            ∀ v ∈ t.voteFields, held p v = true → v.copies = V3.all v.value))

/-- A completed pair of TWIN_CFG sets modes 0 to 2 while both jobs are IDLE or TORN (the twin's by its last timestamp
block), and takes a twin link in QUARANTINE to UP where the twin reports that mode; mode 3 changes no mode, and a write
of any mode while a job is neither sets TWIN_CFG_REJECT. A one-hop message on the twin link that is not whole changes
nothing of the twin's record. A message that arrives whole on the twin link of a device in mode 2: an arm record part
replaces that part of the twin's record. Under lock-step, where no TIER request and no work of the herd builder waits, a chunk hash
that comes alone confirms the own chunk with that hash, is kept where there is no such chunk yet, and removes no chunk
where it differs; a frame digest that comes alone is removed with its equal, kept where the own one is to come, and
where they differ halts the job; granule records that equal those of the own chunk change nothing of the record, others
halt it; a halt message is recorded, and halts an ARMED, running or draining job without a record of its own. Halting a
job without a record and without a pending ABORT (and, of a difference found here, with a stream number that Table
TWIN-4 can hold) makes it FAULTED with LOCKSTEP code 0x90, keeps the divergence record and records the cause. Memories
and cores are unchanged. Under lock-step an instruction of the array, the loader, the row engine or the vector unit that
may leave its queue stays there, and nothing of cores, memories and job changes, while its stream has 64 chunks that are
not confirmed, which is noted as a hold; with fewer it starts as its engine starts it, the writes being its stream's, and
a difference that its chunks show may fault the job with LOCKSTEP. The twin's job state by its last timestamp block is the model's choice (log entry 79), and so
are the parts of 62 bytes, the records of 24 bytes and mode 3 ignored (log entry 49). (17 Determinism and the Twin
Pair) -/
def Obligations.TwinModeAndLockstepMessages : Prop :=
  (∀ (s : State) (m : Master) (same : Bool) (v : BitVec 32) (p : Page), s.PairReady m same 0x210 0 v.toNat p →
    let mode := v.toNat % 4
    let free := (s.dev.job.phase = .idle ∨ s.dev.job.phase = .torn) ∧ (s.dev.twinJob = 0 ∨ s.dev.twinJob = 7)
    let q := s.dev.fab.ports[(80 : Fin 81)]
    ∃ t, exec (.twinCfgModeWrite m same v) s = .next { s with clk := s.writeClock m same 0x210, dev := t } ∧
      t.mem = s.dev.mem ∧ t.cores = s.dev.cores ∧ t.job = s.dev.job ∧
      (mode ≠ 3 → free → t.rd .twinCfgMode = mode ∧
        t.fab.ports[(80 : Fin 81)].state =
          if q.state = .quarantine ∧ s.dev.twin.peer.map (·.1) = some mode then .up else q.state) ∧
      (mode = 3 ∨ ¬ free → t.rd .twinCfgMode = s.dev.rd .twinCfgMode ∧ t.fab = s.dev.fab) ∧
      (¬ free → t.rd .twinCfgReject = 1)) ∧
  (∀ (s : State) (p : Packet), s.dev.clocked = true →
    let b := p.payload
    let tw := s.dev.twin
    let kept := fun (t : Dev) => t.mem = s.dev.mem ∧ t.cores = s.dev.cores
    let fresh := tw.record = 0 ∧ s.dev.job.abort = false
    (p.dst = 0xFFFF → s.dev.fab.ports[(80 : Fin 81)].state = .up → p.good = false →
      ∀ c ∈ [Instr.lockstepArmRecord p, .lockstepChunkHash p, .lockstepFrameDigests p, .lockstepGranuleRecords p,
        .lockstepHalt p], ∃ t, exec c s = .next { s with dev := t } ∧ kept t ∧ t.job = s.dev.job ∧ t.twin = tw) ∧
    let halted := fun (t : Dev) (cause : Nat) => t.job.phase = .faulted ∧ t.rd .jobStateFault = 0x90 ∧
      t.rd .twinLsFaultCode = 0x90 ∧ t.rd .twinLsFaultCause = cause ∧ t.twin.record ≠ 0
    (s.dev.lsMessage p 0x7F 1 = true → field b 1 1 < 3 →
      ∃ t, exec (.lockstepArmRecord p) s = .next { s with dev := t } ∧ kept t ∧ t.job = s.dev.job ∧
        ∀ i, i < 3 → slice t.twin.peerArm (62 * i) 62 =
          if i = field b 1 1 then slice b 2 62 else slice tw.peerArm (62 * i) 62) ∧
    (s.dev.lsMessage p 0x7E 0 = true → s.dev.lockstep = true →
      let c : LsChunk := ⟨field b 8 2, field b 0 8, field b 12 4, field b 16 8, []⟩
      s.dev.tier.queue = [] → (∀ o, s.dev.herd.opening = some o → o.todo ≠ []) →
      (s.dev.herd.opening = none → s.dev.herd.waits = false ∧ s.dev.herd.drains = false) →
      ∃ t, exec (.lockstepChunkHash p) s = .next { s with dev := t } ∧ kept t ∧ t.job = s.dev.job ∧
        (field b 10 1 = 1 → match tw.chunks.find? fun x => x.same c with
          | none => t.twin.early = tw.early ++ [c] ∧ t.twin.chunks = tw.chunks
          | some x => t.twin.early = tw.early ∧
            t.twin.chunks = if x.hash = c.hash then tw.chunks.filter fun y => !y.same x else tw.chunks)) ∧
    (s.dev.lsMessage p 0x7F 2 = true → s.dev.lockstep = true →
      ∃ t, exec (.lockstepFrameDigests p) s = .next { s with dev := t } ∧ kept t ∧
        (allZero (slice b 1 16) = false → allZero (slice b 17 16) = true → allZero (slice b 33 16) = true →
          match tw.mine.find? fun e => e.1 % 2 ^ 48 = field b 3 6 && e.2.1 = field b 1 2 with
          | none => t.twin.theirs = tw.theirs ++ [(field b 3 6, field b 1 2, field b 9 8)] ∧ t.job = s.dev.job
          | some e => t.twin.mine = tw.mine.erase e ∧
            (e.2.2 = field b 9 8 → t.twin.record = tw.record ∧ t.job = s.dev.job) ∧
            (e.2.2 ≠ field b 9 8 → fresh → field b 1 2 < 4096 → halted t 2))) ∧
    (s.dev.lsMessage p 0x7F 3 = true → s.dev.lockstep = true →
      match tw.chunks.find? fun x => x.same ⟨field b 1 2, field b 8 8, field b 4 4, 0, []⟩ with
      | none => ∃ t, exec (.lockstepGranuleRecords p) s = .next { s with dev := t } ∧ kept t ∧ t.twin = tw ∧
          t.job = s.dev.job
      | some x =>
        let own := fun (i : Nat) => x.grains.getD (field b 3 1 + i) ⟨0, 0⟩
        let his := fun (i : Nat) => (⟨field b (16 + 24 * i) 16, field b (32 + 24 * i) 8⟩ : Granule)
        ∃ t, exec (.lockstepGranuleRecords p) s = .next { s with dev := t } ∧ kept t ∧
          (own 0 = his 0 → own 1 = his 1 → t.twin = tw ∧ t.job = s.dev.job) ∧
          (own 0 ≠ his 0 ∨ own 1 ≠ his 1 → fresh → field b 1 2 < 4096 → halted t 1)) ∧
    (s.dev.lsMessage p 0x7F 4 = true → s.dev.lsJob = true →
      let r := field b 1 32
      ∃ t, exec (.lockstepHalt p) s = .next { s with dev := t } ∧ kept t ∧ t.twin.peerRecord = r ∧
        (s.dev.job.phase.faultable = true → fresh → halted t (bitRange r 79 76) ∧
          t.twin.record = if bitAt r 81 then r else r + 2 ^ 81) ∧
        (s.dev.job.phase.faultable = false ∨ tw.record ≠ 0 → t.twin.record = tw.record ∧ t.job = s.dev.job))) ∧
  (∀ (s : State) (c : Fin 48) (g : Eng) (e : Entry), s.dev.clocked = true → s.dev.working = true →
    s.dev.lockstep = true → s.dev.cores[c].next g = some e → e.on = true → s.dev.cores[c].depsMet e = true →
    g.streams = true →
    let stream := engineId (some g) c
    let after := fun (t : Dev) => exec (.queueHeadRelease c g) s = .next { s with dev := t }
    (64 ≤ s.dev.unconfirmed stream → ∃ t, after t ∧ t.cores = s.dev.cores ∧ t.mem = s.dev.mem ∧ t.job = s.dev.job ∧
      t.regs = s.dev.regs ∧ ∃ u, (stream, u) ∈ t.twin.holds) ∧
    (s.dev.unconfirmed stream < 64 → ∀ (d : Dev) (due : Nat) (done : Bool),
      s.dev.startHashed s.clk c g e = .go d due done → ∃ t, after t ∧
        t.cores[c].entries = d.cores[c].entries.map (fun i =>
          if i.seq = e.seq then { i with stage := .running, due := due, done := i.done || done } else i) ∧
        t.cores[c].scal = d.cores[c].scal ∧ t.cores[c].sets = d.cores[c].sets ∧ t.cores[c].cells = d.cores[c].cells ∧
        (∀ i, i ≠ c → t.cores[i] = d.cores[i]) ∧ t.mem = d.mem ∧
        (t.job = d.job ∨ (t.job.phase = .faulted ∧ t.rd .jobStateFault = 0x90))))

/-- RESET_ASSERT and PWRGOOD_FALL take the device to OFF from any state; REFCLK_START makes the reference clock run and
changes nothing else. RESET_RELEASE with reset held and the reference clock running starts in SUPPLY with time at
zero, no job, empty cores, and tile stores, die buffers and statistics stores at zero; device HBM keeps its bytes but
for a lent range, which reads as zero; the start is warm exactly if it may be and is asked for. START_STEP_END of a
step that the state expects, at its time: step 1 leads to IDENTITY or FAILED (cause 1); step 2 to BASE_AUTH, FAILED
(2), or after a warm start whose record fails FAILED (8); step 3 to POLICY with the first slot that meets the
conditions or FAILED (3); step 4 to FAILED, UNOWNED or BRINGUP as the owner policy decides; step 5 fails with cause 7;
steps 5 to 7 together lead from BRINGUP to JOINING, and step 6 zeroes device HBM unless it is kept; steps 8, with a
LOCKED counter, and 9, with a fixed session, together lead to READY where the counter is LOCKED then; where it is not,
step 8 is to be done again, which is the model's choice (log entry 59). A step that is not expected changes nothing. (20
Start Firmware and Security) -/
def Obligations.ResetAndStart : Prop :=
  (∀ s : State, ∃ t, exec .resetAssert s = .next { s with dev := t } ∧ t.start.state = .off ∧ t.start.resetHeld = true ∧
    t.mem = s.dev.mem) ∧
  (∀ s : State, ∃ t, exec .pwrgoodFall s = .next { s with dev := t } ∧ t.start.state = .off ∧
    t.start.powerGood = false ∧ t.start.supplyHeld = false ∧ t.mem = s.dev.mem) ∧
  (∀ s : State, exec .refclkStart s = .next { s with dev := { s.dev with start := { s.dev.start with refclk := true } } }) ∧
  (∀ (s : State) (held : BitVec 48),
    let d := s.dev
    let warm := d.mayWarm && d.asksWarm
    let inLent := fun (a : Nat) => d.tier.lend ≠ .off ∧ d.rd .tierLendBase * 2 ^ 21 ≤ a ∧
      a < d.rd .tierLendBase * 2 ^ 21 + d.rd .tierLendPages * 2 ^ 21
    (d.start.resetHeld = true → d.start.refclk = true →
      let k := d.clockAfter held.toNat s.clk
      k.units = 0 ∧ k.phase = 0 ∧ k.count = d.countAfter held.toNat s.clk.count ∧
      ∃ t, exec (.resetRelease held) s = .next { s with clk := k, dev := t } ∧
        t.start.state = .supply ∧ t.start.resetHeld = false ∧ t.start.kind = (if warm then 2 else 1) ∧
        t.start.done = [] ∧ t.order = d.order ∧ t.job = Job.idle ∧ t.image = none ∧
        (∀ c : Fin 48, t.cores[c] = Core.empty ∧ ∀ a, t.mem.tile[c].read a = 0 ∧ t.mem.stat[c].read a = 0) ∧
        (∀ (x : Fin 12) (a : Nat), t.mem.die[x].read a = 0) ∧
        (∀ a, (inLent a → t.mem.hbm.read a = 0) ∧ (¬ inLent a → t.mem.hbm.read a = d.mem.hbm.read a))) ∧
    (d.start.resetHeld = false ∨ d.start.refclk = false → exec (.resetRelease held) s = .next s)) ∧
  (∀ (s : State) (step : Fin 10) (ok : Bool) (ms : Nat), s.dev.clocked = true →
    let d := s.dev
    let ends := fun (f : Dev → Prop) => ∃ t, exec (.startStepEnd step ok ms) s = .next { s with
      clk := s.clk.toUnit (ms * 7000000), dev := t } ∧ f t
    let enters := fun (st : StartState) => ends fun t => t.start.state = st ∧ t.start.done = d.start.done ++ [step.val] ∧
      t.mem = d.mem
    let fails := fun (cause : Nat) => ends fun t => t.start.state = .failed ∧ t.start.failCause = cause ∧ t.mem.hbm = d.mem.hbm
    let others := fun (l : List Nat) => l.all fun n => n = step.val || d.start.done.contains n
    let risen := if d.start.state = .bringup ∧ others [5, 6, 7] = true then StartState.joining else d.start.state
    (d.start.expects step = false → exec (.startStepEnd step ok ms) s = .next s) ∧
    (d.start.expects step = true →
      (step = 1 → if ok = true ∧ d.start.powerGood = true ∧ d.start.rails = BitVec.allOnes 5 then enters .identity else fails 1) ∧
      (step = 2 → if ok = true ∧ d.deriveKeys.identityOk = true then enters .baseAuth
        else fails (if ok = false ∧ d.start.kind = 2 then 8 else 2)) ∧
      (step = 3 → if d.fwSlotOk 0 = true ∨ d.fwSlotOk 1 = true then
          ends fun t => t.start.state = .policy ∧ t.start.fwSlot = (if d.fwSlotOk 0 then 0 else 1) ∧
            t.start.done = d.start.done ++ [step.val] ∧ t.mem = d.mem
        else fails 3) ∧
      (step = 4 → match d.policyStep.2 with
        | .failed c => fails c
        | .unowned => ends fun t => t.start.state = .unowned ∧ t.sec.policy = d.sec.policy ∧ t.mem.hbm = d.mem.hbm
        | .owned o => ends fun t => t.start.state = .bringup ∧ t.sec.policy = some o ∧ t.mem.hbm = d.mem.hbm) ∧
      (step = 5 → if ok = true then enters risen else fails 7) ∧
      (step = 6 → ends fun t => t.start.state = risen ∧ t.start.done = d.start.done ++ [step.val] ∧
        ∀ a, t.mem.hbm.read a = if d.start.keptMem then d.mem.hbm.read a else 0) ∧
      (step = 7 → if ok = true then enters risen else exec (.startStepEnd step ok ms) s = .next s) ∧
      (step = 8 → if d.syncState = .locked then enters (if others [8, 9] then .ready else d.start.state)
        else exec (.startStepEnd step ok ms) s = .next s) ∧
      (step = 9 → if d.sec.fixed = true then
          (if d.syncState = .locked then enters (if others [8, 9] then .ready else d.start.state)
           else ends fun t => t.start.state = d.start.state ∧ t.mem = d.mem ∧
             t.start.done = (d.start.done ++ [step.val]).filter fun n => n ≠ 8)
        else exec (.startStepEnd step ok ms) s = .next s)))

/-- RAIL_SAMPLE in a device that a trip has not stopped keeps the rails in range, makes the next start cold after a sample
out of range and counts consecutive low samples of each rail; ten of them take the device to OFF. TEMP_SAMPLE, at the
next multiple of 10 µs, keeps the readings and the power; a compute die with a reading of 105 °C or more enters
reduction, and a sensor of a fitted unit with two successive readings of 115 °C or more trips the device, which drops
every port. REDUCTION_EXIT, 1 ms after all sensors of a die in reduction came to read at most 100 °C,
takes the die out of reduction, and does nothing before there is such a time. A completed pair of PWR_CAP takes 1,000
to 2,800 and one of PWR_TJ 70 to 100; other values are ignored and recorded as rejected. Memories and cores are
unchanged. That a trip drops a DISABLED port too is the model's choice (log entry 58). (22 Electrical and Package) -/
def Obligations.SamplesAndLimits : Prop :=
  ∀ s : State,
    let d := s.dev
    let kept := fun (t : Dev) => t.mem = d.mem ∧ t.cores = d.cores
    (∀ inRange low : BitVec 5,
      let lows := (List.range 5).map fun i => if low.getLsbD i then d.pwr.lows.getD i 0 + 1 else 0
      (d.pwr.tripped = true → exec (.railSample inRange low) s = .next s) ∧
      (d.pwr.tripped = false → ∃ k t, exec (.railSample inRange low) s = .next { s with clk := k, dev := t } ∧ kept t ∧
        (d.clocked = true → k = s.clk.toUnit ((s.clk.units / 7000 + 1) * 7000)) ∧ (d.clocked = false → k = s.clk) ∧
        t.start.rails = inRange ∧ t.pwr.lows = lows ∧
        (inRange ≠ BitVec.allOnes 5 → t.start.supplyHeld = false ∧ (d.clocked = true → t.rd .pwrEvRail = 1)) ∧
        t.start.state = if lows.any (10 ≤ ·) then .off else d.start.state)) ∧
    (∀ (temps : List (BitVec 12)) (power : BitVec 12), d.clocked = true →
      let new := fun (i : Nat) => ((temps[i]?).map BitVec.toInt).getD 0
      let trips := ∃ u ∈ d.units, ∃ j < (sensorsOf u).2,
        let i := (sensorsOf u).1 + j
        460 ≤ d.pwr.read i ∧ i < d.pwr.temps.length ∧ 460 ≤ new i
      ∃ t, exec (.tempSample temps power) s = .next { s with
          clk := s.clk.toUnit ((s.clk.units / 70000 + 1) * 70000), dev := t } ∧ kept t ∧ t.job = d.job ∧
        t.pwr.temps = temps ∧ t.pwr.watts = power.toNat ∧
        (∀ x < 12, (∃ r ∈ t.pwr.reduced, r.1 = x) ↔ (∃ r ∈ d.pwr.reduced, r.1 = x) ∨ ∃ j < 8, 420 ≤ new (8 * x + j)) ∧
        (trips → t.pwr.tripped = true ∧ ∀ i : Fin 81, t.fab.ports[i].state = .down) ∧
        (¬ trips → t.pwr.tripped = false ∧ t.fab = d.fab)) ∧
    (∀ die : Fin 12, d.clocked = true →
      match d.pwr.reduced.find? fun r => r.1 = die.val with
      | some (_, some u) => ∃ t, exec (.reductionExit die) s = .next { s with clk := s.clk.toUnit (u + 7000000), dev := t } ∧
          kept t ∧ t.pwr.reduced = d.pwr.reduced.filter fun r => r.1 ≠ die.val
      | _ => exec (.reductionExit die) s = .next s) ∧
    (∀ (m : Master) (same : Bool) (v : BitVec 32) (p : Page),
      (s.PairReady m same 0x250 0 v.toNat p →
        let x := v.toNat % 4096
        ∃ t, exec (.pwrCapWrite m same v) s = .next { s with clk := s.writeClock m same 0x250, dev := t } ∧ kept t ∧
          if 1000 ≤ x ∧ x ≤ 2800 then t.rd .pwrCapW = x else t.rd .pwrCapW = d.rd .pwrCapW ∧ t.rd .pwrEvCapReject = 1) ∧
      (s.PairReady m same 0x250 4 v.toNat p →
        let x := v.toNat % 256
        ∃ t, exec (.pwrTjWrite m same v) s = .next { s with clk := s.writeClock m same 0x250, dev := t } ∧ kept t ∧
          if 70 ≤ x ∧ x ≤ 100 then t.rd .pwrTjTarget = x
          else t.rd .pwrTjTarget = d.rd .pwrTjTarget ∧ t.rd .pwrEvCapReject = 1))

/-- While its supplies and the reference clock are there, an SMBus transaction with a good PEC is answered: status,
hottest junction, package power, the event bits (which the read clears), and inventory with serial and security
version; an alert response answers with the address while an event bit is set; the start word is taken while reset is
held and otherwise sets event bit 7; a code that is not listed gets a NACK, recorded as
an empty answer. Without supplies or with a bad
PEC nothing changes. Each TAP instruction puts its code into the instruction register. BYPASS, by 0xFF and every code
that is not listed, puts one 0 bit between TDI and TDO; IDCODE shifts out 0x1002A9CB, its lowest bit first;
SAMPLE_PRELOAD shifts out fifteen lands and loads the boundary register; EXTEST does so while it drives the lands, and
CLAMP and HIGHZ hold and float them, while reset is held, and these three act as BYPASS otherwise; TEST_LOGIC_RESET
selects IDCODE. Memories, cores and the job are unchanged. The places of the lands in the boundary register and the
bypass bit under CLAMP and HIGHZ are the model's choices (log entry 69), and so are the byte of the alert response (log
entry 68), and SMB_STATUS as the carrier of the codes that are not listed and the empty answer for a NACK (log entry 92).
(21 Host and Board Interfaces) -/
def Obligations.BoardQueriesAndTestPort : Prop :=
  ∀ s : State,
    let d := s.dev
    let told := fun (bs : List Byte) => ({ d with out := { d.out with smb := d.out.smb ++ [bs] } } : Dev)
    let on := d.smbOn = true
    (∀ (i : Instr) (bs : List Byte), (i, bs) ∈ ([
        (.smbStatus ⟨0x02, true⟩, [BitVec.ofNat 8 d.start.state.code, BitVec.ofNat 8 d.start.failCause,
          BitVec.ofNat 8 d.job.phase.code, BitVec.ofNat 8 (d.rd .jobStateFault), if d.bridgeDown then 1 else 0, 0, 0, 0]),
        (.smbTemperature true, leBytes 2 (untwos 16 d.junction)), (.smbPower true, leBytes 2 d.pwr.watts),
        (.smbInventory true, leBytes 4 (d.order.code + d.order.hbmStacks * 2 ^ 8 + d.order.fabricDies * 2 ^ 16) ++
          d.serial ++ leBytes 4 d.sec.fwSvn)] : List (Instr × List Byte)) →
      on → exec i s = .next { s with dev := told bs }) ∧
    (on → exec (.smbEvents true) s = .next { s with
      dev := { told (leBytes 4 d.host.events.toNat) with host := { d.host with events := 0 } } }) ∧
    (on → exec (.smbAlertResponse true) s = .next (if d.host.events ≠ 0
      then { s with dev := told (leBytes 1 (2 * smbAddress)) } else s)) ∧
    (∀ w : BitVec 32, on → exec (.smbStartWord w true) s = .next { s with
      dev := if d.start.resetHeld then { d with start := { d.start with word := some w } }
        else { d with host := { d.host with events := d.host.events ||| 0x80 } } }) ∧
    (∀ code : BitVec 8, on → exec (.smbStatus ⟨code, true⟩) s = .next (
      if 0x01 ≤ code.toNat ∧ code.toNat ≤ 0x06 then (if code = 0x02 then
        { s with dev := told [BitVec.ofNat 8 d.start.state.code, BitVec.ofNat 8 d.start.failCause,
          BitVec.ofNat 8 d.job.phase.code, BitVec.ofNat 8 (d.rd .jobStateFault), if d.bridgeDown then 1 else 0, 0, 0, 0] }
        else s) else { s with dev := told [] })) ∧
    (∀ (code : BitVec 8) (w : BitVec 32) (pec : Bool), d.smbOn = false ∨ pec = false →
      ∀ i ∈ [Instr.smbStatus ⟨code, pec⟩, .smbTemperature pec, .smbPower pec, .smbInventory pec, .smbEvents pec,
        .smbAlertResponse pec, .smbStartWord w pec], exec i s = .next s) ∧
    (let tap := fun (ir : BitVec 8) (x : Tap) (driven high : Bool) (bits : List (List Bool)) =>
      ({ d with host := { d.host with ir := ir, tap := x, pinsDriven := driven, pinsHigh := high }
                out := { d.out with tdo := d.out.tdo ++ bits } } : Dev)
     let bypassed := fun (ir : BitVec 8) => Host.Outcome.next { s with dev := tap ir .bypass false false [[false]] }
     let scans := fun (i : Instr) (ir : BitVec 8) (x : Tap) (driven : Bool) (load : BitVec 15) =>
      ∃ bits n, exec i s = .next { s with dev := { tap ir x driven false [bits] with
          host := { d.host with ir := ir, tap := x, pinsDriven := driven, pinsHigh := false, boundary := load }
          free := n } } ∧ bits.length = 15 ∧ bits[2]? = some (!d.smbAlert) ∧
        bits[11]? = some (!d.start.resetHeld) ∧ bits[12]? = some (!d.host.perst) ∧
        bits[13]? = some d.start.powerGood ∧ bits[14]? = some (!d.thermAlert)
     (∀ code : BitVec 8, exec (.bypass code) s = if 0x05 ≤ code.toNat then bypassed code else .next s) ∧
     exec .idcode s = .next { s with
      dev := tap 0x01 .idcode false false [(List.range 32).map (0x1002A9CB#32).getLsbD] } ∧
     exec .testLogicReset s = .next { s with dev := tap 0x01 .idcode false false [] } ∧
     (∀ load : BitVec 15, scans (.samplePreload load) 0x02 .samplePreload false load) ∧
     (d.start.resetHeld = true → (∀ load : BitVec 15, scans (.extest load) 0x00 .extest true load) ∧
      exec .clamp s = .next { s with dev := tap 0x03 .clamp true false [[false]] } ∧
      exec .highz s = .next { s with dev := tap 0x04 .highz false true [[false]] }) ∧
     (d.start.resetHeld = false → (∀ load : BitVec 15, exec (.extest load) s = bypassed 0x00) ∧
      exec .clamp s = bypassed 0x03 ∧ exec .highz s = bypassed 0x04))

/-- ENDPOINT_RESET clears configuration, bus mastering and the MSI-X table, and takes the link down but for a Function Level
Reset; a job whose moves need host memory faults with code 0x30, cause 4, as it does where a write leaves Bus Master
Enable clear; PERST_DEASSERT starts the wait of 100 ms in a device that has passed SUPPLY. CONFIG_REQUEST gets Request Retry Status
before the end of that wait, and then reads (the vendor and device, class and subsystem codes of the manual) or writes
a register, bit 2 of the command register being Bus Master Enable. HBM_WINDOW_ACCESS then reads or writes the bytes of
device HBM at the window's base plus the offset and no other byte, and outside memory reads zero or writes nothing.
MSIX_UNMASK reads a dword of the MSI-X table or of the pending bits, or writes one of the table; a pending message
whose vector a write leaves open leaves, or is dropped where Bus Master Enable is clear. COMPLETION_TIMEOUT, but for
poisoned data, records the address; it makes a restore fail, and otherwise gives up the object's move and a Cellar copy
that reads it, and faults the job with code 0x30, cause 4; a read that is still outstanding when its move and its images
are over is recorded and counted only. Where nothing waits for it, or the endpoint is off, nothing
changes. The places of the configuration registers are the model's choice (log entry 67), and so is MSIX_UNMASK as
the command of every access to the MSI-X table and the pending bits (log entry 92). (21 Host and Board Interfaces) -/
def Obligations.HostEndpoint : Prop :=
  ∀ s : State,
    let d := s.dev
    let kept := fun (t : Dev) => t.mem = d.mem ∧ t.cores = d.cores
    let needsHost := d.tier.objs.any fun o => match o.move with
      | some m => d.usesHost o.home || d.usesHost m.home
      | none => false
    let lost := fun (t : Dev) => (needsHost = false → t.job = d.job) ∧
      (needsHost = true → d.job.phase.faultable = true → d.job.abort = false → t.job.phase = .faulted ∧
        t.rd .jobStateFault = 0x30 ∧ t.rd .gmemFaultCause = 4)
    (∀ kind : EndReset, ∃ t, exec (.endpointReset kind) s = .next { s with dev := t } ∧ kept t ∧ lost t ∧
      t.host.cfg = [] ∧ t.host.barBits = 36 ∧ t.host.bme = false ∧ t.host.readLog = 2 ∧
      t.host.msix = [] ∧ t.host.msixEnable = false ∧ t.host.msixMask = false ∧
      (needsHost = false → t.host.pendingVec = []) ∧
      t.host.linkUp = (if kind = .functionLevel then d.host.linkUp else false) ∧
      t.host.perst = (if kind = .perst then true else d.host.perst)) ∧
    (∃ t, exec .perstDeassert s = .next { s with dev := t } ∧ kept t ∧ t.job = d.job ∧ t.host.perst = false ∧
      t.host.cfgFrom = if d.start.state = .off ∨ d.start.state = .supply ∨ d.start.done.contains 1 = false
        then d.host.cfgFrom else some (s.clk.units + 700000000)) ∧
    (d.clocked = true →
      let ready := ∃ u, d.host.cfgFrom = some u ∧ u ≤ s.clk.units
      (∀ (write : Bool) (reg : BitVec 12) (v : BitVec 32),
        let r := reg.toNat / 4
        (d.endpointOn = false → exec (.configRequest write reg v) s = .next s) ∧
        (d.endpointOn = true → ∃ t, exec (.configRequest write reg v) s = .next { s with dev := t } ∧ kept t ∧
          t.host.linkUp = true ∧
          (if ready ∧ write = true ∧ t.host.bme = false then lost t else t.job = d.job) ∧
          (¬ ready → t.out.config = d.out.config ++ [none] ∧ t.host.cfg = d.host.cfg ∧ t.host.bme = d.host.bme) ∧
          (ready → write = true → t.out.config = d.out.config ++ [some 0] ∧ Sparse.get t.host.cfg 0 r = v.toNat ∧
            (t.host.bme = if r = 1 then bitAt v.toNat 2 else d.host.bme) ∧
            (t.host.msixEnable = if r = Config.capMsix then bitAt v.toNat 31 else d.host.msixEnable) ∧
            t.host.msixMask = if r = Config.capMsix then bitAt v.toNat 30 else d.host.msixMask) ∧
          (ready → write = false → t.host.cfg = d.host.cfg ∧ t.host.bme = d.host.bme ∧
            ∃ n, t.out.config = d.out.config ++ [some n] ∧ (r = 0 → n = 0x4E2A1F4C) ∧ (r = 2 → n / 2 ^ 8 = 0x120000) ∧
              (r = 11 → n = 0x1F4C + d.order.code * 2 ^ 16)))) ∧
      (∀ (write : Bool) (offset : BitVec 44) (len : BitVec 13) (bytes : List Byte),
        let i := Instr.hbmWindowAccess write offset len bytes
        let n := if write then bytes.length else len.toNat
        let a := d.windowOffset offset.toNat
        let reaches := d.endpointOn = true ∧ ready ∧ offset.toNat < 2 ^ d.host.barBits
        (¬ reaches → exec i s = .next s) ∧
        (reaches → ∃ t, exec i s = .next { s with dev := t } ∧ t.cores = d.cores ∧ t.job.phase = d.job.phase ∧
          (write = false → t.mem = d.mem ∧ t.out.reads = d.out.reads ++
            [if (d.hbmRuns a n).isSome then leNat (d.hbmRead a n) else 0]) ∧
          (write = true → t.out.reads = d.out.reads ∧ (d.hbmRuns a n = none → t.mem = d.mem) ∧
            ((d.hbmRuns a n).isSome = true → a < 2 ^ 43 → t.hbmRead a n = bytes ∧
              ∀ q, q < a ∨ a + n ≤ q → t.mem.hbm.read q = d.mem.hbm.read q)))) ∧
      (∀ (v : BitVec 11) (w : BitVec 2) (x : BitVec 32),
        let n := 4 * v.toNat + w.toNat
        ∃ t, exec (.msixUnmask ⟨.table v w, some x⟩) s = .next { s with dev := t } ∧ kept t ∧ t.job = d.job ∧
          (∀ i, t.host.msixWord i = if i = n then x.toNat else d.host.msixWord i) ∧
          t.host.pendingVec = d.host.pendingVec.filter (fun u => !t.host.vectorOpen u) ∧
          t.out.msi = d.out.msi ++ if d.host.bme then d.host.pendingVec.filter t.host.vectorOpen else []) ∧
      (∀ (v : BitVec 11) (w : BitVec 2), exec (.msixUnmask ⟨.table v w, none⟩) s = .next { s with
        dev := { d with out := { d.out with reads := d.out.reads ++ [d.host.msixWord (4 * v.toNat + w.toNat)] } } }) ∧
      (∀ w : BitVec 6, ∃ n, exec (.msixUnmask ⟨.pending w, none⟩) s = .next { s with
          dev := { d with out := { d.out with reads := d.out.reads ++ [n] } } } ∧
        ∀ j, n.testBit j = decide (j < 32 ∧ 32 * w.toNat + j ∈ d.host.pendingVec)) ∧
      (∀ (w : BitVec 6) (x : BitVec 32), ∃ t, exec (.msixUnmask ⟨.pending w, some x⟩) s = .next { s with dev := t } ∧
        kept t ∧ t.job = d.job ∧ t.host.msix = d.host.msix) ∧
      (∀ (how : ReadEnd) (addr : BitVec 64),
        let noted := fun (t : Dev) => t.host.failedRead = if how = .poisoned then d.host.failedRead else addr.toNat
        (if d.snap.restoring = true then ∃ t, exec (.completionTimeout how addr none) s = .next { s with dev := t } ∧
            kept t ∧ t.job = d.job ∧ noted t ∧ t.snap.readFailed = true
         else exec (.completionTimeout how addr none) s = .next s) ∧
        (∀ o : BitVec 20,
          let late := d.host.reads.any fun x => x.2.1 = o.toNat && readCovers addr.toNat x
          let counted := if late then ∃ t, exec (.completionTimeout how addr (some o)) s = .next { s with dev := t } ∧
              kept t ∧ noted t ∧ t.job = d.job ∧ t.tier = d.tier ∧ t.snap = d.snap ∧
              (if how = .timeout then t.running .hostifCplTimeout = min (d.running .hostifCplTimeout + 1) 65535
                else t.running .hostifCplError = min (d.running .hostifCplError + 1) 65535)
            else exec (.completionTimeout how addr (some o)) s = .next s
          match d.tier.objs[o.toNat]? with
          | none => counted
          | some x =>
            let images := d.imageReads? o.toNat x
            (x.move = none → images = [] → counted) ∧
            (x.move ≠ none ∨ images ≠ [] → ∃ t, exec (.completionTimeout how addr (some o)) s = .next { s with dev := t } ∧
              kept t ∧ noted t ∧ (how = .poisoned → t.job = d.job ∧ t.tier = d.tier ∧ t.snap = d.snap) ∧
              (how ≠ .poisoned → (t.tier.objs[o.toNat]?.bind fun x => x.move) = none ∧
                (1 ∈ images → t.snap.run = none ∧ t.rd .snapFail = 0xFFFF) ∧
                (d.job.phase.faultable = true → d.job.abort = false → t.job.phase = .faulted ∧
                  t.rd .jobStateFault = 0x30 ∧ t.rd .gmemFaultCause = 4))))))

/-- Where the completing write of a guarded pair of HOSTIF_FLASH_CMD reaches its page: a command while another runs
changes neither; outside READY, UNOWNED and FAILED its result is 2, in the protected first 128 KiB (of an erase or a
program) 1, at an address that is no multiple of its size 3; otherwise it runs on its address. FLASH_COMMAND_DONE, at
its time, ends it: an erase leaves 0xFF in its 64 KiB, a program that the flash does not fail leaves the old bits
cleared where the staged 256 bytes have zeros, with result 0 if they read back and 4 if not, a read stages 256 bytes
with result 0; every other byte of the flash is as it was. Other memories and cores are unchanged, and without a
command running nothing changes. That a program leaves the AND of old and new bits, and the order of the checks of
state, protection and alignment, are the model's choices (log entry 61). (21 Host and Board Interfaces) -/
def Obligations.FlashCommands : Prop :=
  (∀ (s : State) (m : Master) (same : Bool) (p : Page) (op : Nat) (i : Instr), s.PairReady m same 0x240 0x104 op p →
    (i, op) ∈ ([(.flashErase m same, 1), (.flashProgram m same, 2), (.flashRead m same, 3)] : List (Instr × Nat)) →
    let a := s.dev.rd .hostifFlashAddr
    let st := s.dev.start.state
    let may := st = .ready ∨ st = .unowned ∨ st = .failed
    ∃ t, exec i s = .next { s with clk := s.writeClock m same 0x240, dev := t } ∧ t.mem = s.dev.mem ∧
      t.cores = s.dev.cores ∧ t.job = s.dev.job ∧
      if s.dev.host.flash ≠ none then t.host = s.dev.host
      else if ¬ may then t.host = { s.dev.host with flashResult := 2 }
      else if op ≠ 3 ∧ a < 0x20000 then t.host = { s.dev.host with flashResult := 1 }
      else if op = 1 ∧ a % 65536 ≠ 0 ∨ op = 2 ∧ a % 256 ≠ 0 then t.host = { s.dev.host with flashResult := 3 }
      else ∃ bs, t.host = { s.dev.host with flash := some ⟨op, a, bs⟩ } ∧
        (op = 2 → bs.length = 256 ∧ ∀ j < 64, field bs (4 * j) 4 = s.dev.rd .hostifFlashData 0 j % 2 ^ 32)) ∧
  (∀ (s : State) (at_ : Nat) (ok : Bool), s.dev.clocked = true →
    match s.dev.host.flash with
    | none => exec (.flashCommandDone at_ ok) s = .next s
    | some c => ∃ t, exec (.flashCommandDone at_ ok) s = .next { s with clk := s.clk.toCount at_, dev := t } ∧
        t.host.flash = none ∧ t.cores = s.dev.cores ∧ t.job = s.dev.job ∧ t.mem.hbm = s.dev.mem.hbm ∧
        (c.op = 1 → t.host.flashResult = 0 ∧
          ∀ x, t.flashAt x = if c.addr ≤ x ∧ x < c.addr + 65536 then 0xFF else s.dev.flashAt x) ∧
        (c.op = 2 → c.data.length = 256 →
          (∀ x, x < c.addr ∨ c.addr + 256 ≤ x → t.flashAt x = s.dev.flashAt x) ∧
          (ok = false → t.host.flashResult = 4) ∧
          (ok = true → (∀ j < 256, t.flashAt (c.addr + j) = s.dev.flashAt (c.addr + j) &&& c.data.getD j 0) ∧
            t.host.flashResult = if t.flashRead c.addr 256 = c.data then 0 else 4)) ∧
        (c.op = 3 → t.mem = s.dev.mem ∧ t.host.flashResult = 0 ∧
          ∀ j < 64, t.rd .hostifFlashData 0 j = field (s.dev.flashRead c.addr 256) (4 * j) 4))

/-- JOIN_HELLO in a device that joins sends a content made once (a quote over the digest of a new public key, that key,
the certificate) to the fabric manager, again 10 ms after the last sending. JOIN_ACCEPT that meets the conditions of the join writes node
number, management epoch and seed and starts the session under its key; another one changes nothing of the security
state. REKEY starts a new key, sends the answer under the old one and keeps that 1,000,000 counts, when OLD_KEY_EXPIRE
drops it. QUOTE_REQUEST, with a good MAC or before the session is fixed, makes a quote, or queues it behind up to 16
others; SEC_QUOTE_CMD makes one over the nonce registers, or is rejected while one is made or none may be; QUOTE_DONE
ends one, which is signed with the identity key over its bytes before the signature (ECDSA, with a nonce that is a free
value, log entries 10 and 63), sends it where a packet asked for it, and takes the next. REPORT_ACK ends the reports it names, and is counted
where there is none; REPORT_REPEAT sends a report again to the fabric manager on the next flowlet. What is sent comes to
this device's own delivery or leaves on the port of the route table, on ports with their eight queues. SECURITY_CHECK with a bad tag or key raises SECURITY_VIOLATION with cause 1 or 2,
ends quotes and faults a job that can fault with code 0x70. Memories and cores are unchanged. The session key's inputs and the
rekeying are the model's choices (log entry 64), and so are what makes a quote take its turn and which states check
(log entry 65) and the report's number (log entry 66). (20 Start Firmware and Security) -/
def Obligations.SecurityMessages : Prop :=
  ∀ s : State, s.dev.clocked = true →
    let d := s.dev
    let kept := fun (t : Dev) => t.mem = d.mem ∧ t.cores = d.cores
    let known := fun (p : Packet) => d.sec.fixed = true ∧ d.macOk s.clk p = true
    let mails := fun (t : Dev) (op : BitVec 8) (content : List Byte) (flowlet : Nat → Nat) =>
      ∀ fm : BitVec 16, d.rd .secJoinFm = fm.toNat → (∀ i : Fin 81, d.fab.ports[i].queues.length = 8) →
        ∃ x : Packet, d.Originates t x ∧ x.dst = fm ∧ x.chan = 3 ∧ x.op = op ∧
          x.tag = 0 ∧ x.epoch = BitVec.ofNat 16 (d.rd .fabCfgMgmtEpoch) ∧ x.crc = x.crcOf ∧
          x.flowlet = BitVec.ofNat 12 (flowlet (d.fab.flowlet fm.toNat)) ∧
          (content.length < 2 ^ 16 → agentContent x = content) ∧
          (d.sec.fixed = true → opSealed op.toNat = true → x.macGood d.sec.key = true)
    (if d.joins then
       let k := match d.sec.helloAt with | some u => s.clk.toUnit (u + 70000000) | none => s.clk
       ∃ t, exec .joinHello s = .next { s with clk := k, dev := t } ∧ kept t ∧ t.job = d.job ∧
         t.sec.helloAt = some k.units ∧ mails t 0x71 t.sec.hello id ∧ (d.sec.helloAt ≠ none → t.sec.hello = d.sec.hello ∧ t.sec.nonce = d.sec.nonce) ∧
         (d.sec.helloAt = none → t.sec.session = .joining ∧ ∃ e n, 1 ≤ e ∧ e < p521n ∧ 1 ≤ n ∧ n < p521n ∧ t.sec.ephemeral = e ∧
           t.sec.nonce = sha512 (ecPublic e) ∧ t.sec.hello = d.quoteBody k t.sec.nonce ++
             ecdsaSign d.sec.identity n (d.quoteBody k t.sec.nonce) ++
             List.replicate 12 0 ++ ecPublic e ++ List.replicate 3 0 ++ d.certificate)
     else exec .joinHello s = .next s) ∧
    (∀ p : Packet, p.op = 0x72 →
      let c := agentContent p
      ∃ t, exec (.joinAccept p) s = .next { s with dev := t } ∧ kept t ∧ t.job = d.job ∧
        (d.acceptsJoin p = false → t.sec = d.sec) ∧
        (d.acceptsJoin p = true → t.rd .secNode = field c 0 2 ∧ t.rd .fabCfgMgmtEpoch = field c 2 2 ∧
          t.rd .fabCfgMseedLo = field c 4 4 ∧ t.rd .fabCfgMseedHi = field c 8 4 ∧ t.sec = { d.sec with
            session := .joined, fixed := true
            key := sessionKey d.sec.ephemeral (slice c 76 133) d.sec.nonce (slice c 12 64) })) ∧
    (∀ p : Packet, p.op = 0x77 →
      let c := agentContent p
      let takes := known p ∧ d.start.violated = false ∧ (ecDecode (slice c 0 133)).isSome
      ∃ t, exec (.rekey p) s = .next { s with dev := t } ∧ kept t ∧ t.job = d.job ∧
        (¬ takes → t.sec = d.sec) ∧
        (takes → t.sec.session = .rekeying ∧ t.sec.oldKey = some (d.sec.key, s.clk.count + 1000000) ∧
          ∃ e nonce, nonce.length = 64 ∧ t.sec.key = sessionKey e (slice c 0 133) nonce (slice c 133 64) ∧
            mails t 0x77 (ecPublic e ++ nonce) id)) ∧
    (match d.sec.oldKey with
     | none => exec .oldKeyExpire s = .next s
     | some (_, n) => exec .oldKeyExpire s = .next { s with
         clk := s.clk.toCount n, dev := { d with sec := { d.sec with session := .joined, oldKey := none } } }) ∧
    (∀ p : Packet, p.op = 0x75 →
      let body := d.quoteBody s.clk (slice (agentContent p) 0 64)
      let takes := (d.sec.fixed = false ∨ d.macOk s.clk p = true) ∧ d.mayQuote = true
      ∃ t, exec (.quoteRequest p) s = .next { s with dev := t } ∧ kept t ∧ t.job = d.job ∧
        t.sec = if takes ∧ d.sec.quote = none then { d.sec with quote := some ⟨false, body⟩ }
          else if takes ∧ d.sec.queued.length < 16 then { d.sec with queued := d.sec.queued ++ [body] } else d.sec) ∧
    (∀ (m : Master) (same : Bool) (p : Page), s.PairReady m same 0x230 0x20 1 p →
      let k := s.writeClock m same 0x230
      ∃ t, exec (.secQuoteCmd m same) s = .next { s with clk := k, dev := t } ∧ kept t ∧ t.job = d.job ∧
        if d.sec.quote = none ∧ d.mayQuote = true then
          t.sec = { d.sec with quote := some ⟨true, d.quoteBody k d.nonceRegs⟩ }
        else t.sec = d.sec ∧ t.rd .secQuoteReject = 1) ∧
    (match d.sec.quote with
     | none => exec .quoteDone s = .next s
     | some q => ∃ t n, 1 ≤ n ∧ n < p521n ∧ exec .quoteDone s = .next { s with dev := t } ∧ kept t ∧ t.job = d.job ∧
         let sig := ecdsaSign d.sec.identity n q.body
         t.sec.quote = d.sec.queued.head?.map (fun b => ⟨false, b⟩) ∧ t.sec.queued = d.sec.queued.tail ∧
         (q.commanded = true → t.sec.last = some (q.body ++ sig ++ List.replicate 12 0)) ∧
         (q.commanded = false → t.sec.last = d.sec.last ∧ mails t 0x76 (q.body ++ sig ++ List.replicate 12 0) id)) ∧
    (∀ p : Packet, p.op = 0x74 → (∀ r ∈ d.sec.reports, r.orders ≠ []) →
      let c := agentContent p
      ∃ t, exec (.reportAck p) s = .next { s with dev := t } ∧ kept t ∧ t.job = d.job ∧
        (¬ known p → t.sec = d.sec) ∧
        (known p → t.sec = { d.sec with reports := d.sec.reports.filter fun r =>
          !(r.kind = field c 0 1 && r.orders.contains (field c 1 3)) }) ∧
        (known p → (∀ r ∈ d.sec.reports, ¬ (r.kind = field c 0 1 ∧ field c 1 3 ∈ r.orders)) →
          t.running .secAgentDrop = min (d.running .secAgentDrop + 1) (2 ^ (Fld.secAgentDrop).width - 1))) ∧
    (∀ order : BitVec 24,
      match d.reportOf order.toNat with
      | none => exec (.reportRepeat order) s = .next s
      | some r =>
        let k := s.clk.toCount (r.sentAt + 1000 * d.rd .gmemCfgRetry)
        d.start.violated = false ∨ r.kind = 1 → ∃ t, exec (.reportRepeat order) s = .next { s with clk := k, dev := t } ∧
          kept t ∧ t.job = d.job ∧ mails t 0x73 r.message (· + 1) ∧ ∃ r' ∈ t.sec.reports, r'.kind = r.kind ∧ r'.content = r.content ∧
            r'.orders.length = r.orders.length + 1 ∧ r'.sentAt = k.count) ∧
    (∀ sramOk keyOk : Bool,
      let k := s.clk.toCount ((s.clk.count / 1000000 + 1) * 1000000)
      if d.start.firmware = false then exec (.securityCheck sramOk keyOk) s = .next s
      else if d.start.violated ∨ (sramOk ∧ keyOk) then exec (.securityCheck sramOk keyOk) s = .next { s with clk := k }
      else ∃ t, exec (.securityCheck sramOk keyOk) s = .next { s with clk := k, dev := t } ∧ kept t ∧
        t.start.violated = true ∧ t.rd .secFaultCode = 0x70 ∧ t.rd .secFaultCause = (if sramOk then 2 else 1) ∧
        t.sec.quote = none ∧ t.sec.queued = [] ∧
        (d.job.phase.faultable = true → d.job.abort = false → t.job.phase = .faulted ∧ t.rd .jobStateFault = 0x70))

/-- A write of SNAP_NVME that reaches its page stores the enable bit; from 0 to 1 it starts the controller's
initialisation with its first command, and at 0 it takes the controller down, aborts what is in flight, deletes its queues, and fails a copy in
progress with status 0xFFFF. NVME_LINK_DOWN takes a controller in use down and fails such a copy alike. NVME_COMPLETION
ends the command in flight and gives the next: of the initialisation, after whose last the controller is up where its
namespace fits; of a copy, the transfers of 128 KiB that are left, in the order in which they stand to be copied, then the Flush; with
an error status it ends the initialisation, fails the copy, or fails the restore that reads the namespace, and after a
failed copy or read the health log is asked for.
SNAP_CUT_COMPLETE of an image whose pieces have all come leaves the image in its area of the NVMe namespace and no
other byte changed, and makes the cut the last one. Mirror data that arrive whole on the twin link in mode 1 inside the
receive region are stored in the bank of their frame and nowhere else; a commit marks the bank, and with the cut flag
copies it to bank 2; one-hop packets that are not whole change no memory. MIRROR_SEND_END of an image whose quiet flag
is known and whose pieces have all come leaves it in its local bank, with the cut flag in bank 2 too, and drops it from
the waiting ones. Where nothing waits for a command nothing changes; cores and the job never change. (18 Failure and
Recovery, 21 Host and Board Interfaces; the order of the controller's commands is the model's choice, log entries 50 and
67) -/
def Obligations.SnapshotsAndMirror : Prop :=
  ∀ s : State, s.dev.clocked = true →
    let d := s.dev
    let sn := d.snap
    let kept := fun (t : Dev) => t.cores = d.cores ∧ t.job = d.job
    let ended := { sn with nvmeUp := false, init := [], run := none, flushed := sn.run.isNone && sn.flushed }
    let copyFails := fun (t : Dev) => sn.run ≠ none → t.rd .snapFail = 0xFFFF ∧ t.rd .snapEvFail = 1
    (∀ (m : Master) (same : Bool) (v : BitVec 32) (p : Page), s.WriteReaches m same 0x220 0 p → d.openGuard 0x220 = none →
      ∃ t, exec (.nvmeEnable m same v) s = .next { s with clk := s.writeClock m same 0x220, dev := t } ∧ kept t ∧
        t.mem = d.mem ∧ t.rd .snapNvmeEnable = v.toNat % 2 ∧
        (v.toNat % 2 = 0 → t.snap = ended ∧ copyFails t ∧
          t.out.nvme = d.out.nvme ++ if sn.nvmeUp then d.inFlight.map .abort ++ nvmeExit else []) ∧
        (v.toNat % 2 = 1 → d.rd .snapNvmeEnable = 0 → t.snap = { sn with init := nvmeInit (d.rd .snapNvmeNsid) } ∧
          t.out.nvme = d.out.nvme ++ [.identifyController]) ∧
        (v.toNat % 2 = 1 → d.rd .snapNvmeEnable ≠ 0 → t.snap = sn ∧ t.out.nvme = d.out.nvme)) ∧
    (sn.nvmeUp = true ∨ sn.init ≠ [] → ∃ t, exec .nvmeLinkDown s = .next { s with dev := t } ∧ kept t ∧ t.mem = d.mem ∧
        t.snap = ended ∧ copyFails t) ∧
    (sn.nvmeUp = false → sn.init = [] → exec .nvmeLinkDown s = .next s) ∧
    (∀ status : BitVec 16,
      let done := fun (f : Dev → Prop) => ∃ t, exec (.nvmeCompletion status) s = .next { s with dev := t } ∧ kept t ∧
        t.mem = d.mem ∧ f t
      match sn.init, sn.run with
      | _ :: rest, _ => done fun t =>
          (status ≠ 0 → t.snap = { sn with init := [] } ∧ t.out.nvme = d.out.nvme) ∧
          (status = 0 → t.out.nvme = d.out.nvme ++ rest.take 1 ∧
            t.snap = if rest = [] then { sn with init := [], nvmeUp := Config.nvmeFits } else { sn with init := rest })
      | [], some p =>
          let len := (imageLayout p.objs).2.2
          (status ≠ 0 → done fun t => t.snap = { sn with run := none, flushed := false } ∧
            t.rd .snapFail = status.toNat ∧ t.rd .snapEvFail = 1 ∧ t.out.nvme = d.out.nvme ++ [.getLogPage]) ∧
          (status = 0 → p.whole = false ∨ (sn.left = [] ∧ sn.flushed = true) →
            exec (.nvmeCompletion status) s = .next s) ∧
          (status = 0 → p.whole = true → (sn.left ≠ [] ∨ sn.flushed = false) → done fun t =>
            t.out.nvme = d.out.nvme ++ t.nvmeNext.toList ∧ t.snap = match sn.left with
              | c :: rest => { sn with left := rest, copied := sn.copied + min 131072 (len - 4096 - c * 131072) }
              | [] => { sn with flushed := true })
      | [], none =>
          if status ≠ 0 ∧ sn.restoring = true ∧ d.restoresFrom 1 = true
          then done fun t => t.snap = { sn with readFailed := true } ∧ t.out.nvme = d.out.nvme ++ [.getLogPage]
          else exec (.nvmeCompletion status) s = .next s) ∧
    (∀ p, sn.run = some p → p.whole = true →
       let img := d.imageOf 1 p
       let a := d.areaAt sn.area
       ∃ t, exec .snapCutComplete s = .next { s with dev := t } ∧ kept t ∧ t.mem.hbm = d.mem.hbm ∧
         t.mem.nvme.readN a img.length = img ∧
         (∀ q, q < a ∨ a + img.length ≤ q → t.mem.nvme.read q = d.mem.nvme.read q) ∧
         t.rd .snapEvDone = 1 ∧ t.snap = { sn with
           run := none, flushed := false, left := [], copied := img.length, lastCut := some (p.frame + 1), clean := !sn.dirty }) ∧
    ((∀ p, sn.run = some p → p.whole = false) → exec .snapCutComplete s = .next s) ∧
    (∀ p : Packet,
      let broken := p.dst = 0xFFFF ∧ d.fab.ports[(80 : Fin 81)].state = .up ∧ p.good = false
      ∀ c ∈ [(Instr.mirrorData p, 0x7C), (.mirrorCommit p, 0x7D)], d.mirrorMessage p c.2 = false →
        (broken → ∃ t, exec c.1 s = .next { s with dev := t } ∧ kept t ∧ t.mem = d.mem ∧ t.snap = sn) ∧
        (¬ broken → exec c.1 s = .next s)) ∧
    (∀ p : Packet,
      let (base, len, bound) := d.rxRegion
      let bs := p.payload.drop 64
      let o := field p.payload 0 8 % 2 * bound + field p.payload 8 8
      d.mirrorMessage p 0x7C = true → ∃ t, exec (.mirrorData p) s = .next { s with dev := t } ∧ kept t ∧ t.snap = sn ∧
        if o + bs.length ≤ len then t.mem.hbm.readN (base + o) bs.length = bs ∧
          ∀ q, q < base + o ∨ base + o + bs.length ≤ q → t.mem.hbm.read q = d.mem.hbm.read q
        else t.mem = d.mem) ∧
    (∀ p : Packet,
      let (base, _, bound) := d.rxRegion
      let f := field p.payload 0 8
      let cut := bitAt (field p.payload 16 1) 1
      let n := if cut then min (field p.payload 8 8) bound else 0
      d.mirrorMessage p 0x7D = true → ∃ t, exec (.mirrorCommit p) s = .next { s with dev := t } ∧ kept t ∧
        (t.snap = if cut then { sn with rxBanks := (sn.rxBanks.set (f % 2) (some f)).set 2 (some f) }
          else { sn with rxBanks := sn.rxBanks.set (f % 2) (some f) }) ∧
        t.mem.hbm.readN (base + 2 * bound) n = d.mem.hbm.readN (base + f % 2 * bound) n ∧
        ∀ q, q < base + 2 * bound ∨ base + 2 * bound + n ≤ q → t.mem.hbm.read q = d.mem.hbm.read q) ∧
    (∀ (m : MirrorRun) (rest : List MirrorRun) (bound : Nat) (p : SnapPart), sn.mirrors = m :: rest →
      d.mirrorBound = some bound → d.image.bind (fun i => i.form.snap) = some p → m.tested = true →
      m.parts.whole = true →
      d.job.phase = .running ∨ d.job.phase = .draining →
      let img := d.imageOf 2 m.parts
      let f := m.parts.frame
      let a := p.bank + f % 2 * bound
      let n := if m.cut then img.length else 0
      img.length ≤ bound →
      ∃ t, exec .mirrorSendEnd s = .next { s with dev := t } ∧ kept t ∧ t.snap.mirrors = rest ∧
        t.snap.banks = (sn.banks.set (f % 2) (some f)).set 2 (if m.cut then some f else sn.banks.getD 2 none) ∧
        t.mem.hbm.readN a img.length = img ∧ t.mem.hbm.readN (p.bank + 2 * bound) n = img.take n ∧
        ∀ q, (q < a ∨ a + img.length ≤ q) → (q < p.bank + 2 * bound ∨ p.bank + 2 * bound + n ≤ q) →
          t.mem.hbm.read q = d.mem.hbm.read q) ∧
    (sn.mirrors = [] → exec .mirrorSendEnd s = .next s)

/-- A stream packet of a member of the group is joined to the bytes kept of its sender's stream; every whole row with 63
bytes more behind it is taken and counted for the sender's rank, in the invocation that the rank's end markers have
reached, and the rest is kept. A single delivered row for another host, another slot, beyond the capacity, or already
filled, changes no memory; another one fills its place once. A single returned row that is stale, or that no part of
the invocation awaits, changes no memory; another one is marked as returned where its XCH.COMBINE runs, and before
that goes to a landing Pail while the share has room. An end marker that announces no more rows than were taken drops
the kept bytes and ends the rank's stream for the invocation: with other ranks still open nothing else of the exchange
changes, nor do cores or memory; the last one lets every XCH.RECV or XCH.COMBINE of the invocation that runs retire,
and an invocation whose cores have all received and returned, or combined, is forgotten. Packets that the exchange does
not take change nothing. (09 Churn and the Token Exchange; which invocation a packet belongs to is read as log entry 34
says) -/
def Obligations.ExchangeStreams : Prop :=
  ∀ (s : State) (p : Packet), s.dev.clocked = true →
    let d := s.dev
    let node := p.src.toNat
    (d.xchTakes p = none → ∀ i ∈ [Instr.deliveryStream p, .deliveryEndMarker p, .returnStream p, .returnEndMarker p],
      exec i s = .next s) ∧
    (∀ (sl : XchSlot) (l : XchLayer) (r : Nat), d.xchTakes p = some (sl, l, r) →
      let hi := d.streamOf sl.slot r false
      let si := d.streamOf sl.slot r true
      let host := d.hostOf sl.slot hi
      let sent := d.sendOf sl.slot si
      let bytes := fun (ret : Bool) => (d.partialOf node ret sl.slot).bytes ++ p.payload
      let taken := fun (ret : Bool) (unit : Nat) => (((bytes ret).length - 63) / unit)
      let dUnit := unitBytes l.dfmt l.width
      let rUnit := unitBytes l.rfmt l.width
      (p.op = 0x20 →
        let n := taken false dUnit
        let record := field (bytes false) 0 8
        let x := recX record
        let li := l.localIndex x
        let row := (match d.image with | none => 0 | some m => m.rowBase l.layer r x + recSlot record)
        let cap := match d.image with | none => 0 | some m => m.capacity l.layer x
        let fits := l.host x = some (d.rank l.g) ∧ sl.covers li = true ∧ row < cap ∧ ∀ h ∈ host.filled, ¬ (h.li = li ∧ h.k = row)
        ∃ t, exec (.deliveryStream p) s = .next { s with dev := t } ∧
          (t.partialOf node false sl.slot).bytes = (bytes false).drop (n * dUnit) ∧
          Sparse.get (t.hostOf sl.slot hi).seen 0 r = Sparse.get host.seen 0 r + n ∧
          (n = 1 → ¬ fits → t.mem = d.mem ∧ (t.hostOf sl.slot hi).filled = host.filled) ∧
          (n = 1 → fits → ∃ gen, (t.hostOf sl.slot hi).filled = host.filled ++ [⟨li, row, ⟨record, r, gen⟩⟩])) ∧
      (p.op = 0xA0 →
        let n := taken true rUnit
        let record := field (bytes true) 0 8
        let gen := if (d.partialOf node true sl.slot).bytes = [] then p.genOf else (d.partialOf node true sl.slot).gen
        let awaits := fun (q : SendPart) => q.core ∉ sent.combined ∧ record ∈ q.sent
        let wanted := d.staleReturn sl.slot gen = false ∧ ∃ q ∈ sent.parts, awaits q
        ∃ t, exec (.returnStream p) s = .next { s with dev := t } ∧
          let u := t.sendOf sl.slot si
          (t.partialOf node true sl.slot).bytes = (bytes true).drop (n * rUnit) ∧
          Sparse.get u.seen 0 r = Sparse.get sent.seen 0 r + n ∧
          (n = 1 → ¬ wanted → t.mem = d.mem ∧ u.done = sent.done ∧ u.landed = sent.landed) ∧
          (n = 1 → wanted → ∃ q ∈ sent.parts, awaits q ∧
            (q.core ∈ sent.opened → (d.xchEntry (Fin.ofNat 48 q.core) sl si 4).isSome = true →
              u.done = sent.done ++ [(q.core, q.rowOf record)]) ∧
            (q.core ∉ sent.opened → u.done = sent.done ∧
              if (d.land (d.xchIn l r) sl.slot true rUnit []).isSome
              then ∃ x : Landed, u.landed = sent.landed ++ [x] ∧ x.row = ⟨record, r, gen⟩
              else u.landed = sent.landed))) ∧
      (p.op = 0x21 → field p.payload 0 4 ≤ Sparse.get host.seen 0 r →
        ∃ t, exec (.deliveryEndMarker p) s = .next { s with dev := t } ∧ (t.partialOf node false sl.slot).bytes = [] ∧
          t.streamOf sl.slot r false = hi + 1 ∧
          (host.markers.length + 1 < l.g → host.answered = true ∨ sl.cores = [] ∨ (∃ c ∈ sl.cores, c ∉ host.returned) →
            t.hostOf sl.slot hi = { host with markers := host.markers ++ [r] } ∧
            (∀ slot n, ¬ (slot = sl.slot ∧ n = hi) → t.hostOf slot n = d.hostOf slot n) ∧ t.xch.sends = d.xch.sends ∧
            t.mem = d.mem ∧ t.cores = d.cores) ∧
          (l.g ≤ host.markers.length + 1 →
            (∀ (c : Fin 48) (e : Entry), c.val ∈ sl.cores → d.xchEntry c sl hi 2 = some e →
              ∃ e' ∈ t.cores[c].entries, e'.seq = e.seq ∧ e'.done = true) ∧
            (host.answered = true ∨ (∀ c ∈ sl.cores, c ∈ host.returned) → (∀ c ∈ sl.cores, c ∈ host.recvd) →
              ∀ h ∈ t.xch.hosts, ¬ (h.slot = sl.slot ∧ h.n = hi)))) ∧
      (p.op = 0xA1 → field p.payload 0 4 ≤ Sparse.get sent.seen 0 r →
        ∃ t, exec (.returnEndMarker p) s = .next { s with dev := t } ∧ (t.partialOf node true sl.slot).bytes = [] ∧
          t.streamOf sl.slot r true = si + 1 ∧
          (sent.markers.length + 1 < l.g →
            t.sendOf sl.slot si = { sent with markers := sent.markers ++ [r] } ∧
            (∀ slot n, ¬ (slot = sl.slot ∧ n = si) → t.sendOf slot n = d.sendOf slot n) ∧ t.xch.hosts = d.xch.hosts ∧
            t.mem = d.mem ∧ t.cores = d.cores) ∧
          (l.g ≤ sent.markers.length + 1 →
            (∀ (c : Fin 48) (e : Entry), c.val ∈ sl.senders → d.xchEntry c sl si 4 = some e →
              ∃ e' ∈ t.cores[c].entries, e'.seq = e.seq ∧ e'.done = true) ∧
            ((∀ c ∈ sl.senders, c ∈ sent.combined) → ∀ h ∈ t.xch.sends, ¬ (h.slot = sl.slot ∧ h.n = si)))))

/-- COLL_INVOCATION_START, while the job runs or drains and every mask core's released instruction of the descriptor is at
its head, nothing uncommitted stands in the way and no stream of lock-step holds the engine, makes the next invocation
with the hash of the first core's TDA, the frame number and every core's instruction running; a held engine starts
nothing, and otherwise nothing changes. A packet of a member for an invocation that has not started waits, and one for
an earlier invocation is ignored. Stream bytes of a neighbour in a started invocation are counted up to the size of its
tiles: a reduction then combines every tile that all children have brought, and a broadcast passes on every whole tile;
bytes that complete no tile of a reduction, and all bytes of a broadcast, are stored in the buffer slot. An end marker
closes the neighbour's stream. None of these decides anything at the root. (16 Collectives) -/
def Obligations.CollectiveStreams : Prop :=
  ∀ s : State, s.dev.clocked = true →
    let d := s.dev
    (∀ desc : BitVec 12,
      let may := fun (c : CollDesc) => d.collBlocked c = false ∧ (d.job.phase = .running ∨ d.job.phase = .draining)
      (∀ c hs pos h0, d.collDesc desc.toNat = some c → d.collHeads c = some (h0 :: hs) → d.collPos c = some pos → may c →
        if d.lsHolds (0xC01 + 2 * d.collDie c.desc) then
          ∃ t, exec (.collInvocationStart desc) s = .next { s with dev := t } ∧ t.coll = d.coll ∧ t.mem = d.mem ∧
            t.cores = d.cores ∧ t.job = d.job
        else ∃ t i, exec (.collInvocationStart desc) s = .next { s with dev := t } ∧
          t.invAt c.desc (d.nextInv c.desc) = some i ∧ i.frame = d.frame.number ∧ i.hash = c.hash h0.2.tda ∧
          i.tiles = Td.rows h0.2.tda * Td.cols h0.2.tda ∧
          ∀ h ∈ h0 :: hs, ∃ e ∈ t.cores[h.1].entries, e.seq = h.2.seq ∧ e.stage = .running) ∧
      ((∀ c, d.collDesc desc.toNat = some c → d.collHeads c = none ∨ ¬ may c) →
        exec (.collInvocationStart desc) s = .next s)) ∧
    (∀ (p : Packet) (more : Bool) (c : CollDesc) (pos src : Nat), p.chan = 2 → p.dst.toNat = d.node → p.good = true →
      p.key = d.jobKey → d.job.keyed = true → d.collDesc (packetDesc p) = some c → d.collPos c = some pos →
      d.collPosOfNode c p.src.toNat = some src →
      let six : List (Instr × BitVec 8) := [(.reductionStream p, 0x40), (.reductionEndMarker p, 0x41),
        (.broadcastStream p, 0x42), (.broadcastEndMarker p, 0x43), (.collReport p more, 0x44), (.sampleRecords p more, 0x45)]
      (∀ x ∈ six, p.op ≠ x.2 → exec x.1 s = .next s) ∧
      (∀ x ∈ six, p.op = x.2 → (d.inv c.desc = none ∨ ∃ i, d.inv c.desc = some i ∧ i.n < p.seq.toNat) →
        exec x.1 s = .next { s with dev := d.modColl fun y => { y with waiting := y.waiting ++ [(p, s.clk.count)] } }) ∧
      (∀ x ∈ six, p.op = x.2 → (∃ i, d.inv c.desc = some i ∧ p.seq.toNat < i.n) →
        exec x.1 s = .next s) ∧
      (∀ (i : CollInv) (q : CollKid), d.inv c.desc = some i → i.n = p.seq.toNat → i.state = 1 →
        i.kids.find? (fun y => y.pos = src) = some q →
        let hop := fun (y : CollKid) => hopBytes (c.hopOf y.pos)
        let size := i.tiles * if c.type = 2 then hop q else d.bcastBytes i
        let bs := p.payload.take (size - q.got)
        let at_ := d.collSlot c + (if c.type = 2 then c.kidOffset pos src else 0) + q.got
        let kids := i.kids.map fun y => if y.pos = src then { y with got := y.got + bs.length } else y
        (∀ x ∈ [(Instr.reductionStream p, 0x40#8), (.broadcastStream p, 0x42#8)], p.op = x.2 → i.next ≤ i.tiles →
          ∃ t i', exec x.1 s = .next { s with dev := t } ∧ t.invAt c.desc i.n = some i' ∧ i'.kids = kids ∧ i'.state = 1 ∧
            (c.type = 2 → i.next ≤ i'.next ∧ i'.next ≤ i.tiles ∧
              (i'.next = i.tiles ∨ ∃ y ∈ kids, y.got < (i'.next + 1) * hop y) ∧
              (i.next < i'.next → ∀ y ∈ kids, i'.next * hop y ≤ y.got)) ∧
            (c.type ≠ 2 → i'.next = (q.got + bs.length) / max 1 (d.bcastBytes i)) ∧
            (c.type ≠ 2 ∨ i'.next = i.next → t.mem.hbm.readN at_ bs.length = bs ∧
              ∀ a, a < at_ ∨ at_ + bs.length ≤ a → t.mem.hbm.read a = d.mem.hbm.read a)) ∧
        (∀ x ∈ [(Instr.reductionEndMarker p, 0x41#8), (.broadcastEndMarker p, 0x43#8)], p.op = x.2 →
          ∃ t i', exec x.1 s = .next { s with dev := t } ∧ t.invAt c.desc i.n = some i' ∧
            i'.kids = (i.kids.map fun y => if y.pos = src then { y with ended := true } else y) ∧
            t.mem = d.mem ∧ t.cores = d.cores ∧ i' = { i with
              kids := i.kids.map fun y => if y.pos = src then { y with ended := true } else y
              out := if c.type = 2 then i.out else [] })))

/-- In a started invocation at the root, before its deadline, COLL_REPORT adds a report, SAMPLE_RECORDS the first record
of each sampled element, STAGED_RESULT_COMPLETE the staged result (once all tiles are combined). Where that adds
nothing to check, the root then aborts with 0x21 if a report differs in hash, frame or record, with 0x22 if the check
has failed, commits if no item is missing, and otherwise waits. An item whose sender says that another arrives in its
control cycle is kept and judged with that one (the form of the command is the model's choice, log entry 82).
COLL_DEADLINE at its time aborts with 0x20, cause 1, unless the items there give an outcome, which it takes. A report,
samples or a staged result at or after the deadline give no outcome. A commit leaves the job as it was where every
mask core's result tiles can still be written. TOKEN with code 0 commits a started invocation and
with another code aborts it, once; before the start an abort is remembered. TOKEN_ACKNOWLEDGEMENT takes a member out of
the list of those that have not acknowledged; TOKEN_REPEAT after the retry interval sends the token again to all of it,
a packet for each that comes to this device's own delivery or leaves on the port of the route table, on ports with
their eight queues. An abort
faults a job that can fault and records the code. Where nothing is due nothing changes. (16 Collectives) -/
def Obligations.CollectiveDecisions : Prop :=
  ∀ s : State, s.dev.clocked = true →
    let d := s.dev
    let aborted := fun (t : Dev) (c : CollDesc) (n code : Nat) =>
      (∃ i, t.invAt c.desc n = some i ∧ i.state = 3) ∧ (d.job.phase.faultable = true → d.job.abort = false →
        t.job.phase = .faulted ∧ t.rd .jobStateFault = code ∧ t.rd .collFaultCode = code)
    let open_ := fun (c : CollDesc) (i : CollInv) => ∀ q ∈ i.seqs, ∀ e, d.collEntry q.1 q.2 = some e →
      let td := if c.type = 2 then e.tdd else e.tda
      d.checkTiles (Fin.ofNat 48 q.1) [] [(td, (List.range i.tiles).map fun n => (n / Td.cols td, n % Td.cols td))] = none
    let committed := fun (t : Dev) (c : CollDesc) (i : CollInv) => (open_ c i → t.job = d.job) ∧
      ∃ j, t.invAt c.desc i.n = some j ∧ j.state = 2
    let undecided := fun (c : CollDesc) (i : CollInv) => (∀ r ∈ i.reports, i.reportCause r = none) ∧
      i.check ≠ some false ∧ c.missing i ≠ none
    let settles := fun (more : Bool) (t : Dev) (c : CollDesc) (i : CollInv) =>
      if more then t.invAt c.desc i.n = some i ∧ t.mem = d.mem ∧ t.cores = d.cores ∧ t.job = d.job
      else if i.reports.any fun r => (i.reportCause r).isSome then aborted t c i.n 0x21
      else if i.check = some false then aborted t c i.n 0x22
      else if c.missing i = none then committed t c i ∧ ∃ j, t.invAt c.desc i.n = some j ∧ j.code = 0 ∧
        j.unacked = (List.range c.members.length).filter fun p => p ≠ 0
      else t.invAt c.desc i.n = some i ∧ t.mem = d.mem ∧ t.cores = d.cores ∧ t.job = d.job
    (∀ (p : Packet) (more : Bool) (c : CollDesc) (i : CollInv) (src : Nat), p.chan = 2 → p.dst.toNat = d.node → p.good = true →
      p.key = d.jobKey → d.job.keyed = true → d.collDesc (packetDesc p) = some c → d.collPos c = some 0 →
      d.inv c.desc = some i → i.n = p.seq.toNat → d.collPosOfNode c p.src.toNat = some src → i.state = 1 →
      let k := s.clk
      (p.op = 0x44 → ∃ t, exec (.collReport p more) s = .next { s with dev := t } ∧
        (∀ q, k.count < i.deadline → c.posOf (field p.payload 16 2) = some q →
          settles more t c { i with
            reports := i.reports ++ [⟨q, field p.payload 0 8, field p.payload 8 8,
              bitAt (field p.payload 18 1) 0, bitAt (field p.payload 18 1) 1⟩] }) ∧
        (i.deadline ≤ k.count → settles more t c i)) ∧
      (p.op = 0x45 → ∃ t, exec (.sampleRecords p more) s = .next { s with dev := t } ∧
        (k.count < i.deadline → (c.check = false ∨ i.check ≠ none ∨ i.next < i.tiles) →
          let old := ((i.samples.find? fun x => x.1 = src).map (·.2)).getD []
          let came := (chunksOf 48 (p.payload.length / 48) p.payload).map fun b => (field b 0 8, leNat ((b.drop 8).take 37))
          ∃ new, settles more t c { i with
              samples := (i.samples.filter fun x => x.1 ≠ src) ++ [(src, new)] } ∧
            ∀ e v, (e, v) ∈ new ↔ (e, v) ∈ old ∨
              (e ∈ d.sampleSet i ∧ (∀ x ∈ old, x.1 ≠ e) ∧ came.find? (fun x => x.1 = e) = some (e, v))) ∧
        (i.deadline ≤ k.count → undecided c i → t.mem = d.mem ∧ t.cores = d.cores ∧ t.job = d.job ∧
          ∃ j, t.invAt c.desc i.n = some j ∧ j.state = 1 ∧ j.check = i.check ∧ j.reports = i.reports))) ∧
    (∀ (desc : BitVec 12) (n : Nat) (more : Bool),
      (d.rootInv desc.toNat n = none → ∀ i ∈ [Instr.stagedResultComplete desc n more, .collDeadline desc n, .tokenRepeat desc n],
        exec i s = .next s) ∧
      (∀ c i, d.rootInv desc.toNat n = some (c, i) →
        (let k := s.clk
         let makes := c.type = 2 ∧ i.staged = false ∧ i.lateStage = false ∧ i.tiles ≤ i.next
         (makes → i.state ≠ 2 → i.deadline ≤ k.count →
           ∃ t, exec (.stagedResultComplete desc n more) s = .next { s with dev := t } ∧ t.mem = d.mem ∧
             t.cores = d.cores ∧ t.job = d.job ∧
             ∃ j, t.invAt c.desc n = some j ∧ j.state = i.state ∧ j.staged = false ∧ j.lateStage = true) ∧
         (makes → i.state = 1 → k.count < i.deadline → c.check = false ∨ i.check ≠ none →
           ∃ t, exec (.stagedResultComplete desc n more) s = .next { s with dev := t } ∧
             settles more t c { i with staged := true }) ∧
         (¬ makes ∨ i.state = 2 ∨ (i.state ≠ 1 ∧ k.count < i.deadline) →
           exec (.stagedResultComplete desc n more) s = .next s)) ∧
        (if i.state = 1 then ∃ t, exec (.collDeadline desc n) s = .next { s with clk := s.clk.toCount i.deadline, dev := t } ∧
            if undecided c i then
              aborted t c n 0x20 ∧ (d.job.phase.faultable = true → d.job.abort = false → t.rd .collFaultCause = 1)
            else settles false t c i
         else exec (.collDeadline desc n) s = .next s) ∧
        (let k := s.clk.toCount (i.tokenAt + 1000 * d.rd .gmemCfgRetry)
         if 2 ≤ i.state ∧ i.unacked ≠ [] then ∃ t, exec (.tokenRepeat desc n) s = .next { s with clk := k, dev := t } ∧
            t.mem = d.mem ∧ t.cores = d.cores ∧ t.job = d.job ∧ t.invAt c.desc n = some { i with tokenAt := k.count } ∧
            ((∀ q : Fin 81, d.fab.ports[q].queues.length = 8) → ∀ p ∈ i.unacked, ∀ node : BitVec 16,
              d.collNode c p = node.toNat → ∃ x : Packet, d.Originates t x ∧ x.dst = node ∧ x.chan = 2 ∧ x.op = 0x46 ∧
                x.tag = BitVec.ofNat 24 d.jobKey.tag ∧ x.epoch = BitVec.ofNat 16 d.jobKey.epoch ∧
                x.seq = BitVec.ofNat 32 n ∧ x.crc = x.crcOf ∧
                x.opword = BitVec.ofNat 40 (c.desc + (i.code * 2 ^ 12 + i.cause * 2 ^ 20)))
         else exec (.tokenRepeat desc n) s = .next s))) ∧
    (∀ p : Packet, p.dst.toNat = d.node → p.good = true → p.key = d.jobKey →
      (p.op = 0x47 → match d.rootInv (packetDesc p) p.seq.toNat with
        | none => exec (.tokenAcknowledgement p) s = .next s
        | some (c, i) => ∀ q, d.collPosOfNode c p.src.toNat = some q → exec (.tokenAcknowledgement p) s =
            .next { s with dev := (d.collCarry (d.collDie c.desc) p).setCollInv { i with unacked := i.unacked.filter fun x => x ≠ q } }) ∧
      (p.op = 0x46 → p.chan = 2 → d.job.keyed = true → ∀ c, d.collDesc (packetDesc p) = some c →
        let n := p.seq.toNat
        let code := bitRange p.opword.toNat 19 12
        ∃ t, exec (.token p) s = .next { s with dev := t } ∧
          (∀ i, d.inv c.desc = some i → i.n = n → i.state = 1 → if code = 0 then committed t c i else aborted t c n code) ∧
          ((∃ i, d.inv c.desc = some i ∧ (n < i.n ∨ (n = i.n ∧ i.state ≠ 1))) → t.coll = d.coll ∧ t.job = d.job) ∧
          ((d.inv c.desc = none ∨ ∃ i, d.inv c.desc = some i ∧ i.n < n) → d.invAt c.desc n = none →
            t.coll.invs = d.coll.invs ∧ ((c.desc, n) ∉ d.coll.early →
              t.coll.early = if code = 0 then d.coll.early else d.coll.early ++ [(c.desc, n)]))))

/-- Two memories in canonical form that read alike at every address are equal. Clearing a range keeps the form: its bytes
read as zero, and every other byte as before. After bytes are written at a location (a tile store, a die buffer or
device HBM), reading that range gives the bytes; every byte of the same memory outside the range, and every byte of
every other tile store, die buffer, statistics store, of HBM, of host memory, of the flash and of the NVMe namespace,
reads as before; the form of all memories is kept; cores and registers are unchanged. A write of an instruction or an
engine to device HBM by way of the tier map keeps the form too, and leaves cores, registers and the tier map. And every
step, whatever the command, keeps it: from a state whose memories are in canonical form and whose running counters rise
strictly, a step leads to such a state. That an unlisted byte reads as zero is the model's choice (log entry 5). (03 Tynil Programming Model, 01 Package and Dies, 13
Memory Tiers) -/
def Obligations.MemoriesReadBack : Prop :=
  (∀ m n : Memory, m.wf = true → n.wf = true → (∀ a, m.read a = n.read a) → m = n) ∧
  (∀ (m : Memory) (a n b : Nat), (m.wf = true → (m.clear a n).wf = true) ∧
    (m.clear a n).read b = if a ≤ b ∧ b < a + n then 0 else m.read b) ∧
  (∀ (d : Dev) (l : Loc) (a : Nat) (bs : List Byte) (mask : List Bool),
    let e := d.locWrite l a bs mask
    let t := d.put l a bs mask
    e.locRead l a bs.length = bs ∧
    (∀ (m : Loc) (x : Nat), (m ≠ l ∨ x < a ∨ a + bs.length ≤ x) → e.locRead m x 1 = d.locRead m x 1) ∧
    e.mem.stat = d.mem.stat ∧ e.mem.host = d.mem.host ∧ e.mem.flash = d.mem.flash ∧ e.mem.nvme = d.mem.nvme ∧
    e.cores = d.cores ∧ e.regs = d.regs ∧ e.job = d.job ∧
    (d.mem.wf = true → e.mem.wf = true ∧ t.mem.wf = true) ∧ t.regs = d.regs ∧ t.cores = d.cores ∧ t.tier = d.tier) ∧
  (∀ s t : State, s.dev.mem.wf = true → Sparse.rising none s.dev.acc = true → step s = .next t →
    t.dev.mem.wf = true ∧ Sparse.rising none t.dev.acc = true)

/-- If two commands stand for Tynil instructions of the same core with the same 128-bit word, they are the same command:
the same instruction with the same predicate, descriptors and other operands. So no operand is dropped from an
encoding and no two instructions share one. (04 Tynil Encoding) -/
def Obligations.TynilWordsAreDistinct : Prop :=
  ∀ (i j : Instr) (c : Fin 48) (w : InsWord), i.word = some (c, w) → j.word = some (c, w) → i = j
end

