-- ==== Sys2Proof/Laws/State.lean ====
section
/-! SUPPORT. What each primitive update of the device writes and what it leaves: one lemma for each field, so that
no proof unfolds a record update. -/

namespace Sys2Proof.Machine

open Sys2Proof

section Updates

variable (d : Dev)

@[simp] theorem Dev.wr_order (f : Fld) (v i j : Nat) : (d.wr f v i j).order = d.order := rfl
@[simp] theorem Dev.wr_acc (f : Fld) (v i j : Nat) : (d.wr f v i j).acc = d.acc := rfl
@[simp] theorem Dev.wr_ctl (f : Fld) (v i j : Nat) : (d.wr f v i j).ctl = d.ctl := rfl
@[simp] theorem Dev.wr_start (f : Fld) (v i j : Nat) : (d.wr f v i j).start = d.start := rfl
@[simp] theorem Dev.wr_sync (f : Fld) (v i j : Nat) : (d.wr f v i j).sync = d.sync := rfl
@[simp] theorem Dev.wr_job (f : Fld) (v i j : Nat) : (d.wr f v i j).job = d.job := rfl
@[simp] theorem Dev.wr_image (f : Fld) (v i j : Nat) : (d.wr f v i j).image = d.image := rfl
@[simp] theorem Dev.wr_frame (f : Fld) (v i j : Nat) : (d.wr f v i j).frame = d.frame := rfl
@[simp] theorem Dev.wr_cores (f : Fld) (v i j : Nat) : (d.wr f v i j).cores = d.cores := rfl
@[simp] theorem Dev.wr_mem (f : Fld) (v i j : Nat) : (d.wr f v i j).mem = d.mem := rfl
@[simp] theorem Dev.wr_sep (f : Fld) (v i j : Nat) : (d.wr f v i j).sep = d.sep := rfl
@[simp] theorem Dev.wr_layerInv (f : Fld) (v i j : Nat) : (d.wr f v i j).layerInv = d.layerInv := rfl
@[simp] theorem Dev.wr_churn (f : Fld) (v i j : Nat) : (d.wr f v i j).churn = d.churn := rfl
@[simp] theorem Dev.wr_pail (f : Fld) (v i j : Nat) : (d.wr f v i j).pail = d.pail := rfl
@[simp] theorem Dev.wr_xch (f : Fld) (v i j : Nat) : (d.wr f v i j).xch = d.xch := rfl
@[simp] theorem Dev.wr_tier (f : Fld) (v i j : Nat) : (d.wr f v i j).tier = d.tier := rfl
@[simp] theorem Dev.wr_gmem (f : Fld) (v i j : Nat) : (d.wr f v i j).gmem = d.gmem := rfl
@[simp] theorem Dev.wr_herd (f : Fld) (v i j : Nat) : (d.wr f v i j).herd = d.herd := rfl
@[simp] theorem Dev.wr_coll (f : Fld) (v i j : Nat) : (d.wr f v i j).coll = d.coll := rfl
@[simp] theorem Dev.wr_fab (f : Fld) (v i j : Nat) : (d.wr f v i j).fab = d.fab := rfl
@[simp] theorem Dev.wr_twin (f : Fld) (v i j : Nat) : (d.wr f v i j).twin = d.twin := rfl
@[simp] theorem Dev.wr_snap (f : Fld) (v i j : Nat) : (d.wr f v i j).snap = d.snap := rfl
@[simp] theorem Dev.wr_sec (f : Fld) (v i j : Nat) : (d.wr f v i j).sec = d.sec := rfl
@[simp] theorem Dev.wr_host (f : Fld) (v i j : Nat) : (d.wr f v i j).host = d.host := rfl
@[simp] theorem Dev.wr_pwr (f : Fld) (v i j : Nat) : (d.wr f v i j).pwr = d.pwr := rfl
@[simp] theorem Dev.wr_out (f : Fld) (v i j : Nat) : (d.wr f v i j).out = d.out := rfl
@[simp] theorem Dev.wr_work (f : Fld) (v i j : Nat) : (d.wr f v i j).work = d.work := rfl
@[simp] theorem Dev.wr_free (f : Fld) (v i j : Nat) : (d.wr f v i j).free = d.free := rfl
@[simp] theorem Dev.wr_rates (f : Fld) (v i j : Nat) : (d.wr f v i j).rates = d.rates := rfl
@[simp] theorem Dev.wr_updated (f : Fld) (v i j : Nat) : (d.wr f v i j).updated = d.updated := rfl

@[simp] theorem Dev.setRunning_order (f : Fld) (v i j : Nat) : (d.setRunning f v i j).order = d.order := rfl
@[simp] theorem Dev.setRunning_regs (f : Fld) (v i j : Nat) : (d.setRunning f v i j).regs = d.regs := rfl
@[simp] theorem Dev.setRunning_ctl (f : Fld) (v i j : Nat) : (d.setRunning f v i j).ctl = d.ctl := rfl
@[simp] theorem Dev.setRunning_start (f : Fld) (v i j : Nat) : (d.setRunning f v i j).start = d.start := rfl
@[simp] theorem Dev.setRunning_sync (f : Fld) (v i j : Nat) : (d.setRunning f v i j).sync = d.sync := rfl
@[simp] theorem Dev.setRunning_job (f : Fld) (v i j : Nat) : (d.setRunning f v i j).job = d.job := rfl
@[simp] theorem Dev.setRunning_image (f : Fld) (v i j : Nat) : (d.setRunning f v i j).image = d.image := rfl
@[simp] theorem Dev.setRunning_frame (f : Fld) (v i j : Nat) : (d.setRunning f v i j).frame = d.frame := rfl
@[simp] theorem Dev.setRunning_cores (f : Fld) (v i j : Nat) : (d.setRunning f v i j).cores = d.cores := rfl
@[simp] theorem Dev.setRunning_mem (f : Fld) (v i j : Nat) : (d.setRunning f v i j).mem = d.mem := rfl
@[simp] theorem Dev.setRunning_sep (f : Fld) (v i j : Nat) : (d.setRunning f v i j).sep = d.sep := rfl
@[simp] theorem Dev.setRunning_layerInv (f : Fld) (v i j : Nat) : (d.setRunning f v i j).layerInv = d.layerInv := rfl
@[simp] theorem Dev.setRunning_churn (f : Fld) (v i j : Nat) : (d.setRunning f v i j).churn = d.churn := rfl
@[simp] theorem Dev.setRunning_pail (f : Fld) (v i j : Nat) : (d.setRunning f v i j).pail = d.pail := rfl
@[simp] theorem Dev.setRunning_xch (f : Fld) (v i j : Nat) : (d.setRunning f v i j).xch = d.xch := rfl
@[simp] theorem Dev.setRunning_tier (f : Fld) (v i j : Nat) : (d.setRunning f v i j).tier = d.tier := rfl
@[simp] theorem Dev.setRunning_gmem (f : Fld) (v i j : Nat) : (d.setRunning f v i j).gmem = d.gmem := rfl
@[simp] theorem Dev.setRunning_herd (f : Fld) (v i j : Nat) : (d.setRunning f v i j).herd = d.herd := rfl
@[simp] theorem Dev.setRunning_coll (f : Fld) (v i j : Nat) : (d.setRunning f v i j).coll = d.coll := rfl
@[simp] theorem Dev.setRunning_fab (f : Fld) (v i j : Nat) : (d.setRunning f v i j).fab = d.fab := rfl
@[simp] theorem Dev.setRunning_twin (f : Fld) (v i j : Nat) : (d.setRunning f v i j).twin = d.twin := rfl
@[simp] theorem Dev.setRunning_snap (f : Fld) (v i j : Nat) : (d.setRunning f v i j).snap = d.snap := rfl
@[simp] theorem Dev.setRunning_sec (f : Fld) (v i j : Nat) : (d.setRunning f v i j).sec = d.sec := rfl
@[simp] theorem Dev.setRunning_host (f : Fld) (v i j : Nat) : (d.setRunning f v i j).host = d.host := rfl
@[simp] theorem Dev.setRunning_pwr (f : Fld) (v i j : Nat) : (d.setRunning f v i j).pwr = d.pwr := rfl
@[simp] theorem Dev.setRunning_out (f : Fld) (v i j : Nat) : (d.setRunning f v i j).out = d.out := rfl
@[simp] theorem Dev.setRunning_work (f : Fld) (v i j : Nat) : (d.setRunning f v i j).work = d.work := rfl
@[simp] theorem Dev.setRunning_free (f : Fld) (v i j : Nat) : (d.setRunning f v i j).free = d.free := rfl
@[simp] theorem Dev.setRunning_rates (f : Fld) (v i j : Nat) : (d.setRunning f v i j).rates = d.rates := rfl
@[simp] theorem Dev.setRunning_updated (f : Fld) (v i j : Nat) : (d.setRunning f v i j).updated = d.updated := rfl

@[simp] theorem Dev.setCore_order (c : Fin 48) (x : Core) : (d.setCore c x).order = d.order := rfl
@[simp] theorem Dev.setCore_regs (c : Fin 48) (x : Core) : (d.setCore c x).regs = d.regs := rfl
@[simp] theorem Dev.setCore_acc (c : Fin 48) (x : Core) : (d.setCore c x).acc = d.acc := rfl
@[simp] theorem Dev.setCore_ctl (c : Fin 48) (x : Core) : (d.setCore c x).ctl = d.ctl := rfl
@[simp] theorem Dev.setCore_start (c : Fin 48) (x : Core) : (d.setCore c x).start = d.start := rfl
@[simp] theorem Dev.setCore_sync (c : Fin 48) (x : Core) : (d.setCore c x).sync = d.sync := rfl
@[simp] theorem Dev.setCore_job (c : Fin 48) (x : Core) : (d.setCore c x).job = d.job := rfl
@[simp] theorem Dev.setCore_image (c : Fin 48) (x : Core) : (d.setCore c x).image = d.image := rfl
@[simp] theorem Dev.setCore_frame (c : Fin 48) (x : Core) : (d.setCore c x).frame = d.frame := rfl
@[simp] theorem Dev.setCore_mem (c : Fin 48) (x : Core) : (d.setCore c x).mem = d.mem := rfl
@[simp] theorem Dev.setCore_sep (c : Fin 48) (x : Core) : (d.setCore c x).sep = d.sep := rfl
@[simp] theorem Dev.setCore_layerInv (c : Fin 48) (x : Core) : (d.setCore c x).layerInv = d.layerInv := rfl
@[simp] theorem Dev.setCore_churn (c : Fin 48) (x : Core) : (d.setCore c x).churn = d.churn := rfl
@[simp] theorem Dev.setCore_pail (c : Fin 48) (x : Core) : (d.setCore c x).pail = d.pail := rfl
@[simp] theorem Dev.setCore_xch (c : Fin 48) (x : Core) : (d.setCore c x).xch = d.xch := rfl
@[simp] theorem Dev.setCore_tier (c : Fin 48) (x : Core) : (d.setCore c x).tier = d.tier := rfl
@[simp] theorem Dev.setCore_gmem (c : Fin 48) (x : Core) : (d.setCore c x).gmem = d.gmem := rfl
@[simp] theorem Dev.setCore_herd (c : Fin 48) (x : Core) : (d.setCore c x).herd = d.herd := rfl
@[simp] theorem Dev.setCore_coll (c : Fin 48) (x : Core) : (d.setCore c x).coll = d.coll := rfl
@[simp] theorem Dev.setCore_fab (c : Fin 48) (x : Core) : (d.setCore c x).fab = d.fab := rfl
@[simp] theorem Dev.setCore_twin (c : Fin 48) (x : Core) : (d.setCore c x).twin = d.twin := rfl
@[simp] theorem Dev.setCore_snap (c : Fin 48) (x : Core) : (d.setCore c x).snap = d.snap := rfl
@[simp] theorem Dev.setCore_sec (c : Fin 48) (x : Core) : (d.setCore c x).sec = d.sec := rfl
@[simp] theorem Dev.setCore_host (c : Fin 48) (x : Core) : (d.setCore c x).host = d.host := rfl
@[simp] theorem Dev.setCore_pwr (c : Fin 48) (x : Core) : (d.setCore c x).pwr = d.pwr := rfl
@[simp] theorem Dev.setCore_out (c : Fin 48) (x : Core) : (d.setCore c x).out = d.out := rfl
@[simp] theorem Dev.setCore_work (c : Fin 48) (x : Core) : (d.setCore c x).work = d.work := rfl
@[simp] theorem Dev.setCore_free (c : Fin 48) (x : Core) : (d.setCore c x).free = d.free := rfl
@[simp] theorem Dev.setCore_rates (c : Fin 48) (x : Core) : (d.setCore c x).rates = d.rates := rfl
@[simp] theorem Dev.setCore_updated (c : Fin 48) (x : Core) : (d.setCore c x).updated = d.updated := rfl

@[simp] theorem Dev.modCore_order (c : Fin 48) (g : Core → Core) : (d.modCore c g).order = d.order := rfl
@[simp] theorem Dev.modCore_regs (c : Fin 48) (g : Core → Core) : (d.modCore c g).regs = d.regs := rfl
@[simp] theorem Dev.modCore_acc (c : Fin 48) (g : Core → Core) : (d.modCore c g).acc = d.acc := rfl
@[simp] theorem Dev.modCore_ctl (c : Fin 48) (g : Core → Core) : (d.modCore c g).ctl = d.ctl := rfl
@[simp] theorem Dev.modCore_start (c : Fin 48) (g : Core → Core) : (d.modCore c g).start = d.start := rfl
@[simp] theorem Dev.modCore_sync (c : Fin 48) (g : Core → Core) : (d.modCore c g).sync = d.sync := rfl
@[simp] theorem Dev.modCore_job (c : Fin 48) (g : Core → Core) : (d.modCore c g).job = d.job := rfl
@[simp] theorem Dev.modCore_image (c : Fin 48) (g : Core → Core) : (d.modCore c g).image = d.image := rfl
@[simp] theorem Dev.modCore_frame (c : Fin 48) (g : Core → Core) : (d.modCore c g).frame = d.frame := rfl
@[simp] theorem Dev.modCore_mem (c : Fin 48) (g : Core → Core) : (d.modCore c g).mem = d.mem := rfl
@[simp] theorem Dev.modCore_sep (c : Fin 48) (g : Core → Core) : (d.modCore c g).sep = d.sep := rfl
@[simp] theorem Dev.modCore_layerInv (c : Fin 48) (g : Core → Core) : (d.modCore c g).layerInv = d.layerInv := rfl
@[simp] theorem Dev.modCore_churn (c : Fin 48) (g : Core → Core) : (d.modCore c g).churn = d.churn := rfl
@[simp] theorem Dev.modCore_pail (c : Fin 48) (g : Core → Core) : (d.modCore c g).pail = d.pail := rfl
@[simp] theorem Dev.modCore_xch (c : Fin 48) (g : Core → Core) : (d.modCore c g).xch = d.xch := rfl
@[simp] theorem Dev.modCore_tier (c : Fin 48) (g : Core → Core) : (d.modCore c g).tier = d.tier := rfl
@[simp] theorem Dev.modCore_gmem (c : Fin 48) (g : Core → Core) : (d.modCore c g).gmem = d.gmem := rfl
@[simp] theorem Dev.modCore_herd (c : Fin 48) (g : Core → Core) : (d.modCore c g).herd = d.herd := rfl
@[simp] theorem Dev.modCore_coll (c : Fin 48) (g : Core → Core) : (d.modCore c g).coll = d.coll := rfl
@[simp] theorem Dev.modCore_fab (c : Fin 48) (g : Core → Core) : (d.modCore c g).fab = d.fab := rfl
@[simp] theorem Dev.modCore_twin (c : Fin 48) (g : Core → Core) : (d.modCore c g).twin = d.twin := rfl
@[simp] theorem Dev.modCore_snap (c : Fin 48) (g : Core → Core) : (d.modCore c g).snap = d.snap := rfl
@[simp] theorem Dev.modCore_sec (c : Fin 48) (g : Core → Core) : (d.modCore c g).sec = d.sec := rfl
@[simp] theorem Dev.modCore_host (c : Fin 48) (g : Core → Core) : (d.modCore c g).host = d.host := rfl
@[simp] theorem Dev.modCore_pwr (c : Fin 48) (g : Core → Core) : (d.modCore c g).pwr = d.pwr := rfl
@[simp] theorem Dev.modCore_out (c : Fin 48) (g : Core → Core) : (d.modCore c g).out = d.out := rfl
@[simp] theorem Dev.modCore_work (c : Fin 48) (g : Core → Core) : (d.modCore c g).work = d.work := rfl
@[simp] theorem Dev.modCore_free (c : Fin 48) (g : Core → Core) : (d.modCore c g).free = d.free := rfl
@[simp] theorem Dev.modCore_rates (c : Fin 48) (g : Core → Core) : (d.modCore c g).rates = d.rates := rfl
@[simp] theorem Dev.modCore_updated (c : Fin 48) (g : Core → Core) : (d.modCore c g).updated = d.updated := rfl

@[simp] theorem Dev.modFrame_order (g : Frame → Frame) : (d.modFrame g).order = d.order := rfl
@[simp] theorem Dev.modFrame_regs (g : Frame → Frame) : (d.modFrame g).regs = d.regs := rfl
@[simp] theorem Dev.modFrame_acc (g : Frame → Frame) : (d.modFrame g).acc = d.acc := rfl
@[simp] theorem Dev.modFrame_ctl (g : Frame → Frame) : (d.modFrame g).ctl = d.ctl := rfl
@[simp] theorem Dev.modFrame_start (g : Frame → Frame) : (d.modFrame g).start = d.start := rfl
@[simp] theorem Dev.modFrame_sync (g : Frame → Frame) : (d.modFrame g).sync = d.sync := rfl
@[simp] theorem Dev.modFrame_job (g : Frame → Frame) : (d.modFrame g).job = d.job := rfl
@[simp] theorem Dev.modFrame_image (g : Frame → Frame) : (d.modFrame g).image = d.image := rfl
@[simp] theorem Dev.modFrame_cores (g : Frame → Frame) : (d.modFrame g).cores = d.cores := rfl
@[simp] theorem Dev.modFrame_mem (g : Frame → Frame) : (d.modFrame g).mem = d.mem := rfl
@[simp] theorem Dev.modFrame_sep (g : Frame → Frame) : (d.modFrame g).sep = d.sep := rfl
@[simp] theorem Dev.modFrame_layerInv (g : Frame → Frame) : (d.modFrame g).layerInv = d.layerInv := rfl
@[simp] theorem Dev.modFrame_churn (g : Frame → Frame) : (d.modFrame g).churn = d.churn := rfl
@[simp] theorem Dev.modFrame_pail (g : Frame → Frame) : (d.modFrame g).pail = d.pail := rfl
@[simp] theorem Dev.modFrame_xch (g : Frame → Frame) : (d.modFrame g).xch = d.xch := rfl
@[simp] theorem Dev.modFrame_tier (g : Frame → Frame) : (d.modFrame g).tier = d.tier := rfl
@[simp] theorem Dev.modFrame_gmem (g : Frame → Frame) : (d.modFrame g).gmem = d.gmem := rfl
@[simp] theorem Dev.modFrame_herd (g : Frame → Frame) : (d.modFrame g).herd = d.herd := rfl
@[simp] theorem Dev.modFrame_coll (g : Frame → Frame) : (d.modFrame g).coll = d.coll := rfl
@[simp] theorem Dev.modFrame_fab (g : Frame → Frame) : (d.modFrame g).fab = d.fab := rfl
@[simp] theorem Dev.modFrame_twin (g : Frame → Frame) : (d.modFrame g).twin = d.twin := rfl
@[simp] theorem Dev.modFrame_snap (g : Frame → Frame) : (d.modFrame g).snap = d.snap := rfl
@[simp] theorem Dev.modFrame_sec (g : Frame → Frame) : (d.modFrame g).sec = d.sec := rfl
@[simp] theorem Dev.modFrame_host (g : Frame → Frame) : (d.modFrame g).host = d.host := rfl
@[simp] theorem Dev.modFrame_pwr (g : Frame → Frame) : (d.modFrame g).pwr = d.pwr := rfl
@[simp] theorem Dev.modFrame_out (g : Frame → Frame) : (d.modFrame g).out = d.out := rfl
@[simp] theorem Dev.modFrame_work (g : Frame → Frame) : (d.modFrame g).work = d.work := rfl
@[simp] theorem Dev.modFrame_free (g : Frame → Frame) : (d.modFrame g).free = d.free := rfl
@[simp] theorem Dev.modFrame_rates (g : Frame → Frame) : (d.modFrame g).rates = d.rates := rfl
@[simp] theorem Dev.modFrame_updated (g : Frame → Frame) : (d.modFrame g).updated = d.updated := rfl

@[simp] theorem Dev.modJob_order (g : Job → Job) : (d.modJob g).order = d.order := rfl
@[simp] theorem Dev.modJob_regs (g : Job → Job) : (d.modJob g).regs = d.regs := rfl
@[simp] theorem Dev.modJob_acc (g : Job → Job) : (d.modJob g).acc = d.acc := rfl
@[simp] theorem Dev.modJob_ctl (g : Job → Job) : (d.modJob g).ctl = d.ctl := rfl
@[simp] theorem Dev.modJob_start (g : Job → Job) : (d.modJob g).start = d.start := rfl
@[simp] theorem Dev.modJob_sync (g : Job → Job) : (d.modJob g).sync = d.sync := rfl
@[simp] theorem Dev.modJob_image (g : Job → Job) : (d.modJob g).image = d.image := rfl
@[simp] theorem Dev.modJob_frame (g : Job → Job) : (d.modJob g).frame = d.frame := rfl
@[simp] theorem Dev.modJob_cores (g : Job → Job) : (d.modJob g).cores = d.cores := rfl
@[simp] theorem Dev.modJob_mem (g : Job → Job) : (d.modJob g).mem = d.mem := rfl
@[simp] theorem Dev.modJob_sep (g : Job → Job) : (d.modJob g).sep = d.sep := rfl
@[simp] theorem Dev.modJob_layerInv (g : Job → Job) : (d.modJob g).layerInv = d.layerInv := rfl
@[simp] theorem Dev.modJob_churn (g : Job → Job) : (d.modJob g).churn = d.churn := rfl
@[simp] theorem Dev.modJob_pail (g : Job → Job) : (d.modJob g).pail = d.pail := rfl
@[simp] theorem Dev.modJob_xch (g : Job → Job) : (d.modJob g).xch = d.xch := rfl
@[simp] theorem Dev.modJob_tier (g : Job → Job) : (d.modJob g).tier = d.tier := rfl
@[simp] theorem Dev.modJob_gmem (g : Job → Job) : (d.modJob g).gmem = d.gmem := rfl
@[simp] theorem Dev.modJob_herd (g : Job → Job) : (d.modJob g).herd = d.herd := rfl
@[simp] theorem Dev.modJob_coll (g : Job → Job) : (d.modJob g).coll = d.coll := rfl
@[simp] theorem Dev.modJob_fab (g : Job → Job) : (d.modJob g).fab = d.fab := rfl
@[simp] theorem Dev.modJob_twin (g : Job → Job) : (d.modJob g).twin = d.twin := rfl
@[simp] theorem Dev.modJob_snap (g : Job → Job) : (d.modJob g).snap = d.snap := rfl
@[simp] theorem Dev.modJob_sec (g : Job → Job) : (d.modJob g).sec = d.sec := rfl
@[simp] theorem Dev.modJob_host (g : Job → Job) : (d.modJob g).host = d.host := rfl
@[simp] theorem Dev.modJob_pwr (g : Job → Job) : (d.modJob g).pwr = d.pwr := rfl
@[simp] theorem Dev.modJob_out (g : Job → Job) : (d.modJob g).out = d.out := rfl
@[simp] theorem Dev.modJob_work (g : Job → Job) : (d.modJob g).work = d.work := rfl
@[simp] theorem Dev.modJob_free (g : Job → Job) : (d.modJob g).free = d.free := rfl
@[simp] theorem Dev.modJob_rates (g : Job → Job) : (d.modJob g).rates = d.rates := rfl
@[simp] theorem Dev.modJob_updated (g : Job → Job) : (d.modJob g).updated = d.updated := rfl

@[simp] theorem Dev.modGmem_order (g : Gmem → Gmem) : (d.modGmem g).order = d.order := rfl
@[simp] theorem Dev.modGmem_regs (g : Gmem → Gmem) : (d.modGmem g).regs = d.regs := rfl
@[simp] theorem Dev.modGmem_acc (g : Gmem → Gmem) : (d.modGmem g).acc = d.acc := rfl
@[simp] theorem Dev.modGmem_ctl (g : Gmem → Gmem) : (d.modGmem g).ctl = d.ctl := rfl
@[simp] theorem Dev.modGmem_start (g : Gmem → Gmem) : (d.modGmem g).start = d.start := rfl
@[simp] theorem Dev.modGmem_sync (g : Gmem → Gmem) : (d.modGmem g).sync = d.sync := rfl
@[simp] theorem Dev.modGmem_job (g : Gmem → Gmem) : (d.modGmem g).job = d.job := rfl
@[simp] theorem Dev.modGmem_image (g : Gmem → Gmem) : (d.modGmem g).image = d.image := rfl
@[simp] theorem Dev.modGmem_frame (g : Gmem → Gmem) : (d.modGmem g).frame = d.frame := rfl
@[simp] theorem Dev.modGmem_cores (g : Gmem → Gmem) : (d.modGmem g).cores = d.cores := rfl
@[simp] theorem Dev.modGmem_mem (g : Gmem → Gmem) : (d.modGmem g).mem = d.mem := rfl
@[simp] theorem Dev.modGmem_sep (g : Gmem → Gmem) : (d.modGmem g).sep = d.sep := rfl
@[simp] theorem Dev.modGmem_layerInv (g : Gmem → Gmem) : (d.modGmem g).layerInv = d.layerInv := rfl
@[simp] theorem Dev.modGmem_churn (g : Gmem → Gmem) : (d.modGmem g).churn = d.churn := rfl
@[simp] theorem Dev.modGmem_pail (g : Gmem → Gmem) : (d.modGmem g).pail = d.pail := rfl
@[simp] theorem Dev.modGmem_xch (g : Gmem → Gmem) : (d.modGmem g).xch = d.xch := rfl
@[simp] theorem Dev.modGmem_tier (g : Gmem → Gmem) : (d.modGmem g).tier = d.tier := rfl
@[simp] theorem Dev.modGmem_herd (g : Gmem → Gmem) : (d.modGmem g).herd = d.herd := rfl
@[simp] theorem Dev.modGmem_coll (g : Gmem → Gmem) : (d.modGmem g).coll = d.coll := rfl
@[simp] theorem Dev.modGmem_fab (g : Gmem → Gmem) : (d.modGmem g).fab = d.fab := rfl
@[simp] theorem Dev.modGmem_twin (g : Gmem → Gmem) : (d.modGmem g).twin = d.twin := rfl
@[simp] theorem Dev.modGmem_snap (g : Gmem → Gmem) : (d.modGmem g).snap = d.snap := rfl
@[simp] theorem Dev.modGmem_sec (g : Gmem → Gmem) : (d.modGmem g).sec = d.sec := rfl
@[simp] theorem Dev.modGmem_host (g : Gmem → Gmem) : (d.modGmem g).host = d.host := rfl
@[simp] theorem Dev.modGmem_pwr (g : Gmem → Gmem) : (d.modGmem g).pwr = d.pwr := rfl
@[simp] theorem Dev.modGmem_out (g : Gmem → Gmem) : (d.modGmem g).out = d.out := rfl
@[simp] theorem Dev.modGmem_work (g : Gmem → Gmem) : (d.modGmem g).work = d.work := rfl
@[simp] theorem Dev.modGmem_free (g : Gmem → Gmem) : (d.modGmem g).free = d.free := rfl
@[simp] theorem Dev.modGmem_rates (g : Gmem → Gmem) : (d.modGmem g).rates = d.rates := rfl
@[simp] theorem Dev.modGmem_updated (g : Gmem → Gmem) : (d.modGmem g).updated = d.updated := rfl

@[simp] theorem Dev.modHerd_order (g : Herd → Herd) : (d.modHerd g).order = d.order := rfl
@[simp] theorem Dev.modHerd_regs (g : Herd → Herd) : (d.modHerd g).regs = d.regs := rfl
@[simp] theorem Dev.modHerd_acc (g : Herd → Herd) : (d.modHerd g).acc = d.acc := rfl
@[simp] theorem Dev.modHerd_ctl (g : Herd → Herd) : (d.modHerd g).ctl = d.ctl := rfl
@[simp] theorem Dev.modHerd_start (g : Herd → Herd) : (d.modHerd g).start = d.start := rfl
@[simp] theorem Dev.modHerd_sync (g : Herd → Herd) : (d.modHerd g).sync = d.sync := rfl
@[simp] theorem Dev.modHerd_job (g : Herd → Herd) : (d.modHerd g).job = d.job := rfl
@[simp] theorem Dev.modHerd_image (g : Herd → Herd) : (d.modHerd g).image = d.image := rfl
@[simp] theorem Dev.modHerd_frame (g : Herd → Herd) : (d.modHerd g).frame = d.frame := rfl
@[simp] theorem Dev.modHerd_cores (g : Herd → Herd) : (d.modHerd g).cores = d.cores := rfl
@[simp] theorem Dev.modHerd_mem (g : Herd → Herd) : (d.modHerd g).mem = d.mem := rfl
@[simp] theorem Dev.modHerd_sep (g : Herd → Herd) : (d.modHerd g).sep = d.sep := rfl
@[simp] theorem Dev.modHerd_layerInv (g : Herd → Herd) : (d.modHerd g).layerInv = d.layerInv := rfl
@[simp] theorem Dev.modHerd_churn (g : Herd → Herd) : (d.modHerd g).churn = d.churn := rfl
@[simp] theorem Dev.modHerd_pail (g : Herd → Herd) : (d.modHerd g).pail = d.pail := rfl
@[simp] theorem Dev.modHerd_xch (g : Herd → Herd) : (d.modHerd g).xch = d.xch := rfl
@[simp] theorem Dev.modHerd_tier (g : Herd → Herd) : (d.modHerd g).tier = d.tier := rfl
@[simp] theorem Dev.modHerd_gmem (g : Herd → Herd) : (d.modHerd g).gmem = d.gmem := rfl
@[simp] theorem Dev.modHerd_coll (g : Herd → Herd) : (d.modHerd g).coll = d.coll := rfl
@[simp] theorem Dev.modHerd_fab (g : Herd → Herd) : (d.modHerd g).fab = d.fab := rfl
@[simp] theorem Dev.modHerd_twin (g : Herd → Herd) : (d.modHerd g).twin = d.twin := rfl
@[simp] theorem Dev.modHerd_snap (g : Herd → Herd) : (d.modHerd g).snap = d.snap := rfl
@[simp] theorem Dev.modHerd_sec (g : Herd → Herd) : (d.modHerd g).sec = d.sec := rfl
@[simp] theorem Dev.modHerd_host (g : Herd → Herd) : (d.modHerd g).host = d.host := rfl
@[simp] theorem Dev.modHerd_pwr (g : Herd → Herd) : (d.modHerd g).pwr = d.pwr := rfl
@[simp] theorem Dev.modHerd_out (g : Herd → Herd) : (d.modHerd g).out = d.out := rfl
@[simp] theorem Dev.modHerd_work (g : Herd → Herd) : (d.modHerd g).work = d.work := rfl
@[simp] theorem Dev.modHerd_free (g : Herd → Herd) : (d.modHerd g).free = d.free := rfl
@[simp] theorem Dev.modHerd_rates (g : Herd → Herd) : (d.modHerd g).rates = d.rates := rfl
@[simp] theorem Dev.modHerd_updated (g : Herd → Herd) : (d.modHerd g).updated = d.updated := rfl

@[simp] theorem Dev.modPwr_order (g : Pwr → Pwr) : (d.modPwr g).order = d.order := rfl
@[simp] theorem Dev.modPwr_regs (g : Pwr → Pwr) : (d.modPwr g).regs = d.regs := rfl
@[simp] theorem Dev.modPwr_acc (g : Pwr → Pwr) : (d.modPwr g).acc = d.acc := rfl
@[simp] theorem Dev.modPwr_ctl (g : Pwr → Pwr) : (d.modPwr g).ctl = d.ctl := rfl
@[simp] theorem Dev.modPwr_start (g : Pwr → Pwr) : (d.modPwr g).start = d.start := rfl
@[simp] theorem Dev.modPwr_sync (g : Pwr → Pwr) : (d.modPwr g).sync = d.sync := rfl
@[simp] theorem Dev.modPwr_job (g : Pwr → Pwr) : (d.modPwr g).job = d.job := rfl
@[simp] theorem Dev.modPwr_image (g : Pwr → Pwr) : (d.modPwr g).image = d.image := rfl
@[simp] theorem Dev.modPwr_frame (g : Pwr → Pwr) : (d.modPwr g).frame = d.frame := rfl
@[simp] theorem Dev.modPwr_cores (g : Pwr → Pwr) : (d.modPwr g).cores = d.cores := rfl
@[simp] theorem Dev.modPwr_mem (g : Pwr → Pwr) : (d.modPwr g).mem = d.mem := rfl
@[simp] theorem Dev.modPwr_sep (g : Pwr → Pwr) : (d.modPwr g).sep = d.sep := rfl
@[simp] theorem Dev.modPwr_layerInv (g : Pwr → Pwr) : (d.modPwr g).layerInv = d.layerInv := rfl
@[simp] theorem Dev.modPwr_churn (g : Pwr → Pwr) : (d.modPwr g).churn = d.churn := rfl
@[simp] theorem Dev.modPwr_pail (g : Pwr → Pwr) : (d.modPwr g).pail = d.pail := rfl
@[simp] theorem Dev.modPwr_xch (g : Pwr → Pwr) : (d.modPwr g).xch = d.xch := rfl
@[simp] theorem Dev.modPwr_tier (g : Pwr → Pwr) : (d.modPwr g).tier = d.tier := rfl
@[simp] theorem Dev.modPwr_gmem (g : Pwr → Pwr) : (d.modPwr g).gmem = d.gmem := rfl
@[simp] theorem Dev.modPwr_herd (g : Pwr → Pwr) : (d.modPwr g).herd = d.herd := rfl
@[simp] theorem Dev.modPwr_coll (g : Pwr → Pwr) : (d.modPwr g).coll = d.coll := rfl
@[simp] theorem Dev.modPwr_fab (g : Pwr → Pwr) : (d.modPwr g).fab = d.fab := rfl
@[simp] theorem Dev.modPwr_twin (g : Pwr → Pwr) : (d.modPwr g).twin = d.twin := rfl
@[simp] theorem Dev.modPwr_snap (g : Pwr → Pwr) : (d.modPwr g).snap = d.snap := rfl
@[simp] theorem Dev.modPwr_sec (g : Pwr → Pwr) : (d.modPwr g).sec = d.sec := rfl
@[simp] theorem Dev.modPwr_host (g : Pwr → Pwr) : (d.modPwr g).host = d.host := rfl
@[simp] theorem Dev.modPwr_out (g : Pwr → Pwr) : (d.modPwr g).out = d.out := rfl
@[simp] theorem Dev.modPwr_work (g : Pwr → Pwr) : (d.modPwr g).work = d.work := rfl
@[simp] theorem Dev.modPwr_free (g : Pwr → Pwr) : (d.modPwr g).free = d.free := rfl
@[simp] theorem Dev.modPwr_rates (g : Pwr → Pwr) : (d.modPwr g).rates = d.rates := rfl
@[simp] theorem Dev.modPwr_updated (g : Pwr → Pwr) : (d.modPwr g).updated = d.updated := rfl

@[simp] theorem Dev.modPort_order (p : Fin 81) (g : Port → Port) : (d.modPort p g).order = d.order := rfl
@[simp] theorem Dev.modPort_regs (p : Fin 81) (g : Port → Port) : (d.modPort p g).regs = d.regs := rfl
@[simp] theorem Dev.modPort_acc (p : Fin 81) (g : Port → Port) : (d.modPort p g).acc = d.acc := rfl
@[simp] theorem Dev.modPort_ctl (p : Fin 81) (g : Port → Port) : (d.modPort p g).ctl = d.ctl := rfl
@[simp] theorem Dev.modPort_start (p : Fin 81) (g : Port → Port) : (d.modPort p g).start = d.start := rfl
@[simp] theorem Dev.modPort_sync (p : Fin 81) (g : Port → Port) : (d.modPort p g).sync = d.sync := rfl
@[simp] theorem Dev.modPort_job (p : Fin 81) (g : Port → Port) : (d.modPort p g).job = d.job := rfl
@[simp] theorem Dev.modPort_image (p : Fin 81) (g : Port → Port) : (d.modPort p g).image = d.image := rfl
@[simp] theorem Dev.modPort_frame (p : Fin 81) (g : Port → Port) : (d.modPort p g).frame = d.frame := rfl
@[simp] theorem Dev.modPort_cores (p : Fin 81) (g : Port → Port) : (d.modPort p g).cores = d.cores := rfl
@[simp] theorem Dev.modPort_mem (p : Fin 81) (g : Port → Port) : (d.modPort p g).mem = d.mem := rfl
@[simp] theorem Dev.modPort_sep (p : Fin 81) (g : Port → Port) : (d.modPort p g).sep = d.sep := rfl
@[simp] theorem Dev.modPort_layerInv (p : Fin 81) (g : Port → Port) : (d.modPort p g).layerInv = d.layerInv := rfl
@[simp] theorem Dev.modPort_churn (p : Fin 81) (g : Port → Port) : (d.modPort p g).churn = d.churn := rfl
@[simp] theorem Dev.modPort_pail (p : Fin 81) (g : Port → Port) : (d.modPort p g).pail = d.pail := rfl
@[simp] theorem Dev.modPort_xch (p : Fin 81) (g : Port → Port) : (d.modPort p g).xch = d.xch := rfl
@[simp] theorem Dev.modPort_tier (p : Fin 81) (g : Port → Port) : (d.modPort p g).tier = d.tier := rfl
@[simp] theorem Dev.modPort_gmem (p : Fin 81) (g : Port → Port) : (d.modPort p g).gmem = d.gmem := rfl
@[simp] theorem Dev.modPort_herd (p : Fin 81) (g : Port → Port) : (d.modPort p g).herd = d.herd := rfl
@[simp] theorem Dev.modPort_coll (p : Fin 81) (g : Port → Port) : (d.modPort p g).coll = d.coll := rfl
@[simp] theorem Dev.modPort_twin (p : Fin 81) (g : Port → Port) : (d.modPort p g).twin = d.twin := rfl
@[simp] theorem Dev.modPort_snap (p : Fin 81) (g : Port → Port) : (d.modPort p g).snap = d.snap := rfl
@[simp] theorem Dev.modPort_sec (p : Fin 81) (g : Port → Port) : (d.modPort p g).sec = d.sec := rfl
@[simp] theorem Dev.modPort_host (p : Fin 81) (g : Port → Port) : (d.modPort p g).host = d.host := rfl
@[simp] theorem Dev.modPort_pwr (p : Fin 81) (g : Port → Port) : (d.modPort p g).pwr = d.pwr := rfl
@[simp] theorem Dev.modPort_out (p : Fin 81) (g : Port → Port) : (d.modPort p g).out = d.out := rfl
@[simp] theorem Dev.modPort_work (p : Fin 81) (g : Port → Port) : (d.modPort p g).work = d.work := rfl
@[simp] theorem Dev.modPort_free (p : Fin 81) (g : Port → Port) : (d.modPort p g).free = d.free := rfl
@[simp] theorem Dev.modPort_rates (p : Fin 81) (g : Port → Port) : (d.modPort p g).rates = d.rates := rfl
@[simp] theorem Dev.modPort_updated (p : Fin 81) (g : Port → Port) : (d.modPort p g).updated = d.updated := rfl

@[simp] theorem Dev.modSep_order (x : Fin 12) (g : SepDie → SepDie) : (d.modSep x g).order = d.order := rfl
@[simp] theorem Dev.modSep_regs (x : Fin 12) (g : SepDie → SepDie) : (d.modSep x g).regs = d.regs := rfl
@[simp] theorem Dev.modSep_acc (x : Fin 12) (g : SepDie → SepDie) : (d.modSep x g).acc = d.acc := rfl
@[simp] theorem Dev.modSep_ctl (x : Fin 12) (g : SepDie → SepDie) : (d.modSep x g).ctl = d.ctl := rfl
@[simp] theorem Dev.modSep_start (x : Fin 12) (g : SepDie → SepDie) : (d.modSep x g).start = d.start := rfl
@[simp] theorem Dev.modSep_sync (x : Fin 12) (g : SepDie → SepDie) : (d.modSep x g).sync = d.sync := rfl
@[simp] theorem Dev.modSep_job (x : Fin 12) (g : SepDie → SepDie) : (d.modSep x g).job = d.job := rfl
@[simp] theorem Dev.modSep_image (x : Fin 12) (g : SepDie → SepDie) : (d.modSep x g).image = d.image := rfl
@[simp] theorem Dev.modSep_frame (x : Fin 12) (g : SepDie → SepDie) : (d.modSep x g).frame = d.frame := rfl
@[simp] theorem Dev.modSep_cores (x : Fin 12) (g : SepDie → SepDie) : (d.modSep x g).cores = d.cores := rfl
@[simp] theorem Dev.modSep_mem (x : Fin 12) (g : SepDie → SepDie) : (d.modSep x g).mem = d.mem := rfl
@[simp] theorem Dev.modSep_layerInv (x : Fin 12) (g : SepDie → SepDie) : (d.modSep x g).layerInv = d.layerInv := rfl
@[simp] theorem Dev.modSep_churn (x : Fin 12) (g : SepDie → SepDie) : (d.modSep x g).churn = d.churn := rfl
@[simp] theorem Dev.modSep_pail (x : Fin 12) (g : SepDie → SepDie) : (d.modSep x g).pail = d.pail := rfl
@[simp] theorem Dev.modSep_xch (x : Fin 12) (g : SepDie → SepDie) : (d.modSep x g).xch = d.xch := rfl
@[simp] theorem Dev.modSep_tier (x : Fin 12) (g : SepDie → SepDie) : (d.modSep x g).tier = d.tier := rfl
@[simp] theorem Dev.modSep_gmem (x : Fin 12) (g : SepDie → SepDie) : (d.modSep x g).gmem = d.gmem := rfl
@[simp] theorem Dev.modSep_herd (x : Fin 12) (g : SepDie → SepDie) : (d.modSep x g).herd = d.herd := rfl
@[simp] theorem Dev.modSep_coll (x : Fin 12) (g : SepDie → SepDie) : (d.modSep x g).coll = d.coll := rfl
@[simp] theorem Dev.modSep_fab (x : Fin 12) (g : SepDie → SepDie) : (d.modSep x g).fab = d.fab := rfl
@[simp] theorem Dev.modSep_twin (x : Fin 12) (g : SepDie → SepDie) : (d.modSep x g).twin = d.twin := rfl
@[simp] theorem Dev.modSep_snap (x : Fin 12) (g : SepDie → SepDie) : (d.modSep x g).snap = d.snap := rfl
@[simp] theorem Dev.modSep_sec (x : Fin 12) (g : SepDie → SepDie) : (d.modSep x g).sec = d.sec := rfl
@[simp] theorem Dev.modSep_host (x : Fin 12) (g : SepDie → SepDie) : (d.modSep x g).host = d.host := rfl
@[simp] theorem Dev.modSep_pwr (x : Fin 12) (g : SepDie → SepDie) : (d.modSep x g).pwr = d.pwr := rfl
@[simp] theorem Dev.modSep_out (x : Fin 12) (g : SepDie → SepDie) : (d.modSep x g).out = d.out := rfl
@[simp] theorem Dev.modSep_work (x : Fin 12) (g : SepDie → SepDie) : (d.modSep x g).work = d.work := rfl
@[simp] theorem Dev.modSep_free (x : Fin 12) (g : SepDie → SepDie) : (d.modSep x g).free = d.free := rfl
@[simp] theorem Dev.modSep_rates (x : Fin 12) (g : SepDie → SepDie) : (d.modSep x g).rates = d.rates := rfl
@[simp] theorem Dev.modSep_updated (x : Fin 12) (g : SepDie → SepDie) : (d.modSep x g).updated = d.updated := rfl

@[simp] theorem Dev.modSnap_order (g : Snap → Snap) : (d.modSnap g).order = d.order := rfl
@[simp] theorem Dev.modSnap_regs (g : Snap → Snap) : (d.modSnap g).regs = d.regs := rfl
@[simp] theorem Dev.modSnap_acc (g : Snap → Snap) : (d.modSnap g).acc = d.acc := rfl
@[simp] theorem Dev.modSnap_ctl (g : Snap → Snap) : (d.modSnap g).ctl = d.ctl := rfl
@[simp] theorem Dev.modSnap_start (g : Snap → Snap) : (d.modSnap g).start = d.start := rfl
@[simp] theorem Dev.modSnap_sync (g : Snap → Snap) : (d.modSnap g).sync = d.sync := rfl
@[simp] theorem Dev.modSnap_job (g : Snap → Snap) : (d.modSnap g).job = d.job := rfl
@[simp] theorem Dev.modSnap_image (g : Snap → Snap) : (d.modSnap g).image = d.image := rfl
@[simp] theorem Dev.modSnap_frame (g : Snap → Snap) : (d.modSnap g).frame = d.frame := rfl
@[simp] theorem Dev.modSnap_cores (g : Snap → Snap) : (d.modSnap g).cores = d.cores := rfl
@[simp] theorem Dev.modSnap_mem (g : Snap → Snap) : (d.modSnap g).mem = d.mem := rfl
@[simp] theorem Dev.modSnap_sep (g : Snap → Snap) : (d.modSnap g).sep = d.sep := rfl
@[simp] theorem Dev.modSnap_layerInv (g : Snap → Snap) : (d.modSnap g).layerInv = d.layerInv := rfl
@[simp] theorem Dev.modSnap_churn (g : Snap → Snap) : (d.modSnap g).churn = d.churn := rfl
@[simp] theorem Dev.modSnap_pail (g : Snap → Snap) : (d.modSnap g).pail = d.pail := rfl
@[simp] theorem Dev.modSnap_xch (g : Snap → Snap) : (d.modSnap g).xch = d.xch := rfl
@[simp] theorem Dev.modSnap_tier (g : Snap → Snap) : (d.modSnap g).tier = d.tier := rfl
@[simp] theorem Dev.modSnap_gmem (g : Snap → Snap) : (d.modSnap g).gmem = d.gmem := rfl
@[simp] theorem Dev.modSnap_herd (g : Snap → Snap) : (d.modSnap g).herd = d.herd := rfl
@[simp] theorem Dev.modSnap_coll (g : Snap → Snap) : (d.modSnap g).coll = d.coll := rfl
@[simp] theorem Dev.modSnap_fab (g : Snap → Snap) : (d.modSnap g).fab = d.fab := rfl
@[simp] theorem Dev.modSnap_twin (g : Snap → Snap) : (d.modSnap g).twin = d.twin := rfl
@[simp] theorem Dev.modSnap_sec (g : Snap → Snap) : (d.modSnap g).sec = d.sec := rfl
@[simp] theorem Dev.modSnap_host (g : Snap → Snap) : (d.modSnap g).host = d.host := rfl
@[simp] theorem Dev.modSnap_pwr (g : Snap → Snap) : (d.modSnap g).pwr = d.pwr := rfl
@[simp] theorem Dev.modSnap_out (g : Snap → Snap) : (d.modSnap g).out = d.out := rfl
@[simp] theorem Dev.modSnap_work (g : Snap → Snap) : (d.modSnap g).work = d.work := rfl
@[simp] theorem Dev.modSnap_free (g : Snap → Snap) : (d.modSnap g).free = d.free := rfl
@[simp] theorem Dev.modSnap_rates (g : Snap → Snap) : (d.modSnap g).rates = d.rates := rfl
@[simp] theorem Dev.modSnap_updated (g : Snap → Snap) : (d.modSnap g).updated = d.updated := rfl

@[simp] theorem Dev.modStart_order (g : Start → Start) : (d.modStart g).order = d.order := rfl
@[simp] theorem Dev.modStart_regs (g : Start → Start) : (d.modStart g).regs = d.regs := rfl
@[simp] theorem Dev.modStart_acc (g : Start → Start) : (d.modStart g).acc = d.acc := rfl
@[simp] theorem Dev.modStart_ctl (g : Start → Start) : (d.modStart g).ctl = d.ctl := rfl
@[simp] theorem Dev.modStart_sync (g : Start → Start) : (d.modStart g).sync = d.sync := rfl
@[simp] theorem Dev.modStart_job (g : Start → Start) : (d.modStart g).job = d.job := rfl
@[simp] theorem Dev.modStart_image (g : Start → Start) : (d.modStart g).image = d.image := rfl
@[simp] theorem Dev.modStart_frame (g : Start → Start) : (d.modStart g).frame = d.frame := rfl
@[simp] theorem Dev.modStart_cores (g : Start → Start) : (d.modStart g).cores = d.cores := rfl
@[simp] theorem Dev.modStart_mem (g : Start → Start) : (d.modStart g).mem = d.mem := rfl
@[simp] theorem Dev.modStart_sep (g : Start → Start) : (d.modStart g).sep = d.sep := rfl
@[simp] theorem Dev.modStart_layerInv (g : Start → Start) : (d.modStart g).layerInv = d.layerInv := rfl
@[simp] theorem Dev.modStart_churn (g : Start → Start) : (d.modStart g).churn = d.churn := rfl
@[simp] theorem Dev.modStart_pail (g : Start → Start) : (d.modStart g).pail = d.pail := rfl
@[simp] theorem Dev.modStart_xch (g : Start → Start) : (d.modStart g).xch = d.xch := rfl
@[simp] theorem Dev.modStart_tier (g : Start → Start) : (d.modStart g).tier = d.tier := rfl
@[simp] theorem Dev.modStart_gmem (g : Start → Start) : (d.modStart g).gmem = d.gmem := rfl
@[simp] theorem Dev.modStart_herd (g : Start → Start) : (d.modStart g).herd = d.herd := rfl
@[simp] theorem Dev.modStart_coll (g : Start → Start) : (d.modStart g).coll = d.coll := rfl
@[simp] theorem Dev.modStart_fab (g : Start → Start) : (d.modStart g).fab = d.fab := rfl
@[simp] theorem Dev.modStart_twin (g : Start → Start) : (d.modStart g).twin = d.twin := rfl
@[simp] theorem Dev.modStart_snap (g : Start → Start) : (d.modStart g).snap = d.snap := rfl
@[simp] theorem Dev.modStart_sec (g : Start → Start) : (d.modStart g).sec = d.sec := rfl
@[simp] theorem Dev.modStart_host (g : Start → Start) : (d.modStart g).host = d.host := rfl
@[simp] theorem Dev.modStart_pwr (g : Start → Start) : (d.modStart g).pwr = d.pwr := rfl
@[simp] theorem Dev.modStart_out (g : Start → Start) : (d.modStart g).out = d.out := rfl
@[simp] theorem Dev.modStart_work (g : Start → Start) : (d.modStart g).work = d.work := rfl
@[simp] theorem Dev.modStart_free (g : Start → Start) : (d.modStart g).free = d.free := rfl
@[simp] theorem Dev.modStart_rates (g : Start → Start) : (d.modStart g).rates = d.rates := rfl
@[simp] theorem Dev.modStart_updated (g : Start → Start) : (d.modStart g).updated = d.updated := rfl

@[simp] theorem Dev.modSec_order (g : Sec → Sec) : (d.modSec g).order = d.order := rfl
@[simp] theorem Dev.modSec_regs (g : Sec → Sec) : (d.modSec g).regs = d.regs := rfl
@[simp] theorem Dev.modSec_acc (g : Sec → Sec) : (d.modSec g).acc = d.acc := rfl
@[simp] theorem Dev.modSec_ctl (g : Sec → Sec) : (d.modSec g).ctl = d.ctl := rfl
@[simp] theorem Dev.modSec_start (g : Sec → Sec) : (d.modSec g).start = d.start := rfl
@[simp] theorem Dev.modSec_sync (g : Sec → Sec) : (d.modSec g).sync = d.sync := rfl
@[simp] theorem Dev.modSec_job (g : Sec → Sec) : (d.modSec g).job = d.job := rfl
@[simp] theorem Dev.modSec_image (g : Sec → Sec) : (d.modSec g).image = d.image := rfl
@[simp] theorem Dev.modSec_frame (g : Sec → Sec) : (d.modSec g).frame = d.frame := rfl
@[simp] theorem Dev.modSec_cores (g : Sec → Sec) : (d.modSec g).cores = d.cores := rfl
@[simp] theorem Dev.modSec_mem (g : Sec → Sec) : (d.modSec g).mem = d.mem := rfl
@[simp] theorem Dev.modSec_sep (g : Sec → Sec) : (d.modSec g).sep = d.sep := rfl
@[simp] theorem Dev.modSec_layerInv (g : Sec → Sec) : (d.modSec g).layerInv = d.layerInv := rfl
@[simp] theorem Dev.modSec_churn (g : Sec → Sec) : (d.modSec g).churn = d.churn := rfl
@[simp] theorem Dev.modSec_pail (g : Sec → Sec) : (d.modSec g).pail = d.pail := rfl
@[simp] theorem Dev.modSec_xch (g : Sec → Sec) : (d.modSec g).xch = d.xch := rfl
@[simp] theorem Dev.modSec_tier (g : Sec → Sec) : (d.modSec g).tier = d.tier := rfl
@[simp] theorem Dev.modSec_gmem (g : Sec → Sec) : (d.modSec g).gmem = d.gmem := rfl
@[simp] theorem Dev.modSec_herd (g : Sec → Sec) : (d.modSec g).herd = d.herd := rfl
@[simp] theorem Dev.modSec_coll (g : Sec → Sec) : (d.modSec g).coll = d.coll := rfl
@[simp] theorem Dev.modSec_fab (g : Sec → Sec) : (d.modSec g).fab = d.fab := rfl
@[simp] theorem Dev.modSec_twin (g : Sec → Sec) : (d.modSec g).twin = d.twin := rfl
@[simp] theorem Dev.modSec_snap (g : Sec → Sec) : (d.modSec g).snap = d.snap := rfl
@[simp] theorem Dev.modSec_host (g : Sec → Sec) : (d.modSec g).host = d.host := rfl
@[simp] theorem Dev.modSec_pwr (g : Sec → Sec) : (d.modSec g).pwr = d.pwr := rfl
@[simp] theorem Dev.modSec_out (g : Sec → Sec) : (d.modSec g).out = d.out := rfl
@[simp] theorem Dev.modSec_work (g : Sec → Sec) : (d.modSec g).work = d.work := rfl
@[simp] theorem Dev.modSec_free (g : Sec → Sec) : (d.modSec g).free = d.free := rfl
@[simp] theorem Dev.modSec_rates (g : Sec → Sec) : (d.modSec g).rates = d.rates := rfl
@[simp] theorem Dev.modSec_updated (g : Sec → Sec) : (d.modSec g).updated = d.updated := rfl

@[simp] theorem Dev.modIf_order (g : HostIf → HostIf) : (d.modIf g).order = d.order := rfl
@[simp] theorem Dev.modIf_regs (g : HostIf → HostIf) : (d.modIf g).regs = d.regs := rfl
@[simp] theorem Dev.modIf_acc (g : HostIf → HostIf) : (d.modIf g).acc = d.acc := rfl
@[simp] theorem Dev.modIf_ctl (g : HostIf → HostIf) : (d.modIf g).ctl = d.ctl := rfl
@[simp] theorem Dev.modIf_start (g : HostIf → HostIf) : (d.modIf g).start = d.start := rfl
@[simp] theorem Dev.modIf_sync (g : HostIf → HostIf) : (d.modIf g).sync = d.sync := rfl
@[simp] theorem Dev.modIf_job (g : HostIf → HostIf) : (d.modIf g).job = d.job := rfl
@[simp] theorem Dev.modIf_image (g : HostIf → HostIf) : (d.modIf g).image = d.image := rfl
@[simp] theorem Dev.modIf_frame (g : HostIf → HostIf) : (d.modIf g).frame = d.frame := rfl
@[simp] theorem Dev.modIf_cores (g : HostIf → HostIf) : (d.modIf g).cores = d.cores := rfl
@[simp] theorem Dev.modIf_mem (g : HostIf → HostIf) : (d.modIf g).mem = d.mem := rfl
@[simp] theorem Dev.modIf_sep (g : HostIf → HostIf) : (d.modIf g).sep = d.sep := rfl
@[simp] theorem Dev.modIf_layerInv (g : HostIf → HostIf) : (d.modIf g).layerInv = d.layerInv := rfl
@[simp] theorem Dev.modIf_churn (g : HostIf → HostIf) : (d.modIf g).churn = d.churn := rfl
@[simp] theorem Dev.modIf_pail (g : HostIf → HostIf) : (d.modIf g).pail = d.pail := rfl
@[simp] theorem Dev.modIf_xch (g : HostIf → HostIf) : (d.modIf g).xch = d.xch := rfl
@[simp] theorem Dev.modIf_tier (g : HostIf → HostIf) : (d.modIf g).tier = d.tier := rfl
@[simp] theorem Dev.modIf_gmem (g : HostIf → HostIf) : (d.modIf g).gmem = d.gmem := rfl
@[simp] theorem Dev.modIf_herd (g : HostIf → HostIf) : (d.modIf g).herd = d.herd := rfl
@[simp] theorem Dev.modIf_coll (g : HostIf → HostIf) : (d.modIf g).coll = d.coll := rfl
@[simp] theorem Dev.modIf_fab (g : HostIf → HostIf) : (d.modIf g).fab = d.fab := rfl
@[simp] theorem Dev.modIf_twin (g : HostIf → HostIf) : (d.modIf g).twin = d.twin := rfl
@[simp] theorem Dev.modIf_snap (g : HostIf → HostIf) : (d.modIf g).snap = d.snap := rfl
@[simp] theorem Dev.modIf_sec (g : HostIf → HostIf) : (d.modIf g).sec = d.sec := rfl
@[simp] theorem Dev.modIf_pwr (g : HostIf → HostIf) : (d.modIf g).pwr = d.pwr := rfl
@[simp] theorem Dev.modIf_out (g : HostIf → HostIf) : (d.modIf g).out = d.out := rfl
@[simp] theorem Dev.modIf_work (g : HostIf → HostIf) : (d.modIf g).work = d.work := rfl
@[simp] theorem Dev.modIf_free (g : HostIf → HostIf) : (d.modIf g).free = d.free := rfl
@[simp] theorem Dev.modIf_rates (g : HostIf → HostIf) : (d.modIf g).rates = d.rates := rfl
@[simp] theorem Dev.modIf_updated (g : HostIf → HostIf) : (d.modIf g).updated = d.updated := rfl

@[simp] theorem Dev.modTier_order (g : Tier → Tier) : (d.modTier g).order = d.order := rfl
@[simp] theorem Dev.modTier_regs (g : Tier → Tier) : (d.modTier g).regs = d.regs := rfl
@[simp] theorem Dev.modTier_acc (g : Tier → Tier) : (d.modTier g).acc = d.acc := rfl
@[simp] theorem Dev.modTier_ctl (g : Tier → Tier) : (d.modTier g).ctl = d.ctl := rfl
@[simp] theorem Dev.modTier_start (g : Tier → Tier) : (d.modTier g).start = d.start := rfl
@[simp] theorem Dev.modTier_sync (g : Tier → Tier) : (d.modTier g).sync = d.sync := rfl
@[simp] theorem Dev.modTier_job (g : Tier → Tier) : (d.modTier g).job = d.job := rfl
@[simp] theorem Dev.modTier_image (g : Tier → Tier) : (d.modTier g).image = d.image := rfl
@[simp] theorem Dev.modTier_frame (g : Tier → Tier) : (d.modTier g).frame = d.frame := rfl
@[simp] theorem Dev.modTier_cores (g : Tier → Tier) : (d.modTier g).cores = d.cores := rfl
@[simp] theorem Dev.modTier_mem (g : Tier → Tier) : (d.modTier g).mem = d.mem := rfl
@[simp] theorem Dev.modTier_sep (g : Tier → Tier) : (d.modTier g).sep = d.sep := rfl
@[simp] theorem Dev.modTier_layerInv (g : Tier → Tier) : (d.modTier g).layerInv = d.layerInv := rfl
@[simp] theorem Dev.modTier_churn (g : Tier → Tier) : (d.modTier g).churn = d.churn := rfl
@[simp] theorem Dev.modTier_pail (g : Tier → Tier) : (d.modTier g).pail = d.pail := rfl
@[simp] theorem Dev.modTier_xch (g : Tier → Tier) : (d.modTier g).xch = d.xch := rfl
@[simp] theorem Dev.modTier_gmem (g : Tier → Tier) : (d.modTier g).gmem = d.gmem := rfl
@[simp] theorem Dev.modTier_herd (g : Tier → Tier) : (d.modTier g).herd = d.herd := rfl
@[simp] theorem Dev.modTier_coll (g : Tier → Tier) : (d.modTier g).coll = d.coll := rfl
@[simp] theorem Dev.modTier_fab (g : Tier → Tier) : (d.modTier g).fab = d.fab := rfl
@[simp] theorem Dev.modTier_twin (g : Tier → Tier) : (d.modTier g).twin = d.twin := rfl
@[simp] theorem Dev.modTier_snap (g : Tier → Tier) : (d.modTier g).snap = d.snap := rfl
@[simp] theorem Dev.modTier_sec (g : Tier → Tier) : (d.modTier g).sec = d.sec := rfl
@[simp] theorem Dev.modTier_host (g : Tier → Tier) : (d.modTier g).host = d.host := rfl
@[simp] theorem Dev.modTier_pwr (g : Tier → Tier) : (d.modTier g).pwr = d.pwr := rfl
@[simp] theorem Dev.modTier_out (g : Tier → Tier) : (d.modTier g).out = d.out := rfl
@[simp] theorem Dev.modTier_work (g : Tier → Tier) : (d.modTier g).work = d.work := rfl
@[simp] theorem Dev.modTier_free (g : Tier → Tier) : (d.modTier g).free = d.free := rfl
@[simp] theorem Dev.modTier_rates (g : Tier → Tier) : (d.modTier g).rates = d.rates := rfl
@[simp] theorem Dev.modTier_updated (g : Tier → Tier) : (d.modTier g).updated = d.updated := rfl

@[simp] theorem Dev.modTwin_order (g : Twin → Twin) : (d.modTwin g).order = d.order := rfl
@[simp] theorem Dev.modTwin_regs (g : Twin → Twin) : (d.modTwin g).regs = d.regs := rfl
@[simp] theorem Dev.modTwin_acc (g : Twin → Twin) : (d.modTwin g).acc = d.acc := rfl
@[simp] theorem Dev.modTwin_ctl (g : Twin → Twin) : (d.modTwin g).ctl = d.ctl := rfl
@[simp] theorem Dev.modTwin_start (g : Twin → Twin) : (d.modTwin g).start = d.start := rfl
@[simp] theorem Dev.modTwin_sync (g : Twin → Twin) : (d.modTwin g).sync = d.sync := rfl
@[simp] theorem Dev.modTwin_job (g : Twin → Twin) : (d.modTwin g).job = d.job := rfl
@[simp] theorem Dev.modTwin_image (g : Twin → Twin) : (d.modTwin g).image = d.image := rfl
@[simp] theorem Dev.modTwin_frame (g : Twin → Twin) : (d.modTwin g).frame = d.frame := rfl
@[simp] theorem Dev.modTwin_cores (g : Twin → Twin) : (d.modTwin g).cores = d.cores := rfl
@[simp] theorem Dev.modTwin_mem (g : Twin → Twin) : (d.modTwin g).mem = d.mem := rfl
@[simp] theorem Dev.modTwin_sep (g : Twin → Twin) : (d.modTwin g).sep = d.sep := rfl
@[simp] theorem Dev.modTwin_layerInv (g : Twin → Twin) : (d.modTwin g).layerInv = d.layerInv := rfl
@[simp] theorem Dev.modTwin_churn (g : Twin → Twin) : (d.modTwin g).churn = d.churn := rfl
@[simp] theorem Dev.modTwin_pail (g : Twin → Twin) : (d.modTwin g).pail = d.pail := rfl
@[simp] theorem Dev.modTwin_xch (g : Twin → Twin) : (d.modTwin g).xch = d.xch := rfl
@[simp] theorem Dev.modTwin_tier (g : Twin → Twin) : (d.modTwin g).tier = d.tier := rfl
@[simp] theorem Dev.modTwin_gmem (g : Twin → Twin) : (d.modTwin g).gmem = d.gmem := rfl
@[simp] theorem Dev.modTwin_herd (g : Twin → Twin) : (d.modTwin g).herd = d.herd := rfl
@[simp] theorem Dev.modTwin_coll (g : Twin → Twin) : (d.modTwin g).coll = d.coll := rfl
@[simp] theorem Dev.modTwin_fab (g : Twin → Twin) : (d.modTwin g).fab = d.fab := rfl
@[simp] theorem Dev.modTwin_snap (g : Twin → Twin) : (d.modTwin g).snap = d.snap := rfl
@[simp] theorem Dev.modTwin_sec (g : Twin → Twin) : (d.modTwin g).sec = d.sec := rfl
@[simp] theorem Dev.modTwin_host (g : Twin → Twin) : (d.modTwin g).host = d.host := rfl
@[simp] theorem Dev.modTwin_pwr (g : Twin → Twin) : (d.modTwin g).pwr = d.pwr := rfl
@[simp] theorem Dev.modTwin_out (g : Twin → Twin) : (d.modTwin g).out = d.out := rfl
@[simp] theorem Dev.modTwin_work (g : Twin → Twin) : (d.modTwin g).work = d.work := rfl
@[simp] theorem Dev.modTwin_free (g : Twin → Twin) : (d.modTwin g).free = d.free := rfl
@[simp] theorem Dev.modTwin_rates (g : Twin → Twin) : (d.modTwin g).rates = d.rates := rfl
@[simp] theorem Dev.modTwin_updated (g : Twin → Twin) : (d.modTwin g).updated = d.updated := rfl

@[simp] theorem Dev.modXch_order (g : Xch → Xch) : (d.modXch g).order = d.order := rfl
@[simp] theorem Dev.modXch_regs (g : Xch → Xch) : (d.modXch g).regs = d.regs := rfl
@[simp] theorem Dev.modXch_acc (g : Xch → Xch) : (d.modXch g).acc = d.acc := rfl
@[simp] theorem Dev.modXch_ctl (g : Xch → Xch) : (d.modXch g).ctl = d.ctl := rfl
@[simp] theorem Dev.modXch_start (g : Xch → Xch) : (d.modXch g).start = d.start := rfl
@[simp] theorem Dev.modXch_sync (g : Xch → Xch) : (d.modXch g).sync = d.sync := rfl
@[simp] theorem Dev.modXch_job (g : Xch → Xch) : (d.modXch g).job = d.job := rfl
@[simp] theorem Dev.modXch_image (g : Xch → Xch) : (d.modXch g).image = d.image := rfl
@[simp] theorem Dev.modXch_frame (g : Xch → Xch) : (d.modXch g).frame = d.frame := rfl
@[simp] theorem Dev.modXch_cores (g : Xch → Xch) : (d.modXch g).cores = d.cores := rfl
@[simp] theorem Dev.modXch_mem (g : Xch → Xch) : (d.modXch g).mem = d.mem := rfl
@[simp] theorem Dev.modXch_sep (g : Xch → Xch) : (d.modXch g).sep = d.sep := rfl
@[simp] theorem Dev.modXch_layerInv (g : Xch → Xch) : (d.modXch g).layerInv = d.layerInv := rfl
@[simp] theorem Dev.modXch_churn (g : Xch → Xch) : (d.modXch g).churn = d.churn := rfl
@[simp] theorem Dev.modXch_pail (g : Xch → Xch) : (d.modXch g).pail = d.pail := rfl
@[simp] theorem Dev.modXch_tier (g : Xch → Xch) : (d.modXch g).tier = d.tier := rfl
@[simp] theorem Dev.modXch_gmem (g : Xch → Xch) : (d.modXch g).gmem = d.gmem := rfl
@[simp] theorem Dev.modXch_herd (g : Xch → Xch) : (d.modXch g).herd = d.herd := rfl
@[simp] theorem Dev.modXch_coll (g : Xch → Xch) : (d.modXch g).coll = d.coll := rfl
@[simp] theorem Dev.modXch_fab (g : Xch → Xch) : (d.modXch g).fab = d.fab := rfl
@[simp] theorem Dev.modXch_twin (g : Xch → Xch) : (d.modXch g).twin = d.twin := rfl
@[simp] theorem Dev.modXch_snap (g : Xch → Xch) : (d.modXch g).snap = d.snap := rfl
@[simp] theorem Dev.modXch_sec (g : Xch → Xch) : (d.modXch g).sec = d.sec := rfl
@[simp] theorem Dev.modXch_host (g : Xch → Xch) : (d.modXch g).host = d.host := rfl
@[simp] theorem Dev.modXch_pwr (g : Xch → Xch) : (d.modXch g).pwr = d.pwr := rfl
@[simp] theorem Dev.modXch_out (g : Xch → Xch) : (d.modXch g).out = d.out := rfl
@[simp] theorem Dev.modXch_work (g : Xch → Xch) : (d.modXch g).work = d.work := rfl
@[simp] theorem Dev.modXch_free (g : Xch → Xch) : (d.modXch g).free = d.free := rfl
@[simp] theorem Dev.modXch_rates (g : Xch → Xch) : (d.modXch g).rates = d.rates := rfl
@[simp] theorem Dev.modXch_updated (g : Xch → Xch) : (d.modXch g).updated = d.updated := rfl

@[simp] theorem Dev.modColl_order (g : Coll → Coll) : (d.modColl g).order = d.order := rfl
@[simp] theorem Dev.modColl_regs (g : Coll → Coll) : (d.modColl g).regs = d.regs := rfl
@[simp] theorem Dev.modColl_acc (g : Coll → Coll) : (d.modColl g).acc = d.acc := rfl
@[simp] theorem Dev.modColl_ctl (g : Coll → Coll) : (d.modColl g).ctl = d.ctl := rfl
@[simp] theorem Dev.modColl_start (g : Coll → Coll) : (d.modColl g).start = d.start := rfl
@[simp] theorem Dev.modColl_sync (g : Coll → Coll) : (d.modColl g).sync = d.sync := rfl
@[simp] theorem Dev.modColl_job (g : Coll → Coll) : (d.modColl g).job = d.job := rfl
@[simp] theorem Dev.modColl_image (g : Coll → Coll) : (d.modColl g).image = d.image := rfl
@[simp] theorem Dev.modColl_frame (g : Coll → Coll) : (d.modColl g).frame = d.frame := rfl
@[simp] theorem Dev.modColl_cores (g : Coll → Coll) : (d.modColl g).cores = d.cores := rfl
@[simp] theorem Dev.modColl_mem (g : Coll → Coll) : (d.modColl g).mem = d.mem := rfl
@[simp] theorem Dev.modColl_sep (g : Coll → Coll) : (d.modColl g).sep = d.sep := rfl
@[simp] theorem Dev.modColl_layerInv (g : Coll → Coll) : (d.modColl g).layerInv = d.layerInv := rfl
@[simp] theorem Dev.modColl_churn (g : Coll → Coll) : (d.modColl g).churn = d.churn := rfl
@[simp] theorem Dev.modColl_pail (g : Coll → Coll) : (d.modColl g).pail = d.pail := rfl
@[simp] theorem Dev.modColl_xch (g : Coll → Coll) : (d.modColl g).xch = d.xch := rfl
@[simp] theorem Dev.modColl_tier (g : Coll → Coll) : (d.modColl g).tier = d.tier := rfl
@[simp] theorem Dev.modColl_gmem (g : Coll → Coll) : (d.modColl g).gmem = d.gmem := rfl
@[simp] theorem Dev.modColl_herd (g : Coll → Coll) : (d.modColl g).herd = d.herd := rfl
@[simp] theorem Dev.modColl_fab (g : Coll → Coll) : (d.modColl g).fab = d.fab := rfl
@[simp] theorem Dev.modColl_twin (g : Coll → Coll) : (d.modColl g).twin = d.twin := rfl
@[simp] theorem Dev.modColl_snap (g : Coll → Coll) : (d.modColl g).snap = d.snap := rfl
@[simp] theorem Dev.modColl_sec (g : Coll → Coll) : (d.modColl g).sec = d.sec := rfl
@[simp] theorem Dev.modColl_host (g : Coll → Coll) : (d.modColl g).host = d.host := rfl
@[simp] theorem Dev.modColl_pwr (g : Coll → Coll) : (d.modColl g).pwr = d.pwr := rfl
@[simp] theorem Dev.modColl_out (g : Coll → Coll) : (d.modColl g).out = d.out := rfl
@[simp] theorem Dev.modColl_work (g : Coll → Coll) : (d.modColl g).work = d.work := rfl
@[simp] theorem Dev.modColl_free (g : Coll → Coll) : (d.modColl g).free = d.free := rfl
@[simp] theorem Dev.modColl_rates (g : Coll → Coll) : (d.modColl g).rates = d.rates := rfl
@[simp] theorem Dev.modColl_updated (g : Coll → Coll) : (d.modColl g).updated = d.updated := rfl

@[simp] theorem Dev.setSync_order (y : Sync) : (d.setSync y).order = d.order := rfl
@[simp] theorem Dev.setSync_regs (y : Sync) : (d.setSync y).regs = d.regs := rfl
@[simp] theorem Dev.setSync_acc (y : Sync) : (d.setSync y).acc = d.acc := rfl
@[simp] theorem Dev.setSync_ctl (y : Sync) : (d.setSync y).ctl = d.ctl := rfl
@[simp] theorem Dev.setSync_start (y : Sync) : (d.setSync y).start = d.start := rfl
@[simp] theorem Dev.setSync_job (y : Sync) : (d.setSync y).job = d.job := rfl
@[simp] theorem Dev.setSync_image (y : Sync) : (d.setSync y).image = d.image := rfl
@[simp] theorem Dev.setSync_frame (y : Sync) : (d.setSync y).frame = d.frame := rfl
@[simp] theorem Dev.setSync_cores (y : Sync) : (d.setSync y).cores = d.cores := rfl
@[simp] theorem Dev.setSync_mem (y : Sync) : (d.setSync y).mem = d.mem := rfl
@[simp] theorem Dev.setSync_sep (y : Sync) : (d.setSync y).sep = d.sep := rfl
@[simp] theorem Dev.setSync_layerInv (y : Sync) : (d.setSync y).layerInv = d.layerInv := rfl
@[simp] theorem Dev.setSync_churn (y : Sync) : (d.setSync y).churn = d.churn := rfl
@[simp] theorem Dev.setSync_pail (y : Sync) : (d.setSync y).pail = d.pail := rfl
@[simp] theorem Dev.setSync_xch (y : Sync) : (d.setSync y).xch = d.xch := rfl
@[simp] theorem Dev.setSync_tier (y : Sync) : (d.setSync y).tier = d.tier := rfl
@[simp] theorem Dev.setSync_gmem (y : Sync) : (d.setSync y).gmem = d.gmem := rfl
@[simp] theorem Dev.setSync_herd (y : Sync) : (d.setSync y).herd = d.herd := rfl
@[simp] theorem Dev.setSync_coll (y : Sync) : (d.setSync y).coll = d.coll := rfl
@[simp] theorem Dev.setSync_fab (y : Sync) : (d.setSync y).fab = d.fab := rfl
@[simp] theorem Dev.setSync_twin (y : Sync) : (d.setSync y).twin = d.twin := rfl
@[simp] theorem Dev.setSync_snap (y : Sync) : (d.setSync y).snap = d.snap := rfl
@[simp] theorem Dev.setSync_sec (y : Sync) : (d.setSync y).sec = d.sec := rfl
@[simp] theorem Dev.setSync_host (y : Sync) : (d.setSync y).host = d.host := rfl
@[simp] theorem Dev.setSync_pwr (y : Sync) : (d.setSync y).pwr = d.pwr := rfl
@[simp] theorem Dev.setSync_out (y : Sync) : (d.setSync y).out = d.out := rfl
@[simp] theorem Dev.setSync_work (y : Sync) : (d.setSync y).work = d.work := rfl
@[simp] theorem Dev.setSync_free (y : Sync) : (d.setSync y).free = d.free := rfl
@[simp] theorem Dev.setSync_rates (y : Sync) : (d.setSync y).rates = d.rates := rfl
@[simp] theorem Dev.setSync_updated (y : Sync) : (d.setSync y).updated = d.updated := rfl

@[simp] theorem Dev.setPail_order (h : Nat) (p : PailState) : (d.setPail h p).order = d.order := rfl
@[simp] theorem Dev.setPail_regs (h : Nat) (p : PailState) : (d.setPail h p).regs = d.regs := rfl
@[simp] theorem Dev.setPail_acc (h : Nat) (p : PailState) : (d.setPail h p).acc = d.acc := rfl
@[simp] theorem Dev.setPail_ctl (h : Nat) (p : PailState) : (d.setPail h p).ctl = d.ctl := rfl
@[simp] theorem Dev.setPail_start (h : Nat) (p : PailState) : (d.setPail h p).start = d.start := rfl
@[simp] theorem Dev.setPail_sync (h : Nat) (p : PailState) : (d.setPail h p).sync = d.sync := rfl
@[simp] theorem Dev.setPail_job (h : Nat) (p : PailState) : (d.setPail h p).job = d.job := rfl
@[simp] theorem Dev.setPail_image (h : Nat) (p : PailState) : (d.setPail h p).image = d.image := rfl
@[simp] theorem Dev.setPail_frame (h : Nat) (p : PailState) : (d.setPail h p).frame = d.frame := rfl
@[simp] theorem Dev.setPail_cores (h : Nat) (p : PailState) : (d.setPail h p).cores = d.cores := rfl
@[simp] theorem Dev.setPail_mem (h : Nat) (p : PailState) : (d.setPail h p).mem = d.mem := rfl
@[simp] theorem Dev.setPail_sep (h : Nat) (p : PailState) : (d.setPail h p).sep = d.sep := rfl
@[simp] theorem Dev.setPail_layerInv (h : Nat) (p : PailState) : (d.setPail h p).layerInv = d.layerInv := rfl
@[simp] theorem Dev.setPail_churn (h : Nat) (p : PailState) : (d.setPail h p).churn = d.churn := rfl
@[simp] theorem Dev.setPail_xch (h : Nat) (p : PailState) : (d.setPail h p).xch = d.xch := rfl
@[simp] theorem Dev.setPail_tier (h : Nat) (p : PailState) : (d.setPail h p).tier = d.tier := rfl
@[simp] theorem Dev.setPail_gmem (h : Nat) (p : PailState) : (d.setPail h p).gmem = d.gmem := rfl
@[simp] theorem Dev.setPail_herd (h : Nat) (p : PailState) : (d.setPail h p).herd = d.herd := rfl
@[simp] theorem Dev.setPail_coll (h : Nat) (p : PailState) : (d.setPail h p).coll = d.coll := rfl
@[simp] theorem Dev.setPail_fab (h : Nat) (p : PailState) : (d.setPail h p).fab = d.fab := rfl
@[simp] theorem Dev.setPail_twin (h : Nat) (p : PailState) : (d.setPail h p).twin = d.twin := rfl
@[simp] theorem Dev.setPail_snap (h : Nat) (p : PailState) : (d.setPail h p).snap = d.snap := rfl
@[simp] theorem Dev.setPail_sec (h : Nat) (p : PailState) : (d.setPail h p).sec = d.sec := rfl
@[simp] theorem Dev.setPail_host (h : Nat) (p : PailState) : (d.setPail h p).host = d.host := rfl
@[simp] theorem Dev.setPail_pwr (h : Nat) (p : PailState) : (d.setPail h p).pwr = d.pwr := rfl
@[simp] theorem Dev.setPail_out (h : Nat) (p : PailState) : (d.setPail h p).out = d.out := rfl
@[simp] theorem Dev.setPail_work (h : Nat) (p : PailState) : (d.setPail h p).work = d.work := rfl
@[simp] theorem Dev.setPail_free (h : Nat) (p : PailState) : (d.setPail h p).free = d.free := rfl
@[simp] theorem Dev.setPail_rates (h : Nat) (p : PailState) : (d.setPail h p).rates = d.rates := rfl
@[simp] theorem Dev.setPail_updated (h : Nat) (p : PailState) : (d.setPail h p).updated = d.updated := rfl

@[simp] theorem Dev.modFrame_frame (g : Frame → Frame) : (d.modFrame g).frame = g d.frame := rfl
@[simp] theorem Dev.modJob_job (g : Job → Job) : (d.modJob g).job = g d.job := rfl
@[simp] theorem Dev.modGmem_gmem (g : Gmem → Gmem) : (d.modGmem g).gmem = g d.gmem := rfl
@[simp] theorem Dev.modHerd_herd (g : Herd → Herd) : (d.modHerd g).herd = g d.herd := rfl
@[simp] theorem Dev.modPwr_pwr (g : Pwr → Pwr) : (d.modPwr g).pwr = g d.pwr := rfl
@[simp] theorem Dev.modSnap_snap (g : Snap → Snap) : (d.modSnap g).snap = g d.snap := rfl
@[simp] theorem Dev.modStart_start (g : Start → Start) : (d.modStart g).start = g d.start := rfl
@[simp] theorem Dev.modSec_sec (g : Sec → Sec) : (d.modSec g).sec = g d.sec := rfl
@[simp] theorem Dev.modIf_host (g : HostIf → HostIf) : (d.modIf g).host = g d.host := rfl
@[simp] theorem Dev.modTier_tier (g : Tier → Tier) : (d.modTier g).tier = g d.tier := rfl
@[simp] theorem Dev.modTwin_twin (g : Twin → Twin) : (d.modTwin g).twin = g d.twin := rfl
@[simp] theorem Dev.modXch_xch (g : Xch → Xch) : (d.modXch g).xch = g d.xch := rfl
@[simp] theorem Dev.modColl_coll (g : Coll → Coll) : (d.modColl g).coll = g d.coll := rfl
@[simp] theorem Dev.setSync_sync (y : Sync) : (d.setSync y).sync = y := rfl
@[simp] theorem Dev.setCore_cores (c : Fin 48) (x : Core) : (d.setCore c x).cores = d.cores.set c x := rfl
@[simp] theorem Dev.modCore_cores (c : Fin 48) (g : Core → Core) : (d.modCore c g).cores = d.cores.set c (g d.cores[c]) := rfl
@[simp] theorem Dev.modPort_ports (p : Fin 81) (g : Port → Port) : (d.modPort p g).fab.ports = d.fab.ports.set p (g d.fab.ports[p]) := rfl
@[simp] theorem Dev.modSep_sep (x : Fin 12) (g : SepDie → SepDie) : (d.modSep x g).sep = d.sep.set x (g d.sep[x]) := rfl

@[simp] theorem Dev.flag_order (f : Fld) (i j : Nat) : (d.flag f i j).order = d.order := rfl
@[simp] theorem Dev.flag_acc (f : Fld) (i j : Nat) : (d.flag f i j).acc = d.acc := rfl
@[simp] theorem Dev.flag_ctl (f : Fld) (i j : Nat) : (d.flag f i j).ctl = d.ctl := rfl
@[simp] theorem Dev.flag_start (f : Fld) (i j : Nat) : (d.flag f i j).start = d.start := rfl
@[simp] theorem Dev.flag_sync (f : Fld) (i j : Nat) : (d.flag f i j).sync = d.sync := rfl
@[simp] theorem Dev.flag_job (f : Fld) (i j : Nat) : (d.flag f i j).job = d.job := rfl
@[simp] theorem Dev.flag_image (f : Fld) (i j : Nat) : (d.flag f i j).image = d.image := rfl
@[simp] theorem Dev.flag_frame (f : Fld) (i j : Nat) : (d.flag f i j).frame = d.frame := rfl
@[simp] theorem Dev.flag_cores (f : Fld) (i j : Nat) : (d.flag f i j).cores = d.cores := rfl
@[simp] theorem Dev.flag_mem (f : Fld) (i j : Nat) : (d.flag f i j).mem = d.mem := rfl
@[simp] theorem Dev.flag_sep (f : Fld) (i j : Nat) : (d.flag f i j).sep = d.sep := rfl
@[simp] theorem Dev.flag_layerInv (f : Fld) (i j : Nat) : (d.flag f i j).layerInv = d.layerInv := rfl
@[simp] theorem Dev.flag_churn (f : Fld) (i j : Nat) : (d.flag f i j).churn = d.churn := rfl
@[simp] theorem Dev.flag_pail (f : Fld) (i j : Nat) : (d.flag f i j).pail = d.pail := rfl
@[simp] theorem Dev.flag_xch (f : Fld) (i j : Nat) : (d.flag f i j).xch = d.xch := rfl
@[simp] theorem Dev.flag_tier (f : Fld) (i j : Nat) : (d.flag f i j).tier = d.tier := rfl
@[simp] theorem Dev.flag_gmem (f : Fld) (i j : Nat) : (d.flag f i j).gmem = d.gmem := rfl
@[simp] theorem Dev.flag_herd (f : Fld) (i j : Nat) : (d.flag f i j).herd = d.herd := rfl
@[simp] theorem Dev.flag_coll (f : Fld) (i j : Nat) : (d.flag f i j).coll = d.coll := rfl
@[simp] theorem Dev.flag_fab (f : Fld) (i j : Nat) : (d.flag f i j).fab = d.fab := rfl
@[simp] theorem Dev.flag_twin (f : Fld) (i j : Nat) : (d.flag f i j).twin = d.twin := rfl
@[simp] theorem Dev.flag_snap (f : Fld) (i j : Nat) : (d.flag f i j).snap = d.snap := rfl
@[simp] theorem Dev.flag_sec (f : Fld) (i j : Nat) : (d.flag f i j).sec = d.sec := rfl
@[simp] theorem Dev.flag_host (f : Fld) (i j : Nat) : (d.flag f i j).host = d.host := rfl
@[simp] theorem Dev.flag_pwr (f : Fld) (i j : Nat) : (d.flag f i j).pwr = d.pwr := rfl
@[simp] theorem Dev.flag_out (f : Fld) (i j : Nat) : (d.flag f i j).out = d.out := rfl
@[simp] theorem Dev.flag_work (f : Fld) (i j : Nat) : (d.flag f i j).work = d.work := rfl
@[simp] theorem Dev.flag_free (f : Fld) (i j : Nat) : (d.flag f i j).free = d.free := rfl
@[simp] theorem Dev.flag_rates (f : Fld) (i j : Nat) : (d.flag f i j).rates = d.rates := rfl
@[simp] theorem Dev.flag_updated (f : Fld) (i j : Nat) : (d.flag f i j).updated =
    (if d.updated.contains (regKey f i j) then d.updated else d.updated ++ [regKey f i j]) := rfl

@[simp] theorem Dev.bump_order (f : Fld) (n i j : Nat) : (d.bump f n i j).order = d.order := rfl
@[simp] theorem Dev.bump_acc (f : Fld) (n i j : Nat) : (d.bump f n i j).acc = d.acc := rfl
@[simp] theorem Dev.bump_ctl (f : Fld) (n i j : Nat) : (d.bump f n i j).ctl = d.ctl := rfl
@[simp] theorem Dev.bump_start (f : Fld) (n i j : Nat) : (d.bump f n i j).start = d.start := rfl
@[simp] theorem Dev.bump_sync (f : Fld) (n i j : Nat) : (d.bump f n i j).sync = d.sync := rfl
@[simp] theorem Dev.bump_job (f : Fld) (n i j : Nat) : (d.bump f n i j).job = d.job := rfl
@[simp] theorem Dev.bump_image (f : Fld) (n i j : Nat) : (d.bump f n i j).image = d.image := rfl
@[simp] theorem Dev.bump_frame (f : Fld) (n i j : Nat) : (d.bump f n i j).frame = d.frame := rfl
@[simp] theorem Dev.bump_cores (f : Fld) (n i j : Nat) : (d.bump f n i j).cores = d.cores := rfl
@[simp] theorem Dev.bump_mem (f : Fld) (n i j : Nat) : (d.bump f n i j).mem = d.mem := rfl
@[simp] theorem Dev.bump_sep (f : Fld) (n i j : Nat) : (d.bump f n i j).sep = d.sep := rfl
@[simp] theorem Dev.bump_layerInv (f : Fld) (n i j : Nat) : (d.bump f n i j).layerInv = d.layerInv := rfl
@[simp] theorem Dev.bump_churn (f : Fld) (n i j : Nat) : (d.bump f n i j).churn = d.churn := rfl
@[simp] theorem Dev.bump_pail (f : Fld) (n i j : Nat) : (d.bump f n i j).pail = d.pail := rfl
@[simp] theorem Dev.bump_xch (f : Fld) (n i j : Nat) : (d.bump f n i j).xch = d.xch := rfl
@[simp] theorem Dev.bump_tier (f : Fld) (n i j : Nat) : (d.bump f n i j).tier = d.tier := rfl
@[simp] theorem Dev.bump_gmem (f : Fld) (n i j : Nat) : (d.bump f n i j).gmem = d.gmem := rfl
@[simp] theorem Dev.bump_herd (f : Fld) (n i j : Nat) : (d.bump f n i j).herd = d.herd := rfl
@[simp] theorem Dev.bump_coll (f : Fld) (n i j : Nat) : (d.bump f n i j).coll = d.coll := rfl
@[simp] theorem Dev.bump_fab (f : Fld) (n i j : Nat) : (d.bump f n i j).fab = d.fab := rfl
@[simp] theorem Dev.bump_twin (f : Fld) (n i j : Nat) : (d.bump f n i j).twin = d.twin := rfl
@[simp] theorem Dev.bump_snap (f : Fld) (n i j : Nat) : (d.bump f n i j).snap = d.snap := rfl
@[simp] theorem Dev.bump_sec (f : Fld) (n i j : Nat) : (d.bump f n i j).sec = d.sec := rfl
@[simp] theorem Dev.bump_host (f : Fld) (n i j : Nat) : (d.bump f n i j).host = d.host := rfl
@[simp] theorem Dev.bump_pwr (f : Fld) (n i j : Nat) : (d.bump f n i j).pwr = d.pwr := rfl
@[simp] theorem Dev.bump_out (f : Fld) (n i j : Nat) : (d.bump f n i j).out = d.out := rfl
@[simp] theorem Dev.bump_work (f : Fld) (n i j : Nat) : (d.bump f n i j).work = d.work := rfl
@[simp] theorem Dev.bump_free (f : Fld) (n i j : Nat) : (d.bump f n i j).free = d.free := rfl
@[simp] theorem Dev.bump_rates (f : Fld) (n i j : Nat) : (d.bump f n i j).rates = d.rates := rfl
@[simp] theorem Dev.bump_updated (f : Fld) (n i j : Nat) : (d.bump f n i j).updated = d.updated := rfl

@[simp] theorem Dev.count_order (f : Fld) (n i j : Nat) : (d.count f n i j).order = d.order := rfl
@[simp] theorem Dev.count_regs (f : Fld) (n i j : Nat) : (d.count f n i j).regs = d.regs := rfl
@[simp] theorem Dev.count_ctl (f : Fld) (n i j : Nat) : (d.count f n i j).ctl = d.ctl := rfl
@[simp] theorem Dev.count_start (f : Fld) (n i j : Nat) : (d.count f n i j).start = d.start := rfl
@[simp] theorem Dev.count_sync (f : Fld) (n i j : Nat) : (d.count f n i j).sync = d.sync := rfl
@[simp] theorem Dev.count_job (f : Fld) (n i j : Nat) : (d.count f n i j).job = d.job := rfl
@[simp] theorem Dev.count_image (f : Fld) (n i j : Nat) : (d.count f n i j).image = d.image := rfl
@[simp] theorem Dev.count_frame (f : Fld) (n i j : Nat) : (d.count f n i j).frame = d.frame := rfl
@[simp] theorem Dev.count_cores (f : Fld) (n i j : Nat) : (d.count f n i j).cores = d.cores := rfl
@[simp] theorem Dev.count_mem (f : Fld) (n i j : Nat) : (d.count f n i j).mem = d.mem := rfl
@[simp] theorem Dev.count_sep (f : Fld) (n i j : Nat) : (d.count f n i j).sep = d.sep := rfl
@[simp] theorem Dev.count_layerInv (f : Fld) (n i j : Nat) : (d.count f n i j).layerInv = d.layerInv := rfl
@[simp] theorem Dev.count_churn (f : Fld) (n i j : Nat) : (d.count f n i j).churn = d.churn := rfl
@[simp] theorem Dev.count_pail (f : Fld) (n i j : Nat) : (d.count f n i j).pail = d.pail := rfl
@[simp] theorem Dev.count_xch (f : Fld) (n i j : Nat) : (d.count f n i j).xch = d.xch := rfl
@[simp] theorem Dev.count_tier (f : Fld) (n i j : Nat) : (d.count f n i j).tier = d.tier := rfl
@[simp] theorem Dev.count_gmem (f : Fld) (n i j : Nat) : (d.count f n i j).gmem = d.gmem := rfl
@[simp] theorem Dev.count_herd (f : Fld) (n i j : Nat) : (d.count f n i j).herd = d.herd := rfl
@[simp] theorem Dev.count_coll (f : Fld) (n i j : Nat) : (d.count f n i j).coll = d.coll := rfl
@[simp] theorem Dev.count_fab (f : Fld) (n i j : Nat) : (d.count f n i j).fab = d.fab := rfl
@[simp] theorem Dev.count_twin (f : Fld) (n i j : Nat) : (d.count f n i j).twin = d.twin := rfl
@[simp] theorem Dev.count_snap (f : Fld) (n i j : Nat) : (d.count f n i j).snap = d.snap := rfl
@[simp] theorem Dev.count_sec (f : Fld) (n i j : Nat) : (d.count f n i j).sec = d.sec := rfl
@[simp] theorem Dev.count_host (f : Fld) (n i j : Nat) : (d.count f n i j).host = d.host := rfl
@[simp] theorem Dev.count_pwr (f : Fld) (n i j : Nat) : (d.count f n i j).pwr = d.pwr := rfl
@[simp] theorem Dev.count_out (f : Fld) (n i j : Nat) : (d.count f n i j).out = d.out := rfl
@[simp] theorem Dev.count_work (f : Fld) (n i j : Nat) : (d.count f n i j).work = d.work := rfl
@[simp] theorem Dev.count_free (f : Fld) (n i j : Nat) : (d.count f n i j).free = d.free := rfl
@[simp] theorem Dev.count_rates (f : Fld) (n i j : Nat) : (d.count f n i j).rates = d.rates := rfl
@[simp] theorem Dev.count_updated (f : Fld) (n i j : Nat) : (d.count f n i j).updated = d.updated := rfl

@[simp] theorem Dev.peak_order (f : Fld) (v i j : Nat) : (d.peak f v i j).order = d.order := rfl
@[simp] theorem Dev.peak_regs (f : Fld) (v i j : Nat) : (d.peak f v i j).regs = d.regs := rfl
@[simp] theorem Dev.peak_ctl (f : Fld) (v i j : Nat) : (d.peak f v i j).ctl = d.ctl := rfl
@[simp] theorem Dev.peak_start (f : Fld) (v i j : Nat) : (d.peak f v i j).start = d.start := rfl
@[simp] theorem Dev.peak_sync (f : Fld) (v i j : Nat) : (d.peak f v i j).sync = d.sync := rfl
@[simp] theorem Dev.peak_job (f : Fld) (v i j : Nat) : (d.peak f v i j).job = d.job := rfl
@[simp] theorem Dev.peak_image (f : Fld) (v i j : Nat) : (d.peak f v i j).image = d.image := rfl
@[simp] theorem Dev.peak_frame (f : Fld) (v i j : Nat) : (d.peak f v i j).frame = d.frame := rfl
@[simp] theorem Dev.peak_cores (f : Fld) (v i j : Nat) : (d.peak f v i j).cores = d.cores := rfl
@[simp] theorem Dev.peak_mem (f : Fld) (v i j : Nat) : (d.peak f v i j).mem = d.mem := rfl
@[simp] theorem Dev.peak_sep (f : Fld) (v i j : Nat) : (d.peak f v i j).sep = d.sep := rfl
@[simp] theorem Dev.peak_layerInv (f : Fld) (v i j : Nat) : (d.peak f v i j).layerInv = d.layerInv := rfl
@[simp] theorem Dev.peak_churn (f : Fld) (v i j : Nat) : (d.peak f v i j).churn = d.churn := rfl
@[simp] theorem Dev.peak_pail (f : Fld) (v i j : Nat) : (d.peak f v i j).pail = d.pail := rfl
@[simp] theorem Dev.peak_xch (f : Fld) (v i j : Nat) : (d.peak f v i j).xch = d.xch := rfl
@[simp] theorem Dev.peak_tier (f : Fld) (v i j : Nat) : (d.peak f v i j).tier = d.tier := rfl
@[simp] theorem Dev.peak_gmem (f : Fld) (v i j : Nat) : (d.peak f v i j).gmem = d.gmem := rfl
@[simp] theorem Dev.peak_herd (f : Fld) (v i j : Nat) : (d.peak f v i j).herd = d.herd := rfl
@[simp] theorem Dev.peak_coll (f : Fld) (v i j : Nat) : (d.peak f v i j).coll = d.coll := rfl
@[simp] theorem Dev.peak_fab (f : Fld) (v i j : Nat) : (d.peak f v i j).fab = d.fab := rfl
@[simp] theorem Dev.peak_twin (f : Fld) (v i j : Nat) : (d.peak f v i j).twin = d.twin := rfl
@[simp] theorem Dev.peak_snap (f : Fld) (v i j : Nat) : (d.peak f v i j).snap = d.snap := rfl
@[simp] theorem Dev.peak_sec (f : Fld) (v i j : Nat) : (d.peak f v i j).sec = d.sec := rfl
@[simp] theorem Dev.peak_host (f : Fld) (v i j : Nat) : (d.peak f v i j).host = d.host := rfl
@[simp] theorem Dev.peak_pwr (f : Fld) (v i j : Nat) : (d.peak f v i j).pwr = d.pwr := rfl
@[simp] theorem Dev.peak_out (f : Fld) (v i j : Nat) : (d.peak f v i j).out = d.out := rfl
@[simp] theorem Dev.peak_work (f : Fld) (v i j : Nat) : (d.peak f v i j).work = d.work := rfl
@[simp] theorem Dev.peak_free (f : Fld) (v i j : Nat) : (d.peak f v i j).free = d.free := rfl
@[simp] theorem Dev.peak_rates (f : Fld) (v i j : Nat) : (d.peak f v i j).rates = d.rates := rfl
@[simp] theorem Dev.peak_updated (f : Fld) (v i j : Nat) : (d.peak f v i j).updated = d.updated := rfl

@[simp] theorem Dev.latch_order (ks : List FldKind) : (d.latch ks).order = d.order := rfl
@[simp] theorem Dev.latch_ctl (ks : List FldKind) : (d.latch ks).ctl = d.ctl := rfl
@[simp] theorem Dev.latch_start (ks : List FldKind) : (d.latch ks).start = d.start := rfl
@[simp] theorem Dev.latch_sync (ks : List FldKind) : (d.latch ks).sync = d.sync := rfl
@[simp] theorem Dev.latch_job (ks : List FldKind) : (d.latch ks).job = d.job := rfl
@[simp] theorem Dev.latch_image (ks : List FldKind) : (d.latch ks).image = d.image := rfl
@[simp] theorem Dev.latch_frame (ks : List FldKind) : (d.latch ks).frame = d.frame := rfl
@[simp] theorem Dev.latch_cores (ks : List FldKind) : (d.latch ks).cores = d.cores := rfl
@[simp] theorem Dev.latch_mem (ks : List FldKind) : (d.latch ks).mem = d.mem := rfl
@[simp] theorem Dev.latch_sep (ks : List FldKind) : (d.latch ks).sep = d.sep := rfl
@[simp] theorem Dev.latch_layerInv (ks : List FldKind) : (d.latch ks).layerInv = d.layerInv := rfl
@[simp] theorem Dev.latch_churn (ks : List FldKind) : (d.latch ks).churn = d.churn := rfl
@[simp] theorem Dev.latch_pail (ks : List FldKind) : (d.latch ks).pail = d.pail := rfl
@[simp] theorem Dev.latch_xch (ks : List FldKind) : (d.latch ks).xch = d.xch := rfl
@[simp] theorem Dev.latch_tier (ks : List FldKind) : (d.latch ks).tier = d.tier := rfl
@[simp] theorem Dev.latch_gmem (ks : List FldKind) : (d.latch ks).gmem = d.gmem := rfl
@[simp] theorem Dev.latch_herd (ks : List FldKind) : (d.latch ks).herd = d.herd := rfl
@[simp] theorem Dev.latch_coll (ks : List FldKind) : (d.latch ks).coll = d.coll := rfl
@[simp] theorem Dev.latch_fab (ks : List FldKind) : (d.latch ks).fab = d.fab := rfl
@[simp] theorem Dev.latch_twin (ks : List FldKind) : (d.latch ks).twin = d.twin := rfl
@[simp] theorem Dev.latch_snap (ks : List FldKind) : (d.latch ks).snap = d.snap := rfl
@[simp] theorem Dev.latch_sec (ks : List FldKind) : (d.latch ks).sec = d.sec := rfl
@[simp] theorem Dev.latch_host (ks : List FldKind) : (d.latch ks).host = d.host := rfl
@[simp] theorem Dev.latch_pwr (ks : List FldKind) : (d.latch ks).pwr = d.pwr := rfl
@[simp] theorem Dev.latch_out (ks : List FldKind) : (d.latch ks).out = d.out := rfl
@[simp] theorem Dev.latch_work (ks : List FldKind) : (d.latch ks).work = d.work := rfl
@[simp] theorem Dev.latch_free (ks : List FldKind) : (d.latch ks).free = d.free := rfl
@[simp] theorem Dev.latch_rates (ks : List FldKind) : (d.latch ks).rates = d.rates := rfl
@[simp] theorem Dev.latch_updated (ks : List FldKind) : (d.latch ks).updated = d.updated := rfl

@[simp] theorem Dev.wr64_order (lo hi : Fld) (v : Nat) : (d.wr64 lo hi v).order = d.order := rfl
@[simp] theorem Dev.wr64_acc (lo hi : Fld) (v : Nat) : (d.wr64 lo hi v).acc = d.acc := rfl
@[simp] theorem Dev.wr64_ctl (lo hi : Fld) (v : Nat) : (d.wr64 lo hi v).ctl = d.ctl := rfl
@[simp] theorem Dev.wr64_start (lo hi : Fld) (v : Nat) : (d.wr64 lo hi v).start = d.start := rfl
@[simp] theorem Dev.wr64_sync (lo hi : Fld) (v : Nat) : (d.wr64 lo hi v).sync = d.sync := rfl
@[simp] theorem Dev.wr64_job (lo hi : Fld) (v : Nat) : (d.wr64 lo hi v).job = d.job := rfl
@[simp] theorem Dev.wr64_image (lo hi : Fld) (v : Nat) : (d.wr64 lo hi v).image = d.image := rfl
@[simp] theorem Dev.wr64_frame (lo hi : Fld) (v : Nat) : (d.wr64 lo hi v).frame = d.frame := rfl
@[simp] theorem Dev.wr64_cores (lo hi : Fld) (v : Nat) : (d.wr64 lo hi v).cores = d.cores := rfl
@[simp] theorem Dev.wr64_mem (lo hi : Fld) (v : Nat) : (d.wr64 lo hi v).mem = d.mem := rfl
@[simp] theorem Dev.wr64_sep (lo hi : Fld) (v : Nat) : (d.wr64 lo hi v).sep = d.sep := rfl
@[simp] theorem Dev.wr64_layerInv (lo hi : Fld) (v : Nat) : (d.wr64 lo hi v).layerInv = d.layerInv := rfl
@[simp] theorem Dev.wr64_churn (lo hi : Fld) (v : Nat) : (d.wr64 lo hi v).churn = d.churn := rfl
@[simp] theorem Dev.wr64_pail (lo hi : Fld) (v : Nat) : (d.wr64 lo hi v).pail = d.pail := rfl
@[simp] theorem Dev.wr64_xch (lo hi : Fld) (v : Nat) : (d.wr64 lo hi v).xch = d.xch := rfl
@[simp] theorem Dev.wr64_tier (lo hi : Fld) (v : Nat) : (d.wr64 lo hi v).tier = d.tier := rfl
@[simp] theorem Dev.wr64_gmem (lo hi : Fld) (v : Nat) : (d.wr64 lo hi v).gmem = d.gmem := rfl
@[simp] theorem Dev.wr64_herd (lo hi : Fld) (v : Nat) : (d.wr64 lo hi v).herd = d.herd := rfl
@[simp] theorem Dev.wr64_coll (lo hi : Fld) (v : Nat) : (d.wr64 lo hi v).coll = d.coll := rfl
@[simp] theorem Dev.wr64_fab (lo hi : Fld) (v : Nat) : (d.wr64 lo hi v).fab = d.fab := rfl
@[simp] theorem Dev.wr64_twin (lo hi : Fld) (v : Nat) : (d.wr64 lo hi v).twin = d.twin := rfl
@[simp] theorem Dev.wr64_snap (lo hi : Fld) (v : Nat) : (d.wr64 lo hi v).snap = d.snap := rfl
@[simp] theorem Dev.wr64_sec (lo hi : Fld) (v : Nat) : (d.wr64 lo hi v).sec = d.sec := rfl
@[simp] theorem Dev.wr64_host (lo hi : Fld) (v : Nat) : (d.wr64 lo hi v).host = d.host := rfl
@[simp] theorem Dev.wr64_pwr (lo hi : Fld) (v : Nat) : (d.wr64 lo hi v).pwr = d.pwr := rfl
@[simp] theorem Dev.wr64_out (lo hi : Fld) (v : Nat) : (d.wr64 lo hi v).out = d.out := rfl
@[simp] theorem Dev.wr64_work (lo hi : Fld) (v : Nat) : (d.wr64 lo hi v).work = d.work := rfl
@[simp] theorem Dev.wr64_free (lo hi : Fld) (v : Nat) : (d.wr64 lo hi v).free = d.free := rfl
@[simp] theorem Dev.wr64_rates (lo hi : Fld) (v : Nat) : (d.wr64 lo hi v).rates = d.rates := rfl
@[simp] theorem Dev.wr64_updated (lo hi : Fld) (v : Nat) : (d.wr64 lo hi v).updated = d.updated := rfl

@[simp] theorem Dev.smbEvent_order (n : Nat) : (d.smbEvent n).order = d.order := rfl
@[simp] theorem Dev.smbEvent_regs (n : Nat) : (d.smbEvent n).regs = d.regs := rfl
@[simp] theorem Dev.smbEvent_acc (n : Nat) : (d.smbEvent n).acc = d.acc := rfl
@[simp] theorem Dev.smbEvent_ctl (n : Nat) : (d.smbEvent n).ctl = d.ctl := rfl
@[simp] theorem Dev.smbEvent_start (n : Nat) : (d.smbEvent n).start = d.start := rfl
@[simp] theorem Dev.smbEvent_sync (n : Nat) : (d.smbEvent n).sync = d.sync := rfl
@[simp] theorem Dev.smbEvent_job (n : Nat) : (d.smbEvent n).job = d.job := rfl
@[simp] theorem Dev.smbEvent_image (n : Nat) : (d.smbEvent n).image = d.image := rfl
@[simp] theorem Dev.smbEvent_frame (n : Nat) : (d.smbEvent n).frame = d.frame := rfl
@[simp] theorem Dev.smbEvent_cores (n : Nat) : (d.smbEvent n).cores = d.cores := rfl
@[simp] theorem Dev.smbEvent_mem (n : Nat) : (d.smbEvent n).mem = d.mem := rfl
@[simp] theorem Dev.smbEvent_sep (n : Nat) : (d.smbEvent n).sep = d.sep := rfl
@[simp] theorem Dev.smbEvent_layerInv (n : Nat) : (d.smbEvent n).layerInv = d.layerInv := rfl
@[simp] theorem Dev.smbEvent_churn (n : Nat) : (d.smbEvent n).churn = d.churn := rfl
@[simp] theorem Dev.smbEvent_pail (n : Nat) : (d.smbEvent n).pail = d.pail := rfl
@[simp] theorem Dev.smbEvent_xch (n : Nat) : (d.smbEvent n).xch = d.xch := rfl
@[simp] theorem Dev.smbEvent_tier (n : Nat) : (d.smbEvent n).tier = d.tier := rfl
@[simp] theorem Dev.smbEvent_gmem (n : Nat) : (d.smbEvent n).gmem = d.gmem := rfl
@[simp] theorem Dev.smbEvent_herd (n : Nat) : (d.smbEvent n).herd = d.herd := rfl
@[simp] theorem Dev.smbEvent_coll (n : Nat) : (d.smbEvent n).coll = d.coll := rfl
@[simp] theorem Dev.smbEvent_fab (n : Nat) : (d.smbEvent n).fab = d.fab := rfl
@[simp] theorem Dev.smbEvent_twin (n : Nat) : (d.smbEvent n).twin = d.twin := rfl
@[simp] theorem Dev.smbEvent_snap (n : Nat) : (d.smbEvent n).snap = d.snap := rfl
@[simp] theorem Dev.smbEvent_sec (n : Nat) : (d.smbEvent n).sec = d.sec := rfl
@[simp] theorem Dev.smbEvent_pwr (n : Nat) : (d.smbEvent n).pwr = d.pwr := rfl
@[simp] theorem Dev.smbEvent_out (n : Nat) : (d.smbEvent n).out = d.out := rfl
@[simp] theorem Dev.smbEvent_work (n : Nat) : (d.smbEvent n).work = d.work := rfl
@[simp] theorem Dev.smbEvent_free (n : Nat) : (d.smbEvent n).free = d.free := rfl
@[simp] theorem Dev.smbEvent_rates (n : Nat) : (d.smbEvent n).rates = d.rates := rfl
@[simp] theorem Dev.smbEvent_updated (n : Nat) : (d.smbEvent n).updated = d.updated := rfl

@[simp] theorem Dev.extend_order (s : Fin 4) (x : List Byte) : (d.extend s x).order = d.order := rfl
@[simp] theorem Dev.extend_regs (s : Fin 4) (x : List Byte) : (d.extend s x).regs = d.regs := rfl
@[simp] theorem Dev.extend_acc (s : Fin 4) (x : List Byte) : (d.extend s x).acc = d.acc := rfl
@[simp] theorem Dev.extend_ctl (s : Fin 4) (x : List Byte) : (d.extend s x).ctl = d.ctl := rfl
@[simp] theorem Dev.extend_start (s : Fin 4) (x : List Byte) : (d.extend s x).start = d.start := rfl
@[simp] theorem Dev.extend_sync (s : Fin 4) (x : List Byte) : (d.extend s x).sync = d.sync := rfl
@[simp] theorem Dev.extend_job (s : Fin 4) (x : List Byte) : (d.extend s x).job = d.job := rfl
@[simp] theorem Dev.extend_image (s : Fin 4) (x : List Byte) : (d.extend s x).image = d.image := rfl
@[simp] theorem Dev.extend_frame (s : Fin 4) (x : List Byte) : (d.extend s x).frame = d.frame := rfl
@[simp] theorem Dev.extend_cores (s : Fin 4) (x : List Byte) : (d.extend s x).cores = d.cores := rfl
@[simp] theorem Dev.extend_mem (s : Fin 4) (x : List Byte) : (d.extend s x).mem = d.mem := rfl
@[simp] theorem Dev.extend_sep (s : Fin 4) (x : List Byte) : (d.extend s x).sep = d.sep := rfl
@[simp] theorem Dev.extend_layerInv (s : Fin 4) (x : List Byte) : (d.extend s x).layerInv = d.layerInv := rfl
@[simp] theorem Dev.extend_churn (s : Fin 4) (x : List Byte) : (d.extend s x).churn = d.churn := rfl
@[simp] theorem Dev.extend_pail (s : Fin 4) (x : List Byte) : (d.extend s x).pail = d.pail := rfl
@[simp] theorem Dev.extend_xch (s : Fin 4) (x : List Byte) : (d.extend s x).xch = d.xch := rfl
@[simp] theorem Dev.extend_tier (s : Fin 4) (x : List Byte) : (d.extend s x).tier = d.tier := rfl
@[simp] theorem Dev.extend_gmem (s : Fin 4) (x : List Byte) : (d.extend s x).gmem = d.gmem := rfl
@[simp] theorem Dev.extend_herd (s : Fin 4) (x : List Byte) : (d.extend s x).herd = d.herd := rfl
@[simp] theorem Dev.extend_coll (s : Fin 4) (x : List Byte) : (d.extend s x).coll = d.coll := rfl
@[simp] theorem Dev.extend_fab (s : Fin 4) (x : List Byte) : (d.extend s x).fab = d.fab := rfl
@[simp] theorem Dev.extend_twin (s : Fin 4) (x : List Byte) : (d.extend s x).twin = d.twin := rfl
@[simp] theorem Dev.extend_snap (s : Fin 4) (x : List Byte) : (d.extend s x).snap = d.snap := rfl
@[simp] theorem Dev.extend_host (s : Fin 4) (x : List Byte) : (d.extend s x).host = d.host := rfl
@[simp] theorem Dev.extend_pwr (s : Fin 4) (x : List Byte) : (d.extend s x).pwr = d.pwr := rfl
@[simp] theorem Dev.extend_out (s : Fin 4) (x : List Byte) : (d.extend s x).out = d.out := rfl
@[simp] theorem Dev.extend_work (s : Fin 4) (x : List Byte) : (d.extend s x).work = d.work := rfl
@[simp] theorem Dev.extend_free (s : Fin 4) (x : List Byte) : (d.extend s x).free = d.free := rfl
@[simp] theorem Dev.extend_rates (s : Fin 4) (x : List Byte) : (d.extend s x).rates = d.rates := rfl
@[simp] theorem Dev.extend_updated (s : Fin 4) (x : List Byte) : (d.extend s x).updated = d.updated := rfl

end Updates

section Time

variable (k : Clock)

@[simp] theorem Clock.setCount_units (t : Nat) : (k.setCount t).units = k.units := rfl
@[simp] theorem Clock.setCount_count (t : Nat) : (k.setCount t).count = t := rfl
@[simp] theorem Clock.setCount_phase (t : Nat) : (k.setCount t).phase = k.phase := rfl
@[simp] theorem Clock.setCount_rate (t : Nat) : (k.setCount t).rate = k.rate := rfl
@[simp] theorem Clock.setRate_units (r : Int) : (k.setRate r).units = k.units := rfl
@[simp] theorem Clock.setRate_count (r : Int) : (k.setRate r).count = k.count := rfl
@[simp] theorem Clock.setRate_phase (r : Int) : (k.setRate r).phase = k.phase := rfl
@[simp] theorem Clock.setRate_rate (r : Int) : (k.setRate r).rate = r := rfl

/-- Waiting for a count leaves the counter at it, or where it was when the count lies behind. -/
theorem Clock.toCount_count (t : Nat) : (k.toCount t).count = max k.count t := by
  unfold Clock.toCount; split <;> simp <;> omega

theorem Pwr.ratio_pos (p : Pwr) (x : Fin 12) : 0 < p.ratio x := by unfold Pwr.ratio; split <;> decide

/-- At the unit at which a die's clock has counted `l`, it has counted `l`, be the die in reduction or not (R478). -/
theorem Pwr.counted_unitAt (p : Pwr) (x : Fin 12) (l : Nat) : p.counted x (p.unitAt x l) = max l p.bases[x].2 := by
  unfold Pwr.counted Pwr.unitAt
  rw [Nat.add_sub_cancel_left, Nat.mul_div_cancel _ (p.ratio_pos x)]
  omega

/-- A change of the dies in reduction loses no arithmetic time: each clock goes on from what it has counted (R478). -/
theorem Pwr.counted_reduce (p : Pwr) (x : Fin 12) (u : Nat) (l : List (Nat × Option Nat)) :
    (p.reduce u l).counted x u = p.counted x u := by
  have hb : (p.reduce u l).bases[x] =
      if p.slow x = l.any (fun r => r.1 = x.val) then p.bases[x] else (u, p.counted x u) := by simp [Pwr.reduce]
  unfold Pwr.counted
  rw [hb]
  split
  · next h =>
    rw [show (p.reduce u l).ratio x = p.ratio x from congrArg (fun b : Bool => if b then 2 else 1) h.symm]
  · simp [Pwr.counted]

end Time

end Sys2Proof.Machine
end

