-- ==== Sys2Proof/Laws/Act.lean ====
section
/-! SUPPORT. What the shared forms of a meaning do: acting on the device, issuing, and writing control space. Each lemma
says it once, so that a proof about a command unfolds that command only. -/

namespace Sys2Proof.Machine

open Sys2Proof

/-! ### Acting on the device -/

@[simp] theorem Dev.sendRaised_same (d : Dev) (k : Clock) : d.sendRaised d.sec.reports k = d := by
  simp [Dev.sendRaised]

/-- Nothing is sent where no report was raised. -/
theorem Dev.sendRaised_of_eq {d : Dev} {old : List Report} (k : Clock) (h : d.sec.reports = old) :
    d.sendRaised old k = d := by
  simp [Dev.sendRaised, h]

theorem State.board_some {s : State} {w : Clock → Clock} {f : Clock → Dev → Option Dev} {d : Dev}
    (h : f (w s.clk) s.dev = some d) :
    s.board w f = .next { s with clk := w s.clk, dev := d.sendRaised s.dev.sec.reports (w s.clk) } := by
  simp [State.board, h]

theorem State.board_none {s : State} {w : Clock → Clock} {f : Clock → Dev → Option Dev}
    (h : f (w s.clk) s.dev = none) : s.board w f = .next s := by
  simp [State.board, h]

/-- Everything that a board command can do: nothing, or the effect of `f` at the time `w` makes. -/
theorem State.board_cases (s : State) (w : Clock → Clock) (f : Clock → Dev → Option Dev) :
    s.board w f = .next s ∨ ∃ d, f (w s.clk) s.dev = some d ∧
      s.board w f = .next { s with clk := w s.clk, dev := d.sendRaised s.dev.sec.reports (w s.clk) } := by
  cases h : f (w s.clk) s.dev with
  | none => exact .inl (State.board_none h)
  | some d => exact .inr ⟨d, rfl, State.board_some h⟩

theorem State.act_some {s : State} {w : Clock → Clock} {f : Clock → Dev → Option Dev} {d : Dev}
    (hc : s.dev.clocked = true) (h : f (w s.clk) s.dev = some d) :
    s.act w f = .next { s with clk := w s.clk, dev := d.sendRaised s.dev.sec.reports (w s.clk) } :=
  State.board_some (by simp [hc, h])

theorem State.act_none {s : State} {w : Clock → Clock} {f : Clock → Dev → Option Dev}
    (h : f (w s.clk) s.dev = none) : s.act w f = .next s :=
  State.board_none (by simp [h])

/-- Without clocks, a command of the device changes nothing. -/
theorem State.act_stopped {s : State} {w : Clock → Clock} {f : Clock → Dev → Option Dev}
    (hc : s.dev.clocked = false) : s.act w f = .next s :=
  State.board_none (by simp [hc])

/-- Everything that a command of the device can do. -/
theorem State.act_cases (s : State) (w : Clock → Clock) (f : Clock → Dev → Option Dev) :
    s.act w f = .next s ∨ ∃ d, s.dev.clocked = true ∧ f (w s.clk) s.dev = some d ∧
      s.act w f = .next { s with clk := w s.clk, dev := d.sendRaised s.dev.sec.reports (w s.clk) } := by
  cases hc : s.dev.clocked with
  | false => exact .inl (State.act_stopped hc)
  | true =>
    cases h : f (w s.clk) s.dev with
    | none => exact .inl (State.act_none h)
    | some d => exact .inr ⟨d, rfl, rfl, State.act_some hc h⟩

theorem State.now_some {s : State} {f : Clock → Dev → Option Dev} {d : Dev}
    (hc : s.dev.clocked = true) (h : f s.clk s.dev = some d) :
    s.now f = .next { s with dev := d.sendRaised s.dev.sec.reports s.clk } :=
  State.act_some (w := id) hc h

theorem State.now_none {s : State} {f : Clock → Dev → Option Dev} (h : f s.clk s.dev = none) : s.now f = .next s :=
  State.act_none (w := id) h

theorem State.now_stopped {s : State} {f : Clock → Dev → Option Dev} (hc : s.dev.clocked = false) :
    s.now f = .next s :=
  State.act_stopped hc

/-- Everything that a command with its own end time can do. -/
theorem State.run_cases (s : State) (f : Clock → Dev → Option (Clock × Dev)) :
    s.run f = .next s ∨ ∃ k d, s.dev.clocked = true ∧ f s.clk s.dev = some (k, d) ∧
      s.run f = .next { s with clk := k, dev := d.sendRaised s.dev.sec.reports k } := by
  unfold State.run
  split_ifs with hc
  · split
    · next k d h => exact .inr ⟨k, d, hc, h, rfl⟩
    · exact .inl rfl
  · exact .inl rfl

theorem State.run_stopped {s : State} {f : Clock → Dev → Option (Clock × Dev)} (hc : s.dev.clocked = false) :
    s.run f = .next s := by
  simp [State.run, hc]

/-! ### Issue -/

/-- A core that goes on raises no fault at the end of its template. -/
theorem Dev.templateEnd_of_goesOn {s : State} {d : Dev} {k : Clock} {c : Fin 48} {y : Core}
    (hy : d.cores[c] = y) (ht : d.template c = s.dev.template c) (h : s.GoesOn c y) : d.templateEnd k c = d := by
  subst hy
  unfold Dev.templateEnd
  rw [ht]
  have : (!d.cores[c].ended && decide (d.cores[c].hold = .none) &&
      decide (d.cores[c].pc ≥ (s.dev.template c).length)) = false := by
    rcases h with h | h | h
    · rw [h]; rfl
    · rw [decide_eq_false h, Bool.and_false]; rfl
    · rw [decide_eq_false (Nat.not_le.mpr h), Bool.and_false]
  simp only [this, Bool.false_eq_true, if_false]

theorem Dev.afterIssue_of_goesOn {s : State} {k : Clock} {c : Fin 48} {y : Core} (h : s.GoesOn c y) :
    s.dev.afterIssue k c y = (s.dev.setCore c y).count .coreSeqIssued 1 c := by
  unfold Dev.afterIssue
  refine Dev.templateEnd_of_goesOn (s := s) (y := y) ?_ rfl h
  simp [Dev.setCore]

/-- Issue of an instruction that executes at issue and whose predicate is on. -/
theorem State.issueSeq_ok {s : State} {c : Fin 48} {w : InsWord} {eff : Clock → Dev → Core → Except Nat Core} {y : Core}
    (hm : s.MayIssue c w) (hp : (s.issuer c).selected (wPsel w) = true)
    (he : eff (s.issueClock c) s.dev (s.issuer c) = .ok y) (hg : s.GoesOn c y.advance) :
    s.issueSeq c w eff = .next (s.issued c y.advance) := by
  unfold State.issueSeq
  rw [State.act_some hm.1 (d := s.dev.afterIssue (s.issueClock c) c y.advance)]
  · rw [Dev.afterIssue_of_goesOn hg, Dev.sendRaised_of_eq _ (by simp)]; rfl
  · have h2 := hm.2
    simp only [State.issueClock, State.issuer] at *
    simp only [h2, hp, he, if_true]

/-- Issue of an instruction whose predicate is off: the sequencer moves on. -/
theorem State.issueSeq_off {s : State} {c : Fin 48} {w : InsWord} {eff : Clock → Dev → Core → Except Nat Core}
    (hm : s.MayIssue c w) (hp : (s.issuer c).selected (wPsel w) = false) (hg : s.GoesOn c (s.issuer c).advance) :
    s.issueSeq c w eff = .next (s.issued c (s.issuer c).advance) := by
  unfold State.issueSeq
  rw [State.act_some hm.1 (d := s.dev.afterIssue (s.issueClock c) c (s.issuer c).advance)]
  · rw [Dev.afterIssue_of_goesOn hg, Dev.sendRaised_of_eq _ (by simp)]; rfl
  · have h2 := hm.2
    simp only [State.issueClock, State.issuer] at *
    simp only [h2, hp, if_true, Bool.false_eq_true, if_false]

/-- Issue of an engine instruction whose checks pass: it enters the queue of its engine. -/
theorem State.issueEng_ok {s : State} {c : Fin 48} {w : InsWord} {e : Eng} {y : Core}
    (hm : s.MayIssue c w) (hp : (s.issuer c).selected (wPsel w) = true) (hi : s.dev.issueCause c (s.issuer c) w = none)
    (hy : y = ((((s.issuer c).mmViews w).sepView w true).push w e true s.dev.frame.number (s.dev.extraTds w)
      (s.dev.collScs w)).advance) (hg : s.GoesOn c y) :
    s.issueEng c w e = .next (s.issued c y) := by
  unfold State.issueEng
  rw [State.act_some hm.1 (d := s.dev.afterIssue (s.issueClock c) c y)]
  · rw [Dev.afterIssue_of_goesOn hg, Dev.sendRaised_of_eq _ (by simp)]; rfl
  · have h2 := hm.2
    simp only [State.issueClock, State.issuer] at *
    simp only [h2, hp, hi, hy, if_true]

/-- Issue of an engine instruction whose predicate is off: it enters its queue without effect. -/
theorem State.issueEng_off {s : State} {c : Fin 48} {w : InsWord} {e : Eng} {y : Core}
    (hm : s.MayIssue c w) (hp : (s.issuer c).selected (wPsel w) = false)
    (hy : y = (((s.issuer c).sepView w false).push w e false s.dev.frame.number []).advance) (hg : s.GoesOn c y) :
    s.issueEng c w e = .next (s.issued c y) := by
  unfold State.issueEng
  rw [State.act_some hm.1 (d := s.dev.afterIssue (s.issueClock c) c y)]
  · rw [Dev.afterIssue_of_goesOn hg, Dev.sendRaised_of_eq _ (by simp)]; rfl
  · have h2 := hm.2
    simp only [State.issueClock, State.issuer] at *
    simp only [h2, hp, hy, if_true, Bool.false_eq_true, if_false]

/-! ### Control space -/

theorem State.write_eq {s : State} {same : Bool} {w : MasterWrite} (hc : s.dev.clocked = true) :
    s.write same w = .next { s with
      clk := s.writeClock w.master same w.page
      dev := (s.dev.masterWrite (s.writeClock w.master same w.page) w).sendRaised s.dev.sec.reports
        (s.writeClock w.master same w.page) } := by
  unfold State.write
  rw [State.act_some hc rfl]
  rfl

end Sys2Proof.Machine
end

