-- ==== Sys2Proof/Laws/Crypto.lean ====
section
/-! SUPPORT. Laws of the cryptography: the length of a hash, and a packet's own MAC verifies. -/

namespace Sys2Proof.Machine

theorem leBytes_size (n v : Nat) : (leBytes n v).length = n := by
  induction n generalizing v with
  | zero => rfl
  | succ n h => simp [leBytes, h]

/-- A round keeps four words in each sequence. -/
theorem ShaSeq.next_length (s : ShaSeq) (k : BitVec 64) (hu : s.upper.length = 4) (hl : s.lower.length = 4) :
    (s.next k).upper.length = 4 ∧ (s.next k).lower.length = 4 := by
  simp [ShaSeq.next, hu, hl]

theorem shaRounds_length (l : List (BitVec 64)) (s : ShaSeq) (hu : s.upper.length = 4) (hl : s.lower.length = 4) :
    (l.foldl ShaSeq.next s).upper.length = 4 ∧ (l.foldl ShaSeq.next s).lower.length = 4 := by
  induction l generalizing s with
  | nil => exact ⟨hu, hl⟩
  | cons a l ih => exact ih _ (ShaSeq.next_length s a hu hl).1 (ShaSeq.next_length s a hu hl).2

theorem shaBlocks_length (l : List (List Byte)) (v : List (BitVec 64)) (h : v.length = 8) :
    (l.foldl shaBlock v).length = 8 := by
  induction l generalizing v with
  | nil => exact h
  | cons b l ih =>
    refine ih _ ?_
    obtain ⟨hu, hl⟩ := shaRounds_length
      (List.zipWith (· + ·) shaK (shaSchedule 64 (((chunksOf 8 16 b).map fun b => BitVec.ofNat 64 (beNat b)).reverse)).reverse)
      ⟨v.take 4, v.drop 4⟩ (by simp [h]) (by simp [h])
    simp only [shaBlock, List.length_zipWith, List.length_append, hu, hl, h]
    rfl

/-- SHA-512 gives 64 bytes. -/
theorem sha512_length (m : List Byte) : (sha512 m).length = 64 := by
  have h := shaBlocks_length (chunksOf 128 ((shaPad m).length / 128) (shaPad m)) shaInit rfl
  unfold sha512
  rw [List.length_flatMap]
  simp [beBytes, leBytes_size, Function.comp_def, h]

theorem macOf_length (p : Packet) (key : List Byte) : (p.macOf key).length = 32 := by
  unfold Packet.macOf hmacSha512
  rw [List.length_take, sha512_length]
  rfl

/-- The MAC stands in bytes 32 to 63 of the payload and leaves its other bytes (R444). -/
theorem sealed_payload (p : Packet) (key : List Byte) (h : 64 ≤ p.payload.length) :
    (p.sealed key).payload.take 32 = p.payload.take 32 ∧ (p.sealed key).payload.drop 64 = p.payload.drop 64 ∧
      ((p.sealed key).payload.drop 32).take 32 = p.macOf key := by
  have hm := macOf_length p key
  have h32 : (p.payload.take 32).length = 32 := by rw [List.length_take]; omega
  have hd : List.drop 32 (p.payload.take 32) = [] := List.drop_eq_nil_of_le (by omega)
  simp only [Packet.sealed, List.append_assoc]
  refine ⟨List.take_left' h32, ?_, ?_⟩
  · rw [List.drop_append, List.drop_append, h32, hm,
      List.drop_eq_nil_of_le (by omega : (p.payload.take 32).length ≤ 64),
      List.drop_eq_nil_of_le (by omega : (p.macOf key).length ≤ 64 - 32)]
    rfl
  · rw [List.drop_left' h32, List.take_left' hm]

/-- A packet of at least one request block, with its MAC put in, verifies under the key (R444). -/
theorem macGood_sealed (p : Packet) (key : List Byte) (h : 64 ≤ p.payload.length) :
    (p.sealed key).macGood key = true := by
  obtain ⟨ht, hd, hm⟩ := sealed_payload p key h
  have hp : macPayload (p.sealed key).payload = macPayload p.payload := by rw [macPayload, ht, hd]; rfl
  have hs : slice (p.sealed key).payload 32 32 = p.macOf key := by
    rw [slice, padTo, hm]
    have := congrArg List.length hm
    rw [macOf_length, List.length_take] at this
    rw [show 32 - (List.drop 32 (p.sealed key).payload).length = 0 by omega]
    simp
  unfold Packet.macGood
  rw [hs, beq_iff_eq]
  unfold Packet.macOf
  rw [hp]
  rfl

/-- The MAC leaves the content of an agent message (R446). -/
theorem agentContent_sealed (p : Packet) (key : List Byte) (h : 64 ≤ p.payload.length) :
    agentContent (p.sealed key) = agentContent p := by
  obtain ⟨ht, hd, -⟩ := sealed_payload p key h
  have h2 : (p.sealed key).payload.take 2 = p.payload.take 2 := by
    have := congrArg (List.take 2) ht
    simpa [List.take_take] using this
  have hl : (p.sealed key).payload.length = p.payload.length := by
    simp [Packet.sealed, macOf_length]; omega
  simp only [agentContent, slice, field, padTo, hd, List.drop_zero, h2, hl]

end Sys2Proof.Machine
end

