-- ==== Sys2Proof/Laws/Send.lean ====
section
/-! SUPPORT. Sending changes the fabric, what has left the device, and counts; nothing else of the device. -/

namespace Sys2Proof.Machine

open Sys2Proof

/-- `e` differs from `d` at most in the fabric, in what has left the device, in running counts and counted work, and in
the reports that wait for an acknowledgement. -/
structure Dev.Sends (d e : Dev) : Prop where
  order : e.order = d.order
  regs : e.regs = d.regs
  ctl : e.ctl = d.ctl
  start : e.start = d.start
  sync : e.sync = d.sync
  job : e.job = d.job
  image : e.image = d.image
  frame : e.frame = d.frame
  cores : e.cores = d.cores
  mem : e.mem = d.mem
  sep : e.sep = d.sep
  layerInv : e.layerInv = d.layerInv
  churn : e.churn = d.churn
  pail : e.pail = d.pail
  xch : e.xch = d.xch
  tier : e.tier = d.tier
  gmem : e.gmem = d.gmem
  herd : e.herd = d.herd
  coll : e.coll = d.coll
  twin : e.twin = d.twin
  snap : e.snap = d.snap
  host : e.host = d.host
  pwr : e.pwr = d.pwr
  free : e.free = d.free
  rates : e.rates = d.rates

theorem Dev.Sends.refl (d : Dev) : d.Sends d := by constructor <;> rfl

theorem Dev.Sends.trans {a b c : Dev} (h : a.Sends b) (g : b.Sends c) : a.Sends c where
  order := g.order.trans h.order
  regs := g.regs.trans h.regs
  ctl := g.ctl.trans h.ctl
  start := g.start.trans h.start
  sync := g.sync.trans h.sync
  job := g.job.trans h.job
  image := g.image.trans h.image
  frame := g.frame.trans h.frame
  cores := g.cores.trans h.cores
  mem := g.mem.trans h.mem
  sep := g.sep.trans h.sep
  layerInv := g.layerInv.trans h.layerInv
  churn := g.churn.trans h.churn
  pail := g.pail.trans h.pail
  xch := g.xch.trans h.xch
  tier := g.tier.trans h.tier
  gmem := g.gmem.trans h.gmem
  herd := g.herd.trans h.herd
  coll := g.coll.trans h.coll
  twin := g.twin.trans h.twin
  snap := g.snap.trans h.snap
  host := g.host.trans h.host
  pwr := g.pwr.trans h.pwr
  free := g.free.trans h.free
  rates := g.rates.trans h.rates

theorem Dev.Sends.rd {d e : Dev} (h : d.Sends e) (f : Fld) (i j : Nat) : e.rd f i j = d.rd f i j := by
  unfold Dev.rd; rw [h.regs]

/-! Each step below continues a device that differs from `a` in what sending changes only. -/

section Steps

variable {a d : Dev} (h : a.Sends d)

include h

theorem Dev.Sends.out (o : OutBox) : a.Sends { d with out := o } := h.trans (by constructor <;> rfl)

theorem Dev.Sends.fab (f : Fab) : a.Sends { d with fab := f } := h.trans (by constructor <;> rfl)

theorem Dev.Sends.sec (x : Sec) : a.Sends { d with sec := x } := h.trans (by constructor <;> rfl)

theorem Dev.Sends.work (x : Sparse Nat) : a.Sends { d with work := x } := h.trans (by constructor <;> rfl)

theorem Dev.Sends.acc (x : RegFile) : a.Sends { d with acc := x } := h.trans (by constructor <;> rfl)

/-- A fold of sending steps sends. -/
theorem Dev.Sends.foldl {α : Type} {f : Dev → α → Dev} (l : List α) (hf : ∀ e x, a.Sends e → a.Sends (f e x)) :
    a.Sends (l.foldl f d) := by
  induction l generalizing d with
  | nil => exact h
  | cons x t ih => exact ih (hf d x h)

theorem Dev.Sends.count (f : Fld) (n i j : Nat) : a.Sends (d.count f n i j) := h.acc _

theorem Dev.Sends.peak (f : Fld) (n i j : Nat) : a.Sends (d.peak f n i j) := h.acc _

theorem Dev.Sends.modPort (p : Fin 81) (f : Port → Port) : a.Sends (d.modPort p f) := h.fab _

theorem Dev.Sends.addWork (x y n : Nat) : a.Sends (d.addWork x y n) := by
  unfold Dev.addWork; split
  · exact h
  · exact h.work _

/-- Bytes that move are only counted. -/
theorem Dev.Sends.carry (s t : Place) (n : Nat) : a.Sends (d.carry s t n) := by
  have port : ∀ (e : Dev) (q : Option Nat), a.Sends e →
      a.Sends (match q with | some p => e.addWork 0x9 p n | none => e) := by
    intro e q g
    cases q with
    | none => exact g
    | some p => exact g.addWork ..
  unfold Dev.carry
  split
  · exact h
  · exact port _ _ (port _ _ (h.foldl _ fun _ _ g => g.addWork ..))

theorem Dev.Sends.dieBuffer (l : Loc) (n : Nat) : a.Sends (d.dieBuffer l n) := by
  cases l with
  | die x => exact h.addWork ..
  | tile _ => exact h
  | hbm => exact h

theorem Dev.Sends.touch (s : Place) (l : Loc) (x n : Nat) : a.Sends (d.touch s l x n) :=
  (h.dieBuffer l n).foldl _ fun _ _ g => g.carry ..

theorem Dev.Sends.touchW (s : Place) (l : Loc) (x n : Nat) : a.Sends (d.touchW s l x n) :=
  (h.dieBuffer l n).foldl _ fun _ _ g => g.carry ..

theorem Dev.Sends.coreShare (c : Fin 48) (l : Loc) (n : Nat) : a.Sends (d.coreShare c l n) := by
  cases l with
  | die x => exact h.addWork ..
  | tile _ => exact h
  | hbm => exact h

theorem Dev.Sends.coreTouch (c : Fin 48) (l : Loc) (x n : Nat) : a.Sends (d.coreTouch c l x n) :=
  (h.coreShare c l n).touch ..

theorem Dev.Sends.coreTouchW (c : Fin 48) (l : Loc) (x n : Nat) : a.Sends (d.coreTouchW c l x n) :=
  (h.coreShare c l n).touchW ..

theorem Dev.Sends.gather (l : List (Place × Nat)) (fd : Nat) : a.Sends (d.gather l fd) :=
  h.foldl _ fun _ _ g => g.carry ..

theorem Dev.Sends.countPort (f : Fld) (n : Nat) (p : Fin 81) : a.Sends (d.countPort f n p) := by
  unfold Dev.countPort; split
  · exact h
  · exact h.count ..

theorem Dev.Sends.countBytes (f : Fld) (unit n i j : Nat) : a.Sends (d.countBytes f unit n i j) :=
  Dev.Sends.count (h.fab _) ..

theorem Dev.Sends.emitBlock (p : Fin 81) (b : LinkBlock) : a.Sends (d.emitBlock p b) := h.out _

theorem Dev.Sends.forgetKey (key : Key) : a.Sends (d.forgetKey key) := h.fab _

theorem Dev.Sends.sendBlock (k : Clock) (p : Fin 81) (kind : Nat) (b : List Byte) : a.Sends (d.sendBlock k p kind b) :=
  (h.out _).modPort ..

theorem Dev.Sends.idleBlocks (k : Clock) (p : Fin 81) (n : Nat) : a.Sends (Dev.idleBlocks k p n d) := by
  induction n generalizing d with
  | zero => exact h
  | succ n ih =>
    unfold Dev.idleBlocks
    split
    · exact ih (h.sendBlock ..)
    · exact h

theorem Dev.Sends.tell (k : Clock) (p : Fin 81) : a.Sends (d.tell k p) := by
  unfold Dev.tell
  dsimp only
  split
  · exact h.idleBlocks ..
  · exact h

theorem Dev.Sends.freeBuffer (k : Clock) (i : QPacket) : a.Sends (d.freeBuffer k i) := by
  unfold Dev.freeBuffer; split
  · exact h
  · exact (h.modPort ..).tell ..

theorem Dev.Sends.sendHead (k : Clock) (p : Fin 81) (v : Nat) : a.Sends (d.sendHead k p v) := by
  unfold Dev.sendHead
  dsimp only
  split
  · exact h
  · next i _ =>
    split
    · exact (Dev.Sends.out ((h.modPort ..).freeBuffer k i) _).addWork ..
    · refine Dev.Sends.countBytes (Dev.Sends.count ?_ ..) ..
      split
      · exact Dev.Sends.out ((h.modPort ..).freeBuffer k i) _
      · exact (Dev.Sends.out ((h.modPort ..).freeBuffer k i) _).addWork ..

theorem Dev.Sends.sendData (k : Clock) (p : Fin 81) : a.Sends (d.sendData k p) := by
  unfold Dev.sendData; exact (h.sendBlock ..).modPort ..

theorem Dev.Sends.pumpLoop (k : Clock) (p : Fin 81) (n : Nat) : a.Sends (Dev.pumpLoop k p n d) := by
  induction n generalizing d with
  | zero => exact h
  | succ n ih =>
    unfold Dev.pumpLoop
    dsimp only
    split
    · exact h
    · split
      · exact ih (h.sendData ..)
      · split
        · exact ih (h.sendHead ..)
        · split
          · exact h
          · exact ih (h.sendData ..)

theorem Dev.Sends.pump (k : Clock) (p : Fin 81) : a.Sends (d.pump k p) := by
  unfold Dev.pump
  dsimp only
  split
  · exact ((h.pumpLoop ..).modPort ..).tell ..
  · exact h

theorem Dev.Sends.enqueue (k : Clock) (p : Fin 81) (i : QPacket) : a.Sends (d.enqueue k p i) := (h.modPort ..).pump ..

theorem Dev.Sends.toPort (k : Clock) (i : QPacket) (l : List (Place × Nat)) (o : Fin 81) :
    a.Sends (d.toPort k i l o) := by
  unfold Dev.toPort
  dsimp only
  split
  · exact (h.gather ..).enqueue ..
  · exact h.enqueue ..

theorem Dev.Sends.routePacket (k : Clock) (i : QPacket) (l : List (Place × Nat)) : a.Sends (d.routePacket k i l) := by
  unfold Dev.routePacket
  dsimp only
  split
  · exact (h.fab _).freeBuffer ..
  · split
    · exact (h.count ..).freeBuffer ..
    · split
      · exact (h.count ..).freeBuffer ..
      · exact h.toPort ..

theorem Dev.Sends.arrive (k : Clock) (port : Fin 81) (p : Packet) : a.Sends (d.arrive k port p) := by
  unfold Dev.arrive
  dsimp only
  split
  · exact (h.countBytes ..).routePacket ..
  · exact h.routePacket ..

theorem Dev.Sends.originate (k : Clock) (s : Sending) (twin : Bool) : a.Sends (d.originate k s twin) := by
  have key : ∀ (e : Dev) (p : Packet), a.Sends e → a.Sends
      (if s.dst = e.node then
        { (if e.ownsPacket p then e.gather s.from_ 0 else e) with
          fab := { (if e.ownsPacket p then e.gather s.from_ 0 else e).fab with
            toDeliver := (if e.ownsPacket p then e.gather s.from_ 0 else e).fab.toDeliver ++ [(0, p)] } }
       else if twin then
         match e.usable 0x78 with
         | none => e.count .fabRtNoroute 1 0
         | some o => e.toPort k ⟨p, 0, none, false⟩ s.from_ o
       else e.routePacket k ⟨p, 0, none, false⟩ s.from_) := by
    intro e p g
    split
    · refine Dev.Sends.fab ?_ _
      split
      · exact g.gather ..
      · exact g
    · split
      · split
        · exact g.count ..
        · exact g.toPort ..
      · exact g.routePacket ..
  exact key _ _ (h.fab _)

theorem Dev.Sends.sendOneHop (k : Clock) (p : Fin 81) (op : Nat) (b : List Byte) : a.Sends (d.sendOneHop k p op b) := by
  unfold Dev.sendOneHop
  dsimp only
  split
  · exact h.enqueue ..
  · exact h

theorem Dev.Sends.agentSend (k : Clock) (op : Nat) (b : List Byte) : a.Sends (d.agentSend k op b) := h.originate ..

theorem Dev.Sends.sendReports (k : Clock) : a.Sends (d.sendReports k) := by
  have key : ∀ (l : List Report) (x : Dev × List Report), a.Sends x.1 →
      a.Sends (l.foldl (fun (a : Dev × List Report) r =>
        if r.orders.isEmpty then
          let (e, r) := a.1.sendReport k r
          (e, a.2 ++ [r])
        else (a.1, a.2 ++ [r])) x).1 := by
    intro l
    induction l with
    | nil => intro x hx; exact hx
    | cons r t ih =>
      intro x hx
      rw [List.foldl_cons]
      refine ih _ ?_
      split
      · exact hx.agentSend ..
      · exact hx
  unfold Dev.sendReports
  split
  · exact h
  · exact Dev.Sends.sec (key _ (d, []) h) _

/-- What a command's end sends leaves everything but the fabric, the counts and the waiting reports alone. -/
theorem Dev.Sends.sendRaised (old : List Report) (k : Clock) : a.Sends (d.sendRaised old k) := by
  unfold Dev.sendRaised
  split
  · exact h
  · exact h.sendReports k

end Steps

theorem Dev.sends_sendRaised (d : Dev) (old : List Report) (k : Clock) : d.Sends (d.sendRaised old k) :=
  (Dev.Sends.refl d).sendRaised old k

end Sys2Proof.Machine
end

