-- ==== Sys2Proof/Laws/Memory.lean ====
section
/-! SUPPORT. Laws of sparse data and of the byte memories: a read after a write of the same key gives the value
written, a write leaves every other key alone, and every operation keeps the canonical form. -/

namespace Sys2Proof.Machine

open Sys2Proof

section SparseLaws

variable {α : Type}

@[simp] theorem Sparse.get_insert_same (m : Sparse α) (d v : α) (k : Nat) : (Sparse.insert m k v).get d k = v := by
  induction m with
  | nil => simp [Sparse.insert, Sparse.get]
  | cons e t ih =>
    obtain ⟨a, w⟩ := e
    simp only [Sparse.insert]
    split_ifs with h h'
    · simp [Sparse.get]
    · simp [Sparse.get]
    · simp [Sparse.get, h', ih]

@[simp] theorem Sparse.get_insert_other (m : Sparse α) (d v : α) {k k' : Nat} (h : k' ≠ k) :
    (Sparse.insert m k v).get d k' = m.get d k' := by
  induction m with
  | nil => simp [Sparse.insert, Sparse.get, h.symm]
  | cons e t ih =>
    obtain ⟨a, w⟩ := e
    simp only [Sparse.insert]
    split_ifs with h1 h2
    · simp [Sparse.get, h.symm]
    · subst h2; simp [Sparse.get, h.symm]
    · simp [Sparse.get, ih]

@[simp] theorem Sparse.get_erase_same (m : Sparse α) (d : α) (k : Nat) : (Sparse.erase m k).get d k = d := by
  induction m with
  | nil => rfl
  | cons e t ih =>
    obtain ⟨a, w⟩ := e
    simp only [Sparse.erase]
    split_ifs with h
    · exact ih
    · simp [Sparse.get, h, ih]

@[simp] theorem Sparse.get_erase_other (m : Sparse α) (d : α) {k k' : Nat} (h : k' ≠ k) :
    (Sparse.erase m k).get d k' = m.get d k' := by
  induction m with
  | nil => rfl
  | cons e t ih =>
    obtain ⟨a, w⟩ := e
    simp only [Sparse.erase]
    split_ifs with h1
    · subst h1; simp [Sparse.get, h.symm, ih]
    · simp [Sparse.get, ih]

@[simp] theorem Sparse.get_set_same [DecidableEq α] (m : Sparse α) (d v : α) (k : Nat) :
    (Sparse.set m d k v).get d k = v := by
  unfold Sparse.set; split_ifs with h <;> simp [h]

@[simp] theorem Sparse.get_set_other [DecidableEq α] (m : Sparse α) (d v : α) {k k' : Nat} (h : k' ≠ k) :
    (Sparse.set m d k v).get d k' = m.get d k' := by
  unfold Sparse.set; split_ifs <;> simp [h]

/-! ### The canonical form -/

/-- A weaker bound below the keys. -/
theorem Sparse.rising_weaken {m : Sparse α} {b : Nat} (h : Sparse.rising (some b) m = true) :
    Sparse.rising none m = true := by
  cases m with
  | nil => rfl
  | cons e t => simp [Sparse.rising] at h ⊢; exact h.2

theorem Sparse.rising_lower {m : Sparse α} {a b : Nat} (hab : a ≤ b) (h : Sparse.rising (some b) m = true) :
    Sparse.rising (some a) m = true := by
  cases m with
  | nil => rfl
  | cons e t => simp [Sparse.rising] at h ⊢; exact ⟨by omega, h.2⟩

theorem Sparse.rising_insert (m : Sparse α) (k : Nat) (v : α) (lo : Option Nat)
    (hlo : ∀ b, lo = some b → b < k) (h : Sparse.rising lo m = true) :
    Sparse.rising lo (Sparse.insert m k v) = true := by
  induction m generalizing lo with
  | nil => cases lo <;> simp [Sparse.insert, Sparse.rising]; exact hlo _ rfl
  | cons e t ih =>
    obtain ⟨a, w⟩ := e
    simp only [Sparse.insert]
    simp only [Sparse.rising, Bool.and_eq_true] at h
    split_ifs with h1 h2
    · simp only [Sparse.rising, Bool.and_eq_true, decide_eq_true_eq]
      refine ⟨?_, h1, h.2⟩
      cases lo <;> simp; exact hlo _ rfl
    · subst h2; simp only [Sparse.rising, Bool.and_eq_true]; exact h
    · simp only [Sparse.rising, Bool.and_eq_true]
      exact ⟨h.1, ih _ (by intro b hb; cases hb; omega) h.2⟩

theorem Sparse.rising_erase (m : Sparse α) (k : Nat) (lo : Option Nat) (h : Sparse.rising lo m = true) :
    Sparse.rising lo (Sparse.erase m k) = true := by
  induction m generalizing lo with
  | nil => rfl
  | cons e t ih =>
    obtain ⟨a, w⟩ := e
    simp only [Sparse.rising, Bool.and_eq_true] at h
    simp only [Sparse.erase]
    split_ifs with h1
    · refine ih lo ?_
      cases lo with
      | none => exact Sparse.rising_weaken h.2
      | some b => exact Sparse.rising_lower (Nat.le_of_lt (by simpa using h.1)) h.2
    · simp only [Sparse.rising, Bool.and_eq_true]
      exact ⟨h.1, ih _ h.2⟩

theorem Sparse.all_insert (m : Sparse α) (k : Nat) (v : α) (p : Nat × α → Bool) (hv : p (k, v) = true)
    (h : m.all p = true) : (Sparse.insert m k v).all p = true := by
  induction m with
  | nil => simp [Sparse.insert, hv]
  | cons e t ih =>
    obtain ⟨a, w⟩ := e
    simp only [List.all_cons, Bool.and_eq_true] at h
    simp only [Sparse.insert]
    split_ifs <;> simp only [List.all_cons, Bool.and_eq_true]
    · exact ⟨hv, h⟩
    · exact ⟨hv, h.2⟩
    · exact ⟨h.1, ih h.2⟩

theorem Sparse.all_erase (m : Sparse α) (k : Nat) (p : Nat × α → Bool) (h : m.all p = true) :
    (Sparse.erase m k).all p = true := by
  induction m with
  | nil => rfl
  | cons e t ih =>
    obtain ⟨a, w⟩ := e
    simp only [List.all_cons, Bool.and_eq_true] at h
    simp only [Sparse.erase]
    split_ifs
    · exact ih h.2
    · simp only [List.all_cons, Bool.and_eq_true]; exact ⟨h.1, ih h.2⟩

theorem Sparse.rising_filter (m : Sparse α) (p : Nat × α → Bool) (lo : Option Nat) (h : Sparse.rising lo m = true) :
    Sparse.rising lo (m.filter p) = true := by
  induction m generalizing lo with
  | nil => rfl
  | cons e t ih =>
    obtain ⟨a, w⟩ := e
    simp only [Sparse.rising, Bool.and_eq_true] at h
    rw [List.filter_cons]
    split_ifs
    · simp only [Sparse.rising, Bool.and_eq_true]; exact ⟨h.1, ih _ h.2⟩
    · refine ih lo ?_
      cases lo with
      | none => exact Sparse.rising_weaken h.2
      | some b => exact Sparse.rising_lower (Nat.le_of_lt (by simpa using h.1)) h.2

/-- A write keeps the canonical form. -/
theorem Sparse.wf_set [DecidableEq α] (m : Sparse α) (d v : α) (k : Nat) (h : Sparse.wf d m = true) :
    Sparse.wf d (Sparse.set m d k v) = true := by
  simp only [Sparse.wf, Bool.and_eq_true] at h ⊢
  unfold Sparse.set
  split_ifs with hv
  · exact ⟨Sparse.rising_erase _ _ _ h.1, Sparse.all_erase _ _ _ h.2⟩
  · exact ⟨Sparse.rising_insert _ _ _ _ (by simp) h.1, Sparse.all_insert _ _ _ _ (by simp [hv]) h.2⟩

/-- Dropping entries keeps the canonical form. -/
theorem Sparse.wf_filter [DecidableEq α] (m : Sparse α) (d : α) (p : Nat × α → Bool) (h : Sparse.wf d m = true) :
    Sparse.wf d (m.filter p) = true := by
  simp only [Sparse.wf, Bool.and_eq_true] at h ⊢
  exact ⟨Sparse.rising_filter _ _ _ h.1, by simp only [List.all_filter, List.all_eq_true] at h ⊢; intro e he; simp [h.2 e he]⟩

end SparseLaws

/-! ### Memories -/

@[simp] theorem Memory.read_write_same (m : Memory) (a : Nat) (v : Byte) : (m.write a v).read a = v :=
  Sparse.get_set_same m ramDefault v a

@[simp] theorem Memory.read_write_other (m : Memory) (v : Byte) {a b : Nat} (h : b ≠ a) :
    (m.write a v).read b = m.read b :=
  Sparse.get_set_other m ramDefault v h

/-- A byte outside the written range reads as before. -/
theorem Memory.read_writeN_outside (m : Memory) (a b : Nat) (bs : List Byte) (h : b < a ∨ a + bs.length ≤ b) :
    (m.writeN a bs).read b = m.read b := by
  induction bs generalizing m a with
  | nil => rfl
  | cons v t ih =>
    simp only [List.length_cons] at h
    rw [Memory.writeN, ih _ _ (by omega), Memory.read_write_other _ _ (by omega)]

/-- A byte of the written range reads as written. -/
theorem Memory.read_writeN_inside (m : Memory) (a i : Nat) (bs : List Byte) (h : i < bs.length) :
    (m.writeN a bs).read (a + i) = bs[i] := by
  induction bs generalizing m a i with
  | nil => simp at h
  | cons v t ih =>
    rw [Memory.writeN]
    cases i with
    | zero => simp [Memory.read_writeN_outside]
    | succ j =>
      have := ih (m.write a v) (a + 1) j (by simpa using h)
      rw [show a + 1 + j = a + (j + 1) by omega] at this
      simpa using this

/-- Reading back a written range gives the bytes written. -/
@[simp] theorem Memory.readN_writeN (m : Memory) (a : Nat) (bs : List Byte) : (m.writeN a bs).readN a bs.length = bs := by
  apply List.ext_getElem
  · simp [Memory.readN]
  · intro i h1 h2
    simp only [Memory.readN, List.getElem_map, List.getElem_range]
    exact Memory.read_writeN_inside m a i bs h2

theorem Memory.write_wf (m : Memory) (a : Nat) (v : Byte) (h : m.wf = true) : (m.write a v).wf = true :=
  Sparse.wf_set m ramDefault v a h

theorem Memory.writeN_wf (m : Memory) (a : Nat) (bs : List Byte) (h : m.wf = true) : (m.writeN a bs).wf = true := by
  induction bs generalizing m a with
  | nil => exact h
  | cons v t ih => exact ih _ _ (Memory.write_wf m a v h)

theorem Memory.clear_wf (m : Memory) (a n : Nat) (h : m.wf = true) : (m.clear a n).wf = true :=
  Sparse.wf_filter m ramDefault _ h

theorem Memory.nil_wf : Memory.wf [] = true := rfl

theorem Memory.clear_read (m : Memory) (a n b : Nat) :
    (m.clear a n).read b = if a ≤ b ∧ b < a + n then ramDefault else m.read b := by
  unfold Memory.clear Memory.read
  induction m with
  | nil => simp [Sparse.get]
  | cons e t ih =>
    obtain ⟨x, w⟩ := e
    rw [List.filter_cons]
    by_cases hx : a ≤ x ∧ x < a + n
    · have hf : (!(decide (a ≤ x) && decide (x < a + n))) = false := by simp [hx.1, hx.2]
      simp only [hf, Bool.false_eq_true, if_false, ih, Sparse.get]
      by_cases hb : a ≤ b ∧ b < a + n
      · simp [hb]
      · have : x ≠ b := fun e => hb (e ▸ hx)
        simp [hb, this]
    · have hf : (!(decide (a ≤ x) && decide (x < a + n))) = true := by
        simp only [Bool.not_eq_true', Bool.and_eq_false_iff, decide_eq_false_iff_not]; omega
      simp only [hf, if_true, Sparse.get, ih]
      by_cases hb : a ≤ b ∧ b < a + n
      · have : x ≠ b := fun e => hx (e ▸ hb)
        simp [hb, this]
      · simp [hb]

end Sys2Proof.Machine
end

