-- ==== Sys2Proof/Laws/Write.lean ====
section
/-! SUPPORT. Writes of control space: which registers a write of one field leaves alone, and what a completed guard pair
does. -/

namespace Sys2Proof.Machine

open Sys2Proof

/-! ### Stored fields -/

/-- Two places of the register file share a key only if they are one place. -/
theorem regKey_inj {f g : Fld} {i j i' j' : Nat} (hi : i < 128) (hi' : i' < 128) (hj : j < 64) (hj' : j' < 64)
    (h : regKey f i j = regKey g i' j') : f.num = g.num ∧ i = i' ∧ j = j' := by
  unfold regKey at h; omega

@[simp] theorem Dev.rd_wr_same (d : Dev) (f : Fld) (v i j : Nat) : (d.wr f v i j).rd f i j = v % 2 ^ f.width := by
  simp [Dev.rd, Dev.wr]

/-- A write of one field leaves every other field as it was. -/
theorem Dev.rd_wr_other (d : Dev) (f g : Fld) (v i j i' j' : Nat) (h : regKey g i' j' ≠ regKey f i j)
    : (d.wr f v i j).rd g i' j' = d.rd g i' j' := by
  have key : ∀ (m : RegFile) (x y u w : Nat), regKey g i' j' ≠ regKey f i j →
      Sparse.get (Sparse.set m x (regKey f i j) w) u (regKey g i' j') = Sparse.get m u (regKey g i' j') := by
    intro m x y u w hk
    unfold Sparse.set
    split_ifs
    · exact Sparse.get_erase_other m u hk
    · exact Sparse.get_insert_other m u w hk
  exact key d.regs _ 0 _ _ h

/-- A write of a field with another number leaves a field as it was. -/
theorem Dev.rd_wr_num (d : Dev) (f g : Fld) (v i j i' j' : Nat) (h : g.num ≠ f.num) (hi : i < 128) (hi' : i' < 128)
    (hj : j < 64) (hj' : j' < 64) : (d.wr f v i j).rd g i' j' = d.rd g i' j' :=
  Dev.rd_wr_other d f g v i j i' j' fun e => h (regKey_inj hi' hi hj' hj e).1

/-! ### Pages -/

/-- A guarded register lies below the common registers. -/
theorem Page.guarded_lt {p : Page} {reg : Nat} (h : p.guarded reg = true) : reg < 0x1F00 := by
  unfold Page.guarded at h
  simp only [Bool.and_eq_true, decide_eq_true_eq] at h
  exact h.1

theorem Page.not_guarded {p : Page} {reg : Nat} (h : 0x1F00 ≤ reg) : p.guarded reg = false := by
  unfold Page.guarded
  simp; omega

/-! ### A completed pair (R420) -/

theorem Dev.masterWrite_paired {s : State} {m : Master} {same : Bool} {page off v : Nat} {p : Page}
    (h : s.PairReady m same page off v p) :
    let k := s.writeClock m same page
    let w : MasterWrite := ⟨m, page, off + 0x2000, 2 ^ 32 - 1 - v % 2 ^ 32, true⟩
    let r := (s.paired m same page off).writePair k p off v
    s.dev.masterWrite k w = r.1.noteLast p w (if r.2 then 0 else 1) m := by
  intro k w r
  obtain ⟨cc, hg, hw⟩ := h.window
  have hlt := Page.guarded_lt h.guarded
  have hv := h.value
  have hk : (s.writeClock m same page) = k := rfl
  have hf : (s.dev.writesNow k).filter (fun x => x.page = page) = [] := h.reaches.fresh
  have hexp : s.dev.expireGuard k page p = s.dev := by
    unfold Dev.expireGuard
    rw [hg]
    simp only
    rw [if_neg (by rw [hk] at hw; omega)]
  have hlock : ∀ c : CcWrite, (s.dev.noteWriteNow k c).lockStops w p = false := fun c => h.reaches.free _
  have hopen : ∀ c : CcWrite, (s.dev.noteWriteNow k c).openGuard page = some ⟨page, m, off, v, cc⟩ := fun c => hg
  have hend : (s.dev.openGuard page).any (fun g => decide (g.cc + 257 = k.cc)) = false := by
    rw [hg, Option.any_some, decide_eq_false_iff_not]
    rw [hk] at hw
    show ¬ cc + 257 = k.cc
    omega
  unfold Dev.masterWrite
  rw [show w.page = page from rfl, show w.master = m from rfl, h.reaches.opened]
  simp only [hf, List.isEmpty_nil, if_true, hexp, List.find?_nil, hend]
  rw [show w.whole = true from rfl]
  simp only [Bool.not_true, Bool.false_eq_true, if_false, hlock]
  rw [show countedBase w.off = countedBase (off + 0x2000) from rfl]
  have hh : (s.dev.noteWriteNow k ⟨page, countedBase (off + 0x2000), m⟩).handle k w p
      = (r.1, if r.2 then 0 else 1) := by
    unfold Dev.handle
    have e1 : w.off % 0x4000 = off + 0x2000 := by show (off + 0x2000) % 0x4000 = _; omega
    have e2 : aliasOf w.off = 0 := by show (off + 0x2000) / 0x4000 = 0; omega
    have hb : (s.dev.noteWriteNow k ⟨page, countedBase (off + 0x2000), m⟩).breakGuard page p m
        = s.dev.noteWriteNow k ⟨page, countedBase (off + 0x2000), m⟩ := by
      unfold Dev.breakGuard
      rw [hopen]
      simp
    have hc : (0x1F00 ≤ off + 0x2000 && decide (off + 0x2000 < 0x2000)) = false := by
      simp
    simp only [e1, e2, hc, Bool.false_eq_true, if_false, ne_eq, not_true_eq_false,
      Page.not_guarded (p := p) (reg := off + 0x2000) (by omega), Nat.add_sub_cancel, h.guarded]
    rw [show w.page = page from rfl, show w.master = m from rfl, hb]
    rw [if_pos (by simp)]
    unfold Dev.complement
    rw [show w.page = page from rfl, hopen, show w.off - 0x2000 = off by show off + 0x2000 - 0x2000 = off; omega]
    simp only [ne_eq, not_true_eq_false, if_false]
    rw [if_pos (by show 2 ^ 32 - 1 - v % 2 ^ 32 + v = 2 ^ 32 - 1; omega)]
    rfl
  rw [hh]

/-- The complement write of a ready pair completes it: the register takes its value, or refuses it. -/
theorem State.writeComplement_ready {s : State} {m : Master} {same : Bool} {page off v : Nat} {p : Page}
    (h : s.PairReady m same page off v p) :
    let k := s.writeClock m same page
    let r := (s.paired m same page off).writePair k p off v
    s.writeComplement m same page off v = .next { s with
      clk := k
      dev := (r.1.noteLast p ⟨m, page, off + 0x2000, 2 ^ 32 - 1 - v % 2 ^ 32, true⟩ (if r.2 then 0 else 1) m).sendRaised
        s.dev.sec.reports k } := by
  intro k r
  unfold State.writeComplement
  rw [State.write_eq h.reaches.clocked, Dev.masterWrite_paired h]

end Sys2Proof.Machine
end

