-- ==== Sys2Proof/Laws/Fault.lean ====
section
/-! SUPPORT. Host events, job states and run faults: what they change, said once. -/

namespace Sys2Proof.Machine

open Sys2Proof

/-- The fields that a host event sets. -/
def eventFlds : List Fld :=
  [.hostifEvtJob, .hostifEvtAdmit, .hostifEvtFault, .hostifEvtStart, .hostifEvtCut, .hostifEvtRestore]

/-- One of the fields that a host event sets. -/
def Fld.isEvent (f : Fld) : Bool := eventFlds.any fun g => g.num == f.num

/-- `e` differs from `d` at most in the host event flags, counts, the host interface and what has left the device. -/
structure Dev.Signals (d e : Dev) : Prop where
  order : e.order = d.order
  ctl : e.ctl = d.ctl
  start : e.start = d.start
  sync : e.sync = d.sync
  job : e.job = d.job
  image : e.image = d.image
  frame : e.frame = d.frame
  cores : e.cores = d.cores
  mem : e.mem = d.mem
  sep : e.sep = d.sep
  layerInv : e.layerInv = d.layerInv
  churn : e.churn = d.churn
  pail : e.pail = d.pail
  xch : e.xch = d.xch
  tier : e.tier = d.tier
  gmem : e.gmem = d.gmem
  herd : e.herd = d.herd
  coll : e.coll = d.coll
  fab : e.fab = d.fab
  twin : e.twin = d.twin
  snap : e.snap = d.snap
  sec : e.sec = d.sec
  pwr : e.pwr = d.pwr
  work : e.work = d.work
  free : e.free = d.free
  rates : e.rates = d.rates
  rd : ∀ f i j, f.isEvent = false → i < 128 → j < 64 → e.rd f i j = d.rd f i j

theorem Dev.signals_sendVector (d : Dev) (v : Nat) : d.Signals (d.sendVector v) := by
  unfold Dev.sendVector
  split <;> constructor <;> intros <;> rfl

theorem Dev.signals_raiseVector (d : Dev) (v : Nat) : d.Signals (d.raiseVector v) := by
  unfold Dev.raiseVector
  split
  · exact d.signals_sendVector v
  · split <;> constructor <;> intros <;> rfl

theorem Dev.Signals.trans {a b c : Dev} (h : a.Signals b) (g : b.Signals c) : a.Signals c where
  order := g.order.trans h.order
  ctl := g.ctl.trans h.ctl
  start := g.start.trans h.start
  sync := g.sync.trans h.sync
  job := g.job.trans h.job
  image := g.image.trans h.image
  frame := g.frame.trans h.frame
  cores := g.cores.trans h.cores
  mem := g.mem.trans h.mem
  sep := g.sep.trans h.sep
  layerInv := g.layerInv.trans h.layerInv
  churn := g.churn.trans h.churn
  pail := g.pail.trans h.pail
  xch := g.xch.trans h.xch
  tier := g.tier.trans h.tier
  gmem := g.gmem.trans h.gmem
  herd := g.herd.trans h.herd
  coll := g.coll.trans h.coll
  fab := g.fab.trans h.fab
  twin := g.twin.trans h.twin
  snap := g.snap.trans h.snap
  sec := g.sec.trans h.sec
  pwr := g.pwr.trans h.pwr
  work := g.work.trans h.work
  free := g.free.trans h.free
  rates := g.rates.trans h.rates
  rd := fun f i j hf hi hj => (g.rd f i j hf hi hj).trans (h.rd f i j hf hi hj)

theorem Dev.signals_flag (d : Dev) (g : Fld) (hg : g ∈ eventFlds) : d.Signals (d.flag g) := by
  constructor
  case rd =>
    intro f i j hf hi hj
    refine Dev.rd_wr_other _ _ _ _ _ _ _ _ fun e => ?_
    have h := (regKey_inj hi (by decide) hj (by decide) e).1
    have : f.isEvent = true := List.any_eq_true.mpr ⟨g, hg, by simp [h]⟩
    rw [hf] at this; cases this
  all_goals rfl

/-- A host event sets its flag and may raise the event vector. -/
theorem Dev.signals_hostEvent (d : Dev) (n : Nat) : d.Signals (d.hostEvent n) := by
  have key : ∀ (g : Fld) (m : Nat), g ∈ eventFlds → d.Signals
      (if (decide (d.rd g = 0) && bitAt ((d.flag g).rd .hostifEvtEnable) m) = true then
        (d.flag g).raiseVector ((d.flag g).rd .hostifEvtVector) else d.flag g) := by
    intro g m hg
    split
    · exact (d.signals_flag g hg).trans (Dev.signals_raiseVector ..)
    · exact d.signals_flag g hg
  unfold Dev.hostEvent
  split <;> exact key _ _ (by simp [eventFlds])

/-! ### Job states -/

/-- Entering a job state changes the state, its three copies, and signals the host. -/
theorem Dev.setPhase_eq (d : Dev) (p : JobPhase) : ∃ e, d.Signals e ∧ (d.setPhase p) = (if d.job.phase = p then d else
    { e with job := { d.job with phase := p }, ctl := { d.ctl with jobState := V3.all p.code } }) := by
  by_cases h : d.job.phase = p
  · exact ⟨d, by constructor <;> intros <;> rfl, by simp [Dev.setPhase, h]⟩
  · have g := ({ d with job := { d.job with phase := p }, ctl := { d.ctl with jobState := V3.all p.code } } : Dev).signals_hostEvent 0
    refine ⟨{ (d.setPhase p) with job := d.job, ctl := d.ctl }, ?_, ?_⟩
    · simp only [Dev.setPhase, h, if_false]
      constructor
      case rd => exact fun f i j hf hi hj => (g.rd f i j hf hi hj)
      case job => rfl
      case ctl => rfl
      all_goals first | exact g.order | exact g.start | exact g.sync | exact g.image | exact g.frame | exact g.cores | exact g.mem | exact g.sep | exact g.layerInv | exact g.churn | exact g.pail | exact g.xch | exact g.tier | exact g.gmem | exact g.herd | exact g.coll | exact g.fab | exact g.twin | exact g.snap | exact g.sec | exact g.pwr | exact g.work | exact g.free | exact g.rates
    · rw [if_neg h]
      simp only [Dev.setPhase, h, if_false]
      exact congrArg₂ (fun j c => ({ Dev.hostEvent { d with
        job := { d.job with phase := p }, ctl := { d.ctl with jobState := V3.all p.code } } 0 with
        job := j, ctl := c } : Dev)) g.job g.ctl

/-- What entering a job state leaves: everything but the state, its copies, the host and its flags. -/
theorem Dev.setPhase_phase (d : Dev) (p : JobPhase) : (d.setPhase p).job.phase = p := by
  obtain ⟨e, he, h⟩ := d.setPhase_eq p
  rw [h]; split
  · assumption
  · rfl

/-! ### Run faults (R75, R386) -/

/-- `e` is `d` after its first run fault, of code `code`: the job is FAULTED, the code is recorded, and nothing else
changes but the job's record, the host flags, SMBus events, counts and the waiting reports. -/
structure Dev.Faults (d e : Dev) (code : Nat) : Prop where
  phase : e.job.phase = .faulted
  recorded : e.rd .jobStateFault = code % 2 ^ (Fld.jobStateFault).width
  order : e.order = d.order
  start : e.start = d.start
  sync : e.sync = d.sync
  image : e.image = d.image
  frame : e.frame = d.frame
  cores : e.cores = d.cores
  mem : e.mem = d.mem
  sep : e.sep = d.sep
  layerInv : e.layerInv = d.layerInv
  churn : e.churn = d.churn
  pail : e.pail = d.pail
  xch : e.xch = d.xch
  tier : e.tier = d.tier
  gmem : e.gmem = d.gmem
  herd : e.herd = d.herd
  coll : e.coll = d.coll
  fab : e.fab = d.fab
  twin : e.twin = d.twin
  snap : e.snap = d.snap
  pwr : e.pwr = d.pwr
  work : e.work = d.work
  free : e.free = d.free
  rates : e.rates = d.rates
  rd : ∀ f i j, f.isEvent = false → f.num ≠ Fld.jobStateFault.num → i < 128 → j < 64 → e.rd f i j = d.rd f i j

theorem Dev.runFault_first {d : Dev} (k : Clock) (code cause engine addr : Nat) (hp : d.job.phase.faultable = true)
    (ha : d.job.abort = false) : d.Faults (d.runFault k code cause engine addr) code := by
  have hn : d.job.phase ≠ .faulted := by intro h; rw [h] at hp; cases hp
  let d1 : Dev := { (d.wr .jobStateFault code) with job := { d.job with
      faultCc := some k.cc, tearFrom := some (d.job.tearFrom.getD k.count), endFrame := d.frame.number
      abort := false } }
  obtain ⟨e, he, h⟩ := d1.setPhase_eq .faulted
  have hn1 : d1.job.phase ≠ .faulted := hn
  rw [if_neg hn1] at h
  have g := (d1.setPhase .faulted).signals_hostEvent 2
  have hrun : d.runFault k code cause engine addr =
      (((d1.setPhase .faulted).hostEvent 2).smbEvent 6).report 1
        ((((d1.setPhase .faulted).hostEvent 2).smbEvent 6).faultReport k code cause engine addr) := by
    unfold Dev.runFault
    rw [if_neg hn, if_neg (by simp [ha]), if_pos (by simp [hp])]
    rfl
  have hrep : ∀ (x : Dev) c, (x.report 1 c) = { x with sec := { x.sec with reports := x.sec.reports ++ [⟨1, c, [], 0⟩] } } := by
    intro x c; unfold Dev.report; rw [if_neg (by simp)]
  rw [hrun, hrep]
  rw [h] at g ⊢
  constructor
  case phase => exact congrArg Job.phase g.job
  case recorded =>
    show Dev.rd (Dev.hostEvent _ 2) .jobStateFault = _
    rw [g.rd _ 0 0 (by decide) (by decide) (by decide)]
    show e.rd .jobStateFault = _
    rw [he.rd _ 0 0 (by decide) (by decide) (by decide)]
    exact Dev.rd_wr_same d .jobStateFault code 0 0
  case rd =>
    intro f i j hf hnum hi hj
    show Dev.rd (Dev.hostEvent _ 2) f i j = _
    rw [g.rd f i j hf hi hj]
    show e.rd f i j = _
    rw [he.rd f i j hf hi hj]
    exact Dev.rd_wr_num d .jobStateFault f code 0 0 i j hnum (by decide) hi (by decide) hj
  case order => exact g.order.trans he.order
  case start => exact g.start.trans he.start
  case sync => exact g.sync.trans he.sync
  case image => exact g.image.trans he.image
  case frame => exact g.frame.trans he.frame
  case cores => exact g.cores.trans he.cores
  case mem => exact g.mem.trans he.mem
  case sep => exact g.sep.trans he.sep
  case layerInv => exact g.layerInv.trans he.layerInv
  case churn => exact g.churn.trans he.churn
  case pail => exact g.pail.trans he.pail
  case xch => exact g.xch.trans he.xch
  case tier => exact g.tier.trans he.tier
  case gmem => exact g.gmem.trans he.gmem
  case herd => exact g.herd.trans he.herd
  case coll => exact g.coll.trans he.coll
  case fab => exact g.fab.trans he.fab
  case twin => exact g.twin.trans he.twin
  case snap => exact g.snap.trans he.snap
  case pwr => exact g.pwr.trans he.pwr
  case work => exact g.work.trans he.work
  case free => exact g.free.trans he.free
  case rates => exact g.rates.trans he.rates

end Sys2Proof.Machine
end

