-- ==== Sys2Proof/Laws/Form.lean ====
section
/-! SUPPORT. The form of every command: what a proof about all commands needs of each. -/

namespace Sys2Proof.Machine

open Sys2Proof

/-- A result is a command's that acts through `act` or answers its own end time. -/
def Result.OfDevice (s : State) (r : Result) : Prop := (∃ w f, r = s.act w f) ∨ ∃ f, r = s.run f

theorem Result.ofDevice_act (s : State) (w : Clock → Clock) (f : Clock → Dev → Option Dev) :
    Result.OfDevice s (s.act w f) := .inl ⟨w, f, rfl⟩

theorem Result.ofDevice_run (s : State) (f : Clock → Dev → Option (Clock × Dev)) : Result.OfDevice s (s.run f) :=
  .inr ⟨f, rfl⟩

theorem Result.ofDevice_now (s : State) (f : Clock → Dev → Option Dev) : Result.OfDevice s (s.now f) := .inl ⟨_, f, rfl⟩

theorem Result.ofDevice_issueSeq (s : State) (c : Fin 48) (w : InsWord) (f : Clock → Dev → Core → Except Nat Core) :
    Result.OfDevice s (s.issueSeq c w f) := .inl ⟨_, _, rfl⟩

theorem Result.ofDevice_issueEng (s : State) (c : Fin 48) (w : InsWord) (e : Eng) :
    Result.OfDevice s (s.issueEng c w e) := .inl ⟨_, _, rfl⟩

theorem Result.ofDevice_write (s : State) (same : Bool) (w : MasterWrite) : Result.OfDevice s (s.write same w) :=
  .inl ⟨_, _, rfl⟩

theorem Result.ofDevice_writeWord (s : State) (m : Master) (same : Bool) (page off v : Nat) :
    Result.OfDevice s (s.writeWord m same page off v) := Result.ofDevice_write ..

theorem Result.ofDevice_writeComplement (s : State) (m : Master) (same : Bool) (page off v : Nat) :
    Result.OfDevice s (s.writeComplement m same page off v) := Result.ofDevice_write ..

/-- A command of the device either changes nothing, or acts while the clocks run. -/
theorem Result.OfDevice.cases {s : State} {r : Result} (h : Result.OfDevice s r) :
    r = .next s ∨ (s.dev.clocked = true ∧ ∃ k d, r = .next { s with clk := k, dev := d }) := by
  rcases h with ⟨w, f, rfl⟩ | ⟨f, rfl⟩
  · rcases State.act_cases s w f with h | ⟨d, hc, _, h⟩
    · exact .inl h
    · exact .inr ⟨hc, _, _, h⟩
  · rcases State.run_cases s f with h | ⟨k, d, hc, _, h⟩
    · exact .inl h
    · exact .inr ⟨hc, _, _, h⟩

/-- A result is a command's of the board. -/
def Result.OfBoard (s : State) (r : Result) : Prop := ∃ w f, r = s.board w f

theorem Result.ofBoard_board (s : State) (w : Clock → Clock) (f : Clock → Dev → Option Dev) :
    Result.OfBoard s (s.board w f) := ⟨w, f, rfl⟩

theorem Result.ofBoard_smb (s : State) (ok : Bool) (f : Dev → Dev) : Result.OfBoard s (s.smb ok f) := ⟨_, _, rfl⟩

theorem Result.OfBoard.cases {s : State} {r : Result} (h : Result.OfBoard s r) :
    ∃ k d, r = .next { s with clk := k, dev := d } := by
  obtain ⟨w, f, rfl⟩ := h
  rcases State.board_cases s w f with h | ⟨d, _, h⟩
  · exact ⟨_, _, h⟩
  · exact ⟨_, _, h⟩

theorem execSadd_form (c : Fin 48) (psel : BitVec 4) (sd sa sb : BitVec 5) (imm : Bool) (imm32 : BitVec 32) (s : State) :
    Result.OfDevice s (execSadd c psel sd sa sb imm imm32 s) := by
  unfold execSadd; exact Result.ofDevice_issueSeq ..

theorem execSsub_form (c : Fin 48) (psel : BitVec 4) (sd sa sb : BitVec 5) (imm : Bool) (imm32 : BitVec 32) (s : State) :
    Result.OfDevice s (execSsub c psel sd sa sb imm imm32 s) := by
  unfold execSsub; exact Result.ofDevice_issueSeq ..

theorem execSmul_form (c : Fin 48) (psel : BitVec 4) (sd sa sb : BitVec 5) (imm : Bool) (imm32 : BitVec 32) (s : State) :
    Result.OfDevice s (execSmul c psel sd sa sb imm imm32 s) := by
  unfold execSmul; exact Result.ofDevice_issueSeq ..

theorem execSand_form (c : Fin 48) (psel : BitVec 4) (sd sa sb : BitVec 5) (imm : Bool) (imm32 : BitVec 32) (s : State) :
    Result.OfDevice s (execSand c psel sd sa sb imm imm32 s) := by
  unfold execSand; exact Result.ofDevice_issueSeq ..

theorem execSor_form (c : Fin 48) (psel : BitVec 4) (sd sa sb : BitVec 5) (imm : Bool) (imm32 : BitVec 32) (s : State) :
    Result.OfDevice s (execSor c psel sd sa sb imm imm32 s) := by
  unfold execSor; exact Result.ofDevice_issueSeq ..

theorem execSxor_form (c : Fin 48) (psel : BitVec 4) (sd sa sb : BitVec 5) (imm : Bool) (imm32 : BitVec 32) (s : State) :
    Result.OfDevice s (execSxor c psel sd sa sb imm imm32 s) := by
  unfold execSxor; exact Result.ofDevice_issueSeq ..

theorem execSshl_form (c : Fin 48) (psel : BitVec 4) (sd sa sb : BitVec 5) (imm : Bool) (imm32 : BitVec 32) (s : State) :
    Result.OfDevice s (execSshl c psel sd sa sb imm imm32 s) := by
  unfold execSshl; exact Result.ofDevice_issueSeq ..

theorem execSshr_form (c : Fin 48) (psel : BitVec 4) (sd sa sb : BitVec 5) (imm : Bool) (imm32 : BitVec 32) (s : State) :
    Result.OfDevice s (execSshr c psel sd sa sb imm imm32 s) := by
  unfold execSshr; exact Result.ofDevice_issueSeq ..

theorem execSsra_form (c : Fin 48) (psel : BitVec 4) (sd sa sb : BitVec 5) (imm : Bool) (imm32 : BitVec 32) (s : State) :
    Result.OfDevice s (execSsra c psel sd sa sb imm imm32 s) := by
  unfold execSsra; exact Result.ofDevice_issueSeq ..

theorem execSmovi_form (c : Fin 48) (psel : BitVec 4) (sd : BitVec 5) (imm64 : BitVec 64) (s : State) :
    Result.OfDevice s (execSmovi c psel sd imm64 s) := by
  unfold execSmovi; exact Result.ofDevice_issueSeq ..

theorem execScmp_form (c : Fin 48) (psel : BitVec 4) (pd : BitVec 3) (cond : BitVec 2) (sa sb : BitVec 5) (imm : Bool) (imm32 : BitVec 32) (s : State) :
    Result.OfDevice s (execScmp c psel pd cond sa sb imm imm32 s) := by
  unfold execScmp; exact Result.ofDevice_issueSeq ..

theorem execPset_form (c : Fin 48) (psel : BitVec 4) (pd pa pb : BitVec 3) (pop : BitVec 2) (s : State) :
    Result.OfDevice s (execPset c psel pd pa pb pop s) := by
  unfold execPset; exact Result.ofDevice_issueSeq ..

theorem execTdset_form (c : Fin 48) (psel : BitVec 4) (td : BitVec 6) (fld : BitVec 4) (sa : BitVec 5) (add : Bool) (s : State) :
    Result.OfDevice s (execTdset c psel td fld sa add s) := by
  unfold execTdset; exact Result.ofDevice_issueSeq ..

theorem execTdcopy_form (c : Fin 48) (psel : BitVec 4) (tdd tda : BitVec 6) (s : State) :
    Result.OfDevice s (execTdcopy c psel tdd tda s) := by
  unfold execTdcopy; exact Result.ofDevice_issueSeq ..

theorem execLoop_form (c : Fin 48) (psel : BitVec 4) (count : BitVec 16) (body : BitVec 18) (iter : Bool) (si : BitVec 5) (s : State) :
    Result.OfDevice s (execLoop c psel count body iter si s) := by
  unfold execLoop; exact Result.ofDevice_issueSeq ..

theorem execSyncBar_form (c : Fin 48) (psel : BitVec 4) (mask : BitVec 48) (id : BitVec 8) (s : State) :
    Result.OfDevice s (execSyncBar c psel mask id s) := by
  unfold execSyncBar; exact Result.ofDevice_issueSeq ..

theorem execSyncBarRelease_form (c : Fin 48) (s : State) :
    Result.OfDevice s (execSyncBarRelease c s) := by
  unfold execSyncBarRelease; exact Result.ofDevice_now ..

theorem execFenceEng_form (c : Fin 48) (psel : BitVec 4) (cmask : BitVec 13) (s : State) :
    Result.OfDevice s (execFenceEng c psel cmask s) := by
  unfold execFenceEng; exact Result.ofDevice_issueSeq ..

theorem execFenceGmem_form (c : Fin 48) (psel : BitVec 4) (scope : Bool) (sa : BitVec 5) (s : State) :
    Result.OfDevice s (execFenceGmem c psel scope sa s) := by
  unfold execFenceGmem; exact Result.ofDevice_issueSeq ..

theorem execFenceRelease_form (c : Fin 48) (s : State) :
    Result.OfDevice s (execFenceRelease c s) := by
  unfold execFenceRelease; exact Result.ofDevice_now ..

theorem execNop_form (c : Fin 48) (psel : BitVec 4) (s : State) :
    Result.OfDevice s (execNop c psel s) := by
  unfold execNop; exact Result.ofDevice_issueSeq ..

theorem execTickEnd_form (c : Fin 48) (psel : BitVec 4) (s : State) :
    Result.OfDevice s (execTickEnd c psel s) := by
  unfold execTickEnd; exact Result.ofDevice_issueSeq ..

theorem execTickWait_form (c : Fin 48) (psel : BitVec 4) (src : Bool) (sa : BitVec 5) (offs : BitVec 27) (s : State) :
    Result.OfDevice s (execTickWait c psel src sa offs s) := by
  unfold execTickWait; exact Result.ofDevice_issueSeq ..

theorem execTickWaitRelease_form (c : Fin 48) (s : State) :
    Result.OfDevice s (execTickWaitRelease c s) := by
  unfold execTickWaitRelease; exact Result.ofDevice_act ..

theorem execTickFrame_form (c : Fin 48) (psel : BitVec 4) (sd se : BitVec 5) (s : State) :
    Result.OfDevice s (execTickFrame c psel sd se s) := by
  unfold execTickFrame; exact Result.ofDevice_issueSeq ..

theorem execTickNow_form (c : Fin 48) (psel : BitVec 4) (sd : BitVec 5) (s : State) :
    Result.OfDevice s (execTickNow c psel sd s) := by
  unfold execTickNow; exact Result.ofDevice_issueSeq ..

theorem execMoveTile_form (c : Fin 48) (psel : BitVec 4) (tdd tda : BitVec 6) (o : Offs) (z : Size) (rnd : BitVec 2) (s : State) :
    Result.OfDevice s (execMoveTile c psel tdd tda o z rnd s) := by
  unfold execMoveTile; exact Result.ofDevice_issueEng ..

theorem execMoveFill_form (c : Fin 48) (psel : BitVec 4) (tdd : BitVec 6) (o : Offs) (z : Size) (ss : BitVec 5) (s : State) :
    Result.OfDevice s (execMoveFill c psel tdd o z ss s) := by
  unfold execMoveFill; exact Result.ofDevice_issueEng ..

theorem execMmLoad_form (c : Fin 48) (psel : BitVec 4) (tda : BitVec 6) (o : Offs) (z : Size) (s : State) :
    Result.OfDevice s (execMmLoad c psel tda o z s) := by
  unfold execMmLoad; exact Result.ofDevice_issueEng ..

theorem execArrayFillDone_form (c : Fin 48) (s : State) :
    Result.OfDevice s (execArrayFillDone c s) := by
  unfold execArrayFillDone; exact Result.ofDevice_act ..

theorem execMmRun_form (c : Fin 48) (psel : BitVec 4) (tda : BitVec 6) (o : Offs) (z : Size) (accset : BitVec 2) (acc : Bool) (skim : BitVec 2) (skimAt : BitVec 4) (st : BitVec 5) (s : State) :
    Result.OfDevice s (execMmRun c psel tda o z accset acc skim skimAt st s) := by
  unfold execMmRun; exact Result.ofDevice_issueEng ..

theorem execMmStore_form (c : Fin 48) (psel : BitVec 4) (tdd : BitVec 6) (o : Offs) (z : Size) (rnd accset : BitVec 2) (s : State) :
    Result.OfDevice s (execMmStore c psel tdd o z rnd accset s) := by
  unfold execMmStore; exact Result.ofDevice_issueEng ..

theorem execMmPair_form (c : Fin 48) (psel : BitVec 4) (tda tdb : BitVec 6) (z : Size) (accset : BitVec 2) (acc : Bool) (s : State) :
    Result.OfDevice s (execMmPair c psel tda tdb z accset acc s) := by
  unfold execMmPair; exact Result.ofDevice_issueEng ..

theorem execRowSmax_form (c : Fin 48) (psel : BitVec 4) (tdd tda : BitVec 6) (z : Size) (rnd : BitVec 2) (stat : BitVec 13) (ss : BitVec 5) (s : State) :
    Result.OfDevice s (execRowSmax c psel tdd tda z rnd stat ss s) := by
  unfold execRowSmax; exact Result.ofDevice_issueEng ..

theorem execRowNorm_form (c : Fin 48) (psel : BitVec 4) (tdd tda tdc : BitVec 6) (z : Size) (rnd : BitVec 2) (stat : BitVec 13) (ss : BitVec 5) (nkind : BitVec 2) (s : State) :
    Result.OfDevice s (execRowNorm c psel tdd tda tdc z rnd stat ss nkind s) := by
  unfold execRowNorm; exact Result.ofDevice_issueEng ..

theorem execRowSmaxB_form (c : Fin 48) (psel : BitVec 4) (tdd tda tdb : BitVec 6) (z : Size) (rnd : BitVec 2) (stat : BitVec 13) (recomp : Bool) (ss : BitVec 5) (s : State) :
    Result.OfDevice s (execRowSmaxB c psel tdd tda tdb z rnd stat recomp ss s) := by
  unfold execRowSmaxB; exact Result.ofDevice_issueEng ..

theorem execRowNormB_form (c : Fin 48) (psel : BitVec 4) (tdd tda tdb tdc : BitVec 6) (z : Size) (rnd : BitVec 2) (stat : BitVec 13) (recomp : Bool) (ss : BitVec 5) (nkind : BitVec 2) (s : State) :
    Result.OfDevice s (execRowNormB c psel tdd tda tdb tdc z rnd stat recomp ss nkind s) := by
  unfold execRowNormB; exact Result.ofDevice_issueEng ..

theorem execVadd_form (c : Fin 48) (psel : BitVec 4) (tdd tda tdb : BitVec 6) (z : Size) (rnd : BitVec 2) (s : State) :
    Result.OfDevice s (execVadd c psel tdd tda tdb z rnd s) := by
  unfold execVadd; exact Result.ofDevice_issueEng ..

theorem execVmul_form (c : Fin 48) (psel : BitVec 4) (tdd tda tdb : BitVec 6) (z : Size) (rnd : BitVec 2) (s : State) :
    Result.OfDevice s (execVmul c psel tdd tda tdb z rnd s) := by
  unfold execVmul; exact Result.ofDevice_issueEng ..

theorem execVfma_form (c : Fin 48) (psel : BitVec 4) (tdd tda tdb tdc : BitVec 6) (z : Size) (rnd : BitVec 2) (s : State) :
    Result.OfDevice s (execVfma c psel tdd tda tdb tdc z rnd s) := by
  unfold execVfma; exact Result.ofDevice_issueEng ..

theorem execVscale_form (c : Fin 48) (psel : BitVec 4) (tdd tda : BitVec 6) (z : Size) (rnd : BitVec 2) (ss : BitVec 5) (s : State) :
    Result.OfDevice s (execVscale c psel tdd tda z rnd ss s) := by
  unfold execVscale; exact Result.ofDevice_issueEng ..

theorem execVact_form (c : Fin 48) (psel : BitVec 4) (tdd tda : BitVec 6) (z : Size) (rnd : BitVec 2) (fn : BitVec 4) (s : State) :
    Result.OfDevice s (execVact c psel tdd tda z rnd fn s) := by
  unfold execVact; exact Result.ofDevice_issueEng ..

theorem execVamax_form (c : Fin 48) (psel : BitVec 4) (tda : BitVec 6) (z : Size) (ss : BitVec 5) (s : State) :
    Result.OfDevice s (execVamax c psel tda z ss s) := by
  unfold execVamax; exact Result.ofDevice_issueEng ..

theorem execVgate_form (c : Fin 48) (psel : BitVec 4) (tdd tda tdb : BitVec 6) (z : Size) (rnd : BitVec 2) (s : State) :
    Result.OfDevice s (execVgate c psel tdd tda tdb z rnd s) := by
  unfold execVgate; exact Result.ofDevice_issueEng ..

theorem execVopt_form (c : Fin 48) (psel : BitVec 4) (tdd tda tdb tdc : BitVec 6) (z : Size) (rnd : BitVec 2) (ss : BitVec 5) (fn : BitVec 4) (s : State) :
    Result.OfDevice s (execVopt c psel tdd tda tdb tdc z rnd ss fn s) := by
  unfold execVopt; exact Result.ofDevice_issueEng ..

theorem execSepSelect_form (c : Fin 48) (psel : BitVec 4) (tdd tda : BitVec 6) (layer : BitVec 10) (e : BitVec 14) (k : BitVec 4) (shared : BitVec 3) (gate : Bool) (sn : BitVec 5) (s : State) :
    Result.OfDevice s (execSepSelect c psel tdd tda layer e k shared gate sn s) := by
  unfold execSepSelect; exact Result.ofDevice_issueEng ..

theorem execSepHash_form (c : Fin 48) (psel : BitVec 4) (tdd tda : BitVec 6) (layer : BitVec 10) (e : BitVec 14) (k : BitVec 4) (salt : BitVec 5) (s : State) :
    Result.OfDevice s (execSepHash c psel tdd tda layer e k salt s) := by
  unfold execSepHash; exact Result.ofDevice_issueEng ..

theorem execDieCollectiveStart_form (x : Fin 12) (g : Eng) (s : State) :
    Result.OfDevice s (execDieCollectiveStart x g s) := by
  unfold execDieCollectiveStart; exact Result.ofDevice_now ..

theorem execCapacityVectorArrive_form (x : Fin 12) (s : State) :
    Result.OfDevice s (execCapacityVectorArrive x s) := by
  unfold execCapacityVectorArrive; exact Result.ofDevice_act ..

theorem execCapacityWriteBackEnd_form (x : Fin 12) (s : State) :
    Result.OfDevice s (execCapacityWriteBackEnd x s) := by
  unfold execCapacityWriteBackEnd; exact Result.ofDevice_act ..

theorem execChurnSort_form (c : Fin 48) (psel : BitVec 4) (tdd tda : BitVec 6) (buckets : BitVec 14) (key : Bool) (layer : BitVec 10) (s : State) :
    Result.OfDevice s (execChurnSort c psel tdd tda buckets key layer s) := by
  unfold execChurnSort; exact Result.ofDevice_issueEng ..

theorem execChurnRestore_form (c : Fin 48) (psel : BitVec 4) (tdd tda tdb : BitVec 6) (layer : BitVec 10) (s : State) :
    Result.OfDevice s (execChurnRestore c psel tdd tda tdb layer s) := by
  unfold execChurnRestore; exact Result.ofDevice_issueEng ..

theorem execXchDispatch_form (c : Fin 48) (psel : BitVec 4) (tda : BitVec 6) (slot : BitVec 16) (sg : BitVec 5) (s : State) :
    Result.OfDevice s (execXchDispatch c psel tda slot sg s) := by
  unfold execXchDispatch; exact Result.ofDevice_issueEng ..

theorem execXchRecv_form (c : Fin 48) (psel : BitVec 4) (tdd : BitVec 6) (slot : BitVec 16) (s : State) :
    Result.OfDevice s (execXchRecv c psel tdd slot s) := by
  unfold execXchRecv; exact Result.ofDevice_issueEng ..

theorem execXchReturn_form (c : Fin 48) (psel : BitVec 4) (tda : BitVec 6) (slot : BitVec 16) (s : State) :
    Result.OfDevice s (execXchReturn c psel tda slot s) := by
  unfold execXchReturn; exact Result.ofDevice_issueEng ..

theorem execXchCombine_form (c : Fin 48) (psel : BitVec 4) (tdd : BitVec 6) (slot : BitVec 16) (sg : BitVec 5) (s : State) :
    Result.OfDevice s (execXchCombine c psel tdd slot sg s) := by
  unfold execXchCombine; exact Result.ofDevice_issueEng ..

theorem execCollBcast_form (c : Fin 48) (psel : BitVec 4) (tda : BitVec 6) (desc : BitVec 12) (s : State) :
    Result.OfDevice s (execCollBcast c psel tda desc s) := by
  unfold execCollBcast; exact Result.ofDevice_issueEng ..

theorem execCollReduce_form (c : Fin 48) (psel : BitVec 4) (tdd tda : BitVec 6) (desc : BitVec 12) (s : State) :
    Result.OfDevice s (execCollReduce c psel tdd tda desc s) := by
  unfold execCollReduce; exact Result.ofDevice_issueEng ..

theorem execCollWait_form (c : Fin 48) (psel : BitVec 4) (desc : BitVec 12) (s : State) :
    Result.OfDevice s (execCollWait c psel desc s) := by
  unfold execCollWait; exact Result.ofDevice_issueEng ..

theorem execGld_form (c : Fin 48) (psel : BitVec 4) (tdd : BitVec 6) (sl : BitVec 5) (win : BitVec 10) (so : BitVec 5) (len : BitVec 10) (s : State) :
    Result.OfDevice s (execGld c psel tdd sl win so len s) := by
  unfold execGld; exact Result.ofDevice_issueEng ..

theorem execGst_form (c : Fin 48) (psel : BitVec 4) (tda : BitVec 6) (sl : BitVec 5) (win : BitVec 10) (so : BitVec 5) (len : BitVec 10) (s : State) :
    Result.OfDevice s (execGst c psel tda sl win so len s) := by
  unfold execGst; exact Result.ofDevice_issueEng ..

theorem execGatom_form (c : Fin 48) (psel : BitVec 4) (sd sa sb : BitVec 5) (win : BitVec 10) (so : BitVec 5) (aop : BitVec 3) (s : State) :
    Result.OfDevice s (execGatom c psel sd sa sb win so aop s) := by
  unfold execGatom; exact Result.ofDevice_issueEng ..

theorem execPalloc_form (c : Fin 48) (psel : BitVec 4) (sd sa : BitVec 5) (s : State) :
    Result.OfDevice s (execPalloc c psel sd sa s) := by
  unfold execPalloc; exact Result.ofDevice_issueEng ..

theorem execPfree_form (c : Fin 48) (psel : BitVec 4) (sa : BitVec 5) (s : State) :
    Result.OfDevice s (execPfree c psel sa s) := by
  unfold execPfree; exact Result.ofDevice_issueEng ..

theorem execPshare_form (c : Fin 48) (psel : BitVec 4) (sa sb : BitVec 5) (s : State) :
    Result.OfDevice s (execPshare c psel sa sb s) := by
  unfold execPshare; exact Result.ofDevice_issueEng ..

theorem execTdpail_form (c : Fin 48) (psel : BitVec 4) (td : BitVec 6) (sa : BitVec 5) (s : State) :
    Result.OfDevice s (execTdpail c psel td sa s) := by
  unfold execTdpail; exact Result.ofDevice_issueEng ..

theorem execTpromote_form (c : Fin 48) (psel : BitVec 4) (sa : BitVec 5) (tier : BitVec 2) (s : State) :
    Result.OfDevice s (execTpromote c psel sa tier s) := by
  unfold execTpromote; exact Result.ofDevice_issueEng ..

theorem execTevict_form (c : Fin 48) (psel : BitVec 4) (sa : BitVec 5) (tier : BitVec 2) (s : State) :
    Result.OfDevice s (execTevict c psel sa tier s) := by
  unfold execTevict; exact Result.ofDevice_issueEng ..

theorem execTtouch_form (c : Fin 48) (psel : BitVec 4) (sa : BitVec 5) (s : State) :
    Result.OfDevice s (execTtouch c psel sa s) := by
  unfold execTtouch; exact Result.ofDevice_issueEng ..

theorem execTwait_form (c : Fin 48) (psel : BitVec 4) (sa : BitVec 5) (s : State) :
    Result.OfDevice s (execTwait c psel sa s) := by
  unfold execTwait; exact Result.ofDevice_issueEng ..

theorem execQueueHeadRelease_form (c : Fin 48) (g : Eng) (s : State) :
    Result.OfDevice s (execQueueHeadRelease c g s) := by
  unfold execQueueHeadRelease; exact Result.ofDevice_act ..

theorem execInstructionRetire_form (c : Fin 48) (g : Eng) (s : State) :
    Result.OfDevice s (execInstructionRetire c g s) := by
  unfold execInstructionRetire; exact Result.ofDevice_act ..

theorem execPailRequestApply_form (c : Fin 48) (s : State) :
    Result.OfDevice s (execPailRequestApply c s) := by
  unfold execPailRequestApply; exact Result.ofDevice_act ..

theorem execLoad_form (m : Master) (same : Bool) (s : State) :
    Result.OfDevice s (execLoad m same s) := by
  unfold execLoad; exact Result.ofDevice_writeComplement ..

theorem execAdmissionEnd_form (at_ : Nat) (s : State) :
    Result.OfDevice s (execAdmissionEnd at_ s) := by
  unfold execAdmissionEnd; exact Result.ofDevice_act ..

theorem execRestoreEnd_form (at_ : Nat) (s : State) :
    Result.OfDevice s (execRestoreEnd at_ s) := by
  unfold execRestoreEnd; exact Result.ofDevice_act ..

theorem execAbort_form (m : Master) (same : Bool) (s : State) :
    Result.OfDevice s (execAbort m same s) := by
  unfold execAbort; exact Result.ofDevice_writeComplement ..

theorem execStop_form (m : Master) (same : Bool) (s : State) :
    Result.OfDevice s (execStop m same s) := by
  unfold execStop; exact Result.ofDevice_writeComplement ..

theorem execRelease_form (m : Master) (same : Bool) (s : State) :
    Result.OfDevice s (execRelease m same s) := by
  unfold execRelease; exact Result.ofDevice_writeComplement ..

theorem execReleaseZeroingEnd_form (at_ : Nat) (s : State) :
    Result.OfDevice s (execReleaseZeroingEnd at_ s) := by
  unfold execReleaseZeroingEnd; exact Result.ofDevice_act ..

theorem execJobStopFrameWrite_form (m : Master) (same : Bool) (value : BitVec 32) (s : State) :
    Result.OfDevice s (execJobStopFrameWrite m same value s) := by
  unfold execJobStopFrameWrite; exact Result.ofDevice_writeWord ..

theorem execArm_form (m : Master) (same : Bool) (s : State) :
    Result.OfDevice s (execArm m same s) := by
  unfold execArm; exact Result.ofDevice_writeComplement ..

theorem execDisarm_form (m : Master) (same : Bool) (s : State) :
    Result.OfDevice s (execDisarm m same s) := by
  unfold execDisarm; exact Result.ofDevice_writeComplement ..

theorem execLaunchCountReached_form (s : State) :
    Result.OfDevice s (execLaunchCountReached s) := by
  unfold execLaunchCountReached; exact Result.ofDevice_act ..

theorem execFrameOpen_form (s : State) :
    Result.OfDevice s (execFrameOpen s) := by
  unfold execFrameOpen; exact Result.ofDevice_act ..

theorem execGuardStart_form (s : State) :
    Result.OfDevice s (execGuardStart s) := by
  unfold execGuardStart; exact Result.ofDevice_act ..

theorem execFrameClose_form (s : State) :
    Result.OfDevice s (execFrameClose s) := by
  unfold execFrameClose; exact Result.ofDevice_act ..

theorem execDrainEnd_form (s : State) :
    Result.OfDevice s (execDrainEnd s) := by
  unfold execDrainEnd; exact Result.ofDevice_now ..

theorem execTeardownComplete_form (at_ : Nat) (s : State) :
    Result.OfDevice s (execTeardownComplete at_ s) := by
  unfold execTeardownComplete; exact Result.ofDevice_act ..

theorem execThrottleStep_form (s : State) :
    Result.OfDevice s (execThrottleStep s) := by
  unfold execThrottleStep; exact Result.ofDevice_now ..

theorem execHerdReadyOffset_form (s : State) :
    Result.OfDevice s (execHerdReadyOffset s) := by
  unfold execHerdReadyOffset; exact Result.ofDevice_act ..

theorem execHerdAdd_form (s : State) :
    Result.OfDevice s (execHerdAdd s) := by
  unfold execHerdAdd; exact Result.ofDevice_now ..

theorem execHerdCancel_form (s : State) :
    Result.OfDevice s (execHerdCancel s) := by
  unfold execHerdCancel; exact Result.ofDevice_now ..

theorem execHerdChangeStops_form (s : State) :
    Result.OfDevice s (execHerdChangeStops s) := by
  unfold execHerdChangeStops; exact Result.ofDevice_now ..

theorem execHerdHold_form (s : State) :
    Result.OfDevice s (execHerdHold s) := by
  unfold execHerdHold; exact Result.ofDevice_now ..

theorem execHerdRelease_form (s : State) :
    Result.OfDevice s (execHerdRelease s) := by
  unfold execHerdRelease; exact Result.ofDevice_now ..

theorem execHerdFlush_form (s : State) :
    Result.OfDevice s (execHerdFlush s) := by
  unfold execHerdFlush; exact Result.ofDevice_now ..

theorem execTierMoveCommit_form (obj : BitVec 20) (s : State) :
    Result.OfDevice s (execTierMoveCommit obj s) := by
  unfold execTierMoveCommit; exact Result.ofDevice_act ..

theorem execSnapCutComplete_form (s : State) :
    Result.OfDevice s (execSnapCutComplete s) := by
  unfold execSnapCutComplete; exact Result.ofDevice_now ..

theorem execNvmeCompletion_form (status : BitVec 16) (s : State) :
    Result.OfDevice s (execNvmeCompletion status s) := by
  unfold execNvmeCompletion; exact Result.ofDevice_now ..

theorem execMirrorData_form (p : Packet) (s : State) :
    Result.OfDevice s (execMirrorData p s) := by
  unfold execMirrorData; exact Result.ofDevice_now ..

theorem execMirrorCommit_form (p : Packet) (s : State) :
    Result.OfDevice s (execMirrorCommit p s) := by
  unfold execMirrorCommit; exact Result.ofDevice_now ..

theorem execGmemRequestArrive_form (p : Packet) (s : State) :
    Result.OfDevice s (execGmemRequestArrive p s) := by
  unfold execGmemRequestArrive; exact Result.ofDevice_run ..

theorem execGmemResponseArrive_form (p : Packet) (s : State) :
    Result.OfDevice s (execGmemResponseArrive p s) := by
  unfold execGmemResponseArrive; exact Result.ofDevice_now ..

theorem execGmemRetry_form (node : BitVec 16) (seq : BitVec 32) (s : State) :
    Result.OfDevice s (execGmemRetry node seq s) := by
  unfold execGmemRetry; exact Result.ofDevice_act ..

theorem execGmemTimeout_form (node : BitVec 16) (seq : BitVec 32) (s : State) :
    Result.OfDevice s (execGmemTimeout node seq s) := by
  unfold execGmemTimeout; exact Result.ofDevice_act ..

theorem execGmemMgmtCancel_form (m : Master) (same : Bool) (value : BitVec 32) (s : State) :
    Result.OfDevice s (execGmemMgmtCancel m same value s) := by
  unfold execGmemMgmtCancel; exact Result.ofDevice_writeComplement ..

theorem execWindowCommand_form (m : Master) (same : Bool) (s : State) :
    Result.OfDevice s (execWindowCommand m same s) := by
  unfold execWindowCommand; exact Result.ofDevice_writeComplement ..

theorem execGmemCfgWrite_form (m : Master) (same : Bool) (value : BitVec 32) (s : State) :
    Result.OfDevice s (execGmemCfgWrite m same value s) := by
  unfold execGmemCfgWrite; exact Result.ofDevice_writeWord ..

theorem execLendBegin_form (m : Master) (same : Bool) (s : State) :
    Result.OfDevice s (execLendBegin m same s) := by
  unfold execLendBegin; exact Result.ofDevice_writeComplement ..

theorem execLendEnd_form (m : Master) (same : Bool) (s : State) :
    Result.OfDevice s (execLendEnd m same s) := by
  unfold execLendEnd; exact Result.ofDevice_writeComplement ..

theorem execLendZeroingEnd_form (at_ : Nat) (s : State) :
    Result.OfDevice s (execLendZeroingEnd at_ s) := by
  unfold execLendZeroingEnd; exact Result.ofDevice_act ..

theorem execTimeMessage_form (p : Packet) (s : State) :
    Result.OfDevice s (execTimeMessage p s) := by
  unfold execTimeMessage; exact Result.ofDevice_act ..

theorem execTimestampBlock_form (port : Fin 81) (t1 t2 t3 t4 : BitVec 64) (status : TwinStatus) (node : BitVec 16) (s : State) :
    Result.OfDevice s (execTimestampBlock port t1 t2 t3 t4 status node s) := by
  unfold execTimestampBlock; exact Result.ofDevice_act ..

theorem execTimestampSend_form (port : Fin 81) (s : State) :
    Result.OfDevice s (execTimestampSend port s) := by
  unfold execTimestampSend; exact Result.ofDevice_act ..

theorem execSyncParentTimeout_form (s : State) :
    Result.OfDevice s (execSyncParentTimeout s) := by
  unfold execSyncParentTimeout; exact Result.ofDevice_act ..

theorem execTickSyncCfgWrite_form (m : Master) (same : Bool) (value : BitVec 32) (s : State) :
    Result.OfDevice s (execTickSyncCfgWrite m same value s) := by
  unfold execTickSyncCfgWrite; exact Result.ofDevice_writeComplement ..

theorem execLinkBlockReceive_form (port : Fin 81) (body : List Byte) (trailer : BitVec 128) (s : State) :
    Result.OfDevice s (execLinkBlockReceive port body trailer s) := by
  unfold execLinkBlockReceive; exact Result.ofDevice_now ..

theorem execAckTimeout_form (port : Fin 81) (s : State) :
    Result.OfDevice s (execAckTimeout port s) := by
  unfold execAckTimeout; exact Result.ofDevice_act ..

theorem execPmdLockLoss_form (port : Fin 81) (s : State) :
    Result.OfDevice s (execPmdLockLoss port s) := by
  unfold execPmdLockLoss; exact Result.ofDevice_now ..

theorem execPortTrainingStart_form (port : Fin 81) (s : State) :
    Result.OfDevice s (execPortTrainingStart port s) := by
  unfold execPortTrainingStart; exact Result.ofDevice_act ..

theorem execPortTrainingEnd_form (port : Fin 81) (ok reversed : Bool) (polarity : BitVec 8) (s : State) :
    Result.OfDevice s (execPortTrainingEnd port ok reversed polarity s) := by
  unfold execPortTrainingEnd; exact Result.ofDevice_now ..

theorem execPortEnable_form (m : Master) (same : Bool) (fd : Fin 10) (port : Fin 8) (s : State) :
    Result.OfDevice s (execPortEnable m same fd port s) := by
  unfold execPortEnable; exact Result.ofDevice_writeComplement ..

theorem execPortDisable_form (m : Master) (same : Bool) (fd : Fin 10) (port : Fin 8) (s : State) :
    Result.OfDevice s (execPortDisable m same fd port s) := by
  unfold execPortDisable; exact Result.ofDevice_writeComplement ..

theorem execProbeSend_form (m : Master) (same : Bool) (fd : Fin 10) (port : Fin 8) (s : State) :
    Result.OfDevice s (execProbeSend m same fd port s) := by
  unfold execProbeSend; exact Result.ofDevice_writeComplement ..

theorem execProbe_form (port : Fin 81) (p : Packet) (s : State) :
    Result.OfDevice s (execProbe port p s) := by
  unfold execProbe; exact Result.ofDevice_now ..

theorem execProbeAnswer_form (port : Fin 81) (p : Packet) (s : State) :
    Result.OfDevice s (execProbeAnswer port p s) := by
  unfold execProbeAnswer; exact Result.ofDevice_now ..

theorem execPacketArrive_form (port : Fin 81) (p : Packet) (s : State) :
    Result.OfDevice s (execPacketArrive port p s) := by
  unfold execPacketArrive; exact Result.ofDevice_now ..

theorem execPacketDeliver_form (p : Packet) (s : State) :
    Result.OfDevice s (execPacketDeliver p s) := by
  unfold execPacketDeliver; exact Result.ofDevice_now ..

theorem execReorderTimeout_form (tag : BitVec 24) (epoch src : BitVec 16) (chan : BitVec 2) (s : State) :
    Result.OfDevice s (execReorderTimeout tag epoch src chan s) := by
  unfold execReorderTimeout; exact Result.ofDevice_act ..

theorem execRouteCommand_form (m : Master) (same : Bool) (s : State) :
    Result.OfDevice s (execRouteCommand m same s) := by
  unfold execRouteCommand; exact Result.ofDevice_writeComplement ..

theorem execRouteCommit_form (s : State) :
    Result.OfDevice s (execRouteCommit s) := by
  unfold execRouteCommit; exact Result.ofDevice_act ..

theorem execCongestionWindowEnd_form (s : State) :
    Result.OfDevice s (execCongestionWindowEnd s) := by
  unfold execCongestionWindowEnd; exact Result.ofDevice_act ..

theorem execSummaryPeriodLatch_form (s : State) :
    Result.OfDevice s (execSummaryPeriodLatch s) := by
  unfold execSummaryPeriodLatch; exact Result.ofDevice_act ..

theorem execBridgeFlitReplay_form (dir : Fin 38) (overshare again : Bool) (s : State) :
    Result.OfDevice s (execBridgeFlitReplay dir overshare again s) := by
  unfold execBridgeFlitReplay; exact Result.ofDevice_now ..

theorem execDeliveryStream_form (p : Packet) (s : State) :
    Result.OfDevice s (execDeliveryStream p s) := by
  unfold execDeliveryStream; exact Result.ofDevice_now ..

theorem execDeliveryEndMarker_form (p : Packet) (s : State) :
    Result.OfDevice s (execDeliveryEndMarker p s) := by
  unfold execDeliveryEndMarker; exact Result.ofDevice_now ..

theorem execReturnStream_form (p : Packet) (s : State) :
    Result.OfDevice s (execReturnStream p s) := by
  unfold execReturnStream; exact Result.ofDevice_now ..

theorem execReturnEndMarker_form (p : Packet) (s : State) :
    Result.OfDevice s (execReturnEndMarker p s) := by
  unfold execReturnEndMarker; exact Result.ofDevice_now ..

theorem execCollInvocationStart_form (desc : BitVec 12) (s : State) :
    Result.OfDevice s (execCollInvocationStart desc s) := by
  unfold execCollInvocationStart; exact Result.ofDevice_now ..

theorem execReductionStream_form (p : Packet) (s : State) :
    Result.OfDevice s (execReductionStream p s) := by
  unfold execReductionStream; exact Result.ofDevice_now ..

theorem execReductionEndMarker_form (p : Packet) (s : State) :
    Result.OfDevice s (execReductionEndMarker p s) := by
  unfold execReductionEndMarker; exact Result.ofDevice_now ..

theorem execBroadcastStream_form (p : Packet) (s : State) :
    Result.OfDevice s (execBroadcastStream p s) := by
  unfold execBroadcastStream; exact Result.ofDevice_now ..

theorem execBroadcastEndMarker_form (p : Packet) (s : State) :
    Result.OfDevice s (execBroadcastEndMarker p s) := by
  unfold execBroadcastEndMarker; exact Result.ofDevice_now ..

theorem execCollReport_form (p : Packet) (s : State) (more : Bool) :
    Result.OfDevice s (execCollReport p s more) := by
  unfold execCollReport; exact Result.ofDevice_now ..

theorem execSampleRecords_form (p : Packet) (s : State) (more : Bool) :
    Result.OfDevice s (execSampleRecords p s more) := by
  unfold execSampleRecords; exact Result.ofDevice_now ..

theorem execCollDeadline_form (desc : BitVec 12) (inv : Nat) (s : State) :
    Result.OfDevice s (execCollDeadline desc inv s) := by
  unfold execCollDeadline; exact Result.ofDevice_act ..

theorem execToken_form (p : Packet) (s : State) :
    Result.OfDevice s (execToken p s) := by
  unfold execToken; exact Result.ofDevice_now ..

theorem execTokenAcknowledgement_form (p : Packet) (s : State) :
    Result.OfDevice s (execTokenAcknowledgement p s) := by
  unfold execTokenAcknowledgement; exact Result.ofDevice_now ..

theorem execTokenRepeat_form (desc : BitVec 12) (inv : Nat) (s : State) :
    Result.OfDevice s (execTokenRepeat desc inv s) := by
  unfold execTokenRepeat; exact Result.ofDevice_act ..

theorem execLockstepChunkHash_form (p : Packet) (s : State) :
    Result.OfDevice s (execLockstepChunkHash p s) := by
  unfold execLockstepChunkHash; exact Result.ofDevice_now ..

theorem execLockstepArmRecord_form (p : Packet) (s : State) :
    Result.OfDevice s (execLockstepArmRecord p s) := by
  unfold execLockstepArmRecord; exact Result.ofDevice_now ..

theorem execLockstepFrameDigests_form (p : Packet) (s : State) :
    Result.OfDevice s (execLockstepFrameDigests p s) := by
  unfold execLockstepFrameDigests; exact Result.ofDevice_now ..

theorem execLockstepGranuleRecords_form (p : Packet) (s : State) :
    Result.OfDevice s (execLockstepGranuleRecords p s) := by
  unfold execLockstepGranuleRecords; exact Result.ofDevice_now ..

theorem execLockstepHalt_form (p : Packet) (s : State) :
    Result.OfDevice s (execLockstepHalt p s) := by
  unfold execLockstepHalt; exact Result.ofDevice_now ..

theorem execTwinCfgModeWrite_form (m : Master) (same : Bool) (value : BitVec 32) (s : State) :
    Result.OfDevice s (execTwinCfgModeWrite m same value s) := by
  unfold execTwinCfgModeWrite; exact Result.ofDevice_writeComplement ..

theorem execRegisterWrite_form (m : Master) (same : Bool) (offset : BitVec 28) (value : BitVec 32) (enables : BitVec 4) (s : State) :
    Result.OfDevice s (execRegisterWrite m same offset value enables s) := by
  unfold execRegisterWrite; exact Result.ofDevice_write ..

theorem execAliasSet_form (m : Master) (same : Bool) (page : BitVec 12) (base : BitVec 14) (value : BitVec 32) (s : State) :
    Result.OfDevice s (execAliasSet m same page base value s) := by
  unfold execAliasSet; exact Result.ofDevice_write ..

theorem execAliasClear_form (m : Master) (same : Bool) (page : BitVec 12) (base : BitVec 14) (value : BitVec 32) (s : State) :
    Result.OfDevice s (execAliasClear m same page base value s) := by
  unfold execAliasClear; exact Result.ofDevice_write ..

theorem execAliasToggle_form (m : Master) (same : Bool) (page : BitVec 12) (base : BitVec 14) (value : BitVec 32) (s : State) :
    Result.OfDevice s (execAliasToggle m same page base value s) := by
  unfold execAliasToggle; exact Result.ofDevice_write ..

theorem execGuardValueWrite_form (m : Master) (same : Bool) (page : BitVec 12) (reg : BitVec 13) (value : BitVec 32) (s : State) :
    Result.OfDevice s (execGuardValueWrite m same page reg value s) := by
  unfold execGuardValueWrite; exact Result.ofDevice_write ..

theorem execGuardComplementWrite_form (m : Master) (same : Bool) (page : BitVec 12) (reg : BitVec 13) (value : BitVec 32) (s : State) :
    Result.OfDevice s (execGuardComplementWrite m same page reg value s) := by
  unfold execGuardComplementWrite; exact Result.ofDevice_write ..

theorem execGuardWindowExpire_form (page : BitVec 12) (m : Master) (s : State) :
    Result.OfDevice s (execGuardWindowExpire page m s) := by
  unfold execGuardWindowExpire; exact Result.ofDevice_act ..

theorem execMbxSelWrite_form (m : Master) (same : Bool) (page : BitVec 12) (sel : BitVec 8) (s : State) :
    Result.OfDevice s (execMbxSelWrite m same page sel s) := by
  unfold execMbxSelWrite; exact Result.ofDevice_writeWord ..

theorem execMailboxReady_form (page : BitVec 12) (m : Master) (cc : Nat) (s : State) :
    Result.OfDevice s (execMailboxReady page m cc s) := by
  unfold execMailboxReady; exact Result.ofDevice_act ..

theorem execV3FieldRead_form (page : BitVec 12) (reg : BitVec 13) (s : State) :
    Result.OfDevice s (execV3FieldRead page reg s) := by
  unfold execV3FieldRead; exact Result.ofDevice_act ..

theorem execVoteScrub_form (s : State) :
    Result.OfDevice s (execVoteScrub s) := by
  unfold execVoteScrub; exact Result.ofDevice_act ..

theorem execResetRelease_form (held : BitVec 48) (s : State) :
    Result.OfBoard s (execResetRelease held s) := by
  unfold execResetRelease; exact Result.ofBoard_board ..

theorem execStartStepEnd_form (step : Fin 10) (ok : Bool) (ms : Nat) (s : State) :
    Result.OfDevice s (execStartStepEnd step ok ms s) := by
  unfold execStartStepEnd; exact Result.ofDevice_act ..

theorem execPwrgoodFall_form (s : State) :
    Result.OfBoard s (execPwrgoodFall s) := by
  unfold execPwrgoodFall; exact Result.ofBoard_board ..

theorem execRailSample_form (inRange low : BitVec 5) (s : State) :
    Result.OfBoard s (execRailSample inRange low s) := by
  unfold execRailSample; exact Result.ofBoard_board ..

theorem execTempSample_form (temps : List (BitVec 12)) (power : BitVec 12) (s : State) :
    Result.OfDevice s (execTempSample temps power s) := by
  unfold execTempSample; exact Result.ofDevice_act ..

theorem execReductionExit_form (die : Fin 12) (s : State) :
    Result.OfDevice s (execReductionExit die s) := by
  unfold execReductionExit; exact Result.ofDevice_act ..

theorem execPwrCapWrite_form (m : Master) (same : Bool) (value : BitVec 32) (s : State) :
    Result.OfDevice s (execPwrCapWrite m same value s) := by
  unfold execPwrCapWrite; exact Result.ofDevice_writeComplement ..

theorem execPwrTjWrite_form (m : Master) (same : Bool) (value : BitVec 32) (s : State) :
    Result.OfDevice s (execPwrTjWrite m same value s) := by
  unfold execPwrTjWrite; exact Result.ofDevice_writeComplement ..

theorem execJoinHello_form (s : State) :
    Result.OfDevice s (execJoinHello s) := by
  unfold execJoinHello; exact Result.ofDevice_act ..

theorem execJoinAccept_form (p : Packet) (s : State) :
    Result.OfDevice s (execJoinAccept p s) := by
  unfold execJoinAccept; exact Result.ofDevice_now ..

theorem execRekey_form (p : Packet) (s : State) :
    Result.OfDevice s (execRekey p s) := by
  unfold execRekey; exact Result.ofDevice_now ..

theorem execOldKeyExpire_form (s : State) :
    Result.OfDevice s (execOldKeyExpire s) := by
  unfold execOldKeyExpire; exact Result.ofDevice_act ..

theorem execQuoteRequest_form (p : Packet) (s : State) :
    Result.OfDevice s (execQuoteRequest p s) := by
  unfold execQuoteRequest; exact Result.ofDevice_now ..

theorem execSecQuoteCmd_form (m : Master) (same : Bool) (s : State) :
    Result.OfDevice s (execSecQuoteCmd m same s) := by
  unfold execSecQuoteCmd; exact Result.ofDevice_writeComplement ..

theorem execQuoteDone_form (s : State) :
    Result.OfDevice s (execQuoteDone s) := by
  unfold execQuoteDone; exact Result.ofDevice_now ..

theorem execReportAck_form (p : Packet) (s : State) :
    Result.OfDevice s (execReportAck p s) := by
  unfold execReportAck; exact Result.ofDevice_now ..

theorem execReportRepeat_form (order : BitVec 24) (s : State) :
    Result.OfDevice s (execReportRepeat order s) := by
  unfold execReportRepeat; exact Result.ofDevice_act ..

theorem execSecurityCheck_form (sramOk keyOk : Bool) (s : State) :
    Result.OfDevice s (execSecurityCheck sramOk keyOk s) := by
  unfold execSecurityCheck; exact Result.ofDevice_act ..

theorem execSmbStartWord_form (word : BitVec 32) (pecOk : Bool) (s : State) :
    Result.OfBoard s (execSmbStartWord word pecOk s) := by
  unfold execSmbStartWord; exact Result.ofBoard_smb ..

theorem execSmbStatus_form (req : SmbTransaction) (s : State) :
    Result.OfBoard s (execSmbStatus req s) := by
  unfold execSmbStatus; exact Result.ofBoard_smb ..

theorem execSmbTemperature_form (pecOk : Bool) (s : State) :
    Result.OfBoard s (execSmbTemperature pecOk s) := by
  unfold execSmbTemperature; exact Result.ofBoard_smb ..

theorem execSmbPower_form (pecOk : Bool) (s : State) :
    Result.OfBoard s (execSmbPower pecOk s) := by
  unfold execSmbPower; exact Result.ofBoard_smb ..

theorem execSmbEvents_form (pecOk : Bool) (s : State) :
    Result.OfBoard s (execSmbEvents pecOk s) := by
  unfold execSmbEvents; exact Result.ofBoard_smb ..

theorem execSmbInventory_form (pecOk : Bool) (s : State) :
    Result.OfBoard s (execSmbInventory pecOk s) := by
  unfold execSmbInventory; exact Result.ofBoard_smb ..

theorem execSmbAlertResponse_form (pecOk : Bool) (s : State) :
    Result.OfBoard s (execSmbAlertResponse pecOk s) := by
  unfold execSmbAlertResponse; exact Result.ofBoard_smb ..

theorem execBypass_form (code : BitVec 8) (s : State) :
    Result.OfBoard s (execBypass s code) := by
  unfold execBypass; exact Result.ofBoard_board ..

theorem execIdcode_form (s : State) :
    Result.OfBoard s (execIdcode s) := by
  unfold execIdcode; exact Result.ofBoard_board ..

theorem execSamplePreload_form (preload : BitVec 15) (s : State) :
    Result.OfBoard s (execSamplePreload preload s) := by
  unfold execSamplePreload; exact Result.ofBoard_board ..

theorem execExtest_form (shift : BitVec 15) (s : State) :
    Result.OfBoard s (execExtest s shift) := by
  unfold execExtest; exact Result.ofBoard_board ..

theorem execClamp_form (s : State) :
    Result.OfBoard s (execClamp s) := by
  unfold execClamp; exact Result.ofBoard_board ..

theorem execHighz_form (s : State) :
    Result.OfBoard s (execHighz s) := by
  unfold execHighz; exact Result.ofBoard_board ..

theorem execEndpointReset_form (kind : EndReset) (s : State) :
    Result.OfBoard s (execEndpointReset kind s) := by
  unfold execEndpointReset; exact Result.ofBoard_board ..

theorem execConfigRequest_form (write : Bool) (reg : BitVec 12) (value : BitVec 32) (s : State) :
    Result.OfDevice s (execConfigRequest write reg value s) := by
  unfold execConfigRequest; exact Result.ofDevice_now ..

theorem execHbmWindowAccess_form (write : Bool) (offset : BitVec 44) (len : BitVec 13) (bytes : List Byte) (s : State) :
    Result.OfDevice s (execHbmWindowAccess write offset len bytes s) := by
  unfold execHbmWindowAccess; exact Result.ofDevice_now ..

theorem execMsixUnmask_form (access : MsixAccess) (s : State) :
    Result.OfDevice s (execMsixUnmask access s) := by
  unfold execMsixUnmask; exact Result.ofDevice_now ..

theorem execCompletionTimeout_form (how : ReadEnd) (addr : BitVec 64) (obj : Option (BitVec 20)) (s : State) :
    Result.OfDevice s (execCompletionTimeout how addr obj s) := by
  unfold execCompletionTimeout; exact Result.ofDevice_now ..

theorem execNvmeEnable_form (m : Master) (same : Bool) (value : BitVec 32) (s : State) :
    Result.OfDevice s (execNvmeEnable m same value s) := by
  unfold execNvmeEnable; exact Result.ofDevice_writeWord ..

theorem execNvmeLinkDown_form (s : State) :
    Result.OfDevice s (execNvmeLinkDown s) := by
  unfold execNvmeLinkDown; exact Result.ofDevice_now ..

theorem execFlashErase_form (m : Master) (same : Bool) (s : State) :
    Result.OfDevice s (execFlashErase m same s) := by
  unfold execFlashErase; exact Result.ofDevice_writeComplement ..

theorem execFlashProgram_form (m : Master) (same : Bool) (s : State) :
    Result.OfDevice s (execFlashProgram m same s) := by
  unfold execFlashProgram; exact Result.ofDevice_writeComplement ..

theorem execFlashRead_form (m : Master) (same : Bool) (s : State) :
    Result.OfDevice s (execFlashRead m same s) := by
  unfold execFlashRead; exact Result.ofDevice_writeComplement ..

theorem execFlashCommandDone_form (at_ : Nat) (ok : Bool) (s : State) :
    Result.OfDevice s (execFlashCommandDone at_ ok s) := by
  unfold execFlashCommandDone; exact Result.ofDevice_act ..

theorem execRunStart_form (s : State) :
    Result.OfDevice s (execRunStart s) := by
  unfold execRunStart; exact Result.ofDevice_act ..

theorem execThrottleStepEnd_form (s : State) :
    Result.OfDevice s (execThrottleStepEnd s) := by
  unfold execThrottleStepEnd; exact Result.ofDevice_act ..

theorem execCapacityStateReadEnd_form (x : Fin 12) (s : State) :
    Result.OfDevice s (execCapacityStateReadEnd x s) := by
  unfold execCapacityStateReadEnd; exact Result.ofDevice_act ..

theorem execStagedResultComplete_form (desc : BitVec 12) (inv : Nat) (s : State) (more : Bool) :
    Result.OfDevice s (execStagedResultComplete desc inv s more) := by
  unfold execStagedResultComplete; exact Result.ofDevice_now ..

theorem execMirrorSendEnd_form (s : State) :
    Result.OfDevice s (execMirrorSendEnd s) := by
  unfold execMirrorSendEnd; exact Result.ofDevice_now ..

theorem execResetAssert_form (s : State) :
    Result.OfBoard s (execResetAssert s) := by
  unfold execResetAssert; exact Result.ofBoard_board ..

theorem execPerstDeassert_form (s : State) :
    Result.OfBoard s (execPerstDeassert s) := by
  unfold execPerstDeassert; exact Result.ofBoard_board ..

theorem execRefclkStart_form (s : State) :
    Result.OfBoard s (execRefclkStart s) := by
  unfold execRefclkStart; exact Result.ofBoard_board ..

theorem execTestLogicReset_form (s : State) :
    Result.OfBoard s (execTestLogicReset s) := by
  unfold execTestLogicReset; exact Result.ofBoard_board ..

theorem execManagementRequest_form (p : Packet) (s : State) :
    Result.OfDevice s (execManagementRequest p s) := by
  unfold execManagementRequest; exact Result.ofDevice_now ..

/-- The form of every command of the device. -/
theorem exec_ofDevice {i : Instr} (s : State) (hb : i.board = false) : Result.OfDevice s (exec i s) := by
  cases i with
  | sadd core psel sd sa sb imm imm32 => exact execSadd_form core psel sd sa sb imm imm32 s
  | ssub core psel sd sa sb imm imm32 => exact execSsub_form core psel sd sa sb imm imm32 s
  | smul core psel sd sa sb imm imm32 => exact execSmul_form core psel sd sa sb imm imm32 s
  | sand core psel sd sa sb imm imm32 => exact execSand_form core psel sd sa sb imm imm32 s
  | sor core psel sd sa sb imm imm32 => exact execSor_form core psel sd sa sb imm imm32 s
  | sxor core psel sd sa sb imm imm32 => exact execSxor_form core psel sd sa sb imm imm32 s
  | sshl core psel sd sa sb imm imm32 => exact execSshl_form core psel sd sa sb imm imm32 s
  | sshr core psel sd sa sb imm imm32 => exact execSshr_form core psel sd sa sb imm imm32 s
  | ssra core psel sd sa sb imm imm32 => exact execSsra_form core psel sd sa sb imm imm32 s
  | smovi core psel sd imm64 => exact execSmovi_form core psel sd imm64 s
  | scmp core psel pd cond sa sb imm imm32 => exact execScmp_form core psel pd cond sa sb imm imm32 s
  | pset core psel pd pa pb pop => exact execPset_form core psel pd pa pb pop s
  | tdset core psel td fld sa add => exact execTdset_form core psel td fld sa add s
  | tdcopy core psel tdd tda => exact execTdcopy_form core psel tdd tda s
  | loop core psel count body iter si => exact execLoop_form core psel count body iter si s
  | syncBar core psel mask id => exact execSyncBar_form core psel mask id s
  | syncBarRelease core => exact execSyncBarRelease_form core s
  | fenceEng core psel cmask => exact execFenceEng_form core psel cmask s
  | fenceGmem core psel scope sa => exact execFenceGmem_form core psel scope sa s
  | fenceRelease core => exact execFenceRelease_form core s
  | nop core psel => exact execNop_form core psel s
  | tickEnd core psel => exact execTickEnd_form core psel s
  | tickWait core psel src sa offs => exact execTickWait_form core psel src sa offs s
  | tickWaitRelease core => exact execTickWaitRelease_form core s
  | tickFrame core psel sd se => exact execTickFrame_form core psel sd se s
  | tickNow core psel sd => exact execTickNow_form core psel sd s
  | moveTile core psel tdd tda o z rnd => exact execMoveTile_form core psel tdd tda o z rnd s
  | moveFill core psel tdd o z ss => exact execMoveFill_form core psel tdd o z ss s
  | mmLoad core psel tda o z => exact execMmLoad_form core psel tda o z s
  | arrayFillDone core => exact execArrayFillDone_form core s
  | mmRun core psel tda o z accset acc skim skimAt st => exact execMmRun_form core psel tda o z accset acc skim skimAt st s
  | mmStore core psel tdd o z rnd accset => exact execMmStore_form core psel tdd o z rnd accset s
  | mmPair core psel tda tdb z accset acc => exact execMmPair_form core psel tda tdb z accset acc s
  | rowSmax core psel tdd tda z rnd stat ss => exact execRowSmax_form core psel tdd tda z rnd stat ss s
  | rowNorm core psel tdd tda tdc z rnd stat ss nkind => exact execRowNorm_form core psel tdd tda tdc z rnd stat ss nkind s
  | rowSmaxB core psel tdd tda tdb z rnd stat recomp ss => exact execRowSmaxB_form core psel tdd tda tdb z rnd stat recomp ss s
  | rowNormB core psel tdd tda tdb tdc z rnd stat recomp ss nkind => exact execRowNormB_form core psel tdd tda tdb tdc z rnd stat recomp ss nkind s
  | vadd core psel tdd tda tdb z rnd => exact execVadd_form core psel tdd tda tdb z rnd s
  | vmul core psel tdd tda tdb z rnd => exact execVmul_form core psel tdd tda tdb z rnd s
  | vfma core psel tdd tda tdb tdc z rnd => exact execVfma_form core psel tdd tda tdb tdc z rnd s
  | vscale core psel tdd tda z rnd ss => exact execVscale_form core psel tdd tda z rnd ss s
  | vact core psel tdd tda z rnd fn => exact execVact_form core psel tdd tda z rnd fn s
  | vamax core psel tda z ss => exact execVamax_form core psel tda z ss s
  | vgate core psel tdd tda tdb z rnd => exact execVgate_form core psel tdd tda tdb z rnd s
  | vopt core psel tdd tda tdb tdc z rnd ss fn => exact execVopt_form core psel tdd tda tdb tdc z rnd ss fn s
  | sepSelect core psel tdd tda layer e k shared gate sn => exact execSepSelect_form core psel tdd tda layer e k shared gate sn s
  | sepHash core psel tdd tda layer e k salt => exact execSepHash_form core psel tdd tda layer e k salt s
  | dieCollectiveStart die eng => exact execDieCollectiveStart_form die eng s
  | capacityVectorArrive die => exact execCapacityVectorArrive_form die s
  | capacityWriteBackEnd die => exact execCapacityWriteBackEnd_form die s
  | churnSort core psel tdd tda buckets key layer => exact execChurnSort_form core psel tdd tda buckets key layer s
  | churnRestore core psel tdd tda tdb layer => exact execChurnRestore_form core psel tdd tda tdb layer s
  | xchDispatch core psel tda slot sg => exact execXchDispatch_form core psel tda slot sg s
  | xchRecv core psel tdd slot => exact execXchRecv_form core psel tdd slot s
  | xchReturn core psel tda slot => exact execXchReturn_form core psel tda slot s
  | xchCombine core psel tdd slot sg => exact execXchCombine_form core psel tdd slot sg s
  | collBcast core psel tda desc => exact execCollBcast_form core psel tda desc s
  | collReduce core psel tdd tda desc => exact execCollReduce_form core psel tdd tda desc s
  | collWait core psel desc => exact execCollWait_form core psel desc s
  | gld core psel tdd sl win so len => exact execGld_form core psel tdd sl win so len s
  | gst core psel tda sl win so len => exact execGst_form core psel tda sl win so len s
  | gatom core psel sd sa sb win so aop => exact execGatom_form core psel sd sa sb win so aop s
  | palloc core psel sd sa => exact execPalloc_form core psel sd sa s
  | pfree core psel sa => exact execPfree_form core psel sa s
  | pshare core psel sa sb => exact execPshare_form core psel sa sb s
  | tdpail core psel td sa => exact execTdpail_form core psel td sa s
  | tpromote core psel sa tier => exact execTpromote_form core psel sa tier s
  | tevict core psel sa tier => exact execTevict_form core psel sa tier s
  | ttouch core psel sa => exact execTtouch_form core psel sa s
  | twait core psel sa => exact execTwait_form core psel sa s
  | queueHeadRelease core eng => exact execQueueHeadRelease_form core eng s
  | instructionRetire core eng => exact execInstructionRetire_form core eng s
  | pailRequestApply core => exact execPailRequestApply_form core s
  | load master same => exact execLoad_form master same s
  | admissionEnd at_ => exact execAdmissionEnd_form at_ s
  | restoreEnd at_ => exact execRestoreEnd_form at_ s
  | abort master same => exact execAbort_form master same s
  | stop master same => exact execStop_form master same s
  | release master same => exact execRelease_form master same s
  | releaseZeroingEnd at_ => exact execReleaseZeroingEnd_form at_ s
  | jobStopFrameWrite master same value => exact execJobStopFrameWrite_form master same value s
  | arm master same => exact execArm_form master same s
  | disarm master same => exact execDisarm_form master same s
  | launchCountReached => exact execLaunchCountReached_form s
  | frameOpen => exact execFrameOpen_form s
  | guardStart => exact execGuardStart_form s
  | frameClose => exact execFrameClose_form s
  | drainEnd => exact execDrainEnd_form s
  | teardownComplete at_ => exact execTeardownComplete_form at_ s
  | throttleStep => exact execThrottleStep_form s
  | herdReadyOffset => exact execHerdReadyOffset_form s
  | herdAdd => exact execHerdAdd_form s
  | herdCancel => exact execHerdCancel_form s
  | herdChangeStops => exact execHerdChangeStops_form s
  | herdHold => exact execHerdHold_form s
  | herdRelease => exact execHerdRelease_form s
  | herdFlush => exact execHerdFlush_form s
  | tierMoveCommit obj => exact execTierMoveCommit_form obj s
  | snapCutComplete => exact execSnapCutComplete_form s
  | nvmeCompletion status => exact execNvmeCompletion_form status s
  | mirrorData p => exact execMirrorData_form p s
  | mirrorCommit p => exact execMirrorCommit_form p s
  | gmemRequestArrive p => exact execGmemRequestArrive_form p s
  | gmemResponseArrive p => exact execGmemResponseArrive_form p s
  | gmemRetry node seq => exact execGmemRetry_form node seq s
  | gmemTimeout node seq => exact execGmemTimeout_form node seq s
  | gmemMgmtCancel master same value => exact execGmemMgmtCancel_form master same value s
  | windowCommand master same => exact execWindowCommand_form master same s
  | gmemCfgWrite master same value => exact execGmemCfgWrite_form master same value s
  | lendBegin master same => exact execLendBegin_form master same s
  | lendEnd master same => exact execLendEnd_form master same s
  | lendZeroingEnd at_ => exact execLendZeroingEnd_form at_ s
  | timeMessage p => exact execTimeMessage_form p s
  | timestampBlock port t1 t2 t3 t4 status node => exact execTimestampBlock_form port t1 t2 t3 t4 status node s
  | timestampSend port => exact execTimestampSend_form port s
  | syncParentTimeout => exact execSyncParentTimeout_form s
  | tickSyncCfgWrite master same value => exact execTickSyncCfgWrite_form master same value s
  | linkBlockReceive port body trailer => exact execLinkBlockReceive_form port body trailer s
  | ackTimeout port => exact execAckTimeout_form port s
  | pmdLockLoss port => exact execPmdLockLoss_form port s
  | portTrainingStart port => exact execPortTrainingStart_form port s
  | portTrainingEnd port ok reversed polarity => exact execPortTrainingEnd_form port ok reversed polarity s
  | portEnable master same fd port => exact execPortEnable_form master same fd port s
  | portDisable master same fd port => exact execPortDisable_form master same fd port s
  | probeSend master same fd port => exact execProbeSend_form master same fd port s
  | probe port p => exact execProbe_form port p s
  | probeAnswer port p => exact execProbeAnswer_form port p s
  | packetArrive port p => exact execPacketArrive_form port p s
  | packetDeliver p => exact execPacketDeliver_form p s
  | reorderTimeout tag epoch src chan => exact execReorderTimeout_form tag epoch src chan s
  | routeCommand master same => exact execRouteCommand_form master same s
  | routeCommit => exact execRouteCommit_form s
  | congestionWindowEnd => exact execCongestionWindowEnd_form s
  | summaryPeriodLatch => exact execSummaryPeriodLatch_form s
  | bridgeFlitReplay dir overshare again => exact execBridgeFlitReplay_form dir overshare again s
  | deliveryStream p => exact execDeliveryStream_form p s
  | deliveryEndMarker p => exact execDeliveryEndMarker_form p s
  | returnStream p => exact execReturnStream_form p s
  | returnEndMarker p => exact execReturnEndMarker_form p s
  | collInvocationStart desc => exact execCollInvocationStart_form desc s
  | reductionStream p => exact execReductionStream_form p s
  | reductionEndMarker p => exact execReductionEndMarker_form p s
  | broadcastStream p => exact execBroadcastStream_form p s
  | broadcastEndMarker p => exact execBroadcastEndMarker_form p s
  | collReport p more => exact execCollReport_form p s more
  | sampleRecords p more => exact execSampleRecords_form p s more
  | collDeadline desc inv => exact execCollDeadline_form desc inv s
  | token p => exact execToken_form p s
  | tokenAcknowledgement p => exact execTokenAcknowledgement_form p s
  | tokenRepeat desc inv => exact execTokenRepeat_form desc inv s
  | lockstepChunkHash p => exact execLockstepChunkHash_form p s
  | lockstepArmRecord p => exact execLockstepArmRecord_form p s
  | lockstepFrameDigests p => exact execLockstepFrameDigests_form p s
  | lockstepGranuleRecords p => exact execLockstepGranuleRecords_form p s
  | lockstepHalt p => exact execLockstepHalt_form p s
  | twinCfgModeWrite master same value => exact execTwinCfgModeWrite_form master same value s
  | registerWrite master same offset value enables => exact execRegisterWrite_form master same offset value enables s
  | aliasSet master same page base value => exact execAliasSet_form master same page base value s
  | aliasClear master same page base value => exact execAliasClear_form master same page base value s
  | aliasToggle master same page base value => exact execAliasToggle_form master same page base value s
  | guardValueWrite master same page reg value => exact execGuardValueWrite_form master same page reg value s
  | guardComplementWrite master same page reg value => exact execGuardComplementWrite_form master same page reg value s
  | guardWindowExpire page master => exact execGuardWindowExpire_form page master s
  | mbxSelWrite master same page sel => exact execMbxSelWrite_form master same page sel s
  | mailboxReady page master cc => exact execMailboxReady_form page master cc s
  | v3FieldRead page reg => exact execV3FieldRead_form page reg s
  | voteScrub => exact execVoteScrub_form s
  | resetRelease _ => exact Bool.noConfusion hb
  | startStepEnd step ok ms => exact execStartStepEnd_form step ok ms s
  | pwrgoodFall => exact Bool.noConfusion hb
  | railSample _ _ => exact Bool.noConfusion hb
  | tempSample temps power => exact execTempSample_form temps power s
  | reductionExit die => exact execReductionExit_form die s
  | pwrCapWrite master same value => exact execPwrCapWrite_form master same value s
  | pwrTjWrite master same value => exact execPwrTjWrite_form master same value s
  | joinHello => exact execJoinHello_form s
  | joinAccept p => exact execJoinAccept_form p s
  | rekey p => exact execRekey_form p s
  | oldKeyExpire => exact execOldKeyExpire_form s
  | quoteRequest p => exact execQuoteRequest_form p s
  | secQuoteCmd master same => exact execSecQuoteCmd_form master same s
  | quoteDone => exact execQuoteDone_form s
  | reportAck p => exact execReportAck_form p s
  | reportRepeat order => exact execReportRepeat_form order s
  | securityCheck sramOk keyOk => exact execSecurityCheck_form sramOk keyOk s
  | smbStartWord _ _ => exact Bool.noConfusion hb
  | smbStatus _ => exact Bool.noConfusion hb
  | smbTemperature _ => exact Bool.noConfusion hb
  | smbPower _ => exact Bool.noConfusion hb
  | smbEvents _ => exact Bool.noConfusion hb
  | smbInventory _ => exact Bool.noConfusion hb
  | smbAlertResponse _ => exact Bool.noConfusion hb
  | bypass _ => exact Bool.noConfusion hb
  | idcode => exact Bool.noConfusion hb
  | samplePreload _ => exact Bool.noConfusion hb
  | extest _ => exact Bool.noConfusion hb
  | clamp => exact Bool.noConfusion hb
  | highz => exact Bool.noConfusion hb
  | endpointReset _ => exact Bool.noConfusion hb
  | configRequest write reg value => exact execConfigRequest_form write reg value s
  | hbmWindowAccess write offset len bytes => exact execHbmWindowAccess_form write offset len bytes s
  | msixUnmask access => exact execMsixUnmask_form access s
  | completionTimeout how addr obj => exact execCompletionTimeout_form how addr obj s
  | nvmeEnable master same value => exact execNvmeEnable_form master same value s
  | nvmeLinkDown => exact execNvmeLinkDown_form s
  | flashErase master same => exact execFlashErase_form master same s
  | flashProgram master same => exact execFlashProgram_form master same s
  | flashRead master same => exact execFlashRead_form master same s
  | flashCommandDone at_ ok => exact execFlashCommandDone_form at_ ok s
  | runStart => exact execRunStart_form s
  | throttleStepEnd => exact execThrottleStepEnd_form s
  | capacityStateReadEnd die => exact execCapacityStateReadEnd_form die s
  | stagedResultComplete desc inv more => exact execStagedResultComplete_form desc inv s more
  | mirrorSendEnd => exact execMirrorSendEnd_form s
  | resetAssert => exact Bool.noConfusion hb
  | perstDeassert => exact Bool.noConfusion hb
  | refclkStart => exact Bool.noConfusion hb
  | testLogicReset => exact Bool.noConfusion hb
  | managementRequest p => exact execManagementRequest_form p s

/-- The form of every command of the board. -/
theorem exec_ofBoard {i : Instr} (s : State) (hb : i.board = true) : Result.OfBoard s (exec i s) := by
  cases i with
  | sadd _ _ _ _ _ _ _ => exact Bool.noConfusion hb
  | ssub _ _ _ _ _ _ _ => exact Bool.noConfusion hb
  | smul _ _ _ _ _ _ _ => exact Bool.noConfusion hb
  | sand _ _ _ _ _ _ _ => exact Bool.noConfusion hb
  | sor _ _ _ _ _ _ _ => exact Bool.noConfusion hb
  | sxor _ _ _ _ _ _ _ => exact Bool.noConfusion hb
  | sshl _ _ _ _ _ _ _ => exact Bool.noConfusion hb
  | sshr _ _ _ _ _ _ _ => exact Bool.noConfusion hb
  | ssra _ _ _ _ _ _ _ => exact Bool.noConfusion hb
  | smovi _ _ _ _ => exact Bool.noConfusion hb
  | scmp _ _ _ _ _ _ _ _ => exact Bool.noConfusion hb
  | pset _ _ _ _ _ _ => exact Bool.noConfusion hb
  | tdset _ _ _ _ _ _ => exact Bool.noConfusion hb
  | tdcopy _ _ _ _ => exact Bool.noConfusion hb
  | loop _ _ _ _ _ _ => exact Bool.noConfusion hb
  | syncBar _ _ _ _ => exact Bool.noConfusion hb
  | syncBarRelease _ => exact Bool.noConfusion hb
  | fenceEng _ _ _ => exact Bool.noConfusion hb
  | fenceGmem _ _ _ _ => exact Bool.noConfusion hb
  | fenceRelease _ => exact Bool.noConfusion hb
  | nop _ _ => exact Bool.noConfusion hb
  | tickEnd _ _ => exact Bool.noConfusion hb
  | tickWait _ _ _ _ _ => exact Bool.noConfusion hb
  | tickWaitRelease _ => exact Bool.noConfusion hb
  | tickFrame _ _ _ _ => exact Bool.noConfusion hb
  | tickNow _ _ _ => exact Bool.noConfusion hb
  | moveTile _ _ _ _ _ _ _ => exact Bool.noConfusion hb
  | moveFill _ _ _ _ _ _ => exact Bool.noConfusion hb
  | mmLoad _ _ _ _ _ => exact Bool.noConfusion hb
  | arrayFillDone _ => exact Bool.noConfusion hb
  | mmRun _ _ _ _ _ _ _ _ _ _ => exact Bool.noConfusion hb
  | mmStore _ _ _ _ _ _ _ => exact Bool.noConfusion hb
  | mmPair _ _ _ _ _ _ _ => exact Bool.noConfusion hb
  | rowSmax _ _ _ _ _ _ _ _ => exact Bool.noConfusion hb
  | rowNorm _ _ _ _ _ _ _ _ _ _ => exact Bool.noConfusion hb
  | rowSmaxB _ _ _ _ _ _ _ _ _ _ => exact Bool.noConfusion hb
  | rowNormB _ _ _ _ _ _ _ _ _ _ _ _ => exact Bool.noConfusion hb
  | vadd _ _ _ _ _ _ _ => exact Bool.noConfusion hb
  | vmul _ _ _ _ _ _ _ => exact Bool.noConfusion hb
  | vfma _ _ _ _ _ _ _ _ => exact Bool.noConfusion hb
  | vscale _ _ _ _ _ _ _ => exact Bool.noConfusion hb
  | vact _ _ _ _ _ _ _ => exact Bool.noConfusion hb
  | vamax _ _ _ _ _ => exact Bool.noConfusion hb
  | vgate _ _ _ _ _ _ _ => exact Bool.noConfusion hb
  | vopt _ _ _ _ _ _ _ _ _ _ => exact Bool.noConfusion hb
  | sepSelect _ _ _ _ _ _ _ _ _ _ => exact Bool.noConfusion hb
  | sepHash _ _ _ _ _ _ _ _ => exact Bool.noConfusion hb
  | dieCollectiveStart _ _ => exact Bool.noConfusion hb
  | capacityVectorArrive _ => exact Bool.noConfusion hb
  | capacityWriteBackEnd _ => exact Bool.noConfusion hb
  | churnSort _ _ _ _ _ _ _ => exact Bool.noConfusion hb
  | churnRestore _ _ _ _ _ _ => exact Bool.noConfusion hb
  | xchDispatch _ _ _ _ _ => exact Bool.noConfusion hb
  | xchRecv _ _ _ _ => exact Bool.noConfusion hb
  | xchReturn _ _ _ _ => exact Bool.noConfusion hb
  | xchCombine _ _ _ _ _ => exact Bool.noConfusion hb
  | collBcast _ _ _ _ => exact Bool.noConfusion hb
  | collReduce _ _ _ _ _ => exact Bool.noConfusion hb
  | collWait _ _ _ => exact Bool.noConfusion hb
  | gld _ _ _ _ _ _ _ => exact Bool.noConfusion hb
  | gst _ _ _ _ _ _ _ => exact Bool.noConfusion hb
  | gatom _ _ _ _ _ _ _ _ => exact Bool.noConfusion hb
  | palloc _ _ _ _ => exact Bool.noConfusion hb
  | pfree _ _ _ => exact Bool.noConfusion hb
  | pshare _ _ _ _ => exact Bool.noConfusion hb
  | tdpail _ _ _ _ => exact Bool.noConfusion hb
  | tpromote _ _ _ _ => exact Bool.noConfusion hb
  | tevict _ _ _ _ => exact Bool.noConfusion hb
  | ttouch _ _ _ => exact Bool.noConfusion hb
  | twait _ _ _ => exact Bool.noConfusion hb
  | queueHeadRelease _ _ => exact Bool.noConfusion hb
  | instructionRetire _ _ => exact Bool.noConfusion hb
  | pailRequestApply _ => exact Bool.noConfusion hb
  | load _ _ => exact Bool.noConfusion hb
  | admissionEnd _ => exact Bool.noConfusion hb
  | restoreEnd _ => exact Bool.noConfusion hb
  | abort _ _ => exact Bool.noConfusion hb
  | stop _ _ => exact Bool.noConfusion hb
  | release _ _ => exact Bool.noConfusion hb
  | releaseZeroingEnd _ => exact Bool.noConfusion hb
  | jobStopFrameWrite _ _ _ => exact Bool.noConfusion hb
  | arm _ _ => exact Bool.noConfusion hb
  | disarm _ _ => exact Bool.noConfusion hb
  | launchCountReached => exact Bool.noConfusion hb
  | frameOpen => exact Bool.noConfusion hb
  | guardStart => exact Bool.noConfusion hb
  | frameClose => exact Bool.noConfusion hb
  | drainEnd => exact Bool.noConfusion hb
  | teardownComplete _ => exact Bool.noConfusion hb
  | throttleStep => exact Bool.noConfusion hb
  | herdReadyOffset => exact Bool.noConfusion hb
  | herdAdd => exact Bool.noConfusion hb
  | herdCancel => exact Bool.noConfusion hb
  | herdChangeStops => exact Bool.noConfusion hb
  | herdHold => exact Bool.noConfusion hb
  | herdRelease => exact Bool.noConfusion hb
  | herdFlush => exact Bool.noConfusion hb
  | tierMoveCommit _ => exact Bool.noConfusion hb
  | snapCutComplete => exact Bool.noConfusion hb
  | nvmeCompletion _ => exact Bool.noConfusion hb
  | mirrorData _ => exact Bool.noConfusion hb
  | mirrorCommit _ => exact Bool.noConfusion hb
  | gmemRequestArrive _ => exact Bool.noConfusion hb
  | gmemResponseArrive _ => exact Bool.noConfusion hb
  | gmemRetry _ _ => exact Bool.noConfusion hb
  | gmemTimeout _ _ => exact Bool.noConfusion hb
  | gmemMgmtCancel _ _ _ => exact Bool.noConfusion hb
  | windowCommand _ _ => exact Bool.noConfusion hb
  | gmemCfgWrite _ _ _ => exact Bool.noConfusion hb
  | lendBegin _ _ => exact Bool.noConfusion hb
  | lendEnd _ _ => exact Bool.noConfusion hb
  | lendZeroingEnd _ => exact Bool.noConfusion hb
  | timeMessage _ => exact Bool.noConfusion hb
  | timestampBlock _ _ _ _ _ _ _ => exact Bool.noConfusion hb
  | timestampSend _ => exact Bool.noConfusion hb
  | syncParentTimeout => exact Bool.noConfusion hb
  | tickSyncCfgWrite _ _ _ => exact Bool.noConfusion hb
  | linkBlockReceive _ _ _ => exact Bool.noConfusion hb
  | ackTimeout _ => exact Bool.noConfusion hb
  | pmdLockLoss _ => exact Bool.noConfusion hb
  | portTrainingStart _ => exact Bool.noConfusion hb
  | portTrainingEnd _ _ _ _ => exact Bool.noConfusion hb
  | portEnable _ _ _ _ => exact Bool.noConfusion hb
  | portDisable _ _ _ _ => exact Bool.noConfusion hb
  | probeSend _ _ _ _ => exact Bool.noConfusion hb
  | probe _ _ => exact Bool.noConfusion hb
  | probeAnswer _ _ => exact Bool.noConfusion hb
  | packetArrive _ _ => exact Bool.noConfusion hb
  | packetDeliver _ => exact Bool.noConfusion hb
  | reorderTimeout _ _ _ _ => exact Bool.noConfusion hb
  | routeCommand _ _ => exact Bool.noConfusion hb
  | routeCommit => exact Bool.noConfusion hb
  | congestionWindowEnd => exact Bool.noConfusion hb
  | summaryPeriodLatch => exact Bool.noConfusion hb
  | bridgeFlitReplay _ _ _ => exact Bool.noConfusion hb
  | deliveryStream _ => exact Bool.noConfusion hb
  | deliveryEndMarker _ => exact Bool.noConfusion hb
  | returnStream _ => exact Bool.noConfusion hb
  | returnEndMarker _ => exact Bool.noConfusion hb
  | collInvocationStart _ => exact Bool.noConfusion hb
  | reductionStream _ => exact Bool.noConfusion hb
  | reductionEndMarker _ => exact Bool.noConfusion hb
  | broadcastStream _ => exact Bool.noConfusion hb
  | broadcastEndMarker _ => exact Bool.noConfusion hb
  | collReport _ _ => exact Bool.noConfusion hb
  | sampleRecords _ _ => exact Bool.noConfusion hb
  | collDeadline _ _ => exact Bool.noConfusion hb
  | token _ => exact Bool.noConfusion hb
  | tokenAcknowledgement _ => exact Bool.noConfusion hb
  | tokenRepeat _ _ => exact Bool.noConfusion hb
  | lockstepChunkHash _ => exact Bool.noConfusion hb
  | lockstepArmRecord _ => exact Bool.noConfusion hb
  | lockstepFrameDigests _ => exact Bool.noConfusion hb
  | lockstepGranuleRecords _ => exact Bool.noConfusion hb
  | lockstepHalt _ => exact Bool.noConfusion hb
  | twinCfgModeWrite _ _ _ => exact Bool.noConfusion hb
  | registerWrite _ _ _ _ _ => exact Bool.noConfusion hb
  | aliasSet _ _ _ _ _ => exact Bool.noConfusion hb
  | aliasClear _ _ _ _ _ => exact Bool.noConfusion hb
  | aliasToggle _ _ _ _ _ => exact Bool.noConfusion hb
  | guardValueWrite _ _ _ _ _ => exact Bool.noConfusion hb
  | guardComplementWrite _ _ _ _ _ => exact Bool.noConfusion hb
  | guardWindowExpire _ _ => exact Bool.noConfusion hb
  | mbxSelWrite _ _ _ _ => exact Bool.noConfusion hb
  | mailboxReady _ _ _ => exact Bool.noConfusion hb
  | v3FieldRead _ _ => exact Bool.noConfusion hb
  | voteScrub => exact Bool.noConfusion hb
  | resetRelease held => exact execResetRelease_form held s
  | startStepEnd _ _ _ => exact Bool.noConfusion hb
  | pwrgoodFall => exact execPwrgoodFall_form s
  | railSample inRange low => exact execRailSample_form inRange low s
  | tempSample _ _ => exact Bool.noConfusion hb
  | reductionExit _ => exact Bool.noConfusion hb
  | pwrCapWrite _ _ _ => exact Bool.noConfusion hb
  | pwrTjWrite _ _ _ => exact Bool.noConfusion hb
  | joinHello => exact Bool.noConfusion hb
  | joinAccept _ => exact Bool.noConfusion hb
  | rekey _ => exact Bool.noConfusion hb
  | oldKeyExpire => exact Bool.noConfusion hb
  | quoteRequest _ => exact Bool.noConfusion hb
  | secQuoteCmd _ _ => exact Bool.noConfusion hb
  | quoteDone => exact Bool.noConfusion hb
  | reportAck _ => exact Bool.noConfusion hb
  | reportRepeat _ => exact Bool.noConfusion hb
  | securityCheck _ _ => exact Bool.noConfusion hb
  | smbStartWord word pecOk => exact execSmbStartWord_form word pecOk s
  | smbStatus req => exact execSmbStatus_form req s
  | smbTemperature pecOk => exact execSmbTemperature_form pecOk s
  | smbPower pecOk => exact execSmbPower_form pecOk s
  | smbEvents pecOk => exact execSmbEvents_form pecOk s
  | smbInventory pecOk => exact execSmbInventory_form pecOk s
  | smbAlertResponse pecOk => exact execSmbAlertResponse_form pecOk s
  | bypass code => exact execBypass_form code s
  | idcode => exact execIdcode_form s
  | samplePreload preload => exact execSamplePreload_form preload s
  | extest shift => exact execExtest_form shift s
  | clamp => exact execClamp_form s
  | highz => exact execHighz_form s
  | endpointReset kind => exact execEndpointReset_form kind s
  | configRequest _ _ _ => exact Bool.noConfusion hb
  | hbmWindowAccess _ _ _ _ => exact Bool.noConfusion hb
  | msixUnmask _ => exact Bool.noConfusion hb
  | completionTimeout _ _ _ => exact Bool.noConfusion hb
  | nvmeEnable _ _ _ => exact Bool.noConfusion hb
  | nvmeLinkDown => exact Bool.noConfusion hb
  | flashErase _ _ => exact Bool.noConfusion hb
  | flashProgram _ _ => exact Bool.noConfusion hb
  | flashRead _ _ => exact Bool.noConfusion hb
  | flashCommandDone _ _ => exact Bool.noConfusion hb
  | runStart => exact Bool.noConfusion hb
  | throttleStepEnd => exact Bool.noConfusion hb
  | capacityStateReadEnd _ => exact Bool.noConfusion hb
  | stagedResultComplete _ _ _ => exact Bool.noConfusion hb
  | mirrorSendEnd => exact Bool.noConfusion hb
  | resetAssert => exact execResetAssert_form s
  | perstDeassert => exact execPerstDeassert_form s
  | refclkStart => exact execRefclkStart_form s
  | testLogicReset => exact execTestLogicReset_form s
  | managementRequest _ => exact Bool.noConfusion hb

/-- Every command changes time and the device at most, never the queue. -/
theorem exec_next (i : Instr) (s : State) : ∃ k d, exec i s = .next { s with clk := k, dev := d } := by
  cases hb : i.board with
  | true => exact (exec_ofBoard s hb).cases
  | false =>
    rcases (exec_ofDevice s hb).cases with h | ⟨_, h⟩
    · exact ⟨_, _, h⟩
    · exact h

/-- Without clocks, a command that is not the board's changes nothing. -/
theorem exec_stopped {i : Instr} {s : State} (hb : i.board = false) (hc : s.dev.clocked = false) : exec i s = .next s := by
  rcases (exec_ofDevice s hb).cases with h | ⟨h, _⟩
  · exact h
  · rw [hc] at h; exact absurd h (by decide)

end Sys2Proof.Machine
end

