-- ==== Sys2Proof/Laws/PerInstr.lean ====
section
/-! SUPPORT. The words of the Tynil instructions: each carries its class, its opcode and its predicate select where
Table ENC-1 places them. -/

namespace Sys2Proof

namespace Machine

theorem sumBy_acc {α : Type} (l : List α) (f : α → Nat) (n : Nat) :
    l.foldl (fun a x => a + f x) n = n + sumBy l f := by
  induction l generalizing n with
  | nil => rfl
  | cons x t ih => unfold sumBy; rw [List.foldl_cons, List.foldl_cons, ih, ih]; omega

theorem sumBy_cons {α : Type} (x : α) (l : List α) (f : α → Nat) : sumBy (x :: l) f = f x + sumBy l f := by
  unfold sumBy; rw [List.foldl_cons, sumBy_acc, Nat.zero_add]; rfl

theorem sumBy_nil {α : Type} (f : α → Nat) : sumBy [] f = 0 := rfl

/-- A word made of a class, an opcode, a predicate select and fields below bit 112 carries them (Table ENC-1). -/
theorem mkWord_code (cls opc : Nat) (psel : BitVec 4) (fs : List (Nat × Nat)) (hc : cls < 16) (ho : opc < 256)
    (hf : (sumBy fs fun f => f.2 * 2 ^ f.1) < 2 ^ 112) :
    wCls (mkWord cls opc psel fs) = cls ∧ wOp (mkWord cls opc psel fs) = opc ∧
      wPsel (mkWord cls opc psel fs) = psel.toNat := by
  have hp := psel.isLt
  unfold wCls wOp wPsel wbits bitRange mkWord
  rw [BitVec.toNat_ofNat]
  generalize (sumBy fs fun f => f.2 * 2 ^ f.1) = n at hf
  generalize psel.toNat = p at hp
  norm_num at hf hp ⊢
  refine ⟨?_, ?_, ?_⟩ <;> omega

end Machine

/-- A Tynil instruction's word carries the instruction's class and opcode. -/
def Laws.WordCode.Statement (i : Instr) : Prop :=
  ∀ c w, i.word = some (c, w) → i.code = some (Machine.wCls w, Machine.wOp w)

namespace Laws.WordCode

open Machine

/-- From the word of an instruction and its code. -/
theorem of_word {i : Instr} {c : Fin 48} {cls opc : Nat} {psel : BitVec 4} {fs : List (Nat × Nat)}
    (hw : i.word = some (c, mkWord cls opc psel fs)) (hi : i.code = some (cls, opc)) (hc : cls < 16) (ho : opc < 256)
    (hf : (sumBy fs fun f => f.2 * 2 ^ f.1) < 2 ^ 112) : Statement i := by
  intro c' w h
  rw [hw] at h
  simp only [Option.some.injEq, Prod.mk.injEq] at h
  obtain ⟨_, rfl⟩ := h
  obtain ⟨h1, h2, _⟩ := mkWord_code cls opc psel fs hc ho hf
  rw [hi, h1, h2]

theorem sadd (core : Fin 48) (psel : BitVec 4) (sd sa sb : BitVec 5) (imm : Bool) (imm32 : BitVec 32) : Statement (.sadd core psel sd sa sb imm imm32) := by
  have h1 := sd.isLt
  have h2 := sa.isLt
  have h3 := sb.isLt
  have h4 := imm.toNat_lt
  have h5 := imm32.isLt
  refine of_word rfl rfl (by decide) (by decide) ?_
  norm_num [sumBy_cons, sumBy_nil] at *; omega

theorem ssub (core : Fin 48) (psel : BitVec 4) (sd sa sb : BitVec 5) (imm : Bool) (imm32 : BitVec 32) : Statement (.ssub core psel sd sa sb imm imm32) := by
  have h1 := sd.isLt
  have h2 := sa.isLt
  have h3 := sb.isLt
  have h4 := imm.toNat_lt
  have h5 := imm32.isLt
  refine of_word rfl rfl (by decide) (by decide) ?_
  norm_num [sumBy_cons, sumBy_nil] at *; omega

theorem smul (core : Fin 48) (psel : BitVec 4) (sd sa sb : BitVec 5) (imm : Bool) (imm32 : BitVec 32) : Statement (.smul core psel sd sa sb imm imm32) := by
  have h1 := sd.isLt
  have h2 := sa.isLt
  have h3 := sb.isLt
  have h4 := imm.toNat_lt
  have h5 := imm32.isLt
  refine of_word rfl rfl (by decide) (by decide) ?_
  norm_num [sumBy_cons, sumBy_nil] at *; omega

theorem sand (core : Fin 48) (psel : BitVec 4) (sd sa sb : BitVec 5) (imm : Bool) (imm32 : BitVec 32) : Statement (.sand core psel sd sa sb imm imm32) := by
  have h1 := sd.isLt
  have h2 := sa.isLt
  have h3 := sb.isLt
  have h4 := imm.toNat_lt
  have h5 := imm32.isLt
  refine of_word rfl rfl (by decide) (by decide) ?_
  norm_num [sumBy_cons, sumBy_nil] at *; omega

theorem sor (core : Fin 48) (psel : BitVec 4) (sd sa sb : BitVec 5) (imm : Bool) (imm32 : BitVec 32) : Statement (.sor core psel sd sa sb imm imm32) := by
  have h1 := sd.isLt
  have h2 := sa.isLt
  have h3 := sb.isLt
  have h4 := imm.toNat_lt
  have h5 := imm32.isLt
  refine of_word rfl rfl (by decide) (by decide) ?_
  norm_num [sumBy_cons, sumBy_nil] at *; omega

theorem sxor (core : Fin 48) (psel : BitVec 4) (sd sa sb : BitVec 5) (imm : Bool) (imm32 : BitVec 32) : Statement (.sxor core psel sd sa sb imm imm32) := by
  have h1 := sd.isLt
  have h2 := sa.isLt
  have h3 := sb.isLt
  have h4 := imm.toNat_lt
  have h5 := imm32.isLt
  refine of_word rfl rfl (by decide) (by decide) ?_
  norm_num [sumBy_cons, sumBy_nil] at *; omega

theorem sshl (core : Fin 48) (psel : BitVec 4) (sd sa sb : BitVec 5) (imm : Bool) (imm32 : BitVec 32) : Statement (.sshl core psel sd sa sb imm imm32) := by
  have h1 := sd.isLt
  have h2 := sa.isLt
  have h3 := sb.isLt
  have h4 := imm.toNat_lt
  have h5 := imm32.isLt
  refine of_word rfl rfl (by decide) (by decide) ?_
  norm_num [sumBy_cons, sumBy_nil] at *; omega

theorem sshr (core : Fin 48) (psel : BitVec 4) (sd sa sb : BitVec 5) (imm : Bool) (imm32 : BitVec 32) : Statement (.sshr core psel sd sa sb imm imm32) := by
  have h1 := sd.isLt
  have h2 := sa.isLt
  have h3 := sb.isLt
  have h4 := imm.toNat_lt
  have h5 := imm32.isLt
  refine of_word rfl rfl (by decide) (by decide) ?_
  norm_num [sumBy_cons, sumBy_nil] at *; omega

theorem ssra (core : Fin 48) (psel : BitVec 4) (sd sa sb : BitVec 5) (imm : Bool) (imm32 : BitVec 32) : Statement (.ssra core psel sd sa sb imm imm32) := by
  have h1 := sd.isLt
  have h2 := sa.isLt
  have h3 := sb.isLt
  have h4 := imm.toNat_lt
  have h5 := imm32.isLt
  refine of_word rfl rfl (by decide) (by decide) ?_
  norm_num [sumBy_cons, sumBy_nil] at *; omega

theorem smovi (core : Fin 48) (psel : BitVec 4) (sd : BitVec 5) (imm64 : BitVec 64) : Statement (.smovi core psel sd imm64) := by
  have h1 := sd.isLt
  have h2 := imm64.isLt
  refine of_word rfl rfl (by decide) (by decide) ?_
  norm_num [sumBy_cons, sumBy_nil] at *; omega

theorem scmp (core : Fin 48) (psel : BitVec 4) (pd : BitVec 3) (cond : BitVec 2) (sa sb : BitVec 5) (imm : Bool) (imm32 : BitVec 32) : Statement (.scmp core psel pd cond sa sb imm imm32) := by
  have h1 := pd.isLt
  have h2 := cond.isLt
  have h3 := sa.isLt
  have h4 := sb.isLt
  have h5 := imm.toNat_lt
  have h6 := imm32.isLt
  refine of_word rfl rfl (by decide) (by decide) ?_
  norm_num [sumBy_cons, sumBy_nil] at *; omega

theorem pset (core : Fin 48) (psel : BitVec 4) (pd pa pb : BitVec 3) (pop : BitVec 2) : Statement (.pset core psel pd pa pb pop) := by
  have h1 := pd.isLt
  have h2 := pa.isLt
  have h3 := pb.isLt
  have h4 := pop.isLt
  refine of_word rfl rfl (by decide) (by decide) ?_
  norm_num [sumBy_cons, sumBy_nil] at *; omega

theorem tdset (core : Fin 48) (psel : BitVec 4) (td : BitVec 6) (fld : BitVec 4) (sa : BitVec 5) (add : Bool) : Statement (.tdset core psel td fld sa add) := by
  have h1 := td.isLt
  have h2 := fld.isLt
  have h3 := sa.isLt
  have h4 := add.toNat_lt
  refine of_word rfl rfl (by decide) (by decide) ?_
  norm_num [sumBy_cons, sumBy_nil] at *; omega

theorem tdcopy (core : Fin 48) (psel : BitVec 4) (tdd tda : BitVec 6) : Statement (.tdcopy core psel tdd tda) := by
  have h1 := tdd.isLt
  have h2 := tda.isLt
  refine of_word rfl rfl (by decide) (by decide) ?_
  norm_num [sumBy_cons, sumBy_nil] at *; omega

theorem loop (core : Fin 48) (psel : BitVec 4) (count : BitVec 16) (body : BitVec 18) (iter : Bool) (si : BitVec 5) : Statement (.loop core psel count body iter si) := by
  have h1 := count.isLt
  have h2 := body.isLt
  have h3 := iter.toNat_lt
  have h4 := si.isLt
  refine of_word rfl rfl (by decide) (by decide) ?_
  norm_num [sumBy_cons, sumBy_nil] at *; omega

theorem syncBar (core : Fin 48) (psel : BitVec 4) (mask : BitVec 48) (id : BitVec 8) : Statement (.syncBar core psel mask id) := by
  have h1 := mask.isLt
  have h2 := id.isLt
  refine of_word rfl rfl (by decide) (by decide) ?_
  norm_num [sumBy_cons, sumBy_nil] at *; omega

theorem syncBarRelease (core : Fin 48) : Statement (.syncBarRelease core) := fun _ _ h => nomatch h

theorem fenceEng (core : Fin 48) (psel : BitVec 4) (cmask : BitVec 13) : Statement (.fenceEng core psel cmask) := by
  have h1 := cmask.isLt
  refine of_word rfl rfl (by decide) (by decide) ?_
  norm_num [sumBy_cons, sumBy_nil] at *; omega

theorem fenceGmem (core : Fin 48) (psel : BitVec 4) (scope : Bool) (sa : BitVec 5) : Statement (.fenceGmem core psel scope sa) := by
  have h1 := scope.toNat_lt
  have h2 := sa.isLt
  refine of_word rfl rfl (by decide) (by decide) ?_
  norm_num [sumBy_cons, sumBy_nil] at *; omega

theorem fenceRelease (core : Fin 48) : Statement (.fenceRelease core) := fun _ _ h => nomatch h

theorem nop (core : Fin 48) (psel : BitVec 4) : Statement (.nop core psel) := by
  refine of_word rfl rfl (by decide) (by decide) ?_
  norm_num [sumBy_cons, sumBy_nil] at *

theorem tickEnd (core : Fin 48) (psel : BitVec 4) : Statement (.tickEnd core psel) := by
  refine of_word rfl rfl (by decide) (by decide) ?_
  norm_num [sumBy_cons, sumBy_nil] at *

theorem tickWait (core : Fin 48) (psel : BitVec 4) (src : Bool) (sa : BitVec 5) (offs : BitVec 27) : Statement (.tickWait core psel src sa offs) := by
  have h1 := src.toNat_lt
  have h2 := sa.isLt
  have h3 := offs.isLt
  refine of_word rfl rfl (by decide) (by decide) ?_
  norm_num [sumBy_cons, sumBy_nil] at *; omega

theorem tickWaitRelease (core : Fin 48) : Statement (.tickWaitRelease core) := fun _ _ h => nomatch h

theorem tickFrame (core : Fin 48) (psel : BitVec 4) (sd se : BitVec 5) : Statement (.tickFrame core psel sd se) := by
  have h1 := sd.isLt
  have h2 := se.isLt
  refine of_word rfl rfl (by decide) (by decide) ?_
  norm_num [sumBy_cons, sumBy_nil] at *; omega

theorem tickNow (core : Fin 48) (psel : BitVec 4) (sd : BitVec 5) : Statement (.tickNow core psel sd) := by
  have h1 := sd.isLt
  refine of_word rfl rfl (by decide) (by decide) ?_
  norm_num [sumBy_cons, sumBy_nil] at *; omega

theorem moveTile (core : Fin 48) (psel : BitVec 4) (tdd tda : BitVec 6) (o : Machine.Offs) (z : Machine.Size) (rnd : BitVec 2) : Statement (.moveTile core psel tdd tda o z rnd) := by
  have h1 := tdd.isLt
  have h2 := tda.isLt
  have h3 := o.sr.isLt
  have h4 := o.sc.isLt
  have h5 := o.off.toNat_lt
  have h6 := z.nr.isLt
  have h7 := z.nc.isLt
  have h8 := rnd.isLt
  refine of_word rfl rfl (by decide) (by decide) ?_
  norm_num [sumBy_cons, sumBy_nil, Offs.fields, Size.fields] at *; omega

theorem moveFill (core : Fin 48) (psel : BitVec 4) (tdd : BitVec 6) (o : Machine.Offs) (z : Machine.Size) (ss : BitVec 5) : Statement (.moveFill core psel tdd o z ss) := by
  have h1 := tdd.isLt
  have h2 := o.sr.isLt
  have h3 := o.sc.isLt
  have h4 := o.off.toNat_lt
  have h5 := z.nr.isLt
  have h6 := z.nc.isLt
  have h7 := ss.isLt
  refine of_word rfl rfl (by decide) (by decide) ?_
  norm_num [sumBy_cons, sumBy_nil, Offs.fields, Size.fields] at *; omega

theorem mmLoad (core : Fin 48) (psel : BitVec 4) (tda : BitVec 6) (o : Machine.Offs) (z : Machine.Size) : Statement (.mmLoad core psel tda o z) := by
  have h1 := tda.isLt
  have h2 := o.sr.isLt
  have h3 := o.sc.isLt
  have h4 := o.off.toNat_lt
  have h5 := z.nr.isLt
  have h6 := z.nc.isLt
  refine of_word rfl rfl (by decide) (by decide) ?_
  norm_num [sumBy_cons, sumBy_nil, Offs.fields, Size.fields] at *; omega

theorem arrayFillDone (core : Fin 48) : Statement (.arrayFillDone core) := fun _ _ h => nomatch h

theorem mmRun (core : Fin 48) (psel : BitVec 4) (tda : BitVec 6) (o : Machine.Offs) (z : Machine.Size) (accset : BitVec 2) (acc : Bool) (skim : BitVec 2) (skimAt : BitVec 4) (st : BitVec 5) : Statement (.mmRun core psel tda o z accset acc skim skimAt st) := by
  have h1 := tda.isLt
  have h2 := o.sr.isLt
  have h3 := o.sc.isLt
  have h4 := o.off.toNat_lt
  have h5 := z.nr.isLt
  have h6 := z.nc.isLt
  have h7 := accset.isLt
  have h8 := acc.toNat_lt
  have h9 := skim.isLt
  have h10 := skimAt.isLt
  have h11 := st.isLt
  refine of_word rfl rfl (by decide) (by decide) ?_
  norm_num [sumBy_cons, sumBy_nil, Offs.fields, Size.fields] at *; omega

theorem mmStore (core : Fin 48) (psel : BitVec 4) (tdd : BitVec 6) (o : Machine.Offs) (z : Machine.Size) (rnd accset : BitVec 2) : Statement (.mmStore core psel tdd o z rnd accset) := by
  have h1 := tdd.isLt
  have h2 := o.sr.isLt
  have h3 := o.sc.isLt
  have h4 := o.off.toNat_lt
  have h5 := z.nr.isLt
  have h6 := z.nc.isLt
  have h7 := rnd.isLt
  have h8 := accset.isLt
  refine of_word rfl rfl (by decide) (by decide) ?_
  norm_num [sumBy_cons, sumBy_nil, Offs.fields, Size.fields] at *; omega

theorem mmPair (core : Fin 48) (psel : BitVec 4) (tda tdb : BitVec 6) (z : Machine.Size) (accset : BitVec 2) (acc : Bool) : Statement (.mmPair core psel tda tdb z accset acc) := by
  have h1 := tda.isLt
  have h2 := tdb.isLt
  have h3 := z.nr.isLt
  have h4 := z.nc.isLt
  have h5 := accset.isLt
  have h6 := acc.toNat_lt
  refine of_word rfl rfl (by decide) (by decide) ?_
  norm_num [sumBy_cons, sumBy_nil, Size.fields] at *; omega

theorem rowSmax (core : Fin 48) (psel : BitVec 4) (tdd tda : BitVec 6) (z : Machine.Size) (rnd : BitVec 2) (stat : BitVec 13) (ss : BitVec 5) : Statement (.rowSmax core psel tdd tda z rnd stat ss) := by
  have h1 := tdd.isLt
  have h2 := tda.isLt
  have h3 := z.nr.isLt
  have h4 := z.nc.isLt
  have h5 := rnd.isLt
  have h6 := stat.isLt
  have h7 := ss.isLt
  refine of_word rfl rfl (by decide) (by decide) ?_
  norm_num [sumBy_cons, sumBy_nil, Size.fields] at *; omega

theorem rowNorm (core : Fin 48) (psel : BitVec 4) (tdd tda tdc : BitVec 6) (z : Machine.Size) (rnd : BitVec 2) (stat : BitVec 13) (ss : BitVec 5) (nkind : BitVec 2) : Statement (.rowNorm core psel tdd tda tdc z rnd stat ss nkind) := by
  have h1 := tdd.isLt
  have h2 := tda.isLt
  have h3 := tdc.isLt
  have h4 := z.nr.isLt
  have h5 := z.nc.isLt
  have h6 := rnd.isLt
  have h7 := stat.isLt
  have h8 := ss.isLt
  have h9 := nkind.isLt
  refine of_word rfl rfl (by decide) (by decide) ?_
  norm_num [sumBy_cons, sumBy_nil, Size.fields] at *; omega

theorem rowSmaxB (core : Fin 48) (psel : BitVec 4) (tdd tda tdb : BitVec 6) (z : Machine.Size) (rnd : BitVec 2) (stat : BitVec 13) (recomp : Bool) (ss : BitVec 5) : Statement (.rowSmaxB core psel tdd tda tdb z rnd stat recomp ss) := by
  have h1 := tdd.isLt
  have h2 := tda.isLt
  have h3 := tdb.isLt
  have h4 := z.nr.isLt
  have h5 := z.nc.isLt
  have h6 := rnd.isLt
  have h7 := stat.isLt
  have h8 := recomp.toNat_lt
  have h9 := ss.isLt
  refine of_word rfl rfl (by decide) (by decide) ?_
  norm_num [sumBy_cons, sumBy_nil, Size.fields] at *; omega

theorem rowNormB (core : Fin 48) (psel : BitVec 4) (tdd tda tdb tdc : BitVec 6) (z : Machine.Size) (rnd : BitVec 2) (stat : BitVec 13) (recomp : Bool) (ss : BitVec 5) (nkind : BitVec 2) : Statement (.rowNormB core psel tdd tda tdb tdc z rnd stat recomp ss nkind) := by
  have h1 := tdd.isLt
  have h2 := tda.isLt
  have h3 := tdb.isLt
  have h4 := tdc.isLt
  have h5 := z.nr.isLt
  have h6 := z.nc.isLt
  have h7 := rnd.isLt
  have h8 := stat.isLt
  have h9 := recomp.toNat_lt
  have h10 := ss.isLt
  have h11 := nkind.isLt
  refine of_word rfl rfl (by decide) (by decide) ?_
  norm_num [sumBy_cons, sumBy_nil, Size.fields] at *; omega

theorem vadd (core : Fin 48) (psel : BitVec 4) (tdd tda tdb : BitVec 6) (z : Machine.Size) (rnd : BitVec 2) : Statement (.vadd core psel tdd tda tdb z rnd) := by
  have h1 := tdd.isLt
  have h2 := tda.isLt
  have h3 := tdb.isLt
  have h4 := z.nr.isLt
  have h5 := z.nc.isLt
  have h6 := rnd.isLt
  refine of_word rfl rfl (by decide) (by decide) ?_
  norm_num [sumBy_cons, sumBy_nil, Size.fields] at *; omega

theorem vmul (core : Fin 48) (psel : BitVec 4) (tdd tda tdb : BitVec 6) (z : Machine.Size) (rnd : BitVec 2) : Statement (.vmul core psel tdd tda tdb z rnd) := by
  have h1 := tdd.isLt
  have h2 := tda.isLt
  have h3 := tdb.isLt
  have h4 := z.nr.isLt
  have h5 := z.nc.isLt
  have h6 := rnd.isLt
  refine of_word rfl rfl (by decide) (by decide) ?_
  norm_num [sumBy_cons, sumBy_nil, Size.fields] at *; omega

theorem vfma (core : Fin 48) (psel : BitVec 4) (tdd tda tdb tdc : BitVec 6) (z : Machine.Size) (rnd : BitVec 2) : Statement (.vfma core psel tdd tda tdb tdc z rnd) := by
  have h1 := tdd.isLt
  have h2 := tda.isLt
  have h3 := tdb.isLt
  have h4 := tdc.isLt
  have h5 := z.nr.isLt
  have h6 := z.nc.isLt
  have h7 := rnd.isLt
  refine of_word rfl rfl (by decide) (by decide) ?_
  norm_num [sumBy_cons, sumBy_nil, Size.fields] at *; omega

theorem vscale (core : Fin 48) (psel : BitVec 4) (tdd tda : BitVec 6) (z : Machine.Size) (rnd : BitVec 2) (ss : BitVec 5) : Statement (.vscale core psel tdd tda z rnd ss) := by
  have h1 := tdd.isLt
  have h2 := tda.isLt
  have h3 := z.nr.isLt
  have h4 := z.nc.isLt
  have h5 := rnd.isLt
  have h6 := ss.isLt
  refine of_word rfl rfl (by decide) (by decide) ?_
  norm_num [sumBy_cons, sumBy_nil, Size.fields] at *; omega

theorem vact (core : Fin 48) (psel : BitVec 4) (tdd tda : BitVec 6) (z : Machine.Size) (rnd : BitVec 2) (fn : BitVec 4) : Statement (.vact core psel tdd tda z rnd fn) := by
  have h1 := tdd.isLt
  have h2 := tda.isLt
  have h3 := z.nr.isLt
  have h4 := z.nc.isLt
  have h5 := rnd.isLt
  have h6 := fn.isLt
  refine of_word rfl rfl (by decide) (by decide) ?_
  norm_num [sumBy_cons, sumBy_nil, Size.fields] at *; omega

theorem vamax (core : Fin 48) (psel : BitVec 4) (tda : BitVec 6) (z : Machine.Size) (ss : BitVec 5) : Statement (.vamax core psel tda z ss) := by
  have h1 := tda.isLt
  have h2 := z.nr.isLt
  have h3 := z.nc.isLt
  have h4 := ss.isLt
  refine of_word rfl rfl (by decide) (by decide) ?_
  norm_num [sumBy_cons, sumBy_nil, Size.fields] at *; omega

theorem vgate (core : Fin 48) (psel : BitVec 4) (tdd tda tdb : BitVec 6) (z : Machine.Size) (rnd : BitVec 2) : Statement (.vgate core psel tdd tda tdb z rnd) := by
  have h1 := tdd.isLt
  have h2 := tda.isLt
  have h3 := tdb.isLt
  have h4 := z.nr.isLt
  have h5 := z.nc.isLt
  have h6 := rnd.isLt
  refine of_word rfl rfl (by decide) (by decide) ?_
  norm_num [sumBy_cons, sumBy_nil, Size.fields] at *; omega

theorem vopt (core : Fin 48) (psel : BitVec 4) (tdd tda tdb tdc : BitVec 6) (z : Machine.Size) (rnd : BitVec 2) (ss : BitVec 5) (fn : BitVec 4) : Statement (.vopt core psel tdd tda tdb tdc z rnd ss fn) := by
  have h1 := tdd.isLt
  have h2 := tda.isLt
  have h3 := tdb.isLt
  have h4 := tdc.isLt
  have h5 := z.nr.isLt
  have h6 := z.nc.isLt
  have h7 := rnd.isLt
  have h8 := ss.isLt
  have h9 := fn.isLt
  refine of_word rfl rfl (by decide) (by decide) ?_
  norm_num [sumBy_cons, sumBy_nil, Size.fields] at *; omega

theorem sepSelect (core : Fin 48) (psel : BitVec 4) (tdd tda : BitVec 6) (layer : BitVec 10) (e : BitVec 14) (k : BitVec 4) (shared : BitVec 3) (gate : Bool) (sn : BitVec 5) : Statement (.sepSelect core psel tdd tda layer e k shared gate sn) := by
  have h1 := tdd.isLt
  have h2 := tda.isLt
  have h3 := layer.isLt
  have h4 := e.isLt
  have h5 := k.isLt
  have h6 := shared.isLt
  have h7 := gate.toNat_lt
  have h8 := sn.isLt
  refine of_word rfl rfl (by decide) (by decide) ?_
  norm_num [sumBy_cons, sumBy_nil] at *; omega

theorem sepHash (core : Fin 48) (psel : BitVec 4) (tdd tda : BitVec 6) (layer : BitVec 10) (e : BitVec 14) (k : BitVec 4) (salt : BitVec 5) : Statement (.sepHash core psel tdd tda layer e k salt) := by
  have h1 := tdd.isLt
  have h2 := tda.isLt
  have h3 := layer.isLt
  have h4 := e.isLt
  have h5 := k.isLt
  have h6 := salt.isLt
  refine of_word rfl rfl (by decide) (by decide) ?_
  norm_num [sumBy_cons, sumBy_nil] at *; omega

theorem dieCollectiveStart (die : Fin 12) (eng : Machine.Eng) : Statement (.dieCollectiveStart die eng) := fun _ _ h => nomatch h

theorem capacityVectorArrive (die : Fin 12) : Statement (.capacityVectorArrive die) := fun _ _ h => nomatch h

theorem capacityWriteBackEnd (die : Fin 12) : Statement (.capacityWriteBackEnd die) := fun _ _ h => nomatch h

theorem churnSort (core : Fin 48) (psel : BitVec 4) (tdd tda : BitVec 6) (buckets : BitVec 14) (key : Bool) (layer : BitVec 10) : Statement (.churnSort core psel tdd tda buckets key layer) := by
  have h1 := tdd.isLt
  have h2 := tda.isLt
  have h3 := buckets.isLt
  have h4 := key.toNat_lt
  have h5 := layer.isLt
  refine of_word rfl rfl (by decide) (by decide) ?_
  norm_num [sumBy_cons, sumBy_nil] at *; omega

theorem churnRestore (core : Fin 48) (psel : BitVec 4) (tdd tda tdb : BitVec 6) (layer : BitVec 10) : Statement (.churnRestore core psel tdd tda tdb layer) := by
  have h1 := tdd.isLt
  have h2 := tda.isLt
  have h3 := tdb.isLt
  have h4 := layer.isLt
  refine of_word rfl rfl (by decide) (by decide) ?_
  norm_num [sumBy_cons, sumBy_nil] at *; omega

theorem xchDispatch (core : Fin 48) (psel : BitVec 4) (tda : BitVec 6) (slot : BitVec 16) (sg : BitVec 5) : Statement (.xchDispatch core psel tda slot sg) := by
  have h1 := tda.isLt
  have h2 := slot.isLt
  have h3 := sg.isLt
  refine of_word rfl rfl (by decide) (by decide) ?_
  norm_num [sumBy_cons, sumBy_nil] at *; omega

theorem xchRecv (core : Fin 48) (psel : BitVec 4) (tdd : BitVec 6) (slot : BitVec 16) : Statement (.xchRecv core psel tdd slot) := by
  have h1 := tdd.isLt
  have h2 := slot.isLt
  refine of_word rfl rfl (by decide) (by decide) ?_
  norm_num [sumBy_cons, sumBy_nil] at *; omega

theorem xchReturn (core : Fin 48) (psel : BitVec 4) (tda : BitVec 6) (slot : BitVec 16) : Statement (.xchReturn core psel tda slot) := by
  have h1 := tda.isLt
  have h2 := slot.isLt
  refine of_word rfl rfl (by decide) (by decide) ?_
  norm_num [sumBy_cons, sumBy_nil] at *; omega

theorem xchCombine (core : Fin 48) (psel : BitVec 4) (tdd : BitVec 6) (slot : BitVec 16) (sg : BitVec 5) : Statement (.xchCombine core psel tdd slot sg) := by
  have h1 := tdd.isLt
  have h2 := slot.isLt
  have h3 := sg.isLt
  refine of_word rfl rfl (by decide) (by decide) ?_
  norm_num [sumBy_cons, sumBy_nil] at *; omega

theorem collBcast (core : Fin 48) (psel : BitVec 4) (tda : BitVec 6) (desc : BitVec 12) : Statement (.collBcast core psel tda desc) := by
  have h1 := tda.isLt
  have h2 := desc.isLt
  refine of_word rfl rfl (by decide) (by decide) ?_
  norm_num [sumBy_cons, sumBy_nil] at *; omega

theorem collReduce (core : Fin 48) (psel : BitVec 4) (tdd tda : BitVec 6) (desc : BitVec 12) : Statement (.collReduce core psel tdd tda desc) := by
  have h1 := tdd.isLt
  have h2 := tda.isLt
  have h3 := desc.isLt
  refine of_word rfl rfl (by decide) (by decide) ?_
  norm_num [sumBy_cons, sumBy_nil] at *; omega

theorem collWait (core : Fin 48) (psel : BitVec 4) (desc : BitVec 12) : Statement (.collWait core psel desc) := by
  have h1 := desc.isLt
  refine of_word rfl rfl (by decide) (by decide) ?_
  norm_num [sumBy_cons, sumBy_nil] at *; omega

theorem gld (core : Fin 48) (psel : BitVec 4) (tdd : BitVec 6) (sl : BitVec 5) (win : BitVec 10) (so : BitVec 5) (len : BitVec 10) : Statement (.gld core psel tdd sl win so len) := by
  have h1 := tdd.isLt
  have h2 := sl.isLt
  have h3 := win.isLt
  have h4 := so.isLt
  have h5 := len.isLt
  refine of_word rfl rfl (by decide) (by decide) ?_
  norm_num [sumBy_cons, sumBy_nil] at *; omega

theorem gst (core : Fin 48) (psel : BitVec 4) (tda : BitVec 6) (sl : BitVec 5) (win : BitVec 10) (so : BitVec 5) (len : BitVec 10) : Statement (.gst core psel tda sl win so len) := by
  have h1 := tda.isLt
  have h2 := sl.isLt
  have h3 := win.isLt
  have h4 := so.isLt
  have h5 := len.isLt
  refine of_word rfl rfl (by decide) (by decide) ?_
  norm_num [sumBy_cons, sumBy_nil] at *; omega

theorem gatom (core : Fin 48) (psel : BitVec 4) (sd sa sb : BitVec 5) (win : BitVec 10) (so : BitVec 5) (aop : BitVec 3) : Statement (.gatom core psel sd sa sb win so aop) := by
  have h1 := sd.isLt
  have h2 := sa.isLt
  have h3 := sb.isLt
  have h4 := win.isLt
  have h5 := so.isLt
  have h6 := aop.isLt
  refine of_word rfl rfl (by decide) (by decide) ?_
  norm_num [sumBy_cons, sumBy_nil] at *; omega

theorem palloc (core : Fin 48) (psel : BitVec 4) (sd sa : BitVec 5) : Statement (.palloc core psel sd sa) := by
  have h1 := sd.isLt
  have h2 := sa.isLt
  refine of_word rfl rfl (by decide) (by decide) ?_
  norm_num [sumBy_cons, sumBy_nil] at *; omega

theorem pfree (core : Fin 48) (psel : BitVec 4) (sa : BitVec 5) : Statement (.pfree core psel sa) := by
  have h1 := sa.isLt
  refine of_word rfl rfl (by decide) (by decide) ?_
  norm_num [sumBy_cons, sumBy_nil] at *; omega

theorem pshare (core : Fin 48) (psel : BitVec 4) (sa sb : BitVec 5) : Statement (.pshare core psel sa sb) := by
  have h1 := sa.isLt
  have h2 := sb.isLt
  refine of_word rfl rfl (by decide) (by decide) ?_
  norm_num [sumBy_cons, sumBy_nil] at *; omega

theorem tdpail (core : Fin 48) (psel : BitVec 4) (td : BitVec 6) (sa : BitVec 5) : Statement (.tdpail core psel td sa) := by
  have h1 := td.isLt
  have h2 := sa.isLt
  refine of_word rfl rfl (by decide) (by decide) ?_
  norm_num [sumBy_cons, sumBy_nil] at *; omega

theorem tpromote (core : Fin 48) (psel : BitVec 4) (sa : BitVec 5) (tier : BitVec 2) : Statement (.tpromote core psel sa tier) := by
  have h1 := sa.isLt
  have h2 := tier.isLt
  refine of_word rfl rfl (by decide) (by decide) ?_
  norm_num [sumBy_cons, sumBy_nil] at *; omega

theorem tevict (core : Fin 48) (psel : BitVec 4) (sa : BitVec 5) (tier : BitVec 2) : Statement (.tevict core psel sa tier) := by
  have h1 := sa.isLt
  have h2 := tier.isLt
  refine of_word rfl rfl (by decide) (by decide) ?_
  norm_num [sumBy_cons, sumBy_nil] at *; omega

theorem ttouch (core : Fin 48) (psel : BitVec 4) (sa : BitVec 5) : Statement (.ttouch core psel sa) := by
  have h1 := sa.isLt
  refine of_word rfl rfl (by decide) (by decide) ?_
  norm_num [sumBy_cons, sumBy_nil] at *; omega

theorem twait (core : Fin 48) (psel : BitVec 4) (sa : BitVec 5) : Statement (.twait core psel sa) := by
  have h1 := sa.isLt
  refine of_word rfl rfl (by decide) (by decide) ?_
  norm_num [sumBy_cons, sumBy_nil] at *; omega

theorem queueHeadRelease (core : Fin 48) (eng : Machine.Eng) : Statement (.queueHeadRelease core eng) := fun _ _ h => nomatch h

theorem instructionRetire (core : Fin 48) (eng : Machine.Eng) : Statement (.instructionRetire core eng) := fun _ _ h => nomatch h

theorem pailRequestApply (core : Fin 48) : Statement (.pailRequestApply core) := fun _ _ h => nomatch h

theorem load (master : Machine.Master) (same : Bool) : Statement (.load master same) := fun _ _ h => nomatch h

theorem admissionEnd (at_ : Nat) : Statement (.admissionEnd at_) := fun _ _ h => nomatch h

theorem restoreEnd (at_ : Nat) : Statement (.restoreEnd at_) := fun _ _ h => nomatch h

theorem abort (master : Machine.Master) (same : Bool) : Statement (.abort master same) := fun _ _ h => nomatch h

theorem stop (master : Machine.Master) (same : Bool) : Statement (.stop master same) := fun _ _ h => nomatch h

theorem release (master : Machine.Master) (same : Bool) : Statement (.release master same) := fun _ _ h => nomatch h

theorem releaseZeroingEnd (at_ : Nat) : Statement (.releaseZeroingEnd at_) := fun _ _ h => nomatch h

theorem jobStopFrameWrite (master : Machine.Master) (same : Bool) (value : BitVec 32) : Statement (.jobStopFrameWrite master same value) := fun _ _ h => nomatch h

theorem arm (master : Machine.Master) (same : Bool) : Statement (.arm master same) := fun _ _ h => nomatch h

theorem disarm (master : Machine.Master) (same : Bool) : Statement (.disarm master same) := fun _ _ h => nomatch h

theorem launchCountReached  : Statement (.launchCountReached) := fun _ _ h => nomatch h

theorem frameOpen  : Statement (.frameOpen) := fun _ _ h => nomatch h

theorem guardStart  : Statement (.guardStart) := fun _ _ h => nomatch h

theorem frameClose  : Statement (.frameClose) := fun _ _ h => nomatch h

theorem drainEnd  : Statement (.drainEnd) := fun _ _ h => nomatch h

theorem teardownComplete (at_ : Nat) : Statement (.teardownComplete at_) := fun _ _ h => nomatch h

theorem throttleStep  : Statement (.throttleStep) := fun _ _ h => nomatch h

theorem herdReadyOffset  : Statement (.herdReadyOffset) := fun _ _ h => nomatch h

theorem herdAdd  : Statement (.herdAdd) := fun _ _ h => nomatch h

theorem herdCancel  : Statement (.herdCancel) := fun _ _ h => nomatch h

theorem herdChangeStops  : Statement (.herdChangeStops) := fun _ _ h => nomatch h

theorem herdHold  : Statement (.herdHold) := fun _ _ h => nomatch h

theorem herdRelease  : Statement (.herdRelease) := fun _ _ h => nomatch h

theorem herdFlush  : Statement (.herdFlush) := fun _ _ h => nomatch h

theorem tierMoveCommit (obj : BitVec 20) : Statement (.tierMoveCommit obj) := fun _ _ h => nomatch h

theorem snapCutComplete  : Statement (.snapCutComplete) := fun _ _ h => nomatch h

theorem nvmeCompletion (status : BitVec 16) : Statement (.nvmeCompletion status) := fun _ _ h => nomatch h

theorem mirrorData (p : Packet) : Statement (.mirrorData p) := fun _ _ h => nomatch h

theorem mirrorCommit (p : Packet) : Statement (.mirrorCommit p) := fun _ _ h => nomatch h

theorem gmemRequestArrive (p : Packet) : Statement (.gmemRequestArrive p) := fun _ _ h => nomatch h

theorem gmemResponseArrive (p : Packet) : Statement (.gmemResponseArrive p) := fun _ _ h => nomatch h

theorem gmemRetry (node : BitVec 16) (seq : BitVec 32) : Statement (.gmemRetry node seq) := fun _ _ h => nomatch h

theorem gmemTimeout (node : BitVec 16) (seq : BitVec 32) : Statement (.gmemTimeout node seq) := fun _ _ h => nomatch h

theorem gmemMgmtCancel (master : Machine.Master) (same : Bool) (value : BitVec 32) : Statement (.gmemMgmtCancel master same value) := fun _ _ h => nomatch h

theorem windowCommand (master : Machine.Master) (same : Bool) : Statement (.windowCommand master same) := fun _ _ h => nomatch h

theorem gmemCfgWrite (master : Machine.Master) (same : Bool) (value : BitVec 32) : Statement (.gmemCfgWrite master same value) := fun _ _ h => nomatch h

theorem lendBegin (master : Machine.Master) (same : Bool) : Statement (.lendBegin master same) := fun _ _ h => nomatch h

theorem lendEnd (master : Machine.Master) (same : Bool) : Statement (.lendEnd master same) := fun _ _ h => nomatch h

theorem lendZeroingEnd (at_ : Nat) : Statement (.lendZeroingEnd at_) := fun _ _ h => nomatch h

theorem timeMessage (p : Packet) : Statement (.timeMessage p) := fun _ _ h => nomatch h

theorem timestampBlock (port : Fin 81) (t1 t2 t3 t4 : BitVec 64) (status : TwinStatus) (node : BitVec 16) :
    Statement (.timestampBlock port t1 t2 t3 t4 status node) := fun _ _ h => nomatch h

theorem timestampSend (port : Fin 81) : Statement (.timestampSend port) := fun _ _ h => nomatch h

theorem syncParentTimeout  : Statement (.syncParentTimeout) := fun _ _ h => nomatch h

theorem tickSyncCfgWrite (master : Machine.Master) (same : Bool) (value : BitVec 32) : Statement (.tickSyncCfgWrite master same value) := fun _ _ h => nomatch h

theorem linkBlockReceive (port : Fin 81) (body : List Byte) (trailer : BitVec 128) : Statement (.linkBlockReceive port body trailer) := fun _ _ h => nomatch h

theorem ackTimeout (port : Fin 81) : Statement (.ackTimeout port) := fun _ _ h => nomatch h

theorem pmdLockLoss (port : Fin 81) : Statement (.pmdLockLoss port) := fun _ _ h => nomatch h

theorem portTrainingStart (port : Fin 81) : Statement (.portTrainingStart port) := fun _ _ h => nomatch h

theorem portTrainingEnd (port : Fin 81) (ok : Bool) (reversed : Bool) (polarity : BitVec 8) : Statement (.portTrainingEnd port ok reversed polarity) := fun _ _ h => nomatch h

theorem portEnable (master : Machine.Master) (same : Bool) (fd : Fin 10) (port : Fin 8) : Statement (.portEnable master same fd port) := fun _ _ h => nomatch h

theorem portDisable (master : Machine.Master) (same : Bool) (fd : Fin 10) (port : Fin 8) : Statement (.portDisable master same fd port) := fun _ _ h => nomatch h

theorem probeSend (master : Machine.Master) (same : Bool) (fd : Fin 10) (port : Fin 8) : Statement (.probeSend master same fd port) := fun _ _ h => nomatch h

theorem probe (port : Fin 81) (p : Packet) : Statement (.probe port p) := fun _ _ h => nomatch h

theorem probeAnswer (port : Fin 81) (p : Packet) : Statement (.probeAnswer port p) := fun _ _ h => nomatch h

theorem packetArrive (port : Fin 81) (p : Packet) : Statement (.packetArrive port p) := fun _ _ h => nomatch h

theorem packetDeliver (p : Packet) : Statement (.packetDeliver p) := fun _ _ h => nomatch h

theorem reorderTimeout (tag : BitVec 24) (epoch src : BitVec 16) (chan : BitVec 2) : Statement (.reorderTimeout tag epoch src chan) := fun _ _ h => nomatch h

theorem routeCommand (master : Machine.Master) (same : Bool) : Statement (.routeCommand master same) := fun _ _ h => nomatch h

theorem routeCommit  : Statement (.routeCommit) := fun _ _ h => nomatch h

theorem congestionWindowEnd  : Statement (.congestionWindowEnd) := fun _ _ h => nomatch h

theorem summaryPeriodLatch  : Statement (.summaryPeriodLatch) := fun _ _ h => nomatch h

theorem bridgeFlitReplay (dir : Fin 38) (overshare again : Bool) : Statement (.bridgeFlitReplay dir overshare again) := fun _ _ h => nomatch h

theorem deliveryStream (p : Packet) : Statement (.deliveryStream p) := fun _ _ h => nomatch h

theorem deliveryEndMarker (p : Packet) : Statement (.deliveryEndMarker p) := fun _ _ h => nomatch h

theorem returnStream (p : Packet) : Statement (.returnStream p) := fun _ _ h => nomatch h

theorem returnEndMarker (p : Packet) : Statement (.returnEndMarker p) := fun _ _ h => nomatch h

theorem collInvocationStart (desc : BitVec 12) : Statement (.collInvocationStart desc) := fun _ _ h => nomatch h

theorem reductionStream (p : Packet) : Statement (.reductionStream p) := fun _ _ h => nomatch h

theorem reductionEndMarker (p : Packet) : Statement (.reductionEndMarker p) := fun _ _ h => nomatch h

theorem broadcastStream (p : Packet) : Statement (.broadcastStream p) := fun _ _ h => nomatch h

theorem broadcastEndMarker (p : Packet) : Statement (.broadcastEndMarker p) := fun _ _ h => nomatch h

theorem collReport (p : Packet) (more : Bool) : Statement (.collReport p more) := fun _ _ h => nomatch h

theorem sampleRecords (p : Packet) (more : Bool) : Statement (.sampleRecords p more) := fun _ _ h => nomatch h

theorem collDeadline (desc : BitVec 12) (inv : Nat) : Statement (.collDeadline desc inv) := fun _ _ h => nomatch h

theorem token (p : Packet) : Statement (.token p) := fun _ _ h => nomatch h

theorem tokenAcknowledgement (p : Packet) : Statement (.tokenAcknowledgement p) := fun _ _ h => nomatch h

theorem tokenRepeat (desc : BitVec 12) (inv : Nat) : Statement (.tokenRepeat desc inv) := fun _ _ h => nomatch h

theorem lockstepChunkHash (p : Packet) : Statement (.lockstepChunkHash p) := fun _ _ h => nomatch h

theorem lockstepArmRecord (p : Packet) : Statement (.lockstepArmRecord p) := fun _ _ h => nomatch h

theorem lockstepFrameDigests (p : Packet) : Statement (.lockstepFrameDigests p) := fun _ _ h => nomatch h

theorem lockstepGranuleRecords (p : Packet) : Statement (.lockstepGranuleRecords p) := fun _ _ h => nomatch h

theorem lockstepHalt (p : Packet) : Statement (.lockstepHalt p) := fun _ _ h => nomatch h

theorem twinCfgModeWrite (master : Machine.Master) (same : Bool) (value : BitVec 32) : Statement (.twinCfgModeWrite master same value) := fun _ _ h => nomatch h

theorem registerWrite (master : Machine.Master) (same : Bool) (offset : BitVec 28) (value : BitVec 32) (enables : BitVec 4) : Statement (.registerWrite master same offset value enables) := fun _ _ h => nomatch h

theorem aliasSet (master : Machine.Master) (same : Bool) (page : BitVec 12) (base : BitVec 14) (value : BitVec 32) : Statement (.aliasSet master same page base value) := fun _ _ h => nomatch h

theorem aliasClear (master : Machine.Master) (same : Bool) (page : BitVec 12) (base : BitVec 14) (value : BitVec 32) : Statement (.aliasClear master same page base value) := fun _ _ h => nomatch h

theorem aliasToggle (master : Machine.Master) (same : Bool) (page : BitVec 12) (base : BitVec 14) (value : BitVec 32) : Statement (.aliasToggle master same page base value) := fun _ _ h => nomatch h

theorem guardValueWrite (master : Machine.Master) (same : Bool) (page : BitVec 12) (reg : BitVec 13) (value : BitVec 32) : Statement (.guardValueWrite master same page reg value) := fun _ _ h => nomatch h

theorem guardComplementWrite (master : Machine.Master) (same : Bool) (page : BitVec 12) (reg : BitVec 13) (value : BitVec 32) : Statement (.guardComplementWrite master same page reg value) := fun _ _ h => nomatch h

theorem guardWindowExpire (page : BitVec 12) (master : Machine.Master) : Statement (.guardWindowExpire page master) := fun _ _ h => nomatch h

theorem mbxSelWrite (master : Machine.Master) (same : Bool) (page : BitVec 12) (sel : BitVec 8) : Statement (.mbxSelWrite master same page sel) := fun _ _ h => nomatch h

theorem mailboxReady (page : BitVec 12) (master : Machine.Master) (cc : Nat) : Statement (.mailboxReady page master cc) := fun _ _ h => nomatch h

theorem v3FieldRead (page : BitVec 12) (reg : BitVec 13) : Statement (.v3FieldRead page reg) := fun _ _ h => nomatch h

theorem voteScrub  : Statement (.voteScrub) := fun _ _ h => nomatch h

theorem resetRelease (held : BitVec 48) : Statement (.resetRelease held) := fun _ _ h => nomatch h

theorem startStepEnd (step : Fin 10) (ok : Bool) (ms : Nat) : Statement (.startStepEnd step ok ms) := fun _ _ h => nomatch h

theorem pwrgoodFall  : Statement (.pwrgoodFall) := fun _ _ h => nomatch h

theorem railSample (inRange low : BitVec 5) : Statement (.railSample inRange low) := fun _ _ h => nomatch h

theorem tempSample (temps : List (BitVec 12)) (power : BitVec 12) : Statement (.tempSample temps power) := fun _ _ h => nomatch h

theorem reductionExit (die : Fin 12) : Statement (.reductionExit die) := fun _ _ h => nomatch h

theorem pwrCapWrite (master : Machine.Master) (same : Bool) (value : BitVec 32) : Statement (.pwrCapWrite master same value) := fun _ _ h => nomatch h

theorem pwrTjWrite (master : Machine.Master) (same : Bool) (value : BitVec 32) : Statement (.pwrTjWrite master same value) := fun _ _ h => nomatch h

theorem joinHello  : Statement (.joinHello) := fun _ _ h => nomatch h

theorem joinAccept (p : Packet) : Statement (.joinAccept p) := fun _ _ h => nomatch h

theorem rekey (p : Packet) : Statement (.rekey p) := fun _ _ h => nomatch h

theorem oldKeyExpire  : Statement (.oldKeyExpire) := fun _ _ h => nomatch h

theorem quoteRequest (p : Packet) : Statement (.quoteRequest p) := fun _ _ h => nomatch h

theorem secQuoteCmd (master : Machine.Master) (same : Bool) : Statement (.secQuoteCmd master same) := fun _ _ h => nomatch h

theorem quoteDone  : Statement (.quoteDone) := fun _ _ h => nomatch h

theorem reportAck (p : Packet) : Statement (.reportAck p) := fun _ _ h => nomatch h

theorem reportRepeat (order : BitVec 24) : Statement (.reportRepeat order) := fun _ _ h => nomatch h

theorem securityCheck (sramOk keyOk : Bool) : Statement (.securityCheck sramOk keyOk) := fun _ _ h => nomatch h

theorem smbStartWord (word : BitVec 32) (pecOk : Bool) : Statement (.smbStartWord word pecOk) := fun _ _ h => nomatch h

theorem smbStatus (req : Machine.SmbTransaction) : Statement (.smbStatus req) := fun _ _ h => nomatch h

theorem smbTemperature (pecOk : Bool) : Statement (.smbTemperature pecOk) := fun _ _ h => nomatch h

theorem smbPower (pecOk : Bool) : Statement (.smbPower pecOk) := fun _ _ h => nomatch h

theorem smbEvents (pecOk : Bool) : Statement (.smbEvents pecOk) := fun _ _ h => nomatch h

theorem smbInventory (pecOk : Bool) : Statement (.smbInventory pecOk) := fun _ _ h => nomatch h

theorem smbAlertResponse (pecOk : Bool) : Statement (.smbAlertResponse pecOk) := fun _ _ h => nomatch h

theorem bypass (code : BitVec 8) : Statement (.bypass code) := fun _ _ h => nomatch h

theorem idcode  : Statement (.idcode) := fun _ _ h => nomatch h

theorem samplePreload (preload : BitVec 15) : Statement (.samplePreload preload) := fun _ _ h => nomatch h

theorem extest (shift : BitVec 15) : Statement (.extest shift) := fun _ _ h => nomatch h

theorem clamp  : Statement (.clamp) := fun _ _ h => nomatch h

theorem highz  : Statement (.highz) := fun _ _ h => nomatch h

theorem endpointReset (kind : Machine.EndReset) : Statement (.endpointReset kind) := fun _ _ h => nomatch h

theorem configRequest (write : Bool) (reg : BitVec 12) (value : BitVec 32) : Statement (.configRequest write reg value) := fun _ _ h => nomatch h

theorem hbmWindowAccess (write : Bool) (offset : BitVec 44) (len : BitVec 13) (bytes : List Byte) : Statement (.hbmWindowAccess write offset len bytes) := fun _ _ h => nomatch h

theorem msixUnmask (access : Machine.MsixAccess) : Statement (.msixUnmask access) := fun _ _ h => nomatch h

theorem completionTimeout (how : Machine.ReadEnd) (addr : BitVec 64) (obj : Option (BitVec 20)) : Statement (.completionTimeout how addr obj) := fun _ _ h => nomatch h

theorem nvmeEnable (master : Machine.Master) (same : Bool) (value : BitVec 32) : Statement (.nvmeEnable master same value) := fun _ _ h => nomatch h

theorem nvmeLinkDown  : Statement (.nvmeLinkDown) := fun _ _ h => nomatch h

theorem flashErase (master : Machine.Master) (same : Bool) : Statement (.flashErase master same) := fun _ _ h => nomatch h

theorem flashProgram (master : Machine.Master) (same : Bool) : Statement (.flashProgram master same) := fun _ _ h => nomatch h

theorem flashRead (master : Machine.Master) (same : Bool) : Statement (.flashRead master same) := fun _ _ h => nomatch h

theorem flashCommandDone (at_ : Nat) (ok : Bool) : Statement (.flashCommandDone at_ ok) := fun _ _ h => nomatch h

theorem runStart  : Statement (.runStart) := fun _ _ h => nomatch h

theorem throttleStepEnd  : Statement (.throttleStepEnd) := fun _ _ h => nomatch h

theorem capacityStateReadEnd (die : Fin 12) : Statement (.capacityStateReadEnd die) := fun _ _ h => nomatch h

theorem stagedResultComplete (desc : BitVec 12) (inv : Nat) (more : Bool) : Statement (.stagedResultComplete desc inv more) := fun _ _ h => nomatch h

theorem mirrorSendEnd  : Statement (.mirrorSendEnd) := fun _ _ h => nomatch h

theorem resetAssert  : Statement (.resetAssert) := fun _ _ h => nomatch h

theorem perstDeassert  : Statement (.perstDeassert) := fun _ _ h => nomatch h

theorem refclkStart  : Statement (.refclkStart) := fun _ _ h => nomatch h

theorem testLogicReset  : Statement (.testLogicReset) := fun _ _ h => nomatch h

theorem managementRequest (p : Packet) : Statement (.managementRequest p) := fun _ _ h => nomatch h

end Laws.WordCode

end Sys2Proof
end

