-- ==== Sys2Proof/Laws/Issue.lean ====
section
/-! SUPPORT. Every Tynil instruction issues its own word: into the queue of its engine, or on the sequencer. -/

namespace Sys2Proof.Machine

open Sys2Proof

/-- The queue of a class and opcode. -/
theorem wordEng_code {i : Instr} {c : Fin 48} {w : InsWord} {cls opc : Nat} (hs : Laws.WordCode.Statement i)
    (hw : i.word = some (c, w)) (hc : i.code = some (cls, opc)) : wCls w = cls ∧ wOp w = opc := by
  have h := hs c w hw
  rw [hc] at h
  simp only [Option.some.injEq, Prod.mk.injEq] at h
  exact ⟨h.1.symm, h.2.symm⟩

/-- How an instruction acts: on its engine's queue, or on the sequencer alone. -/
def Issues (i : Instr) (s : State) : Prop :=
  ∀ c w, i.word = some (c, w) → (∃ e, wordEng s.dev.order.fabricDies w = some e ∧ exec i s = s.issueEng c w e) ∨
    (wordEng s.dev.order.fabricDies w = none ∧ ∃ f, exec i s = s.issueSeq c w f)

theorem Issues.eng {i : Instr} {s : State} {c : Fin 48} {w : InsWord} (e : Eng) (hw : i.word = some (c, w))
    (he : wordEng s.dev.order.fabricDies w = some e) (hx : exec i s = s.issueEng c w e) : Issues i s := by
  intro c' w' h
  rw [hw] at h
  simp only [Option.some.injEq, Prod.mk.injEq] at h
  obtain ⟨rfl, rfl⟩ := h
  exact .inl ⟨e, he, hx⟩

theorem Issues.seq {i : Instr} {s : State} {c : Fin 48} {w : InsWord} (hw : i.word = some (c, w))
    (he : wordEng s.dev.order.fabricDies w = none) (hx : ∃ f, exec i s = s.issueSeq c w f) : Issues i s := by
  intro c' w' h
  rw [hw] at h
  simp only [Option.some.injEq, Prod.mk.injEq] at h
  obtain ⟨rfl, rfl⟩ := h
  exact .inr ⟨he, hx⟩

theorem issues_sadd (s : State) (i : Instr) (h : ∃ core psel sd sa sb imm imm32, i = .sadd core psel sd sa sb imm imm32) : Issues i s := by
  obtain ⟨core, psel, sd, sa, sb, imm, imm32, rfl⟩ := h
  have g := wordEng_code (Laws.WordCode.sadd _ _ _ _ _ _ _) (i := .sadd core psel sd sa sb imm imm32) rfl rfl
  exact Issues.seq rfl (by unfold wordEng; rw [g.1]; rfl)
    ⟨_, show execSadd core psel sd sa sb imm imm32 s = _ by unfold execSadd; rfl⟩

theorem issues_ssub (s : State) (i : Instr) (h : ∃ core psel sd sa sb imm imm32, i = .ssub core psel sd sa sb imm imm32) : Issues i s := by
  obtain ⟨core, psel, sd, sa, sb, imm, imm32, rfl⟩ := h
  have g := wordEng_code (Laws.WordCode.ssub _ _ _ _ _ _ _) (i := .ssub core psel sd sa sb imm imm32) rfl rfl
  exact Issues.seq rfl (by unfold wordEng; rw [g.1]; rfl)
    ⟨_, show execSsub core psel sd sa sb imm imm32 s = _ by unfold execSsub; rfl⟩

theorem issues_smul (s : State) (i : Instr) (h : ∃ core psel sd sa sb imm imm32, i = .smul core psel sd sa sb imm imm32) : Issues i s := by
  obtain ⟨core, psel, sd, sa, sb, imm, imm32, rfl⟩ := h
  have g := wordEng_code (Laws.WordCode.smul _ _ _ _ _ _ _) (i := .smul core psel sd sa sb imm imm32) rfl rfl
  exact Issues.seq rfl (by unfold wordEng; rw [g.1]; rfl)
    ⟨_, show execSmul core psel sd sa sb imm imm32 s = _ by unfold execSmul; rfl⟩

theorem issues_sand (s : State) (i : Instr) (h : ∃ core psel sd sa sb imm imm32, i = .sand core psel sd sa sb imm imm32) : Issues i s := by
  obtain ⟨core, psel, sd, sa, sb, imm, imm32, rfl⟩ := h
  have g := wordEng_code (Laws.WordCode.sand _ _ _ _ _ _ _) (i := .sand core psel sd sa sb imm imm32) rfl rfl
  exact Issues.seq rfl (by unfold wordEng; rw [g.1]; rfl)
    ⟨_, show execSand core psel sd sa sb imm imm32 s = _ by unfold execSand; rfl⟩

theorem issues_sor (s : State) (i : Instr) (h : ∃ core psel sd sa sb imm imm32, i = .sor core psel sd sa sb imm imm32) : Issues i s := by
  obtain ⟨core, psel, sd, sa, sb, imm, imm32, rfl⟩ := h
  have g := wordEng_code (Laws.WordCode.sor _ _ _ _ _ _ _) (i := .sor core psel sd sa sb imm imm32) rfl rfl
  exact Issues.seq rfl (by unfold wordEng; rw [g.1]; rfl)
    ⟨_, show execSor core psel sd sa sb imm imm32 s = _ by unfold execSor; rfl⟩

theorem issues_sxor (s : State) (i : Instr) (h : ∃ core psel sd sa sb imm imm32, i = .sxor core psel sd sa sb imm imm32) : Issues i s := by
  obtain ⟨core, psel, sd, sa, sb, imm, imm32, rfl⟩ := h
  have g := wordEng_code (Laws.WordCode.sxor _ _ _ _ _ _ _) (i := .sxor core psel sd sa sb imm imm32) rfl rfl
  exact Issues.seq rfl (by unfold wordEng; rw [g.1]; rfl)
    ⟨_, show execSxor core psel sd sa sb imm imm32 s = _ by unfold execSxor; rfl⟩

theorem issues_sshl (s : State) (i : Instr) (h : ∃ core psel sd sa sb imm imm32, i = .sshl core psel sd sa sb imm imm32) : Issues i s := by
  obtain ⟨core, psel, sd, sa, sb, imm, imm32, rfl⟩ := h
  have g := wordEng_code (Laws.WordCode.sshl _ _ _ _ _ _ _) (i := .sshl core psel sd sa sb imm imm32) rfl rfl
  exact Issues.seq rfl (by unfold wordEng; rw [g.1]; rfl)
    ⟨_, show execSshl core psel sd sa sb imm imm32 s = _ by unfold execSshl; rfl⟩

theorem issues_sshr (s : State) (i : Instr) (h : ∃ core psel sd sa sb imm imm32, i = .sshr core psel sd sa sb imm imm32) : Issues i s := by
  obtain ⟨core, psel, sd, sa, sb, imm, imm32, rfl⟩ := h
  have g := wordEng_code (Laws.WordCode.sshr _ _ _ _ _ _ _) (i := .sshr core psel sd sa sb imm imm32) rfl rfl
  exact Issues.seq rfl (by unfold wordEng; rw [g.1]; rfl)
    ⟨_, show execSshr core psel sd sa sb imm imm32 s = _ by unfold execSshr; rfl⟩

theorem issues_ssra (s : State) (i : Instr) (h : ∃ core psel sd sa sb imm imm32, i = .ssra core psel sd sa sb imm imm32) : Issues i s := by
  obtain ⟨core, psel, sd, sa, sb, imm, imm32, rfl⟩ := h
  have g := wordEng_code (Laws.WordCode.ssra _ _ _ _ _ _ _) (i := .ssra core psel sd sa sb imm imm32) rfl rfl
  exact Issues.seq rfl (by unfold wordEng; rw [g.1]; rfl)
    ⟨_, show execSsra core psel sd sa sb imm imm32 s = _ by unfold execSsra; rfl⟩

theorem issues_smovi (s : State) (i : Instr) (h : ∃ core psel sd imm64, i = .smovi core psel sd imm64) : Issues i s := by
  obtain ⟨core, psel, sd, imm64, rfl⟩ := h
  have g := wordEng_code (Laws.WordCode.smovi _ _ _ _) (i := .smovi core psel sd imm64) rfl rfl
  exact Issues.seq rfl (by unfold wordEng; rw [g.1]; rfl)
    ⟨_, show execSmovi core psel sd imm64 s = _ by unfold execSmovi; rfl⟩

theorem issues_scmp (s : State) (i : Instr) (h : ∃ core psel pd cond sa sb imm imm32, i = .scmp core psel pd cond sa sb imm imm32) : Issues i s := by
  obtain ⟨core, psel, pd, cond, sa, sb, imm, imm32, rfl⟩ := h
  have g := wordEng_code (Laws.WordCode.scmp _ _ _ _ _ _ _ _) (i := .scmp core psel pd cond sa sb imm imm32) rfl rfl
  exact Issues.seq rfl (by unfold wordEng; rw [g.1]; rfl)
    ⟨_, show execScmp core psel pd cond sa sb imm imm32 s = _ by unfold execScmp; rfl⟩

theorem issues_pset (s : State) (i : Instr) (h : ∃ core psel pd pa pb pop, i = .pset core psel pd pa pb pop) : Issues i s := by
  obtain ⟨core, psel, pd, pa, pb, pop, rfl⟩ := h
  have g := wordEng_code (Laws.WordCode.pset _ _ _ _ _ _) (i := .pset core psel pd pa pb pop) rfl rfl
  exact Issues.seq rfl (by unfold wordEng; rw [g.1]; rfl)
    ⟨_, show execPset core psel pd pa pb pop s = _ by unfold execPset; rfl⟩

theorem issues_tdset (s : State) (i : Instr) (h : ∃ core psel td fld sa add, i = .tdset core psel td fld sa add) : Issues i s := by
  obtain ⟨core, psel, td, fld, sa, add, rfl⟩ := h
  have g := wordEng_code (Laws.WordCode.tdset _ _ _ _ _ _) (i := .tdset core psel td fld sa add) rfl rfl
  exact Issues.seq rfl (by unfold wordEng; rw [g.1]; rfl)
    ⟨_, show execTdset core psel td fld sa add s = _ by unfold execTdset; rfl⟩

theorem issues_tdcopy (s : State) (i : Instr) (h : ∃ core psel tdd tda, i = .tdcopy core psel tdd tda) : Issues i s := by
  obtain ⟨core, psel, tdd, tda, rfl⟩ := h
  have g := wordEng_code (Laws.WordCode.tdcopy _ _ _ _) (i := .tdcopy core psel tdd tda) rfl rfl
  exact Issues.seq rfl (by unfold wordEng; rw [g.1]; rfl)
    ⟨_, show execTdcopy core psel tdd tda s = _ by unfold execTdcopy; rfl⟩

theorem issues_loop (s : State) (i : Instr) (h : ∃ core psel count body iter si, i = .loop core psel count body iter si) : Issues i s := by
  obtain ⟨core, psel, count, body, iter, si, rfl⟩ := h
  have g := wordEng_code (Laws.WordCode.loop _ _ _ _ _ _) (i := .loop core psel count body iter si) rfl rfl
  exact Issues.seq rfl (by unfold wordEng; rw [g.1]; rfl)
    ⟨_, show execLoop core psel count body iter si s = _ by unfold execLoop; rfl⟩

theorem issues_syncBar (s : State) (i : Instr) (h : ∃ core psel mask id, i = .syncBar core psel mask id) : Issues i s := by
  obtain ⟨core, psel, mask, id, rfl⟩ := h
  have g := wordEng_code (Laws.WordCode.syncBar _ _ _ _) (i := .syncBar core psel mask id) rfl rfl
  exact Issues.seq rfl (by unfold wordEng; rw [g.1]; rfl)
    ⟨_, show execSyncBar core psel mask id s = _ by unfold execSyncBar; rfl⟩

theorem issues_fenceEng (s : State) (i : Instr) (h : ∃ core psel cmask, i = .fenceEng core psel cmask) : Issues i s := by
  obtain ⟨core, psel, cmask, rfl⟩ := h
  have g := wordEng_code (Laws.WordCode.fenceEng _ _ _) (i := .fenceEng core psel cmask) rfl rfl
  exact Issues.seq rfl (by unfold wordEng; rw [g.1]; rfl)
    ⟨_, show execFenceEng core psel cmask s = _ by unfold execFenceEng; rfl⟩

theorem issues_fenceGmem (s : State) (i : Instr) (h : ∃ core psel scope sa, i = .fenceGmem core psel scope sa) : Issues i s := by
  obtain ⟨core, psel, scope, sa, rfl⟩ := h
  have g := wordEng_code (Laws.WordCode.fenceGmem _ _ _ _) (i := .fenceGmem core psel scope sa) rfl rfl
  exact Issues.seq rfl (by unfold wordEng; rw [g.1]; rfl)
    ⟨_, show execFenceGmem core psel scope sa s = _ by unfold execFenceGmem; rfl⟩

theorem issues_nop (s : State) (i : Instr) (h : ∃ core psel, i = .nop core psel) : Issues i s := by
  obtain ⟨core, psel, rfl⟩ := h
  have g := wordEng_code (Laws.WordCode.nop _ _) (i := .nop core psel) rfl rfl
  exact Issues.seq rfl (by unfold wordEng; rw [g.1]; rfl)
    ⟨_, show execNop core psel s = _ by unfold execNop; rfl⟩

theorem issues_tickEnd (s : State) (i : Instr) (h : ∃ core psel, i = .tickEnd core psel) : Issues i s := by
  obtain ⟨core, psel, rfl⟩ := h
  have g := wordEng_code (Laws.WordCode.tickEnd _ _) (i := .tickEnd core psel) rfl rfl
  exact Issues.seq rfl (by unfold wordEng; rw [g.1]; rfl)
    ⟨_, show execTickEnd core psel s = _ by unfold execTickEnd; rfl⟩

theorem issues_tickWait (s : State) (i : Instr) (h : ∃ core psel src sa offs, i = .tickWait core psel src sa offs) : Issues i s := by
  obtain ⟨core, psel, src, sa, offs, rfl⟩ := h
  have g := wordEng_code (Laws.WordCode.tickWait _ _ _ _ _) (i := .tickWait core psel src sa offs) rfl rfl
  exact Issues.seq rfl (by unfold wordEng; rw [g.1]; rfl)
    ⟨_, show execTickWait core psel src sa offs s = _ by unfold execTickWait; rfl⟩

theorem issues_tickFrame (s : State) (i : Instr) (h : ∃ core psel sd se, i = .tickFrame core psel sd se) : Issues i s := by
  obtain ⟨core, psel, sd, se, rfl⟩ := h
  have g := wordEng_code (Laws.WordCode.tickFrame _ _ _ _) (i := .tickFrame core psel sd se) rfl rfl
  exact Issues.seq rfl (by unfold wordEng; rw [g.1]; rfl)
    ⟨_, show execTickFrame core psel sd se s = _ by unfold execTickFrame; rfl⟩

theorem issues_tickNow (s : State) (i : Instr) (h : ∃ core psel sd, i = .tickNow core psel sd) : Issues i s := by
  obtain ⟨core, psel, sd, rfl⟩ := h
  have g := wordEng_code (Laws.WordCode.tickNow _ _ _) (i := .tickNow core psel sd) rfl rfl
  exact Issues.seq rfl (by unfold wordEng; rw [g.1]; rfl)
    ⟨_, show execTickNow core psel sd s = _ by unfold execTickNow; rfl⟩

theorem issues_moveTile (s : State) (i : Instr) (h : ∃ core psel tdd tda o z rnd, i = .moveTile core psel tdd tda o z rnd) : Issues i s := by
  obtain ⟨core, psel, tdd, tda, o, z, rnd, rfl⟩ := h
  have g := wordEng_code (Laws.WordCode.moveTile _ _ _ _ _ _ _) (i := .moveTile core psel tdd tda o z rnd) rfl rfl
  exact Issues.eng .loader rfl (by unfold wordEng; rw [g.1]; rfl) rfl

theorem issues_moveFill (s : State) (i : Instr) (h : ∃ core psel tdd o z ss, i = .moveFill core psel tdd o z ss) : Issues i s := by
  obtain ⟨core, psel, tdd, o, z, ss, rfl⟩ := h
  have g := wordEng_code (Laws.WordCode.moveFill _ _ _ _ _ _) (i := .moveFill core psel tdd o z ss) rfl rfl
  exact Issues.eng .loader rfl (by unfold wordEng; rw [g.1]; rfl) rfl

theorem issues_mmLoad (s : State) (i : Instr) (h : ∃ core psel tda o z, i = .mmLoad core psel tda o z) : Issues i s := by
  obtain ⟨core, psel, tda, o, z, rfl⟩ := h
  have g := wordEng_code (Laws.WordCode.mmLoad _ _ _ _ _) (i := .mmLoad core psel tda o z) rfl rfl
  exact Issues.eng .array rfl (by unfold wordEng; rw [g.1, g.2]; rfl) rfl

theorem issues_mmRun (s : State) (i : Instr) (h : ∃ core psel tda o z accset acc skim skimAt st, i = .mmRun core psel tda o z accset acc skim skimAt st) : Issues i s := by
  obtain ⟨core, psel, tda, o, z, accset, acc, skim, skimAt, st, rfl⟩ := h
  have g := wordEng_code (Laws.WordCode.mmRun _ _ _ _ _ _ _ _ _ _) (i := .mmRun core psel tda o z accset acc skim skimAt st) rfl rfl
  exact Issues.eng .array rfl (by unfold wordEng; rw [g.1, g.2]; rfl) rfl

theorem issues_mmStore (s : State) (i : Instr) (h : ∃ core psel tdd o z rnd accset, i = .mmStore core psel tdd o z rnd accset) : Issues i s := by
  obtain ⟨core, psel, tdd, o, z, rnd, accset, rfl⟩ := h
  have g := wordEng_code (Laws.WordCode.mmStore _ _ _ _ _ _ _) (i := .mmStore core psel tdd o z rnd accset) rfl rfl
  exact Issues.eng .array rfl (by unfold wordEng; rw [g.1, g.2]; rfl) rfl

theorem issues_mmPair (s : State) (i : Instr) (h : ∃ core psel tda tdb z accset acc, i = .mmPair core psel tda tdb z accset acc) : Issues i s := by
  obtain ⟨core, psel, tda, tdb, z, accset, acc, rfl⟩ := h
  have g := wordEng_code (Laws.WordCode.mmPair _ _ _ _ _ _ _) (i := .mmPair core psel tda tdb z accset acc) rfl rfl
  exact Issues.eng .pairing rfl (by unfold wordEng; rw [g.1, g.2]; rfl) rfl

theorem issues_rowSmax (s : State) (i : Instr) (h : ∃ core psel tdd tda z rnd stat ss, i = .rowSmax core psel tdd tda z rnd stat ss) : Issues i s := by
  obtain ⟨core, psel, tdd, tda, z, rnd, stat, ss, rfl⟩ := h
  have g := wordEng_code (Laws.WordCode.rowSmax _ _ _ _ _ _ _ _) (i := .rowSmax core psel tdd tda z rnd stat ss) rfl rfl
  exact Issues.eng .row rfl (by unfold wordEng; rw [g.1]; rfl) rfl

theorem issues_rowNorm (s : State) (i : Instr) (h : ∃ core psel tdd tda tdc z rnd stat ss nkind, i = .rowNorm core psel tdd tda tdc z rnd stat ss nkind) : Issues i s := by
  obtain ⟨core, psel, tdd, tda, tdc, z, rnd, stat, ss, nkind, rfl⟩ := h
  have g := wordEng_code (Laws.WordCode.rowNorm _ _ _ _ _ _ _ _ _ _) (i := .rowNorm core psel tdd tda tdc z rnd stat ss nkind) rfl rfl
  exact Issues.eng .row rfl (by unfold wordEng; rw [g.1]; rfl) rfl

theorem issues_rowSmaxB (s : State) (i : Instr) (h : ∃ core psel tdd tda tdb z rnd stat recomp ss, i = .rowSmaxB core psel tdd tda tdb z rnd stat recomp ss) : Issues i s := by
  obtain ⟨core, psel, tdd, tda, tdb, z, rnd, stat, recomp, ss, rfl⟩ := h
  have g := wordEng_code (Laws.WordCode.rowSmaxB _ _ _ _ _ _ _ _ _ _) (i := .rowSmaxB core psel tdd tda tdb z rnd stat recomp ss) rfl rfl
  exact Issues.eng .row rfl (by unfold wordEng; rw [g.1]; rfl) rfl

theorem issues_rowNormB (s : State) (i : Instr) (h : ∃ core psel tdd tda tdb tdc z rnd stat recomp ss nkind, i = .rowNormB core psel tdd tda tdb tdc z rnd stat recomp ss nkind) : Issues i s := by
  obtain ⟨core, psel, tdd, tda, tdb, tdc, z, rnd, stat, recomp, ss, nkind, rfl⟩ := h
  have g := wordEng_code (Laws.WordCode.rowNormB _ _ _ _ _ _ _ _ _ _ _ _) (i := .rowNormB core psel tdd tda tdb tdc z rnd stat recomp ss nkind) rfl rfl
  exact Issues.eng .row rfl (by unfold wordEng; rw [g.1]; rfl) rfl

theorem issues_vadd (s : State) (i : Instr) (h : ∃ core psel tdd tda tdb z rnd, i = .vadd core psel tdd tda tdb z rnd) : Issues i s := by
  obtain ⟨core, psel, tdd, tda, tdb, z, rnd, rfl⟩ := h
  have g := wordEng_code (Laws.WordCode.vadd _ _ _ _ _ _ _) (i := .vadd core psel tdd tda tdb z rnd) rfl rfl
  exact Issues.eng .vec rfl (by unfold wordEng; rw [g.1]; rfl) rfl

theorem issues_vmul (s : State) (i : Instr) (h : ∃ core psel tdd tda tdb z rnd, i = .vmul core psel tdd tda tdb z rnd) : Issues i s := by
  obtain ⟨core, psel, tdd, tda, tdb, z, rnd, rfl⟩ := h
  have g := wordEng_code (Laws.WordCode.vmul _ _ _ _ _ _ _) (i := .vmul core psel tdd tda tdb z rnd) rfl rfl
  exact Issues.eng .vec rfl (by unfold wordEng; rw [g.1]; rfl) rfl

theorem issues_vfma (s : State) (i : Instr) (h : ∃ core psel tdd tda tdb tdc z rnd, i = .vfma core psel tdd tda tdb tdc z rnd) : Issues i s := by
  obtain ⟨core, psel, tdd, tda, tdb, tdc, z, rnd, rfl⟩ := h
  have g := wordEng_code (Laws.WordCode.vfma _ _ _ _ _ _ _ _) (i := .vfma core psel tdd tda tdb tdc z rnd) rfl rfl
  exact Issues.eng .vec rfl (by unfold wordEng; rw [g.1]; rfl) rfl

theorem issues_vscale (s : State) (i : Instr) (h : ∃ core psel tdd tda z rnd ss, i = .vscale core psel tdd tda z rnd ss) : Issues i s := by
  obtain ⟨core, psel, tdd, tda, z, rnd, ss, rfl⟩ := h
  have g := wordEng_code (Laws.WordCode.vscale _ _ _ _ _ _ _) (i := .vscale core psel tdd tda z rnd ss) rfl rfl
  exact Issues.eng .vec rfl (by unfold wordEng; rw [g.1]; rfl) rfl

theorem issues_vact (s : State) (i : Instr) (h : ∃ core psel tdd tda z rnd fn, i = .vact core psel tdd tda z rnd fn) : Issues i s := by
  obtain ⟨core, psel, tdd, tda, z, rnd, fn, rfl⟩ := h
  have g := wordEng_code (Laws.WordCode.vact _ _ _ _ _ _ _) (i := .vact core psel tdd tda z rnd fn) rfl rfl
  exact Issues.eng .vec rfl (by unfold wordEng; rw [g.1]; rfl) rfl

theorem issues_vamax (s : State) (i : Instr) (h : ∃ core psel tda z ss, i = .vamax core psel tda z ss) : Issues i s := by
  obtain ⟨core, psel, tda, z, ss, rfl⟩ := h
  have g := wordEng_code (Laws.WordCode.vamax _ _ _ _ _) (i := .vamax core psel tda z ss) rfl rfl
  exact Issues.eng .vec rfl (by unfold wordEng; rw [g.1]; rfl) rfl

theorem issues_vgate (s : State) (i : Instr) (h : ∃ core psel tdd tda tdb z rnd, i = .vgate core psel tdd tda tdb z rnd) : Issues i s := by
  obtain ⟨core, psel, tdd, tda, tdb, z, rnd, rfl⟩ := h
  have g := wordEng_code (Laws.WordCode.vgate _ _ _ _ _ _ _) (i := .vgate core psel tdd tda tdb z rnd) rfl rfl
  exact Issues.eng .vec rfl (by unfold wordEng; rw [g.1]; rfl) rfl

theorem issues_vopt (s : State) (i : Instr) (h : ∃ core psel tdd tda tdb tdc z rnd ss fn, i = .vopt core psel tdd tda tdb tdc z rnd ss fn) : Issues i s := by
  obtain ⟨core, psel, tdd, tda, tdb, tdc, z, rnd, ss, fn, rfl⟩ := h
  have g := wordEng_code (Laws.WordCode.vopt _ _ _ _ _ _ _ _ _ _) (i := .vopt core psel tdd tda tdb tdc z rnd ss fn) rfl rfl
  exact Issues.eng .vec rfl (by unfold wordEng; rw [g.1]; rfl) rfl

theorem issues_sepSelect (s : State) (i : Instr) (h : ∃ core psel tdd tda layer e k shared gate sn, i = .sepSelect core psel tdd tda layer e k shared gate sn) : Issues i s := by
  obtain ⟨core, psel, tdd, tda, layer, e, k, shared, gate, sn, rfl⟩ := h
  have g := wordEng_code (Laws.WordCode.sepSelect _ _ _ _ _ _ _ _ _ _) (i := .sepSelect core psel tdd tda layer e k shared gate sn) rfl rfl
  exact Issues.eng .sep rfl (by unfold wordEng; rw [g.1]; rfl) rfl

theorem issues_sepHash (s : State) (i : Instr) (h : ∃ core psel tdd tda layer e k salt, i = .sepHash core psel tdd tda layer e k salt) : Issues i s := by
  obtain ⟨core, psel, tdd, tda, layer, e, k, salt, rfl⟩ := h
  have g := wordEng_code (Laws.WordCode.sepHash _ _ _ _ _ _ _ _) (i := .sepHash core psel tdd tda layer e k salt) rfl rfl
  exact Issues.eng .sep rfl (by unfold wordEng; rw [g.1]; rfl) rfl

theorem issues_churnSort (s : State) (i : Instr) (h : ∃ core psel tdd tda buckets key layer, i = .churnSort core psel tdd tda buckets key layer) : Issues i s := by
  obtain ⟨core, psel, tdd, tda, buckets, key, layer, rfl⟩ := h
  have g := wordEng_code (Laws.WordCode.churnSort _ _ _ _ _ _ _) (i := .churnSort core psel tdd tda buckets key layer) rfl rfl
  exact Issues.eng .churn rfl (by unfold wordEng; rw [g.1]; rfl) rfl

theorem issues_churnRestore (s : State) (i : Instr) (h : ∃ core psel tdd tda tdb layer, i = .churnRestore core psel tdd tda tdb layer) : Issues i s := by
  obtain ⟨core, psel, tdd, tda, tdb, layer, rfl⟩ := h
  have g := wordEng_code (Laws.WordCode.churnRestore _ _ _ _ _ _) (i := .churnRestore core psel tdd tda tdb layer) rfl rfl
  exact Issues.eng .churn rfl (by unfold wordEng; rw [g.1]; rfl) rfl

theorem issues_xchDispatch (s : State) (i : Instr) (h : ∃ core psel tda slot sg, i = .xchDispatch core psel tda slot sg) : Issues i s := by
  obtain ⟨core, psel, tda, slot, sg, rfl⟩ := h
  have g := wordEng_code (Laws.WordCode.xchDispatch _ _ _ _ _) (i := .xchDispatch core psel tda slot sg) rfl rfl
  exact Issues.eng .xch rfl (by unfold wordEng; rw [g.1]; rfl) rfl

theorem issues_xchRecv (s : State) (i : Instr) (h : ∃ core psel tdd slot, i = .xchRecv core psel tdd slot) : Issues i s := by
  obtain ⟨core, psel, tdd, slot, rfl⟩ := h
  have g := wordEng_code (Laws.WordCode.xchRecv _ _ _ _) (i := .xchRecv core psel tdd slot) rfl rfl
  exact Issues.eng .xch rfl (by unfold wordEng; rw [g.1]; rfl) rfl

theorem issues_xchReturn (s : State) (i : Instr) (h : ∃ core psel tda slot, i = .xchReturn core psel tda slot) : Issues i s := by
  obtain ⟨core, psel, tda, slot, rfl⟩ := h
  have g := wordEng_code (Laws.WordCode.xchReturn _ _ _ _) (i := .xchReturn core psel tda slot) rfl rfl
  exact Issues.eng .xch rfl (by unfold wordEng; rw [g.1]; rfl) rfl

theorem issues_xchCombine (s : State) (i : Instr) (h : ∃ core psel tdd slot sg, i = .xchCombine core psel tdd slot sg) : Issues i s := by
  obtain ⟨core, psel, tdd, slot, sg, rfl⟩ := h
  have g := wordEng_code (Laws.WordCode.xchCombine _ _ _ _ _) (i := .xchCombine core psel tdd slot sg) rfl rfl
  exact Issues.eng .xch rfl (by unfold wordEng; rw [g.1]; rfl) rfl

theorem issues_collBcast (s : State) (i : Instr) (h : ∃ core psel tda desc, i = .collBcast core psel tda desc) : Issues i s := by
  obtain ⟨core, psel, tda, desc, rfl⟩ := h
  have g := wordEng_code (Laws.WordCode.collBcast _ _ _ _) (i := .collBcast core psel tda desc) rfl rfl
  exact Issues.eng _ rfl (by unfold wordEng; rw [g.1]; rfl) rfl

theorem issues_collReduce (s : State) (i : Instr) (h : ∃ core psel tdd tda desc, i = .collReduce core psel tdd tda desc) : Issues i s := by
  obtain ⟨core, psel, tdd, tda, desc, rfl⟩ := h
  have g := wordEng_code (Laws.WordCode.collReduce _ _ _ _ _) (i := .collReduce core psel tdd tda desc) rfl rfl
  exact Issues.eng _ rfl (by unfold wordEng; rw [g.1]; rfl) rfl

theorem issues_collWait (s : State) (i : Instr) (h : ∃ core psel desc, i = .collWait core psel desc) : Issues i s := by
  obtain ⟨core, psel, desc, rfl⟩ := h
  have g := wordEng_code (Laws.WordCode.collWait _ _ _) (i := .collWait core psel desc) rfl rfl
  exact Issues.eng _ rfl (by unfold wordEng; rw [g.1]; rfl) rfl

theorem issues_gld (s : State) (i : Instr) (h : ∃ core psel tdd sl win so len, i = .gld core psel tdd sl win so len) : Issues i s := by
  obtain ⟨core, psel, tdd, sl, win, so, len, rfl⟩ := h
  have g := wordEng_code (Laws.WordCode.gld _ _ _ _ _ _ _) (i := .gld core psel tdd sl win so len) rfl rfl
  exact Issues.eng .gmem rfl (by unfold wordEng; rw [g.1]; rfl) rfl

theorem issues_gst (s : State) (i : Instr) (h : ∃ core psel tda sl win so len, i = .gst core psel tda sl win so len) : Issues i s := by
  obtain ⟨core, psel, tda, sl, win, so, len, rfl⟩ := h
  have g := wordEng_code (Laws.WordCode.gst _ _ _ _ _ _ _) (i := .gst core psel tda sl win so len) rfl rfl
  exact Issues.eng .gmem rfl (by unfold wordEng; rw [g.1]; rfl) rfl

theorem issues_gatom (s : State) (i : Instr) (h : ∃ core psel sd sa sb win so aop, i = .gatom core psel sd sa sb win so aop) : Issues i s := by
  obtain ⟨core, psel, sd, sa, sb, win, so, aop, rfl⟩ := h
  have g := wordEng_code (Laws.WordCode.gatom _ _ _ _ _ _ _ _) (i := .gatom core psel sd sa sb win so aop) rfl rfl
  exact Issues.eng .gmem rfl (by unfold wordEng; rw [g.1]; rfl) rfl

theorem issues_palloc (s : State) (i : Instr) (h : ∃ core psel sd sa, i = .palloc core psel sd sa) : Issues i s := by
  obtain ⟨core, psel, sd, sa, rfl⟩ := h
  have g := wordEng_code (Laws.WordCode.palloc _ _ _ _) (i := .palloc core psel sd sa) rfl rfl
  exact Issues.eng .pail rfl (by unfold wordEng; rw [g.1]; rfl) rfl

theorem issues_pfree (s : State) (i : Instr) (h : ∃ core psel sa, i = .pfree core psel sa) : Issues i s := by
  obtain ⟨core, psel, sa, rfl⟩ := h
  have g := wordEng_code (Laws.WordCode.pfree _ _ _) (i := .pfree core psel sa) rfl rfl
  exact Issues.eng .pail rfl (by unfold wordEng; rw [g.1]; rfl) rfl

theorem issues_pshare (s : State) (i : Instr) (h : ∃ core psel sa sb, i = .pshare core psel sa sb) : Issues i s := by
  obtain ⟨core, psel, sa, sb, rfl⟩ := h
  have g := wordEng_code (Laws.WordCode.pshare _ _ _ _) (i := .pshare core psel sa sb) rfl rfl
  exact Issues.eng .pail rfl (by unfold wordEng; rw [g.1]; rfl) rfl

theorem issues_tdpail (s : State) (i : Instr) (h : ∃ core psel td sa, i = .tdpail core psel td sa) : Issues i s := by
  obtain ⟨core, psel, td, sa, rfl⟩ := h
  have g := wordEng_code (Laws.WordCode.tdpail _ _ _ _) (i := .tdpail core psel td sa) rfl rfl
  exact Issues.eng .pail rfl (by unfold wordEng; rw [g.1]; rfl) rfl

theorem issues_tpromote (s : State) (i : Instr) (h : ∃ core psel sa tier, i = .tpromote core psel sa tier) : Issues i s := by
  obtain ⟨core, psel, sa, tier, rfl⟩ := h
  have g := wordEng_code (Laws.WordCode.tpromote _ _ _ _) (i := .tpromote core psel sa tier) rfl rfl
  exact Issues.eng .tier rfl (by unfold wordEng; rw [g.1]; rfl) rfl

theorem issues_tevict (s : State) (i : Instr) (h : ∃ core psel sa tier, i = .tevict core psel sa tier) : Issues i s := by
  obtain ⟨core, psel, sa, tier, rfl⟩ := h
  have g := wordEng_code (Laws.WordCode.tevict _ _ _ _) (i := .tevict core psel sa tier) rfl rfl
  exact Issues.eng .tier rfl (by unfold wordEng; rw [g.1]; rfl) rfl

theorem issues_ttouch (s : State) (i : Instr) (h : ∃ core psel sa, i = .ttouch core psel sa) : Issues i s := by
  obtain ⟨core, psel, sa, rfl⟩ := h
  have g := wordEng_code (Laws.WordCode.ttouch _ _ _) (i := .ttouch core psel sa) rfl rfl
  exact Issues.eng .tier rfl (by unfold wordEng; rw [g.1]; rfl) rfl

theorem issues_twait (s : State) (i : Instr) (h : ∃ core psel sa, i = .twait core psel sa) : Issues i s := by
  obtain ⟨core, psel, sa, rfl⟩ := h
  have g := wordEng_code (Laws.WordCode.twait _ _ _) (i := .twait core psel sa) rfl rfl
  exact Issues.eng .tier rfl (by unfold wordEng; rw [g.1]; rfl) rfl

/-- Every Tynil instruction issues its own word. -/
theorem exec_issues (i : Instr) (s : State) : Issues i s :=
  match i with
  | .sadd _ _ _ _ _ _ _ => issues_sadd s _ ⟨_, _, _, _, _, _, _, rfl⟩
  | .ssub _ _ _ _ _ _ _ => issues_ssub s _ ⟨_, _, _, _, _, _, _, rfl⟩
  | .smul _ _ _ _ _ _ _ => issues_smul s _ ⟨_, _, _, _, _, _, _, rfl⟩
  | .sand _ _ _ _ _ _ _ => issues_sand s _ ⟨_, _, _, _, _, _, _, rfl⟩
  | .sor _ _ _ _ _ _ _ => issues_sor s _ ⟨_, _, _, _, _, _, _, rfl⟩
  | .sxor _ _ _ _ _ _ _ => issues_sxor s _ ⟨_, _, _, _, _, _, _, rfl⟩
  | .sshl _ _ _ _ _ _ _ => issues_sshl s _ ⟨_, _, _, _, _, _, _, rfl⟩
  | .sshr _ _ _ _ _ _ _ => issues_sshr s _ ⟨_, _, _, _, _, _, _, rfl⟩
  | .ssra _ _ _ _ _ _ _ => issues_ssra s _ ⟨_, _, _, _, _, _, _, rfl⟩
  | .smovi _ _ _ _ => issues_smovi s _ ⟨_, _, _, _, rfl⟩
  | .scmp _ _ _ _ _ _ _ _ => issues_scmp s _ ⟨_, _, _, _, _, _, _, _, rfl⟩
  | .pset _ _ _ _ _ _ => issues_pset s _ ⟨_, _, _, _, _, _, rfl⟩
  | .tdset _ _ _ _ _ _ => issues_tdset s _ ⟨_, _, _, _, _, _, rfl⟩
  | .tdcopy _ _ _ _ => issues_tdcopy s _ ⟨_, _, _, _, rfl⟩
  | .loop _ _ _ _ _ _ => issues_loop s _ ⟨_, _, _, _, _, _, rfl⟩
  | .syncBar _ _ _ _ => issues_syncBar s _ ⟨_, _, _, _, rfl⟩
  | .syncBarRelease _ => fun _ _ h => nomatch (show (none : Option (Fin 48 × InsWord)) = some _ from h)
  | .fenceEng _ _ _ => issues_fenceEng s _ ⟨_, _, _, rfl⟩
  | .fenceGmem _ _ _ _ => issues_fenceGmem s _ ⟨_, _, _, _, rfl⟩
  | .fenceRelease _ => fun _ _ h => nomatch (show (none : Option (Fin 48 × InsWord)) = some _ from h)
  | .nop _ _ => issues_nop s _ ⟨_, _, rfl⟩
  | .tickEnd _ _ => issues_tickEnd s _ ⟨_, _, rfl⟩
  | .tickWait _ _ _ _ _ => issues_tickWait s _ ⟨_, _, _, _, _, rfl⟩
  | .tickWaitRelease _ => fun _ _ h => nomatch (show (none : Option (Fin 48 × InsWord)) = some _ from h)
  | .tickFrame _ _ _ _ => issues_tickFrame s _ ⟨_, _, _, _, rfl⟩
  | .tickNow _ _ _ => issues_tickNow s _ ⟨_, _, _, rfl⟩
  | .moveTile _ _ _ _ _ _ _ => issues_moveTile s _ ⟨_, _, _, _, _, _, _, rfl⟩
  | .moveFill _ _ _ _ _ _ => issues_moveFill s _ ⟨_, _, _, _, _, _, rfl⟩
  | .mmLoad _ _ _ _ _ => issues_mmLoad s _ ⟨_, _, _, _, _, rfl⟩
  | .arrayFillDone _ => fun _ _ h => nomatch (show (none : Option (Fin 48 × InsWord)) = some _ from h)
  | .mmRun _ _ _ _ _ _ _ _ _ _ => issues_mmRun s _ ⟨_, _, _, _, _, _, _, _, _, _, rfl⟩
  | .mmStore _ _ _ _ _ _ _ => issues_mmStore s _ ⟨_, _, _, _, _, _, _, rfl⟩
  | .mmPair _ _ _ _ _ _ _ => issues_mmPair s _ ⟨_, _, _, _, _, _, _, rfl⟩
  | .rowSmax _ _ _ _ _ _ _ _ => issues_rowSmax s _ ⟨_, _, _, _, _, _, _, _, rfl⟩
  | .rowNorm _ _ _ _ _ _ _ _ _ _ => issues_rowNorm s _ ⟨_, _, _, _, _, _, _, _, _, _, rfl⟩
  | .rowSmaxB _ _ _ _ _ _ _ _ _ _ => issues_rowSmaxB s _ ⟨_, _, _, _, _, _, _, _, _, _, rfl⟩
  | .rowNormB _ _ _ _ _ _ _ _ _ _ _ _ => issues_rowNormB s _ ⟨_, _, _, _, _, _, _, _, _, _, _, _, rfl⟩
  | .vadd _ _ _ _ _ _ _ => issues_vadd s _ ⟨_, _, _, _, _, _, _, rfl⟩
  | .vmul _ _ _ _ _ _ _ => issues_vmul s _ ⟨_, _, _, _, _, _, _, rfl⟩
  | .vfma _ _ _ _ _ _ _ _ => issues_vfma s _ ⟨_, _, _, _, _, _, _, _, rfl⟩
  | .vscale _ _ _ _ _ _ _ => issues_vscale s _ ⟨_, _, _, _, _, _, _, rfl⟩
  | .vact _ _ _ _ _ _ _ => issues_vact s _ ⟨_, _, _, _, _, _, _, rfl⟩
  | .vamax _ _ _ _ _ => issues_vamax s _ ⟨_, _, _, _, _, rfl⟩
  | .vgate _ _ _ _ _ _ _ => issues_vgate s _ ⟨_, _, _, _, _, _, _, rfl⟩
  | .vopt _ _ _ _ _ _ _ _ _ _ => issues_vopt s _ ⟨_, _, _, _, _, _, _, _, _, _, rfl⟩
  | .sepSelect _ _ _ _ _ _ _ _ _ _ => issues_sepSelect s _ ⟨_, _, _, _, _, _, _, _, _, _, rfl⟩
  | .sepHash _ _ _ _ _ _ _ _ => issues_sepHash s _ ⟨_, _, _, _, _, _, _, _, rfl⟩
  | .dieCollectiveStart _ _ => fun _ _ h => nomatch (show (none : Option (Fin 48 × InsWord)) = some _ from h)
  | .capacityVectorArrive _ => fun _ _ h => nomatch (show (none : Option (Fin 48 × InsWord)) = some _ from h)
  | .capacityWriteBackEnd _ => fun _ _ h => nomatch (show (none : Option (Fin 48 × InsWord)) = some _ from h)
  | .churnSort _ _ _ _ _ _ _ => issues_churnSort s _ ⟨_, _, _, _, _, _, _, rfl⟩
  | .churnRestore _ _ _ _ _ _ => issues_churnRestore s _ ⟨_, _, _, _, _, _, rfl⟩
  | .xchDispatch _ _ _ _ _ => issues_xchDispatch s _ ⟨_, _, _, _, _, rfl⟩
  | .xchRecv _ _ _ _ => issues_xchRecv s _ ⟨_, _, _, _, rfl⟩
  | .xchReturn _ _ _ _ => issues_xchReturn s _ ⟨_, _, _, _, rfl⟩
  | .xchCombine _ _ _ _ _ => issues_xchCombine s _ ⟨_, _, _, _, _, rfl⟩
  | .collBcast _ _ _ _ => issues_collBcast s _ ⟨_, _, _, _, rfl⟩
  | .collReduce _ _ _ _ _ => issues_collReduce s _ ⟨_, _, _, _, _, rfl⟩
  | .collWait _ _ _ => issues_collWait s _ ⟨_, _, _, rfl⟩
  | .gld _ _ _ _ _ _ _ => issues_gld s _ ⟨_, _, _, _, _, _, _, rfl⟩
  | .gst _ _ _ _ _ _ _ => issues_gst s _ ⟨_, _, _, _, _, _, _, rfl⟩
  | .gatom _ _ _ _ _ _ _ _ => issues_gatom s _ ⟨_, _, _, _, _, _, _, _, rfl⟩
  | .palloc _ _ _ _ => issues_palloc s _ ⟨_, _, _, _, rfl⟩
  | .pfree _ _ _ => issues_pfree s _ ⟨_, _, _, rfl⟩
  | .pshare _ _ _ _ => issues_pshare s _ ⟨_, _, _, _, rfl⟩
  | .tdpail _ _ _ _ => issues_tdpail s _ ⟨_, _, _, _, rfl⟩
  | .tpromote _ _ _ _ => issues_tpromote s _ ⟨_, _, _, _, rfl⟩
  | .tevict _ _ _ _ => issues_tevict s _ ⟨_, _, _, _, rfl⟩
  | .ttouch _ _ _ => issues_ttouch s _ ⟨_, _, _, rfl⟩
  | .twait _ _ _ => issues_twait s _ ⟨_, _, _, rfl⟩
  | .queueHeadRelease _ _ => fun _ _ h => nomatch (show (none : Option (Fin 48 × InsWord)) = some _ from h)
  | .instructionRetire _ _ => fun _ _ h => nomatch (show (none : Option (Fin 48 × InsWord)) = some _ from h)
  | .pailRequestApply _ => fun _ _ h => nomatch (show (none : Option (Fin 48 × InsWord)) = some _ from h)
  | .load _ _ => fun _ _ h => nomatch (show (none : Option (Fin 48 × InsWord)) = some _ from h)
  | .admissionEnd _ => fun _ _ h => nomatch (show (none : Option (Fin 48 × InsWord)) = some _ from h)
  | .restoreEnd _ => fun _ _ h => nomatch (show (none : Option (Fin 48 × InsWord)) = some _ from h)
  | .abort _ _ => fun _ _ h => nomatch (show (none : Option (Fin 48 × InsWord)) = some _ from h)
  | .stop _ _ => fun _ _ h => nomatch (show (none : Option (Fin 48 × InsWord)) = some _ from h)
  | .release _ _ => fun _ _ h => nomatch (show (none : Option (Fin 48 × InsWord)) = some _ from h)
  | .releaseZeroingEnd _ => fun _ _ h => nomatch (show (none : Option (Fin 48 × InsWord)) = some _ from h)
  | .jobStopFrameWrite _ _ _ => fun _ _ h => nomatch (show (none : Option (Fin 48 × InsWord)) = some _ from h)
  | .arm _ _ => fun _ _ h => nomatch (show (none : Option (Fin 48 × InsWord)) = some _ from h)
  | .disarm _ _ => fun _ _ h => nomatch (show (none : Option (Fin 48 × InsWord)) = some _ from h)
  | .launchCountReached => fun _ _ h => nomatch (show (none : Option (Fin 48 × InsWord)) = some _ from h)
  | .frameOpen => fun _ _ h => nomatch (show (none : Option (Fin 48 × InsWord)) = some _ from h)
  | .guardStart => fun _ _ h => nomatch (show (none : Option (Fin 48 × InsWord)) = some _ from h)
  | .frameClose => fun _ _ h => nomatch (show (none : Option (Fin 48 × InsWord)) = some _ from h)
  | .drainEnd => fun _ _ h => nomatch (show (none : Option (Fin 48 × InsWord)) = some _ from h)
  | .teardownComplete _ => fun _ _ h => nomatch (show (none : Option (Fin 48 × InsWord)) = some _ from h)
  | .throttleStep => fun _ _ h => nomatch (show (none : Option (Fin 48 × InsWord)) = some _ from h)
  | .herdReadyOffset => fun _ _ h => nomatch (show (none : Option (Fin 48 × InsWord)) = some _ from h)
  | .herdAdd => fun _ _ h => nomatch (show (none : Option (Fin 48 × InsWord)) = some _ from h)
  | .herdCancel => fun _ _ h => nomatch (show (none : Option (Fin 48 × InsWord)) = some _ from h)
  | .herdChangeStops => fun _ _ h => nomatch (show (none : Option (Fin 48 × InsWord)) = some _ from h)
  | .herdHold => fun _ _ h => nomatch (show (none : Option (Fin 48 × InsWord)) = some _ from h)
  | .herdRelease => fun _ _ h => nomatch (show (none : Option (Fin 48 × InsWord)) = some _ from h)
  | .herdFlush => fun _ _ h => nomatch (show (none : Option (Fin 48 × InsWord)) = some _ from h)
  | .tierMoveCommit _ => fun _ _ h => nomatch (show (none : Option (Fin 48 × InsWord)) = some _ from h)
  | .snapCutComplete => fun _ _ h => nomatch (show (none : Option (Fin 48 × InsWord)) = some _ from h)
  | .nvmeCompletion _ => fun _ _ h => nomatch (show (none : Option (Fin 48 × InsWord)) = some _ from h)
  | .mirrorData _ => fun _ _ h => nomatch (show (none : Option (Fin 48 × InsWord)) = some _ from h)
  | .mirrorCommit _ => fun _ _ h => nomatch (show (none : Option (Fin 48 × InsWord)) = some _ from h)
  | .gmemRequestArrive _ => fun _ _ h => nomatch (show (none : Option (Fin 48 × InsWord)) = some _ from h)
  | .gmemResponseArrive _ => fun _ _ h => nomatch (show (none : Option (Fin 48 × InsWord)) = some _ from h)
  | .gmemRetry _ _ => fun _ _ h => nomatch (show (none : Option (Fin 48 × InsWord)) = some _ from h)
  | .gmemTimeout _ _ => fun _ _ h => nomatch (show (none : Option (Fin 48 × InsWord)) = some _ from h)
  | .gmemMgmtCancel _ _ _ => fun _ _ h => nomatch (show (none : Option (Fin 48 × InsWord)) = some _ from h)
  | .windowCommand _ _ => fun _ _ h => nomatch (show (none : Option (Fin 48 × InsWord)) = some _ from h)
  | .gmemCfgWrite _ _ _ => fun _ _ h => nomatch (show (none : Option (Fin 48 × InsWord)) = some _ from h)
  | .lendBegin _ _ => fun _ _ h => nomatch (show (none : Option (Fin 48 × InsWord)) = some _ from h)
  | .lendEnd _ _ => fun _ _ h => nomatch (show (none : Option (Fin 48 × InsWord)) = some _ from h)
  | .lendZeroingEnd _ => fun _ _ h => nomatch (show (none : Option (Fin 48 × InsWord)) = some _ from h)
  | .timeMessage _ => fun _ _ h => nomatch (show (none : Option (Fin 48 × InsWord)) = some _ from h)
  | .timestampBlock _ _ _ _ _ _ _ => fun _ _ h => nomatch (show (none : Option (Fin 48 × InsWord)) = some _ from h)
  | .timestampSend _ => fun _ _ h => nomatch (show (none : Option (Fin 48 × InsWord)) = some _ from h)
  | .syncParentTimeout => fun _ _ h => nomatch (show (none : Option (Fin 48 × InsWord)) = some _ from h)
  | .tickSyncCfgWrite _ _ _ => fun _ _ h => nomatch (show (none : Option (Fin 48 × InsWord)) = some _ from h)
  | .linkBlockReceive _ _ _ => fun _ _ h => nomatch (show (none : Option (Fin 48 × InsWord)) = some _ from h)
  | .ackTimeout _ => fun _ _ h => nomatch (show (none : Option (Fin 48 × InsWord)) = some _ from h)
  | .pmdLockLoss _ => fun _ _ h => nomatch (show (none : Option (Fin 48 × InsWord)) = some _ from h)
  | .portTrainingStart _ => fun _ _ h => nomatch (show (none : Option (Fin 48 × InsWord)) = some _ from h)
  | .portTrainingEnd _ _ _ _ => fun _ _ h => nomatch (show (none : Option (Fin 48 × InsWord)) = some _ from h)
  | .portEnable _ _ _ _ => fun _ _ h => nomatch (show (none : Option (Fin 48 × InsWord)) = some _ from h)
  | .portDisable _ _ _ _ => fun _ _ h => nomatch (show (none : Option (Fin 48 × InsWord)) = some _ from h)
  | .probeSend _ _ _ _ => fun _ _ h => nomatch (show (none : Option (Fin 48 × InsWord)) = some _ from h)
  | .probe _ _ => fun _ _ h => nomatch (show (none : Option (Fin 48 × InsWord)) = some _ from h)
  | .probeAnswer _ _ => fun _ _ h => nomatch (show (none : Option (Fin 48 × InsWord)) = some _ from h)
  | .packetArrive _ _ => fun _ _ h => nomatch (show (none : Option (Fin 48 × InsWord)) = some _ from h)
  | .packetDeliver _ => fun _ _ h => nomatch (show (none : Option (Fin 48 × InsWord)) = some _ from h)
  | .reorderTimeout _ _ _ _ => fun _ _ h => nomatch (show (none : Option (Fin 48 × InsWord)) = some _ from h)
  | .routeCommand _ _ => fun _ _ h => nomatch (show (none : Option (Fin 48 × InsWord)) = some _ from h)
  | .routeCommit => fun _ _ h => nomatch (show (none : Option (Fin 48 × InsWord)) = some _ from h)
  | .congestionWindowEnd => fun _ _ h => nomatch (show (none : Option (Fin 48 × InsWord)) = some _ from h)
  | .summaryPeriodLatch => fun _ _ h => nomatch (show (none : Option (Fin 48 × InsWord)) = some _ from h)
  | .bridgeFlitReplay _ _ _ => fun _ _ h => nomatch (show (none : Option (Fin 48 × InsWord)) = some _ from h)
  | .deliveryStream _ => fun _ _ h => nomatch (show (none : Option (Fin 48 × InsWord)) = some _ from h)
  | .deliveryEndMarker _ => fun _ _ h => nomatch (show (none : Option (Fin 48 × InsWord)) = some _ from h)
  | .returnStream _ => fun _ _ h => nomatch (show (none : Option (Fin 48 × InsWord)) = some _ from h)
  | .returnEndMarker _ => fun _ _ h => nomatch (show (none : Option (Fin 48 × InsWord)) = some _ from h)
  | .collInvocationStart _ => fun _ _ h => nomatch (show (none : Option (Fin 48 × InsWord)) = some _ from h)
  | .reductionStream _ => fun _ _ h => nomatch (show (none : Option (Fin 48 × InsWord)) = some _ from h)
  | .reductionEndMarker _ => fun _ _ h => nomatch (show (none : Option (Fin 48 × InsWord)) = some _ from h)
  | .broadcastStream _ => fun _ _ h => nomatch (show (none : Option (Fin 48 × InsWord)) = some _ from h)
  | .broadcastEndMarker _ => fun _ _ h => nomatch (show (none : Option (Fin 48 × InsWord)) = some _ from h)
  | .collReport _ _ => fun _ _ h => nomatch (show (none : Option (Fin 48 × InsWord)) = some _ from h)
  | .sampleRecords _ _ => fun _ _ h => nomatch (show (none : Option (Fin 48 × InsWord)) = some _ from h)
  | .collDeadline _ _ => fun _ _ h => nomatch (show (none : Option (Fin 48 × InsWord)) = some _ from h)
  | .token _ => fun _ _ h => nomatch (show (none : Option (Fin 48 × InsWord)) = some _ from h)
  | .tokenAcknowledgement _ => fun _ _ h => nomatch (show (none : Option (Fin 48 × InsWord)) = some _ from h)
  | .tokenRepeat _ _ => fun _ _ h => nomatch (show (none : Option (Fin 48 × InsWord)) = some _ from h)
  | .lockstepChunkHash _ => fun _ _ h => nomatch (show (none : Option (Fin 48 × InsWord)) = some _ from h)
  | .lockstepArmRecord _ => fun _ _ h => nomatch (show (none : Option (Fin 48 × InsWord)) = some _ from h)
  | .lockstepFrameDigests _ => fun _ _ h => nomatch (show (none : Option (Fin 48 × InsWord)) = some _ from h)
  | .lockstepGranuleRecords _ => fun _ _ h => nomatch (show (none : Option (Fin 48 × InsWord)) = some _ from h)
  | .lockstepHalt _ => fun _ _ h => nomatch (show (none : Option (Fin 48 × InsWord)) = some _ from h)
  | .twinCfgModeWrite _ _ _ => fun _ _ h => nomatch (show (none : Option (Fin 48 × InsWord)) = some _ from h)
  | .registerWrite _ _ _ _ _ => fun _ _ h => nomatch (show (none : Option (Fin 48 × InsWord)) = some _ from h)
  | .aliasSet _ _ _ _ _ => fun _ _ h => nomatch (show (none : Option (Fin 48 × InsWord)) = some _ from h)
  | .aliasClear _ _ _ _ _ => fun _ _ h => nomatch (show (none : Option (Fin 48 × InsWord)) = some _ from h)
  | .aliasToggle _ _ _ _ _ => fun _ _ h => nomatch (show (none : Option (Fin 48 × InsWord)) = some _ from h)
  | .guardValueWrite _ _ _ _ _ => fun _ _ h => nomatch (show (none : Option (Fin 48 × InsWord)) = some _ from h)
  | .guardComplementWrite _ _ _ _ _ => fun _ _ h => nomatch (show (none : Option (Fin 48 × InsWord)) = some _ from h)
  | .guardWindowExpire _ _ => fun _ _ h => nomatch (show (none : Option (Fin 48 × InsWord)) = some _ from h)
  | .mbxSelWrite _ _ _ _ => fun _ _ h => nomatch (show (none : Option (Fin 48 × InsWord)) = some _ from h)
  | .mailboxReady _ _ _ => fun _ _ h => nomatch (show (none : Option (Fin 48 × InsWord)) = some _ from h)
  | .v3FieldRead _ _ => fun _ _ h => nomatch (show (none : Option (Fin 48 × InsWord)) = some _ from h)
  | .voteScrub => fun _ _ h => nomatch (show (none : Option (Fin 48 × InsWord)) = some _ from h)
  | .resetRelease _ => fun _ _ h => nomatch (show (none : Option (Fin 48 × InsWord)) = some _ from h)
  | .startStepEnd _ _ _ => fun _ _ h => nomatch (show (none : Option (Fin 48 × InsWord)) = some _ from h)
  | .pwrgoodFall => fun _ _ h => nomatch (show (none : Option (Fin 48 × InsWord)) = some _ from h)
  | .railSample _ _ => fun _ _ h => nomatch (show (none : Option (Fin 48 × InsWord)) = some _ from h)
  | .tempSample _ _ => fun _ _ h => nomatch (show (none : Option (Fin 48 × InsWord)) = some _ from h)
  | .reductionExit _ => fun _ _ h => nomatch (show (none : Option (Fin 48 × InsWord)) = some _ from h)
  | .pwrCapWrite _ _ _ => fun _ _ h => nomatch (show (none : Option (Fin 48 × InsWord)) = some _ from h)
  | .pwrTjWrite _ _ _ => fun _ _ h => nomatch (show (none : Option (Fin 48 × InsWord)) = some _ from h)
  | .joinHello => fun _ _ h => nomatch (show (none : Option (Fin 48 × InsWord)) = some _ from h)
  | .joinAccept _ => fun _ _ h => nomatch (show (none : Option (Fin 48 × InsWord)) = some _ from h)
  | .rekey _ => fun _ _ h => nomatch (show (none : Option (Fin 48 × InsWord)) = some _ from h)
  | .oldKeyExpire => fun _ _ h => nomatch (show (none : Option (Fin 48 × InsWord)) = some _ from h)
  | .quoteRequest _ => fun _ _ h => nomatch (show (none : Option (Fin 48 × InsWord)) = some _ from h)
  | .secQuoteCmd _ _ => fun _ _ h => nomatch (show (none : Option (Fin 48 × InsWord)) = some _ from h)
  | .quoteDone => fun _ _ h => nomatch (show (none : Option (Fin 48 × InsWord)) = some _ from h)
  | .reportAck _ => fun _ _ h => nomatch (show (none : Option (Fin 48 × InsWord)) = some _ from h)
  | .reportRepeat _ => fun _ _ h => nomatch (show (none : Option (Fin 48 × InsWord)) = some _ from h)
  | .securityCheck _ _ => fun _ _ h => nomatch (show (none : Option (Fin 48 × InsWord)) = some _ from h)
  | .smbStartWord _ _ => fun _ _ h => nomatch (show (none : Option (Fin 48 × InsWord)) = some _ from h)
  | .smbStatus _ => fun _ _ h => nomatch (show (none : Option (Fin 48 × InsWord)) = some _ from h)
  | .smbTemperature _ => fun _ _ h => nomatch (show (none : Option (Fin 48 × InsWord)) = some _ from h)
  | .smbPower _ => fun _ _ h => nomatch (show (none : Option (Fin 48 × InsWord)) = some _ from h)
  | .smbEvents _ => fun _ _ h => nomatch (show (none : Option (Fin 48 × InsWord)) = some _ from h)
  | .smbInventory _ => fun _ _ h => nomatch (show (none : Option (Fin 48 × InsWord)) = some _ from h)
  | .smbAlertResponse _ => fun _ _ h => nomatch (show (none : Option (Fin 48 × InsWord)) = some _ from h)
  | .bypass _ => fun _ _ h => nomatch (show (none : Option (Fin 48 × InsWord)) = some _ from h)
  | .idcode => fun _ _ h => nomatch (show (none : Option (Fin 48 × InsWord)) = some _ from h)
  | .samplePreload _ => fun _ _ h => nomatch (show (none : Option (Fin 48 × InsWord)) = some _ from h)
  | .extest _ => fun _ _ h => nomatch (show (none : Option (Fin 48 × InsWord)) = some _ from h)
  | .clamp => fun _ _ h => nomatch (show (none : Option (Fin 48 × InsWord)) = some _ from h)
  | .highz => fun _ _ h => nomatch (show (none : Option (Fin 48 × InsWord)) = some _ from h)
  | .endpointReset _ => fun _ _ h => nomatch (show (none : Option (Fin 48 × InsWord)) = some _ from h)
  | .configRequest _ _ _ => fun _ _ h => nomatch (show (none : Option (Fin 48 × InsWord)) = some _ from h)
  | .hbmWindowAccess _ _ _ _ => fun _ _ h => nomatch (show (none : Option (Fin 48 × InsWord)) = some _ from h)
  | .msixUnmask _ => fun _ _ h => nomatch (show (none : Option (Fin 48 × InsWord)) = some _ from h)
  | .completionTimeout _ _ _ => fun _ _ h => nomatch (show (none : Option (Fin 48 × InsWord)) = some _ from h)
  | .nvmeEnable _ _ _ => fun _ _ h => nomatch (show (none : Option (Fin 48 × InsWord)) = some _ from h)
  | .nvmeLinkDown => fun _ _ h => nomatch (show (none : Option (Fin 48 × InsWord)) = some _ from h)
  | .flashErase _ _ => fun _ _ h => nomatch (show (none : Option (Fin 48 × InsWord)) = some _ from h)
  | .flashProgram _ _ => fun _ _ h => nomatch (show (none : Option (Fin 48 × InsWord)) = some _ from h)
  | .flashRead _ _ => fun _ _ h => nomatch (show (none : Option (Fin 48 × InsWord)) = some _ from h)
  | .flashCommandDone _ _ => fun _ _ h => nomatch (show (none : Option (Fin 48 × InsWord)) = some _ from h)
  | .runStart => fun _ _ h => nomatch (show (none : Option (Fin 48 × InsWord)) = some _ from h)
  | .throttleStepEnd => fun _ _ h => nomatch (show (none : Option (Fin 48 × InsWord)) = some _ from h)
  | .capacityStateReadEnd _ => fun _ _ h => nomatch (show (none : Option (Fin 48 × InsWord)) = some _ from h)
  | .stagedResultComplete _ _ _ => fun _ _ h => nomatch (show (none : Option (Fin 48 × InsWord)) = some _ from h)
  | .mirrorSendEnd => fun _ _ h => nomatch (show (none : Option (Fin 48 × InsWord)) = some _ from h)
  | .resetAssert => fun _ _ h => nomatch (show (none : Option (Fin 48 × InsWord)) = some _ from h)
  | .perstDeassert => fun _ _ h => nomatch (show (none : Option (Fin 48 × InsWord)) = some _ from h)
  | .refclkStart => fun _ _ h => nomatch (show (none : Option (Fin 48 × InsWord)) = some _ from h)
  | .testLogicReset => fun _ _ h => nomatch (show (none : Option (Fin 48 × InsWord)) = some _ from h)
  | .managementRequest _ => fun _ _ h => nomatch (show (none : Option (Fin 48 × InsWord)) = some _ from h)

/-! ### Issue without an occasion -/

/-- Nothing happens where the core does not issue the word. -/
theorem exec_not_issued {i : Instr} {s : State} {c : Fin 48} {w : InsWord} (hw : i.word = some (c, w))
    (h : s.dev.mayIssue (s.issueClock c) c w = false) : exec i s = .next s := by
  have h' : s.dev.mayIssue (s.issueTime c s.clk) c w = false := h
  rcases exec_issues i s c w hw with ⟨e, _, hx⟩ | ⟨_, f, hx⟩
  · rw [hx]; unfold State.issueEng
    exact State.act_none (by simp [h'])
  · rw [hx]; unfold State.issueSeq
    exact State.act_none (by simp [h'])

end Sys2Proof.Machine
end

