-- ==== Sys2Proof/Tests/Slice0.lean ====
section
/-! SUPPORT. Tests: words of the manual, ill-formed commands that the checks refuse, worked examples, and for every
statement a state that meets its hypotheses. -/

namespace Sys2Proof.Tests

open Sys2Proof Sys2Proof.Machine

/-! ### States -/

/-- A device in READY, 100 control cycles after reset, with no job. -/
def ready : Dev := { Dev.blank .m20f6 with
  start := { Start.held with state := .ready, resetHeld := false, powerGood := true, refclk := true, kind := 1 } }

/-- A device at that time. -/
def at_ (d : Dev) : State := ⟨[], ⟨1000, 143, 0, 0⟩, d⟩

/-- A placed form whose only template is `ws`, for core 0. -/
def form (ws : List InsWord) : Placed where
  part := 0
  order := 0
  members := 1
  period := 1000000
  guardReq := 0
  slots := 1
  templates := [[ws]]
  init := []
  decls := []
  sep := none
  xch := none
  herd := none
  pail := none
  tier := none
  twin := none
  snap := none
  mode := 0
  stats := []

/-- An admitted object of that form. -/
def object (p : Placed) : Image where
  level := 4
  fwPlaced := false
  objDigest := []
  formDigest := []
  objects := []
  windows := []
  colls := ⟨0, 0, 0, []⟩
  form := p
  pailShares := []
  landShares := []

/-- A job of the object runs its first frame. -/
def job (m : Image) : Dev := { ready with
  job := { Job.idle with phase := .running, keyed := true }
  image := some m
  frame := { Frame.none_ with phase := .run, opened := true, closed := false } }

/-- The job runs the template `ws` on core 0, which stands as `x`. -/
def core (ws : List InsWord) (x : Core) : State := at_ { job (object (form ws)) with
  cores := ready.cores.set 0 x }

/-- A packet from node 5 with this channel, operation and payload. -/
def packet (chan : BitVec 2) (op : BitVec 8) (payload : List Byte) : Packet where
  dst := 0
  src := 5
  mid := 0xFFFF
  tag := 0
  epoch := 0
  phase2 := true
  chan := chan
  flowlet := 0
  order := 0
  seq := 0
  op := op
  len := 0
  hops := 1
  opword := 0
  rsvd := 0
  crc := 0
  payload := padTo 0 64 payload

/-! ### Words of the manual -/

/-- Table ENC-18, index n. -/
theorem test_word_sepSelect : encSepSelect 0 40 39 17 4095 7 2 false 9 = 0x0140A27044FFF7448000000000000000#128 := by decide

/-- Table ENC-18, index n + 1. -/
theorem test_word_churnSort : encChurnSort 0 41 40 4095 false 17 = 0x0150A683FFC088000000000000000000#128 := by decide

/-- Table ENC-18, index n + 2. -/
theorem test_word_xchDispatch : encXchDispatch 0 41 34 10 = 0x01600290022500000000000000000000#128 := by decide

/-- Table ENC-18, index n + 3. -/
theorem test_word_mmRun :
    encMmRun 0 12 ⟨3, 4, true⟩ ⟨4, 11⟩ 1 true 0 0 0 = 0x021000C0001920080163000000000000#128 := by decide

/-- Table ENC-18, index n + 4. -/
theorem test_word_xchCombine : encXchCombine 0 42 34 10 = 0x0460A800022500000000000000000000#128 := by decide

/-- A word of every other class, its fields placed by Tables ENC-7 to ENC-13. -/
theorem test_words_of_classes :
    encTdcopy 0 40 12 = 0x11B0A0C0000000000000000000000000#128 ∧
    encTickNow 0 3 = 0x04C01800000000000000000000000000#128 ∧
    encPalloc 2 1 2 = 0x01920880000000000000000000000000#128 ∧
    encMoveFill 0 1 ⟨0, 0, false⟩ ⟨0, 0⟩ 5 = 0x02000400000000000001400000000000#128 := by decide

/-- Every word that a command stands for has the class and opcode of its mnemonic. -/
theorem test_word_codes : ∀ i ∈ [Instr.tdcopy 0 0 40 12, .tickNow 0 0 3, .palloc 0 2 1 2],
    (i.word.map fun x => (wCls x.2, wOp x.2)) = i.code := by decide

/-! ### Ill-formed commands -/

/-- A packet of one 64-byte block that announces two. -/
def longPacket : Packet := { packet 0 0 [] with len := 1 }

/-- An ill-formed command for each check of `Instr.wf`. -/
theorem test_wf_refuses : ∀ i ∈ [Instr.aliasSet .host 0 0 2 0, .guardValueWrite .host false 0x20 2 0,
    .linkBlockReceive 0 [] 0, .tempSample [] 0, .hbmWindowAccess true 0 4 [], .packetArrive 0 longPacket,
    .tdset 0 0 1 12 0 false], i.wf = false := by decide

/-! ### Worked examples -/

/-- The aligned block of Table FMT-5. -/
theorem test_align_block : (alignBlock .f8e4 fmtF8e4 ([0x5C, 0x3A, 0x2C, 0x29, 0xA3, 0x1C] ++ List.replicate 10 0)).take 6 =
    [⟨96, -2⟩, ⟨5, -2⟩, ⟨2, -2⟩, ⟨1, -2⟩, ⟨-1, -2⟩, ⟨0, -2⟩] := by decide

/-- The writes at cc 0, 40 and 60 of the worked example of chapter 19: BLK_GUARD of TICK. -/
theorem test_guard_example :
    let w := fun (d : Dev) (cc : Nat) (m : Master) (off v : Nat) => d.masterWrite ⟨10 * cc, 0, 0, 0⟩ ⟨m, 0x10, off, v, true⟩
    let d := w (w (w ready 100 .host 0x20 1) 140 .mgmt 0x1C 7) 160 .host 0x2020 0xFFFFFFFE
    d.readReg ⟨1700, 0, 0, 0⟩ .host 0x101F08 = 0x02002097 := by decide

/-! ### Hypotheses that are met: issue -/

/-- An instruction word with its predicate on stands next, and another follows. -/
theorem issues (w : InsWord) (x : Core)
    (h : (core [w, encNop 0] x).dev.mayIssue ((core [w, encNop 0] x).issueClock 0) 0 w = true) :
    (core [w, encNop 0] x).MayIssue 0 w := ⟨by rfl, h⟩

theorem witness_ScalarArithmeticResults :
    let w := encArith 1 0 1 2 3 false 0
    let s := core [w, encNop 0] Core.empty
    (Instr.sadd 0 0 1 2 3 false 0).word = some (0, w) ∧ s.MayIssue 0 w ∧ (s.issuer 0).selected (wPsel w) = true ∧
      s.GoesOn 0 ((s.issuer 0).setS 1 0).advance :=
  ⟨by decide, issues _ _ (by decide), by decide, .inr (.inr (by decide))⟩

theorem witness_ScalarAndPredicateMoves :
    let w := encNop 0
    let s := core [w, w] Core.empty
    (Instr.nop 0 0).word = some (0, w) ∧ s.MayIssue 0 w ∧ (s.issuer 0).selected (wPsel w) = true ∧
      s.GoesOn 0 (s.issuer 0).advance :=
  ⟨by decide, issues _ _ (by decide), by decide, .inr (.inr (by decide))⟩

theorem witness_DescriptorWrites_tdcopy :
    let w := encTdcopy 0 1 2
    let s := core [w, encNop 0] Core.empty
    (Instr.tdcopy 0 0 1 2).word = some (0, w) ∧ s.MayIssue 0 w ∧ (s.issuer 0).selected (wPsel w) = true ∧
      s.GoesOn 0 ((s.issuer 0).setT 1 0).advance :=
  ⟨by decide, issues _ _ (by decide), by decide, .inr (.inr (by decide))⟩

/-- TD_ROWS gets its largest value, 4,096. -/
theorem witness_DescriptorWrites_tdset :
    let w := encTdset 0 1 1 2 false
    let s := core [w, encNop 0] (Core.empty.setS 2 4096)
    let r : TdField := ⟨27, 16, 1, 1, 4096⟩
    (Instr.tdset 0 0 1 1 2 false).word = some (0, w) ∧ s.MayIssue 0 w ∧ (s.issuer 0).selected (wPsel w) = true ∧
      tdField 1 = some r ∧ (4096 : Int) = (((s.issuer 0).s 2).toNat : Int) ∧ r.least ≤ 4096 ∧ 4096 ≤ r.most ∧
      s.GoesOn 0 ((s.issuer 0).setT 1 (tdPut ((s.issuer 0).t 1) r.hi r.lo (4096 - r.bias))).advance :=
  ⟨by decide, issues _ _ (by decide), by decide, by decide, by decide, by decide, by decide, .inr (.inr (by decide))⟩

theorem witness_LoopOpensAndRepeats :
    let w := encLoop 0 1 0 true 3
    let s := core [w, encNop 0] Core.empty
    (Instr.loop 0 0 1 0 true 3).word = some (0, w) ∧ s.MayIssue 0 w ∧ (s.issuer 0).selected (wPsel w) = true ∧
      s.GoesOn 0 { (s.issuer 0).setS 3 0 with pc := 1, loops := [⟨1, 1, 1, 0, some 3⟩] } :=
  ⟨by decide, issues _ _ (by decide), by decide, .inr (.inr (by decide))⟩

/-- TICK.WAIT whose target from SA is the last count before the guard start. -/
theorem witness_TickInstructions :
    let w := encTickWait 0 true 2 0
    let s := core [w, encNop 0] (Core.empty.setS 2 979999)
    ((s.issuer 0).s 2).toNat < s.dev.period - s.dev.guardBand ∧ (Instr.tickWait 0 0 true 2 0).word = some (0, w) ∧
      s.MayIssue 0 w ∧ (s.issuer 0).selected (wPsel w) = true ∧
      s.GoesOn 0 { s.issuer 0 with hold := .tickWait 979999 }.advance :=
  ⟨by decide, by decide, issues _ _ (by decide), by decide, .inr (.inl (by decide))⟩

theorem witness_BarrierAndFencesHold :
    let w := encSyncBar 0 1 7
    let s := core [w, encNop 0] Core.empty
    (Instr.syncBar 0 0 1 7).word = some (0, w) ∧ s.MayIssue 0 w ∧ (s.issuer 0).selected (wPsel w) = true ∧
      s.GoesOn 0 { s.issuer 0 with hold := .barrier 7 1 1000 }.advance ∧
      (core [w] { Core.empty with hold := .barrier 7 1 0 }).dev.cores[0].hold ≠ .none :=
  ⟨by decide, issues _ _ (by decide), by decide, .inr (.inl (by decide)), by decide⟩

/-- Every core has ended but core 0, which holds as `h`. -/
def held (h : Hold) : State := at_ { job (object (form [encNop 0])) with
  cores := (Vector.replicate 48 { Core.empty with ended := true }).set 0 { Core.empty with hold := h } }

/-- Resumed, every core of `held h` goes on. -/
theorem held_goes_on (h : Hold) : ∀ i : Fin 48, (held h).GoesOn i { (held h).dev.cores[i] with hold := .none } := by
  intro i
  by_cases hi : i = 0
  · subst hi; exact .inr (.inr (by show 0 < 1; decide))
  · refine .inl ?_
    have h0 : (0 : Nat) ≠ i.val := fun e => hi (Fin.ext e.symm)
    simp [held, at_, job, h0]

theorem witness_HeldCoresResume :
    (held (.barrier 7 1 990)).dev.clocked = true ∧ (held (.barrier 7 1 990)).dev.runs = true ∧
      (held (.barrier 7 1 990)).dev.cores[0].hold = .barrier 7 1 990 ∧ maskCores 1 = [0] ∧
      (held (.tickWait 200)).dev.cores[0].hold = .tickWait 200 ∧
      (held (.fenceEng 8191 0)).dev.cores[0].fenceBlocked 8191 0 = false ∧
      (held (.fenceGmem none 0)).dev.fenceMet 0 none 0 = true := by decide

/-- A PALLOC that will write S1, issued and unretired. -/
def allocating : Core := (Core.empty.push (encPalloc 0 1 2) .pail true 0 [])

theorem witness_BarrierAndFencesHold_scalars :
    ∃ e ∈ (core [encTickNow 0 1] allocating).dev.cores[0].entries, e.on = true ∧ 1 ∈ scalWrites e.word ∧
      1 ∈ scalWrites (encTickNow 0 1) ∧ (Instr.tickNow 0 0 1).word = some (0, encTickNow 0 1) :=
  ⟨_, .head _, by decide, by decide, by decide, by decide⟩

/-- The predicate P1 is 0: a scalar instruction and an engine instruction. -/
theorem witness_PredicatedOffInstructions : ∀ i ∈ [Instr.nop 0 1, .palloc 0 1 1 2], ∃ w, i.word = some (0, w) ∧
    let s := core [w, encNop 0] Core.empty
    s.MayIssue 0 w ∧ (s.issuer 0).selected (wPsel w) = false ∧ s.GoesOn 0 (s.issuer 0).advance := by
  intro i hi
  simp only [List.mem_cons, List.not_mem_nil, or_false] at hi
  rcases hi with rfl | rfl
  · exact ⟨_, rfl, issues _ _ (by decide), by decide, .inr (.inr (by decide))⟩
  · exact ⟨_, rfl, issues _ _ (by decide), by decide, .inr (.inr (by decide))⟩

/-- A PALLOC of 256 bytes. -/
theorem witness_EngineInstructionsEnterQueue :
    let w := encPalloc 0 1 2
    let s := core [w, encNop 0] (Core.empty.setS 2 256)
    (Instr.palloc 0 0 1 2).word = some (0, w) ∧ wordEng s.dev.order.fabricDies w = some .pail ∧ s.MayIssue 0 w ∧
      (s.issuer 0).selected (wPsel w) = true ∧ s.dev.issueCause 0 (s.issuer 0) w = none ∧ s.GoesOn 0 (s.issuer 0).advance :=
  ⟨by decide, by decide, issues _ _ (by decide), by decide, by decide, .inr (.inr (by decide))⟩

/-- Each kind of fault at issue: a PALLOC of no bytes, a TDSET out of range, a TICK.WAIT at the guard start, and a NOP at
the end of its template. -/
theorem witness_IssueFaults :
    let w1 := encPalloc 0 1 2
    let s1 := core [w1, encNop 0] Core.empty
    let w2 := encTdset 0 1 1 2 false
    let s2 := core [w2, encNop 0] Core.empty
    let w3 := encTickWait 0 true 2 0
    let s3 := core [w3, encNop 0] (Core.empty.setS 2 980000)
    (s1.MayIssue 0 w1 ∧ (s1.issuer 0).selected (wPsel w1) = true ∧ s1.dev.rd .coreSeqFaultCode 0 = 0 ∧
      s1.dev.runs = true ∧
      s1.dev.issueCause 0 (s1.issuer 0) w1 = some 1) ∧
    (s2.MayIssue 0 w2 ∧ tdsetValue ((s2.issuer 0).t 1) 1 false ((s2.issuer 0).s 2) = none) ∧
    (s3.MayIssue 0 w3 ∧ s3.dev.period - s3.dev.guardBand ≤ ((s3.issuer 0).s 2).toNat) ∧
    (core [encNop 0] Core.empty).dev.mayIssue ⟨1000, 143, 0, 0⟩ 0 (encNop 0) = true ∧
      ¬ (core [encNop 0] Core.empty).GoesOn 0 ((core [encNop 0] Core.empty).issuer 0).advance :=
  ⟨⟨issues _ _ (by decide), by decide, by decide, by decide, by decide⟩, ⟨issues _ _ (by decide), by decide⟩,
    ⟨issues _ _ (by decide), by decide⟩, by decide,
    fun h => by rcases h with h | h | h <;> revert h <;> decide⟩

/-! ### Hypotheses that are met: queues and engines -/

/-- The word of an MM.LOAD of one tile through TD2. -/
def loadWord : InsWord := encMmLoad 0 2 ⟨0, 0, false⟩ ⟨0, 0⟩

/-- A core that has issued a TDPAIL of TD2 and then an MM.LOAD through it. -/
def dependent : Core := (Core.empty.push (encTdpail 0 2 1) .pail true 0 []).push loadWord .array true 0 []

theorem witness_QueueHeadWaitsForDependencies :
    (∃ e i, (core [] dependent).dev.cores[0].head .array = some e ∧ e.on = true ∧ i ∈ dependent.entries ∧ i.on = true ∧
      i.seq < e.seq ∧ 2 ∈ i.writes ∧ 2 ∈ e.reads) ∧
    ready.job.phase ≠ .running ∧ ready.job.phase ≠ .draining ∧ (core [] Core.empty).dev.cores[0].queued .array = [] :=
  ⟨⟨_, _, rfl, by decide, .head _, by decide, by decide, by decide, by decide⟩, by decide, by decide, by decide⟩

/-- A core with an MM.LOAD at the head of its array's queue. -/
def loading (on : Bool) : Core := Core.empty.push loadWord .array on 0 []

theorem witness_QueueHeadStarts :
    let s := core [] (loading true)
    s.dev.clocked = true ∧ s.dev.working = true ∧ s.dev.lockstep = false ∧
    (∃ e d due done, s.dev.cores[0].head .array = some e ∧ e.on = true ∧ s.dev.cores[0].depsMet e = true ∧
      s.dev.startAt s.clk 0 .array e = .go d due done ∧ d.lockstep = false) ∧
    ∃ e, (core [] (loading false)).dev.cores[0].head .array = some e ∧ e.on = false :=
  ⟨by decide, by decide, by decide, ⟨_, _, _, _, rfl, by decide, by decide, rfl, rfl⟩, ⟨_, rfl, by decide⟩⟩

/-- A core with a PALLOC that may retire. -/
def allocated : Core := { allocating with
  entries := allocating.entries.map fun e => { e with stage := .running, done := true, due := 1005 } }

theorem witness_InstructionsRetire :
    let s := core [] allocated
    s.dev.clocked = true ∧ s.dev.working = true ∧ s.dev.lockstep = false ∧
    (∃ e, s.dev.cores[0].retiring .pail = some e ∧ e.on = true ∧ wordEng s.dev.order.fabricDies e.word = some .pail) ∧
    s.dev.cores[0].retiring .array = none :=
  ⟨by decide, by decide, by decide, ⟨_, rfl, by decide, by decide⟩, by decide⟩

/-- A core whose array fills its shadow. -/
def filling : Core := { loading true with
  shadow := some (⟨0, 7, 1, 1, []⟩, false)
  entries := (loading true).entries.map fun e => { e with stage := .running, due := 2000 } }

theorem witness_FillsOfTheArray :
    (∃ e d due done, (core [] (loading true)).dev.startLoad ⟨1000, 143, 0, 0⟩ 0 e = .go d due done) ∧
    (∃ e b, (core [] filling).dev.cores[0].filling = some e ∧
      (core [] filling).dev.cores[0].shadow = some (b, false)) :=
  ⟨⟨(loading true).entries.headD (filling.entries.headD ⟨0, 0, .array, 0, true, .queued, [], [], 0, 0, false⟩),
    _, _, _, rfl⟩, ⟨_, _, rfl, rfl⟩⟩

theorem witness_AccumulatorRowsAddProducts :
    (⟨0, 0, .zero, 0⟩ : SkimCtx).mode = 0 ∧ AccSet.empty.f32 = false ∧ (List.replicate 768 ([] : List QE)).length ≤ 768 :=
  ⟨rfl, rfl, (List.length_replicate).le⟩

/-- One tile of I8 at the end of the usable tile store, and one beyond it. -/
theorem witness_ValidExtent :
    let t : TileDesc := tdPut 0 12 8 7
    let u : TileDesc := tdPut t 107 64 (48 * 2 ^ 20)
    inValid t 0 0 4095 = false ∧ Td.rows t ≤ 1 ∧ 0 < Td.rows u ∧ 0 < Td.cols u ∧
      (core [] Core.empty).dev.spaceAt 0 u (Td.base u) (tileOff u 0 0) (denseBytes u) = none := by decide

/-- A job whose core 0 owns two Pails of class 0, with one request of core 0. -/
def pails (st : Sparse PailState) (r : PailReq) : State :=
  let m := object { form [] with pail := some ⟨0, 0, 256, 0, []⟩ }
  at_ { job { m with pailShares := [2] } with
    cores := ready.cores.set 0 allocating
    pail := { Pail.empty with states := st, reqs := [(0, r)] } }

theorem witness_PailRequests :
    (∃ m h, (pails [] (.alloc 0 1 256)).dev.image = some m ∧
      (pails [] (.alloc 0 1 256)).dev.lowestFree 0 (m.pailHome 0 0) (m.shareFirst 0 0) (m.share 0 0) = some h) ∧
    (∀ x ∈ [([], PailReq.alloc 0 1 256), ([(5, .held 0)], .release 0 5), ([(5, .shared 0)], .release 0 5),
        ([(5, .held 0)], .share 0 5 1), ([(5, .shared 0)], .share 0 5 1)],
      let d := (pails x.1 x.2).dev
      d.clocked = true ∧ d.job.phase = .running ∧ d.nextRequest 0 = some x.2) ∧
    (pails [(5, .held 0)] (.release 0 5)).dev.pailState 5 = .held 0 ∧
    (pails [(5, .shared 0)] (.release 0 5)).dev.pailState 5 = .shared 0 :=
  ⟨⟨_, _, rfl, rfl⟩, by decide, by decide, by decide⟩

/-! ### Hypotheses that are met: the routing engines -/

theorem witness_SeparatorRankingAndCapacity :
    let t : SepTok := ⟨0, 0, [(0, 5), (2, 7)], false, 0⟩
    (∀ v ∈ [Val.zero, .inf true], v ≠ .nan) ∧ (t.picks.map (·.1)).Nodup ∧ ∀ p ∈ t.picks, p.1 < [1, 2, 3].length := by
  decide

/-- A die whose four copies of the words `a`, `b`, `b`, `b` are released. -/
def copies (g : Eng) (a b : InsWord) : State :=
  let x := fun (w : InsWord) => let y := Core.empty.push w g true 0 []; { y with entries := y.entries.map fun e => { e with done := true } }
  at_ { job (object (form [])) with cores := (((ready.cores.set 0 (x a)).set 1 (x b)).set 2 (x b)).set 3 (x b) }

theorem witness_DieCollectives :
    let a := encSepHash 0 1 2 0 3 0 0
    let b := encSepHash 0 1 2 1 3 0 0
    let c := encChurnSort 0 1 2 0 false 0
    let differ := fun (s : State) (g : Eng) => (s.dev.copies 0 g).map fun cs => (copyDiffers cs).map (·.1)
    (copies .sep a a).dev.runs = true ∧ (copies .sep a a).dev.clocked = true ∧
    (copies .sep a a).dev.lsHolds 0x600 = false ∧ (copies .churn c c).dev.lsHolds 0x700 = false ∧
    (core [] Core.empty).dev.copies 0 .sep = none ∧ differ (copies .sep a a) .sep = some none ∧
    differ (copies .churn c c) .churn = some none ∧ (copies .churn c c).dev.churnIdle 0 = true ∧
    differ (copies .sep a b) .sep = some (some 1) ∧ (copies .sep a b).dev.rd .coreSeqFaultCode (coreOf 0 1) = 0 := by
  decide

/-- A die whose Separator stands as `z`. -/
def separator (x : Fin 12) (z : SepDie) : State := at_ { job (object (form [])) with sep := ready.sep.set x z }

theorem witness_CapacityChain :
    let r : SepRun := ⟨0, false, 0, 8, 0, [], [], [], 0, 0⟩
    let z : SepDie := { SepDie.empty with runs := [r], coming := [⟨0, [], 300⟩], writeBacks := [⟨0, 0, 1, 80, 1⟩] }
    (separator 0 z).dev.clocked = true ∧ (separator 0 z).dev.sep[0].runs = [r] ∧ (separator 0 z).dev.sep[0].arrived = [] ∧
      (∃ t, (separator 0 z).dev.readEnd 0 = some (r, t)) ∧ (separator 0 z).dev.sep[0].coming = [⟨0, [], 300⟩] ∧
      chainPos 0 = 0 ∧ (∃ x, chainPos x = 11) ∧ (separator 0 z).dev.sep[0].writeBacks = [⟨0, 0, 1, 80, 1⟩] :=
  ⟨by decide, by decide, by decide, ⟨_, rfl⟩, by decide, by decide, ⟨11, by decide⟩, by decide⟩

theorem witness_CapacityChain_record :
    let p : SepPart := ⟨0, [⟨0, 8, true, []⟩]⟩
    let m := object { form [] with sep := some p }
    (∃ x, m.sepLayer 0 = some x) ∧ m.form.sep = some p ∧ (job m).lockstep = false ∧ (job m).image = some m :=
  ⟨⟨_, rfl⟩, rfl, by decide, rfl⟩

/-! ### Hypotheses that are met: control space and the job -/

/-- A write of the management channel reaches its page, in a device whose page is open and without another write in the
control cycle. -/
theorem reaches (d : Dev) (page off : Nat) (p : Page) (hc : d.clocked = true) (ho : d.openPage page .mgmt = some p)
    (hw : d.ctl.ccWrites = []) : (at_ d).WriteReaches .mgmt false page off p :=
  ⟨hc, ho, by unfold Dev.writesNow; split <;> simp [at_, hw], fun v => rfl⟩

/-- The device with an open guard sequence of the management channel. -/
def open_ (d : Dev) (page off v : Nat) : State :=
  at_ { d with ctl := { d.ctl with guards := [⟨page, .mgmt, off, v, 100⟩] } }

/-- A completing write finds its guard sequence. -/
theorem pairs (d : Dev) (page off v : Nat) (p : Page) (hc : d.clocked = true) (ho : d.openPage page .mgmt = some p)
    (hw : d.ctl.ccWrites = []) (hg : p.guarded off = true) (hv : v < 2 ^ 32) :
    (open_ d page off v).PairReady .mgmt false page off v p :=
  ⟨reaches _ page (off + 0x2000) p hc ho hw, hg, hv,
    ⟨100, by simp [open_, at_, Dev.openGuard], by
      show (⟨1000, 143, 0, 0⟩ : Clock).nextCc.cc ≤ 356; decide +kernel⟩⟩

/-- A device that may load an object: its keys are set. -/
def keyed : Dev := ((((ready.wr .jobKeyTag 7).wr .jobMemberCount 1).wr .jobBaseNode 5).wr .secNode 5).wr .jobLoadLen 1

/-- A job in a phase. -/
def phase (p : JobPhase) : Dev := { job (object (form [])) with job := { Job.idle with phase := p, keyed := true } }

/-- Each command of JOB_CMD in a state that accepts it. -/
theorem witness_JobCommandsAccepted :
    (∀ x ∈ [(keyed, 1), (phase .admitted, 2), (phase .running, 3), (phase .torn, 4)], (open_ x.1 0x20 0x104 x.2).dev.jobCause x.2 = 0) ∧
    (phase .running).stopValue < (phase .running).job.stop ∧
    ∀ x ∈ [(keyed, 1), (phase .admitted, 2), (phase .running, 3), (phase .torn, 4)],
      (open_ x.1 0x20 0x104 x.2).PairReady .mgmt false 0x20 0x104 x.2 ⟨.job, 0, 2⟩ := by
  refine ⟨by decide, by decide, fun x hx => ?_⟩
  simp only [List.mem_cons, List.not_mem_nil, or_false] at hx
  rcases hx with rfl | rfl | rfl | rfl <;> exact pairs _ _ _ _ _ (by decide) (by decide) (by decide) (by decide) (by decide)

theorem witness_JobCommandsRejected :
    (open_ ready 0x20 0x104 4).PairReady .mgmt false 0x20 0x104 4 ⟨.job, 0, 2⟩ ∧ ready.jobCause 4 ≠ 0 ∧
    ({ ready with job := { Job.idle with abort := true } } : Dev).job.abort = true ∧
    ({ ready with tier := { Tier.empty with lend := .lending } } : Dev).tier.lend ≠ .off ∧ ready.job.phase = .idle :=
  ⟨pairs _ _ _ _ _ (by decide) (by decide) (by decide) (by decide) (by decide), by decide, by decide, by decide, by decide⟩

theorem witness_StopFrameWrites : (at_ (phase .running)).WriteReaches .mgmt false 0x20 0x120 ⟨.job, 0, 2⟩ ∧
    (phase .running).openGuard 0x20 = none :=
  ⟨reaches _ _ _ _ (by decide) (by decide) rfl, by decide⟩

theorem witness_JobEnds :
    let d := phase .draining
    let e := { d with frame := { d.frame with phase := .idle, closed := true, boundary := 100 } }
    ((phase .loading).clocked = true ∧ (phase .loading).snap.restoring = false) ∧
    ({ phase .loading with snap := { Snap.empty with restoring := true } } : Dev).snap.restoring = true ∧
    (e.job.tearFrom = none ∧ e.job.abort = false ∧ e.drainedButMirror = true ∧ e.snap.mirrors = [] ∧
      (at_ e).clk.count < e.nextBoundary) ∧
    ({ d with job := { d.job with tearFrom := some 100 } } : Dev).job.tearFrom = some 100 ∧
    (let z : Job := { (phase .torn).job with zeroing := true, releasedAt := some 100 }
     z.zeroing = true ∧ z.releasedAt = some 100) := by decide

/-- The root, locked, with a job in a phase and a launch count. -/
def armable (p : JobPhase) (launch : Nat) : Dev := ((phase p).wr .tickSyncRoot 1).wr .tickLaunchLo launch

/-- A launch count exactly 100,000 counts after the write, one closer, and none; and a counter that has been LOST. -/
theorem witness_ArmAndLaunch :
    let far := armable .admitted 100144
    let near := armable .admitted 100143
    let k := (open_ far 0x10 0x20 1).writeClock .mgmt false 0x10
    ((open_ far 0x10 0x20 1).PairReady .mgmt false 0x10 0x20 1 ⟨.tick, 0, 1⟩ ∧ far.lockedForArm = true ∧
      k.count + 100000 ≤ far.launchCount ∧ far.lsJob = false ∧ far.image ≠ none) ∧
    ((open_ near 0x10 0x20 1).PairReady .mgmt false 0x10 0x20 1 ⟨.tick, 0, 1⟩ ∧ near.launchCount < k.count + 100000) ∧
    (open_ (armable .running 200) 0x10 0x20 1).PairReady .mgmt false 0x10 0x20 1 ⟨.tick, 0, 1⟩ ∧
    (let a := armable .armed 200
     let lost := { a with sync := { a.sync with lostArmed := true } }
     a.clocked = true ∧ a.launchCount ≠ 0 ∧ a.job.phase = .armed ∧ a.syncState ≠ .lost ∧ a.sync.lostArmed = false ∧
      a.herdPart = none ∧ a.tierPart = none ∧ a.lsJob = false ∧ a.snap.resume = none ∧ lost.job.phase = .armed ∧
      lost.sync.lostArmed = true) ∧
    ((armable .admitted 200).job.phase = .admitted ∧
      (armable .admitted 200).ctl.launchFrom ≤ (armable .admitted 200).launchCount ∧ ready.launchCount = 0) := by
  refine ⟨⟨pairs _ _ _ _ _ (by decide) (by decide) (by decide) (by decide) (by decide), by decide, by decide, by decide, by decide⟩,
    ⟨pairs _ _ _ _ _ (by decide) (by decide) (by decide) (by decide) (by decide), by decide⟩,
    pairs _ _ _ _ _ (by decide) (by decide) (by decide) (by decide) (by decide), by decide, by decide, by decide⟩

/-- A disarm one count before the launch count and one at it. -/
theorem witness_DisarmReturnsToAdmitted :
    let k := (open_ (armable .armed 200) 0x10 0x20 2).writeClock .mgmt false 0x10
    (∀ n, (open_ (armable .armed n) 0x10 0x20 2).PairReady .mgmt false 0x10 0x20 2 ⟨.tick, 0, 1⟩) ∧
    (armable .armed (k.count + 1)).job.phase = .armed ∧ k.count < (armable .armed (k.count + 1)).launchCount ∧
    (armable .armed k.count).launchCount ≤ k.count := by
  refine ⟨fun n => pairs _ _ _ _ _ (by rfl) (by rfl) (by rfl) (by decide) (by decide), by decide, by decide, by decide⟩

/-- A running job whose frame stands as `f`. -/
def frame (f : Frame) : Dev := { phase .running with frame := f }

/-- Every phase, a counter that was lost, and throttle steps at the last of the budget of 19,000 counts and beyond. -/
theorem witness_FramePhases :
    let f := (phase .running).frame
    let g : Frame := { f with phase := .run, gatedCounts := 18900 }
    (frame { f with closed := true }).runs = true ∧ (frame { f with closed := true }).frame.opened = true ∧
    (frame { f with closed := true }).sync.lostRun = false ∧ (frame { f with closed := true }).image.isSome = true ∧
    (frame { f with closed := true }).frame.closed = true ∧ (frame f).frame.closed = false ∧
    ({ frame f with sync := { Sync.unset with lostRun := true } } : Dev).sync.lostRun = true ∧
    (frame { f with phase := .opening }).frame.phase = .opening ∧
    ((frame f).frame.guardSeen = false ∧ (frame f).frame.phase ≠ .opening) ∧
    ((frame g).issuing (at_ (frame g)).clk = true ∧ (frame g).frame.budgetSpent = false ∧
      (frame g).frame.gatedCounts + 100 = (frame g).guardBand - 1000) ∧
    (let h := { g with gatedCounts := 18901 }
     (frame h).issuing (at_ (frame h)).clk = true ∧ (frame h).frame.budgetSpent = false ∧
      (frame h).guardBand - 1000 < (frame h).frame.gatedCounts + 100) ∧
    (frame { f with gate := some 200 }).frame.gate = some 200 := by decide

/-- Every core of the running job has ended its frame. -/
def ended : Dev := { phase .running with cores := Vector.replicate 48 { Core.empty with ended := true } }

theorem ended_done : ended.doneAt = 0 := by decide +kernel

/-- Every core has ended, or none has. -/
theorem witness_FrameCloses :
    (at_ ended).dev.clocked = true ∧ ended.lockstep = false ∧ ended.runs = true ∧ ended.frame.opened = true ∧
      ended.frame.closed = false ∧ ended.frame.phase ≠ .opening ∧ ended.frameDone = true ∧
      ended.closeCount (at_ ended).clk < ended.nextBoundary ∧ (phase .running).frameDone = false :=
  ⟨by decide, by decide, by decide, by decide, by decide, by decide, by decide,
    by unfold Dev.closeCount; rw [ended_done]; decide, by decide⟩

/-! ### Hypotheses that are met: herd, tiers and global memory -/

/-- A herd part with its table at offset 0. -/
def herdPart : HerdPart := ⟨1, 1, 1, 1, 500, 0, 0, 0, 16, 16, 0, 0, 0, 0, 1⟩

/-- A frame opens with the intake record `r` in front; `bytes` are the bytes of the herd table that are not zero. -/
def herd (bytes : Memory) (r : List Byte) : Dev := { job (object { form [] with herd := some herdPart }) with
  herd := { Herd.empty with opening := some ⟨[r], 0, 0, [], 0⟩ }
  mem := { Mem.empty with hbm := bytes } }

/-- An intake record: its code, its flags, prompt length 1, sequence id 0, KV object 0 and one token at most. -/
def intake (code flags : Byte) : List Byte := [code, flags, 0, 0, 1] ++ List.replicate 23 0 ++ [1] ++ List.replicate 35 0

/-- The table whose slot 0 is HELD. -/
def heldSlot : Memory := [(8, 3)]

theorem used_none (r : List Byte) : (herd [] r).usedSlots herdPart = [] := by simp [Dev.usedSlots, Dev.tableSlots, herd, job]

/-- The slot of that table. -/
def slot0 : HerdSlot := { HerdSlot.empty with state := 3 }

theorem used_held (r : List Byte) : (herd heldSlot r).usedSlots herdPart = [(0, slot0)] := by
  show List.filter _ (List.map (fun i => (i, (herd heldSlot r).slot herdPart i)) (List.mergeSort [0])) = _
  rw [List.mergeSort_singleton, List.map_singleton, show (herd heldSlot r).slot herdPart 0 = slot0 from ?_]
  · rfl
  · show (herd heldSlot []).slot herdPart 0 = slot0
    decide +kernel

theorem witness_HerdIntakeRecords :
    (∀ m r, (herd m r).clocked = true ∧ (herd m r).herdPart = some herdPart ∧
      ((herd m r).herd.opening.map fun o => o.todo) = some [r] ∧ (herd m r).hbmRange herdPart.table (2 ^ 21) = true ∧
      (herd m r).tierPart = none ∧ (herd m r).herd.drains = false) ∧
    ((herd [] (intake 1 0)).addReason herdPart (intake 1 0) = none ∧ (herd [] (intake 1 0)).freeSlot herdPart = some 0) ∧
    (herd heldSlot (intake 1 0)).addReason herdPart (intake 1 0) = some 2 ∧
    (∀ r, (herd heldSlot r).slotOfId herdPart 0 = some (0, slot0) ∧ (herd [] r).slotOfId herdPart 0 = none) ∧
    (∀ f ∈ ([1, 2, 4] : List Byte), (herd heldSlot (intake 3 f)).changeReason herdPart (intake 3 f) = none) ∧
    (herd heldSlot (intake 3 6)).changeReason herdPart (intake 3 6) = some 6 ∧
    (∀ c ∈ ([1, 2, 3, 4] : List Byte), field (intake c 1) 0 1 = c.toNat ∧ field (intake c 1) 8 8 = 0) := by
  have hf : ∀ r, (herd [] r).freeSlot herdPart = some 0 := fun r => by simp [Dev.freeSlot, used_none]; rfl
  have hs : ∀ r, (herd heldSlot r).slotOfId herdPart 0 = some (0, slot0) := fun r => by simp [Dev.slotOfId, used_held]; rfl
  have hn : ∀ r, (herd [] r).slotOfId herdPart 0 = none := fun r => by simp [Dev.slotOfId, used_none]
  have hid : ∀ x ∈ ([(1, 0), (3, 1), (3, 2), (3, 4), (3, 6)] : List (Byte × Byte)), field (intake x.1 x.2) 8 8 = 0 := by
    intro x _; simp [intake, field, leNat, slice, padTo]
  refine ⟨fun m r => ⟨by rfl, by rfl, by rfl, ?_, by rfl, by rfl⟩, ⟨?_, hf _⟩, ?_, fun r => ⟨hs r, hn r⟩, ?_, ?_, by decide⟩
  · show (herd [] []).hbmRange herdPart.table (2 ^ 21) = true
    decide
  · unfold Dev.addReason; rw [hf, hid (1, 0) (by decide), hn, used_none]; decide
  · have : (herd heldSlot (intake 1 0)).freeSlot herdPart = some 1 := by simp [Dev.freeSlot, used_held]; rfl
    unfold Dev.addReason; rw [this, hid (1, 0) (by decide), hs]; decide
  · intro f hf; unfold Dev.changeReason
    rw [hid (3, f) (by revert f; decide), hs]
    revert f; decide
  · unfold Dev.changeReason; rw [hid (3, 6) (by decide), hs]; decide

theorem witness_WorkListDueAtReadyOffset :
    let d := herd [] []
    d.clocked = true ∧ d.building = true ∧ d.frame.opened = true ∧ d.frame.phase = .run ∧ d.herd.built = none ∧
      ({ d with herd := { d.herd with built := some 0 } } : Dev).herd.built = some d.frame.number ∧
      d.rd .jobHerdBuild ≤ herdPart.ready := by decide

/-- A move up of an object, all of its bytes copied. -/
def tierMove : TierMove := ⟨0, [3], [], [5], 1200, [], 0, false, [], 0⟩

/-- A device with one object in tier 1 and that move. -/
def moving (m : TierMove) : Dev := { phase .running with
  tier := { Tier.empty with objs := [⟨true, 1000, 0, 1, 0, 0, 1, [], [], some m, none, [], false, 0⟩] } }

theorem witness_TierMovesAndLending :
    let lends := fun (l : LendState) (d : Dev) => { d with tier := { Tier.empty with lend := l } }
    (moving tierMove).clocked = true ∧ ((moving tierMove).tier.objs[0]?.bind fun o => o.move) = some tierMove ∧
    tierMove.todo = [] ∧ tierMove.open_ = 0 ∧ tierMove.target < 1 ∧
    (moving { tierMove with todo := [(7, 8)] }).tier.objs[0]?.isSome = true ∧ (moving tierMove).tier.objs[1]? = none ∧
    (∀ op ∈ [1, 2], (open_ ready 0xB0 0x100 op).PairReady .mgmt false 0xB0 0x100 op ⟨.tier, 0, 64⟩) ∧
    (open_ (lends .lending ready) 0xB0 0x100 2).PairReady .mgmt false 0xB0 0x100 2 ⟨.tier, 0, 64⟩ ∧
    (ready.job.phase = .idle ∧ ready.tier.lend = .off ∧ ready.start.state = .ready) ∧
    (lends .zeroing ready).clocked = true ∧ (lends .zeroing ready).tier.lend = .zeroing := by
  refine ⟨by decide, by decide, by decide, by decide, by decide, by decide, by decide, fun op h => ?_,
    pairs _ _ _ _ _ (by decide) (by decide) (by decide) (by decide) (by decide), by decide, by decide, by decide⟩
  simp only [List.mem_cons, List.not_mem_nil, or_false] at h
  rcases h with rfl | rfl <;> exact pairs _ _ _ _ _ (by decide) (by decide) (by decide) (by decide) (by decide)

/-- A staged window entry at the edge of the address space, a pair of intervals at their limit, and loads and stores of the
agent to a node and to control space. -/
theorem witness_GlobalRequestControl :
    let e := fun (base : Nat) => 0x4000 + 2 ^ 23 + base * 2 ^ 32 + 8 * 2 ^ 76
    let cell := packet 3 0x10 (leBytes 8 0 ++ leBytes 4 64)
    let control := packet 3 0x11 (leBytes 8 (15 * 2 ^ 44) ++ leBytes 4 4)
    winLegal 0 = true ∧ winLegal (e (2 ^ 44 - 8)) = true ∧ winLegal (e (2 ^ 44 - 7)) = false ∧ winLegal (2 ^ 23) = false ∧
    (ready.wr .gmemWinData (2 ^ 23)).rd .gmemWinData = 2 ^ 23 ∧
    (∀ d ∈ [phase .admitted, phase .running, ready], (open_ d 0xC0 0x1C 1).PairReady .mgmt false 0xC0 0x1C 1 ⟨.gmem, 0, 65⟩) ∧
    (open_ ready 0xC0 0x74 0xFFFF).PairReady .mgmt false 0xC0 0x74 0xFFFF ⟨.gmem, 0, 65⟩ ∧
    ((at_ ready).WriteReaches .mgmt false 0xC0 0 ⟨.gmem, 0, 65⟩ ∧ ready.openGuard 0xC0 = none) ∧
    (let v := 2 + 2 ^ 16
     bitRange v 15 0 ≠ 0 ∧ bitRange v 23 16 ≠ 0 ∧ 2 * bitRange v 23 16 ≤ bitRange v 15 0) ∧
    (∀ p ∈ [{ cell with dst := 0x4000 }, { control with dst := 5 }], (p.op = 0x10 ∨ p.op = 0x11) ∧ p.dst.toNat < 0xFFF0 ∧
      (0x4000 ≤ p.dst.toNat ∨ field p.payload 0 8 / 2 ^ 44 % 16 = 15) ∧
      field p.payload 8 4 ≤ gmemCarries ∧ ready.gmem.room 1 (if p.op = 0x11 then field p.payload 8 4 else 0) = true) := by
  refine ⟨by decide, by decide, by decide, by decide, by decide, fun d h => ?_, pairs _ _ _ _ _ (by decide) (by decide) (by decide) (by decide) (by decide),
    ⟨reaches _ _ _ _ (by decide) (by decide) rfl, by decide⟩, by decide, by decide⟩
  simp only [List.mem_cons, List.not_mem_nil, or_false] at h
  rcases h with rfl | rfl | rfl <;> exact pairs _ _ _ _ _ (by decide) (by decide) (by decide) (by decide) (by decide)

/-- A request toward node 5 of core 0 or of the agent. -/
def asked (mgmt : Bool) (op : Nat) (o : GOwner) : GReq := ⟨mgmt, 5, 0, o, op, 0, 8, [], 0, 0, 0, 0, 100, 100, 0⟩

/-- A running job keyed with tag 7 and a request. -/
def asking (r : GReq) : Dev := { (phase .running).wr .jobKeyTag 7 with gmem := { Gmem.empty with reqs := [r] } }

/-- An answer of node 5. -/
def answer (chan : BitVec 2) (tag : BitVec 24) (status : Byte) : Packet :=
  { packet chan 0x90 (List.replicate 12 0 ++ [status]) with tag := tag }

theorem witness_GlobalRequestsRepeatedAndAnswered :
    let mine := asking (asked false 0 (.core 0 0 0 0))
    let agent := asking (asked true 0 (.agent (some 3)))
    let match_ := fun (d : Dev) (p : Packet) => d.gmem.reqs.find? fun r =>
      r.mgmt = decide (p.chan = 3) && r.node = p.src.toNat && r.seq = field p.payload 8 4
    mine.clocked = true ∧ mine.gmem.find 5 0 = some (asked false 0 (.core 0 0 0 0)) ∧ mine.gmem.find 6 0 = none ∧
    (mine.gmem.reqs.filter fun r => !r.mgmt && r.node = 5 && r.seq = 0) = [asked false 0 (.core 0 0 0 0)] ∧
    (mine.job.phase.faultable = true ∧ mine.job.abort = false) ∧
    (∀ st ∈ ([0, 1, 2, 3] : List Byte), field (answer 0 7 st).payload 12 1 = st.toNat ∧
      (answer 0 7 st).key = mine.jobKey ∧ match_ mine (answer 0 7 st) = some (asked false 0 (.core 0 0 0 0))) ∧
    (mine.job.keyed = true ∧ match_ ready (answer 0 7 0) = none) ∧
    ((answer 3 0 0).key = agent.mgmtKey ∧ agent.macOk (at_ agent).clk (answer 3 0 0) = true ∧
      match_ agent (answer 3 0 0) = some (asked true 0 (.agent (some 3)))) := by
  refine ⟨by decide, by decide, by decide, by decide, by decide, by decide, by decide, by decide⟩

/-- A core that has started a load of 8 bytes to its tile store, for the answer to land in. -/
theorem witness_GlobalRequestsRepeatedAndAnswered_load :
    let x := Core.empty.push (encGmem 0x01 0 1 2 0 3 0) .gmem true 0 []
    let d := { asking (asked false 0 (.core 0 0 0 0)) with cores := ready.cores.set 0 x }
    (d.cores[0].entries.find? fun e => e.seq = 0).isSome = true := by decide

/-- A request of node 5 under the job's key. -/
def request (op : BitVec 8) (region off len seq : Nat) : Packet :=
  { packet 0 op (leBytes 8 (region * 2 ^ 44 + off) ++ leBytes 4 len) with tag := 7, seq := BitVec.ofNat 32 seq }

/-- The same under the management key. -/
def mgmtRequest (op : BitVec 8) (off len : Nat) : Packet := packet 3 op (leBytes 8 (15 * 2 ^ 44 + off) ++ leBytes 4 len)

/-- A source that expects number 2. -/
def expecting (d : Dev) (cache : List Replay) : Dev :=
  { d with gmem := { Gmem.empty with sources := [⟨⟨7, 0⟩, 5, 2, []⟩], cache := cache } }

theorem witness_GlobalRequestsServed :
    let d := (phase .running).wr .jobKeyTag 7
    let e := expecting d []
    d.clocked = true ∧ (∀ op ∈ ([0x10, 0x11, 0x12] : List (BitVec 8)), 0x10 ≤ op.toNat ∧ op.toNat ≤ 0x12 ∧
      d.requestKey (request op 0 64 8 0) = true ∧ (request op 0 64 8 0).gRegion ≠ 15 ∧
      d.requestKey { request op 0 64 8 0 with tag := 8 } = false ∧
      d.requestKey (mgmtRequest op 0x200000 4) = true ∧ (mgmtRequest op 0x200000 4).gRegion = 15 ∧
      d.macOk (at_ d).clk (mgmtRequest op 0x200000 4) = true) ∧
    (request 0x10 0 64 8 0).seq.toNat = (d.sourceOf (request 0x10 0 64 8 0)).expect ∧
    (d.sourceOf (request 0x10 0 64 8 0)).held = [] ∧ (d.gmem.cacheRoom d.frame.number).isSome = true ∧
    (d.regionAt 0 64).isSome = true ∧
    seqBefore 1 (e.sourceOf (request 0x10 0 64 8 1)).expect = true ∧
    seqBefore 3 (e.sourceOf (request 0x10 0 64 8 3)).expect = false ∧ e.heldRequests < 256 ∧
    ((mgmtRequest 0x11 0x200000 4).gOff % 4 = 0 ∧ (mgmtRequest 0x11 0x200000 4).gLen = 4 ∧
      (mgmtRequest 0x11 0x200000 4).gOff < 2 ^ 28) := by
  refine ⟨by decide, by decide, by decide, by decide, by decide, by decide, by decide, by decide, by decide, by decide⟩

/-! ### Hypotheses that are met: the counter and the fabric -/

/-- The device is node 0. -/
def node0 : Dev := ready.wr .secNode 0

/-- A device whose port `i` stands as `q`. -/
def port (i : Fin 81) (q : Port) : Dev := { node0 with fab := { Fab.cold with ports := Fab.cold.ports.set i q } }

/-- A device that is not the root, with port 3 as its primary parent and its port 3 in UP. -/
def child (y : Sync) : Dev := { (port 3 { Port.cold with state := .up }).wr .tickSyncPrimary 0x83 with sync := y }

/-- Offsets of 4 counts and of 4 and a half, the sixteenth good offset, and a parent field. -/
theorem witness_CounterSynchronisation :
    let y := fun (x : SyncState) => { Sync.unset with state := x }
    let time := packet 3 0x70 (leBytes 8 1234)
    let h := fun (t1 t2 t3 t4 : BitVec 64) => ((t2.toNat : Int) - t1.toNat) - ((t4.toNat : Int) - t3.toNat)
    (ready.clocked = true ∧ time.op = 0x70 ∧ ready.timeLetIn ⟨1000, 143, 0, 0⟩ time = true ∧ ready.isRoot = false ∧
      ready.keepsTime = false ∧ ready.sync.state = .unset) ∧
    (child (y .locked)).timeLetIn ⟨1000, 143, 0, 0⟩ time = false ∧
    (phase .running).timeLetIn ⟨1000, 143, 0, 0⟩ time = true ∧ (phase .running).keepsTime = true ∧
    (∀ x ∈ [SyncState.coarse, .tracking, .locked, .holdover, .unset], (child (y x)).isRoot = false ∧
      (child (y x)).parent = some 3 ∧ (child (y x)).fab.ports[3].timed = true ∧ (child (y x)).fab.ports[4].timed = false) ∧
    (h 100 110 200 202 = 8 ∧ h 100 111 200 202 = 9 ∧ ({ y .tracking with good := 15 } : Sync).good + 1 = 16) ∧
    (∀ x ∈ [SyncState.tracking, .locked, .holdover], (child (y x)).sync.state = x) ∧
    (let full := { Port.cold with state := .up, blocks := 64 }
     full.acked + 64 ≤ full.blocks ∧ full.timed = true ∧ Port.cold.timed = false ∧ Port.cold.blocks < Port.cold.acked + 64) ∧
    (child { y .coarse with orphan := some 7 }).sync.orphan = some 7 ∧ (child (y .coarse)).sync.orphan = none ∧
    (∀ x ∈ [SyncState.lost, .locked], (open_ (child (y x)) 0x10 0 0x8384).PairReady .mgmt false 0x10 0 0x8384 ⟨.tick, 0, 1⟩) ∧
    (open_ ready 0x10 0 0x10000).PairReady .mgmt false 0x10 0 0x10000 ⟨.tick, 0, 1⟩ ∧
    parentPort (bitRange 0x8384 7 0) ≠ (child (y .locked)).parent := by
  refine ⟨by decide, by decide, by decide, by decide, by decide, by decide, by decide, by decide, by decide, by decide,
    fun x h => ?_,
    pairs _ _ _ _ _ (by decide) (by decide) (by decide) (by decide) (by decide), by decide⟩
  simp only [List.mem_cons, List.not_mem_nil, or_false] at h
  rcases h with rfl | rfl <;> exact pairs _ _ _ _ _ (by decide) (by decide) (by decide) (by decide) (by decide)

/-- The trailer of a block: its other fields, and the CRC over the body and them. -/
def trailer (body : List Byte) (low : Nat) : BitVec 128 :=
  BitVec.ofNat 128 (low + (crc32c (body ++ leBytes 12 low)).toNat * 2 ^ 96)

/-- Such a trailer is good. -/
theorem trailer_good (body : List Byte) (low : Nat) (h : low < 2 ^ 96) :
    let w := (trailer body low).toNat
    w % 2 ^ 96 = low ∧ (crc32c (body ++ leBytes 12 (w % 2 ^ 96))).toNat = bitRange w 127 96 := by
  have hc := (crc32c (body ++ leBytes 12 low)).isLt
  have hw : (trailer body low).toNat = low + (crc32c (body ++ leBytes 12 low)).toNat * 2 ^ 96 := by
    unfold trailer; rw [BitVec.toNat_ofNat, Nat.mod_eq_of_lt (by omega)]
  have hl : (low + (crc32c (body ++ leBytes 12 low)).toNat * 2 ^ 96) % 2 ^ 96 = low := by omega
  intro w
  refine ⟨by rw [show w = _ from hw, hl], ?_⟩
  rw [show w = _ from hw, hl, bitRange]
  omega

/-- A body of zeros. -/
def zeros : List Byte := List.replicate 4096 0

/-- Blocks of packet bytes, control blocks, an acknowledgement of one block, and a NAK. -/
theorem witness_PortsAndLinkBlocks :
    let b : SentBlock := ⟨⟨0, 4095, 0, false, [], []⟩, 100⟩
    let up := { Port.cold with state := .up, blocks := 2, window := [b, b] }
    (open_ ready (fabPage 0) (4 + 0x20 * 3) 1).PairReady .mgmt false (fabPage 0) (4 + 0x20 * 3) 1 ⟨.fab, 0, 66⟩ ∧
    (open_ ready (fabPage 0) (4 + 0x20 * 3) 2).PairReady .mgmt false (fabPage 0) (4 + 0x20 * 3) 2 ⟨.fab, 0, 66⟩ ∧
    (ready.fab.ports[3].state = .down ∧ ready.portPresent 3 = true ∧ ready.portPresent 48 = false) ∧
    (∀ q ∈ [PortState.disabled, .down, .training, .quarantine, .up], (port 3 { Port.cold with state := q }).fab.ports[3].state = q) ∧
    up.window ≠ [] ∧ Port.cold.window = [] ∧ (bitRange 1 11 0 ≠ up.rxNext ∧ up.replays + 1 < 16 ∧
      16 ≤ { up with replays := 15 }.replays + 1) ∧
    zeros.length = 4096 ∧
    (∀ low ∈ [0, 4096 * 1, 2 ^ 24, 2 ^ 25, 2 ^ 26 + 4096 * 4095], low < 2 ^ 96) ∧
    (bitRange 0 25 24 ≤ 1 ∧ bitRange 0 11 0 = up.rxNext) ∧ bitRange (2 ^ 25) 25 24 = 2 ∧
    (let step := (bitRange 0 23 12 + 1 + 4096 - up.acked % 4096) % 4096
     step ≠ 0 ∧ up.acked + step ≤ up.blocks) ∧
    (let w := 2 ^ 26 + 4096 * 4095
     bitAt w 26 = true ∧ (bitRange w 23 12 + 1 + 4096 - up.acked % 4096) % 4096 = 0 ∧ up.window ≠ []) := by
  refine ⟨pairs _ _ _ _ _ (by decide) (by decide) (by decide) (by decide) (by decide),
    pairs _ _ _ _ _ (by decide) (by decide) (by decide) (by decide) (by decide), by decide, by decide,
    List.cons_ne_nil _ _, rfl, by decide, List.length_replicate, by decide, by decide, by decide, by decide,
    by decide⟩

/-- A packet with its CRC. -/
def sealed (p : Packet) : Packet := { p with crc := p.crcOf }

theorem sealed_crc (p : Packet) : (sealed p).crc = (sealed p).crcOf := rfl

theorem padTo_size {α : Type} (x : α) (n : Nat) (l : List α) : (padTo x n l).length = n := by
  simp only [padTo, List.length_append, List.length_take, List.length_replicate]
  omega

/-- A one-hop packet of the management channel with its CRC. -/
def oneHop (op : BitVec 8) (payload : List Byte) : Packet := sealed { packet 3 op payload with dst := 0xFFFF }

theorem oneHop_good (op : BitVec 8) (payload : List Byte) (h : opChannel op.toNat 3 = some 3) :
    (oneHop op payload).good = true := by
  have hc : (oneHop op payload).crc = (oneHop op payload).crcOf := sealed_crc _
  have hp : (oneHop op payload).payload.length = 64 := padTo_size _ _ _
  have ho : opChannel (oneHop op payload).op.toNat (oneHop op payload).chan.toNat =
      some (oneHop op payload).chan.toNat := h
  have hr : (oneHop op payload).rsvd = 0 := rfl
  have hl : (oneHop op payload).len = 0 := rfl
  simp [Packet.good, hc, hp, ho, hr, hl]

/-- Port 3 in UP with a route to node 7 over it. -/
def routed : Dev := { port 3 { Port.cold with state := .up } with
  fab := { (port 3 { Port.cold with state := .up }).fab with live := Fab.cold.live.set 0 [(7, 3 + 2 ^ 28)] } }

theorem routed_queues : ∀ i : Fin 81, routed.fab.ports[i].queues.length = 8 := by
  intro i
  simp only [routed, port, Fab.cold, Fin.getElem_fin, Vector.getElem_set, Vector.getElem_replicate]
  split <;> rfl

theorem witness_ProbesAndRouting :
    let x := packet 0 0x11 []
    routed.clocked = true ∧
    (open_ routed (fabPage 0) (4 + 0x20 * 3) 3).PairReady .mgmt false (fabPage 0) (4 + 0x20 * 3) 3 ⟨.fab, 0, 66⟩ ∧
    routed.fab.ports[3].state = .up ∧ routed.fab.ports[4].state = .down ∧
    (∀ op ∈ ([0x01, 0x81] : List (BitVec 8)), (oneHop op []).good = true ∧ (oneHop op []).dst = 0xFFFF ∧
      (oneHop op []).isProbe = true ∧ ({ oneHop op [] with rsvd := 1 } : Packet).good = false) ∧
    (oneHop 0x70 []).isProbe = false ∧ (x.atNode routed.node).phase2 = true ∧
    x.dst.toNat = routed.node ∧ ({ x with dst := 7, hops := 15 } : Packet).hops = 15 ∧
    routed.choosePort 0 { x with dst := 8 } = none ∧ routed.choosePort 0 { x with dst := 7 } = some 3 := by
  refine ⟨by decide, pairs _ _ _ _ _ (by decide) (by decide) (by decide) (by decide) (by decide), by decide, by decide,
    fun op h => ⟨oneHop_good _ _ ?_, rfl, ?_, by simp [Packet.good]⟩, by decide, by decide, by decide, by decide, by decide,
    by decide⟩ <;> revert op <;> decide

/-- A management packet with its CRC. -/
def whole (order : BitVec 24) : Packet := sealed { packet 3 0x01 [] with order := order }

theorem whole_good (order : BitVec 24) : (whole order).good = true := by
  have : (whole order).crc = (whole order).crcOf := sealed_crc _
  simp only [Packet.good, this]
  rfl

/-- A packet that came in on FD0 stands in front of another of its class and home die. -/
def arriving (p q : Packet) : Dev := { node0 with fab := { Fab.cold with toDeliver := [(0, p), (0, q)] } }

/-- A sequence that expects the largest number, with the packet of the next number held or without. -/
def reordering (held : List (Packet × Nat)) : Dev :=
  { node0 with fab := { Fab.cold with rxOrders := [⟨⟨0, 0⟩, 5, 3, 2 ^ 24 - 1, held, false, none⟩] } }

/-- After the largest number comes zero. -/
theorem after_last : orderAfter (2 ^ 24 - 1) (0 : BitVec 24).toNat = 1 := by decide

theorem witness_DeliveryInOrder :
    (node0.clocked = true ∧ ∀ n, (whole n).dst.toNat = node0.node) ∧ ({ whole 0 with rsvd := 1 } : Packet).good = false ∧
    (∀ n, (whole n).good = true ∧ node0.accepts (whole n).key = true) ∧
    (node0.inDie (whole 0) = some 5 ∧ (∀ p, (arriving p (whole 1)).inDie p = some 0) ∧
      (arriving (packet 3 0x70 []) (packet 3 0x71 [])).inDie (packet 3 0x71 []) = none) ∧
    ((packet 0 0x20 []).isStream = true ∧ (packet 3 0x71 []).useless = true) ∧
    orderAfter ((reordering []).rxOf (whole 0xFFFFFF)).next 0xFFFFFF = 0 ∧
    (∀ a, a = orderAfter ((reordering []).rxOf (whole 0)).next 0 → a ≠ 0 ∧ a < 2 ^ 23) ∧
    (reordering []).held 5 + (whole 0).bytes ≤ 4194304 ∧
    2 ^ 23 ≤ orderAfter ((reordering []).rxOf (whole 0)).next 0xFFFFFE ∧
    (∃ h ∈ ((reordering [(whole 0, 100)]).rxOf (whole 0)).held, h.1.order = 0) ∧
    (∃ r, (reordering [(whole 0, 100)]).fab.rxOrders.find? (fun r => r.same ⟨0, 0⟩ 5 3) = some r ∧
      (r.held.map (·.2)).min? = some 100 ∧ (r.held.map fun h => orderAfter r.next h.1.order.toNat).min? = some 1 ∧
      (r.held.find? fun h => orderAfter r.next h.1.order.toNat = 1) = some (whole 0, 100)) ∧
    (5 : Nat) ≠ node0.node := by
  refine ⟨⟨by decide, fun n => by rfl⟩, by simp [Packet.good], fun n => ⟨whole_good n, ?_⟩,
    ⟨by rfl, fun p => by simp [Dev.inDie, arriving], by decide⟩, by decide, by decide, ?_, by decide, by decide,
    ⟨(whole 0, 100), .head _, by rfl⟩, ⟨_, rfl, by rfl, by rfl, List.find?_cons_of_pos (decide_eq_true after_last)⟩, by decide⟩
  · show node0.accepts ⟨0, 0⟩ = true
    decide
  · rintro a rfl
    decide

theorem witness_RoutesAndPeriods :
    (open_ ready 0x100 0x318 1).PairReady .mgmt false 0x100 0x318 1 ⟨.fab, 0, 66⟩ ∧
    ({ ready with fab := { Fab.cold with commitAt := some 200 } } : Dev).fab.commitAt = some 200 ∧ ready.clocked = true ∧
    ready.fab.commitAt = none ∧ ready.job.phase ≠ .running ∧ (phase .running).job.phase = .running ∧
    Sparse.get ({ ready with ctl := { ready.ctl with replayRun := [(0, 16)] } } : Dev).ctl.replayRun 0 0 = 16 ∧
    ready.rd .hubBridgeDown 0 37 ≠ 1 ∧
    0 < min 1600 ((5 : Nat) + 0) :=
  ⟨pairs _ _ _ _ _ (by decide) (by decide) (by decide) (by decide) (by decide), by decide, by decide, by decide, by decide,
    by decide, by decide, by decide, by decide⟩

/-! ### Hypotheses that are met: control space and the twin -/

/-- Plain, ignored and alias writes of TICK, and guarded writes of JOB_SEED_LO. -/
theorem witness_ControlSpaceWrites :
    let t : Page := ⟨.tick, 0, 1⟩
    let j : Page := ⟨.job, 0, 2⟩
    let fs := fun (off : Nat) => (t.fields off).filter fun x => t.holds x.1
    (∀ off ∈ [0x1C, 4, 0x401C, 0x801C, 0xC01C], (at_ ready).WriteReaches .mgmt false 0x10 off t) ∧
    ready.openGuard 0x10 = none ∧
    (t.guarded 0x1C = false ∧ takesWrite false (fs 0x1C) = true ∧ ready.allowsWrite .tick 0x1C 5 = true ∧
      (ready.plainEffect ⟨1010, 144, 300000000, 0⟩ t 0x1C 5).isNone = true ∧ takesWrite false (fs 4) = false ∧
      (phase .running).allowsWrite .tick 0x1C 5 = false) ∧
    ((ready.rwBits ⟨1010, 144, 300000000, 0⟩ .mgmt 0x10 t 0x1C).2 ≠ 0 ∧ (ready.rwBits ⟨1010, 144, 300000000, 0⟩ .mgmt 0x10 t 4).2 = 0) ∧
    (j.guarded 0x130 = true ∧ ready.allowsWrite .job 0x130 5 = true ∧
      (ready.pairEffect ⟨1010, 144, 300000000, 0⟩ j 0x130 5).isNone = true) ∧
    (open_ ready 0x20 0x130 5).PairReady .mgmt false 0x20 0x130 5 j ∧
    ((at_ ready).WriteReaches .mgmt false 0x20 0x130 j ∧ (at_ ready).WriteReaches .mgmt false 0x20 0x2130 j) ∧
    (open_ ready 0x20 0x130 5).dev.openGuard 0x20 = some ⟨0x20, .mgmt, 0x130, 5, 100⟩ ∧ ready.page 0x20 = some j := by
  refine ⟨fun off _ => reaches _ _ _ _ (by decide) (by decide) rfl, by decide, by decide, by decide, by decide,
    pairs _ _ _ _ _ (by decide) (by decide) (by decide) (by decide) (by decide),
    ⟨reaches _ _ _ _ (by decide) (by decide) rfl, reaches _ _ _ _ (by decide) (by decide) rfl⟩, by decide, by decide⟩

/-- A device with a latched request, and with copies of the period that disagree. -/
theorem witness_MailboxesAndVotes :
    let b : Mailbox := ⟨0x10, .mgmt, 4, false, false, 0, 0, some (4, none), 90⟩
    let box := { ready with ctl := { Ctl.empty with mailboxes := [b] } }
    let split := { phase .running with ctl := { Ctl.empty with period := ⟨1, 2, 3⟩ } }
    let v3 := fun (p : Page) (reg : Nat) (v : VoteField) => (p.fields (reg / 4 * 4)).any fun x => x.1 = v.fld
    (at_ ready).WriteReaches .mgmt false 0x10 0x1F20 ⟨.tick, 0, 1⟩ ∧ ready.openGuard 0x10 = none ∧
    (box.clocked = true ∧ box.mailbox 0x10 .mgmt = some b ∧ ready.mailbox 0x10 .mgmt = none) ∧
    (ready.ctl.period.vote = some 0 ∧ ready.ctl.guardBand.vote = some 0 ∧ ready.ctl.jobState.vote = some 0) ∧
    (split.ctl.period.vote = none ∧ split.ctl.guardBand.vote = some 0 ∧ split.ctl.jobState.vote = some 0 ∧
      split.job.phase.faultable = true ∧ split.job.abort = false ∧ split.clocked = true) ∧
    (ready.openPage 0x10 = some ⟨.tick, 0, 1⟩ ∧ ready.voteFields.any (v3 ⟨.tick, 0, 1⟩ 12) = true ∧
      ready.voteFields.any (v3 ⟨.tick, 0, 1⟩ 24) = false ∧ ∀ v ∈ ready.voteFields, v.copies.vote ≠ none) := by
  refine ⟨reaches _ _ _ _ (by decide) (by decide) rfl, by decide, by decide, by decide, by decide, by decide⟩

/-- A running job under lock-step, with its twin link in UP. -/
def twins (t : Twin) : Dev :=
  let m := object { form [] with twin := some (2, 0) }
  { (job m).wr .twinCfgMode 2 with
    twin := t
    fab := { Fab.cold with ports := Fab.cold.ports.set 80 { Port.cold with state := .up } } }

/-- A lock-step message. -/
def lockstepMessage (op : BitVec 8) (payload : List Byte) : Packet := oneHop op payload

theorem lockstep_message (t : Twin) (op kind : Byte) (rest : List Byte) (h : op = 0x7E ∨ op = 0x7F) :
    (twins t).lsMessage (lockstepMessage op (kind :: rest)) op.toNat kind.toNat = true := by
  have hg : (lockstepMessage op (kind :: rest)).good = true := oneHop_good _ _ (by rcases h with rfl | rfl <;> decide)
  have hf : field (lockstepMessage op (kind :: rest)).payload 0 1 = kind.toNat := by
    simp [lockstepMessage, oneHop, sealed, packet, field, slice, padTo, leNat]
  have h1 : (twins t).fab.ports[(80 : Fin 81)].state = .up := by simp [twins]
  have h2 : (twins t).rd .twinCfgMode = 2 := by
    show (twins Twin.empty).rd .twinCfgMode = 2
    decide
  have h3 : (lockstepMessage op (kind :: rest)).dst = 0xFFFF := rfl
  have h4 : (lockstepMessage op (kind :: rest)).op.toNat = op.toNat := rfl
  unfold Dev.lsMessage
  rw [h1, h2, h3, h4, hf, hg]
  simp

/-- A chunk of the own stream 1. -/
def chunk : LsChunk := ⟨1, 0, 0, 77, [⟨1, 2⟩]⟩

theorem witness_TwinModeAndLockstepMessages :
    let d := twins { Twin.empty with chunks := [chunk], mine := [(0, 1, 5)] }
    (open_ ready 0x210 0 2).PairReady .mgmt false 0x210 0 2 ⟨.twin, 0, 77⟩ ∧
    (ready.job.phase = .idle ∧ ready.twinJob = 0 ∧ (phase .running).job.phase ≠ .idle) ∧
    (d.clocked = true ∧ d.lockstep = true ∧ d.lsJob = true ∧ d.twin.record = 0 ∧ d.job.abort = false ∧
      d.job.phase.faultable = true ∧ d.tier.queue = [] ∧ d.herd.opening = none ∧ d.herd.waits = false ∧ d.herd.drains = false) ∧
    (∀ op, ({ lockstepMessage op [] with rsvd := 1 } : Packet).good = false ∧ (lockstepMessage op []).dst = 0xFFFF ∧
      d.fab.ports[(80 : Fin 81)].state = .up) ∧
    (d.twin.chunks.find? fun x => x.same ⟨1, 0, 0, 0, []⟩) = some chunk ∧
    (d.twin.chunks.find? fun x => x.same ⟨2, 0, 0, 0, []⟩) = none ∧
    (d.twin.mine.find? fun e => e.1 % 2 ^ 48 = 0 && e.2.1 = 1) = some (0, 1, 5) ∧
    (∀ kind ∈ ([1, 2, 3, 4] : List Byte), ∀ rest,
      d.lsMessage (lockstepMessage 0x7F (kind :: rest)) 0x7F kind.toNat = true) ∧
    (∀ rest, d.lsMessage (lockstepMessage 0x7E (0 :: rest)) 0x7E 0 = true) := by
  refine ⟨pairs _ _ _ _ _ (by decide) (by decide) (by decide) (by decide) (by decide), by decide, by decide,
    fun op => ⟨by simp [Packet.good], rfl, by simp [twins]⟩, by decide,
    by decide, by decide, fun kind _ rest => lockstep_message _ 0x7F kind rest (.inr rfl),
    fun rest => lockstep_message _ 0x7E 0 rest (.inl rfl)⟩

/-! ### Hypotheses that are met: start, power, host and board -/

/-- A device in a start state with some steps done. -/
def starting (st : StartState) (done : List Nat) : Dev := { ready with start := { ready.start with state := st, done := done } }

/-- Reset held with and without the reference clock, and every step of the start where it is expected and where not. -/
theorem witness_ResetAndStart :
    let held := fun (ref : Bool) => { ready with start := { ready.start with resetHeld := true, refclk := ref } }
    (held true).start.resetHeld = true ∧ (held true).start.refclk = true ∧ (held false).start.refclk = false ∧
    (∀ x ∈ [(StartState.supply, [], 1), (.identity, [1], 2), (.baseAuth, [2], 3), (.policy, [3], 4), (.bringup, [4], 5),
        (.bringup, [5], 6), (.bringup, [5, 6], 7), (.joining, [7], 8), (.joining, [8], 9)],
      (starting x.1 x.2.1).clocked = true ∧ (starting x.1 x.2.1).start.expects x.2.2 = true) ∧
    ready.start.expects 1 = false ∧ (starting .bringup [5, 6]).start.expects 6 = false := by decide

/-- A reading of 115 °C twice, and a die whose reduction may end. -/
theorem witness_SamplesAndLimits :
    let hot := { ready with pwr := { Pwr.empty with temps := [460], reduced := [(3, some 900), (4, none)] } }
    let tripped := { ready with pwr := { Pwr.empty with tripped := true } }
    tripped.pwr.tripped = true ∧ hot.pwr.tripped = false ∧ hot.clocked = true ∧
    (∃ u ∈ hot.units, 0 < (sensorsOf u).2 ∧ (sensorsOf u).1 = 0) ∧ 460 ≤ hot.pwr.read 0 ∧
    hot.pwr.reduced.find? (fun r => r.1 = 3) = some (3, some 900) ∧ hot.pwr.reduced.find? (fun r => r.1 = 4) = some (4, none) ∧
    (∀ v ∈ [999, 1000, 2800, 2801], (open_ ready 0x250 0 v).PairReady .mgmt false 0x250 0 v ⟨.pwr, 0, 81⟩) ∧
    ∀ v ∈ [69, 70, 100, 101], (open_ ready 0x250 4 v).PairReady .mgmt false 0x250 4 v ⟨.pwr, 0, 81⟩ := by
  refine ⟨by decide, by decide, by decide, by decide, by decide, by decide, by decide, fun v h => ?_, fun v h => ?_⟩ <;>
  · simp only [List.mem_cons, List.not_mem_nil, or_false] at h
    rcases h with rfl | rfl | rfl | rfl <;> exact pairs _ _ _ _ _ (by decide) (by decide) (by decide) (by decide) (by decide)

theorem witness_BoardQueriesAndTestPort :
    ready.smbOn = true ∧ State.reset.dev.smbOn = false ∧ ready.start.resetHeld = false ∧
      State.reset.dev.start.resetHeld = true := by decide

/-- The endpoint on, its wait ended 700 ms before or not begun, and an object on the move. -/
theorem witness_HostEndpoint :
    let up := { moving tierMove with
      start := { ready.start with done := [1] }, host := { HostIf.empty with perst := false, cfgFrom := some 1000 } }
    up.clocked = true ∧ up.endpointOn = true ∧ ready.endpointOn = false ∧ up.host.cfgFrom = some 1000 ∧
    (1000 : Nat) ≤ (at_ up).clk.units ∧ (0 : Nat) < 2 ^ up.host.barBits ∧ (up.hbmRuns (up.windowOffset 0) 8).isSome = true ∧
    ({ up with snap := { Snap.empty with restoring := true } } : Dev).snap.restoring = true ∧
    (up.tier.objs[0]?.bind fun x => x.move).isSome = true ∧ (up.tier.objs[1]?.bind fun x => x.move).isNone = true ∧
    up.job.phase.faultable = true ∧ up.job.abort = false ∧
    (let m := { tierMove with target := 2, far := [(0, 0)] }
     let far := (moving m).wr .tierSrcKind 2
     (m.target < 3 ∧ far.tier.objs.any fun o => match o.move with
      | some m => far.usesHost o.home || far.usesHost m.home
      | none => false) ∧
     up.tier.objs.any (fun o => match o.move with
      | some m => up.usesHost o.home || up.usesHost m.home
      | none => false) = false) := by decide

/-- Flash commands at the ends of the protected range, in a state that allows none, and one that runs. -/
theorem witness_FlashCommands :
    let at0 := fun (a : Nat) => ready.wr .hostifFlashAddr a
    let busy := { ready with host := { HostIf.empty with flash := some ⟨2, 0x20000, List.replicate 256 0⟩ } }
    (∀ op ∈ [1, 2, 3], (open_ ready 0x240 0x104 op).PairReady .mgmt false 0x240 0x104 op ⟨.hostif, 0, 80⟩) ∧
    (at0 0x1FFFF).rd .hostifFlashAddr < 0x20000 ∧ (at0 0x20000).rd .hostifFlashAddr % 65536 = 0 ∧
    (at0 0x20001).rd .hostifFlashAddr % 256 ≠ 0 ∧ (starting .joining []).start.state ≠ .ready ∧
    busy.clocked = true ∧ busy.host.flash.isSome = true ∧ ready.host.flash.isNone = true := by
  refine ⟨fun op h => ?_, by decide, by decide, by decide, by decide, by decide, by decide, by decide⟩
  simp only [List.mem_cons, List.not_mem_nil, or_false] at h
  rcases h with rfl | rfl | rfl <;> exact pairs _ _ _ _ _ (by decide) (by decide) (by decide) (by decide) (by decide)

/-! ### Hypotheses that are met: security -/

/-- A device that has sent its JOIN_HELLO; the public key of the secret 1 is a manager's. -/
def joining : Dev := { ready with
  start := { ready.start with state := .joining }
  sec := { Sec.empty with helloAt := some 100, policy := some ⟨0, 0, 0, 0, 0, [], [sha512 (ecEncode p521G)], [], []⟩ } }

/-- The signed part of a JOIN_ACCEPT, with that key as the manager's and the peer's. -/
def acceptance : List Byte := List.replicate 76 0 ++ ecEncode p521G ++ ecEncode p521G

/-- Its signature with the nonce 1: r is the base point's x, s the hash and r. -/
def signature : List Byte :=
  let r := (p521G.map (·.1)).getD 0 % p521n
  beBytes 66 r ++ beBytes 66 ((beNat (sha512 acceptance) + r) % p521n)

/-- An agent message. -/
def message (op : BitVec 8) (content : List Byte) : Packet := { packet 3 op [] with payload := agentPayload content }

theorem message_size (op : BitVec 8) (content : List Byte) : 64 ≤ (message op content).payload.length := by
  simp [message, agentPayload, leBytes_size]
  omega

/-- The acceptance with its signature is accepted. -/
theorem witness_SecurityMessages_join :
    joining.clocked = true ∧ joining.joins = true ∧ joining.sec.helloAt = some 100 ∧
    (message 0x72 (acceptance ++ signature)).op = 0x72 ∧
    joining.acceptsJoin (message 0x72 (acceptance ++ signature)) = true ∧ ready.joins = false ∧
    ({ joining with sec := Sec.empty } : Dev).sec.helloAt = none := by
  refine ⟨by decide, by decide, by decide, by decide, by decide +kernel, by decide, by decide⟩

/-- A device with a session whose key is 1, an old key, a quote being made and a report under way. -/
def joined : Dev := { ready with sec := { Sec.empty with
  session := .rekeying, fixed := true, key := [1], oldKey := some ([2], 500)
  quote := some ⟨true, []⟩, queued := [[7]], reports := [⟨2, [], [9], 100⟩] } }

theorem joined_knows (d : Dev) (h : d.sec.key = [1]) (op : BitVec 8) (content : List Byte) :
    d.macOk ⟨1000, 143, 0, 0⟩ ((message op content).sealed [1]) = true := by
  unfold Dev.macOk
  rw [h, macGood_sealed _ _ (message_size op content)]
  simp

theorem witness_SecurityMessages :
    (joined.clocked = true ∧ joined.sec.fixed = true ∧ joined.start.violated = false ∧ joined.mayQuote = true) ∧
    (∀ op content, joined.macOk ⟨1000, 143, 0, 0⟩ ((message op content).sealed [1]) = true) ∧
    (∀ op content, ((message op content).sealed [1]).op = op) ∧
    (ecDecode (slice (agentContent ((message 0x77 (ecEncode p521G)).sealed [1])) 0 133)).isSome = true ∧
    joined.sec.oldKey = some ([2], 500) ∧ ready.sec.oldKey = none ∧ joined.sec.quote ≠ none ∧ ready.sec.quote = none ∧
    (open_ ready 0x230 0x20 1).PairReady .mgmt false 0x230 0x20 1 ⟨.sec, 0, 79⟩ ∧
    (∀ r ∈ joined.sec.reports, r.orders ≠ [] ∧ ¬ (r.kind = 3 ∧ 9 ∈ r.orders)) ∧ (joined.reportOf 9).isSome = true ∧ (joined.reportOf 8).isNone = true ∧
    (joined.start.firmware = true ∧ State.reset.dev.start.firmware = false) := by
  refine ⟨by decide, fun op c => joined_knows _ rfl op c, fun _ _ => rfl, ?_, by decide, by decide, by decide, by decide,
    pairs _ _ _ _ _ (by decide) (by decide) (by decide) (by decide) (by decide), by decide, by decide, by decide, by decide⟩
  rw [agentContent_sealed _ _ (message_size _ _)]
  decide +kernel

/-! ### Hypotheses that are met: snapshots, exchange and collectives -/

/-- A running job under the mirror with a bound of 4 MiB, its twin link in UP and a receive region of three pages. -/
def mirrored (sn : Snap) : Dev :=
  let m := object { form [] with twin := some (1, 2 ^ 22), snap := some ⟨0, 0, 2 ^ 24⟩ }
  { ((job m).wr .twinCfgMode 1).wr .twinRxPages 3072 with
    snap := sn
    fab := { Fab.cold with ports := Fab.cold.ports.set 80 { Port.cold with state := .up } } }

theorem mirror_message (sn : Snap) (op : Byte) (payload : List Byte) (h : opChannel op.toNat 3 = some 3) :
    (mirrored sn).mirrorMessage (lockstepMessage op payload) op.toNat = true := by
  have hg : (lockstepMessage op payload).good = true := oneHop_good _ _ h
  have h1 : (mirrored sn).fab.ports[(80 : Fin 81)].state = .up := by simp [mirrored]
  have h2 : (mirrored sn).rd .twinCfgMode = 1 := by
    show (mirrored Snap.empty).rd .twinCfgMode = 1
    decide
  have h3 : (lockstepMessage op payload).dst = 0xFFFF := rfl
  have h4 : (lockstepMessage op payload).op.toNat = op.toNat := rfl
  unfold Dev.mirrorMessage
  rw [h1, h2, h3, h4, hg]
  simp

/-- An image without objects. -/
def parts : ImageParts := ⟨3, true, false, none, [], [], [], 0⟩

theorem head_size (d : Dev) (a n : Nat) : (d.imageHead 2 parts a n).length = 112 := by
  unfold Dev.imageHead
  simp only [List.length_append, leBytes_size]
  split <;> simp only [padTo_size, List.length_replicate] <;> rfl

/-- Header and job state block. -/
theorem image_size (d : Dev) : (d.imageOf 2 parts).length = 4096 + jobBlockBytes := by
  have hs : ∀ a n : Nat, ∀ x y : List Byte, (d.imageHead 2 parts a n ++ x ++ List.replicate 80 0 ++ y).length =
      192 + x.length + y.length := fun a n x y => by
    simp only [List.length_append, head_size, List.length_replicate]
    omega
  refine (hs _ _ _ _).trans ?_
  rw [sha512_length, List.length_append, List.length_append, padTo_size, padTo_size]
  rfl

theorem witness_SnapshotsAndMirror :
    let run := { Snap.empty with nvmeUp := true, run := some parts }
    let starts := { Snap.empty with init := nvmeInit 1 }
    let restores := { Snap.empty with restoring := true }
    let sends := { Snap.empty with mirrors := [⟨parts, true, true⟩] }
    (mirrored run).clocked = true ∧ (at_ ready).WriteReaches .mgmt false 0x220 0 ⟨.snap, 0, 78⟩ ∧
    ready.openGuard 0x220 = none ∧ run.nvmeUp = true ∧ run.run = some parts ∧ Snap.empty.run = none ∧
    (starts.init ≠ [] ∧ run.init = [] ∧ parts.whole = true ∧ { parts with open_ := 1 }.whole = false ∧
      run.left = [] ∧ run.flushed = false ∧ { run with left := [0] }.left ≠ [] ∧ { run with flushed := true }.flushed = true ∧
      restores.restoring = true ∧ (({ ready with snap := restores } : Dev).wr .snapRstSrcCellar 1).restoresFrom 1 = true) ∧
    (ready.rd .snapNvmeEnable = 0 ∧ (ready.wr .snapNvmeEnable 1).rd .snapNvmeEnable ≠ 0) ∧
    (∀ b, (mirrored run).mirrorMessage (lockstepMessage 0x7C b) 0x7C = true ∧
      (mirrored run).mirrorMessage (lockstepMessage 0x7D b) 0x7D = true) ∧
    (ready.mirrorMessage (packet 3 0x7C []) 0x7C = false ∧
      ∀ op, (mirrored run).mirrorMessage { lockstepMessage op [] with rsvd := 1 } op.toNat = false) ∧ (mirrored run).rxRegion = (0, 3 * 2 ^ 22, 2 ^ 22) ∧
    (sends.mirrors = [⟨parts, true, true⟩] ∧ (mirrored sends).mirrorBound = some (2 ^ 22) ∧
      (mirrored sends).image.bind (fun i => i.form.snap) = some ⟨0, 0, 2 ^ 24⟩ ∧ (mirrored sends).job.phase = .running ∧
      ((mirrored sends).imageOf 2 parts).length ≤ 2 ^ 22) := by
  refine ⟨by decide, reaches _ _ _ _ (by decide) (by decide) rfl, by decide, by decide, by decide, by decide,
    by decide, by decide, fun b => ⟨mirror_message _ _ b (by decide), mirror_message _ _ b (by decide)⟩,
    ⟨by decide, fun op => by simp [Dev.mirrorMessage, Packet.good]⟩, by decide, by decide, by decide, by decide, by decide,
    ?_⟩
  rw [image_size]
  decide

/-- An exchange layer of a group of two, and its slot 0 for the one expert of rank 0. -/
def xchLayer : XchLayer := ⟨0, 2, 32, 1, 2, 2, 0, [0]⟩
def xchSlot : XchSlot := ⟨0, 0, 0, false, true, 0, 1, 1, [(0, 0)], 0⟩

/-- This device is rank 0 of the group of nodes 4 and 5, under key tag 7. -/
def exchanging (x : Xch) : Dev :=
  let m := object { form [] with xch := some ⟨[xchLayer], [xchSlot]⟩, sep := some ⟨0, [⟨0, 1, true, [4]⟩]⟩ }
  { (((job m).wr .jobKeyTag 7).wr .jobBaseNode 4).wr .jobMemberCount 2 with xch := x }

/-- A packet of node 5 under that key. -/
def streamed (op : BitVec 8) : Packet := { packet 0 op [] with tag := 7 }

/-- The other rank has closed its streams; what is kept of node 5's has 19 bytes of a unit's 20. -/
def exchanged : Xch := { Xch.empty with
  hosts := [⟨0, 0, [0], [], [], [], [], [0], [0], [], true⟩]
  sends := [⟨0, 0, [⟨0, some 0, ⟨0, 0, 1, 1, [⟨0, 0, 0, 0⟩]⟩, [0]⟩], [], [], [0], [], [], [], [0], []⟩]
  partials := [⟨5, false, 0, 0, List.replicate 19 0⟩, ⟨5, true, 0, 0, List.replicate 19 0⟩] }

/-- A core whose XCH.RECV and XCH.COMBINE run. -/
def receiving : Core :=
  let x := (Core.empty.push (encXchRecv 0 1 0) .xch true 0 []).push (encXchCombine 0 1 0 0) .xch true 0 []
  { x with entries := x.entries.map fun e => { e with stage := .running } }

/-- A row that arrives whole and fits, one beyond the capacity, a returned row that is awaited and a stale one, and the
last markers and markers before them. -/
theorem witness_ExchangeStreams :
    let d := { exchanging exchanged with cores := ready.cores.set 0 receiving }
    let first := exchanging { exchanged with hosts := [], sends := [] }
    let n := fun (ret : Bool) => (((d.partialOf 5 ret 0).bytes ++ (streamed 0x20).payload).length - 63) / unitBytes 2 32
    let sent := d.sendOf 0 0
    d.clocked = true ∧ ready.xchTakes (streamed 0x20) = none ∧
    (∀ op ∈ ([0x20, 0x21, 0xA0, 0xA1] : List (BitVec 8)), d.xchTakes (streamed op) = some (xchSlot, xchLayer, 1)) ∧
    (n false = 1 ∧ n true = 1 ∧ d.streamOf 0 1 false = 0 ∧ d.streamOf 0 1 true = 0) ∧
    (xchLayer.host 0 = some (d.rank 2) ∧ xchSlot.covers (xchLayer.localIndex 0) = true ∧
      (d.image.map fun m => (m.rowBase 0 1 0, m.capacity 0 0)) = some (2, 4) ∧ (d.hostOf 0 0).filled = []) ∧
    recSlot (2 * 2 ^ 16) = 2 ∧
    (d.staleReturn 0 0 = false ∧ d.staleReturn 0 1 = true ∧ sent.parts = [⟨0, some 0, ⟨0, 0, 1, 1, [⟨0, 0, 0, 0⟩]⟩, [0]⟩] ∧
      sent.combined = [] ∧ 0 ∈ sent.opened ∧ 0 ∉ { sent with opened := [] }.opened) ∧
    ((d.xchEntry 0 xchSlot 0 2).isSome = true ∧ (d.xchEntry 0 xchSlot 0 4).isSome = true) ∧
    (field (streamed 0x21).payload 0 4 ≤ Sparse.get (d.hostOf 0 0).seen 0 1 ∧
      field (streamed 0xA1).payload 0 4 ≤ Sparse.get sent.seen 0 1) ∧
    (xchLayer.g ≤ (d.hostOf 0 0).markers.length + 1 ∧ xchLayer.g ≤ sent.markers.length + 1 ∧
      (d.hostOf 0 0).answered = true ∧ (∀ c ∈ xchSlot.cores, c ∈ (d.hostOf 0 0).recvd) ∧
      ∀ c ∈ xchSlot.senders, c ∈ { sent with combined := [0] }.combined) ∧
    ((first.hostOf 0 0).markers.length + 1 < xchLayer.g ∧ (first.sendOf 0 0).markers.length + 1 < xchLayer.g ∧
      ∃ c ∈ xchSlot.cores, c ∉ (first.hostOf 0 0).returned) := by
  refine ⟨by decide, by decide, by decide, by decide, by decide, by decide, by decide, by decide, by decide, by decide,
    by decide, by decide, 0, by decide, by decide⟩

/-- A reduction of members 0, the root, and 1 over one tile, started as invocation 1. -/
def reduction : CollDesc := ⟨5, 2, 0, false, 0, 0, 0, 1, 100, 1000, 1, [0xFFFF * 2 ^ 16, 1]⟩
def broadcast : CollDesc := { reduction with desc := 6, type := 1 }
def started (desc : Nat) : CollInv :=
  ⟨desc, 1, 1, 0, 9, false, [(0, 0)], 1, 0, [⟨1, 0, false⟩], [], 0, 0, 2000, [], false, [], none, false, false, 0, 0, [1], 100⟩

/-- The root of both, at node 4, under key tag 7. -/
def collective (is : List CollInv) (x : Core) : Dev :=
  let m := { object (form []) with colls := ⟨1, 0, 2 ^ 20, [reduction, broadcast]⟩ }
  { ((((job m).wr .jobKeyTag 7).wr .jobBaseNode 4).wr .jobMemberCount 2).wr .secNode 0 with
    coll := { Coll.empty with invs := is }, cores := ready.cores.set 0 x }

/-- A packet of node 5 for an invocation. -/
def collPacket (op : BitVec 8) (desc : BitVec 64) (n : BitVec 32) : Packet :=
  sealed { packet 2 op [] with tag := 7, seq := n, opword := BitVec.ofNat _ desc.toNat }

theorem collPacket_good (op : BitVec 8) (desc : BitVec 64) (n : BitVec 32) (h : opChannel op.toNat 2 = some 2) :
    (collPacket op desc n).good = true := by
  have hc : (collPacket op desc n).crc = (collPacket op desc n).crcOf := sealed_crc _
  have hp : (collPacket op desc n).payload = List.replicate 64 0 := rfl
  have ho : opChannel (collPacket op desc n).op.toNat (collPacket op desc n).chan.toNat =
      some (collPacket op desc n).chan.toNat := h
  have hr : (collPacket op desc n).rsvd = 0 := rfl
  have hl : (collPacket op desc n).len = 0 := rfl
  simp [Packet.good, hc, hp, ho, hr, hl]

/-- A core whose COLL.REDUCE is released at the head of its queue. -/
def reducing : Core :=
  let x := Core.empty.push (encCollReduce 0 1 2 5) (.coll 5) true 0 []
  { x with entries := x.entries.map fun e => { e with done := true } }

theorem witness_CollectiveStreams :
    let d := collective [started 5, started 6] Core.empty
    let fresh := collective [] reducing
    (fresh.clocked = true ∧ fresh.collDesc 5 = some reduction ∧ (fresh.collHeads reduction).isSome = true ∧
      fresh.collPos reduction = some 0 ∧ fresh.collBlocked reduction = false ∧ fresh.job.phase = .running ∧
      fresh.lsHolds (0xC01 + 2 * fresh.collDie 5) = false) ∧
    ((∀ r ∈ (started 5).reports, (started 5).reportCause r = none) ∧ (started 5).check ≠ some false ∧
      reduction.missing (started 5) ≠ none ∧ (0 : Nat) < (started 5).n) ∧
    (d.collHeads reduction = none ∧ d.collBlocked reduction = true) ∧
    (∀ op ∈ ([0x40, 0x41, 0x42, 0x43, 0x44, 0x45] : List (BitVec 8)), ∀ desc ∈ ([5, 6] : List (BitVec 64)),
      (collPacket op desc 1).good = true) ∧
    ((collPacket 0x40 5 1).chan = 2 ∧ (collPacket 0x40 5 1).dst.toNat = d.node ∧ (collPacket 0x40 5 1).key = d.jobKey ∧
      d.job.keyed = true) ∧
    (packetDesc (collPacket 0x40 5 1) = 5 ∧ d.collPosOfNode reduction 5 = some 1) ∧
    (fresh.inv 5 = none ∧ d.inv 5 = some (started 5) ∧ d.inv 6 = some (started 6) ∧ (started 5).n < (collPacket 0x40 5 2).seq.toNat ∧
      (started 5).n = (collPacket 0x40 5 1).seq.toNat) ∧
    (started 5).kids.find? (fun y => y.pos = 1) = some ⟨1, 0, false⟩ := by
  refine ⟨by decide, by decide, by decide, fun op h desc _ => collPacket_good _ _ _ ?_, by decide, by decide, by decide, by decide⟩
  revert op; decide

theorem witness_CollectiveDecisions :
    let i := started 5
    let d := collective [i] Core.empty
    let waits := { i with state := 2 }
    let report := fun (mismatch : Bool) => (⟨1, 9, 0, mismatch, false⟩ : CollReport)
    (d.inv 5 = some i ∧ d.collPos reduction = some 0 ∧ (collective [] Core.empty).invAt 5 1 = none ∧
      i.lateStage = false ∧ i.staged = false ∧ { i with deadline := 0 }.deadline ≤ (1000 : Nat)) ∧
    d.clocked = true ∧ d.rootInv 5 1 = some (reduction, i) ∧ d.rootInv 5 2 = none ∧ i.state = 1 ∧
    d.collPosOfNode reduction 5 = some 1 ∧ reduction.posOf 1 = some 1 ∧ (1000 : Nat) < i.deadline ∧
    ((collPacket 0x44 5 1).op = 0x44 ∧ (collPacket 0x46 5 1).op = 0x46 ∧ (collPacket 0x46 5 1).chan = 2) ∧
    ((i.reportCause (report true)).isSome = true ∧ i.reportCause (report false) = none ∧
      (reduction.missing i).isSome = true ∧
      reduction.missing { i with reports := [⟨0, 9, 0, false, false⟩, report false], staged := true } = none) ∧
    reduction.check = false ∧ { i with next := 1 }.tiles ≤ { i with next := 1 }.next ∧
    (2 ≤ waits.state ∧ waits.unacked ≠ []) ∧ d.collDesc 5 = some reduction ∧
    bitRange (collPacket 0x46 (5 + 0x20 * 2 ^ 12) 1).opword.toNat 19 12 = 0x20 := by decide

/-! ### Hypotheses that are met: how engines take instructions -/

/-- The one instruction `w` in the queue of `g`, its scalars and descriptors captured from `x`. -/
def queueOf (x : Core) (w : InsWord) (g : Eng) : Core := x.push w g true 0 []

/-- How an engine answers the instruction that may leave its queue on core 0: 0 it waits, 1 a fault of Table ENC-16, 2 a
poisoned byte, 3 a fault of the engine's own registers, 4 it starts, 5 it is released; nothing where the predicate is off,
a dependency is open or stop frame or lock-step keep the engines from working. -/
def startKind (d : Dev) (g : Eng) : Option Nat :=
  if !d.working || d.lockstep then none else
  (d.cores[0].next g).bind fun e => if !e.on || !d.cores[0].depsMet e then none else
    match d.startAt (at_ d).clk 0 g e with
    | .wait => some 0
    | .fault _ => some 1
    | .poison _ _ => some 2
    | .raised _ => some 3
    | .go _ _ _ => some 4
    | .released _ => some 5

/-- A descriptor of one tile of I8 beyond the usable tile store. -/
def beyond : TileDesc := tdPut 0 107 64 (48 * 2 ^ 20)

/-- Window 0 names 8 bytes of node 5, to be loaded. -/
def window (d : Dev) : Dev := { d with gmem := { d.gmem with windows := [(0, 2 ^ 23 + 2 ^ 20 + 5 + 8 * 2 ^ 76)] } }

/-- Two members exchange; core 0 has the instruction `w` at the head of its exchange queue. -/
def exchangeOf (w : InsWord) : Dev := { exchanging exchanged with cores := ready.cores.set 0 (queueOf Core.empty w .xch) }

/-- Core 0 of a running job stands as `x`. -/
def coreDev (x : Core) : Dev := (core [] x).dev

theorem witness_QueueHeadStarts_engines :
    startKind (coreDev (queueOf Core.empty (encMoveFill 0 1 ⟨0, 0, false⟩ ⟨0, 0⟩ 3) .loader)) .loader = some 4 ∧
    startKind (coreDev (queueOf Core.empty (encRowSmax 0 1 2 ⟨0, 0⟩ 0 0x1FFF 0) .row)) .row = some 4 ∧
    startKind (coreDev (queueOf Core.empty (encVec2 1 0 1 2 3 ⟨0, 0⟩ 0) .vec)) .vec = some 4 ∧
    startKind (coreDev (queueOf Core.empty (encPalloc 0 1 2) .pail)) .pail = some 4 ∧
    startKind (window (coreDev (queueOf Core.empty (encGmem 0x01 0 1 2 0 3 0) .gmem))) .gmem = some 4 ∧
    startKind { moving tierMove with cores := ready.cores.set 0 (queueOf Core.empty (encTierMove 1 0 2 1) .tier) } .tier = some 4 ∧
    startKind (collective [] (queueOf Core.empty (encCollWait 0 5) (.coll 5))) (.coll 5) = some 4 ∧
    startKind (coreDev (queueOf Core.empty (encSepHash 0 1 2 0 3 0 0) .sep)) .sep = some 5 ∧
    startKind (coreDev (queueOf Core.empty (encChurnSort 0 1 2 0 false 0) .churn)) .churn = some 5 ∧
    startKind (collective [] (queueOf Core.empty (encCollReduce 0 1 2 5) (.coll 5))) (.coll 5) = some 5 := by
  decide +kernel

/-- What stops an instruction at the head: an object that still moves, a tile beyond the store, a poisoned byte, and a window
that is not valid. -/
theorem witness_QueueHeadStarts_stops :
    startKind { moving tierMove with cores := ready.cores.set 0 (queueOf Core.empty (encTierObj 4 0 2) .tier) } .tier = some 0 ∧
    startKind (coreDev (queueOf (Core.empty.setT 2 beyond) loadWord .array)) .array = some 1 ∧
    startKind { coreDev (loading true) with mem := { Mem.empty with poisonTile := [0] } } .array = some 2 ∧
    (let d := coreDev (queueOf Core.empty (encGmem 0x01 0 1 2 0 3 0) .gmem)
     startKind d .gmem = some 3 ∧ ((d.cores[0].next .gmem).bind d.windowCause) = some 1) := by
  decide +kernel

/-- An instruction of the exchange that starts knows its slot and its invocation; of the Separator, one whose predicate is off
stays. -/
theorem witness_QueueHeadStarts_exchange :
    ([encXchDispatch 0 1 0 0, encXchRecv 0 1 0, encXchReturn 0 1 0, encXchCombine 0 1 0 0].all fun w =>
      decide (((exchangeOf w).slotLayer 0).map (·.1) = some xchSlot ∧
        (((exchangeOf w).cores[0].next .xch).bind fun e => (exchangeOf w).invocationOf xchSlot e) = some 0)) = true ∧
    startKind (exchangeOf (encXchDispatch 0 1 0 0)) .xch = some 4 ∧
    startKind (exchangeOf (encXchRecv 0 1 0)) .xch = some 1 ∧
    startKind (exchangeOf (encXchReturn 0 1 0)) .xch = some 4 ∧
    startKind (exchangeOf (encXchCombine 0 1 0 0)) .xch = some 4 ∧
    ((coreDev (Core.empty.push (encSepHash 0 1 2 0 3 0 0) .sep false 0 [])).cores[0].next .sep).map (·.on) = some false := by
  decide +kernel

/-- An instruction `w` of the exchange, an engine's TDPAIL or GATOM, that may retire. -/
def retires (d : Dev) (w : InsWord) (g : Eng) : Dev :=
  let x := queueOf Core.empty w g
  { d with cores := ready.cores.set 0 { x with
      entries := x.entries.map fun e => { e with stage := .running, done := true, due := 1005 } } }

theorem witness_InstructionsRetire_exchange :
    ([encXchDispatch 0 1 0 0, encXchRecv 0 1 0, encXchReturn 0 1 0, encXchCombine 0 1 0 0].all fun w =>
      let d := retires (exchanging exchanged) w .xch
      decide (d.working = true ∧ d.lockstep = false ∧ (d.cores[0].retiring .xch).isSome = true ∧
        wordEng d.order.fabricDies w = some .xch ∧ (d.slotLayer 0).map (·.1) = some xchSlot ∧
        ((d.cores[0].retiring .xch).bind fun e => d.invocationOf xchSlot e) = some 0)) = true ∧
    (let host := (exchanging exchanged).hostOf 0 0
     host.answered = true ∧ xchSlot.cores ≠ [] ∧ ({ host with answered := false }).answered = false) ∧
    xchSlot.final = true := by
  decide +kernel

/-- The head of its queue, an MM.PAIR through plain tiles. -/
theorem witness_AccumulatorRowsAddProducts_pair :
    let d := coreDev (queueOf Core.empty (encMmPair 0 1 2 ⟨0, 0⟩ 0 false) .pairing)
    (d.cores[0].next .pairing).any (fun e => decide (Td.rows e.tdb ≤ 12) &&
      (d.cores[0].setBusy e [2] || (!e.acc && d.cores[0].setBusy e [3]) || d.cores[0].storeAhead e true) = false &&
      (d.checkTiles 0 [(e.tda, rect 0 0 e.nr e.nc), (e.tdb, rect 0 0 (Td.rows e.tdb) e.nc)] []).isNone &&
      (d.cores[0].sets[e.setNo].poison).isNone) = true := by decide +kernel

/-- An MM.STORE of one tile. -/
theorem witness_AccumulatorRowsAddProducts_store :
    let d := coreDev (queueOf Core.empty (encMmStore 0 1 ⟨0, 0, false⟩ ⟨0, 0⟩ 0 0) .array)
    ∃ e, d.cores[0].next .array = some e ∧ e.nr = 1 ∧ e.nc = 1 ∧ PlainTiles e.tdd ∧ d.cores[0].setBusy e [4] = false ∧
      d.cores[0].sets[e.setNo].poison = none ∧ d.checkTiles 0 [] [(e.tdd, rect e.sr e.scol 1 1)] = none :=
  ⟨_, rfl, by decide, by decide, by unfold PlainTiles; decide, by decide, by decide, by decide⟩

/-- An MM.RUN of one tile through a block of one tile. -/
theorem witness_AccumulatorRowsAddProducts_run :
    let d := coreDev { queueOf Core.empty (encMmRun 0 1 ⟨0, 0, false⟩ ⟨0, 0⟩ 0 false 0 0 0) .array with
      cells := [(0, ⟨0, 7, 1, 1, []⟩)] }
    (d.cores[0].next .array).any (fun e => decide (d.cores[0].runBlock = some ⟨0, 7, 1, 1, []⟩ ∧
      (d.cores[0].setBusy e [4] || d.cores[0].storeAhead e true) = false) &&
      (d.checkTiles 0 [(e.tda, rect e.sr e.scol e.nr e.nc)] []).isNone &&
      (d.cores[0].sets[e.setNo].poison).isNone) = true := by decide +kernel

/-- Four tiles of I1, one behind another. -/
def apartTiles : Core := ((Core.empty.setT 2 (tdPut 0 107 64 4096)).setT 3 (tdPut 0 107 64 8192)).setT 4 (tdPut 0 107 64 12288)

/-- VAMAX, VGATE and VOPT over tiles that lie apart. -/
theorem witness_ValidExtent_records :
    ([encVamax 0 1 ⟨0, 0⟩ 5, encVgate 0 1 2 3 ⟨0, 0⟩ 0, encVopt 0 1 2 3 4 ⟨0, 0⟩ 0 5 0].all fun w =>
      let d := coreDev (queueOf apartTiles w .vec)
      let plain := fun (t : TileDesc) => Td.space t ≤ 1 ∧ Td.layout t = 0 ∧ scaleBytes (Td.format t) = 0
      (d.cores[0].next .vec).any (fun e => decide (e.nr = 1 ∧ e.nc = 1 ∧ d.cores[0].idle .vec = true ∧
        d.recordFault 0 e = false ∧ 6 ≤ wOp e.word ∧ wOp e.word ≤ 8 ∧ plain e.tdd ∧ plain e.tdb ∧ plain e.tdc ∧
        (wOp e.word = 8 → [e.tdd, e.tdb, e.tdc].map (fun t => d.spaceAt 0 t (Td.base t) (tileOff t 0 0) (denseBytes t)) =
          [some (.tile 0, 0), some (.tile 0, 8192), some (.tile 0, 12288)] ∧ denseBytes e.tdd = 512)) &&
        (d.checkTiles 0 e.vecTiles.1 e.vecTiles.2).isNone)) = true := by
  decide +kernel

/-- MOVE.FILL, MOVE.TILE, the element by element instructions and a row instruction over tiles at the start of the store. -/
theorem witness_ValidExtent_engines :
    ([encMoveFill 0 1 ⟨0, 0, false⟩ ⟨0, 0⟩ 3, encMoveTile 0 1 2 ⟨0, 0, false⟩ ⟨0, 0⟩ 0].all fun w =>
      let d := coreDev (queueOf Core.empty w .loader)
      (d.cores[0].next .loader).any (fun e => decide (e.nr = 1 ∧ e.nc = 1 ∧ d.cores[0].idle .loader = true ∧
        (Td.space e.tdd ≤ 1 ∧ Td.layout e.tdd = 0 ∧ scaleBytes (Td.format e.tdd) = 0) ∧
        d.checkTiles 0 [] [(e.tdd, rect e.sr e.scol 1 1)] = none ∧
        d.checkTiles 0 [(e.tda, rect e.sr e.scol 1 1)] [(e.tdd, rect 0 0 1 1)] = none))) = true ∧
    (let d := coreDev (queueOf Core.empty (encVec2 1 0 1 2 3 ⟨0, 0⟩ 0) .vec)
     (d.cores[0].next .vec).any (fun e => decide (e.nr = 1 ∧ e.nc = 1 ∧ d.cores[0].idle .vec = true ∧
        (Td.space e.tdd ≤ 1 ∧ Td.layout e.tdd = 0 ∧ scaleBytes (Td.format e.tdd) = 0) ∧ d.recordFault 0 e = false ∧
        1 ≤ wOp e.word ∧ wOp e.word ≤ 5 ∧ d.checkTiles 0 e.vecTiles.1 e.vecTiles.2 = none)) = true) ∧
    (let d := coreDev (queueOf Core.empty (encRowSmax 0 1 2 ⟨0, 0⟩ 0 0x1FFF 0) .row)
     (d.cores[0].next .row).any (fun e => decide (e.nr = 1 ∧ e.nc = 1 ∧ d.cores[0].idle .row = true ∧
        (Td.space e.tdd ≤ 1 ∧ Td.layout e.tdd = 0 ∧ scaleBytes (Td.format e.tdd) = 0)) &&
        (d.statPoison (at_ d).clk 0 e).isNone && (d.checkTiles 0 e.rowTiles.1 e.rowTiles.2).isNone) = true) := by
  decide +kernel

/-- A Pail request that faults: no FREE Pail in the share, a second free, a free or a share of another core's Pail, a free of
a Pail that the final owner frees in this control cycle; a request of the Churn, the frees of a final XCH.DISPATCH, and a
request while the job drains. -/
theorem witness_PailRequests_rest :
    let full : Sparse PailState := [(2 ^ 31, .held 1), (2 ^ 31 + 1, .held 1)]
    ([(full, PailReq.alloc 0 1 256), (([] : Sparse PailState), .release 0 5), ([(5, .held 3)], .release 0 5),
        ([(5, .shared 3)], .release 0 5), ([(5, .landed)], .release 0 5), ([(5, .returning 3 100)], .release 0 5),
        ([(5, .held 3)], .share 0 5 1), ([], .churn 0 0), (full, .churn 0 0),
        ([(5, .held 0), (6, .shared 0)], .dispatch 0 [5, 6])].all fun x =>
      let d := (pails x.1 x.2).dev
      decide (d.clocked = true ∧ d.job.abort = false ∧ d.nextRequest 0 = some x.2 ∧ d.rd .pailFaultCode = 0)) = true ∧
    (let d := (pails full (.alloc 0 1 256)).dev
     d.image.bind (fun m => d.lowestFree 0 (m.pailHome 0 0) (m.shareFirst 0 0) (m.share 0 0)) = none) ∧
    (pails [] (.release 0 5)).dev.pailState 5 = .free ∧ (pails [(5, .held 3)] (.release 0 5)).dev.pailState 5 = .held 3 ∧
    (pails [(5, .landed)] (.release 0 5)).dev.pailState 5 = .landed ∧
    (pails [(5, .returning 3 100)] (.release 0 5)).dev.pailState 5 = .returning 3 100 ∧
    ([5, 6] : List Nat).Nodup ∧ (pails [] (.churn 0 0)).dev.churn[dieOf 0] = none := by
  decide +kernel

/-! ### Hypotheses that are met: clauses beside these -/

/-- Core 0 with `w` at the head of its exchange queue, through a descriptor of one tile in the layer's row format. -/
def takesRows (w : InsWord) : Dev :=
  { exchanging exchanged with cores := ready.cores.set 0 (queueOf (Core.empty.setT 1 (tdPut 0 12 8 2)) w .xch) }

theorem witness_QueueHeadStarts_receive : startKind (takesRows (encXchRecv 0 1 0)) .xch = some 4 := by decide +kernel

/-- Copies whose tiles can be read, and copies one of whose tiles lies beyond the store. -/
theorem witness_DieCollectives_tiles :
    let w := encSepHash 0 1 2 0 3 0 0
    let found := fun (s : State) => ((s.dev.copies 0 .sep).getD []).map fun p =>
      (s.dev.checkTiles (coreOf 0 p.1) (s.dev.copyTiles (coreOf 0 p.1) p.2).1 (s.dev.copyTiles (coreOf 0 p.1) p.2).2).isNone
    let s := copies .sep w w
    found s = [true, true, true, true] ∧
    found (at_ { s.dev with mem := { Mem.empty with poisonTile := [2 ^ 26] } }) = [true, false, true, true] := by
  decide +kernel

/-- Four copies of a CHURN instruction `w` over a list of one token with one expert, of a layer of rows 64 wide. -/
def churning (w : InsWord) : State :=
  let y := apartTiles.push w .churn true 0 [] [(churnCount, 1), (churnK, 1)]
  let x := { y with entries := y.entries.map fun e => { e with done := true } }
  let d := exchanging Xch.empty
  at_ { d with
    cores := (((ready.cores.set 0 x).set 1 x).set 2 x).set 3 x
    image := d.image.map fun m => { m with form := { m.form with xch := some ⟨[{ xchLayer with width := 64 }], [xchSlot]⟩ } } }

theorem witness_DieCollectives_churn :
    (let s := churning (encChurnSort 0 1 2 0 false 0)
     let cs := (s.dev.copies 0 .churn).getD []
     cs.length = 4 ∧ copyDiffers cs = none ∧ s.dev.churnIdle 0 = true ∧ cs.all (fun p => wOp p.2.word == 1) = true ∧
     cs.all (fun p => (s.dev.checkTiles (coreOf 0 p.1) (s.dev.copyTiles (coreOf 0 p.1) p.2).1
       (s.dev.copyTiles (coreOf 0 p.1) p.2).2).isNone) = true ∧
     cs.all (fun p => acceptedOf (s.dev.listWords (coreOf 0 p.1) p.2.tda p.2.tokens p.2.topk) == [⟨0, 0, 0, 0⟩] &&
       ((s.dev.churnXch p.2).host 0).isSome) = true) ∧
    sortCopy xchLayer false [⟨0, 0, 0, 0⟩] = [(0, 0, [0])] ∧ xchLayer.host 0 = some 0 ∧ 0 < xchLayer.g := by
  decide +kernel

theorem witness_DieCollectives_restore :
    let d := (churning (encChurnRestore 0 1 2 3 0)).dev
    (d.cores[0].next .churn).any (fun e => decide (d.restoreRows 0 e = [some 0] ∧ (d.churnXch e).width = 64 ∧
      e.tokens * e.topk ≤ 64 ∧ Td.format e.tda = Td.format e.tdd ∧ bitRange (d.listWord 0 e.tdb 0 0) 15 14 = 0 ∧
      [e.tdd, e.tda].map (fun t => d.spaceAt 0 t (Td.base t) (tileOff t 0 0) (denseBytes t)) =
        [some (.tile 0, 0), some (.tile 0, 4096)] ∧ denseBytes e.tdd = 512) &&
      (d.checkTiles 0 [] [(e.tdd, rect 0 0 1 1)]).isNone) = true := by
  decide +kernel

/-- Under lock-step an MM.LOAD starts, and is held while its stream has 64 chunks that are not confirmed. -/
theorem witness_TwinModeAndLockstepMessages_engines :
    let stands := fun (t : Twin) => ({ twins t with cores := ready.cores.set 0 (loading true) } : Dev)
    let d := stands Twin.empty
    let h := stands { Twin.empty with chunks := List.replicate 64 { chunk with stream := 0 } }
    d.working = true ∧ d.lockstep = true ∧ (d.cores[0].next .array).any (fun e => e.on && d.cores[0].depsMet e &&
      match d.startHashed (at_ d).clk 0 .array e with | .go _ _ _ => true | _ => false) = true ∧
    d.unconfirmed (engineId (some .array) 0) = 0 ∧ h.lockstep = true ∧ h.unconfirmed (engineId (some .array) 0) = 64 := by
  decide +kernel

/-- A SEP.HASH over one identifier. -/
theorem witness_HashSelectsExperts :
    let d := coreDev (queueOf Core.empty (encSepHash 0 1 2 0 3 0 0) .sep)
    (d.cores[0].next .sep).any (fun e => decide (e.sepHash = true ∧ 0 < e.sepCount ∧ e.sepLayer = 0 ∧ e.sepN = 4 ∧
      e.sepK = 1 ∧ e.sc (wbits e.word 71 67) = 0 ∧ (d.readTile 0 e.tda 0 0).codes.getD 0 0 = 0)) = true ∧
    (let t : SepTok := ⟨0, 0, (hashToken 0 0 4 1 0).map (fun x => (x, 5)), false, 0⟩
     t.degenerate = false ∧ 4 ≤ (List.replicate 4 0).length) := by
  decide +kernel

/-- The record's place in device HBM is one range, and no byte of the layer's capacity state is poisoned. -/
theorem witness_CapacityChain_place :
    let p : SepPart := ⟨0, [⟨0, 8, true, []⟩]⟩
    let d := job (object { form [] with sep := some p })
    let r : SepRun := ⟨0, false, 0, 8, 0, [], [], [], 0, 0⟩
    d.hbmRuns (p.recordAt 0 0) 48 = some [(p.recordAt 0 0, 48)] ∧ (d.capAddr r).isSome = true ∧
      ((d.capAddr r).bind fun a => d.poisonAt .hbm a (4 * r.experts)) = none := by
  decide +kernel

/-- The counter is not LOCKED, and a lock-step job without the twin's arm record. -/
theorem witness_ArmAndLaunch_refused :
    let unset := (phase .admitted).wr .tickLaunchLo 100144
    let twin := { armable .admitted 100144 with image := some (object { form [] with twin := some (2, 0) }) }
    (open_ unset 0x10 0x20 1).PairReady .mgmt false 0x10 0x20 1 ⟨.tick, 0, 1⟩ ∧ unset.lockedForArm = false ∧
    (open_ twin 0x10 0x20 1).PairReady .mgmt false 0x10 0x20 1 ⟨.tick, 0, 1⟩ ∧ twin.lsJob = true ∧
    twin.lockedForArm = true ∧ ((open_ twin 0x10 0x20 1).paired .mgmt false 0x10 0x20).armField ≠ 0 := by
  refine ⟨pairs _ _ _ _ _ (by decide) (by decide) (by decide) (by decide) (by decide), by decide,
    pairs _ _ _ _ _ (by decide) (by decide) (by decide) (by decide) (by decide), by decide, by decide, by decide +kernel⟩

/-- A drain that has not ended, and a package power one watt above its target and at it. -/
theorem witness_FramePhases_rest :
    let f := (phase .running).frame
    let at1000 := fun (w : Nat) => { (phase .running).wr .pwrCapW 1000 with pwr := { Pwr.empty with watts := w } }
    ({ frame f with job := { Job.idle with phase := .draining } } : Dev).frame.opened = true ∧
    (at1000 1001).overTarget = true ∧ (at1000 1000).pwr.watts ≤ (at1000 1000).rd .pwrCapW ∧
    (at1000 1000).junction ≤ ((4 * (at1000 1000).rd .pwrTjTarget : Nat) : Int) ∧
    (at1000 1001).issuing (at_ (at1000 1001)).clk = true ∧ Sparse.rising none ended.acc = true := by decide +kernel

/-- Sixty-four chunks of the builder's stream that the twin has not confirmed. -/
theorem witness_HerdIntakeRecords_held :
    let m := object { form [] with twin := some (2, 0), herd := some herdPart }
    let d := { herd [] (intake 1 0) with
      image := some m
      twin := { Twin.empty with chunks := (List.range 64).map fun i => ⟨0xE00, 0, i, 0, []⟩ } }
    d.lsHolds 0xE00 = true ∧ d.herdPart = some herdPart ∧ (herd [] (intake 1 0)).lsHolds 0xE00 = false ∧
    ((d.herd.opening.map fun o => o.todo) = some [intake 1 0]) := by decide +kernel

/-- Every port has its eight queues; the load that the answer is for can still land, or its Pail has been freed. -/
theorem witness_GlobalRequestsRepeatedAndAnswered_lands :
    let w := encGmem 0x01 0 1 2 0 3 0
    let d := coreDev (queueOf Core.empty w .gmem)
    let freed := coreDev (queueOf (Core.empty.setT 1 (tdPut 0 3 0 3)) w .gmem)
    (∀ i : Fin 81, (asking (asked false 0 (.core 0 0 0 0))).fab.ports[i].queues.length = 8) ∧
    ((d.cores[0].entries.find? fun e => e.seq = 0).bind fun e => d.gmemLocal 0 e).isSome = true ∧
    ((freed.cores[0].entries.find? fun e => e.seq = 0).bind fun e => freed.gmemLocal 0 e).isNone = true := by
  decide +kernel

/-- The join has been accepted, with the counter LOCKED and not. -/
theorem witness_ResetAndStart_join :
    let d := { starting .joining [8] with sec := { Sec.empty with fixed := true } }
    let root := d.wr .tickSyncRoot 1
    d.start.expects 9 = true ∧ d.sec.fixed = true ∧ d.syncState ≠ .locked ∧ root.start.expects 9 = true ∧
      root.syncState = .locked ∧ ({ starting .joining [9] with sec := d.sec } : Dev).start.expects 8 = true := by decide

/-- A Cellar copy reads pages of an object that lie in host memory. -/
theorem witness_HostEndpoint_image :
    let d := { (moving { tierMove with far := [(0, 0)] }).wr .tierSrcKind 2 with
      tier := { Tier.empty with objs := [⟨true, 1000, 0, 1, 0, 0, 2, [], [(0, 0)], none, none, [], false, 0⟩] }
      snap := { Snap.empty with run := some ⟨3, true, false, none, [], [(0, [])], [], 0⟩ } }
    (d.tier.objs[0]?.map fun x => decide (x.move = none ∧ d.imageReads? 0 x = [1])) = some true := by decide +kernel

/-- An object of one section, OBJECTS, signed like `acceptance`: it holds no form. -/
def formless : List Byte :=
  let entry := [0x57] ++ List.replicate 63 0 ++ [0, 0, 1] ++ List.replicate 5 0 ++ leBytes 8 64 ++
    (List.replicate 3 (leBytes 8 1)).flatten ++ List.replicate 41 0 ++ [1, 0xFF, 0] ++ leBytes 4 0 ++ leBytes 8 4096 ++
    List.replicate 96 0
  let objects := leBytes 4 1 ++ List.replicate 12 0 ++ entry
  let section_ := fun (kind off len : Nat) => leBytes 8 kind ++ leBytes 8 off ++ leBytes 8 len ++ leBytes 8 0
  ascii "TYNILOBJ" ++ leBytes 2 1 ++ [1, 0] ++ leBytes 4 2 ++ leBytes 8 665 ++ List.replicate 40 0 ++
    section_ 3 128 272 ++ section_ 15 400 265 ++ objects

/-- Its signature section, and what a load of it finds. -/
def formlessSigned : List Byte :=
  let r := (p521G.map (·.1)).getD 0 % p521n
  formless ++ beBytes 66 r ++ beBytes 66 ((beNat (sha512 formless) + r) % p521n) ++ ecEncode p521G

/-- A load that finds zeros is refused by check 1; the signed object passes it, and has no form for the device. -/
theorem witness_JobEnds_checks :
    let d := phase .loading
    d.loadedRange.1 = [] ∧ (match checkOne [] [] with | .error e => decide (e = .level 1) | .ok _ => false) = true ∧
    (match checkOne [sha512 (ecEncode p521G)] formlessSigned with
     | .ok o => (match d.chooseForm o with | .error e => decide (e = .level 3) | .ok _ => false)
     | .error _ => false) = true := by
  decide +kernel

/-- The manager at node 9, every port with its eight queues, and a quote that a request asked for. -/
theorem witness_SecurityMessages_mails :
    let d := { joined.wr .secJoinFm 9 with sec := { joined.sec with quote := some ⟨false, [7]⟩ } }
    d.rd .secJoinFm = (9 : BitVec 16).toNat ∧ (∀ i : Fin 81, d.fab.ports[i].queues.length = 8) ∧
    (d.sec.quote.map fun q => q.commanded) = some false ∧ joining.joins = true ∧ opSealed 0x73 = true ∧
    (ready.sec.fixed = false ∧ ready.mayQuote = true ∧ ready.sec.queued.length < 16) ∧
    ((joined.reportOf 9).map fun r => r.kind) = some 2 := by decide +kernel

/-- The result tiles of a core's COLL.REDUCE are open; a member's node; every port has its eight queues. -/
theorem witness_CollectiveDecisions_rest :
    let d := collective [started 5] (queueOf Core.empty (encCollReduce 0 1 2 5) (.coll 5))
    ((d.collEntry 0 0).map fun e =>
      (d.checkTiles 0 [] [(e.tdd, (List.range 1).map fun n => (n / Td.cols e.tdd, n % Td.cols e.tdd))]).isNone) = some true ∧
    d.collNode reduction 1 = (5 : BitVec 16).toNat ∧ (∀ i : Fin 81, d.fab.ports[i].queues.length = 8) ∧
    reduction.missing (started 5) ≠ none := by decide +kernel

/-- Reset, and the machine after the rails have been sampled. -/
theorem witness_MemoriesReadBack_steps :
    State.reset.dev.mem.wf = true ∧ Sparse.rising none State.reset.dev.acc = true ∧
    (∃ t, step { State.reset with pending := [.railSample 31 0] } = .next t) :=
  ⟨by decide +kernel, by decide, _, rfl⟩

/-! ### Hypotheses that are met: the machine as a whole -/

theorem witness_StepTakesFrontCommand : ({ State.reset with pending := [.refclkStart] } : State).pending = [.refclkStart] := rfl

theorem witness_QueueIsFirstInFirstOut : State.reset.pending = [] ∧ State.reset.clk.rate = 0 ∧
    State.reset.clk.phase < countParts := ⟨rfl, rfl, by decide⟩

theorem witness_StoppedClocksKept : State.reset.Stopped ∧ ∃ t, step State.reset = .next t := ⟨⟨by decide, by decide⟩, _, rfl⟩

/-- The widths 1 and 16, and the least and the largest scale byte. -/
theorem witness_NarrowingAndScales : (1 ≤ 1 ∧ 1 ≤ 16) ∧ (1 ≤ 16 ∧ 16 ≤ 16) ∧ 0 < 256 ∧ 255 < 256 := by decide

theorem witness_MemoriesReadBack :
    (Memory.wf [(3, 5)] = true ∧ Memory.wf [] = true) ∧ Memory.wf [(3, 0)] = false ∧ Memory.wf [(3, 5), (2, 5)] = false := by
  decide

/-- The same word for the same command only: another core, another predicate. -/
theorem witness_TynilWordsAreDistinct : (Instr.nop 0 0).word = some (0, encNop 0) ∧ (Instr.nop 0 1).word = some (0, encNop 1) ∧
    encNop 0 ≠ encNop 1 := by decide

end Sys2Proof.Tests
end

section
/-! SUPPORT. What the bookkeeping of a write of control space leaves alone, and what entering a job state and sending an
arm record leave alone. -/

namespace Sys2Proof.Machine

open Sys2Proof

/-! ### Fields -/

/-- A field is known by its number. -/
theorem Fld.num_inj {f g : Fld} (h : f.num = g.num) : f = g := by
  rw [← Fld.ofNat_ctorIdx f, ← Fld.ofNat_ctorIdx g]
  exact congrArg Fld.ofNat h

/-- Of fields that a block has once, a write of one leaves the others. -/
theorem Dev.rd_wr_field (d : Dev) {f g : Fld} (v : Nat) (h : g.num ≠ f.num) : (d.wr f v).rd g = d.rd g :=
  d.rd_wr_num f g v 0 0 0 0 h (by decide) (by decide) (by decide) (by decide)

/-! ### The bookkeeping of a write (R414, R420) -/

/-- `e` differs from `d` at most in the common registers, the control of pages and the fields noted as updated. -/
structure Dev.Records (d e : Dev) : Prop where
  rest : e = { d with regs := e.regs, ctl := e.ctl, updated := e.updated }
  rd : ∀ f i j, f.row.blk ≠ .common → i < 128 → j < 64 → e.rd f i j = d.rd f i j

theorem Dev.Records.trans {a b c : Dev} (h : a.Records b) (g : b.Records c) : a.Records c where
  rest := by rw [g.rest, h.rest]
  rd f i j hf hi hj := (g.rd f i j hf hi hj).trans (h.rd f i j hf hi hj)

theorem Dev.Records.job {d e : Dev} (h : d.Records e) : e.job = d.job := by rw [h.rest]
theorem Dev.Records.image {d e : Dev} (h : d.Records e) : e.image = d.image := by rw [h.rest]
theorem Dev.Records.mem {d e : Dev} (h : d.Records e) : e.mem = d.mem := by rw [h.rest]
theorem Dev.Records.cores {d e : Dev} (h : d.Records e) : e.cores = d.cores := by rw [h.rest]

theorem Dev.records_wr (d : Dev) {f : Fld} (v : Nat) {i : Nat} (hf : f.row.blk = .common) (hi : i < 128) :
    d.Records (d.wr f v i) where
  rest := rfl
  rd g i' j' hg hi' hj' :=
    d.rd_wr_num f g v i 0 i' j' (fun e => hg (Fld.num_inj e ▸ hf)) hi hi' (by decide) hj'

theorem Dev.records_flag (d : Dev) {f : Fld} {i : Nat} (hf : f.row.blk = .common) (hi : i < 128) :
    d.Records (d.flag f i) :=
  (d.records_wr 1 hf hi).trans ⟨rfl, fun _ _ _ _ _ _ => rfl⟩

/-- Noting the last write of a page changes common registers of the page only. -/
theorem Dev.records_noteLast (d : Dev) {p : Page} (hp : p.idx < 128) (w : MasterWrite) (result : Nat) (winner : Master) :
    d.Records (d.noteLast p w result winner) := by
  have words := (((d.records_wr (f := .blkLwOffset) w.off rfl hp).trans
    (Dev.records_wr _ (f := .blkLwMaster) w.master.code rfl hp)).trans
    (Dev.records_wr _ (f := .blkLwResult) result rfl hp)).trans
    (Dev.records_wr _ (f := .blkLwWinner) winner.code rfl hp)
  unfold Dev.noteLast
  dsimp only
  split
  · exact words.trans (Dev.records_flag _ rfl hp)
  · exact words

/-- A completed pair finds the device with its guard sequence closed and the write noted. -/
theorem State.records_paired (s : State) (m : Master) (same : Bool) (page off : Nat) :
    s.dev.Records (s.paired m same page off) := ⟨rfl, fun _ _ _ _ _ _ => rfl⟩

/-! ### Entering a job state (R68) -/

theorem Dev.setPhase_job (d : Dev) (p : JobPhase) : (d.setPhase p).job = { d.job with phase := p } := by
  obtain ⟨e, -, h⟩ := d.setPhase_eq p
  rw [h]
  split
  · next hp => rw [← hp]
  · rfl

/-- What entering a job state leaves: the placed job, the memories, the cores and every register without a host event. -/
theorem Dev.setPhase_keeps (d : Dev) (p : JobPhase) :
    (d.setPhase p).image = d.image ∧ (d.setPhase p).mem = d.mem ∧ (d.setPhase p).cores = d.cores ∧
      ∀ f i j, f.isEvent = false → i < 128 → j < 64 → (d.setPhase p).rd f i j = d.rd f i j := by
  obtain ⟨e, he, h⟩ := d.setPhase_eq p
  rw [h]
  split
  · exact ⟨rfl, rfl, rfl, fun _ _ _ _ _ _ => rfl⟩
  · exact ⟨he.image, he.mem, he.cores, he.rd⟩

/-! ### The arm record (R377) -/

theorem Dev.sends_sendArm (d : Dev) (k : Clock) : d.Sends (d.sendArm k) := by
  unfold Dev.sendArm
  split
  · exact (Dev.Sends.refl d).foldl _ fun _ _ g => g.sendOneHop ..
  · exact .refl d

end Sys2Proof.Machine
end

section
/-! SUPPORT. The disarm command of TICK_ARM_CMD (R50). -/

namespace Sys2Proof.Machine

open Sys2Proof

/-! ### TICK_ARM_CMD on its page -/

/-- The page of the tick block is the same for every master that reaches it. -/
theorem Dev.openPage_tick {d : Dev} {m : Master} {p : Page} (h : d.openPage 0x10 m = some p) : p = ⟨.tick, 0, 1⟩ := by
  obtain ⟨hp, -⟩ := Option.filter_eq_some_iff.mp h
  exact (Option.some.inj hp).symm

theorem fields_tickArmCmd :
    (Page.fields ⟨.tick, 0, 1⟩ 0x20).filter (fun x => Page.holds ⟨.tick, 0, 1⟩ x.1) = [(.tickArmCmd, 0)] := by
  decide

/-- A completed 0b10 of TICK_ARM_CMD is the disarm command; the register takes the value where the command is not
ignored. -/
theorem Dev.writePair_disarm (d : Dev) (k : Clock) :
    d.writePair k ⟨.tick, 0, 1⟩ 0x20 2 =
      if (d.disarmCommand k).2 then ((d.disarmCommand k).1.wr .tickArmCmd 2, true) else d.disarmCommand k := by
  have hw1c : [((.tickArmCmd : Fld), 0)].filter (fun x => x.1.row.access = .w1c) = [] := rfl
  have hwg : [((.tickArmCmd : Fld), 0)].filter (fun x => x.1.row.access = .wg) = [(.tickArmCmd, 0)] := rfl
  unfold Dev.writePair
  dsimp only
  rw [fields_tickArmCmd, hw1c, hwg]
  have heffect : (d.writeFields ⟨.tick, 0, 1⟩ true [] 2).pairEffect k ⟨.tick, 0, 1⟩ 0x20 2 = some (d.disarmCommand k) := rfl
  rw [heffect]
  obtain ⟨e, b⟩ := d.disarmCommand k
  cases b <;> rfl

/-! ### What a disarm is about -/

/-- `e` holds what `d` holds of the job, its launch count and its fault. -/
structure Dev.KeepsLaunch (d e : Dev) : Prop where
  job : e.job = d.job
  launchLo : e.rd .tickLaunchLo = d.rd .tickLaunchLo
  launchHi : e.rd .tickLaunchHi = d.rd .tickLaunchHi
  fault : e.rd .jobStateFault = d.rd .jobStateFault
  image : e.image = d.image
  mem : e.mem = d.mem
  cores : e.cores = d.cores

theorem Dev.KeepsLaunch.refl (d : Dev) : d.KeepsLaunch d := by constructor <;> rfl

theorem Dev.KeepsLaunch.trans {a b c : Dev} (h : a.KeepsLaunch b) (g : b.KeepsLaunch c) : a.KeepsLaunch c where
  job := g.job.trans h.job
  launchLo := g.launchLo.trans h.launchLo
  launchHi := g.launchHi.trans h.launchHi
  fault := g.fault.trans h.fault
  image := g.image.trans h.image
  mem := g.mem.trans h.mem
  cores := g.cores.trans h.cores

theorem Dev.KeepsLaunch.launchCount {d e : Dev} (h : d.KeepsLaunch e) : e.launchCount = d.launchCount := by
  simp only [Dev.launchCount, Dev.rd64, h.launchLo, h.launchHi]

theorem Dev.Records.keepsLaunch {d e : Dev} (h : d.Records e) : d.KeepsLaunch e where
  job := h.job
  launchLo := h.rd _ _ _ (by decide) (by decide) (by decide)
  launchHi := h.rd _ _ _ (by decide) (by decide) (by decide)
  fault := h.rd _ _ _ (by decide) (by decide) (by decide)
  image := h.image
  mem := h.mem
  cores := h.cores

theorem Dev.Sends.keepsLaunch {d e : Dev} (h : d.Sends e) : d.KeepsLaunch e where
  job := h.job
  launchLo := h.rd ..
  launchHi := h.rd ..
  fault := h.rd ..
  image := h.image
  mem := h.mem
  cores := h.cores

theorem Dev.keepsLaunch_wr_armCmd (d : Dev) (v : Nat) : d.KeepsLaunch (d.wr .tickArmCmd v) where
  job := rfl
  launchLo := d.rd_wr_field v (by decide)
  launchHi := d.rd_wr_field v (by decide)
  fault := d.rd_wr_field v (by decide)
  image := rfl
  mem := rfl
  cores := rfl

/-- `e` is `d` with its job back in ADMITTED and no launch count. -/
structure Dev.Disarmed (d e : Dev) : Prop where
  job : e.job = { d.job with phase := .admitted }
  launchLo : e.rd .tickLaunchLo = 0
  launchHi : e.rd .tickLaunchHi = 0
  fault : e.rd .jobStateFault = d.rd .jobStateFault
  image : e.image = d.image
  mem : e.mem = d.mem
  cores : e.cores = d.cores

theorem Dev.Disarmed.launchCount {d e : Dev} (h : d.Disarmed e) : e.launchCount = 0 := by
  simp [Dev.launchCount, Dev.rd64, h.launchLo, h.launchHi]

/-- A disarm stays one with what keeps the job and the launch count before and behind it. -/
theorem Dev.Disarmed.between {a d e t : Dev} (before : a.KeepsLaunch d) (h : d.Disarmed e) (behind : e.KeepsLaunch t) :
    a.Disarmed t where
  job := by rw [behind.job, h.job, before.job]
  launchLo := behind.launchLo.trans h.launchLo
  launchHi := behind.launchHi.trans h.launchHi
  fault := (behind.fault.trans h.fault).trans before.fault
  image := (behind.image.trans h.image).trans before.image
  mem := (behind.mem.trans h.mem).trans before.mem
  cores := (behind.cores.trans h.cores).trans before.cores

/-! ### The command before and after the launch count -/

/-- Clearing the launch count and entering ADMITTED disarms the job. -/
theorem Dev.disarmed_setPhase (d : Dev) : d.Disarmed ((d.wr64 .tickLaunchLo .tickLaunchHi 0).setPhase .admitted) := by
  obtain ⟨himage, hmem, hcores, hrd⟩ := (d.wr64 .tickLaunchLo .tickLaunchHi 0).setPhase_keeps .admitted
  constructor
  case job => exact Dev.setPhase_job ..
  case launchLo =>
    rw [hrd _ 0 0 (by decide) (by decide) (by decide), Dev.wr64, Dev.rd_wr_field _ _ (by decide), Dev.rd_wr_same]
    rfl
  case launchHi => rw [hrd _ 0 0 (by decide) (by decide) (by decide), Dev.wr64, Dev.rd_wr_same]; rfl
  case fault =>
    rw [hrd _ 0 0 (by decide) (by decide) (by decide), Dev.wr64, Dev.rd_wr_field _ _ (by decide),
      Dev.rd_wr_field _ _ (by decide)]
  case image => exact himage
  case mem => exact hmem
  case cores => exact hcores

/-- Before the launch count, the command of an ARMED job is taken and disarms it. -/
theorem Dev.disarmCommand_early {d : Dev} {k : Clock} (hp : d.job.phase = .armed) (ha : d.job.abort = false)
    (hl : k.count < d.launchCount) : (d.disarmCommand k).2 = true ∧ d.Disarmed (d.disarmCommand k).1 := by
  have heq : d.disarmCommand k = (((d.wr64 .tickLaunchLo .tickLaunchHi 0).setPhase .admitted).sendArm k, true) := by
    simp [Dev.disarmCommand, hp, ha, hl]
  rw [heq]
  exact ⟨rfl, .between (.refl d) d.disarmed_setPhase (Dev.sends_sendArm ..).keepsLaunch⟩

/-- At or after the launch count, the command is ignored. -/
theorem Dev.disarmCommand_late {d : Dev} {k : Clock} (hl : d.launchCount ≤ k.count) : d.disarmCommand k = (d, false) := by
  simp [Dev.disarmCommand, hl]

/-! ### The command on the machine -/

/-- The machine after a disarm: what the completed pair makes of the device, but for what is noted and sent. -/
theorem exec_disarm_ready {s : State} {m : Master} {same : Bool} {p : Page} (h : s.PairReady m same 0x10 0x20 2 p) :
    let k := s.writeClock m same 0x10
    let r := (s.paired m same 0x10 0x20).writePair k ⟨.tick, 0, 1⟩ 0x20 2
    ∃ t, exec (.disarm m same) s = .next { s with clk := k, dev := t } ∧ r.1.KeepsLaunch t := by
  obtain rfl := Dev.openPage_tick h.reaches.opened
  exact ⟨_, State.writeComplement_ready h,
    (Dev.records_noteLast _ (by decide) ..).keepsLaunch.trans (Dev.sends_sendRaised ..).keepsLaunch⟩

/-- Where no launch count stands, the event of its being reached changes nothing. -/
theorem exec_launchCountReached_of_zero {s : State} (h : s.dev.launchCount = 0) :
    exec .launchCountReached s = .next s := by
  show execLaunchCountReached s = _
  unfold execLaunchCountReached
  exact State.act_none (by simp [h])

end Sys2Proof.Machine

namespace Sys2Proof

open Machine

/-- Settles O32: the completed pair is the disarm command, which either disarms the job or is ignored, and everything
around it is bookkeeping of the write and sending. -/
theorem disarmReturnsToAdmitted : Obligations.DisarmReturnsToAdmitted := by
  intro s m same p hready hphase habort k
  have hpaired := (s.records_paired m same 0x10 0x20).keepsLaunch
  obtain ⟨t, hexec, hafter⟩ := exec_disarm_ready hready
  refine ⟨t, hexec, fun hearly => ?_, fun hlate => ?_⟩
  · obtain ⟨htaken, hdis⟩ := Dev.disarmCommand_early (d := s.paired m same 0x10 0x20) (k := k)
      (by rw [hpaired.job, hphase]) (by rw [hpaired.job, habort]) (by rwa [hpaired.launchCount])
    rw [Dev.writePair_disarm, if_pos htaken] at hafter
    have h := hdis.between hpaired ((Dev.keepsLaunch_wr_armCmd _ 2).trans hafter)
    exact ⟨h.job, h.launchLo, h.launchHi, h.fault, h.image, h.mem, h.cores,
      exec_launchCountReached_of_zero h.launchCount⟩
  · rw [Dev.writePair_disarm, Dev.disarmCommand_late (by rwa [hpaired.launchCount])] at hafter
    have h := hpaired.trans hafter
    exact ⟨h.job, h.launchLo, h.launchHi, h.mem, h.cores⟩

end Sys2Proof
end

section
/-! SUPPORT. The experts that SEP.HASH selects, the tokens of a copy of it, and what the capacity stage makes of such a
token (R184, R187). -/

namespace Sys2Proof.Machine

open Sys2Proof

/-! ### The message of the hash -/

/-- The bytes of a number and of one above it stand behind each other. -/
theorem leBytes_add (a b v u : Nat) (hv : v < 256 ^ a) :
    leBytes (a + b) (v + 256 ^ a * u) = leBytes a v ++ leBytes b u := by
  induction a generalizing v with
  | zero =>
    obtain rfl : v = 0 := by omega
    simp [leBytes]
  | succ a ih =>
    have hpow : 256 ^ (a + 1) * u = 256 * (256 ^ a * u) := by ring
    have hhead : BitVec.ofNat 8 (v + 256 * (256 ^ a * u)) = BitVec.ofNat 8 v := by
      apply BitVec.eq_of_toNat_eq
      simp
    have htail : (v + 256 * (256 ^ a * u)) / 256 = v / 256 + 256 ^ a * u := by omega
    rw [Nat.add_right_comm, hpow, leBytes, hhead, htail, ih _ (by omega)]
    rfl

/-- The candidate of rank `j` (R187): the upper half of the hash of the identifier and `j`, scaled to `n`. -/
def hashCandidate (salt : Scalar) (layer n ident j : Nat) : Nat :=
  (sipHash salt (BitVec.ofNat 64 layer) (leBytes 4 ident ++ [BitVec.ofNat 8 j, 0, 0, 0])).toNat / 2 ^ 32 * n / 2 ^ 32

theorem hashCandidate_lt {n : Nat} (hn : 0 < n) (salt : Scalar) (layer ident j : Nat) :
    hashCandidate salt layer n ident j < n := by
  have hupper : (sipHash salt (BitVec.ofNat 64 layer) (leBytes 4 ident ++ [BitVec.ofNat 8 j, 0, 0, 0])).toNat / 2 ^ 32
      < 2 ^ 32 := Nat.div_lt_of_lt_mul (BitVec.isLt _)
  exact Nat.div_lt_of_lt_mul (Nat.mul_lt_mul_of_pos_right hupper hn)

/-- The eight bytes hashed for an identifier and a rank. -/
theorem leBytes_identifier_rank {ident j : Nat} (hident : ident < 2 ^ 32) (hj : j < 256) :
    leBytes 8 (ident % 2 ^ 32 + j * 2 ^ 32) = leBytes 4 ident ++ [BitVec.ofNat 8 j, 0, 0, 0] := by
  have hrank : leBytes 4 j = [BitVec.ofNat 8 j, 0, 0, 0] := by
    simp [leBytes, Nat.div_eq_of_lt hj]
  rw [Nat.mod_eq_of_lt hident, Nat.mul_comm, ← hrank]
  exact leBytes_add 4 4 ident j hident

/-! ### Moving a candidate on until it is distinct -/

/-- Of `n` values modulo `n` that follow each other, one is not among fewer than `n` chosen ones. -/
theorem exists_probe_notMem {n : Nat} {chosen : List Nat} (hlen : chosen.length < n) (c : Nat) :
    ∃ l, l < n ∧ (c + l) % n ∉ chosen := by
  by_contra! hall
  have hnodup : ((List.range n).map fun l => (c + l) % n).Nodup := by
    refine List.nodup_range.map_on fun l hl l' hl' heq => ?_
    exact (Nat.ModEq.add_left_cancel' c heq).eq_of_lt_of_lt (List.mem_range.1 hl) (List.mem_range.1 hl')
  have hsub : ((List.range n).map fun l => (c + l) % n) ⊆ chosen := by
    intro x hx
    obtain ⟨l, hl, rfl⟩ := List.mem_map.1 hx
    exact hall l (List.mem_range.1 hl)
  have hle : n ≤ chosen.length := by simpa using (hnodup.subperm hsub).length_le
  omega

/-- With fuel `f` the candidate moves on past chosen values, to the first that is not chosen if the fuel reaches it. -/
theorem distinctFrom_probe (n : Nat) (chosen : List Nat) (f c : Nat) (hc : c < n) :
    ∃ i, distinctFrom n chosen f c = (c + i) % n ∧ (∀ l, l < i → (c + l) % n ∈ chosen) ∧
      (i = f ∨ (c + i) % n ∉ chosen) := by
  have hmod : c % n = c := Nat.mod_eq_of_lt hc
  induction f generalizing c with
  | zero => exact ⟨0, by simp [distinctFrom, hmod], by simp, .inl rfl⟩
  | succ f ih =>
    by_cases hmem : c ∈ chosen
    · have hlt : (c + 1) % n < n := Nat.mod_lt _ (by omega)
      obtain ⟨i, heq, hbefore, hend⟩ := ih _ hlt (Nat.mod_eq_of_lt hlt)
      have hshift (l : Nat) : ((c + 1) % n + l) % n = (c + (l + 1)) % n := by
        rw [Nat.mod_add_mod, Nat.add_assoc, Nat.add_comm 1]
      simp only [hshift] at heq hbefore hend
      refine ⟨i + 1, by simp [distinctFrom, hmem, heq], fun l hl => ?_, by simpa using hend⟩
      cases l with
      | zero => simpa [hmod] using hmem
      | succ l => exact hbefore l (by omega)
    · exact ⟨0, by simp [distinctFrom, hmem, hmod], by simp, .inr (by simpa [hmod] using hmem)⟩

/-- With fuel `n` and fewer than `n` chosen values, the candidate moves on to the first value that is not chosen. -/
theorem distinctFrom_first {n c : Nat} {chosen : List Nat} (hlen : chosen.length < n) (hc : c < n) :
    ∃ i, distinctFrom n chosen n c = (c + i) % n ∧ (∀ l, l < i → (c + l) % n ∈ chosen) ∧ (c + i) % n ∉ chosen := by
  obtain ⟨i, heq, hbefore, hend⟩ := distinctFrom_probe n chosen n c hc
  refine ⟨i, heq, hbefore, hend.elim (fun hi => ?_) id⟩
  obtain ⟨l, hl, hnot⟩ := exists_probe_notMem hlen c
  exact absurd (hbefore l (hi ▸ hl)) hnot

/-! ### The experts of a token -/

@[simp] theorem hashToken_zero (salt : Scalar) (layer n ident : Nat) : hashToken salt layer n 0 ident = [] := rfl

/-- The expert of rank `k` stands behind those of the lower ranks. -/
theorem hashToken_succ {ident k : Nat} (hident : ident < 2 ^ 32) (hk : k < 256) (salt : Scalar) (layer n : Nat) :
    hashToken salt layer n (k + 1) ident = hashToken salt layer n k ident ++
      [distinctFrom n (hashToken salt layer n k ident) n (hashCandidate salt layer n ident k)] := by
  rw [hashCandidate, ← leBytes_identifier_rank hident hk]
  simp [hashToken, List.range_succ]

/-- As many experts as ranks, all distinct and below `n`, each the first from its candidate on that no lower rank has. -/
structure HashSelects (salt : Scalar) (layer n k ident : Nat) (xs : List Nat) : Prop where
  length : xs.length = k
  nodup : xs.Nodup
  lt : ∀ x ∈ xs, x < n
  first : ∀ j, j < k → ∃ i, xs[j]? = some ((hashCandidate salt layer n ident j + i) % n) ∧
    ∀ l, l < i → (hashCandidate salt layer n ident j + l) % n ∈ xs.take j

/-- One more rank. -/
theorem HashSelects.snoc {salt : Scalar} {layer n k ident : Nat} {xs : List Nat}
    (h : HashSelects salt layer n k ident xs) (hk : k < n) :
    HashSelects salt layer n (k + 1) ident (xs ++ [distinctFrom n xs n (hashCandidate salt layer n ident k)]) := by
  have hn : 0 < n := by omega
  obtain ⟨i, heq, hbefore, hnot⟩ :=
    distinctFrom_first (chosen := xs) (by rwa [h.length]) (hashCandidate_lt hn salt layer ident k)
  rw [heq]
  constructor
  case length => simp [h.length]
  case nodup => exact List.concat_eq_append ▸ h.nodup.concat hnot
  case lt =>
    intro x hx
    obtain hx | hx := List.mem_append.1 hx
    · exact h.lt x hx
    · exact List.mem_singleton.1 hx ▸ Nat.mod_lt _ hn
  case first =>
    intro j hj
    obtain hj | rfl := Nat.lt_succ_iff_lt_or_eq.1 hj
    · obtain ⟨i, hget, hchosen⟩ := h.first j hj
      rw [← h.length] at hj
      exact ⟨i, by rwa [List.getElem?_append_left hj], by rwa [List.take_append_of_le_length hj.le]⟩
    · refine ⟨i, ?_, by rwa [List.take_left' h.length]⟩
      rw [List.getElem?_append_right h.length.le, h.length, Nat.sub_self, List.getElem?_cons_zero]

/-- R187 of all ranks of a token. -/
theorem hashSelects_hashToken {layer n k ident : Nat} (salt : Scalar) (hkn : k ≤ n) (hk : k ≤ 256)
    (hident : ident < 2 ^ 32) : HashSelects salt layer n k ident (hashToken salt layer n k ident) := by
  induction k with
  | zero => constructor <;> simp
  | succ k ih =>
    rw [hashToken_succ hident (by omega)]
    exact (ih (by omega) (by omega)).snoc (by omega)

/-! ### The tokens of a copy -/

/-- Rows of 64, the last one cut at `count`, stand one behind the other in ascending place. -/
theorem flatMap_rows_eq {α : Type} (g : Nat → Nat → α) (count t : Nat) :
    ((List.range t).flatMap fun r => (List.range (min 64 (count - 64 * r))).map (g r)) =
      (List.range (min (64 * t) count)).map fun m => g (m / 64) (m % 64) := by
  induction t with
  | zero => simp
  | succ t ih =>
    have hrow : min (64 * (t + 1)) count = min (64 * t) count + min 64 (count - 64 * t) := by omega
    rw [List.range_succ, List.flatMap_append, ih, hrow, List.range_add, List.map_append, List.flatMap_singleton,
      List.map_map]
    congr 1
    refine List.map_congr_left fun i hi => ?_
    have hi := List.mem_range.1 hi
    have hplace : min (64 * t) count + i = 64 * t + i := by omega
    have hdiv : (64 * t + i) / 64 = t := by omega
    have hmod : (64 * t + i) % 64 = i := by omega
    rw [Function.comp_apply, hplace, hdiv, hmod]

/-- The token of row `m` of a copy of SEP.HASH: the experts of its identifier, each of weight 1 / K. -/
theorem Dev.sepTokens_hash {d : Dev} {c : Fin 48} {e : Entry} {m : Nat} (hhash : e.sepHash = true)
    (hm : m < e.sepCount) : (d.sepTokens c e)[m]? = some
      ((hashToken (e.sc (wbits e.word 71 67)) e.sepLayer e.sepN e.sepK
          ((d.readTile c e.tda (m / 64) 0).codes.getD (64 * (m % 64)) 0)).map fun x =>
        (x, f32Bits (divF32 (Val.ofInt 1) (Val.ofInt e.sepK))), false, 0) := by
  have hrows : min (64 * ceilDiv e.sepCount 64) e.sepCount = e.sepCount := by
    unfold ceilDiv
    omega
  simp only [Dev.sepTokens, hhash, if_true]
  rw [flatMap_rows_eq, hrows, List.getElem?_map, List.getElem?_range hm]
  rfl

/-! ### The capacity stage -/

/-- The capacity word of an expert after one entry of it (R182, R184). -/
def wordTaken (word : Nat) : Nat :=
  if 0 < word % 2 ^ 17 then word - 1 else min (word / 2 ^ 17 + 1) 32767 * 2 ^ 17

/-- The record word of an entry of expert `x` under its capacity word (R184, Table SEP-2). -/
def entryTaken (quota : Nat → Nat) (x word : Nat) : Nat :=
  if 0 < word % 2 ^ 17 then recordWord x 0 (quota x - word % 2 ^ 17) else recordWord x 1 0xFFFF

/-- The capacity stage on one entry of weight `w`, of a token that is not degenerate. -/
def capacityStep (quota : Nat → Nat) (w : Nat) (acc : List (Nat × Nat) × List Nat × Nat) (x : Nat) :
    List (Nat × Nat) × List Nat × Nat :=
  let word := acc.2.1.getD x 0
  (acc.1 ++ [(entryTaken quota x word, w)], acc.2.1.set x (wordTaken word),
    acc.2.2 + if word % 2 ^ 17 = 0 then 1 else 0)

/-- The capacity stage takes the entries of a token one after the other. -/
theorem assignToken_eq_foldl {quota : Nat → Nat} {t : SepTok} {xs : List Nat} {w : Nat}
    (hpicks : t.picks = xs.map fun x => (x, w)) (hdeg : t.degenerate = false) (words : List Nat) :
    assignToken quota 0 t words = xs.foldl (capacityStep quota w) ([], words, 0) := by
  simp only [assignToken, hpicks, hdeg, Bool.false_eq_true, if_false, List.foldl_map, List.range_zero, List.map_nil,
    List.append_nil, Prod.mk.eta]
  refine List.foldl_ext _ _ _ fun acc x _ => ?_
  by_cases hleft : 0 < acc.2.1.getD x 0 % 2 ^ 17
  · have hne : acc.2.1.getD x 0 % 2 ^ 17 ≠ 0 := by omega
    simp only [capacityStep, entryTaken, wordTaken, if_pos hleft, if_neg hne, Nat.add_zero]
  · have hzero : acc.2.1.getD x 0 % 2 ^ 17 = 0 := by omega
    simp only [capacityStep, entryTaken, wordTaken, hzero, gt_iff_lt, lt_irrefl, if_false, if_true, Nat.zero_add]

/-- The words after experts have been taken, none twice, each from its own word. -/
theorem foldl_capacityStep {xs words : List Nat} (hnodup : xs.Nodup) (hlt : ∀ x ∈ xs, x < words.length)
    (quota : Nat → Nat) (w : Nat) :
    let r := xs.foldl (capacityStep quota w) ([], words, 0)
    r.1 = xs.map (fun x => (entryTaken quota x (words.getD x 0), w)) ∧
    r.2.1.length = words.length ∧
    (∀ x, r.2.1.getD x 0 = if x ∈ xs then wordTaken (words.getD x 0) else words.getD x 0) ∧
    r.2.2 = (xs.filter fun x => words.getD x 0 % 2 ^ 17 = 0).length := by
  induction xs using List.reverseRecOn with
  | nil => simp
  | append_singleton xs y ih =>
    obtain ⟨hy, hys⟩ := (List.nodup_concat xs y).1 (List.concat_eq_append ▸ hnodup)
    obtain ⟨hout, hlen, hget, hskips⟩ := ih hys fun x hx => hlt x (by simp [hx])
    have hword := hget y
    rw [if_neg hy] at hword
    rw [List.foldl_append, List.foldl_cons, List.foldl_nil, capacityStep]
    simp only [hword]
    refine ⟨by simp [hout], by simp [hlen], fun x => ?_, ?_⟩
    · by_cases hxy : x = y
      · subst hxy
        have hin : x < words.length := hlt x (by simp)
        simp [hlen, hin]
      · rw [List.getD_eq_getElem?_getD, List.getElem?_set_ne (Ne.symm hxy), ← List.getD_eq_getElem?_getD, hget]
        simp [hxy]
    · rw [hskips, List.filter_append, List.length_append]
      simp only [List.filter_cons, List.filter_nil, decide_eq_true_eq]
      split <;> rfl

end Sys2Proof.Machine

namespace Sys2Proof

open Machine

/-- Settles O12: the experts by induction on the ranks, the tokens by their place in the copy, and the capacity stage by
induction on the entries, no two of which use the same word. -/
theorem hashSelectsExperts : Obligations.HashSelectsExperts := by
  intro salt layer n k ident hkn hk _ hident xs candidate
  have hxs : HashSelects salt layer n k ident xs := hashSelects_hashToken salt hkn (by omega) hident
  refine ⟨hxs.length, hxs.nodup, hxs.lt, hxs.first, ?_, ?_⟩
  · rintro d c e m hhash hm rfl rfl rfl rfl rfl
    exact d.sepTokens_hash hhash hm
  · intro quota words w t hpicks hdeg hwords left r
    obtain ⟨hout, -, hget, hskips⟩ :=
      foldl_capacityStep hxs.nodup (fun x hx => (hxs.lt x hx).trans_le hwords) quota w
    rw [← assignToken_eq_foldl hpicks hdeg] at hout hget hskips
    refine ⟨?_, fun x _ => ?_, hskips⟩
    · rw [hout]
      refine List.map_congr_left fun x _ => ?_
      simp only [entryTaken, left]
      split <;> rfl
    · simp only [r, hget, ite_not]
      rfl

end Sys2Proof
end

section
/-! SUPPORT. The queue, the stopped clocks, and the instructions that execute at issue. -/

namespace Sys2Proof.Machine

open Sys2Proof

/-! ### Steps -/

theorem step_cons {s : State} {c : Instr} {rest : List Instr} (h : s.pending = c :: rest) :
    step s = exec c { s with pending := rest } := by
  simp only [step, h]

theorem step_nil {s : State} (h : s.pending = []) : step s = s.idle := by
  simp only [step, h]

/-- A command's effect is a next state with the same commands waiting. -/
theorem exec_pending (i : Instr) (s : State) : ∃ t, exec i s = .next t ∧ t.pending = s.pending := by
  obtain ⟨k, d, h⟩ := exec_next i s
  exact ⟨_, h, rfl⟩

/-- A step takes the front of the queue. -/
theorem step_pending (s : State) : ∃ t, step s = .next t ∧ t.pending = s.pending.tail := by
  cases hp : s.pending with
  | nil =>
    refine ⟨_, (step_nil hp).trans rfl, ?_⟩
    split <;> exact hp
  | cons c rest =>
    obtain ⟨t, ht, hq⟩ := exec_pending c { s with pending := rest }
    exact ⟨t, (step_cons hp).trans ht, hq⟩

/-- Without a rate adjustment, seven units are one count. -/
theorem Clock.passUnits_seven_of_rate_zero {k : Clock} (hr : k.rate = 0) (hp : k.phase < countParts) :
    (k.passUnits 7).count = k.count + 1 ∧ (k.passUnits 7).phase = k.phase := by
  have hstep : k.step = 100000000 := by simp [Clock.step, hr]
  unfold countParts at hp
  simp only [Clock.passUnits, hstep, countParts]
  constructor <;> omega

/-! ### Instructions that execute at issue -/

/-- Every scalar operation issues its word and puts `op` of its operands into SD. -/
theorem exec_alu {s : State} {c : Fin 48} {psel : BitVec 4} {sd sa sb : BitVec 5} {imm : Bool} {imm32 : BitVec 32}
    {i : Instr} {op : Scalar → Scalar → Scalar} {w : InsWord}
    (h : (i, op) ∈ ([(.sadd c psel sd sa sb imm imm32, fun a b => a + b),
      (.ssub c psel sd sa sb imm imm32, fun a b => a - b),
      (.smul c psel sd sa sb imm imm32, fun a b => a * b),
      (.sand c psel sd sa sb imm imm32, fun a b => a &&& b),
      (.sor c psel sd sa sb imm imm32, fun a b => a ||| b),
      (.sxor c psel sd sa sb imm imm32, fun a b => a ^^^ b),
      (.sshl c psel sd sa sb imm imm32, fun a b => a <<< (b.toNat % 64)),
      (.sshr c psel sd sa sb imm imm32, fun a b => a >>> (b.toNat % 64)),
      (.ssra c psel sd sa sb imm imm32, fun a b => a.sshiftRight (b.toNat % 64))] :
        List (Instr × (Scalar → Scalar → Scalar))))
    (hw : i.word = some (c, w)) : exec i s = s.issueSeq c w (aluEff op sd sa sb imm imm32) := by
  simp only [List.mem_cons, Prod.mk.injEq, List.not_mem_nil, or_false] at h
  obtain ⟨rfl, rfl⟩ | ⟨rfl, rfl⟩ | ⟨rfl, rfl⟩ | ⟨rfl, rfl⟩ | ⟨rfl, rfl⟩ | ⟨rfl, rfl⟩ | ⟨rfl, rfl⟩ | ⟨rfl, rfl⟩ |
    ⟨rfl, rfl⟩ := h <;> (obtain ⟨-, rfl⟩ := Prod.mk.inj (Option.some.inj hw); rfl)

/-- Issue of a word on the sequencer with a given effect, for a word known through its instruction. -/
theorem exec_issueSeq_ok {s : State} {c : Fin 48} {w : InsWord} {i : Instr} {eff : SeqEff} {z : Core}
    (hx : exec i s = s.issueSeq c w eff) (hm : s.MayIssue c w) (hp : (s.issuer c).selected (wPsel w) = true)
    (he : eff (s.issueClock c) s.dev (s.issuer c) = .ok z) (hg : s.GoesOn c z.advance) :
    exec i s = .next (s.issued c z.advance) := by
  rw [hx, State.issueSeq_ok hm hp he hg]

theorem scmpCond_eq (cond : BitVec 2) (a b : Scalar) : scmpCond cond a b =
    if cond = 0 then decide (a = b) else if cond = 1 then decide (a ≠ b)
    else if cond = 2 then decide (a.toInt < b.toInt) else decide (a.toNat < b.toNat) := by
  match cond with
  | 0 => simp [scmpCond, beq_eq_decide]
  | 1 => simp [scmpCond, bne, beq_eq_decide]
  | 2 => rfl
  | 3 => rfl

theorem psetOp_eq (pop : BitVec 2) (a b : Bool) : psetOp pop a b =
    if pop = 0 then a && b else if pop = 1 then a || b else if pop = 2 then a ^^ b else a && !b := by
  match pop with
  | 0 => rfl
  | 1 => rfl
  | 2 => cases a <;> cases b <;> rfl
  | 3 => rfl

/-! ### Predicates (R77) -/

@[simp] theorem Core.p_zero (x : Core) : x.p 0 = true := rfl

@[simp] theorem Core.setP_zero (x : Core) (v : Bool) : x.setP 0 v = x := if_pos rfl

theorem Core.setP_of_ne (x : Core) {p : BitVec 3} (v : Bool) (h : p ≠ 0) : x.setP p v =
    { x with pred := (x.pred &&& ~~~(1#8 <<< p.toNat)) ||| (BitVec.ofNat 8 v.toNat <<< p.toNat) } := if_neg h

/-- One bit of a byte is replaced. -/
theorem getLsbD_replaceBit (b : BitVec 8) (v : Bool) (i j : Nat) (hi : i < 8) (hj : j < 8) :
    ((b &&& ~~~(1#8 <<< i)) ||| (BitVec.ofNat 8 v.toNat <<< i)).getLsbD j = if j = i then v else b.getLsbD j := by
  have hone : ∀ n, (1#8).getLsbD n = decide (n = 0) := by simp [BitVec.getLsbD_one]
  have hv : ∀ n, (BitVec.ofNat 8 v.toNat).getLsbD n = (decide (n = 0) && v) := by
    intro n
    cases v
    · simp
    · exact (hone n).trans (Bool.and_true _).symm
  simp only [BitVec.getLsbD_or, BitVec.getLsbD_and, BitVec.getLsbD_not, BitVec.getLsbD_shiftLeft, hone, hv, hj,
    decide_true, Bool.true_and]
  rcases Nat.lt_trichotomy j i with h | rfl | h
  · simp [h, Nat.ne_of_lt h]
  · simp
  · have : ¬ (j - i = 0) := by omega
    simp [Nat.not_lt.mpr h.le, Nat.ne_of_gt h, this]

theorem Core.p_setP (x : Core) {p : BitVec 3} (r : BitVec 3) (v : Bool) (h : p ≠ 0) :
    (x.setP p v).p r = if r = p then v else x.p r := by
  rw [Core.setP_of_ne x v h]
  unfold Core.p
  simp only [getLsbD_replaceBit x.pred v p.toNat r.toNat p.isLt r.isLt, ← BitVec.toNat_inj]
  by_cases hr : r = p
  · subst hr
    have hz : (r == 0) = false := beq_eq_false_iff_ne.mpr h
    rw [hz]
    simp
  · have : r.toNat ≠ p.toNat := fun e => hr (BitVec.eq_of_toNat_eq e)
    simp [this]

/-! ### Descriptors (R98) -/

/-- A number with some of its bits replaced. -/
theorem testBit_replaceBits (n hi lo v j : Nat) (hlo : lo ≤ hi + 1) (hv : v < 2 ^ (hi + 1 - lo)) :
    (n - bitRange n hi lo * 2 ^ lo + v * 2 ^ lo).testBit j =
      if lo ≤ j ∧ j ≤ hi then v.testBit (j - lo) else n.testBit j := by
  set k := hi + 1 - lo
  have hn : n = 2 ^ (lo + k) * (n / 2 ^ (lo + k)) + (2 ^ lo * bitRange n hi lo + n % 2 ^ lo) := by
    have h1 := Nat.div_add_mod n (2 ^ (lo + k))
    have h2 : n % 2 ^ (lo + k) = 2 ^ lo * bitRange n hi lo + n % 2 ^ lo := by
      rw [pow_add, Nat.mod_mul, Nat.add_comm]
      rfl
    rw [← h2]
    exact h1.symm
  have hval : n - bitRange n hi lo * 2 ^ lo + v * 2 ^ lo =
      2 ^ (lo + k) * (n / 2 ^ (lo + k)) + (2 ^ lo * v + n % 2 ^ lo) := by
    conv_lhs => rw [hn]
    have hb : bitRange n hi lo = bitRange n hi lo := rfl
    rw [← hn, Nat.mul_comm v, Nat.mul_comm (bitRange n hi lo)]
    omega
  have hlow : 2 ^ lo * v + n % 2 ^ lo < 2 ^ (lo + k) := by
    have h3 : n % 2 ^ lo < 2 ^ lo := Nat.mod_lt _ (by positivity)
    calc 2 ^ lo * v + n % 2 ^ lo < 2 ^ lo * (v + 1) := by rw [Nat.mul_succ]; omega
      _ ≤ 2 ^ lo * 2 ^ k := Nat.mul_le_mul_left _ hv
      _ = 2 ^ (lo + k) := (pow_add ..).symm
  rw [hval, Nat.testBit_two_pow_mul_add _ hlow, Nat.testBit_two_pow_mul_add _ (Nat.mod_lt _ (by positivity)),
    Nat.testBit_mod_two_pow, Nat.testBit_div_two_pow]
  have hk : lo + k = hi + 1 := by omega
  rw [hk]
  by_cases h1 : j < lo
  · simp [h1, show j < hi + 1 by omega, show ¬ lo ≤ j by omega]
  · by_cases h2 : j < hi + 1
    · simp [h1, h2, show lo ≤ j by omega, show j ≤ hi by omega]
    · simp [h2, show ¬ j ≤ hi by omega, show j - (hi + 1) + (hi + 1) = j by omega]

theorem getLsbD_tdPut (t : TileDesc) {hi lo v j : Nat} (hlo : lo ≤ hi + 1) (hv : v < 2 ^ (hi + 1 - lo)) (hj : j < 256) :
    (tdPut t hi lo v).getLsbD j = if lo ≤ j ∧ j ≤ hi then v.testBit (j - lo) else t.getLsbD j := by
  rw [tdPut, BitVec.getLsbD_ofNat, testBit_replaceBits _ _ _ _ _ hlo hv]
  simp [hj, BitVec.getLsbD]

theorem tdField_lo_le {f : BitVec 4} {r : TdField} (h : tdField f = some r) : r.lo ≤ r.hi + 1 := by
  revert h
  unfold tdField
  split <;> (intro h; cases h; try decide)

/-- A value within the field's range is stored less its bias. -/
theorem tdsetValue_some {t : TileDesc} {f : BitVec 4} {add : Bool} {v : Scalar} {r : TdField} {n : Nat}
    (hr : tdField f = some r) (hn : (n : Int) = (if add then (tf t r.hi r.lo : Int) + v.toInt else v.toNat))
    (hleast : r.least ≤ n) (hmost : n ≤ r.most) : tdsetValue t f add v = some (tdPut t r.hi r.lo (n - r.bias)) := by
  have hrange : (r.least : Int) ≤ n ∧ (n : Int) ≤ r.most := ⟨by exact_mod_cast hleast, by exact_mod_cast hmost⟩
  simp only [tdsetValue, hr, ← hn, if_pos hrange, Int.toNat_natCast]

/-- The effect of TDSET on its core. -/
def tdsetEff (td : BitVec 6) (fld : BitVec 4) (sa : BitVec 5) (add : Bool) : SeqEff := fun _ _ x =>
  match tdsetValue (x.t td) fld add (x.s sa) with
  | none => .error 2
  | some t => .ok (x.setT td t)

theorem exec_tdset (s : State) (c : Fin 48) (psel : BitVec 4) (td : BitVec 6) (fld : BitVec 4) (sa : BitVec 5)
    (add : Bool) : exec (.tdset c psel td fld sa add) s = s.issueSeq c (encTdset psel td fld sa add) (tdsetEff td fld sa add) :=
  rfl

/-! ### Moving on (R99) -/

theorem Core.putIter_eq (x : Core) (f : LoopFrame) (n : Nat) : ∃ v, x.putIter f n = { x with scal := v } := by
  unfold Core.putIter
  split
  · exact ⟨x.scal, rfl⟩
  · exact ⟨_, rfl⟩

/-- Where the sequencer goes from a core's place does not hang on what else the core holds. -/
theorem Core.backEdge_with (x y : Core) (fs : List LoopFrame) (l : List LoopFrame) :
    ({ y with pc := x.pc, loops := l, scal := x.scal } : Core).backEdge fs =
      { y with pc := (x.backEdge fs).pc, loops := (x.backEdge fs).loops, scal := (x.backEdge fs).scal } := by
  induction fs with
  | nil => rfl
  | cons f fs ih =>
    unfold Core.backEdge
    split_ifs
    · exact ih
    · unfold Core.putIter
      cases f.si <;> rfl
    · rfl

theorem Core.advance_with (x y : Core) :
    ({ y with pc := x.pc, loops := x.loops, scal := x.scal } : Core).advance =
      { y with pc := x.advance.pc, loops := x.advance.loops, scal := x.advance.scal } :=
  Core.backEdge_with { x with pc := x.pc + 1 } y x.loops x.loops

/-- Moving on changes the place, the open loops and a loop's scalar only. -/
theorem Core.advance_eq (x : Core) :
    x.advance = { x with pc := x.advance.pc, loops := x.advance.loops, scal := x.advance.scal } :=
  Core.advance_with x x

theorem Core.advance_of_loops_nil {x : Core} (h : x.loops = []) : x.advance = { x with pc := x.pc + 1 } := by
  simp only [Core.advance, h, Core.backEdge]

theorem Core.advance_of_ne_last {x : Core} {f : LoopFrame} {fs : List LoopFrame} (h : x.loops = f :: fs)
    (hpc : x.pc ≠ f.last) : x.advance = { x with pc := x.pc + 1 } := by
  have hne : ¬ x.pc + 1 = f.last + 1 := by omega
  simp only [Core.advance, h, Core.backEdge, if_neg hne]

theorem Core.advance_closes {x : Core} {f : LoopFrame} {fs : List LoopFrame} (h : x.loops = f :: fs)
    (hpc : x.pc = f.last) (hleft : f.left = 0) : x.advance = ({ x with loops := fs } : Core).advance := by
  have hlast : x.pc + 1 = f.last + 1 := by omega
  have hx : x.advance = ({ x with pc := x.pc + 1 } : Core).backEdge fs := by
    simp only [Core.advance, h, Core.backEdge, if_pos hlast, if_pos hleft]
  rw [hx]
  exact Eq.trans (Core.backEdge_with { x with pc := x.pc + 1 } x fs x.loops)
    (Core.backEdge_with { x with pc := x.pc + 1 } x fs fs).symm

theorem Core.advance_repeats {x : Core} {f : LoopFrame} {fs : List LoopFrame} (h : x.loops = f :: fs)
    (hpc : x.pc = f.last) (hleft : f.left ≠ 0) : x.advance =
      { (match f.si with | some r => x.setS r (BitVec.ofNat 64 (f.iter + 1)) | none => x) with
        pc := f.first
        loops := { f with left := f.left - 1, iter := f.iter + 1 } :: fs } := by
  have hlast : x.pc + 1 = f.last + 1 := by omega
  simp only [Core.advance, h, Core.backEdge, if_pos hlast, if_neg hleft, Core.putIter]
  cases f.si <;> rfl

/-- The effect of LOOP on its core. -/
def loopEff (count : BitVec 16) (body : BitVec 18) (iter : Bool) (si : BitVec 5) : SeqEff := fun _ _ x =>
  let f : LoopFrame := ⟨x.pc + 1, x.pc + 1 + body.toNat, count.toNat, 0, if iter then some si else none⟩
  .ok { x.putIter f 0 with loops := f :: x.loops }

/-- Behind LOOP the sequencer stands on the first instruction of the body. -/
theorem advance_loop (x : Core) (count : BitVec 16) (body : BitVec 18) (iter : Bool) (si : BitVec 5) :
    let f : LoopFrame := ⟨x.pc + 1, x.pc + 1 + body.toNat, count.toNat, 0, if iter then some si else none⟩
    ({ x.putIter f 0 with loops := f :: x.loops } : Core).advance =
      { (if iter then x.setS si 0 else x) with pc := x.pc + 1, loops := f :: x.loops } := by
  intro f
  have hput : x.putIter f 0 = if iter then x.setS si 0 else x := by cases iter <;> rfl
  have hpc : (x.putIter f 0).pc = x.pc := by
    obtain ⟨v, hv⟩ := x.putIter_eq f 0
    rw [hv]
  rw [Core.advance_of_ne_last (f := f) (fs := x.loops) rfl]
  · rw [hpc, hput]
  · show (x.putIter f 0).pc ≠ x.pc + 1 + body.toNat
    omega

/-- Whether a core goes on is asked of its place, its hold and its end only. -/
theorem State.GoesOn.congr {s : State} {c : Fin 48} {x y : Core} (h : s.GoesOn c x) (he : y.ended = x.ended)
    (hh : y.hold = x.hold) (hp : y.pc = x.pc) : s.GoesOn c y := by
  unfold State.GoesOn
  rwa [he, hh, hp]

/-! ### Issue without an occasion (R90, R100) -/

theorem Dev.mayIssue_of_held {d : Dev} {c : Fin 48} (h : d.cores[c].hold ≠ .none) (k : Clock) (w : InsWord) :
    d.mayIssue k c w = false := by
  simp only [Dev.mayIssue, decide_eq_false h, Bool.and_false, Bool.false_and]

theorem Dev.mayIssue_of_scalarHeld {d : Dev} {c : Fin 48} {w : InsWord} (h : d.cores[c].scalarHeld w = true)
    (k : Clock) : d.mayIssue k c w = false := by
  simp only [Dev.mayIssue, h, Bool.not_true, Bool.and_false, Bool.false_and]

theorem Core.scalarHeld_of_writes {x : Core} {e : Entry} {r : Nat} {w : InsWord} (he : e ∈ x.entries) (hon : e.on = true)
    (hr : r ∈ scalWrites e.word) (hw : r ∈ scalReads w ∨ r ∈ scalWrites w) : x.scalarHeld w = true := by
  refine List.any_eq_true.mpr ⟨e, he, ?_⟩
  rw [hon, Bool.true_and]
  exact List.any_eq_true.mpr ⟨r, hr, List.contains_iff_mem.mpr (List.mem_append.mpr hw)⟩

/-! ### Holds (R54, R100, R101) -/

/-- The effect of TICK.WAIT on its core. -/
def tickWaitEff (src : Bool) (sa : BitVec 5) (offs : BitVec 27) : SeqEff := fun k d x =>
  let target := if src then (x.s sa).toNat else offs.toNat
  if src && target ≥ d.period - d.guardBand then .error 4
  else if d.frame.boundary + target ≤ k.count then .ok x
  else .ok { x with hold := .tickWait (d.frame.boundary + target) }

/-- The effect of SYNC_BAR_RELEASE on the device. -/
def syncBarEff (c : Fin 48) (k : Clock) (d : Dev) : Option Dev :=
  match d.cores[c].hold with
  | .barrier id mask _ =>
    let cs := maskCores mask
    let arrivals := cs.filterMap fun i => d.cores[i].arrivedAt id mask
    if d.runs && arrivals.length = cs.length then
      let wait := if cs.all fun i => dieOf i = dieOf c then 40 else 120
      let last := maxBy arrivals fun u => u
      some (cs.foldl (fun d i => d.resume k i (d.pwr.counted (dieOf i) last / 5 + wait)) d)
    else none
  | _ => none

/-- A core resumes without reaching the end of its template where the template goes on. -/
theorem Dev.resume_of_goesOn {s : State} {d : Dev} {c : Fin 48} (k : Clock) (ac : Nat) (hc : d.cores[c] = s.dev.cores[c])
    (ht : d.template c = s.dev.template c) (hg : s.GoesOn c { s.dev.cores[c] with hold := .none }) :
    d.resume k c ac = d.setCore c { s.dev.cores[c] with hold := .none, nextAc := max s.dev.cores[c].nextAc ac } := by
  unfold Dev.resume
  rw [hc]
  exact Dev.templateEnd_of_goesOn (s := s) (y := { s.dev.cores[c] with hold := .none, nextAc := max s.dev.cores[c].nextAc ac })
    (Vector.getElem_set_self ..) ht (hg.congr rfl rfl rfl)

/-- The cores of a barrier resume one after the other, each at its own cycle. -/
theorem Dev.foldl_resume {s : State} (k : Clock) (ac : Pwr → Fin 48 → Nat) (cs : List (Fin 48)) (hn : cs.Nodup)
    (hg : ∀ i ∈ cs, s.GoesOn i { s.dev.cores[i] with hold := .none }) (v : Vector Core 48)
    (hv : ∀ i ∈ cs, v[i] = s.dev.cores[i]) :
    ∃ u : Vector Core 48, cs.foldl (fun d i => d.resume k i (ac d.pwr i)) { s.dev with cores := v } =
        { s.dev with cores := u } ∧
      ∀ i : Fin 48, u[i] = if i ∈ cs
        then { s.dev.cores[i] with hold := .none, nextAc := max s.dev.cores[i].nextAc (ac s.dev.pwr i) } else v[i] := by
  induction cs generalizing v with
  | nil => exact ⟨v, rfl, by simp⟩
  | cons c cs ih =>
    obtain ⟨hc, hcs⟩ := List.nodup_cons.mp hn
    rw [List.foldl_cons, Dev.resume_of_goesOn (s := s) (c := c) (d := { s.dev with cores := v }) k _ (hv c (by simp)) rfl (hg c (by simp))]
    obtain ⟨u, hu, hget⟩ := ih hcs (fun i hi => hg i (by simp [hi]))
      (v.set c { s.dev.cores[c] with hold := .none, nextAc := max s.dev.cores[c].nextAc (ac s.dev.pwr c) }) (by
        intro i hi
        have hne : c.val ≠ i.val := fun e => hc (Fin.ext e ▸ hi)
        rw [Fin.getElem_fin, Vector.getElem_set_ne _ _ hne]
        exact hv i (by simp [hi]))
    refine ⟨u, hu, fun i => ?_⟩
    rw [hget i]
    by_cases hic : i = c
    · subst hic
      simp [hc]
    · have hne : c.val ≠ i.val := fun e => hic (Fin.ext e).symm
      simp only [List.mem_cons, hic, false_or, Fin.getElem_fin, Vector.getElem_set_ne _ _ hne]

theorem Core.arrivedAt_barrier {x : Core} {id mask u : Nat} (h : x.hold = .barrier id mask u) :
    x.arrivedAt id mask = some u := by
  simp [Core.arrivedAt, h]

/-- The largest of numbers that are at most `u`, which is one of them. -/
theorem maxBy_eq_of_mem {l : List Nat} {u : Nat} (hu : u ∈ l) (hle : ∀ v ∈ l, v ≤ u) : maxBy l (fun v => v) = u := by
  have hupper : ∀ (l : List Nat) (a : Nat), a ≤ u → (∀ v ∈ l, v ≤ u) → l.foldl (fun a x => max a x) a ≤ u := by
    intro l
    induction l with
    | nil => exact fun a ha _ => ha
    | cons x t ih => exact fun a ha h => ih _ (max_le ha (h x (by simp))) fun v hv => h v (by simp [hv])
  have hstart : ∀ (l : List Nat) (a : Nat), a ≤ l.foldl (fun a x => max a x) a := by
    intro l
    induction l with
    | nil => exact fun a => le_rfl
    | cons x t ih => exact fun a => (le_max_left a x).trans (ih _)
  have hlower : ∀ (l : List Nat) (a : Nat), u ∈ l → u ≤ l.foldl (fun a x => max a x) a := by
    intro l
    induction l with
    | nil => exact fun a h => absurd h (by simp)
    | cons x t ih =>
      intro a h
      rcases List.mem_cons.mp h with rfl | h
      · exact (le_max_right a u).trans (hstart t _)
      · exact ih _ h
  exact le_antisymm (hupper l 0 (Nat.zero_le u) hle) (hlower l 0 hu)

/-- When every core of a mask has arrived at the barrier, the last at `u`, all of them resume. -/
theorem syncBarRelease_some {s : State} {c : Fin 48} {id mask u : Nat} (hruns : s.dev.runs = true)
    (hhold : s.dev.cores[c].hold = .barrier id mask u)
    (harrivals : ∀ i ∈ maskCores mask, ∃ v, s.dev.cores[i].arrivedAt id mask = some v ∧ v ≤ u) (hc : c ∈ maskCores mask) :
    syncBarEff c s.clk s.dev = some ((maskCores mask).foldl (fun d i => d.resume s.clk i (d.pwr.counted (dieOf i) u / 5 +
      if (maskCores mask).all (fun i => i.val / 4 = c.val / 4) then 40 else 120)) s.dev) := by
  have hlast : maxBy ((maskCores mask).filterMap fun i => s.dev.cores[i].arrivedAt id mask) (fun v => v) = u := by
    refine maxBy_eq_of_mem (List.mem_filterMap.mpr ⟨c, hc, Core.arrivedAt_barrier hhold⟩) fun v hv => ?_
    obtain ⟨i, hi, hiv⟩ := List.mem_filterMap.mp hv
    obtain ⟨v', hv', hle⟩ := harrivals i hi
    obtain rfl : v' = v := Option.some.inj (hv'.symm.trans hiv)
    exact hle
  have hlen : ((maskCores mask).filterMap fun i => s.dev.cores[i].arrivedAt id mask).length = (maskCores mask).length := by
    rw [List.length_filterMap_eq_countP, List.countP_eq_length]
    intro i hi
    obtain ⟨v, hv, -⟩ := harrivals i hi
    rw [hv]
    rfl
  have hdie : ∀ i : Fin 48, decide (dieOf i = dieOf c) = decide (i.val / 4 = c.val / 4) := fun i => by
    simp [dieOf]
  simp only [syncBarEff, hhold, hruns, hlen, decide_true, Bool.and_self, if_true, hlast, hdie]

/-! ### Entering a queue (R88, R89) -/

theorem Core.sepView_eq (x : Core) (w : InsWord) (on : Bool) : ∃ l, x.sepView w on = { x with sepLast := l } := by
  unfold Core.sepView
  split
  · exact ⟨_, rfl⟩
  · exact ⟨x.sepLast, rfl⟩

theorem Core.mmViews_eq (x : Core) (w : InsWord) : ∃ l v, x.mmViews w = { x with load := l, views := v } := by
  unfold Core.mmViews
  dsimp only
  split
  · exact ⟨_, x.views, rfl⟩
  · split
    · exact ⟨x.load, x.views, rfl⟩
    · exact ⟨x.load, _, rfl⟩
  · split
    · exact ⟨x.load, x.views, rfl⟩
    · exact ⟨x.load, _, rfl⟩
  · exact ⟨x.load, x.views, rfl⟩

/-- The entry that a push appends. -/
def Core.newEntry (x : Core) (w : InsWord) (e : Eng) (on : Bool) (frame : Nat) (extra : List Nat)
    (more : List (Nat × Scalar)) : Entry where
  seq := x.nextSeq
  index := x.pc
  eng := e
  word := w
  on := on
  stage := .queued
  tds := (tdReads w ++ tdWrites w ++ extra).map fun n => (n, x.tN n)
  scs := ((scalReads w).map fun n => (n, x.sN n)) ++ x.churnScs w ++ more
  due := 0
  frame := frame
  done := false

theorem Core.push_eq (x : Core) (w : InsWord) (e : Eng) (on : Bool) (frame : Nat) (extra : List Nat)
    (more : List (Nat × Scalar)) : x.push w e on frame extra more =
      { x with nextSeq := x.nextSeq + 1, entries := x.entries ++ [x.newEntry w e on frame extra more] } := rfl

/-- What a key finds in a list of keys with their values. -/
theorem find?_map_key {α : Type} {l : List Nat} {n : Nat} (f : Nat → α) (more : List (Nat × α)) (h : n ∈ l) :
    ((l.map (fun m => (m, f m)) ++ more).find? (fun p => p.1 == n)).map (·.2) = some (f n) := by
  induction l with
  | nil => simp at h
  | cons m t ih =>
    rw [List.map_cons, List.cons_append, List.find?_cons]
    by_cases hm : m = n
    · simp [hm]
    · have hne : (m == n) = false := by simpa using hm
      simp only [hne]
      exact ih ((List.mem_cons.mp h).resolve_left (Ne.symm hm))

theorem Core.newEntry_td {x : Core} {w : InsWord} {n : Nat} (h : n ∈ tdReads w ++ tdWrites w) (e : Eng) (on : Bool)
    (frame : Nat) (extra : List Nat) (more : List (Nat × Scalar)) :
    (x.newEntry w e on frame extra more).td n = x.tN n := by
  have hfind := find?_map_key (fun n => x.tN n) (extra.map fun n => (n, x.tN n)) h
  rw [← List.map_append] at hfind
  exact congrArg (Option.getD · 0) hfind

theorem Core.newEntry_sc {x : Core} {w : InsWord} {n : Nat} (h : n ∈ scalReads w) (e : Eng) (on : Bool)
    (frame : Nat) (extra : List Nat) (more : List (Nat × Scalar)) :
    (x.newEntry w e on frame extra more).sc n = x.sN n := by
  have hfind := find?_map_key (fun n => x.sN n) (x.churnScs w ++ more) h
  rw [← List.append_assoc] at hfind
  exact congrArg (Option.getD · 0) hfind

end Sys2Proof.Machine

namespace Sys2Proof.Machine

open Sys2Proof

/-- A core with its views changed as an issue changes them, and an entry pushed, goes on as the core itself. -/
theorem Core.advance_push (x z : Core) (w : InsWord) (e : Eng) (on : Bool) (n : Nat) (extra : List Nat)
    (more : List (Nat × Scalar)) (hpc : z.pc = x.pc) (hl : z.loops = x.loops) (hs : z.scal = x.scal) :
    (z.push w e on n extra more).advance = { z.push w e on n extra more with
      pc := x.advance.pc, loops := x.advance.loops, scal := x.advance.scal } := by
  have h : z.push w e on n extra more =
      { z.push w e on n extra more with pc := x.pc, loops := x.loops, scal := x.scal } := by
    rw [← hpc, ← hl, ← hs]
    rfl
  conv_lhs => rw [h]
  exact Core.advance_with x _

/-! ### Faults at issue (R113) -/

/-- Where the record of a core is empty, a fault of its sequencer enters all its fields. -/
theorem Dev.recordSeqFault_empty {d : Dev} {c : Fin 48} (h : d.rd .coreSeqFaultCode c = 0) (code cause cls opc index : Nat) :
    d.recordSeqFault c code cause cls opc index =
      (((((d.wr .coreSeqFaultCode code c).wr .coreSeqFaultCause cause c).wr .coreSeqFaultClass cls c).wr
        .coreSeqFaultOpcode opc c).wr .coreSeqFaultIndex index c).wr .coreSeqFaultSlot d.frame.slot c := if_pos h

/-- What is read of a core's instance of a field after a write of another field of it. -/
theorem Dev.rd_wr_core (d : Dev) {f g : Fld} (v : Nat) (c : Fin 48) (h : g.num ≠ f.num) :
    (d.wr f v c).rd g c = d.rd g c :=
  d.rd_wr_num f g v c 0 c 0 h (by omega) (by omega) (by decide) (by decide)

/-- The record of a core after its first fault. -/
structure Dev.HoldsSeqFault (d : Dev) (c : Fin 48) (code cause cls opc index slot : Nat) : Prop where
  code : d.rd .coreSeqFaultCode c = code % 2 ^ 8
  cause : d.rd .coreSeqFaultCause c = cause % 2 ^ 4
  cls : d.rd .coreSeqFaultClass c = cls % 2 ^ 4
  opc : d.rd .coreSeqFaultOpcode c = opc % 2 ^ 8
  index : d.rd .coreSeqFaultIndex c = index % 2 ^ 18
  slot : d.rd .coreSeqFaultSlot c = slot % 2 ^ 8

theorem Dev.recordSeqFault_holds {d : Dev} {c : Fin 48} (h : d.rd .coreSeqFaultCode c = 0)
    (code cause cls opc index : Nat) :
    (d.recordSeqFault c code cause cls opc index).HoldsSeqFault c code cause cls opc index d.frame.slot := by
  rw [Dev.recordSeqFault_empty h]
  constructor
  case code => iterate 5 rw [Dev.rd_wr_core _ _ _ (by decide)]
               exact Dev.rd_wr_same ..
  case cause => iterate 4 rw [Dev.rd_wr_core _ _ _ (by decide)]
                exact Dev.rd_wr_same ..
  case cls => iterate 3 rw [Dev.rd_wr_core _ _ _ (by decide)]
              exact Dev.rd_wr_same ..
  case opc => iterate 2 rw [Dev.rd_wr_core _ _ _ (by decide)]
              exact Dev.rd_wr_same ..
  case index => rw [Dev.rd_wr_core _ _ _ (by decide)]
                exact Dev.rd_wr_same ..
  case slot => exact Dev.rd_wr_same ..

theorem Dev.recordSeqFault_eq (d : Dev) (c : Fin 48) (code cause cls opc index : Nat) :
    ∃ r, d.recordSeqFault c code cause cls opc index = { d with regs := r } := by
  unfold Dev.recordSeqFault
  split
  · exact ⟨_, rfl⟩
  · exact ⟨d.regs, rfl⟩

theorem Dev.runs_iff {d : Dev} : d.runs = true ↔ d.job.phase = .running ∧ d.job.abort = false := by
  simp [Dev.runs]

/-- A core's fault at issue, of a job that runs and a core without a record. -/
structure Dev.FaultsAtIssue (d t : Dev) (c : Fin 48) (cause cls opc index : Nat) : Prop where
  phase : t.job.phase = .faulted
  recorded : t.rd .jobStateFault = 0x11
  record : t.HoldsSeqFault c 0x11 cause cls opc index d.frame.slot
  cores : t.cores = d.cores
  mem : t.mem = d.mem
  frame : t.frame = d.frame

theorem Dev.FaultsAtIssue.sent {a d t : Dev} {c : Fin 48} {cause cls opc index : Nat}
    (h : a.FaultsAtIssue d c cause cls opc index) (g : d.Sends t) : a.FaultsAtIssue t c cause cls opc index where
  phase := by rw [g.job, h.phase]
  recorded := by rw [g.rd, h.recorded]
  record := ⟨by rw [g.rd, h.record.code], by rw [g.rd, h.record.cause], by rw [g.rd, h.record.cls],
    by rw [g.rd, h.record.opc], by rw [g.rd, h.record.index], by rw [g.rd, h.record.slot]⟩
  cores := g.cores.trans h.cores
  mem := g.mem.trans h.mem
  frame := g.frame.trans h.frame

/-- The first fault of a job that runs, raised with the first record of a core. -/
theorem Dev.faultsAtIssue_runFault {d : Dev} {c : Fin 48} (hr : d.runs = true) (hf : d.rd .coreSeqFaultCode c = 0)
    (k : Clock) (cause cls opc index engine addr : Nat) :
    d.FaultsAtIssue ((d.recordSeqFault c 0x11 cause cls opc index).runFault k 0x11 cause engine addr) c
      cause cls opc index := by
  obtain ⟨hp, ha⟩ := Dev.runs_iff.mp hr
  obtain ⟨r, he⟩ := d.recordSeqFault_eq c 0x11 cause cls opc index
  have hrec := Dev.recordSeqFault_holds hf 0x11 cause cls opc index
  rw [he] at hrec ⊢
  have hfault := Dev.runFault_first (d := { d with regs := r }) k 0x11 cause engine addr
    (show JobPhase.faultable d.job.phase = true by rw [hp]; rfl) ha
  have hrd : ∀ f : Fld, f.isEvent = false → f.num ≠ Fld.jobStateFault.num →
      (Dev.runFault { d with regs := r } k 0x11 cause engine addr).rd f c = Dev.rd { d with regs := r } f c :=
    fun f h1 h2 => hfault.rd f c 0 h1 h2 (by omega) (by decide)
  constructor
  case phase => exact hfault.phase
  case recorded => exact hfault.recorded
  case cores => exact hfault.cores
  case mem => exact hfault.mem
  case frame => exact hfault.frame
  case record =>
    constructor
    case code => rw [hrd _ (by decide) (by decide)]; exact hrec.code
    case cause => rw [hrd _ (by decide) (by decide)]; exact hrec.cause
    case cls => rw [hrd _ (by decide) (by decide)]; exact hrec.cls
    case opc => rw [hrd _ (by decide) (by decide)]; exact hrec.opc
    case index => rw [hrd _ (by decide) (by decide)]; exact hrec.index
    case slot => rw [hrd _ (by decide) (by decide)]; exact hrec.slot

/-- A check at issue has cause 1, 3 or 7. -/
theorem Dev.issueCause_cases {d : Dev} {core : Nat} {x : Core} {w : InsWord} {cause : Nat}
    (h : d.issueCause core x w = some cause) : cause = 1 ∨ cause = 3 ∨ cause = 7 := by
  unfold Dev.issueCause at h
  split_ifs at h <;> cases h <;> simp

/-- The state after a refusal at issue. -/
def State.refusedAt (s : State) (c : Fin 48) (w : InsWord) (cause : Nat) : Result :=
  .next { s with
    clk := s.issueClock c
    dev := (s.dev.insFault (s.issueClock c) c cause w (s.issuer c).pc).sendRaised s.dev.sec.reports (s.issueClock c) }

/-- An instruction whose effect is refused faults at issue. -/
theorem State.issueSeq_refused {s : State} {c : Fin 48} {w : InsWord} {eff : SeqEff} {cause : Nat}
    (hm : s.MayIssue c w) (hp : (s.issuer c).selected (wPsel w) = true)
    (he : eff (s.issueClock c) s.dev (s.issuer c) = .error cause) :
    s.issueSeq c w eff = s.refusedAt c w cause := by
  obtain ⟨hc, hmay⟩ := hm
  unfold State.issueSeq
  refine State.act_some hc ?_
  simp only [State.issueClock, State.issuer] at *
  simp only [hmay, hp, he, if_true]

theorem State.issueEng_refused {s : State} {c : Fin 48} {w : InsWord} {e : Eng} {cause : Nat}
    (hm : s.MayIssue c w) (hp : (s.issuer c).selected (wPsel w) = true)
    (hi : s.dev.issueCause c (s.issuer c) w = some cause) :
    s.issueEng c w e = s.refusedAt c w cause := by
  obtain ⟨hc, hmay⟩ := hm
  unfold State.issueEng
  refine State.act_some hc ?_
  simp only [State.issueClock, State.issuer] at *
  simp only [hmay, hp, hi, if_true]

/-- An instruction that executes at issue and behind which the template ends (R53). -/
theorem State.issueSeq_ended {s : State} {c : Fin 48} {w : InsWord} {eff : SeqEff} {z : Core}
    (hm : s.MayIssue c w) (hp : (s.issuer c).selected (wPsel w) = true)
    (he : eff (s.issueClock c) s.dev (s.issuer c) = .ok z) (hg : ¬ s.GoesOn c z.advance) :
    s.issueSeq c w eff = .next { s with
      clk := s.issueClock c
      dev := ((((s.dev.setCore c z.advance).count .coreSeqIssued 1 c).recordSeqFault c 0x11 5 0 0 z.advance.pc).runFault
        (s.issueClock c) 0x11 5 0xFFF 0).sendRaised s.dev.sec.reports (s.issueClock c) } := by
  obtain ⟨hc, hmay⟩ := hm
  unfold State.GoesOn at hg
  simp only [not_or, not_not, Nat.not_lt] at hg
  obtain ⟨hended, hhold, hpc⟩ := hg
  unfold State.issueSeq
  refine State.act_some hc ?_
  simp only [State.issueClock, State.issuer] at *
  simp only [hmay, hp, he, if_true, Dev.afterIssue]
  have hcore : ((s.dev.setCore c z.advance).count .coreSeqIssued 1 c).cores[c] = z.advance := by simp [Dev.setCore]
  have htemplate : ((s.dev.setCore c z.advance).count .coreSeqIssued 1 c).template c = s.dev.template c := rfl
  unfold Dev.templateEnd
  simp only [hcore, htemplate, hhold, hpc, Bool.eq_false_iff.mpr hended, Bool.not_false, decide_true, Bool.and_self,
    ge_iff_le, if_true]

theorem refusedAt_faults {s : State} {c : Fin 48} {w : InsWord} {i : Instr} {cause : Nat}
    (hempty : s.dev.rd .coreSeqFaultCode c = 0) (hruns : s.dev.runs = true) (hx : exec i s = s.refusedAt c w cause)
    (hcode : causeCode cause = 0x11) (hlt : cause < 16) :
    ∃ d, exec i s = .next { s with clk := s.issueClock c, dev := d } ∧
      d.job.phase = .faulted ∧ d.rd .jobStateFault = 0x11 ∧
      d.rd .coreSeqFaultCode c = 0x11 ∧ d.rd .coreSeqFaultCause c = cause ∧
      d.rd .coreSeqFaultSlot c = s.dev.frame.slot % 256 ∧
      (cause ≠ 5 → d.rd .coreSeqFaultClass c = wCls w ∧ d.rd .coreSeqFaultOpcode c = wOp w ∧
        d.rd .coreSeqFaultIndex c = (s.issuer c).pc % 2 ^ 18 ∧ d.cores = s.dev.cores) ∧
      d.mem = s.dev.mem ∧ d.frame = s.dev.frame := by
  have hfaults := (Dev.faultsAtIssue_runFault hruns hempty (s.issueClock c) cause (wCls w) (wOp w) (s.issuer c).pc
    (engineId (wordEng s.dev.order.fabricDies w) c) 0).sent (Dev.sends_sendRaised _ s.dev.sec.reports (s.issueClock c))
  have hcls : wCls w % 2 ^ 4 = wCls w := Nat.mod_eq_of_lt (Nat.mod_lt _ (by decide))
  have hop : wOp w % 2 ^ 8 = wOp w := Nat.mod_eq_of_lt (Nat.mod_lt _ (by decide))
  refine ⟨_, hx.trans (by rw [State.refusedAt, Dev.insFault, hcode]), hfaults.phase, hfaults.recorded,
    hfaults.record.code, hfaults.record.cause.trans (Nat.mod_eq_of_lt hlt), hfaults.record.slot, fun _ =>
    ⟨hfaults.record.cls.trans hcls, hfaults.record.opc.trans hop, hfaults.record.index, hfaults.cores⟩,
    hfaults.mem, hfaults.frame⟩

/-! ### Queue heads (R88, R91) -/

/-- The front of a queue that works or may still leave does what its engine does with it, at the engine's time. -/
theorem exec_queueHeadRelease_some {s : State} {c : Fin 48} {g : Eng} {k : Clock} {e : Entry} {d : Dev}
    (hc : s.dev.clocked = true) (hk : (if g = .tier then s.dev.tier.turn s.clk c.val else s.clk) = k)
    (hw : (!s.dev.working && !s.dev.faultedNow k c) = false) (hn : s.dev.cores[c].next g = some e)
    (ha : s.dev.atHead k c g e = some d) :
    exec (.queueHeadRelease c g) s = .next { s with clk := k, dev := d.sendRaised s.dev.sec.reports k } := by
  subst hk
  change execQueueHeadRelease c g s = _
  unfold execQueueHeadRelease
  refine State.act_some (d := d) hc ?_
  simp only [hw, hn, Bool.false_eq_true, if_false, ha]

/-- A TTOUCH of core 0 whose predicate was off. -/
def offTouch : Entry where
  seq := 0
  index := 0
  eng := .tier
  word := encTierObj 0x03 0 0
  on := false
  stage := .queued
  tds := []
  scs := []
  due := 0
  frame := 0
  done := false

/-- Control cycle 0 of a device in which core 1 has made a TIER request in this cycle, core 0 has one at its head, and the
job is FAULTED with a fault of control cycle 1. -/
def lateTier : State where
  pending := []
  clk := ⟨0, 0, 0, 0⟩
  dev := { Dev.blank .m20f6 with
    start := { Start.held with state := .ready }
    job := { Job.idle with phase := .faulted, faultCc := some 1 }
    tier := { Tier.empty with latest := (0, 1) }
    cores := (Vector.replicate 48 Core.empty).set 0 { Core.empty with entries := [offTouch] } }

/-- The head of core 0 retires, and TIER takes the request in control cycle 1. -/
theorem exec_lateTier : exec (.queueHeadRelease 0 .tier) lateTier = .next { lateTier with
    clk := lateTier.clk.nextCc
    dev := (lateTier.dev.retire lateTier.clk.nextCc 0 .tier offTouch).sendRaised lateTier.dev.sec.reports
      lateTier.clk.nextCc } :=
  exec_queueHeadRelease_some (by decide) (by decide) (by decide) (e := offTouch) (by decide) rfl

end Sys2Proof.Machine

namespace Sys2Proof

open Machine

/-- Settles O1: the step's own equation. -/
theorem stepTakesFrontCommand : Obligations.StepTakesFrontCommand := fun _ _ _ h => step_cons h

/-- Settles O3: every command has an effect on time and the device only. -/
theorem queueIsFirstInFirstOut : Obligations.QueueIsFirstInFirstOut :=
  ⟨exec_pending, step_pending, fun _ hp =>
    ⟨step_nil hp, rfl, rfl, rfl, Clock.passUnits_seven_of_rate_zero⟩⟩

/-- Settles O4: without clocks the device idles in place, and a command that is not the board's does nothing. -/
theorem stoppedClocksKept : Obligations.StoppedClocksKept := by
  rintro s t ⟨hclocks, hboard⟩ hstep
  cases hp : s.pending with
  | nil =>
    have ht : step s = .next s := by rw [step_nil hp, State.idle, hclocks]; rfl
    obtain rfl : s = t := Host.Outcome.next.inj (ht.symm.trans hstep)
    exact ⟨⟨hclocks, hboard⟩, rfl, rfl⟩
  | cons c rest =>
    have hc : c.board = false := hboard c (by simp [hp])
    have ht : step s = .next { s with pending := rest } := (step_cons hp).trans (exec_stopped hc hclocks)
    obtain rfl := Host.Outcome.next.inj (ht.symm.trans hstep)
    exact ⟨⟨hclocks, fun x hx => hboard x (by simp [hp, show x ∈ rest from hx])⟩, rfl, rfl⟩

/-- Settles O5: each of the nine issues its word with its operation. -/
theorem scalarArithmeticResults : Obligations.ScalarArithmeticResults := by
  intro s c psel sd sa sb imm imm32 i op w hi hw hm hp x y hg
  exact exec_issueSeq_ok (exec_alu hi hw) hm hp rfl hg

/-- Settles O6: the results are those of the sequencer's effects, and a predicate write replaces one bit. -/
theorem scalarAndPredicateMoves : Obligations.ScalarAndPredicateMoves := by
  intro s c psel sd sa sb imm64 pd pa pb cond pop imm imm32 i z w x b hi hw hm hp hg
  refine ⟨?_, x.p_zero, x.setP_zero, fun p r v hne => ⟨?_, fun hr => ?_, ?_, ?_⟩⟩
  · simp only [List.mem_cons, Prod.mk.injEq, List.not_mem_nil, or_false] at hi
    obtain ⟨rfl, rfl⟩ | ⟨rfl, rfl⟩ | ⟨rfl, rfl⟩ | ⟨rfl, rfl⟩ := hi <;>
      obtain ⟨-, rfl⟩ := Prod.mk.inj (Option.some.inj hw)
    · exact exec_issueSeq_ok (eff := fun _ _ x => .ok (x.setS sd imm64)) rfl hm hp rfl hg
    · exact exec_issueSeq_ok (eff := fun _ _ x => .ok (x.setP pd (scmpCond cond (x.s sa) (operandB x sb imm imm32))))
        rfl hm hp (by rw [scmpCond_eq]; rfl) hg
    · exact exec_issueSeq_ok (eff := fun _ _ x => .ok (x.setP pd (psetOp pop (x.p pa) (x.p pb))))
        rfl hm hp (by rw [psetOp_eq]) hg
    · exact exec_issueSeq_ok (eff := fun _ _ x => .ok x) rfl hm hp rfl hg
  · rw [x.p_setP _ _ hne, if_pos rfl]
  · rw [x.p_setP _ _ hne, if_neg hr]
  · rw [x.setP_of_ne v hne]
  · rw [x.setP_of_ne v hne]

/-- Settles O7: TDSET stores a value within range, and storing replaces the field's bits. -/
theorem descriptorWrites : Obligations.DescriptorWrites := by
  intro s c psel w hm hp
  refine ⟨?_, ?_, fun t fld r v j hr hv hj => getLsbD_tdPut t (tdField_lo_le hr) hv hj⟩
  · intro tdd tda y hw hg
    obtain ⟨-, rfl⟩ := Prod.mk.inj (Option.some.inj hw)
    exact exec_issueSeq_ok (eff := fun _ _ x => .ok (x.setT tdd (x.t tda))) rfl hm hp rfl hg
  · intro td fld sa add r n t v y hw hr hn hleast hmost hg
    obtain ⟨-, rfl⟩ := Prod.mk.inj (Option.some.inj hw)
    refine exec_issueSeq_ok (z := (s.issuer c).setT td (tdPut t r.hi r.lo (n - r.bias))) (exec_tdset ..) hm hp ?_ hg
    have hvalue : tdsetValue ((s.issuer c).t td) fld add ((s.issuer c).s sa) = some (tdPut t r.hi r.lo (n - r.bias)) :=
      tdsetValue_some hr hn hleast hmost
    simp only [tdsetEff, hvalue]

/-- Settles O8: LOOP pushes its frame, and moving on is the back edge of the innermost frame. -/
theorem loopOpensAndRepeats : Obligations.LoopOpensAndRepeats := by
  refine ⟨?_, ?_, fun x h => Core.advance_of_loops_nil h⟩
  · intro s c psel count body iter si w hw hm hp x y hg
    obtain ⟨-, rfl⟩ := Prod.mk.inj (Option.some.inj hw)
    have hy := advance_loop x count body iter si
    rw [show s.issued c y = s.issued c _ from congrArg _ hy.symm]
    exact exec_issueSeq_ok (eff := loopEff count body iter si) rfl hm hp rfl (hy ▸ hg)
  · exact fun x f fs h => ⟨Core.advance_of_ne_last h, Core.advance_closes h, Core.advance_repeats h⟩

/-- Settles O9: each has its effect on the core, which TICK.WAIT holds before its target. -/
theorem tickInstructions : Obligations.TickInstructions := by
  intro s c psel sd se sa src offs i z w x target htarget hi hw hm hp hg
  simp only [List.mem_cons, Prod.mk.injEq, List.not_mem_nil, or_false] at hi
  obtain ⟨rfl, rfl⟩ | ⟨rfl, rfl⟩ | ⟨rfl, rfl⟩ | ⟨rfl, rfl⟩ := hi <;>
    obtain ⟨-, rfl⟩ := Prod.mk.inj (Option.some.inj hw)
  · exact exec_issueSeq_ok (eff := fun _ _ x => .ok { x with ended := true }) rfl hm hp rfl hg
  · exact exec_issueSeq_ok (eff := fun _ d x =>
      .ok ((x.setS sd (BitVec.ofNat 64 d.frame.number)).setS se (BitVec.ofNat 64 d.frame.slot))) rfl hm hp rfl hg
  · exact exec_issueSeq_ok (eff := fun k _ x => .ok (x.setS sd (BitVec.ofNat 64 k.count))) rfl hm hp rfl hg
  · refine exec_issueSeq_ok (eff := tickWaitEff src sa offs) rfl hm hp ?_ hg
    have hbefore : (src && decide (target ≥ s.dev.period - s.dev.guardBand)) = false := by
      cases hsrc : src with
      | false => rfl
      | true =>
        have := htarget hsrc
        simpa using Nat.not_le.mpr this
    exact (if_neg (by rw [hbefore]; decide)).trans (apply_ite Except.ok _ _ _).symm

/-- Settles O10: the holds are the sequencer's effects, and neither a held core nor one with a pending write of a named
scalar may issue. -/
theorem barrierAndFencesHold : Obligations.BarrierAndFencesHold := by
  intro s c w i hw
  refine ⟨?_, fun hhold => exec_not_issued hw (Dev.mayIssue_of_held hhold ..), fun e r he hon hr hrw =>
    exec_not_issued hw (Dev.mayIssue_of_scalarHeld (Core.scalarHeld_of_writes he hon hr hrw) _)⟩
  intro psel mask id cmask scope sa z x node hi hm hp hg
  simp only [List.mem_cons, Prod.mk.injEq, List.not_mem_nil, or_false] at hi
  obtain ⟨rfl, rfl⟩ | ⟨rfl, rfl⟩ | ⟨rfl, rfl⟩ := hi <;>
    obtain ⟨-, rfl⟩ := Prod.mk.inj (Option.some.inj hw)
  · exact exec_issueSeq_ok (eff := fun k _ x => .ok { x with hold := .barrier id.toNat mask.toNat k.units }) rfl hm hp rfl hg
  · exact exec_issueSeq_ok (eff := fun _ _ x =>
      .ok (if x.fenceBlocked cmask.toNat x.nextSeq then { x with hold := .fenceEng cmask.toNat x.nextSeq } else x))
      rfl hm hp rfl hg
  · exact exec_issueSeq_ok (eff := fun _ d x =>
      let node := if scope then some ((x.s sa).toNat % 65536) else none
      .ok (if d.fenceMet c node x.nextSeq then x else { x with hold := .fenceGmem node x.nextSeq })) rfl hm hp rfl hg

/-- Settles O11: where the template goes on, resuming a core changes that core alone. -/
theorem heldCoresResume : Obligations.HeldCoresResume := by
  intro s c hclocked hruns goes
  refine ⟨?_, ?_, ?_⟩
  · intro id mask u hhold hgoes harrived wait ac hc
    have harrivals : ∀ i ∈ maskCores mask, ∃ v, s.dev.cores[i].arrivedAt id mask = some v ∧ v ≤ u := fun i hi =>
      let ⟨v, hv, hle⟩ := harrived i hi
      ⟨v, Core.arrivedAt_barrier hv, hle⟩
    obtain ⟨d, hd, hcores⟩ := Dev.foldl_resume s.clk (fun p i => p.counted (dieOf i) u / 5 + wait) (maskCores mask)
      (List.Nodup.filter _ (List.nodup_finRange 48)) hgoes s.dev.cores (fun _ _ => rfl)
    refine ⟨{ s.dev with cores := d }, ?_, hcores, rfl, rfl, rfl⟩
    rw [← Dev.sendRaised_of_eq (d := { s.dev with cores := d }) s.clk rfl]
    exact State.now_some hclocked ((syncBarRelease_some hruns hhold harrivals hc).trans (congrArg some hd))
  · intro t hhold hg k
    have hk : s.dev.cores[c].hold = .tickWait t := hhold
    rw [show exec (.tickWaitRelease c) s = execTickWaitRelease c s from rfl, execTickWaitRelease, hk]
    have hreached : t ≤ (s.clk.toCount t).count := by rw [Clock.toCount_count]; omega
    rw [State.act_some hclocked (d := s.dev.resume k c (s.dev.dieAc k (dieOf c) + 1)),
      Dev.resume_of_goesOn k _ rfl rfl hg, Dev.sendRaised_of_eq _ (by simp)]
    simp only [hk, hruns, hreached, decide_true, Bool.and_self, if_true]
    rfl
  · intro hg hmet
    rw [show exec (.fenceRelease c) s = execFenceRelease c s from rfl, execFenceRelease,
      State.now_some hclocked (d := s.dev.resume s.clk c (s.dev.dieAc s.clk (dieOf c) + 1)),
      Dev.resume_of_goesOn s.clk _ rfl rfl hg, Dev.sendRaised_of_eq _ (by simp)]
    obtain ⟨cmask, seq, hhold, hfree⟩ | ⟨node, seq, hhold, hfree⟩ := hmet
    · simp only [hhold, hruns, hfree, Bool.not_false, Bool.and_self, if_true]
    · simp only [hhold, hruns, hfree, Bool.and_self, if_true]

/-- Settles O13: an instruction that is off moves the core on, and its entry is off. -/
theorem predicatedOffInstructions : Obligations.PredicatedOffInstructions := by
  intro s c w i hw hm hoff hg
  refine ⟨fun hnone => ?_, fun e hsome => ?_⟩
  · obtain ⟨e, he, -⟩ | ⟨-, f, hx⟩ := exec_issues i s c w hw
    · rw [hnone] at he; cases he
    · rw [hx, State.issueSeq_off hm hoff hg]
  · obtain ⟨e', he, hx⟩ | ⟨he, -⟩ := exec_issues i s c w hw
    · obtain rfl : e = e' := Option.some.inj (hsome.symm.trans he)
      obtain ⟨l, hl⟩ := (s.issuer c).sepView_eq w false
      have hadv := Core.advance_push (s.issuer c) ((s.issuer c).sepView w false) w e false s.dev.frame.number [] []
        (by rw [hl]) (by rw [hl]) (by rw [hl])
      have hgoes := hg.congr (y := (((s.issuer c).sepView w false).push w e false s.dev.frame.number []).advance)
        (by rw [hadv, hl, (s.issuer c).advance_eq]; rfl) (by rw [hadv, hl, (s.issuer c).advance_eq]; rfl) (by rw [hadv])
      refine ⟨_, ((s.issuer c).sepView w false).newEntry w e false s.dev.frame.number [] [],
        hx.trans (State.issueEng_off hm hoff rfl hgoes), ?_⟩
      rw [hadv, hl]
      exact ⟨rfl, rfl, rfl, rfl, rfl, rfl, rfl, rfl, rfl⟩
    · rw [hsome] at he; cases he

/-- Settles O14: the entry holds what the core held as it issued. -/
theorem engineInstructionsEnterQueue : Obligations.EngineInstructionsEnterQueue := by
  intro s c w i e hw hsome hm hon hcause hg
  obtain ⟨e', he, hx⟩ | ⟨he, -⟩ := exec_issues i s c w hw
  · obtain rfl : e = e' := Option.some.inj (hsome.symm.trans he)
    obtain ⟨ld, vs, hmm⟩ := (s.issuer c).mmViews_eq w
    obtain ⟨l, hl⟩ := ((s.issuer c).mmViews w).sepView_eq w true
    rw [hmm] at hl
    have hadv := Core.advance_push (s.issuer c) (((s.issuer c).mmViews w).sepView w true) w e true s.dev.frame.number
      (s.dev.extraTds w) (s.dev.collScs w) (by rw [hmm, hl]) (by rw [hmm, hl]) (by rw [hmm, hl])
    have hgoes := hg.congr (y := ((((s.issuer c).mmViews w).sepView w true).push w e true s.dev.frame.number
        (s.dev.extraTds w) (s.dev.collScs w)).advance)
      (by rw [hadv, hmm, hl, (s.issuer c).advance_eq]; rfl) (by rw [hadv, hmm, hl, (s.issuer c).advance_eq]; rfl)
      (by rw [hadv])
    refine ⟨_, (((s.issuer c).mmViews w).sepView w true).newEntry w e true s.dev.frame.number (s.dev.extraTds w)
      (s.dev.collScs w), hx.trans (State.issueEng_ok hm hon hcause rfl hgoes), ?_⟩
    rw [hadv, hmm, hl]
    exact ⟨rfl, rfl, rfl, rfl, rfl, rfl, rfl, rfl, fun n hn => Core.newEntry_td hn .., fun n hn => Core.newEntry_sc hn ..,
      rfl, rfl, rfl, rfl, rfl, rfl⟩
  · rw [hsome] at he; cases he

/-- Settles O15: a refused instruction and the end of a template record the core's first fault and the job's. -/
theorem issueFaults : Obligations.IssueFaults := by
  intro s c w i cause hw hm hon hempty hruns hcase
  have hrefused (h : exec i s = s.refusedAt c w cause) (hcode : causeCode cause = 0x11) (hlt : cause < 16) : _ :=
    refusedAt_faults hempty hruns h hcode hlt
  obtain ⟨⟨e, he⟩, hcause⟩ | ⟨psel, td, fld, sa, add, rfl, rfl, hvalue⟩ | ⟨psel, sa, offs, rfl, rfl, htarget⟩ |
    ⟨rfl, z, hi, hend⟩ := hcase
  · have hcauses := Dev.issueCause_cases hcause
    refine hrefused ?_ (by obtain rfl | rfl | rfl := hcauses <;> rfl) (by omega)
    obtain ⟨e', -, hx⟩ | ⟨hnone, -⟩ := exec_issues i s c w hw
    · rw [hx, State.issueEng_refused hm hon hcause]
    · rw [he] at hnone; cases hnone
  · obtain ⟨-, rfl⟩ := Prod.mk.inj (Option.some.inj hw)
    refine hrefused ((exec_tdset ..).trans (State.issueSeq_refused hm hon ?_)) rfl (by decide)
    simp only [tdsetEff, hvalue]
  · obtain ⟨-, rfl⟩ := Prod.mk.inj (Option.some.inj hw)
    refine hrefused (Eq.trans (show _ = s.issueSeq c _ (tickWaitEff true sa offs) from rfl)
      (State.issueSeq_refused hm hon ?_)) rfl (by decide)
    exact if_pos (by simpa using htarget)
  · have hx : ∃ eff : SeqEff, exec i s = s.issueSeq c w eff ∧ eff (s.issueClock c) s.dev (s.issuer c) = .ok z := by
      obtain ⟨psel, rfl, rfl⟩ | ⟨psel, sd, v, rfl, rfl⟩ | ⟨psel, tdd, tda, rfl, rfl⟩ := hi <;>
        obtain ⟨-, rfl⟩ := Prod.mk.inj (Option.some.inj hw)
      · exact ⟨fun _ _ x => .ok x, rfl, rfl⟩
      · exact ⟨fun _ _ x => .ok (x.setS sd v), rfl, rfl⟩
      · exact ⟨fun _ _ x => .ok (x.setT tdd (x.t tda)), rfl, rfl⟩
    obtain ⟨eff, hx, heff⟩ := hx
    have hfaults := (Dev.faultsAtIssue_runFault (d := (s.dev.setCore c z.advance).count .coreSeqIssued 1 c) (c := c)
      hruns hempty (s.issueClock c) 5 0 0 z.advance.pc 0xFFF 0).sent (Dev.sends_sendRaised _ s.dev.sec.reports (s.issueClock c))
    exact ⟨_, hx.trans (State.issueSeq_ended hm hon heff hend), hfaults.phase, hfaults.recorded, hfaults.record.code,
      hfaults.record.cause, hfaults.record.slot, fun h => absurd rfl h, hfaults.mem, hfaults.frame⟩

/-- Refutes O16: TIER requests of one control cycle go in ascending core number, so that after core 1's request the head
of core 0 acts in the next cycle. Where the job becomes FAULTED in that cycle, the head leaves although it is not yet the
cycle of the fault. -/
theorem not_queueHeadWaitsForDependencies : ¬ Obligations.QueueHeadWaitsForDependencies := by
  intro h
  have hkept := (h lateTier 0 .tier).2.1 (.inl ⟨by decide, by decide⟩) (by decide)
  rw [exec_lateTier] at hkept
  exact absurd (congrArg (fun t => t.clk.units) (Host.Outcome.next.inj hkept)) (by decide)

end Sys2Proof
end

section
/-! SUPPORT. A decoder of Tynil words, and that it reads every instruction back from its word. -/

namespace Sys2Proof.Machine

open Sys2Proof

/-- The `n` bits of a word from bit `lo` up. -/
def fieldAt (w : InsWord) (lo n : Nat) : BitVec n := w.extractLsb' lo n

/-- Bit `lo` of a word. -/
def flagAt (w : InsWord) (lo : Nat) : Bool := w.getLsbD lo

/-- SR, SC and OFF of form D (Table ENC-9). -/
def offsOf (w : InsWord) : Offs := ⟨fieldAt w 83 5, fieldAt w 78 5, flagAt w 77⟩

/-- NR − 1 and NC − 1 of form D (Table ENC-9). -/
def sizeOf (w : InsWord) : Size := ⟨fieldAt w 65 12, fieldAt w 53 12⟩

/-- The instruction of core `c` that a word encodes (Tables ENC-7 to ENC-13). -/
def decodeWord (cls opc : Nat) (c : Fin 48) (w : InsWord) : Option Instr :=
  match cls, opc with
  | 0xB, 0x01 => some (.sadd c (fieldAt w 112 4) (fieldAt w 107 5) (fieldAt w 102 5) (fieldAt w 97 5)
      (flagAt w 96) (fieldAt w 64 32))
  | 0xB, 0x02 => some (.ssub c (fieldAt w 112 4) (fieldAt w 107 5) (fieldAt w 102 5) (fieldAt w 97 5)
      (flagAt w 96) (fieldAt w 64 32))
  | 0xB, 0x03 => some (.smul c (fieldAt w 112 4) (fieldAt w 107 5) (fieldAt w 102 5) (fieldAt w 97 5)
      (flagAt w 96) (fieldAt w 64 32))
  | 0xB, 0x04 => some (.sand c (fieldAt w 112 4) (fieldAt w 107 5) (fieldAt w 102 5) (fieldAt w 97 5)
      (flagAt w 96) (fieldAt w 64 32))
  | 0xB, 0x05 => some (.sor c (fieldAt w 112 4) (fieldAt w 107 5) (fieldAt w 102 5) (fieldAt w 97 5)
      (flagAt w 96) (fieldAt w 64 32))
  | 0xB, 0x06 => some (.sxor c (fieldAt w 112 4) (fieldAt w 107 5) (fieldAt w 102 5) (fieldAt w 97 5)
      (flagAt w 96) (fieldAt w 64 32))
  | 0xB, 0x07 => some (.sshl c (fieldAt w 112 4) (fieldAt w 107 5) (fieldAt w 102 5) (fieldAt w 97 5)
      (flagAt w 96) (fieldAt w 64 32))
  | 0xB, 0x08 => some (.sshr c (fieldAt w 112 4) (fieldAt w 107 5) (fieldAt w 102 5) (fieldAt w 97 5)
      (flagAt w 96) (fieldAt w 64 32))
  | 0xB, 0x09 => some (.ssra c (fieldAt w 112 4) (fieldAt w 107 5) (fieldAt w 102 5) (fieldAt w 97 5)
      (flagAt w 96) (fieldAt w 64 32))
  | 0xB, 0x0A => some (.smovi c (fieldAt w 112 4) (fieldAt w 107 5) (fieldAt w 32 64))
  | 0xB, 0x0B => some (.scmp c (fieldAt w 112 4) (fieldAt w 109 3) (fieldAt w 107 2) (fieldAt w 102 5)
      (fieldAt w 97 5) (flagAt w 96) (fieldAt w 64 32))
  | 0xB, 0x0C => some (.pset c (fieldAt w 112 4) (fieldAt w 109 3) (fieldAt w 106 3) (fieldAt w 103 3)
      (fieldAt w 101 2))
  | 0xB, 0x10 => some (.tdset c (fieldAt w 112 4) (fieldAt w 106 6) (fieldAt w 102 4) (fieldAt w 97 5)
      (flagAt w 96))
  | 0xB, 0x11 => some (.tdcopy c (fieldAt w 112 4) (fieldAt w 106 6) (fieldAt w 100 6))
  | 0xB, 0x20 => some (.loop c (fieldAt w 112 4) (fieldAt w 96 16) (fieldAt w 78 18) (flagAt w 77)
      (fieldAt w 72 5))
  | 0xB, 0x30 => some (.syncBar c (fieldAt w 112 4) (fieldAt w 64 48) (fieldAt w 56 8))
  | 0xB, 0x31 => some (.fenceEng c (fieldAt w 112 4) (fieldAt w 99 13))
  | 0xB, 0x32 => some (.fenceGmem c (fieldAt w 112 4) (flagAt w 111) (fieldAt w 106 5))
  | 0xB, 0x3F => some (.nop c (fieldAt w 112 4))
  | 0xC, 0x01 => some (.tickEnd c (fieldAt w 112 4))
  | 0xC, 0x02 => some (.tickWait c (fieldAt w 112 4) (flagAt w 111) (fieldAt w 106 5) (fieldAt w 69 27))
  | 0xC, 0x03 => some (.tickFrame c (fieldAt w 112 4) (fieldAt w 107 5) (fieldAt w 102 5))
  | 0xC, 0x04 => some (.tickNow c (fieldAt w 112 4) (fieldAt w 107 5))
  | 0x0, 0x01 => some (.moveTile c (fieldAt w 112 4) (fieldAt w 106 6) (fieldAt w 100 6) (offsOf w) (sizeOf w)
      (fieldAt w 51 2))
  | 0x0, 0x02 => some (.moveFill c (fieldAt w 112 4) (fieldAt w 106 6) (offsOf w) (sizeOf w) (fieldAt w 46 5))
  | 0x1, 0x01 => some (.mmLoad c (fieldAt w 112 4) (fieldAt w 100 6) (offsOf w) (sizeOf w))
  | 0x1, 0x02 => some (.mmRun c (fieldAt w 112 4) (fieldAt w 100 6) (offsOf w) (sizeOf w) (fieldAt w 49 2)
      (flagAt w 48) (fieldAt w 46 2) (fieldAt w 42 4) (fieldAt w 37 5))
  | 0x1, 0x03 => some (.mmStore c (fieldAt w 112 4) (fieldAt w 106 6) (offsOf w) (sizeOf w) (fieldAt w 51 2)
      (fieldAt w 49 2))
  | 0x1, 0x04 => some (.mmPair c (fieldAt w 112 4) (fieldAt w 100 6) (fieldAt w 94 6) (sizeOf w) (fieldAt w 49 2)
      (flagAt w 48))
  | 0x2, 0x01 => some (.rowSmax c (fieldAt w 112 4) (fieldAt w 106 6) (fieldAt w 100 6) (sizeOf w)
      (fieldAt w 51 2) (fieldAt w 38 13) (fieldAt w 32 5))
  | 0x2, 0x02 => some (.rowNorm c (fieldAt w 112 4) (fieldAt w 106 6) (fieldAt w 100 6) (fieldAt w 88 6)
      (sizeOf w) (fieldAt w 51 2) (fieldAt w 38 13) (fieldAt w 32 5) (fieldAt w 30 2))
  | 0x2, 0x03 => some (.rowSmaxB c (fieldAt w 112 4) (fieldAt w 106 6) (fieldAt w 100 6) (fieldAt w 94 6)
      (sizeOf w) (fieldAt w 51 2) (fieldAt w 38 13) (flagAt w 37) (fieldAt w 32 5))
  | 0x2, 0x04 => some (.rowNormB c (fieldAt w 112 4) (fieldAt w 106 6) (fieldAt w 100 6) (fieldAt w 94 6)
      (fieldAt w 88 6) (sizeOf w) (fieldAt w 51 2) (fieldAt w 38 13) (flagAt w 37) (fieldAt w 32 5)
      (fieldAt w 30 2))
  | 0x3, 0x01 => some (.vadd c (fieldAt w 112 4) (fieldAt w 106 6) (fieldAt w 100 6) (fieldAt w 94 6) (sizeOf w)
      (fieldAt w 51 2))
  | 0x3, 0x02 => some (.vmul c (fieldAt w 112 4) (fieldAt w 106 6) (fieldAt w 100 6) (fieldAt w 94 6) (sizeOf w)
      (fieldAt w 51 2))
  | 0x3, 0x03 => some (.vfma c (fieldAt w 112 4) (fieldAt w 106 6) (fieldAt w 100 6) (fieldAt w 94 6)
      (fieldAt w 88 6) (sizeOf w) (fieldAt w 51 2))
  | 0x3, 0x04 => some (.vscale c (fieldAt w 112 4) (fieldAt w 106 6) (fieldAt w 100 6) (sizeOf w)
      (fieldAt w 51 2) (fieldAt w 46 5))
  | 0x3, 0x05 => some (.vact c (fieldAt w 112 4) (fieldAt w 106 6) (fieldAt w 100 6) (sizeOf w) (fieldAt w 51 2)
      (fieldAt w 42 4))
  | 0x3, 0x06 => some (.vamax c (fieldAt w 112 4) (fieldAt w 100 6) (sizeOf w) (fieldAt w 46 5))
  | 0x3, 0x07 => some (.vgate c (fieldAt w 112 4) (fieldAt w 106 6) (fieldAt w 100 6) (fieldAt w 94 6) (sizeOf w)
      (fieldAt w 51 2))
  | 0x3, 0x08 => some (.vopt c (fieldAt w 112 4) (fieldAt w 106 6) (fieldAt w 100 6) (fieldAt w 94 6)
      (fieldAt w 88 6) (sizeOf w) (fieldAt w 51 2) (fieldAt w 46 5) (fieldAt w 42 4))
  | 0x4, 0x01 => some (.sepSelect c (fieldAt w 112 4) (fieldAt w 106 6) (fieldAt w 100 6) (fieldAt w 90 10)
      (fieldAt w 76 14) (fieldAt w 72 4) (fieldAt w 69 3) (flagAt w 68) (fieldAt w 63 5))
  | 0x4, 0x02 => some (.sepHash c (fieldAt w 112 4) (fieldAt w 106 6) (fieldAt w 100 6) (fieldAt w 90 10)
      (fieldAt w 76 14) (fieldAt w 72 4) (fieldAt w 67 5))
  | 0x5, 0x01 => some (.churnSort c (fieldAt w 112 4) (fieldAt w 106 6) (fieldAt w 100 6) (fieldAt w 86 14)
      (flagAt w 85) (fieldAt w 75 10))
  | 0x5, 0x02 => some (.churnRestore c (fieldAt w 112 4) (fieldAt w 106 6) (fieldAt w 100 6) (fieldAt w 94 6)
      (fieldAt w 75 10))
  | 0x6, 0x01 => some (.xchDispatch c (fieldAt w 112 4) (fieldAt w 100 6) (fieldAt w 84 16) (fieldAt w 79 5))
  | 0x6, 0x02 => some (.xchRecv c (fieldAt w 112 4) (fieldAt w 106 6) (fieldAt w 84 16))
  | 0x6, 0x03 => some (.xchReturn c (fieldAt w 112 4) (fieldAt w 100 6) (fieldAt w 84 16))
  | 0x6, 0x04 => some (.xchCombine c (fieldAt w 112 4) (fieldAt w 106 6) (fieldAt w 84 16) (fieldAt w 79 5))
  | 0x7, 0x01 => some (.collBcast c (fieldAt w 112 4) (fieldAt w 100 6) (fieldAt w 88 12))
  | 0x7, 0x02 => some (.collReduce c (fieldAt w 112 4) (fieldAt w 106 6) (fieldAt w 100 6) (fieldAt w 88 12))
  | 0x7, 0x03 => some (.collWait c (fieldAt w 112 4) (fieldAt w 88 12))
  | 0x8, 0x01 => some (.gld c (fieldAt w 112 4) (fieldAt w 106 6) (fieldAt w 101 5) (fieldAt w 90 10)
      (fieldAt w 85 5) (fieldAt w 75 10))
  | 0x8, 0x02 => some (.gst c (fieldAt w 112 4) (fieldAt w 106 6) (fieldAt w 101 5) (fieldAt w 90 10)
      (fieldAt w 85 5) (fieldAt w 75 10))
  | 0x8, 0x03 => some (.gatom c (fieldAt w 112 4) (fieldAt w 107 5) (fieldAt w 102 5) (fieldAt w 97 5)
      (fieldAt w 87 10) (fieldAt w 82 5) (fieldAt w 79 3))
  | 0x9, 0x01 => some (.palloc c (fieldAt w 112 4) (fieldAt w 107 5) (fieldAt w 102 5))
  | 0x9, 0x02 => some (.pfree c (fieldAt w 112 4) (fieldAt w 102 5))
  | 0x9, 0x03 => some (.pshare c (fieldAt w 112 4) (fieldAt w 102 5) (fieldAt w 97 5))
  | 0x9, 0x04 => some (.tdpail c (fieldAt w 112 4) (fieldAt w 106 6) (fieldAt w 101 5))
  | 0xA, 0x01 => some (.tpromote c (fieldAt w 112 4) (fieldAt w 102 5) (fieldAt w 100 2))
  | 0xA, 0x02 => some (.tevict c (fieldAt w 112 4) (fieldAt w 102 5) (fieldAt w 100 2))
  | 0xA, 0x03 => some (.ttouch c (fieldAt w 112 4) (fieldAt w 102 5))
  | 0xA, 0x04 => some (.twait c (fieldAt w 112 4) (fieldAt w 102 5))
  | _, _ => none

theorem fieldAt_eq_iff {w : InsWord} {lo n : Nat} {v : BitVec n} :
    fieldAt w lo n = v ↔ w.toNat / 2 ^ lo % 2 ^ n = v.toNat := by
  rw [fieldAt, ← BitVec.toNat_inj, BitVec.extractLsb'_toNat, Nat.shiftRight_eq_div_pow]

theorem flagAt_eq_iff {w : InsWord} {lo : Nat} {b : Bool} :
    flagAt w lo = b ↔ w.toNat / 2 ^ lo % 2 = (BitVec.ofBool b).toNat := by
  rw [flagAt, BitVec.getLsbD, Nat.testBit_eq_decide_div_mod_eq]
  cases b <;> simp

theorem toNat_eq_ofBool (b : Bool) : b.toNat = (BitVec.ofBool b).toNat := (BitVec.toNat_ofBool b).symm

theorem offsOf_eq_iff {w : InsWord} {o : Offs} : offsOf w = o ↔
    fieldAt w 83 5 = o.sr ∧ fieldAt w 78 5 = o.sc ∧ flagAt w 77 = o.off := by
  cases o; simp only [offsOf, Offs.mk.injEq]

theorem sizeOf_eq_iff {w : InsWord} {z : Size} : sizeOf w = z ↔
    fieldAt w 65 12 = z.nr ∧ fieldAt w 53 12 = z.nc := by
  cases z; simp only [sizeOf, Size.mk.injEq]

/-- Every instruction's word carries its code. -/
theorem wordCode (i : Instr) : Laws.WordCode.Statement i := by
  cases i with
  | sadd => exact Laws.WordCode.sadd _ _ _ _ _ _ _
  | ssub => exact Laws.WordCode.ssub _ _ _ _ _ _ _
  | smul => exact Laws.WordCode.smul _ _ _ _ _ _ _
  | sand => exact Laws.WordCode.sand _ _ _ _ _ _ _
  | sor => exact Laws.WordCode.sor _ _ _ _ _ _ _
  | sxor => exact Laws.WordCode.sxor _ _ _ _ _ _ _
  | sshl => exact Laws.WordCode.sshl _ _ _ _ _ _ _
  | sshr => exact Laws.WordCode.sshr _ _ _ _ _ _ _
  | ssra => exact Laws.WordCode.ssra _ _ _ _ _ _ _
  | smovi => exact Laws.WordCode.smovi _ _ _ _
  | scmp => exact Laws.WordCode.scmp _ _ _ _ _ _ _ _
  | pset => exact Laws.WordCode.pset _ _ _ _ _ _
  | tdset => exact Laws.WordCode.tdset _ _ _ _ _ _
  | tdcopy => exact Laws.WordCode.tdcopy _ _ _ _
  | loop => exact Laws.WordCode.loop _ _ _ _ _ _
  | syncBar => exact Laws.WordCode.syncBar _ _ _ _
  | fenceEng => exact Laws.WordCode.fenceEng _ _ _
  | fenceGmem => exact Laws.WordCode.fenceGmem _ _ _ _
  | nop => exact Laws.WordCode.nop _ _
  | tickEnd => exact Laws.WordCode.tickEnd _ _
  | tickWait => exact Laws.WordCode.tickWait _ _ _ _ _
  | tickFrame => exact Laws.WordCode.tickFrame _ _ _ _
  | tickNow => exact Laws.WordCode.tickNow _ _ _
  | moveTile => exact Laws.WordCode.moveTile _ _ _ _ _ _ _
  | moveFill => exact Laws.WordCode.moveFill _ _ _ _ _ _
  | mmLoad => exact Laws.WordCode.mmLoad _ _ _ _ _
  | mmRun => exact Laws.WordCode.mmRun _ _ _ _ _ _ _ _ _ _
  | mmStore => exact Laws.WordCode.mmStore _ _ _ _ _ _ _
  | mmPair => exact Laws.WordCode.mmPair _ _ _ _ _ _ _
  | rowSmax => exact Laws.WordCode.rowSmax _ _ _ _ _ _ _ _
  | rowNorm => exact Laws.WordCode.rowNorm _ _ _ _ _ _ _ _ _ _
  | rowSmaxB => exact Laws.WordCode.rowSmaxB _ _ _ _ _ _ _ _ _ _
  | rowNormB => exact Laws.WordCode.rowNormB _ _ _ _ _ _ _ _ _ _ _ _
  | vadd => exact Laws.WordCode.vadd _ _ _ _ _ _ _
  | vmul => exact Laws.WordCode.vmul _ _ _ _ _ _ _
  | vfma => exact Laws.WordCode.vfma _ _ _ _ _ _ _ _
  | vscale => exact Laws.WordCode.vscale _ _ _ _ _ _ _
  | vact => exact Laws.WordCode.vact _ _ _ _ _ _ _
  | vamax => exact Laws.WordCode.vamax _ _ _ _ _
  | vgate => exact Laws.WordCode.vgate _ _ _ _ _ _ _
  | vopt => exact Laws.WordCode.vopt _ _ _ _ _ _ _ _ _ _
  | sepSelect => exact Laws.WordCode.sepSelect _ _ _ _ _ _ _ _ _ _
  | sepHash => exact Laws.WordCode.sepHash _ _ _ _ _ _ _ _
  | churnSort => exact Laws.WordCode.churnSort _ _ _ _ _ _ _
  | churnRestore => exact Laws.WordCode.churnRestore _ _ _ _ _ _
  | xchDispatch => exact Laws.WordCode.xchDispatch _ _ _ _ _
  | xchRecv => exact Laws.WordCode.xchRecv _ _ _ _
  | xchReturn => exact Laws.WordCode.xchReturn _ _ _ _
  | xchCombine => exact Laws.WordCode.xchCombine _ _ _ _ _
  | collBcast => exact Laws.WordCode.collBcast _ _ _ _
  | collReduce => exact Laws.WordCode.collReduce _ _ _ _ _
  | collWait => exact Laws.WordCode.collWait _ _ _
  | gld => exact Laws.WordCode.gld _ _ _ _ _ _ _
  | gst => exact Laws.WordCode.gst _ _ _ _ _ _ _
  | gatom => exact Laws.WordCode.gatom _ _ _ _ _ _ _ _
  | palloc => exact Laws.WordCode.palloc _ _ _ _
  | pfree => exact Laws.WordCode.pfree _ _ _
  | pshare => exact Laws.WordCode.pshare _ _ _ _
  | tdpail => exact Laws.WordCode.tdpail _ _ _ _
  | tpromote => exact Laws.WordCode.tpromote _ _ _ _
  | tevict => exact Laws.WordCode.tevict _ _ _ _
  | ttouch => exact Laws.WordCode.ttouch _ _ _
  | twait => exact Laws.WordCode.twait _ _ _
  | _ => exact fun _ _ h => nomatch h

/-- Classes 0 and 1: the loader, the array and the pairing unit. -/
theorem decodeWord_move {i : Instr} {c : Fin 48} {w : InsWord} (hg : i.code.any (fun x => x.1 ≤ 1) = true)
    (h : i.word = some (c, w)) : (i.code.bind fun x => decodeWord x.1 x.2 c w) = some i := by
  cases i with
  | moveTile | moveFill | mmLoad | mmRun | mmStore | mmPair =>
    obtain ⟨rfl, hw⟩ := Prod.mk.inj (Option.some.inj h)
    have hn := congrArg BitVec.toNat hw
    simp only [encMmLoad, encMmPair, encMmRun, encMmStore, encMoveFill, encMoveTile, mkWord, Offs.fields,
      Size.fields, List.cons_append, List.nil_append, sumBy_cons, sumBy_nil, toNat_eq_ofBool,
      BitVec.toNat_ofNat] at hn
    refine congrArg some ?_
    simp [fieldAt_eq_iff, flagAt_eq_iff, offsOf_eq_iff, sizeOf_eq_iff, -BitVec.toNat_ofBool]
    omega
  | _ => exact nomatch hg

/-- Classes 2 and 3: the row engine and the vector unit. -/
theorem decodeWord_row {i : Instr} {c : Fin 48} {w : InsWord} (hg : i.code.any (fun x => 2 ≤ x.1 && x.1 ≤ 3) = true)
    (h : i.word = some (c, w)) : (i.code.bind fun x => decodeWord x.1 x.2 c w) = some i := by
  cases i with
  | rowSmax | rowNorm | rowSmaxB | rowNormB | vadd | vmul | vfma | vscale | vact | vamax | vgate | vopt =>
    obtain ⟨rfl, hw⟩ := Prod.mk.inj (Option.some.inj h)
    have hn := congrArg BitVec.toNat hw
    simp only [encRowNorm, encRowNormB, encRowSmax, encRowSmaxB, encVact, encVamax, encVec2, encVfma,
      encVgate, encVopt, encVscale, mkWord, Offs.fields, Size.fields, List.cons_append, List.nil_append,
      sumBy_cons, sumBy_nil, toNat_eq_ofBool, BitVec.toNat_ofNat] at hn
    refine congrArg some ?_
    simp [fieldAt_eq_iff, flagAt_eq_iff, offsOf_eq_iff, sizeOf_eq_iff, -BitVec.toNat_ofBool]
    omega
  | _ => exact nomatch hg

/-- Classes 4 to 10: the other engines. -/
theorem decodeWord_engine {i : Instr} {c : Fin 48} {w : InsWord} (hg : i.code.any (fun x => 4 ≤ x.1 && x.1 ≤ 10) = true)
    (h : i.word = some (c, w)) : (i.code.bind fun x => decodeWord x.1 x.2 c w) = some i := by
  cases i with
  | sepSelect | sepHash | churnSort | churnRestore | xchDispatch | xchRecv | xchReturn | xchCombine |
  collBcast | collReduce | collWait | gld | gst | gatom | palloc | pfree | pshare | tdpail | tpromote | tevict
  | ttouch | twait =>
    obtain ⟨rfl, hw⟩ := Prod.mk.inj (Option.some.inj h)
    have hn := congrArg BitVec.toNat hw
    simp only [encChurnRestore, encChurnSort, encCollBcast, encCollReduce, encCollWait, encGatom, encGmem,
      encPalloc, encPfree, encPshare, encSepHash, encSepSelect, encTdpail, encTierMove, encTierObj,
      encXchCombine, encXchDispatch, encXchRecv, encXchReturn, mkWord, sumBy_cons, sumBy_nil,
      toNat_eq_ofBool, BitVec.toNat_ofNat] at hn
    refine congrArg some ?_
    simp [fieldAt_eq_iff, flagAt_eq_iff, offsOf_eq_iff, sizeOf_eq_iff, -BitVec.toNat_ofBool]
    omega
  | _ => exact nomatch hg

/-- Classes 11 and 12: what executes at issue. -/
theorem decodeWord_issue {i : Instr} {c : Fin 48} {w : InsWord} (hg : i.code.any (fun x => 11 ≤ x.1) = true)
    (h : i.word = some (c, w)) : (i.code.bind fun x => decodeWord x.1 x.2 c w) = some i := by
  cases i with
  | sadd | ssub | smul | sand | sor | sxor | sshl | sshr | ssra | smovi | scmp | pset | tdset | tdcopy | loop
  | syncBar | fenceEng | fenceGmem | nop | tickEnd | tickWait | tickFrame | tickNow =>
    obtain ⟨rfl, hw⟩ := Prod.mk.inj (Option.some.inj h)
    have hn := congrArg BitVec.toNat hw
    simp only [encArith, encFenceEng, encFenceGmem, encLoop, encNop, encPset, encScmp, encSmovi, encSyncBar,
      encTdcopy, encTdset, encTickEnd, encTickFrame, encTickNow, encTickWait, mkWord, sumBy_cons, sumBy_nil,
      toNat_eq_ofBool, BitVec.toNat_ofNat] at hn
    refine congrArg some ?_
    simp [fieldAt_eq_iff, flagAt_eq_iff, offsOf_eq_iff, sizeOf_eq_iff, -BitVec.toNat_ofBool]
    omega
  | _ => exact nomatch hg

/-- Decoding takes every Tynil instruction back from its word. -/
theorem decodeWord_word {i : Instr} {c : Fin 48} {w : InsWord} (h : i.word = some (c, w)) :
    decodeWord (wCls w) (wOp w) c w = some i := by
  have hcode : i.code = some (wCls w, wOp w) := wordCode i c w h
  have hdecoded : (i.code.bind fun x => decodeWord x.1 x.2 c w) = some i := by
    rcases Nat.lt_or_ge (wCls w) 2 with h2 | h2
    · exact decodeWord_move (by simp [hcode]; omega) h
    rcases Nat.lt_or_ge (wCls w) 4 with h4 | h4
    · exact decodeWord_row (by simp [hcode]; omega) h
    rcases Nat.lt_or_ge (wCls w) 11 with h11 | h11
    · exact decodeWord_engine (by simp [hcode]; omega) h
    · exact decodeWord_issue (by simp [hcode]; omega) h
  rwa [hcode] at hdecoded

end Sys2Proof.Machine

namespace Sys2Proof

open Machine

/-- Settles O60: the decoder is a left inverse. -/
theorem tynilWordsAreDistinct : Obligations.TynilWordsAreDistinct := by
  intro i j c w hi hj
  exact Option.some.inj ((decodeWord_word hi).symm.trans (decodeWord_word hj))

end Sys2Proof
end

section

/-! SUPPORT. The state after reset (O2). -/

namespace Sys2Proof
open Machine

/-- Settles O2: every stored thing is a constant of the reset state, read off entry by entry
from the replicated vectors. -/
theorem resetHoldsDevice : Obligations.ResetHoldsDevice := by
  refine ⟨rfl, rfl, rfl, rfl, rfl, rfl, rfl, fun _ _ _ => rfl, ?_, by decide,
    fun _ => ⟨rfl, rfl⟩, ?_, ?_, ⟨rfl, ?_⟩, ?_, rfl⟩
  · exact fun c => Vector.getElem_replicate c.isLt
  · exact fun c a => ⟨congrArg (Memory.read · a) (Vector.getElem_replicate c.isLt),
      congrArg (Memory.read · a) (Vector.getElem_replicate c.isLt)⟩
  · exact fun x a => congrArg (Memory.read · a) (Vector.getElem_replicate x.isLt)
  · exact fun _ h => nomatch h
  · simp [State.reset, Dev.blank, Mem.empty, Mem.wf, Memory.wf, Sparse.wf, Sparse.rising,
      Vector.all_eq_true]

end Sys2Proof
end

section
/-! SUPPORT. Footprints: the parts of the device and the register fields that an update may change, and that it keeps
the canonical form of memories and counts. Each function of the model has one lemma that names its footprint. -/

-- One proof at a time: each thread that elaborates beside the others reserves its stack.
set_option Elab.async false

namespace Sys2Proof.Machine

open Sys2Proof

/-- The job is as it was, or a fault has ended it (R75). -/
def Job.MayFault (j j' : Job) : Prop :=
  j' = j ∨ ((j.phase.faultable = true ∨ j.phase = .admitted) ∧
    j' = { j with phase := .faulted, faultCc := j'.faultCc, tearFrom := j'.tearFrom, endFrame := j'.endFrame, abort := false })

@[simp] theorem Job.MayFault.refl (j : Job) : j.MayFault j := .inl rfl

theorem Job.MayFault.trans {i j k : Job} (h : i.MayFault j) (g : j.MayFault k) : i.MayFault k := by
  rcases g with rfl | ⟨hj, hk⟩
  · exact h
  · rcases h with rfl | ⟨-, h⟩
    · exact .inr ⟨hj, hk⟩
    · rw [h] at hj
      simp [JobPhase.faultable] at hj

/-- A part of the device; DUTY is what of the job a fault leaves: a footprint without it lets the job fault at most. -/
inductive Part where
  | order | regs | acc | ctl | start | sync | job | image | frame | cores | mem | sep | layerInv | churn | pail | xch
  | tier | gmem | herd | coll | fab | twin | snap | sec | host | pwr | out | work | free | rates | updated
  | duty
  deriving DecidableEq

/-- A part is the same in two devices. -/
def Part.Same (d e : Dev) : Part → Prop
  | .order => e.order = d.order
  | .regs => e.regs = d.regs
  | .acc => e.acc = d.acc
  | .ctl => e.ctl = d.ctl
  | .start => e.start = d.start
  | .sync => e.sync = d.sync
  | .job => e.job = d.job
  | .image => e.image = d.image
  | .frame => e.frame = d.frame
  | .cores => e.cores = d.cores
  | .mem => e.mem = d.mem
  | .sep => e.sep = d.sep
  | .layerInv => e.layerInv = d.layerInv
  | .churn => e.churn = d.churn
  | .pail => e.pail = d.pail
  | .xch => e.xch = d.xch
  | .tier => e.tier = d.tier
  | .gmem => e.gmem = d.gmem
  | .herd => e.herd = d.herd
  | .coll => e.coll = d.coll
  | .fab => e.fab = d.fab
  | .twin => e.twin = d.twin
  | .snap => e.snap = d.snap
  | .sec => e.sec = d.sec
  | .host => e.host = d.host
  | .pwr => e.pwr = d.pwr
  | .out => e.out = d.out
  | .work => e.work = d.work
  | .free => e.free = d.free
  | .rates => e.rates = d.rates
  | .updated => e.updated = d.updated
  | .duty => d.job.MayFault e.job

theorem Part.same_refl (d : Dev) (p : Part) : p.Same d d := by
  cases p
  case duty => exact .refl _
  all_goals rfl

theorem Part.Same.trans {a b c : Dev} {p : Part} (h : p.Same a b) (g : p.Same b c) : p.Same a c := by
  cases p
  case duty => exact Job.MayFault.trans h g
  all_goals exact Eq.trans g h

/-- Memories are in canonical form, and the running counts rise. -/
structure Dev.Canon (d : Dev) : Prop where
  mem : d.mem.wf = true
  acc : Sparse.rising none d.acc = true

/-- `e` differs from `d` at most in the parts `ps` and, of the register fields, in `fs`; it keeps the canonical form. -/
structure Dev.Touches (ps : List Part) (fs : List Fld) (d e : Dev) : Prop where
  same : ∀ p, p ∉ ps → p.Same d e
  reads : ∀ f i j, f ∉ fs → i < 128 → j < 64 → e.rd f i j = d.rd f i j
  canon : d.Canon → e.Canon

theorem Dev.Touches.refl {ps : List Part} {fs : List Fld} (d : Dev) : d.Touches ps fs d :=
  ⟨fun p _ => p.same_refl d, fun _ _ _ _ _ _ => rfl, id⟩

section Closure

variable {ps qs : List Part} {fs gs : List Fld} {a d e : Dev}

/-- A wider footprint. -/
theorem Dev.Touches.mono (h : d.Touches qs gs e) (hp : qs ⊆ ps := by decide) (hf : gs ⊆ fs := by decide) :
    d.Touches ps fs e :=
  ⟨fun p hn => h.same p fun hq => hn (hp hq), fun f i j hn => h.reads f i j fun hg => hn (hf hg), h.canon⟩

/-- An update within the footprint follows. -/
theorem Dev.Touches.next (h : a.Touches ps fs d) (g : d.Touches qs gs e) (hp : qs ⊆ ps := by decide)
    (hf : gs ⊆ fs := by decide) : a.Touches ps fs e :=
  have w : d.Touches ps fs e := g.mono hp hf
  ⟨fun p hn => (h.same p hn).trans (w.same p hn),
    fun f i j hn hi hj => (w.reads f i j hn hi hj).trans (h.reads f i j hn hi hj), fun hc => w.canon (h.canon hc)⟩

/-- A fold of updates within the footprint. -/
theorem Dev.Touches.foldl {α : Type} {f : Dev → α → Dev} {l : List α} (h : a.Touches ps fs d)
    (hf : ∀ e : Dev, ∀ x ∈ l, e.Touches ps fs (f e x)) : a.Touches ps fs (l.foldl f d) := by
  induction l generalizing d with
  | nil => exact h
  | cons x t ih =>
    exact ih (h.next (hf d x (.head t)) (List.Subset.refl _) (List.Subset.refl _)) fun e y hy => hf e y (.tail x hy)

/-- Either branch stays within the footprint. -/
theorem Dev.Touches.ite {c : Prop} [Decidable c] (h : a.Touches ps fs d) (g : a.Touches ps fs e) :
    a.Touches ps fs (if c then d else e) := by
  split
  · exact h
  · exact g

theorem Dev.Touches.of_fst {α : Type} {p : Dev × α} {x : α} (h : a.Touches ps fs p.1) (hp : p = (d, x)) :
    a.Touches ps fs d := by rwa [hp] at h

theorem Dev.Touches.of_snd {α : Type} {p : α × Dev} {x : α} (h : a.Touches ps fs p.2) (hp : p = (x, d)) :
    a.Touches ps fs d := by rwa [hp] at h

theorem Dev.Touches.fst {α : Type} {x : α} (h : a.Touches ps fs d) : a.Touches ps fs (d, x).1 := h

theorem Dev.Touches.snd {α : Type} {x : α} (h : a.Touches ps fs d) : a.Touches ps fs (x, d).2 := h

/-- A fold of updates that carries a value along. -/
theorem Dev.Touches.foldl_fst {α β : Type} {f : Dev × β → α → Dev × β} {l : List α} {x : Dev × β}
    (h : a.Touches ps fs x.1) (hf : ∀ (e : Dev) (b : β), ∀ y ∈ l, e.Touches ps fs (f (e, b) y).1) :
    a.Touches ps fs (l.foldl f x).1 := by
  induction l generalizing x with
  | nil => exact h
  | cons y t ih =>
    exact ih (h.next (hf x.1 x.2 y (.head t)) (List.Subset.refl _) (List.Subset.refl _))
      fun e b z hz => hf e b z (.tail y hz)

theorem Dev.Touches.foldl_snd {α β : Type} {f : β × Dev → α → β × Dev} {l : List α} {x : β × Dev}
    (h : a.Touches ps fs x.2) (hf : ∀ (b : β) (e : Dev), ∀ y ∈ l, e.Touches ps fs (f (b, e) y).2) :
    a.Touches ps fs (l.foldl f x).2 := by
  induction l generalizing x with
  | nil => exact h
  | cons y t ih =>
    exact ih (h.next (hf x.1 x.2 y (.head t)) (List.Subset.refl _) (List.Subset.refl _))
      fun b e z hz => hf b e z (.tail y hz)

end Closure

theorem Dev.touches_foldl {ps : List Part} {fs : List Fld} {α : Type} {f : Dev → α → Dev} {l : List α} (d : Dev)
    (hf : ∀ e : Dev, ∀ x ∈ l, e.Touches ps fs (f e x)) : d.Touches ps fs (l.foldl f d) := (Dev.Touches.refl d).foldl hf

/-! ### What lies outside a footprint -/

section Outside

variable {ps : List Part} {fs : List Fld} {d e : Dev} (h : d.Touches ps fs e)

include h

theorem Dev.Touches.order (hp : Part.order ∉ ps := by decide) : e.order = d.order := h.same .order hp
theorem Dev.Touches.regs (hp : Part.regs ∉ ps := by decide) : e.regs = d.regs := h.same .regs hp
theorem Dev.Touches.acc (hp : Part.acc ∉ ps := by decide) : e.acc = d.acc := h.same .acc hp
theorem Dev.Touches.ctl (hp : Part.ctl ∉ ps := by decide) : e.ctl = d.ctl := h.same .ctl hp
theorem Dev.Touches.start (hp : Part.start ∉ ps := by decide) : e.start = d.start := h.same .start hp
theorem Dev.Touches.sync (hp : Part.sync ∉ ps := by decide) : e.sync = d.sync := h.same .sync hp
theorem Dev.Touches.job (hp : Part.job ∉ ps := by decide) : e.job = d.job := h.same .job hp
theorem Dev.Touches.duty (hp : Part.duty ∉ ps := by decide) : d.job.MayFault e.job := h.same .duty hp
theorem Dev.Touches.image (hp : Part.image ∉ ps := by decide) : e.image = d.image := h.same .image hp
theorem Dev.Touches.frame (hp : Part.frame ∉ ps := by decide) : e.frame = d.frame := h.same .frame hp
theorem Dev.Touches.cores (hp : Part.cores ∉ ps := by decide) : e.cores = d.cores := h.same .cores hp
theorem Dev.Touches.mem (hp : Part.mem ∉ ps := by decide) : e.mem = d.mem := h.same .mem hp
theorem Dev.Touches.sep (hp : Part.sep ∉ ps := by decide) : e.sep = d.sep := h.same .sep hp
theorem Dev.Touches.layerInv (hp : Part.layerInv ∉ ps := by decide) : e.layerInv = d.layerInv := h.same .layerInv hp
theorem Dev.Touches.churn (hp : Part.churn ∉ ps := by decide) : e.churn = d.churn := h.same .churn hp
theorem Dev.Touches.pail (hp : Part.pail ∉ ps := by decide) : e.pail = d.pail := h.same .pail hp
theorem Dev.Touches.xch (hp : Part.xch ∉ ps := by decide) : e.xch = d.xch := h.same .xch hp
theorem Dev.Touches.tier (hp : Part.tier ∉ ps := by decide) : e.tier = d.tier := h.same .tier hp
theorem Dev.Touches.gmem (hp : Part.gmem ∉ ps := by decide) : e.gmem = d.gmem := h.same .gmem hp
theorem Dev.Touches.herd (hp : Part.herd ∉ ps := by decide) : e.herd = d.herd := h.same .herd hp
theorem Dev.Touches.coll (hp : Part.coll ∉ ps := by decide) : e.coll = d.coll := h.same .coll hp
theorem Dev.Touches.fab (hp : Part.fab ∉ ps := by decide) : e.fab = d.fab := h.same .fab hp
theorem Dev.Touches.twin (hp : Part.twin ∉ ps := by decide) : e.twin = d.twin := h.same .twin hp
theorem Dev.Touches.snap (hp : Part.snap ∉ ps := by decide) : e.snap = d.snap := h.same .snap hp
theorem Dev.Touches.sec (hp : Part.sec ∉ ps := by decide) : e.sec = d.sec := h.same .sec hp
theorem Dev.Touches.host (hp : Part.host ∉ ps := by decide) : e.host = d.host := h.same .host hp
theorem Dev.Touches.pwr (hp : Part.pwr ∉ ps := by decide) : e.pwr = d.pwr := h.same .pwr hp
theorem Dev.Touches.out (hp : Part.out ∉ ps := by decide) : e.out = d.out := h.same .out hp
theorem Dev.Touches.work (hp : Part.work ∉ ps := by decide) : e.work = d.work := h.same .work hp
theorem Dev.Touches.free (hp : Part.free ∉ ps := by decide) : e.free = d.free := h.same .free hp
theorem Dev.Touches.rates (hp : Part.rates ∉ ps := by decide) : e.rates = d.rates := h.same .rates hp
theorem Dev.Touches.updated (hp : Part.updated ∉ ps := by decide) : e.updated = d.updated := h.same .updated hp

theorem Dev.Touches.rd (f : Fld) (hf : f ∉ fs := by decide) : e.rd f = d.rd f :=
  h.reads f 0 0 hf (by decide) (by decide)

end Outside

/-- A write of a key keeps the keys rising. -/
theorem Sparse.rising_set {α : Type} [DecidableEq α] (m : Sparse α) (d v : α) (k : Nat)
    (h : Sparse.rising none m = true) : Sparse.rising none (Sparse.set m d k v) = true := by
  unfold Sparse.set
  split
  · exact Sparse.rising_erase _ _ _ h
  · exact Sparse.rising_insert _ _ _ _ (by simp) h

/-! ### Updates of one part -/

/-- Parts other than registers, counts and memories change freely. -/
theorem Dev.touches_of_same {ps : List Part} {d e : Dev} (hregs : e.regs = d.regs) (hacc : e.acc = d.acc)
    (hmem : e.mem = d.mem) (h : ∀ p, p ∉ ps → p.Same d e) : d.Touches ps [] e where
  same := h
  reads f i j _ _ _ := by simp only [Dev.rd, hregs]
  canon hc := ⟨hmem ▸ hc.mem, hacc ▸ hc.acc⟩

section Parts

variable (d : Dev)


theorem Dev.touches_acc {x : RegFile} (hx : Sparse.rising none d.acc = true → Sparse.rising none x = true) :
    d.Touches [.acc] [] { d with acc := x } where
  same p hp := by cases p <;> simp_all [Part.Same]
  reads _ _ _ _ _ _ := rfl
  canon hc := ⟨hc.mem, hx hc.acc⟩

theorem Dev.touches_mem {x : Mem} (hx : d.mem.wf = true → x.wf = true) : d.Touches [.mem] [] { d with mem := x } where
  same p hp := by cases p <;> simp_all [Part.Same]
  reads _ _ _ _ _ _ := rfl
  canon hc := ⟨hx hc.mem, hc.acc⟩

theorem Dev.touches_wr (f : Fld) (v : Nat) (i : Nat := 0) (j : Nat := 0) (hi : i < 128 := by omega)
    (hj : j < 64 := by omega) : d.Touches [.regs] [f] (d.wr f v i j) where
  same p hp := by cases p <;> simp_all [Part.Same]
  reads g i' j' hg hi' hj' :=
    d.rd_wr_num f g v i j i' j' (fun e => hg (by simp [Fld.num_inj e])) hi hi' hj hj'
  canon hc := ⟨hc.mem, hc.acc⟩

end Parts

/-- The parts `ps` of `e`, and the other parts of `d`. -/
def Dev.graft (ps : List Part) (d e : Dev) : Dev where
  order := if .order ∈ ps then e.order else d.order
  regs := if .regs ∈ ps then e.regs else d.regs
  acc := if .acc ∈ ps then e.acc else d.acc
  ctl := if .ctl ∈ ps then e.ctl else d.ctl
  start := if .start ∈ ps then e.start else d.start
  sync := if .sync ∈ ps then e.sync else d.sync
  job := if .job ∈ ps ∧ .duty ∈ ps then e.job else d.job
  image := if .image ∈ ps then e.image else d.image
  frame := if .frame ∈ ps then e.frame else d.frame
  cores := if .cores ∈ ps then e.cores else d.cores
  mem := if .mem ∈ ps then e.mem else d.mem
  sep := if .sep ∈ ps then e.sep else d.sep
  layerInv := if .layerInv ∈ ps then e.layerInv else d.layerInv
  churn := if .churn ∈ ps then e.churn else d.churn
  pail := if .pail ∈ ps then e.pail else d.pail
  xch := if .xch ∈ ps then e.xch else d.xch
  tier := if .tier ∈ ps then e.tier else d.tier
  gmem := if .gmem ∈ ps then e.gmem else d.gmem
  herd := if .herd ∈ ps then e.herd else d.herd
  coll := if .coll ∈ ps then e.coll else d.coll
  fab := if .fab ∈ ps then e.fab else d.fab
  twin := if .twin ∈ ps then e.twin else d.twin
  snap := if .snap ∈ ps then e.snap else d.snap
  sec := if .sec ∈ ps then e.sec else d.sec
  host := if .host ∈ ps then e.host else d.host
  pwr := if .pwr ∈ ps then e.pwr else d.pwr
  out := if .out ∈ ps then e.out else d.out
  work := if .work ∈ ps then e.work else d.work
  free := if .free ∈ ps then e.free else d.free
  rates := if .rates ∈ ps then e.rates else d.rates
  updated := if .updated ∈ ps then e.updated else d.updated

/-- What a graft takes from the first device is the same there. -/
theorem Part.same_of_graft {ps : List Part} {d e : Dev} (h : e = d.graft ps e) (p : Part) (hp : p ∉ ps) :
    p.Same d e := by
  rw [h]
  cases p
  case job => exact if_neg fun hb => hp hb.1
  case duty => exact .inl (if_neg fun hb => hp hb.2)
  all_goals exact if_neg hp

/-- An update of parts of the footprint other than registers, counts and memories. -/
theorem Dev.Touches.set {ps : List Part} {fs : List Fld} {a d e : Dev} (h : a.Touches ps fs d) (hg : e = d.graft ps e)
    (hregs : e.regs = d.regs := by rfl) (hacc : e.acc = d.acc := by rfl) (hmem : e.mem = d.mem := by rfl) :
    a.Touches ps fs e :=
  h.next (Dev.touches_of_same hregs hacc hmem (Part.same_of_graft hg)) (List.Subset.refl _) (List.nil_subset _)

/-- An update of parts of the footprint that keeps the form of memories and counts. -/
theorem Dev.Touches.update {ps : List Part} {fs : List Fld} {a d e : Dev} (h : a.Touches ps fs d)
    (hg : e = d.graft ps e) (hregs : e.regs = d.regs) (hcanon : d.Canon → e.Canon) : a.Touches ps fs e where
  same p hp := (h.same p hp).trans (Part.same_of_graft hg p hp)
  reads f i j hf hi hj := by
    rw [← h.reads f i j hf hi hj]
    simp only [Dev.rd, hregs]
  canon hc := hcanon (h.canon hc)

/-- The memories are in canonical form one by one. -/
theorem Mem.wf_iff (m : Mem) : m.wf = true ↔ m.hbm.wf = true ∧ (∀ c : Fin 48, m.tile[c].wf = true) ∧
    (∀ x : Fin 12, m.die[x].wf = true) ∧ (∀ c : Fin 48, m.stat[c].wf = true) ∧ m.host.wf = true ∧ m.nvme.wf = true ∧
    Sparse.rising none m.flash = true := by
  simp [Mem.wf, Vector.all_eq_true, Fin.forall_iff, and_assoc]

/-! ### Registers and counts -/

section Counts

variable (d : Dev)

theorem Dev.touches_noteUpdate (f : Fld) (i j : Nat) : d.Touches [.updated] [] (d.noteUpdate f i j) :=
  (Dev.Touches.refl d).set rfl

theorem Dev.touches_flag (f : Fld) (i : Nat := 0) (j : Nat := 0) (hi : i < 128 := by omega) (hj : j < 64 := by omega) :
    d.Touches [.regs, .updated] [f] (d.flag f i j) :=
  ((d.touches_wr f 1 i j hi hj).mono (by decide) (List.Subset.refl _)).next (Dev.touches_noteUpdate _ f i j) (by decide) (List.nil_subset _)

theorem Dev.touches_bump (f : Fld) (n : Nat := 1) (i : Nat := 0) (j : Nat := 0) (hi : i < 128 := by omega)
    (hj : j < 64 := by omega) : d.Touches [.regs] [f] (d.bump f n i j) := d.touches_wr f _ i j hi hj

theorem Dev.touches_setRunning (f : Fld) (v i j : Nat) : d.Touches [.acc] [] (d.setRunning f v i j) :=
  d.touches_acc (Sparse.rising_set _ _ _ _)

theorem Dev.touches_count (f : Fld) (n i j : Nat) : d.Touches [.acc] [] (d.count f n i j) := d.touches_setRunning ..

theorem Dev.touches_peak (f : Fld) (n i j : Nat) : d.Touches [.acc] [] (d.peak f n i j) := d.touches_setRunning ..

theorem Dev.touches_dropCounts (ks : List FldKind) : d.Touches [.acc] [] (d.dropCounts ks) :=
  d.touches_acc (Sparse.rising_filter _ _ _)

theorem Dev.touches_wr64 (lo hi : Fld) (v : Nat) : d.Touches [.regs] [lo, hi] (d.wr64 lo hi v) :=
  ((d.touches_wr lo _).mono (by decide) (by simp)).next (Dev.touches_wr _ hi _) (by decide) (by simp)

end Counts

end Sys2Proof.Machine
end

section
/-! SUPPORT. The footprint of sending. -/

-- One proof at a time: each thread that elaborates beside the others reserves its stack.
set_option Elab.async false

namespace Sys2Proof.Machine

open Sys2Proof

/-- What sending changes: counts, the fabric, waiting reports, what has left the device and counted work. -/
def sendParts : List Part := [.acc, .fab, .sec, .out, .work]

section Sending

variable {a d : Dev} (h : a.Touches sendParts [] d)

include h

theorem Dev.Touches.foldl_sends {α : Type} {f : Dev → α → Dev} {l : List α}
    (hf : ∀ {e : Dev}, a.Touches sendParts [] e → ∀ x, a.Touches sendParts [] (f e x)) :
    a.Touches sendParts [] (l.foldl f d) := by
  induction l generalizing d with
  | nil => exact h
  | cons x t ih => exact ih (hf h x)

theorem Dev.Touches.withOut (o : OutBox) : a.Touches sendParts [] { d with out := o } := h.set rfl

theorem Dev.Touches.withFab (f : Fab) : a.Touches sendParts [] { d with fab := f } := h.set rfl

theorem Dev.Touches.withSec (x : Sec) : a.Touches sendParts [] { d with sec := x } := h.set rfl

theorem Dev.Touches.withWork (x : Sparse Nat) : a.Touches sendParts [] { d with work := x } := h.set rfl

theorem Dev.Touches.count (f : Fld) (n i j : Nat) : a.Touches sendParts [] (d.count f n i j) :=
  h.next (d.touches_count f n i j)

theorem Dev.Touches.peak (f : Fld) (n i j : Nat) : a.Touches sendParts [] (d.peak f n i j) :=
  h.next (d.touches_peak f n i j)

theorem Dev.Touches.modPort (p : Fin 81) (f : Port → Port) : a.Touches sendParts [] (d.modPort p f) := h.withFab _

theorem Dev.Touches.addWork (x y n : Nat) : a.Touches sendParts [] (d.addWork x y n) := by
  unfold Dev.addWork; split
  · exact h
  · exact h.withWork _

/-- Bytes that move are only counted. -/
theorem Dev.Touches.carry (s t : Place) (n : Nat) : a.Touches sendParts [] (d.carry s t n) := by
  have port : ∀ (e : Dev) (q : Option Nat), a.Touches sendParts [] e →
      a.Touches sendParts [] (match q with | some p => e.addWork 0x9 p n | none => e) := by
    intro e q g
    cases q with
    | none => exact g
    | some p => exact g.addWork ..
  unfold Dev.carry
  split
  · exact h
  · exact port _ _ (port _ _ (h.foldl_sends fun g _ => g.addWork ..))

theorem Dev.Touches.dieBuffer (l : Loc) (n : Nat) : a.Touches sendParts [] (d.dieBuffer l n) := by
  cases l with
  | die x => exact h.addWork ..
  | tile _ => exact h
  | hbm => exact h

theorem Dev.Touches.touch (s : Place) (l : Loc) (x n : Nat) : a.Touches sendParts [] (d.touch s l x n) :=
  (h.dieBuffer l n).foldl_sends fun g _ => g.carry ..

theorem Dev.Touches.touchW (s : Place) (l : Loc) (x n : Nat) : a.Touches sendParts [] (d.touchW s l x n) :=
  (h.dieBuffer l n).foldl_sends fun g _ => g.carry ..

theorem Dev.Touches.coreShare (c : Fin 48) (l : Loc) (n : Nat) : a.Touches sendParts [] (d.coreShare c l n) := by
  cases l with
  | die x => exact h.addWork ..
  | tile _ => exact h
  | hbm => exact h

theorem Dev.Touches.coreTouch (c : Fin 48) (l : Loc) (x n : Nat) : a.Touches sendParts [] (d.coreTouch c l x n) :=
  (h.coreShare c l n).touch ..

theorem Dev.Touches.coreTouchW (c : Fin 48) (l : Loc) (x n : Nat) : a.Touches sendParts [] (d.coreTouchW c l x n) :=
  (h.coreShare c l n).touchW ..

theorem Dev.Touches.gather (l : List (Place × Nat)) (fd : Nat) : a.Touches sendParts [] (d.gather l fd) :=
  h.foldl_sends fun g _ => g.carry ..

theorem Dev.Touches.countPort (f : Fld) (n : Nat) (p : Fin 81) : a.Touches sendParts [] (d.countPort f n p) := by
  unfold Dev.countPort; split
  · exact h
  · exact h.count ..

theorem Dev.Touches.countBytes (f : Fld) (unit n i j : Nat) : a.Touches sendParts [] (d.countBytes f unit n i j) :=
  Dev.Touches.count (h.withFab _) ..

theorem Dev.Touches.emitBlock (p : Fin 81) (b : LinkBlock) : a.Touches sendParts [] (d.emitBlock p b) := h.withOut _

theorem Dev.Touches.forgetKey (key : Key) : a.Touches sendParts [] (d.forgetKey key) := h.withFab _

theorem Dev.Touches.sendBlock (k : Clock) (p : Fin 81) (kind : Nat) (b : List Byte) : a.Touches sendParts [] (d.sendBlock k p kind b) :=
  (h.withOut _).modPort ..

theorem Dev.Touches.idleBlocks (k : Clock) (p : Fin 81) (n : Nat) : a.Touches sendParts [] (Dev.idleBlocks k p n d) := by
  induction n generalizing d with
  | zero => exact h
  | succ n ih =>
    unfold Dev.idleBlocks
    split
    · exact ih (h.sendBlock ..)
    · exact h

theorem Dev.Touches.tell (k : Clock) (p : Fin 81) : a.Touches sendParts [] (d.tell k p) := by
  unfold Dev.tell
  dsimp only
  split
  · exact h.idleBlocks ..
  · exact h

theorem Dev.Touches.freeBuffer (k : Clock) (i : QPacket) : a.Touches sendParts [] (d.freeBuffer k i) := by
  unfold Dev.freeBuffer; split
  · exact h
  · exact (h.modPort ..).tell ..

theorem Dev.Touches.sendHead (k : Clock) (p : Fin 81) (v : Nat) : a.Touches sendParts [] (d.sendHead k p v) := by
  unfold Dev.sendHead
  dsimp only
  split
  · exact h
  · next i _ =>
    split
    · exact (Dev.Touches.withOut ((h.modPort ..).freeBuffer k i) _).addWork ..
    · refine Dev.Touches.countBytes (Dev.Touches.count ?_ ..) ..
      split
      · exact Dev.Touches.withOut ((h.modPort ..).freeBuffer k i) _
      · exact (Dev.Touches.withOut ((h.modPort ..).freeBuffer k i) _).addWork ..

theorem Dev.Touches.sendData (k : Clock) (p : Fin 81) : a.Touches sendParts [] (d.sendData k p) := by
  unfold Dev.sendData; exact (h.sendBlock ..).modPort ..

theorem Dev.Touches.pumpLoop (k : Clock) (p : Fin 81) (n : Nat) : a.Touches sendParts [] (Dev.pumpLoop k p n d) := by
  induction n generalizing d with
  | zero => exact h
  | succ n ih =>
    unfold Dev.pumpLoop
    dsimp only
    split
    · exact h
    · split
      · exact ih (h.sendData ..)
      · split
        · exact ih (h.sendHead ..)
        · split
          · exact h
          · exact ih (h.sendData ..)

theorem Dev.Touches.pump (k : Clock) (p : Fin 81) : a.Touches sendParts [] (d.pump k p) := by
  unfold Dev.pump
  dsimp only
  split
  · exact ((h.pumpLoop ..).modPort ..).tell ..
  · exact h

theorem Dev.Touches.enqueue (k : Clock) (p : Fin 81) (i : QPacket) : a.Touches sendParts [] (d.enqueue k p i) := (h.modPort ..).pump ..

theorem Dev.Touches.toPort (k : Clock) (i : QPacket) (l : List (Place × Nat)) (o : Fin 81) :
    a.Touches sendParts [] (d.toPort k i l o) := by
  unfold Dev.toPort
  dsimp only
  split
  · exact (h.gather ..).enqueue ..
  · exact h.enqueue ..

theorem Dev.Touches.routePacket (k : Clock) (i : QPacket) (l : List (Place × Nat)) : a.Touches sendParts [] (d.routePacket k i l) := by
  unfold Dev.routePacket
  dsimp only
  split
  · exact (h.withFab _).freeBuffer ..
  · split
    · exact (h.count ..).freeBuffer ..
    · split
      · exact (h.count ..).freeBuffer ..
      · exact h.toPort ..

theorem Dev.Touches.arrive (k : Clock) (port : Fin 81) (p : Packet) : a.Touches sendParts [] (d.arrive k port p) := by
  unfold Dev.arrive
  dsimp only
  split
  · exact (h.countBytes ..).routePacket ..
  · exact h.routePacket ..

theorem Dev.Touches.originate (k : Clock) (s : Sending) (twin : Bool) : a.Touches sendParts [] (d.originate k s twin) := by
  have key : ∀ (e : Dev) (p : Packet), a.Touches sendParts [] e → a.Touches sendParts []
      (if s.dst = e.node then
        { (if e.ownsPacket p then e.gather s.from_ 0 else e) with
          fab := { (if e.ownsPacket p then e.gather s.from_ 0 else e).fab with
            toDeliver := (if e.ownsPacket p then e.gather s.from_ 0 else e).fab.toDeliver ++ [(0, p)] } }
       else if twin then
         match e.usable 0x78 with
         | none => e.count .fabRtNoroute 1 0
         | some o => e.toPort k ⟨p, 0, none, false⟩ s.from_ o
       else e.routePacket k ⟨p, 0, none, false⟩ s.from_) := by
    intro e p g
    split
    · refine Dev.Touches.withFab ?_ _
      split
      · exact g.gather ..
      · exact g
    · split
      · split
        · exact g.count ..
        · exact g.toPort ..
      · exact g.routePacket ..
  exact key _ _ (h.withFab _)

theorem Dev.Touches.sendOneHop (k : Clock) (p : Fin 81) (op : Nat) (b : List Byte) : a.Touches sendParts [] (d.sendOneHop k p op b) := by
  unfold Dev.sendOneHop
  dsimp only
  split
  · exact h.enqueue ..
  · exact h

theorem Dev.Touches.agentSend (k : Clock) (op : Nat) (b : List Byte) : a.Touches sendParts [] (d.agentSend k op b) := h.originate ..

theorem Dev.Touches.sendReports (k : Clock) : a.Touches sendParts [] (d.sendReports k) := by
  have key : ∀ (l : List Report) (x : Dev × List Report), a.Touches sendParts [] x.1 →
      a.Touches sendParts [] (l.foldl (fun (a : Dev × List Report) r =>
        if r.orders.isEmpty then
          let (e, r) := a.1.sendReport k r
          (e, a.2 ++ [r])
        else (a.1, a.2 ++ [r])) x).1 := by
    intro l
    induction l with
    | nil => intro x hx; exact hx
    | cons r t ih =>
      intro x hx
      rw [List.foldl_cons]
      refine ih _ ?_
      split
      · exact hx.agentSend ..
      · exact hx
  unfold Dev.sendReports
  split
  · exact h
  · exact Dev.Touches.withSec (key _ (d, []) h) _


theorem Dev.Touches.sendRaised (old : List Report) (k : Clock) : a.Touches sendParts [] (d.sendRaised old k) := by
  unfold Dev.sendRaised
  split
  · exact h
  · exact h.sendReports k

end Sending

theorem Dev.touches_sendRaised (d : Dev) (old : List Report) (k : Clock) : d.Touches sendParts [] (d.sendRaised old k) :=
  (Dev.Touches.refl d).sendRaised old k

end Sys2Proof.Machine
end

section
/-! SUPPORT. The footprints of host events, job states and run faults. -/

-- One proof at a time: each thread that elaborates beside the others reserves its stack.
set_option Elab.async false

namespace Sys2Proof.Machine

open Sys2Proof

theorem Dev.touches_modIf (d : Dev) (f : HostIf → HostIf) : d.Touches [.host] [] (d.modIf f) := (Dev.Touches.refl d).set rfl

theorem Dev.touches_modJob (d : Dev) (f : Job → Job) : d.Touches [.job, .duty] [] (d.modJob f) := (Dev.Touches.refl d).set rfl

theorem Dev.touches_draw (d : Dev) : d.Touches [.free] [] d.draw.2 := (Dev.Touches.refl d).set rfl

theorem Dev.touches_sendVector (d : Dev) (v : Nat) : d.Touches [.acc, .out] [] (d.sendVector v) := by
  unfold Dev.sendVector
  split
  · exact (Dev.Touches.refl d).set rfl
  · exact (d.touches_count ..).mono

theorem Dev.touches_raiseVector (d : Dev) (v : Nat) : d.Touches [.acc, .host, .out] [] (d.raiseVector v) := by
  unfold Dev.raiseVector
  split
  · exact (d.touches_sendVector v).mono
  · split
    · exact .refl d
    · exact (Dev.Touches.refl d).set rfl

/-- What a host event changes. -/
def eventParts : List Part := [.regs, .acc, .host, .out, .updated]

theorem Dev.touches_hostEvent (d : Dev) (n : Nat) : d.Touches eventParts eventFlds (d.hostEvent n) := by
  have key : ∀ (f : Fld) (m : Nat), f ∈ eventFlds → d.Touches eventParts eventFlds
      (if (decide (d.rd f = 0) && bitAt ((d.flag f).rd .hostifEvtEnable) m) = true then
        (d.flag f).raiseVector ((d.flag f).rd .hostifEvtVector) else d.flag f) := by
    intro f m hf
    have hflag : d.Touches eventParts eventFlds (d.flag f) := (d.touches_flag f).mono (by decide) (by simpa using hf)
    split
    · exact hflag.next (Dev.touches_raiseVector ..)
    · exact hflag
  unfold Dev.hostEvent
  split <;> exact key _ _ (by simp [eventFlds])

theorem Dev.touches_smbEvent (d : Dev) (n : Nat) : d.Touches [.host] [] (d.smbEvent n) := (Dev.Touches.refl d).set rfl

/-- What entering a job state changes. -/
def phaseParts : List Part := [.regs, .acc, .ctl, .job, .duty, .host, .out, .updated]

theorem Dev.touches_setPhase (d : Dev) (p : JobPhase) : d.Touches phaseParts eventFlds (d.setPhase p) := by
  unfold Dev.setPhase
  split
  · exact .refl d
  · refine .next ?_ (Dev.touches_hostEvent ..)
    exact (Dev.Touches.refl d).set rfl

theorem Dev.touches_report (d : Dev) (kind : Nat) (c : List Byte) : d.Touches [.sec] [] (d.report kind c) := by
  unfold Dev.report
  split
  · exact .refl d
  · exact (Dev.Touches.refl d).set rfl

theorem Dev.touches_rereport (d : Dev) (old : Nat) (c : List Byte) : d.Touches [.sec] [] (d.rereport old c) :=
  ((Dev.Touches.refl d).set rfl).next (Dev.touches_report ..)

/-- What a run fault changes. -/
def faultParts : List Part := [.regs, .acc, .ctl, .job, .sec, .host, .out, .updated]

/-- The register fields that a run fault changes. -/
def faultFlds : List Fld := .jobStateFault :: .jobStateMore :: eventFlds

/-- The register fields of a device fault. -/
def devFaultFlds : List Fld := [.hubDevFaultCode, .hubDevFaultSrc, .hubDevFaultDie, .hubDevFaultStack]

/-- The register fields of a fault of global memory. -/
def gmemFaultFlds : List Fld := [.gmemFaultNode, .gmemFaultWin, .gmemFaultCore, .gmemFaultCause, .gmemFaultCode]

/-- The register fields of a fault of the Pail manager. -/
def pailFaultFlds : List Fld := [.pailFaultHandle, .pailFaultState, .pailFaultClass, .pailFaultCore, .pailFaultCode]

/-- The register fields of a fault of lock-step. -/
def lockFaultFlds : List Fld := [.twinLsFaultStream, .twinLsFaultCause, .twinLsFaultCode]

/-- The register fields that a herd's frame counts in. -/
def herdFlds : List Fld := [.jobHerdAdds, .jobHerdCancels, .jobHerdInOver, .jobHerdEarlyRetire, .jobHerdWaiting, .jobHerdListed,
  .jobHerdOutLost, .jobHerdBuild, .jobHerdFinished, .jobHerdRejects]

/-- An update that lets the job fault at most leaves its duty. -/
theorem Dev.Touches.mayFault {ps : List Part} {fs : List Fld} {d e : Dev} (h : d.Touches (.duty :: ps) fs e)
    (hj : d.job.MayFault e.job) : d.Touches ps fs e where
  same p hp := if hd : p = .duty then hd ▸ hj else h.same p (by simp [hd, hp])
  reads := h.reads
  canon := h.canon

/-- A first run fault sets the job's state and what belongs to it. -/
theorem Dev.job_runFault_first (d : Dev) (k : Clock) (code cause engine addr : Nat) (hp : d.job.phase ≠ .faulted)
    (ha : d.job.abort = false ∨ d.job.faultCc = some k.cc)
    (hf : d.job.phase.faultable = true ∨ (d.job.phase = .admitted ∧ code = 0x61)) :
    (d.runFault k code cause engine addr).job = { d.job with
      phase := .faulted, faultCc := some k.cc, tearFrom := some (d.job.tearFrom.getD k.count), endFrame := d.frame.number
      abort := false } := by
  have hb : (d.job.abort && decide (d.job.faultCc ≠ some k.cc)) = false := by
    rcases ha with h | h
    · simp [h]
    · simp [h]
  have hc : (d.job.phase.faultable || (decide (d.job.phase = .admitted) && decide (code = 0x61))) = true := by
    simpa using hf
  unfold Dev.runFault
  simp only [hp, if_false, hb, Bool.false_eq_true, hc, if_true]
  rw [(Dev.touches_report ..).job, (Dev.touches_smbEvent ..).job, (Dev.touches_hostEvent ..).job, Dev.setPhase_job]
  rfl

theorem Dev.mayFault_runFault (d : Dev) (k : Clock) (code cause engine addr : Nat) :
    d.job.MayFault (d.runFault k code cause engine addr).job := by
  by_cases hp : d.job.phase = .faulted
  · refine .inl ?_
    unfold Dev.runFault
    rw [if_pos hp]
    dsimp only
    split
    · rw [(Dev.touches_rereport ..).job]
      rfl
    · rfl
  · by_cases hf : (d.job.abort = false ∨ d.job.faultCc = some k.cc) ∧
        (d.job.phase.faultable = true ∨ (d.job.phase = .admitted ∧ code = 0x61))
    · rw [Dev.job_runFault_first d k code cause engine addr hp hf.1 hf.2]
      exact .inr ⟨hf.2.imp_right And.left, rfl⟩
    · refine .inl ?_
      unfold Dev.runFault
      rw [if_neg hp]
      split
      · rfl
      · next hb =>
        rw [if_neg]
        intro hc
        refine hf ⟨?_, by simpa using hc⟩
        simpa [Classical.or_iff_not_imp_left] using hb

theorem Dev.touches_runFault (d : Dev) (k : Clock) (code cause engine addr : Nat) :
    d.Touches faultParts faultFlds (d.runFault k code cause engine addr) := by
  have hmore : d.Touches (.duty :: faultParts) faultFlds (d.flag .jobStateMore) := (d.touches_flag _).mono
  refine .mayFault ?_ (d.mayFault_runFault ..)
  unfold Dev.runFault
  dsimp only
  split
  · split
    · exact (hmore.next (Dev.touches_wr _ .jobStateFault code)).next (Dev.touches_rereport ..)
    · exact hmore
  · split
    · exact .refl d
    · split
      · have hcode : d.Touches (.duty :: faultParts) faultFlds (d.wr .jobStateFault code) := (d.touches_wr _ _).mono
        refine .next (.next (.next (.next ?_ (Dev.touches_setPhase ..)) (Dev.touches_hostEvent ..))
          (Dev.touches_smbEvent ..)) (Dev.touches_report ..)
        exact hcode.set rfl
      · exact .refl d

end Sys2Proof.Machine
end

section
/-! SUPPORT. The footprint of a write to one memory, and of the functions that run another one. -/

-- One proof at a time: each thread that elaborates beside the others reserves its stack.
set_option Elab.async false

namespace Sys2Proof.Machine

open Sys2Proof

section OneMemory

variable {m : Mem} {x : Memory} (h : m.wf = true) (hx : x.wf = true)

include h hx

theorem Mem.wf_setHbm (p : List Nat) : Mem.wf { m with hbm := x, poisonHbm := p } = true := by
  rw [Mem.wf_iff] at *
  exact ⟨hx, h.2⟩

theorem Mem.wf_setTile (c : Fin 48) (p : List Nat) :
    Mem.wf { m with tile := m.tile.set c x, poisonTile := p } = true := by
  rw [Mem.wf_iff] at *
  obtain ⟨hh, ht, hr⟩ := h
  refine ⟨hh, fun y => ?_, hr⟩
  show (m.tile.set c x)[y.val].wf = true
  rw [Vector.getElem_set]
  split
  · exact hx
  · exact ht y

theorem Mem.wf_setDie (c : Fin 12) (p : List Nat) :
    Mem.wf { m with die := m.die.set c x, poisonDie := p } = true := by
  rw [Mem.wf_iff] at *
  obtain ⟨hh, ht, hd, hr⟩ := h
  refine ⟨hh, ht, fun y => ?_, hr⟩
  show (m.die.set c x)[y.val].wf = true
  rw [Vector.getElem_set]
  split
  · exact hx
  · exact hd y

theorem Mem.wf_setStat (c : Fin 48) (p : List Nat) :
    Mem.wf { m with stat := m.stat.set c x, poisonStat := p } = true := by
  rw [Mem.wf_iff] at *
  obtain ⟨hh, ht, hd, hs, hr⟩ := h
  refine ⟨hh, ht, hd, fun y => ?_, hr⟩
  show (m.stat.set c x)[y.val].wf = true
  rw [Vector.getElem_set]
  split
  · exact hx
  · exact hs y

theorem Mem.wf_setHost : Mem.wf { m with host := x } = true := by
  rw [Mem.wf_iff] at *
  obtain ⟨hh, ht, hd, hs, -, hr⟩ := h
  exact ⟨hh, ht, hd, hs, hx, hr⟩

theorem Mem.wf_setNvme : Mem.wf { m with nvme := x } = true := by
  rw [Mem.wf_iff] at *
  obtain ⟨hh, ht, hd, hs, ho, -, hr⟩ := h
  exact ⟨hh, ht, hd, hs, ho, hx, hr⟩

end OneMemory

section Memories

variable {m : Mem} (h : m.wf = true)

include h

theorem Mem.hbm_wf : m.hbm.wf = true := ((Mem.wf_iff m).1 h).1

theorem Mem.tile_wf (c : Fin 48) : m.tile[c].wf = true := ((Mem.wf_iff m).1 h).2.1 c

theorem Mem.die_wf (c : Fin 12) : m.die[c].wf = true := ((Mem.wf_iff m).1 h).2.2.1 c

theorem Mem.stat_wf (c : Fin 48) : m.stat[c].wf = true := ((Mem.wf_iff m).1 h).2.2.2.1 c

theorem Mem.host_wf : m.host.wf = true := ((Mem.wf_iff m).1 h).2.2.2.2.1

theorem Mem.nvme_wf : m.nvme.wf = true := ((Mem.wf_iff m).1 h).2.2.2.2.2.1

theorem Mem.flash_rising : Sparse.rising none m.flash = true := ((Mem.wf_iff m).1 h).2.2.2.2.2.2

/-- The memories of cores and dies may be emptied. -/
theorem Mem.wf_cleared (pt pd ps : List Nat) : Mem.wf { m with
    tile := Vector.replicate 48 [], die := Vector.replicate 12 [], stat := Vector.replicate 48 []
    poisonTile := pt, poisonDie := pd, poisonStat := ps } = true := by
  have hk := (Mem.wf_iff m).1 h
  obtain ⟨hh, -, -, -, hr⟩ := hk
  rw [Mem.wf_iff]
  exact ⟨hh, fun c => by simp [Memory.nil_wf], fun c => by simp [Memory.nil_wf], fun c => by simp [Memory.nil_wf], hr⟩

theorem Mem.wf_statCleared (ps : List Nat) :
    Mem.wf { m with stat := Vector.replicate 48 [], poisonStat := ps } = true := by
  have hk := (Mem.wf_iff m).1 h
  obtain ⟨hh, ht, hd, -, hr⟩ := hk
  rw [Mem.wf_iff]
  exact ⟨hh, ht, hd, fun c => by simp [Memory.nil_wf], hr⟩

end Memories

/-- An update of the memory and of parts of the footprint other than registers and counts. -/
theorem Dev.Touches.withMem {ps : List Part} {fs : List Fld} {a d e : Dev} (h : a.Touches ps fs d)
    (hg : e = d.graft ps e) (hmem : d.mem.wf = true → e.mem.wf = true) (hregs : e.regs = d.regs := by rfl)
    (hacc : e.acc = d.acc := by rfl) : a.Touches ps fs e :=
  h.update hg hregs fun hc => ⟨hmem hc.mem, hacc ▸ hc.acc⟩

theorem Fld.mem_allFlds (f : Fld) : f ∈ allFlds := by cases f <;> decide

/-- Every list of fields is one of all fields. -/
theorem allFlds_subset (fs : List Fld) : fs ⊆ allFlds := fun f _ => f.mem_allFlds

/-- An update follows where any field may change. -/
theorem Dev.Touches.nextAny {ps qs : List Part} {gs : List Fld} {a d e : Dev} (h : a.Touches ps allFlds d)
    (g : d.Touches qs gs e) (hp : qs ⊆ ps := by decide) : a.Touches ps allFlds e := h.next g hp (allFlds_subset _)

/-- A register write, whatever the field and instance. -/
theorem Dev.touches_wr_any (d : Dev) (f : Fld) (v i j : Nat) : d.Touches [.regs] allFlds (d.wr f v i j) where
  same := Part.same_of_graft rfl
  reads g _ _ hg := absurd g.mem_allFlds hg
  canon hc := ⟨hc.mem, hc.acc⟩

theorem Dev.touches_flag_any (d : Dev) (f : Fld) (i j : Nat) : d.Touches [.regs, .updated] allFlds (d.flag f i j) :=
  .nextAny (.mono (Dev.touches_wr_any ..) (by decide) (allFlds_subset _)) (Dev.touches_noteUpdate ..)

theorem Dev.touches_bump_any (d : Dev) (f : Fld) (n i j : Nat) : d.Touches [.regs] allFlds (d.bump f n i j) :=
  Dev.touches_wr_any ..

/-- Latching moves counts into registers. -/
theorem Dev.touches_latch (d : Dev) (ks : List FldKind) : d.Touches [.acc, .regs] allFlds (d.latch ks) where
  same := Part.same_of_graft rfl
  reads f _ _ hf := absurd f.mem_allFlds hf
  canon hc := ⟨hc.mem, Sparse.rising_filter _ _ _ hc.acc⟩

theorem Dev.Touches.ite_fst {ps : List Part} {fs : List Fld} {a : Dev} {α : Type} {c : Prop} [Decidable c] {x y : Dev × α}
    (h : a.Touches ps fs x.1) (g : a.Touches ps fs y.1) : a.Touches ps fs (if c then x else y).1 := by
  split
  · exact h
  · exact g

section Running

variable {ps : List Part} {fs : List Fld} {a d : Dev} {f : Dev → Dev} (h : a.Touches ps fs d)

include h

theorem Dev.Touches.hashed {stream frame : Nat} (hf : ∀ e, a.Touches ps fs e → a.Touches ps fs (f e))
    (ht : Part.twin ∈ ps := by decide) : a.Touches ps fs (d.hashed stream frame f) := by
  have twin : ∀ (e : Dev) (x : Twin), a.Touches ps fs e → a.Touches ps fs { e with twin := x } := fun e x he =>
    he.next (qs := [.twin]) (gs := []) ((Dev.Touches.refl e).set rfl) (by simpa using ht) (List.nil_subset _)
  unfold Dev.hashed
  split
  · exact twin _ _ (hf _ (twin _ _ h))
  · exact hf _ h

theorem Dev.Touches.alerting (hf : ∀ e, a.Touches ps fs e → a.Touches ps fs (f e)) (hp : Part.host ∈ ps := by decide) :
    a.Touches ps fs (d.alerting f) := by
  unfold Dev.alerting
  dsimp only
  split
  · exact (hf _ h).next (Dev.touches_smbEvent ..) (by simpa using hp) (List.nil_subset _)
  · exact hf _ h

theorem Dev.Touches.devFault {k : Clock} {code src at_ : Nat} (hf : ∀ e, a.Touches ps fs e → a.Touches ps fs (f e))
    (hp : [Part.ctl, .regs] ⊆ ps := by decide)
    (hfs : [Fld.hubDevFaultCode, .hubDevFaultSrc, .hubDevFaultDie, .hubDevFaultStack] ⊆ fs := by decide) :
    a.Touches ps fs (d.devFault k code src at_ f) := by
  have hw : ∀ (e : Dev) (g : Fld) (v : Nat), g ∈ [Fld.hubDevFaultCode, .hubDevFaultSrc, .hubDevFaultDie, .hubDevFaultStack] →
      a.Touches ps fs e → a.Touches ps fs (e.wr g v) := fun e g v hg he =>
    he.next (Dev.touches_wr _ g v) (by simpa using hp (by simp)) (by simpa using hfs hg)
  unfold Dev.devFault
  split
  · refine Dev.Touches.next (qs := [.ctl]) (gs := []) ?_ ((Dev.Touches.refl _).set rfl) (by simpa using hp (by simp))
      (List.nil_subset _)
    exact hf _ (hw _ _ _ (by simp) (hw _ _ _ (by simp) (hw _ _ _ (by simp) (hw _ _ _ (by simp) h))))
  · exact h

end Running

end Sys2Proof.Machine
end

section
/-! SUPPORT. The footprint of a function that may answer a device, and of a command. -/

-- One proof at a time: each thread that elaborates beside the others reserves its stack.
set_option Elab.async false

namespace Sys2Proof.Machine

open Sys2Proof

/-- The device, if there is one, differs from `d` at most in the parts `ps` and the fields `fs`. -/
structure Dev.MayTouch (ps : List Part) (fs : List Fld) (d : Dev) (o : Option Dev) : Prop where
  touches : ∀ e, o = some e → d.Touches ps fs e

/-- The device that comes first in a pair. -/
def dev1 {α : Type} (o : Option (Dev × α)) : Option Dev := o.map (·.1)

/-- The device of a pair. -/
def dev2 {α : Type} (o : Option (α × Dev)) : Option Dev := o.map (·.2)

/-- The device of a triple. -/
def dev3 {α β : Type} (o : Option (α × β × Dev)) : Option Dev := o.map (·.2.2)

/-- The device that a start leaves. -/
def Started.dev? : Started → Option Dev
  | .wait => none
  | .fault _ => none
  | .poison _ _ => none
  | .raised d => some d
  | .go d _ _ => some d
  | .released d => some d

/-- The device that a start leaves, if there is one. -/
def devS (o : Option Started) : Option Dev := o.bind Started.dev?

section Closure

variable {ps qs : List Part} {fs gs : List Fld} {a d e : Dev} {o o' : Option Dev}

theorem Dev.MayTouch.none : a.MayTouch ps fs none := ⟨fun _ h => nomatch h⟩

theorem Dev.MayTouch.some (h : a.Touches ps fs e) : a.MayTouch ps fs (some e) := ⟨fun _ he => Option.some.inj he ▸ h⟩

theorem Dev.MayTouch.nextSome (h : a.Touches ps fs d) (g : d.MayTouch qs gs o) (hp : qs ⊆ ps := by decide)
    (hf : gs ⊆ fs := by decide) : a.MayTouch ps fs o := ⟨fun e he => h.next (g.touches e he) hp hf⟩

theorem Dev.MayTouch.mono (h : d.MayTouch qs gs o) (hp : qs ⊆ ps := by decide) (hf : gs ⊆ fs := by decide) :
    d.MayTouch ps fs o := ⟨fun e he => (h.touches e he).mono hp hf⟩

theorem Dev.MayTouch.ite {c : Prop} [Decidable c] (h : a.MayTouch ps fs o) (g : a.MayTouch ps fs o') :
    a.MayTouch ps fs (if c then o else o') := by
  split
  · exact h
  · exact g

theorem Dev.MayTouch.ite_optsnd {α : Type} {c : Prop} [Decidable c] {x y : Option (α × Dev)} (h : a.MayTouch ps fs (dev2 x))
    (g : a.MayTouch ps fs (dev2 y)) : a.MayTouch ps fs (dev2 (if c then x else y)) := by
  split
  · exact h
  · exact g

theorem Dev.MayTouch.ite_started {c : Prop} [Decidable c] {x y : Started} (h : a.MayTouch ps fs x.dev?)
    (g : a.MayTouch ps fs y.dev?) : a.MayTouch ps fs (if c then x else y).dev? := by
  split
  · exact h
  · exact g

theorem Dev.MayTouch.map {α : Type} {x : Option α} {f : α → Dev} (h : ∀ y, a.Touches ps fs (f y)) :
    a.MayTouch ps fs (x.map f) := by
  cases x with
  | none => exact .none
  | some y => exact .some (h y)

theorem Dev.MayTouch.bind {α : Type} {x : Option α} {f : α → Option Dev} (h : ∀ y, a.MayTouch ps fs (f y)) :
    a.MayTouch ps fs (x.bind f) := by
  cases x with
  | none => exact .none
  | some y => exact h y

theorem Dev.Touches.of_opt (h : a.MayTouch ps fs o) (he : o = Option.some d) : a.Touches ps fs d := h.touches d he

theorem Dev.Touches.of_optsnd {α : Type} {x : Option (α × Dev)} {y : α} (h : a.MayTouch ps fs (dev2 x))
    (he : x = Option.some (y, d)) : a.Touches ps fs d := h.touches d (he ▸ rfl)

theorem Dev.Touches.of_optsnd2 {α β : Type} {x : Option (α × β × Dev)} {y : α} {z : β} (h : a.MayTouch ps fs (dev3 x))
    (he : x = Option.some (y, z, d)) : a.Touches ps fs d := h.touches d (he ▸ rfl)

theorem Dev.Touches.of_started {x y : Started} (h : a.MayTouch ps fs x.dev?) (he : x = y)
    (hy : y.dev? = Option.some d := by rfl) : a.Touches ps fs d := h.touches d (he ▸ hy)

theorem Dev.MayTouch.of_optstarted {x : Option Started} {y : Started} (h : a.MayTouch ps fs (devS x)) (he : x = Option.some y) :
    a.MayTouch ps fs y.dev? := ⟨fun e hy => h.touches e (he ▸ hy)⟩

theorem Dev.MayTouch.ite_optstarted {c : Prop} [Decidable c] {x y : Option Started} (h : a.MayTouch ps fs (devS x))
    (g : a.MayTouch ps fs (devS y)) : a.MayTouch ps fs (devS (if c then x else y)) := by
  split
  · exact h
  · exact g

theorem Dev.Touches.of_optfst {α : Type} {x : Option (Dev × α)} {y : α} (h : a.MayTouch ps fs (dev1 x))
    (he : x = Option.some (d, y)) : a.Touches ps fs d := h.touches d (he ▸ rfl)

theorem Dev.Touches.of_optfstp {α : Type} {x : Option (Dev × α)} {y : Dev × α} (h : a.MayTouch ps fs (dev1 x))
    (he : x = Option.some y) : a.Touches ps fs y.1 := h.touches y.1 (he ▸ rfl)

theorem Dev.MayTouch.ite_optfst {α : Type} {c : Prop} [Decidable c] {x y : Option (Dev × α)} (h : a.MayTouch ps fs (dev1 x))
    (g : a.MayTouch ps fs (dev1 y)) : a.MayTouch ps fs (dev1 (if c then x else y)) := by
  split
  · exact h
  · exact g

theorem Dev.MayTouch.orS {x y : Option Started} (h : a.MayTouch ps fs (devS x)) (g : a.MayTouch ps fs (devS y)) :
    a.MayTouch ps fs (devS (x.or y)) := by
  cases x with
  | none => exact g
  | some z => exact h

theorem Dev.MayTouch.mapS {α : Type} {x : Option α} {f : α → Started} (h : ∀ y, a.MayTouch ps fs (f y).dev?) :
    a.MayTouch ps fs (devS (x.map f)) := by
  cases x with
  | none => exact .none
  | some y => exact h y

theorem Dev.MayTouch.mapStarted {x : Started} {f : Dev → Dev} (h : a.MayTouch ps fs x.dev?)
    (hf : ∀ e, a.Touches ps fs e → a.Touches ps fs (f e)) : a.MayTouch ps fs (x.map f).dev? := by
  cases x with
  | wait => exact .none
  | fault _ => exact .none
  | poison _ _ => exact .none
  | raised e => exact .some (hf e (h.touches e rfl))
  | go e _ _ => exact .some (hf e (h.touches e rfl))
  | released e => exact .some (hf e (h.touches e rfl))

/-- An update follows where any field may change. -/
theorem Dev.MayTouch.nextSomeAny (h : a.Touches ps allFlds d) (g : d.MayTouch qs gs o) (hp : qs ⊆ ps := by decide) :
    a.MayTouch ps allFlds o := .nextSome h g hp (allFlds_subset _)

end Closure

/-! ### Commands -/

/-- A command leaves, of the device, all but the parts `ps` and the fields `fs`. -/
structure Result.Touches (ps : List Part) (fs : List Fld) (s : State) (r : Result) : Prop where
  dev : ∀ t, r = .next t → s.dev.Touches ps fs t.dev

section Commands

variable {ps qs : List Part} {fs gs : List Fld} {s : State} {r : Result}

theorem Result.Touches.mono (h : Result.Touches qs gs s r) (hp : qs ⊆ ps := by decide) (hf : gs ⊆ fs := by decide) :
    Result.Touches ps fs s r := ⟨fun t ht => (h.dev t ht).mono hp hf⟩

theorem Result.Touches.monoAny (h : Result.Touches qs gs s r) (hp : qs ⊆ ps := by decide) : Result.Touches ps allFlds s r :=
  h.mono hp (allFlds_subset _)

theorem Result.touches_next {d : Dev} {k : Clock} {q : List Instr} (h : s.dev.Touches ps fs d) :
    Result.Touches ps fs s (.next ⟨q, k, d⟩) := ⟨fun _ ht => (Host.Outcome.next.inj ht) ▸ h⟩

theorem State.touches_board {w : Clock → Clock} {f : Clock → Dev → Option Dev}
    (h : ∀ k (d : Dev), d.MayTouch ps fs (f k d)) (hp : sendParts ⊆ ps := by decide) : Result.Touches ps fs s (s.board w f) := by
  refine ⟨fun t ht => ?_⟩
  unfold State.board at ht
  split at ht
  · next e he =>
    cases ht
    exact ((h _ _).touches e he).next (Dev.touches_sendRaised ..) hp (List.nil_subset _)
  · cases ht
    exact .refl _

theorem State.touches_act {w : Clock → Clock} {f : Clock → Dev → Option Dev}
    (h : ∀ k (d : Dev), d.MayTouch ps fs (f k d)) (hp : sendParts ⊆ ps := by decide) : Result.Touches ps fs s (s.act w f) :=
  State.touches_board (fun k d => .ite (h k d) .none) hp

theorem State.touches_now {f : Clock → Dev → Option Dev}
    (h : ∀ k (d : Dev), d.MayTouch ps fs (f k d)) (hp : sendParts ⊆ ps := by decide) : Result.Touches ps fs s (s.now f) :=
  State.touches_act h hp

theorem State.touches_run {f : Clock → Dev → Option (Clock × Dev)}
    (h : ∀ k (d : Dev), d.MayTouch ps fs (dev2 (f k d))) (hp : sendParts ⊆ ps := by decide) :
    Result.Touches ps fs s (s.run f) := by
  refine ⟨fun t ht => ?_⟩
  unfold State.run at ht
  split at ht
  · split at ht
    · next k e he =>
      cases ht
      exact ((h _ _).touches e (congrArg dev2 he)).next (Dev.touches_sendRaised ..) hp (List.nil_subset _)
    · cases ht
      exact .refl _
  · cases ht
    exact .refl _

theorem State.touches_smb {ok : Bool} {f : Dev → Dev} (h : ∀ d : Dev, d.Touches ps fs (f d))
    (hp : sendParts ⊆ ps := by decide) : Result.Touches ps fs s (s.smb ok f) :=
  State.touches_board (fun _ d => .ite (.some (h d)) .none) hp

end Commands

end Sys2Proof.Machine
end

section
/-! SUPPORT. The footprint of each function that updates the device: the parts and the register fields that it may
change. Each proof follows the branches of its function and composes the footprints of the functions that it calls. -/

-- One proof at a time: each thread that elaborates beside the others reserves its stack.
set_option Elab.async false

namespace Sys2Proof.Machine
open Sys2Proof



theorem Dev.touches_noteWrite (d : Dev) (space : ℕ) (die : ℕ) (core : ℕ) (a : ℕ) (bs : List Byte) (mask : List Bool) : d.Touches [.twin] [] (Dev.noteWrite d space die core a bs mask) := by
  unfold Dev.noteWrite
  split
  · exact .refl _
  · exact .set (.refl _) rfl



theorem Dev.touches_locWrite (d : Dev) (l : Loc) (a : Nat) (bs : List Byte) (mask : List Bool) :
    d.Touches [.mem, .twin] [] (d.locWrite l a bs mask) := by
  cases l with
  | tile c =>
    exact .withMem (.next (.refl d) (Dev.touches_noteWrite ..)) rfl fun h => Mem.wf_setTile h (Memory.writeN_wf _ _ _ (Mem.tile_wf h c)) c _
  | die x =>
    exact .withMem (.next (.refl d) (Dev.touches_noteWrite ..)) rfl fun h => Mem.wf_setDie h (Memory.writeN_wf _ _ _ (Mem.die_wf h x)) x _
  | hbm =>
    exact .withMem (.next (.refl d) (Dev.touches_noteWrite ..)) rfl fun h => Mem.wf_setHbm h (Memory.writeN_wf _ _ _ (Mem.hbm_wf h)) _

theorem Dev.touches_hbmWriteRuns (d : Dev) (rs : List (Nat × Nat)) (bs : List Byte) (mask : List Bool) :
    d.Touches [.mem, .twin] [] (d.hbmWriteRuns rs bs mask) := by
  induction rs generalizing d bs mask with
  | nil => exact .refl d
  | cons r t ih => exact .next (Dev.touches_locWrite ..) (ih _ _ _)

theorem Dev.touches_holdAt (d : Dev) (keys : List (ℕ × ℕ × ℕ)) : d.Touches [.acc, .snap] [] (Dev.holdAt d keys) := by
  unfold Dev.holdAt
  refine .foldl ?_ fun e0 x1 _ => ?_
  · exact .refl _
  · refine .ite ?_ ?_
    · exact .refl _
    · extract_lets -merge +onlyGivenNames d2
      have hd2 : e0.Touches [.acc, .snap] [] d2 := by
        exact .next (.refl _) (Dev.touches_count ..)
      clear_value d2
      exact .set (hd2) rfl

theorem Dev.touches_copyHeld (d : Dev) (m : Image) (keys : List (ℕ × ℕ × ℕ)) : d.Touches [.snap] [] (Dev.copyHeld d m keys) := by
  unfold Dev.copyHeld
  split
  · exact .refl _
  · refine .foldl ?_ fun e2 x3 _ => ?_
    · exact .refl _
    · split
      · split
        · exact .set (.refl _) rfl
        · exact .refl _

theorem Dev.touches_holdWrite (d : Dev) (l : Loc) (a : ℕ) (n : ℕ) : d.Touches [.acc, .snap] [] (Dev.holdWrite d l a n) := by
  unfold Dev.holdWrite
  refine .ite ?_ ?_
  · exact .refl _
  · split
    · exact .refl _
    · extract_lets -merge +onlyGivenNames v2
      exact .next (.next (.refl _) (Dev.touches_holdAt ..)) (Dev.touches_copyHeld ..)

theorem Dev.touches_noteCellar (d : Dev) (l : Loc) (a : ℕ) (n : ℕ) : d.Touches [.snap] [] (Dev.noteCellar d l a n) := by
  unfold Dev.noteCellar
  refine .ite ?_ ?_
  · exact .refl _
  · split
    · exact .refl _
    · refine .ite ?_ ?_
      · exact .set (.refl _) rfl
      · exact .refl _

theorem Dev.touches_snapWrite (d : Dev) (l : Loc) (a : ℕ) (n : ℕ) : d.Touches [.acc, .snap] [] (Dev.snapWrite d l a n) := by
  unfold Dev.snapWrite
  split
  · exact .refl _
  · exact .next (.next (.refl _) (Dev.touches_holdWrite ..)) (Dev.touches_noteCellar ..)

theorem Dev.touches_hbmWrite (d : Dev) (a : ℕ) (bs : List Byte) (mask : List Bool) : d.Touches [.acc, .mem, .snap, .twin] [] (Dev.hbmWrite d a bs mask) := by
  unfold Dev.hbmWrite
  split
  · exact .refl _
  · exact .next (.next (.refl _) (Dev.touches_snapWrite ..)) (Dev.touches_hbmWriteRuns ..)

theorem Dev.touches_sendPending (d : Dev) : d.Touches [.acc, .host, .out] [] (Dev.sendPending d) := by
  unfold Dev.sendPending
  split
  · refine .foldl ?_ fun e2 x3 _ => ?_
    · exact .set (.refl _) rfl
    · exact .next (.refl _) (Dev.touches_sendVector ..)

theorem Dev.touches_hostPut (d : Dev) (a : Nat) (bs : List Byte) : d.Touches [.mem, .out] [] (d.hostPut a bs) :=
  .withMem (.refl d) rfl fun h => Mem.wf_setHost h (Memory.writeN_wf _ _ _ (Mem.host_wf h))

theorem Dev.touches_extend (d : Dev) (slot : Fin 4) (digest : List Byte) : d.Touches [.sec] [] (Dev.extend d slot digest) := by
  unfold Dev.extend
  exact .set (.refl _) rfl

theorem Dev.touches_becomeAdmitted (d : Dev) (k : Clock) (heads : List (List Byte)) : d.Touches (.duty :: faultParts) eventFlds (Dev.becomeAdmitted d k heads) := by
  unfold Dev.becomeAdmitted
  split
  · exact .refl _
  · extract_lets -merge +onlyGivenNames d2
    have hd2 : d.Touches (.duty :: faultParts) eventFlds d2 := by
      refine .foldl ?_ fun e3 x4 _ => ?_
      · exact .refl _
      · exact .next (.refl _) (Dev.touches_extend ..)
    clear_value d2
    exact .next (.set (hd2) rfl) (Dev.touches_setPhase ..)

theorem Dev.touches_aerError (d : Dev) (root : Bool) (bit : ℕ) : d.Touches [.free, .host] [] (Dev.aerError d root bit) := by
  unfold Dev.aerError
  extract_lets -merge +onlyGivenNames v0
  refine .ite ?_ ?_
  · refine .ite ?_ ?_
    · exact .refl _
    · exact .next (.next (.refl _) (Dev.touches_draw ..)) (Dev.touches_modIf ..)
  · extract_lets -merge +onlyGivenNames v1
    refine .ite ?_ ?_
    · exact .next (.refl _) (Dev.touches_modIf ..)
    · exact .next (.next (.refl _) (Dev.touches_draw ..)) (Dev.touches_modIf ..)

theorem Dev.touches_workedTo (d : Dev) (u : ℕ) : d.Touches [.frame] [] (Dev.workedTo d u) := by
  unfold Dev.workedTo
  exact .set (.refl _) rfl

theorem Dev.touches_addWork (d : Dev) (cls : ℕ) (inst : ℕ) (n : ℕ) : d.Touches [.work] [] (Dev.addWork d cls inst n) := by
  unfold Dev.addWork
  refine .ite ?_ ?_
  · exact .refl _
  · extract_lets -merge +onlyGivenNames v0
    exact .set (.refl _) rfl

theorem Dev.touches_carry (d : Dev) (s : Place) (t : Place) (n : ℕ) : d.Touches [.work] [] (Dev.carry d s t n) := by
  unfold Dev.carry
  refine .ite ?_ ?_
  · exact .refl _
  · extract_lets -merge +onlyGivenNames d0
    have hd0 : d.Touches [.work] [] d0 := by
      refine .foldl ?_ fun e1 x2 _ => ?_
      · exact .refl _
      · exact .next (.refl _) (Dev.touches_addWork ..)
    clear_value d0
    extract_lets -merge +onlyGivenNames d3
    have hd3 : d.Touches [.work] [] d3 := by
      unfold d3
      split
      · exact .next (hd0) (Dev.touches_addWork ..)
      · exact hd0
    clear_value d3
    split
    · exact .next (hd3) (Dev.touches_addWork ..)
    · exact hd3

theorem Dev.touches_dieBuffer (d : Dev) (l : Loc) (n : ℕ) : d.Touches [.work] [] (Dev.dieBuffer d l n) := by
  unfold Dev.dieBuffer
  split
  · exact .next (.refl _) (Dev.touches_addWork ..)
  · exact .refl _

theorem Dev.touches_touch (d : Dev) (s : Place) (l : Loc) (a : ℕ) (n : ℕ) : d.Touches [.work] [] (Dev.touch d s l a n) := by
  unfold Dev.touch
  refine .foldl ?_ fun e0 x1 _ => ?_
  · exact .next (.refl _) (Dev.touches_dieBuffer ..)
  · exact .next (.refl _) (Dev.touches_carry ..)

theorem Dev.touches_touchW (d : Dev) (s : Place) (l : Loc) (a : ℕ) (n : ℕ) : d.Touches [.work] [] (Dev.touchW d s l a n) := by
  unfold Dev.touchW
  refine .foldl ?_ fun e0 x1 _ => ?_
  · exact .next (.refl _) (Dev.touches_dieBuffer ..)
  · exact .next (.refl _) (Dev.touches_carry ..)

theorem Dev.touches_coreShare (d : Dev) (c : Fin 48) (l : Loc) (n : ℕ) : d.Touches [.work] [] (Dev.coreShare d c l n) := by
  unfold Dev.coreShare
  split
  · exact .next (.refl _) (Dev.touches_addWork ..)
  · exact .refl _

theorem Dev.touches_coreTouch (d : Dev) (c : Fin 48) (l : Loc) (a : ℕ) (n : ℕ) : d.Touches [.work] [] (Dev.coreTouch d c l a n) := by
  unfold Dev.coreTouch
  exact .next (.next (.refl _) (Dev.touches_coreShare ..)) (Dev.touches_touch ..)

theorem Dev.touches_coreTouchW (d : Dev) (c : Fin 48) (l : Loc) (a : ℕ) (n : ℕ) : d.Touches [.work] [] (Dev.coreTouchW d c l a n) := by
  unfold Dev.coreTouchW
  exact .next (.next (.refl _) (Dev.touches_coreShare ..)) (Dev.touches_touchW ..)

theorem Dev.touches_modPort (d : Dev) (p : Fin 81) (f : Port → Port) : d.Touches [.fab] [] (Dev.modPort d p f) := by
  unfold Dev.modPort
  exact .set (.refl _) rfl

theorem Dev.touches_countPort (d : Dev) (f : Fld) (n : ℕ) (p : Fin 81) : d.Touches [.acc] [] (Dev.countPort d f n p) := by
  unfold Dev.countPort
  refine .ite ?_ ?_
  · exact .refl _
  · exact .next (.refl _) (Dev.touches_count ..)

theorem Dev.touches_countBytes (d : Dev) (f : Fld) (unit : ℕ) (n : ℕ) (inst : ℕ) (idx : ℕ) : d.Touches [.acc, .fab] [] (Dev.countBytes d f unit n inst idx) := by
  unfold Dev.countBytes
  extract_lets -merge +onlyGivenNames v0
  extract_lets -merge +onlyGivenNames v1
  exact .next (.set (.refl _) rfl) (Dev.touches_count ..)

theorem Dev.touches_emitBlock (d : Dev) (p : Fin 81) (b : LinkBlock) : d.Touches [.out] [] (Dev.emitBlock d p b) := by
  unfold Dev.emitBlock
  exact .set (.refl _) rfl

theorem Dev.touches_sendBlock (d : Dev) (k : Clock) (p : Fin 81) (kind : ℕ) (body : List Byte) : d.Touches [.fab, .out] [] (Dev.sendBlock d k p kind body) := by
  unfold Dev.sendBlock
  exact .next (.next (.refl _) (Dev.touches_emitBlock ..)) (Dev.touches_modPort ..)

theorem Dev.touches_idleBlocks (k : Clock) (p : Fin 81) (n : Nat) (d : Dev) :
    d.Touches [.acc, .fab, .sec, .out, .work] [] (Dev.idleBlocks k p n d) := Dev.Touches.idleBlocks (.refl d) k p n

theorem Dev.touches_tell (d : Dev) (k : Clock) (p : Fin 81) : d.Touches [.acc, .fab, .out, .sec, .work] [] (Dev.tell d k p) := by
  unfold Dev.tell
  extract_lets -merge +onlyGivenNames v0
  refine .ite ?_ ?_
  · exact .next (.refl _) (Dev.touches_idleBlocks ..)
  · exact .refl _

theorem Dev.touches_freeBuffer (d : Dev) (k : Clock) (i : QPacket) : d.Touches [.acc, .fab, .out, .sec, .work] [] (Dev.freeBuffer d k i) := by
  unfold Dev.freeBuffer
  split
  · exact .refl _
  · exact .next (.next (.refl _) (Dev.touches_modPort ..)) (Dev.touches_tell ..)

theorem Dev.touches_sendHead (d : Dev) (k : Clock) (p : Fin 81) (v : ℕ) : d.Touches [.acc, .fab, .out, .sec, .work] [] (Dev.sendHead d k p v) := by
  unfold Dev.sendHead
  extract_lets -merge +onlyGivenNames v0
  split
  · exact .refl _
  · extract_lets -merge +onlyGivenNames v3
    extract_lets -merge +onlyGivenNames v4
    extract_lets -merge +onlyGivenNames d5
    have hd5 : d.Touches [.acc, .fab, .out, .sec, .work] [] d5 := by
      exact .next (.next (.refl _) (Dev.touches_modPort ..)) (Dev.touches_freeBuffer ..)
    clear_value d5
    extract_lets -merge +onlyGivenNames v6 d7
    have hd7 : d.Touches [.acc, .fab, .out, .sec, .work] [] d7 := by
      exact .set (hd5) rfl
    clear_value d7
    refine .ite ?_ ?_
    · exact .next (hd7) (Dev.touches_addWork ..)
    · extract_lets -merge +onlyGivenNames v8
      extract_lets -merge +onlyGivenNames d9
      have hd9 : d.Touches [.acc, .fab, .out, .sec, .work] [] d9 := by
        unfold d9
        refine .ite ?_ ?_
        · exact hd7
        · exact .next (hd7) (Dev.touches_addWork ..)
      clear_value d9
      exact .next (.next (hd9) (Dev.touches_count ..)) (Dev.touches_countBytes ..)

theorem Dev.touches_sendData (d : Dev) (k : Clock) (p : Fin 81) : d.Touches [.fab, .out] [] (Dev.sendData d k p) := by
  unfold Dev.sendData
  extract_lets -merge +onlyGivenNames v0
  exact .next (.next (.refl _) (Dev.touches_sendBlock ..)) (Dev.touches_modPort ..)

theorem Dev.touches_pumpLoop (k : Clock) (p : Fin 81) (n : Nat) (d : Dev) :
    d.Touches [.acc, .fab, .sec, .out, .work] [] (Dev.pumpLoop k p n d) := Dev.Touches.pumpLoop (.refl d) k p n

theorem Dev.touches_pump (d : Dev) (k : Clock) (p : Fin 81) : d.Touches [.acc, .fab, .out, .sec, .work] [] (Dev.pump d k p) := by
  unfold Dev.pump
  extract_lets -merge +onlyGivenNames v0
  refine .ite ?_ ?_
  · extract_lets -merge +onlyGivenNames v1
    exact .next (.next (.next (.refl _) (Dev.touches_pumpLoop ..)) (Dev.touches_modPort ..)) (Dev.touches_tell ..)
  · exact .refl _

theorem Dev.touches_enqueue (d : Dev) (k : Clock) (p : Fin 81) (i : QPacket) : d.Touches [.acc, .fab, .out, .sec, .work] [] (Dev.enqueue d k p i) := by
  unfold Dev.enqueue
  exact .next (.next (.refl _) (Dev.touches_modPort ..)) (Dev.touches_pump ..)

theorem Dev.touches_gather (d : Dev) (from_ : List (Place × ℕ)) (fd : ℕ) : d.Touches [.work] [] (Dev.gather d from_ fd) := by
  unfold Dev.gather
  refine .foldl ?_ fun e0 x1 _ => ?_
  · exact .refl _
  · exact .next (.refl _) (Dev.touches_carry ..)

theorem Dev.touches_toPort (d : Dev) (k : Clock) (i : QPacket) (from_ : List (Place × ℕ)) (o : Fin 81) : d.Touches [.acc, .fab, .out, .sec, .work] [] (Dev.toPort d k i from_ o) := by
  unfold Dev.toPort
  extract_lets -merge +onlyGivenNames d0
  have hd0 : d.Touches [.acc, .fab, .out, .sec, .work] [] d0 := by
    unfold d0
    refine .ite ?_ ?_
    · exact .next (.refl _) (Dev.touches_gather ..)
    · exact .refl _
  clear_value d0
  exact .next (hd0) (Dev.touches_enqueue ..)

theorem Dev.touches_routePacket (d : Dev) (k : Clock) (i : QPacket) (from_ : List (Place × ℕ)) : d.Touches [.acc, .fab, .out, .sec, .work] [] (Dev.routePacket d k i from_) := by
  unfold Dev.routePacket
  extract_lets -merge +onlyGivenNames v0
  extract_lets -merge +onlyGivenNames v1
  refine .ite ?_ ?_
  · exact .next (.set (.refl _) rfl) (Dev.touches_freeBuffer ..)
  · refine .ite ?_ ?_
    · exact .next (.next (.refl _) (Dev.touches_count ..)) (Dev.touches_freeBuffer ..)
    · split
      · exact .next (.next (.refl _) (Dev.touches_count ..)) (Dev.touches_freeBuffer ..)
      · exact .next (.refl _) (Dev.touches_toPort ..)

theorem Dev.touches_arrive (d : Dev) (k : Clock) (port : Fin 81) (p : Packet) : d.Touches [.acc, .fab, .out, .sec, .work] [] (Dev.arrive d k port p) := by
  unfold Dev.arrive
  extract_lets -merge +onlyGivenNames v0
  extract_lets -merge +onlyGivenNames v1
  extract_lets -merge +onlyGivenNames v2
  extract_lets -merge +onlyGivenNames d3
  have hd3 : d.Touches [.acc, .fab, .out, .sec, .work] [] d3 := by
    unfold d3
    refine .ite ?_ ?_
    · exact .next (.refl _) (Dev.touches_countBytes ..)
    · exact .refl _
  clear_value d3
  exact .next (hd3) (Dev.touches_routePacket ..)

theorem Dev.touches_forgetKey (d : Dev) (key : Key) : d.Touches [.fab] [] (Dev.forgetKey d key) := by
  unfold Dev.forgetKey
  exact .set (.refl _) rfl

theorem Dev.touches_originate (d : Dev) (k : Clock) (s : Sending) (twin : Bool) : d.Touches [.acc, .fab, .out, .sec, .work] [] (Dev.originate d k s twin) := by
  unfold Dev.originate
  split
  · extract_lets -merge +onlyGivenNames v2
    extract_lets -merge +onlyGivenNames v3
    extract_lets -merge +onlyGivenNames v4
    extract_lets -merge +onlyGivenNames d5
    have hd5 : d.Touches [.acc, .fab, .out, .sec, .work] [] d5 := by
      exact .set (.refl _) rfl
    clear_value d5
    refine .ite ?_ ?_
    · extract_lets -merge +onlyGivenNames d6
      have hd6 : d.Touches [.acc, .fab, .out, .sec, .work] [] d6 := by
        unfold d6
        refine .ite ?_ ?_
        · exact .next (hd5) (Dev.touches_gather ..)
        · exact hd5
      clear_value d6
      exact .set (hd6) rfl
    · refine .ite ?_ ?_
      · split
        · exact .next (hd5) (Dev.touches_count ..)
        · exact .next (hd5) (Dev.touches_toPort ..)
      · exact .next (hd5) (Dev.touches_routePacket ..)

theorem Dev.touches_sendOneHop (d : Dev) (k : Clock) (port : Fin 81) (op : ℕ) (payload : List Byte) : d.Touches [.acc, .fab, .out, .sec, .work] [] (Dev.sendOneHop d k port op payload) := by
  unfold Dev.sendOneHop
  extract_lets -merge +onlyGivenNames v0
  refine .ite ?_ ?_
  · exact .next (.refl _) (Dev.touches_enqueue ..)
  · exact .refl _

theorem Dev.touches_agentSend (d : Dev) (k : Clock) (op : ℕ) (content : List Byte) : d.Touches [.acc, .fab, .out, .sec, .work] [] (Dev.agentSend d k op content) := by
  unfold Dev.agentSend
  exact .next (.refl _) (Dev.touches_originate ..)

theorem Dev.touches_sendReport (d : Dev) (k : Clock) (r : Report) : d.Touches [.acc, .fab, .out, .sec, .work] [] (Dev.sendReport d k r).1 := by
  unfold Dev.sendReport
  extract_lets -merge +onlyGivenNames v0
  exact .fst (.next (.refl _) (Dev.touches_agentSend ..))

theorem Dev.touches_sendReports (d : Dev) (k : Clock) :
    d.Touches [.acc, .fab, .sec, .out, .work] [] (d.sendReports k) := Dev.Touches.sendReports (.refl d) k

theorem Dev.touches_setSync (d : Dev) (y : Sync) : d.Touches [.sync] [] (Dev.setSync d y) := by
  unfold Dev.setSync
  exact .set (.refl _) rfl

theorem Dev.touches_parentsChanged (d : Dev) (k : Clock) : d.Touches [.sync] [] (Dev.parentsChanged d k) := by
  unfold Dev.parentsChanged
  refine .ite ?_ ?_
  · exact .refl _
  · extract_lets -merge +onlyGivenNames v0
    extract_lets -merge +onlyGivenNames v1
    extract_lets -merge +onlyGivenNames v2
    refine .ite ?_ ?_
    · exact .next (.refl _) (Dev.touches_setSync ..)
    · refine .ite ?_ ?_
      · split
        · exact .next (.refl _) (Dev.touches_setSync ..)
        · exact .next (.refl _) (Dev.touches_setSync ..)
        · exact .next (.refl _) (Dev.touches_setSync ..)
        · exact .next (.refl _) (Dev.touches_setSync ..)
        · exact .refl _
      · extract_lets -merge +onlyGivenNames v8
        split
        · exact .next (.refl _) (Dev.touches_setSync ..)
        · exact .refl _
        · exact .refl _
        · exact .next (.refl _) (Dev.touches_setSync ..)

theorem Dev.touches_freeRate (d : Dev) : d.Touches [.rates, .regs] [.tickOffsetRate] (Dev.freeRate d) := by
  unfold Dev.freeRate
  extract_lets -merge +onlyGivenNames d0
  have hd0 : d.Touches [.rates, .regs] [.tickOffsetRate] d0 := by
    exact .next (.refl _) (Dev.touches_wr ..)
  clear_value d0
  exact .set (hd0) rfl

theorem Dev.touches_setSyncCfg (d : Dev) (k : Clock) (v : ℕ) : d.Touches [.regs, .sync] [.tickSyncRoot, .tickSyncBackup, .tickSyncPrimary] (Dev.setSyncCfg d k v) := by
  unfold Dev.setSyncCfg
  extract_lets -merge +onlyGivenNames v0
  extract_lets -merge +onlyGivenNames v1
  extract_lets -merge +onlyGivenNames d2
  have hd2 : d.Touches [.regs, .sync] [.tickSyncRoot, .tickSyncBackup, .tickSyncPrimary] d2 := by
    exact .next (.next (.next (.refl _) (Dev.touches_wr ..)) (Dev.touches_wr ..)) (Dev.touches_wr ..)
  clear_value d2
  extract_lets -merge +onlyGivenNames v3
  extract_lets -merge +onlyGivenNames v4
  exact .next (.next (hd2) (Dev.touches_setSync ..)) (Dev.touches_parentsChanged ..)

theorem Dev.touches_dropBuffers (d : Dev) (p : Fin 81) : d.Touches [.fab] [] (Dev.dropBuffers d p) := by
  unfold Dev.dropBuffers
  exact .set (.refl _) rfl

theorem Dev.touches_reroute (d : Dev) (k : Clock) (p : Fin 81) (i : QPacket) : d.Touches [.acc, .fab, .out, .sec, .work] [] (Dev.reroute d k p i) := by
  unfold Dev.reroute
  exact .next (.refl _) (Dev.touches_routePacket ..)

theorem Dev.touches_portLost (d : Dev) (k : Clock) (p : Fin 81) (st : PortState) : d.Touches [.acc, .fab, .out, .sec, .sync, .twin, .work] [] (Dev.portLost d k p st) := by
  unfold Dev.portLost
  extract_lets -merge +onlyGivenNames d0
  have hd0 : d.Touches [.acc, .fab, .out, .sec, .sync, .twin, .work] [] d0 := by
    exact .next (.refl _) (Dev.touches_dropBuffers ..)
  clear_value d0
  extract_lets -merge +onlyGivenNames v1
  extract_lets -merge +onlyGivenNames v2
  extract_lets -merge +onlyGivenNames v3
  extract_lets -merge +onlyGivenNames v4 v5
  extract_lets -merge +onlyGivenNames d6
  have hd6 : d.Touches [.acc, .fab, .out, .sec, .sync, .twin, .work] [] d6 := by
    exact .next (hd0) (Dev.touches_modPort ..)
  clear_value d6
  extract_lets -merge +onlyGivenNames v7 d8
  have hd8 : d.Touches [.acc, .fab, .out, .sec, .sync, .twin, .work] [] d8 := by
    unfold d8
    refine .ite ?_ ?_
    · exact .set (hd6) rfl
    · exact hd6
  clear_value d8
  extract_lets -merge +onlyGivenNames v9
  extract_lets -merge +onlyGivenNames d10
  have hd10 : d.Touches [.acc, .fab, .out, .sec, .sync, .twin, .work] [] d10 := by
    exact .next (hd8) (Dev.touches_countPort ..)
  clear_value d10
  extract_lets -merge +onlyGivenNames d11
  have hd11 : d.Touches [.acc, .fab, .out, .sec, .sync, .twin, .work] [] d11 := by
    refine .foldl ?_ fun e12 x13 _ => ?_
    · exact hd10
    · exact .next (.refl _) (Dev.touches_reroute ..)
  clear_value d11
  exact .next (hd11) (Dev.touches_parentsChanged ..)

theorem Dev.touches_portDown (d : Dev) (k : Clock) (p : Fin 81) : d.Touches [.acc, .fab, .out, .sec, .sync, .twin, .work] [] (Dev.portDown d k p) := by
  unfold Dev.portDown
  exact .next (.refl _) (Dev.touches_portLost ..)

theorem Dev.touches_twinUp (d : Dev) (k : Clock) : d.Touches [.acc, .fab, .out, .sec, .sync, .work] [] (Dev.twinUp d k) := by
  unfold Dev.twinUp
  extract_lets -merge +onlyGivenNames v0
  refine .ite ?_ ?_
  · exact .next (.next (.next (.refl _) (Dev.touches_modPort ..)) (Dev.touches_pump ..)) (Dev.touches_parentsChanged ..)
  · exact .refl _

theorem Dev.touches_portCommand (d : Dev) (k : Clock) (fd : ℕ) (port : ℕ) (cmd : ℕ) : d.Touches [.acc, .fab, .out, .sec, .sync, .twin, .work] [] (Dev.portCommand d k fd port cmd).1 := by
  unfold Dev.portCommand
  split
  · extract_lets -merge +onlyGivenNames v0
    extract_lets -merge +onlyGivenNames v1
    split
    · exact .fst (.refl _)
    · split
      · split
        · exact .fst (.next (.refl _) (Dev.touches_modPort ..))
        · exact .fst (.refl _)
      · split
        · exact .fst (.refl _)
        · exact .fst (.next (.refl _) (Dev.touches_portLost ..))
      · split
        · exact .fst (.next (.refl _) (Dev.touches_sendOneHop ..))
        · exact .fst (.refl _)
      · exact .fst (.refl _)
  · exact .fst (.refl _)

theorem Dev.touches_takeAck (d : Dev) (k : Clock) (p : Fin 81) (tr : ℕ) : d.Touches [.fab] [] (Dev.takeAck d k p tr) := by
  unfold Dev.takeAck
  extract_lets -merge +onlyGivenNames v0
  extract_lets -merge +onlyGivenNames v1
  refine .ite ?_ ?_
  · exact .refl _
  · extract_lets -merge +onlyGivenNames v2
    extract_lets -merge +onlyGivenNames v3
    exact .next (.refl _) (Dev.touches_modPort ..)

theorem Dev.touches_replay (d : Dev) (p : Fin 81) : d.Touches [.out] [] (Dev.replay d p) := by
  unfold Dev.replay
  extract_lets -merge +onlyGivenNames v0
  refine .foldl ?_ fun e1 x2 _ => ?_
  · exact .refl _
  · exact .next (.refl _) (Dev.touches_emitBlock ..)

theorem Dev.touches_takeNak (d : Dev) (k : Clock) (p : Fin 81) : d.Touches [.acc, .fab, .out, .sec, .sync, .twin, .work] [] (Dev.takeNak d k p) := by
  unfold Dev.takeNak
  extract_lets -merge +onlyGivenNames v0
  extract_lets -merge +onlyGivenNames v1
  extract_lets -merge +onlyGivenNames d2
  have hd2 : d.Touches [.acc, .fab, .out, .sec, .sync, .twin, .work] [] d2 := by
    exact .next (.refl _) (Dev.touches_countPort ..)
  clear_value d2
  refine .ite ?_ ?_
  · exact hd2
  · extract_lets -merge +onlyGivenNames d3
    have hd3 : d.Touches [.acc, .fab, .out, .sec, .sync, .twin, .work] [] d3 := by
      exact .next (.next (hd2) (Dev.touches_countPort ..)) (Dev.touches_modPort ..)
    clear_value d3
    refine .ite ?_ ?_
    · exact .next (hd3) (Dev.touches_portDown ..)
    · exact .next (hd3) (Dev.touches_replay ..)

theorem Dev.touches_takeBody (d : Dev) (p : Fin 81) (kind : ℕ) (body : List Byte) : d.Touches [.fab, .work] [] (Dev.takeBody d p kind body) := by
  unfold Dev.takeBody
  extract_lets -merge +onlyGivenNames d0
  have hd0 : d.Touches [.fab, .work] [] d0 := by
    exact .next (.refl _) (Dev.touches_modPort ..)
  clear_value d0
  refine .ite ?_ ?_
  · exact hd0
  · extract_lets -merge +onlyGivenNames v1
    split
    · extract_lets -merge +onlyGivenNames d4
      have hd4 : d.Touches [.fab, .work] [] d4 := by
        exact .next (hd0) (Dev.touches_modPort ..)
      clear_value d4
      extract_lets -merge +onlyGivenNames v5 d6
      have hd6 : d.Touches [.fab, .work] [] d6 := by
        exact .set (hd4) rfl
      clear_value d6
      extract_lets -merge +onlyGivenNames v7
      refine .ite ?_ ?_
      · exact .next (hd6) (Dev.touches_addWork ..)
      · exact .next (hd6) (Dev.touches_addWork ..)

theorem Dev.touches_takeBlock (d : Dev) (k : Clock) (p : Fin 81) (tr : ℕ) (body : List Byte) : d.Touches [.acc, .fab, .out, .sec, .sync, .twin, .work] [] (Dev.takeBlock d k p tr body) := by
  unfold Dev.takeBlock
  extract_lets -merge +onlyGivenNames v0
  refine .ite ?_ ?_
  · exact .refl _
  · extract_lets -merge +onlyGivenNames d1
    have hd1 : d.Touches [.acc, .fab, .out, .sec, .sync, .twin, .work] [] d1 := by
      unfold d1
      refine .ite ?_ ?_
      · exact .next (.refl _) (Dev.touches_takeBody ..)
      · exact .refl _
    clear_value d1
    extract_lets -merge +onlyGivenNames d2
    have hd2 : d.Touches [.acc, .fab, .out, .sec, .sync, .twin, .work] [] d2 := by
      exact .next (.next (hd1) (Dev.touches_takeAck ..)) (Dev.touches_modPort ..)
    clear_value d2
    refine .ite ?_ ?_
    · exact .next (hd2) (Dev.touches_takeNak ..)
    · exact hd2

theorem Dev.touches_takeIn (d : Dev) (port : Fin 81) (p : Packet) : d.Touches [.fab] [] (Dev.takeIn d port p) := by
  unfold Dev.takeIn
  exact .set (.refl _) rfl

theorem Dev.Touches.oneHop {ps : List Part} {fs : List Fld} {a d : Dev} {k : Clock} {port : Fin 81} {p : Packet}
    {f : Dev → Dev} (h : a.Touches ps fs d) (hf : ∀ e, a.Touches ps fs e → a.Touches ps fs (f e))
    (hp : sendParts ⊆ ps := by decide) : a.MayTouch ps fs (d.oneHop k port p f) := by
  unfold Dev.oneHop
  refine .ite ?_ .none
  extract_lets d1
  have h1 : a.Touches ps fs d1 :=
    h.next (.next (ps := sendParts) (fs := []) (.mono (Dev.touches_takeIn ..)) (Dev.touches_freeBuffer ..)) hp
      (List.nil_subset _)
  clear_value d1
  refine .some (.ite (hf _ h1) ?_)
  exact h1.next (.mono (ps := sendParts) (fs := []) (Dev.touches_count ..)) hp (List.nil_subset _)

theorem Dev.touches_consume (d : Dev) (k : Clock) (p : Packet) : d.Touches [.acc, .out] [] (Dev.consume d k p) := by
  unfold Dev.consume
  refine .ite ?_ ?_
  · exact .set (.refl _) rfl
  · refine .ite ?_ ?_
    · exact .next (.refl _) (Dev.touches_count ..)
    · exact .next (.refl _) (Dev.touches_count ..)

theorem Dev.touches_toConsumer (d : Dev) (p : Packet) : d.Touches [.work] [] (Dev.toConsumer d p) := by
  unfold Dev.toConsumer
  refine .ite ?_ ?_
  · exact .next (.refl _) (Dev.touches_carry ..)
  · exact .refl _

theorem Dev.touches_releaseOne (d : Dev) (k : Clock) (p : Packet) (r : RxOrder) : d.Touches [.acc, .out, .work] [] (Dev.releaseOne d k p r).1 := by
  unfold Dev.releaseOne
  extract_lets -merge +onlyGivenNames v0
  split
  · exact .fst (.next (.refl _) (Dev.touches_count ..))
  · exact .fst (.next (.next (.refl _) (Dev.touches_toConsumer ..)) (Dev.touches_consume ..))

theorem Dev.touches_setRx (d : Dev) (r : RxOrder) : d.Touches [.fab] [] (Dev.setRx d r) := by
  unfold Dev.setRx
  extract_lets -merge +onlyGivenNames v0
  extract_lets -merge +onlyGivenNames v1
  extract_lets -merge +onlyGivenNames v2
  exact .set (.refl _) rfl

theorem Dev.touches_drain (k : Clock) (n : Nat) (d : Dev) (r : RxOrder) :
    d.Touches [.acc, .fab, .out, .sec, .work] [] (Dev.drain k n d r) := by
  induction n generalizing d r with
  | zero => exact .mono (Dev.touches_setRx ..)
  | succ n ih =>
    unfold Dev.drain
    split
    · exact .mono (Dev.touches_setRx ..)
    · split
      next d0 _ heq =>
        exact .next (.of_fst (.mono (Dev.touches_releaseOne ..)) heq) (ih ..)

theorem Dev.touches_passGap (d : Dev) (k : Clock) (r : RxOrder) : d.Touches [.acc, .fab, .out, .sec, .work] [] (Dev.passGap d k r) := by
  unfold Dev.passGap
  split
  · exact .refl _
  · extract_lets -merge +onlyGivenNames d2
    have hd2 : d.Touches [.acc, .fab, .out, .sec, .work] [] d2 := by
      exact .next (.refl _) (Dev.touches_count ..)
    clear_value d2
    exact .next (hd2) (Dev.touches_drain ..)

theorem Dev.touches_makeRoom (k : Clock) (fd n : Nat) (fuel : Nat) (d : Dev) :
    d.Touches [.acc, .fab, .out, .sec, .work] [] (Dev.makeRoom k fd n fuel d) := by
  induction fuel generalizing d with
  | zero => exact .refl d
  | succ m ih =>
    unfold Dev.makeRoom
    dsimp only
    split
    · exact .refl d
    · split
      · exact .refl d
      · split
        · exact .refl d
        · exact .next (.mono (Dev.touches_passGap ..)) (ih _)

theorem Dev.touches_inSequence (d : Dev) (k : Clock) (p : Packet) (r : RxOrder) : d.Touches [.acc, .fab, .out, .sec, .work] [] (Dev.inSequence d k p r) := by
  unfold Dev.inSequence
  split
  next d0 x1 heq =>
    have hd0 : d.Touches [.acc, .fab, .out, .sec, .work] [] d0 := by
      refine .of_fst ?_ heq
      exact .next (.refl _) (Dev.touches_releaseOne ..)
    exact .next (hd0) (Dev.touches_drain ..)

theorem Dev.touches_reorder (d : Dev) (k : Clock) (p : Packet) : d.Touches [.acc, .fab, .out, .sec, .work] [] (Dev.reorder d k p) := by
  unfold Dev.reorder
  extract_lets -merge +onlyGivenNames v0
  extract_lets -merge +onlyGivenNames v1
  extract_lets -merge +onlyGivenNames v2
  refine .ite ?_ ?_
  · exact .next (.refl _) (Dev.touches_inSequence ..)
  · refine .ite ?_ ?_
    · exact .next (.refl _) (Dev.touches_count ..)
    · extract_lets -merge +onlyGivenNames d3
      have hd3 : d.Touches [.acc, .fab, .out, .sec, .work] [] d3 := by
        exact .next (.refl _) (Dev.touches_makeRoom ..)
      clear_value d3
      extract_lets -merge +onlyGivenNames v4
      extract_lets -merge +onlyGivenNames v5
      refine .ite ?_ ?_
      · exact .next (hd3) (Dev.touches_inSequence ..)
      · refine .ite ?_ ?_
        · exact .next (hd3) (Dev.touches_count ..)
        · extract_lets -merge +onlyGivenNames d6
          have hd6 : d.Touches [.acc, .fab, .out, .sec, .work] [] d6 := by
            exact .next (hd3) (Dev.touches_setRx ..)
          clear_value d6
          exact .next (hd6) (Dev.touches_peak ..)

theorem Dev.touches_routeCommand (d : Dev) : d.Touches [.fab] [] (Dev.routeCommand d) := by
  unfold Dev.routeCommand
  exact .set (.refl _) rfl

theorem Dev.touches_admitPorts (d : Dev) (k : Clock) : d.Touches [.acc, .fab, .out, .sec, .work] [] (Dev.admitPorts d k) := by
  unfold Dev.admitPorts
  refine .foldl ?_ fun e0 x1 _ => ?_
  · exact .refl _
  · refine .ite ?_ ?_
    · exact .next (.next (.refl _) (Dev.touches_modPort ..)) (Dev.touches_pump ..)
    · exact .refl _

theorem Dev.touches_closeWindow (d : Dev) (k : Clock) (p : Fin 81) : d.Touches [.acc, .fab] [] (Dev.closeWindow d k p) := by
  unfold Dev.closeWindow
  extract_lets -merge +onlyGivenNames v0
  extract_lets -merge +onlyGivenNames v1
  extract_lets -merge +onlyGivenNames d2
  have hd2 : d.Touches [.acc, .fab] [] d2 := by
    exact .next (.refl _) (Dev.touches_modPort ..)
  clear_value d2
  refine .ite ?_ ?_
  · exact hd2
  · refine .foldl ?_ fun e3 x4 _ => ?_
    · exact hd2
    · split
      · refine .ite ?_ ?_
        · exact .refl _
        · extract_lets -merge +onlyGivenNames v7
          extract_lets -merge +onlyGivenNames d8
          have hd8 : e3.Touches [.acc, .fab] [] d8 := by
            exact .next (.next (.refl _) (Dev.touches_count ..)) (Dev.touches_peak ..)
          clear_value d8
          refine .ite ?_ ?_
          · exact .next (hd8) (Dev.touches_count ..)
          · exact hd8

theorem Dev.touches_modPwr (d : Dev) (f : Pwr → Pwr) : d.Touches [.pwr] [] (Dev.modPwr d f) := by
  unfold Dev.modPwr
  exact .set (.refl _) rfl



theorem Dev.touches_budgetSpent (d : Dev) : d.Touches [.host, .pwr, .regs, .updated] [.tickEvBudget] (Dev.budgetSpent d) := by
  unfold Dev.budgetSpent
  refine Dev.Touches.alerting ?_ fun e0 he1 => ?_
  · exact .next (.next (.refl _) (Dev.touches_flag ..)) (Dev.touches_smbEvent ..)
  · exact .next (he1) (Dev.touches_modPwr ..)

theorem Dev.touches_alertPeriod (d : Dev) : d.Touches [.host, .pwr] [] (Dev.alertPeriod d) := by
  unfold Dev.alertPeriod
  refine Dev.Touches.alerting ?_ fun e0 he1 => ?_
  · exact .refl _
  · exact .next (he1) (Dev.touches_modPwr ..)

theorem Dev.touches_countReduced (d : Dev) (k : Clock) : d.Touches [.acc, .pwr] [] (Dev.countReduced d k) := by
  unfold Dev.countReduced
  extract_lets -merge +onlyGivenNames d0
  have hd0 : d.Touches [.acc, .pwr] [] d0 := by
    unfold d0
    refine .ite ?_ ?_
    · exact .refl _
    · exact .next (.refl _) (Dev.touches_count ..)
  clear_value d0
  exact .next (hd0) (Dev.touches_modPwr ..)

theorem Dev.touches_sampleDie (d : Dev) (k : Clock) (x : ℕ) : d.Touches [.pwr, .regs, .updated] [.pwrEvReduce] (Dev.sampleDie d k x) := by
  unfold Dev.sampleDie
  extract_lets -merge +onlyGivenNames v0
  extract_lets -merge +onlyGivenNames v1
  refine .ite ?_ ?_
  · exact .next (.refl _) (Dev.touches_modPwr ..)
  · refine .ite ?_ ?_
    · exact .next (.next (.refl _) (Dev.touches_modPwr ..)) (Dev.touches_flag ..)
    · exact .refl _

theorem Dev.touches_setPwrCap (d : Dev) (v : ℕ) : d.Touches [.regs, .updated] [.pwrCapW, .pwrEvCapReject] (Dev.setPwrCap d v).1 := by
  unfold Dev.setPwrCap
  extract_lets -merge +onlyGivenNames v0
  split
  · exact .fst (.next (.refl _) (Dev.touches_wr ..))
  · exact .fst (.next (.refl _) (Dev.touches_flag ..))

theorem Dev.touches_setPwrTj (d : Dev) (v : ℕ) : d.Touches [.host, .regs, .updated] [.pwrTjTarget, .pwrEvCapReject] (Dev.setPwrTj d v).1 := by
  unfold Dev.setPwrTj
  extract_lets -merge +onlyGivenNames v0
  split
  · refine .fst ?_
    refine Dev.Touches.alerting ?_ fun e1 he2 => ?_
    · exact .refl _
    · exact .next (he2) (Dev.touches_wr ..)
  · exact .fst (.next (.refl _) (Dev.touches_flag ..))

theorem Dev.touches_latchSummary (d : Dev) (k : Clock) (stamp : Nat) :
    d.Touches [.acc, .host, .pwr, .regs] allFlds (d.latchSummary k stamp) := by
  have horder : ∀ o : Order, o.fabricDies ≤ 10 := fun o => by cases o <;> decide
  unfold Dev.latchSummary
  extract_lets d0 d1 fec d2
  have h0 : d.Touches [.acc, .host, .pwr, .regs] allFlds d0 :=
    ((Dev.Touches.refl d).nextAny (Dev.touches_countReduced ..)).nextAny (Dev.touches_latch ..)
  have h1 : d.Touches [.acc, .host, .pwr, .regs] allFlds d1 :=
    (h0.nextAny (Dev.touches_wr ..)).nextAny (Dev.touches_wr ..)
  have hfec : ∀ (e : Dev) (f : Fld) (x p : Nat), p / 8 < 128 → e.Touches [.acc, .host, .pwr, .regs] allFlds (fec e f x p) :=
    fun e f x p hp => (Dev.Touches.refl e).nextAny (Dev.touches_wr e f _ (p / 8) (p % 8) hp (Nat.lt_of_lt_of_le (Nat.mod_lt p (by decide)) (by decide)))
  clear_value d0 d1 fec
  have h2 : d.Touches [.acc, .host, .pwr, .regs] allFlds d2 := by
    refine h1.foldl fun e p hp => ?_
    have hp' := List.mem_range.1 hp
    have hd := horder d1.order
    exact (hfec _ _ _ _ (by omega)).nextAny (hfec _ _ _ _ (by omega))
  clear_value d2
  refine .nextAny (h2.foldl fun e f hf => ?_) (Dev.touches_alertPeriod ..)
  have hf' := List.mem_range.1 hf
  have hd := horder d2.order
  exact (Dev.Touches.refl e).nextAny (Dev.touches_wr e .fabMapStamp stamp f 0 (by omega))

theorem Dev.touches_put (d : Dev) (l : Loc) (a : ℕ) (bs : List Byte) (mask : List Bool) : d.Touches [.acc, .mem, .snap, .twin] [] (Dev.put d l a bs mask) := by
  unfold Dev.put
  split
  · exact .next (.refl _) (Dev.touches_hbmWrite ..)
  · exact .next (.next (.refl _) (Dev.touches_snapWrite ..)) (Dev.touches_locWrite ..)

theorem Dev.touches_countTile (d : Dev) (core : Fin 48) (x : TileData) : d.Touches [.acc] [] (Dev.countTile d core x) := by
  unfold Dev.countTile
  extract_lets -merge +onlyGivenNames d0
  have hd0 : d.Touches [.acc] [] d0 := by
    unfold d0
    refine .ite ?_ ?_
    · exact .refl _
    · exact .next (.refl _) (Dev.touches_count ..)
  clear_value d0
  extract_lets -merge +onlyGivenNames d1
  have hd1 : d.Touches [.acc] [] d1 := by
    unfold d1
    refine .ite ?_ ?_
    · exact hd0
    · exact .next (hd0) (Dev.touches_count ..)
  clear_value d1
  refine .ite ?_ ?_
  · exact hd1
  · exact .next (hd1) (Dev.touches_count ..)

theorem Dev.touches_writeTileIn (d : Dev) (core : Fin 48) (t : TileDesc) (f : Fmt) (r c : Nat) (within : Nat → Bool)
    (x : NarrowTile) : d.Touches [.acc, .mem, .snap, .twin] [] (d.writeTileIn core t f r c within x) := by
  unfold Dev.writeTileIn
  extract_lets +onlyGivenNames n db valid
  split
  · exact .refl d
  · extract_lets +onlyGivenNames sc hit putScales
    have hput : ∀ (e : Dev) (l : Loc) (a : Nat) (bs : List Byte) (mask : List Bool), d.Touches [.acc, .mem, .snap, .twin] [] e →
        d.Touches [.acc, .mem, .snap, .twin] [] (e.put l a bs mask) := fun e l a bs mask h => h.next (Dev.touches_put ..)
    have hscales : ∀ e : Dev, d.Touches [.acc, .mem, .snap, .twin] [] e → d.Touches [.acc, .mem, .snap, .twin] [] (putScales e) := by
      intro e h
      dsimp only [putScales]
      split
      · exact h
      · split
        · exact h
        · exact hput _ _ _ _ _ h
    clear_value putScales
    split
    · exact hscales _ (hput _ _ _ _ _ (.refl d))
    · extract_lets +onlyGivenNames cs
      split
      extract_lets +onlyGivenNames d1 d2 d3
      have h1 : d.Touches [.acc, .mem, .snap, .twin] [] d1 := hscales _ (hput _ _ _ _ _ (.refl d))
      clear_value d1
      have h2 : d.Touches [.acc, .mem, .snap, .twin] [] d2 := by
        unfold d2
        split
        · exact h1
        · exact hput _ _ _ _ _ h1
      clear_value d2
      have h3 : d.Touches [.acc, .mem, .snap, .twin] [] d3 := by
        unfold d3
        split
        · exact h2
        · exact h2.next (Dev.touches_count ..)
      split
      · exact h3.next (Dev.touches_count ..)
      · exact h3

theorem Dev.touches_writeTile (d : Dev) (core : Fin 48) (t : TileDesc) (f : Fmt) (r : ℕ) (c : ℕ) (x : NarrowTile) : d.Touches [.acc, .mem, .snap, .twin] [] (Dev.writeTile d core t f r c x) := by
  unfold Dev.writeTile
  exact .next (.refl _) (Dev.touches_writeTileIn ..)

theorem Dev.touches_countNarrow (d : Dev) (core : Fin 48) (x : NarrowTile) : d.Touches [.acc] [] (Dev.countNarrow d core x) := by
  unfold Dev.countNarrow
  extract_lets -merge +onlyGivenNames d0
  have hd0 : d.Touches [.acc] [] d0 := by
    unfold d0
    refine .ite ?_ ?_
    · exact .refl _
    · exact .next (.refl _) (Dev.touches_count ..)
  clear_value d0
  refine .ite ?_ ?_
  · exact hd0
  · exact .next (hd0) (Dev.touches_count ..)

theorem Dev.touches_setCore (d : Dev) (c : Fin 48) (x : Core) : d.Touches [.cores] [] (Dev.setCore d c x) := by
  unfold Dev.setCore
  exact .set (.refl _) rfl

theorem Dev.touches_recordSeqFault (d : Dev) (c : Fin 48) (code cause cls opc index : Nat) :
    d.Touches [.regs] coreFaultFlds (d.recordSeqFault c code cause cls opc index) := by
  have hw : ∀ (e : Dev) (f : Fld) (v : Nat), [f] ⊆ coreFaultFlds → e.Touches [.regs] coreFaultFlds (e.wr f v c) := fun e f v hf =>
    .mono (Dev.touches_wr _ f v c 0 (by omega)) (by decide) hf
  unfold Dev.recordSeqFault
  split
  · exact (((((hw _ _ _ (by decide)).next (hw _ _ _ (by decide))).next (hw _ _ _ (by decide))).next
      (hw _ _ _ (by decide))).next (hw _ _ _ (by decide))).next (hw _ _ _ (by decide))
  · exact .refl d

theorem Dev.touches_insFault (d : Dev) (k : Clock) (c : Fin 48) (cause : ℕ) (w : InsWord) (index : ℕ) : d.Touches faultParts (coreFaultFlds.append faultFlds) (Dev.insFault d k c cause w index) := by
  unfold Dev.insFault
  exact .next (.next (.refl _) (Dev.touches_recordSeqFault ..)) (Dev.touches_runFault ..)

theorem Dev.touches_templateEnd (d : Dev) (k : Clock) (c : Fin 48) : d.Touches faultParts (coreFaultFlds.append faultFlds) (Dev.templateEnd d k c) := by
  unfold Dev.templateEnd
  extract_lets -merge +onlyGivenNames v0
  refine .ite ?_ ?_
  · exact .next (.next (.refl _) (Dev.touches_recordSeqFault ..)) (Dev.touches_runFault ..)
  · exact .refl _

theorem Dev.touches_afterIssue (d : Dev) (k : Clock) (c : Fin 48) (x : Core) : d.Touches (.cores :: faultParts) (coreFaultFlds.append faultFlds) (Dev.afterIssue d k c x) := by
  unfold Dev.afterIssue
  exact .next (.next (.next (.refl _) (Dev.touches_setCore ..)) (Dev.touches_count ..)) (Dev.touches_templateEnd ..)

theorem Dev.touches_resume (d : Dev) (k : Clock) (c : Fin 48) (ac : ℕ) : d.Touches (.cores :: faultParts) (coreFaultFlds.append faultFlds) (Dev.resume d k c ac) := by
  unfold Dev.resume
  extract_lets -merge +onlyGivenNames v0
  exact .next (.next (.refl _) (Dev.touches_setCore ..)) (Dev.touches_templateEnd ..)

theorem Dev.touches_modCore (d : Dev) (c : Fin 48) (f : Core → Core) : d.Touches [.cores] [] (Dev.modCore d c f) := by
  unfold Dev.modCore
  exact .next (.refl _) (Dev.touches_setCore ..)



theorem Dev.touches_sramFault (d : Dev) (k : Clock) (unit : ℕ) (die : ℕ) (core : ℕ) (a : ℕ) (engine : ℕ) : d.Touches faultParts (faultFlds.append devFaultFlds) (Dev.sramFault d k unit die core a engine) := by
  unfold Dev.sramFault
  extract_lets -merge +onlyGivenNames v0
  extract_lets -merge +onlyGivenNames d1
  have hd1 : d.Touches faultParts (faultFlds.append devFaultFlds) d1 := by
    refine Dev.Touches.devFault ?_ fun e2 he3 => ?_
    · exact .refl _
    · exact .next (he3) (Dev.touches_wr ..)
  clear_value d1
  exact .next (hd1) (Dev.touches_runFault ..)

theorem Dev.touches_poisonFault (d : Dev) (k : Clock) (l : Loc) (a : ℕ) (engine : ℕ) : d.Touches faultParts (faultFlds.append devFaultFlds) (Dev.poisonFault d k l a engine) := by
  unfold Dev.poisonFault
  split
  · extract_lets -merge +onlyGivenNames d1
    have hd1 : d.Touches faultParts (faultFlds.append devFaultFlds) d1 := by
      refine Dev.Touches.devFault ?_ fun e2 he3 => ?_
      · exact .refl _
      · exact .next (he3) (Dev.touches_wr ..)
    clear_value d1
    exact .next (hd1) (Dev.touches_runFault ..)
  · exact .next (.refl _) (Dev.touches_sramFault ..)
  · exact .next (.refl _) (Dev.touches_sramFault ..)

theorem Dev.touches_checkTiles (d : Dev) (c : Fin 48) (rs ws : List (TileDesc × List (Nat × Nat))) :
    d.MayTouch [] [] (devS (d.checkTiles c rs ws)) := by
  unfold Dev.checkTiles
  dsimp only
  split
  · exact .none
  · cases rs.findSome? fun x => d.tilesPoison c x.1 x.2 <;> exact .none

theorem Dev.Touches.whileOpen {ps : List Part} {fs : List Fld} {a d : Dev} {k : Clock} {c : Fin 48} {e : Entry}
    {rs ws : List (TileDesc × List (Nat × Nat))} {f : Dev → Dev} (h : a.Touches ps fs d)
    (hf : ∀ e, a.Touches ps fs e → a.Touches ps fs (f e)) (hp : faultParts ⊆ ps := by decide)
    (hfs : coreFaultFlds ++ faultFlds ++ devFaultFlds ⊆ fs := by decide) : a.Touches ps fs (d.whileOpen k c e rs ws f) := by
  unfold Dev.whileOpen
  split
  · exact h.next ((Dev.touches_insFault ..).mono (ps := faultParts) (fs := coreFaultFlds ++ faultFlds ++ devFaultFlds)) hp hfs
  · exact h.next ((Dev.touches_poisonFault ..).mono (ps := faultParts) (fs := coreFaultFlds ++ faultFlds ++ devFaultFlds)) hp hfs
  · exact hf _ h

theorem Dev.touches_modGmem (d : Dev) (f : Gmem → Gmem) : d.Touches [.gmem] [] (Dev.modGmem d f) := by
  unfold Dev.modGmem
  exact .set (.refl _) rfl

theorem Dev.touches_setWindow (d : Dev) (w : ℕ) (e : ℕ) : d.Touches [.gmem] [] (Dev.setWindow d w e) := by
  unfold Dev.setWindow
  exact .next (.refl _) (Dev.touches_modGmem ..)

theorem Dev.touches_windowCommand (d : Dev) : d.Touches [.gmem, .regs, .updated] [.gmemWinReject] (Dev.windowCommand d).1 := by
  unfold Dev.windowCommand
  extract_lets -merge +onlyGivenNames v0
  extract_lets -merge +onlyGivenNames v1
  extract_lets -merge +onlyGivenNames v2
  extract_lets -merge +onlyGivenNames v3
  split
  · exact .fst (.next (.refl _) (Dev.touches_flag ..))
  · split
    · exact .fst (.next (.refl _) (Dev.touches_setWindow ..))
    · extract_lets -merge +onlyGivenNames v4
      extract_lets -merge +onlyGivenNames v5
      exact .fst (.next (.refl _) (Dev.touches_modGmem ..))

theorem Dev.touches_windowsAtOpen (d : Dev) : d.Touches [.gmem] [] (Dev.windowsAtOpen d) := by
  unfold Dev.windowsAtOpen
  extract_lets -merge +onlyGivenNames v0
  extract_lets -merge +onlyGivenNames d1
  have hd1 : d.Touches [.gmem] [] d1 := by
    refine .foldl ?_ fun e2 x3 _ => ?_
    · exact .refl _
    · exact .next (.refl _) (Dev.touches_setWindow ..)
  clear_value d1
  exact .next (hd1) (Dev.touches_modGmem ..)

theorem Dev.touches_gmemFault (d : Dev) (k : Clock) (code : ℕ) (cause : ℕ) (core : ℕ) (win : ℕ) (node : ℕ) (addr : ℕ) : d.Touches (.gmem :: faultParts) (faultFlds.append gmemFaultFlds) (Dev.gmemFault d k code cause core win node addr) := by
  unfold Dev.gmemFault
  extract_lets -merge +onlyGivenNames d0
  have hd0 : d.Touches (.gmem :: faultParts) (faultFlds.append gmemFaultFlds) d0 := by
    exact .next (.next (.next (.next (.next (.refl _) (Dev.touches_wr ..)) (Dev.touches_wr ..)) (Dev.touches_wr ..)) (Dev.touches_wr ..)) (Dev.touches_wr ..)
  clear_value d0
  extract_lets -merge +onlyGivenNames d1
  have hd1 : d.Touches (.gmem :: faultParts) (faultFlds.append gmemFaultFlds) d1 := by
    exact .next (hd0) (Dev.touches_modGmem ..)
  clear_value d1
  refine .next ?_ (Dev.touches_runFault ..)
  refine .ite ?_ ?_
  · exact hd1
  · exact .refl _

theorem Dev.touches_gmemWork (d : Dev) (n : ℕ) : d.Touches [.acc, .work] [] (Dev.gmemWork d n) := by
  unfold Dev.gmemWork
  exact .next (.next (.refl _) (Dev.touches_count ..)) (Dev.touches_addWork ..)

theorem Dev.touches_sendReq (d : Dev) (k : Clock) (r : GReq) : d.Touches [.acc, .fab, .out, .sec, .work] [] (Dev.sendReq d k r) := by
  unfold Dev.sendReq
  exact .next (.refl _) (Dev.touches_originate ..)

theorem Dev.touches_countSent (d : Dev) (r : GReq) : d.Touches [.acc, .work] [] (Dev.countSent d r) := by
  unfold Dev.countSent
  exact .next (.refl _) (Dev.touches_gmemWork ..)

theorem Dev.touches_accept (d : Dev) (k : Clock) (r : GReq) : d.Touches [.acc, .fab, .gmem, .out, .sec, .work] [] (Dev.accept d k r) := by
  unfold Dev.accept
  extract_lets -merge +onlyGivenNames v0
  extract_lets -merge +onlyGivenNames v1
  extract_lets -merge +onlyGivenNames v2
  extract_lets -merge +onlyGivenNames v3
  extract_lets -merge +onlyGivenNames d4
  have hd4 : d.Touches [.acc, .fab, .gmem, .out, .sec, .work] [] d4 := by
    exact .next (.refl _) (Dev.touches_modGmem ..)
  clear_value d4
  exact .next (.next (.next (hd4) (Dev.touches_count ..)) (Dev.touches_countSent ..)) (Dev.touches_sendReq ..)

theorem Dev.touches_startGmem (d : Dev) (k : Clock) (c : Fin 48) (e : Entry) : d.MayTouch (.fab :: .gmem :: .work :: faultParts) (faultFlds.append gmemFaultFlds) (Dev.startGmem d k c e).dev? := by
  unfold Dev.startGmem
  extract_lets -merge +onlyGivenNames v0
  extract_lets -merge +onlyGivenNames v1
  extract_lets -merge +onlyGivenNames v2
  refine .ite_started ?_ ?_
  · exact .none
  · split
    · exact .some (.next (.refl _) (Dev.touches_gmemFault ..))
    · split
      · exact .none
      · refine .ite_started ?_ ?_
        · exact .none
        · extract_lets -merge +onlyGivenNames v8
          extract_lets -merge +onlyGivenNames d9
          have hd9 : d.Touches (.fab :: .gmem :: .work :: faultParts) (faultFlds.append gmemFaultFlds) d9 := by
            unfold d9
            clear_value v0
            clear_value v2
            split
            · exact .next (.refl _) (Dev.touches_touch ..)
            · exact .refl _
          clear_value d9
          extract_lets -merge +onlyGivenNames v14
          extract_lets -merge +onlyGivenNames v15
          refine .some ?_
          refine .foldl ?_ fun e16 x17 _ => ?_
          · exact hd9
          · exact .next (.refl _) (Dev.touches_accept ..)

theorem Dev.touches_noteRoomWait (d : Dev) (k : Clock) : d.Touches [.acc, .gmem] [] (Dev.noteRoomWait d k) := by
  unfold Dev.noteRoomWait
  extract_lets -merge +onlyGivenNames v0
  clear_value v0
  split
  · exact .next (.refl _) (Dev.touches_modGmem ..)
  · exact .next (.next (.refl _) (Dev.touches_modGmem ..)) (Dev.touches_count ..)
  · exact .refl _

theorem Dev.touches_mgmtCancel (d : Dev) (k : Clock) (tag : ℕ) : d.Touches [.acc, .gmem] [] (Dev.mgmtCancel d k tag) := by
  unfold Dev.mgmtCancel
  extract_lets -merge +onlyGivenNames v0
  exact .next (.next (.refl _) (Dev.touches_modGmem ..)) (Dev.touches_noteRoomWait ..)

theorem Dev.touches_setGmemCfg (d : Dev) (v : ℕ) : d.Touches [.regs, .updated] [.gmemCfgReject, .gmemCfgRetry, .gmemCfgTimeout] (Dev.setGmemCfg d v).1 := by
  unfold Dev.setGmemCfg
  extract_lets -merge +onlyGivenNames v0
  extract_lets -merge +onlyGivenNames v1
  split
  · exact .fst (.next (.refl _) (Dev.touches_flag ..))
  · exact .fst (.next (.next (.refl _) (Dev.touches_wr ..)) (Dev.touches_wr ..))

theorem Dev.touches_modTwin (d : Dev) (f : Twin → Twin) : d.Touches [.twin] [] (Dev.modTwin d f) := by
  unfold Dev.modTwin
  exact .set (.refl _) rfl

theorem Dev.touches_setStream (d : Dev) (x : LsStream) : d.Touches [.twin] [] (Dev.setStream d x) := by
  unfold Dev.setStream
  extract_lets -merge +onlyGivenNames v0
  exact .next (.refl _) (Dev.touches_modTwin ..)

theorem Dev.touches_addWrite (d : Dev) (w : LsWrite) : d.Touches [.twin] [] (Dev.addWrite d w).1 := by
  unfold Dev.addWrite
  split
  · exact .fst (.next (.refl _) (Dev.touches_setStream ..))

theorem Dev.touches_lsControl (d : Dev) (k : Clock) (kind : ℕ) (content : List Byte) : d.Touches [.acc, .fab, .out, .sec, .work] [] (Dev.lsControl d k kind content) := by
  unfold Dev.lsControl
  exact .next (.refl _) (Dev.touches_sendOneHop ..)

theorem Dev.touches_sendHashes (d : Dev) (k : Clock) (cs : List LsChunk) : d.Touches [.acc, .fab, .out, .sec, .work] [] (Dev.sendHashes d k cs) := by
  unfold Dev.sendHashes
  refine .foldl ?_ fun e0 x1 _ => ?_
  · exact .refl _
  · extract_lets -merge +onlyGivenNames v2
    exact .next (.refl _) (Dev.touches_sendOneHop ..)

theorem Dev.touches_sendGrains (d : Dev) (k : Clock) (c : LsChunk) : d.Touches [.acc, .fab, .out, .sec, .work] [] (Dev.sendGrains d k c) := by
  unfold Dev.sendGrains
  refine .foldl ?_ fun e0 x1 _ => ?_
  · exact .refl _
  · extract_lets -merge +onlyGivenNames v2
    exact .next (.refl _) (Dev.touches_lsControl ..)

theorem Dev.touches_lsHalt (d : Dev) (k : Clock) (r : ℕ) : d.Touches (.fab :: .twin :: .work :: faultParts) (faultFlds.append lockFaultFlds) (Dev.lsHalt d k r) := by
  unfold Dev.lsHalt
  refine .ite ?_ ?_
  · exact .refl _
  · extract_lets -merge +onlyGivenNames v0
    extract_lets -merge +onlyGivenNames v1
    extract_lets -merge +onlyGivenNames d2
    have hd2 : d.Touches (.fab :: .twin :: .work :: faultParts) (faultFlds.append lockFaultFlds) d2 := by
      exact .next (.refl _) (Dev.touches_modTwin ..)
    clear_value d2
    extract_lets -merge +onlyGivenNames d3
    have hd3 : d.Touches (.fab :: .twin :: .work :: faultParts) (faultFlds.append lockFaultFlds) d3 := by
      exact .next (.next (.next (hd2) (Dev.touches_wr ..)) (Dev.touches_wr ..)) (Dev.touches_wr ..)
    clear_value d3
    exact .next (.next (hd3) (Dev.touches_runFault ..)) (Dev.touches_lsControl ..)

theorem Dev.touches_diverge (d : Dev) (k : Clock) (frame : ℕ) (stream : ℕ) (cause : ℕ) (at_ : Option (ℕ × ℕ × ℕ)) : d.Touches (.fab :: .twin :: .work :: faultParts) (faultFlds.append lockFaultFlds) (Dev.diverge d k frame stream cause at_) := by
  unfold Dev.diverge
  exact .next (.refl _) (Dev.touches_lsHalt ..)

theorem Dev.touches_lsHoldFrom (d : Dev) (k : Clock) (stream : ℕ) : d.Touches [.twin] [] (Dev.lsHoldFrom d k stream) := by
  unfold Dev.lsHoldFrom
  refine .ite ?_ ?_
  · exact .refl _
  · exact .next (.refl _) (Dev.touches_modTwin ..)

theorem Dev.touches_endHolds (d : Dev) (k : Clock) : d.Touches [.acc, .twin] [] (Dev.endHolds d k) := by
  unfold Dev.endHolds
  extract_lets -merge +onlyGivenNames v0
  extract_lets -merge +onlyGivenNames d1
  have hd1 : d.Touches [.acc, .twin] [] d1 := by
    exact .next (.refl _) (Dev.touches_modTwin ..)
  clear_value d1
  exact .next (hd1) (Dev.touches_count ..)

theorem Dev.touches_compareChunk (d : Dev) (k : Clock) (c : LsChunk) (hash : ℕ) : d.Touches [.acc, .fab, .out, .sec, .twin, .work] [] (Dev.compareChunk d k c hash) := by
  unfold Dev.compareChunk
  refine .ite ?_ ?_
  · exact .next (.next (.next (.refl _) (Dev.touches_modTwin ..)) (Dev.touches_count ..)) (Dev.touches_endHolds ..)
  · exact .next (.refl _) (Dev.touches_sendGrains ..)

theorem Dev.touches_offerChunk (d : Dev) (k : Clock) (c : LsChunk) : d.Touches [.acc, .fab, .out, .sec, .twin, .work] [] (Dev.offerChunk d k c) := by
  unfold Dev.offerChunk
  extract_lets -merge +onlyGivenNames d0
  have hd0 : d.Touches [.acc, .fab, .out, .sec, .twin, .work] [] d0 := by
    exact .next (.refl _) (Dev.touches_modTwin ..)
  clear_value d0
  split
  · exact hd0
  · exact .next (.next (hd0) (Dev.touches_modTwin ..)) (Dev.touches_compareChunk ..)

theorem Dev.touches_offerChunks (d : Dev) (k : Clock) (cs : List LsChunk) : d.Touches [.acc, .fab, .out, .sec, .twin, .work] [] (Dev.offerChunks d k cs) := by
  unfold Dev.offerChunks
  refine .foldl ?_ fun e0 x1 _ => ?_
  · exact .next (.refl _) (Dev.touches_sendHashes ..)
  · exact .next (.refl _) (Dev.touches_offerChunk ..)

theorem Dev.touches_lsFlush (d : Dev) (k : Clock) : d.Touches [.acc, .fab, .out, .sec, .twin, .work] [] (Dev.lsFlush d k) := by
  unfold Dev.lsFlush
  extract_lets -merge +onlyGivenNames v0
  refine .ite ?_ ?_
  · exact .refl _
  · refine .foldl ?_ fun e1 x2 _ => ?_
    · exact .next (.refl _) (Dev.touches_modTwin ..)
    · split
      next d3 x4 heq =>
        have hd3 : e1.Touches [.acc, .fab, .out, .sec, .twin, .work] [] d3 := by
          refine .of_fst ?_ heq
          exact .next (.refl _) (Dev.touches_addWrite ..)
        exact .next (hd3) (Dev.touches_offerChunks ..)

theorem Dev.touches_compareDigest (d : Dev) (k : Clock) (frame : ℕ) (stream : ℕ) (mine : ℕ) (theirs : ℕ) : d.Touches (.fab :: .twin :: .work :: faultParts) (faultFlds.append lockFaultFlds) (Dev.compareDigest d k frame stream mine theirs) := by
  unfold Dev.compareDigest
  extract_lets -merge +onlyGivenNames d0
  have hd0 : d.Touches (.fab :: .twin :: .work :: faultParts) (faultFlds.append lockFaultFlds) d0 := by
    exact .next (.refl _) (Dev.touches_count ..)
  clear_value d0
  refine .ite ?_ ?_
  · exact hd0
  · exact .next (hd0) (Dev.touches_diverge ..)

theorem Dev.touches_sendDigests (d : Dev) (k : Clock) (ds : List (ℕ × ℕ × ℕ)) : d.Touches [.acc, .fab, .out, .sec, .work] [] (Dev.sendDigests d k ds) := by
  unfold Dev.sendDigests
  refine .foldl ?_ fun e0 x1 _ => ?_
  · exact .refl _
  · exact .next (.refl _) (Dev.touches_lsControl ..)

theorem Dev.touches_digestFrame (d : Dev) (k : Clock) (f : ℕ) : d.Touches (.fab :: .twin :: .work :: faultParts) (faultFlds.append lockFaultFlds) (Dev.digestFrame d k f) := by
  unfold Dev.digestFrame
  extract_lets -merge +onlyGivenNames d0
  have hd0 : d.Touches (.fab :: .twin :: .work :: faultParts) (faultFlds.append lockFaultFlds) d0 := by
    refine .foldl ?_ fun e1 x2 _ => ?_
    · exact .refl _
    · extract_lets -merge +onlyGivenNames v3
      refine .ite ?_ ?_
      · exact .refl _
      · split
        · exact .next (.next (.refl _) (Dev.touches_setStream ..)) (Dev.touches_offerChunks ..)
  clear_value d0
  extract_lets -merge +onlyGivenNames v6
  extract_lets -merge +onlyGivenNames v7
  extract_lets -merge +onlyGivenNames d8
  have hd8 : d.Touches (.fab :: .twin :: .work :: faultParts) (faultFlds.append lockFaultFlds) d8 := by
    exact .next (hd0) (Dev.touches_modTwin ..)
  clear_value d8
  extract_lets -merge +onlyGivenNames d9
  have hd9 : d.Touches (.fab :: .twin :: .work :: faultParts) (faultFlds.append lockFaultFlds) d9 := by
    exact .next (hd8) (Dev.touches_sendDigests ..)
  clear_value d9
  refine .foldl ?_ fun e10 x11 _ => ?_
  · exact hd9
  · split
    · exact .refl _
    · exact .next (.refl _) (Dev.touches_compareDigest ..)

theorem Dev.touches_digestFrames (n : Nat) (d : Dev) (k : Clock) :
    d.Touches (.fab :: .twin :: .work :: faultParts) (faultFlds.append lockFaultFlds) (Dev.digestFrames n d k) := by
  induction n generalizing d with
  | zero => exact .refl d
  | succ n ih =>
    unfold Dev.digestFrames
    split
    · exact .next (Dev.touches_digestFrame ..) (ih _)
    · exact .refl d

theorem Dev.touches_lsStep (d : Dev) (k : Clock) : d.Touches (.fab :: .twin :: .work :: faultParts) (faultFlds.append lockFaultFlds) (Dev.lsStep d k) := by
  unfold Dev.lsStep
  refine .ite ?_ ?_
  · exact .next (.next (.refl _) (Dev.touches_lsFlush ..)) (Dev.touches_digestFrames ..)
  · exact .refl _

theorem Dev.touches_sendArm (d : Dev) (k : Clock) : d.Touches [.acc, .fab, .out, .sec, .work] [] (Dev.sendArm d k) := by
  unfold Dev.sendArm
  refine .ite ?_ ?_
  · refine .foldl ?_ fun e0 x1 _ => ?_
    · exact .refl _
    · exact .next (.refl _) (Dev.touches_lsControl ..)
  · exact .refl _

theorem Dev.touches_lsOpen (d : Dev) (k : Clock) : d.Touches (.fab :: .twin :: .work :: faultParts) (faultFlds.append lockFaultFlds) (Dev.lsOpen d k) := by
  unfold Dev.lsOpen
  refine .ite ?_ ?_
  · exact .next (.refl _) (Dev.touches_diverge ..)
  · exact .refl _

theorem Dev.touches_lsClose (d : Dev) (k : Clock) : d.Touches (.fab :: .twin :: .work :: faultParts) (faultFlds.append lockFaultFlds) (Dev.lsClose d k) := by
  unfold Dev.lsClose
  extract_lets -merge +onlyGivenNames v0
  extract_lets -merge +onlyGivenNames v1
  refine .ite ?_ ?_
  · exact .refl _
  · extract_lets -merge +onlyGivenNames d2
    have hd2 : d.Touches (.fab :: .twin :: .work :: faultParts) (faultFlds.append lockFaultFlds) d2 := by
      exact .next (.refl _) (Dev.touches_modTwin ..)
    clear_value d2
    refine .ite ?_ ?_
    · exact .next (hd2) (Dev.touches_diverge ..)
    · exact hd2

theorem Dev.touches_takeTwin (d : Dev) (k : Clock) (p : Packet) : d.Touches [.acc, .fab, .out, .sec, .work] [] (Dev.takeTwin d k p) := by
  unfold Dev.takeTwin
  refine .ite ?_ ?_
  · exact .next (.next (.refl _) (Dev.touches_takeIn ..)) (Dev.touches_freeBuffer ..)
  · exact .refl _

theorem Dev.touches_twinDrop (d : Dev) (k : Clock) (p : Packet) : d.MayTouch [.acc, .fab, .out, .sec, .work] [] (Dev.twinDrop d k p) := by
  unfold Dev.twinDrop
  refine .ite ?_ ?_
  · exact .some (.next (.next (.refl _) (Dev.touches_takeTwin ..)) (Dev.touches_count ..))
  · exact .none

theorem Dev.touches_takeHash (d : Dev) (k : Clock) (frame : ℕ) (stream : ℕ) (index : ℕ) (hash : ℕ) : d.Touches [.acc, .fab, .out, .sec, .twin, .work] [] (Dev.takeHash d k frame stream index hash) := by
  unfold Dev.takeHash
  extract_lets -merge +onlyGivenNames v0
  split
  · exact .next (.refl _) (Dev.touches_compareChunk ..)
  · exact .next (.refl _) (Dev.touches_modTwin ..)

theorem Dev.touches_takeDigest (d : Dev) (k : Clock) (stream : ℕ) (frame : ℕ) (digest : ℕ) : d.Touches (.fab :: .twin :: .work :: faultParts) (faultFlds.append lockFaultFlds) (Dev.takeDigest d k stream frame digest) := by
  unfold Dev.takeDigest
  split
  · exact .next (.next (.refl _) (Dev.touches_modTwin ..)) (Dev.touches_compareDigest ..)
  · exact .next (.refl _) (Dev.touches_modTwin ..)

theorem Dev.touches_setTwinMode (d : Dev) (k : Clock) (v : ℕ) : d.Touches [.acc, .fab, .out, .regs, .sec, .sync, .updated, .work] [.twinCfgReject, .twinCfgMode] (Dev.setTwinMode d k v).1 := by
  unfold Dev.setTwinMode
  extract_lets -merge +onlyGivenNames v0
  extract_lets -merge +onlyGivenNames v1
  extract_lets -merge +onlyGivenNames v2
  split
  · exact .fst (.next (.refl _) (Dev.touches_flag ..))
  · split
    · exact .fst (.refl _)
    · exact .fst (.next (.next (.refl _) (Dev.touches_wr ..)) (Dev.touches_twinUp ..))

theorem Dev.touches_collCarry (d : Dev) (die : ℕ) (p : Packet) : d.Touches [.work] [] (Dev.collCarry d die p) := by
  unfold Dev.collCarry
  exact .next (.refl _) (Dev.touches_carry ..)

theorem Dev.touches_modColl (d : Dev) (f : Coll → Coll) : d.Touches [.coll] [] (Dev.modColl d f) := by
  unfold Dev.modColl
  exact .set (.refl _) rfl

theorem Dev.touches_setCollInv (d : Dev) (i : CollInv) : d.Touches [.coll] [] (Dev.setCollInv d i) := by
  unfold Dev.setCollInv
  exact .next (.refl _) (Dev.touches_modColl ..)

theorem Dev.touches_dropInvs (d : Dev) (desc : ℕ) : d.Touches [.coll] [] (Dev.dropInvs d desc) := by
  unfold Dev.dropInvs
  exact .next (.refl _) (Dev.touches_modColl ..)

theorem Dev.touches_collWork (d : Dev) (die : ℕ) (n : ℕ) : d.Touches [.acc, .work] [] (Dev.collWork d die n) := by
  unfold Dev.collWork
  exact .next (.next (.refl _) (Dev.touches_count ..)) (Dev.touches_addWork ..)

theorem Dev.touches_collBytes (d : Dev) (i : CollInv) (r : ℕ) (w : ℕ) : d.Touches [.acc, .work] [] (Dev.collBytes d i r w).1 := by
  unfold Dev.collBytes
  extract_lets -merge +onlyGivenNames v0
  extract_lets -merge +onlyGivenNames v1
  exact .fst (.next (.refl _) (Dev.touches_collWork ..))

theorem Dev.touches_releaseColl (d : Dev) (c : Fin 48) (e : Entry) : d.MayTouch [] [] (Dev.releaseColl d c e).dev? := by
  unfold Dev.releaseColl
  extract_lets -merge +onlyGivenNames v0
  refine .ite_started ?_ ?_
  · split
    · exact .some (.refl _)
    · refine .ite_started ?_ ?_
      · exact .some (.refl _)
      · exact .none
  · refine .ite_started ?_ ?_
    · exact .none
    · extract_lets -merge +onlyGivenNames v3
      extract_lets -merge +onlyGivenNames v4
      split
      · split
        · next x7 heq0 =>
            have hx7 : d.MayTouch [] [] x7.dev? := by
              refine .of_optstarted ?_ heq0
              exact .nextSome (.refl _) (Dev.touches_checkTiles ..)
            exact hx7
        · exact .some (.refl _)

theorem Dev.touches_noteCollWait (d : Dev) (k : Clock) : d.Touches [.acc, .coll] [] (Dev.noteCollWait d k) := by
  unfold Dev.noteCollWait
  extract_lets -merge +onlyGivenNames v0
  clear_value v0
  split
  · exact .next (.refl _) (Dev.touches_modColl ..)
  · exact .next (.next (.refl _) (Dev.touches_modColl ..)) (Dev.touches_count ..)
  · exact .refl _

theorem Dev.touches_collSend (d : Dev) (k : Clock) (c : CollDesc) (n : ℕ) (pos : ℕ) (op : ℕ) (opw : ℕ) (payload : List Byte) (flow : Option ℕ) : d.Touches [.acc, .fab, .out, .sec, .work] [] (Dev.collSend d k c n pos op opw payload flow) := by
  unfold Dev.collSend
  exact .next (.refl _) (Dev.touches_originate ..)

theorem Dev.touches_collStream (d : Dev) (k : Clock) (c : CollDesc) (n op : Nat) (dests : List Nat) (flush : Bool)
    (fuel : Nat) (bs : List Byte) :
    d.Touches [.acc, .fab, .out, .sec, .work] [] (Dev.collStream d k c n op dests flush fuel bs).1 := by
  induction fuel generalizing d bs with
  | zero => exact .refl d
  | succ m ih =>
    unfold Dev.collStream
    split
    · exact .next (.foldl (.refl d) fun e x _ => .mono (Dev.touches_collSend ..)) (ih _ _)
    · split
      · exact .foldl (.refl d) fun e x _ => .mono (Dev.touches_collSend ..)
      · exact .refl d

theorem Dev.touches_collRetire (d : Dev) (i : CollInv) : d.Touches [.cores] [] (Dev.collRetire d i) := by
  unfold Dev.collRetire
  refine .foldl ?_ fun e0 x1 _ => ?_
  · exact .refl _
  · split
    · exact .next (.refl _) (Dev.touches_modCore ..)

theorem Dev.touches_collWrite (d : Dev) (k : Clock) (c : CollDesc) (i : CollInv) : d.Touches (.mem :: .snap :: .twin :: .work :: faultParts) (coreFaultFlds.append (faultFlds.append devFaultFlds)) (Dev.collWrite d k c i) := by
  unfold Dev.collWrite
  extract_lets -merge +onlyGivenNames v0
  extract_lets -merge +onlyGivenNames v1
  refine .foldl ?_ fun e2 x3 _ => ?_
  · exact .refl _
  · split
    · extract_lets -merge +onlyGivenNames v6
      split
      · exact .refl _
      · extract_lets -merge +onlyGivenNames v9
        extract_lets -merge +onlyGivenNames v10
        refine Dev.Touches.whileOpen ?_ fun e11 he12 => ?_
        · exact .refl _
        · refine Dev.Touches.hashed ?_ fun e13 he14 => ?_
          · exact he12
          · refine .ite ?_ ?_
            · refine .ite ?_ ?_
              · extract_lets -merge +onlyGivenNames v15
                extract_lets -merge +onlyGivenNames v16
                refine .foldl ?_ fun e17 x18 _ => ?_
                · exact he14
                · extract_lets -merge +onlyGivenNames v19
                  extract_lets -merge +onlyGivenNames v20
                  extract_lets -merge +onlyGivenNames v21
                  extract_lets -merge +onlyGivenNames d22
                  have hd22 : e17.Touches (.mem :: .snap :: .twin :: .work :: faultParts) (coreFaultFlds.append (faultFlds.append devFaultFlds)) d22 := by
                    unfold d22
                    split
                    · exact .next (.refl _) (Dev.touches_touchW ..)
                    · exact .refl _
                  clear_value d22
                  exact .next (hd22) (Dev.touches_writeTile ..)
              · exact he14
            · refine .ite ?_ ?_
              · exact he14
              · extract_lets -merge +onlyGivenNames v26
                extract_lets -merge +onlyGivenNames v27
                extract_lets -merge +onlyGivenNames v28
                extract_lets -merge +onlyGivenNames v29
                refine .foldl ?_ fun e30 x31 _ => ?_
                · exact he14
                · extract_lets -merge +onlyGivenNames v32
                  extract_lets -merge +onlyGivenNames v33
                  extract_lets -merge +onlyGivenNames v34
                  extract_lets -merge +onlyGivenNames v35
                  extract_lets -merge +onlyGivenNames d36
                  have hd36 : e30.Touches (.mem :: .snap :: .twin :: .work :: faultParts) (coreFaultFlds.append (faultFlds.append devFaultFlds)) d36 := by
                    unfold d36
                    split
                    · exact .next (.next (.refl _) (Dev.touches_put ..)) (Dev.touches_touchW ..)
                    · exact .refl _
                  clear_value d36
                  refine .ite ?_ ?_
                  · exact hd36
                  · split
                    · exact .next (.next (hd36) (Dev.touches_put ..)) (Dev.touches_touchW ..)
                    · exact hd36

theorem Dev.touches_collCommit (d : Dev) (k : Clock) (c : CollDesc) (i : CollInv) : d.Touches (.coll :: .cores :: .mem :: .snap :: .twin :: .work :: faultParts) (coreFaultFlds.append (faultFlds.append devFaultFlds)) (Dev.collCommit d k c i) := by
  unfold Dev.collCommit
  extract_lets -merge +onlyGivenNames v0
  extract_lets -merge +onlyGivenNames v1
  extract_lets -merge +onlyGivenNames v2
  split
  next d3 x4 heq =>
    have hd3 : d.Touches (.coll :: .cores :: .mem :: .snap :: .twin :: .work :: faultParts) (coreFaultFlds.append (faultFlds.append devFaultFlds)) d3 := by
      refine .of_fst ?_ heq
      exact .next (.refl _) (Dev.touches_collBytes ..)
    extract_lets -merge +onlyGivenNames v5
    extract_lets -merge +onlyGivenNames d6
    have hd6 : d.Touches (.coll :: .cores :: .mem :: .snap :: .twin :: .work :: faultParts) (coreFaultFlds.append (faultFlds.append devFaultFlds)) d6 := by
      unfold d6
      refine .ite ?_ ?_
      · exact hd3
      · exact .next (hd3) (Dev.touches_touch ..)
    clear_value d6
    extract_lets -merge +onlyGivenNames d7
    have hd7 : d.Touches (.coll :: .cores :: .mem :: .snap :: .twin :: .work :: faultParts) (coreFaultFlds.append (faultFlds.append devFaultFlds)) d7 := by
      exact .next (.next (hd6) (Dev.touches_collWrite ..)) (Dev.touches_collRetire ..)
    clear_value d7
    exact .next (.next (.next (hd7) (Dev.touches_setCollInv ..)) (Dev.touches_count ..)) (Dev.touches_noteCollWait ..)

theorem Dev.touches_collAbort (d : Dev) (k : Clock) (desc : ℕ) (n : ℕ) (code : ℕ) (cause : ℕ) (byToken : Bool) (member : Option ℕ) : d.Touches (.coll :: faultParts) (.collFaultInv :: .collFaultByToken :: .collFaultDesc :: .collFaultCause :: .collFaultCode :: .collFaultMemberValid :: .collFaultMember :: faultFlds) (Dev.collAbort d k desc n code cause byToken member) := by
  unfold Dev.collAbort
  extract_lets -merge +onlyGivenNames d0
  have hd0 : d.Touches (.coll :: faultParts) (.collFaultInv :: .collFaultByToken :: .collFaultDesc :: .collFaultCause :: .collFaultCode :: .collFaultMemberValid :: .collFaultMember :: faultFlds) d0 := by
    unfold d0
    split
    · exact .next (.refl _) (Dev.touches_setCollInv ..)
    · exact .refl _
  clear_value d0
  extract_lets -merge +onlyGivenNames d3
  have hd3 : d.Touches (.coll :: faultParts) (.collFaultInv :: .collFaultByToken :: .collFaultDesc :: .collFaultCause :: .collFaultCode :: .collFaultMemberValid :: .collFaultMember :: faultFlds) d3 := by
    exact .next (.next (.next (.next (.next (hd0) (Dev.touches_wr ..)) (Dev.touches_wr ..)) (Dev.touches_wr ..)) (Dev.touches_wr ..)) (Dev.touches_wr ..)
  clear_value d3
  extract_lets -merge +onlyGivenNames d4
  have hd4 : d.Touches (.coll :: faultParts) (.collFaultInv :: .collFaultByToken :: .collFaultDesc :: .collFaultCause :: .collFaultCode :: .collFaultMemberValid :: .collFaultMember :: faultFlds) d4 := by
    unfold d4
    split
    · exact .next (.next (hd3) (Dev.touches_wr ..)) (Dev.touches_wr ..)
    · exact .next (hd3) (Dev.touches_wr ..)
  clear_value d4
  refine .next ?_ (Dev.touches_runFault ..)
  refine .ite ?_ ?_
  · exact hd4
  · exact hd0

theorem Dev.touches_sendTokens (d : Dev) (k : Clock) (c : CollDesc) (i : CollInv) : d.Touches [.acc, .fab, .out, .sec, .work] [] (Dev.sendTokens d k c i) := by
  unfold Dev.sendTokens
  refine .foldl ?_ fun e0 x1 _ => ?_
  · exact .refl _
  · exact .next (.refl _) (Dev.touches_collSend ..)

theorem Dev.touches_rootDecides (d : Dev) (k : Clock) (c : CollDesc) (i : CollInv) (code : ℕ) (cause : ℕ) (member : Option ℕ) : d.Touches (.coll :: .cores :: .fab :: .mem :: .snap :: .twin :: .work :: faultParts) (.collFaultInv :: .collFaultByToken :: .collFaultDesc :: .collFaultCause :: .collFaultCode :: .collFaultMemberValid :: .collFaultMember :: coreFaultFlds.append (faultFlds.append devFaultFlds)) (Dev.rootDecides d k c i code cause member) := by
  unfold Dev.rootDecides
  extract_lets -merge +onlyGivenNames v0
  extract_lets -merge +onlyGivenNames d1
  have hd1 : d.Touches (.coll :: .cores :: .fab :: .mem :: .snap :: .twin :: .work :: faultParts) (.collFaultInv :: .collFaultByToken :: .collFaultDesc :: .collFaultCause :: .collFaultCode :: .collFaultMemberValid :: .collFaultMember :: coreFaultFlds.append (faultFlds.append devFaultFlds)) d1 := by
    exact .next (.refl _) (Dev.touches_setCollInv ..)
  clear_value d1
  extract_lets -merge +onlyGivenNames d2
  have hd2 : d.Touches (.coll :: .cores :: .fab :: .mem :: .snap :: .twin :: .work :: faultParts) (.collFaultInv :: .collFaultByToken :: .collFaultDesc :: .collFaultCause :: .collFaultCode :: .collFaultMemberValid :: .collFaultMember :: coreFaultFlds.append (faultFlds.append devFaultFlds)) d2 := by
    unfold d2
    refine .ite ?_ ?_
    · exact .next (hd1) (Dev.touches_collCommit ..)
    · exact .next (.next (hd1) (Dev.touches_count ..)) (Dev.touches_collAbort ..)
  clear_value d2
  exact .next (hd2) (Dev.touches_sendTokens ..)

theorem Dev.touches_judge (d : Dev) (k : Clock) (c : CollDesc) (i : CollInv) (more : Bool) : d.Touches (.coll :: .cores :: .fab :: .mem :: .snap :: .twin :: .work :: faultParts) (.collFaultInv :: .collFaultByToken :: .collFaultDesc :: .collFaultCause :: .collFaultCode :: .collFaultMemberValid :: .collFaultMember :: coreFaultFlds.append (faultFlds.append devFaultFlds)) (Dev.judge d k c i more) := by
  unfold Dev.judge
  refine .ite ?_ ?_
  · exact .refl _
  · split
    · exact .next (.refl _) (Dev.touches_rootDecides ..)
    · exact .refl _

theorem Dev.touches_tryCheck (d : Dev) (c : CollDesc) (i : CollInv) : d.Touches [.acc] [] (Dev.tryCheck d c i).1 := by
  unfold Dev.tryCheck
  split
  · exact .fst (.refl _)
  · extract_lets -merge +onlyGivenNames v0
    extract_lets -merge +onlyGivenNames v1
    extract_lets -merge +onlyGivenNames v2
    exact .fst (.next (.refl _) (Dev.touches_count ..))

theorem Dev.touches_lateCheck (d : Dev) (c : CollDesc) (i : CollInv) : d.Touches [.acc] [] (Dev.lateCheck d c i).1 := by
  unfold Dev.lateCheck
  split
  · exact .fst (.refl _)
  · exact .fst (.next (.refl _) (Dev.touches_count ..))

theorem Dev.touches_coreTile (d : Dev) (k : Clock) (c : CollDesc) (core : ℕ) (seq : ℕ) (t : ℕ) : d.Touches (.work :: faultParts) (coreFaultFlds.append (faultFlds.append devFaultFlds)) (Dev.coreTile d k c core seq t).1 := by
  unfold Dev.coreTile
  split
  · exact .fst (.refl _)
  · extract_lets -merge +onlyGivenNames v2
    extract_lets -merge +onlyGivenNames v3
    extract_lets -merge +onlyGivenNames v4
    split
    · exact .fst (.refl _)
    · extract_lets -merge +onlyGivenNames d5
      have hd5 : d.Touches (.work :: faultParts) (coreFaultFlds.append (faultFlds.append devFaultFlds)) d5 := by
        refine Dev.Touches.whileOpen ?_ fun e6 he7 => ?_
        · exact .refl _
        · split
          · exact .next (he7) (Dev.touches_touch ..)
          · exact he7
      clear_value d5
      extract_lets -merge +onlyGivenNames v11
      exact .fst (hd5)

theorem Dev.touches_reduceTile (d : Dev) (k : Clock) (c : CollDesc) (pos : ℕ) (i : CollInv) : d.Touches (.fab :: .mem :: .twin :: .work :: faultParts) (coreFaultFlds.append (faultFlds.append devFaultFlds)) (Dev.reduceTile d k c pos i).1 := by
  unfold Dev.reduceTile
  extract_lets -merge +onlyGivenNames v0
  split
  next d6 x7 heq =>
    have hd6 : d.Touches (.fab :: .mem :: .twin :: .work :: faultParts) (coreFaultFlds.append (faultFlds.append devFaultFlds)) d6 := by
      refine .of_fst ?_ heq
      refine .foldl_fst ?_ fun e1 b2 x3 _ => ?_
      · exact .fst (.refl _)
      · beta_reduce
        split
        next d4 x5 heq =>
          have hd4 : e1.Touches (.fab :: .mem :: .twin :: .work :: faultParts) (coreFaultFlds.append (faultFlds.append devFaultFlds)) d4 := by
            refine .of_fst ?_ heq
            exact .next (.fst (.refl _)) (Dev.touches_coreTile ..)
          exact .fst (hd4)
    extract_lets -merge +onlyGivenNames v8
    extract_lets -merge +onlyGivenNames v9
    extract_lets -merge +onlyGivenNames v10
    extract_lets -merge +onlyGivenNames d11
    have hd11 : d.Touches (.fab :: .mem :: .twin :: .work :: faultParts) (coreFaultFlds.append (faultFlds.append devFaultFlds)) d11 := by
      refine .foldl ?_ fun e12 x13 _ => ?_
      · exact hd6
      · extract_lets -merge +onlyGivenNames v14
        exact .next (.refl _) (Dev.touches_touch ..)
    clear_value d11
    extract_lets -merge +onlyGivenNames v15
    extract_lets -merge +onlyGivenNames v16
    split
    · extract_lets -merge +onlyGivenNames v17
      extract_lets -merge +onlyGivenNames v18
      extract_lets -merge +onlyGivenNames v19
      extract_lets -merge +onlyGivenNames d20
      have hd20 : d.Touches (.fab :: .mem :: .twin :: .work :: faultParts) (coreFaultFlds.append (faultFlds.append devFaultFlds)) d20 := by
        exact .next (.next (hd11) (Dev.touches_locWrite ..)) (Dev.touches_touchW ..)
      clear_value d20
      exact .next (hd20) (Dev.touches_collBytes ..)
    · extract_lets -merge +onlyGivenNames v21
      split
      next d22 x23 heq =>
        have hd22 : d.Touches (.fab :: .mem :: .twin :: .work :: faultParts) (coreFaultFlds.append (faultFlds.append devFaultFlds)) d22 := by
          refine .of_fst ?_ heq
          exact .next (hd11) (Dev.touches_collStream ..)
        exact .next (hd22) (Dev.touches_collBytes ..)

theorem Dev.touches_reduceLoop (k : Clock) (c : CollDesc) (pos n : Nat) (d : Dev) (i : CollInv) :
    d.Touches (.fab :: .mem :: .twin :: .work :: faultParts) (coreFaultFlds.append (faultFlds.append devFaultFlds)) (Dev.reduceLoop k c pos n d i).1 := by
  induction n generalizing d i with
  | zero => exact .refl d
  | succ n ih =>
    unfold Dev.reduceLoop
    split
    · exact .next (.mono (Dev.touches_reduceTile ..)) (ih _ _)
    · exact .refl d

theorem Dev.touches_checkWork (d : Dev) (c : CollDesc) (old : ℕ) (new : ℕ) : d.Touches [.acc, .work] [] (Dev.checkWork d c old new) := by
  unfold Dev.checkWork
  exact .next (.refl _) (Dev.touches_collWork ..)

theorem Dev.touches_reduce (d : Dev) (k : Clock) (c : CollDesc) (pos : ℕ) (i : CollInv) : d.Touches (.cores :: .fab :: .mem :: .twin :: .work :: faultParts) (coreFaultFlds.append (faultFlds.append devFaultFlds)) (Dev.reduce d k c pos i).1 := by
  unfold Dev.reduce
  extract_lets -merge +onlyGivenNames v0
  split
  next d1 x2 heq =>
    have hd1 : d.Touches (.cores :: .fab :: .mem :: .twin :: .work :: faultParts) (coreFaultFlds.append (faultFlds.append devFaultFlds)) d1 := by
      refine .of_fst ?_ heq
      exact .next (.refl _) (Dev.touches_reduceLoop ..)
    extract_lets -merge +onlyGivenNames v3
    split
    · exact .fst (hd1)
    · split
      · refine .fst ?_
        refine .ite ?_ ?_
        · exact .next (hd1) (Dev.touches_checkWork ..)
        · exact hd1
      · extract_lets -merge +onlyGivenNames v4
        split
        next d5 x6 heq =>
          have hd5 : d.Touches (.cores :: .fab :: .mem :: .twin :: .work :: faultParts) (coreFaultFlds.append (faultFlds.append devFaultFlds)) d5 := by
            refine .of_fst ?_ heq
            exact .next (hd1) (Dev.touches_collStream ..)
          extract_lets -merge +onlyGivenNames d7
          have hd7 : d.Touches (.cores :: .fab :: .mem :: .twin :: .work :: faultParts) (coreFaultFlds.append (faultFlds.append devFaultFlds)) d7 := by
            exact .next (hd5) (Dev.touches_collSend ..)
          clear_value d7
          extract_lets -merge +onlyGivenNames d8
          have hd8 : d.Touches (.cores :: .fab :: .mem :: .twin :: .work :: faultParts) (coreFaultFlds.append (faultFlds.append devFaultFlds)) d8 := by
            unfold d8
            refine .ite ?_ ?_
            · refine .foldl ?_ fun e9 x10 _ => ?_
              · exact hd7
              · refine .ite ?_ ?_
                · exact .refl _
                · exact .next (.refl _) (Dev.touches_collSend ..)
            · exact hd7
          clear_value d8
          exact .fst (.next (hd8) (Dev.touches_collRetire ..))

theorem Dev.touches_bcastRoot (d : Dev) (k : Clock) (c : CollDesc) (i : CollInv) : d.Touches (.fab :: .work :: faultParts) (coreFaultFlds.append (faultFlds.append devFaultFlds)) (Dev.bcastRoot d k c i).1 := by
  unfold Dev.bcastRoot
  split
  · exact .fst (.refl _)
  · extract_lets -merge +onlyGivenNames v3
    extract_lets -merge +onlyGivenNames v4
    extract_lets -merge +onlyGivenNames v5
    extract_lets -merge +onlyGivenNames d6
    have hd6 : d.Touches (.fab :: .work :: faultParts) (coreFaultFlds.append (faultFlds.append devFaultFlds)) d6 := by
      refine Dev.Touches.whileOpen ?_ fun e7 he8 => ?_
      · exact .refl _
      · refine .foldl ?_ fun e9 x10 _ => ?_
        · exact he8
        · split
          · exact .next (.refl _) (Dev.touches_touch ..)
          · exact .refl _
    clear_value d6
    extract_lets -merge +onlyGivenNames v14
    split
    next d15 x16 heq =>
      have hd15 : d.Touches (.fab :: .work :: faultParts) (coreFaultFlds.append (faultFlds.append devFaultFlds)) d15 := by
        refine .of_fst ?_ heq
        exact .next (hd6) (Dev.touches_collStream ..)
      extract_lets -merge +onlyGivenNames d17
      have hd17 : d.Touches (.fab :: .work :: faultParts) (coreFaultFlds.append (faultFlds.append devFaultFlds)) d17 := by
        refine .foldl ?_ fun e18 x19 _ => ?_
        · exact hd15
        · exact .next (.refl _) (Dev.touches_collSend ..)
      clear_value d17
      exact .next (hd17) (Dev.touches_collBytes ..)

theorem Dev.touches_collData (d : Dev) (k : Clock) (c : CollDesc) (pos : ℕ) (i : CollInv) (from_ : ℕ) (bs : List Byte) : d.Touches (.cores :: .fab :: .mem :: .twin :: .work :: faultParts) (coreFaultFlds.append (faultFlds.append devFaultFlds)) (Dev.collData d k c pos i from_ bs).1 := by
  unfold Dev.collData
  split
  · exact .fst (.refl _)
  · extract_lets -merge +onlyGivenNames v2
    extract_lets -merge +onlyGivenNames v3
    extract_lets -merge +onlyGivenNames v4
    extract_lets -merge +onlyGivenNames v5
    extract_lets -merge +onlyGivenNames v6
    extract_lets -merge +onlyGivenNames d7
    have hd7 : d.Touches (.cores :: .fab :: .mem :: .twin :: .work :: faultParts) (coreFaultFlds.append (faultFlds.append devFaultFlds)) d7 := by
      exact .next (.refl _) (Dev.touches_carry ..)
    clear_value d7
    extract_lets -merge +onlyGivenNames d8
    have hd8 : d.Touches (.cores :: .fab :: .mem :: .twin :: .work :: faultParts) (coreFaultFlds.append (faultFlds.append devFaultFlds)) d8 := by
      exact .next (.next (hd7) (Dev.touches_locWrite ..)) (Dev.touches_touchW ..)
    clear_value d8
    extract_lets -merge +onlyGivenNames v9
    split
    · exact .next (hd8) (Dev.touches_reduce ..)
    · extract_lets -merge +onlyGivenNames v10
      extract_lets -merge +onlyGivenNames v11
      extract_lets -merge +onlyGivenNames v12
      split
      next d13 x14 heq =>
        have hd13 : d.Touches (.cores :: .fab :: .mem :: .twin :: .work :: faultParts) (coreFaultFlds.append (faultFlds.append devFaultFlds)) d13 := by
          refine .of_fst ?_ heq
          split
          · exact .fst (hd8)
          · exact .next (hd8) (Dev.touches_collStream ..)
        extract_lets -merge +onlyGivenNames d15
        have hd15 : d.Touches (.cores :: .fab :: .mem :: .twin :: .work :: faultParts) (coreFaultFlds.append (faultFlds.append devFaultFlds)) d15 := by
          unfold d15
          refine .ite ?_ ?_
          · exact .next (hd13) (Dev.touches_collSend ..)
          · exact hd13
        clear_value d15
        exact .next (hd15) (Dev.touches_collBytes ..)

theorem Dev.touches_collEnd (d : Dev) (k : Clock) (c : CollDesc) (pos : ℕ) (i : CollInv) (from_ : ℕ) : d.Touches [.acc, .fab, .out, .sec, .work] [] (Dev.collEnd d k c pos i from_).1 := by
  unfold Dev.collEnd
  extract_lets -merge +onlyGivenNames v0
  split
  · exact .fst (.refl _)
  · extract_lets -merge +onlyGivenNames v1
    split
    next d2 x3 heq =>
      have hd2 : d.Touches [.acc, .fab, .out, .sec, .work] [] d2 := by
        refine .of_fst ?_ heq
        split
        · exact .fst (.refl _)
        · exact .next (.refl _) (Dev.touches_collStream ..)
      extract_lets -merge +onlyGivenNames d4
      have hd4 : d.Touches [.acc, .fab, .out, .sec, .work] [] d4 := by
        refine .foldl ?_ fun e5 x6 _ => ?_
        · exact hd2
        · exact .next (.refl _) (Dev.touches_collSend ..)
      clear_value d4
      exact .fst (hd4)

theorem Dev.touches_takeReport (d : Dev) (i : CollInv) (at_ : ℕ) (r : CollReport) : d.Touches [.acc] [] (Dev.takeReport d i at_ r).1 := by
  unfold Dev.takeReport
  split
  · exact .fst (.refl _)
  · split
    · exact .fst (.next (.refl _) (Dev.touches_count ..))
    · exact .fst (.refl _)

theorem Dev.touches_collReport (d : Dev) (c : CollDesc) (i : CollInv) (at_ : ℕ) (p : Packet) : d.Touches [.acc] [] (Dev.collReport d c i at_ p).1 := by
  unfold Dev.collReport
  split
  · exact .fst (.refl _)
  · exact .next (.refl _) (Dev.touches_takeReport ..)

theorem Dev.touches_collSample (d : Dev) (k : Clock) (c : CollDesc) (i : CollInv) (from_ : ℕ) (p : Packet) : d.Touches [.acc, .work] [] (Dev.collSample d k c i from_ p).1 := by
  unfold Dev.collSample
  extract_lets -merge +onlyGivenNames v0
  extract_lets -merge +onlyGivenNames v1
  extract_lets -merge +onlyGivenNames v2
  extract_lets -merge +onlyGivenNames v3
  extract_lets -merge +onlyGivenNames d4
  have hd4 : d.Touches [.acc, .work] [] d4 := by
    exact .next (.refl _) (Dev.touches_checkWork ..)
  clear_value d4
  extract_lets -merge +onlyGivenNames v5
  split
  · exact .next (hd4) (Dev.touches_lateCheck ..)
  · split
    · exact .next (hd4) (Dev.touches_tryCheck ..)
    · exact .fst (hd4)

theorem Dev.touches_collTake (d : Dev) (k : Clock) (c : CollDesc) (pos : ℕ) (from_ : ℕ) (i : CollInv) (at_ : ℕ) (p : Packet) : d.Touches (.cores :: .fab :: .mem :: .twin :: .work :: faultParts) (coreFaultFlds.append (faultFlds.append devFaultFlds)) (Dev.collTake d k c pos from_ i at_ p).1 := by
  unfold Dev.collTake
  extract_lets -merge +onlyGivenNames v0
  split
  · split
    · exact .next (.refl _) (Dev.touches_collData ..)
    · exact .fst (.refl _)
  · split
    · exact .next (.refl _) (Dev.touches_collData ..)
    · exact .fst (.refl _)
  · split
    · exact .next (.refl _) (Dev.touches_collEnd ..)
    · exact .fst (.refl _)
  · split
    · exact .next (.refl _) (Dev.touches_collEnd ..)
    · exact .fst (.refl _)
  · split
    · exact .next (.next (.refl _) (Dev.touches_collCarry ..)) (Dev.touches_collReport ..)
    · exact .fst (.refl _)
  · split
    · exact .next (.next (.refl _) (Dev.touches_collCarry ..)) (Dev.touches_collSample ..)
    · exact .fst (.refl _)

theorem Dev.touches_collPacket (d : Dev) (k : Clock) (c : CollDesc) (pos : ℕ) (from_ : ℕ) (i : CollInv) (p : Packet) (more : Bool) : d.Touches (.coll :: .cores :: .fab :: .mem :: .snap :: .twin :: .work :: faultParts) (.collFaultInv :: .collFaultByToken :: .collFaultDesc :: .collFaultCause :: .collFaultCode :: .collFaultMemberValid :: .collFaultMember :: coreFaultFlds.append (faultFlds.append devFaultFlds)) (Dev.collPacket d k c pos from_ i p more) := by
  unfold Dev.collPacket
  split
  next d0 x1 heq =>
    have hd0 : d.Touches (.coll :: .cores :: .fab :: .mem :: .snap :: .twin :: .work :: faultParts) (.collFaultInv :: .collFaultByToken :: .collFaultDesc :: .collFaultCause :: .collFaultCode :: .collFaultMemberValid :: .collFaultMember :: coreFaultFlds.append (faultFlds.append devFaultFlds)) d0 := by
      refine .of_fst ?_ heq
      exact .next (.refl _) (Dev.touches_collTake ..)
    extract_lets -merge +onlyGivenNames d2
    have hd2 : d.Touches (.coll :: .cores :: .fab :: .mem :: .snap :: .twin :: .work :: faultParts) (.collFaultInv :: .collFaultByToken :: .collFaultDesc :: .collFaultCause :: .collFaultCode :: .collFaultMemberValid :: .collFaultMember :: coreFaultFlds.append (faultFlds.append devFaultFlds)) d2 := by
      exact .next (hd0) (Dev.touches_setCollInv ..)
    clear_value d2
    refine .ite ?_ ?_
    · exact .next (hd2) (Dev.touches_judge ..)
    · exact hd2

theorem Dev.touches_collArrive (d : Dev) (k : Clock) (p : Packet) (more : Bool) : d.MayTouch (.coll :: .cores :: .fab :: .mem :: .snap :: .twin :: .work :: faultParts) (.collFaultInv :: .collFaultByToken :: .collFaultDesc :: .collFaultCause :: .collFaultCode :: .collFaultMemberValid :: .collFaultMember :: coreFaultFlds.append (faultFlds.append devFaultFlds)) (Dev.collArrive d k p more) := by
  unfold Dev.collArrive
  refine .ite ?_ ?_
  · exact .none
  · split
    · exact .none
    · split
      · extract_lets -merge +onlyGivenNames v4
        split
        · refine .ite ?_ ?_
          · exact .some (.next (.refl _) (Dev.touches_collPacket ..))
          · refine .ite ?_ ?_
            · exact .some (.refl _)
            · exact .some (.next (.refl _) (Dev.touches_modColl ..))
        · exact .some (.next (.refl _) (Dev.touches_modColl ..))
      · exact .none

theorem Dev.touches_collOffWork (d : Dev) (core : Fin 48) (e : Entry) : d.Touches [.acc, .work] [] (Dev.collOffWork d core e) := by
  unfold Dev.collOffWork
  extract_lets -merge +onlyGivenNames v0
  split
  · exact .refl _
  · extract_lets -merge +onlyGivenNames v3
    split
    · exact .refl _
    · refine .ite ?_ ?_
      · exact .refl _
      · extract_lets -merge +onlyGivenNames v6
        extract_lets -merge +onlyGivenNames v7
        extract_lets -merge +onlyGivenNames v8
        extract_lets -merge +onlyGivenNames v9
        extract_lets -merge +onlyGivenNames v10
        extract_lets -merge +onlyGivenNames v11
        split
        · exact .next (.refl _) (Dev.touches_collWork ..)

theorem Dev.touches_herdWrite (d : Dev) (a : ℕ) (bs : List Byte) : d.Touches [.acc, .mem, .snap, .twin, .work] [] (Dev.herdWrite d a bs) := by
  unfold Dev.herdWrite
  refine .next ?_ (Dev.touches_touchW ..)
  refine Dev.Touches.hashed ?_ fun e0 he1 => ?_
  · exact .refl _
  · exact .next (he1) (Dev.touches_hbmWrite ..)

theorem Dev.touches_herdTouch (d : Dev) (rs : List (ℕ × ℕ)) : d.Touches [.work] [] (Dev.herdTouch d rs) := by
  unfold Dev.herdTouch
  refine .foldl ?_ fun e0 x1 _ => ?_
  · exact .refl _
  · exact .next (.refl _) (Dev.touches_touch ..)

theorem Dev.touches_setSlot (d : Dev) (p : HerdPart) (i : ℕ) (x : HerdSlot) : d.Touches [.acc, .mem, .snap, .twin, .work] [] (Dev.setSlot d p i x) := by
  unfold Dev.setSlot
  exact .next (.refl _) (Dev.touches_herdWrite ..)

theorem Dev.touches_modTier (d : Dev) (f : Tier → Tier) : d.Touches [.tier] [] (Dev.modTier d f) := by
  unfold Dev.modTier
  exact .set (.refl _) rfl

theorem Dev.touches_modObj (d : Dev) (i : ℕ) (f : TierObj → TierObj) : d.Touches [.tier] [] (Dev.modObj d i f) := by
  unfold Dev.modObj
  exact .next (.refl _) (Dev.touches_modTier ..)

theorem Dev.touches_homeWrite (d : Dev) (o : TierObj) (h : Home) (off : ℕ) (bs : List Byte) : d.Touches [.mem, .out, .twin] [] (Dev.homeWrite d o h off bs) := by
  unfold Dev.homeWrite
  split
  · exact .next (.refl _) (Dev.touches_locWrite ..)
  · refine .ite ?_ ?_
    · exact .refl _
    · exact .next (.refl _) (Dev.touches_hostPut ..)

theorem Dev.touches_homePut (d : Dev) (o : TierObj) (h : Home) (bs : List Byte) : d.Touches [.mem, .out, .twin] [] (Dev.homePut d o h bs) := by
  unfold Dev.homePut
  refine .foldl ?_ fun e0 x1 _ => ?_
  · exact .refl _
  · exact .next (.refl _) (Dev.touches_homeWrite ..)

theorem Dev.touches_putPage (d : Dev) (o : TierObj) (h : Home) (x : Moved) (j : ℕ) : d.Touches [.mem, .out, .twin] [] (Dev.putPage d o h x j) := by
  unfold Dev.putPage
  refine .foldl ?_ fun e0 x1 _ => ?_
  · exact .refl _
  · split
    · exact .next (.refl _) (Dev.touches_homeWrite ..)

theorem Dev.touches_countDrops (d : Dev) (x : Moved) : d.Touches [.acc] [] (Dev.countDrops d x) := by
  unfold Dev.countDrops
  exact .next (.next (.refl _) (Dev.touches_count ..)) (Dev.touches_count ..)

theorem Dev.touches_settleLoads (d : Dev) (i : ℕ) (o : TierObj) (m : TierMove) : d.Touches [.acc, .mem, .out, .twin, .work] [] (Dev.settleLoads d i o m) := by
  unfold Dev.settleLoads
  extract_lets -merge +onlyGivenNames v0
  refine .next ?_ (Dev.touches_countDrops ..)
  refine .foldl ?_ fun e1 x2 _ => ?_
  · exact .refl _
  · extract_lets -merge +onlyGivenNames d3
    have hd3 : e1.Touches [.acc, .mem, .out, .twin, .work] [] d3 := by
      unfold d3
      refine .ite ?_ ?_
      · exact .refl _
      · exact .next (.refl _) (Dev.touches_carry ..)
    clear_value d3
    exact .next (hd3) (Dev.touches_putPage ..)

theorem Dev.touches_nextPiece (d : Dev) (k : Clock) (i : ℕ) (o : TierObj) (m : TierMove) (off : ℕ) (out : Bool) (len : ℕ) (data : List Byte) : d.Touches [.acc, .fab, .gmem, .out, .sec, .tier, .work] [] (Dev.nextPiece d k i o m off out len data) := by
  unfold Dev.nextPiece
  extract_lets -merge +onlyGivenNames d0
  have hd0 : d.Touches [.acc, .fab, .gmem, .out, .sec, .tier, .work] [] d0 := by
    exact .next (.refl _) (Dev.touches_modObj ..)
  clear_value d0
  extract_lets -merge +onlyGivenNames v1
  extract_lets -merge +onlyGivenNames d2
  have hd2 : d.Touches [.acc, .fab, .gmem, .out, .sec, .tier, .work] [] d2 := by
    unfold d2
    refine .ite ?_ ?_
    · exact .next (hd0) (Dev.touches_carry ..)
    · exact .next (hd0) (Dev.touches_carry ..)
  clear_value d2
  split
  · exact .next (hd2) (Dev.touches_accept ..)

theorem Dev.touches_pumpStores (k : Clock) (l : List LoanStore) (d : Dev) :
    d.Touches [.acc, .fab, .gmem, .out, .sec, .snap, .work] [] (Dev.pumpStores k l d) := by
  induction l generalizing d with
  | nil => exact (Dev.Touches.refl d).set rfl
  | cons x xs ih =>
    unfold Dev.pumpStores
    split
    · exact .next (.next (.mono (Dev.touches_carry ..)) (Dev.touches_accept ..)) (ih _)
    · exact (Dev.Touches.refl d).set rfl

theorem Dev.touches_pumpTier (k : Clock) (n : Nat) (d : Dev) :
    d.Touches [.acc, .fab, .gmem, .out, .sec, .tier, .work] [] (Dev.pumpTier k n d) := by
  induction n generalizing d with
  | zero => exact .refl d
  | succ n ih =>
    unfold Dev.pumpTier
    split
    · exact .refl d
    · split
      · exact .refl d
      · split
        · exact .refl d
        · split
          extract_lets +onlyGivenNames len out data
          split
          · exact .next (.mono (Dev.touches_nextPiece ..)) (ih _)
          · exact .refl d

theorem Dev.touches_hostHomeLost (d : Dev) (k : Clock) : d.Touches (.gmem :: faultParts) (faultFlds.append gmemFaultFlds) (Dev.hostHomeLost d k) := by
  unfold Dev.hostHomeLost
  exact .next (.refl _) (Dev.touches_gmemFault ..)

theorem Dev.touches_hostLost (d : Dev) (k : Clock) : d.Touches (.gmem :: .tier :: faultParts) (faultFlds.append gmemFaultFlds) (Dev.hostLost d k) := by
  unfold Dev.hostLost
  extract_lets -merge +onlyGivenNames v0
  refine .ite ?_ ?_
  · exact .next (.next (.refl _) (Dev.touches_modTier ..)) (Dev.touches_hostHomeLost ..)
  · exact .refl _

theorem Dev.touches_hostRead (d : Dev) (rs : List (ℕ × ℕ)) : d.Touches [.out] [] (Dev.hostRead d rs) := by
  unfold Dev.hostRead
  exact .set (.refl _) rfl

theorem Dev.touches_hostReadFor (d : Dev) (kind : ℕ) (i : ℕ) (rs : List (ℕ × ℕ)) : d.Touches [.host, .out] [] (Dev.hostReadFor d kind i rs) := by
  unfold Dev.hostReadFor
  exact .next (.next (.refl _) (Dev.touches_hostRead ..)) (Dev.touches_modIf ..)

theorem Dev.touches_readsDone (d : Dev) (kind : ℕ) (i : Option ℕ) : d.Touches [.host] [] (Dev.readsDone d kind i) := by
  unfold Dev.readsDone
  exact .next (.refl _) (Dev.touches_modIf ..)

theorem Dev.touches_beginLoad (d : Dev) (i : ℕ) (o : TierObj) (m : TierMove) : d.Touches [.host, .out, .tier] [] (Dev.beginLoad d i o m) := by
  unfold Dev.beginLoad
  split
  · exact .next (.next (.refl _) (Dev.touches_hostReadFor ..)) (Dev.touches_modObj ..)

theorem Dev.touches_loadRest (d : Dev) (i : ℕ) (o : TierObj) (m : TierMove) : d.Touches [.host, .out, .tier] [] (Dev.loadRest d i o m) := by
  unfold Dev.loadRest
  extract_lets -merge +onlyGivenNames v0
  exact .next (.next (.refl _) (Dev.touches_hostReadFor ..)) (Dev.touches_modObj ..)

theorem Dev.touches_beginCopy (d : Dev) (i : ℕ) (o : TierObj) (m : TierMove) : d.Touches [.acc, .host, .mem, .out, .tier, .twin, .work] [] (Dev.beginCopy d i o m) := by
  unfold Dev.beginCopy
  extract_lets -merge +onlyGivenNames v0
  extract_lets -merge +onlyGivenNames v1
  extract_lets -merge +onlyGivenNames v2
  extract_lets -merge +onlyGivenNames d3
  have hd3 : d.Touches [.acc, .host, .mem, .out, .tier, .twin, .work] [] d3 := by
    exact .next (.next (.refl _) (Dev.touches_countDrops ..)) (Dev.touches_hostReadFor ..)
  clear_value d3
  extract_lets -merge +onlyGivenNames d4
  have hd4 : d.Touches [.acc, .host, .mem, .out, .tier, .twin, .work] [] d4 := by
    exact .next (hd3) (Dev.touches_modObj ..)
  clear_value d4
  refine .foldl ?_ fun e5 x6 _ => ?_
  · exact hd4
  · extract_lets -merge +onlyGivenNames v7
    refine Dev.Touches.hashed ?_ fun e8 he9 => ?_
    · exact .next (.refl _) (Dev.touches_carry ..)
    · exact .next (he9) (Dev.touches_putPage ..)

theorem Dev.touches_beginMove (d : Dev) (k : Clock) (i : ℕ) (o : TierObj) (m : TierMove) : d.Touches (.fab :: .gmem :: .mem :: .tier :: .twin :: .work :: faultParts) (faultFlds.append (devFaultFlds.append gmemFaultFlds)) (Dev.beginMove d k i o m) := by
  unfold Dev.beginMove
  refine .ite ?_ ?_
  · exact .next (.refl _) (Dev.touches_hostHomeLost ..)
  · split
    · exact .next (.refl _) (Dev.touches_poisonFault ..)
    · extract_lets -merge +onlyGivenNames v3
      extract_lets -merge +onlyGivenNames v4
      extract_lets -merge +onlyGivenNames d5
      have hd5 : d.Touches (.fab :: .gmem :: .mem :: .tier :: .twin :: .work :: faultParts) (faultFlds.append (devFaultFlds.append gmemFaultFlds)) d5 := by
        unfold d5
        refine .ite ?_ ?_
        · exact .next (.refl _) (Dev.touches_beginLoad ..)
        · exact .next (.refl _) (Dev.touches_beginCopy ..)
      clear_value d5
      exact .next (.next (.next (hd5) (Dev.touches_count ..)) (Dev.touches_addWork ..)) (Dev.touches_pumpTier ..)

theorem Dev.touches_unwatch (d : Dev) (i : ℕ) : d.Touches [.tier] [] (Dev.unwatch d i) := by
  unfold Dev.unwatch
  exact .next (.refl _) (Dev.touches_modTier ..)

theorem Dev.touches_runQueue (k : Clock) (l : List TierReq) (dry held : Bool) (d : Dev) :
    d.Touches (.fab :: .gmem :: .mem :: .tier :: .twin :: .work :: faultParts) (faultFlds.append (devFaultFlds.append gmemFaultFlds)) (Dev.runQueue k l dry held d).1 := by
  induction l generalizing d dry held with
  | nil => exact .refl d
  | cons r rs ih =>
    have hb : ∀ o m, d.Touches (.fab :: .gmem :: .mem :: .tier :: .twin :: .work :: faultParts) (faultFlds.append (devFaultFlds.append gmemFaultFlds)) (d.beginMove k r.obj o m) := fun o m => .mono (Dev.touches_beginMove ..)
    have ht : ∀ f, d.Touches (.fab :: .gmem :: .mem :: .tier :: .twin :: .work :: faultParts) (faultFlds.append (devFaultFlds.append gmemFaultFlds)) ((d.modObj r.obj f).unwatch r.obj) := fun f =>
      .mono (.next (ps := [.tier]) (fs := []) (Dev.touches_modObj ..) (Dev.touches_unwatch ..))
    unfold Dev.runQueue
    extract_lets +onlyGivenNames keep
    split
    · exact ih ..
    · split
      · exact ih ..
      · rw [apply_ite Prod.fst]
        refine .ite ?_ ?_
        · split
          · exact ih ..
          · exact (ht _).next (ih ..)
        · split
          · exact ih ..
          · split
            · exact ih ..
            · split
              · exact ih ..
              · split
                · exact ih ..
                · exact (hb _ _).next (ih ..)

theorem Dev.touches_runTier (d : Dev) (k : Clock) : d.Touches (.fab :: .gmem :: .mem :: .tier :: .twin :: .work :: faultParts) (faultFlds.append (devFaultFlds.append gmemFaultFlds)) (Dev.runTier d k) := by
  unfold Dev.runTier
  split
  next d0 x1 x2 heq =>
    have hd0 : d.Touches (.fab :: .gmem :: .mem :: .tier :: .twin :: .work :: faultParts) (faultFlds.append (devFaultFlds.append gmemFaultFlds)) d0 := by
      refine .of_fst ?_ heq
      exact .next (.refl _) (Dev.touches_runQueue ..)
    extract_lets -merge +onlyGivenNames d3
    have hd3 : d.Touches (.fab :: .gmem :: .mem :: .tier :: .twin :: .work :: faultParts) (faultFlds.append (devFaultFlds.append gmemFaultFlds)) d3 := by
      exact .next (hd0) (Dev.touches_modTier ..)
    clear_value d3
    extract_lets -merge +onlyGivenNames v4
    extract_lets -merge +onlyGivenNames d5
    have hd5 : d.Touches (.fab :: .gmem :: .mem :: .tier :: .twin :: .work :: faultParts) (faultFlds.append (devFaultFlds.append gmemFaultFlds)) d5 := by
      unfold d5
      refine .ite ?_ ?_
      · exact .next (hd3) (Dev.touches_lsHoldFrom ..)
      · exact hd3
    clear_value d5
    split
    · exact .next (hd5) (Dev.touches_modTier ..)
    · exact .next (.next (hd5) (Dev.touches_modTier ..)) (Dev.touches_count ..)
    · exact hd5

theorem Dev.touches_queueTier (d : Dev) (k : Clock) (r : TierReq) : d.Touches (.fab :: .gmem :: .mem :: .tier :: .twin :: .work :: faultParts) (faultFlds.append (devFaultFlds.append gmemFaultFlds)) (Dev.queueTier d k r) := by
  unfold Dev.queueTier
  exact .next (.next (.refl _) (Dev.touches_modTier ..)) (Dev.touches_runTier ..)

theorem Dev.touches_promote (d : Dev) (k : Clock) (i : ℕ) (target : ℕ) (core : Option ℕ) : d.Touches (.fab :: .gmem :: .mem :: .tier :: .twin :: .work :: faultParts) (faultFlds.append (devFaultFlds.append gmemFaultFlds)) (Dev.promote d k i target core) := by
  unfold Dev.promote
  split
  · exact .refl _
  · extract_lets -merge +onlyGivenNames v2
    split
    · refine .ite ?_ ?_
      · exact .next (.next (.refl _) (Dev.touches_modObj ..)) (Dev.touches_unwatch ..)
      · exact .next (.refl _) (Dev.touches_queueTier ..)
    · refine .ite ?_ ?_
      · exact .next (.next (.refl _) (Dev.touches_count ..)) (Dev.touches_queueTier ..)
      · refine .ite ?_ ?_
        · exact .next (.next (.refl _) (Dev.touches_count ..)) (Dev.touches_modObj ..)
        · exact .next (.refl _) (Dev.touches_queueTier ..)

theorem Dev.touches_evictMark (d : Dev) (i : ℕ) (target : ℕ) (core : ℕ) : d.Touches [.tier] [] (Dev.evictMark d i target core) := by
  unfold Dev.evictMark
  exact .next (.refl _) (Dev.touches_modObj ..)

theorem Dev.touches_tierOffWork (d : Dev) (e : Entry) : d.Touches [.acc, .work] [] (Dev.tierOffWork d e) := by
  unfold Dev.tierOffWork
  extract_lets -merge +onlyGivenNames v0
  split
  · exact .refl _
  · extract_lets -merge +onlyGivenNames v3
    refine .ite ?_ ?_
    · exact .refl _
    · extract_lets -merge +onlyGivenNames v4
      exact .next (.next (.refl _) (Dev.touches_count ..)) (Dev.touches_addWork ..)

theorem Dev.touches_startTier (d : Dev) (k : Clock) (c : Fin 48) (e : Entry) : d.MayTouch (.fab :: .gmem :: .mem :: .tier :: .twin :: .work :: faultParts) (faultFlds.append (devFaultFlds.append gmemFaultFlds)) (Dev.startTier d k c e).dev? := by
  unfold Dev.startTier
  extract_lets -merge +onlyGivenNames v0
  extract_lets -merge +onlyGivenNames v1
  extract_lets -merge +onlyGivenNames d2
  have hd2 : d.Touches (.fab :: .gmem :: .mem :: .tier :: .twin :: .work :: faultParts) (faultFlds.append (devFaultFlds.append gmemFaultFlds)) d2 := by
    unfold d2
    refine .ite ?_ ?_
    · exact .refl _
    · exact .next (.refl _) (Dev.touches_modTier ..)
  clear_value d2
  split
  · exact .some (.next (hd2) (Dev.touches_promote ..))
  · exact .some (.next (hd2) (Dev.touches_evictMark ..))
  · exact .some (.next (hd2) (Dev.touches_promote ..))
  · extract_lets -merge +onlyGivenNames v7
    refine .ite_started ?_ ?_
    · exact .none
    · exact .some (hd2)

theorem Dev.touches_fillPieces (d : Dev) (i : ℕ) (o : TierObj) : d.Touches [.snap] [] (Dev.fillPieces d i o) := by
  unfold Dev.fillPieces
  extract_lets -merge +onlyGivenNames v0
  exact .set (.refl _) rfl

theorem Dev.touches_evict (d : Dev) (k : Clock) (i : ℕ) (target : ℕ) : d.Touches (.fab :: .gmem :: .mem :: .tier :: .twin :: .work :: faultParts) (faultFlds.append (devFaultFlds.append gmemFaultFlds)) (Dev.evict d k i target) := by
  unfold Dev.evict
  extract_lets -merge +onlyGivenNames d0
  have hd0 : d.Touches (.fab :: .gmem :: .mem :: .tier :: .twin :: .work :: faultParts) (faultFlds.append (devFaultFlds.append gmemFaultFlds)) d0 := by
    exact .next (.refl _) (Dev.touches_queueTier ..)
  clear_value d0
  refine .ite ?_ ?_
  · exact .next (hd0) (Dev.touches_modTier ..)
  · exact hd0

theorem Dev.touches_evictMarked (d : Dev) (k : Clock) : d.Touches (.fab :: .gmem :: .mem :: .tier :: .twin :: .work :: faultParts) (faultFlds.append (devFaultFlds.append gmemFaultFlds)) (Dev.evictMarked d k) := by
  unfold Dev.evictMarked
  refine .foldl ?_ fun e0 x1 _ => ?_
  · exact .refl _
  · split
    · exact .refl _
    · split
      · exact .refl _
      · refine .ite ?_ ?_
        · exact .refl _
        · extract_lets -merge +onlyGivenNames d6
          have hd6 : e0.Touches (.fab :: .gmem :: .mem :: .tier :: .twin :: .work :: faultParts) (faultFlds.append (devFaultFlds.append gmemFaultFlds)) d6 := by
            exact .next (.refl _) (Dev.touches_modObj ..)
          clear_value d6
          refine .ite ?_ ?_
          · exact .next (hd6) (Dev.touches_evict ..)
          · exact hd6

theorem Dev.touches_evictOld (k : Clock) (l : List (Nat × Nat)) (need : Int) (d : Dev) :
    d.Touches (.fab :: .gmem :: .mem :: .tier :: .twin :: .work :: faultParts) (faultFlds.append (devFaultFlds.append gmemFaultFlds)) (Dev.evictOld k l need d) := by
  induction l generalizing d need with
  | nil => exact .refl d
  | cons x rest ih =>
    unfold Dev.evictOld
    split
    · exact .refl d
    · split
      · exact ih ..
      · split
        · exact .next (.mono (Dev.touches_count ..)) (ih ..)
        · exact .next (.mono (Dev.touches_evict ..)) (ih ..)

theorem Dev.touches_latePromotes (d : Dev) : d.Touches [.acc, .tier] [] (Dev.latePromotes d) := by
  unfold Dev.latePromotes
  refine .next ?_ (Dev.touches_modTier ..)
  refine .ite ?_ ?_
  · exact .refl _
  · exact .next (.refl _) (Dev.touches_count ..)

theorem Dev.touches_tierOpen (d : Dev) (k : Clock) : d.Touches (.fab :: .gmem :: .mem :: .tier :: .twin :: .work :: faultParts) (faultFlds.append (devFaultFlds.append gmemFaultFlds)) (Dev.tierOpen d k) := by
  unfold Dev.tierOpen
  split
  · extract_lets -merge +onlyGivenNames d2
    have hd2 : d.Touches (.fab :: .gmem :: .mem :: .tier :: .twin :: .work :: faultParts) (faultFlds.append (devFaultFlds.append gmemFaultFlds)) d2 := by
      exact .next (.refl _) (Dev.touches_modTier ..)
    clear_value d2
    extract_lets -merge +onlyGivenNames d3
    have hd3 : d.Touches (.fab :: .gmem :: .mem :: .tier :: .twin :: .work :: faultParts) (faultFlds.append (devFaultFlds.append gmemFaultFlds)) d3 := by
      exact .next (hd2) (Dev.touches_evictMarked ..)
    clear_value d3
    extract_lets -merge +onlyGivenNames v4
    extract_lets -merge +onlyGivenNames d5
    have hd5 : d.Touches (.fab :: .gmem :: .mem :: .tier :: .twin :: .work :: faultParts) (faultFlds.append (devFaultFlds.append gmemFaultFlds)) d5 := by
      exact .next (hd3) (Dev.touches_modTier ..)
    clear_value d5
    extract_lets -merge +onlyGivenNames v6
    extract_lets -merge +onlyGivenNames v7
    extract_lets -merge +onlyGivenNames v8
    extract_lets -merge +onlyGivenNames d9
    have hd9 : d.Touches (.fab :: .gmem :: .mem :: .tier :: .twin :: .work :: faultParts) (faultFlds.append (devFaultFlds.append gmemFaultFlds)) d9 := by
      unfold d9
      refine .ite ?_ ?_
      · exact .next (hd5) (Dev.touches_evictOld ..)
      · exact hd5
    clear_value d9
    refine .foldl ?_ fun e10 x11 _ => ?_
    · exact hd9
    · exact .next (.refl _) (Dev.touches_promote ..)

theorem Dev.touches_placeObjs (d : Dev) (es : List ObjEntry) : d.Touches [.tier] [] (Dev.placeObjs d es) := by
  unfold Dev.placeObjs
  extract_lets -merge +onlyGivenNames d0
  have hd0 : d.Touches [.tier] [] d0 := by
    exact .next (.refl _) (Dev.touches_modTier ..)
  clear_value d0
  refine .foldl_fst ?_ fun e1 b2 x3 _ => ?_
  · exact .fst (hd0)
  · beta_reduce
    dsimp -zeta only
    extract_lets -merge +onlyGivenNames v4
    extract_lets -merge +onlyGivenNames v5
    extract_lets -merge +onlyGivenNames v6
    exact .fst (.next (.refl _) (Dev.touches_modTier ..))

theorem Dev.touches_lendBegin (d : Dev) : d.Touches [.fab, .regs, .tier, .updated] [.tierLendOutside, .tierLendReject] (Dev.lendBegin d).1 := by
  unfold Dev.lendBegin
  split
  · extract_lets -merge +onlyGivenNames d0
    have hd0 : d.Touches [.fab, .regs, .tier, .updated] [.tierLendOutside, .tierLendReject] d0 := by
      exact .next (.refl _) (Dev.touches_modTier ..)
    clear_value d0
    extract_lets -merge +onlyGivenNames d1
    have hd1 : d.Touches [.fab, .regs, .tier, .updated] [.tierLendOutside, .tierLendReject] d1 := by
      exact .next (hd0) (Dev.touches_forgetKey ..)
    clear_value d1
    exact .fst (.next (hd1) (Dev.touches_wr ..))
  · exact .fst (.next (.refl _) (Dev.touches_flag ..))

theorem Dev.touches_lendEnd (d : Dev) : d.Touches [.regs, .tier, .updated] [.tierLendReject] (Dev.lendEnd d).1 := by
  unfold Dev.lendEnd
  split
  · exact .fst (.next (.refl _) (Dev.touches_modTier ..))
  · exact .fst (.next (.refl _) (Dev.touches_flag ..))

theorem Dev.touches_imageTraffic (d : Dev) (c : Fin 48) (t : TileDesc) (write : Bool) (root : ℕ) (o : ℕ) (n : ℕ) : d.Touches [.work] [] (Dev.imageTraffic d c t write root o n) := by
  unfold Dev.imageTraffic
  refine .ite ?_ ?_
  · exact .refl _
  · split
    · exact .refl _
    · refine .ite ?_ ?_
      · exact .next (.refl _) (Dev.touches_coreTouchW ..)
      · exact .next (.refl _) (Dev.touches_coreTouch ..)

theorem Dev.touches_tileTraffic (d : Dev) (c : Fin 48) (t : TileDesc) (write : Bool) (ps : List (ℕ × ℕ)) : d.Touches [.work] [] (Dev.tileTraffic d c t write ps) := by
  unfold Dev.tileTraffic
  refine .ite ?_ ?_
  · exact .refl _
  · refine .foldl ?_ fun e0 x1 _ => ?_
    · exact .refl _
    · split
      · exact .next (.next (.refl _) (Dev.touches_imageTraffic ..)) (Dev.touches_imageTraffic ..)

theorem Dev.touches_moveOne (d : Dev) (c : Fin 48) (e : Entry) (rc : RndCtx) (r : ℕ) (q : ℕ) : d.Touches [.acc, .mem, .snap, .twin] [] (Dev.moveOne d c e rc r q) := by
  unfold Dev.moveOne
  extract_lets -merge +onlyGivenNames v0
  extract_lets -merge +onlyGivenNames v1
  extract_lets -merge +onlyGivenNames v2
  split
  · extract_lets -merge +onlyGivenNames v5
    extract_lets -merge +onlyGivenNames v6
    extract_lets -merge +onlyGivenNames v7
    extract_lets -merge +onlyGivenNames d8
    have hd8 : d.Touches [.acc, .mem, .snap, .twin] [] d8 := by
      exact .next (.next (.next (.refl _) (Dev.touches_countTile ..)) (Dev.touches_writeTile ..)) (Dev.touches_countNarrow ..)
    clear_value d8
    extract_lets -merge +onlyGivenNames d9
    have hd9 : d.Touches [.acc, .mem, .snap, .twin] [] d9 := by
      unfold d9
      refine .ite ?_ ?_
      · exact .next (hd8) (Dev.touches_count ..)
      · exact hd8
    clear_value d9
    refine .ite ?_ ?_
    · exact hd9
    · exact .next (hd9) (Dev.touches_count ..)

theorem Dev.touches_loaderWork (d : Dev) (c : Fin 48) (n : ℕ) : d.Touches [.cores] [] (Dev.loaderWork d c n) := by
  unfold Dev.loaderWork
  exact .next (.refl _) (Dev.touches_modCore ..)

theorem Dev.touches_startMove (d : Dev) (k : Clock) (c : Fin 48) (e : Entry) : d.MayTouch [.acc, .cores, .mem, .snap, .twin, .work] [] (Dev.startMove d k c e).dev? := by
  unfold Dev.startMove
  extract_lets -merge +onlyGivenNames v0
  extract_lets -merge +onlyGivenNames v1
  split
  · next x2 heq0 =>
      have hx2 : d.MayTouch [.acc, .cores, .mem, .snap, .twin, .work] [] x2.dev? := by
        refine .of_optstarted ?_ heq0
        exact .nextSome (.refl _) (Dev.touches_checkTiles ..)
      exact hx2
  · extract_lets -merge +onlyGivenNames v4
    extract_lets -merge +onlyGivenNames v5
    extract_lets -merge +onlyGivenNames d6
    have hd6 : d.Touches [.acc, .cores, .mem, .snap, .twin, .work] [] d6 := by
      refine .foldl ?_ fun e7 x8 _ => ?_
      · exact .refl _
      · split
        · exact .next (.refl _) (Dev.touches_moveOne ..)
    clear_value d6
    extract_lets -merge +onlyGivenNames v11
    extract_lets -merge +onlyGivenNames v12
    extract_lets -merge +onlyGivenNames d13
    have hd13 : d.Touches [.acc, .cores, .mem, .snap, .twin, .work] [] d13 := by
      exact .next (.next (hd6) (Dev.touches_tileTraffic ..)) (Dev.touches_tileTraffic ..)
    clear_value d13
    exact .some (.next (.next (hd13) (Dev.touches_modCore ..)) (Dev.touches_loaderWork ..))

theorem Dev.touches_fillOne (d : Dev) (c : Fin 48) (e : Entry) (r : ℕ) (q : ℕ) : d.Touches [.acc, .mem, .snap, .twin] [] (Dev.fillOne d c e r q) := by
  unfold Dev.fillOne
  extract_lets -merge +onlyGivenNames v0
  extract_lets -merge +onlyGivenNames v1
  extract_lets -merge +onlyGivenNames v2
  exact .next (.refl _) (Dev.touches_writeTile ..)

theorem Dev.touches_startFill (d : Dev) (k : Clock) (c : Fin 48) (e : Entry) : d.MayTouch [.acc, .cores, .mem, .snap, .twin, .work] [] (Dev.startFill d k c e).dev? := by
  unfold Dev.startFill
  extract_lets -merge +onlyGivenNames v0
  split
  · next x1 heq0 =>
      have hx1 : d.MayTouch [.acc, .cores, .mem, .snap, .twin, .work] [] x1.dev? := by
        refine .of_optstarted ?_ heq0
        exact .nextSome (.refl _) (Dev.touches_checkTiles ..)
      exact hx1
  · extract_lets -merge +onlyGivenNames d3
    have hd3 : d.Touches [.acc, .cores, .mem, .snap, .twin, .work] [] d3 := by
      refine .foldl ?_ fun e4 x5 _ => ?_
      · exact .refl _
      · split
        · exact .next (.refl _) (Dev.touches_fillOne ..)
    clear_value d3
    extract_lets -merge +onlyGivenNames v8
    extract_lets -merge +onlyGivenNames v9
    extract_lets -merge +onlyGivenNames d10
    have hd10 : d.Touches [.acc, .cores, .mem, .snap, .twin, .work] [] d10 := by
      exact .next (hd3) (Dev.touches_tileTraffic ..)
    clear_value d10
    exact .some (.next (hd10) (Dev.touches_loaderWork ..))

theorem Dev.touches_startLoader (d : Dev) (k : Clock) (c : Fin 48) (e : Entry) : d.MayTouch [.acc, .cores, .mem, .snap, .twin, .work] [] (Dev.startLoader d k c e).dev? := by
  unfold Dev.startLoader
  refine .ite_started ?_ ?_
  · exact .none
  · refine .ite_started ?_ ?_
    · exact .nextSome (.refl _) (Dev.touches_startMove ..)
    · exact .nextSome (.refl _) (Dev.touches_startFill ..)

theorem Dev.touches_writeVals (d : Dev) (c : Fin 48) (t : TileDesc) (rc : RndCtx) (pos0 : ℕ) (r : ℕ) (q : ℕ) (vs : List Val) : d.Touches [.acc, .mem, .snap, .twin] [] (Dev.writeVals d c t rc pos0 r q vs) := by
  unfold Dev.writeVals
  extract_lets -merge +onlyGivenNames v0
  exact .next (.next (.refl _) (Dev.touches_writeTile ..)) (Dev.touches_countNarrow ..)

theorem Dev.touches_vecValue (d : Dev) (c : Fin 48) (e : Entry) (r : ℕ) (q : ℕ) : d.Touches [.acc] [] (Dev.vecValue d c e r q).1 := by
  unfold Dev.vecValue
  extract_lets -merge +onlyGivenNames v0
  extract_lets -merge +onlyGivenNames d1
  have hd1 : d.Touches [.acc] [] d1 := by
    exact .next (.refl _) (Dev.touches_countTile ..)
  clear_value d1
  extract_lets -merge +onlyGivenNames v2
  split
  · exact .fst (hd1)
  · exact .fst (hd1)
  · extract_lets -merge +onlyGivenNames v6
    extract_lets -merge +onlyGivenNames v7
    exact .fst (.next (.next (hd1) (Dev.touches_countTile ..)) (Dev.touches_countTile ..))
  · extract_lets -merge +onlyGivenNames v9
    exact .fst (.next (hd1) (Dev.touches_countTile ..))

theorem Dev.touches_runVec (d : Dev) (c : Fin 48) (e : Entry) (rc : RndCtx) : d.Touches [.acc, .mem, .snap, .twin] [] (Dev.runVec d c e rc) := by
  unfold Dev.runVec
  refine .foldl ?_ fun e0 x1 _ => ?_
  · exact .refl _
  · split
    · split
      next d4 x5 heq =>
        have hd4 : e0.Touches [.acc, .mem, .snap, .twin] [] d4 := by
          refine .of_fst ?_ heq
          exact .next (.refl _) (Dev.touches_vecValue ..)
        exact .next (hd4) (Dev.touches_writeVals ..)

theorem Dev.touches_runAmax (d : Dev) (c : Fin 48) (e : Entry) : d.Touches [.acc, .mem, .twin] [] (Dev.runAmax d c e) := by
  unfold Dev.runAmax
  split
  next d7 x8 x9 heq =>
    have hd7 : d.Touches [.acc, .mem, .twin] [] d7 := by
      refine .of_fst ?_ heq
      refine .foldl_fst ?_ fun e0 b1 x2 _ => ?_
      · exact .fst (.refl _)
      · beta_reduce
        split
        · dsimp -zeta only
          extract_lets -merge +onlyGivenNames v5
          extract_lets -merge +onlyGivenNames v6
          exact .fst (.next (.refl _) (Dev.touches_countTile ..))
    extract_lets -merge +onlyGivenNames v10
    exact .next (hd7) (Dev.touches_locWrite ..)

theorem Dev.touches_gateVals (d : Dev) (c : Fin 48) (e : Entry) (r : ℕ) (q : ℕ) : d.Touches [.acc] [] (Dev.gateVals d c e r q).1 := by
  unfold Dev.gateVals
  extract_lets -merge +onlyGivenNames v0
  extract_lets -merge +onlyGivenNames v1
  extract_lets -merge +onlyGivenNames v2
  extract_lets -merge +onlyGivenNames v3
  extract_lets -merge +onlyGivenNames d4
  have hd4 : d.Touches [.acc] [] d4 := by
    refine .foldl ?_ fun e5 x6 _ => ?_
    · exact .refl _
    · exact .next (.refl _) (Dev.touches_countTile ..)
  clear_value d4
  exact .fst (hd4)

theorem Dev.touches_runGate (d : Dev) (c : Fin 48) (e : Entry) (rc : RndCtx) : d.Touches [.acc, .mem, .snap, .twin] [] (Dev.runGate d c e rc) := by
  unfold Dev.runGate
  refine .foldl ?_ fun e0 x1 _ => ?_
  · exact .refl _
  · split
    · split
      next d4 x5 heq =>
        have hd4 : e0.Touches [.acc, .mem, .snap, .twin] [] d4 := by
          refine .of_fst ?_ heq
          exact .next (.refl _) (Dev.touches_gateVals ..)
        exact .next (hd4) (Dev.touches_writeVals ..)

theorem Dev.touches_runOpt (d : Dev) (c : Fin 48) (e : Entry) (rc : RndCtx) : d.Touches [.acc, .mem, .snap, .twin] [] (Dev.runOpt d c e rc) := by
  unfold Dev.runOpt
  extract_lets -merge +onlyGivenNames v0
  extract_lets -merge +onlyGivenNames v1
  extract_lets -merge +onlyGivenNames v2
  extract_lets -merge +onlyGivenNames v3
  extract_lets -merge +onlyGivenNames v4
  refine .foldl ?_ fun e5 x6 _ => ?_
  · exact .refl _
  · split
    · extract_lets -merge +onlyGivenNames v9
      extract_lets -merge +onlyGivenNames v10
      extract_lets -merge +onlyGivenNames v11
      extract_lets -merge +onlyGivenNames v12
      extract_lets -merge +onlyGivenNames d13
      have hd13 : e5.Touches [.acc, .mem, .snap, .twin] [] d13 := by
        refine .foldl ?_ fun e14 x15 _ => ?_
        · exact .refl _
        · exact .next (.refl _) (Dev.touches_countTile ..)
      clear_value d13
      extract_lets -merge +onlyGivenNames v16
      extract_lets -merge +onlyGivenNames d17
      have hd17 : e5.Touches [.acc, .mem, .snap, .twin] [] d17 := by
        exact .next (hd13) (Dev.touches_writeVals ..)
      clear_value d17
      extract_lets -merge +onlyGivenNames d18
      have hd18 : e5.Touches [.acc, .mem, .snap, .twin] [] d18 := by
        exact .next (hd17) (Dev.touches_writeVals ..)
      clear_value d18
      refine .ite ?_ ?_
      · exact hd18
      · exact .next (hd18) (Dev.touches_writeVals ..)

theorem Dev.touches_runVector (d : Dev) (c : Fin 48) (e : Entry) : d.Touches [.acc, .cores, .mem, .snap, .twin] [] (Dev.runVector d c e) := by
  unfold Dev.runVector
  extract_lets -merge +onlyGivenNames v0
  split
  · exact .next (.refl _) (Dev.touches_runAmax ..)
  · exact .next (.next (.refl _) (Dev.touches_runGate ..)) (Dev.touches_modCore ..)
  · exact .next (.next (.refl _) (Dev.touches_runOpt ..)) (Dev.touches_modCore ..)
  · exact .next (.next (.refl _) (Dev.touches_runVec ..)) (Dev.touches_modCore ..)

theorem Dev.touches_startVec (d : Dev) (k : Clock) (c : Fin 48) (e : Entry) : d.MayTouch [.acc, .cores, .mem, .snap, .twin] [] (Dev.startVec d k c e).dev? := by
  unfold Dev.startVec
  refine .ite_started ?_ ?_
  · exact .none
  · refine .ite_started ?_ ?_
    · exact .none
    · split
      · next x0 heq0 =>
          have hx0 : d.MayTouch [.acc, .cores, .mem, .snap, .twin] [] x0.dev? := by
            refine .of_optstarted ?_ heq0
            exact .nextSome (.refl _) (Dev.touches_checkTiles ..)
          exact hx0
      · exact .some (.next (.next (.refl _) (Dev.touches_runVector ..)) (Dev.touches_modCore ..))

theorem Dev.touches_writeStat (d : Dev) (c : Fin 48) (a : Nat) (st : Val × Val) :
    d.Touches [.mem, .twin] [] (d.writeStat c a st) :=
  .withMem (d := d.noteWrite 4 (c.val / 4) c a (leBytes 4 (f32Bits st.1) ++ leBytes 4 (f32Bits st.2)))
    (.mono (Dev.touches_noteWrite ..)) rfl fun h => Mem.wf_setStat h (Memory.writeN_wf _ _ _ (by rw [← (Dev.touches_noteWrite ..).mem (d := d)]; exact Mem.stat_wf h c)) c _

theorem Dev.touches_rowOne (d : Dev) (c : Fin 48) (e : Entry) (rc : RndCtx) (r : ℕ) : d.Touches [.acc, .mem, .snap, .twin] [] (Dev.rowOne d c e rc r) := by
  unfold Dev.rowOne
  extract_lets -merge +onlyGivenNames v0
  extract_lets -merge +onlyGivenNames v1
  extract_lets -merge +onlyGivenNames v2
  extract_lets -merge +onlyGivenNames v3
  extract_lets -merge +onlyGivenNames v4
  extract_lets -merge +onlyGivenNames v5
  extract_lets -merge +onlyGivenNames d6
  have hd6 : d.Touches [.acc, .mem, .snap, .twin] [] d6 := by
    refine .foldl ?_ fun e7 x8 _ => ?_
    · exact .refl _
    · exact .next (.refl _) (Dev.touches_countTile ..)
  clear_value d6
  extract_lets -merge +onlyGivenNames d9
  have hd9 : d.Touches [.acc, .mem, .snap, .twin] [] d9 := by
    unfold d9
    refine .ite ?_ ?_
    · refine .foldl ?_ fun e10 x11 _ => ?_
      · exact hd6
      · split
        · exact .next (.refl _) (Dev.touches_writeStat ..)
    · exact hd6
  clear_value d9
  extract_lets -merge +onlyGivenNames v14
  extract_lets -merge +onlyGivenNames v15
  extract_lets -merge +onlyGivenNames d16
  have hd16 : d.Touches [.acc, .mem, .snap, .twin] [] d16 := by
    exact .next (.next (hd9) (Dev.touches_count ..)) (Dev.touches_count ..)
  clear_value d16
  extract_lets -merge +onlyGivenNames d17
  have hd17 : d.Touches [.acc, .mem, .snap, .twin] [] d17 := by
    unfold d17
    refine .ite ?_ ?_
    · exact .next (hd16) (Dev.touches_count ..)
    · exact hd16
  clear_value d17
  extract_lets -merge +onlyGivenNames d18
  have hd18 : d.Touches [.acc, .mem, .snap, .twin] [] d18 := by
    unfold d18
    refine .ite ?_ ?_
    · exact .next (hd17) (Dev.touches_count ..)
    · exact hd17
  clear_value d18
  refine .foldl ?_ fun e19 x20 _ => ?_
  · exact hd18
  · extract_lets -merge +onlyGivenNames v21
    exact .next (.next (.refl _) (Dev.touches_writeTileIn ..)) (Dev.touches_countNarrow ..)

theorem Dev.touches_statPoison (d : Dev) (k : Clock) (c : Fin 48) (e : Entry) :
    d.MayTouch faultParts (faultFlds.append devFaultFlds) (devS (d.statPoison k c e)) := by
  unfold Dev.statPoison
  extract_lets hit
  refine .ite_optstarted ?_ .none
  cases d.mem.poisonStat.find? hit with
  | none => exact .none
  | some x => exact .some (.mono (Dev.touches_sramFault ..))

theorem Dev.touches_rowCheck (d : Dev) (k : Clock) (c : Fin 48) (e : Entry) :
    d.MayTouch faultParts (faultFlds.append devFaultFlds) (devS (d.rowCheck k c e)) := by
  have hcheck : d.MayTouch faultParts (faultFlds.append devFaultFlds) (devS (d.checkTiles c e.rowTiles.1 e.rowTiles.2)) := .mono (Dev.touches_checkTiles ..)
  unfold Dev.rowCheck
  split
  · exact .none
  · refine .ite_optstarted ?_ .none
    cases hr : d.checkTiles c e.rowTiles.1 e.rowTiles.2 with
    | none => exact Dev.touches_statPoison ..
    | some x =>
      rw [hr] at hcheck
      exact hcheck

theorem Dev.touches_startRow (d : Dev) (k : Clock) (c : Fin 48) (e : Entry) : d.MayTouch (.cores :: .mem :: .snap :: .twin :: faultParts) (faultFlds.append devFaultFlds) (Dev.startRow d k c e).dev? := by
  unfold Dev.startRow
  refine .ite_started ?_ ?_
  · exact .none
  · split
    · next x0 heq0 =>
        have hx0 : d.MayTouch (.cores :: .mem :: .snap :: .twin :: faultParts) (faultFlds.append devFaultFlds) x0.dev? := by
          refine .of_optstarted ?_ heq0
          exact .nextSome (.refl _) (Dev.touches_rowCheck ..)
        exact hx0
    · extract_lets -merge +onlyGivenNames v2
      extract_lets -merge +onlyGivenNames d3
      have hd3 : d.Touches (.cores :: .mem :: .snap :: .twin :: faultParts) (faultFlds.append devFaultFlds) d3 := by
        refine .foldl ?_ fun e4 x5 _ => ?_
        · exact .refl _
        · exact .next (.refl _) (Dev.touches_rowOne ..)
      clear_value d3
      extract_lets -merge +onlyGivenNames d6
      have hd6 : d.Touches (.cores :: .mem :: .snap :: .twin :: faultParts) (faultFlds.append devFaultFlds) d6 := by
        exact .next (hd3) (Dev.touches_modCore ..)
      clear_value d6
      extract_lets -merge +onlyGivenNames d7
      have hd7 : d.Touches (.cores :: .mem :: .snap :: .twin :: faultParts) (faultFlds.append devFaultFlds) d7 := by
        exact .next (.next (hd6) (Dev.touches_count ..)) (Dev.touches_count ..)
      clear_value d7
      extract_lets -merge +onlyGivenNames d8
      have hd8 : d.Touches (.cores :: .mem :: .snap :: .twin :: faultParts) (faultFlds.append devFaultFlds) d8 := by
        unfold d8
        refine .ite ?_ ?_
        · exact .next (hd7) (Dev.touches_count ..)
        · exact hd7
      clear_value d8
      exact .some (hd8)

theorem Dev.touches_writeList (d : Dev) (c : Fin 48) (e : Entry) (rows : List (List ℕ)) : d.Touches [.acc, .mem, .snap, .twin, .work] [] (Dev.writeList d c e rows) := by
  unfold Dev.writeList
  refine .foldl ?_ fun e0 x1 _ => ?_
  · exact .refl _
  · extract_lets -merge +onlyGivenNames v2
    extract_lets -merge +onlyGivenNames v3
    refine .next ?_ (Dev.touches_imageTraffic ..)
    refine Dev.Touches.hashed ?_ fun e4 he5 => ?_
    · exact .refl _
    · exact .next (he5) (Dev.touches_writeTileIn ..)

theorem Dev.touches_listRows (d : Dev) (c : Fin 48) (e : Entry) (rows : List (List ℕ)) : d.Touches [.free] [] (Dev.listRows d c e rows).2 := by
  unfold Dev.listRows
  split
  · exact .snd (.set (.refl _) rfl)
  · exact .snd (.refl _)

theorem Dev.touches_modSep (d : Dev) (x : Fin 12) (f : SepDie → SepDie) : d.Touches [.sep] [] (Dev.modSep d x f) := by
  unfold Dev.modSep
  exact .set (.refl _) rfl

theorem Dev.touches_setInv (d : Dev) (i : LayerInv) : d.Touches [.layerInv] [] (Dev.setInv d i) := by
  unfold Dev.setInv
  exact .set (.refl _) rfl

theorem Dev.touches_writeStats (d : Dev) (x : Fin 12) (layer : ℕ) (frame : ℕ) (invs : ℕ) (words : List ℕ) : d.Touches [.acc, .mem, .snap, .twin] [] (Dev.writeStats d x layer frame invs words) := by
  unfold Dev.writeStats
  split
  · exact .refl _
  · refine Dev.Touches.hashed ?_ fun e3 he4 => ?_
    · exact .refl _
    · exact .next (he4) (Dev.touches_hbmWrite ..)

theorem Dev.touches_capStage (d : Dev) (k : Clock) (x : Fin 12) (r : SepRun) (v : CapVector) : d.Touches (.cores :: .frame :: .free :: .mem :: .sep :: .snap :: .twin :: .work :: faultParts) (coreFaultFlds.append (faultFlds.append devFaultFlds)) (Dev.capStage d k x r v) := by
  unfold Dev.capStage
  extract_lets -merge +onlyGivenNames v0
  extract_lets -merge +onlyGivenNames v1
  extract_lets -merge +onlyGivenNames v2
  extract_lets -merge +onlyGivenNames v3
  extract_lets -merge +onlyGivenNames v4
  split
  · extract_lets -merge +onlyGivenNames v8
    extract_lets -merge +onlyGivenNames d9
    have hd9 : d.Touches (.cores :: .frame :: .free :: .mem :: .sep :: .snap :: .twin :: .work :: faultParts) (coreFaultFlds.append (faultFlds.append devFaultFlds)) d9 := by
      refine .foldl ?_ fun e10 x11 _ => ?_
      · exact .refl _
      · split
        · exact .refl _
        · split
          · exact .refl _
          · extract_lets -merge +onlyGivenNames v16
            split
            next x17 d18 heq =>
              have hd18 : e10.Touches (.cores :: .frame :: .free :: .mem :: .sep :: .snap :: .twin :: .work :: faultParts) (coreFaultFlds.append (faultFlds.append devFaultFlds)) d18 := by
                refine .of_snd ?_ heq
                exact .next (.refl _) (Dev.touches_listRows ..)
              refine Dev.Touches.whileOpen ?_ fun e19 he20 => ?_
              · exact hd18
              · exact .next (.next (he20) (Dev.touches_writeList ..)) (Dev.touches_modCore ..)
    clear_value d9
    extract_lets -merge +onlyGivenNames v21
    extract_lets -merge +onlyGivenNames d22
    have hd22 : d.Touches (.cores :: .frame :: .free :: .mem :: .sep :: .snap :: .twin :: .work :: faultParts) (coreFaultFlds.append (faultFlds.append devFaultFlds)) d22 := by
      exact .next (.next (.next (hd9) (Dev.touches_count ..)) (Dev.touches_count ..)) (Dev.touches_count ..)
    clear_value d22
    extract_lets -merge +onlyGivenNames d23
    have hd23 : d.Touches (.cores :: .frame :: .free :: .mem :: .sep :: .snap :: .twin :: .work :: faultParts) (coreFaultFlds.append (faultFlds.append devFaultFlds)) d23 := by
      exact .next (.next (hd22) (Dev.touches_count ..)) (Dev.touches_addWork ..)
    clear_value d23
    extract_lets -merge +onlyGivenNames d24
    have hd24 : d.Touches (.cores :: .frame :: .free :: .mem :: .sep :: .snap :: .twin :: .work :: faultParts) (coreFaultFlds.append (faultFlds.append devFaultFlds)) d24 := by
      exact .next (hd23) (Dev.touches_count ..)
    clear_value d24
    extract_lets -merge +onlyGivenNames d25
    have hd25 : d.Touches (.cores :: .frame :: .free :: .mem :: .sep :: .snap :: .twin :: .work :: faultParts) (coreFaultFlds.append (faultFlds.append devFaultFlds)) d25 := by
      exact .next (hd24) (Dev.touches_modSep ..)
    clear_value d25
    extract_lets -merge +onlyGivenNames d26
    have hd26 : d.Touches (.cores :: .frame :: .free :: .mem :: .sep :: .snap :: .twin :: .work :: faultParts) (coreFaultFlds.append (faultFlds.append devFaultFlds)) d26 := by
      exact .next (hd25) (Dev.touches_workedTo ..)
    clear_value d26
    extract_lets -merge +onlyGivenNames v27
    refine .ite ?_ ?_
    · extract_lets -merge +onlyGivenNames d28
      have hd28 : d.Touches (.cores :: .frame :: .free :: .mem :: .sep :: .snap :: .twin :: .work :: faultParts) (coreFaultFlds.append (faultFlds.append devFaultFlds)) d28 := by
        unfold d28
        split
        · exact hd26
        · exact .next (hd26) (Dev.touches_touchW ..)
      clear_value d28
      extract_lets -merge +onlyGivenNames v31
      exact .next (.next (hd28) (Dev.touches_writeStats ..)) (Dev.touches_modSep ..)
    · exact .next (.next (hd26) (Dev.touches_carry ..)) (Dev.touches_modSep ..)

theorem Dev.touches_tryCap (k : Clock) (x : Fin 12) (n : Nat) (d : Dev) :
    d.Touches (.cores :: .frame :: .free :: .mem :: .sep :: .snap :: .twin :: .work :: faultParts) (coreFaultFlds.append (faultFlds.append devFaultFlds)) (Dev.tryCap k x n d) := by
  induction n generalizing d with
  | zero => exact .refl d
  | succ n ih =>
    unfold Dev.tryCap
    split
    · exact .refl d
    · split
      · exact .refl d
      · exact .next (.mono (Dev.touches_capStage ..)) (ih _)

theorem Dev.touches_runCaps (d : Dev) (k : Clock) (x : Fin 12) : d.Touches (.cores :: .frame :: .free :: .mem :: .sep :: .snap :: .twin :: .work :: faultParts) (coreFaultFlds.append (faultFlds.append devFaultFlds)) (Dev.runCaps d k x) := by
  unfold Dev.runCaps
  exact .next (.refl _) (Dev.touches_tryCap ..)

theorem Dev.touches_releaseSep (d : Dev) (c : Fin 48) (e : Entry) : d.MayTouch [] [] (Dev.releaseSep d c e).dev? := by
  unfold Dev.releaseSep
  refine .ite_started ?_ ?_
  · exact .none
  · split
    · next x0 heq0 =>
        have hx0 : d.MayTouch [] [] x0.dev? := by
          refine .of_optstarted ?_ heq0
          exact .nextSome (.refl _) (Dev.touches_checkTiles ..)
        exact hx0
    · exact .some (.refl _)

theorem Dev.touches_takeCopies (d : Dev) (k : Clock) (x : Fin 12) (cs : List (Fin 4 × Entry)) : d.Touches [.cores, .frame] [] (Dev.takeCopies d k x cs) := by
  unfold Dev.takeCopies
  extract_lets -merge +onlyGivenNames d0
  have hd0 : d.Touches [.cores, .frame] [] d0 := by
    unfold d0
    refine .ite ?_ ?_
    · exact .refl _
    · exact .next (.refl _) (Dev.touches_workedTo ..)
  clear_value d0
  refine .foldl ?_ fun e1 x2 _ => ?_
  · exact hd0
  · exact .next (.refl _) (Dev.touches_modCore ..)

theorem Dev.touches_startSep (d : Dev) (k : Clock) (x : Fin 12) (cs : List (Fin 4 × Entry)) : d.Touches (.cores :: .frame :: .free :: .layerInv :: .mem :: .sep :: .snap :: .twin :: .work :: faultParts) (coreFaultFlds.append (faultFlds.append devFaultFlds)) (Dev.startSep d k x cs) := by
  unfold Dev.startSep
  split
  · exact .refl _
  · extract_lets -merge +onlyGivenNames v4
    extract_lets -merge +onlyGivenNames v5
    extract_lets -merge +onlyGivenNames v6
    extract_lets -merge +onlyGivenNames v7
    extract_lets -merge +onlyGivenNames v8
    extract_lets -merge +onlyGivenNames v9
    extract_lets -merge +onlyGivenNames v10
    extract_lets -merge +onlyGivenNames v11
    extract_lets -merge +onlyGivenNames v12
    extract_lets -merge +onlyGivenNames v13
    extract_lets -merge +onlyGivenNames v14
    extract_lets -merge +onlyGivenNames d15
    have hd15 : d.Touches (.cores :: .frame :: .free :: .layerInv :: .mem :: .sep :: .snap :: .twin :: .work :: faultParts) (coreFaultFlds.append (faultFlds.append devFaultFlds)) d15 := by
      unfold d15
      refine .ite ?_ ?_
      · exact .next (.refl _) (Dev.touches_setInv ..)
      · exact .refl _
    clear_value d15
    extract_lets -merge +onlyGivenNames v16
    extract_lets -merge +onlyGivenNames d17
    have hd17 : d.Touches (.cores :: .frame :: .free :: .layerInv :: .mem :: .sep :: .snap :: .twin :: .work :: faultParts) (coreFaultFlds.append (faultFlds.append devFaultFlds)) d17 := by
      exact .next (hd15) (Dev.touches_modSep ..)
    clear_value d17
    extract_lets -merge +onlyGivenNames d18
    have hd18 : d.Touches (.cores :: .frame :: .free :: .layerInv :: .mem :: .sep :: .snap :: .twin :: .work :: faultParts) (coreFaultFlds.append (faultFlds.append devFaultFlds)) d18 := by
      exact .next (.next (.next (hd17) (Dev.touches_count ..)) (Dev.touches_count ..)) (Dev.touches_count ..)
    clear_value d18
    extract_lets -merge +onlyGivenNames d19
    have hd19 : d.Touches (.cores :: .frame :: .free :: .layerInv :: .mem :: .sep :: .snap :: .twin :: .work :: faultParts) (coreFaultFlds.append (faultFlds.append devFaultFlds)) d19 := by
      exact .next (.next (hd18) (Dev.touches_count ..)) (Dev.touches_addWork ..)
    clear_value d19
    extract_lets -merge +onlyGivenNames d20
    have hd20 : d.Touches (.cores :: .frame :: .free :: .layerInv :: .mem :: .sep :: .snap :: .twin :: .work :: faultParts) (coreFaultFlds.append (faultFlds.append devFaultFlds)) d20 := by
      refine .foldl ?_ fun e21 x22 _ => ?_
      · exact hd19
      · exact .next (.refl _) (Dev.touches_tileTraffic ..)
    clear_value d20
    exact .next (.next (hd20) (Dev.touches_takeCopies ..)) (Dev.touches_runCaps ..)

theorem Dev.touches_setPail (d : Dev) (h : ℕ) (st : PailState) : d.Touches [.pail] [] (Dev.setPail d h st) := by
  unfold Dev.setPail
  exact .set (.refl _) rfl

theorem Dev.touches_noteLow (d : Dev) (cls : ℕ) : d.Touches [.pail] [] (Dev.noteLow d cls) := by
  unfold Dev.noteLow
  exact .set (.refl _) rfl

theorem Dev.touches_pailFault (d : Dev) (k : Clock) (code : ℕ) (core : ℕ) (cls : ℕ) (state : ℕ) (handle : ℕ) : d.Touches faultParts (faultFlds.append pailFaultFlds) (Dev.pailFault d k code core cls state handle) := by
  unfold Dev.pailFault
  extract_lets -merge +onlyGivenNames d0
  have hd0 : d.Touches faultParts (faultFlds.append pailFaultFlds) d0 := by
    exact .next (.refl _) (Dev.touches_runFault ..)
  clear_value d0
  extract_lets -merge +onlyGivenNames v1
  refine .ite ?_ ?_
  · exact hd0
  · exact .next (.next (.next (.next (.next (hd0) (Dev.touches_wr ..)) (Dev.touches_wr ..)) (Dev.touches_wr ..)) (Dev.touches_wr ..)) (Dev.touches_wr ..)

theorem Dev.touches_takePail (d : Dev) (core : ℕ) (cls : ℕ) : d.MayTouch [.acc, .pail] [] (dev2 (Dev.takePail d core cls)) := by
  unfold Dev.takePail
  split
  · exact .none
  · split
    · exact .none
    · exact .some (.next (.next (.next (.refl _) (Dev.touches_setPail ..)) (Dev.touches_noteLow ..)) (Dev.touches_count ..))

theorem Dev.touches_freePail (d : Dev) (k : Clock) (core : ℕ) (h : ℕ) : d.Touches (.pail :: faultParts) (faultFlds.append pailFaultFlds) (Dev.freePail d k core h) := by
  unfold Dev.freePail
  extract_lets -merge +onlyGivenNames v0
  clear_value v0
  split
  · refine .ite ?_ ?_
    · exact .next (.next (.refl _) (Dev.touches_setPail ..)) (Dev.touches_count ..)
    · exact .next (.refl _) (Dev.touches_pailFault ..)
  · refine .ite ?_ ?_
    · exact .next (.next (.refl _) (Dev.touches_setPail ..)) (Dev.touches_count ..)
    · exact .next (.refl _) (Dev.touches_pailFault ..)
  · exact .next (.refl _) (Dev.touches_pailFault ..)
  · refine .ite ?_ ?_
    · exact .next (.refl _) (Dev.touches_pailFault ..)
    · exact .next (.refl _) (Dev.touches_pailFault ..)
  · exact .next (.refl _) (Dev.touches_pailFault ..)

theorem Dev.touches_sharePail (d : Dev) (k : Clock) (core : ℕ) (h : ℕ) (owner : ℕ) : d.Touches (.pail :: faultParts) (faultFlds.append pailFaultFlds) (Dev.sharePail d k core h owner) := by
  unfold Dev.sharePail
  extract_lets -merge +onlyGivenNames v0
  refine .ite ?_ ?_
  · exact .next (.next (.refl _) (Dev.touches_setPail ..)) (Dev.touches_count ..)
  · exact .next (.refl _) (Dev.touches_pailFault ..)

theorem Dev.touches_freeReturning (d : Dev) : d.Touches [.acc, .pail] [] (Dev.freeReturning d) := by
  unfold Dev.freeReturning
  extract_lets -merge +onlyGivenNames v0
  extract_lets -merge +onlyGivenNames v1 d2
  have hd2 : d.Touches [.acc, .pail] [] d2 := by
    exact .set (.refl _) rfl
  clear_value d2
  extract_lets -merge +onlyGivenNames d3
  have hd3 : d.Touches [.acc, .pail] [] d3 := by
    exact .next (hd2) (Dev.touches_count ..)
  clear_value d3
  exact .set (hd3) rfl

theorem Dev.touches_notePailWait (d : Dev) (k : Clock) : d.Touches [.acc, .pail] [] (Dev.notePailWait d k) := by
  unfold Dev.notePailWait
  split
  · exact .set (.refl _) rfl
  · exact .next (.set (.refl _) rfl) (Dev.touches_count ..)
  · exact .refl _

theorem Dev.touches_request (d : Dev) (core : ℕ) (r : PailReq) : d.Touches [.pail] [] (Dev.request d core r) := by
  unfold Dev.request
  exact .set (.refl _) rfl

theorem Dev.touches_pailWork (d : Dev) (n : ℕ) : d.Touches [.acc, .work] [] (Dev.pailWork d n) := by
  unfold Dev.pailWork
  exact .next (.next (.refl _) (Dev.touches_count ..)) (Dev.touches_addWork ..)

theorem Dev.touches_startPail (d : Dev) (k : Clock) (c : Fin 48) (e : Entry) : d.MayTouch [.pail] [] (Dev.startPail d k c e).dev? := by
  unfold Dev.startPail
  extract_lets -merge +onlyGivenNames v0
  split
  · exact .some (.next (.refl _) (Dev.touches_request ..))
  · exact .some (.next (.refl _) (Dev.touches_request ..))
  · exact .some (.next (.refl _) (Dev.touches_request ..))
  · exact .some (.refl _)

theorem Dev.touches_finish (d : Dev) (c : Fin 48) (seq : ℕ) (v : Scalar) : d.Touches [.cores] [] (Dev.finish d c seq v) := by
  unfold Dev.finish
  exact .next (.refl _) (Dev.touches_modCore ..)

theorem Dev.touches_pailTraffic (d : Dev) (s : Place) (write : Bool) (h : ℕ) (off : ℕ) (n : ℕ) : d.Touches [.work] [] (Dev.pailTraffic d s write h off n) := by
  unfold Dev.pailTraffic
  split
  · exact .refl _
  · split
    · refine .ite ?_ ?_
      · exact .next (.refl _) (Dev.touches_touchW ..)
      · exact .next (.refl _) (Dev.touches_touch ..)

theorem Dev.touches_putPail (d : Dev) (h : ℕ) (off : ℕ) (bs : List Byte) : d.Touches [.mem, .twin] [] (Dev.putPail d h off bs) := by
  unfold Dev.putPail
  split
  · exact .refl _
  · split
    · exact .next (.refl _) (Dev.touches_locWrite ..)

theorem Dev.touches_writeWords (d : Dev) (c : Fin 48) (t : TileDesc) (ws : List ℕ) : d.Touches [.acc, .mem, .snap, .twin] [] (Dev.writeWords d c t ws) := by
  unfold Dev.writeWords
  refine .foldl ?_ fun e0 x1 _ => ?_
  · exact .refl _
  · extract_lets -merge +onlyGivenNames v2
    split
    · exact .next (.refl _) (Dev.touches_writeTileIn ..)

theorem Dev.touches_fillCopy (d : Dev) (c : Fin 48) (layer : ℕ) (tdd : TileDesc) (cp : ChurnCopy) : d.Touches [.acc, .mem, .snap, .twin, .work] [] (Dev.fillCopy d c layer tdd cp) := by
  unfold Dev.fillCopy
  extract_lets -merge +onlyGivenNames v0
  extract_lets -merge +onlyGivenNames v1
  extract_lets -merge +onlyGivenNames d2
  have hd2 : d.Touches [.acc, .mem, .snap, .twin, .work] [] d2 := by
    refine .foldl ?_ fun e3 x4 _ => ?_
    · exact .refl _
    · split
      · exact .next (.next (.refl _) (Dev.touches_pailTraffic ..)) (Dev.touches_putPail ..)
  clear_value d2
  exact .next (hd2) (Dev.touches_writeWords ..)

theorem Dev.touches_churnReady (d : Dev) (k : Clock) (x : Fin 12) : d.Touches (.churn :: .cores :: .mem :: .snap :: .twin :: .work :: faultParts) (coreFaultFlds.append faultFlds) (Dev.churnReady d k x) := by
  unfold Dev.churnReady
  split
  · exact .refl _
  · refine .ite ?_ ?_
    · extract_lets -merge +onlyGivenNames v2
      extract_lets -merge +onlyGivenNames d3
      have hd3 : d.Touches (.churn :: .cores :: .mem :: .snap :: .twin :: .work :: faultParts) (coreFaultFlds.append faultFlds) d3 := by
        refine .foldl ?_ fun e4 x5 _ => ?_
        · exact .refl _
        · extract_lets -merge +onlyGivenNames v6
          split
          · exact .refl _
          · refine .ite ?_ ?_
            · refine .next ?_ (Dev.touches_modCore ..)
              refine Dev.Touches.hashed ?_ fun e9 he10 => ?_
              · exact .refl _
              · exact .next (he10) (Dev.touches_fillCopy ..)
            · exact .next (.refl _) (Dev.touches_insFault ..)
      clear_value d3
      extract_lets -merge +onlyGivenNames v11
      extract_lets -merge +onlyGivenNames d12
      have hd12 : d.Touches (.churn :: .cores :: .mem :: .snap :: .twin :: .work :: faultParts) (coreFaultFlds.append faultFlds) d12 := by
        exact .next (.next (hd3) (Dev.touches_count ..)) (Dev.touches_count ..)
      clear_value d12
      exact .set (hd12) rfl
    · exact .refl _

theorem Dev.touches_grantChurn (d : Dev) (x : Fin 12) (seq : ℕ) (copy : Fin 4) (h : ℕ) : d.Touches [.churn] [] (Dev.grantChurn d x seq copy h) := by
  unfold Dev.grantChurn
  extract_lets -merge +onlyGivenNames v0
  exact .set (.refl _) rfl

theorem Dev.touches_applyRequest (d : Dev) (k : Clock) (c : Fin 48) (r : PailReq) :
    d.Touches (.churn :: .cores :: .mem :: .pail :: .snap :: .twin :: .work :: faultParts) (coreFaultFlds.append (faultFlds.append (devFaultFlds.append pailFaultFlds))) (d.applyRequest k c r) := by
  have hw : d.Touches (.churn :: .cores :: .mem :: .pail :: .snap :: .twin :: .work :: faultParts) (coreFaultFlds.append (faultFlds.append (devFaultFlds.append pailFaultFlds))) (d.pailWork 1) := .mono (Dev.touches_pailWork ..)
  cases r with
  | alloc seq sd size =>
    unfold Dev.applyRequest
    dsimp only
    split
    next h e heq => exact (hw.next (.of_optsnd (Dev.touches_takePail ..) heq)).next (Dev.touches_finish ..)
    · exact (hw.next (Dev.touches_modCore ..)).next (Dev.touches_pailFault ..)
  | release seq h => exact (hw.next (Dev.touches_freePail ..)).next (Dev.touches_finish ..)
  | share seq h owner => exact (hw.next (Dev.touches_sharePail ..)).next (Dev.touches_finish ..)
  | churn seq cls =>
    unfold Dev.applyRequest
    dsimp only
    split
    next h e heq =>
      exact (((hw.next (.of_optsnd (Dev.touches_takePail ..) heq)).next (Dev.touches_count ..)).next (Dev.touches_grantChurn ..)).next
        (Dev.touches_churnReady ..)
    · exact hw.next (Dev.touches_pailFault ..)
  | dispatch _ hs =>
    exact Dev.touches_foldl d fun e h _ => .next (.mono (Dev.touches_pailWork ..)) (Dev.touches_freePail ..)

theorem Dev.touches_pailServe (d : Dev) (k : Clock) (r : PailReq) : d.Touches [.pail] [] (Dev.pailServe d k r) := by
  unfold Dev.pailServe
  exact .set (.refl _) rfl

theorem Dev.touches_takeLanding (d : Dev) (slot : ℕ) : d.MayTouch [.pail] [] (dev2 (Dev.takeLanding d slot)) := by
  unfold Dev.takeLanding
  split
  · extract_lets -merge +onlyGivenNames v2
    split
    · exact .none
    · exact .some (.next (.next (.refl _) (Dev.touches_setPail ..)) (Dev.touches_noteLow ..))
  · exact .none

theorem Dev.touches_freeLanding (d : Dev) (h : ℕ) : d.Touches [.pail] [] (Dev.freeLanding d h) := by
  unfold Dev.freeLanding
  exact .next (.refl _) (Dev.touches_setPail ..)

theorem Dev.touches_countRow (d : Dev) (c : Fin 48) (t : TileDesc) (r : ℕ) (w : ℕ) : d.Touches [.acc] [] (Dev.countRow d c t r w) := by
  unfold Dev.countRow
  refine .ite ?_ ?_
  · exact .refl _
  · extract_lets -merge +onlyGivenNames v0
    refine .ite ?_ ?_
    · exact .refl _
    · exact .next (.refl _) (Dev.touches_count ..)

theorem Dev.touches_rowTraffic (d : Dev) (s : Place) (c : Fin 48) (t : TileDesc) (write : Bool) (r w : Nat) :
    d.Touches [.acc, .fab, .out, .sec, .work] [] (d.rowTraffic s c t write r w) := by
  unfold Dev.rowTraffic
  extract_lets +onlyGivenNames n move
  have hmove : ∀ (e : Dev) (root o n : Nat), e.Touches [.acc, .fab, .out, .sec, .work] [] (move e root o n) := by
    intro e root o n
    dsimp only [move]
    split
    · exact .refl e
    · split
      · exact .mono (Dev.touches_touchW ..)
      · exact .mono (Dev.touches_touch ..)
  refine Dev.touches_foldl d fun e q _ => ?_
  dsimp only
  split
  · exact hmove ..
  · exact .next (hmove ..) (hmove ..)

theorem Dev.touches_writeRow (d : Dev) (stream : ℕ) (frame : ℕ) (c : Fin 48) (t : TileDesc) (r : ℕ) (w : ℕ) (x : RowData) : d.Touches [.acc, .mem, .snap, .twin] [] (Dev.writeRow d stream frame c t r w x) := by
  unfold Dev.writeRow
  extract_lets -merge +onlyGivenNames v0
  refine Dev.Touches.hashed ?_ fun e1 he2 => ?_
  · exact .refl _
  · refine .foldl ?_ fun e3 x4 _ => ?_
    · exact he2
    · extract_lets -merge +onlyGivenNames v5
      extract_lets -merge +onlyGivenNames v6
      extract_lets -merge +onlyGivenNames v7
      exact .next (.refl _) (Dev.touches_writeTileIn ..)

theorem Dev.touches_releaseChurn (d : Dev) (c : Fin 48) (e : Entry) : d.MayTouch [] [] (Dev.releaseChurn d c e).dev? := by
  unfold Dev.releaseChurn
  extract_lets -merge +onlyGivenNames v0
  extract_lets -merge +onlyGivenNames v1
  refine .ite_started ?_ ?_
  · exact .none
  · refine .ite_started ?_ ?_
    · extract_lets -merge +onlyGivenNames v2
      refine .ite_started ?_ ?_
      · exact .none
      · extract_lets -merge +onlyGivenNames v3
        split
        · next x4 heq0 =>
            have hx4 : d.MayTouch [] [] x4.dev? := by
              refine .of_optstarted ?_ heq0
              exact .nextSome (.refl _) (Dev.touches_checkTiles ..)
            exact hx4
        · exact .some (.refl _)
    · split
      · next x6 heq0 =>
          have hx6 : d.MayTouch [] [] x6.dev? := by
            refine .of_optstarted ?_ heq0
            exact .nextSome (.refl _) (Dev.touches_checkTiles ..)
          exact hx6
      · extract_lets -merge +onlyGivenNames v8
        split
        · next x9 heq0 =>
            have hx9 : d.MayTouch [] [] x9.dev? := by
              refine .of_optstarted ?_ heq0
              exact .nextSome (.refl _) (Dev.touches_checkTiles ..)
            exact hx9
        · exact .some (.refl _)

theorem Dev.touches_setRoute (d : Dev) (r : CopyRoute) : d.Touches [.xch] [] (Dev.setRoute d r) := by
  unfold Dev.setRoute
  exact .set (.refl _) rfl

theorem Dev.touches_listTraffic (d : Dev) (c : Fin 48) (t : TileDesc) (tokens : ℕ) : d.Touches [.acc, .fab, .out, .sec, .work] [] (Dev.listTraffic d c t tokens) := by
  unfold Dev.listTraffic
  refine .foldl ?_ fun e0 x1 _ => ?_
  · exact .refl _
  · exact .next (.refl _) (Dev.touches_rowTraffic ..)

theorem Dev.touches_startSort (d : Dev) (k : Clock) (x : Fin 12) (on : List (Fin 4 × Entry)) (layer : ℕ) (work : ℕ) : d.Touches (.churn :: .cores :: .fab :: .mem :: .pail :: .snap :: .twin :: .work :: .xch :: faultParts) (coreFaultFlds.append faultFlds) (Dev.startSort d k x on layer work) := by
  unfold Dev.startSort
  extract_lets -merge +onlyGivenNames v0
  extract_lets -merge +onlyGivenNames d1
  have hd1 : d.Touches (.churn :: .cores :: .fab :: .mem :: .pail :: .snap :: .twin :: .work :: .xch :: faultParts) (coreFaultFlds.append faultFlds) d1 := by
    refine .foldl ?_ fun e2 x3 _ => ?_
    · exact .refl _
    · exact .next (.refl _) (Dev.touches_setRoute ..)
  clear_value d1
  extract_lets -merge +onlyGivenNames d4
  have hd4 : d.Touches (.churn :: .cores :: .fab :: .mem :: .pail :: .snap :: .twin :: .work :: .xch :: faultParts) (coreFaultFlds.append faultFlds) d4 := by
    refine .foldl ?_ fun e5 x6 _ => ?_
    · exact hd1
    · split
      · exact .next (.refl _) (Dev.touches_listTraffic ..)
  clear_value d4
  extract_lets -merge +onlyGivenNames d9
  have hd9 : d.Touches (.churn :: .cores :: .fab :: .mem :: .pail :: .snap :: .twin :: .work :: .xch :: faultParts) (coreFaultFlds.append faultFlds) d9 := by
    exact .set (hd4) rfl
  clear_value d9
  extract_lets -merge +onlyGivenNames d10
  have hd10 : d.Touches (.churn :: .cores :: .fab :: .mem :: .pail :: .snap :: .twin :: .work :: .xch :: faultParts) (coreFaultFlds.append faultFlds) d10 := by
    refine .foldl ?_ fun e11 x12 _ => ?_
    · exact hd9
    · refine .foldl ?_ fun e13 x14 _ => ?_
      · exact .refl _
      · exact .next (.refl _) (Dev.touches_request ..)
  clear_value d10
  exact .next (hd10) (Dev.touches_churnReady ..)

theorem Dev.touches_restoreCopy (d : Dev) (c : Fin 48) (e : Entry) : d.Touches [.acc, .fab, .mem, .out, .sec, .snap, .twin, .work] [] (Dev.restoreCopy d c e) := by
  unfold Dev.restoreCopy
  extract_lets -merge +onlyGivenNames v0
  extract_lets -merge +onlyGivenNames v1
  extract_lets -merge +onlyGivenNames d2
  have hd2 : d.Touches [.acc, .fab, .mem, .out, .sec, .snap, .twin, .work] [] d2 := by
    exact .next (.refl _) (Dev.touches_listTraffic ..)
  clear_value d2
  refine .foldl ?_ fun e3 x4 _ => ?_
  · exact hd2
  · split
    · extract_lets -merge +onlyGivenNames d7
      have hd7 : e3.Touches [.acc, .fab, .mem, .out, .sec, .snap, .twin, .work] [] d7 := by
        unfold d7
        split
        · exact .next (.refl _) (Dev.touches_writeRow ..)
        · exact .next (.next (.next (.refl _) (Dev.touches_countRow ..)) (Dev.touches_rowTraffic ..)) (Dev.touches_writeRow ..)
      clear_value d7
      exact .next (hd7) (Dev.touches_rowTraffic ..)

theorem Dev.touches_startChurn (d : Dev) (k : Clock) (x : Fin 12) (cs : List (Fin 4 × Entry)) : d.Touches (.churn :: .cores :: .fab :: .frame :: .mem :: .pail :: .snap :: .twin :: .work :: .xch :: faultParts) (coreFaultFlds.append faultFlds) (Dev.startChurn d k x cs) := by
  unfold Dev.startChurn
  split
  · exact .refl _
  · extract_lets -merge +onlyGivenNames v4
    extract_lets -merge +onlyGivenNames v5
    extract_lets -merge +onlyGivenNames v6
    extract_lets -merge +onlyGivenNames d7
    have hd7 : d.Touches (.churn :: .cores :: .fab :: .frame :: .mem :: .pail :: .snap :: .twin :: .work :: .xch :: faultParts) (coreFaultFlds.append faultFlds) d7 := by
      exact .next (.next (.refl _) (Dev.touches_count ..)) (Dev.touches_addWork ..)
    clear_value d7
    extract_lets -merge +onlyGivenNames d8
    have hd8 : d.Touches (.churn :: .cores :: .fab :: .frame :: .mem :: .pail :: .snap :: .twin :: .work :: .xch :: faultParts) (coreFaultFlds.append faultFlds) d8 := by
      exact .next (hd7) (Dev.touches_takeCopies ..)
    clear_value d8
    refine .ite ?_ ?_
    · refine .ite ?_ ?_
      · exact hd8
      · exact .next (hd8) (Dev.touches_startSort ..)
    · refine .foldl ?_ fun e9 x10 _ => ?_
      · exact hd8
      · exact .next (.next (.refl _) (Dev.touches_restoreCopy ..)) (Dev.touches_modCore ..)

theorem Dev.touches_modXch (d : Dev) (f : Xch → Xch) : d.Touches [.xch] [] (Dev.modXch d f) := by
  unfold Dev.modXch
  exact .set (.refl _) rfl

theorem Dev.touches_modHost (d : Dev) (slot : ℕ) (n : ℕ) (f : XchHost → XchHost) : d.Touches [.xch] [] (Dev.modHost d slot n f) := by
  unfold Dev.modHost
  extract_lets -merge +onlyGivenNames v0
  exact .next (.refl _) (Dev.touches_modXch ..)

theorem Dev.touches_modSend (d : Dev) (slot : ℕ) (n : ℕ) (f : XchSend → XchSend) : d.Touches [.xch] [] (Dev.modSend d slot n f) := by
  unfold Dev.modSend
  extract_lets -merge +onlyGivenNames v0
  exact .next (.refl _) (Dev.touches_modXch ..)

theorem Dev.touches_endMark (d : Dev) (slot : ℕ) (rank : ℕ) (ret : Bool) : d.Touches [.xch] [] (Dev.endMark d slot rank ret) := by
  unfold Dev.endMark
  extract_lets -merge +onlyGivenNames v0
  exact .next (.refl _) (Dev.touches_modXch ..)

theorem Dev.touches_xchWork (d : Dev) (fd : ℕ) (n : ℕ) : d.Touches [.acc, .work] [] (Dev.xchWork d fd n) := by
  unfold Dev.xchWork
  exact .next (.next (.refl _) (Dev.touches_count ..)) (Dev.touches_addWork ..)

theorem Dev.touches_sendStream (d : Dev) (k : Clock) (g : ℕ) (slot : ℕ) (rank : ℕ) (ret : Bool) (us : List XchUnit) (fmt : ℕ) (w : ℕ) : d.Touches [.acc, .fab, .out, .sec, .work] [] (Dev.sendStream d k g slot rank ret us fmt w) := by
  unfold Dev.sendStream
  extract_lets -merge +onlyGivenNames v0
  extract_lets -merge +onlyGivenNames v1
  extract_lets -merge +onlyGivenNames v2
  extract_lets -merge +onlyGivenNames v3
  extract_lets -merge +onlyGivenNames v4
  extract_lets -merge +onlyGivenNames v5
  extract_lets -merge +onlyGivenNames v6
  extract_lets -merge +onlyGivenNames d7
  have hd7 : d.Touches [.acc, .fab, .out, .sec, .work] [] d7 := by
    refine .foldl ?_ fun e8 x9 _ => ?_
    · exact .refl _
    · exact .next (.refl _) (Dev.touches_originate ..)
  clear_value d7
  extract_lets -merge +onlyGivenNames v10
  extract_lets -merge +onlyGivenNames d11
  have hd11 : d.Touches [.acc, .fab, .out, .sec, .work] [] d11 := by
    exact .next (hd7) (Dev.touches_originate ..)
  clear_value d11
  exact .next (.next (hd11) (Dev.touches_count ..)) (Dev.touches_xchWork ..)

theorem Dev.touches_sendStreams (d : Dev) (k : Clock) (g : ℕ) (slot : ℕ) (ret : Bool) (us : List XchUnit) (fmt : ℕ) (w : ℕ) : d.Touches [.acc, .fab, .out, .sec, .work] [] (Dev.sendStreams d k g slot ret us fmt w) := by
  unfold Dev.sendStreams
  refine .foldl ?_ fun e0 x1 _ => ?_
  · exact .refl _
  · exact .next (.refl _) (Dev.touches_sendStream ..)

theorem Dev.touches_land (d : Dev) (fd slot : Nat) (ret : Bool) (unit : Nat) (bs : List Byte) :
    d.MayTouch [.acc, .mem, .pail, .snap, .twin, .work, .xch] [] (dev3 (d.land fd slot ret unit bs)) := by
  have hat : ∀ (x : Dev) (g i : Nat), x.Touches [.acc, .mem, .pail, .snap, .twin, .work, .xch] []
      ((x.putPail g (i * unit) bs).pailTraffic (.fabric fd) true g (i * unit) unit) := fun x g i =>
    .next (.mono (Dev.touches_putPail ..)) (Dev.touches_pailTraffic ..)
  unfold Dev.land
  dsimp only
  split
  · exact .some (.next (.mono (Dev.touches_modXch ..)) (hat ..))
  · split
    · exact .none
    · split
      · exact .none
      · next heq =>
        exact .some (.next (.next (.mono (.of_optsnd (Dev.touches_takeLanding ..) heq)) (Dev.touches_modXch ..)) (hat ..))

theorem Dev.touches_unland (d : Dev) (l : Landed) : d.Touches [.pail, .xch] [] (Dev.unland d l) := by
  unfold Dev.unland
  split
  · exact .refl _
  · refine .ite ?_ ?_
    · exact .next (.next (.refl _) (Dev.touches_modXch ..)) (Dev.touches_freeLanding ..)
    · exact .next (.refl _) (Dev.touches_modXch ..)

theorem Dev.touches_writeRecord (d : Dev) (s : XchSlot) (l : XchLayer) (n : ℕ) (fd : ℕ) (li : ℕ) (k : ℕ) (bs : List Byte) : d.Touches [.acc, .mem, .snap, .twin, .work] [] (Dev.writeRecord d s l n fd li k bs) := by
  unfold Dev.writeRecord
  extract_lets -merge +onlyGivenNames v0
  refine .next ?_ (Dev.touches_touchW ..)
  refine Dev.Touches.hashed ?_ fun e1 he2 => ?_
  · exact .refl _
  · exact .next (he2) (Dev.touches_hbmWrite ..)

theorem Dev.touches_putRow (d : Dev) (k : Clock) (fd : ℕ) (c : Fin 48) (e : Entry) (r : ℕ) (w : ℕ) (x : RowData) : d.Touches (.fab :: .mem :: .snap :: .twin :: .work :: faultParts) (coreFaultFlds.append faultFlds) (Dev.putRow d k fd c e r w x) := by
  unfold Dev.putRow
  refine .ite ?_ ?_
  · exact .next (.next (.refl _) (Dev.touches_writeRow ..)) (Dev.touches_rowTraffic ..)
  · exact .next (.refl _) (Dev.touches_insFault ..)

theorem Dev.touches_moveLanded (d : Dev) (k : Clock) (fd : ℕ) (c : Fin 48) (e : Entry) (r : ℕ) (fmt : ℕ) (w : ℕ) (x : Landed) : d.Touches (.fab :: .mem :: .pail :: .snap :: .twin :: .work :: .xch :: faultParts) (coreFaultFlds.append faultFlds) (Dev.moveLanded d k fd c e r fmt w x) := by
  unfold Dev.moveLanded
  exact .next (.next (.next (.refl _) (Dev.touches_pailTraffic ..)) (Dev.touches_putRow ..)) (Dev.touches_unland ..)

theorem Dev.touches_placeHostRow (d : Dev) (k : Clock) (s : XchSlot) (l : XchLayer) (n : ℕ) (h : HostRow) (x : RowData) : d.Touches (.fab :: .mem :: .snap :: .twin :: .work :: faultParts) (coreFaultFlds.append faultFlds) (Dev.placeHostRow d k s l n h x) := by
  unfold Dev.placeHostRow
  split
  · extract_lets -merge +onlyGivenNames v2
    split
    · exact .refl _
    · exact .next (.refl _) (Dev.touches_putRow ..)

theorem Dev.touches_deliverUnit (d : Dev) (k : Clock) (s : XchSlot) (l : XchLayer) (rank gen : Nat) (bs : List Byte) :
    d.Touches (.fab :: .mem :: .pail :: .snap :: .twin :: .work :: .xch :: faultParts) (coreFaultFlds.append (faultFlds.append (devFaultFlds.append pailFaultFlds))) (d.deliverUnit k s l rank gen bs) := by
  unfold Dev.deliverUnit
  extract_lets +onlyGivenNames fd n record x d1 d2 row cap li
  have h2 : d.Touches (.fab :: .mem :: .pail :: .snap :: .twin :: .work :: .xch :: faultParts) (coreFaultFlds.append (faultFlds.append (devFaultFlds.append pailFaultFlds))) d2 :=
    .next (.next (.mono (Dev.touches_count ..)) (Dev.touches_xchWork ..)) (Dev.touches_modHost ..)
  clear_value d2
  split
  · exact h2.next (Dev.touches_count ..)
  · extract_lets +onlyGivenNames h
    split
    · exact h2.next (Dev.touches_count ..)
    · extract_lets +onlyGivenNames hr d3
      have h3 : d.Touches (.fab :: .mem :: .pail :: .snap :: .twin :: .work :: .xch :: faultParts) (coreFaultFlds.append (faultFlds.append (devFaultFlds.append pailFaultFlds))) d3 := (h2.next (Dev.touches_modHost ..)).next (Dev.touches_writeRecord ..)
      clear_value d3
      split
      · exact h3.next (Dev.touches_placeHostRow ..)
      · split
        · exact h3.next (Dev.touches_pailFault ..)
        · next heq =>
          exact ((h3.next (.of_optsnd2 (Dev.touches_land ..) heq)).next (Dev.touches_modHost ..)).next (Dev.touches_count ..)

theorem Dev.touches_zeroHostRow (d : Dev) (k : Clock) (s : XchSlot) (l : XchLayer) (n : ℕ) (c : Fin 48) (e : Entry) (li : ℕ) (base : ℕ) (row : ℕ) : d.Touches (.fab :: .mem :: .snap :: .twin :: .work :: faultParts) (coreFaultFlds.append faultFlds) (Dev.zeroHostRow d k s l n c e li base row) := by
  unfold Dev.zeroHostRow
  extract_lets -merge +onlyGivenNames v0
  exact .next (.next (.next (.refl _) (Dev.touches_putRow ..)) (Dev.touches_writeRecord ..)) (Dev.touches_count ..)

theorem Dev.touches_recvReady (d : Dev) (k : Clock) (s : XchSlot) (l : XchLayer) (n : ℕ) (c : Fin 48) : d.Touches (.cores :: .fab :: .mem :: .snap :: .twin :: .work :: faultParts) (coreFaultFlds.append faultFlds) (Dev.recvReady d k s l n c) := by
  unfold Dev.recvReady
  split
  · exact .refl _
  · extract_lets -merge +onlyGivenNames v2
    refine .ite ?_ ?_
    · exact .refl _
    · extract_lets -merge +onlyGivenNames v3
      extract_lets -merge +onlyGivenNames d4
      have hd4 : d.Touches (.cores :: .fab :: .mem :: .snap :: .twin :: .work :: faultParts) (coreFaultFlds.append faultFlds) d4 := by
        refine .foldl ?_ fun e5 x6 _ => ?_
        · exact .refl _
        · split
          · exact .next (.refl _) (Dev.touches_zeroHostRow ..)
      clear_value d4
      exact .next (hd4) (Dev.touches_modCore ..)

theorem Dev.touches_recvAll (d : Dev) (k : Clock) (s : XchSlot) (l : XchLayer) (n : ℕ) : d.Touches (.cores :: .fab :: .mem :: .snap :: .twin :: .work :: faultParts) (coreFaultFlds.append faultFlds) (Dev.recvAll d k s l n) := by
  unfold Dev.recvAll
  refine .foldl ?_ fun e0 x1 _ => ?_
  · exact .refl _
  · exact .next (.refl _) (Dev.touches_recvReady ..)

theorem Dev.touches_hostAnswer (d : Dev) (k : Clock) (s : XchSlot) (l : XchLayer) (n : ℕ) : d.Touches [.acc, .fab, .out, .sec, .work, .xch] [] (Dev.hostAnswer d k s l n) := by
  unfold Dev.hostAnswer
  extract_lets -merge +onlyGivenNames v0
  extract_lets -merge +onlyGivenNames v1
  refine .ite ?_ ?_
  · exact .refl _
  · exact .next (.next (.refl _) (Dev.touches_modHost ..)) (Dev.touches_sendStreams ..)

theorem Dev.touches_hostOver (d : Dev) (s : XchSlot) (l : XchLayer) (n : ℕ) : d.Touches [.pail, .xch] [] (Dev.hostOver d s l n) := by
  unfold Dev.hostOver
  split
  · exact .refl _
  · refine .ite ?_ ?_
    · refine .next ?_ (Dev.touches_modXch ..)
      refine .foldl ?_ fun e2 x3 _ => ?_
      · exact .refl _
      · exact .next (.refl _) (Dev.touches_unland ..)
    · exact .refl _

theorem Dev.touches_hostDone (d : Dev) (k : Clock) (s : XchSlot) (l : XchLayer) (n : ℕ) : d.Touches [.acc, .fab, .out, .pail, .sec, .work, .xch] [] (Dev.hostDone d k s l n) := by
  unfold Dev.hostDone
  exact .next (.next (.refl _) (Dev.touches_hostAnswer ..)) (Dev.touches_hostOver ..)

theorem Dev.touches_dropLanded (d : Dev) (l : XchLayer) (x : Landed) : d.Touches [.acc, .pail, .xch] [] (Dev.dropLanded d l x) := by
  unfold Dev.dropLanded
  exact .next (.next (.refl _) (Dev.touches_unland ..)) (Dev.touches_count ..)

theorem Dev.touches_rowsWork (d : Dev) (l : XchLayer) (fmt : ℕ) (ranks : List ℕ) : d.Touches [.work] [] (Dev.rowsWork d l fmt ranks) := by
  unfold Dev.rowsWork
  refine .foldl ?_ fun e0 x1 _ => ?_
  · exact .refl _
  · exact .next (.refl _) (Dev.touches_addWork ..)

theorem Dev.touches_dispatchBad (d : Dev) (c : Fin 48) (e : Entry) (s : XchSlot) (l : XchLayer) : d.MayTouch [] [] (devS (Dev.dispatchBad d c e s l)) := by
  unfold Dev.dispatchBad
  split
  · next x0 heq0 =>
      have hx0 : d.MayTouch [] [] x0.dev? := by
        refine .of_optstarted ?_ heq0
        exact .nextSome (.refl _) (Dev.touches_checkTiles ..)
      exact hx0
  · split
    · exact .none
    · exact .nextSome (.refl _) (Dev.touches_checkTiles ..)

theorem Dev.touches_dispatchTraffic (d : Dev) (c : Fin 48) (e : Entry) (l : XchLayer) (recs : List (ℕ × ℕ)) (hs : List ℕ) : d.Touches [.acc, .fab, .out, .sec, .work] [] (Dev.dispatchTraffic d c e l recs hs) := by
  unfold Dev.dispatchTraffic
  extract_lets -merge +onlyGivenNames v0
  extract_lets -merge +onlyGivenNames d1
  have hd1 : d.Touches [.acc, .fab, .out, .sec, .work] [] d1 := by
    refine .foldl ?_ fun e2 x3 _ => ?_
    · exact .refl _
    · split
      · split
        · exact .refl _
        · exact .next (.refl _) (Dev.touches_touch ..)
  clear_value d1
  extract_lets -merge +onlyGivenNames d9
  have hd9 : d.Touches [.acc, .fab, .out, .sec, .work] [] d9 := by
    refine .foldl ?_ fun e10 x11 _ => ?_
    · exact hd1
    · exact .next (.refl _) (Dev.touches_pailTraffic ..)
  clear_value d9
  refine .foldl ?_ fun e12 x13 _ => ?_
  · exact hd9
  · exact .next (.next (.refl _) (Dev.touches_countRow ..)) (Dev.touches_rowTraffic ..)

theorem Dev.touches_startDispatch (d : Dev) (k : Clock) (c : Fin 48) (e : Entry) : d.MayTouch [.acc, .fab, .out, .sec, .work, .xch] [] (Dev.startDispatch d k c e).dev? := by
  unfold Dev.startDispatch
  split
  · exact .none
  · split
    · next x3 heq0 =>
        have hx3 : d.MayTouch [.acc, .fab, .out, .sec, .work, .xch] [] x3.dev? := by
          refine .of_optstarted ?_ heq0
          exact .nextSome (.refl _) (Dev.touches_dispatchBad ..)
        exact hx3
    · exact .none
    · split
      · extract_lets -merge +onlyGivenNames v10
        extract_lets -merge +onlyGivenNames v11
        extract_lets -merge +onlyGivenNames d12
        have hd12 : d.Touches [.acc, .fab, .out, .sec, .work, .xch] [] d12 := by
          exact .next (.refl _) (Dev.touches_modSend ..)
        clear_value d12
        extract_lets -merge +onlyGivenNames d13
        have hd13 : d.Touches [.acc, .fab, .out, .sec, .work, .xch] [] d13 := by
          exact .next (.next (.next (hd12) (Dev.touches_count ..)) (Dev.touches_xchWork ..)) (Dev.touches_dispatchTraffic ..)
        clear_value d13
        exact .some (hd13)

theorem Dev.touches_xchOffWork (d : Dev) (c : Fin 48) (e : Entry) : d.Touches [.work] [] (Dev.xchOffWork d c e) := by
  unfold Dev.xchOffWork
  split
  · exact .refl _
  · split
    · refine .ite ?_ ?_
      · exact .refl _
      · split
        · exact .next (.next (.refl _) (Dev.touches_addWork ..)) (Dev.touches_rowsWork ..)
    · exact .next (.refl _) (Dev.touches_rowsWork ..)
    · exact .refl _

theorem Dev.touches_startRecv (d : Dev) (k : Clock) (c : Fin 48) (e : Entry) : d.MayTouch (.fab :: .mem :: .pail :: .snap :: .twin :: .work :: .xch :: faultParts) (coreFaultFlds.append faultFlds) (Dev.startRecv d k c e).dev? := by
  unfold Dev.startRecv
  split
  · exact .none
  · extract_lets -merge +onlyGivenNames v3
    refine .ite_started ?_ ?_
    · exact .none
    · refine .ite_started ?_ ?_
      · exact .none
      · split
        · next x4 heq0 =>
            have hx4 : d.MayTouch (.fab :: .mem :: .pail :: .snap :: .twin :: .work :: .xch :: faultParts) (coreFaultFlds.append faultFlds) x4.dev? := by
              refine .of_optstarted ?_ heq0
              exact .nextSome (.refl _) (Dev.touches_checkTiles ..)
            exact hx4
        · split
          · exact .none
          · extract_lets -merge +onlyGivenNames v8
            extract_lets -merge +onlyGivenNames v9
            split
            · exact .none
            · extract_lets -merge +onlyGivenNames d13
              have hd13 : d.Touches (.fab :: .mem :: .pail :: .snap :: .twin :: .work :: .xch :: faultParts) (coreFaultFlds.append faultFlds) d13 := by
                exact .next (.refl _) (Dev.touches_modHost ..)
              clear_value d13
              extract_lets -merge +onlyGivenNames d14
              have hd14 : d.Touches (.fab :: .mem :: .pail :: .snap :: .twin :: .work :: .xch :: faultParts) (coreFaultFlds.append faultFlds) d14 := by
                refine .foldl ?_ fun e15 x16 _ => ?_
                · exact hd13
                · extract_lets -merge +onlyGivenNames v17
                  extract_lets -merge +onlyGivenNames v18
                  exact .next (.refl _) (Dev.touches_moveLanded ..)
              clear_value d14
              exact .some (hd14)

theorem Dev.touches_startReturn (d : Dev) (k : Clock) (c : Fin 48) (e : Entry) : d.MayTouch [.acc, .fab, .out, .sec, .work, .xch] [] (Dev.startReturn d k c e).dev? := by
  unfold Dev.startReturn
  split
  · exact .none
  · split
    · exact .none
    · extract_lets -merge +onlyGivenNames v5
      extract_lets -merge +onlyGivenNames v6
      split
      · next x7 heq0 =>
          have hx7 : d.MayTouch [.acc, .fab, .out, .sec, .work, .xch] [] x7.dev? := by
            refine .of_optstarted ?_ heq0
            exact .nextSome (.refl _) (Dev.touches_checkTiles ..)
          exact hx7
      · extract_lets -merge +onlyGivenNames v9
        extract_lets -merge +onlyGivenNames d10
        have hd10 : d.Touches [.acc, .fab, .out, .sec, .work, .xch] [] d10 := by
          exact .next (.refl _) (Dev.touches_modHost ..)
        clear_value d10
        extract_lets -merge +onlyGivenNames d11
        have hd11 : d.Touches [.acc, .fab, .out, .sec, .work, .xch] [] d11 := by
          refine .foldl ?_ fun e12 x13 _ => ?_
          · exact hd10
          · exact .next (.next (.refl _) (Dev.touches_countRow ..)) (Dev.touches_rowTraffic ..)
        clear_value d11
        exact .some (hd11)

theorem Dev.touches_zeroRows (d : Dev) (k : Clock) (l : XchLayer) (c : Fin 48) (e : Entry) (p : SendPart) (rows : List ℕ) : d.Touches (.fab :: .mem :: .snap :: .twin :: .work :: faultParts) (coreFaultFlds.append faultFlds) (Dev.zeroRows d k l c e p rows) := by
  unfold Dev.zeroRows
  refine .foldl ?_ fun e0 x1 _ => ?_
  · exact .refl _
  · exact .next (.refl _) (Dev.touches_putRow ..)

theorem Dev.touches_combineReady (d : Dev) (k : Clock) (s : XchSlot) (l : XchLayer) (n : ℕ) (c : Fin 48) : d.Touches (.cores :: .fab :: .mem :: .snap :: .twin :: .work :: faultParts) (coreFaultFlds.append faultFlds) (Dev.combineReady d k s l n c) := by
  unfold Dev.combineReady
  split
  · exact .refl _
  · extract_lets -merge +onlyGivenNames v2
    refine .ite ?_ ?_
    · exact .refl _
    · extract_lets -merge +onlyGivenNames v3
      split
      · extract_lets -merge +onlyGivenNames v6
        extract_lets -merge +onlyGivenNames d7
        have hd7 : d.Touches (.cores :: .fab :: .mem :: .snap :: .twin :: .work :: faultParts) (coreFaultFlds.append faultFlds) d7 := by
          exact .next (.refl _) (Dev.touches_zeroRows ..)
        clear_value d7
        extract_lets -merge +onlyGivenNames d8
        have hd8 : d.Touches (.cores :: .fab :: .mem :: .snap :: .twin :: .work :: faultParts) (coreFaultFlds.append faultFlds) d8 := by
          refine .foldl ?_ fun e9 x10 _ => ?_
          · exact hd7
          · exact .next (.refl _) (Dev.touches_count ..)
        clear_value d8
        exact .next (hd8) (Dev.touches_modCore ..)

theorem Dev.touches_startCombine (d : Dev) (k : Clock) (c : Fin 48) (e : Entry) : d.MayTouch (.fab :: .mem :: .pail :: .snap :: .twin :: .work :: .xch :: faultParts) (coreFaultFlds.append faultFlds) (Dev.startCombine d k c e).dev? := by
  unfold Dev.startCombine
  split
  · exact .none
  · extract_lets -merge +onlyGivenNames v3
    extract_lets -merge +onlyGivenNames v4
    extract_lets -merge +onlyGivenNames v5
    refine .ite_started ?_ ?_
    · exact .none
    · split
      · next x6 heq0 =>
          have hx6 : d.MayTouch (.fab :: .mem :: .pail :: .snap :: .twin :: .work :: .xch :: faultParts) (coreFaultFlds.append faultFlds) x6.dev? := by
            refine .of_optstarted ?_ heq0
            exact .nextSome (.refl _) (Dev.touches_checkTiles ..)
          exact hx6
      · clear_value v3
        split
        · refine .ite_started ?_ ?_
          · exact .none
          · exact .some (.refl _)
        · extract_lets -merge +onlyGivenNames v10
          extract_lets -merge +onlyGivenNames v11
          split
          · exact .none
          · extract_lets -merge +onlyGivenNames d15
            have hd15 : d.Touches (.fab :: .mem :: .pail :: .snap :: .twin :: .work :: .xch :: faultParts) (coreFaultFlds.append faultFlds) d15 := by
              exact .next (.refl _) (Dev.touches_modSend ..)
            clear_value d15
            refine .ite_started ?_ ?_
            · split
              · refine .some ?_
                refine .next ?_ (Dev.touches_zeroRows ..)
                refine .foldl ?_ fun e18 x19 _ => ?_
                · exact hd15
                · exact .next (.refl _) (Dev.touches_dropLanded ..)
            · extract_lets -merge +onlyGivenNames d20
              have hd20 : d.Touches (.fab :: .mem :: .pail :: .snap :: .twin :: .work :: .xch :: faultParts) (coreFaultFlds.append faultFlds) d20 := by
                refine .foldl ?_ fun e21 x22 _ => ?_
                · exact hd15
                · extract_lets -merge +onlyGivenNames v23
                  exact .next (.next (.refl _) (Dev.touches_moveLanded ..)) (Dev.touches_modSend ..)
              clear_value d20
              exact .some (hd20)

theorem Dev.touches_startXch (d : Dev) (k : Clock) (c : Fin 48) (e : Entry) : d.MayTouch (.fab :: .mem :: .pail :: .snap :: .twin :: .work :: .xch :: faultParts) (coreFaultFlds.append faultFlds) (Dev.startXch d k c e).dev? := by
  unfold Dev.startXch
  split
  · exact .nextSome (.refl _) (Dev.touches_startDispatch ..)
  · exact .nextSome (.refl _) (Dev.touches_startRecv ..)
  · exact .nextSome (.refl _) (Dev.touches_startReturn ..)
  · exact .nextSome (.refl _) (Dev.touches_startCombine ..)

theorem Dev.touches_afterXchStart (d : Dev) (k : Clock) (c : Fin 48) (e : Entry) : d.Touches (.cores :: .fab :: .mem :: .snap :: .twin :: .work :: faultParts) (coreFaultFlds.append faultFlds) (Dev.afterXchStart d k c e) := by
  unfold Dev.afterXchStart
  split
  · exact .refl _
  · split
    · exact .refl _
    · exact .next (.next (.refl _) (Dev.touches_recvReady ..)) (Dev.touches_combineReady ..)

theorem Dev.touches_dropHeld (d : Dev) (l : XchLayer) (slot : ℕ) (n : ℕ) : d.Touches [.acc, .pail, .xch] [] (Dev.dropHeld d l slot n) := by
  unfold Dev.dropHeld
  extract_lets -merge +onlyGivenNames v0
  extract_lets -merge +onlyGivenNames v1
  extract_lets -merge +onlyGivenNames d2
  have hd2 : d.Touches [.acc, .pail, .xch] [] d2 := by
    refine .foldl ?_ fun e3 x4 _ => ?_
    · exact .refl _
    · exact .next (.refl _) (Dev.touches_dropLanded ..)
  clear_value d2
  exact .next (hd2) (Dev.touches_modSend ..)

theorem Dev.touches_sendDone (d : Dev) (s : XchSlot) (l : XchLayer) (n : ℕ) : d.Touches [.acc, .pail, .xch] [] (Dev.sendDone d s l n) := by
  unfold Dev.sendDone
  split
  · exact .refl _
  · refine .ite ?_ ?_
    · refine .next ?_ (Dev.touches_modXch ..)
      refine .foldl ?_ fun e2 x3 _ => ?_
      · exact .refl _
      · exact .next (.refl _) (Dev.touches_dropLanded ..)
    · exact .refl _

theorem Dev.touches_retireDispatch (d : Dev) (k : Clock) (s : XchSlot) (l : XchLayer) (c : Fin 48) (e : Entry) (n : ℕ) : d.Touches [.acc, .fab, .out, .sec, .work, .xch] [] (Dev.retireDispatch d k s l c e n) := by
  unfold Dev.retireDispatch
  extract_lets -merge +onlyGivenNames d0
  have hd0 : d.Touches [.acc, .fab, .out, .sec, .work, .xch] [] d0 := by
    unfold d0
    refine .ite ?_ ?_
    · exact .refl _
    · exact .next (.refl _) (Dev.touches_modSend ..)
  clear_value d0
  extract_lets -merge +onlyGivenNames d1
  have hd1 : d.Touches [.acc, .fab, .out, .sec, .work, .xch] [] d1 := by
    exact .next (hd0) (Dev.touches_modSend ..)
  clear_value d1
  extract_lets -merge +onlyGivenNames v2
  refine .ite ?_ ?_
  · exact .next (.next (hd1) (Dev.touches_modSend ..)) (Dev.touches_sendStreams ..)
  · exact hd1

theorem Dev.touches_markEmptySlots (d : Dev) (k : Clock) : d.Touches [.acc, .fab, .out, .sec, .work] [] (Dev.markEmptySlots d k) := by
  unfold Dev.markEmptySlots
  split
  · exact .refl _
  · refine .foldl ?_ fun e2 x3 _ => ?_
    · exact .refl _
    · split
      · exact .refl _
      · exact .next (.refl _) (Dev.touches_sendStreams ..)

theorem Dev.touches_freeList (d : Dev) (c : Fin 48) (e : Entry) (s : XchSlot) (l : XchLayer) : d.Touches [.pail] [] (Dev.freeList d c e s l) := by
  unfold Dev.freeList
  refine .ite ?_ ?_
  · extract_lets -merge +onlyGivenNames v0
    refine .ite ?_ ?_
    · exact .refl _
    · exact .next (.refl _) (Dev.touches_request ..)
  · exact .refl _

theorem Dev.touches_retireXch (d : Dev) (k : Clock) (c : Fin 48) (e : Entry) : d.Touches [.acc, .fab, .out, .pail, .sec, .work, .xch] [] (Dev.retireXch d k c e) := by
  unfold Dev.retireXch
  split
  · exact .refl _
  · split
    · exact .next (.next (.next (.refl _) (Dev.touches_retireDispatch ..)) (Dev.touches_freeList ..)) (Dev.touches_notePailWait ..)
    · exact .next (.next (.refl _) (Dev.touches_modHost ..)) (Dev.touches_hostOver ..)
    · exact .next (.next (.refl _) (Dev.touches_modHost ..)) (Dev.touches_hostDone ..)
    · exact .next (.next (.next (.refl _) (Dev.touches_modSend ..)) (Dev.touches_dropHeld ..)) (Dev.touches_sendDone ..)
    · exact .refl _

theorem Dev.touches_setPartial (d : Dev) (q : Partial) : d.Touches [.xch] [] (Dev.setPartial d q) := by
  unfold Dev.setPartial
  extract_lets -merge +onlyGivenNames v0
  exact .next (.refl _) (Dev.touches_modXch ..)

theorem Dev.touches_returnUnit (d : Dev) (k : Clock) (s : XchSlot) (l : XchLayer) (rank gen : Nat) (bs : List Byte) :
    d.Touches (.fab :: .mem :: .pail :: .snap :: .twin :: .work :: .xch :: faultParts) (coreFaultFlds.append (faultFlds.append (devFaultFlds.append pailFaultFlds))) (d.returnUnit k s l rank gen bs) := by
  unfold Dev.returnUnit
  extract_lets +onlyGivenNames fd n record d1 d2 h owner
  have h2 : d.Touches (.fab :: .mem :: .pail :: .snap :: .twin :: .work :: .xch :: faultParts) (coreFaultFlds.append (faultFlds.append (devFaultFlds.append pailFaultFlds))) d2 :=
    .next (.next (.mono (Dev.touches_count ..)) (Dev.touches_xchWork ..)) (Dev.touches_modSend ..)
  clear_value d2
  split
  · exact h2.next (Dev.touches_count ..)
  · extract_lets +onlyGivenNames c
    split
    · split
      · exact h2
      · exact (h2.next (Dev.touches_putRow ..)).next (Dev.touches_modSend ..)
    · split
      · exact h2.next (Dev.touches_pailFault ..)
      · next heq =>
        exact ((h2.next (.of_optsnd2 (Dev.touches_land ..) heq)).next (Dev.touches_modSend ..)).next (Dev.touches_count ..)

theorem Dev.touches_takeStream (d : Dev) (k : Clock) (s : XchSlot) (l : XchLayer) (rank : ℕ) (ret : Bool) (p : Packet) : d.Touches (.fab :: .mem :: .pail :: .snap :: .twin :: .work :: .xch :: faultParts) (coreFaultFlds.append (faultFlds.append (devFaultFlds.append pailFaultFlds))) (Dev.takeStream d k s l rank ret p) := by
  unfold Dev.takeStream
  extract_lets -merge +onlyGivenNames v0
  extract_lets -merge +onlyGivenNames v1
  extract_lets -merge +onlyGivenNames v2
  split
  · extract_lets -merge +onlyGivenNames v5
    extract_lets -merge +onlyGivenNames d6
    have hd6 : d.Touches (.fab :: .mem :: .pail :: .snap :: .twin :: .work :: .xch :: faultParts) (coreFaultFlds.append (faultFlds.append (devFaultFlds.append pailFaultFlds))) d6 := by
      refine .foldl ?_ fun e7 x8 _ => ?_
      · exact .refl _
      · split
        · extract_lets -merge +onlyGivenNames v11
          refine .ite ?_ ?_
          · exact .next (.refl _) (Dev.touches_returnUnit ..)
          · exact .next (.refl _) (Dev.touches_deliverUnit ..)
    clear_value d6
    exact .next (hd6) (Dev.touches_setPartial ..)

theorem Dev.touches_endStream (d : Dev) (k : Clock) (s : XchSlot) (l : XchLayer) (rank : ℕ) (ret : Bool) (p : Packet) : d.Touches (.fab :: .mem :: .pail :: .snap :: .twin :: .work :: .xch :: faultParts) (coreFaultFlds.append (faultFlds.append (devFaultFlds.append pailFaultFlds))) (Dev.endStream d k s l rank ret p) := by
  unfold Dev.endStream
  extract_lets -merge +onlyGivenNames v0
  extract_lets -merge +onlyGivenNames v1
  extract_lets -merge +onlyGivenNames v2
  extract_lets -merge +onlyGivenNames v3
  extract_lets -merge +onlyGivenNames v4
  split
  · extract_lets -merge +onlyGivenNames d7
    have hd7 : d.Touches (.fab :: .mem :: .pail :: .snap :: .twin :: .work :: .xch :: faultParts) (coreFaultFlds.append (faultFlds.append (devFaultFlds.append pailFaultFlds))) d7 := by
      refine .foldl ?_ fun e8 x9 _ => ?_
      · exact .refl _
      · refine .ite ?_ ?_
        · exact .next (.refl _) (Dev.touches_returnUnit ..)
        · exact .next (.refl _) (Dev.touches_deliverUnit ..)
    clear_value d7
    exact .next (hd7) (Dev.touches_setPartial ..)

theorem Dev.touches_dropStale (d : Dev) : d.Touches [.acc, .pail, .xch] [] (Dev.dropStale d) := by
  unfold Dev.dropStale
  extract_lets -merge +onlyGivenNames v0
  extract_lets -merge +onlyGivenNames v1
  extract_lets -merge +onlyGivenNames d2
  have hd2 : d.Touches [.acc, .pail, .xch] [] d2 := by
    refine .foldl ?_ fun e3 x4 _ => ?_
    · exact .refl _
    · split
      · extract_lets -merge +onlyGivenNames v7
        exact .next (.next (.refl _) (Dev.touches_unland ..)) (Dev.touches_count ..)
  clear_value d2
  exact .next (hd2) (Dev.touches_modXch ..)

theorem Dev.touches_tickFault (d : Dev) (k : Clock) (code : ℕ) (cause : ℕ) (engine : ℕ) : d.Touches faultParts (.tickFaultEngine :: .tickFaultCause :: .tickFaultCode :: faultFlds) (Dev.tickFault d k code cause engine) := by
  unfold Dev.tickFault
  extract_lets -merge +onlyGivenNames d0
  have hd0 : d.Touches faultParts (.tickFaultEngine :: .tickFaultCause :: .tickFaultCode :: faultFlds) d0 := by
    exact .next (.next (.next (.refl _) (Dev.touches_wr ..)) (Dev.touches_wr ..)) (Dev.touches_wr ..)
  clear_value d0
  extract_lets -merge +onlyGivenNames v1
  refine .next ?_ (Dev.touches_runFault ..)
  refine .ite ?_ ?_
  · exact hd0
  · exact .refl _

theorem Dev.touches_overrun (d : Dev) (k : Clock) (cause : ℕ) (engine : ℕ) : d.Touches faultParts (.tickFaultEngine :: .tickFaultCause :: .tickFaultCode :: .tickEvOverrun :: faultFlds) (Dev.overrun d k cause engine) := by
  unfold Dev.overrun
  exact .next (.next (.refl _) (Dev.touches_flag ..)) (Dev.touches_tickFault ..)

theorem Dev.touches_modHerd (d : Dev) (f : Herd → Herd) : d.Touches [.herd] [] (Dev.modHerd d f) := by
  unfold Dev.modHerd
  exact .set (.refl _) rfl

theorem Dev.touches_emit (d : Dev) (id : ℕ) (kind : ℕ) (reason : ℕ) (slot : Option ℕ) (token : Option ℕ) (pos : Option ℕ) : d.Touches [.herd, .regs] [.jobHerdFinished, .jobHerdRejects] (Dev.emit d id kind reason slot token pos) := by
  unfold Dev.emit
  extract_lets -merge +onlyGivenNames v0
  extract_lets -merge +onlyGivenNames d1
  have hd1 : d.Touches [.herd, .regs] [.jobHerdFinished, .jobHerdRejects] d1 := by
    exact .next (.refl _) (Dev.touches_modHerd ..)
  clear_value d1
  split
  · exact .next (hd1) (Dev.touches_bump ..)
  · exact .next (hd1) (Dev.touches_bump ..)
  · exact hd1

theorem Dev.touches_unlist (d : Dev) (kv : ℕ) : d.Touches [.tier] [] (Dev.unlist d kv) := by
  unfold Dev.unlist
  exact .next (.refl _) (Dev.touches_modObj ..)

theorem Dev.touches_herdPromote (d : Dev) (kv : ℕ) : d.Touches [.tier] [] (Dev.herdPromote d kv) := by
  unfold Dev.herdPromote
  exact .next (.refl _) (Dev.touches_modTier ..)

theorem Dev.touches_collectSlot (d : Dev) (p : HerdPart) (k : Nat) (last : HerdRow) (rows : Nat) :
    d.Touches [.acc, .fab, .herd, .mem, .out, .regs, .sec, .snap, .tier, .twin, .work] [.jobHerdFinished, .jobHerdRejects, .jobHerdOutLost] (d.collectSlot p k last rows) := by
  have hset : ∀ (e : Dev) (y : HerdSlot), e.Touches [.acc, .fab, .herd, .mem, .out, .regs, .sec, .snap, .tier, .twin, .work] [.jobHerdFinished, .jobHerdRejects, .jobHerdOutLost] (e.setSlot p last.slot y) := fun e y => .mono (Dev.touches_setSlot ..)
  have hemit : ∀ (e : Dev) (i kind reason : Nat) (s t q : Option Nat), e.Touches [.acc, .fab, .herd, .mem, .out, .regs, .sec, .snap, .tier, .twin, .work] [.jobHerdFinished, .jobHerdRejects, .jobHerdOutLost] (e.emit i kind reason s t q) :=
    fun e i kind reason s t q => .mono (Dev.touches_emit ..)
  unfold Dev.collectSlot
  extract_lets +onlyGivenNames x d1
  have h1 : d.Touches [.acc, .fab, .herd, .mem, .out, .regs, .sec, .snap, .tier, .twin, .work] [.jobHerdFinished, .jobHerdRejects, .jobHerdOutLost] d1 := .mono (Dev.touches_unlist ..)
  clear_value d1
  split
  · exact h1.next (hset ..)
  · extract_lets +onlyGivenNames x1 valid token free
    have hfree : ∀ (e : Dev) (y : HerdSlot) (r : Nat), d.Touches [.acc, .fab, .herd, .mem, .out, .regs, .sec, .snap, .tier, .twin, .work] [.jobHerdFinished, .jobHerdRejects, .jobHerdOutLost] e → d.Touches [.acc, .fab, .herd, .mem, .out, .regs, .sec, .snap, .tier, .twin, .work] [.jobHerdFinished, .jobHerdRejects, .jobHerdOutLost] (free e y r) :=
      fun e y r h => (h.next (hset ..)).next (hemit ..)
    split
    · exact hfree _ _ _ h1
    · extract_lets +onlyGivenNames x2 d2
      have h2 : d.Touches [.acc, .fab, .herd, .mem, .out, .regs, .sec, .snap, .tier, .twin, .work] [.jobHerdFinished, .jobHerdRejects, .jobHerdOutLost] d2 := by
        unfold d2
        split
        · exact h1.next (hemit ..)
        · exact h1
      split
      · exact hfree _ _ _ h2
      · split
        · exact hfree _ _ _ h2
        · split
          · exact hfree _ _ _ h2
          · exact h2.next (hset ..)

theorem Dev.touches_collectBatch (d : Dev) (p : HerdPart) (b : HerdBatch) : d.Touches [.acc, .fab, .herd, .mem, .out, .regs, .sec, .snap, .tier, .twin, .work] [.jobHerdFinished, .jobHerdRejects, .jobHerdOutLost] (Dev.collectBatch d p b) := by
  unfold Dev.collectBatch
  extract_lets -merge +onlyGivenNames v0
  refine .foldl ?_ fun e1 x2 _ => ?_
  · exact .refl _
  · extract_lets -merge +onlyGivenNames v3
    split
    · exact .refl _
    · exact .next (.refl _) (Dev.touches_collectSlot ..)

theorem Dev.touches_collectFrame (d : Dev) (p : HerdPart) (k : ℕ) : d.Touches [.acc, .fab, .herd, .mem, .out, .regs, .sec, .snap, .tier, .twin, .work] [.jobHerdFinished, .jobHerdRejects, .jobHerdOutLost] (Dev.collectFrame d p k) := by
  unfold Dev.collectFrame
  split
  · exact .refl _
  · extract_lets -merge +onlyGivenNames d2
    have hd2 : d.Touches [.acc, .fab, .herd, .mem, .out, .regs, .sec, .snap, .tier, .twin, .work] [.jobHerdFinished, .jobHerdRejects, .jobHerdOutLost] d2 := by
      exact .next (.refl _) (Dev.touches_collectBatch ..)
    clear_value d2
    exact .next (hd2) (Dev.touches_modHerd ..)

theorem Dev.touches_retireGen (d : Dev) (k : ℕ) : d.Touches [.xch] [] (Dev.retireGen d k) := by
  unfold Dev.retireGen
  exact .set (.refl _) rfl

theorem Dev.touches_generations (d : Dev) (p : HerdPart) (k : ℕ) : d.Touches [.acc, .pail, .regs, .xch] [.jobHerdEarlyRetire] (Dev.generations d p k) := by
  unfold Dev.generations
  extract_lets -merge +onlyGivenNames d0
  have hd0 : d.Touches [.acc, .pail, .regs, .xch] [.jobHerdEarlyRetire] d0 := by
    unfold d0
    refine .ite ?_ ?_
    · exact .next (.refl _) (Dev.touches_retireGen ..)
    · exact .refl _
  clear_value d0
  extract_lets -merge +onlyGivenNames v1
  extract_lets -merge +onlyGivenNames d2
  have hd2 : d.Touches [.acc, .pail, .regs, .xch] [.jobHerdEarlyRetire] d2 := by
    unfold d2
    refine .ite ?_ ?_
    · exact .next (.next (hd0) (Dev.touches_bump ..)) (Dev.touches_retireGen ..)
    · exact hd0
  clear_value d2
  extract_lets -merge +onlyGivenNames v3 d4
  have hd4 : d.Touches [.acc, .pail, .regs, .xch] [.jobHerdEarlyRetire] d4 := by
    exact .set (hd2) rfl
  clear_value d4
  exact .next (hd4) (Dev.touches_dropStale ..)

theorem Dev.touches_writeRegion (d : Dev) (p : HerdPart) (k : Nat) (rows : List (HerdRow × List Nat)) (x : Fin 12) :
    d.Touches [.acc, .fab, .mem, .out, .sec, .twin, .work] [] (d.writeRegion p k rows x) := by
  unfold Dev.writeRegion
  extract_lets +onlyGivenNames len heads m1 m2 dead d1 w d2
  have hm1 : d.mem.wf = true → m1.wf = true := fun h => Memory.writeN_wf _ _ _ (Memory.clear_wf _ _ _ (Mem.die_wf h x))
  have hm2 : d.mem.wf = true → m2.wf = true := fun h =>
    List.foldlRecOn _ _ (motive := fun m => Memory.wf m = true) (hm1 h) fun m hm r _ => Memory.writeN_wf _ _ _ hm
  have h1 : d.Touches [.acc, .fab, .mem, .out, .sec, .twin, .work] [] d1 := by
    unfold d1
    split
    · exact .refl d
    · exact .mono (Dev.touches_noteWrite ..)
  have hmem : d1.mem = d.mem := by
    unfold d1
    split
    · rfl
    · exact (Dev.touches_noteWrite ..).mem
  refine .next (.withMem (e := d2) h1 rfl fun h => ?_) (Dev.touches_touchW ..)
  exact Mem.wf_setDie h (hm2 (hmem ▸ h)) x _

theorem Dev.touches_buildList (d : Dev) (p : HerdPart) (k : ℕ) : d.Touches [.acc, .fab, .herd, .mem, .out, .regs, .sec, .snap, .tier, .twin, .work] [.jobHerdWaiting, .jobHerdListed] (Dev.buildList d p k).1 := by
  unfold Dev.buildList
  split
  · extract_lets -merge +onlyGivenNames v2
    extract_lets -merge +onlyGivenNames d3
    have hd3 : d.Touches [.acc, .fab, .herd, .mem, .out, .regs, .sec, .snap, .tier, .twin, .work] [.jobHerdWaiting, .jobHerdListed] d3 := by
      refine .foldl ?_ fun e4 x5 _ => ?_
      · exact .refl _
      · extract_lets -merge +onlyGivenNames v6
        exact .next (.next (.refl _) (Dev.touches_setSlot ..)) (Dev.touches_modObj ..)
    clear_value d3
    extract_lets -merge +onlyGivenNames d7
    have hd7 : d.Touches [.acc, .fab, .herd, .mem, .out, .regs, .sec, .snap, .tier, .twin, .work] [.jobHerdWaiting, .jobHerdListed] d7 := by
      refine .foldl ?_ fun e8 x9 _ => ?_
      · exact hd3
      · refine Dev.Touches.hashed ?_ fun e10 he11 => ?_
        · exact .refl _
        · exact .next (he11) (Dev.touches_writeRegion ..)
    clear_value d7
    extract_lets -merge +onlyGivenNames d12
    have hd12 : d.Touches [.acc, .fab, .herd, .mem, .out, .regs, .sec, .snap, .tier, .twin, .work] [.jobHerdWaiting, .jobHerdListed] d12 := by
      exact .next (.next (hd7) (Dev.touches_wr ..)) (Dev.touches_wr ..)
    clear_value d12
    exact .fst (.next (hd12) (Dev.touches_modHerd ..))

theorem Dev.touches_hostWrite (d : Dev) (a : ℕ) (bs : List Byte) : d.Touches [.acc, .mem, .out] [] (Dev.hostWrite d a bs) := by
  unfold Dev.hostWrite
  refine .ite ?_ ?_
  · exact .next (.refl _) (Dev.touches_hostPut ..)
  · exact .next (.refl _) (Dev.touches_count ..)

theorem Dev.touches_writeOutput (d : Dev) (p : HerdPart) (recs : List (List Byte)) (outCons : ℕ) : d.Touches [.acc, .herd, .host, .mem, .out, .regs] [.jobHerdOutLost] (Dev.writeOutput d p recs outCons) := by
  unfold Dev.writeOutput
  extract_lets -merge +onlyGivenNames v0
  extract_lets -merge +onlyGivenNames v1
  extract_lets -merge +onlyGivenNames v2
  extract_lets -merge +onlyGivenNames d3
  have hd3 : d.Touches [.acc, .herd, .host, .mem, .out, .regs] [.jobHerdOutLost] d3 := by
    exact .next (.refl _) (Dev.touches_wr ..)
  clear_value d3
  extract_lets -merge +onlyGivenNames d4
  have hd4 : d.Touches [.acc, .herd, .host, .mem, .out, .regs] [.jobHerdOutLost] d4 := by
    refine .foldl ?_ fun e5 x6 _ => ?_
    · exact hd3
    · split
      · exact .next (.refl _) (Dev.touches_hostWrite ..)
  clear_value d4
  extract_lets -merge +onlyGivenNames v9
  extract_lets -merge +onlyGivenNames d10
  have hd10 : d.Touches [.acc, .herd, .host, .mem, .out, .regs] [.jobHerdOutLost] d10 := by
    exact .next (.next (hd4) (Dev.touches_hostWrite ..)) (Dev.touches_modHerd ..)
  clear_value d10
  refine .ite ?_ ?_
  · exact hd10
  · exact .next (hd10) (Dev.touches_raiseVector ..)

theorem Dev.touches_popRecord (d : Dev) : d.Touches [.herd] [] (Dev.popRecord d) := by
  unfold Dev.popRecord
  exact .next (.refl _) (Dev.touches_modHerd ..)

theorem Dev.touches_putRecord (d : Dev) (r : List Byte) : d.Touches [.herd] [] (Dev.putRecord d r) := by
  unfold Dev.putRecord
  exact .next (.refl _) (Dev.touches_modHerd ..)

theorem Dev.touches_rejectRecord (d : Dev) (r : List Byte) (reason : ℕ) : d.Touches [.herd, .regs] [.jobHerdFinished, .jobHerdRejects] (Dev.rejectRecord d r reason) := by
  unfold Dev.rejectRecord
  exact .next (.next (.refl _) (Dev.touches_emit ..)) (Dev.touches_popRecord ..)

theorem Dev.touches_cancelSlot (d : Dev) (p : HerdPart) (i : ℕ) (x : HerdSlot) : d.Touches [.acc, .mem, .regs, .snap, .twin, .work] [.jobHerdCancels] (Dev.cancelSlot d p i x) := by
  unfold Dev.cancelSlot
  exact .next (.next (.refl _) (Dev.touches_setSlot ..)) (Dev.touches_bump ..)

theorem Dev.touches_addRecord (d : Dev) (p : HerdPart) (r : List Byte) : d.Touches [.acc, .herd, .mem, .regs, .snap, .tier, .twin, .work] [.jobHerdFinished, .jobHerdRejects, .jobHerdAdds] (Dev.addRecord d p r) := by
  unfold Dev.addRecord
  split
  · exact .next (.refl _) (Dev.touches_rejectRecord ..)
  · extract_lets -merge +onlyGivenNames v3
    extract_lets -merge +onlyGivenNames d4
    have hd4 : d.Touches [.acc, .herd, .mem, .regs, .snap, .tier, .twin, .work] [.jobHerdFinished, .jobHerdRejects, .jobHerdAdds] d4 := by
      exact .next (.next (.refl _) (Dev.touches_setSlot ..)) (Dev.touches_modHerd ..)
    clear_value d4
    exact .next (.next (.next (hd4) (Dev.touches_bump ..)) (Dev.touches_herdPromote ..)) (Dev.touches_popRecord ..)
  · exact .next (.refl _) (Dev.touches_rejectRecord ..)

theorem Dev.touches_changePart (d : Dev) (p : HerdPart) (r : List Byte) (n : ℕ) : d.Touches [.acc, .herd, .mem, .regs, .snap, .tier, .twin, .work] [.jobHerdFinished, .jobHerdRejects] (Dev.changePart d p r n) := by
  unfold Dev.changePart
  split
  · exact .next (.refl _) (Dev.touches_rejectRecord ..)
  · exact .next (.refl _) (Dev.touches_rejectRecord ..)
  · extract_lets -merge +onlyGivenNames d5
    have hd5 : d.Touches [.acc, .herd, .mem, .regs, .snap, .tier, .twin, .work] [.jobHerdFinished, .jobHerdRejects] d5 := by
      unfold d5
      split
      · exact .next (.refl _) (Dev.touches_setSlot ..)
      · exact .next (.refl _) (Dev.touches_setSlot ..)
      · exact .next (.next (.refl _) (Dev.touches_setSlot ..)) (Dev.touches_herdPromote ..)
    clear_value d5
    extract_lets -merge +onlyGivenNames v9
    refine .ite ?_ ?_
    · exact .next (.next (hd5) (Dev.touches_emit ..)) (Dev.touches_popRecord ..)
    · exact .next (hd5) (Dev.touches_putRecord ..)

theorem Dev.touches_herdDrain (d : Dev) (k : Clock) : d.Touches (.fab :: .herd :: .mem :: .snap :: .tier :: .twin :: .work :: faultParts) (.jobHerdFinished :: .jobHerdRejects :: .jobHerdOutLost :: faultFlds.append (devFaultFlds.append lockFaultFlds)) (Dev.herdDrain d k) := by
  unfold Dev.herdDrain
  split
  · exact .refl _
  · refine .ite ?_ ?_
    · exact .next (.refl _) (Dev.touches_modHerd ..)
    · refine .ite ?_ ?_
      · exact .next (.next (.refl _) (Dev.touches_modHerd ..)) (Dev.touches_lsHoldFrom ..)
      · extract_lets -merge +onlyGivenNames d2
        have hd2 : d.Touches (.fab :: .herd :: .mem :: .snap :: .tier :: .twin :: .work :: faultParts) (.jobHerdFinished :: .jobHerdRejects :: .jobHerdOutLost :: faultFlds.append (devFaultFlds.append lockFaultFlds)) d2 := by
          exact .next (.refl _) (Dev.touches_modHerd ..)
        clear_value d2
        extract_lets -merge +onlyGivenNames v3
        split
        · exact .next (hd2) (Dev.touches_poisonFault ..)
        · extract_lets -merge +onlyGivenNames v7
          extract_lets -merge +onlyGivenNames v8
          extract_lets -merge +onlyGivenNames v9
          extract_lets -merge +onlyGivenNames v10
          extract_lets -merge +onlyGivenNames d11
          have hd11 : d.Touches (.fab :: .herd :: .mem :: .snap :: .tier :: .twin :: .work :: faultParts) (.jobHerdFinished :: .jobHerdRejects :: .jobHerdOutLost :: faultFlds.append (devFaultFlds.append lockFaultFlds)) d11 := by
            exact .next (.next (hd2) (Dev.touches_herdTouch ..)) (Dev.touches_modHerd ..)
          clear_value d11
          extract_lets -merge +onlyGivenNames d12
          have hd12 : d.Touches (.fab :: .herd :: .mem :: .snap :: .tier :: .twin :: .work :: faultParts) (.jobHerdFinished :: .jobHerdRejects :: .jobHerdOutLost :: faultFlds.append (devFaultFlds.append lockFaultFlds)) d12 := by
            refine .foldl ?_ fun e13 x14 _ => ?_
            · exact hd11
            · exact .next (.refl _) (Dev.touches_collectFrame ..)
          clear_value d12
          extract_lets -merge +onlyGivenNames v15
          extract_lets -merge +onlyGivenNames d16
          have hd16 : d.Touches (.fab :: .herd :: .mem :: .snap :: .tier :: .twin :: .work :: faultParts) (.jobHerdFinished :: .jobHerdRejects :: .jobHerdOutLost :: faultFlds.append (devFaultFlds.append lockFaultFlds)) d16 := by
            exact .next (.next (hd12) (Dev.touches_writeOutput ..)) (Dev.touches_modHerd ..)
          clear_value d16
          extract_lets -merge +onlyGivenNames v17
          extract_lets -merge +onlyGivenNames d18
          have hd18 : d.Touches (.fab :: .herd :: .mem :: .snap :: .tier :: .twin :: .work :: faultParts) (.jobHerdFinished :: .jobHerdRejects :: .jobHerdOutLost :: faultFlds.append (devFaultFlds.append lockFaultFlds)) d18 := by
            exact .next (hd16) (Dev.touches_modTwin ..)
          clear_value d18
          exact .next (.next (.next (hd18) (Dev.touches_wr ..)) (Dev.touches_wr ..)) (Dev.touches_lsStep ..)

theorem Dev.touches_herdFinish (d : Dev) (k : Clock) (p : HerdPart) (o : HerdOpen) : d.Touches (.fab :: .gmem :: .herd :: .mem :: .pail :: .snap :: .tier :: .twin :: .work :: .xch :: faultParts) (faultFlds.append (devFaultFlds.append (gmemFaultFlds.append (lockFaultFlds.append herdFlds)))) (Dev.herdFinish d k p o) := by
  unfold Dev.herdFinish
  extract_lets -merge +onlyGivenNames v0
  extract_lets -merge +onlyGivenNames d1
  have hd1 : d.Touches (.fab :: .gmem :: .herd :: .mem :: .pail :: .snap :: .tier :: .twin :: .work :: .xch :: faultParts) (faultFlds.append (devFaultFlds.append (gmemFaultFlds.append (lockFaultFlds.append herdFlds)))) d1 := by
    exact .next (.refl _) (Dev.touches_generations ..)
  clear_value d1
  split
  · exact .next (.next (hd1) (Dev.touches_modHerd ..)) (Dev.touches_poisonFault ..)
  · split
    next d5 x6 heq =>
      have hd5 : d.Touches (.fab :: .gmem :: .herd :: .mem :: .pail :: .snap :: .tier :: .twin :: .work :: .xch :: faultParts) (faultFlds.append (devFaultFlds.append (gmemFaultFlds.append (lockFaultFlds.append herdFlds)))) d5 := by
        refine .of_fst ?_ heq
        exact .next (.next (hd1) (Dev.touches_herdTouch ..)) (Dev.touches_buildList ..)
      extract_lets -merge +onlyGivenNames d7
      have hd7 : d.Touches (.fab :: .gmem :: .herd :: .mem :: .pail :: .snap :: .tier :: .twin :: .work :: .xch :: faultParts) (faultFlds.append (devFaultFlds.append (gmemFaultFlds.append (lockFaultFlds.append herdFlds)))) d7 := by
        exact .next (hd5) (Dev.touches_writeOutput ..)
      clear_value d7
      extract_lets -merge +onlyGivenNames v8
      extract_lets -merge +onlyGivenNames d9
      have hd9 : d.Touches (.fab :: .gmem :: .herd :: .mem :: .pail :: .snap :: .tier :: .twin :: .work :: .xch :: faultParts) (faultFlds.append (devFaultFlds.append (gmemFaultFlds.append (lockFaultFlds.append herdFlds)))) d9 := by
        exact .next (hd7) (Dev.touches_addWork ..)
      clear_value d9
      extract_lets -merge +onlyGivenNames v10
      extract_lets -merge +onlyGivenNames d11
      have hd11 : d.Touches (.fab :: .gmem :: .herd :: .mem :: .pail :: .snap :: .tier :: .twin :: .work :: .xch :: faultParts) (faultFlds.append (devFaultFlds.append (gmemFaultFlds.append (lockFaultFlds.append herdFlds)))) d11 := by
        exact .next (.next (hd9) (Dev.touches_wr ..)) (Dev.touches_modHerd ..)
      clear_value d11
      extract_lets -merge +onlyGivenNames d12
      have hd12 : d.Touches (.fab :: .gmem :: .herd :: .mem :: .pail :: .snap :: .tier :: .twin :: .work :: .xch :: faultParts) (faultFlds.append (devFaultFlds.append (gmemFaultFlds.append (lockFaultFlds.append herdFlds)))) d12 := by
        exact .next (hd11) (Dev.touches_tierOpen ..)
      clear_value d12
      refine .next ?_ (Dev.touches_lsStep ..)
      refine .ite ?_ ?_
      · exact .next (hd12) (Dev.touches_herdDrain ..)
      · exact hd12

theorem Dev.touches_herdAdvance (k : Clock) (p : HerdPart) (n : Nat) (d : Dev) :
    d.Touches (.fab :: .gmem :: .herd :: .mem :: .pail :: .snap :: .tier :: .twin :: .work :: .xch :: faultParts) (faultFlds.append (devFaultFlds.append (gmemFaultFlds.append (lockFaultFlds.append herdFlds)))) (Dev.herdAdvance k p n d) := by
  induction n generalizing d with
  | zero => exact .refl d
  | succ n ih =>
    unfold Dev.herdAdvance
    split
    · exact .refl d
    · split
      · split
        · exact .mono (Dev.touches_lsHoldFrom ..)
        · exact .mono (Dev.touches_herdFinish ..)
      · dsimp only
        split
        · exact .next (.mono (Dev.touches_rejectRecord ..)) (ih _)
        · split
          · refine .next ?_ (ih _)
            split
            · exact .mono (Dev.touches_rejectRecord ..)
            · exact .next (.mono (Dev.touches_emit ..)) (Dev.touches_popRecord ..)
          · exact .refl d

theorem Dev.touches_herdBegin (d : Dev) (k : Clock) (p : HerdPart) : d.Touches (.fab :: .gmem :: .herd :: .mem :: .pail :: .snap :: .tier :: .twin :: .work :: .xch :: faultParts) (faultFlds.append (devFaultFlds.append (gmemFaultFlds.append (lockFaultFlds.append herdFlds)))) (d.herdBegin k p) := by
  unfold Dev.herdBegin
  split
  · exact .next (.mono (Dev.touches_modHerd ..)) (Dev.touches_lsHoldFrom ..)
  · extract_lets +onlyGivenNames d0 n head prod cons ahead spill count d1 d2 at_
    have h0 : d.Touches (.fab :: .gmem :: .herd :: .mem :: .pail :: .snap :: .tier :: .twin :: .work :: .xch :: faultParts) (faultFlds.append (devFaultFlds.append (gmemFaultFlds.append (lockFaultFlds.append herdFlds)))) d0 := .mono (Dev.touches_modHerd ..)
    clear_value d0
    have h1 : d.Touches (.fab :: .gmem :: .herd :: .mem :: .pail :: .snap :: .tier :: .twin :: .work :: .xch :: faultParts) (faultFlds.append (devFaultFlds.append (gmemFaultFlds.append (lockFaultFlds.append herdFlds)))) d1 := h0.foldl fun e f hf =>
      .mono (Dev.touches_wr _ f 0) (by decide) fun g hg => by
        rw [List.mem_singleton.1 hg]
        exact (show [Fld.jobHerdAdds, .jobHerdRejects, .jobHerdCancels, .jobHerdFinished, .jobHerdEarlyRetire] ⊆ (faultFlds.append (devFaultFlds.append (gmemFaultFlds.append (lockFaultFlds.append herdFlds)))) by
          decide) hf
    clear_value d1
    have h2 : d.Touches (.fab :: .gmem :: .herd :: .mem :: .pail :: .snap :: .tier :: .twin :: .work :: .xch :: faultParts) (faultFlds.append (devFaultFlds.append (gmemFaultFlds.append (lockFaultFlds.append herdFlds)))) d2 := h1.next (Dev.touches_wr ..)
    clear_value d2
    split
    · exact h2.next (Dev.touches_poisonFault ..)
    · extract_lets +onlyGivenNames recs d3 d4 d5 w d6 d7
      have h4 : d.Touches (.fab :: .gmem :: .herd :: .mem :: .pail :: .snap :: .tier :: .twin :: .work :: .xch :: faultParts) (faultFlds.append (devFaultFlds.append (gmemFaultFlds.append (lockFaultFlds.append herdFlds)))) d4 :=
        ((h2.next (Dev.touches_herdTouch ..)).next (Dev.touches_modHerd ..)).next (Dev.touches_herdWrite ..)
      clear_value d4
      have h5 : d.Touches (.fab :: .gmem :: .herd :: .mem :: .pail :: .snap :: .tier :: .twin :: .work :: .xch :: faultParts) (faultFlds.append (devFaultFlds.append (gmemFaultFlds.append (lockFaultFlds.append herdFlds)))) d5 := h4.foldl fun e x _ => .mono (Dev.touches_emit ..)
      clear_value d5
      have h6 : d.Touches (.fab :: .gmem :: .herd :: .mem :: .pail :: .snap :: .tier :: .twin :: .work :: .xch :: faultParts) (faultFlds.append (devFaultFlds.append (gmemFaultFlds.append (lockFaultFlds.append herdFlds)))) d6 := h5.set rfl
      clear_value d6
      refine .next ?_ (Dev.touches_herdAdvance ..)
      unfold d7
      split
      · exact h6.next (Dev.touches_collectFrame ..)
      · exact h6

theorem Dev.Touches.takeRecord {ps : List Part} {fs : List Fld} {a d : Dev} {k : Clock} {kind : Nat}
    {f : HerdPart → List Byte → Option Dev} (h : a.Touches ps fs d) (hf : ∀ p r, a.MayTouch ps fs (f p r))
    (hp : (.fab :: .gmem :: .herd :: .mem :: .pail :: .snap :: .tier :: .twin :: .work :: .xch :: faultParts) ⊆ ps := by decide) (hfs : (faultFlds.append (devFaultFlds.append (gmemFaultFlds.append (lockFaultFlds.append herdFlds)))) ⊆ fs := by decide) : a.MayTouch ps fs (d.takeRecord k kind f) := by
  refine .bind fun x => ?_
  cases hx : f x.1 x.2.1 with
  | none =>
    show a.MayTouch ps fs ((f x.1 x.2.1).map _)
    rw [hx]
    exact .none
  | some e =>
    show a.MayTouch ps fs ((f x.1 x.2.1).map _)
    rw [hx]
    refine .some (.ite ?_ ?_)
    · exact h.next (.mono (ps := (.fab :: .gmem :: .herd :: .mem :: .pail :: .snap :: .tier :: .twin :: .work :: .xch :: faultParts)) (fs := (faultFlds.append (devFaultFlds.append (gmemFaultFlds.append (lockFaultFlds.append herdFlds))))) (Dev.touches_lsHoldFrom ..)) hp hfs
    · exact ((hf _ _).touches e hx).next (.mono (ps := (.fab :: .gmem :: .herd :: .mem :: .pail :: .snap :: .tier :: .twin :: .work :: .xch :: faultParts)) (fs := (faultFlds.append (devFaultFlds.append (gmemFaultFlds.append (lockFaultFlds.append herdFlds))))) (Dev.touches_herdAdvance ..)) hp hfs

theorem Dev.touches_changeStep (d : Dev) (k : Clock) (b : ℕ) : d.MayTouch (.fab :: .gmem :: .herd :: .mem :: .pail :: .snap :: .tier :: .twin :: .work :: .xch :: faultParts) (faultFlds.append (devFaultFlds.append (gmemFaultFlds.append (lockFaultFlds.append herdFlds)))) (Dev.changeStep d k b) := by
  unfold Dev.changeStep
  refine Dev.Touches.takeRecord ?_ fun _ _ => ?_
  · exact .refl _
  · extract_lets -merge +onlyGivenNames v0
    refine .ite ?_ ?_
    · exact .some (.next (.refl _) (Dev.touches_changePart ..))
    · exact .none

theorem Dev.touches_restoreBatches (d : Dev) (p : HerdPart) (kf : ℕ) : d.Touches [.herd, .tier, .xch] [] (Dev.restoreBatches d p kf) := by
  unfold Dev.restoreBatches
  extract_lets -merge +onlyGivenNames v0
  extract_lets -merge +onlyGivenNames d1
  have hd1 : d.Touches [.herd, .tier, .xch] [] d1 := by
    refine .foldl ?_ fun e2 x3 _ => ?_
    · exact .refl _
    · refine .foldl ?_ fun e4 x5 _ => ?_
      · exact .refl _
      · exact .next (.refl _) (Dev.touches_modObj ..)
  clear_value d1
  extract_lets -merge +onlyGivenNames d6
  have hd6 : d.Touches [.herd, .tier, .xch] [] d6 := by
    exact .next (hd1) (Dev.touches_modHerd ..)
  clear_value d6
  exact .set (hd6) rfl

theorem Dev.touches_herdArm (d : Dev) : d.Touches [.herd, .mem, .tier, .xch, .regs, .twin, .work, .out, .acc, .fab, .sec] [] d.herdArm := by
  unfold Dev.herdArm
  split
  · exact (Dev.Touches.refl d).set rfl
  · extract_lets +onlyGivenNames w d1
    have h1 : d.Touches [.herd, .mem, .tier, .xch, .regs, .twin, .work, .out, .acc, .fab, .sec] [] d1 := (Dev.Touches.refl d).set rfl
    clear_value d1
    split
    · extract_lets +onlyGivenNames b
      exact (h1.next (Dev.touches_modHerd ..)).next (Dev.touches_restoreBatches ..)
    · extract_lets +onlyGivenNames w2 d2
      have h2 : d.Touches [.herd, .mem, .tier, .xch, .regs, .twin, .work, .out, .acc, .fab, .sec] [] d2 := h1.withMem rfl fun h => Mem.wf_setHbm h (Memory.clear_wf _ _ _ (Mem.hbm_wf h)) _
      clear_value d2
      exact h2.next (Dev.touches_modHerd ..)

theorem Dev.touches_modSnap (d : Dev) (f : Snap → Snap) : d.Touches [.snap] [] (Dev.modSnap d f) := by
  unfold Dev.modSnap
  exact .set (.refl _) rfl

theorem Dev.touches_readImageHost (d : Dev) (method : ℕ) : d.Touches [.host, .out] [] (Dev.readImageHost d method) := by
  unfold Dev.readImageHost
  refine .foldl ?_ fun e0 x1 _ => ?_
  · exact .refl _
  · exact .next (.refl _) (Dev.touches_hostReadFor ..)

theorem Dev.touches_captureFault (d : Dev) (k : Clock) (method : ℕ) : d.Touches faultParts (faultFlds.append devFaultFlds) (Dev.captureFault d k method) := by
  unfold Dev.captureFault
  split
  · exact .next (.refl _) (Dev.touches_poisonFault ..)
  · exact .refl _

theorem Dev.touches_modParts (d : Dev) (kind : ℕ) (frame : ℕ) (f : ImageParts → ImageParts) : d.Touches [.snap] [] (Dev.modParts d kind frame f) := by
  unfold Dev.modParts
  refine .ite ?_ ?_
  · exact .next (.refl _) (Dev.touches_modSnap ..)
  · exact .next (.refl _) (Dev.touches_modSnap ..)

theorem Dev.touches_pumpImages (k : Clock) (n : Nat) (d : Dev) :
    d.Touches [.acc, .fab, .gmem, .out, .sec, .snap, .work] [] (Dev.pumpImages k n d) := by
  induction n generalizing d with
  | zero => exact .refl d
  | succ n ih =>
    unfold Dev.pumpImages
    split
    · exact .refl d
    · split
      · exact .refl d
      · split
        · exact .refl d
        · exact .next (.next (.mono (Dev.touches_modParts ..)) (Dev.touches_accept ..)) (ih _)

theorem Dev.touches_imagePiece (d : Dev) (k : Clock) (kind : ℕ) (frame : ℕ) (i : ℕ) (off : ℕ) (addr : ℕ) (bs : List Byte) : d.Touches [.acc, .fab, .gmem, .out, .sec, .snap, .work] [] (Dev.imagePiece d k kind frame i off addr bs) := by
  unfold Dev.imagePiece
  extract_lets -merge +onlyGivenNames v0
  extract_lets -merge +onlyGivenNames v1
  exact .next (.next (.refl _) (Dev.touches_modParts ..)) (Dev.touches_pumpImages ..)

theorem Dev.touches_pumpAll (d : Dev) (k : Clock) : d.Touches [.acc, .fab, .gmem, .out, .sec, .snap, .tier, .work] [] (Dev.pumpAll d k) := by
  unfold Dev.pumpAll
  exact .next (.next (.next (.refl _) (Dev.touches_pumpStores ..)) (Dev.touches_pumpTier ..)) (Dev.touches_pumpImages ..)

theorem Dev.touches_snapFailed (d : Dev) (status : ℕ) : d.Touches [.regs, .snap, .updated] [.snapEvFail, .snapFail] (Dev.snapFailed d status) := by
  unfold Dev.snapFailed
  exact .next (.next (.next (.refl _) (Dev.touches_wr ..)) (Dev.touches_flag ..)) (Dev.touches_modSnap ..)

theorem Dev.touches_nvmeGive (d : Dev) (cs : List NvmeCmd) : d.Touches [.out] [] (Dev.nvmeGive d cs) := by
  unfold Dev.nvmeGive
  exact .set (.refl _) rfl

theorem Dev.touches_nvmeIssue (d : Dev) : d.Touches [.out] [] (Dev.nvmeIssue d) := by
  unfold Dev.nvmeIssue
  exact .next (.refl _) (Dev.touches_nvmeGive ..)

theorem Dev.touches_startCopy (d : Dev) (k : Clock) (p : ImageParts) : d.Touches (.fab :: .gmem :: .mem :: .snap :: .work :: faultParts) (.snapEvFail :: .snapFail :: faultFlds.append gmemFaultFlds) (d.startCopy k p) := by
  unfold Dev.startCopy
  extract_lets +onlyGivenNames n
  split
  · exact .refl d
  · split
    · exact .next (.mono (Dev.touches_wr ..)) (Dev.touches_flag ..)
    · split
      · exact .next (.mono (Dev.touches_snapFailed ..)) (Dev.touches_hostHomeLost ..)
      · extract_lets +onlyGivenNames area w d1 d2
        have h1 : d.Touches (.fab :: .gmem :: .mem :: .snap :: .work :: faultParts) (.snapEvFail :: .snapFail :: faultFlds.append gmemFaultFlds) d1 :=
          .withMem (.refl d) rfl fun h => Mem.wf_setNvme h (Memory.clear_wf _ _ _ (Mem.nvme_wf h))
        clear_value d1
        have h2 : d.Touches (.fab :: .gmem :: .mem :: .snap :: .work :: faultParts) (.snapEvFail :: .snapFail :: faultFlds.append gmemFaultFlds) d2 := h1.next (Dev.touches_modSnap ..)
        clear_value d2
        exact ((h2.next (Dev.touches_readImageHost ..)).next (Dev.touches_pumpImages ..)).next (Dev.touches_nvmeIssue ..)

theorem Dev.touches_takeCut (d : Dev) (k : Clock) (kf : ℕ) : d.Touches (.fab :: .gmem :: .mem :: .snap :: .work :: faultParts) (.snapEvNotPermitted :: .snapEvNotQuiet :: .snapEvCut :: .snapEvFail :: .snapFail :: faultFlds.append (devFaultFlds.append gmemFaultFlds)) (Dev.takeCut d k kf) := by
  unfold Dev.takeCut
  refine .ite ?_ ?_
  · exact .refl _
  · extract_lets -merge +onlyGivenNames d0
    have hd0 : d.Touches (.fab :: .gmem :: .mem :: .snap :: .work :: faultParts) (.snapEvNotPermitted :: .snapEvNotQuiet :: .snapEvCut :: .snapEvFail :: .snapFail :: faultFlds.append (devFaultFlds.append gmemFaultFlds)) d0 := by
      exact .next (.refl _) (Dev.touches_modSnap ..)
    clear_value d0
    refine .ite ?_ ?_
    · exact .next (hd0) (Dev.touches_flag ..)
    · refine .ite ?_ ?_
      · exact .next (hd0) (Dev.touches_flag ..)
      · extract_lets -merge +onlyGivenNames v1
        extract_lets -merge +onlyGivenNames d2
        have hd2 : d.Touches (.fab :: .gmem :: .mem :: .snap :: .work :: faultParts) (.snapEvNotPermitted :: .snapEvNotQuiet :: .snapEvCut :: .snapEvFail :: .snapFail :: faultFlds.append (devFaultFlds.append gmemFaultFlds)) d2 := by
          exact .next (hd0) (Dev.touches_modSnap ..)
        clear_value d2
        exact .next (.next (.next (hd2) (Dev.touches_startCopy ..)) (Dev.touches_flag ..)) (Dev.touches_captureFault ..)

theorem Dev.touches_mirrorsAtOpen (d : Dev) (kf : ℕ) : d.Touches [.acc, .snap] [] (Dev.mirrorsAtOpen d kf) := by
  unfold Dev.mirrorsAtOpen
  extract_lets -merge +onlyGivenNames v0
  extract_lets -merge +onlyGivenNames v1
  extract_lets -merge +onlyGivenNames d2
  have hd2 : d.Touches [.acc, .snap] [] d2 := by
    exact .next (.refl _) (Dev.touches_count ..)
  clear_value d2
  exact .next (hd2) (Dev.touches_modSnap ..)

theorem Dev.touches_snapOpen (d : Dev) (k : Clock) (kf : ℕ) : d.Touches (.fab :: .gmem :: .mem :: .snap :: .work :: faultParts) (.snapEvNotPermitted :: .snapEvNotQuiet :: .snapEvCut :: .snapEvFail :: .snapFail :: faultFlds.append (devFaultFlds.append gmemFaultFlds)) (Dev.snapOpen d k kf) := by
  unfold Dev.snapOpen
  exact .next (.next (.refl _) (Dev.touches_mirrorsAtOpen ..)) (Dev.touches_takeCut ..)

theorem Dev.touches_initStep (d : Dev) (status : ℕ) : d.Touches [.out, .snap] [] (Dev.initStep d status) := by
  unfold Dev.initStep
  refine .ite ?_ ?_
  · exact .next (.refl _) (Dev.touches_modSnap ..)
  · extract_lets -merge +onlyGivenNames d0
    have hd0 : d.Touches [.out, .snap] [] d0 := by
      exact .next (.refl _) (Dev.touches_modSnap ..)
    clear_value d0
    refine .ite ?_ ?_
    · exact .next (hd0) (Dev.touches_modSnap ..)
    · exact .next (hd0) (Dev.touches_nvmeIssue ..)

theorem Dev.touches_copyStep (d : Dev) (p : ImageParts) : d.Touches [.out, .snap] [] (Dev.copyStep d p) := by
  unfold Dev.copyStep
  extract_lets -merge +onlyGivenNames v0
  refine .next ?_ (Dev.touches_nvmeIssue ..)
  split
  · exact .next (.refl _) (Dev.touches_modSnap ..)
  · exact .next (.refl _) (Dev.touches_modSnap ..)

theorem Dev.touches_setNvme (d : Dev) (v : ℕ) : d.Touches [.out, .regs, .snap, .updated] [.snapNvmeEnable, .snapEvFail, .snapFail] (Dev.setNvme d v) := by
  unfold Dev.setNvme
  extract_lets -merge +onlyGivenNames v0
  extract_lets -merge +onlyGivenNames d1
  have hd1 : d.Touches [.out, .regs, .snap, .updated] [.snapNvmeEnable, .snapEvFail, .snapFail] d1 := by
    exact .next (.refl _) (Dev.touches_wr ..)
  clear_value d1
  refine .ite ?_ ?_
  · extract_lets -merge +onlyGivenNames d2
    have hd2 : d.Touches [.out, .regs, .snap, .updated] [.snapNvmeEnable, .snapEvFail, .snapFail] d2 := by
      unfold d2
      refine .ite ?_ ?_
      · exact .next (hd1) (Dev.touches_nvmeGive ..)
      · exact hd1
    clear_value d2
    extract_lets -merge +onlyGivenNames d3
    have hd3 : d.Touches [.out, .regs, .snap, .updated] [.snapNvmeEnable, .snapEvFail, .snapFail] d3 := by
      unfold d3
      refine .ite ?_ ?_
      · exact .next (hd2) (Dev.touches_snapFailed ..)
      · exact hd2
    clear_value d3
    exact .next (hd3) (Dev.touches_modSnap ..)
  · refine .ite ?_ ?_
    · exact .next (.next (hd1) (Dev.touches_modSnap ..)) (Dev.touches_nvmeIssue ..)
    · exact hd1

theorem Dev.touches_mirrorClose (d : Dev) (k : Clock) (f : ℕ) : d.Touches (.fab :: .gmem :: .snap :: .work :: faultParts) (faultFlds.append (devFaultFlds.append gmemFaultFlds)) (Dev.mirrorClose d k f) := by
  unfold Dev.mirrorClose
  split
  · exact .refl _
  · refine .ite ?_ ?_
    · exact .next (.refl _) (Dev.touches_hostHomeLost ..)
    · extract_lets -merge +onlyGivenNames d2
      have hd2 : d.Touches (.fab :: .gmem :: .snap :: .work :: faultParts) (faultFlds.append (devFaultFlds.append gmemFaultFlds)) d2 := by
        exact .next (.refl _) (Dev.touches_readImageHost ..)
      clear_value d2
      extract_lets -merge +onlyGivenNames v3
      extract_lets -merge +onlyGivenNames d4
      have hd4 : d.Touches (.fab :: .gmem :: .snap :: .work :: faultParts) (faultFlds.append (devFaultFlds.append gmemFaultFlds)) d4 := by
        exact .next (hd2) (Dev.touches_modSnap ..)
      clear_value d4
      exact .next (.next (hd4) (Dev.touches_pumpImages ..)) (Dev.touches_captureFault ..)

theorem Dev.touches_blockTraffic (d : Dev) : d.Touches [.work] [] (Dev.blockTraffic d) := by
  unfold Dev.blockTraffic
  extract_lets -merge +onlyGivenNames d0
  have hd0 : d.Touches [.work] [] d0 := by
    refine .foldl ?_ fun e1 x2 _ => ?_
    · exact .refl _
    · exact .next (.refl _) (Dev.touches_carry ..)
  clear_value d0
  extract_lets -merge +onlyGivenNames d3
  have hd3 : d.Touches [.work] [] d3 := by
    exact .next (hd0) (Dev.touches_carry ..)
  clear_value d3
  split
  · exact .next (hd3) (Dev.touches_touch ..)
  · exact hd3

theorem Dev.touches_mirrorTraffic (d : Dev) (p : ImageParts) (bank : Option ℕ) (len : ℕ) : d.Touches [.work] [] (Dev.mirrorTraffic d p bank len) := by
  unfold Dev.mirrorTraffic
  extract_lets -merge +onlyGivenNames d0
  have hd0 : d.Touches [.work] [] d0 := by
    refine .foldl ?_ fun e1 x2 _ => ?_
    · exact .next (.refl _) (Dev.touches_blockTraffic ..)
    · split
      · split
        · exact .refl _
        · refine .ite ?_ ?_
          · exact .next (.refl _) (Dev.touches_touch ..)
          · split
            · exact .refl _
            · refine .foldl ?_ fun e9 x10 _ => ?_
              · exact .refl _
              · split
                · exact .next (.refl _) (Dev.touches_carry ..)
  clear_value d0
  split
  · exact .next (hd0) (Dev.touches_touchW ..)
  · exact hd0

theorem Dev.touches_sendImage (d : Dev) (k : Clock) (img : List Byte) (f : ℕ) (flags : ℕ) : d.Touches [.acc, .fab, .out, .sec, .work] [] (Dev.sendImage d k img f flags) := by
  unfold Dev.sendImage
  extract_lets -merge +onlyGivenNames d0
  have hd0 : d.Touches [.acc, .fab, .out, .sec, .work] [] d0 := by
    refine .foldl ?_ fun e1 x2 _ => ?_
    · exact .refl _
    · exact .next (.refl _) (Dev.touches_sendOneHop ..)
  clear_value d0
  exact .next (hd0) (Dev.touches_sendOneHop ..)

theorem Dev.touches_keepCutBank (d : Dev) (base bound from_ len : Nat) :
    d.Touches [.acc, .fab, .mem, .out, .sec, .work] [] (d.keepCutBank base bound from_ len) := by
  unfold Dev.keepCutBank
  extract_lets +onlyGivenNames n d1
  have h1 : d.Touches [.acc, .fab, .mem, .out, .sec, .work] [] d1 := .next (.mono (Dev.touches_touch ..)) (Dev.touches_touchW ..)
  clear_value d1
  exact h1.withMem rfl fun h => Mem.wf_setHbm h (Memory.writeN_wf _ _ _ (Mem.hbm_wf h)) _

theorem Dev.touches_restoreObject (d : Dev) (i : ℕ) (e : ObjEntry) (bs : List Byte) : d.Touches [.mem, .out, .snap, .twin] [] (Dev.restoreObject d i e bs) := by
  unfold Dev.restoreObject
  refine .ite ?_ ?_
  · exact .next (.refl _) (Dev.touches_locWrite ..)
  · split
    · exact .refl _
    · exact .next (.next (.refl _) (Dev.touches_homePut ..)) (Dev.touches_modSnap ..)

theorem Dev.touches_restoreHerd (d : Dev) (m : Image) (b : List Byte) : d.Touches [.acc, .fab, .mem, .out, .sec, .snap, .twin, .work] [] (d.restoreHerd m b).1 := by
  unfold Dev.restoreHerd
  split
  · exact .refl d
  · extract_lets +onlyGivenNames table w d1 gone
    have h1 : d.Touches [.acc, .fab, .mem, .out, .sec, .snap, .twin, .work] [] d1 := .withMem (.refl d) rfl fun h =>
      Mem.wf_setHbm h (Memory.writeN_wf _ _ _ (Memory.clear_wf _ _ _ (Mem.hbm_wf h))) _
    clear_value d1
    exact h1.foldl fun e x _ => .mono (Dev.touches_setSlot ..)

theorem Dev.touches_restoreState (d : Dev) (m : Image) (b : List Byte) (kf : ℕ) : d.Touches [.acc, .fab, .gmem, .image, .mem, .out, .sec, .snap, .twin, .work] [] (Dev.restoreState d m b kf) := by
  unfold Dev.restoreState
  extract_lets -merge +onlyGivenNames v0
  extract_lets -merge +onlyGivenNames v1 d2
  have hd2 : d.Touches [.acc, .fab, .gmem, .image, .mem, .out, .sec, .snap, .twin, .work] [] d2 := by
    exact .set (.refl _) rfl
  clear_value d2
  extract_lets -merge +onlyGivenNames d3
  have hd3 : d.Touches [.acc, .fab, .gmem, .image, .mem, .out, .sec, .snap, .twin, .work] [] d3 := by
    refine .foldl ?_ fun e4 x5 _ => ?_
    · exact hd2
    · exact .next (.refl _) (Dev.touches_setWindow ..)
  clear_value d3
  extract_lets -merge +onlyGivenNames v6
  extract_lets -merge +onlyGivenNames d7
  have hd7 : d.Touches [.acc, .fab, .gmem, .image, .mem, .out, .sec, .snap, .twin, .work] [] d7 := by
    exact .next (hd3) (Dev.touches_modGmem ..)
  clear_value d7
  split
  next d8 x9 heq =>
    have hd8 : d.Touches [.acc, .fab, .gmem, .image, .mem, .out, .sec, .snap, .twin, .work] [] d8 := by
      refine .of_fst ?_ heq
      exact .next (hd7) (Dev.touches_restoreHerd ..)
    exact .next (hd8) (Dev.touches_modSnap ..)

theorem Dev.touches_dropObject (d : Dev) : d.Touches (.gmem :: .image :: .snap :: .tier :: phaseParts) eventFlds (Dev.dropObject d) := by
  unfold Dev.dropObject
  extract_lets -merge +onlyGivenNames v0 v1 v2 d3
  have hd3 : d.Touches (.gmem :: .image :: .snap :: .tier :: phaseParts) eventFlds d3 := by
    exact .set (.refl _) rfl
  clear_value d3
  exact .next (.next (hd3) (Dev.touches_modSnap ..)) (Dev.touches_setPhase ..)

theorem Dev.touches_modFrame (d : Dev) (f : Frame → Frame) : d.Touches [.frame] [] (Dev.modFrame d f) := by
  unfold Dev.modFrame
  exact .set (.refl _) rfl

theorem Dev.touches_loadTemplates (d : Dev) (m : Image) (c : Fin 48) : d.Touches [.mem] [] (d.loadTemplates m c) :=
  .withMem (.refl d) rfl fun h => Mem.wf_setTile h (Memory.writeN_wf _ _ _ (Mem.tile_wf h c)) c _

theorem Dev.touches_copyQuotas (d : Dev) (m : Image) : d.Touches [.acc, .mem, .regs, .snap, .twin] [.sepStatsHi, .sepStatsLo] (d.copyQuotas m) := by
  unfold Dev.copyQuotas
  split
  · exact .refl d
  · next p _ =>
    extract_lets +onlyGivenNames d1
    have h1 : d.Touches [.acc, .mem, .regs, .snap, .twin] [.sepStatsHi, .sepStatsLo] d1 := Dev.touches_foldl d fun e x _ => .mono (Dev.touches_hbmWrite ..)
    clear_value d1
    refine h1.foldl fun e x hx => ?_
    have hx' := List.mem_range.1 hx
    exact .next (.mono (Dev.touches_wr e .sepStatsLo _ x 0 (by omega))) (Dev.touches_wr _ .sepStatsHi _ x 0 (by omega))

theorem Dev.touches_becomeArmed (d : Dev) (k : Clock) : d.Touches (.duty :: .churn :: .coll :: .cores :: .fab :: .frame :: .herd :: .layerInv :: .mem :: .pail :: .sep :: .snap :: .sync :: .tier :: .twin :: .work :: .xch :: faultParts) (.sepStatsHi :: .sepStatsLo :: eventFlds) (d.becomeArmed k) := by
  unfold Dev.becomeArmed
  split
  · exact .refl d
  · next m _ =>
    extract_lets +onlyGivenNames w1 w2 d1 d2 d3
    have h1 : d.Touches (.duty :: .churn :: .coll :: .cores :: .fab :: .frame :: .herd :: .layerInv :: .mem :: .pail :: .sep :: .snap :: .sync :: .tier :: .twin :: .work :: .xch :: faultParts) (.sepStatsHi :: .sepStatsLo :: eventFlds) d1 := .withMem (.refl d) rfl fun h => Mem.wf_statCleared h _
    clear_value d1
    have h2 : d.Touches (.duty :: .churn :: .coll :: .cores :: .fab :: .frame :: .herd :: .layerInv :: .mem :: .pail :: .sep :: .snap :: .sync :: .tier :: .twin :: .work :: .xch :: faultParts) (.sepStatsHi :: .sepStatsLo :: eventFlds) d2 := h1.foldl fun e c _ => .mono (Dev.touches_loadTemplates ..)
    clear_value d2
    have h3 : d.Touches (.duty :: .churn :: .coll :: .cores :: .fab :: .frame :: .herd :: .layerInv :: .mem :: .pail :: .sep :: .snap :: .sync :: .tier :: .twin :: .work :: .xch :: faultParts) (.sepStatsHi :: .sepStatsLo :: eventFlds) d3 :=
      ((h2.next (Dev.touches_copyQuotas ..)).next (Dev.touches_herdArm ..)).next (Dev.touches_setPhase ..)
    clear_value d3
    exact (h3.next (Dev.touches_report ..)).next (Dev.touches_sendArm ..)

theorem Dev.touches_launchMissed (d : Dev) (k : Clock) (cause : ℕ) : d.Touches faultParts (.tickFaultEngine :: .tickFaultCause :: .tickFaultCode :: .tickEvLaunchMissed :: faultFlds) (Dev.launchMissed d k cause) := by
  unfold Dev.launchMissed
  exact .next (.next (.refl _) (Dev.touches_flag ..)) (Dev.touches_tickFault ..)

theorem Dev.touches_armCommand (d : Dev) (k : Clock) : d.Touches (.churn :: .coll :: .cores :: .duty :: .fab :: .frame :: .herd :: .layerInv :: .mem :: .pail :: .sep :: .snap :: .sync :: .tier :: .twin :: .work :: .xch :: faultParts) (.tickFaultEngine :: .tickFaultCause :: .tickFaultCode :: .tickEvLaunchMissed :: .twinLsArmField :: .twinLsArmRefuse :: .sepStatsHi :: .sepStatsLo :: faultFlds) (Dev.armCommand d k).1 := by
  unfold Dev.armCommand
  split
  · exact .fst (.refl _)
  · split
    · exact .fst (.next (.refl _) (Dev.touches_launchMissed ..))
    · split
      · exact .fst (.next (.refl _) (Dev.touches_launchMissed ..))
      · split
        · exact .fst (.next (.next (.next (.refl _) (Dev.touches_flag ..)) (Dev.touches_wr ..)) (Dev.touches_launchMissed ..))
        · exact .fst (.next (.refl _) (Dev.touches_becomeArmed ..))

theorem Dev.touches_disarmCommand (d : Dev) (k : Clock) : d.Touches (.duty :: .fab :: .work :: faultParts) (.tickLaunchLo :: .tickLaunchHi :: eventFlds) (Dev.disarmCommand d k).1 := by
  unfold Dev.disarmCommand
  split
  · exact .fst (.refl _)
  · exact .fst (.next (.next (.next (.refl _) (Dev.touches_wr64 ..)) (Dev.touches_setPhase ..)) (Dev.touches_sendArm ..))

theorem Dev.touches_openFrame (d : Dev) (k : Clock) (n : ℕ) (b : ℕ) : d.Touches (.cores :: .fab :: .frame :: .gmem :: .herd :: .layerInv :: .mem :: .pail :: .snap :: .tier :: .twin :: .work :: .xch :: faultParts) (.snapEvNotPermitted :: .snapEvNotQuiet :: .snapEvCut :: .snapEvFail :: .snapFail :: faultFlds.append (devFaultFlds.append (gmemFaultFlds.append (lockFaultFlds.append herdFlds)))) (Dev.openFrame d k n b) := by
  unfold Dev.openFrame
  extract_lets -merge +onlyGivenNames v0
  extract_lets -merge +onlyGivenNames d1
  have hd1 : d.Touches (.cores :: .fab :: .frame :: .gmem :: .herd :: .layerInv :: .mem :: .pail :: .snap :: .tier :: .twin :: .work :: .xch :: faultParts) (.snapEvNotPermitted :: .snapEvNotQuiet :: .snapEvCut :: .snapEvFail :: .snapFail :: faultFlds.append (devFaultFlds.append (gmemFaultFlds.append (lockFaultFlds.append herdFlds)))) d1 := by
    exact .set (.refl _) rfl
  clear_value d1
  extract_lets -merge +onlyGivenNames d2
  have hd2 : d.Touches (.cores :: .fab :: .frame :: .gmem :: .herd :: .layerInv :: .mem :: .pail :: .snap :: .tier :: .twin :: .work :: .xch :: faultParts) (.snapEvNotPermitted :: .snapEvNotQuiet :: .snapEvCut :: .snapEvFail :: .snapFail :: faultFlds.append (devFaultFlds.append (gmemFaultFlds.append (lockFaultFlds.append herdFlds)))) d2 := by
    exact .next (.next (.next (.next (hd1) (Dev.touches_freeReturning ..)) (Dev.touches_snapOpen ..)) (Dev.touches_windowsAtOpen ..)) (Dev.touches_latePromotes ..)
  clear_value d2
  extract_lets -merge +onlyGivenNames d3
  have hd3 : d.Touches (.cores :: .fab :: .frame :: .gmem :: .herd :: .layerInv :: .mem :: .pail :: .snap :: .tier :: .twin :: .work :: .xch :: faultParts) (.snapEvNotPermitted :: .snapEvNotQuiet :: .snapEvCut :: .snapEvFail :: .snapFail :: faultFlds.append (devFaultFlds.append (gmemFaultFlds.append (lockFaultFlds.append herdFlds)))) d3 := by
    unfold d3
    split
    · exact .next (hd2) (Dev.touches_herdBegin ..)
    · exact .next (.next (hd2) (Dev.touches_dropStale ..)) (Dev.touches_tierOpen ..)
  clear_value d3
  exact .next (.next (.next (hd3) (Dev.touches_markEmptySlots ..)) (Dev.touches_lsOpen ..)) (Dev.touches_lsStep ..)

theorem Dev.touches_registerKey (d : Dev) : d.Touches [.duty, .fab, .gmem, .job] [] (Dev.registerKey d) := by
  unfold Dev.registerKey
  extract_lets -merge +onlyGivenNames d0
  have hd0 : d.Touches [.duty, .fab, .gmem, .job] [] d0 := by
    exact .next (.refl _) (Dev.touches_forgetKey ..)
  clear_value d0
  extract_lets -merge +onlyGivenNames v1 v2 d3
  have hd3 : d.Touches [.duty, .fab, .gmem, .job] [] d3 := by
    exact .set (hd0) rfl
  clear_value d3
  exact .next (hd3) (Dev.touches_modJob ..)

theorem Dev.touches_issueFrom (d : Dev) (k : Clock) : d.Touches [.cores] [] (Dev.issueFrom d k) := by
  unfold Dev.issueFrom
  exact .set (.refl _) rfl

theorem Dev.touches_startDrain (d : Dev) (k : Clock) : d.Touches (.duty :: .fab :: .herd :: .mem :: .snap :: .tier :: .twin :: .work :: faultParts) (.jobHerdFinished :: .jobHerdRejects :: .jobHerdOutLost :: faultFlds.append (devFaultFlds.append lockFaultFlds)) (Dev.startDrain d k) := by
  unfold Dev.startDrain
  exact .next (.next (.next (.next (.refl _) (Dev.touches_modJob ..)) (Dev.touches_setPhase ..)) (Dev.touches_herdDrain ..)) (Dev.touches_sendArm ..)

theorem Dev.touches_drainIfStopped (d : Dev) (k : Clock) : d.Touches (.duty :: .fab :: .herd :: .mem :: .snap :: .tier :: .twin :: .work :: faultParts) (.jobHerdFinished :: .jobHerdRejects :: .jobHerdOutLost :: faultFlds.append (devFaultFlds.append lockFaultFlds)) (Dev.drainIfStopped d k) := by
  unfold Dev.drainIfStopped
  refine .ite ?_ ?_
  · exact .next (.refl _) (Dev.touches_startDrain ..)
  · exact .refl _

theorem Dev.touches_checkDecls (d : Dev) (close : ℕ) : d.Touches [.regs, .updated] [.tickEvDecl, .tickDeclValid, .tickDeclEngine, .tickDeclSlot] (Dev.checkDecls d close) := by
  unfold Dev.checkDecls
  split
  · exact .refl _
  · split
    · exact .refl _
    · extract_lets -merge +onlyGivenNames d4
      have hd4 : d.Touches [.regs, .updated] [.tickEvDecl, .tickDeclValid, .tickDeclEngine, .tickDeclSlot] d4 := by
        exact .next (.refl _) (Dev.touches_flag ..)
      clear_value d4
      refine .ite ?_ ?_
      · exact hd4
      · exact .next (.next (.next (hd4) (Dev.touches_wr ..)) (Dev.touches_wr ..)) (Dev.touches_flag ..)

theorem Dev.touches_settleWaits (d : Dev) (k : Clock) : d.Touches [.acc, .coll, .gmem, .pail, .tier, .twin] [] (Dev.settleWaits d k) := by
  unfold Dev.settleWaits
  extract_lets -merge +onlyGivenNames d0
  have hd0 : d.Touches [.acc, .coll, .gmem, .pail, .tier, .twin] [] d0 := by
    unfold d0
    split
    · exact .next (.next (.refl _) (Dev.touches_count ..)) (Dev.touches_modGmem ..)
    · exact .refl _
  clear_value d0
  extract_lets -merge +onlyGivenNames d3
  have hd3 : d.Touches [.acc, .coll, .gmem, .pail, .tier, .twin] [] d3 := by
    unfold d3
    split
    · exact .next (.next (hd0) (Dev.touches_count ..)) (Dev.touches_modColl ..)
    · exact hd0
  clear_value d3
  extract_lets -merge +onlyGivenNames v6 d7
  have hd7 : d.Touches [.acc, .coll, .gmem, .pail, .tier, .twin] [] d7 := by
    unfold d7
    split
    · extract_lets -merge +onlyGivenNames d9
      have hd9 : d.Touches [.acc, .coll, .gmem, .pail, .tier, .twin] [] d9 := by
        exact .next (hd3) (Dev.touches_count ..)
      clear_value d9
      exact .set (hd9) rfl
    · exact hd3
  clear_value d7
  extract_lets -merge +onlyGivenNames d11
  have hd11 : d.Touches [.acc, .coll, .gmem, .pail, .tier, .twin] [] d11 := by
    unfold d11
    split
    · exact .next (.next (hd7) (Dev.touches_count ..)) (Dev.touches_modTier ..)
    · exact hd7
  clear_value d11
  exact .next (.next (hd11) (Dev.touches_count ..)) (Dev.touches_modTwin ..)

theorem Dev.touches_latchFrame (d : Dev) (k : Clock) (close : Nat) : d.Touches [.acc, .coll, .gmem, .host, .pail, .pwr, .regs, .tier, .twin, .updated] allFlds (d.latchFrame k close) := by
  unfold Dev.latchFrame
  extract_lets late d1 d2 d3 d4 d5 d6 d7
  have h1 : d.Touches [.acc, .coll, .gmem, .host, .pail, .pwr, .regs, .tier, .twin, .updated] allFlds d1 := ((Dev.Touches.refl d).nextAny (Dev.touches_wr ..)).nextAny (Dev.touches_wr ..)
  clear_value d1
  have h2 : d.Touches [.acc, .coll, .gmem, .host, .pail, .pwr, .regs, .tier, .twin, .updated] allFlds d2 := .ite (h1.nextAny (Dev.touches_flag ..)) h1
  clear_value d2
  have h5 : d.Touches [.acc, .coll, .gmem, .host, .pail, .pwr, .regs, .tier, .twin, .updated] allFlds d5 := (((h2.nextAny (Dev.touches_checkDecls ..)).nextAny (Dev.touches_settleWaits ..)).nextAny
    (Dev.touches_latch ..)).nextAny (Dev.touches_latchSummary ..)
  clear_value d5
  have h6 : d.Touches [.acc, .coll, .gmem, .host, .pail, .pwr, .regs, .tier, .twin, .updated] allFlds d6 := h5.foldl fun e b hb => by
    have hb' := List.mem_range.1 hb
    exact .ite (.refl e) ((Dev.Touches.refl e).nextAny (Dev.touches_flag e .hubBridgeOvershareSeen 0 b (by omega) (by omega)))
  clear_value d6
  have h7 : d.Touches [.acc, .coll, .gmem, .host, .pail, .pwr, .regs, .tier, .twin, .updated] allFlds d7 := h6.foldl fun e x hx => by
    have hx' := List.mem_range.1 hx
    exact (Dev.Touches.refl e).nextAny (Dev.touches_wr e .sepStatsBuf _ x 0 (by omega))
  clear_value d7
  exact h7.foldl fun e c hc => by
    have hc' := List.mem_range.1 hc
    exact (Dev.Touches.refl e).nextAny (Dev.touches_wr e .pailLow _ 0 c (by omega) (by omega))

theorem Dev.touches_teardown (d : Dev) (completed : Bool) : d.Touches [.churn, .coll, .cores, .fab, .gmem, .herd, .layerInv, .mem, .pail, .sep, .snap, .tier, .twin, .work, .xch] [] (d.teardown completed) := by
  unfold Dev.teardown
  extract_lets +onlyGivenNames d0 w1 w2 w3 w4 w5 d1 w6 d2
  have h0 : d.Touches [.churn, .coll, .cores, .fab, .gmem, .herd, .layerInv, .mem, .pail, .sep, .snap, .tier, .twin, .work, .xch] [] d0 := .mono (Dev.touches_forgetKey ..)
  clear_value d0
  have h1 : d.Touches [.churn, .coll, .cores, .fab, .gmem, .herd, .layerInv, .mem, .pail, .sep, .snap, .tier, .twin, .work, .xch] [] d1 := h0.withMem rfl fun h => Mem.wf_cleared h _ _ _
  clear_value d1
  have h2 : d.Touches [.churn, .coll, .cores, .fab, .gmem, .herd, .layerInv, .mem, .pail, .sep, .snap, .tier, .twin, .work, .xch] [] d2 := by
    unfold d2
    split
    · exact h1.withMem rfl fun h => Mem.wf_setHbm h (Memory.clear_wf _ _ _ (Mem.hbm_wf h)) _
    · exact h1
  clear_value d2
  exact h2.set rfl

theorem Dev.touches_loadedRange (d : Dev) : d.Touches [.free] [] (Dev.loadedRange d).2 := by
  unfold Dev.loadedRange
  extract_lets -merge +onlyGivenNames v0
  extract_lets -merge +onlyGivenNames v1
  refine .foldl_snd ?_ fun b3 e2 x4 _ => ?_
  · exact .snd (.refl _)
  · beta_reduce
    dsimp -zeta only
    extract_lets -merge +onlyGivenNames v5
    exact .snd (.set (.refl _) rfl)

theorem Dev.touches_admitResult (d : Dev) (code : ℕ) (detail : ℕ) (level : ℕ) (fw : Bool) : d.Touches eventParts (.jobAdmitValid :: .jobAdmitFwplaced :: .jobAdmitLevel :: .jobAdmitDetail :: .jobAdmitCode :: eventFlds) (Dev.admitResult d code detail level fw) := by
  unfold Dev.admitResult
  exact .next (.next (.next (.next (.next (.next (.refl _) (Dev.touches_wr ..)) (Dev.touches_wr ..)) (Dev.touches_wr ..)) (Dev.touches_wr ..)) (Dev.touches_wr ..)) (Dev.touches_hostEvent ..)

theorem Dev.touches_holdImage (d : Dev) (m : Image) : d.Touches [.ctl, .gmem, .image, .tier] [] (Dev.holdImage d m) := by
  unfold Dev.holdImage
  extract_lets -merge +onlyGivenNames v0 d1
  have hd1 : d.Touches [.ctl, .gmem, .image, .tier] [] d1 := by
    exact .set (.refl _) rfl
  clear_value d1
  extract_lets -merge +onlyGivenNames d2
  have hd2 : d.Touches [.ctl, .gmem, .image, .tier] [] d2 := by
    exact .next (hd1) (Dev.touches_modGmem ..)
  clear_value d2
  refine .next ?_ (Dev.touches_placeObjs ..)
  refine .foldl ?_ fun e3 x4 _ => ?_
  · exact hd2
  · split
    · exact .next (.refl _) (Dev.touches_setWindow ..)

theorem Dev.touches_startLoading (d : Dev) : d.Touches (.frame :: .gmem :: .image :: .snap :: .twin :: phaseParts) (.jobStopFrameLo :: .jobStopFrameHi :: loadClears.append (coreFaultFlds.append eventFlds)) d.startLoading := by
  unfold Dev.startLoading
  extract_lets +onlyGivenNames d1 d2 w1 w2 w3 w4 d3 d4
  have h1 : d.Touches (.frame :: .gmem :: .image :: .snap :: .twin :: phaseParts) (.jobStopFrameLo :: .jobStopFrameHi :: loadClears.append (coreFaultFlds.append eventFlds)) d1 := Dev.touches_foldl d fun e f hf =>
    .mono (Dev.touches_wr _ f 0) (by decide) (fun g hg => by
      rw [List.mem_singleton.1 hg]
      exact (show loadClears ⊆ (.jobStopFrameLo :: .jobStopFrameHi :: loadClears.append (coreFaultFlds.append eventFlds)) by decide) hf)
  clear_value d1
  have h2 : d.Touches (.frame :: .gmem :: .image :: .snap :: .twin :: phaseParts) (.jobStopFrameLo :: .jobStopFrameHi :: loadClears.append (coreFaultFlds.append eventFlds)) d2 := h1.foldl fun e c hc => Dev.touches_foldl e fun e f hf =>
    have := List.mem_range.1 hc
    .mono (Dev.touches_wr _ f 0 c 0 (by omega)) (by decide) (fun g hg => by
      rw [List.mem_singleton.1 hg]
      exact (show coreFaultFlds ⊆ (.jobStopFrameLo :: .jobStopFrameHi :: loadClears.append (coreFaultFlds.append eventFlds)) by decide) hf)
  clear_value d2
  have h3 : d.Touches (.frame :: .gmem :: .image :: .snap :: .twin :: phaseParts) (.jobStopFrameLo :: .jobStopFrameHi :: loadClears.append (coreFaultFlds.append eventFlds)) d3 := h2.set rfl
  clear_value d3
  have h4 : d.Touches (.frame :: .gmem :: .image :: .snap :: .twin :: phaseParts) (.jobStopFrameLo :: .jobStopFrameHi :: loadClears.append (coreFaultFlds.append eventFlds)) d4 := h3.next (Dev.touches_modJob ..)
  clear_value d4
  exact (h4.next (Dev.touches_wr64 ..)).next (Dev.touches_setPhase ..)

theorem Dev.touches_startAbort (d : Dev) (k : Clock) : d.Touches [.duty, .job] [] (Dev.startAbort d k) := by
  unfold Dev.startAbort
  exact .next (.refl _) (Dev.touches_modJob ..)

theorem Dev.touches_setStop (d : Dev) (k : Clock) (n : ℕ) : d.Touches (.duty :: .fab :: .herd :: .mem :: .snap :: .tier :: .twin :: .work :: faultParts) (.jobHerdFinished :: .jobHerdRejects :: .jobHerdOutLost :: faultFlds.append (devFaultFlds.append lockFaultFlds)) (Dev.setStop d k n) := by
  unfold Dev.setStop
  exact .next (.next (.next (.refl _) (Dev.touches_modJob ..)) (Dev.touches_sendArm ..)) (Dev.touches_drainIfStopped ..)

theorem Dev.touches_writeStopHi (d : Dev) (k : Clock) (v : ℕ) : d.Touches (.duty :: .fab :: .herd :: .mem :: .snap :: .tier :: .twin :: .work :: faultParts) (.jobHerdFinished :: .jobHerdRejects :: .jobHerdOutLost :: .jobStopFrameHi :: faultFlds.append (devFaultFlds.append lockFaultFlds)) (Dev.writeStopHi d k v).1 := by
  unfold Dev.writeStopHi
  extract_lets -merge +onlyGivenNames v0
  split
  · extract_lets -merge +onlyGivenNames v1
    exact .fst (.next (.next (.refl _) (Dev.touches_wr ..)) (Dev.touches_setStop ..))
  · exact .fst (.refl _)

theorem Dev.touches_writeStopLo (d : Dev) (v : ℕ) : d.Touches [.regs] [.jobStopFrameLo] (Dev.writeStopLo d v).1 := by
  unfold Dev.writeStopLo
  extract_lets -merge +onlyGivenNames v0
  split
  · exact .fst (.next (.refl _) (Dev.touches_wr ..))
  · exact .fst (.refl _)

theorem Dev.touches_jobCommand (d : Dev) (k : Clock) (op : ℕ) : d.Touches (.duty :: .fab :: .frame :: .gmem :: .herd :: .image :: .mem :: .snap :: .tier :: .twin :: .work :: faultParts) (.jobCmdCause :: .jobCmdLast :: .jobCmdReject :: .jobStopFrameLo :: .jobStopFrameHi :: .jobHerdFinished :: .jobHerdRejects :: .jobHerdOutLost :: loadClears.append (coreFaultFlds.append eventFlds)) (Dev.jobCommand d k op).1 := by
  unfold Dev.jobCommand
  split
  · exact .fst (.refl _)
  · extract_lets -merge +onlyGivenNames v0
    extract_lets -merge +onlyGivenNames d1
    have hd1 : d.Touches (.duty :: .fab :: .frame :: .gmem :: .herd :: .image :: .mem :: .snap :: .tier :: .twin :: .work :: faultParts) (.jobCmdCause :: .jobCmdLast :: .jobCmdReject :: .jobStopFrameLo :: .jobStopFrameHi :: .jobHerdFinished :: .jobHerdRejects :: .jobHerdOutLost :: loadClears.append (coreFaultFlds.append eventFlds)) d1 := by
      exact .next (.next (.refl _) (Dev.touches_wr ..)) (Dev.touches_wr ..)
    clear_value d1
    split
    · exact .fst (.next (hd1) (Dev.touches_flag ..))
    · refine .fst ?_
      split
      · exact .next (hd1) (Dev.touches_startLoading ..)
      · exact .next (hd1) (Dev.touches_startAbort ..)
      · refine .ite ?_ ?_
        · exact .next (.next (hd1) (Dev.touches_wr64 ..)) (Dev.touches_setStop ..)
        · exact hd1
      · extract_lets -merge +onlyGivenNames d6
        have hd6 : d.Touches (.duty :: .fab :: .frame :: .gmem :: .herd :: .image :: .mem :: .snap :: .tier :: .twin :: .work :: faultParts) (.jobCmdCause :: .jobCmdLast :: .jobCmdReject :: .jobStopFrameLo :: .jobStopFrameHi :: .jobHerdFinished :: .jobHerdRejects :: .jobHerdOutLost :: loadClears.append (coreFaultFlds.append eventFlds)) d6 := by
          exact .next (hd1) (Dev.touches_modJob ..)
        clear_value d6
        exact .set (hd6) rfl

theorem Dev.touches_modStart (d : Dev) (f : Start → Start) : d.Touches [.start] [] (Dev.modStart d f) := by
  unfold Dev.modStart
  exact .set (.refl _) rfl

theorem Dev.touches_modSec (d : Dev) (f : Sec → Sec) : d.Touches [.sec] [] (Dev.modSec d f) := by
  unfold Dev.modSec
  exact .set (.refl _) rfl

theorem rising_flashPut (m : Memory) (a : Nat) (bs : List Byte) (h : Sparse.rising none m = true) :
    Sparse.rising none (flashPut m a bs) = true := by
  induction bs generalizing m a with
  | nil => exact h
  | cons b t ih => exact ih _ _ (Sparse.rising_set _ _ _ _ h)

theorem Dev.touches_flashWrite (d : Dev) (a : Nat) (bs : List Byte) : d.Touches [.mem] [] (d.flashWrite a bs) := by
  refine .withMem (.refl d) rfl fun h => ?_
  have hk := (Mem.wf_iff _).1 h
  obtain ⟨hh, ht, hd, hs, ho, hn, hf⟩ := hk
  exact (Mem.wf_iff _).2 ⟨hh, ht, hd, hs, ho, hn, rising_flashPut _ _ _ hf⟩

theorem Dev.touches_flashErase (d : Dev) (a : ℕ) : d.Touches [.mem] [] (Dev.flashErase d a) := by
  unfold Dev.flashErase
  exact .next (.refl _) (Dev.touches_flashWrite ..)

theorem Dev.touches_freeBytes (d : Dev) (n : ℕ) : d.Touches [.free] [] (Dev.freeBytes d n).2 := by
  unfold Dev.freeBytes
  exact .snd (.set (.refl _) rfl)

theorem Dev.touches_breakFlash (d : Dev) : d.Touches [.free, .host, .mem] [] (Dev.breakFlash d) := by
  unfold Dev.breakFlash
  split
  · exact .refl _
  · split
    next x2 d3 heq =>
      have hd3 : d.Touches [.free, .host, .mem] [] d3 := by
        refine .of_snd ?_ heq
        exact .next (.refl _) (Dev.touches_freeBytes ..)
      exact .next (.next (hd3) (Dev.touches_flashWrite ..)) (Dev.touches_modIf ..)

theorem Dev.touches_turnOff (d : Dev) : d.Touches [.host, .start] [] (Dev.turnOff d) := by
  unfold Dev.turnOff
  refine .ite ?_ ?_
  · exact .refl _
  · exact .next (.next (.refl _) (Dev.touches_modStart ..)) (Dev.touches_smbEvent ..)

theorem Dev.touches_powerLost (d : Dev) : d.Touches [.host, .start] [] (Dev.powerLost d) := by
  unfold Dev.powerLost
  exact .next (.next (.refl _) (Dev.touches_turnOff ..)) (Dev.touches_modStart ..)

theorem Dev.touches_zeroLent (d : Dev) : d.Touches [.mem] [] d.zeroLent := by
  unfold Dev.zeroLent
  split
  · exact .refl d
  · exact .withMem (.refl d) rfl fun h => Mem.wf_setHbm h (Memory.clear_wf _ _ _ (Mem.hbm_wf h)) _

theorem Dev.touches_restart (d : Dev) (warm links : Bool) (count : Nat) :
    d.Touches [.duty, .regs, .acc, .ctl, .start, .sync, .job, .image, .frame, .cores, .mem, .sep, .layerInv, .churn, .pail, .xch, .tier, .gmem, .herd, .coll, .fab, .twin, .snap, .sec, .host, .pwr, .work, .updated] allFlds (d.restart warm links count) where
  same p hp := by cases p <;> first | rfl | exact absurd (by decide) hp
  reads f _ _ hf := absurd f.mem_allFlds hf
  canon hc := ⟨Mem.wf_cleared hc.mem _ _ _, rfl⟩

theorem Dev.touches_setStart (d : Dev) (st : StartState) : d.Touches (.start :: eventParts) eventFlds (Dev.setStart d st) := by
  unfold Dev.setStart
  extract_lets -merge +onlyGivenNames d0
  have hd0 : d.Touches (.start :: eventParts) eventFlds d0 := by
    exact .next (.next (.next (.refl _) (Dev.touches_modStart ..)) (Dev.touches_hostEvent ..)) (Dev.touches_smbEvent ..)
  clear_value d0
  refine .ite ?_ ?_
  · exact .next (hd0) (Dev.touches_smbEvent ..)
  · exact hd0

theorem Dev.touches_deriveKeys (d : Dev) : d.Touches [.sec] [] (Dev.deriveKeys d) := by
  unfold Dev.deriveKeys
  refine .ite ?_ ?_
  · exact .refl _
  · exact .next (.refl _) (Dev.touches_modSec ..)

theorem Dev.touches_measureIdentity (d : Dev) : d.Touches [.sec, .start] [] (Dev.measureIdentity d) := by
  unfold Dev.measureIdentity
  extract_lets -merge +onlyGivenNames d0
  have hd0 : d.Touches [.sec, .start] [] d0 := by
    exact .next (.refl _) (Dev.touches_modSec ..)
  clear_value d0
  exact .next (.next (.next (hd0) (Dev.touches_extend ..)) (Dev.touches_extend ..)) (Dev.touches_modStart ..)

theorem Dev.touches_takeFirmware (d : Dev) (slot : ℕ) : d.Touches [.sec, .start] [] (Dev.takeFirmware d slot) := by
  unfold Dev.takeFirmware
  extract_lets -merge +onlyGivenNames v0
  extract_lets -merge +onlyGivenNames d1
  have hd1 : d.Touches [.sec, .start] [] d1 := by
    exact .next (.next (.refl _) (Dev.touches_modStart ..)) (Dev.touches_extend ..)
  clear_value d1
  exact .next (hd1) (Dev.touches_modSec ..)

theorem Dev.touches_policyStep (d : Dev) : d.Touches [.mem] [] (Dev.policyStep d).1 := by
  unfold Dev.policyStep
  extract_lets -merge +onlyGivenNames v0
  extract_lets -merge +onlyGivenNames v1
  split
  · exact .fst (.refl _)
  · split
    · exact .fst (.refl _)
    · split
      · exact .fst (.next (.refl _) (Dev.touches_flashErase ..))
      · extract_lets -merge +onlyGivenNames d4
        have hd4 : d.Touches [.mem] [] d4 := by
          unfold d4
          refine .ite ?_ ?_
          · exact .next (.refl _) (Dev.touches_flashWrite ..)
          · exact .refl _
        clear_value d4
        exact .fst (hd4)

theorem Dev.touches_decideKeep (d : Dev) (permitted : Bool) : d.Touches [.start] [] (Dev.decideKeep d permitted) := by
  unfold Dev.decideKeep
  exact .next (.refl _) (Dev.touches_modStart ..)

theorem Dev.touches_failStart (d : Dev) (cause : ℕ) : d.Touches (.start :: eventParts) eventFlds (Dev.failStart d cause) := by
  unfold Dev.failStart
  exact .next (.next (.refl _) (Dev.touches_modStart ..)) (Dev.touches_setStart ..)

theorem Dev.touches_stampStart (d : Dev) (k : Clock) : d.Touches [.start] [] (Dev.stampStart d k) := by
  unfold Dev.stampStart
  exact .next (.refl _) (Dev.touches_modStart ..)

theorem Dev.touches_stepDone (d : Dev) (step : ℕ) : d.Touches [.start] [] (Dev.stepDone d step) := by
  unfold Dev.stepDone
  exact .next (.refl _) (Dev.touches_modStart ..)

theorem Dev.touches_endpointWaits (d : Dev) (k : Clock) : d.Touches [.host] [] (Dev.endpointWaits d k) := by
  unfold Dev.endpointWaits
  refine .ite ?_ ?_
  · exact .refl _
  · exact .next (.refl _) (Dev.touches_modIf ..)

theorem Dev.touches_broughtUp (d : Dev) : d.Touches (.start :: eventParts) eventFlds (Dev.broughtUp d) := by
  unfold Dev.broughtUp
  refine .ite ?_ ?_
  · exact .next (.refl _) (Dev.touches_setStart ..)
  · exact .refl _

theorem Dev.touches_loseSync (d : Dev) : d.Touches [.start] [] (Dev.loseSync d) := by
  unfold Dev.loseSync
  refine .ite ?_ ?_
  · exact .refl _
  · exact .next (.refl _) (Dev.touches_modStart ..)

theorem Dev.touches_joinedUp (d : Dev) (k : Clock) : d.Touches (.sec :: .start :: eventParts) eventFlds (Dev.joinedUp d k) := by
  unfold Dev.joinedUp
  refine .ite ?_ ?_
  · extract_lets -merge +onlyGivenNames d0
    have hd0 : d.Touches (.sec :: .start :: eventParts) eventFlds d0 := by
      exact .next (.next (.refl _) (Dev.touches_stampStart ..)) (Dev.touches_setStart ..)
    clear_value d0
    exact .next (hd0) (Dev.touches_report ..)
  · exact .refl _

theorem Dev.touches_endStep (d : Dev) (k : Clock) (step : Nat) (ok : Bool) : d.MayTouch (.mem :: .sec :: .start :: eventParts) eventFlds (d.endStep k step ok) := by
  have hfail : ∀ (e : Dev) (c : Nat), e.Touches (.mem :: .sec :: .start :: eventParts) eventFlds (e.failStart c) := fun e c => .mono (Dev.touches_failStart ..)
  have hdone : ∀ (e : Dev) (n : Nat), e.Touches (.mem :: .sec :: .start :: eventParts) eventFlds (e.stepDone n) := fun e n => .mono (Dev.touches_stepDone ..)
  have hset : ∀ (e : Dev) (x : StartState), e.Touches (.mem :: .sec :: .start :: eventParts) eventFlds (e.setStart x) := fun e x => .mono (Dev.touches_setStart ..)
  have hkeys : d.Touches (.mem :: .sec :: .start :: eventParts) eventFlds d.deriveKeys := .mono (Dev.touches_deriveKeys ..)
  have hfw : ∀ n, d.Touches (.mem :: .sec :: .start :: eventParts) eventFlds (d.takeFirmware n) := fun n => .mono (Dev.touches_takeFirmware ..)
  have hup : ∀ e : Dev, e.Touches (.mem :: .sec :: .start :: eventParts) eventFlds e.broughtUp := fun e => .mono (Dev.touches_broughtUp ..)
  have hjoin : ∀ e : Dev, e.Touches (.mem :: .sec :: .start :: eventParts) eventFlds (e.joinedUp k) := fun e => .mono (Dev.touches_joinedUp ..)
  unfold Dev.endStep
  split
  · exact .some (.ite (((hdone d 1).next (hset ..)).next (Dev.touches_endpointWaits ..)) (hfail ..))
  · refine .some (.ite (.ite ?_ (hfail ..)) (.ite (hkeys.next (hfail ..)) ?_))
    · exact .next (.mono (Dev.touches_modStart ..)) (hfail ..)
    · exact ((hkeys.next (Dev.touches_measureIdentity ..)).next (hdone ..)).next (hset ..)
  · exact .some (.ite (((hfw 0).next (hdone ..)).next (hset ..)) (.ite (((hfw 1).next (hdone ..)).next (hset ..)) (hfail ..)))
  · split
    next d1 e heq =>
    have h1 : d.Touches (.mem :: .sec :: .start :: eventParts) eventFlds d1 := .of_fst (.mono (Dev.touches_policyStep ..)) heq
    extract_lets d2
    have h2 : d.Touches (.mem :: .sec :: .start :: eventParts) eventFlds d2 := h1.next (Dev.touches_modSec ..)
    clear_value d2
    refine .some ?_
    split
    · exact h2.next (hfail ..)
    · exact ((((h2.next (Dev.touches_extend ..)).next (Dev.touches_decideKeep ..)).next (hdone ..)).next
        (Dev.touches_stampStart ..)).next (hset ..)
    · exact ((((h2.next (Dev.touches_modSec ..)).next (Dev.touches_extend ..)).next (Dev.touches_decideKeep ..)).next
        (hdone ..)).next (hset ..)
  · exact .some (.ite ((hdone d 5).next (hup ..)) (hfail ..))
  · have hmem : d.Touches (.mem :: .sec :: .start :: eventParts) eventFlds { d with mem := { d.mem with hbm := [], poisonHbm := [] } } :=
      .withMem (.refl d) rfl fun h => Mem.wf_setHbm h Memory.nil_wf _
    exact .some (.next (.next (.ite (.refl d) hmem) (hdone ..)) (hup ..))
  · exact .ite (.some ((hdone d 7).next (hup ..))) .none
  · exact .ite (.some ((hdone d 8).next (hjoin ..))) .none
  · exact .ite (.some (((hdone d 9).next (Dev.touches_loseSync ..)).next (hjoin ..))) .none
  · exact .none

theorem Dev.touches_drawScalar (d : Dev) : d.Touches [.free] [] (Dev.drawScalar d).2 := by
  unfold Dev.drawScalar
  exact .snd (.next (.refl _) (Dev.touches_draw ..))

theorem Dev.touches_signQuote (d : Dev) (body : List Byte) : d.Touches [.free] [] (Dev.signQuote d body).2 := by
  unfold Dev.signQuote
  exact .snd (.next (.refl _) (Dev.touches_drawScalar ..))

theorem Dev.touches_quoteCommand (d : Dev) (k : Clock) (v : ℕ) : d.Touches [.regs, .sec, .updated] [.secQuoteReject] (Dev.quoteCommand d k v).1 := by
  unfold Dev.quoteCommand
  split
  · exact .fst (.refl _)
  · split
    · exact .fst (.next (.refl _) (Dev.touches_flag ..))
    · exact .fst (.next (.refl _) (Dev.touches_modSec ..))

theorem Dev.touches_agentDrop (d : Dev) : d.Touches [.acc] [] (Dev.agentDrop d) := by
  unfold Dev.agentDrop
  exact .next (.refl _) (Dev.touches_count ..)

theorem Dev.touches_macDrop (d : Dev) : d.Touches [.acc] [] (Dev.macDrop d) := by
  unfold Dev.macDrop
  exact .next (.refl _) (Dev.touches_count ..)

theorem Dev.touches_makeHello (d : Dev) (k : Clock) : d.Touches [.free, .sec] [] (Dev.makeHello d k) := by
  unfold Dev.makeHello
  split
  next x0 d1 heq =>
    have hd1 : d.Touches [.free, .sec] [] d1 := by
      refine .of_snd ?_ heq
      exact .next (.refl _) (Dev.touches_drawScalar ..)
    extract_lets -merge +onlyGivenNames v2
    split
    next x3 d4 heq =>
      have hd4 : d.Touches [.free, .sec] [] d4 := by
        refine .of_snd ?_ heq
        exact .next (hd1) (Dev.touches_signQuote ..)
      exact .next (hd4) (Dev.touches_modSec ..)

theorem Dev.touches_startSession (d : Dev) (p : Packet) : d.Touches [.sec] [] (Dev.startSession d p) := by
  unfold Dev.startSession
  extract_lets -merge +onlyGivenNames v0
  exact .next (.refl _) (Dev.touches_modSec ..)

theorem Dev.touches_violate (d : Dev) (k : Clock) (cause : ℕ) : d.Touches (.start :: faultParts) (.secFaultCause :: .secFaultCode :: faultFlds) (Dev.violate d k cause) := by
  unfold Dev.violate
  extract_lets -merge +onlyGivenNames d0
  have hd0 : d.Touches (.start :: faultParts) (.secFaultCause :: .secFaultCode :: faultFlds) d0 := by
    exact .next (.next (.next (.refl _) (Dev.touches_wr ..)) (Dev.touches_wr ..)) (Dev.touches_smbEvent ..)
  clear_value d0
  extract_lets -merge +onlyGivenNames d1
  have hd1 : d.Touches (.start :: faultParts) (.secFaultCause :: .secFaultCode :: faultFlds) d1 := by
    exact .next (.next (hd0) (Dev.touches_modStart ..)) (Dev.touches_modSec ..)
  clear_value d1
  exact .next (hd1) (Dev.touches_runFault ..)

theorem Dev.touches_countInputs (d : Dev) (c : Fin 48) (f : Fmt) (xs : List TileData) : d.Touches [.acc] [] (Dev.countInputs d c f xs) := by
  unfold Dev.countInputs
  refine .foldl ?_ fun e0 x1 _ => ?_
  · exact .refl _
  · extract_lets -merge +onlyGivenNames v2
    extract_lets -merge +onlyGivenNames d3
    have hd3 : e0.Touches [.acc] [] d3 := by
      exact .next (.refl _) (Dev.touches_countTile ..)
    clear_value d3
    refine .ite ?_ ?_
    · exact hd3
    · exact .next (hd3) (Dev.touches_count ..)

theorem Dev.touches_arrayBusy (d : Dev) (c : Fin 48) (a : ℕ) (b : ℕ) : d.Touches [.acc, .cores] [] (Dev.arrayBusy d c a b) := by
  unfold Dev.arrayBusy
  extract_lets -merge +onlyGivenNames v0
  extract_lets -merge +onlyGivenNames v1
  exact .next (.next (.refl _) (Dev.touches_setCore ..)) (Dev.touches_count ..)

theorem Dev.touches_startLoad (d : Dev) (k : Clock) (c : Fin 48) (e : Entry) : d.MayTouch [.acc, .cores] [] (Dev.startLoad d k c e).dev? := by
  unfold Dev.startLoad
  extract_lets -merge +onlyGivenNames v0
  extract_lets -merge +onlyGivenNames v1
  split
  · next x2 heq0 =>
      have hx2 : d.MayTouch [.acc, .cores] [] x2.dev? := by
        refine .of_optstarted ?_ heq0
        exact .nextSome (.refl _) (Dev.touches_checkTiles ..)
      exact hx2
  · split
    · extract_lets -merge +onlyGivenNames v6
      extract_lets -merge +onlyGivenNames v7
      extract_lets -merge +onlyGivenNames d8
      have hd8 : d.Touches [.acc, .cores] [] d8 := by
        exact .next (.next (.refl _) (Dev.touches_countInputs ..)) (Dev.touches_arrayBusy ..)
      clear_value d8
      exact .some (.next (hd8) (Dev.touches_modCore ..))

theorem Dev.touches_setPoison (d : Dev) (k : Clock) (c : Fin 48) (e : Entry) (reads : Bool) : d.MayTouch faultParts (faultFlds.append devFaultFlds) (devS (Dev.setPoison d k c e reads)) := by
  unfold Dev.setPoison
  refine .ite_optstarted ?_ ?_
  · refine .mapS fun _ => ?_
    exact .some (.next (.refl _) (Dev.touches_sramFault ..))
  · exact .none

theorem Dev.touches_startRun (d : Dev) (k : Clock) (c : Fin 48) (e : Entry) : d.MayTouch (.cores :: faultParts) (faultFlds.append devFaultFlds) (Dev.startRun d k c e).dev? := by
  unfold Dev.startRun
  extract_lets -merge +onlyGivenNames v0
  split
  · exact .none
  · refine .ite_started ?_ ?_
    · exact .none
    · extract_lets -merge +onlyGivenNames v3
      extract_lets -merge +onlyGivenNames v4
      split
      · next x5 heq0 =>
          have hx5 : d.MayTouch (.cores :: faultParts) (faultFlds.append devFaultFlds) x5.dev? := by
            refine .of_optstarted ?_ heq0
            refine .orS ?_ ?_
            · exact .nextSome (.refl _) (Dev.touches_checkTiles ..)
            · exact .nextSome (.refl _) (Dev.touches_setPoison ..)
          exact hx5
      · extract_lets -merge +onlyGivenNames v7
        extract_lets -merge +onlyGivenNames v8
        extract_lets -merge +onlyGivenNames v9
        extract_lets -merge +onlyGivenNames v10
        extract_lets -merge +onlyGivenNames v11
        extract_lets -merge +onlyGivenNames v12
        extract_lets -merge +onlyGivenNames v13
        split
        · extract_lets -merge +onlyGivenNames v16
          extract_lets -merge +onlyGivenNames v17
          extract_lets -merge +onlyGivenNames v18
          extract_lets -merge +onlyGivenNames v19
          extract_lets -merge +onlyGivenNames v20
          extract_lets -merge +onlyGivenNames v21
          extract_lets -merge +onlyGivenNames v22
          extract_lets -merge +onlyGivenNames d23
          have hd23 : d.Touches (.cores :: faultParts) (faultFlds.append devFaultFlds) d23 := by
            exact .next (.refl _) (Dev.touches_countInputs ..)
          clear_value d23
          extract_lets -merge +onlyGivenNames d24
          have hd24 : d.Touches (.cores :: faultParts) (faultFlds.append devFaultFlds) d24 := by
            exact .next (hd23) (Dev.touches_modCore ..)
          clear_value d24
          extract_lets -merge +onlyGivenNames d25
          have hd25 : d.Touches (.cores :: faultParts) (faultFlds.append devFaultFlds) d25 := by
            exact .next (hd24) (Dev.touches_arrayBusy ..)
          clear_value d25
          extract_lets -merge +onlyGivenNames d26
          have hd26 : d.Touches (.cores :: faultParts) (faultFlds.append devFaultFlds) d26 := by
            exact .next (.next (.next (.next (hd25) (Dev.touches_count ..)) (Dev.touches_count ..)) (Dev.touches_count ..)) (Dev.touches_count ..)
          clear_value d26
          exact .some (.next (hd26) (Dev.touches_count ..))

theorem Dev.touches_storeSet (d : Dev) (c : Fin 48) (e : Entry) : d.Touches [.acc, .cores, .mem, .snap, .twin] [] (Dev.storeSet d c e) := by
  unfold Dev.storeSet
  extract_lets -merge +onlyGivenNames v0
  extract_lets -merge +onlyGivenNames v1
  extract_lets -merge +onlyGivenNames v2
  extract_lets -merge +onlyGivenNames d3
  have hd3 : d.Touches [.acc, .cores, .mem, .snap, .twin] [] d3 := by
    refine .foldl ?_ fun e4 x5 _ => ?_
    · exact .refl _
    · split
      · extract_lets -merge +onlyGivenNames v8
        extract_lets -merge +onlyGivenNames v9
        exact .next (.next (.refl _) (Dev.touches_writeTile ..)) (Dev.touches_countNarrow ..)
  clear_value d3
  exact .next (hd3) (Dev.touches_modCore ..)

theorem Dev.touches_startStore (d : Dev) (k : Clock) (c : Fin 48) (e : Entry) : d.MayTouch (.cores :: .mem :: .snap :: .twin :: faultParts) (faultFlds.append devFaultFlds) (Dev.startStore d k c e).dev? := by
  unfold Dev.startStore
  extract_lets -merge +onlyGivenNames v0
  refine .ite_started ?_ ?_
  · exact .none
  · split
    · next x1 heq0 =>
        have hx1 : d.MayTouch (.cores :: .mem :: .snap :: .twin :: faultParts) (faultFlds.append devFaultFlds) x1.dev? := by
          refine .of_optstarted ?_ heq0
          refine .orS ?_ ?_
          · exact .nextSome (.refl _) (Dev.touches_checkTiles ..)
          · exact .nextSome (.refl _) (Dev.touches_setPoison ..)
        exact hx1
    · extract_lets -merge +onlyGivenNames v3
      extract_lets -merge +onlyGivenNames v4
      exact .some (.next (.next (.refl _) (Dev.touches_storeSet ..)) (Dev.touches_arrayBusy ..))

theorem Dev.touches_startPair (d : Dev) (k : Clock) (c : Fin 48) (e : Entry) : d.MayTouch (.cores :: faultParts) (faultFlds.append devFaultFlds) (Dev.startPair d k c e).dev? := by
  unfold Dev.startPair
  extract_lets -merge +onlyGivenNames v0
  refine .ite_started ?_ ?_
  · exact .none
  · extract_lets -merge +onlyGivenNames v1
    extract_lets -merge +onlyGivenNames v2
    extract_lets -merge +onlyGivenNames v3
    extract_lets -merge +onlyGivenNames v4
    extract_lets -merge +onlyGivenNames v5
    split
    · next x6 heq0 =>
        have hx6 : d.MayTouch (.cores :: faultParts) (faultFlds.append devFaultFlds) x6.dev? := by
          refine .of_optstarted ?_ heq0
          refine .orS ?_ ?_
          · exact .nextSome (.refl _) (Dev.touches_checkTiles ..)
          · exact .nextSome (.refl _) (Dev.touches_setPoison ..)
        exact hx6
    · extract_lets -merge +onlyGivenNames v8
      extract_lets -merge +onlyGivenNames v9
      extract_lets -merge +onlyGivenNames v10
      extract_lets -merge +onlyGivenNames v11
      extract_lets -merge +onlyGivenNames v12
      extract_lets -merge +onlyGivenNames v13
      extract_lets -merge +onlyGivenNames v14
      extract_lets -merge +onlyGivenNames v15
      split
      · extract_lets -merge +onlyGivenNames v18
        extract_lets -merge +onlyGivenNames v19
        extract_lets -merge +onlyGivenNames v20
        extract_lets -merge +onlyGivenNames v21
        extract_lets -merge +onlyGivenNames d22
        have hd22 : d.Touches (.cores :: faultParts) (faultFlds.append devFaultFlds) d22 := by
          exact .next (.next (.refl _) (Dev.touches_countInputs ..)) (Dev.touches_countInputs ..)
        clear_value d22
        extract_lets -merge +onlyGivenNames d23
        have hd23 : d.Touches (.cores :: faultParts) (faultFlds.append devFaultFlds) d23 := by
          exact .next (hd22) (Dev.touches_modCore ..)
        clear_value d23
        extract_lets -merge +onlyGivenNames d24
        have hd24 : d.Touches (.cores :: faultParts) (faultFlds.append devFaultFlds) d24 := by
          exact .next (.next (.next (.next (hd23) (Dev.touches_count ..)) (Dev.touches_count ..)) (Dev.touches_count ..)) (Dev.touches_count ..)
        clear_value d24
        extract_lets -merge +onlyGivenNames v25
        extract_lets -merge +onlyGivenNames d26
        have hd26 : d.Touches (.cores :: faultParts) (faultFlds.append devFaultFlds) d26 := by
          unfold d26
          refine .ite ?_ ?_
          · exact .next (.next (hd24) (Dev.touches_setRunning ..)) (Dev.touches_setRunning ..)
          · refine .ite ?_ ?_
            · exact .next (hd24) (Dev.touches_setRunning ..)
            · exact hd24
        clear_value d26
        exact .some (hd26)

theorem Dev.touches_startArray (d : Dev) (k : Clock) (c : Fin 48) (e : Entry) : d.MayTouch (.cores :: .mem :: .snap :: .twin :: faultParts) (faultFlds.append devFaultFlds) (Dev.startArray d k c e).dev? := by
  unfold Dev.startArray
  split
  · exact .nextSome (.refl _) (Dev.touches_startLoad ..)
  · exact .nextSome (.refl _) (Dev.touches_startRun ..)
  · exact .nextSome (.refl _) (Dev.touches_startStore ..)

theorem Dev.touches_smbAnswer (d : Dev) (bs : List Byte) : d.Touches [.out] [] (Dev.smbAnswer d bs) := by
  unfold Dev.smbAnswer
  exact .set (.refl _) rfl

theorem Dev.touches_tapOut (d : Dev) (bits : List Bool) : d.Touches [.out] [] (Dev.tapOut d bits) := by
  unfold Dev.tapOut
  exact .set (.refl _) rfl

theorem Dev.touches_scanLands (d : Dev) (shift : BitVec 15) : d.Touches [.free, .host, .out] [] (Dev.scanLands d shift) := by
  unfold Dev.scanLands
  extract_lets -merge +onlyGivenNames d0
  have hd0 : d.Touches [.free, .host, .out] [] d0 := by
    exact .next (.next (.refl _) (Dev.touches_tapOut ..)) (Dev.touches_modIf ..)
  clear_value d0
  exact .set (hd0) rfl

theorem Dev.touches_selectTap (d : Dev) (code : BitVec 8) (t : Tap) (driven : Bool) (high : Bool) : d.Touches [.host] [] (Dev.selectTap d code t driven high) := by
  unfold Dev.selectTap
  exact .next (.refl _) (Dev.touches_modIf ..)

theorem Dev.touches_tapBypass (d : Dev) (code : BitVec 8) : d.Touches [.host, .out] [] (Dev.tapBypass d code) := by
  unfold Dev.tapBypass
  exact .next (.next (.refl _) (Dev.touches_selectTap ..)) (Dev.touches_tapOut ..)

theorem Dev.touches_flashResult (d : Dev) (n : ℕ) : d.Touches [.host] [] (Dev.flashResult d n) := by
  unfold Dev.flashResult
  exact .next (.refl _) (Dev.touches_modIf ..)

theorem Dev.touches_flashCommand (d : Dev) (v : ℕ) : d.Touches [.host] [] (Dev.flashCommand d v).1 := by
  unfold Dev.flashCommand
  extract_lets -merge +onlyGivenNames v0
  extract_lets -merge +onlyGivenNames v1
  extract_lets -merge +onlyGivenNames v2
  split
  · exact .fst (.refl _)
  · split
    · exact .fst (.next (.refl _) (Dev.touches_flashResult ..))
    · split
      · exact .fst (.next (.refl _) (Dev.touches_flashResult ..))
      · split
        · exact .fst (.next (.refl _) (Dev.touches_flashResult ..))
        · exact .fst (.next (.refl _) (Dev.touches_modIf ..))

theorem Dev.touches_linkTrained (d : Dev) : d.Touches [.free, .host] [] (Dev.linkTrained d) := by
  unfold Dev.linkTrained
  refine .ite ?_ ?_
  · exact .refl _
  · split
    next x0 d1 heq =>
      have hd1 : d.Touches [.free, .host] [] d1 := by
        refine .of_snd ?_ heq
        exact .next (.refl _) (Dev.touches_draw ..)
      split
      next x2 d3 heq =>
        have hd3 : d.Touches [.free, .host] [] d3 := by
          refine .of_snd ?_ heq
          exact .next (hd1) (Dev.touches_draw ..)
        split
        next x4 d5 heq =>
          have hd5 : d.Touches [.free, .host] [] d5 := by
            refine .of_snd ?_ heq
            exact .next (hd3) (Dev.touches_draw ..)
          exact .next (hd5) (Dev.touches_modIf ..)

theorem Dev.touches_cfgWrite (d : Dev) (r : ℕ) (v : ℕ) : d.Touches [.acc, .host, .out] [] (Dev.cfgWrite d r v) := by
  unfold Dev.cfgWrite
  extract_lets -merge +onlyGivenNames v0
  extract_lets -merge +onlyGivenNames d1
  have hd1 : d.Touches [.acc, .host, .out] [] d1 := by
    exact .next (.refl _) (Dev.touches_modIf ..)
  clear_value d1
  exact .next (hd1) (Dev.touches_sendPending ..)

theorem Dev.touches_cfgAnswer (d : Dev) (v : Option ℕ) : d.Touches [.out] [] (Dev.cfgAnswer d v) := by
  unfold Dev.cfgAnswer
  exact .set (.refl _) rfl

theorem Dev.touches_noteLoading (d : Dev) (rs : List (ℕ × ℕ)) : d.Touches [.duty, .job] [] (Dev.noteLoading d rs) := by
  unfold Dev.noteLoading
  refine .ite ?_ ?_
  · exact .next (.refl _) (Dev.touches_modJob ..)
  · exact .refl _

theorem Dev.touches_msixWrite (d : Dev) (at_ : MsixAt) (v : ℕ) : d.Touches [.host] [] (Dev.msixWrite d at_ v) := by
  unfold Dev.msixWrite
  split
  · extract_lets -merge +onlyGivenNames v2
    exact .next (.refl _) (Dev.touches_modIf ..)
  · exact .refl _

theorem Dev.touches_dropImages (d : Dev) (i : ℕ) (kinds : List ℕ) : d.Touches [.regs, .snap, .updated] [.snapEvFail, .snapFail] (Dev.dropImages d i kinds) := by
  unfold Dev.dropImages
  extract_lets -merge +onlyGivenNames d0
  have hd0 : d.Touches [.regs, .snap, .updated] [.snapEvFail, .snapFail] d0 := by
    unfold d0
    refine .ite ?_ ?_
    · exact .next (.refl _) (Dev.touches_snapFailed ..)
    · exact .refl _
  clear_value d0
  exact .next (hd0) (Dev.touches_modSnap ..)

theorem Dev.touches_readEnded (d : Dev) (a : ℕ) : d.Touches [.host] [] (Dev.readEnded d a) := by
  unfold Dev.readEnded
  split
  · exact .next (.refl _) (Dev.touches_modIf ..)
  · exact .refl _

theorem Dev.touches_bridgeFails (d : Dev) (k : Clock) (dir : ℕ) : d.Touches (.duty :: .gmem :: .image :: .snap :: .tier :: faultParts) allFlds (Dev.bridgeFails d k dir) := by
  unfold Dev.bridgeFails
  refine .ite ?_ ?_
  · exact .refl _
  · extract_lets -merge +onlyGivenNames v0
    extract_lets -merge +onlyGivenNames d1
    have hd1 : d.Touches (.duty :: .gmem :: .image :: .snap :: .tier :: faultParts) allFlds d1 := by
      exact .nextAny (.nextAny (.nextAny (.refl _) (Dev.touches_flag_any ..)) (Dev.touches_flag_any ..)) (Dev.touches_smbEvent ..)
    clear_value d1
    extract_lets -merge +onlyGivenNames d2
    have hd2 : d.Touches (.duty :: .gmem :: .image :: .snap :: .tier :: faultParts) allFlds d2 := by
      unfold d2
      refine .ite ?_ ?_
      · exact .nextAny (hd1) (Dev.touches_startAbort ..)
      · refine .ite ?_ ?_
        · exact .nextAny (hd1) (Dev.touches_dropObject ..)
        · exact hd1
    clear_value d2
    exact .nextAny (hd2) (Dev.touches_report ..)

theorem Dev.touches_lsResume (d : Dev) (k : Clock) : d.Touches (.fab :: .gmem :: .herd :: .mem :: .pail :: .snap :: .tier :: .twin :: .work :: .xch :: faultParts) (faultFlds.append (devFaultFlds.append (gmemFaultFlds.append (lockFaultFlds.append herdFlds)))) (Dev.lsResume d k) := by
  unfold Dev.lsResume
  extract_lets -merge +onlyGivenNames d0
  have hd0 : d.Touches (.fab :: .gmem :: .herd :: .mem :: .pail :: .snap :: .tier :: .twin :: .work :: .xch :: faultParts) (faultFlds.append (devFaultFlds.append (gmemFaultFlds.append (lockFaultFlds.append herdFlds)))) d0 := by
    unfold d0
    refine .ite ?_ ?_
    · exact .refl _
    · exact .next (.refl _) (Dev.touches_runTier ..)
  clear_value d0
  split
  · refine .ite ?_ ?_
    · exact .next (hd0) (Dev.touches_herdAdvance ..)
    · exact hd0
  · refine .ite ?_ ?_
    · exact .next (hd0) (Dev.touches_herdBegin ..)
    · refine .ite ?_ ?_
      · exact .next (hd0) (Dev.touches_herdDrain ..)
      · exact hd0
  · exact hd0

theorem Dev.touches_setMailbox (d : Dev) (b : Mailbox) : d.Touches [.ctl] [] (Dev.setMailbox d b) := by
  unfold Dev.setMailbox
  exact .set (.refl _) rfl

theorem Dev.touches_writeSelector (d : Dev) (k : Clock) (m : Master) (page : ℕ) (p : Page) (sel : ℕ) : d.Touches [.ctl] [] (Dev.writeSelector d k m page p sel) := by
  unfold Dev.writeSelector
  extract_lets -merge +onlyGivenNames v0
  extract_lets -merge +onlyGivenNames v1
  exact .next (.refl _) (Dev.touches_setMailbox ..)

theorem Dev.touches_writeField (d : Dev) (p : Page) (guarded : Bool) (v : Nat) (f : Fld) (i : Nat) :
    d.Touches [.regs] allFlds (d.writeField p guarded v f i) := by
  unfold Dev.writeField
  dsimp only
  split
  · exact .ite (Dev.touches_wr_any ..) (.refl d)
  · exact .ite (Dev.touches_wr_any ..) (.refl d)
  · exact .ite (Dev.touches_wr_any ..) (.refl d)
  · exact .refl d

theorem Dev.touches_writeFields (d : Dev) (p : Page) (guarded : Bool) (l : List (Fld × Nat)) (v : Nat) :
    d.Touches [.regs] allFlds (d.writeFields p guarded l v) :=
  Dev.touches_foldl d fun e x _ => Dev.touches_writeField ..

theorem Dev.touches_writeShadow (d : Dev) (fd : ℕ) (v : ℕ) : d.Touches [.fab, .regs] allFlds (Dev.writeShadow d fd v) := by
  unfold Dev.writeShadow
  extract_lets -merge +onlyGivenNames v0
  extract_lets -merge +onlyGivenNames v1
  exact .nextAny (.set (.refl _) rfl) (Dev.touches_wr_any ..)

theorem Dev.touches_writeMid (d : Dev) (v : ℕ) : d.Touches [.fab, .regs] [.fabMidSel] (Dev.writeMid d v) := by
  unfold Dev.writeMid
  extract_lets -merge +onlyGivenNames v0
  exact .next (.set (.refl _) rfl) (Dev.touches_wr ..)

theorem Dev.touches_noteLaunch (d : Dev) (k : Clock) (b : Blk) (reg : ℕ) : d.Touches [.ctl] [] (Dev.noteLaunch d k b reg) := by
  unfold Dev.noteLaunch
  refine .ite ?_ ?_
  · exact .set (.refl _) rfl
  · exact .refl _

theorem Dev.touches_plainEffect (d : Dev) (k : Clock) (p : Page) (reg : ℕ) (v : ℕ) : d.MayTouch (.duty :: .fab :: .herd :: .mem :: .snap :: .tier :: .twin :: .work :: faultParts) allFlds (dev1 (Dev.plainEffect d k p reg v)) := by
  unfold Dev.plainEffect
  split
  · refine .some ?_
    exact .nextAny (.refl _) (Dev.touches_writeStopLo ..)
  · refine .some ?_
    exact .nextAny (.refl _) (Dev.touches_writeStopHi ..)
  · refine .some ?_
    exact .nextAny (.refl _) (Dev.touches_setGmemCfg ..)
  · refine .some ?_
    exact .fst (.nextAny (.refl _) (Dev.touches_writeShadow ..))
  · refine .some ?_
    split
    · exact .fst (.nextAny (.refl _) (Dev.touches_writeMid ..))
    · exact .fst (.refl _)
  · refine .some ?_
    exact .fst (.nextAny (.refl _) (Dev.touches_setNvme ..))
  · exact .none

theorem Dev.touches_setMgmtEpoch (d : Dev) (v : ℕ) : d.Touches [.fab] [] (Dev.setMgmtEpoch d v) := by
  unfold Dev.setMgmtEpoch
  refine .ite ?_ ?_
  · exact .refl _
  · exact .next (.next (.refl _) (Dev.touches_forgetKey ..)) (Dev.touches_forgetKey ..)

theorem Dev.touches_pairEffect (d : Dev) (k : Clock) (p : Page) (reg : ℕ) (v : ℕ) : d.MayTouch (.churn :: .coll :: .cores :: .duty :: .fab :: .frame :: .gmem :: .herd :: .image :: .layerInv :: .mem :: .pail :: .sep :: .snap :: .sync :: .tier :: .twin :: .work :: .xch :: faultParts) (.tickSyncRoot :: .tickSyncBackup :: .tickSyncPrimary :: .tickFaultEngine :: .tickFaultCause :: .tickFaultCode :: .tickEvLaunchMissed :: .twinLsArmField :: .twinLsArmRefuse :: .sepStatsHi :: .sepStatsLo :: .tickLaunchLo :: .tickLaunchHi :: .jobCmdCause :: .jobCmdLast :: .jobCmdReject :: .jobStopFrameLo :: .jobStopFrameHi :: .jobHerdFinished :: .jobHerdRejects :: .jobHerdOutLost :: .tierLendOutside :: .tierLendReject :: .gmemWinReject :: .twinCfgReject :: .twinCfgMode :: .secQuoteReject :: .pwrCapW :: .pwrEvCapReject :: .pwrTjTarget :: loadClears.append (coreFaultFlds.append eventFlds)) (dev1 (Dev.pairEffect d k p reg v)) := by
  unfold Dev.pairEffect
  split
  · refine .some ?_
    exact .fst (.next (.refl _) (Dev.touches_setSyncCfg ..))
  · refine .some ?_
    split
    · exact .next (.refl _) (Dev.touches_armCommand ..)
    · exact .next (.refl _) (Dev.touches_disarmCommand ..)
    · exact .fst (.refl _)
  · refine .some ?_
    exact .next (.refl _) (Dev.touches_jobCommand ..)
  · refine .some ?_
    split
    · exact .next (.refl _) (Dev.touches_lendBegin ..)
    · exact .next (.refl _) (Dev.touches_lendEnd ..)
    · exact .fst (.refl _)
  · refine .some ?_
    split
    · exact .next (.refl _) (Dev.touches_windowCommand ..)
    · exact .fst (.refl _)
  · refine .some ?_
    exact .fst (.next (.refl _) (Dev.touches_mgmtCancel ..))
  · refine .some ?_
    exact .fst (.next (.refl _) (Dev.touches_setMgmtEpoch ..))
  · refine .some ?_
    split
    · exact .fst (.next (.refl _) (Dev.touches_routeCommand ..))
    · exact .fst (.refl _)
  · refine .ite_optfst ?_ ?_
    · refine .some ?_
      exact .next (.refl _) (Dev.touches_portCommand ..)
    · exact .none
  · refine .some ?_
    exact .next (.refl _) (Dev.touches_setTwinMode ..)
  · refine .some ?_
    exact .next (.refl _) (Dev.touches_quoteCommand ..)
  · refine .some ?_
    exact .next (.refl _) (Dev.touches_flashCommand ..)
  · refine .some ?_
    exact .next (.refl _) (Dev.touches_setPwrCap ..)
  · refine .some ?_
    exact .next (.refl _) (Dev.touches_setPwrTj ..)
  · exact .none

theorem Dev.touches_writeCommon (d : Dev) (k : Clock) (m : Master) (page : ℕ) (p : Page) (reg : ℕ) (v : ℕ) : d.Touches [.ctl, .regs] allFlds (Dev.writeCommon d k m page p reg v).1 := by
  unfold Dev.writeCommon
  split
  · exact .fst (.nextAny (.refl _) (Dev.touches_writeSelector ..))
  · extract_lets -merge +onlyGivenNames v0
    extract_lets -merge +onlyGivenNames d1
    have hd1 : d.Touches [.ctl, .regs] allFlds d1 := by
      exact .nextAny (.refl _) (Dev.touches_writeFields ..)
    clear_value d1
    extract_lets -merge +onlyGivenNames d2
    have hd2 : d.Touches [.ctl, .regs] allFlds d2 := by
      unfold d2
      refine .ite ?_ ?_
      · exact .nextAny (hd1) (Dev.touches_wr_any ..)
      · exact hd1
    clear_value d2
    exact .fst (hd2)

theorem Dev.touches_writePlain (d : Dev) (k : Clock) (m : Master) (page : ℕ) (p : Page) (reg : ℕ) (v : ℕ) : d.Touches (.duty :: .fab :: .herd :: .mem :: .snap :: .tier :: .twin :: .work :: faultParts) allFlds (Dev.writePlain d k m page p reg v).1 := by
  unfold Dev.writePlain
  split
  · exact .nextAny (.refl _) (Dev.touches_writeCommon ..)
  · extract_lets -merge +onlyGivenNames v0
    split
    · exact .fst (.refl _)
    · split
      · next x1 heq0 =>
          have hx1 : d.Touches (.duty :: .fab :: .herd :: .mem :: .snap :: .tier :: .twin :: .work :: faultParts) allFlds x1.1 := by
            refine .of_optfstp ?_ heq0
            exact .nextSomeAny (.refl _) (Dev.touches_plainEffect ..)
          exact hx1
      · exact .fst (.nextAny (.nextAny (.refl _) (Dev.touches_writeFields ..)) (Dev.touches_noteLaunch ..))

theorem Dev.touches_writePair (d : Dev) (k : Clock) (p : Page) (reg : ℕ) (v : ℕ) : d.Touches (.churn :: .coll :: .cores :: .duty :: .fab :: .frame :: .gmem :: .herd :: .image :: .layerInv :: .mem :: .pail :: .sep :: .snap :: .sync :: .tier :: .twin :: .work :: .xch :: faultParts) allFlds (Dev.writePair d k p reg v).1 := by
  unfold Dev.writePair
  extract_lets -merge +onlyGivenNames v0
  extract_lets -merge +onlyGivenNames v1
  extract_lets -merge +onlyGivenNames d2
  have hd2 : d.Touches (.churn :: .coll :: .cores :: .duty :: .fab :: .frame :: .gmem :: .herd :: .image :: .layerInv :: .mem :: .pail :: .sep :: .snap :: .sync :: .tier :: .twin :: .work :: .xch :: faultParts) allFlds d2 := by
    exact .nextAny (.refl _) (Dev.touches_writeFields ..)
  clear_value d2
  split
  · exact .fst (hd2)
  · split
    · next d3 heq0 =>
        have hd3 : d.Touches (.churn :: .coll :: .cores :: .duty :: .fab :: .frame :: .gmem :: .herd :: .image :: .layerInv :: .mem :: .pail :: .sep :: .snap :: .sync :: .tier :: .twin :: .work :: .xch :: faultParts) allFlds d3 := by
          refine .of_optfst ?_ heq0
          exact .nextSomeAny (hd2) (Dev.touches_pairEffect ..)
        split
        · exact .fst (hd3)
        · exact .fst (.nextAny (hd3) (Dev.touches_writeFields ..))
    · next d6 heq0 =>
        have hd6 : d.Touches (.churn :: .coll :: .cores :: .duty :: .fab :: .frame :: .gmem :: .herd :: .image :: .layerInv :: .mem :: .pail :: .sep :: .snap :: .sync :: .tier :: .twin :: .work :: .xch :: faultParts) allFlds d6 := by
          refine .of_optfst ?_ heq0
          exact .nextSomeAny (hd2) (Dev.touches_pairEffect ..)
        exact .fst (hd6)
    · exact .fst (.nextAny (hd2) (Dev.touches_writeFields ..))

theorem Dev.touches_writeAlias (d : Dev) (k : Clock) (m : Master) (page : ℕ) (p : Page) (alias_ : ℕ) (reg : ℕ) (v : ℕ) : d.Touches (.duty :: .fab :: .herd :: .mem :: .snap :: .tier :: .twin :: .work :: faultParts) allFlds (Dev.writeAlias d k m page p alias_ reg v).1 := by
  unfold Dev.writeAlias
  split
  · split
    · exact .fst (.refl _)
    · exact .nextAny (.refl _) (Dev.touches_writePlain ..)

theorem Dev.touches_guardError (d : Dev) (p : Page) (cause : ℕ) (m : Master) (by_ : Master) (off : ℕ) : d.Touches [.regs, .updated] allFlds (Dev.guardError d p cause m by_ off) := by
  unfold Dev.guardError
  extract_lets -merge +onlyGivenNames v0
  extract_lets -merge +onlyGivenNames v1
  extract_lets -merge +onlyGivenNames d2
  have hd2 : d.Touches [.regs, .updated] allFlds d2 := by
    exact .nextAny (.nextAny (.refl _) (Dev.touches_flag_any ..)) (Dev.touches_bump_any ..)
  clear_value d2
  refine .ite ?_ ?_
  · exact .nextAny (.nextAny (.nextAny (.nextAny (hd2) (Dev.touches_wr_any ..)) (Dev.touches_wr_any ..)) (Dev.touches_wr_any ..)) (Dev.touches_wr_any ..)
  · exact hd2

theorem Dev.touches_closeGuard (d : Dev) (page : ℕ) : d.Touches [.ctl] [] (Dev.closeGuard d page) := by
  unfold Dev.closeGuard
  exact .set (.refl _) rfl

theorem Dev.touches_stageGuard (d : Dev) (g : Guard) : d.Touches [.ctl] [] (Dev.stageGuard d g) := by
  unfold Dev.stageGuard
  extract_lets -merge +onlyGivenNames d0
  have hd0 : d.Touches [.ctl] [] d0 := by
    exact .next (.refl _) (Dev.touches_closeGuard ..)
  clear_value d0
  exact .set (hd0) rfl

theorem Dev.touches_expireGuard (d : Dev) (k : Clock) (page : ℕ) (p : Page) : d.Touches [.ctl, .regs, .updated] allFlds (Dev.expireGuard d k page p) := by
  unfold Dev.expireGuard
  split
  · exact .refl _
  · refine .ite ?_ ?_
    · exact .nextAny (.nextAny (.refl _) (Dev.touches_closeGuard ..)) (Dev.touches_guardError ..)
    · exact .refl _

theorem Dev.touches_breakGuard (d : Dev) (page : ℕ) (p : Page) (m : Master) : d.Touches [.ctl, .regs, .updated] allFlds (Dev.breakGuard d page p m) := by
  unfold Dev.breakGuard
  split
  · exact .refl _
  · refine .ite ?_ ?_
    · exact .nextAny (.nextAny (.refl _) (Dev.touches_closeGuard ..)) (Dev.touches_guardError ..)
    · exact .refl _

theorem Dev.touches_stage (d : Dev) (k : Clock) (w : MasterWrite) (p : Page) : d.Touches [.ctl, .regs, .updated] allFlds (Dev.stage d k w p) := by
  unfold Dev.stage
  extract_lets -merge +onlyGivenNames d0
  have hd0 : d.Touches [.ctl, .regs, .updated] allFlds d0 := by
    unfold d0
    split
    · refine .ite ?_ ?_
      · exact .nextAny (.refl _) (Dev.touches_guardError ..)
      · exact .refl _
    · exact .refl _
  clear_value d0
  exact .nextAny (hd0) (Dev.touches_stageGuard ..)

theorem Dev.touches_complement (d : Dev) (k : Clock) (w : MasterWrite) (p : Page) :
    d.Touches (.duty :: .churn :: .coll :: .cores :: .fab :: .frame :: .gmem :: .herd :: .image :: .layerInv :: .mem :: .pail :: .sep :: .snap :: .sync :: .tier :: .twin :: .work :: .xch :: faultParts) allFlds (d.complement k w p).1 := by
  unfold Dev.complement
  extract_lets +onlyGivenNames reg
  split
  · exact .mono (Dev.touches_guardError ..) (by decide) (allFlds_subset _)
  · next g _ =>
    refine .ite_fst (.mono (Dev.touches_guardError ..) (by decide) (allFlds_subset _)) ?_
    extract_lets +onlyGivenNames d1
    have h1 : d.Touches (.duty :: .churn :: .coll :: .cores :: .fab :: .frame :: .gmem :: .herd :: .image :: .layerInv :: .mem :: .pail :: .sep :: .snap :: .sync :: .tier :: .twin :: .work :: .xch :: faultParts) allFlds d1 := .mono (Dev.touches_closeGuard ..) (by decide) (allFlds_subset _)
    have hpair := h1.nextAny (Dev.touches_writePair d1 k p reg g.value)
    have herror := h1.nextAny (Dev.touches_guardError d1 p 1 w.master w.master reg)
    generalize d1.writePair k p reg g.value = r at *
    generalize d1.guardError p 1 w.master w.master reg = e at *
    refine .ite_fst ?_ ?_
    · exact .fst hpair
    · exact herror

theorem Dev.touches_noteLast (d : Dev) (p : Page) (w : MasterWrite) (result : ℕ) (winner : Master) : d.Touches [.regs, .updated] allFlds (Dev.noteLast d p w result winner) := by
  unfold Dev.noteLast
  extract_lets -merge +onlyGivenNames v0
  extract_lets -merge +onlyGivenNames d1
  have hd1 : d.Touches [.regs, .updated] allFlds d1 := by
    exact .nextAny (.nextAny (.nextAny (.nextAny (.refl _) (Dev.touches_wr_any ..)) (Dev.touches_wr_any ..)) (Dev.touches_wr_any ..)) (Dev.touches_wr_any ..)
  clear_value d1
  refine .ite ?_ ?_
  · exact .nextAny (hd1) (Dev.touches_flag_any ..)
  · exact hd1

theorem Dev.touches_noteWriteNow (d : Dev) (k : Clock) (w : CcWrite) : d.Touches [.ctl, .updated] [] (Dev.noteWriteNow d k w) := by
  unfold Dev.noteWriteNow
  exact .set (.refl _) rfl

theorem Dev.touches_strayWrite (d : Dev) (w : MasterWrite) : d.Touches [.ctl, .regs] [.hubStrayCount] (Dev.strayWrite d w) := by
  unfold Dev.strayWrite
  extract_lets -merge +onlyGivenNames d0
  have hd0 : d.Touches [.ctl, .regs] [.hubStrayCount] d0 := by
    exact .next (.refl _) (Dev.touches_bump ..)
  clear_value d0
  exact .set (hd0) rfl

theorem Dev.touches_handle (d : Dev) (k : Clock) (w : MasterWrite) (p : Page) : d.Touches (.churn :: .coll :: .cores :: .duty :: .fab :: .frame :: .gmem :: .herd :: .image :: .layerInv :: .mem :: .pail :: .sep :: .snap :: .sync :: .tier :: .twin :: .work :: .xch :: faultParts) allFlds (Dev.handle d k w p).1 := by
  unfold Dev.handle
  extract_lets -merge +onlyGivenNames v0
  extract_lets -merge +onlyGivenNames v1
  split
  · unfold v1
    refine .fst ?_
    split
    · exact .nextAny (.refl _) (Dev.touches_writePlain ..)
    · exact .nextAny (.refl _) (Dev.touches_writeAlias ..)
  · extract_lets -merge +onlyGivenNames d2
    have hd2 : d.Touches (.churn :: .coll :: .cores :: .duty :: .fab :: .frame :: .gmem :: .herd :: .image :: .layerInv :: .mem :: .pail :: .sep :: .snap :: .sync :: .tier :: .twin :: .work :: .xch :: faultParts) allFlds d2 := by
      exact .nextAny (.refl _) (Dev.touches_breakGuard ..)
    clear_value d2
    split
    · unfold v1
      exact .fst (.nextAny (hd2) (Dev.touches_writeAlias ..))
    · split
      · exact .fst (.nextAny (hd2) (Dev.touches_stage ..))
      · split
        · exact .nextAny (hd2) (Dev.touches_complement ..)
        · split
          · exact .fst (hd2)
          · unfold v1
            exact .fst (.nextAny (hd2) (Dev.touches_writePlain ..))

theorem Dev.touches_masterWrite (d : Dev) (k : Clock) (w : MasterWrite) : d.Touches (.churn :: .coll :: .cores :: .duty :: .fab :: .frame :: .gmem :: .herd :: .image :: .layerInv :: .mem :: .pail :: .sep :: .snap :: .sync :: .tier :: .twin :: .work :: .xch :: faultParts) allFlds (Dev.masterWrite d k w) := by
  unfold Dev.masterWrite
  split
  · exact .nextAny (.nextAny (.refl _) (Dev.touches_strayWrite ..)) (Dev.touches_noteWriteNow ..)
  · extract_lets -merge +onlyGivenNames v2
    extract_lets -merge +onlyGivenNames v3
    extract_lets -merge +onlyGivenNames v4
    extract_lets -merge +onlyGivenNames v5
    extract_lets -merge +onlyGivenNames d6
    have hd6 : d.Touches (.churn :: .coll :: .cores :: .duty :: .fab :: .frame :: .gmem :: .herd :: .image :: .layerInv :: .mem :: .pail :: .sep :: .snap :: .sync :: .tier :: .twin :: .work :: .xch :: faultParts) allFlds d6 := by
      exact .nextAny (.refl _) (Dev.touches_expireGuard ..)
    clear_value d6
    split
    · exact .nextAny (.nextAny (hd6) (Dev.touches_noteLast ..)) (Dev.touches_noteWriteNow ..)
    · extract_lets -merge +onlyGivenNames v9
      extract_lets -merge +onlyGivenNames d10
      have hd10 : d.Touches (.churn :: .coll :: .cores :: .duty :: .fab :: .frame :: .gmem :: .herd :: .image :: .layerInv :: .mem :: .pail :: .sep :: .snap :: .sync :: .tier :: .twin :: .work :: .xch :: faultParts) allFlds d10 := by
        exact .nextAny (hd6) (Dev.touches_noteWriteNow ..)
      clear_value d10
      extract_lets -merge +onlyGivenNames d11
      have hd11 : d.Touches (.churn :: .coll :: .cores :: .duty :: .fab :: .frame :: .gmem :: .herd :: .image :: .layerInv :: .mem :: .pail :: .sep :: .snap :: .sync :: .tier :: .twin :: .work :: .xch :: faultParts) allFlds d11 := by
        unfold d11
        refine .ite ?_ ?_
        · exact .nextAny (hd10) (Dev.touches_noteUpdate ..)
        · exact hd10
      clear_value d11
      refine .ite ?_ ?_
      · exact .nextAny (hd11) (Dev.touches_noteLast ..)
      · refine .ite ?_ ?_
        · exact .nextAny (.nextAny (hd11) (Dev.touches_count ..)) (Dev.touches_noteLast ..)
        · split
          next d12 x13 heq =>
            have hd12 : d.Touches (.churn :: .coll :: .cores :: .duty :: .fab :: .frame :: .gmem :: .herd :: .image :: .layerInv :: .mem :: .pail :: .sep :: .snap :: .sync :: .tier :: .twin :: .work :: .xch :: faultParts) allFlds d12 := by
              refine .of_fst ?_ heq
              exact .nextAny (hd11) (Dev.touches_handle ..)
            exact .nextAny (hd12) (Dev.touches_noteLast ..)

theorem Dev.touches_rewriteVote (d : Dev) (f : Fld) (n : ℕ) : d.Touches [.ctl] [] (Dev.rewriteVote d f n) := by
  unfold Dev.rewriteVote
  exact .set (.refl _) rfl

theorem Dev.touches_noteUnresolved (d : Dev) (f : Fld) : d.Touches [.ctl, .regs, .updated] (.hubVoteOffset :: .hubVoteBlock :: .hubVoteUnresolved :: devFaultFlds) (Dev.noteUnresolved d f) := by
  unfold Dev.noteUnresolved
  extract_lets -merge +onlyGivenNames d0
  have hd0 : d.Touches [.ctl, .regs, .updated] (.hubVoteOffset :: .hubVoteBlock :: .hubVoteUnresolved :: devFaultFlds) d0 := by
    exact .next (.next (.next (.refl _) (Dev.touches_flag ..)) (Dev.touches_wr ..)) (Dev.touches_wr ..)
  clear_value d0
  extract_lets -merge +onlyGivenNames d1
  have hd1 : d.Touches [.ctl, .regs, .updated] (.hubVoteOffset :: .hubVoteBlock :: .hubVoteUnresolved :: devFaultFlds) d1 := by
    exact .next (.next (.next (.next (hd0) (Dev.touches_wr ..)) (Dev.touches_wr ..)) (Dev.touches_wr ..)) (Dev.touches_wr ..)
  clear_value d1
  exact .set (hd1) rfl

theorem Dev.touches_voteFails (d : Dev) (k : Clock) : d.Touches (.duty :: faultParts) faultFlds (Dev.voteFails d k) := by
  unfold Dev.voteFails
  extract_lets -merge +onlyGivenNames d0
  have hd0 : d.Touches (.duty :: faultParts) faultFlds d0 := by
    unfold d0
    refine .ite ?_ ?_
    · exact .next (.refl _) (Dev.touches_runFault ..)
    · refine .ite ?_ ?_
      · exact .next (.refl _) (Dev.touches_startAbort ..)
      · exact .refl _
  clear_value d0
  refine .ite ?_ ?_
  · exact .next (hd0) (Dev.touches_report ..)
  · exact hd0

theorem Dev.touches_voteField (d : Dev) (k : Clock) (v : VoteField) : d.Touches (.duty :: faultParts) (.hubVoteScrubbed :: .hubVoteOffset :: .hubVoteBlock :: .hubVoteUnresolved :: faultFlds.append devFaultFlds) (Dev.voteField d k v) := by
  unfold Dev.voteField
  split
  · refine .ite ?_ ?_
    · exact .refl _
    · exact .next (.next (.refl _) (Dev.touches_rewriteVote ..)) (Dev.touches_bump ..)
  · exact .next (.next (.next (.refl _) (Dev.touches_noteUnresolved ..)) (Dev.touches_rewriteVote ..)) (Dev.touches_voteFails ..)

theorem Dev.touches_voteAgain (d : Dev) (k : Clock) (f : Fld) : d.Touches (.duty :: faultParts) (.hubVoteScrubbed :: .hubVoteOffset :: .hubVoteBlock :: .hubVoteUnresolved :: faultFlds.append devFaultFlds) (Dev.voteAgain d k f) := by
  unfold Dev.voteAgain
  split
  · exact .next (.refl _) (Dev.touches_voteField ..)
  · exact .refl _

theorem Dev.touches_readVoted (d : Dev) (k : Clock) (m : Master) (off : ℕ) : d.Touches (.duty :: faultParts) (.hubVoteScrubbed :: .hubVoteOffset :: .hubVoteBlock :: .hubVoteUnresolved :: faultFlds.append devFaultFlds) (Dev.readVoted d k m off).1 := by
  unfold Dev.readVoted
  split
  · exact .fst (.refl _)
  · extract_lets -merge +onlyGivenNames v2
    extract_lets -merge +onlyGivenNames v3
    extract_lets -merge +onlyGivenNames v4
    extract_lets -merge +onlyGivenNames d5
    have hd5 : d.Touches (.duty :: faultParts) (.hubVoteScrubbed :: .hubVoteOffset :: .hubVoteBlock :: .hubVoteUnresolved :: faultFlds.append devFaultFlds) d5 := by
      refine .foldl ?_ fun e6 x7 _ => ?_
      · exact .refl _
      · exact .next (.refl _) (Dev.touches_voteAgain ..)
    clear_value d5
    exact .fst (hd5)

theorem Dev.touches_regionWrite (d : Dev) (region : ℕ) (o : ℕ) (bs : List Byte) : d.Touches [.acc, .mem, .snap, .twin] [] (Dev.regionWrite d region o bs) := by
  unfold Dev.regionWrite
  refine .foldl ?_ fun e0 x1 _ => ?_
  · exact .refl _
  · split
    · exact .next (.next (.refl _) (Dev.touches_snapWrite ..)) (Dev.touches_locWrite ..)

theorem Dev.touches_rangeTraffic (d : Dev) (region : ℕ) (o : ℕ) (n : ℕ) (reads : Bool) : d.Touches [.work] [] (Dev.rangeTraffic d region o n reads) := by
  unfold Dev.rangeTraffic
  refine .foldl ?_ fun e0 x1 _ => ?_
  · exact .refl _
  · split
    · refine .ite ?_ ?_
      · exact .next (.refl _) (Dev.touches_touch ..)
      · exact .next (.refl _) (Dev.touches_touchW ..)

theorem Dev.touches_noteRange (d : Dev) (k : Clock) (region : ℕ) (o : ℕ) (n : ℕ) (reads : Bool) : d.Touches (.work :: faultParts) (.tierLendOutside :: faultFlds.append devFaultFlds) (Dev.noteRange d k region o n reads) := by
  unfold Dev.noteRange
  extract_lets -merge +onlyGivenNames v0
  extract_lets -merge +onlyGivenNames d1 d2
  have hd1 : d.Touches (.work :: faultParts) (.tierLendOutside :: faultFlds.append devFaultFlds) d1 := by
    exact .next (.refl _) (Dev.touches_count ..)
  clear_value d1
  have hd2 : d.Touches (.work :: faultParts) (.tierLendOutside :: faultFlds.append devFaultFlds) d2 := by
    unfold d2
    refine .ite ?_ ?_
    · exact .refl _
    · refine .ite ?_ ?_
      · exact .next (hd1) (Dev.touches_bump ..)
      · exact hd1
  clear_value d2
  extract_lets -merge +onlyGivenNames d3
  have hd3 : d.Touches (.work :: faultParts) (.tierLendOutside :: faultFlds.append devFaultFlds) d3 := by
    exact .next (hd2) (Dev.touches_rangeTraffic ..)
  clear_value d3
  split
  · exact .next (hd3) (Dev.touches_poisonFault ..)
  · exact hd3

theorem Dev.touches_controlWrite (off : Nat) (bs : List Byte) (n : Nat) (k : Clock) (d : Dev) :
    d.Touches (.duty :: .churn :: .coll :: .cores :: .fab :: .frame :: .gmem :: .herd :: .image :: .layerInv :: .mem :: .pail :: .sep :: .snap :: .sync :: .tier :: .twin :: .work :: .xch :: faultParts) allFlds (Dev.controlWrite off bs n k d).2 := by
  induction n generalizing off bs k d with
  | zero => exact .refl d
  | succ n ih => exact .nextAny (.ite (.mono (Dev.touches_masterWrite ..) (by decide) (allFlds_subset _)) (.refl d)) (ih ..)

theorem Dev.touches_setSource (d : Dev) (x : GSource) : d.Touches [.gmem] [] (Dev.setSource d x) := by
  unfold Dev.setSource
  exact .next (.refl _) (Dev.touches_modGmem ..)

theorem Dev.Touches.ownWrite {ps : List Part} {fs : List Fld} {a d : Dev} {p : Packet} {f : Dev → Dev}
    (h : a.Touches ps fs d) (hf : ∀ e, a.Touches ps fs e → a.Touches ps fs (f e)) (ht : Part.twin ∈ ps := by decide) :
    a.Touches ps fs (d.ownWrite p f) := by
  unfold Dev.ownWrite
  split
  · exact .ite (Dev.Touches.hashed h hf ht) (hf _ h)
  · exact hf _ h

theorem Dev.touches_serveAtomic (d : Dev) (k : Clock) (p : Packet) : d.Touches (.gmem :: .mem :: .snap :: .twin :: .work :: faultParts) (.tierLendOutside :: faultFlds.append devFaultFlds) (Dev.serveAtomic d k p).1 := by
  unfold Dev.serveAtomic
  split
  · exact .fst (.refl _)
  · split
    · exact .fst (.next (.refl _) (Dev.touches_count ..))
    · extract_lets -merge +onlyGivenNames v2
      extract_lets -merge +onlyGivenNames v3
      extract_lets -merge +onlyGivenNames d4
      have hd4 : d.Touches (.gmem :: .mem :: .snap :: .twin :: .work :: faultParts) (.tierLendOutside :: faultFlds.append devFaultFlds) d4 := by
        exact .next (.refl _) (Dev.touches_noteRange ..)
      clear_value d4
      extract_lets -merge +onlyGivenNames v5
      extract_lets -merge +onlyGivenNames v6
      extract_lets -merge +onlyGivenNames d7
      have hd7 : d.Touches (.gmem :: .mem :: .snap :: .twin :: .work :: faultParts) (.tierLendOutside :: faultFlds.append devFaultFlds) d7 := by
        refine Dev.Touches.ownWrite ?_ fun e8 he9 => ?_
        · exact .next (hd4) (Dev.touches_rangeTraffic ..)
        · exact .next (he9) (Dev.touches_regionWrite ..)
      clear_value d7
      exact .fst (.next (hd7) (Dev.touches_modGmem ..))

theorem Dev.touches_answer (d : Dev) (k : Clock) (p : Packet) (a : Answer) : d.Touches [.acc, .fab, .out, .sec, .work] [] (Dev.answer d k p a) := by
  unfold Dev.answer
  extract_lets -merge +onlyGivenNames v0
  exact .next (.next (.refl _) (Dev.touches_gmemWork ..)) (Dev.touches_originate ..)

theorem Dev.touches_countTaken (d : Dev) (p : Packet) : d.Touches [.acc, .work] [] (Dev.countTaken d p) := by
  unfold Dev.countTaken
  exact .next (.refl _) (Dev.touches_gmemWork ..)

theorem Dev.touches_countServed (d : Dev) : d.Touches [.acc, .work] [] (Dev.countServed d) := by
  unfold Dev.countServed
  exact .next (.next (.refl _) (Dev.touches_count ..)) (Dev.touches_gmemWork ..)

theorem Dev.touches_controlRead (off n : Nat) (k : Clock) (d : Dev) :
    d.Touches (.duty :: .churn :: .coll :: .cores :: .fab :: .frame :: .gmem :: .herd :: .image :: .layerInv :: .mem :: .pail :: .sep :: .snap :: .sync :: .tier :: .twin :: .work :: .xch :: faultParts) allFlds (Dev.controlRead off n k d).2.1 := by
  induction n generalizing off k d with
  | zero => exact .refl d
  | succ n ih =>
    unfold Dev.controlRead
    have hv : d.Touches (.duty :: .churn :: .coll :: .cores :: .fab :: .frame :: .gmem :: .herd :: .image :: .layerInv :: .mem :: .pail :: .sep :: .snap :: .sync :: .tier :: .twin :: .work :: .xch :: faultParts) allFlds (if off < 2 ^ 28 then d.readVoted k.nextCc .mgmt off else (d, 0)).1 := by
      split
      · exact .mono (Dev.touches_readVoted ..) (by decide) (allFlds_subset _)
      · exact .refl d
    exact .nextAny hv (ih ..)

theorem Dev.touches_serveLoad (d : Dev) (k : Clock) (p : Packet) : d.Touches (.duty :: .churn :: .coll :: .cores :: .fab :: .frame :: .gmem :: .herd :: .image :: .layerInv :: .mem :: .pail :: .sep :: .snap :: .sync :: .tier :: .twin :: .work :: .xch :: faultParts) allFlds (d.serveLoad k p).2.1 := by
  unfold Dev.serveLoad
  extract_lets o n
  split
  · exact .ite (Dev.touches_controlRead ..) (.nextAny (Dev.touches_controlRead ..) (Dev.touches_count ..))
  · exact .mono (Dev.touches_noteRange ..) (by decide) (allFlds_subset _)

theorem Dev.touches_serveStore (d : Dev) (k : Clock) (p : Packet) : d.Touches (.duty :: .churn :: .coll :: .cores :: .fab :: .frame :: .gmem :: .herd :: .image :: .layerInv :: .mem :: .pail :: .sep :: .snap :: .sync :: .tier :: .twin :: .work :: .xch :: faultParts) allFlds (d.serveStore k p).2.1 := by
  have hw : d.Touches (.duty :: .churn :: .coll :: .cores :: .fab :: .frame :: .gmem :: .herd :: .image :: .layerInv :: .mem :: .pail :: .sep :: .snap :: .sync :: .tier :: .twin :: .work :: .xch :: faultParts) allFlds (Dev.controlWrite p.gOff p.gData (ceilDiv p.gLen 4) k d).2 := .mono (Dev.touches_controlWrite ..) (by decide) (allFlds_subset _)
  unfold Dev.serveStore
  extract_lets o n
  split
  · exact .ite hw (.nextAny hw (Dev.touches_count ..))
  · exact Dev.Touches.ownWrite (.mono (Dev.touches_noteRange ..) (by decide) (allFlds_subset _))
      fun e he => he.nextAny (Dev.touches_regionWrite ..)

theorem Dev.touches_serve (d : Dev) (k : Clock) (p : Packet) : d.Touches (.duty :: .churn :: .coll :: .cores :: .fab :: .frame :: .gmem :: .herd :: .image :: .layerInv :: .mem :: .pail :: .sep :: .snap :: .sync :: .tier :: .twin :: .work :: .xch :: faultParts) allFlds (d.serve k p).2 := by
  unfold Dev.serve
  split
  next k1 d1 a heq =>
  have h1 : d.Touches (.duty :: .churn :: .coll :: .cores :: .fab :: .frame :: .gmem :: .herd :: .image :: .layerInv :: .mem :: .pail :: .sep :: .snap :: .sync :: .tier :: .twin :: .work :: .xch :: faultParts) allFlds d1 := by
    have hd := congrArg (fun x => x.2.1) heq
    dsimp only at hd
    rw [← hd]
    split
    · exact Dev.touches_serveLoad ..
    · exact Dev.touches_serveStore ..
    · exact .mono (Dev.touches_serveAtomic ..) (by decide) (allFlds_subset _)
  split
  · exact h1.nextAny (Dev.touches_answer ..)
  · exact ((h1.nextAny (Dev.touches_setSource ..)).nextAny (Dev.touches_countServed ..)).nextAny (Dev.touches_answer ..)

theorem Dev.touches_serveAgain (d : Dev) (k : Clock) (p : Packet) : d.Touches (.duty :: .churn :: .coll :: .cores :: .fab :: .frame :: .gmem :: .herd :: .image :: .layerInv :: .mem :: .pail :: .sep :: .snap :: .sync :: .tier :: .twin :: .work :: .xch :: faultParts) allFlds (d.serveAgain k p).2 := by
  unfold Dev.serveAgain
  extract_lets +onlyGivenNames d1
  have h1 : d.Touches (.duty :: .churn :: .coll :: .cores :: .fab :: .frame :: .gmem :: .herd :: .image :: .layerInv :: .mem :: .pail :: .sep :: .snap :: .sync :: .tier :: .twin :: .work :: .xch :: faultParts) allFlds d1 := .mono (Dev.touches_count ..) (by decide) (allFlds_subset _)
  clear_value d1
  split
  · exact .nextAny (.nextAny h1 (Dev.touches_serveLoad ..)) (Dev.touches_answer ..)
  · exact h1.nextAny (Dev.touches_answer ..)
  · split
    · exact (h1.nextAny (Dev.touches_count ..)).nextAny (Dev.touches_answer ..)
    · exact h1.nextAny (Dev.touches_answer ..)

theorem Dev.touches_serveHeld (n : Nat) (k : Clock) (d : Dev) (p : Packet) : d.Touches (.duty :: .churn :: .coll :: .cores :: .fab :: .frame :: .gmem :: .herd :: .image :: .layerInv :: .mem :: .pail :: .sep :: .snap :: .sync :: .tier :: .twin :: .work :: .xch :: faultParts) allFlds (Dev.serveHeld n k d p).2 := by
  induction n generalizing k d with
  | zero => exact .refl d
  | succ n ih =>
    unfold Dev.serveHeld
    extract_lets x
    split
    · exact .refl d
    · exact .nextAny (.nextAny (.mono (Dev.touches_setSource ..) (by decide) (allFlds_subset _)) (Dev.touches_serve ..)) (ih ..)

theorem Dev.touches_takeRequest (d : Dev) (k : Clock) (p : Packet) : d.Touches (.churn :: .coll :: .cores :: .duty :: .fab :: .frame :: .gmem :: .herd :: .image :: .layerInv :: .mem :: .pail :: .sep :: .snap :: .sync :: .tier :: .twin :: .work :: .xch :: faultParts) allFlds (Dev.takeRequest d k p).2 := by
  unfold Dev.takeRequest
  extract_lets -merge +onlyGivenNames d0
  have hd0 : d.Touches (.churn :: .coll :: .cores :: .duty :: .fab :: .frame :: .gmem :: .herd :: .image :: .layerInv :: .mem :: .pail :: .sep :: .snap :: .sync :: .tier :: .twin :: .work :: .xch :: faultParts) allFlds d0 := by
    exact .nextAny (.refl _) (Dev.touches_countTaken ..)
  clear_value d0
  extract_lets -merge +onlyGivenNames v1
  split
  · split
    next x2 d3 heq =>
      have hd3 : d.Touches (.churn :: .coll :: .cores :: .duty :: .fab :: .frame :: .gmem :: .herd :: .image :: .layerInv :: .mem :: .pail :: .sep :: .snap :: .sync :: .tier :: .twin :: .work :: .xch :: faultParts) allFlds d3 := by
        refine .of_snd ?_ heq
        exact .nextAny (hd0) (Dev.touches_serve ..)
      exact .nextAny (hd3) (Dev.touches_serveHeld ..)
  · split
    · exact .nextAny (hd0) (Dev.touches_serveAgain ..)
    · split
      · exact .snd (hd0)
      · split
        · exact .snd (.nextAny (hd0) (Dev.touches_setSource ..))
        · exact .snd (.nextAny (hd0) (Dev.touches_count ..))

theorem Dev.touches_loadDone (d : Dev) (k : Clock) (c : Fin 48) (seq : ℕ) (off : ℕ) (bs : List Byte) : d.Touches (.cores :: .mem :: .snap :: .twin :: .work :: faultParts) (coreFaultFlds.append faultFlds) (Dev.loadDone d k c seq off bs) := by
  unfold Dev.loadDone
  split
  · exact .refl _
  · extract_lets -merge +onlyGivenNames d2
    have hd2 : d.Touches (.cores :: .mem :: .snap :: .twin :: .work :: faultParts) (coreFaultFlds.append faultFlds) d2 := by
      unfold d2
      split
      · refine .next ?_ (Dev.touches_touchW ..)
        refine Dev.Touches.hashed ?_ fun e5 he6 => ?_
        · exact .refl _
        · exact .next (he6) (Dev.touches_put ..)
      · exact .next (.refl _) (Dev.touches_insFault ..)
    clear_value d2
    refine .ite ?_ ?_
    · exact hd2
    · exact .next (hd2) (Dev.touches_modCore ..)

theorem Dev.touches_pieceDone (d : Dev) (k : Clock) (r : GReq) (i : ℕ) (off : ℕ) (bs : List Byte) : d.Touches [.acc, .fab, .gmem, .host, .out, .sec, .tier, .work] [] (Dev.pieceDone d k r i off bs) := by
  unfold Dev.pieceDone
  split
  · exact .refl _
  · split
    · exact .refl _
    · extract_lets -merge +onlyGivenNames v4
      extract_lets -merge +onlyGivenNames v5
      refine .next ?_ (Dev.touches_pumpTier ..)
      refine .ite ?_ ?_
      · exact .next (.refl _) (Dev.touches_loadRest ..)
      · exact .next (.refl _) (Dev.touches_modObj ..)

theorem Dev.touches_acknowledge (d : Dev) (k : Clock) (r : GReq) (p : Packet) : d.Touches (.cores :: .fab :: .gmem :: .mem :: .snap :: .tier :: .twin :: .work :: faultParts) (coreFaultFlds.append faultFlds) (Dev.acknowledge d k r p) := by
  unfold Dev.acknowledge
  extract_lets -merge +onlyGivenNames v0
  split
  · extract_lets -merge +onlyGivenNames v5
    refine .ite ?_ ?_
    · exact .next (.refl _) (Dev.touches_loadDone ..)
    · refine .ite ?_ ?_
      · exact .next (.refl _) (Dev.touches_finish ..)
      · exact .refl _
  · exact .next (.refl _) (Dev.touches_pieceDone ..)
  · exact .next (.refl _) (Dev.touches_imagePiece ..)
  · exact .refl _
  · refine .ite ?_ ?_
    · exact .set (.refl _) rfl
    · exact .refl _

theorem Dev.touches_lateAnswer (d : Dev) (node : ℕ) (seq : ℕ) (mgmt : Bool) : d.Touches [.acc, .gmem] [] (Dev.lateAnswer d node seq mgmt) := by
  unfold Dev.lateAnswer
  refine .ite ?_ ?_
  · exact .next (.next (.refl _) (Dev.touches_modGmem ..)) (Dev.touches_count ..)
  · exact .next (.refl _) (Dev.touches_count ..)

theorem Dev.touches_joinWrite (d : Dev) (k : Clock) (page : ℕ) (off : ℕ) (v : ℕ) : d.Touches (.churn :: .coll :: .cores :: .duty :: .fab :: .frame :: .gmem :: .herd :: .image :: .layerInv :: .mem :: .pail :: .sep :: .snap :: .sync :: .tier :: .twin :: .work :: .xch :: faultParts) allFlds (Dev.joinWrite d k page off v) := by
  unfold Dev.joinWrite
  split
  · exact .refl _
  · extract_lets -merge +onlyGivenNames d2
    have hd2 : d.Touches (.churn :: .coll :: .cores :: .duty :: .fab :: .frame :: .gmem :: .herd :: .image :: .layerInv :: .mem :: .pail :: .sep :: .snap :: .sync :: .tier :: .twin :: .work :: .xch :: faultParts) allFlds d2 := by
      exact .nextAny (.nextAny (.refl _) (Dev.touches_expireGuard ..)) (Dev.touches_breakGuard ..)
    clear_value d2
    extract_lets -merge +onlyGivenNames d3
    have hd3 : d.Touches (.churn :: .coll :: .cores :: .duty :: .fab :: .frame :: .gmem :: .herd :: .image :: .layerInv :: .mem :: .pail :: .sep :: .snap :: .sync :: .tier :: .twin :: .work :: .xch :: faultParts) allFlds d3 := by
      exact .nextAny (.nextAny (hd2) (Dev.touches_stage ..)) (Dev.touches_closeGuard ..)
    clear_value d3
    exact .nextAny (.nextAny (hd3) (Dev.touches_writePair ..)) (Dev.touches_noteLast ..)

theorem Dev.touches_startAt (d : Dev) (k : Clock) (c : Fin 48) (g : Eng) (e : Entry) : d.MayTouch (.cores :: .fab :: .gmem :: .mem :: .pail :: .snap :: .tier :: .twin :: .work :: .xch :: faultParts) (coreFaultFlds.append (faultFlds.append (devFaultFlds.append gmemFaultFlds))) (Dev.startAt d k c g e).dev? := by
  unfold Dev.startAt
  split
  · exact .nextSome (.refl _) (Dev.touches_startArray ..)
  · exact .nextSome (.refl _) (Dev.touches_startPair ..)
  · exact .nextSome (.refl _) (Dev.touches_startLoader ..)
  · exact .nextSome (.refl _) (Dev.touches_startRow ..)
  · exact .nextSome (.refl _) (Dev.touches_startVec ..)
  · exact .nextSome (.refl _) (Dev.touches_releaseSep ..)
  · exact .nextSome (.refl _) (Dev.touches_releaseChurn ..)
  · exact .nextSome (.refl _) (Dev.touches_startXch ..)
  · exact .nextSome (.refl _) (Dev.touches_releaseColl ..)
  · exact .nextSome (.refl _) (Dev.touches_startGmem ..)
  · exact .nextSome (.refl _) (Dev.touches_startPail ..)
  · exact .nextSome (.refl _) (Dev.touches_startTier ..)

theorem Dev.touches_startHashed (d : Dev) (k : Clock) (c : Fin 48) (g : Eng) (e : Entry) : d.MayTouch (.cores :: .fab :: .gmem :: .mem :: .pail :: .snap :: .tier :: .twin :: .work :: .xch :: faultParts) (coreFaultFlds.append (faultFlds.append (devFaultFlds.append gmemFaultFlds))) (Dev.startHashed d k c g e).dev? := by
  unfold Dev.startHashed
  refine .ite_started ?_ ?_
  · extract_lets -merge +onlyGivenNames d0
    have hd0 : d.Touches (.cores :: .fab :: .gmem :: .mem :: .pail :: .snap :: .tier :: .twin :: .work :: .xch :: faultParts) (coreFaultFlds.append (faultFlds.append (devFaultFlds.append gmemFaultFlds))) d0 := by
      exact .next (.refl _) (Dev.touches_modTwin ..)
    clear_value d0
    refine .mapStarted ?_ fun e he => ?_
    · exact .nextSome (hd0) (Dev.touches_startAt ..)
    · exact .next (he) (Dev.touches_modTwin ..)
  · exact .nextSome (.refl _) (Dev.touches_startAt ..)

theorem Dev.touches_noteWaits (d : Dev) (k : Clock) (g : Eng) : d.Touches [.acc, .coll, .gmem, .pail] [] (Dev.noteWaits d k g) := by
  unfold Dev.noteWaits
  split
  · exact .next (.refl _) (Dev.touches_noteRoomWait ..)
  · exact .next (.refl _) (Dev.touches_noteCollWait ..)
  · exact .next (.refl _) (Dev.touches_notePailWait ..)
  · exact .refl _

theorem Dev.touches_afterStart (d : Dev) (k : Clock) (c : Fin 48) (g : Eng) (e : Entry) : d.Touches (.coll :: .cores :: .fab :: .gmem :: .mem :: .pail :: .snap :: .tier :: .twin :: .work :: faultParts) (coreFaultFlds.append (faultFlds.append (devFaultFlds.append (gmemFaultFlds.append lockFaultFlds)))) (Dev.afterStart d k c g e) := by
  unfold Dev.afterStart
  extract_lets -merge +onlyGivenNames d0
  have hd0 : d.Touches (.coll :: .cores :: .fab :: .gmem :: .mem :: .pail :: .snap :: .tier :: .twin :: .work :: faultParts) (coreFaultFlds.append (faultFlds.append (devFaultFlds.append (gmemFaultFlds.append lockFaultFlds)))) d0 := by
    unfold d0
    split
    · exact .next (.refl _) (Dev.touches_afterXchStart ..)
    · exact .next (.refl _) (Dev.touches_runTier ..)
    · exact .refl _
  clear_value d0
  exact .next (.next (hd0) (Dev.touches_noteWaits ..)) (Dev.touches_lsStep ..)

theorem Dev.touches_countOff (d : Dev) (c : Fin 48) (g : Eng) (e : Entry) : d.Touches [.acc, .cores, .work] [] (Dev.countOff d c g e) := by
  unfold Dev.countOff
  extract_lets -merge +onlyGivenNames v0
  split
  · unfold v0
    exact .next (.refl _) (Dev.touches_modCore ..)
  · unfold v0
    exact .next (.refl _) (Dev.touches_modCore ..)
  · unfold v0
    exact .next (.refl _) (Dev.touches_modCore ..)
  · unfold v0
    exact .next (.refl _) (Dev.touches_modCore ..)
  · unfold v0
    exact .next (.refl _) (Dev.touches_modCore ..)
  · exact .next (.refl _) (Dev.touches_addWork ..)
  · refine .ite ?_ ?_
    · exact .refl _
    · exact .next (.refl _) (Dev.touches_addWork ..)
  · exact .next (.refl _) (Dev.touches_xchOffWork ..)
  · exact .next (.refl _) (Dev.touches_collOffWork ..)
  · exact .next (.refl _) (Dev.touches_tierOffWork ..)
  · exact .refl _
  · exact .refl _

theorem Dev.touches_retire (d : Dev) (k : Clock) (c : Fin 48) (g : Eng) (e : Entry) : d.Touches (.coll :: .cores :: .fab :: .frame :: .gmem :: .pail :: .twin :: .work :: .xch :: faultParts) (faultFlds.append lockFaultFlds) (Dev.retire d k c g e) := by
  unfold Dev.retire
  extract_lets -merge +onlyGivenNames d0
  have hd0 : d.Touches (.coll :: .cores :: .fab :: .frame :: .gmem :: .pail :: .twin :: .work :: .xch :: faultParts) (faultFlds.append lockFaultFlds) d0 := by
    unfold d0
    refine .ite ?_ ?_
    · exact .refl _
    · exact .next (.refl _) (Dev.touches_countOff ..)
  clear_value d0
  extract_lets -merge +onlyGivenNames d1
  have hd1 : d.Touches (.coll :: .cores :: .fab :: .frame :: .gmem :: .pail :: .twin :: .work :: .xch :: faultParts) (faultFlds.append lockFaultFlds) d1 := by
    exact .next (hd0) (Dev.touches_modCore ..)
  clear_value d1
  extract_lets -merge +onlyGivenNames d2
  have hd2 : d.Touches (.coll :: .cores :: .fab :: .frame :: .gmem :: .pail :: .twin :: .work :: .xch :: faultParts) (faultFlds.append lockFaultFlds) d2 := by
    unfold d2
    refine .ite ?_ ?_
    · exact .next (hd1) (Dev.touches_retireXch ..)
    · exact hd1
  clear_value d2
  extract_lets -merge +onlyGivenNames d3
  have hd3 : d.Touches (.coll :: .cores :: .fab :: .frame :: .gmem :: .pail :: .twin :: .work :: .xch :: faultParts) (faultFlds.append lockFaultFlds) d3 := by
    unfold d3
    refine .ite ?_ ?_
    · exact hd2
    · exact .next (hd2) (Dev.touches_workedTo ..)
  clear_value d3
  exact .next (.next (hd3) (Dev.touches_noteWaits ..)) (Dev.touches_lsStep ..)

theorem Dev.touches_atHead (d : Dev) (k : Clock) (c : Fin 48) (g : Eng) (e : Entry) : d.MayTouch (.coll :: .cores :: .fab :: .frame :: .gmem :: .mem :: .pail :: .snap :: .tier :: .twin :: .work :: .xch :: faultParts) (coreFaultFlds.append (faultFlds.append (devFaultFlds.append (gmemFaultFlds.append lockFaultFlds)))) (Dev.atHead d k c g e) := by
  unfold Dev.atHead
  extract_lets -merge +onlyGivenNames v0
  extract_lets -merge +onlyGivenNames v1
  refine .ite ?_ ?_
  · refine .ite ?_ ?_
    · exact .none
    · exact .some (.next (.refl _) (Dev.touches_retire ..))
  · refine .ite ?_ ?_
    · exact .none
    · refine .ite ?_ ?_
      · exact .some (.next (.refl _) (Dev.touches_lsHoldFrom ..))
      · split
        · exact .some (.next (.refl _) (Dev.touches_noteWaits ..))
        · refine .some ?_
          unfold v1
          exact .next (.next (.refl _) (Dev.touches_insFault ..)) (Dev.touches_modCore ..)
        · refine .some ?_
          unfold v1
          exact .next (.next (.refl _) (Dev.touches_poisonFault ..)) (Dev.touches_modCore ..)
        · next d6 heq0 =>
            have hd6 : d.Touches (.coll :: .cores :: .fab :: .frame :: .gmem :: .mem :: .pail :: .snap :: .tier :: .twin :: .work :: .xch :: faultParts) (coreFaultFlds.append (faultFlds.append (devFaultFlds.append (gmemFaultFlds.append lockFaultFlds)))) d6 := by
              refine .of_started ?_ heq0
              exact .nextSome (.refl _) (Dev.touches_startHashed ..)
            refine .some ?_
            unfold v1
            exact .next (hd6) (Dev.touches_modCore ..)
        · next d7 heq0 =>
            have hd7 : d.Touches (.coll :: .cores :: .fab :: .frame :: .gmem :: .mem :: .pail :: .snap :: .tier :: .twin :: .work :: .xch :: faultParts) (coreFaultFlds.append (faultFlds.append (devFaultFlds.append (gmemFaultFlds.append lockFaultFlds)))) d7 := by
              refine .of_started ?_ heq0
              exact .nextSome (.refl _) (Dev.touches_startHashed ..)
            exact .some (.next (.next (hd7) (Dev.touches_modCore ..)) (Dev.touches_noteWaits ..))
        · next d8 x9 x10 heq0 =>
            have hd8 : d.Touches (.coll :: .cores :: .fab :: .frame :: .gmem :: .mem :: .pail :: .snap :: .tier :: .twin :: .work :: .xch :: faultParts) (coreFaultFlds.append (faultFlds.append (devFaultFlds.append (gmemFaultFlds.append lockFaultFlds)))) d8 := by
              refine .of_started ?_ heq0
              exact .nextSome (.refl _) (Dev.touches_startHashed ..)
            exact .some (.next (.next (hd8) (Dev.touches_modCore ..)) (Dev.touches_afterStart ..))

end Sys2Proof.Machine
end

section
/-! SUPPORT. The footprint of each command: the parts and the register fields of the device that it may change. -/

-- One proof at a time: each thread that elaborates beside the others reserves its stack.
set_option Elab.async false

namespace Sys2Proof.Machine
open Sys2Proof

theorem State.touches_write (s : State) (same : Bool) (w : MasterWrite) : Result.Touches (.churn :: .coll :: .cores :: .duty :: .fab :: .frame :: .gmem :: .herd :: .image :: .layerInv :: .mem :: .pail :: .sep :: .snap :: .sync :: .tier :: .twin :: .work :: .xch :: faultParts) allFlds s (State.write s same w) := by
  unfold State.write
  exact State.touches_act fun k d => .some (Dev.touches_masterWrite d k w)

theorem State.touches_writeWord (s : State) (m : Master) (same : Bool) (page : ℕ) (off : ℕ) (v : ℕ) : Result.Touches (.churn :: .coll :: .cores :: .duty :: .fab :: .frame :: .gmem :: .herd :: .image :: .layerInv :: .mem :: .pail :: .sep :: .snap :: .sync :: .tier :: .twin :: .work :: .xch :: faultParts) allFlds s (State.writeWord s m same page off v) := by
  unfold State.writeWord
  exact .monoAny (State.touches_write ..)

theorem State.touches_writeComplement (s : State) (m : Master) (same : Bool) (page : ℕ) (off : ℕ) (v : ℕ) : Result.Touches (.churn :: .coll :: .cores :: .duty :: .fab :: .frame :: .gmem :: .herd :: .image :: .layerInv :: .mem :: .pail :: .sep :: .snap :: .sync :: .tier :: .twin :: .work :: .xch :: faultParts) allFlds s (State.writeComplement s m same page off v) := by
  unfold State.writeComplement
  exact .monoAny (State.touches_write ..)

theorem State.touches_issueSeq (s : State) (c : Fin 48) (w : InsWord) (eff : Clock → Dev → Core → Except Nat Core) :
    Result.Touches (.cores :: .fab :: .work :: faultParts) (coreFaultFlds.append faultFlds) s (State.issueSeq s c w eff) := by
  unfold State.issueSeq
  refine State.touches_act fun k d => ?_
  refine .ite (.some ?_) .none
  refine .ite ?_ (.mono (Dev.touches_afterIssue ..))
  split
  · exact .mono (Dev.touches_afterIssue ..)
  · exact .mono (Dev.touches_insFault ..)

theorem State.touches_issueEng (s : State) (c : Fin 48) (w : InsWord) (e : Eng) : Result.Touches (.cores :: .fab :: .work :: faultParts) (coreFaultFlds.append faultFlds) s (State.issueEng s c w e) := by
  unfold State.issueEng
  refine State.touches_act fun k d => ?_
  refine .ite ?_ ?_
  · extract_lets -merge +onlyGivenNames v0
    refine .some ?_
    refine .ite ?_ ?_
    · split
      · exact .next (.refl _) (Dev.touches_insFault ..)
      · exact .next (.refl _) (Dev.touches_afterIssue ..)
    · exact .next (.refl _) (Dev.touches_afterIssue ..)
  · exact .none

theorem touches_execTimeMessage (p : Packet) (s : State) : Result.Touches [.acc, .fab, .out, .sec, .sync, .work] [] s (execTimeMessage p s) := by
  unfold execTimeMessage
  extract_lets -merge +onlyGivenNames v0
  extract_lets -merge +onlyGivenNames v1
  refine State.touches_act fun k d => ?_
  refine .ite ?_ ?_
  · exact .none
  · refine .ite ?_ ?_
    · exact .some (.next (.refl _) (Dev.touches_count ..))
    · refine .ite ?_ ?_
      · exact .some (.next (.next (.refl _) (Dev.touches_setSync ..)) (Dev.touches_parentsChanged ..))
      · exact .none

theorem touches_execSyncParentTimeout (s : State) : Result.Touches [.acc, .fab, .out, .regs, .sec, .sync, .updated, .work] [.tickEvSyncLost] s (execSyncParentTimeout s) := by
  unfold execSyncParentTimeout
  refine State.touches_act fun k d => ?_
  extract_lets -merge +onlyGivenNames v0
  extract_lets -merge +onlyGivenNames v1
  refine .ite ?_ ?_
  · exact .some (.next (.next (.refl _) (Dev.touches_setSync ..)) (Dev.touches_flag ..))
  · exact .none

theorem touches_execTimestampBlock (port : Fin 81) (t1 : BitVec 64) (t2 : BitVec 64) (t3 : BitVec 64) (t4 : BitVec 64) (status : TwinStatus) (node : BitVec 16) (s : State) : Result.Touches [.acc, .fab, .out, .rates, .regs, .sec, .sync, .twin, .work] [.tickOffsetLast, .tickOffsetRate] s (execTimestampBlock port t1 t2 t3 t4 status node s) := by
  unfold execTimestampBlock
  extract_lets -merge +onlyGivenNames v0
  extract_lets -merge +onlyGivenNames v1
  extract_lets -merge +onlyGivenNames v2
  extract_lets -merge +onlyGivenNames v3
  refine State.touches_act fun k d => ?_
  refine .ite ?_ ?_
  · exact .none
  · extract_lets -merge +onlyGivenNames v4
    extract_lets -merge +onlyGivenNames v5 d6
    have hd6 : d.Touches [.acc, .fab, .out, .rates, .regs, .sec, .sync, .twin, .work] [.tickOffsetLast, .tickOffsetRate] d6 := by
      exact .set (.refl _) rfl
    clear_value d6
    extract_lets -merge +onlyGivenNames v7 d8
    have hd8 : d.Touches [.acc, .fab, .out, .rates, .regs, .sec, .sync, .twin, .work] [.tickOffsetLast, .tickOffsetRate] d8 := by
      unfold d8
      refine .ite ?_ ?_
      · exact .next (.set (hd6) rfl) (Dev.touches_twinUp ..)
      · exact hd6
    clear_value d8
    refine .ite ?_ ?_
    · exact .some (hd8)
    · extract_lets -merge +onlyGivenNames d9
      have hd9 : d.Touches [.acc, .fab, .out, .rates, .regs, .sec, .sync, .twin, .work] [.tickOffsetLast, .tickOffsetRate] d9 := by
        exact .next (hd8) (Dev.touches_wr ..)
      clear_value d9
      extract_lets -merge +onlyGivenNames d10
      have hd10 : d.Touches [.acc, .fab, .out, .rates, .regs, .sec, .sync, .twin, .work] [.tickOffsetLast, .tickOffsetRate] d10 := by
        unfold d10
        refine .ite ?_ ?_
        · exact .next (hd9) (Dev.touches_freeRate ..)
        · exact hd9
      clear_value d10
      exact .some (.next (hd10) (Dev.touches_setSync ..))

theorem touches_execAckTimeout (port : Fin 81) (s : State) : Result.Touches [.acc, .fab, .out, .sec, .sync, .twin, .work] [] s (execAckTimeout port s) := by
  unfold execAckTimeout
  extract_lets -merge +onlyGivenNames v0
  extract_lets -merge +onlyGivenNames v1
  refine State.touches_act fun k d => ?_
  refine .ite ?_ ?_
  · exact .some (.next (.refl _) (Dev.touches_portDown ..))
  · exact .none

theorem touches_execPmdLockLoss (port : Fin 81) (s : State) : Result.Touches [.acc, .fab, .out, .sec, .sync, .twin, .work] [] s (execPmdLockLoss port s) := by
  unfold execPmdLockLoss
  refine State.touches_now fun k d => ?_
  split
  · exact .some (.next (.refl _) (Dev.touches_portDown ..))
  · exact .some (.next (.refl _) (Dev.touches_portDown ..))
  · exact .none

theorem touches_execPortTrainingStart (port : Fin 81) (s : State) : Result.Touches [.acc, .fab, .out, .sec, .work] [] s (execPortTrainingStart port s) := by
  unfold execPortTrainingStart
  extract_lets -merge +onlyGivenNames v0
  extract_lets -merge +onlyGivenNames v1
  refine State.touches_act fun k d => ?_
  refine .ite ?_ ?_
  · exact .some (.next (.refl _) (Dev.touches_modPort ..))
  · exact .none

theorem touches_execPortTrainingEnd (port : Fin 81) (ok : Bool) (reversed : Bool) (polarity : BitVec 8) (s : State) : Result.Touches [.acc, .fab, .out, .sec, .sync, .work] [] s (execPortTrainingEnd port ok reversed polarity s) := by
  unfold execPortTrainingEnd
  refine State.touches_now fun k d => ?_
  extract_lets -merge +onlyGivenNames v0
  refine .ite ?_ ?_
  · exact .none
  · refine .ite ?_ ?_
    · extract_lets -merge +onlyGivenNames v1 v2
      extract_lets -merge +onlyGivenNames d3
      have hd3 : d.Touches [.acc, .fab, .out, .sec, .sync, .work] [] d3 := by
        exact .next (.next (.refl _) (Dev.touches_modPort ..)) (Dev.touches_parentsChanged ..)
      clear_value d3
      refine .some ?_
      refine .ite ?_ ?_
      · exact .next (hd3) (Dev.touches_twinUp ..)
      · exact hd3
    · exact .some (.next (.refl _) (Dev.touches_modPort ..))

theorem touches_execLinkBlockReceive (port : Fin 81) (body : List Byte) (trailer : BitVec 128) (s : State) : Result.Touches [.acc, .fab, .out, .sec, .sync, .twin, .work] [] s (execLinkBlockReceive port body trailer s) := by
  unfold execLinkBlockReceive
  refine State.touches_now fun k d => ?_
  refine .ite ?_ ?_
  · exact .none
  · extract_lets -merge +onlyGivenNames v0
    extract_lets -merge +onlyGivenNames v1
    extract_lets -merge +onlyGivenNames d2
    have hd2 : d.Touches [.acc, .fab, .out, .sec, .sync, .twin, .work] [] d2 := by
      unfold d2
      refine .ite ?_ ?_
      · exact .next (.refl _) (Dev.touches_takeBlock ..)
      · refine .ite ?_ ?_
        · exact .refl _
        · exact .next (.refl _) (Dev.touches_modPort ..)
    clear_value d2
    exact .some (.next (hd2) (Dev.touches_pump ..))

theorem touches_execProbe (port : Fin 81) (p : Packet) (s : State) : Result.Touches [.acc, .fab, .out, .sec, .work] [] s (execProbe port p s) := by
  unfold execProbe
  refine State.touches_now fun k d => ?_
  refine .ite ?_ ?_
  · exact .none
  · refine Dev.Touches.oneHop ?_ fun e he => ?_
    · exact .refl _
    · exact .next (he) (Dev.touches_sendOneHop ..)

theorem touches_execProbeAnswer (port : Fin 81) (p : Packet) (s : State) : Result.Touches [.acc, .fab, .out, .sec, .work] [] s (execProbeAnswer port p s) := by
  unfold execProbeAnswer
  refine State.touches_now fun k d => ?_
  refine .ite ?_ ?_
  · exact .none
  · refine Dev.Touches.oneHop ?_ fun e he => ?_
    · exact .refl _
    · exact .next (he) (Dev.touches_modPort ..)

theorem touches_execPacketArrive (port : Fin 81) (p : Packet) (s : State) : Result.Touches [.acc, .fab, .out, .sec, .work] [] s (execPacketArrive port p s) := by
  unfold execPacketArrive
  refine State.touches_now fun k d => ?_
  refine .ite ?_ ?_
  · refine Dev.Touches.oneHop ?_ fun e he => ?_
    · exact .refl _
    · exact .set (he) rfl
  · refine .ite ?_ ?_
    · exact .some (.next (.next (.refl _) (Dev.touches_takeIn ..)) (Dev.touches_arrive ..))
    · exact .none

theorem touches_execPacketDeliver (p : Packet) (s : State) : Result.Touches [.acc, .fab, .out, .sec, .work] [] s (execPacketDeliver p s) := by
  unfold execPacketDeliver
  refine State.touches_now fun k d => ?_
  refine .ite ?_ ?_
  · exact .none
  · refine .map fun _ => ?_
    extract_lets -merge +onlyGivenNames v0 d1
    have hd1 : d.Touches [.acc, .fab, .out, .sec, .work] [] d1 := by
      exact .set (.refl _) rfl
    clear_value d1
    extract_lets -merge +onlyGivenNames v2
    refine .ite ?_ ?_
    · exact .next (hd1) (Dev.touches_count ..)
    · refine .ite ?_ ?_
      · exact .next (hd1) (Dev.touches_count ..)
      · exact .next (.next (hd1) (Dev.touches_carry ..)) (Dev.touches_reorder ..)

theorem touches_execReorderTimeout (tag : BitVec 24) (epoch : BitVec 16) (src : BitVec 16) (chan : BitVec 2) (s : State) : Result.Touches [.acc, .fab, .out, .sec, .work] [] s (execReorderTimeout tag epoch src chan s) := by
  unfold execReorderTimeout
  extract_lets -merge +onlyGivenNames v0
  extract_lets -merge +onlyGivenNames v1
  refine State.touches_act fun k d => ?_
  clear_value v0
  clear_value v1
  split
  · exact .some (.next (.refl _) (Dev.touches_passGap ..))
  · exact .none

theorem touches_execRouteCommit (s : State) : Result.Touches [.acc, .fab, .out, .sec, .sync, .work] [] s (execRouteCommit s) := by
  unfold execRouteCommit
  refine State.touches_act fun k d => ?_
  split
  · exact .none
  · extract_lets -merge +onlyGivenNames v2 d3
    have hd3 : d.Touches [.acc, .fab, .out, .sec, .sync, .work] [] d3 := by
      exact .set (.refl _) rfl
    clear_value d3
    exact .some (.next (.next (hd3) (Dev.touches_admitPorts ..)) (Dev.touches_parentsChanged ..))

theorem touches_execCongestionWindowEnd (s : State) : Result.Touches [.acc, .fab, .out, .sec, .work] [] s (execCongestionWindowEnd s) := by
  unfold execCongestionWindowEnd
  refine State.touches_act fun k d => ?_
  refine .some ?_
  refine .foldl ?_ fun e0 x1 _ => ?_
  · exact .refl _
  · exact .next (.refl _) (Dev.touches_closeWindow ..)

theorem touches_execTempSample (temps : List (BitVec 12)) (power : BitVec 12) (s : State) : Result.Touches (.fab :: .pwr :: .sec :: .sync :: .twin :: .work :: eventParts) [.pwrEvReduce] s (execTempSample temps power s) := by
  unfold execTempSample
  refine State.touches_act fun k d => ?_
  extract_lets -merge +onlyGivenNames v0
  extract_lets -merge +onlyGivenNames v1
  extract_lets -merge +onlyGivenNames v2
  refine .some ?_
  refine Dev.Touches.alerting ?_ fun e3 he4 => ?_
  · exact .refl _
  · extract_lets -merge +onlyGivenNames d5
    have hd5 : d.Touches (.fab :: .pwr :: .sec :: .sync :: .twin :: .work :: eventParts) [.pwrEvReduce] d5 := by
      exact .next (.next (he4) (Dev.touches_countReduced ..)) (Dev.touches_modPwr ..)
    clear_value d5
    extract_lets -merge +onlyGivenNames d6
    have hd6 : d.Touches (.fab :: .pwr :: .sec :: .sync :: .twin :: .work :: eventParts) [.pwrEvReduce] d6 := by
      refine .foldl ?_ fun e7 x8 _ => ?_
      · exact hd5
      · exact .next (.refl _) (Dev.touches_sampleDie ..)
    clear_value d6
    refine .ite ?_ ?_
    · refine .next ?_ (Dev.touches_modPwr ..)
      refine .foldl ?_ fun e9 x10 _ => ?_
      · exact hd6
      · exact .next (.refl _) (Dev.touches_portDown ..)
    · exact hd6

theorem touches_execReductionExit (die : Fin 12) (s : State) : Result.Touches [.acc, .fab, .host, .out, .pwr, .sec, .work] [] s (execReductionExit die s) := by
  unfold execReductionExit
  extract_lets -merge +onlyGivenNames v0
  refine State.touches_act fun k d => ?_
  clear_value v0
  split
  · exact .none
  · refine .some ?_
    refine Dev.Touches.alerting ?_ fun e3 he4 => ?_
    · exact .refl _
    · exact .next (.next (he4) (Dev.touches_countReduced ..)) (Dev.touches_modPwr ..)

theorem touches_execSummaryPeriodLatch (s : State) : Result.Touches [.acc, .fab, .host, .out, .pwr, .regs, .sec, .work] allFlds s (execSummaryPeriodLatch s) := by
  unfold execSummaryPeriodLatch
  extract_lets -merge +onlyGivenNames v0
  refine State.touches_act fun k d => ?_
  refine .ite ?_ ?_
  · exact .some (.nextAny (.refl _) (Dev.touches_latchSummary ..))
  · exact .none

theorem touches_execSadd (c : Fin 48) (psel : BitVec 4) (sd : BitVec 5) (sa : BitVec 5) (sb : BitVec 5) (imm : Bool) (imm32 : BitVec 32) (s : State) : Result.Touches (.cores :: .fab :: .work :: faultParts) (coreFaultFlds.append faultFlds) s (execSadd c psel sd sa sb imm imm32 s) := by
  unfold execSadd
  exact .mono (State.touches_issueSeq ..)

theorem touches_execSsub (c : Fin 48) (psel : BitVec 4) (sd : BitVec 5) (sa : BitVec 5) (sb : BitVec 5) (imm : Bool) (imm32 : BitVec 32) (s : State) : Result.Touches (.cores :: .fab :: .work :: faultParts) (coreFaultFlds.append faultFlds) s (execSsub c psel sd sa sb imm imm32 s) := by
  unfold execSsub
  exact .mono (State.touches_issueSeq ..)

theorem touches_execSmul (c : Fin 48) (psel : BitVec 4) (sd : BitVec 5) (sa : BitVec 5) (sb : BitVec 5) (imm : Bool) (imm32 : BitVec 32) (s : State) : Result.Touches (.cores :: .fab :: .work :: faultParts) (coreFaultFlds.append faultFlds) s (execSmul c psel sd sa sb imm imm32 s) := by
  unfold execSmul
  exact .mono (State.touches_issueSeq ..)

theorem touches_execSand (c : Fin 48) (psel : BitVec 4) (sd : BitVec 5) (sa : BitVec 5) (sb : BitVec 5) (imm : Bool) (imm32 : BitVec 32) (s : State) : Result.Touches (.cores :: .fab :: .work :: faultParts) (coreFaultFlds.append faultFlds) s (execSand c psel sd sa sb imm imm32 s) := by
  unfold execSand
  exact .mono (State.touches_issueSeq ..)

theorem touches_execSor (c : Fin 48) (psel : BitVec 4) (sd : BitVec 5) (sa : BitVec 5) (sb : BitVec 5) (imm : Bool) (imm32 : BitVec 32) (s : State) : Result.Touches (.cores :: .fab :: .work :: faultParts) (coreFaultFlds.append faultFlds) s (execSor c psel sd sa sb imm imm32 s) := by
  unfold execSor
  exact .mono (State.touches_issueSeq ..)

theorem touches_execSxor (c : Fin 48) (psel : BitVec 4) (sd : BitVec 5) (sa : BitVec 5) (sb : BitVec 5) (imm : Bool) (imm32 : BitVec 32) (s : State) : Result.Touches (.cores :: .fab :: .work :: faultParts) (coreFaultFlds.append faultFlds) s (execSxor c psel sd sa sb imm imm32 s) := by
  unfold execSxor
  exact .mono (State.touches_issueSeq ..)

theorem touches_execSshl (c : Fin 48) (psel : BitVec 4) (sd : BitVec 5) (sa : BitVec 5) (sb : BitVec 5) (imm : Bool) (imm32 : BitVec 32) (s : State) : Result.Touches (.cores :: .fab :: .work :: faultParts) (coreFaultFlds.append faultFlds) s (execSshl c psel sd sa sb imm imm32 s) := by
  unfold execSshl
  exact .mono (State.touches_issueSeq ..)

theorem touches_execSshr (c : Fin 48) (psel : BitVec 4) (sd : BitVec 5) (sa : BitVec 5) (sb : BitVec 5) (imm : Bool) (imm32 : BitVec 32) (s : State) : Result.Touches (.cores :: .fab :: .work :: faultParts) (coreFaultFlds.append faultFlds) s (execSshr c psel sd sa sb imm imm32 s) := by
  unfold execSshr
  exact .mono (State.touches_issueSeq ..)

theorem touches_execSsra (c : Fin 48) (psel : BitVec 4) (sd : BitVec 5) (sa : BitVec 5) (sb : BitVec 5) (imm : Bool) (imm32 : BitVec 32) (s : State) : Result.Touches (.cores :: .fab :: .work :: faultParts) (coreFaultFlds.append faultFlds) s (execSsra c psel sd sa sb imm imm32 s) := by
  unfold execSsra
  exact .mono (State.touches_issueSeq ..)

theorem touches_execSmovi (c : Fin 48) (psel : BitVec 4) (sd : BitVec 5) (imm64 : BitVec 64) (s : State) : Result.Touches (.cores :: .fab :: .work :: faultParts) (coreFaultFlds.append faultFlds) s (execSmovi c psel sd imm64 s) := by
  unfold execSmovi
  exact .mono (State.touches_issueSeq ..)

theorem touches_execScmp (c : Fin 48) (psel : BitVec 4) (pd : BitVec 3) (cond : BitVec 2) (sa : BitVec 5) (sb : BitVec 5) (imm : Bool) (imm32 : BitVec 32) (s : State) : Result.Touches (.cores :: .fab :: .work :: faultParts) (coreFaultFlds.append faultFlds) s (execScmp c psel pd cond sa sb imm imm32 s) := by
  unfold execScmp
  exact .mono (State.touches_issueSeq ..)

theorem touches_execPset (c : Fin 48) (psel : BitVec 4) (pd : BitVec 3) (pa : BitVec 3) (pb : BitVec 3) (pop : BitVec 2) (s : State) : Result.Touches (.cores :: .fab :: .work :: faultParts) (coreFaultFlds.append faultFlds) s (execPset c psel pd pa pb pop s) := by
  unfold execPset
  exact .mono (State.touches_issueSeq ..)

theorem touches_execNop (c : Fin 48) (psel : BitVec 4) (s : State) : Result.Touches (.cores :: .fab :: .work :: faultParts) (coreFaultFlds.append faultFlds) s (execNop c psel s) := by
  unfold execNop
  exact .mono (State.touches_issueSeq ..)

theorem touches_execTdset (c : Fin 48) (psel : BitVec 4) (td : BitVec 6) (fld : BitVec 4) (sa : BitVec 5) (add : Bool) (s : State) : Result.Touches (.cores :: .fab :: .work :: faultParts) (coreFaultFlds.append faultFlds) s (execTdset c psel td fld sa add s) := by
  unfold execTdset
  exact .mono (State.touches_issueSeq ..)

theorem touches_execTdcopy (c : Fin 48) (psel : BitVec 4) (tdd : BitVec 6) (tda : BitVec 6) (s : State) : Result.Touches (.cores :: .fab :: .work :: faultParts) (coreFaultFlds.append faultFlds) s (execTdcopy c psel tdd tda s) := by
  unfold execTdcopy
  exact .mono (State.touches_issueSeq ..)

theorem touches_execLoop (c : Fin 48) (psel : BitVec 4) (count : BitVec 16) (body : BitVec 18) (iter : Bool) (si : BitVec 5) (s : State) : Result.Touches (.cores :: .fab :: .work :: faultParts) (coreFaultFlds.append faultFlds) s (execLoop c psel count body iter si s) := by
  unfold execLoop
  exact .mono (State.touches_issueSeq ..)

theorem touches_execSyncBar (c : Fin 48) (psel : BitVec 4) (mask : BitVec 48) (id : BitVec 8) (s : State) : Result.Touches (.cores :: .fab :: .work :: faultParts) (coreFaultFlds.append faultFlds) s (execSyncBar c psel mask id s) := by
  unfold execSyncBar
  exact .mono (State.touches_issueSeq ..)

theorem touches_execSyncBarRelease (c : Fin 48) (s : State) : Result.Touches (.cores :: .fab :: .work :: faultParts) (coreFaultFlds.append faultFlds) s (execSyncBarRelease c s) := by
  unfold execSyncBarRelease
  refine State.touches_now fun k d => ?_
  split
  · extract_lets -merge +onlyGivenNames v3
    extract_lets -merge +onlyGivenNames v4
    refine .ite ?_ ?_
    · extract_lets -merge +onlyGivenNames v5
      extract_lets -merge +onlyGivenNames v6
      refine .some ?_
      refine .foldl ?_ fun e7 x8 _ => ?_
      · exact .refl _
      · exact .next (.refl _) (Dev.touches_resume ..)
    · exact .none
  · exact .none

theorem touches_execFenceEng (c : Fin 48) (psel : BitVec 4) (cmask : BitVec 13) (s : State) : Result.Touches (.cores :: .fab :: .work :: faultParts) (coreFaultFlds.append faultFlds) s (execFenceEng c psel cmask s) := by
  unfold execFenceEng
  exact .mono (State.touches_issueSeq ..)

theorem touches_execTickEnd (c : Fin 48) (psel : BitVec 4) (s : State) : Result.Touches (.cores :: .fab :: .work :: faultParts) (coreFaultFlds.append faultFlds) s (execTickEnd c psel s) := by
  unfold execTickEnd
  exact .mono (State.touches_issueSeq ..)

theorem touches_execTickWait (c : Fin 48) (psel : BitVec 4) (src : Bool) (sa : BitVec 5) (offs : BitVec 27) (s : State) : Result.Touches (.cores :: .fab :: .work :: faultParts) (coreFaultFlds.append faultFlds) s (execTickWait c psel src sa offs s) := by
  unfold execTickWait
  exact .mono (State.touches_issueSeq ..)

theorem touches_execTickWaitRelease (c : Fin 48) (s : State) : Result.Touches (.cores :: .fab :: .work :: faultParts) (coreFaultFlds.append faultFlds) s (execTickWaitRelease c s) := by
  unfold execTickWaitRelease
  refine State.touches_act fun k d => ?_
  split
  · refine .ite ?_ ?_
    · exact .some (.next (.refl _) (Dev.touches_resume ..))
    · exact .none
  · exact .none

theorem touches_execTickFrame (c : Fin 48) (psel : BitVec 4) (sd : BitVec 5) (se : BitVec 5) (s : State) : Result.Touches (.cores :: .fab :: .work :: faultParts) (coreFaultFlds.append faultFlds) s (execTickFrame c psel sd se s) := by
  unfold execTickFrame
  exact .mono (State.touches_issueSeq ..)

theorem touches_execTickNow (c : Fin 48) (psel : BitVec 4) (sd : BitVec 5) (s : State) : Result.Touches (.cores :: .fab :: .work :: faultParts) (coreFaultFlds.append faultFlds) s (execTickNow c psel sd s) := by
  unfold execTickNow
  exact .mono (State.touches_issueSeq ..)

theorem touches_execGld (c : Fin 48) (psel : BitVec 4) (tdd : BitVec 6) (sl : BitVec 5) (win : BitVec 10) (so : BitVec 5) (len : BitVec 10) (s : State) : Result.Touches (.cores :: .fab :: .work :: faultParts) (coreFaultFlds.append faultFlds) s (execGld c psel tdd sl win so len s) := by
  unfold execGld
  exact .mono (State.touches_issueEng ..)

theorem touches_execGst (c : Fin 48) (psel : BitVec 4) (tda : BitVec 6) (sl : BitVec 5) (win : BitVec 10) (so : BitVec 5) (len : BitVec 10) (s : State) : Result.Touches (.cores :: .fab :: .work :: faultParts) (coreFaultFlds.append faultFlds) s (execGst c psel tda sl win so len s) := by
  unfold execGst
  exact .mono (State.touches_issueEng ..)

theorem touches_execGatom (c : Fin 48) (psel : BitVec 4) (sd : BitVec 5) (sa : BitVec 5) (sb : BitVec 5) (win : BitVec 10) (so : BitVec 5) (aop : BitVec 3) (s : State) : Result.Touches (.cores :: .fab :: .work :: faultParts) (coreFaultFlds.append faultFlds) s (execGatom c psel sd sa sb win so aop s) := by
  unfold execGatom
  exact .mono (State.touches_issueEng ..)

theorem touches_execFenceGmem (c : Fin 48) (psel : BitVec 4) (scope : Bool) (sa : BitVec 5) (s : State) : Result.Touches (.cores :: .fab :: .work :: faultParts) (coreFaultFlds.append faultFlds) s (execFenceGmem c psel scope sa s) := by
  unfold execFenceGmem
  exact .mono (State.touches_issueSeq ..)

theorem touches_execFenceRelease (c : Fin 48) (s : State) : Result.Touches (.cores :: .fab :: .work :: faultParts) (coreFaultFlds.append faultFlds) s (execFenceRelease c s) := by
  unfold execFenceRelease
  refine State.touches_now fun k d => ?_
  extract_lets -merge +onlyGivenNames v0
  extract_lets -merge +onlyGivenNames v1
  refine .ite ?_ ?_
  · exact .some (.next (.refl _) (Dev.touches_resume ..))
  · exact .none

theorem touches_execManagementRequest (p : Packet) (s : State) : Result.Touches [.acc, .fab, .gmem, .out, .sec, .work] [] s (execManagementRequest p s) := by
  unfold execManagementRequest
  refine State.touches_now fun k d => ?_
  extract_lets -merge +onlyGivenNames v0
  extract_lets -merge +onlyGivenNames v1
  extract_lets -merge +onlyGivenNames v2
  extract_lets -merge +onlyGivenNames v3
  extract_lets -merge +onlyGivenNames v4
  refine .ite ?_ ?_
  · extract_lets -merge +onlyGivenNames v5
    extract_lets -merge +onlyGivenNames d6
    have hd6 : d.Touches [.acc, .fab, .gmem, .out, .sec, .work] [] d6 := by
      exact .next (.refl _) (Dev.touches_accept ..)
    clear_value d6
    refine .some ?_
    refine .ite ?_ ?_
    · exact .next (hd6) (Dev.touches_modGmem ..)
    · exact hd6
  · exact .none

theorem touches_execGmemRetry (node : BitVec 16) (seq : BitVec 32) (s : State) : Result.Touches [.acc, .fab, .gmem, .out, .sec, .work] [] s (execGmemRetry node seq s) := by
  unfold execGmemRetry
  extract_lets -merge +onlyGivenNames v0
  extract_lets -merge +onlyGivenNames v1
  refine State.touches_act fun k d => ?_
  refine .map fun _ => ?_
  extract_lets -merge +onlyGivenNames v2
  extract_lets -merge +onlyGivenNames d3
  have hd3 : d.Touches [.acc, .fab, .gmem, .out, .sec, .work] [] d3 := by
    exact .next (.refl _) (Dev.touches_modGmem ..)
  clear_value d3
  extract_lets -merge +onlyGivenNames v4
  extract_lets -merge +onlyGivenNames d5
  have hd5 : d.Touches [.acc, .fab, .gmem, .out, .sec, .work] [] d5 := by
    exact .set (hd3) rfl
  clear_value d5
  exact .next (.next (.next (hd5) (Dev.touches_count ..)) (Dev.touches_countSent ..)) (Dev.touches_sendReq ..)

theorem touches_execGmemTimeout (node : BitVec 16) (seq : BitVec 32) (s : State) : Result.Touches (.fab :: .gmem :: .work :: faultParts) (faultFlds.append gmemFaultFlds) s (execGmemTimeout node seq s) := by
  unfold execGmemTimeout
  extract_lets -merge +onlyGivenNames v0
  extract_lets -merge +onlyGivenNames v1
  refine State.touches_act fun k d => ?_
  refine .map fun _ => ?_
  split
  · exact .next (.next (.next (.refl _) (Dev.touches_modGmem ..)) (Dev.touches_gmemFault ..)) (Dev.touches_noteRoomWait ..)

theorem touches_execLockstepArmRecord (p : Packet) (s : State) : Result.Touches [.acc, .fab, .out, .sec, .twin, .work] [] s (execLockstepArmRecord p s) := by
  unfold execLockstepArmRecord
  refine State.touches_now fun k d => ?_
  refine .ite ?_ ?_
  · extract_lets -merge +onlyGivenNames v0
    exact .some (.next (.next (.refl _) (Dev.touches_takeTwin ..)) (Dev.touches_modTwin ..))
  · exact .nextSome (.refl _) (Dev.touches_twinDrop ..)

theorem touches_execLockstepFrameDigests (p : Packet) (s : State) : Result.Touches (.fab :: .twin :: .work :: faultParts) (faultFlds.append lockFaultFlds) s (execLockstepFrameDigests p s) := by
  unfold execLockstepFrameDigests
  refine State.touches_now fun k d => ?_
  refine .ite ?_ ?_
  · extract_lets -merge +onlyGivenNames d0
    have hd0 : d.Touches (.fab :: .twin :: .work :: faultParts) (faultFlds.append lockFaultFlds) d0 := by
      exact .next (.refl _) (Dev.touches_takeTwin ..)
    clear_value d0
    refine .some ?_
    refine .foldl ?_ fun e1 x2 _ => ?_
    · exact hd0
    · extract_lets -merge +onlyGivenNames v3
      refine .ite ?_ ?_
      · exact .refl _
      · exact .next (.refl _) (Dev.touches_takeDigest ..)
  · exact .nextSome (.refl _) (Dev.touches_twinDrop ..)

theorem touches_execLockstepGranuleRecords (p : Packet) (s : State) : Result.Touches (.fab :: .twin :: .work :: faultParts) (faultFlds.append lockFaultFlds) s (execLockstepGranuleRecords p s) := by
  unfold execLockstepGranuleRecords
  refine State.touches_now fun k d => ?_
  refine .ite ?_ ?_
  · extract_lets -merge +onlyGivenNames v0
    extract_lets -merge +onlyGivenNames v1
    extract_lets -merge +onlyGivenNames d2
    have hd2 : d.Touches (.fab :: .twin :: .work :: faultParts) (faultFlds.append lockFaultFlds) d2 := by
      exact .next (.refl _) (Dev.touches_takeTwin ..)
    clear_value d2
    split
    · exact .some (hd2)
    · refine .some ?_
      refine .foldl ?_ fun e5 x6 _ => ?_
      · exact hd2
      · extract_lets -merge +onlyGivenNames v7
        extract_lets -merge +onlyGivenNames v8
        extract_lets -merge +onlyGivenNames v9
        refine .ite ?_ ?_
        · exact .refl _
        · exact .next (.refl _) (Dev.touches_diverge ..)
  · exact .nextSome (.refl _) (Dev.touches_twinDrop ..)

theorem touches_execLockstepHalt (p : Packet) (s : State) : Result.Touches (.fab :: .twin :: .work :: faultParts) (faultFlds.append lockFaultFlds) s (execLockstepHalt p s) := by
  unfold execLockstepHalt
  refine State.touches_now fun k d => ?_
  refine .ite ?_ ?_
  · extract_lets -merge +onlyGivenNames v0
    extract_lets -merge +onlyGivenNames d1
    have hd1 : d.Touches (.fab :: .twin :: .work :: faultParts) (faultFlds.append lockFaultFlds) d1 := by
      exact .next (.next (.refl _) (Dev.touches_takeTwin ..)) (Dev.touches_modTwin ..)
    clear_value d1
    exact .some (.next (hd1) (Dev.touches_lsHalt ..))
  · exact .nextSome (.refl _) (Dev.touches_twinDrop ..)

theorem touches_execTimestampSend (port : Fin 81) (s : State) : Result.Touches [.acc, .fab, .out, .sec, .work] [] s (execTimestampSend port s) := by
  unfold execTimestampSend
  extract_lets -merge +onlyGivenNames v0
  refine State.touches_act fun k d => ?_
  extract_lets -merge +onlyGivenNames v1
  refine .ite ?_ ?_
  · extract_lets -merge +onlyGivenNames d2
    have hd2 : d.Touches [.acc, .fab, .out, .sec, .work] [] d2 := by
      exact .next (.next (.refl _) (Dev.touches_sendBlock ..)) (Dev.touches_modPort ..)
    clear_value d2
    refine .some ?_
    refine .ite ?_ ?_
    · exact .next (hd2) (Dev.touches_sendArm ..)
    · exact hd2
  · exact .none

theorem touches_execCollBcast (c : Fin 48) (psel : BitVec 4) (tda : BitVec 6) (desc : BitVec 12) (s : State) : Result.Touches (.cores :: .fab :: .work :: faultParts) (coreFaultFlds.append faultFlds) s (execCollBcast c psel tda desc s) := by
  unfold execCollBcast
  exact .mono (State.touches_issueEng ..)

theorem touches_execCollReduce (c : Fin 48) (psel : BitVec 4) (tdd : BitVec 6) (tda : BitVec 6) (desc : BitVec 12) (s : State) : Result.Touches (.cores :: .fab :: .work :: faultParts) (coreFaultFlds.append faultFlds) s (execCollReduce c psel tdd tda desc s) := by
  unfold execCollReduce
  exact .mono (State.touches_issueEng ..)

theorem touches_execCollWait (c : Fin 48) (psel : BitVec 4) (desc : BitVec 12) (s : State) : Result.Touches (.cores :: .fab :: .work :: faultParts) (coreFaultFlds.append faultFlds) s (execCollWait c psel desc s) := by
  unfold execCollWait
  exact .mono (State.touches_issueEng ..)

theorem touches_execCollInvocationStart (desc : BitVec 12) (s : State) : Result.Touches (.coll :: .cores :: .fab :: .mem :: .snap :: .twin :: .work :: faultParts) (.collFaultInv :: .collFaultByToken :: .collFaultDesc :: .collFaultCause :: .collFaultCode :: .collFaultMemberValid :: .collFaultMember :: coreFaultFlds.append (faultFlds.append devFaultFlds)) s (execCollInvocationStart desc s) := by
  unfold execCollInvocationStart
  refine State.touches_now fun k d => ?_
  split
  · exact .none
  · split
    · extract_lets -merge +onlyGivenNames v4
      refine .ite ?_ ?_
      · exact .none
      · refine .ite ?_ ?_
        · exact .some (.next (.refl _) (Dev.touches_lsHoldFrom ..))
        · split
          · exact .none
          · extract_lets -merge +onlyGivenNames v9
            extract_lets -merge +onlyGivenNames v10
            extract_lets -merge +onlyGivenNames v11
            extract_lets -merge +onlyGivenNames d12
            have hd12 : d.Touches (.coll :: .cores :: .fab :: .mem :: .snap :: .twin :: .work :: faultParts) (.collFaultInv :: .collFaultByToken :: .collFaultDesc :: .collFaultCause :: .collFaultCode :: .collFaultMemberValid :: .collFaultMember :: coreFaultFlds.append (faultFlds.append devFaultFlds)) d12 := by
              refine .foldl ?_ fun e13 x14 _ => ?_
              · exact .refl _
              · exact .next (.refl _) (Dev.touches_modCore ..)
            clear_value d12
            extract_lets -merge +onlyGivenNames v15
            extract_lets -merge +onlyGivenNames v16
            extract_lets -merge +onlyGivenNames d17
            have hd17 : d.Touches (.coll :: .cores :: .fab :: .mem :: .snap :: .twin :: .work :: faultParts) (.collFaultInv :: .collFaultByToken :: .collFaultDesc :: .collFaultCause :: .collFaultCode :: .collFaultMemberValid :: .collFaultMember :: coreFaultFlds.append (faultFlds.append devFaultFlds)) d17 := by
              exact .next (.next (.next (.next (hd12) (Dev.touches_dropInvs ..)) (Dev.touches_count ..)) (Dev.touches_collWork ..)) (Dev.touches_setCollInv ..)
            clear_value d17
            split
            next d18 x19 heq =>
              have hd18 : d.Touches (.coll :: .cores :: .fab :: .mem :: .snap :: .twin :: .work :: faultParts) (.collFaultInv :: .collFaultByToken :: .collFaultDesc :: .collFaultCause :: .collFaultCode :: .collFaultMemberValid :: .collFaultMember :: coreFaultFlds.append (faultFlds.append devFaultFlds)) d18 := by
                refine .of_fst ?_ heq
                split
                · exact .next (hd17) (Dev.touches_takeReport ..)
                · exact .fst (hd17)
              extract_lets -merge +onlyGivenNames d20
              have hd20 : d.Touches (.coll :: .cores :: .fab :: .mem :: .snap :: .twin :: .work :: faultParts) (.collFaultInv :: .collFaultByToken :: .collFaultDesc :: .collFaultCause :: .collFaultCode :: .collFaultMemberValid :: .collFaultMember :: coreFaultFlds.append (faultFlds.append devFaultFlds)) d20 := by
                unfold d20
                refine .ite ?_ ?_
                · exact hd18
                · exact .next (hd18) (Dev.touches_collSend ..)
              clear_value d20
              split
              next d21 x22 heq =>
                have hd21 : d.Touches (.coll :: .cores :: .fab :: .mem :: .snap :: .twin :: .work :: faultParts) (.collFaultInv :: .collFaultByToken :: .collFaultDesc :: .collFaultCause :: .collFaultCode :: .collFaultMemberValid :: .collFaultMember :: coreFaultFlds.append (faultFlds.append devFaultFlds)) d21 := by
                  refine .of_fst ?_ heq
                  split
                  · exact .next (hd20) (Dev.touches_reduce ..)
                  · split
                    · exact .next (hd20) (Dev.touches_bcastRoot ..)
                    · exact .fst (hd20)
                extract_lets -merge +onlyGivenNames d23
                have hd23 : d.Touches (.coll :: .cores :: .fab :: .mem :: .snap :: .twin :: .work :: faultParts) (.collFaultInv :: .collFaultByToken :: .collFaultDesc :: .collFaultCause :: .collFaultCode :: .collFaultMemberValid :: .collFaultMember :: coreFaultFlds.append (faultFlds.append devFaultFlds)) d23 := by
                  exact .next (hd21) (Dev.touches_setCollInv ..)
                clear_value d23
                extract_lets -merge +onlyGivenNames v24
                extract_lets -merge +onlyGivenNames v25
                extract_lets -merge +onlyGivenNames d26
                have hd26 : d.Touches (.coll :: .cores :: .fab :: .mem :: .snap :: .twin :: .work :: faultParts) (.collFaultInv :: .collFaultByToken :: .collFaultDesc :: .collFaultCause :: .collFaultCode :: .collFaultMemberValid :: .collFaultMember :: coreFaultFlds.append (faultFlds.append devFaultFlds)) d26 := by
                  exact .next (hd23) (Dev.touches_modColl ..)
                clear_value d26
                split
                next d32 x33 heq =>
                  have hd32 : d.Touches (.coll :: .cores :: .fab :: .mem :: .snap :: .twin :: .work :: faultParts) (.collFaultInv :: .collFaultByToken :: .collFaultDesc :: .collFaultCause :: .collFaultCode :: .collFaultMemberValid :: .collFaultMember :: coreFaultFlds.append (faultFlds.append devFaultFlds)) d32 := by
                    refine .of_fst ?_ heq
                    refine .foldl_fst ?_ fun e27 b28 x29 _ => ?_
                    · exact .fst (hd26)
                    · beta_reduce
                      split
                      · exact .next (.fst (.refl _)) (Dev.touches_collTake ..)
                      · exact .fst (.refl _)
                  extract_lets -merge +onlyGivenNames d34
                  have hd34 : d.Touches (.coll :: .cores :: .fab :: .mem :: .snap :: .twin :: .work :: faultParts) (.collFaultInv :: .collFaultByToken :: .collFaultDesc :: .collFaultCause :: .collFaultCode :: .collFaultMemberValid :: .collFaultMember :: coreFaultFlds.append (faultFlds.append devFaultFlds)) d34 := by
                    exact .next (hd32) (Dev.touches_setCollInv ..)
                  clear_value d34
                  extract_lets -merge +onlyGivenNames d35
                  have hd35 : d.Touches (.coll :: .cores :: .fab :: .mem :: .snap :: .twin :: .work :: faultParts) (.collFaultInv :: .collFaultByToken :: .collFaultDesc :: .collFaultCause :: .collFaultCode :: .collFaultMemberValid :: .collFaultMember :: coreFaultFlds.append (faultFlds.append devFaultFlds)) d35 := by
                    unfold d35
                    refine .ite ?_ ?_
                    · exact .next (hd34) (Dev.touches_judge ..)
                    · exact hd34
                  clear_value d35
                  exact .some (.next (hd35) (Dev.touches_noteCollWait ..))
    · exact .none

theorem touches_execReductionStream (p : Packet) (s : State) : Result.Touches (.coll :: .cores :: .fab :: .mem :: .snap :: .twin :: .work :: faultParts) (.collFaultInv :: .collFaultByToken :: .collFaultDesc :: .collFaultCause :: .collFaultCode :: .collFaultMemberValid :: .collFaultMember :: coreFaultFlds.append (faultFlds.append devFaultFlds)) s (execReductionStream p s) := by
  unfold execReductionStream
  refine State.touches_now fun k d => ?_
  refine .ite ?_ ?_
  · exact .nextSome (.refl _) (Dev.touches_collArrive ..)
  · exact .none

theorem touches_execReductionEndMarker (p : Packet) (s : State) : Result.Touches (.coll :: .cores :: .fab :: .mem :: .snap :: .twin :: .work :: faultParts) (.collFaultInv :: .collFaultByToken :: .collFaultDesc :: .collFaultCause :: .collFaultCode :: .collFaultMemberValid :: .collFaultMember :: coreFaultFlds.append (faultFlds.append devFaultFlds)) s (execReductionEndMarker p s) := by
  unfold execReductionEndMarker
  refine State.touches_now fun k d => ?_
  refine .ite ?_ ?_
  · exact .nextSome (.refl _) (Dev.touches_collArrive ..)
  · exact .none

theorem touches_execBroadcastStream (p : Packet) (s : State) : Result.Touches (.coll :: .cores :: .fab :: .mem :: .snap :: .twin :: .work :: faultParts) (.collFaultInv :: .collFaultByToken :: .collFaultDesc :: .collFaultCause :: .collFaultCode :: .collFaultMemberValid :: .collFaultMember :: coreFaultFlds.append (faultFlds.append devFaultFlds)) s (execBroadcastStream p s) := by
  unfold execBroadcastStream
  refine State.touches_now fun k d => ?_
  refine .ite ?_ ?_
  · exact .nextSome (.refl _) (Dev.touches_collArrive ..)
  · exact .none

theorem touches_execBroadcastEndMarker (p : Packet) (s : State) : Result.Touches (.coll :: .cores :: .fab :: .mem :: .snap :: .twin :: .work :: faultParts) (.collFaultInv :: .collFaultByToken :: .collFaultDesc :: .collFaultCause :: .collFaultCode :: .collFaultMemberValid :: .collFaultMember :: coreFaultFlds.append (faultFlds.append devFaultFlds)) s (execBroadcastEndMarker p s) := by
  unfold execBroadcastEndMarker
  refine State.touches_now fun k d => ?_
  refine .ite ?_ ?_
  · exact .nextSome (.refl _) (Dev.touches_collArrive ..)
  · exact .none

theorem touches_execCollReport (p : Packet) (s : State) (more : Bool) : Result.Touches (.coll :: .cores :: .fab :: .mem :: .snap :: .twin :: .work :: faultParts) (.collFaultInv :: .collFaultByToken :: .collFaultDesc :: .collFaultCause :: .collFaultCode :: .collFaultMemberValid :: .collFaultMember :: coreFaultFlds.append (faultFlds.append devFaultFlds)) s (execCollReport p s more) := by
  unfold execCollReport
  refine State.touches_now fun k d => ?_
  refine .ite ?_ ?_
  · exact .nextSome (.refl _) (Dev.touches_collArrive ..)
  · exact .none

theorem touches_execSampleRecords (p : Packet) (s : State) (more : Bool) : Result.Touches (.coll :: .cores :: .fab :: .mem :: .snap :: .twin :: .work :: faultParts) (.collFaultInv :: .collFaultByToken :: .collFaultDesc :: .collFaultCause :: .collFaultCode :: .collFaultMemberValid :: .collFaultMember :: coreFaultFlds.append (faultFlds.append devFaultFlds)) s (execSampleRecords p s more) := by
  unfold execSampleRecords
  refine State.touches_now fun k d => ?_
  refine .ite ?_ ?_
  · exact .nextSome (.refl _) (Dev.touches_collArrive ..)
  · exact .none

theorem touches_execStagedResultComplete (desc : BitVec 12) (inv : ℕ) (s : State) (more : Bool) : Result.Touches (.coll :: .cores :: .fab :: .mem :: .snap :: .twin :: .work :: faultParts) (.collFaultInv :: .collFaultByToken :: .collFaultDesc :: .collFaultCause :: .collFaultCode :: .collFaultMemberValid :: .collFaultMember :: coreFaultFlds.append (faultFlds.append devFaultFlds)) s (execStagedResultComplete desc inv s more) := by
  unfold execStagedResultComplete
  refine State.touches_now fun k d => ?_
  split
  · exact .none
  · refine .ite ?_ ?_
    · exact .none
    · refine .ite ?_ ?_
      · split
        next d3 x4 heq =>
          have hd3 : d.Touches (.coll :: .cores :: .fab :: .mem :: .snap :: .twin :: .work :: faultParts) (.collFaultInv :: .collFaultByToken :: .collFaultDesc :: .collFaultCause :: .collFaultCode :: .collFaultMemberValid :: .collFaultMember :: coreFaultFlds.append (faultFlds.append devFaultFlds)) d3 := by
            refine .of_fst ?_ heq
            exact .next (.refl _) (Dev.touches_lateCheck ..)
          exact .some (.next (.next (hd3) (Dev.touches_setCollInv ..)) (Dev.touches_count ..))
      · refine .ite ?_ ?_
        · split
          next d5 x6 heq =>
            have hd5 : d.Touches (.coll :: .cores :: .fab :: .mem :: .snap :: .twin :: .work :: faultParts) (.collFaultInv :: .collFaultByToken :: .collFaultDesc :: .collFaultCause :: .collFaultCode :: .collFaultMemberValid :: .collFaultMember :: coreFaultFlds.append (faultFlds.append devFaultFlds)) d5 := by
              refine .of_fst ?_ heq
              exact .next (.refl _) (Dev.touches_tryCheck ..)
            exact .some (.next (.next (hd5) (Dev.touches_setCollInv ..)) (Dev.touches_judge ..))
        · exact .none

theorem touches_execCollDeadline (desc : BitVec 12) (inv : ℕ) (s : State) : Result.Touches (.coll :: .cores :: .fab :: .mem :: .snap :: .twin :: .work :: faultParts) (.collFaultInv :: .collFaultByToken :: .collFaultDesc :: .collFaultCause :: .collFaultCode :: .collFaultMemberValid :: .collFaultMember :: coreFaultFlds.append (faultFlds.append devFaultFlds)) s (execCollDeadline desc inv s) := by
  unfold execCollDeadline
  extract_lets -merge +onlyGivenNames v0
  refine State.touches_act fun k d => ?_
  clear_value v0
  split
  · split
    · exact .some (.next (.refl _) (Dev.touches_rootDecides ..))
  · exact .none

theorem touches_execToken (p : Packet) (s : State) : Result.Touches (.coll :: .cores :: .fab :: .mem :: .snap :: .twin :: .work :: faultParts) (.collFaultInv :: .collFaultByToken :: .collFaultDesc :: .collFaultCause :: .collFaultCode :: .collFaultMemberValid :: .collFaultMember :: coreFaultFlds.append (faultFlds.append devFaultFlds)) s (execToken p s) := by
  unfold execToken
  refine State.touches_now fun k d => ?_
  refine .ite ?_ ?_
  · exact .none
  · split
    · exact .none
    · extract_lets -merge +onlyGivenNames v2
      extract_lets -merge +onlyGivenNames v3
      extract_lets -merge +onlyGivenNames v4
      extract_lets -merge +onlyGivenNames d5
      have hd5 : d.Touches (.coll :: .cores :: .fab :: .mem :: .snap :: .twin :: .work :: faultParts) (.collFaultInv :: .collFaultByToken :: .collFaultDesc :: .collFaultCause :: .collFaultCode :: .collFaultMemberValid :: .collFaultMember :: coreFaultFlds.append (faultFlds.append devFaultFlds)) d5 := by
        exact .next (.refl _) (Dev.touches_collCarry ..)
      clear_value d5
      extract_lets -merge +onlyGivenNames d6
      have hd6 : d.Touches (.coll :: .cores :: .fab :: .mem :: .snap :: .twin :: .work :: faultParts) (.collFaultInv :: .collFaultByToken :: .collFaultDesc :: .collFaultCause :: .collFaultCode :: .collFaultMemberValid :: .collFaultMember :: coreFaultFlds.append (faultFlds.append devFaultFlds)) d6 := by
        unfold d6
        split
        · refine .ite ?_ ?_
          · refine .ite ?_ ?_
            · exact .next (hd5) (Dev.touches_collCommit ..)
            · exact .next (hd5) (Dev.touches_collAbort ..)
          · refine .ite ?_ ?_
            · exact .next (hd5) (Dev.touches_count ..)
            · refine .ite ?_ ?_
              · exact hd5
              · exact .next (.next (hd5) (Dev.touches_modColl ..)) (Dev.touches_collAbort ..)
        · refine .ite ?_ ?_
          · exact .next (hd5) (Dev.touches_count ..)
          · refine .ite ?_ ?_
            · exact hd5
            · exact .next (.next (hd5) (Dev.touches_modColl ..)) (Dev.touches_collAbort ..)
      clear_value d6
      exact .some (.next (hd6) (Dev.touches_originate ..))

theorem touches_execTokenAcknowledgement (p : Packet) (s : State) : Result.Touches [.acc, .coll, .fab, .out, .sec, .work] [] s (execTokenAcknowledgement p s) := by
  unfold execTokenAcknowledgement
  refine State.touches_now fun k d => ?_
  refine .ite ?_ ?_
  · exact .none
  · split
    · exact .none
    · refine .map fun _ => ?_
      exact .next (.next (.refl _) (Dev.touches_collCarry ..)) (Dev.touches_setCollInv ..)

theorem touches_execTokenRepeat (desc : BitVec 12) (inv : ℕ) (s : State) : Result.Touches [.acc, .coll, .fab, .out, .sec, .work] [] s (execTokenRepeat desc inv s) := by
  unfold execTokenRepeat
  extract_lets -merge +onlyGivenNames v0
  refine State.touches_act fun k d => ?_
  clear_value v0
  split
  · extract_lets -merge +onlyGivenNames v4
    extract_lets -merge +onlyGivenNames v5
    extract_lets -merge +onlyGivenNames d6
    have hd6 : d.Touches [.acc, .coll, .fab, .out, .sec, .work] [] d6 := by
      exact .next (.next (.set (.refl _) rfl) (Dev.touches_setCollInv ..)) (Dev.touches_count ..)
    clear_value d6
    exact .some (.next (hd6) (Dev.touches_sendTokens ..))
  · exact .none

theorem touches_execTpromote (c : Fin 48) (psel : BitVec 4) (sa : BitVec 5) (tier : BitVec 2) (s : State) : Result.Touches (.cores :: .fab :: .work :: faultParts) (coreFaultFlds.append faultFlds) s (execTpromote c psel sa tier s) := by
  unfold execTpromote
  exact .mono (State.touches_issueEng ..)

theorem touches_execTevict (c : Fin 48) (psel : BitVec 4) (sa : BitVec 5) (tier : BitVec 2) (s : State) : Result.Touches (.cores :: .fab :: .work :: faultParts) (coreFaultFlds.append faultFlds) s (execTevict c psel sa tier s) := by
  unfold execTevict
  exact .mono (State.touches_issueEng ..)

theorem touches_execTtouch (c : Fin 48) (psel : BitVec 4) (sa : BitVec 5) (s : State) : Result.Touches (.cores :: .fab :: .work :: faultParts) (coreFaultFlds.append faultFlds) s (execTtouch c psel sa s) := by
  unfold execTtouch
  exact .mono (State.touches_issueEng ..)

theorem touches_execTwait (c : Fin 48) (psel : BitVec 4) (sa : BitVec 5) (s : State) : Result.Touches (.cores :: .fab :: .work :: faultParts) (coreFaultFlds.append faultFlds) s (execTwait c psel sa s) := by
  unfold execTwait
  exact .mono (State.touches_issueEng ..)

theorem touches_execTierMoveCommit (obj : BitVec 20) (s : State) : Result.Touches (.fab :: .gmem :: .mem :: .snap :: .tier :: .twin :: .work :: faultParts) (faultFlds.append (devFaultFlds.append (gmemFaultFlds.append lockFaultFlds))) s (execTierMoveCommit obj s) := by
  unfold execTierMoveCommit
  extract_lets -merge +onlyGivenNames v0
  extract_lets -merge +onlyGivenNames v1
  refine State.touches_act fun k d => ?_
  split
  · exact .none
  · split
    · exact .none
    · refine .ite ?_ ?_
      · extract_lets -merge +onlyGivenNames v6
        extract_lets -merge +onlyGivenNames d7
        have hd7 : d.Touches (.fab :: .gmem :: .mem :: .snap :: .tier :: .twin :: .work :: faultParts) (faultFlds.append (devFaultFlds.append (gmemFaultFlds.append lockFaultFlds))) d7 := by
          unfold d7
          refine .ite ?_ ?_
          · refine Dev.Touches.hashed ?_ fun e8 he9 => ?_
            · exact .refl _
            · exact .next (he9) (Dev.touches_settleLoads ..)
          · exact .refl _
        clear_value d7
        extract_lets -merge +onlyGivenNames v10
        extract_lets -merge +onlyGivenNames v11
        extract_lets -merge +onlyGivenNames d12
        have hd12 : d.Touches (.fab :: .gmem :: .mem :: .snap :: .tier :: .twin :: .work :: faultParts) (faultFlds.append (devFaultFlds.append (gmemFaultFlds.append lockFaultFlds))) d12 := by
          exact .next (hd7) (Dev.touches_modObj ..)
        clear_value d12
        extract_lets -merge +onlyGivenNames d13
        have hd13 : d.Touches (.fab :: .gmem :: .mem :: .snap :: .tier :: .twin :: .work :: faultParts) (faultFlds.append (devFaultFlds.append (gmemFaultFlds.append lockFaultFlds))) d13 := by
          unfold d13
          refine .ite ?_ ?_
          · exact .next (hd12) (Dev.touches_fillPieces ..)
          · exact hd12
        clear_value d13
        extract_lets -merge +onlyGivenNames d14
        have hd14 : d.Touches (.fab :: .gmem :: .mem :: .snap :: .tier :: .twin :: .work :: faultParts) (faultFlds.append (devFaultFlds.append (gmemFaultFlds.append lockFaultFlds))) d14 := by
          refine .next ?_ (Dev.touches_readsDone ..)
          refine .ite ?_ ?_
          · exact .next (hd13) (Dev.touches_unwatch ..)
          · exact hd13
        clear_value d14
        extract_lets -merge +onlyGivenNames d15
        have hd15 : d.Touches (.fab :: .gmem :: .mem :: .snap :: .tier :: .twin :: .work :: faultParts) (faultFlds.append (devFaultFlds.append (gmemFaultFlds.append lockFaultFlds))) d15 := by
          exact .next (.next (hd14) (Dev.touches_count ..)) (Dev.touches_count ..)
        clear_value d15
        exact .some (.next (.next (hd15) (Dev.touches_runTier ..)) (Dev.touches_lsStep ..))
      · exact .none

theorem touches_execLendZeroingEnd (at_ : ℕ) (s : State) : Result.Touches [.acc, .fab, .gmem, .mem, .out, .sec, .tier, .work] [] s (execLendZeroingEnd at_ s) := by
  unfold execLendZeroingEnd
  refine State.touches_act fun k d => .ite ?_ .none
  extract_lets +onlyGivenNames b n inside key e
  clear_value key
  have he : d.Touches [.acc, .fab, .gmem, .mem, .out, .sec, .tier, .work] [] e := by
    unfold e
    split
    · exact .mono (Dev.touches_forgetKey ..)
    · exact .refl d
  clear_value e
  exact .some (he.withMem rfl fun h => Mem.wf_setHbm h (Sparse.wf_filter _ _ _ (Mem.hbm_wf h)) _)

theorem touches_execMoveTile (c : Fin 48) (psel : BitVec 4) (tdd : BitVec 6) (tda : BitVec 6) (o : Offs) (z : Size) (rnd : BitVec 2) (s : State) : Result.Touches (.cores :: .fab :: .work :: faultParts) (coreFaultFlds.append faultFlds) s (execMoveTile c psel tdd tda o z rnd s) := by
  unfold execMoveTile
  exact .mono (State.touches_issueEng ..)

theorem touches_execMoveFill (c : Fin 48) (psel : BitVec 4) (tdd : BitVec 6) (o : Offs) (z : Size) (ss : BitVec 5) (s : State) : Result.Touches (.cores :: .fab :: .work :: faultParts) (coreFaultFlds.append faultFlds) s (execMoveFill c psel tdd o z ss s) := by
  unfold execMoveFill
  exact .mono (State.touches_issueEng ..)

theorem touches_execVadd (c : Fin 48) (psel : BitVec 4) (tdd : BitVec 6) (tda : BitVec 6) (tdb : BitVec 6) (z : Size) (rnd : BitVec 2) (s : State) : Result.Touches (.cores :: .fab :: .work :: faultParts) (coreFaultFlds.append faultFlds) s (execVadd c psel tdd tda tdb z rnd s) := by
  unfold execVadd
  exact .mono (State.touches_issueEng ..)

theorem touches_execVmul (c : Fin 48) (psel : BitVec 4) (tdd : BitVec 6) (tda : BitVec 6) (tdb : BitVec 6) (z : Size) (rnd : BitVec 2) (s : State) : Result.Touches (.cores :: .fab :: .work :: faultParts) (coreFaultFlds.append faultFlds) s (execVmul c psel tdd tda tdb z rnd s) := by
  unfold execVmul
  exact .mono (State.touches_issueEng ..)

theorem touches_execVfma (c : Fin 48) (psel : BitVec 4) (tdd : BitVec 6) (tda : BitVec 6) (tdb : BitVec 6) (tdc : BitVec 6) (z : Size) (rnd : BitVec 2) (s : State) : Result.Touches (.cores :: .fab :: .work :: faultParts) (coreFaultFlds.append faultFlds) s (execVfma c psel tdd tda tdb tdc z rnd s) := by
  unfold execVfma
  exact .mono (State.touches_issueEng ..)

theorem touches_execVscale (c : Fin 48) (psel : BitVec 4) (tdd : BitVec 6) (tda : BitVec 6) (z : Size) (rnd : BitVec 2) (ss : BitVec 5) (s : State) : Result.Touches (.cores :: .fab :: .work :: faultParts) (coreFaultFlds.append faultFlds) s (execVscale c psel tdd tda z rnd ss s) := by
  unfold execVscale
  exact .mono (State.touches_issueEng ..)

theorem touches_execVact (c : Fin 48) (psel : BitVec 4) (tdd : BitVec 6) (tda : BitVec 6) (z : Size) (rnd : BitVec 2) (fn : BitVec 4) (s : State) : Result.Touches (.cores :: .fab :: .work :: faultParts) (coreFaultFlds.append faultFlds) s (execVact c psel tdd tda z rnd fn s) := by
  unfold execVact
  exact .mono (State.touches_issueEng ..)

theorem touches_execVamax (c : Fin 48) (psel : BitVec 4) (tda : BitVec 6) (z : Size) (ss : BitVec 5) (s : State) : Result.Touches (.cores :: .fab :: .work :: faultParts) (coreFaultFlds.append faultFlds) s (execVamax c psel tda z ss s) := by
  unfold execVamax
  exact .mono (State.touches_issueEng ..)

theorem touches_execVgate (c : Fin 48) (psel : BitVec 4) (tdd : BitVec 6) (tda : BitVec 6) (tdb : BitVec 6) (z : Size) (rnd : BitVec 2) (s : State) : Result.Touches (.cores :: .fab :: .work :: faultParts) (coreFaultFlds.append faultFlds) s (execVgate c psel tdd tda tdb z rnd s) := by
  unfold execVgate
  exact .mono (State.touches_issueEng ..)

theorem touches_execVopt (c : Fin 48) (psel : BitVec 4) (tdd : BitVec 6) (tda : BitVec 6) (tdb : BitVec 6) (tdc : BitVec 6) (z : Size) (rnd : BitVec 2) (ss : BitVec 5) (fn : BitVec 4) (s : State) : Result.Touches (.cores :: .fab :: .work :: faultParts) (coreFaultFlds.append faultFlds) s (execVopt c psel tdd tda tdb tdc z rnd ss fn s) := by
  unfold execVopt
  exact .mono (State.touches_issueEng ..)

theorem touches_execRowSmax (c : Fin 48) (psel : BitVec 4) (tdd : BitVec 6) (tda : BitVec 6) (z : Size) (rnd : BitVec 2) (stat : BitVec 13) (ss : BitVec 5) (s : State) : Result.Touches (.cores :: .fab :: .work :: faultParts) (coreFaultFlds.append faultFlds) s (execRowSmax c psel tdd tda z rnd stat ss s) := by
  unfold execRowSmax
  exact .mono (State.touches_issueEng ..)

theorem touches_execRowNorm (c : Fin 48) (psel : BitVec 4) (tdd : BitVec 6) (tda : BitVec 6) (tdc : BitVec 6) (z : Size) (rnd : BitVec 2) (stat : BitVec 13) (ss : BitVec 5) (nkind : BitVec 2) (s : State) : Result.Touches (.cores :: .fab :: .work :: faultParts) (coreFaultFlds.append faultFlds) s (execRowNorm c psel tdd tda tdc z rnd stat ss nkind s) := by
  unfold execRowNorm
  exact .mono (State.touches_issueEng ..)

theorem touches_execRowSmaxB (c : Fin 48) (psel : BitVec 4) (tdd : BitVec 6) (tda : BitVec 6) (tdb : BitVec 6) (z : Size) (rnd : BitVec 2) (stat : BitVec 13) (recomp : Bool) (ss : BitVec 5) (s : State) : Result.Touches (.cores :: .fab :: .work :: faultParts) (coreFaultFlds.append faultFlds) s (execRowSmaxB c psel tdd tda tdb z rnd stat recomp ss s) := by
  unfold execRowSmaxB
  exact .mono (State.touches_issueEng ..)

theorem touches_execRowNormB (c : Fin 48) (psel : BitVec 4) (tdd : BitVec 6) (tda : BitVec 6) (tdb : BitVec 6) (tdc : BitVec 6) (z : Size) (rnd : BitVec 2) (stat : BitVec 13) (recomp : Bool) (ss : BitVec 5) (nkind : BitVec 2) (s : State) : Result.Touches (.cores :: .fab :: .work :: faultParts) (coreFaultFlds.append faultFlds) s (execRowNormB c psel tdd tda tdb tdc z rnd stat recomp ss nkind s) := by
  unfold execRowNormB
  exact .mono (State.touches_issueEng ..)

theorem touches_execSepSelect (c : Fin 48) (psel : BitVec 4) (tdd : BitVec 6) (tda : BitVec 6) (layer : BitVec 10) (e : BitVec 14) (k : BitVec 4) (shared : BitVec 3) (gate : Bool) (sn : BitVec 5) (s : State) : Result.Touches (.cores :: .fab :: .work :: faultParts) (coreFaultFlds.append faultFlds) s (execSepSelect c psel tdd tda layer e k shared gate sn s) := by
  unfold execSepSelect
  exact .mono (State.touches_issueEng ..)

theorem touches_execSepHash (c : Fin 48) (psel : BitVec 4) (tdd : BitVec 6) (tda : BitVec 6) (layer : BitVec 10) (e : BitVec 14) (k : BitVec 4) (salt : BitVec 5) (s : State) : Result.Touches (.cores :: .fab :: .work :: faultParts) (coreFaultFlds.append faultFlds) s (execSepHash c psel tdd tda layer e k salt s) := by
  unfold execSepHash
  exact .mono (State.touches_issueEng ..)

theorem touches_execCapacityVectorArrive (x : Fin 12) (s : State) : Result.Touches (.cores :: .fab :: .frame :: .free :: .mem :: .sep :: .snap :: .twin :: .work :: faultParts) (coreFaultFlds.append (faultFlds.append devFaultFlds)) s (execCapacityVectorArrive x s) := by
  unfold execCapacityVectorArrive
  refine State.touches_act fun k d => ?_
  split
  · exact .none
  · exact .some (.next (.next (.refl _) (Dev.touches_modSep ..)) (Dev.touches_runCaps ..))

theorem touches_execCapacityStateReadEnd (x : Fin 12) (s : State) : Result.Touches (.cores :: .fab :: .frame :: .free :: .mem :: .sep :: .snap :: .twin :: .work :: faultParts) (coreFaultFlds.append (faultFlds.append devFaultFlds)) s (execCapacityStateReadEnd x s) := by
  unfold execCapacityStateReadEnd
  refine State.touches_act fun k d => ?_
  split
  · exact .none
  · split
    · exact .some (.next (.refl _) (Dev.touches_poisonFault ..))
    · extract_lets -merge +onlyGivenNames d6
      have hd6 : d.Touches (.cores :: .fab :: .frame :: .free :: .mem :: .sep :: .snap :: .twin :: .work :: faultParts) (coreFaultFlds.append (faultFlds.append devFaultFlds)) d6 := by
        unfold d6
        split
        · exact .refl _
        · exact .next (.refl _) (Dev.touches_touch ..)
      clear_value d6
      exact .some (.next (.next (hd6) (Dev.touches_modSep ..)) (Dev.touches_runCaps ..))

theorem touches_execCapacityWriteBackEnd (x : Fin 12) (s : State) : Result.Touches [.acc, .fab, .layerInv, .out, .sec, .sep, .work] [] s (execCapacityWriteBackEnd x s) := by
  unfold execCapacityWriteBackEnd
  refine State.touches_act fun k d => ?_
  split
  · exact .none
  · extract_lets -merge +onlyGivenNames d3
    have hd3 : d.Touches [.acc, .fab, .layerInv, .out, .sec, .sep, .work] [] d3 := by
      exact .next (.refl _) (Dev.touches_modSep ..)
    clear_value d3
    extract_lets -merge +onlyGivenNames v4
    refine .some ?_
    refine .ite ?_ ?_
    · exact .next (hd3) (Dev.touches_setInv ..)
    · exact hd3

theorem touches_execPalloc (c : Fin 48) (psel : BitVec 4) (sd : BitVec 5) (sa : BitVec 5) (s : State) : Result.Touches (.cores :: .fab :: .work :: faultParts) (coreFaultFlds.append faultFlds) s (execPalloc c psel sd sa s) := by
  unfold execPalloc
  exact .mono (State.touches_issueEng ..)

theorem touches_execPfree (c : Fin 48) (psel : BitVec 4) (sa : BitVec 5) (s : State) : Result.Touches (.cores :: .fab :: .work :: faultParts) (coreFaultFlds.append faultFlds) s (execPfree c psel sa s) := by
  unfold execPfree
  exact .mono (State.touches_issueEng ..)

theorem touches_execPshare (c : Fin 48) (psel : BitVec 4) (sa : BitVec 5) (sb : BitVec 5) (s : State) : Result.Touches (.cores :: .fab :: .work :: faultParts) (coreFaultFlds.append faultFlds) s (execPshare c psel sa sb s) := by
  unfold execPshare
  exact .mono (State.touches_issueEng ..)

theorem touches_execTdpail (c : Fin 48) (psel : BitVec 4) (td : BitVec 6) (sa : BitVec 5) (s : State) : Result.Touches (.cores :: .fab :: .work :: faultParts) (coreFaultFlds.append faultFlds) s (execTdpail c psel td sa s) := by
  unfold execTdpail
  exact .mono (State.touches_issueEng ..)

theorem touches_execPailRequestApply (c : Fin 48) (s : State) : Result.Touches (.churn :: .cores :: .fab :: .mem :: .pail :: .snap :: .twin :: .work :: faultParts) (coreFaultFlds.append (faultFlds.append (devFaultFlds.append pailFaultFlds))) s (execPailRequestApply c s) := by
  unfold execPailRequestApply
  extract_lets -merge +onlyGivenNames v0
  refine State.touches_act fun k d => ?_
  split
  · exact .none
  · refine .ite ?_ ?_
    · extract_lets -merge +onlyGivenNames v3 d4
      have hd4 : d.Touches (.churn :: .cores :: .fab :: .mem :: .pail :: .snap :: .twin :: .work :: faultParts) (coreFaultFlds.append (faultFlds.append (devFaultFlds.append pailFaultFlds))) d4 := by
        exact .set (.refl _) rfl
      clear_value d4
      exact .some (.next (.next (.next (hd4) (Dev.touches_pailServe ..)) (Dev.touches_applyRequest ..)) (Dev.touches_notePailWait ..))
    · exact .none

theorem touches_execChurnSort (c : Fin 48) (psel : BitVec 4) (tdd : BitVec 6) (tda : BitVec 6) (buckets : BitVec 14) (key : Bool) (layer : BitVec 10) (s : State) : Result.Touches (.cores :: .fab :: .work :: faultParts) (coreFaultFlds.append faultFlds) s (execChurnSort c psel tdd tda buckets key layer s) := by
  unfold execChurnSort
  exact .mono (State.touches_issueEng ..)

theorem touches_execChurnRestore (c : Fin 48) (psel : BitVec 4) (tdd : BitVec 6) (tda : BitVec 6) (tdb : BitVec 6) (layer : BitVec 10) (s : State) : Result.Touches (.cores :: .fab :: .work :: faultParts) (coreFaultFlds.append faultFlds) s (execChurnRestore c psel tdd tda tdb layer s) := by
  unfold execChurnRestore
  exact .mono (State.touches_issueEng ..)

theorem touches_execDieCollectiveStart (x : Fin 12) (g : Eng) (s : State) : Result.Touches (.churn :: .cores :: .fab :: .frame :: .free :: .layerInv :: .mem :: .pail :: .sep :: .snap :: .twin :: .work :: .xch :: faultParts) (coreFaultFlds.append (faultFlds.append devFaultFlds)) s (execDieCollectiveStart x g s) := by
  unfold execDieCollectiveStart
  refine State.touches_now fun k d => ?_
  refine .ite ?_ ?_
  · exact .none
  · split
    · exact .none
    · split
      · refine .ite ?_ ?_
        · exact .some (.next (.refl _) (Dev.touches_insFault ..))
        · exact .none
      · extract_lets -merge +onlyGivenNames v5
        extract_lets -merge +onlyGivenNames v6
        refine .ite ?_ ?_
        · exact .some (.next (.refl _) (Dev.touches_lsHoldFrom ..))
        · clear_value v6
          split
          · split
            · refine .some ?_
              refine Dev.Touches.whileOpen ?_ fun e11 he12 => ?_
              · exact .refl _
              · exact he12
          · refine .ite ?_ ?_
            · exact .some (.next (.next (.refl _) (Dev.touches_startSep ..)) (Dev.touches_notePailWait ..))
            · refine .ite ?_ ?_
              · exact .some (.next (.next (.refl _) (Dev.touches_startChurn ..)) (Dev.touches_notePailWait ..))
              · exact .none

theorem touches_execXchDispatch (c : Fin 48) (psel : BitVec 4) (tda : BitVec 6) (slot : BitVec 16) (sg : BitVec 5) (s : State) : Result.Touches (.cores :: .fab :: .work :: faultParts) (coreFaultFlds.append faultFlds) s (execXchDispatch c psel tda slot sg s) := by
  unfold execXchDispatch
  exact .mono (State.touches_issueEng ..)

theorem touches_execXchRecv (c : Fin 48) (psel : BitVec 4) (tdd : BitVec 6) (slot : BitVec 16) (s : State) : Result.Touches (.cores :: .fab :: .work :: faultParts) (coreFaultFlds.append faultFlds) s (execXchRecv c psel tdd slot s) := by
  unfold execXchRecv
  exact .mono (State.touches_issueEng ..)

theorem touches_execXchReturn (c : Fin 48) (psel : BitVec 4) (tda : BitVec 6) (slot : BitVec 16) (s : State) : Result.Touches (.cores :: .fab :: .work :: faultParts) (coreFaultFlds.append faultFlds) s (execXchReturn c psel tda slot s) := by
  unfold execXchReturn
  exact .mono (State.touches_issueEng ..)

theorem touches_execXchCombine (c : Fin 48) (psel : BitVec 4) (tdd : BitVec 6) (slot : BitVec 16) (sg : BitVec 5) (s : State) : Result.Touches (.cores :: .fab :: .work :: faultParts) (coreFaultFlds.append faultFlds) s (execXchCombine c psel tdd slot sg s) := by
  unfold execXchCombine
  exact .mono (State.touches_issueEng ..)

theorem touches_execDeliveryStream (p : Packet) (s : State) : Result.Touches (.fab :: .mem :: .pail :: .snap :: .twin :: .work :: .xch :: faultParts) (coreFaultFlds.append (faultFlds.append (devFaultFlds.append pailFaultFlds))) s (execDeliveryStream p s) := by
  unfold execDeliveryStream
  refine State.touches_now fun k d => ?_
  split
  · refine .ite ?_ ?_
    · exact .some (.next (.refl _) (Dev.touches_takeStream ..))
    · exact .none
  · exact .none

theorem touches_execDeliveryEndMarker (p : Packet) (s : State) : Result.Touches (.cores :: .fab :: .mem :: .pail :: .snap :: .twin :: .work :: .xch :: faultParts) (coreFaultFlds.append (faultFlds.append (devFaultFlds.append pailFaultFlds))) s (execDeliveryEndMarker p s) := by
  unfold execDeliveryEndMarker
  refine State.touches_now fun k d => ?_
  split
  · refine .ite ?_ ?_
    · extract_lets -merge +onlyGivenNames d3
      have hd3 : d.Touches (.cores :: .fab :: .mem :: .pail :: .snap :: .twin :: .work :: .xch :: faultParts) (coreFaultFlds.append (faultFlds.append (devFaultFlds.append pailFaultFlds))) d3 := by
        exact .next (.refl _) (Dev.touches_endStream ..)
      clear_value d3
      extract_lets -merge +onlyGivenNames d4
      have hd4 : d.Touches (.cores :: .fab :: .mem :: .pail :: .snap :: .twin :: .work :: .xch :: faultParts) (coreFaultFlds.append (faultFlds.append (devFaultFlds.append pailFaultFlds))) d4 := by
        exact .next (hd3) (Dev.touches_xchWork ..)
      clear_value d4
      extract_lets -merge +onlyGivenNames v5
      extract_lets -merge +onlyGivenNames d6
      have hd6 : d.Touches (.cores :: .fab :: .mem :: .pail :: .snap :: .twin :: .work :: .xch :: faultParts) (coreFaultFlds.append (faultFlds.append (devFaultFlds.append pailFaultFlds))) d6 := by
        exact .next (.next (hd4) (Dev.touches_modHost ..)) (Dev.touches_endMark ..)
      clear_value d6
      exact .some (.next (.next (hd6) (Dev.touches_recvAll ..)) (Dev.touches_hostDone ..))
    · exact .none
  · exact .none

theorem touches_execReturnStream (p : Packet) (s : State) : Result.Touches (.fab :: .mem :: .pail :: .snap :: .twin :: .work :: .xch :: faultParts) (coreFaultFlds.append (faultFlds.append (devFaultFlds.append pailFaultFlds))) s (execReturnStream p s) := by
  unfold execReturnStream
  refine State.touches_now fun k d => ?_
  split
  · refine .ite ?_ ?_
    · exact .some (.next (.refl _) (Dev.touches_takeStream ..))
    · exact .none
  · exact .none

theorem touches_execReturnEndMarker (p : Packet) (s : State) : Result.Touches (.cores :: .fab :: .mem :: .pail :: .snap :: .twin :: .work :: .xch :: faultParts) (coreFaultFlds.append (faultFlds.append (devFaultFlds.append pailFaultFlds))) s (execReturnEndMarker p s) := by
  unfold execReturnEndMarker
  refine State.touches_now fun k d => ?_
  split
  · refine .ite ?_ ?_
    · extract_lets -merge +onlyGivenNames d3
      have hd3 : d.Touches (.cores :: .fab :: .mem :: .pail :: .snap :: .twin :: .work :: .xch :: faultParts) (coreFaultFlds.append (faultFlds.append (devFaultFlds.append pailFaultFlds))) d3 := by
        exact .next (.refl _) (Dev.touches_endStream ..)
      clear_value d3
      extract_lets -merge +onlyGivenNames d4
      have hd4 : d.Touches (.cores :: .fab :: .mem :: .pail :: .snap :: .twin :: .work :: .xch :: faultParts) (coreFaultFlds.append (faultFlds.append (devFaultFlds.append pailFaultFlds))) d4 := by
        exact .next (hd3) (Dev.touches_xchWork ..)
      clear_value d4
      extract_lets -merge +onlyGivenNames v5
      extract_lets -merge +onlyGivenNames d6
      have hd6 : d.Touches (.cores :: .fab :: .mem :: .pail :: .snap :: .twin :: .work :: .xch :: faultParts) (coreFaultFlds.append (faultFlds.append (devFaultFlds.append pailFaultFlds))) d6 := by
        exact .next (.next (hd4) (Dev.touches_modSend ..)) (Dev.touches_endMark ..)
      clear_value d6
      extract_lets -merge +onlyGivenNames d7
      have hd7 : d.Touches (.cores :: .fab :: .mem :: .pail :: .snap :: .twin :: .work :: .xch :: faultParts) (coreFaultFlds.append (faultFlds.append (devFaultFlds.append pailFaultFlds))) d7 := by
        refine .foldl ?_ fun e8 x9 _ => ?_
        · exact hd6
        · exact .next (.refl _) (Dev.touches_combineReady ..)
      clear_value d7
      exact .some (.next (hd7) (Dev.touches_sendDone ..))
    · exact .none
  · exact .none

theorem touches_execHerdAdd (s : State) : Result.Touches (.fab :: .gmem :: .herd :: .mem :: .pail :: .snap :: .tier :: .twin :: .work :: .xch :: faultParts) (faultFlds.append (devFaultFlds.append (gmemFaultFlds.append (lockFaultFlds.append herdFlds)))) s (execHerdAdd s) := by
  unfold execHerdAdd
  refine State.touches_now fun k d => ?_
  refine Dev.Touches.takeRecord ?_ fun _ _ => ?_
  · exact .refl _
  · exact .some (.next (.refl _) (Dev.touches_addRecord ..))

theorem touches_execHerdCancel (s : State) : Result.Touches (.fab :: .gmem :: .herd :: .mem :: .pail :: .snap :: .tier :: .twin :: .work :: .xch :: faultParts) (faultFlds.append (devFaultFlds.append (gmemFaultFlds.append (lockFaultFlds.append herdFlds)))) s (execHerdCancel s) := by
  unfold execHerdCancel
  refine State.touches_now fun k d => ?_
  refine Dev.Touches.takeRecord ?_ fun _ _ => ?_
  · exact .refl _
  · refine .some ?_
    split
    · exact .next (.refl _) (Dev.touches_rejectRecord ..)
    · exact .next (.next (.next (.refl _) (Dev.touches_cancelSlot ..)) (Dev.touches_emit ..)) (Dev.touches_popRecord ..)

theorem touches_execHerdChangeStops (s : State) : Result.Touches (.fab :: .gmem :: .herd :: .mem :: .pail :: .snap :: .tier :: .twin :: .work :: .xch :: faultParts) (faultFlds.append (devFaultFlds.append (gmemFaultFlds.append (lockFaultFlds.append herdFlds)))) s (execHerdChangeStops s) := by
  unfold execHerdChangeStops
  refine State.touches_now fun k d => ?_
  exact .nextSome (.refl _) (Dev.touches_changeStep ..)

theorem touches_execHerdHold (s : State) : Result.Touches (.fab :: .gmem :: .herd :: .mem :: .pail :: .snap :: .tier :: .twin :: .work :: .xch :: faultParts) (faultFlds.append (devFaultFlds.append (gmemFaultFlds.append (lockFaultFlds.append herdFlds)))) s (execHerdHold s) := by
  unfold execHerdHold
  refine State.touches_now fun k d => ?_
  exact .nextSome (.refl _) (Dev.touches_changeStep ..)

theorem touches_execHerdRelease (s : State) : Result.Touches (.fab :: .gmem :: .herd :: .mem :: .pail :: .snap :: .tier :: .twin :: .work :: .xch :: faultParts) (faultFlds.append (devFaultFlds.append (gmemFaultFlds.append (lockFaultFlds.append herdFlds)))) s (execHerdRelease s) := by
  unfold execHerdRelease
  refine State.touches_now fun k d => ?_
  exact .nextSome (.refl _) (Dev.touches_changeStep ..)

theorem touches_execHerdFlush (s : State) : Result.Touches (.fab :: .gmem :: .herd :: .mem :: .pail :: .snap :: .tier :: .twin :: .work :: .xch :: faultParts) (faultFlds.append (devFaultFlds.append (gmemFaultFlds.append (lockFaultFlds.append herdFlds)))) s (execHerdFlush s) := by
  unfold execHerdFlush
  refine State.touches_now fun k d => ?_
  refine Dev.Touches.takeRecord ?_ fun _ _ => ?_
  · exact .refl _
  · extract_lets -merge +onlyGivenNames v0
    extract_lets -merge +onlyGivenNames d1
    have hd1 : d.Touches (.fab :: .gmem :: .herd :: .mem :: .pail :: .snap :: .tier :: .twin :: .work :: .xch :: faultParts) (faultFlds.append (devFaultFlds.append (gmemFaultFlds.append (lockFaultFlds.append herdFlds)))) d1 := by
      refine .foldl ?_ fun e2 x3 _ => ?_
      · exact .refl _
      · split
        · exact .next (.refl _) (Dev.touches_cancelSlot ..)
    clear_value d1
    exact .some (.next (.next (hd1) (Dev.touches_emit ..)) (Dev.touches_popRecord ..))

theorem touches_execHerdReadyOffset (s : State) : Result.Touches (.fab :: .work :: faultParts) (.tickFaultEngine :: .tickFaultCause :: .tickFaultCode :: .tickEvOverrun :: faultFlds) s (execHerdReadyOffset s) := by
  unfold execHerdReadyOffset
  extract_lets -merge +onlyGivenNames v0
  refine State.touches_act fun k d => ?_
  split
  · exact .none
  · refine .ite ?_ ?_
    · exact .some (.next (.refl _) (Dev.touches_overrun ..))
    · exact .none

theorem touches_execNvmeCompletion (status : BitVec 16) (s : State) : Result.Touches [.acc, .fab, .out, .regs, .sec, .snap, .updated, .work] [.snapEvFail, .snapFail] s (execNvmeCompletion status s) := by
  unfold execNvmeCompletion
  refine State.touches_now fun k d => ?_
  extract_lets -merge +onlyGivenNames v0
  split
  · exact .some (.next (.refl _) (Dev.touches_initStep ..))
  · refine .ite ?_ ?_
    · exact .some (.next (.next (.refl _) (Dev.touches_snapFailed ..)) (Dev.touches_nvmeGive ..))
    · refine .ite ?_ ?_
      · exact .none
      · exact .some (.next (.refl _) (Dev.touches_copyStep ..))
  · refine .ite ?_ ?_
    · exact .some (.next (.next (.refl _) (Dev.touches_modSnap ..)) (Dev.touches_nvmeGive ..))
    · exact .none

theorem touches_execSnapCutComplete (s : State) : Result.Touches (.fab :: .mem :: .sec :: .snap :: .work :: eventParts) (.snapEvDone :: eventFlds) s (execSnapCutComplete s) := by
  unfold execSnapCutComplete
  refine State.touches_now fun k d => ?_
  split
  · exact .none
  · refine .ite .none ?_
    extract_lets +onlyGivenNames img w1 w2 d5 d6
    have hd5 : d.Touches (.fab :: .mem :: .sec :: .snap :: .work :: eventParts) (.snapEvDone :: eventFlds) d5 :=
      .withMem (.refl d) rfl fun h => Mem.wf_setNvme h (Memory.writeN_wf _ _ _ (Mem.nvme_wf h))
    clear_value d5
    have hd6 : d.Touches (.fab :: .mem :: .sec :: .snap :: .work :: eventParts) (.snapEvDone :: eventFlds) d6 := .next hd5 (Dev.touches_modSnap ..)
    clear_value d6
    exact .some (.next (.next (.next hd6 (Dev.touches_flag ..)) (Dev.touches_hostEvent ..)) (Dev.touches_readsDone ..))

theorem touches_execNvmeLinkDown (s : State) : Result.Touches (.fab :: .free :: .sec :: .snap :: .work :: eventParts) [.snapEvFail, .snapFail] s (execNvmeLinkDown s) := by
  unfold execNvmeLinkDown
  refine State.touches_now fun k d => ?_
  refine .ite ?_ ?_
  · extract_lets -merge +onlyGivenNames d0
    have hd0 : d.Touches (.fab :: .free :: .sec :: .snap :: .work :: eventParts) [.snapEvFail, .snapFail] d0 := by
      unfold d0
      refine .ite ?_ ?_
      · exact .next (.refl _) (Dev.touches_snapFailed ..)
      · exact .refl _
    clear_value d0
    exact .some (.next (.next (hd0) (Dev.touches_modSnap ..)) (Dev.touches_aerError ..))
  · exact .none

theorem Dev.touches_setHbmBytes (d : Dev) (a : Nat) (bs : List Byte) :
    d.Touches [.mem] [] { d with mem := { d.mem with hbm := d.mem.hbm.writeN a bs } } :=
  .withMem (.refl d) rfl fun h => Mem.wf_setHbm h (Memory.writeN_wf _ _ _ (Mem.hbm_wf h)) _

theorem Dev.Touches.keptBank {ps : List Part} {fs : List Fld} {a d : Dev} (h : a.Touches ps fs d) (x base bound from_ len : Nat)
    (bs : List Byte) (cut : Bool) (hp : [.acc, .fab, .mem, .out, .sec, .work] ⊆ ps := by decide) :
    a.Touches ps fs (let e : Dev := { d with mem := { d.mem with hbm := d.mem.hbm.writeN x bs } }
      if cut then e.keepCutBank base bound from_ len else e) := by
  extract_lets +onlyGivenNames w e
  have he : a.Touches ps fs e :=
    h.next (Dev.touches_setHbmBytes ..) (fun p hm => hp (by simp at hm; simp [hm])) (List.nil_subset _)
  clear_value e
  exact .ite (he.next (Dev.touches_keepCutBank ..) hp (List.nil_subset _)) he

theorem touches_execMirrorSendEnd (s : State) : Result.Touches [.acc, .fab, .host, .mem, .out, .sec, .snap, .work] [] s (execMirrorSendEnd s) := by
  unfold execMirrorSendEnd
  refine State.touches_now fun k d => ?_
  split
  · refine .ite .none (.some ?_)
    refine .next ?_ (Dev.touches_count ..)
    generalize hx : Dev.modSnap _ _ = x
    have h : d.Touches [.acc, .fab, .host, .mem, .out, .sec, .snap, .work] [] x := by
      rw [← hx]
      refine .next ?_ (Dev.touches_modSnap ..)
      split
      · exact .next (.mono (Dev.touches_mirrorTraffic ..)) (Dev.touches_sendImage ..)
      · refine .keptBank ?_ ..
        exact .next (.mono (Dev.touches_mirrorTraffic ..)) (Dev.touches_sendImage ..)
    exact .ite (.next h (Dev.touches_readsDone ..)) h
  · exact .none

theorem touches_execMirrorData (p : Packet) (s : State) : Result.Touches [.acc, .fab, .mem, .out, .sec, .work] [] s (execMirrorData p s) := by
  unfold execMirrorData
  refine State.touches_now fun k d => ?_
  refine .ite ?_ ?_
  · extract_lets -merge +onlyGivenNames d0
    have hd0 : d.Touches [.acc, .fab, .mem, .out, .sec, .work] [] d0 := by
      exact .next (.refl _) (Dev.touches_takeTwin ..)
    clear_value d0
    split
    · extract_lets -merge +onlyGivenNames v4
      extract_lets -merge +onlyGivenNames v5
      refine .ite ?_ ?_
      · extract_lets -merge +onlyGivenNames d6
        have hd6 : d.Touches [.acc, .fab, .mem, .out, .sec, .work] [] d6 := by
          exact .next (hd0) (Dev.touches_touchW ..)
        clear_value d6
        refine .some ?_
        exact hd6.withMem rfl fun h => Mem.wf_setHbm h (Memory.writeN_wf _ _ _ (Mem.hbm_wf h)) _
      · exact .some (hd0)
  · exact .nextSome (.refl _) (Dev.touches_twinDrop ..)

theorem touches_execMirrorCommit (p : Packet) (s : State) : Result.Touches [.acc, .fab, .mem, .out, .sec, .snap, .work] [] s (execMirrorCommit p s) := by
  unfold execMirrorCommit
  refine State.touches_now fun k d => ?_
  refine .ite ?_ ?_
  · extract_lets -merge +onlyGivenNames d0
    have hd0 : d.Touches [.acc, .fab, .mem, .out, .sec, .snap, .work] [] d0 := by
      exact .next (.refl _) (Dev.touches_takeTwin ..)
    clear_value d0
    extract_lets -merge +onlyGivenNames v1
    split
    · extract_lets -merge +onlyGivenNames d5
      have hd5 : d.Touches [.acc, .fab, .mem, .out, .sec, .snap, .work] [] d5 := by
        exact .next (hd0) (Dev.touches_modSnap ..)
      clear_value d5
      refine .some ?_
      refine .ite ?_ ?_
      · exact .next (.next (hd5) (Dev.touches_keepCutBank ..)) (Dev.touches_modSnap ..)
      · exact hd5
  · exact .nextSome (.refl _) (Dev.touches_twinDrop ..)

theorem touches_execRestoreEnd (at_ : ℕ) (s : State) : Result.Touches (.duty :: .fab :: .gmem :: .image :: .mem :: .snap :: .tier :: .twin :: .work :: faultParts) (.jobAdmitCode :: .snapRstDone :: .snapRstCause :: eventFlds) s (execRestoreEnd at_ s) := by
  unfold execRestoreEnd
  extract_lets -merge +onlyGivenNames v0
  refine State.touches_act fun k d => ?_
  refine .ite ?_ ?_
  · exact .none
  · extract_lets -merge +onlyGivenNames v1
    extract_lets -merge +onlyGivenNames v2
    refine .some ?_
    split
    · refine .ite ?_ ?_
      · unfold v1
        exact .next (.next (.next (.next (.next (.refl _) (Dev.touches_wr ..)) (Dev.touches_wr ..)) (Dev.touches_wr ..)) (Dev.touches_dropObject ..)) (Dev.touches_hostEvent ..)
      · split
        · unfold v1
          exact .next (.next (.next (.next (.next (.refl _) (Dev.touches_wr ..)) (Dev.touches_wr ..)) (Dev.touches_wr ..)) (Dev.touches_dropObject ..)) (Dev.touches_hostEvent ..)
        · extract_lets -merge +onlyGivenNames v8
          extract_lets -merge +onlyGivenNames d9
          have hd9 : d.Touches (.duty :: .fab :: .gmem :: .image :: .mem :: .snap :: .tier :: .twin :: .work :: faultParts) (.jobAdmitCode :: .snapRstDone :: .snapRstCause :: eventFlds) d9 := by
            exact .next (.refl _) (Dev.touches_nvmeGive ..)
          clear_value d9
          extract_lets -merge +onlyGivenNames d10
          have hd10 : d.Touches (.duty :: .fab :: .gmem :: .image :: .mem :: .snap :: .tier :: .twin :: .work :: faultParts) (.jobAdmitCode :: .snapRstDone :: .snapRstCause :: eventFlds) d10 := by
            exact .next (hd9) (Dev.touches_hostRead ..)
          clear_value d10
          extract_lets -merge +onlyGivenNames d11
          have hd11 : d.Touches (.duty :: .fab :: .gmem :: .image :: .mem :: .snap :: .tier :: .twin :: .work :: faultParts) (.jobAdmitCode :: .snapRstDone :: .snapRstCause :: eventFlds) d11 := by
            refine .foldl ?_ fun e12 x13 _ => ?_
            · exact hd10
            · exact .next (.refl _) (Dev.touches_restoreObject ..)
          clear_value d11
          extract_lets -merge +onlyGivenNames v14
          extract_lets -merge +onlyGivenNames v15
          extract_lets -merge +onlyGivenNames d16
          have hd16 : d.Touches (.duty :: .fab :: .gmem :: .image :: .mem :: .snap :: .tier :: .twin :: .work :: faultParts) (.jobAdmitCode :: .snapRstDone :: .snapRstCause :: eventFlds) d16 := by
            exact .next (hd11) (Dev.touches_restoreState ..)
          clear_value d16
          extract_lets -merge +onlyGivenNames d17
          have hd17 : d.Touches (.duty :: .fab :: .gmem :: .image :: .mem :: .snap :: .tier :: .twin :: .work :: faultParts) (.jobAdmitCode :: .snapRstDone :: .snapRstCause :: eventFlds) d17 := by
            exact .next (hd16) (Dev.touches_modSnap ..)
          clear_value d17
          extract_lets -merge +onlyGivenNames d18
          have hd18 : d.Touches (.duty :: .fab :: .gmem :: .image :: .mem :: .snap :: .tier :: .twin :: .work :: faultParts) (.jobAdmitCode :: .snapRstDone :: .snapRstCause :: eventFlds) d18 := by
            exact .next (.next (.next (hd17) (Dev.touches_wr ..)) (Dev.touches_wr ..)) (Dev.touches_hostEvent ..)
          clear_value d18
          exact .next (.next (hd18) (Dev.touches_becomeAdmitted ..)) (Dev.touches_sendArm ..)
    · unfold v1
      exact .next (.next (.next (.next (.next (.refl _) (Dev.touches_wr ..)) (Dev.touches_wr ..)) (Dev.touches_wr ..)) (Dev.touches_dropObject ..)) (Dev.touches_hostEvent ..)
    · unfold v1
      exact .next (.next (.next (.next (.next (.refl _) (Dev.touches_wr ..)) (Dev.touches_wr ..)) (Dev.touches_wr ..)) (Dev.touches_dropObject ..)) (Dev.touches_hostEvent ..)

theorem touches_execLaunchCountReached (s : State) : Result.Touches (.cores :: .duty :: .fab :: .frame :: .gmem :: .herd :: .layerInv :: .mem :: .pail :: .snap :: .sync :: .tier :: .twin :: .work :: .xch :: faultParts) (.tickFaultEngine :: .tickFaultCause :: .tickFaultCode :: .tickEvLaunchMissed :: .tickDeclValid :: .snapEvNotPermitted :: .snapEvNotQuiet :: .snapEvCut :: .snapEvFail :: .snapFail :: faultFlds.append (devFaultFlds.append (gmemFaultFlds.append (lockFaultFlds.append herdFlds)))) s (execLaunchCountReached s) := by
  unfold execLaunchCountReached
  extract_lets -merge +onlyGivenNames v0
  extract_lets -merge +onlyGivenNames v1
  refine State.touches_act fun k d => ?_
  refine .ite ?_ ?_
  · exact .none
  · refine .ite ?_ ?_
    · exact .some (.next (.refl _) (Dev.touches_launchMissed ..))
    · refine .ite ?_ ?_
      · exact .some (.next (.refl _) (Dev.touches_launchMissed ..))
      · extract_lets -merge +onlyGivenNames v2
        extract_lets -merge +onlyGivenNames d3
        have hd3 : d.Touches (.cores :: .duty :: .fab :: .frame :: .gmem :: .herd :: .layerInv :: .mem :: .pail :: .snap :: .sync :: .tier :: .twin :: .work :: .xch :: faultParts) (.tickFaultEngine :: .tickFaultCause :: .tickFaultCode :: .tickEvLaunchMissed :: .tickDeclValid :: .snapEvNotPermitted :: .snapEvNotQuiet :: .snapEvCut :: .snapEvFail :: .snapFail :: faultFlds.append (devFaultFlds.append (gmemFaultFlds.append (lockFaultFlds.append herdFlds)))) d3 := by
          exact .next (.next (.next (.next (.refl _) (Dev.touches_registerKey ..)) (Dev.touches_dropCounts ..)) (Dev.touches_modJob ..)) (Dev.touches_wr ..)
        clear_value d3
        extract_lets -merge +onlyGivenNames v4 v5 d6
        have hd6 : d.Touches (.cores :: .duty :: .fab :: .frame :: .gmem :: .herd :: .layerInv :: .mem :: .pail :: .snap :: .sync :: .tier :: .twin :: .work :: .xch :: faultParts) (.tickFaultEngine :: .tickFaultCause :: .tickFaultCode :: .tickEvLaunchMissed :: .tickDeclValid :: .snapEvNotPermitted :: .snapEvNotQuiet :: .snapEvCut :: .snapEvFail :: .snapFail :: faultFlds.append (devFaultFlds.append (gmemFaultFlds.append (lockFaultFlds.append herdFlds)))) d6 := by
          exact .set (hd3) rfl
        clear_value d6
        exact .some (.next (.next (.next (hd6) (Dev.touches_setPhase ..)) (Dev.touches_openFrame ..)) (Dev.touches_pumpAll ..))

theorem touches_execFrameOpen (s : State) : Result.Touches (.cores :: .fab :: .frame :: .gmem :: .herd :: .layerInv :: .mem :: .pail :: .snap :: .tier :: .twin :: .work :: .xch :: faultParts) (.tickFaultEngine :: .tickFaultCause :: .tickFaultCode :: .tickEvOverrun :: .snapEvNotPermitted :: .snapEvNotQuiet :: .snapEvCut :: .snapEvFail :: .snapFail :: faultFlds.append (devFaultFlds.append (gmemFaultFlds.append (lockFaultFlds.append herdFlds)))) s (execFrameOpen s) := by
  unfold execFrameOpen
  extract_lets +onlyGivenNames d0 due
  refine State.touches_act fun k d => ?_
  refine .ite ?_ ?_
  · exact .none
  · refine .ite ?_ ?_
    · exact .some (.next (.refl _) (Dev.touches_overrun ..))
    · refine .ite ?_ ?_
      · exact .some (.next (.refl _) (Dev.touches_overrun ..))
      · refine .ite ?_ ?_
        · exact .some (.next (.refl _) (Dev.touches_overrun ..))
        · exact .some (.next (.refl _) (Dev.touches_openFrame ..))

theorem touches_execRunStart (s : State) : Result.Touches [.acc, .cores, .fab, .frame, .out, .sec, .work] [] s (execRunStart s) := by
  unfold execRunStart
  extract_lets -merge +onlyGivenNames v0
  refine State.touches_act fun k d => ?_
  refine .ite ?_ ?_
  · exact .some (.next (.next (.refl _) (Dev.touches_modFrame ..)) (Dev.touches_issueFrom ..))
  · exact .none

theorem touches_execGuardStart (s : State) : Result.Touches [.acc, .fab, .frame, .out, .sec, .work] [] s (execGuardStart s) := by
  unfold execGuardStart
  extract_lets -merge +onlyGivenNames v0
  refine State.touches_act fun k d => ?_
  refine .ite ?_ ?_
  · exact .some (.next (.refl _) (Dev.touches_modFrame ..))
  · exact .none

theorem touches_execThrottleStep (s : State) : Result.Touches (.fab :: .frame :: .pwr :: .sec :: .work :: eventParts) [.tickEvBudget] s (execThrottleStep s) := by
  unfold execThrottleStep
  refine State.touches_now fun k d => ?_
  extract_lets -merge +onlyGivenNames v0
  refine .ite ?_ ?_
  · exact .none
  · refine .ite ?_ ?_
    · exact .some (.next (.next (.refl _) (Dev.touches_count ..)) (Dev.touches_modFrame ..))
    · exact .some (.next (.next (.refl _) (Dev.touches_budgetSpent ..)) (Dev.touches_modFrame ..))

theorem touches_execThrottleStepEnd (s : State) : Result.Touches [.acc, .cores, .fab, .frame, .out, .sec, .work] [] s (execThrottleStepEnd s) := by
  unfold execThrottleStepEnd
  refine State.touches_act fun k d => ?_
  split
  · exact .none
  · exact .some (.next (.next (.refl _) (Dev.touches_modFrame ..)) (Dev.touches_issueFrom ..))

theorem touches_execFrameClose (s : State) : Result.Touches (.coll :: .duty :: .fab :: .frame :: .gmem :: .herd :: .mem :: .pail :: .pwr :: .snap :: .tier :: .twin :: .work :: faultParts) allFlds s (execFrameClose s) := by
  unfold execFrameClose
  extract_lets -merge +onlyGivenNames v0
  extract_lets -merge +onlyGivenNames v1
  refine State.touches_act fun k d => ?_
  refine .ite ?_ ?_
  · extract_lets -merge +onlyGivenNames v2
    extract_lets -merge +onlyGivenNames d3
    have hd3 : d.Touches (.coll :: .duty :: .fab :: .frame :: .gmem :: .herd :: .mem :: .pail :: .pwr :: .snap :: .tier :: .twin :: .work :: faultParts) allFlds d3 := by
      exact .nextAny (.nextAny (.refl _) (Dev.touches_latchFrame ..)) (Dev.touches_modFrame ..)
    clear_value d3
    exact .some (.nextAny (.nextAny (.nextAny (.nextAny (hd3) (Dev.touches_lsStep ..)) (Dev.touches_lsClose ..)) (Dev.touches_mirrorClose ..)) (Dev.touches_drainIfStopped ..))
  · exact .none

theorem touches_execDrainEnd (s : State) : Result.Touches (.duty :: .fab :: .gmem :: .mem :: .snap :: .work :: faultParts) (.snapEvNotPermitted :: .snapEvNotQuiet :: .snapEvCut :: .snapEvFail :: .snapFail :: faultFlds.append (devFaultFlds.append gmemFaultFlds)) s (execDrainEnd s) := by
  unfold execDrainEnd
  refine State.touches_now fun k d => ?_
  refine .ite ?_ ?_
  · extract_lets -merge +onlyGivenNames v0
    extract_lets -merge +onlyGivenNames d1
    have hd1 : d.Touches (.duty :: .fab :: .gmem :: .mem :: .snap :: .work :: faultParts) (.snapEvNotPermitted :: .snapEvNotQuiet :: .snapEvCut :: .snapEvFail :: .snapFail :: faultFlds.append (devFaultFlds.append gmemFaultFlds)) d1 := by
      unfold d1
      refine .ite ?_ ?_
      · exact .refl _
      · exact .next (.refl _) (Dev.touches_takeCut ..)
    clear_value d1
    refine .some ?_
    refine .ite ?_ ?_
    · exact hd1
    · exact .next (hd1) (Dev.touches_modJob ..)
  · exact .none

theorem touches_execTeardownComplete (at_ : ℕ) (s : State) : Result.Touches (.churn :: .coll :: .cores :: .duty :: .fab :: .frame :: .gmem :: .herd :: .layerInv :: .mem :: .pail :: .sep :: .snap :: .tier :: .twin :: .work :: .xch :: faultParts) (.jobStateEnd :: eventFlds) s (execTeardownComplete at_ s) := by
  unfold execTeardownComplete
  refine State.touches_act fun k d => ?_
  split
  · exact .none
  · extract_lets -merge +onlyGivenNames v2
    extract_lets -merge +onlyGivenNames d3
    have hd3 : d.Touches (.churn :: .coll :: .cores :: .duty :: .fab :: .frame :: .gmem :: .herd :: .layerInv :: .mem :: .pail :: .sep :: .snap :: .tier :: .twin :: .work :: .xch :: faultParts) (.jobStateEnd :: eventFlds) d3 := by
      exact .next (.next (.refl _) (Dev.touches_teardown ..)) (Dev.touches_wr ..)
    clear_value d3
    extract_lets -merge +onlyGivenNames v4 v5 d6
    have hd6 : d.Touches (.churn :: .coll :: .cores :: .duty :: .fab :: .frame :: .gmem :: .herd :: .layerInv :: .mem :: .pail :: .sep :: .snap :: .tier :: .twin :: .work :: .xch :: faultParts) (.jobStateEnd :: eventFlds) d6 := by
      exact .set (hd3) rfl
    clear_value d6
    exact .some (.next (.next (hd6) (Dev.touches_modJob ..)) (Dev.touches_setPhase ..))

theorem touches_execAdmissionEnd (at_ : ℕ) (s : State) : Result.Touches (.duty :: .fab :: .free :: .gmem :: .image :: .snap :: .tier :: .work :: faultParts) (.tickAdmitValid :: .tickAdmitEngine :: .tickAdmitSlot :: .jobAdmitValid :: .jobAdmitFwplaced :: .jobAdmitLevel :: .jobAdmitDetail :: .jobAdmitCode :: eventFlds) s (execAdmissionEnd at_ s) := by
  unfold execAdmissionEnd
  extract_lets -merge +onlyGivenNames v0
  refine State.touches_act fun k d => ?_
  refine .ite ?_ ?_
  · exact .none
  · split
    next x1 d2 heq =>
      have hd2 : d.Touches (.duty :: .fab :: .free :: .gmem :: .image :: .snap :: .tier :: .work :: faultParts) (.tickAdmitValid :: .tickAdmitEngine :: .tickAdmitSlot :: .jobAdmitValid :: .jobAdmitFwplaced :: .jobAdmitLevel :: .jobAdmitDetail :: .jobAdmitCode :: eventFlds) d2 := by
        refine .of_snd ?_ heq
        exact .next (.refl _) (Dev.touches_loadedRange ..)
      split
      next x3 d4 heq =>
        have hd4 : d.Touches (.duty :: .fab :: .free :: .gmem :: .image :: .snap :: .tier :: .work :: faultParts) (.tickAdmitValid :: .tickAdmitEngine :: .tickAdmitSlot :: .jobAdmitValid :: .jobAdmitFwplaced :: .jobAdmitLevel :: .jobAdmitDetail :: .jobAdmitCode :: eventFlds) d4 := by
          refine .of_snd ?_ heq
          exact .next (hd2) (Dev.touches_draw ..)
        extract_lets -merge +onlyGivenNames d5
        have hd5 : d.Touches (.duty :: .fab :: .free :: .gmem :: .image :: .snap :: .tier :: .work :: faultParts) (.tickAdmitValid :: .tickAdmitEngine :: .tickAdmitSlot :: .jobAdmitValid :: .jobAdmitFwplaced :: .jobAdmitLevel :: .jobAdmitDetail :: .jobAdmitCode :: eventFlds) d5 := by
          exact .next (hd4) (Dev.touches_modJob ..)
        clear_value d5
        extract_lets -merge +onlyGivenNames v6
        extract_lets -merge +onlyGivenNames v7
        extract_lets -merge +onlyGivenNames v8
        refine .some ?_
        split
        · extract_lets -merge +onlyGivenNames d10
          have hd10 : d.Touches (.duty :: .fab :: .free :: .gmem :: .image :: .snap :: .tier :: .work :: faultParts) (.tickAdmitValid :: .tickAdmitEngine :: .tickAdmitSlot :: .jobAdmitValid :: .jobAdmitFwplaced :: .jobAdmitLevel :: .jobAdmitDetail :: .jobAdmitCode :: eventFlds) d10 := by
            unfold d10
            split
            · exact .next (.next (.next (hd5) (Dev.touches_wr ..)) (Dev.touches_wr ..)) (Dev.touches_flag ..)
            · exact hd5
          clear_value d10
          exact .next (.next (hd10) (Dev.touches_admitResult ..)) (Dev.touches_dropObject ..)
        · extract_lets -merge +onlyGivenNames d15
          have hd15 : d.Touches (.duty :: .fab :: .free :: .gmem :: .image :: .snap :: .tier :: .work :: faultParts) (.tickAdmitValid :: .tickAdmitEngine :: .tickAdmitSlot :: .jobAdmitValid :: .jobAdmitFwplaced :: .jobAdmitLevel :: .jobAdmitDetail :: .jobAdmitCode :: eventFlds) d15 := by
            exact .next (.next (hd5) (Dev.touches_admitResult ..)) (Dev.touches_holdImage ..)
          clear_value d15
          refine .ite ?_ ?_
          · exact .next (.next (hd15) (Dev.touches_becomeAdmitted ..)) (Dev.touches_sendArm ..)
          · exact .next (hd15) (Dev.touches_modSnap ..)

theorem touches_execReleaseZeroingEnd (at_ : ℕ) (s : State) : Result.Touches (.cores :: .duty :: .fab :: .gmem :: .image :: .mem :: .snap :: .tier :: .work :: faultParts) eventFlds s (execReleaseZeroingEnd at_ s) := by
  unfold execReleaseZeroingEnd
  refine State.touches_act fun k d => .ite ?_ .none
  extract_lets +onlyGivenNames rs inside w e
  have he : d.Touches (.cores :: .duty :: .fab :: .gmem :: .image :: .mem :: .snap :: .tier :: .work :: faultParts) eventFlds e :=
    .withMem (.refl d) rfl fun h => Mem.wf_setHbm h (Sparse.wf_filter _ _ _ (Mem.hbm_wf h)) _
  clear_value e
  exact .some (.next (.next he (Dev.touches_modJob ..)) (Dev.touches_dropObject ..))

theorem touches_execPwrgoodFall (s : State) : Result.Touches [.acc, .fab, .host, .out, .sec, .start, .work] [] s (execPwrgoodFall s) := by
  unfold execPwrgoodFall
  refine State.touches_board fun k d => ?_
  exact .some (.next (.refl _) (Dev.touches_powerLost ..))

theorem touches_execResetAssert (s : State) : Result.Touches [.acc, .fab, .host, .out, .sec, .start, .work] [] s (execResetAssert s) := by
  unfold execResetAssert
  refine State.touches_board fun k d => ?_
  exact .some (.next (.next (.next (.refl _) (Dev.touches_turnOff ..)) (Dev.touches_modStart ..)) (Dev.touches_modIf ..))

theorem touches_execRefclkStart (s : State) : Result.Touches [.acc, .fab, .out, .sec, .start, .work] [] s (execRefclkStart s) := by
  unfold execRefclkStart
  refine State.touches_board fun k d => ?_
  exact .some (.next (.refl _) (Dev.touches_modStart ..))

theorem touches_execRailSample (inRange : BitVec 5) (low : BitVec 5) (s : State) : Result.Touches (.fab :: .pwr :: .sec :: .start :: .work :: eventParts) [.pwrRailSeen, .pwrEvRail] s (execRailSample inRange low s) := by
  unfold execRailSample
  refine State.touches_board fun k d => ?_
  refine .ite ?_ ?_
  · exact .none
  · extract_lets -merge +onlyGivenNames d0
    have hd0 : d.Touches (.fab :: .pwr :: .sec :: .start :: .work :: eventParts) [.pwrRailSeen, .pwrEvRail] d0 := by
      exact .next (.refl _) (Dev.touches_modStart ..)
    clear_value d0
    extract_lets -merge +onlyGivenNames d1
    have hd1 : d.Touches (.fab :: .pwr :: .sec :: .start :: .work :: eventParts) [.pwrRailSeen, .pwrEvRail] d1 := by
      unfold d1
      refine .ite ?_ ?_
      · exact hd0
      · exact .next (.next (.next (hd0) (Dev.touches_flag ..)) (Dev.touches_wr ..)) (Dev.touches_noteUpdate ..)
    clear_value d1
    extract_lets -merge +onlyGivenNames v2
    extract_lets -merge +onlyGivenNames d3
    have hd3 : d.Touches (.fab :: .pwr :: .sec :: .start :: .work :: eventParts) [.pwrRailSeen, .pwrEvRail] d3 := by
      exact .next (hd1) (Dev.touches_modPwr ..)
    clear_value d3
    refine .some ?_
    refine .ite ?_ ?_
    · exact .next (hd3) (Dev.touches_powerLost ..)
    · exact hd3

theorem touches_execResetRelease (held : BitVec 48) (s : State) : Result.Touches (.churn :: .coll :: .cores :: .duty :: .fab :: .frame :: .free :: .gmem :: .herd :: .image :: .layerInv :: .mem :: .pail :: .pwr :: .sep :: .snap :: .start :: .sync :: .tier :: .twin :: .work :: .xch :: faultParts) allFlds s (execResetRelease held s) := by
  unfold execResetRelease
  extract_lets -merge +onlyGivenNames v0
  refine State.touches_board fun k d => ?_
  refine .ite ?_ ?_
  · extract_lets -merge +onlyGivenNames v1
    exact .some (.nextAny (.nextAny (.nextAny (.nextAny (.refl _) (Dev.touches_breakFlash ..)) (Dev.touches_zeroLent ..)) (Dev.touches_restart ..)) (Dev.touches_setStart ..))
  · exact .none

theorem touches_execStartStepEnd (step : Fin 10) (ok : Bool) (ms : ℕ) (s : State) : Result.Touches (.fab :: .mem :: .sec :: .start :: .work :: eventParts) eventFlds s (execStartStepEnd step ok ms s) := by
  unfold execStartStepEnd
  extract_lets -merge +onlyGivenNames v0
  refine State.touches_act fun k d => ?_
  refine .ite ?_ ?_
  · exact .nextSome (.refl _) (Dev.touches_endStep ..)
  · exact .none

theorem touches_execQuoteRequest (p : Packet) (s : State) : Result.Touches [.acc, .fab, .out, .sec, .work] [] s (execQuoteRequest p s) := by
  unfold execQuoteRequest
  refine State.touches_now fun k d => ?_
  refine .ite ?_ ?_
  · exact .none
  · refine .ite ?_ ?_
    · exact .some (.next (.refl _) (Dev.touches_macDrop ..))
    · refine .ite ?_ ?_
      · exact .some (.next (.refl _) (Dev.touches_agentDrop ..))
      · extract_lets -merge +onlyGivenNames v0
        refine .some ?_
        refine .ite ?_ ?_
        · exact .next (.refl _) (Dev.touches_modSec ..)
        · refine .ite ?_ ?_
          · exact .next (.refl _) (Dev.touches_modSec ..)
          · exact .next (.refl _) (Dev.touches_agentDrop ..)

theorem touches_execQuoteDone (s : State) : Result.Touches [.acc, .fab, .free, .out, .sec, .work] [] s (execQuoteDone s) := by
  unfold execQuoteDone
  refine State.touches_now fun k d => ?_
  split
  · exact .none
  · split
    next x2 d3 heq =>
      have hd3 : d.Touches [.acc, .fab, .free, .out, .sec, .work] [] d3 := by
        refine .of_snd ?_ heq
        exact .next (.refl _) (Dev.touches_signQuote ..)
      extract_lets -merge +onlyGivenNames d4
      have hd4 : d.Touches [.acc, .fab, .free, .out, .sec, .work] [] d4 := by
        unfold d4
        refine .ite ?_ ?_
        · exact .next (hd3) (Dev.touches_modSec ..)
        · exact .next (hd3) (Dev.touches_agentSend ..)
      clear_value d4
      exact .some (.next (hd4) (Dev.touches_modSec ..))

theorem touches_execJoinHello (s : State) : Result.Touches [.acc, .fab, .free, .out, .sec, .work] [] s (execJoinHello s) := by
  unfold execJoinHello
  refine State.touches_act fun k d => ?_
  refine .ite ?_ ?_
  · extract_lets -merge +onlyGivenNames d0
    have hd0 : d.Touches [.acc, .fab, .free, .out, .sec, .work] [] d0 := by
      unfold d0
      refine .ite ?_ ?_
      · exact .next (.refl _) (Dev.touches_makeHello ..)
      · exact .refl _
    clear_value d0
    exact .some (.next (.next (hd0) (Dev.touches_agentSend ..)) (Dev.touches_modSec ..))
  · exact .none

theorem touches_execRekey (p : Packet) (s : State) : Result.Touches [.acc, .fab, .free, .out, .sec, .work] [] s (execRekey p s) := by
  unfold execRekey
  refine State.touches_now fun k d => ?_
  extract_lets -merge +onlyGivenNames v0
  extract_lets -merge +onlyGivenNames v1
  refine .ite ?_ ?_
  · exact .none
  · refine .ite ?_ ?_
    · exact .some (.next (.refl _) (Dev.touches_macDrop ..))
    · refine .ite ?_ ?_
      · exact .some (.next (.refl _) (Dev.touches_agentDrop ..))
      · split
        next x2 d3 heq =>
          have hd3 : d.Touches [.acc, .fab, .free, .out, .sec, .work] [] d3 := by
            refine .of_snd ?_ heq
            exact .next (.refl _) (Dev.touches_drawScalar ..)
          split
          next x4 d5 heq =>
            have hd5 : d.Touches [.acc, .fab, .free, .out, .sec, .work] [] d5 := by
              refine .of_snd ?_ heq
              exact .next (hd3) (Dev.touches_draw ..)
            extract_lets -merge +onlyGivenNames v6
            extract_lets -merge +onlyGivenNames d7
            have hd7 : d.Touches [.acc, .fab, .free, .out, .sec, .work] [] d7 := by
              exact .next (hd5) (Dev.touches_agentSend ..)
            clear_value d7
            exact .some (.next (hd7) (Dev.touches_modSec ..))

theorem touches_execOldKeyExpire (s : State) : Result.Touches [.acc, .fab, .out, .sec, .work] [] s (execOldKeyExpire s) := by
  unfold execOldKeyExpire
  refine State.touches_act fun k d => ?_
  split
  · exact .none
  · exact .some (.next (.refl _) (Dev.touches_modSec ..))

theorem touches_execReportAck (p : Packet) (s : State) : Result.Touches [.acc, .fab, .out, .sec, .work] [] s (execReportAck p s) := by
  unfold execReportAck
  refine State.touches_now fun k d => ?_
  extract_lets -merge +onlyGivenNames v0
  refine .ite ?_ ?_
  · exact .none
  · refine .ite ?_ ?_
    · exact .some (.next (.refl _) (Dev.touches_macDrop ..))
    · extract_lets -merge +onlyGivenNames v1
      refine .some ?_
      refine .ite ?_ ?_
      · exact .next (.refl _) (Dev.touches_modSec ..)
      · exact .next (.refl _) (Dev.touches_agentDrop ..)

theorem touches_execReportRepeat (order : BitVec 24) (s : State) : Result.Touches [.acc, .fab, .out, .sec, .work] [] s (execReportRepeat order s) := by
  unfold execReportRepeat
  extract_lets -merge +onlyGivenNames v0
  refine State.touches_act fun k d => ?_
  refine .map fun _ => ?_
  extract_lets -merge +onlyGivenNames v1
  extract_lets -merge +onlyGivenNames v2
  extract_lets -merge +onlyGivenNames d3
  have hd3 : d.Touches [.acc, .fab, .out, .sec, .work] [] d3 := by
    exact .set (.refl _) rfl
  clear_value d3
  split
  next d4 x5 heq =>
    have hd4 : d.Touches [.acc, .fab, .out, .sec, .work] [] d4 := by
      refine .of_fst ?_ heq
      exact .next (hd3) (Dev.touches_sendReport ..)
    exact .next (hd4) (Dev.touches_modSec ..)

theorem touches_execSecurityCheck (sramOk : Bool) (keyOk : Bool) (s : State) : Result.Touches (.fab :: .start :: .work :: faultParts) (.secFaultCause :: .secFaultCode :: faultFlds) s (execSecurityCheck sramOk keyOk s) := by
  unfold execSecurityCheck
  extract_lets -merge +onlyGivenNames v0
  refine State.touches_act fun k d => ?_
  refine .ite ?_ ?_
  · exact .none
  · refine .ite ?_ ?_
    · exact .some (.refl _)
    · refine .ite ?_ ?_
      · exact .some (.next (.refl _) (Dev.touches_violate ..))
      · refine .ite ?_ ?_
        · exact .some (.next (.refl _) (Dev.touches_violate ..))
        · exact .some (.refl _)

theorem touches_execMmLoad (c : Fin 48) (psel : BitVec 4) (tda : BitVec 6) (o : Offs) (z : Size) (s : State) : Result.Touches (.cores :: .fab :: .work :: faultParts) (coreFaultFlds.append faultFlds) s (execMmLoad c psel tda o z s) := by
  unfold execMmLoad
  exact .mono (State.touches_issueEng ..)

theorem touches_execMmRun (c : Fin 48) (psel : BitVec 4) (tda : BitVec 6) (o : Offs) (z : Size) (accset : BitVec 2) (acc : Bool) (skim : BitVec 2) (skimAt : BitVec 4) (st : BitVec 5) (s : State) : Result.Touches (.cores :: .fab :: .work :: faultParts) (coreFaultFlds.append faultFlds) s (execMmRun c psel tda o z accset acc skim skimAt st s) := by
  unfold execMmRun
  exact .mono (State.touches_issueEng ..)

theorem touches_execMmStore (c : Fin 48) (psel : BitVec 4) (tdd : BitVec 6) (o : Offs) (z : Size) (rnd : BitVec 2) (accset : BitVec 2) (s : State) : Result.Touches (.cores :: .fab :: .work :: faultParts) (coreFaultFlds.append faultFlds) s (execMmStore c psel tdd o z rnd accset s) := by
  unfold execMmStore
  exact .mono (State.touches_issueEng ..)

theorem touches_execMmPair (c : Fin 48) (psel : BitVec 4) (tda : BitVec 6) (tdb : BitVec 6) (z : Size) (accset : BitVec 2) (acc : Bool) (s : State) : Result.Touches (.cores :: .fab :: .work :: faultParts) (coreFaultFlds.append faultFlds) s (execMmPair c psel tda tdb z accset acc s) := by
  unfold execMmPair
  exact .mono (State.touches_issueEng ..)

theorem touches_execArrayFillDone (c : Fin 48) (s : State) : Result.Touches [.acc, .cores, .fab, .out, .sec, .work] [] s (execArrayFillDone c s) := by
  unfold execArrayFillDone
  refine State.touches_act fun k d => ?_
  extract_lets -merge +onlyGivenNames v0
  split
  · exact .none
  · extract_lets -merge +onlyGivenNames v3
    extract_lets -merge +onlyGivenNames d4
    have hd4 : d.Touches [.acc, .cores, .fab, .out, .sec, .work] [] d4 := by
      exact .next (.refl _) (Dev.touches_count ..)
    clear_value d4
    split
    · refine .ite ?_ ?_
      · extract_lets -merge +onlyGivenNames d6
        have hd6 : d.Touches [.acc, .cores, .fab, .out, .sec, .work] [] d6 := by
          exact .next (hd4) (Dev.touches_setCore ..)
        clear_value d6
        refine .some ?_
        refine .ite ?_ ?_
        · exact .next (hd6) (Dev.touches_count ..)
        · exact hd6
      · exact .some (.next (hd4) (Dev.touches_setCore ..))
    · exact .some (.next (hd4) (Dev.touches_setCore ..))

theorem touches_execSmbStartWord (word : BitVec 32) (pecOk : Bool) (s : State) : Result.Touches [.acc, .fab, .host, .out, .sec, .start, .work] [] s (execSmbStartWord word pecOk s) := by
  unfold execSmbStartWord
  refine State.touches_smb fun d => ?_
  refine .ite ?_ ?_
  · exact .next (.refl _) (Dev.touches_modStart ..)
  · exact .next (.refl _) (Dev.touches_smbEvent ..)

theorem touches_execSmbStatus (req : SmbTransaction) (s : State) : Result.Touches [.acc, .fab, .out, .sec, .work] [] s (execSmbStatus req s) := by
  unfold execSmbStatus
  refine State.touches_smb fun d => ?_
  refine .ite ?_ ?_
  · refine .ite ?_ ?_
    · exact .refl _
    · exact .next (.refl _) (Dev.touches_smbAnswer ..)
  · exact .next (.refl _) (Dev.touches_smbAnswer ..)

theorem touches_execSmbTemperature (pecOk : Bool) (s : State) : Result.Touches [.acc, .fab, .out, .sec, .work] [] s (execSmbTemperature pecOk s) := by
  unfold execSmbTemperature
  refine State.touches_smb fun d => ?_
  exact .next (.refl _) (Dev.touches_smbAnswer ..)

theorem touches_execSmbPower (pecOk : Bool) (s : State) : Result.Touches [.acc, .fab, .out, .sec, .work] [] s (execSmbPower pecOk s) := by
  unfold execSmbPower
  refine State.touches_smb fun d => ?_
  exact .next (.refl _) (Dev.touches_smbAnswer ..)

theorem touches_execSmbEvents (pecOk : Bool) (s : State) : Result.Touches [.acc, .fab, .host, .out, .sec, .work] [] s (execSmbEvents pecOk s) := by
  unfold execSmbEvents
  refine State.touches_smb fun d => ?_
  exact .next (.next (.refl _) (Dev.touches_smbAnswer ..)) (Dev.touches_modIf ..)

theorem touches_execSmbInventory (pecOk : Bool) (s : State) : Result.Touches [.acc, .fab, .out, .sec, .work] [] s (execSmbInventory pecOk s) := by
  unfold execSmbInventory
  refine State.touches_smb fun d => ?_
  exact .next (.refl _) (Dev.touches_smbAnswer ..)

theorem touches_execSmbAlertResponse (pecOk : Bool) (s : State) : Result.Touches [.acc, .fab, .out, .sec, .work] [] s (execSmbAlertResponse pecOk s) := by
  unfold execSmbAlertResponse
  refine State.touches_smb fun d => ?_
  refine .ite ?_ ?_
  · exact .next (.refl _) (Dev.touches_smbAnswer ..)
  · exact .refl _

theorem touches_execBypass (s : State) (code : BitVec 8) : Result.Touches [.acc, .fab, .host, .out, .sec, .work] [] s (execBypass s code) := by
  unfold execBypass
  refine State.touches_board fun k d => ?_
  refine .ite ?_ ?_
  · exact .some (.next (.refl _) (Dev.touches_tapBypass ..))
  · exact .none

theorem touches_execIdcode (s : State) : Result.Touches [.acc, .fab, .host, .out, .sec, .work] [] s (execIdcode s) := by
  unfold execIdcode
  refine State.touches_board fun k d => ?_
  exact .some (.next (.next (.refl _) (Dev.touches_selectTap ..)) (Dev.touches_tapOut ..))

theorem touches_execSamplePreload (preload : BitVec 15) (s : State) : Result.Touches [.acc, .fab, .free, .host, .out, .sec, .work] [] s (execSamplePreload preload s) := by
  unfold execSamplePreload
  refine State.touches_board fun k d => ?_
  exact .some (.next (.next (.refl _) (Dev.touches_selectTap ..)) (Dev.touches_scanLands ..))

theorem touches_execExtest (s : State) (shift : BitVec 15) : Result.Touches [.acc, .fab, .free, .host, .out, .sec, .work] [] s (execExtest s shift) := by
  unfold execExtest
  refine State.touches_board fun k d => ?_
  refine .some ?_
  refine .ite ?_ ?_
  · exact .next (.next (.refl _) (Dev.touches_selectTap ..)) (Dev.touches_scanLands ..)
  · exact .next (.refl _) (Dev.touches_tapBypass ..)

theorem touches_execClamp (s : State) : Result.Touches [.acc, .fab, .host, .out, .sec, .work] [] s (execClamp s) := by
  unfold execClamp
  refine State.touches_board fun k d => ?_
  refine .some ?_
  refine .ite ?_ ?_
  · exact .next (.next (.refl _) (Dev.touches_selectTap ..)) (Dev.touches_tapOut ..)
  · exact .next (.refl _) (Dev.touches_tapBypass ..)

theorem touches_execHighz (s : State) : Result.Touches [.acc, .fab, .host, .out, .sec, .work] [] s (execHighz s) := by
  unfold execHighz
  refine State.touches_board fun k d => ?_
  refine .some ?_
  refine .ite ?_ ?_
  · exact .next (.next (.refl _) (Dev.touches_selectTap ..)) (Dev.touches_tapOut ..)
  · exact .next (.refl _) (Dev.touches_tapBypass ..)

theorem touches_execTestLogicReset (s : State) : Result.Touches [.acc, .fab, .host, .out, .sec, .work] [] s (execTestLogicReset s) := by
  unfold execTestLogicReset
  refine State.touches_board fun k d => ?_
  exact .some (.next (.refl _) (Dev.touches_selectTap ..))

theorem touches_execFlashCommandDone (at_ : ℕ) (ok : Bool) (s : State) : Result.Touches (.fab :: .free :: .mem :: .sec :: .work :: eventParts) allFlds s (execFlashCommandDone at_ ok s) := by
  unfold execFlashCommandDone
  refine State.touches_act fun k d => ?_
  split
  · exact .none
  · extract_lets -merge +onlyGivenNames d2
    have hd2 : d.Touches (.fab :: .free :: .mem :: .sec :: .work :: eventParts) allFlds d2 := by
      exact .nextAny (.refl _) (Dev.touches_modIf ..)
    clear_value d2
    refine .some ?_
    split
    · exact .nextAny (.nextAny (hd2) (Dev.touches_flashErase ..)) (Dev.touches_flashResult ..)
    · extract_lets -merge +onlyGivenNames v5
      split
      next x6 d7 heq =>
        have hd7 : d.Touches (.fab :: .free :: .mem :: .sec :: .work :: eventParts) allFlds d7 := by
          refine .of_snd ?_ heq
          split
          · exact .snd (hd2)
          · exact .nextAny (hd2) (Dev.touches_freeBytes ..)
        exact .nextAny (.nextAny (hd7) (Dev.touches_flashWrite ..)) (Dev.touches_flashResult ..)
    · extract_lets -merge +onlyGivenNames v9
      refine .nextAny ?_ (Dev.touches_flashResult ..)
      refine .foldl ?_ fun e10 x11 _ => ?_
      · exact hd2
      · exact .nextAny (.nextAny (.refl _) (Dev.touches_wr_any ..)) (Dev.touches_noteUpdate ..)

theorem touches_execEndpointReset (kind : EndReset) (s : State) : Result.Touches (.fab :: .gmem :: .tier :: .work :: faultParts) (faultFlds.append gmemFaultFlds) s (execEndpointReset kind s) := by
  unfold execEndpointReset
  refine State.touches_board fun k d => ?_
  extract_lets -merge +onlyGivenNames d0
  have hd0 : d.Touches (.fab :: .gmem :: .tier :: .work :: faultParts) (faultFlds.append gmemFaultFlds) d0 := by
    exact .next (.refl _) (Dev.touches_modIf ..)
  clear_value d0
  extract_lets -merge +onlyGivenNames v1
  extract_lets -merge +onlyGivenNames d2
  have hd2 : d.Touches (.fab :: .gmem :: .tier :: .work :: faultParts) (faultFlds.append gmemFaultFlds) d2 := by
    exact .next (hd0) (Dev.touches_hostLost ..)
  clear_value d2
  refine .some ?_
  split
  · exact hd2
  · unfold v1
    exact .next (hd2) (Dev.touches_modIf ..)
  · unfold v1
    exact .next (hd2) (Dev.touches_modIf ..)
  · refine .next ?_ (Dev.touches_modIf ..)
    unfold v1
    exact .next (hd2) (Dev.touches_modIf ..)

theorem touches_execPerstDeassert (s : State) : Result.Touches [.acc, .fab, .host, .out, .sec, .work] [] s (execPerstDeassert s) := by
  unfold execPerstDeassert
  refine State.touches_board fun k d => ?_
  extract_lets -merge +onlyGivenNames d0
  have hd0 : d.Touches [.acc, .fab, .host, .out, .sec, .work] [] d0 := by
    exact .next (.refl _) (Dev.touches_modIf ..)
  clear_value d0
  refine .some ?_
  refine .ite ?_ ?_
  · exact .next (hd0) (Dev.touches_endpointWaits ..)
  · exact hd0

theorem touches_execConfigRequest (write : Bool) (reg : BitVec 12) (value : BitVec 32) (s : State) : Result.Touches (.fab :: .free :: .gmem :: .tier :: .work :: faultParts) (faultFlds.append gmemFaultFlds) s (execConfigRequest write reg value s) := by
  unfold execConfigRequest
  refine State.touches_now fun k d => ?_
  refine .ite ?_ ?_
  · exact .none
  · extract_lets -merge +onlyGivenNames d0
    have hd0 : d.Touches (.fab :: .free :: .gmem :: .tier :: .work :: faultParts) (faultFlds.append gmemFaultFlds) d0 := by
      exact .next (.refl _) (Dev.touches_linkTrained ..)
    clear_value d0
    extract_lets -merge +onlyGivenNames v1
    extract_lets -merge +onlyGivenNames v2
    refine .some ?_
    refine .ite ?_ ?_
    · exact .next (hd0) (Dev.touches_cfgAnswer ..)
    · refine .ite ?_ ?_
      · extract_lets -merge +onlyGivenNames d3
        have hd3 : d.Touches (.fab :: .free :: .gmem :: .tier :: .work :: faultParts) (faultFlds.append gmemFaultFlds) d3 := by
          exact .next (hd0) (Dev.touches_cfgWrite ..)
        clear_value d3
        refine .next ?_ (Dev.touches_cfgAnswer ..)
        refine .ite ?_ ?_
        · exact hd3
        · exact .next (hd3) (Dev.touches_hostLost ..)
      · exact .next (hd0) (Dev.touches_cfgAnswer ..)

theorem touches_execHbmWindowAccess (write : Bool) (offset : BitVec 44) (len : BitVec 13) (bytes : List Byte) (s : State) : Result.Touches [.acc, .duty, .fab, .free, .host, .job, .mem, .out, .sec, .twin, .work] [] s (execHbmWindowAccess write offset len bytes s) := by
  unfold execHbmWindowAccess
  refine State.touches_now fun k d => ?_
  extract_lets -merge +onlyGivenNames v0
  refine .ite ?_ ?_
  · exact .none
  · extract_lets -merge +onlyGivenNames d1
    have hd1 : d.Touches [.acc, .duty, .fab, .free, .host, .job, .mem, .out, .sec, .twin, .work] [] d1 := by
      exact .next (.refl _) (Dev.touches_linkTrained ..)
    clear_value d1
    extract_lets -merge +onlyGivenNames v2
    extract_lets -merge +onlyGivenNames v3
    refine .some ?_
    split
    · extract_lets -merge +onlyGivenNames d5
      have hd5 : d.Touches [.acc, .duty, .fab, .free, .host, .job, .mem, .out, .sec, .twin, .work] [] d5 := by
        exact .next (hd1) (Dev.touches_count ..)
      clear_value d5
      refine .ite ?_ ?_
      · exact hd5
      · exact .set (hd5) rfl
    · refine .ite ?_ ?_
      · exact .next (.next (hd1) (Dev.touches_noteLoading ..)) (Dev.touches_hbmWriteRuns ..)
      · exact .set (hd1) rfl

theorem touches_execMsixUnmask (access : MsixAccess) (s : State) : Result.Touches [.acc, .fab, .host, .out, .sec, .work] [] s (execMsixUnmask access s) := by
  unfold execMsixUnmask
  refine State.touches_now fun k d => ?_
  refine .some ?_
  split
  · exact .next (.next (.refl _) (Dev.touches_msixWrite ..)) (Dev.touches_sendPending ..)
  · exact .set (.refl _) rfl

theorem touches_execCompletionTimeout (how : ReadEnd) (addr : BitVec 64) (obj : Option (BitVec 20)) (s : State) : Result.Touches (.fab :: .free :: .gmem :: .snap :: .tier :: .work :: faultParts) (.snapEvFail :: .snapFail :: faultFlds.append gmemFaultFlds) s (execCompletionTimeout how addr obj s) := by
  unfold execCompletionTimeout
  refine State.touches_now fun k d => ?_
  extract_lets +onlyGivenNames noted
  have hn : ∀ e : Dev, d.Touches (.fab :: .free :: .gmem :: .snap :: .tier :: .work :: faultParts) (.snapEvFail :: .snapFail :: faultFlds.append gmemFaultFlds) e → d.Touches (.fab :: .free :: .gmem :: .snap :: .tier :: .work :: faultParts) (.snapEvFail :: .snapFail :: faultFlds.append gmemFaultFlds) (noted e) := by
    intro e he
    unfold noted
    extract_lets e1
    have h1 : d.Touches (.fab :: .free :: .gmem :: .snap :: .tier :: .work :: faultParts) (.snapEvFail :: .snapFail :: faultFlds.append gmemFaultFlds) e1 := .next he (Dev.touches_readEnded ..)
    clear_value e1
    split
    · exact .next (.next h1 (Dev.touches_count ..)) (Dev.touches_aerError ..)
    · exact .next (.next (.next h1 (Dev.touches_count ..)) (Dev.touches_modIf ..)) (Dev.touches_aerError ..)
    · exact .next (.next h1 (Dev.touches_count ..)) (Dev.touches_modIf ..)
  clear_value noted
  split
  · exact .ite (.some (.next (hn d (.refl d)) (Dev.touches_modSnap ..))) .none
  · extract_lets +onlyGivenNames i late
    have hl : d.MayTouch (.fab :: .free :: .gmem :: .snap :: .tier :: .work :: faultParts) (.snapEvFail :: .snapFail :: faultFlds.append gmemFaultFlds) late := .ite (.some (hn d (.refl d))) .none
    clear_value late
    split
    · exact hl
    · extract_lets +onlyGivenNames images
      refine .ite hl (.ite (.some (hn d (.refl d))) (.some ?_))
      exact .next (.next (.next (hn d (.refl d)) (Dev.touches_modObj ..)) (Dev.touches_dropImages ..)) (Dev.touches_hostHomeLost ..)

theorem touches_execBridgeFlitReplay (dir : Fin 38) (overshare : Bool) (again : Bool) (s : State) : Result.Touches (.duty :: .fab :: .gmem :: .image :: .snap :: .tier :: .work :: faultParts) allFlds s (execBridgeFlitReplay dir overshare again s) := by
  unfold execBridgeFlitReplay
  refine State.touches_now fun k d => ?_
  extract_lets -merge +onlyGivenNames v0
  refine .ite ?_ ?_
  · exact .some (.nextAny (.refl _) (Dev.touches_bridgeFails ..))
  · extract_lets -merge +onlyGivenNames v1 d2
    have hd2 : d.Touches (.duty :: .fab :: .gmem :: .image :: .snap :: .tier :: .work :: faultParts) allFlds d2 := by
      exact .set (.refl _) rfl
    clear_value d2
    extract_lets -merge +onlyGivenNames v3
    extract_lets -merge +onlyGivenNames d4
    have hd4 : d.Touches (.duty :: .fab :: .gmem :: .image :: .snap :: .tier :: .work :: faultParts) allFlds d4 := by
      unfold d4
      refine .ite ?_ ?_
      · exact .nextAny (hd2) (Dev.touches_count ..)
      · exact hd2
    clear_value d4
    extract_lets -merge +onlyGivenNames v5
    refine .some ?_
    refine .ite ?_ ?_
    · extract_lets -merge +onlyGivenNames d6
      have hd6 : d.Touches (.duty :: .fab :: .gmem :: .image :: .snap :: .tier :: .work :: faultParts) allFlds d6 := by
        exact .nextAny (hd4) (Dev.touches_count ..)
      clear_value d6
      exact .set (hd6) rfl
    · exact hd4

theorem touches_execLockstepChunkHash (p : Packet) (s : State) : Result.Touches (.fab :: .gmem :: .herd :: .mem :: .pail :: .snap :: .tier :: .twin :: .work :: .xch :: faultParts) (faultFlds.append (devFaultFlds.append (gmemFaultFlds.append (lockFaultFlds.append herdFlds)))) s (execLockstepChunkHash p s) := by
  unfold execLockstepChunkHash
  refine State.touches_now fun k d => ?_
  refine .ite ?_ ?_
  · extract_lets -merge +onlyGivenNames v0
    extract_lets -merge +onlyGivenNames d1
    have hd1 : d.Touches (.fab :: .gmem :: .herd :: .mem :: .pail :: .snap :: .tier :: .twin :: .work :: .xch :: faultParts) (faultFlds.append (devFaultFlds.append (gmemFaultFlds.append (lockFaultFlds.append herdFlds)))) d1 := by
      exact .next (.refl _) (Dev.touches_takeTwin ..)
    clear_value d1
    refine .some ?_
    refine .next ?_ (Dev.touches_lsResume ..)
    refine .foldl ?_ fun e2 x3 _ => ?_
    · exact hd1
    · exact .next (.refl _) (Dev.touches_takeHash ..)
  · exact .nextSome (.refl _) (Dev.touches_twinDrop ..)

theorem touches_execMailboxReady (page : BitVec 12) (m : Master) (cc : ℕ) (s : State) : Result.Touches [.acc, .ctl, .fab, .out, .sec, .work] [] s (execMailboxReady page m cc s) := by
  unfold execMailboxReady
  extract_lets -merge +onlyGivenNames v0
  refine State.touches_act fun k d => ?_
  refine .map fun _ => ?_
  exact .next (.refl _) (Dev.touches_setMailbox ..)

theorem touches_execRegisterWrite (m : Master) (same : Bool) (offset : BitVec 28) (value : BitVec 32) (enables : BitVec 4) (s : State) : Result.Touches (.churn :: .coll :: .cores :: .duty :: .fab :: .frame :: .gmem :: .herd :: .image :: .layerInv :: .mem :: .pail :: .sep :: .snap :: .sync :: .tier :: .twin :: .work :: .xch :: faultParts) allFlds s (execRegisterWrite m same offset value enables s) := by
  unfold execRegisterWrite
  extract_lets -merge +onlyGivenNames v0
  exact .monoAny (State.touches_write ..)

theorem touches_execAliasSet (m : Master) (same : Bool) (page : BitVec 12) (base : BitVec 14) (value : BitVec 32) (s : State) : Result.Touches (.churn :: .coll :: .cores :: .duty :: .fab :: .frame :: .gmem :: .herd :: .image :: .layerInv :: .mem :: .pail :: .sep :: .snap :: .sync :: .tier :: .twin :: .work :: .xch :: faultParts) allFlds s (execAliasSet m same page base value s) := by
  unfold execAliasSet
  exact .monoAny (State.touches_write ..)

theorem touches_execAliasClear (m : Master) (same : Bool) (page : BitVec 12) (base : BitVec 14) (value : BitVec 32) (s : State) : Result.Touches (.churn :: .coll :: .cores :: .duty :: .fab :: .frame :: .gmem :: .herd :: .image :: .layerInv :: .mem :: .pail :: .sep :: .snap :: .sync :: .tier :: .twin :: .work :: .xch :: faultParts) allFlds s (execAliasClear m same page base value s) := by
  unfold execAliasClear
  exact .monoAny (State.touches_write ..)

theorem touches_execAliasToggle (m : Master) (same : Bool) (page : BitVec 12) (base : BitVec 14) (value : BitVec 32) (s : State) : Result.Touches (.churn :: .coll :: .cores :: .duty :: .fab :: .frame :: .gmem :: .herd :: .image :: .layerInv :: .mem :: .pail :: .sep :: .snap :: .sync :: .tier :: .twin :: .work :: .xch :: faultParts) allFlds s (execAliasToggle m same page base value s) := by
  unfold execAliasToggle
  exact .monoAny (State.touches_write ..)

theorem touches_execGuardValueWrite (m : Master) (same : Bool) (page : BitVec 12) (reg : BitVec 13) (value : BitVec 32) (s : State) : Result.Touches (.churn :: .coll :: .cores :: .duty :: .fab :: .frame :: .gmem :: .herd :: .image :: .layerInv :: .mem :: .pail :: .sep :: .snap :: .sync :: .tier :: .twin :: .work :: .xch :: faultParts) allFlds s (execGuardValueWrite m same page reg value s) := by
  unfold execGuardValueWrite
  exact .monoAny (State.touches_write ..)

theorem touches_execGuardComplementWrite (m : Master) (same : Bool) (page : BitVec 12) (reg : BitVec 13) (value : BitVec 32) (s : State) : Result.Touches (.churn :: .coll :: .cores :: .duty :: .fab :: .frame :: .gmem :: .herd :: .image :: .layerInv :: .mem :: .pail :: .sep :: .snap :: .sync :: .tier :: .twin :: .work :: .xch :: faultParts) allFlds s (execGuardComplementWrite m same page reg value s) := by
  unfold execGuardComplementWrite
  exact .monoAny (State.touches_write ..)

theorem touches_execGuardWindowExpire (page : BitVec 12) (m : Master) (s : State) : Result.Touches [.acc, .ctl, .fab, .out, .regs, .sec, .updated, .work] allFlds s (execGuardWindowExpire page m s) := by
  unfold execGuardWindowExpire
  extract_lets -merge +onlyGivenNames v0
  refine State.touches_act fun k d => ?_
  clear_value v0
  split
  · exact .some (.nextAny (.refl _) (Dev.touches_expireGuard ..))
  · exact .none

theorem touches_execMbxSelWrite (m : Master) (same : Bool) (page : BitVec 12) (sel : BitVec 8) (s : State) : Result.Touches (.churn :: .coll :: .cores :: .duty :: .fab :: .frame :: .gmem :: .herd :: .image :: .layerInv :: .mem :: .pail :: .sep :: .snap :: .sync :: .tier :: .twin :: .work :: .xch :: faultParts) allFlds s (execMbxSelWrite m same page sel s) := by
  unfold execMbxSelWrite
  exact .monoAny (State.touches_writeWord ..)

theorem touches_execLoad (m : Master) (same : Bool) (s : State) : Result.Touches (.churn :: .coll :: .cores :: .duty :: .fab :: .frame :: .gmem :: .herd :: .image :: .layerInv :: .mem :: .pail :: .sep :: .snap :: .sync :: .tier :: .twin :: .work :: .xch :: faultParts) allFlds s (execLoad m same s) := by
  unfold execLoad
  exact .monoAny (State.touches_writeComplement ..)

theorem touches_execAbort (m : Master) (same : Bool) (s : State) : Result.Touches (.churn :: .coll :: .cores :: .duty :: .fab :: .frame :: .gmem :: .herd :: .image :: .layerInv :: .mem :: .pail :: .sep :: .snap :: .sync :: .tier :: .twin :: .work :: .xch :: faultParts) allFlds s (execAbort m same s) := by
  unfold execAbort
  exact .monoAny (State.touches_writeComplement ..)

theorem touches_execStop (m : Master) (same : Bool) (s : State) : Result.Touches (.churn :: .coll :: .cores :: .duty :: .fab :: .frame :: .gmem :: .herd :: .image :: .layerInv :: .mem :: .pail :: .sep :: .snap :: .sync :: .tier :: .twin :: .work :: .xch :: faultParts) allFlds s (execStop m same s) := by
  unfold execStop
  exact .monoAny (State.touches_writeComplement ..)

theorem touches_execRelease (m : Master) (same : Bool) (s : State) : Result.Touches (.churn :: .coll :: .cores :: .duty :: .fab :: .frame :: .gmem :: .herd :: .image :: .layerInv :: .mem :: .pail :: .sep :: .snap :: .sync :: .tier :: .twin :: .work :: .xch :: faultParts) allFlds s (execRelease m same s) := by
  unfold execRelease
  exact .monoAny (State.touches_writeComplement ..)

theorem touches_execJobStopFrameWrite (m : Master) (same : Bool) (value : BitVec 32) (s : State) : Result.Touches (.churn :: .coll :: .cores :: .duty :: .fab :: .frame :: .gmem :: .herd :: .image :: .layerInv :: .mem :: .pail :: .sep :: .snap :: .sync :: .tier :: .twin :: .work :: .xch :: faultParts) allFlds s (execJobStopFrameWrite m same value s) := by
  unfold execJobStopFrameWrite
  exact .monoAny (State.touches_writeWord ..)

theorem touches_execArm (m : Master) (same : Bool) (s : State) : Result.Touches (.churn :: .coll :: .cores :: .duty :: .fab :: .frame :: .gmem :: .herd :: .image :: .layerInv :: .mem :: .pail :: .sep :: .snap :: .sync :: .tier :: .twin :: .work :: .xch :: faultParts) allFlds s (execArm m same s) := by
  unfold execArm
  exact .monoAny (State.touches_writeComplement ..)

theorem touches_execDisarm (m : Master) (same : Bool) (s : State) : Result.Touches (.churn :: .coll :: .cores :: .duty :: .fab :: .frame :: .gmem :: .herd :: .image :: .layerInv :: .mem :: .pail :: .sep :: .snap :: .sync :: .tier :: .twin :: .work :: .xch :: faultParts) allFlds s (execDisarm m same s) := by
  unfold execDisarm
  exact .monoAny (State.touches_writeComplement ..)

theorem touches_execTickSyncCfgWrite (m : Master) (same : Bool) (value : BitVec 32) (s : State) : Result.Touches (.churn :: .coll :: .cores :: .duty :: .fab :: .frame :: .gmem :: .herd :: .image :: .layerInv :: .mem :: .pail :: .sep :: .snap :: .sync :: .tier :: .twin :: .work :: .xch :: faultParts) allFlds s (execTickSyncCfgWrite m same value s) := by
  unfold execTickSyncCfgWrite
  exact .monoAny (State.touches_writeComplement ..)

theorem touches_execLendBegin (m : Master) (same : Bool) (s : State) : Result.Touches (.churn :: .coll :: .cores :: .duty :: .fab :: .frame :: .gmem :: .herd :: .image :: .layerInv :: .mem :: .pail :: .sep :: .snap :: .sync :: .tier :: .twin :: .work :: .xch :: faultParts) allFlds s (execLendBegin m same s) := by
  unfold execLendBegin
  exact .monoAny (State.touches_writeComplement ..)

theorem touches_execLendEnd (m : Master) (same : Bool) (s : State) : Result.Touches (.churn :: .coll :: .cores :: .duty :: .fab :: .frame :: .gmem :: .herd :: .image :: .layerInv :: .mem :: .pail :: .sep :: .snap :: .sync :: .tier :: .twin :: .work :: .xch :: faultParts) allFlds s (execLendEnd m same s) := by
  unfold execLendEnd
  exact .monoAny (State.touches_writeComplement ..)

theorem touches_execWindowCommand (m : Master) (same : Bool) (s : State) : Result.Touches (.churn :: .coll :: .cores :: .duty :: .fab :: .frame :: .gmem :: .herd :: .image :: .layerInv :: .mem :: .pail :: .sep :: .snap :: .sync :: .tier :: .twin :: .work :: .xch :: faultParts) allFlds s (execWindowCommand m same s) := by
  unfold execWindowCommand
  exact .monoAny (State.touches_writeComplement ..)

theorem touches_execGmemMgmtCancel (m : Master) (same : Bool) (value : BitVec 32) (s : State) : Result.Touches (.churn :: .coll :: .cores :: .duty :: .fab :: .frame :: .gmem :: .herd :: .image :: .layerInv :: .mem :: .pail :: .sep :: .snap :: .sync :: .tier :: .twin :: .work :: .xch :: faultParts) allFlds s (execGmemMgmtCancel m same value s) := by
  unfold execGmemMgmtCancel
  exact .monoAny (State.touches_writeComplement ..)

theorem touches_execGmemCfgWrite (m : Master) (same : Bool) (value : BitVec 32) (s : State) : Result.Touches (.churn :: .coll :: .cores :: .duty :: .fab :: .frame :: .gmem :: .herd :: .image :: .layerInv :: .mem :: .pail :: .sep :: .snap :: .sync :: .tier :: .twin :: .work :: .xch :: faultParts) allFlds s (execGmemCfgWrite m same value s) := by
  unfold execGmemCfgWrite
  exact .monoAny (State.touches_writeWord ..)

theorem touches_execPortEnable (m : Master) (same : Bool) (fd : Fin 10) (port : Fin 8) (s : State) : Result.Touches (.churn :: .coll :: .cores :: .duty :: .fab :: .frame :: .gmem :: .herd :: .image :: .layerInv :: .mem :: .pail :: .sep :: .snap :: .sync :: .tier :: .twin :: .work :: .xch :: faultParts) allFlds s (execPortEnable m same fd port s) := by
  unfold execPortEnable
  exact .monoAny (State.touches_writeComplement ..)

theorem touches_execPortDisable (m : Master) (same : Bool) (fd : Fin 10) (port : Fin 8) (s : State) : Result.Touches (.churn :: .coll :: .cores :: .duty :: .fab :: .frame :: .gmem :: .herd :: .image :: .layerInv :: .mem :: .pail :: .sep :: .snap :: .sync :: .tier :: .twin :: .work :: .xch :: faultParts) allFlds s (execPortDisable m same fd port s) := by
  unfold execPortDisable
  exact .monoAny (State.touches_writeComplement ..)

theorem touches_execProbeSend (m : Master) (same : Bool) (fd : Fin 10) (port : Fin 8) (s : State) : Result.Touches (.churn :: .coll :: .cores :: .duty :: .fab :: .frame :: .gmem :: .herd :: .image :: .layerInv :: .mem :: .pail :: .sep :: .snap :: .sync :: .tier :: .twin :: .work :: .xch :: faultParts) allFlds s (execProbeSend m same fd port s) := by
  unfold execProbeSend
  exact .monoAny (State.touches_writeComplement ..)

theorem touches_execRouteCommand (m : Master) (same : Bool) (s : State) : Result.Touches (.churn :: .coll :: .cores :: .duty :: .fab :: .frame :: .gmem :: .herd :: .image :: .layerInv :: .mem :: .pail :: .sep :: .snap :: .sync :: .tier :: .twin :: .work :: .xch :: faultParts) allFlds s (execRouteCommand m same s) := by
  unfold execRouteCommand
  exact .monoAny (State.touches_writeComplement ..)

theorem touches_execTwinCfgModeWrite (m : Master) (same : Bool) (value : BitVec 32) (s : State) : Result.Touches (.churn :: .coll :: .cores :: .duty :: .fab :: .frame :: .gmem :: .herd :: .image :: .layerInv :: .mem :: .pail :: .sep :: .snap :: .sync :: .tier :: .twin :: .work :: .xch :: faultParts) allFlds s (execTwinCfgModeWrite m same value s) := by
  unfold execTwinCfgModeWrite
  exact .monoAny (State.touches_writeComplement ..)

theorem touches_execPwrCapWrite (m : Master) (same : Bool) (value : BitVec 32) (s : State) : Result.Touches (.churn :: .coll :: .cores :: .duty :: .fab :: .frame :: .gmem :: .herd :: .image :: .layerInv :: .mem :: .pail :: .sep :: .snap :: .sync :: .tier :: .twin :: .work :: .xch :: faultParts) allFlds s (execPwrCapWrite m same value s) := by
  unfold execPwrCapWrite
  exact .monoAny (State.touches_writeComplement ..)

theorem touches_execPwrTjWrite (m : Master) (same : Bool) (value : BitVec 32) (s : State) : Result.Touches (.churn :: .coll :: .cores :: .duty :: .fab :: .frame :: .gmem :: .herd :: .image :: .layerInv :: .mem :: .pail :: .sep :: .snap :: .sync :: .tier :: .twin :: .work :: .xch :: faultParts) allFlds s (execPwrTjWrite m same value s) := by
  unfold execPwrTjWrite
  exact .monoAny (State.touches_writeComplement ..)

theorem touches_execSecQuoteCmd (m : Master) (same : Bool) (s : State) : Result.Touches (.churn :: .coll :: .cores :: .duty :: .fab :: .frame :: .gmem :: .herd :: .image :: .layerInv :: .mem :: .pail :: .sep :: .snap :: .sync :: .tier :: .twin :: .work :: .xch :: faultParts) allFlds s (execSecQuoteCmd m same s) := by
  unfold execSecQuoteCmd
  exact .monoAny (State.touches_writeComplement ..)

theorem touches_execNvmeEnable (m : Master) (same : Bool) (value : BitVec 32) (s : State) : Result.Touches (.churn :: .coll :: .cores :: .duty :: .fab :: .frame :: .gmem :: .herd :: .image :: .layerInv :: .mem :: .pail :: .sep :: .snap :: .sync :: .tier :: .twin :: .work :: .xch :: faultParts) allFlds s (execNvmeEnable m same value s) := by
  unfold execNvmeEnable
  exact .monoAny (State.touches_writeWord ..)

theorem touches_execFlashErase (m : Master) (same : Bool) (s : State) : Result.Touches (.churn :: .coll :: .cores :: .duty :: .fab :: .frame :: .gmem :: .herd :: .image :: .layerInv :: .mem :: .pail :: .sep :: .snap :: .sync :: .tier :: .twin :: .work :: .xch :: faultParts) allFlds s (execFlashErase m same s) := by
  unfold execFlashErase
  exact .monoAny (State.touches_writeComplement ..)

theorem touches_execFlashProgram (m : Master) (same : Bool) (s : State) : Result.Touches (.churn :: .coll :: .cores :: .duty :: .fab :: .frame :: .gmem :: .herd :: .image :: .layerInv :: .mem :: .pail :: .sep :: .snap :: .sync :: .tier :: .twin :: .work :: .xch :: faultParts) allFlds s (execFlashProgram m same s) := by
  unfold execFlashProgram
  exact .monoAny (State.touches_writeComplement ..)

theorem touches_execFlashRead (m : Master) (same : Bool) (s : State) : Result.Touches (.churn :: .coll :: .cores :: .duty :: .fab :: .frame :: .gmem :: .herd :: .image :: .layerInv :: .mem :: .pail :: .sep :: .snap :: .sync :: .tier :: .twin :: .work :: .xch :: faultParts) allFlds s (execFlashRead m same s) := by
  unfold execFlashRead
  exact .monoAny (State.touches_writeComplement ..)

theorem touches_execV3FieldRead (page : BitVec 12) (reg : BitVec 13) (s : State) : Result.Touches (.duty :: .fab :: .work :: faultParts) (.hubVoteScrubbed :: .hubVoteOffset :: .hubVoteBlock :: .hubVoteUnresolved :: faultFlds.append devFaultFlds) s (execV3FieldRead page reg s) := by
  unfold execV3FieldRead
  extract_lets -merge +onlyGivenNames v0
  refine State.touches_act fun k d => ?_
  refine .ite ?_ ?_
  · split
    next d1 x2 heq =>
      have hd1 : d.Touches (.duty :: .fab :: .work :: faultParts) (.hubVoteScrubbed :: .hubVoteOffset :: .hubVoteBlock :: .hubVoteUnresolved :: faultFlds.append devFaultFlds) d1 := by
        refine .of_fst ?_ heq
        exact .next (.refl _) (Dev.touches_readVoted ..)
      exact .some (.set (hd1) rfl)
  · exact .none

theorem touches_execVoteScrub (s : State) : Result.Touches (.duty :: .fab :: .work :: faultParts) (.hubVoteScrubbed :: .hubVoteOffset :: .hubVoteBlock :: .hubVoteUnresolved :: faultFlds.append devFaultFlds) s (execVoteScrub s) := by
  unfold execVoteScrub
  refine State.touches_act fun k d => ?_
  refine .some ?_
  refine .foldl ?_ fun e0 x1 _ => ?_
  · exact .refl _
  · exact .next (.refl _) (Dev.touches_voteAgain ..)

theorem touches_execGmemRequestArrive (p : Packet) (s : State) : Result.Touches (.churn :: .coll :: .cores :: .duty :: .fab :: .frame :: .gmem :: .herd :: .image :: .layerInv :: .mem :: .pail :: .sep :: .snap :: .sync :: .tier :: .twin :: .work :: .xch :: faultParts) allFlds s (execGmemRequestArrive p s) := by
  unfold execGmemRequestArrive
  refine State.touches_run fun k d => ?_
  refine .ite_optsnd ?_ ?_
  · exact .none
  · refine .ite_optsnd ?_ ?_
    · exact .some (.nextAny (.refl _) (Dev.touches_count ..))
    · refine .ite_optsnd ?_ ?_
      · exact .some (.nextAny (.refl _) (Dev.touches_macDrop ..))
      · extract_lets -merge +onlyGivenNames v0
        refine .some ?_
        exact .nextAny (.nextAny (.refl _) (Dev.touches_modGmem ..)) (Dev.touches_takeRequest ..)

theorem touches_execGmemResponseArrive (p : Packet) (s : State) : Result.Touches (.cores :: .fab :: .gmem :: .mem :: .snap :: .tier :: .twin :: .work :: faultParts) (coreFaultFlds.append (faultFlds.append (gmemFaultFlds.append lockFaultFlds))) s (execGmemResponseArrive p s) := by
  unfold execGmemResponseArrive
  refine State.touches_now fun k d => ?_
  extract_lets -merge +onlyGivenNames v0
  extract_lets -merge +onlyGivenNames v1
  extract_lets -merge +onlyGivenNames v2
  extract_lets -merge +onlyGivenNames v3
  refine .ite ?_ ?_
  · exact .none
  · refine .ite ?_ ?_
    · exact .some (.next (.refl _) (Dev.touches_count ..))
    · refine .ite ?_ ?_
      · exact .some (.next (.refl _) (Dev.touches_macDrop ..))
      · extract_lets -merge +onlyGivenNames d4
        have hd4 : d.Touches (.cores :: .fab :: .gmem :: .mem :: .snap :: .tier :: .twin :: .work :: faultParts) (coreFaultFlds.append (faultFlds.append (gmemFaultFlds.append lockFaultFlds))) d4 := by
          exact .next (.refl _) (Dev.touches_countTaken ..)
        clear_value d4
        split
        · exact .some (.next (hd4) (Dev.touches_lateAnswer ..))
        · refine .ite ?_ ?_
          · exact .some (hd4)
          · extract_lets -merge +onlyGivenNames d7
            have hd7 : d.Touches (.cores :: .fab :: .gmem :: .mem :: .snap :: .tier :: .twin :: .work :: faultParts) (coreFaultFlds.append (faultFlds.append (gmemFaultFlds.append lockFaultFlds))) d7 := by
              exact .next (hd4) (Dev.touches_modGmem ..)
            clear_value d7
            extract_lets -merge +onlyGivenNames d8
            have hd8 : d.Touches (.cores :: .fab :: .gmem :: .mem :: .snap :: .tier :: .twin :: .work :: faultParts) (coreFaultFlds.append (faultFlds.append (gmemFaultFlds.append lockFaultFlds))) d8 := by
              unfold d8
              refine .ite ?_ ?_
              · refine .ite ?_ ?_
                · exact hd7
                · exact .next (hd7) (Dev.touches_gmemFault ..)
              · exact .next (hd7) (Dev.touches_acknowledge ..)
            clear_value d8
            refine .some ?_
            refine .next ?_ (Dev.touches_lsStep ..)
            refine .next ?_ (Dev.touches_noteRoomWait ..)
            refine .ite ?_ ?_
            · exact hd8
            · exact .next (hd8) (Dev.touches_pumpAll ..)

theorem touches_execJoinAccept (p : Packet) (s : State) : Result.Touches (.churn :: .coll :: .cores :: .duty :: .fab :: .frame :: .gmem :: .herd :: .image :: .layerInv :: .mem :: .pail :: .sep :: .snap :: .sync :: .tier :: .twin :: .work :: .xch :: faultParts) allFlds s (execJoinAccept p s) := by
  unfold execJoinAccept
  refine State.touches_now fun k d => ?_
  refine .ite ?_ ?_
  · exact .none
  · refine .ite ?_ ?_
    · exact .some (.nextAny (.refl _) (Dev.touches_macDrop ..))
    · extract_lets -merge +onlyGivenNames v0
      extract_lets -merge +onlyGivenNames d1
      have hd1 : d.Touches (.churn :: .coll :: .cores :: .duty :: .fab :: .frame :: .gmem :: .herd :: .image :: .layerInv :: .mem :: .pail :: .sep :: .snap :: .sync :: .tier :: .twin :: .work :: .xch :: faultParts) allFlds d1 := by
        exact .nextAny (.refl _) (Dev.touches_joinWrite ..)
      clear_value d1
      extract_lets -merge +onlyGivenNames d2
      have hd2 : d.Touches (.churn :: .coll :: .cores :: .duty :: .fab :: .frame :: .gmem :: .herd :: .image :: .layerInv :: .mem :: .pail :: .sep :: .snap :: .sync :: .tier :: .twin :: .work :: .xch :: faultParts) allFlds d2 := by
        exact .nextAny (hd1) (Dev.touches_joinWrite ..)
      clear_value d2
      extract_lets -merge +onlyGivenNames d3
      have hd3 : d.Touches (.churn :: .coll :: .cores :: .duty :: .fab :: .frame :: .gmem :: .herd :: .image :: .layerInv :: .mem :: .pail :: .sep :: .snap :: .sync :: .tier :: .twin :: .work :: .xch :: faultParts) allFlds d3 := by
        exact .nextAny (hd2) (Dev.touches_joinWrite ..)
      clear_value d3
      extract_lets -merge +onlyGivenNames d4
      have hd4 : d.Touches (.churn :: .coll :: .cores :: .duty :: .fab :: .frame :: .gmem :: .herd :: .image :: .layerInv :: .mem :: .pail :: .sep :: .snap :: .sync :: .tier :: .twin :: .work :: .xch :: faultParts) allFlds d4 := by
        exact .nextAny (hd3) (Dev.touches_joinWrite ..)
      clear_value d4
      exact .some (.nextAny (hd4) (Dev.touches_startSession ..))

theorem touches_execQueueHeadRelease (c : Fin 48) (g : Eng) (s : State) : Result.Touches (.coll :: .cores :: .fab :: .frame :: .gmem :: .mem :: .pail :: .snap :: .tier :: .twin :: .work :: .xch :: faultParts) (coreFaultFlds.append (faultFlds.append (devFaultFlds.append (gmemFaultFlds.append lockFaultFlds)))) s (execQueueHeadRelease c g s) := by
  unfold execQueueHeadRelease
  refine State.touches_act fun k d => ?_
  refine .ite ?_ ?_
  · exact .none
  · split
    · exact .none
    · exact .nextSome (.refl _) (Dev.touches_atHead ..)

theorem touches_execInstructionRetire (c : Fin 48) (g : Eng) (s : State) : Result.Touches (.coll :: .cores :: .fab :: .frame :: .gmem :: .pail :: .twin :: .work :: .xch :: faultParts) (faultFlds.append lockFaultFlds) s (execInstructionRetire c g s) := by
  unfold execInstructionRetire
  extract_lets -merge +onlyGivenNames v0
  refine State.touches_act fun k d => ?_
  refine .map fun _ => ?_
  exact .next (.refl _) (Dev.touches_retire ..)

end Sys2Proof.Machine
end

section
/-! SUPPORT. Canonical memories: one form for each content, read-back of a write at a location, and every step keeps
them. -/

-- One proof at a time: each thread that elaborates beside the others reserves its stack.
set_option Elab.async false

namespace Sys2Proof.Machine

open Sys2Proof

/-! ### One form for each content -/

/-- A key below all that are listed reads as the default. -/
theorem Sparse.get_of_rising {α : Type} (m : Sparse α) (d : α) (b k : Nat) (h : Sparse.rising (some b) m = true)
    (hk : k ≤ b) : m.get d k = d := by
  induction m generalizing b with
  | nil => rfl
  | cons e t ih =>
    obtain ⟨x, v⟩ := e
    simp only [Sparse.rising, Bool.and_eq_true, decide_eq_true_eq] at h
    obtain ⟨hb, ht⟩ := h
    rw [Sparse.get, if_neg (by omega)]
    exact ih x ht (by omega)

/-- Rising lists without default values that read alike are equal. -/
theorem Sparse.ext_of_get {α : Type} (d : α) (m n : Sparse α) (lo : Option Nat) (hm : Sparse.rising lo m = true)
    (hn : Sparse.rising lo n = true) (hdm : ∀ e ∈ m, e.2 ≠ d) (hdn : ∀ e ∈ n, e.2 ≠ d)
    (h : ∀ k, m.get d k = n.get d k) : m = n := by
  induction m generalizing n lo with
  | nil =>
    cases n with
    | nil => rfl
    | cons e t => exact absurd (by simpa [Sparse.get] using (h e.1).symm) (hdn e (by simp))
  | cons e t ih =>
    obtain ⟨x, v⟩ := e
    cases n with
    | nil => exact absurd (by simpa [Sparse.get] using h x) (hdm (x, v) (by simp))
    | cons e' t' =>
      obtain ⟨y, w⟩ := e'
      simp only [Sparse.rising, Bool.and_eq_true] at hm hn
      have hlow : ∀ {a b : Nat} {u : Sparse α}, Sparse.rising (some b) u = true → a ≤ b → u.get d a = d :=
        fun hu hab => Sparse.get_of_rising _ d _ _ hu hab
      have hxy : x = y := by
        rcases Nat.lt_trichotomy x y with hlt | heq | hgt
        · have hx := h x
          rw [Sparse.get, if_pos rfl, Sparse.get, if_neg (by omega), hlow hn.2 (by omega)] at hx
          exact absurd hx (hdm (x, v) (by simp))
        · exact heq
        · have hy := h y
          rw [Sparse.get, if_neg (by omega), Sparse.get, if_pos rfl, hlow hm.2 (by omega)] at hy
          exact absurd hy.symm (hdn (y, w) (by simp))
      subst hxy
      have hvw : v = w := by simpa [Sparse.get] using h x
      subst hvw
      rw [ih t' (some x) hm.2 hn.2 (fun e he => hdm e (by simp [he])) (fun e he => hdn e (by simp [he])) fun k => ?_]
      have hk := h k
      by_cases hkx : x = k
      · subst hkx
        rw [hlow hm.2 (le_refl _), hlow hn.2 (le_refl _)]
      · simpa [Sparse.get, hkx] using hk

theorem Memory.ext_of_read (m n : Memory) (hm : m.wf = true) (hn : n.wf = true) (h : ∀ a, m.read a = n.read a) : m = n := by
  simp only [Memory.wf, Sparse.wf, Bool.and_eq_true, List.all_eq_true, decide_eq_true_eq] at hm hn
  exact Sparse.ext_of_get ramDefault m n none hm.1 hn.1 hm.2 hn.2 h

/-! ### A write at a location -/

/-- The memory of a location. -/
def Mem.at (m : Mem) : Loc → Memory
  | .tile c => m.tile[c]
  | .die x => m.die[x]
  | .hbm => m.hbm

theorem Dev.locRead_eq (d : Dev) (l : Loc) (a n : Nat) : d.locRead l a n = (d.mem.at l).readN a n := by
  cases l <;> rfl

section Location

variable (d : Dev) (l : Loc) (a : Nat) (bs : List Byte) (mask : List Bool)

theorem Dev.at_locWrite_same : (d.locWrite l a bs mask).mem.at l = (d.mem.at l).writeN a bs := by
  have hmem : ∀ i j k, (d.noteWrite i j k a bs mask).mem = d.mem := fun i j k => (Dev.touches_noteWrite ..).mem
  cases l with
  | tile c => simp [Dev.locWrite, Mem.at, hmem]
  | die x => simp [Dev.locWrite, Mem.at, hmem]
  | hbm => simp [Dev.locWrite, Mem.at, hmem]

theorem Dev.at_locWrite_other {m : Loc} (h : m ≠ l) : (d.locWrite l a bs mask).mem.at m = d.mem.at m := by
  have hmem : ∀ i j k, (d.noteWrite i j k a bs mask).mem = d.mem := fun i j k => (Dev.touches_noteWrite ..).mem
  cases l with
  | tile c =>
    cases m with
    | tile c' =>
      have hc : c ≠ c' := fun e => h (e ▸ rfl)
      simp [Dev.locWrite, Mem.at, hmem, Fin.val_ne_of_ne hc]
    | die x => simp [Dev.locWrite, Mem.at, hmem]
    | hbm => simp [Dev.locWrite, Mem.at, hmem]
  | die x =>
    cases m with
    | die x' =>
      have hx : x ≠ x' := fun e => h (e ▸ rfl)
      simp [Dev.locWrite, Mem.at, hmem, Fin.val_ne_of_ne hx]
    | tile c => simp [Dev.locWrite, Mem.at, hmem]
    | hbm => simp [Dev.locWrite, Mem.at, hmem]
  | hbm =>
    cases m with
    | tile c => simp [Dev.locWrite, Mem.at, hmem]
    | die x => simp [Dev.locWrite, Mem.at, hmem]
    | hbm => exact absurd rfl h

/-- A write at a location leaves the statistics stores and the memories beside the device. -/
theorem Dev.locWrite_others : (d.locWrite l a bs mask).mem.stat = d.mem.stat ∧
    (d.locWrite l a bs mask).mem.host = d.mem.host ∧ (d.locWrite l a bs mask).mem.flash = d.mem.flash ∧
    (d.locWrite l a bs mask).mem.nvme = d.mem.nvme := by
  have hmem : ∀ i j k, (d.noteWrite i j k a bs mask).mem = d.mem := fun i j k => (Dev.touches_noteWrite ..).mem
  cases l with
  | tile c => simp [Dev.locWrite, hmem]
  | die x => simp [Dev.locWrite, hmem]
  | hbm => simp [Dev.locWrite, hmem]

theorem Dev.locRead_locWrite_same : (d.locWrite l a bs mask).locRead l a bs.length = bs := by
  rw [Dev.locRead_eq, Dev.at_locWrite_same, Memory.readN_writeN]

theorem Dev.locRead_locWrite_outside {m : Loc} {x : Nat} (h : m ≠ l ∨ x < a ∨ a + bs.length ≤ x) :
    (d.locWrite l a bs mask).locRead m x 1 = d.locRead m x 1 := by
  rw [Dev.locRead_eq, Dev.locRead_eq]
  by_cases hm : m = l
  · subst hm
    rw [Dev.at_locWrite_same]
    simp [Memory.readN, Memory.read_writeN_outside _ _ _ _ (h.resolve_left (not_not_intro rfl))]
  · rw [Dev.at_locWrite_other d l a bs mask hm]

variable {d}

theorem Dev.locWrite_wf (h : d.mem.wf = true) : (d.locWrite l a bs mask).mem.wf = true := by
  have hmem : ∀ i j k, (d.noteWrite i j k a bs mask).mem.wf = true := fun i j k => by
    rw [(Dev.touches_noteWrite ..).mem]; exact h
  cases l with
  | tile c => exact Mem.wf_setTile (hmem ..) (Memory.writeN_wf _ _ _ (Mem.tile_wf (hmem ..) c)) c _
  | die x => exact Mem.wf_setDie (hmem ..) (Memory.writeN_wf _ _ _ (Mem.die_wf (hmem ..) x)) x _
  | hbm => exact Mem.wf_setHbm (hmem ..) (Memory.writeN_wf _ _ _ (Mem.hbm_wf (hmem ..))) _

theorem Dev.hbmWriteRuns_wf (rs : List (Nat × Nat)) (h : d.mem.wf = true) : (d.hbmWriteRuns rs bs mask).mem.wf = true := by
  induction rs generalizing d bs mask with
  | nil => exact h
  | cons r t ih => exact ih _ _ (Dev.locWrite_wf _ _ _ _ h)

theorem Dev.snapWrite_wf (n : Nat) (h : d.mem.wf = true) : (d.snapWrite l a n).mem.wf = true := by
  rw [(Dev.touches_snapWrite ..).mem]; exact h

theorem Dev.put_wf (h : d.mem.wf = true) : (d.put l a bs mask).mem.wf = true := by
  cases l with
  | tile c => exact Dev.locWrite_wf _ _ _ _ (Dev.snapWrite_wf _ _ _ h)
  | die x => exact Dev.locWrite_wf _ _ _ _ (Dev.snapWrite_wf _ _ _ h)
  | hbm =>
    show (d.hbmWrite a bs mask).mem.wf = true
    unfold Dev.hbmWrite
    split
    · exact h
    · exact Dev.hbmWriteRuns_wf _ _ _ (Dev.snapWrite_wf _ _ _ h)

end Location

/-! ### Steps -/

theorem Result.Touches.canon {ps : List Part} {fs : List Fld} {s t : State} {r : Result} (h : Result.Touches ps fs s r)
    (hs : s.dev.Canon) (ht : r = .next t) : t.dev.Canon := (h.dev t ht).canon hs

/-- Every command keeps the canonical form. -/
theorem exec_canon (i : Instr) {s t : State} (hs : s.dev.Canon) (h : exec i s = .next t) : t.dev.Canon := by
  cases i with
  | sadd => exact (touches_execSadd ..).canon hs h
  | ssub => exact (touches_execSsub ..).canon hs h
  | smul => exact (touches_execSmul ..).canon hs h
  | sand => exact (touches_execSand ..).canon hs h
  | sor => exact (touches_execSor ..).canon hs h
  | sxor => exact (touches_execSxor ..).canon hs h
  | sshl => exact (touches_execSshl ..).canon hs h
  | sshr => exact (touches_execSshr ..).canon hs h
  | ssra => exact (touches_execSsra ..).canon hs h
  | smovi => exact (touches_execSmovi ..).canon hs h
  | scmp => exact (touches_execScmp ..).canon hs h
  | pset => exact (touches_execPset ..).canon hs h
  | tdset => exact (touches_execTdset ..).canon hs h
  | tdcopy => exact (touches_execTdcopy ..).canon hs h
  | loop => exact (touches_execLoop ..).canon hs h
  | syncBar => exact (touches_execSyncBar ..).canon hs h
  | syncBarRelease => exact (touches_execSyncBarRelease ..).canon hs h
  | fenceEng => exact (touches_execFenceEng ..).canon hs h
  | fenceGmem => exact (touches_execFenceGmem ..).canon hs h
  | fenceRelease => exact (touches_execFenceRelease ..).canon hs h
  | nop => exact (touches_execNop ..).canon hs h
  | tickEnd => exact (touches_execTickEnd ..).canon hs h
  | tickWait => exact (touches_execTickWait ..).canon hs h
  | tickWaitRelease => exact (touches_execTickWaitRelease ..).canon hs h
  | tickFrame => exact (touches_execTickFrame ..).canon hs h
  | tickNow => exact (touches_execTickNow ..).canon hs h
  | moveTile => exact (touches_execMoveTile ..).canon hs h
  | moveFill => exact (touches_execMoveFill ..).canon hs h
  | mmLoad => exact (touches_execMmLoad ..).canon hs h
  | arrayFillDone => exact (touches_execArrayFillDone ..).canon hs h
  | mmRun => exact (touches_execMmRun ..).canon hs h
  | mmStore => exact (touches_execMmStore ..).canon hs h
  | mmPair => exact (touches_execMmPair ..).canon hs h
  | rowSmax => exact (touches_execRowSmax ..).canon hs h
  | rowNorm => exact (touches_execRowNorm ..).canon hs h
  | rowSmaxB => exact (touches_execRowSmaxB ..).canon hs h
  | rowNormB => exact (touches_execRowNormB ..).canon hs h
  | vadd => exact (touches_execVadd ..).canon hs h
  | vmul => exact (touches_execVmul ..).canon hs h
  | vfma => exact (touches_execVfma ..).canon hs h
  | vscale => exact (touches_execVscale ..).canon hs h
  | vact => exact (touches_execVact ..).canon hs h
  | vamax => exact (touches_execVamax ..).canon hs h
  | vgate => exact (touches_execVgate ..).canon hs h
  | vopt => exact (touches_execVopt ..).canon hs h
  | sepSelect => exact (touches_execSepSelect ..).canon hs h
  | sepHash => exact (touches_execSepHash ..).canon hs h
  | dieCollectiveStart => exact (touches_execDieCollectiveStart ..).canon hs h
  | capacityVectorArrive => exact (touches_execCapacityVectorArrive ..).canon hs h
  | capacityWriteBackEnd => exact (touches_execCapacityWriteBackEnd ..).canon hs h
  | churnSort => exact (touches_execChurnSort ..).canon hs h
  | churnRestore => exact (touches_execChurnRestore ..).canon hs h
  | xchDispatch => exact (touches_execXchDispatch ..).canon hs h
  | xchRecv => exact (touches_execXchRecv ..).canon hs h
  | xchReturn => exact (touches_execXchReturn ..).canon hs h
  | xchCombine => exact (touches_execXchCombine ..).canon hs h
  | collBcast => exact (touches_execCollBcast ..).canon hs h
  | collReduce => exact (touches_execCollReduce ..).canon hs h
  | collWait => exact (touches_execCollWait ..).canon hs h
  | gld => exact (touches_execGld ..).canon hs h
  | gst => exact (touches_execGst ..).canon hs h
  | gatom => exact (touches_execGatom ..).canon hs h
  | palloc => exact (touches_execPalloc ..).canon hs h
  | pfree => exact (touches_execPfree ..).canon hs h
  | pshare => exact (touches_execPshare ..).canon hs h
  | tdpail => exact (touches_execTdpail ..).canon hs h
  | tpromote => exact (touches_execTpromote ..).canon hs h
  | tevict => exact (touches_execTevict ..).canon hs h
  | ttouch => exact (touches_execTtouch ..).canon hs h
  | twait => exact (touches_execTwait ..).canon hs h
  | queueHeadRelease => exact (touches_execQueueHeadRelease ..).canon hs h
  | instructionRetire => exact (touches_execInstructionRetire ..).canon hs h
  | pailRequestApply => exact (touches_execPailRequestApply ..).canon hs h
  | load => exact (touches_execLoad ..).canon hs h
  | admissionEnd => exact (touches_execAdmissionEnd ..).canon hs h
  | restoreEnd => exact (touches_execRestoreEnd ..).canon hs h
  | abort => exact (touches_execAbort ..).canon hs h
  | stop => exact (touches_execStop ..).canon hs h
  | release => exact (touches_execRelease ..).canon hs h
  | releaseZeroingEnd => exact (touches_execReleaseZeroingEnd ..).canon hs h
  | jobStopFrameWrite => exact (touches_execJobStopFrameWrite ..).canon hs h
  | arm => exact (touches_execArm ..).canon hs h
  | disarm => exact (touches_execDisarm ..).canon hs h
  | launchCountReached => exact (touches_execLaunchCountReached ..).canon hs h
  | frameOpen => exact (touches_execFrameOpen ..).canon hs h
  | guardStart => exact (touches_execGuardStart ..).canon hs h
  | frameClose => exact (touches_execFrameClose ..).canon hs h
  | drainEnd => exact (touches_execDrainEnd ..).canon hs h
  | teardownComplete => exact (touches_execTeardownComplete ..).canon hs h
  | throttleStep => exact (touches_execThrottleStep ..).canon hs h
  | herdReadyOffset => exact (touches_execHerdReadyOffset ..).canon hs h
  | herdAdd => exact (touches_execHerdAdd ..).canon hs h
  | herdCancel => exact (touches_execHerdCancel ..).canon hs h
  | herdChangeStops => exact (touches_execHerdChangeStops ..).canon hs h
  | herdHold => exact (touches_execHerdHold ..).canon hs h
  | herdRelease => exact (touches_execHerdRelease ..).canon hs h
  | herdFlush => exact (touches_execHerdFlush ..).canon hs h
  | tierMoveCommit => exact (touches_execTierMoveCommit ..).canon hs h
  | snapCutComplete => exact (touches_execSnapCutComplete ..).canon hs h
  | nvmeCompletion => exact (touches_execNvmeCompletion ..).canon hs h
  | mirrorData => exact (touches_execMirrorData ..).canon hs h
  | mirrorCommit => exact (touches_execMirrorCommit ..).canon hs h
  | gmemRequestArrive => exact (touches_execGmemRequestArrive ..).canon hs h
  | gmemResponseArrive => exact (touches_execGmemResponseArrive ..).canon hs h
  | gmemRetry => exact (touches_execGmemRetry ..).canon hs h
  | gmemTimeout => exact (touches_execGmemTimeout ..).canon hs h
  | gmemMgmtCancel => exact (touches_execGmemMgmtCancel ..).canon hs h
  | windowCommand => exact (touches_execWindowCommand ..).canon hs h
  | gmemCfgWrite => exact (touches_execGmemCfgWrite ..).canon hs h
  | lendBegin => exact (touches_execLendBegin ..).canon hs h
  | lendEnd => exact (touches_execLendEnd ..).canon hs h
  | lendZeroingEnd => exact (touches_execLendZeroingEnd ..).canon hs h
  | timeMessage => exact (touches_execTimeMessage ..).canon hs h
  | timestampBlock => exact (touches_execTimestampBlock ..).canon hs h
  | timestampSend => exact (touches_execTimestampSend ..).canon hs h
  | syncParentTimeout => exact (touches_execSyncParentTimeout ..).canon hs h
  | tickSyncCfgWrite => exact (touches_execTickSyncCfgWrite ..).canon hs h
  | linkBlockReceive => exact (touches_execLinkBlockReceive ..).canon hs h
  | ackTimeout => exact (touches_execAckTimeout ..).canon hs h
  | pmdLockLoss => exact (touches_execPmdLockLoss ..).canon hs h
  | portTrainingStart => exact (touches_execPortTrainingStart ..).canon hs h
  | portTrainingEnd => exact (touches_execPortTrainingEnd ..).canon hs h
  | portEnable => exact (touches_execPortEnable ..).canon hs h
  | portDisable => exact (touches_execPortDisable ..).canon hs h
  | probeSend => exact (touches_execProbeSend ..).canon hs h
  | probe => exact (touches_execProbe ..).canon hs h
  | probeAnswer => exact (touches_execProbeAnswer ..).canon hs h
  | packetArrive => exact (touches_execPacketArrive ..).canon hs h
  | packetDeliver => exact (touches_execPacketDeliver ..).canon hs h
  | reorderTimeout => exact (touches_execReorderTimeout ..).canon hs h
  | routeCommand => exact (touches_execRouteCommand ..).canon hs h
  | routeCommit => exact (touches_execRouteCommit ..).canon hs h
  | congestionWindowEnd => exact (touches_execCongestionWindowEnd ..).canon hs h
  | summaryPeriodLatch => exact (touches_execSummaryPeriodLatch ..).canon hs h
  | bridgeFlitReplay => exact (touches_execBridgeFlitReplay ..).canon hs h
  | deliveryStream => exact (touches_execDeliveryStream ..).canon hs h
  | deliveryEndMarker => exact (touches_execDeliveryEndMarker ..).canon hs h
  | returnStream => exact (touches_execReturnStream ..).canon hs h
  | returnEndMarker => exact (touches_execReturnEndMarker ..).canon hs h
  | collInvocationStart => exact (touches_execCollInvocationStart ..).canon hs h
  | reductionStream => exact (touches_execReductionStream ..).canon hs h
  | reductionEndMarker => exact (touches_execReductionEndMarker ..).canon hs h
  | broadcastStream => exact (touches_execBroadcastStream ..).canon hs h
  | broadcastEndMarker => exact (touches_execBroadcastEndMarker ..).canon hs h
  | collReport => exact (touches_execCollReport ..).canon hs h
  | sampleRecords => exact (touches_execSampleRecords ..).canon hs h
  | collDeadline => exact (touches_execCollDeadline ..).canon hs h
  | token => exact (touches_execToken ..).canon hs h
  | tokenAcknowledgement => exact (touches_execTokenAcknowledgement ..).canon hs h
  | tokenRepeat => exact (touches_execTokenRepeat ..).canon hs h
  | lockstepChunkHash => exact (touches_execLockstepChunkHash ..).canon hs h
  | lockstepArmRecord => exact (touches_execLockstepArmRecord ..).canon hs h
  | lockstepFrameDigests => exact (touches_execLockstepFrameDigests ..).canon hs h
  | lockstepGranuleRecords => exact (touches_execLockstepGranuleRecords ..).canon hs h
  | lockstepHalt => exact (touches_execLockstepHalt ..).canon hs h
  | twinCfgModeWrite => exact (touches_execTwinCfgModeWrite ..).canon hs h
  | registerWrite => exact (touches_execRegisterWrite ..).canon hs h
  | aliasSet => exact (touches_execAliasSet ..).canon hs h
  | aliasClear => exact (touches_execAliasClear ..).canon hs h
  | aliasToggle => exact (touches_execAliasToggle ..).canon hs h
  | guardValueWrite => exact (touches_execGuardValueWrite ..).canon hs h
  | guardComplementWrite => exact (touches_execGuardComplementWrite ..).canon hs h
  | guardWindowExpire => exact (touches_execGuardWindowExpire ..).canon hs h
  | mbxSelWrite => exact (touches_execMbxSelWrite ..).canon hs h
  | mailboxReady => exact (touches_execMailboxReady ..).canon hs h
  | v3FieldRead => exact (touches_execV3FieldRead ..).canon hs h
  | voteScrub => exact (touches_execVoteScrub ..).canon hs h
  | resetRelease => exact (touches_execResetRelease ..).canon hs h
  | startStepEnd => exact (touches_execStartStepEnd ..).canon hs h
  | pwrgoodFall => exact (touches_execPwrgoodFall ..).canon hs h
  | railSample => exact (touches_execRailSample ..).canon hs h
  | tempSample => exact (touches_execTempSample ..).canon hs h
  | reductionExit => exact (touches_execReductionExit ..).canon hs h
  | pwrCapWrite => exact (touches_execPwrCapWrite ..).canon hs h
  | pwrTjWrite => exact (touches_execPwrTjWrite ..).canon hs h
  | joinHello => exact (touches_execJoinHello ..).canon hs h
  | joinAccept => exact (touches_execJoinAccept ..).canon hs h
  | rekey => exact (touches_execRekey ..).canon hs h
  | oldKeyExpire => exact (touches_execOldKeyExpire ..).canon hs h
  | quoteRequest => exact (touches_execQuoteRequest ..).canon hs h
  | secQuoteCmd => exact (touches_execSecQuoteCmd ..).canon hs h
  | quoteDone => exact (touches_execQuoteDone ..).canon hs h
  | reportAck => exact (touches_execReportAck ..).canon hs h
  | reportRepeat => exact (touches_execReportRepeat ..).canon hs h
  | securityCheck => exact (touches_execSecurityCheck ..).canon hs h
  | smbStartWord => exact (touches_execSmbStartWord ..).canon hs h
  | smbStatus => exact (touches_execSmbStatus ..).canon hs h
  | smbTemperature => exact (touches_execSmbTemperature ..).canon hs h
  | smbPower => exact (touches_execSmbPower ..).canon hs h
  | smbEvents => exact (touches_execSmbEvents ..).canon hs h
  | smbInventory => exact (touches_execSmbInventory ..).canon hs h
  | smbAlertResponse => exact (touches_execSmbAlertResponse ..).canon hs h
  | bypass => exact (touches_execBypass ..).canon hs h
  | idcode => exact (touches_execIdcode ..).canon hs h
  | samplePreload => exact (touches_execSamplePreload ..).canon hs h
  | extest => exact (touches_execExtest ..).canon hs h
  | clamp => exact (touches_execClamp ..).canon hs h
  | highz => exact (touches_execHighz ..).canon hs h
  | endpointReset => exact (touches_execEndpointReset ..).canon hs h
  | configRequest => exact (touches_execConfigRequest ..).canon hs h
  | hbmWindowAccess => exact (touches_execHbmWindowAccess ..).canon hs h
  | msixUnmask => exact (touches_execMsixUnmask ..).canon hs h
  | completionTimeout => exact (touches_execCompletionTimeout ..).canon hs h
  | nvmeEnable => exact (touches_execNvmeEnable ..).canon hs h
  | nvmeLinkDown => exact (touches_execNvmeLinkDown ..).canon hs h
  | flashErase => exact (touches_execFlashErase ..).canon hs h
  | flashProgram => exact (touches_execFlashProgram ..).canon hs h
  | flashRead => exact (touches_execFlashRead ..).canon hs h
  | flashCommandDone => exact (touches_execFlashCommandDone ..).canon hs h
  | runStart => exact (touches_execRunStart ..).canon hs h
  | throttleStepEnd => exact (touches_execThrottleStepEnd ..).canon hs h
  | capacityStateReadEnd => exact (touches_execCapacityStateReadEnd ..).canon hs h
  | stagedResultComplete => exact (touches_execStagedResultComplete ..).canon hs h
  | mirrorSendEnd => exact (touches_execMirrorSendEnd ..).canon hs h
  | resetAssert => exact (touches_execResetAssert ..).canon hs h
  | perstDeassert => exact (touches_execPerstDeassert ..).canon hs h
  | refclkStart => exact (touches_execRefclkStart ..).canon hs h
  | testLogicReset => exact (touches_execTestLogicReset ..).canon hs h
  | managementRequest => exact (touches_execManagementRequest ..).canon hs h

theorem step_canon {s t : State} (hs : s.dev.Canon) (h : step s = .next t) : t.dev.Canon := by
  cases hp : s.pending with
  | nil =>
    rw [step_nil hp] at h
    unfold State.idle at h
    cases h
    split
    · exact hs
    · exact hs
  | cons c rest =>
    rw [step_cons hp] at h
    exact exec_canon c (s := { s with pending := rest }) ⟨hs.mem, hs.acc⟩ h

end Sys2Proof.Machine

namespace Sys2Proof

open Machine

/-- Settles O59: each exec of the 219 commands has a footprint that keeps the form. -/
theorem memoriesReadBack : Obligations.MemoriesReadBack := by
  unfold Obligations.MemoriesReadBack
  refine ⟨fun m n hm hn h => Memory.ext_of_read m n hm hn h, fun m a n b => ⟨Memory.clear_wf m a n, Memory.clear_read m a n b⟩,
    fun d l a bs mask => ?_, fun s t hm ha h => ?_⟩
  · intro e u
    have he : d.Touches [.mem, .twin] [] e := Dev.touches_locWrite d l a bs mask
    have hu : d.Touches [.acc, .mem, .snap, .twin] [] u := Dev.touches_put d l a bs mask
    obtain ⟨hstat, hhost, hflash, hnvme⟩ := Dev.locWrite_others d l a bs mask
    exact ⟨Dev.locRead_locWrite_same .., fun m x h => Dev.locRead_locWrite_outside _ _ _ _ _ h, hstat, hhost, hflash, hnvme,
      he.cores, he.regs, he.job, fun h => ⟨Dev.locWrite_wf _ _ _ _ h, Dev.put_wf _ _ _ _ h⟩, hu.regs, hu.cores, hu.tier⟩
  · obtain ⟨hm', ha'⟩ := step_canon ⟨hm, ha⟩ h
    exact ⟨hm', ha'⟩

end Sys2Proof
end

section
/-! SUPPORT. Narrowing to an integer format, and block scales. -/

-- One proof at a time: each thread that elaborates beside the others reserves its stack.
set_option Elab.async false

namespace Sys2Proof.Machine

open Sys2Proof

/-- A value in the range of `n`-bit two's complement reads back from its code. -/
theorem twos_untwos {n : Nat} {w : Int} (hn : 1 ≤ n) (hlo : -(2 ^ (n - 1) : Int) ≤ w) (hhi : w ≤ 2 ^ (n - 1) - 1) :
    twos n (untwos n w) = w := by
  obtain ⟨j, rfl⟩ : ∃ j, n = j + 1 := ⟨n - 1, by omega⟩
  have hp : (2 : Nat) ^ (j + 1) = 2 * 2 ^ j := by rw [pow_succ, Nat.mul_comm]
  have hcast : ((2 ^ j : Nat) : Int) = 2 ^ j := by push_cast; rfl
  simp only [Nat.add_sub_cancel] at hlo hhi
  rw [← hcast] at hlo hhi
  unfold twos untwos
  rw [hp, Nat.add_sub_cancel]
  generalize 2 ^ j = p at *
  have hdouble : ((2 * p : Nat) : Int) = 2 * (p : Int) := by push_cast; rfl
  rw [hdouble]
  by_cases hw : 0 ≤ w
  · have hmod : w % (2 * (p : Int)) = w := Int.emod_eq_of_lt hw (by omega)
    have hcode : w.toNat % (2 * p) = w.toNat := Nat.mod_eq_of_lt (by omega)
    rw [hmod, hcode, if_pos (by omega), Int.toNat_of_nonneg hw]
  · have hmod : w % (2 * (p : Int)) = w + 2 * p := by
      rw [← Int.add_emod_right, Int.emod_eq_of_lt (by omega) (by omega)]
    have hcode : (w + 2 * (p : Int)).toNat % (2 * p) = (w + 2 * (p : Int)).toNat := Nat.mod_eq_of_lt (by omega)
    rw [hmod, hcode, if_neg (by omega), Int.toNat_of_nonneg (by omega)]
    omega

/-- Clamping holds a value within its bounds and tells whether it had to. -/
theorem clampInt_eq {lo hi : Int} (h : lo ≤ hi) (v : Int) :
    clampInt lo hi v = (max lo (min hi v), decide (max lo (min hi v) ≠ v)) := by
  unfold clampInt
  split_ifs with h1 h2
  · simp only [Prod.mk.injEq, eq_comm (a := true), decide_eq_true_eq]; omega
  · simp only [Prod.mk.injEq, eq_comm (a := true), decide_eq_true_eq]; omega
  · simp only [Prod.mk.injEq, eq_comm (a := false), decide_eq_false_iff_not]; omega

theorem roundInt_zero (r : Rounding) (v : Int) : roundInt r v 0 = v := by
  simp [roundInt]

/-- An integer narrows to the code of the value held within the range. -/
theorem narrow_int (n : Nat) (r : Rounding) (sc : Option Int) (v : Int) :
    (Fmt.int n).narrow r sc (.fin v 0) =
      ⟨untwos n (max (-(2 ^ (n - 1) : Int)) (min (2 ^ (n - 1) - 1) v)),
        decide (max (-(2 ^ (n - 1) : Int)) (min (2 ^ (n - 1) - 1) v) ≠ v), false⟩ := by
  have hp : (0 : Int) < 2 ^ (n - 1) := by positivity
  have hc := clampInt_eq (lo := -(2 ^ (n - 1) : Int)) (hi := 2 ^ (n - 1) - 1) (by omega) v
  simp [Fmt.narrow, Fmt.float?, Fmt.width, roundInt_zero, hc]

theorem scaleOf_eq (b : Nat) (hb : b < 256) : scaleOf b = if b = 0x80 then (none, false) else
    let v : Int := if b < 128 then b else (b : Int) - 256
    (some (max (-15) (min 15 v)), decide (v < -15 ∨ 15 < v)) := by
  have htwos : twos 8 b = if b < 128 then (b : Int) else (b : Int) - 256 := by
    simp [twos, Nat.mod_eq_of_lt hb]
  unfold scaleOf
  simp only [htwos, Nat.mod_eq_of_lt hb]
  split
  · rfl
  · generalize (if b < 128 then (b : Int) else (b : Int) - 256) = v
    split_ifs with h1 h2
    · simp only [Prod.mk.injEq, Option.some.injEq, eq_comm (a := true), decide_eq_true_eq]; omega
    · simp only [Prod.mk.injEq, Option.some.injEq, eq_comm (a := true), decide_eq_true_eq]; omega
    · simp only [Prod.mk.injEq, Option.some.injEq, eq_comm (a := false), decide_eq_false_iff_not]; omega

end Sys2Proof.Machine

namespace Sys2Proof

open Machine

/-- Settles O21: a value held within the range reads back from its two's complement code. -/
theorem narrowingAndScales : Obligations.NarrowingAndScales := by
  unfold Obligations.NarrowingAndScales
  refine ⟨fun n r sc v hn _ => ?_, scaleOf_eq⟩
  intro w
  have hp : (0 : Int) < 2 ^ (n - 1) := by positivity
  rw [narrow_int]
  refine ⟨?_, rfl, rfl⟩
  show Val.fin (twos n (untwos n w)) 0 = .fin w 0
  rw [twos_untwos hn (by omega) (by omega)]

end Sys2Proof
end

section
/-! SUPPORT. A completed guarded pair: what it makes of the device, but for the record of the write and what is sent. -/

-- One proof at a time: each thread that elaborates beside the others reserves its stack.
set_option Elab.async false

namespace Sys2Proof.Machine

open Sys2Proof

/-- A field of a block lies outside the common registers. -/
theorem Fld.blk_common {f : Fld} (h : f.row.blk = .common) : f ∈ fldsCommon := by
  cases f <;> first | exact absurd h (by decide) | decide

/-- The bookkeeping of a write touches the common registers. -/
theorem Dev.Records.touches {d e : Dev} (h : d.Records e) : d.Touches [.regs, .ctl, .updated] fldsCommon e where
  same := Part.same_of_graft h.rest
  reads f i j hf hi hj := h.rd f i j (fun hc => hf (Fld.blk_common hc)) hi hj
  canon hc := by
    rw [h.rest]
    exact ⟨hc.mem, hc.acc⟩

/-- The parts that the bookkeeping of a write and what is sent behind it may touch. -/
def behindParts : List Part := .regs :: .ctl :: .updated :: sendParts

/-- What stands behind the effect of a write: its record and the reports that it has raised. -/
theorem Dev.touches_behind (d : Dev) {p : Page} (hp : p.idx < 128) (w : MasterWrite) (result : Nat) (winner : Master)
    (old : List Report) (k : Clock) : d.Touches behindParts fldsCommon ((d.noteLast p w result winner).sendRaised old k) :=
  .next ((Dev.records_noteLast d hp w result winner).touches.mono (by decide) (fun _ h => h)) (Dev.touches_sendRaised ..)
    (by decide) (List.nil_subset _)

/-- All pages have numbers below 128: of a choice, both sides. -/
theorem Page.idx_of_ite {c : Prop} [Decidable c] {x y : Option Page} (hx : c → ∀ p ∈ x, p.idx < 128)
    (hy : ∀ p ∈ y, p.idx < 128) : ∀ p ∈ (if c then x else y), p.idx < 128 := by
  split
  · next h => exact hx h
  · exact hy

theorem Page.idx_of_some {q : Page} (h : q.idx < 128) : ∀ p ∈ some q, p.idx < 128 := fun _ hp => Option.some.inj hp ▸ h

theorem Dev.page_idx (d : Dev) (page : Nat) : ∀ p ∈ d.page page, p.idx < 128 := by
  have hdies : d.order.fabricDies ≤ 10 := by cases d.order <;> decide
  unfold Dev.page
  refine Page.idx_of_ite (fun _ => Page.idx_of_some (by decide)) (Page.idx_of_ite (fun _ => Page.idx_of_some (by decide))
    (Page.idx_of_ite (fun _ => Page.idx_of_some (by decide)) (Page.idx_of_ite (fun h => Page.idx_of_some ?_) (Page.idx_of_ite (fun h => Page.idx_of_some ?_)
    (Page.idx_of_ite (fun _ => Page.idx_of_some (by decide)) (Page.idx_of_ite (fun _ => Page.idx_of_some (by decide))
    (Page.idx_of_ite (fun _ => Page.idx_of_some (by decide)) (Page.idx_of_ite (fun h => Page.idx_of_some ?_)
    (Page.idx_of_ite (fun _ => Page.idx_of_some (by decide)) (Page.idx_of_ite (fun _ => Page.idx_of_some (by decide))
    (Page.idx_of_ite (fun _ => Page.idx_of_some (by decide)) (Page.idx_of_ite (fun _ => Page.idx_of_some (by decide))
    (Page.idx_of_ite (fun _ => Page.idx_of_some (by decide)) (Page.idx_of_ite (fun _ => Page.idx_of_some (by decide))
    fun _ hp => nomatch hp))))))))))))))
  · rw [Bool.and_eq_true, decide_eq_true_eq, decide_eq_true_eq] at h
    show 3 + (page - 0x40) < 128
    omega
  · rw [Bool.and_eq_true, decide_eq_true_eq, decide_eq_true_eq] at h
    show 51 + (page - 0x80) < 128
    omega
  · rw [Bool.and_eq_true, decide_eq_true_eq] at h
    show 66 + (page / 16 - 16) < 128
    omega

theorem Dev.openPage_idx {d : Dev} {page : Nat} {m : Master} {p : Page} (h : d.openPage page m = some p) : p.idx < 128 :=
  d.page_idx page p (Option.filter_eq_some_iff.mp h).1

/-- A completed pair: the next state is what the register makes of it, with the bookkeeping behind it. -/
theorem State.writeComplement_next {s : State} {m : Master} {same : Bool} {page off v : Nat} {p : Page}
    (h : s.PairReady m same page off v p) :
    ∃ t, s.writeComplement m same page off v = .next { s with clk := s.writeClock m same page, dev := t } ∧
      ((s.paired m same page off).writePair (s.writeClock m same page) p off v).1.Touches behindParts fldsCommon t ∧
      (((s.paired m same page off).writePair (s.writeClock m same page) p off v).1.sec.reports = s.dev.sec.reports →
        ((s.paired m same page off).writePair (s.writeClock m same page) p off v).1.Touches [.regs, .ctl, .updated]
          fldsCommon t) := by
  have hidx := Dev.openPage_idx h.reaches.opened
  refine ⟨_, State.writeComplement_ready h, Dev.touches_behind _ hidx .., fun hr => ?_⟩
  have hlast := (Dev.records_noteLast ((s.paired m same page off).writePair (s.writeClock m same page) p off v).1 hidx
    ⟨m, page, off + 0x2000, 2 ^ 32 - 1 - v % 2 ^ 32, true⟩
    (if ((s.paired m same page off).writePair (s.writeClock m same page) p off v).2 then 0 else 1) m).touches
  rw [← hr, ← hlast.sec, Dev.sendRaised_same]
  exact hlast

/-- The device of a ready pair differs in the record of the write alone. -/
theorem State.touches_paired (s : State) (m : Master) (same : Bool) (page off : Nat) :
    s.dev.Touches [.ctl, .updated] [] (s.paired m same page off) := .set (.refl _) rfl

/-- The only field of a register is written by a pair alone (access WG). -/
structure Page.OneField (p : Page) (reg : Nat) (f : Fld) : Prop where
  fields : (p.fields reg).filter (fun x => p.holds x.1) = [(f, 0)]
  access : f.row.access = .wg
  inst : p.instOf f = 0
  allows : ∀ (d : Dev) v, d.allowsWrite p.blk reg v = true

/-- A completed pair of a register with one field and an effect: where the effect takes it, the field has the value. -/
theorem Dev.writePair_effect {d e : Dev} {k : Clock} {p : Page} {reg v : Nat} {f : Fld} {b : Bool} (h : p.OneField reg f)
    (hp : p.blk ≠ .pwr) (he : d.pairEffect k p reg v = some (e, b)) :
    d.writePair k p reg v = (if b then e.wr f (bitRange v f.row.hi f.row.lo) else e, b) := by
  have hw1c : [(f, 0)].filter (fun x => x.1.row.access = .w1c) = [] := by simp [h.access]
  have hwg : [(f, 0)].filter (fun x => x.1.row.access = .wg) = [(f, 0)] := by simp [h.access]
  unfold Dev.writePair
  dsimp only
  rw [h.fields, hw1c, hwg, h.allows]
  simp only [Dev.writeFields, List.foldl_nil, List.isEmpty_cons, Bool.not_true, Bool.or_self, Bool.false_eq_true, if_false, he]
  cases b with
  | false => rfl
  | true =>
    have hw : ∀ e : Dev, e.writeField p true v f 0 = e.wr f (bitRange v f.row.hi f.row.lo) := by
      intro e; simp [Dev.writeField, h.access, h.inst]
    simp only [if_true, List.foldl_cons, List.foldl_nil, hw]

/-- The next state of a completed pair of a register with one field, from what its effect makes of the device. -/
theorem State.writeComplement_effect {s : State} {m : Master} {same : Bool} {page off v : Nat} {p : Page} {f : Fld} {e : Dev}
    {b : Bool} (h : s.PairReady m same page off v p) (hf : p.OneField off f) (hp : p.blk ≠ .pwr)
    (he : (s.paired m same page off).pairEffect (s.writeClock m same page) p off v = some (e, b)) :
    ∃ t, s.writeComplement m same page off v = .next { s with clk := s.writeClock m same page, dev := t } ∧
      e.Touches behindParts (f :: fldsCommon) t ∧
      (e.sec.reports = s.dev.sec.reports → e.Touches [.regs, .ctl, .updated] (f :: fldsCommon) t) := by
  obtain ⟨t, ht, htouch, hquiet⟩ := State.writeComplement_next h
  rw [Dev.writePair_effect hf hp he] at htouch hquiet
  generalize hx : (if b then e.wr f (bitRange v f.row.hi f.row.lo) else e) = x at htouch hquiet
  have hfld : e.Touches [.regs] [f] x := hx ▸ .ite (Dev.touches_wr ..) (.refl e)
  have hsub : [f] ⊆ f :: fldsCommon := List.cons_subset_cons f (List.nil_subset _)
  refine ⟨t, ht, ?_, fun hr => ?_⟩
  · exact (hfld.mono (by decide) hsub).next htouch (by decide) (List.subset_cons_self ..)
  · exact (hfld.mono (by decide) hsub).next (hquiet (hfld.sec ▸ hr)) (by decide) (List.subset_cons_self ..)

/-! ### Reading registers after writes -/

/-- A flag is written 1, and noted as updated. -/
theorem Dev.rd_flag (d : Dev) (f g : Fld) : (d.flag f).rd g = (d.wr f 1).rd g := rfl

/-- Of fields that a block has once, a flag leaves the others. -/
theorem Dev.rd_flag_field (d : Dev) {f g : Fld} (h : g.num ≠ f.num) : (d.flag f).rd g = d.rd g := d.rd_wr_field 1 h

/-- A set flag reads as 1. -/
theorem Dev.rd_flag_same (d : Dev) (f : Fld) (h : f.width = 1) : (d.flag f).rd f = 1 := by
  rw [Dev.rd_flag, Dev.rd_wr_same, h]
  rfl

/-- A value within the field's width reads back. -/
theorem Dev.rd_wr_fits (d : Dev) (f : Fld) {v : Nat} (h : v < 2 ^ f.width) : (d.wr f v).rd f = v := by
  rw [Dev.rd_wr_same, Nat.mod_eq_of_lt h]

end Sys2Proof.Machine
end

section
/-! SUPPORT. The commands of JOB_CMD (R69 to R73, Table TYN-5). -/

-- One proof at a time: each thread that elaborates beside the others reserves its stack.
set_option Elab.async false

namespace Sys2Proof.Machine

open Sys2Proof

/-! ### JOB_CMD on its page -/

theorem Dev.openPage_job {d : Dev} {m : Master} {p : Page} (h : d.openPage 0x20 m = some p) : p = ⟨.job, 0, 2⟩ := by
  obtain ⟨hp, -⟩ := Option.filter_eq_some_iff.mp h
  exact (Option.some.inj hp).symm

theorem oneField_jobCmd : Page.OneField ⟨.job, 0, 2⟩ 0x104 .jobCmdOp where
  fields := by decide
  access := rfl
  inst := rfl
  allows _ _ := rfl

/-- What follows the effect of JOB_CMD: the field that holds the command, the record of the write, and what is sent. -/
def jobCmdBehind : List Fld := .jobCmdOp :: fldsCommon

/-- The next state of a completed command of JOB_CMD, from what the command makes of the device. -/
theorem exec_jobCommand {s : State} {m : Master} {same : Bool} {p : Page} {op : Nat} {i : Instr}
    (h : s.PairReady m same 0x20 0x104 op p)
    (hi : (i, op) ∈ ([(.load m same, 1), (.abort m same, 2), (.stop m same, 3), (.release m same, 4)] : List (Instr × Nat))) :
    ∃ t, exec i s = .next { s with clk := s.writeClock m same 0x20, dev := t } ∧
      ((s.paired m same 0x20 0x104).jobCommand (s.writeClock m same 0x20) op).1.Touches behindParts jobCmdBehind t ∧
      (((s.paired m same 0x20 0x104).jobCommand (s.writeClock m same 0x20) op).1.sec.reports = s.dev.sec.reports →
        t.sec = ((s.paired m same 0x20 0x104).jobCommand (s.writeClock m same 0x20) op).1.sec) := by
  obtain ⟨hexec, hop⟩ : exec i s = s.writeComplement m same 0x20 0x104 op ∧ op % 16 = op := by
    simp only [List.mem_cons, Prod.mk.injEq, List.not_mem_nil, or_false] at hi
    obtain ⟨rfl, rfl⟩ | ⟨rfl, rfl⟩ | ⟨rfl, rfl⟩ | ⟨rfl, rfl⟩ := hi
    · exact ⟨rfl, rfl⟩
    · exact ⟨rfl, rfl⟩
    · exact ⟨rfl, rfl⟩
    · exact ⟨rfl, rfl⟩
  obtain rfl := Dev.openPage_job h.reaches.opened
  obtain ⟨t, ht, htouch, hquiet⟩ := State.writeComplement_effect h oneField_jobCmd (by decide)
    (show _ = some (Dev.jobCommand _ _ (op % 16)) from rfl)
  rw [hop] at htouch hquiet
  exact ⟨t, hexec.trans ht, htouch, fun hr => (hquiet hr).sec⟩

/-! ### Rejection -/

theorem Dev.jobCause_le (d : Dev) (op : Nat) : d.jobCause op ≤ 4 := by
  have hload : d.loadCause ≤ 4 := by unfold Dev.loadCause; dsimp only; split_ifs <;> omega
  unfold Dev.jobCause
  split
  · omega
  · split
    · exact hload
    all_goals split <;> omega

/-- A command with a rejection cause records itself and the cause. -/
theorem Dev.jobCommand_rejected (d : Dev) (k : Clock) {op : Nat} (h1 : 1 ≤ op) (h4 : op ≤ 4) (h : d.jobCause op ≠ 0) :
    (d.jobCommand k op).1 = ((d.wr .jobCmdLast op).wr .jobCmdCause (d.jobCause op)).flag .jobCmdReject := by
  have hop : (op = 0 || decide (4 < op)) = false := by simp; omega
  simp [Dev.jobCommand, hop, h]

end Sys2Proof.Machine

namespace Sys2Proof

open Machine

/-- Settles O28: a rejected command writes its record alone, and the causes follow the job's state. -/
theorem jobCommandsRejected : Obligations.JobCommandsRejected := by
  unfold Obligations.JobCommandsRejected
  refine ⟨fun s m same p op i h hi hc => ?_, fun d op ha => by simp [Dev.jobCause, ha], fun d ha hl hp => ?_,
    fun d ha hp => by simp [Dev.jobCause, ha, hp]⟩
  · obtain ⟨t, ht, htouch, -⟩ := exec_jobCommand h hi
    have hrange : 1 ≤ op ∧ op ≤ 4 := by
      simp only [List.mem_cons, Prod.mk.injEq, List.not_mem_nil, or_false] at hi
      omega
    have hcause : (s.paired m same 0x20 0x104).jobCause op = s.dev.jobCause op := rfl
    rw [Dev.jobCommand_rejected _ _ hrange.1 hrange.2 (hcause.trans_ne hc), hcause] at htouch
    have hle := s.dev.jobCause_le op
    refine ⟨t, ht, ?_, ?_, ?_, htouch.job, htouch.image, htouch.frame, htouch.mem, htouch.cores⟩
    · rw [htouch.rd _, Dev.rd_flag_field _ (by decide), Dev.rd_wr_field _ _ (by decide), Dev.rd_wr_fits]
      show op < 2 ^ 4
      omega
    · rw [htouch.rd _, Dev.rd_flag_field _ (by decide), Dev.rd_wr_fits]
      show s.dev.jobCause op < 2 ^ 3
      omega
    · rw [htouch.rd _, Dev.rd_flag_same _ _ rfl]
  · have hjob : d.takesJobs = true → d.start.violated = false := by
      simp only [Dev.takesJobs, Bool.and_eq_true, Bool.not_eq_true', and_imp]
      exact fun _ h _ => h
    cases hv : d.start.violated with
    | false => simp [Dev.jobCause, ha, Dev.loadCause, hl, hp, hv]
    | true => simp [Dev.jobCause, ha, Dev.loadCause, hl, hp, hv, Dev.takesJobs]

end Sys2Proof
end

section
/-! SUPPORT. Accepted commands of JOB_CMD (R69 to R73, R388). -/

-- One proof at a time: each thread that elaborates beside the others reserves its stack.
set_option Elab.async false

namespace Sys2Proof.Machine

open Sys2Proof

/-! ### The command's own effect -/

/-- The device with an accepted command recorded. -/
def Dev.accepted (d : Dev) (op : Nat) : Dev := (d.wr .jobCmdLast op).wr .jobCmdCause 0

theorem Dev.touches_accepted (d : Dev) (op : Nat) : d.Touches [.regs] [.jobCmdLast, .jobCmdCause] (d.accepted op) :=
  .next (.mono (Dev.touches_wr ..)) (Dev.touches_wr ..)

theorem Dev.rd_accepted (d : Dev) {op : Nat} (h : op ≤ 4) :
    (d.accepted op).rd .jobCmdLast = op ∧ (d.accepted op).rd .jobCmdCause = 0 := by
  constructor
  · rw [Dev.accepted, Dev.rd_wr_field _ _ (by decide), Dev.rd_wr_fits]
    show op < 2 ^ 4
    omega
  · rw [Dev.accepted, Dev.rd_wr_fits]
    decide

section Accepted

variable {d : Dev} {k : Clock}

theorem Dev.jobCommand_load (h : d.jobCause 1 = 0) : (d.jobCommand k 1).1 = (d.accepted 1).startLoading := by
  simp [Dev.jobCommand, h, Dev.accepted]

theorem Dev.jobCommand_abort (h : d.jobCause 2 = 0) : (d.jobCommand k 2).1 = (d.accepted 2).startAbort k := by
  simp [Dev.jobCommand, h, Dev.accepted]

theorem Dev.jobCommand_stop (h : d.jobCause 3 = 0) (hs : d.stopValue < d.job.stop) :
    (d.jobCommand k 3).1 =
      ((d.accepted 3).wr64 .jobStopFrameLo .jobStopFrameHi d.stopValue).setStop k d.stopValue := by
  have hs' : ((d.wr .jobCmdLast 3).wr .jobCmdCause 0).stopValue < ((d.wr .jobCmdLast 3).wr .jobCmdCause 0).job.stop := hs
  simp only [Dev.jobCommand, h, Dev.accepted]
  simp only [hs', if_true]
  rfl

theorem Dev.jobCommand_release (h : d.jobCause 4 = 0) :
    (d.jobCommand k 4).1 = { (d.accepted 4).modJob fun j => { j with zeroing := true, releasedAt := some k.count } with
      sec := { (d.accepted 4).sec with slots := (d.accepted 4).sec.slots.set 3 (List.replicate 64 0) } } := by
  simp only [Dev.jobCommand, h, Dev.accepted]
  rfl

end Accepted

/-! ### LOAD -/

/-- A run of cleared fields reads zero there. -/
theorem Dev.rd_clears (l : List Fld) (d : Dev) (g : Fld) (h : g ∈ l ∨ d.rd g = 0) :
    (l.foldl (fun d f => d.wr f 0) d).rd g = 0 := by
  induction l generalizing d with
  | nil => exact h.resolve_left (List.not_mem_nil)
  | cons f t ih =>
    refine ih _ ?_
    by_cases hg : g = f
    · subst hg
      exact .inr (by rw [Dev.rd_wr_same, Nat.zero_mod])
    · refine h.imp (fun hm => (List.mem_cons.mp hm).resolve_left hg) fun hz => ?_
      rw [Dev.rd_wr_field _ _ fun e => hg (Fld.num_inj e), hz]

/-- LOAD starts anew: no image, no recorded fault, no admission result, the stop frame at all ones. -/
theorem Dev.startLoading_job (d : Dev) : d.startLoading.job.phase = .loading ∧ d.startLoading.job.stop = 2 ^ 64 - 1 ∧
    d.startLoading.image = none ∧ ∀ f ∈ loadClears, d.startLoading.rd f = 0 := by
  unfold Dev.startLoading
  extract_lets +onlyGivenNames d1 d2 w1 w2 w3 w4 d3 d4
  have h2 : d1.Touches [.regs] coreFaultFlds d2 := by
    refine .foldl (.refl d1) fun e c hc => .foldl (.refl e) fun x f hf => ?_
    have hc' : c < 48 := List.mem_range.mp hc
    exact (Dev.touches_wr x f 0 c 0).mono (by decide) (by simpa using hf)
  have hout : ∀ f ∈ loadClears, f ∉ eventFlds ∧ f ∉ coreFaultFlds ∧ f ∉ [Fld.jobStopFrameLo, .jobStopFrameHi] := by decide
  have hclear : ∀ f ∈ loadClears, d2.rd f = 0 := fun f hf => by
    rw [h2.rd f (hout f hf).2.1]
    exact Dev.rd_clears _ _ _ (.inl hf)
  clear_value d2
  have h4 : d2.Touches [.image, .frame, .twin, .gmem, .ctl, .snap, .job, .duty] [] d4 := .set (.refl d2) rfl
  have hwr := Dev.touches_setPhase (d4.wr64 .jobStopFrameLo .jobStopFrameHi (2 ^ 64 - 1)) .loading
  refine ⟨?_, ?_, ?_, fun f hf => ?_⟩
  · rw [Dev.setPhase_job]
  · rw [Dev.setPhase_job]
    rfl
  · rw [hwr.image]
    rfl
  · rw [hwr.rd f (hout f hf).1, (Dev.touches_wr64 ..).rd f (hout f hf).2.2, h4.rd f List.not_mem_nil, hclear f hf]

/-! ### STOP -/

/-- Two halves of a register pair read back the value. -/
theorem Dev.rd64_wr64 (d : Dev) {lo hi : Fld} (v : Nat) (h : lo.num ≠ hi.num) (hlo : lo.width = 32) (hhi : hi.width = 32) :
    (d.wr64 lo hi v).rd64 lo hi = v % 2 ^ 64 := by
  unfold Dev.rd64 Dev.wr64
  rw [Dev.rd_wr_field _ _ h, Dev.rd_wr_same, Dev.rd_wr_same, hlo, hhi]
  omega

theorem Dev.herdDrain_without {d : Dev} {k : Clock} (h : d.herdPart = none) : d.herdDrain k = d := by
  simp [Dev.herdDrain, h]

/-- A drain keeps the stop frame; it ends in DRAINING, or in FAULTED where the herd's last output can not be read. -/
theorem Dev.startDrain_job (d : Dev) (k : Clock) : (d.startDrain k).job.stop = d.job.stop ∧
    ((d.startDrain k).job.phase = .draining ∨ (d.herdPart ≠ none ∧ (d.startDrain k).job.phase = .faulted)) := by
  unfold Dev.startDrain
  rw [(Dev.touches_sendArm ..).job]
  generalize hx : Dev.setPhase _ JobPhase.draining = x
  have hjob : x.job.phase = .draining ∧ x.job.stop = d.job.stop := by
    rw [← hx, Dev.setPhase_job]
    exact ⟨rfl, rfl⟩
  have hherd : x.herdPart = d.herdPart := by
    unfold Dev.herdPart
    rw [← hx, (Dev.touches_setPhase ..).image]
    rfl
  by_cases hp : d.herdPart = none
  · rw [Dev.herdDrain_without (hherd.trans hp)]
    exact ⟨hjob.2, .inl hjob.1⟩
  · rcases (Dev.touches_herdDrain x k).duty with h | ⟨-, h⟩
    · rw [h]
      exact ⟨hjob.2, .inl hjob.1⟩
    · rw [h]
      exact ⟨hjob.2, .inr ⟨hp, rfl⟩⟩

/-- Without a herd part, a drain leaves memories and cores. -/
theorem Dev.startDrain_plain {d : Dev} {k : Clock} (h : d.herdPart = none) :
    (d.startDrain k).mem = d.mem ∧ (d.startDrain k).cores = d.cores := by
  have hx : ∀ j : Job → Job, ((d.modJob j).setPhase .draining).Touches sendParts [] (d.modJob j |>.setPhase .draining |>.herdDrain k |>.sendArm k) := by
    intro j
    rw [Dev.herdDrain_without (by
      rw [Dev.herdPart, (Dev.touches_setPhase ..).image]
      exact h)]
    exact .mono (Dev.touches_sendArm ..)
  unfold Dev.startDrain
  constructor
  · rw [(hx _).mem, (Dev.touches_setPhase ..).mem]
    rfl
  · rw [(hx _).cores, (Dev.touches_setPhase ..).cores]
    rfl

/-- What a new stop frame makes of the job: it drains where the frames up to it have closed. -/
theorem Dev.setStop_job (d : Dev) (k : Clock) (n : Nat) : (d.setStop k n).job.stop = n ∧
    ((d.setStop k n).job.phase = (if d.runs = true ∧ d.frame.opened = true ∧ d.frame.closed = true ∧ n ≤ d.frame.number
      then .draining else d.job.phase) ∨ (d.herdPart ≠ none ∧ (d.setStop k n).job.phase = .faulted)) ∧
    (d.herdPart = none → (d.setStop k n).mem = d.mem ∧ (d.setStop k n).cores = d.cores) := by
  unfold Dev.setStop
  generalize hx : Dev.sendArm _ k = x
  have ht : (d.modJob fun j => { j with stop := n }).Touches sendParts [] x := hx ▸ .mono (Dev.touches_sendArm ..)
  have hjob : x.job = { d.job with stop := n } := ht.job
  have hherd : x.herdPart = d.herdPart := by
    unfold Dev.herdPart
    rw [ht.image]
    rfl
  have hcond : (x.runs && x.frame.opened && x.frame.closed && decide (x.job.stop ≤ x.frame.number)) = true ↔
      d.runs = true ∧ d.frame.opened = true ∧ d.frame.closed = true ∧ n ≤ d.frame.number := by
    have hruns : x.runs = d.runs := by
      rw [Dev.runs, hjob]
      rfl
    have hframe : x.frame = d.frame := ht.frame
    have hn : x.job.stop = n := by rw [hjob]
    rw [hruns, hframe, hn]
    simp only [Bool.and_eq_true, decide_eq_true_eq, and_assoc]
  unfold Dev.drainIfStopped
  by_cases hc : d.runs = true ∧ d.frame.opened = true ∧ d.frame.closed = true ∧ n ≤ d.frame.number
  · rw [if_pos (hcond.mpr hc), if_pos hc]
    obtain ⟨hstop, hphase⟩ := x.startDrain_job k
    refine ⟨hstop.trans (by rw [hjob]), hherd ▸ hphase, fun hp => ?_⟩
    obtain ⟨hmem, hcores⟩ := Dev.startDrain_plain (k := k) (hherd.trans hp)
    exact ⟨hmem.trans ht.mem, hcores.trans ht.cores⟩
  · rw [if_neg (fun h => hc (hcond.mp h)), if_neg hc, hjob]
    exact ⟨rfl, .inl rfl, fun _ => ⟨ht.mem, ht.cores⟩⟩

end Sys2Proof.Machine

namespace Sys2Proof

open Machine

/-- Settles O27: each command's effect on the recorded device, then the bookkeeping behind it. -/
theorem jobCommandsAccepted : Obligations.JobCommandsAccepted := by
  unfold Obligations.JobCommandsAccepted
  intro s m same p op i h hi hc hs k
  obtain ⟨t, ht, htouch, hquiet⟩ := exec_jobCommand h hi
  have hp : s.dev.Touches [.ctl, .updated] [] (s.paired m same 0x20 0x104) := s.touches_paired ..
  generalize hd : s.paired m same 0x20 0x104 = d at htouch hquiet hp
  have hcause : ∀ op, s.dev.jobCause op = 0 → d.jobCause op = 0 := fun _ h => hd ▸ h
  have hstop : d.stopValue = s.dev.stopValue := hd ▸ rfl
  refine ⟨t, ht, ?_⟩
  simp only [List.mem_cons, Prod.mk.injEq, List.not_mem_nil, or_false] at hi
  obtain ⟨-, rfl⟩ | ⟨-, rfl⟩ | ⟨-, rfl⟩ | ⟨-, rfl⟩ := hi
  case inl =>
    rw [Dev.jobCommand_load (hcause 1 hc)] at htouch
    have hload := Dev.touches_startLoading (d.accepted 1)
    obtain ⟨hphase, hstop, himage, hclear⟩ := (d.accepted 1).startLoading_job
    obtain ⟨hlast, hcz⟩ := d.rd_accepted (op := 1) (by decide)
    refine ⟨fun _ => ?_, ?_, ?_, fun _ => ⟨?_, ?_, ?_, ?_, ?_⟩, nofun, nofun, nofun⟩
    · exact ⟨(htouch.mem.trans hload.mem).trans ((d.touches_accepted 1).mem.trans hp.mem),
        (htouch.cores.trans hload.cores).trans ((d.touches_accepted 1).cores.trans hp.cores)⟩
    · rw [htouch.rd _, hload.rd _, hlast]
    · rw [htouch.rd _, hload.rd _, hcz]
    · rw [htouch.job, hphase]
    · rw [htouch.image, himage]
    · rw [htouch.rd _, hclear _ (by decide)]
    · rw [htouch.rd _, hclear _ (by decide)]
    · rw [htouch.job, hstop]
  case inr.inl =>
    rw [Dev.jobCommand_abort (hcause 2 hc)] at htouch
    have habort := Dev.touches_modJob (d.accepted 2) fun j => { j with
      abort := true, faultCc := some k.cc, tearFrom := some (j.tearFrom.getD k.count) }
    obtain ⟨hlast, hcz⟩ := d.rd_accepted (op := 2) (by decide)
    refine ⟨fun _ => ?_, ?_, ?_, nofun, fun _ => ?_, nofun, nofun⟩
    · exact ⟨(htouch.mem.trans habort.mem).trans ((d.touches_accepted 2).mem.trans hp.mem),
        (htouch.cores.trans habort.cores).trans ((d.touches_accepted 2).cores.trans hp.cores)⟩
    · rw [htouch.rd _, Dev.startAbort, habort.rd _, hlast]
    · rw [htouch.rd _, Dev.startAbort, habort.rd _, hcz]
    · have hjob : t.job = { s.dev.job with
          abort := true, faultCc := some k.cc, tearFrom := some (s.dev.job.tearFrom.getD k.count) } := by
        rw [htouch.job, ← hp.job]
        rfl
      rw [Dev.runs, hjob]
      simp
  case inr.inr.inl =>
    rw [Dev.jobCommand_stop (hcause 3 hc) (by rw [hstop, hp.job]; exact hs rfl), hstop] at htouch
    have hrec := d.touches_accepted 3
    have hwr := Dev.touches_wr64 (d.accepted 3) .jobStopFrameLo .jobStopFrameHi s.dev.stopValue
    have hset := Dev.touches_setStop ((d.accepted 3).wr64 .jobStopFrameLo .jobStopFrameHi s.dev.stopValue) k s.dev.stopValue
    obtain ⟨hstop', hphase, hplain⟩ :=
      ((d.accepted 3).wr64 .jobStopFrameLo .jobStopFrameHi s.dev.stopValue).setStop_job k s.dev.stopValue
    obtain ⟨hlast, hcz⟩ := d.rd_accepted (op := 3) (by decide)
    have hrun : s.dev.job.abort = false := by
      by_contra hb
      simp [Dev.jobCause, Bool.eq_true_of_not_eq_false hb] at hc
    refine ⟨fun hn => ?_, ?_, ?_, nofun, nofun, fun _ => ⟨?_, ?_, ?_⟩, nofun⟩
    · obtain ⟨hmem, hcores⟩ := hplain ((congrArg (·.bind fun m => m.form.herd) hp.image).trans (hn.resolve_left (by decide)))
      exact ⟨(htouch.mem.trans hmem).trans (hwr.mem.trans (hrec.mem.trans hp.mem)),
        (htouch.cores.trans hcores).trans (hwr.cores.trans (hrec.cores.trans hp.cores))⟩
    · rw [htouch.rd _, hset.rd _, hwr.rd _, hlast]
    · rw [htouch.rd _, hset.rd _, hwr.rd _, hcz]
    · rw [htouch.job, hstop']
    · have h64 := (d.accepted 3).rd64_wr64 (lo := .jobStopFrameLo) (hi := .jobStopFrameHi) s.dev.stopValue (by decide) rfl rfl
      rw [← h64]
      unfold Dev.rd64
      rw [htouch.rd _, htouch.rd _, hset.rd _, hset.rd _]
    · generalize he : (d.accepted 3).wr64 .jobStopFrameLo .jobStopFrameHi s.dev.stopValue = e at hphase hwr htouch
      have hjob : e.job = s.dev.job := hwr.job.trans (hrec.job.trans hp.job)
      have hframe : e.frame = s.dev.frame := hwr.frame.trans (hrec.frame.trans hp.frame)
      have himage : e.herdPart = s.dev.herdPart :=
        congrArg (·.bind fun m => m.form.herd) (hwr.image.trans (hrec.image.trans hp.image))
      have hcond : (e.runs = true ∧ e.frame.opened = true ∧ e.frame.closed = true ∧ s.dev.stopValue ≤ e.frame.number) ↔
          (s.dev.job.phase = .running ∧ s.dev.frame.opened = true ∧ s.dev.frame.closed = true) := by
        rw [Dev.runs, hjob, hframe, Dev.stopValue, hrun]
        by_cases hr : s.dev.job.phase = .running
        · simp [hr]
        · simp [hr]
      rw [htouch.job, ← himage]
      simp only [hcond, hjob] at hphase
      exact hphase
  case inr.inr.inr =>
    rw [Dev.jobCommand_release (hcause 4 hc)] at htouch hquiet
    have hrec := d.touches_accepted 4
    have hrel : (d.accepted 4).Touches [.job, .duty, .sec] [] { (d.accepted 4).modJob fun j => { j with
        zeroing := true, releasedAt := some k.count } with
        sec := { (d.accepted 4).sec with slots := (d.accepted 4).sec.slots.set 3 (List.replicate 64 0) } } :=
      .set (.refl _) rfl
    obtain ⟨hlast, hcz⟩ := d.rd_accepted (op := 4) (by decide)
    have hjob : t.job = { s.dev.job with zeroing := true, releasedAt := some k.count } := by
      rw [htouch.job, ← hp.job]
      rfl
    have htorn : s.dev.job.phase = .torn := by
      unfold Dev.jobCause at hc
      simp only [ite_eq_left_iff, Bool.and_eq_true, decide_eq_true_eq] at hc
      by_contra hn
      simp [hn] at hc
    refine ⟨fun _ => ?_, ?_, ?_, nofun, nofun, nofun, fun _ => ⟨?_, ?_, ?_, ?_⟩⟩
    · exact ⟨(htouch.mem.trans hrel.mem).trans (hrec.mem.trans hp.mem),
        (htouch.cores.trans hrel.cores).trans (hrec.cores.trans hp.cores)⟩
    · rw [htouch.rd _, hrel.rd _, hlast]
    · rw [htouch.rd _, hrel.rd _, hcz]
    · rw [hjob, htorn]
    · rw [hjob]
    · rw [hjob]
    · have hsec : (d.accepted 4).sec.reports = s.dev.sec.reports := by rw [hrec.sec, hp.sec]
      rw [hquiet hsec]
      simp

end Sys2Proof
end

section
/-! SUPPORT. A master's write that reaches its page (R414, R418): the register's own part, with the record of the write
behind it. -/

-- One proof at a time: each thread that elaborates beside the others reserves its stack.
set_option Elab.async false

namespace Sys2Proof.Machine

open Sys2Proof

/-- The device as a master's write in its control cycle finds it. -/
def State.noted (s : State) (m : Master) (same : Bool) (page off : Nat) : Dev :=
  s.dev.noteWriteNow (s.writeClock m same page) ⟨page, countedBase off, m⟩

theorem State.touches_noted (s : State) (m : Master) (same : Bool) (page off : Nat) :
    s.dev.Touches [.ctl, .updated] [] (s.noted m same page off) := .set (.refl _) rfl

section Reaches

variable {s : State} {m : Master} {same : Bool} {page off v : Nat} {p : Page}

/-- A whole write that reaches its page, where no open sequence has run out, is the register's to handle. -/
theorem State.WriteReaches.masterWrite (h : s.WriteReaches m same page off p)
    (hg : ∀ g, s.dev.openGuard page = some g → (s.writeClock m same page).cc ≤ g.cc + 256) :
    let k := s.writeClock m same page
    let w : MasterWrite := ⟨m, page, off, v, true⟩
    s.dev.masterWrite k w = ((s.noted m same page off).handle k w p).1.noteLast p w ((s.noted m same page off).handle k w p).2 m := by
  intro k w
  have hf : (s.dev.writesNow k).filter (fun x => x.page = page) = [] := h.fresh
  have hexp : s.dev.expireGuard k page p = s.dev := by
    unfold Dev.expireGuard
    split
    · rfl
    · next g hg' => exact if_neg (Nat.not_lt.mpr (hg g hg'))
  have hend : (s.dev.openGuard page).any (fun g => decide (g.cc + 257 = k.cc)) = false := by
    cases hg' : s.dev.openGuard page with
    | none => rfl
    | some g =>
      have hin : k.cc ≤ g.cc + 256 := hg g hg'
      simp only [Option.any_some, decide_eq_false_iff_not]
      omega
  have hlock : (s.noted m same page off).lockStops w p = false := h.free v
  unfold Dev.masterWrite
  rw [show w.page = page from rfl, show w.master = m from rfl, show w.off = off from rfl, h.opened]
  simp only [hf, List.isEmpty_nil, if_true, hexp, List.find?_nil, hend, Bool.false_eq_true, if_false]
  rw [show w.whole = true from rfl]
  simp only [Bool.not_true, Bool.false_eq_true, if_false]
  rw [show s.dev.noteWriteNow k ⟨page, countedBase off, m⟩ = s.noted m same page off from rfl, hlock]
  simp only [Bool.false_eq_true, if_false]

/-- The next state of such a write. -/
theorem State.WriteReaches.next (h : s.WriteReaches m same page off p)
    (hg : ∀ g, s.dev.openGuard page = some g → (s.writeClock m same page).cc ≤ g.cc + 256) :
    ∃ t, s.write same ⟨m, page, off, v, true⟩ = .next { s with clk := s.writeClock m same page, dev := t } ∧
      ((s.noted m same page off).handle (s.writeClock m same page) ⟨m, page, off, v, true⟩ p).1.Touches behindParts
        fldsCommon t ∧
      (((s.noted m same page off).handle (s.writeClock m same page) ⟨m, page, off, v, true⟩ p).1.sec.reports =
          s.dev.sec.reports →
        t = ((s.noted m same page off).handle (s.writeClock m same page) ⟨m, page, off, v, true⟩ p).1.noteLast p
          ⟨m, page, off, v, true⟩
          ((s.noted m same page off).handle (s.writeClock m same page) ⟨m, page, off, v, true⟩ p).2 m) := by
  have hidx := Dev.openPage_idx h.opened
  have hw := h.masterWrite (v := v) hg
  refine ⟨_, State.write_eq h.clocked, ?_, fun hr => ?_⟩
  · dsimp only at hw ⊢
    rw [hw]
    exact Dev.touches_behind _ hidx ..
  · dsimp only at hw ⊢
    rw [hw, ← hr, ← (Dev.records_noteLast _ hidx ..).touches.sec, Dev.sendRaised_same]

/-- A plain write below the common registers, to a register that no pair guards, with no sequence open. -/
theorem State.WriteReaches.handle_plain (h : s.dev.openGuard page = none) (ho : off < 0x1F00) (hp : p.guarded off = false) :
    (s.noted m same page off).handle (s.writeClock m same page) ⟨m, page, off, v, true⟩ p =
      (((s.noted m same page off).writePlain (s.writeClock m same page) m page p off v).1,
        if ((s.noted m same page off).writePlain (s.writeClock m same page) m page p off v).2 then 0 else 1) := by
  have hreg : off % 0x4000 = off := by omega
  have halias : aliasOf off = 0 := by unfold aliasOf; omega
  have hb : (s.noted m same page off).breakGuard page p m = s.noted m same page off := by
    unfold Dev.breakGuard
    rw [show (s.noted m same page off).openGuard page = none from h]
  have hc : (decide (0x1F00 ≤ off) && decide (off < 0x2000)) = false := by simp; omega
  have hn : ¬ 0x2000 ≤ off := by omega
  unfold Dev.handle
  simp only [hreg, halias, hc, hb, hp, hn, Bool.false_eq_true, if_false, ne_eq, not_true_eq_false, decide_false, Bool.false_and]

end Reaches

end Sys2Proof.Machine
end

section
/-! SUPPORT. A write of JOB_STOP_FRAME_HI (R72). -/

-- One proof at a time: each thread that elaborates beside the others reserves its stack.
set_option Elab.async false

namespace Sys2Proof.Machine

open Sys2Proof

/-- The states in which a new stop frame is taken. -/
def Dev.takesStop (d : Dev) : Bool :=
  (d.job.phase = .admitted || d.job.phase = .armed || d.job.phase = .running) && !d.job.abort

theorem Dev.writePlain_stopHi (d : Dev) (k : Clock) (m : Master) (page v : Nat) :
    d.writePlain k m page ⟨.job, 0, 2⟩ 0x120 v = d.writeStopHi k v := by
  have hf : (Page.fields ⟨.job, 0, 2⟩ 0x120).filter (fun x => Page.holds ⟨.job, 0, 2⟩ x.1) = [(.jobStopFrameHi, 0)] := by
    decide
  unfold Dev.writePlain
  dsimp only
  rw [hf]
  rfl

end Sys2Proof.Machine

namespace Sys2Proof

open Machine

/-- Settles O29: the write sets the stop frame where the state takes one, and nothing else follows. -/
theorem stopFrameWrites : Obligations.StopFrameWrites := by
  unfold Obligations.StopFrameWrites
  intro s m same v p h hg j n stop
  obtain rfl := Dev.openPage_job h.opened
  obtain ⟨t, ht, htouch, -⟩ := h.next (v := v.toNat) (fun g hg' => by rw [hg] at hg'; cases hg')
  rw [State.WriteReaches.handle_plain hg (by decide) (by decide), Dev.writePlain_stopHi] at htouch
  have hp := s.touches_noted m same 0x20 0x120
  generalize s.noted m same 0x20 0x120 = d at htouch hp
  have htaken : ((j.phase = .admitted ∨ j.phase = .armed ∨ j.phase = .running) ∧ j.abort = false) ↔ d.takesStop = true := by
    simp [j, Dev.takesStop, hp.job, or_assoc]
  refine ⟨t, ht, ?_⟩
  unfold Dev.writeStopHi at htouch
  change Dev.Touches _ _ (ite (d.takesStop = true) _ _ : Dev × Bool).1 t at htouch
  by_cases hc : d.takesStop = true
  · rw [if_pos hc] at htouch
    have hn : d.rd .jobStopFrameLo + v.toNat % 2 ^ 32 * 2 ^ 32 = n := by
      rw [hp.rd _, Nat.mod_eq_of_lt v.isLt]
    have hs : (if d.job.phase = .running then max (d.rd .jobStopFrameLo + v.toNat % 2 ^ 32 * 2 ^ 32) d.frame.number
        else d.rd .jobStopFrameLo + v.toNat % 2 ^ 32 * 2 ^ 32) = stop := by
      rw [hn, hp.job, hp.frame]
    dsimp only at htouch
    rw [hs] at htouch
    have hset := Dev.touches_setStop (d.wr .jobStopFrameHi v.toNat) (s.writeClock m same 0x20) stop
    obtain ⟨hstop, hphase, hplain⟩ := (d.wr .jobStopFrameHi v.toNat).setStop_job (s.writeClock m same 0x20) stop
    have hherd : (d.wr .jobStopFrameHi v.toNat).herdPart = s.dev.herdPart :=
      congrArg (·.bind fun m => m.form.herd) hp.image
    have hruns : (d.wr .jobStopFrameHi v.toNat).runs = true ↔ j.phase = .running := by
      have habort := (htaken.mpr hc).2
      have hjob : (d.wr .jobStopFrameHi v.toNat).job = j := hp.job
      rw [Dev.runs, hjob]
      simp [habort]
    rw [if_pos (htaken.mpr hc)]
    refine ⟨fun hh => ?_, (htouch.image.trans hset.image).trans hp.image, htouch.job ▸ hstop, ?_, ?_⟩
    · obtain ⟨hmem, hcores⟩ := hplain (hherd.trans hh)
      exact ⟨(htouch.mem.trans hmem).trans hp.mem, (htouch.cores.trans hcores).trans hp.cores⟩
    · rw [htouch.rd _, hset.rd _, Dev.rd_wr_fits _ _ v.isLt]
    · have hframe : (d.wr .jobStopFrameHi v.toNat).frame = s.dev.frame := hp.frame
      have hjob : (d.wr .jobStopFrameHi v.toNat).job = j := hp.job
      rw [htouch.job, ← hherd]
      simpa only [hruns, hframe, hjob] using hphase
  · rw [if_neg hc] at htouch
    rw [if_neg fun hn => hc (htaken.mp hn)]
    exact ⟨fun _ => ⟨htouch.mem.trans hp.mem, htouch.cores.trans hp.cores⟩, htouch.image.trans hp.image,
      htouch.job.trans hp.job⟩

end Sys2Proof
end

section
/-! SUPPORT. The phases of a frame (chapter 02). -/

-- One proof at a time: each thread that elaborates beside the others reserves its stack.
set_option Elab.async false

namespace Sys2Proof.Machine

open Sys2Proof

/-! ### A command of the device at the time that it makes -/

theorem State.act_next {s : State} {w : Clock → Clock} {f : Clock → Dev → Option Dev} {d : Dev} (k : Clock)
    (hc : s.dev.clocked = true) (hw : w s.clk = k) (h : f k s.dev = some d) :
    s.act w f = .next { s with clk := k, dev := d.sendRaised s.dev.sec.reports k } := by
  subst hw
  exact State.act_some hc h

/-- Where it raises no report, nothing is sent. -/
theorem State.act_quiet {s : State} {w : Clock → Clock} {f : Clock → Dev → Option Dev} {d : Dev} (k : Clock)
    (hc : s.dev.clocked = true) (hw : w s.clk = k) (h : f k s.dev = some d) (hq : d.sec.reports = s.dev.sec.reports) :
    s.act w f = .next { s with clk := k, dev := d } := by
  rw [State.act_next k hc hw h, Dev.sendRaised_of_eq k hq]

theorem State.now_quiet {s : State} {f : Clock → Dev → Option Dev} {d : Dev} (hc : s.dev.clocked = true)
    (h : f s.clk s.dev = some d) (hq : d.sec.reports = s.dev.sec.reports) : s.now f = .next { s with dev := d } :=
  State.act_quiet (w := id) s.clk hc rfl h hq

/-! ### A frame overrun -/

/-- What a frame overrun makes of a job that it faults (R43). -/
structure Dev.Overruns (d e : Dev) (cause engine : Nat) : Prop where
  phase : e.job.phase = .faulted
  recorded : e.rd .jobStateFault = 0x60
  code : e.rd .tickFaultCode = 0x60
  cause : e.rd .tickFaultCause = cause
  engine : e.rd .tickFaultEngine = engine
  event : e.rd .tickEvOverrun = 1
  mem : e.mem = d.mem
  cores : e.cores = d.cores
  frame : e.frame = d.frame

theorem Dev.overruns (d : Dev) (k : Clock) (old : List Report) {cause engine : Nat} (hc : cause < 16)
    (he : engine < 4096) (hp : d.job.phase.faultable = true) (ha : d.job.abort = false) :
    d.Overruns ((d.overrun k cause engine).sendRaised old k) cause engine := by
  have hn : d.job.phase ≠ .faulted := by intro h; rw [h] at hp; cases hp
  obtain ⟨e, he'⟩ : ∃ e, e = (((d.flag .tickEvOverrun).wr .tickFaultCode 0x60).wr .tickFaultCause cause).wr
      .tickFaultEngine engine := ⟨_, rfl⟩
  have heq : d.overrun k cause engine = e.runFault k 0x60 cause engine 0 := by
    rw [he']
    unfold Dev.overrun Dev.tickFault
    exact congrArg (fun e : Dev => e.runFault k 0x60 cause engine 0)
      (if_pos (Bool.or_eq_true_iff.mpr (.inl (decide_eq_true hn))))
  have hjob : e.job = d.job := by rw [he']; rfl
  have hf : e.Faults (e.runFault k 0x60 cause engine 0) 0x60 :=
    Dev.runFault_first k 0x60 cause engine 0 (hjob ▸ hp) (hjob ▸ ha)
  have ht := e.touches_runFault k 0x60 cause engine 0
  rw [heq]
  generalize e.runFault k 0x60 cause engine 0 = r at hf ht
  have hs := r.touches_sendRaised old k
  have hreg : ∀ f : Fld, f ∉ faultFlds → (r.sendRaised old k).rd f = e.rd f := fun f h =>
    (hs.rd f (by simp)).trans (ht.rd f h)
  exact {
    phase := by rw [hs.job, hf.phase]
    recorded := by rw [hs.rd _, hf.recorded]; rfl
    code := by rw [hreg _ (by decide), he', Dev.rd_wr_field _ _ (by decide), Dev.rd_wr_field _ _ (by decide)]; simp; rfl
    cause := by rw [hreg _ (by decide), he', Dev.rd_wr_field _ _ (by decide)]; exact Dev.rd_wr_fits _ _ hc
    engine := by rw [hreg _ (by decide), he']; exact Dev.rd_wr_fits _ _ he
    event := by
      rw [hreg _ (by decide), he', Dev.rd_wr_field _ _ (by decide), Dev.rd_wr_field _ _ (by decide),
        Dev.rd_wr_field _ _ (by decide), Dev.rd_flag_same _ _ rfl]
    mem := by rw [hs.mem, hf.mem, he']; rfl
    cores := by rw [hs.cores, hf.cores, he']; rfl
    frame := by rw [hs.frame, hf.frame, he']; rfl }

theorem lowestEngine_lt (l : List Nat) : lowestEngine l < 4096 := by
  suffices h : ∀ (l : List Nat) (n : Nat), n < 4096 → l.foldl min n < 4096 from h l _ (by decide)
  intro l
  induction l with
  | nil => exact fun n h => h
  | cons x l ih => exact fun n h => ih _ (by omega)

/-! ### The next frame -/

/-- What FRAME_OPEN puts into the frame's record; nothing that follows changes it. -/
theorem Dev.openFrame_frame (d : Dev) (k : Clock) (n b : Nat) : (d.openFrame k n b).frame =
    ⟨.opening, true, n, b, n % (match d.image with | none => 1 | some m => m.form.slots), false, k.units, 0, none,
      false, false⟩ := by
  unfold Dev.openFrame
  extract_lets -merge +onlyGivenNames slots d1 d2 d3
  have h1 : d1.frame = ⟨.opening, true, n, b, n % slots, false, k.units, 0, none, false, false⟩ := rfl
  clear_value d1
  have h2 : d2.frame = d1.frame := by
    rw [(Dev.touches_latePromotes ..).frame, (Dev.touches_windowsAtOpen ..).frame, (Dev.touches_snapOpen ..).frame,
      (Dev.touches_freeReturning ..).frame]
  clear_value d2
  have h3 : d3.frame = d2.frame := by
    unfold d3
    split
    · exact (Dev.touches_herdBegin ..).frame
    · rw [(Dev.touches_tierOpen ..).frame, (Dev.touches_dropStale ..).frame]
  clear_value d3
  exact (Dev.touches_lsStep ..).frame.trans ((Dev.touches_lsOpen ..).frame.trans
    ((Dev.touches_markEmptySlots ..).frame.trans (h3.trans (h2.trans h1))))

/-- Cores issue from the time of `k` at the earliest, by the arithmetic clock of their die. -/
theorem Dev.issueFrom_core (d : Dev) (k : Clock) (c : Fin 48) : (d.issueFrom k).cores[c] =
    { d.cores[c] with nextAc := max d.cores[c].nextAc (d.acFrom (dieOf c) k.units) } := by
  simp [Dev.issueFrom]

/-! ### The commands -/

/-- FRAME_OPEN of a job that may fault, where the new frame cannot open: a frame overrun at the boundary. -/
theorem exec_frameOpen_overrun {s : State} {cause engine : Nat} (hc : s.dev.clocked = true)
    (ho : s.dev.frame.opened = true) (ha : s.dev.job.abort = false) (hn : cause < 16) (he : engine < 4096)
    (h : (s.dev.job.phase = .draining ∧ s.dev.job.tearFrom = none ∧ cause = 1 ∧ engine = lowestEngine s.dev.drainEngines) ∨
      (s.dev.job.phase = .running ∧ s.dev.sync.lostRun = true ∧ cause = 2 ∧
        engine = lowestEngine (if s.dev.frame.closed then [] else s.dev.busyEngines)) ∨
      (s.dev.job.phase = .running ∧ s.dev.sync.lostRun = false ∧ s.dev.frame.closed = false ∧ cause = 1 ∧
        engine = lowestEngine s.dev.busyEngines)) :
    ∃ t, exec .frameOpen s = .next { s with clk := s.clk.toCount s.dev.nextBoundary, dev := t } ∧
      s.dev.Overruns t cause engine := by
  have hp : s.dev.job.phase.faultable = true := by rcases h with ⟨hp, -⟩ | ⟨hp, -⟩ | ⟨hp, -⟩ <;> rw [hp] <;> rfl
  refine ⟨_, ?_, s.dev.overruns (s.clk.toCount s.dev.nextBoundary) s.dev.sec.reports hn he hp ha⟩
  change execFrameOpen s = _
  unfold execFrameOpen
  obtain ⟨hp, ht, rfl, rfl⟩ | ⟨hp, hl, rfl, rfl⟩ | ⟨hp, hl, hcl, rfl, rfl⟩ := h
  · exact State.act_next _ hc (by simp [ho, ha, hp, ht]) (by simp [ho, ha, hp, ht])
  · exact State.act_next _ hc (by simp [ho, ha, hp]) (by simp [ho, ha, hp, hl])
  · exact State.act_next _ hc (by simp [ho, ha, hp]) (by simp [ho, ha, hp, hl, hcl])

/-- Cores that issue from the time of `k` on. -/
def Dev.IssuesFrom (d t : Dev) (k : Clock) : Prop := ∀ c : Fin 48, t.cores[c] =
  { d.cores[c] with nextAc := max d.cores[c].nextAc (d.acFrom (dieOf c) k.units) }

theorem exec_runStart {s : State} (hc : s.dev.clocked = true) (hr : s.dev.runs = true) (ho : s.dev.frame.phase = .opening) :
    ∃ t, exec .runStart s = .next { s with clk := s.clk.toCount (s.dev.frame.boundary + 400), dev := t } ∧
      t.frame = { s.dev.frame with phase := .run } ∧
      s.dev.IssuesFrom t (s.clk.toCount (s.dev.frame.boundary + 400)) ∧ t.mem = s.dev.mem := by
  have hx : exec .runStart s = .next { s with
      clk := s.clk.toCount (s.dev.frame.boundary + 400)
      dev := (s.dev.modFrame fun f => { f with phase := .run }).issueFrom
        (s.clk.toCount (s.dev.frame.boundary + 400)) } := by
    change execRunStart s = _
    unfold execRunStart
    exact State.act_quiet _ hc (by simp [hr, ho]) (by simp [hr, ho]) rfl
  exact ⟨_, hx, rfl, fun c => Dev.issueFrom_core _ _ c, rfl⟩

theorem exec_guardStart {s : State} (hc : s.dev.clocked = true) (hr : s.dev.runs = true) (ho : s.dev.frame.opened = true)
    (hg : s.dev.frame.guardSeen = false) (hop : s.dev.frame.phase ≠ .opening) :
    exec .guardStart s = .next { s with
      clk := s.clk.toCount s.dev.guardStart
      dev := { s.dev with frame := { s.dev.frame with phase := .guardBand, guardSeen := true } } } := by
  change execGuardStart s = _
  unfold execGuardStart
  exact State.act_quiet _ hc (by simp [hr, ho, hg, hop]) (by simp [hr, ho, hg, hop, Dev.modFrame]) rfl

theorem exec_throttleStep_gates {s : State} (hc : s.dev.clocked = true) (hi : s.dev.issuing s.clk = true)
    (hb : s.dev.frame.budgetSpent = false) (ho : s.dev.overTarget = true)
    (hg : s.dev.frame.gatedCounts + 100 ≤ s.dev.guardBand - 1000) :
    ∃ t, exec .throttleStep s = .next { s with dev := t } ∧ t.issuing s.clk = false ∧
      t.frame = { s.dev.frame with gatedCounts := s.dev.frame.gatedCounts + 100, gate := some (s.clk.count + 100) } ∧
      t.cores = s.dev.cores ∧ t.mem = s.dev.mem ∧ t.regs = s.dev.regs := by
  have hx : exec .throttleStep s = .next { s with
      dev := (s.dev.count .tickThrottleCounts 100).modFrame fun f => { f with
        gatedCounts := f.gatedCounts + 100, gate := some (s.clk.count + 100) } } := by
    change execThrottleStep s = _
    unfold execThrottleStep
    exact State.now_quiet hc (by simp [hi, hb, ho, hg]) rfl
  exact ⟨_, hx, by simp [Dev.issuing, Dev.issueOpen, Dev.modFrame], rfl, rfl, rfl, rfl⟩

theorem Dev.rd_budgetSpent (d : Dev) : d.budgetSpent.rd .tickEvBudget = 1 := by
  have hflag := d.rd_flag_same .tickEvBudget rfl
  unfold Dev.budgetSpent Dev.alerting
  generalize d.flag .tickEvBudget = e at hflag
  dsimp only
  split
  · exact hflag
  · exact hflag

theorem exec_throttleStep_spent {s : State} (hc : s.dev.clocked = true) (hi : s.dev.issuing s.clk = true)
    (hb : s.dev.frame.budgetSpent = false) (ho : s.dev.overTarget = true)
    (hg : s.dev.guardBand - 1000 < s.dev.frame.gatedCounts + 100) :
    ∃ t, exec .throttleStep s = .next { s with dev := t } ∧ t.rd .tickEvBudget = 1 ∧
      t.frame = { s.dev.frame with budgetSpent := true } ∧ t.cores = s.dev.cores ∧ t.mem = s.dev.mem := by
  have ht := s.dev.touches_budgetSpent
  have hflag := s.dev.rd_budgetSpent
  have hx : exec .throttleStep s = .next { s with
      dev := s.dev.budgetSpent.modFrame fun f => { f with budgetSpent := true } } := by
    change execThrottleStep s = _
    unfold execThrottleStep
    exact State.now_quiet hc (by simp [hi, hb, ho, Nat.not_le.mpr hg]) (congrArg Sec.reports ht.sec)
  generalize s.dev.budgetSpent = b at hx ht hflag
  refine ⟨_, hx, hflag, ?_, ht.cores, ht.mem⟩
  exact congrArg (fun f : Frame => { f with budgetSpent := true }) ht.frame

theorem exec_throttleStep_none {s : State}
    (h : s.dev.pwr.watts ≤ s.dev.rd .pwrCapW ∧ s.dev.junction ≤ (4 * s.dev.rd .pwrTjTarget : Nat)) :
    exec .throttleStep s = .next s := by
  change execThrottleStep s = _
  unfold execThrottleStep
  refine State.now_none ?_
  have ho : s.dev.overTarget = false := by
    simpa only [Dev.overTarget, Bool.or_eq_false_iff, decide_eq_false_iff_not, Nat.not_lt, Int.not_lt] using h
  simp [ho]

theorem exec_throttleStepEnd {s : State} {u : Nat} (hc : s.dev.clocked = true) (hu : s.dev.frame.gate = some u) :
    ∃ t, exec .throttleStepEnd s = .next { s with clk := s.clk.toCount u, dev := t } ∧
      t.frame = { s.dev.frame with gate := none } ∧ s.dev.IssuesFrom t (s.clk.toCount u) ∧ t.mem = s.dev.mem ∧
      t.regs = s.dev.regs := by
  have hx : exec .throttleStepEnd s = .next { s with
      clk := s.clk.toCount u, dev := (s.dev.modFrame fun f => { f with gate := none }).issueFrom (s.clk.toCount u) } := by
    change execThrottleStepEnd s = _
    unfold execThrottleStepEnd
    exact State.act_quiet _ hc (by simp [hu]) (by simp [hu]) rfl
  exact ⟨_, hx, rfl, fun c => Dev.issueFrom_core _ _ c, rfl, rfl⟩

end Sys2Proof.Machine

namespace Sys2Proof

open Machine

/-- Settles O33: each command of a frame's phases, by its own branch. -/
theorem framePhases : Obligations.FramePhases := by
  unfold Obligations.FramePhases
  intro s hc overrun issuing
  have hover : ∀ {t : Dev} {cause : Nat} {engines : List Nat},
      exec .frameOpen s = .next { s with clk := s.clk.toCount s.dev.nextBoundary, dev := t } →
      s.dev.Overruns t cause (lowestEngine engines) → overrun t cause engines := fun h g =>
    ⟨h, g.phase, g.recorded, g.code, g.cause, g.engine, g.event, g.mem, g.cores, g.frame⟩
  have hlow := lowestEngine_lt
  refine ⟨fun ho hp ht ha => ?_, fun hr => ?_⟩
  · obtain ⟨t, h, g⟩ := exec_frameOpen_overrun (cause := 1) hc ho ha (by decide) (hlow _) (.inl ⟨hp, ht, rfl, rfl⟩)
    exact ⟨t, hover h g⟩
  obtain ⟨hp, ha⟩ := Dev.runs_iff.mp hr
  refine ⟨fun ho hl hcl => ?_, fun ho hl => ?_, fun ho hl hcl => ?_, fun hop => ?_, fun ho hg hop => ?_,
    fun hi hb hov hgt => ?_, fun hi hb hov hgt => ?_, fun hov => ?_, fun u hu => ?_⟩
  · have hx : exec .frameOpen s = .next { s with
        clk := s.clk.toCount s.dev.nextBoundary
        dev := (s.dev.openFrame (s.clk.toCount s.dev.nextBoundary) (s.dev.frame.number + 1)
          s.dev.nextBoundary).sendRaised s.dev.sec.reports (s.clk.toCount s.dev.nextBoundary) } := by
      change execFrameOpen s = _
      unfold execFrameOpen
      exact State.act_next _ hc (by simp [ho, ha, hp]) (by simp [ho, ha, hp, hl, hcl])
    refine ⟨_, hx, ?_⟩
    rw [(Dev.touches_sendRaised ..).frame, Dev.openFrame_frame]
    exact ⟨rfl, rfl, rfl, rfl, rfl, rfl, rfl, fun m hm => by simp [hm]⟩
  · obtain ⟨t, h, g⟩ := exec_frameOpen_overrun (cause := 2) hc ho ha (by decide) (hlow _)
      (.inr (.inl ⟨hp, hl, rfl, rfl⟩))
    exact ⟨t, hover h g⟩
  · obtain ⟨t, h, g⟩ := exec_frameOpen_overrun (cause := 1) hc ho ha (by decide) (hlow _)
      (.inr (.inr ⟨hp, hl, hcl, rfl, rfl⟩))
    exact ⟨t, hover h g⟩
  · exact exec_runStart hc hr hop
  · exact exec_guardStart hc hr ho hg hop
  · exact exec_throttleStep_gates hc hi hb hov hgt
  · exact exec_throttleStep_spent hc hi hb hov hgt
  · exact exec_throttleStep_none hov
  · exact exec_throttleStepEnd hc hu

end Sys2Proof
end

section
/-! SUPPORT. The ready offset of the herd (chapter 11). -/

-- One proof at a time: each thread that elaborates beside the others reserves its stack.
set_option Elab.async false

namespace Sys2Proof

open Machine

/-- Settles O36: the work list is due at the ready offset, where one that is late overruns the frame. -/
theorem workListDueAtReadyOffset : Obligations.WorkListDueAtReadyOffset := by
  unfold Obligations.WorkListDueAtReadyOffset
  intro s p hc hp hb ho inTime
  have hbuild : (s.dev.job.phase.faultable = true) ∧ s.dev.job.abort = false := by
    obtain h | ⟨h, ha⟩ : s.dev.runs = true ∨ (s.dev.job.phase = .draining ∧ s.dev.job.abort = false) := by
      simpa [Dev.building] using hb
    · obtain ⟨h, ha⟩ := Dev.runs_iff.mp h
      exact ⟨by rw [h]; rfl, ha⟩
    · exact ⟨by rw [h]; rfl, ha⟩
  refine ⟨fun ht => ?_, fun ht => ?_⟩
  · change execHerdReadyOffset s = _
    exact State.act_none (by simpa [hp, hb, ho] using ht)
  · have g := s.dev.overruns (s.clk.toCount (s.dev.frame.boundary + p.ready)) s.dev.sec.reports (cause := 3)
      (engine := 0xE00) (by decide) (by decide) hbuild.1 hbuild.2
    refine ⟨_, ?_, g.phase, g.recorded, g.code, g.cause, g.engine, g.event, g.mem, g.cores, g.frame⟩
    change execHerdReadyOffset s = _
    exact State.act_next _ hc (by simp [hp, hb]) (by simpa [hp, hb, ho, inTime] using ht)

end Sys2Proof
end

section
/-! SUPPORT. The SMBus target and the test access port (chapter 21). -/

-- One proof at a time: each thread that elaborates beside the others reserves its stack.
set_option Elab.async false

namespace Sys2Proof.Machine

open Sys2Proof

/-! ### The SMBus target (R459, R460) -/

/-- A transaction that is acted on. -/
theorem State.smb_takes {s : State} (f : Dev → Dev) (h : s.dev.smbOn = true)
    (hq : (f s.dev).sec.reports = s.dev.sec.reports) : s.smb true f = .next { s with dev := f s.dev } := by
  unfold State.smb
  rw [State.board_some (d := f s.dev) (by simp [h]), Dev.sendRaised_of_eq _ hq]
  rfl

/-- A transaction without supplies, or whose PEC fails. -/
theorem State.smb_drops {s : State} {pec : Bool} (f : Dev → Dev) (h : s.dev.smbOn = false ∨ pec = false) :
    s.smb pec f = .next s := by
  unfold State.smb
  refine State.board_none ?_
  rcases h with h | h <;> simp [h]

theorem exec_smbStatus_eq (s : State) (req : SmbTransaction) : exec (.smbStatus req) s = s.smb req.pecOk fun d =>
    if req.code ≠ 0x02 then (if smbCodes.contains req.code then d else d.smbAnswer [])
    else d.smbAnswer ([d.start.state.code, d.start.failCause, d.job.phase.code, d.rd .jobStateFault, d.bridgeDown.toNat,
      0, 0, 0].map (BitVec.ofNat 8)) := rfl

theorem exec_smbTemperature_eq (s : State) (pec : Bool) : exec (.smbTemperature pec) s =
    s.smb pec fun d => d.smbAnswer (leBytes 2 (untwos 16 d.junction)) := rfl

theorem exec_smbPower_eq (s : State) (pec : Bool) : exec (.smbPower pec) s =
    s.smb pec fun d => d.smbAnswer (leBytes 2 d.pwr.watts) := rfl

theorem exec_smbInventory_eq (s : State) (pec : Bool) : exec (.smbInventory pec) s =
    s.smb pec fun d => d.smbAnswer (leBytes 4 d.order.inventory ++ d.serial ++ leBytes 4 d.sec.fwSvn) := rfl

theorem exec_smbEvents_eq (s : State) (pec : Bool) : exec (.smbEvents pec) s =
    s.smb pec fun d => (d.smbAnswer (leBytes 4 d.host.events.toNat)).modIf fun h => { h with events := 0 } := rfl

theorem exec_smbAlertResponse_eq (s : State) (pec : Bool) : exec (.smbAlertResponse pec) s =
    s.smb pec fun d => if d.smbAlert then d.smbAnswer (leBytes 1 (2 * smbAddress)) else d := rfl

theorem exec_smbStartWord_eq (s : State) (w : BitVec 32) (pec : Bool) : exec (.smbStartWord w pec) s =
    s.smb pec fun d => if d.start.resetHeld then d.modStart fun x => { x with word := some w } else d.smbEvent 7 := rfl

/-- The bytes of SMB_STATUS. -/
def Dev.smbState (d : Dev) : List Byte := [BitVec.ofNat 8 d.start.state.code, BitVec.ofNat 8 d.start.failCause,
  BitVec.ofNat 8 d.job.phase.code, BitVec.ofNat 8 (d.rd .jobStateFault), if d.bridgeDown then 1 else 0, 0, 0, 0]

theorem exec_smbStatus_listed {s : State} (h : s.dev.smbOn = true) :
    exec (.smbStatus ⟨0x02, true⟩) s = .next { s with dev := s.dev.smbAnswer s.dev.smbState } := by
  have hb : [s.dev.start.state.code, s.dev.start.failCause, s.dev.job.phase.code, s.dev.rd .jobStateFault,
      s.dev.bridgeDown.toNat, 0, 0, 0].map (BitVec.ofNat 8) = s.dev.smbState := by
    unfold Dev.smbState
    cases s.dev.bridgeDown <;> rfl
  rw [exec_smbStatus_eq, State.smb_takes _ h rfl, if_neg (not_not_intro rfl), hb]

/-- A code that Table HOST-3 does not list is answered with a NACK. -/
theorem exec_smbStatus_other {s : State} {code : BitVec 8} (h : s.dev.smbOn = true) (hc : code ≠ 0x02) :
    exec (.smbStatus ⟨code, true⟩) s =
      .next (if 0x01 ≤ code.toNat ∧ code.toNat ≤ 0x06 then s else { s with dev := s.dev.smbAnswer [] }) := by
  have hlist : smbCodes.contains code = decide (0x01 ≤ code.toNat ∧ code.toNat ≤ 0x06) := by
    revert code; decide
  have hf : (fun d : Dev => if code ≠ 0x02 then (if smbCodes.contains code then d else d.smbAnswer [])
      else d.smbAnswer ([d.start.state.code, d.start.failCause, d.job.phase.code, d.rd .jobStateFault, d.bridgeDown.toNat,
        0, 0, 0].map (BitVec.ofNat 8))) =
      fun d => if 0x01 ≤ code.toNat ∧ code.toNat ≤ 0x06 then d else d.smbAnswer [] := by
    funext d
    rw [if_pos hc, hlist]
    exact ite_congr (by simp) (fun _ => rfl) fun _ => rfl
  rw [exec_smbStatus_eq]
  dsimp only
  rw [hf]
  by_cases hl : 0x01 ≤ code.toNat ∧ code.toNat ≤ 0x06
  · simp only [hl, and_self, if_true]
    exact State.smb_takes _ h rfl
  · simp only [hl, if_false]
    exact State.smb_takes _ h rfl

/-! ### The test access port (R465) -/

/-- A command of the board that raises no report. -/
theorem State.board_quiet {s : State} {f : Clock → Dev → Option Dev} {d : Dev} (h : f s.clk s.dev = some d)
    (hq : d.sec.reports = s.dev.sec.reports) : s.board id f = .next { s with dev := d } := by
  rw [State.board_some (w := id) h, Dev.sendRaised_of_eq _ hq]
  rfl

theorem Tap.ofCode_bypass (code : BitVec 8) : Tap.ofCode code = .bypass ↔ 0x05 ≤ code.toNat := by
  revert code; decide

/-- The host interface and the output of the device after a TAP instruction. -/
def Dev.tapped (d : Dev) (ir : BitVec 8) (x : Tap) (driven high : Bool) (bits : List (List Bool)) : Dev :=
  { d with host := { d.host with ir := ir, tap := x, pinsDriven := driven, pinsHigh := high }
           out := { d.out with tdo := d.out.tdo ++ bits } }

/-- The lands that a scan shifts out, by what the statement of R465 says of them. -/
theorem Dev.lands_read (d : Dev) : d.lands.length = 15 ∧ d.lands[2]? = some (!d.smbAlert) ∧
    d.lands[11]? = some (!d.start.resetHeld) ∧ d.lands[12]? = some (!d.host.perst) ∧
    d.lands[13]? = some d.start.powerGood ∧ d.lands[14]? = some (!d.thermAlert) :=
  ⟨rfl, rfl, rfl, rfl, rfl, rfl⟩

/-- The device after its lands have been shifted out and the boundary register loaded. -/
def Dev.scanned (d : Dev) (ir : BitVec 8) (x : Tap) (driven : Bool) (load : BitVec 15) (bits : List Bool) (n : Nat) : Dev :=
  { d.tapped ir x driven false [bits] with
      host := { d.host with ir := ir, tap := x, pinsDriven := driven, pinsHigh := false, boundary := load }
      free := n }

/-- A scan of the lands, as a state of the device. -/
def State.Scans (s : State) (i : Instr) (ir : BitVec 8) (x : Tap) (driven : Bool) (load : BitVec 15) : Prop :=
  ∃ bits n, exec i s = .next { s with dev := s.dev.scanned ir x driven load bits n } ∧ bits.length = 15 ∧
    bits[2]? = some (!s.dev.smbAlert) ∧ bits[11]? = some (!s.dev.start.resetHeld) ∧ bits[12]? = some (!s.dev.host.perst) ∧
    bits[13]? = some s.dev.start.powerGood ∧ bits[14]? = some (!s.dev.thermAlert)

theorem State.scans_of_exec {s : State} {i : Instr} {ir : BitVec 8} {x : Tap} {driven : Bool} {load : BitVec 15}
    (h : exec i s = .next { s with dev := (s.dev.selectTap ir x driven false).scanLands load }) :
    s.Scans i ir x driven load :=
  ⟨_, _, h, (s.dev.selectTap ir x driven false).lands_read⟩

theorem exec_bypass_eq (s : State) (code : BitVec 8) : exec (.bypass code) s =
    s.board id fun _ d => if Tap.ofCode code = .bypass then some (d.tapBypass code) else none := rfl

theorem exec_idcode_eq (s : State) : exec .idcode s = s.board id fun _ d =>
    some ((d.selectTap 0x01 .idcode false false).tapOut ((List.range 32).map idCode.getLsbD)) := rfl

theorem exec_testLogicReset_eq (s : State) : exec .testLogicReset s =
    s.board id fun _ d => some (d.selectTap 0x01 .idcode false false) := rfl

theorem exec_samplePreload_eq (s : State) (load : BitVec 15) : exec (.samplePreload load) s =
    s.board id fun _ d => some ((d.selectTap 0x02 .samplePreload false false).scanLands load) := rfl

theorem exec_extest_eq (s : State) (load : BitVec 15) : exec (.extest load) s = s.board id fun _ d =>
    some (if d.start.resetHeld then (d.selectTap 0x00 .extest true false).scanLands load else d.tapBypass 0x00) := rfl

theorem exec_clamp_eq (s : State) : exec .clamp s = s.board id fun _ d =>
    some (if d.start.resetHeld then (d.selectTap 0x03 .clamp true false).tapOut [false] else d.tapBypass 0x03) := rfl

theorem exec_highz_eq (s : State) : exec .highz s = s.board id fun _ d =>
    some (if d.start.resetHeld then (d.selectTap 0x04 .highz false true).tapOut [false] else d.tapBypass 0x04) := rfl

theorem exec_samplePreload (s : State) (load : BitVec 15) : s.Scans (.samplePreload load) 0x02 .samplePreload false load := by
  refine State.scans_of_exec ?_
  rw [exec_samplePreload_eq]
  exact State.board_quiet rfl rfl

/-- EXTEST acts while reset is held. -/
theorem exec_extest_held {s : State} (h : s.dev.start.resetHeld = true) (load : BitVec 15) :
    s.Scans (.extest load) 0x00 .extest true load := by
  refine State.scans_of_exec ?_
  rw [exec_extest_eq]
  exact State.board_quiet (congrArg some (if_pos h)) rfl

/-- A code that acts as BYPASS. -/
theorem exec_bypassed {s : State} {f : Clock → Dev → Option Dev} {code : BitVec 8}
    (h : f s.clk s.dev = some (s.dev.tapBypass code)) :
    s.board id f = .next { s with dev := s.dev.tapped code .bypass false false [[false]] } :=
  State.board_quiet h rfl

end Sys2Proof.Machine

namespace Sys2Proof

open Machine

/-- Settles O51: each transaction and each TAP instruction by its own branch. -/
theorem boardQueriesAndTestPort : Obligations.BoardQueriesAndTestPort := by
  unfold Obligations.BoardQueriesAndTestPort
  intro s d told on
  refine ⟨fun i bs hi h => ?_, fun h => ?_, fun h => ?_, fun w h => ?_, fun code h => ?_, fun code w pec h i hi => ?_, ?_⟩
  · simp only [List.mem_cons, Prod.mk.injEq, List.not_mem_nil, or_false] at hi
    obtain ⟨rfl, rfl⟩ | ⟨rfl, rfl⟩ | ⟨rfl, rfl⟩ | ⟨rfl, rfl⟩ := hi
    · exact exec_smbStatus_listed h
    · rw [exec_smbTemperature_eq, State.smb_takes _ h rfl]; rfl
    · rw [exec_smbPower_eq, State.smb_takes _ h rfl]; rfl
    · rw [exec_smbInventory_eq, State.smb_takes _ h rfl]; rfl
  · rw [exec_smbEvents_eq, State.smb_takes _ h rfl]; rfl
  · rw [exec_smbAlertResponse_eq]
    by_cases ha : s.dev.host.events = 0
    · have hn : s.dev.smbAlert = false := by simp [Dev.smbAlert, ha]
      rw [State.smb_takes _ h (by simp [hn]), if_neg (not_not_intro ha)]
      simp [hn]
    · have hn : s.dev.smbAlert = true := by simpa [Dev.smbAlert] using ha
      rw [State.smb_takes _ h (by simp [hn]; rfl), if_pos ha]
      simp [hn, told, d, Dev.smbAnswer]
  · rw [exec_smbStartWord_eq]
    by_cases hr : s.dev.start.resetHeld = true
    · rw [State.smb_takes _ h (by simp [hr, Dev.modStart]), if_pos hr, if_pos hr]
      rfl
    · rw [State.smb_takes _ h (by simp [hr, Dev.smbEvent]), if_neg hr, if_neg hr]
      rfl
  · by_cases hc : code = 0x02
    · subst hc
      exact exec_smbStatus_listed h
    · rw [exec_smbStatus_other h hc, if_neg hc]
      split <;> rfl
  · simp only [List.mem_cons, List.not_mem_nil, or_false] at hi
    obtain rfl | rfl | rfl | rfl | rfl | rfl | rfl := hi
    · rw [exec_smbStatus_eq, State.smb_drops _ h]
    · rw [exec_smbTemperature_eq, State.smb_drops _ h]
    · rw [exec_smbPower_eq, State.smb_drops _ h]
    · rw [exec_smbInventory_eq, State.smb_drops _ h]
    · rw [exec_smbEvents_eq, State.smb_drops _ h]
    · rw [exec_smbAlertResponse_eq, State.smb_drops _ h]
    · rw [exec_smbStartWord_eq, State.smb_drops _ h]
  · intro tap bypassed scans
    refine ⟨fun code => ?_, ?_, ?_, exec_samplePreload s, fun hr => ⟨exec_extest_held hr, ?_, ?_⟩,
      fun hr => ⟨fun load => ?_, ?_, ?_⟩⟩
    · rw [exec_bypass_eq]
      by_cases hc : 0x05 ≤ code.toNat
      · rw [if_pos hc]
        exact exec_bypassed (if_pos ((Tap.ofCode_bypass code).mpr hc))
      · rw [if_neg hc]
        exact State.board_none (if_neg fun h => hc ((Tap.ofCode_bypass code).mp h))
    · rw [exec_idcode_eq]
      exact State.board_quiet rfl rfl
    · rw [exec_testLogicReset_eq]
      rw [State.board_quiet (d := s.dev.selectTap 0x01 .idcode false false) rfl rfl]
      simp only [tap, List.append_nil]
      rfl
    · rw [exec_clamp_eq]
      exact State.board_quiet (congrArg some (if_pos hr)) rfl
    · rw [exec_highz_eq]
      exact State.board_quiet (congrArg some (if_pos hr)) rfl
    · rw [exec_extest_eq]
      exact exec_bypassed (congrArg some (if_neg (Bool.eq_false_iff.mp hr)))
    · rw [exec_clamp_eq]
      exact exec_bypassed (congrArg some (if_neg (Bool.eq_false_iff.mp hr)))
    · rw [exec_highz_eq]
      exact exec_bypassed (congrArg some (if_neg (Bool.eq_false_iff.mp hr)))

end Sys2Proof
end

section
/-! SUPPORT. Bytes and the numbers that they hold (R10). -/

-- One proof at a time: each thread that elaborates beside the others reserves its stack.
set_option Elab.async false

namespace Sys2Proof.Machine

open Sys2Proof

theorem length_padTo {α : Type} (x : α) (n : Nat) (l : List α) : (padTo x n l).length = n := by
  simp only [padTo, List.length_append, List.length_take, List.length_replicate]
  omega

@[simp] theorem length_slice (l : List Byte) (o n : Nat) : (slice l o n).length = n := length_padTo ..

/-- Within the list, a slice is a part of it. -/
theorem slice_of_le {l : List Byte} {o n : Nat} (h : o + n ≤ l.length) : slice l o n = (l.drop o).take n := by
  have hd : n - (l.drop o).length = 0 := by rw [List.length_drop]; omega
  rw [slice, padTo, hd, List.replicate_zero, List.append_nil]

theorem leNat_lt (l : List Byte) : leNat l < 256 ^ l.length := by
  induction l with
  | nil => exact Nat.one_pos
  | cons b l ih =>
    have hb := b.isLt
    simp only [leNat, List.length_cons, pow_succ]
    omega

theorem leNat_leBytes (n v : Nat) : leNat (leBytes n v) = v % 256 ^ n := by
  induction n generalizing v with
  | zero => simp [leBytes, leNat, Nat.mod_one]
  | succ n ih =>
    rw [leBytes, leNat, ih, pow_succ', Nat.mod_mul]
    rfl

theorem field_lt (l : List Byte) (o n : Nat) : field l o n < 256 ^ n := by
  have h := leNat_lt (slice l o n)
  rwa [length_slice] at h

/-- A field of `n` bytes fits into a register field of as many bits. -/
theorem field_lt_bits (l : List Byte) (o n : Nat) : field l o n < 2 ^ (8 * n) := by
  rw [pow_mul]
  exact field_lt l o n

/-- A write of another key leaves a key alone, whatever the defaults. -/
theorem Sparse.get_set_ne {α : Type} [DecidableEq α] (m : Sparse α) (u d v : α) {k k' : Nat} (h : k' ≠ k) :
    (Sparse.set m d k v).get u k' = m.get u k' := by
  unfold Sparse.set
  split
  · exact Sparse.get_erase_other m u h
  · exact Sparse.get_insert_other m u v h

/-- A list of pieces of one length: what follows the first `j` of them. -/
theorem drop_flatMap_of_length {α β : Type} {f : α → List β} {w : Nat} (hf : ∀ x, (f x).length = w) (l : List α) (j : Nat) :
    (l.flatMap f).drop (w * j) = (l.drop j).flatMap f := by
  induction j generalizing l with
  | zero => simp
  | succ j ih =>
    cases l with
    | nil => simp
    | cons x l =>
      rw [List.flatMap_cons, List.drop_succ_cons, ← ih l, Nat.mul_succ, Nat.add_comm, List.drop_append, hf,
        List.drop_of_length_le (by rw [hf]; omega), List.nil_append, Nat.add_sub_cancel_left]

theorem length_flatMap_of_length {α β : Type} {f : α → List β} {w : Nat} (hf : ∀ x, (f x).length = w) (l : List α) :
    (l.flatMap f).length = w * l.length := by
  induction l with
  | nil => simp
  | cons x l ih => rw [List.flatMap_cons, List.length_append, hf, ih, List.length_cons, Nat.mul_succ, Nat.add_comm]

/-- The field that holds the `j`th of equal pieces. -/
theorem field_flatMap {f : Nat → List Byte} {w : Nat} (hf : ∀ x, (f x).length = w) {n j : Nat} (h : j < n) :
    field ((List.range n).flatMap f) (w * j) w = leNat (f j) := by
  have hlen := length_flatMap_of_length hf (List.range n)
  rw [List.length_range] at hlen
  have hle : w * j + w ≤ w * n := by rw [← Nat.mul_succ]; exact Nat.mul_le_mul_left w h
  rw [field, slice_of_le (by omega), drop_flatMap_of_length hf, List.drop_eq_getElem_cons (by simpa using h), List.flatMap_cons,
    List.getElem_range, List.take_append_of_le_length (by rw [hf]), List.take_of_length_le (by rw [hf])]

end Sys2Proof.Machine
end

section
/-! SUPPORT. The flash controller (R464). -/

-- One proof at a time: each thread that elaborates beside the others reserves its stack.
set_option Elab.async false

namespace Sys2Proof.Machine

open Sys2Proof

/-! ### The bytes of the flash -/

theorem flashPut_get (m : Memory) (a : Nat) (bs : List Byte) (x : Nat) :
    Sparse.get (flashPut m a bs) (Config.flashByte x) x =
      if a ≤ x ∧ x < a + bs.length then bs.getD (x - a) 0 else Sparse.get m (Config.flashByte x) x := by
  induction bs generalizing m a with
  | nil => rw [flashPut, if_neg (by simp only [List.length_nil]; omega)]
  | cons b bs ih =>
    rw [flashPut, ih, List.length_cons]
    by_cases hx : x = a
    · subst hx
      rw [if_neg (by omega), if_pos (by omega), Nat.sub_self, Sparse.get_set_same]
      rfl
    · rw [Sparse.get_set_ne _ _ _ _ hx]
      by_cases hin : a + 1 ≤ x ∧ x < a + 1 + bs.length
      · obtain ⟨i, rfl⟩ : ∃ i, x = a + (i + 1) := ⟨x - a - 1, by omega⟩
        rw [if_pos hin, if_pos (by omega), show a + (i + 1) - (a + 1) = i from by omega, Nat.add_sub_cancel_left]
        rfl
      · rw [if_neg hin, if_neg (by omega)]

theorem Dev.flashAt_flashWrite (d : Dev) (a : Nat) (bs : List Byte) (x : Nat) : (d.flashWrite a bs).flashAt x =
    if a ≤ x ∧ x < a + bs.length then bs.getD (x - a) 0 else d.flashAt x :=
  flashPut_get ..

/-- What was written reads back. -/
theorem Dev.flashRead_flashWrite (d : Dev) (a : Nat) (bs : List Byte) : (d.flashWrite a bs).flashRead a bs.length = bs := by
  refine List.ext_getElem (by simp [Dev.flashRead]) fun i h1 h2 => ?_
  simp [Dev.flashRead, Dev.flashAt_flashWrite, h2]

theorem Dev.flashRead_congr {d e : Dev} (h : e.mem.flash = d.mem.flash) (a n : Nat) : e.flashRead a n = d.flashRead a n := by
  simp [Dev.flashRead, Dev.flashAt, h]

/-! ### HOSTIF_FLASH_CMD on its page -/

theorem Dev.openPage_hostif {d : Dev} {m : Master} {p : Page} (h : d.openPage 0x240 m = some p) : p = ⟨.hostif, 0, 80⟩ := by
  obtain ⟨hp, -⟩ := Option.filter_eq_some_iff.mp h
  have hpage : d.page 0x240 = some ⟨.hostif, 0, 80⟩ := by unfold Dev.page; cases d.order <;> rfl
  exact (Option.some.inj (hpage.symm.trans hp)).symm

theorem oneField_flashCmd : Page.OneField ⟨.hostif, 0, 80⟩ 0x104 .hostifFlashCmd where
  fields := by decide
  access := rfl
  inst := rfl
  allows _ _ := rfl

theorem Dev.flashCommand_reports (d : Dev) (v : Nat) : (d.flashCommand v).1.sec.reports = d.sec.reports :=
  congrArg Sec.reports (d.touches_flashCommand v).sec

/-- A completed command: what the command makes of the device, but for the record of the write. -/
theorem exec_flashCommand {s : State} {m : Master} {same : Bool} {p : Page} {op : Nat} {i : Instr}
    (h : s.PairReady m same 0x240 0x104 op p)
    (hi : (i, op) ∈ ([(.flashErase m same, 1), (.flashProgram m same, 2), (.flashRead m same, 3)] : List (Instr × Nat))) :
    ∃ t, exec i s = .next { s with clk := s.writeClock m same 0x240, dev := t } ∧
      ((s.paired m same 0x240 0x104).flashCommand op).1.Touches [.regs, .ctl, .updated] (.hostifFlashCmd :: fldsCommon) t := by
  have hexec : exec i s = s.writeComplement m same 0x240 0x104 op := by
    simp only [List.mem_cons, Prod.mk.injEq, List.not_mem_nil, or_false] at hi
    obtain ⟨rfl, rfl⟩ | ⟨rfl, rfl⟩ | ⟨rfl, rfl⟩ := hi
    · rfl
    · rfl
    · rfl
  obtain rfl := Dev.openPage_hostif h.reaches.opened
  obtain ⟨t, ht, -, hquiet⟩ := State.writeComplement_effect h oneField_flashCmd (by decide)
    (show _ = some (Dev.flashCommand _ op) from rfl)
  exact ⟨t, hexec.trans ht, hquiet (Dev.flashCommand_reports _ _)⟩

/-- The staged words are the fields of the staged bytes. -/
theorem Dev.staged_fields (d : Dev) : d.staged.length = 256 ∧
    ∀ j < 64, field d.staged (4 * j) 4 = d.rd .hostifFlashData 0 j % 2 ^ 32 := by
  have hlen : ∀ i, (leBytes 4 (d.rd .hostifFlashData 0 i)).length = 4 := fun i => leBytes_size _ _
  refine ⟨?_, fun j hj => ?_⟩
  · rw [Dev.staged, length_flatMap_of_length hlen, List.length_range]
  · rw [Dev.staged, field_flatMap hlen hj, leNat_leBytes]
    rfl

/-- The host interface after a command of HOSTIF_FLASH_CMD (R464). -/
theorem Dev.flashCommand_host (d : Dev) {op : Nat} (h : 1 ≤ op ∧ op ≤ 3) :
    let a := d.rd .hostifFlashAddr
    let st := d.start.state
    let may := st = .ready ∨ st = .unowned ∨ st = .failed
    let host := (d.flashCommand op).1.host
    if d.host.flash ≠ none then host = d.host
    else if ¬ may then host = { d.host with flashResult := 2 }
    else if op ≠ 3 ∧ a < 0x20000 then host = { d.host with flashResult := 1 }
    else if op = 1 ∧ a % 65536 ≠ 0 ∨ op = 2 ∧ a % 256 ≠ 0 then host = { d.host with flashResult := 3 }
    else ∃ bs, host = { d.host with flash := some ⟨op, a, bs⟩ } ∧
      (op = 2 → bs.length = 256 ∧ ∀ j < 64, field bs (4 * j) 4 = d.rd .hostifFlashData 0 j % 2 ^ 32) := by
  intro a st may host
  have hop : op % 4 = op := by omega
  have hmay : d.start.state.takesFlash = true ↔ may := by
    simp only [may, st]
    cases d.start.state <;> simp [StartState.takesFlash]
  have h0 : (decide (op = 0)) = false := decide_eq_false (by omega)
  have hn : ∀ (x : Prop) [Decidable x], (decide (op ≠ 3) && decide x) = true ↔ op ≠ 3 ∧ x := fun x _ => by
    rw [Bool.and_eq_true, decide_eq_true_eq, decide_eq_true_eq]
  have hcmd : d.flashCommand op = if d.host.flash.isSome then (d, false)
      else if !d.start.state.takesFlash then (d.flashResult 2, true)
      else if op ≠ 3 && a < 0x20000 then (d.flashResult 1, true)
      else if op ≠ 3 && a % (if op = 1 then flashBlock else 256) ≠ 0 then (d.flashResult 3, true)
      else (d.modIf fun h => { h with flash := some ⟨op, a, if op = 2 then d.staged else []⟩ }, true) := by
    unfold Dev.flashCommand
    simp only [hop, h0, Bool.false_or, a]
  have halign : op ≠ 3 ∧ a % (if op = 1 then flashBlock else 256) ≠ 0 ↔
      op = 1 ∧ a % 65536 ≠ 0 ∨ op = 2 ∧ a % 256 ≠ 0 := by
    obtain rfl | rfl | rfl : op = 1 ∨ op = 2 ∨ op = 3 := by omega
    · simp [flashBlock]
    · simp
    · simp
  unfold host
  rw [hcmd]
  cases hf : d.host.flash with
  | some c =>
    rw [if_pos (show some c ≠ none from nofun), if_pos (show (some c).isSome = true from rfl)]
  | none =>
    rw [if_neg (show ¬ (none : Option FlashCmd) ≠ none from fun h => h rfl),
      if_neg (show ¬ (none : Option FlashCmd).isSome = true from nofun)]
    by_cases hm : may
    · rw [if_neg (not_not_intro hm), if_neg (show ¬ (!d.start.state.takesFlash) = true by simp [hmay.mpr hm])]
      by_cases hlow : op ≠ 3 ∧ a < 0x20000
      · rw [if_pos hlow, if_pos ((hn _).mpr hlow)]
        rfl
      · rw [if_neg hlow, if_neg (mt (hn _).mp hlow)]
        by_cases hal : op = 1 ∧ a % 65536 ≠ 0 ∨ op = 2 ∧ a % 256 ≠ 0
        · rw [if_pos hal, if_pos ((hn _).mpr (halign.mpr hal))]
          rfl
        · rw [if_neg hal, if_neg (mt (hn _).mp (mt halign.mp hal))]
          refine ⟨_, rfl, fun h2 => ?_⟩
          rw [if_pos h2]
          exact d.staged_fields
    · rw [if_pos hm, if_pos (show (!d.start.state.takesFlash) = true by simpa using mt hmay.mp hm)]
      rfl

/-! ### FLASH_COMMAND_DONE -/

/-- The staged words of the bytes that a read brings. -/
def Dev.stageRead (d : Dev) (bs : List Byte) (n : Nat) : Dev :=
  (List.range n).foldl (fun d i => (d.wr .hostifFlashData (field bs (4 * i) 4) 0 i).noteUpdate .hostifFlashData 0 i) d

/-- Staging what was read changes registers alone. -/
theorem Dev.touches_stageRead (d : Dev) (bs : List Byte) (n : Nat) :
    d.Touches [.regs, .updated] allFlds (d.stageRead bs n) :=
  .foldl (.refl d) fun _ _ _ => .nextAny (.nextAny (.refl _) (Dev.touches_wr_any ..)) (Dev.touches_noteUpdate ..)

theorem Dev.rd_stageRead (d : Dev) (bs : List Byte) {n j : Nat} (hn : n ≤ 64) (hj : j < n) :
    (d.stageRead bs n).rd .hostifFlashData 0 j = field bs (4 * j) 4 := by
  induction n with
  | zero => omega
  | succ n ih =>
    have hs : d.stageRead bs (n + 1) = ((d.stageRead bs n).wr .hostifFlashData (field bs (4 * n) 4) 0 n).noteUpdate
        .hostifFlashData 0 n := by
      rw [Dev.stageRead, List.range_succ, List.foldl_append, List.foldl_cons, List.foldl_nil]
      rfl
    rw [hs]
    change ((d.stageRead bs n).wr .hostifFlashData (field bs (4 * n) 4) 0 n).rd .hostifFlashData 0 j = _
    by_cases hjn : j = n
    · rw [hjn, Dev.rd_wr_same]
      exact Nat.mod_eq_of_lt (field_lt_bits bs (4 * n) 4)
    · rw [Dev.rd_wr_other _ _ _ _ _ _ _ _ fun h => hjn (by simpa using (regKey_inj (by decide) (by decide) (by omega)
        (by omega) h).2.2)]
      exact ih (by omega) (by omega)

/-- The bytes of a program, and the device that has drawn the free ones of a program that fails. -/
def Dev.programmed (d : Dev) (c : FlashCmd) (ok : Bool) : List Byte × Dev :=
  if ok then (andBytes (d.flashRead c.addr 256) c.data, d) else d.freeBytes 256

theorem Dev.touches_programmed (d : Dev) (c : FlashCmd) (ok : Bool) : d.Touches [.free] [] (d.programmed c ok).2 := by
  unfold Dev.programmed
  split
  · exact .refl d
  · exact d.touches_freeBytes 256

/-- What a command that ends makes of the device (R464). -/
def Dev.flashDone (d : Dev) (c : FlashCmd) (ok : Bool) : Dev :=
  match c.op with
  | 1 => (d.flashErase c.addr).flashResult 0
  | 2 => ((d.programmed c ok).2.flashWrite c.addr (d.programmed c ok).1).flashResult
      (if (d.programmed c ok).1 == c.data && ok then 0 else 4)
  | _ => (d.stageRead (d.flashRead c.addr 256) 64).flashResult 0

theorem Dev.touches_flashDone (d : Dev) (c : FlashCmd) (ok : Bool) :
    d.Touches [.free, .mem, .host, .regs, .updated] allFlds (d.flashDone c ok) := by
  unfold Dev.flashDone
  split
  · exact .nextAny (.nextAny (.refl d) (Dev.touches_flashErase ..)) (Dev.touches_flashResult ..)
  · exact .nextAny (.nextAny (.nextAny (.refl d) (Dev.touches_programmed ..)) (Dev.touches_flashWrite ..))
      (Dev.touches_flashResult ..)
  · exact .nextAny (.nextAny (.refl d) (Dev.touches_stageRead ..)) (Dev.touches_flashResult ..)

/-- The device in which no command runs. -/
def Dev.flashFree (d : Dev) : Dev := d.modIf fun h => { h with flash := none }

theorem exec_flashCommandDone {s : State} {c : FlashCmd} (hc : s.dev.clocked = true) (h : s.dev.host.flash = some c)
    (at_ : Nat) (ok : Bool) : ∃ t, exec (.flashCommandDone at_ ok) s = .next { s with clk := s.clk.toCount at_, dev := t } ∧
      (s.dev.flashFree.flashDone c ok).Touches sendParts [] t := by
  refine ⟨(s.dev.flashFree.flashDone c ok).sendRaised s.dev.sec.reports (s.clk.toCount at_), ?_, Dev.touches_sendRaised ..⟩
  change execFlashCommandDone at_ ok s = _
  unfold execFlashCommandDone
  refine State.act_next _ hc (by simp [h]) ?_
  rw [h]
  rfl

theorem Dev.flash_flashResult (d : Dev) (n : Nat) : (d.flashResult n).host.flash = d.host.flash := rfl

theorem Dev.mem_flashResult (d : Dev) (n : Nat) : (d.flashResult n).mem = d.mem := rfl

theorem Dev.hbm_flashWrite (d : Dev) (a : Nat) (bs : List Byte) : (d.flashWrite a bs).mem.hbm = d.mem.hbm := rfl

theorem Dev.flashDone_flash (d : Dev) (c : FlashCmd) (ok : Bool) : (d.flashDone c ok).host.flash = d.host.flash := by
  unfold Dev.flashDone
  split
  · rw [Dev.flash_flashResult, (Dev.touches_flashErase ..).host]
  · rw [Dev.flash_flashResult, (Dev.touches_flashWrite ..).host, (Dev.touches_programmed ..).host]
  · rw [Dev.flash_flashResult, (Dev.touches_stageRead ..).host]

theorem Dev.flashDone_hbm (d : Dev) (c : FlashCmd) (ok : Bool) : (d.flashDone c ok).mem.hbm = d.mem.hbm := by
  unfold Dev.flashDone
  split
  · rw [Dev.mem_flashResult, Dev.flashErase, Dev.hbm_flashWrite]
  · rw [Dev.mem_flashResult, Dev.hbm_flashWrite, (Dev.touches_programmed ..).mem]
  · rw [Dev.mem_flashResult, (Dev.touches_stageRead ..).mem]

theorem Dev.flashAt_flashErase (d : Dev) (a x : Nat) :
    (d.flashErase a).flashAt x = if a ≤ x ∧ x < a + 65536 then 0xFF else d.flashAt x := by
  have hlen : (List.replicate flashBlock (0xFF : Byte)).length = 65536 := List.length_replicate
  rw [Dev.flashErase, Dev.flashAt_flashWrite, hlen]
  refine ite_congr rfl (fun h => ?_) fun _ => rfl
  rw [List.getD_eq_getElem _ _ (by rw [hlen]; omega), List.getElem_replicate]

theorem Dev.flashDone_erase (d : Dev) {c : FlashCmd} (ok : Bool) (h : c.op = 1) :
    (d.flashDone c ok).host.flashResult = 0 ∧
      ∀ x, (d.flashDone c ok).flashAt x = if c.addr ≤ x ∧ x < c.addr + 65536 then 0xFF else d.flashAt x := by
  have hdone : d.flashDone c ok = (d.flashErase c.addr).flashResult 0 := by simp only [Dev.flashDone, h]
  have hat := d.flashAt_flashErase c.addr
  obtain ⟨e, he⟩ : ∃ e, e = d.flashErase c.addr := ⟨_, rfl⟩
  rw [← he] at hdone
  simp only [← he] at hat
  rw [hdone]
  exact ⟨rfl, hat⟩

/-- A program of 256 bytes: where the flash does not fail it, the old bits are cleared where the new ones are zero. -/
theorem Dev.flashDone_program (d : Dev) {c : FlashCmd} (ok : Bool) (h : c.op = 2) (hlen : c.data.length = 256) :
    let t := d.flashDone c ok
    (∀ x, x < c.addr ∨ c.addr + 256 ≤ x → t.flashAt x = d.flashAt x) ∧ (ok = false → t.host.flashResult = 4) ∧
      (ok = true → (∀ j < 256, t.flashAt (c.addr + j) = d.flashAt (c.addr + j) &&& c.data.getD j 0) ∧
        t.host.flashResult = if t.flashRead c.addr 256 = c.data then 0 else 4) := by
  have hdone : d.flashDone c ok = ((d.programmed c ok).2.flashWrite c.addr (d.programmed c ok).1).flashResult
      (if (d.programmed c ok).1 == c.data && ok then 0 else 4) := by simp only [Dev.flashDone, h]
  have hbs : (d.programmed c ok).1.length = 256 := by
    cases ok
    · simp [Dev.programmed, Dev.freeBytes]
    · simp [Dev.programmed, andBytes, Dev.flashRead, hlen]
  have hold : ∀ x, (d.programmed c ok).2.flashAt x = d.flashAt x := fun x => by
    simp [Dev.flashAt, (d.touches_programmed c ok).mem]
  have hat : ∀ x, (d.flashDone c ok).flashAt x = if c.addr ≤ x ∧ x < c.addr + 256 then
      (d.programmed c ok).1.getD (x - c.addr) 0 else d.flashAt x := fun x => by
    rw [hdone, ← hold, ← hbs]
    exact Dev.flashAt_flashWrite _ c.addr _ x
  have hread : (d.flashDone c ok).flashRead c.addr 256 = (d.programmed c ok).1 := by
    rw [hdone, ← hbs]
    exact Dev.flashRead_flashWrite _ c.addr _
  have hres : (d.flashDone c ok).host.flashResult = if (d.programmed c ok).1 == c.data && ok then 0 else 4 := by
    rw [hdone]
    rfl
  refine ⟨fun x hx => by rw [hat, if_neg (by omega)], fun hf => by rw [hres, hf]; simp, fun hok => ⟨fun j hj => ?_, ?_⟩⟩
  · have hand : (d.programmed c ok).1 = andBytes (d.flashRead c.addr 256) c.data := by rw [Dev.programmed, if_pos hok]
    rw [hat, if_pos (by omega), Nat.add_sub_cancel_left, List.getD_eq_getElem _ _ (by omega),
      List.getD_eq_getElem _ _ (by omega)]
    simp [hand, andBytes, Dev.flashRead]
  · rw [hread, hres, hok]
    simp

/-- What the end of a read changes beside the registers. -/
theorem Dev.rd_flashResult (d : Dev) (n : Nat) (f : Fld) (i j : Nat) : (d.flashResult n).rd f i j = d.rd f i j := rfl

theorem Dev.flashDone_read (d : Dev) {c : FlashCmd} (ok : Bool) (h : c.op = 3) :
    (d.flashDone c ok).mem = d.mem ∧ (d.flashDone c ok).host.flashResult = 0 ∧
      ∀ j < 64, (d.flashDone c ok).rd .hostifFlashData 0 j = field (d.flashRead c.addr 256) (4 * j) 4 := by
  have hdone : d.flashDone c ok = (d.stageRead (d.flashRead c.addr 256) 64).flashResult 0 := by
    simp only [Dev.flashDone, h]
  rw [hdone, Dev.mem_flashResult, (d.touches_stageRead _ 64).mem]
  refine ⟨rfl, rfl, fun j hj => ?_⟩
  rw [Dev.rd_flashResult]
  exact d.rd_stageRead _ (Nat.le_refl 64) hj

end Sys2Proof.Machine

namespace Sys2Proof

open Machine

/-- Settles O53: the command by its checks, and its end by its kind. -/
theorem flashCommands : Obligations.FlashCommands := by
  unfold Obligations.FlashCommands
  refine ⟨fun s m same p op i h hi => ?_, fun s at_ ok hc => ?_⟩
  · intro a st may
    obtain ⟨t, ht, htouch⟩ := exec_flashCommand h hi
    have hop : 1 ≤ op ∧ op ≤ 3 := by
      simp only [List.mem_cons, Prod.mk.injEq, List.not_mem_nil, or_false] at hi
      omega
    have hcmd := (s.paired m same 0x240 0x104).touches_flashCommand op
    have hpair := s.touches_paired m same 0x240 0x104
    refine ⟨t, ht, ?_, ?_, ?_, ?_⟩
    · rw [htouch.mem, hcmd.mem, hpair.mem]
    · rw [htouch.cores, hcmd.cores, hpair.cores]
    · rw [htouch.job, hcmd.job, hpair.job]
    · rw [htouch.host]
      exact (s.paired m same 0x240 0x104).flashCommand_host hop
  · split
    · next hf =>
      change execFlashCommandDone at_ ok s = _
      exact State.act_none (by simp [hf])
    · next c hf =>
      obtain ⟨t, ht, hs⟩ := exec_flashCommandDone hc hf at_ ok
      have htouch := s.dev.flashFree.touches_flashDone c ok
      have hflash : ∀ x, t.flashAt x = (s.dev.flashFree.flashDone c ok).flashAt x := fun x => by simp [Dev.flashAt, hs.mem]
      refine ⟨t, ht, ?_, hs.cores.trans htouch.cores, hs.job.trans htouch.job, ?_, fun h => ?_, fun h hlen => ?_, fun h => ?_⟩
      · rw [hs.host, Dev.flashDone_flash]
        rfl
      · rw [hs.mem, Dev.flashDone_hbm]
        rfl
      · obtain ⟨hres, hat⟩ := s.dev.flashFree.flashDone_erase ok h
        exact ⟨hs.host ▸ hres, fun x => (hflash x).trans (hat x)⟩
      · obtain ⟨hout, hfail, hok⟩ := s.dev.flashFree.flashDone_program ok h hlen
        refine ⟨fun x hx => (hflash x).trans (hout x hx), fun h => hs.host ▸ hfail h, fun h => ?_⟩
        obtain ⟨hin, hres⟩ := hok h
        rw [Dev.flashRead_congr (congrArg Mem.flash hs.mem), hs.host]
        exact ⟨fun j hj => (hflash _).trans (hin j hj), hres⟩
      · obtain ⟨hmem, hres, hrd⟩ := s.dev.flashFree.flashDone_read ok h
        refine ⟨hs.mem.trans hmem, hs.host ▸ hres, fun j hj => ?_⟩
        rw [hs.reads _ 0 j (by decide) (by decide) (by omega), hrd j hj]
        rfl

end Sys2Proof
end

section
/-! SUPPORT. The control of the GMEM unit's requests (chapter 14). -/

-- One proof at a time: each thread that elaborates beside the others reserves its stack.
set_option Elab.async false

namespace Sys2Proof.Machine

open Sys2Proof

theorem Dev.openPage_gmem {d : Dev} {m : Master} {p : Page} (h : d.openPage 0xC0 m = some p) : p = ⟨.gmem, 0, 65⟩ := by
  obtain ⟨hp, -⟩ := Option.filter_eq_some_iff.mp h
  exact (Option.some.inj hp).symm

theorem oneField_winCmd : Page.OneField ⟨.gmem, 0, 65⟩ 0x1C .gmemWinCmd where
  fields := by decide
  access := rfl
  inst := rfl
  allows _ _ := rfl

theorem oneField_mgmtCancel : Page.OneField ⟨.gmem, 0, 65⟩ 0x74 .gmemMgmtCancel where
  fields := by decide
  access := rfl
  inst := rfl
  allows _ _ := rfl

/-! ### Windows (R289, R290) -/

theorem Dev.pairEffect_window (d : Dev) (k : Clock) :
    d.pairEffect k ⟨.gmem, 0, 65⟩ 0x1C 1 = some (d.windowCommand.1, d.windowCommand.2) := by
  have hc : d.pairEffect k ⟨.gmem, 0, 65⟩ 0x1C 1 = some (if 1 % 2 = 1 then d.windowCommand else (d, false)) := rfl
  rw [hc]
  exact congrArg some ((if_pos (Nat.one_mod_eq_one.mpr (by decide))).trans Prod.mk.eta.symm)

/-- A completed window command: what it makes of the device, but for the record of the write. -/
theorem exec_windowCommand {s : State} {m : Master} {same : Bool} {p : Page} (h : s.PairReady m same 0xC0 0x1C 1 p) :
    ∃ t, exec (.windowCommand m same) s = .next { s with clk := s.writeClock m same 0xC0, dev := t } ∧
      (s.paired m same 0xC0 0x1C).windowCommand.1.Touches [.regs, .ctl, .updated] (.gmemWinCmd :: fldsCommon) t := by
  obtain rfl := Dev.openPage_gmem h.reaches.opened
  obtain ⟨t, ht, -, hquiet⟩ := State.writeComplement_effect h oneField_winCmd (by decide) (Dev.pairEffect_window ..)
  exact ⟨t, ht, hquiet (congrArg Sec.reports (Dev.touches_windowCommand _).sec)⟩

/-- The entry that the window command stages. -/
def Dev.winStaged (d : Dev) : Nat := d.rd .gmemWinData 0 0 + d.rd .gmemWinData 0 1 * 2 ^ 32 + d.rd .gmemWinData 0 2 * 2 ^ 64 +
  d.rd .gmemWinData 0 3 * 2 ^ 96

/-- The frame at whose open a window command of a running job takes effect. -/
def Dev.winFrame (d : Dev) : Nat :=
  let next := if d.frame.opened then d.frame.number + 1 else 0
  if d.rd64 .gmemWinAtLo .gmemWinAtHi = 2 ^ 64 - 1 then next else max (d.rd64 .gmemWinAtLo .gmemWinAtHi) next

/-- The states in which a window command takes effect at once. -/
def Job.early (j : Job) : Prop := j.phase = .admitted ∨ j.phase = .armed

theorem Dev.windowCommand_eq (d : Dev) : d.windowCommand.1 =
    if !winLegal d.winStaged || !(decide (d.job.phase = .admitted) || decide (d.job.phase = .armed) ||
      decide (d.job.phase = .running)) then d.flag .gmemWinReject
    else if decide (d.job.phase = .admitted) || decide (d.job.phase = .armed) then d.setWindow (d.rd .gmemWinSel) d.winStaged
    else d.modGmem fun g => { g with
      changes := (g.changes.filter fun x => x.win ≠ d.rd .gmemWinSel) ++ [⟨d.rd .gmemWinSel, d.winStaged, d.winFrame⟩] } := by
  unfold Dev.windowCommand
  extract_lets -merge +onlyGivenNames e w at_ early
  have he : e = d.winStaged := rfl
  clear_value e
  subst he
  rw [apply_ite Prod.fst, apply_ite Prod.fst]
  rfl

theorem Dev.windowCommand_early {d : Dev} (hl : winLegal d.winStaged = true) (h : d.job.early) :
    d.windowCommand.1 = d.setWindow (d.rd .gmemWinSel) d.winStaged := by
  have he : (decide (d.job.phase = .admitted) || decide (d.job.phase = .armed)) = true := by simpa [Job.early] using h
  rw [Dev.windowCommand_eq, if_neg (by simp [hl, he]), if_pos he]

theorem Dev.windowCommand_running {d : Dev} (hl : winLegal d.winStaged = true) (h : d.job.phase = .running) :
    d.windowCommand.1 = d.modGmem fun g => { g with
      changes := (g.changes.filter fun x => x.win ≠ d.rd .gmemWinSel) ++ [⟨d.rd .gmemWinSel, d.winStaged, d.winFrame⟩] } := by
  rw [Dev.windowCommand_eq, if_neg (by simp [hl, h]), if_neg (by simp [h])]

theorem Dev.windowCommand_rejected {d : Dev} (h : winLegal d.winStaged = false ∨ (¬ d.job.early ∧ d.job.phase ≠ .running)) :
    d.windowCommand.1 = d.flag .gmemWinReject := by
  rw [Dev.windowCommand_eq, if_pos]
  rcases h with h | ⟨he, hr⟩
  · simp [h]
  · simp only [Job.early, not_or] at he
    simp [he, hr]

theorem Dev.window_setWindow (d : Dev) (w e v : Nat) : (d.setWindow w e).window v = if v = w then e else d.window v := by
  by_cases h : v = w
  · subst h; simp [Dev.window, Dev.setWindow, Dev.modGmem]
  · simp [Dev.window, Dev.setWindow, Dev.modGmem, h]

/-! ### Cancelling management loads (R307) -/

/-- The requests that a cancel of a tag gives up. -/
def GReq.cancelledBy (r : GReq) (tag : Nat) : Bool :=
  match r.owner with
  | .agent (some t) => tag = 0xFFFF || t = tag
  | .agent none => tag = 0xFFFF
  | _ => false

theorem GReq.cancelledBy_iff (r : GReq) (tag : Nat) : r.cancelledBy tag = true ↔
    (∃ n, r.owner = .agent (some n) ∧ (tag = 0xFFFF ∨ n = tag)) ∨ (r.owner = .agent none ∧ tag = 0xFFFF) := by
  unfold GReq.cancelledBy
  split
  · next h => simp [h]
  · next h => simp [h]
  · next h1 h2 =>
    simp only [Bool.false_eq_true, false_iff, not_or, not_exists, not_and]
    exact ⟨fun n h => absurd h (h1 n), fun h => absurd h h2⟩

theorem Dev.noteRoomWait_gmem (d : Dev) (k : Clock) :
    (d.noteRoomWait k).gmem.reqs = d.gmem.reqs ∧ (d.noteRoomWait k).gmem.cancelled = d.gmem.cancelled := by
  unfold Dev.noteRoomWait
  dsimp only
  split
  · exact ⟨rfl, rfl⟩
  · exact ⟨rfl, rfl⟩
  · exact ⟨rfl, rfl⟩

theorem exec_gmemMgmtCancel {s : State} {m : Master} {same : Bool} {v : BitVec 32} {p : Page}
    (h : s.PairReady m same 0xC0 0x74 v.toNat p) :
    ∃ t, exec (.gmemMgmtCancel m same v) s = .next { s with clk := s.writeClock m same 0xC0, dev := t } ∧
      ((s.paired m same 0xC0 0x74).mgmtCancel (s.writeClock m same 0xC0) (v.toNat % 65536)).Touches [.regs, .ctl, .updated]
        (.gmemMgmtCancel :: fldsCommon) t := by
  obtain rfl := Dev.openPage_gmem h.reaches.opened
  obtain ⟨t, ht, -, hquiet⟩ := State.writeComplement_effect h oneField_mgmtCancel (by decide)
    (show _ = some (Dev.mgmtCancel _ _ _, true) from rfl)
  exact ⟨t, ht, hquiet (congrArg Sec.reports (Dev.touches_mgmtCancel ..).sec)⟩

theorem Dev.mgmtCancel_gmem (d : Dev) (k : Clock) (tag : Nat) :
    (d.mgmtCancel k tag).gmem.reqs = d.gmem.reqs.filter (fun r => !r.cancelledBy tag) ∧
      (d.mgmtCancel k tag).gmem.cancelled = d.gmem.cancelled ++
        (d.gmem.reqs.filter fun r => r.cancelledBy tag && r.op = 0).map fun r => (r.node, r.seq) :=
  Dev.noteRoomWait_gmem _ k

/-! ### The intervals (R304) -/

theorem Dev.writePlain_gmemCfg (d : Dev) (k : Clock) (m : Master) (v : Nat) :
    d.writePlain k m 0xC0 ⟨.gmem, 0, 65⟩ 0 v = d.setGmemCfg v := by
  have hfs : takesWrite false ((Page.fields ⟨.gmem, 0, 65⟩ 0).filter fun x => Page.holds ⟨.gmem, 0, 65⟩ x.1) = true := by decide
  unfold Dev.writePlain
  dsimp only
  rw [hfs]
  rfl

/-- A legal pair of the timeout and the retry interval (R304). -/
def GmemCfgGood (v : Nat) : Prop :=
  bitRange v 15 0 ≠ 0 ∧ bitRange v 23 16 ≠ 0 ∧ 2 * bitRange v 23 16 ≤ bitRange v 15 0

theorem Dev.setGmemCfg_taken {d : Dev} {v : Nat} (hg : GmemCfgGood v) (hp : d.job.phase = .idle) :
    (d.setGmemCfg v).1 = (d.wr .gmemCfgTimeout (bitRange v 15 0)).wr .gmemCfgRetry (bitRange v 23 16) := by
  obtain ⟨ht, hr, hle⟩ := hg
  unfold Dev.setGmemCfg
  dsimp only
  rw [if_neg (by simp [ht, hr, hp]; omega)]

theorem Dev.setGmemCfg_rejected {d : Dev} {v : Nat} (h : ¬ (GmemCfgGood v ∧ d.job.phase = .idle)) :
    (d.setGmemCfg v).1 = d.flag .gmemCfgReject := by
  unfold Dev.setGmemCfg
  dsimp only
  rw [if_pos]
  by_contra hn
  simp only [Bool.or_eq_true, decide_eq_true_eq, not_or, not_not] at hn
  exact h ⟨⟨hn.1.1.1, hn.1.1.2, by omega⟩, hn.2⟩

theorem exec_gmemCfgWrite {s : State} {m : Master} {same : Bool} {v : BitVec 32} {p : Page} (h : s.WriteReaches m same 0xC0 0 p)
    (hg : s.dev.openGuard 0xC0 = none) :
    ∃ t, exec (.gmemCfgWrite m same v) s = .next { s with clk := s.writeClock m same 0xC0, dev := t } ∧
      ((s.noted m same 0xC0 0).setGmemCfg v.toNat).1.Touches [.regs, .ctl, .updated] fldsCommon t := by
  obtain rfl := Dev.openPage_gmem h.opened
  obtain ⟨t, ht, -, hquiet⟩ := h.next (v := v.toNat) (fun g hg' => by rw [hg] at hg'; cases hg')
  rw [State.WriteReaches.handle_plain hg (by decide) (by decide), Dev.writePlain_gmemCfg] at hquiet
  refine ⟨t, ht, ?_⟩
  rw [hquiet (congrArg Sec.reports (Dev.touches_setGmemCfg ..).sec)]
  exact ((Dev.records_noteLast _ (by decide) _ _ _).touches.mono (by decide) (fun _ h => h))

/-! ### Management requests (R307, R308) -/

theorem Dev.accept_gmem (d : Dev) (k : Clock) (r : GReq) :
    (d.accept k r).gmem.reqs = d.gmem.reqs ++
        [{ r with seq := d.gmem.nextOf r.mgmt r.node, retry := 0, first := k.count, sentAt := k.count }] ∧
      (d.accept k r).gmem.tag = d.gmem.tag ∧
      (d.accept k r).gmem.nextOf r.mgmt r.node = (d.gmem.nextOf r.mgmt r.node + 1) % 2 ^ 32 := by
  unfold Dev.accept
  extract_lets -merge +onlyGivenNames g n q lasts d1
  have hs : (((d1.count .gmemReqOut).countSent q).sendReq k q).gmem = d1.gmem := by
    rw [(Dev.touches_sendReq ..).gmem, (Dev.touches_countSent ..).gmem, (Dev.touches_count ..).gmem]
  rw [hs]
  refine ⟨rfl, rfl, ?_⟩
  simp only [Gmem.nextOf, d1, Dev.modGmem, List.find?_append]
  rw [List.find?_eq_none.mpr (by simp [q]; tauto), Option.none_or]
  simp [n, g, Gmem.nextOf, q]

/-- The request that a management packet makes, with its number and the count of its sending. -/
def Dev.mgmtReq (d : Dev) (p : Packet) (seq at_ : Nat) : GReq where
  mgmt := true
  node := p.dst.toNat
  seq := seq
  owner := .agent (if p.op.toNat - 0x10 = 0 then some d.gmem.tag else none)
  op := p.op.toNat - 0x10
  addr := field p.payload 0 8
  len := field p.payload 8 4
  data := (p.payload.drop 64).take (if p.op.toNat - 0x10 = 1 then field p.payload 8 4 else 0)
  aop := 0
  sa := 0
  sb := 0
  retry := 0
  first := at_
  sentAt := at_
  frame := d.frame.number

/-- A management request that can be made becomes the newest request, and a load takes the next tag. -/
theorem exec_managementRequest {s : State} {p : Packet} (hc : s.dev.clocked = true) (hop : p.op = 0x10 ∨ p.op = 0x11)
    (hnode : p.dst.toNat < 0xFFF0) (hreg : 0x4000 ≤ p.dst.toNat ∨ field p.payload 0 8 / 2 ^ 44 % 16 = 15)
    (hlen : field p.payload 8 4 ≤ gmemCarries)
    (hroom : s.dev.gmem.room 1 (if p.op = 0x11 then field p.payload 8 4 else 0) = true) :
    ∃ t, exec (.managementRequest p) s = .next { s with dev := t } ∧
      t.gmem.reqs = s.dev.gmem.reqs ++ [s.dev.mgmtReq p (s.dev.gmem.nextOf true p.dst.toNat) s.clk.count] ∧
      t.gmem.nextOf true p.dst.toNat = (s.dev.gmem.nextOf true p.dst.toNat + 1) % 2 ^ 32 ∧
      (t.gmem.tag = if p.op = 0x10 then (if s.dev.gmem.tag + 1 < 0xFFFF then s.dev.gmem.tag + 1 else 0) else s.dev.gmem.tag) ∧
      t.mem = s.dev.mem ∧ t.cores = s.dev.cores ∧ t.job = s.dev.job := by
  have hone : p.op = 0x11 ↔ p.op.toNat - 0x10 = 1 := by rcases hop with h | h <;> rw [h] <;> decide
  have hzero : p.op = 0x10 ↔ p.op.toNat - 0x10 = 0 := by rcases hop with h | h <;> rw [h] <;> decide
  simp only [hone] at hroom
  obtain ⟨hreqs, htag, hnext⟩ := s.dev.accept_gmem s.clk (s.dev.mgmtReq p 0 0)
  have htouch := s.dev.touches_accept s.clk (s.dev.mgmtReq p 0 0)
  have hexec : exec (.managementRequest p) s = .next
      { s with
        dev :=
          (if p.op.toNat - 0x10 = 0 then (s.dev.accept s.clk (s.dev.mgmtReq p 0 0)).modGmem fun g =>
            { g with tag := if g.tag + 1 ≥ 0xFFFF then 0 else g.tag + 1 }
          else s.dev.accept s.clk (s.dev.mgmtReq p 0 0)).sendRaised s.dev.sec.reports s.clk } := by
    change execManagementRequest p s = _
    unfold execManagementRequest
    refine State.now_some hc ?_
    dsimp only
    rw [if_pos]
    · rfl
    · simpa [hnode, hlen, hroom] using And.intro hop hreg
  refine ⟨_, hexec, ?_⟩
  rw [(Dev.touches_sendRaised ..).gmem, (Dev.touches_sendRaised ..).mem, (Dev.touches_sendRaised ..).cores,
    (Dev.touches_sendRaised ..).job]
  by_cases h : p.op.toNat - 0x10 = 0
  · rw [if_pos h, if_pos (hzero.mpr h)]
    refine ⟨hreqs, hnext, ?_, htouch.mem, htouch.cores, htouch.job⟩
    simp only [Dev.modGmem, htag]
    split <;> split <;> omega
  · rw [if_neg h, if_neg fun hh => h (hzero.mp hh)]
    exact ⟨hreqs, hnext, htag, htouch.mem, htouch.cores, htouch.job⟩

end Sys2Proof.Machine

namespace Sys2Proof

open Machine

/-- Settles O38: each command by the state that it meets. -/
theorem globalRequestControl : Obligations.GlobalRequestControl := by
  unfold Obligations.GlobalRequestControl
  refine ⟨fun s m same p h => ?_, fun s m same v p h => ?_, fun s m same v p h hg => ?_, fun s p hc hop => ?_⟩
  · intro e w early next at_
    obtain ⟨t, ht, htouch⟩ := exec_windowCommand h
    have hp := s.touches_paired m same 0xC0 0x1C
    have hcmd := (s.paired m same 0xC0 0x1C).touches_windowCommand
    refine ⟨t, ht, ?_, ?_, ?_, fun hl he v => ?_, fun hl hr => ?_, fun hn => ?_⟩
    · rw [htouch.mem, hcmd.mem, hp.mem]
    · rw [htouch.cores, hcmd.cores, hp.cores]
    · rw [htouch.job, hcmd.job, hp.job]
    · rw [Dev.windowCommand_early (show winLegal (s.paired m same 0xC0 0x1C).winStaged = true from hl) he] at htouch
      rw [Dev.window, htouch.gmem]
      exact Dev.window_setWindow (s.paired m same 0xC0 0x1C) _ _ v
    · rw [Dev.windowCommand_running (show winLegal (s.paired m same 0xC0 0x1C).winStaged = true from hl) hr] at htouch
      rw [htouch.gmem]
      exact ⟨rfl, rfl⟩
    · rw [Dev.windowCommand_rejected (d := s.paired m same 0xC0 0x1C) hn] at htouch
      refine ⟨htouch.gmem, ?_⟩
      rw [htouch.rd _, Dev.rd_flag_same _ _ rfl]
  · intro tag hit
    obtain ⟨t, ht, htouch⟩ := exec_gmemMgmtCancel h
    have hp := s.touches_paired m same 0xC0 0x74
    have hcmd := (s.paired m same 0xC0 0x74).touches_mgmtCancel (s.writeClock m same 0xC0) (v.toNat % 65536)
    obtain ⟨hreqs, hcan⟩ := (s.paired m same 0xC0 0x74).mgmtCancel_gmem (s.writeClock m same 0xC0) (v.toNat % 65536)
    refine ⟨t, ht, ?_, ?_, ?_, fun r => ?_, fun r hr hh h0 => ?_⟩
    · rw [htouch.mem, hcmd.mem, hp.mem]
    · rw [htouch.cores, hcmd.cores, hp.cores]
    · rw [htouch.job, hcmd.job, hp.job]
    · rw [htouch.gmem, hreqs, List.mem_filter, Bool.not_eq_true', ← Bool.not_eq_true, GReq.cancelledBy_iff]
      exact Iff.rfl
    · rw [htouch.gmem, hcan, List.mem_append]
      refine .inr (List.mem_map.mpr ⟨r, List.mem_filter.mpr ⟨hr, ?_⟩, rfl⟩)
      rw [Bool.and_eq_true, GReq.cancelledBy_iff, decide_eq_true_eq]
      exact ⟨hh, h0⟩
  · intro timeout retry good
    obtain ⟨t, ht, htouch⟩ := exec_gmemCfgWrite (v := v) h hg
    have hp := s.touches_noted m same 0xC0 0
    have hset := (s.noted m same 0xC0 0).touches_setGmemCfg v.toNat
    refine ⟨t, ht, ?_, ?_, ?_, ?_, fun hn => ?_, ?_⟩
    · rw [htouch.mem, hset.mem, hp.mem]
    · rw [htouch.cores, hset.cores, hp.cores]
    · rw [htouch.job, hset.job, hp.job]
    · rw [htouch.gmem, hset.gmem, hp.gmem]
    · rw [htouch.rd _, Dev.setGmemCfg_rejected (d := s.noted m same 0xC0 0) hn, Dev.rd_flag_same _ _ rfl]
    · split
      · next hy =>
        rw [Dev.setGmemCfg_taken (d := s.noted m same 0xC0 0) hy.1 hy.2] at htouch
        rw [htouch.rd _, htouch.rd _, Dev.rd_wr_field _ _ (by decide)]
        exact ⟨Dev.rd_wr_fits _ _ (Nat.mod_lt _ (by decide)), Dev.rd_wr_fits _ _ (Nat.mod_lt _ (by decide))⟩
      · next hn =>
        rw [Dev.setGmemCfg_rejected (d := s.noted m same 0xC0 0) hn] at htouch
        rw [htouch.rd _, htouch.rd _, Dev.rd_flag_field _ (by decide), Dev.rd_flag_field _ (by decide), hp.rd _, hp.rd _]
        exact ⟨rfl, rfl⟩
  · intro len addr node h1 h2 h3 h4
    obtain ⟨t, ht, hreqs, hnext, htag, hmem, hcores, hjob⟩ := exec_managementRequest hc hop h1 h2 h3 h4
    refine ⟨t, ht, hmem, hcores, hjob, ⟨_, hreqs, rfl, rfl, rfl, rfl, rfl, ?_⟩, hnext, htag⟩
    rcases hop with hop | hop
    · simp [Dev.mgmtReq, hop]
    · simp [Dev.mgmtReq, hop, len]

end Sys2Proof
end

section
/-! SUPPORT. What sending leaves as it is: the link layer signals (blocks, acknowledgements, credits), and the transport
passes packets on, which leave on a port or wait in its queues (chapter 15). -/

-- One proof at a time: each thread that elaborates beside the others reserves its stack.
set_option Elab.async false

namespace Sys2Proof.Machine

open Sys2Proof

/-- What sending leaves of a port. -/
structure Port.Kept (q r : Port) : Prop where
  state : r.state = q.state
  reversed : r.reversed = q.reversed
  polarity : r.polarity = q.polarity
  trainAt : r.trainAt = q.trainAt
  partner : r.partner = q.partner
  partnerValid : r.partnerValid = q.partnerValid
  rtt : r.rtt = q.rtt
  acked : r.acked = q.acked
  replays : r.replays = q.replays
  rxNext : r.rxNext = q.rxNext
  rxBytes : r.rxBytes = q.rxBytes
  sentAt : r.sentAt = q.sentAt
  gotAt : r.gotAt = q.gotAt
  queues : r.queues.length = q.queues.length

theorem Port.Kept.refl (q : Port) : q.Kept q := by constructor <;> rfl

theorem Port.Kept.trans {a b c : Port} (h : a.Kept b) (g : b.Kept c) : a.Kept c where
  state := g.state.trans h.state
  reversed := g.reversed.trans h.reversed
  polarity := g.polarity.trans h.polarity
  trainAt := g.trainAt.trans h.trainAt
  partner := g.partner.trans h.partner
  partnerValid := g.partnerValid.trans h.partnerValid
  rtt := g.rtt.trans h.rtt
  acked := g.acked.trans h.acked
  replays := g.replays.trans h.replays
  rxNext := g.rxNext.trans h.rxNext
  rxBytes := g.rxBytes.trans h.rxBytes
  sentAt := g.sentAt.trans h.sentAt
  gotAt := g.gotAt.trans h.gotAt
  queues := g.queues.trans h.queues

theorem Dev.port_modPort (d : Dev) (p i : Fin 81) (f : Port → Port) :
    (d.modPort p f).fab.ports[i] = if i = p then f d.fab.ports[p] else d.fab.ports[i] := by
  by_cases h : i = p
  · subst h; simp [Dev.modPort]
  · simp [Dev.modPort, h, Vector.getElem_set_ne, Fin.val_ne_of_ne (Ne.symm h)]

/-! ### The link layer signals -/

/-- From `d` to `e` the link layer may have sent blocks; every packet stands where it stood. -/
structure Dev.Tells (d e : Dev) : Prop where
  sends : d.Sends e
  sec : e.sec = d.sec
  port (i : Fin 81) : d.fab.ports[i].Kept e.fab.ports[i]
  queues (i : Fin 81) : e.fab.ports[i].queues = d.fab.ports[i].queues
  fab : e.fab = { d.fab with ports := e.fab.ports, residue := e.fab.residue }
  out : e.out = { d.out with blocks := e.out.blocks }
  blocks : d.out.blocks <+: e.out.blocks

theorem Dev.Tells.of_eq {d e : Dev} (h : d.Sends e) (hf : e.fab = { d.fab with residue := e.fab.residue })
    (ho : e.out = d.out) (hs : e.sec = d.sec) : d.Tells e where
  sends := h
  sec := hs
  port i := by rw [hf]; exact .refl _
  queues i := by rw [hf]
  fab := by rw [hf]
  out := by rw [ho]
  blocks := by rw [ho]

theorem Dev.Tells.refl (d : Dev) : d.Tells d := .of_eq (.refl d) rfl rfl rfl

theorem Dev.Tells.trans {a b c : Dev} (h : a.Tells b) (g : b.Tells c) : a.Tells c where
  sends := h.sends.trans g.sends
  sec := g.sec.trans h.sec
  port i := (h.port i).trans (g.port i)
  queues i := (g.queues i).trans (h.queues i)
  fab := g.fab.trans (by rw [h.fab])
  out := g.out.trans (by rw [h.out])
  blocks := h.blocks.trans g.blocks

theorem Dev.tells_modPort (d : Dev) (p : Fin 81) (f : Port → Port) (hk : d.fab.ports[p].Kept (f d.fab.ports[p]))
    (hq : (f d.fab.ports[p]).queues = d.fab.ports[p].queues) : d.Tells (d.modPort p f) where
  sends := Dev.Sends.modPort (.refl d) p f
  sec := rfl
  port i := by
    rw [Dev.port_modPort]
    split
    · next h => exact h ▸ hk
    · exact .refl _
  queues i := by
    rw [Dev.port_modPort]
    split
    · next h => exact h ▸ hq
    · rfl
  fab := rfl
  out := rfl
  blocks := List.prefix_rfl

theorem Dev.tells_emitBlock (d : Dev) (p : Fin 81) (b : LinkBlock) : d.Tells (d.emitBlock p b) where
  sends := .emitBlock (.refl d) p b
  sec := rfl
  port _ := .refl _
  queues _ := rfl
  fab := rfl
  out := rfl
  blocks := List.prefix_append ..

theorem Port.kept_afterBlock (q : Port) (k : Clock) (kind : Nat) (body : List Byte) :
    q.Kept (q.afterBlock k kind body) ∧ (q.afterBlock k kind body).queues = q.queues := by
  unfold Port.afterBlock
  split
  · exact ⟨by constructor <;> rfl, rfl⟩
  · exact ⟨by constructor <;> rfl, rfl⟩

theorem Dev.tells_sendBlock (d : Dev) (k : Clock) (p : Fin 81) (kind : Nat) (body : List Byte) :
    d.Tells (d.sendBlock k p kind body) :=
  (d.tells_emitBlock p _).trans
    (Dev.tells_modPort _ p _ (Port.kept_afterBlock _ k kind body).1 (Port.kept_afterBlock _ k kind body).2)

theorem Dev.tells_idleBlocks (k : Clock) (p : Fin 81) (n : Nat) (d : Dev) : d.Tells (Dev.idleBlocks k p n d) := by
  induction n generalizing d with
  | zero => exact .refl d
  | succ n ih =>
    rw [Dev.idleBlocks]
    split
    · exact (d.tells_sendBlock k p 2 []).trans (ih _)
    · exact .refl d

theorem Dev.tells_tell (d : Dev) (k : Clock) (p : Fin 81) : d.Tells (d.tell k p) := by
  unfold Dev.tell
  dsimp only
  split
  · exact Dev.tells_idleBlocks k p 8 d
  · exact .refl d

theorem Dev.tells_freeBuffer (d : Dev) (k : Clock) (i : QPacket) : d.Tells (d.freeBuffer k i) := by
  unfold Dev.freeBuffer
  split
  · exact .refl d
  · refine Dev.Tells.trans ?_ (Dev.tells_tell ..)
    exact d.tells_modPort _ _ (by constructor <;> rfl) rfl

theorem Dev.tells_sendData (d : Dev) (k : Clock) (p : Fin 81) : d.Tells (d.sendData k p) := by
  unfold Dev.sendData
  dsimp only
  refine (d.tells_sendBlock k p 0 (d.fab.ports[p].txBuf.take 4096)).trans (Dev.tells_modPort _ p _ ?_ rfl)
  constructor <;> rfl

theorem Dev.tells_count (d : Dev) (f : Fld) (n i j : Nat) : d.Tells (d.count f n i j) :=
  .of_eq (.count (.refl d) ..) rfl rfl rfl

theorem Dev.tells_countBytes (d : Dev) (f : Fld) (unit n i j : Nat) : d.Tells (d.countBytes f unit n i j) :=
  .of_eq (.countBytes (.refl d) ..) rfl rfl rfl

theorem Dev.tells_addWork (d : Dev) (x y n : Nat) : d.Tells (d.addWork x y n) :=
  .of_eq (.addWork (.refl d) ..) (by rw [(Dev.touches_addWork ..).fab]) (Dev.touches_addWork ..).out (Dev.touches_addWork ..).sec

theorem Dev.tells_gather (d : Dev) (l : List (Place × Nat)) (fd : Nat) : d.Tells (d.gather l fd) :=
  .of_eq (.gather (.refl d) ..) (by rw [(Dev.touches_gather ..).fab]) (Dev.touches_gather ..).out
    (Dev.touches_gather ..).sec

/-! ### The transport passes packets on -/

/-- From `d` to `e` packets may have moved on toward their ports and deliveries, and what has left or waited for a port
still has; reports may have been sent. -/
structure Dev.Mails (d e : Dev) : Prop where
  sends : d.Sends e
  port (i : Fin 81) : d.fab.ports[i].Kept e.fab.ports[i]
  fab : e.fab = { d.fab with
    ports := e.fab.ports, flowBytes := e.fab.flowBytes, txOrders := e.fab.txOrders, toDeliver := e.fab.toDeliver
    residue := e.fab.residue }
  out : e.out = { d.out with sent := e.out.sent, blocks := e.out.blocks }
  sent : d.out.sent <+: e.out.sent
  blocks : d.out.blocks <+: e.out.blocks
  deliver : d.fab.toDeliver <+: e.fab.toDeliver
  leaves (i : Fin 81) (x : Packet) : d.Leaves i x → e.Leaves i x

/-- From `d` to `e` packets may have moved on, and nothing of the security state has changed. -/
structure Dev.Passes (d e : Dev) : Prop extends Dev.Mails d e where
  sec : e.sec = d.sec

theorem Dev.Tells.sent {d e : Dev} (h : d.Tells e) : e.out.sent = d.out.sent := by rw [h.out]

theorem Dev.Tells.toDeliver {d e : Dev} (h : d.Tells e) : e.fab.toDeliver = d.fab.toDeliver := by rw [h.fab]

theorem Dev.Tells.leaves {d e : Dev} (h : d.Tells e) (i : Fin 81) (x : Packet) : e.Leaves i x ↔ d.Leaves i x := by
  unfold Dev.Leaves
  rw [h.sent, h.queues]

theorem Dev.Tells.passes {d e : Dev} (h : d.Tells e) : d.Passes e where
  sec := h.sec
  sends := h.sends
  port := h.port
  fab := h.fab.trans (by rw [h.fab])
  out := h.out.trans (by rw [h.out])
  sent := by rw [h.sent]
  blocks := h.blocks
  deliver := by rw [h.toDeliver]
  leaves i x := (h.leaves i x).mpr

theorem Dev.Passes.refl (d : Dev) : d.Passes d := (Dev.Tells.refl d).passes

theorem Dev.Mails.trans {a b c : Dev} (h : a.Mails b) (g : b.Mails c) : a.Mails c where
  sends := h.sends.trans g.sends
  port i := (h.port i).trans (g.port i)
  fab := g.fab.trans (by rw [h.fab])
  out := g.out.trans (by rw [h.out])
  sent := h.sent.trans g.sent
  blocks := h.blocks.trans g.blocks
  deliver := h.deliver.trans g.deliver
  leaves i x hx := g.leaves i x (h.leaves i x hx)

theorem Dev.Passes.trans {a b c : Dev} (h : a.Passes b) (g : b.Passes c) : a.Passes c where
  toMails := h.toMails.trans g.toMails
  sec := g.sec.trans h.sec

theorem Dev.Passes.foldl {α : Type} {f : Dev → α → Dev} (l : List α) (d : Dev) (hf : ∀ (e : Dev) x, e.Passes (f e x)) :
    d.Passes (l.foldl f d) := by
  induction l generalizing d with
  | nil => exact .refl d
  | cons x l ih => exact (hf d x).trans (ih _)

theorem mem_flatten_modifyAt_of {α : Type} {x : α} {l : List (List α)} {f : List α → List α} {v : Nat} {y : List α}
    (hy : l[v]? = some y) (hx : x ∈ f y) : x ∈ (modifyAt l v f).flatten := by
  refine List.mem_flatten.mpr ⟨f y, List.mem_iff_getElem?.mpr ⟨v, ?_⟩, hx⟩
  simp [modifyAt, hy]

/-- A packet of a queue that is changed stays, or is one of that queue that the change has left out. -/
theorem mem_flatten_modifyAt {α : Type} {x : α} {l : List (List α)} (f : List α → List α) (v : Nat) (h : x ∈ l.flatten) :
    x ∈ (modifyAt l v f).flatten ∨ ∃ y, l[v]? = some y ∧ x ∈ y ∧ x ∉ f y := by
  obtain ⟨y, hy, hx⟩ := List.mem_flatten.mp h
  obtain ⟨i, hi⟩ := List.mem_iff_getElem?.mp hy
  by_cases hv : v = i
  · subst hv
    by_cases hf : x ∈ f y
    · exact .inl (mem_flatten_modifyAt_of hi hf)
    · exact .inr ⟨y, hi, hx, hf⟩
  · refine .inl (List.mem_flatten.mpr ⟨y, List.mem_iff_getElem?.mpr ⟨i, ?_⟩, hx⟩)
    simp [modifyAt, List.getElem?_modify, hv, hi]

theorem Dev.passes_modPort (d : Dev) (p : Fin 81) (f : Port → Port) (hk : d.fab.ports[p].Kept (f d.fab.ports[p]))
    (hq : ∀ u ∈ d.fab.ports[p].queues.flatten, u ∈ (f d.fab.ports[p]).queues.flatten) : d.Passes (d.modPort p f) where
  sec := rfl
  sends := Dev.Sends.modPort (.refl d) p f
  port i := by
    rw [Dev.port_modPort]
    split
    · next h => exact h ▸ hk
    · exact .refl _
  fab := rfl
  out := rfl
  sent := List.prefix_rfl
  blocks := List.prefix_rfl
  deliver := List.prefix_rfl
  leaves i x := by
    rintro (h | ⟨u, hu, hx⟩)
    · exact .inl h
    · refine .inr ⟨u, ?_, hx⟩
      rw [Dev.port_modPort]
      split
      · next h => exact hq u (h ▸ hu)
      · exact hu

/-- Sending the head of a queue: the packet leaves the queue and is sent. -/
theorem Dev.passes_sendHead (d : Dev) (k : Clock) (p : Fin 81) (v : Nat) : d.Passes (d.sendHead k p v) := by
  unfold Dev.sendHead
  extract_lets -merge +onlyGivenNames q
  split
  · exact .refl d
  · next i hi =>
    extract_lets -merge +onlyGivenNames n q' d1 src d2 idx d3
    have hk : q.Kept q' := by constructor <;> simp [q', modifyAt]
    have h1 : (d.modPort p fun _ => q').Tells d1 := Dev.tells_freeBuffer ..
    have h2 : d.Passes d2 := {
      sec := h1.sec
      sends := .out ((Dev.Sends.modPort (.refl d) p _).trans h1.sends) _
      port := fun j => by
        refine Port.Kept.trans ?_ (h1.port j)
        rw [Dev.port_modPort]
        split
        · next h => exact h ▸ hk
        · exact .refl _
      fab := h1.passes.fab
      out := congrArg (fun o : OutBox => { o with sent := d1.out.sent ++ [(p.val, i.sent)] }) h1.passes.out
      sent := by
        change d.out.sent <+: d1.out.sent ++ _
        rw [h1.sent]
        exact List.prefix_append ..
      blocks := h1.blocks
      deliver := by
        change d.fab.toDeliver <+: d1.fab.toDeliver
        rw [h1.toDeliver]
        exact List.prefix_rfl
      leaves := fun j x => by
        have hsent : d2.out.sent = d.out.sent ++ [(p.val, i.sent)] := congrArg (· ++ _) h1.sent
        have hqueues : d2.fab.ports[j].queues = if j = p then q'.queues else d.fab.ports[j].queues := by
          refine (h1.queues j).trans ?_
          rw [Dev.port_modPort]
          split <;> rfl
        rintro (h | ⟨u, hu, rfl⟩)
        · exact .inl (hsent ▸ List.mem_append_left _ h)
        · unfold Dev.Leaves
          rw [hsent, hqueues]
          split
          · next hj =>
            subst hj
            rcases mem_flatten_modifyAt List.tail v hu with hu | ⟨y, hy, hmem, hnot⟩
            · exact .inr ⟨u, hu, rfl⟩
            · have hhead : y.head? = some i := by
                rw [Port.headOf, List.getD_eq_getElem?_getD, show q.queues[v]? = some y from hy] at hi
                exact hi
              obtain ⟨w, rfl⟩ := List.head?_eq_some_iff.mp hhead
              obtain rfl : u = i := (List.mem_cons.mp hmem).resolve_right hnot
              exact .inl (List.mem_append_right _ (List.mem_singleton_self _))
          · exact .inr ⟨u, hu, rfl⟩ }
    split
    · exact h2.trans (Dev.tells_addWork ..).passes
    · refine Dev.Passes.trans ?_ ((Dev.tells_count _ _ _ _ _).trans (Dev.tells_countBytes ..)).passes
      unfold d3
      split
      · exact h2
      · exact h2.trans (Dev.tells_addWork ..).passes

theorem Dev.passes_pumpLoop (k : Clock) (p : Fin 81) (n : Nat) (d : Dev) : d.Passes (Dev.pumpLoop k p n d) := by
  induction n generalizing d with
  | zero => exact .refl d
  | succ n ih =>
    rw [Dev.pumpLoop]
    split
    · exact .refl d
    · split
      · exact (d.tells_sendData k p).passes.trans (ih _)
      · split
        · exact (d.passes_sendHead k p _).trans (ih _)
        · split
          · exact .refl d
          · exact (d.tells_sendData k p).passes.trans (ih _)

theorem Dev.passes_pump (d : Dev) (k : Clock) (p : Fin 81) : d.Passes (d.pump k p) := by
  unfold Dev.pump
  dsimp only
  split
  · exact (Dev.passes_pumpLoop k p _ d).trans
      ((Dev.tells_modPort _ p _ (by constructor <;> rfl) rfl).trans (Dev.tells_tell ..)).passes
  · exact .refl d

theorem Dev.passes_queued (d : Dev) (p : Fin 81) (i : QPacket) :
    d.Passes (d.modPort p fun q => { q with queues := modifyAt q.queues i.packet.vc (· ++ [i]) }) := by
  refine d.passes_modPort p _ (by constructor <;> simp [modifyAt]) fun u hu => ?_
  rcases mem_flatten_modifyAt (· ++ [i]) i.packet.vc hu with hu | ⟨y, -, hy, hn⟩
  · exact hu
  · exact absurd (List.mem_append_left _ hy) hn

theorem Dev.passes_enqueue (d : Dev) (k : Clock) (p : Fin 81) (i : QPacket) : d.Passes (d.enqueue k p i) :=
  (d.passes_queued p i).trans (Dev.passes_pump ..)

theorem Packet.vc_lt (p : Packet) : p.vc < 8 := by
  have := p.chan.isLt
  unfold Packet.vc
  split <;> omega

/-- A packet that is put to a port with its eight queues leaves there. -/
theorem Dev.leaves_enqueue {d : Dev} {p : Fin 81} (hp : d.fab.ports[p].queues.length = 8) (k : Clock) (i : QPacket) :
    (d.enqueue k p i).Leaves p i.sent := by
  refine (Dev.passes_pump _ k p).leaves p _ (.inr ⟨i, ?_, rfl⟩)
  rw [Dev.port_modPort, if_pos rfl]
  exact mem_flatten_modifyAt_of (List.getElem?_eq_getElem (hp ▸ (Packet.vc_lt i.packet)))
    (List.mem_append_right _ (List.mem_singleton_self _))

theorem Dev.passes_toPort (d : Dev) (k : Clock) (i : QPacket) (l : List (Place × Nat)) (o : Fin 81) :
    d.Passes (d.toPort k i l o) := by
  unfold Dev.toPort
  dsimp only
  refine Dev.Passes.trans ?_ (Dev.passes_enqueue ..)
  split
  · exact (d.tells_gather l _).passes
  · exact .refl d

theorem Dev.leaves_toPort {d : Dev} {o : Fin 81} (h : d.fab.ports[o].queues.length = 8) (k : Clock) (i : QPacket)
    (l : List (Place × Nat)) : (d.toPort k i l o).Leaves o i.sent := by
  unfold Dev.toPort
  dsimp only
  refine Dev.leaves_enqueue ?_ k i
  split
  · rw [((d.tells_gather l _).port o).queues, h]
  · exact h

/-- A packet comes to this device's own delivery. -/
theorem Dev.passes_delivered (d : Dev) (fd : Nat) (p : Packet) :
    d.Passes { d with fab := { d.fab with toDeliver := d.fab.toDeliver ++ [(fd, p)] } } where
  sec := rfl
  sends := Dev.Sends.fab (.refl d) _
  port _ := .refl _
  fab := rfl
  out := rfl
  sent := List.prefix_rfl
  blocks := List.prefix_rfl
  deliver := List.prefix_append ..
  leaves _ _ h := h

theorem Dev.passes_routePacket (d : Dev) (k : Clock) (i : QPacket) (l : List (Place × Nat)) :
    d.Passes (d.routePacket k i l) := by
  unfold Dev.routePacket
  extract_lets -merge +onlyGivenNames i' p
  split
  · exact (d.passes_delivered ..).trans (Dev.tells_freeBuffer ..).passes
  · split
    · exact ((d.tells_count ..).trans (Dev.tells_freeBuffer ..)).passes
    · split
      · exact ((d.tells_count ..).trans (Dev.tells_freeBuffer ..)).passes
      · exact Dev.passes_toPort ..

theorem Dev.passes_arrive (d : Dev) (k : Clock) (port : Fin 81) (p : Packet) : d.Passes (d.arrive k port p) := by
  unfold Dev.arrive
  extract_lets -merge +onlyGivenNames q ends goes d1
  refine Dev.Passes.trans ?_ (Dev.passes_routePacket ..)
  unfold d1
  split
  · exact (d.tells_countBytes ..).passes
  · exact .refl d

theorem Dev.passes_flows (d : Dev) (b : Sparse Nat) (l : List TxOrder) :
    d.Passes { d with fab := { d.fab with flowBytes := b, txOrders := l } } where
  sec := rfl
  sends := Dev.Sends.fab (.refl d) _
  port _ := .refl _
  fab := rfl
  out := rfl
  sent := List.prefix_rfl
  blocks := List.prefix_rfl
  deliver := List.prefix_rfl
  leaves _ _ h := h

theorem Fab.takeOrder_snd (f : Fab) (key : Key) (node chan : Nat) :
    (f.takeOrder key node chan).2 = { f with txOrders := (f.takeOrder key node chan).2.txOrders } := by
  unfold Fab.takeOrder
  dsimp only
  split <;> rfl

theorem Dev.passes_orders (d : Dev) (key : Key) (dst chan n : Nat) :
    d.Passes { d with fab := (d.fab.takeOrder key dst chan).2.addFlow dst n } := by
  rw [Fab.takeOrder_snd]
  exact d.passes_flows ..

theorem Dev.passes_originate (d : Dev) (k : Clock) (s : Sending) (twin : Bool) : d.Passes (d.originate k s twin) := by
  unfold Dev.originate
  split
  next order f hf =>
  extract_lets -merge +onlyGivenNames fl mid p d1
  have h1 : d.Passes d1 := by
    have := d.passes_orders s.key s.dst s.chan p.payload.length
    rwa [hf] at this
  clear_value d1
  split
  · extract_lets -merge +onlyGivenNames d2
    have h2 : d1.Passes d2 := by
      unfold d2
      split
      · exact (d1.tells_gather ..).passes
      · exact .refl _
    exact (h1.trans h2).trans (Dev.passes_delivered ..)
  · split
    · split
      · exact h1.trans (Dev.tells_count ..).passes
      · exact h1.trans (Dev.passes_toPort ..)
    · exact h1.trans (Dev.passes_routePacket ..)

theorem Dev.passes_sendOneHop (d : Dev) (k : Clock) (p : Fin 81) (op : Nat) (b : List Byte) :
    d.Passes (d.sendOneHop k p op b) := by
  unfold Dev.sendOneHop
  dsimp only
  split
  · exact Dev.passes_enqueue ..
  · exact .refl d

/-! ### Routes -/

variable {d e : Dev}

theorem Dev.Mails.node (h : d.Mails e) : e.node = d.node := h.sends.rd ..

theorem Dev.Mails.usable (h : d.Mails e) (code : Nat) : e.usable code = d.usable code := by
  have hp : ∀ p : Fin 81, e.portPresent p = d.portPresent p := fun p => by simp only [Dev.portPresent, h.sends.order]
  unfold Dev.usable
  simp only [(h.port _).state, hp]

theorem Dev.Mails.choosePort (h : d.Mails e) (fd : Nat) (p : Packet) : e.choosePort fd p = d.choosePort fd p := by
  have hroute : e.route = d.route := by
    funext a b
    unfold Dev.route
    rw [h.fab]
  unfold Dev.choosePort
  simp only [hroute, funext h.usable]

theorem Dev.Originates.mono {t u : Dev} {x : Packet} (h : d.Originates t x) (g : t.Mails u) : d.Originates u x := by
  unfold Dev.Originates at h ⊢
  dsimp only at h ⊢
  split
  · next hx => exact g.deliver.subset (by rwa [if_pos hx] at h)
  · next hx =>
    rw [if_neg hx] at h
    exact fun o ho => g.leaves _ _ (h o ho)

theorem Dev.Mails.originates {t : Dev} {x : Packet} (h : d.Mails e) (g : e.Originates t x) : d.Originates t x := by
  unfold Dev.Originates at g ⊢
  rw [h.node] at g
  simpa only [h.choosePort] using g

theorem Dev.Mails.queues (h : d.Mails e) (hq : ∀ i : Fin 81, d.fab.ports[i].queues.length = 8) (i : Fin 81) :
    e.fab.ports[i].queues.length = 8 := (h.port i).queues.trans (hq i)

/-! ### The packets that a device makes -/

/-- The packet that a sending makes. -/
def Dev.packetOf (d : Dev) (s : Sending) : Packet :=
  let fl := s.flowlet.getD ((d.fab.takeOrder s.key s.dst s.chan).2.flowlet s.dst)
  d.makePacket s (if s.dst = d.node then 0xFFFF else d.chooseMid s.key s.dst fl) (d.fab.takeOrder s.key s.dst s.chan).1 fl

theorem Fab.flowlet_takeOrder (f : Fab) (key : Key) (dst chan node : Nat) :
    (f.takeOrder key dst chan).2.flowlet node = f.flowlet node := by
  rw [Fab.takeOrder_snd]
  rfl

theorem Dev.mails_sec (d : Dev) (x : Sec) : d.Mails { d with sec := x } where
  sends := Dev.Sends.sec (.refl d) x
  port _ := .refl _
  fab := rfl
  out := rfl
  sent := List.prefix_rfl
  blocks := List.prefix_rfl
  deliver := List.prefix_rfl
  leaves _ _ h := h

theorem Dev.passes_agentSend (d : Dev) (k : Clock) (op : Nat) (b : List Byte) : d.Passes (d.agentSend k op b) :=
  d.passes_originate ..

theorem Dev.mails_sendReports (d : Dev) (k : Clock) : d.Mails (d.sendReports k) := by
  have key : ∀ (l : List Report) (x : Dev × List Report), d.Passes x.1 →
      d.Passes (l.foldl (fun (a : Dev × List Report) r =>
        if r.orders.isEmpty then
          let (e, r) := a.1.sendReport k r
          (e, a.2 ++ [r])
        else (a.1, a.2 ++ [r])) x).1 := by
    intro l
    induction l with
    | nil => exact fun _ hx => hx
    | cons r l ih =>
      intro x hx
      refine ih _ ?_
      dsimp only
      split
      · exact hx.trans (Dev.passes_agentSend ..)
      · exact hx
  unfold Dev.sendReports
  split
  · exact (Dev.Passes.refl d).toMails
  · exact (key _ (d, []) (.refl d)).toMails.trans (Dev.mails_sec ..)

theorem Dev.mails_sendRaised (d : Dev) (old : List Report) (k : Clock) : d.Mails (d.sendRaised old k) := by
  unfold Dev.sendRaised
  split
  · exact (Dev.Passes.refl d).toMails
  · exact d.mails_sendReports k

/-- What the header of a packet says that a device makes. -/
theorem Dev.makePacket_header (d : Dev) (s : Sending) (mid order fl : Nat) :
    (d.makePacket s mid order fl).dst = BitVec.ofNat 16 s.dst ∧ (d.makePacket s mid order fl).hops = 0 ∧
      (d.makePacket s mid order fl).chan = BitVec.ofNat 2 s.chan ∧ (d.makePacket s mid order fl).op = BitVec.ofNat 8 s.op ∧
      (d.makePacket s mid order fl).seq = BitVec.ofNat 32 s.seq ∧
      (d.makePacket s mid order fl).tag = BitVec.ofNat 24 s.key.tag ∧
      (d.makePacket s mid order fl).epoch = BitVec.ofNat 16 s.key.epoch ∧
      (d.makePacket s mid order fl).flowlet = BitVec.ofNat 12 fl ∧
      (d.makePacket s mid order fl).crc = (d.makePacket s mid order fl).crcOf := by
  unfold Dev.makePacket Dev.addMac Packet.sealed
  extract_lets -merge +onlyGivenNames pl p
  split
  · exact ⟨rfl, rfl, rfl, rfl, rfl, rfl, rfl, rfl, rfl⟩
  · exact ⟨rfl, rfl, rfl, rfl, rfl, rfl, rfl, rfl, rfl⟩

theorem Packet.atNode_fields (p : Packet) (self : Nat) :
    (p.atNode self).dst = p.dst ∧ (p.atNode self).hops = p.hops ∧ (p.atNode self).payload = p.payload := by
  unfold Packet.atNode
  split <;> exact ⟨rfl, rfl, rfl⟩

/-- What a device originates goes its way. -/
theorem Dev.originates_originate {d : Dev} {s : Sending} (hq : ∀ i : Fin 81, d.fab.ports[i].queues.length = 8)
    (hs : s.dst < 2 ^ 16) (k : Clock) : d.Originates (d.originate k s) (d.packetOf s) := by
  obtain ⟨hdst, hhops, -⟩ := d.makePacket_header s
    (if s.dst = d.node then 0xFFFF
      else d.chooseMid s.key s.dst (s.flowlet.getD ((d.fab.takeOrder s.key s.dst s.chan).2.flowlet s.dst)))
    (d.fab.takeOrder s.key s.dst s.chan).1
    (s.flowlet.getD ((d.fab.takeOrder s.key s.dst s.chan).2.flowlet s.dst))
  have hto : (d.packetOf s).dst.toNat = s.dst := by
    rw [show (d.packetOf s).dst = _ from hdst, BitVec.toNat_ofNat, Nat.mod_eq_of_lt hs]
  have hnew : (d.packetOf s).hops = 0 := hhops
  have horig : d.originate k s =
      let d1 : Dev := { d with fab := (d.fab.takeOrder s.key s.dst s.chan).2.addFlow s.dst (d.packetOf s).payload.length }
      if s.dst = d.node then
        let d2 := if d1.ownsPacket (d.packetOf s) then d1.gather s.from_ 0 else d1
        { d2 with fab := { d2.fab with toDeliver := d2.fab.toDeliver ++ [(0, d.packetOf s)] } }
      else d1.routePacket k ⟨d.packetOf s, 0, none, false⟩ s.from_ := by
    unfold Dev.originate Dev.packetOf
    simp only [Bool.or_false, decide_eq_true_eq, Bool.false_eq_true, if_false]
    rfl
  rw [horig]
  extract_lets -merge +onlyGivenNames d1 d2
  have h1 : d.Passes d1 := d.passes_orders ..
  clear_value d1
  generalize d.packetOf s = x at *
  unfold Dev.Originates
  rw [hto]
  dsimp only
  split
  · exact List.mem_append_right _ (List.mem_singleton_self _)
  · next hself =>
    intro o ho
    unfold Dev.routePacket
    extract_lets -merge +onlyGivenNames i p
    obtain ⟨hd, hh, -⟩ := Packet.atNode_fields x d.node
    have hp : p = x.atNode d.node := by rw [← h1.node]
    have hchoose : d1.choosePort i.fd p = some o := by
      rw [h1.choosePort, hp]
      exact ho
    rw [if_neg (by rw [h1.node, hp, hd, hto]; simp [hself]), if_neg (by rw [hp, hh, hnew]; decide), hchoose]
    have hi : i = ⟨x.atNode d.node, 0, none, false⟩ := by rw [← hp]
    rw [← hi]
    exact Dev.leaves_toPort (h1.queues hq o) k i _

end Sys2Proof.Machine
end

section
/-! SUPPORT. A launch whose first frame faults: an object in host memory is marked for eviction, and the host has taken its
memory away. -/

-- One proof at a time: each thread that elaborates beside the others reserves its stack.
set_option Elab.async false

namespace Sys2Proof.Machine

open Sys2Proof

/-- An ARMED device whose only object lies in host memory, which the host has taken away, and is marked for eviction. -/
def Dev.armedMarked : Dev :=
  { ((Dev.blank .m20f6).wr .tickLaunchLo 1).wr .tierSrcKind 2 0 8 with
    job := { Job.idle with phase := .armed }
    start := { Start.held with state := .ready }
    tier := { Tier.empty with objs := [⟨true, 4096, 0, 0, 0, 0, 2, [], [(8, 0)], none, some 3, [], false, 0⟩] }
    sync := { Sync.unset with state := .locked } }

/-- The outcome leaves a device whose job is FAULTED. -/
def faultedAfter : Result → Bool
  | .next s => decide (s.dev.job.phase = .faulted)
  | _ => false

theorem faultedAfter_launch : faultedAfter (exec .launchCountReached ⟨[], ⟨0, 0, 0, 0⟩, Dev.armedMarked⟩) = true := by
  decide +kernel

end Sys2Proof.Machine

namespace Sys2Proof

open Machine

/-- Refutes O31: as the first frame opens, the move of an object that is marked for eviction needs host memory that the
host has taken away, and the job is FAULTED and not RUNNING. -/
theorem not_armAndLaunch : ¬ Obligations.ArmAndLaunch := by
  unfold Obligations.ArmAndLaunch
  rintro ⟨-, hlaunch, -⟩
  obtain ⟨t, ht, hrun, -⟩ := (hlaunch ⟨[], ⟨0, 0, 0, 0⟩, Dev.armedMarked⟩ (by decide) (by decide) rfl).1 rfl (by decide) rfl
    rfl rfl (by decide) rfl
  have hfault := faultedAfter_launch
  rw [ht, faultedAfter, decide_eq_true_eq] at hfault
  rw [hrun] at hfault
  cases hfault

end Sys2Proof
end

section
/-! SUPPORT. Route commits, congestion windows, summary periods and bridge replays (chapter 15, chapter 1). -/

-- One proof at a time: each thread that elaborates beside the others reserves its stack.
set_option Elab.async false

namespace Sys2Proof.Machine

open Sys2Proof

/-! ### Folds that reach a part once -/

/-- A fold whose steps change the part `g` at `a` alone changes it as its step at `a` does. -/
theorem foldl_once {α β γ : Type} {f : β → α → β} (g : β → γ) {v : γ → γ} {a : α} {l : List α} (b : β) (hn : l.Nodup)
    (ha : a ∈ l) (hself : ∀ b, g (f b a) = v (g b)) (hne : ∀ b, ∀ x ∈ l, x ≠ a → g (f b x) = g b) :
    g (l.foldl f b) = v (g b) := by
  have hout : ∀ (l' : List α) b, (∀ x ∈ l', x ∈ l ∧ x ≠ a) → g (l'.foldl f b) = g b := by
    intro l'
    induction l' with
    | nil => exact fun b _ => rfl
    | cons x l' ih =>
      intro b hx
      obtain ⟨hmem, hxa⟩ := hx x List.mem_cons_self
      exact (ih _ fun y hy => hx y (List.mem_cons_of_mem _ hy)).trans (hne b x hmem hxa)
  obtain ⟨l1, l2, rfl⟩ := List.mem_iff_append.mp ha
  have hd := List.nodup_append.mp hn
  rw [List.foldl_append, List.foldl_cons, hout l2, hself, hout l1]
  · exact fun x hx => ⟨List.mem_append_left _ hx, fun h => hd.2.2 x hx x (h ▸ List.mem_cons_self) rfl⟩
  · exact fun x hx => ⟨List.mem_append_right _ (List.mem_cons_of_mem _ hx),
      fun h => (List.nodup_cons.mp hd.2.1).1 (h ▸ hx)⟩

/-- A fold leaves what each of its steps leaves. -/
theorem foldl_keeps {α β γ : Type} {f : β → α → β} (g : β → γ) (l : List α) (b : β) (h : ∀ b x, g (f b x) = g b) :
    g (l.foldl f b) = g b := by
  induction l generalizing b with
  | nil => rfl
  | cons x l ih => exact (ih _).trans (h b x)

/-! ### Route commands (R330) -/

theorem Dev.openPage_fab0 {d : Dev} {m : Master} {p : Page} (h : d.openPage 0x100 m = some p) : p = ⟨.fab, 0, 66⟩ := by
  obtain ⟨hp, -⟩ := Option.filter_eq_some_iff.mp h
  have hpage : d.page 0x100 = some ⟨.fab, 0, 66⟩ := by unfold Dev.page; cases d.order <;> rfl
  exact (Option.some.inj (hpage.symm.trans hp)).symm

theorem oneField_routeCmd : Page.OneField ⟨.fab, 0, 66⟩ 0x318 .fabRtCmd where
  fields := by decide
  access := rfl
  inst := rfl
  allows _ _ := rfl

theorem exec_routeCommand {s : State} {m : Master} {same : Bool} {p : Page} (h : s.PairReady m same 0x100 0x318 1 p) :
    ∃ t, exec (.routeCommand m same) s = .next { s with clk := s.writeClock m same 0x100, dev := t } ∧
      (s.paired m same 0x100 0x318).routeCommand.Touches [.regs, .ctl, .updated] (.fabRtCmd :: fldsCommon) t := by
  obtain rfl := Dev.openPage_fab0 h.reaches.opened
  obtain ⟨t, ht, -, hquiet⟩ := State.writeComplement_effect h oneField_routeCmd (by decide)
    (show _ = some (Dev.routeCommand _, true) from rfl)
  exact ⟨t, ht, hquiet rfl⟩

/-! ### Route commits -/

/-- The state of a port after the admit mask of its fabric die (R342). -/
def admitted (i : Fin 81) (st : PortState) (mask : Nat) : PortState :=
  if i.val < 80 ∧ st = .quarantine ∧ bitAt mask (i.val % 8) = true then .up else st

/-- The port is admitted, or left. -/
def Dev.admitPort (k : Clock) (d : Dev) (p : Fin 81) : Dev :=
  if p.val < 80 && d.fab.ports[p].state = .quarantine && bitAt (d.rd .fabRtAdmit (p.val / 8)) (p.val % 8) then
    (d.modPort p Port.enterUp).pump k p
  else d

theorem Dev.admitPorts_eq (d : Dev) (k : Clock) : d.admitPorts k = (List.finRange 81).foldl (Dev.admitPort k) d := rfl

theorem Dev.admitPort_self (k : Clock) (d : Dev) (i : Fin 81) : (Dev.admitPort k d i).fab.ports[i].state =
    admitted i d.fab.ports[i].state (d.rd .fabRtAdmit (i.val / 8)) := by
  have hpump := Dev.passes_pump (d.modPort i Port.enterUp) k i
  have hiff : (i.val < 80 && d.fab.ports[i].state = .quarantine && bitAt (d.rd .fabRtAdmit (i.val / 8)) (i.val % 8)) = true ↔
      i.val < 80 ∧ d.fab.ports[i].state = .quarantine ∧ bitAt (d.rd .fabRtAdmit (i.val / 8)) (i.val % 8) = true := by
    simp only [Bool.and_eq_true, decide_eq_true_eq, and_assoc]
  unfold Dev.admitPort admitted
  split
  · next hc =>
    rw [if_pos (hiff.mp hc), (hpump.port i).state, Dev.port_modPort, if_pos rfl]
    rfl
  · next hc => rw [if_neg fun h => hc (hiff.mpr h)]

theorem Dev.admitPort_other (k : Clock) (d : Dev) {i p : Fin 81} (h : p ≠ i) :
    (Dev.admitPort k d p).fab.ports[i].state = d.fab.ports[i].state := by
  have hpump := Dev.passes_pump (d.modPort p Port.enterUp) k p
  unfold Dev.admitPort
  split
  · rw [(hpump.port i).state, Dev.port_modPort, if_neg h.symm]
  · rfl

theorem Dev.admitPort_rd (k : Clock) (d : Dev) (p : Fin 81) (f : Fld) (i j : Nat) :
    (Dev.admitPort k d p).rd f i j = d.rd f i j := by
  unfold Dev.admitPort
  split
  · exact ((Dev.Sends.refl d).modPort p Port.enterUp).pump k p |>.rd f i j
  · rfl

theorem Dev.admitPorts_state (d : Dev) (k : Clock) (i : Fin 81) :
    (d.admitPorts k).fab.ports[i].state = admitted i d.fab.ports[i].state (d.rd .fabRtAdmit (i.val / 8)) := by
  have hnodup := List.nodup_finRange 81
  have hmem := List.mem_finRange i
  rw [Dev.admitPorts_eq]
  generalize List.finRange 81 = l at hnodup hmem ⊢
  have h := foldl_once (f := Dev.admitPort k) (fun e : Dev => (e.fab.ports[i].state, e.rd .fabRtAdmit (i.val / 8)))
    (v := fun x => (admitted i x.1 x.2, x.2)) d hnodup hmem
    (fun e => congrArg₂ Prod.mk (Dev.admitPort_self k e i) (Dev.admitPort_rd k e i ..))
    (fun e p _ hp => congrArg₂ Prod.mk (Dev.admitPort_other k e hp) (Dev.admitPort_rd k e p ..))
  exact (Prod.mk.inj h).1

/-- What a commit sets, as against what admitting ports and sending leave. -/
def Fab.routes (f : Fab) : Vector (Sparse Nat) 10 × Sparse Nat × Nat × Option Nat × Nat :=
  (f.live, f.midLive, f.midCount, f.commitAt, f.commits)

theorem Fab.routes_eq {f : Fab} {a : Vector (Sparse Nat) 10} {b : Sparse Nat} {n c : Nat} {w : Option Nat}
    (h : f.routes = (a, b, n, w, c)) : f.live = a ∧ f.midLive = b ∧ f.midCount = n ∧ f.commitAt = w ∧ f.commits = c := by
  simpa [Fab.routes] using h

theorem Dev.Mails.routes {d e : Dev} (h : d.Mails e) : e.fab.routes = d.fab.routes := by
  rw [h.fab]
  rfl

theorem Dev.admitPorts_routes (d : Dev) (k : Clock) : (d.admitPorts k).fab.routes = d.fab.routes := by
  rw [Dev.admitPorts_eq]
  refine foldl_keeps (fun e : Dev => e.fab.routes) _ d fun e p => ?_
  unfold Dev.admitPort
  split
  · rw [(Dev.passes_pump (e.modPort p Port.enterUp) k p).fab]
    rfl
  · rfl

/-- A waiting commit makes the shadow tables and list live and admits ports. -/
def Dev.committed (d : Dev) (k : Clock) : Dev :=
  (({ d with fab := { d.fab with
    live := d.fab.shadow, midLive := d.fab.midShadow, midCount := d.rd .fabMidCount
    commitAt := none, commits := (d.fab.commits + 1) % 65536 } } : Dev).admitPorts k).parentsChanged k

/-- A commit leaves memories and cores, sets the routes, and admits ports. -/
theorem Dev.committed_effect (d : Dev) (k : Clock) (old : List Report) :
    let t := (d.committed k).sendRaised old k
    t.mem = d.mem ∧ t.cores = d.cores ∧
      t.fab.routes = (d.fab.shadow, d.fab.midShadow, d.rd .fabMidCount, none, (d.fab.commits + 1) % 65536) ∧
      ∀ i : Fin 81, t.fab.ports[i].state = admitted i d.fab.ports[i].state (d.rd .fabRtAdmit (i.val / 8)) := by
  intro t
  have hsend := Dev.mails_sendRaised (d.committed k) old k
  have hparents := Dev.touches_parentsChanged (Dev.admitPorts { d with fab := { d.fab with
    live := d.fab.shadow, midLive := d.fab.midShadow, midCount := d.rd .fabMidCount
    commitAt := none, commits := (d.fab.commits + 1) % 65536 } } k) k
  have hadmit := Dev.touches_admitPorts { d with fab := { d.fab with
    live := d.fab.shadow, midLive := d.fab.midShadow, midCount := d.rd .fabMidCount
    commitAt := none, commits := (d.fab.commits + 1) % 65536 } } k
  refine ⟨?_, ?_, ?_, fun i => ?_⟩
  · exact hsend.sends.mem.trans (hparents.mem.trans hadmit.mem)
  · exact hsend.sends.cores.trans (hparents.cores.trans hadmit.cores)
  · rw [hsend.routes, Dev.committed, hparents.fab, Dev.admitPorts_routes]
    rfl
  · rw [(hsend.port i).state, Dev.committed, hparents.fab, Dev.admitPorts_state]
    rfl

theorem exec_routeCommit {s : State} {u : Nat} (hc : s.dev.clocked = true) (hu : s.dev.fab.commitAt = some u) :
    exec .routeCommit s = .next { s with
      clk := s.clk.toCount (s.dev.commitCount s.clk u)
      dev := (s.dev.committed (s.clk.toCount (s.dev.commitCount s.clk u))).sendRaised s.dev.sec.reports
        (s.clk.toCount (s.dev.commitCount s.clk u)) } := by
  change execRouteCommit s = _
  unfold execRouteCommit
  exact State.act_next _ hc (by simp only [hu]) (by simp only [hu]; rfl)

/-! ### Congestion windows (R341) -/

/-- The key of a VC's stall counter in the congestion map. -/
def mapIdx (i : Fin 81) (v : Nat) : Nat := 8 * (i.val % 8) + v

theorem Dev.running_count (d : Dev) (f g : Fld) (n i j i' j' : Nat) : (d.count f n i j).running g i' j' =
    if regKey g i' j' = regKey f i j then min (d.running f i j + n) (2 ^ f.width - 1) else d.running g i' j' := by
  unfold Dev.count Dev.setRunning Dev.running
  split
  · next h => simp [h]
  · next h => simp [h]

theorem Dev.running_peak (d : Dev) (f g : Fld) (n i j i' j' : Nat) (h : regKey g i' j' ≠ regKey f i j) :
    (d.peak f n i j).running g i' j' = d.running g i' j' := by
  unfold Dev.peak Dev.setRunning Dev.running
  simp [h]

/-- One stall in the map. -/
def Dev.mapStall (d : Dev) (i : Fin 81) (n v : Nat) : Dev :=
  if n = 0 then d
  else
    let e := (d.count .fabMapStall n (i.val / 8) (mapIdx i v)).peak .fabMapPeak n (i.val / 8) (mapIdx i v)
    if n ≥ 160 then e.count .fabMapWindows 1 (i.val / 8) (mapIdx i v) else e

theorem Dev.closeWindow_eq (d : Dev) (k : Clock) (p : Fin 81) : d.closeWindow k p =
    let e := d.modPort p fun q => { q with
      stallFc := List.replicate 8 0, stallFrom := q.stallFrom.map fun o => o.map fun _ => k.units }
    if p.val = 80 then e
    else ((List.range 8).map fun v => min 1600 (d.fab.ports[p].stallNow k v)).zipIdx.foldl (fun e x => e.mapStall p x.1 x.2) e := rfl

theorem mapKey_ne {f g : Fld} {i p : Fin 81} {v u : Nat} (hi : i.val < 80) (hp : p.val < 80) (hv : v < 8) (hu : u < 8)
    (h : f.num ≠ g.num ∨ i ≠ p ∨ v ≠ u) :
    regKey f (i.val / 8) (mapIdx i v) ≠ regKey g (p.val / 8) (mapIdx p u) := by
  intro hk
  obtain ⟨h1, h2, h3⟩ := regKey_inj (by omega) (by omega) (by unfold mapIdx; omega) (by unfold mapIdx; omega) hk
  unfold mapIdx at h3
  rcases h with h | h | h
  · exact h h1
  · exact h (Fin.ext (by omega))
  · exact h (by omega)

theorem Dev.running_mapStall {d : Dev} {i p : Fin 81} {n v u : Nat} (hi : i.val < 80) (hp : p.val < 80) (hv : v < 8)
    (hu : u < 8) : (d.mapStall p n u).running .fabMapStall (i.val / 8) (mapIdx i v) =
      if i = p ∧ v = u ∧ 0 < n then min (d.running .fabMapStall (i.val / 8) (mapIdx i v) + n) (2 ^ 32 - 1)
      else d.running .fabMapStall (i.val / 8) (mapIdx i v) := by
  have hcount : (d.count .fabMapStall n (p.val / 8) (mapIdx p u)).running .fabMapStall (i.val / 8) (mapIdx i v) =
      if i = p ∧ v = u then min (d.running .fabMapStall (i.val / 8) (mapIdx i v) + n) (2 ^ 32 - 1)
      else d.running .fabMapStall (i.val / 8) (mapIdx i v) := by
    rw [Dev.running_count]
    by_cases h : i = p ∧ v = u
    · obtain ⟨rfl, rfl⟩ := h
      rw [if_pos rfl, if_pos ⟨rfl, rfl⟩]
      rfl
    · rw [if_neg h, if_neg (mapKey_ne hi hp hv hu (.inr (by tauto)))]
  unfold Dev.mapStall
  split
  · next h => rw [if_neg (by omega)]
  · next h =>
    dsimp only
    have hpeak := Dev.running_peak (d.count .fabMapStall n (p.val / 8) (mapIdx p u)) .fabMapPeak .fabMapStall n (p.val / 8)
      (mapIdx p u) (i.val / 8) (mapIdx i v) (mapKey_ne hi hp hv hu (.inl (by decide)))
    have hn : 0 < n := by omega
    simp only [hn, and_true]
    split
    · rw [Dev.running_count, if_neg (mapKey_ne hi hp hv hu (.inl (by decide))), hpeak, hcount]
    · rw [hpeak, hcount]

/-- What the closing of a window does to a port and to one stall counter of it. -/
def closed (k : Clock) (i : Fin 81) (v : Nat) (x : Port × Nat) : Port × Nat :=
  ({ x.1 with stallFc := List.replicate 8 0, stallFrom := x.1.stallFrom.map fun o => o.map fun _ => k.units },
    if i.val < 80 ∧ 0 < min 1600 (x.1.stallNow k v) then min (x.2 + min 1600 (x.1.stallNow k v)) (2 ^ 32 - 1) else x.2)

theorem Dev.fab_mapStall (d : Dev) (i : Fin 81) (n v : Nat) : (d.mapStall i n v).fab = d.fab := by
  unfold Dev.mapStall
  split
  · rfl
  · dsimp only
    split <;> rfl

theorem Dev.closeWindow_fab (d : Dev) (k : Clock) (p : Fin 81) : (d.closeWindow k p).fab = (d.modPort p fun q => { q with
    stallFc := List.replicate 8 0, stallFrom := q.stallFrom.map fun o => o.map fun _ => k.units }).fab := by
  rw [Dev.closeWindow_eq]
  dsimp only
  split
  · rfl
  · exact foldl_keeps Dev.fab _ _ fun e x => e.fab_mapStall p x.1 x.2

theorem Dev.closeWindow_self (d : Dev) (k : Clock) (i : Fin 81) {v : Nat} (hv : v < 8) :
    ((d.closeWindow k i).fab.ports[i], (d.closeWindow k i).running .fabMapStall (i.val / 8) (mapIdx i v)) =
      closed k i v (d.fab.ports[i], d.running .fabMapStall (i.val / 8) (mapIdx i v)) := by
  refine Prod.ext ?_ ?_
  · dsimp only [closed]
    rw [Dev.closeWindow_fab, Dev.port_modPort, if_pos rfl]
  · dsimp only [closed]
    rw [Dev.closeWindow_eq]
    dsimp only
    by_cases h : i.val = 80
    · rw [if_pos h, if_neg (by omega)]
      rfl
    · rw [if_neg h]
      have hi : i.val < 80 := by omega
      have hx := fun x (hx : x ∈ ((List.range 8).map fun v => min 1600 (d.fab.ports[i].stallNow k v)).zipIdx) =>
        List.mem_zipIdx' hx
      have := foldl_once (fun e : Dev => e.running .fabMapStall (i.val / 8) (mapIdx i v))
        (f := fun e (x : Nat × Nat) => e.mapStall i x.1 x.2)
        (v := fun r => if 0 < min 1600 (d.fab.ports[i].stallNow k v) then
          min (r + min 1600 (d.fab.ports[i].stallNow k v)) (2 ^ 32 - 1) else r)
        (a := (min 1600 (d.fab.ports[i].stallNow k v), v))
        (l := ((List.range 8).map fun v => min 1600 (d.fab.ports[i].stallNow k v)).zipIdx)
        (d.modPort i fun q => { q with
          stallFc := List.replicate 8 0, stallFrom := q.stallFrom.map fun o => o.map fun _ => k.units })
        (List.Nodup.of_map Prod.snd (by simp [List.nodup_range']))
        (List.mem_zipIdx_iff_getElem?.mpr (by simp [hv]))
        (fun e => by rw [Dev.running_mapStall hi hi hv hv]; simp)
        (fun e x hmem hne => ?_)
      · rw [this]
        simp only [hi, true_and]
        rfl
      · obtain ⟨hlt, hval⟩ := hx x hmem
        simp only [List.length_map, List.length_range] at hlt
        rw [Dev.running_mapStall hi hi hv hlt, if_neg]
        rintro ⟨-, rfl, -⟩
        exact hne (Prod.ext (by simpa using hval) rfl)

theorem Dev.closeWindow_port (d : Dev) (k : Clock) {i p : Fin 81} (hne : p ≠ i) :
    (d.closeWindow k p).fab.ports[i] = d.fab.ports[i] := by
  rw [Dev.closeWindow_fab, Dev.port_modPort, if_neg hne.symm]

theorem Dev.closeWindow_other (d : Dev) (k : Clock) {i p : Fin 81} (hne : p ≠ i) {v : Nat} (hv : v < 8) (hi : i.val < 80) :
    (d.closeWindow k p).running .fabMapStall (i.val / 8) (mapIdx i v) = d.running .fabMapStall (i.val / 8) (mapIdx i v) := by
  rw [Dev.closeWindow_eq]
  dsimp only
  split
  · rfl
  · next hp =>
    have key : ∀ (l : List (Nat × Nat)) (e : Dev), (∀ x ∈ l, x.2 < 8) →
        (l.foldl (fun e x => e.mapStall p x.1 x.2) e).running .fabMapStall (i.val / 8) (mapIdx i v) =
          e.running .fabMapStall (i.val / 8) (mapIdx i v) := by
      intro l
      induction l with
      | nil => exact fun e _ => rfl
      | cons x l ih =>
        intro e hx
        rw [List.foldl_cons, ih _ fun y hy => hx y (List.mem_cons_of_mem _ hy),
          Dev.running_mapStall hi (by omega) hv (hx x List.mem_cons_self), if_neg fun h => hne h.1.symm]
    refine key _ _ fun x hx => ?_
    simpa using (List.mem_zipIdx' hx).1

/-- The windows of all ports are closed. -/
def Dev.closeWindows (d : Dev) (k : Clock) : Dev := (List.finRange 81).foldl (fun d p => d.closeWindow k p) d

theorem Dev.closeWindows_port (d : Dev) (k : Clock) (i : Fin 81) : (d.closeWindows k).fab.ports[i] =
    (closed k i 0 (d.fab.ports[i], 0)).1 :=
  foldl_once (l := List.finRange 81) (a := i) (fun e : Dev => e.fab.ports[i]) (v := fun q => (closed k i 0 (q, 0)).1) d
    (List.nodup_finRange 81) (List.mem_finRange i)
    (fun e => congrArg Prod.fst (e.closeWindow_self k i (v := 0) (by decide))) (fun e _ _ hp => e.closeWindow_port k hp)

theorem Dev.closeWindows_running (d : Dev) (k : Clock) {i : Fin 81} (hi : i.val < 80) {v : Nat} (hv : v < 8) :
    (d.closeWindows k).running .fabMapStall (i.val / 8) (mapIdx i v) =
      (closed k i v (d.fab.ports[i], d.running .fabMapStall (i.val / 8) (mapIdx i v))).2 := by
  have h : ((d.closeWindows k).fab.ports[i], (d.closeWindows k).running .fabMapStall (i.val / 8) (mapIdx i v)) =
      closed k i v (d.fab.ports[i], d.running .fabMapStall (i.val / 8) (mapIdx i v)) :=
    foldl_once (l := List.finRange 81) (a := i)
      (fun e : Dev => (e.fab.ports[i], e.running .fabMapStall (i.val / 8) (mapIdx i v))) (v := closed k i v) d
      (List.nodup_finRange 81) (List.mem_finRange i) (fun e => e.closeWindow_self k i hv)
      (fun e _ _ hp => congrArg₂ Prod.mk (e.closeWindow_port k hp) (e.closeWindow_other k hp hv hi))
  exact (Prod.mk.inj h).2

theorem Dev.touches_closeWindows (d : Dev) (k : Clock) : d.Touches [.acc, .fab] [] (d.closeWindows k) :=
  .foldl (.refl d) fun _ _ _ => .next (.refl _) (Dev.touches_closeWindow ..)

theorem exec_congestionWindowEnd {s : State} {k : Clock} (hc : s.dev.clocked = true)
    (hk : k = s.clk.toCount ((s.clk.count / 1000 + 1) * 1000)) :
    ∃ t, exec .congestionWindowEnd s = .next { s with clk := k, dev := t } ∧ t.mem = s.dev.mem ∧ t.cores = s.dev.cores ∧
      ∀ i : Fin 81, t.fab.ports[i] = (closed k i 0 (s.dev.fab.ports[i], 0)).1 ∧ ∀ v, v < 8 → i.val < 80 →
        t.running .fabMapStall (i.val / 8) (mapIdx i v) =
          (closed k i v (s.dev.fab.ports[i], s.dev.running .fabMapStall (i.val / 8) (mapIdx i v))).2 := by
  have htouch := s.dev.touches_closeWindows k
  refine ⟨s.dev.closeWindows k, ?_, htouch.mem, htouch.cores, fun i =>
    ⟨s.dev.closeWindows_port k i, fun v hv hi => s.dev.closeWindows_running k hi hv⟩⟩
  change execCongestionWindowEnd s = _
  unfold execCongestionWindowEnd
  exact State.act_quiet k hc hk.symm rfl (congrArg Sec.reports htouch.sec)

/-! ### Summary periods (R341) -/

theorem exec_summaryPeriodLatch {s : State} (hc : s.dev.clocked = true) (h : s.dev.job.phase ≠ .running) :
    exec .summaryPeriodLatch s = .next { s with
      clk := s.clk.toCount ((s.clk.count / 1000000 + 1) * 1000000)
      dev := (s.dev.latchSummary (s.clk.toCount ((s.clk.count / 1000000 + 1) * 1000000))
        (s.clk.toCount ((s.clk.count / 1000000 + 1) * 1000000)).count).sendRaised s.dev.sec.reports
        (s.clk.toCount ((s.clk.count / 1000000 + 1) * 1000000)) } := by
  change execSummaryPeriodLatch s = _
  unfold execSummaryPeriodLatch
  exact State.act_next _ hc (by simp [h]) (by simp [h])

/-- The maps of the fabric dies are stamped. -/
theorem Dev.rd_stamps (d : Dev) (stamp n : Nat) (hn : n ≤ 10) {fd : Nat} (h : fd < n) :
    ((List.range n).foldl (fun d f => d.wr .fabMapStamp stamp f) d).rd .fabMapStamp fd = stamp % 2 ^ (Fld.fabMapStamp).width := by
  refine foldl_once (fun e : Dev => e.rd .fabMapStamp fd) (v := fun _ => stamp % 2 ^ (Fld.fabMapStamp).width) d List.nodup_range
    (List.mem_range.mpr h) (fun e => e.rd_wr_same ..) fun e x hx hne => ?_
  refine e.rd_wr_other _ _ _ _ _ _ _ fun hk => ?_
  have := List.mem_range.mp hx
  exact hne (regKey_inj (by omega) (by omega) (by omega) (by omega) hk).2.1.symm

theorem Dev.rd_latchSummary (d : Dev) (k : Clock) (stamp : Nat) {fd : Nat} (h : fd < d.order.fabricDies) :
    (d.latchSummary k stamp).rd .fabMapStamp fd = stamp % 2 ^ (Fld.fabMapStamp).width := by
  have hten : d.order.fabricDies ≤ 10 := by cases d.order <;> decide
  unfold Dev.latchSummary
  extract_lets -merge +onlyGivenNames d1 d2 fec d3
  have h2 : d2.order = d.order := (Dev.touches_countReduced ..).order
  have h3 : d3.order = d2.order := by
    unfold d3
    exact foldl_keeps Dev.order _ d2 fun e p => rfl
  clear_value d3
  rw [(Dev.touches_alertPeriod ..).reads _ _ _ (by decide) (by omega) (by decide), h3, h2]
  exact Dev.rd_stamps _ _ _ hten h

/-! ### Bridge replays (R16) -/

theorem exec_bridgeFlitReplay_fails {s : State} {dir : Fin 38} {extra again : Bool} (hc : s.dev.clocked = true)
    (h : 16 ≤ if again then Sparse.get s.dev.ctl.replayRun 0 dir else 0) :
    exec (.bridgeFlitReplay dir extra again) s = .next { s with
      dev := (s.dev.bridgeFails s.clk dir).sendRaised s.dev.sec.reports s.clk } := by
  change execBridgeFlitReplay dir extra again s = _
  unfold execBridgeFlitReplay
  exact State.now_some hc (if_pos h)

/-- One replay more of a direction. -/
def Dev.replayed (d : Dev) (k : Clock) (dir : Fin 38) (extra : Bool) (run : Nat) : Dev :=
  let e : Dev := { d with ctl := { d.ctl with replayRun := Sparse.set d.ctl.replayRun 0 dir (run + 1) } }
  let inFrame := d.runs && d.frame.opened && !d.frame.closed
  let e := if inFrame then e.count .hubBridgeReplays 1 0 dir else e
  if inFrame && extra && Sparse.get e.ctl.overWindow 0 dir ≠ k.count / 1000 + 1 then
    { e.count .hubBridgeOvershare 1 0 dir with
      ctl := { e.ctl with overWindow := Sparse.set e.ctl.overWindow 0 dir (k.count / 1000 + 1) } }
  else e

theorem Dev.touches_replayed (d : Dev) (k : Clock) (dir : Fin 38) (extra : Bool) (run : Nat) :
    d.Touches [.acc, .ctl] [] (d.replayed k dir extra run) := by
  unfold Dev.replayed
  extract_lets -merge +onlyGivenNames src e inFrame e'
  have he : d.Touches [.acc, .ctl] [] e' := by
    refine .ite (.next (.set (.refl d) rfl) (Dev.touches_count ..)) (.set (.refl d) rfl)
  clear_value e'
  exact .ite (.set (.next he (Dev.touches_count ..)) rfl) he

theorem exec_bridgeFlitReplay_counts {s : State} {dir : Fin 38} {extra again : Bool} (hc : s.dev.clocked = true)
    (h : (if again then Sparse.get s.dev.ctl.replayRun 0 dir else 0) < 16) :
    exec (.bridgeFlitReplay dir extra again) s = .next { s with
      dev := s.dev.replayed s.clk dir extra (if again then Sparse.get s.dev.ctl.replayRun 0 dir else 0) } := by
  change execBridgeFlitReplay dir extra again s = _
  unfold execBridgeFlitReplay
  exact State.now_quiet hc (if_neg (by omega)) (congrArg Sec.reports (Dev.touches_replayed ..).sec)

theorem Dev.replayed_effect (d : Dev) (k : Clock) (dir : Fin 38) (extra : Bool) (run : Nat) :
    Sparse.get (d.replayed k dir extra run).ctl.replayRun 0 dir = run + 1 ∧
      (d.replayed k dir extra run).running .hubBridgeReplays 0 dir =
        (if d.runs && d.frame.opened && !d.frame.closed
          then min (d.running .hubBridgeReplays 0 dir + 1) (2 ^ (Fld.hubBridgeReplays).width - 1)
          else d.running .hubBridgeReplays 0 dir) := by
  unfold Dev.replayed
  extract_lets -merge +onlyGivenNames src e inFrame e'
  have hctl : Sparse.get e'.ctl.replayRun 0 dir = run + 1 := by
    have : e'.ctl = e.ctl := by
      unfold e'
      split <;> rfl
    rw [this]
    exact Sparse.get_set_same d.ctl.replayRun 0 (run + 1) dir.val
  have hrun : e'.running .hubBridgeReplays 0 dir =
      if inFrame then min (d.running .hubBridgeReplays 0 dir + 1) (2 ^ (Fld.hubBridgeReplays).width - 1)
      else d.running .hubBridgeReplays 0 dir := by
    unfold e'
    split
    · rw [Dev.running_count, if_pos rfl]
      rfl
    · rfl
  clear_value e'
  split
  · refine ⟨hctl, ?_⟩
    rw [← hrun]
    have hk : regKey .hubBridgeReplays 0 dir ≠ regKey .hubBridgeOvershare 0 dir := fun hk =>
      absurd (regKey_inj (by decide) (by decide) (by omega) (by omega) hk).1 (by decide)
    exact (Dev.running_count ..).trans (if_neg hk)
  · exact ⟨hctl, hrun⟩

/-- Both directions of a bridge that fails are marked down (R16). -/
theorem Dev.rd_bridgeFails (d : Dev) (k : Clock) {dir i : Nat} (hdir : dir < 38) (hi : i / 2 = dir / 2)
    (h : d.rd .hubBridgeDown 0 dir ≠ 1) : (d.bridgeFails k dir).rd .hubBridgeDown 0 i = 1 := by
  unfold Dev.bridgeFails
  rw [if_neg h]
  extract_lets -merge +onlyGivenNames b d1 d2
  have h1 : d1.rd .hubBridgeDown 0 i = 1 := by
    rw [(Dev.touches_smbEvent ..).reads _ _ _ (by decide) (by decide) (by omega)]
    change (((d.flag .hubBridgeDown 0 (2 * b)).wr .hubBridgeDown 1 0 (2 * b + 1))).rd .hubBridgeDown 0 i = 1
    by_cases hodd : i = 2 * b + 1
    · rw [hodd, Dev.rd_wr_same]
      rfl
    · rw [Dev.rd_wr_other _ _ _ _ _ _ _ _ fun hk =>
        hodd (regKey_inj (by decide) (by decide) (by omega) (by omega) hk).2.2]
      obtain rfl : i = 2 * b := by omega
      exact (Dev.rd_wr_same d .hubBridgeDown 1 0 (2 * b)).trans rfl
  have h2 : d2.rd .hubBridgeDown 0 i = 1 := by
    unfold d2
    split
    · rw [(Dev.touches_startAbort ..).reads _ _ _ (by decide) (by decide) (by omega), h1]
    · split
      · rw [(Dev.touches_dropObject ..).reads _ _ _ (by decide) (by decide) (by omega), h1]
      · exact h1
  rw [(Dev.touches_report ..).reads _ _ _ (by decide) (by decide) (by omega), h2]

theorem Dev.bridgeFails_down {d : Dev} {dir : Nat} (k : Clock) (h : d.rd .hubBridgeDown 0 dir = 1) :
    d.bridgeFails k dir = d := if_pos h

end Sys2Proof.Machine

namespace Sys2Proof

open Machine

/-- Settles O45: each command's own effect, with what the functions behind it leave. -/
theorem routesAndPeriods : Obligations.RoutesAndPeriods := by
  unfold Obligations.RoutesAndPeriods
  intro s hc kept
  refine ⟨fun m same p h => ?_, fun u hu => ?_, fun h => ?_, ?_, fun h => ?_, fun h => ?_, fun dir extra again => ?_⟩
  · obtain ⟨t, ht, htouch⟩ := exec_routeCommand h
    have hp := s.touches_paired m same 0x100 0x318
    refine ⟨t, ht, ⟨htouch.mem.trans hp.mem, htouch.cores.trans hp.cores⟩, ?_⟩
    rw [htouch.fab]
    rfl
  · obtain ⟨hmem, hcores, hroutes, hstate⟩ := s.dev.committed_effect (s.clk.toCount (s.dev.commitCount s.clk u))
      s.dev.sec.reports
    obtain ⟨hlive, hmid, hn, hat, hcommits⟩ := Fab.routes_eq hroutes
    exact ⟨_, exec_routeCommit hc hu, ⟨hmem, hcores⟩, hlive, hmid, hn, hat, hcommits, hstate⟩
  · change execRouteCommit s = _
    unfold execRouteCommit
    exact State.act_none (by simp only [h])
  · intro k
    obtain ⟨t, ht, hmem, hcores, hports⟩ := exec_congestionWindowEnd (k := k) hc rfl
    refine ⟨t, ht, ⟨hmem, hcores⟩, fun i => ?_⟩
    obtain ⟨hport, hrun⟩ := hports i
    rw [hport]
    refine ⟨rfl, rfl, fun v hv hi => ?_⟩
    intro n hn
    have hstall : min 1600 (s.dev.fab.ports[i].stallNow k v) = n := by
      unfold Port.stallNow n
      cases s.dev.fab.ports[i].stallFrom.getD v none <;> rfl
    have h := hrun v hv hi
    rw [closed, hstall, if_pos ⟨hi, hn⟩] at h
    exact h
  · intro k
    have hten : s.dev.order.fabricDies ≤ 10 := by cases s.dev.order <;> decide
    refine ⟨_, exec_summaryPeriodLatch hc h, ⟨?_, ?_⟩, fun fd hfd => ?_⟩
    · exact (Dev.touches_sendRaised ..).mem.trans (Dev.touches_latchSummary ..).mem
    · exact (Dev.touches_sendRaised ..).cores.trans (Dev.touches_latchSummary ..).cores
    · rw [(Dev.touches_sendRaised ..).reads _ _ _ (by decide) (by omega) (by decide)]
      exact Dev.rd_latchSummary _ _ _ hfd
  · change execSummaryPeriodLatch s = _
    unfold execSummaryPeriodLatch
    exact State.act_none (by simp [h])
  · intro run
    have hdir := dir.isLt
    by_cases h : 16 ≤ run
    · refine ⟨_, exec_bridgeFlitReplay_fails hc h, ⟨?_, ?_⟩, fun hn => absurd hn (by omega), fun _ => ⟨?_, fun hn i hi => ?_⟩⟩
      · exact (Dev.touches_sendRaised ..).mem.trans (Dev.touches_bridgeFails ..).mem
      · exact (Dev.touches_sendRaised ..).cores.trans (Dev.touches_bridgeFails ..).cores
      · rw [(Dev.touches_sendRaised ..).reads _ _ _ (by decide) (by decide) (by omega)]
        by_cases hd : s.dev.rd .hubBridgeDown 0 dir = 1
        · rw [Dev.bridgeFails_down _ hd, hd]
        · exact Dev.rd_bridgeFails _ _ hdir rfl hd
      · rw [(Dev.touches_sendRaised ..).reads _ _ _ (by decide) (by decide) (by omega)]
        exact Dev.rd_bridgeFails _ _ hdir hi hn
    · have htouch := s.dev.touches_replayed s.clk dir extra run
      obtain ⟨hrun, hcount⟩ := s.dev.replayed_effect s.clk dir extra run
      exact ⟨_, exec_bridgeFlitReplay_counts hc (by omega), ⟨htouch.mem, htouch.cores⟩,
        fun _ => ⟨hrun, htouch.reads _ _ _ (by decide) (by decide) (by omega), hcount⟩, fun hn => absurd hn h⟩

end Sys2Proof
end

section
/-! SUPPORT. The commands of a port: a completed pair of FAB_PORT_CMD (chapter 15, R318, R342). -/

-- One proof at a time: each thread that elaborates beside the others reserves its stack.
set_option Elab.async false

namespace Sys2Proof.Machine

open Sys2Proof

/-! ### A register with one field among several of its kind -/

/-- The only field of a register is the `j`-th of its kind on instance `i` and is written by a pair alone. -/
structure Page.FieldAt (p : Page) (reg : Nat) (f : Fld) (i j : Nat) : Prop where
  fields : (p.fields reg).filter (fun x => p.holds x.1) = [(f, j)]
  access : f.row.access = .wg
  inst : p.instOf f = i
  allows : ∀ (d : Dev) v, d.allowsWrite p.blk reg v = true

theorem Dev.writePair_at {d e : Dev} {k : Clock} {p : Page} {reg v i j : Nat} {f : Fld} {b : Bool}
    (h : p.FieldAt reg f i j) (hp : p.blk ≠ .pwr) (he : d.pairEffect k p reg v = some (e, b)) :
    d.writePair k p reg v = (if b then e.wr f (bitRange v f.row.hi f.row.lo) i j else e, b) := by
  have hw1c : [(f, j)].filter (fun x => x.1.row.access = .w1c) = [] := by simp [h.access]
  have hwg : [(f, j)].filter (fun x => x.1.row.access = .wg) = [(f, j)] := by simp [h.access]
  unfold Dev.writePair
  dsimp only
  rw [h.fields, hw1c, hwg, h.allows]
  simp only [Dev.writeFields, List.foldl_nil, List.isEmpty_cons, Bool.not_true, Bool.or_self, Bool.false_eq_true, if_false, he]
  cases b with
  | false => rfl
  | true =>
    have hw : ∀ e : Dev, e.writeField p true v f j = e.wr f (bitRange v f.row.hi f.row.lo) i j := by
      intro e; simp [Dev.writeField, h.access, h.inst]
    simp only [if_true, List.foldl_cons, List.foldl_nil, hw]

/-- The next state of a completed pair of such a register, from what its effect makes of the device. -/
theorem State.writeComplement_at {s : State} {m : Master} {same : Bool} {page off v i j : Nat} {p : Page} {f : Fld} {e : Dev}
    {b : Bool} (h : s.PairReady m same page off v p) (hf : p.FieldAt off f i j) (hi : i < 128) (hj : j < 64)
    (hp : p.blk ≠ .pwr) (he : (s.paired m same page off).pairEffect (s.writeClock m same page) p off v = some (e, b))
    (hr : e.sec.reports = s.dev.sec.reports) :
    ∃ t, s.writeComplement m same page off v = .next { s with clk := s.writeClock m same page, dev := t } ∧
      e.Touches [.regs, .ctl, .updated] (f :: fldsCommon) t := by
  obtain ⟨t, ht, -, hquiet⟩ := State.writeComplement_next h
  rw [Dev.writePair_at hf hp he] at hquiet
  generalize hx : (if b then e.wr f (bitRange v f.row.hi f.row.lo) i j else e) = x at hquiet
  have hfld : e.Touches [.regs] [f] x := hx ▸ .ite (Dev.touches_wr e f _ i j hi hj) (.refl e)
  have hsub : [f] ⊆ f :: fldsCommon := List.cons_subset_cons f (List.nil_subset _)
  exact ⟨t, ht, (hfld.mono (by decide) hsub).next (hquiet (hfld.sec ▸ hr)) (by decide) (List.subset_cons_self ..)⟩

/-! ### FAB_PORT_CMD -/

theorem Dev.openPage_fab {d : Dev} {m : Master} {fd : Fin 10} {p : Page} (h : d.openPage (fabPage fd) m = some p) :
    p = ⟨.fab, fd, 66 + fd⟩ ∧ fd.val < d.order.fabricDies := by
  obtain ⟨hp, -⟩ := Option.filter_eq_some_iff.mp h
  have hlt := fd.isLt
  have hfd : (0x100 + 0x10 * fd.val) / 16 - 16 = fd.val := by omega
  unfold Dev.page fabPage at hp
  rw [if_neg (by omega), if_neg (by omega), if_neg (by omega), if_neg (by simp; omega), if_neg (by simp; omega),
    if_neg (by omega), if_neg (by omega), if_neg (by omega), hfd] at hp
  by_cases hn : fd.val < d.order.fabricDies
  · rw [if_pos (by simp [hn])] at hp
    exact ⟨(Option.some.inj hp).symm, hn⟩
  · rw [if_neg (by simp [hn])] at hp
    have hdies : 6 ≤ d.order.fabricDies := by cases d.order <;> decide
    rw [if_neg (by omega), if_neg (by omega), if_neg (by omega), if_neg (by omega), if_neg (by omega), if_neg (by omega)] at hp
    cases hp

theorem fieldAt_portCmd (fd : Fin 10) (port : Fin 8) :
    Page.FieldAt ⟨.fab, fd, 66 + fd⟩ (4 + 0x20 * port.val) .fabPortCmd fd port where
  fields := by revert fd port; decide +kernel
  access := rfl
  inst := rfl
  allows d v := by
    have := port.isLt
    unfold Dev.allowsWrite
    dsimp only
    rw [if_neg (by omega), if_neg (by simp; omega), if_neg (by omega)]

theorem Dev.pairEffect_port (d : Dev) (k : Clock) (fd : Fin 10) (port : Fin 8) (v : Nat) :
    d.pairEffect k ⟨.fab, fd, 66 + fd⟩ (4 + 0x20 * port.val) v = some (d.portCommand k fd port (v % 4)) := by
  fin_cases port <;> rfl

/-! ### A port that is lost (R316, R329) -/

theorem Dev.portLost_effect (d : Dev) (k : Clock) (p : Fin 81) (st : PortState) :
    (d.portLost k p st).sec = d.sec ∧ (d.portLost k p st).fab.ports[p].state = st ∧
      ∀ i : Fin 81, i ≠ p → (d.portLost k p st).fab.ports[i].state = d.fab.ports[i].state := by
  unfold Dev.portLost
  extract_lets -merge +onlyGivenNames d1 q again waiting cold fresh d2 twin d3 keep d4 d5
  have h1 : d1.sec = d.sec ∧ ∀ i : Fin 81, d1.fab.ports[i].state = d.fab.ports[i].state := by
    refine ⟨rfl, fun i => ?_⟩
    simp [d1, Dev.dropBuffers]
  have h2 : d2.sec = d1.sec ∧ d2.fab.ports[p].state = st ∧ ∀ i : Fin 81, i ≠ p → d2.fab.ports[i].state = d1.fab.ports[i].state := by
    refine ⟨rfl, ?_, fun i hi => ?_⟩
    · rw [Dev.port_modPort, if_pos rfl]
    · rw [Dev.port_modPort, if_neg hi]
  clear_value d2 d1
  have h3 : d3.sec = d2.sec ∧ d3.fab = d2.fab := by
    unfold d3
    split <;> exact ⟨rfl, rfl⟩
  have h4 : d4.sec = d3.sec ∧ d4.fab = d3.fab := by
    unfold d4 Dev.countPort
    split <;> exact ⟨rfl, rfl⟩
  clear_value d4 d3
  have h5 : d4.Passes d5 := Dev.Passes.foldl _ _ fun e i => e.passes_routePacket ..
  clear_value d5
  have h6 := d5.touches_parentsChanged k
  rw [h6.sec, h5.sec, h4.1, h3.1, h2.1, h1.1, h6.fab]
  refine ⟨rfl, ?_, fun i hi => ?_⟩
  · rw [(h5.port p).state, h4.2, h3.2, h2.2.1]
  · rw [(h5.port i).state, h4.2, h3.2, h2.2.2 i hi, h1.2]

/-! ### What a command of a port makes of the device -/

variable {d : Dev} {i : Fin 81} {fd : Fin 10} {port : Fin 8}

theorem portNumber_lt (fd : Fin 10) (port : Fin 8) : 8 * fd.val + port.val < 80 := by omega

theorem Dev.portCommand_eq (d : Dev) (k : Clock) (cmd : Nat) (hi : i.val = 8 * fd.val + port.val) :
    d.portCommand k fd port cmd =
      if !d.portPresent i then (d, false)
      else match cmd with
        | 1 => if d.fab.ports[i].state = .disabled then
            (d.modPort i fun q => { q with state := .down, trainAt := k.count }, true) else (d, false)
        | 2 => if d.fab.ports[i].state = .disabled then (d, false) else (d.portLost k i .disabled, true)
        | 3 => if d.fab.ports[i].state = .quarantine || d.fab.ports[i].state = .up then (d.sendOneHop k i 0x01 [], true)
            else (d, false)
        | _ => (d, false) := by
  obtain ⟨n, hn⟩ := i
  dsimp only at hi
  subst hi
  unfold Dev.portCommand
  exact dif_pos (portNumber_lt fd port)

theorem Dev.portCommand_enable {d : Dev} (k : Clock) (hi : i.val = 8 * fd.val + port.val) (hp : d.portPresent i = true) :
    (d.portCommand k fd port 1).1 = if d.fab.ports[i].state = .disabled then
      d.modPort i fun q => { q with state := .down, trainAt := k.count } else d := by
  rw [Dev.portCommand_eq d k 1 hi, hp, apply_ite Prod.fst, if_neg (by decide)]
  exact apply_ite Prod.fst ..

theorem Dev.portCommand_disable {d : Dev} (k : Clock) (hi : i.val = 8 * fd.val + port.val) (hp : d.portPresent i = true) :
    (d.portCommand k fd port 2).1 = if d.fab.ports[i].state = .disabled then d else d.portLost k i .disabled := by
  rw [Dev.portCommand_eq d k 2 hi, hp, apply_ite Prod.fst, if_neg (by decide)]
  exact apply_ite Prod.fst ..

/-- A port that exchanges probes (R318). -/
def Port.probes (q : Port) : Prop := q.state = .quarantine ∨ q.state = .up

theorem Dev.portCommand_probe {d : Dev} (k : Clock) (hi : i.val = 8 * fd.val + port.val) (hp : d.portPresent i = true)
    (h : d.fab.ports[i].probes) : (d.portCommand k fd port 3).1 = d.sendOneHop k i 0x01 [] := by
  rw [Dev.portCommand_eq d k 3 hi, hp, apply_ite Prod.fst, if_neg (by decide)]
  exact congrArg Prod.fst (if_pos (by rw [Bool.or_eq_true, decide_eq_true_eq, decide_eq_true_eq]; exact h))

theorem Dev.portCommand_unprobed {d : Dev} (k : Clock) (hi : i.val = 8 * fd.val + port.val) (hp : d.portPresent i = true)
    (h : ¬ d.fab.ports[i].probes) : (d.portCommand k fd port 3).1 = d := by
  rw [Dev.portCommand_eq d k 3 hi, hp, apply_ite Prod.fst, if_neg (by decide)]
  exact congrArg Prod.fst (if_neg (by rw [Bool.or_eq_true, decide_eq_true_eq, decide_eq_true_eq]; exact h))

theorem Dev.portCommand_sec (d : Dev) (k : Clock) (cmd : Nat) (hi : i.val = 8 * fd.val + port.val) :
    (d.portCommand k fd port cmd).1.sec = d.sec := by
  rw [Dev.portCommand_eq d k cmd hi]
  split
  · rfl
  · split
    · split <;> rfl
    · split
      · rfl
      · exact (d.portLost_effect k i .disabled).1
    · split
      · exact (d.passes_sendOneHop k i 0x01 []).sec
      · rfl
    · rfl

/-- A completed command of a port: what it makes of the device, but for the record of the write. -/
theorem State.portPair {s : State} {m : Master} {same : Bool} {p : Page} {cmd : Nat}
    (h : s.PairReady m same (fabPage fd) (4 + 0x20 * port.val) cmd p) (hcmd : cmd < 4)
    (hi : i.val = 8 * fd.val + port.val) :
    (s.paired m same (fabPage fd) (4 + 0x20 * port.val)).portPresent i = true ∧ ∃ t, s.writeComplement m same (fabPage fd) (4 + 0x20 * port.val) cmd =
        .next { s with clk := s.writeClock m same (fabPage fd), dev := t } ∧
      ((s.paired m same (fabPage fd) (4 + 0x20 * port.val)).portCommand (s.writeClock m same (fabPage fd)) fd port cmd).1.Touches
        [.regs, .ctl, .updated] (.fabPortCmd :: fldsCommon) t := by
  obtain ⟨rfl, hfd⟩ := Dev.openPage_fab h.reaches.opened
  refine ⟨?_, ?_⟩
  · have : i.val / 8 < s.dev.order.fabricDies := by omega
    change s.dev.portPresent i = true
    simp [Dev.portPresent, this]
  · have heff := (s.paired m same (fabPage fd) (4 + 0x20 * port.val)).pairEffect_port (s.writeClock m same (fabPage fd))
      fd port cmd
    rw [Nat.mod_eq_of_lt hcmd] at heff
    exact State.writeComplement_at h (fieldAt_portCmd fd port) (by omega) (by omega) (fun h => nomatch h) heff
      (congrArg Sec.reports (Dev.portCommand_sec _ _ _ hi))

end Sys2Proof.Machine
end

section
/-! SUPPORT. The bytes of the packets that a device makes (R325, R441 to R443). -/

-- One proof at a time: each thread that elaborates beside the others reserves its stack.
set_option Elab.async false

namespace Sys2Proof.Machine

open Sys2Proof

/-! ### Slices -/

theorem getD_padTo {l : List Byte} {n : Nat} (h : l.length ≤ n) (i : Nat) : (padTo 0 n l).getD i 0 = l.getD i 0 := by
  unfold padTo
  rw [List.take_of_length_le h, List.getD_eq_getElem?_getD, List.getD_eq_getElem?_getD]
  by_cases hi : i < l.length
  · rw [List.getElem?_append_left hi]
  · rw [List.getElem?_append_right (by omega), List.getElem?_eq_none (l := l) (by omega), List.getElem?_replicate]
    split <;> rfl

/-- A slice byte by byte: past the end of the list it is zero. -/
theorem slice_eq_map (l : List Byte) (o n : Nat) : slice l o n = (List.range n).map fun i => l.getD (o + i) 0 := by
  refine List.ext_getElem (by simp) fun i h1 h2 => ?_
  have hi : i < n := by simpa using h1
  simp only [slice, padTo, List.getElem_map, List.getElem_range, List.getElem_append, List.length_take, List.length_drop,
    List.getElem_take, List.getElem_drop, List.getElem_replicate, List.getD_eq_getElem?_getD]
  split
  · rw [List.getElem?_eq_getElem (by omega)]
    rfl
  · rw [List.getElem?_eq_none (by omega)]
    rfl

theorem slice_padTo {l : List Byte} {n : Nat} (h : l.length ≤ n) (o m : Nat) : slice (padTo 0 n l) o m = slice l o m := by
  simp only [slice_eq_map, getD_padTo h]

theorem slice_append_left {a : List Byte} (b : List Byte) {o n : Nat} (h : o + n ≤ a.length) :
    slice (a ++ b) o n = slice a o n := by
  rw [slice_eq_map, slice_eq_map]
  refine List.map_congr_left fun i hi => ?_
  have := List.mem_range.mp hi
  rw [List.getD_eq_getElem?_getD, List.getElem?_append_left (by omega), ← List.getD_eq_getElem?_getD]

theorem slice_append_right {a : List Byte} (b : List Byte) {m : Nat} (h : a.length = m) (o n : Nat) :
    slice (a ++ b) (m + o) n = slice b o n := by
  subst h
  rw [slice, slice, List.drop_append, List.drop_eq_nil_of_le (by omega), List.nil_append]
  congr 2
  omega

theorem slice_whole {l : List Byte} {n : Nat} (h : l.length = n) : slice l 0 n = l := by
  rw [slice_of_le (by omega), List.drop_zero, List.take_of_length_le (by omega)]

theorem field_leBytes (n v : Nat) : field (leBytes n v) 0 n = v % 256 ^ n := by
  rw [field, slice_whole (leBytes_size n v), leNat_leBytes]

/-! ### What a made packet carries -/

theorem ceilDiv_mul_ge (a : Nat) : a ≤ 64 * max 1 (ceilDiv a 64) := by
  unfold ceilDiv
  omega

/-- The content of a sending, up to whole units of 64 bytes. -/
def Sending.padded (s : Sending) : List Byte := padTo 0 (64 * max 1 (ceilDiv s.payload.length 64)) s.payload

theorem Sending.slice_padded (s : Sending) (o n : Nat) : slice s.padded o n = slice s.payload o n :=
  slice_padTo (ceilDiv_mul_ge _) o n

theorem Sending.length_padded (s : Sending) : 64 ≤ s.padded.length := by
  rw [Sending.padded, length_padTo]
  omega

/-- The packets that carry a MAC: those of the management channel with a sealed operation, of a fixed session (R442). -/
def Dev.seals (d : Dev) (s : Sending) : Prop :=
  d.sec.fixed = true ∧ BitVec.ofNat 2 s.chan = 3 ∧ opSealed (BitVec.ofNat 8 s.op).toNat = true

theorem Dev.payload_plain {d : Dev} {s : Sending} (h : ¬ d.seals s) (mid order fl : Nat) :
    (d.makePacket s mid order fl).payload = s.padded := by
  unfold Dev.makePacket Dev.addMac
  dsimp only
  rw [if_neg]
  · rfl
  · rw [Bool.and_eq_true, Bool.and_eq_true, decide_eq_true_eq]
    exact fun hh => h ⟨hh.1.1, hh.1.2, hh.2⟩

theorem Dev.makePacket_sealed {d : Dev} {s : Sending} (h : d.seals s) (mid order fl : Nat) :
    ∃ p : Packet, p.payload = s.padded ∧
      d.makePacket s mid order fl = { p.sealed d.sec.key with crc := (p.sealed d.sec.key).crcOf } := by
  unfold Dev.makePacket Dev.addMac
  dsimp only
  rw [if_pos (by rw [Bool.and_eq_true, Bool.and_eq_true, decide_eq_true_eq]; exact ⟨⟨h.1, h.2.1⟩, h.2.2⟩)]
  exact ⟨_, rfl, rfl⟩

/-- The MAC of a packet that the device seals verifies under the session key. -/
theorem Dev.macGood_makePacket {d : Dev} {s : Sending} (h : d.seals s) (mid order fl : Nat) :
    (d.makePacket s mid order fl).macGood d.sec.key = true := by
  obtain ⟨p, hp, hmade⟩ := d.makePacket_sealed h mid order fl
  rw [hmade]
  exact macGood_sealed p d.sec.key (by rw [hp]; exact s.length_padded)

/-- Outside the bytes of a MAC a packet carries what is sent. -/
theorem Dev.payload_makePacket (d : Dev) (s : Sending) (mid order fl : Nat) :
    (d.makePacket s mid order fl).payload.take 32 = s.padded.take 32 ∧
      (d.makePacket s mid order fl).payload.drop 64 = s.padded.drop 64 := by
  by_cases h : d.seals s
  · obtain ⟨p, hp, hmade⟩ := d.makePacket_sealed h mid order fl
    obtain ⟨htake, hdrop, -⟩ := sealed_payload p d.sec.key (by rw [hp]; exact s.length_padded)
    rw [hmade, ← hp]
    exact ⟨htake, hdrop⟩
  · rw [Dev.payload_plain h]
    exact ⟨rfl, rfl⟩

/-- The content of an agent's message comes out of the packet that carries it. -/
theorem Dev.agentContent_makePacket {d : Dev} {s : Sending} {content : List Byte} (hs : s.payload = agentPayload content)
    (hlen : content.length < 2 ^ 16) (mid order fl : Nat) : agentContent (d.makePacket s mid order fl) = content := by
  have hplain : ∀ p : Packet, p.payload = s.padded → agentContent p = content := fun p hp => by
    have hhead : (leBytes 2 content.length ++ List.replicate 62 0 : List Byte).length = 64 := by simp [leBytes_size]
    have hlength : field s.payload 0 2 = content.length := by
      rw [hs, agentPayload, List.append_assoc, field, slice_append_left _ (by rw [leBytes_size]), ← field, field_leBytes]
      omega
    unfold agentContent
    rw [field, hp, s.slice_padded, s.slice_padded, ← field, hlength, hs, agentPayload]
    exact (slice_append_right content hhead 0 _).trans (slice_whole rfl)
  by_cases h : d.seals s
  · obtain ⟨p, hp, hmade⟩ := d.makePacket_sealed h mid order fl
    rw [hmade]
    exact (agentContent_sealed p d.sec.key (by rw [hp]; exact s.length_padded)).trans (hplain p hp)
  · exact hplain _ (Dev.payload_plain h ..)

end Sys2Proof.Machine
end

section
/-! SUPPORT. Probes, and packets that arrive on a port (chapter 15, R318, R328). -/

-- One proof at a time: each thread that elaborates beside the others reserves its stack.
set_option Elab.async false

namespace Sys2Proof.Machine

open Sys2Proof

/-! ### What putting a packet to a port leaves -/

theorem Dev.toDeliver_sendHead (d : Dev) (k : Clock) (p : Fin 81) (v : Nat) :
    (d.sendHead k p v).fab.toDeliver = d.fab.toDeliver := by
  unfold Dev.sendHead
  extract_lets -merge +onlyGivenNames q
  split
  · rfl
  · next i hi =>
    extract_lets -merge +onlyGivenNames n q' d1 src d2 idx d3
    have h1 : d1.fab.toDeliver = d.fab.toDeliver := (Dev.tells_freeBuffer ..).toDeliver
    have h3 : d3.fab.toDeliver = d2.fab.toDeliver := by
      unfold d3
      split
      · rfl
      · exact (Dev.tells_addWork ..).toDeliver
    split
    · exact (Dev.tells_addWork ..).toDeliver.trans h1
    · exact h3.trans h1

theorem Dev.toDeliver_pumpLoop (k : Clock) (p : Fin 81) (n : Nat) (d : Dev) :
    (Dev.pumpLoop k p n d).fab.toDeliver = d.fab.toDeliver := by
  induction n generalizing d with
  | zero => rfl
  | succ n ih =>
    rw [Dev.pumpLoop]
    split
    · rfl
    · split
      · exact (ih _).trans (d.tells_sendData k p).toDeliver
      · split
        · exact (ih _).trans (d.toDeliver_sendHead k p _)
        · split
          · rfl
          · exact (ih _).trans (d.tells_sendData k p).toDeliver

theorem Dev.toDeliver_enqueue (d : Dev) (k : Clock) (p : Fin 81) (i : QPacket) :
    (d.enqueue k p i).fab.toDeliver = d.fab.toDeliver := by
  unfold Dev.enqueue Dev.pump
  dsimp only
  split
  · exact (Dev.tells_tell ..).toDeliver.trans (Dev.toDeliver_pumpLoop ..)
  · rfl

theorem Dev.toDeliver_toPort (d : Dev) (k : Clock) (i : QPacket) (l : List (Place × Nat)) (o : Fin 81) :
    (d.toPort k i l o).fab.toDeliver = d.fab.toDeliver := by
  unfold Dev.toPort
  dsimp only
  rw [Dev.toDeliver_enqueue]
  split
  · exact (d.tells_gather l _).toDeliver
  · rfl

/-! ### One-hop packets -/

/-- The packet to the link partner that an operation and its content make. -/
def Dev.partnerPacket (d : Dev) (op : Nat) (b : List Byte) : Packet :=
  d.makePacket ⟨d.mgmtKey, 0xFFFF, 3, op, 0, 0, b, some 0, []⟩ 0xFFFF 0 0

theorem Dev.partnerPacket_header (d : Dev) (op : Nat) (b : List Byte) :
    (d.partnerPacket op b).dst = 0xFFFF ∧ (d.partnerPacket op b).chan = 3 ∧
      (d.partnerPacket op b).op = BitVec.ofNat 8 op ∧ (d.partnerPacket op b).crc = (d.partnerPacket op b).crcOf := by
  obtain ⟨hdst, -, hchan, hop, -, -, -, -, hcrc⟩ :=
    d.makePacket_header ⟨d.mgmtKey, 0xFFFF, 3, op, 0, 0, b, some 0, []⟩ 0xFFFF 0 0
  exact ⟨hdst, hchan, hop, hcrc⟩

theorem QPacket.sent_partner {i : QPacket} (h : i.packet.dst = 0xFFFF) : i.sent = i.packet := if_pos h

theorem Dev.sendOneHop_eq (d : Dev) (k : Clock) (port : Fin 81) (op : Nat) (b : List Byte) : d.sendOneHop k port op b =
    if d.fab.ports[port].carries (d.partnerPacket op b) then
      d.enqueue k port ⟨d.partnerPacket op b, portDie port, none, false⟩ else d := rfl

/-- A packet to the partner leaves on a port that carries it. -/
theorem Dev.leaves_sendOneHop {d : Dev} {port : Fin 81} (hq : d.fab.ports[port].queues.length = 8) (k : Clock) {op : Nat}
    (b : List Byte) (hc : d.fab.ports[port].carries (d.partnerPacket op b) = true) :
    (d.sendOneHop k port op b).Leaves port (d.partnerPacket op b) := by
  have hsent := Dev.leaves_enqueue hq k ⟨d.partnerPacket op b, portDie port, none, false⟩
  rw [QPacket.sent_partner (d.partnerPacket_header op b).1] at hsent
  rw [Dev.sendOneHop_eq, if_pos hc]
  exact hsent

/-- A packet to the link partner on a port that carries it, as its handler finds the device: taken out of the buffer. -/
def Dev.taken (d : Dev) (k : Clock) (port : Fin 81) (p : Packet) : Dev :=
  (d.takeIn port p).freeBuffer k ⟨p, portDie port, some (port, p.vc), false⟩

theorem Dev.tells_taken (d : Dev) (k : Clock) (port : Fin 81) (p : Packet) : (d.takeIn port p).Tells (d.taken k port p) :=
  Dev.tells_freeBuffer ..

theorem Dev.oneHop_taken {d : Dev} {k : Clock} {port : Fin 81} {p : Packet} {f : Dev → Dev} (hp : p.dst = 0xFFFF)
    (hc : d.fab.ports[port].carries p = true) : d.oneHop k port p f =
      some (if p.good then f (d.taken k port p) else (d.taken k port p).count .fabRtCrcDrop 1 (portDie port)) := by
  unfold Dev.oneHop
  rw [if_pos (Bool.and_eq_true_iff.mpr ⟨decide_eq_true hp, hc⟩)]
  rfl

theorem Dev.oneHop_none {d : Dev} {k : Clock} {port : Fin 81} {p : Packet} {f : Dev → Dev}
    (h : p.dst ≠ 0xFFFF ∨ d.fab.ports[port].carries p = false) : d.oneHop k port p f = none := by
  unfold Dev.oneHop
  rw [if_neg]
  rw [Bool.and_eq_true, decide_eq_true_eq]
  rintro ⟨hp, hc⟩
  rcases h with h | h
  · exact h hp
  · rw [h] at hc
    cases hc

theorem Port.carries_iff (q : Port) (p : Packet) :
    q.carries p = true ↔ q.state = .up ∨ ((q.state = .quarantine ∨ q.state = .up) ∧ p.isProbe = true) := by
  unfold Port.carries
  rw [Bool.or_eq_true, Bool.and_eq_true, decide_eq_true_eq, decide_eq_true_eq]
  tauto

theorem Dev.isProbe_partnerPacket (d : Dev) (b : List Byte) {op : Nat} (h : op = 0x01 ∨ op = 0x81) :
    (d.partnerPacket op b).isProbe = true := by
  unfold Packet.isProbe
  rw [(d.partnerPacket_header op b).2.2.1]
  rcases h with rfl | rfl <;> decide

/-! ### The commands -/

variable {s : State} {i : Fin 81} {p : Packet}

theorem Dev.Leaves.congr {d e : Dev} {x : Packet} (h : d.Leaves i x) (hf : e.fab = d.fab) (ho : e.out = d.out) :
    e.Leaves i x := by
  unfold Dev.Leaves
  rw [hf, ho]
  exact h

/-- A completed PROBE_SEND: what it makes of the device, but for the record of the write. -/
theorem exec_probeSend {m : Master} {same : Bool} {fd : Fin 10} {port : Fin 8} {q : Page}
    (hi : i.val = 8 * fd.val + port.val) (h : s.PairReady m same (fabPage fd) (4 + 0x20 * port.val) 3 q) :
    ∃ t e : Dev, exec (.probeSend m same fd port) s = .next { s with clk := s.writeClock m same (fabPage fd), dev := t } ∧
      t.mem = s.dev.mem ∧ t.cores = s.dev.cores ∧ t.job = s.dev.job ∧ t.fab = e.fab ∧ t.out = e.out ∧
      ∃ d : Dev, d.fab = s.dev.fab ∧ (s.dev.fab.ports[i].probes → e = d.sendOneHop (s.writeClock m same (fabPage fd)) i 0x01 []) ∧
        (¬ s.dev.fab.ports[i].probes → e = d) := by
  obtain ⟨hpresent, t, ht, htouch⟩ := State.portPair h (by decide) hi
  have hp := s.touches_paired m same (fabPage fd) (4 + 0x20 * port.val)
  have hcmd := Dev.touches_portCommand (s.paired m same (fabPage fd) (4 + 0x20 * port.val)) (s.writeClock m same (fabPage fd))
    fd port 3
  refine ⟨t, _, ht, ?_, ?_, ?_, htouch.fab, htouch.out, s.paired m same (fabPage fd) (4 + 0x20 * port.val), rfl,
    fun hprobes => ?_, fun hprobes => ?_⟩
  · rw [htouch.mem, hcmd.mem, hp.mem]
  · rw [htouch.cores, hcmd.cores, hp.cores]
  · rw [htouch.job, hcmd.job, hp.job]
  · exact Dev.portCommand_probe _ hi hpresent hprobes
  · exact Dev.portCommand_unprobed _ hi hpresent hprobes

theorem Port.Kept.carries {q r : Port} (h : q.Kept r) (p : Packet) : r.carries p = q.carries p := by
  unfold Port.carries
  rw [h.state]

theorem Dev.taken_port (d : Dev) (k : Clock) (port i : Fin 81) (p : Packet) :
    d.fab.ports[i].Kept (d.taken k port p).fab.ports[i] := (d.tells_taken k port p).port i

/-- A whole probe is answered on its port. -/
theorem exec_probe (hc : s.dev.clocked = true) (hq : s.dev.fab.ports[i].queues.length = 8) (hp : p.dst = 0xFFFF)
    (hop : p.op = 0x01) (hport : s.dev.fab.ports[i].probes) (hgood : p.good = true) :
    ∃ t, exec (.probe i p) s = .next { s with dev := t } ∧ s.dev.Sends t ∧ t.fab.inbox = s.dev.fab.inbox.erase (i, p) ∧
      ∃ d : Dev, d.node = s.dev.node ∧
        t.Leaves i (d.partnerPacket 0x81 (leBytes 2 d.node ++ leBytes 6 (portCode i) ++ leBytes 8 s.clk.count)) := by
  have hcarries : s.dev.fab.ports[i].carries p = true :=
    (Port.carries_iff _ _).mpr (.inr ⟨hport, by rw [Packet.isProbe, hop]; rfl⟩)
  have htaken := s.dev.tells_taken s.clk i p
  generalize hd : s.dev.taken s.clk i p = d at htaken
  have hsend := d.passes_sendOneHop s.clk i 0x81 (leBytes 2 d.node ++ leBytes 6 (portCode i) ++ leBytes 8 s.clk.count)
  have hsends : s.dev.Sends d := ((Dev.Sends.refl s.dev).fab _).trans htaken.sends
  refine ⟨_, ?_, hsends.trans hsend.sends, ?_, d, hsends.rd .., Dev.leaves_sendOneHop ?_ s.clk _ ?_⟩
  · change execProbe i p s = _
    unfold execProbe
    refine State.now_quiet hc ?_ (congrArg Sec.reports (hsend.sec.trans htaken.sec))
    rw [if_neg (by simp [hop]), Dev.oneHop_taken hp hcarries, if_pos hgood, hd]
  · rw [hsend.fab, htaken.fab]
    rfl
  · exact (htaken.port i).queues.trans hq
  · refine (Port.carries_iff _ _).mpr (.inr ⟨?_, d.isProbe_partnerPacket _ (.inr rfl)⟩)
    rw [(htaken.port i).state]
    exact hport

/-- A port whose partner has answered. -/
def Port.partnered (p : Packet) (q : Port) : Port :=
  { q with partner := some (field p.payload 0 2, field p.payload 2 1 % 128), partnerValid := true }

/-- A whole probe answer records the partner. -/
theorem exec_probeAnswer (hc : s.dev.clocked = true) (hp : p.dst = 0xFFFF) (hop : p.op = 0x81)
    (hport : s.dev.fab.ports[i].probes) (hgood : p.good = true) :
    ∃ t, exec (.probeAnswer i p) s = .next { s with dev := t } ∧ s.dev.Sends t ∧
      t.fab.inbox = s.dev.fab.inbox.erase (i, p) ∧
      t.fab.ports[i].partner = some (field p.payload 0 2, field p.payload 2 1 % 128) ∧ t.fab.ports[i].partnerValid = true := by
  have hcarries : s.dev.fab.ports[i].carries p = true :=
    (Port.carries_iff _ _).mpr (.inr ⟨hport, by rw [Packet.isProbe, hop]; rfl⟩)
  have htaken := s.dev.tells_taken s.clk i p
  generalize hd : s.dev.taken s.clk i p = d at htaken
  have hsends : s.dev.Sends d := ((Dev.Sends.refl s.dev).fab _).trans htaken.sends
  refine ⟨d.modPort i (Port.partnered p), ?_, hsends.modPort i _, ?_, ?_, ?_⟩
  · change execProbeAnswer i p s = _
    unfold execProbeAnswer
    refine State.now_quiet hc ?_ (congrArg Sec.reports htaken.sec)
    rw [if_neg (by simp [hop]), Dev.oneHop_taken hp hcarries, if_pos hgood, hd]
    rfl
  · change d.fab.inbox = _
    rw [htaken.fab]
    rfl
  · rw [Dev.port_modPort, if_pos rfl]
    rfl
  · rw [Dev.port_modPort, if_pos rfl]
    rfl

/-- A packet to the partner that is not whole is taken out of its buffer and counted. -/
theorem State.oneHop_broken {f : Clock → Dev → Dev} (hc : s.dev.clocked = true) (hp : p.dst = 0xFFFF)
    (hcarries : s.dev.fab.ports[i].carries p = true) (hgood : p.good = false) :
    ∃ t, s.now (fun k d => d.oneHop k i p (f k)) = .next { s with dev := t } ∧ s.dev.Sends t ∧
      t.fab.inbox = s.dev.fab.inbox.erase (i, p) ∧ t.out.sent = s.dev.out.sent ∧
      ∀ j : Fin 81, t.fab.ports[j].partner = s.dev.fab.ports[j].partner := by
  have htaken := (s.dev.tells_taken s.clk i p).trans (Dev.tells_count _ .fabRtCrcDrop 1 (portDie i) 0)
  refine ⟨_, State.now_quiet hc ((Dev.oneHop_taken hp hcarries).trans (congrArg some (if_neg (by simp [hgood]))))
    (congrArg Sec.reports htaken.sec), ((Dev.Sends.refl s.dev).fab _).trans htaken.sends, ?_, htaken.sent, fun j =>
    (htaken.port j).partner⟩
  rw [htaken.fab]
  rfl

/-- A command of a one-hop packet with its operation takes it on its port. -/
theorem exec_oneHop {c : Instr × BitVec 8} (h : c ∈ [(Instr.probe i p, (0x01 : BitVec 8)), (.probeAnswer i p, 0x81)])
    (hop : p.op = c.2) : ∃ f : Clock → Dev → Dev, exec c.1 s = s.now fun k d => d.oneHop k i p (f k) := by
  rcases List.mem_cons.mp h with rfl | h
  · refine ⟨fun k d => d.sendOneHop k i 0x81 (leBytes 2 d.node ++ leBytes 6 (portCode i) ++ leBytes 8 k.count), ?_⟩
    change execProbe i p s = _
    unfold execProbe
    simp only [hop, ne_eq, not_true_eq_false, if_false]
  · obtain rfl := List.mem_singleton.mp h
    refine ⟨fun _ d => d.modPort i (Port.partnered p), ?_⟩
    change execProbeAnswer i p s = _
    unfold execProbeAnswer
    simp only [hop, ne_eq, not_true_eq_false, if_false]
    rfl

theorem exec_probe_none (h : p.dst ≠ 0xFFFF ∨ s.dev.fab.ports[i].carries p = false) : exec (.probe i p) s = .next s := by
  change execProbe i p s = _
  unfold execProbe
  refine State.now_none ?_
  split
  · rfl
  · exact Dev.oneHop_none h

theorem exec_probeAnswer_none (h : p.dst ≠ 0xFFFF ∨ s.dev.fab.ports[i].carries p = false) :
    exec (.probeAnswer i p) s = .next s := by
  change execProbeAnswer i p s = _
  unfold execProbeAnswer
  refine State.now_none ?_
  split
  · rfl
  · exact Dev.oneHop_none h

/-- A packet to the partner that is whole is released. -/
theorem State.oneHop_released (hc : s.dev.clocked = true) (hp : p.dst = 0xFFFF)
    (hcarries : s.dev.fab.ports[i].carries p = true) :
    ∃ t, exec (.packetArrive i p) s = .next { s with dev := t } ∧ s.dev.Sends t ∧
      t.out.released = s.dev.out.released ++ (if p.good then [p] else []) ∧ t.fab.inbox = s.dev.fab.inbox.erase (i, p) := by
  have hexec : exec (.packetArrive i p) s = s.now fun k d =>
      if p.dst = 0xFFFF then
        d.oneHop k i p fun d => { d with out := { d.out with released := d.out.released ++ [p] } }
      else if d.fab.ports[i].state = .up then some ((d.takeIn i p).arrive k i p)
      else none := rfl
  have htaken := s.dev.tells_taken s.clk i p
  by_cases hgood : p.good = true
  · refine ⟨{ s.dev.taken s.clk i p with
      out := { (s.dev.taken s.clk i p).out with released := (s.dev.taken s.clk i p).out.released ++ [p] } }, ?_,
      (((Dev.Sends.refl s.dev).fab _).trans htaken.sends).out _, ?_, ?_⟩
    · rw [hexec]
      refine State.now_quiet hc ?_ (congrArg Sec.reports htaken.sec)
      rw [if_pos hp, Dev.oneHop_taken hp hcarries, if_pos hgood]
    · rw [if_pos hgood]
      change (s.dev.taken s.clk i p).out.released ++ [p] = _
      rw [htaken.out]
      rfl
    · change (s.dev.taken s.clk i p).fab.inbox = _
      rw [htaken.fab]
      rfl
  · have hcount := htaken.trans (Dev.tells_count _ .fabRtCrcDrop 1 (portDie i) 0)
    refine ⟨(s.dev.taken s.clk i p).count .fabRtCrcDrop 1 (portDie i), ?_,
      ((Dev.Sends.refl s.dev).fab _).trans hcount.sends, ?_, ?_⟩
    · rw [hexec]
      refine State.now_quiet hc ?_ (congrArg Sec.reports hcount.sec)
      rw [if_pos hp, Dev.oneHop_taken hp hcarries, if_neg hgood]
    · rw [if_neg hgood, List.append_nil, hcount.out]
      rfl
    · rw [hcount.fab]
      rfl

theorem exec_packetArrive_up (hc : s.dev.clocked = true) (hp : p.dst ≠ 0xFFFF) (hup : s.dev.fab.ports[i].state = .up) :
    exec (.packetArrive i p) s = .next { s with dev := (s.dev.takeIn i p).arrive s.clk i p } := by
  change execPacketArrive i p s = _
  unfold execPacketArrive
  refine State.now_quiet hc ?_ (congrArg Sec.reports (Dev.passes_arrive ..).sec)
  rw [if_neg hp, if_pos hup]

theorem Dev.field_probeAnswer (d : Dev) (node code count : Nat) :
    let x := d.partnerPacket 0x81 (leBytes 2 node ++ leBytes 6 code ++ leBytes 8 count)
    field x.payload 0 2 = node % 2 ^ 16 ∧ field x.payload 2 6 = code % 2 ^ 48 ∧ field x.payload 8 8 = count % 2 ^ 64 := by
  intro x
  have hplain : x.payload = Sending.padded ⟨d.mgmtKey, 0xFFFF, 3, 0x81, 0, 0,
      leBytes 2 node ++ leBytes 6 code ++ leBytes 8 count, some 0, []⟩ :=
    Dev.payload_plain (fun h => absurd h.2.2 (show ¬ opSealed (BitVec.ofNat 8 0x81).toNat = true by decide)) ..
  have hlen : (leBytes 2 node ++ leBytes 6 code : List Byte).length = 8 := by
    rw [List.length_append, leBytes_size, leBytes_size]
  simp only [field, hplain, Sending.slice_padded]
  refine ⟨?_, ?_, ?_⟩
  · rw [slice_append_left _ (by omega), slice_append_left _ (by rw [leBytes_size])]
    exact field_leBytes 2 node
  · rw [slice_append_left _ (by omega)]
    exact (congrArg leNat (slice_append_right _ (leBytes_size 2 node) 0 6)).trans (field_leBytes 6 code)
  · exact (congrArg leNat (slice_append_right _ hlen 0 8)).trans (field_leBytes 8 count)

/-- Where a packet goes on from a fabric die (R328). -/
theorem Dev.routePacket_effect (d : Dev) (k : Clock) (i : QPacket) (l : List (Place × Nat))
    (hq : ∀ o : Fin 81, d.fab.ports[o].queues.length = 8) :
    let x := i.packet.atNode d.node
    let t := d.routePacket k i l
    if x.phase2 = true ∧ x.dst.toNat = d.node then
      t.out.sent = d.out.sent ∧ t.fab.toDeliver = d.fab.toDeliver ++ [(i.fd, x)]
    else t.fab.toDeliver = d.fab.toDeliver ∧
      if x.hops = 15 ∨ d.choosePort i.fd x = none then t.out.sent = d.out.sent
      else ∃ o, d.choosePort i.fd x = some o ∧ t.Leaves o (QPacket.sent { i with packet := x }) := by
  intro x t
  unfold t Dev.routePacket
  extract_lets -merge +onlyGivenNames i' p
  by_cases hends : x.phase2 = true ∧ x.dst.toNat = d.node
  · rw [if_pos hends, if_pos (by rw [Bool.and_eq_true, decide_eq_true_eq]; exact hends)]
    have h := Dev.tells_freeBuffer { d with fab := { d.fab with toDeliver := d.fab.toDeliver ++ [(i'.fd, p)] } } k i'
    exact ⟨h.sent, h.toDeliver⟩
  · rw [if_neg hends, if_neg (by rw [Bool.and_eq_true, decide_eq_true_eq]; exact hends)]
    by_cases hhops : x.hops = 15
    · have h := (Dev.tells_count d .fabRtHopDrop 1 i'.fd 0).trans (Dev.tells_freeBuffer _ k i')
      rw [if_pos hhops, if_pos (.inl hhops)]
      exact ⟨h.toDeliver, h.sent⟩
    · rw [if_neg hhops]
      cases ho : d.choosePort i.fd x with
      | none =>
        have h := (Dev.tells_count d .fabRtNoroute 1 i'.fd 0).trans (Dev.tells_freeBuffer _ k i')
        rw [if_pos (.inr rfl)]
        exact ⟨h.toDeliver, h.sent⟩
      | some o =>
        rw [if_neg fun hh => hh.elim hhops fun hn => nomatch hn]
        exact ⟨Dev.toDeliver_toPort .., o, rfl, Dev.leaves_toPort (hq o) k i' l⟩

/-- Where a packet that arrives goes on. -/
theorem Dev.arrive_effect (d : Dev) (k : Clock) (hq : ∀ i : Fin 81, d.fab.ports[i].queues.length = 8) (hp : p.dst ≠ 0xFFFF) :
    let x := p.atNode d.node
    let t := d.arrive k i p
    if x.phase2 = true ∧ x.dst.toNat = d.node then
      t.out.sent = d.out.sent ∧ t.fab.toDeliver = d.fab.toDeliver ++ [(portDie i, x)]
    else t.fab.toDeliver = d.fab.toDeliver ∧
      if x.hops = 15 ∨ d.choosePort (portDie i) x = none then t.out.sent = d.out.sent
      else ∃ o, d.choosePort (portDie i) x = some o ∧ t.Leaves o { x with hops := x.hops + 1 } := by
  intro x t
  have hx : x.dst ≠ 0xFFFF := by rw [(Packet.atNode_fields p d.node).1]; exact hp
  unfold t Dev.arrive
  extract_lets -merge +onlyGivenNames q ends goes e
  have he : d.Tells e := by
    unfold e
    split
    · exact d.tells_countBytes ..
    · exact .refl d
  clear_value e
  have h := e.routePacket_effect k ⟨p, portDie i, some (i, p.vc), !ends⟩ [] fun o => (he.port o).queues.trans (hq o)
  dsimp only at h
  rw [he.passes.node, he.passes.choosePort, he.sent, he.toDeliver] at h
  have hsent : QPacket.sent ⟨x, portDie i, some (i, p.vc), !ends⟩ = { x with hops := x.hops + 1 } := if_neg hx
  rw [← hsent]
  exact h

end Sys2Proof.Machine

namespace Sys2Proof

open Machine

/-- Settles O43: the port's command, the one-hop packets, and the routing of the others. -/
theorem probesAndRouting : Obligations.ProbesAndRouting := by
  unfold Obligations.ProbesAndRouting
  intro s hc hq kept leaves timed
  have hkept : ∀ {t : Dev}, s.dev.Sends t → kept t := fun h => ⟨h.mem, h.cores, h.job⟩
  refine ⟨fun m same fd port p i hi h => ?_, fun i p hp => ⟨fun ht hg hop => ?_, fun ht hg hop => ?_, fun ht hg c hmem hop => ?_,
    fun ht => ?_⟩, fun i p hp => ?_, fun i p => ?_⟩
  · obtain ⟨t, e, ht, hmem, hcores, hjob, hfab, hout, d, hd, hsends, hnot⟩ := exec_probeSend hi h
    refine ⟨t, ht, ⟨hmem, hcores, hjob⟩, fun hp => ?_, fun hp => ?_⟩
    · obtain ⟨hdst, hchan, hop, hcrc⟩ := d.partnerPacket_header 0x01 []
      refine ⟨d.partnerPacket 0x01 [], ?_, hop, hdst, hchan, hcrc⟩
      refine Dev.Leaves.congr (d := e) ?_ hfab hout
      rw [hsends hp]
      exact Dev.leaves_sendOneHop (hd ▸ hq i) _ _
        ((Port.carries_iff _ _).mpr (.inr ⟨hd ▸ hp, d.isProbe_partnerPacket _ (.inl rfl)⟩))
    · rw [hfab, hnot hp, hd]
  · obtain ⟨t, he, hsends, hinbox, d, hnode, hleaves⟩ := exec_probe hc (hq i) hp hop ht hg
    obtain ⟨hdst, hchan, hop', hcrc⟩ :=
      d.partnerPacket_header 0x81 (leBytes 2 d.node ++ leBytes 6 (portCode i) ++ leBytes 8 s.clk.count)
    refine ⟨t, he, hkept hsends, hinbox, _, hleaves, hop', hdst, hchan, hcrc, ?_⟩
    obtain ⟨hn, hcode, hcount⟩ := d.field_probeAnswer d.node (portCode i) s.clk.count
    refine ⟨hnode ▸ hn, ?_, hcount⟩
    rw [hcode, portCode]
    have := i.isLt
    by_cases h80 : i.val = 80
    · rw [if_pos h80, if_pos (Fin.ext h80)]
      rfl
    · rw [if_neg h80, if_neg fun h => h80 (congrArg Fin.val h)]
      omega
  · obtain ⟨t, he, hsends, hinbox, hpartner, hvalid⟩ := exec_probeAnswer hc hp hop ht hg
    exact ⟨t, he, hkept hsends, hinbox, hpartner, hvalid⟩
  · have hprobe : p.isProbe = true := by
      rcases List.mem_cons.mp hmem with rfl | hmem
      · rw [Packet.isProbe, hop]
        rfl
      · rw [List.mem_singleton.mp hmem] at hop
        rw [Packet.isProbe, hop]
        rfl
    have hcarries := (Port.carries_iff s.dev.fab.ports[i] p).mpr (.inr ⟨ht, hprobe⟩)
    obtain ⟨f, hf⟩ := exec_oneHop (s := s) hmem hop
    obtain ⟨t, he, hsends, hinbox, hsent, hpartner⟩ := State.oneHop_broken (f := f) hc hp hcarries hg
    exact ⟨t, hf.trans he, hkept hsends, hinbox, hsent, hpartner i⟩
  · have hcarries : s.dev.fab.ports[i].carries p = false :=
      Bool.eq_false_iff.mpr fun h => ht (((Port.carries_iff _ _).mp h).elim .inr (·.1))
    exact ⟨exec_probe_none (.inr hcarries), exec_probeAnswer_none (.inr hcarries)⟩
  · exact ⟨exec_probe_none (.inl hp), exec_probeAnswer_none (.inl hp)⟩
  · intro up comes x fd unsent
    refine ⟨fun hp hcomes => ?_, fun hp hup => ?_, fun hp hcomes => ?_, fun hp hup => ?_⟩
    · obtain ⟨t, he, hsends, hrel, hinbox⟩ := State.oneHop_released hc hp ((Port.carries_iff _ _).mpr hcomes)
      exact ⟨t, he, hkept hsends, hrel, hinbox⟩
    · have hpass := (s.dev.takeIn i p).passes_arrive s.clk i p
      have heff := (s.dev.takeIn i p).arrive_effect s.clk (i := i) (fun o => hq o) hp
      refine ⟨_, exec_packetArrive_up hc hp hup, hkept (((Dev.Sends.refl s.dev).fab _).trans hpass.sends), ?_, ?_⟩
      · rw [hpass.fab]
        rfl
      · have hrel : ((s.dev.takeIn i p).arrive s.clk i p).out.released = s.dev.out.released := by
          rw [hpass.out]
          rfl
        dsimp only at heff
        by_cases hends : x.phase2 = true ∧ x.dst.toNat = s.dev.node
        · rw [if_pos hends]
          obtain ⟨hsent, hto⟩ := (if_pos hends ▸ heff :)
          exact ⟨⟨hrel, hsent⟩, hto⟩
        · rw [if_neg hends]
          obtain ⟨hto, hgo⟩ := (if_neg hends ▸ heff :)
          refine ⟨hto, ?_⟩
          split
          · next hstop => exact ⟨hrel, (if_pos hstop ▸ hgo :)⟩
          · next hgoes => exact ⟨hrel, (if_neg hgoes ▸ hgo :)⟩
    · have hcarries : s.dev.fab.ports[i].carries p = false :=
        Bool.eq_false_iff.mpr fun h => hcomes ((Port.carries_iff _ _).mp h)
      change execPacketArrive i p s = _
      unfold execPacketArrive
      exact State.now_none ((if_pos hp).trans (Dev.oneHop_none (.inr hcarries)))
    · change execPacketArrive i p s = _
      unfold execPacketArrive
      exact State.now_none ((if_neg hp).trans (if_neg hup))

end Sys2Proof
end

section
/-! SUPPORT. Delivery in the order of a sequence (chapter 15, R331 to R335). -/

-- One proof at a time: each thread that elaborates beside the others reserves its stack.
set_option Elab.async false

namespace Sys2Proof.Machine

open Sys2Proof

/-! ### The state of a sequence -/

variable {d : Dev} {p : Packet} {r : RxOrder}

theorem RxOrder.same_iff (r : RxOrder) (key : Key) (node chan : Nat) :
    r.same key node chan = true ↔ r.key = key ∧ r.node = node ∧ r.chan = chan := by
  simp [RxOrder.same, and_assoc]

theorem Dev.rxOf_same (d : Dev) (p : Packet) : (d.rxOf p).same p.key p.src.toNat p.chan.toNat = true := by
  unfold Dev.rxOf
  cases h : d.fab.rxOrders.find? fun r => r.same p.key p.src.toNat p.chan.toNat with
  | none => exact (RxOrder.same_iff ..).mpr ⟨rfl, rfl, rfl⟩
  | some r =>
    have hs := List.find?_some h
    exact hs

/-- What is set as a packet's sequence is its sequence then. -/
theorem Dev.rxOf_setRx (d : Dev) (h : r.same p.key p.src.toNat p.chan.toNat = true) : (d.setRx r).rxOf p = r := by
  obtain ⟨hkey, hnode, hchan⟩ := (RxOrder.same_iff ..).mp h
  have hfind : ∀ l : List RxOrder, (if l.any fun u => u.same r.key r.node r.chan then
      l.map fun u => if u.same r.key r.node r.chan then r else u else l ++ [r]).find?
        (fun u => u.same p.key p.src.toNat p.chan.toNat) = some r := by
    intro l
    rw [hkey, hnode, hchan]
    split
    · next hany =>
      induction l with
      | nil => cases hany
      | cons u l ih =>
        by_cases hu : u.same p.key p.src.toNat p.chan.toNat = true
        · simp [hu, h]
        · rw [List.any_cons, Bool.or_eq_true] at hany
          simpa [hu] using ih (hany.resolve_left hu)
    · next hany =>
      rw [List.find?_append, List.find?_eq_none.mpr fun u hu => fun hs => hany (List.any_eq_true.mpr ⟨u, hu, hs⟩)]
      simp [h]
  unfold Dev.rxOf
  rw [show (d.setRx r).fab.rxOrders.find? _ = some r from hfind _]
  rfl

/-! ### Releasing packets -/

/-- What the consumer of a packet is given. -/
def givenOf (p : Packet) (cut : Bool) : List Packet :=
  if (cut = true ∧ p.isStream = true) ∨ p.useless = true then [] else [p]

theorem Dev.consume_effect (d : Dev) (k : Clock) (p : Packet) : (d.consume k p).fab = d.fab ∧ (d.consume k p).sec = d.sec ∧
    (d.consume k p).out = { d.out with released := d.out.released ++ if p.useless then [] else [p] } := by
  unfold Dev.consume
  cases p.useless with
  | false => exact ⟨rfl, rfl, rfl⟩
  | true =>
    rw [if_neg (by decide)]
    split <;> exact ⟨rfl, rfl, by rw [if_pos rfl, List.append_nil]; rfl⟩

theorem Dev.releaseOne_effect (d : Dev) (k : Clock) (p : Packet) (r : RxOrder) :
    (d.releaseOne k p r).1.fab = d.fab ∧ (d.releaseOne k p r).1.sec = d.sec ∧
      (d.releaseOne k p r).1.out = { d.out with released := d.out.released ++ givenOf p r.cutting } ∧
      (d.releaseOne k p r).2.held = r.held ∧ (d.releaseOne k p r).2.next = r.next ∧
      (d.releaseOne k p r).2.key = r.key ∧ (d.releaseOne k p r).2.node = r.node ∧ (d.releaseOne k p r).2.chan = r.chan := by
  unfold Dev.releaseOne
  dsimp only
  by_cases hcut : r.cutting = true ∧ p.isStream = true
  · have hgiven : givenOf p r.cutting = [] := if_pos (.inl hcut)
    rw [if_pos (by rw [Bool.and_eq_true]; exact hcut), hgiven, List.append_nil]
    exact ⟨rfl, rfl, rfl, rfl, rfl, rfl, rfl, rfl⟩
  · have hgiven : givenOf p r.cutting = if p.useless then [] else [p] := by
      unfold givenOf
      simp only [hcut, false_or]
    rw [if_neg (by rw [Bool.and_eq_true]; exact hcut), hgiven]
    obtain ⟨hfab, hsec, hout⟩ := (d.toConsumer p).consume_effect k p
    have hto := d.touches_toConsumer p
    refine ⟨hfab.trans hto.fab, hsec.trans hto.sec, hout.trans ?_, rfl, rfl, rfl, rfl, rfl⟩
    rw [hto.out]

/-- Draining a sequence releases some of its held packets and changes the state of that sequence alone. -/
theorem Dev.drain_effect (k : Clock) (n : Nat) (d : Dev) (r : RxOrder) :
    ∃ l, (Dev.drain k n d r).out = { d.out with released := d.out.released ++ l } ∧ (∀ x ∈ l, ∃ h ∈ r.held, h.1 = x) ∧
      (Dev.drain k n d r).sec = d.sec ∧
      (Dev.drain k n d r).fab = { d.fab with rxOrders := (Dev.drain k n d r).fab.rxOrders } := by
  induction n generalizing d r with
  | zero => exact ⟨[], by rw [List.append_nil]; rfl, by simp, rfl, rfl⟩
  | succ n ih =>
    unfold Dev.drain
    split
    · exact ⟨[], by rw [List.append_nil]; rfl, by simp, rfl, rfl⟩
    · next h hh =>
      obtain ⟨hfab, hsec, hout, hheld, -⟩ := d.releaseOne_effect k h.1 r
      generalize d.releaseOne k h.1 r = x at hfab hsec hout hheld
      obtain ⟨l, hout', hl, hsec', hfab'⟩ := ih x.1 { x.2 with next := (x.2.next + 1) % 2 ^ 24, held := x.2.held.erase h }
      refine ⟨givenOf h.1 r.cutting ++ l, ?_, fun y hy => ?_, hsec'.trans hsec, hfab'.trans (by rw [hfab])⟩
      · rw [hout', hout, List.append_assoc]
      · rcases List.mem_append.mp hy with hy | hy
        · unfold givenOf at hy
          split at hy
          · cases hy
          · exact ⟨h, List.mem_of_find?_eq_some hh, (List.mem_singleton.mp hy).symm⟩
        · obtain ⟨g, hg, rfl⟩ := hl y hy
          exact ⟨g, hheld ▸ List.mem_of_mem_erase hg, rfl⟩

/-- Draining keeps the key, the source and the channel of the sequence: none is held and none released where none was. -/
theorem Dev.drain_empty (k : Clock) (n : Nat) (d : Dev) (h : r.held = []) : Dev.drain k n d r = d.setRx r := by
  cases n with
  | zero => rfl
  | succ n => rw [Dev.drain, h]; rfl

theorem Dev.inSequence_effect (d : Dev) (k : Clock) (p : Packet) (h : r.same p.key p.src.toNat p.chan.toNat = true) :
    ∃ l, (d.inSequence k p r).out = { d.out with released := d.out.released ++ givenOf p r.cutting ++ l } ∧
      (∀ x ∈ l, ∃ h ∈ r.held, h.1 = x) ∧ (d.inSequence k p r).sec = d.sec ∧
      (d.inSequence k p r).fab = { d.fab with rxOrders := (d.inSequence k p r).fab.rxOrders } ∧
      (r.held = [] → l = [] ∧ ((d.inSequence k p r).rxOf p).next = (r.next + 1) % 2 ^ 24) := by
  obtain ⟨hfab, hsec, hout, hheld, hnext, hkey, hnode, hchan⟩ := d.releaseOne_effect k p r
  unfold Dev.inSequence
  dsimp only
  generalize d.releaseOne k p r = x at *
  obtain ⟨l, hout', hl, hsec', hfab'⟩ :=
    Dev.drain_effect k (x.2.held.length + 1) x.1 { x.2 with next := (x.2.next + 1) % 2 ^ 24 }
  refine ⟨l, ?_, fun y hy => hheld ▸ hl y hy, hsec'.trans hsec, hfab'.trans (by rw [hfab]), fun hnone => ?_⟩
  · rw [hout', hout]
  · have hx : x.2.held = [] := hheld.trans hnone
    refine ⟨?_, ?_⟩
    · cases l with
      | nil => rfl
      | cons y l =>
        obtain ⟨g, hg, -⟩ := hl y List.mem_cons_self
        rw [show ({ x.2 with next := (x.2.next + 1) % 2 ^ 24 } : RxOrder).held = [] from hx] at hg
        cases hg
    · rw [Dev.drain_empty (r := { x.2 with next := (x.2.next + 1) % 2 ^ 24 }) k _ _ hx, Dev.rxOf_setRx]
      · rw [hnext]
      · refine (RxOrder.same_iff ..).mpr ?_
        rw [hkey, hnode, hchan]
        exact (RxOrder.same_iff ..).mp h

/-! ### Packets at their destination -/

/-- A packet that is taken up where it waits, and crosses to its home die. -/
def Dev.crossedHome (d : Dev) (fd : Nat) (p : Packet) : Dev :=
  (({ d with fab := { d.fab with toDeliver := d.fab.toDeliver.erase (fd, p) } } : Dev).carry (.fabric fd)
    (.fabric (d.homeDie p.src.toNat)) p.bytes)

theorem Dev.touches_crossedHome (d : Dev) (fd : Nat) (p : Packet) :
    Dev.Touches [.work] [] { d with fab := { d.fab with toDeliver := d.fab.toDeliver.erase (fd, p) } } (d.crossedHome fd p) :=
  Dev.touches_carry ..

/-- A packet that waits for its checks comes to them. -/
def Dev.checked (d : Dev) (k : Clock) (fd : Nat) (p : Packet) : Dev :=
  if !p.good then
    ({ d with fab := { d.fab with toDeliver := d.fab.toDeliver.erase (fd, p) } } : Dev).count .fabRtCrcDrop 1 (d.homeDie p.src.toNat)
  else if !d.accepts p.key then
    ({ d with fab := { d.fab with toDeliver := d.fab.toDeliver.erase (fd, p) } } : Dev).count .fabRtStranger 1 (d.homeDie p.src.toNat)
  else (d.crossedHome fd p).reorder k p

/-- What the reorder buffer makes of an accepted packet, by how far its number lies after the expected one. -/
structure Dev.Reordered (d e : Dev) (k : Clock) (p : Packet) : Prop where
  sec : e.sec = d.sec
  fab : e.fab = { d.fab with rxOrders := e.fab.rxOrders }
  next : orderAfter (d.rxOf p).next p.order.toNat = 0 → ∃ l,
    e.out.released = d.out.released ++ givenOf p (d.rxOf p).cutting ++ l ∧ (∀ x ∈ l, ∃ h ∈ (d.rxOf p).held, h.1 = x) ∧
      ((d.rxOf p).held = [] → l = [] ∧ (e.rxOf p).next = ((d.rxOf p).next + 1) % 2 ^ 24)
  duplicate : 2 ^ 23 ≤ orderAfter (d.rxOf p).next p.order.toNat ∨
    (orderAfter (d.rxOf p).next p.order.toNat ≠ 0 ∧ ∃ h ∈ (d.rxOf p).held, h.1.order = p.order) →
      e.out = d.out ∧ e.fab.rxOrders = d.fab.rxOrders
  later : orderAfter (d.rxOf p).next p.order.toNat ≠ 0 → orderAfter (d.rxOf p).next p.order.toNat < 2 ^ 23 →
    (∀ h ∈ (d.rxOf p).held, h.1.order ≠ p.order) → d.held (d.homeDie p.src.toNat) + p.bytes ≤ 4194304 →
      e.out = d.out ∧ e.rxOf p = { d.rxOf p with held := (d.rxOf p).held ++ [(p, k.count)] }

theorem Dev.makeRoom_fits {k : Clock} {fd n fuel : Nat} (h : d.held fd + n ≤ 4194304) :
    Dev.makeRoom k fd n fuel d = d := by
  cases fuel with
  | zero => rfl
  | succ fuel => rw [Dev.makeRoom, if_pos h]

theorem Dev.passGap_effect (d : Dev) (k : Clock) (r : RxOrder) :
    ∃ l, (d.passGap k r).out = { d.out with released := d.out.released ++ l } ∧ (d.passGap k r).sec = d.sec ∧
      (d.passGap k r).fab = { d.fab with rxOrders := (d.passGap k r).fab.rxOrders } := by
  unfold Dev.passGap
  split
  · exact ⟨[], by rw [List.append_nil], rfl, rfl⟩
  · next j hj =>
    obtain ⟨l, hout, -, hsec, hfab⟩ := Dev.drain_effect k (r.held.length + 1) (d.count .fabRtReorderGap 1 (d.homeDie r.node))
      { r with next := (r.next + j) % 2 ^ 24, cutting := !r.markerLost j }
    exact ⟨l, hout, hsec, hfab⟩

theorem Dev.makeRoom_effect (k : Clock) (fd n fuel : Nat) (d : Dev) : (Dev.makeRoom k fd n fuel d).sec = d.sec ∧
    (Dev.makeRoom k fd n fuel d).fab = { d.fab with rxOrders := (Dev.makeRoom k fd n fuel d).fab.rxOrders } := by
  induction fuel generalizing d with
  | zero => exact ⟨rfl, rfl⟩
  | succ fuel ih =>
    rw [Dev.makeRoom]
    split
    · exact ⟨rfl, rfl⟩
    · dsimp only
      split
      · exact ⟨rfl, rfl⟩
      · split
        · exact ⟨rfl, rfl⟩
        · next r hr =>
          obtain ⟨l, -, hsec, hfab⟩ := d.passGap_effect k r
          obtain ⟨hsec', hfab'⟩ := ih (d.passGap k r)
          exact ⟨hsec'.trans hsec, hfab'.trans (by rw [hfab])⟩

theorem Dev.fab_setRx {e : Dev} (h : e.fab = { d.fab with rxOrders := e.fab.rxOrders }) (r : RxOrder) :
    (e.setRx r).fab = { d.fab with rxOrders := (e.setRx r).fab.rxOrders } :=
  congrArg (fun f : Fab => { f with rxOrders := (e.setRx r).fab.rxOrders }) h

theorem Dev.reorder_effect (d : Dev) (k : Clock) (p : Packet) : d.Reordered (d.reorder k p) k p := by
  unfold Dev.reorder
  extract_lets -merge +onlyGivenNames fd r a
  by_cases ha : a = 0
  · rw [if_pos ha]
    obtain ⟨l, hout, hl, hsec, hfab, hnone⟩ := d.inSequence_effect k p (d.rxOf_same p)
    exact { sec := hsec, fab := hfab, next := fun _ => ⟨l, by rw [hout], hl, hnone⟩
            duplicate := fun h => absurd ha (h.elim (fun h h0 => absurd (show 2 ^ 23 ≤ a from h) (by omega)) And.left)
            later := fun h => absurd ha h }
  · rw [if_neg ha]
    by_cases hdup : 2 ^ 23 ≤ a ∨ ∃ h ∈ r.held, h.1.order = p.order
    · rw [if_pos (by simpa using hdup)]
      exact { sec := rfl, fab := rfl, next := fun h => absurd h ha, duplicate := fun _ => ⟨rfl, rfl⟩
              later := fun _ hlt hno => absurd hdup (by
                rintro (h | ⟨h, hh, he⟩)
                · exact absurd (show 2 ^ 23 ≤ orderAfter (d.rxOf p).next p.order.toNat from h) (by omega)
                · exact hno h hh he) }
    · rw [if_neg (by simpa using hdup)]
      extract_lets -merge +onlyGivenNames e r' a'
      obtain ⟨hsec, hfab⟩ := Dev.makeRoom_effect k fd p.bytes (sumBy d.fab.rxOrders (fun r => r.held.length) + 1) d
      have hroom : d.held (d.homeDie p.src.toNat) + p.bytes ≤ 4194304 → e = d := Dev.makeRoom_fits
      have hold : e.sec = d.sec ∧ e.fab = { d.fab with rxOrders := e.fab.rxOrders } := ⟨hsec, hfab⟩
      clear_value e
      obtain ⟨hsec, hfab⟩ := hold
      split
      · next h0 =>
        obtain ⟨l, hout, hl, hsec', hfab', hnone⟩ := e.inSequence_effect k p (e.rxOf_same p)
        exact { sec := hsec'.trans hsec, fab := hfab'.trans (by rw [hfab]), next := fun h => absurd h ha
                duplicate := fun h => absurd (h.imp_right And.right) hdup
                later := fun _ _ _ hfits => absurd h0 (by
                  have := hroom hfits
                  subst this
                  exact ha) }
      · split
        · next h0 hlarge =>
          exact { sec := hsec, fab := hfab, next := fun h => absurd h ha
                  duplicate := fun h => absurd (h.imp_right And.right) hdup
                  later := fun _ hlt _ hfits => absurd hlarge (by
                    have := hroom hfits
                    subst this
                    exact Nat.not_le.mpr hlt) }
        · exact { sec := hsec, fab := Dev.fab_setRx hfab _, next := fun h => absurd h ha
                  duplicate := fun h => absurd (h.imp_right And.right) hdup
                  later := fun _ _ _ hfits => by
                    have := hroom hfits
                    subst this
                    exact ⟨rfl, Dev.rxOf_setRx _ (e.rxOf_same p)⟩ }

/-! ### The two commands -/

theorem exec_packetDeliver {s : State} {fd : Nat} (hc : s.dev.clocked = true) (hp : p.dst.toNat = s.dev.node)
    (h : s.dev.inDie p = some fd) (hq : (s.dev.checked s.clk fd p).sec.reports = s.dev.sec.reports) :
    exec (.packetDeliver p) s = .next { s with dev := s.dev.checked s.clk fd p } := by
  change execPacketDeliver p s = _
  refine State.now_quiet (d := s.dev.checked s.clk fd p) hc ?_ hq
  rw [if_neg (not_not.mpr hp), h]
  rfl

theorem exec_packetDeliver_none {s : State} (h : p.dst.toNat ≠ s.dev.node ∨ s.dev.inDie p = none) :
    exec (.packetDeliver p) s = .next s := by
  change execPacketDeliver p s = _
  refine State.now_none ?_
  rcases h with h | h
  · rw [if_pos h]
  · rw [h]
    split <;> rfl

/-- A packet that is refused at its destination is counted and dropped. -/
theorem Dev.checked_bad (d : Dev) (k : Clock) (fd : Nat) (h : p.good = false ∨ d.accepts p.key = false) :
    (d.checked k fd p).sec = d.sec ∧ (d.checked k fd p).out = d.out ∧
      (d.checked k fd p).fab = { d.fab with toDeliver := d.fab.toDeliver.erase (fd, p) } := by
  unfold Dev.checked
  split
  · exact ⟨rfl, rfl, rfl⟩
  · next hg =>
    have ha : d.accepts p.key = false := h.resolve_left fun h => hg (by rw [h]; rfl)
    rw [if_pos (by rw [ha]; rfl)]
    exact ⟨rfl, rfl, rfl⟩

theorem Dev.checked_good (d : Dev) (k : Clock) (fd : Nat) (hg : p.good = true) (ha : d.accepts p.key = true) :
    d.checked k fd p = (d.crossedHome fd p).reorder k p := by
  unfold Dev.checked
  rw [if_neg (by rw [hg]; decide), if_neg (by rw [ha]; decide)]

/-- Crossing to the home die changes nothing that the reorder buffer reads. -/
theorem Dev.crossedHome_keeps (d : Dev) (fd : Nat) (p : Packet) :
    (d.crossedHome fd p).rxOf p = d.rxOf p ∧ (d.crossedHome fd p).out = d.out ∧ (d.crossedHome fd p).sec = d.sec ∧
      (d.crossedHome fd p).fab = { d.fab with toDeliver := d.fab.toDeliver.erase (fd, p) } ∧
      (d.crossedHome fd p).held ((d.crossedHome fd p).homeDie p.src.toNat) = d.held (d.homeDie p.src.toNat) := by
  have h := d.touches_crossedHome fd p
  have hfab := h.fab
  have horder := h.order
  refine ⟨?_, h.out, h.sec, hfab, ?_⟩
  · unfold Dev.rxOf
    rw [hfab]
  · unfold Dev.held Dev.homeDie
    rw [hfab, horder]

theorem Dev.touches_checked (d : Dev) (k : Clock) (fd : Nat) (p : Packet) :
    Dev.Touches [.acc, .fab, .out, .sec, .work] [] d (d.checked k fd p) := by
  have h : Dev.Touches [.acc, .fab, .out, .sec, .work] [] d
      ({ d with fab := { d.fab with toDeliver := d.fab.toDeliver.erase (fd, p) } }) := .set (.refl _) rfl
  unfold Dev.checked
  split
  · exact .next h (Dev.touches_count ..)
  · split
    · exact .next h (Dev.touches_count ..)
    · exact .next (.next h (d.touches_crossedHome fd p)) (Dev.touches_reorder ..)

/-- The packet whose number is the expected one is found first, and released. -/
theorem Dev.drain_first (k : Clock) (n : Nat) (d : Dev) (r : RxOrder) {h : Packet × Nat}
    (hf : (r.held.find? fun h => h.1.order.toNat = r.next) = some h) :
    ∃ l, (Dev.drain k (n + 1) d r).out = { d.out with released := d.out.released ++ givenOf h.1 r.cutting ++ l } := by
  obtain ⟨-, -, hout, -⟩ := d.releaseOne_effect k h.1 r
  rw [Dev.drain, hf]
  obtain ⟨l, hout', -⟩ := Dev.drain_effect k n (d.releaseOne k h.1 r).1
    { (d.releaseOne k h.1 r).2 with next := ((d.releaseOne k h.1 r).2.next + 1) % 2 ^ 24
                                    held := (d.releaseOne k h.1 r).2.held.erase h }
  exact ⟨l, hout'.trans (by rw [hout])⟩

theorem orderAfter_eq_iff {x o j : Nat} (hx : x < 2 ^ 24) (ho : o < 2 ^ 24) (hj : j < 2 ^ 24) :
    orderAfter x o = j ↔ o = (x + j) % 2 ^ 24 := by
  unfold orderAfter
  omega

/-- Where a gap is given up, the packet of the lowest held number comes first. -/
theorem Dev.passGap_first (d : Dev) (k : Clock) (r : RxOrder) {j v : Nat} (hr : r.next < 2 ^ 24)
    (hj : (r.held.map fun h => orderAfter r.next h.1.order.toNat).min? = some j)
    (hf : (r.held.find? fun h => orderAfter r.next h.1.order.toNat = j) = some (p, v)) :
    ∃ l, (d.passGap k r).out.released = d.out.released ++ (if p.isStream = true ∨ p.useless = true then [] else [p]) ++ l := by
  by_cases hs : p.isStream = true ∨ p.useless = true
  · obtain ⟨l, hout, -⟩ := d.passGap_effect k r
    rw [if_pos hs]
    exact ⟨l, by rw [hout, List.append_nil]⟩
  · have hjlt : j < 2 ^ 24 := by
      have h := List.find?_some hf
      rw [← of_decide_eq_true h]
      exact Nat.mod_lt _ (by decide)
    unfold Dev.passGap
    rw [hj]
    have hf' : (r.held.find? fun h => h.1.order.toNat = (r.next + j) % 2 ^ 24) = some (p, v) := by
      rw [← hf]
      exact congrArg (List.find? · r.held) (funext fun h => decide_eq_decide.mpr (orderAfter_eq_iff hr h.1.order.isLt hjlt).symm)
    obtain ⟨l, hout⟩ := Dev.drain_first k r.held.length (d.count .fabRtReorderGap 1 (d.homeDie r.node))
      { r with next := (r.next + j) % 2 ^ 24, cutting := !r.markerLost j } hf'
    have hgiven : givenOf p (!r.markerLost j) = [p] := by
      unfold givenOf
      rw [if_neg fun h => hs (h.imp_left And.right)]
    rw [if_neg hs]
    exact ⟨l, (congrArg OutBox.released hout).trans (by rw [hgiven]; rfl)⟩

theorem exec_reorderTimeout {s : State} {tag : BitVec 24} {epoch src : BitVec 16} {chan : BitVec 2} {u : Nat}
    (hc : s.dev.clocked = true)
    (hr : (s.dev.fab.rxOrders.find? fun r => r.same ⟨tag.toNat, epoch.toNat⟩ src.toNat chan.toNat) = some r)
    (hu : (r.held.map (·.2)).min? = some u) :
    exec (.reorderTimeout tag epoch src chan) s = .next { s with
      clk := s.clk.toCount (u + s.dev.reorderWait (s.dev.homeDie r.node))
      dev := s.dev.passGap (s.clk.toCount (u + s.dev.reorderWait (s.dev.homeDie r.node))) r } := by
  obtain ⟨-, -, hsec, -⟩ := s.dev.passGap_effect (s.clk.toCount (u + s.dev.reorderWait (s.dev.homeDie r.node))) r
  change execReorderTimeout tag epoch src chan s = _
  unfold execReorderTimeout
  rw [hr]
  dsimp only
  rw [Option.bind_some, hu]
  exact State.act_quiet _ hc rfl rfl (by rw [hsec])

theorem exec_reorderTimeout_none {s : State} {tag : BitVec 24} {epoch src : BitVec 16} {chan : BitVec 2}
    (h : ∀ r, (s.dev.fab.rxOrders.find? fun r => r.same ⟨tag.toNat, epoch.toNat⟩ src.toNat chan.toNat) = some r → r.held = []) :
    exec (.reorderTimeout tag epoch src chan) s = .next s := by
  change execReorderTimeout tag epoch src chan s = _
  unfold execReorderTimeout
  cases hr : s.dev.fab.rxOrders.find? fun r => r.same ⟨tag.toNat, epoch.toNat⟩ src.toNat chan.toNat with
  | none => exact State.act_none rfl
  | some r =>
    dsimp only
    rw [Option.bind_some, h r hr]
    exact State.act_none rfl

end Sys2Proof.Machine

namespace Sys2Proof

open Machine

/-- Settles O44: a packet that is refused leaves the sequences alone, one that is accepted is released, dropped or held
by how far its number lies after the expected one, and a gap that is given up releases the lowest held number first. -/
theorem deliveryInOrder : Obligations.DeliveryInOrder := by
  unfold Obligations.DeliveryInOrder
  intro s hc kept
  refine ⟨fun p hp => ?_, fun p hp => exec_packetDeliver_none (.inl hp), fun tag epoch src chan => ?_⟩
  · intro r a
    refine ⟨fun h => exec_packetDeliver_none (.inr h), fun fd hfd => ?_⟩
    obtain ⟨hrx, hout, hsec, hfab, hheld⟩ := s.dev.crossedHome_keeps fd p
    have hre := (s.dev.crossedHome fd p).reorder_effect s.clk p
    have htouch := s.dev.touches_checked s.clk fd p
    have hkept : kept (s.dev.checked s.clk fd p) := ⟨htouch.mem, htouch.cores, htouch.job⟩
    by_cases hbad : p.good = false ∨ s.dev.accepts p.key = false
    · obtain ⟨hsec', hout', hfab'⟩ := s.dev.checked_bad s.clk fd hbad
      refine ⟨_, exec_packetDeliver hc hp hfd (by rw [hsec']), hkept, by rw [hfab'], fun _ => ⟨hout', by rw [hfab']⟩, fun hg ha => ?_⟩
      rcases hbad with h | h
      · rw [hg] at h
        cases h
      · rw [ha] at h
        cases h
    · have hg : p.good = true := by simpa using fun h => hbad (.inl h)
      have ha : s.dev.accepts p.key = true := by simpa using fun h => hbad (.inr h)
      have heq := s.dev.checked_good s.clk fd hg ha
      refine ⟨_, exec_packetDeliver hc hp hfd (by rw [heq, hre.sec, hsec]), hkept, by rw [heq, hre.fab, hfab],
        fun h => absurd h hbad, fun _ _ => ⟨fun h0 => ?_, fun h0 => ?_, fun h0 hlt hno hfits => ?_⟩⟩
      · obtain ⟨l, hrel, hl, hnone⟩ := hre.next (by rw [hrx]; exact h0)
        rw [hrx] at hrel hl hnone
        rw [heq]
        exact ⟨l, hrel.trans (by rw [hout]; rfl), hl, hnone⟩
      · obtain ⟨hout', hrx'⟩ := hre.duplicate (by rw [hrx]; exact h0)
        rw [heq]
        exact ⟨hout'.trans hout, hrx'.trans (by rw [hfab])⟩
      · obtain ⟨hout', hrx'⟩ := hre.later (by rw [hrx]; exact h0) (by rw [hrx]; exact hlt) (by rw [hrx]; exact hno)
          (by rw [hheld]; exact hfits)
        rw [heq]
        exact ⟨hout'.trans hout, hrx'.trans (by rw [hrx])⟩
  · split
    · next hr => exact exec_reorderTimeout_none fun r h => by rw [hr] at h; cases h
    · next r hr =>
      refine ⟨fun h => exec_reorderTimeout_none fun q hq => ?_, fun u j p v hu hj hnext hf => ?_⟩
      · rw [hr] at hq
        cases hq
        exact h
      · obtain ⟨l, hrel⟩ :=
          s.dev.passGap_first (s.clk.toCount (u + s.dev.reorderWait (s.dev.homeDie r.node))) r hnext hj hf
        have htouch := s.dev.touches_passGap (s.clk.toCount (u + s.dev.reorderWait (s.dev.homeDie r.node))) r
        exact ⟨_, l, exec_reorderTimeout hc hr hu, ⟨htouch.mem, htouch.cores, htouch.job⟩, hrel⟩

end Sys2Proof
end

section
/-! SUPPORT. Ports and link blocks (chapter 15, R313 to R318). -/

-- One proof at a time: each thread that elaborates beside the others reserves its stack.
set_option Elab.async false

namespace Sys2Proof.Machine

open Sys2Proof

/-! ### A NAK that is owed goes out -/

variable {a b c d e : Dev} {k : Clock} {p i : Fin 81}

/-- From `d` to `e` blocks may have been sent, and a NAK that port `p` owes is owed still or has gone out. -/
structure Dev.Naks (p : Fin 81) (d e : Dev) : Prop where
  blocks : d.out.blocks <+: e.out.blocks
  nak : d.fab.ports[p].nakOut = true → e.fab.ports[p].nakOut = true ∨
    ∃ x ∈ e.out.blocks.drop d.out.blocks.length, x.1 = p.val ∧ x.2.nak = true

theorem List.drop_append_length {α : Type} (l m : List α) : (l ++ m).drop l.length = m := by simp

theorem Dev.Naks.refl (p : Fin 81) (d : Dev) : d.Naks p d := ⟨List.prefix_rfl, .inl⟩

theorem Dev.Naks.trans (h : Dev.Naks p a b) (g : Dev.Naks p b c) : Dev.Naks p a c := by
  obtain ⟨l, hl⟩ := h.blocks
  obtain ⟨m, hm⟩ := g.blocks
  have hlast : c.out.blocks.drop a.out.blocks.length = l ++ m := by
    rw [← hm, ← hl, List.append_assoc, List.drop_append_length]
  have hfirst : b.out.blocks.drop a.out.blocks.length = l := by rw [← hl, List.drop_append_length]
  have hsecond : c.out.blocks.drop b.out.blocks.length = m := by rw [← hm, List.drop_append_length]
  refine ⟨h.blocks.trans g.blocks, fun hn => ?_⟩
  rw [hlast]
  rcases h.nak hn with hn | ⟨x, hx, hs⟩
  · refine (g.nak hn).imp_right ?_
    rintro ⟨x, hx, hs⟩
    exact ⟨x, List.mem_append_right _ (hsecond ▸ hx), hs⟩
  · exact .inr ⟨x, List.mem_append_left _ (hfirst ▸ hx), hs⟩

theorem Dev.naks_of_eq (ho : e.out.blocks = d.out.blocks) (hf : e.fab.ports = d.fab.ports) : d.Naks p e :=
  ⟨by rw [ho], fun h => .inl (by rw [hf]; exact h)⟩

theorem Dev.naks_modPort (d : Dev) (i : Fin 81) (f : Port → Port) (h : (f d.fab.ports[i]).nakOut = d.fab.ports[i].nakOut) :
    d.Naks p (d.modPort i f) := by
  refine ⟨List.prefix_rfl, fun hn => .inl ?_⟩
  rw [Dev.port_modPort]
  split
  · next hp => exact h.trans (hp ▸ hn)
  · exact hn

/-- A block carries the NAK that its port owes. -/
theorem Dev.sendBlock_naks (d : Dev) (k : Clock) (kind : Nat) (body : List Byte) (h : d.fab.ports[p].nakOut = true) :
    ∃ x ∈ (d.sendBlock k p kind body).out.blocks.drop d.out.blocks.length, x.1 = p.val ∧ x.2.nak = true := by
  refine ⟨(p.val, d.fab.ports[p].block kind body), ?_, rfl, h⟩
  have : (d.sendBlock k p kind body).out.blocks = d.out.blocks ++ [(p.val, d.fab.ports[p].block kind body)] := rfl
  rw [this, List.drop_append_length]
  exact List.mem_singleton_self _

theorem Dev.naks_sendBlock (d : Dev) (k : Clock) (i : Fin 81) (kind : Nat) (body : List Byte) :
    d.Naks p (d.sendBlock k i kind body) := by
  refine ⟨(d.tells_sendBlock k i kind body).blocks, fun h => ?_⟩
  by_cases hp : p = i
  · subst hp
    exact .inr (d.sendBlock_naks k kind body h)
  · refine .inl ?_
    unfold Dev.sendBlock
    rw [Dev.port_modPort, if_neg hp]
    exact h

theorem Dev.naks_idleBlocks (k : Clock) (i : Fin 81) (n : Nat) (d : Dev) : d.Naks p (Dev.idleBlocks k i n d) := by
  induction n generalizing d with
  | zero => exact .refl p d
  | succ n ih =>
    rw [Dev.idleBlocks]
    split
    · exact (d.naks_sendBlock k i 2 []).trans (ih _)
    · exact .refl p d

theorem Dev.naks_tell (d : Dev) (k : Clock) (i : Fin 81) : d.Naks p (d.tell k i) := by
  unfold Dev.tell
  dsimp only
  split
  · exact Dev.naks_idleBlocks k i 8 d
  · exact .refl p d

theorem Dev.naks_freeBuffer (d : Dev) (k : Clock) (i : QPacket) : d.Naks p (d.freeBuffer k i) := by
  unfold Dev.freeBuffer
  split
  · exact .refl p d
  · refine Dev.Naks.trans ?_ (Dev.naks_tell ..)
    exact d.naks_modPort _ _ rfl

theorem Dev.naks_sendData (d : Dev) (k : Clock) (i : Fin 81) : d.Naks p (d.sendData k i) := by
  unfold Dev.sendData
  dsimp only
  exact (d.naks_sendBlock k i 0 (d.fab.ports[i].txBuf.take 4096)).trans (Dev.naks_modPort _ i _ rfl)

theorem Dev.naks_sendHead (d : Dev) (k : Clock) (i : Fin 81) (v : Nat) : d.Naks p (d.sendHead k i v) := by
  unfold Dev.sendHead
  extract_lets -merge +onlyGivenNames q
  split
  · exact .refl p d
  · next x hx =>
    extract_lets -merge +onlyGivenNames n q' d1 src d2 idx d3
    have h2 : d.Naks p d2 :=
      ((d.naks_modPort i (fun _ => q') rfl).trans (Dev.naks_freeBuffer ..)).trans (Dev.naks_of_eq rfl rfl)
    have hwork : ∀ (e : Dev) x y n, e.Naks p (e.addWork x y n) := fun e x y n =>
      Dev.naks_of_eq (by rw [(e.touches_addWork x y n).out]) (by rw [(e.touches_addWork x y n).fab])
    split
    · exact h2.trans (hwork ..)
    · refine Dev.Naks.trans (b := d3) ?_ (Dev.naks_of_eq rfl rfl)
      unfold d3
      split
      · exact h2
      · exact h2.trans (hwork ..)

theorem Dev.naks_pumpLoop (k : Clock) (i : Fin 81) (n : Nat) (d : Dev) : d.Naks p (Dev.pumpLoop k i n d) := by
  induction n generalizing d with
  | zero => exact .refl p d
  | succ n ih =>
    rw [Dev.pumpLoop]
    split
    · exact .refl p d
    · split
      · exact (d.naks_sendData k i).trans (ih _)
      · split
        · exact (d.naks_sendHead k i _).trans (ih _)
        · split
          · exact .refl p d
          · exact (d.naks_sendData k i).trans (ih _)

/-- A port that exchanges blocks. -/
theorem Port.probes_iff (q : Port) : (q.state = .up || q.state = .quarantine) = true ↔ q.probes := by
  rw [Bool.or_eq_true, decide_eq_true_eq, decide_eq_true_eq]
  exact or_comm

theorem Dev.tell_naks (h : d.fab.ports[p].probes) (hn : d.fab.ports[p].nakOut = true) :
    ∃ x ∈ (d.tell k p).out.blocks.drop d.out.blocks.length, x.1 = p.val ∧ x.2.nak = true := by
  unfold Dev.tell
  dsimp only
  rw [if_pos ((Port.probes_iff _).mpr h), Dev.idleBlocks,
    if_pos (by rw [Port.mustTell, hn, Bool.or_true, Bool.true_or])]
  obtain ⟨x, hx, hs⟩ := d.sendBlock_naks k 2 [] hn
  obtain ⟨l, hl⟩ := (Dev.tells_idleBlocks k p 7 (d.sendBlock k p 2 [])).blocks
  obtain ⟨m, hm⟩ := (d.tells_sendBlock k p 2 []).blocks
  refine ⟨x, ?_, hs⟩
  rw [← hl, ← hm, List.append_assoc, List.drop_append_length]
  rw [← hm, List.drop_append_length] at hx
  exact List.mem_append_left _ hx

/-- A port that exchanges blocks sends a NAK that it owes as soon as it sends. -/
theorem Dev.pump_naks (h : d.fab.ports[p].probes) (hn : d.fab.ports[p].nakOut = true) :
    ∃ x ∈ (d.pump k p).out.blocks.drop d.out.blocks.length, x.1 = p.val ∧ x.2.nak = true := by
  unfold Dev.pump
  extract_lets -merge +onlyGivenNames q fuel
  rw [if_pos ((Port.probes_iff _).mpr h)]
  have hloop := (Dev.naks_pumpLoop (p := p) k p fuel d).trans (Dev.naks_modPort _ p (fun q => q.markStalls k) rfl)
  have hpass := Dev.passes_pumpLoop k p fuel d
  have hkept := (hpass.port p).state
  generalize hx : (Dev.pumpLoop k p fuel d).modPort p (fun q => q.markStalls k) = x at hloop
  have hstate : x.fab.ports[p].probes := by
    have : x.fab.ports[p].state = d.fab.ports[p].state := by
      rw [← hx, Dev.port_modPort, if_pos rfl]
      exact hkept
    rw [Port.probes, this]
    exact h
  obtain ⟨l, hl⟩ := hloop.blocks
  obtain ⟨m, hm⟩ := (x.tells_tell k p).blocks
  rw [← hm, ← hl, List.append_assoc, List.drop_append_length]
  rcases hloop.nak hn with hn | ⟨y, hy, hs⟩
  · obtain ⟨y, hy, hs⟩ := Dev.tell_naks (k := k) hstate hn
    rw [← hm, List.drop_append_length] at hy
    exact ⟨y, List.mem_append_right _ hy, hs⟩
  · rw [← hl, List.drop_append_length] at hy
    exact ⟨y, List.mem_append_left _ hy, hs⟩

/-! ### What a good block makes of its port -/

/-- The blocks that the trailer acknowledges beyond those already acknowledged. -/
def Port.ackStep (q : Port) (w : Nat) : Nat := (bitRange w 23 12 + 1 + 4096 - q.acked % 4096) % 4096

/-- The trailer acknowledges further blocks that have been sent. -/
def Port.Advances (q : Port) (w : Nat) : Prop := q.ackStep w ≠ 0 ∧ q.acked + q.ackStep w ≤ q.blocks

theorem Dev.takeAck_stays {w : Nat} (h : ¬ d.fab.ports[p].Advances w) : d.takeAck k p w = d := by
  unfold Dev.takeAck
  dsimp only
  refine if_pos ?_
  rw [Bool.or_eq_true, decide_eq_true_eq, decide_eq_true_eq]
  by_cases h0 : d.fab.ports[p].ackStep w = 0
  · exact .inl h0
  · exact .inr (Nat.not_le.mp fun hle => h ⟨h0, hle⟩)

/-- What a block that is taken leaves of its port: all but the acknowledged blocks. -/
structure Port.Acked (q r : Port) (acked : Nat) : Prop where
  state : r.state = q.state
  rxNext : r.rxNext = q.rxNext
  rxBytes : r.rxBytes = q.rxBytes
  acked : r.acked = acked

/-- From `d` to `e` port `p` has changed as `R` says, and nothing but ports. -/
structure Dev.PortMoves (p : Fin 81) (R : Port → Port → Prop) (d e : Dev) : Prop where
  sec : e.sec = d.sec
  out : e.out = d.out
  fab : e.fab = { d.fab with ports := e.fab.ports }
  port : R d.fab.ports[p] e.fab.ports[p]

theorem Dev.portMoves_modPort (d : Dev) (p : Fin 81) (f : Port → Port) {R : Port → Port → Prop}
    (h : R d.fab.ports[p] (f d.fab.ports[p])) : Dev.PortMoves p R d (d.modPort p f) where
  sec := rfl
  out := rfl
  fab := rfl
  port := by rw [Dev.port_modPort, if_pos rfl]; exact h

theorem Dev.takeAck_effect (d : Dev) (k : Clock) (p : Fin 81) (w : Nat) :
    Dev.PortMoves p (fun q r => (q.Advances w → q.Acked r (q.acked + q.ackStep w)) ∧ (¬ q.Advances w → r = q)) d
      (d.takeAck k p w) := by
  by_cases h : d.fab.ports[p].Advances w
  · unfold Dev.takeAck
    extract_lets -merge +onlyGivenNames q step
    have hif : ¬ (decide (step = 0) || decide (q.acked + step > q.blocks)) = true := by
      rw [Bool.or_eq_true, decide_eq_true_eq, decide_eq_true_eq]
      exact fun hor => hor.elim h.1 (Nat.not_lt.mpr h.2)
    rw [if_neg hif]
    exact d.portMoves_modPort p _ ⟨fun _ => ⟨rfl, rfl, rfl, rfl⟩, fun hn => absurd h hn⟩
  · rw [Dev.takeAck_stays h]
    exact ⟨rfl, rfl, rfl, fun ha => absurd ha h, fun _ => rfl⟩

/-- The bytes that a port holds for packets, after a body: the packets in them, and the rest. -/
def Port.cut (q : Port) (body : List Byte) : List Packet × List Byte :=
  cutPackets ((q.rxBytes ++ body).length / 32 + 1) (q.rxBytes ++ body)

/-- What a numbered body that is taken makes of its port. -/
def Port.withBody (q : Port) (kind : Nat) (body : List Byte) : Port :=
  { q with rxNext := (q.rxNext + 1) % 4096, ackDue := true, rxBytes := if kind = 0 then (q.cut body).2 else q.rxBytes }

/-- The packets that a port has received, and the bytes behind them. -/
def Dev.brought (d : Dev) (p : Fin 81) (x : List Packet × List Byte) : Dev :=
  ({ d.modPort p fun q => { q with rxBytes := x.2 } with
    fab := { (d.modPort p fun q => { q with rxBytes := x.2 }).fab with
      inbox := d.fab.inbox ++ x.1.map fun y => (p, y) } } : Dev)

/-- The work that received packets are declared as: those that end here. -/
def Dev.workBrought (d : Dev) (p : Fin 81) (ps : List Packet) : Dev :=
  if p.val = 80 then d.addWork 0xD 1 (sumBy (ps.filter d.endsHere) Packet.bytes)
  else d.addWork 0xB (16 * (p.val / 8) + 2 * (p.val % 8) + 1) (sumBy (ps.filter d.endsHere) Packet.bytes)

theorem Dev.workBrought_keeps (d : Dev) (p : Fin 81) (ps : List Packet) : (d.workBrought p ps).sec = d.sec ∧
    (d.workBrought p ps).out = d.out ∧ (d.workBrought p ps).fab = d.fab := by
  have hwork : ∀ x y n, (d.addWork x y n).sec = d.sec ∧ (d.addWork x y n).out = d.out ∧ (d.addWork x y n).fab = d.fab :=
    fun x y n => ⟨(d.touches_addWork x y n).sec, (d.touches_addWork x y n).out, (d.touches_addWork x y n).fab⟩
  unfold Dev.workBrought
  split
  · exact hwork ..
  · exact hwork ..

theorem Dev.takeBody_first (d : Dev) (p : Fin 81) (body : List Byte) :
    d.takeBody p 0 body =
      ((d.modPort p fun q => { q with rxNext := (q.rxNext + 1) % 4096, ackDue := true }).brought p
        (d.fab.ports[p].cut body)).workBrought p (d.fab.ports[p].cut body).1 := by
  have hport : (d.modPort p fun q => { q with rxNext := (q.rxNext + 1) % 4096, ackDue := true }).fab.ports[p].rxBytes =
      d.fab.ports[p].rxBytes := by
    rw [Dev.port_modPort, if_pos rfl]
  unfold Dev.takeBody
  dsimp only
  rw [if_neg (by decide), hport]
  rfl

theorem Dev.takeBody_other {kind : Nat} (body : List Byte) (h : kind ≠ 0) :
    d.takeBody p kind body = d.modPort p fun q => { q with rxNext := (q.rxNext + 1) % 4096, ackDue := true } := by
  unfold Dev.takeBody
  rw [if_pos h]

theorem Dev.takeBody_effect (d : Dev) (p : Fin 81) (kind : Nat) (body : List Byte) :
    (d.takeBody p kind body).sec = d.sec ∧ (d.takeBody p kind body).out = d.out ∧
      (d.takeBody p kind body).fab.ports[p] = d.fab.ports[p].withBody kind body ∧
      (d.takeBody p kind body).fab.inbox =
        d.fab.inbox ++ if kind = 0 then (d.fab.ports[p].cut body).1.map fun x => (p, x) else [] := by
  by_cases hk : kind = 0
  · subst hk
    obtain ⟨hs, ho, hf⟩ := Dev.workBrought_keeps ((d.modPort p fun q =>
      { q with rxNext := (q.rxNext + 1) % 4096, ackDue := true }).brought p (d.fab.ports[p].cut body)) p
        (d.fab.ports[p].cut body).1
    rw [Dev.takeBody_first, hs, ho, hf]
    refine ⟨rfl, rfl, ?_, rfl⟩
    refine (Dev.port_modPort (d.modPort p fun q => { q with rxNext := (q.rxNext + 1) % 4096, ackDue := true }) p p
      fun q => { q with rxBytes := (d.fab.ports[p].cut body).2 }).trans ?_
    rw [if_pos rfl, Dev.port_modPort, if_pos rfl]
    rfl
  · rw [Dev.takeBody_other body hk, if_neg hk, List.append_nil]
    refine ⟨rfl, rfl, ?_, rfl⟩
    rw [Dev.port_modPort, if_pos rfl, Port.withBody, if_neg hk]

theorem Dev.replay_effect (d : Dev) (p : Fin 81) : (d.replay p).sec = d.sec ∧ (d.replay p).fab = d.fab ∧
    (d.replay p).out.blocks = d.out.blocks ++ d.fab.ports[p].window.map fun x => (p.val, x.block.again d.fab.ports[p]) := by
  unfold Dev.replay
  dsimp only
  generalize d.fab.ports[p] = q
  generalize q.window = l
  induction l generalizing d with
  | nil => exact ⟨rfl, rfl, (List.append_nil _).symm⟩
  | cons x l ih =>
    obtain ⟨hs, hf, hb⟩ := ih (d.emitBlock p (x.block.again q))
    rw [List.foldl_cons, hs, hf, hb]
    refine ⟨rfl, rfl, ?_⟩
    rw [List.map_cons, List.append_cons]
    rfl

theorem Dev.countPort_keeps (d : Dev) (f : Fld) (n : Nat) (p : Fin 81) :
    (d.countPort f n p).sec = d.sec ∧ (d.countPort f n p).fab = d.fab ∧ (d.countPort f n p).out = d.out := by
  unfold Dev.countPort
  split <;> exact ⟨rfl, rfl, rfl⟩

/-- What a NAK makes of its port. -/
structure Dev.NakTaken (p : Fin 81) (d e : Dev) : Prop where
  sec : e.sec = d.sec
  rxNext : e.fab.ports[p].rxNext = d.fab.ports[p].rxNext ∨ e.fab.ports[p].state = .down
  limit : d.fab.ports[p].window ≠ [] → 16 ≤ d.fab.ports[p].replays + 1 → e.fab.ports[p].state = .down
  again : d.fab.ports[p].window ≠ [] → ¬ 16 ≤ d.fab.ports[p].replays + 1 →
    e.fab.ports[p].state = d.fab.ports[p].state ∧ e.fab.ports[p].replays = d.fab.ports[p].replays + 1 ∧
      ∃ q, e.out.blocks = d.out.blocks ++ d.fab.ports[p].window.map fun x => (p.val, x.block.again q)

theorem Dev.takeNak_effect (d : Dev) (k : Clock) (p : Fin 81) : Dev.NakTaken p d (d.takeNak k p) := by
  unfold Dev.takeNak
  extract_lets -merge +onlyGivenNames q n d1 d2
  obtain ⟨hs, hf, ho⟩ := d.countPort_keeps .fabPortNaks 1 p
  by_cases hn : n = 0
  · have hw : d.fab.ports[p].window = [] := List.length_eq_zero_iff.mp hn
    rw [if_pos hn]
    exact ⟨hs, .inl (by unfold d1; rw [hf]), fun h => absurd hw h, fun h => absurd hw h⟩
  · rw [if_neg hn]
    obtain ⟨hs', hf', ho'⟩ := d1.countPort_keeps .fabPortReplays n p
    have hsec : d2.sec = d.sec := hs'.trans hs
    have hout : d2.out = d.out := ho'.trans ho
    have hport : d2.fab.ports[p] = { d.fab.ports[p] with replays := d.fab.ports[p].replays + 1 } := by
      unfold d2
      rw [Dev.port_modPort, if_pos rfl, hf']
      unfold d1
      rw [hf]
    by_cases hr : q.replays + 1 ≥ 16
    · rw [if_pos hr]
      obtain ⟨hls, hlp, -⟩ := d2.portLost_effect k p .down
      exact ⟨hls.trans hsec, .inr hlp, fun _ _ => hlp, fun _ h => absurd hr h⟩
    · rw [if_neg hr]
      obtain ⟨hrs, hrf, hrb⟩ := d2.replay_effect p
      refine ⟨hrs.trans hsec, .inl ?_, fun _ h => absurd h hr, fun _ _ => ⟨?_, ?_, d2.fab.ports[p], ?_⟩⟩
      · rw [hrf, hport]
      · rw [hrf, hport]
      · rw [hrf, hport]
      · rw [hrb, hout, show d2.fab.ports[p].window = d.fab.ports[p].window by rw [hport]]

/-! ### A link block is received -/

/-- What LINK_BLOCK_RECEIVE makes of the device before its port sends. -/
def Dev.received (d : Dev) (k : Clock) (p : Fin 81) (w : Nat) (body : List Byte) : Dev :=
  if (crc32c (body ++ leBytes 12 (w % 2 ^ 96))).toNat = bitRange w 127 96 then d.takeBlock k p w body
  else if bitRange w 25 24 = 2 then d
  else d.modPort p fun q => { q with nakOut := true }

theorem Dev.touches_received (d : Dev) (k : Clock) (p : Fin 81) (w : Nat) (body : List Byte) :
    d.Touches [.acc, .fab, .out, .sec, .sync, .twin, .work] [] (d.received k p w body) := by
  unfold Dev.received
  split
  · exact .next (.refl _) (Dev.touches_takeBlock ..)
  · split
    · exact .refl _
    · exact .next (.refl _) (Dev.touches_modPort ..)

/-- A numbered block in sequence, or one without a number. -/
def Port.Takes (q : Port) (w : Nat) : Prop := 2 ≤ bitRange w 25 24 ∨ bitRange w 11 0 = q.rxNext

/-- What of a block that is taken is said before its NAK is looked at. -/
def Dev.taking (d : Dev) (k : Clock) (p : Fin 81) (w : Nat) (body : List Byte) : Dev :=
  ((if bitRange w 25 24 ≤ 1 then d.takeBody p (bitRange w 25 24) body else d).takeAck k p w).modPort p fun q => q.addCredits w

theorem Dev.takeBlock_discards {w : Nat} (body : List Byte) (h : ¬ d.fab.ports[p].Takes w) : d.takeBlock k p w body = d := by
  unfold Dev.takeBlock
  dsimp only
  refine if_pos ?_
  rw [Bool.and_eq_true, decide_eq_true_eq, decide_eq_true_eq]
  exact ⟨by
    by_contra hk
    exact h (.inl (by omega)), fun hn => h (.inr hn)⟩

theorem Dev.takeBlock_takes {w : Nat} (body : List Byte) (h : d.fab.ports[p].Takes w) :
    d.takeBlock k p w body = if bitAt w 26 then (d.taking k p w body).takeNak k p else d.taking k p w body := by
  unfold Dev.takeBlock
  dsimp only
  refine if_neg ?_
  rw [Bool.and_eq_true, decide_eq_true_eq, decide_eq_true_eq]
  rintro ⟨hk, hn⟩
  exact h.elim (fun h => absurd hk (by omega)) hn

/-- The port after the body of a taken block. -/
def Port.embodied (q : Port) (kind : Nat) (body : List Byte) : Port := if kind ≤ 1 then q.withBody kind body else q

/-- A block that is taken: the state of its port and the packets that it brings, before its NAK. -/
theorem Dev.taking_effect (d : Dev) (k : Clock) (p : Fin 81) (w : Nat) (body : List Byte) :
    (d.taking k p w body).sec = d.sec ∧ (d.taking k p w body).out = d.out ∧
      (d.taking k p w body).fab.inbox = d.fab.inbox ++
        (if bitRange w 25 24 = 0 then (d.fab.ports[p].cut body).1.map fun x => (p, x) else []) ∧
      (d.fab.ports[p].Advances w → Port.Acked (d.fab.ports[p].embodied (bitRange w 25 24) body)
        (d.taking k p w body).fab.ports[p] (d.fab.ports[p].acked + d.fab.ports[p].ackStep w)) ∧
      (¬ d.fab.ports[p].Advances w → (d.taking k p w body).fab.ports[p] =
        (d.fab.ports[p].embodied (bitRange w 25 24) body).addCredits w) := by
  unfold Dev.taking
  generalize hx : (if bitRange w 25 24 ≤ 1 then d.takeBody p (bitRange w 25 24) body else d) = x
  have hbody : x.sec = d.sec ∧ x.out = d.out ∧ x.fab.ports[p] = d.fab.ports[p].embodied (bitRange w 25 24) body ∧
      x.fab.inbox = d.fab.inbox ++ (if bitRange w 25 24 = 0 then (d.fab.ports[p].cut body).1.map fun x => (p, x) else []) := by
    rw [← hx, Port.embodied]
    by_cases hk : bitRange w 25 24 ≤ 1
    · rw [if_pos hk, if_pos hk]
      exact d.takeBody_effect p _ body
    · rw [if_neg hk, if_neg hk, if_neg (by omega), List.append_nil]
      exact ⟨rfl, rfl, rfl, rfl⟩
  obtain ⟨hsec, hout, hport, hinbox⟩ := hbody
  have hadv : x.fab.ports[p].Advances w ↔ d.fab.ports[p].Advances w := by
    rw [hport, Port.embodied]
    split
    · exact Iff.rfl
    · exact Iff.rfl
  have hstep : x.fab.ports[p].acked + x.fab.ports[p].ackStep w = d.fab.ports[p].acked + d.fab.ports[p].ackStep w := by
    rw [hport, Port.embodied]
    split <;> rfl
  obtain ⟨hs, ho, hf, hp⟩ := x.takeAck_effect k p w
  refine ⟨hs.trans hsec, ho.trans hout, ?_, fun h => ?_, fun h => ?_⟩
  · exact (congrArg Fab.inbox hf).trans hinbox
  · obtain ⟨h1, h2, h3, h4⟩ := hp.1 (hadv.mpr h)
    rw [Dev.port_modPort, if_pos rfl, ← hport, ← hstep]
    exact ⟨h1, h2, h3, h4⟩
  · rw [Dev.port_modPort, if_pos rfl, hp.2 fun hn => h (hadv.mp hn), hport]

theorem Dev.received_sec (d : Dev) (k : Clock) (p : Fin 81) (w : Nat) (body : List Byte) :
    (d.received k p w body).sec = d.sec := by
  unfold Dev.received
  split
  · by_cases h : d.fab.ports[p].Takes w
    · rw [Dev.takeBlock_takes body h]
      obtain ⟨hs, -⟩ := d.taking_effect k p w body
      split
      · exact ((d.taking k p w body).takeNak_effect k p).sec.trans hs
      · exact hs
    · rw [Dev.takeBlock_discards body h]
  · split <;> rfl

theorem exec_linkBlockReceive {s : State} {body : List Byte} {tr : BitVec 128} (hc : s.dev.clocked = true)
    (hp : s.dev.fab.ports[p].probes) (hb : body.length = 4096) :
    exec (.linkBlockReceive p body tr) s = .next { s with
      dev := (s.dev.received s.clk p tr.toNat body).pump s.clk p } := by
  have hpump := (s.dev.received s.clk p tr.toNat body).passes_pump s.clk p
  change execLinkBlockReceive p body tr s = _
  refine State.now_quiet hc ?_ (congrArg Sec.reports (hpump.sec.trans (s.dev.received_sec s.clk p tr.toNat body)))
  refine if_neg ?_
  rw [Bool.or_eq_true, decide_eq_true_eq, not_or]
  refine ⟨?_, not_not.mpr hb⟩
  have : s.dev.fab.ports[p].timed = true := by
    unfold Port.timed
    rw [Bool.or_eq_true, decide_eq_true_eq, decide_eq_true_eq]
    exact hp
  rw [this]
  decide

/-! ### Training, and ports that are lost -/

theorem Dev.portMoves_cold (d : Dev) (k : Clock) (p : Fin 81) (q : Port) : ((d.modPort p fun _ => q).parentsChanged k).sec = d.sec ∧
    ((d.modPort p fun _ => q).parentsChanged k).fab.ports[p] = q ∧
    ((d.modPort p fun _ => q).parentsChanged k).regs = d.regs ∧ ((d.modPort p fun _ => q).parentsChanged k).twin = d.twin := by
  have h := (d.modPort p fun _ => q).touches_parentsChanged k
  refine ⟨h.sec, ?_, h.regs, h.twin⟩
  rw [h.fab, Dev.port_modPort, if_pos rfl]

/-- A port with nothing to send gives no credit away. -/
theorem Dev.pumpLoop_idle (k : Clock) (p : Fin 81) (n : Nat) (h : d.fab.ports[p].txBuf = [])
    (hq : d.fab.ports[p].queues = List.replicate 8 []) : Dev.pumpLoop k p n d = d := by
  have hhead : ∀ v, d.fab.ports[p].headOf v = none := fun v => by
    unfold Port.headOf
    rw [hq, List.getD_eq_getElem?_getD, List.getElem?_replicate]
    split <;> rfl
  have hnext : d.fab.ports[p].nextVc = none := by
    unfold Port.nextVc
    refine List.find?_eq_none.mpr fun v _ => ?_
    rw [hhead]
    exact Bool.false_ne_true
  cases n with
  | zero => rfl
  | succ n =>
    unfold Dev.pumpLoop
    dsimp only
    rw [hnext, h]
    split
    · rfl
    · rfl

theorem Dev.idleBlocks_credits (k : Clock) (p : Fin 81) (n : Nat) (d : Dev) :
    (Dev.idleBlocks k p n d).fab.ports[p].credits = d.fab.ports[p].credits := by
  induction n generalizing d with
  | zero => rfl
  | succ n ih =>
    rw [Dev.idleBlocks]
    split
    · rw [ih]
      unfold Dev.sendBlock
      rw [Dev.port_modPort, if_pos rfl]
      rfl
    · rfl

theorem Dev.tell_credits (d : Dev) (k : Clock) (p : Fin 81) :
    (d.tell k p).fab.ports[p].credits = d.fab.ports[p].credits := by
  unfold Dev.tell
  dsimp only
  split
  · exact Dev.idleBlocks_credits k p 8 d
  · rfl

theorem Dev.pump_credits (k : Clock) (p : Fin 81) (h : d.fab.ports[p].txBuf = [])
    (hq : d.fab.ports[p].queues = List.replicate 8 []) : (d.pump k p).fab.ports[p].credits = d.fab.ports[p].credits := by
  unfold Dev.pump
  extract_lets -merge +onlyGivenNames q fuel
  split
  · rw [Dev.pumpLoop_idle k p fuel h hq, Dev.tell_credits, Dev.port_modPort, if_pos rfl]
    rfl
  · rfl

/-- The twin link comes up. -/
theorem Dev.twinUp_effect (d : Dev) (k : Clock) (hq : d.fab.ports[(80 : Fin 81)].state = .quarantine)
    (ht : d.fab.ports[(80 : Fin 81)].txBuf = [])
    (hn : d.fab.ports[(80 : Fin 81)].queues = List.replicate 8 []) (hcr : d.fab.ports[(80 : Fin 81)].credits = List.replicate 8 1024) :
    (d.twinUp k).sec = d.sec ∧
      (d.twinUp k).fab.ports[(80 : Fin 81)].state = (if d.twin.peer.map (·.1) = some (d.rd .twinCfgMode) then .up else .quarantine) ∧
      (d.twinUp k).fab.ports[(80 : Fin 81)].reversed = d.fab.ports[(80 : Fin 81)].reversed ∧
      (d.twinUp k).fab.ports[(80 : Fin 81)].polarity = d.fab.ports[(80 : Fin 81)].polarity ∧
      (d.twinUp k).fab.ports[(80 : Fin 81)].credits = List.replicate 8 1024 := by
  unfold Dev.twinUp
  extract_lets -merge +onlyGivenNames q
  by_cases hm : d.twin.peer.map (·.1) = some (d.rd .twinCfgMode)
  · rw [if_pos (by rw [Bool.and_eq_true, decide_eq_true_eq, decide_eq_true_eq]; exact ⟨hq, hm⟩), if_pos hm]
    have hport : (d.modPort 80 fun q => q.enterUp).fab.ports[(80 : Fin 81)] = d.fab.ports[(80 : Fin 81)].enterUp := by
      rw [Dev.port_modPort, if_pos rfl]
    have hcredits : ((d.modPort 80 fun q => q.enterUp).pump k 80).fab.ports[(80 : Fin 81)].credits = _ :=
      Dev.pump_credits k 80 (by rw [hport]; exact ht) (by rw [hport]; exact hn)
    have hpass := Dev.passes_pump (d.modPort 80 fun q => q.enterUp) k 80
    have hkept := hpass.port 80
    have hpar := Dev.touches_parentsChanged ((d.modPort 80 fun q => q.enterUp).pump k 80) k
    rw [hport] at hcredits hkept
    rw [hpar.sec, hpar.fab, hpass.sec]
    exact ⟨rfl, hkept.state, hkept.reversed, hkept.polarity, hcredits⟩
  · rw [if_neg (by rw [Bool.and_eq_true, decide_eq_true_eq, decide_eq_true_eq]; exact fun h => hm h.2), if_neg hm]
    exact ⟨rfl, hq, rfl, rfl, hcr⟩

/-- The port that a successful training leaves. -/
def Port.trained (q : Port) (reversed : Bool) (polarity : BitVec 8) : Port :=
  { Port.cold with
    state := .quarantine, trainAt := q.trainAt, reversed := reversed, polarity := polarity.toNat, stallFc := q.stallFc
    partner := q.partner }

/-- The device after a successful training. -/
def Dev.trained (d : Dev) (k : Clock) (i : Fin 81) (reversed : Bool) (polarity : BitVec 8) : Dev :=
  if i = 80 then ((d.modPort i fun _ => d.fab.ports[i].trained reversed polarity).parentsChanged k).twinUp k
  else (d.modPort i fun _ => d.fab.ports[i].trained reversed polarity).parentsChanged k

theorem Dev.trained_effect (d : Dev) (k : Clock) (i : Fin 81) (reversed : Bool) (polarity : BitVec 8) :
    (d.trained k i reversed polarity).sec = d.sec ∧
      (d.trained k i reversed polarity).fab.ports[i].state =
        (if i = 80 ∧ d.twin.peer.map (·.1) = some (d.rd .twinCfgMode) then .up else .quarantine) ∧
      (d.trained k i reversed polarity).fab.ports[i].reversed = reversed ∧
      (d.trained k i reversed polarity).fab.ports[i].polarity = polarity.toNat ∧
      (d.trained k i reversed polarity).fab.ports[i].credits = List.replicate 8 1024 := by
  obtain ⟨hsec, hport, hregs, htwin⟩ := d.portMoves_cold k i (d.fab.ports[i].trained reversed polarity)
  unfold Dev.trained
  generalize (d.modPort i fun _ => d.fab.ports[i].trained reversed polarity).parentsChanged k = e at *
  by_cases h80 : i = 80
  · subst h80
    have hrd : e.rd .twinCfgMode = d.rd .twinCfgMode := by unfold Dev.rd; rw [hregs]
    obtain ⟨hs, hstate, hrev, hpol, hcr⟩ := e.twinUp_effect k (by rw [hport]; rfl) (by rw [hport]; rfl) (by rw [hport]; rfl)
      (by rw [hport]; rfl)
    rw [if_pos rfl, hs, hstate, hrev, hpol, hcr, hport, hrd, htwin]
    refine ⟨hsec, ?_, rfl, rfl, rfl⟩
    by_cases hm : d.twin.peer.map (·.1) = some (d.rd .twinCfgMode)
    · rw [if_pos hm, if_pos ⟨rfl, hm⟩]
    · rw [if_neg hm, if_neg fun h => hm h.2]
  · rw [if_neg h80, if_neg fun h => h80 h.1, hport]
    exact ⟨hsec, rfl, rfl, rfl, rfl⟩

theorem Dev.touches_trained (d : Dev) (k : Clock) (i : Fin 81) (reversed : Bool) (polarity : BitVec 8) :
    d.Touches [.acc, .fab, .out, .sec, .sync, .work] [] (d.trained k i reversed polarity) := by
  unfold Dev.trained
  split
  · exact .next (.next (.next (.refl _) (Dev.touches_modPort ..)) (Dev.touches_parentsChanged ..)) (Dev.touches_twinUp ..)
  · exact .next (.next (.refl _) (Dev.touches_modPort ..)) (Dev.touches_parentsChanged ..)

variable {s : State}

theorem exec_portTrainingEnd_ok (reversed : Bool) (polarity : BitVec 8) (hc : s.dev.clocked = true)
    (h : s.dev.fab.ports[i].state = .training) : exec (.portTrainingEnd i true reversed polarity) s =
      .next { s with dev := s.dev.trained s.clk i reversed polarity } := by
  change execPortTrainingEnd i true reversed polarity s = _
  refine State.now_quiet hc ?_ (congrArg Sec.reports (s.dev.trained_effect s.clk i reversed polarity).1)
  dsimp only
  rw [if_neg (not_not.mpr h), if_pos rfl]
  rfl

theorem exec_portTrainingEnd_fails (reversed : Bool) (polarity : BitVec 8) (hc : s.dev.clocked = true)
    (h : s.dev.fab.ports[i].state = .training) : exec (.portTrainingEnd i false reversed polarity) s =
      .next { s with dev := s.dev.modPort i fun q => { q with state := .down } } := by
  change execPortTrainingEnd i false reversed polarity s = _
  refine State.now_quiet hc ?_ rfl
  dsimp only
  rw [if_neg (not_not.mpr h), if_neg (by decide)]

theorem exec_portTrainingStart (hc : s.dev.clocked = true) (h : s.dev.fab.ports[i].state = .down)
    (hp : s.dev.portPresent i = true) : exec (.portTrainingStart i) s = .next { s with
      clk := s.clk.toCount s.dev.fab.ports[i].trainAt
      dev := s.dev.modPort i fun q => { q with
        state := .training, trainAt := (s.clk.toCount s.dev.fab.ports[i].trainAt).count + 1000000 } } := by
  have hon : (decide (s.dev.fab.ports[i].state = .down) && s.dev.portPresent i) = true :=
    Bool.and_eq_true_iff.mpr ⟨decide_eq_true h, hp⟩
  change execPortTrainingStart i s = _
  unfold execPortTrainingStart
  refine State.act_quiet (s.clk.toCount s.dev.fab.ports[i].trainAt) hc (if_pos hon) ?_ ?_
  · exact if_pos hon
  · rfl

theorem exec_portTrainingStart_none (h : s.dev.fab.ports[i].state ≠ .down ∨ s.dev.portPresent i = false) :
    exec (.portTrainingStart i) s = .next s := by
  change execPortTrainingStart i s = _
  refine State.act_none (if_neg ?_)
  rw [Bool.and_eq_true, decide_eq_true_eq]
  rintro ⟨h1, h2⟩
  exact h.elim (fun h => h h1) fun h => by rw [h] at h2; cases h2

theorem exec_pmdLockLoss (hc : s.dev.clocked = true) (h : s.dev.fab.ports[i].probes) :
    exec (.pmdLockLoss i) s = .next { s with dev := s.dev.portDown s.clk i } := by
  change execPmdLockLoss i s = _
  refine State.now_quiet hc ?_ (congrArg Sec.reports (s.dev.portLost_effect s.clk i .down).1)
  rcases h with h | h
  · rw [h]
  · rw [h]

theorem exec_pmdLockLoss_none (h : ¬ s.dev.fab.ports[i].probes) : exec (.pmdLockLoss i) s = .next s := by
  change execPmdLockLoss i s = _
  refine State.now_none ?_
  split
  · next hs => exact absurd (.inr hs) h
  · next hs => exact absurd (.inl hs) h
  · rfl

theorem ackOn_iff (q : Port) : (!q.window.isEmpty && (q.state = .up || q.state = .quarantine)) = true ↔
    q.window ≠ [] ∧ q.probes := by
  rw [Bool.and_eq_true, Port.probes_iff, Bool.not_eq_true', List.isEmpty_eq_false_iff]

theorem exec_ackTimeout (hc : s.dev.clocked = true) (h : s.dev.fab.ports[i].probes) (hw : s.dev.fab.ports[i].window ≠ []) :
    exec (.ackTimeout i) s = .next { s with
      clk := s.clk.toCount (s.dev.fab.ports[i].ackAt + 10000)
      dev := s.dev.portDown (s.clk.toCount (s.dev.fab.ports[i].ackAt + 10000)) i } := by
  have hon := (ackOn_iff _).mpr ⟨hw, h⟩
  change execAckTimeout i s = _
  unfold execAckTimeout
  refine State.act_quiet (s.clk.toCount (s.dev.fab.ports[i].ackAt + 10000)) hc (if_pos hon) ?_ ?_
  · exact if_pos hon
  · exact congrArg Sec.reports (s.dev.portLost_effect _ i .down).1

theorem exec_ackTimeout_none (h : ¬ s.dev.fab.ports[i].probes ∨ s.dev.fab.ports[i].window = []) :
    exec (.ackTimeout i) s = .next s := by
  change execAckTimeout i s = _
  refine State.act_none (if_neg fun hon => ?_)
  obtain ⟨hw, hp⟩ := (ackOn_iff _).mp hon
  exact h.elim (fun h => h hp) hw

/-! ### The received block's clauses -/

variable {w : Nat} {body : List Byte}

/-- A block with a bad CRC: nothing is taken, and a NAK goes out unless it is a control block. -/
theorem Dev.received_bad (h : ¬ (crc32c (body ++ leBytes 12 (w % 2 ^ 96))).toNat = bitRange w 127 96) :
    (d.received k p w body).out = d.out ∧ (d.received k p w body).fab.inbox = d.fab.inbox ∧
      d.fab.ports[p].Kept (d.received k p w body).fab.ports[p] ∧
      (bitRange w 25 24 ≠ 2 → (d.received k p w body).fab.ports[p].nakOut = true) := by
  unfold Dev.received
  rw [if_neg h]
  by_cases hk : bitRange w 25 24 = 2
  · rw [if_pos hk]
    exact ⟨rfl, rfl, .refl _, fun h => absurd hk h⟩
  · rw [if_neg hk]
    refine ⟨rfl, rfl, ?_, fun _ => ?_⟩
    · rw [Dev.port_modPort, if_pos rfl]
      constructor <;> rfl
    · rw [Dev.port_modPort, if_pos rfl]

theorem Dev.received_discards (h : (crc32c (body ++ leBytes 12 (w % 2 ^ 96))).toNat = bitRange w 127 96)
    (hn : ¬ d.fab.ports[p].Takes w) : d.received k p w body = d := by
  unfold Dev.received
  rw [if_pos h, Dev.takeBlock_discards body hn]

theorem Dev.received_taken (h : (crc32c (body ++ leBytes 12 (w % 2 ^ 96))).toNat = bitRange w 127 96)
    (ht : d.fab.ports[p].Takes w) : d.received k p w body =
      if bitAt w 26 then (d.taking k p w body).takeNak k p else d.taking k p w body := by
  unfold Dev.received
  rw [if_pos h, Dev.takeBlock_takes body ht]

theorem Port.embodied_fields (q : Port) (kind : Nat) (body : List Byte) : (q.embodied kind body).state = q.state ∧
    (q.embodied kind body).acked = q.acked ∧ (q.embodied kind body).window = q.window ∧
    (q.embodied kind body).replays = q.replays ∧
    (q.embodied kind body).rxNext = (if kind ≤ 1 then (q.rxNext + 1) % 4096 else q.rxNext) ∧
    (q.embodied kind body).rxBytes = if kind = 0 then (q.cut body).2 else q.rxBytes := by
  unfold Port.embodied
  by_cases hk : kind ≤ 1
  · rw [if_pos hk, if_pos hk]
    exact ⟨rfl, rfl, rfl, rfl, rfl, rfl⟩
  · rw [if_neg hk, if_neg hk, if_neg (by omega)]
    exact ⟨rfl, rfl, rfl, rfl, rfl, rfl⟩

/-- The port once a block has been taken, before its NAK. -/
theorem Dev.taking_port (d : Dev) (k : Clock) (p : Fin 81) (w : Nat) (body : List Byte) :
    (d.taking k p w body).fab.ports[p].state = d.fab.ports[p].state ∧
      (d.taking k p w body).fab.ports[p].rxNext =
        (if bitRange w 25 24 ≤ 1 then (d.fab.ports[p].rxNext + 1) % 4096 else d.fab.ports[p].rxNext) ∧
      (d.taking k p w body).fab.ports[p].rxBytes =
        (if bitRange w 25 24 = 0 then (d.fab.ports[p].cut body).2 else d.fab.ports[p].rxBytes) ∧
      (d.fab.ports[p].Advances w →
        (d.taking k p w body).fab.ports[p].acked = d.fab.ports[p].acked + d.fab.ports[p].ackStep w) ∧
      (¬ d.fab.ports[p].Advances w → (d.taking k p w body).fab.ports[p].acked = d.fab.ports[p].acked ∧
        (d.taking k p w body).fab.ports[p].window = d.fab.ports[p].window ∧
        (d.taking k p w body).fab.ports[p].replays = d.fab.ports[p].replays) := by
  obtain ⟨hstate, hacked, hwindow, hreplays, hnext, hbytes⟩ := d.fab.ports[p].embodied_fields (bitRange w 25 24) body
  obtain ⟨-, -, -, hyes, hno⟩ := d.taking_effect k p w body
  by_cases ha : d.fab.ports[p].Advances w
  · obtain ⟨h1, h2, h3, h4⟩ := hyes ha
    exact ⟨h1.trans hstate, h2.trans hnext, h3.trans hbytes, fun _ => h4, fun h => absurd ha h⟩
  · rw [hno ha]
    exact ⟨hstate, hnext, hbytes, fun h => absurd h ha, fun _ => ⟨hacked, hwindow, hreplays⟩⟩

/-- A block that is sent again keeps its number, its kind and its body. -/
theorem LinkBlock.again_keeps (b : LinkBlock) (q : Port) :
    (b.again q).number = b.number ∧ (b.again q).kind = b.kind ∧ (b.again q).body = b.body := by
  unfold LinkBlock.again
  dsimp only
  exact ⟨rfl, rfl, rfl⟩

theorem mem_drop_window {α β : Type} {f : β → α} {x : β} {l m n : List α} {ws : List β} (h : m <+: n) (hm : m = l ++ ws.map f)
    (hx : x ∈ ws) : f x ∈ n.drop l.length := by
  obtain ⟨t, rfl⟩ := h
  rw [hm, List.append_assoc, List.drop_append_length]
  exact List.mem_append_left _ (List.mem_map.mpr ⟨x, hx, rfl⟩)

/-- A numbered block in sequence is counted, unless its NAK takes the port down. -/
theorem Dev.received_next (h : (crc32c (body ++ leBytes 12 (w % 2 ^ 96))).toNat = bitRange w 127 96)
    (hk : bitRange w 25 24 ≤ 1) (hn : bitRange w 11 0 = d.fab.ports[p].rxNext) :
    (d.received k p w body).fab.ports[p].rxNext = (d.fab.ports[p].rxNext + 1) % 4096 ∨
      (d.received k p w body).fab.ports[p].state = .down := by
  obtain ⟨-, hnext, -⟩ := d.taking_port k p w body
  rw [if_pos hk] at hnext
  rw [Dev.received_taken h (.inr hn)]
  split
  · exact ((d.taking k p w body).takeNak_effect k p).rxNext.imp_left (·.trans hnext)
  · exact .inl hnext

/-- A block that is taken and brings no NAK. -/
theorem Dev.received_plain (h : (crc32c (body ++ leBytes 12 (w % 2 ^ 96))).toNat = bitRange w 127 96)
    (ht : d.fab.ports[p].Takes w) (hnak : bitAt w 26 = false) :
    (d.received k p w body).fab.ports[p].state = d.fab.ports[p].state ∧
      (d.fab.ports[p].Advances w →
        (d.received k p w body).fab.ports[p].acked = d.fab.ports[p].acked + d.fab.ports[p].ackStep w) ∧
      (¬ d.fab.ports[p].Advances w → (d.received k p w body).fab.ports[p].acked = d.fab.ports[p].acked) ∧
      (2 ≤ bitRange w 25 24 → (d.received k p w body).fab.ports[p].rxNext = d.fab.ports[p].rxNext) ∧
      (d.received k p w body).fab.ports[p].rxBytes =
        (if bitRange w 25 24 = 0 then (d.fab.ports[p].cut body).2 else d.fab.ports[p].rxBytes) ∧
      (d.received k p w body).fab.inbox = d.fab.inbox ++
        (if bitRange w 25 24 = 0 then (d.fab.ports[p].cut body).1.map fun x => (p, x) else []) := by
  obtain ⟨hstate, hnext, hbytes, hyes, hno⟩ := d.taking_port k p w body
  obtain ⟨-, -, hin, -⟩ := d.taking_effect k p w body
  rw [Dev.received_taken h ht, if_neg (by rw [hnak]; decide)]
  exact ⟨hstate, hyes, fun ha => (hno ha).1, fun hk => hnext.trans (if_neg (by omega)), hbytes, hin⟩

/-- A block that is taken and brings a NAK and no further acknowledgement. -/
theorem Dev.received_nak (h : (crc32c (body ++ leBytes 12 (w % 2 ^ 96))).toNat = bitRange w 127 96)
    (ht : d.fab.ports[p].Takes w) (hnak : bitAt w 26 = true) (ha : ¬ d.fab.ports[p].Advances w)
    (hw : d.fab.ports[p].window ≠ []) :
    (16 ≤ d.fab.ports[p].replays + 1 → (d.received k p w body).fab.ports[p].state = .down) ∧
      (¬ 16 ≤ d.fab.ports[p].replays + 1 → (d.received k p w body).fab.ports[p].state = d.fab.ports[p].state ∧
        (d.received k p w body).fab.ports[p].replays = d.fab.ports[p].replays + 1 ∧
        ∃ q, (d.received k p w body).out.blocks =
          d.out.blocks ++ d.fab.ports[p].window.map fun x => (p.val, x.block.again q)) := by
  obtain ⟨hstate, -, -, -, hrest⟩ := d.taking_port k p w body
  obtain ⟨-, hwindow, hreplays⟩ := hrest ha
  obtain ⟨-, hout, -⟩ := d.taking_effect k p w body
  have heff := (d.taking k p w body).takeNak_effect k p
  rw [Dev.received_taken h ht, if_pos hnak]
  refine ⟨fun hr => heff.limit (hwindow ▸ hw) (hreplays ▸ hr), fun hr => ?_⟩
  obtain ⟨h1, h2, q, h3⟩ := heff.again (hwindow ▸ hw) (hreplays ▸ hr)
  exact ⟨h1.trans hstate, h2.trans (by rw [hreplays]), q, h3.trans (by rw [hout, hwindow])⟩

/-- What a received block leaves, once its port has sent: the state of the port that sending keeps. -/
theorem Dev.pumped (e : Dev) (k : Clock) (p : Fin 81) : e.fab.ports[p].Kept (e.pump k p).fab.ports[p] ∧
    (e.pump k p).fab.inbox = e.fab.inbox ∧ e.out.blocks <+: (e.pump k p).out.blocks := by
  have h := e.passes_pump k p
  refine ⟨h.port p, ?_, h.blocks⟩
  rw [h.fab]

end Sys2Proof.Machine

namespace Sys2Proof

open Machine

/-- Settles O42: each command of a port by the port's state, and a link block by its CRC, its number, its
acknowledgement and its NAK. -/
theorem portsAndLinkBlocks : Obligations.PortsAndLinkBlocks := by
  unfold Obligations.PortsAndLinkBlocks
  intro s hc kept
  refine ⟨fun m same fd port p i hi => ?_, fun i => ?_⟩
  · intro q
    refine ⟨fun h => ?_, fun h => ?_⟩
    · obtain ⟨hpresent, t, ht, htouch⟩ := State.portPair h (by decide) hi
      have hp := s.touches_paired m same (fabPage fd) (4 + 0x20 * port.val)
      have hcmd := Dev.touches_portCommand (s.paired m same (fabPage fd) (4 + 0x20 * port.val))
        (s.writeClock m same (fabPage fd)) fd port 1
      refine ⟨t, ht, ⟨?_, ?_, ?_⟩, ?_⟩
      · rw [htouch.mem, hcmd.mem, hp.mem]
      · rw [htouch.cores, hcmd.cores, hp.cores]
      · rw [htouch.job, hcmd.job, hp.job]
      · rw [htouch.fab, Dev.portCommand_enable _ hi hpresent]
        change (if s.dev.fab.ports[i].state = .disabled then _ else _ : Dev).fab.ports[i] = _
        by_cases hd : s.dev.fab.ports[i].state = .disabled
        · rw [if_pos hd, if_pos hd, Dev.port_modPort, if_pos rfl]
          rfl
        · rw [if_neg hd, if_neg hd]
          rfl
    · obtain ⟨hpresent, t, ht, htouch⟩ := State.portPair h (by decide) hi
      have hp := s.touches_paired m same (fabPage fd) (4 + 0x20 * port.val)
      have hcmd := Dev.touches_portCommand (s.paired m same (fabPage fd) (4 + 0x20 * port.val))
        (s.writeClock m same (fabPage fd)) fd port 2
      refine ⟨t, ht, ⟨?_, ?_, ?_⟩, ?_⟩
      · rw [htouch.mem, hcmd.mem, hp.mem]
      · rw [htouch.cores, hcmd.cores, hp.cores]
      · rw [htouch.job, hcmd.job, hp.job]
      · rw [htouch.fab, Dev.portCommand_disable _ hi hpresent]
        split
        · next hd => exact hd
        · exact (Dev.portLost_effect _ _ i .disabled).2.1
  · intro q carries
    have hcarries : carries ↔ q.probes := or_comm
    have hlost : ∀ k, kept (s.dev.portDown k i) ∧ (s.dev.portDown k i).fab.ports[i].state = .down := fun k =>
      ⟨⟨(s.dev.touches_portDown k i).mem, (s.dev.touches_portDown k i).cores, (s.dev.touches_portDown k i).job⟩,
        (s.dev.portLost_effect k i .down).2.1⟩
    refine ⟨fun h hp => ?_, fun h => exec_portTrainingStart_none h, fun reversed polarity h => ⟨?_, ?_⟩, fun h => ?_, fun h => ?_,
      fun h hw => ?_, fun h => ?_, ?_⟩
    · refine ⟨_, exec_portTrainingStart hc h hp, ⟨rfl, rfl, rfl⟩, ?_⟩
      rw [Dev.port_modPort, if_pos rfl]
    · obtain ⟨-, hstate, hrev, hpol, hcr⟩ := s.dev.trained_effect s.clk i reversed polarity
      have ht := s.dev.touches_trained s.clk i reversed polarity
      exact ⟨_, exec_portTrainingEnd_ok reversed polarity hc h, ⟨ht.mem, ht.cores, ht.job⟩, hstate, hrev, hpol, hcr⟩
    · refine ⟨_, exec_portTrainingEnd_fails reversed polarity hc h, ⟨rfl, rfl, rfl⟩, ?_⟩
      rw [Dev.port_modPort, if_pos rfl]
    · exact ⟨_, exec_pmdLockLoss hc (hcarries.mp h), hlost _⟩
    · exact exec_pmdLockLoss_none fun hp => h (hcarries.mpr hp)
    · exact ⟨_, exec_ackTimeout hc (hcarries.mp h) hw, hlost _⟩
    · exact exec_ackTimeout_none (h.imp_left fun h hp => h (hcarries.mpr hp))
    · intro body tr h hb w kind good step advances cut next
      have hprobes : q.probes := hcarries.mp h
      have ht := (s.dev.touches_received s.clk i w body).next (Dev.touches_pump _ s.clk i) (by decide)
      refine ⟨_, exec_linkBlockReceive hc hprobes hb, ⟨ht.mem, ht.cores, ht.job⟩, ?_⟩
      obtain ⟨hkept, hinbox, hblocks⟩ := (s.dev.received s.clk i w body).pumped s.clk i
      intro sent u untaken
      have htakes : q.Takes w ↔ 2 ≤ kind ∨ next := Iff.rfl
      refine ⟨fun hbad => ?_, fun hgood hk hn => ?_, fun hgood hk hn => ?_, fun hgood htake hnak => ?_,
        fun hgood htake hnak hadv hwin => ?_⟩
      · obtain ⟨hout, hin, hport, hnak⟩ := s.dev.received_bad (k := s.clk) (p := i) hbad
        refine ⟨?_, fun hk => ?_⟩
        · have hall := hport.trans hkept
          exact ⟨hall.state, hall.acked, hall.rxNext, hall.rxBytes, hall.replays, hinbox.trans hin⟩
        · have hstate : (s.dev.received s.clk i w body).fab.ports[i].probes := by
            unfold Port.probes
            rw [hport.state]
            exact hprobes
          obtain ⟨x, hx, hs⟩ := Dev.pump_naks (k := s.clk) hstate (hnak hk)
          rw [hout] at hx
          exact ⟨x, hx, hs⟩
      · have hd := s.dev.received_discards (k := s.clk) (p := i) hgood fun ht =>
          (htakes.mp ht).elim (fun h => absurd hk (by omega)) hn
        have hport : q.Kept (s.dev.received s.clk i w body).fab.ports[i] := by
          rw [hd]
          exact .refl _
        have hall := hport.trans hkept
        exact ⟨hall.state, hall.acked, hall.rxNext, hall.rxBytes, hall.replays, hinbox.trans (by rw [hd])⟩
      · exact (s.dev.received_next (k := s.clk) hgood hk hn).imp hkept.rxNext.trans hkept.state.trans
      · obtain ⟨hstate, hyes, hno, hnext, hbytes, hin⟩ :=
          s.dev.received_plain (k := s.clk) (p := i) hgood (htakes.mpr htake) hnak
        refine ⟨hkept.state.trans hstate, ?_, fun hk => hkept.rxNext.trans (hnext hk), ?_⟩
        · split
          · next ha => exact hkept.acked.trans (hyes ha)
          · next ha => exact hkept.acked.trans (hno ha)
        by_cases hk : kind = 0
        · rw [if_pos hk] at hbytes hin ⊢
          exact ⟨hkept.rxBytes.trans hbytes, hinbox.trans hin⟩
        · rw [if_neg hk] at hbytes hin ⊢
          exact ⟨hkept.rxBytes.trans hbytes, hinbox.trans (hin.trans (List.append_nil _))⟩
      · obtain ⟨hdown, hagain⟩ := s.dev.received_nak (k := s.clk) (p := i) hgood (htakes.mpr htake) hnak hadv hwin
        by_cases hr : 16 ≤ q.replays + 1
        · rw [if_pos hr]
          exact hkept.state.trans (hdown hr)
        · rw [if_neg hr]
          obtain ⟨hstate, hreplays, p, hout⟩ := hagain hr
          refine ⟨hkept.state.trans hstate, hkept.replays.trans hreplays, fun x hx =>
            ⟨_, mem_drop_window hblocks hout hx, rfl, LinkBlock.again_keeps x.block p⟩⟩

end Sys2Proof
end

section
/-! SUPPORT. Samples of the rails and of temperature, and the limits of power (chapter 22, R473 to R485). -/

-- One proof at a time: each thread that elaborates beside the others reserves its stack.
set_option Elab.async false

namespace Sys2Proof.Machine

open Sys2Proof

variable {s : State} {d : Dev} {k : Clock}

/-! ### Rails -/

/-- What a rail sample notes of the rails. -/
def Dev.railsNoted (d : Dev) (inRange : BitVec 5) : Dev :=
  let d := d.modStart fun s => { s with rails := inRange, supplyHeld := s.supplyHeld && inRange = BitVec.allOnes 5 }
  if inRange = BitVec.allOnes 5 || !d.clocked then d
  else ((d.flag .pwrEvRail).wr .pwrRailSeen (d.rd .pwrRailSeen ||| (~~~inRange).toNat)).noteUpdate .pwrRailSeen

/-- The consecutive low samples of the rails. -/
def Pwr.lowsAfter (p : Pwr) (low : BitVec 5) : List Nat :=
  (List.range 5).map fun i => if low.getLsbD i then p.lows.getD i 0 + 1 else 0

/-- What a rail sample makes of a device that no trip has stopped. -/
def Dev.railSampled (d : Dev) (inRange low : BitVec 5) : Dev :=
  if (d.pwr.lowsAfter low).any (10 ≤ ·) then
    ((d.railsNoted inRange).modPwr fun p => { p with lows := d.pwr.lowsAfter low }).powerLost
  else (d.railsNoted inRange).modPwr fun p => { p with lows := d.pwr.lowsAfter low }

theorem Dev.rd_noteUpdate (d : Dev) (f g : Fld) (i j i' j' : Nat) : (d.noteUpdate f i j).rd g i' j' = d.rd g i' j' := rfl

theorem Dev.railsNoted_effect (d : Dev) (inRange : BitVec 5) : (d.railsNoted inRange).sec = d.sec ∧
    (d.railsNoted inRange).pwr = d.pwr ∧
    (d.railsNoted inRange).start =
      { d.start with rails := inRange, supplyHeld := d.start.supplyHeld && inRange = BitVec.allOnes 5 } ∧
    (inRange ≠ BitVec.allOnes 5 → d.clocked = true → (d.railsNoted inRange).rd .pwrEvRail = 1) := by
  unfold Dev.railsNoted
  extract_lets -merge +onlyGivenNames d1
  have h1 : d1.sec = d.sec ∧ d1.pwr = d.pwr ∧ d1.clocked = d.clocked ∧
      d1.start = { d.start with rails := inRange, supplyHeld := d.start.supplyHeld && inRange = BitVec.allOnes 5 } :=
    ⟨rfl, rfl, rfl, rfl⟩
  clear_value d1
  obtain ⟨hsec, hpwr, hclocked, hstart⟩ := h1
  by_cases h : inRange = BitVec.allOnes 5 ∨ d.clocked = false
  · rw [if_pos (by rw [Bool.or_eq_true, decide_eq_true_eq, hclocked, Bool.not_eq_true']; exact h)]
    refine ⟨hsec, hpwr, hstart, fun hr hc => ?_⟩
    rw [h.resolve_left hr] at hc
    cases hc
  · rw [if_neg (by rw [Bool.or_eq_true, decide_eq_true_eq, hclocked, Bool.not_eq_true']; exact h)]
    have hflag := d1.rd_flag_same .pwrEvRail rfl
    have hx : (d1.flag .pwrEvRail).sec = d1.sec ∧ (d1.flag .pwrEvRail).pwr = d1.pwr ∧ (d1.flag .pwrEvRail).start = d1.start :=
      ⟨rfl, rfl, rfl⟩
    generalize d1.flag .pwrEvRail = x at *
    obtain ⟨hs, hp, ht⟩ := hx
    refine ⟨hs.trans hsec, hp.trans hpwr, ht.trans hstart, fun _ _ => ?_⟩
    rw [Dev.rd_noteUpdate, Dev.rd_wr_field _ _ (by decide), hflag]

theorem Dev.turnOff_effect (d : Dev) : d.turnOff.sec = d.sec ∧ d.turnOff.pwr = d.pwr ∧ d.turnOff.regs = d.regs ∧
    d.turnOff.mem = d.mem ∧ d.turnOff.start = { d.start with state := .off } := by
  unfold Dev.turnOff
  split
  · next h => exact ⟨rfl, rfl, rfl, rfl, by rw [← h]⟩
  · exact ⟨rfl, rfl, rfl, rfl, rfl⟩

theorem Dev.railSampled_effect (d : Dev) (inRange low : BitVec 5) : (d.railSampled inRange low).sec = d.sec ∧
    (d.railSampled inRange low).start.rails = inRange ∧ (d.railSampled inRange low).pwr.lows = d.pwr.lowsAfter low ∧
    (inRange ≠ BitVec.allOnes 5 → (d.railSampled inRange low).start.supplyHeld = false ∧
      (d.clocked = true → (d.railSampled inRange low).rd .pwrEvRail = 1)) ∧
    (d.railSampled inRange low).start.state = if (d.pwr.lowsAfter low).any (10 ≤ ·) then .off else d.start.state := by
  obtain ⟨hsec, hpwr, hstart, hev⟩ := d.railsNoted_effect inRange
  unfold Dev.railSampled
  generalize d.railsNoted inRange = e at *
  have hheld : inRange ≠ BitVec.allOnes 5 → e.start.supplyHeld = false := fun h => by
    rw [hstart]
    exact Bool.and_eq_false_imp.mpr fun _ => decide_eq_false h
  by_cases hl : (d.pwr.lowsAfter low).any (10 ≤ ·) = true
  · rw [if_pos hl, if_pos hl]
    obtain ⟨hs, hp, hr, -, ht⟩ := Dev.turnOff_effect (e.modPwr fun p => { p with lows := d.pwr.lowsAfter low })
    unfold Dev.powerLost
    refine ⟨hs.trans hsec, ?_, congrArg Pwr.lows hp, fun h => ⟨rfl, fun hc => ?_⟩, congrArg Start.state ht⟩
    · refine (congrArg Start.rails ht).trans ?_
      exact congrArg Start.rails hstart
    · refine Eq.trans ?_ (hev h hc)
      exact congrArg (fun r => Dev.rd { e with regs := r } .pwrEvRail) hr
  · rw [if_neg hl, if_neg hl]
    have hstate : e.start.state = d.start.state := by rw [hstart]
    exact ⟨hsec, congrArg Start.rails hstart, rfl, fun h => ⟨hheld h, fun hc => hev h hc⟩, hstate⟩

theorem exec_railSample (inRange low : BitVec 5) (h : s.dev.pwr.tripped = false) :
    exec (.railSample inRange low) s = .next { s with
      clk := if s.dev.clocked then s.clk.toUnit ((s.clk.units / 7000 + 1) * 7000) else s.clk
      dev := s.dev.railSampled inRange low } := by
  obtain ⟨hsec, hpwr, -⟩ := s.dev.railsNoted_effect inRange
  change execRailSample inRange low s = _
  unfold execRailSample
  refine (State.board_some (d := s.dev.railSampled inRange low) ?_).trans ?_
  · have hn : ¬ s.dev.pwr.tripped = true := by rw [h]; decide
    refine (if_neg hn).trans ?_
    have hlows : (s.dev.railsNoted inRange).pwr.lowsAfter low = s.dev.pwr.lowsAfter low := by rw [hpwr]
    unfold Dev.railSampled
    rw [← hlows]
    rfl
  · rw [Dev.sendRaised_of_eq]
    rw [(s.dev.railSampled_effect inRange low).1]

theorem exec_railSample_none (inRange low : BitVec 5) (h : s.dev.pwr.tripped = true) :
    exec (.railSample inRange low) s = .next s := by
  change execRailSample inRange low s = _
  unfold execRailSample
  refine State.board_none ?_
  rw [if_pos h]

/-! ### Temperature -/

/-- The die is in reduction. -/
def Pwr.Reduces (p : Pwr) (x : Nat) : Prop := ∃ r ∈ p.reduced, r.1 = x

/-- A reading of a compute die starts reduction. -/
def Pwr.Hot (p : Pwr) (x : Nat) : Prop := ∃ j < 8, 420 ≤ p.read (8 * x + j)

theorem Pwr.hot_iff (p : Pwr) {x : Nat} (hx : x < 12) : ((p.unit x).any fun t => 420 ≤ t) = true ↔ p.Hot x := by
  unfold Pwr.unit Pwr.Hot sensorsOf
  rw [if_pos hx]
  simp

/-- What a sample of one die leaves: the readings, and the reduction of every other die. -/
structure Dev.Sampled (P : Nat → Prop) (d e : Dev) : Prop where
  sec : e.sec = d.sec
  fab : e.fab = d.fab
  temps : e.pwr.temps = d.pwr.temps
  watts : e.pwr.watts = d.pwr.watts
  tripped : e.pwr.tripped = d.pwr.tripped
  reduces (y : Nat) : e.pwr.Reduces y ↔ d.pwr.Reduces y ∨ P y

theorem Dev.sampled_sampleDie (d : Dev) (k : Clock) {x : Nat} (hx : x < 12) :
    Dev.Sampled (fun y => y = x ∧ d.pwr.Hot x) d (d.sampleDie k x) := by
  unfold Dev.sampleDie
  extract_lets -merge +onlyGivenNames ts cool
  by_cases hin : d.pwr.Reduces x
  · rw [if_pos (by simpa [Pwr.Reduces] using hin)]
    refine ⟨rfl, rfl, rfl, rfl, rfl, fun y => ?_⟩
    have hmap : ∀ r : Nat × Option Nat, (if r.1 = x then (x, if cool then some (r.2.getD k.units) else none) else r).1 = r.1 :=
      fun r => by split <;> simp_all
    refine Iff.trans (b := d.pwr.Reduces y) ?_ (or_iff_left_of_imp (by rintro ⟨rfl, -⟩; exact hin)).symm
    constructor
    · rintro ⟨r, hr, rfl⟩
      obtain ⟨q, hq, rfl⟩ := List.mem_map.mp hr
      exact ⟨q, hq, (hmap q).symm⟩
    · rintro ⟨q, hq, rfl⟩
      exact ⟨_, List.mem_map.mpr ⟨q, hq, rfl⟩, hmap q⟩
  · rw [if_neg (by simpa [Pwr.Reduces] using hin)]
    by_cases hot : d.pwr.Hot x
    · rw [if_pos ((d.pwr.hot_iff hx).mpr hot)]
      refine ⟨rfl, rfl, rfl, rfl, rfl, fun y => ?_⟩
      change (∃ r ∈ d.pwr.reduced ++ [(x, none)], r.1 = y) ↔ _
      constructor
      · rintro ⟨r, hr, rfl⟩
        rcases List.mem_append.mp hr with hr | hr
        · exact .inl ⟨r, hr, rfl⟩
        · rw [List.mem_singleton.mp hr]
          exact .inr ⟨rfl, hot⟩
      · rintro (⟨r, hr, rfl⟩ | ⟨rfl, -⟩)
        · exact ⟨r, List.mem_append_left _ hr, rfl⟩
        · exact ⟨(y, none), List.mem_append_right _ (List.mem_singleton_self _), rfl⟩
    · rw [if_neg fun h => hot ((d.pwr.hot_iff hx).mp h)]
      exact ⟨rfl, rfl, rfl, rfl, rfl, fun y => (or_iff_left fun h => hot h.2).symm⟩

theorem Pwr.hot_congr {p q : Pwr} (h : p.temps = q.temps) (x : Nat) : p.Hot x ↔ q.Hot x := by
  unfold Pwr.Hot Pwr.read
  rw [h]

/-- All dies of a list are sampled. -/
theorem Dev.sampled_foldl (k : Clock) (l : List Nat) (d : Dev) (hl : ∀ x ∈ l, x < 12) :
    Dev.Sampled (fun y => y ∈ l ∧ d.pwr.Hot y) d (l.foldl (fun d x => d.sampleDie k x) d) := by
  induction l generalizing d with
  | nil => exact ⟨rfl, rfl, rfl, rfl, rfl, fun y => (or_iff_left fun h => List.not_mem_nil h.1).symm⟩
  | cons x l ih =>
    have h := d.sampled_sampleDie k (hl x List.mem_cons_self)
    have g := ih (d.sampleDie k x) fun y hy => hl y (List.mem_cons_of_mem _ hy)
    refine ⟨g.sec.trans h.sec, g.fab.trans h.fab, g.temps.trans h.temps, g.watts.trans h.watts, g.tripped.trans h.tripped,
      fun y => ?_⟩
    rw [List.foldl_cons, g.reduces, h.reduces, Pwr.hot_congr h.temps, List.mem_cons]
    constructor
    · rintro ((hr | ⟨rfl, hot⟩) | ⟨hy, hot⟩)
      · exact .inl hr
      · exact .inr ⟨.inl rfl, hot⟩
      · exact .inr ⟨.inr hy, hot⟩
    · rintro (hr | ⟨rfl | hy, hot⟩)
      · exact .inl (.inl hr)
      · exact .inl (.inr ⟨rfl, hot⟩)
      · exact .inr ⟨hy, hot⟩

/-- Ports that go down stay down while others do. -/
theorem Dev.portsDown_effect (k : Clock) (l : List (Fin 81)) (d : Dev) :
    (l.foldl (fun d p => d.portDown k p) d).sec = d.sec ∧
      (l.foldl (fun d p => d.portDown k p) d).pwr = d.pwr ∧
      ∀ i : Fin 81, i ∈ l ∨ d.fab.ports[i].state = .down → (l.foldl (fun d p => d.portDown k p) d).fab.ports[i].state = .down := by
  induction l generalizing d with
  | nil => exact ⟨rfl, rfl, fun i h => h.resolve_left List.not_mem_nil⟩
  | cons p l ih =>
    obtain ⟨hsec, hown, hother⟩ := d.portLost_effect k p .down
    obtain ⟨hs, hp, hdown⟩ := ih (d.portDown k p)
    refine ⟨hs.trans hsec, hp.trans (d.touches_portDown k p).pwr, fun i hi => hdown i ?_⟩
    by_cases hip : i = p
    · exact .inr (hip ▸ hown)
    · refine hi.imp (fun h => (List.mem_cons.mp h).resolve_left hip) fun h => ?_
      exact (hother i hip).trans h

theorem Dev.alerting_keeps (d : Dev) (f : Dev → Dev) : (d.alerting f).sec = (f d).sec ∧ (d.alerting f).fab = (f d).fab ∧
    (d.alerting f).pwr = (f d).pwr ∧ (d.alerting f).regs = (f d).regs ∧ (d.alerting f).mem = (f d).mem ∧
    (d.alerting f).cores = (f d).cores := by
  unfold Dev.alerting
  dsimp only
  split <;> exact ⟨rfl, rfl, rfl, rfl, rfl, rfl⟩

theorem Dev.countReduced_keeps (d : Dev) (k : Clock) : (d.countReduced k).sec = d.sec ∧ (d.countReduced k).fab = d.fab ∧
    (d.countReduced k).pwr = { d.pwr with reducedTo := k.units } := by
  unfold Dev.countReduced
  dsimp only
  split <;> exact ⟨rfl, rfl, rfl⟩

/-- The device with all sensors sampled, before a trip. -/
def Dev.sensed (d : Dev) (k : Clock) (temps : List (BitVec 12)) (power : BitVec 12) : Dev :=
  (List.range 12).foldl (fun d x => d.sampleDie k x) ((d.countReduced k).modPwr fun p => { p with
    temps := temps, watts := power.toNat, energy := p.energy + power.toNat })

theorem Dev.sensed_effect (d : Dev) (k : Clock) (temps : List (BitVec 12)) (power : BitVec 12) :
    (d.sensed k temps power).sec = d.sec ∧ (d.sensed k temps power).fab = d.fab ∧
      (d.sensed k temps power).pwr.temps = temps ∧ (d.sensed k temps power).pwr.watts = power.toNat ∧
      (d.sensed k temps power).pwr.tripped = d.pwr.tripped ∧
      ∀ y < 12, (d.sensed k temps power).pwr.Reduces y ↔
        d.pwr.Reduces y ∨ ∃ j < 8, 420 ≤ ((temps[8 * y + j]?).map BitVec.toInt).getD 0 := by
  obtain ⟨hsec, hfab, hpwr⟩ := d.countReduced_keeps k
  have h := Dev.sampled_foldl k (List.range 12) ((d.countReduced k).modPwr fun p => { p with
    temps := temps, watts := power.toNat, energy := p.energy + power.toNat }) fun x hx => List.mem_range.mp hx
  have hmem : ∀ y, y < 12 → y ∈ List.range 12 := fun y hy => List.mem_range.mpr hy
  unfold Dev.sensed
  generalize List.range 12 = l at *
  have hmod : ((d.countReduced k).modPwr fun p => { p with
      temps := temps, watts := power.toNat, energy := p.energy + power.toNat }).pwr.tripped = d.pwr.tripped :=
    show (d.countReduced k).pwr.tripped = d.pwr.tripped by rw [hpwr]
  refine ⟨h.sec.trans hsec, h.fab.trans hfab, h.temps, h.watts, h.tripped.trans hmod, fun y hy => ?_⟩
  refine (h.reduces y).trans (or_congr ?_ ?_)
  · change (∃ r ∈ (d.countReduced k).pwr.reduced, r.1 = y) ↔ _
    rw [hpwr]
    exact Iff.rfl
  · rw [and_iff_right (hmem y hy)]
    exact Iff.rfl

/-- A sensor of a fitted unit reads 115 °C or more for the second time. -/
def Dev.tripsNow (d : Dev) (temps : List (BitVec 12)) : Bool :=
  d.units.any fun u => (List.range (sensorsOf u).2).any fun j =>
    460 ≤ d.pwr.read ((sensorsOf u).1 + j) && (sensorsOf u).1 + j < d.pwr.temps.length &&
      460 ≤ ((temps[(sensorsOf u).1 + j]?).map BitVec.toInt).getD 0

theorem Dev.tripsNow_iff (d : Dev) (temps : List (BitVec 12)) : d.tripsNow temps = true ↔
    ∃ u ∈ d.units, ∃ j < (sensorsOf u).2, 460 ≤ d.pwr.read ((sensorsOf u).1 + j) ∧
      (sensorsOf u).1 + j < d.pwr.temps.length ∧ 460 ≤ ((temps[(sensorsOf u).1 + j]?).map BitVec.toInt).getD 0 := by
  simp [Dev.tripsNow, and_assoc]

/-- The device after its sensors, where they trip it. -/
def Dev.afterTrip (d : Dev) (k : Clock) (trip : Bool) : Dev :=
  if trip then ((List.finRange 81).foldl (fun d p => d.portDown k p) d).modPwr fun p => { p with tripped := true } else d

theorem Dev.afterTrip_effect (d : Dev) (k : Clock) (trip : Bool) : (d.afterTrip k trip).sec = d.sec ∧
    (d.afterTrip k trip).pwr = { d.pwr with tripped := trip || d.pwr.tripped } ∧
    (trip = true → ∀ i : Fin 81, (d.afterTrip k trip).fab.ports[i].state = .down) ∧
    (trip = false → (d.afterTrip k trip).fab = d.fab) := by
  unfold Dev.afterTrip
  have hall : ∀ i : Fin 81, i ∈ List.finRange 81 := List.mem_finRange
  generalize List.finRange 81 = l at *
  obtain ⟨hs, hp, hdown⟩ := Dev.portsDown_effect k l d
  cases trip with
  | true =>
    rw [if_pos rfl]
    exact ⟨hs, congrArg (fun p : Pwr => { p with tripped := true }) hp, fun _ i => hdown i (.inl (hall i)), (nomatch ·)⟩
  | false =>
    rw [if_neg Bool.false_ne_true]
    exact ⟨rfl, rfl, (nomatch ·), fun _ => rfl⟩

/-- What a temperature sample makes of the device. -/
def Dev.tempSampled (d : Dev) (k : Clock) (temps : List (BitVec 12)) (power : BitVec 12) : Dev :=
  d.alerting fun e => (e.sensed k temps power).afterTrip k (d.tripsNow temps)

theorem Dev.tempSampled_effect (d : Dev) (k : Clock) (temps : List (BitVec 12)) (power : BitVec 12) :
    (d.tempSampled k temps power).sec = d.sec ∧
      (d.tempSampled k temps power).pwr.temps = temps ∧ (d.tempSampled k temps power).pwr.watts = power.toNat ∧
      (∀ y < 12, (d.tempSampled k temps power).pwr.Reduces y ↔
        d.pwr.Reduces y ∨ ∃ j < 8, 420 ≤ ((temps[8 * y + j]?).map BitVec.toInt).getD 0) ∧
      (d.tempSampled k temps power).pwr.tripped = (d.tripsNow temps || d.pwr.tripped) ∧
      (d.tripsNow temps = true → ∀ i : Fin 81, (d.tempSampled k temps power).fab.ports[i].state = .down) ∧
      (d.tripsNow temps = false → (d.tempSampled k temps power).fab = d.fab) := by
  obtain ⟨hsec, hfab, htemps, hwatts, htrip, hred⟩ := d.sensed_effect k temps power
  obtain ⟨has, haf, hap, -⟩ := d.alerting_keeps fun e => (e.sensed k temps power).afterTrip k (d.tripsNow temps)
  obtain ⟨hs, hp, hdown, hstay⟩ := (d.sensed k temps power).afterTrip_effect k (d.tripsNow temps)
  unfold Dev.tempSampled
  rw [has, haf, hap, hs, hp]
  generalize (d.sensed k temps power).afterTrip k (d.tripsNow temps) = x at *
  generalize d.sensed k temps power = e at *
  refine ⟨hsec, htemps, hwatts, hred, ?_, hdown, fun h => (hstay h).trans hfab⟩
  rw [← htrip]

theorem exec_tempSample (temps : List (BitVec 12)) (power : BitVec 12) (hc : s.dev.clocked = true) :
    exec (.tempSample temps power) s = .next { s with
      clk := s.clk.toUnit ((s.clk.units / 70000 + 1) * 70000)
      dev := s.dev.tempSampled (s.clk.toUnit ((s.clk.units / 70000 + 1) * 70000)) temps power } := by
  change execTempSample temps power s = _
  unfold execTempSample
  refine State.act_quiet (s.clk.toUnit ((s.clk.units / 70000 + 1) * 70000)) hc rfl rfl ?_
  rw [(s.dev.tempSampled_effect _ temps power).1]

/-! ### The end of a reduction -/

/-- What the end of a reduction makes of the device. -/
def Dev.restored (d : Dev) (k : Clock) (x : Nat) : Dev :=
  d.alerting fun d => (d.countReduced k).modPwr fun p => p.reduce k.units (p.reduced.filter fun r => r.1 ≠ x)

theorem Dev.restored_effect (d : Dev) (k : Clock) (x : Nat) : (d.restored k x).sec = d.sec ∧ (d.restored k x).mem = d.mem ∧
    (d.restored k x).cores = d.cores ∧ (d.restored k x).pwr.reduced = d.pwr.reduced.filter fun r => r.1 ≠ x := by
  obtain ⟨hsec, -, hpwr⟩ := d.countReduced_keeps k
  obtain ⟨has, -, hap, -, ham, hac⟩ := d.alerting_keeps fun d => (d.countReduced k).modPwr fun p =>
    p.reduce k.units (p.reduced.filter fun r => r.1 ≠ x)
  have ht := d.touches_countReduced k
  refine ⟨has.trans hsec, ham.trans ht.mem, hac.trans ht.cores, (congrArg Pwr.reduced hap).trans ?_⟩
  change (d.countReduced k).pwr.reduced.filter _ = _
  rw [hpwr]

theorem exec_reductionExit {die : Fin 12} {u : Nat} (hc : s.dev.clocked = true)
    (h : (s.dev.pwr.reduced.find? fun r => r.1 = die.val).bind (·.2) = some u) (hk : s.clk.toUnit (u + 7000000) = k) :
    exec (.reductionExit die) s = .next { s with clk := k, dev := s.dev.restored k die.val } := by
  change execReductionExit die s = _
  unfold execReductionExit
  rw [h]
  exact State.act_quiet k hc hk rfl (congrArg Sec.reports (s.dev.restored_effect k die.val).1)

theorem exec_reductionExit_none {die : Fin 12} (h : (s.dev.pwr.reduced.find? fun r => r.1 = die.val).bind (·.2) = none) :
    exec (.reductionExit die) s = .next s := by
  change execReductionExit die s = _
  unfold execReductionExit
  rw [h]
  exact State.act_none rfl

/-! ### PWR_CAP and PWR_TJ -/

theorem Dev.openPage_pwr {d : Dev} {m : Master} {p : Page} (h : d.openPage 0x250 m = some p) : p = ⟨.pwr, 0, 81⟩ := by
  obtain ⟨hp, -⟩ := Option.filter_eq_some_iff.mp h
  have hpage : d.page 0x250 = some ⟨.pwr, 0, 81⟩ := by unfold Dev.page; cases d.order <;> rfl
  exact (Option.some.inj (hpage.symm.trans hp)).symm

theorem oneField_pwrCap : Page.OneField ⟨.pwr, 0, 81⟩ 0 .pwrCapW where
  fields := by decide
  access := rfl
  inst := rfl
  allows _ _ := rfl

theorem oneField_pwrTj : Page.OneField ⟨.pwr, 0, 81⟩ 4 .pwrTjTarget where
  fields := by decide
  access := rfl
  inst := rfl
  allows _ _ := rfl

/-- The limits write their field themselves. -/
theorem Dev.writePair_pwr {e : Dev} {p : Page} {reg v : Nat} {f : Fld} {b : Bool} (h : p.OneField reg f)
    (hp : p.blk = .pwr) (he : d.pairEffect k p reg v = some (e, b)) : d.writePair k p reg v = (e, b) := by
  have hw1c : [(f, 0)].filter (fun x => x.1.row.access = .w1c) = [] := by simp [h.access]
  unfold Dev.writePair
  dsimp only
  rw [h.fields, hw1c, h.allows]
  simp only [Dev.writeFields, List.foldl_nil, List.isEmpty_cons, Bool.not_true, Bool.or_self, Bool.false_eq_true, if_false, he]
  cases b with
  | false => rfl
  | true => rw [hp]

theorem State.limitPair {m : Master} {same : Bool} {off v : Nat} {p : Page} {f : Fld} {e : Dev} {b : Bool}
    (h : s.PairReady m same 0x250 off v p) (hf : Page.OneField ⟨.pwr, 0, 81⟩ off f)
    (he : (s.paired m same 0x250 off).pairEffect (s.writeClock m same 0x250) ⟨.pwr, 0, 81⟩ off v = some (e, b))
    (hr : e.sec = s.dev.sec) :
    ∃ t, s.writeComplement m same 0x250 off v = .next { s with clk := s.writeClock m same 0x250, dev := t } ∧
      e.Touches [.regs, .ctl, .updated] fldsCommon t := by
  obtain rfl := Dev.openPage_pwr h.reaches.opened
  obtain ⟨t, ht, -, hquiet⟩ := State.writeComplement_next h
  rw [Dev.writePair_pwr hf rfl he] at hquiet
  exact ⟨t, ht, hquiet (congrArg Sec.reports hr)⟩

theorem Dev.setPwrCap_effect (d : Dev) (v : Nat) : (d.setPwrCap v).1.sec = d.sec ∧ (d.setPwrCap v).1.mem = d.mem ∧
    (d.setPwrCap v).1.cores = d.cores ∧ if 1000 ≤ v % 4096 ∧ v % 4096 ≤ 2800 then (d.setPwrCap v).1.rd .pwrCapW = v % 4096
      else (d.setPwrCap v).1.rd .pwrCapW = d.rd .pwrCapW ∧ (d.setPwrCap v).1.rd .pwrEvCapReject = 1 := by
  have hv : bitRange v 11 0 = v % 4096 := by simp [bitRange]
  unfold Dev.setPwrCap
  dsimp only
  rw [hv]
  by_cases h : 1000 ≤ v % 4096 ∧ v % 4096 ≤ 2800
  · rw [if_pos h, if_pos h]
    refine ⟨rfl, rfl, rfl, d.rd_wr_fits .pwrCapW (Nat.lt_of_le_of_lt h.2 (by decide))⟩
  · rw [if_neg h, if_neg h]
    exact ⟨rfl, rfl, rfl, d.rd_flag_field (by decide), d.rd_flag_same .pwrEvCapReject rfl⟩

theorem Dev.setPwrTj_effect (d : Dev) (v : Nat) : (d.setPwrTj v).1.sec = d.sec ∧ (d.setPwrTj v).1.mem = d.mem ∧
    (d.setPwrTj v).1.cores = d.cores ∧ if 70 ≤ v % 256 ∧ v % 256 ≤ 100 then (d.setPwrTj v).1.rd .pwrTjTarget = v % 256
      else (d.setPwrTj v).1.rd .pwrTjTarget = d.rd .pwrTjTarget ∧ (d.setPwrTj v).1.rd .pwrEvCapReject = 1 := by
  have hv : bitRange v 7 0 = v % 256 := by simp [bitRange]
  unfold Dev.setPwrTj
  dsimp only
  rw [hv]
  by_cases h : 70 ≤ v % 256 ∧ v % 256 ≤ 100
  · obtain ⟨has, -, -, har, ham, hac⟩ := d.alerting_keeps fun d => d.wr .pwrTjTarget (v % 256)
    rw [if_pos h, if_pos h]
    refine ⟨has, ham, hac, Eq.trans ?_ (d.rd_wr_fits .pwrTjTarget (Nat.lt_of_le_of_lt h.2 (by decide)))⟩
    unfold Dev.rd
    rw [har]
  · rw [if_neg h, if_neg h]
    exact ⟨rfl, rfl, rfl, d.rd_flag_field (by decide), d.rd_flag_same .pwrEvCapReject rfl⟩

end Sys2Proof.Machine

namespace Sys2Proof

open Machine

/-- Settles O50: what each sample keeps, when it starts or ends a reduction, stops the device or drops its ports, and
which limits a completed pair takes. -/
theorem samplesAndLimits : Obligations.SamplesAndLimits := by
  unfold Obligations.SamplesAndLimits
  intro s d kept
  refine ⟨fun inRange low => ?_, fun temps power hc => ?_, fun die hc => ?_, fun m same v p => ⟨fun h => ?_, fun h => ?_⟩⟩
  · intro lows
    refine ⟨exec_railSample_none inRange low, fun h => ?_⟩
    obtain ⟨hsec, hrails, hlows, hheld, hstate⟩ := s.dev.railSampled_effect inRange low
    have ht := (touches_execRailSample inRange low s).dev _ (exec_railSample inRange low h)
    exact ⟨_, _, exec_railSample inRange low h, ⟨ht.mem, ht.cores⟩, fun hc => if_pos hc,
      fun hc => if_neg (by rw [hc]; decide), hrails, hlows, hheld, hstate⟩
  · intro new trips
    have hexec := exec_tempSample temps power hc
    have ht := (touches_execTempSample temps power s).dev _ hexec
    obtain ⟨-, htemps, hwatts, hred, htrip, hdown, hstay⟩ :=
      s.dev.tempSampled_effect (s.clk.toUnit ((s.clk.units / 70000 + 1) * 70000)) temps power
    have hiff : s.dev.tripsNow temps = true ↔ trips := s.dev.tripsNow_iff temps
    refine ⟨_, hexec, ⟨ht.mem, ht.cores⟩, ht.job, htemps, hwatts, hred, fun h => ?_, fun h => ?_⟩
    · rw [htrip, hiff.mpr h]
      exact ⟨rfl, hdown (hiff.mpr h)⟩
    · have hno : s.dev.tripsNow temps = false := Bool.eq_false_iff.mpr fun hh => h (hiff.mp hh)
      have hfalse : s.dev.pwr.tripped = false := by
        have := (Bool.and_eq_true_iff.mp hc).2
        rwa [Bool.not_eq_true'] at this
      rw [htrip, hno, hfalse]
      exact ⟨rfl, hstay hno⟩
  · split
    · next x u hfind =>
      obtain ⟨-, hmem, hcores, hred⟩ := s.dev.restored_effect (s.clk.toUnit (u + 7000000)) die.val
      exact ⟨_, exec_reductionExit (u := u) hc (by rw [hfind]; rfl) rfl, ⟨hmem, hcores⟩, hred⟩
    · next hnone =>
      refine exec_reductionExit_none ?_
      cases hf : s.dev.pwr.reduced.find? fun r => r.1 = die.val with
      | none => rfl
      | some r =>
        obtain ⟨x, o⟩ := r
        cases o with
        | none => rfl
        | some u => exact absurd hf (hnone x u)
  · intro x
    obtain ⟨hsec, hmem, hcores, hval⟩ := (s.paired m same 0x250 0).setPwrCap_effect v.toNat
    have hp := s.touches_paired m same 0x250 0
    obtain ⟨t, ht, htouch⟩ := State.limitPair h oneField_pwrCap (e := ((s.paired m same 0x250 0).setPwrCap v.toNat).1)
      (b := ((s.paired m same 0x250 0).setPwrCap v.toNat).2) rfl (hsec.trans hp.sec)
    refine ⟨t, ht, ⟨?_, ?_⟩, ?_⟩
    · rw [htouch.mem, hmem, hp.mem]
    · rw [htouch.cores, hcores, hp.cores]
    · rw [htouch.rd .pwrCapW, htouch.rd .pwrEvCapReject]
      exact hval
  · intro x
    obtain ⟨hsec, hmem, hcores, hval⟩ := (s.paired m same 0x250 4).setPwrTj_effect v.toNat
    have hp := s.touches_paired m same 0x250 4
    obtain ⟨t, ht, htouch⟩ := State.limitPair h oneField_pwrTj (e := ((s.paired m same 0x250 4).setPwrTj v.toNat).1)
      (b := ((s.paired m same 0x250 4).setPwrTj v.toNat).2) rfl (hsec.trans hp.sec)
    refine ⟨t, ht, ⟨?_, ?_⟩, ?_⟩
    · rw [htouch.mem, hmem, hp.mem]
    · rw [htouch.cores, hcores, hp.cores]
    · rw [htouch.rd .pwrTjTarget, htouch.rd .pwrEvCapReject]
      exact hval

end Sys2Proof
end

section
/-! SUPPORT. The synchronisation of the counter (chapter 2, R31 to R35). -/

-- One proof at a time: each thread that elaborates beside the others reserves its stack.
set_option Elab.async false

namespace Sys2Proof.Machine

open Sys2Proof

variable {s : State} {d : Dev} {k : Clock}

/-! ### Parents -/

/-- A device whose parent's port carries timestamps keeps its synchronisation state. -/
theorem Dev.parentsChanged_timed (k : Clock) (h : d.portTimed d.parent = true) :
    (d.parentsChanged k).sync.state = d.sync.state ∧ (d.parentsChanged k).sync.good = d.sync.good := by
  unfold Dev.parentsChanged
  dsimp only
  split
  · exact ⟨rfl, rfl⟩
  · split
    · exact ⟨rfl, rfl⟩
    · next hno =>
      have hback : (d.sync.state = .coarse ∧ d.sync.onBackup = true) ∧ d.portTimed d.otherParent = true := by
        simpa [h] using hno
      obtain ⟨⟨hcoarse, -⟩, hother⟩ := hback
      rw [if_pos hother, hcoarse]
      exact ⟨rfl, rfl⟩

/-- In TRACKING and COARSE, parents that come and go leave the synchronisation state. -/
theorem Dev.parentsChanged_steady (k : Clock) (h : d.sync.state = .tracking ∨ d.sync.state = .coarse) :
    (d.parentsChanged k).sync.state = d.sync.state := by
  unfold Dev.parentsChanged
  dsimp only
  split
  · rfl
  · split
    · rfl
    · rcases h with h | h
      · rw [h]
        split
        · rfl
        · rfl
      · rw [h]
        split
        · rfl
        · rfl

/-- In COARSE, parents that come and go leave the count of good offsets. -/
theorem Dev.parentsChanged_good (k : Clock) (h : d.sync.state = .coarse) : (d.parentsChanged k).sync.good = d.sync.good := by
  unfold Dev.parentsChanged
  dsimp only
  split
  · rfl
  · split
    · rfl
    · rw [h]
      split
      · rfl
      · rfl

/-! ### TIME messages -/

/-- A TIME message is taken. -/
def State.TakesTime (s : State) (p : Packet) : Prop := s.dev.timeLetIn s.clk p = true ∧ s.dev.isRoot = false ∧
  s.dev.keepsTime = false ∧ (s.dev.sync.state = .unset ∨ s.dev.sync.state = .coarse)

theorem State.takesTime_iff {p : Packet} (hop : p.op = 0x70) : (p.op = 0x70 && s.dev.timeLetIn s.clk p && !s.dev.isRoot &&
    !s.dev.keepsTime && (s.dev.sync.state = .unset || s.dev.sync.state = .coarse)) = true ↔ s.TakesTime p := by
  simp only [hop, decide_true, Bool.true_and, Bool.and_eq_true, Bool.or_eq_true, decide_eq_true_eq, Bool.not_eq_true',
    State.TakesTime, and_assoc]

/-- The device after a TIME message that is taken. -/
def Dev.timeTaken (d : Dev) (k : Clock) : Dev :=
  (d.setSync { d.sync with state := .coarse, good := 0, orphan := none }).parentsChanged k

theorem exec_timeMessage_takes {p : Packet} (hc : s.dev.clocked = true) (hop : p.op = 0x70) (h : s.TakesTime p)
    (hk : s.clk.setCount (field p.payload 0 8) = k) :
    exec (.timeMessage p) s = .next { s with clk := k, dev := s.dev.timeTaken k } := by
  have hiff := (State.takesTime_iff hop).mpr h
  change execTimeMessage p s = _
  unfold execTimeMessage
  dsimp only
  refine State.act_quiet k hc ((if_pos hiff).trans hk) ?_ ?_
  · rw [if_neg (not_not.mpr hop), if_neg (by rw [h.1]; decide), if_pos hiff]
    rfl
  · exact congrArg Sec.reports (Dev.touches_parentsChanged ..).sec

theorem exec_timeMessage_drops {p : Packet} (hc : s.dev.clocked = true) (hop : p.op = 0x70)
    (h : s.dev.timeLetIn s.clk p = false) :
    exec (.timeMessage p) s = .next { s with dev := s.dev.count .secMacDrop } := by
  change execTimeMessage p s = _
  unfold execTimeMessage
  rw [h]
  dsimp only
  refine State.act_quiet s.clk hc (if_neg (by rw [Bool.and_false]; exact Bool.false_ne_true)) ?_ rfl
  rw [if_neg (not_not.mpr hop), if_pos (by decide)]

theorem exec_timeMessage_none {p : Packet} (hop : p.op = 0x70) (h : s.dev.timeLetIn s.clk p = true) (hn : ¬ s.TakesTime p) :
    exec (.timeMessage p) s = .next s := by
  change execTimeMessage p s = _
  unfold execTimeMessage
  dsimp only
  refine State.act_none ?_
  rw [if_neg (not_not.mpr hop), if_neg (by rw [h]; decide), if_neg fun hh => hn ((State.takesTime_iff hop).mp hh)]

/-! ### Timestamp blocks -/

/-- The stamps of a timestamp block, recorded on its port. -/
def Dev.gotStamps (d : Dev) (port : Fin 81) (t3 t4 : BitVec 64) : Dev :=
  { d with fab := { d.fab with ports := d.fab.ports.set port { d.fab.ports[port] with gotAt := some (t3.toNat, t4.toNat) } } }

/-- A timestamp block is recorded: its stamps, and on the twin link what it says of the twin. -/
def Dev.stamped (d : Dev) (k : Clock) (port : Fin 81) (t3 t4 : BitVec 64) (status : TwinStatus) (node : BitVec 16) : Dev :=
  if port = 80 then
    ({ d.gotStamps port t3 t4 with
      twin := { d.twin with peer := some (status.mode.toNat, node.toNat, status.job.toNat) } } : Dev).twinUp k
  else d.gotStamps port t3 t4

/-- The rate is adjusted where the state does. -/
def Dev.adjusted (d : Dev) : Dev := if d.steersRate then d.freeRate else d

/-- The offset of a block on the current parent steers. -/
def Dev.steered (d : Dev) (h : Int) : Dev :=
  (d.wr .tickOffsetLast (untwos 16 (h * 8))).adjusted.setSync
    ((d.wr .tickOffsetLast (untwos 16 (h * 8))).adjusted.sync.measured h)

theorem Dev.twinUp_steady (d : Dev) (k : Clock) : (d.twinUp k).sec = d.sec ∧ (d.twinUp k).twin = d.twin ∧
    (d.twinUp k).regs = d.regs ∧ (d.twinUp k).rates = d.rates ∧
    (d.parent = some 80 → (d.twinUp k).sync.state = d.sync.state ∧ (d.twinUp k).sync.good = d.sync.good) := by
  have ht := d.touches_twinUp k
  refine ⟨?_, ht.twin, ?_, ht.rates, fun hp => ?_⟩
  · unfold Dev.twinUp
    dsimp only
    split
    · exact (Dev.touches_parentsChanged _ k).sec.trans (Dev.passes_pump _ k 80).sec
    · rfl
  · exact ht.regs
  · unfold Dev.twinUp
    dsimp only
    split
    · have hpump := Dev.touches_pump (d.modPort 80 fun q => q.enterUp) k 80
      have hpass := Dev.passes_pump (d.modPort 80 fun q => q.enterUp) k 80
      have hstate := (hpass.port 80).state
      rw [Dev.port_modPort, if_pos rfl] at hstate
      have hsync := hpump.sync
      have hregs := hpump.regs
      generalize (d.modPort 80 fun q => q.enterUp).pump k 80 = e at *
      have hparent : e.parent = some 80 := by
        rw [← hp]
        unfold Dev.parent Dev.backup Dev.primary Dev.rd
        rw [hsync, hregs]
        rfl
      have htimed : e.portTimed e.parent = true := by
        rw [hparent]
        change (decide (e.fab.ports[(80 : Fin 81)].state = .quarantine) || decide (e.fab.ports[(80 : Fin 81)].state = .up)) = true
        rw [hstate]
        rfl
      obtain ⟨h1, h2⟩ := Dev.parentsChanged_timed k htimed
      exact ⟨h1.trans (congrArg Sync.state hsync), h2.trans (congrArg Sync.good hsync)⟩
    · exact ⟨rfl, rfl⟩

/-- What recording a timestamp block leaves. -/
theorem Dev.stamped_effect (d : Dev) (k : Clock) (port : Fin 81) (t3 t4 : BitVec 64) (status : TwinStatus) (node : BitVec 16) :
    (d.stamped k port t3 t4 status node).sec = d.sec ∧ (d.stamped k port t3 t4 status node).rates = d.rates ∧
      (port ≠ 80 → (d.stamped k port t3 t4 status node).fab.ports[port].gotAt = some (t3.toNat, t4.toNat) ∧
        (d.stamped k port t3 t4 status node).sync = d.sync) ∧
      (port = 80 → (d.stamped k port t3 t4 status node).twin.peer = some (status.mode.toNat, node.toNat, status.job.toNat)) ∧
      (d.parent = some port → (d.stamped k port t3 t4 status node).sync.state = d.sync.state ∧
        (d.stamped k port t3 t4 status node).sync.good = d.sync.good) := by
  unfold Dev.stamped
  by_cases h80 : port = 80
  · subst h80
    rw [if_pos rfl]
    obtain ⟨hs, ht, -, hr, hsync⟩ := Dev.twinUp_steady ({ d.gotStamps 80 t3 t4 with
      twin := { d.twin with peer := some (status.mode.toNat, node.toNat, status.job.toNat) } } : Dev) k
    exact ⟨hs, hr, fun h => absurd rfl h, fun _ => congrArg Twin.peer ht, hsync⟩
  · rw [if_neg h80]
    refine ⟨rfl, rfl, fun _ => ⟨?_, rfl⟩, fun h => absurd h h80, fun _ => ⟨rfl, rfl⟩⟩
    simp [Dev.gotStamps]

/-- The synchronisation state once an offset has been measured on the current parent. -/
def SyncState.measured (st : SyncState) (good : Nat) (h : Int) : SyncState := match st with
  | .coarse => .tracking
  | .locked => if 8 < h.natAbs then .tracking else .locked
  | .tracking => if h.natAbs ≤ 4 ∧ 16 ≤ good + 1 then .locked else .tracking
  | .holdover => .tracking
  | x => x

theorem Sync.measured_state (y : Sync) (h : Int) : (y.measured h).state = SyncState.measured y.state y.good h := by
  unfold Sync.measured SyncState.measured
  cases hy : y.state with
  | locked =>
    by_cases h8 : 8 < h.natAbs
    · exact (congrArg Sync.state (if_pos h8)).trans (if_pos h8).symm
    · exact ((congrArg Sync.state (if_neg h8)).trans hy).trans (if_neg h8).symm
  | tracking =>
    dsimp only
    by_cases h4 : h.natAbs ≤ 4
    · rw [if_pos h4]
      by_cases h16 : 16 ≤ y.good + 1
      · rw [if_pos h16, if_pos ⟨h4, h16⟩]
      · rw [if_neg h16, if_neg fun hh => h16 hh.2]
    · rw [if_neg h4, if_neg (by decide), if_neg fun hh => h4 hh.1]
  | unset => exact hy
  | lost => exact hy
  | coarse => rfl
  | holdover => rfl

theorem untwos_lt (n : Nat) (i : Int) : untwos n i < 2 ^ n := by
  have hpos : (0 : Int) < ((2 ^ n : Nat) : Int) := by exact_mod_cast Nat.two_pow_pos n
  have h1 := Int.emod_nonneg i hpos.ne'
  have h2 := Int.emod_lt_of_pos i hpos
  unfold untwos
  omega

/-- What an offset on the current parent makes of the device. -/
theorem Dev.steered_effect (d : Dev) (h : Int) : (d.steered h).sec = d.sec ∧ (d.steered h).fab = d.fab ∧
    (d.steered h).twin = d.twin ∧ (d.steered h).sync = d.sync.measured h ∧
    (d.steered h).rd .tickOffsetLast = untwos 16 (h * 8) ∧
    (d.steersRate = true → (d.steered h).rd .tickOffsetRate = untwos 16 d.nextRate) := by
  have hlast := d.rd_wr_fits .tickOffsetLast (v := untwos 16 (h * 8)) (untwos_lt ..)
  have hsame : (d.wr .tickOffsetLast (untwos 16 (h * 8))).nextRate = d.nextRate := rfl
  have hkeeps : (d.wr .tickOffsetLast (untwos 16 (h * 8))).sec = d.sec ∧
      (d.wr .tickOffsetLast (untwos 16 (h * 8))).fab = d.fab ∧ (d.wr .tickOffsetLast (untwos 16 (h * 8))).twin = d.twin :=
    ⟨rfl, rfl, rfl⟩
  have hstate : (d.wr .tickOffsetLast (untwos 16 (h * 8))).steersRate = d.steersRate ∧
      (d.wr .tickOffsetLast (untwos 16 (h * 8))).sync = d.sync := ⟨rfl, rfl⟩
  unfold Dev.steered Dev.adjusted
  generalize d.wr .tickOffsetLast (untwos 16 (h * 8)) = e at *
  obtain ⟨hsec, hfab, htwin⟩ := hkeeps
  obtain ⟨hsteers, hsync⟩ := hstate
  rw [hsteers]
  by_cases hr : d.steersRate = true
  · rw [if_pos hr]
    have hrate := e.rd_wr_fits .tickOffsetRate (v := untwos 16 e.nextRate) (untwos_lt ..)
    have hother : (e.wr .tickOffsetRate (untwos 16 e.nextRate)).rd .tickOffsetLast = e.rd .tickOffsetLast :=
      Dev.rd_wr_field _ _ (by decide)
    have ht := e.touches_freeRate
    have hfree : ∀ f, e.freeRate.rd f = (e.wr .tickOffsetRate (untwos 16 e.nextRate)).rd f := fun _ => rfl
    refine ⟨ht.sec.trans hsec, ht.fab.trans hfab, ht.twin.trans htwin, ?_, ?_, fun _ => ?_⟩
    · exact congrArg (Sync.measured · h) (ht.sync.trans hsync)
    · exact (hfree _).trans (hother.trans hlast)
    · exact (hfree _).trans (hrate.trans (by rw [hsame]))
  · rw [if_neg hr]
    exact ⟨hsec, hfab, htwin, congrArg (Sync.measured · h) hsync, hlast, fun h => absurd h hr⟩

theorem Dev.nextRate_bound (d : Dev) : d.nextRate.natAbs ≤ 5000 := by
  unfold Dev.nextRate
  omega

/-- The offset of a timestamp block steers this device. -/
def Dev.Steers (d : Dev) (port : Fin 81) : Prop := d.isRoot = false ∧ d.parent = some port

/-- The state adjusts the rate. -/
theorem Dev.steersRate_iff (d : Dev) : d.steersRate = true ↔
    d.sync.state = .tracking ∨ d.sync.state = .locked ∨ d.sync.state = .holdover := by
  unfold Dev.steersRate
  cases d.sync.state <;> decide

variable {port : Fin 81} {t1 t2 t3 t4 : BitVec 64} {status : TwinStatus} {node : BitVec 16}

theorem exec_timestampBlock_untimed (h : s.dev.fab.ports[port].timed = false) :
    exec (.timestampBlock port t1 t2 t3 t4 status node) s = .next s := by
  change execTimestampBlock port t1 t2 t3 t4 status node s = _
  refine State.act_none (if_pos ?_)
  rw [h]
  rfl

/-- The clock after an offset that steers. -/
def State.steeredClock (s : State) (h : Int) : Clock :=
  if s.dev.sync.state = .coarse ∧ s.dev.keepsTime = false then s.clk.setCount ((s.clk.count : Int) + h / 2).toNat
  else if s.dev.steersRate then s.clk.setRate s.dev.nextRate
  else s.clk

theorem steers_iff (ht : s.dev.fab.ports[port].timed = true) :
    (!s.dev.isRoot && s.dev.parent = some port && s.dev.fab.ports[port].timed) = true ↔ s.dev.Steers port := by
  rw [ht, Bool.and_true, Bool.and_eq_true, decide_eq_true_eq, Bool.not_eq_true']
  exact Iff.rfl

theorem exec_timestampBlock_steers (hc : s.dev.clocked = true) (ht : s.dev.fab.ports[port].timed = true)
    (hs : s.dev.Steers port) (hk : s.steeredClock (twiceOffset t1 t2 t3 t4) = k) :
    exec (.timestampBlock port t1 t2 t3 t4 status node) s = .next { s with
      clk := k, dev := (s.dev.stamped k port t3 t4 status node).steered (twiceOffset t1 t2 t3 t4) } := by
  have hst := (steers_iff ht).mpr hs
  obtain ⟨hsec, -⟩ := s.dev.stamped_effect k port t3 t4 status node
  change execTimestampBlock port t1 t2 t3 t4 status node s = _
  unfold execTimestampBlock
  rw [hst]
  dsimp only
  refine State.act_quiet k hc ?_ ?_ (congrArg Sec.reports ((Dev.steered_effect _ _).1.trans hsec))
  · rw [← hk, State.steeredClock]
    simp only [Bool.true_and, Bool.and_eq_true, decide_eq_true_eq, Bool.not_eq_true']
  · refine (if_neg (by rw [ht]; decide)).trans ((if_neg (by decide)).trans rfl)

theorem exec_timestampBlock_others (hc : s.dev.clocked = true) (ht : s.dev.fab.ports[port].timed = true)
    (hs : ¬ s.dev.Steers port) :
    exec (.timestampBlock port t1 t2 t3 t4 status node) s = .next { s with
      dev := s.dev.stamped s.clk port t3 t4 status node } := by
  have hst : (!s.dev.isRoot && s.dev.parent = some port && s.dev.fab.ports[port].timed) = false :=
    Bool.eq_false_iff.mpr fun h => hs ((steers_iff ht).mp h)
  obtain ⟨hsec, -⟩ := s.dev.stamped_effect s.clk port t3 t4 status node
  change execTimestampBlock port t1 t2 t3 t4 status node s = _
  unfold execTimestampBlock
  rw [hst]
  dsimp only
  refine State.act_quiet s.clk hc rfl ?_ (congrArg Sec.reports hsec)
  exact (if_neg (by rw [ht]; decide)).trans (if_pos rfl)

/-! ### Sending timestamps -/

/-- The count at which the next timestamp block leaves. -/
def Port.stampDue (q : Port) (k : Clock) : Nat :=
  if k.count % 65536 = 0 && q.sentAt ≠ some k.count then k.count else (k.count / 65536 + 1) * 65536

theorem Port.stampDue_bounds (q : Port) (k : Clock) :
    q.stampDue k % 65536 = 0 ∧ k.count ≤ q.stampDue k ∧ q.stampDue k ≤ k.count + 65536 := by
  unfold Port.stampDue
  split
  · next h =>
    rw [Bool.and_eq_true, decide_eq_true_eq] at h
    exact ⟨h.1, le_refl _, Nat.le_add_right ..⟩
  · omega

/-- The device once a timestamp block has gone out. -/
def Dev.stampSent (d : Dev) (k : Clock) (port : Fin 81) : Dev :=
  (d.sendBlock k port 1 (d.stampBody k port)).modPort port fun q => { q with sentAt := some k.count }

theorem Dev.passes_sendArm (d : Dev) (k : Clock) : d.Passes (d.sendArm k) := by
  unfold Dev.sendArm
  split
  · exact Dev.Passes.foldl _ _ fun e i => e.passes_sendOneHop ..
  · exact .refl d

theorem Dev.stampSent_effect (d : Dev) (k : Clock) (port : Fin 81) : (d.stampSent k port).sec = d.sec ∧
    (d.stampSent k port).fab.ports[port].sentAt = some k.count ∧
    (d.stampSent k port).fab.ports[port].blocks = d.fab.ports[port].blocks + 1 ∧
    (d.stampSent k port).out.blocks = d.out.blocks ++ [(port.val, d.fab.ports[port].block 1 (d.stampBody k port))] := by
  unfold Dev.stampSent Dev.sendBlock
  refine ⟨rfl, ?_, ?_, rfl⟩
  · rw [Dev.port_modPort, if_pos rfl]
  · rw [Dev.port_modPort, if_pos rfl, Dev.port_modPort, if_pos rfl]
    rfl

theorem Dev.stampBody_take (d : Dev) (k : Clock) (port : Fin 81) : (d.stampBody k port).take 8 = leBytes 8 k.count := by
  unfold Dev.stampBody
  dsimp only
  rw [List.append_assoc, List.append_assoc, List.append_assoc, List.append_assoc]
  exact List.take_left' (leBytes_size ..)

theorem exec_timestampSend_none (h : s.dev.fab.ports[port].timed = false ∨ s.dev.fab.ports[port].blockRoom = false) :
    exec (.timestampSend port) s = .next s := by
  change execTimestampSend port s = _
  refine State.act_none (if_neg ?_)
  rw [Bool.and_eq_true]
  rintro ⟨h1, h2⟩
  rcases h with h | h
  · rw [h] at h1
    cases h1
  · rw [h] at h2
    cases h2

theorem exec_timestampSend (hc : s.dev.clocked = true) (ht : s.dev.fab.ports[port].timed = true)
    (hb : s.dev.fab.ports[port].blockRoom = true) (hk : s.clk.toCount (s.dev.fab.ports[port].stampDue s.clk) = k) :
    exec (.timestampSend port) s = .next { s with
      clk := k
      dev := if port = 80 then (s.dev.stampSent k port).sendArm k else s.dev.stampSent k port } := by
  obtain ⟨hsec, -⟩ := s.dev.stampSent_effect k port
  change execTimestampSend port s = _
  refine State.act_quiet k hc hk ?_ ?_
  · exact if_pos (Bool.and_eq_true_iff.mpr ⟨ht, hb⟩)
  · split
    · exact congrArg Sec.reports ((Dev.passes_sendArm _ k).sec.trans hsec)
    · exact congrArg Sec.reports hsec

/-! ### A parent that stays away -/

/-- The device whose counter is LOST. -/
def Dev.syncLost (d : Dev) : Dev :=
  (d.setSync { d.sync with
    state := .lost, orphan := none, lostRun := d.sync.lostRun || d.job.phase = .running
    lostArmed := d.sync.lostArmed || d.job.phase = .armed }).flag .tickEvSyncLost

/-- The counter may become LOST. -/
def Dev.MayLose (d : Dev) : Prop :=
  (d.sync.state = .coarse ∨ d.sync.state = .tracking ∨ d.sync.state = .holdover) ∧ d.isRoot = false

theorem exec_syncParentTimeout {c : Nat} (hc : s.dev.clocked = true) (ho : s.dev.sync.orphan = some c) (h : s.dev.MayLose)
    (hk : s.clk.toCount (c + 20000000) = k) :
    exec .syncParentTimeout s = .next { s with clk := k, dev := s.dev.syncLost } := by
  obtain ⟨hstate, hroot⟩ := h
  change execSyncParentTimeout s = _
  unfold execSyncParentTimeout
  refine State.act_quiet k hc (by rw [ho]; exact hk) ?_ rfl
  refine if_pos ?_
  rw [ho, hroot]
  rcases hstate with h | h | h
  · rw [h]
    rfl
  · rw [h]
    rfl
  · rw [h]
    rfl

theorem exec_syncParentTimeout_none (h : s.dev.sync.orphan = none ∨ ¬ s.dev.MayLose) :
    exec .syncParentTimeout s = .next s := by
  change execSyncParentTimeout s = _
  unfold execSyncParentTimeout
  refine State.act_none (if_neg fun hh => ?_)
  rw [Bool.and_eq_true, Bool.and_eq_true, Bool.not_eq_true'] at hh
  obtain ⟨⟨hmay, hsome⟩, hroot⟩ := hh
  rcases h with h | h
  · rw [h] at hsome
    cases hsome
  · refine h ⟨?_, hroot⟩
    cases hst : s.dev.sync.state with
    | coarse => exact .inl rfl
    | tracking => exact .inr (.inl rfl)
    | holdover => exact .inr (.inr rfl)
    | _ => rw [hst] at hmay; cases hmay

/-! ### TICK_SYNC_CFG -/

/-- The device with the fields of TICK_SYNC_CFG written. -/
def Dev.syncWritten (d : Dev) (v : Nat) : Dev :=
  ((d.wr .tickSyncPrimary (bitRange v 7 0)).wr .tickSyncBackup (bitRange v 15 8)).wr .tickSyncRoot (bitRange v 16 16)

theorem Dev.syncWritten_reads (d : Dev) (v : Nat) : (d.syncWritten v).rd .tickSyncPrimary = bitRange v 7 0 ∧
    (d.syncWritten v).rd .tickSyncBackup = bitRange v 15 8 ∧ (d.syncWritten v).rd .tickSyncRoot = (bitAt v 16).toNat := by
  have hroot : bitRange v 16 16 = (bitAt v 16).toNat := by
    unfold bitRange bitAt
    rw [Nat.testBit_eq_decide_div_mod_eq]
    have := Nat.mod_lt (v / 2 ^ 16) (show 0 < 2 by decide)
    by_cases h : v / 2 ^ 16 % 2 = 1
    · rw [decide_eq_true h]
      exact h
    · rw [decide_eq_false h]
      show v / 2 ^ 16 % 2 = 0
      omega
  have hlt : ∀ hi lo n, hi + 1 - lo ≤ n → bitRange v hi lo < 2 ^ n := fun hi lo n hn =>
    Nat.lt_of_lt_of_le (Nat.mod_lt _ (Nat.two_pow_pos _)) (Nat.pow_le_pow_right (by decide) hn)
  unfold Dev.syncWritten
  refine ⟨?_, ?_, ?_⟩
  · rw [Dev.rd_wr_field _ _ (by decide), Dev.rd_wr_field _ _ (by decide), Dev.rd_wr_fits _ _ (hlt _ _ _ (by decide))]
  · rw [Dev.rd_wr_field _ _ (by decide), Dev.rd_wr_fits _ _ (hlt _ _ _ (by decide))]
  · rw [Dev.rd_wr_fits _ _ (hlt _ _ _ (by decide)), hroot]

/-- The synchronisation state that a write of TICK_SYNC_CFG leads to, before its parents are looked at. -/
def Dev.syncAfterCfg (d : Dev) (v : Nat) : Sync :=
  match d.sync.state with
  | .lost => { d.sync with
      state := if d.keepsTime then .tracking else .coarse, good := 0, onBackup := false, orphan := none }
  | .locked => if d.isRoot ≠ (d.syncWritten v).isRoot || (d.syncWritten v).parent ≠ d.parent then
      { d.sync with state := .tracking, good := 0 } else d.sync
  | .holdover => if (d.syncWritten v).parent ≠ d.parent then { d.sync with state := .tracking, good := 0 } else d.sync
  | .tracking => if (d.syncWritten v).parent ≠ d.parent then { d.sync with good := 0 } else d.sync
  | _ => d.sync

theorem Dev.setSyncCfg_eq (d : Dev) (k : Clock) (v : Nat) : d.setSyncCfg k v =
    ((d.syncWritten v).setSync (if (d.syncWritten v).isRoot then
      { d.syncAfterCfg v with state := .locked, orphan := none } else d.syncAfterCfg v)).parentsChanged k := by
  unfold Dev.setSyncCfg Dev.syncAfterCfg
  rfl

theorem Dev.isRoot_syncWritten (d : Dev) (v : Nat) : (d.syncWritten v).isRoot = bitAt v 16 := by
  obtain ⟨-, -, hroot⟩ := d.syncWritten_reads v
  unfold Dev.isRoot
  rw [hroot]
  cases bitAt v 16 <;> rfl

theorem Dev.parent_syncWritten (d : Dev) (v : Nat) : (d.syncWritten v).parent =
    if d.sync.onBackup then parentPort (bitRange v 15 8) else parentPort (bitRange v 7 0) := by
  obtain ⟨hprimary, hbackup, -⟩ := d.syncWritten_reads v
  unfold Dev.parent Dev.backup Dev.primary
  rw [hprimary, hbackup]
  rfl

/-- What TICK_SYNC_CFG leads to, where the device is not the root. -/
theorem Dev.setSyncCfg_state (d : Dev) (k : Clock) (v : Nat) (hv : bitAt v 16 = false) :
    (d.sync.state = .lost → (d.setSyncCfg k v).sync.state = if d.keepsTime then .tracking else .coarse) ∧
    (d.sync.state = .locked ∨ d.sync.state = .holdover → (d.syncWritten v).parent ≠ d.parent →
      (d.setSyncCfg k v).sync.state = .tracking) := by
  rw [Dev.setSyncCfg_eq, Dev.isRoot_syncWritten, hv, if_neg Bool.false_ne_true]
  generalize hx : (d.syncWritten v).setSync (d.syncAfterCfg v) = x
  have hsync : x.sync = d.syncAfterCfg v := by rw [← hx]; rfl
  refine ⟨fun h => ?_, fun h hp => ?_⟩
  · have hstate : x.sync.state = if d.keepsTime then .tracking else .coarse := by
      rw [hsync, Dev.syncAfterCfg, h]
    rw [Dev.parentsChanged_steady, hstate]
    rw [hstate]
    by_cases hk : d.keepsTime = true
    · exact .inl (if_pos hk)
    · exact .inr (if_neg hk)
  · have hstate : x.sync.state = .tracking := by
      rw [hsync, Dev.syncAfterCfg]
      rcases h with h | h
      · rw [h]
        dsimp only
        rw [if_pos (by rw [Bool.or_eq_true, decide_eq_true_eq, decide_eq_true_eq]; exact .inr hp)]
      · rw [h]
        dsimp only
        rw [if_pos hp]
    rw [Dev.parentsChanged_steady k (.inl hstate), hstate]

/-- A completed pair of TICK_SYNC_CFG stores its fields once more. -/
theorem Dev.writePair_syncCfg (d : Dev) (k : Clock) (v : Nat) :
    d.writePair k ⟨.tick, 0, 1⟩ 0 v = ((d.setSyncCfg k v).syncWritten v, true) := by
  have hfields : ((⟨.tick, 0, 1⟩ : Page).fields 0).filter (fun x => (⟨.tick, 0, 1⟩ : Page).holds x.1) =
      [(.tickSyncPrimary, 0), (.tickSyncBackup, 0), (.tickSyncRoot, 0)] := by decide
  unfold Dev.writePair
  rw [hfields]
  rfl

theorem exec_tickSyncCfgWrite {m : Master} {same : Bool} {v : BitVec 32} {p : Page} (h : s.PairReady m same 0x10 0 v.toNat p) :
    ∃ t, exec (.tickSyncCfgWrite m same v) s = .next { s with clk := s.writeClock m same 0x10, dev := t } ∧
      (((s.paired m same 0x10 0).setSyncCfg (s.writeClock m same 0x10) v.toNat).syncWritten v.toNat).Touches
        [.regs, .ctl, .updated] fldsCommon t := by
  obtain rfl := Dev.openPage_tick h.reaches.opened
  obtain ⟨t, ht, -, hquiet⟩ := State.writeComplement_next h
  rw [Dev.writePair_syncCfg] at hquiet
  have hs := Dev.touches_setSyncCfg (s.paired m same 0x10 0) (s.writeClock m same 0x10) v.toNat
  exact ⟨t, ht, hquiet (congrArg Sec.reports hs.sec)⟩

end Sys2Proof.Machine

namespace Sys2Proof

open Machine

/-- Settles O41: what a TIME message, a timestamp block, a parent that stays away and a completed pair of TICK_SYNC_CFG
make of the counter's synchronisation. -/
theorem counterSynchronisation : Obligations.CounterSynchronisation := by
  unfold Obligations.CounterSynchronisation
  intro s kept y
  refine ⟨fun p hc hop => ?_, fun port t1 t2 t3 t4 status node hc => ?_, fun port hc => ?_, fun hc => ?_, fun m same v p h => ?_⟩
  · intro letIn takes
    refine ⟨fun h => ?_, fun h => ?_, fun h hn => exec_timeMessage_none hop h hn⟩
    · have hexec := exec_timeMessage_takes hc hop h rfl
      have ht := (touches_execTimeMessage p s).dev _ hexec
      refine ⟨_, hexec, ?_, ?_, ht.mem, ht.cores, ht.job⟩
      · exact Dev.parentsChanged_steady _ (.inr rfl)
      · exact Dev.parentsChanged_good _ rfl
    · exact ⟨_, exec_timeMessage_drops hc hop h, rfl, rfl, rfl, rfl⟩
  · intro i h steers rates
    refine ⟨exec_timestampBlock_untimed, fun ht => ?_⟩
    by_cases hs : steers
    · have hexec := exec_timestampBlock_steers (t1 := t1) (t2 := t2) (t3 := t3) (t4 := t4) (status := status) (node := node)
        hc ht hs rfl
      have htouch := (touches_execTimestampBlock port t1 t2 t3 t4 status node s).dev _ hexec
      refine ⟨_, _, hexec, ⟨htouch.mem, htouch.cores, htouch.job⟩, ?_⟩
      obtain ⟨-, hrates, hport, htwin, hsync⟩ := s.dev.stamped_effect (s.steeredClock h) port t3 t4 status node
      obtain ⟨hstate, hgood⟩ := hsync hs.2
      obtain ⟨-, hf, htw, hsy, hlast, hrate⟩ := (s.dev.stamped (s.steeredClock h) port t3 t4 status node).steered_effect h
      have hsteers : rates → (s.dev.stamped (s.steeredClock h) port t3 t4 status node).steersRate = true := fun hr => by
        rw [Dev.steersRate_iff, hstate]
        exact hr
      have hnext : (s.dev.stamped (s.steeredClock h) port t3 t4 status node).nextRate = s.dev.nextRate := by
        unfold Dev.nextRate
        rw [hrates]
      refine ⟨fun hp => ?_, fun hp => ?_, fun _ hco hkt => if_pos ⟨hco, hkt⟩, fun _ hr => ⟨?_, s.dev.nextRate_bound, ?_⟩, fun hn => ?_,
        fun hn => absurd hs hn, fun _ => ⟨hlast, ?_⟩⟩
      · exact (congrArg (fun f : Fab => f.ports[port].gotAt) hf).trans (hport hp).1
      · exact (congrArg Twin.peer htw).trans (htwin hp)
      · refine (if_neg fun hh => ?_).trans (if_pos ((s.dev.steersRate_iff).mpr hr))
        have hco : y.state = .coarse := hh.1
        rcases hr with hr | hr | hr <;> rw [hco] at hr <;> cases hr
      · rw [← hnext]
        exact hrate (hsteers hr)
      · obtain ⟨hr, hco⟩ := hn.resolve_left (not_not.mpr hs)
        refine (if_neg fun hh => hco.elim (fun h => h hh.1) fun h => ?_).trans (if_neg fun hh => hr ((s.dev.steersRate_iff).mp hh))
        rw [hh.2] at h
        cases h
      · have hmeasured : SyncState.measured (s.dev.stamped (s.steeredClock h) port t3 t4 status node).sync.state
            (s.dev.stamped (s.steeredClock h) port t3 t4 status node).sync.good h = SyncState.measured y.state y.good h := by
          rw [hstate, hgood]
        exact (congrArg Sync.state hsy).trans ((Sync.measured_state _ h).trans hmeasured)
    · have hexec := exec_timestampBlock_others (t1 := t1) (t2 := t2) (t3 := t3) (t4 := t4) (status := status) (node := node)
        hc ht hs
      have htouch := (touches_execTimestampBlock port t1 t2 t3 t4 status node s).dev _ hexec
      obtain ⟨-, -, hport, htwin, -⟩ := s.dev.stamped_effect s.clk port t3 t4 status node
      exact ⟨s.clk, _, hexec, ⟨htouch.mem, htouch.cores, htouch.job⟩, fun hp => (hport hp).1, htwin,
        fun h => absurd h hs, fun h => absurd h hs, fun _ => rfl, fun _ hp => (hport hp).2, fun h => absurd h hs⟩
  · intro q
    refine ⟨fun h => exec_timestampSend_none (h.imp_right fun h => decide_eq_false (Nat.not_lt.mpr h)), fun ht hb => ?_⟩
    obtain ⟨hmod, hlo, hhi⟩ := q.stampDue_bounds s.clk
    have hcount : (s.clk.toCount (q.stampDue s.clk)).count = q.stampDue s.clk := by
      rw [Clock.toCount_count]
      exact max_eq_right hlo
    have hexec := exec_timestampSend hc ht (decide_eq_true hb) rfl
    have htouch := (touches_execTimestampSend port s).dev _ hexec
    refine ⟨_, _, hexec, ⟨htouch.mem, htouch.cores, htouch.job⟩, ?_, ?_, ?_, ?_, fun hp => ?_⟩
    · rw [hcount]
      exact hmod
    · rw [hcount]
      exact hlo
    · rw [hcount]
      exact hhi
    · obtain ⟨-, hsent, -⟩ := s.dev.stampSent_effect (s.clk.toCount (q.stampDue s.clk)) port
      split
      · exact ((Dev.passes_sendArm _ _).port port).sentAt.trans hsent
      · exact hsent
    · obtain ⟨-, -, hblocks, hout⟩ := s.dev.stampSent_effect (s.clk.toCount (q.stampDue s.clk)) port
      rw [if_neg hp]
      exact ⟨hblocks, _, hout, rfl, rfl, rfl, rfl, s.dev.stampBody_take _ port⟩
  · intro may
    refine ⟨fun c ho hmay => ?_, fun h => exec_syncParentTimeout_none h⟩
    exact ⟨_, exec_syncParentTimeout hc ho hmay rfl, rfl, Dev.rd_flag_same _ .tickEvSyncLost rfl, rfl, rfl, rfl, rfl, rfl⟩
  · intro root parent
    obtain ⟨t, ht, htouch⟩ := exec_tickSyncCfgWrite h
    have hp := s.touches_paired m same 0x10 0
    have hcfg := Dev.touches_setSyncCfg (s.paired m same 0x10 0) (s.writeClock m same 0x10) v.toNat
    have hlast := (s.paired m same 0x10 0).setSyncCfg_state (s.writeClock m same 0x10) v.toNat
    have hparent := (s.paired m same 0x10 0).parent_syncWritten v.toNat
    generalize hx : (s.paired m same 0x10 0).setSyncCfg (s.writeClock m same 0x10) v.toNat = x at *
    obtain ⟨hprimary, hbackup, hroot⟩ := x.syncWritten_reads v.toNat
    have htr : t.isRoot = root := by
      refine Eq.trans ?_ (x.isRoot_syncWritten v.toNat)
      unfold Dev.isRoot
      rw [htouch.rd .tickSyncRoot]
    have hstate : root = false → t.syncState = x.sync.state := fun hr => by
      unfold Dev.syncState
      rw [htr, hr, if_neg Bool.false_ne_true]
      exact congrArg Sync.state htouch.sync
    refine ⟨t, ht, ⟨?_, ?_, ?_⟩, ?_, ?_, ?_, fun hr => ?_, fun hr hl => ?_, fun hr hl hpar => ?_⟩
    · exact htouch.mem.trans (hcfg.mem.trans hp.mem)
    · exact htouch.cores.trans (hcfg.cores.trans hp.cores)
    · exact htouch.job.trans (hcfg.job.trans hp.job)
    · rw [htouch.rd .tickSyncPrimary]
      exact hprimary
    · rw [htouch.rd .tickSyncBackup]
      exact hbackup
    · rw [htouch.rd .tickSyncRoot]
      exact hroot
    · unfold Dev.syncState
      rw [htr, hr, if_pos rfl]
    · exact (hstate hr).trans ((hlast hr).1 hl)
    · refine (hstate hr).trans ((hlast hr).2 hl ?_)
      rw [hparent]
      exact hpar

end Sys2Proof
end

section
/-! SUPPORT. Reset and start (chapter 20, R428 to R431, Table BOOT-2). -/

-- One proof at a time: each thread that elaborates beside the others reserves its stack.
set_option Elab.async false

namespace Sys2Proof.Machine

open Sys2Proof

variable {s : State} {d e : Dev} {k : Clock} {ok : Bool}

/-! ### Reset -/

theorem exec_resetAssert (s : State) : exec .resetAssert s = .next { s with
    dev := ((s.dev.turnOff.modStart fun s => { s with resetHeld := true }).modIf fun h => h.settleTap true) } := by
  change execResetAssert s = _
  refine State.board_quiet rfl ?_
  exact congrArg Sec.reports s.dev.turnOff_effect.1

theorem exec_pwrgoodFall (s : State) : exec .pwrgoodFall s = .next { s with dev := s.dev.powerLost } := by
  change execPwrgoodFall s = _
  refine State.board_quiet rfl ?_
  exact congrArg Sec.reports s.dev.turnOff_effect.1

theorem exec_refclkStart (s : State) :
    exec .refclkStart s = .next { s with dev := { s.dev with start := { s.dev.start with refclk := true } } } := by
  change execRefclkStart s = _
  exact State.board_quiet rfl rfl

/-! ### The release of reset -/

/-- A lent range of device HBM. -/
def Dev.Lent (d : Dev) (a : Nat) : Prop := d.tier.lend ≠ .off ∧ d.rd .tierLendBase * 2 ^ 21 ≤ a ∧
  a < d.rd .tierLendBase * 2 ^ 21 + d.rd .tierLendPages * 2 ^ 21

theorem Dev.zeroLent_read (d : Dev) (a : Nat) : (d.Lent a → d.zeroLent.mem.hbm.read a = 0) ∧
    (¬ d.Lent a → d.zeroLent.mem.hbm.read a = d.mem.hbm.read a) := by
  unfold Dev.zeroLent
  by_cases hl : d.tier.lend = .off
  · rw [if_pos hl]
    exact ⟨fun h => absurd hl h.1, fun _ => rfl⟩
  · rw [if_neg hl]
    have hread := Memory.clear_read d.mem.hbm (d.rd .tierLendBase * 2 ^ 21) (d.rd .tierLendPages * 2 ^ 21) a
    exact ⟨fun h => hread.trans (if_pos h.2), fun h => hread.trans (if_neg fun hh => h ⟨hl, hh⟩)⟩

theorem Dev.breakFlash_keeps (d : Dev) : d.breakFlash.mem.hbm = d.mem.hbm ∧ d.breakFlash.order = d.order ∧
    d.breakFlash.tier = d.tier ∧ d.breakFlash.regs = d.regs := by
  have h := d.touches_breakFlash
  refine ⟨?_, h.order, h.tier, h.regs⟩
  unfold Dev.breakFlash
  split
  · rfl
  · rfl

/-- Entering a start state leaves all but the registers and the messages to host and board. -/
theorem Dev.setStart_effect (d : Dev) (st : StartState) : (d.setStart st).start = { d.start with state := st } ∧
    (d.setStart st).mem = d.mem ∧ (d.setStart st).sec = d.sec ∧ (d.setStart st).order = d.order ∧
    (d.setStart st).job = d.job ∧ (d.setStart st).image = d.image ∧ (d.setStart st).cores = d.cores := by
  have hs : (d.setStart st).start = { d.start with state := st } := by
    have hev := Dev.touches_hostEvent (d.modStart fun s => { s with state := st }) 3
    unfold Dev.setStart
    dsimp only
    split
    · exact hev.start
    · exact hev.start
  have h := d.touches_setStart st
  exact ⟨hs, h.mem, h.sec, h.order, h.job, h.image, h.cores⟩

theorem Dev.sendRaised_keeps (d : Dev) (r : List Report) (k : Clock) : (d.sendRaised r k).start = d.start ∧
    (d.sendRaised r k).mem = d.mem ∧ (d.sendRaised r k).order = d.order ∧ (d.sendRaised r k).job = d.job ∧
    (d.sendRaised r k).image = d.image ∧ (d.sendRaised r k).cores = d.cores := by
  have h := d.touches_sendRaised r k
  exact ⟨h.start, h.mem, h.order, h.job, h.image, h.cores⟩

/-- The device after the release of reset, at a count. -/
def Dev.released (d : Dev) (count : Nat) : Dev :=
  (d.breakFlash.zeroLent.restart (d.mayWarm && d.asksWarm) ((d.mayWarm && d.asksWarm) && d.wordBit 3) count).setStart .supply

/-- What a start resets. -/
theorem Dev.restart_effect (d : Dev) (warm links : Bool) (count : Nat) : (d.restart warm links count).start.resetHeld = false ∧
    (d.restart warm links count).start.kind = (if warm then 2 else 1) ∧ (d.restart warm links count).start.done = [] ∧
    (d.restart warm links count).order = d.order ∧ (d.restart warm links count).job = Job.idle ∧
    (d.restart warm links count).image = none ∧ (d.restart warm links count).cores = Vector.replicate 48 Core.empty ∧
    (d.restart warm links count).mem.tile = Vector.replicate 48 [] ∧
    (d.restart warm links count).mem.stat = Vector.replicate 48 [] ∧
    (d.restart warm links count).mem.die = Vector.replicate 12 [] ∧ (d.restart warm links count).mem.hbm = d.mem.hbm :=
  ⟨rfl, rfl, rfl, rfl, rfl, rfl, rfl, rfl, rfl, rfl, rfl⟩

theorem exec_resetRelease (held : BitVec 48) (h : s.dev.start.resetHeld = true) (hr : s.dev.start.refclk = true)
    (hk : s.dev.clockAfter held.toNat s.clk = k) : exec (.resetRelease held) s = .next { s with
      clk := k, dev := (s.dev.released k.count).sendRaised s.dev.sec.reports k } := by
  have hon : (s.dev.start.resetHeld && s.dev.start.refclk) = true := Bool.and_eq_true_iff.mpr ⟨h, hr⟩
  subst hk
  change execResetRelease held s = _
  unfold execResetRelease
  rw [hon]
  exact State.board_some rfl

theorem exec_resetRelease_none (held : BitVec 48) (h : s.dev.start.resetHeld = false ∨ s.dev.start.refclk = false) :
    exec (.resetRelease held) s = .next s := by
  have hon : (s.dev.start.resetHeld && s.dev.start.refclk) = false := Bool.and_eq_false_iff.mpr h
  change execResetRelease held s = _
  unfold execResetRelease
  rw [hon]
  exact State.board_none rfl

theorem Dev.clockAfter_fields (d : Dev) (held : Nat) (k : Clock) : (d.clockAfter held k).units = 0 ∧
    (d.clockAfter held k).phase = 0 ∧ (d.clockAfter held k).count = d.countAfter held k.count := by
  unfold Dev.clockAfter
  by_cases h : (d.mayWarm && d.asksWarm && d.wordBit 3) = true
  · rw [if_pos h]
    exact ⟨rfl, rfl, rfl⟩
  · rw [if_neg h]
    refine ⟨rfl, rfl, ?_⟩
    unfold Dev.countAfter
    rw [if_neg h]

/-! ### The steps of a start -/

/-- From `d` to `e` a start has passed into a state, with a step done. -/
def Dev.Entered (d e : Dev) (st : StartState) (n : Nat) : Prop :=
  e.start.state = st ∧ e.start.done = d.start.done ++ [n] ∧ e.mem = d.mem

/-- From `d` to `e` a start has failed. -/
def Dev.StartFailed (d e : Dev) (cause : Nat) : Prop :=
  e.start.state = .failed ∧ e.start.failCause = cause ∧ e.mem.hbm = d.mem.hbm

theorem exec_startStepEnd {step : Fin 10} {ms : Nat} (hc : s.dev.clocked = true) (hx : s.dev.start.expects step = true)
    (hk : s.clk.toUnit (ms * 7000000) = k) (he : s.dev.endStep k step ok = some e) :
    exec (.startStepEnd step ok ms) s = .next { s with clk := k, dev := e.sendRaised s.dev.sec.reports k } := by
  change execStartStepEnd step ok ms s = _
  unfold execStartStepEnd
  rw [hx]
  exact State.act_next k hc hk he

theorem exec_startStepEnd_none {step : Fin 10} {ms : Nat} (h : s.dev.start.expects step = false ∨
    ∀ k, s.dev.endStep k step ok = none) : exec (.startStepEnd step ok ms) s = .next s := by
  change execStartStepEnd step ok ms s = _
  unfold execStartStepEnd
  cases hx : s.dev.start.expects step with
  | false => exact State.act_none rfl
  | true =>
    rcases h with h | h
    · rw [hx] at h
      cases h
    · exact State.act_none ((if_pos rfl).trans (h _))

theorem Dev.failStart_effect (d : Dev) (cause : Nat) : (d.failStart cause).start.state = .failed ∧
    (d.failStart cause).start.failCause = cause ∧ (d.failStart cause).mem = d.mem ∧ (d.failStart cause).sec = d.sec := by
  obtain ⟨hs, hm, hsec, -⟩ := (d.modStart fun s => { s with failCause := cause }).setStart_effect .failed
  exact ⟨congrArg Start.state hs, congrArg Start.failCause hs, hm, hsec⟩

theorem Dev.startFailed_failStart (h : e.mem.hbm = d.mem.hbm) (cause : Nat) : d.StartFailed (e.failStart cause) cause := by
  obtain ⟨hs, hf, hm, -⟩ := e.failStart_effect cause
  exact ⟨hs, hf, (congrArg Mem.hbm hm).trans h⟩

theorem Dev.entered_setStart {n : Nat} (hd : e.start.done = d.start.done ++ [n]) (hm : e.mem = d.mem) (st : StartState) :
    d.Entered (e.setStart st) st n := by
  obtain ⟨hs, hmem, -⟩ := e.setStart_effect st
  exact ⟨congrArg Start.state hs, (congrArg Start.done hs).trans hd, hmem.trans hm⟩

/-- The steps of a list have ended, with the one that ends. -/
theorem all_contains_append (l done : List Nat) (n : Nat) :
    l.all (done ++ [n]).contains = l.all fun m => m = n || done.contains m := by
  refine congrArg l.all (funext fun m => ?_)
  rw [List.contains_eq_mem, List.contains_eq_mem, Bool.eq_iff_iff]
  simp [or_comm]

/-- Where a device in BRINGUP or UNOWNED stands after a step, by whether all three steps have ended. -/
def Dev.risen (d : Dev) (n : Nat) : StartState :=
  if d.start.state = .bringup ∧ ([5, 6, 7].all fun m => m = n || d.start.done.contains m) = true then .joining else d.start.state

theorem Dev.broughtUp_effect {n : Nat} (hs : e.start.state = d.start.state) (hd : e.start.done = d.start.done ++ [n]) :
    e.broughtUp.start.state = d.risen n ∧ e.broughtUp.start.done = d.start.done ++ [n] ∧ e.broughtUp.mem = e.mem ∧
      e.broughtUp.sec = e.sec := by
  have hiff : (decide (e.start.state = .bringup) && [5, 6, 7].all e.start.done.contains) = true ↔
      d.start.state = .bringup ∧ ([5, 6, 7].all fun m => m = n || d.start.done.contains m) = true := by
    rw [Bool.and_eq_true, decide_eq_true_eq, hs, hd, all_contains_append]
  unfold Dev.broughtUp Dev.risen
  by_cases h : d.start.state = .bringup ∧ ([5, 6, 7].all fun m => m = n || d.start.done.contains m) = true
  · rw [if_pos (hiff.mpr h), if_pos h]
    obtain ⟨hst, hm, hsec, -⟩ := e.setStart_effect .joining
    exact ⟨congrArg Start.state hst, (congrArg Start.done hst).trans hd, hm, hsec⟩
  · rw [if_neg fun hh => h (hiff.mp hh), if_neg h]
    exact ⟨hs, hd, rfl, rfl⟩

theorem Dev.endStep_supply (d : Dev) (k : Clock) (ok : Bool) : ∃ e, d.endStep k 1 ok = some e ∧
    if ok = true ∧ d.start.powerGood = true ∧ d.start.rails = BitVec.allOnes 5 then d.Entered e .identity 1
    else d.StartFailed e 1 := by
  refine ⟨_, rfl, ?_⟩
  by_cases h : ok = true ∧ d.start.powerGood = true ∧ d.start.rails = BitVec.allOnes 5
  · rw [if_pos h, if_pos (by simpa [and_assoc] using h)]
    have hw := Dev.touches_endpointWaits ((d.stepDone 1).setStart .identity) k
    obtain ⟨h1, h2, h3⟩ := Dev.entered_setStart (d := d) (e := d.stepDone 1) (n := 1) rfl rfl .identity
    exact ⟨(congrArg Start.state hw.start).trans h1, (congrArg Start.done hw.start).trans h2, hw.mem.trans h3⟩
  · rw [if_neg h, if_neg fun hh => h (by simpa [and_assoc] using hh)]
    exact Dev.startFailed_failStart rfl 1

theorem Dev.measureIdentity_done (d : Dev) : d.measureIdentity.start.done = d.start.done := by
  unfold Dev.measureIdentity
  dsimp only [Dev.modStart, Dev.extend, Dev.modSec]

theorem Dev.takeFirmware_start (d : Dev) (n : Nat) : (d.takeFirmware n).start = { d.start with fwSlot := n } := by
  unfold Dev.takeFirmware
  dsimp only [Dev.modStart, Dev.extend, Dev.modSec]

theorem Dev.endStep_identity (d : Dev) (k : Clock) (ok : Bool) : ∃ e, d.endStep k 2 ok = some e ∧
    if ok = true ∧ d.deriveKeys.identityOk = true then d.Entered e .baseAuth 2
    else d.StartFailed e (if ok = false ∧ d.start.kind = 2 then 8 else 2) := by
  have hkeys : d.deriveKeys.mem = d.mem ∧ d.deriveKeys.start = d.start :=
    ⟨d.touches_deriveKeys.mem, d.touches_deriveKeys.start⟩
  refine ⟨_, rfl, ?_⟩
  generalize d.deriveKeys = x at *
  obtain ⟨hmem, hstart⟩ := hkeys
  by_cases hok : ok = true
  · subst hok
    by_cases hi : x.identityOk = true
    · have hm := x.touches_measureIdentity
      have hdone : (x.measureIdentity.stepDone 2).start.done = d.start.done ++ [2] :=
        congrArg (· ++ [2]) (x.measureIdentity_done.trans (congrArg Start.done hstart))
      have hlast : (x.measureIdentity.stepDone 2).mem = d.mem := hm.mem.trans hmem
      generalize x.measureIdentity.stepDone 2 = y at *
      rw [if_neg (c := (!true) = true) (by decide), if_neg (c := (!x.identityOk) = true) (by rw [hi]; decide),
        if_pos ⟨rfl, hi⟩]
      exact Dev.entered_setStart hdone hlast .baseAuth
    · generalize x.measureIdentity.stepDone 2 = y at *
      rw [if_neg (c := (!true) = true) (by decide),
        if_pos (c := (!x.identityOk) = true) (by rw [Bool.eq_false_iff.mpr hi]; rfl), if_neg fun h => hi h.2,
        if_neg (c := true = false ∧ d.start.kind = 2) fun h => nomatch h.1]
      exact Dev.startFailed_failStart (congrArg Mem.hbm hmem) 2
  · have hf : ok = false := Bool.eq_false_iff.mpr hok
    generalize x.measureIdentity.stepDone 2 = y at *
    rw [if_neg (c := ok = true ∧ x.identityOk = true) fun h => hok h.1, if_pos (c := (!ok) = true) (by rw [hf]; rfl)]
    by_cases hk : d.start.kind = 2
    · rw [if_pos hk, if_pos ⟨hf, hk⟩]
      exact Dev.startFailed_failStart (e := d.modStart fun s => { s with retained := false }) rfl 8
    · rw [if_neg hk, if_neg fun h => hk h.2]
      exact Dev.startFailed_failStart rfl 2

theorem Dev.takeFirmware_entered (d : Dev) (n : Nat) :
    d.Entered (((d.takeFirmware n).stepDone 3).setStart .policy) .policy 3 ∧
      (((d.takeFirmware n).stepDone 3).setStart .policy).start.fwSlot = n := by
  have hs := d.takeFirmware_start n
  have hm := d.touches_takeFirmware n
  generalize d.takeFirmware n = x at *
  refine ⟨Dev.entered_setStart (e := x.stepDone 3) ?_ hm.mem .policy, ?_⟩
  · change x.start.done ++ [3] = _
    rw [hs]
  · refine (congrArg Start.fwSlot (Dev.setStart_effect (x.stepDone 3) .policy).1).trans ?_
    change x.start.fwSlot = _
    rw [hs]

/-- The device after step 3. -/
def Dev.firmwareTaken (d : Dev) : Dev :=
  if d.fwSlotOk 0 then ((d.takeFirmware 0).stepDone 3).setStart .policy
  else if d.fwSlotOk 1 then ((d.takeFirmware 1).stepDone 3).setStart .policy
  else d.failStart 3

theorem Dev.endStep_baseAuth (d : Dev) (k : Clock) (ok : Bool) : d.endStep k 3 ok = some d.firmwareTaken := by
  delta Dev.endStep Dev.firmwareTaken
  exact rfl

/-- From `d` to `e` step 3 has taken the first of two slots that meets its conditions. -/
@[irreducible] def Dev.SlotTaken (d e : Dev) (x y : Bool) : Prop :=
  if x = true ∨ y = true then d.Entered e .policy 3 ∧ e.start.fwSlot = (if x then 0 else 1) else d.StartFailed e 3

theorem Dev.firmwareTaken_effect (d : Dev) : d.SlotTaken d.firmwareTaken (d.fwSlotOk 0) (d.fwSlotOk 1) := by
  unfold Dev.firmwareTaken Dev.SlotTaken
  have h0 := d.takeFirmware_entered 0
  have h1 := d.takeFirmware_entered 1
  generalize d.fwSlotOk 0 = a
  generalize d.fwSlotOk 1 = b
  cases a with
  | true =>
    rw [if_pos rfl, if_pos (.inl rfl), if_pos rfl]
    exact h0
  | false =>
    rw [if_neg Bool.false_ne_true, if_neg Bool.false_ne_true]
    cases b with
    | true =>
      rw [if_pos rfl, if_pos (.inr rfl)]
      exact h1
    | false =>
      rw [if_neg Bool.false_ne_true, if_neg fun h => h.elim Bool.false_ne_true Bool.false_ne_true]
      exact Dev.startFailed_failStart rfl 3

theorem Dev.entered_sendRaised {st : StartState} {n : Nat} (h : d.Entered e st n) (r : List Report) (k : Clock) :
    d.Entered (e.sendRaised r k) st n := by
  obtain ⟨hs, hm, -⟩ := e.sendRaised_keeps r k
  obtain ⟨h1, h2, h3⟩ := h
  exact ⟨hs ▸ h1, hs ▸ h2, hm ▸ h3⟩

theorem Dev.startFailed_sendRaised {c : Nat} (h : d.StartFailed e c) (r : List Report) (k : Clock) :
    d.StartFailed (e.sendRaised r k) c := by
  obtain ⟨hs, hm, -⟩ := e.sendRaised_keeps r k
  obtain ⟨h1, h2, h3⟩ := h
  exact ⟨hs ▸ h1, hs ▸ h2, hm ▸ h3⟩

/-! ### Step 4: the owner policy -/

theorem Dev.hbm_flashErase (d : Dev) (a : Nat) : (d.flashErase a).mem.hbm = d.mem.hbm := Dev.hbm_flashWrite ..

theorem Dev.policyStep_keeps (d : Dev) : d.policyStep.1.mem.hbm = d.mem.hbm ∧ d.policyStep.1.sec = d.sec := by
  refine ⟨?_, d.touches_policyStep.sec⟩
  unfold Dev.policyStep
  extract_lets -merge +onlyGivenNames region erased
  clear_value erased region
  generalize readPolicy _ = r
  cases r with
  | none => rfl
  | some p =>
    dsimp only
    split
    · rfl
    · split
      · exact Dev.hbm_flashErase ..
      · cases erased with
        | true => exact Dev.hbm_flashWrite ..
        | false => rfl

/-- The device with its binding looked at. -/
def Dev.boundNoted (d : Dev) : Dev := d.modSec fun s => { s with bound := d.bindingValid }

theorem Dev.boundNoted_reports (h : e.sec = d.sec) : e.boundNoted.sec.reports = d.sec.reports :=
  (show e.boundNoted.sec.reports = e.sec.reports from rfl).trans (congrArg Sec.reports h)

theorem Dev.boundNoted_policy (h : e.sec = d.sec) : e.boundNoted.sec.policy = d.sec.policy :=
  (show e.boundNoted.sec.policy = e.sec.policy from rfl).trans (congrArg Sec.policy h)

theorem Dev.boundNoted_hbm (h : e.mem.hbm = d.mem.hbm) : e.boundNoted.mem.hbm = d.mem.hbm := h

/-- The device that has no owner. -/
def Dev.unowned (d : Dev) (k : Clock) : Dev :=
  ((((d.extend 2 (List.replicate 64 0)).decideKeep false).stepDone 4).stampStart k).setStart .unowned

/-- The device under an owner's policy. -/
def Dev.owned (d : Dev) (p : Policy) : Dev :=
  ((((d.modSec fun s => { s with policy := some p }).extend 2 p.digest).decideKeep (bitAt p.flags 2)).stepDone 4).setStart .bringup

/-- The device after step 4. -/
def Dev.policyTaken (d : Dev) (k : Clock) : PolicyEnd → Dev
  | .failed c => d.failStart c
  | .unowned => d.unowned k
  | .owned p => d.owned p

theorem Dev.endStep_policy (d : Dev) (k : Clock) (ok : Bool) :
    d.endStep k 4 ok = some (d.policyStep.1.boundNoted.policyTaken k d.policyStep.2) := by
  delta Dev.endStep
  dsimp only
  generalize d.policyStep = p
  obtain ⟨x, e⟩ := p
  cases e <;> rfl

theorem Dev.unowned_effect (d : Dev) (k : Clock) : (d.unowned k).start.state = .unowned ∧
    (d.unowned k).sec.policy = d.sec.policy ∧ (d.unowned k).sec.reports = d.sec.reports ∧ (d.unowned k).mem = d.mem := by
  obtain ⟨hs, hm, hsec, -⟩ :=
    ((((d.extend 2 (List.replicate 64 0)).decideKeep false).stepDone 4).stampStart k).setStart_effect .unowned
  exact ⟨congrArg Start.state hs, (congrArg Sec.policy hsec).trans rfl, (congrArg Sec.reports hsec).trans rfl, hm.trans rfl⟩

theorem Dev.owned_effect (d : Dev) (p : Policy) : (d.owned p).start.state = .bringup ∧
    (d.owned p).sec.policy = some p ∧ (d.owned p).sec.reports = d.sec.reports ∧ (d.owned p).mem = d.mem := by
  obtain ⟨hs, hm, hsec, -⟩ := ((((d.modSec fun s => { s with policy := some p }).extend 2 p.digest).decideKeep
    (bitAt p.flags 2)).stepDone 4).setStart_effect .bringup
  exact ⟨congrArg Start.state hs, (congrArg Sec.policy hsec).trans rfl, (congrArg Sec.reports hsec).trans rfl, hm.trans rfl⟩

/-- From `d` to `e` step 4 has taken a policy's decision. -/
@[irreducible] def Dev.Decided (d e : Dev) : PolicyEnd → Prop
  | .failed c => d.StartFailed e c
  | .unowned => e.start.state = .unowned ∧ e.sec.policy = d.sec.policy ∧ e.mem.hbm = d.mem.hbm
  | .owned p => e.start.state = .bringup ∧ e.sec.policy = some p ∧ e.mem.hbm = d.mem.hbm

theorem Dev.policyTaken_effect (d : Dev) (k : Clock) (e : PolicyEnd) : (d.policyTaken k e).sec.reports = d.sec.reports ∧
    d.Decided (d.policyTaken k e) e := by
  unfold Dev.Decided
  cases e with
  | failed c => exact ⟨congrArg Sec.reports (d.failStart_effect c).2.2.2, Dev.startFailed_failStart rfl c⟩
  | unowned =>
    obtain ⟨hs, hp, hr, hm⟩ := d.unowned_effect k
    exact ⟨hr, hs, hp, congrArg Mem.hbm hm⟩
  | owned p =>
    obtain ⟨hs, hp, hr, hm⟩ := d.owned_effect p
    exact ⟨hr, hs, hp, congrArg Mem.hbm hm⟩

/-! ### Steps 5 to 9 -/

theorem Dev.endStep_bringup (d : Dev) (k : Clock) (n : Nat) (hn : n = 5 ∨ n = 7) :
    d.endStep k n true = some (d.stepDone n).broughtUp := by
  rcases hn with rfl | rfl <;> (delta Dev.endStep; exact rfl)

theorem Dev.entered_broughtUp (d : Dev) (n : Nat) : d.Entered (d.stepDone n).broughtUp (d.risen n) n := by
  obtain ⟨hs, hd, hm, -⟩ := Dev.broughtUp_effect (d := d) (e := d.stepDone n) (n := n) rfl rfl
  exact ⟨hs, hd, hm⟩

/-- The device with its stacks zeroed, unless they are kept. -/
def Dev.stacksReady (d : Dev) : Dev :=
  if d.start.keptMem then d else { d with mem := { d.mem with hbm := [], poisonHbm := [] } }

theorem Dev.endStep_stacks (d : Dev) (k : Clock) (ok : Bool) :
    d.endStep k 6 ok = some (d.stacksReady.stepDone 6).broughtUp := by
  delta Dev.endStep
  exact rfl

theorem Dev.stacksReady_effect (d : Dev) : d.stacksReady.start = d.start ∧
    ∀ a, d.stacksReady.mem.hbm.read a = if d.start.keptMem then d.mem.hbm.read a else 0 := by
  unfold Dev.stacksReady
  cases d.start.keptMem with
  | true => exact ⟨rfl, fun a => rfl⟩
  | false => exact ⟨rfl, fun a => rfl⟩

/-- Where a device in JOINING stands after a step with its counter LOCKED. -/
def Dev.joined (d : Dev) (n : Nat) : StartState :=
  if ([8, 9].all fun m => m = n || d.start.done.contains m) = true then .ready else d.start.state

theorem Dev.joinedUp_effect {n : Nat} (k : Clock) (hs : e.start.state = d.start.state) (hd : e.start.done = d.start.done ++ [n])
    (hl : e.syncState = .locked) : (e.joinedUp k).start.state = d.joined n ∧ (e.joinedUp k).start.done = d.start.done ++ [n] ∧
      (e.joinedUp k).mem = e.mem := by
  have hiff : ([8, 9].all e.start.done.contains && decide (e.syncState = .locked)) = true ↔
      ([8, 9].all fun m => m = n || d.start.done.contains m) = true := by
    rw [Bool.and_eq_true, decide_eq_true_eq, hd, all_contains_append]
    exact and_iff_left hl
  unfold Dev.joinedUp Dev.joined
  by_cases h : ([8, 9].all fun m => m = n || d.start.done.contains m) = true
  · rw [if_pos (hiff.mpr h), if_pos h]
    obtain ⟨hst, hm, -⟩ := (e.stampStart k).setStart_effect .ready
    dsimp only
    have hrep : ∀ (x : Dev) a b, (x.report a b).start = x.start ∧ (x.report a b).mem = x.mem := fun x a b => by
      unfold Dev.report
      split <;> exact ⟨rfl, rfl⟩
    obtain ⟨h1, h2⟩ := hrep ((e.stampStart k).setStart .ready) 3 (leBytes 4 ((e.stampStart k).setStart .ready).startWord)
    rw [h1, h2, hst]
    exact ⟨rfl, hd, hm⟩
  · rw [if_neg fun hh => h (hiff.mp hh), if_neg h]
    exact ⟨hs, hd, rfl⟩

theorem Dev.joinedUp_unlocked (k : Clock) (hl : d.syncState ≠ .locked) : d.joinedUp k = d := by
  unfold Dev.joinedUp
  exact if_neg fun h => hl (of_decide_eq_true (Bool.and_eq_true_iff.mp h).2)

theorem Dev.endStep_sync (d : Dev) (k : Clock) (ok : Bool) :
    d.endStep k 8 ok = if d.syncState = .locked then some ((d.stepDone 8).joinedUp k) else none := by
  delta Dev.endStep
  exact rfl

theorem Dev.endStep_session (d : Dev) (k : Clock) (ok : Bool) :
    d.endStep k 9 ok = if d.sec.fixed then some (((d.stepDone 9).loseSync).joinedUp k) else none := by
  delta Dev.endStep
  exact rfl

theorem Dev.loseSync_locked (h : d.syncState = .locked) : d.loseSync = d := if_pos h

theorem Dev.loseSync_unlocked (h : d.syncState ≠ .locked) : d.loseSync.syncState ≠ .locked ∧
    d.loseSync.start.state = d.start.state ∧ d.loseSync.start.done = d.start.done.filter (· ≠ 8) ∧
    d.loseSync.mem = d.mem := by
  have hl : d.loseSync = d.modStart fun s => { s with done := s.done.filter (· ≠ 8) } := if_neg h
  rw [hl]
  exact ⟨h, rfl, rfl, rfl⟩

/-! ### What a step's end answers -/

/-- The end of a step answers a device that meets a condition. -/
def State.StepEnds (s : State) (step : Fin 10) (ok : Bool) (ms : Nat) (f : Dev → Prop) : Prop :=
  ∃ t, exec (.startStepEnd step ok ms) s = .next { s with clk := s.clk.toUnit (ms * 7000000), dev := t } ∧ f t

section
variable {step : Fin 10} {ms c : Nat} {st : StartState} (hc : s.dev.clocked = true) (hx : s.dev.start.expects step = true)
include hc hx

theorem State.stepEnds_entered (he : s.dev.endStep (s.clk.toUnit (ms * 7000000)) step ok = some e)
    (h : s.dev.Entered e st step) : s.StepEnds step ok ms fun t => s.dev.Entered t st step :=
  ⟨_, exec_startStepEnd hc hx rfl he, Dev.entered_sendRaised h _ _⟩

theorem State.stepEnds_failed (he : s.dev.endStep (s.clk.toUnit (ms * 7000000)) step ok = some e)
    (h : s.dev.StartFailed e c) : s.StepEnds step ok ms fun t => s.dev.StartFailed t c :=
  ⟨_, exec_startStepEnd hc hx rfl he, Dev.startFailed_sendRaised h _ _⟩

end

/-- What step 3 answers, by whether its two slots meet their conditions. -/
@[irreducible] def State.SlotsEnd (s : State) (ok : Bool) (ms : Nat) (x y : Bool) : Prop :=
  if x = true ∨ y = true
  then s.StepEnds 3 ok ms fun t => t.start.state = .policy ∧ t.start.fwSlot = (if x then 0 else 1) ∧
    t.start.done = s.dev.start.done ++ [3] ∧ t.mem = s.dev.mem
  else s.StepEnds 3 ok ms fun t => s.dev.StartFailed t 3

/-- What step 4 answers, by the policy's decision. -/
@[irreducible] def State.PolicyEnds (s : State) (ok : Bool) (ms : Nat) (p : PolicyEnd) : Prop :=
  match p with
  | .failed c => s.StepEnds 4 ok ms fun t => s.dev.StartFailed t c
  | .unowned => s.StepEnds 4 ok ms fun t => t.start.state = .unowned ∧ t.sec.policy = s.dev.sec.policy ∧
      t.mem.hbm = s.dev.mem.hbm
  | .owned o => s.StepEnds 4 ok ms fun t => t.start.state = .bringup ∧ t.sec.policy = some o ∧ t.mem.hbm = s.dev.mem.hbm

section
variable {ms : Nat} (hc : s.dev.clocked = true)
include hc

theorem State.stepEnds_supply (hx : s.dev.start.expects 1 = true) :
    if ok = true ∧ s.dev.start.powerGood = true ∧ s.dev.start.rails = BitVec.allOnes 5
    then s.StepEnds 1 ok ms fun t => s.dev.Entered t .identity 1
    else s.StepEnds 1 ok ms fun t => s.dev.StartFailed t 1 := by
  obtain ⟨e, he, heff⟩ := s.dev.endStep_supply (s.clk.toUnit (ms * 7000000)) ok
  split
  · next h =>
    rw [if_pos h] at heff
    exact State.stepEnds_entered hc hx he heff
  · next h =>
    rw [if_neg h] at heff
    exact State.stepEnds_failed hc hx he heff

theorem State.stepEnds_identity (hx : s.dev.start.expects 2 = true) :
    if ok = true ∧ s.dev.deriveKeys.identityOk = true then s.StepEnds 2 ok ms fun t => s.dev.Entered t .baseAuth 2
    else s.StepEnds 2 ok ms fun t => s.dev.StartFailed t (if ok = false ∧ s.dev.start.kind = 2 then 8 else 2) := by
  obtain ⟨e, he, heff⟩ := s.dev.endStep_identity (s.clk.toUnit (ms * 7000000)) ok
  split
  · next h =>
    rw [if_pos h] at heff
    exact State.stepEnds_entered hc hx he heff
  · next h =>
    rw [if_neg h] at heff
    exact State.stepEnds_failed hc hx he heff

/-- Step 3 by whether its two slots meet their conditions. -/
theorem State.stepEnds_slots {x y : Bool} (hx : s.dev.start.expects 3 = true)
    (he : s.dev.endStep (s.clk.toUnit (ms * 7000000)) 3 ok = some e)
    (heff : s.dev.SlotTaken e x y) :
    s.SlotsEnd ok ms x y := by
  unfold State.SlotsEnd
  unfold Dev.SlotTaken at heff
  by_cases h : x = true ∨ y = true
  · rw [if_pos h] at heff ⊢
    obtain ⟨hent, hslot⟩ := heff
    obtain ⟨h1, h2, h3⟩ := Dev.entered_sendRaised hent s.dev.sec.reports (s.clk.toUnit (ms * 7000000))
    exact ⟨_, exec_startStepEnd hc hx rfl he, h1,
      (congrArg Start.fwSlot (e.sendRaised_keeps _ _).1).trans hslot, h2, h3⟩
  · rw [if_neg h] at heff ⊢
    exact State.stepEnds_failed hc hx he heff

omit hc in
/-- Step 4 by the policy's decision. -/
theorem State.stepEnds_decided {x t : Dev} {p : PolicyEnd} (hgo : exec (.startStepEnd 4 ok ms) s =
      .next { s with clk := s.clk.toUnit (ms * 7000000), dev := t })
    (hm : x.mem.hbm = s.dev.mem.hbm) (hp : x.sec.policy = s.dev.sec.policy)
    (heff : x.Decided t p) :
    s.PolicyEnds ok ms p := by
  unfold State.PolicyEnds
  unfold Dev.Decided at heff
  cases p with
  | failed c =>
    obtain ⟨h1, h2, h3⟩ := heff
    exact ⟨t, hgo, h1, h2, h3.trans hm⟩
  | unowned =>
    obtain ⟨h1, h2, h3⟩ := heff
    exact ⟨t, hgo, h1, h2.trans hp, h3.trans hm⟩
  | owned o =>
    obtain ⟨h1, h2, h3⟩ := heff
    exact ⟨t, hgo, h1, h2, h3.trans hm⟩

theorem State.stepEnds_policy (hx : s.dev.start.expects 4 = true) :
    s.PolicyEnds ok ms s.dev.policyStep.2 := by
  have he := s.dev.endStep_policy (s.clk.toUnit (ms * 7000000)) ok
  have hkeep := s.dev.policyStep_keeps
  have heff := s.dev.policyStep.1.boundNoted.policyTaken_effect (s.clk.toUnit (ms * 7000000)) s.dev.policyStep.2
  have hgo := exec_startStepEnd (step := 4) hc hx rfl he
  have hrep := heff.1.trans (Dev.boundNoted_reports hkeep.2)
  rw [Dev.sendRaised_of_eq _ hrep] at hgo
  exact State.stepEnds_decided hgo (Dev.boundNoted_hbm hkeep.1) (Dev.boundNoted_policy hkeep.2) heff.2

theorem State.stepEnds_links (hx : s.dev.start.expects 5 = true) :
    if ok = true then s.StepEnds 5 ok ms fun t => s.dev.Entered t (s.dev.risen 5) 5
    else s.StepEnds 5 ok ms fun t => s.dev.StartFailed t 7 := by
  cases ok with
  | true => exact State.stepEnds_entered hc hx (s.dev.endStep_bringup _ 5 (.inl rfl)) (s.dev.entered_broughtUp 5)
  | false =>
    refine State.stepEnds_failed hc hx (e := s.dev.failStart 7) ?_ (Dev.startFailed_failStart rfl 7)
    delta Dev.endStep
    exact rfl

theorem State.stepEnds_stacks (hx : s.dev.start.expects 6 = true) :
    s.StepEnds 6 ok ms fun t => t.start.state = s.dev.risen 6 ∧ t.start.done = s.dev.start.done ++ [6] ∧
      ∀ a, t.mem.hbm.read a = if s.dev.start.keptMem then s.dev.mem.hbm.read a else 0 := by
  obtain ⟨hst, hread⟩ := s.dev.stacksReady_effect
  obtain ⟨hs, hd, hm, -⟩ := Dev.broughtUp_effect (d := s.dev) (e := s.dev.stacksReady.stepDone 6) (n := 6)
    (congrArg Start.state hst :) (congrArg (fun x : Start => x.done ++ [6]) hst :)
  refine ⟨_, exec_startStepEnd hc hx rfl (s.dev.endStep_stacks _ ok), ?_⟩
  obtain ⟨h1, h2, -⟩ := (s.dev.stacksReady.stepDone 6).broughtUp.sendRaised_keeps s.dev.sec.reports
    (s.clk.toUnit (ms * 7000000))
  rw [h1, h2, hm]
  exact ⟨hs, hd, hread⟩

theorem State.stepEnds_port (hx : s.dev.start.expects 7 = true) :
    if ok = true then s.StepEnds 7 ok ms fun t => s.dev.Entered t (s.dev.risen 7) 7
    else exec (.startStepEnd 7 ok ms) s = .next s := by
  cases ok with
  | true => exact State.stepEnds_entered hc hx (s.dev.endStep_bringup _ 7 (.inr rfl)) (s.dev.entered_broughtUp 7)
  | false =>
    refine exec_startStepEnd_none (.inr fun k => ?_)
    delta Dev.endStep
    exact rfl

theorem State.stepEnds_sync (hx : s.dev.start.expects 8 = true) :
    if s.dev.syncState = .locked then s.StepEnds 8 ok ms fun t => s.dev.Entered t (s.dev.joined 8) 8
    else exec (.startStepEnd 8 ok ms) s = .next s := by
  have he := fun k => s.dev.endStep_sync k ok
  by_cases h : s.dev.syncState = .locked
  · rw [if_pos h]
    exact State.stepEnds_entered hc hx ((he _).trans (if_pos h))
      (Dev.joinedUp_effect (e := s.dev.stepDone 8) _ rfl rfl h)
  · rw [if_neg h]
    exact exec_startStepEnd_none (.inr fun k => (he k).trans (if_neg h))

theorem State.stepEnds_session (hx : s.dev.start.expects 9 = true) :
    if s.dev.sec.fixed = true then
      (if s.dev.syncState = .locked then s.StepEnds 9 ok ms fun t => s.dev.Entered t (s.dev.joined 9) 9
       else s.StepEnds 9 ok ms fun t => t.start.state = s.dev.start.state ∧ t.mem = s.dev.mem ∧
        t.start.done = (s.dev.start.done ++ [9]).filter fun n => n ≠ 8)
    else exec (.startStepEnd 9 ok ms) s = .next s := by
  have he := fun k => s.dev.endStep_session k ok
  by_cases hf : s.dev.sec.fixed = true
  · rw [if_pos hf]
    have hgo := exec_startStepEnd (step := 9) hc hx rfl ((he (s.clk.toUnit (ms * 7000000))).trans (if_pos hf))
    by_cases h : s.dev.syncState = .locked
    · rw [if_pos h]
      have hl : (s.dev.stepDone 9).loseSync = s.dev.stepDone 9 := (s.dev.stepDone 9).loseSync_locked h
      rw [hl] at hgo
      exact ⟨_, hgo, Dev.entered_sendRaised
        (Dev.joinedUp_effect (d := s.dev) (e := s.dev.stepDone 9) _ rfl rfl h) _ _⟩
    · rw [if_neg h]
      obtain ⟨hl, hs, hd, hm⟩ := (s.dev.stepDone 9).loseSync_unlocked h
      have hu := Dev.joinedUp_unlocked (d := (s.dev.stepDone 9).loseSync) (s.clk.toUnit (ms * 7000000)) hl
      rw [hu] at hgo
      refine ⟨_, hgo, ?_⟩
      obtain ⟨h1, h2, -⟩ := (s.dev.stepDone 9).loseSync.sendRaised_keeps s.dev.sec.reports (s.clk.toUnit (ms * 7000000))
      rw [h1, h2]
      exact ⟨hs, hm, hd⟩
  · rw [if_neg hf]
    exact exec_startStepEnd_none (.inr fun k => (he k).trans (if_neg hf))

end

end Sys2Proof.Machine

namespace Sys2Proof

open Machine

/-- Settles O49: what reset and its release leave of the device, and where each step of a start ends. -/
theorem resetAndStart : Obligations.ResetAndStart := by
  unfold Obligations.ResetAndStart
  refine ⟨fun s => ?_, fun s => ?_, fun s => exec_refclkStart s, fun s held => ?_, fun s step ok ms hc => ?_⟩
  · obtain ⟨-, -, -, hm, ht⟩ := s.dev.turnOff_effect
    exact ⟨_, exec_resetAssert s, congrArg Start.state ht, rfl, hm⟩
  · obtain ⟨-, -, -, hm, ht⟩ := s.dev.turnOff_effect
    exact ⟨_, exec_pwrgoodFall s, congrArg Start.state ht, rfl, rfl, hm⟩
  · intro d warm inLent
    refine ⟨fun h hr => ?_, fun h => exec_resetRelease_none held h⟩
    intro k
    obtain ⟨hunits, hphase, hcount⟩ := s.dev.clockAfter_fields held.toNat s.clk
    refine ⟨hunits, hphase, hcount, _, exec_resetRelease held h hr rfl, ?_⟩
    obtain ⟨hstart, hmem, horder, hjob, himage, hcores⟩ :=
      (s.dev.released k.count).sendRaised_keeps s.dev.sec.reports k
    obtain ⟨hbh, hbo, hbt, hbr⟩ := s.dev.breakFlash_keeps
    have hz := s.dev.breakFlash.touches_zeroLent
    have hread := fun a => s.dev.breakFlash.zeroLent_read a
    have hlent : ∀ a, s.dev.breakFlash.Lent a ↔ inLent a := fun a => by
      unfold Dev.Lent Dev.rd
      rw [hbt, hbr]
      exact Iff.rfl
    rw [hstart, hmem, horder, hjob, himage, hcores]
    unfold Dev.released
    obtain ⟨hheld, hkind, hdone, hord, hj, hi, hco, htile, hstat, hdie, hhbm⟩ := s.dev.breakFlash.zeroLent.restart_effect
      (s.dev.mayWarm && s.dev.asksWarm) ((s.dev.mayWarm && s.dev.asksWarm) && s.dev.wordBit 3) k.count
    obtain ⟨h1, h2, -, h4, h5, h6, h7⟩ := (s.dev.breakFlash.zeroLent.restart (s.dev.mayWarm && s.dev.asksWarm)
      ((s.dev.mayWarm && s.dev.asksWarm) && s.dev.wordBit 3) k.count).setStart_effect .supply
    rw [h1, h2, h4, h5, h6, h7, hord, hj, hi, hco, htile, hstat, hdie, hhbm]
    refine ⟨rfl, hheld, hkind, hdone, hz.order.trans hbo, rfl, rfl, fun c => ⟨?_, fun a => ⟨?_, ?_⟩⟩, fun x a => ?_,
      fun a => ⟨fun ha => (hread a).1 ((hlent a).mpr ha), fun ha => ?_⟩⟩
    · simp
    · simp
      rfl
    · simp
      rfl
    · simp
      rfl
    · rw [(hread a).2 fun hh => ha ((hlent a).mp hh), hbh]
  · intro d ends enters fails others risen
    refine ⟨fun hx => exec_startStepEnd_none (.inl hx), fun hx => ⟨?_, ?_, ?_, ?_, ?_, ?_, ?_, ?_, ?_⟩⟩
    · rintro rfl
      exact State.stepEnds_supply hc hx
    · rintro rfl
      exact State.stepEnds_identity hc hx
    · rintro rfl
      have h := State.stepEnds_slots (ms := ms) (x := s.dev.fwSlotOk 0) (y := s.dev.fwSlotOk 1) hc hx
        (s.dev.endStep_baseAuth _ ok) s.dev.firmwareTaken_effect
      generalize h0 : d.fwSlotOk 0 = x
      generalize h1 : d.fwSlotOk 1 = y
      have h0' : s.dev.fwSlotOk 0 = x := h0
      have h1' : s.dev.fwSlotOk 1 = y := h1
      rw [h0', h1'] at h
      unfold State.SlotsEnd at h
      exact h
    · rintro rfl
      have h := State.stepEnds_policy (ok := ok) (ms := ms) hc hx
      generalize hp : d.policyStep.2 = p
      have hp' : s.dev.policyStep.2 = p := hp
      rw [hp'] at h
      unfold State.PolicyEnds at h
      cases p with
      | failed c => exact h
      | unowned => exact h
      | owned o => exact h
    · rintro rfl
      exact State.stepEnds_links hc hx
    · rintro rfl
      exact State.stepEnds_stacks hc hx
    · rintro rfl
      exact State.stepEnds_port hc hx
    · rintro rfl
      exact State.stepEnds_sync hc hx
    · rintro rfl
      exact State.stepEnds_session hc hx

end Sys2Proof
end

section
/-! SUPPORT. The mailboxes and the votes (chapter 19, R422 to R424). -/

-- One proof at a time: each thread that elaborates beside the others reserves its stack.
set_option Elab.async false

namespace Sys2Proof.Machine

open Sys2Proof

variable {s : State} {d e : Dev} {k : Clock} {m : Master}

/-! ### Mailboxes -/

/-- A mailbox that has been stored is the one of its page and master. -/
theorem Dev.mailbox_setMailbox (d : Dev) (b : Mailbox) : (d.setMailbox b).mailbox b.page b.master = some b := by
  unfold Dev.mailbox Dev.setMailbox
  dsimp only
  have hno : ((d.ctl.mailboxes.filter fun x => !(x.page = b.page && x.master = b.master)).find?
      fun x => x.page = b.page && x.master = b.master) = none := by
    refine List.find?_eq_none.mpr fun x hx hb => ?_
    have hn := (List.mem_filter.mp hx).2
    rw [hb] at hn
    exact Bool.false_ne_true hn
  rw [List.find?_append, hno, Option.none_or, List.find?_cons_of_pos (by simp)]

/-- A mailbox that is found is one of its page and master. -/
theorem Dev.mailbox_of {page : Nat} {b : Mailbox} (h : d.mailbox page m = some b) : b.page = page ∧ b.master = m := by
  have hb := List.find?_some h
  rw [Bool.and_eq_true, decide_eq_true_eq, decide_eq_true_eq] at hb
  exact hb

/-- The mailbox before a selector write: the one that is there, or an empty one. -/
def Dev.mailboxOr (d : Dev) (page : Nat) (m : Master) : Mailbox :=
  (d.mailbox page m).getD ⟨page, m, 0, false, false, 0, 0, none, 0⟩

theorem Dev.mailboxOr_of (d : Dev) (page : Nat) (m : Master) : (d.mailboxOr page m).page = page ∧ (d.mailboxOr page m).master = m := by
  unfold Dev.mailboxOr
  cases h : d.mailbox page m with
  | none => exact ⟨rfl, rfl⟩
  | some b => exact Dev.mailbox_of h

/-- What a selector shows does not rest on the writes of the control cycle. -/
theorem Dev.selected_noted (s : State) (same : Bool) (page off : Nat) (p : Page) (sel : Nat) :
    (s.noted m same page off).selected k p sel = s.dev.selected k p sel := by
  unfold Dev.selected
  cases p.blk <;> rfl

theorem Dev.mailbox_noteLast (d : Dev) (p : Page) (w : MasterWrite) (winner : Master) (page : Nat) (m : Master) :
    (d.noteLast p w 0 winner).mailbox page m = d.mailbox page m := rfl

/-- The mailbox after a selector write. -/
def Mailbox.latch (b : Mailbox) (sel : Nat) (v : Option Nat) (cc : Nat) : Mailbox :=
  { b with sel := sel, valid := false, latched := some (sel, v), cc := cc }

theorem exec_mbxSelWrite {same : Bool} {page : BitVec 12} {sel : BitVec 8} {p : Page}
    (h : s.WriteReaches m same page.toNat 0x1F20 p) (hg : s.dev.openGuard page.toNat = none) :
    ∃ t, exec (.mbxSelWrite m same page sel) s = .next { s with clk := s.writeClock m same page.toNat, dev := t } ∧
      t.mem = s.dev.mem ∧ t.cores = s.dev.cores ∧ t.job = s.dev.job ∧
      t.mailbox page.toNat m = some ((s.dev.mailboxOr page.toNat m).latch sel.toNat
        (s.dev.selected (s.writeClock m same page.toNat) p sel.toNat) (s.writeClock m same page.toNat).cc) := by
  have hidx := Dev.openPage_idx h.opened
  obtain ⟨t, ht, -, hquiet⟩ := h.next (v := sel.toNat) (fun g hg' => by rw [hg] at hg'; cases hg')
  have hsel : sel.toNat % 256 = sel.toNat := Nat.mod_eq_of_lt sel.isLt
  have hhandle : (s.noted m same page.toNat 0x1F20).handle (s.writeClock m same page.toNat)
      ⟨m, page.toNat, 0x1F20, sel.toNat, true⟩ p =
        ((s.noted m same page.toNat 0x1F20).setMailbox ((s.dev.mailboxOr page.toNat m).latch sel.toNat
          (s.dev.selected (s.writeClock m same page.toNat) p sel.toNat) (s.writeClock m same page.toNat).cc), 0) := by
    have hraw : (s.noted m same page.toNat 0x1F20).handle (s.writeClock m same page.toNat)
        ⟨m, page.toNat, 0x1F20, sel.toNat, true⟩ p =
          ((s.noted m same page.toNat 0x1F20).setMailbox ((s.dev.mailboxOr page.toNat m).latch (sel.toNat % 256)
            ((s.noted m same page.toNat 0x1F20).selected (s.writeClock m same page.toNat) p (sel.toNat % 256))
            (s.writeClock m same page.toNat).cc), 0) := by
      unfold Dev.handle
      dsimp only
      rw [if_pos (by decide), if_pos (by decide)]
      unfold Dev.writePlain
      rw [if_pos (by decide)]
      unfold Dev.writeCommon
      rw [if_pos rfl]
      rfl
    rw [hsel, Dev.selected_noted] at hraw
    exact hraw
  rw [hhandle] at hquiet
  obtain ⟨hpage, hmaster⟩ := s.dev.mailboxOr_of page.toNat m
  have hlast := Dev.records_noteLast ((s.noted m same page.toNat 0x1F20).setMailbox ((s.dev.mailboxOr page.toNat m).latch
    sel.toNat (s.dev.selected (s.writeClock m same page.toNat) p sel.toNat) (s.writeClock m same page.toNat).cc)) hidx
    ⟨m, page.toNat, 0x1F20, sel.toNat, true⟩ 0 m
  have hbox := (s.noted m same page.toNat 0x1F20).mailbox_setMailbox ((s.dev.mailboxOr page.toNat m).latch sel.toNat
    (s.dev.selected (s.writeClock m same page.toNat) p sel.toNat) (s.writeClock m same page.toNat).cc)
  refine ⟨t, ht, ?_⟩
  rw [hquiet rfl]
  refine ⟨hlast.touches.mem, hlast.touches.cores, hlast.touches.job, ?_⟩
  rw [show (Mailbox.latch (s.dev.mailboxOr page.toNat m) sel.toNat
    (s.dev.selected (s.writeClock m same page.toNat) p sel.toNat) (s.writeClock m same page.toNat).cc).page = page.toNat
      from hpage, show (Mailbox.latch (s.dev.mailboxOr page.toNat m) sel.toNat
    (s.dev.selected (s.writeClock m same page.toNat) p sel.toNat) (s.writeClock m same page.toNat).cc).master = m
      from hmaster] at hbox
  refine Eq.trans ?_ hbox
  exact Dev.mailbox_noteLast ..

theorem exec_mailboxReady {page : BitVec 12} {cc : Nat} {b : Mailbox} {sel : Nat} {v : Option Nat} (hc : s.dev.clocked = true)
    (hb : s.dev.mailbox page.toNat m = some b) (hl : b.latched = some (sel, v)) :
    ∃ t, exec (.mailboxReady page m cc) s = .next { s with
        clk := s.clk.toCc (min 32 (max 1 (cc - b.cc)) + b.cc), dev := t } ∧ t.mem = s.dev.mem ∧ t.cores = s.dev.cores ∧
      t.job = s.dev.job ∧ t.mailbox page.toNat m = some { b with
        valid := true, err := v.isNone, echo := sel, data := v.getD 0 % 2 ^ 256, latched := none } := by
  have hf : (s.dev.mailbox page.toNat m).filter (fun b => b.latched.isSome) = some b := by
    rw [hb, Option.filter_some, hl]
    rfl
  have hans : b.answer = { b with
      valid := true, err := v.isNone, echo := sel, data := v.getD 0 % 2 ^ 256, latched := none } := by
    unfold Mailbox.answer
    rw [hl]
  obtain ⟨hpage, hmaster⟩ := Dev.mailbox_of hb
  refine ⟨s.dev.setMailbox b.answer, ?_, rfl, rfl, rfl, ?_⟩
  · change execMailboxReady page m cc s = _
    unfold execMailboxReady
    rw [hf]
    exact State.act_quiet (w := fun k => k.toCc (min 32 (max 1 (cc - b.cc)) + b.cc)) _ hc rfl rfl rfl
  · have h := s.dev.mailbox_setMailbox b.answer
    rw [hans] at h ⊢
    rw [← hpage, ← hmaster]
    exact h

theorem exec_mailboxReady_none {page : BitVec 12} {cc : Nat}
    (h : ∀ b, s.dev.mailbox page.toNat m = some b → b.latched = none) : exec (.mailboxReady page m cc) s = .next s := by
  have hf : (s.dev.mailbox page.toNat m).filter (fun b => b.latched.isSome) = none := by
    cases hb : s.dev.mailbox page.toNat m with
    | none => rfl
    | some b =>
      rw [Option.filter_some, h b hb]
      rfl
  change execMailboxReady page m cc s = _
  unfold execMailboxReady
  rw [hf]
  exact State.act_none rfl

/-! ### Votes -/

/-- From `d` to `e` a number of voted fields with a majority have been rewritten and counted. -/
structure Dev.Voted (d e : Dev) (n : Nat) : Prop where
  mem : e.mem = d.mem
  cores : e.cores = d.cores
  job : e.job = d.job
  sec : e.sec = d.sec
  out : e.out = d.out
  other : ∀ f, f.num ≠ (Fld.hubVoteScrubbed).num → e.rd f = d.rd f
  scrubbed : e.rd .hubVoteScrubbed = if n = 0 then d.rd .hubVoteScrubbed else min (d.rd .hubVoteScrubbed + n) 65535

theorem Dev.Voted.trans {c : Dev} {i n : Nat} (h : c.Voted d i) (g : d.Voted e n) : c.Voted e (i + n) where
  mem := g.mem.trans h.mem
  cores := g.cores.trans h.cores
  job := g.job.trans h.job
  sec := g.sec.trans h.sec
  out := g.out.trans h.out
  other f hf := (g.other f hf).trans (h.other f hf)
  scrubbed := by
    rw [g.scrubbed, h.scrubbed]
    by_cases hn : n = 0
    · subst hn
      rfl
    · rw [if_neg hn, if_neg (by omega : ¬ i + n = 0)]
      split
      · next hi => rw [hi, Nat.zero_add]
      · omega

/-- The vote of a field that has a majority. -/
theorem Dev.voteField_majority {v : VoteField} {n : Nat} (k : Clock) (hv : v.copies.vote = some n)
    (hs : v.copies = V3.all n → (d.rewriteVote v.fld n).ctl = d.ctl) :
    d.Voted (d.voteField k v) (decide (v.copies ≠ V3.all n)).toNat ∧ (d.voteField k v).ctl = (d.rewriteVote v.fld n).ctl := by
  unfold Dev.voteField
  rw [hv]
  dsimp only
  by_cases h : v.copies = V3.all n
  · rw [if_pos h, decide_eq_false fun hn => hn h]
    exact ⟨⟨rfl, rfl, rfl, rfl, rfl, fun _ _ => rfl, rfl⟩, (hs h).symm⟩
  · rw [if_neg h, decide_eq_true h]
    refine ⟨⟨rfl, rfl, rfl, rfl, rfl, fun f hf => ?_, ?_⟩, rfl⟩
    · exact Dev.rd_wr_field (d.rewriteVote v.fld n) _ hf
    · refine (Dev.rd_wr_fits (d.rewriteVote v.fld n) .hubVoteScrubbed ?_).trans ?_
      · change min _ 65535 < 65536
        omega
      · rfl

section Fields
variable {a : Nat}

theorem Dev.voteAgain_period (k : Clock) (h : d.ctl.period.vote = some a) :
    d.Voted (d.voteAgain k .tickPeriodCounts) (decide (d.ctl.period ≠ V3.all a)).toNat ∧
      (d.voteAgain k .tickPeriodCounts).ctl = { d.ctl with period := V3.all a } :=
  Dev.voteField_majority (v := ⟨.tickPeriodCounts, d.ctl.period, _⟩) k h fun hs => by
    change { d.ctl with period := V3.all a } = _
    rw [← hs]

theorem Dev.voteAgain_guardBand (k : Clock) (h : d.ctl.guardBand.vote = some a) :
    d.Voted (d.voteAgain k .tickGuardCounts) (decide (d.ctl.guardBand ≠ V3.all a)).toNat ∧
      (d.voteAgain k .tickGuardCounts).ctl = { d.ctl with guardBand := V3.all a } :=
  Dev.voteField_majority (v := ⟨.tickGuardCounts, d.ctl.guardBand, _⟩) k h fun hs => by
    change { d.ctl with guardBand := V3.all a } = _
    rw [← hs]

theorem Dev.voteAgain_jobState (k : Clock) (h : d.ctl.jobState.vote = some a) :
    d.Voted (d.voteAgain k .jobStateCode) (decide (d.ctl.jobState ≠ V3.all a)).toNat ∧
      (d.voteAgain k .jobStateCode).ctl = { d.ctl with jobState := V3.all a } :=
  Dev.voteField_majority (v := ⟨.jobStateCode, d.ctl.jobState, _⟩) k h fun hs => by
    change { d.ctl with jobState := V3.all a } = _
    rw [← hs]

end Fields

theorem V3.vote_all (n : Nat) : (V3.all n).vote = some n := if_pos (by simp [V3.all])

/-- All voted fields voted, one after the other. -/
def Dev.scrubbed (d : Dev) (k : Clock) : Dev :=
  ((d.voteAgain k .tickPeriodCounts).voteAgain k .tickGuardCounts).voteAgain k .jobStateCode

theorem exec_voteScrub (hc : s.dev.clocked = true) (hk : s.clk.toCc ((s.clk.cc / 65536 + 1) * 65536) = k) :
    exec .voteScrub s = .next { s with clk := k, dev := (s.dev.scrubbed k).sendRaised s.dev.sec.reports k } := by
  change execVoteScrub s = _
  unfold execVoteScrub
  exact State.act_next k hc hk rfl

/-- A period in which every field has a majority. -/
theorem Dev.scrubbed_majorities {a b c : Nat} (k : Clock) (ha : d.ctl.period.vote = some a)
    (hb : d.ctl.guardBand.vote = some b) (hj : d.ctl.jobState.vote = some c) :
    d.Voted (d.scrubbed k) ((decide (d.ctl.period ≠ V3.all a)).toNat + (decide (d.ctl.guardBand ≠ V3.all b)).toNat +
      (decide (d.ctl.jobState ≠ V3.all c)).toNat) ∧
      (d.scrubbed k).ctl = { d.ctl with period := V3.all a, guardBand := V3.all b, jobState := V3.all c } := by
  obtain ⟨h1, c1⟩ := d.voteAgain_period k ha
  unfold Dev.scrubbed
  generalize d.voteAgain k .tickPeriodCounts = x at *
  obtain ⟨h2, c2⟩ := x.voteAgain_guardBand (a := b) k (by rw [c1]; exact hb)
  rw [show x.ctl.guardBand = d.ctl.guardBand by rw [c1]] at h2
  generalize x.voteAgain k .tickGuardCounts = y at *
  obtain ⟨h3, c3⟩ := y.voteAgain_jobState (a := c) k (by rw [c2, c1]; exact hj)
  rw [show y.ctl.jobState = d.ctl.jobState by rw [c2, c1]] at h3
  exact ⟨(h1.trans h2).trans h3, by rw [c3, c2, c1]⟩

theorem Dev.ctl_setPhase {p : JobPhase} (h : d.job.phase ≠ p) :
    (d.setPhase p).ctl = { d.ctl with jobState := V3.all p.code } := by
  unfold Dev.setPhase
  rw [if_neg h]
  exact (Dev.touches_hostEvent ..).ctl

/-- A first run fault rewrites the job state's copies and no other voted field. -/
theorem Dev.ctl_runFault_first (d : Dev) (k : Clock) (code cause engine addr : Nat) (hp : d.job.phase.faultable = true)
    (ha : d.job.abort = false) :
    (d.runFault k code cause engine addr).ctl = { d.ctl with jobState := V3.all (JobPhase.faulted).code } := by
  have hn : d.job.phase ≠ .faulted := by intro h; rw [h] at hp; cases hp
  unfold Dev.runFault
  rw [if_neg hn, if_neg (by simp [ha]), if_pos (by simp [hp])]
  dsimp only
  rw [(Dev.touches_report ..).ctl, (Dev.touches_smbEvent ..).ctl, (Dev.touches_hostEvent ..).ctl, Dev.ctl_setPhase]
  · rfl
  · exact hn

/-- A failed vote of a job that can fault is a run fault, with a report in any case. -/
theorem Dev.voteFails_first (d : Dev) (k : Clock) (hp : d.job.phase.faultable = true) :
    ∃ r, d.voteFails k = { d.runFault k 0x91 3 0xFFF 0 with sec := r } := by
  unfold Dev.voteFails
  rw [if_pos hp]
  dsimp only
  split
  · unfold Dev.report
    rw [if_neg (by simp)]
    exact ⟨_, rfl⟩
  · exact ⟨_, rfl⟩

theorem Dev.voteField_none {v : VoteField} (k : Clock) (h : v.copies.vote = none) :
    d.voteField k v = ((d.noteUnresolved v.fld).rewriteVote v.fld v.truth).voteFails k := by
  unfold Dev.voteField
  rw [h]

/-- The device after a vote of the period without a majority. -/
def Dev.unresolved (d : Dev) (k : Clock) : Dev :=
  ((d.noteUnresolved .tickPeriodCounts).rewriteVote .tickPeriodCounts d.period).voteFails k

theorem Dev.voteAgain_unresolved (k : Clock) (h : d.ctl.period.vote = none) (hp : d.job.phase.faultable = true) :
    d.voteAgain k .tickPeriodCounts = d.unresolved k := by
  have hform : ((match if d.job.phase.isAdmitted then d.image else none with
    | some m => (m.form.period, m.form.guardBand)
    | none => (0, 0)) : Nat × Nat).1 = d.period := by
    have hadm : d.job.phase.isAdmitted = true := by
      cases hph : d.job.phase <;> rw [hph] at hp <;> first | rfl | cases hp
    rw [if_pos hadm]
    unfold Dev.period
    cases d.image <;> rfl
  refine (Dev.voteField_none (v := ⟨.tickPeriodCounts, d.ctl.period, _⟩) k h).trans ?_
  exact congrArg (fun n => ((d.noteUnresolved .tickPeriodCounts).rewriteVote .tickPeriodCounts n).voteFails k) hform

/-- What such a vote makes of a job that can fault. -/
theorem Dev.unresolved_effect (k : Clock) (hp : d.job.phase.faultable = true) (ha : d.job.abort = false) :
    (d.unresolved k).mem = d.mem ∧ (d.unresolved k).cores = d.cores ∧ (d.unresolved k).job.phase = .faulted ∧
      (d.unresolved k).rd .jobStateFault = 0x91 ∧ (d.unresolved k).rd .hubVoteUnresolved = 1 ∧
      (d.unresolved k).rd .hubDevFaultCode = 0x91 ∧
      (d.unresolved k).ctl.period = V3.all d.period ∧ (d.unresolved k).ctl.guardBand = d.ctl.guardBand ∧
      (d.unresolved k).ctl.jobState = V3.all (JobPhase.faulted).code := by
  have hx : ((d.noteUnresolved .tickPeriodCounts).rewriteVote .tickPeriodCounts d.period).job = d.job := rfl
  have hctl : ((d.noteUnresolved .tickPeriodCounts).rewriteVote .tickPeriodCounts d.period).ctl.period = V3.all d.period ∧
      ((d.noteUnresolved .tickPeriodCounts).rewriteVote .tickPeriodCounts d.period).ctl.guardBand = d.ctl.guardBand :=
    ⟨rfl, rfl⟩
  have hrds : ((d.noteUnresolved .tickPeriodCounts).rewriteVote .tickPeriodCounts d.period).rd .hubVoteUnresolved = 1 ∧
      ((d.noteUnresolved .tickPeriodCounts).rewriteVote .tickPeriodCounts d.period).rd .hubDevFaultCode = 0x91 := by
    have hsame : ∀ f, ((d.noteUnresolved .tickPeriodCounts).rewriteVote .tickPeriodCounts d.period).rd f =
        (((((((d.flag .hubVoteUnresolved).wr .hubVoteBlock (Fld.tickPeriodCounts).row.blk.code).wr .hubVoteOffset
          (Fld.tickPeriodCounts).row.off).wr .hubDevFaultCode 0x91).wr .hubDevFaultSrc 3).wr .hubDevFaultDie 0).wr
          .hubDevFaultStack 0).rd f := fun _ => rfl
    rw [hsame, hsame]
    constructor
    · rw [Dev.rd_wr_field _ _ (by decide), Dev.rd_wr_field _ _ (by decide), Dev.rd_wr_field _ _ (by decide),
        Dev.rd_wr_field _ _ (by decide), Dev.rd_wr_field _ _ (by decide), Dev.rd_wr_field _ _ (by decide),
        Dev.rd_flag_same _ _ rfl]
    · rw [Dev.rd_wr_field _ _ (by decide), Dev.rd_wr_field _ _ (by decide), Dev.rd_wr_field _ _ (by decide),
        Dev.rd_wr_fits _ _ (by decide)]
  have hmem : ((d.noteUnresolved .tickPeriodCounts).rewriteVote .tickPeriodCounts d.period).mem = d.mem := rfl
  have hcores : ((d.noteUnresolved .tickPeriodCounts).rewriteVote .tickPeriodCounts d.period).cores = d.cores := rfl
  unfold Dev.unresolved
  generalize (d.noteUnresolved .tickPeriodCounts).rewriteVote .tickPeriodCounts d.period = x at *
  obtain ⟨r, hr⟩ := x.voteFails_first k (hx ▸ hp)
  have hf := Dev.runFault_first k 0x91 3 0xFFF 0 (hx ▸ hp) (show x.job.abort = false from hx ▸ ha)
  have hc := x.ctl_runFault_first k 0x91 3 0xFFF 0 (hx ▸ hp) (hx ▸ ha)
  rw [hr]
  refine ⟨hf.mem.trans hmem, hf.cores.trans hcores, hf.phase, hf.recorded, ?_, ?_, ?_, ?_, ?_⟩
  · exact (hf.rd _ 0 0 (by decide) (by decide) (by decide) (by decide)).trans hrds.1
  · exact (hf.rd _ 0 0 (by decide) (by decide) (by decide) (by decide)).trans hrds.2
  · exact (congrArg Ctl.period hc).trans hctl.1
  · exact (congrArg Ctl.guardBand hc).trans hctl.2
  · exact (congrArg Ctl.jobState hc :)

/-- A period in which that field alone has no majority. -/
theorem Dev.scrubbed_unresolved {b : Nat} (k : Clock) (ha : d.ctl.period.vote = none)
    (hb : d.ctl.guardBand.vote = some b) (hp : d.job.phase.faultable = true) (hab : d.job.abort = false) :
    (d.scrubbed k).mem = d.mem ∧ (d.scrubbed k).cores = d.cores ∧ (d.scrubbed k).job.phase = .faulted ∧
      (d.scrubbed k).rd .jobStateFault = 0x91 ∧ (d.scrubbed k).rd .hubVoteUnresolved = 1 ∧
      (d.scrubbed k).rd .hubDevFaultCode = 0x91 ∧
      (d.scrubbed k).ctl.period = V3.all d.period ∧ (d.scrubbed k).ctl.guardBand = V3.all b ∧
      (d.scrubbed k).ctl.jobState = V3.all (JobPhase.faulted).code := by
  obtain ⟨hmem, hcores, hph, h1, h2, h3, c1, c2, c3⟩ := d.unresolved_effect k hp hab
  unfold Dev.scrubbed
  rw [Dev.voteAgain_unresolved k ha hp]
  generalize d.unresolved k = x at *
  obtain ⟨g1, e1⟩ := x.voteAgain_guardBand (a := b) k (by rw [c2]; exact hb)
  generalize x.voteAgain k .tickGuardCounts = y at *
  obtain ⟨g2, e2⟩ := y.voteAgain_jobState (a := (JobPhase.faulted).code) k (by rw [e1]; exact c3 ▸ V3.vote_all _)
  generalize y.voteAgain k .jobStateCode = z at *
  have g := g1.trans g2
  rw [g.mem, g.cores, g.job, g.other .jobStateFault (by decide), g.other .hubVoteUnresolved (by decide),
    g.other .hubDevFaultCode (by decide), e2, e1]
  exact ⟨hmem, hcores, hph, h1, h2, h3, c1, rfl, rfl⟩

/-! ### A read of voted fields -/

/-- The device with a word put out as read. -/
def Dev.answered (d : Dev) (v : Nat) : Dev := { d with out := { d.out with reads := d.out.reads ++ [v] } }

theorem Dev.answered_reads (d : Dev) (v : Nat) : (d.answered v).out.reads = d.out.reads ++ [v] := rfl

/-- What a register reads as does not rest on what the device has put out. -/
theorem Dev.readReg_answered (d : Dev) (v : Nat) (k : Clock) (m : Master) (off : Nat) :
    (d.answered v).readReg k m off = d.readReg k m off := by
  rfl

/-- The names of the voted fields. -/
def voteNames : List Fld := [.tickPeriodCounts, .tickGuardCounts, .jobStateCode]

/-- The three copies of a voted field. -/
def Dev.copiesOf (d : Dev) : Fld → V3
  | .tickPeriodCounts => d.ctl.period
  | .tickGuardCounts => d.ctl.guardBand
  | .jobStateCode => d.ctl.jobState
  | _ => V3.all 0

theorem Dev.voteFields_mem {v : VoteField} (h : v ∈ d.voteFields) : v.fld ∈ voteNames ∧ v.copies = d.copiesOf v.fld := by
  unfold Dev.voteFields at h
  simp only [List.mem_cons, List.not_mem_nil, or_false] at h
  rcases h with rfl | rfl | rfl
  · exact ⟨.head _, rfl⟩
  · exact ⟨.tail _ (.head _), rfl⟩
  · exact ⟨.tail _ (.tail _ (.head _)), rfl⟩

/-- From `d` to `e` the voted fields of a list have been voted, where every one has a majority. -/
structure Dev.Agreed (d e : Dev) (fs : List Fld) : Prop where
  mem : e.mem = d.mem
  cores : e.cores = d.cores
  job : e.job = d.job
  sec : e.sec = d.sec
  out : e.out = d.out
  votes : ∀ f ∈ voteNames, (e.copiesOf f).vote ≠ none
  agree : ∀ f ∈ fs, f ∈ voteNames ∧ ∃ n, e.copiesOf f = V3.all n

/-- One vote: the field's copies agree, the others are as they were. -/
theorem Dev.voteAgain_copies {f : Fld} (k : Clock) (hf : f ∈ voteNames) (h : (d.copiesOf f).vote ≠ none) :
    (∃ n, d.Voted (d.voteAgain k f) n) ∧ (∃ n, (d.voteAgain k f).copiesOf f = V3.all n) ∧
      ∀ g ∈ voteNames, g ≠ f → (d.voteAgain k f).copiesOf g = d.copiesOf g := by
  obtain ⟨a, ha⟩ := Option.ne_none_iff_exists'.mp h
  unfold voteNames at hf ⊢
  simp only [List.mem_cons, List.not_mem_nil, or_false] at hf
  rcases hf with rfl | rfl | rfl
  · obtain ⟨hv, hc⟩ := d.voteAgain_period k ha
    refine ⟨⟨_, hv⟩, ⟨a, (congrArg Ctl.period hc :)⟩, fun g hg hn => ?_⟩
    simp only [List.mem_cons, List.not_mem_nil, or_false] at hg
    rcases hg with rfl | rfl | rfl
    · exact absurd rfl hn
    · exact (congrArg Ctl.guardBand hc :)
    · exact (congrArg Ctl.jobState hc :)
  · obtain ⟨hv, hc⟩ := d.voteAgain_guardBand k ha
    refine ⟨⟨_, hv⟩, ⟨a, (congrArg Ctl.guardBand hc :)⟩, fun g hg hn => ?_⟩
    simp only [List.mem_cons, List.not_mem_nil, or_false] at hg
    rcases hg with rfl | rfl | rfl
    · exact (congrArg Ctl.period hc :)
    · exact absurd rfl hn
    · exact (congrArg Ctl.jobState hc :)
  · obtain ⟨hv, hc⟩ := d.voteAgain_jobState k ha
    refine ⟨⟨_, hv⟩, ⟨a, (congrArg Ctl.jobState hc :)⟩, fun g hg hn => ?_⟩
    simp only [List.mem_cons, List.not_mem_nil, or_false] at hg
    rcases hg with rfl | rfl | rfl
    · exact (congrArg Ctl.period hc :)
    · exact (congrArg Ctl.guardBand hc :)
    · exact absurd rfl hn

theorem Dev.Agreed.vote {f : Fld} {fs : List Fld} (h : d.Agreed e fs) (k : Clock) (hf : f ∈ voteNames) :
    d.Agreed (e.voteAgain k f) (fs ++ [f]) := by
  obtain ⟨⟨i, hv⟩, ⟨n, hn⟩, ho⟩ := e.voteAgain_copies k hf (h.votes f hf)
  refine ⟨hv.mem.trans h.mem, hv.cores.trans h.cores, hv.job.trans h.job, hv.sec.trans h.sec, hv.out.trans h.out, fun g hg => ?_, fun g hg => ?_⟩
  · by_cases hgf : g = f
    · subst hgf
      rw [hn, V3.vote_all]
      exact Option.some_ne_none n
    · rw [ho g hg hgf]
      exact h.votes g hg
  · by_cases hgf : g = f
    · subst hgf
      exact ⟨hf, n, hn⟩
    · have hin : g ∈ fs := by simpa [hgf] using hg
      obtain ⟨hname, i, hi⟩ := h.agree g hin
      exact ⟨hname, i, (ho g hname hgf).trans hi⟩

theorem Dev.Agreed.voteAll {fs : List Fld} (k : Clock) (vs : List VoteField) (h : d.Agreed e fs)
    (hv : ∀ v ∈ vs, v.fld ∈ voteNames) :
    d.Agreed (vs.foldl (fun d v => d.voteAgain k v.fld) e) (fs ++ vs.map (·.fld)) := by
  induction vs generalizing e fs with
  | nil => simpa using h
  | cons v vs ih =>
    rw [List.map_cons, List.append_cons]
    exact ih (h.vote k (hv v (.head _))) fun x hx => hv x (.tail _ hx)

/-- The voted fields that a register of a page holds. -/
def Dev.votedIn (d : Dev) (p : Page) (reg : Nat) : List VoteField :=
  d.voteFields.filter fun v => (p.fields reg).any fun x => x.1 = v.fld

/-- The device after a read has voted the fields that its register holds. -/
def Dev.readVotes (d : Dev) (k : Clock) (p : Page) (reg : Nat) : Dev :=
  (d.votedIn p reg).foldl (fun d v => d.voteAgain k v.fld) d

theorem Dev.readVotes_agreed (k : Clock) (p : Page) (reg : Nat) (h : ∀ v ∈ d.voteFields, v.copies.vote ≠ none) :
    d.Agreed (d.readVotes k p reg) ((d.votedIn p reg).map (·.fld)) := by
  have h0 : d.Agreed d [] := ⟨rfl, rfl, rfl, rfl, rfl, fun f hf => ?_, fun f hf => absurd hf List.not_mem_nil⟩
  · exact h0.voteAll k (d.votedIn p reg) fun v hv => (Dev.voteFields_mem (List.mem_filter.mp hv).1).1
  · unfold voteNames at hf
    simp only [List.mem_cons, List.not_mem_nil, or_false] at hf
    rcases hf with rfl | rfl | rfl
    · exact h _ (.head _)
    · exact h _ (.tail _ (.head _))
    · exact h _ (.tail _ (.tail _ (.head _)))

/-- A read of voted fields that have majorities answers what the register then reads as. -/
theorem Dev.readVoted_majorities {p : Page} {page reg : Nat} (k : Clock) (hp : d.openPage page m = some p) (hr : reg < 8192)
    (h : ∀ v ∈ d.voteFields, v.copies.vote ≠ none) :
    d.readVoted k m (page * 65536 + reg) =
      (d.readVotes k p (reg / 4 * 4), (d.readVotes k p (reg / 4 * 4)).readReg k m (page * 65536 + reg)) := by
  have hpage : (page * 65536 + reg) / 65536 = page := by omega
  have hreg : baseOf ((page * 65536 + reg) % 65536) / 4 * 4 = reg / 4 * 4 := by
    unfold baseOf
    omega
  have hno : (d.votedIn p (reg / 4 * 4)).filter (fun v => v.copies.vote.isNone) = [] := by
    refine List.filter_eq_nil_iff.mpr fun v hv hn => ?_
    exact h v (List.mem_filter.mp hv).1 (Option.isNone_iff_eq_none.mp hn)
  unfold Dev.readVoted
  rw [hpage, hp]
  dsimp only
  rw [hreg]
  unfold Dev.votedIn at hno
  rw [hno]
  rfl

/-- A voted field that the register holds is among those that a read votes. -/
theorem Dev.votedIn_names {p : Page} {reg : Nat} {f : Fld} (hf : f ∈ voteNames)
    (h : (p.fields reg).any (fun x => x.1 = f) = true) : f ∈ (d.votedIn p reg).map (·.fld) := by
  unfold voteNames at hf
  simp only [List.mem_cons, List.not_mem_nil, or_false] at hf
  rcases hf with rfl | rfl | rfl
  · exact List.mem_map.mpr ⟨_, List.mem_filter.mpr ⟨.head _, h⟩, rfl⟩
  · exact List.mem_map.mpr ⟨_, List.mem_filter.mpr ⟨.tail _ (.head _), h⟩, rfl⟩
  · exact List.mem_map.mpr ⟨_, List.mem_filter.mpr ⟨.tail _ (.tail _ (.head _)), h⟩, rfl⟩

/-- The register holds a voted field. -/
def Dev.holdsVote (d : Dev) (p : Page) (reg : BitVec 13) : Bool :=
  d.voteFields.any fun v => (p.fields (reg.toNat / 4 * 4)).any fun x => x.1 = v.fld

theorem exec_v3FieldRead {page : BitVec 12} {reg : BitVec 13} {p : Page} (hc : s.dev.clocked = true)
    (hp : s.dev.openPage page.toNat .mgmt = some p) (hh : s.dev.holdsVote p reg = true)
    (hv : ∀ v ∈ s.dev.voteFields, v.copies.vote ≠ none) :
    exec (.v3FieldRead page reg) s = .next { s with
      clk := s.clk.nextCc
      dev := (s.dev.readVotes s.clk.nextCc p (reg.toNat / 4 * 4)).answered
        ((s.dev.readVotes s.clk.nextCc p (reg.toNat / 4 * 4)).readReg s.clk.nextCc .mgmt
          (page.toNat * 65536 + reg.toNat)) } := by
  have hr := Dev.readVoted_majorities s.clk.nextCc hp reg.isLt hv
  have hsec := (s.dev.readVotes_agreed s.clk.nextCc p (reg.toNat / 4 * 4) hv).sec
  change execV3FieldRead page reg s = _
  unfold execV3FieldRead
  rw [hp]
  dsimp only
  unfold Dev.holdsVote at hh
  rw [hh]
  refine State.act_quiet (w := fun k => k.nextCc) _ hc rfl ?_ (congrArg Sec.reports hsec :)
  rw [if_pos rfl, hr]
  rfl

theorem exec_v3FieldRead_none {page : BitVec 12} {reg : BitVec 13}
    (h : ∀ p, s.dev.openPage page.toNat .mgmt = some p → s.dev.holdsVote p reg = false) :
    exec (.v3FieldRead page reg) s = .next s := by
  change execV3FieldRead page reg s = _
  unfold execV3FieldRead
  cases hp : s.dev.openPage page.toNat .mgmt with
  | none => exact State.act_none rfl
  | some p =>
    have hh := h p hp
    unfold Dev.holdsVote at hh
    dsimp only
    rw [hh]
    exact State.act_none rfl

end Sys2Proof.Machine

namespace Sys2Proof

open Machine

/-- Settles O47: what a selector write latches and the mailbox shows, and how the votes keep voted fields. -/
theorem mailboxesAndVotes : Obligations.MailboxesAndVotes := by
  unfold Obligations.MailboxesAndVotes
  intro s kept
  refine ⟨fun m same page sel p h hg => ?_, fun page m cc hc => ?_, fun hc => ?_, fun page reg hc => ?_⟩
  · obtain ⟨t, ht, hmem, hcores, hjob, hbox⟩ := exec_mbxSelWrite (sel := sel) h hg
    exact ⟨t, ht, ⟨hmem, hcores⟩, hjob, hbox⟩
  · cases hb : s.dev.mailbox page.toNat m with
    | none => exact exec_mailboxReady_none fun b h => by rw [hb] at h; cases h
    | some b =>
      dsimp only
      cases hl : b.latched with
      | none => exact exec_mailboxReady_none fun x h => by rw [hb] at h; cases h; exact hl
      | some x =>
        obtain ⟨t, ht, hmem, hcores, hjob, hbox⟩ := exec_mailboxReady (cc := cc) hc hb hl
        exact ⟨t, ht, ⟨hmem, hcores⟩, hjob, hbox⟩
  · intro k
    have hexec := exec_voteScrub (k := k) hc rfl
    have hsend := (s.dev.scrubbed k).touches_sendRaised s.dev.sec.reports k
    refine ⟨fun a b c ha hb hj => ?_, fun b c ha hb _ hp hab => ?_⟩
    · intro n
      obtain ⟨hv, hctl⟩ := Dev.scrubbed_majorities k ha hb hj
      rw [Dev.sendRaised_of_eq k (congrArg Sec.reports hv.sec)] at hexec
      refine ⟨_, hexec, ⟨hv.mem, hv.cores⟩, hv.job, congrArg Ctl.period hctl, congrArg Ctl.guardBand hctl,
        congrArg Ctl.jobState hctl, fun hn => hv.scrubbed.trans (if_neg hn.ne')⟩
    · obtain ⟨hmem, hcores, hph, h1, h2, h3, c1, c2, c3⟩ := Dev.scrubbed_unresolved k ha hb hp hab
      refine ⟨_, hexec, ⟨hsend.mem.trans hmem, hsend.cores.trans hcores⟩, ?_⟩
      rw [hsend.job, hsend.rd _, hsend.rd _, hsend.rd _, hsend.ctl]
      exact ⟨hph, h1, h2, h3, c1, c2, c3⟩
  · intro held
    cases hp : s.dev.openPage page.toNat .mgmt with
    | none => exact exec_v3FieldRead_none fun p h => by rw [hp] at h; cases h
    | some p =>
      dsimp only
      refine ⟨fun hh => exec_v3FieldRead_none fun x h => by rw [hp] at h; cases h; exact hh, fun hh hv => ?_⟩
      have hag := s.dev.readVotes_agreed s.clk.nextCc p (reg.toNat / 4 * 4) hv
      refine ⟨_, exec_v3FieldRead hc hp hh hv, ⟨hag.mem, hag.cores⟩, hag.job, ?_, fun v hv' hheld => ?_⟩
      · rw [Dev.answered_reads, Dev.readReg_answered, hag.out]
      · obtain ⟨hname, hcop⟩ := Dev.voteFields_mem (d := s.dev.readVotes s.clk.nextCc p (reg.toNat / 4 * 4)) hv'
        obtain ⟨-, n, hn⟩ := hag.agree v.fld (Dev.votedIn_names hname hheld)
        have hall := hcop.trans hn
        unfold VoteField.value
        rw [hall, V3.vote_all]
        rfl

end Sys2Proof
end

section
/-! SUPPORT. The fills of the matrix array (chapter 6). -/

-- One proof at a time: each thread that elaborates beside the others reserves its stack.
set_option Elab.async false

namespace Sys2Proof.Machine

open Sys2Proof

variable {s : State} {d : Dev} {k : Clock} {c : Fin 48} {e : Entry}

theorem Dev.setCore_at (d : Dev) (c : Fin 48) (x : Core) : (d.setCore c x).cores[c] = x := by
  unfold Dev.setCore
  simp

theorem Dev.setCore_elsewhere (d : Dev) {c i : Fin 48} (x : Core) (h : i ≠ c) : (d.setCore c x).cores[i] = d.cores[i] := by
  unfold Dev.setCore
  simp [Fin.val_ne_of_ne h.symm]

/-- A check of tiles never starts an instruction. -/
theorem Dev.checkTiles_not_go {rs ws : List (TileDesc × List (Nat × Nat))} {e' : Dev} {due : Nat} {done : Bool} :
    d.checkTiles c rs ws ≠ some (.go e' due done) := by
  unfold Dev.checkTiles
  dsimp only
  split
  · exact nofun
  · intro h
    obtain ⟨_, -, hx⟩ := Option.map_eq_some_iff.mp h
    cases hx

/-- The arithmetic cycle at which a fill begins. -/
def Dev.fillFrom (d : Dev) (k : Clock) (c : Fin 48) : Nat := max (d.dieAc k (dieOf c)) d.cores[c].streamFrom

/-- The arithmetic cycle at which a fill ends. -/
def Dev.fillEnd (d : Dev) (k : Clock) (c : Fin 48) (e : Entry) : Nat := d.fillFrom k c + 12 * (Td.fmt e.tda).qWidth

/-- The device with a fill begun. -/
def Dev.filled (d : Dev) (k : Clock) (c : Fin 48) (e : Entry) : Dev :=
  ((d.countInputs c (Td.fmt e.tda) (d.readBlock c e).2).arrayBusy c (d.fillFrom k c) (d.fillEnd k c e)).modCore c
    fun x => { x with shadow := some ((d.readBlock c e).1, false) }

theorem Dev.startLoad_go {e' : Dev} {due : Nat} {done : Bool} (h : d.startLoad k c e = .go e' due done) :
    e' = d.filled k c e ∧ due = d.fillEnd k c e * 5 ∧ done = false := by
  unfold Dev.startLoad at h
  dsimp only at h
  split at h
  · next r hr => exact absurd (h ▸ hr) Dev.checkTiles_not_go
  · cases h
    exact ⟨rfl, rfl, rfl⟩

theorem Dev.arrayBusy_core (d : Dev) (c : Fin 48) (a b : Nat) : (d.arrayBusy c a b).cores[c] =
    { d.cores[c].addWork 0 (b - max a d.cores[c].arrayBusyTo) with arrayBusyTo := max d.cores[c].arrayBusyTo b } := by
  unfold Dev.arrayBusy
  exact d.setCore_at c _

/-- A fill brings its block, unfinished, and leaves cells, sets and memories. -/
theorem Dev.filled_effect (d : Dev) (k : Clock) (c : Fin 48) (e : Entry) :
    (∃ b, (d.filled k c e).cores[c].shadow = some (b, false) ∧ b.seq = e.seq) ∧
      (d.filled k c e).cores[c].cells = d.cores[c].cells ∧ (d.filled k c e).cores[c].sets = d.cores[c].sets ∧
      (d.filled k c e).mem = d.mem := by
  have hin := d.touches_countInputs c (Td.fmt e.tda) (d.readBlock c e).2
  have hbusy := (d.countInputs c (Td.fmt e.tda) (d.readBlock c e).2).touches_arrayBusy c (d.fillFrom k c) (d.fillEnd k c e)
  have hcore := Dev.arrayBusy_core (d.countInputs c (Td.fmt e.tda) (d.readBlock c e).2) c (d.fillFrom k c) (d.fillEnd k c e)
  have hmod : (d.filled k c e).cores[c] = _ := Dev.setCore_at _ c _
  rw [hmod, hcore, hin.cores]
  exact ⟨⟨_, rfl, rfl⟩, rfl, rfl, hbusy.mem.trans hin.mem⟩

/-- The core after the end of a fill. -/
def Core.fillDone (x : Core) (e : Entry) (b : Block) : Core :=
  { x.updEntry e.seq (fun i => { i with done := true }) with shadow := some (b, decide (b.seq = e.seq)) }

theorem exec_arrayFillDone {b : Block} (hc : s.dev.clocked = true) (hf : s.dev.cores[c].filling = some e)
    (hs : s.dev.cores[c].shadow = some (b, false)) :
    ∃ x : Dev, exec (.arrayFillDone c) s = .next { s with
        clk := s.clk.toUnit (s.dev.dueUnit c e), dev := x.setCore c (s.dev.cores[c].fillDone e b) } ∧
      x.cores = s.dev.cores ∧ x.mem = s.dev.mem ∧ x.regs = s.dev.regs := by
  change ∃ x : Dev, execArrayFillDone c s = _ ∧ _
  unfold execArrayFillDone
  rw [hf]
  by_cases hb : b.seq = e.seq
  · refine ⟨if s.dev.cores[c].waitsForFill then (s.dev.count .coreArrLoads 1 c).count .coreArrLoadWaits 1 c
      else s.dev.count .coreArrLoads 1 c, State.act_quiet (w := fun k => k.toUnit (s.dev.dueUnit c e)) _ hc rfl ?_ ?_, ?_⟩
    · dsimp only
      rw [hf, hs]
      dsimp only
      rw [if_pos hb, Core.fillDone, decide_eq_true hb]
      cases s.dev.cores[c].waitsForFill <;> rfl
    · cases s.dev.cores[c].waitsForFill <;> rfl
    · cases s.dev.cores[c].waitsForFill <;> exact ⟨rfl, rfl, rfl⟩
  · refine ⟨s.dev.count .coreArrLoads 1 c, State.act_quiet (w := fun k => k.toUnit (s.dev.dueUnit c e)) _ hc rfl ?_ rfl,
      rfl, rfl, rfl⟩
    dsimp only
    rw [hf, hs]
    dsimp only
    rw [if_neg hb, Core.fillDone, decide_eq_false hb, ← hs]
    rfl

end Sys2Proof.Machine

namespace Sys2Proof

open Machine

/-- Settles O19: where a fill goes and when it ends. -/
theorem fillsOfTheArray : Obligations.FillsOfTheArray := by
  unfold Obligations.FillsOfTheArray
  refine ⟨fun d e' k c e due done h => ?_, fun s c e b hc hf hs => ?_⟩
  · obtain ⟨rfl, rfl, rfl⟩ := Dev.startLoad_go h
    obtain ⟨hshadow, hcells, hsets, hmem⟩ := d.filled_effect k c e
    exact ⟨rfl, rfl, hshadow, hcells, hsets, hmem⟩
  · obtain ⟨x, hx, hcores, hmem, hregs⟩ := exec_arrayFillDone hc hf hs
    refine ⟨_, hx, ?_⟩
    rw [x.setCore_at]
    refine ⟨rfl, rfl, rfl, rfl, rfl, fun i hi => ?_, hmem, hregs⟩
    rw [x.setCore_elsewhere _ hi, hcores]

end Sys2Proof
end

section
/-! SUPPORT. The Separator's ranking and its capacity stage (chapter 8). -/

-- One proof at a time: each thread that elaborates beside the others reserves its stack.
set_option Elab.async false

namespace Sys2Proof.Machine

open Sys2Proof

/-! ### The order of scores -/

/-- A score's place in a linear order: a NaN is placed with minus infinity. -/
def Val.place : Val → WithBot (WithTop ℚ)
  | .fin m e => (((m : ℚ) * 2 ^ e : ℚ) : WithTop ℚ)
  | .nzero => ((0 : ℚ) : WithTop ℚ)
  | .inf true => ⊥
  | .inf false => ((⊤ : WithTop ℚ) : WithBot (WithTop ℚ))
  | .nan => ⊥

theorem Val.atExp_mul {e lo : Int} (m : Int) (h : lo ≤ e) :
    ((Val.atExp m e lo : Int) : ℚ) * 2 ^ lo = (m : ℚ) * 2 ^ e := by
  unfold Val.atExp
  obtain ⟨n, hn⟩ := Int.eq_ofNat_of_zero_le (Int.sub_nonneg.mpr h)
  have he : e = n + lo := by omega
  rw [hn, he, zpow_add₀ (by norm_num)]
  push_cast
  rw [Int.toNat_natCast, zpow_natCast, mul_assoc]

theorem Val.atExp_lt (a b e f : Int) : Val.atExp a e (min e f) < Val.atExp b f (min e f) ↔
    (a : ℚ) * 2 ^ e < (b : ℚ) * 2 ^ f := by
  rw [← Val.atExp_mul a (min_le_left e f), ← Val.atExp_mul b (min_le_right e f),
    mul_lt_mul_iff_left₀ (zpow_pos (by norm_num) _), Int.cast_lt]

/-- Scores without NaN stand in the order of their places. -/
theorem Val.lt_iff {x y : Val} (hx : x ≠ .nan) (hy : y ≠ .nan) : Val.lt x y = true ↔ Val.place x < Val.place y := by
  have hfin : ∀ a e b f : Int, Val.lt (.fin a e) (.fin b f) = true ↔
      Val.place (.fin a e) < Val.place (.fin b f) := fun a e b f => by
    rw [show Val.lt (.fin a e) (.fin b f) = decide (Val.atExp a e (min e f) < Val.atExp b f (min e f)) from rfl,
      decide_eq_true_eq, Val.atExp_lt]
    exact (WithBot.coe_lt_coe.trans WithTop.coe_lt_coe).symm
  have hzero : Val.place .nzero = Val.place (.fin 0 0) := by simp [Val.place]
  have hplain : ∀ v, v ≠ .nan → Val.place v.plain = Val.place v ∧ (v.plain = .inf true ∨ v.plain = .inf false ∨
      ∃ m e, v.plain = .fin m e) := fun v hv => by
    cases v with
    | fin m e => exact ⟨rfl, .inr (.inr ⟨m, e, rfl⟩)⟩
    | nzero => exact ⟨hzero.symm, .inr (.inr ⟨0, 0, rfl⟩)⟩
    | inf s => cases s <;> simp [Val.plain]
    | nan => exact absurd rfl hv
  have hlt : Val.lt x y = Val.lt x.plain y.plain := by
    cases x <;> cases y <;> rfl
  obtain ⟨hpx, hx⟩ := hplain x hx
  obtain ⟨hpy, hy⟩ := hplain y hy
  rw [hlt, ← hpx, ← hpy]
  rcases hx with hx | hx | ⟨a, e, hx⟩ <;> rcases hy with hy | hy | ⟨b, f, hy⟩ <;> rw [hx, hy]
  case inr.inr.inr.inr => exact hfin a e b f
  case inl.inr.inr => exact iff_of_true rfl (WithBot.bot_lt_coe _)
  case inr.inr.inr.inl => exact iff_of_true rfl (WithBot.coe_lt_coe.mpr (WithTop.coe_lt_top _))
  all_goals simp [Val.lt, Val.plain, Val.place]

theorem Val.lt_eq_false_iff {x y : Val} (hx : x ≠ .nan) (hy : y ≠ .nan) :
    Val.lt x y = false ↔ Val.place y ≤ Val.place x := by
  rw [← not_lt, ← Val.lt_iff hx hy, Bool.not_eq_true]

/-! ### The list of the best -/

/-- One score stands before another: by a higher score, or by an equal score and a lower index. -/
def Ahead (p q : Val × Nat) : Prop := Val.lt q.1 p.1 = true ∨ (Val.lt p.1 q.1 = false ∧ p.2 < q.2)

theorem take_insertBest (k : Nat) (l : List (Val × Nat)) (s : Val × Nat) :
    (insertBest (l.take k) s).take k = (insertBest l s).take k := by
  induction l generalizing k with
  | nil => simp
  | cons b t ih =>
    cases k with
    | zero => simp
    | succ k =>
      rw [List.take_succ_cons, insertBest, insertBest]
      split
      · rw [List.take_succ_cons, List.take_succ_cons]
        cases k with
        | zero => rfl
        | succ k => rw [List.take_succ_cons, List.take_succ_cons, List.take_take, Nat.min_eq_left (Nat.le_succ k)]
      · rw [List.take_succ_cons, List.take_succ_cons, ih]

/-- All scores in the order of their ranks. -/
def ranked (l : List (Val × Nat)) : List (Val × Nat) := l.foldl insertBest []

theorem bestOf_eq_take (k : Nat) (ss : List Val) : bestOf k ss = (ranked ss.zipIdx).take k := by
  have h : ∀ (l best : List (Val × Nat)),
      l.foldl (fun best s => (insertBest best s).take k) (best.take k) = (l.foldl insertBest best).take k := by
    intro l
    induction l with
    | nil => intro best; rfl
    | cons s l ih =>
      intro best
      rw [List.foldl_cons, List.foldl_cons, take_insertBest]
      exact ih _
  exact (congrArg (fun b => ss.zipIdx.foldl (fun best s => (insertBest best s).take k) b) (List.take_nil).symm).trans
    (h ss.zipIdx [])

theorem insertBest_perm (l : List (Val × Nat)) (s : Val × Nat) : (insertBest l s).Perm (s :: l) := by
  induction l with
  | nil => exact .refl _
  | cons b t ih =>
    rw [insertBest]
    split
    · exact .refl _
    · exact (ih.cons b).trans (.swap ..)

theorem ranked_perm (l : List (Val × Nat)) : (ranked l).Perm l := by
  have h : ∀ (l best : List (Val × Nat)), (l.foldl insertBest best).Perm (best ++ l) := by
    intro l
    induction l with
    | nil => intro best; simp
    | cons s l ih =>
      intro best
      rw [List.foldl_cons]
      refine (ih _).trans ?_
      refine ((insertBest_perm best s).append_right l).trans ?_
      exact List.perm_middle.symm
  exact h l []

/-- A score of a higher index goes behind all that are not below it. -/
theorem insertBest_ahead {l : List (Val × Nat)} {s : Val × Nat} (hs : s.1 ≠ .nan) (hn : ∀ p ∈ l, p.1 ≠ .nan)
    (hi : ∀ p ∈ l, p.2 < s.2) (h : l.Pairwise Ahead) : (insertBest l s).Pairwise Ahead := by
  induction l with
  | nil => simp [insertBest]
  | cons b t ih =>
    rw [insertBest]
    have hb := hn b (.head _)
    rw [List.pairwise_cons] at h
    obtain ⟨hbt, ht⟩ := h
    split
    · next hlt =>
      refine List.pairwise_cons.mpr ⟨fun p hp => ?_, List.pairwise_cons.mpr ⟨hbt, ht⟩⟩
      left
      have hsb := (Val.lt_iff hb hs).mp hlt
      rw [Val.lt_iff (hn p hp) hs]
      rcases List.mem_cons.mp hp with rfl | hp
      · exact hsb
      · refine lt_of_le_of_lt ?_ hsb
        have hpn := hn p (.tail _ hp)
        rcases hbt p hp with hlt | ⟨hle, -⟩
        · exact ((Val.lt_iff hpn hb).mp hlt).le
        · exact (Val.lt_eq_false_iff hb hpn).mp hle
    · next hlt =>
      refine List.pairwise_cons.mpr ⟨fun p hp => ?_, ih (fun p hp => hn p (.tail _ hp)) (fun p hp => hi p (.tail _ hp)) ht⟩
      rcases List.mem_cons.mp ((insertBest_perm t s).mem_iff.mp hp) with rfl | hp
      · exact .inr ⟨Bool.not_eq_true _ ▸ hlt, hi b (.head _)⟩
      · exact hbt p hp

theorem ranked_ahead {ss : List Val} (hn : ∀ v ∈ ss, v ≠ .nan) : (ranked ss.zipIdx).Pairwise Ahead := by
  induction ss using List.reverseRecOn with
  | nil => exact List.Pairwise.nil
  | append_singleton ss v ih =>
    have hprev := ih fun x hx => hn x (List.mem_append_left _ hx)
    have hstep : ranked (ss ++ [v]).zipIdx = insertBest (ranked ss.zipIdx) (v, ss.length) := by
      unfold ranked
      rw [List.zipIdx_append, List.foldl_append]
      simp
    rw [hstep]
    refine insertBest_ahead (hn v (by simp)) (fun p hp => ?_) (fun p hp => ?_) hprev
    · have hmem := (ranked_perm ss.zipIdx).mem_iff.mp hp
      exact hn p.1 (List.mem_append_left _ (List.fst_mem_of_mem_zipIdx hmem))
    · have hmem := (ranked_perm ss.zipIdx).mem_iff.mp hp
      simpa using List.snd_lt_of_mem_zipIdx hmem

/-- The best are scores with their own indices, the first of the ranking, and stand before all others. -/
theorem bestOf_effect (k : Nat) {ss : List Val} (hn : ∀ v ∈ ss, v ≠ .nan) :
    (bestOf k ss).length = min k ss.length ∧ (∀ p ∈ bestOf k ss, ss[p.2]? = some p.1) ∧ (bestOf k ss).Pairwise Ahead ∧
      ∀ (x : Nat) (v : Val), ss[x]? = some v → (v, x) ∉ bestOf k ss → ∀ p ∈ bestOf k ss, Ahead p (v, x) := by
  have hperm := ranked_perm ss.zipIdx
  have hahead := ranked_ahead hn
  rw [bestOf_eq_take]
  refine ⟨?_, fun p hp => ?_, hahead.sublist (List.take_sublist ..), fun x v hv hout p hp => ?_⟩
  · rw [List.length_take, hperm.length_eq, List.length_zipIdx]
  · exact List.mem_zipIdx_iff_getElem?.mp (hperm.mem_iff.mp (List.mem_of_mem_take hp))
  · have hin : (v, x) ∈ ranked ss.zipIdx := hperm.mem_iff.mpr (List.mem_zipIdx_iff_getElem?.mpr hv)
    rw [← List.take_append_drop k (ranked ss.zipIdx)] at hin hahead
    have hdrop := (List.mem_append.mp hin).resolve_left hout
    exact (List.pairwise_append.mp hahead).2.2 p hp _ hdrop

/-! ### The capacity stage -/

/-- What the capacity stage writes for a pick, by its expert's word. -/
def SepTok.entryOf (t : SepTok) (quota : Nat → Nat) (w : Nat) (p : Nat × Nat) : Nat × Nat :=
  if t.degenerate then (recordWord p.1 1 0xFFFF, 0)
  else if 0 < w % 2 ^ 17 then (recordWord p.1 0 (quota p.1 - w % 2 ^ 17), p.2) else (recordWord p.1 1 0xFFFF, p.2)

/-- What a pick leaves of its expert's word. -/
def SepTok.wordOf (t : SepTok) (w : Nat) : Nat :=
  if t.degenerate then w
  else if 0 < w % 2 ^ 17 then w - 1 else w % 2 ^ 17 + min (w / 2 ^ 17 + 1) 32767 * 2 ^ 17

/-- A pick is skipped. -/
def SepTok.skips (t : SepTok) (w : Nat) : Bool := t.degenerate || w % 2 ^ 17 = 0

/-- The capacity stage takes one pick. -/
def SepTok.take (t : SepTok) (quota : Nat → Nat) (acc : List (Nat × Nat) × List Nat × Nat) (p : Nat × Nat) :
    List (Nat × Nat) × List Nat × Nat :=
  (acc.1 ++ [t.entryOf quota (acc.2.1.getD p.1 0) p], acc.2.1.set p.1 (t.wordOf (acc.2.1.getD p.1 0)),
    acc.2.2 + (t.skips (acc.2.1.getD p.1 0)).toNat)

/-- A list is unchanged where an entry is set to what it is. -/
theorem set_getD_self (l : List Nat) (i : Nat) : l.set i (l.getD i 0) = l := by
  by_cases h : i < l.length
  · rw [List.getD_eq_getElem l 0 h, List.set_getElem_self]
  · exact List.set_eq_of_length_le (Nat.le_of_not_lt h)

/-- The step of the capacity stage as the model writes it. -/
theorem SepTok.take_eq (t : SepTok) (quota : Nat → Nat) (acc : List (Nat × Nat) × List Nat × Nat) (p : Nat × Nat) :
    t.take quota acc p =
      if t.degenerate then (acc.1 ++ [(recordWord p.1 1 0xFFFF, 0)], acc.2.1, acc.2.2 + 1)
      else if acc.2.1.getD p.1 0 % 2 ^ 17 > 0 then
        (acc.1 ++ [(recordWord p.1 0 (quota p.1 - acc.2.1.getD p.1 0 % 2 ^ 17), p.2)],
          acc.2.1.set p.1 (acc.2.1.getD p.1 0 - 1), acc.2.2)
      else (acc.1 ++ [(recordWord p.1 1 0xFFFF, p.2)], acc.2.1.set p.1 (acc.2.1.getD p.1 0 % 2 ^ 17 +
        min (acc.2.1.getD p.1 0 / 2 ^ 17 + 1) 32767 * 2 ^ 17), acc.2.2 + 1) := by
  unfold SepTok.take SepTok.entryOf SepTok.wordOf SepTok.skips
  have hself := set_getD_self acc.2.1 p.1
  generalize acc.2.1.getD p.1 0 = w at *
  cases t.degenerate with
  | true =>
    rw [if_pos rfl, if_pos rfl, if_pos rfl, hself]
    rfl
  | false =>
    rw [if_neg Bool.false_ne_true, if_neg Bool.false_ne_true, if_neg Bool.false_ne_true, Bool.false_or]
    by_cases h : 0 < w % 2 ^ 17
    · rw [if_pos h, if_pos h, if_pos h, decide_eq_false h.ne']
      rfl
    · rw [if_neg h, if_neg h, if_neg h, decide_eq_true (Nat.eq_zero_of_not_pos h)]
      rfl

theorem assignToken_eq (quota : Nat → Nat) (shared : Nat) (t : SepTok) (words : List Nat) :
    assignToken quota shared t words =
      ((t.picks.foldl (t.take quota) ([], words, 0)).1 ++ (List.range shared).map (fun i => (recordWord i 2 0, 0x3F800000)),
        (t.picks.foldl (t.take quota) ([], words, 0)).2) := by
  rw [show t.take quota = fun acc p => _ from funext fun acc => funext fun p => t.take_eq quota acc p]
  rfl

/-- All picks, which name distinct experts with words in the vector. -/
theorem SepTok.takeAll (t : SepTok) (quota : Nat → Nat) (ps : List (Nat × Nat)) (out : List (Nat × Nat)) (words : List Nat)
    (n : Nat) (hd : (ps.map (·.1)).Nodup) (hin : ∀ p ∈ ps, p.1 < words.length) :
    let r := ps.foldl (t.take quota) (out, words, n)
    r.1 = out ++ ps.map (fun p => t.entryOf quota (words.getD p.1 0) p) ∧ r.2.1.length = words.length ∧
      (∀ x, r.2.1.getD x 0 = if x ∈ ps.map (·.1) then t.wordOf (words.getD x 0) else words.getD x 0) ∧
      r.2.2 = n + (ps.filter fun p => t.skips (words.getD p.1 0)).length := by
  induction ps generalizing out words n with
  | nil => simp
  | cons p ps ih =>
    rw [List.map_cons, List.nodup_cons] at hd
    obtain ⟨hp, hd⟩ := hd
    have hlen := hin p (.head _)
    have hother : ∀ x, x ≠ p.1 → (words.set p.1 (t.wordOf (words.getD p.1 0))).getD x 0 = words.getD x 0 := fun x hx => by
      rw [List.getD_eq_getElem?_getD, List.getElem?_set_ne hx.symm,
        List.getD_eq_getElem?_getD]
    have hrest : ∀ q ∈ ps, (words.set p.1 (t.wordOf (words.getD p.1 0))).getD q.1 0 = words.getD q.1 0 := fun q hq =>
      hother q.1 fun h => hp (h ▸ List.mem_map_of_mem hq)
    have hsame : (words.set p.1 (t.wordOf (words.getD p.1 0))).getD p.1 0 = t.wordOf (words.getD p.1 0) := by
      rw [List.getD_eq_getElem?_getD, List.getElem?_set_self hlen]
      rfl
    obtain ⟨h1, h2, h3, h4⟩ := ih (out ++ [t.entryOf quota (words.getD p.1 0) p])
      (words.set p.1 (t.wordOf (words.getD p.1 0))) (n + (t.skips (words.getD p.1 0)).toNat) hd
      (fun q hq => by rw [List.length_set]; exact hin q (.tail _ hq))
    intro r
    have hr : r = ps.foldl (t.take quota) (out ++ [t.entryOf quota (words.getD p.1 0) p],
      words.set p.1 (t.wordOf (words.getD p.1 0)), n + (t.skips (words.getD p.1 0)).toNat) := rfl
    rw [hr]
    refine ⟨?_, h2.trans List.length_set, fun x => ?_, ?_⟩
    · rw [h1, List.append_assoc, List.map_cons]
      refine congrArg (fun l => out ++ (_ :: l)) (List.map_congr_left fun q hq => ?_)
      rw [hrest q hq]
    · rw [h3, List.map_cons]
      by_cases hx : x = p.1
      · subst hx
        rw [if_neg hp, if_pos (.head _), hsame]
      · rw [hother x hx]
        exact if_congr (by simp [hx]) rfl rfl
    · rw [h4, List.filter_congr fun q hq => congrArg t.skips (hrest q hq), List.filter_cons]
      cases t.skips (words.getD p.1 0)
      · simp
      · simp
        omega

end Sys2Proof.Machine

namespace Sys2Proof

open Machine

/-- Settles O24: how the Separator ranks, and how the capacity stage takes picks. -/
theorem separatorRankingAndCapacity : Obligations.SeparatorRankingAndCapacity := by
  unfold Obligations.SeparatorRankingAndCapacity
  refine ⟨fun k ss hn => ?_, fun quota shared t words hd hin => ?_⟩
  · intro b before
    obtain ⟨hlen, hown, hpair, hothers⟩ := bestOf_effect k hn
    exact ⟨hlen, hown, hpair, hothers, rfl, rfl, rfl, fun _ _ => rfl, by decide, by decide⟩
  · intro r
    have hr : r = _ := assignToken_eq quota shared t words
    obtain ⟨h1, h2, h3, h4⟩ := t.takeAll quota t.picks [] words 0 hd hin
    rw [hr]
    refine ⟨?_, h2, fun x _ => ?_, ?_⟩
    · rw [h1]
      rfl
    · rw [h3 x]
      unfold SepTok.wordOf
      cases t.degenerate with
      | true => simp
      | false => by_cases hx : x ∈ t.picks.map (·.1) <;> simp [hx]
    · rw [h4, Nat.zero_add]
      rfl

end Sys2Proof
end

section
/-! SUPPORT. Writes of the control space (chapter 19, R413 to R421). -/

-- One proof at a time: each thread that elaborates beside the others reserves its stack.
set_option Elab.async false

namespace Sys2Proof.Machine

open Sys2Proof

variable {s : State} {d e : Dev} {k : Clock} {m : Master} {p : Page} {same : Bool} {page off v : Nat}

/-! ### Fields of a register -/

/-- The fields of a block are no common ones, have at most 64 copies, and are distinct. -/
theorem Blk.flds_own (b : Blk) (hb : b ≠ .common) :
    (b.flds.all fun f => decide (f.row.blk ≠ .common) && decide (f.row.count ≤ 64)) = true ∧ b.flds.Nodup := by
  cases b <;> first | exact absurd rfl hb | exact ⟨by decide +kernel, by decide +kernel⟩

/-- Of a choice of pages, both sides. -/
theorem Page.all_of_ite {Q : Page → Prop} {c : Prop} [Decidable c] {q : Page} {y : Option Page} (hx : Q q)
    (hy : ∀ p ∈ y, Q p) : ∀ p ∈ (if c then some q else y), Q p := by
  split
  · exact fun _ hp => Option.some.inj hp ▸ hx
  · exact hy

theorem Dev.page_own (d : Dev) (page : Nat) : ∀ p ∈ d.page page, p.blk ≠ .common ∧ p.inst ≤ p.idx := by
  unfold Dev.page
  repeat refine Page.all_of_ite ⟨nofun, by dsimp only; omega⟩ ?_
  exact nofun

/-- A page whose registers' fields are its own. -/
structure Page.Sound (p : Page) : Prop where
  own : p.blk ≠ .common
  idx : p.idx < 128
  inst : p.inst < 128

theorem Dev.page_sound {d : Dev} {page : Nat} {p : Page} (h : d.page page = some p) : p.Sound := by
  obtain ⟨hb, hi⟩ := d.page_own page p h
  have hx := d.page_idx page p h
  exact ⟨hb, hx, Nat.lt_of_le_of_lt hi hx⟩

theorem Dev.openPage_sound {d : Dev} {page : Nat} (h : d.openPage page m = some p) : p.Sound :=
  Dev.page_sound (Option.filter_eq_some_iff.mp h).1

/-- What holds of a field of a register below the common ones. -/
theorem Page.Sound.field (hp : p.Sound) (ho : off < 0x1F00) {x : Fld × Nat} (hx : x ∈ p.fields off) :
    x.1.row.blk ≠ .common ∧ p.instOf x.1 < 128 ∧ x.2 < 64 := by
  unfold Page.fields at hx
  rw [if_neg (by omega)] at hx
  obtain ⟨f, hf, hfx⟩ := List.mem_filterMap.mp hx
  obtain ⟨i, hi, rfl⟩ := Option.map_eq_some_iff.mp hfx
  have hlt := List.mem_range.mp (List.mem_of_find?_eq_some hi)
  have hown := List.all_eq_true.mp (Blk.flds_own p.blk hp.own).1 f hf
  rw [Bool.and_eq_true, decide_eq_true_eq, decide_eq_true_eq] at hown
  refine ⟨hown.1, ?_, Nat.lt_of_lt_of_le hlt hown.2⟩
  unfold Page.instOf
  rw [if_neg hown.1]
  split
  · decide
  · exact hp.inst

/-- The fields that a list of fields has in a register stand in it in that order. -/
theorem map_fst_fields_sublist (g : Fld → Option Nat) (l : List Fld) :
    ((l.filterMap fun f => (g f).map fun i => (f, i)).map (·.1)).Sublist l := by
  induction l with
  | nil => exact List.Sublist.slnil
  | cons f l ih =>
    rw [List.filterMap_cons]
    cases g f with
    | none => exact ih.cons f
    | some i => exact ih.cons_cons f

theorem Page.Sound.nodup (hp : p.Sound) (ho : off < 0x1F00) : ((p.fields off).map (·.1)).Nodup := by
  unfold Page.fields
  rw [if_neg (by omega)]
  exact (map_fst_fields_sublist _ _).nodup (Blk.flds_own p.blk hp.own).2

/-! ### Writing the fields of a register -/

/-- What a field holds after a write of a word to it (R415, R417). -/
def Dev.fieldAfter (d : Dev) (p : Page) (guarded : Bool) (v : Nat) (x : Fld × Nat) : Nat :=
  let old := d.rd x.1 (p.instOf x.1) x.2
  let new := bitRange v x.1.row.hi x.1.row.lo
  let mine := !d.updated.contains (regKey x.1 (p.instOf x.1) x.2)
  match x.1.row.access with
  | .rw => if mine then new else old
  | .wg => if guarded then new else old
  | .w1c => if mine then (old - (old &&& new)) % 2 ^ x.1.width else old
  | _ => old

theorem bitRange_lt (v hi lo : Nat) : bitRange v hi lo < 2 ^ (hi + 1 - lo) := Nat.mod_lt _ (Nat.two_pow_pos _)

theorem Dev.rd_writeField_same (d : Dev) (p : Page) (guarded : Bool) (v : Nat) (x : Fld × Nat) :
    (d.writeField p guarded v x.1 x.2).rd x.1 (p.instOf x.1) x.2 = d.fieldAfter p guarded v x := by
  have hnew : ∀ i j, (d.wr x.1 (bitRange v x.1.row.hi x.1.row.lo) i j).rd x.1 i j = bitRange v x.1.row.hi x.1.row.lo :=
    fun i j => (Dev.rd_wr_same ..).trans (Nat.mod_eq_of_lt (bitRange_lt ..))
  unfold Dev.writeField Dev.fieldAfter
  dsimp only
  cases x.1.row.access with
  | rw => dsimp only; split <;> simp only [hnew]
  | wg => dsimp only; split <;> simp only [hnew]
  | w1c => dsimp only; split <;> simp only [Dev.rd_wr_same]
  | ro => rfl
  | v3 => rfl

/-- A write of a field changes registers only, and of them that field only. -/
theorem Dev.writeField_rest (d : Dev) (p : Page) (guarded : Bool) (v : Nat) (f : Fld) (i : Nat) :
    ∃ r, d.writeField p guarded v f i = { d with regs := r } ∧ ∀ g a b, regKey g a b ≠ regKey f (p.instOf f) i →
      Sparse.get r g.row.reset (regKey g a b) = d.rd g a b := by
  have hwr : ∀ n, ∃ r, d.wr f n (p.instOf f) i = { d with regs := r } ∧ ∀ g a b, regKey g a b ≠ regKey f (p.instOf f) i →
      Sparse.get r g.row.reset (regKey g a b) = d.rd g a b := fun n =>
    ⟨_, rfl, fun g a b h => d.rd_wr_other f g n (p.instOf f) i a b h⟩
  have hsame : ∃ r, d = { d with regs := r } ∧ ∀ g a b, regKey g a b ≠ regKey f (p.instOf f) i →
      Sparse.get r g.row.reset (regKey g a b) = d.rd g a b := ⟨d.regs, rfl, fun _ _ _ _ => rfl⟩
  unfold Dev.writeField
  dsimp only
  split
  · split
    · exact hwr _
    · exact hsame
  · split
    · exact hwr _
    · exact hsame
  · split
    · exact hwr _
    · exact hsame
  · exact hsame

/-- `e` is `d` after a write of a word to fields. -/
structure Dev.Writes (d e : Dev) (p : Page) (guarded : Bool) (fs : List (Fld × Nat)) (v : Nat) : Prop where
  rest : e = { d with regs := e.regs }
  written : ∀ x ∈ fs, e.rd x.1 (p.instOf x.1) x.2 = d.fieldAfter p guarded v x
  other : ∀ f i j, f ∉ fs.map (·.1) → i < 128 → j < 64 → e.rd f i j = d.rd f i j

theorem Dev.writes_writeFields (d : Dev) (p : Page) (guarded : Bool) (fs : List (Fld × Nat)) (v : Nat)
    (hd : (fs.map (·.1)).Nodup) (hb : ∀ x ∈ fs, p.instOf x.1 < 128 ∧ x.2 < 64) :
    d.Writes (d.writeFields p guarded fs v) p guarded fs v := by
  induction fs generalizing d with
  | nil => exact ⟨rfl, nofun, fun _ _ _ _ _ _ => rfl⟩
  | cons x fs ih =>
    rw [List.map_cons, List.nodup_cons] at hd
    obtain ⟨hx, hd⟩ := hd
    obtain ⟨hi, hj⟩ := hb x (.head _)
    have hsame := d.rd_writeField_same p guarded v x
    obtain ⟨r, hr, hother⟩ := d.writeField_rest p guarded v x.1 x.2
    have hrd : ∀ g a b, g ≠ x.1 → a < 128 → b < 64 → Dev.rd { d with regs := r } g a b = d.rd g a b := fun g a b hg ha hb' =>
      hother g a b fun he => hg (Fld.num_inj (regKey_inj ha hi hb' hj he).1)
    have h := ih (d.writeField p guarded v x.1 x.2) hd fun y hy => hb y (.tail _ hy)
    change d.Writes ((d.writeField p guarded v x.1 x.2).writeFields p guarded fs v) p guarded (x :: fs) v
    generalize (d.writeField p guarded v x.1 x.2).writeFields p guarded fs v = e at h
    rw [hr] at h hsame
    refine ⟨h.rest, fun y hy => ?_, fun f i j hf hi' hj' => ?_⟩
    · rcases List.mem_cons.mp hy with rfl | hy
      · exact (h.other y.1 _ _ hx hi hj).trans hsame
      · obtain ⟨hyi, hyj⟩ := hb y (.tail _ hy)
        have hne : y.1 ≠ x.1 := fun he => hx (he ▸ List.mem_map_of_mem hy)
        refine (h.written y hy).trans ?_
        unfold Dev.fieldAfter
        rw [hrd y.1 _ _ hne hyi hyj]
    · rw [List.map_cons, List.mem_cons, not_or] at hf
      exact (h.other f i j hf.2 hi' hj').trans (hrd f i j hf.1 hi' hj')

/-! ### The bookkeeping of a write -/

theorem Dev.rd_wr_at (d : Dev) {f g : Fld} {i : Nat} (v : Nat) (h : g.num ≠ f.num) (hi : i < 128) :
    (d.wr f v i).rd g i = d.rd g i :=
  d.rd_wr_num f g v i 0 i 0 h hi hi (by decide) (by decide)

/-- A page records a write: its offset, its master and its result. -/
def Page.Noted (p : Page) (t : Dev) (m : Master) (off result : Nat) : Prop :=
  t.rd .blkLwOffset p.idx = off ∧ t.rd .blkLwMaster p.idx = m.code ∧ t.rd .blkLwResult p.idx = result

theorem Dev.noteLast_eq (d : Dev) (p : Page) (w : MasterWrite) (winner : Master) {result : Nat} (h : result ≠ 2) :
    d.noteLast p w result winner = (((d.wr .blkLwOffset w.off p.idx).wr .blkLwMaster w.master.code p.idx).wr
      .blkLwResult result p.idx).wr .blkLwWinner winner.code p.idx := if_neg h

theorem Dev.noted_noteLast (d : Dev) (hp : p.idx < 128) {result : Nat} {whole : Bool} (ho : off < 65536) (hr : result < 4)
    (hn : result ≠ 2) : p.Noted (d.noteLast p ⟨m, page, off, v, whole⟩ result m) m off result := by
  have hm : m.code < 4 := by cases m <;> decide
  rw [Dev.noteLast_eq d p _ m hn]
  refine ⟨?_, ?_, ?_⟩
  · rw [Dev.rd_wr_at _ _ (by decide) hp, Dev.rd_wr_at _ _ (by decide) hp, Dev.rd_wr_at _ _ (by decide) hp, Dev.rd_wr_same]
    exact Nat.mod_eq_of_lt ho
  · rw [Dev.rd_wr_at _ _ (by decide) hp, Dev.rd_wr_at _ _ (by decide) hp, Dev.rd_wr_same]
    exact Nat.mod_eq_of_lt hm
  · rw [Dev.rd_wr_at _ _ (by decide) hp, Dev.rd_wr_same]
    exact Nat.mod_eq_of_lt hr

/-- A page records an error of its guard sequences (R420). -/
def Page.Erred (p : Page) (d t : Dev) (cause : Nat) : Prop :=
  t.rd .blkGuardSeqErr p.idx = 1 ∧ (d.rd .blkGuardSeqErr p.idx = 0 → t.rd .blkGuardCause p.idx = cause)

theorem Dev.guardError_erred (d : Dev) (hp : p.idx < 128) {cause : Nat} (hc : cause < 8) (m by_ : Master) (off : Nat) :
    p.Erred d (d.guardError p cause m by_ off) cause := by
  have hset : ((d.flag .blkGuardSeqErr p.idx).bump .blkGuardCount 1 p.idx).rd .blkGuardSeqErr p.idx = 1 :=
    (Dev.rd_wr_at _ _ (by decide) hp).trans (Dev.rd_wr_same d .blkGuardSeqErr 1 p.idx 0 :)
  unfold Dev.guardError Page.Erred
  dsimp only
  split
  · refine ⟨?_, fun _ => ?_⟩
    · rw [Dev.rd_wr_at _ _ (by decide) hp, Dev.rd_wr_at _ _ (by decide) hp, Dev.rd_wr_at _ _ (by decide) hp,
        Dev.rd_wr_at _ _ (by decide) hp, hset]
    · rw [Dev.rd_wr_at _ _ (by decide) hp, Dev.rd_wr_at _ _ (by decide) hp, Dev.rd_wr_at _ _ (by decide) hp, Dev.rd_wr_same]
      exact Nat.mod_eq_of_lt hc
  · next h => exact ⟨hset, fun h0 => absurd h0 h⟩

theorem Dev.records_guardError (d : Dev) (hp : p.idx < 128) (cause : Nat) (m by_ : Master) (off : Nat) :
    d.Records (d.guardError p cause m by_ off) := by
  have hset : d.Records ((d.flag .blkGuardSeqErr p.idx).bump .blkGuardCount 1 p.idx) :=
    (d.records_flag rfl hp).trans (Dev.records_wr _ (f := .blkGuardCount) _ rfl hp)
  unfold Dev.guardError
  dsimp only
  split
  · exact (((hset.trans (Dev.records_wr _ (f := .blkGuardCause) _ rfl hp)).trans
      (Dev.records_wr _ (f := .blkGuardMaster) _ rfl hp)).trans (Dev.records_wr _ (f := .blkGuardBy) _ rfl hp)).trans
      (Dev.records_wr _ (f := .blkGuardOffset) _ rfl hp)
  · exact hset

theorem Dev.ctl_guardError (d : Dev) (p : Page) (cause : Nat) (m by_ : Master) (off : Nat) :
    (d.guardError p cause m by_ off).ctl = d.ctl := by
  unfold Dev.guardError
  dsimp only
  split <;> rfl

theorem Dev.Records.books (d : Dev) {c : Ctl} {u : List Nat} : d.Records { d with ctl := c, updated := u } :=
  ⟨rfl, fun _ _ _ _ _ _ => rfl⟩

theorem Dev.records_expireGuard (d : Dev) (k : Clock) (page : Nat) (hp : p.idx < 128) :
    d.Records (d.expireGuard k page p) := by
  unfold Dev.expireGuard
  split
  · exact .books d
  · split
    · exact (Dev.Records.books d).trans (Dev.records_guardError (d.closeGuard page) hp ..)
    · exact .books d

theorem Dev.records_breakGuard (d : Dev) (page : Nat) (hp : p.idx < 128) (m : Master) :
    d.Records (d.breakGuard page p m) := by
  unfold Dev.breakGuard
  split
  · exact .books d
  · split
    · exact (Dev.Records.books d).trans (Dev.records_guardError (d.closeGuard page) hp ..)
    · exact .books d

/-- The device as a write finds it: an open sequence that has run out has ended, and the write is noted. -/
def State.found (s : State) (m : Master) (same : Bool) (page off : Nat) (p : Page) : Dev :=
  if (s.dev.openGuard page).any fun g => g.cc + 257 = (s.writeClock m same page).cc
  then ((s.dev.expireGuard (s.writeClock m same page) page p).noteWriteNow (s.writeClock m same page)
    ⟨page, countedBase off, m⟩).noteUpdate .blkGuardSeqErr p.idx
  else (s.dev.expireGuard (s.writeClock m same page) page p).noteWriteNow (s.writeClock m same page) ⟨page, countedBase off, m⟩

theorem State.records_found (s : State) (m : Master) (same : Bool) (page off : Nat) (hp : p.idx < 128) :
    s.dev.Records (s.found m same page off p) := by
  have h := (s.dev.records_expireGuard (s.writeClock m same page) page hp).trans (Dev.Records.books
    (s.dev.expireGuard (s.writeClock m same page) page p)
    (c := ((s.dev.expireGuard (s.writeClock m same page) page p).noteWriteNow (s.writeClock m same page)
      ⟨page, countedBase off, m⟩).ctl)
    (u := ((s.dev.expireGuard (s.writeClock m same page) page p).noteWriteNow (s.writeClock m same page)
      ⟨page, countedBase off, m⟩).updated))
  unfold State.found
  split
  · exact h.trans (.books _)
  · exact h

theorem Dev.Records.sec {d e : Dev} (h : d.Records e) : e.sec = d.sec := by rw [h.rest]

/-- A write that reaches its page. -/
theorem State.WriteReaches.masterWrite_found (h : s.WriteReaches m same page off p) (whole : Bool) :
    s.dev.masterWrite (s.writeClock m same page) ⟨m, page, off, v, whole⟩ =
      if whole then
        ((s.found m same page off p).handle (s.writeClock m same page) ⟨m, page, off, v, whole⟩ p).1.noteLast p
          ⟨m, page, off, v, whole⟩
          ((s.found m same page off p).handle (s.writeClock m same page) ⟨m, page, off, v, whole⟩ p).2 m
      else (s.found m same page off p).noteLast p ⟨m, page, off, v, whole⟩ 1 m := by
  have hf : (s.dev.writesNow (s.writeClock m same page)).filter (fun x => x.page = page) = [] := h.fresh
  have hlock : (s.found m same page off p).lockStops ⟨m, page, off, v, true⟩ p = false := by
    have hsec := (s.records_found m same page off (Dev.openPage_idx h.opened)).sec
    have hfree := h.free v
    unfold Dev.lockStops at hfree ⊢
    rw [hsec]
    exact hfree
  unfold Dev.masterWrite
  dsimp only
  rw [h.opened]
  dsimp only
  rw [hf]
  simp only [List.isEmpty_nil, if_true, List.find?_nil]
  cases whole with
  | false => rfl
  | true =>
    simp only [Bool.not_true, Bool.false_eq_true, if_false, if_true]
    change (if (s.found m same page off p).lockStops ⟨m, page, off, v, true⟩ p = true then _ else _) = _
    rw [hlock]
    rfl

/-- The next state of a write that reaches its page and raises no report. -/
theorem State.write_found {whole : Bool} {x : Dev} {result : Nat} (h : s.WriteReaches m same page off p)
    (hw : s.dev.masterWrite (s.writeClock m same page) ⟨m, page, off, v, whole⟩ =
      x.noteLast p ⟨m, page, off, v, whole⟩ result m) (hsec : x.sec = s.dev.sec) :
    s.write same ⟨m, page, off, v, whole⟩ = .next { s with
      clk := s.writeClock m same page, dev := x.noteLast p ⟨m, page, off, v, whole⟩ result m } := by
  have hlast := (Dev.records_noteLast x (Dev.openPage_idx h.opened) ⟨m, page, off, v, whole⟩ result m).sec
  rw [State.write_eq h.clocked]
  dsimp only
  rw [hw, Dev.sendRaised_of_eq _ (congrArg Sec.reports (hlast.trans hsec))]

/-- Where no sequence is open, or one whose window has not ended, a write finds the device with the write noted. -/
theorem State.found_noted (p : Page)
    (hg : ∀ g, s.dev.openGuard page = some g → (s.writeClock m same page).cc ≤ g.cc + 256) :
    s.found m same page off p = s.noted m same page off := by
  have hexp : s.dev.expireGuard (s.writeClock m same page) page p = s.dev := by
    unfold Dev.expireGuard
    split
    · rfl
    · next g h => exact if_neg (Nat.not_lt.mpr (hg g h))
  have hend : ((s.dev.openGuard page).any fun g => g.cc + 257 = (s.writeClock m same page).cc) = false := by
    cases h : s.dev.openGuard page with
    | none => rfl
    | some g =>
      have hin := hg g h
      rw [Option.any_some, decide_eq_false_iff_not]
      omega
  unfold State.found
  rw [hend, hexp]
  rfl

theorem State.found_of_none (p : Page) (hg : s.dev.openGuard page = none) :
    s.found m same page off p = s.noted m same page off :=
  State.found_noted p fun g h => by rw [hg] at h; cases h

/-! ### What a write leaves -/

/-- Memories, cores and the job are as they were. -/
def Dev.Kept (d t : Dev) : Prop := t.mem = d.mem ∧ t.cores = d.cores ∧ t.job = d.job

/-- The fields of a register are as they were. -/
def Page.Ignored (p : Page) (d t : Dev) (off : Nat) : Prop := ∀ x ∈ p.fields off,
  t.rd x.1 (p.instOf x.1) x.2 = d.rd x.1 (p.instOf x.1) x.2

theorem Dev.Records.kept {t : Dev} (h : d.Records t) : d.Kept t := ⟨h.mem, h.cores, h.job⟩

theorem Dev.Records.ignored {t : Dev} (h : d.Records t) (hp : p.Sound) (ho : off < 0x1F00) : p.Ignored d t off := fun x hx => by
  obtain ⟨hb, hi, hj⟩ := hp.field ho hx
  exact h.rd x.1 _ _ hb hi hj

/-- The fields of a register hold what a write of a word leaves: those of an access the written bits, those that a 1
clears what it leaves of them, but for fields that the device has updated in the control cycle (R415 to R417). -/
def State.Stores (s : State) (m : Master) (same : Bool) (page : Nat) (p : Page) (t : Dev) (acc : Access) (off v : Nat) : Prop :=
  ∀ x ∈ p.fields off, p.holds x.1 = true →
    let old := s.dev.rd x.1 (p.instOf x.1) x.2
    let new := bitRange v x.1.row.hi x.1.row.lo
    t.rd x.1 (p.instOf x.1) x.2 =
      if x.1.row.access ≠ .wg ∧ regKey x.1 (p.instOf x.1) x.2 ∈ s.dev.updatesNow (s.writeClock m same page) then old
      else if x.1.row.access = acc then new
      else if x.1.row.access = .w1c then (old - (old &&& new)) % 2 ^ x.1.width else old

/-- The fields of a register that a page holds. -/
def Page.heldFields (p : Page) (off : Nat) : List (Fld × Nat) := (p.fields off).filter fun x => p.holds x.1

theorem Page.Sound.held_nodup (hp : p.Sound) (ho : off < 0x1F00) (q : Fld × Nat → Bool) :
    (((p.heldFields off).filter q).map (·.1)).Nodup :=
  (((List.filter_sublist.trans List.filter_sublist).map _).nodup (hp.nodup ho))

theorem Page.Sound.held_bounds (hp : p.Sound) (ho : off < 0x1F00) (q : Fld × Nat → Bool) :
    ∀ x ∈ (p.heldFields off).filter q, p.instOf x.1 < 128 ∧ x.2 < 64 := fun _ hx =>
  (hp.field ho (List.mem_filter.mp (List.mem_filter.mp hx).1).1).2

/-- A plain write of the fields of a register that the page holds. -/
theorem State.stores_plain {t : Dev} (hp : p.Sound) (ho : off < 0x1F00) (hrd : ∀ f i j, d.rd f i j = s.dev.rd f i j)
    (hu : d.updated = s.dev.updatesNow (s.writeClock m same page)) (ht : (d.writeFields p false (p.heldFields off) v).Records t) :
    s.Stores m same page p t .rw off v := by
  intro x hx hh old new
  have hin : x ∈ p.heldFields off := List.mem_filter.mpr ⟨hx, hh⟩
  have htrue := List.filter_true (p.heldFields off)
  have hw := d.writes_writeFields p false (p.heldFields off) v (htrue ▸ hp.held_nodup ho fun _ => true)
    (htrue ▸ hp.held_bounds ho fun _ => true)
  obtain ⟨hb, hi, hj⟩ := hp.field ho hx
  rw [ht.rd x.1 _ _ hb hi hj, hw.written x hin]
  unfold Dev.fieldAfter
  rw [hrd, hu]
  dsimp only
  have hmem : ∀ l : List Nat, (!l.contains (regKey x.1 (p.instOf x.1) x.2)) = true ↔ regKey x.1 (p.instOf x.1) x.2 ∉ l :=
    fun l => by simp
  by_cases hmine : regKey x.1 (p.instOf x.1) x.2 ∈ s.dev.updatesNow (s.writeClock m same page)
  · rw [if_neg fun h => (hmem _).mp h hmine, if_neg fun h => (hmem _).mp h hmine]
    cases hacc : x.1.row.access <;> simp [hmine, old]
  · rw [if_pos ((hmem _).mpr hmine), if_pos ((hmem _).mpr hmine)]
    cases hacc : x.1.row.access <;> simp [hmine, old, new]

/-- What a pair writes that has no effect of its own: the cleared fields, then those that pairs write. -/
def Dev.pairFields (d : Dev) (p : Page) (off v : Nat) : Dev :=
  (d.writeFields p true ((p.heldFields off).filter fun x => x.1.row.access = .w1c) v).writeFields p true
    ((p.heldFields off).filter fun x => x.1.row.access = .wg) v

theorem State.stores_pair {t : Dev} (hp : p.Sound) (ho : off < 0x1F00) (hrd : ∀ f i j, d.rd f i j = s.dev.rd f i j)
    (hu : d.updated = s.dev.updatesNow (s.writeClock m same page)) (ht : (d.pairFields p off v).Records t) :
    s.Stores m same page p t .wg off v := by
  intro x hx hh old new
  have hin : x ∈ p.heldFields off := List.mem_filter.mpr ⟨hx, hh⟩
  obtain ⟨hb, hi, hj⟩ := hp.field ho hx
  have h1 := d.writes_writeFields p true _ v (hp.held_nodup ho fun x => x.1.row.access = .w1c)
    (hp.held_bounds ho fun x => x.1.row.access = .w1c)
  have h2 := Dev.writes_writeFields (d.writeFields p true ((p.heldFields off).filter fun x => x.1.row.access = .w1c) v) p true _ v
    (hp.held_nodup ho fun x => x.1.row.access = .wg) (hp.held_bounds ho fun x => x.1.row.access = .wg)
  have hout : ∀ a, x.1.row.access ≠ a → x.1 ∉ ((p.heldFields off).filter fun x => x.1.row.access = a).map (·.1) := by
    intro a ha hmem
    obtain ⟨y, hy, hyx⟩ := List.mem_map.mp hmem
    exact ha (hyx ▸ of_decide_eq_true (List.mem_filter.mp hy).2)
  have hmem : ∀ l : List Nat, (!l.contains (regKey x.1 (p.instOf x.1) x.2)) = true ↔ regKey x.1 (p.instOf x.1) x.2 ∉ l :=
    fun l => by simp
  rw [ht.rd x.1 _ _ hb hi hj]
  unfold Dev.pairFields
  by_cases hwg : x.1.row.access = .wg
  · rw [h2.written x (List.mem_filter.mpr ⟨hin, decide_eq_true hwg⟩), Dev.fieldAfter]
    simp [hwg, new]
  · rw [h2.other x.1 _ _ (hout _ hwg) hi hj]
    by_cases hw1c : x.1.row.access = .w1c
    · rw [h1.written x (List.mem_filter.mpr ⟨hin, decide_eq_true hw1c⟩), Dev.fieldAfter, hrd, hu]
      rw [hw1c]
      by_cases hmine : regKey x.1 (p.instOf x.1) x.2 ∈ s.dev.updatesNow (s.writeClock m same page)
      · simp [hmine, old]
      · simp [hmine, old, new]
    · rw [h1.other x.1 _ _ (hout _ hw1c) hi hj, hrd]
      simp [hwg, hw1c, old]

/-! ### Plain writes and alias writes -/

/-- Whether a write is let in does not rest on the registers. -/
theorem Dev.allowsWrite_regs {e : Dev} {r : RegFile} {c : Ctl} {u : List Nat}
    (h : e = { d with regs := r, ctl := c, updated := u }) (b : Blk) (off v : Nat) :
    e.allowsWrite b off v = d.allowsWrite b off v := by
  unfold Dev.allowsWrite Dev.idleUnlent
  rw [h]

theorem Dev.allowsWrite_records {e : Dev} (h : d.Records e) (b : Blk) (off v : Nat) :
    e.allowsWrite b off v = d.allowsWrite b off v := Dev.allowsWrite_regs h.rest b off v

/-- Whether a register has an effect of its own is a matter of its page and offset. -/
theorem Dev.plainEffect_isSome (d e : Dev) (k : Clock) (p : Page) (off v : Nat) :
    (d.plainEffect k p off v).isSome = (e.plainEffect k p off v).isSome := by
  unfold Dev.plainEffect
  split <;> simp

theorem Dev.plainEffect_none (h : d.plainEffect k p off v = none) (e : Dev) : e.plainEffect k p off v = none := by
  have hs := d.plainEffect_isSome e k p off v
  rw [h] at hs
  exact Option.not_isSome_iff_eq_none.mp (hs ▸ Bool.false_ne_true)

/-- A plain write that does no more than store. -/
theorem Dev.writePlain_stores (ho : off < 0x1F00) (ht : takesWrite false (p.heldFields off) = true)
    (ha : d.allowsWrite p.blk off v = true) (he : d.plainEffect k p off v = none) :
    d.writePlain k m page p off v = ((d.writeFields p false (p.heldFields off) v).noteLaunch k p.blk off, true) := by
  unfold Dev.writePlain
  rw [if_neg (by omega)]
  unfold Page.heldFields at ht ⊢
  dsimp only
  rw [ht, ha, he]
  rfl

/-- A plain write that is ignored. -/
theorem Dev.writePlain_ignored (ho : off < 0x1F00)
    (h : takesWrite false (p.heldFields off) = false ∨ d.allowsWrite p.blk off v = false) :
    d.writePlain k m page p off v = (d, false) := by
  unfold Dev.writePlain
  rw [if_neg (by omega)]
  unfold Page.heldFields at h
  dsimp only
  rw [if_pos]
  rcases h with h | h
  · rw [h]; rfl
  · rw [h, Bool.not_false, Bool.or_true]

theorem Dev.records_noteLaunch (d : Dev) (k : Clock) (b : Blk) (off : Nat) : d.Records (d.noteLaunch k b off) := by
  unfold Dev.noteLaunch
  split <;> exact .books _

theorem State.noted_reads (s : State) (m : Master) (same : Bool) (page off : Nat) :
    s.dev.Records (s.noted m same page off) ∧ (∀ f i j, (s.noted m same page off).rd f i j = s.dev.rd f i j) ∧
      (s.noted m same page off).updated = s.dev.updatesNow (s.writeClock m same page) :=
  ⟨.books _, fun _ _ _ => rfl, rfl⟩

/-- The end of a write that a handler has taken. -/
theorem State.write_handled {x : Dev} {result : Nat} (h : s.WriteReaches m same page off p)
    (hh : (s.found m same page off p).handle (s.writeClock m same page) ⟨m, page, off, v, true⟩ p = (x, result))
    (hsec : x.sec = s.dev.sec) :
    s.write same ⟨m, page, off, v, true⟩ = .next { s with
      clk := s.writeClock m same page, dev := x.noteLast p ⟨m, page, off, v, true⟩ result m } := by
  refine State.write_found h ?_ hsec
  rw [h.masterWrite_found, hh, if_pos rfl]

/-- A write of a part of a word, or to an unaligned offset, is noted and ignored. -/
theorem State.write_part (h : s.WriteReaches m same page off p) : s.write same ⟨m, page, off, v, false⟩ = .next { s with
    clk := s.writeClock m same page
    dev := (s.found m same page off p).noteLast p ⟨m, page, off, v, false⟩ 1 m } := by
  refine State.write_found h ?_ (s.records_found m same page off (Dev.openPage_idx h.opened)).sec
  rw [h.masterWrite_found]
  exact if_neg Bool.false_ne_true

section Stored
variable (h : s.WriteReaches m same page off p) (hg : s.dev.openGuard page = none)
include h hg

/-- A write that a handler has made a plain one of a register that only stores. -/
theorem State.write_stores {reg w : Nat} (hreg : reg < 0x1F00) (hoff : off < 65536)
    (hh : (s.noted m same page off).handle (s.writeClock m same page) ⟨m, page, off, v, true⟩ p =
      (((s.noted m same page off).writePlain (s.writeClock m same page) m page p reg w).1,
        if ((s.noted m same page off).writePlain (s.writeClock m same page) m page p reg w).2 then 0 else 1))
    (ht : takesWrite false (p.heldFields reg) = true) (ha : s.dev.allowsWrite p.blk reg w = true)
    (he : s.dev.plainEffect (s.writeClock m same page) p reg w = none) :
    ∃ t, s.write same ⟨m, page, off, v, true⟩ = .next { s with clk := s.writeClock m same page, dev := t } ∧
      s.Stores m same page p t .rw reg w ∧ p.Noted t m off 0 ∧ s.dev.Kept t := by
  have hp := Dev.openPage_sound h.opened
  obtain ⟨hrec, hrd, hu⟩ := s.noted_reads m same page off
  have hfound : (s.found m same page off p).handle (s.writeClock m same page) ⟨m, page, off, v, true⟩ p =
      (((s.noted m same page off).writeFields p false (p.heldFields reg) w).noteLaunch (s.writeClock m same page) p.blk reg,
        0) := by
    rw [State.found_of_none p hg, hh,
      Dev.writePlain_stores hreg ht ((Dev.allowsWrite_records hrec ..).trans ha) (Dev.plainEffect_none he _)]
    rfl
  have hw := Dev.writes_writeFields (s.noted m same page off) p false (p.heldFields reg) w
    (List.filter_true (p.heldFields reg) ▸ hp.held_nodup hreg fun _ => true)
    (List.filter_true (p.heldFields reg) ▸ hp.held_bounds hreg fun _ => true)
  have hkeep : s.dev.Kept ((s.noted m same page off).writeFields p false (p.heldFields reg) w) ∧
      ((s.noted m same page off).writeFields p false (p.heldFields reg) w).sec = s.dev.sec := by
    rw [hw.rest]
    exact ⟨⟨rfl, rfl, rfl⟩, rfl⟩
  have hl := ((s.noted m same page off).writeFields p false (p.heldFields reg) w).records_noteLaunch
    (s.writeClock m same page) p.blk reg
  have hlast := hl.trans (Dev.records_noteLast _ hp.idx ⟨m, page, off, v, true⟩ 0 m)
  refine ⟨_, State.write_handled h hfound (hl.sec.trans hkeep.2), State.stores_plain hp hreg hrd hu hlast,
    Dev.noted_noteLast _ hp.idx hoff (by decide) (by decide), ?_⟩
  obtain ⟨hm, hc, hj⟩ := hkeep.1
  exact ⟨hlast.mem.trans hm, hlast.cores.trans hc, hlast.job.trans hj⟩

/-- A write that a handler has ignored. -/
theorem State.write_ignored {reg : Nat} (hreg : reg < 0x1F00) (hoff : off < 65536)
    (hh : (s.noted m same page off).handle (s.writeClock m same page) ⟨m, page, off, v, true⟩ p = (s.noted m same page off, 1)) :
    ∃ t, s.write same ⟨m, page, off, v, true⟩ = .next { s with clk := s.writeClock m same page, dev := t } ∧
      p.Ignored s.dev t reg ∧ p.Noted t m off 1 ∧ s.dev.Kept t := by
  have hp := Dev.openPage_sound h.opened
  have hrec := (s.noted_reads m same page off).1
  have hlast := hrec.trans (Dev.records_noteLast _ hp.idx ⟨m, page, off, v, true⟩ 1 m)
  rw [← State.found_of_none p hg] at hh
  refine ⟨_, State.write_handled h hh ?_, ?_, Dev.noted_noteLast _ hp.idx hoff (by decide) (by decide), ?_⟩
  · rw [State.found_of_none p hg]
    exact hrec.sec
  · rw [State.found_of_none p hg]
    exact hlast.ignored hp hreg
  · rw [State.found_of_none p hg]
    exact hlast.kept

omit hg in
theorem State.write_partly {reg : Nat} (hreg : reg < 0x1F00) (hoff : off < 65536) :
    ∃ t, s.write same ⟨m, page, off, v, false⟩ = .next { s with clk := s.writeClock m same page, dev := t } ∧
      p.Ignored s.dev t reg ∧ p.Noted t m off 1 ∧ s.dev.Kept t := by
  have hp := Dev.openPage_sound h.opened
  have hlast := (s.records_found m same page off hp.idx).trans
    (Dev.records_noteLast _ hp.idx ⟨m, page, off, v, false⟩ 1 m)
  exact ⟨_, State.write_part h, hlast.ignored hp hreg, Dev.noted_noteLast _ hp.idx hoff (by decide) (by decide), hlast.kept⟩

end Stored

/-- What the fields that software writes hold does not rest on the writes of the control cycle. -/
theorem State.rwBits_noted (s : State) (m : Master) (same : Bool) (page off : Nat) (k : Clock) (p : Page) (reg : Nat) :
    (s.noted m same page off).rwBits k m page p reg = s.dev.rwBits k m page p reg := rfl

/-- A write to an alias of a register, with no sequence open. -/
theorem State.handle_alias {a base : Nat} (hg : s.dev.openGuard page = none) (ha : a = 1 ∨ a = 2 ∨ a = 3) (hb : base < 0x1F00) :
    (s.noted m same page (a * 0x4000 + base)).handle (s.writeClock m same page) ⟨m, page, a * 0x4000 + base, v, true⟩ p =
      (((s.noted m same page (a * 0x4000 + base)).writeAlias (s.writeClock m same page) m page p a base v).1,
        if ((s.noted m same page (a * 0x4000 + base)).writeAlias (s.writeClock m same page) m page p a base v).2
        then 0 else 1) := by
  have hreg : (a * 0x4000 + base) % 0x4000 = base := by omega
  have halias : aliasOf (a * 0x4000 + base) = a := by unfold aliasOf; omega
  have hbreak : (s.noted m same page (a * 0x4000 + base)).breakGuard page p m = s.noted m same page (a * 0x4000 + base) := by
    unfold Dev.breakGuard
    rw [show (s.noted m same page (a * 0x4000 + base)).openGuard page = none from hg]
  have hc : (decide (0x1F00 ≤ base) && decide (base < 0x2000)) = false := by simp; omega
  unfold Dev.handle
  simp only [hreg, halias, hc, hbreak, Bool.false_eq_true, if_false]
  exact if_pos (by omega)

/-- The word that an alias write makes a plain write of, and the bits that it can change. -/
def Dev.aliasWord (d : Dev) (k : Clock) (m : Master) (page : Nat) (p : Page) (a base v : Nat) : Nat :=
  aliasValue a (d.rwBits k m page p base).1 v &&& (d.rwBits k m page p base).2

theorem Dev.writeAlias_eq {a base : Nat} (hb : base < 0x1F00) : d.writeAlias k m page p a base v =
    if (d.rwBits k m page p base).2 = 0 then (d, false) else d.writePlain k m page p base (d.aliasWord k m page p a base v) := by
  unfold Dev.writeAlias Dev.aliasWord
  dsimp only
  by_cases h : (d.rwBits k m page p base).2 = 0
  · rw [if_pos h, h]
    exact if_pos (by simp)
  · rw [if_neg h]
    refine if_neg ?_
    rw [Bool.or_eq_true, decide_eq_true_eq, decide_eq_true_eq]
    omega

/-- A register with bits that software writes takes writes. -/
theorem Dev.takesWrite_of_rwBits {base : Nat} (h : (d.rwBits k m page p base).2 ≠ 0) :
    takesWrite false (p.heldFields base) = true := by
  unfold takesWrite
  by_contra hn
  apply h
  have hno : (p.fields base).filter (fun x => x.1.row.access = .rw && p.holds x.1) = [] := by
    refine List.filter_eq_nil_iff.mpr fun x hx hb => hn (List.any_eq_true.mpr ⟨x, ?_, ?_⟩)
    · exact List.mem_filter.mpr ⟨hx, (Bool.and_eq_true_iff.mp hb).2⟩
    · rw [(Bool.and_eq_true_iff.mp hb).1]
      rfl
  unfold Dev.rwBits
  dsimp only
  rw [hno]
  rfl

/-! ### Guarded pairs -/

theorem Dev.records_stageGuard (d : Dev) (g : Guard) : d.Records (d.stageGuard g) := ⟨rfl, fun _ _ _ _ _ _ => rfl⟩

theorem Dev.records_stage (d : Dev) (k : Clock) (w : MasterWrite) (hp : p.idx < 128) : d.Records (d.stage k w p) := by
  unfold Dev.stage
  dsimp only
  refine Dev.Records.trans ?_ (Dev.records_stageGuard _ _)
  split
  · split
    · exact d.records_guardError hp ..
    · exact .books d
  · exact .books d

theorem Dev.openGuard_stageGuard (d : Dev) (g : Guard) : (d.stageGuard g).openGuard g.page = some g := by
  unfold Dev.openGuard Dev.stageGuard Dev.closeGuard
  dsimp only
  have hno : (d.ctl.guards.filter fun x => decide (x.page ≠ g.page)).find? (fun x => x.page = g.page) = none := by
    refine List.find?_eq_none.mpr fun x hx hb => ?_
    exact of_decide_eq_true (List.mem_filter.mp hx).2 (of_decide_eq_true hb)
  rw [List.find?_append, hno, Option.none_or, List.find?_cons_of_pos (by simp)]

theorem Dev.openGuard_closeGuard (d : Dev) (page : Nat) : (d.closeGuard page).openGuard page = none := by
  unfold Dev.openGuard Dev.closeGuard
  refine List.find?_eq_none.mpr fun x hx hb => ?_
  exact of_decide_eq_true (List.mem_filter.mp hx).2 (of_decide_eq_true hb)

theorem Dev.openGuard_noteLast (d : Dev) (p : Page) (w : MasterWrite) (result : Nat) (winner : Master) (page : Nat) :
    (d.noteLast p w result winner).openGuard page = d.openGuard page := by
  unfold Dev.noteLast
  dsimp only
  split <;> rfl

theorem Dev.openGuard_guardError (d : Dev) (p : Page) (cause : Nat) (m by_ : Master) (off page : Nat) :
    (d.guardError p cause m by_ off).openGuard page = d.openGuard page :=
  congrArg (fun c : Ctl => c.guards.find? fun g : Guard => decide (g.page = page)) (d.ctl_guardError p cause m by_ off)

/-- A record of the last write leaves the record of errors. -/
theorem Page.Erred.noted {t : Dev} {cause : Nat} (h : p.Erred d t cause) (hp : p.idx < 128) (w : MasterWrite) (winner : Master)
    {result : Nat} (hr : result ≠ 2) : p.Erred d (t.noteLast p w result winner) cause := by
  obtain ⟨h1, h2⟩ := h
  rw [Dev.noteLast_eq t p w winner hr]
  unfold Page.Erred
  rw [Dev.rd_wr_at _ _ (by decide) hp, Dev.rd_wr_at _ _ (by decide) hp, Dev.rd_wr_at _ _ (by decide) hp,
    Dev.rd_wr_at _ _ (by decide) hp, Dev.rd_wr_at _ _ (by decide) hp, Dev.rd_wr_at _ _ (by decide) hp,
    Dev.rd_wr_at _ _ (by decide) hp, Dev.rd_wr_at _ _ (by decide) hp]
  exact ⟨h1, h2⟩

/-- The device once a value write has been taken. -/
def Dev.valued (d : Dev) (k : Clock) (p : Page) (m : Master) (page off v : Nat) : Dev :=
  (d.breakGuard page p m).stage k ⟨m, page, off, v, true⟩ p

/-- A value write of a guarded register is staged. -/
theorem Dev.handle_value (hp : p.guarded off = true) :
    d.handle k ⟨m, page, off, v, true⟩ p = (d.valued k p m page off v, 3) := by
  have hlt := Page.guarded_lt hp
  have hreg : off % 0x4000 = off := by omega
  have halias : aliasOf off = 0 := by unfold aliasOf; omega
  have hc : (decide (0x1F00 ≤ off) && decide (off < 0x2000)) = false := by simp; omega
  unfold Dev.handle
  simp only [hreg, halias, hc, hp, Bool.false_eq_true, if_false, ne_eq, not_true_eq_false, if_true]
  rfl

/-- What a value write leaves of the sequence that is open on the page, and the error that it is. -/
theorem Dev.valued_effect (d : Dev) (k : Clock) (hp : p.idx < 128) (m : Master) (page off v : Nat) :
    d.Records (d.valued k p m page off v) ∧
      (d.valued k p m page off v).openGuard page = some ⟨page, m, off, v, k.cc⟩ ∧
      match d.openGuard page with
      | none => (d.valued k p m page off v).regs = d.regs
      | some g => (g.master ≠ m → p.Erred d (d.valued k p m page off v) 3) ∧
        (g.master = m → g.off ≠ off → p.Erred d (d.valued k p m page off v) 5) := by
  refine ⟨(d.records_breakGuard page hp m).trans (Dev.records_stage _ k _ hp), Dev.openGuard_stageGuard .., ?_⟩
  cases hg : d.openGuard page with
  | none =>
    have hb : d.breakGuard page p m = d := by
      unfold Dev.breakGuard
      rw [hg]
    dsimp only
    unfold Dev.valued
    rw [hb]
    unfold Dev.stage
    dsimp only
    rw [hg]
    rfl
  | some g =>
    refine ⟨fun hm => ?_, fun hm ho => ?_⟩
    · have hb : d.breakGuard page p m = (d.closeGuard page).guardError p 3 g.master m g.off := by
        unfold Dev.breakGuard
        rw [hg]
        exact if_pos hm
      have hnone : (d.breakGuard page p m).openGuard page = none := by
        rw [hb, Dev.openGuard_guardError, Dev.openGuard_closeGuard]
      unfold Dev.valued Dev.stage
      dsimp only
      rw [hnone, hb]
      exact (d.closeGuard page).guardError_erred hp (by decide) ..
    · have hb : d.breakGuard page p m = d := by
        unfold Dev.breakGuard
        rw [hg]
        exact if_neg (not_not.mpr hm)
      unfold Dev.valued
      rw [hb]
      unfold Dev.stage
      dsimp only
      rw [hg]
      dsimp only
      rw [if_pos ho]
      exact d.guardError_erred hp (by decide) ..

/-- A complement write of a guarded register completes or fails. -/
theorem Dev.handle_complement (hp : p.guarded off = true) : d.handle k ⟨m, page, off + 0x2000, v, true⟩ p =
    (d.breakGuard page p m).complement k ⟨m, page, off + 0x2000, v, true⟩ p := by
  have hlt := Page.guarded_lt hp
  have hreg : (off + 0x2000) % 0x4000 = off + 0x2000 := by omega
  have halias : aliasOf (off + 0x2000) = 0 := by unfold aliasOf; omega
  have hc : (decide (0x1F00 ≤ off + 0x2000) && decide (off + 0x2000 < 0x2000)) = false := by simp
  unfold Dev.handle
  simp only [hreg, halias, hc, hp, Page.not_guarded (p := p) (reg := off + 0x2000) (by omega), Nat.add_sub_cancel,
    Bool.false_eq_true, if_false, ne_eq, not_true_eq_false]
  exact if_pos (by simp)

theorem Dev.pairEffect_isSome (d e : Dev) (k : Clock) (p : Page) (off v : Nat) :
    (d.pairEffect k p off v).isSome = (e.pairEffect k p off v).isSome := by
  unfold Dev.pairEffect
  split
  case h_9 =>
    split
    · simp
    · rfl
  all_goals simp

theorem Dev.pairEffect_none (h : d.pairEffect k p off v = none) (e : Dev) : e.pairEffect k p off v = none := by
  have hs := d.pairEffect_isSome e k p off v
  rw [h] at hs
  exact Option.not_isSome_iff_eq_none.mp (hs ▸ Bool.false_ne_true)

/-- A completed pair of a register that only stores. -/
theorem Dev.writePair_stores (hs : p.Sound) (hp : p.guarded off = true) (ha : d.allowsWrite p.blk off v = true)
    (he : d.pairEffect k p off v = none) : d.writePair k p off v = (d.pairFields p off v, true) := by
  have hlt := Page.guarded_lt hp
  have hw := d.writes_writeFields p true _ v (hs.held_nodup hlt fun x => x.1.row.access = .w1c)
    (hs.held_bounds hlt fun x => x.1.row.access = .w1c)
  have hne : (p.heldFields off).isEmpty = false := by
    unfold Page.guarded at hp
    obtain ⟨x, hx, hxp⟩ := List.any_eq_true.mp (Bool.and_eq_true_iff.mp hp).2
    have hin : x ∈ p.heldFields off := List.mem_filter.mpr ⟨hx, (Bool.and_eq_true_iff.mp hxp).2⟩
    cases hl : p.heldFields off with
    | nil => rw [hl] at hin; cases hin
    | cons => rfl
  have hallow := (Dev.allowsWrite_regs (c := d.ctl) (u := d.updated) hw.rest p.blk off v).trans ha
  have hnone := Dev.pairEffect_none he
    (d.writeFields p true ((p.heldFields off).filter fun x => x.1.row.access = .w1c) v)
  unfold Page.heldFields at hne hallow hnone
  unfold Dev.writePair Dev.pairFields Page.heldFields
  dsimp only
  rw [hne, hallow, hnone]
  rfl

/-- What changes registers only, and then registers only, changes registers only. -/
theorem Dev.regs_trans {a b c : Dev} {r r' : RegFile} (h : b = { a with regs := r }) (h' : c = { b with regs := r' }) :
    c = { a with regs := r' } := by
  subst h
  exact h'

section Completes
variable {n : Nat} (h : s.PairReady m same page off n p)
include h

/-- A completed pair of a register that only stores gives its fields the value. -/
theorem State.writeComplement_stores (ha : s.dev.allowsWrite p.blk off n = true)
    (he : s.dev.pairEffect (s.writeClock m same page) p off n = none) :
    ∃ t, s.writeComplement m same page off n = .next { s with clk := s.writeClock m same page, dev := t } ∧
      t.openGuard page = none ∧ s.Stores m same page p t .wg off n ∧ p.Noted t m (off + 0x2000) 0 ∧ s.dev.Kept t := by
  have hs := Dev.openPage_sound h.reaches.opened
  have hlt := Page.guarded_lt h.guarded
  have hpair := Dev.writePair_stores (d := s.paired m same page off) (k := s.writeClock m same page) hs h.guarded
    ((Dev.allowsWrite_records (s.records_paired m same page off) ..).trans ha) (Dev.pairEffect_none he _)
  have hnext := State.writeComplement_ready h
  dsimp only at hnext
  rw [hpair] at hnext
  have h1 := (s.paired m same page off).writes_writeFields p true _ n (hs.held_nodup hlt fun x => x.1.row.access = .w1c)
    (hs.held_bounds hlt fun x => x.1.row.access = .w1c)
  have h2 := Dev.writes_writeFields ((s.paired m same page off).writeFields p true
    ((p.heldFields off).filter fun x => x.1.row.access = .w1c) n) p true _ n (hs.held_nodup hlt fun x => x.1.row.access = .wg)
    (hs.held_bounds hlt fun x => x.1.row.access = .wg)
  have hrest : ∃ r, (s.paired m same page off).pairFields p off n = { s.paired m same page off with regs := r } :=
    ⟨_, Dev.regs_trans h1.rest h2.rest⟩
  have hstores := fun t ht => State.stores_pair (s := s) (m := m) (same := same) (page := page) (d := s.paired m same page off)
    (t := t) (off := off) (v := n) hs hlt (fun _ _ _ => rfl) rfl ht
  generalize (s.paired m same page off).pairFields p off n = x at *
  have hnext' : s.writeComplement m same page off n = .next { s with
      clk := s.writeClock m same page
      dev := (x.noteLast p ⟨m, page, off + 0x2000, 2 ^ 32 - 1 - n % 2 ^ 32, true⟩ 0 m).sendRaised s.dev.sec.reports
        (s.writeClock m same page) } := hnext
  have hlast := x.records_noteLast hs.idx ⟨m, page, off + 0x2000, 2 ^ 32 - 1 - n % 2 ^ 32, true⟩ 0 m
  have hkeep : s.dev.Kept x ∧ x.sec = s.dev.sec ∧ x.openGuard page = none := by
    obtain ⟨r, rfl⟩ := hrest
    exact ⟨⟨rfl, rfl, rfl⟩, rfl, Dev.openGuard_closeGuard ..⟩
  obtain ⟨⟨hm, hc, hj⟩, hsec, hg⟩ := hkeep
  rw [Dev.sendRaised_of_eq _ (congrArg Sec.reports (hlast.sec.trans hsec))] at hnext'
  exact ⟨_, hnext', (Dev.openGuard_noteLast ..).trans hg, hstores _ hlast,
    Dev.noted_noteLast _ hs.idx (by omega) (by decide) (by decide), hlast.mem.trans hm, hlast.cores.trans hc,
    hlast.job.trans hj⟩

theorem State.PairReady.guard_within : ∀ g, s.dev.openGuard page = some g → (s.writeClock m same page).cc ≤ g.cc + 256 := by
  obtain ⟨cc, hg, hcc⟩ := h.window
  intro g hg'
  rw [hg] at hg'
  cases hg'
  exact hcc

/-- Another complement value ends the sequence with an error. -/
theorem State.write_mismatch (hv : v + n ≠ 2 ^ 32 - 1) :
    ∃ t, s.write same ⟨m, page, off + 0x2000, v, true⟩ = .next { s with clk := s.writeClock m same page, dev := t } ∧
      t.openGuard page = none ∧ p.Ignored s.dev t off ∧ p.Noted t m (off + 0x2000) 1 ∧ p.Erred s.dev t 1 ∧ s.dev.Kept t := by
  have hs := Dev.openPage_sound h.reaches.opened
  have hlt := Page.guarded_lt h.guarded
  obtain ⟨cc, hg, -⟩ := h.window
  have hg' : (s.noted m same page (off + 0x2000)).openGuard page = some ⟨page, m, off, n, cc⟩ := hg
  have hh : (s.found m same page (off + 0x2000) p).handle (s.writeClock m same page) ⟨m, page, off + 0x2000, v, true⟩ p =
      (((s.noted m same page (off + 0x2000)).closeGuard page).guardError p 1 m m off, 1) := by
    rw [State.found_noted p h.guard_within, Dev.handle_complement h.guarded]
    have hb : (s.noted m same page (off + 0x2000)).breakGuard page p m = s.noted m same page (off + 0x2000) := by
      unfold Dev.breakGuard
      rw [hg']
      exact if_neg fun hn => hn rfl
    rw [hb]
    unfold Dev.complement
    dsimp only
    rw [hg']
    simp only [Nat.add_sub_cancel, ne_eq, not_true_eq_false, if_false]
    exact if_neg hv
  have hrec := ((s.noted_reads m same page (off + 0x2000)).1.trans (.books _)).trans
    (Dev.records_guardError ((s.noted m same page (off + 0x2000)).closeGuard page) hs.idx 1 m m off)
  have hlast := hrec.trans (Dev.records_noteLast _ hs.idx ⟨m, page, off + 0x2000, v, true⟩ 1 m)
  refine ⟨_, State.write_handled h.reaches hh hrec.sec, ?_, hlast.ignored hs hlt,
    Dev.noted_noteLast _ hs.idx (by omega) (by decide) (by decide), ?_, hlast.kept⟩
  · rw [Dev.openGuard_noteLast, Dev.openGuard_guardError, Dev.openGuard_closeGuard]
  · exact (Dev.guardError_erred ((s.noted m same page (off + 0x2000)).closeGuard page) hs.idx (by decide) m m off).noted hs.idx
      _ _ (by decide)

end Completes

/-- A complement write without a sequence is an error. -/
theorem State.write_unpaired (h : s.WriteReaches m same page (off + 0x2000) p) (hp : p.guarded off = true)
    (hg : s.dev.openGuard page = none) :
    ∃ t, s.write same ⟨m, page, off + 0x2000, v, true⟩ = .next { s with clk := s.writeClock m same page, dev := t } ∧
      t.openGuard page = none ∧ p.Ignored s.dev t off ∧ p.Noted t m (off + 0x2000) 1 ∧ p.Erred s.dev t 4 ∧ s.dev.Kept t := by
  have hs := Dev.openPage_sound h.opened
  have hlt := Page.guarded_lt hp
  have hg' : (s.noted m same page (off + 0x2000)).openGuard page = none := hg
  have hh : (s.found m same page (off + 0x2000) p).handle (s.writeClock m same page) ⟨m, page, off + 0x2000, v, true⟩ p =
      ((s.noted m same page (off + 0x2000)).guardError p 4 m m off, 1) := by
    rw [State.found_of_none p hg, Dev.handle_complement hp]
    have hb : (s.noted m same page (off + 0x2000)).breakGuard page p m = s.noted m same page (off + 0x2000) := by
      unfold Dev.breakGuard
      rw [hg']
    rw [hb]
    unfold Dev.complement
    dsimp only
    rw [hg']
    simp only [Nat.add_sub_cancel]
  have hrec := (s.noted_reads m same page (off + 0x2000)).1.trans
    (Dev.records_guardError (s.noted m same page (off + 0x2000)) hs.idx 4 m m off)
  have hlast := hrec.trans (Dev.records_noteLast _ hs.idx ⟨m, page, off + 0x2000, v, true⟩ 1 m)
  refine ⟨_, State.write_handled h hh hrec.sec, ?_, hlast.ignored hs hlt,
    Dev.noted_noteLast _ hs.idx (by omega) (by decide) (by decide), ?_, hlast.kept⟩
  · rw [Dev.openGuard_noteLast, Dev.openGuard_guardError, hg']
  · exact (Dev.guardError_erred (s.noted m same page (off + 0x2000)) hs.idx (by decide) m m off).noted hs.idx _ _ (by decide)

/-- A value write opens the sequence of its register. -/
theorem State.write_value (h : s.WriteReaches m same page off p) (hp : p.guarded off = true) :
    ∃ t, s.write same ⟨m, page, off, v, true⟩ = .next { s with clk := s.writeClock m same page, dev := t } ∧
      t.openGuard page = some ⟨page, m, off, v, (s.writeClock m same page).cc⟩ ∧ p.Ignored s.dev t off ∧
      p.Noted t m off 3 ∧ s.dev.Kept t ∧
      match s.dev.openGuard page with
      | none => t.rd .blkGuardSeqErr p.idx = s.dev.rd .blkGuardSeqErr p.idx
      | some g => (s.writeClock m same page).cc ≤ g.cc + 256 →
          (g.master ≠ m → p.Erred s.dev t 3) ∧ (g.master = m → g.off ≠ off → p.Erred s.dev t 5) := by
  have hs := Dev.openPage_sound h.opened
  have hlt := Page.guarded_lt hp
  have hfound := s.records_found m same page off hs.idx
  obtain ⟨hrec, hopen, -⟩ := Dev.valued_effect (s.found m same page off p) (s.writeClock m same page) hs.idx m page off v
  have hall := hfound.trans hrec
  have hlast := hall.trans (Dev.records_noteLast _ hs.idx ⟨m, page, off, v, true⟩ 3 m)
  refine ⟨_, State.write_handled h (Dev.handle_value hp) hall.sec, (Dev.openGuard_noteLast ..).trans hopen, hlast.ignored hs hlt,
    Dev.noted_noteLast _ hs.idx (by omega) (by decide) (by decide), hlast.kept, ?_⟩
  obtain ⟨-, -, heff⟩ := Dev.valued_effect (s.noted m same page off) (s.writeClock m same page) hs.idx m page off v
  have hsame : (s.noted m same page off).openGuard page = s.dev.openGuard page := rfl
  rw [hsame] at heff
  cases hg : s.dev.openGuard page with
  | none =>
    rw [hg] at heff
    dsimp only at heff ⊢
    rw [State.found_of_none p hg, Dev.noteLast_eq _ p _ m (by decide), Dev.rd_wr_at _ _ (by decide) hs.idx,
      Dev.rd_wr_at _ _ (by decide) hs.idx, Dev.rd_wr_at _ _ (by decide) hs.idx, Dev.rd_wr_at _ _ (by decide) hs.idx]
    exact congrArg (fun r => Sparse.get r _ (regKey .blkGuardSeqErr p.idx 0)) heff
  | some g =>
    rw [hg] at heff
    dsimp only at heff ⊢
    intro hcc
    rw [State.found_noted p fun g' hg' => by rw [hg] at hg'; cases hg'; exact hcc]
    exact ⟨fun hm => (heff.1 hm).noted hs.idx _ _ (by decide), fun hm ho => (heff.2 hm ho).noted hs.idx _ _ (by decide)⟩

/-! ### The end of a window -/

theorem exec_guardWindowExpire {page : BitVec 12} {g : Guard} (hc : s.dev.clocked = true) (hp : s.dev.page page.toNat = some p)
    (hg : s.dev.openGuard page.toNat = some g) (hm : g.master = m) :
    ∃ t, exec (.guardWindowExpire page m) s = .next { s with clk := s.clk.toCc (g.cc + 257), dev := t } ∧
      t.openGuard page.toNat = none ∧ p.Erred s.dev t 2 ∧ s.dev.Kept t := by
  have hs := Dev.page_sound hp
  have hf : (s.dev.openGuard page.toNat).filter (fun g => g.master = m) = some g := by
    rw [hg, Option.filter_some, decide_eq_true hm]
    rfl
  have hlate : ∀ k : Clock, s.clk.toCc (g.cc + 257) = k → g.cc + 256 < k.cc := by
    rintro k rfl
    have hu : (s.clk.toCc (g.cc + 257)).units = s.clk.units + ((g.cc + 257) * 10 - s.clk.units) := rfl
    unfold Clock.cc
    omega
  have hexp : s.dev.expireGuard (s.clk.toCc (g.cc + 257)) page.toNat p =
      (s.dev.closeGuard page.toNat).guardError p 2 g.master g.master g.off := by
    unfold Dev.expireGuard
    rw [hg]
    exact if_pos (hlate _ rfl)
  have hrec := (Dev.Records.books s.dev).trans (Dev.records_guardError (s.dev.closeGuard page.toNat) hs.idx 2 g.master g.master g.off)
  refine ⟨(s.dev.closeGuard page.toNat).guardError p 2 g.master g.master g.off, ?_, ?_,
    (s.dev.closeGuard page.toNat).guardError_erred hs.idx (by decide) .., hrec.kept⟩
  · change execGuardWindowExpire page m s = _
    unfold execGuardWindowExpire
    rw [hf]
    refine State.act_quiet (w := fun k => k.toCc (g.cc + 257)) _ hc rfl ?_ (congrArg Sec.reports hrec.sec :)
    rw [hp]
    exact congrArg some hexp
  · rw [Dev.openGuard_guardError, Dev.openGuard_closeGuard]

theorem exec_guardWindowExpire_none {page : BitVec 12} (h : ∀ g, s.dev.openGuard page.toNat = some g → g.master ≠ m) :
    exec (.guardWindowExpire page m) s = .next s := by
  have hf : (s.dev.openGuard page.toNat).filter (fun g => g.master = m) = none := by
    cases hg : s.dev.openGuard page.toNat with
    | none => rfl
    | some g =>
      rw [Option.filter_some, decide_eq_false (h g hg)]
      rfl
  change execGuardWindowExpire page m s = _
  unfold execGuardWindowExpire
  rw [hf]
  exact State.act_none rfl

end Sys2Proof.Machine

namespace Sys2Proof

open Machine

/-- Settles O46: what the writes of the control space change, by the access codes of the fields. -/
theorem controlSpaceWrites : Obligations.ControlSpaceWrites := by
  unfold Obligations.ControlSpaceWrites
  intro s m same page p k kept noted stores ignored err done
  refine ⟨?_, ?_, ?_, ?_⟩
  · intro offset v enables hpage off i fs hoff hguard hreach hg
    have hexec : ∀ whole : Bool, (decide (enables = 15) && decide (off % 4 = 0)) = whole →
        exec i s = s.write same ⟨m, page.toNat, off, v.toNat, whole⟩ := fun whole hw => by
      have hal : off % 4 = offset.toNat % 4 := by omega
      rw [← hw, hal, ← hpage]
      rfl
    have hh := State.WriteReaches.handle_plain (m := m) (same := same) (v := v.toNat) hg hoff hguard
    refine ⟨fun h4 h15 ht ha he => ?_, fun h => ?_⟩
    · obtain ⟨t, hnext, hst, hn, hk⟩ := State.write_stores hreach hg hoff (by omega) hh ht ha he
      exact ⟨t, (hexec true (by rw [h15, h4]; rfl)).trans hnext, hst, hn, hk⟩
    · by_cases hwhole : enables = 15 ∧ off % 4 = 0
      · have hign := Dev.writePlain_ignored (d := s.noted m same page.toNat off) (k := k) (m := m) (page := page.toNat)
          (p := p) (v := v.toNat) hoff (by
            rcases h with h | h | h | h
            · exact absurd hwhole.2 h
            · exact absurd hwhole.1 h
            · exact .inl h
            · exact .inr ((Dev.allowsWrite_records (s.noted_reads m same page.toNat off).1 ..).trans h))
        rw [hign] at hh
        obtain ⟨t, hnext, hi, hn, hk⟩ := State.write_ignored (reg := off / 4 * 4) hreach hg (by omega) (by omega) hh
        exact ⟨t, (hexec true (by rw [hwhole.1, hwhole.2]; rfl)).trans hnext, hi, hn, hk⟩
      · obtain ⟨t, hnext, hi, hn, hk⟩ := State.write_partly (v := v.toNat) (reg := off / 4 * 4) hreach (by omega) (by omega)
        refine ⟨t, (hexec false ?_).trans hnext, hi, hn, hk⟩
        rw [Bool.and_eq_false_iff, decide_eq_false_iff_not, decide_eq_false_iff_not]
        exact Decidable.not_and_iff_or_not.mp hwhole
  · intro base v a i hi halign hbase hreach hg r w
    have ha : a = 1 ∨ a = 2 ∨ a = 3 := by
      simp only [List.mem_cons, List.not_mem_nil, or_false, Prod.mk.injEq] at hi
      omega
    have hexec : exec i s = s.write same ⟨m, page.toNat, a * 0x4000 + base.toNat, v.toNat, true⟩ := by
      have hal : ∀ off, (⟨m, page.toNat, off, v.toNat, decide (base.toNat % 4 = 0)⟩ : MasterWrite) =
          ⟨m, page.toNat, off, v.toNat, true⟩ := fun off => by rw [halign]; rfl
      simp only [List.mem_cons, List.not_mem_nil, or_false, Prod.mk.injEq] at hi
      rcases hi with ⟨rfl, rfl⟩ | ⟨rfl, rfl⟩ | ⟨rfl, rfl⟩
      · exact congrArg (s.write same) (hal _)
      · exact congrArg (s.write same) (hal _)
      · exact congrArg (s.write same) (hal _)
    have hword : w = s.dev.aliasWord k m page.toNat p a base.toNat v.toNat := rfl
    have hh := State.handle_alias (m := m) (same := same) (page := page.toNat) (p := p) (v := v.toNat) hg ha hbase
    rw [Dev.writeAlias_eq hbase, State.rwBits_noted] at hh
    have hoff : a * 0x4000 + base.toNat < 65536 := by omega
    refine ⟨fun hr hal he => ?_, fun hr => ?_⟩
    · rw [if_neg hr] at hh
      obtain ⟨t, hnext, hst, hn, hk⟩ := State.write_stores hreach hg hbase hoff hh (Dev.takesWrite_of_rwBits hr) hal he
      exact ⟨t, hexec.trans hnext, hst, hn, hk⟩
    · rw [if_pos hr] at hh
      obtain ⟨t, hnext, hi, hn, hk⟩ := State.write_ignored hreach hg hbase hoff hh
      exact ⟨t, hexec.trans hnext, hi, hn, hk⟩
  · intro reg v halign hguard
    have hval : exec (.guardValueWrite m same page reg v) s = s.write same ⟨m, page.toNat, reg.toNat, v.toNat, true⟩ :=
      congrArg (fun b => s.write same ⟨m, page.toNat, reg.toNat, v.toNat, b⟩) (decide_eq_true halign)
    have hcomp : exec (.guardComplementWrite m same page reg v) s =
        s.write same ⟨m, page.toNat, reg.toNat + 0x2000, v.toNat, true⟩ :=
      congrArg (fun b => s.write same ⟨m, page.toNat, reg.toNat + 0x2000, v.toNat, b⟩) (decide_eq_true halign)
    refine ⟨fun hreach => ?_, fun n hpair => ⟨fun hv ha he => ?_, fun hv => ?_⟩, fun hreach hg => ?_⟩
    · obtain ⟨t, hnext, ho, hi, hn, hk, herr⟩ := State.write_value (v := v.toNat) hreach hguard
      exact ⟨t, hval.trans hnext, ho, hi, hn, hk, herr⟩
    · obtain ⟨t, hnext, ho, hst, hn, hk⟩ := State.writeComplement_stores hpair ha he
      have hn32 := hpair.value
      have hsame : s.writeComplement m same page.toNat reg.toNat n =
          s.write same ⟨m, page.toNat, reg.toNat + 0x2000, v.toNat, true⟩ := by
        rw [hv]
        refine congrArg (fun x => s.write same ⟨m, page.toNat, reg.toNat + 0x2000, x, true⟩) ?_
        rw [Nat.mod_eq_of_lt hn32]
      exact ⟨t, (hcomp.trans hsame.symm).trans hnext, ho, hst, hn, hk⟩
    · have hv32 := v.isLt
      have hn32 := hpair.value
      obtain ⟨t, hnext, ho, hi, hn, herr, hk⟩ := State.write_mismatch (v := v.toNat) hpair (by omega)
      exact ⟨t, hcomp.trans hnext, ho, hi, hn, herr, hk⟩
    · obtain ⟨t, hnext, ho, hi, hn, herr, hk⟩ := State.write_unpaired (v := v.toNat) hreach hguard hg
      exact ⟨t, hcomp.trans hnext, ho, hi, hn, herr, hk⟩
  · intro hc hp
    cases hg : s.dev.openGuard page.toNat with
    | none => exact exec_guardWindowExpire_none fun g h => by rw [hg] at h; cases h
    | some g =>
      exact ⟨fun hm => exec_guardWindowExpire_none fun g' h => by rw [hg] at h; cases h; exact hm,
        fun hm => exec_guardWindowExpire hc hp hg hm⟩

end Sys2Proof
end

section
/-! SUPPORT. The moves of the memory tiers and the loan (chapter 13). -/

-- One proof at a time: each thread that elaborates beside the others reserves its stack.
set_option Elab.async false

namespace Sys2Proof.Machine

open Sys2Proof

variable {s : State} {d e : Dev} {k : Clock} {m : Master} {same : Bool} {p : Page}

/-! ### What the TIER engine keeps of its objects -/

/-- An object keeps its home and its pins, and has been taken for no other frame than that of a number. -/
structure TierObj.Kept (n : Nat) (o x : TierObj) : Prop where
  home : x.home = o.home
  stamp : x.stamp = o.stamp ∨ x.stamp = n
  pins : ∀ c ∈ o.pins, c ∈ x.pins

theorem TierObj.Kept.refl (n : Nat) (o : TierObj) : o.Kept n o := ⟨rfl, .inl rfl, fun _ h => h⟩

theorem TierObj.Kept.trans {n : Nat} {o x y : TierObj} (h : o.Kept n x) (g : x.Kept n y) : o.Kept n y where
  home := g.home.trans h.home
  stamp := g.stamp.elim (fun hs => hs ▸ h.stamp) .inr
  pins c hc := g.pins c (h.pins c hc)

theorem TierObj.kept_take (o : TierObj) (core : Option Nat) (n : Nat) : o.Kept n (o.take core n) where
  home := rfl
  stamp := .inr rfl
  pins c hc := by
    unfold TierObj.take
    cases core with
    | none => exact hc
    | some i =>
      dsimp only
      split
      · exact hc
      · exact List.mem_append_left _ hc

theorem TierObj.kept_move (n : Nat) (o : TierObj) (v : Option TierMove) : o.Kept n { o with move := v } :=
  ⟨rfl, .inl rfl, fun _ h => h⟩

/-- From `d` to `e` every object has kept its home and pins, and the frame is the same. -/
structure Dev.Homes (d e : Dev) : Prop where
  frame : e.frame = d.frame
  length : e.tier.objs.length = d.tier.objs.length
  kept : ∀ (j : Nat) (o : TierObj), d.tier.objs[j]? = some o →
    ∃ x, e.tier.objs[j]? = some x ∧ o.Kept d.frame.number x

theorem Dev.Homes.of_objs (h : e.tier.objs = d.tier.objs) (hf : e.frame = d.frame) : d.Homes e :=
  ⟨hf, congrArg List.length h, fun _ o ho => ⟨o, h ▸ ho, .refl _ o⟩⟩

theorem Dev.Homes.refl (d : Dev) : d.Homes d := .of_objs rfl rfl

theorem Dev.Homes.of_tier (h : e.tier = d.tier) (hf : e.frame = d.frame) : d.Homes e :=
  .of_objs (congrArg Tier.objs h) hf

theorem Dev.Homes.trans {c : Dev} (h : c.Homes d) (g : d.Homes e) : c.Homes e where
  frame := g.frame.trans h.frame
  length := g.length.trans h.length
  kept j o ho := by
    obtain ⟨x, hx, hk⟩ := h.kept j o ho
    obtain ⟨y, hy, hk'⟩ := g.kept j x hx
    rw [h.frame] at hk'
    exact ⟨y, hy, hk.trans hk'⟩

theorem Dev.homes_modObj (d : Dev) (i : Nat) (f : TierObj → TierObj) (hf : ∀ o : TierObj, o.Kept d.frame.number (f o)) :
    d.Homes (d.modObj i f) where
  frame := rfl
  length := List.length_modify ..
  kept j o ho := by
    by_cases h : i = j
    · refine ⟨f o, ?_, hf o⟩
      change (d.tier.objs.modify i f)[j]? = some (f o)
      rw [List.getElem?_modify, ho]
      exact congrArg some (if_pos h)
    · refine ⟨o, ?_, .refl _ o⟩
      change (d.tier.objs.modify i f)[j]? = some o
      rw [List.getElem?_modify, ho]
      exact congrArg some (if_neg h)

theorem Dev.homes_nextPiece (d : Dev) (k : Clock) (i : Nat) (o : TierObj) (m : TierMove) (off : Nat) (out : Bool) (len : Nat)
    (data : List Byte) : d.Homes (d.nextPiece k i o m off out len data) := by
  have hmod := d.homes_modObj i (fun o => { o with move := some { m with open_ := m.open_ + 1, todo := m.todo.tail } })
    fun o => o.kept_move _ _
  unfold Dev.nextPiece
  extract_lets -merge +onlyGivenNames x near y
  have hy : x.Homes y := by
    refine .of_tier ?_ ?_
    · change (if out then _ else _ : Dev).tier = _
      split <;> exact (Dev.touches_carry ..).tier
    · change (if out then _ else _ : Dev).frame = _
      split <;> exact (Dev.touches_carry ..).frame
  exact (hmod.trans hy).trans (.of_tier (Dev.touches_accept ..).tier (Dev.touches_accept ..).frame)

theorem Dev.homes_pumpTier (k : Clock) (n : Nat) (d : Dev) : d.Homes (Dev.pumpTier k n d) := by
  induction n generalizing d with
  | zero => exact .refl d
  | succ n ih =>
    rw [Dev.pumpTier]
    split
    · exact .refl d
    · split
      · exact .refl d
      · split
        · exact .refl d
        · split
          next off size _ =>
          extract_lets -merge +onlyGivenNames len out data
          split
          · exact (d.homes_nextPiece ..).trans (ih _)
          · exact .refl d

theorem Dev.homes_beginLoad (d : Dev) (i : Nat) (o : TierObj) (m : TierMove) : d.Homes (d.beginLoad i o m) := by
  unfold Dev.beginLoad
  dsimp only
  refine Dev.Homes.trans (.of_tier (Dev.touches_hostReadFor ..).tier (Dev.touches_hostReadFor ..).frame)
    (Dev.homes_modObj _ i _ fun o => o.kept_move _ _)

theorem Dev.homes_beginCopy (d : Dev) (i : Nat) (o : TierObj) (m : TierMove) : d.Homes (d.beginCopy i o m) := by
  unfold Dev.beginCopy
  extract_lets -merge +onlyGivenNames bs x heads y z
  have hy : d.Homes y := .of_tier ((Dev.touches_hostReadFor ..).tier.trans (Dev.touches_countDrops ..).tier)
    ((Dev.touches_hostReadFor ..).frame.trans (Dev.touches_countDrops ..).frame)
  have hz : y.Homes z := Dev.homes_modObj y i _ fun o => o.kept_move _ _
  have hfold : z.Touches [.acc, .host, .mem, .out, .twin, .work] []
      (((List.range o.pages).filter fun j => !d.loanPage m.home j).foldl (fun d j =>
        (d.carry (d.homePlace o o.home (j * 2 ^ 21)) (d.homePlace o m.home (j * 2 ^ 21)) (sumBy (x.ofPage o j) (·.2))).hashed
          0xE01 m.frame fun d => d.putPage o m.home x j) z) := by
    refine .foldl (.refl z) fun e j _ => Dev.Touches.hashed ?_ fun f hf => ?_
    · exact .next (.refl _) (Dev.touches_carry ..)
    · exact .next hf (Dev.touches_putPage ..)
  exact (hy.trans hz).trans (.of_tier hfold.tier hfold.frame)

theorem Dev.homes_beginMove (d : Dev) (k : Clock) (i : Nat) (o : TierObj) (m : TierMove) : d.Homes (d.beginMove k i o m) := by
  unfold Dev.beginMove
  split
  · exact .of_tier (Dev.touches_hostHomeLost ..).tier (Dev.touches_hostHomeLost ..).frame
  · split
    · exact .of_tier (Dev.touches_poisonFault ..).tier (Dev.touches_poisonFault ..).frame
    · extract_lets -merge +onlyGivenNames w m' y
      have hy : d.Homes y := by
        change d.Homes (if _ then _ else _)
        split
        · exact d.homes_beginLoad ..
        · exact d.homes_beginCopy ..
      refine (hy.trans (.of_tier ?_ ?_)).trans (Dev.homes_pumpTier ..)
      · exact (Dev.touches_addWork ..).tier.trans (Dev.touches_count ..).tier
      · exact (Dev.touches_addWork ..).frame.trans (Dev.touches_count ..).frame

theorem Dev.homes_runQueue (k : Clock) (l : List TierReq) (dry held : Bool) (d : Dev) :
    d.Homes (Dev.runQueue k l dry held d).1 := by
  induction l generalizing dry held d with
  | nil => exact .refl d
  | cons r rs ih =>
    rw [Dev.runQueue]
    dsimp only
    split
    · exact ih ..
    · next o ho =>
      split
      · exact ih ..
      · by_cases hpast : if r.evict = true then r.target ≤ o.tier else o.tier ≤ r.target
        · rw [if_pos hpast]
          refine Dev.Homes.trans ?_ (ih ..)
          split
          · exact .refl d
          · exact (d.homes_modObj r.obj _ fun o => o.kept_take ..).trans (.of_objs rfl rfl)
        · rw [if_neg hpast]
          split
          · exact ih ..
          · split
            · exact ih ..
            · split
              · exact ih ..
              · split
                · exact ih ..
                · exact (d.homes_beginMove ..).trans (ih ..)

theorem Dev.homes_runTier (d : Dev) (k : Clock) : d.Homes (d.runTier k) := by
  have hq := Dev.homes_runQueue k d.tier.queue false false d
  unfold Dev.runTier
  split
  next x q lacks heq =>
    rw [heq] at hq
    extract_lets -merge +onlyGivenNames y waits z
    have hy : d.Homes y := hq.trans (.of_objs rfl rfl)
    have hz : y.Homes z := by
      change y.Homes (if _ then _ else _)
      split
      · exact .of_tier (Dev.touches_lsHoldFrom ..).tier (Dev.touches_lsHoldFrom ..).frame
      · exact .refl y
    refine (hy.trans hz).trans ?_
    split
    · exact .of_objs rfl rfl
    · exact .of_objs rfl rfl
    · exact .refl z

/-! ### The commit of a move -/

/-- An object once its move has been committed (R272). -/
def TierObj.moved (o : TierObj) (m : TierMove) (n : Nat) : TierObj :=
  if m.target < o.tier then m.takers.foldl (fun o c => o.take (some c) n)
    ({ o with tier := m.target, pool := m.pool, far := m.far, move := none }.take none n)
  else { o with tier := m.target, pool := m.pool, far := m.far, move := none }

/-- Taking an object for cores keeps it and gives each of them a use pin. -/
theorem TierObj.take_all (n : Nat) (cs : List Nat) (o : TierObj) :
    o.Kept n (cs.foldl (fun o c => o.take (some c) n) o) ∧ ∀ c ∈ cs, c ∈ (cs.foldl (fun o c => o.take (some c) n) o).pins := by
  induction cs generalizing o with
  | nil => exact ⟨.refl n o, nofun⟩
  | cons c cs ih =>
    obtain ⟨hk, hp⟩ := ih (o.take (some c) n)
    refine ⟨(o.kept_take (some c) n).trans hk, fun x hx => ?_⟩
    rcases List.mem_cons.mp hx with rfl | hx
    · refine hk.pins x ?_
      unfold TierObj.take
      dsimp only
      split
      · next h => exact List.contains_iff_mem.mp h
      · simp
    · exact hp x hx

theorem TierObj.moved_effect (o : TierObj) (m : TierMove) (n : Nat) : (o.moved m n).home = m.home ∧
    (m.target < o.tier → (o.moved m n).stamp = n ∧ ∀ c ∈ m.takers, c ∈ (o.moved m n).pins) := by
  unfold TierObj.moved
  split
  · next h =>
    obtain ⟨hk, hp⟩ := TierObj.take_all n m.takers
      ({ o with tier := m.target, pool := m.pool, far := m.far, move := none }.take none n)
    exact ⟨hk.home, fun _ => ⟨hk.stamp.elim id id, hp⟩⟩
  · next h => exact ⟨rfl, fun hu => absurd hu h⟩

/-- The device with a load into the loan settled, where the move is one. -/
def Dev.moveSettled (d : Dev) (i : Nat) (o : TierObj) (m : TierMove) : Dev :=
  if d.usesLoan o o.home then d.hashed 0xE01 m.frame fun d => d.settleLoads i o m else d

/-- The device with an object's home switched. -/
def Dev.homeSwitched (d : Dev) (i : Nat) (o : TierObj) (m : TierMove) : Dev :=
  (d.moveSettled i o m).modObj i fun _ => o.moved m (d.moveSettled i o m).frame.number

/-- What follows the switch of a home: pieces of images that wait for it, reads of the host, counts, and other moves. -/
def Dev.moveFollowed (d : Dev) (k : Clock) (i : Nat) (o : TierObj) (m : TierMove) : Dev :=
  let n := d.frame.number
  let d := if d.usesLoan o o.home then d.fillPieces i (o.moved m n) else d
  let d := (if m.target < o.tier then d.unwatch i else d).readsDone 0 (some i)
  let d := (d.count (if m.target < o.tier then .tierMovesUp else .tierMovesDown)).count .tierPagesMoved o.pages
  (d.runTier k).lsStep k

theorem exec_tierMoveCommit {i : BitVec 20} {o : TierObj} {m : TierMove} (hc : s.dev.clocked = true)
    (ho : s.dev.tier.objs[i.toNat]? = some o) (hm : o.move = some m) (ht : m.todo = []) (hz : m.open_ = 0)
    (hk : s.clk.toUnit m.due = k) : exec (.tierMoveCommit i) s = .next { s with
      clk := k, dev := ((s.dev.homeSwitched i.toNat o m).moveFollowed k i.toNat o m).sendRaised s.dev.sec.reports k } := by
  have hb : (s.dev.tier.objs[i.toNat]?.bind fun o => o.move) = some m := by rw [ho]; exact hm
  have hgo : (m.todo.isEmpty && decide (m.open_ = 0)) = true := by rw [ht, hz]; rfl
  change execTierMoveCommit i s = _
  unfold execTierMoveCommit
  dsimp only
  rw [hb]
  refine State.act_next k hc ?_ ?_
  · exact (if_pos hgo).trans hk
  · rw [ho]
    dsimp only
    rw [hm]
    exact if_pos hgo

theorem exec_tierMoveCommit_none {i : BitVec 20}
    (h : ∀ o m, s.dev.tier.objs[i.toNat]? = some o → o.move = some m → m.todo ≠ [] ∨ m.open_ ≠ 0) :
    exec (.tierMoveCommit i) s = .next s := by
  have hno : ∀ (m : TierMove), m.todo ≠ [] ∨ m.open_ ≠ 0 → ¬ (m.todo.isEmpty && decide (m.open_ = 0)) = true := by
    intro m hm hx
    rw [Bool.and_eq_true, decide_eq_true_eq, List.isEmpty_iff] at hx
    exact hm.elim (fun hn => hn hx.1) fun hn => hn hx.2
  change execTierMoveCommit i s = _
  unfold execTierMoveCommit
  refine State.act_none ?_
  dsimp only
  cases ho : s.dev.tier.objs[i.toNat]? with
  | none => rfl
  | some o =>
    dsimp only
    cases hm : o.move with
    | none => rfl
    | some m => exact if_neg (hno m (h o m ho hm))

theorem Dev.homes_moveFollowed (d : Dev) (k : Clock) (i : Nat) (o : TierObj) (m : TierMove) : d.Homes (d.moveFollowed k i o m) := by
  unfold Dev.moveFollowed
  extract_lets -merge +onlyGivenNames n x y z
  have hx : d.Homes x := by
    change d.Homes (if _ then _ else _)
    split
    · exact .of_tier (Dev.touches_fillPieces ..).tier (Dev.touches_fillPieces ..).frame
    · exact .refl d
  have hw : x.Homes (if m.target < o.tier then x.unwatch i else x) := by
    split
    · exact .of_objs rfl rfl
    · exact .refl x
  have hy : x.Homes y := hw.trans (.of_tier (Dev.touches_readsDone ..).tier (Dev.touches_readsDone ..).frame)
  have hz : y.Homes z := .of_tier ((Dev.touches_count ..).tier.trans (Dev.touches_count ..).tier)
    ((Dev.touches_count ..).frame.trans (Dev.touches_count ..).frame)
  exact (((hx.trans hy).trans hz).trans (Dev.homes_runTier ..)).trans
    (.of_tier (Dev.touches_lsStep ..).tier (Dev.touches_lsStep ..).frame)

theorem Dev.touches_moveSettled (d : Dev) (i : Nat) (o : TierObj) (m : TierMove) :
    d.Touches [.acc, .mem, .out, .twin, .work] [] (d.moveSettled i o m) := by
  unfold Dev.moveSettled
  refine .ite (.hashed (.refl d) fun f hf => ?_) (.refl d)
  exact .next hf (Dev.touches_settleLoads ..)

/-- Where a move is committed, its object's home is the move's; a move up stamps the object and gives a use pin to
every core that asked for it; and every other object keeps its home. -/
theorem Dev.homeSwitched_effect {i : Nat} {o : TierObj} (m : TierMove) (ho : d.tier.objs[i]? = some o) :
    (d.homeSwitched i o m).frame = d.frame ∧ (d.homeSwitched i o m).tier.objs.length = d.tier.objs.length ∧
      (d.homeSwitched i o m).tier.objs[i]? = some (o.moved m d.frame.number) ∧
      ∀ j, j ≠ i → (d.homeSwitched i o m).tier.objs[j]? = d.tier.objs[j]? := by
  have hs := d.touches_moveSettled i o m
  have hobjs : (d.homeSwitched i o m).tier.objs = d.tier.objs.modify i fun _ => o.moved m d.frame.number := by
    rw [← hs.frame, ← hs.tier]
    rfl
  refine ⟨hs.frame, ?_, ?_, fun j hj => ?_⟩
  · rw [hobjs, List.length_modify]
  · rw [hobjs, List.getElem?_modify, ho]
    exact congrArg some (if_pos rfl)
  · rw [hobjs, List.getElem?_modify_ne _ _ hj.symm]

/-- A commit of a move that has copied all its bytes (R272). -/
theorem exec_tierMoveCommit_effect {i : BitVec 20} {o : TierObj} {m : TierMove} (hc : s.dev.clocked = true)
    (ho : s.dev.tier.objs[i.toNat]? = some o) (hm : o.move = some m) (ht : m.todo = []) (hz : m.open_ = 0) :
    ∃ t, exec (.tierMoveCommit i) s = .next { s with clk := s.clk.toUnit m.due, dev := t } ∧
      t.tier.objs.length = s.dev.tier.objs.length ∧
      (∃ o', t.tier.objs[i.toNat]? = some o' ∧ o'.home = m.home ∧
        (m.target < o.tier → o'.stamp = s.dev.frame.number ∧ ∀ c ∈ m.takers, c ∈ o'.pins)) ∧
      (∀ (j : Nat) (x : TierObj), j ≠ i.toNat → s.dev.tier.objs[j]? = some x →
        ∃ x', t.tier.objs[j]? = some x' ∧ x'.home = x.home) := by
  obtain ⟨hframe, hlen, hsame, hother⟩ := s.dev.homeSwitched_effect m ho
  obtain ⟨hhome, hup⟩ := o.moved_effect m s.dev.frame.number
  have hh := (Dev.homes_moveFollowed (s.dev.homeSwitched i.toNat o m) (s.clk.toUnit m.due) i.toNat o m).trans
    (.of_tier (Dev.touches_sendRaised (d := _) s.dev.sec.reports (s.clk.toUnit m.due)).tier
      (Dev.touches_sendRaised (d := _) s.dev.sec.reports (s.clk.toUnit m.due)).frame)
  refine ⟨_, exec_tierMoveCommit hc ho hm ht hz rfl, hh.length.trans hlen, ?_, fun j x hj hx => ?_⟩
  · obtain ⟨x, hx, hk⟩ := hh.kept _ _ hsame
    rw [hframe] at hk
    refine ⟨x, hx, hk.home.trans hhome, fun hu => ?_⟩
    obtain ⟨hstamp, hpins⟩ := hup hu
    exact ⟨hk.stamp.elim (fun hs => hs.trans hstamp) id, fun c hmem => hk.pins c (hpins c hmem)⟩
  · obtain ⟨y, hy, hk⟩ := hh.kept j x ((hother j hj).trans hx)
    exact ⟨y, hy, hk.home⟩

/-! ### The loan -/

theorem Dev.openPage_tier (h : d.openPage 0xB0 m = some p) : p = ⟨.tier, 0, 64⟩ := by
  obtain ⟨hp, -⟩ := Option.filter_eq_some_iff.mp h
  exact (Option.some.inj hp).symm

theorem oneField_lendCmd : Page.OneField ⟨.tier, 0, 64⟩ 0x100 .tierLendCmd where
  fields := by decide
  access := rfl
  inst := rfl
  allows _ _ := rfl

theorem Dev.pairEffect_lendBegin (d : Dev) (k : Clock) :
    d.pairEffect k ⟨.tier, 0, 64⟩ 0x100 1 = some (d.lendBegin.1, d.lendBegin.2) := rfl

theorem Dev.pairEffect_lendEnd (d : Dev) (k : Clock) :
    d.pairEffect k ⟨.tier, 0, 64⟩ 0x100 2 = some (d.lendEnd.1, d.lendEnd.2) := rfl

/-- The loan may begin: in IDLE and READY, while the device does not lend. -/
def Dev.mayLend (d : Dev) : Prop := d.job.phase = .idle ∧ d.tier.lend = .off ∧ d.start.state = .ready

/-- The lending registers' key. -/
def Dev.lendKey (d : Dev) : Key := ⟨d.rd .tierLendKey, d.rd .tierLendEpoch⟩

theorem Dev.lendBegin_may (h : d.mayLend) : d.lendBegin.1 =
    ((d.modTier fun t => { t with lend := .lending, lendKey := some d.lendKey }).forgetKey d.lendKey).wr .tierLendOutside 0 := by
  obtain ⟨hp, hl, hs⟩ := h
  have hgo : (decide (d.job.phase = .idle) && decide (d.tier.lend = .off) && decide (d.start.state = .ready)) = true := by
    rw [hp, hl, hs]; rfl
  exact congrArg Prod.fst (if_pos hgo)

theorem Dev.lendBegin_not (h : ¬ d.mayLend) : d.lendBegin.1 = d.flag .tierLendReject := by
  refine congrArg Prod.fst (if_neg fun hgo => h ?_)
  rw [Bool.and_eq_true, Bool.and_eq_true, decide_eq_true_eq, decide_eq_true_eq, decide_eq_true_eq] at hgo
  exact ⟨hgo.1.1, hgo.1.2, hgo.2⟩

theorem Dev.lendEnd_may (h : d.tier.lend = .lending) : d.lendEnd.1 = d.modTier fun t => { t with lend := .zeroing } :=
  congrArg Prod.fst (if_pos h)

theorem Dev.lendEnd_not (h : d.tier.lend ≠ .lending) : d.lendEnd.1 = d.flag .tierLendReject :=
  congrArg Prod.fst (if_neg h)

/-- What a lending command leaves: memories, cores, the job and the reports. -/
structure Dev.LendKeeps (d e : Dev) : Prop where
  mem : e.mem = d.mem
  cores : e.cores = d.cores
  job : e.job = d.job
  sec : e.sec = d.sec

theorem Dev.lendBegin_keeps (d : Dev) : d.LendKeeps d.lendBegin.1 := by
  by_cases h : d.mayLend
  · rw [d.lendBegin_may h]
    exact ⟨rfl, rfl, rfl, rfl⟩
  · rw [d.lendBegin_not h]
    exact ⟨rfl, rfl, rfl, rfl⟩

theorem Dev.lendEnd_keeps (d : Dev) : d.LendKeeps d.lendEnd.1 := by
  by_cases h : d.tier.lend = .lending
  · rw [d.lendEnd_may h]
    exact ⟨rfl, rfl, rfl, rfl⟩
  · rw [d.lendEnd_not h]
    exact ⟨rfl, rfl, rfl, rfl⟩

/-- What a lending command makes of the device, but for the record of the write. -/
def Dev.lent (d : Dev) (op : Nat) : Dev := if op = 1 then d.lendBegin.1 else d.lendEnd.1

theorem exec_lend {op : Nat} {i : Instr} (h : s.PairReady m same 0xB0 0x100 op p)
    (hi : (i, op) ∈ ([(.lendBegin m same, 1), (.lendEnd m same, 2)] : List (Instr × Nat))) :
    ∃ t, exec i s = .next { s with clk := s.writeClock m same 0xB0, dev := t } ∧
      ((s.paired m same 0xB0 0x100).lent op).Touches [.regs, .ctl, .updated] (.tierLendCmd :: fldsCommon) t := by
  obtain rfl := Dev.openPage_tier h.reaches.opened
  rcases List.mem_cons.mp hi with heq | hi
  · obtain ⟨rfl, rfl⟩ := Prod.mk.inj heq
    obtain ⟨t, ht, -, hquiet⟩ := State.writeComplement_effect h oneField_lendCmd (by decide) (Dev.pairEffect_lendBegin ..)
    exact ⟨t, ht, hquiet (congrArg Sec.reports (Dev.lendBegin_keeps _).sec)⟩
  · obtain ⟨rfl, rfl⟩ := Prod.mk.inj (List.mem_singleton.mp hi)
    obtain ⟨t, ht, -, hquiet⟩ := State.writeComplement_effect h oneField_lendCmd (by decide) (Dev.pairEffect_lendEnd ..)
    exact ⟨t, ht, hquiet (congrArg Sec.reports (Dev.lendEnd_keeps _).sec)⟩

theorem Dev.lent_keeps (d : Dev) (op : Nat) : d.LendKeeps (d.lent op) := by
  unfold Dev.lent
  split
  · exact d.lendBegin_keeps
  · exact d.lendEnd_keeps

theorem Dev.lent_rejected {op : Nat} (hop : op = 1 ∨ op = 2) (hb : ¬ (op = 1 ∧ d.mayLend))
    (he : ¬ (op = 2 ∧ d.tier.lend = .lending)) : d.lent op = d.flag .tierLendReject := by
  rcases hop with rfl | rfl
  · exact (if_pos rfl).trans (d.lendBegin_not fun h => hb ⟨rfl, h⟩)
  · exact (if_neg (by decide)).trans (d.lendEnd_not fun h => he ⟨rfl, h⟩)

/-- The device at the end of a loan's zeroing. -/
def Dev.loanEnded (d : Dev) : Dev :=
  let b := d.rd .tierLendBase * 2 ^ 21
  let n := d.rd .tierLendPages * 2 ^ 21
  let inside := fun (a : Nat) => b ≤ a && a < b + n
  let key := d.tier.lendKey
  let d := match key with | some q => d.forgetKey q | none => d
  { d with
    mem := { d.mem with
      hbm := d.mem.hbm.filter fun e => !inside e.1
      poisonHbm := d.mem.poisonHbm.filter fun a => !inside a }
    tier := { d.tier with lend := .off, lendKey := none }
    gmem := { d.gmem with sources := d.gmem.sources.filter fun x => some x.key ≠ key } }

theorem Dev.loanEnded_effect (d : Dev) : d.loanEnded.tier = { d.tier with lend := .off, lendKey := none } ∧
    d.loanEnded.mem.hbm = d.mem.hbm.clear (d.rd .tierLendBase * 2 ^ 21) (d.rd .tierLendPages * 2 ^ 21) ∧
    d.loanEnded.cores = d.cores ∧ d.loanEnded.job = d.job ∧ d.loanEnded.sec = d.sec := by
  unfold Dev.loanEnded
  cases d.tier.lendKey with
  | none => exact ⟨rfl, rfl, rfl, rfl, rfl⟩
  | some q => exact ⟨rfl, rfl, rfl, rfl, rfl⟩

theorem exec_lendZeroingEnd {at_ : Nat} (hc : s.dev.clocked = true) (h : s.dev.tier.lend = .zeroing) :
    exec (.lendZeroingEnd at_) s = .next { s with clk := s.clk.toCount at_, dev := s.dev.loanEnded } := by
  obtain ⟨-, -, -, -, hsec⟩ := s.dev.loanEnded_effect
  change execLendZeroingEnd at_ s = _
  unfold execLendZeroingEnd
  exact State.act_quiet _ hc (if_pos h) (if_pos h) (congrArg Sec.reports hsec)

theorem exec_lendZeroingEnd_none {at_ : Nat} (h : s.dev.tier.lend ≠ .zeroing) :
    exec (.lendZeroingEnd at_) s = .next s := by
  change execLendZeroingEnd at_ s = _
  unfold execLendZeroingEnd
  exact State.act_none (if_neg h)

end Sys2Proof.Machine

namespace Sys2Proof

open Machine

/-- Settles O37. -/
theorem tierMovesAndLending : Obligations.TierMovesAndLending := by
  unfold Obligations.TierMovesAndLending
  refine ⟨fun s i o m hc ho hm => ⟨fun ht hz => exec_tierMoveCommit_effect hc ho hm ht hz, fun hn => ?_⟩, fun s i hn => ?_,
    fun s m same p op i h hi => ?_, fun s at_ hc hl => ?_, fun s at_ hl => exec_lendZeroingEnd_none hl⟩
  · refine exec_tierMoveCommit_none fun o' m' ho' hm' => ?_
    obtain rfl := Option.some.inj (ho.symm.trans ho')
    obtain rfl := Option.some.inj (hm.symm.trans hm')
    exact hn
  · refine exec_tierMoveCommit_none fun o m ho hm => ?_
    rw [ho] at hn
    exact absurd (hm.symm.trans hn) (Option.some_ne_none m)
  · intro begins ends
    obtain ⟨t, ht, htouch⟩ := exec_lend h hi
    have hp := s.touches_paired m same 0xB0 0x100
    have hcmd := (s.paired m same 0xB0 0x100).lent_keeps op
    have hop : op = 1 ∨ op = 2 := by
      rcases List.mem_cons.mp hi with heq | hi
      · exact .inl (Prod.mk.inj heq).2
      · exact .inr (Prod.mk.inj (List.mem_singleton.mp hi)).2
    refine ⟨t, ht, ?_, ?_, ?_, fun hb => ?_, fun he => ?_, fun hb he => ?_⟩
    · rw [htouch.mem, hcmd.mem, hp.mem]
    · rw [htouch.cores, hcmd.cores, hp.cores]
    · rw [htouch.job, hcmd.job, hp.job]
    · obtain ⟨rfl, hmay⟩ := hb
      have hl : (s.paired m same 0xB0 0x100).lent 1 = _ := (if_pos rfl).trans ((s.paired m same 0xB0 0x100).lendBegin_may hmay)
      rw [hl] at htouch
      refine ⟨htouch.tier, ?_⟩
      rw [htouch.rd _, Dev.rd_wr_fits _ _ (by decide)]
    · obtain ⟨rfl, hmay⟩ := he
      have hl : (s.paired m same 0xB0 0x100).lent 2 = _ :=
        (if_neg (by decide)).trans ((s.paired m same 0xB0 0x100).lendEnd_may hmay)
      rw [hl] at htouch
      exact htouch.tier
    · rw [Dev.lent_rejected (d := s.paired m same 0xB0 0x100) hop hb he] at htouch
      refine ⟨htouch.tier, ?_⟩
      rw [htouch.rd _, Dev.rd_flag_same _ _ rfl]
  · intro base n
    obtain ⟨htier, hhbm, hcores, hjob, -⟩ := s.dev.loanEnded_effect
    refine ⟨s.dev.loanEnded, exec_lendZeroingEnd hc hl, ?_, ?_, fun a => ?_, hcores, hjob⟩
    · rw [htier]
    · rw [htier]
    · rw [hhbm]
      exact Memory.clear_read ..

end Sys2Proof
end

section
/-! SUPPORT. The agent's messages: the join, rekeying, quotes and reports (chapter 20). -/

-- One proof at a time: each thread that elaborates beside the others reserves its stack.
set_option Elab.async false

namespace Sys2Proof.Machine

open Sys2Proof

variable {s : State} {d e t u : Dev} {k : Clock} {m : Master} {same : Bool} {p : Page}

/-! ### What a packet of the agent carries -/

theorem macGood_crc (x : Packet) (c : BitVec 32) (key : List Byte) : ({ x with crc := c } : Packet).macGood key = x.macGood key := rfl

theorem agentContent_crc (x : Packet) (c : BitVec 32) : agentContent { x with crc := c } = agentContent x := rfl

theorem agentPayload_length (content : List Byte) : (agentPayload content).length = 64 + content.length := by
  unfold agentPayload
  rw [List.length_append, List.length_append, leBytes_size, List.length_replicate]

/-- The payload of an agent message, filled up to whole blocks, holds the content. -/
theorem agentContent_agentPayload {x : Packet} {content : List Byte} {n : Nat} (hx : x.payload = padTo 0 n (agentPayload content))
    (hn : (agentPayload content).length ≤ n) (hc : content.length < 2 ^ 16) : agentContent x = content := by
  unfold agentContent
  have hlen : field x.payload 0 2 = content.length := by
    unfold field
    rw [hx, slice_padTo hn]
    unfold agentPayload
    rw [List.append_assoc, slice_append_left _ (by rw [leBytes_size]), slice_whole (leBytes_size ..), leNat_leBytes]
    exact Nat.mod_eq_of_lt hc
  rw [hlen, hx, slice_padTo hn]
  unfold agentPayload
  exact (slice_append_right content (m := 64) (by rw [List.length_append, leBytes_size, List.length_replicate]) 0 _).trans
    (slice_whole rfl)

/-- What the payload of a packet says that a device makes: its content, and after the join its MAC (R444). -/
theorem Dev.makePacket_message (d : Dev) (s : Sending) (mid order fl : Nat) :
    (∀ content, s.payload = agentPayload content → content.length < 2 ^ 16 →
      agentContent (d.makePacket s mid order fl) = content) ∧
    (d.sec.fixed = true → BitVec.ofNat 2 s.chan = 3 → opSealed (BitVec.ofNat 8 s.op).toNat = true →
      (d.makePacket s mid order fl).macGood d.sec.key = true) := by
  unfold Dev.makePacket
  extract_lets -merge +onlyGivenNames pl p q
  have hlong : s.payload.length ≤ 64 * max 1 (ceilDiv s.payload.length 64) := by
    unfold ceilDiv
    omega
  have hpl : 64 ≤ p.payload.length := by
    change 64 ≤ pl.length
    unfold pl
    unfold padTo
    rw [List.length_append, List.length_take, List.length_replicate]
    omega
  rw [macGood_crc, agentContent_crc]
  refine ⟨fun content hs hc => ?_, fun hf hch hop => ?_⟩
  · have hp : agentContent p = content := by
      refine agentContent_agentPayload (n := 64 * max 1 (ceilDiv s.payload.length 64)) ?_ (hs ▸ hlong) hc
      change pl = _
      unfold pl
      rw [hs]
    change agentContent (d.addMac p) = content
    unfold Dev.addMac
    split
    · exact (agentContent_sealed p _ hpl).trans hp
    · exact hp
  · have hmac : d.addMac p = p.sealed d.sec.key := by
      unfold Dev.addMac
      refine if_pos ?_
      rw [Bool.and_eq_true, Bool.and_eq_true, decide_eq_true_eq]
      exact ⟨⟨hf, hch⟩, hop⟩
    change (d.addMac p).macGood d.sec.key = true
    rw [hmac]
    exact macGood_sealed p _ hpl

/-- From `d` to `t` a message of the agent has been sent to the fabric manager: it comes to this device's own delivery or
leaves on the port of the route table, whole and with its MAC (R444, R446). -/
def Dev.Posts (d t : Dev) (op : BitVec 8) (content : List Byte) (flowlet : Nat → Nat) : Prop :=
  ∀ fm : BitVec 16, d.rd .secJoinFm = fm.toNat → (∀ i : Fin 81, d.fab.ports[i].queues.length = 8) →
    ∃ x : Packet, d.Originates t x ∧ x.dst = fm ∧ x.chan = 3 ∧ x.op = op ∧
      x.tag = 0 ∧ x.epoch = BitVec.ofNat 16 (d.rd .fabCfgMgmtEpoch) ∧ x.crc = x.crcOf ∧
      x.flowlet = BitVec.ofNat 12 (flowlet (d.fab.flowlet fm.toNat)) ∧
      (content.length < 2 ^ 16 → agentContent x = content) ∧
      (d.sec.fixed = true → opSealed op.toNat = true → x.macGood d.sec.key = true)

theorem Dev.Posts.mono {op : BitVec 8} {content : List Byte} {f : Nat → Nat} (h : d.Posts t op content f) (g : t.Mails u) :
    d.Posts u op content f := fun fm hfm hq =>
  let ⟨x, hx, hrest⟩ := h fm hfm hq
  ⟨x, hx.mono g, hrest⟩

theorem Dev.posts_agentSend (d : Dev) (k : Clock) (op : Nat) (content : List Byte) :
    d.Posts (d.agentSend k op content) (BitVec.ofNat 8 op) content id := by
  intro fm hfm hq
  have hs : d.rd .secJoinFm < 2 ^ 16 := hfm ▸ fm.isLt
  obtain ⟨hdst, -, hchan, hop, -, htag, hepoch, hflow, hcrc⟩ := d.makePacket_header
    ⟨d.mgmtKey, d.rd .secJoinFm, 3, op, 0, 0, agentPayload content, none, []⟩
    (if d.rd .secJoinFm = d.node then 0xFFFF else d.chooseMid d.mgmtKey (d.rd .secJoinFm)
      ((d.fab.takeOrder d.mgmtKey (d.rd .secJoinFm) 3).2.flowlet (d.rd .secJoinFm)))
    (d.fab.takeOrder d.mgmtKey (d.rd .secJoinFm) 3).1
    ((d.fab.takeOrder d.mgmtKey (d.rd .secJoinFm) 3).2.flowlet (d.rd .secJoinFm))
  obtain ⟨hcontent, hmac⟩ := d.makePacket_message
    ⟨d.mgmtKey, d.rd .secJoinFm, 3, op, 0, 0, agentPayload content, none, []⟩
    (if d.rd .secJoinFm = d.node then 0xFFFF else d.chooseMid d.mgmtKey (d.rd .secJoinFm)
      ((d.fab.takeOrder d.mgmtKey (d.rd .secJoinFm) 3).2.flowlet (d.rd .secJoinFm)))
    (d.fab.takeOrder d.mgmtKey (d.rd .secJoinFm) 3).1
    ((d.fab.takeOrder d.mgmtKey (d.rd .secJoinFm) 3).2.flowlet (d.rd .secJoinFm))
  refine ⟨d.packetOf ⟨d.mgmtKey, d.rd .secJoinFm, 3, op, 0, 0, agentPayload content, none, []⟩,
    Dev.originates_originate hq hs k, ?_, hchan, hop, htag, hepoch, hcrc, ?_, hcontent content rfl, fun hf ho => hmac hf rfl ho⟩
  · refine (show _ = BitVec.ofNat 16 (d.rd .secJoinFm) from hdst).trans ?_
    rw [hfm, BitVec.ofNat_toNat]
    exact BitVec.setWidth_eq fm
  · refine (show _ = BitVec.ofNat 12 _ from hflow).trans ?_
    rw [Fab.flowlet_takeOrder, hfm]
    rfl

/-- A device that agrees in ports, routes, registers and key sends the same message. -/
theorem Dev.Posts.congr {op : BitVec 8} {content : List Byte} {f g : Nat → Nat} (h : e.Posts t op content g)
    (hregs : e.regs = d.regs) (hord : e.order = d.order) (hports : e.fab.ports = d.fab.ports)
    (hroutes : e.fab.live = d.fab.live) (hfixed : e.sec.fixed = d.sec.fixed) (hkey : e.sec.key = d.sec.key)
    (hflow : BitVec.ofNat 12 (g (e.fab.flowlet (d.rd .secJoinFm))) = BitVec.ofNat 12 (f (d.fab.flowlet (d.rd .secJoinFm)))) :
    d.Posts t op content f := by
  intro fm hfm hq
  have hrd : ∀ f, e.rd f = d.rd f := fun f => by unfold Dev.rd; rw [hregs]
  obtain ⟨x, ho, hdst, hchan, hop, htag, hepoch, hcrc, hfl, hcontent, hmac⟩ := h fm (by rw [hrd]; exact hfm) (by rw [hports]; exact hq)
  refine ⟨x, ?_, hdst, hchan, hop, htag, by rw [hepoch, hrd], hcrc, ?_, hcontent, fun hf hs => ?_⟩
  · have hnode : e.node = d.node := by unfold Dev.node; rw [hrd]
    have hroute : e.route = d.route := by funext a b; unfold Dev.route; rw [hroutes]
    have huse : e.usable = d.usable := by
      funext c
      unfold Dev.usable Dev.portPresent
      rw [hports, hord]
    have hchoose : e.choosePort = d.choosePort := by
      funext a b
      unfold Dev.choosePort
      rw [hroute, huse]
    unfold Dev.Originates at ho ⊢
    rw [hnode, hchoose] at ho
    exact ho
  · rw [hfl, ← hfm, hflow]
  · rw [← hkey]
    exact hmac (hfixed.trans hf) hs

/-! ### The hello -/

theorem Dev.drawScalar_snd (d : Dev) : d.drawScalar.2 = { d with free := d.free + 1 } := rfl

theorem Dev.drawScalar_bounds (d : Dev) : 1 ≤ d.drawScalar.1 ∧ d.drawScalar.1 < p521n := by
  have hpos : 0 < p521n - 1 := by decide
  have h := Nat.mod_lt d.draw.1 hpos
  unfold Dev.drawScalar
  dsimp only
  omega

/-- The content of the hello, made where none has been. -/
def Dev.helloReady (d : Dev) (k : Clock) : Dev := if d.sec.helloAt.isNone then d.makeHello k else d

/-- The device that has sent the hello. -/
def Dev.helloSent (d : Dev) (k : Clock) : Dev :=
  ((d.helloReady k).agentSend k 0x71 (d.helloReady k).sec.hello).modSec fun s => { s with helloAt := some k.units }

theorem Dev.makeHello_eq (d : Dev) (k : Clock) : d.makeHello k =
    { d with
      free := d.free + 2
      sec := { d.sec with
        ephemeral := d.drawScalar.1
        nonce := sha512 (ecPublic d.drawScalar.1)
        session := .joining
        hello := (d.drawScalar.2.signQuote (d.quoteBody k (sha512 (ecPublic d.drawScalar.1)))).1 ++
          ecPublic d.drawScalar.1 ++ List.replicate 3 0 ++ d.certificate } } := rfl

theorem Dev.helloReady_keeps (d : Dev) (k : Clock) : (d.helloReady k).mem = d.mem ∧ (d.helloReady k).cores = d.cores ∧
    (d.helloReady k).job = d.job ∧ (d.helloReady k).sec.reports = d.sec.reports ∧ (d.helloReady k).regs = d.regs ∧
    (d.helloReady k).order = d.order ∧ (d.helloReady k).fab = d.fab ∧ (d.helloReady k).sec.fixed = d.sec.fixed ∧
    (d.helloReady k).sec.key = d.sec.key := by
  unfold Dev.helloReady
  split
  · rw [Dev.makeHello_eq]
    exact ⟨rfl, rfl, rfl, rfl, rfl, rfl, rfl, rfl, rfl⟩
  · exact ⟨rfl, rfl, rfl, rfl, rfl, rfl, rfl, rfl, rfl⟩

theorem exec_joinHello (hc : s.dev.clocked = true) (hj : s.dev.joins = true)
    (hk : (match s.dev.sec.helloAt with | some u => s.clk.toUnit (u + 70000000) | none => s.clk) = k) :
    exec .joinHello s = .next { s with clk := k, dev := s.dev.helloSent k } := by
  have hsec : (s.dev.helloSent k).sec.reports = s.dev.sec.reports := by
    obtain ⟨-, -, -, hr, -⟩ := s.dev.helloReady_keeps k
    rw [← hr, ← ((s.dev.helloReady k).passes_agentSend k 0x71 (s.dev.helloReady k).sec.hello).sec]
    rfl
  change execJoinHello s = _
  unfold execJoinHello
  refine State.act_quiet k hc ?_ ((if_pos hj).trans rfl) hsec
  subst hk
  cases s.dev.sec.helloAt with
  | none => rfl
  | some u => exact if_pos hj

theorem exec_joinHello_none (hj : s.dev.joins ≠ true) : exec .joinHello s = .next s := by
  change execJoinHello s = _
  unfold execJoinHello
  exact State.act_none (if_neg hj)

/-- The hello goes to the fabric manager with the content that has been made once. -/
theorem Dev.helloSent_effect (d : Dev) (k : Clock) : (d.helloSent k).mem = d.mem ∧ (d.helloSent k).cores = d.cores ∧
    (d.helloSent k).job = d.job ∧ (d.helloSent k).sec = { (d.helloReady k).sec with helloAt := some k.units } ∧
    d.Posts (d.helloSent k) 0x71 (d.helloReady k).sec.hello id := by
  obtain ⟨hmem, hcores, hjob, -, hregs, hord, hfab, hfixed, hkey⟩ := d.helloReady_keeps k
  have hsend := (d.helloReady k).passes_agentSend k 0x71 (d.helloReady k).sec.hello
  refine ⟨hsend.sends.mem.trans hmem, hsend.sends.cores.trans hcores, hsend.sends.job.trans hjob,
    congrArg (fun x : Sec => { x with helloAt := some k.units }) hsend.sec, ?_⟩
  have hpost := (d.helloReady k).posts_agentSend k 0x71 (d.helloReady k).sec.hello
  refine (hpost.mono (Dev.mails_sec ..)).congr hregs hord ?_ ?_ hfixed hkey ?_
  · rw [hfab]
  · rw [hfab]
  · rw [hfab]

/-! ### The join -/

/-- A register with one field, which the hub writes by a pair at the join. -/
structure Dev.JoinReg (d : Dev) (page off : Nat) (p : Page) (f : Fld) : Prop where
  page : d.page page = some p
  idx : p.idx < 128
  fields : (p.fields off).filter (fun x => p.holds x.1) = [(f, 0)]
  access : f.row.access = .wg
  inst : p.instOf f = 0
  allows : ∀ (e : Dev) v, e.sec = d.sec → e.allowsWrite p.blk off v = true
  blk : p.blk ≠ .pwr
  lo : f.row.lo = 0
  other : f ∉ fldsCommon
  effect : ∀ (e : Dev) k v, (e.pairEffect k p off v = none) ∨ ∃ x, e.pairEffect k p off v = some (x, true) ∧ e.Touches [.fab] [] x

theorem Dev.writePair_join {page off v : Nat} {f : Fld} (h : d.JoinReg page off p f) (hs : e.sec = d.sec) (k : Clock) :
    ∃ x, e.Touches [.fab] [] x ∧ (e.writePair k p off v).1 = x.wr f (bitRange v f.row.hi f.row.lo) := by
  have hw1c : [(f, 0)].filter (fun x => x.1.row.access = .w1c) = [] := by simp [h.access]
  have hwg : [(f, 0)].filter (fun x => x.1.row.access = .wg) = [(f, 0)] := by simp [h.access]
  have hw : ∀ e : Dev, e.writeField p true v f 0 = e.wr f (bitRange v f.row.hi f.row.lo) := by
    intro e; simp [Dev.writeField, h.access, h.inst]
  unfold Dev.writePair
  dsimp only
  rw [h.fields, hw1c, hwg, show e.writeFields p true [] v = e from rfl, h.allows e v hs]
  simp only [Dev.writeFields, List.foldl_nil, List.isEmpty_cons, Bool.not_true, Bool.or_self, Bool.false_eq_true, if_false]
  rcases h.effect e k v with he | ⟨x, he, hx⟩
  · rw [he]
    exact ⟨e, .refl e, hw e⟩
  · rw [he]
    refine ⟨x, hx, ?_⟩
    dsimp only
    generalize hb : p.blk = b
    cases b with
    | pwr => exact absurd hb h.blk
    | _ => exact hw x

/-- The hub's write of the join leaves all but the register, the books of its page, and order numbers of a forgotten key. -/
theorem Dev.joinWrite_effect {page off v : Nat} {f : Fld} (h : d.JoinReg page off p f) (hs : e.sec = d.sec) (hord : e.order = d.order)
    (hv : v < 2 ^ f.width) (k : Clock) :
    e.Touches [.regs, .ctl, .updated, .fab] (f :: fldsCommon) (e.joinWrite k page off v) ∧ (e.joinWrite k page off v).rd f = v := by
  have hpage : e.page page = some p := by
    rw [← h.page]
    unfold Dev.page
    rw [hord]
  unfold Dev.joinWrite
  rw [hpage]
  dsimp only
  have hbefore : e.Records ((((e.expireGuard k page p).breakGuard page p .hub).stage k ⟨.hub, page, off, v, true⟩ p).closeGuard page) :=
    (((e.records_expireGuard k page h.idx).trans (Dev.records_breakGuard _ page h.idx .hub)).trans
      (Dev.records_stage _ k _ h.idx)).trans (.books _)
  generalize ((((e.expireGuard k page p).breakGuard page p .hub).stage k ⟨.hub, page, off, v, true⟩ p).closeGuard page) = y at *
  have hy := hbefore.touches
  obtain ⟨x, hx, hwrite⟩ := Dev.writePair_join (v := v) h (hy.sec.trans hs) k
  rw [hwrite]
  have hlast := (Dev.records_noteLast (x.wr f (bitRange v f.row.hi f.row.lo)) h.idx ⟨.hub, page, off + 0x2000, v, true⟩ 0 .hub).touches
  have hsub : fldsCommon ⊆ f :: fldsCommon := List.subset_cons_self ..
  refine ⟨?_, ?_⟩
  · have h1 := hy.mono (ps := [.regs, .ctl, .updated, .fab]) (by decide) hsub
    have h2 := h1.next hx (by decide) (List.nil_subset _)
    have h3 := h2.next (Dev.touches_wr x f (bitRange v f.row.hi f.row.lo) 0 0) (by decide)
      (List.cons_subset_cons f (List.nil_subset _))
    exact h3.next hlast (by decide) hsub
  · have hwidth : bitRange v f.row.hi f.row.lo % 2 ^ f.width = v := by
      unfold Fld.width at hv ⊢
      rw [h.lo] at hv ⊢
      unfold bitRange
      simp only [Nat.sub_zero, Nat.pow_zero, Nat.div_one] at hv ⊢
      rw [Nat.mod_mod, Nat.mod_eq_of_lt hv]
    rw [hlast.rd f h.other, Dev.rd_wr_same, hwidth]

theorem Dev.joinReg_node (hf : d.sec.fixed = false) : d.JoinReg 0x230 0x14 ⟨.sec, 0, 79⟩ .secNode where
  page := by unfold Dev.page; cases d.order <;> rfl
  idx := by decide
  fields := by decide
  access := rfl
  inst := rfl
  allows e v he := by
    have : e.allowsWrite .sec 0x14 v = !e.sec.fixed := rfl
    rw [this, he, hf]
    rfl
  blk := by decide
  lo := rfl
  other := by decide
  effect e k v := .inl rfl

theorem Dev.joinReg_epoch (hf : d.sec.fixed = false) : d.JoinReg 0x100 0x20C ⟨.fab, 0, 66⟩ .fabCfgMgmtEpoch where
  page := by unfold Dev.page; cases d.order <;> rfl
  idx := by decide
  fields := by decide
  access := rfl
  inst := rfl
  allows e v he := by
    have : e.allowsWrite .fab 0x20C v = !e.sec.fixed := rfl
    rw [this, he, hf]
    rfl
  blk := by decide
  lo := rfl
  other := by decide
  effect e k v := .inr ⟨_, rfl, Dev.touches_setMgmtEpoch ..⟩

theorem Dev.joinReg_seedLo (hf : d.sec.fixed = false) : d.JoinReg 0x100 0x204 ⟨.fab, 0, 66⟩ .fabCfgMseedLo where
  page := by unfold Dev.page; cases d.order <;> rfl
  idx := by decide
  fields := by decide
  access := rfl
  inst := rfl
  allows e v he := by
    have : e.allowsWrite .fab 0x204 v = !e.sec.fixed := rfl
    rw [this, he, hf]
    rfl
  blk := by decide
  lo := rfl
  other := by decide
  effect e k v := .inl rfl

theorem Dev.joinReg_seedHi (hf : d.sec.fixed = false) : d.JoinReg 0x100 0x208 ⟨.fab, 0, 66⟩ .fabCfgMseedHi where
  page := by unfold Dev.page; cases d.order <;> rfl
  idx := by decide
  fields := by decide
  access := rfl
  inst := rfl
  allows e v he := by
    have : e.allowsWrite .fab 0x208 v = !e.sec.fixed := rfl
    rw [this, he, hf]
    rfl
  blk := by decide
  lo := rfl
  other := by decide
  effect e k v := .inl rfl

/-- The device with what the join has written. -/
def Dev.joinFields (d : Dev) (k : Clock) (c : List Byte) : Dev :=
  (((d.joinWrite k 0x230 0x14 (field c 0 2)).joinWrite k 0x100 0x20C (field c 2 2)).joinWrite k 0x100 0x204
    (field c 4 4)).joinWrite k 0x100 0x208 (field c 8 4)

/-- The four registers of the join are written, and nothing else of memories, cores, job and security state changes. -/
theorem Dev.joinFields_effect (hf : d.sec.fixed = false) (k : Clock) (c : List Byte) :
    ((d.joinFields k c).mem = d.mem ∧ (d.joinFields k c).cores = d.cores ∧ (d.joinFields k c).job = d.job ∧
      (d.joinFields k c).sec = d.sec) ∧
    (d.joinFields k c).rd .secNode = field c 0 2 ∧ (d.joinFields k c).rd .fabCfgMgmtEpoch = field c 2 2 ∧
    (d.joinFields k c).rd .fabCfgMseedLo = field c 4 4 ∧ (d.joinFields k c).rd .fabCfgMseedHi = field c 8 4 := by
  obtain ⟨h1, v1⟩ := Dev.joinWrite_effect (Dev.joinReg_node hf) (e := d) (v := field c 0 2) rfl rfl (field_lt_bits ..) k
  unfold Dev.joinFields
  generalize d.joinWrite k 0x230 0x14 (field c 0 2) = a at *
  obtain ⟨h2, v2⟩ := Dev.joinWrite_effect (Dev.joinReg_epoch hf) (e := a) (v := field c 2 2) h1.sec h1.order (field_lt_bits ..) k
  generalize a.joinWrite k 0x100 0x20C (field c 2 2) = b at *
  obtain ⟨h3, v3⟩ := Dev.joinWrite_effect (Dev.joinReg_seedLo hf) (e := b) (v := field c 4 4) (h2.sec.trans h1.sec)
    (h2.order.trans h1.order) (field_lt_bits ..) k
  generalize b.joinWrite k 0x100 0x204 (field c 4 4) = x at *
  obtain ⟨h4, v4⟩ := Dev.joinWrite_effect (Dev.joinReg_seedHi hf) (e := x) (v := field c 8 4)
    (h3.sec.trans (h2.sec.trans h1.sec)) (h3.order.trans (h2.order.trans h1.order)) (field_lt_bits ..) k
  generalize x.joinWrite k 0x100 0x208 (field c 8 4) = y at *
  refine ⟨⟨?_, ?_, ?_, ?_⟩, ?_, ?_, ?_, v4⟩
  · rw [h4.mem, h3.mem, h2.mem, h1.mem]
  · rw [h4.cores, h3.cores, h2.cores, h1.cores]
  · rw [h4.job, h3.job, h2.job, h1.job]
  · rw [h4.sec, h3.sec, h2.sec, h1.sec]
  · rw [h4.rd _, h3.rd _, h2.rd _, v1]
  · rw [h4.rd _, h3.rd _, v2]
  · rw [h4.rd _, v3]

theorem Dev.acceptsJoin_fixed {x : Packet} (h : d.acceptsJoin x = true) : d.sec.fixed = false := by
  unfold Dev.acceptsJoin Dev.joins at h
  simp only [Bool.and_eq_true, Bool.not_eq_true'] at h
  tauto

theorem exec_joinAccept {x : Packet} (hc : s.dev.clocked = true) (hop : x.op = 0x72) (h : s.dev.acceptsJoin x = true) :
    exec (.joinAccept x) s = .next { s with dev := (s.dev.joinFields s.clk (agentContent x)).startSession x } := by
  obtain ⟨⟨-, -, -, hsec⟩, -⟩ := Dev.joinFields_effect (Dev.acceptsJoin_fixed h) s.clk (agentContent x)
  change execJoinAccept x s = _
  unfold execJoinAccept
  refine State.now_quiet hc ?_ (congrArg Sec.reports hsec :)
  rw [if_neg (not_not_intro hop), h]
  rfl

theorem exec_joinAccept_drop {x : Packet} (hc : s.dev.clocked = true) (hop : x.op = 0x72) (h : s.dev.acceptsJoin x = false) :
    exec (.joinAccept x) s = .next { s with dev := s.dev.macDrop } := by
  change execJoinAccept x s = _
  unfold execJoinAccept
  refine State.now_quiet hc ?_ (congrArg Sec.reports (Dev.touches_macDrop _).sec)
  rw [if_neg (not_not_intro hop), h]
  rfl

/-! ### Rekeying -/

/-- A message of the management channel is accepted under the session. -/
def State.Known (s : State) (x : Packet) : Prop := s.dev.sec.fixed = true ∧ s.dev.macOk s.clk x = true

theorem State.known_iff {x : Packet} : (!s.dev.sec.fixed || !s.dev.macOk s.clk x) = true ↔ ¬ s.Known x := by
  unfold State.Known
  cases s.dev.sec.fixed <;> cases s.dev.macOk s.clk x <;> simp

/-- The device that has answered a rekeying: its nonce, and the answer under the old key. -/
def Dev.rekeyAnswered (d : Dev) (k : Clock) : Dev :=
  (d.drawScalar.2.draw.2).agentSend k 0x77 (ecPublic d.drawScalar.1 ++ leBytes 64 d.drawScalar.2.draw.1)

/-- The device under its new key. -/
def Dev.rekeyed (d : Dev) (k : Clock) (c : List Byte) : Dev :=
  (d.rekeyAnswered k).modSec fun s => { s with
    session := .rekeying, oldKey := some (s.key, k.count + 1000000)
    key := sessionKey d.drawScalar.1 (slice c 0 133) (leBytes 64 d.drawScalar.2.draw.1) (slice c 133 64) }

theorem Dev.rekeyAnswered_effect (d : Dev) (k : Clock) : (d.rekeyAnswered k).mem = d.mem ∧ (d.rekeyAnswered k).cores = d.cores ∧
    (d.rekeyAnswered k).job = d.job ∧ (d.rekeyAnswered k).sec = d.sec ∧
    d.Posts (d.rekeyAnswered k) 0x77 (ecPublic d.drawScalar.1 ++ leBytes 64 d.drawScalar.2.draw.1) id := by
  have hsend := d.drawScalar.2.draw.2.passes_agentSend k 0x77 (ecPublic d.drawScalar.1 ++ leBytes 64 d.drawScalar.2.draw.1)
  refine ⟨hsend.sends.mem, hsend.sends.cores, hsend.sends.job, hsend.sec, ?_⟩
  exact (d.drawScalar.2.draw.2.posts_agentSend k 0x77 _).congr rfl rfl rfl rfl rfl rfl rfl

theorem exec_rekey {x : Packet} (hc : s.dev.clocked = true) (hop : x.op = 0x77) (hk : s.Known x) (hv : s.dev.start.violated = false)
    (hp : (ecDecode (slice (agentContent x) 0 133)).isSome = true) :
    exec (.rekey x) s = .next { s with dev := s.dev.rekeyed s.clk (agentContent x) } := by
  obtain ⟨-, -, -, hsec, -⟩ := s.dev.rekeyAnswered_effect s.clk
  change execRekey x s = _
  unfold execRekey
  refine State.now_quiet hc ?_ (congrArg Sec.reports hsec :)
  have hgo : ¬ (s.dev.start.violated || (ecDecode (slice (agentContent x) 0 133)).isNone) = true := by
    rw [hv, Bool.false_or, Option.isNone_iff_eq_none, ← Option.not_isSome_iff_eq_none]
    exact not_not_intro hp
  dsimp only
  rw [if_neg (not_not_intro hop), if_neg fun h => State.known_iff.mp h hk, if_neg hgo]
  rfl

theorem exec_rekey_drop {x : Packet} (hc : s.dev.clocked = true) (hop : x.op = 0x77)
    (h : ¬ (s.Known x ∧ s.dev.start.violated = false ∧ (ecDecode (slice (agentContent x) 0 133)).isSome = true)) :
    ∃ t, exec (.rekey x) s = .next { s with dev := t } ∧ s.dev.Touches [.acc] [] t := by
  change ∃ t, execRekey x s = _ ∧ _
  unfold execRekey
  by_cases hk : s.Known x
  · refine ⟨s.dev.agentDrop, State.now_quiet hc ?_ (congrArg Sec.reports (Dev.touches_agentDrop _).sec), Dev.touches_agentDrop _⟩
    have hgo : (s.dev.start.violated || (ecDecode (slice (agentContent x) 0 133)).isNone) = true := by
      rw [Bool.or_eq_true, Option.isNone_iff_eq_none, ← Option.not_isSome_iff_eq_none]
      by_contra hn
      rw [not_or, Bool.not_eq_true, not_not] at hn
      exact h ⟨hk, hn⟩
    dsimp only
    rw [if_neg (not_not_intro hop), if_neg fun h => State.known_iff.mp h hk, if_pos hgo]
  · refine ⟨s.dev.macDrop, State.now_quiet hc ?_ (congrArg Sec.reports (Dev.touches_macDrop _).sec), Dev.touches_macDrop _⟩
    dsimp only
    rw [if_neg (not_not_intro hop), if_pos (State.known_iff.mpr hk)]

/-! ### Quotes -/

theorem exec_oldKeyExpire {key : List Byte} {n : Nat} (hc : s.dev.clocked = true) (h : s.dev.sec.oldKey = some (key, n)) :
    exec .oldKeyExpire s = .next { s with
      clk := s.clk.toCount n, dev := { s.dev with sec := { s.dev.sec with session := .joined, oldKey := none } } } := by
  change execOldKeyExpire s = _
  unfold execOldKeyExpire
  rw [h]
  refine State.act_quiet (d := { s.dev with sec := { s.dev.sec with session := .joined, oldKey := none } }) _ hc rfl ?_ rfl
  rw [h]
  rfl

theorem exec_oldKeyExpire_none (h : s.dev.sec.oldKey = none) : exec .oldKeyExpire s = .next s := by
  change execOldKeyExpire s = _
  unfold execOldKeyExpire
  refine State.act_none ?_
  rw [h]

/-- A packet's wish for a quote is let in. -/
def State.QuoteAsked (s : State) (x : Packet) : Prop :=
  (s.dev.sec.fixed = false ∨ s.dev.macOk s.clk x = true) ∧ s.dev.mayQuote = true

theorem exec_quoteRequest_drop {x : Packet} (hc : s.dev.clocked = true) (hop : x.op = 0x75) (h : ¬ s.QuoteAsked x) :
    ∃ t, exec (.quoteRequest x) s = .next { s with dev := t } ∧ s.dev.Touches [.acc] [] t := by
  change ∃ t, execQuoteRequest x s = _ ∧ _
  unfold execQuoteRequest
  by_cases hk : (s.dev.sec.fixed && !s.dev.macOk s.clk x) = true
  · refine ⟨s.dev.macDrop, State.now_quiet hc ?_ (congrArg Sec.reports (Dev.touches_macDrop _).sec), Dev.touches_macDrop _⟩
    rw [if_neg (not_not_intro hop), if_pos hk]
  · refine ⟨s.dev.agentDrop, State.now_quiet hc ?_ (congrArg Sec.reports (Dev.touches_agentDrop _).sec), Dev.touches_agentDrop _⟩
    have hq : (!s.dev.mayQuote) = true := by
      rw [Bool.not_eq_true']
      by_contra hn
      refine h ⟨?_, Bool.not_eq_false _ ▸ hn⟩
      revert hk
      cases s.dev.sec.fixed <;> cases s.dev.macOk s.clk x <;> simp
    rw [if_neg (not_not_intro hop), if_neg hk, if_pos hq]

/-- The device that has taken a packet's wish for a quote. -/
def Dev.quoteQueued (d : Dev) (body : List Byte) : Dev :=
  if d.sec.quote.isNone then d.modSec fun s => { s with quote := some ⟨false, body⟩ }
  else if d.sec.queued.length < 16 then d.modSec fun s => { s with queued := s.queued ++ [body] }
  else d.agentDrop

theorem Dev.quoteQueued_effect (d : Dev) (body : List Byte) : (d.quoteQueued body).mem = d.mem ∧
    (d.quoteQueued body).cores = d.cores ∧ (d.quoteQueued body).job = d.job ∧ (d.quoteQueued body).sec.reports = d.sec.reports ∧
    (d.quoteQueued body).sec = if d.sec.quote = none then { d.sec with quote := some ⟨false, body⟩ }
      else if d.sec.queued.length < 16 then { d.sec with queued := d.sec.queued ++ [body] } else d.sec := by
  unfold Dev.quoteQueued
  simp only [Option.isNone_iff_eq_none]
  split
  · exact ⟨rfl, rfl, rfl, rfl, rfl⟩
  · split
    · exact ⟨rfl, rfl, rfl, rfl, rfl⟩
    · have h := d.touches_agentDrop
      exact ⟨h.mem, h.cores, h.job, congrArg Sec.reports h.sec, h.sec⟩

theorem exec_quoteRequest {x : Packet} (hc : s.dev.clocked = true) (hop : x.op = 0x75) (h : s.QuoteAsked x) :
    exec (.quoteRequest x) s = .next { s with
      dev := s.dev.quoteQueued (s.dev.quoteBody s.clk (slice (agentContent x) 0 64)) } := by
  obtain ⟨-, -, -, hr, -⟩ := s.dev.quoteQueued_effect (s.dev.quoteBody s.clk (slice (agentContent x) 0 64))
  obtain ⟨hk, hm⟩ := h
  have hgo : ¬ (s.dev.sec.fixed && !s.dev.macOk s.clk x) = true := by
    rcases hk with hk | hk <;> rw [hk] <;> simp
  change execQuoteRequest x s = _
  unfold execQuoteRequest
  refine State.now_quiet hc ?_ hr
  rw [if_neg (not_not_intro hop), if_neg hgo, hm]
  rfl

theorem Dev.openPage_sec (h : d.openPage 0x230 m = some p) : p = ⟨.sec, 0, 79⟩ := by
  obtain ⟨hp, -⟩ := Option.filter_eq_some_iff.mp h
  refine (Option.some.inj (Eq.trans ?_ hp)).symm
  unfold Dev.page
  cases d.order <;> rfl

theorem oneField_quoteCmd : Page.OneField ⟨.sec, 0, 79⟩ 0x20 .secQuoteCmd where
  fields := by decide
  access := rfl
  inst := rfl
  allows _ _ := rfl

theorem Dev.pairEffect_quote (d : Dev) (k : Clock) :
    d.pairEffect k ⟨.sec, 0, 79⟩ 0x20 1 = some ((d.quoteCommand k 1).1, (d.quoteCommand k 1).2) := rfl

theorem Dev.quoteCommand_may (hq : d.sec.quote = none) (hm : d.mayQuote = true) (k : Clock) :
    (d.quoteCommand k 1).1 = d.modSec fun s => { s with quote := some ⟨true, d.quoteBody k d.nonceRegs⟩ } := by
  unfold Dev.quoteCommand
  rw [if_neg (by decide), hq, hm]
  rfl

theorem Dev.quoteCommand_not (h : ¬ (d.sec.quote = none ∧ d.mayQuote = true)) (k : Clock) :
    (d.quoteCommand k 1).1 = d.flag .secQuoteReject := by
  have hno : (d.sec.quote.isSome || !d.mayQuote) = true := by
    revert h
    cases d.sec.quote <;> cases d.mayQuote <;> simp
  unfold Dev.quoteCommand
  rw [if_neg (by decide), if_pos hno]

theorem exec_secQuoteCmd (h : s.PairReady m same 0x230 0x20 1 p) :
    ∃ t, exec (.secQuoteCmd m same) s = .next { s with clk := s.writeClock m same 0x230, dev := t } ∧
      ((s.paired m same 0x230 0x20).quoteCommand (s.writeClock m same 0x230) 1).1.Touches [.regs, .ctl, .updated]
        (.secQuoteCmd :: fldsCommon) t := by
  obtain rfl := Dev.openPage_sec h.reaches.opened
  obtain ⟨t, ht, -, hquiet⟩ := State.writeComplement_effect h oneField_quoteCmd (by decide) (Dev.pairEffect_quote ..)
  refine ⟨t, ht, hquiet ?_⟩
  by_cases hm : (s.paired m same 0x230 0x20).sec.quote = none ∧ (s.paired m same 0x230 0x20).mayQuote = true
  · rw [Dev.quoteCommand_may hm.1 hm.2]
    rfl
  · rw [Dev.quoteCommand_not hm]
    rfl

/-- The device that has sent or kept the quote that is done. -/
def Dev.quoteGiven (d : Dev) (k : Clock) (q : Quote) : Dev :=
  if q.commanded then (d.signQuote q.body).2.modSec fun s => { s with last := some (d.signQuote q.body).1 }
  else (d.signQuote q.body).2.agentSend k 0x76 (d.signQuote q.body).1

/-- The device that has done a quote, and makes the next. -/
def Dev.quoteEnded (d : Dev) (k : Clock) (q : Quote) : Dev :=
  (d.quoteGiven k q).modSec fun s => { s with quote := s.queued.head?.map fun b => ⟨false, b⟩, queued := s.queued.tail }

theorem Dev.quoteGiven_effect (d : Dev) (k : Clock) (q : Quote) : (d.quoteGiven k q).mem = d.mem ∧
    (d.quoteGiven k q).cores = d.cores ∧ (d.quoteGiven k q).job = d.job ∧
    (d.quoteGiven k q).sec = { d.sec with last := if q.commanded then some (d.signQuote q.body).1 else d.sec.last } ∧
    (q.commanded = false → d.Posts (d.quoteGiven k q) 0x76 (d.signQuote q.body).1 id) := by
  unfold Dev.quoteGiven
  cases q.commanded with
  | true => exact ⟨rfl, rfl, rfl, rfl, nofun⟩
  | false =>
    have hsend := (d.signQuote q.body).2.passes_agentSend k 0x76 (d.signQuote q.body).1
    exact ⟨hsend.sends.mem, hsend.sends.cores, hsend.sends.job, hsend.sec,
      fun _ => ((d.signQuote q.body).2.posts_agentSend k 0x76 _).congr rfl rfl rfl rfl rfl rfl rfl⟩

theorem exec_quoteDone {q : Quote} (hc : s.dev.clocked = true) (h : s.dev.sec.quote = some q) :
    exec .quoteDone s = .next { s with dev := s.dev.quoteEnded s.clk q } := by
  obtain ⟨-, -, -, hsec, -⟩ := s.dev.quoteGiven_effect s.clk q
  change execQuoteDone s = _
  unfold execQuoteDone
  refine State.now_quiet hc ?_ (congrArg Sec.reports hsec :)
  rw [h]
  rfl

theorem exec_quoteDone_none (h : s.dev.sec.quote = none) : exec .quoteDone s = .next s := by
  change execQuoteDone s = _
  unfold execQuoteDone
  refine State.now_none ?_
  rw [h]

/-! ### Reports -/

/-- One report of those that the end of a command sends where none of its packets has been. -/
def sendStep (k : Clock) (a : Dev × List Report) (r : Report) : Dev × List Report :=
  if r.orders.isEmpty then ((a.1.sendReport k r).1, a.2 ++ [(a.1.sendReport k r).2]) else (a.1, a.2 ++ [r])

theorem Dev.sendReports_eq (d : Dev) (k : Clock) : d.sendReports k = if !d.sec.fixed then d else
    { (d.sec.reports.foldl (sendStep k) (d, [])).1 with
      sec := { (d.sec.reports.foldl (sendStep k) (d, [])).1.sec with reports := (d.sec.reports.foldl (sendStep k) (d, [])).2 } } := rfl

/-- Reports that have been sent stay as they are, and are not sent again. -/
theorem sendStep_sent {k : Clock} {l : List Report} (h : ∀ r ∈ l, r.orders ≠ []) (a : Dev × List Report) :
    l.foldl (sendStep k) a = (a.1, a.2 ++ l) := by
  induction l generalizing a with
  | nil => rw [List.append_nil]; rfl
  | cons r l ih =>
    have hr : sendStep k a r = (a.1, a.2 ++ [r]) :=
      if_neg fun he => h r (List.mem_cons_self ..) (List.isEmpty_iff.mp he)
    rw [List.foldl_cons, hr, ih fun x hx => h x (List.mem_cons_of_mem _ hx), List.append_assoc]
    rfl

theorem Dev.sendRaised_sent (h : ∀ r ∈ d.sec.reports, r.orders ≠ []) (old : List Report) (k : Clock) : d.sendRaised old k = d := by
  unfold Dev.sendRaised
  rw [Dev.sendReports_eq, sendStep_sent h]
  split
  · rfl
  · split
    · rfl
    · rfl

theorem sendStep_keeps {k : Clock} {r : Report} {l : List Report} {a : Dev × List Report}
    (h : r ∈ a.2 ∨ (r ∈ l ∧ r.orders ≠ [])) : r ∈ (l.foldl (sendStep k) a).2 := by
  induction l generalizing a with
  | nil => exact h.elim id fun hx => absurd hx.1 (List.not_mem_nil)
  | cons x l ih =>
    refine ih ?_
    unfold sendStep
    rcases h with h | ⟨hm, ho⟩
    · split
      · exact .inl (List.mem_append_left _ h)
      · exact .inl (List.mem_append_left _ h)
    · rcases List.mem_cons.mp hm with rfl | hm
      · rw [if_neg fun he => ho (List.isEmpty_iff.mp he)]
        exact .inl (List.mem_append_right _ (List.mem_singleton_self _))
      · exact .inr ⟨hm, ho⟩

theorem Dev.sendRaised_mem {r : Report} (hr : r ∈ d.sec.reports) (ho : r.orders ≠ []) (old : List Report) (k : Clock) :
    r ∈ (d.sendRaised old k).sec.reports := by
  unfold Dev.sendRaised
  split
  · exact hr
  · rw [Dev.sendReports_eq]
    split
    · exact hr
    · exact sendStep_keeps (.inr ⟨hr, ho⟩)

/-- A report that an acknowledgement's content names. -/
def Report.ackedBy (c : List Byte) (r : Report) : Bool := r.kind = field c 0 1 && r.orders.contains (field c 1 3)

theorem exec_reportAck_drop {x : Packet} (hc : s.dev.clocked = true) (hop : x.op = 0x74) (h : ¬ s.Known x) :
    exec (.reportAck x) s = .next { s with dev := s.dev.macDrop } := by
  change execReportAck x s = _
  unfold execReportAck
  refine State.now_quiet hc ?_ (congrArg Sec.reports (Dev.touches_macDrop _).sec)
  dsimp only
  rw [if_neg (not_not_intro hop), if_pos (State.known_iff.mpr h)]

theorem exec_reportAck_none {x : Packet} (hc : s.dev.clocked = true) (hop : x.op = 0x74) (h : s.Known x)
    (hn : ∀ r ∈ s.dev.sec.reports, Report.ackedBy (agentContent x) r = false) :
    exec (.reportAck x) s = .next { s with dev := s.dev.agentDrop } := by
  have hany : ¬ s.dev.sec.reports.any (Report.ackedBy (agentContent x)) = true := fun ha => by
    obtain ⟨r, hr, ht⟩ := List.any_eq_true.mp ha
    rw [hn r hr] at ht
    exact Bool.false_ne_true ht
  change execReportAck x s = _
  unfold execReportAck
  refine State.now_quiet hc ?_ (congrArg Sec.reports (Dev.touches_agentDrop _).sec)
  dsimp only
  rw [if_neg (not_not_intro hop), if_neg fun hh => State.known_iff.mp hh h]
  exact congrArg some (if_neg hany)

theorem exec_reportAck {x : Packet} (hc : s.dev.clocked = true) (hop : x.op = 0x74) (h : s.Known x)
    (ho : ∀ r ∈ s.dev.sec.reports, r.orders ≠ []) (hy : ∃ r ∈ s.dev.sec.reports, Report.ackedBy (agentContent x) r = true) :
    exec (.reportAck x) s = .next { s with dev := s.dev.modSec fun s => { s with
      reports := s.reports.filter fun r => !Report.ackedBy (agentContent x) r } } := by
  change execReportAck x s = _
  unfold execReportAck
  have hd := State.now_some (s := s) (f := fun k d =>
    if x.op ≠ 0x74 then none
    else if !d.sec.fixed || !d.macOk k x then some d.macDrop
    else some (if d.sec.reports.any (Report.ackedBy (agentContent x)) then
        d.modSec fun s => { s with reports := s.reports.filter fun r => !Report.ackedBy (agentContent x) r }
      else d.agentDrop))
    (d := s.dev.modSec fun s => { s with reports := s.reports.filter fun r => !Report.ackedBy (agentContent x) r }) hc (by
      rw [if_neg (not_not_intro hop), if_neg fun hh => State.known_iff.mp hh h, if_pos (List.any_eq_true.mpr hy)])
  rw [Dev.sendRaised_sent fun r hr => ho r (List.mem_filter.mp hr).1] at hd
  exact hd

/-- The device that sends a report again on the next flowlet. -/
def Dev.flowAgain (d : Dev) : Dev :=
  { d with fab := { d.fab with
    flowReps := Sparse.set d.fab.flowReps 0 (d.rd .secJoinFm) (Sparse.get d.fab.flowReps 0 (d.rd .secJoinFm) + 1) } }

/-- The device that has sent a report again. -/
def Dev.reportRepeated (d : Dev) (k : Clock) (r : Report) : Dev :=
  (d.flowAgain.sendReport k r).1.modSec fun s => { s with
    reports := s.reports.map fun x => if x = r then (d.flowAgain.sendReport k r).2 else x }

theorem exec_reportRepeat {order : BitVec 24} {r : Report} (hc : s.dev.clocked = true) (hr : s.dev.reportOf order.toNat = some r)
    (hv : s.dev.start.violated = false ∨ r.kind = 1) (hk : s.clk.toCount (r.sentAt + 1000 * s.dev.rd .gmemCfgRetry) = k) :
    exec (.reportRepeat order) s = .next { s with
      clk := k, dev := (s.dev.reportRepeated k r).sendRaised s.dev.sec.reports k } := by
  have hsome : ((s.dev.reportOf order.toNat).filter fun r => !s.dev.start.violated || r.kind = 1) = some r := by
    rw [hr]
    refine if_pos ?_
    dsimp only
    rcases hv with hv | hv
    · rw [hv]; rfl
    · rw [hv, decide_eq_true rfl, Bool.or_true]
  change execReportRepeat order s = _
  unfold execReportRepeat
  dsimp only
  rw [hsome]
  exact State.act_next k hc hk rfl

theorem exec_reportRepeat_none {order : BitVec 24} (hr : s.dev.reportOf order.toNat = none) :
    exec (.reportRepeat order) s = .next s := by
  change execReportRepeat order s = _
  unfold execReportRepeat
  dsimp only
  rw [hr]
  exact State.act_none rfl

theorem Dev.reportOf_mem {n : Nat} {r : Report} (h : d.reportOf n = some r) : r ∈ d.sec.reports := List.mem_of_find?_eq_some h

/-- A report that is sent again: its packet, and its new number and time. -/
theorem Dev.reportRepeated_effect {r : Report} (hr : r ∈ d.sec.reports) (k : Clock) (old : List Report) :
    ((d.reportRepeated k r).sendRaised old k).mem = d.mem ∧ ((d.reportRepeated k r).sendRaised old k).cores = d.cores ∧
    ((d.reportRepeated k r).sendRaised old k).job = d.job ∧
    d.Posts ((d.reportRepeated k r).sendRaised old k) 0x73 r.message (· + 1) ∧
    ∃ r' ∈ ((d.reportRepeated k r).sendRaised old k).sec.reports, r'.kind = r.kind ∧ r'.content = r.content ∧
      r'.orders.length = r.orders.length + 1 ∧ r'.sentAt = k.count := by
  have hsend := d.flowAgain.passes_agentSend k 0x73 r.message
  have hlast := (d.reportRepeated k r).mails_sendRaised old k
  refine ⟨hlast.sends.mem.trans hsend.sends.mem, hlast.sends.cores.trans hsend.sends.cores,
    hlast.sends.job.trans hsend.sends.job, ?_, ?_⟩
  · refine (((d.flowAgain.posts_agentSend k 0x73 r.message).mono (Dev.mails_sec ..)).mono hlast).congr rfl rfl rfl rfl rfl rfl ?_
    have hflow : d.flowAgain.fab.flowlet (d.rd .secJoinFm) =
        (Sparse.get d.fab.flowBytes 0 (d.rd .secJoinFm) / 65536 + (Sparse.get d.fab.flowReps 0 (d.rd .secJoinFm) + 1)) % 4096 := by
      unfold Fab.flowlet Dev.flowAgain
      rw [Sparse.get_set_same]
    rw [hflow]
    unfold Fab.flowlet
    refine BitVec.eq_of_toNat_eq ?_
    rw [BitVec.toNat_ofNat, BitVec.toNat_ofNat]
    dsimp only [id]
    omega
  · refine ⟨(d.flowAgain.sendReport k r).2, Dev.sendRaised_mem ?_ ?_ old k, rfl, rfl, List.length_append, rfl⟩
    · change (d.flowAgain.sendReport k r).2 ∈ List.map _ (d.flowAgain.sendReport k r).1.sec.reports
      refine List.mem_map.mpr ⟨r, ?_, if_pos rfl⟩
      rw [show (d.flowAgain.sendReport k r).1.sec = d.sec from hsend.sec]
      exact hr
    · exact List.append_ne_nil_of_right_ne_nil _ (List.cons_ne_nil _ _)

/-! ### The security check -/

theorem exec_securityCheck_none {a b : Bool} (h : s.dev.start.firmware = false) : exec (.securityCheck a b) s = .next s := by
  change execSecurityCheck a b s = _
  unfold execSecurityCheck
  dsimp only
  rw [h]
  exact State.act_none rfl

theorem exec_securityCheck_good {a b : Bool} (hc : s.dev.clocked = true) (h : s.dev.start.firmware = true)
    (hg : s.dev.start.violated = true ∨ (a = true ∧ b = true))
    (hk : s.clk.toCount ((s.clk.count / 1000000 + 1) * 1000000) = k) :
    exec (.securityCheck a b) s = .next { s with clk := k } := by
  change execSecurityCheck a b s = _
  unfold execSecurityCheck
  dsimp only
  rw [h]
  refine State.act_quiet (d := s.dev) k hc ((if_pos rfl).trans hk) ?_ rfl
  cases hv : s.dev.start.violated with
  | true => rfl
  | false =>
    obtain ⟨rfl, rfl⟩ := hg.resolve_left (by rw [hv]; exact Bool.false_ne_true)
    rfl

theorem exec_securityCheck_bad {a b : Bool} (hc : s.dev.clocked = true) (h : s.dev.start.firmware = true)
    (hv : s.dev.start.violated = false) (hg : ¬ (a = true ∧ b = true))
    (hk : s.clk.toCount ((s.clk.count / 1000000 + 1) * 1000000) = k) :
    exec (.securityCheck a b) s = .next { s with
      clk := k, dev := (s.dev.violate k (if a then 2 else 1)).sendRaised s.dev.sec.reports k } := by
  change execSecurityCheck a b s = _
  unfold execSecurityCheck
  dsimp only
  rw [h]
  refine State.act_next k hc ((if_pos rfl).trans hk) ?_
  rw [hv]
  cases a with
  | false => rfl
  | true =>
    cases b with
    | false => rfl
    | true => exact absurd ⟨rfl, rfl⟩ hg

/-- The device as a security violation finds it, before the fault of its job. -/
def Dev.violation (d : Dev) (cause : Nat) : Dev :=
  ((((d.wr .secFaultCode 0x70).wr .secFaultCause cause).smbEvent 4).modStart fun s => { s with violated := true }).modSec
    fun s => { s with quote := none, queued := [] }

/-- From `d` to `e` nothing of the security state but the reports has changed. -/
def Dev.KeepsSec (d e : Dev) : Prop := ∃ r, e.sec = { d.sec with reports := r }

theorem Dev.KeepsSec.of_eq (h : e.sec = d.sec) : d.KeepsSec e := ⟨d.sec.reports, h⟩

theorem Dev.KeepsSec.trans {c : Dev} (h : c.KeepsSec d) (g : d.KeepsSec e) : c.KeepsSec e := by
  obtain ⟨r, hr⟩ := h
  obtain ⟨r', hr'⟩ := g
  exact ⟨r', by rw [hr', hr]⟩

theorem Dev.keepsSec_report (d : Dev) (kind : Nat) (c : List Byte) : d.KeepsSec (d.report kind c) := by
  unfold Dev.report
  split
  · exact .of_eq rfl
  · exact ⟨_, rfl⟩

theorem Dev.keepsSec_rereport (d : Dev) (old : Nat) (c : List Byte) : d.KeepsSec (d.rereport old c) :=
  Dev.KeepsSec.trans ⟨_, rfl⟩ (Dev.keepsSec_report ..)

theorem Dev.sec_setPhase (d : Dev) (x : JobPhase) : (d.setPhase x).sec = d.sec := by
  unfold Dev.setPhase
  split
  · rfl
  · exact (Dev.touches_hostEvent ..).sec

theorem Dev.keepsSec_runFault (d : Dev) (k : Clock) (code cause engine addr : Nat) :
    d.KeepsSec (d.runFault k code cause engine addr) := by
  unfold Dev.runFault
  split
  · extract_lets -merge +onlyGivenNames x old
    have hx : x.sec = d.sec := rfl
    split
    · exact (Dev.KeepsSec.of_eq (d := d) (e := x.wr .jobStateFault code) hx).trans (Dev.keepsSec_rereport ..)
    · exact .of_eq hx
  · split
    · exact .of_eq rfl
    · split
      · refine Dev.KeepsSec.trans (.of_eq ?_) (Dev.keepsSec_report ..)
        rw [(Dev.touches_smbEvent ..).sec, (Dev.touches_hostEvent ..).sec, Dev.sec_setPhase]
        rfl
      · exact .of_eq rfl

theorem sendStep_sec {k : Clock} {l : List Report} (a : Dev × List Report) : (l.foldl (sendStep k) a).1.sec = a.1.sec := by
  induction l generalizing a with
  | nil => rfl
  | cons r l ih =>
    rw [List.foldl_cons, ih]
    unfold sendStep
    split
    · exact (Dev.passes_agentSend ..).sec
    · rfl

theorem Dev.keepsSec_sendRaised (d : Dev) (old : List Report) (k : Clock) : d.KeepsSec (d.sendRaised old k) := by
  unfold Dev.sendRaised
  split
  · exact .of_eq rfl
  · rw [Dev.sendReports_eq]
    split
    · exact .of_eq rfl
    · exact ⟨_, by rw [sendStep_sec]⟩

/-- A violation is recorded with its cause, ends quotes and faults a job that can fault. -/
theorem Dev.violate_effect (d : Dev) (k : Clock) {cause : Nat} (hcause : cause < 16) (old : List Report) :
    ((d.violate k cause).sendRaised old k).mem = d.mem ∧ ((d.violate k cause).sendRaised old k).cores = d.cores ∧
    ((d.violate k cause).sendRaised old k).start.violated = true ∧
    ((d.violate k cause).sendRaised old k).rd .secFaultCode = 0x70 ∧
    ((d.violate k cause).sendRaised old k).rd .secFaultCause = cause ∧
    ((d.violate k cause).sendRaised old k).sec.quote = none ∧ ((d.violate k cause).sendRaised old k).sec.queued = [] ∧
    (d.job.phase.faultable = true → d.job.abort = false → ((d.violate k cause).sendRaised old k).job.phase = .faulted ∧
      ((d.violate k cause).sendRaised old k).rd .jobStateFault = 0x70) := by
  have hv : d.violate k cause = (d.violation cause).runFault k 0x70 cause 0xFFF 0 := rfl
  have hfault := (d.violation cause).touches_runFault k 0x70 cause 0xFFF 0
  have hfirst := Dev.runFault_first (d := d.violation cause) k 0x70 cause 0xFFF 0
  have hsec := ((d.violation cause).keepsSec_runFault k 0x70 cause 0xFFF 0).trans
    (((d.violation cause).runFault k 0x70 cause 0xFFF 0).keepsSec_sendRaised old k)
  have hlast := ((d.violation cause).runFault k 0x70 cause 0xFFF 0).touches_sendRaised old k
  rw [hv]
  generalize ((d.violation cause).runFault k 0x70 cause 0xFFF 0) = x at *
  generalize x.sendRaised old k = y at *
  obtain ⟨r, hr⟩ := hsec
  refine ⟨?_, ?_, ?_, ?_, ?_, ?_, ?_, fun hp ha => ?_⟩
  · rw [hlast.mem, hfault.mem]
    rfl
  · rw [hlast.cores, hfault.cores]
    rfl
  · rw [hlast.start, hfault.start]
    rfl
  · rw [hlast.rd _, hfault.rd _]
    exact (Dev.rd_wr_field (d.wr .secFaultCode 0x70) cause (by decide)).trans (Dev.rd_wr_fits d _ (by decide))
  · rw [hlast.rd _, hfault.rd _]
    exact Dev.rd_wr_fits (d.wr .secFaultCode 0x70) _ hcause
  · rw [hr]
    rfl
  · rw [hr]
    rfl
  · have h := hfirst hp ha
    exact ⟨by rw [hlast.job, h.phase], by rw [hlast.rd _, h.recorded]; rfl⟩

end Sys2Proof.Machine

namespace Sys2Proof

open Machine

/-- Settles O54. -/
theorem securityMessages : Obligations.SecurityMessages := by
  unfold Obligations.SecurityMessages
  intro s hc d kept known mails
  refine ⟨?_, fun x hop => ?_, fun x hop => ?_, ?_, fun x hop => ?_, fun m same p h => ?_, ?_, fun x hop ho => ?_,
    fun order => ?_, fun a b => ?_⟩
  · split
    · next hj =>
      intro k
      obtain ⟨hmem, hcores, hjob, hsec, hpost⟩ := s.dev.helloSent_effect k
      refine ⟨s.dev.helloSent k, exec_joinHello hc hj rfl, ⟨hmem, hcores⟩, hjob, ?_, ?_, fun hn => ?_, fun hn => ?_⟩
      · rw [hsec]
      · rw [hsec]
        exact hpost
      · have hr : s.dev.helloReady k = s.dev := if_neg fun h => hn (Option.isNone_iff_eq_none.mp h)
        rw [hsec, hr]
        exact ⟨rfl, rfl⟩
      · have hr : s.dev.helloReady k = s.dev.makeHello k := if_pos (Option.isNone_iff_eq_none.mpr hn)
        obtain ⟨he1, he2⟩ := s.dev.drawScalar_bounds
        obtain ⟨hn1, hn2⟩ := s.dev.drawScalar.2.drawScalar_bounds
        rw [hsec, hr, Dev.makeHello_eq]
        exact ⟨rfl, s.dev.drawScalar.1, s.dev.drawScalar.2.drawScalar.1, he1, he2, hn1, hn2, rfl, rfl, rfl⟩
    · next hj => exact exec_joinHello_none hj
  · intro c
    cases ha : s.dev.acceptsJoin x with
    | false =>
      have h := s.dev.touches_macDrop
      refine ⟨_, exec_joinAccept_drop hc hop ha, ⟨h.mem, h.cores⟩, h.job, fun _ => h.sec, fun hn => ?_⟩
      exact absurd hn Bool.false_ne_true
    | true =>
      obtain ⟨⟨hmem, hcores, hjob, hsec⟩, h1, h2, h3, h4⟩ := Dev.joinFields_effect (Dev.acceptsJoin_fixed ha) s.clk c
      refine ⟨_, exec_joinAccept hc hop ha, ⟨hmem, hcores⟩, hjob, fun hn => ?_, fun _ => ⟨h1, h2, h3, h4, ?_⟩⟩
      · exact absurd hn.symm Bool.false_ne_true
      · unfold Dev.startSession Dev.modSec
        dsimp only
        rw [hsec]
  · intro c takes
    by_cases ht : takes
    · obtain ⟨hk, hv, hp⟩ := ht
      obtain ⟨hmem, hcores, hjob, hsec, hpost⟩ := s.dev.rekeyAnswered_effect s.clk
      refine ⟨_, exec_rekey hc hop hk hv hp, ⟨hmem, hcores⟩, hjob, fun hn => absurd ⟨hk, hv, hp⟩ hn, fun _ => ⟨rfl, ?_, ?_⟩⟩
      · exact congrArg (fun y : Sec => some (y.key, s.clk.count + 1000000)) hsec
      · exact ⟨s.dev.drawScalar.1, leBytes 64 s.dev.drawScalar.2.draw.1, leBytes_size .., rfl, hpost.mono (Dev.mails_sec ..)⟩
    · obtain ⟨t, hx, h⟩ := exec_rekey_drop hc hop ht
      exact ⟨t, hx, ⟨h.mem, h.cores⟩, h.job, fun _ => h.sec, fun hy => absurd hy ht⟩
  · split
    · next hn => exact exec_oldKeyExpire_none hn
    · next hn => exact exec_oldKeyExpire hc hn
  · intro body takes
    by_cases ht : takes
    · obtain ⟨hmem, hcores, hjob, -, hsec⟩ := s.dev.quoteQueued_effect body
      refine ⟨_, exec_quoteRequest hc hop ht, ⟨hmem, hcores⟩, hjob, hsec.trans ?_⟩
      simp only [ht, true_and]
      rfl
    · obtain ⟨t, hx, h⟩ := exec_quoteRequest_drop hc hop ht
      refine ⟨t, hx, ⟨h.mem, h.cores⟩, h.job, h.sec.trans ?_⟩
      simp only [ht, false_and, if_false]
      rfl
  · intro k
    obtain ⟨t, ht, htouch⟩ := exec_secQuoteCmd h
    have hp := s.touches_paired m same 0x230 0x20
    have hcmd := (s.paired m same 0x230 0x20).touches_quoteCommand k 1
    refine ⟨t, ht, ⟨?_, ?_⟩, ?_, ?_⟩
    · rw [htouch.mem, hcmd.mem, hp.mem]
    · rw [htouch.cores, hcmd.cores, hp.cores]
    · rw [htouch.job, hcmd.job, hp.job]
    · split
      · next hm =>
        rw [Dev.quoteCommand_may (d := s.paired m same 0x230 0x20) hm.1 hm.2] at htouch
        exact htouch.sec
      · next hm =>
        rw [Dev.quoteCommand_not (d := s.paired m same 0x230 0x20) hm] at htouch
        exact ⟨htouch.sec, by rw [htouch.rd _, Dev.rd_flag_same _ _ rfl]⟩
  · split
    · next hn => exact exec_quoteDone_none hn
    · next q hq =>
      obtain ⟨hmem, hcores, hjob, hsec, hpost⟩ := s.dev.quoteGiven_effect s.clk q
      obtain ⟨h1, h2⟩ := s.dev.drawScalar_bounds
      refine ⟨_, s.dev.drawScalar.1, h1, h2, exec_quoteDone hc hq, ⟨hmem, hcores⟩, hjob, ?_⟩
      intro sig
      refine ⟨?_, ?_, fun hcmd => ?_, fun hcmd => ⟨?_, (hpost hcmd).mono (Dev.mails_sec ..)⟩⟩
      · exact (congrArg (fun y : Sec => y.queued.head?.map fun b => (⟨false, b⟩ : Quote)) hsec :)
      · exact (congrArg (fun y : Sec => y.queued.tail) hsec :)
      · refine (congrArg Sec.last hsec).trans ?_
        rw [hcmd]
        rfl
      · refine (congrArg Sec.last hsec).trans ?_
        rw [hcmd]
        rfl
  · intro c
    by_cases hk : s.Known x
    · by_cases hy : ∃ r ∈ s.dev.sec.reports, Report.ackedBy c r = true
      · refine ⟨_, exec_reportAck hc hop hk ho hy, ⟨rfl, rfl⟩, rfl, fun hn => absurd hk hn, fun _ => rfl, fun _ hn => ?_⟩
        obtain ⟨r, hr, ht⟩ := hy
        unfold Report.ackedBy at ht
        rw [Bool.and_eq_true, decide_eq_true_eq, List.contains_iff_mem] at ht
        exact absurd ht (hn r hr)
      · have hno : ∀ r ∈ s.dev.sec.reports, Report.ackedBy c r = false := fun r hr =>
          Bool.eq_false_iff.mpr fun ht => hy ⟨r, hr, ht⟩
        have h := s.dev.touches_agentDrop
        refine ⟨_, exec_reportAck_none hc hop hk hno, ⟨h.mem, h.cores⟩, h.job, fun hn => absurd hk hn, fun _ => ?_, fun _ _ => ?_⟩
        · refine h.sec.trans ?_
          have hall : s.dev.sec.reports.filter (fun r => !Report.ackedBy c r) = s.dev.sec.reports :=
            List.filter_eq_self.mpr fun r hr => by rw [hno r hr]; rfl
          exact congrArg (fun l => { s.dev.sec with reports := l }) hall.symm
        · exact (Dev.running_count ..).trans (if_pos rfl)
    · have h := s.dev.touches_macDrop
      exact ⟨_, exec_reportAck_drop hc hop hk, ⟨h.mem, h.cores⟩, h.job, fun _ => h.sec, fun hy => absurd hy hk, fun hy => absurd hy hk⟩
  · split
    · next hn => exact exec_reportRepeat_none hn
    · next r hr =>
      intro k hv
      obtain ⟨hmem, hcores, hjob, hpost, hrep⟩ := Dev.reportRepeated_effect (Dev.reportOf_mem hr) k s.dev.sec.reports
      exact ⟨_, exec_reportRepeat hc hr hv rfl, ⟨hmem, hcores⟩, hjob, hpost, hrep⟩
  · intro k
    split
    · next hf => exact exec_securityCheck_none hf
    · next hf =>
      have hon : s.dev.start.firmware = true := Bool.not_eq_false _ ▸ hf
      split
      · next hg => exact exec_securityCheck_good hc hon hg rfl
      · next hg =>
        rw [not_or] at hg
        obtain ⟨hv, hg⟩ := hg
        obtain ⟨hmem, hcores, hviol, hcode, hcause, hq1, hq2, hjob⟩ := s.dev.violate_effect k
          (cause := if a then 2 else 1) (by split <;> decide) s.dev.sec.reports
        exact ⟨_, exec_securityCheck_bad hc hon (Bool.not_eq_true _ ▸ hv) hg rfl, ⟨hmem, hcores⟩, hviol, hcode, hcause, hq1, hq2, hjob⟩

end Sys2Proof
end

section
/-! SUPPORT. The host's endpoint (chapter 21). -/

-- One proof at a time: each thread that elaborates beside the others reserves its stack.
set_option Elab.async false

namespace Sys2Proof.Machine

open Sys2Proof

variable {s : State} {d e t : Dev} {k : Clock}

/-! ### What a run fault leaves of the endpoint -/

/-- From `d` to `e` the endpoint has raised vectors and events at most: its pending vectors and events, and the messages
that have left, may differ. -/
structure Dev.Raises (d e : Dev) : Prop where
  host : ∃ p v, e.host = { d.host with pendingVec := p, events := v }
  out : ∃ m, e.out = { d.out with msi := m }

theorem Dev.Raises.of_eq (hh : e.host = d.host) (ho : e.out = d.out) : d.Raises e :=
  ⟨⟨d.host.pendingVec, d.host.events, hh⟩, d.out.msi, ho⟩

theorem Dev.Raises.trans {c : Dev} (h : c.Raises d) (g : d.Raises e) : c.Raises e := by
  obtain ⟨⟨p, v, hp⟩, m, hm⟩ := h
  obtain ⟨⟨p', v', hp'⟩, m', hm'⟩ := g
  exact ⟨⟨p', v', by rw [hp', hp]⟩, m', by rw [hm', hm]⟩

theorem Dev.raises_sendVector (d : Dev) (v : Nat) : d.Raises (d.sendVector v) := by
  unfold Dev.sendVector
  split
  · exact ⟨⟨d.host.pendingVec, d.host.events, rfl⟩, _, rfl⟩
  · exact .of_eq rfl rfl

theorem Dev.raises_raiseVector (d : Dev) (v : Nat) : d.Raises (d.raiseVector v) := by
  unfold Dev.raiseVector
  split
  · exact d.raises_sendVector v
  · split
    · exact .of_eq rfl rfl
    · exact ⟨⟨_, d.host.events, rfl⟩, d.out.msi, rfl⟩

theorem Dev.raises_hostEvent (d : Dev) (n : Nat) : d.Raises (d.hostEvent n) := by
  unfold Dev.hostEvent
  extract_lets -merge +onlyGivenNames f was x
  have hx : d.Raises x := .of_eq rfl rfl
  split
  · exact hx.trans (Dev.raises_raiseVector ..)
  · exact hx

theorem Dev.raises_setPhase (d : Dev) (x : JobPhase) : d.Raises (d.setPhase x) := by
  unfold Dev.setPhase
  split
  · exact .of_eq rfl rfl
  · extract_lets -merge +onlyGivenNames ctl job y
    have hy : d.Raises y := .of_eq rfl rfl
    exact hy.trans (Dev.raises_hostEvent ..)

theorem Dev.raises_report (d : Dev) (kind : Nat) (c : List Byte) : d.Raises (d.report kind c) :=
  .of_eq (Dev.touches_report ..).host (Dev.touches_report ..).out

theorem Dev.raises_runFault (d : Dev) (k : Clock) (code cause engine addr : Nat) :
    d.Raises (d.runFault k code cause engine addr) := by
  unfold Dev.runFault
  split
  · extract_lets -merge +onlyGivenNames x old
    have hx : d.Raises x := .of_eq rfl rfl
    split
    · exact hx.trans (.of_eq (Dev.touches_rereport ..).host (Dev.touches_rereport ..).out)
    · exact hx
  · split
    · exact .of_eq rfl rfl
    · split
      · extract_lets -merge +onlyGivenNames x job y z w
        have hx : d.Raises x := .of_eq rfl rfl
        have hy : x.Raises y := .of_eq rfl rfl
        have hz : y.Raises z := (Dev.raises_setPhase ..).trans (Dev.raises_hostEvent ..)
        have hw : z.Raises w := ⟨⟨z.host.pendingVec, _, rfl⟩, z.out.msi, rfl⟩
        exact (((hx.trans hy).trans hz).trans hw).trans (Dev.raises_report ..)
      · exact .of_eq rfl rfl

/-! ### The loss of a home in host memory -/

theorem Dev.raises_gmemFault (d : Dev) (k : Clock) (code cause core win node addr : Nat) :
    d.Raises (d.gmemFault k code cause core win node addr) := by
  unfold Dev.gmemFault
  extract_lets -merge +onlyGivenNames x y
  have hy : d.Raises y := .of_eq rfl rfl
  have hz : d.Raises (if d.job.phase.faultable || d.supersedes k (d.rd .gmemFaultCode) code then y else d) := by
    split
    · exact hy
    · exact .of_eq rfl rfl
  exact hz.trans (Dev.raises_runFault ..)

/-- The job that can fault does so with code 0x30, cause 4. -/
structure Dev.HomeLost (d t : Dev) : Prop where
  faults : d.job.phase.faultable = true → d.job.abort = false → t.job.phase = .faulted ∧ t.rd .jobStateFault = 0x30 ∧
    t.rd .gmemFaultCause = 4

theorem Dev.hostHomeLost_effect (d : Dev) (k : Clock) : d.HomeLost (d.hostHomeLost k) := by
  refine ⟨fun hp ha => ?_⟩
  unfold Dev.hostHomeLost Dev.gmemFault
  extract_lets -merge +onlyGivenNames x y
  rw [if_pos (Bool.or_eq_true_iff.mpr (.inl hp))]
  have hy : y.rd .gmemFaultCause = 4 := by
    change x.rd .gmemFaultCause = 4
    unfold x
    rw [Dev.rd_wr_field _ _ (by decide), Dev.rd_wr_field _ _ (by decide), Dev.rd_wr_field _ _ (by decide)]
    exact Dev.rd_wr_fits _ _ (by decide)
  have h := Dev.runFault_first (d := y) k 0x30 4 0xE01 0 hp ha
  exact ⟨h.phase, h.recorded, (h.rd _ 0 0 (by decide) (by decide) (by decide) (by decide)).trans hy⟩

theorem Dev.HomeLost.sent (h : d.HomeLost t) (old : List Report) (k : Clock) : d.HomeLost (t.sendRaised old k) where
  faults hp ha := by
    obtain ⟨h1, h2, h3⟩ := h.faults hp ha
    have g := t.touches_sendRaised old k
    exact ⟨by rw [g.job, h1], by rw [g.rd _, h2], by rw [g.rd _, h3]⟩

/-- A move that needs host memory. -/
def Dev.moveNeedsHost (d : Dev) (o : TierObj) : Bool :=
  match o.move with | some m => d.usesHost o.home || d.usesHost m.home | none => false

/-- Some move needs host memory. -/
def Dev.needsHost (d : Dev) : Bool := d.tier.objs.any d.moveNeedsHost

/-- The device without the moves that need host memory. -/
def Dev.hostMovesDropped (d : Dev) : Dev :=
  d.modTier fun t => { t with objs := t.objs.map fun o => if d.moveNeedsHost o then { o with move := none } else o }

theorem Dev.hostLost_eq (d : Dev) (k : Clock) :
    d.hostLost k = if d.needsHost then d.hostMovesDropped.hostHomeLost k else d := rfl

/-- What the loss of the host makes of the job. -/
structure Dev.JobLost (d t : Dev) : Prop where
  idle : d.needsHost = false → t.job = d.job
  lost : d.needsHost = true → d.HomeLost t

theorem Dev.jobLost_hostLost (d : Dev) (k : Clock) : d.JobLost (d.hostLost k) := by
  rw [Dev.hostLost_eq]
  constructor
  · intro h
    rw [h]
    rfl
  · intro h
    rw [h, if_pos rfl]
    exact ⟨(d.hostMovesDropped.hostHomeLost_effect k).faults⟩

theorem Dev.raises_hostLost (d : Dev) (k : Clock) : d.Raises (d.hostLost k) := by
  rw [Dev.hostLost_eq]
  split
  · have hdrop : d.Raises d.hostMovesDropped := .of_eq rfl rfl
    exact hdrop.trans (Dev.raises_gmemFault ..)
  · exact .of_eq rfl rfl

theorem Dev.JobLost.mono (h : d.JobLost e) (g : e.Touches [.host, .out] [] t) : d.JobLost t where
  idle hn := g.job.trans (h.idle hn)
  lost hn := ⟨fun hp ha => by
    obtain ⟨h1, h2, h3⟩ := (h.lost hn).faults hp ha
    exact ⟨by rw [g.job, h1], by rw [g.rd _, h2], by rw [g.rd _, h3]⟩⟩

theorem Dev.JobLost.sent (h : d.JobLost t) (old : List Report) (k : Clock) : d.JobLost (t.sendRaised old k) where
  idle hn := (t.touches_sendRaised old k).job.trans (h.idle hn)
  lost hn := (h.lost hn).sent old k

/-! ### Resets of the endpoint -/

/-- The device with its endpoint's configuration cleared. -/
def Dev.endpointCleared (d : Dev) : Dev :=
  d.modIf fun h => { h with
    cfg := [], barBits := 36, bme := false, readLog := 2, payLog := 0, reads := [], aerEnd := 0, aerStatus := 0, msix := [], msixEnable := false, msixMask := false, pendingVec := [] }

/-- The link and the wait of the endpoint after a reset. -/
def Dev.endpointDown (d : Dev) (kind : EndReset) : Dev :=
  let down := fun (d : Dev) => d.modIf fun h => { h with linkUp := false, speed := 0, width := 0, flit := false }
  match kind with
  | .functionLevel => d
  | .hot => down d
  | .linkDown => down d
  | .perst => (down d).modIf fun h => { h with perst := true, cfgFrom := none }

theorem exec_endpointReset (s : State) (kind : EndReset) : exec (.endpointReset kind) s = .next { s with
    dev := ((s.dev.endpointCleared.hostLost s.clk).endpointDown kind).sendRaised s.dev.sec.reports s.clk } := by
  change execEndpointReset kind s = _
  unfold execEndpointReset
  exact State.board_some rfl

theorem Dev.touches_endpointDown (d : Dev) (kind : EndReset) : d.Touches [.host] [] (d.endpointDown kind) := by
  unfold Dev.endpointDown
  cases kind
  · exact .refl d
  · exact .next (.refl d) (Dev.touches_modIf ..)
  · exact .next (.refl d) (Dev.touches_modIf ..)
  · exact .next (.next (.refl d) (Dev.touches_modIf ..)) (Dev.touches_modIf ..)

/-- What a reset leaves in the endpoint's configuration. -/
structure HostIf.Cleared (g h : HostIf) : Prop where
  cfg : h.cfg = []
  barBits : h.barBits = 36
  bme : h.bme = false
  readLog : h.readLog = 2
  msix : h.msix = []
  msixEnable : h.msixEnable = false
  msixMask : h.msixMask = false
  linkUp : h.linkUp = g.linkUp
  perst : h.perst = g.perst

theorem Dev.endpointDown_host {g : HostIf} (h : HostIf.Cleared g d.host) (kind : EndReset) :
    (d.endpointDown kind).host.pendingVec = d.host.pendingVec ∧
    HostIf.Cleared { g with
      linkUp := if kind = .functionLevel then g.linkUp else false
      perst := if kind = .perst then true else g.perst } (d.endpointDown kind).host := by
  obtain ⟨h1, h2, h3, h4, h5, h6, h7, h8, h9⟩ := h
  cases kind
  · exact ⟨rfl, h1, h2, h3, h4, h5, h6, h7, h8, h9⟩
  · exact ⟨rfl, h1, h2, h3, h4, h5, h6, h7, rfl, h9⟩
  · exact ⟨rfl, h1, h2, h3, h4, h5, h6, h7, rfl, h9⟩
  · exact ⟨rfl, h1, h2, h3, h4, h5, h6, h7, rfl, rfl⟩

theorem Dev.clearedLost_host (d : Dev) (k : Clock) : HostIf.Cleared d.host (d.endpointCleared.hostLost k).host := by
  obtain ⟨p, v, h⟩ := (d.endpointCleared.raises_hostLost k).host
  rw [h]
  exact ⟨rfl, rfl, rfl, rfl, rfl, rfl, rfl, rfl, rfl⟩

theorem Dev.clearedLost_pending (d : Dev) (k : Clock) (h : d.needsHost = false) :
    (d.endpointCleared.hostLost k).host.pendingVec = [] := by
  rw [Dev.hostLost_eq, if_neg (show ¬ d.endpointCleared.needsHost = true from ne_true_of_eq_false h)]
  rfl

/-! ### Configuration -/

theorem Dev.linkTrained_host (d : Dev) : ∃ a b c, d.linkTrained.host =
    { d.host with linkUp := true, speed := a, width := b, flit := c } := by
  unfold Dev.linkTrained
  split
  · next h => exact ⟨d.host.speed, d.host.width, d.host.flit, by rw [← h]⟩
  · exact ⟨_, _, _, rfl⟩

theorem Dev.sendPending_effect (d : Dev) : d.sendPending.host = { d.host with
      pendingVec := d.host.pendingVec.filter fun v => !d.host.vectorOpen v } ∧
    d.sendPending.out = { d.out with
      msi := d.out.msi ++ if d.host.bme then d.host.pendingVec.filter d.host.vectorOpen else [] } := by
  have hfold : ∀ (l : List Nat) (x : Dev), (l.foldl Dev.sendVector x).host = x.host ∧
      (l.foldl Dev.sendVector x).out = { x.out with msi := x.out.msi ++ if x.host.bme then l else [] } := by
    intro l
    induction l with
    | nil => exact fun x => ⟨rfl, by rw [ite_self, List.append_nil]; rfl⟩
    | cons v l ih =>
      intro x
      obtain ⟨hh, ho⟩ := ih (x.sendVector v)
      have hx : (x.sendVector v).host = x.host ∧
          (x.sendVector v).out = { x.out with msi := x.out.msi ++ if x.host.bme then [v] else [] } := by
        unfold Dev.sendVector
        split
        · exact ⟨rfl, rfl⟩
        · exact ⟨rfl, by rw [List.append_nil]; rfl⟩
      rw [List.foldl_cons, hh, ho, hx.1, hx.2]
      refine ⟨rfl, ?_⟩
      cases x.host.bme with
      | true => simp
      | false => simp
  obtain ⟨hh, ho⟩ := hfold (d.host.pendingVec.filter d.host.vectorOpen)
    { d with host := { d.host with pendingVec := d.host.pendingVec.filter fun v => !d.host.vectorOpen v } }
  have heq : d.sendPending = (d.host.pendingVec.filter d.host.vectorOpen).foldl Dev.sendVector
      { d with host := { d.host with pendingVec := d.host.pendingVec.filter fun v => !d.host.vectorOpen v } } := by
    unfold Dev.sendPending
    rw [List.partition_eq_filter_filter]
    rfl
  rw [heq]
  exact ⟨hh, ho⟩

/-- What a write of a configuration register does. -/
theorem Dev.cfgWrite_effect (d : Dev) (r v : Nat) : Sparse.get (d.cfgWrite r v).host.cfg 0 r = v ∧
    (d.cfgWrite r v).host.bme = (if r = 1 then bitAt v 2 else d.host.bme) ∧
    (d.cfgWrite r v).host.msixEnable = (if r = Config.capMsix then bitAt v 31 else d.host.msixEnable) ∧
    (d.cfgWrite r v).host.msixMask = (if r = Config.capMsix then bitAt v 30 else d.host.msixMask) ∧
    (d.cfgWrite r v).host.linkUp = d.host.linkUp ∧ (d.cfgWrite r v).out.config = d.out.config := by
  unfold Dev.cfgWrite
  extract_lets -merge +onlyGivenNames n x
  obtain ⟨hh, ho⟩ := x.sendPending_effect
  rw [hh, ho]
  exact ⟨Sparse.get_set_same .., rfl, rfl, rfl, rfl, rfl⟩

/-- The wait after a reset is over: the endpoint answers configuration requests. -/
def State.cfgReady (s : State) : Prop := ∃ u, s.dev.host.cfgFrom = some u ∧ u ≤ s.clk.units

theorem State.cfgReady_iff (s : State) :
    (match s.dev.host.cfgFrom with | some u => decide (u ≤ s.clk.units) | none => false) = true ↔ s.cfgReady := by
  unfold State.cfgReady
  cases s.dev.host.cfgFrom with
  | none => exact ⟨nofun, fun ⟨u, hu, _⟩ => nomatch hu⟩
  | some x => exact ⟨fun h => ⟨x, rfl, of_decide_eq_true h⟩, fun ⟨u, hu, hle⟩ => decide_eq_true (Option.some.inj hu ▸ hle)⟩

/-- The device that has taken a write of a configuration register. -/
def Dev.cfgStored (d : Dev) (k : Clock) (r v : Nat) : Dev :=
  let d := d.cfgWrite r v
  (if d.host.bme then d else d.hostLost k).cfgAnswer (some 0)

theorem Dev.linkTrained_cfgFrom (d : Dev) : d.linkTrained.host.cfgFrom = d.host.cfgFrom := by
  obtain ⟨a, b, c, h⟩ := d.linkTrained_host
  rw [h]

theorem exec_configRequest_off {write : Bool} {reg : BitVec 12} {v : BitVec 32} (h : s.dev.endpointOn = false) :
    exec (.configRequest write reg v) s = .next s := by
  change execConfigRequest write reg v s = _
  unfold execConfigRequest
  refine State.now_none ?_
  rw [h]
  rfl

/-- What a configuration request makes of the device. -/
def Dev.configDone (d : Dev) (k : Clock) (ready write : Bool) (r v : Nat) : Dev :=
  if !ready then d.linkTrained.cfgAnswer none
  else if write then d.linkTrained.cfgStored k r v
  else d.linkTrained.cfgAnswer (some (d.linkTrained.cfgRead r))

theorem exec_configRequest {write : Bool} {reg : BitVec 12} {v : BitVec 32} {ready : Bool} (hc : s.dev.clocked = true)
    (h : s.dev.endpointOn = true) (hr : ready = true ↔ s.cfgReady) :
    exec (.configRequest write reg v) s = .next { s with
      dev := (s.dev.configDone s.clk ready write (reg.toNat / 4) v.toNat).sendRaised s.dev.sec.reports s.clk } := by
  have hready : (match s.dev.linkTrained.host.cfgFrom with | some u => decide (u ≤ s.clk.units) | none => false) = ready := by
    rw [s.dev.linkTrained_cfgFrom]
    exact Bool.eq_iff_iff.mpr (s.cfgReady_iff.trans hr.symm)
  change execConfigRequest write reg v s = _
  unfold execConfigRequest
  refine State.now_some hc ?_
  rw [h]
  exact congrArg (fun x => some (s.dev.configDone s.clk x write (reg.toNat / 4) v.toNat)) hready

theorem Dev.configDone_waits (d : Dev) (k : Clock) (write : Bool) (r v : Nat) :
    (d.configDone k false write r v).host.linkUp = true ∧ (d.configDone k false write r v).job = d.job ∧
    (d.configDone k false write r v).out.config = d.out.config ++ [none] ∧
    (d.configDone k false write r v).host.cfg = d.host.cfg ∧ (d.configDone k false write r v).host.bme = d.host.bme := by
  have h := d.touches_linkTrained
  obtain ⟨a, b, c, hh⟩ := d.linkTrained_host
  have hd : d.configDone k false write r v = d.linkTrained.cfgAnswer none := rfl
  rw [hd]
  unfold Dev.cfgAnswer
  dsimp only
  rw [hh, h.job, h.out]
  exact ⟨rfl, rfl, rfl, rfl, rfl⟩

theorem Dev.configDone_read (d : Dev) (k : Clock) (r v : Nat) :
    (d.configDone k true false r v).host.linkUp = true ∧ (d.configDone k true false r v).job = d.job ∧
    (d.configDone k true false r v).host.cfg = d.host.cfg ∧ (d.configDone k true false r v).host.bme = d.host.bme ∧
    (d.configDone k true false r v).out.config = d.out.config ++ [some (d.linkTrained.cfgRead r)] := by
  have h := d.touches_linkTrained
  obtain ⟨a, b, c, hh⟩ := d.linkTrained_host
  have hd : d.configDone k true false r v = d.linkTrained.cfgAnswer (some (d.linkTrained.cfgRead r)) := rfl
  rw [hd]
  generalize d.linkTrained.cfgRead r = n
  unfold Dev.cfgAnswer
  dsimp only
  rw [hh, h.job, h.out]
  exact ⟨rfl, rfl, rfl, rfl, rfl⟩

/-- The registers of Table HOST-1 that a read always shows. -/
theorem Dev.cfgRead_codes (d : Dev) (r : Nat) : (r = 0 → d.cfgRead r = 0x4E2A1F4C) ∧ (r = 2 → d.cfgRead r / 2 ^ 8 = 0x120000) ∧
    (r = 11 → d.cfgRead r = 0x1F4C + d.order.code * 2 ^ 16) := by
  unfold Dev.cfgRead
  dsimp only
  refine ⟨fun h => if_pos h, fun h => ?_, fun h => ?_⟩
  · subst h
    rw [if_neg (by decide), if_neg (by decide), if_pos rfl]
    omega
  · subst h
    rfl

/-- A taken write of a configuration register. -/
theorem Dev.configDone_write (d : Dev) (k : Clock) (r v : Nat) :
    (d.configDone k true true r v).host.linkUp = true ∧
    ((d.configDone k true true r v).host.bme = false → d.JobLost (d.configDone k true true r v)) ∧
    ((d.configDone k true true r v).host.bme ≠ false → (d.configDone k true true r v).job = d.job) ∧
    (d.configDone k true true r v).out.config = d.out.config ++ [some 0] ∧
    Sparse.get (d.configDone k true true r v).host.cfg 0 r = v ∧
    (d.configDone k true true r v).host.bme = (if r = 1 then bitAt v 2 else d.host.bme) ∧
    (d.configDone k true true r v).host.msixEnable = (if r = Config.capMsix then bitAt v 31 else d.host.msixEnable) ∧
    (d.configDone k true true r v).host.msixMask = (if r = Config.capMsix then bitAt v 30 else d.host.msixMask) := by
  have hd : d.configDone k true true r v = (if (d.linkTrained.cfgWrite r v).host.bme then d.linkTrained.cfgWrite r v
      else (d.linkTrained.cfgWrite r v).hostLost k).cfgAnswer (some 0) := rfl
  have htrain := d.touches_linkTrained
  obtain ⟨a, b, c, hh⟩ := d.linkTrained_host
  obtain ⟨h1, h2, h3, h4, h5, h6⟩ := d.linkTrained.cfgWrite_effect r v
  have hwrite := d.linkTrained.touches_cfgWrite r v
  rw [hh] at h2 h3 h4 h5
  rw [htrain.out] at h6
  rw [hd]
  have htier : (d.linkTrained.cfgWrite r v).tier = d.tier := hwrite.tier.trans htrain.tier
  have hregs : (d.linkTrained.cfgWrite r v).regs = d.regs := hwrite.regs.trans htrain.regs
  have hjob : (d.linkTrained.cfgWrite r v).job = d.job := hwrite.job.trans htrain.job
  generalize d.linkTrained.cfgWrite r v = x at *
  have hneeds : x.needsHost = d.needsHost := by
    have hmove : x.moveNeedsHost = d.moveNeedsHost := by
      funext o
      unfold Dev.moveNeedsHost Dev.usesHost Dev.srcKind
      have hrd : ∀ f i j, x.rd f i j = d.rd f i j := fun f i j => by unfold Dev.rd; rw [hregs]
      simp only [hrd]
    unfold Dev.needsHost
    rw [htier, hmove]
  have hlost := x.jobLost_hostLost k
  have hraise := x.raises_hostLost k
  cases hb : x.host.bme with
  | true =>
    rw [if_pos rfl]
    refine ⟨h5, fun hf => ?_, fun _ => hjob, ?_, h1, h2, h3, h4⟩
    · exact absurd (hb.symm.trans hf) (by decide)
    · exact congrArg (· ++ [some 0]) h6
  | false =>
    rw [if_neg Bool.false_ne_true]
    obtain ⟨⟨p, u, hhost⟩, m, hout⟩ := hraise
    generalize x.hostLost k = y at *
    have hlost' : d.JobLost y := by
      refine ⟨fun hn => (hlost.idle (hneeds.trans hn)).trans hjob, fun hn => ⟨fun hp ha => ?_⟩⟩
      exact (hlost.lost (hneeds.trans hn)).faults (by rw [hjob]; exact hp) (by rw [hjob]; exact ha)
    unfold Dev.cfgAnswer
    dsimp only
    rw [hhost, hout]
    refine ⟨h5, fun _ => ⟨hlost'.idle, fun hn => ⟨(hlost'.lost hn).faults⟩⟩, fun hf => absurd hb hf, ?_, h1, h2, h3, h4⟩
    exact congrArg (· ++ [some 0]) h6

theorem Dev.touches_configDone (d : Dev) (k : Clock) (ready write : Bool) (r v : Nat) :
    (d.configDone k ready write r v).mem = d.mem ∧ (d.configDone k ready write r v).cores = d.cores := by
  have htrain := d.touches_linkTrained
  unfold Dev.configDone
  split
  · exact ⟨htrain.mem, htrain.cores⟩
  · split
    · have hw := d.linkTrained.touches_cfgWrite r v
      have hl := (d.linkTrained.cfgWrite r v).touches_hostLost k
      unfold Dev.cfgStored Dev.cfgAnswer
      dsimp only
      split
      · exact ⟨hw.mem.trans htrain.mem, hw.cores.trans htrain.cores⟩
      · exact ⟨hl.mem.trans (hw.mem.trans htrain.mem), hl.cores.trans (hw.cores.trans htrain.cores)⟩
    · exact ⟨htrain.mem, htrain.cores⟩

/-- The device with PERST deasserted. -/
def Dev.perstDone (d : Dev) (k : Clock) : Dev :=
  let d := d.modIf fun h => { h with perst := false }
  if d.endpointOn then d.endpointWaits k else d

theorem exec_perstDeassert (s : State) : exec .perstDeassert s = .next { s with dev := s.dev.perstDone s.clk } ∧
    (s.dev.perstDone s.clk).mem = s.dev.mem ∧ (s.dev.perstDone s.clk).cores = s.dev.cores ∧
    (s.dev.perstDone s.clk).job = s.dev.job ∧ (s.dev.perstDone s.clk).host.perst = false ∧
    (s.dev.perstDone s.clk).host.cfgFrom = if s.dev.start.state = .off ∨ s.dev.start.state = .supply ∨
      s.dev.start.done.contains 1 = false then s.dev.host.cfgFrom else some (s.clk.units + 700000000) := by
  have hon : (s.dev.modIf fun h => { h with perst := false }).endpointOn = true ↔
      ¬ (s.dev.start.state = .off ∨ s.dev.start.state = .supply ∨ s.dev.start.done.contains 1 = false) := by
    change (!false && match s.dev.start.state with
      | .off => false | .supply => false | _ => s.dev.start.done.contains 1) = true ↔ _
    cases s.dev.start.state <;> simp
  have hsec : (s.dev.perstDone s.clk).sec = s.dev.sec := by
    unfold Dev.perstDone
    dsimp only
    split
    · exact (Dev.touches_endpointWaits ..).sec
    · rfl
  refine ⟨?_, ?_⟩
  · change execPerstDeassert s = _
    unfold execPerstDeassert
    exact State.board_quiet rfl (congrArg Sec.reports hsec)
  · unfold Dev.perstDone
    dsimp only
    split
    · next h =>
      rw [if_neg (hon.mp h)]
      exact ⟨rfl, rfl, rfl, rfl, rfl⟩
    · next h =>
      rw [if_pos (not_not.mp fun hn => h (hon.mpr hn))]
      exact ⟨rfl, rfl, rfl, rfl, rfl⟩

/-! ### The window to device HBM -/

/-- Runs of bytes that follow each other from an address. -/
def RunsFrom : Nat → List (Nat × Nat) → Prop
  | _, [] => True
  | a, r :: t => r.1 = a ∧ RunsFrom (a + r.2) t

/-- The bytes of the runs. -/
def runsTotal (rs : List (Nat × Nat)) : Nat := (rs.map (·.2)).sum

theorem Dev.phys_low {a p : Nat} (h : d.phys a = some p) (ha : a < 2 ^ 43) : p = a ∧ a < 20 * 2 ^ 37 := by
  unfold Dev.phys at h
  rw [if_pos ha] at h
  split at h
  · next ho =>
    refine ⟨(Option.some.inj h).symm, ?_⟩
    unfold Dev.hbmOk at ho
    rw [Bool.and_eq_true, decide_eq_true_eq] at ho
    have hs : d.order.hbmStacks ≤ 20 := by cases d.order <;> decide
    omega
  · exact nomatch h

/-- Below the aperture, bytes of device HBM lie where their address says. -/
theorem Dev.physRuns_low {fuel a n : Nat} {rs : List (Nat × Nat)} (h : d.physRuns fuel a n = some rs) (ha : a < 2 ^ 43) :
    RunsFrom a rs ∧ runsTotal rs = n := by
  induction fuel generalizing a n rs with
  | zero =>
    rw [Dev.physRuns] at h
    split at h
    · next hn =>
      obtain rfl := Option.some.inj h
      exact ⟨trivial, hn.symm⟩
    · exact nomatch h
  | succ fuel ih =>
    rw [Dev.physRuns] at h
    split at h
    · next hn =>
      obtain rfl := Option.some.inj h
      exact ⟨trivial, hn.symm⟩
    · dsimp only at h
      split at h
      · next p q t hp hq ht =>
        obtain rfl := Option.some.inj h
        obtain ⟨rfl, hlow⟩ := Dev.phys_low hp ha
        obtain ⟨hr, htot⟩ := ih ht (by omega)
        refine ⟨⟨rfl, hr⟩, ?_⟩
        unfold runsTotal at htot ⊢
        rw [List.map_cons, List.sum_cons, htot]
        dsimp only
        omega
      · exact nomatch h

theorem Memory.writeN_append (m : Memory) (a : Nat) (x y : List Byte) :
    m.writeN a (x ++ y) = (m.writeN a x).writeN (a + x.length) y := by
  induction x generalizing m a with
  | nil => rfl
  | cons b x ih =>
    rw [List.cons_append, Memory.writeN, Memory.writeN, ih, List.length_cons]
    congr 1
    omega

theorem Memory.readN_append (m : Memory) (a n l : Nat) : m.readN a (n + l) = m.readN a n ++ m.readN (a + n) l := by
  unfold Memory.readN
  rw [List.range_add, List.map_append, List.map_map]
  congr 1
  refine List.map_congr_left fun i _ => ?_
  exact congrArg m.read (Nat.add_assoc a n i).symm

/-- A write of runs that follow each other is one write. -/
theorem Dev.hbmWriteRuns_from {a : Nat} {rs : List (Nat × Nat)} {bs : List Byte} (h : RunsFrom a rs) (hn : runsTotal rs = bs.length)
    (d : Dev) (mask : List Bool) : (d.hbmWriteRuns rs bs mask).mem.hbm = d.mem.hbm.writeN a bs := by
  induction rs generalizing a bs d mask with
  | nil =>
    have : bs = [] := List.length_eq_zero_iff.mp hn.symm
    rw [this]
    rfl
  | cons r rs ih =>
    obtain ⟨rfl, hr⟩ := h
    unfold runsTotal at hn
    rw [List.map_cons, List.sum_cons] at hn
    have htake : (bs.take r.2).length = r.2 := by rw [List.length_take]; omega
    rw [Dev.hbmWriteRuns, ih hr (by rw [List.length_drop]; unfold runsTotal; omega)]
    have hloc : (d.locWrite .hbm r.1 (bs.take r.2) (mask.take r.2)).mem.hbm = d.mem.hbm.writeN r.1 (bs.take r.2) := by
      unfold Dev.locWrite
      dsimp only
      rw [(Dev.touches_noteWrite ..).mem]
    rw [hloc]
    conv_rhs => rw [← List.take_append_drop r.2 bs, Memory.writeN_append, htake]

theorem Memory.readRuns_from {a : Nat} {rs : List (Nat × Nat)} (h : RunsFrom a rs) (m : Memory) :
    (rs.flatMap fun r => m.readN r.1 r.2) = m.readN a (runsTotal rs) := by
  induction rs generalizing a with
  | nil => rfl
  | cons r rs ih =>
    obtain ⟨rfl, hr⟩ := h
    rw [List.flatMap_cons, ih hr]
    exact (Memory.readN_append ..).symm

theorem Dev.phys_congr (hord : e.order = d.order) (htier : e.tier = d.tier) (himg : e.image = d.image) : e.phys = d.phys := by
  funext a
  have hp : e.poolPage = d.poolPage := by
    funext p
    unfold Dev.poolPage
    rw [hord, himg]
  unfold Dev.phys Dev.hbmOk
  rw [hord, htier, hp]

theorem Dev.hbmRuns_congr (hord : e.order = d.order) (htier : e.tier = d.tier) (himg : e.image = d.image) (a n : Nat) :
    e.hbmRuns a n = d.hbmRuns a n := by
  have hphys := Dev.phys_congr hord htier himg
  have key : ∀ fuel a n, e.physRuns fuel a n = d.physRuns fuel a n := by
    intro fuel
    induction fuel with
    | zero => exact fun _ _ => rfl
    | succ fuel ih =>
      intro a n
      rw [Dev.physRuns, Dev.physRuns, hphys]
      simp only [ih]
  exact key ..

/-- What an access of the window makes of the device. -/
def Dev.windowed (d : Dev) (write : Bool) (a n : Nat) (bytes : List Byte) : Dev :=
  match d.hbmRuns a n with
  | none =>
    let d := d.count .hostifWinOutside
    if write then d else { d with out := { d.out with reads := d.out.reads ++ [0] } }
  | some rs =>
    if write then (d.noteLoading rs).hbmWriteRuns rs bytes []
    else { d with out := { d.out with reads := d.out.reads ++ [leNat (d.hbmRead a n)] } }

/-- An access of the host reaches the window. -/
def State.windowReached (s : State) (offset : Nat) : Prop :=
  s.dev.endpointOn = true ∧ s.cfgReady ∧ offset < 2 ^ s.dev.host.barBits

theorem State.windowReached_iff (s : State) (offset : Nat) :
    (!s.dev.endpointOn || !(match s.dev.host.cfgFrom with | some u => decide (u ≤ s.clk.units) | none => false) ||
      decide (2 ^ s.dev.host.barBits ≤ offset)) = true ↔ ¬ s.windowReached offset := by
  have hr := s.cfgReady_iff
  generalize (match s.dev.host.cfgFrom with | some u => decide (u ≤ s.clk.units) | none => false) = b at *
  unfold State.windowReached
  rw [← hr]
  cases s.dev.endpointOn <;> cases b <;> simp

theorem exec_hbmWindow_none {write : Bool} {offset : BitVec 44} {len : BitVec 13} {bytes : List Byte}
    (h : ¬ s.windowReached offset.toNat) : exec (.hbmWindowAccess write offset len bytes) s = .next s := by
  change execHbmWindowAccess write offset len bytes s = _
  unfold execHbmWindowAccess
  exact State.now_none (if_pos ((s.windowReached_iff _).mpr h))

theorem Dev.touches_windowed (d : Dev) (write : Bool) (a n : Nat) (bytes : List Byte) :
    d.Touches [.acc, .out, .duty, .job, .mem, .twin] [] (d.windowed write a n bytes) := by
  unfold Dev.windowed
  split
  · dsimp only
    split
    · exact .next (.refl d) (Dev.touches_count ..)
    · exact .set (.next (.refl d) (Dev.touches_count ..)) rfl
  · split
    · exact .next (.next (.refl d) (Dev.touches_noteLoading ..)) (Dev.touches_hbmWriteRuns ..)
    · exact .set (.refl d) rfl

theorem Dev.windowOffset_trained (d : Dev) (b : Nat) : d.linkTrained.windowOffset b = d.windowOffset b := by
  obtain ⟨x, y, z, h⟩ := d.linkTrained_host
  unfold Dev.windowOffset
  rw [h, d.touches_linkTrained.rd _]

theorem exec_hbmWindow {write : Bool} {offset : BitVec 44} {len : BitVec 13} {bytes : List Byte} (hc : s.dev.clocked = true)
    (h : s.windowReached offset.toNat) : exec (.hbmWindowAccess write offset len bytes) s = .next { s with
      dev := s.dev.linkTrained.windowed write (s.dev.windowOffset offset.toNat) (if write then bytes.length else len.toNat) bytes } := by
  have hsec : (s.dev.linkTrained.windowed write (s.dev.windowOffset offset.toNat) (if write then bytes.length else len.toNat)
      bytes).sec = s.dev.sec := (Dev.touches_windowed ..).sec.trans s.dev.touches_linkTrained.sec
  change execHbmWindowAccess write offset len bytes s = _
  unfold execHbmWindowAccess
  refine State.now_quiet hc ((if_neg fun hn => (s.windowReached_iff _).mp hn h).trans ?_) (congrArg Sec.reports hsec)
  rw [← s.dev.windowOffset_trained]
  rfl

/-- What an access of the window leaves and does. -/
theorem Dev.windowed_effect (d : Dev) (write : Bool) (a n : Nat) (bytes : List Byte) (hn : write = true → n = bytes.length) :
    (d.windowed write a n bytes).cores = d.cores ∧ (d.windowed write a n bytes).job.phase = d.job.phase ∧
    (write = false → (d.windowed write a n bytes).mem = d.mem ∧ (d.windowed write a n bytes).out.reads = d.out.reads ++
      [if (d.hbmRuns a n).isSome then leNat (d.hbmRead a n) else 0]) ∧
    (write = true → (d.windowed write a n bytes).out.reads = d.out.reads ∧
      (d.hbmRuns a n = none → (d.windowed write a n bytes).mem = d.mem) ∧
      ((d.hbmRuns a n).isSome = true → a < 2 ^ 43 → (d.windowed write a n bytes).hbmRead a n = bytes ∧
        ∀ q, q < a ∨ a + n ≤ q → (d.windowed write a n bytes).mem.hbm.read q = d.mem.hbm.read q)) := by
  have htouch := d.touches_windowed write a n bytes
  have hruns := Dev.hbmRuns_congr htouch.order htouch.tier htouch.image a n
  refine ⟨htouch.cores, ?_, ?_, ?_⟩
  · unfold Dev.windowed
    split
    · dsimp only
      split
      · rfl
      · rfl
    · split
      · rw [(Dev.touches_hbmWriteRuns ..).job]
        unfold Dev.noteLoading
        split
        · rfl
        · rfl
      · rfl
  · rintro rfl
    unfold Dev.windowed
    cases hr : d.hbmRuns a n with
    | none => exact ⟨rfl, rfl⟩
    | some rs => exact ⟨rfl, rfl⟩
  · rintro rfl
    cases hr : d.hbmRuns a n with
    | none =>
      unfold Dev.windowed
      rw [hr]
      exact ⟨rfl, fun _ => rfl, fun h => nomatch h⟩
    | some rs =>
      have hw : d.windowed true a n bytes = (d.noteLoading rs).hbmWriteRuns rs bytes [] := by
        unfold Dev.windowed
        rw [hr]
        rfl
      have hload := d.touches_noteLoading rs
      have hmem : d.mem = (d.noteLoading rs).mem := hload.mem.symm
      have hout := (d.noteLoading rs).touches_hbmWriteRuns rs bytes []
      refine ⟨?_, nofun, fun _ ha => ?_⟩
      · rw [hw, hout.out, hload.out]
      · obtain ⟨hfrom, htot⟩ := Dev.physRuns_low hr ha
        have hlen := hn rfl
        have hhbm : (d.windowed true a n bytes).mem.hbm = d.mem.hbm.writeN a bytes := by
          rw [hw, Dev.hbmWriteRuns_from hfrom (htot.trans hlen), ← hmem]
        refine ⟨?_, fun q hq => ?_⟩
        · unfold Dev.hbmRead
          rw [hruns, hr]
          dsimp only
          rw [hhbm, Memory.readRuns_from hfrom, htot, hlen]
          exact Memory.readN_writeN ..
        · rw [hhbm]
          exact Memory.read_writeN_outside _ _ _ _ (hlen ▸ hq)

/-! ### The MSI-X table -/

/-- The device with a dword of the MSI-X table written. -/
theorem Dev.msixWord_msixWrite (d : Dev) (v : BitVec 11) (w : BitVec 2) (x i : Nat) :
    (d.msixWrite (.table v w) x).host.msixWord i = if i = 4 * v.toNat + w.toNat then x else d.host.msixWord i := by
  change Sparse.get (Sparse.set d.host.msix (if (4 * v.toNat + w.toNat) % 4 = 3 then 1 else 0) (4 * v.toNat + w.toNat) x)
    (if i % 4 = 3 then 1 else 0) i = _
  by_cases h : i = 4 * v.toNat + w.toNat
  · rw [if_pos h, h]
    exact Sparse.get_set_same ..
  · rw [if_neg h]
    exact Sparse.get_set_ne _ _ _ _ h

theorem exec_msixUnmask_write {at_ : MsixAt} {x : BitVec 32} (hc : s.dev.clocked = true) :
    exec (.msixUnmask ⟨at_, some x⟩) s = .next { s with dev := (s.dev.msixWrite at_ x.toNat).sendPending } := by
  change execMsixUnmask ⟨at_, some x⟩ s = _
  unfold execMsixUnmask
  refine State.now_quiet hc rfl (congrArg Sec.reports ?_)
  exact (Dev.touches_sendPending _).sec.trans (s.dev.touches_msixWrite at_ x.toNat).sec

theorem exec_msixUnmask_read {at_ : MsixAt} (hc : s.dev.clocked = true) :
    exec (.msixUnmask ⟨at_, none⟩) s = .next { s with
      dev := { s.dev with out := { s.dev.out with reads := s.dev.out.reads ++ [s.dev.msixRead at_] } } } := by
  change execMsixUnmask ⟨at_, none⟩ s = _
  unfold execMsixUnmask
  exact State.now_quiet (d := { s.dev with out := { s.dev.out with reads := s.dev.out.reads ++ [s.dev.msixRead at_] } }) hc rfl rfl

/-- A sum of one bit per place has these bits. -/
theorem sumBy_bits (f : Nat → Bool) (n : Nat) :
    (sumBy (List.range n) fun j => (f j).toNat * 2 ^ j) < 2 ^ n ∧
    ∀ j, (sumBy (List.range n) fun j => (f j).toNat * 2 ^ j).testBit j = (decide (j < n) && f j) := by
  induction n with
  | zero => exact ⟨Nat.one_pos, fun j => by rw [decide_eq_false (Nat.not_lt_zero j)]; exact Nat.zero_testBit j⟩
  | succ n ih =>
    obtain ⟨hlt, hbit⟩ := ih
    have hsum : (sumBy (List.range (n + 1)) fun j => (f j).toNat * 2 ^ j) =
        2 ^ n * (f n).toNat + sumBy (List.range n) fun j => (f j).toNat * 2 ^ j := by
      unfold sumBy
      rw [List.range_succ, List.foldl_append, List.foldl_cons, List.foldl_nil, Nat.add_comm, Nat.mul_comm]
    rw [hsum]
    refine ⟨?_, fun j => ?_⟩
    · have : (f n).toNat ≤ 1 := Bool.toNat_le _
      rw [Nat.pow_succ]
      have := Nat.mul_le_mul_left (2 ^ n) this
      omega
    · rw [Nat.testBit_two_pow_mul_add _ hlt]
      split
      · next hj =>
        rw [hbit, decide_eq_true hj, decide_eq_true (Nat.lt_succ_of_lt hj)]
      · next hj =>
        rcases Nat.lt_or_ge n j with hlt' | hge
        · rw [decide_eq_false (by omega), Bool.false_and]
          refine Nat.testBit_lt_two_pow (Nat.lt_of_lt_of_le (Nat.lt_succ_of_le (Bool.toNat_le _)) ?_)
          exact Nat.le_self_pow (by omega) 2
        · obtain rfl : j = n := by omega
          rw [Nat.sub_self, decide_eq_true (Nat.lt_succ_self j), Bool.true_and]
          cases f j <;> rfl

/-! ### Reads of host memory that fail -/

/-- The device that has noted the end of a read. -/
def Dev.readNoted (d : Dev) (how : ReadEnd) (addr : Nat) : Dev :=
  let d := d.readEnded addr
  match how with
  | .poisoned => (d.count .hostifCplError).aerError false 12
  | .timeout => ((d.count .hostifCplTimeout).modIf fun h => { h with failedRead := addr }).aerError false 14
  | .failed => (d.count .hostifCplError).modIf fun h => { h with failedRead := addr }

theorem Dev.touches_readNoted (d : Dev) (how : ReadEnd) (addr : Nat) :
    d.Touches [.acc, .free, .host] [] (d.readNoted how addr) := by
  unfold Dev.readNoted
  cases how
  · exact .next (.next (.next (.next (.refl d) (Dev.touches_readEnded ..)) (Dev.touches_count ..)) (Dev.touches_modIf ..))
      (Dev.touches_aerError ..)
  · exact .next (.next (.next (.refl d) (Dev.touches_readEnded ..)) (Dev.touches_count ..)) (Dev.touches_modIf ..)
  · exact .next (.next (.next (.refl d) (Dev.touches_readEnded ..)) (Dev.touches_count ..)) (Dev.touches_aerError ..)

/-- The two devices hold the same failed read. -/
def Dev.SameRead (d e : Dev) : Prop := e.host.failedRead = d.host.failedRead

theorem Dev.SameRead.refl (d : Dev) : d.SameRead d := rfl

theorem Dev.SameRead.ite {c : Prop} [Decidable c] {a b : Dev} (ha : d.SameRead a) (hb : d.SameRead b) :
    d.SameRead (if c then a else b) := by
  split
  · exact ha
  · exact hb

theorem Dev.sameRead_modIf (d : Dev) {f : HostIf → HostIf} (hf : ∀ h, (f h).failedRead = h.failedRead) :
    d.SameRead (d.modIf f) := hf d.host

theorem Dev.sameRead_draw (d : Dev) {f : HostIf → HostIf} (hf : ∀ h, (f h).failedRead = h.failedRead) :
    d.SameRead (d.draw.2.modIf f) := hf d.host

theorem Dev.sameRead_aerError (d : Dev) (root : Bool) (bit : Nat) : d.SameRead (d.aerError root bit) := by
  unfold Dev.aerError
  extract_lets -merge +onlyGivenNames v
  refine .ite (.ite (.refl _) (d.sameRead_draw fun _ => rfl)) ?_
  extract_lets -merge +onlyGivenNames status
  exact .ite (d.sameRead_modIf fun _ => rfl) (d.sameRead_draw fun _ => rfl)

theorem Dev.failedRead_aerError (d : Dev) (root : Bool) (bit : Nat) : (d.aerError root bit).host.failedRead = d.host.failedRead ∧
    (d.aerError root bit).acc = d.acc := ⟨d.sameRead_aerError root bit, (d.touches_aerError root bit).acc⟩

theorem Dev.failedRead_readEnded (d : Dev) (a : Nat) : (d.readEnded a).host.failedRead = d.host.failedRead ∧
    (d.readEnded a).acc = d.acc := by
  unfold Dev.readEnded
  split
  · exact ⟨rfl, rfl⟩
  · exact ⟨rfl, rfl⟩

theorem Dev.running_of_acc (h : e.acc = d.acc) (f : Fld) : e.running f = d.running f := by
  unfold Dev.running
  rw [h]

/-- The address and the count of a read that ended badly. -/
theorem Dev.readNoted_effect (d : Dev) (how : ReadEnd) (addr : Nat) :
    (d.readNoted how addr).host.failedRead = (if how = .poisoned then d.host.failedRead else addr) ∧
    (if how = .timeout then (d.readNoted how addr).running .hostifCplTimeout = min (d.running .hostifCplTimeout + 1) 65535
      else (d.readNoted how addr).running .hostifCplError = min (d.running .hostifCplError + 1) 65535) := by
  obtain ⟨hfail, hacc⟩ := d.failedRead_readEnded addr
  have hcount : ∀ f : Fld, f.width = 16 → ((d.readEnded addr).count f).running f = min (d.running f + 1) 65535 := by
    intro f hf
    rw [Dev.running_count, if_pos rfl, Dev.running_of_acc hacc, hf]
    rfl
  unfold Dev.readNoted
  cases how
  · obtain ⟨h1, h2⟩ := (((d.readEnded addr).count .hostifCplTimeout).modIf fun h => { h with failedRead := addr }).failedRead_aerError
      false 14
    exact ⟨h1, (Dev.running_of_acc h2 _).trans (hcount _ rfl)⟩
  · exact ⟨rfl, hcount _ rfl⟩
  · obtain ⟨h1, h2⟩ := ((d.readEnded addr).count .hostifCplError).failedRead_aerError false 12
    exact ⟨h1.trans hfail, (Dev.running_of_acc h2 _).trans (hcount _ rfl)⟩

theorem exec_completion_restore {how : ReadEnd} {addr : BitVec 64} (hc : s.dev.clocked = true) (h : s.dev.snap.restoring = true) :
    exec (.completionTimeout how addr none) s = .next { s with
      dev := (s.dev.readNoted how addr.toNat).modSnap fun s => { s with readFailed := true } } := by
  change execCompletionTimeout how addr none s = _
  unfold execCompletionTimeout
  exact State.now_quiet (d := (s.dev.readNoted how addr.toNat).modSnap fun s => { s with readFailed := true }) hc (if_pos h)
    (congrArg Sec.reports (s.dev.touches_readNoted how addr.toNat).sec)

theorem exec_completion_none {how : ReadEnd} {addr : BitVec 64} (h : s.dev.snap.restoring ≠ true) :
    exec (.completionTimeout how addr none) s = .next s := by
  change execCompletionTimeout how addr none s = _
  unfold execCompletionTimeout
  exact State.now_none (if_neg h)

/-- Neither a move nor an image of an object reads host memory. -/
def Dev.ReadIdle (d : Dev) (i : Nat) : Prop := ∀ x, d.tier.objs[i]? = some x → x.move = none ∧ d.imageReads? i x = []

/-- Some read of an object that covers the address is outstanding. -/
def Dev.readLate (d : Dev) (i addr : Nat) : Bool := d.host.reads.any fun x => x.2.1 = i && readCovers addr x

theorem exec_completion_idle {how : ReadEnd} {addr : BitVec 64} {o : BitVec 20} (h : s.dev.ReadIdle o.toNat) :
    exec (.completionTimeout how addr (some o)) s =
      s.now fun _ _ => if s.dev.readLate o.toNat addr.toNat then some (s.dev.readNoted how addr.toNat) else none := by
  change execCompletionTimeout how addr (some o) s = _
  unfold execCompletionTimeout State.now State.act State.board
  cases hx : s.dev.tier.objs[o.toNat]? with
  | none =>
    dsimp only
    rw [hx]
    rfl
  | some x =>
    obtain ⟨hm, hi⟩ := h x hx
    dsimp only
    rw [hx]
    dsimp only
    rw [hm, hi]
    rfl

/-- The reads that are only counted: those of an object without a move or an image that reads host memory. -/
theorem exec_completion_counted {how : ReadEnd} {addr : BitVec 64} {o : BitVec 20} (hc : s.dev.clocked = true)
    (h : s.dev.ReadIdle o.toNat) : if s.dev.readLate o.toNat addr.toNat then
      exec (.completionTimeout how addr (some o)) s = .next { s with dev := s.dev.readNoted how addr.toNat }
    else exec (.completionTimeout how addr (some o)) s = .next s := by
  rw [exec_completion_idle h]
  split
  · next hl =>
    exact State.now_quiet hc rfl (congrArg Sec.reports (s.dev.touches_readNoted how addr.toNat).sec)
  · next hl =>
    exact State.now_none rfl

/-- The device whose object loses its move and its images, after a read of theirs has failed. -/
def Dev.readsLost (d : Dev) (k : Clock) (i : Nat) (images : List Nat) : Dev :=
  ((d.modObj i fun t => { t with move := none }).dropImages i images).hostHomeLost k

theorem Dev.reads_wanted {i : Nat} {x : TierObj} (h : x.move ≠ none ∨ d.imageReads? i x ≠ []) :
    ¬ (x.move.isNone && (d.imageReads? i x).isEmpty) = true := by
  rw [Bool.and_eq_true, Option.isNone_iff_eq_none, List.isEmpty_iff]
  exact fun hh => h.elim (fun hm => hm hh.1) fun hi => hi hh.2

theorem exec_completion_poisoned {addr : BitVec 64} {o : BitVec 20} {x : TierObj} (hc : s.dev.clocked = true)
    (hx : s.dev.tier.objs[o.toNat]? = some x) (h : x.move ≠ none ∨ s.dev.imageReads? o.toNat x ≠ []) :
    exec (.completionTimeout .poisoned addr (some o)) s = .next { s with dev := s.dev.readNoted .poisoned addr.toNat } := by
  change execCompletionTimeout .poisoned addr (some o) s = _
  unfold execCompletionTimeout
  refine State.now_quiet hc ?_ (congrArg Sec.reports (s.dev.touches_readNoted .poisoned addr.toNat).sec)
  dsimp only
  rw [hx]
  exact (if_neg (Dev.reads_wanted h)).trans (if_pos rfl)

theorem exec_completion_lost {how : ReadEnd} {addr : BitVec 64} {o : BitVec 20} {x : TierObj} (hc : s.dev.clocked = true)
    (hp : how ≠ .poisoned) (hx : s.dev.tier.objs[o.toNat]? = some x) (h : x.move ≠ none ∨ s.dev.imageReads? o.toNat x ≠ []) :
    exec (.completionTimeout how addr (some o)) s = .next { s with
      dev := ((s.dev.readNoted how addr.toNat).readsLost s.clk o.toNat (s.dev.imageReads? o.toNat x)).sendRaised
        s.dev.sec.reports s.clk } := by
  change execCompletionTimeout how addr (some o) s = _
  unfold execCompletionTimeout
  refine State.now_some hc ?_
  dsimp only
  rw [hx]
  exact (if_neg (Dev.reads_wanted h)).trans (if_neg hp)

/-- What the loss of a read makes of the object, the images and the job. -/
theorem Dev.readsLost_effect (d : Dev) (k : Clock) (i : Nat) (images : List Nat) :
    (d.readsLost k i images).mem = d.mem ∧ (d.readsLost k i images).cores = d.cores ∧
    (d.readsLost k i images).host.failedRead = d.host.failedRead ∧
    ((d.readsLost k i images).tier.objs[i]?.bind fun x => x.move) = none ∧
    (1 ∈ images → (d.readsLost k i images).snap.run = none ∧ (d.readsLost k i images).rd .snapFail = 0xFFFF) ∧
    d.HomeLost (d.readsLost k i images) := by
  unfold Dev.readsLost
  have hobj : ((d.modObj i fun t => { t with move := none }).tier.objs[i]?.bind fun x => x.move) = none := by
    change ((d.tier.objs.modify i fun t => { t with move := none })[i]?.bind fun x => x.move) = none
    rw [List.getElem?_modify]
    cases d.tier.objs[i]? with
    | none => rfl
    | some x => exact congrArg TierObj.move (if_pos rfl)
  generalize hx : (d.modObj i fun t => { t with move := none }) = x at *
  have hdrop := x.touches_dropImages i images
  have hfail : 1 ∈ images → (x.dropImages i images).snap.run = none ∧ (x.dropImages i images).rd .snapFail = 0xFFFF := by
    intro hm
    unfold Dev.dropImages
    rw [if_pos (List.contains_iff_mem.mpr hm)]
    refine ⟨rfl, ?_⟩
    change ((x.wr .snapFail 0xFFFF).flag .snapEvFail).rd .snapFail = 0xFFFF
    rw [(Dev.touches_flag (x.wr .snapFail 0xFFFF) .snapEvFail).rd _]
    exact Dev.rd_wr_fits _ _ (by decide)
  have hlost := (x.dropImages i images).hostHomeLost_effect k
  have htouch := (x.dropImages i images).touches_hostHomeLost k
  obtain ⟨⟨p, v, hraise⟩, -⟩ := (x.dropImages i images).raises_gmemFault k 0x30 4 0x3F 0 0xFFFF 0
  have hhost : ((x.dropImages i images).hostHomeLost k).host =
      { (x.dropImages i images).host with pendingVec := p, events := v } := hraise
  generalize (x.dropImages i images).hostHomeLost k = y at *
  refine ⟨?_, ?_, ?_, ?_, fun hm => ?_, ⟨fun hp ha => hlost.faults ?_ ?_⟩⟩
  · rw [htouch.mem, hdrop.mem, ← hx]
    rfl
  · rw [htouch.cores, hdrop.cores, ← hx]
    rfl
  · rw [hhost, hdrop.host, ← hx]
    rfl
  · rw [htouch.tier, hdrop.tier]
    exact hobj
  · obtain ⟨h1, h2⟩ := hfail hm
    exact ⟨by rw [htouch.snap, h1], by rw [htouch.rd _, h2]⟩
  · rw [hdrop.job, ← hx]
    exact hp
  · rw [hdrop.job, ← hx]
    exact ha

end Sys2Proof.Machine

namespace Sys2Proof

open Machine

/-- Settles O52. -/
theorem hostEndpoint : Obligations.HostEndpoint := by
  unfold Obligations.HostEndpoint
  intro s d kept needsHost lost
  refine ⟨fun kind => ?_, ?_, fun hc => ?_⟩
  · have hclear : HostIf.Cleared _ _ := s.dev.clearedLost_host s.clk
    have hpend := s.dev.clearedLost_pending s.clk
    have hjob := s.dev.endpointCleared.jobLost_hostLost s.clk
    have htouch := s.dev.endpointCleared.touches_hostLost s.clk
    have hexec := exec_endpointReset s kind
    generalize s.dev.endpointCleared.hostLost s.clk = x at *
    obtain ⟨hpv, hh⟩ := Dev.endpointDown_host hclear kind
    have hdown := x.touches_endpointDown kind
    have hjob' := (hjob.mono (hdown.mono (by decide) (List.Subset.refl _))).sent s.dev.sec.reports s.clk
    have hlast := (x.endpointDown kind).touches_sendRaised s.dev.sec.reports s.clk
    generalize x.endpointDown kind = y at *
    obtain ⟨h1, h2, h3, h4, h5, h6, h7, h8, h9⟩ := hh
    refine ⟨_, hexec, ⟨?_, ?_⟩, ⟨hjob'.idle, fun hn hp ha => (hjob'.lost hn).faults hp ha⟩, ?_⟩
    · rw [hlast.mem, hdown.mem, htouch.mem]
      rfl
    · rw [hlast.cores, hdown.cores, htouch.cores]
      rfl
    · rw [hlast.host]
      exact ⟨h1, h2, h3, h4, h5, h6, h7, fun hn => hpv.trans (hpend hn), h8, h9⟩
  · obtain ⟨hexec, hmem, hcores, hjob, hperst, hfrom⟩ := exec_perstDeassert s
    exact ⟨_, hexec, ⟨hmem, hcores⟩, hjob, hperst, hfrom⟩
  · intro ready
    refine ⟨fun write reg v => ?_, fun write offset len bytes => ?_, fun v w x => ?_, fun v w => exec_msixUnmask_read hc,
      fun w => ?_, fun w x => ?_, fun how addr => ?_⟩
    · intro r
      refine ⟨exec_configRequest_off, fun hon => ?_⟩
      by_cases hr : s.cfgReady
      · cases write with
        | true =>
          obtain ⟨h1, h2, h3, h4, h5, h6, h7, h8⟩ := s.dev.configDone_write s.clk r v.toNat
          have hexec := exec_configRequest (write := true) (reg := reg) (v := v) (ready := true) hc hon (iff_of_true rfl hr)
          have hkeep := s.dev.touches_configDone s.clk true true r v.toNat
          generalize s.dev.configDone s.clk true true r v.toNat = x at *
          obtain ⟨hmem, hcores⟩ := hkeep
          have hlast := x.mails_sendRaised s.dev.sec.reports s.clk
          have hhost : (x.sendRaised s.dev.sec.reports s.clk).host = x.host := hlast.sends.host
          have hconf : (x.sendRaised s.dev.sec.reports s.clk).out.config = x.out.config := (congrArg OutBox.config hlast.out :)
          refine ⟨_, hexec, ⟨hlast.sends.mem.trans hmem, hlast.sends.cores.trans hcores⟩, ?_, ?_, fun hn => absurd hr hn, fun _ _ => ?_,
            nofun⟩
          · rw [hhost, h1]
          · split
            · next hb =>
              have hj := (h2 (hhost ▸ hb.2.2)).sent s.dev.sec.reports s.clk
              exact ⟨hj.idle, fun hn hp ha => (hj.lost hn).faults hp ha⟩
            · next hb => exact hlast.sends.job.trans (h3 fun hf => hb ⟨hr, rfl, hhost ▸ hf⟩)
          · rw [hconf, hhost]
            exact ⟨h4, h5, h6, h7, h8⟩
        | false =>
          obtain ⟨h1, h2, h3, h4, h5⟩ := s.dev.configDone_read s.clk r v.toNat
          have hexec := exec_configRequest (write := false) (reg := reg) (v := v) (ready := true) hc hon (iff_of_true rfl hr)
          have hkeep := s.dev.touches_configDone s.clk true false r v.toNat
          obtain ⟨hc0, hc2, hc11⟩ := s.dev.linkTrained.cfgRead_codes r
          have hord : s.dev.linkTrained.order = s.dev.order := s.dev.touches_linkTrained.order
          rw [hord] at hc11
          generalize s.dev.linkTrained.cfgRead r = n at *
          generalize s.dev.configDone s.clk true false r v.toNat = x at *
          obtain ⟨hmem, hcores⟩ := hkeep
          have hlast := x.mails_sendRaised s.dev.sec.reports s.clk
          have hhost : (x.sendRaised s.dev.sec.reports s.clk).host = x.host := hlast.sends.host
          have hconf : (x.sendRaised s.dev.sec.reports s.clk).out.config = x.out.config := (congrArg OutBox.config hlast.out :)
          refine ⟨_, hexec, ⟨hlast.sends.mem.trans hmem, hlast.sends.cores.trans hcores⟩, ?_, ?_, fun hn => absurd hr hn, nofun,
            fun _ _ => ⟨?_, ?_, n, hconf.trans h5, hc0, hc2, hc11⟩⟩
          · rw [hhost, h1]
          · rw [if_neg fun hb => nomatch hb.2.1]
            exact hlast.sends.job.trans h2
          · rw [hhost, h3]
          · rw [hhost, h4]
      · obtain ⟨h1, h2, h3, h4, h5⟩ := s.dev.configDone_waits s.clk write r v.toNat
        have hexec := exec_configRequest (write := write) (reg := reg) (v := v) (ready := false) hc hon
          (iff_of_false Bool.false_ne_true hr)
        have hkeep := s.dev.touches_configDone s.clk false write r v.toNat
        generalize s.dev.configDone s.clk false write r v.toNat = x at *
        obtain ⟨hmem, hcores⟩ := hkeep
        have hlast := x.mails_sendRaised s.dev.sec.reports s.clk
        have hhost : (x.sendRaised s.dev.sec.reports s.clk).host = x.host := hlast.sends.host
        have hconf : (x.sendRaised s.dev.sec.reports s.clk).out.config = x.out.config := (congrArg OutBox.config hlast.out :)
        refine ⟨_, hexec, ⟨hlast.sends.mem.trans hmem, hlast.sends.cores.trans hcores⟩, ?_, ?_, fun _ => ⟨hconf.trans h3, ?_, ?_⟩,
          fun hy => absurd hy hr, fun hy => absurd hy hr⟩
        · rw [hhost, h1]
        · rw [if_neg fun hb => hr hb.1]
          exact hlast.sends.job.trans h2
        · rw [hhost, h4]
        · rw [hhost, h5]
    · intro i n a reaches
      have heff := s.dev.linkTrained.windowed_effect write a n bytes fun hw => by rw [show n = _ from if_pos hw]
      have htr := s.dev.touches_linkTrained
      refine ⟨fun hr => exec_hbmWindow_none hr, fun hr => ⟨_, exec_hbmWindow hc hr, ?_⟩⟩
      obtain ⟨h1, h2, h3, h4⟩ := heff
      rw [Dev.hbmRuns_congr htr.order htr.tier htr.image] at h3 h4
      have hread : s.dev.linkTrained.hbmRead a n = s.dev.hbmRead a n := by
        unfold Dev.hbmRead
        rw [Dev.hbmRuns_congr htr.order htr.tier htr.image, htr.mem]
      rw [hread, htr.mem, htr.out] at h3
      rw [htr.mem, htr.out] at h4
      rw [htr.cores] at h1
      rw [htr.job] at h2
      exact ⟨h1, h2, h3, h4⟩
    · intro n
      obtain ⟨hh, ho⟩ := (s.dev.msixWrite (.table v w) x.toNat).sendPending_effect
      have ht := (s.dev.msixWrite (.table v w) x.toNat).touches_sendPending
      refine ⟨_, exec_msixUnmask_write hc, ⟨ht.mem, ht.cores⟩, ht.job, fun i => ?_, ?_, ?_⟩
      · rw [hh]
        exact s.dev.msixWord_msixWrite v w x.toNat i
      · rw [hh]
        rfl
      · rw [ho, hh]
        rfl
    · obtain ⟨-, hbit⟩ := sumBy_bits (fun j => s.dev.host.pendingVec.contains (32 * w.toNat + j)) 32
      refine ⟨_, exec_msixUnmask_read hc, fun j => (hbit j).trans ?_⟩
      rw [Bool.eq_iff_iff, Bool.and_eq_true, decide_eq_true_eq, decide_eq_true_eq, List.contains_iff_mem]
    · obtain ⟨hh, ho⟩ := s.dev.sendPending_effect
      have ht := s.dev.touches_sendPending
      exact ⟨_, exec_msixUnmask_write hc, ⟨ht.mem, ht.cores⟩, ht.job, (congrArg HostIf.msix hh :)⟩
    · intro noted
      refine ⟨?_, fun o => ?_⟩
      · have h := s.dev.touches_readNoted how addr.toNat
        obtain ⟨hfail, -⟩ := s.dev.readNoted_effect how addr.toNat
        split
        · next hr => exact ⟨_, exec_completion_restore hc hr, ⟨h.mem, h.cores⟩, h.job, hfail, rfl⟩
        · next hr => exact exec_completion_none hr
      · have hcounted : s.dev.ReadIdle o.toNat → if s.dev.readLate o.toNat addr.toNat then
            ∃ t, exec (.completionTimeout how addr (some o)) s = .next { s with dev := t } ∧ kept t ∧ noted t ∧ t.job = d.job ∧
              t.tier = d.tier ∧ t.snap = d.snap ∧
              (if how = .timeout then t.running .hostifCplTimeout = min (d.running .hostifCplTimeout + 1) 65535
                else t.running .hostifCplError = min (d.running .hostifCplError + 1) 65535)
            else exec (.completionTimeout how addr (some o)) s = .next s := by
          intro hidle
          have hexec := exec_completion_counted (how := how) (addr := addr) hc hidle
          have h := s.dev.touches_readNoted how addr.toNat
          obtain ⟨hfail, hrun⟩ := s.dev.readNoted_effect how addr.toNat
          split
          · next hl =>
            rw [if_pos hl] at hexec
            exact ⟨_, hexec, ⟨h.mem, h.cores⟩, hfail, h.job, h.tier, h.snap, hrun⟩
          · next hl =>
            rw [if_neg hl] at hexec
            exact hexec
        intro late counted
        split
        · next hx => exact hcounted fun x hx' => nomatch hx.symm.trans hx'
        · next x hx =>
          intro images
          refine ⟨fun hm hi => hcounted fun y hy => ?_, fun hw => ?_⟩
          · obtain rfl := Option.some.inj (hx.symm.trans hy)
            exact ⟨hm, hi⟩
          · have h := s.dev.touches_readNoted how addr.toNat
            obtain ⟨hfail, -⟩ := s.dev.readNoted_effect how addr.toNat
            by_cases hp : how = .poisoned
            · subst hp
              exact ⟨_, exec_completion_poisoned hc hx hw, ⟨h.mem, h.cores⟩, hfail, fun _ => ⟨h.job, h.tier, h.snap⟩,
                fun hn => absurd rfl hn⟩
            · obtain ⟨hmem, hcores, hread, hmove, himg, hlost⟩ := (s.dev.readNoted how addr.toNat).readsLost_effect s.clk o.toNat images
              have hexec := exec_completion_lost (addr := addr) hc hp hx hw
              have hlost' := hlost.sent s.dev.sec.reports s.clk
              have hlast := ((s.dev.readNoted how addr.toNat).readsLost s.clk o.toNat images).touches_sendRaised s.dev.sec.reports s.clk
              refine ⟨_, hexec, ⟨?_, ?_⟩, ?_, fun hn => absurd hn hp, fun _ => ⟨?_, fun hm => ?_, fun hf ha => ?_⟩⟩
              · rw [hlast.mem, hmem, h.mem]
              · rw [hlast.cores, hcores, h.cores]
              · exact ((congrArg HostIf.failedRead hlast.host).trans hread).trans hfail
              · rw [hlast.tier]
                exact hmove
              · obtain ⟨h1, h2⟩ := himg hm
                exact ⟨by rw [hlast.snap, h1], by rw [hlast.rd _, h2]⟩
              · exact hlost'.faults (by rw [h.job]; exact hf) (by rw [h.job]; exact ha)

end Sys2Proof
end
